-- ==== Sys2Proof/Word.lean ====
section
/-!
DEFINITION. Word.lean: the bit-vector widths of the manual and their plainest arithmetic (R6, R7).
-/
namespace Sys2Proof

/-- One byte (R7). -/
abbrev Byte := BitVec 8
/-- One 64-bit quantity: a register word, a fabric time. -/
abbrev Word := BitVec 64
/-- A 60-bit fabric physical address, kept in 64 bits: end-point ID in [59:48], offset in [47:0]. -/
abbrev Fpa := BitVec 64

/-- Bits `[lo + w - 1 : lo]` of `n` as a number (R6). -/
def bits (n lo w : Nat) : Nat := (n >>> lo) % 2 ^ w

/-- Bit `i` of `n` (R6). -/
def bitAt (n i : Nat) : Bool := n.testBit i

/-- A number from fields `(lo, width, value)` laid at their bit positions (R6, R7). -/
def packBits : List (Nat × Nat × Nat) → Nat
  | [] => 0
  | (lo, w, v) :: rest => ((v % 2 ^ w) <<< lo) ||| packBits rest

/-- 1 for true, 0 for false. -/
def b2n (b : Bool) : Nat := if b then 1 else 0

end Sys2Proof
end

