-- ==== Sys2Proof/Types.lean ====
section
/-!
DEFINITION. Types.lean: the things that commands carry and the state holds: packets (R49 to R72), link frames (R85),
writers of registers (R32, R360) and the other operand types of the commands.
-/
namespace Sys2Proof

/-- The packet kinds of R57. -/
inductive Kind where
  | read | write | readBulk | writeBulk | readTile | writeTile | atomic | signal | own | gather
  | swarmTile | swarmAck | regRead | regWrite | ctrCtl
  | completion | readResp | tileResp | atomicResp
  | notice | swarmResult | swarmCtl | stepCtl
deriving DecidableEq, Repr

/-- The KIND code of a kind (R57). -/
def Kind.code : Kind → BitVec 6
  | .read => 0x01 | .write => 0x02 | .readBulk => 0x03 | .writeBulk => 0x04 | .readTile => 0x05
  | .writeTile => 0x06 | .atomic => 0x07 | .signal => 0x08 | .own => 0x09 | .gather => 0x0A
  | .swarmTile => 0x0B | .swarmAck => 0x0C | .regRead => 0x0D | .regWrite => 0x0E | .ctrCtl => 0x0F
  | .completion => 0x20 | .readResp => 0x21 | .tileResp => 0x22 | .atomicResp => 0x23
  | .notice => 0x30 | .swarmResult => 0x31 | .swarmCtl => 0x32 | .stepCtl => 0x33

/-- Every kind of R57, in code order. -/
def Kind.all : List Kind :=
  [.read, .write, .readBulk, .writeBulk, .readTile, .writeTile, .atomic, .signal, .own, .gather,
   .swarmTile, .swarmAck, .regRead, .regWrite, .ctrCtl, .completion, .readResp, .tileResp, .atomicResp,
   .notice, .swarmResult, .swarmCtl, .stepCtl]

/-- The kind a KIND value names; none for a reserved value (R57). -/
def Kind.ofCode (c : BitVec 6) : Option Kind := Kind.all.find? (fun k => k.code == c)

/-- The common header and kind extension of R49, reserved fields included (R50 covers them by HCRC). -/
structure Hdr where
  dest : BitVec 12 := 0
  src : BitVec 12 := 0
  tenant : BitVec 12 := 0
  kind : BitVec 6 := 0
  tc : BitVec 3 := 0
  rly : BitVec 2 := 0
  plane : BitVec 5 := 0
  len : BitVec 10 := 0
  tag : BitVec 16 := 0
  seq : BitVec 16 := 0
  epoch : BitVec 8 := 0
  xgen : BitVec 8 := 0
  attr : BitVec 8 := 0
  addr : BitVec 60 := 0
  stamp : BitVec 24 := 0
  hcrc : BitVec 16 := 0
  via : BitVec 12 := 0
  /-- Reserved bits [63:62], [127:120], [191:188] and [255:244], in that order from bit 0. -/
  rsv : BitVec 26 := 0
  ext : BitVec 256 := 0
deriving DecidableEq, Repr

/-- A packet: its header flit, its payload bytes (whole flits of 64 B) and whether its tail is STOMP (R86); and the 64-bit ingress
stamp that travels with it inside the device (R96), 0 on a link and before its ingress. -/
structure Packet where
  h : Hdr
  payload : List Byte := []
  stomp : Bool := false
  stamp : Nat := 0
deriving DecidableEq, Repr

/-- A link frame of R85: eight flit slots and the trailer. -/
structure Frame where
  tagGcm : BitVec 128
  ctrLo : BitVec 40
  keySeq : BitVec 8
  codes : BitVec 32
  credit : BitVec 32
  slots : List (BitVec 512)
deriving DecidableEq, Repr

/-- Who writes a register (R32, R360 REG_ACCESS DETAIL_B): the manager function, another function of a host port,
the fabric manager through fabric register access, or firmware. -/
inductive Writer where
  | manager
  | host (port func : Nat)
  | fabric
  | firmware
deriving DecidableEq, Repr

/-- The writer code of REG_ACCESS DETAIL_B (R360). -/
def Writer.code : Writer → Nat
  | .manager => 0
  | .host _ _ => 1
  | .fabric => 2
  | .firmware => 3

/-- R32: the writers that may write FUNC_CMD and the registers marked "Writable by the writers of R32 only". -/
def Writer.privileged : Writer → Bool
  | .host _ _ => false
  | _ => true

/-- The parts of configuration space that the manual gives an effect or a value (R299, R310, R312, R318, R307, R281). -/
inductive CfgOp where
  /-- Vendor and Device ID; Class Code and Revision ID; TotalVFs. -/
  | readId
  | readClass
  | readTotalVfs
  /-- Interrupt Pin; MSI-X Table Size; First VF Offset and VF Stride; System Page Sizes; Max Payload Size supported, in bytes (R298, R307). -/
  | readInterruptPin
  | readTableSize
  | readVfPlaces
  | readPageSizes
  | readMaxPayload
  /-- A BAR register, or a VF BAR of the PF, as it reads with all ones written to it (R300). -/
  | sizeBar (vf : Bool) (i : Fin 6)
  /-- Whether the port implements, and advertises, the feature in row `row` of the table of R298, the row of the rates being row 0. -/
  | readFeature (row : Fin 22)
  /-- The AER status words, read, and cleared where the written bits are 1. -/
  | readAer (uncorrectable : Bool)
  | clearAer (uncorrectable : Bool) (v : BitVec 32)
  /-- Any other register. -/
  | readOther (off : BitVec 12)
  | writeOther (off : BitVec 12) (v : BitVec 32)
  /-- Memory Space Enable and Bus Master Enable. -/
  | command (memory bus : Bool)
  /-- The power state: D3hot, or D0. -/
  | power (d3hot : Bool)
  /-- MSI-X Enable and Function Mask. -/
  | msix (enable mask : Bool)
  /-- ATS enable. -/
  | ats (enable : Bool)
  /-- AtomicOp Requester Enable. -/
  | atomics (enable : Bool)
  /-- ARI Capable Hierarchy. -/
  | ari (enable : Bool)
  /-- NumVFs and VF Enable. -/
  | vfs (n : BitVec 16) (enable : Bool)
  /-- Initiate Function Level Reset. -/
  | flr
deriving DecidableEq, Repr

/-- Where an SPDM request comes from (R390, R396): the MCTP endpoint, or the DOE mailbox of a function of a host port. -/
inductive SpdmWay where
  | mctp
  | doe (port : Fin 2) (func : BitVec 8)
deriving DecidableEq, Repr

/-- An access of a firmware processor (R382): to a BAR0 offset or an address of HBM. -/
inductive ProcAccess where
  | reg (write : Bool) (offset : BitVec 25)
  | hbm (write : Bool) (addr : BitVec 41)
deriving DecidableEq, Repr

/-- The bindings on which the MCTP endpoint is reachable (R396). -/
inductive MctpBinding where
  | i3c
  | smbus
  | pcieVdm
deriving DecidableEq, Repr

/-- The blocks with a snapshot request and done pair (R15, R412). -/
inductive SnapBlk where
  | time
  | switch
  | cluster (n : Fin 48)
  | endpoint (e : Fin 2)
  | hostport
  | port (p : Fin 128)
  | hbm (m : Fin 24)
deriving DecidableEq, Repr

/-- A program of the program directory (R143): the default stock cell image, of which the manual gives the modules but no words, with its
version and claims (log entry 60), or the bytes of an image file (R141). -/
inductive Program where
  | stock (version gpio timers : Nat)
  | file (bytes : List Byte)
deriving DecidableEq, Repr

/-- What a loaded cell image or finish module says of itself (R141, R142): version, the default stock modules or another program,
GPIO and timer claims, and START, BOUND and MAX_EMITS of each PRESENT entry by event kind. -/
structure ImageInfo where
  version : Nat := 0
  stock : Bool := true
  gpio : Nat := 0
  timers : Nat := 0
  /-- The SHAKE256 digest of the module (R391). -/
  digest : List Byte := []
  codeBytes : Nat := 0
  /-- Initial local data, from 0x0_0100 on. -/
  data : List Byte := []
  entries : List (Nat × Nat × Nat × Nat) := []
  /-- PROFILE is tenant, and the words of CODE, where the image's contents are known (R141, R157). -/
  tenant : Bool := false
  words : List (BitVec 32) := []
deriving DecidableEq, Repr

/-- A register field in BAR0 (R10, R25): its bit address (8 times the byte offset of its register, plus its low bit),
its width, its value after cold reset (R13), and whether it wraps when it counts (R15). -/
structure Fld where
  key : Nat
  width : Nat
  reset : Nat
  wraps : Bool
deriving DecidableEq, Repr

/-- The access codes of R10. -/
inductive Access where
  | ro | rw | wo | w1c | w1s | rc | rwg
deriving DecidableEq, Repr

/-- The values that a field accepts: any, a range of R8, a list, or all but the reserved encodings of R12. -/
inductive Allow where
  | any
  | range (lo hi : Nat)
  | oneOf (l : List Nat)
  | reserved (l : List Nat)
deriving DecidableEq, Repr

/-- The state in which a field is writable (R10, R439): always; while the owning function is STOPPED; while every PORT
is STOPPED or RETIRED; and the guards that single registers name. -/
inductive Guard where
  | always
  | func (f : List Nat → Nat)
  | portsStopped
  | partFree
  | clustersStopped
  | ctx
  | exportEntry
  | window
  | vfMap
  | errRing

/-- One field row of a register map. -/
structure FieldDesc where
  name : String
  lo : Nat
  width : Nat
  access : Access
  reset : List Nat → Nat
  wraps : Bool
  allow : Allow
  guard : Guard

/-- One register of a register map: its offset in BAR0, its dimensions (first index, count, stride), its width in bits,
whether it is read through its block's snapshot pair (R15), and its fields. -/
structure RegDesc where
  name : String
  base : Nat
  dims : List (Nat × Nat × Nat)
  width : Nat
  snap : Bool
  fields : List FieldDesc

end Sys2Proof
end

