-- ==== Sys2Proof/Syntax.lean ====
section
/-!
DEFINITION. Syntax.lean: the commands of the block, one constructor per row of spec/opcode_table.json, with the operands
that say which instance of the event or operation it is.
-/
namespace Sys2Proof

/-- The commands: the rows of the opcode table, in its order. -/
inductive Instr where
  /-- REGISTER_WRITE (R10). -/
  | registerWrite (w : Writer) (off : BitVec 26) (bytes : BitVec 4) (v : BitVec 64)
  /-- READ_CLEAR (R10). -/
  | readClear (w : Writer) (off : BitVec 26) (bytes : BitVec 4)
  /-- FUNC_CMD_NONE (R30). -/
  | funcCmdNone (w : Writer) (n : BitVec 9) (seq : BitVec 8)
  /-- FUNC_START (R29). -/
  | funcStart (w : Writer) (n : BitVec 9) (seq : BitVec 8) (img : Program)
  /-- FUNC_STOP (R29). -/
  | funcStop (w : Writer) (n : BitVec 9) (seq : BitVec 8)
  /-- FUNC_ACK_HOST (R29). -/
  | funcAckHost (w : Writer) (n : BitVec 9) (seq : BitVec 8)
  /-- FUNC_RETIRE (R29). -/
  | funcRetire (w : Writer) (n : BitVec 9) (seq : BitVec 8)
  /-- FUNC_REINSTATE (R29). -/
  | funcReinstate (w : Writer) (n : BitVec 9) (seq : BitVec 8)
  /-- DRY_FIT_COMPLETE (R34). -/
  | dryFitComplete (n : BitVec 9) (hw : Bool) (bad : Bool) (a : BitVec 23)
  /-- DRY_FIT_TIMEOUT (R29). -/
  | dryFitTimeout (n : BitVec 9)
  /-- STOP_DRAIN_COMPLETE (R29). -/
  | stopDrainComplete (n : BitVec 9)
  /-- STOP_DRAIN_LIMIT (R29). -/
  | stopDrainLimit (n : BitVec 9)
  /-- FUNC_PERMANENT_FAULT (R29). -/
  | funcPermanentFault (n : BitVec 9)
  /-- PACKET_INGRESS (R107). -/
  | packetIngress (inp : Fin 232) (hi : Bool) (p : Packet) (complete : Bool) (miss : Bool)
  /-- INGRESS_HOLD_RELEASE (R124). -/
  | ingressHoldRelease (inp : Fin 232) (hi : Bool) (tc : BitVec 3)
  /-- EXTENT_LOOKUP_RETURN (R108). -/
  | extentLookupReturn (id : Nat) (readError : Bool)
  /-- SPILL_REFILL (R122). -/
  | spillRefill (inp : Fin 232) (out : Fin 360) (tc : BitVec 3) (multicast : Bool) (bad : Bool)
  /-- SCHEDULER_MATCHING (R117). -/
  | schedulerMatching (ecc : Option (Nat × BitVec 32) := none)
  /-- PORT_DOWN (R125). -/
  | portDown (h : BitVec 8)
  /-- FLUSH_NOTICE_SEND (R125). -/
  | flushNoticeSend
  /-- ROUTE_WRITE (R115). -/
  | routeWrite (w : Writer) (d : BitVec 12) (bundle : BitVec 8) (valid : Bool) (announce : Bool)
  /-- BUNDLE_WRITE (R115). -/
  | bundleWrite (b : BitVec 8) (v : BitVec 64)
  /-- LINK_FRAME_RECEIVE (R88). -/
  | linkFrameReceive (h : BitVec 8) (f : Frame) (miss : Bool)
  /-- LINK_AUTH_LIMIT (R344). -/
  | linkAuthLimit (h : BitVec 8)
  /-- LINK_FRAME_SEND (R85). -/
  | linkFrameSend (h : BitVec 8)
  /-- READ (R47). -/
  | read (x : Fin 4) (p : Packet)
  /-- WRITE (R48). -/
  | write (x : Fin 4) (p : Packet)
  /-- READ_BULK (R62). -/
  | readBulk (x : Fin 4) (p : Packet)
  /-- WRITE_BULK (R76). -/
  | writeBulk (x : Fin 4) (p : Packet)
  /-- READ_TILE (R77). -/
  | readTile (x : Fin 4) (p : Packet)
  /-- WRITE_TILE (R76). -/
  | writeTile (x : Fin 4) (p : Packet)
  /-- ATOMIC (R63). -/
  | atomic (x : Fin 4) (p : Packet)
  /-- SIGNAL (R264). -/
  | signal (x : Fin 4) (p : Packet)
  /-- REG_READ (R61). -/
  | regRead (p : Packet)
  /-- REG_WRITE (R61). -/
  | regWrite (p : Packet)
  /-- MAP_READ (R369). -/
  | mapRead (p : Packet)
  /-- CTR_REQUEST (R262). -/
  | ctrRequest (x : Fin 4) (p : Packet)
  /-- CTR_GRANT (R262). -/
  | ctrGrant (x : Fin 4) (p : Packet)
  /-- CTR_RETURN (R262). -/
  | ctrReturn (x : Fin 4) (p : Packet)
  /-- CTR_REFUSE (R262). -/
  | ctrRefuse (x : Fin 4) (p : Packet)
  /-- COMPLETION (R259). -/
  | completion (e : Fin 2) (p : Packet)
  /-- READ_RESP (R259). -/
  | readResp (e : Fin 2) (p : Packet)
  /-- TILE_RESP (R77). -/
  | tileResp (e : Fin 2) (p : Packet)
  /-- ATOMIC_RESP (R259). -/
  | atomicResp (e : Fin 2) (p : Packet)
  /-- NOTICE_UNREACHABLE (R271). -/
  | noticeUnreachable (e : Fin 2) (p : Packet)
  /-- NOTICE_PORT_DOWN (R83). -/
  | noticePortDown (e : Fin 2) (p : Packet)
  /-- NOTICE_MEMBER_LOST (R215). -/
  | noticeMemberLost (e : Fin 2) (p : Packet)
  /-- NOTICE_TAKEOVER (R358). -/
  | noticeTakeover (e : Fin 2) (p : Packet)
  /-- STEP_CTL_ABORT (R272). -/
  | stepCtlAbort (e : Fin 2) (p : Packet)
  /-- SWARM_RESULT_RECEIVE (R219). -/
  | swarmResultReceive (e : Fin 2) (p : Packet)
  /-- SWARM_CREDIT_RECEIVE (R204). -/
  | swarmCreditReceive (e : Fin 2) (p : Packet)
  /-- SWARM_ABORT_APPLY (R213). -/
  | swarmAbortApply (e : Fin 2) (p : Packet)
  /-- TICK_START (R90). -/
  | tickStart
  /-- TIME_WORD_SEND (R92). -/
  | timeWordSend (h : BitVec 8)
  /-- TIME_LCB_RECEIVE (R92). -/
  | timeLcbReceive (h : BitVec 8) (lcb : BitVec 256)
  /-- TIME_REFERENCE_LOSS (R93). -/
  | timeReferenceLoss
  /-- HOLDOVER_EXPIRED (R93). -/
  | holdoverExpired
  /-- TIME_SRC_WRITE (R93). -/
  | timeSrcWrite (w : Writer) (src : BitVec 2)
  /-- REACQUIRE (R93). -/
  | reacquire
  /-- TICK_IN_EDGE (R91). `lost`: edges have been lost in the crossing (R414). -/
  | tickInEdge (lost : Bool := false)
  /-- GTIMER_FIRE (R99). -/
  | gtimerFire (k : Fin 32)
  /-- SNAPSHOT_REQ (R412). -/
  | snapshotReq (b : SnapBlk)
  /-- SNAPSHOT_DONE (R412). -/
  | snapshotDone (b : SnapBlk)
  /-- JIG_STAGE_WRITE (R105). -/
  | jigStageWrite (w : Writer) (j : BitVec 12) (k : Fin 4) (v : BitVec 64)
  /-- JIG_COMMIT (R105). -/
  | jigCommit (w : Writer) (target : BitVec 52)
  /-- JIG_VALIDATION_DONE (R105). -/
  | jigValidationDone
  /-- JIG_TABLE_SWAP (R105). -/
  | jigTableSwap
  /-- JIG_STAGE_REFILL_DONE (R105). -/
  | jigStageRefillDone
  /-- CELL_INIT (R142). -/
  | cellInit (l : Fin 6144)
  /-- CELL_TICK (R134). -/
  | cellTick (l : Fin 6144)
  /-- CELL_TIMER (R142). -/
  | cellTimer (l : Fin 6144) (k : Fin 32)
  /-- HOMED_REQ (R220). -/
  | homedReq (p : Packet) (ecc : Option (BitVec 23) := none)
  /-- RESPONSE (R228). -/
  | response (p : Packet)
  /-- ONWARD_ATTEMPT_TIMEOUT (R228). -/
  | onwardAttemptTimeout (l : Fin 6144) (tag : BitVec 16)
  /-- LEDGER_ENTRY_EXPIRE (R232). -/
  | ledgerEntryExpire (l : Fin 6144) (way : BitVec 9)
  /-- ATOMIC_RESPONSE_EXPIRE (R229). -/
  | atomicResponseExpire
  /-- GATHER (R239). -/
  | gather (p : Packet)
  /-- OWN_QUERY (R295). -/
  | ownQuery (p : Packet) (ecc : Option (BitVec 23) := none)
  /-- OWN_ACQUIRE (R295). -/
  | ownAcquire (p : Packet) (ecc : Option (BitVec 23) := none)
  /-- OWN_RELEASE (R295). -/
  | ownRelease (p : Packet) (ecc : Option (BitVec 23) := none)
  /-- OWN_PUBLISH (R295). -/
  | ownPublish (p : Packet) (ecc : Option (BitVec 23) := none)
  /-- HEADER_COPY (R372). -/
  | headerCopy (n : Nat)
  /-- SWARM_TILE (R206). -/
  | swarmTile (p : Packet)
  /-- SWARM_ACK (R209). -/
  | swarmAck (p : Packet)
  /-- SWARM_RESEND (R209). -/
  | swarmResend (p : Packet)
  /-- SWARM_CREDIT_REQ (R202). -/
  | swarmCreditReq (p : Packet)
  /-- SWARM_ABORT_REQ (R212). -/
  | swarmAbortReq (p : Packet)
  /-- SWARM_ABORT_SEEN (R214). -/
  | swarmAbortSeen (p : Packet)
  /-- SWARM_ABORT_RELAY (R200). -/
  | swarmAbortRelay (p : Packet)
  /-- SWARM_ABORT_OP (R211). -/
  | swarmAbortOp (w : Writer) (k : BitVec 8)
  /-- SWARM_CREDIT_WINDOW (R205). -/
  | swarmCreditWindow
  /-- SWARM_ADMISSION (R203). -/
  | swarmAdmission
  /-- SWARM_DEADLINE_TIMEOUT (R210). -/
  | swarmDeadlineTimeout (k : BitVec 8) (hi : Bool) (j : BitVec 18)
  /-- SWARM_RESULT_RESEND (R209). -/
  | swarmResultResend (k : BitVec 8) (hi : Bool) (j : BitVec 18)
  /-- SWARM_ABORT_RESEND (R212). -/
  | swarmAbortResend (k : BitVec 8) (op : BitVec 32)
  /-- SWARM_ABORT_RESEND_LIMIT (R202). -/
  | swarmAbortResendLimit (k : BitVec 8) (op : BitVec 32)
  /-- SWARM_CREDIT_REQ_REPEAT (R219). -/
  | swarmCreditReqRepeat (did : Nat)
  /-- CELL_WATCHDOG (R140). -/
  | cellWatchdog (l : Fin 6144)
  /-- CELL_CE (R148). -/
  | cellCe (n : Fin 48) (c : Fin 132)
  /-- CELL_CE_LIMIT (R148). -/
  | cellCeLimit (n : Fin 48) (c : Fin 132)
  /-- CELL_UE (R148). -/
  | cellUe (n : Fin 48) (c : Fin 132) (cause : BitVec 4) (detail : BitVec 48)
  /-- SUDDEN_SWAP_COMPLETE (R151). -/
  | suddenSwapComplete (l : Fin 6144) (ecc : Option (BitVec 23) := none)
  /-- PHYS_CELL_RETIRE (R149). -/
  | physCellRetire (w : Writer) (n : Fin 48) (c : Fin 132)
  /-- MIGRATION_COMPLETE (R150). -/
  | migrationComplete (l : Fin 6144)
  /-- PHYS_CELL_REINSTATE (R149). -/
  | physCellReinstate (w : Writer) (n : Fin 48) (c : Fin 132)
  /-- CELL_TEST_DONE (R149). -/
  | cellTestDone (n : Fin 48) (c : Fin 132) (pass : Bool)
  /-- SPARE_PERIODIC_TEST (R149). -/
  | sparePeriodicTest (n : Fin 48) (c : Fin 132) (pass : Bool)
  /-- MEMORY_ACCESS_COMPLETE (R169). -/
  | memoryAccessComplete (l : Fin 6144) (n : BitVec 5)
  /-- ADD (R172). -/
  | add (l : Fin 6144) (rd : Fin 32) (ra : Fin 32) (rb : Fin 32)
  /-- SUB (R172). -/
  | sub (l : Fin 6144) (rd : Fin 32) (ra : Fin 32) (rb : Fin 32)
  /-- AND (R172). -/
  | andR (l : Fin 6144) (rd : Fin 32) (ra : Fin 32) (rb : Fin 32)
  /-- OR (R172). -/
  | orR (l : Fin 6144) (rd : Fin 32) (ra : Fin 32) (rb : Fin 32)
  /-- XOR (R172). -/
  | xorR (l : Fin 6144) (rd : Fin 32) (ra : Fin 32) (rb : Fin 32)
  /-- SLL (R172). -/
  | sll (l : Fin 6144) (rd : Fin 32) (ra : Fin 32) (rb : Fin 32)
  /-- SRL (R172). -/
  | srl (l : Fin 6144) (rd : Fin 32) (ra : Fin 32) (rb : Fin 32)
  /-- SRA (R172). -/
  | sra (l : Fin 6144) (rd : Fin 32) (ra : Fin 32) (rb : Fin 32)
  /-- MUL (R172). -/
  | mul (l : Fin 6144) (rd : Fin 32) (ra : Fin 32) (rb : Fin 32)
  /-- MULHU (R172). -/
  | mulhu (l : Fin 6144) (rd : Fin 32) (ra : Fin 32) (rb : Fin 32)
  /-- MIN (R172). -/
  | minR (l : Fin 6144) (rd : Fin 32) (ra : Fin 32) (rb : Fin 32)
  /-- MAX (R172). -/
  | maxR (l : Fin 6144) (rd : Fin 32) (ra : Fin 32) (rb : Fin 32)
  /-- MINU (R172). -/
  | minu (l : Fin 6144) (rd : Fin 32) (ra : Fin 32) (rb : Fin 32)
  /-- MAXU (R172). -/
  | maxu (l : Fin 6144) (rd : Fin 32) (ra : Fin 32) (rb : Fin 32)
  /-- SLT (R172). -/
  | slt (l : Fin 6144) (rd : Fin 32) (ra : Fin 32) (rb : Fin 32)
  /-- SLTU (R172). -/
  | sltu (l : Fin 6144) (rd : Fin 32) (ra : Fin 32) (rb : Fin 32)
  /-- CRC (R172). -/
  | crc (l : Fin 6144) (rd : Fin 32) (ra : Fin 32) (rb : Fin 32)
  /-- CRCB (R172). -/
  | crcb (l : Fin 6144) (rd : Fin 32) (ra : Fin 32) (rb : Fin 32)
  /-- ADDI (R172). -/
  | addi (l : Fin 6144) (rd : Fin 32) (ra : Fin 32) (imm : BitVec 16)
  /-- ANDI (R172). -/
  | andi (l : Fin 6144) (rd : Fin 32) (ra : Fin 32) (imm : BitVec 16)
  /-- ORI (R172). -/
  | ori (l : Fin 6144) (rd : Fin 32) (ra : Fin 32) (imm : BitVec 16)
  /-- XORI (R172). -/
  | xori (l : Fin 6144) (rd : Fin 32) (ra : Fin 32) (imm : BitVec 16)
  /-- SLLI (R172). -/
  | slli (l : Fin 6144) (rd : Fin 32) (ra : Fin 32) (sh : BitVec 6)
  /-- SRLI (R172). -/
  | srli (l : Fin 6144) (rd : Fin 32) (ra : Fin 32) (sh : BitVec 6)
  /-- SRAI (R172). -/
  | srai (l : Fin 6144) (rd : Fin 32) (ra : Fin 32) (sh : BitVec 6)
  /-- LUI (R172). -/
  | lui (l : Fin 6144) (rd : Fin 32) (imm : BitVec 16) (sh : Fin 3)
  /-- SETFMT (R172). -/
  | setfmt (l : Fin 6144) (f : BitVec 4)
  /-- SETRND (R172). -/
  | setrnd (l : Fin 6144) (v : BitVec 2)
  /-- RDCTL (R172). -/
  | rdctl (l : Fin 6144) (rd : Fin 32)
  /-- WRCTL (R172). -/
  | wrctl (l : Fin 6144) (ra : Fin 32)
  /-- BEQ (R172). -/
  | beq (l : Fin 6144) (ra : Fin 32) (rb : Fin 32) (off : BitVec 15)
  /-- BNE (R172). -/
  | bne (l : Fin 6144) (ra : Fin 32) (rb : Fin 32) (off : BitVec 15)
  /-- BLT (R172). -/
  | blt (l : Fin 6144) (ra : Fin 32) (rb : Fin 32) (off : BitVec 15)
  /-- BGE (R172). -/
  | bge (l : Fin 6144) (ra : Fin 32) (rb : Fin 32) (off : BitVec 15)
  /-- BLTU (R172). -/
  | bltu (l : Fin 6144) (ra : Fin 32) (rb : Fin 32) (off : BitVec 15)
  /-- BGEU (R172). -/
  | bgeu (l : Fin 6144) (ra : Fin 32) (rb : Fin 32) (off : BitVec 15)
  /-- BR (R172). -/
  | br (l : Fin 6144) (off : BitVec 15)
  /-- BP (R172). -/
  | bp (l : Fin 6144) (pa : Fin 8) (neg : Bool) (off : BitVec 15)
  /-- CALL (R162). -/
  | call (l : Fin 6144) (off : BitVec 16)
  /-- RET (R162). -/
  | ret (l : Fin 6144)
  /-- JT (R163). -/
  | jt (l : Fin 6144) (ra : Fin 32) (table : List (BitVec 32))
  /-- LOOP (R161). -/
  | loopR (l : Fin 6144) (reg : Option (Fin 32)) (count : BitVec 13) (ix : Fin 32) (body : BitVec 16)
  /-- LEND (R161). -/
  | lend (l : Fin 6144)
  /-- FIN (R167). -/
  | fin (l : Fin 6144) (ra : Fin 32) (th : Fin 4)
  /-- END (R165). -/
  | endR (l : Fin 6144)
  /-- TRAP (R166). -/
  | trap (l : Fin 6144) (imm : BitVec 16)
  /-- LD8U (R172). -/
  | ld8u (l : Fin 6144) (rd : Fin 32) (ra : Fin 32) (imm : BitVec 16)
  /-- LD16U (R172). -/
  | ld16u (l : Fin 6144) (rd : Fin 32) (ra : Fin 32) (imm : BitVec 16)
  /-- LD32U (R172). -/
  | ld32u (l : Fin 6144) (rd : Fin 32) (ra : Fin 32) (imm : BitVec 16)
  /-- LD64 (R172). -/
  | ld64 (l : Fin 6144) (rd : Fin 32) (ra : Fin 32) (imm : BitVec 16)
  /-- ST8 (R172). -/
  | st8 (l : Fin 6144) (rd : Fin 32) (ra : Fin 32) (imm : BitVec 16)
  /-- ST16 (R172). -/
  | st16 (l : Fin 6144) (rd : Fin 32) (ra : Fin 32) (imm : BitVec 16)
  /-- ST32 (R172). -/
  | st32 (l : Fin 6144) (rd : Fin 32) (ra : Fin 32) (imm : BitVec 16)
  /-- ST64 (R172). -/
  | st64 (l : Fin 6144) (rd : Fin 32) (ra : Fin 32) (imm : BitVec 16)
  /-- VLD (R172). -/
  | vld (l : Fin 6144) (vd : Fin 16) (ra : Fin 32) (ri : Fin 32) (sc : BitVec 2) (disp : BitVec 10)
  /-- VST (R172). -/
  | vst (l : Fin 6144) (vd : Fin 16) (ra : Fin 32) (ri : Fin 32) (sc : BitVec 2) (disp : BitVec 10)
  /-- SLD (R172). -/
  | sld (l : Fin 6144) (rd : Fin 32) (ra : Fin 32) (imm : BitVec 16)
  /-- SST (R172). -/
  | sst (l : Fin 6144) (rd : Fin 32) (ra : Fin 32) (imm : BitVec 16)
  /-- SAMO_ADD (R171). -/
  | samoAdd (l : Fin 6144) (rd : Fin 32) (ra : Fin 32) (rb : Fin 32)
  /-- SAMO_SWAP (R171). -/
  | samoSwap (l : Fin 6144) (rd : Fin 32) (ra : Fin 32) (rb : Fin 32)
  /-- SAMO_CAS (R171). -/
  | samoCas (l : Fin 6144) (rd : Fin 32) (ra : Fin 32) (rb : Fin 32)
  /-- SAMO_MAX (R171). -/
  | samoMax (l : Fin 6144) (rd : Fin 32) (ra : Fin 32) (rb : Fin 32)
  /-- FENCE (R171). -/
  | fence (l : Fin 6144)
  /-- HLD (R168). -/
  | hld (l : Fin 6144) (rl : Fin 32) (rh : Fin 32) (nm1 : BitVec 6) (disp : BitVec 10)
  /-- HST (R168). -/
  | hst (l : Fin 6144) (rl : Fin 32) (rh : Fin 32) (nm1 : BitVec 6) (disp : BitVec 10)
  /-- WAIT (R169). -/
  | waitR (l : Fin 6144) (mask : BitVec 2)
  /-- PAND (R172). -/
  | pand (l : Fin 6144) (pd : Fin 8) (pa : Fin 8) (pb : Fin 8)
  /-- POR (R172). -/
  | por (l : Fin 6144) (pd : Fin 8) (pa : Fin 8) (pb : Fin 8)
  /-- PXOR (R172). -/
  | pxor (l : Fin 6144) (pd : Fin 8) (pa : Fin 8) (pb : Fin 8)
  /-- PNOT (R172). -/
  | pnot (l : Fin 6144) (pd : Fin 8) (pa : Fin 8)
  /-- PFROMS (R172). -/
  | pfroms (l : Fin 6144) (pd : Fin 8) (sa : Fin 32)
  /-- SFROMP (R172). -/
  | sfromp (l : Fin 6144) (sd : Fin 32) (pa : Fin 8)
  /-- PCNT (R172). -/
  | pcnt (l : Fin 6144) (sd : Fin 32) (pa : Fin 8)
  /-- VADD (R173). -/
  | vadd (l : Fin 6144) (vd : Fin 16) (va : Fin 16) (vb : Fin 16) (pg : Fin 8) (zm : Bool) (w : Bool)
  /-- VSUB (R173). -/
  | vsub (l : Fin 6144) (vd : Fin 16) (va : Fin 16) (vb : Fin 16) (pg : Fin 8) (zm : Bool) (w : Bool)
  /-- VMUL (R173). -/
  | vmul (l : Fin 6144) (vd : Fin 16) (va : Fin 16) (vb : Fin 16) (pg : Fin 8) (zm : Bool) (w : Bool)
  /-- VFMA (R173). -/
  | vfma (l : Fin 6144) (vd : Fin 16) (va : Fin 16) (vb : Fin 16) (vc : Fin 16) (pg : Fin 8) (zm : Bool) (w : Bool)
  /-- VFMS (R173). -/
  | vfms (l : Fin 6144) (vd : Fin 16) (va : Fin 16) (vb : Fin 16) (vc : Fin 16) (pg : Fin 8) (zm : Bool) (w : Bool)
  /-- VMAX (R187). -/
  | vmax (l : Fin 6144) (vd : Fin 16) (va : Fin 16) (vb : Fin 16) (pg : Fin 8) (zm : Bool) (w : Bool)
  /-- VMIN (R187). -/
  | vmin (l : Fin 6144) (vd : Fin 16) (va : Fin 16) (vb : Fin 16) (pg : Fin 8) (zm : Bool) (w : Bool)
  /-- VABS (R187). -/
  | vabs (l : Fin 6144) (vd : Fin 16) (va : Fin 16) (pg : Fin 8) (zm : Bool) (w : Bool)
  /-- VNEG (R187). -/
  | vneg (l : Fin 6144) (vd : Fin 16) (va : Fin 16) (pg : Fin 8) (zm : Bool) (w : Bool)
  /-- VRCP (R187). -/
  | vrcp (l : Fin 6144) (vd : Fin 16) (va : Fin 16) (pg : Fin 8) (zm : Bool) (w : Bool)
  /-- VRSQRT (R187). -/
  | vrsqrt (l : Fin 6144) (vd : Fin 16) (va : Fin 16) (pg : Fin 8) (zm : Bool) (w : Bool)
  /-- VAND (R173). -/
  | vand (l : Fin 6144) (vd : Fin 16) (va : Fin 16) (vb : Fin 16) (pg : Fin 8) (zm : Bool)
  /-- VOR (R173). -/
  | vor (l : Fin 6144) (vd : Fin 16) (va : Fin 16) (vb : Fin 16) (pg : Fin 8) (zm : Bool)
  /-- VXOR (R173). -/
  | vxor (l : Fin 6144) (vd : Fin 16) (va : Fin 16) (vb : Fin 16) (pg : Fin 8) (zm : Bool)
  /-- VSEL (R173). -/
  | vsel (l : Fin 6144) (vd : Fin 16) (va : Fin 16) (vb : Fin 16) (pg : Fin 8) (w : Bool)
  /-- VCVTW (R173). -/
  | vcvtw (l : Fin 6144) (vd : Fin 16) (va : Fin 16) (part : BitVec 4) (pg : Fin 8) (zm : Bool)
  /-- VNRW (R173). -/
  | vnrw (l : Fin 6144) (vd : Fin 16) (va : Fin 16) (vb : Fin 16) (half : BitVec 4) (pg : Fin 8) (zm : Bool)
  /-- VI2F (R186). -/
  | vi2f (l : Fin 6144) (vd : Fin 16) (va : Fin 16) (pg : Fin 8) (zm : Bool)
  /-- VF2I (R186). -/
  | vf2i (l : Fin 6144) (vd : Fin 16) (va : Fin 16) (pg : Fin 8) (zm : Bool)
  /-- VCMP_EQ (R173). -/
  | vcmpEq (l : Fin 6144) (pd : Fin 8) (va : Fin 16) (vb : Fin 16) (pg : Fin 8) (zm : Bool) (w : Bool)
  /-- VCMP_LT (R173). -/
  | vcmpLt (l : Fin 6144) (pd : Fin 8) (va : Fin 16) (vb : Fin 16) (pg : Fin 8) (zm : Bool) (w : Bool)
  /-- VCMP_LE (R173). -/
  | vcmpLe (l : Fin 6144) (pd : Fin 8) (va : Fin 16) (vb : Fin 16) (pg : Fin 8) (zm : Bool) (w : Bool)
  /-- VCMP_UNORD (R173). -/
  | vcmpUnord (l : Fin 6144) (pd : Fin 8) (va : Fin 16) (vb : Fin 16) (pg : Fin 8) (zm : Bool) (w : Bool)
  /-- VMOV (R173). -/
  | vmov (l : Fin 6144) (vd : Fin 16) (va : Fin 16)
  /-- VBCAST (R173). -/
  | vbcast (l : Fin 6144) (vd : Fin 16) (sa : Fin 32) (imm : BitVec 6) (w : Bool)
  /-- VEXT (R173). -/
  | vext (l : Fin 6144) (sa : Fin 32) (va : Fin 16) (imm : BitVec 6) (w : Bool)
  /-- VINS (R173). -/
  | vins (l : Fin 6144) (vd : Fin 16) (sa : Fin 32) (imm : BitVec 6) (w : Bool)
  /-- TLD (R174). -/
  | tld (l : Fin 6144) (vd : Fin 16) (th : Fin 4) (sa : Fin 32) (imm : BitVec 6)
  /-- TST (R174). -/
  | tst (l : Fin 6144) (vd : Fin 16) (th : Fin 4) (sa : Fin 32) (imm : BitVec 6)
  /-- VMXU (R174). -/
  | vmxu (l : Fin 6144) (vd : Fin 16) (th : Fin 4) (sa : Fin 32) (imm : BitVec 6)
  /-- VMXP (R190). -/
  | vmxp (l : Fin 6144) (vd : Fin 16) (th : Fin 4) (sa : Fin 32)
  /-- TADD (R174). -/
  | tadd (l : Fin 6144) (td : Fin 4) (ts : Fin 4)
  /-- TMULS (R174). -/
  | tmuls (l : Fin 6144) (td : Fin 4) (sa : Fin 32)
  /-- TZERO (R174). -/
  | tzero (l : Fin 6144) (td : Fin 4)
  /-- TCOPY (R174). -/
  | tcopy (l : Fin 6144) (td : Fin 4) (ts : Fin 4)
  /-- TCRC (R174). -/
  | tcrc (l : Fin 6144) (rd : Fin 32) (td : Fin 4)
  /-- TALLOC (R156). -/
  | talloc (l : Fin 6144) (td : Fin 4)
  /-- TFREE (R156). -/
  | tfree (l : Fin 6144) (td : Fin 4)
  /-- EMIT (R175). -/
  | emit (l : Fin 6144) (rh : Fin 32) (rp : Fin 32)
  /-- EMITT (R175). -/
  | emitt (l : Fin 6144) (rh : Fin 32) (th : Fin 4)
  /-- RDSYS (R175). -/
  | rdsys (l : Fin 6144) (rd : Fin 32) (aux : BitVec 5)
  /-- GPIOW (R175). -/
  | gpiow (l : Fin 6144) (ra : Fin 32) (rb : Fin 32)
  /-- GPIOR (R175). -/
  | gpior (l : Fin 6144) (rd : Fin 32) (ra : Fin 32)
  /-- CNTRD (R175). -/
  | cntrd (l : Fin 6144) (rd : Fin 32) (ra : Fin 32)
  /-- DOORBELL_WRITE (R246). -/
  | doorbellWrite (port : Fin 2) (func : BitVec 8) (page : BitVec 12) (off : BitVec 12) (v : BitVec 32)
  /-- DESC_READ (R249). -/
  | descRead (e : Fin 2)
  /-- DESC_WRITE (R249). -/
  | descWrite (e : Fin 2)
  /-- DESC_READ_TILE (R248). -/
  | descReadTile (e : Fin 2)
  /-- DESC_WRITE_TILE (R248). -/
  | descWriteTile (e : Fin 2)
  /-- DESC_ATOMIC (R248). -/
  | descAtomic (e : Fin 2)
  /-- DESC_OWN (R248). -/
  | descOwn (e : Fin 2)
  /-- DESC_GATHER (R248). -/
  | descGather (e : Fin 2)
  /-- DESC_SWARM (R248). -/
  | descSwarm (e : Fin 2)
  /-- DESC_FLUSH (R267). -/
  | descFlush (e : Fin 2)
  /-- DESC_NOP (R248). -/
  | descNop (e : Fin 2)
  /-- DESC_UNSUPPORTED (R248). -/
  | descUnsupported (e : Fin 2)
  /-- DESCRIPTOR_COMPLETE (R250). -/
  | descriptorComplete (id : Nat)
  /-- REQUEST_ATTEMPT_TIMEOUT (R271). -/
  | requestAttemptTimeout (id : Nat)
  /-- SEQ_SKIP_WAIT_EXPIRE (R256). -/
  | seqSkipWaitExpire (e : Fin 2) (src : BitVec 12) (tc : BitVec 3)
  /-- SEQ_RECORD_EXPIRE (R258). -/
  | seqRecordExpire (e : Fin 2) (src : BitVec 12) (tc : BitVec 3)
  /-- PLANE_BAR_EXPIRE (R258). -/
  | planeBarExpire (e : Fin 2) (dest : BitVec 12)
  /-- PAIR_PLANE_RESET (R255). -/
  | pairPlaneReset (c : BitVec 12) (dest : BitVec 12)
  /-- WRITE_COMPLETION_RELEASE (R260). -/
  | writeCompletionRelease (id : Nat)
  /-- CTR_HOLD_EXPIRE (R261). -/
  | ctrHoldExpire (e : Fin 2) (k : BitVec 10)
  /-- CTR_REQUEST_RETRY (R262). -/
  | ctrRequestRetry (e : Fin 2) (dest : BitVec 12)
  /-- CTR_CREDIT_UNUSED (R262). -/
  | ctrCreditUnused (e : Fin 2) (dest : BitVec 12) (ctr : BitVec 10)
  /-- CTR_GRANT_IDLE (R262). -/
  | ctrGrantIdle (e : Fin 2) (k : BitVec 10)
  /-- WC_HOLD_EXPIRE (R268). -/
  | wcHoldExpire (e : Fin 2)
  /-- TORN_RETRY (R269). -/
  | tornRetry (id : Nat)
  /-- EQ_MOD_TIMER (R306). -/
  | eqModTimer (c : BitVec 12)
  /-- CTX_ENABLE (R305). -/
  | ctxEnable (w : Writer) (c : BitVec 12)
  /-- CTX_DISABLE (R315). -/
  | ctxDisable (w : Writer) (c : BitVec 12)
  /-- SEG_INVAL_CMD (R280). -/
  | segInvalCmd (w : Writer) (c : BitVec 12) (all : Bool) (seq : BitVec 8)
  /-- SEG_INVAL_DONE (R280). -/
  | segInvalDone
  /-- ATS_INVALIDATE (R282). -/
  | atsInvalidate (port : Fin 2) (func : BitVec 8) (tag : Nat) (va : Nat) (size : Nat)
  /-- ATS_TRANSLATION_COMPLETE (R281). -/
  | atsTranslationComplete (port : Fin 2) (func : BitVec 8) (va : Nat) (size : Nat) (pa : Nat) (r : Bool) (wr : Bool)
  /-- HOST_DMA_COMPLETE (R281). -/
  | hostDmaComplete (tag : Nat) (status : Nat) (data : List Byte)
  /-- EXT_CMD_WRITE (R284). -/
  | extCmdWrite (w : Writer) (index : BitVec 18)
  /-- EXT_CMD_REVOKE (R291). -/
  | extCmdRevoke (w : Writer) (index : BitVec 18)
  /-- EXT_CMD_READ (R284). -/
  | extCmdRead (w : Writer) (index : BitVec 18)
  /-- EXT_CMD_DONE (R284). -/
  | extCmdDone
  /-- EXTENT_DRAIN_TIMEOUT (R291). -/
  | extentDrainTimeout (index : BitVec 18)
  /-- EXPORT_WRITE (R287). -/
  | exportWrite (w : Writer) (e : Fin 2) (k : BitVec 12) (v : BitVec 128)
  /-- NUMVFS_WRITE (R299). -/
  | numvfsWrite (port : Fin 2) (n : BitVec 16) (enable : Bool)
  /-- VF_ENABLE_CLEAR (R305). -/
  | vfEnableClear (port : Fin 2) (n : BitVec 16) (enable : Bool)
  /-- FLR (R312). -/
  | flr (port : Fin 2) (func : BitVec 8)
  /-- FLR_TAG_RELEASE (R313). -/
  | flrTagRelease
  /-- WINDOW_STORE (R303). -/
  | windowStore (port : Fin 2) (func : BitVec 8) (k : Fin 16) (off : BitVec 32) (data : List Byte)
  /-- WINDOW_LOAD (R303). -/
  | windowLoad (port : Fin 2) (func : BitVec 8) (k : Fin 16) (off : BitVec 32) (len : Nat) (tag : Nat)
  /-- WINDOW_READ_TIMEOUT (R304). -/
  | windowReadTimeout (id : Nat)
  /-- MSIX_UNMASK (R307). -/
  | msixUnmask (port : Fin 2) (func : BitVec 8) (vector : BitVec 11)
  /-- HANDOVER (R310). -/
  | handover (w : Writer)
  /-- HANDOVER_AUTO (R310). -/
  | handoverAuto
  /-- PERST_ASSERT (R315). -/
  | perstAssert (port : Fin 2)
  /-- HOST_LINK_DOWN (R315). -/
  | hostLinkDown (port : Fin 2)
  /-- PCIE_AER_ERROR (R349). -/
  | pcieAerError (port : Fin 2) (func : BitVec 8) (uncorrectable : Bool) (status : BitVec 32)
  /-- CONF_START (R319). -/
  | confStart (port : Fin 2) (func : BitVec 8)
  /-- CONF_REKEY (R320). -/
  | confRekey (port : Fin 2) (func : BitVec 8)
  /-- CONF_END (R319). -/
  | confEnd (port : Fin 2) (func : BitVec 8)
  /-- CONF_QUERY (R319). -/
  | confQuery (port : Fin 2) (func : BitVec 8)
  /-- SPDM_SESSION_END (R319). -/
  | spdmSessionEnd (port : Fin 2) (func : BitVec 8)
  /-- LINK_TRAINING_START (R332). -/
  | linkTrainingStart (h : BitVec 8) (mask : BitVec 8)
  /-- LINK_TRAINED (R332). -/
  | linkTrained (h : BitVec 8) (good : BitVec 8)
  /-- LINK_TRAINING_TIMEOUT (R332). -/
  | linkTrainingTimeout (h : BitVec 8)
  /-- KEYING_OFFER (R399). -/
  | keyingOffer (h : BitVec 8) (f : Frame)
  /-- LINK_KEYED (R332). -/
  | linkKeyed (h : BitVec 8)
  /-- LINK_KEYING_TIMEOUT (R332). -/
  | linkKeyingTimeout (h : BitVec 8)
  /-- LINK_RETRY_TIMER (R337). `mask`: the pairs of the port that have signal. -/
  | linkRetryTimer (h : BitVec 8) (mask : BitVec 8 := 0xFF)
  /-- ALIGNMENT_MARKER (R327). -/
  | alignmentMarker (p : Fin 128) (l : Fin 8) (idx : BitVec 3) (port : BitVec 7) (sender : BitVec 12) (skew : BitVec 10)
  /-- LCB_EMPTY (R328). -/
  | lcbEmpty (h : BitVec 8) (lcb : BitVec 256)
  /-- LCB_WIDTH_REQ (R333). -/
  | lcbWidthReq (h : BitVec 8) (lcb : BitVec 256)
  /-- LCB_WIDTH_ACK (R333). -/
  | lcbWidthAck (h : BitVec 8) (lcb : BitVec 256)
  /-- WIDTH_REQ_TIMEOUT (R333). -/
  | widthReqTimeout (h : BitVec 8)
  /-- WIDTH_CHANGE (R333). -/
  | widthChange (h : BitVec 8)
  /-- WIDTH_CHANGE_RESUME (R333). -/
  | widthChangeResume (h : BitVec 8)
  /-- LANE_LOS (R335). `trips`: the detector trips; else it finds signal again. -/
  | laneLos (p : Fin 128) (l : Fin 8) (trips : Bool := true)
  /-- LANE_LOL (R335). `trips`: the detector trips; else it finds lock again. -/
  | laneLol (p : Fin 128) (l : Fin 8) (trips : Bool := true)
  /-- LANE_UCW (R336). -/
  | laneUcw (p : Fin 128) (l : Fin 8)
  /-- LANE_SER_WINDOW (R336). `wrong`: pattern bits that the checker of TEST found wrong. -/
  | laneSerWindow (p : Fin 128) (l : Fin 8) (corrected : BitVec 48) (received : BitVec 48) (wrong : BitVec 48 := 0)
  /-- LANE_RETRAIN_DONE (R336). -/
  | laneRetrainDone (p : Fin 128) (l : Fin 8)
  /-- LANE_RETRAIN_FAIL (R336). -/
  | laneRetrainFail (p : Fin 128) (l : Fin 8)
  /-- LANE_RETRAIN_LIMIT (R336). -/
  | laneRetrainLimit (p : Fin 128) (l : Fin 8)
  /-- LANE_RETIRE (R338). -/
  | laneRetire (w : Writer) (p : Fin 128) (l : Fin 8)
  /-- LANE_REINSTATE (R338). -/
  | laneReinstate (w : Writer) (p : Fin 128) (l : Fin 8)
  /-- LINK_SIGNAL_LOSS (R337). -/
  | linkSignalLoss (h : BitVec 8) (los : BitVec 8 := 0xFF)
  /-- REKEY_DUE (R343). -/
  | rekeyDue (h : BitVec 8) (receive : Bool)
  /-- NEXT_KEY_INSTALLED (R343). -/
  | nextKeyInstalled (h : BitVec 8)
  /-- KEY_EXPIRED (R343). -/
  | keyExpired (h : BitVec 8)
  /-- EYE_SCAN_START (R340). -/
  | eyeScanStart (k : Fin 64)
  /-- EYE_SCAN_DONE (R340). -/
  | eyeScanDone (k : Fin 64) (errors : BitVec 32)
  /-- CMIS_MODULE_INIT (R341). -/
  | cmisModuleInit (h : BitVec 8)
  /-- CMIS_MODULE_READY (R341). `rev`: the CMIS revision, its digits as nibbles. -/
  | cmisModuleReady (h : BitVec 8) (code : BitVec 3) (app : BitVec 4) (rev : BitVec 8 := 0x40)
  /-- CMIS_DATAPATH_ACTIVATED (R341). -/
  | cmisDatapathActivated (h : BitVec 8)
  /-- CMIS_STEP_TIMEOUT (R341). -/
  | cmisStepTimeout (h : BitVec 8)
  /-- CMIS_POLL (R341). -/
  | cmisPoll (p : Fin 128) (ok : Bool) (code : BitVec 3) (fault : Bool) (alarm : Bool) (warning : Bool) (temp : BitVec 16) (los : BitVec 8) (lol : BitVec 8)
  /-- HBM_UE_REREAD (R351). -/
  | hbmUeReread (m : Fin 24) (k : Fin 64) (g : BitVec 35) (good : Bool)
  /-- HBM_INTERFACE_ERROR (R351). -/
  | hbmInterfaceError (m : Fin 24) (k : Fin 64)
  /-- HBM_RETRAIN_DONE (R351). -/
  | hbmRetrainDone (m : Fin 24) (k : Fin 64)
  /-- HBM_RETRAIN_FAIL (R351). -/
  | hbmRetrainFail (m : Fin 24) (k : Fin 64)
  /-- HBM_CE_LIMIT (R351). -/
  | hbmCeLimit (m : Fin 24) (k : Fin 64)
  /-- HBM_UE_LIMIT (R351). -/
  | hbmUeLimit (m : Fin 24) (k : Fin 64)
  /-- PC_RETIRE (R353). -/
  | pcRetire (w : Writer) (m : Fin 24) (k : Fin 64)
  /-- PC_MIGRATION_DONE (R353). -/
  | pcMigrationDone (m : Fin 24) (k : Fin 64)
  /-- PC_REINSTATE (R354). -/
  | pcReinstate (w : Writer) (m : Fin 24) (k : Fin 64)
  /-- PC_TEST_DONE (R354). -/
  | pcTestDone (m : Fin 24) (k : Fin 64) (pass : Bool)
  /-- STEP_CMD (R355). -/
  | stepCmd (w : Writer) (tenant : BitVec 12) (epoch : BitVec 8)
  /-- STEP_REBROADCAST (R355). -/
  | stepRebroadcast
  /-- D2D_ERROR (R349). -/
  | d2dError (die : Fin 9)
  /-- D2D_RETRAIN_END (R349). -/
  | d2dRetrainEnd (die : Fin 9) (ok : Bool)
  /-- ERROR_COALESCE_TICK (R362). `lost`: bit i says that error events of crossing i of R414 have been lost. -/
  | errorCoalesceTick (lost : BitVec 5 := 0)
  /-- ERR_RING_HEAD_WRITE (R363). -/
  | errRingHeadWrite (w : Writer) (head : BitVec 32)
  /-- ERR_RING_ENABLE (R363). -/
  | errRingEnable (on : Bool)
  /-- ERR_RING_MSI_TIMER (R363). -/
  | errRingMsiTimer
  /-- LOG_CLEAR (R365). -/
  | logClear
  /-- ERR_SRC_CLEAR (R362). -/
  | errSrcClear (n : BitVec 9)
  /-- CDC_RESYNC (R415). -/
  | cdcResync
  /-- TELEMETRY_MAP (R366). -/
  | telemetryMap
  /-- MIRROR_ENTRY_EXPIRE (R374). -/
  | mirrorEntryExpire (key : BitVec 36)
  /-- TEL_CNT_SAMPLE (R375). -/
  | telCntSample
  /-- PROC_FAULT (R377). `access` is the access that the checker judges. -/
  | procFault (i : Fin 52) (violation : Bool) (addr : BitVec 64) (access : Option ProcAccess := none)
  /-- PROC_WATCHDOG (R377). -/
  | procWatchdog (i : Fin 52)
  /-- PROC_RESTART_DONE (R377). -/
  | procRestartDone (i : Fin 52)
  /-- PWR_GOOD_FALL (R416). -/
  | pwrGoodFall
  /-- RESET_N_ASSERT (R416). -/
  | resetNAssert
  /-- RESET_N_RELEASE (R385). -/
  | resetNRelease (bootSrc : BitVec 2) (mgr : Bool)
  /-- RESET_CMD_WARM (R417). -/
  | resetCmdWarm (w : Writer)
  /-- BOOT_STAGE_COMPLETE (R385). -/
  | bootStageComplete (ok : Bool) (detail : BitVec 32)
  /-- REQUEST_UPDATE (R393). -/
  | requestUpdate (comp : BitVec 16)
  /-- FIRMWARE_DATA_TRANSFER (R393). -/
  | firmwareDataTransfer (off : BitVec 32) (data : List Byte)
  /-- VERIFY_COMPLETE (R393). -/
  | verifyComplete
  /-- ACTIVATE_FIRMWARE (R393). -/
  | activateFirmware (selfContained : Bool)
  /-- MOLT (R394). -/
  | molt (w : Writer)
  /-- MOLT_STEP_DONE (R394). `core` is a cluster control core that has moved. -/
  | moltStepDone (ok : Bool) (core : Option (Fin 48) := none)
  /-- LEAF_BLOCK_RESERVE (R389). -/
  | leafBlockReserve
  /-- NEGOTIATE_ALGORITHMS (R390). -/
  | negotiateAlgorithms (v : SpdmWay) (extended : Bool)
  /-- GET_CERTIFICATE (R390). -/
  | getCertificate (v : SpdmWay) (slot : BitVec 4) (off : BitVec 16) (len : BitVec 16)
  /-- CHALLENGE (R390). -/
  | challenge (v : SpdmWay) (slot : BitVec 4) (nonce : List Byte)
  /-- GET_MEASUREMENTS (R391). -/
  | getMeasurements (v : SpdmWay) (index : BitVec 8) (signed : Bool) (nonce : List Byte)
  /-- KEY_EXCHANGE (R390). -/
  | keyExchange (v : SpdmWay) (slot : BitVec 4) (nonce : List Byte) (secret : List Byte)
  /-- LINK_KEY_SET (R398). -/
  | linkKeySet (v : SpdmWay) (gen : BitVec 32) (key : BitVec 256)
  /-- LINK_KEY_DROP (R398). -/
  | linkKeyDrop (v : SpdmWay) (gen : BitVec 32)
  /-- LINK_KEY_QUERY (R398). -/
  | linkKeyQuery (v : SpdmWay)
  /-- PLATFORM_EVENT_MESSAGE (R397). -/
  | platformEventMessage
  /-- SET_RACK_CAP (R410). -/
  | setRackCap (watts : BitVec 16)
  /-- POWER_LOOP_STEP (R405). -/
  | powerLoopStep (p : BitVec 12)
  /-- CLAMP_ASSERT (R408). -/
  | clampAssert
  /-- CLAMP_RELEASE (R408). -/
  | clampRelease
  /-- JUNCTION_SAMPLE (R407). -/
  | junctionSample (l : List (Option Int))
  /-- PEAK_CURRENT (R409). -/
  | peakCurrent (rail : Fin 9) (amps : BitVec 16)
  /-- RAIL_WINDOW (R409). -/
  | railWindow (rail : Fin 9) (mv : BitVec 16)
  /-- HOST_LINK_UP (R310). -/
  | hostLinkUp (port : Fin 2) (rate : Fin 6) (width : BitVec 5) (flit : Bool)
  /-- CONFIGURATION_REQUEST (R419). -/
  | configurationRequest (port : Fin 2) (func : BitVec 8) (op : CfgOp)
  /-- PCIE_READ_COMPLETION (R281). -/
  | pcieReadCompletion (tag : Nat) (status : Nat) (data : List Byte)
  /-- FLR_COMPLETE (R312). -/
  | flrComplete (port : Fin 2) (func : BitVec 8)
  /-- RAIL_WINDOW_RETURN (R409). -/
  | railWindowReturn (rail : Fin 9)
  /-- GPIO_INPUT_EDGE (R414). -/
  | gpioInputEdge (pin : Fin 16) (high : Bool) (lost : Bool)
  /-- MCTP_EID_ASSIGN (R396). -/
  | mctpEidAssign (eid : BitVec 8) (binding : MctpBinding := .i3c)
  /-- LINK_UP_SEND_HOLD_EXPIRE (R258). -/
  | linkUpSendHoldExpire (e : Fin 2)
deriving DecidableEq, Repr

end Sys2Proof
end

