-- ==== Sys2Proof/Decode.lean ====
section
/-!
DEFINITION. Decode.lean: the commands that a word spells. No row of spec/opcode_table.json gives its command any bits, so no
word spells one (log entry 2); the encodings of the spec that carry fields (packets, frames, descriptors, Milys words) are read
where they are used.
-/
namespace Sys2Proof

/-- The command that a word of `nbits` bits spells: none, since no row of the table gives bits. -/
def decodeTableWord (_nbits _w : Nat) : Option Instr := none

end Sys2Proof
end

