-- ==== Sys2Proof/Config.lean ====
section
/-!
DEFINITION. Config.lean: what an implementation fixes and the manual leaves open. Every constant here has no body: no proof
can see a value of it, so a statement holds whatever it is. The assumption log names each.
-/
namespace Sys2Proof.Config

/-- The free value number `k` of a run: what the hardware delivers where the manual states no value. A step that
needs one takes it at the state's counter of free values and advances that counter. -/
opaque freeValue : Nat → Nat

/-- AES-256-GCM sealing: key, nonce, additional data and plaintext to ciphertext and 16-byte tag (R85, R321). -/
opaque gcmSeal : Nat → Nat → List Byte → List Byte → List Byte × Nat

/-- AES-256-GCM opening: key, nonce, additional data, ciphertext and tag to the plaintext, or none where the tag fails. -/
opaque gcmOpen : Nat → Nat → List Byte → List Byte → Nat → Option (List Byte)

/-- HKDF-Extract with SHA-384: salt and input key material to the secret (R399). -/
opaque hkdfExtract : List Byte → List Byte → List Byte

/-- HKDF-Expand: hash size in bits, secret, label bytes and output length in bytes to the key material (R320, R342). -/
opaque hkdfExpand : Nat → List Byte → List Byte → Nat → List Byte

/-- A digest of a byte string: SHA-384 for `384`, SHAKE256 for `256` (R383, R391). -/
opaque digest : Nat → List Byte → List Byte

/-- Whether a hash-based signature verifies: public key, message and signature (R383). -/
opaque sigVerify : List Byte → List Byte → List Byte → Bool

/-- The identity signature made with one leaf: key, leaf index and message to the bytes after the index (R388, R389). -/
opaque identitySign : List Byte → Nat → List Byte → List Byte

/-- Bytes that the manual names and does not give: 1 the Folrin firmware public key (R384),
2 the mask ROM, 3 the serial number of the leaf certificate (R391), 4 the seed that the PUF
gives (R387). -/
opaque firmwareBytes : Nat → List Byte

/-- Where in its region of the flash the identity certificate chain begins, and its length in bytes (R378, R388). -/
opaque chainPlace : Nat × Nat

/-- The power controller's model (R405), refitted after each step: the power in W that it gives a throttle level, as the model stands
at the numbered use of it. -/
opaque levelPower : Nat → Nat → Nat

/-- The 256-bit pattern of the alignment marker of a physical lane index (R327). -/
opaque markerPattern : Nat → Nat

/-- The bytes of a record that the manual places in device HBM without its layout, from the numbers that it holds (R197). -/
opaque recordBytes : List Nat → List Byte

end Sys2Proof.Config
end

