-- ==== Sys2Proof/Machine/Bits.lean ====
section
/-!
DEFINITION. Machine/Bits.lean: byte order (R7), the two checks of the fabric protocol (R51, R74), sparse tables in one
canonical form, and the bit layout of the packet header (R49) and of its extensions (R62 to R72).
-/
namespace Sys2Proof

/-! ### Bytes -/

/-- The `n` bytes of `v`, least significant first (R7). -/
def leBytes : Nat → Nat → List Byte
  | 0, _ => []
  | n + 1, v => BitVec.ofNat 8 v :: leBytes n (v / 256)

/-- The number whose little-endian bytes are `l` (R7). -/
def ofLeBytes : List Byte → Nat
  | [] => 0
  | b :: l => b.toNat + 256 * ofLeBytes l

/-- `l` cut or padded with zero bytes to exactly `n` bytes. -/
def padTo (n : Nat) (l : List Byte) : List Byte :=
  l.take n ++ List.replicate (n - l.length) 0

/-- `l` padded with zero bytes to whole flits of 64 B (R47). -/
def padFlits (l : List Byte) : List Byte :=
  padTo ((l.length + 63) / 64 * 64) l

/-- Bytes `[off, off + n)` of `l`, zero past its end. -/
def sliceBytes (l : List Byte) (off n : Nat) : List Byte :=
  padTo n (l.drop off)

/-- `l` with the bytes from `off` on replaced by `new`, its length kept. -/
def putBytes (l : List Byte) (off : Nat) (new : List Byte) : List Byte :=
  (l.take off ++ new ++ l.drop (off + new.length)).take l.length

/-! ### Checks -/

/-- One bit of the reflected CRC-32C division (R74). -/
def crc32cBit (c : Nat) : Nat :=
  if c % 2 = 1 then (c / 2) ^^^ 0x82F63B78 else c / 2

/-- CRC-32C over one more byte, without the final XOR (R74). -/
def crc32cByte (c : Nat) (b : Byte) : Nat :=
  Nat.repeat crc32cBit 8 (c ^^^ b.toNat)

/-- CRC-32C over `l` from the running value `c`, without the final XOR (R74). -/
def crc32cFrom (c : Nat) (l : List Byte) : Nat :=
  l.foldl crc32cByte c

/-- CRC-32C of R74: initial value and final XOR 0xFFFF_FFFF, reflected. -/
def crc32c (l : List Byte) : Nat :=
  crc32cFrom 0xFFFFFFFF l ^^^ 0xFFFFFFFF

/-- One bit of the HCRC division: CRC-16 with polynomial 0x8BB7, not reflected (R51). -/
def crc16Bit (c : Nat) : Nat :=
  if c ≥ 0x8000 then ((c * 2) ^^^ 0x8BB7) % 0x10000 else c * 2

/-- HCRC over one more byte (R51). -/
def crc16Byte (c : Nat) (b : Byte) : Nat :=
  Nat.repeat crc16Bit 8 (c ^^^ (b.toNat * 256))

/-- CRC-16 of R51 over `l`, initial value 0 and no final XOR. -/
def crc16 (l : List Byte) : Nat :=
  l.foldl crc16Byte 0

/-! ### Sparse tables: entries `(key, value)` with strictly rising keys -/

/-- The value listed for key `k`. -/
def findKey {α : Type} : List (Nat × α) → Nat → Option α
  | [], _ => none
  | (k', v) :: l, k => if k' = k then some v else findKey l k

/-- The table without key `k`. -/
def delKey {α : Type} : List (Nat × α) → Nat → List (Nat × α)
  | [], _ => []
  | (k', v) :: l, k => if k' = k then delKey l k else (k', v) :: delKey l k

/-- The table with `(k, v)` put in before the first greater key. -/
def insKey {α : Type} (k : Nat) (v : α) : List (Nat × α) → List (Nat × α)
  | [] => [(k, v)]
  | (k', v') :: l => if k < k' then (k, v) :: (k', v') :: l else (k', v') :: insKey k v l

/-- The table with `k` mapped to `v` alone. -/
def setKey {α : Type} (l : List (Nat × α)) (k : Nat) (v : α) : List (Nat × α) :=
  insKey k v (delKey l k)

/-- The table with `k` mapped to `v`, where an unlisted key stands for `d`: writing `d` removes the entry. -/
def putKey {α : Type} [DecidableEq α] (l : List (Nat × α)) (k : Nat) (d v : α) : List (Nat × α) :=
  if v = d then delKey l k else setKey l k v

/-- Strictly rising keys: the canonical order of a sparse table. -/
def sortedKeys {α : Type} : List (Nat × α) → Bool
  | [] => true
  | [_] => true
  | (a, _) :: (b, v) :: l => decide (a < b) && sortedKeys ((b, v) :: l)

/-! ### The header flit -/

/-- The 512 header bits of R49. -/
def hdrBits (h : Hdr) : Nat :=
  packBits [(0, 12, h.dest.toNat), (12, 12, h.src.toNat), (24, 12, h.tenant.toNat), (36, 6, h.kind.toNat),
    (42, 3, h.tc.toNat), (45, 2, h.rly.toNat), (47, 5, h.plane.toNat), (52, 10, h.len.toNat),
    (62, 2, h.rsv.toNat), (64, 16, h.tag.toNat), (80, 16, h.seq.toNat), (96, 8, h.epoch.toNat),
    (104, 8, h.xgen.toNat), (112, 8, h.attr.toNat), (120, 8, h.rsv.toNat / 4), (128, 60, h.addr.toNat),
    (188, 4, h.rsv.toNat / 1024), (192, 24, h.stamp.toNat), (216, 16, h.hcrc.toNat), (232, 12, h.via.toNat),
    (244, 12, h.rsv.toNat / 16384), (256, 256, h.ext.toNat)]

/-- The header whose 512 bits are `n` (R49). -/
def hdrOfBits (n : Nat) : Hdr :=
  { dest := BitVec.ofNat 12 n, src := BitVec.ofNat 12 (n >>> 12), tenant := BitVec.ofNat 12 (n >>> 24),
    kind := BitVec.ofNat 6 (n >>> 36), tc := BitVec.ofNat 3 (n >>> 42), rly := BitVec.ofNat 2 (n >>> 45),
    plane := BitVec.ofNat 5 (n >>> 47), len := BitVec.ofNat 10 (n >>> 52), tag := BitVec.ofNat 16 (n >>> 64),
    seq := BitVec.ofNat 16 (n >>> 80), epoch := BitVec.ofNat 8 (n >>> 96), xgen := BitVec.ofNat 8 (n >>> 104),
    attr := BitVec.ofNat 8 (n >>> 112), addr := BitVec.ofNat 60 (n >>> 128), stamp := BitVec.ofNat 24 (n >>> 192),
    hcrc := BitVec.ofNat 16 (n >>> 216), via := BitVec.ofNat 12 (n >>> 232),
    rsv := BitVec.ofNat 26 (packBits [(0, 2, n >>> 62), (2, 8, n >>> 120), (10, 4, n >>> 188), (14, 12, n >>> 244)]),
    ext := BitVec.ofNat 256 (n >>> 256) }

/-- The header check of R51: over the 64 header bytes with STAMP and HCRC taken as zero. -/
def hcrcOf (h : Hdr) : BitVec 16 :=
  BitVec.ofNat 16 (crc16 (leBytes 64 (hdrBits { h with stamp := 0, hcrc := 0 })))

/-- The header with its HCRC set by its sender (R51). -/
def sealHdr (h : Hdr) : Hdr := { h with hcrc := hcrcOf h }

/-- Bits `[lo + w - 1 : lo]` of the kind extension as a number. -/
def Hdr.x (h : Hdr) (lo w : Nat) : Nat := bits h.ext.toNat lo w

/-- The kind of the packet; none for a reserved KIND (R57). -/
def Hdr.k (h : Hdr) : Option Kind := Kind.ofCode h.kind

/-- The extension made of fields `(lo, width, value)`. -/
def mkExt (l : List (Nat × Nat × Nat)) : BitVec 256 := BitVec.ofNat 256 (packBits l)

/-- ATTR bits of R55. -/
def Hdr.vol (h : Hdr) : Bool := bitAt h.attr.toNat 0
/-- ATTR.ACQ (R55). -/
def Hdr.acq (h : Hdr) : Bool := bitAt h.attr.toNat 1
/-- ATTR.HOME (R55). -/
def Hdr.home (h : Hdr) : Bool := bitAt h.attr.toNat 2
/-- ATTR.COMB (R55). -/
def Hdr.comb (h : Hdr) : Bool := bitAt h.attr.toNat 3
/-- ATTR.NC (R55). -/
def Hdr.nc (h : Hdr) : Bool := bitAt h.attr.toNat 4
/-- ATTR.SIG (R55). -/
def Hdr.sig (h : Hdr) : Bool := bitAt h.attr.toNat 5
/-- ATTR.RETRY (R55). -/
def Hdr.retry (h : Hdr) : Bool := bitAt h.attr.toNat 6

/-- COOKIE, in the MEM, ATOM, SIGNAL, OWN, GATHER and RESP extensions (R62 to R67, R71). -/
def Hdr.cookie (h : Hdr) : Nat := h.x 0 32

/-- The end-point ID part of the packet's ADDR. -/
def Hdr.ep (h : Hdr) : Nat := h.addr.toNat / 2 ^ 48
/-- The offset part of the packet's ADDR. -/
def Hdr.off (h : Hdr) : Nat := h.addr.toNat % 2 ^ 48

/-- Payload flits that the packet carries. -/
def Packet.payloadFlits (p : Packet) : Nat := (p.payload.length + 63) / 64
/-- Flits of the packet: the header flit and its payload. -/
def Packet.flits (p : Packet) : Nat := 1 + p.payloadFlits

/-- Whether a kind is homed: ATOMIC, OWN, and READ with VOL or COMB (R56). -/
def Hdr.homed (h : Hdr) : Bool :=
  match h.k with
  | some .atomic => true
  | some .own => true
  | some .read => h.vol || h.comb
  | _ => false

/-- Whether a kind is a request that receives a response (R59). -/
def Kind.answered : Kind → Bool
  | .read | .write | .readBulk | .writeBulk | .readTile | .writeTile | .atomic | .signal | .own | .gather
  | .regRead | .regWrite => true
  | _ => false

/-- Whether a kind is a request kind of R59, the swarm requests included. -/
def Kind.isRequest : Kind → Bool
  | .swarmTile | .swarmAck => true
  | k => k.answered

/-- Whether a kind is a request to the switch core: KIND 0x01 to 0x0F (R113 rule 7). -/
def Kind.reqCode (k : Kind) : Bool := decide (k.code.toNat ≤ 0x0F)

/-- Whether a kind is a response (R57). -/
def Kind.isResponse : Kind → Bool
  | .completion | .readResp | .tileResp | .atomicResp => true
  | _ => false

/-- The kind of the one response a request receives (R59). -/
def Kind.respKind : Kind → Kind
  | .read | .regRead => .readResp
  | .readBulk | .readTile | .gather => .tileResp
  | .atomic | .own => .atomicResp
  | _ => .completion

/-- Whether the payload of a kind is a tile (R57); READ_RESP and TILE_RESP depend on their CCODE. -/
def Kind.carriesTile : Kind → Bool
  | .writeBulk | .writeTile | .gather | .swarmTile | .swarmResult => true
  | _ => false

/-! ### Completion codes of R82 -/

/-- CCODE OK. -/
def ccOk : Nat := 0x00
/-- CCODE POISON. -/
def ccPoison : Nat := 0x01
/-- CCODE DENIED. -/
def ccDenied : Nat := 0x02
/-- CCODE REVOKED. -/
def ccRevoked : Nat := 0x03
/-- CCODE NOT_OWNER. -/
def ccNotOwner : Nat := 0x04
/-- CCODE STALE_VERSION. -/
def ccStaleVersion : Nat := 0x05
/-- CCODE INDETERMINATE. -/
def ccIndeterminate : Nat := 0x06
/-- CCODE RETRY_STALE. -/
def ccRetryStale : Nat := 0x07
/-- CCODE STEP_ABORT. -/
def ccStepAbort : Nat := 0x08
/-- CCODE SWARM_ABORT. -/
def ccSwarmAbort : Nat := 0x09
/-- CCODE TORN. -/
def ccTorn : Nat := 0x0A
/-- CCODE CORRUPT. -/
def ccCorrupt : Nat := 0x0B
/-- CCODE UNSUPPORTED. -/
def ccUnsupported : Nat := 0x0C
/-- CCODE RETRACTED. -/
def ccRetracted : Nat := 0x0D

/-- The codes that R82 marks as a step fault. -/
def ccStepFault (c : Nat) : Bool :=
  c = ccPoison || c = ccIndeterminate || c = ccRetryStale || c = ccSwarmAbort || c = ccCorrupt || c = ccRetracted

/-! ### Tiles (R73, R74) -/

/-- Bytes of a tile: its 64 B header and 2,048 B of data. -/
def tileLen : Nat := 2112

/-- Bits `[lo + w - 1 : lo]` of the tile header. -/
def tileField (t : List Byte) (lo w : Nat) : Nat := bits (ofLeBytes (t.take 64)) lo w

/-- The tile CRC of R74: over the whole tile with bytes 0 to 3 taken as zero. -/
def tileCrc (t : List Byte) : Nat := crc32c (List.replicate 4 0 ++ (padTo tileLen t).drop 4)

/-- The CRC field of a tile matches its bytes (R74, R75). -/
def tileCrcOk (t : List Byte) : Bool := tileField t 0 32 == tileCrc t

/-- A tile from its header fields (other than CRC) and its data bytes, with the CRC of R74. -/
def mkTile (fields : List (Nat × Nat × Nat)) (data : List Byte) : List Byte :=
  let t := leBytes 64 (packBits fields) ++ padTo 2048 data
  leBytes 4 (tileCrc t) ++ t.drop 4

/-- The tile's GEN, FMT, TKIND, BLOCKS and VALID_BYTES (R73). -/
def tileGen (t : List Byte) : Nat := tileField t 32 32
/-- FMT of the tile header (R73). -/
def tileFmt (t : List Byte) : Nat := tileField t 64 4
/-- TKIND of the tile header (R73). -/
def tileKind (t : List Byte) : Nat := tileField t 68 4
/-- BLOCKS of the tile header (R73). -/
def tileBlocks (t : List Byte) : Nat := tileField t 72 8
/-- VALID_BYTES of the tile header (R73). -/
def tileValid (t : List Byte) : Nat := tileField t 80 12
/-- The 2,048 data bytes of a tile. -/
def tileData (t : List Byte) : List Byte := sliceBytes t 64 2048

/-! ### Stamps, epochs and home planes -/

/-- Stamp a precedes stamp b (R53). -/
def stampBefore (a b : BitVec 24) : Bool :=
  let d := (b - a).toNat
  1 ≤ d && d ≤ 8388608

/-- Epoch e1 is newer than e0 (R80). -/
def epochNewer (e1 e0 : Nat) : Bool :=
  let d := (e1 + 256 - e0 % 256) % 256
  1 ≤ d && d ≤ 128

/-- The planes of a 32-bit plane list, in ascending order (R79). -/
def planesOf (mask : Nat) : List Nat := (List.range 32).filter (fun p => bitAt mask p)

/-- The home plane of FPA `a` over the planes of `list` (R79). -/
def homePlane (a : Nat) (list : List Nat) : Nat :=
  let h := crc32c (leBytes 8 (a / 64))
  list.getD (h * list.length / 2 ^ 32) 0

end Sys2Proof
end

