-- ==== Sys2Proof/Machine/Reg.lean ====
section
/-! DEFINITION. Machine/Reg.lean: one name for every register field of the BAR0 register maps of spec/ (R25 block bases),
each at its bit address, with its width, its reset value and whether a counter wraps (R15). -/
namespace Sys2Proof.Machine.Reg
open Sys2Proof

/-- The TYPE code of function `n` (R28); 0 for a reserved ID. -/
def funcType (n : Nat) : Nat :=
  if n < 128 then 0 else if n < 130 then 1 else if n < 178 then 2 else if n < 202 then 3 else if n < 458 then 4
  else if n < 463 then n - 453 else 0

/-- `GLOBAL.GLOBAL_ID.PART_NUMBER`, RO (01_architecture). -/
def GLOBAL.GLOBAL_ID.PART_NUMBER : Fld := ⟨8 * (0x0) + 0, 16, 296, false⟩
/-- `GLOBAL.GLOBAL_ID.VARIANT`, RO (01_architecture). -/
def GLOBAL.GLOBAL_ID.VARIANT : Fld := ⟨8 * (0x0) + 16, 8, 36, false⟩
/-- `GLOBAL.GLOBAL_ID.STEPPING`, RO (01_architecture). -/
def GLOBAL.GLOBAL_ID.STEPPING : Fld := ⟨8 * (0x0) + 24, 8, 176, false⟩
/-- `GLOBAL.GLOBAL_ID.FUNC_COUNT`, RO (01_architecture). -/
def GLOBAL.GLOBAL_ID.FUNC_COUNT : Fld := ⟨8 * (0x0) + 32, 16, 463, false⟩
/-- `GLOBAL.PLANE_CFG.PLANE_ID`, RWG (01_architecture). -/
def GLOBAL.PLANE_CFG.PLANE_ID : Fld := ⟨8 * (0x8) + 0, 5, 0, false⟩
/-- `GLOBAL.STOP_DRAIN_LIMIT.LIMIT_US`, RW (01_architecture). -/
def GLOBAL.STOP_DRAIN_LIMIT.LIMIT_US : Fld := ⟨8 * (0x10) + 0, 24, 1000, false⟩
/-- `GLOBAL.HBM_PART.BASE`, RWG (01_architecture). -/
def GLOBAL.HBM_PART.BASE (k : Nat) : Fld := ⟨8 * (0x20 + k * 0x8) + 0, 11, [0, 256, 320, 352, 368, 376].getD k 0, false⟩
/-- `GLOBAL.HBM_PART.SIZE`, RWG (01_architecture). -/
def GLOBAL.HBM_PART.SIZE (k : Nat) : Fld := ⟨8 * (0x20 + k * 0x8) + 16, 11, [256, 64, 32, 16, 8, 1160].getD k 0, false⟩
/-- `GLOBAL.FUNC_STATUS.TYPE`, RO (01_architecture). -/
def GLOBAL.FUNC_STATUS.TYPE (n : Nat) : Fld := ⟨8 * (0x1000 + n * 0x10) + 0, 4, funcType n, false⟩
/-- `GLOBAL.FUNC_STATUS.STATE`, RO (01_architecture). -/
def GLOBAL.FUNC_STATUS.STATE (n : Nat) : Fld := ⟨8 * (0x1000 + n * 0x10) + 4, 3, 0, false⟩
/-- `GLOBAL.FUNC_STATUS.READY`, RO (01_architecture). -/
def GLOBAL.FUNC_STATUS.READY (n : Nat) : Fld := ⟨8 * (0x1000 + n * 0x10) + 7, 1, 0, false⟩
/-- `GLOBAL.FUNC_STATUS.RESULT`, RO (01_architecture). -/
def GLOBAL.FUNC_STATUS.RESULT (n : Nat) : Fld := ⟨8 * (0x1000 + n * 0x10) + 8, 4, 0, false⟩
/-- `GLOBAL.FUNC_STATUS.CONFLICT_HOLDER`, RO (01_architecture). -/
def GLOBAL.FUNC_STATUS.CONFLICT_HOLDER (n : Nat) : Fld := ⟨8 * (0x1000 + n * 0x10) + 12, 9, 0, false⟩
/-- `GLOBAL.FUNC_STATUS.CONFLICT_RES`, RO (01_architecture). -/
def GLOBAL.FUNC_STATUS.CONFLICT_RES (n : Nat) : Fld := ⟨8 * (0x1000 + n * 0x10) + 21, 11, 0, false⟩
/-- `GLOBAL.FUNC_CMD.CMD`, WO (01_architecture). -/
def GLOBAL.FUNC_CMD.CMD (n : Nat) : Fld := ⟨8 * (0x1004 + n * 0x10) + 0, 4, 0, false⟩
/-- `GLOBAL.FUNC_CMD.SEQ`, WO (01_architecture). -/
def GLOBAL.FUNC_CMD.SEQ (n : Nat) : Fld := ⟨8 * (0x1004 + n * 0x10) + 8, 8, 0, false⟩
/-- `GLOBAL.FUNC_DIAG.SEQ`, RO (01_architecture). -/
def GLOBAL.FUNC_DIAG.SEQ (n : Nat) : Fld := ⟨8 * (0x1008 + n * 0x10) + 0, 8, 0, true⟩
/-- `GLOBAL.FUNC_DIAG.CMD_REJECTED`, W1C (01_architecture). -/
def GLOBAL.FUNC_DIAG.CMD_REJECTED (n : Nat) : Fld := ⟨8 * (0x1008 + n * 0x10) + 8, 1, 0, false⟩
/-- `GLOBAL.FUNC_DIAG.STOP_FORCED`, W1C (01_architecture). -/
def GLOBAL.FUNC_DIAG.STOP_FORCED (n : Nat) : Fld := ⟨8 * (0x1008 + n * 0x10) + 9, 1, 0, false⟩
/-- `GLOBAL.FUNC_DIAG.CHANGED`, W1C (01_architecture). -/
def GLOBAL.FUNC_DIAG.CHANGED (n : Nat) : Fld := ⟨8 * (0x1008 + n * 0x10) + 10, 1, 0, false⟩
/-- `GLOBAL.FUNC_DIAG.DRYFIT_COUNT`, RO (01_architecture). -/
def GLOBAL.FUNC_DIAG.DRYFIT_COUNT (n : Nat) : Fld := ⟨8 * (0x1008 + n * 0x10) + 16, 16, 0, false⟩
/-- `GLOBAL.CLAIM.HELD`, RO (01_architecture). -/
def GLOBAL.CLAIM.HELD (k : Nat) : Fld := ⟨8 * (0x4000 + k * 0x4) + 0, 1, 0, false⟩
/-- `GLOBAL.CLAIM.HOLDER`, RO (01_architecture). -/
def GLOBAL.CLAIM.HOLDER (k : Nat) : Fld := ⟨8 * (0x4000 + k * 0x4) + 1, 9, 0, false⟩
/-- `GLOBAL.CLAIM.LAST_CONTENDER`, RO (01_architecture). -/
def GLOBAL.CLAIM.LAST_CONTENDER (k : Nat) : Fld := ⟨8 * (0x4000 + k * 0x4) + 10, 9, 0, false⟩
/-- `GLOBAL.CLAIM.CONTEST_COUNT`, RC (01_architecture). -/
def GLOBAL.CLAIM.CONTEST_COUNT (k : Nat) : Fld := ⟨8 * (0x4000 + k * 0x4) + 19, 8, 0, false⟩
/-- `TICK.TIME_CFG.TIME_SRC`, RW (03_ticks_and_jigs). -/
def TICK.TIME_CFG.TIME_SRC : Fld := ⟨8 * (0x100000) + 0, 2, 1, false⟩
/-- `TICK.TIME_CFG.REACQUIRE`, W1S (03_ticks_and_jigs). -/
def TICK.TIME_CFG.REACQUIRE : Fld := ⟨8 * (0x100000) + 2, 1, 0, false⟩
/-- `TICK.TIME_CFG.HOLDOVER_US`, RW (03_ticks_and_jigs). -/
def TICK.TIME_CFG.HOLDOVER_US : Fld := ⟨8 * (0x100000) + 16, 14, 10000, false⟩
/-- `TICK.TIME_STATUS.LOCKED`, RO (03_ticks_and_jigs). -/
def TICK.TIME_STATUS.LOCKED : Fld := ⟨8 * (0x100008) + 0, 1, 0, false⟩
/-- `TICK.TIME_STATUS.REF_OK`, RO (03_ticks_and_jigs). -/
def TICK.TIME_STATUS.REF_OK : Fld := ⟨8 * (0x100008) + 1, 4, 0, false⟩
/-- `TICK.TIME_STATUS.STEPPED`, W1C (03_ticks_and_jigs). -/
def TICK.TIME_STATUS.STEPPED : Fld := ⟨8 * (0x100008) + 5, 1, 0, false⟩
/-- `TICK.TIME_STATUS.HOLDOVER_EXPIRED`, W1C (03_ticks_and_jigs). -/
def TICK.TIME_STATUS.HOLDOVER_EXPIRED : Fld := ⟨8 * (0x100008) + 6, 1, 0, false⟩
/-- `TICK.TIME_STATUS.ALIGN_ALARM`, W1C (03_ticks_and_jigs). -/
def TICK.TIME_STATUS.ALIGN_ALARM : Fld := ⟨8 * (0x100008) + 7, 1, 0, false⟩
/-- `TICK.TIME_SNAP.REQ`, W1S (03_ticks_and_jigs). -/
def TICK.TIME_SNAP.REQ : Fld := ⟨8 * (0x100010) + 0, 1, 0, false⟩
/-- `TICK.TIME_SNAP.DONE`, RO (03_ticks_and_jigs). -/
def TICK.TIME_SNAP.DONE : Fld := ⟨8 * (0x100010) + 1, 1, 0, false⟩
/-- `TICK.TIME_SNAP.OVERRUN`, W1C (03_ticks_and_jigs). -/
def TICK.TIME_SNAP.OVERRUN : Fld := ⟨8 * (0x100010) + 2, 1, 0, false⟩
/-- `TICK.FABRIC_TIME_SNAP.TIME`, RO (03_ticks_and_jigs). -/
def TICK.FABRIC_TIME_SNAP.TIME : Fld := ⟨8 * (0x100018) + 0, 64, 0, false⟩
/-- `TICK.TIME_SNAP_INFO.OFFSET`, RO (03_ticks_and_jigs). -/
def TICK.TIME_SNAP_INFO.OFFSET : Fld := ⟨8 * (0x100020) + 0, 16, 0, false⟩
/-- `TICK.TIME_SNAP_INFO.STATE`, RO (03_ticks_and_jigs). -/
def TICK.TIME_SNAP_INFO.STATE : Fld := ⟨8 * (0x100020) + 16, 3, 0, false⟩
/-- `TICK.TIME_REF_PORTS.PORT`, RW (03_ticks_and_jigs). -/
def TICK.TIME_REF_PORTS.PORT (i : Nat) : Fld := ⟨8 * (0x100028) + (0 + 8 * i), 7, 0, false⟩
/-- `TICK.TIME_REF_PORTS.VALID`, RW (03_ticks_and_jigs). -/
def TICK.TIME_REF_PORTS.VALID (i : Nat) : Fld := ⟨8 * (0x100028) + (7 + 8 * i), 1, 0, false⟩
/-- `TICK.TICK_PIN_CFG.OUT_EN`, RW (03_ticks_and_jigs). -/
def TICK.TICK_PIN_CFG.OUT_EN : Fld := ⟨8 * (0x100030) + 0, 1, 0, false⟩
/-- `TICK.TICK_PIN_CFG.OUT_DIV`, RW (03_ticks_and_jigs). -/
def TICK.TICK_PIN_CFG.OUT_DIV : Fld := ⟨8 * (0x100030) + 1, 4, 0, false⟩
/-- `TICK.TICK_PIN_CFG.IN_EDGE_SEEN`, W1C (03_ticks_and_jigs). -/
def TICK.TICK_PIN_CFG.IN_EDGE_SEEN : Fld := ⟨8 * (0x100030) + 5, 1, 0, false⟩
/-- `TICK.LATE_WORK.LATE_COUNT`, RC (03_ticks_and_jigs). -/
def TICK.LATE_WORK.LATE_COUNT : Fld := ⟨8 * (0x100040) + 0, 16, 0, false⟩
/-- `TICK.LATE_WORK.MAX_LAG`, RC (03_ticks_and_jigs). -/
def TICK.LATE_WORK.MAX_LAG : Fld := ⟨8 * (0x100040) + 16, 16, 0, false⟩
/-- `TICK.JIG_CFG.FALLBACK_PARTS`, RWG (03_ticks_and_jigs). -/
def TICK.JIG_CFG.FALLBACK_PARTS : Fld := ⟨8 * (0x100100) + 0, 32, 0, false⟩
/-- `TICK.JIG_COMMIT.TARGET_TICK`, WO (03_ticks_and_jigs). -/
def TICK.JIG_COMMIT.TARGET_TICK : Fld := ⟨8 * (0x100108) + 0, 52, 0, false⟩
/-- `TICK.JIG_COMMIT_STATUS.STATUS`, RO (03_ticks_and_jigs). -/
def TICK.JIG_COMMIT_STATUS.STATUS : Fld := ⟨8 * (0x100110) + 0, 3, 0, false⟩
/-- `TICK.JIG_COMMIT_STATUS.CHECK`, RO (03_ticks_and_jigs). -/
def TICK.JIG_COMMIT_STATUS.CHECK : Fld := ⟨8 * (0x100110) + 3, 4, 0, false⟩
/-- `TICK.JIG_COMMIT_STATUS.ENTRY_A`, RO (03_ticks_and_jigs). -/
def TICK.JIG_COMMIT_STATUS.ENTRY_A : Fld := ⟨8 * (0x100110) + 7, 12, 0, false⟩
/-- `TICK.JIG_COMMIT_STATUS.ENTRY_B`, RO (03_ticks_and_jigs). -/
def TICK.JIG_COMMIT_STATUS.ENTRY_B : Fld := ⟨8 * (0x100110) + 19, 12, 0, false⟩
/-- `TICK.JIG_COMMIT_STATUS.SLOT`, RO (03_ticks_and_jigs). -/
def TICK.JIG_COMMIT_STATUS.SLOT : Fld := ⟨8 * (0x100110) + 31, 6, 0, false⟩
/-- `TICK.GTIMER.PERIOD`, RW (03_ticks_and_jigs). -/
def TICK.GTIMER.PERIOD (k : Nat) : Fld := ⟨8 * (0x100200 + k * 0x8) + 0, 24, 1, false⟩
/-- `TICK.GTIMER.SLOT`, RW (03_ticks_and_jigs). -/
def TICK.GTIMER.SLOT (k : Nat) : Fld := ⟨8 * (0x100200 + k * 0x8) + 24, 6, 0, false⟩
/-- `TICK.GTIMER.ENABLE`, RW (03_ticks_and_jigs). -/
def TICK.GTIMER.ENABLE (k : Nat) : Fld := ⟨8 * (0x100200 + k * 0x8) + 30, 1, 0, false⟩
/-- `TICK.GTIMER.FIRE_COUNT`, RO (03_ticks_and_jigs). -/
def TICK.GTIMER.FIRE_COUNT (k : Nat) : Fld := ⟨8 * (0x100200 + k * 0x8) + 32, 32, 0, true⟩
/-- `TICK.JIG_STAGE.IN_PORTS`, RW (03_ticks_and_jigs). -/
def TICK.JIG_STAGE.IN_PORTS (j w : Nat) : Fld := ⟨8 * (0x110000 + j * 0x20) + (0 + 64 * w), 64, 0, false⟩
/-- `TICK.JIG_STAGE.SLOT_MASK`, RW (03_ticks_and_jigs). -/
def TICK.JIG_STAGE.SLOT_MASK (j : Nat) : Fld := ⟨8 * (0x110000 + j * 0x20) + 128, 64, 0, false⟩
/-- `TICK.JIG_STAGE.VALID`, RW (03_ticks_and_jigs). -/
def TICK.JIG_STAGE.VALID (j : Nat) : Fld := ⟨8 * (0x110000 + j * 0x20) + 192, 1, 0, false⟩
/-- `TICK.JIG_STAGE.OUTPUT`, RW (03_ticks_and_jigs). -/
def TICK.JIG_STAGE.OUTPUT (j : Nat) : Fld := ⟨8 * (0x110000 + j * 0x20) + 193, 7, 0, false⟩
/-- `TICK.JIG_STAGE.KINDS`, RW (03_ticks_and_jigs). -/
def TICK.JIG_STAGE.KINDS (j : Nat) : Fld := ⟨8 * (0x110000 + j * 0x20) + 200, 3, 0, false⟩
/-- `TICK.JIG_STAGE.TENANT_ANY`, RW (03_ticks_and_jigs). -/
def TICK.JIG_STAGE.TENANT_ANY (j : Nat) : Fld := ⟨8 * (0x110000 + j * 0x20) + 203, 1, 0, false⟩
/-- `TICK.JIG_STAGE.TCS`, RW (03_ticks_and_jigs). -/
def TICK.JIG_STAGE.TCS (j : Nat) : Fld := ⟨8 * (0x110000 + j * 0x20) + 204, 8, 0, false⟩
/-- `TICK.JIG_STAGE.DEST`, RW (03_ticks_and_jigs). -/
def TICK.JIG_STAGE.DEST (j : Nat) : Fld := ⟨8 * (0x110000 + j * 0x20) + 212, 12, 0, false⟩
/-- `TICK.JIG_STAGE.DEST_MASK`, RW (03_ticks_and_jigs). -/
def TICK.JIG_STAGE.DEST_MASK (j : Nat) : Fld := ⟨8 * (0x110000 + j * 0x20) + 224, 12, 0, false⟩
/-- `TICK.JIG_STAGE.TENANT`, RW (03_ticks_and_jigs). -/
def TICK.JIG_STAGE.TENANT (j : Nat) : Fld := ⟨8 * (0x110000 + j * 0x20) + 236, 12, 0, false⟩
/-- `TICK.JIG_ACTIVE.IN_PORTS`, RO (03_ticks_and_jigs). -/
def TICK.JIG_ACTIVE.IN_PORTS (j w : Nat) : Fld := ⟨8 * (0x130000 + j * 0x20) + (0 + 64 * w), 64, 0, false⟩
/-- `TICK.JIG_ACTIVE.SLOT_MASK`, RO (03_ticks_and_jigs). -/
def TICK.JIG_ACTIVE.SLOT_MASK (j : Nat) : Fld := ⟨8 * (0x130000 + j * 0x20) + 128, 64, 0, false⟩
/-- `TICK.JIG_ACTIVE.VALID`, RO (03_ticks_and_jigs). -/
def TICK.JIG_ACTIVE.VALID (j : Nat) : Fld := ⟨8 * (0x130000 + j * 0x20) + 192, 1, 0, false⟩
/-- `TICK.JIG_ACTIVE.OUTPUT`, RO (03_ticks_and_jigs). -/
def TICK.JIG_ACTIVE.OUTPUT (j : Nat) : Fld := ⟨8 * (0x130000 + j * 0x20) + 193, 7, 0, false⟩
/-- `TICK.JIG_ACTIVE.KINDS`, RO (03_ticks_and_jigs). -/
def TICK.JIG_ACTIVE.KINDS (j : Nat) : Fld := ⟨8 * (0x130000 + j * 0x20) + 200, 3, 0, false⟩
/-- `TICK.JIG_ACTIVE.TENANT_ANY`, RO (03_ticks_and_jigs). -/
def TICK.JIG_ACTIVE.TENANT_ANY (j : Nat) : Fld := ⟨8 * (0x130000 + j * 0x20) + 203, 1, 0, false⟩
/-- `TICK.JIG_ACTIVE.TCS`, RO (03_ticks_and_jigs). -/
def TICK.JIG_ACTIVE.TCS (j : Nat) : Fld := ⟨8 * (0x130000 + j * 0x20) + 204, 8, 0, false⟩
/-- `TICK.JIG_ACTIVE.DEST`, RO (03_ticks_and_jigs). -/
def TICK.JIG_ACTIVE.DEST (j : Nat) : Fld := ⟨8 * (0x130000 + j * 0x20) + 212, 12, 0, false⟩
/-- `TICK.JIG_ACTIVE.DEST_MASK`, RO (03_ticks_and_jigs). -/
def TICK.JIG_ACTIVE.DEST_MASK (j : Nat) : Fld := ⟨8 * (0x130000 + j * 0x20) + 224, 12, 0, false⟩
/-- `TICK.JIG_ACTIVE.TENANT`, RO (03_ticks_and_jigs). -/
def TICK.JIG_ACTIVE.TENANT (j : Nat) : Fld := ⟨8 * (0x130000 + j * 0x20) + 236, 12, 0, false⟩
/-- `TICK.JIG_COUNT.JIGGED`, RC (03_ticks_and_jigs). -/
def TICK.JIG_COUNT.JIGGED (j : Nat) : Fld := ⟨8 * (0x150000 + j * 0x8) + 0, 32, 0, false⟩
/-- `TICK.JIG_COUNT.MISSED`, RC (03_ticks_and_jigs). -/
def TICK.JIG_COUNT.MISSED (j : Nat) : Fld := ⟨8 * (0x150000 + j * 0x8) + 32, 32, 0, false⟩
/-- `SWITCH.LOCAL_IDS.HOME_EP_ID`, RWG (04_switch_core). -/
def SWITCH.LOCAL_IDS.HOME_EP_ID : Fld := ⟨8 * (0x200000) + 0, 12, 0xFFD, false⟩
/-- `SWITCH.LOCAL_IDS.SERVICE_ID`, RWG (04_switch_core). -/
def SWITCH.LOCAL_IDS.SERVICE_ID : Fld := ⟨8 * (0x200000) + 16, 12, 0xFFE, false⟩
/-- `SWITCH.FM_IDS.ID`, RW (04_switch_core). -/
def SWITCH.FM_IDS.ID (k : Nat) : Fld := ⟨8 * (0x200008) + (0 + 16 * k), 12, 0, false⟩
/-- `SWITCH.FM_IDS.VALID`, RW (04_switch_core). -/
def SWITCH.FM_IDS.VALID (k : Nat) : Fld := ⟨8 * (0x200008) + (12 + 16 * k), 1, 0, false⟩
/-- `SWITCH.TC_QUANTUM.QUANTUM`, RW (04_switch_core). -/
def SWITCH.TC_QUANTUM.QUANTUM (c : Nat) : Fld := ⟨8 * (0x200010) + (0 + 8 * c), 8, 0x0410101010402000 / 2 ^ (8 * c) % 256, false⟩
/-- `SWITCH.ALPHA.ALPHA`, RW (04_switch_core). -/
def SWITCH.ALPHA.ALPHA (c : Nat) : Fld := ⟨8 * (0x200018) + (0 + 4 * c), 4, 0xDFFFF113 / 2 ^ (4 * c) % 16, false⟩
/-- `SWITCH.SPILL_CFG.SPILL_EN`, RW (04_switch_core). -/
def SWITCH.SPILL_CFG.SPILL_EN : Fld := ⟨8 * (0x200020) + 0, 1, 1, false⟩
/-- `SWITCH.SPILL_CFG.REFILL_KIB`, RW (04_switch_core). -/
def SWITCH.SPILL_CFG.REFILL_KIB : Fld := ⟨8 * (0x200020) + 8, 16, 256, false⟩
/-- `SWITCH.SNAP.REQ`, W1S (04_switch_core). -/
def SWITCH.SNAP.REQ : Fld := ⟨8 * (0x200028) + 0, 1, 0, false⟩
/-- `SWITCH.SNAP.DONE`, RO (04_switch_core). -/
def SWITCH.SNAP.DONE : Fld := ⟨8 * (0x200028) + 1, 1, 0, true⟩
/-- `SWITCH.SNAP.OVERRUN`, W1C (04_switch_core). -/
def SWITCH.SNAP.OVERRUN : Fld := ⟨8 * (0x200028) + 2, 1, 0, false⟩
/-- `SWITCH.BUF_STATUS.POOL_FREE_KIB`, RO (04_switch_core). -/
def SWITCH.BUF_STATUS.POOL_FREE_KIB : Fld := ⟨8 * (0x200030) + 0, 24, 0, true⟩
/-- `SWITCH.BUF_STATUS.HEADROOM_KIB`, RO (04_switch_core). -/
def SWITCH.BUF_STATUS.HEADROOM_KIB : Fld := ⟨8 * (0x200030) + 24, 24, 0, true⟩
/-- `SWITCH.SPILL_STATUS.SPILL_USED_MIB`, RO (04_switch_core). -/
def SWITCH.SPILL_STATUS.SPILL_USED_MIB : Fld := ⟨8 * (0x200038) + 0, 20, 0, true⟩
/-- `SWITCH.SPILL_STATUS.SPILL_FULL`, RO (04_switch_core). -/
def SWITCH.SPILL_STATUS.SPILL_FULL : Fld := ⟨8 * (0x200038) + 20, 1, 0, true⟩
/-- `SWITCH.SPILL_STATUS.SPILL_VOQS`, RO (04_switch_core). -/
def SWITCH.SPILL_STATUS.SPILL_VOQS : Fld := ⟨8 * (0x200038) + 32, 32, 0, true⟩
/-- `SWITCH.COUNT_A.STOMPED`, RO (04_switch_core). -/
def SWITCH.COUNT_A.STOMPED : Fld := ⟨8 * (0x200040) + 0, 32, 0, true⟩
/-- `SWITCH.COUNT_A.NO_ROUTE`, RO (04_switch_core). -/
def SWITCH.COUNT_A.NO_ROUTE : Fld := ⟨8 * (0x200040) + 32, 32, 0, true⟩
/-- `SWITCH.COUNT_B.DENIED_AT_INGRESS`, RO (04_switch_core). -/
def SWITCH.COUNT_B.DENIED_AT_INGRESS : Fld := ⟨8 * (0x200048) + 0, 32, 0, true⟩
/-- `SWITCH.COUNT_B.BACKPRESSURE_TICKS`, RO (04_switch_core). -/
def SWITCH.COUNT_B.BACKPRESSURE_TICKS : Fld := ⟨8 * (0x200048) + 32, 32, 0, true⟩
/-- `SWITCH.FLUSH_STATUS.ACTIVE`, RO (04_switch_core). -/
def SWITCH.FLUSH_STATUS.ACTIVE : Fld := ⟨8 * (0x200050) + 0, 1, 0, true⟩
/-- `SWITCH.FLUSH_STATUS.PORT`, RO (04_switch_core). -/
def SWITCH.FLUSH_STATUS.PORT : Fld := ⟨8 * (0x200050) + 1, 7, 0, true⟩
/-- `SWITCH.FLUSH_STATUS.NOTICES_PENDING`, RO (04_switch_core). -/
def SWITCH.FLUSH_STATUS.NOTICES_PENDING : Fld := ⟨8 * (0x200050) + 32, 32, 0, true⟩
/-- `SWITCH.PORT_BUF.PARTS`, RWG (04_switch_core). -/
def SWITCH.PORT_BUF.PARTS (p : Nat) : Fld := ⟨8 * (0x201000 + p * 0x8) + 0, 32, 0, false⟩
/-- `SWITCH.PORT_CREDIT.ALLOT`, RWG (04_switch_core). -/
def SWITCH.PORT_CREDIT.ALLOT (p c : Nat) : Fld := ⟨8 * (0x201800 + p * 0x8) + (0 + 8 * c), 8, 0x1820202020402008 / 2 ^ (8 * c) % 256, false⟩
/-- `SWITCH.BUNDLE.MEMBERS`, RW (04_switch_core). -/
def SWITCH.BUNDLE.MEMBERS (b w : Nat) : Fld := ⟨8 * (0x204000 + b * 0x20) + (0 + 64 * w), 64, 0, false⟩
/-- `SWITCH.ROUTE.BUNDLE`, RW (04_switch_core). -/
def SWITCH.ROUTE.BUNDLE (d : Nat) : Fld := ⟨8 * (0x208000 + d * 0x8) + 0, 8, 0, false⟩
/-- `SWITCH.ROUTE.VALID`, RW (04_switch_core). -/
def SWITCH.ROUTE.VALID (d : Nat) : Fld := ⟨8 * (0x208000 + d * 0x8) + 8, 1, 0, false⟩
/-- `SWITCH.ROUTE.ANNOUNCE`, WO (04_switch_core). -/
def SWITCH.ROUTE.ANNOUNCE (d : Nat) : Fld := ⟨8 * (0x208000 + d * 0x8) + 9, 1, 0, false⟩
/-- `CLUSTER.CL_IMAGE.IMAGE_ID`, RWG (05_cells_and_clusters). -/
def CLUSTER.CL_IMAGE.IMAGE_ID (n : Nat) : Fld := ⟨8 * (0x400000 + n * 0x10000) + 0, 16, 1, false⟩
/-- `CLUSTER.CL_IMAGE.TEST_AT_START`, RWG (05_cells_and_clusters). -/
def CLUSTER.CL_IMAGE.TEST_AT_START (n : Nat) : Fld := ⟨8 * (0x400000 + n * 0x10000) + 16, 1, 1, false⟩
/-- `CLUSTER.CL_IMAGE.IMAGE_VERSION`, RO (05_cells_and_clusters). -/
def CLUSTER.CL_IMAGE.IMAGE_VERSION (n : Nat) : Fld := ⟨8 * (0x400000 + n * 0x10000) + 32, 32, 0, false⟩
/-- `CLUSTER.CL_STATUS.ACTIVE_CELLS`, RO (05_cells_and_clusters). -/
def CLUSTER.CL_STATUS.ACTIVE_CELLS (n : Nat) : Fld := ⟨8 * (0x400008 + n * 0x10000) + 0, 8, 0, false⟩
/-- `CLUSTER.CL_STATUS.SPARES_LEFT`, RO (05_cells_and_clusters). -/
def CLUSTER.CL_STATUS.SPARES_LEFT (n : Nat) : Fld := ⟨8 * (0x400008 + n * 0x10000) + 8, 3, 0, false⟩
/-- `CLUSTER.CL_STATUS.LOAD_RESULT`, RO (05_cells_and_clusters). -/
def CLUSTER.CL_STATUS.LOAD_RESULT (n : Nat) : Fld := ⟨8 * (0x400008 + n * 0x10000) + 12, 4, 0, false⟩
/-- `CLUSTER.CL_STATUS.LOAD_DETAIL`, RO (05_cells_and_clusters). -/
def CLUSTER.CL_STATUS.LOAD_DETAIL (n : Nat) : Fld := ⟨8 * (0x400008 + n * 0x10000) + 16, 16, 0, false⟩
/-- `CLUSTER.CL_STATUS.SWAPS`, RO (05_cells_and_clusters). -/
def CLUSTER.CL_STATUS.SWAPS (n : Nat) : Fld := ⟨8 * (0x400008 + n * 0x10000) + 32, 16, 0, false⟩
/-- `CLUSTER.CL_STATUS.MAX_CYCLES`, RO (05_cells_and_clusters). -/
def CLUSTER.CL_STATUS.MAX_CYCLES (n : Nat) : Fld := ⟨8 * (0x400008 + n * 0x10000) + 48, 16, 0, false⟩
/-- `CLUSTER.CE_CFG.CE_LIMIT`, RW (05_cells_and_clusters). -/
def CLUSTER.CE_CFG.CE_LIMIT (n : Nat) : Fld := ⟨8 * (0x400010 + n * 0x10000) + 0, 8, 32, false⟩
/-- `CLUSTER.CE_CFG.CE_WINDOW_S`, RW (05_cells_and_clusters). -/
def CLUSTER.CE_CFG.CE_WINDOW_S (n : Nat) : Fld := ⟨8 * (0x400010 + n * 0x10000) + 8, 16, 60, false⟩
/-- `CLUSTER.CE_CFG.WDOG_LOG2`, RW (05_cells_and_clusters). -/
def CLUSTER.CE_CFG.WDOG_LOG2 (n : Nat) : Fld := ⟨8 * (0x400010 + n * 0x10000) + 24, 5, 16, false⟩
/-- `CLUSTER.CL_SNAP.REQ`, W1S (05_cells_and_clusters). -/
def CLUSTER.CL_SNAP.REQ (n : Nat) : Fld := ⟨8 * (0x400020 + n * 0x10000) + 0, 1, 0, false⟩
/-- `CLUSTER.CL_SNAP.DONE`, RO (05_cells_and_clusters). -/
def CLUSTER.CL_SNAP.DONE (n : Nat) : Fld := ⟨8 * (0x400020 + n * 0x10000) + 1, 1, 0, false⟩
/-- `CLUSTER.CL_SNAP.OVERRUN`, W1C (05_cells_and_clusters). -/
def CLUSTER.CL_SNAP.OVERRUN (n : Nat) : Fld := ⟨8 * (0x400020 + n * 0x10000) + 2, 1, 0, false⟩
/-- `CLUSTER.CL_COUNT_A.EVENTS`, RO (05_cells_and_clusters). -/
def CLUSTER.CL_COUNT_A.EVENTS (n : Nat) : Fld := ⟨8 * (0x400028 + n * 0x10000) + 0, 32, 0, true⟩
/-- `CLUSTER.CL_COUNT_A.BUDGET_OVERRUNS`, RO (05_cells_and_clusters). -/
def CLUSTER.CL_COUNT_A.BUDGET_OVERRUNS (n : Nat) : Fld := ⟨8 * (0x400028 + n * 0x10000) + 32, 32, 0, true⟩
/-- `CLUSTER.CL_COUNT_B.EXCEPTIONS`, RO (05_cells_and_clusters). -/
def CLUSTER.CL_COUNT_B.EXCEPTIONS (n : Nat) : Fld := ⟨8 * (0x400030 + n * 0x10000) + 0, 32, 0, true⟩
/-- `CLUSTER.CL_COUNT_B.NO_ENTRY`, RO (05_cells_and_clusters). -/
def CLUSTER.CL_COUNT_B.NO_ENTRY (n : Nat) : Fld := ⟨8 * (0x400030 + n * 0x10000) + 32, 16, 0, true⟩
/-- `CLUSTER.CL_COUNT_B.MISDELIVERED`, RO (05_cells_and_clusters). -/
def CLUSTER.CL_COUNT_B.MISDELIVERED (n : Nat) : Fld := ⟨8 * (0x400030 + n * 0x10000) + 48, 16, 0, true⟩
/-- `CLUSTER.FINISH_SLOT.VALID`, RO (05_cells_and_clusters). -/
def CLUSTER.FINISH_SLOT.VALID (n k : Nat) : Fld := ⟨8 * (0x400100 + n * 0x10000 + k * 0x8) + 0, 1, 0, false⟩
/-- `CLUSTER.FINISH_SLOT.SWARM`, RO (05_cells_and_clusters). -/
def CLUSTER.FINISH_SLOT.SWARM (n k : Nat) : Fld := ⟨8 * (0x400100 + n * 0x10000 + k * 0x8) + 1, 8, 0, false⟩
/-- `CLUSTER.FINISH_SLOT.HEAD_SLOT`, RO (05_cells_and_clusters). -/
def CLUSTER.FINISH_SLOT.HEAD_SLOT (n k : Nat) : Fld := ⟨8 * (0x400100 + n * 0x10000 + k * 0x8) + 9, 4, 0, false⟩
/-- `CLUSTER.FINISH_SLOT.SPAN`, RO (05_cells_and_clusters). -/
def CLUSTER.FINISH_SLOT.SPAN (n k : Nat) : Fld := ⟨8 * (0x400100 + n * 0x10000 + k * 0x8) + 13, 4, 0, false⟩
/-- `CLUSTER.FINISH_SLOT.BOUND`, RO (05_cells_and_clusters). -/
def CLUSTER.FINISH_SLOT.BOUND (n k : Nat) : Fld := ⟨8 * (0x400100 + n * 0x10000 + k * 0x8) + 17, 11, 0, false⟩
/-- `CLUSTER.CELL_MAP.PHYS`, RO (05_cells_and_clusters). -/
def CLUSTER.CELL_MAP.PHYS (n l : Nat) : Fld := ⟨8 * (0x400400 + n * 0x10000 + l * 0x4) + 0, 8, 0, false⟩
/-- `CLUSTER.CELL_MAP.REMAPS`, RO (05_cells_and_clusters). -/
def CLUSTER.CELL_MAP.REMAPS (n l : Nat) : Fld := ⟨8 * (0x400400 + n * 0x10000 + l * 0x4) + 8, 8, 0, false⟩
/-- `CLUSTER.PHYS_CELL.STATE`, RO (05_cells_and_clusters). -/
def CLUSTER.PHYS_CELL.STATE (n c : Nat) : Fld := ⟨8 * (0x400800 + n * 0x10000 + c * 0x8) + 0, 3, 0, false⟩
/-- `CLUSTER.PHYS_CELL.LAST_FAULT`, RO (05_cells_and_clusters). -/
def CLUSTER.PHYS_CELL.LAST_FAULT (n c : Nat) : Fld := ⟨8 * (0x400800 + n * 0x10000 + c * 0x8) + 3, 4, 0, false⟩
/-- `CLUSTER.PHYS_CELL.RETIRE`, W1S (05_cells_and_clusters). -/
def CLUSTER.PHYS_CELL.RETIRE (n c : Nat) : Fld := ⟨8 * (0x400800 + n * 0x10000 + c * 0x8) + 7, 1, 0, false⟩
/-- `CLUSTER.PHYS_CELL.REINSTATE`, W1S (05_cells_and_clusters). -/
def CLUSTER.PHYS_CELL.REINSTATE (n c : Nat) : Fld := ⟨8 * (0x400800 + n * 0x10000 + c * 0x8) + 8, 1, 0, false⟩
/-- `CLUSTER.PHYS_CELL.CE_COUNT`, RO (05_cells_and_clusters). -/
def CLUSTER.PHYS_CELL.CE_COUNT (n c : Nat) : Fld := ⟨8 * (0x400800 + n * 0x10000 + c * 0x8) + 16, 16, 0, false⟩
/-- `CLUSTER.PHYS_CELL.UE_COUNT`, RO (05_cells_and_clusters). -/
def CLUSTER.PHYS_CELL.UE_COUNT (n c : Nat) : Fld := ⟨8 * (0x400800 + n * 0x10000 + c * 0x8) + 32, 16, 0, false⟩
/-- `SWARM.SWARM_CFG.TILE_BUDGET`, RW (08_swarms_and_allreduce). -/
def SWARM.SWARM_CFG.TILE_BUDGET : Fld := ⟨8 * (0x700000) + 0, 16, 16384, false⟩
/-- `SWARM.SWARM_CFG.PARK_TICKS`, RW (08_swarms_and_allreduce). -/
def SWARM.SWARM_CFG.PARK_TICKS : Fld := ⟨8 * (0x700000) + 16, 16, 400, false⟩
/-- `SWARM.ACTIVE_MAP.ACTIVE`, RO (08_swarms_and_allreduce). -/
def SWARM.ACTIVE_MAP.ACTIVE (w : Nat) : Fld := ⟨8 * (0x700020) + (0 + 64 * w), 64, 0, true⟩
/-- `SWARM.WAIT_MAP.WAITING`, RO (08_swarms_and_allreduce). -/
def SWARM.WAIT_MAP.WAITING (w : Nat) : Fld := ⟨8 * (0x700040) + (0 + 64 * w), 64, 0, true⟩
/-- `SWARM.SWARM_DEF.MEMBER_COUNT`, RWG (08_swarms_and_allreduce). -/
def SWARM.SWARM_DEF.MEMBER_COUNT (s : Nat) : Fld := ⟨8 * (0x710000 + s * 0x40) + 0, 9, 0, false⟩
/-- `SWARM.SWARM_DEF.FMT`, RWG (08_swarms_and_allreduce). -/
def SWARM.SWARM_DEF.FMT (s : Nat) : Fld := ⟨8 * (0x710000 + s * 0x40) + 9, 4, 0, false⟩
/-- `SWARM.SWARM_DEF.RND`, RWG (08_swarms_and_allreduce). -/
def SWARM.SWARM_DEF.RND (s : Nat) : Fld := ⟨8 * (0x710000 + s * 0x40) + 13, 2, 0, false⟩
/-- `SWARM.SWARM_DEF.TENANT`, RWG (08_swarms_and_allreduce). -/
def SWARM.SWARM_DEF.TENANT (s : Nat) : Fld := ⟨8 * (0x710000 + s * 0x40) + 16, 12, 0, false⟩
/-- `SWARM.SWARM_DEF.TIMEOUT_US`, RWG (08_swarms_and_allreduce). -/
def SWARM.SWARM_DEF.TIMEOUT_US (s : Nat) : Fld := ⟨8 * (0x710000 + s * 0x40) + 32, 20, 4000, false⟩
/-- `SWARM.SWARM_DEF.WEIGHT`, RWG (08_swarms_and_allreduce). -/
def SWARM.SWARM_DEF.WEIGHT (s : Nat) : Fld := ⟨8 * (0x710000 + s * 0x40) + 52, 8, 16, false⟩
/-- `SWARM.SWARM_DEF.PLANE_MASK`, RWG (08_swarms_and_allreduce). -/
def SWARM.SWARM_DEF.PLANE_MASK (s : Nat) : Fld := ⟨8 * (0x710000 + s * 0x40) + 64, 32, 0, false⟩
/-- `SWARM.SWARM_DEF.OP_SIZE`, RWG (08_swarms_and_allreduce). -/
def SWARM.SWARM_DEF.OP_SIZE (s : Nat) : Fld := ⟨8 * (0x710000 + s * 0x40) + 128, 32, 0, false⟩
/-- `SWARM.SWARM_DEF.START_OPSEQ`, RWG (08_swarms_and_allreduce). -/
def SWARM.SWARM_DEF.START_OPSEQ (s : Nat) : Fld := ⟨8 * (0x710000 + s * 0x40) + 160, 32, 0, false⟩
/-- `SWARM.SWARM_DEF.FINISH_KIND`, RWG (08_swarms_and_allreduce). -/
def SWARM.SWARM_DEF.FINISH_KIND (s : Nat) : Fld := ⟨8 * (0x710000 + s * 0x40) + 192, 2, 0, false⟩
/-- `SWARM.SWARM_DEF.FINISH_IMAGE`, RWG (08_swarms_and_allreduce). -/
def SWARM.SWARM_DEF.FINISH_IMAGE (s : Nat) : Fld := ⟨8 * (0x710000 + s * 0x40) + 200, 16, 0, false⟩
/-- `SWARM.SWARM_DEF.ACC_REGION`, RWG (08_swarms_and_allreduce). -/
def SWARM.SWARM_DEF.ACC_REGION (s : Nat) : Fld := ⟨8 * (0x710000 + s * 0x40) + 224, 11, 0, false⟩
/-- `SWARM.SWARM_DEF.FINISH_PARAM`, RWG (08_swarms_and_allreduce). -/
def SWARM.SWARM_DEF.FINISH_PARAM (s : Nat) : Fld := ⟨8 * (0x710000 + s * 0x40) + 256, 64, 0, false⟩
/-- `SWARM.SWARM_DEF.FINISH_AUX`, RWG (08_swarms_and_allreduce). -/
def SWARM.SWARM_DEF.FINISH_AUX (s : Nat) : Fld := ⟨8 * (0x710000 + s * 0x40) + 320, 64, 0, false⟩
/-- `SWARM.SWARM_DEF.STATE_OFFSET`, RWG (08_swarms_and_allreduce). -/
def SWARM.SWARM_DEF.STATE_OFFSET (s : Nat) : Fld := ⟨8 * (0x710000 + s * 0x40) + 384, 48, 0, false⟩
/-- `SWARM.SWARM_DEF.STATE_LEN_2M`, RWG (08_swarms_and_allreduce). -/
def SWARM.SWARM_DEF.STATE_LEN_2M (s : Nat) : Fld := ⟨8 * (0x710000 + s * 0x40) + 432, 16, 0, false⟩
/-- `SWARM.SWARM_MEMBER.EP_ID`, RWG (08_swarms_and_allreduce). -/
def SWARM.SWARM_MEMBER.EP_ID (s m : Nat) : Fld := ⟨8 * (0x720000 + s * 0x400 + m * 0x4) + 0, 12, 0, false⟩
/-- `SWARM.SWARM_MEMBER.CONTEXT`, RWG (08_swarms_and_allreduce). -/
def SWARM.SWARM_MEMBER.CONTEXT (s m : Nat) : Fld := ⟨8 * (0x720000 + s * 0x400 + m * 0x4) + 12, 12, 0, false⟩
/-- `SWARM.SWARM_MEMBER.VALID`, RWG (08_swarms_and_allreduce). -/
def SWARM.SWARM_MEMBER.VALID (s m : Nat) : Fld := ⟨8 * (0x720000 + s * 0x400 + m * 0x4) + 24, 1, 0, false⟩
/-- `SWARM.SWARM_STATUS.PLACE`, RO (08_swarms_and_allreduce). -/
def SWARM.SWARM_STATUS.PLACE (s : Nat) : Fld := ⟨8 * (0x760000 + s * 0x20) + 0, 2, 0, true⟩
/-- `SWARM.SWARM_STATUS.OPEN_OLD`, RO (08_swarms_and_allreduce). -/
def SWARM.SWARM_STATUS.OPEN_OLD (s : Nat) : Fld := ⟨8 * (0x760000 + s * 0x20) + 2, 1, 0, true⟩
/-- `SWARM.SWARM_STATUS.OPEN_NEW`, RO (08_swarms_and_allreduce). -/
def SWARM.SWARM_STATUS.OPEN_NEW (s : Nat) : Fld := ⟨8 * (0x760000 + s * 0x20) + 3, 1, 0, true⟩
/-- `SWARM.SWARM_STATUS.PLACE_NO`, RO (08_swarms_and_allreduce). -/
def SWARM.SWARM_STATUS.PLACE_NO (s : Nat) : Fld := ⟨8 * (0x760000 + s * 0x20) + 4, 6, 0, true⟩
/-- `SWARM.SWARM_STATUS.FINISH_LOAD`, RO (08_swarms_and_allreduce). -/
def SWARM.SWARM_STATUS.FINISH_LOAD (s : Nat) : Fld := ⟨8 * (0x760000 + s * 0x20) + 12, 4, 0, true⟩
/-- `SWARM.SWARM_STATUS.FINISH_LOAD_DETAIL`, RO (08_swarms_and_allreduce). -/
def SWARM.SWARM_STATUS.FINISH_LOAD_DETAIL (s : Nat) : Fld := ⟨8 * (0x760000 + s * 0x20) + 16, 16, 0, true⟩
/-- `SWARM.SWARM_STATUS.NEXT_OPSEQ`, RO (08_swarms_and_allreduce). -/
def SWARM.SWARM_STATUS.NEXT_OPSEQ (s : Nat) : Fld := ⟨8 * (0x760000 + s * 0x20) + 32, 32, 0, true⟩
/-- `SWARM.SWARM_LIMIT.LIMIT`, RO (08_swarms_and_allreduce). -/
def SWARM.SWARM_LIMIT.LIMIT (s : Nat) : Fld := ⟨8 * (0x760008 + s * 0x20) + 0, 21, 0, true⟩
/-- `SWARM.SWARM_LIMIT.T_PLANE`, RO (08_swarms_and_allreduce). -/
def SWARM.SWARM_LIMIT.T_PLANE (s : Nat) : Fld := ⟨8 * (0x760008 + s * 0x20) + 21, 21, 0, true⟩
/-- `SWARM.SWARM_COUNT_A.OPS_OPENED`, RO (08_swarms_and_allreduce). -/
def SWARM.SWARM_COUNT_A.OPS_OPENED (s : Nat) : Fld := ⟨8 * (0x764000 + s * 0x20) + 0, 32, 0, true⟩
/-- `SWARM.SWARM_COUNT_A.OPS_ABORTED`, RO (08_swarms_and_allreduce). -/
def SWARM.SWARM_COUNT_A.OPS_ABORTED (s : Nat) : Fld := ⟨8 * (0x764000 + s * 0x20) + 32, 32, 0, true⟩
/-- `SWARM.SWARM_COUNT_B.TILES_REDUCED`, RO (08_swarms_and_allreduce). -/
def SWARM.SWARM_COUNT_B.TILES_REDUCED (s : Nat) : Fld := ⟨8 * (0x764008 + s * 0x20) + 0, 32, 0, true⟩
/-- `SWARM.SWARM_COUNT_B.DISCARDED`, RO (08_swarms_and_allreduce). -/
def SWARM.SWARM_COUNT_B.DISCARDED (s : Nat) : Fld := ⟨8 * (0x764008 + s * 0x20) + 32, 32, 0, true⟩
/-- `SWARM.SWARM_COUNT_C.DUPLICATES`, RO (08_swarms_and_allreduce). -/
def SWARM.SWARM_COUNT_C.DUPLICATES (s : Nat) : Fld := ⟨8 * (0x764010 + s * 0x20) + 0, 16, 0, true⟩
/-- `SWARM.SWARM_COUNT_C.RESENDS`, RO (08_swarms_and_allreduce). -/
def SWARM.SWARM_COUNT_C.RESENDS (s : Nat) : Fld := ⟨8 * (0x764010 + s * 0x20) + 16, 16, 0, true⟩
/-- `SWARM.SWARM_COUNT_C.SILENT_RELEASES`, RO (08_swarms_and_allreduce). -/
def SWARM.SWARM_COUNT_C.SILENT_RELEASES (s : Nat) : Fld := ⟨8 * (0x764010 + s * 0x20) + 32, 8, 0, true⟩
/-- `SWARM.SWARM_COUNT_C.ABORT_REQ_IGNORED`, RO (08_swarms_and_allreduce). -/
def SWARM.SWARM_COUNT_C.ABORT_REQ_IGNORED (s : Nat) : Fld := ⟨8 * (0x764010 + s * 0x20) + 40, 8, 0, true⟩
/-- `SWARM.SWARM_COUNT_C.ABORT_UNSEEN`, RO (08_swarms_and_allreduce). -/
def SWARM.SWARM_COUNT_C.ABORT_UNSEEN (s : Nat) : Fld := ⟨8 * (0x764010 + s * 0x20) + 48, 8, 0, true⟩
/-- `SWARM.SWARM_ABORT_LOG.CAUSE`, RO (08_swarms_and_allreduce). -/
def SWARM.SWARM_ABORT_LOG.CAUSE (s : Nat) : Fld := ⟨8 * (0x768000 + s * 0x20) + 0, 4, 0, true⟩
/-- `SWARM.SWARM_ABORT_LOG.MEMBER`, RO (08_swarms_and_allreduce). -/
def SWARM.SWARM_ABORT_LOG.MEMBER (s : Nat) : Fld := ⟨8 * (0x768000 + s * 0x20) + 4, 8, 0, true⟩
/-- `SWARM.SWARM_ABORT_LOG.SOURCE`, RO (08_swarms_and_allreduce). -/
def SWARM.SWARM_ABORT_LOG.SOURCE (s : Nat) : Fld := ⟨8 * (0x768000 + s * 0x20) + 12, 2, 0, true⟩
/-- `SWARM.SWARM_ABORT_LOG.OPSEQ`, RO (08_swarms_and_allreduce). -/
def SWARM.SWARM_ABORT_LOG.OPSEQ (s : Nat) : Fld := ⟨8 * (0x768000 + s * 0x20) + 32, 32, 0, true⟩
/-- `SWARM.SWARM_ABORT_TIME.DECISION_TIME`, RO (08_swarms_and_allreduce). -/
def SWARM.SWARM_ABORT_TIME.DECISION_TIME (s : Nat) : Fld := ⟨8 * (0x768008 + s * 0x20) + 0, 64, 0, true⟩
/-- `SWARM.SWARM_CMD.ABORT_OP`, W1S (08_swarms_and_allreduce). -/
def SWARM.SWARM_CMD.ABORT_OP (s : Nat) : Fld := ⟨8 * (0x76C000 + s * 0x8) + 0, 1, 0, false⟩
/-- `COMBINE.COMB_CFG.COMB_EN`, RWG (09_combining_and_atomics). -/
def COMBINE.COMB_CFG.COMB_EN : Fld := ⟨8 * (0x780000) + 0, 1, 1, false⟩
/-- `COMBINE.COMB_CFG.LEDGER_HOLD_US`, RWG (09_combining_and_atomics). -/
def COMBINE.COMB_CFG.LEDGER_HOLD_US : Fld := ⟨8 * (0x780000) + 8, 11, 1000, false⟩
/-- `COMBINE.COMB_CFG.ONWARD_ATTEMPT_US`, RWG (09_combining_and_atomics). -/
def COMBINE.COMB_CFG.ONWARD_ATTEMPT_US : Fld := ⟨8 * (0x780000) + 24, 7, 16, false⟩
/-- `COMBINE.TABLE_CFG.MIRROR_REGION`, RWG (09_combining_and_atomics). -/
def COMBINE.TABLE_CFG.MIRROR_REGION : Fld := ⟨8 * (0x780008) + 0, 11, 351, false⟩
/-- `COMBINE.COMB_COUNT_A.JOINED_READS`, RO (09_combining_and_atomics). -/
def COMBINE.COMB_COUNT_A.JOINED_READS : Fld := ⟨8 * (0x780040) + 0, 32, 0, true⟩
/-- `COMBINE.COMB_COUNT_A.JOINED_ADDS`, RO (09_combining_and_atomics). -/
def COMBINE.COMB_COUNT_A.JOINED_ADDS : Fld := ⟨8 * (0x780040) + 32, 32, 0, true⟩
/-- `COMBINE.COMB_COUNT_B.ONWARD_ISSUED`, RO (09_combining_and_atomics). -/
def COMBINE.COMB_COUNT_B.ONWARD_ISSUED : Fld := ⟨8 * (0x780048) + 0, 32, 0, true⟩
/-- `COMBINE.COMB_COUNT_B.ONWARD_FAILED`, RO (09_combining_and_atomics). -/
def COMBINE.COMB_COUNT_B.ONWARD_FAILED : Fld := ⟨8 * (0x780048) + 32, 32, 0, true⟩
/-- `COMBINE.COMB_COUNT_C.LEDGER_HITS`, RO (09_combining_and_atomics). -/
def COMBINE.COMB_COUNT_C.LEDGER_HITS : Fld := ⟨8 * (0x780050) + 0, 32, 0, true⟩
/-- `COMBINE.COMB_COUNT_C.RETRY_STALE_SENT`, RO (09_combining_and_atomics). -/
def COMBINE.COMB_COUNT_C.RETRY_STALE_SENT : Fld := ⟨8 * (0x780050) + 32, 16, 0, true⟩
/-- `COMBINE.COMB_COUNT_C.PARK_DISCARDS`, RO (09_combining_and_atomics). -/
def COMBINE.COMB_COUNT_C.PARK_DISCARDS : Fld := ⟨8 * (0x780050) + 48, 16, 0, true⟩
/-- `COMBINE.COMB_COUNT_D.GATHERS_DONE`, RO (09_combining_and_atomics). -/
def COMBINE.COMB_COUNT_D.GATHERS_DONE : Fld := ⟨8 * (0x780058) + 0, 32, 0, true⟩
/-- `COMBINE.COMB_COUNT_D.ROW_JOINS`, RO (09_combining_and_atomics). -/
def COMBINE.COMB_COUNT_D.ROW_JOINS : Fld := ⟨8 * (0x780058) + 32, 32, 0, true⟩
/-- `COMBINE.COMB_STATUS.MAX_DOVETAILS`, RC (09_combining_and_atomics). -/
def COMBINE.COMB_STATUS.MAX_DOVETAILS : Fld := ⟨8 * (0x780060) + 0, 6, 0, false⟩
/-- `COMBINE.COMB_STATUS.MAX_PARKED`, RC (09_combining_and_atomics). -/
def COMBINE.COMB_STATUS.MAX_PARKED : Fld := ⟨8 * (0x780060) + 6, 9, 0, false⟩
/-- `COMBINE.COMB_STATUS.LEDGER_FULL_TICKS`, RO (09_combining_and_atomics). -/
def COMBINE.COMB_STATUS.LEDGER_FULL_TICKS : Fld := ⟨8 * (0x780060) + 32, 32, 0, true⟩
/-- `EP.EP_CFG.EP_ID`, RWG (10_sloso_endpoint). -/
def EP.EP_CFG.EP_ID (e : Nat) : Fld := ⟨8 * (0x800000 + e * 0x100000) + 0, 12, 0xFFB + e, false⟩
/-- `EP.EP_CFG.ADMIN_CTX`, RWG (10_sloso_endpoint). -/
def EP.EP_CFG.ADMIN_CTX (e : Nat) : Fld := ⟨8 * (0x800000 + e * 0x100000) + 16, 12, 0x800 * e, false⟩
/-- `EP.EP_CFG.CREDIT_MAX`, RW (10_sloso_endpoint). -/
def EP.EP_CFG.CREDIT_MAX (e : Nat) : Fld := ⟨8 * (0x800000 + e * 0x100000) + 28, 4, 4, false⟩
/-- `EP.EP_CFG.GRANT_RESERVE`, RW (10_sloso_endpoint). -/
def EP.EP_CFG.GRANT_RESERVE (e : Nat) : Fld := ⟨8 * (0x800000 + e * 0x100000) + 32, 10, 64, false⟩
/-- `EP.EP_TIMING.ATTEMPT_US`, RW (10_sloso_endpoint). -/
def EP.EP_TIMING.ATTEMPT_US (e : Nat) : Fld := ⟨8 * (0x800008 + e * 0x100000) + 0, 11, 64, false⟩
/-- `EP.EP_TIMING.SKIP_WAIT_US`, RW (10_sloso_endpoint). -/
def EP.EP_TIMING.SKIP_WAIT_US (e : Nat) : Fld := ⟨8 * (0x800008 + e * 0x100000) + 11, 10, 32, false⟩
/-- `EP.EP_TIMING.STALE_US`, RW (10_sloso_endpoint). -/
def EP.EP_TIMING.STALE_US (e : Nat) : Fld := ⟨8 * (0x800008 + e * 0x100000) + 21, 10, 1000, false⟩
/-- `EP.EP_TIMING.WC_HOLD_NS`, RW (10_sloso_endpoint). -/
def EP.EP_TIMING.WC_HOLD_NS (e : Nat) : Fld := ⟨8 * (0x800008 + e * 0x100000) + 32, 10, 500, false⟩
/-- `EP.EP_TIMING.TORN_RETRIES`, RW (10_sloso_endpoint). -/
def EP.EP_TIMING.TORN_RETRIES (e : Nat) : Fld := ⟨8 * (0x800008 + e * 0x100000) + 42, 4, 2, false⟩
/-- `EP.EP_TIMING.TORN_GAP_NS`, RW (10_sloso_endpoint). -/
def EP.EP_TIMING.TORN_GAP_NS (e : Nat) : Fld := ⟨8 * (0x800008 + e * 0x100000) + 46, 10, 1000, false⟩
/-- `EP.EP_PLANES.PLANE_LIST`, RW (10_sloso_endpoint). -/
def EP.EP_PLANES.PLANE_LIST (e : Nat) : Fld := ⟨8 * (0x800010 + e * 0x100000) + 0, 32, 1, false⟩
/-- `EP.EP_SNAP.REQ`, W1S (10_sloso_endpoint). -/
def EP.EP_SNAP.REQ (e : Nat) : Fld := ⟨8 * (0x800018 + e * 0x100000) + 0, 1, 0, false⟩
/-- `EP.EP_SNAP.DONE`, RO (10_sloso_endpoint). -/
def EP.EP_SNAP.DONE (e : Nat) : Fld := ⟨8 * (0x800018 + e * 0x100000) + 1, 1, 0, true⟩
/-- `EP.EP_SNAP.OVERRUN`, W1C (10_sloso_endpoint). -/
def EP.EP_SNAP.OVERRUN (e : Nat) : Fld := ⟨8 * (0x800018 + e * 0x100000) + 2, 1, 0, false⟩
/-- `EP.EP_COUNT_A.RETRIES`, RO (10_sloso_endpoint). -/
def EP.EP_COUNT_A.RETRIES (e : Nat) : Fld := ⟨8 * (0x800020 + e * 0x100000) + 0, 32, 0, true⟩
/-- `EP.EP_COUNT_A.COCOONED`, RO (10_sloso_endpoint). -/
def EP.EP_COUNT_A.COCOONED (e : Nat) : Fld := ⟨8 * (0x800020 + e * 0x100000) + 32, 32, 0, true⟩
/-- `EP.EP_COUNT_B.SEQ_SKIPS`, RO (10_sloso_endpoint). -/
def EP.EP_COUNT_B.SEQ_SKIPS (e : Nat) : Fld := ⟨8 * (0x800028 + e * 0x100000) + 0, 16, 0, true⟩
/-- `EP.EP_COUNT_B.SEQ_DISCARDS`, RO (10_sloso_endpoint). -/
def EP.EP_COUNT_B.SEQ_DISCARDS (e : Nat) : Fld := ⟨8 * (0x800028 + e * 0x100000) + 16, 16, 0, true⟩
/-- `EP.EP_COUNT_B.STALE_DISCARDS`, RO (10_sloso_endpoint). -/
def EP.EP_COUNT_B.STALE_DISCARDS (e : Nat) : Fld := ⟨8 * (0x800028 + e * 0x100000) + 32, 16, 0, true⟩
/-- `EP.EP_COUNT_B.RESP_DISCARDS`, RO (10_sloso_endpoint). -/
def EP.EP_COUNT_B.RESP_DISCARDS (e : Nat) : Fld := ⟨8 * (0x800028 + e * 0x100000) + 48, 16, 0, true⟩
/-- `EP.EP_COUNT_C.SIGNALS_FIRED`, RO (10_sloso_endpoint). -/
def EP.EP_COUNT_C.SIGNALS_FIRED (e : Nat) : Fld := ⟨8 * (0x800030 + e * 0x100000) + 0, 32, 0, true⟩
/-- `EP.EP_COUNT_C.SIG_DUPLICATES`, RO (10_sloso_endpoint). -/
def EP.EP_COUNT_C.SIG_DUPLICATES (e : Nat) : Fld := ⟨8 * (0x800030 + e * 0x100000) + 32, 16, 0, true⟩
/-- `EP.EP_COUNT_C.CTR_UNAVAILABLE`, RO (10_sloso_endpoint). -/
def EP.EP_COUNT_C.CTR_UNAVAILABLE (e : Nat) : Fld := ⟨8 * (0x800030 + e * 0x100000) + 48, 16, 0, true⟩
/-- `EP.CTX.ENABLE`, RW (10_sloso_endpoint). -/
def EP.CTX.ENABLE (c : Nat) : Fld := ⟨8 * (0x810000 + c * 0x40) + 0, 1, 0, false⟩
/-- `EP.CTX.EP_SEL`, RW (10_sloso_endpoint). -/
def EP.CTX.EP_SEL (c : Nat) : Fld := ⟨8 * (0x810000 + c * 0x40) + 1, 1, 0, false⟩
/-- `EP.CTX.SQ_EN`, RW (10_sloso_endpoint). -/
def EP.CTX.SQ_EN (c : Nat) : Fld := ⟨8 * (0x810000 + c * 0x40) + 2, 4, 0, false⟩
/-- `EP.CTX.SQ_ORDERED`, RW (10_sloso_endpoint). -/
def EP.CTX.SQ_ORDERED (c : Nat) : Fld := ⟨8 * (0x810000 + c * 0x40) + 6, 4, 0, false⟩
/-- `EP.CTX.SIG_EVENTS`, RW (10_sloso_endpoint). -/
def EP.CTX.SIG_EVENTS (c : Nat) : Fld := ⟨8 * (0x810000 + c * 0x40) + 10, 1, 0, false⟩
/-- `EP.CTX.TENANT`, RW (10_sloso_endpoint). -/
def EP.CTX.TENANT (c : Nat) : Fld := ⟨8 * (0x810000 + c * 0x40) + 16, 12, 0, false⟩
/-- `EP.CTX.FUNC`, RW (10_sloso_endpoint). -/
def EP.CTX.FUNC (c : Nat) : Fld := ⟨8 * (0x810000 + c * 0x40) + 28, 8, 0, false⟩
/-- `EP.CTX.EQ_VECTOR`, RW (10_sloso_endpoint). -/
def EP.CTX.EQ_VECTOR (c : Nat) : Fld := ⟨8 * (0x810000 + c * 0x40) + 36, 11, 0, false⟩
/-- `EP.CTX.SQ_LOG2`, RW (10_sloso_endpoint). -/
def EP.CTX.SQ_LOG2 (c : Nat) : Fld := ⟨8 * (0x810000 + c * 0x40) + 48, 16, 0, false⟩
/-- `EP.CTX.CQ_LOG2`, RW (10_sloso_endpoint). -/
def EP.CTX.CQ_LOG2 (c : Nat) : Fld := ⟨8 * (0x810000 + c * 0x40) + 64, 4, 0, false⟩
/-- `EP.CTX.EQ_LOG2`, RW (10_sloso_endpoint). -/
def EP.CTX.EQ_LOG2 (c : Nat) : Fld := ⟨8 * (0x810000 + c * 0x40) + 68, 4, 0, false⟩
/-- `EP.CTX.SQ_BASE`, RW (10_sloso_endpoint). -/
def EP.CTX.SQ_BASE (c w : Nat) : Fld := ⟨8 * (0x810000 + c * 0x40) + (128 + 64 * w), 64, 0, false⟩
/-- `EP.CTX.CQ_BASE`, RW (10_sloso_endpoint). -/
def EP.CTX.CQ_BASE (c : Nat) : Fld := ⟨8 * (0x810000 + c * 0x40) + 384, 64, 0, false⟩
/-- `EP.CTX.EQ_BASE`, RW (10_sloso_endpoint). -/
def EP.CTX.EQ_BASE (c : Nat) : Fld := ⟨8 * (0x810000 + c * 0x40) + 448, 64, 0, false⟩
/-- `EP.CTX_STATUS.STEP_FAULTED`, W1C (10_sloso_endpoint). -/
def EP.CTX_STATUS.STEP_FAULTED (c : Nat) : Fld := ⟨8 * (0x850000 + c * 0x8) + 0, 1, 0, false⟩
/-- `EP.CTX_STATUS.EQ_OVERFLOW`, W1C (10_sloso_endpoint). -/
def EP.CTX_STATUS.EQ_OVERFLOW (c : Nat) : Fld := ⟨8 * (0x850000 + c * 0x8) + 1, 1, 0, false⟩
/-- `EP.CTX_STATUS.OUTSTANDING`, RO (10_sloso_endpoint). -/
def EP.CTX_STATUS.OUTSTANDING (c : Nat) : Fld := ⟨8 * (0x850000 + c * 0x8) + 16, 16, 0, true⟩
/-- `EP.CTX_STATUS.COCOONED`, RO (10_sloso_endpoint). -/
def EP.CTX_STATUS.COCOONED (c : Nat) : Fld := ⟨8 * (0x850000 + c * 0x8) + 32, 16, 0, true⟩
/-- `EP.CTX_STATUS.FAULTS`, RO (10_sloso_endpoint). -/
def EP.CTX_STATUS.FAULTS (c : Nat) : Fld := ⟨8 * (0x850000 + c * 0x8) + 48, 16, 0, false⟩
/-- `EP.CTR_STATE.STATE`, RO (10_sloso_endpoint). -/
def EP.CTR_STATE.STATE (e k : Nat) : Fld := ⟨8 * (0x860000 + e * 0x100000 + k * 0x8) + 0, 3, 0, true⟩
/-- `EP.CTR_STATE.SRC`, RO (10_sloso_endpoint). -/
def EP.CTR_STATE.SRC (e k : Nat) : Fld := ⟨8 * (0x860000 + e * 0x100000 + k * 0x8) + 3, 12, 0, true⟩
/-- `EP.CTR_STATE.MSG`, RO (10_sloso_endpoint). -/
def EP.CTR_STATE.MSG (e k : Nat) : Fld := ⟨8 * (0x860000 + e * 0x100000 + k * 0x8) + 15, 16, 0, true⟩
/-- `EP.CTR_STATE.COUNTED`, RO (10_sloso_endpoint). -/
def EP.CTR_STATE.COUNTED (e k : Nat) : Fld := ⟨8 * (0x860000 + e * 0x100000 + k * 0x8) + 31, 16, 0, true⟩
/-- `EP.CTR_STATE.COUNT`, RO (10_sloso_endpoint). -/
def EP.CTR_STATE.COUNT (e k : Nat) : Fld := ⟨8 * (0x860000 + e * 0x100000 + k * 0x8) + 47, 16, 0, true⟩
/-- `EP.TENANT_EPOCH.EPOCH`, RO (10_sloso_endpoint). -/
def EP.TENANT_EPOCH.EPOCH (t : Nat) : Fld := ⟨8 * (0x870000 + t * 0x4) + 0, 8, 0, true⟩
/-- `EXTENT.EXT_CFG.TABLE_REGION`, RWG (11_segments_extents_ownership). -/
def EXTENT.EXT_CFG.TABLE_REGION : Fld := ⟨8 * (0xA00000) + 0, 11, 320, false⟩
/-- `EXTENT.EXT_CMD.INDEX`, WO (11_segments_extents_ownership). -/
def EXTENT.EXT_CMD.INDEX : Fld := ⟨8 * (0xA00008) + 0, 18, 0, false⟩
/-- `EXTENT.EXT_CMD.OP`, WO (11_segments_extents_ownership). -/
def EXTENT.EXT_CMD.OP : Fld := ⟨8 * (0xA00008) + 20, 3, 0, false⟩
/-- `EXTENT.EXT_CMD_STATUS.BUSY`, RO (11_segments_extents_ownership). -/
def EXTENT.EXT_CMD_STATUS.BUSY : Fld := ⟨8 * (0xA00010) + 0, 1, 0, true⟩
/-- `EXTENT.EXT_CMD_STATUS.RESULT`, RO (11_segments_extents_ownership). -/
def EXTENT.EXT_CMD_STATUS.RESULT : Fld := ⟨8 * (0xA00010) + 1, 3, 0, true⟩
/-- `EXTENT.EXT_CMD_STATUS.INDEX`, RO (11_segments_extents_ownership). -/
def EXTENT.EXT_CMD_STATUS.INDEX : Fld := ⟨8 * (0xA00010) + 4, 18, 0, true⟩
/-- `EXTENT.EXT_CMD_STATUS.OVERRUN`, W1C (11_segments_extents_ownership). -/
def EXTENT.EXT_CMD_STATUS.OVERRUN : Fld := ⟨8 * (0xA00010) + 22, 1, 0, false⟩
/-- `EXTENT.EXT_STAGE.ENTRY`, RW (11_segments_extents_ownership). -/
def EXTENT.EXT_STAGE.ENTRY (w : Nat) : Fld := ⟨8 * (0xA00020) + (0 + 64 * w), 64, 0, false⟩
/-- `EXTENT.EXT_VIEW.ENTRY`, RO (11_segments_extents_ownership). -/
def EXTENT.EXT_VIEW.ENTRY (w : Nat) : Fld := ⟨8 * (0xA00040) + (0 + 64 * w), 64, 0, true⟩
/-- `EXTENT.EXT_COUNT_A.CACHE_MISSES`, RO (11_segments_extents_ownership). -/
def EXTENT.EXT_COUNT_A.CACHE_MISSES : Fld := ⟨8 * (0xA00060) + 0, 32, 0, true⟩
/-- `EXTENT.EXT_COUNT_A.FORCED_REVOKES`, RO (11_segments_extents_ownership). -/
def EXTENT.EXT_COUNT_A.FORCED_REVOKES : Fld := ⟨8 * (0xA00060) + 32, 32, 0, true⟩
/-- `EXTENT.EXT_COUNT_B.LIVE`, RO (11_segments_extents_ownership). -/
def EXTENT.EXT_COUNT_B.LIVE : Fld := ⟨8 * (0xA00068) + 0, 19, 0, true⟩
/-- `EXTENT.EXT_COUNT_B.REVOKING`, RO (11_segments_extents_ownership). -/
def EXTENT.EXT_COUNT_B.REVOKING : Fld := ⟨8 * (0xA00068) + 32, 19, 0, true⟩
/-- `EXTENT.OWN_COUNT.OPS`, RO (11_segments_extents_ownership). -/
def EXTENT.OWN_COUNT.OPS : Fld := ⟨8 * (0xA00070) + 0, 32, 0, true⟩
/-- `EXTENT.OWN_COUNT.CONFLICTS`, RO (11_segments_extents_ownership). -/
def EXTENT.OWN_COUNT.CONFLICTS : Fld := ⟨8 * (0xA00070) + 32, 16, 0, true⟩
/-- `EXTENT.OWN_COUNT.BUCKET_FULL`, RO (11_segments_extents_ownership). -/
def EXTENT.OWN_COUNT.BUCKET_FULL : Fld := ⟨8 * (0xA00070) + 48, 16, 0, true⟩
/-- `EXTENT.HOME_CFG.REGION_FIRST`, RWG (11_segments_extents_ownership). -/
def EXTENT.HOME_CFG.REGION_FIRST : Fld := ⟨8 * (0xA00080) + 0, 11, 376, false⟩
/-- `EXTENT.HOME_CFG.REGION_COUNT`, RWG (11_segments_extents_ownership). -/
def EXTENT.HOME_CFG.REGION_COUNT : Fld := ⟨8 * (0xA00080) + 16, 11, 1160, false⟩
/-- `EXTENT.SEG_INVAL_RANGE.FVA_GRAN`, RW (11_segments_extents_ownership). -/
def EXTENT.SEG_INVAL_RANGE.FVA_GRAN : Fld := ⟨8 * (0xA00100) + 0, 36, 0, false⟩
/-- `EXTENT.SEG_INVAL_RANGE.NGRAN`, RW (11_segments_extents_ownership). -/
def EXTENT.SEG_INVAL_RANGE.NGRAN : Fld := ⟨8 * (0xA00100) + 36, 28, 0, false⟩
/-- `EXTENT.SEG_INVAL_CMD.CTX`, WO (11_segments_extents_ownership). -/
def EXTENT.SEG_INVAL_CMD.CTX : Fld := ⟨8 * (0xA00108) + 0, 12, 0, false⟩
/-- `EXTENT.SEG_INVAL_CMD.ALL`, WO (11_segments_extents_ownership). -/
def EXTENT.SEG_INVAL_CMD.ALL : Fld := ⟨8 * (0xA00108) + 12, 1, 0, false⟩
/-- `EXTENT.SEG_INVAL_CMD.SEQ`, WO (11_segments_extents_ownership). -/
def EXTENT.SEG_INVAL_CMD.SEQ : Fld := ⟨8 * (0xA00108) + 16, 8, 0, false⟩
/-- `EXTENT.SEG_INVAL_STATUS.BUSY`, RO (11_segments_extents_ownership). -/
def EXTENT.SEG_INVAL_STATUS.BUSY : Fld := ⟨8 * (0xA00110) + 0, 1, 0, true⟩
/-- `EXTENT.SEG_INVAL_STATUS.ENGINE_ACKS`, RO (11_segments_extents_ownership). -/
def EXTENT.SEG_INVAL_STATUS.ENGINE_ACKS : Fld := ⟨8 * (0xA00110) + 1, 8, 0, true⟩
/-- `EXTENT.SEG_INVAL_STATUS.DONE_SEQ`, RO (11_segments_extents_ownership). -/
def EXTENT.SEG_INVAL_STATUS.DONE_SEQ : Fld := ⟨8 * (0xA00110) + 16, 8, 0, true⟩
/-- `EXTENT.SEG_INVAL_STATUS.OVERRUN`, W1C (11_segments_extents_ownership). -/
def EXTENT.SEG_INVAL_STATUS.OVERRUN : Fld := ⟨8 * (0xA00110) + 24, 1, 0, false⟩
/-- `EXTENT.ATS_COUNT.INVALIDATIONS`, RO (11_segments_extents_ownership). -/
def EXTENT.ATS_COUNT.INVALIDATIONS : Fld := ⟨8 * (0xA00120) + 0, 32, 0, true⟩
/-- `EXTENT.ATS_COUNT.XLATE_FAILS`, RO (11_segments_extents_ownership). -/
def EXTENT.ATS_COUNT.XLATE_FAILS : Fld := ⟨8 * (0xA00120) + 32, 32, 0, true⟩
/-- `EXTENT.SEG_BASE.BASE`, RW (11_segments_extents_ownership). -/
def EXTENT.SEG_BASE.BASE (c : Nat) : Fld := ⟨8 * (0xA08000 + c * 0x8) + 9, 55, 0, false⟩
/-- `EXTENT.EXPORT.VALID`, RW (11_segments_extents_ownership). -/
def EXTENT.EXPORT.VALID (e k : Nat) : Fld := ⟨8 * (0xA20000 + e * 0x20000 + k * 0x20) + 0, 1, 0, false⟩
/-- `EXTENT.EXPORT.REG_INDEX`, RW (11_segments_extents_ownership). -/
def EXTENT.EXPORT.REG_INDEX (e k : Nat) : Fld := ⟨8 * (0xA20000 + e * 0x20000 + k * 0x20) + 1, 18, 0, false⟩
/-- `EXTENT.EXPORT.CTX`, RW (11_segments_extents_ownership). -/
def EXTENT.EXPORT.CTX (e k : Nat) : Fld := ⟨8 * (0xA20000 + e * 0x20000 + k * 0x20) + 20, 12, 0, false⟩
/-- `EXTENT.EXPORT.LBASE`, RW (11_segments_extents_ownership). -/
def EXTENT.EXPORT.LBASE (e k : Nat) : Fld := ⟨8 * (0xA20000 + e * 0x20000 + k * 0x20) + 76, 52, 0, false⟩
/-- `HOSTPORT.MGR_CTL.MGR_PORT`, RO (12_host_ports). -/
def HOSTPORT.MGR_CTL.MGR_PORT : Fld := ⟨8 * (0xB00000) + 0, 1, 0, true⟩
/-- `HOSTPORT.MGR_CTL.HANDOVER`, W1S (12_host_ports). -/
def HOSTPORT.MGR_CTL.HANDOVER : Fld := ⟨8 * (0xB00000) + 1, 1, 0, false⟩
/-- `HOSTPORT.MGR_CTL.AUTO_EN`, RW (12_host_ports). -/
def HOSTPORT.MGR_CTL.AUTO_EN : Fld := ⟨8 * (0xB00000) + 2, 1, 0, false⟩
/-- `HOSTPORT.MGR_CTL.HANDOVER_RESULT`, RO (12_host_ports). -/
def HOSTPORT.MGR_CTL.HANDOVER_RESULT : Fld := ⟨8 * (0xB00000) + 4, 3, 0, true⟩
/-- `HOSTPORT.MGR_CTL.CHANGED`, W1C (12_host_ports). -/
def HOSTPORT.MGR_CTL.CHANGED : Fld := ⟨8 * (0xB00000) + 7, 1, 0, false⟩
/-- `HOSTPORT.MGR_CTL.AUTO_MS`, RW (12_host_ports). -/
def HOSTPORT.MGR_CTL.AUTO_MS : Fld := ⟨8 * (0xB00000) + 16, 14, 100, false⟩
/-- `HOSTPORT.HP_SNAP.REQ`, W1S (12_host_ports). -/
def HOSTPORT.HP_SNAP.REQ : Fld := ⟨8 * (0xB00008) + 0, 1, 0, false⟩
/-- `HOSTPORT.HP_SNAP.DONE`, RO (12_host_ports). -/
def HOSTPORT.HP_SNAP.DONE : Fld := ⟨8 * (0xB00008) + 1, 1, 0, true⟩
/-- `HOSTPORT.HP_SNAP.OVERRUN`, W1C (12_host_ports). -/
def HOSTPORT.HP_SNAP.OVERRUN : Fld := ⟨8 * (0xB00008) + 2, 1, 0, false⟩
/-- `HOSTPORT.LINK_STATUS.LINK_UP`, RO (12_host_ports). -/
def HOSTPORT.LINK_STATUS.LINK_UP (p : Nat) : Fld := ⟨8 * (0xB00010 + p * 0x20) + 0, 1, 0, true⟩
/-- `HOSTPORT.LINK_STATUS.RATE`, RO (12_host_ports). -/
def HOSTPORT.LINK_STATUS.RATE (p : Nat) : Fld := ⟨8 * (0xB00010 + p * 0x20) + 1, 3, 0, true⟩
/-- `HOSTPORT.LINK_STATUS.WIDTH`, RO (12_host_ports). -/
def HOSTPORT.LINK_STATUS.WIDTH (p : Nat) : Fld := ⟨8 * (0xB00010 + p * 0x20) + 4, 5, 0, true⟩
/-- `HOSTPORT.LINK_STATUS.FLIT`, RO (12_host_ports). -/
def HOSTPORT.LINK_STATUS.FLIT (p : Nat) : Fld := ⟨8 * (0xB00010 + p * 0x20) + 9, 1, 0, true⟩
/-- `HOSTPORT.LINK_STATUS.PERST`, RO (12_host_ports). -/
def HOSTPORT.LINK_STATUS.PERST (p : Nat) : Fld := ⟨8 * (0xB00010 + p * 0x20) + 10, 1, 0, true⟩
/-- `HOSTPORT.LINK_STATUS.LINK_DOWNS`, RO (12_host_ports). -/
def HOSTPORT.LINK_STATUS.LINK_DOWNS (p : Nat) : Fld := ⟨8 * (0xB00010 + p * 0x20) + 16, 16, 0, true⟩
/-- `HOSTPORT.LINK_STATUS.FLR_COUNT`, RO (12_host_ports). -/
def HOSTPORT.LINK_STATUS.FLR_COUNT (p : Nat) : Fld := ⟨8 * (0xB00010 + p * 0x20) + 32, 16, 0, true⟩
/-- `HOSTPORT.HP_COUNT.WIN_READS_ABANDONED`, RO (12_host_ports). -/
def HOSTPORT.HP_COUNT.WIN_READS_ABANDONED (p : Nat) : Fld := ⟨8 * (0xB00018 + p * 0x20) + 0, 16, 0, true⟩
/-- `HOSTPORT.HP_COUNT.WIN_UNMAPPED`, RO (12_host_ports). -/
def HOSTPORT.HP_COUNT.WIN_UNMAPPED (p : Nat) : Fld := ⟨8 * (0xB00018 + p * 0x20) + 16, 16, 0, true⟩
/-- `HOSTPORT.HP_COUNT.CONF_AUTH_FAILS`, RO (12_host_ports). -/
def HOSTPORT.HP_COUNT.CONF_AUTH_FAILS (p : Nat) : Fld := ⟨8 * (0xB00018 + p * 0x20) + 32, 16, 0, true⟩
/-- `HOSTPORT.HP_COUNT.ADMIN_EVENTS_DROPPED`, RO (12_host_ports). -/
def HOSTPORT.HP_COUNT.ADMIN_EVENTS_DROPPED (p : Nat) : Fld := ⟨8 * (0xB00018 + p * 0x20) + 48, 16, 0, true⟩
/-- `HOSTPORT.PORT_CFG.TOTAL_VFS`, RWG (12_host_ports). -/
def HOSTPORT.PORT_CFG.TOTAL_VFS (p : Nat) : Fld := ⟨8 * (0xB00100 + p * 0x10) + 0, 8, 255, false⟩
/-- `HOSTPORT.PORT_CFG.PF_VECTORS`, RWG (12_host_ports). -/
def HOSTPORT.PORT_CFG.PF_VECTORS (p : Nat) : Fld := ⟨8 * (0xB00100 + p * 0x10) + 8, 12, 256, false⟩
/-- `HOSTPORT.PORT_CFG.VF_VECTORS`, RWG (12_host_ports). -/
def HOSTPORT.PORT_CFG.VF_VECTORS (p : Nat) : Fld := ⟨8 * (0xB00100 + p * 0x10) + 20, 12, 7, false⟩
/-- `HOSTPORT.PORT_CFG.WIN_READ_MS`, RWG (12_host_ports). -/
def HOSTPORT.PORT_CFG.WIN_READ_MS (p : Nat) : Fld := ⟨8 * (0xB00100 + p * 0x10) + 32, 6, 10, false⟩
/-- `HOSTPORT.WIN.VALID`, RW (12_host_ports). -/
def HOSTPORT.WIN.VALID (p k : Nat) : Fld := ⟨8 * (0xB00200 + p * 0x80 + k * 0x8) + 0, 1, 0, false⟩
/-- `HOSTPORT.WIN.CTX`, RW (12_host_ports). -/
def HOSTPORT.WIN.CTX (p k : Nat) : Fld := ⟨8 * (0xB00200 + p * 0x80 + k * 0x8) + 1, 12, 0, false⟩
/-- `HOSTPORT.WIN.VOL`, RW (12_host_ports). -/
def HOSTPORT.WIN.VOL (p k : Nat) : Fld := ⟨8 * (0xB00200 + p * 0x80 + k * 0x8) + 13, 1, 0, false⟩
/-- `HOSTPORT.WIN.ACQ`, RW (12_host_ports). -/
def HOSTPORT.WIN.ACQ (p k : Nat) : Fld := ⟨8 * (0xB00200 + p * 0x80 + k * 0x8) + 14, 1, 0, false⟩
/-- `HOSTPORT.WIN.NC`, RW (12_host_ports). -/
def HOSTPORT.WIN.NC (p k : Nat) : Fld := ⟨8 * (0xB00200 + p * 0x80 + k * 0x8) + 15, 1, 0, false⟩
/-- `HOSTPORT.WIN.COMB`, RW (12_host_ports). -/
def HOSTPORT.WIN.COMB (p k : Nat) : Fld := ⟨8 * (0xB00200 + p * 0x80 + k * 0x8) + 16, 1, 0, false⟩
/-- `HOSTPORT.WIN.TC`, RW (12_host_ports). -/
def HOSTPORT.WIN.TC (p k : Nat) : Fld := ⟨8 * (0xB00200 + p * 0x80 + k * 0x8) + 17, 3, 3, false⟩
/-- `HOSTPORT.WIN.FVA_4G`, RW (12_host_ports). -/
def HOSTPORT.WIN.FVA_4G (p k : Nat) : Fld := ⟨8 * (0xB00200 + p * 0x80 + k * 0x8) + 21, 25, 0, false⟩
/-- `HOSTPORT.VF_WIN.VALID`, RW (12_host_ports). -/
def HOSTPORT.VF_WIN.VALID (p v : Nat) : Fld := ⟨8 * (0xB08000 + p * 0x800 + v * 0x8) + 0, 1, 0, false⟩
/-- `HOSTPORT.VF_WIN.CTX`, RW (12_host_ports). -/
def HOSTPORT.VF_WIN.CTX (p v : Nat) : Fld := ⟨8 * (0xB08000 + p * 0x800 + v * 0x8) + 1, 12, 0, false⟩
/-- `HOSTPORT.VF_WIN.VOL`, RW (12_host_ports). -/
def HOSTPORT.VF_WIN.VOL (p v : Nat) : Fld := ⟨8 * (0xB08000 + p * 0x800 + v * 0x8) + 13, 1, 0, false⟩
/-- `HOSTPORT.VF_WIN.ACQ`, RW (12_host_ports). -/
def HOSTPORT.VF_WIN.ACQ (p v : Nat) : Fld := ⟨8 * (0xB08000 + p * 0x800 + v * 0x8) + 14, 1, 0, false⟩
/-- `HOSTPORT.VF_WIN.NC`, RW (12_host_ports). -/
def HOSTPORT.VF_WIN.NC (p v : Nat) : Fld := ⟨8 * (0xB08000 + p * 0x800 + v * 0x8) + 15, 1, 0, false⟩
/-- `HOSTPORT.VF_WIN.COMB`, RW (12_host_ports). -/
def HOSTPORT.VF_WIN.COMB (p v : Nat) : Fld := ⟨8 * (0xB08000 + p * 0x800 + v * 0x8) + 16, 1, 0, false⟩
/-- `HOSTPORT.VF_WIN.TC`, RW (12_host_ports). -/
def HOSTPORT.VF_WIN.TC (p v : Nat) : Fld := ⟨8 * (0xB08000 + p * 0x800 + v * 0x8) + 17, 3, 3, false⟩
/-- `HOSTPORT.VF_WIN.FVA_4G`, RW (12_host_ports). -/
def HOSTPORT.VF_WIN.FVA_4G (p v : Nat) : Fld := ⟨8 * (0xB08000 + p * 0x800 + v * 0x8) + 21, 25, 0, false⟩
/-- `HOSTPORT.FUNC_QOS.WEIGHT`, RW (12_host_ports). -/
def HOSTPORT.FUNC_QOS.WEIGHT (p f : Nat) : Fld := ⟨8 * (0xB01000 + p * 0x800 + f * 0x8) + 0, 8, 16, false⟩
/-- `HOSTPORT.FUNC_QOS.RATE_CAP_GBS`, RW (12_host_ports). -/
def HOSTPORT.FUNC_QOS.RATE_CAP_GBS (p f : Nat) : Fld := ⟨8 * (0xB01000 + p * 0x800 + f * 0x8) + 8, 8, 0, false⟩
/-- `HOSTPORT.FUNC_STATE.FLR_ACTIVE`, RO (12_host_ports). -/
def HOSTPORT.FUNC_STATE.FLR_ACTIVE (p f : Nat) : Fld := ⟨8 * (0xB02000 + p * 0x800 + f * 0x8) + 0, 1, 0, true⟩
/-- `HOSTPORT.FUNC_STATE.FLR_STEP`, RO (12_host_ports). -/
def HOSTPORT.FUNC_STATE.FLR_STEP (p f : Nat) : Fld := ⟨8 * (0xB02000 + p * 0x800 + f * 0x8) + 1, 3, 0, true⟩
/-- `HOSTPORT.FUNC_STATE.CONFIDENTIAL`, RO (12_host_ports). -/
def HOSTPORT.FUNC_STATE.CONFIDENTIAL (p f : Nat) : Fld := ⟨8 * (0xB02000 + p * 0x800 + f * 0x8) + 4, 1, 0, true⟩
/-- `HOSTPORT.FUNC_STATE.QOS_ACTIVE`, RO (12_host_ports). -/
def HOSTPORT.FUNC_STATE.QOS_ACTIVE (p f : Nat) : Fld := ⟨8 * (0xB02000 + p * 0x800 + f * 0x8) + 5, 1, 0, true⟩
/-- `HOSTPORT.FUNC_STATE.CONTEXTS`, RO (12_host_ports). -/
def HOSTPORT.FUNC_STATE.CONTEXTS (p f : Nat) : Fld := ⟨8 * (0xB02000 + p * 0x800 + f * 0x8) + 8, 13, 0, true⟩
/-- `HOSTPORT.FUNC_STATE.LAST_FLR_US`, RO (12_host_ports). -/
def HOSTPORT.FUNC_STATE.LAST_FLR_US (p f : Nat) : Fld := ⟨8 * (0xB02000 + p * 0x800 + f * 0x8) + 32, 32, 0, true⟩
/-- `HOSTPORT.EQ_MOD.MOD_COUNT`, RW (12_host_ports). -/
def HOSTPORT.EQ_MOD.MOD_COUNT (c : Nat) : Fld := ⟨8 * (0xB04000 + c * 0x4) + 0, 8, 1, false⟩
/-- `HOSTPORT.EQ_MOD.MOD_US`, RW (12_host_ports). -/
def HOSTPORT.EQ_MOD.MOD_US (c : Nat) : Fld := ⟨8 * (0xB04000 + c * 0x4) + 8, 10, 0, false⟩
/-- `HOSTPORT.VF_CTX_MAP.CTX`, RW (12_host_ports). -/
def HOSTPORT.VF_CTX_MAP.CTX (p v i : Nat) : Fld := ⟨8 * (0xB20000 + p * 0x10000 + v * 0x100 + i * 0x4) + 0, 12, 0, false⟩
/-- `HOSTPORT.VF_CTX_MAP.VALID`, RW (12_host_ports). -/
def HOSTPORT.VF_CTX_MAP.VALID (p v i : Nat) : Fld := ⟨8 * (0xB20000 + p * 0x10000 + v * 0x100 + i * 0x4) + 12, 1, 0, false⟩
/-- `PORT.PORT_CFG.SPLIT`, RWG (13_lanes_and_ports). -/
def PORT.PORT_CFG.SPLIT (p : Nat) : Fld := ⟨8 * (0xC00000 + p * 0x4000) + 0, 1, 0, false⟩
/-- `PORT.PORT_CFG.MIN_WIDTH`, RWG (13_lanes_and_ports). -/
def PORT.PORT_CFG.MIN_WIDTH (p : Nat) : Fld := ⟨8 * (0xC00000 + p * 0x4000) + 1, 3, 1, false⟩
/-- `PORT.PORT_CFG.LOOPBACK`, RWG (13_lanes_and_ports). -/
def PORT.PORT_CFG.LOOPBACK (p : Nat) : Fld := ⟨8 * (0xC00000 + p * 0x4000) + 4, 3, 0, false⟩
/-- `PORT.PORT_CFG.PATTERN`, RWG (13_lanes_and_ports). -/
def PORT.PORT_CFG.PATTERN (p : Nat) : Fld := ⟨8 * (0xC00000 + p * 0x4000) + 7, 2, 0, false⟩
/-- `PORT.PORT_CFG.MEDIA`, RWG (13_lanes_and_ports). -/
def PORT.PORT_CFG.MEDIA (p : Nat) : Fld := ⟨8 * (0xC00000 + p * 0x4000) + 9, 1, 0, false⟩
/-- `PORT.PORT_CFG.CMIS_CH`, RWG (13_lanes_and_ports). -/
def PORT.PORT_CFG.CMIS_CH (p : Nat) : Fld := ⟨8 * (0xC00000 + p * 0x4000) + 10, 7, 0, false⟩
/-- `PORT.THRESH.SER_RETIRE`, RW (13_lanes_and_ports). -/
def PORT.THRESH.SER_RETIRE (p : Nat) : Fld := ⟨8 * (0xC00008 + p * 0x4000) + 0, 10, 100, false⟩
/-- `PORT.THRESH.RETRAIN_LIMIT`, RW (13_lanes_and_ports). -/
def PORT.THRESH.RETRAIN_LIMIT (p : Nat) : Fld := ⟨8 * (0xC00008 + p * 0x4000) + 10, 4, 4, false⟩
/-- `PORT.THRESH.RETRAIN_WINDOW_MIN`, RW (13_lanes_and_ports). -/
def PORT.THRESH.RETRAIN_WINDOW_MIN (p : Nat) : Fld := ⟨8 * (0xC00008 + p * 0x4000) + 14, 8, 10, false⟩
/-- `PORT.LINK_CFG.AUTH_LIMIT`, RW (13_lanes_and_ports). -/
def PORT.LINK_CFG.AUTH_LIMIT (p : Nat) : Fld := ⟨8 * (0xC00010 + p * 0x4000) + 0, 8, 64, false⟩
/-- `PORT.LINK_CFG.UCW_RETRAIN`, RW (13_lanes_and_ports). -/
def PORT.LINK_CFG.UCW_RETRAIN (p : Nat) : Fld := ⟨8 * (0xC00010 + p * 0x4000) + 8, 8, 16, false⟩
/-- `PORT.PORT_SNAP.REQ`, W1S (13_lanes_and_ports). -/
def PORT.PORT_SNAP.REQ (p : Nat) : Fld := ⟨8 * (0xC00018 + p * 0x4000) + 0, 1, 0, false⟩
/-- `PORT.PORT_SNAP.DONE`, RO (13_lanes_and_ports). -/
def PORT.PORT_SNAP.DONE (p : Nat) : Fld := ⟨8 * (0xC00018 + p * 0x4000) + 1, 1, 0, false⟩
/-- `PORT.PORT_SNAP.OVERRUN`, W1C (13_lanes_and_ports). -/
def PORT.PORT_SNAP.OVERRUN (p : Nat) : Fld := ⟨8 * (0xC00018 + p * 0x4000) + 2, 1, 0, false⟩
/-- `PORT.LINK_STATUS.STATE`, RO (13_lanes_and_ports). -/
def PORT.LINK_STATUS.STATE (p h : Nat) : Fld := ⟨8 * (0xC00020 + p * 0x4000 + h * 0x8) + 0, 3, 0, false⟩
/-- `PORT.LINK_STATUS.WIDTH`, RO (13_lanes_and_ports). -/
def PORT.LINK_STATUS.WIDTH (p h : Nat) : Fld := ⟨8 * (0xC00020 + p * 0x4000 + h * 0x8) + 3, 4, 0, false⟩
/-- `PORT.LINK_STATUS.ACTIVE_LANES`, RO (13_lanes_and_ports). -/
def PORT.LINK_STATUS.ACTIVE_LANES (p h : Nat) : Fld := ⟨8 * (0xC00020 + p * 0x4000 + h * 0x8) + 7, 8, 0, false⟩
/-- `PORT.LINK_STATUS.KEY_SEQ`, RO (13_lanes_and_ports). -/
def PORT.LINK_STATUS.KEY_SEQ (p h : Nat) : Fld := ⟨8 * (0xC00020 + p * 0x4000 + h * 0x8) + 15, 8, 0, false⟩
/-- `PORT.LINK_STATUS.DOWN_CAUSE`, RO (13_lanes_and_ports). -/
def PORT.LINK_STATUS.DOWN_CAUSE (p h : Nat) : Fld := ⟨8 * (0xC00020 + p * 0x4000 + h * 0x8) + 23, 4, 0, false⟩
/-- `PORT.LINK_STATUS.LINK_UPS`, RO (13_lanes_and_ports). -/
def PORT.LINK_STATUS.LINK_UPS (p h : Nat) : Fld := ⟨8 * (0xC00020 + p * 0x4000 + h * 0x8) + 28, 16, 0, false⟩
/-- `PORT.KEY_STATUS.TX_FRAMES_KEY`, RO (13_lanes_and_ports). -/
def PORT.KEY_STATUS.TX_FRAMES_KEY (p h : Nat) : Fld := ⟨8 * (0xC00030 + p * 0x4000 + h * 0x8) + 0, 40, 0, false⟩
/-- `PORT.KEY_STATUS.KEY_AGE_S`, RO (13_lanes_and_ports). -/
def PORT.KEY_STATUS.KEY_AGE_S (p h : Nat) : Fld := ⟨8 * (0xC00030 + p * 0x4000 + h * 0x8) + 40, 17, 0, false⟩
/-- `PORT.KEY_STATUS.NEXT_READY`, RO (13_lanes_and_ports). -/
def PORT.KEY_STATUS.NEXT_READY (p h : Nat) : Fld := ⟨8 * (0xC00030 + p * 0x4000 + h * 0x8) + 57, 1, 0, false⟩
/-- `PORT.PORT_COUNT.AUTH_FAILS`, RO (13_lanes_and_ports). -/
def PORT.PORT_COUNT.AUTH_FAILS (p h : Nat) : Fld := ⟨8 * (0xC00040 + p * 0x4000 + h * 0x10) + 0, 32, 0, false⟩
/-- `PORT.PORT_COUNT.FRAME_ERRORS`, RO (13_lanes_and_ports). -/
def PORT.PORT_COUNT.FRAME_ERRORS (p h : Nat) : Fld := ⟨8 * (0xC00040 + p * 0x4000 + h * 0x10) + 32, 32, 0, false⟩
/-- `PORT.PORT_COUNT.MALFORMED`, RO (13_lanes_and_ports). -/
def PORT.PORT_COUNT.MALFORMED (p h : Nat) : Fld := ⟨8 * (0xC00040 + p * 0x4000 + h * 0x10) + 64, 32, 0, false⟩
/-- `PORT.PORT_COUNT.FLUSHED`, RO (13_lanes_and_ports). -/
def PORT.PORT_COUNT.FLUSHED (p h : Nat) : Fld := ⟨8 * (0xC00040 + p * 0x4000 + h * 0x10) + 96, 32, 0, false⟩
/-- `PORT.LANE_STATUS.STATE`, RO (13_lanes_and_ports). -/
def PORT.LANE_STATUS.STATE (p l : Nat) : Fld := ⟨8 * (0xC00100 + p * 0x4000 + l * 0x8) + 0, 3, 0, false⟩
/-- `PORT.LANE_STATUS.LOGICAL`, RO (13_lanes_and_ports). -/
def PORT.LANE_STATUS.LOGICAL (p l : Nat) : Fld := ⟨8 * (0xC00100 + p * 0x4000 + l * 0x8) + 3, 3, 0, false⟩
/-- `PORT.LANE_STATUS.LOS`, RO (13_lanes_and_ports). -/
def PORT.LANE_STATUS.LOS (p l : Nat) : Fld := ⟨8 * (0xC00100 + p * 0x4000 + l * 0x8) + 6, 1, 0, false⟩
/-- `PORT.LANE_STATUS.LOL`, RO (13_lanes_and_ports). -/
def PORT.LANE_STATUS.LOL (p l : Nat) : Fld := ⟨8 * (0xC00100 + p * 0x4000 + l * 0x8) + 7, 1, 0, false⟩
/-- `PORT.LANE_STATUS.LAST_FAULT`, RO (13_lanes_and_ports). -/
def PORT.LANE_STATUS.LAST_FAULT (p l : Nat) : Fld := ⟨8 * (0xC00100 + p * 0x4000 + l * 0x8) + 8, 3, 0, false⟩
/-- `PORT.LANE_STATUS.RETIRE`, W1S (13_lanes_and_ports). -/
def PORT.LANE_STATUS.RETIRE (p l : Nat) : Fld := ⟨8 * (0xC00100 + p * 0x4000 + l * 0x8) + 11, 1, 0, false⟩
/-- `PORT.LANE_STATUS.REINSTATE`, W1S (13_lanes_and_ports). -/
def PORT.LANE_STATUS.REINSTATE (p l : Nat) : Fld := ⟨8 * (0xC00100 + p * 0x4000 + l * 0x8) + 12, 1, 0, false⟩
/-- `PORT.LANE_STATUS.RETRAINS`, RO (13_lanes_and_ports). -/
def PORT.LANE_STATUS.RETRAINS (p l : Nat) : Fld := ⟨8 * (0xC00100 + p * 0x4000 + l * 0x8) + 16, 8, 0, false⟩
/-- `PORT.LANE_STATUS.SKEW_NS`, RO (13_lanes_and_ports). -/
def PORT.LANE_STATUS.SKEW_NS (p l : Nat) : Fld := ⟨8 * (0xC00100 + p * 0x4000 + l * 0x8) + 32, 10, 0, false⟩
/-- `PORT.LANE_COUNT.CORRECTED_SYMBOLS`, RO (13_lanes_and_ports). -/
def PORT.LANE_COUNT.CORRECTED_SYMBOLS (p l : Nat) : Fld := ⟨8 * (0xC00200 + p * 0x4000 + l * 0x10) + 0, 48, 0, false⟩
/-- `PORT.LANE_COUNT.LOS_EVENTS`, RO (13_lanes_and_ports). -/
def PORT.LANE_COUNT.LOS_EVENTS (p l : Nat) : Fld := ⟨8 * (0xC00200 + p * 0x4000 + l * 0x10) + 48, 16, 0, false⟩
/-- `PORT.LANE_COUNT.UNCORRECTABLE`, RO (13_lanes_and_ports). -/
def PORT.LANE_COUNT.UNCORRECTABLE (p l : Nat) : Fld := ⟨8 * (0xC00200 + p * 0x4000 + l * 0x10) + 64, 32, 0, false⟩
/-- `PORT.LANE_COUNT.LOL_EVENTS`, RO (13_lanes_and_ports). -/
def PORT.LANE_COUNT.LOL_EVENTS (p l : Nat) : Fld := ⟨8 * (0xC00200 + p * 0x4000 + l * 0x10) + 96, 16, 0, false⟩
/-- `PORT.LANE_PRBS.ERRORS`, RO (13_lanes_and_ports). -/
def PORT.LANE_PRBS.ERRORS (p l : Nat) : Fld := ⟨8 * (0xC00300 + p * 0x4000 + l * 0x8) + 0, 64, 0, false⟩
/-- `PORT.EYE_CTL.EYE`, RW (13_lanes_and_ports). -/
def PORT.EYE_CTL.EYE (p : Nat) : Fld := ⟨8 * (0xC00400 + p * 0x4000) + 0, 2, 0, false⟩
/-- `PORT.EYE_CTL.PHASE`, RW (13_lanes_and_ports). -/
def PORT.EYE_CTL.PHASE (p : Nat) : Fld := ⟨8 * (0xC00400 + p * 0x4000) + 2, 6, 0, false⟩
/-- `PORT.EYE_CTL.VOFF`, RW (13_lanes_and_ports). -/
def PORT.EYE_CTL.VOFF (p : Nat) : Fld := ⟨8 * (0xC00400 + p * 0x4000) + 8, 7, 0, false⟩
/-- `PORT.EYE_CTL.DWELL_LOG2`, RW (13_lanes_and_ports). -/
def PORT.EYE_CTL.DWELL_LOG2 (p : Nat) : Fld := ⟨8 * (0xC00400 + p * 0x4000) + 15, 5, 20, false⟩
/-- `PORT.EYE_CTL.START`, W1S (13_lanes_and_ports). -/
def PORT.EYE_CTL.START (p : Nat) : Fld := ⟨8 * (0xC00400 + p * 0x4000) + 20, 1, 0, false⟩
/-- `PORT.EYE_CTL.DONE`, RO (13_lanes_and_ports). -/
def PORT.EYE_CTL.DONE (p : Nat) : Fld := ⟨8 * (0xC00400 + p * 0x4000) + 21, 1, 0, false⟩
/-- `PORT.EYE_CTL.OVERRUN`, W1C (13_lanes_and_ports). -/
def PORT.EYE_CTL.OVERRUN (p : Nat) : Fld := ⟨8 * (0xC00400 + p * 0x4000) + 22, 1, 0, false⟩
/-- `PORT.EYE_RESULT.ERRORS`, RO (13_lanes_and_ports). -/
def PORT.EYE_RESULT.ERRORS (p : Nat) : Fld := ⟨8 * (0xC00408 + p * 0x4000) + 0, 32, 0, false⟩
/-- `PORT.EYE_RESULT.DWELL_USED`, RO (13_lanes_and_ports). -/
def PORT.EYE_RESULT.DWELL_USED (p : Nat) : Fld := ⟨8 * (0xC00408 + p * 0x4000) + 32, 5, 0, false⟩
/-- `PORT.CMIS_STATUS.PRESENT`, RO (13_lanes_and_ports). -/
def PORT.CMIS_STATUS.PRESENT (p : Nat) : Fld := ⟨8 * (0xC00500 + p * 0x4000) + 0, 1, 0, false⟩
/-- `PORT.CMIS_STATUS.MODULE_STATE`, RO (13_lanes_and_ports). -/
def PORT.CMIS_STATUS.MODULE_STATE (p : Nat) : Fld := ⟨8 * (0xC00500 + p * 0x4000) + 1, 3, 0, false⟩
/-- `PORT.CMIS_STATUS.APP_SEL`, RO (13_lanes_and_ports). -/
def PORT.CMIS_STATUS.APP_SEL (p : Nat) : Fld := ⟨8 * (0xC00500 + p * 0x4000) + 4, 4, 0, false⟩
/-- `PORT.CMIS_STATUS.FAULT`, RO (13_lanes_and_ports). -/
def PORT.CMIS_STATUS.FAULT (p : Nat) : Fld := ⟨8 * (0xC00500 + p * 0x4000) + 8, 1, 0, false⟩
/-- `PORT.CMIS_STATUS.ALARM`, RO (13_lanes_and_ports). -/
def PORT.CMIS_STATUS.ALARM (p : Nat) : Fld := ⟨8 * (0xC00500 + p * 0x4000) + 9, 1, 0, false⟩
/-- `PORT.CMIS_STATUS.WARNING`, RO (13_lanes_and_ports). -/
def PORT.CMIS_STATUS.WARNING (p : Nat) : Fld := ⟨8 * (0xC00500 + p * 0x4000) + 10, 1, 0, false⟩
/-- `PORT.CMIS_STATUS.TEMP`, RO (13_lanes_and_ports). -/
def PORT.CMIS_STATUS.TEMP (p : Nat) : Fld := ⟨8 * (0xC00500 + p * 0x4000) + 16, 16, 0, false⟩
/-- `PORT.CMIS_STATUS.READ_FAILS`, RO (13_lanes_and_ports). -/
def PORT.CMIS_STATUS.READ_FAILS (p : Nat) : Fld := ⟨8 * (0xC00500 + p * 0x4000) + 32, 16, 0, false⟩
/-- `GLOBAL.ERR_RING_BASE.BASE`, RW (14_failure_and_replay). -/
def GLOBAL.ERR_RING_BASE.BASE : Fld := ⟨8 * (0x8000) + 12, 52, 0, false⟩
/-- `GLOBAL.ERR_RING_CFG.ENABLE`, RW (14_failure_and_replay). -/
def GLOBAL.ERR_RING_CFG.ENABLE : Fld := ⟨8 * (0x8008) + 0, 1, 0, false⟩
/-- `GLOBAL.ERR_RING_CFG.SIZE_LOG2`, RW (14_failure_and_replay). -/
def GLOBAL.ERR_RING_CFG.SIZE_LOG2 : Fld := ⟨8 * (0x8008) + 1, 5, 12, false⟩
/-- `GLOBAL.ERR_RING_CFG.VECTOR`, RW (14_failure_and_replay). -/
def GLOBAL.ERR_RING_CFG.VECTOR : Fld := ⟨8 * (0x8008) + 6, 11, 0, false⟩
/-- `GLOBAL.ERR_RING_CFG.MOD_COUNT`, RW (14_failure_and_replay). -/
def GLOBAL.ERR_RING_CFG.MOD_COUNT : Fld := ⟨8 * (0x8008) + 17, 8, 1, false⟩
/-- `GLOBAL.ERR_RING_HEAD.HEAD`, RW (14_failure_and_replay). -/
def GLOBAL.ERR_RING_HEAD.HEAD : Fld := ⟨8 * (0x8010) + 0, 32, 0, false⟩
/-- `GLOBAL.ERR_RING_TAIL.TAIL`, RO (14_failure_and_replay). -/
def GLOBAL.ERR_RING_TAIL.TAIL : Fld := ⟨8 * (0x8018) + 0, 32, 0, false⟩
/-- `GLOBAL.ERR_RING_STATUS.FULL`, RO (14_failure_and_replay). -/
def GLOBAL.ERR_RING_STATUS.FULL : Fld := ⟨8 * (0x8020) + 0, 1, 0, false⟩
/-- `GLOBAL.ERR_RING_STATUS.OVERRUN_PENDING`, RO (14_failure_and_replay). -/
def GLOBAL.ERR_RING_STATUS.OVERRUN_PENDING : Fld := ⟨8 * (0x8020) + 1, 1, 0, false⟩
/-- `GLOBAL.ERR_RING_STATUS.HANDOVER_DISABLED`, W1C (14_failure_and_replay). -/
def GLOBAL.ERR_RING_STATUS.HANDOVER_DISABLED : Fld := ⟨8 * (0x8020) + 2, 1, 0, false⟩
/-- `GLOBAL.ERR_RING_STATUS.DROPPED`, RO (14_failure_and_replay). -/
def GLOBAL.ERR_RING_STATUS.DROPPED : Fld := ⟨8 * (0x8020) + 32, 32, 0, false⟩
/-- `GLOBAL.STEP_CMD.TENANT`, WO (14_failure_and_replay). -/
def GLOBAL.STEP_CMD.TENANT : Fld := ⟨8 * (0x8100) + 0, 12, 0, false⟩
/-- `GLOBAL.STEP_CMD.NEW_EPOCH`, WO (14_failure_and_replay). -/
def GLOBAL.STEP_CMD.NEW_EPOCH : Fld := ⟨8 * (0x8100) + 12, 8, 0, false⟩
/-- `GLOBAL.STEP_STATUS.QUEUED`, RO (14_failure_and_replay). -/
def GLOBAL.STEP_STATUS.QUEUED : Fld := ⟨8 * (0x8108) + 0, 7, 0, false⟩
/-- `GLOBAL.STEP_STATUS.OVERRUN`, W1C (14_failure_and_replay). -/
def GLOBAL.STEP_STATUS.OVERRUN : Fld := ⟨8 * (0x8108) + 7, 1, 0, false⟩
/-- `GLOBAL.LOG_STATUS.FIRST_FILLED`, RO (14_failure_and_replay). -/
def GLOBAL.LOG_STATUS.FIRST_FILLED : Fld := ⟨8 * (0x8200) + 0, 7, 0, false⟩
/-- `GLOBAL.LOG_STATUS.LAST_NEXT`, RO (14_failure_and_replay). -/
def GLOBAL.LOG_STATUS.LAST_NEXT : Fld := ⟨8 * (0x8200) + 7, 8, 0, false⟩
/-- `GLOBAL.LOG_STATUS.LAST_WRAPPED`, RO (14_failure_and_replay). -/
def GLOBAL.LOG_STATUS.LAST_WRAPPED : Fld := ⟨8 * (0x8200) + 15, 1, 0, false⟩
/-- `GLOBAL.LOG_STATUS.CLEAR`, W1S (14_failure_and_replay). -/
def GLOBAL.LOG_STATUS.CLEAR : Fld := ⟨8 * (0x8200) + 16, 1, 0, false⟩
/-- `GLOBAL.LOG_STATUS.TOTAL`, RO (14_failure_and_replay). -/
def GLOBAL.LOG_STATUS.TOTAL : Fld := ⟨8 * (0x8200) + 32, 32, 0, true⟩
/-- `GLOBAL.ERR_SRC.COUNT`, RO (14_failure_and_replay). -/
def GLOBAL.ERR_SRC.COUNT (n : Nat) : Fld := ⟨8 * (0x10000 + n * 0x20) + 0, 32, 0, false⟩
/-- `GLOBAL.ERR_SRC.UPDATE`, RO (14_failure_and_replay). -/
def GLOBAL.ERR_SRC.UPDATE (n : Nat) : Fld := ⟨8 * (0x10000 + n * 0x20) + 32, 16, 0, true⟩
/-- `GLOBAL.ERR_SRC.CLEAR`, W1S (14_failure_and_replay). -/
def GLOBAL.ERR_SRC.CLEAR (n : Nat) : Fld := ⟨8 * (0x10000 + n * 0x20) + 48, 1, 0, false⟩
/-- `GLOBAL.ERR_SRC.FIRST_TIME`, RO (14_failure_and_replay). -/
def GLOBAL.ERR_SRC.FIRST_TIME (n : Nat) : Fld := ⟨8 * (0x10000 + n * 0x20) + 64, 64, 0, false⟩
/-- `GLOBAL.ERR_SRC.FIRST_CLASS`, RO (14_failure_and_replay). -/
def GLOBAL.ERR_SRC.FIRST_CLASS (n : Nat) : Fld := ⟨8 * (0x10000 + n * 0x20) + 128, 8, 0, false⟩
/-- `GLOBAL.ERR_SRC.FIRST_CAUSE`, RO (14_failure_and_replay). -/
def GLOBAL.ERR_SRC.FIRST_CAUSE (n : Nat) : Fld := ⟨8 * (0x10000 + n * 0x20) + 136, 16, 0, false⟩
/-- `GLOBAL.ERR_SRC.LAST_CLASS`, RO (14_failure_and_replay). -/
def GLOBAL.ERR_SRC.LAST_CLASS (n : Nat) : Fld := ⟨8 * (0x10000 + n * 0x20) + 152, 8, 0, false⟩
/-- `GLOBAL.ERR_SRC.LAST_CAUSE`, RO (14_failure_and_replay). -/
def GLOBAL.ERR_SRC.LAST_CAUSE (n : Nat) : Fld := ⟨8 * (0x10000 + n * 0x20) + 160, 16, 0, false⟩
/-- `GLOBAL.ERR_SRC.LAST_TIME`, RO (14_failure_and_replay). -/
def GLOBAL.ERR_SRC.LAST_TIME (n : Nat) : Fld := ⟨8 * (0x10000 + n * 0x20) + 192, 64, 0, false⟩
/-- `GLOBAL.ERR_LOG.WORD`, RO (14_failure_and_replay). -/
def GLOBAL.ERR_LOG.WORD (k w : Nat) : Fld := ⟨8 * (0x20000 + k * 0x40) + (0 + 64 * w), 64, 0, false⟩
/-- `HBM.HBM_CFG.CE_LIMIT`, RW (14_failure_and_replay). -/
def HBM.HBM_CFG.CE_LIMIT (m : Nat) : Fld := ⟨8 * (0x1000000 + m * 0x10000) + 0, 8, 64, false⟩
/-- `HBM.HBM_CFG.CE_WINDOW_S`, RW (14_failure_and_replay). -/
def HBM.HBM_CFG.CE_WINDOW_S (m : Nat) : Fld := ⟨8 * (0x1000000 + m * 0x10000) + 8, 16, 60, false⟩
/-- `HBM.HBM_CFG.UE_LIMIT`, RW (14_failure_and_replay). -/
def HBM.HBM_CFG.UE_LIMIT (m : Nat) : Fld := ⟨8 * (0x1000000 + m * 0x10000) + 24, 4, 2, false⟩
/-- `HBM.HBM_SNAP.REQ`, W1S (14_failure_and_replay). -/
def HBM.HBM_SNAP.REQ (m : Nat) : Fld := ⟨8 * (0x1000008 + m * 0x10000) + 0, 1, 0, false⟩
/-- `HBM.HBM_SNAP.DONE`, RO (14_failure_and_replay). -/
def HBM.HBM_SNAP.DONE (m : Nat) : Fld := ⟨8 * (0x1000008 + m * 0x10000) + 1, 1, 0, false⟩
/-- `HBM.HBM_SNAP.OVERRUN`, W1C (14_failure_and_replay). -/
def HBM.HBM_SNAP.OVERRUN (m : Nat) : Fld := ⟨8 * (0x1000008 + m * 0x10000) + 2, 1, 0, false⟩
/-- `HBM.HBM_COUNT.CORRECTED`, RO (14_failure_and_replay). -/
def HBM.HBM_COUNT.CORRECTED (m : Nat) : Fld := ⟨8 * (0x1000010 + m * 0x10000) + 0, 32, 0, false⟩
/-- `HBM.HBM_COUNT.UNCORRECTABLE`, RO (14_failure_and_replay). -/
def HBM.HBM_COUNT.UNCORRECTABLE (m : Nat) : Fld := ⟨8 * (0x1000010 + m * 0x10000) + 32, 16, 0, false⟩
/-- `HBM.HBM_COUNT.RETRAINS`, RO (14_failure_and_replay). -/
def HBM.HBM_COUNT.RETRAINS (m : Nat) : Fld := ⟨8 * (0x1000010 + m * 0x10000) + 48, 16, 0, false⟩
/-- `HBM.HBM_STATUS.RETIRED_PCS`, RO (14_failure_and_replay). -/
def HBM.HBM_STATUS.RETIRED_PCS (m : Nat) : Fld := ⟨8 * (0x1000018 + m * 0x10000) + 0, 7, 0, false⟩
/-- `HBM.HBM_STATUS.RESERVE_LEFT`, RO (14_failure_and_replay). -/
def HBM.HBM_STATUS.RESERVE_LEFT (m : Nat) : Fld := ⟨8 * (0x1000018 + m * 0x10000) + 8, 5, 16, false⟩
/-- `HBM.PC_STATUS.STATE`, RO (14_failure_and_replay). -/
def HBM.PC_STATUS.STATE (m k : Nat) : Fld := ⟨8 * (0x1000100 + m * 0x10000 + k * 0x8) + 0, 3, 0, false⟩
/-- `HBM.PC_STATUS.LAST_FAULT`, RO (14_failure_and_replay). -/
def HBM.PC_STATUS.LAST_FAULT (m k : Nat) : Fld := ⟨8 * (0x1000100 + m * 0x10000 + k * 0x8) + 3, 4, 0, false⟩
/-- `HBM.PC_STATUS.RETIRE`, W1S (14_failure_and_replay). -/
def HBM.PC_STATUS.RETIRE (m k : Nat) : Fld := ⟨8 * (0x1000100 + m * 0x10000 + k * 0x8) + 7, 1, 0, false⟩
/-- `HBM.PC_STATUS.REINSTATE`, W1S (14_failure_and_replay). -/
def HBM.PC_STATUS.REINSTATE (m k : Nat) : Fld := ⟨8 * (0x1000100 + m * 0x10000 + k * 0x8) + 8, 1, 0, false⟩
/-- `HBM.PC_STATUS.DONOR_A`, RO (14_failure_and_replay). -/
def HBM.PC_STATUS.DONOR_A (m k : Nat) : Fld := ⟨8 * (0x1000100 + m * 0x10000 + k * 0x8) + 9, 11, 2047, false⟩
/-- `HBM.PC_STATUS.DONOR_B`, RO (14_failure_and_replay). -/
def HBM.PC_STATUS.DONOR_B (m k : Nat) : Fld := ⟨8 * (0x1000100 + m * 0x10000 + k * 0x8) + 20, 11, 2047, false⟩
/-- `HBM.PC_STATUS.CE_COUNT`, RO (14_failure_and_replay). -/
def HBM.PC_STATUS.CE_COUNT (m k : Nat) : Fld := ⟨8 * (0x1000100 + m * 0x10000 + k * 0x8) + 32, 16, 0, false⟩
/-- `HBM.PC_STATUS.UE_COUNT`, RO (14_failure_and_replay). -/
def HBM.PC_STATUS.UE_COUNT (m k : Nat) : Fld := ⟨8 * (0x1000100 + m * 0x10000 + k * 0x8) + 48, 16, 0, false⟩
/-- `TELEMETRY.TEL_CFG.MAP_REGION`, RWG (15_telemetry). -/
def TELEMETRY.TEL_CFG.MAP_REGION : Fld := ⟨8 * (0xF00000) + 0, 11, 352, false⟩
/-- `TELEMETRY.ALARM_CFG.PIN`, RWG (15_telemetry). -/
def TELEMETRY.ALARM_CFG.PIN : Fld := ⟨8 * (0xF00008) + 0, 4, 0, false⟩
/-- `TELEMETRY.ALARM_CFG.EN`, RWG (15_telemetry). -/
def TELEMETRY.ALARM_CFG.EN : Fld := ⟨8 * (0xF00008) + 4, 1, 0, false⟩
/-- `TELEMETRY.ALARM_CFG.POOL_LOW_MIB`, RWG (15_telemetry). -/
def TELEMETRY.ALARM_CFG.POOL_LOW_MIB : Fld := ⟨8 * (0xF00008) + 5, 8, 16, false⟩
/-- `TELEMETRY.TEL_STATUS.SEQ`, RO (15_telemetry). -/
def TELEMETRY.TEL_STATUS.SEQ : Fld := ⟨8 * (0xF00010) + 0, 32, 0, true⟩
/-- `TELEMETRY.TEL_STATUS.ALARM`, RO (15_telemetry). -/
def TELEMETRY.TEL_STATUS.ALARM : Fld := ⟨8 * (0xF00010) + 32, 1, 0, true⟩
/-- `TELEMETRY.TEL_LAST_TICK.TICK`, RO (15_telemetry). -/
def TELEMETRY.TEL_LAST_TICK.TICK : Fld := ⟨8 * (0xF00018) + 0, 64, 0, true⟩
/-- `TELEMETRY.TEL_CNT_SEL.NUMBER`, RW (15_telemetry). -/
def TELEMETRY.TEL_CNT_SEL.NUMBER : Fld := ⟨8 * (0xF00020) + 0, 24, 0, false⟩
/-- `TELEMETRY.TEL_CNT_SEL.REQ`, W1S (15_telemetry). -/
def TELEMETRY.TEL_CNT_SEL.REQ : Fld := ⟨8 * (0xF00020) + 24, 1, 0, false⟩
/-- `TELEMETRY.TEL_CNT_SEL.DONE`, RO (15_telemetry). -/
def TELEMETRY.TEL_CNT_SEL.DONE : Fld := ⟨8 * (0xF00020) + 25, 1, 0, true⟩
/-- `TELEMETRY.TEL_CNT_SEL.OVERRUN`, W1C (15_telemetry). -/
def TELEMETRY.TEL_CNT_SEL.OVERRUN : Fld := ⟨8 * (0xF00020) + 26, 1, 0, false⟩
/-- `TELEMETRY.TEL_CNT_VALUE.VALUE`, RO (15_telemetry). -/
def TELEMETRY.TEL_CNT_VALUE.VALUE : Fld := ⟨8 * (0xF00028) + 0, 64, 0, true⟩
/-- `TELEMETRY.FF_CFG.FF_REGION`, RWG (15_telemetry). -/
def TELEMETRY.FF_CFG.FF_REGION : Fld := ⟨8 * (0xF00100) + 0, 11, 353, false⟩
/-- `TELEMETRY.FF_CFG.STOP_ON_WRAP`, RWG (15_telemetry). -/
def TELEMETRY.FF_CFG.STOP_ON_WRAP : Fld := ⟨8 * (0xF00100) + 11, 1, 0, false⟩
/-- `TELEMETRY.FF_CFG.COPY_BUDGET`, RWG (15_telemetry). -/
def TELEMETRY.FF_CFG.COPY_BUDGET : Fld := ⟨8 * (0xF00100) + 12, 12, 256, false⟩
/-- `TELEMETRY.FF_CFG.PULSE_PIN`, RWG (15_telemetry). -/
def TELEMETRY.FF_CFG.PULSE_PIN : Fld := ⟨8 * (0xF00100) + 24, 4, 0, false⟩
/-- `TELEMETRY.FF_CFG.PULSE_EN`, RWG (15_telemetry). -/
def TELEMETRY.FF_CFG.PULSE_EN : Fld := ⟨8 * (0xF00100) + 28, 1, 0, false⟩
/-- `TELEMETRY.FF_CFG.PULSE_TIMER`, RWG (15_telemetry). -/
def TELEMETRY.FF_CFG.PULSE_TIMER : Fld := ⟨8 * (0xF00100) + 29, 5, 0, false⟩
/-- `TELEMETRY.MIRROR_CFG.MIRROR_DEST`, RWG (15_telemetry). -/
def TELEMETRY.MIRROR_CFG.MIRROR_DEST : Fld := ⟨8 * (0xF00108) + 0, 12, 0, false⟩
/-- `TELEMETRY.MIRROR_CFG.MIRROR_EN`, RWG (15_telemetry). -/
def TELEMETRY.MIRROR_CFG.MIRROR_EN : Fld := ⟨8 * (0xF00108) + 12, 1, 0, false⟩
/-- `TELEMETRY.MIRROR_CFG.MIRROR_TICKS`, RWG (15_telemetry). -/
def TELEMETRY.MIRROR_CFG.MIRROR_TICKS : Fld := ⟨8 * (0xF00108) + 13, 16, 400, false⟩
/-- `TELEMETRY.MIRROR_CFG.MIRROR_PARTS`, RWG (15_telemetry). -/
def TELEMETRY.MIRROR_CFG.MIRROR_PARTS : Fld := ⟨8 * (0xF00108) + 32, 32, 0, false⟩
/-- `TELEMETRY.FF_STATUS.STOPPED`, RO (15_telemetry). -/
def TELEMETRY.FF_STATUS.STOPPED : Fld := ⟨8 * (0xF00110) + 0, 1, 0, true⟩
/-- `TELEMETRY.FF_STATUS.FLOWS`, RO (15_telemetry). -/
def TELEMETRY.FF_STATUS.FLOWS : Fld := ⟨8 * (0xF00110) + 1, 11, 0, true⟩
/-- `TELEMETRY.FF_WRITE_INDEX.NEXT`, RO (15_telemetry). -/
def TELEMETRY.FF_WRITE_INDEX.NEXT : Fld := ⟨8 * (0xF00118) + 0, 64, 0, true⟩
/-- `TELEMETRY.FF_COUNT.COPIES_SKIPPED`, RO (15_telemetry). -/
def TELEMETRY.FF_COUNT.COPIES_SKIPPED : Fld := ⟨8 * (0xF00120) + 0, 16, 0, true⟩
/-- `TELEMETRY.FF_COUNT.VERDICT_LOST`, RO (15_telemetry). -/
def TELEMETRY.FF_COUNT.VERDICT_LOST : Fld := ⟨8 * (0xF00120) + 16, 16, 0, true⟩
/-- `TELEMETRY.FF_COUNT.MIRROR_TABLE_FULL`, RO (15_telemetry). -/
def TELEMETRY.FF_COUNT.MIRROR_TABLE_FULL : Fld := ⟨8 * (0xF00120) + 32, 16, 0, true⟩
/-- `TELEMETRY.FF_COUNT.MIRROR_SKIPPED`, RO (15_telemetry). -/
def TELEMETRY.FF_COUNT.MIRROR_SKIPPED : Fld := ⟨8 * (0xF00120) + 48, 16, 0, true⟩
/-- `TELEMETRY.FF_FILTER.KIND`, RWG (15_telemetry). -/
def TELEMETRY.FF_FILTER.KIND (i : Nat) : Fld := ⟨8 * (0xF00200 + i * 0x8) + 0, 6, 0, false⟩
/-- `TELEMETRY.FF_FILTER.TC_MASK`, RWG (15_telemetry). -/
def TELEMETRY.FF_FILTER.TC_MASK (i : Nat) : Fld := ⟨8 * (0xF00200 + i * 0x8) + 8, 8, 0, false⟩
/-- `TELEMETRY.FF_FILTER.SRC`, RWG (15_telemetry). -/
def TELEMETRY.FF_FILTER.SRC (i : Nat) : Fld := ⟨8 * (0xF00200 + i * 0x8) + 16, 12, 0, false⟩
/-- `TELEMETRY.FF_FILTER.DEST`, RWG (15_telemetry). -/
def TELEMETRY.FF_FILTER.DEST (i : Nat) : Fld := ⟨8 * (0xF00200 + i * 0x8) + 28, 12, 0, false⟩
/-- `TELEMETRY.FF_FILTER.SRC_ANY`, RWG (15_telemetry). -/
def TELEMETRY.FF_FILTER.SRC_ANY (i : Nat) : Fld := ⟨8 * (0xF00200 + i * 0x8) + 40, 1, 0, false⟩
/-- `TELEMETRY.FF_FILTER.DEST_ANY`, RWG (15_telemetry). -/
def TELEMETRY.FF_FILTER.DEST_ANY (i : Nat) : Fld := ⟨8 * (0xF00200 + i * 0x8) + 41, 1, 0, false⟩
/-- `TELEMETRY.FF_FILTER.TENANT`, RWG (15_telemetry). -/
def TELEMETRY.FF_FILTER.TENANT (i : Nat) : Fld := ⟨8 * (0xF00200 + i * 0x8) + 42, 12, 0, false⟩
/-- `TELEMETRY.FF_FILTER.TENANT_ANY`, RWG (15_telemetry). -/
def TELEMETRY.FF_FILTER.TENANT_ANY (i : Nat) : Fld := ⟨8 * (0xF00200 + i * 0x8) + 54, 1, 0, false⟩
/-- `TELEMETRY.FF_FILTER.SAMPLE_LOG2`, RWG (15_telemetry). -/
def TELEMETRY.FF_FILTER.SAMPLE_LOG2 (i : Nat) : Fld := ⟨8 * (0xF00200 + i * 0x8) + 55, 5, 0, false⟩
/-- `TELEMETRY.FF_FILTER.VALID`, RWG (15_telemetry). -/
def TELEMETRY.FF_FILTER.VALID (i : Nat) : Fld := ⟨8 * (0xF00200 + i * 0x8) + 60, 1, 0, false⟩
/-- `TELEMETRY.FF_FILTER.ACTION`, RWG (15_telemetry). -/
def TELEMETRY.FF_FILTER.ACTION (i : Nat) : Fld := ⟨8 * (0xF00200 + i * 0x8) + 61, 2, 0, false⟩
/-- `TELEMETRY.FF_MATCHES.MATCHES`, RO (15_telemetry). -/
def TELEMETRY.FF_MATCHES.MATCHES (i : Nat) : Fld := ⟨8 * (0xF00300 + i * 0x8) + 0, 64, 0, true⟩
/-- `MGMT.MGMT_STATUS.EID`, RO (16_firmware_and_security). -/
def MGMT.MGMT_STATUS.EID : Fld := ⟨8 * (0x1300000) + 0, 8, 0, false⟩
/-- `MGMT.MGMT_STATUS.UPDATE_STATE`, RO (16_firmware_and_security). -/
def MGMT.MGMT_STATUS.UPDATE_STATE : Fld := ⟨8 * (0x1300000) + 8, 3, 0, false⟩
/-- `MGMT.EVT_FWD.QUEUED`, RO (16_firmware_and_security). -/
def MGMT.EVT_FWD.QUEUED : Fld := ⟨8 * (0x1300008) + 0, 7, 0, false⟩
/-- `MGMT.EVT_FWD.DROPPED`, RO (16_firmware_and_security). -/
def MGMT.EVT_FWD.DROPPED : Fld := ⟨8 * (0x1300008) + 16, 16, 0, false⟩
/-- `MGMT.GPIO_CTL.DIR`, RW (16_firmware_and_security). -/
def MGMT.GPIO_CTL.DIR (i : Nat) : Fld := ⟨8 * (0x1300100 + i * 0x4) + 0, 1, 0, false⟩
/-- `MGMT.GPIO_CTL.OPEN_DRAIN`, RW (16_firmware_and_security). -/
def MGMT.GPIO_CTL.OPEN_DRAIN (i : Nat) : Fld := ⟨8 * (0x1300100 + i * 0x4) + 1, 1, 0, false⟩
/-- `MGMT.GPIO_CTL.OUT`, RO (16_firmware_and_security). -/
def MGMT.GPIO_CTL.OUT (i : Nat) : Fld := ⟨8 * (0x1300100 + i * 0x4) + 2, 1, 0, false⟩
/-- `MGMT.GPIO_CTL.IN`, RO (16_firmware_and_security). -/
def MGMT.GPIO_CTL.IN (i : Nat) : Fld := ⟨8 * (0x1300100 + i * 0x4) + 3, 1, 0, false⟩
/-- `MGMT.FW_LOG_CFG.LEVEL`, RW (16_firmware_and_security). -/
def MGMT.FW_LOG_CFG.LEVEL : Fld := ⟨8 * (0x1300200) + 0, 2, 2, false⟩
/-- `MGMT.FW_LOG_CFG.TRACE_EN`, RW (16_firmware_and_security). -/
def MGMT.FW_LOG_CFG.TRACE_EN : Fld := ⟨8 * (0x1300200) + 8, 8, 0, false⟩
/-- `MGMT.FW_LOG_STATUS.NEXT_SEQ`, RO (16_firmware_and_security). -/
def MGMT.FW_LOG_STATUS.NEXT_SEQ : Fld := ⟨8 * (0x1300208) + 0, 32, 0, false⟩
/-- `MGMT.FW_LOG.WORD`, RO (16_firmware_and_security). -/
def MGMT.FW_LOG.WORD (k w : Nat) : Fld := ⟨8 * (0x1310000 + k * 0x20) + (0 + 64 * w), 64, 0, false⟩
/-- `SECURITY.BOOT_STATUS.STAGE`, RO (16_firmware_and_security). -/
def SECURITY.BOOT_STATUS.STAGE : Fld := ⟨8 * (0x1400000) + 0, 3, 0, false⟩
/-- `SECURITY.BOOT_STATUS.HALTED`, RO (16_firmware_and_security). -/
def SECURITY.BOOT_STATUS.HALTED : Fld := ⟨8 * (0x1400000) + 3, 1, 0, false⟩
/-- `SECURITY.BOOT_STATUS.BOOT_SRC`, RO (16_firmware_and_security). -/
def SECURITY.BOOT_STATUS.BOOT_SRC : Fld := ⟨8 * (0x1400000) + 4, 2, 0, false⟩
/-- `SECURITY.BOOT_STATUS.RUNNING_BANK`, RO (16_firmware_and_security). -/
def SECURITY.BOOT_STATUS.RUNNING_BANK : Fld := ⟨8 * (0x1400000) + 6, 1, 0, false⟩
/-- `SECURITY.BOOT_STATUS.FALLBACK`, RO (16_firmware_and_security). -/
def SECURITY.BOOT_STATUS.FALLBACK : Fld := ⟨8 * (0x1400000) + 7, 1, 0, false⟩
/-- `SECURITY.BOOT_STATUS.FAIL_CAUSE`, RO (16_firmware_and_security). -/
def SECURITY.BOOT_STATUS.FAIL_CAUSE : Fld := ⟨8 * (0x1400000) + 8, 3, 0, false⟩
/-- `SECURITY.BOOT_STATUS.LOCK`, RO (16_firmware_and_security). -/
def SECURITY.BOOT_STATUS.LOCK : Fld := ⟨8 * (0x1400000) + 11, 1, 0, false⟩
/-- `SECURITY.IMAGE_INFO.IMAGE_VERSION`, RO (16_firmware_and_security). -/
def SECURITY.IMAGE_INFO.IMAGE_VERSION : Fld := ⟨8 * (0x1400008) + 0, 64, 0, false⟩
/-- `SECURITY.IMAGE_SVN.SVN`, RO (16_firmware_and_security). -/
def SECURITY.IMAGE_SVN.SVN : Fld := ⟨8 * (0x1400010) + 0, 32, 0, false⟩
/-- `SECURITY.IMAGE_SVN.STATE_A`, RO (16_firmware_and_security). -/
def SECURITY.IMAGE_SVN.STATE_A : Fld := ⟨8 * (0x1400010) + 32, 2, 0, false⟩
/-- `SECURITY.IMAGE_SVN.STATE_B`, RO (16_firmware_and_security). -/
def SECURITY.IMAGE_SVN.STATE_B : Fld := ⟨8 * (0x1400010) + 34, 2, 0, false⟩
/-- `SECURITY.IMAGE_SVN.PREFERRED`, RO (16_firmware_and_security). -/
def SECURITY.IMAGE_SVN.PREFERRED : Fld := ⟨8 * (0x1400010) + 36, 1, 0, false⟩
/-- `SECURITY.IDENTITY_STATUS.IDENTITY_OK`, RO (16_firmware_and_security). -/
def SECURITY.IDENTITY_STATUS.IDENTITY_OK : Fld := ⟨8 * (0x1400018) + 0, 1, 0, false⟩
/-- `SECURITY.IDENTITY_STATUS.IDENTITY_EXHAUSTED`, RO (16_firmware_and_security). -/
def SECURITY.IDENTITY_STATUS.IDENTITY_EXHAUSTED : Fld := ⟨8 * (0x1400018) + 1, 1, 0, false⟩
/-- `SECURITY.IDENTITY_STATUS.SEALED_OK`, RO (16_firmware_and_security). -/
def SECURITY.IDENTITY_STATUS.SEALED_OK : Fld := ⟨8 * (0x1400018) + 2, 1, 0, false⟩
/-- `SECURITY.IDENTITY_STATUS.NEXT_LEAF`, RO (16_firmware_and_security). -/
def SECURITY.IDENTITY_STATUS.NEXT_LEAF : Fld := ⟨8 * (0x1400018) + 16, 40, 0, false⟩
/-- `SECURITY.MOLT_CMD.MOLT`, W1S (16_firmware_and_security). -/
def SECURITY.MOLT_CMD.MOLT : Fld := ⟨8 * (0x1400020) + 0, 1, 0, false⟩
/-- `SECURITY.MOLT_STATUS.RESULT`, RO (16_firmware_and_security). -/
def SECURITY.MOLT_STATUS.RESULT : Fld := ⟨8 * (0x1400028) + 0, 3, 0, false⟩
/-- `SECURITY.MOLT_STATUS.STEP`, RO (16_firmware_and_security). -/
def SECURITY.MOLT_STATUS.STEP : Fld := ⟨8 * (0x1400028) + 3, 3, 0, false⟩
/-- `SECURITY.MOLT_STATUS.MOLT_COUNT`, RO (16_firmware_and_security). -/
def SECURITY.MOLT_STATUS.MOLT_COUNT : Fld := ⟨8 * (0x1400028) + 16, 16, 0, false⟩
/-- `SECURITY.LINK_KEY_GEN.GEN_NEW`, RO (16_firmware_and_security). -/
def SECURITY.LINK_KEY_GEN.GEN_NEW : Fld := ⟨8 * (0x1400030) + 0, 32, 0, false⟩
/-- `SECURITY.LINK_KEY_GEN.GEN_OLD`, RO (16_firmware_and_security). -/
def SECURITY.LINK_KEY_GEN.GEN_OLD : Fld := ⟨8 * (0x1400030) + 32, 32, 0, false⟩
/-- `SECURITY.PROC_STATUS.STATE`, RO (16_firmware_and_security). -/
def SECURITY.PROC_STATUS.STATE (i : Nat) : Fld := ⟨8 * (0x1400100 + i * 0x8) + 0, 2, 0, false⟩
/-- `SECURITY.PROC_STATUS.LAST_CAUSE`, RO (16_firmware_and_security). -/
def SECURITY.PROC_STATUS.LAST_CAUSE (i : Nat) : Fld := ⟨8 * (0x1400100 + i * 0x8) + 2, 4, 0, false⟩
/-- `SECURITY.PROC_STATUS.RESTARTS`, RO (16_firmware_and_security). -/
def SECURITY.PROC_STATUS.RESTARTS (i : Nat) : Fld := ⟨8 * (0x1400100 + i * 0x8) + 16, 16, 0, false⟩
/-- `POWER.POWER_CFG.HOST_CAP_W`, RW (17_power_clocks_resets). -/
def POWER.POWER_CFG.HOST_CAP_W : Fld := ⟨8 * (0x1200000) + 0, 12, 3000, false⟩
/-- `POWER.POWER_CFG.GUARD_W`, RW (17_power_clocks_resets). -/
def POWER.POWER_CFG.GUARD_W : Fld := ⟨8 * (0x1200000) + 12, 8, 20, false⟩
/-- `POWER.POWER_CFG.RAMP_UP_W`, RW (17_power_clocks_resets). -/
def POWER.POWER_CFG.RAMP_UP_W : Fld := ⟨8 * (0x1200000) + 20, 8, 200, false⟩
/-- `POWER.RACK_CAP.RACK_CAP_W`, RO (17_power_clocks_resets). -/
def POWER.RACK_CAP.RACK_CAP_W : Fld := ⟨8 * (0x1200008) + 0, 12, 3000, true⟩
/-- `POWER.CLAMP_CFG.CLAMP_W`, RW (17_power_clocks_resets). -/
def POWER.CLAMP_CFG.CLAMP_W : Fld := ⟨8 * (0x1200010) + 0, 12, 1500, false⟩
/-- `POWER.THERM_CFG.TARGET_C`, RW (17_power_clocks_resets). -/
def POWER.THERM_CFG.TARGET_C : Fld := ⟨8 * (0x1200018) + 0, 7, 100, false⟩
/-- `POWER.POWER_STATUS.CAP_STATE`, RO (17_power_clocks_resets). -/
def POWER.POWER_STATUS.CAP_STATE : Fld := ⟨8 * (0x1200020) + 0, 2, 0, true⟩
/-- `POWER.POWER_STATUS.CLAMPED`, RO (17_power_clocks_resets). -/
def POWER.POWER_STATUS.CLAMPED : Fld := ⟨8 * (0x1200020) + 2, 1, 0, true⟩
/-- `POWER.POWER_STATUS.HW_THROTTLE`, RO (17_power_clocks_resets). -/
def POWER.POWER_STATUS.HW_THROTTLE : Fld := ⟨8 * (0x1200020) + 3, 1, 0, true⟩
/-- `POWER.POWER_STATUS.LEVEL`, RO (17_power_clocks_resets). -/
def POWER.POWER_STATUS.LEVEL : Fld := ⟨8 * (0x1200020) + 4, 5, 31, true⟩
/-- `POWER.POWER_STATUS.LOOP_LEVEL`, RO (17_power_clocks_resets). -/
def POWER.POWER_STATUS.LOOP_LEVEL : Fld := ⟨8 * (0x1200020) + 9, 5, 31, true⟩
/-- `POWER.POWER_STATUS.CLAMP_LEVEL`, RO (17_power_clocks_resets). -/
def POWER.POWER_STATUS.CLAMP_LEVEL : Fld := ⟨8 * (0x1200020) + 14, 5, 31, true⟩
/-- `POWER.POWER_STATUS.HW_LEVEL`, RO (17_power_clocks_resets). -/
def POWER.POWER_STATUS.HW_LEVEL : Fld := ⟨8 * (0x1200020) + 19, 5, 0, true⟩
/-- `POWER.POWER_STATUS.EFFECTIVE_CAP_W`, RO (17_power_clocks_resets). -/
def POWER.POWER_STATUS.EFFECTIVE_CAP_W : Fld := ⟨8 * (0x1200020) + 24, 12, 3000, true⟩
/-- `POWER.POWER_STATUS.POWER_W`, RO (17_power_clocks_resets). -/
def POWER.POWER_STATUS.POWER_W : Fld := ⟨8 * (0x1200020) + 36, 12, 0, true⟩
/-- `POWER.POWER_STATUS.THERMAL_CAP_W`, RO (17_power_clocks_resets). -/
def POWER.POWER_STATUS.THERMAL_CAP_W : Fld := ⟨8 * (0x1200020) + 48, 12, 3000, true⟩
/-- `POWER.TEMP_STATUS.MAX_TJ`, RO (17_power_clocks_resets). -/
def POWER.TEMP_STATUS.MAX_TJ : Fld := ⟨8 * (0x1200028) + 0, 11, 0, true⟩
/-- `POWER.TEMP_STATUS.MAX_SENSOR`, RO (17_power_clocks_resets). -/
def POWER.TEMP_STATUS.MAX_SENSOR : Fld := ⟨8 * (0x1200028) + 11, 6, 0, true⟩
/-- `POWER.SENSOR_FAIL.FAILED`, RO (17_power_clocks_resets). -/
def POWER.SENSOR_FAIL.FAILED : Fld := ⟨8 * (0x1200030) + 0, 64, 0, true⟩
/-- `POWER.POWER_COUNT.CHASING_STEPS`, RO (17_power_clocks_resets). -/
def POWER.POWER_COUNT.CHASING_STEPS : Fld := ⟨8 * (0x1200038) + 0, 16, 0, true⟩
/-- `POWER.POWER_COUNT.UNREACHABLE_STEPS`, RO (17_power_clocks_resets). -/
def POWER.POWER_COUNT.UNREACHABLE_STEPS : Fld := ⟨8 * (0x1200038) + 16, 16, 0, true⟩
/-- `POWER.POWER_COUNT.CLAMP_EVENTS`, RO (17_power_clocks_resets). -/
def POWER.POWER_COUNT.CLAMP_EVENTS : Fld := ⟨8 * (0x1200038) + 32, 16, 0, true⟩
/-- `POWER.POWER_COUNT.HW_THROTTLE_TICKS`, RO (17_power_clocks_resets). -/
def POWER.POWER_COUNT.HW_THROTTLE_TICKS : Fld := ⟨8 * (0x1200038) + 48, 16, 0, true⟩
/-- `POWER.CDC_OVERRUN.OVERRUN`, W1C (17_power_clocks_resets). -/
def POWER.CDC_OVERRUN.OVERRUN : Fld := ⟨8 * (0x1200040) + 0, 7, 0, false⟩
/-- `POWER.RESET_CMD.WARM`, W1S (17_power_clocks_resets). -/
def POWER.RESET_CMD.WARM : Fld := ⟨8 * (0x1200048) + 0, 1, 0, false⟩
/-- `POWER.RESET_STATUS.LAST_RESET`, RO (17_power_clocks_resets). -/
def POWER.RESET_STATUS.LAST_RESET : Fld := ⟨8 * (0x1200050) + 0, 3, 0, true⟩
/-- `POWER.RESET_STATUS.WARM_COUNT`, RO (17_power_clocks_resets). -/
def POWER.RESET_STATUS.WARM_COUNT : Fld := ⟨8 * (0x1200050) + 16, 16, 0, false⟩
end Sys2Proof.Machine.Reg
end

