-- ==== Sys2Proof/Machine/State.lean ====
section
/-!
DEFINITION. Machine/State.lean: everything the spec gives the device, as plain data: the register file (every field of every
register map, one home each), fabric time, the switch core's queues, the tables of the units, the HBM, the pins, the outputs,
and the queue of commands that wait. INVENTORY.md lists each with the rule that names it and its reset value.
-/
namespace Sys2Proof.Machine
open Sys2Proof

/-! ### Outcomes -/

/-- Faults. -/
inductive Fault where
  /-- Raised by no command: the device answers every access to a missing address itself (R26, R289). Safe. -/
  | none
deriving DecidableEq, Repr

/-- Refusals. -/
inductive Refusal where
  /-- Raised by an arm of exec whose command has no meaning yet. Safe. -/
  | notModelled (mnemonic : String)
  /-- Raised by an instruction whose operands the loader rejects (R143, R172), so that no cell ever runs it. Safe. -/
  | rejectedByLoader (mnemonic : String)
deriving DecidableEq, Repr

/-! ### Outputs -/

/-- What leaves the device; the newest stands first in the list. -/
inductive Output where
  /-- A link frame sent on port half `half` (R85). -/
  | frame (half : Nat) (f : Frame)
  /-- A link control block sent on port half `half` (R328). -/
  | lcb (half bits : Nat)
  /-- An alignment marker sent on lane `lane` of port half `half`: 320 bits (R327). -/
  | marker (half lane bits : Nat)
  /-- A write to the CMIS module at SMBus address 0x50 behind board channel `channel`, for the host lanes of `lanes` (R341, R433): `step` 0
  clears the low-power request, 1 selects the application whose host interface has `arg` lanes, 2 applies data-path initialisation. -/
  | cmisWrite (channel address step lanes arg : Nat)
  /-- The channel-select byte written to the board multiplexer at address `mux` of CMIS bus `bus` (R433). -/
  | cmisSelect (bus mux channels : Nat)
  /-- A PCIe memory write of function `func` of host port `port` (R281); `ro`: with Relaxed Ordering (R298). -/
  | hostWrite (port func addr : Nat) (data : List Byte) (ro : Bool)
  /-- A PCIe memory read of `len` bytes, numbered by the model with `tag` (R281); `ro`: with Relaxed Ordering (R298). -/
  | hostRead (port func tag addr len : Nat) (ro : Bool)
  /-- An ATS Translation Request for the page at `addr` (R281). -/
  | atsRequest (port func addr : Nat) (write : Bool)
  /-- A PCIe AtomicOp: 0 FetchAdd, 1 Swap, 2 CAS; 4 or 8 bytes; operand and compare value (R318). -/
  | hostAtomic (port func tag addr op bytes a b : Nat)
  /-- The completion of a host load from a fabric window (R303, R304). -/
  | loadReply (port func tag : Nat) (data : List Byte)
  /-- An ATS Invalidate Completion (R282). -/
  | atsDone (port func tag : Nat)
  /-- A PCIe configuration completion: 0 Successful, 1 Request Retry Status, 2 Unsupported Request, and its value (R419). -/
  | cfgReply (port func status value : Nat)
  /-- An MSI-X message of vector `vector` of function `func`: its table entry's address and data (R307). -/
  | msix (port func vector addr data : Nat)
  /-- A pulse on `TICK_OUT` at the start of tick `tick` (R91, TICK_PIN_CFG). -/
  | tickOut (tick : Nat)
  /-- The value that a register read returned, `bytes` wide (R10, R14). -/
  | regRead (w : Writer) (value bytes : Nat)
  /-- A message of a management protocol with its code and its fields (R390 to R398). -/
  | mgmt (protocol code : Nat) (fields : List Nat) (data : List Byte)
deriving DecidableEq, Repr

/-! ### Errors (R359 to R365) -/

/-- One error waiting for its source's next record (R362). -/
structure PendErr where
  time : Nat := 0
  cls : Nat := 0
  cause : Nat := 0
  outcome : Nat := 0
  detA : Nat := 0
  detB : Nat := 0
  count : Nat := 0
deriving DecidableEq, Repr

/-- The error reporting of the device beyond its registers. -/
structure ErrState where
  /-- The tick of the last record of each source (R362). -/
  emitted : List (Nat × Nat) := []
  /-- Pending errors by source (R362). -/
  pending : List (Nat × PendErr) := []
  /-- SEQ of the next record (R359). -/
  seq : Nat := 0
  /-- Times of the first and last dropped record (R364). -/
  firstDrop : Nat := 0
  lastDrop : Nat := 0
  /-- Records written to the ring since the last MSI-X message, and when the first of them was written (R363). -/
  unsignalled : Nat := 0
  ringTimer : Option Nat := none
  /-- Records for the ring that wait for the translation of their slot, in order (R281, R363). -/
  ringWait : List Nat := []
  /-- Step aborts with broadcasts still to send: tenant, epoch, broadcasts sent, fabric tick of the write (R355). -/
  steps : List (Nat × Nat × Nat × Nat) := []
deriving DecidableEq, Repr

/-! ### Functions and claims (R27 to R43) -/

/-- What the function table keeps beyond its registers. -/
structure FnState where
  /-- When each function in DRY_FIT was started. -/
  startAt : List (Nat × Nat) := []
  /-- The claim decision of each function in DRY_FIT: none where granted, else the first held resource and its holder (R42). -/
  claim : List (Nat × Option (Nat × Nat)) := []
  /-- When each function in STOPPING entered it. -/
  stopAt : List (Nat × Nat) := []
  /-- Functions that stop because a dependency was lost (R35). -/
  depLost : List Nat := []
  /-- Functions started by the start-up function list, whose dry-fit may wait at check 2 (R37). -/
  listed : List Nat := []
  /-- The program that each CLUSTER or SWARM was started with: its cell image or its finish module (R141, R143). -/
  images : List (Nat × Program) := []
deriving DecidableEq, Repr

/-! ### Fabric time and jigs (R90 to R106) -/

/-- Fabric time distribution beyond the TICK registers. -/
structure TimeState where
  /-- State of R93: 0 UNSYNC, 1 ACQUIRE, 2 LOCKED, 3 HOLDOVER. -/
  st : Nat := 0
  /-- Firmware has loaded TIME_SRC (R93). -/
  loaded : Bool := false
  /-- Last filtered offset in 1/16 ftu (R92). -/
  offset : Int := 0
  /-- Consecutive offsets within 4 ns, and beyond 16 ns. -/
  small : Nat := 0
  large : Nat := 0
  /-- Correction still to slew, in ftu (R94). -/
  slew : Int := 0
  /-- Latest valid offset of each reference, with the time of its arrival. -/
  refs : List (Nat × (Int × Nat)) := []
  /-- Transmit and arrival times of the last time word received by half (R92): t1 and t2. -/
  words : List (Nat × (Nat × Nat)) := []
  /-- When the last time word was sent, by half (R92). -/
  sent : List (Nat × Nat) := []
  /-- When HOLDOVER was entered. -/
  holdAt : Nat := 0
  /-- When the last valid offset arrived. -/
  lastValid : Nat := 0
  /-- Nominal next start of each periodic task that has begun (R98), and the start and end of the instance before, where there is one, by task
  number. -/
  tasks : List (Nat × (Nat × Option (Nat × Nat))) := []
  /-- The tick from which each general timer fires again (R99). -/
  gtNext : List (Nat × Nat) := []
deriving DecidableEq, Repr

/-- The jig tables beyond their registers (R100 to R106). -/
structure JigState where
  /-- The copy of the stage bank under validation or armed (R105), as register entries relative to the bank. -/
  copy : List (Nat × Nat) := []
  /-- The tick of the commit in progress, and when it was written. -/
  target : Nat := 0
  commitAt : Nat := 0
  swapAt : Nat := 0
  /-- The tick in whose kerf the table was swapped, and the ports that slot 61 of the table before it holds to its end (R103, R105). -/
  tail : Option (Nat × List (Nat × Nat)) := none
  /-- Tiles admitted per entry and input port: the slot they were admitted in and how many (R100). -/
  slot : List (Nat × (Nat × Nat)) := []
deriving DecidableEq, Repr

/-! ### The switch core (R107 to R127) -/

/-- Where a packet stands in the packet buffer (R116, R122). -/
inductive Place where
  | onchip
  | priv (port : Nat)
  | jigPart
  | mirrorPart
  | spill
  /-- Waiting at the head of its ingress headroom (R124). -/
  | held
deriving DecidableEq, Repr

/-- A packet in the switch core. Outputs are numbered by port half 0 to 255, and 128 + x for crossbar port x of 128 or above. -/
structure QPkt where
  id : Nat
  inp : Nat
  half : Nat
  p : Packet
  stamp : Nat
  /-- Flits received so far (below `total` until the tail has arrived), and flits of the whole packet. -/
  arrived : Nat
  total : Nat
  /-- The output chosen at S2, or the outputs of a multicast. -/
  outs : List Nat
  multicast : Bool
  /-- Chunks granted so far, by output. -/
  sent : List (Nat × Nat)
  place : Place
  /-- Waiting for its registry read (R108). -/
  unchecked : Bool
  /-- The packet was found bad after a chunk was granted: its tail becomes STOMP (R112). -/
  bad : Bool
  /-- A jig miss, which the fallback partitions of JIG_CFG serve (R116). -/
  jig : Bool := false
  /-- Made at ingress by Vovis itself, so that no flit of it came by the link and none is owed (R109, R121). -/
  own : Bool := false
deriving DecidableEq, Repr

/-- A packet in an egress FIFO: flits of the chunks transferred so far, flits sent on the link so far, flits of it that have entered
the device (below `total` until its tail has), and whether it was admitted to a jig slot (R103). -/
structure Egress where
  id : Nat
  p : Packet
  total : Nat
  moved : Nat
  sent : Nat
  stomp : Bool
  got : Nat
  jig : Bool := false
deriving DecidableEq, Repr

/-- The spill chain of a VOQ: bytes appended and bytes taken since it entered spill (R122). -/
structure Chain where
  appended : Nat
  taken : Nat
deriving DecidableEq, Repr

/-- What a fabric port half has received of the packet that is open on it (R86 to R88). -/
structure Rx where
  flits : List Nat := []
  /-- The switch-core number of the open packet once its forwarding has begun. -/
  fwd : Option Nat := none
  skip : Bool := false
deriving DecidableEq, Repr

/-- The switch core beyond its registers. -/
structure SwState where
  nextId : Nat := 0
  /-- Every packet in the packet buffer, in spill or held, in arrival order. -/
  pkts : List QPkt := []
  /-- Spill chains by VOQ key. -/
  chains : List (Nat × Chain) := []
  /-- Egress FIFOs by output number. -/
  egress : List (Nat × List Egress) := []
  /-- Grant pointers by 8 × crossbar port + class, accept pointers by input (R117). -/
  gptr : List (Nat × Nat) := []
  aptr : List (Nat × Nat) := []
  /-- Deficits by 8 × crossbar port + class, and the class that each output visits (R120). -/
  deficit : List (Nat × Int) := []
  visit : List (Nat × Nat) := []
  /-- Pairs of input, output and class whose next request comes from the VOQ, not the multicast head (R118). -/
  voqTurn : List Nat := []
  /-- Last bundle choice, by bundle (R114). -/
  choice : List (Nat × Nat) := []
  /-- Holding copies of BUNDLE words 0 to 2, by 4 × bundle + word (R115). -/
  bundleHold : List (Nat × Nat) := []
  /-- Link credit held toward the peer, and credit of received flits not yet returned, by 8 × half + class (R121). -/
  credit : List (Nat × Nat) := []
  owed : List (Nat × Nat) := []
  rx : List (Nat × Rx) := []
  /-- UNREACHABLE notices still to send: the flushed request, the port half, and whether it was spilled (R125). -/
  notices : List (Hdr × Nat × Bool) := []
  /-- The last tick counted in BACKPRESSURE_TICKS (R124). -/
  heldTick : Option Nat := none
  /-- Die links that retrain (R349): die 0 to 7 of the lane dies, 8 the host die; the attempt and when it began. -/
  d2d : List (Nat × (Nat × Nat)) := []
  /-- Port halves whose link has left UP and whose port-down work is due (R125). -/
  down : List Nat := []
deriving DecidableEq, Repr

/-! ### Extents (R283 to R293) -/

/-- A registry entry of R283. -/
structure ExtEntry where
  st : Nat := 0
  perm : Nat := 0
  ep : Nat := 0
  tenant : Nat := 0
  xgen : Nat := 0
  base : Nat := 0
  ngran : Nat := 0
  inflight : Nat := 0
  revokeTime : Nat := 0
deriving DecidableEq, Repr

/-- The extent registry beyond its registers. -/
structure ExtState where
  reg : List (Nat × ExtEntry) := []
  /-- The revoked list of R293, newest first, with the time each entry was freed. -/
  revoked : List (ExtEntry × Nat) := []
  /-- The command in progress: OP, INDEX and the stage as it stood when it was written (R284). -/
  cmd : Option (Nat × Nat × Nat) := none
deriving DecidableEq, Repr

/-! ### Host ports (R298 to R324) -/

/-- A cached ATS translation (R281). -/
structure Atc where
  ep : Nat
  func : Nat
  va : Nat
  size : Nat
  pa : Nat
  r : Bool
  w : Bool
deriving DecidableEq, Repr

/-- A posted write of local memory that waits for its translation (R281). -/
structure DmaWait where
  ep : Nat
  func : Nat
  /-- The context whose ring is written; 4096 for none; 4097 + d for result data of descriptor number d. -/
  ring : Nat
  addr : Nat
  data : List Byte
  /-- Sent with Relaxed Ordering (R298). -/
  ro : Bool := false
  /-- Its Translation Request has been sent: it waits no more for a PCIe tag (R298). -/
  asked : Bool := true
deriving DecidableEq, Repr

/-- What an end-point reads local memory for, or operates on it for (R246, R277, R281, R318). -/
inductive HostFor where
  /-- The descriptor at index `idx` of queue `q` of context `ctx`. -/
  | desc (ctx q idx : Nat)
  /-- The segment table of a context. -/
  | segs (ctx : Nat)
  /-- The LADDR data of descriptor `did`. -/
  | data (did : Nat)
  /-- A READ, READ_BULK or READ_TILE of exported memory. -/
  | target (h : Hdr)
  /-- The stored first granule of a WRITE_TILE of exported memory (R76). -/
  | seal (h : Hdr) (tile : List Byte)
  /-- An ATOMIC applied as one AtomicOp. -/
  | atomicOp (h : Hdr)
  /-- The read, and then the CAS of `old`, of an ATOMIC applied by read and CAS; tries made. -/
  | casRead (h : Hdr) (tries : Nat)
  | casTry (h : Hdr) (tries old : Nat)
  /-- Nothing to read: a request that stores to exported memory waits for its translation. -/
  | arrive (p : Packet)
  /-- Nothing to read: the SIGNAL of counter entry `ctr` fires once its address is translated (R265, R281). -/
  | fire (ctr : Nat) (p : Packet)
deriving DecidableEq, Repr

/-- A non-posted access of local memory by an end-point. -/
structure HostOp where
  tag : Nat
  ep : Nat
  func : Nat
  addr : Nat
  len : Nat
  what : HostFor
  /-- 0 waits for its translation, 1 waits for an earlier seal of the same address, 2 issued, 3 waits for a PCIe tag (R298). -/
  st : Nat
  /-- Its completion is discarded on arrival (R312 step 4). -/
  dead : Bool
  /-- PCIe requests that it was issued as (R298). -/
  reqs : Nat := 1
deriving DecidableEq, Repr

/-- The keys of a confidential function (R319 to R321). -/
structure Conf where
  secret : List Byte := []
  /-- Last accepted RC by 4 × context + queue, last accepted segment table version by context. -/
  rc : List (Nat × Nat) := []
  seg : List (Nat × Nat) := []
  events : Nat := 0
deriving DecidableEq, Repr

/-- A host load from a window that waits for its READ (R303). -/
structure WinLoad where
  port : Nat
  func : Nat
  tag : Nat
  len : Nat
  at_ : Nat
deriving DecidableEq, Repr

/-- The host ports beyond their registers. Functions are numbered 256 × port + function. -/
structure HostState where
  /-- Functions with MSI-X Enable set, with Function Mask set; pending vectors (R307). -/
  msixOn : List Nat := []
  fnMask : List Nat := []
  msixPend : List Nat := []
  /-- MSI-X table words by 4 × vector key + word; an unlisted Vector Control word is 1, masked. -/
  msixTab : List (Nat × Nat) := []
  /-- Functions with ATS enabled, the address translation caches and the writes that wait for them (R281). -/
  atsOn : List Nat := []
  atc : List Atc := []
  atsWait : List DmaWait := []
  /-- Non-posted accesses of local memory under way, and the model's number of the next one. -/
  ops : List HostOp := []
  nextTag : Nat := 0
  /-- ATS Invalidate Requests that wait for reads issued with the dropped entries: end-point, function, tag and those reads (R282). -/
  atsInv : List (Nat × Nat × Nat × List Nat) := []
  /-- NumVFs, with VF Enable, by port (R299, R305). -/
  numVfs : List (Nat × Nat) := []
  /-- Functions with Memory Space Enable and Bus Master Enable set and in D0; with AtomicOp Requester Enable; ports below an
  ARI-capable hierarchy (R299, R310, R318). -/
  memEn : List Nat := []
  busEn : List Nat := []
  d3 : List Nat := []
  atomicEn : List Nat := []
  ari : List Nat := []
  /-- Functions with an FLR in progress, and when it began (R312). -/
  flr : List (Nat × Nat) := []
  /-- Retired tags held until 2 ms after their retirement, by 65,536 × end-point + tag (R313). -/
  tagHold : List (Nat × Nat) := []
  /-- SPDM sessions by function, with the exchange's secret, and confidential functions (R319). -/
  sessions : List (Nat × List Byte) := []
  conf : List (Nat × Conf) := []
  /-- When the manager port's link went down or its PERST was asserted (R310). -/
  mgrDown : Option Nat := some 0
  /-- Window loads under way by the model's number of their request. -/
  loads : List (Nat × WinLoad) := []
  /-- Last slice invalidation by function: DONE_SEQ and OVERRUN of R302. -/
  sliceInval : List (Nat × Nat) := []
  /-- AER status words by 2 × function + 1 for uncorrectable (R298). -/
  aer : List (Nat × Nat) := []
deriving DecidableEq, Repr

/-! ### The end-points (R243 to R276) -/

/-- What a context keeps beyond its registers (R246, R253, R274, R306). Ring positions of submission queues are indices;
those of the completion and event rings count entries from 0. -/
structure CtxRun where
  head : List Nat := [0, 0, 0, 0]
  tail : List Nat := [0, 0, 0, 0]
  /-- Descriptors asked for from local memory, by queue: the next index to read. -/
  asked : List Nat := [0, 0, 0, 0]
  cqHead : Nat := 0
  cqTail : Nat := 0
  eqHead : Nat := 0
  eqTail : Nat := 0
  dropped : Nat := 0
  firstDrop : Nat := 0
  lastDrop : Nat := 0
  /-- Entries since the last message and when the first of them was written. -/
  modCount : Nat := 0
  modFirst : Nat := 0
  /-- The queue served last (R316). -/
  lastQ : Nat := 3
  /-- The context was in its reset and writes no ring entry (R312 step 1). -/
  shut : Bool := false
  /-- A message of its event queue waits until the entries that it covers have been written (R281, R306). -/
  owesMsg : Bool := false
deriving DecidableEq, Repr

/-- A descriptor in progress (R250), or a window access, which has queue 4 and no ring entry (R303). -/
structure Desc where
  id : Nat
  ep : Nat
  ctx : Nat
  q : Nat
  /-- Ring index after it (SQ_HEAD of R251), and its record counter in confidential mode. -/
  idx : Nat
  rc : Nat
  /-- Its 512 bits (R247). -/
  d : Nat
  /-- Its packets have been issued; else, where packets are to be translated again, their offsets and lengths (R280). -/
  issued : Bool
  todo : List (Nat × Nat)
  /-- LADDR data, once read. -/
  data : Option (List Byte)
  /-- Requests of it that have not completed. -/
  live : Nat
  /-- The lowest-offset piece that did not complete OK: offset, CCODE and DETAIL. -/
  bad : Option (Nat × Nat × Nat)
  result : Nat
  result2 : Nat
  moved : Nat
  /-- A signalled message begun (R263): its CTR and MSG, and the packets of it that have been issued. -/
  msg : Option (Nat × Nat × Nat) := none
  /-- Result chunks being gathered (R322), and the result of a window load: by chunk number, offsets and bytes. -/
  chunks : List (Nat × List (Nat × List Byte))
deriving DecidableEq, Repr

/-- A request of an end-point (R271). -/
structure Reqst where
  id : Nat
  ep : Nat
  ctx : Nat
  /-- Submission queue, or 4 for the window stream. -/
  q : Nat
  /-- Descriptors it carries bytes of: number, offset, length, and position in the packet. -/
  parts : List (Nat × Nat × Nat × Nat)
  h : Hdr
  payload : List Byte
  /-- 0 waiting to be sent, 1 ATTEMPT, 2 COCOON, 3 answered and held under R260, 4 waiting for a TORN retry, 5 waiting for a TAG (R80), 6 a
  READ_TILE to be repeated that waits for its segment table (R280). -/
  st : Nat
  attempts : Nat
  first : Nat
  sentAt : Nat
  gen : Nat
  /-- Re-issued from COCOON: RETRY set from attempt 1. -/
  again : Bool
  /-- READ_TILE: the re-read of R77, and the TORN repeats made. -/
  reread : Bool
  torn : Nat
  /-- The home plane at the first attempt (R235). -/
  homeAt : Nat
  /-- The outcome held under R260. -/
  out : Option (Nat × Nat)
deriving DecidableEq, Repr

/-- A sequence record of a destination (R256): key in the table is (end-point, SRC, TC). -/
structure SeqRec where
  expect : Nat
  held : List (Packet × Nat)
  /-- Fabric time of the last delivery. -/
  last : Nat
deriving DecidableEq, Repr

/-- A sequence space of a requester (R80, R258): key (end-point, DEST, TC). -/
structure SeqSpace where
  next : Nat
  lastSent : Nat
  /-- The one request that may be on it after it lay idle. -/
  sole : Option Nat
deriving DecidableEq, Repr

/-- A completion counter beyond its register (R261 to R264). -/
structure Ctr where
  tags : List Nat := []
  sig : Option Packet := none
  tenant : Nat := 0
  epoch : Nat := 0
  /-- When the entry entered its state, or last had a message. -/
  since : Nat := 0
  /-- No message has been opened since the grant. -/
  fresh : Bool := false
  credited : Bool := false
  /-- The request number of its grant. -/
  reqNo : Nat := 0
  /-- Further SIGNALs of the message that wait, and the TAGs of SIGNALs whose address the host refused to translate (R264, R265). -/
  more : List Packet := []
  denied : List Nat := []
deriving DecidableEq, Repr

/-- A counter credit that a source holds (R262, R263). -/
structure Credit where
  ep : Nat
  dest : Nat
  ctr : Nat
  last : Nat
  /-- The message under way: the number of its SIGNAL, or of its descriptor while it has none (R263). -/
  busy : Option Nat
  used : Nat
deriving DecidableEq, Repr

/-- A merged write that waits (R268): its stream, its header, its bytes and the time of its first write. -/
structure Merge where
  ep : Nat
  ctx : Nat
  q : Nat
  h : Hdr
  payload : List Byte
  parts : List (Nat × Nat × Nat × Nat)
  at_ : Nat
deriving DecidableEq, Repr

/-- A contribution of a member to a swarm operation (R201, R213, R219). -/
structure Contrib where
  ep : Nat
  ctx : Nat
  swarm : Nat
  member : Nat
  opseq : Nat
  did : Nat
  cookie : Nat
  /-- Next local tile to send, tiles whose result has been written. -/
  sent : Nat
  got : List Nat
  limit : Nat
  asked : Nat
  /-- 0 waiting for the operation before, 1 asking or sending, 2 completed and retractable. -/
  st : Nat
  doneAt : Nat
  epoch : Nat
  /-- Tiles whose ACK waits until their result has been written (R219). -/
  owed : List Nat := []
deriving DecidableEq, Repr

/-- The end-points beyond their registers. -/
structure EpState where
  nextId : Nat := 0
  ctx : List (Nat × CtxRun) := []
  /-- Descriptors read from local memory, by (4 × context + queue) × 32768 + index: bits and RC. -/
  fetched : List (Nat × (Nat × Nat)) := []
  descs : List Desc := []
  reqs : List Reqst := []
  /-- Next tag by end-point, tag generations by 65,536 × end-point + tag (R259). -/
  tagNext : List (Nat × Nat) := []
  gens : List (Nat × Nat) := []
  /-- Sequence spaces of requesters and sequence records of destinations. -/
  spaces : List (Nat × SeqSpace) := []
  seqs : List (Nat × SeqRec) := []
  /-- Bars of R258 by end-point and DEST, with their end; when each end-point's link to the plane went down. -/
  bars : List (Nat × Nat) := []
  downAt : List (Nat × Nat) := []
  ctrs : List (Nat × Ctr) := []
  credits : List Credit := []
  /-- CTR_CTL REQUESTs without an answer: (end-point, DEST) to request number and time; next numbers. -/
  asks : List (Nat × (Nat × Nat)) := []
  /-- REQUESTs that an end-point refused, by (4096 × e + SRC) × 65,536 + request number (R262). -/
  refused : List Nat := []
  /-- Delivered requests that wait behind a store of their sequence, by end-point, in order (R255). -/
  behind : List (Nat × Packet) := []
  /-- Requests relayed in the last 2 ms and not answered: end-point, SRC, TAG and SEQ of the re-issue, to the SEQ of the request, the key of the
  re-issue's sequence space and its time (R60, R78, R80). -/
  relays : List (Nat × (Nat × Nat × Nat)) := []
  /-- Swarm requests that an end-point may not send yet, in order: end-point, context, header and payload (R258). -/
  swWait : List (Nat × Nat × Hdr × List Byte) := []
  /-- The number of the next uncredited message, by 4096 × end-point + destination (R261). -/
  msgNext : List (Nat × Nat) := []
  /-- Near-cache lines, oldest first: end-point, context, granule, bytes (R266). -/
  near : List (Nat × Nat × Nat × List Byte) := []
  merges : List Merge := []
  /-- Segment tables held by the segment caches, oldest first: context to its 16 entries (R279). -/
  segs : List (Nat × List (Option Nat)) := []
  /-- The invalidation in progress: context, SEQ, and the VF that issued it, 512 for none. -/
  inval : Option (Nat × Nat × Nat) := none
  /-- Kept responses of R229: (end-point or 2 for HOME_EP, SRC, COOKIE[31:16], TAG) to the response and when it was sent. -/
  kept : List (Nat × (Packet × Nat)) := []
  /-- Moved pair planes of R255, by context and DEST: plane and last use. -/
  pairs : List (Nat × (Nat × Nat)) := []
  contribs : List Contrib := []
  /-- Aborts applied, by 256 × end-point + swarm: the operations (R213 step 4). -/
  aborts : List (Nat × List Nat) := []
  /-- The next OPSEQ of a swarm at an end-point after an abort, by the same key (R213 step 2). -/
  nextOps : List (Nat × Nat) := []
  /-- Deficits by function and the function visited, by end-point (R316); bytes started in this tick by function. -/
  qosDef : List (Nat × Int) := []
  qosAt : List (Nat × Nat) := []
  qosCtx : List (Nat × Nat) := []
  qosTick : List (Nat × (Nat × Nat)) := []
deriving DecidableEq, Repr

/-! ### Telemetry and mirroring (R366 to R375) -/

/-- A header copy on its way to its cell (R371 to R373). -/
structure HdrCopy where
  h : Hdr
  stamp : Nat
  inp : Nat
  /-- Crossbar output chosen at S2; 0xFF for a multicast or a cell. -/
  out : Nat
  filter : Nat
  /-- Bytes queued ahead in its VOQ. -/
  ahead : Nat
  /-- In its cell's arrival queue (R133): the packets there that were delivered before it. -/
  behind : Option Nat := none
deriving DecidableEq, Repr

/-- Telemetry, the firefly ring and mirroring beyond their registers. -/
structure TelState where
  /-- Copies made in the present tick (R371), and the copies that wait for their verdict. -/
  ffUsed : Nat := 0
  copies : List HdrCopy := []
  /-- Mirror table: flow key (R374) to the tick of its last verdict. -/
  mirror : List (Nat × Nat) := []
  /-- Counters of R375 by counter number; and the counters as they stood at the kerf of each tick that a map may still need (R366). -/
  counts : List (Nat × Nat) := []
  marks : List (Nat × List (Nat × Nat)) := []
  /-- The last slot counted in a credit-stall counter, by 8 × half + class, and by 2048 + half for any class (R367). -/
  stalls : List (Nat × Nat) := []
deriving DecidableEq, Repr

/-! ### Cells (R128 to R178) -/

/-- An outstanding access of a cell (R169): an HBM read, or a shared access. -/
structure Access where
  hbm : Bool
  /-- The scalar register that it writes, 32 for none, and the value. -/
  reg : Nat
  val : Nat
  /-- Where HBM data lands: 0 local data or 1 + tile-store slot, and the offset there; bytes a later access has written since. -/
  space : Nat
  off : Nat
  data : List Byte
  skip : List (Nat × Nat)
  /-- The data carry an uncorrectable error. -/
  poison : Bool
deriving DecidableEq, Repr

/-- A level of the loop stack (R161): iterations in all, the present one, the index register and the first word of the body. -/
structure LoopLevel where
  count : Nat
  k : Nat
  ix : Nat
  start : Nat
deriving DecidableEq, Repr

/-- The programmer-visible registers of a cell (R153). -/
structure CellRegs where
  s : List (BitVec 64) := List.replicate 32 0
  v : List (BitVec 512) := List.replicate 16 0
  p : List (BitVec 64) := List.replicate 8 0
  /-- The tile-store slot of each handle. -/
  t : List (Option Nat) := [none, none, none, none]
  fmt : Nat := 0
  rnd : Nat := 0
  poisoned : Bool := false
  ret : List Nat := []
  loops : List LoopLevel := []
deriving DecidableEq, Repr

/-- What FIN saved (R167), and whose finish runs: the swarm, whether the module is a tenant's, and the tile that REDUCE completes. -/
structure FinFrame where
  saved : CellRegs
  pc : Nat
  swarm : Nat
  tenant : Bool
  /-- REDUCE runs the finish: OPSEQ and TILE_INDEX; else a FIN instruction does. -/
  reduce : Option (Nat × Nat)
  /-- Cycles of the caller with the charge of FIN (R138 rule 6). -/
  cycles : Nat := 0
deriving DecidableEq, Repr

/-- A handler in progress on a logical cell (R134, R154). -/
structure CellRun where
  r : CellRegs := {}
  pc : Nat := 0
  /-- Event kind of R142, the stamp of the event and the emits allowed and made. -/
  kind : Nat := 0
  stamp : Nat := 0
  maxEmits : Nat := 0
  emits : Nat := 0
  /-- Slots bound by TALLOC, and the arrival slot. -/
  own : List Nat := []
  arrival : Option Nat := none
  acc : List Access := []
  /-- Cycles charged so far, and when the handler started. -/
  cycles : Nat := 0
  since : Nat := 0
  fin : Option FinFrame := none
  /-- The header copy under judgement (R372). -/
  copy : Option HdrCopy := none
deriving DecidableEq, Repr

/-- A move of a logical cell to a spare (R150, R151). -/
structure CellMove where
  from_ : Nat
  spare : Nat
  sudden : Bool
  since : Nat
deriving DecidableEq, Repr

/-! ### COMBINE, GATHER and OWNERSHIP (R220 to R241, R294 to R297) -/

/-- A dovetail (R221 to R228): class 0 READ, 1 ADD, 2 SINGLE, 3 ROW. -/
structure Dove where
  cls : Nat
  /-- The request that opened it, or the row read. -/
  h : Hdr
  batch : List Hdr
  gathering : List Hdr := []
  /-- The gathers that a ROW dovetail serves. -/
  rows : List Nat := []
  closed : Bool := false
  tag : Nat
  attempts : Nat := 1
  sentAt : Nat
  /-- An attempt ended by timeout. -/
  timedOut : Bool := false
  /-- OPERAND1 of the onward ATOMIC. -/
  operand : Nat := 0
deriving DecidableEq, Repr

/-- An open gather (R239). -/
structure Gather where
  id : Nat
  h : Hdr
  fmt : Nat
  rowBytes : Nat
  rows : List Nat
  /-- Distinct rows not yet asked for, and asked for but not arrived. -/
  todo : List Nat
  left : List Nat
  acc : Option (List Byte) := none
  /-- The lowest-indexed failing list entry, its CCODE and DETAIL. -/
  bad : Option (Nat × Nat × Nat) := none
deriving DecidableEq, Repr

/-- What COMBINE and GATHER keep in a logical cell. -/
structure CombCell where
  doves : List Dove := []
  parked : List Packet := []
  /-- Answers that wait for a handler with emits to spare (R230). -/
  replies : List Packet := []
  gathers : List Gather := []
  tagNext : Nat := 0
  gatherNext : Nat := 0
  /-- TAGs of completed onward ATOMICs that are held for 2 ms, with the end of each hold (R80). -/
  held : List (Nat × Nat) := []
deriving DecidableEq, Repr

/-- A way of the atomic ledger (R232): written, or reserved by a constituent. -/
structure Ledger where
  src : Nat
  tag : Nat
  tenant : Nat
  epoch : Nat
  /-- 0xFF UNAPPLIED. -/
  ccode : Nat := 0
  result : Nat := 0
  written : Nat := 0
  reserved : Bool := false
deriving DecidableEq, Repr

/-- An ownership record (R294). -/
structure OwnRec where
  base : Nat
  tenant : Nat
  owner : Nat
  version : Nat
  changed : Nat
deriving DecidableEq, Repr

/-! ### Swarms at the core and the cells (R194 to R217) -/

/-- The slot record of a local tile (R206 to R209). -/
structure Slot where
  opseq : Nat
  tile : Nat
  /-- EPOCH of the first contribution. -/
  epoch : Nat
  /-- Members counted and members that acknowledged, with the stamp of each. -/
  counted : List (Nat × Nat)
  first : Nat
  /-- The result is formed, and its result stamp. -/
  formed : Bool := false
  resultAt : Nat := 0
  acks : List (Nat × Nat) := []
  /-- Retention has ended. -/
  ended : Bool := false
  /-- Resend periods of 16 ticks passed. -/
  resends : Nat := 0
  /-- It is never completed: its accumulator was poisoned, its finish failed, or its cell was lost (R151, R207). -/
  held : Bool := false
deriving DecidableEq, Repr

/-- An abort record (R212): its decision time is fabric time. -/
structure AbortRec where
  opseq : Nat
  cause : Nat
  member : Nat
  epoch : Nat
  time : Nat
  /-- The source of the request, as SWARM_ABORT_LOG gives it. -/
  source : Nat := 0
  /-- Members that the record is not sent to: the FLR subject and lost members. -/
  skip : List Nat := []
  /-- The newest operation that the abort ended (R201). -/
  newest : Nat := 0
deriving DecidableEq, Repr

/-- An operation of a swarm on this plane (R202): OPEN, or ABORTING under a record with the members owed an ABORT_SEEN. -/
structure SwOp where
  opseq : Nat
  epoch : Nat
  tenant : Nat
  limit : Nat := 0
  rec_ : Option AbortRec := none
  owed : List Nat := []
  resends : Nat := 0
  since : Nat := 0
  /-- Members that a test of R215 found lost while it was OPEN. -/
  lost : List Nat := []
deriving DecidableEq, Repr

/-- A swarm definition at work on this plane. -/
structure SwRun where
  ops : List SwOp := []
  stored : Option AbortRec := none
  /-- Operations released silently (R214). -/
  silent : List Nat := []
  /-- Members known to be unreachable (R215). -/
  lost : List Nat := []
  /-- Abort requests that the scheduler core has sent or relayed: OPSEQ, cause, MEMBER and SOURCE (R212). -/
  sources : List (Nat × Nat × Nat × Nat) := []
  /-- When it began to wait for a place, and since when no OPEN operation has been owed credit (R203). -/
  waitAt : Nat := 0
  idle : Option Nat := none
deriving DecidableEq, Repr

/-- The cells beyond their registers. -/
structure CellState where
  /-- Handlers in progress by device cell. -/
  run : List (Nat × CellRun) := []
  /-- Local data by 2^17 × cell + address, tile-store slots by 8 × cell + slot, shared SRAM by 2^23 × cluster + address. -/
  data : List Host.Cell := []
  tiles : List (Nat × List Byte) := []
  shared : List Host.Cell := []
  /-- Timer events that wait, oldest first, by 32 × device cell + general timer: the nominal start of the consumer and the stamp of the expiry
  (R96, R98, R134, R142). -/
  timers : List (Nat × List (Nat × Nat)) := []
  /-- Random states by 132 × cluster + physical cell (R185). -/
  rand : List (Nat × Nat) := []
  /-- Times of corrected errors in the window, by physical cell (R148). -/
  ce : List (Nat × List Nat) := []
  /-- The copy of its cell image that each CLUSTER keeps in shared SRAM for spare swaps (R143). -/
  images : List (Nat × ImageInfo) := []
  /-- Finish modules in the finish slots, by swarm. -/
  finishes : List (Nat × ImageInfo) := []
  moves : List (Nat × CellMove) := []
  /-- Device cells whose image has been loaded and whose INIT has not begun (R142, R149). -/
  initDue : List Nat := []
  /-- Logical cells whose work has moved to a spare that has taken no event yet (R133). -/
  fresh : List Nat := []
  /-- Tests under way by physical cell: when each began, and whether it must not pass (a spare's periodic test keeps SPARE meanwhile). -/
  tests : List (Nat × Nat) := []
  /-- Physical cells whose test follows a REINSTATE (R149). -/
  reinst : List Nat := []
  /-- The end of the last periodic test of a spare, by physical cell. -/
  tested : List (Nat × Nat) := []
  comb : List (Nat × CombCell) := []
  /-- The last tick counted in LEDGER_FULL_TICKS (R233). -/
  fullTick : Option Nat := none
  /-- Ledger ways by 512 × cell + way; ownership records by 1024 × cell + way. -/
  ledger : List (Nat × Ledger) := []
  owned : List (Nat × OwnRec) := []
  /-- Tile slots by (2 × swarm + bank) × 229376 + local tile. -/
  slots : List (Nat × Slot) := []
  swarms : List (Nat × SwRun) := []
deriving DecidableEq, Repr

/-! ### Lanes and links (R325 to R344) -/

/-- A width request without an accepting answer (R333): its number, the sender's lanes, its target tick and the requests made. -/
structure WidthReq where
  no : Nat
  mask : Nat
  target : Nat
  tries : Nat
deriving DecidableEq, Repr

/-- A link beyond its registers (R332, R333, R342, R343, R399). -/
structure LinkRun where
  /-- When it entered its state, and the time before which it makes no new attempt. -/
  since : Nat := 0
  bar : Option Nat := none
  /-- The optical module: 0 not begun, 1 ModuleReady awaited, 2 DataPathActivated awaited, 3 done; since when (R341). -/
  cmis : Nat := 0
  cmisAt : Nat := 0
  /-- Own nonce; the generations, SENDER_ID and nonce of the peer's last offer; an offer has echoed the own nonce; offers
  sent that echo the peer. -/
  nonce : List Byte := []
  peer : Option (List Nat × Nat × List Byte) := none
  matched : Bool := false
  echoes : Nat := 0
  /-- The secret of the link's keys once the side has switched to key 0, and whether a frame has authenticated. -/
  prk : Option (List Byte) := none
  seen : Bool := false
  /-- Next counter to send, least counter to accept. -/
  txCtr : Nat := 0
  rxCtr : Nat := 0
  /-- Numbers of the keys in use, the next receive key is installed, and the age and use of the keys. -/
  txR : Nat := 0
  rxR : Nat := 0
  rxReady : Bool := false
  txAt : Nat := 0
  rxAt : Nat := 0
  txFrames : Nat := 0
  rxFrames : Nat := 0
  /-- Consecutive discarded frames. -/
  bad : Nat := 0
  /-- Width changes: the own request, the change agreed on (own lanes and target tick), next request number, sending stopped. -/
  req : Option WidthReq := none
  agreed : Option (Nat × Nat) := none
  /-- The change agreed on was asked for by this side. -/
  asked : Bool := false
  reqNo : Nat := 0
  paused : Bool := false
  /-- Frames sent since the last alignment marker, at 150 × width in a control period and eight periods from marker to marker (R326). -/
  striped : Nat := 0
deriving DecidableEq, Repr

/-- A lane pair beyond its registers (R327, R336, R338). -/
structure LaneRun where
  /-- The sender's lane index, port and SENDER_ID of the last marker. -/
  marker : Option (Nat × Nat × Nat) := none
  /-- When it began to retrain; times of its retrains and of its uncorrectable codewords; windows in a row over SER_RETIRE. -/
  retrainAt : Option Nat := none
  retrains : List Nat := []
  ucws : List Nat := []
  ser : Nat := 0
  /-- A transient fault waits for the width change that takes the pair out of the stripe (R336). -/
  leaving : Bool := false
  /-- RETIRED, while its port is in TEST (R339). -/
  retired : Bool := false
deriving DecidableEq, Repr

/-- Links beyond their registers. -/
structure LinkState where
  /-- The width that R102 goes on using for a port after a width change, with the tick from which it uses the new one (R334). -/
  jigWidth : List (Nat × Nat × Nat) := []
  /-- SENDER_ID of the peer's alignment markers in the last UP period, by half (R327). -/
  sender : List (Nat × Nat) := []
  /-- Links by half, lane pairs by physical lane 8p + l. -/
  runs : List (Nat × LinkRun) := []
  lanes : List (Nat × LaneRun) := []
  /-- Eye-scan points under measurement, by port. -/
  eyes : List Nat := []
  /-- Failed module reads in a row, by port, and the last poll (R341). -/
  fails : List (Nat × Nat) := []
  polls : List (Nat × Nat) := []
deriving DecidableEq, Repr

/-! ### Firmware (R376 to R402) -/

/-- Firmware, security and identity beyond the registers. -/
structure FwState where
  /-- Rack link keys: generation and key of GEN_NEW and GEN_OLD (R398). -/
  rlkNew : Option (Nat × List Byte) := none
  rlkOld : Option (Nat × List Byte) := none
  /-- Error records that wait to be forwarded to the tray controller, oldest first (R397). -/
  events : List Nat := []
  /-- The flash (R378): bytes that differ from the erased value. -/
  flash : List Host.Cell := []
  /-- The generations and keys in the sealed key store (R387, R398): GEN_NEW and GEN_OLD. -/
  sealedNew : Option (Nat × List Byte) := none
  sealedOld : Option (Nat × List Byte) := none
  /-- 0 while `RESET_N` is low or `PWR_GOOD` is low, 1 while the boot of R385 runs, 2 once it is over; whether that reset is cold. -/
  phase : Nat := 0
  cold : Bool := true
  /-- The image area of the running image, and its components in HBM: type, address and length (R381, R383). -/
  area : Nat := 0
  comps : List (Nat × Nat × Nat) := []
  /-- The start-up configuration copy in force at the last boot (R380). -/
  config : Option Nat := none
  /-- The end of the reserved leaf block, and a block is due (R389). -/
  leafEnd : Nat := 0
  leafDue : Bool := false
  /-- Times of the faults of each processor, and when each last began to run (R376, R377). -/
  faults : List (Nat × List Nat) := []
  ranAt : List (Nat × Nat) := []
  /-- A molt: when its step began, and by fabric time; the cluster control cores that have moved (R394). -/
  moltAt : Nat × Nat := (0, 0)
  moltCores : Nat := 0
  /-- CLUSTERs that have not passed a START since the last molt (R394). -/
  unmolted : List Nat := []
  /-- The component of the update in progress (R393). -/
  update : Option Nat := none
  /-- SPDM: ways that have negotiated algorithms (0 for MCTP, else 1 + 256 × port + function), and the secret of the session over
  MCTP (R390, R398). -/
  negotiated : List Nat := []
  session : Option (List Byte) := none
deriving DecidableEq, Repr

/-! ### Power (R403 to R422) -/

/-- The power controller beyond its registers (R405 to R409). -/
structure PowerState where
  /-- `last_goal` once a loop step has run, and the loop steps run since the reset, up to 4 (R404, R405). -/
  lastGoal : Option Nat := none
  steps : Nat := 0
  /-- The hottest reading of each sample that no loop step has covered yet, as stamp, sensor and reading in 1/8 °C, and the last reading of each
  sensor. -/
  maxTj : List (Nat × (Nat × Int)) := []
  last : List (Nat × Int) := []
  /-- The last tick whose sensor sample counted (R407). -/
  sampled : Option Nat := none
  /-- From which stamp on the applied level was 31 or was not, newest first, as far back as a loop step may look (R406). -/
  deeps : List (Nat × Bool) := []
  /-- `FAST_CLAMP_N` is low; the fabric time at which it rose for good while the clamp was in force; `CLAMP_ACK` is high (R408). -/
  clampLow : Bool := false
  rose : Option Nat := none
  ack : Bool := false
  /-- When a rail last exceeded its peak current in this step; rails outside their windows; `THERMTRIP_N` is low (R407, R409). -/
  peak : Option Nat := none
  rails : List Nat := []
  tripped : Bool := false
  /-- Crossing queues that are blocked until their handshake (R415): 0 to 7 the lane dies, 8 and 9 the host ports A and B, 10 the clusters, the
  memory mesh and the firmware processors. -/
  cdc : List Nat := []
deriving DecidableEq, Repr

/-- A pseudo-channel beyond its registers (R351 to R354): times of its corrected errors and poisoned reads in the window, and when its
retrain, its migration or its test began. -/
structure PcRun where
  ce : List Nat := []
  ue : List Nat := []
  since : Nat := 0
  test : Bool := false
deriving DecidableEq, Repr

/-- The HBM controllers beyond their registers: pseudo-channels by 64 × stack + channel, and permanent faults that wait for their turn,
with their causes, in order of detection (R354). -/
structure HbmState where
  pcs : List (Nat × PcRun) := []
  queue : List (Nat × Nat) := []
deriving DecidableEq, Repr

/-- The state of the device. -/
structure State where
  /-- Register fields that differ from their reset value, by bit address in BAR0, and the snapshot copies (R15). -/
  regs : List (Nat × Nat) := []
  hold : List (Nat × Nat) := []
  /-- Snapshot engines at work: the block's REQ field and when it was set (R412). -/
  snaps : List (Nat × Nat) := []
  /-- The model's own: ftu since cold reset, by which durations are timed, and the counter of free values. -/
  now : Nat := 0
  free : Nat := 0
  /-- Fabric time (R90). -/
  time : Word := 0
  /-- Device HBM bytes that differ from zero, and poisoned 64 B granules (R20, R351). -/
  hbm : List Host.Cell := []
  poison : List Nat := []
  /-- Packets waiting at a unit's crossbar port, coming from the crossbar and going into the device. -/
  inbox : List (Nat × Packet) := []
  outbox : List (Nat × Packet) := []
  out : List Output := []
  err : ErrState := {}
  fn : FnState := {}
  tick : TimeState := {}
  jig : JigState := {}
  sw : SwState := {}
  ext : ExtState := {}
  host : HostState := {}
  ep : EpState := {}
  tel : TelState := {}
  link : LinkState := {}
  fw : FwState := {}
  pw : PowerState := {}
  mem : HbmState := {}
  cells : CellState := {}
  pending : List Instr := []
deriving DecidableEq, Repr

/-- The device right after cold reset (R13, R415 to R417): every field at the value the spec states, the queue empty. -/
def State.reset : State := {}

end Sys2Proof.Machine
end

