-- ==== Sys2Proof/Machine/Ops.lean ====
section
/-!
DEFINITION. Machine/Ops.lean: the operations that every meaning is written over: reading and writing a register field,
counting (R15), taking a free value, HBM bytes, DMA and MSI-X, error reports (R359 to R365), and packets made by the device.
-/
namespace Sys2Proof.Machine
open Sys2Proof

/-! ### Register fields -/

/-- The value of a register field, at the field's width (R10, R13). -/
def rd (s : State) (f : Fld) : Nat := (findKey s.regs f.key).getD f.reset % 2 ^ f.width

/-- A bit of a register field. -/
def rdb (s : State) (f : Fld) : Bool := rd s f != 0

/-- The state with a register field set, at the field's width. -/
def wr (s : State) (f : Fld) (v : Nat) : State :=
  { s with regs := putKey s.regs f.key f.reset (v % 2 ^ f.width) }

/-- `wr` of a bit. -/
def wrb (s : State) (f : Fld) (b : Bool) : State := wr s f (b2n b)

/-- The value of field `f` after counting `n` more: it saturates at all ones unless it wraps (R15). -/
def countVal (f : Fld) (v n : Nat) : Nat :=
  if f.wraps then (v + n) % 2 ^ f.width else min (v + n) (2 ^ f.width - 1)

/-- The state with a counter field raised by `n` (R15). -/
def cnt (s : State) (f : Fld) (n : Nat := 1) : State := wr s f (countVal f (rd s f) n)

/-- Number of counter `i` of group `g` (R375). -/
def ctrNo (g i : Nat) : Nat := g * 65536 + i

/-- A counter of the catalogue, of 64 bits, raised by `n` (R375). -/
def bump (s : State) (num : Nat) (n : Nat := 1) : State :=
  { s with tel := { s.tel with counts := putKey s.tel.counts num 0 (((findKey s.tel.counts num).getD 0 + n) % 2 ^ 64) } }

/-- A list of writes, in order. -/
def wrs (s : State) : List (Fld × Nat) → State
  | [] => s
  | (f, v) :: l => wrs (wr s f v) l

/-- A fresh free value and the state with its counter advanced. -/
def freeNat (s : State) : Nat × State := (Config.freeValue s.free, { s with free := s.free + 1 })

/-- The next free value of the state, without taking it. -/
def peekFree (s : State) : Nat := Config.freeValue s.free

/-- The state with `k` free values taken. -/
def takeFree (s : State) (k : Nat := 1) : State := { s with free := s.free + k }

/-- The two's-complement value of a `w`-bit number. -/
def toSigned (w v : Nat) : Int := if v % 2 ^ w < 2 ^ (w - 1) then (v % 2 ^ w : Nat) else ((v % 2 ^ w : Nat) : Int) - (2 ^ w : Nat)

/-- The `w`-bit two's-complement number of an integer. -/
def ofSigned (w : Nat) (x : Int) : Nat := (x % ((2 ^ w : Nat) : Int)).toNat

/-! ### Durations, in ftu (R9) -/

/-- Microseconds in ftu. -/
def us (n : Nat) : Nat := n * 1600
/-- Milliseconds in ftu. -/
def ms (n : Nat) : Nat := n * 1600000
/-- Seconds in ftu. -/
def secs (n : Nat) : Nat := n * 1600000000
/-- Nanoseconds in ftu, rounded up. -/
def ns (n : Nat) : Nat := (n * 1600 + 999) / 1000
/-- Ticks in ftu. -/
def ticks (n : Nat) : Nat := n * 4096

/-- The number of the present tick (R90). -/
def tickNo (s : State) : Nat := s.time.toNat / 4096
/-- The present slot of the tick (R90). -/
def slotNo (s : State) : Nat := s.time.toNat / 64 % 64

/-- A tick in which an input is held under R124 is counted once. -/
def countHeld (s : State) : State :=
  if s.sw.heldTick == some (tickNo s) then s
  else bump (cnt { s with sw := { s.sw with heldTick := some (tickNo s) } } Reg.SWITCH.COUNT_B.BACKPRESSURE_TICKS) (ctrNo 0x30 3)

/-- How many kerfs have begun by fabric time `t` (R90). -/
def kerfsBy (t : Nat) : Nat := (t + 128) / 4096

/-- The counters kept at the kerf of tick `k`, for the maps of ticks `k` and `k + 1` (R366); without TELEMETRY, only for the next map. -/
def markKerf (s : State) (k : Nat) : State :=
  let old := if rd s (Reg.GLOBAL.FUNC_STATUS.STATE 460) = 2 then s.tel.marks else []
  { s with tel := { s.tel with marks := setKey old k s.tel.counts } }

/-- What goes with the kerf that begins between times `t` and now, where one does. -/
def passKerf (s : State) (t : Nat) : State :=
  if kerfsBy t < kerfsBy s.time.toNat then markKerf s (kerfsBy s.time.toNat - 1) else s

/-- What goes with the start of the present tick: the copy budget of R371 begins anew, inputs still held count (R124), and `TICK_OUT`
pulses (TICK_PIN_CFG). -/
def newTick (s : State) : State :=
  let s := { s with tel := { s.tel with ffUsed := 0 } }
  let s := if s.sw.pkts.any (fun q => q.place == .held) then countHeld s else s
  if rdb s Reg.TICK.TICK_PIN_CFG.OUT_EN && tickNo s % 2 ^ rd s Reg.TICK.TICK_PIN_CFG.OUT_DIV == 0 then { s with out := .tickOut (tickNo s) :: s.out } else s

/-- Fabric time runs on by `n` ftu. -/
def runOn (s : State) (n : Nat) : State := { s with now := s.now + n, time := s.time + BitVec.ofNat 64 n }

/-- One ftu passes. While a correction is to be slewed in, every 2,048 ftu fabric time gains or loses 1 ftu (R94); after a thermal trip
the clock that counts it has stopped (R407, R411). -/
def advance (s : State) : State :=
  if s.pw.tripped then { s with now := s.now + 1 } else
  let t := s.time.toNat
  let slewing := (s.now + 1) % 2048 == 0
  let s' := if slewing && decide (0 < s.tick.slew) then
      { s with now := s.now + 1, time := s.time + 2, tick := { s.tick with slew := s.tick.slew - 1 } }
    else if slewing && decide (s.tick.slew < 0) then { s with now := s.now + 1, tick := { s.tick with slew := s.tick.slew + 1 } }
    else runOn s 1
  let s' := passKerf s' t
  if s'.time.toNat / 4096 ≠ t / 4096 then newTick s' else s'

/-- Time passes by one ftu: what a step does while no command waits (R90; DESIGN CHOICE, log entry 1). -/
def idle (s : State) : Host.Outcome State Fault Refusal := .next (advance s)

/-- Die link `d` retrains (R349): 0 to 7 the lane dies, 8 the host die. -/
def dieHeld (s : State) (d : Nat) : Bool := (findKey s.sw.d2d d).isSome

/-- The queue of crossing `d` is blocked until its pointers are set again (R415). -/
def cdcHeld (s : State) (d : Nat) : Bool := s.pw.cdc.contains d

/-- Nothing passes between die `d`, 0 to 7, and the crossbar: its link retrains, its queue is blocked, or the clocks of both have stopped (R407). -/
def dieShut (s : State) (d : Nat) : Bool := s.pw.tripped || dieHeld s d || cdcHeld s d

/-- Nothing passes between the unit at crossbar port `x` and the crossbar (R349, R415). -/
def unitShut (s : State) (x : Nat) : Bool :=
  if x < 128 then false
  else if x = 224 ∨ x = 225 then dieHeld s 8 || cdcHeld s (x - 216)
  else cdcHeld s 10

/-! ### Function states (R29) -/

/-- State code of function `n`. -/
def fnState (s : State) (n : Nat) : Nat := rd s (Reg.GLOBAL.FUNC_STATUS.STATE n)
/-- Function `n` is RUNNING. -/
def running (s : State) (n : Nat) : Bool := fnState s n == 2
/-- Function `n` is STOPPED. -/
def stopped (s : State) (n : Nat) : Bool := fnState s n == 0
/-- Function ID of HOSTPORT `e`. -/
def fHost (e : Nat) : Nat := 128 + e
/-- Function ID of CLUSTER `n`. -/
def fCluster (n : Nat) : Nat := 130 + n
/-- Function ID of HBM `m`. -/
def fHbm (m : Nat) : Nat := 178 + m
/-- Function ID of SWARM `k`. -/
def fSwarm (k : Nat) : Nat := 202 + k
/-- Function ID of JIG_TABLE. -/
def fJig : Nat := 458
/-- Function ID of EXTENT_REGISTRY. -/
def fExt : Nat := 459
/-- Function ID of TELEMETRY. -/
def fTel : Nat := 460
/-- Function ID of FIREFLY. -/
def fFf : Nat := 461
/-- Function ID of HOME_EP. -/
def fHome : Nat := 462

/-- This plane's number (R22). -/
def planeId (s : State) : Nat := rd s Reg.GLOBAL.PLANE_CFG.PLANE_ID
/-- The service ID of this plane (R46). -/
def serviceId (s : State) : Nat := rd s Reg.SWITCH.LOCAL_IDS.SERVICE_ID
/-- The home end-point's ID (R46). -/
def homeEpId (s : State) : Nat := rd s Reg.SWITCH.LOCAL_IDS.HOME_EP_ID
/-- End-point `e`'s ID (R46, R243). -/
def epId (s : State) (e : Nat) : Nat := rd s (Reg.EP.EP_CFG.EP_ID e)
/-- The fabric manager IDs of FM_IDS that are valid (R61). -/
def fmIds (s : State) : List Nat :=
  ((List.range 4).filter (fun k => rdb s (Reg.SWITCH.FM_IDS.VALID k))).map (fun k => rd s (Reg.SWITCH.FM_IDS.ID k))
/-- The port of the manager function (R309). -/
def mgrPort (s : State) : Nat := rd s Reg.HOSTPORT.MGR_CTL.MGR_PORT

/-! ### Device HBM (R20, R351) -/

/-- What a byte of HBM that nothing has written reads as. DESIGN CHOICE (log entry 5): zero. -/
def hbmDefault : Byte := 0

/-- Bytes of device HBM (R20): 1,536 regions of 1 GiB. -/
def hbmSize : Nat := 1536 * 2 ^ 30

/-- One byte of device HBM. -/
def hbmRd (s : State) (a : Nat) : Byte := (findKey s.hbm a).getD hbmDefault

/-- `n` bytes of device HBM from `a`. -/
def hbmRdN (s : State) (a : Nat) : Nat → List Byte
  | 0 => []
  | n + 1 => hbmRd s a :: hbmRdN s (a + 1) n

/-- The memory with bytes written from `a` on. -/
def putMem (m : List Host.Cell) (a : Nat) : List Byte → List Host.Cell
  | [] => m
  | b :: l => putMem (putKey m a hbmDefault b) (a + 1) l

/-- Granules of 64 B that `[a, a + n)` covers wholly. -/
def wholeGranules (a n : Nat) : List Nat :=
  let first := (a + 63) / 64
  (List.range ((a + n) / 64 - first)).map (fun i => first + i)

/-- The state with bytes of HBM written; a granule written whole loses its poison (R351). -/
def hbmWr (s : State) (a : Nat) (l : List Byte) : State :=
  { s with hbm := putMem s.hbm a l, poison := s.poison.filter (fun g => !(wholeGranules a l.length).contains g) }

/-- Whether a poisoned granule lies in `[a, a + n)` (R352). -/
def hbmPoisoned (s : State) (a n : Nat) : Bool :=
  s.poison.any (fun g => decide (g * 64 < a + n) && decide (a < g * 64 + 64))

/-- The canonical form of the HBM contents: strictly rising addresses, no entry equal to what an unlisted byte reads as. -/
def Memory.wf (m : List Host.Cell) : Bool := sortedKeys m && m.all (fun c => c.2 != hbmDefault)

/-! ### Outputs -/

/-- The state with one more output. -/
def emitOut (s : State) (o : Output) : State := { s with out := o :: s.out }

/-- A packet made by a unit of the device, waiting to enter at that unit's crossbar port (R107). An end-point never sends one whose SRC or DEST
is the broadcast ID (R45). -/
def offer (s : State) (x : Nat) (p : Packet) : State :=
  if (x = 224 ∨ x = 225) ∧ (p.h.src = 0xFFF ∨ p.h.dest = 0xFFF) then s else { s with outbox := s.outbox ++ [(x, p)] }

/-- A packet with its HCRC set (R51), this plane's number and the STAMP of the sender's fabric time (R52). -/
def mkPacket (s : State) (h : Hdr) (payload : List Byte := []) : Packet :=
  { h := sealHdr { h with plane := BitVec.ofNat 5 (planeId s), stamp := BitVec.ofNat 24 s.time.toNat }, payload := payload }

/-- MSI-X vector key: function `func` of host port `port`. -/
def msixKey (port func vector : Nat) : Nat := (port * 256 + func) * 4096 + vector

/-- Word `w` of the MSI-X table entry of a vector key: an unlisted Vector Control word is 1, masked (R307). -/
def msixWord (s : State) (k w : Nat) : Nat := (findKey s.host.msixTab (4 * k + w)).getD (if w = 3 then 1 else 0)

/-- The message of a vector key sent to its table entry's address. -/
def msixOut (s : State) (port func vector : Nat) : State :=
  let k := msixKey port func vector
  emitOut s (.msix port func vector (msixWord s k 0 + 2 ^ 32 * msixWord s k 1) (msixWord s k 2))

/-- A message of `vector`: discarded while MSI-X Enable is clear, kept pending while masked, else sent (R307). -/
def sendMsix (s : State) (port func vector : Nat) : State :=
  if !s.host.msixOn.contains (port * 256 + func) then s
  else if s.host.fnMask.contains (port * 256 + func) || bitAt (msixWord s (msixKey port func vector) 3) 0 then
    { s with host := { s.host with msixPend := (msixKey port func vector) :: s.host.msixPend.filter (· != msixKey port func vector) } }
  else msixOut s port func vector

/-- The cached ATS translation of function `func` of end-point `e` that covers `addr` with the access asked for (R281). -/
def atcFind (l : List Atc) (e func addr : Nat) (write read : Bool) : Option Atc :=
  l.find? (fun t => t.ep = e && t.func = func && t.va ≤ addr && addr < t.va + t.size && (!write || t.w) && (!read || t.r))

/-- `n` bytes from `addr`, which lie at offset `off`, through the cached translations that cover them: offset, length and translated address of
each part; or the first address that none covers (R281). `fuel` bounds the parts. -/
def atcRuns (l : List Atc) (e func addr n : Nat) (write read : Bool) (off : Nat) : Nat → Except Nat (List (Nat × Nat × Nat))
  | 0 => .ok []
  | fuel + 1 =>
    if n = 0 then .ok []
    else
      match atcFind l e func addr write read with
      | none => .error addr
      | some t =>
        let k := min n (t.va + t.size - addr)
        match atcRuns l e func (addr + k) (n - k) write read (off + k) fuel with
        | .ok rs => .ok ((off, k, t.pa + (addr - t.va)) :: rs)
        | .error a => .error a

/-- Where `n` bytes of local memory from `addr` lie for PCIe requests of function `func` of end-point `e` (R281): untranslated while ATS is
disabled for the function, else through its translations, every one of which must give the access needed. -/
def localRuns (s : State) (e func addr n : Nat) (write read : Bool) : Except Nat (List (Nat × Nat × Nat)) :=
  if !s.host.atsOn.contains (e * 256 + func) then .ok [(0, n, addr)] else atcRuns s.host.atc e func addr n write read 0 (n / 4096 + 2)

/-- Tags of port `e` for non-posted requests (R298): 4,096 outstanding at most; 10-bit tags outside Flit mode. -/
def tagLimit (s : State) (e : Nat) : Nat := if rdb s (Reg.HOSTPORT.LINK_STATUS.FLIT e) then 4096 else 1024

/-- Non-posted requests of port `e` outstanding: reads, AtomicOps and ATS Translation Requests (R298). -/
def hostOut (s : State) (e : Nat) : Nat :=
  ((s.host.ops.filter (fun o => o.ep == e)).map (fun o => if o.st = 0 then 1 else if o.st = 2 then o.reqs else 0)).sum +
    (s.host.atsWait.filter (fun w => w.ep == e && w.asked)).length + (if e == mgrPort s && !s.err.ringWait.isEmpty then 1 else 0)

/-- An ATS Translation Request for the page of `addr` (R281). -/
def askPage (s : State) (e func addr : Nat) (write : Bool) : State := emitOut s (.atsRequest e func (addr / 4096 * 4096) write)

/-- A loss in crossing `i` shown in CDC_OVERRUN (R414). -/
def cdcLost (s : State) (i : Nat) : State := wr s Reg.POWER.CDC_OVERRUN.OVERRUN (rd s Reg.POWER.CDC_OVERRUN.OVERRUN ||| 2 ^ i)

/-- A posted write of local memory by end-point `e` for function `func` (R281): sent where its bytes lie, or held for its translation. Data is
written with Relaxed Ordering, ring entries never (R298). -/
def dmaWrite (s : State) (e func addr : Nat) (data : List Byte) (ring : Nat := 4096) (ro : Bool := decide (4096 ≤ ring)) : State :=
  match localRuns s e func addr data.length true false with
  | .ok rs => rs.foldl (fun s r => emitOut s (.hostWrite e func r.2.2 ((data.drop r.1).take r.2.1) ro)) s
  | .error a =>
    let may := decide (hostOut s e < tagLimit s e)
    let s := { s with host := { s.host with atsWait := s.host.atsWait ++ [⟨e, func, ring, addr, data, ro, may⟩] } }
    if may then askPage s e func a true else s

/-! ### Firmware processors and their log (R376, R377, R401) -/

/-- STATE of firmware processor `i`: 0 HELD_AT_RESET, 1 RUNNING, 2 RESTARTING, 3 HELD. -/
def procState (s : State) (i : Nat) : Nat := rd s (Reg.SECURITY.PROC_STATUS.STATE i)
/-- Firmware processor `i` restarts or is held (R377): what it does waits. -/
def procAway (s : State) (i : Nat) : Bool := decide (2 ≤ procState s i)

/-- Management protocol number of the text lines on `UART_TX` (R433). -/
def protoUart : Nat := 3

/-- A record of processor `proc` in the firmware log, in slot SEQ mod 8,192, and on `UART_TX` (R401, R433). -/
def fwLogPut (s : State) (proc level id a0 a1 : Nat) : State :=
  let q := rd s Reg.MGMT.FW_LOG_STATUS.NEXT_SEQ
  let k := q % 8192
  emitOut (wrs s [(Reg.MGMT.FW_LOG.WORD k 0, s.time.toNat), (Reg.MGMT.FW_LOG.WORD k 1, packBits [(0, 32, q), (32, 8, proc), (40, 8, level), (48, 16, id)]),
    (Reg.MGMT.FW_LOG.WORD k 2, a0), (Reg.MGMT.FW_LOG.WORD k 3, a1), (Reg.MGMT.FW_LOG_STATUS.NEXT_SEQ, q + 1)])
    (.mgmt protoUart id [s.time.toNat, q, proc, level, a0, a1] [])

/-- A trace point of group `g` (R401): recorded at FW_LOG_CFG.LEVEL TRACE while the group's bit is set. -/
def trace (s : State) (proc g id a0 a1 : Nat) : State :=
  if rd s Reg.MGMT.FW_LOG_CFG.LEVEL = 3 && bitAt (rd s Reg.MGMT.FW_LOG_CFG.TRACE_EN) g then fwLogPut s proc 3 id a0 a1 else s

/-! ### Error reports (R359 to R365) -/

/-- The 512 bits of an error record without its CRC (R359). -/
def errFields (s : State) (src : Nat) (e : PendErr) (coalesced : Bool) : Nat :=
  packBits [(0, 64, e.time), (64, 8, e.cls), (72, 3, e.outcome), (75, 1, b2n coalesced), (76, 5, planeId s),
    (81, 9, src), (96, 16, e.cause), (128, 32, e.count), (160, 32, s.err.seq), (192, 64, e.detA), (256, 64, e.detB)]

/-- The record with its CRC over bytes 0 to 59 (R359). -/
def errRecord (s : State) (src : Nat) (e : PendErr) (coalesced : Bool) : Nat :=
  let n := errFields s src e coalesced
  n ||| (crc32c (leBytes 60 n) <<< 480)

/-- The writes that put record `n` into log entry `k`. -/
def logWrites (k n : Nat) : List (Fld × Nat) :=
  (List.range 8).map (fun w => (Reg.GLOBAL.ERR_LOG.WORD k w, bits n (64 * w) 64))

/-- The on-chip log with record `n` entered (R365). -/
def logRecord (s : State) (n : Nat) : State :=
  let ff := rd s Reg.GLOBAL.LOG_STATUS.FIRST_FILLED
  let s := if ff < 64 then wr (wrs s (logWrites ff n)) Reg.GLOBAL.LOG_STATUS.FIRST_FILLED (ff + 1) else s
  let ln := rd s Reg.GLOBAL.LOG_STATUS.LAST_NEXT
  let s := wrs s (logWrites (64 + ln) n)
  let s := if ln = 191 then wr (wr s Reg.GLOBAL.LOG_STATUS.LAST_NEXT 0) Reg.GLOBAL.LOG_STATUS.LAST_WRAPPED 1
    else wr s Reg.GLOBAL.LOG_STATUS.LAST_NEXT (ln + 1)
  cnt s Reg.GLOBAL.LOG_STATUS.TOTAL

/-- Slots of the log ring in use (R363). -/
def ringUsed (s : State) : Nat :=
  (rd s Reg.GLOBAL.ERR_RING_TAIL.TAIL + 2 ^ 32 - rd s Reg.GLOBAL.ERR_RING_HEAD.HEAD) % 2 ^ 32

/-- Slots of the log ring (R363). -/
def ringSlots (s : State) : Nat := 2 ^ rd s Reg.GLOBAL.ERR_RING_CFG.SIZE_LOG2

/-- The ring can take a record (R363): enabled, not full with the records that wait to be written, and the manager function not in confidential
mode. -/
def ringOpen (s : State) : Bool :=
  rdb s Reg.GLOBAL.ERR_RING_CFG.ENABLE && decide (ringUsed s + s.err.ringWait.length < ringSlots s) &&
    !rdb s (Reg.HOSTPORT.FUNC_STATE.CONFIDENTIAL (mgrPort s) 0)

/-- FULL of ERR_RING_STATUS brought up to date. -/
def ringFull (s : State) : State := wrb s Reg.GLOBAL.ERR_RING_STATUS.FULL (decide (ringUsed s = ringSlots s))

/-- Address of the slot at TAIL. -/
def ringAddr (s : State) : Nat := rd s Reg.GLOBAL.ERR_RING_BASE.BASE * 4096 + rd s Reg.GLOBAL.ERR_RING_TAIL.TAIL % ringSlots s * 64

/-- Record `n` written at TAIL, with the message of R363 when MOD_COUNT records have been written. -/
def ringWrite (s : State) (n : Nat) : State :=
  let tail := rd s Reg.GLOBAL.ERR_RING_TAIL.TAIL
  let s := dmaWrite s (mgrPort s) 0 (ringAddr s) (leBytes 64 n)
  let s := ringFull (wr s Reg.GLOBAL.ERR_RING_TAIL.TAIL (tail + 1))
  let k := s.err.unsignalled + 1
  if k ≥ rd s Reg.GLOBAL.ERR_RING_CFG.MOD_COUNT then
    sendMsix { s with err := { s.err with unsignalled := 0, ringTimer := none } } (mgrPort s) 0 (rd s Reg.GLOBAL.ERR_RING_CFG.VECTOR)
  else { s with err := { s.err with unsignalled := k, ringTimer := some (s.err.ringTimer.getD s.now) } }

/-- Record `n` written at TAIL, or held in its turn until the slot has its translation: TAIL counts no record that has not been written
(R281, R363). -/
def ringPut (s : State) (n : Nat) : State :=
  match localRuns s (mgrPort s) 0 (ringAddr s) 64 true false with
  | .ok _ => if s.err.ringWait.isEmpty then ringWrite s n else { s with err := { s.err with ringWait := s.err.ringWait ++ [n] } }
  | .error a =>
    let t := { s with err := { s.err with ringWait := s.err.ringWait ++ [n] } }
    if s.err.ringWait.isEmpty then askPage t (mgrPort s) 0 a true else t

/-- The records that wait for the ring's translation are written, as far as it goes. -/
def ringDrain (s : State) : Nat → State
  | 0 => s
  | fuel + 1 =>
    match s.err.ringWait with
    | [] => s
    | n :: rest =>
      match localRuns s (mgrPort s) 0 (ringAddr s) 64 true false with
      | .ok _ => ringDrain (ringWrite { s with err := { s.err with ringWait := rest } } n) fuel
      | .error a => askPage s (mgrPort s) 0 a true

/-- Records that cannot go to the ring any more are dropped and counted (R363, R364). -/
def ringLose (s : State) : State :=
  let k := s.err.ringWait.length
  if k = 0 then s
  else
    let first := if rd s Reg.GLOBAL.ERR_RING_STATUS.DROPPED = 0 then s.time.toNat else s.err.firstDrop
    let s := wr (cnt s Reg.GLOBAL.ERR_RING_STATUS.DROPPED k) Reg.GLOBAL.ERR_RING_STATUS.OVERRUN_PENDING 1
    { s with err := { s.err with firstDrop := first, lastDrop := s.time.toNat, ringWait := [] } }

/-- ERR_SRC of a source brought up to date with one more error (R362). -/
def countSource (s : State) (src cls cause : Nat) : State :=
  let s := if rd s (Reg.GLOBAL.ERR_SRC.COUNT src) = 0 then
      wrs s [(Reg.GLOBAL.ERR_SRC.FIRST_TIME src, s.time.toNat), (Reg.GLOBAL.ERR_SRC.FIRST_CLASS src, cls),
        (Reg.GLOBAL.ERR_SRC.FIRST_CAUSE src, cause)] else s
  cnt (cnt (wrs s [(Reg.GLOBAL.ERR_SRC.LAST_TIME src, s.time.toNat), (Reg.GLOBAL.ERR_SRC.LAST_CLASS src, cls),
    (Reg.GLOBAL.ERR_SRC.LAST_CAUSE src, cause)]) (Reg.GLOBAL.ERR_SRC.COUNT src)) (Reg.GLOBAL.ERR_SRC.UPDATE src)

/-- The OVERRUN record of R364, written before any other record as soon as the ring can take one; its error counts in ERR_SRC of source 471
(R362). -/
def overrunRecord (s : State) : State :=
  let d := rd s Reg.GLOBAL.ERR_RING_STATUS.DROPPED
  if d ≠ 0 && ringOpen s then
    let e : PendErr := { time := s.time.toNat, cls := 0x12, outcome := 0, count := d, detA := s.err.firstDrop, detB := s.err.lastDrop }
    let n := errRecord s 471 e false
    let s := countSource s 471 0x12 0
    let s := { s with err := { s.err with seq := (s.err.seq + 1) % 2 ^ 32, emitted := setKey s.err.emitted 471 (tickNo s) } }
    let s := wr (wr s Reg.GLOBAL.ERR_RING_STATUS.DROPPED 0) Reg.GLOBAL.ERR_RING_STATUS.OVERRUN_PENDING 0
    logRecord (ringPut s n) n
  else s

/-- A record produced: to the on-chip log, and to the ring or dropped (R363, R365). -/
def putRecord (s : State) (src : Nat) (e : PendErr) (coalesced : Bool) : State :=
  let s := overrunRecord s
  let n := errRecord s src e coalesced
  let s := { s with err := { s.err with seq := (s.err.seq + 1) % 2 ^ 32, emitted := setKey s.err.emitted src (tickNo s) } }
  let s := logRecord s n
  if ringOpen s then ringPut s n
  else
    let first := if rd s Reg.GLOBAL.ERR_RING_STATUS.DROPPED = 0 then s.time.toNat else s.err.firstDrop
    let s := wr (cnt s Reg.GLOBAL.ERR_RING_STATUS.DROPPED) Reg.GLOBAL.ERR_RING_STATUS.OVERRUN_PENDING 1
    { s with err := { s.err with firstDrop := first, lastDrop := s.time.toNat } }

/-- Records of outcome RETIRED or DEVICE wait for the tray controller (R397). -/
def forwards (e : PendErr) : Bool := e.outcome == 3 || e.outcome == 5

/-- EVT_FWD.QUEUED brought up to date. -/
def eventsQueued (s : State) : State := wr s Reg.MGMT.EVT_FWD.QUEUED s.fw.events.length

/-- One error of a source (R362): its record is produced at once by `put` where the source has emitted no record in this tick, else
it is pending. -/
def reportBy (put : State → Nat → PendErr → Bool → State) (s : State) (src cls cause outcome detA detB : Nat) : State :=
  let e : PendErr := { time := s.time.toNat, cls := cls, cause := cause, outcome := outcome, detA := detA, detB := detB, count := 1 }
  let s := countSource s src cls cause
  if findKey s.err.emitted src == some (tickNo s) || (findKey s.err.pending src).isSome then
    let k := match findKey s.err.pending src with | some p => p.count | none => 0
    { s with err := { s.err with pending := setKey s.err.pending src { e with count := k + 1 } } }
  else put s src e false

/-- A record produced and, where R397 says so, queued for the tray controller: at most 64 wait, and one that finds the queue full is
dropped and counted, with a FIRMWARE record (R402). -/
def emitRecord (s : State) (src : Nat) (e : PendErr) (coalesced : Bool) : State :=
  let n := errRecord (overrunRecord s) src e coalesced
  let s := putRecord s src e coalesced
  if !forwards e then s
  else if s.fw.events.length < 64 then eventsQueued { s with fw := { s.fw with events := s.fw.events ++ [n] } }
  else
    let s := cnt s Reg.MGMT.EVT_FWD.DROPPED
    reportBy putRecord s 470 0x11 14 0 1 (rd s Reg.MGMT.EVT_FWD.DROPPED)

/-- One error of a source (R362). -/
def report (s : State) (src cls cause outcome detA detB : Nat) : State := reportBy emitRecord s src cls cause outcome detA detB

/-- A register access error (R349 class 0x01, R360): source 463. -/
def regError (s : State) (w : Writer) (addr bytes : Nat) (write : Bool) (cause : Nat) : State :=
  report s 463 0x01 cause 0 addr (packBits [(0, 2, w.code), (4, 4, bytes), (8, 1, b2n write)])

/-- The error source of what enters at crossbar port `x`: its PORT, CLUSTER or HOSTPORT (R361). -/
def ingressSource (x : Nat) : Nat :=
  if x < 128 then x else if x < 224 then fCluster ((x - 128) / 2) else if x < 226 then fHost (x - 224) else fHome

/-- A PACKET error of R360. -/
def packetError (s : State) (x cause : Nat) (h : Nat) : State :=
  report s (ingressSource x) 0x04 cause 2 x (h % 2 ^ 64)

/-! ### Notices (R72, R441) and responses (R60, R71) -/

/-- The RESP extension of R71. -/
def respExt (cookie ccode detail result result2 : Nat) : BitVec 256 :=
  mkExt [(0, 32, cookie), (32, 8, ccode), (40, 8, detail), (64, 64, result), (128, 64, result2)]

/-- The header of the response to a request (R59, R60): to SRC, or to VIA of a relayed request. -/
def respHdr (h : Hdr) (self : Nat) (ext : BitVec 256) (len : Nat) : Hdr :=
  { dest := if h.rly = 2 then h.via else h.src, src := BitVec.ofNat 12 self, tenant := h.tenant,
    kind := (match h.k with | some k => k.respKind.code | none => Kind.completion.code),
    tc := h.tc, rly := if h.rly = 2 then 2 else 0, len := BitVec.ofNat 10 len, tag := h.tag, seq := h.seq, epoch := h.epoch,
    xgen := h.xgen, via := if h.rly = 2 then h.src else 0, ext := ext }

/-- The response of unit `self` to request `h`: CCODE, DETAIL, results and payload (R59, R60, R71). -/
def mkResp (s : State) (h : Hdr) (self ccode detail result result2 : Nat) (payload : List Byte := []) (len : Nat := 0) : Packet :=
  mkPacket s (respHdr h self (respExt h.cookie ccode detail result result2) len) payload

/-- The UNREACHABLE notice for request `h` (R72, R84, R441). ORIG_COOKIE is bits 31:0 of the extension, also for a kind whose extension has no
COOKIE, such as SWARM_TILE and SWARM_ACK (DESIGN CHOICE, log entry 26). -/
def unreachable (s : State) (h : Hdr) (port : Nat) : Packet :=
  mkPacket s
    { dest := h.src, src := BitVec.ofNat 12 (serviceId s), tenant := h.tenant, kind := Kind.notice.code, tag := h.tag,
      epoch := h.epoch, xgen := h.xgen, addr := h.addr,
      ext := mkExt [(0, 8, 1), (8, 12, h.dest.toNat), (20, 9, port), (32, 6, h.kind.toNat), (64, 32, h.cookie)] }

/-- A notice of R72 other than UNREACHABLE. -/
def noticeTo (s : State) (dest ncode subject port tenant swarm member : Nat) : Packet :=
  mkPacket s
    { dest := BitVec.ofNat 12 dest, src := BitVec.ofNat 12 (serviceId s), tenant := BitVec.ofNat 12 tenant,
      kind := Kind.notice.code,
      ext := mkExt [(0, 8, ncode), (8, 12, subject), (20, 9, port), (96, 8, swarm), (104, 8, member)] }

end Sys2Proof.Machine
end

