-- ==== Sys2Proof/Machine/Steering.lean ====
section
/-!
DEFINITION. Machine/Steering.lean: the cell hash (R129) and the home cell of each kind of packet (R113 rule 2, R200, R237, R372).
-/
namespace Sys2Proof.Machine
open Sys2Proof

/-- The home cell of a key in a domain (R129): a device cell 0 to 6,143. -/
def cellHash (key : List Byte) (domain : Nat) : Nat :=
  crc32c (key ++ leBytes 1 domain) * 6144 / 2 ^ 32

/-- The home cell of FPA `a` (R129, domain 0x01). -/
def homeCell (a : Nat) : Nat := cellHash (leBytes 8 (a / 64)) 1

/-- The home cell of a swarm tile (R129, domain 0x02; R200). -/
def swarmCell (swarm opseq tile : Nat) : Nat :=
  cellHash (leBytes 4 swarm ++ leBytes 4 opseq ++ leBytes 4 tile) 2

/-- The control cell of a swarm operation (R200). -/
def controlCell (swarm opseq : Nat) : Nat := swarmCell swarm opseq 0xFFFFFFFF

/-- The cell of a gather request (R129, domain 0x03; R237). -/
def gatherCell (src tag : Nat) : Nat := cellHash (leBytes 4 src ++ leBytes 4 tag) 3

/-- The cell of a flow's header copies (R372, domain 0x04). -/
def copyCell (src dest : Nat) : Nat := cellHash (leBytes 2 src ++ leBytes 2 dest) 4

/-- Cluster and logical cell of device cell `l` (R129). -/
def cellCluster (l : Nat) : Nat := l / 128

/-- The crossbar port through which device cell `l` is reached (R113). -/
def cellPort (l : Nat) : Nat := 128 + 2 * (l / 128) + l % 128 / 64

/-- The cell to which rule 2 of R113 steers a packet, for the kinds it names. -/
def steeredCell (h : Hdr) : Option Nat :=
  match h.k with
  | some .swarmTile => some (swarmCell (h.x 0 8) (h.x 32 32) (h.x 64 32))
  | some .swarmAck =>
    if h.x 64 32 < 0xFFFFFFF0 then some (swarmCell (h.x 0 8) (h.x 32 32) (h.x 64 32))
    else some (controlCell (h.x 0 8) (h.x 32 32))
  | some .gather => some (gatherCell h.src.toNat h.tag.toNat)
  | _ => none

/-- The device cell that COOKIE bits `c` name at crossbar port 128 + c[31:24] (R135). -/
def cookieCell (c : Nat) : Nat := 128 * (bits c 24 8 / 2) + bits c 16 8

/-- The device cell that a packet on its way to a cluster port goes to (R113, R135, R228). -/
def targetCell (h : Hdr) : Nat :=
  match steeredCell h with
  | some l => l
  | none => if h.homed then homeCell h.addr.toNat else cookieCell (if h.k == some .notice then h.x 64 32 else h.cookie)

/-- The packet entered at a fabric, host or service port (R113): crossbar port 0 to 127, or 224 and above. -/
def outerPort (x : Nat) : Bool := decide (x < 128) || decide (224 ≤ x)

end Sys2Proof.Machine
end

