-- ==== Sys2Proof/Machine/Extents.lean ====
section
/-!
DEFINITION. Machine/Extents.lean: the extent registry: its entries (R283), the check of S3 (R285, R286), its commands (R284),
the revoke state machine (R291), the count of requests in flight (R292) and the revoked list (R293).
-/
namespace Sys2Proof.Machine
open Sys2Proof

/-- The 256 bits of a registry entry (R283). -/
def extBits (e : ExtEntry) : Nat :=
  packBits [(0, 2, e.st), (2, 4, e.perm), (8, 12, e.ep), (20, 12, e.tenant), (32, 8, e.xgen), (64, 27, e.base),
    (96, 28, e.ngran), (128, 32, e.inflight), (192, 64, e.revokeTime)]

/-- The entry that a WRITE makes of the stage (R284). -/
def extOfStage (n : Nat) : ExtEntry :=
  { st := 1, perm := bits n 2 4, ep := bits n 8 12, tenant := bits n 20 12, xgen := bits n 32 8, base := bits n 64 27,
    ngran := bits n 96 28 }

/-- A reserved bit of the stage is set (R283, R284); STATE, INFLIGHT and REVOKE_TIME are ignored. -/
def extReserved (n : Nat) : Bool :=
  bits n 6 2 != 0 || bits n 40 24 != 0 || bits n 91 5 != 0 || bits n 124 4 != 0 || bits n 160 32 != 0

/-- Registry entry `i` (R283); all zero where it has not been written. -/
def extGet (s : State) (i : Nat) : ExtEntry := (findKey s.ext.reg i).getD {}

/-- First FPA and end of an entry's range. -/
def extLo (e : ExtEntry) : Nat := e.ep * 2 ^ 48 + e.base * 2 ^ 21
/-- The FPA just past an entry's range. -/
def extHi (e : ExtEntry) : Nat := extLo e + e.ngran * 2 ^ 21
/-- The entry's range covers FPA `a`. -/
def extCovers (e : ExtEntry) (a : Nat) : Bool := decide (extLo e ≤ a) && decide (a < extHi e)

/-- EXT_COUNT_B brought up to date. -/
def extCounts (s : State) : State :=
  wr (wr s Reg.EXTENT.EXT_COUNT_B.LIVE (s.ext.reg.filter (fun p => p.2.st == 1)).length)
    Reg.EXTENT.EXT_COUNT_B.REVOKING (s.ext.reg.filter (fun p => p.2.st == 2)).length

/-- The state with registry entry `i` set. -/
def extSet (s : State) (i : Nat) (e : ExtEntry) : State :=
  extCounts { s with ext := { s.ext with reg := putKey s.ext.reg i {} e } }

/-- Entry `i` freed: it enters the revoked list, whose oldest entry leaves first at 16,384 (R291, R293). -/
def extFree (s : State) (i : Nat) : State :=
  let e := extGet s i
  let s := extSet s i { e with st := 0 }
  { s with ext := { s.ext with revoked := ((e, s.time.toNat) :: s.ext.revoked).take 16384 } }

/-- The permission bit of R283 that a kind needs; none where it takes no extent check. -/
def permBit : Kind → Option Nat
  | .read | .readBulk | .readTile => some 0
  | .write | .writeBulk | .writeTile | .signal => some 1
  | .atomic => some 2
  | .own => some 3
  | _ => none

/-- The last byte that a request touches (R285). -/
def lastByte (h : Hdr) : Nat :=
  let a := h.addr.toNat
  match h.k with
  | some .read | some .write => a + h.len.toNat - 1
  | some .readBulk | some .writeBulk => a + h.x 64 12 - 1
  | some .readTile | some .writeTile => a + 2111
  | some .atomic => if h.x 36 1 = 1 then a + 7 else a + 3
  | some .signal => a + 7
  | _ => a

/-- The outcome of the check of R285: admitted under an entry, or answered with a CCODE and DETAIL. -/
inductive ExtResult where
  | grant (i : Nat)
  | none
  | deny (ccode detail : Nat)
deriving DecidableEq, Repr

/-- The first registry entry with property `f`. -/
def extFind (l : List (Nat × ExtEntry)) (f : ExtEntry → Bool) : Option (Nat × ExtEntry) := l.find? (fun p => f p.2)

/-- The check of S3 over the registry (R285): the first rule that matches. -/
def extCheckReg (s : State) (h : Hdr) (bit : Nat) : ExtResult :=
  let a := h.addr.toNat
  let b := lastByte h
  let t := h.tenant.toNat
  match extFind s.ext.reg (fun e => e.st == 1 && e.tenant == t && extCovers e a && extCovers e b) with
  | some (i, e) => if bitAt e.perm bit then .grant i else .deny ccDenied 3
  | none =>
    if (extFind s.ext.reg (fun e => e.st == 2 && e.tenant == t && extCovers e a)).isSome then .deny ccRevoked 0
    else if s.ext.revoked.any (fun p => p.1.tenant == t && p.1.xgen == h.xgen.toNat && extCovers p.1 a) then .deny ccRevoked 0
    else if (extFind s.ext.reg (fun e => e.st != 0 && e.tenant != t && extCovers e a)).isSome then .deny ccDenied 2
    else .deny ccDenied 1

/-- The check of S3 (R285); every request that needs it is denied while EXTENT_REGISTRY is not RUNNING (R24). -/
def extCheck (s : State) (h : Hdr) : ExtResult :=
  match h.k.bind permBit with
  | none => .none
  | some bit => if running s fExt then extCheckReg s h bit else .deny ccDenied 1

/-- INFLIGHT of entry `i` raised by one admission (R292). -/
def inflightUp (s : State) (i : Nat) : State :=
  let e := extGet s i
  extSet s i { e with inflight := (e.inflight + 1) % 2 ^ 32 }

/-- A response enters the crossbar: the entry of its SRC, TENANT and XGEN counts one fewer request, and a REVOKING entry
that reaches zero is freed (R291, R292). -/
def inflightDown (s : State) (h : Hdr) : State :=
  match extFind s.ext.reg (fun e => e.st != 0 && e.ep == h.src.toNat && e.tenant == h.tenant.toNat && e.xgen == h.xgen.toNat) with
  | none => s
  | some (i, e) =>
    let n := e.inflight - 1
    let s := extSet s i { e with inflight := n }
    if e.st = 2 ∧ n = 0 then extFree s i else s

/-- R286 for the targets inside Vovis: the index of the LIVE registry entry of the request's TENANT and XGEN that covers it. The
registry keeps its entries until its next START (R290), so a request admitted before a stop is served (R33). -/
def xgenEntry (s : State) (h : Hdr) : Option (Nat × ExtEntry) :=
  extFind s.ext.reg (fun e => e.st == 1 && e.tenant == h.tenant.toNat && e.xgen == h.xgen.toNat && extCovers e h.addr.toNat
    && extCovers e (lastByte h))

/-- The stage register as one 256-bit number. -/
def extStage (s : State) : Nat :=
  packBits ((List.range 4).map (fun w => (64 * w, 64, rd s (Reg.EXTENT.EXT_STAGE.ENTRY w))))

/-- The first refusal of a WRITE of `e` to entry `i` (R284), or OK. -/
def extWriteResult (s : State) (i stage : Nat) : Nat :=
  let e := extOfStage stage
  if e.ep = 0xFFF || e.ngran = 0 || decide (2 ^ 27 < e.ngran) || decide (2 ^ 27 < e.base + e.ngran) || extReserved stage then 4
  else if e.ep = homeEpId s && decide (rd s Reg.EXTENT.HOME_CFG.REGION_COUNT * 512 < e.base + e.ngran) then 4
  else if (extGet s i).st ≠ 0 then 1
  else if s.ext.reg.any (fun p => p.2.st != 0 && p.2.tenant == e.tenant && decide (extLo p.2 < extHi e) && decide (extLo e < extHi p.2)) then 2
  else if s.ext.reg.any (fun p => p.2.st != 0 && p.2.ep == e.ep && p.2.tenant == e.tenant && p.2.xgen == e.xgen) then 3
  else if s.ext.revoked.any (fun p => p.1.ep == e.ep && p.1.tenant == e.tenant && p.1.xgen == e.xgen
      && decide (s.time.toNat < p.2 + 3200000)) then 3
  else 0

/-- A RUNNING SWARM has a state range in the extent (R291). -/
def extInUse (s : State) (e : ExtEntry) : Bool :=
  e.ep == homeEpId s && (List.range 256).any (fun k =>
    running s (fSwarm k) && decide (rd s (Reg.SWARM.SWARM_DEF.STATE_LEN_2M k) ≠ 0) &&
    (let lo := rd s (Reg.SWARM.SWARM_DEF.STATE_OFFSET k)
     let hi := lo + rd s (Reg.SWARM.SWARM_DEF.STATE_LEN_2M k) * 2 ^ 21
     decide (lo < (e.base + e.ngran) * 2 ^ 21) && decide (e.base * 2 ^ 21 < hi)))

/-- A command taken: BUSY set, INDEX and RESULT shown (R284). -/
def extResult (s : State) (i op result : Nat) : State :=
  let s := wrs s [(Reg.EXTENT.EXT_CMD_STATUS.BUSY, 1), (Reg.EXTENT.EXT_CMD_STATUS.INDEX, i), (Reg.EXTENT.EXT_CMD_STATUS.RESULT, result)]
  { s with ext := { s.ext with cmd := some (op, i, result) } }

/-- A command written while BUSY: discarded, OVERRUN set, reported with cause 6 (R284). -/
def extBusy (s : State) (w : Writer) (acc : Nat × Nat := (0xA00008, 4)) : State :=
  regError (wr s Reg.EXTENT.EXT_CMD_STATUS.OVERRUN 1) w acc.1 acc.2 true 6

/-- WRITE of entry `i` (R284, R291). -/
def extWrite (s : State) (w : Writer) (i : Nat) (acc : Nat × Nat := (0xA00008, 4)) : State :=
  if rdb s Reg.EXTENT.EXT_CMD_STATUS.BUSY then extBusy s w acc
  else if !running s fExt then extResult s i 1 6
  else
    let stage := extStage s
    let r := extWriteResult s i stage
    extResult (if r = 0 then extSet s i (extOfStage stage) else s) i 1 r

/-- REVOKE of entry `i` without its command (R291): the RESULT code and the state. -/
def revokeEntry (s : State) (i : Nat) : Nat × State :=
  let e := extGet s i
  if e.st ≠ 1 then (1, s)
  else if extInUse s e then (5, s)
  else if e.inflight = 0 then (0, extFree (extSet s i { e with revokeTime := s.time.toNat }) i)
  else (0, extSet s i { e with st := 2, revokeTime := s.time.toNat })

/-- REVOKE of entry `i` by command (R284, R291). -/
def extRevoke (s : State) (w : Writer) (i : Nat) (acc : Nat × Nat := (0xA00008, 4)) : State :=
  if rdb s Reg.EXTENT.EXT_CMD_STATUS.BUSY then extBusy s w acc
  else if !running s fExt then extResult s i 2 6
  else extResult (revokeEntry s i).2 i 2 (revokeEntry s i).1

/-- READ of entry `i` into EXT_VIEW (R284). -/
def extRead (s : State) (w : Writer) (i : Nat) (acc : Nat × Nat := (0xA00008, 4)) : State :=
  if rdb s Reg.EXTENT.EXT_CMD_STATUS.BUSY then extBusy s w acc
  else if !running s fExt then extResult s i 3 6
  else
    let n := extBits (extGet s i)
    extResult (wrs s ((List.range 4).map (fun k => (Reg.EXTENT.EXT_VIEW.ENTRY k, bits n (64 * k) 64)))) i 3 0

/-- START of EXTENT_REGISTRY: every entry FREE with every field zero, the revoked list emptied (R290). -/
def extStart (s : State) : State := extCounts { s with ext := { s.ext with reg := [], revoked := [] } }

/-- EXT_CMD_WRITE (R284). -/
def execExtCmdWrite (w : Writer) (index : BitVec 18) (s : State) : Host.Outcome State Fault Refusal :=
  .next (extWrite s w index.toNat)

/-- EXT_CMD_REVOKE (R291). -/
def execExtCmdRevoke (w : Writer) (index : BitVec 18) (s : State) : Host.Outcome State Fault Refusal :=
  .next (extRevoke s w index.toNat)

/-- EXT_CMD_READ (R284). -/
def execExtCmdRead (w : Writer) (index : BitVec 18) (s : State) : Host.Outcome State Fault Refusal :=
  .next (extRead s w index.toNat)

/-- A registry command completes: BUSY clears (R284). -/
def extDone (s : State) : State :=
  { wr s Reg.EXTENT.EXT_CMD_STATUS.BUSY 0 with ext := { s.ext with cmd := none } }

/-- EXT_CMD_DONE (R284). -/
def execExtCmdDone (s : State) : Host.Outcome State Fault Refusal := .next (extDone s)

/-- The drain time of a REVOKING entry has ended (R291). -/
def drainDue (s : State) (i : Nat) : Bool :=
  (extGet s i).st == 2 && decide ((extGet s i).revokeTime + 3200000 ≤ s.time.toNat)

/-- The forced revoke of R291, with its EXTENT record (R360). -/
def extDrain (s : State) (i : Nat) : State :=
  let e := extGet s i
  report (cnt (extFree s i) Reg.EXTENT.EXT_COUNT_A.FORCED_REVOKES) fExt 0x0D 1 0 i
    (packBits [(0, 12, e.ep), (12, 12, e.tenant), (24, 8, e.xgen)])

/-- EXTENT_DRAIN_TIMEOUT (R291): without effect before the drain time ends (R16). -/
def execExtentDrainTimeout (index : BitVec 18) (s : State) : Host.Outcome State Fault Refusal :=
  .next (if drainDue s index.toNat then extDrain s index.toNat else s)

end Sys2Proof.Machine
end

