-- ==== Sys2Proof/Machine/Switch.lean ====
section
/-!
DEFINITION. Machine/Switch.lean: the switch core: the header check (R51, R54), routing (R113, R114), the packet buffer and spill
(R116, R122 to R124), jig admission (R100 to R103), the scheduler (R117 to R120) and the flush of a port (R125).
-/
namespace Sys2Proof.Machine
open Sys2Proof

/-! ### S1: header and field checks -/

/-- The classes that R57 allows for a kind (R58), a response those of the requests it answers (R59); none allows TC7. -/
def tcAllowed (h : Hdr) (k : Kind) : Bool :=
  let t := h.tc.toNat
  match k with
  | .read => if h.vol || h.comb then t == 1 else decide (3 ≤ t ∧ t ≤ 6)
  | .write | .readBulk | .writeBulk | .readTile | .writeTile | .signal => decide (3 ≤ t ∧ t ≤ 6)
  | .atomic | .own | .gather => t == 1
  | .swarmTile | .swarmAck | .swarmResult => t == 2
  | .regRead | .regWrite | .ctrCtl | .notice | .swarmCtl | .stepCtl => t == 0
  | .completion => t == 0 || decide (3 ≤ t ∧ t ≤ 6)
  | .readResp => t == 0 || t == 1 || decide (3 ≤ t ∧ t ≤ 6)
  | .tileResp => t == 1 || decide (3 ≤ t ∧ t ≤ 6)
  | .atomicResp => t == 1

/-- LEN and the payload agree with R47 and R48. -/
def lenOk (p : Packet) (k : Kind) : Bool :=
  let n := p.h.len.toNat
  let f := p.payloadFlits
  let small := decide (1 ≤ n ∧ n ≤ 256)
  let inBlock := decide (p.h.off % 256 + n ≤ 256)
  match k with
  | .read | .regRead => small && inBlock && f == 0
  | .write | .regWrite => small && inBlock && f == (n + 63) / 64
  | .writeBulk | .writeTile | .gather | .swarmTile | .swarmResult => n == 0x3FF && f == 33
  | .readResp => if p.h.x 32 8 = 0 then small && f == (n + 63) / 64 else n == 0 && f == 0
  | .tileResp => if p.h.x 32 8 = 0 then n == 0x3FF && f == 33 else n == 0 && f == 0
  | _ => n == 0 && f == 0

/-- The faults of R54, R56 and R78 that make a packet malformed. -/
def malformed (s : State) (p : Packet) : Bool :=
  let h := p.h
  match h.k with
  | none => true
  | some k =>
    h.plane.toNat != planeId s || h.rly == 3 || !tcAllowed h k || h.home != h.homed ||
    (h.acq && (!h.vol || k != .read)) || (h.rly == 1 && !h.home && k.isRequest) || !lenOk p k ||
    ((k == .readBulk || k == .writeBulk) && (h.x 64 12 == 0 || decide (2048 < h.x 64 12))) ||
    (k == .writeTile && h.off % 64 != 0)

/-- Flits that the whole packet takes, from its header (R47). -/
def expectedFlits (h : Hdr) : Nat :=
  match h.k with
  | some k => if k.carriesTile || (k == .tileResp && h.x 32 8 == 0) then 34
      else if k == .write || k == .regWrite || (k == .readResp && h.x 32 8 == 0) then 1 + (h.len.toNat + 63) / 64 else 1
  | none => 1

/-! ### Ports and outputs -/

/-- The crossbar port of an output number. -/
def outPort (o : Nat) : Nat := if o < 256 then o / 2 else o - 128
/-- The output number of crossbar port `x` of 128 or above. -/
def outOf (x : Nat) : Nat := 128 + x
/-- Port `p` is split into halves (R331). -/
def isSplit (s : State) (p : Nat) : Bool := rdb s (Reg.PORT.PORT_CFG.SPLIT p)

/-- The link of port half `h` is UP (R332): only then does it carry fabric traffic. -/
def linkUp (s : State) (h : Nat) : Bool := rd s (Reg.PORT.LINK_STATUS.STATE (h / 2) (h % 2)) == 3

/-- Port half `h` takes part in bundle choices and multicasts: it exists, its PORT is RUNNING and its link is UP (R113, R114,
R125, R332). -/
def halfUp (s : State) (h : Nat) : Bool :=
  decide (h < 256) && running s (h / 2) && (h % 2 == 0 || isSplit s (h / 2)) && linkUp s h

/-- The members of bundle `b`, as one 256-bit mask. -/
def bundleMask (s : State) (b : Nat) : Nat :=
  packBits ((List.range 4).map (fun w => (64 * w, 64, rd s (Reg.SWITCH.BUNDLE.MEMBERS b w))))

/-- The members of bundle `b` that are up (R114). -/
def bundleUp (s : State) (b : Nat) : List Nat :=
  (List.range 256).filter (fun h => bitAt (bundleMask s b) h && halfUp s h)

/-! ### The packet buffer -/

/-- Bytes of the buffer cells that `n` flits take: 256 B for each 4 flits (R116). -/
def cellBytes (n : Nat) : Nat := (n + 3) / 4 * 256
/-- Bytes of a queued packet's buffer cells. -/
def QPkt.bytes (q : QPkt) : Nat := cellBytes q.total
/-- Chunks of a packet of `n` flits (R110). -/
def chunksOf (n : Nat) : Nat := (n + 15) / 16
/-- Chunks of the packet already granted to output `o`. -/
def QPkt.sentTo (q : QPkt) (o : Nat) : Nat := (findKey q.sent o).getD 0
/-- Outputs that still have chunks to come: the residue (R118). -/
def QPkt.residue (q : QPkt) : List Nat := q.outs.filter (fun o => decide (q.sentTo o < chunksOf q.total))
/-- A chunk of the packet has been granted to some output. -/
def QPkt.begun (q : QPkt) : Bool := q.sent.any (fun e => decide (0 < e.2))
/-- The class of a queued packet. -/
def QPkt.tc (q : QPkt) : Nat := q.p.h.tc.toNat

/-- The key of a packet's VOQ, or of the multicast queue of its input and class (R122). -/
def voqKey (inp out tc : Nat) : Nat := (inp * 1024 + out) * 8 + tc
/-- The VOQ key of a packet. -/
def QPkt.key (q : QPkt) : Nat := voqKey q.inp (if q.multicast then 1023 else q.outs.headD 0) q.tc

/-- Headroom H in KiB: the allotments of every PORT in DRY_FIT, RUNNING or STOPPING (R116). -/
def headroomKib (s : State) : Nat :=
  ((List.range 128).filter (fun p => fnState s p = 1 || fnState s p = 2 || fnState s p = 3)).foldl
    (fun a p => a + (List.range 8).foldl (fun b c => b + rd s (Reg.SWITCH.PORT_CREDIT.ALLOT p c)) 0) 0

/-- The dynamic pool D in bytes (R116). -/
def poolBytes (s : State) : Nat := 128 * 2 ^ 20 - headroomKib s * 1024
/-- Bytes that queued packets hold in the shared pool. -/
def poolUsed (s : State) : Nat := (s.sw.pkts.filter (fun q => q.place == .onchip)).foldl (fun a q => a + q.bytes) 0
/-- Free bytes of the dynamic pool (R122). -/
def poolFree (s : State) : Nat := poolBytes s - poolUsed s
/-- Bytes of output queue (o, c) held on-chip in the shared pool (R122). -/
def queueBytes (s : State) (o c : Nat) : Nat :=
  (s.sw.pkts.filter (fun q => q.place == .onchip && q.tc == c && q.residue.contains o)).foldl (fun a q => a + q.bytes) 0
/-- The packet stands in the packet buffer: in the shared pool or in claimed partitions (R116). -/
def QPkt.onchip (q : QPkt) : Bool := match q.place with | .spill | .held => false | _ => true
/-- Bytes of output queue (o, c) held on-chip, those in claimed partitions among them (R367, R375). -/
def queueOnchip (s : State) (o c : Nat) : Nat :=
  (s.sw.pkts.filter (fun q => q.onchip && q.tc == c && q.residue.contains o)).foldl (fun a q => a + q.bytes) 0
/-- Bytes of output queue (o, c), on-chip and spilled (R114). -/
def queueBytesAll (s : State) (o c : Nat) : Nat :=
  (s.sw.pkts.filter (fun q => q.place != .held && q.tc == c && q.residue.contains o)).foldl (fun a q => a + q.bytes) 0

/-- The threshold T of class `c` over `f` free bytes (R122). -/
def threshold (s : State) (c f : Nat) : Nat :=
  let a := rd s (Reg.SWITCH.ALPHA.ALPHA c)
  if a < 8 then f * 2 ^ a else f / 2 ^ (16 - a)

/-- Number of set bits of a mask of at most 32 bits. -/
def popcount (m : Nat) : Nat := ((List.range 32).filter (fun i => bitAt m i)).length

/-- Bytes held in a claimed placement. -/
def placeBytes (s : State) (pl : Place) : Nat := (s.sw.pkts.filter (fun q => q.place == pl)).foldl (fun a q => a + q.bytes) 0

/-- Spill pages in the partition outside the donor reserve (R122, R353). -/
def spillPages (s : State) : Nat := (rd s (Reg.GLOBAL.HBM_PART.SIZE 0) - 16) * 16384
/-- Pages of 64 KiB that a chain holds. -/
def chainPages (c : Chain) : Nat := (c.appended + 65535) / 65536 - c.taken / 65536
/-- Spill pages in use. -/
def spillUsed (s : State) : Nat := s.sw.chains.foldl (fun a c => a + chainPages c.2) 0
/-- The chain of VOQ `k` has room, in its last page or a free one, for `b` bytes (R122). -/
def spillRoom (s : State) (k b : Nat) : Bool :=
  let c := (findKey s.sw.chains k).getD ⟨0, 0⟩
  decide (spillUsed s + chainPages { c with appended := c.appended + b } ≤ spillPages s + chainPages c)

/-- Where R122 places a packet that no claimed partition takes: in the pool, in spill, or nowhere. -/
def sharedPlace (s : State) (q : QPkt) : Place :=
  let b := q.bytes
  let f := poolFree s
  if decide (b ≤ f) && q.outs.all (fun o => decide (queueBytes s o q.tc + b ≤ threshold s q.tc f)) then .onchip
  else if rdb s Reg.SWITCH.SPILL_CFG.SPILL_EN && spillRoom s q.key b then .spill
  else .held

/-- Where R122 places a packet of the VOQ or multicast queue it belongs to. A jig miss tries the fallback partitions of JIG_CFG before the
partitions of its output port (DESIGN CHOICE, log entry 64). -/
def placement (s : State) (q : QPkt) (jigMiss : Bool) : Place :=
  let b := q.bytes
  let port := outPort (q.outs.headD 0)
  if (findKey s.sw.chains q.key).isSome then (if spillRoom s q.key b then .spill else .held)
  else if jigMiss && decide (placeBytes s .jigPart + b ≤ popcount (rd s Reg.TICK.JIG_CFG.FALLBACK_PARTS) * 2097152) then .jigPart
  else if !q.multicast && decide (port < 128) &&
      decide (placeBytes s (.priv port) + b ≤ popcount (rd s (Reg.SWITCH.PORT_BUF.PARTS port)) * 2097152) then .priv port
  else sharedPlace s q

/-- Where a mirror copy goes (R374): the partitions of MIRROR_PARTS, the pool, or spill. -/
def mirrorPlace (s : State) (q : QPkt) : Place :=
  if (findKey s.sw.chains q.key).isSome then (if spillRoom s q.key q.bytes then .spill else .held)
  else if decide (placeBytes s .mirrorPart + q.bytes ≤ popcount (rd s Reg.TELEMETRY.MIRROR_CFG.MIRROR_PARTS) * 2097152) then .mirrorPart
  else sharedPlace s q

/-- The status registers of the buffer brought up to date. -/
def bufStatus (s : State) : State :=
  wrs s [(Reg.SWITCH.BUF_STATUS.POOL_FREE_KIB, poolFree s / 1024), (Reg.SWITCH.BUF_STATUS.HEADROOM_KIB, headroomKib s),
    (Reg.SWITCH.SPILL_STATUS.SPILL_USED_MIB, (spillUsed s + 15) / 16), (Reg.SWITCH.SPILL_STATUS.SPILL_VOQS, s.sw.chains.length),
    (Reg.SWITCH.SPILL_STATUS.SPILL_FULL, b2n (decide (spillPages s ≤ spillUsed s)))]

/-- Credit of `n` received flits of half `h` and class `c` to return (R121); only fabric ports take credit. -/
def oweCredit (s : State) (inp h c n : Nat) : State :=
  if inp < 128 then
    { s with sw := { s.sw with owed := putKey s.sw.owed (8 * h + c) 0 ((findKey s.sw.owed (8 * h + c)).getD 0 + n) } }
  else s

/-- Credit of the flits of packet `q` that came by its link to return (R121); one that Vovis made came by none. -/
def oweArrived (s : State) (q : QPkt) : State := if q.own then s else oweCredit s q.inp q.half q.tc q.arrived

/-- A packet put into the buffer or spill at `pl`; its flits' credit is returned unless it is held (R121, R124). -/
def enqueue (s : State) (q : QPkt) (pl : Place) : State :=
  let s := { s with sw := { s.sw with pkts := s.sw.pkts ++ [{ q with place := pl }] } }
  let s := match pl with
    | .spill =>
      let c := (findKey s.sw.chains q.key).getD ⟨0, 0⟩
      { s with sw := { s.sw with chains := setKey s.sw.chains q.key { c with appended := c.appended + q.bytes } } }
    | _ => s
  bufStatus (if pl = .held then countHeld s else oweArrived s q)

/-- A packet of this input half and class already waits at its ingress headroom (R124). -/
def ingressHeld (s : State) (inp half c : Nat) : Bool :=
  s.sw.pkts.any (fun q => q.place == .held && q.inp == inp && q.half == half && q.tc == c)

/-- S4: a packet placed under R122, or held behind the packets that wait at its ingress (R124). -/
def enterBuffer (s : State) (q : QPkt) (jigMiss : Bool := false) : State :=
  let q := { q with jig := jigMiss }
  if ingressHeld s q.inp q.half q.tc then enqueue s q .held else enqueue s q (placement s q jigMiss)

/-- A chain after its head packet of `b` bytes left it: the VOQ leaves spill when the chain is empty (R122). -/
def chainTake (s : State) (k b : Nat) : State :=
  match findKey s.sw.chains k with
  | none => s
  | some c =>
    let c := { c with taken := c.taken + b }
    { s with sw := { s.sw with chains := if c.taken = c.appended then delKey s.sw.chains k else setKey s.sw.chains k c } }

/-- The first held packet of an input half and class. -/
def firstHeld (s : State) (inp half c : Nat) : Option QPkt :=
  s.sw.pkts.find? (fun q => q.place == .held && q.inp == inp && q.half == half && q.tc == c)

/-- The state without packet `id`, its buffer cells or spill bytes freed; credit stays as it is. -/
def dropPkt (s : State) (id : Nat) : State :=
  let s := match s.sw.pkts.find? (fun q => q.id == id && q.place == .spill) with
    | some q => chainTake s q.key q.bytes
    | none => s
  bufStatus { s with sw := { s.sw with pkts := s.sw.pkts.filter (fun q => q.id != id) } }

/-- Packet `q` discarded (R111, R112): the credit of the flits that it held at its ingress returns (R121). -/
def discardPkt (s : State) (q : QPkt) : State :=
  dropPkt (if q.place = .held then oweArrived s q else s) q.id

/-- The head packet of an ingress headroom tried again (R124): placed where R122 now admits it, else it goes on waiting. -/
def releaseHeld (s : State) (inp half c : Nat) : State :=
  match firstHeld s inp half c with
  | none => s
  | some q =>
    let pl := placement s q q.jig
    if pl = .held then s else enqueue (dropPkt s q.id) q pl

/-- Bytes of the on-chip part of a VOQ (R122). -/
def onchipOf (s : State) (k : Nat) : Nat :=
  (s.sw.pkts.filter (fun q => q.key == k && q.onchip)).foldl
    (fun a q => a + q.bytes) 0

/-- One refill of VOQ `k` (R122): its first spilled packet moves on-chip while the on-chip part is below the refill mark and
the pool has room; a packet that reads uncorrectable is a case-3 fault and is discarded (R112, R352). -/
def refill (s : State) (k : Nat) (bad : Bool) : State :=
  match s.sw.pkts.find? (fun q => q.key == k && q.place == .spill) with
  | none => s
  | some q =>
    if q.arrived < q.total then s
    else if onchipOf s k ≥ rd s Reg.SWITCH.SPILL_CFG.REFILL_KIB * 1024 || decide (poolFree s < q.bytes) then s
    else if bad then discardPkt s q
    else
      let f := fun (x : QPkt) => if x.id = q.id then { x with place := .onchip } else x
      bufStatus (chainTake { s with sw := { s.sw with pkts := s.sw.pkts.map f } } k q.bytes)

/-! ### S2: routing -/

/-- The outcome of R113. -/
inductive Route where
  /-- Steered to a device cell (rules 2 and 4) or delivered to a cell (rule 7). -/
  | cell (l : Nat)
  /-- To one output. -/
  | unicast (o : Nat)
  /-- To the outputs of a broadcast or of a swarm fanout. -/
  | multicast (l : List Nat)
  /-- No route (rule 8), or an empty fanout (rule 3). -/
  | noRoute
  /-- Addressed to a HOSTPORT or HOME_EP end-point that is not RUNNING (R24). -/
  | notRunning
  /-- Rule 7 delivers it to no unit (case 6 of R111). -/
  | noUnit
  /-- Steered or delivered to a cell at crossbar port `x` of a CLUSTER that is not RUNNING (R24). -/
  | clusterDown (x : Nat)
deriving DecidableEq, Repr

/-- The member of bundle `b` for class `c` (R114): the fewest queued bytes, ties to the member after the last choice. Before any choice
ties go to the lowest member (DESIGN CHOICE, log entry 64). -/
def bundleChoice (s : State) (b c : Nat) : Option Nat :=
  let last := (findKey s.sw.choice b).getD 255
  let ms := bundleUp s b
  let order := ms.filter (fun h => decide (last < h)) ++ ms.filter (fun h => decide (h ≤ last))
  match (order.map (fun h => queueBytesAll s h c)).min? with
  | none => none
  | some m => order.find? (fun h => queueBytesAll s h c == m)

/-- Rules 5, 6 and 8 of R113 for end-point `d`. -/
def routeTo (s : State) (d c : Nat) (bit6 : Bool) : Route :=
  if d = epId s 0 then (if running s (fHost 0) then .unicast (outOf 224) else .notRunning)
  else if d = epId s 1 then (if running s (fHost 1) then .unicast (outOf 225) else .notRunning)
  else if d = homeEpId s then (if running s fHome then .unicast (outOf (if bit6 then 227 else 226)) else .notRunning)
  else if rdb s (Reg.SWITCH.ROUTE.VALID d) then
    match bundleChoice s (rd s (Reg.SWITCH.ROUTE.BUNDLE d)) c with
    | some h => .unicast h
    | none => .noRoute
  else .noRoute

/-- Every RUNNING fabric port half, and crossbar ports 224 and 225 (R113 rule 1). -/
def broadcastOuts (s : State) : List Nat := (List.range 256).filter (halfUp s) ++ [outOf 224, outOf 225]

/-- The last choice of a bundle noted (R114); only a member of a bundle is numbered below 256. -/
def noteChoice (s : State) (d o : Nat) : State :=
  if o < 256 && d != 0xFFF then
    { s with sw := { s.sw with choice := putKey s.sw.choice (rd s (Reg.SWITCH.ROUTE.BUNDLE d)) 255 o } }
  else s

/-- The outputs of destinations `l` for class `c`, the choice of R114 made once for each in turn, and the state after the choices. -/
def fanoutPick (s : State) (c : Nat) : List Nat → State × List Nat
  | [] => (s, [])
  | d :: l =>
    match routeTo s d c false with
    | .unicast o => ((fanoutPick (noteChoice s d o) c l).1, o :: (fanoutPick (noteChoice s d o) c l).2)
    | _ => fanoutPick s c l

/-- The end-points of the members of a swarm, each once (R113 rule 3); the members in `skip` are left out (R212). -/
def fanoutEps (s : State) (k : Nat) (skip : List Nat) : List Nat :=
  (((List.range (rd s (Reg.SWARM.SWARM_DEF.MEMBER_COUNT k))).filter (fun m => rdb s (Reg.SWARM.SWARM_MEMBER.VALID k m) && !skip.contains m)).map
    (fun m => rd s (Reg.SWARM.SWARM_MEMBER.EP_ID k m))).dedup

/-- The members that the multicast of a swarm packet leaves out: those that the record of an ABORT is not sent to (R212). -/
def fanoutSkip (s : State) (h : Hdr) : List Nat :=
  if h.k == some .swarmCtl && h.x 16 4 == 3 then
    match (findKey s.cells.swarms (h.x 0 8)).bind (fun r => r.stored) with
    | some r => if r.opseq = h.x 32 32 then r.skip else []
    | none => []
  else []

/-- The reachable members' outputs of a swarm (R113 rule 3), each once; the members in `skip` are left out. -/
def swarmFanout (s : State) (k c : Nat) (skip : List Nat) : List Nat := (fanoutPick s c (fanoutEps s k skip)).2.dedup

/-- Delivery to a unit of the service ID by COOKIE[31:24] (R113 rule 7). -/
def routeUnit (s : State) (u : Nat) : Route :=
  if u < 96 then
    (if running s (fCluster (u / 2)) || fnState s (fCluster (u / 2)) == 3 then .unicast (outOf (128 + u)) else .clusterDown (128 + u))
  else if 100 ≤ u ∧ u ≤ 103 then .unicast (outOf (128 + u))
  else .noUnit

/-- To device cell `l`, or the outcome of R24 where its CLUSTER is not RUNNING. -/
def routeCell (s : State) (l : Nat) : Route :=
  if running s (fCluster (cellCluster l)) then .cell l else .clusterDown (cellPort l)

/-- S2: the first rule of R113 that matches. Rule 7 names no unit for a packet to the service ID that enters from a cluster port and is neither
request, response nor notice: it goes to crossbar port 228 (DESIGN CHOICE, log entry 64). -/
def route (s : State) (inp : Nat) (h : Hdr) : Route :=
  let d := h.dest.toNat
  let c := h.tc.toNat
  if h.tc = 7 then (if rdb s (Reg.SWITCH.ROUTE.VALID d) then
      (match bundleChoice s (rd s (Reg.SWITCH.ROUTE.BUNDLE d)) c with | some x => .unicast x | none => .noRoute) else .noRoute)
  else if d = 0xFFF then .multicast (broadcastOuts s)
  else if (steeredCell h).isSome && outerPort inp then routeCell s ((steeredCell h).getD 0)
  else if (h.k == some .swarmResult || h.k == some .swarmCtl) && !outerPort inp then
    (if d = serviceId s then
      (let l := swarmFanout s (h.x 0 8) c (fanoutSkip s h); if l.isEmpty then .noRoute else .multicast l)
     else routeTo s d c false)
  else if h.home && h.rly != 1 && outerPort inp && running s (fCluster (cellCluster (homeCell h.addr.toNat))) then
    .cell (homeCell h.addr.toNat)
  else if d = epId s 0 || d = epId s 1 || d = homeEpId s then routeTo s d c (bitAt h.addr.toNat 6)
  else if d = serviceId s then
    (match h.k with
     | some .notice => if h.x 0 8 = 1 then routeUnit s (h.x 88 8) else .noUnit
     | some k => if h.kind.toNat ≤ 0x0F then .unicast (outOf 228) else if k.isResponse then routeUnit s (h.x 24 8)
        else if outerPort inp then .noUnit else .unicast (outOf 228)
     | none => .noUnit)
  else routeTo s d c false

/-! ### Packets entering the buffer -/

/-- A queue entry for a packet entering at `inp`, with `arrived` of its flits received. -/
def mkQ (s : State) (inp half : Nat) (p : Packet) (arrived : Nat) (outs : List Nat) (multi unchecked : Bool) : QPkt :=
  { id := s.sw.nextId, inp := inp, half := half, p := p, stamp := s.time.toNat, arrived := arrived, total := max p.flits arrived,
    outs := outs, multicast := multi, sent := [], place := .held, unchecked := unchecked, bad := false }

/-- A new packet number used. -/
def bumpId (s : State) : State := { s with sw := { s.sw with nextId := s.sw.nextId + 1 } }

/-- The choices that S2 made for a routed packet noted (R114): one for a unicast packet, one for each member of a swarm fanout. -/
def noteRoute (s : State) (h : Hdr) : Route → State
  | .unicast o => noteChoice s h.dest.toNat o
  | .multicast _ => if h.dest = 0xFFF then s else (fanoutPick s h.tc.toNat (fanoutEps s (h.x 0 8) (fanoutSkip s h))).1
  | _ => s

/-- A packet with no route (R113 rule 8): NO_ROUTE counts it. -/
def countNoRoute (s : State) : State := bump (cnt s Reg.SWITCH.COUNT_A.NO_ROUTE) (ctrNo 0x30 1)

/-- A packet with header `h` from input `inp` that has no route: counted, and recorded (R113 rule 8, R349). -/
def dropNoRoute (s : State) (inp : Nat) (h : Hdr) : State := packetError (countNoRoute s) inp 5 (hdrBits h)

/-- A packet of swarm `k` counted in DISCARDED (R111, R206). -/
def countDiscarded (s : State) (k : Nat) : State := bump (cnt s (Reg.SWARM.SWARM_COUNT_B.DISCARDED k)) (ctrNo 0x10 (8 * k + 3))

/-! ### Firefly captures and mirror copies (R371, R374) -/

/-- The filter's ACTION and selectors match header `h` (R371). -/
def filterMatches (s : State) (i : Nat) (h : Hdr) : Bool :=
  let k := rd s (Reg.TELEMETRY.FF_FILTER.KIND i)
  rdb s (Reg.TELEMETRY.FF_FILTER.VALID i) && (k == 0 || k == h.kind.toNat) &&
  bitAt (rd s (Reg.TELEMETRY.FF_FILTER.TC_MASK i)) h.tc.toNat && h.tc != 7 &&
  (rdb s (Reg.TELEMETRY.FF_FILTER.SRC_ANY i) || rd s (Reg.TELEMETRY.FF_FILTER.SRC i) == h.src.toNat) &&
  (rdb s (Reg.TELEMETRY.FF_FILTER.DEST_ANY i) || rd s (Reg.TELEMETRY.FF_FILTER.DEST i) == h.dest.toNat) &&
  (rdb s (Reg.TELEMETRY.FF_FILTER.TENANT_ANY i) || rd s (Reg.TELEMETRY.FF_FILTER.TENANT i) == h.tenant.toNat)

/-- A packet tested against the filters at S2 (R371). While FIREFLY is not RUNNING its matches are counted and no copy is made (R24). -/
def capture (s : State) (inp out : Nat) (h : Hdr) (key : Nat) : State :=
  if !outerPort inp then s
  else
    match (List.range 8).find? (fun i => filterMatches s i h) with
    | none => s
    | some i =>
      let m := rd s (Reg.TELEMETRY.FF_MATCHES.MATCHES i)
      let s := cnt s (Reg.TELEMETRY.FF_MATCHES.MATCHES i)
      if !running s fFf || m % 2 ^ rd s (Reg.TELEMETRY.FF_FILTER.SAMPLE_LOG2 i) ≠ 0 then s
      else if s.tel.ffUsed ≥ rd s Reg.TELEMETRY.FF_CFG.COPY_BUDGET || s.tel.copies.length ≥ 4096 then
        cnt s Reg.TELEMETRY.FF_COUNT.COPIES_SKIPPED
      else
        let ahead := (s.sw.pkts.filter (fun q => q.key == key)).foldl (fun a q => a + q.bytes) 0
        let c : HdrCopy := { h := h, stamp := s.time.toNat, inp := inp, out := out, filter := i, ahead := ahead }
        { s with tel := { s.tel with ffUsed := s.tel.ffUsed + 1, copies := s.tel.copies ++ [c] } }

/-- The key of a flow in the mirror table (R374). -/
def flowKey (src dest tenant : Nat) : Nat := (tenant * 4096 + dest) * 4096 + src

/-- The TC7 copy of a packet (R374). -/
def mirrorPacket (s : State) (p : Packet) : Packet :=
  let h := { p.h with tc := 7, dest := BitVec.ofNat 12 (rd s Reg.TELEMETRY.MIRROR_CFG.MIRROR_DEST),
                      rsv := BitVec.ofNat 26 (p.h.rsv.toNat % 16384 + p.h.dest.toNat * 16384) }
  { p with h := sealHdr h }

/-- S4 makes a mirror copy of a packet of a listed flow, where the claimed partitions, the pool or spill take it (R374). -/
def mirrorCopy (s : State) (inp : Nat) (p : Packet) (arrived : Nat) : State :=
  if running s fFf && rdb s Reg.TELEMETRY.MIRROR_CFG.MIRROR_EN && outerPort inp && p.h.tc != 7 &&
      (findKey s.tel.mirror (flowKey p.h.src.toNat p.h.dest.toNat p.h.tenant.toNat)).isSome then
    let m := mirrorPacket s p
    match route s inp m.h with
    | .unicast o =>
      let s := noteChoice s m.h.dest.toNat o
      let q := { mkQ s inp (2 * inp) m arrived [o] false false with own := true }
      if mirrorPlace s q = .held then cnt s Reg.TELEMETRY.FF_COUNT.MIRROR_SKIPPED else bump (bumpId (enqueue s q (mirrorPlace s q))) (ctrNo 0x30 6)
    | _ => dropNoRoute s inp m.h
  else s

/-! ### Packets that Vovis makes -/

/-- The output port that a header copy shows (R372): 0xFF where the packet goes to no one output. -/
def Route.shown : Route → Nat
  | .unicast o => outPort o
  | _ => 0xFF

/-- The queue that a packet on route `r` joins; 0 where it joins none. -/
def Route.queue (inp tc : Nat) : Route → Nat
  | .unicast o => voqKey inp o tc
  | .cell l => voqKey inp (outOf (cellPort l)) tc
  | .multicast _ => voqKey inp 1023 tc
  | _ => 0

/-- S4 for a packet that Vovis makes or sends on itself; one that enters at a service port is subject to mirror copies (R374). -/
def injectTo (s : State) (inp : Nat) (p : Packet) (outs : List Nat) (multi : Bool) : State :=
  let s := enterBuffer (bumpId s) { mkQ s inp (2 * inp) p p.flits outs multi false with own := true }
  if 228 ≤ inp then mirrorCopy s inp p p.flits else s

/-- What ingress does without a notice for a packet that Vovis makes or sends on itself at input `inp`: at a service port tested against the
capture filters, routed and admitted under its ingress stamp, or counted where it reaches nothing (R24, R111, R113, R371). -/
def injectQuiet (s : State) (inp : Nat) (p : Packet) : State :=
  let p := { p with stamp := s.time.toNat }
  let r := route s inp p.h
  let s := if 228 ≤ inp then capture s inp r.shown p.h (r.queue inp p.h.tc.toNat) else s
  match r with
  | .unicast o => injectTo (noteRoute s p.h r) inp p [o] false
  | .multicast l => injectTo (noteRoute s p.h r) inp p l true
  | .cell l => injectTo s inp p [outOf (cellPort l)] false
  | .noRoute => dropNoRoute s inp p.h
  | .noUnit => countNoRoute s
  | .notRunning => s
  | .clusterDown x => cnt s (Reg.CLUSTER.CL_COUNT_B.NO_ENTRY ((x - 128) / 2))

/-- The UNREACHABLE notice for a request that cannot be delivered; other kinds are discarded without notice (R84). -/
def notifyUnreachable (s : State) (h : Hdr) (port : Nat) : State :=
  match h.k with
  | some k => if k.reqCode then injectQuiet s 228 (unreachable s h port) else s
  | none => s

/-- A packet made or sent on by Vovis itself at input `inp`; a request among these that has no route, or whose end-point is not
RUNNING, draws the notice (R84, R111 case 8). -/
def inject (s : State) (inp : Nat) (p : Packet) : State :=
  match route s inp p.h with
  | .noRoute | .notRunning => notifyUnreachable (injectQuiet s inp p) p.h 0x1FF
  | _ => injectQuiet s inp p

/-- The answer of ingress to a request that fails the extent check (R109): SRC is the request's DEST, no payload. -/
def denyAtIngress (s : State) (inp : Nat) (h : Hdr) (ccode detail : Nat) : State :=
  inject (bump (cnt s Reg.SWITCH.COUNT_B.DENIED_AT_INGRESS) (ctrNo 0x30 2)) inp (mkResp s h h.dest.toNat ccode detail 0 0)

/-- What R24 gives for a packet steered or delivered to a cell at crossbar port `x` of a CLUSTER that is not RUNNING. What it sends in answer, or
sends on, enters at that port, which is the port of the half in which the cell lies (DEDUCED, log entry 19). -/
def clusterNotRunning (s : State) (x : Nat) (h : Hdr) : State :=
  match h.k with
  | some .gather => inject s x (mkResp s h (serviceId s) ccUnsupported 0 0 0)
  | some .swarmTile | some .swarmAck => countDiscarded s (h.x 0 8)
  | some _ => if h.homed then inject s x { h := h } else cnt s (Reg.CLUSTER.CL_COUNT_B.NO_ENTRY ((x - 128) / 2))
  | none => s

/-! ### Jigs (R100 to R103, R106) -/

/-- Bit address of entry `j` of the active table, and of its VALID field. -/
def jigActiveKey : Nat := 8 * 0x130000

/-- The valid entries of the active table, ascending. -/
def jigEntries (s : State) : List Nat :=
  (s.regs.filter (fun e => decide (jigActiveKey ≤ e.1) && decide (e.1 < jigActiveKey + 4096 * 256)
    && (e.1 - jigActiveKey) % 256 == 192 && e.2 != 0)).map (fun e => (e.1 - jigActiveKey) / 256)

/-- IN_PORTS of active entry `j`. -/
def jigIn (s : State) (j : Nat) : Nat :=
  rd s (Reg.TICK.JIG_ACTIVE.IN_PORTS j 0) + 2 ^ 64 * rd s (Reg.TICK.JIG_ACTIVE.IN_PORTS j 1)

/-- The set bits of an `n`-bit mask, ascending. -/
def setBits (n m : Nat) : List Nat := (List.range n).filter (fun i => bitAt m i)

/-- The input port that holds slot `sl` of an entry with the given masks (R101). -/
def slotHolder (ins mask sl : Nat) : Option Nat :=
  let ports := setBits 128 ins
  if bitAt mask sl && !ports.isEmpty then
    some (ports.getD ((setBits 64 (mask % 2 ^ sl)).length % ports.length) 0)
  else none

/-- T_tail of R102 for an input of `w` lanes. -/
def tTail (w : Nat) : Nat := if w = 8 then 17 else if w = 6 then 23 else if w = 4 then 34 else if w = 2 then 68 else 136

/-- The bit of KINDS for a kind that a jig may take (R100). -/
def jigKind : Kind → Option Nat
  | .writeBulk => some 0
  | .writeTile => some 1
  | .tileResp => some 2
  | _ => none

/-- Condition 1 of R100 for active entry `j`: only a tile meets it, so that a TILE_RESP that carries none does not. -/
def jigSelects (s : State) (j inp : Nat) (h : Hdr) : Bool :=
  match h.k.bind jigKind with
  | none => false
  | some b =>
    expectedFlits h == 34 && !h.home && bitAt (jigIn s j) inp && bitAt (rd s (Reg.TICK.JIG_ACTIVE.KINDS j)) b &&
    bitAt (rd s (Reg.TICK.JIG_ACTIVE.TCS j)) h.tc.toNat &&
    (h.dest.toNat &&& rd s (Reg.TICK.JIG_ACTIVE.DEST_MASK j)) == (rd s (Reg.TICK.JIG_ACTIVE.DEST j) &&& rd s (Reg.TICK.JIG_ACTIVE.DEST_MASK j)) &&
    (rdb s (Reg.TICK.JIG_ACTIVE.TENANT_ANY j) || rd s (Reg.TICK.JIG_ACTIVE.TENANT j) == h.tenant.toNat)

/-- The port's jig slots are held shut by a width change, from its kerf until frames resume (R334). -/
def jigPaused (s : State) (p : Nat) : Bool := [2 * p, 2 * p + 1].any (fun h => ((findKey s.link.runs h).getD {}).paused)

/-- The width of port `p` that R102 uses: after a width change the new one from slot 0 of the next tick (R334). -/
def jigWidth (s : State) (p : Nat) : Nat :=
  match findKey s.link.jigWidth p with
  | some (t, w) => if tickNo s < t then w else rd s (Reg.PORT.LINK_STATUS.WIDTH p 0)
  | none => rd s (Reg.PORT.LINK_STATUS.WIDTH p 0)

/-- Tiles already admitted to entry `j` on `inp` in the present slot (R100). -/
def jigTiles (s : State) (j inp : Nat) : Nat :=
  match findKey s.jig.slot (j * 128 + inp) with
  | some (sl, n) => if sl = s.time.toNat / 64 then n else 0
  | none => 0

/-- Link credit held toward the peer of half `h` for class `c` (R121). -/
def creditOf (s : State) (h c : Nat) : Nat := (findKey s.sw.credit (8 * h + c)).getD 0

/-- DEST `d` is an ID of this device, which rules 5 to 7 of R113 take before the routing table. -/
def localId (s : State) (d : Nat) : Bool := d == epId s 0 || d == epId s 1 || d == homeEpId s || d == serviceId s

/-- Conditions 2 to 6 of R100 for active entry `j`, at the tile's ingress stamp, and R106 and R334. -/
def jigOpen (s : State) (j inp : Nat) (h : Hdr) : Bool :=
  let out := rd s (Reg.TICK.JIG_ACTIVE.OUTPUT j)
  slotHolder (jigIn s j) (rd s (Reg.TICK.JIG_ACTIVE.SLOT_MASK j)) (slotNo s) == some inp &&
  decide (s.time.toNat % 64 + tTail (jigWidth s inp) < 64) && decide (jigTiles s j inp < 3) &&
  !localId s h.dest.toNat && running s out && running s inp && !jigPaused s inp && !jigPaused s out && halfUp s (2 * out) &&
  rdb s (Reg.SWITCH.ROUTE.VALID h.dest.toNat) && bitAt (bundleMask s (rd s (Reg.SWITCH.ROUTE.BUNDLE h.dest.toNat))) (2 * out) &&
  decide (34 ≤ creditOf s (2 * out) h.tc.toNat)

/-- The first entry that selects a tile and is open to it; and the entries that select it. -/
def jigMatch (s : State) (inp : Nat) (h : Hdr) : Option Nat × List Nat :=
  if running s fJig && decide (inp < 128) then
    let sel := (jigEntries s).filter (fun j => jigSelects s j inp h)
    (sel.find? (fun j => jigOpen s j inp h), sel)
  else (none, [])

/-- Credit of class `c` on half `h` spent on `n` flits (R121). -/
def spendCredit (s : State) (h c n : Nat) : State :=
  { s with sw := { s.sw with credit := putKey s.sw.credit (8 * h + c) 0 (creditOf s h c - n) } }

/-- An admitted tile ahead of all queued packets of the output's egress FIFO, behind the packet on the link (R103) and behind the
tiles admitted before it (DESIGN CHOICE, log entry 57). -/
def egressFirst (l : List Egress) (e : Egress) : List Egress :=
  match l with
  | x :: rest => if decide (0 < x.sent) || x.jig then x :: egressFirst rest e else e :: x :: rest
  | [] => [e]

/-- The egress FIFO of output `o`. -/
def egressOf (s : State) (o : Nat) : List Egress := (findKey s.sw.egress o).getD []

/-- The egress FIFO of output `o` set. -/
def setEgress (s : State) (o : Nat) (l : List Egress) : State :=
  { s with sw := { s.sw with egress := putKey s.sw.egress o [] l } }

/-- A tile admitted to entry `j` (R100): it crosses without queueing and leaves first on the output link. -/
def jigAdmit (s : State) (j inp half : Nat) (p : Packet) (arrived : Nat) : State :=
  let out := 2 * rd s (Reg.TICK.JIG_ACTIVE.OUTPUT j)
  let s := cnt s (Reg.TICK.JIG_COUNT.JIGGED j)
  let s := { s with jig := { s.jig with slot := setKey s.jig.slot (j * 128 + inp) (s.time.toNat / 64, jigTiles s j inp + 1) } }
  let s := spendCredit s out p.h.tc.toNat 34
  let n := max (expectedFlits p.h) arrived
  let e : Egress := { id := s.sw.nextId, p := p, total := n, moved := n, sent := 0, stomp := false, got := arrived, jig := true }
  oweCredit (bumpId (setEgress s out (egressFirst (egressOf s out) e))) inp half p.h.tc.toNat arrived

/-- The entries that select a tile and do not take it count a miss (R100). -/
def jigMisses (s : State) (l : List Nat) : State := l.foldl (fun s j => cnt s (Reg.TICK.JIG_COUNT.MISSED j)) s

/-- The input and output ports that the active entries hold in slot `sl` (R101). -/
def slotPairs (s : State) (sl : Nat) : List (Nat × Nat) :=
  (jigEntries s).filterMap (fun j => (slotHolder (jigIn s j) (rd s (Reg.TICK.JIG_ACTIVE.SLOT_MASK j)) sl).map (fun i => (i, rd s (Reg.TICK.JIG_ACTIVE.OUTPUT j))))

/-- Input and output ports that jig reservations hold over the transfer that starts now (R103, R108); a STOPPING table holds them until
the kerf that releases its jigs (R33), and slot 61 of a table swapped in this kerf its shifted end (R105). -/
def jigReserved (s : State) : List (Nat × Nat) :=
  if running s fJig || fnState s fJig == 3 then
    let off := s.time.toNat % 4096
    let old := match s.jig.tail with | some (t, l) => if t = tickNo s then some l else none | none => none
    ((List.range 62).filter (fun sl => decide (64 * sl + 24 < off + 4) && decide (off < 64 * sl + 88))).flatMap (fun sl => old.getD (slotPairs s sl))
  else []

/-! ### S1 to S4 for one packet -/

/-- Discard of a packet at ingress for a fault of R51, R54, R75 or R86: counted, reported, its credit returned. -/
def discardBad (s : State) (inp half cause : Nat) (p : Packet) (arrived : Nat) (count : Bool) : State :=
  let s := if count && decide (inp < 128) then cnt s (Reg.PORT.PORT_COUNT.MALFORMED (half / 2) (half % 2)) else s
  packetError (oweCredit s inp half p.h.tc.toNat arrived) inp cause (hdrBits p.h)

/-- A packet whose head alone has arrived, as its header promises the rest. -/
def whole (p : Packet) : Packet := { p with payload := List.replicate (64 * (expectedFlits p.h - 1)) 0 }

/-- The fault of R51, R54, R75 or R86 in an arriving packet, as the PACKET cause of R360, and whether MALFORMED counts it. -/
def ingressFault (s : State) (p : Packet) (complete : Bool) : Option (Nat × Bool) :=
  if hcrcOf p.h != p.h.hcrc then some (1, true)
  else if complete && malformed s p then some (2, true)
  else if !complete && malformed s (whole p) then some (2, true)
  else if complete && p.stomp then some (4, false)
  else if complete && p.payload.length == tileLen && !tileCrcOk p.payload then some (3, false)
  else none

/-- S4 for a routed packet: admission, then the mirror copy (R122, R374); the copy of a packet whose tail is still to come is made with
its tail. -/
def queuePacket (s : State) (inp half : Nat) (p : Packet) (arrived : Nat) (outs : List Nat) (multi unchecked jigMiss : Bool) : State :=
  let q := { mkQ s inp half p arrived outs multi unchecked with total := max (expectedFlits p.h) arrived }
  let s := enterBuffer (bumpId s) q jigMiss
  if q.arrived < q.total then s else mirrorCopy s inp p arrived

/-- S3 and S4 for a packet with its outputs (R108, R109, R285). -/
def checkAndQueue (s : State) (inp half : Nat) (p : Packet) (arrived : Nat) (outs : List Nat) (multi miss jigMiss : Bool) : State :=
  match p.h.k.bind permBit with
  | none => queuePacket s inp half p arrived outs multi false jigMiss
  | some _ =>
    if miss && running s fExt then queuePacket (cnt s Reg.EXTENT.EXT_COUNT_A.CACHE_MISSES) inp half p arrived outs multi true jigMiss
    else
      match extCheck s p.h with
      | .grant i => queuePacket (inflightUp s i) inp half p arrived outs multi false jigMiss
      | .none => queuePacket s inp half p arrived outs multi false jigMiss
      | .deny cc d => denyAtIngress (oweCredit s inp half p.h.tc.toNat arrived) inp p.h cc d

/-- The entries that select a tile and do not admit it, where entry `j` does (R100). -/
def jigOthers (s : State) (inp : Nat) (h : Hdr) (j : Nat) (sel : List Nat) : List Nat := sel.filter (fun x => x != j && !jigOpen s x inp h)

/-- A packet in order at S2: routed, captured, admitted to a jig slot or sent to S3 (R100, R113, R371). A tile that a jig entry selects
and that goes to no one fabric output fails condition 5 there, one that fails the extent check or misses the cache condition 7: a miss. -/
def ingressRoute (s : State) (inp half : Nat) (p : Packet) (arrived : Nat) (miss : Bool) : State :=
  let h := p.h
  let c := h.tc.toNat
  let r := route s inp h
  let s := noteRoute s h r
  let (hit, sel) := jigMatch s inp h
  let s := capture s inp r.shown h (r.queue inp c)
  match r with
  | .unicast o =>
    match hit with
    | some j =>
      match h.k.bind permBit with
      | none => jigAdmit (jigMisses s (jigOthers s inp h j sel)) j inp half p arrived
      | some _ =>
        if miss then checkAndQueue (jigMisses s sel) inp half p arrived [o] false miss true
        else
          match extCheck s h with
          | .grant i => jigAdmit (inflightUp (jigMisses s (jigOthers s inp h j sel)) i) j inp half p arrived
          | .none => jigAdmit (jigMisses s (jigOthers s inp h j sel)) j inp half p arrived
          | .deny cc d => denyAtIngress (oweCredit (jigMisses s sel) inp half c arrived) inp h cc d
    | none => checkAndQueue (jigMisses s sel) inp half p arrived [o] false miss (!sel.isEmpty)
  | .cell l =>
    checkAndQueue (jigMisses s sel) inp half p arrived [outOf (cellPort l)] false miss false
  | .multicast l => checkAndQueue (jigMisses s sel) inp half p arrived l true miss false
  | .noRoute => notifyUnreachable (dropNoRoute (oweCredit (jigMisses s sel) inp half c arrived) inp h) h 0x1FF
  | .notRunning => notifyUnreachable (oweCredit (jigMisses s sel) inp half c arrived) h 0x1FF
  | .noUnit => countNoRoute (oweCredit (jigMisses s sel) inp half c arrived)
  | .clusterDown x => clusterNotRunning (oweCredit (jigMisses s sel) inp half c arrived) x h

/-- A swarm tile of a SWARM function that is not RUNNING (case 5 of R111, R24). -/
def swarmTileStopped (s : State) (h : Hdr) : Bool :=
  h.k == some .swarmTile && !running s (fSwarm (h.x 0 8))

/-- The packet with Vovis's ingress stamp, its low 24 bits in the header; HCRC stays (R52, R96). -/
def stamped (s : State) (p : Packet) : Packet :=
  { p with h := { p.h with stamp := BitVec.ofNat 24 s.time.toNat }, stamp := s.time.toNat }

/-- The crossbar port at which what waits under key `k` enters (R107, R113): 512 + l is the egress queue of device cell l (R135). -/
def offerPort (k : Nat) : Nat := if k < 512 then k else cellPort (k - 512)

/-- The first packet of the egress queue or unit of key `k`. -/
def firstOffer (s : State) (k : Nat) : Option Packet := (s.outbox.find? (fun e => e.1 == k)).map (fun e => e.2)

/-- The egress queue or unit at crossbar port `x` whose first packet is `p` (R135). -/
def offeredAs (s : State) (x : Nat) (p : Packet) : Option Nat :=
  (s.outbox.find? (fun e => offerPort e.1 == x && firstOffer s e.1 == some p)).map (fun e => e.1)

/-- What keeps a packet from entering at crossbar port `x`: a fabric half whose link is not UP carries no frames (R24, R332), a port
whose die link retrains or whose crossing queue is blocked is held (R349, R415), a thermal trip stops the crossbar's clock (R407), and a unit sends what waits there, each queue in its order (R135). -/
def entryShut (s : State) (x half : Nat) (p : Packet) : Bool :=
  s.pw.tripped || if x < 128 then !linkUp s half else unitShut s x || (offeredAs s x p).isNone

/-- The packet taken out of the queue that sends it. -/
def takeOffer (s : State) (x : Nat) (p : Packet) : State :=
  match offeredAs s x p with
  | some k => { s with outbox := s.outbox.erase (k, p) }
  | none => s

/-- A packet entering at crossbar port `inp` with its tail (`complete`) or its head alone (R107); `miss` says that the extent cache
misses. -/
def ingress (s : State) (inp half : Nat) (p : Packet) (complete miss : Bool) : State :=
  if entryShut s inp half p then s
  else
    let s := takeOffer s inp p
    let p := if complete then p else { h := p.h }
    let p' := stamped s p
    match ingressFault s p complete with
    | some (cause, count) => discardBad (jigMisses s (jigMatch s inp p.h).2) inp half cause p' p.flits count
    | none =>
      let s := if (match p.h.k with | some k => k.isResponse | none => false) then inflightDown s p.h else s
      if swarmTileStopped s p.h then
        countDiscarded (oweCredit s inp half p.h.tc.toNat p.flits) (p.h.x 0 8)
      else ingressRoute s inp half p' p.flits miss

/-- INGRESS_HOLD_RELEASE (R124): the head packet of one ingress headroom is tried again. -/
def execIngressHoldRelease (inp : Fin 232) (hi : Bool) (tc : BitVec 3) (s : State) : Host.Outcome State Fault Refusal :=
  .next (releaseHeld s inp.val (2 * inp.val + b2n hi) tc.toNat)

/-- SPILL_REFILL (R122): one refill of the VOQ of an input, an output (or the multicast queue) and a class. -/
def execSpillRefill (inp : Fin 232) (out : Fin 360) (tc : BitVec 3) (multicast bad : Bool) (s : State) : Host.Outcome State Fault Refusal :=
  .next (refill s (voqKey inp.val (if multicast then 1023 else out.val) tc.toNat) bad)

/-- A registry read returns for an unchecked packet (R108): it becomes eligible, is answered at ingress, or, where the
registry could not be read, is answered POISON (R352); the record's registry index is that of the entry that covers the request, a free
value where none does (log entry 39). -/
def lookupReturn (s : State) (id : Nat) (readError : Bool) : State :=
  match s.sw.pkts.find? (fun q => q.id == id && q.unchecked) with
  | none => s
  | some q =>
    let clear := fun (s : State) => { s with sw := { s.sw with pkts := s.sw.pkts.map (fun x => if x.id = id then { x with unchecked := false } else x) } }
    if readError then
      let i := match extCheck s q.p.h with | .grant i => i | _ => peekFree s
      let s := report (takeFree s) fExt 0x0D 2 4 i (packBits [(0, 12, q.p.h.ep), (12, 12, q.p.h.tenant.toNat), (24, 8, q.p.h.xgen.toNat)])
      denyAtIngress (discardPkt s q) q.inp q.p.h ccPoison 0
    else
      match extCheck s q.p.h with
      | .grant i => clear (inflightUp s i)
      | .none => clear s
      | .deny cc d => denyAtIngress (discardPkt s q) q.inp q.p.h cc d

/-- EXTENT_LOOKUP_RETURN (R108). -/
def execExtentLookupReturn (id : Nat) (readError : Bool) (s : State) : Host.Outcome State Fault Refusal :=
  .next (lookupReturn s id readError)

end Sys2Proof.Machine
end

