-- ==== Sys2Proof/Machine/Scheduler.lean ====
section
/-!
DEFINITION. Machine/Scheduler.lean: one matching of the central scheduler (R117 to R120), the chunk transfer (R110, R112, R119),
and the flush of a port or of a unit's queues (R112, R125).
-/
namespace Sys2Proof.Machine
open Sys2Proof

/-! ### Requests -/

/-- One request of a matching: input, output number, class, packet and whether its head is a multicast. -/
structure Req where
  inp : Nat
  out : Nat
  tc : Nat
  id : Nat
  multi : Bool
  bytes : Nat
deriving DecidableEq, Repr

/-- Flits of the chunk that output `o` takes next. -/
def nextChunkFlits (q : QPkt) (o : Nat) : Nat := min 16 (q.total - 16 * q.sentTo o)

/-- The next chunk of the packet for output `o` is ready: its first flit has arrived (R110), and the packet is on-chip,
checked and past its ingress headroom. -/
def chunkReady (q : QPkt) (o : Nat) : Bool :=
  (match q.place with | .spill | .held => false | _ => true) && !q.unchecked && decide (16 * q.sentTo o < q.arrived) &&
  decide (q.sentTo o < chunksOf q.total)

/-- The packet stands at the head of its queue: no earlier packet of the same VOQ or multicast queue has chunks to come. -/
def isHead (l : List QPkt) (q : QPkt) : Bool :=
  match l.find? (fun x => x.key == q.key && x.place != .held && !x.residue.isEmpty) with
  | some x => x.id == q.id
  | none => false

/-- A class is a candidate at a fabric output only with credit for every flit of the packet (R120). -/
def creditFor (s : State) (q : QPkt) (o : Nat) : Bool :=
  decide (256 ≤ o) || decide (q.total ≤ creditOf s o q.tc)

/-- The arrival queue of device cell `l` (R133): what stands at its cluster port for it, in arrival order; 256 + the port for what the
scheduler core sent. -/
def cellQueue (s : State) (l : Nat) : List (Nat × Packet) := s.inbox.filter (fun e => e.1 % 256 == cellPort l && targetCell e.2.h == l)

/-- The device cell of a header copy (R372). -/
def HdrCopy.cell (c : HdrCopy) : Nat := copyCell c.h.src.toNat c.h.dest.toNat

/-- Packets that hold an arrival entry of device cell `l`: those in its arrival queue and those crossing to it (R133); of each, whether it is
a tile. -/
def cellArrivals (s : State) (l : Nat) : List Bool :=
  (cellQueue s l).map (fun e => e.2.payload.length == tileLen) ++
  ((s.sw.pkts.filter (fun q => q.begun && q.outs.contains (outOf (cellPort l)) && targetCell q.p.h == l)).map (fun q => q.total == 34))

/-- Arrival entries of device cell `l` in use, those of delivered header copies included (R133). -/
def cellHeld (s : State) (l : Nat) : Nat :=
  (cellArrivals s l).length + (s.tel.copies.filter (fun c => c.behind.isSome && c.cell == l)).length

/-- Device cell `l` is ready for small packets (R133): a free arrival entry, its INIT has run, and no move of its work until the spare has
taken its first event. -/
def readySmall (s : State) (l : Nat) : Bool :=
  (findKey s.cells.moves l).isNone && !s.cells.initDue.contains l && !s.cells.fresh.contains l && decide (cellHeld s l < 32)

/-- Device cell `l` is ready for tiles (R133): a free arrival slot too, of 6. -/
def readyTile (s : State) (l : Nat) : Bool :=
  readySmall s l && decide (((cellArrivals s l).filter id).length +
    (match findKey s.cells.run l with | some r => b2n r.arrival.isSome | none => 0) < 6)

/-- Its CLUSTER takes a packet to device cell `l` for the cell: it is RUNNING, or it drains and the packet is a response or a notice (R24,
R33, R133). -/
def cellTakes (s : State) (l : Nat) (h : Hdr) : Bool :=
  running s (fCluster (l / 128)) ||
  (fnState s (fCluster (l / 128)) == 3 && (match h.k with | some k => k.isResponse || k == .notice | none => false))

/-- The cell that a head packet at a cluster port goes to is ready for it (R133); the ports of a CLUSTER that is not RUNNING take every
packet. -/
def cellReady (s : State) (q : QPkt) (o : Nat) : Bool :=
  if decide (o < outOf 128) || decide (outOf 224 ≤ o) then true
  else
    let l := targetCell q.p.h
    !running s (fCluster (l / 128)) || (if q.total = 34 then readyTile s l else readySmall s l)

/-- Every request that a matching may serve: head packets not yet begun at the output (R117, R118). -/
def requests (s : State) : List Req :=
  (s.sw.pkts.filter (fun q => isHead s.sw.pkts q)).flatMap (fun q =>
    (q.residue.filter (fun o => q.sentTo o == 0 && chunkReady q o && creditFor s q o && cellReady s q o)).map
      (fun o => { inp := q.inp, out := o, tc := q.tc, id := q.id, multi := q.multicast, bytes := cellBytes (nextChunkFlits q o) }))

/-- Where an input has both a multicast head and a VOQ for one output and class, the requests alternate (R118). -/
def takeTurns (s : State) (l : List Req) : List Req :=
  l.filter (fun r =>
    let both := l.any (fun x => x.inp == r.inp && x.out == r.out && x.tc == r.tc && x.multi != r.multi)
    !both || (if s.sw.voqTurn.contains (voqKey r.inp r.out r.tc) then !r.multi else r.multi))

/-- The turns after a matching in which pairs requested (R118): one for each input, output and class (DESIGN CHOICE, log entry 64). -/
def nextTurns (s : State) (l : List Req) : List Nat :=
  let pairs := ((l.filter (fun r => r.multi && l.any (fun x => x.inp == r.inp && x.out == r.out && x.tc == r.tc && !x.multi))).map
    (fun r => voqKey r.inp r.out r.tc)).dedup
  (s.sw.voqTurn.filter (fun k => !pairs.contains k)) ++ pairs.filter (fun k => !s.sw.voqTurn.contains k)

/-! ### Class choice (R120) -/

/-- The deficit of class `c` at crossbar output `x`. -/
def deficitOf (s : State) (x c : Nat) : Int := (findKey s.sw.deficit (8 * x + c)).getD 0

/-- The deficit set. -/
def setDeficit (s : State) (x c : Nat) (d : Int) : State :=
  { s with sw := { s.sw with deficit := putKey s.sw.deficit (8 * x + c) 0 d } }

/-- The deficit round-robin visit of output `x` over classes with requests `cs`, for at most `fuel` classes (R120). -/
def drr (s : State) (x : Nat) (cs : List Nat) : Nat → Option Nat × State
  | 0 => (none, s)
  | fuel + 1 =>
    let c := (findKey s.sw.visit x).getD 7
    if cs.contains c && decide (0 < deficitOf s x c) then (some c, s)
    else
      let c' := if c = 7 then 1 else c + 1
      let s := { s with sw := { s.sw with visit := putKey s.sw.visit x 7 c' } }
      let s := if cs.contains c' then setDeficit s x c' (deficitOf s x c' + 256 * rd s (Reg.SWITCH.TC_QUANTUM.QUANTUM c')) else s
      drr s x cs fuel

/-- The class that output `x` grants among its requests: TC0 in strict priority, then deficit round-robin (R120). -/
def pickClass (s : State) (x : Nat) (cs : List Nat) : Option Nat × State :=
  if cs.contains 0 then (some 0, s)
  else if cs.isEmpty then (none, s)
  else drr s x cs 256

/-- A chunk of `b` bytes of class `c` charged to output `x` (R120); TC0 is strict and is not charged. -/
def charge (s : State) (x c b : Nat) : State :=
  if c = 0 then s else setDeficit s x c (deficitOf s x c - b)

/-! ### Chunk transfer (R110, R112, R119) -/

/-- The packet with one more chunk granted to output `o`. -/
def QPkt.grant (q : QPkt) (o : Nat) : QPkt := { q with sent := setKey q.sent o (q.sentTo o + 1) }

/-- Flits that output `o` holds after `k` chunks of an `n`-flit packet. -/
def flitsAfter (n k : Nat) : Nat := min n (16 * k)

/-- The packet as an output sends it: with a STOMP tail once it was found bad (R112). -/
def QPkt.outPacket (q : QPkt) : Packet := { q.p with stomp := q.p.stomp || q.bad }

/-- Function `n` is RUNNING, or STOPPING and still drains what it took (R33). -/
def fnServes (s : State) (n : Nat) : Bool := running s n || fnState s n == 3

/-- A packet at a unit's crossbar output: its arrival queue takes it, or its cluster port handles it under R24 (R133), or the end-point it was
sent to has stopped meanwhile (R24, R84). What entered at the
service port 229 stands under 256 + its port, so that R442 can tell it. -/
def landUnit (s : State) (q : QPkt) (o : Nat) : State :=
  let x := outPort o
  if q.outPacket.stomp then s
  else if decide (128 ≤ x) && decide (x < 224) && !cellTakes s (targetCell q.p.h) q.p.h then clusterNotRunning s x q.p.h
  else if decide (224 ≤ x) && decide (x < 228) && !fnServes s (ingressSource x) then notifyUnreachable s q.p.h 0x1FF
  else { s with inbox := s.inbox ++ [(if q.inp = 229 && decide (x < 224) then 256 + x else x, q.p)] }

/-- A chunk of packet `q` arriving at the egress FIFO of fabric output `o`, or its last one at a unit, where its tail has arrived too. -/
def deliverChunk (s : State) (q : QPkt) (o : Nat) : State :=
  let k := q.sentTo o
  if o < 256 then
    let moved := flitsAfter q.total k
    let l := egressOf s o
    if l.any (fun e => e.id == q.id) then
      setEgress s o (l.map (fun e => if e.id = q.id then { e with moved := moved, stomp := e.stomp || q.bad, p := q.p, got := q.arrived } else e))
    else setEgress s o (l ++ [{ id := q.id, p := q.p, total := q.total, moved := moved, sent := 0, stomp := q.bad, got := q.arrived }])
  else if k = chunksOf q.total && decide (q.total ≤ q.arrived) then landUnit s q o
  else s

/-- A granted chunk crosses: the packet's progress, its credit at its first chunk, the deficit, the egress; a packet whose
every chunk has crossed leaves the buffer once its tail has arrived (R110, R118, R119, R121). -/
def transfer (s : State) (id o : Nat) : State :=
  match s.sw.pkts.find? (fun q => q.id == id) with
  | none => s
  | some q =>
    let s := if q.sentTo o = 0 ∧ o < 256 then spendCredit s o q.tc q.total else s
    let s := charge s (outPort o) q.tc (cellBytes (nextChunkFlits q o))
    let q' := q.grant o
    let s := deliverChunk s q' o
    if q'.residue.isEmpty && decide (q'.total ≤ q'.arrived) then dropPkt s id
    else { s with sw := { s.sw with pkts := s.sw.pkts.map (fun x => if x.id = id then q' else x) } }

/-! ### The matching (R117) -/

/-- Packets that lock an output: a chunk has been granted and more are to come (R119). -/
def locks (s : State) : List (QPkt × Nat) :=
  s.sw.pkts.flatMap (fun q => (q.residue.filter (fun o => decide (0 < q.sentTo o))).map (fun o => (q, o)))

/-- The locked chunks placed before the iterations (R119): for each input, its first ready lock and the other outputs of the
same packet at the same chunk. -/
def placeLocks (l : List (QPkt × Nat)) (inBusy outBusy : List Nat) : List (Nat × Nat × Nat) :=
  (l.foldl (fun (acc : List (Nat × Nat × Nat)) qo =>
    let q := qo.1; let o := qo.2
    if inBusy.contains q.inp || outBusy.contains (outPort o) || !chunkReady q o then acc
    else
      let mine := acc.filter (fun e => e.1 == q.inp)
      let sameChunk := mine.all (fun e => e.2.1 == q.id && (q.sentTo e.2.2 == q.sentTo o))
      if sameChunk && acc.all (fun e => outPort e.2.2 != outPort o) then acc ++ [(q.inp, q.id, o)] else acc) [])

/-- The first of `l` at or after `p` in wrapping order. -/
def firstAtOrAfter (l : List Nat) (p : Nat) : Option Nat :=
  match (l.filter (fun x => decide (p ≤ x))).min? with
  | some x => some x
  | none => l.min?

/-- The grants of one iteration over the free outputs, with the state after the class choices (R117). -/
def grantAll (s : State) (reqs : List Req) : List Nat → State × List (Nat × Req)
  | [] => (s, [])
  | x :: xs =>
    let rs := reqs.filter (fun r => outPort r.out == x)
    let (c, s) := pickClass s x ((rs.map (fun r => r.tc)).dedup)
    match c with
    | none => grantAll s reqs xs
    | some c =>
      let cs := rs.filter (fun r => r.tc == c)
      let g := match firstAtOrAfter (cs.map (fun r => r.inp)) ((findKey s.sw.gptr (8 * x + c)).getD 0) with
        | some i => (cs.find? (fun r => r.inp == i)).toList.map (fun r => (x, r))
        | none => []
      let (s, rest) := grantAll s reqs xs
      (s, g ++ rest)

/-- The accepts of one iteration over the free inputs: each takes the first granting output at or after its pointer, and for
a multicast grant every output granting the same packet (R117, R118). -/
def acceptAll (s : State) (grants : List (Nat × Req)) : List Nat → List (Nat × List (Nat × Req))
  | [] => []
  | i :: is =>
    let gs := grants.filter (fun g => g.2.inp == i)
    match firstAtOrAfter (gs.map (fun g => g.1)) ((findKey s.sw.aptr i).getD 0) with
    | none => acceptAll s grants is
    | some x =>
      match gs.find? (fun g => g.1 == x) with
      | none => acceptAll s grants is
      | some g => (x, if g.2.multi then gs.filter (fun e => e.2.multi && e.2.id == g.2.id) else [g]) :: acceptAll s grants is

/-- The pointers after the accepts of the first iteration (R117). -/
def movePointers (s : State) (acc : List (Nat × List (Nat × Req))) : State :=
  acc.foldl (fun s a => a.2.foldl (fun s e =>
    { s with sw := { s.sw with gptr := putKey s.sw.gptr (8 * e.1 + e.2.tc) 0 ((e.2.inp + 1) % 232),
                               aptr := putKey s.sw.aptr e.2.inp 0 ((a.1 + 1) % 232) } }) s) s

/-- The accepted chunks cross. -/
def transferAll (s : State) (acc : List (Nat × List (Nat × Req))) : State :=
  acc.foldl (fun s a => a.2.foldl (fun s e => transfer s e.2.id e.2.out) s) s

/-- One iteration of request, grant and accept over the requests of free inputs and outputs (R117). -/
def iteration (first : Bool) (s : State) (reqs : List Req) (inBusy outBusy : List Nat) : State × List Nat × List Nat :=
  let live := reqs.filter (fun r => !inBusy.contains r.inp && !outBusy.contains (outPort r.out))
  let (s, grants) := grantAll s live (List.range 232)
  let acc := acceptAll s grants (List.range 232)
  let s := if first then movePointers s acc else s
  (transferAll s acc, inBusy ++ acc.flatMap (fun a => a.2.map (fun e => e.2.inp)), outBusy ++ acc.flatMap (fun a => a.2.map (fun e => e.1)))

/-- The crossbar outputs and classes with requests: head packets with a ready chunk, also those whose link credit does not make them
candidates (R117, R120, R133). -/
def asking (s : State) : List (Nat × Nat) :=
  (s.sw.pkts.filter (fun q => isHead s.sw.pkts q)).flatMap (fun q =>
    (q.residue.filter (fun o => q.sentTo o == 0 && chunkReady q o && cellReady s q o)).map (fun o => (outPort o, q.tc)))

/-- Classes at outputs whose requests have run out lose their deficit (R120). -/
def clearDeficits (s : State) (asked : List (Nat × Nat)) : State :=
  { s with sw := { s.sw with deficit := s.sw.deficit.filter (fun d => asked.any (fun r => 8 * r.1 + r.2 == d.1)
      || (locks s).any (fun l => 8 * outPort l.2 + l.1.tc == d.1)) } }

/-- The outputs and classes whose head packet lacks link credit (R120, R367). -/
def stalled (s : State) : List (Nat × Nat) :=
  ((s.sw.pkts.filter (fun q => isHead s.sw.pkts q)).flatMap (fun q =>
    (q.residue.filter (fun o => decide (o < 256) && q.sentTo o == 0 && chunkReady q o && !creditFor s q o)).map (fun o => (o, q.tc)))).dedup

/-- Counter `num` raised once in each slot, under key `k`. -/
def countSlot (s : State) (k num : Nat) : State :=
  if findKey s.tel.stalls k == some (s.time.toNat / 64) then s
  else bump { s with tel := { s.tel with stalls := setKey s.tel.stalls k (s.time.toNat / 64) } } num

/-- Credit-stall slots of the classes and of the outputs (R367, R375); group 0x105 is the model's own, by half. -/
def countStalls (s : State) : State :=
  (stalled s).foldl (fun s e => countSlot (countSlot s (8 * e.1 + e.2) (ctrNo 0x05 (8 * e.1 + e.2))) (2048 + e.1) (ctrNo 0x105 e.1)) s

/-- One matching (R117): jig reservations and packet locks first, then three iterations. None takes place once the clock has stopped (R407). -/
def matching (s : State) : State :=
  if s.pw.tripped then s else
  let res := jigReserved s
  let held := (List.range 104).map (fun i => i + 128) |>.filter (unitShut s)
  let inB := held ++ res.map (fun r => r.1)
  let outB := held ++ res.map (fun r => r.2)
  let lk := placeLocks (locks s) inB outB
  let lockedOut := (locks s).map (fun l => l.2)
  let all := requests s
  let reqs := (takeTurns s all).filter (fun r => !lockedOut.contains r.out)
  let asked := asking s
  let s := { s with sw := { s.sw with voqTurn := nextTurns s all } }
  let s := clearDeficits (countStalls s) asked
  let s := lk.foldl (fun s e => transfer s e.2.1 e.2.2) s
  let inB := inB ++ lk.map (fun e => e.1)
  let outB := outB ++ lk.map (fun e => outPort e.2.2)
  let (s, inB, outB) := iteration true s reqs inB outB
  let (s, inB, outB) := iteration false s reqs inB outB
  (iteration false s reqs inB outB).1

/-! ### Stomps and flushes (R112, R125) -/

/-- Entries of packet `id` in the egress FIFOs changed by `g`. -/
def mapEgress (s : State) (id : Nat) (g : Egress → Egress) : State :=
  { s with sw := { s.sw with egress := s.sw.egress.map (fun e => (e.1, e.2.map (fun y => if y.id = id then g y else y))) } }

/-- A packet of the buffer replaced by `q`. -/
def setPkt (s : State) (q : QPkt) : State :=
  { s with sw := { s.sw with pkts := s.sw.pkts.map (fun x => if x.id = q.id then q else x) } }

/-- The tail of packet `id` has arrived: units that were granted all its chunks take it, and it leaves the buffer where no chunk is to
come (R110, R118). -/
def finishArrival (s : State) (id : Nat) : State :=
  match s.sw.pkts.find? (fun q => q.id == id) with
  | none => s
  | some q =>
    let s := (q.outs.filter (fun o => decide (256 ≤ o) && q.sentTo o == chunksOf q.total)).foldl (fun s o => landUnit s q o) s
    if q.residue.isEmpty then dropPkt s id else s

/-- Fabric outputs at which a chunk of the packet has been granted. -/
def QPkt.begunAt (q : QPkt) : List Nat := q.outs.filter (fun o => decide (0 < q.sentTo o))

/-- Credit toward the peer of half `o` for class `c` held again (R121). -/
def regainCredit (s : State) (o c n : Nat) : State :=
  { s with sw := { s.sw with credit := putKey s.sw.credit (8 * o + c) 0 (creditOf s o c + n) } }

/-- The egress entries of packet `id`, each with its half. -/
def egressEntries (s : State) (id : Nat) : List (Nat × Egress) :=
  s.sw.egress.flatMap (fun e => (e.2.filter (fun y => y.id == id)).map (fun y => (e.1, y)))

/-- Packet `id` ends with a STOMP tail after `n` more flits than it has (R112): `n` filler flits of zeros, the outputs without a chunk
leave its residue, credit spent on flits that are never sent is held again, and STOMPED counts it once. -/
def endStomped (s : State) (id : Nat) (len : Nat → Nat → Nat) : State :=
  let cut := fun (y : Egress) => { y with stomp := true, total := len y.got y.total, got := len y.got y.total, moved := min y.moved (len y.got y.total) }
  let again := s.sw.pkts.any (fun q => q.id == id && q.bad) || (egressEntries s id).any (fun e => e.2.stomp)
  let s := if again then s else bump (cnt s Reg.SWITCH.COUNT_A.STOMPED) (ctrNo 0x30 0)
  match s.sw.pkts.find? (fun q => q.id == id) with
  | none => mapEgress ((egressEntries s id).foldl (fun s e => regainCredit s e.1 e.2.p.h.tc.toNat (e.2.total - len e.2.got e.2.total)) s) id cut
  | some q =>
    let n := len q.arrived q.total
    let s := (q.begunAt.filter (fun o => decide (o < 256))).foldl (fun s o => regainCredit s o q.tc (q.total - n)) s
    finishArrival (setPkt (mapEgress s id cut) { q with bad := true, total := n, arrived := n, outs := q.begunAt }) id

/-- Part of packet `id` has been granted to an output, or it was admitted to a jig slot: its forwarding has begun. -/
def forwarding (s : State) (id : Nat) : Bool :=
  match s.sw.pkts.find? (fun q => q.id == id) with
  | some q => q.begun
  | none => s.sw.egress.any (fun e => e.2.any (fun y => y.id == id))

/-- A packet found bad after it was admitted (R112), or one whose ingress port went down before its tail arrived, ended after `len`
flits: discarded where no chunk has been granted, else completed with a STOMP tail. -/
def endBad (s : State) (id : Nat) (len : Nat → Nat → Nat) : State :=
  if forwarding s id then endStomped s id len
  else
    match s.sw.pkts.find? (fun q => q.id == id) with
    | some q => discardPkt s q
    | none => s

/-- A packet found bad after it was admitted (R112): discarded where no chunk has been granted; else its remaining flits are sent with a
STOMP tail on the outputs that have begun. -/
def stompPkt (s : State) (id : Nat) : State := endBad s id (fun _ total => total)

/-- An uncorrectable flit of packet number `id`, read from the packet buffer at an address, is a case-3 fault (R112, R349 class 0x07). -/
def bufferError (s : State) : Option (Nat × BitVec 32) → State
  | some (id, a) => if s.sw.pkts.any (fun q => q.id == id && q.place != .spill) then stompPkt (report s 465 0x07 1 2 0xFF a.toNat) id else s
  | none => s

/-- SCHEDULER_MATCHING (R117); `ecc` names a packet whose read met an uncorrectable error, and its address. -/
def execSchedulerMatching (s : State) (ecc : Option (Nat × BitVec 32) := none) : Host.Outcome State Fault Refusal := .next (matching (bufferError s ecc))

/-- A packet whose ingress port went down before its tail arrived (R112, R125 step 4): discarded where no chunk has been granted, else
completed with one filler flit whose tail code is STOMP. -/
def cutPkt (s : State) (id : Nat) : State := endBad s id (fun got _ => got + 1)

/-- FLUSH_STATUS brought up to date. -/
def flushStatus (s : State) : State :=
  wr (wrb s Reg.SWITCH.FLUSH_STATUS.ACTIVE (!s.sw.notices.isEmpty)) Reg.SWITCH.FLUSH_STATUS.NOTICES_PENDING s.sw.notices.length

/-- One flushed packet: a request's notice is queued, anything else is discarded and counted in the port's FLUSHED (R84, R125). -/
def flushOne (s : State) (port half : Nat) (h : Hdr) (spilled : Bool) : State :=
  if h.tc = 7 then s
  else
    match h.k with
    | some k =>
      if k.reqCode then { s with sw := { s.sw with notices := s.sw.notices ++ [(h, port, spilled)] } }
      else if half < 256 then cnt s (Reg.PORT.PORT_COUNT.FLUSHED (half / 2) (half % 2)) else s
    | none => s

/-- Every packet bound for an output of `outs` leaves those outputs; a packet left with no output is flushed (R125). -/
def flushOutputs (s : State) (outs : List Nat) (port half : Nat) : State :=
  s.sw.pkts.foldl (fun s q =>
    if q.outs.any (fun o => outs.contains o) then
      let q' := { q with outs := q.outs.filter (fun o => !outs.contains o) }
      if q'.outs.isEmpty then flushOne (discardPkt s q) port half q.p.h (q.place == .spill)
      else if q'.residue.isEmpty && decide (q'.total ≤ q'.arrived) then dropPkt s q.id
      else { s with sw := { s.sw with pkts := s.sw.pkts.map (fun x => if x.id = q.id then q' else x) } }
    else s) s

/-- Packets still arriving from half `h`: completed with a STOMP filler flit where begun, else discarded (R125 step 4). -/
def cutArrivals (s : State) (h : Nat) : State :=
  let coming := (s.sw.pkts.filter (fun q => q.inp == h / 2 && q.half == h && decide (q.arrived < q.total))).map (fun q => q.id)
  let jigged := match findKey s.sw.rx h with
    | some x => x.fwd.toList.filter (fun id => !coming.contains id)
    | none => []
  let s := (coming ++ jigged).foldl cutPkt s
  { s with sw := { s.sw with rx := delKey s.sw.rx h } }

/-- Credit state of half `h` cleared in both directions (R121, R125 step 5). -/
def clearCredit (s : State) (h : Nat) : State :=
  { s with sw := { s.sw with credit := s.sw.credit.filter (fun e => e.1 / 8 != h), owed := s.sw.owed.filter (fun e => e.1 / 8 != h) } }

/-- The SENDER_ID that the peer's markers carried in the link's last UP period; 0xFFF where there was none (R327, R441). -/
def senderOf (s : State) (h : Nat) : Nat := (findKey s.link.sender h).getD 0xFFF

/-- The PORT_DOWN notices to every fabric manager ID (R125 step 6, R441). -/
def portDownNotices (s : State) (h : Nat) : State :=
  (fmIds s).foldl (fun s d => inject s 228 (noticeTo s d 2 (senderOf s h) h 0 0 0)) s

/-- Steps 1 to 6 of R125 for port half `h`, and the notices of step 7 queued. -/
def portDownHalf (s : State) (h : Nat) : State :=
  let s := { s with sw := { s.sw with down := s.sw.down.filter (fun x => x != h) } }
  let s := setEgress s h []
  let s := flushOutputs s [h] h h
  let s := clearCredit (cutArrivals s h) h
  let s := wr s Reg.SWITCH.FLUSH_STATUS.PORT (h / 2)
  flushStatus (portDownNotices s h)

/-- The halves of port `p` that exist (R114). -/
def halvesOf (s : State) (p : Nat) : List Nat := if isSplit s p then [2 * p, 2 * p + 1] else [2 * p]

/-- Port down of a whole port. -/
def portDownAll (s : State) (p : Nat) : State := (halvesOf s p).foldl portDownHalf s

/-- The next UNREACHABLE notice of a flush sent (R125 step 7). -/
def sendNotice (s : State) : State :=
  match s.sw.notices with
  | [] => s
  | (h, port, _) :: rest => flushStatus (inject { s with sw := { s.sw with notices := rest } } 228 (unreachable s h port))

/-- FLUSH_NOTICE_SEND (R125). -/
def execFlushNoticeSend (s : State) : Host.Outcome State Fault Refusal := .next (sendNotice s)

/-- Outputs that leave RUNNING leave every residue (R118); an output that a chunk has been granted to gets the rest of its packet, so that
its egress stays whole (R87; DESIGN CHOICE, log entry 58). -/
def leaveResidues (s : State) (outs : List Nat) : State :=
  s.sw.pkts.foldl (fun s q =>
    let keep := q.outs.filter (fun o => !(outs.contains o && q.sentTo o == 0))
    if !q.multicast || keep.length == q.outs.length then s
    else if keep.isEmpty || ((keep.filter (fun o => decide (q.sentTo o < chunksOf q.total))).isEmpty && decide (q.total ≤ q.arrived)) then discardPkt s q
    else setPkt s { q with outs := keep }) s

/-- Packets that wait at the units of crossbar ports `xs` flushed as on port-down (R29). -/
def flushInbox (s : State) (xs : List Nat) : State :=
  let mine := s.inbox.filter (fun e => xs.contains e.1)
  mine.foldl (fun s e => flushOne s 0x1FF 256 e.2.h false) { s with inbox := s.inbox.filter (fun e => !xs.contains e.1) }

/-- Everything a forced stop or retirement of a unit at crossbar ports `xs` flushes (R29): PORT 0x1FF in the notices (R441). -/
def flushUnit (s : State) (xs : List Nat) : State := flushStatus (flushOutputs s (xs.map outOf) 0x1FF 256)

end Sys2Proof.Machine
end

