-- ==== Sys2Proof/Machine/Events.lean ====
section
/-!
DEFINITION. Machine/Events.lean: contexts and their rings (R245, R246), the records of confidential mode (R319 to R321),
event entries and their overflow (R252, R253), interrupt moderation (R306) and step faults (R274).
-/
namespace Sys2Proof.Machine
open Sys2Proof

/-! ### Contexts -/

/-- The running state of context `c`. -/
def ctxRun (s : State) (c : Nat) : CtxRun := (findKey s.ep.ctx c).getD {}

/-- The running state of context `c` set. -/
def setCtx (s : State) (c : Nat) (r : CtxRun) : State := { s with ep := { s.ep with ctx := putKey s.ep.ctx c {} r } }

/-- Context `c` is in service (R245). -/
def ctxOn (s : State) (c : Nat) : Bool := rdb s (Reg.EP.CTX.ENABLE c)
/-- The end-point that serves context `c`. -/
def ctxEp (s : State) (c : Nat) : Nat := rd s (Reg.EP.CTX.EP_SEL c)
/-- The function of context `c` (R305). -/
def ctxFunc (s : State) (c : Nat) : Nat := rd s (Reg.EP.CTX.FUNC c)
/-- The tenant of context `c`. -/
def ctxTenant (s : State) (c : Nat) : Nat := rd s (Reg.EP.CTX.TENANT c)
/-- Function number 256 × port + function of context `c`. -/
def ctxKey (s : State) (c : Nat) : Nat := ctxEp s c * 256 + ctxFunc s c

/-- The contexts in service, ascending. -/
def liveCtxs (s : State) : List Nat :=
  let lo := (Reg.EP.CTX.ENABLE 0).key
  (s.regs.filter (fun e => decide (lo ≤ e.1) && decide (e.1 < lo + 4096 * 512) && (e.1 - lo) % 512 == 0 && e.2 != 0)).map
    (fun e => (e.1 - lo) / 512)

/-- The contexts in service of a tenant. -/
def tenantCtxs (s : State) (t : Nat) : List Nat := (liveCtxs s).filter (fun c => ctxTenant s c == t)
/-- The contexts in service of function `f` of port `p`. -/
def funcCtxs (s : State) (p f : Nat) : List Nat := (liveCtxs s).filter (fun c => ctxEp s c == p && ctxFunc s c == f)

/-- The current epoch of a tenant (R272). -/
def epochOf (s : State) (t : Nat) : Nat := rd s (Reg.EP.TENANT_EPOCH.EPOCH t)

/-- CTX_STATUS.OUTSTANDING and COCOONED and FUNC_STATE.CONTEXTS brought up to date for context `c`. -/
def ctxStatus (s : State) (c : Nat) : State :=
  wrs s [(Reg.EP.CTX_STATUS.OUTSTANDING c, (s.ep.descs.filter (fun d => d.ctx == c && d.q != 4)).length),
    (Reg.EP.CTX_STATUS.COCOONED c, (s.ep.reqs.filter (fun r => r.ctx == c && r.st == 2)).length),
    (Reg.HOSTPORT.FUNC_STATE.CONTEXTS (ctxEp s c) (ctxFunc s c), (funcCtxs s (ctxEp s c) (ctxFunc s c)).length)]

/-! ### Confidential records (R319 to R321) -/

/-- The bytes of an ASCII label. -/
def ascii (t : String) : List Byte := t.toList.map (fun c => BitVec.ofNat 8 c.toNat)

/-- Function `k` is in confidential mode. -/
def confOn (s : State) (k : Nat) : Bool := rdb s (Reg.HOSTPORT.FUNC_STATE.CONFIDENTIAL (k / 256) (k % 256))
/-- The keys of function `k`. -/
def confOf (s : State) (k : Nat) : Conf := (findKey s.host.conf k).getD {}
/-- The keys of function `k` set. -/
def setConf (s : State) (k : Nat) (c : Conf) : State := { s with host := { s.host with conf := setKey s.host.conf k c } }

/-- The 12-byte nonce of N under a salt (R320). -/
def confNonce (salt : List Byte) (n : Nat) : Nat := ofLeBytes (salt ++ leBytes 8 n)

/-- A record sealed toward the host with K_D2H (R320, R321): ciphertext and tag. -/
def confSeal (s : State) (k n : Nat) (aad pt : List Byte) : List Byte × Nat :=
  let c := confOf s k
  Config.gcmSeal (ofLeBytes (Config.hkdfExpand 384 c.secret (ascii "vovis d2h key") 32))
    (confNonce (Config.hkdfExpand 384 c.secret (ascii "vovis d2h salt") 4) n) aad pt

/-- A record from the host opened with K_H2D (R320, R321). -/
def confOpen (s : State) (k n : Nat) (aad ct : List Byte) (tag : Nat) : Option (List Byte) :=
  let c := confOf s k
  Config.gcmOpen (ofLeBytes (Config.hkdfExpand 384 c.secret (ascii "vovis h2d key") 32))
    (confNonce (Config.hkdfExpand 384 c.secret (ascii "vovis h2d salt") 4) n) aad ct tag

/-- A 32 B ring entry as its 64 B confidential record (R321): AAD is bytes 48 to 56, the context and the type. -/
def confEntry (s : State) (k c type n count phase : Nat) (pt : List Byte) : List Byte :=
  let tail := leBytes 8 count ++ leBytes 1 phase
  let r := confSeal s k n (tail ++ leBytes 2 c ++ leBytes 1 type) pt
  padTo 32 r.1 ++ leBytes 16 r.2 ++ tail ++ List.replicate 7 0

/-- A CONF_AUTH failure counted and recorded (R323, R360). -/
def confFail (s : State) (k c : Nat) : State :=
  report (cnt s (Reg.HOSTPORT.HP_COUNT.CONF_AUTH_FAILS (k / 256))) (fHost (k / 256)) 0x0E 3 0 (k / 256 + 2 * (k % 256)) c

/-! ### Event entries (R252, R253, R306) -/

/-- Entries of a ring with the given log2 size (R245). -/
def ringSize (l : Nat) : Nat := 2 ^ l
/-- Ring entries between head and tail. -/
def CtxRun.eqUsed (r : CtxRun) : Nat := r.eqTail - r.eqHead
/-- PHASE of the entry written at count `n` of a ring: 1 on the first pass (R246). -/
def phaseOf (n size : Nat) : Nat := if n / size % 2 = 0 then 1 else 0

/-- The event queue of context `c` has a free entry (R253). -/
def eqFree (s : State) (c : Nat) : Bool := decide ((ctxRun s c).eqUsed + 1 < ringSize (rd s (Reg.EP.CTX.EQ_LOG2 c)))

/-- The message of a context's event queue (R306): every entry so far is covered. It follows entries that wait for their translation (R281). -/
def eqMessage (s : State) (c : Nat) : State :=
  if s.host.atsWait.any (fun w => w.ring == c) then setCtx s c { ctxRun s c with modCount := 0, owesMsg := true }
  else sendMsix (setCtx s c { ctxRun s c with modCount := 0, owesMsg := false }) (ctxEp s c) (ctxFunc s c) (rd s (Reg.EP.CTX.EQ_VECTOR c))

/-- One more entry counted toward moderation (R306). -/
def moderate (s : State) (c : Nat) : State :=
  let r := ctxRun s c
  let s := setCtx s c { r with modCount := r.modCount + 1, modFirst := if r.modCount = 0 then s.now else r.modFirst }
  if decide (rd s (Reg.HOSTPORT.EQ_MOD.MOD_COUNT c) ≤ r.modCount + 1) || rd s (Reg.HOSTPORT.EQ_MOD.MOD_US c) = 0 then eqMessage s c else s

/-- The 256 bits of an event entry (R252). -/
def eventBits (s : State) (etype phase a b c d : Nat) : Nat :=
  packBits [(0, 4, etype), (4, 1, phase), (16, 16, a), (32, 32, b), (64, 64, c), (128, 64, d), (192, 64, s.time.toNat)]

/-- An event entry written at the tail of context `c` (R246, R252), in the clear or as a record of R321. -/
def eventWrite (s : State) (c etype a b cc d : Nat) : State :=
  let r := ctxRun s c
  let k := ctxKey s c
  let size := ringSize (rd s (Reg.EP.CTX.EQ_LOG2 c))
  let ph := phaseOf r.eqTail size
  let entry := leBytes 32 (eventBits s etype ph a b cc d)
  let base := rd s (Reg.EP.CTX.EQ_BASE c)
  let pos := r.eqTail % size
  let s := setCtx s c { r with eqTail := r.eqTail + 1 }
  let s :=
    if confOn s k then
      let n := (confOf s k).events
      dmaWrite (setConf s k { confOf s k with events := n + 1 }) (ctxEp s c) (ctxFunc s c) (base + 64 * pos)
        (confEntry s k c 3 (2 * 2 ^ 62 + n) n ph entry) c
    else dmaWrite s (ctxEp s c) (ctxFunc s c) (base + 32 * pos) entry c
  moderate s c

/-- The OVERFLOW event of R253, written before any other once the queue has space. -/
def eventOverflow (s : State) (c : Nat) : State :=
  let r := ctxRun s c
  if r.dropped ≠ 0 && eqFree s c then
    eventWrite (setCtx s c { r with dropped := 0 }) c 8 0 r.dropped r.firstDrop r.lastDrop
  else s

/-- An event posted to context `c` (R252, R253): written, or dropped and counted; a context out of service or being reset
writes nothing (R312). -/
def postEvent (s : State) (c etype a b cc d : Nat) : State :=
  if !ctxOn s c || (ctxRun s c).shut then s
  else
    let s := eventOverflow s c
    if eqFree s c then eventWrite s c etype a b cc d
    else
      let r := ctxRun s c
      let s := setCtx s c { r with dropped := r.dropped + 1, firstDrop := if r.dropped = 0 then s.time.toNat else r.firstDrop, lastDrop := s.time.toNat }
      wr s (Reg.EP.CTX_STATUS.EQ_OVERFLOW c) 1

/-- An event posted to each context of a list. -/
def postAll (s : State) (l : List Nat) (etype a b cc d : Nat) : State := l.foldl (fun s c => postEvent s c etype a b cc d) s

/-- A FUNCTION event (R38, R308): to ADMIN_CTX of the manager port's end-point, or discarded and counted. -/
def functionEvent (s : State) (n : Nat) : State :=
  let p := mgrPort s
  let c := rd s (Reg.EP.EP_CFG.ADMIN_CTX p)
  if ctxOn s c && !(ctxRun s c).shut then
    postEvent s c 5 n (packBits [(0, 3, fnState s n), (4, 4, rd s (Reg.GLOBAL.FUNC_STATUS.RESULT n))]) 0 0
  else cnt s (Reg.HOSTPORT.HP_COUNT.ADMIN_EVENTS_DROPPED p)

/-- A step fault of context `c` (R274): the first in its epoch posts STEP_FAULT and sets STEP_FAULTED, each is counted. -/
def stepFault (s : State) (c ccode cookie dest : Nat) : State :=
  let t := ctxTenant s c
  let first := rd s (Reg.EP.CTX_STATUS.FAULTS c) = 0
  let s := cnt s (Reg.EP.CTX_STATUS.FAULTS c)
  if first then
    postEvent (wr s (Reg.EP.CTX_STATUS.STEP_FAULTED c) 1) c 2 (ccode % 256 + 256 * (epochOf s t % 256)) t cookie dest
  else s

/-! ### Moderation timer and unmasking (R306, R307) -/

/-- The moderation time of context `c`, in ftu: MOD_US rounded up to whole ticks. -/
def modTime (s : State) (c : Nat) : Nat := (us (rd s (Reg.HOSTPORT.EQ_MOD.MOD_US c)) + 4095) / 4096 * 4096

/-- EQ_MOD_TIMER (R306): the message of a context whose moderation time has passed since its first counted entry. -/
def execEqModTimer (c : BitVec 12) (s : State) : Host.Outcome State Fault Refusal :=
  let r := ctxRun s c.toNat
  .next (if r.modCount ≠ 0 ∧ r.modFirst + modTime s c.toNat ≤ s.now then eqMessage s c.toNat else s)

/-- A pending message is sent once its vector is unmasked (R307). -/
def msixRetry (s : State) (port func vector : Nat) : State :=
  let k := msixKey port func vector
  if s.host.msixPend.contains k && !s.host.fnMask.contains (port * 256 + func) && !bitAt (msixWord s k 3) 0 && s.host.msixOn.contains (port * 256 + func) then
    msixOut { s with host := { s.host with msixPend := s.host.msixPend.filter (· != k) } } port func vector
  else s

/-- MSIX_UNMASK (R307): the Mask bit of a vector cleared; its pending message is sent. -/
def execMsixUnmask (port : Fin 2) (func : BitVec 8) (vector : BitVec 11) (s : State) : Host.Outcome State Fault Refusal :=
  let k := msixKey port.val func.toNat vector.toNat
  let w := msixWord s k 3
  .next (msixRetry { s with host := { s.host with msixTab := putKey s.host.msixTab (4 * k + 3) 1 (w - w % 2) } } port.val func.toNat vector.toNat)

end Sys2Proof.Machine
end

