-- ==== Sys2Proof/Machine/Numbers.lean ====
section
/-!
DEFINITION. Machine/Numbers.lean: the number formats and their arithmetic (R179 to R192): exact values, one rounding, saturation,
the stochastic draw, MX blocks and the additions and scalings of whole tiles.
-/
namespace Sys2Proof
namespace Num

/-! ### Exact values -/

/-- An exact value: NaN, an infinity, or a signed ratio of naturals, zeros signed. -/
inductive Val where
  | nan
  | inf (neg : Bool)
  | fin (neg : Bool) (n d : Nat)
deriving DecidableEq, Repr

/-- A floating format: exponent and mantissa widths, bias, and its class: 0 with infinities, 1 saturating with NaN (E4M3),
2 saturating without NaN (R179, R182). -/
structure FFmt where
  ew : Nat
  p : Nat
  bias : Nat
  cls : Nat
deriving DecidableEq, Repr

/-- FP32. -/
def fp32 : FFmt := ⟨8, 23, 127, 0⟩
/-- BF16. -/
def bf16 : FFmt := ⟨8, 7, 127, 0⟩
/-- FP16. -/
def fp16 : FFmt := ⟨5, 10, 15, 0⟩
/-- FP8 E4M3. -/
def e4m3 : FFmt := ⟨4, 3, 7, 1⟩
/-- FP8 E5M2. -/
def e5m2 : FFmt := ⟨5, 2, 15, 0⟩
/-- FP8 E5M2 as an MX element, which saturates (R182). -/
def e5m2mx : FFmt := ⟨5, 2, 15, 3⟩
/-- FP6 E3M2. -/
def e3m2 : FFmt := ⟨3, 2, 3, 2⟩
/-- FP6 E2M3. -/
def e2m3 : FFmt := ⟨2, 3, 1, 2⟩
/-- FP4 E2M1. -/
def e2m1 : FFmt := ⟨2, 1, 1, 2⟩

/-- The floating format of a non-MX format code (R179). -/
def floatFmt (c : Nat) : Option FFmt :=
  if c = 0 then some fp32 else if c = 1 then some bf16 else if c = 2 then some fp16 else if c = 3 then some e4m3
  else if c = 4 then some e5m2 else none

/-- The element format of an MX floating format code (R179). -/
def mxFmt (c : Nat) : Option FFmt :=
  if c = 5 then some e4m3 else if c = 6 then some e5m2mx else if c = 7 then some e3m2 else if c = 8 then some e2m3
  else if c = 9 then some e2m1 else none

/-- An MX format code: 5 to 9 and 13 (R179). -/
def isMx (c : Nat) : Bool := (decide (5 ≤ c) && decide (c ≤ 9)) || c == 13

/-- Element width in bits of a format code (R179). -/
def elemBits (c : Nat) : Nat :=
  if c = 0 || c = 10 then 32 else if c = 1 || c = 2 || c = 11 then 16 else if c = 7 || c = 8 then 6 else if c = 9 then 4 else 8

/-- Width of a floating format. -/
def FFmt.w (f : FFmt) : Nat := 1 + f.ew + f.p
/-- The exponent of the top binade (R190). -/
def FFmt.emax (f : FFmt) : Int := if f.cls = 0 || f.cls = 3 then (2 ^ f.ew : Nat) - 2 - (f.bias : Int) else (2 ^ f.ew : Nat) - 1 - (f.bias : Int)
/-- The code of the largest finite magnitude (R179). -/
def FFmt.top (f : FFmt) : Nat :=
  if f.cls = 0 || f.cls = 3 then (2 ^ f.ew - 1) * 2 ^ f.p - 1 else if f.cls = 1 then 2 ^ (f.ew + f.p) - 2 else 2 ^ (f.ew + f.p) - 1
/-- The canonical NaN (R179). -/
def FFmt.nanCode (f : FFmt) : Nat := if f.cls = 0 || f.cls = 3 then (2 ^ f.ew - 1) * 2 ^ f.p + 2 ^ (f.p - 1) else 2 ^ (f.ew + f.p) - 1
/-- The code of infinity. -/
def FFmt.infCode (f : FFmt) : Nat := (2 ^ f.ew - 1) * 2 ^ f.p

/-- A power of two, as a ratio. -/
def pow2 (e : Int) : Nat × Nat := if 0 ≤ e then (2 ^ e.toNat, 1) else (1, 2 ^ (-e).toNat)

/-- A finite value `m × 2^e`. -/
def finVal (neg : Bool) (m : Nat) (e : Int) : Val := .fin neg (m * (pow2 e).1) (pow2 e).2

/-- The exact value of a code (R179). -/
def decode (f : FFmt) (c : Nat) : Val :=
  let neg := bitAt c (f.ew + f.p)
  let ex := bits c f.p f.ew
  let m := bits c 0 f.p
  if (f.cls = 0 || f.cls = 3) && ex = 2 ^ f.ew - 1 then (if m = 0 then .inf neg else .nan)
  else if f.cls = 1 && ex = 2 ^ f.ew - 1 && m = 2 ^ f.p - 1 then .nan
  else if ex = 0 then finVal neg m (1 - (f.bias : Int) - f.p)
  else finVal neg (2 ^ f.p + m) ((ex : Int) - f.bias - f.p)

/-- `⌊log2 (n / d)⌋` for a positive ratio. -/
def ilog2 (n d : Nat) : Int :=
  let e : Int := (n.log2 : Int) - (d.log2 : Int)
  let le := fun (k : Int) => if 0 ≤ k then decide (d * 2 ^ k.toNat ≤ n) else decide (d ≤ n * 2 ^ (-k).toNat)
  if le e then e else e - 1

/-- The choice between `q` and `q + 1` for a value `q + r / d` of units (R183, R184): `rnd` 0 is nearest even, 1 stochastic
with the 16-bit draw `draw`. -/
def pick (rnd draw q r d : Nat) : Nat :=
  if r = 0 then q
  else if rnd = 1 then (if draw < r * 65536 / d then q + 1 else q)
  else if 2 * r > d then q + 1 else if 2 * r = d then q + q % 2 else q

/-- The code of an exact value rounded once to a floating format (R180 to R184). -/
def encode (f : FFmt) (rnd draw : Nat) (v : Val) : Nat :=
  let sgn := fun (neg : Bool) (c : Nat) => c + b2n neg * 2 ^ (f.ew + f.p)
  match v with
  | .nan => f.nanCode
  | .inf neg => sgn neg (if f.cls = 0 then f.infCode else f.top)
  | .fin neg n d =>
    if n = 0 then sgn neg 0
    else
      let emin : Int := 1 - (f.bias : Int)
      let e := max (min (ilog2 n d) f.emax) emin
      let u := pow2 ((f.p : Int) - e)
      let num := n * u.1
      let den := d * u.2
      let q := pick rnd draw (num / den) (num % den) den
      let code := (e - emin).toNat * 2 ^ f.p + q
      if f.top < code then sgn neg (if f.cls = 0 then f.infCode else f.top) else sgn neg code

/-! ### Operations on exact values (R181) -/

/-- Negation of an exact value. -/
def neg : Val → Val
  | .nan => .nan
  | .inf s => .inf (!s)
  | .fin s n d => .fin (!s) n d

/-- The exact sum (R181). -/
def add (a b : Val) : Val :=
  match a, b with
  | .nan, _ => .nan
  | _, .nan => .nan
  | .inf s, .inf t => if s = t then .inf s else .nan
  | .inf s, _ => .inf s
  | _, .inf t => .inf t
  | .fin s n d, .fin t m k =>
    let x : Int := (if s then -1 else 1) * ((n * k : Nat) : Int) + (if t then -1 else 1) * ((m * d : Nat) : Int)
    if x = 0 then .fin (n = 0 && m = 0 && s && t) 0 1 else .fin (decide (x < 0)) x.natAbs (d * k)

/-- The exact product (R181). -/
def mul (a b : Val) : Val :=
  match a, b with
  | .nan, _ => .nan
  | _, .nan => .nan
  | .inf s, .inf t => .inf (s != t)
  | .inf s, .fin t n _ => if n = 0 then .nan else .inf (s != t)
  | .fin s n _, .inf t => if n = 0 then .nan else .inf (s != t)
  | .fin s n d, .fin t m k => .fin (s != t) (n * m) (d * k)

/-- The reciprocal (R187). -/
def recip : Val → Val
  | .nan => .nan
  | .inf s => .fin s 0 1
  | .fin s n d => if n = 0 then .inf s else .fin s d n

/-- Integer square root, bit by bit from bit `k` down. -/
def isqrt (x : Nat) : Nat → Nat → Nat
  | 0, acc => acc
  | k + 1, acc => let t := acc + 2 ^ k; if t * t ≤ x then isqrt x k t else isqrt x k acc

/-- The reciprocal square root (R187): exact, or a ratio strictly between the two nearest multiples of 2^−160, which rounds
as the exact value does. -/
def rsqrt : Val → Val
  | .nan => .nan
  | .inf s => if s then .nan else .fin false 0 1
  | .fin s n d =>
    if n = 0 then .inf s
    else if s then .nan
    else
      let x := d * 2 ^ 320 / n
      let q := isqrt x 240 0
      if q * q * n = d * 2 ^ 320 then .fin false q (2 ^ 160) else .fin false (2 * q + 1) (2 ^ 161)

/-- a < b for values that are not NaN. -/
def lt (a b : Val) : Bool :=
  match a, b with
  | .nan, _ => false
  | _, .nan => false
  | .inf s, .inf t => s && !t
  | .inf s, .fin .. => s
  | .fin .., .inf t => !t
  | .fin s n d, .fin t m k =>
    decide ((if s then -1 else 1) * ((n * k : Nat) : Int) < (if t then -1 else 1) * ((m * d : Nat) : Int))

/-- a = b for values that are not NaN; −0 equals +0 (R187). -/
def eq (a b : Val) : Bool := match a, b with | .nan, _ => false | _, .nan => false | _, _ => !(lt a b) && !(lt b a)

/-- The sign of a value. -/
def isNeg : Val → Bool | .nan => false | .inf s => s | .fin s _ _ => s

/-- VMAX (R187). -/
def vmax (a b : Val) : Val :=
  match a, b with
  | .nan, _ => .nan
  | _, .nan => .nan
  | _, _ => if lt a b then b else if lt b a then a else if isNeg a then b else a

/-- VMIN (R187). -/
def vmin (a b : Val) : Val :=
  match a, b with
  | .nan, _ => .nan
  | _, .nan => .nan
  | _, _ => if lt a b then a else if lt b a then b else if isNeg a then a else b

/-- The value of an integer. -/
def ofInt (x : Int) : Val := .fin (decide (x < 0)) x.natAbs 1

/-- An integer clamped to `w` bits, as a code (R186). -/
def satInt (w : Nat) (x : Int) : Nat :=
  let hi : Int := 2 ^ (w - 1) - 1
  let lo : Int := -(2 ^ (w - 1))
  ((max lo (min hi x)) % (2 ^ w : Int)).toNat

/-- A signed integer from a `w`-bit code. -/
def intOf (w c : Nat) : Int := let c := c % 2 ^ w; if c < 2 ^ (w - 1) then (c : Int) else (c : Int) - 2 ^ w

/-- A value rounded to an integer and saturated to `w` bits (R186): NaN gives 0, an infinity the limit of its sign. -/
def toInt (w rnd draw : Nat) (v : Val) : Nat :=
  match v with
  | .nan => 0
  | .inf s => satInt w (if s then -(2 ^ w) else 2 ^ w)
  | .fin s n d =>
    let q : Int := (pick rnd draw (n / d) (n % d) d : Nat)
    satInt w (if s then -q else q)

/-! ### The stochastic draw (R185) -/

/-- One step of the 64-bit random state (R185). -/
def srStep (x : Nat) : Nat :=
  let m := 2 ^ 64
  let x := x ^^^ (x <<< 13 % m)
  let x := x ^^^ (x >>> 7)
  (x ^^^ (x <<< 17 % m)) % m

/-- The 16-bit draw of a state that has been stepped. -/
def srVal (x : Nat) : Nat := x / 2 ^ 48

/-- The state after `n` draws. -/
def srSkip : Nat → Nat → Nat
  | 0, x => x
  | n + 1, x => srSkip n (srStep x)

/-- Each of a list of roundings with its own draw under STOCHASTIC, and the random state after. -/
def drawAll {α : Type} (rnd : Nat) (f : Nat → α → Nat) : List α → Nat → List Nat × Nat
  | [], sr => ([], sr)
  | x :: l, sr =>
    let sr' := if rnd = 1 then srStep sr else sr
    let r := drawAll rnd f l sr'
    (f (srVal sr') x :: r.1, r.2)

/-! ### Bit fields of a byte string -/

/-- The `w`-bit elements of `bytes`, `n` of them, read as one little-endian integer (R188). -/
def elems (w n : Nat) (bytes : List Byte) : List Nat :=
  let x := ofLeBytes bytes
  (List.range n).map (fun j => bits x (w * j) w)

/-- The bytes of `w`-bit elements. -/
def unelems (w : Nat) (l : List Nat) : List Byte :=
  leBytes ((w * l.length + 7) / 8) (packBits ((List.range l.length).map (fun j => (w * j, w, l.getD j 0))))

/-! ### Scalar operations -/

/-- FP32 addition to nearest even (R63, R192). -/
def fadd32 (a b : Nat) : Nat := encode fp32 0 0 (add (decode fp32 a) (decode fp32 b))

/-- The sum of two elements of a non-MX format (R180, R186). -/
def addElem (fmt rnd draw a b : Nat) : Nat :=
  match floatFmt fmt with
  | some f => encode f rnd draw (add (decode f a) (decode f b))
  | none => satInt (elemBits fmt) (intOf (elemBits fmt) a + intOf (elemBits fmt) b)

/-- The product of an element of a non-MX format and an FP32 operand (R186). -/
def scaleElem (fmt rnd draw a k : Nat) : Nat :=
  match floatFmt fmt with
  | some f => encode f rnd draw (mul (decode f a) (decode fp32 k))
  | none => toInt (elemBits fmt) rnd draw (mul (ofInt (intOf (elemBits fmt) a)) (decode fp32 k))

/-! ### MX blocks (R188 to R191) -/

/-- The exact value of an MX element before its scale. -/
def mxElem (fmt c : Nat) : Val :=
  match mxFmt fmt with
  | some f => decode f c
  | none => let k := intOf 8 c; .fin (decide (k < 0)) k.natAbs 64

/-- The 32 exact values of a block (R189). -/
def mxDecode (fmt scale : Nat) (cs : List Nat) : List Val :=
  if scale = 0xFF then cs.map (fun _ => .nan)
  else cs.map (fun c => mul (mxElem fmt c) (finVal false 1 ((scale : Int) - 127)))

/-- emax of an MX element format (R190). -/
def mxEmax (fmt : Nat) : Int := match mxFmt fmt with | some f => f.emax | none => 0

/-- The largest magnitude of finite values, as a ratio. -/
def amax : List Val → Nat × Nat
  | [] => (0, 1)
  | .fin _ n d :: l => let r := amax l; if r.1 * d < n * r.2 then (n, d) else r
  | _ :: l => amax l

/-- One value over 2^X rounded to the element format (R190 step 5). -/
def mxRound (fmt rnd draw : Nat) (x : Int) (v : Val) : Nat :=
  let y := mul v (finVal false 1 (-x))
  match mxFmt fmt with
  | some f => encode f rnd draw y
  | none => toInt 8 rnd draw (mul y (ofInt 64))

/-- A block encoded (R190): scale, elements, and the random state after 32 draws. -/
def mxEncode (fmt rnd : Nat) (vs : List Val) (sr : Nat) : Nat × List Nat × Nat :=
  let skip := if rnd = 1 then srSkip vs.length sr else sr
  if vs.any (fun v => match v with | .fin .. => false | _ => true) then (0xFF, vs.map (fun _ => 0), skip)
  else
    let m := amax vs
    if m.1 = 0 then (0x7F, vs.map (fun _ => 0), skip)
    else
      let x := max (ilog2 m.1 m.2 - mxEmax fmt) (-127)
      if 127 < x then (0xFF, vs.map (fun _ => 0), skip)
      else
        let r := drawAll rnd (fun draw v => mxRound fmt rnd draw x v) vs sr
        ((x + 127).toNat, r.1, r.2)

/-- Blocks that a tile of an MX format may hold (R73). -/
def mxLimit (fmt : Nat) : Nat := if fmt = 9 then 120 else if fmt = 7 || fmt = 8 then 81 else 62

/-- BLOCKS and VALID_BYTES of an MX tile agree (R188). -/
def mxHeaderOk (fmt blocks valid : Nat) : Bool :=
  decide (blocks ≤ mxLimit fmt) && valid == blocks * (4 * elemBits fmt + 1)

/-- The elements and scale of block `b` of the data of an MX tile of `n` blocks (R188). -/
def mxBlock (fmt n b : Nat) (data : List Byte) : Nat × List Nat :=
  let w := elemBits fmt
  (((data.drop (4 * w * n + b)).head?.getD 0).toNat, elems w 32 (sliceBytes data (4 * w * b) (4 * w)))

/-- The data bytes of an MX tile with the given blocks (R188). -/
def mxData (fmt : Nat) (bs : List (Nat × List Nat)) : List Byte :=
  padTo 2048 (bs.flatMap (fun b => unelems (elemBits fmt) b.2) ++ bs.map (fun b => BitVec.ofNat 8 b.1))

/-- Blocks encoded one after another. -/
def mxEncodeAll (fmt rnd : Nat) : List (List Val) → Nat → List (Nat × List Nat) × Nat
  | [], sr => ([], sr)
  | vs :: l, sr =>
    let b := mxEncode fmt rnd vs sr
    let r := mxEncodeAll fmt rnd l b.2.2
    ((b.1, b.2.1) :: r.1, r.2)

/-! ### Whole tiles (R191, R192) -/

/-- TADD over the data of two tiles of one format: the sum, and the random state after (R185, R186, R191). -/
def tileAdd (fmt rnd blocks : Nat) (a b : List Byte) (sr : Nat) : List Byte × Nat :=
  if isMx fmt then
    let vs := (List.range blocks).map (fun k =>
      let x := mxBlock fmt blocks k a
      let y := mxBlock fmt blocks k b
      List.zipWith add (mxDecode fmt x.1 x.2) (mxDecode fmt y.1 y.2))
    let r := mxEncodeAll fmt rnd vs sr
    (mxData fmt r.1, r.2)
  else
    let w := elemBits fmt
    let n := 2048 * 8 / w
    let r := drawAll rnd (fun draw (p : Nat × Nat) => addElem fmt rnd draw p.1 p.2) ((elems w n a).zip (elems w n b)) sr
    (unelems w r.1, r.2)

/-- TMULS over the data of a tile and an FP32 operand (R186, R191). -/
def tileScale (fmt rnd blocks : Nat) (a : List Byte) (k sr : Nat) : List Byte × Nat :=
  if isMx fmt then
    let vs := (List.range blocks).map (fun i =>
      let x := mxBlock fmt blocks i a
      (mxDecode fmt x.1 x.2).map (fun v => mul v (decode fp32 k)))
    let r := mxEncodeAll fmt rnd vs sr
    (mxData fmt r.1, r.2)
  else
    let w := elemBits fmt
    let n := 2048 * 8 / w
    let r := drawAll rnd (fun draw x => scaleElem fmt rnd draw x k) (elems w n a) sr
    (unelems w r.1, r.2)

end Num
end Sys2Proof
end

