-- ==== Sys2Proof/Machine/Requests.lean ====
section
/-!
DEFINITION. Machine/Requests.lean: an end-point as a requester: segment translation (R277, R278), tags and sequences (R80,
R258), attempts and cocoon (R255, R270, R271), the near cache (R267), completion of requests and descriptors (R250, R251,
R260) and result data (R322).
-/
namespace Sys2Proof.Machine
open Sys2Proof

/-! ### Local memory -/

/-- Whether a read of an op's address waits for a seal of the same address under way (R76). -/
def sealBusy (s : State) (e addr : Nat) : Bool :=
  s.host.ops.any (fun o => o.ep == e && o.addr == addr && o.st == 2 && (match o.what with | .seal _ _ => true | _ => false))

/-- Whether an op seals a tile. -/
def HostFor.seals : HostFor → Bool
  | .seal _ _ => true
  | _ => false

/-- The AtomicOp of R318 for an AOP: FetchAdd, Swap or CAS; none where it takes read and CAS. -/
def atomicOpOf (aop : Nat) : Option Nat := if aop = 0 then some 0 else if aop = 2 then some 1 else if aop = 3 then some 2 else none

/-- The new value of an ATOMIC over the old one, at `w` bits (R63, R186, R192). -/
def atomicNew (aop w old a b : Nat) : Nat :=
  let m := 2 ^ w
  let old := old % m
  let a := a % m
  match aop with
  | 0 => (old + a) % m
  | 1 => Num.fadd32 old a % m
  | 2 => a
  | 3 => if old = b % m then a else old
  | 4 => old &&& a
  | 5 => old ||| a
  | 6 => old ^^^ a
  | 7 => if toSigned w old < toSigned w a then a else old
  | _ => if toSigned w a < toSigned w old then a else old

/-- Bytes an ATOMIC works on. -/
def atomBytes (h : Hdr) : Nat := if h.x 36 1 = 1 then 8 else 4

/-- `n` bytes from `a` cut at every 4,096 B boundary, so that no read asks for more than the largest Max Read Request Size of R298; `fuel` bounds
the parts. -/
def cut4k (a n : Nat) : Nat → List (Nat × Nat)
  | 0 => []
  | fuel + 1 => if n = 0 then [] else let k := min n (4096 - a % 4096); (a, k) :: cut4k (a + k) (n - k) fuel

/-- The PCIe reads of translated runs. -/
def readCuts (rs : List (Nat × Nat × Nat)) : List (Nat × Nat) := rs.flatMap (fun r => cut4k r.2.2 r.2.1 (r.2.1 / 4096 + 2))

/-- The PCIe transactions of a local access whose bytes lie at `rs` (R281, R318): an AtomicOp, or reads of at most 4,096 B each; reads of
descriptors carry Relaxed Ordering (R298). Their completions come back as one. -/
def hostIssue (s : State) (o : HostOp) (rs : List (Nat × Nat)) : State :=
  let pa := match rs with | r :: _ => r.1 | [] => o.addr
  match o.what with
  | .atomicOp h => emitOut s (.hostAtomic o.ep o.func o.tag pa ((atomicOpOf (h.x 32 4)).getD 0) (atomBytes h) (h.x 64 64) (h.x 128 64))
  | .casTry h _ old =>
    emitOut s (.hostAtomic o.ep o.func o.tag pa 2 (atomBytes h)
      (atomicNew (h.x 32 4) (8 * atomBytes h) old (h.x 64 64) (h.x 128 64)) old)
  | .desc .. => rs.foldl (fun s r => emitOut s (.hostRead o.ep o.func o.tag r.1 r.2 true)) s
  | _ => rs.foldl (fun s r => emitOut s (.hostRead o.ep o.func o.tag r.1 r.2 false)) s

/-- The access entered in the list of accesses under way with state `st`. -/
def hostPut (s : State) (o : HostOp) : State :=
  { s with host := { s.host with ops := s.host.ops.filter (fun x => x.tag != o.tag) ++ [o] } }

/-- Whether an op needs write access, and whether it needs read access (R281). -/
def HostFor.writes : HostFor → Bool
  | .seal _ _ | .atomicOp _ | .casTry _ _ _ | .arrive _ | .fire _ _ => true
  | _ => false
/-- Whether an op needs read access. -/
def HostFor.reads : HostFor → Bool
  | .arrive _ | .fire _ _ => false
  | _ => true

/-- Bytes from its address for which an op needs its translation: a seal writes the whole tile (R76). -/
def HostOp.span (o : HostOp) : Nat := if o.what.seals then tileLen else o.len

/-- Where the bytes of an op lie, with the access that it needs (R281). -/
def opRuns (s : State) (o : HostOp) : Except Nat (List (Nat × Nat × Nat)) := localRuns s o.ep o.func o.addr o.span o.what.writes o.what.reads

/-- The PCIe requests of an op whose bytes lie at `rs`; a seal reads the stored first bytes alone. -/
def opCuts (o : HostOp) (rs : List (Nat × Nat × Nat)) : List (Nat × Nat) :=
  let l := readCuts rs
  if o.what.seals then (l.take 1).map (fun r => (r.1, o.len)) else l

/-- A local access started: untranslated, through cached translations, or after an ATS Translation Request (R281); it waits for tags where the
port has too few left (R298). An access of more requests than the port has tags takes them all. -/
def hostGo (s : State) (o : HostOp) : State :=
  let used := hostOut { s with host := { s.host with ops := s.host.ops.filter (fun x => x.tag != o.tag) } } o.ep
  if o.what.seals && sealBusy s o.ep o.addr then hostPut s { o with st := 1 }
  else
    match opRuns s o with
    | .ok rs =>
      let cuts := opCuts o rs
      let n := min cuts.length (tagLimit s o.ep)
      if tagLimit s o.ep < used + n then hostPut s { o with st := 3 } else hostPut (hostIssue s o cuts) { o with st := 2, reqs := n }
    | .error a =>
      if tagLimit s o.ep < used + 1 then hostPut s { o with st := 3 } else askPage (hostPut s { o with st := 0 }) o.ep o.func a false

/-- A new local access of function `func` of end-point `e`. -/
def hostOp (s : State) (e func addr len : Nat) (what : HostFor) : State :=
  let t := s.host.nextTag
  hostGo { s with host := { s.host with nextTag := t + 1 } }
    { tag := t, ep := e, func := func, addr := addr, len := len, what := what, st := 0, dead := false }

/-- The access `t` taken off the list. -/
def hostDone (s : State) (t : Nat) : State := { s with host := { s.host with ops := s.host.ops.filter (fun o => o.tag != t) } }

/-! ### Segments (R277, R278) -/

/-- A segment entry maps (R277): VALID, no reserved bit, NGRAN not 0, and the FPA range inside its end-point. One that names the broadcast ID
maps nothing, as no packet may be sent there (R45; DEDUCED, log entry 62). -/
def segValid (e : Nat) : Bool :=
  bitAt e 0 && bits e 11 5 == 0 && bits e 24 40 == 0 && bits e 100 28 == 0 && bits e 156 36 == 0 && bits e 231 25 == 0 &&
  bits e 128 28 != 0 && decide (bits e 192 27 + bits e 128 28 ≤ 2 ^ 27) && bits e 219 12 != 0xFFF

/-- First FVA of a segment and the FVA past its end. -/
def segLo (e : Nat) : Nat := bits e 64 36 * 2 ^ 21
/-- The FVA past a segment's end. -/
def segHi (e : Nat) : Nat := segLo e + bits e 128 28 * 2 ^ 21

/-- The segment that translates FVA `v`: the lowest-numbered that maps it (R278). -/
def segFor (table : List Nat) (v : Nat) : Option Nat := table.find? (fun e => segValid e && decide (segLo e ≤ v) && decide (v < segHi e))

/-- The FPA of FVA `v` through segment `e` (R278). -/
def segFpa (e v : Nat) : Nat := bits e 192 39 * 2 ^ 21 + (v - segLo e)

/-- The next FVA above `v` at which another segment may take over: an end or a start of a mapping segment. -/
def segNext (table : List Nat) (v : Nat) : Nat :=
  (((table.filter segValid).flatMap (fun e => [segLo e, segHi e])).filter (fun x => decide (v < x))).min?.getD (v + 2 ^ 58)

/-- Whether a segment grants a permission bit (1 R, 2 W, 3 A, 4 O; 0 any). -/
def segPerm (e bit : Nat) : Bool := bit == 0 || bitAt e bit

/-- The held table of context `c`, where every entry is held (R279). -/
def segTable (s : State) (c : Nat) : Option (List Nat) :=
  match findKey s.ep.segs c with
  | some l => if l.all (fun e => e.isSome) then some (l.map (fun e => e.getD 0)) else none
  | none => none

/-- The table of context `c` entered in the segment cache of 1,024 entries, the oldest table leaving first (R279). -/
def segPut (s : State) (c : Nat) (t : List Nat) : State :=
  let e := ctxEp s c
  let mine := (s.ep.segs.filter (fun x => x.1 != c && ctxEp s x.1 == e)).reverse.take 63 |>.reverse
  let others := s.ep.segs.filter (fun x => x.1 != c && ctxEp s x.1 != e)
  { s with ep := { s.ep with segs := others ++ mine ++ [(c, t.map some)] } }

/-- A piece of a transfer (R249): offset, length, whether it is bulk, and its FVA. -/
structure Piece where
  off : Nat
  len : Nat
  bulk : Bool
  v : Nat
deriving DecidableEq, Repr

/-- Steps 1 to 3 of R249 over one side of `n` bytes, from offset `off` at FVA `v`; `fuel` bounds the pieces. -/
def cutRun (off v n : Nat) : Nat → List Piece
  | 0 => []
  | fuel + 1 =>
    if n = 0 then []
    else if 2048 ≤ n then ⟨off, 2048, true, v⟩ :: cutRun (off + 2048) (v + 2048) (n - 2048) fuel
    else if 257 ≤ n then [⟨off, n, true, v⟩]
    else if v % 256 + n ≤ 256 then [⟨off, n, false, v⟩]
    else
      let k := 256 - v % 256
      [⟨off, k, false, v⟩, ⟨off + k, n - k, false, v + k⟩]

/-- The pieces of a transfer of `n` bytes at FVA `v`: cut at every segment boundary, each side by R249. -/
def cutAll (table : List Nat) (off v n : Nat) : Nat → List Piece
  | 0 => []
  | fuel + 1 =>
    if n = 0 then []
    else
      let k := min n (segNext table v - v)
      cutRun off v k (k / 2048 + 2) ++ cutAll table (off + k) (v + k) (n - k) fuel

/-! ### Tags, sequences and bars (R80, R258, R259) -/

/-- Crossbar port of end-point `e`. -/
def epPort (e : Nat) : Nat := 224 + e

/-- The request has a TAG. -/
def Reqst.tagged (r : Reqst) : Bool := r.st != 5

/-- The request waits to be sent: with its TAG, or for one. -/
def Reqst.waits (r : Reqst) : Bool := r.st == 0 || r.st == 5

/-- Tag `t` of end-point `e` is in use, or held after its request (R80, R313). -/
def tagBusy (s : State) (e t : Nat) : Bool :=
  s.ep.reqs.any (fun r => r.ep == e && r.tagged && r.h.tag.toNat == t) ||
  (match findKey s.host.tagHold (65536 * e + t) with | some x => decide (s.now < x) | none => false)

/-- The first free tag among the `n` from `t` on, wrapping. -/
def tagFrom (s : State) (e t : Nat) : Nat → Option Nat
  | 0 => none
  | n + 1 => if tagBusy s e t then tagFrom s e ((t + 1) % 65536) n else some t

/-- The next tag of end-point `e`: tags are taken in turn (DESIGN CHOICE, log entry 14); none while every one is in use or held (R80). -/
def freeTag (s : State) (e : Nat) : Option Nat := tagFrom s e ((findKey s.ep.tagNext e).getD 0) 65536

/-- The key of a sequence space or record. -/
def seqKey (e peer tc : Nat) : Nat := (e * 4096 + peer) * 8 + tc

/-- The sequence space of end-point `e` toward DEST and TC on its plane. -/
def spaceOf (s : State) (k : Nat) : SeqSpace := (findKey s.ep.spaces k).getD { next := 0, lastSent := 0, sole := none }

/-- The request that a sequence space must wait for (R258): sent on it, and not complete. -/
def soleLive (s : State) (sp : SeqSpace) : Option Nat :=
  match sp.sole with
  | some i => if s.ep.reqs.any (fun r => r.id == i && r.st != 3 && r.st != 4 && r.st != 6) then some i else none
  | none => none

/-- End-point `e` may send requests on its plane: its HOSTPORT is in service and the hold of R258 is over. -/
def epUp (s : State) (e : Nat) : Bool :=
  (running s (fHost e) || fnState s (fHost e) == 3) &&
  (match findKey s.ep.downAt e with | some t => decide (t + ms 3 ≤ s.now) | none => true)

/-- DEST is barred for end-point `e` (R258). -/
def barred (s : State) (e dest : Nat) : Bool :=
  match findKey s.ep.bars (4096 * e + dest) with | some t => decide (s.now < t) | none => false

/-- The queue of a request is ORDERED: by CTX.SQ_ORDERED, and always for the window stream (R254, R303). -/
def orderedQ (s : State) (c q : Nat) : Bool := q == 4 || bitAt (rd s (Reg.EP.CTX.SQ_ORDERED c)) q

/-- Requests of one ORDERED pair (R255): a context and a DEST over its ORDERED queues, or the window stream and a DEST. -/
def samePair (s : State) (r x : Reqst) : Bool :=
  x.ep == r.ep && x.h.dest == r.h.dest && orderedQ s x.ctx x.q && (x.ctx == r.ctx || (r.q == 4 && x.q == 4))

/-- An earlier request of the same ORDERED pair waits or is in COCOON (R255, R271). -/
def pairBlocked (s : State) (r : Reqst) : Bool :=
  orderedQ s r.ctx r.q && s.ep.reqs.any (fun x => decide (x.id < r.id) && samePair s r x && (x.waits || x.st == 2))

/-- An earlier request of the same message waits (R263). -/
def messageBlocked (s : State) (r : Reqst) : Bool :=
  (r.h.k == some .signal) && s.ep.reqs.any (fun x => decide (x.id < r.id) && x.ep == r.ep && x.ctx == r.ctx && x.q == r.q &&
    x.h.dest == r.h.dest && x.waits)

/-- Numbers of the sequence space `k` of end-point `e` that have no answer (R80): those of the attempts of each request that is not complete, and
those of relayed requests. -/
def unanswered (s : State) (e : Nat) (h : Hdr) : Nat :=
  ((s.ep.reqs.filter (fun x => x.ep == e && x.st != 3 && x.st != 4 && x.st != 6 && x.h.dest == h.dest && x.h.tc == h.tc)).map (fun x => x.attempts)).sum +
    (s.ep.relays.filter (fun r => r.2.2.1 == seqKey e h.dest.toNat h.tc.toNat && decide (s.now < r.2.2.2 + ms 2))).length

/-- A waiting request may be sent now. -/
def canSend (s : State) (r : Reqst) : Bool :=
  let sp := spaceOf s (seqKey r.ep r.h.dest.toNat r.h.tc.toNat)
  epUp s r.ep && !barred s r.ep r.h.dest.toNat && !pairBlocked s r && !messageBlocked s r &&
  (match soleLive s sp with | some i => i == r.id | none => true) &&
  decide (unanswered s r.ep r.h < 16384)

/-- A request replaced in the list. -/
def setReq (s : State) (r : Reqst) : State :=
  { s with ep := { s.ep with reqs := s.ep.reqs.map (fun x => if x.id = r.id then r else x) } }

/-- The home plane of a request by the present plane list (R79). -/
def homeNow (s : State) (r : Reqst) : Nat := homePlane r.h.addr.toNat (planesOf (rd s (Reg.EP.EP_PLANES.PLANE_LIST r.ep)))

/-- One attempt of a request sent (R270, R271): a fresh SEQ, RETRY on every attempt after the first and on a re-issue, the
tag generation and attempt number in COOKIE (R259); a homed kind goes to its present home plane, by relay where that is another (R78, R235). -/
def sendReq (s : State) (r : Reqst) : State :=
  let k := seqKey r.ep r.h.dest.toNat r.h.tc.toNat
  let sp := spaceOf s k
  let idle := !(decide (s.now < sp.lastSent + ms 1)) || (findKey s.ep.spaces k).isNone
  let n := r.attempts + 1
  let attr := if 2 ≤ n || r.again then r.h.attr ||| 0x40 else r.h.attr
  let ext := BitVec.ofNat 256 (r.h.ext.toNat / 2 ^ 32 * 2 ^ 32 + (r.gen * 4 + n % 4) % 2 ^ 32)
  let h := { r.h with seq := BitVec.ofNat 16 sp.next, attr := attr, ext := ext, rly := if r.h.homed && homeNow s r != planeId s then 1 else 0 }
  let sp' : SeqSpace :=
    { next := (sp.next + 1) % 65536, lastSent := s.now, sole := if idle then some r.id else soleLive s sp }
  let s := { s with ep := { s.ep with spaces := setKey s.ep.spaces k sp' } }
  let s := if 2 ≤ n then cnt s (Reg.EP.EP_COUNT_A.RETRIES r.ep) else s
  let home := if r.attempts = 0 && !r.again then homeNow s r else r.homeAt
  let s := setReq s { r with st := 1, attempts := n, first := if r.attempts = 0 then s.now else r.first, sentAt := s.now, h := h, homeAt := home }
  offer s (epPort r.ep) (mkPacket s h r.payload)

/-- Request `r`, which waits for a TAG, takes TAG `t` in a new generation (R80, R259). -/
def giveTag (s : State) (r : Reqst) (t : Nat) : State :=
  let g := (((findKey s.ep.gens (65536 * r.ep + t)).getD 0) + 1) % 2 ^ 30
  let s := setReq s { r with st := 0, h := { r.h with tag := BitVec.ofNat 16 t }, gen := g }
  { s with ep := { s.ep with tagNext := setKey s.ep.tagNext r.ep ((t + 1) % 65536), gens := setKey s.ep.gens (65536 * r.ep + t) g } }

/-- A request put on the list, with a tag of its own and a new generation, or waiting for a tag (R80, R259); `pump` sends it. -/
def addReq (s : State) (e c q : Nat) (parts : List (Nat × Nat × Nat × Nat)) (h : Hdr) (payload : List Byte) (reread : Bool) (torn : Nat) : State :=
  let r : Reqst :=
    { id := s.ep.nextId, ep := e, ctx := c, q := q, parts := parts, h := h, payload := payload,
      st := 5, attempts := 0, first := 0, sentAt := 0, gen := 0, again := false, reread := reread, torn := torn,
      homeAt := homePlane h.addr.toNat (planesOf (rd s (Reg.EP.EP_PLANES.PLANE_LIST e))), out := none }
  let t := { s with ep := { s.ep with nextId := s.ep.nextId + 1, reqs := s.ep.reqs ++ [r] } }
  match freeTag s e with
  | some n => giveTag t r n
  | none => t

/-- The next SEQ of the device's requests to `dest` in class `tc` under the service ID (R80). -/
def cellSeq (s : State) (dest tc : Nat) : Nat × State :=
  let k := seqKey 2 dest tc
  let sp := spaceOf s k
  (sp.next, { s with ep := { s.ep with spaces := setKey s.ep.spaces k { next := (sp.next + 1) % 65536, lastSent := s.now, sole := none } } })

/-! ### The near cache (R266, R267) -/

/-- Lines of end-point `e` and context `c` for which `f` of the granule holds leave the near cache. -/
def nearDrop (s : State) (f : Nat → Nat → Nat → Bool) : State :=
  { s with ep := { s.ep with near := s.ep.near.filter (fun l => !(f l.1 l.2.1 l.2.2.1)) } }

/-- The granules that `[a, a + n)` touches lie in the near cache: the bytes. -/
def nearRead (s : State) (e c a n : Nat) : Option (List Byte) :=
  let gs := (List.range ((a + n + 63) / 64 - a / 64)).map (fun i => a / 64 + i)
  let ls := gs.map (fun g => s.ep.near.find? (fun l => l.1 == e && l.2.1 == c && l.2.2.1 == g))
  if n ≠ 0 && ls.all (fun l => l.isSome) then
    some (((ls.flatMap (fun l => match l with | some x => x.2.2.2 | none => [])).drop (a % 64)).take n)
  else none

/-- One line allocated; the oldest of 262,144 lines of the end-point leaves first. -/
def nearPut (s : State) (e c g : Nat) (b : List Byte) : State :=
  let rest := s.ep.near.filter (fun l => !(l.1 == e && l.2.1 == c && l.2.2.1 == g))
  let mine := rest.filter (fun l => l.1 == e)
  let rest := if mine.length < 262144 then rest else
    match mine.head? with | some old => rest.erase old | none => rest
  { s with ep := { s.ep with near := rest ++ [(e, c, g, b)] } }

/-- The granules that read data covers wholly are allocated (R267). -/
def nearFill (s : State) (e c a : Nat) (data : List Byte) : State :=
  (wholeGranules a data.length).foldl (fun s g => nearPut s e c g (sliceBytes data (g * 64 - a) 64)) s

/-- The lines of a context that `[a, a + n)` touches are invalidated. -/
def nearKill (s : State) (e c a n : Nat) : State :=
  nearDrop s (fun e' c' g => e' == e && c' == c && decide (a / 64 ≤ g) && decide (g * 64 < a + n))

/-! ### Results and completion (R250, R251, R260, R322) -/

/-- A field of a descriptor (R247). -/
def Desc.f (d : Desc) (lo w : Nat) : Nat := bits d.d lo w
/-- OPCODE of a descriptor. -/
def Desc.op (d : Desc) : Nat := d.f 0 8
/-- COOKIE of a descriptor. -/
def Desc.cookie (d : Desc) : Nat := d.f 64 64
/-- LEN of a descriptor. -/
def Desc.len (d : Desc) : Nat := d.f 32 32
/-- Local result address: LADDR of reads, OPERAND1 of GATHER and SWARM. -/
def Desc.dst (d : Desc) : Nat := if d.op = 7 || d.op = 8 then d.f 256 64 else d.f 128 64

/-- The descriptor with number `i`. -/
def descOf (s : State) (i : Nat) : Option Desc := s.ep.descs.find? (fun d => d.id == i)
/-- A descriptor replaced. -/
def setDesc (s : State) (d : Desc) : State :=
  { s with ep := { s.ep with descs := s.ep.descs.map (fun x => if x.id = d.id then d else x) } }

/-- A piece that did not complete OK noted: the lowest offset decides (R251). -/
def Desc.fail (d : Desc) (off cc detail : Nat) : Desc :=
  match d.bad with
  | some (o, _, _) => if off < o then { d with bad := some (off, cc, detail) } else d
  | none => { d with bad := some (off, cc, detail) }

/-- Where result byte `off` of a descriptor lands in local memory, past `LEN` rounded up to 64 B for the chunk tags (R322). -/
def confTagAddr (base n i : Nat) : Nat := base + (n + 63) / 64 * 64 + 16 * i

/-- One whole result chunk sealed and written (R322). -/
def confChunk (s : State) (d : Desc) (n i : Nat) (data : List Byte) : State :=
  let nn := d.rc * 2 ^ 24 + (1 + i)
  let r := confSeal s (ctxKey s d.ctx) nn (leBytes 8 nn) data
  let e := ctxEp s d.ctx
  let f := ctxFunc s d.ctx
  dmaWrite (dmaWrite s e f (d.dst + 2048 * i) r.1 (4097 + d.id)) e f (confTagAddr d.dst n i) (leBytes 16 r.2) (4097 + d.id)

/-- Bytes of chunk `i` of `n`. -/
def chunkLen (n i : Nat) : Nat := min 2048 (n - 2048 * i)

/-- Result bytes of one chunk gathered; a chunk that has arrived whole is written (R322). -/
def confPart (s : State) (id n off : Nat) (data : List Byte) : State :=
  match descOf s id with
  | none => s
  | some d =>
    let i := off / 2048
    let got := ((findKey d.chunks i).getD []).filter (fun x => x.1 != off) ++ [(off, data)]
    if (got.map (fun x => x.2.length)).sum ≥ chunkLen n i then
      let sorted := got.mergeSort (fun a b => a.1 ≤ b.1)
      confChunk (setDesc s { d with chunks := delKey d.chunks i }) d n i (sorted.flatMap (fun x => x.2))
    else setDesc s { d with chunks := setKey d.chunks i got }

/-- Result bytes gathered into their chunks: a piece that lies across chunks is parted at their boundaries (R322). -/
def confResult (s : State) (id n off : Nat) (data : List Byte) : State :=
  (List.range ((off + data.length + 2047) / 2048 - off / 2048)).foldl (fun s j =>
    let lo := max off (2048 * (off / 2048 + j))
    confPart s id n lo ((data.drop (lo - off)).take (2048 * (off / 2048 + j + 1) - lo))) s

/-- Result data of `n` bytes in all at offset `off` of descriptor `i`: written to local memory in the clear, or as chunks. -/
def result (s : State) (i n off : Nat) (data : List Byte) : State :=
  match descOf s i with
  | none => s
  | some d =>
    let d := { d with moved := d.moved + data.length }
    let s := setDesc s d
    if d.q = 4 then setDesc s { d with chunks := insKey off [(off, data)] d.chunks }
    else if confOn s (ctxKey s d.ctx) then confResult s i n off data
    else dmaWrite s (ctxEp s d.ctx) (ctxFunc s d.ctx) (d.dst + off) data (4097 + d.id)

/-- A request off the list: its tag held 2 ms for the kinds of R80. -/
def dropReq (s : State) (r : Reqst) : State :=
  let s := { s with ep := { s.ep with reqs := s.ep.reqs.filter (fun x => x.id != r.id) } }
  if !r.tagged then s else
  match r.h.k with
  | some .atomic | some .own | some .signal =>
    { s with host := { s.host with tagHold := setKey s.host.tagHold (65536 * r.ep + r.h.tag.toNat) (s.now + ms 2) } }
  | _ => if r.h.sig then
      { s with host := { s.host with tagHold := setKey s.host.tagHold (65536 * r.ep + r.h.tag.toNat) (s.now + ms 2) } } else s

/-- A descriptor with one request fewer to wait for; `n` bytes moved where it completed OK (R251). -/
def descLess (s : State) (i : Nat) (off n cc detail res res2 : Nat) : State :=
  match descOf s i with
  | none => s
  | some d =>
    let d := { d with live := d.live - 1 }
    let d := if cc = 0 then { d with result := res, result2 := res2, moved := d.moved + n } else d.fail off cc detail
    setDesc s d

/-- A window access whose requests have all completed (R303): a load is answered with its data, or with all ones for any other
outcome, which counts as unmapped; an acquire load invalidates the near-cache lines of its context (R266). -/
def windowDone (s : State) (i : Nat) : State :=
  match descOf s i with
  | none => s
  | some d =>
    if d.q ≠ 4 || !d.issued || d.live ≠ 0 then s
    else
      let s := { s with ep := { s.ep with descs := s.ep.descs.filter (fun x => x.id != i) } }
      let s := if bitAt d.d 11 then nearDrop s (fun e c _ => e == d.ep && c == d.ctx) else s
      let s := if d.bad.isSome then cnt s (Reg.HOSTPORT.HP_COUNT.WIN_UNMAPPED d.ep) else s
      match findKey s.host.loads i with
      | none => s
      | some l =>
        let data := if d.bad.isSome then List.replicate l.len 0xFF else padTo l.len (d.chunks.flatMap (fun c => c.2.flatMap (fun x => x.2)))
        emitOut { s with host := { s.host with loads := delKey s.host.loads i } } (.loadReply l.port l.func l.tag data)

/-- COOKIE of the first descriptor of a request. -/
def reqCookie (s : State) (r : Reqst) : Nat :=
  match r.parts.head? with | some p => (match descOf s p.1 with | some d => d.cookie | none => 0) | none => 0

/-- The credit whose message this SIGNAL ends is free again (R263). -/
def creditFree (s : State) (r : Reqst) : State :=
  if r.h.k == some .signal then
    { s with ep := { s.ep with credits := s.ep.credits.map (fun c => if c.busy == some r.id then { c with busy := none, used := s.now } else c) } }
  else s

/-- A homed kind that must not be retried on another home plane (R235, R296): an ATOMIC, or an ACQUIRE, RELEASE or PUBLISH. -/
def indeterminate (h : Hdr) : Bool :=
  match h.k with | some .atomic => true | some .own => decide (1 ≤ h.x 32 4 ∧ h.x 32 4 ≤ 3) | _ => false

/-- A further attempt of `r` has no home plane to go to (R235): the plane list has changed since the first attempt and gives another. -/
def homeLost (s : State) (r : Reqst) : Bool := indeterminate r.h && (decide (1 ≤ r.attempts) || r.again) && r.homeAt != homeNow s r

/-- A request completes with a CCODE (R271): its descriptors, its window access, its step fault (R274). -/
def endReq (s : State) (r : Reqst) (cc detail res res2 : Nat) : State :=
  let cookie := reqCookie s r
  let s := creditFree (dropReq s r) r
  let wrote := match r.h.k with | some .write | some .writeBulk | some .writeTile => true | _ => false
  let s := r.parts.foldl (fun s p => windowDone (descLess s p.1 p.2.1 (if wrote then p.2.2.1 else 0) cc detail res res2) p.1) s
  let s := if ccStepFault cc then stepFault s r.ctx cc cookie r.h.dest.toNat else s
  ctxStatus s r.ctx

/-- Request `i`, which waits for a TAG, takes one that has become free (R80). -/
def tryTag (s : State) (i : Nat) : State :=
  match s.ep.reqs.find? (fun x => x.id == i && x.st == 5) with
  | some r => (match freeTag s r.ep with | some t => giveTag s r t | none => s)
  | none => s

/-- Swarm requests of end-point `e` may be sent to its plane's service ID (R258). -/
def swReady (s : State) (e : Nat) : Bool := epUp s e && !barred s e (serviceId s)

/-- A swarm request of end-point `e` sent, numbered in its sequence (R80, R200). -/
def swNow (s : State) (e : Nat) (h : Hdr) (payload : List Byte) : State :=
  let key := seqKey e h.dest.toNat h.tc.toNat
  let sp := spaceOf s key
  let sp' : SeqSpace := { sp with next := (sp.next + 1) % 65536, lastSent := s.now }
  offer { s with ep := { s.ep with spaces := setKey s.ep.spaces key sp' } } (epPort e) (mkPacket s { h with seq := BitVec.ofNat 16 sp.next } payload)

/-- The swarm requests of end-point `e` that waited are sent, in order, once they may be (R258). -/
def swFlush (s : State) (e : Nat) : State :=
  if swReady s e then
    (s.ep.swWait.filter (fun w => w.1 == e)).foldl (fun s w => swNow { s with ep := { s.ep with swWait := s.ep.swWait.erase w } } e w.2.2.1 w.2.2.2) s
  else s

/-- Every waiting request that may be sent is sent, in issue order; one that has lost its home plane completes INDETERMINATE with no send
(R235). Swarm requests that waited go with them. -/
def pump (s : State) (e : Nat) : State :=
  swFlush ((s.ep.reqs.filter (fun r => r.ep == e && r.waits)).foldl (fun s r =>
    let s := tryTag s r.id
    match s.ep.reqs.find? (fun x => x.id == r.id && x.st == 0) with
    | some r => if homeLost s r then endReq s r ccIndeterminate 0 0 0 else if canSend s r then sendReq s r else s
    | none => s) s) e

/-- A request completes, and what waited for it goes on. -/
def finishReq (s : State) (r : Reqst) (cc detail res res2 : Nat) : State := pump (endReq s r cc detail res res2) r.ep

/-- The time before which a retried write does not complete (R260). -/
def writeRelease (s : State) (r : Reqst) : Nat := r.first + us (rd s (Reg.EP.EP_TIMING.STALE_US r.ep)) + 4096

/-- Whether R260 holds a request's completion back. -/
def holdBack (s : State) (r : Reqst) : Bool :=
  (match r.h.k with | some .write | some .writeBulk | some .writeTile => true | _ => false) && decide (2 ≤ r.attempts || r.again) &&
  decide (s.now < writeRelease s r)

/-- The completion of a request, now or at the time of R260. -/
def answerReq (s : State) (r : Reqst) (cc detail res res2 : Nat) : State :=
  if holdBack s r then setReq s { r with st := 3, out := some (cc, detail) } else finishReq s r cc detail res res2

/-! ### Attempts (R255, R270, R271) -/

/-- The request moves to COCOON: counted, and the context's first for that DEST posts a COCOON event (R271). -/
def cocoon (s : State) (r : Reqst) : State :=
  let first := !(s.ep.reqs.any (fun x => x.ctx == r.ctx && x.st == 2 && x.h.dest == r.h.dest))
  let s := cnt (setReq s { r with st := 2 }) (Reg.EP.EP_COUNT_A.COCOONED r.ep)
  let s := if first then postEvent s r.ctx 3 0 r.h.dest.toNat (reqCookie s r) 0 else s
  ctxStatus s r.ctx

/-- The requests that a failed attempt resends: itself, and in an ORDERED pair every later outstanding packet (R255). -/
def resendSet (s : State) (r : Reqst) : List Reqst :=
  if orderedQ s r.ctx r.q then s.ep.reqs.filter (fun x => decide (r.id ≤ x.id) && samePair s r x && x.st == 1) else [r]

/-- An attempt of request `r` has failed (R271): the next attempt, unless its home plane is lost (R235), or COCOON after three. -/
def failAttempt (s : State) (r : Reqst) : State :=
  if r.attempts < 3 || homeLost s r then pump ((resendSet s r).foldl (fun s x => setReq s { x with st := 0 }) s) r.ep else cocoon s r

/-- When the present attempt of a request expires. -/
def attemptEnds (s : State) (r : Reqst) : Nat := r.sentAt + us (rd s (Reg.EP.EP_TIMING.ATTEMPT_US r.ep))

/-- When packet `p` was stamped, on the time that timers run on (R97). -/
def stampedAt (s : State) (p : Packet) : Nat := s.now - (s.time.toNat - p.stamp)

/-- The packets stamped and on their way to the unit at crossbar port `x`: in a VOQ or in its arrival queue. -/
def onWay (s : State) (x : Nat) : List Packet :=
  (s.sw.pkts.filter (fun q => q.outs.contains x)).map (fun q => q.p) ++ (s.inbox.filter (fun q => q.1 == x)).map (fun q => q.2)

/-- WRITE_COMPLETION_RELEASE (R260). -/
def execWriteCompletionRelease (id : Nat) (s : State) : Host.Outcome State Fault Refusal :=
  .next (match s.ep.reqs.find? (fun r => r.id == id && r.st == 3) with
    | some r => if writeRelease s r ≤ s.now then finishReq s r (r.out.getD (0, 0)).1 (r.out.getD (0, 0)).2 0 0 else s
    | none => s)

/-- PLANE_BAR_EXPIRE (R258): the bar of a DEST ends and waiting requests go on. -/
def execPlaneBarExpire (e : Fin 2) (dest : BitVec 12) (s : State) : Host.Outcome State Fault Refusal :=
  .next (if barred s e.val dest.toNat then s
    else pump { s with ep := { s.ep with bars := delKey s.ep.bars (4096 * e.val + dest.toNat) } } e.val)

/-- LINK_UP_SEND_HOLD_EXPIRE (R258): 3 ms after the end-point's link to its plane went down. -/
def execLinkUpSendHoldExpire (e : Fin 2) (s : State) : Host.Outcome State Fault Refusal :=
  .next (match findKey s.ep.downAt e.val with
    | some t => if t + ms 3 ≤ s.now then pump { s with ep := { s.ep with downAt := delKey s.ep.downAt e.val } } e.val else s
    | none => s)

/-- PAIR_PLANE_RESET (R255): a moved pair plane returns to its hashed value after 4 ms without traffic. A Vovis end-point has
one plane, so that no request of it is sent elsewhere before or after. -/
def execPairPlaneReset (c dest : BitVec 12) (s : State) : Host.Outcome State Fault Refusal :=
  let k := 4096 * c.toNat + dest.toNat
  .next (match findKey s.ep.pairs k with
    | some (_, t) => if t + ms 4 ≤ s.now then { s with ep := { s.ep with pairs := delKey s.ep.pairs k } } else s
    | none => s)

/-- FLR_TAG_RELEASE (R313, R80): held tags whose 2 ms are over are free again. -/
def execFlrTagRelease (s : State) : Host.Outcome State Fault Refusal :=
  .next { s with host := { s.host with tagHold := s.host.tagHold.filter (fun t => decide (s.now < t.2)) } }

/-! ### Completion entries (R246, R251) -/

/-- The completion queue of context `c` holds a free slot for one more descriptor (R246). -/
def cqRoom (s : State) (c : Nat) : Bool :=
  let r := ctxRun s c
  decide (r.cqTail - r.cqHead + (s.ep.descs.filter (fun d => d.ctx == c && d.q != 4)).length + 1 < ringSize (rd s (Reg.EP.CTX.CQ_LOG2 c)))

/-- RESULT2 of a completion entry (R251): owner for OWN, 0 for ATOMIC's own result word, otherwise bytes moved. -/
def cqResult2 (d : Desc) : Nat := if d.op = 6 then d.result2 % 4096 else d.moved

/-- The 256 bits of a completion entry (R251). -/
def cqBits (d : Desc) (phase : Nat) : Nat :=
  packBits [(0, 64, d.cookie), (64, 8, match d.bad with | some b => b.2.1 | none => 0),
    (72, 8, match d.bad with | some b => b.2.2 | none => 0), (80, 2, d.q), (82, 1, phase), (96, 16, d.idx),
    (128, 64, if d.op = 5 || d.op = 6 then d.result else 0), (192, 64, cqResult2 d)]

/-- The completion entry of a descriptor written at the tail of its completion queue (R246, R251, R321). -/
def cqWrite (s : State) (d : Desc) : State :=
  let r := ctxRun s d.ctx
  let size := ringSize (rd s (Reg.EP.CTX.CQ_LOG2 d.ctx))
  let ph := phaseOf r.cqTail size
  let entry := leBytes 32 (cqBits d ph)
  let base := rd s (Reg.EP.CTX.CQ_BASE d.ctx)
  let pos := r.cqTail % size
  let k := ctxKey s d.ctx
  let s := setCtx s d.ctx { r with cqTail := r.cqTail + 1 }
  if confOn s k then
    dmaWrite s (ctxEp s d.ctx) (ctxFunc s d.ctx) (base + 64 * pos) (confEntry s k d.ctx 2 (d.rc * 2 ^ 24 + 0xFFFFFF) d.rc ph entry) d.ctx
  else dmaWrite s (ctxEp s d.ctx) (ctxFunc s d.ctx) (base + 32 * pos) entry d.ctx

/-- A VOL READ with ACQ (R266). -/
def Desc.acq (d : Desc) : Bool := d.op == 1 && bitAt d.d 10 && bitAt d.d 11

/-- A descriptor whose every packet has completed: its completion entry is written and it leaves the list; an acquire read
invalidates the near-cache lines of its context (R250, R266). -/
def completeDesc (s : State) (d : Desc) : State :=
  let s := if d.acq then nearDrop s (fun e c _ => e == d.ep && c == d.ctx) else s
  let s := { s with ep := { s.ep with descs := s.ep.descs.filter (fun x => x.id != d.id) } }
  ctxStatus (if (ctxRun s d.ctx).shut then s else cqWrite s d) d.ctx

end Sys2Proof.Machine
end

