-- ==== Sys2Proof/Machine/Targets.lean ====
section
/-!
DEFINITION. Machine/Targets.lean: requests at their targets: stale discard and per-pair order (R256, R257), relay (R78), exported
host memory (R286, R287, R318), sealed tiles (R76), completion counters and signals (R261 to R265), kept responses (R229) and the
home end-point (R289).
-/
namespace Sys2Proof.Machine
open Sys2Proof

/-! ### Arrival -/

/-- The packet taken out of the waiting list of a unit, where it stands there. -/
def takeIn (s : State) (x : Nat) (p : Packet) : State := { s with inbox := s.inbox.erase (x, p) }

/-- What the unit at crossbar port `x` makes of packet `p` in its arrival queue: one whose HCRC is wrong is discarded (R51), else `f` acts. A packet
that is not in the queue is no arrival. -/
def received (s : State) (x : Nat) (p : Packet) (f : State → State) : State :=
  if !s.inbox.contains (x, p) then s else if hcrcOf p.h ≠ p.h.hcrc then takeIn s x p else f (takeIn s x p)

/-- The ID of the target at crossbar port `x`: an end-point, the management port, or the home end-point. -/
def targetId (s : State) (x : Nat) : Nat := if x = 224 then epId s 0 else if x = 225 then epId s 1 else if x = 228 then serviceId s else homeEpId s

/-- The STAMP is too old or too new for end-point `e` (R53, R257). -/
def stale (s : State) (e : Nat) (h : Hdr) : Bool :=
  let d := (BitVec.ofNat 24 s.time.toNat - h.stamp).toNat
  if 1 ≤ d ∧ d ≤ 8388608 then decide (us (rd s (Reg.EP.EP_TIMING.STALE_US e)) < d) else decide (d ≠ 0 ∧ 1600 < 2 ^ 24 - d)

/-- The answer to request `h` sent by the target at `x` (R59, R60). -/
def answer (s : State) (x : Nat) (h : Hdr) (cc detail res : Nat) (payload : List Byte := []) (len : Nat := 0) : State :=
  offer s x (mkResp s h (targetId s x) cc detail res 0 payload len)

/-- The answer with `data` read: a READ_RESP of LEN bytes, a tile of BYTES, or the stored tile unchanged (R47, R62, R77). -/
def answerData (s : State) (x : Nat) (h : Hdr) (data : List Byte) : State :=
  match h.k with
  | some .readBulk => answer s x h ccOk 0 0 (mkTile [(80, 12, h.x 64 12)] (padTo (h.x 64 12) data)) 0x3FF
  | some .readTile => answer s x h ccOk 0 0 (padTo tileLen data) 0x3FF
  | _ => answer s x h ccOk 0 0 (padFlits (padTo h.len.toNat data)) h.len.toNat

/-- Bytes that a read request asks for. -/
def readLen (h : Hdr) : Nat := match h.k with | some .readBulk => h.x 64 12 | some .readTile => tileLen | _ => h.len.toNat

/-! ### Kept responses (R229) -/

/-- The number of the target at crossbar port `x`: the ports of HOME_EP are one target. -/
def targetNo (x : Nat) : Nat := min x 226

/-- The key of a kept response: target, SRC, COOKIE[31:16] and TAG (R229). -/
def keptKey (x : Nat) (h : Hdr) : Nat := ((targetNo x * 4096 + h.src.toNat) * 65536 + h.cookie / 65536) * 65536 + h.tag.toNat

/-- The responses of the target at `x` that are held and less than 1 ms old (R229). -/
def keptYoung (s : State) (x : Nat) : Nat :=
  (s.ep.kept.filter (fun k => k.1 / 2 ^ 44 == targetNo x && decide (s.now < k.2.2 + ms 1))).length

/-- The target at `x` withholds TC1 credit: all the responses that it can hold, 16,384, are less than 1 ms old (R229). -/
def keptFull (s : State) (x : Nat) : Bool := decide (16384 ≤ keptYoung s x)

/-- The response kept for a retried ATOMIC of the service ID. -/
def keptFor (s : State) (x : Nat) (h : Hdr) : Option Packet :=
  if h.src.toNat = serviceId s && h.retry then (findKey s.ep.kept (keptKey x h)).map (fun p => p.1) else none

/-- The answer to an ATOMIC: kept where its SRC is the service ID of this plane, in the place of any that has aged (R229). -/
def answerAtomic (s : State) (x : Nat) (h : Hdr) (cc detail old : Nat) : State :=
  let p := mkResp s h (targetId s x) cc detail old 0
  let s := if h.src.toNat = serviceId s then
      let rest := if s.ep.kept.length < 16384 then s.ep.kept else s.ep.kept.filter (fun k => decide (s.now < k.2.2 + ms 1))
      { s with ep := { s.ep with kept := setKey rest (keptKey x h) (p, s.now) } } else s
  offer s x p

/-- An ATOMIC that R64 answers UNSUPPORTED: ADDR not aligned to its SIZE, FETCH_ADD_F32 of 8 B; or a reserved AOP (R63). -/
def atomicBad (h : Hdr) : Bool := h.addr.toNat % atomBytes h != 0 || (h.x 32 4 == 1 && h.x 36 1 == 1) || decide (9 ≤ h.x 32 4)

/-- ATOMIC_RESPONSE_EXPIRE (R229): kept responses older than 1 ms age out. -/
def execAtomicResponseExpire (s : State) : Host.Outcome State Fault Refusal :=
  .next { s with ep := { s.ep with kept := s.ep.kept.filter (fun k => decide (s.now < k.2.2 + ms 1)) } }

/-! ### Sealed tiles (R76) -/

/-- The tile that WRITE_TILE stores over generation `g`: GEN = g + 2 and its CRC. -/
def sealTile (g : Nat) (t : List Byte) : List Byte :=
  let body := padTo tileLen t
  let t2 := List.replicate 4 0 ++ leBytes 4 ((g + 2) % 2 ^ 32) ++ body.drop 8
  leBytes 4 (tileCrc t2) ++ t2.drop 4

/-- The result of the checks of R75 and R76 on a tile write: OK or the CCODE. -/
def tileWriteCheck (p : Packet) : Nat :=
  if !tileCrcOk p.payload then ccCorrupt
  else if p.h.k == some .writeBulk && p.h.x 64 12 != tileValid p.payload then ccUnsupported
  else ccOk

/-- The bytes that a write request stores. -/
def writeData (p : Packet) : List Byte :=
  match p.h.k with
  | some .writeBulk => (tileData p.payload).take (tileValid p.payload)
  | some .writeTile => p.payload
  | _ => padTo p.h.len.toNat p.payload

/-! ### The home end-point (R289) -/

/-- Device HBM address of offset `o` of the home end-point. -/
def homeAddr (s : State) (o : Nat) : Nat := rd s Reg.EXTENT.HOME_CFG.REGION_FIRST * 2 ^ 30 + o

/-- The ATOMIC of the home end-point on device HBM (R63, R229, R286): a retry whose response is held gets that response; POISON where
the word is poisoned. -/
def homeAtomic (s : State) (x : Nat) (h : Hdr) : State :=
  match keptFor s x h with
  | some p => offer s x p
  | none =>
    let n := atomBytes h
    let a := homeAddr s h.off
    if (xgenEntry s h).isNone then answerAtomic s x h ccRevoked 0 0
    else if hbmPoisoned s a n then answerAtomic s x h ccPoison 0 0
    else
      let old := ofLeBytes (hbmRdN s a n)
      answerAtomic (hbmWr s a (leBytes n (atomicNew (h.x 32 4) (8 * n) old (h.x 64 64) (h.x 128 64)))) x h ccOk 0 old

/-- A relayed request that a target cannot re-issue (R78): INDETERMINATE for an ATOMIC or a mutating OWN, UNSUPPORTED otherwise. -/
def relayRefused (s : State) (x : Nat) (h : Hdr) : State := answer s x h (if indeterminate h then ccIndeterminate else ccUnsupported) 0 0

/-- The home end-point cannot reach the home plane of a request with RLY = 1: it is attached to its own plane alone (R78). It goes by the
plane list of EP_A, which is that of every end-point (R79; log entry 62). -/
def homeFar (s : State) (h : Hdr) : Bool := h.rly == 1 && homePlane h.addr.toNat (planesOf (rd s (Reg.EP.EP_PLANES.PLANE_LIST 0))) != planeId s

/-- A request at the home end-point (R289). One with RLY = 1 whose home plane is this plane is served here (DEDUCED, log entry 62). -/
def homeServe (s : State) (x : Nat) (p : Packet) : State :=
  let h := p.h
  if homeFar s h then relayRefused s x h
  else
    match h.k with
    | some .regRead | some .regWrite => answer s x h ccDenied 4 0
    | some .own => answer s x h ccUnsupported 0 0
    | some .signal => answer s x h ccUnsupported 0 0
    | some .atomic =>
      if atomicBad h then answerAtomic s x h ccUnsupported 0 0 else homeAtomic s x h
    | some .read | some .readBulk | some .readTile =>
      if (xgenEntry s h).isNone then answer s x h ccRevoked 0 0
      else if hbmPoisoned s (homeAddr s h.off) (readLen h) then answer s x h ccPoison 0 0
      else answerData s x h (hbmRdN s (homeAddr s h.off) (readLen h))
    | some .write | some .writeBulk =>
      if h.sig then answer s x h ccUnsupported 0 0
      else if (xgenEntry s h).isNone then answer s x h ccRevoked 0 0
      else
        let c := if h.k == some .write then ccOk else tileWriteCheck p
        if c = ccOk then answer (hbmWr s (homeAddr s h.off) (writeData p)) x h ccOk 0 0 else answer s x h c 0 0
    | some .writeTile =>
      if h.sig then answer s x h ccUnsupported 0 0
      else if (xgenEntry s h).isNone then answer s x h ccRevoked 0 0
      else if tileWriteCheck p ≠ ccOk then answer s x h (tileWriteCheck p) 0 0
      else
        let a := homeAddr s h.off
        if hbmPoisoned s a 64 then answer s x h ccPoison 0 0
        else answer (hbmWr s a (sealTile (ofLeBytes (hbmRdN s (a + 4) 4)) p.payload)) x h ccOk 0 0
    | _ => s

/-! ### Exported host memory (R286, R287) -/

/-- The export entries of end-point `e` that are in force. -/
def exportsOf (s : State) (e : Nat) : List Nat :=
  let lo := (Reg.EXTENT.EXPORT.VALID e 0).key
  (s.regs.filter (fun r => decide (lo ≤ r.1) && decide (r.1 < lo + 4096 * 256) && (r.1 - lo) % 256 == 0 && r.2 != 0)).map
    (fun r => (r.1 - lo) / 256)

/-- REG_INDEX, CTX and LBASE of an export entry. -/
def exportIndex (s : State) (e k : Nat) : Nat := rd s (Reg.EXTENT.EXPORT.REG_INDEX e k)
/-- CTX of an export entry. -/
def exportCtx (s : State) (e k : Nat) : Nat := rd s (Reg.EXTENT.EXPORT.CTX e k)
/-- Local base address of an export entry. -/
def exportBase (s : State) (e k : Nat) : Nat := 4096 * rd s (Reg.EXTENT.EXPORT.LBASE e k)

/-- The exporting context and local address of a request at end-point `e`: a LIVE extent with its XGEN, named by a VALID
export entry (R286, R287). -/
def exportFor (s : State) (e : Nat) (h : Hdr) : Option (Nat × Nat) :=
  match xgenEntry s h with
  | none => none
  | some (i, x) =>
    match (exportsOf s e).find? (fun k => exportIndex s e k == i) with
    | none => none
    | some k => some (exportCtx s e k, exportBase s e k + (h.off - x.base * 2 ^ 21))

/-- The request carries an epoch older than its tenant's (R273). -/
def oldEpoch (s : State) (h : Hdr) : Bool := epochNewer (epochOf s h.tenant.toNat) h.epoch.toNat

/-- A write applied at end-point `e`: the CCODE, and the state with the bytes on their way to host memory. -/
def epWrite (s : State) (e : Nat) (p : Packet) : Nat × State :=
  match exportFor s e p.h with
  | none => (ccRevoked, s)
  | some (c, a) =>
    let cc := if p.h.k == some .write then ccOk else tileWriteCheck p
    if cc = ccOk then (ccOk, dmaWrite s e (ctxFunc s c) a (writeData p)) else (cc, s)

/-- The store of `n` bytes at address `a` by function `f` of end-point `e` has its translation (R281). -/
def storeReady (s : State) (e f a n : Nat) : Bool := match localRuns s e f a n true false with | .ok _ => true | .error _ => false

/-! ### Completion counters (R261 to R265) -/

/-- STATE of counter `k` of end-point `e`. -/
def ctrSt (s : State) (e k : Nat) : Nat := rd s (Reg.EP.CTR_STATE.STATE e k)
/-- What counter `k` of end-point `e` keeps beyond its register. -/
def ctrX (s : State) (e k : Nat) : Ctr := (findKey s.ep.ctrs (1024 * e + k)).getD {}
/-- It set. -/
def setCtrX (s : State) (e k : Nat) (c : Ctr) : State := { s with ep := { s.ep with ctrs := putKey s.ep.ctrs (1024 * e + k) {} c } }

/-- Message number m1 is newer than m0. -/
def msgNewer (m1 m0 : Nat) : Bool := let d := (m1 + 65536 - m0 % 65536) % 65536; decide (1 ≤ d ∧ d ≤ 32768)

/-- What a counted packet meets (R264). -/
inductive CtrHit where
  | refuse
  | drop
  | copy
  | cur (k : Nat)
  | start (k : Nat)
deriving DecidableEq, Repr

/-- The entry of an uncredited message (R261). -/
def ctrUncredited (s : State) (e src msg : Nat) : CtrHit :=
  match (List.range 1024).find? (fun k => !(ctrX s e k).credited && ctrSt s e k != 0 && rd s (Reg.EP.CTR_STATE.SRC e k) == src
      && rd s (Reg.EP.CTR_STATE.MSG e k) == msg) with
  | some k => if ctrSt s e k = 4 then .copy else .cur k
  | none =>
    match (List.range 1024).find? (fun k => ctrSt s e k == 0) with
    | some k => .start k
    | none => .drop

/-- The entry of a credited message (R264). -/
def ctrCredited (s : State) (e k src msg : Nat) : CtrHit :=
  let st := ctrSt s e k
  let last := rd s (Reg.EP.CTR_STATE.MSG e k)
  if st = 0 || rd s (Reg.EP.CTR_STATE.SRC e k) != src then .refuse
  else if st = 1 then (if (ctrX s e k).fresh || msgNewer msg last then .start k else .copy)
  else if st = 4 then (if msgNewer msg last then .refuse else .copy)
  else if msg = last then .cur k else if msgNewer msg last then .start k else .copy

/-- What a SIG packet or SIGNAL meets in the counter table. -/
def ctrHit (s : State) (e : Nat) (h : Hdr) : CtrHit :=
  if h.x 32 10 = 1023 then ctrUncredited s e h.src.toNat (h.x 48 16) else ctrCredited s e (h.x 32 10) h.src.toNat (h.x 48 16)

/-- A message opened in entry `k` (R264). -/
def ctrOpen (s : State) (e k : Nat) (h : Hdr) : State :=
  let x := ctrX s e k
  let s := wrs s [(Reg.EP.CTR_STATE.STATE e k, 2), (Reg.EP.CTR_STATE.SRC e k, h.src.toNat), (Reg.EP.CTR_STATE.MSG e k, h.x 48 16),
    (Reg.EP.CTR_STATE.COUNTED e k, 0), (Reg.EP.CTR_STATE.COUNT e k, 0)]
  let c : Ctr :=
    { tags := [], sig := none, tenant := h.tenant.toNat, epoch := h.epoch.toNat, since := s.now, fresh := false,
      credited := h.x 32 10 != 1023, reqNo := x.reqNo }
  setCtrX s e k c

/-- The entry after a fire or an abort of its message: GRANTED for a credited message, HOLD for an uncredited one (R265, R273). -/
def ctrClose (s : State) (e k : Nat) : State :=
  let x := ctrX s e k
  setCtrX (wr s (Reg.EP.CTR_STATE.STATE e k) (if x.credited then 1 else 4)) e k { x with tags := [], sig := none, more := [], denied := [], since := s.now }

/-- The entry moved to HOLD (R262). -/
def ctrToHold (s : State) (e k : Nat) : State :=
  setCtrX (wr s (Reg.EP.CTR_STATE.STATE e k) 4) e k { ctrX s e k with tags := [], sig := none, more := [], denied := [], since := s.now }

/-- A copy of a counted packet answered without effect (R264). -/
def sigCopy (s : State) (e : Nat) (h : Hdr) : State := answer (cnt s (Reg.EP.EP_COUNT_C.SIG_DUPLICATES e)) (epPort e) h ccOk 0 0

/-- The SIGNALs that wait in an entry, in order of arrival. -/
def Ctr.waiting (c : Ctr) : List Packet := c.sig.toList ++ c.more

/-- The context that exported the extent holding ADDR (R265): that of the entry a write would use; where the write fails, that of an extent
that covers ADDR, of the SIGNAL's tenant before another. -/
def holderCtx (s : State) (e : Nat) (h : Hdr) : Option Nat :=
  let byTenant := fun (own : Bool) => (exportsOf s e).find? (fun k => match findKey s.ext.reg (exportIndex s e k) with
    | some x => (x.st == 1 || x.st == 2) && extCovers x h.addr.toNat && (x.tenant == h.tenant.toNat) == own
    | none => false)
  match exportFor s e h with
  | some c => some c.1
  | none => match byTenant true with
    | some k => some (exportCtx s e k)
    | none => (byTenant false).map (exportCtx s e)

/-- Steps 2 to 4 of R265, and the CCODE of its step 1, which has left state `t`: the event posted, the SIGNAL answered, the entry closed, also where
the write failed. Other SIGNALs of the message are copies then (R264). -/
def fireEnd (s : State) (e k : Nat) (p : Packet) (cc dt : Nat) (t : State) : State :=
  let h := p.h
  let x := ctrX s e k
  let t := cnt t (Reg.EP.EP_COUNT_C.SIGNALS_FIRED e)
  let t := match holderCtx s e h with
    | some c => if rdb s (Reg.EP.CTX.SIG_EVENTS c) then postEvent t c 1 (h.x 48 16) h.src.toNat (h.x 128 64) h.addr.toNat else t
    | none => t
  (x.waiting.filter (fun q => q.h.tag != h.tag)).foldl (fun t q => sigCopy t e q.h) (ctrClose (answer t (epPort e) h cc dt 0) e k)

/-- The signal of entry `k` is firing: its write waits for a translation. -/
def firing (s : State) (e k : Nat) : Bool :=
  s.host.ops.any (fun o => o.ep == e && (match o.what with | .fire j _ => j == k | _ => false))

/-- The signal of entry `k` fires (R265): the word is written, once its translation is there (R281), and the rest follows. -/
def ctrFire (s : State) (e k : Nat) (p : Packet) : State :=
  match exportFor s e p.h with
  | none => fireEnd s e k p ccRevoked 0 s
  | some (c, a) =>
    if (ctrX s e k).denied.contains p.h.tag.toNat then fireEnd s e k p ccDenied 3 s
    else if storeReady s e (ctxFunc s c) a 8 then fireEnd s e k p ccOk 0 (dmaWrite s e (ctxFunc s c) a (leBytes 8 (p.h.x 128 64)) 4096 false)
    else hostOp s e (ctxFunc s c) a 8 (.fire k p)

/-- The signal `p` of entry `k` fires after a wait, unless its message has ended. -/
def ctrRetry (s : State) (e k : Nat) (p : Packet) : State := if (ctrX s e k).waiting.contains p then ctrFire s e k p else s

/-- The signal `p` of entry `k` fires with its address refused a translation (R265, R281). -/
def ctrDenied (s : State) (e k : Nat) (p : Packet) : State :=
  let x := ctrX s e k
  ctrRetry (setCtrX s e k { x with denied := p.h.tag.toNat :: x.denied }) e k p

/-- The signal fires when the count equals the COUNT of a waiting SIGNAL (R265). -/
def ctrCheck (s : State) (e k : Nat) : State :=
  if firing s e k then s else
  match (ctrX s e k).waiting.find? (fun p => rd s (Reg.EP.CTR_STATE.COUNTED e k) == p.h.x 64 32) with
  | some p => ctrFire s e k p
  | none => s

/-- A sealed tile being stored for request `h` of the same source and tag (R264). -/
def sealing (s : State) (e : Nat) (h : Hdr) : Bool :=
  s.host.ops.any (fun o => o.ep == e && (match o.what with | .seal x _ => x.src == h.src && x.tag == h.tag | _ => false))

/-- A WRITE_TILE at end-point `e`: its stored generation is read, and the tile sealed over it (R76). -/
def tileStore (s : State) (e : Nat) (p : Packet) : State :=
  match exportFor s e p.h with
  | none => answer s (epPort e) p.h ccRevoked 0 0
  | some (c, a) =>
    if tileWriteCheck p ≠ ccOk then answer s (epPort e) p.h (tileWriteCheck p) 0 0
    else hostOp s e (ctxFunc s c) a 8 (.seal p.h p.payload)

/-- An applied packet of open message `k` counted and answered (R264). -/
def sigCount (s : State) (e k : Nat) (h : Hdr) : State :=
  let s := setCtrX (cnt s (Reg.EP.CTR_STATE.COUNTED e k)) e k { ctrX s e k with tags := h.tag.toNat :: (ctrX s e k).tags, since := s.now }
  ctrCheck (answer s (epPort e) h ccOk 0 0) e k

/-- A SIG write in open message `k`: applied once for each TAG, counted where it was applied, and answered (R264). A WRITE_TILE counts once its
tile is sealed; a copy that comes before is absorbed. -/
def sigWrite (s : State) (e k : Nat) (p : Packet) : State :=
  if (ctrX s e k).tags.contains p.h.tag.toNat then sigCopy s e p.h
  else if p.h.k == some .writeTile then (if sealing s e p.h then cnt s (Reg.EP.EP_COUNT_C.SIG_DUPLICATES e) else tileStore s e p)
  else
    let (cc, s) := epWrite s e p
    if cc ≠ ccOk then answer s (epPort e) p.h cc 0 0 else sigCount s e k p.h

/-- A SIGNAL in open message `k`: it waits, or is absorbed where it repeats the TAG of one that waits (R264); `deny`: its address was refused a
translation (R265). -/
def sigSignal (s : State) (e k : Nat) (p : Packet) (deny : Bool) : State :=
  let x := ctrX s e k
  if x.waiting.any (fun q => q.h.tag == p.h.tag) then cnt s (Reg.EP.EP_COUNT_C.SIG_DUPLICATES e)
  else
    let x := { x with denied := if deny then p.h.tag.toNat :: x.denied else x.denied, since := s.now }
    if x.sig.isSome then ctrCheck (setCtrX s e k { x with more := x.more ++ [p] }) e k
    else
      let s := wr (wr s (Reg.EP.CTR_STATE.STATE e k) 3) (Reg.EP.CTR_STATE.COUNT e k) (p.h.x 64 32)
      ctrCheck (setCtrX s e k { x with sig := some p }) e k

/-- A SIG write or a SIGNAL at end-point `e` (R264). -/
def sigArrive (s : State) (e : Nat) (p : Packet) (deny : Bool := false) : State :=
  let h := p.h
  let f := fun (s : State) (k : Nat) => if h.k == some .signal then sigSignal s e k p deny else sigWrite s e k p
  if h.k == some .signal && decide (65535 < h.x 64 32) then answer s (epPort e) h ccUnsupported 0 0
  else
    match ctrHit s e h with
    | .refuse => answer s (epPort e) h ccUnsupported 0 0
    | .drop => cnt s (Reg.EP.EP_COUNT_C.CTR_UNAVAILABLE e)
    | .copy => sigCopy s e h
    | .cur k => f s k
    | .start k => f (ctrOpen s e k h) k

/-- A WRITE_TILE sealed: with SIG it counts in its message where that is still open, else it is answered (R76, R264). -/
def sealEnd (s : State) (e : Nat) (h : Hdr) : State :=
  match (if h.sig then ctrHit s e h else .drop) with
  | .cur k => sigCount s e k h
  | _ => answer s (epPort e) h ccOk 0 0

/-! ### Requests at an end-point -/

/-- The key of a relayed request: end-point, SRC, TAG and the SEQ of its re-issue, which the response echoes (R60). -/
def relayKey (e src tag seq : Nat) : Nat := ((4096 * e + src) * 65536 + tag) * 65536 + seq

/-- End-point `e` may re-issue request `h` on its home plane now (R78). -/
def relays (s : State) (e : Nat) (h : Hdr) : Bool :=
  let lst := planesOf (rd s (Reg.EP.EP_PLANES.PLANE_LIST e))
  lst.contains (planeId s) && homePlane h.addr.toNat lst == planeId s && epUp s e

/-- A request with RLY = 1 whose re-issue would be one number too many in its sequence (R80): it waits. -/
def relayWaits (s : State) (e : Nat) (h : Hdr) : Bool := h.rly == 1 && relays s e h && decide (16384 ≤ unanswered s e h)

/-- A request with RLY = 1 at the target it names (R78): re-issued on the home plane where that is the target's own plane, its SEQ noted for the
final response to this attempt (R60), for 2 ms (R80); else refused. A misaligned ATOMIC that cannot be re-issued is refused so too (DEDUCED, log
entry 62). -/
def relay (s : State) (e : Nat) (p : Packet) : State :=
  let h := p.h
  if relays s e h then
    let k := seqKey e h.dest.toNat h.tc.toNat
    let sp := spaceOf s k
    let young := s.ep.relays.filter (fun r => decide (s.now < r.2.2.2 + ms 2))
    let s := { s with ep := { s.ep with spaces := setKey s.ep.spaces k { sp with next := (sp.next + 1) % 65536, lastSent := s.now },
                                        relays := setKey young (relayKey e h.src.toNat h.tag.toNat sp.next) (h.seq.toNat, k, s.now) } }
    offer s (epPort e) (mkPacket s { h with rly := 2, via := BitVec.ofNat 12 (epId s e), seq := BitVec.ofNat 16 sp.next } p.payload)
  else relayRefused s (epPort e) h

/-- An ATOMIC for exported host memory (R318): one AtomicOp, or read and CAS; UNSUPPORTED while the function may send none. -/
def epAtomic (s : State) (e : Nat) (p : Packet) : State :=
  let h := p.h
  if atomicBad h then answerAtomic s (epPort e) h ccUnsupported 0 0
  else
    match keptFor s (epPort e) h with
    | some r => offer s (epPort e) r
    | none =>
      match exportFor s e h with
      | none => answerAtomic s (epPort e) h ccRevoked 0 0
      | some (c, a) =>
        if !s.host.atomicEn.contains (e * 256 + ctxFunc s c) then answerAtomic s (epPort e) h ccUnsupported 0 0
        else hostOp s e (ctxFunc s c) a (atomBytes h) (if (atomicOpOf (h.x 32 4)).isSome then .atomicOp h else .casRead h 0)

/-- A request of an older epoch than its tenant's (R273): STEP_ABORT, kept for an ATOMIC of the service ID, whose retry gets the
response that is held (R229). -/
def epOldEpoch (s : State) (e : Nat) (h : Hdr) : State :=
  if h.k == some .atomic then
    match keptFor s (epPort e) h with
    | some r => offer s (epPort e) r
    | none => answerAtomic s (epPort e) h ccStepAbort 0 0
  else answer s (epPort e) h ccStepAbort 0 0

/-- A delivered request applied at end-point `e` (R256, R273, R286). -/
def epServe (s : State) (e : Nat) (p : Packet) : State :=
  let h := p.h
  if oldEpoch s h && (match h.k with | some k => k.answered | none => false) then epOldEpoch s e h
  else if h.rly = 1 then relay s e p
  else
    match h.k with
    | some .regRead | some .regWrite => answer s (epPort e) h ccDenied 4 0
    | some .own => answer s (epPort e) h ccUnsupported 0 0
    | some .signal => sigArrive s e p
    | some .atomic => epAtomic s e p
    | some .read | some .readBulk | some .readTile =>
      (match exportFor s e h with
       | none => answer s (epPort e) h ccRevoked 0 0
       | some (c, a) => hostOp s e (ctxFunc s c) a (readLen h) (.target h))
    | some .write | some .writeBulk =>
      if h.sig then sigArrive s e p
      else
        let (cc, s) := epWrite s e p
        answer s (epPort e) h cc 0 0
    | some .writeTile => if h.sig then sigArrive s e p else tileStore s e p
    | _ => s

/-- Bytes that a request stores to exported memory. -/
def storeLen (p : Packet) : Nat := if p.h.k == some .signal then 8 else (writeData p).length

/-- A request that stores to exported memory, and its local address: it waits for a translation that the end-point lacks (R281). -/
def needsXlate (s : State) (e : Nat) (p : Packet) : Option (Nat × Nat) :=
  match p.h.k, exportFor s e p.h with
  | some .write, some (c, a) | some .writeBulk, some (c, a) | some .signal, some (c, a) =>
    if p.h.rly != 1 && !storeReady s e (ctxFunc s c) a (storeLen p) then some (ctxFunc s c, a) else none
  | _, _ => none

/-- The request that an access is made for, and whether it only reads. -/
def HostFor.requestOf : HostFor → Option (Hdr × Bool)
  | .target h => some (h, true)
  | .seal h _ | .atomicOp h | .casRead h _ | .casTry h _ _ => some (h, false)
  | .arrive p => some (p.h, false)
  | _ => none

/-- A request that changes nothing at its target. -/
def onlyReads (h : Hdr) : Bool := match h.k with | some .read | some .readBulk | some .readTile => true | _ => false

/-- A request of the same sequence has been delivered to end-point `e` before `h` and is not applied yet (R255): it waits for a translation, a
stored generation or its PCIe transaction; reads that have been issued hold back no further read. -/
def storePending (s : State) (e : Nat) (h : Hdr) : Bool :=
  s.host.ops.any (fun o => o.ep == e && !o.dead && (match o.what.requestOf with
    | some x => x.1.src == h.src && x.1.tc == h.tc && !(x.2 && onlyReads h && o.st == 2)
    | none => false)) || relayWaits s e h

/-- A delivered request of the same sequence waits at end-point `e`. -/
def behindOf (s : State) (e : Nat) (h : Hdr) : Bool := s.ep.behind.any (fun b => b.1 == e && b.2.h.src == h.src && b.2.h.tc == h.tc)

/-- A delivered request applied, or held for its translation. -/
def epTake (s : State) (e : Nat) (p : Packet) : State :=
  match needsXlate s e p with
  | some (f, a) => hostOp s e f a (storeLen p) (.arrive p)
  | none => epServe s e p

/-- A delivered request: applied in its turn, behind every earlier one of its sequence (R255). -/
def epDeliver (s : State) (e : Nat) (p : Packet) : State :=
  if storePending s e p.h || behindOf s e p.h then { s with ep := { s.ep with behind := s.ep.behind ++ [(e, p)] } } else epTake s e p

/-- Delivered requests that no earlier one of their sequence holds back any more are applied, in order. -/
def drainBehind (s : State) (e : Nat) : State :=
  (s.ep.behind.filter (fun b => b.1 == e)).foldl (fun s b =>
    let first := match s.ep.behind.find? (fun x => x.1 == e && x.2.h.src == b.2.h.src && x.2.h.tc == b.2.h.tc) with | some x => x == b | none => false
    if !first || storePending s e b.2.h then s else epTake { s with ep := { s.ep with behind := s.ep.behind.erase b } } e b.2) s

/-! ### Waiting accesses go on (R281, R298) -/

/-- A waiting access goes on: the store of an arriving request or of a signal takes place once it has its translation; a request whose epoch has
become old completes STEP_ABORT where it has had no effect (R273); any other is issued, or asks for the translation that it lacks. -/
def opGo (s : State) (o : HostOp) : State :=
  let t := hostDone s o.tag
  let ready := match opRuns s o with | .ok _ => true | .error _ => false
  match o.what with
  | .arrive p => if ready then epServe t o.ep p else hostGo s o
  | .fire k p => if ready then ctrRetry t o.ep k p else hostGo s o
  | .atomicOp h | .casTry h _ _ => if oldEpoch s h then answerAtomic t (epPort o.ep) h ccStepAbort 0 0 else hostGo s o
  | _ => hostGo s o

/-- A PCIe tag of end-point `e` is free again (R298): the first access, or else the first write, that waits for one goes on. -/
def hostNext (s : State) (e : Nat) : State :=
  match s.host.ops.find? (fun o => o.ep == e && o.st == 3) with
  | some o => opGo s o
  | none =>
    match s.host.atsWait.find? (fun w => w.ep == e && !w.asked) with
    | some w =>
      if hostOut s e < tagLimit s e then
        match localRuns s e w.func w.addr w.data.length true false with
        | .error a => askPage { s with host := { s.host with atsWait := s.host.atsWait.map (fun x => if x == w then { x with asked := true } else x) } } e w.func a true
        | .ok _ => s
      else s
    | none => s

/-! ### Per-pair order (R256) -/

/-- The sequence record of a key. -/
def seqRec (s : State) (k : Nat) : Option SeqRec := findKey s.ep.seqs k
/-- The sequence record set. -/
def setSeq (s : State) (k : Nat) (r : SeqRec) : State := { s with ep := { s.ep with seqs := setKey s.ep.seqs k r } }

/-- Bytes held in the reorder buffer of end-point `e` (R275: 4 MiB). -/
def reorderUsed (s : State) (e : Nat) : Nat :=
  ((s.ep.seqs.filter (fun r => r.1 / 32768 == e)).map (fun r => (r.2.held.map (fun p => 64 + p.1.payload.length)).sum)).sum

/-- Held packets that now follow in order are delivered (R256). -/
def drainHeld (s : State) (e k : Nat) : Nat → State
  | 0 => s
  | fuel + 1 =>
    match seqRec s k with
    | none => s
    | some r =>
      match r.held.find? (fun p => p.1.h.seq.toNat == r.expect) with
      | none => s
      | some p =>
        let r' : SeqRec := { expect := (r.expect + 1) % 65536, held := r.held.erase p, last := s.now }
        drainHeld (epDeliver (setSeq s k r') e p.1) e k fuel

/-- A request in its sequence (R256): delivered, held or discarded. -/
def sequenced (s : State) (e : Nat) (p : Packet) : State :=
  let h := p.h
  let k := seqKey e h.src.toNat h.tc.toNat
  let n := h.seq.toNat
  match seqRec s k with
  | none => epDeliver (setSeq s k { expect := (n + 1) % 65536, held := [], last := s.now }) e p
  | some r =>
    let d := (n + 65536 - r.expect) % 65536
    if d = 0 then
      drainHeld (epDeliver (setSeq s k { r with expect := (n + 1) % 65536, last := s.now }) e p) e k r.held.length
    else if d < 16384 && !(r.held.any (fun q => q.1.h.seq == h.seq)) && decide (reorderUsed s e + 64 + p.payload.length ≤ 4 * 2 ^ 20) then
      setSeq s k { r with held := r.held ++ [(p, s.now)] }
    else cnt s (Reg.EP.EP_COUNT_B.SEQ_DISCARDS e)

/-- A request of kind `k` arriving at crossbar port `x` (R51, R256, R257, R289); in class 1 it waits while the target withholds credit (R229). -/
def targetArrive (s : State) (x : Nat) (p : Packet) (k : Kind) : State :=
  if p.h.k ≠ some k || p.h.tc == 1 && keptFull s x then s
  else received s x p (fun s =>
    if 226 ≤ x then homeServe s x p
    else if stale s (x - 224) p.h then cnt s (Reg.EP.EP_COUNT_B.STALE_DISCARDS (x - 224))
    else sequenced s (x - 224) p)

/-- READ (R47) at crossbar port 224 + x. -/
def execRead (x : Fin 4) (p : Packet) (s : State) : Host.Outcome State Fault Refusal := .next (targetArrive s (224 + x.val) p .read)
/-- WRITE (R48). -/
def execWrite (x : Fin 4) (p : Packet) (s : State) : Host.Outcome State Fault Refusal := .next (targetArrive s (224 + x.val) p .write)
/-- READ_BULK (R62). -/
def execReadBulk (x : Fin 4) (p : Packet) (s : State) : Host.Outcome State Fault Refusal := .next (targetArrive s (224 + x.val) p .readBulk)
/-- WRITE_BULK (R76). -/
def execWriteBulk (x : Fin 4) (p : Packet) (s : State) : Host.Outcome State Fault Refusal := .next (targetArrive s (224 + x.val) p .writeBulk)
/-- READ_TILE (R77). -/
def execReadTile (x : Fin 4) (p : Packet) (s : State) : Host.Outcome State Fault Refusal := .next (targetArrive s (224 + x.val) p .readTile)
/-- WRITE_TILE (R76). -/
def execWriteTile (x : Fin 4) (p : Packet) (s : State) : Host.Outcome State Fault Refusal := .next (targetArrive s (224 + x.val) p .writeTile)
/-- ATOMIC (R63). -/
def execAtomic (x : Fin 4) (p : Packet) (s : State) : Host.Outcome State Fault Refusal := .next (targetArrive s (224 + x.val) p .atomic)
/-- SIGNAL (R264). -/
def execSignal (x : Fin 4) (p : Packet) (s : State) : Host.Outcome State Fault Refusal := .next (targetArrive s (224 + x.val) p .signal)

/-- SEQ_SKIP_WAIT_EXPIRE (R256): a held packet has waited SKIP_WAIT_US: every held packet of the record is discarded and EXPECT
becomes the highest held SEQ + 1. -/
def execSeqSkipWaitExpire (e : Fin 2) (src : BitVec 12) (tc : BitVec 3) (s : State) : Host.Outcome State Fault Refusal :=
  let k := seqKey e.val src.toNat tc.toNat
  .next (match seqRec s k with
    | none => s
    | some r =>
      if r.held.any (fun p => decide (p.2 + us (rd s (Reg.EP.EP_TIMING.SKIP_WAIT_US e.val)) ≤ s.now)) then
        let far := (r.held.map (fun p => (p.1.h.seq.toNat + 65536 - r.expect) % 65536)).max?.getD 0
        cnt (cnt (setSeq s k { r with expect := (r.expect + far + 1) % 65536, held := [] }) (Reg.EP.EP_COUNT_B.SEQ_SKIPS e.val))
          (Reg.EP.EP_COUNT_B.SEQ_DISCARDS e.val) r.held.length
      else s)

/-- SEQ_RECORD_EXPIRE (R258): a record that holds nothing and has delivered nothing for 2 ms is freed. -/
def execSeqRecordExpire (e : Fin 2) (src : BitVec 12) (tc : BitVec 3) (s : State) : Host.Outcome State Fault Refusal :=
  let k := seqKey e.val src.toNat tc.toNat
  .next (match seqRec s k with
    | some r => if r.held.isEmpty && decide (r.last + ms 2 ≤ s.now) then { s with ep := { s.ep with seqs := delKey s.ep.seqs k } } else s
    | none => s)

/-! ### Counter credits (R262) -/

/-- The header of a CTR_CTL from end-point `e` (R69). -/
def ctrCtl (s : State) (e dest tenant cop ctr msg : Nat) : Packet :=
  mkPacket s
    { dest := BitVec.ofNat 12 dest, src := BitVec.ofNat 12 (epId s e), tenant := BitVec.ofNat 12 tenant, kind := Kind.ctrCtl.code,
      ext := mkExt [(0, 4, cop), (4, 10, ctr), (32, 16, msg)] }

/-- The entry already granted to a repeated REQUEST (R262). -/
def ctrGranted (s : State) (e src msg : Nat) : Option Nat :=
  (s.ep.ctrs.find? (fun c => c.1 / 1024 == e && c.2.credited && c.2.reqNo == msg && rd s (Reg.EP.CTR_STATE.SRC e (c.1 % 1024)) == src &&
    (let st := ctrSt s e (c.1 % 1024); st == 1 || st == 2 || st == 3))).map (fun c => c.1 % 1024)

/-- Counter entries of end-point `e` that `src` holds as credits. -/
def ctrHeldBy (s : State) (e src : Nat) : Nat :=
  (s.ep.ctrs.filter (fun c => c.1 / 1024 == e && c.2.credited && rd s (Reg.EP.CTR_STATE.SRC e (c.1 % 1024)) == src &&
    (let st := ctrSt s e (c.1 % 1024); st == 1 || st == 2 || st == 3))).length

/-- FREE entries of end-point `e`. -/
def ctrFree (s : State) (e : Nat) : List Nat := (List.range 1024).filter (fun k => ctrSt s e k == 0)

/-- The key of a refused REQUEST: its source and its request number. -/
def refusedKey (e : Nat) (h : Hdr) : Nat := (4096 * e + h.src.toNat) * 65536 + h.x 32 16

/-- The answer REFUSE, which a repeat of the REQUEST gets again (R262). -/
def ctrRefuse (s : State) (e : Nat) (h : Hdr) : State :=
  let k := refusedKey e h
  let s := { s with ep := { s.ep with refused := if s.ep.refused.contains k then s.ep.refused else k :: s.ep.refused } }
  offer s (epPort e) (ctrCtl s e h.src.toNat h.tenant.toNat 3 0 (h.x 32 16))

/-- A CTR_CTL REQUEST at end-point `e` (R262): GRANT of a FREE entry, or REFUSE; a repeat gets the same answer. -/
def ctrRequest (s : State) (e : Nat) (h : Hdr) : State :=
  let src := h.src.toNat
  let msg := h.x 32 16
  match ctrGranted s e src msg with
  | some k => offer s (epPort e) (ctrCtl s e src h.tenant.toNat 1 k msg)
  | none =>
    if s.ep.refused.contains (refusedKey e h) then ctrRefuse s e h
    else
      let free := ctrFree s e
      match free.find? (fun k => decide (k < 1023)) with
      | some k =>
        if rd s (Reg.EP.EP_CFG.GRANT_RESERVE e) < free.length - 1 ∧ ctrHeldBy s e src < 16 then
          let s := wrs s [(Reg.EP.CTR_STATE.STATE e k, 1), (Reg.EP.CTR_STATE.SRC e k, src), (Reg.EP.CTR_STATE.MSG e k, 0),
            (Reg.EP.CTR_STATE.COUNTED e k, 0), (Reg.EP.CTR_STATE.COUNT e k, 0)]
          let s := setCtrX s e k { fresh := true, credited := true, reqNo := msg, since := s.now }
          offer s (epPort e) (ctrCtl s e src h.tenant.toNat 1 k msg)
        else ctrRefuse s e h
      | none => ctrRefuse s e h

/-- The packet is a CTR_CTL with the given COP (R69). -/
def isCtr (p : Packet) (cop : Nat) : Bool := p.h.k == some .ctrCtl && p.h.x 0 4 == cop

/-- CTR_REQUEST (R262); the home end-point answers REFUSE (R289). -/
def execCtrRequest (x : Fin 4) (p : Packet) (s : State) : Host.Outcome State Fault Refusal :=
  .next (if !isCtr p 0 then s
    else received s (224 + x.val) p (fun s =>
      if 2 ≤ x.val then
        let r := { dest := p.h.src, src := BitVec.ofNat 12 (homeEpId s), tenant := p.h.tenant, kind := Kind.ctrCtl.code,
                   ext := mkExt [(0, 4, 3), (32, 16, p.h.x 32 16)] }
        offer s (224 + x.val) (mkPacket s r)
      else ctrRequest s x.val p.h))

/-- CTR_GRANT (R262): the source holds a credit; the home end-point discards it (R289). -/
def execCtrGrant (x : Fin 4) (p : Packet) (s : State) : Host.Outcome State Fault Refusal :=
  let src := p.h.src.toNat
  let k := 4096 * x.val + src
  .next (if !isCtr p 1 then s
    else received s (224 + x.val) p (fun s =>
      match findKey s.ep.asks k with
      | some (n, _) =>
        if x.val < 2 ∧ n = p.h.x 32 16 then
          let c : Credit := { ep := x.val, dest := src, ctr := p.h.x 4 10, last := 0, busy := none, used := s.now }
          { s with ep := { s.ep with asks := delKey s.ep.asks k, credits := s.ep.credits ++ [c] } }
        else s
      | none => s))

/-- CTR_REFUSE (R262): the source holds no credit; the home end-point discards it (R289). -/
def execCtrRefuse (x : Fin 4) (p : Packet) (s : State) : Host.Outcome State Fault Refusal :=
  let k := 4096 * x.val + p.h.src.toNat
  .next (if !isCtr p 3 then s
    else received s (224 + x.val) p (fun s =>
      match findKey s.ep.asks k with
      | some (n, _) => if x.val < 2 ∧ n = p.h.x 32 16 then { s with ep := { s.ep with asks := delKey s.ep.asks k } } else s
      | none => s))

/-- CTR_RETURN (R262): a GRANTED entry of its source goes to HOLD. -/
def execCtrReturn (x : Fin 4) (p : Packet) (s : State) : Host.Outcome State Fault Refusal :=
  .next (if !isCtr p 2 then s
    else received s (224 + x.val) p (fun s =>
      let k := p.h.x 4 10
      if x.val < 2 ∧ ctrSt s x.val k = 1 ∧ rd s (Reg.EP.CTR_STATE.SRC x.val k) = p.h.src.toNat then ctrToHold s x.val k else s))

/-- CTR_HOLD_EXPIRE (R261): an entry in HOLD for 2 ms becomes FREE. -/
def execCtrHoldExpire (e : Fin 2) (k : BitVec 10) (s : State) : Host.Outcome State Fault Refusal :=
  let x := ctrX s e.val k.toNat
  .next (if ctrSt s e.val k.toNat = 4 ∧ x.since + ms 2 ≤ s.now then
      let s := wrs s [(Reg.EP.CTR_STATE.STATE e.val k.toNat, 0), (Reg.EP.CTR_STATE.SRC e.val k.toNat, 0), (Reg.EP.CTR_STATE.MSG e.val k.toNat, 0),
        (Reg.EP.CTR_STATE.COUNTED e.val k.toNat, 0), (Reg.EP.CTR_STATE.COUNT e.val k.toNat, 0)]
      setCtrX s e.val k.toNat {}
    else s)

/-- CTR_GRANT_IDLE (R262): a GRANTED entry with no message for 100 ms goes to HOLD. -/
def execCtrGrantIdle (e : Fin 2) (k : BitVec 10) (s : State) : Host.Outcome State Fault Refusal :=
  .next (if ctrSt s e.val k.toNat = 1 ∧ (ctrX s e.val k.toNat).since + ms 100 ≤ s.now then ctrToHold s e.val k.toNat else s)

/-- End-point `e` may send CTR_CTL to `dest` on its plane (R258). -/
def ctrMay (s : State) (e dest : Nat) : Bool := epUp s e && !barred s e dest

/-- CTR_REQUEST_RETRY (R262): a REQUEST without an answer within ATTEMPT_US is repeated, once it may be sent (R258). -/
def execCtrRequestRetry (e : Fin 2) (dest : BitVec 12) (s : State) : Host.Outcome State Fault Refusal :=
  let k := 4096 * e.val + dest.toNat
  .next (match findKey s.ep.asks k with
    | some (n, t) =>
      if t + us (rd s (Reg.EP.EP_TIMING.ATTEMPT_US e.val)) ≤ s.now ∧ ctrMay s e.val dest.toNat = true then
        offer { s with ep := { s.ep with asks := setKey s.ep.asks k (n, s.now) } } (224 + e.val) (ctrCtl s e.val dest.toNat 0 0 0 n)
      else s
    | none => s)

/-- A credit serves no message that goes on: none, or one that has ended without a SIGNAL (R263). -/
def creditIdle (s : State) (c : Credit) : Bool :=
  match c.busy with
  | none => true
  | some i => !s.ep.reqs.any (fun r => r.id == i) && !s.ep.descs.any (fun d => d.id == i)

/-- CTR_CREDIT_UNUSED (R262): a credit unused for 50 ms is returned, once the RETURN may be sent (R258). -/
def execCtrCreditUnused (e : Fin 2) (dest : BitVec 12) (ctr : BitVec 10) (s : State) : Host.Outcome State Fault Refusal :=
  .next (match s.ep.credits.find? (fun c => c.ep == e.val && c.dest == dest.toNat && c.ctr == ctr.toNat && creditIdle s c &&
      ctrMay s e.val dest.toNat && decide (c.used + ms 50 ≤ s.now)) with
    | some c => offer { s with ep := { s.ep with credits := s.ep.credits.erase c } } (224 + e.val) (ctrCtl s e.val dest.toNat 0 2 ctr.toNat 0)
    | none => s)

/-! ### Host memory operations complete (R281, R318) -/

/-- A seal waiting for the address of one that has ended is started (R76). -/
def sealNext (s : State) (e addr : Nat) : State :=
  match s.host.ops.find? (fun o => o.st == 1 && o.ep == e && o.addr == addr) with
  | some o => hostGo s o
  | none => s

/-- The seal of a tile over generation `g` at address `a` (R76): GEN = g + 1 before any other byte, then every byte but CRC and GEN, then the
first granule with CRC and GEN = g + 2 in one write. The order of the steps lets none of them carry Relaxed Ordering (DEDUCED, log entry 62). -/
def sealWrites (s : State) (o : HostOp) (g : Nat) (t : List Byte) : State :=
  let b := sealTile g t
  let s := dmaWrite s o.ep o.func (o.addr + 4) (leBytes 4 (g + 1)) 4096 false
  let s := dmaWrite s o.ep o.func (o.addr + 8) (b.drop 8) 4096 false
  dmaWrite s o.ep o.func o.addr (b.take 64) 4096 false

/-- A read, AtomicOp or CAS for a fabric request has ended with `status` 0 Successful Completion, 1 an error. A request whose epoch has become
old completes STEP_ABORT where it has had no effect yet (R273). -/
def hostAnswer (s : State) (o : HostOp) (status : Nat) (data : List Byte) : State :=
  let x := epPort o.ep
  let v := ofLeBytes (data.take 8)
  match o.what with
  | .target h => if oldEpoch s h then answer s x h ccStepAbort 0 0 else if status = 0 then answerData s x h (padTo o.len data) else answer s x h ccPoison 0 0
  | .seal h t =>
    if oldEpoch s h then sealNext (answer s x h ccStepAbort 0 0) o.ep o.addr
    else if status = 0 then
      if storeReady s o.ep o.func o.addr tileLen then sealNext (sealEnd (sealWrites s o (ofLeBytes ((padTo 8 data).drop 4)) t) o.ep h) o.ep o.addr
      else hostGo s o
    else sealNext (answer s x h ccPoison 0 0) o.ep o.addr
  | .atomicOp h => if status = 0 then answerAtomic s x h ccOk 0 (v % 2 ^ (8 * atomBytes h)) else answerAtomic s x h ccUnsupported 0 0
  | .casRead h n =>
    if oldEpoch s h then answerAtomic s x h ccStepAbort 0 0
    else if status = 0 then hostOp s o.ep o.func o.addr o.len (.casTry h n (v % 2 ^ (8 * atomBytes h))) else answerAtomic s x h ccUnsupported 0 0
  | .casTry h n old =>
    if status ≠ 0 then answerAtomic s x h ccUnsupported 0 0
    else if v % 2 ^ (8 * atomBytes h) = old then answerAtomic s x h ccOk 0 old
    else if oldEpoch s h then answerAtomic s x h ccStepAbort 0 0
    else if 63 ≤ n then answerAtomic s x h ccUnsupported 0 0
    else hostOp s o.ep o.func o.addr o.len (.casTry h (n + 1) (v % 2 ^ (8 * atomBytes h)))
  | _ => s

/-- A read has returned: Invalidate Completions that waited for it alone go out (R282). -/
def atsDrain (s : State) (t : Nat) : State :=
  let l := s.host.atsInv.map (fun i => (i.1, i.2.1, i.2.2.1, i.2.2.2.filter (· != t)))
  let s := { s with host := { s.host with atsInv := l.filter (fun i => !i.2.2.2.isEmpty) } }
  (l.filter (fun i => i.2.2.2.isEmpty)).foldl (fun s i =>
    cnt (emitOut s (.atsDone i.1 i.2.1 i.2.2.1)) Reg.EXTENT.ATS_COUNT.INVALIDATIONS) s

/-- An access that brings a descriptor, a segment table or LADDR data. -/
def HostFor.brings : HostFor → Bool
  | .desc .. | .segs _ | .data _ => true
  | _ => false

/-- HOST_DMA_COMPLETE (R281, R318): a PCIe read or AtomicOp for a fabric request has ended. -/
def execHostDmaComplete (tag status : Nat) (data : List Byte) (s : State) : Host.Outcome State Fault Refusal :=
  .next (match s.host.ops.find? (fun o => o.tag == tag && o.st == 2 && !o.what.brings) with
    | none => s
    | some o =>
      let t := hostDone s tag
      atsDrain (drainBehind (hostNext (if o.dead then t else hostAnswer t o status data) o.ep) o.ep) tag)

end Sys2Proof.Machine
end

