-- ==== Sys2Proof/Machine/Descriptors.lean ====
section
/-!
DEFINITION. Machine/Descriptors.lean: doorbells (R246), the choice of work (R316), descriptors cut into packets (R247 to R250,
R254, R263), write combining (R268), window accesses (R303) and the responses and notices that reach a requester (R77, R259, R271).
-/
namespace Sys2Proof.Machine
open Sys2Proof

/-! ### Doorbells (R246, R300, R305) -/

/-- The slot of context `c` among the slots mapped for VF `v` of port `p` (R305). -/
def vfSlot (s : State) (p v c : Nat) : Option Nat :=
  (List.range 64).find? (fun i => rdb s (Reg.HOSTPORT.VF_CTX_MAP.VALID p v i) && rd s (Reg.HOSTPORT.VF_CTX_MAP.CTX p v i) == c)

/-- Whether context `c` has a doorbell: it serves its function, and a VF's context has a slot (R300, R305). -/
def hasDoorbell (s : State) (c : Nat) : Bool :=
  ctxFunc s c == 0 || (vfSlot s (ctxEp s c) (ctxFunc s c) c).isSome

/-- Function `f` of port `p` has an FLR in progress (R312). -/
def inFlr (s : State) (p f : Nat) : Bool := (findKey s.host.flr (256 * p + f)).isSome

/-- Entry `i` of a list of four set. -/
def setAt (l : List Nat) (i v : Nat) : List Nat := (List.range 4).map (fun j => if j = i then v else l.getD j 0)

/-- log2 entries of submission ring `q`. -/
def sqLog (s : State) (c q : Nat) : Nat := bits (rd s (Reg.EP.CTX.SQ_LOG2 c)) (4 * q) 4

/-- Bytes of a submission ring slot (R246, R321). -/
def sqSlot (s : State) (c : Nat) : Nat := if confOn s (ctxKey s c) then 128 else 64

/-- Reads of every descriptor up to the tail that has not been asked for, in ring order (R246, R281). -/
def askDescs (s : State) (c q : Nat) : Nat → State
  | 0 => s
  | fuel + 1 =>
    let r := ctxRun s c
    let i := r.asked.getD q 0
    if i = r.tail.getD q 0 then s
    else
      let n := ringSize (sqLog s c q)
      let s := setCtx s c { r with asked := setAt r.asked q ((i + 1) % n) }
      askDescs (hostOp s (ctxEp s c) (ctxFunc s c) (rd s (Reg.EP.CTX.SQ_BASE c q) + sqSlot s c * i) (sqSlot s c) (.desc c q i)) c q fuel

/-- A head index as a count of entries: the newest count not above the tail that has that index (R246). -/
def headCount (tail v size : Nat) : Nat := tail - (tail % size + size - v % size) % size

/-- A doorbell write for context `c` (R246, R253): a submission tail, the completion head or the event head. -/
def doorbell (s : State) (c off v : Nat) : State :=
  let r := ctxRun s c
  if !ctxOn s c || r.shut || inFlr s (ctxEp s c) (ctxFunc s c) || !hasDoorbell s c then s
  else if off % 8 = 0 && decide (off < 32) then
    let q := off / 8
    if bitAt (rd s (Reg.EP.CTX.SQ_EN c)) q then
      let n := ringSize (sqLog s c q)
      askDescs (setCtx s c { r with tail := setAt r.tail q (v % n) }) c q n
    else s
  else if off = 0x40 then setCtx s c { r with cqHead := headCount r.cqTail v (ringSize (rd s (Reg.EP.CTX.CQ_LOG2 c))) }
  else if off = 0x48 then eventOverflow (setCtx s c { r with eqHead := headCount r.eqTail v (ringSize (rd s (Reg.EP.CTX.EQ_LOG2 c))) }) c
  else s

/-- The context whose doorbell page is page `page` of BAR4 of a function (R300). -/
def pageCtx (s : State) (port func page : Nat) : Option Nat :=
  if func = 0 then (if ctxEp s page = port ∧ ctxFunc s page = 0 then some page else none)
  else if page < 64 ∧ rdb s (Reg.HOSTPORT.VF_CTX_MAP.VALID port func page) then
    let c := rd s (Reg.HOSTPORT.VF_CTX_MAP.CTX port func page)
    if ctxEp s c = port ∧ ctxFunc s c = func then some c else none
  else none

/-! ### Starting a descriptor (R246, R250, R316) -/

/-- The key of a fetched descriptor. -/
def descKey (c q i : Nat) : Nat := (4 * c + q) * 32768 + i

/-- The fetched descriptor at the head of queue `q` of context `c`, if it may start now (R246, R250). -/
def startable (s : State) (c q : Nat) : Option (Nat × Nat) :=
  let r := ctxRun s c
  let i := r.head.getD q 0
  if !ctxOn s c || r.shut || inFlr s (ctxEp s c) (ctxFunc s c) || !hasDoorbell s c || !bitAt (rd s (Reg.EP.CTX.SQ_EN c)) q ||
      i == r.tail.getD q 0 || !cqRoom s c || !running s (fHost (ctxEp s c)) ||
      (orderedQ s c q && s.ep.descs.any (fun d => d.ctx == c && d.q == q && !d.issued)) then none
  else
    match findKey s.ep.fetched (descKey c q i) with
    | none => none
    | some d => if bitAt d.1 8 && s.ep.descs.any (fun x => x.ctx == c && x.q == q) then none else some d

/-- One of the eight engines of end-point `e` is free (R316). -/
def engineFree (s : State) (e : Nat) : Bool := decide ((s.ep.descs.filter (fun d => d.ep == e && !d.issued && d.q != 4)).length < 8)

/-- The contexts of function `f` of end-point `e` that have a descriptor to start. -/
def readyCtxs (s : State) (e f : Nat) : List Nat :=
  (funcCtxs s e f).filter (fun c => (List.range 4).any (fun q => (startable s c q).isSome))

/-- The functions of end-point `e` that are active (R316). -/
def activeFuncs (s : State) (e : Nat) : List Nat :=
  ((((liveCtxs s).filter (fun c => ctxEp s c == e)).map (ctxFunc s)).dedup).filter (fun f => !(readyCtxs s e f).isEmpty)

/-- Bytes per tick under the rate cap of function `f`: GB/s over 2.56 µs (R316). -/
def capBytes (s : State) (e f : Nat) : Nat := 2560 * rd s (Reg.HOSTPORT.FUNC_QOS.RATE_CAP_GBS e f)

/-- Bytes that function `f` has started beyond what its cap has let through in the ticks since (R316). -/
def startedBytes (s : State) (e f : Nat) : Nat :=
  match findKey s.ep.qosTick (256 * e + f) with | some (t, n) => n - (tickNo s - t) * capBytes s e f | none => 0

/-- The rate cap of function `f` leaves it room in this tick (R316). -/
def underCap (s : State) (e f : Nat) : Bool := capBytes s e f == 0 || decide (startedBytes s e f < capBytes s e f)

/-- The deficit of function `f` (R316). -/
def qosDeficit (s : State) (e f : Nat) : Int := (findKey s.ep.qosDef (256 * e + f)).getD 0
/-- It set. -/
def setQos (s : State) (e f : Nat) (d : Int) : State := { s with ep := { s.ep with qosDef := putKey s.ep.qosDef (256 * e + f) 0 d } }

/-- The first of a list after `x`, wrapping. -/
def nextAfter (l : List Nat) (x : Nat) : Option Nat :=
  match (l.filter (fun y => decide (x < y))).min? with
  | some y => some y
  | none => l.min?

/-- What function `f` gains on a visit (R316). -/
def qosGain (s : State) (e f : Nat) : Nat := 4096 * rd s (Reg.HOSTPORT.FUNC_QOS.WEIGHT e f)

/-- Visits that function `f` needs before its deficit is above 0. -/
def qosNeed (s : State) (e f : Nat) : Nat := (1 - qosDeficit s e f).toNat / max 1 (qosGain s e f)

/-- The rounds over the active functions in which no deficit can come above 0, made at once. -/
def qosSkip (s : State) (e : Nat) (fs : List Nat) : State :=
  let n := ((fs.map (qosNeed s e)).min?.getD 0) - 1
  fs.foldl (fun s f => setQos s e f (qosDeficit s e f + n * qosGain s e f)) s

/-- The deficit round-robin over the active functions (R316). -/
def qosPick (s : State) (e : Nat) (fs : List Nat) : Nat → Option Nat × State
  | 0 => (none, s)
  | fuel + 1 =>
    let f := (findKey s.ep.qosAt e).getD 0
    if fs.contains f && decide (0 < qosDeficit s e f) then (some f, s)
    else
      match nextAfter fs f with
      | none => (none, s)
      | some g =>
        let s := { s with ep := { s.ep with qosAt := setKey s.ep.qosAt e g } }
        qosPick (setQos s e g (qosDeficit s e g + qosGain s e g)) e fs fuel

/-- The context and queue that the engines of end-point `e` serve next (R316), with the deficits after the choice; an
inactive function has none (R317). -/
def pickWork (s : State) (e : Nat) : Option (Nat × Nat) × State :=
  let fs := (activeFuncs s e).filter (underCap s e)
  let s := { s with ep := { s.ep with qosDef := s.ep.qosDef.filter (fun x => x.1 / 256 != e || (activeFuncs s e).contains (x.1 % 256)) } }
  match qosPick (if fs.any (fun f => decide (0 < qosDeficit s e f)) then s else qosSkip s e fs) e fs 1024 with
  | (none, s) => (none, s)
  | (some f, s) =>
    match nextAfter (readyCtxs s e f) ((findKey s.ep.qosCtx (256 * e + f)).getD 4095) with
    | none => (none, s)
    | some c =>
      match nextAfter ((List.range 4).filter (fun q => (startable s c q).isSome)) (ctxRun s c).lastQ with
      | none => (none, s)
      | some q => (some (c, q), s)

/-- QOS_ACTIVE of the functions of end-point `e` brought up to date; the deficit of an inactive function is zero (R317). -/
def qosStatus (s : State) (e : Nat) : State :=
  let s := { s with ep := { s.ep with qosDef := s.ep.qosDef.filter (fun x => x.1 / 256 != e || (activeFuncs s e).contains (x.1 % 256)) } }
  ((((liveCtxs s).filter (fun c => ctxEp s c == e)).map (ctxFunc s)).dedup).foldl
    (fun t f => wrb t (Reg.HOSTPORT.FUNC_STATE.QOS_ACTIVE e f) (!(readyCtxs s e f).isEmpty)) s

/-! ### Packets of a descriptor -/

/-- A request header of context `c` (R49): homed kinds whose home plane is another plane are sent by relay (R78, R243). -/
def reqHdr (s : State) (c dest : Nat) (k : Kind) (tc attr len fpa xgen : Nat) (ext : BitVec 256) : Hdr :=
  let e := ctxEp s c
  let homed := bitAt attr 2
  let far := homePlane fpa (planesOf (rd s (Reg.EP.EP_PLANES.PLANE_LIST e))) != planeId s
  { dest := BitVec.ofNat 12 dest, src := BitVec.ofNat 12 (epId s e), tenant := BitVec.ofNat 12 (ctxTenant s c), kind := k.code,
    tc := BitVec.ofNat 3 tc, rly := if homed && far then 1 else 0, len := BitVec.ofNat 10 len,
    epoch := BitVec.ofNat 8 (epochOf s (ctxTenant s c)), xgen := BitVec.ofNat 8 xgen, attr := BitVec.ofNat 8 attr,
    addr := BitVec.ofNat 60 fpa, ext := ext }

/-- The outcome of translating one piece (R278): FPA and XGEN, or CCODE and DETAIL. -/
inductive Xlate where
  | ok (fpa xgen : Nat)
  | no (cc detail : Nat)
deriving DecidableEq, Repr

/-- One piece translated (R278): NO_EXTENT, PERMISSION, and the UNSUPPORTED cases of a PIN entry. -/
def xlate (s : State) (c : Nat) (table : List Nat) (v bit : Nat) (homed : Bool) : Xlate :=
  match segFor table v with
  | none => .no ccDenied 1
  | some g =>
    let lst := planesOf (rd s (Reg.EP.EP_PLANES.PLANE_LIST (ctxEp s c)))
    if !segPerm g bit then .no ccDenied 3
    else if bitAt g 5 && (!lst.contains (bits g 6 5) || (homed && homePlane (segFpa g v) lst != bits g 6 5)) then .no ccUnsupported 0
    else .ok (segFpa g v) (bits g 16 8)

/-- A descriptor's count of live requests raised. -/
def descMore (s : State) (i : Nat) : State := match descOf s i with | some d => setDesc s { d with live := d.live + 1 } | none => s
/-- A failed piece noted on a descriptor. -/
def descFail (s : State) (i off cc detail : Nat) : State := match descOf s i with | some d => setDesc s (d.fail off cc detail) | none => s

/-- A request of descriptor `i` issued. -/
def issueReq (s : State) (d : Desc) (off len : Nat) (h : Hdr) (payload : List Byte) : State :=
  addReq (descMore s d.id) d.ep d.ctx d.q [(d.id, off, len, 0)] h payload false 0

/-! ### Write combining (R268) -/

/-- The stream of a merged write: a submission queue, or the window stream of a port. -/
def sameStream (m : Merge) (e c q : Nat) : Bool := m.ep == e && m.q == q && (q == 4 || m.ctx == c)

/-- A merged write sent. -/
def mergeSend (s : State) (m : Merge) : State :=
  let s := { s with ep := { s.ep with merges := s.ep.merges.erase m } }
  pump (addReq s m.ep m.ctx m.q m.parts m.h m.payload false 0) m.ep

/-- Every merged write with property `f` sent. -/
def mergeFlush (s : State) (f : Merge → Bool) : State := (s.ep.merges.filter f).foldl mergeSend s

/-- First offset in its 256 B block, and length, of a small write. -/
def blockOff (h : Hdr) : Nat := h.addr.toNat % 256

/-- A small write joins the merged write of its stream: one DEST, one 256 B block, the same fields, adjacent or overlapping. -/
def mergeable (m : Merge) (c : Nat) (h : Hdr) : Bool :=
  m.ctx == c && m.h.dest == h.dest && m.h.addr.toNat / 256 == h.addr.toNat / 256 && m.h.tc == h.tc && m.h.xgen == h.xgen &&
  m.h.epoch == h.epoch && m.h.attr == h.attr && decide (blockOff h ≤ blockOff m.h + m.h.len.toNat) && decide (blockOff m.h ≤ blockOff h + h.len.toNat)

/-- The merged write of `m` and a further write (R268). -/
def mergeWith (m : Merge) (did off : Nat) (h : Hdr) (data : List Byte) : Merge :=
  let lo := min (blockOff m.h) (blockOff h)
  let hi := max (blockOff m.h + m.h.len.toNat) (blockOff h + h.len.toNat)
  let body := putBytes (putBytes (List.replicate (hi - lo) 0) (blockOff m.h - lo) (m.payload.take m.h.len.toNat)) (blockOff h - lo) data
  let a := m.h.addr.toNat / 256 * 256 + lo
  { m with h := { m.h with addr := BitVec.ofNat 60 a, len := BitVec.ofNat 10 (hi - lo) }, payload := padFlits body,
           parts := m.parts ++ [(did, off, h.len.toNat, blockOff h - lo)] }

/-- A small write with NC clear (R268): merged, or the stream's merged write is sent and a new one begun. -/
def combine (s : State) (d : Desc) (off : Nat) (h : Hdr) (data : List Byte) : State :=
  let s := descMore s d.id
  match s.ep.merges.find? (fun m => sameStream m d.ep d.ctx d.q) with
  | some m =>
    if mergeable m d.ctx h then
      { s with ep := { s.ep with merges := s.ep.merges.map (fun x => if x == m then mergeWith m d.id off h data else x) } }
    else
      let s := mergeSend s m
      let n : Merge := { ep := d.ep, ctx := d.ctx, q := d.q, h := h, payload := padFlits data, parts := [(d.id, off, data.length, 0)], at_ := s.now }
      { s with ep := { s.ep with merges := s.ep.merges ++ [n] } }
  | none =>
    let n : Merge := { ep := d.ep, ctx := d.ctx, q := d.q, h := h, payload := padFlits data, parts := [(d.id, off, data.length, 0)], at_ := s.now }
    let s := { s with ep := { s.ep with merges := s.ep.merges ++ [n] } }
    if rd s (Reg.EP.EP_TIMING.WC_HOLD_NS d.ep) = 0 then mergeSend s n else s

/-! ### Issue by opcode (R248, R249) -/

/-- ATTR of the reads of a descriptor: VOL, ACQ, COMB and NC (R55, R247); ACQ, COMB and HOME only on small reads (R56). -/
def readAttr (d : Desc) (bulk : Bool) : Nat :=
  let vol := bitAt d.d 10
  let comb := bitAt d.d 12 && !bulk
  packBits [(0, 1, b2n vol), (1, 1, b2n (vol && bitAt d.d 11 && !bulk)), (2, 1, b2n ((vol || comb) && !bulk)), (3, 1, b2n comb),
    (4, 1, b2n (bitAt d.d 13))]

/-- RADDR, TC of a descriptor. -/
def Desc.raddr (d : Desc) : Nat := d.f 192 57
/-- TC of a descriptor (R247). -/
def Desc.tc (d : Desc) : Nat := d.f 25 3

/-- One read piece (R249, R267): served from the near cache, or sent. -/
def readPiece (table : List Nat) (s : State) (d : Desc) (p : Piece) : State :=
  let attr := readAttr d p.bulk
  match xlate s d.ctx table p.v 1 (bitAt attr 2) with
  | .no cc dt => descFail s d.id p.off cc dt
  | .ok fpa xgen =>
    match (if !bitAt d.d 10 && !bitAt d.d 13 then nearRead s d.ep d.ctx fpa p.len else none) with
    | some data => result s d.id d.len p.off data
    | none =>
      if p.bulk then
        issueReq s d p.off p.len (reqHdr s d.ctx (fpa / 2 ^ 48) .readBulk d.tc attr 0 fpa xgen (mkExt [(64, 12, p.len)])) []
      else
        issueReq s d p.off p.len (reqHdr s d.ctx (fpa / 2 ^ 48) .read (if bitAt attr 2 then 1 else d.tc) attr p.len fpa xgen 0) []

/-- One write piece (R249, R267, R268), with the counter fields `sig` of a signalled message: SIG set, CTR and MSG. -/
def writePiece (table : List Nat) (sig : Option (Nat × Nat)) (s : State) (d : Desc) (p : Piece) : State :=
  let ext := match sig with | some (ctr, msg) => [(32, 10, ctr), (48, 16, msg)] | none => []
  let attr := packBits [(4, 1, b2n (bitAt d.d 13)), (5, 1, b2n sig.isSome)]
  match xlate s d.ctx table p.v 2 false with
  | .no cc dt => descFail s d.id p.off cc dt
  | .ok fpa xgen =>
    let s := nearKill s d.ep d.ctx fpa p.len
    let data := ((d.data.getD []).drop p.off).take p.len
    if p.bulk then
      issueReq (mergeFlush s (fun m => sameStream m d.ep d.ctx d.q)) d p.off p.len
        (reqHdr s d.ctx (fpa / 2 ^ 48) .writeBulk d.tc attr 0x3FF fpa xgen (mkExt ((64, 12, p.len) :: ext))) (mkTile [(80, 12, p.len)] data)
    else
      let h := reqHdr s d.ctx (fpa / 2 ^ 48) .write d.tc attr p.len fpa xgen (mkExt ext)
      if sig.isNone && !bitAt d.d 13 then combine s d p.off h data
      else issueReq (mergeFlush s (fun m => sameStream m d.ep d.ctx d.q)) d p.off p.len h (padFlits data)

/-- The pieces of a READ or WRITE: all of them, or those that are to be translated again. -/
def piecesOf (table : List Nat) (d : Desc) : List Piece :=
  if d.todo.isEmpty then cutAll table 0 d.raddr d.len 64
  else d.todo.flatMap (fun t => cutAll table t.1 (d.raddr + t.1) t.2 64)

/-- The CTR and MSG of a signalled message to DEST (R263), noted as the last of its credit, which is busy with it from here on; without an idle
credit it is uncredited, and a RELAXED queue asks for a credit while it may hold more. -/
def openMessage (s : State) (d : Desc) (dest : Nat) : (Nat × Nat) × State :=
  let e := d.ep
  let mine := s.ep.credits.filter (fun c => c.ep == e && c.dest == dest)
  match (if orderedQ s d.ctx d.q then none else mine.find? (fun c => c.busy.isNone)) with
  | some c =>
    let n := (c.last + 1) % 65536
    ((c.ctr, n), { s with ep := { s.ep with credits := s.ep.credits.map (fun x => if x == c then { x with last := n, used := s.now, busy := some d.id } else x) } })
  | none =>
    let k := 4096 * e + dest
    let n := (findKey s.ep.msgNext k).getD 1
    let s := { s with ep := { s.ep with msgNext := setKey s.ep.msgNext k ((n + 1) % 65536) } }
    let s := if !orderedQ s d.ctx d.q && (findKey s.ep.asks k).isNone && ctrMay s e dest && decide (mine.length < rd s (Reg.EP.EP_CFG.CREDIT_MAX e)) then
        offer { s with ep := { s.ep with asks := setKey s.ep.asks k (n, s.now) } } (epPort e) (ctrCtl s e dest (ctxTenant s d.ctx) 0 0 n)
      else s
    ((1023, n), s)

/-- The SIGNAL that ends a message of `count` packets (R65, R263): its credit is busy until it has completed. -/
def sendSignal (s : State) (d : Desc) (fpa xgen ctr msg count : Nat) : State :=
  let h := reqHdr s d.ctx (fpa / 2 ^ 48) .signal d.tc 0 0 fpa xgen (mkExt [(32, 10, ctr), (48, 16, msg), (64, 32, count), (128, 64, d.f 448 64)])
  let id := s.ep.nextId
  let mine := fun (c : Credit) => c.ep == d.ep && c.dest == fpa / 2 ^ 48 && c.ctr == ctr
  let s := issueReq s d d.len 0 h []
  if ctr = 1023 then s
  else { s with ep := { s.ep with credits := s.ep.credits.map (fun x => if mine x then { x with busy := some id } else x) } }

/-- The pieces of a signalled WRITE: all of them as its message opens, then those that are to be translated again. -/
def messagePieces (table : List Nat) (d : Desc) : List Piece := if d.msg.isSome && d.todo.isEmpty then [] else piecesOf table d

/-- A signalled WRITE (R248, R263): a message opened, or gone on with where packets of it are translated again (R280); a piece that fails
leaves it without a SIGNAL. -/
def signalled (s : State) (d : Desc) (table : List Nat) : State :=
  match xlate s d.ctx table d.raddr 2 false, xlate s d.ctx table (d.f 384 57) 2 false with
  | .no cc dt, _ => descFail s d.id 0 cc dt
  | _, .no cc dt => descFail s d.id d.len cc dt
  | .ok a _, .ok sa sx =>
    if a / 2 ^ 48 ≠ sa / 2 ^ 48 then descFail s d.id 0 ccUnsupported 0
    else
      let ps := messagePieces table d
      let (cm, s) := match d.msg with | some m => ((m.1, m.2.1), s) | none => openMessage s d (a / 2 ^ 48)
      let n := (match d.msg with | some m => m.2.2 | none => 0) + ps.length
      let s := ps.foldl (fun s p => writePiece table (some cm) s d p) s
      match descOf s d.id with
      | some x => if x.bad.isSome then s else sendSignal (setDesc s { x with msg := some (cm.1, cm.2, n) }) d sa sx cm.1 cm.2 n
      | none => s

/-- A descriptor of one packet with an FVA (R248). -/
def single (s : State) (d : Desc) (table : List Nat) (bit : Nat) (homed : Bool) (k : Kind) (tc attr len : Nat) (ext : BitVec 256) (payload : List Byte) : State :=
  match xlate s d.ctx table d.raddr bit homed with
  | .no cc dt => descFail s d.id 0 cc dt
  | .ok fpa xgen =>
    let s := if k == .writeTile then nearKill s d.ep d.ctx fpa tileLen else s
    issueReq s d 0 (if k == .writeTile then d.len else 0) (reqHdr s d.ctx (fpa / 2 ^ 48) k tc attr len fpa xgen ext) payload

/-- FLUSH (R267, R268): the context's merged writes are sent and its near-cache lines invalidated, whole or over RADDR and LEN;
a part with no segment completes DENIED (R278). -/
def flushDesc (s : State) (d : Desc) (table : List Nat) : State :=
  let s := mergeFlush s (fun m => m.ctx == d.ctx)
  if d.len = 0 then nearDrop s (fun e c _ => e == d.ep && c == d.ctx)
  else
    (cutAll table 0 d.raddr d.len 64).foldl (fun s p =>
      match segFor table p.v with
      | some g => nearKill s d.ep d.ctx (segFpa g p.v) p.len
      | none => descFail s d.id p.off ccDenied 1) s

/-- The descriptor's TC is one that its packets may use (R58, R247). -/
def tcOk (d : Desc) : Bool := decide (3 ≤ d.tc ∧ d.tc ≤ 6)

/-- LEN lies in the range of R248 for its opcode. -/
def lenRange (d : Desc) : Bool :=
  match d.op with
  | 1 | 2 => decide (1 ≤ d.len)
  | 3 => d.len == 2048
  | 4 => decide (1 ≤ d.len ∧ d.len ≤ 2048)
  | _ => true

/-- The packets of a descriptor issued, through the table of its context (R248). -/
def issueDesc (s : State) (d : Desc) (table : List Nat) : State :=
  match d.op with
  | 1 => (piecesOf table d).foldl (fun s p => readPiece table s d p) (if bitAt d.d 10 then mergeFlush s (fun m => m.ctx == d.ctx) else s)
  | 2 => if bitAt d.d 9 then signalled s d table else (piecesOf table d).foldl (fun s p => writePiece table none s d p) s
  | 3 => single s d table 1 false .readTile d.tc (packBits [(4, 1, b2n (bitAt d.d 13))]) 0 0 []
  | 4 =>
    single s d table 2 false .writeTile d.tc 0 0x3FF 0 (mkTile [(80, 12, d.len)] ((d.data.getD []).take d.len))
  | 5 => single s d table 3 true .atomic 1 (packBits [(2, 1, 1), (3, 1, b2n (bitAt d.d 12))]) 0
      (mkExt [(32, 4, d.f 20 4), (36, 1, d.f 24 1), (64, 64, d.f 256 64), (128, 64, d.f 320 64)]) []
  | 6 => single s d table 4 true .own 1 4 0 (mkExt [(32, 4, d.f 20 4), (64, 64, d.f 256 64)]) []
  | 7 =>
    let g := d.f 320 8
    issueReq s d 0 0 (reqHdr s d.ctx (serviceId s) .gather 1 0 0x3FF 0 0 0)
      (mkTile [(64, 4, d.f 16 4), (68, 4, 3), (80, 12, 8 * g), (192, 8, g), (200, 12, d.f 328 12)] ((d.data.getD []).take (8 * g)))
  | 9 => flushDesc s d table
  | _ => s

/-- The opcode needs the segment table (R278). -/
def needsTable (d : Desc) : Bool := (decide (1 ≤ d.op ∧ d.op ≤ 6)) || (d.op == 9 && d.len != 0)

/-- Bytes of LADDR data that a descriptor reads. -/
def dataLen (d : Desc) : Nat := if d.op = 2 || d.op = 4 then d.len else if d.op = 7 then 8 * d.f 320 8 else 0

/-- An earlier acquire read of the context is in progress (R266): later reads wait. -/
def acqBlocked (s : State) (d : Desc) : Bool :=
  (d.op == 1 || d.op == 3 || d.op == 7) && s.ep.descs.any (fun x => decide (x.id < d.id) && x.ctx == d.ctx && x.acq)

/-- An earlier descriptor of an ORDERED queue has packets to issue (R250). -/
def orderBlocked (s : State) (d : Desc) : Bool :=
  orderedQ s d.ctx d.q && s.ep.descs.any (fun x => decide (x.id < d.id) && x.ep == d.ep && (x.ctx == d.ctx || d.q == 4) && x.q == d.q && !x.issued)

/-- A read of the segment table of context `c` (R277, R279, R321), unless one is under way. -/
def askTable (s : State) (c : Nat) : State :=
  if s.host.ops.any (fun o => o.what == .segs c && !o.dead) then s
  else hostOp s (ctxEp s c) (ctxFunc s c) (512 * rd s (Reg.EXTENT.SEG_BASE.BASE c)) (if confOn s (ctxKey s c) then 1024 else 512) (.segs c)

/-- A descriptor at the head of its queue with FENCE sends the stream's merged write (R268). -/
def fenceFlush (s : State) (c q : Nat) : State :=
  match findKey s.ep.fetched (descKey c q ((ctxRun s c).head.getD q 0)) with
  | some d => if bitAt d.1 8 && (ctxRun s c).head.getD q 0 != (ctxRun s c).tail.getD q 0 then mergeFlush s (fun m => m.ctx == c && m.q == q) else s
  | none => s

/-- A descriptor whose table and data are present issues its packets (R249, R278), after the merged write of its stream, unless it may merge
itself (R250, R268); a FENCE that waits behind it sends a write merged now; a SWARM descriptor is handled apart. -/
def tryIssue (s : State) (i : Nat) : State :=
  match descOf s i with
  | none => s
  | some d =>
    if d.issued || d.op == 8 || acqBlocked s d || orderBlocked s d || (decide (0 < dataLen d) && d.data.isNone) then s
    else if needsTable d && (segTable s d.ctx).isNone then askTable s d.ctx
    else
      let s := if d.op = 2 ∨ d.op = 10 then s else mergeFlush s (fun m => sameStream m d.ep d.ctx d.q)
      let s := issueDesc s d ((segTable s d.ctx).getD [])
      match descOf s i with
      | some x => windowDone (fenceFlush (pump (setDesc s { x with issued := true, todo := [] }) d.ep) d.ctx d.q) i
      | none => s

/-- Every descriptor of context `c`, and every window access, that waits to issue is tried, in order. -/
def advanceAll (s : State) (c : Nat) : State :=
  ((s.ep.descs.filter (fun d => (d.ctx == c || d.q == 4) && !d.issued)).map (fun d => d.id)).foldl tryIssue s

/-- DESCRIPTOR_COMPLETE (R250): without effect while a packet of the descriptor has not completed (R16). A read that an acquire held goes on
(R266). -/
def execDescriptorComplete (id : Nat) (s : State) : Host.Outcome State Fault Refusal :=
  .next (match s.ep.descs.find? (fun d => d.id == id && d.issued && d.live == 0 && d.q != 4 &&
      !(s.host.atsWait.any (fun w => w.ring == 4097 + d.id))) with
    | some d => advanceAll (completeDesc s d) d.ctx
    | none => s)

/-- Bytes of payload that a descriptor is charged for (R316), the list of a GATHER among them: at least 64. -/
def charged (d : Nat) : Nat :=
  max 64 (if decide (1 ≤ bits d 0 8 ∧ bits d 0 8 ≤ 4) || bits d 0 8 == 8 then bits d 32 32 else if bits d 0 8 = 7 then 8 * bits d 320 8 else 0)

/-- The descriptor at the head of queue `q` of context `c` taken by an engine: head moved on, share charged (R246, R316). -/
def takeDesc (s : State) (c q : Nat) (d : Nat × Nat) : State × Desc :=
  let e := ctxEp s c
  let f := ctxFunc s c
  let r := ctxRun s c
  let i := r.head.getD q 0
  let nx := (i + 1) % ringSize (sqLog s c q)
  let x : Desc :=
    { id := s.ep.nextId, ep := e, ctx := c, q := q, idx := nx, rc := d.2 % 2 ^ 63, d := d.1, issued := false, todo := [], data := none,
      live := 0, bad := if d.2 / 2 ^ 63 = 1 then some (0, ccDenied, 5) else none, result := 0, result2 := 0, moved := 0, chunks := [] }
  let n := charged d.1
  let s := setQos (setCtx s c { r with head := setAt r.head q nx, lastQ := q }) e f (qosDeficit s e f - n)
  let ep :=
    { s.ep with
      nextId := s.ep.nextId + 1, descs := s.ep.descs ++ [x], fetched := delKey s.ep.fetched (descKey c q i),
      qosCtx := setKey s.ep.qosCtx (256 * e + f) c, qosTick := setKey s.ep.qosTick (256 * e + f) (tickNo s, startedBytes s e f + n) }
  (ctxStatus { s with ep := ep } c, x)

/-- A started descriptor other than SWARM: refused at once where its fields allow no packet, else its data is read and its packets
issued when all is present. -/
def beginDesc (s : State) (x : Desc) : State :=
  let bad := (decide (1 ≤ x.op ∧ x.op ≤ 4) && (!tcOk x || !lenRange x)) || decide (x.op = 0 ∨ 10 < x.op)
  if x.bad.isSome then setDesc s { x with issued := true }
  else if bad then setDesc s { x.fail 0 ccUnsupported 0 with issued := true }
  else
    let s := if 0 < dataLen x then
        hostOp s x.ep (ctxFunc s x.ctx) (x.f 128 64) (if confOn s (ctxKey s x.ctx) then confTagAddr 0 (dataLen x) ((dataLen x + 2047) / 2048) else dataLen x) (.data x.id)
      else s
    tryIssue s x.id

/-- The engines of end-point `e` take their next descriptor, where it is one that `want` names (R316). -/
def startNext (s : State) (e : Nat) (want : Nat → Bool) : Option (State × Desc) :=
  if !engineFree s e then none else
  match pickWork s e with
  | (some (c, q), t) =>
    match startable t c q with
    | some d => if want (bits d.1 0 8) then some (takeDesc t c q d) else none
    | none => none
  | (none, _) => none

/-- A started descriptor's step: its packets, then the FENCE behind it. -/
def runDesc (s : State) (e : Nat) (want : Nat → Bool) : State :=
  match startNext s e want with
  | some (t, x) => qosStatus (fenceFlush (beginDesc t x) x.ctx x.q) e
  | none => s

/-- DOORBELL_WRITE (R246, R300). -/
def execDoorbellWrite (port : Fin 2) (func : BitVec 8) (page off : BitVec 12) (v : BitVec 32) (s : State) : Host.Outcome State Fault Refusal :=
  .next (match pageCtx s port.val func.toNat page.toNat with
    | some c => qosStatus (doorbell s c off.toNat v.toNat) port.val
    | none => s)

/-- DESC_READ (R249). -/
def execDescRead (e : Fin 2) (s : State) : Host.Outcome State Fault Refusal := .next (runDesc s e.val (· == 1))
/-- DESC_WRITE (R249). -/
def execDescWrite (e : Fin 2) (s : State) : Host.Outcome State Fault Refusal := .next (runDesc s e.val (· == 2))
/-- DESC_READ_TILE (R248). -/
def execDescReadTile (e : Fin 2) (s : State) : Host.Outcome State Fault Refusal := .next (runDesc s e.val (· == 3))
/-- DESC_WRITE_TILE (R248). -/
def execDescWriteTile (e : Fin 2) (s : State) : Host.Outcome State Fault Refusal := .next (runDesc s e.val (· == 4))
/-- DESC_ATOMIC (R248). -/
def execDescAtomic (e : Fin 2) (s : State) : Host.Outcome State Fault Refusal := .next (runDesc s e.val (· == 5))
/-- DESC_OWN (R248). -/
def execDescOwn (e : Fin 2) (s : State) : Host.Outcome State Fault Refusal := .next (runDesc s e.val (· == 6))
/-- DESC_GATHER (R248). -/
def execDescGather (e : Fin 2) (s : State) : Host.Outcome State Fault Refusal := .next (runDesc s e.val (· == 7))
/-- DESC_FLUSH (R267). -/
def execDescFlush (e : Fin 2) (s : State) : Host.Outcome State Fault Refusal := .next (runDesc s e.val (· == 9))
/-- DESC_NOP (R248). -/
def execDescNop (e : Fin 2) (s : State) : Host.Outcome State Fault Refusal := .next (runDesc s e.val (· == 10))
/-- DESC_UNSUPPORTED (R248). -/
def execDescUnsupported (e : Fin 2) (s : State) : Host.Outcome State Fault Refusal := .next (runDesc s e.val (fun o => decide (o = 0 ∨ 10 < o)))

/-- WC_HOLD_EXPIRE (R268): merged writes whose hold is over are sent. -/
def execWcHoldExpire (e : Fin 2) (s : State) : Host.Outcome State Fault Refusal :=
  .next (mergeFlush s (fun m => m.ep == e.val && decide (m.at_ + ns (rd s (Reg.EP.EP_TIMING.WC_HOLD_NS e.val)) ≤ s.now)))

/-! ### Responses at the requester (R77, R257, R259) -/

/-- The final response of a relayed request: on to the original SRC with RLY = 0 and the SEQ of its request (R60, R78). One of an older epoch
is discarded (R80). -/
def relayAnswer (s : State) (e : Nat) (p : Packet) : State :=
  if oldEpoch s p.h then cnt s (Reg.EP.EP_COUNT_B.RESP_DISCARDS e)
  else
    let k := relayKey e p.h.via.toNat p.h.tag.toNat p.h.seq.toNat
    let seq := match findKey s.ep.relays k with | some n => BitVec.ofNat 16 n.1 | none => p.h.seq
    drainBehind (offer { s with ep := { s.ep with relays := delKey s.ep.relays k } } (epPort e)
      (mkPacket s { p.h with dest := p.h.via, src := BitVec.ofNat 12 (epId s e), rly := 0, via := 0, seq := seq } p.payload)) e

/-- The request in ATTEMPT that an arriving response completes (R259, R271): by TAG, tag generation and epoch. -/
def accepted (s : State) (e : Nat) (h : Hdr) : Option Reqst :=
  match s.ep.reqs.find? (fun r => r.ep == e && r.h.tag == h.tag && (r.st == 0 || r.st == 1)) with
  | some r => if r.gen = h.cookie / 4 && !oldEpoch s h && r.h.k.map Kind.respKind == h.k then some r else none
  | none => none

/-- Packet `p` at end-point `e` ends the attempt of request `r`, where it is accepted: its response, or an UNREACHABLE notice of it. -/
def endsAttempt (s : State) (e : Nat) (r : Reqst) (p : Packet) : Bool :=
  !oldEpoch s p.h && p.h.tag == r.h.tag &&
    (if p.h.k == some .notice then p.h.x 0 8 == 1 && p.h.x 64 32 == r.h.cookie
     else r.h.k.map Kind.respKind == p.h.k && p.h.rly != 2 && r.gen == p.h.cookie / 4 && !stale s e p.h)

/-- The request `i` in ATTEMPT whose timer has expired, with nothing on its way that was stamped before the expiry and ends the attempt (R97,
R271). -/
def timedOut (s : State) (i : Nat) : Option Reqst :=
  s.ep.reqs.find? (fun r => r.id == i && r.st == 1 && decide (attemptEnds s r ≤ s.now) &&
    !(onWay s (epPort r.ep)).any (fun p => endsAttempt s r.ep r p && decide (stampedAt s p < attemptEnds s r)))

/-- REQUEST_ATTEMPT_TIMEOUT (R271): without effect before the attempt time is over (R16). -/
def execRequestAttemptTimeout (id : Nat) (s : State) : Host.Outcome State Fault Refusal :=
  .next (match timedOut s id with | some r => failAttempt s r | none => s)

/-- Packet `p` reaches end-point `e` stamped at or past the expiry of the attempt that it would end: the timer expired first (R97). -/
def expireFirst (s : State) (e : Nat) (p : Packet) : State :=
  match s.ep.reqs.find? (fun r => r.ep == e && r.st == 1 && endsAttempt s e r p && decide (attemptEnds s r ≤ stampedAt s p)) with
  | some r => failAttempt s r
  | none => s

/-- A response of kind `k` at end-point `e`: relayed on, discarded when stale or not accepted, else handed to `f` (R257, R259). -/
def respArrive (s : State) (e : Nat) (p : Packet) (k : Kind) (f : State → Reqst → State) : State :=
  if p.h.k ≠ some k then s
  else received s (epPort e) p (fun s =>
    if p.h.rly = 2 then relayAnswer s e p
    else if stale s e p.h then cnt s (Reg.EP.EP_COUNT_B.STALE_DISCARDS e)
    else
      let s := expireFirst s e p
      match accepted s e p.h with
      | some r => advanceAll (f s r) r.ctx
      | none => cnt s (Reg.EP.EP_COUNT_B.RESP_DISCARDS e))

/-- CCODE and DETAIL of a response (R71). -/
def respCode (h : Hdr) : Nat × Nat := (h.x 32 8, h.x 40 8)

/-- Result bytes of a response delivered to its descriptor. -/
def deliverRead (s : State) (r : Reqst) (data : List Byte) : State :=
  match r.parts.head? with
  | some p => (match descOf s p.1 with | some d => result s d.id (if d.op = 7 then data.length else d.len) p.2.1 data | none => s)
  | none => s

/-- The near cache takes the granules of an OK read that had NC and VOL clear (R267). -/
def cacheRead (s : State) (r : Reqst) (data : List Byte) : State :=
  if r.h.nc || r.h.vol then s else nearFill s r.ep r.ctx r.h.addr.toNat data

/-- COMPLETION (R259). -/
def execCompletion (e : Fin 2) (p : Packet) (s : State) : Host.Outcome State Fault Refusal :=
  .next (respArrive s e.val p .completion (fun s r => answerReq s r (respCode p.h).1 (respCode p.h).2 0 0))

/-- READ_RESP (R259). -/
def execReadResp (e : Fin 2) (p : Packet) (s : State) : Host.Outcome State Fault Refusal :=
  .next (respArrive s e.val p .readResp (fun s r =>
    let data := padTo r.h.len.toNat p.payload
    if (respCode p.h).1 = 0 then answerReq (cacheRead (deliverRead s r data) r data) r 0 0 0 0
    else answerReq s r (respCode p.h).1 (respCode p.h).2 0 0))

/-- ATOMIC_RESP (R259): the old value, or the version and owner. -/
def execAtomicResp (e : Fin 2) (p : Packet) (s : State) : Host.Outcome State Fault Refusal :=
  .next (respArrive s e.val p .atomicResp (fun s r => answerReq
    (match r.parts.head? with
     | some q => (match descOf s q.1 with | some d => setDesc s { d with result := p.h.x 64 64, result2 := p.h.x 128 64 } | none => s)
     | none => s) r (respCode p.h).1 (respCode p.h).2 (p.h.x 64 64) (p.h.x 128 64)))

/-- A repeat of a READ_TILE with a new TAG (R77, R269), translated anew through the table of its context (R280), for which it waits where it is
not held; `reread` and `torn` say what has been tried. -/
def readAgain (s : State) (r : Reqst) (reread : Bool) (torn : Nat) : State :=
  match (match r.parts.head? with | some p => descOf s p.1 | none => none), segTable s r.ctx with
  | some d, some table =>
    (match xlate s r.ctx table d.raddr 1 false with
     | .no cc dt => finishReq s r cc dt 0 0
     | .ok fpa xgen =>
       let h := reqHdr s r.ctx (fpa / 2 ^ 48) .readTile r.h.tc.toNat (r.h.attr.toNat &&& 0xBF) 0 fpa xgen 0
       pump (addReq (dropReq s r) r.ep r.ctx r.q r.parts h [] reread torn) r.ep)
  | _, _ => askTable (setReq s { r with st := 6, reread := reread, torn := torn }) r.ctx

/-- The READ_TILEs of context `c` that wait for its segment table are repeated (R280). -/
def repeatReads (s : State) (c : Nat) : State :=
  (s.ep.reqs.filter (fun r => r.ctx == c && r.st == 6)).foldl (fun s r => readAgain s r r.reread r.torn) s

/-- A TORN outcome (R269): the read is to be repeated after TORN_GAP_NS, up to TORN_RETRIES times, else it is the outcome. -/
def tornRead (s : State) (r : Reqst) : State :=
  if r.torn < rd s (Reg.EP.EP_TIMING.TORN_RETRIES r.ep) then setReq s { r with st := 4, sentAt := s.now } else answerReq s r ccTorn 0 0 0

/-- A sealed tile read classified (R77). -/
def classifyTile (s : State) (r : Reqst) (t : List Byte) : State :=
  if tileGen t % 2 = 1 then tornRead s r
  else if tileCrcOk t then (if r.reread then tornRead s r else answerReq (deliverRead s r (tileData t)) r 0 0 0 0)
  else if r.reread then answerReq s r ccCorrupt 0 0 0
  else readAgain s r true r.torn

/-- TILE_RESP (R77): bulk data, a gather result, or a sealed tile; a bulk tile that fails its CRC is not used (R75). -/
def execTileResp (e : Fin 2) (p : Packet) (s : State) : Host.Outcome State Fault Refusal :=
  .next (respArrive s e.val p .tileResp (fun s r =>
    if (respCode p.h).1 ≠ 0 then answerReq s r (respCode p.h).1 (respCode p.h).2 0 0
    else if r.h.k == some .readTile then classifyTile s r p.payload
    else if !tileCrcOk p.payload then s
    else
      let data := (tileData p.payload).take (if r.h.k == some .readBulk then r.h.x 64 12 else tileValid p.payload)
      let s := deliverRead s r data
      answerReq (if r.h.k == some .readBulk then cacheRead s r data else s) r 0 0 0 0))

/-- TORN_RETRY (R269): TORN_GAP_NS after a TORN outcome the whole read is repeated. -/
def execTornRetry (id : Nat) (s : State) : Host.Outcome State Fault Refusal :=
  .next (match s.ep.reqs.find? (fun r => r.id == id && r.st == 4) with
    | some r => if r.sentAt + ns (rd s (Reg.EP.EP_TIMING.TORN_GAP_NS r.ep)) ≤ s.now then readAgain s r false (r.torn + 1) else s
    | none => s)

/-! ### Notices (R83, R258, R271, R358) -/

/-- The packet is a notice of the given code (R72). -/
def isNotice (p : Packet) (c : Nat) : Bool := p.h.k == some .notice && p.h.x 0 8 == c

/-- NOTICE_UNREACHABLE (R271): DEST is barred for 4 ms, and the attempt that the notice names has failed. -/
def execNoticeUnreachable (e : Fin 2) (p : Packet) (s : State) : Host.Outcome State Fault Refusal :=
  .next (if !isNotice p 1 then s
    else received s (224 + e.val) p (fun s =>
      if oldEpoch s p.h then s
      else
        let s := expireFirst s e.val p
        let s := { s with ep := { s.ep with bars := setKey s.ep.bars (4096 * e.val + p.h.x 8 12) (s.now + ms 4) } }
        match s.ep.reqs.find? (fun r => r.ep == e.val && r.h.tag == p.h.tag && r.st == 1 && r.h.cookie == p.h.x 64 32) with
        | some r => advanceAll (failAttempt s r) r.ctx
        | none => s))

/-- A NOTICE event (R252): NCODE and SUBJECT. -/
def noticeEvent (s : State) (l : List Nat) (h : Hdr) : State := postAll s l 4 (h.x 0 8) (h.x 8 12) 0 0

/-- NOTICE_PORT_DOWN (R83): posted to the end-point's ADMIN_CTX. -/
def execNoticePortDown (e : Fin 2) (p : Packet) (s : State) : Host.Outcome State Fault Refusal :=
  .next (if !isNotice p 2 then s else received s (224 + e.val) p (fun s => noticeEvent s [rd s (Reg.EP.EP_CFG.ADMIN_CTX e.val)] p.h))

/-- NOTICE_MEMBER_LOST (R215): posted to the end-point's ADMIN_CTX. -/
def execNoticeMemberLost (e : Fin 2) (p : Packet) (s : State) : Host.Outcome State Fault Refusal :=
  .next (if !isNotice p 3 then s else received s (224 + e.val) p (fun s => noticeEvent s [rd s (Reg.EP.EP_CFG.ADMIN_CTX e.val)] p.h))

/-- NOTICE_TAKEOVER (R358): cocooned requests to the ID are re-issued, counter entries of it go to HOLD, its near-cache lines
are invalidated, and every enabled context gets the event. -/
def execNoticeTakeover (e : Fin 2) (p : Packet) (s : State) : Host.Outcome State Fault Refusal :=
  let d := p.h.x 8 12
  .next (if !isNotice p 4 then s
    else received s (224 + e.val) p (fun s =>
      let s := nearDrop s (fun x _ g => x == e.val && g / 2 ^ 42 == d)
      let s := ((s.ep.ctrs.filter (fun c => c.1 / 1024 == e.val && rd s (Reg.EP.CTR_STATE.SRC e.val (c.1 % 1024)) == d &&
        (let t := ctrSt s e.val (c.1 % 1024); t == 1 || t == 2 || t == 3))).map (fun c => c.1 % 1024)).foldl (fun s k => ctrToHold s e.val k) s
      let s := noticeEvent s ((liveCtxs s).filter (fun c => ctxEp s c == e.val)) p.h
      let s := { s with ep := { s.ep with reqs := s.ep.reqs.map (fun r =>
        if r.ep = e.val ∧ r.st = 2 ∧ r.h.dest.toNat = d then { r with st := 0, attempts := 0, again := true } else r) } }
      pump ((liveCtxs s).foldl ctxStatus s) e.val))

end Sys2Proof.Machine
end

