-- ==== Sys2Proof/Machine/Members.lean ====
section
/-!
DEFINITION. Machine/Members.lean: the geometry of a swarm (R194 to R199), an end-point as a swarm member (R201, R204, R209, R213,
R219), and the step abort at an end-point (R272, R273).
-/
namespace Sys2Proof.Machine
open Sys2Proof

/-! ### Definitions and tiles (R194 to R199) -/

/-- FMT of swarm `k`. -/
def swFmt (s : State) (k : Nat) : Nat := rd s (Reg.SWARM.SWARM_DEF.FMT k)
/-- MEMBER_COUNT of swarm `k`. -/
def swMembers (s : State) (k : Nat) : Nat := rd s (Reg.SWARM.SWARM_DEF.MEMBER_COUNT k)
/-- TENANT of swarm `k`. -/
def swTenant (s : State) (k : Nat) : Nat := rd s (Reg.SWARM.SWARM_DEF.TENANT k)
/-- OP_SIZE of swarm `k`. -/
def swSize (s : State) (k : Nat) : Nat := rd s (Reg.SWARM.SWARM_DEF.OP_SIZE k)
/-- TIMEOUT of swarm `k` in ftu (R210). -/
def swTimeout (s : State) (k : Nat) : Nat := us (rd s (Reg.SWARM.SWARM_DEF.TIMEOUT_US k))
/-- EP_ID of member `m`. -/
def swEp (s : State) (k m : Nat) : Nat := rd s (Reg.SWARM.SWARM_MEMBER.EP_ID k m)
/-- CONTEXT of member `m`. -/
def swCtx (s : State) (k m : Nat) : Nat := rd s (Reg.SWARM.SWARM_MEMBER.CONTEXT k m)
/-- Members of swarm `k` whose entries are valid, ascending. -/
def swAll (s : State) (k : Nat) : List Nat := (List.range (swMembers s k)).filter (fun m => rdb s (Reg.SWARM.SWARM_MEMBER.VALID k m))
/-- Units of the buffer in one tile: bytes, or blocks for an MX format (R198). -/
def swUnit (fmt : Nat) : Nat := if Num.isMx fmt then Num.mxLimit fmt else 2048
/-- Tiles T of an operation (R198). -/
def swTiles (s : State) (k : Nat) : Nat := (swSize s k + swUnit (swFmt s k) - 1) / swUnit (swFmt s k)
/-- Units that tile `i` carries: all, or the remainder in the last (R198). -/
def swUnits (s : State) (k i : Nat) : Nat := min (swUnit (swFmt s k)) (swSize s k - i * swUnit (swFmt s k))
/-- BLOCKS of tile `i` (R198). -/
def swBlocks (s : State) (k i : Nat) : Nat := if Num.isMx (swFmt s k) then swUnits s k i else 0
/-- VALID_BYTES of tile `i` (R188, R198). -/
def swValid (s : State) (k i : Nat) : Nat :=
  if Num.isMx (swFmt s k) then swUnits s k i * (4 * Num.elemBits (swFmt s k) + 1) else swUnits s k i
/-- Bytes of a member buffer (R198). -/
def swBytes (s : State) (k : Nat) : Nat := if Num.isMx (swFmt s k) then 2048 * swTiles s k else swSize s k
/-- The plane list (R199). -/
def swPlanes (s : State) (k : Nat) : List Nat := planesOf (rd s (Reg.SWARM.SWARM_DEF.PLANE_MASK k))
/-- This plane's position in the plane list. -/
def swPos (s : State) (k : Nat) : Nat := (swPlanes s k).idxOf (planeId s)
/-- T_q of this plane (R199). -/
def swTq (s : State) (k : Nat) : Nat :=
  let t := swTiles s k
  let q := swPos s k
  if (swPlanes s k).contains (planeId s) && decide (q < t) then (t - 1 - q) / (swPlanes s k).length + 1 else 0
/-- Tile index `i` is below T and maps to this plane (R199). -/
def swHere (s : State) (k i : Nat) : Bool := decide (i < swTiles s k) && (swPlanes s k).getD (i % (swPlanes s k).length) 32 == planeId s
/-- Local index of tile `i` (R199). -/
def swLocal (s : State) (k i : Nat) : Nat := i / (swPlanes s k).length
/-- Tile of local index `j` on this plane (R199). -/
def swTileOf (s : State) (k j : Nat) : Nat := swPos s k + j * (swPlanes s k).length

/-- OPSEQ k1 is newer than k0 (R201). -/
def opNewer (k1 k0 : Nat) : Bool := let d := (k1 + 2 ^ 32 - k0 % 2 ^ 32) % 2 ^ 32; decide (1 ≤ d ∧ d ≤ 2 ^ 31)
/-- `n` operations after `k`. -/
def opAdd (k n : Nat) : Nat := (k + n) % 2 ^ 32

/-- The SWARM extension of R68. -/
def swExt (swarm member sop cause opseq tile credits : Nat) : BitVec 256 :=
  mkExt [(0, 8, swarm), (8, 8, member), (16, 4, sop), (20, 4, cause), (32, 32, opseq), (64, 32, tile), (96, 16, credits)]

/-! ### A member's packets -/

/-- A swarm request of end-point `e` for context `c` to its plane's service ID (R200): sent, or held while it may not be, behind those that wait
(R258). -/
def swSend (s : State) (e c : Nat) (k : Kind) (ext : BitVec 256) (payload : List Byte) : State :=
  let h : Hdr :=
    { dest := BitVec.ofNat 12 (serviceId s), src := BitVec.ofNat 12 (epId s e), tenant := BitVec.ofNat 12 (ctxTenant s c), kind := k.code,
      tc := 2, len := if payload.isEmpty then 0 else 0x3FF, epoch := BitVec.ofNat 8 (epochOf s (ctxTenant s c)), ext := ext }
  if swReady s e && !s.ep.swWait.any (fun w => w.1 == e) then swNow s e h payload
  else { s with ep := { s.ep with swWait := s.ep.swWait ++ [(e, c, h, payload)] } }

/-- Swarm requests that wait and that `f` names are not sent any more. -/
def swDrop (s : State) (f : Nat → Nat → Hdr → Bool) : State :=
  { s with ep := { s.ep with swWait := s.ep.swWait.filter (fun w => !f w.1 w.2.1 w.2.2.1) } }

/-- A SWARM_ACK of a member: SOP 0 ACK or a control index, 1 RESEND. -/
def swAck (s : State) (e c swarm member sop opseq tile : Nat) : State := swSend s e c .swarmAck (swExt swarm member sop 0 opseq tile 0) []

/-- A contribution replaced. -/
def setContrib (s : State) (x : Contrib) : State :=
  { s with ep := { s.ep with contribs := s.ep.contribs.map (fun y => if y.did = x.did then x else y) } }

/-- The contribution tile `i` of a member (R73, R198). -/
def contribTile (s : State) (x : Contrib) (i : Nat) (data : List Byte) : List Byte :=
  let fmt := swFmt s x.swarm
  mkTile [(64, 4, fmt), (68, 4, 1), (72, 8, swBlocks s x.swarm i), (80, 12, swValid s x.swarm i), (96, 8, x.swarm), (104, 8, x.member),
    (128, 32, x.opseq), (160, 32, i)] ((data.drop (2048 * i)).take (if Num.isMx fmt then 2048 else swValid s x.swarm i))

/-- Tiles sent in ascending index while the credit limit allows (R204); `fuel` bounds them. -/
def sendTiles (s : State) (did : Nat) : Nat → State
  | 0 => s
  | fuel + 1 =>
    match s.ep.contribs.find? (fun x => x.did == did && x.st == 1), descOf s did with
    | some x, some d =>
      if x.sent < x.limit ∧ x.sent < swTq s x.swarm then
        let i := swTileOf s x.swarm x.sent
        let s := swSend s x.ep x.ctx .swarmTile (swExt x.swarm x.member 0 0 x.opseq i 0) (contribTile s x i (d.data.getD []))
        sendTiles (setContrib s { x with sent := x.sent + 1 }) did fuel
      else s
    | _, _ => s

/-- A CREDIT_REQ for a contribution (R200, R219). -/
def askCredit (s : State) (x : Contrib) : State :=
  swAck (setContrib s { x with asked := s.now }) x.ep x.ctx x.swarm x.member 0 x.opseq 0xFFFFFFF0

/-- An unfinished contribution of the same member to an older operation (R201). -/
def memberBusy (s : State) (x : Contrib) : Bool :=
  s.ep.contribs.any (fun y => y.ep == x.ep && y.swarm == x.swarm && y.member == x.member && y.st != 2 && opNewer x.opseq y.opseq)

/-- Contributions that wait begin once their member's older operation has ended and their data is read (R201). -/
def startContribs (s : State) : State :=
  (s.ep.contribs.filter (fun x => x.st == 0)).foldl (fun s x =>
    if memberBusy s x || (match descOf s x.did with | some d => d.data.isNone | none => true) then s
    else askCredit (setContrib s { x with st := 1 }) { x with st := 1 }) s

/-- The descriptor of a contribution ends with `bad`, or OK. -/
def endSwarmDesc (s : State) (did : Nat) (bad : Option (Nat × Nat × Nat)) : State :=
  match descOf s did with | some d => setDesc s { d with issued := true, live := 0, bad := bad } | none => s

/-- Whether an abort applied at end-point `e` for the swarm ended an operation: k and k + 1 of each are discarded (R213 step 4). -/
def abortedOp (s : State) (e swarm opseq : Nat) : Bool :=
  ((findKey s.ep.aborts (256 * e + swarm)).getD []).any (fun k => opseq == k || opseq == opAdd k 1)

/-- A SWARM descriptor begins (R198, R219): its buffer is read, then it asks for credit. One that no operation could take ends SWARM_ABORT with
cause MANAGER while the SWARM is not RUNNING (R24): it can ask for no credit. -/
def beginSwarm (s : State) (d : Desc) : State :=
  let k := d.f 320 8
  let op := d.f 352 32
  let stopped := fun (s : State) => stepFault (setDesc s { d.fail 0 ccSwarmAbort 5 with issued := true }) d.ctx ccSwarmAbort d.cookie (serviceId s)
  if d.bad.isSome then setDesc s { d with issued := true }
  else if d.len ≠ swSize s k || swTiles s k = 0 then
    if !running s (fSwarm k) then stopped s else setDesc s { d.fail 0 ccUnsupported 0 with issued := true }
  else if abortedOp s d.ep k op then
    stepFault (setDesc s { d.fail 0 ccSwarmAbort 0 with issued := true }) d.ctx ccSwarmAbort d.cookie (serviceId s)
  else
    let n := swBytes s k
    let x : Contrib :=
      { ep := d.ep, ctx := d.ctx, swarm := k, member := d.f 328 8, opseq := op, did := d.id, cookie := d.cookie, sent := 0, got := [], limit := 0,
        asked := 0, st := 0, doneAt := 0, epoch := epochOf s (ctxTenant s d.ctx) }
    let s := setDesc (mergeFlush s (fun m => sameStream m d.ep d.ctx d.q)) { d with issued := true, live := 1 }
    hostOp { s with ep := { s.ep with contribs := s.ep.contribs ++ [x] } } d.ep (ctxFunc s d.ctx) (d.f 128 64)
      (if confOn s (ctxKey s d.ctx) then confTagAddr 0 n ((n + 2047) / 2048) else n) (.data d.id)

/-- DESC_SWARM (R248). -/
def execDescSwarm (e : Fin 2) (s : State) : Host.Outcome State Fault Refusal :=
  .next (match startNext s e.val (· == 8) with
    | some (t, x) => qosStatus (fenceFlush (beginSwarm t x) x.ctx x.q) e.val
    | none => s)

/-- SWARM_CREDIT_REQ_REPEAT (R219): every 8 ticks until credit arrives. -/
def execSwarmCreditReqRepeat (did : Nat) (s : State) : Host.Outcome State Fault Refusal :=
  .next (match s.ep.contribs.find? (fun x => x.did == did && x.st == 1 && x.limit == 0 && decide (x.asked + ticks 8 ≤ s.now)) with
    | some x => askCredit s x
    | none => s)

/-! ### Results, credits and aborts at a member -/

/-- The swarm packet of kind `k` at end-point `e`, checked. -/
def swArrives (p : Packet) (k : Kind) (sop : Nat) : Bool := p.h.k == some k && p.h.x 16 4 == sop

/-- The contributions of end-point `e` that a swarm packet concerns: all of its members for a multicast, else the one named (R208). -/
def contribsFor (s : State) (e : Nat) (h : Hdr) : List Contrib :=
  s.ep.contribs.filter (fun x => x.ep == e && x.swarm == h.x 0 8 && x.opseq == h.x 32 32 && x.st != 0 &&
    (h.dest.toNat == serviceId s || x.member == h.x 8 8))

/-- A credit limit rebuilt (R204): the least value at or above the current one with the given low 16 bits. -/
def newLimit (l c : Nat) : Nat := let v := l / 65536 * 65536 + c % 65536; if v < l then v + 65536 else v

/-- SWARM_CREDIT_RECEIVE (R204). -/
def execSwarmCreditReceive (e : Fin 2) (p : Packet) (s : State) : Host.Outcome State Fault Refusal :=
  .next (if !swArrives p .swarmCtl 2 then s
    else received s (224 + e.val) p (fun s =>
      if abortedOp s e.val (p.h.x 0 8) (p.h.x 32 32) then s
      else
        (contribsFor s e.val p.h).foldl (fun s x =>
          if x.st = 1 then
            let l := newLimit x.limit (p.h.x 96 16)
            sendTiles (setContrib s { x with limit := l }) x.did (l - x.sent)
          else s) s))

/-- Result writes of descriptor `did` that wait for their translation. -/
def writesWait (s : State) (did : Nat) : Bool := s.host.atsWait.any (fun w => w.ring == 4097 + did)

/-- The results that contribution `did` has received are acknowledged once they are written, and with the last of its T_q the contribution
completes and the one behind it asks for credit (R201, R209, R219). -/
def settleResults (s : State) (did : Nat) : State :=
  match s.ep.contribs.find? (fun y => y.did == did) with
  | none => s
  | some y =>
    if writesWait s did || y.owed.isEmpty then s
    else
      let z := { y with owed := [], doneAt := s.now }
      let s := if y.st = 1 && y.got.length = swTq s y.swarm then endSwarmDesc (setContrib s { z with st := 2 }) did none else setContrib s z
      startContribs (y.owed.foldl (fun s i => swAck s y.ep y.ctx y.swarm y.member 0 y.opseq i) s)

/-- One result tile for one contribution (R209, R219): a bad tile draws a RESEND; a good one is written once and, when that is done,
acknowledged. -/
def takeResult (s : State) (p : Packet) (x : Contrib) : State :=
  let i := p.h.x 64 32
  if !tileCrcOk p.payload then swAck s x.ep x.ctx x.swarm x.member 1 x.opseq i
  else
    let y := { x with owed := if x.owed.contains i then x.owed else x.owed ++ [i] }
    if x.st = 1 && !x.got.contains i then
      let n := if Num.isMx (swFmt s x.swarm) then 2048 else swValid s x.swarm i
      settleResults (setContrib (result s x.did (swBytes s x.swarm) (2048 * i) ((tileData p.payload).take n)) { y with got := i :: x.got }) x.did
    else settleResults (setContrib s y) x.did

/-- SWARM_RESULT_RECEIVE (R219). -/
def execSwarmResultReceive (e : Fin 2) (p : Packet) (s : State) : Host.Outcome State Fault Refusal :=
  .next (if !swArrives p .swarmResult 0 then s
    else received s (224 + e.val) p (fun s =>
      if abortedOp s e.val (p.h.x 0 8) (p.h.x 32 32) then s
      else (contribsFor s e.val p.h).foldl (fun s x => takeResult s p x) s))

/-- ABORT_SEEN for operation `k` with each member index that end-point `e` holds (R213 step 3). -/
def sendSeen (s : State) (e swarm k : Nat) : State :=
  ((swAll s swarm).filter (fun m => swEp s swarm m == epId s e)).foldl (fun s m => swAck s e (swCtx s swarm m) swarm m 0 k 0xFFFFFFFF) s

/-- Operation `x` has operation `k` or a newer one. -/
def atOrAfter (x k : Nat) : Bool := x == k || opNewer x k

/-- The abort of operation `k` noted at end-point `e`: its next OPSEQ becomes k + 2 if that value is newer (R213 steps 2 and 4). -/
def noteAbort (s : State) (e swarm k : Nat) : State :=
  let key := 256 * e + swarm
  let next := match findKey s.ep.nextOps key with | some n => if opNewer (opAdd k 2) n then opAdd k 2 else n | none => opAdd k 2
  { s with ep := { s.ep with aborts := setKey s.ep.aborts key (k :: (findKey s.ep.aborts key).getD []), nextOps := setKey s.ep.nextOps key next } }

/-- Steps 2 to 4 of R213: the operations are ended for the end-point, which writes and sends nothing more of them, and ABORT_SEEN is sent. -/
def closeOps (s : State) (e swarm k : Nat) : State :=
  let gone := fun (x : Contrib) => x.ep == e && x.swarm == swarm && atOrAfter x.opseq k
  let dids := (s.ep.contribs.filter gone).map (fun x => 4097 + x.did)
  let s := { s with host := { s.host with atsWait := s.host.atsWait.filter (fun w => !dids.contains w.ring) } }
  let s := swDrop s (fun e' _ h => e' == e && h.k == some .swarmTile && h.x 0 8 == swarm && atOrAfter (h.x 32 32) k)
  let s := { s with ep := { s.ep with contribs := s.ep.contribs.filter (fun x => !gone x) } }
  startContribs (sendSeen (noteAbort s e swarm k) e swarm k)

/-- A completed operation is still retractable (R213): TIMEOUT + 66 ticks after its last ACK. -/
def retractable (s : State) (x : Contrib) : Bool := decide (s.now < x.doneAt + swTimeout s x.swarm + ticks 66)

/-- Step 1 of R213 for one contribution: SWARM_ABORT with the cause, or RETRACTED where it had completed; both are step faults. -/
def abortContrib (cause : Nat) (s : State) (x : Contrib) : State :=
  if x.st = 2 then
    if retractable s x then
      stepFault (postEvent s x.ctx 6 x.swarm x.opseq x.cookie 0) x.ctx ccRetracted x.cookie (serviceId s)
    else s
  else stepFault (endSwarmDesc s x.did (some (0, ccSwarmAbort, cause))) x.ctx ccSwarmAbort x.cookie (serviceId s)

/-- SWARM_ABORT_APPLY (R213): the first ABORT of an operation. -/
def execSwarmAbortApply (e : Fin 2) (p : Packet) (s : State) : Host.Outcome State Fault Refusal :=
  let k := p.h.x 32 32
  let w := p.h.x 0 8
  .next (if !swArrives p .swarmCtl 3 then s
    else received s (224 + e.val) p (fun s =>
      if abortedOp s e.val w k then s
      else
        let l := s.ep.contribs.filter (fun x => x.ep == e.val && x.swarm == w && atOrAfter x.opseq k)
        closeOps (l.foldl (abortContrib (p.h.x 20 4)) s) e.val w k))

/-! ### Step abort (R272, R273) -/

/-- The waiting SIGNALs and open messages of tenant `t` with an epoch older than the new one are discarded (R273). -/
def abortCounters (s : State) (t : Nat) : State :=
  (s.ep.ctrs.filter (fun c => c.2.tenant == t && epochNewer (epochOf s t) c.2.epoch)).foldl (fun s c =>
    let e := c.1 / 1024
    let k := c.1 % 1024
    if ctrSt s e k = 2 || ctrSt s e k = 3 then
      ctrClose (c.2.waiting.foldl (fun s p => answer s (epPort e) p.h ccStepAbort 0 0) s) e k
    else s) s

/-- The open swarm operations of tenant `t` are treated as aborted under steps 2 to 4 of R213. -/
def abortSwarms (s : State) (t : Nat) : State :=
  (s.ep.contribs.filter (fun x => x.st != 2 && ctxTenant s x.ctx == t)).foldl (fun s x =>
    if abortedOp s x.ep x.swarm x.opseq then s else closeOps s x.ep x.swarm x.opseq) s

/-- Every request and descriptor of context `c` completes with STEP_ABORT (R272 step 2). -/
def abortCtx (s : State) (c : Nat) : State :=
  let s := (s.ep.reqs.filter (fun r => r.ctx == c)).foldl (fun s r => creditFree (dropReq s r) r) s
  let dids := (s.ep.descs.filter (fun d => d.ctx == c)).map (fun d => 4097 + d.id)
  let s := swDrop { s with host := { s.host with atsWait := s.host.atsWait.filter (fun w => !dids.contains w.ring) } } (fun _ x h => x == c && h.k == some .swarmTile)
  let s := (s.ep.descs.filter (fun d => d.ctx == c)).foldl (fun s d =>
    let d := { d with issued := true, live := 0, bad := some (0, ccStepAbort, 0) }
    if d.q = 4 then windowDone (setDesc s d) d.id else completeDesc (setDesc s d) d) s
  ctxStatus { s with ep := { s.ep with merges := s.ep.merges.filter (fun m => m.ctx != c) },
                     host := { s.host with ops := s.host.ops.map (fun o => match o.what with
                       | .data i => if (descOf s i).isNone then { o with dead := true } else o
                       | _ => o) } } c

/-- A newer STEP_CTL ABORT of tenant `t` applied (R272, R273). -/
def stepAbort (s : State) (t epoch : Nat) : State :=
  let cs := tenantCtxs s t
  let s := wr s (Reg.EP.TENANT_EPOCH.EPOCH t) epoch
  let s := abortSwarms s t
  let s := cs.foldl abortCtx s
  let s := nearDrop s (fun _ c _ => cs.contains c)
  let s := abortCounters s t
  let s := cs.foldl (fun s c => wr s (Reg.EP.CTX_STATUS.FAULTS c) 0) s
  pump (pump (postAll s cs 7 epoch t 0 0) 0) 1

/-- STEP_CTL_ABORT (R272): ignored unless newer. -/
def execStepCtlAbort (e : Fin 2) (p : Packet) (s : State) : Host.Outcome State Fault Refusal :=
  let t := p.h.tenant.toNat
  .next (if p.h.k ≠ some .stepCtl || p.h.x 8 4 ≠ 0 then s
    else received s (224 + e.val) p (fun s => if epochNewer (p.h.x 0 8) (epochOf s t) then stepAbort s t (p.h.x 0 8) else s))

end Sys2Proof.Machine
end

