-- ==== Sys2Proof/Machine/CellOps.lean ====
section
/-!
DEFINITION. Machine/CellOps.lean: clusters and cells as the device sees them (R128 to R136, R142, R154): local memory, tile store,
shared SRAM and random state, the start of a handler, and late periodic work (R98, R99).
-/
namespace Sys2Proof.Machine
open Sys2Proof

/-! ### Late periodic work (R98, R99) -/

/-- The nominal start of the next instance of task `t`; 0 for a task that has not begun. -/
def taskNominal (s : State) (t : Nat) : Nat := match findKey s.tick.tasks t with | some e => e.1 | none => 0

/-- The start of the instance of task `t`, of period `p`, whose nominal start is `n` (R98); the first instance after a begin or a time step has
no predecessor that could hold it back. -/
def taskStartAt (s : State) (t p n : Nat) : Nat :=
  match findKey s.tick.tasks t with
  | some (_, some (start, fin)) => max (max n (start + p - p / 4)) fin
  | _ => n

/-- The earliest start of the next instance of task `t` (R98). -/
def taskStart (s : State) (t p : Nat) : Nat := taskStartAt s t p (taskNominal s t)

/-- Task `t` has begun and may start its next instance now: a late one is not skipped. -/
def taskDue (s : State) (t p : Nat) : Bool := (findKey s.tick.tasks t).isSome && decide (taskStart s t p ≤ s.time.toNat)

/-- An instance of task `t` with nominal start `n` started now (R98): a late one raises LATE_COUNT, and MAX_LAG keeps the largest lag. -/
def taskRunAt (s : State) (t p n : Nat) : State :=
  let now := s.time.toNat
  let s := if n < now then
      wr (cnt s Reg.TICK.LATE_WORK.LATE_COUNT) Reg.TICK.LATE_WORK.MAX_LAG (min 65535 (max (rd s Reg.TICK.LATE_WORK.MAX_LAG) (now - n)))
    else s
  { s with tick := { s.tick with tasks := setKey s.tick.tasks t (n + p, some (now, now)) } }

/-- The next instance of task `t` started now (R98). -/
def taskRun (s : State) (t p : Nat) : State := taskRunAt s t p (taskNominal s t)

/-- The first multiple of `p` that is not past (R94, R98). -/
def nextBoundary (s : State) (p : Nat) : Nat := (s.time.toNat + p - 1) / p * p

/-- Task `t` begins: its first nominal start is the next multiple of its period (R98, R404). -/
def taskBegin (s : State) (t p : Nat) : State :=
  { s with tick := { s.tick with tasks := setKey s.tick.tasks t (nextBoundary s p, none) } }

/-! ### Cells -/

/-- CLUSTER `n` handles the packets of its cells: it is RUNNING, or STOPPING and still drains (R33). -/
def clServes (s : State) (n : Nat) : Bool := running s (fCluster n) || fnState s (fCluster n) == 3
/-- The physical cell that serves device cell `l` (R128). -/
def cellPhys (s : State) (l : Nat) : Nat := rd s (Reg.CLUSTER.CELL_MAP.PHYS (l / 128) (l % 128))
/-- DETAIL_A of a CELL error of device cell `l` (R360): cluster, physical cell and logical cell. -/
def cellDetail (s : State) (l : Nat) : Nat := packBits [(0, 8, l / 128), (8, 8, cellPhys s l), (16, 7, l % 128)]
/-- The handler in progress on device cell `l`. -/
def cellRun (s : State) (l : Nat) : Option CellRun := findKey s.cells.run l
/-- The handler in progress on device cell `l` set. -/
def setRun (s : State) (l : Nat) (r : CellRun) : State := { s with cells := { s.cells with run := setKey s.cells.run l r } }
/-- No handler in progress on device cell `l`. -/
def endRun (s : State) (l : Nat) : State := { s with cells := { s.cells with run := delKey s.cells.run l } }
/-- The work of device cell `l` is moving to a spare (R133). -/
def cellMoving (s : State) (l : Nat) : Bool := (findKey s.cells.moves l).isSome
/-- Device cell `l` may start a handler: none is in progress, its work is not moving, its INIT has run, and its clock has not stopped (R407). -/
def cellFree (s : State) (l : Nat) : Bool := !s.pw.tripped && (cellRun s l).isNone && !cellMoving s l && !s.cells.initDue.contains l
/-- The cell image of CLUSTER `n`; the default stock image where nothing else has been loaded. -/
def imageOf (s : State) (n : Nat) : ImageInfo := (findKey s.cells.images n).getD {}
/-- START, BOUND and MAX_EMITS of the image's entry for an event kind (R142). -/
def imgEntry (i : ImageInfo) (kind : Nat) : Option (Nat × Nat × Nat) := findKey i.entries kind

/-- `n` bytes of local data of device cell `l`. -/
def localRd (s : State) (l a n : Nat) : List Byte :=
  (List.range n).map (fun i => (findKey s.cells.data (131072 * l + a + i)).getD hbmDefault)
/-- Bytes of local data of device cell `l` written. -/
def localWr (s : State) (l a : Nat) (b : List Byte) : State :=
  { s with cells := { s.cells with data := putMem s.cells.data (131072 * l + a) b } }
/-- The 2,112 bytes of tile-store slot `k` of device cell `l`. -/
def slotTile (s : State) (l k : Nat) : List Byte := padTo tileLen ((findKey s.cells.tiles (8 * l + k)).getD [])
/-- Tile-store slot `k` of device cell `l` set. -/
def setSlotTile (s : State) (l k : Nat) (t : List Byte) : State :=
  { s with cells := { s.cells with tiles := setKey s.cells.tiles (8 * l + k) (padTo tileLen t) } }
/-- `n` bytes of the shared SRAM of CLUSTER `c`. -/
def sharedRd (s : State) (c a n : Nat) : List Byte :=
  (List.range n).map (fun i => (findKey s.cells.shared (8388608 * c + a + i)).getD hbmDefault)
/-- Bytes of shared SRAM of CLUSTER `c` written. -/
def sharedWr (s : State) (c a : Nat) (b : List Byte) : State :=
  { s with cells := { s.cells with shared := putMem s.cells.shared (8388608 * c + a) b } }

/-- The random state of the physical cell that serves device cell `l` (R185). -/
def cellRand (s : State) (l : Nat) : Nat := (findKey s.cells.rand (132 * (l / 128) + cellPhys s l)).getD 0
/-- That random state set. -/
def setRand (s : State) (l v : Nat) : State :=
  { s with cells := { s.cells with rand := setKey s.cells.rand (132 * (l / 128) + cellPhys s l) v } }
/-- A random state seeded by the entropy source: a free value other than zero (R185). -/
def seedRand (s : State) (l : Nat) : State := setRand (takeFree s) l (peekFree s % (2 ^ 64 - 1) + 1)

/-- The cell takes an event: a spare is ready for packets from its first on (R133). -/
def tookEvent (s : State) (l : Nat) : State := { s with cells := { s.cells with fresh := s.cells.fresh.filter (fun x => x != l) } }

/-- The event area of a cell written at the start of a handler (R134 step 6), and the handler counted in EVENTS. -/
def beginEvent (s : State) (l : Nat) (area : List Byte) : State :=
  bump (cnt (localWr (tookEvent s l) l 0 (padTo 256 area)) (Reg.CLUSTER.CL_COUNT_A.EVENTS (l / 128))) (ctrNo 0x20 (4 * l))

/-- A fault raised inside a handler of device cell `l` (R140, R178). -/
def countException (s : State) (l : Nat) : State := bump (cnt s (Reg.CLUSTER.CL_COUNT_B.EXCEPTIONS (l / 128))) (ctrNo 0x20 (4 * l + 2))

/-- A handler that ran for `n` cycles: MAX_CYCLES and BUDGET_OVERRUNS (R140). -/
def handlerRan (s : State) (l n : Nat) : State :=
  let c := l / 128
  let s := wr s (Reg.CLUSTER.CL_STATUS.MAX_CYCLES c) (min 65535 (max (rd s (Reg.CLUSTER.CL_STATUS.MAX_CYCLES c)) n))
  if 2048 < n then bump (cnt s (Reg.CLUSTER.CL_COUNT_A.BUDGET_OVERRUNS c)) (ctrNo 0x20 (4 * l + 1)) else s

/-- A stock handler run whole, for a number of cycles that the manual bounds but does not state: a free value, less than the
2^WDOG_LOG2 at which a handler is cut off (R140; log entry 10). -/
def stockHandler (s : State) (l : Nat) (area : List Byte) (f : State → State) : State :=
  let s := f (beginEvent s l area)
  handlerRan (takeFree s) l (peekFree s % 2 ^ rd s (Reg.CLUSTER.CE_CFG.WDOG_LOG2 (l / 128)))

/-- A handler of a loaded program started (R134, R154): its tile in slot 0, bound to t0. -/
def startHandler (s : State) (l kind stamp : Nat) (area : List Byte) (tile : Option (List Byte)) (e : Nat × Nat × Nat) : State :=
  let s := beginEvent s l area
  let s := match tile with | some t => setSlotTile s l 0 t | none => s
  let slot := tile.map (fun _ => 0)
  setRun s l { r := { t := [slot, none, none, none] }, pc := e.1, kind := kind, stamp := stamp, maxEmits := e.2.2, arrival := slot, since := s.now }

/-- A packet that reaches a cell whose image has no entry for its event (R136). -/
def noEntry (s : State) (l : Nat) (h : Hdr) : State :=
  match h.k with
  | some k => if k.answered then offer s (512 + l) (mkResp s h h.dest.toNat ccUnsupported 0 0 0)
      else cnt s (Reg.CLUSTER.CL_COUNT_B.NO_ENTRY (l / 128))
  | none => s

/-- The packet at crossbar-port key `x` taken out of the arrival queue of device cell `l`; copies delivered after it move up. -/
def takeEntry (s : State) (l : Nat) (e : Nat × Packet) : State :=
  { tookEvent s l with
    inbox := s.inbox.erase e
    tel := { s.tel with copies := s.tel.copies.map (fun c => if c.cell = l then { c with behind := c.behind.map (fun n => n - 1) } else c) } }

/-- Where packet `p` stands in the arrival queue of device cell `l`: its first entry. -/
def queued (s : State) (l : Nat) (p : Packet) : Option (Nat × Packet) := (cellQueue s l).find? (fun e => e.2 == p)

/-- The packet at the head of the arrival queue of device cell `l`: no delivered header copy stands before it (R134 rule 2). -/
def queueHead (s : State) (l : Nat) : Option (Nat × Packet) :=
  if s.tel.copies.any (fun c => c.cell == l && c.behind == some 0) then none else (cellQueue s l).head?

/-- Packet `p` at the head of the arrival queue of device cell `l` entered at service port 229 (R442). -/
def fromCore (s : State) (l : Nat) (p : Packet) : Bool := queued s l p == some (256 + cellPort l, p)

/-! ### What a cell may start (R134) -/

/-- The task number of device cell `l`'s tick events. -/
def tickTask (l : Nat) : Nat := 1000 + l

/-- A tick event waits at device cell `l` (R98, R134 rule 4). -/
def tickWaits (s : State) (l : Nat) : Bool :=
  ((imageOf s (l / 128)).stock || (imgEntry (imageOf s (l / 128)) 1).isSome) && taskDue s (tickTask l) 4096

/-- The period in ftu of general timer `k`. -/
def timerPeriod (s : State) (k : Nat) : Nat := 4096 * rd s (Reg.TICK.GTIMER.PERIOD k)

/-- The next event of general timer `k` that device cell `l` may start now: its nominal start and the stamp of its expiry (R98, R99). -/
def timerNext (s : State) (l k : Nat) : Option (Nat × Nat) :=
  match (findKey s.cells.timers (32 * l + k)).bind (fun q => q.head?) with
  | some t => if taskStartAt s (8192 + 32 * l + k) (timerPeriod s k) t.1 ≤ s.time.toNat then some t else none
  | none => none

/-- A timer event waits at device cell `l`, whose image has an entry for it (R142). -/
def timerWaits (s : State) (l : Nat) : Bool :=
  !(imageOf s (l / 128)).stock && (imgEntry (imageOf s (l / 128)) 2).isSome && (List.range 32).any (fun k => (timerNext s l k).isSome)

/-- MAX_EMITS of the handler for event kind `kind` (R142). The manual gives no entry records of the stock image: each of its handlers is
given the largest value (DESIGN CHOICE, log entry 60). -/
def maxEmitsOf (s : State) (l kind : Nat) : Nat :=
  if (imageOf s (l / 128)).stock then 16 else match imgEntry (imageOf s (l / 128)) kind with | some e => e.2.2 | none => 0

/-- Packets in the egress queue of device cell `l` (R135). -/
def egressLen (s : State) (l : Nat) : Nat := (s.outbox.filter (fun e => e.1 == 512 + l)).length

/-- The egress queue of 16 entries has room for the MAX_EMITS of the handler of kind `kind` (R134 rule 3). -/
def emitRoom (s : State) (l kind : Nat) : Bool := decide (egressLen s l + maxEmitsOf s l kind ≤ 16)

/-- Device cell `l` may start its handler for an event of kind `kind` (R134): it is free, a tick event goes before a timer event and either
before the arrival queue, and there is room for what it may emit. -/
def mayStart (s : State) (l kind : Nat) : Bool :=
  cellFree s l && emitRoom s l kind && (kind == 1 || !tickWaits s l) && (kind == 1 || kind == 2 || !timerWaits s l)

/-- An arrival event of kind `kind` on device cell `l` (R133, R134, R136) for a packet in its arrival queue: discarded where HCRC is wrong
(R51), met by R24 where its CLUSTER does not serve, left waiting while it is not at the head or the cell may not start, handled by the stock
module `f`, or started as a handler of the loaded program. -/
def cellEvent (s : State) (l kind : Nat) (p : Packet) (f : State → State) : State :=
  match queued s l p with
  | none => s
  | some e =>
    if hcrcOf p.h ≠ p.h.hcrc then takeEntry s l e
    else if !clServes s (l / 128) then clusterNotRunning (takeEntry s l e) (cellPort l) p.h
    else if queueHead s l != some e || !mayStart s l kind then s
    else
      let i := imageOf s (l / 128)
      let area := leBytes 64 (hdrBits p.h)
      let s := takeEntry s l e
      if i.stock then stockHandler s l area f
      else
        match imgEntry i kind with
        | some e => startHandler s l kind p.stamp area (if p.payload.length = tileLen then some p.payload else none) e
        | none => noEntry s l p.h

/-! ### The tick record (R210) -/

/-- Ingress stamps of the TC2 packets steered to a cell whose handler has not started. -/
def waitingStamps (s : State) : List Nat :=
  (s.sw.pkts.filter (fun q => q.tc == 2 && q.outs.any (fun o => decide (outOf 128 ≤ o) && decide (o < outOf 224)))).map (fun q => q.stamp) ++
  (s.inbox.filter (fun e => decide (128 ≤ e.1 % 256) && decide (e.1 % 256 < 224) && e.2.h.tc == 2)).map (fun e => e.2.stamp)

/-- The swarm watermark at the tick that starts at `t` (R210). -/
def watermark (s : State) (t : Nat) : Nat := (waitingStamps s).min?.getD t

/-- The present tick's start. -/
def tickStart (s : State) : Nat := s.time.toNat / 4096 * 4096

end Sys2Proof.Machine
end

