-- ==== Sys2Proof/Machine/SwarmCore.lean ====
section
/-!
DEFINITION. Machine/SwarmCore.lean: swarms at the plane (R194 to R217): the scheduler core's admission, credit and abort requests,
the control cell's operations and aborts, and the home cell's tiles, results, deadlines and resends (REDUCE).
-/
namespace Sys2Proof.Machine
open Sys2Proof

/-! ### State of a swarm -/

/-- An operation is OPEN. -/
def SwOp.isOpen (o : SwOp) : Bool := o.rec_.isNone
/-- The running state of swarm `k`. -/
def swRun (s : State) (k : Nat) : SwRun := (findKey s.cells.swarms k).getD {}
/-- The bytes of an operation and of an abort record in the control block, as numbers of which they are made. -/
def SwOp.words (o : SwOp) : List Nat := [o.opseq, o.epoch, o.tenant, o.limit, b2n o.isOpen, o.resends, o.since, o.owed.length] ++ o.owed
/-- The stored record, likewise. -/
def AbortRec.words (r : AbortRec) : List Nat := [r.opseq, r.cause, r.member, r.epoch, r.time, r.source, r.newest, r.skip.length] ++ r.skip
/-- The bytes of the control block of a swarm (R197, R202): operation states, credit limits and the last abort record. The manual gives no
layout of them, nor how much of the block they fill: 4,096 bytes here (log entry 35). -/
def controlBytes (r : SwRun) : List Byte :=
  padTo 4096 (Config.recordBytes (r.ops.length :: r.ops.flatMap SwOp.words ++ (match r.stored with | some x => x.words | none => [])))
/-- The running state of swarm `k` set, and its control block in device HBM brought up to date where the swarm is at work. -/
def setSw (s : State) (k : Nat) (r : SwRun) : State :=
  let old := swRun s k
  let s := if r.ops = old.ops ∧ r.stored = old.stored then s else hbmWr s (rd s (Reg.SWARM.SWARM_DEF.ACC_REGION k) * 2 ^ 30) (controlBytes r)
  { s with cells := { s.cells with swarms := putKey s.cells.swarms k {} r } }
/-- NEXT_OPSEQ of swarm `k`. -/
def swNext (s : State) (k : Nat) : Nat := rd s (Reg.SWARM.SWARM_STATUS.NEXT_OPSEQ k)
/-- The operation of swarm `k` with a sequence, OPEN or ABORTING. -/
def swOp (s : State) (k op : Nat) : Option SwOp := (swRun s k).ops.find? (fun o => o.opseq == op)
/-- The OPEN operations of swarm `k`. -/
def swOpen (s : State) (k : Nat) : List SwOp := (swRun s k).ops.filter (fun o => o.isOpen)
/-- An operation replaced. -/
def setOp (s : State) (k : Nat) (o : SwOp) : State :=
  setSw s k { swRun s k with ops := (swRun s k).ops.map (fun x => if x.opseq = o.opseq then o else x) }
/-- A swarm has an OPEN operation whose limit is below T_q (R203). -/
def swOwed (s : State) (k : Nat) : Bool := (swOpen s k).any (fun o => decide (o.limit < swTq s k))

/-- Bit `k` of a 256-bit map of the SWARM block set to `b`. -/
def mapBit (s : State) (f : Nat → Fld) (k : Nat) (b : Bool) : State :=
  let v := rd s (f (k / 64))
  wr s (f (k / 64)) (if b then v ||| 2 ^ (k % 64) else v - (if v.testBit (k % 64) then 2 ^ (k % 64) else 0))

/-- The place of swarm `k` set: 0 NONE, 1 WAITING, 2 ACTIVE with its number (R203). -/
def swPlace (s : State) (k place no : Nat) : State :=
  let s := wr (wr s (Reg.SWARM.SWARM_STATUS.PLACE k) place) (Reg.SWARM.SWARM_STATUS.PLACE_NO k) (if place = 2 then no else 0)
  let s := if place = 1 then s else trace s 3 2 0x0300 k place
  mapBit (mapBit s Reg.SWARM.ACTIVE_MAP.ACTIVE k (place == 2)) Reg.SWARM.WAIT_MAP.WAITING k (place == 1)

/-- The wait list and the idle time of swarm `k` brought up to date (R203 rule 1). -/
def swWait (s : State) (k : Nat) : State :=
  let r := swRun s k
  let place := rd s (Reg.SWARM.SWARM_STATUS.PLACE k)
  if swOwed s k then
    let s := setSw s k { r with idle := none, waitAt := if place = 0 then s.now else r.waitAt }
    if place = 0 then swPlace s k 1 0 else s
  else
    let s := setSw s k { r with idle := some (r.idle.getD s.now) }
    if place = 1 then swPlace s k 0 0 else s

/-- SWARM_STATUS and SWARM_LIMIT of swarm `k` brought up to date. -/
def swStatus (s : State) (k : Nat) : State :=
  let s := swWait s k
  let n := swNext s k
  let isO := fun (d : Nat) => (swOpen s k).find? (fun o => o.opseq == opAdd n (2 ^ 32 - d))
  let lim := match isO 1, isO 2 with | some o, _ => o.limit | none, some o => o.limit | _, _ => 0
  wrs s [(Reg.SWARM.SWARM_STATUS.OPEN_OLD k, b2n (isO 2).isSome), (Reg.SWARM.SWARM_STATUS.OPEN_NEW k, b2n (isO 1).isSome),
    (Reg.SWARM.SWARM_LIMIT.LIMIT k, lim), (Reg.SWARM.SWARM_LIMIT.T_PLANE k, swTq s k)]

/-- NEXT_OPSEQ becomes k + 2 if that value is newer (R201). -/
def swSkip (s : State) (k op : Nat) : State :=
  if opNewer (opAdd op 2) (swNext s k) then wr s (Reg.SWARM.SWARM_STATUS.NEXT_OPSEQ k) (opAdd op 2) else s

/-! ### Slots (R197) -/

/-- The key of local tile `j` in bank `b` of swarm `k`. -/
def slotKey (k b j : Nat) : Nat := (2 * k + b) * 229376 + j
/-- The HBM address of the accumulator tile of a slot (R197). -/
def accAddr (s : State) (k b j : Nat) : Nat := rd s (Reg.SWARM.SWARM_DEF.ACC_REGION k) * 2 ^ 30 + 0x100000 + (b * 229376 + j) * 2240
/-- The slot record of a local tile. -/
def slotOf (s : State) (k b j : Nat) : Option Slot := findKey s.cells.slots (slotKey k b j)
/-- The 128 bytes of a slot record. The manual gives no layout of them (log entry 35). -/
def slotBytes (x : Slot) : List Byte :=
  padTo 128 (Config.recordBytes ([x.opseq, x.tile, x.epoch, x.first, b2n x.formed, x.resultAt, b2n x.ended, x.resends, b2n x.held, x.counted.length] ++
    x.counted.flatMap (fun e => [e.1, e.2]) ++ x.acks.flatMap (fun e => [e.1, e.2])))
/-- The slot record of a local tile set, in State and behind its accumulator tile in device HBM (R197). -/
def setSlot (s : State) (k b j : Nat) (x : Slot) : State :=
  let s := hbmWr s (accAddr s k b j + 2112) (slotBytes x)
  { s with cells := { s.cells with slots := setKey s.cells.slots (slotKey k b j) x } }
/-- The retention of every tile of operation `op` of swarm `k` ends (R209). -/
def endSlots (s : State) (k op : Nat) : State :=
  let f := fun (e : Nat × Slot) => if e.1 / 229376 / 2 = k ∧ e.2.opseq = op then (e.1, { e.2 with ended := true }) else e
  { s with cells := { s.cells with slots := s.cells.slots.map f } }
/-- Operation `op` of swarm `k` goes to ENDED (R202). -/
def endOp (s : State) (k op : Nat) : State :=
  endSlots (setSw s k { swRun s k with ops := (swRun s k).ops.filter (fun o => o.opseq != op) }) k op

/-- Bits of the tile header replaced, and the tile's CRC computed again (R74). -/
def retile (t : List Byte) (fields : List (Nat × Nat × Nat)) : List Byte :=
  let n := ofLeBytes (t.take 64)
  let m := fields.foldl (fun n f => n - (bits n f.1 f.2.1 <<< f.1) + ((f.2.2 % 2 ^ f.2.1) <<< f.1)) n
  let t := leBytes 64 m ++ sliceBytes t 64 2048
  leBytes 4 (tileCrc t) ++ t.drop 4

/-! ### Packets of the core and the cells -/

/-- An ABORT_REQ (R200): a SWARM_ACK with a control index, to and from the plane's service ID, with number `seq` of its sequence (R80). -/
def abortReq (s : State) (seq k op cause member : Nat) : Packet :=
  mkPacket s
    { seq := BitVec.ofNat 16 seq, dest := BitVec.ofNat 12 (serviceId s), src := BitVec.ofNat 12 (serviceId s), tenant := BitVec.ofNat 12 (swTenant s k),
      kind := Kind.swarmAck.code, tc := 2, ext := swExt k member 0 0 op (0xFFFFFFF0 + cause) 0 }

/-- An ABORT_REQ sent by home cell `l`. -/
def cellAbort (s : State) (l k op cause member : Nat) : State :=
  let r := cellSeq s (serviceId s) 2
  offer r.2 (512 + l) (abortReq s r.1 k op cause member)

/-- The source of an abort request noted by the scheduler core. -/
def noteSource (s : State) (k op cause member source : Nat) : State :=
  setSw s k { swRun s k with sources := (swRun s k).sources ++ [(op, cause, member, source)] }

/-- An ABORT_REQ sent by the scheduler core from port 229 (R211). -/
def coreAbort (s : State) (k op cause member source : Nat) : State :=
  let r := cellSeq s (serviceId s) 2
  offer (noteSource r.2 k op cause member source) 229 (abortReq s r.1 k op cause member)

/-- A SWARM_CTL (R208): SOP 2 CREDIT, 3 ABORT. -/
def swCtl (s : State) (k dest epoch : Nat) (ext : BitVec 256) : Packet :=
  mkPacket s
    { dest := BitVec.ofNat 12 dest, src := BitVec.ofNat 12 (serviceId s), tenant := BitVec.ofNat 12 (swTenant s k),
      kind := Kind.swarmCtl.code, epoch := BitVec.ofNat 8 epoch, ext := ext }

/-- The ABORT packet of a record to `dest` (R212): its STAMP is the decision time as the control cell sends it. -/
def abortPacket (s : State) (k dest : Nat) (r : AbortRec) : Packet :=
  let p := swCtl s k dest r.epoch (swExt k r.member 3 r.cause r.opseq 0xFFFFFFFF 0)
  { p with h := sealHdr { p.h with stamp := BitVec.ofNat 24 r.time } }

/-- A packet sent by the control cell of operation `op`. -/
def fromControl (s : State) (k op : Nat) (p : Packet) : State := offer s (512 + controlCell k op) p

/-- The CREDIT packet of an operation (R204). -/
def creditPacket (s : State) (k dest member : Nat) (o : SwOp) : Packet :=
  swCtl s k dest o.epoch (swExt k member 2 0 o.opseq 0 (o.limit % 65536))

/-! ### Reachability (R215) -/

/-- Member `m` of swarm `k` is reachable on this plane. -/
def swReach (s : State) (k m : Nat) : Bool :=
  let d := swEp s k m
  if d = epId s 0 then running s (fHost 0) else if d = epId s 1 then running s (fHost 1)
  else rdb s (Reg.SWITCH.ROUTE.VALID d) && !(bundleUp s (rd s (Reg.SWITCH.ROUTE.BUNDLE d))).isEmpty

/-- The unreachable members of swarm `k`, ascending; `ann` is an EP_ID that a ROUTE write with ANNOUNCE names. -/
def swLost (s : State) (k : Nat) (ann : Option Nat) : List Nat :=
  (swAll s k).filter (fun m => !swReach s k m || ann == some (swEp s k m))

/-- MEMBER_LOST notices for the newly unreachable members of swarm `k`, and the abort of each OPEN operation, for which those members are
lost (R215). Every ANNOUNCE makes the member that it names unreachable anew (R358). -/
def memberTestOne (ann : Option Nat) (s : State) (k : Nat) : State :=
  let lost := swLost s k ann
  let new := lost.filter (fun m => !(swRun s k).lost.contains m || ann == some (swEp s k m))
  let s := setSw s k { swRun s k with lost := swLost s k none }
  if new.isEmpty then s
  else
    let s := new.foldl (fun s m => (fmIds s).foldl (fun s f =>
      offer s 229 (noticeTo s f 3 (swEp s k m) 0x1FF (swTenant s k) k m)) s) s
    (swOpen s k).foldl (fun s o => coreAbort (setOp s k { o with lost := (o.lost ++ lost).dedup }) k o.opseq 2 (lost.headD 0) 2) s

/-- The scheduler core's test of every defined swarm (R215). -/
def memberTest (s : State) (ann : Option Nat) : State :=
  ((List.range 256).filter (fun k => running s (fSwarm k))).foldl (memberTestOne ann) s

/-! ### Aborts at the control cell (R202, R212, R214) -/

/-- The log copy and the error record of an abort (R212, R360). -/
def abortLog (s : State) (k source : Nat) (r : AbortRec) : State :=
  let s := wrs s [(Reg.SWARM.SWARM_ABORT_LOG.CAUSE k, r.cause), (Reg.SWARM.SWARM_ABORT_LOG.MEMBER k, r.member),
    (Reg.SWARM.SWARM_ABORT_LOG.SOURCE k, source), (Reg.SWARM.SWARM_ABORT_LOG.OPSEQ k, r.opseq), (Reg.SWARM.SWARM_ABORT_TIME.DECISION_TIME k, r.time)]
  report s (fSwarm k) 0x0A r.cause 4 (packBits [(0, 8, k), (8, 8, r.member), (16, 2, source)]) r.opseq

/-- The decision to abort OPEN operation `o` of swarm `k` (R201, R202, R212). -/
def decide_ (s : State) (k : Nat) (o : SwOp) (cause member source : Nat) : State :=
  let newer := ((swRun s k).ops.filter (fun x => opNewer x.opseq o.opseq)).map (fun x => x.opseq)
  let skip := (swAll s k).filter (fun m => o.lost.contains m || !swReach s k m || cause == 4 && m == member)
  let r : AbortRec :=
    { opseq := o.opseq, cause := cause, member := member, epoch := o.epoch, time := s.time.toNat, source := source, skip := skip,
      newest := newer.foldl (fun n x => if opNewer x n then x else n) o.opseq }
  let owed := (swAll s k).filter (fun m => !skip.contains m)
  let s := newer.foldl (fun s x => endOp s k x) s
  let s := setSw s k { swRun s k with stored := some r, sources := (swRun s k).sources.filter (fun x => x.1 != o.opseq) }
  let s := cnt (swSkip (setOp s k { o with rec_ := some r, owed := owed, resends := 0, since := s.now }) k o.opseq) (Reg.SWARM.SWARM_COUNT_A.OPS_ABORTED k)
  let s := bump s (ctrNo 0x10 (8 * k + 1))
  let s := abortLog s k source r
  let s := if owed.isEmpty then endOp s k o.opseq else fromControl s k o.opseq (abortPacket s k (serviceId s) r)
  swStatus s k

/-- Operation `op` is one that the abort of record `r` ended: the record's own, or a newer one that was OPEN (R201, R202). -/
def AbortRec.ended (r : AbortRec) (op : Nat) : Bool := op == r.opseq || opNewer op r.opseq && !opNewer op r.newest

/-- The SOURCE of an abort request that came through the scheduler core (R212). -/
def sourceOf (s : State) (k op cause member : Nat) : Nat :=
  match (swRun s k).sources.find? (fun x => x.1 == op && x.2.1 == cause && x.2.2.1 == member) with | some x => x.2.2.2 | none => 2

/-- DISCARDED of swarm `k`. -/
def swDiscard (s : State) (k : Nat) : State := countDiscarded s k
/-- DUPLICATES of swarm `k`. -/
def swDup (s : State) (k : Nat) : State := bump (cnt s (Reg.SWARM.SWARM_COUNT_C.DUPLICATES k)) (ctrNo 0x10 (8 * k + 4))

/-- MEMBER names a member whose EP_ID is SRC. -/
def swMemberOk (s : State) (h : Hdr) : Bool :=
  decide (h.x 8 8 < swMembers s (h.x 0 8)) && rdb s (Reg.SWARM.SWARM_MEMBER.VALID (h.x 0 8) (h.x 8 8)) && swEp s (h.x 0 8) (h.x 8 8) == h.src.toNat

/-- A control-index SWARM_ACK is accepted (R442); `core`: it entered at crossbar port 229. -/
def controlOk (s : State) (h : Hdr) (core : Bool) : Bool :=
  let c := h.x 64 32 - 0xFFFFFFF0
  h.x 16 4 == 0 && h.tenant.toNat == swTenant s (h.x 0 8) &&
  (if c = 0 || c = 15 || c = 4 then swMemberOk s h else h.src.toNat == serviceId s && core)

/-- The operation two before one that opens (R201, R202): an OPEN one ends; of an ABORTING one, which goes on to its last ABORT_SEEN or its 8th
resend period, the retention ends. -/
def endOlder (s : State) (k op : Nat) : State :=
  match swOp s k op with
  | some o => if o.isOpen then endOp s k op else endSlots s k op
  | none => endSlots s k op

/-- Operation `op` opens (R201, R202): the retention of the operation two before it ends; and a lost member aborts the new one (R215). -/
def openOp (s : State) (k : Nat) (h : Hdr) : State :=
  let op := h.x 32 32
  let s := endOlder s k (opAdd op (2 ^ 32 - 2))
  let o : SwOp := { opseq := op, epoch := h.epoch.toNat, tenant := h.tenant.toNat }
  let s := setSw s k { swRun s k with ops := (swRun s k).ops ++ [o], silent := (swRun s k).silent.filter (fun x => x != op) }
  let s := cnt (wr s (Reg.SWARM.SWARM_STATUS.NEXT_OPSEQ k) (opAdd op 1)) (Reg.SWARM.SWARM_COUNT_A.OPS_OPENED k)
  let s := bump s (ctrNo 0x10 (8 * k))
  let s := match swLost s k none with | m :: _ => coreAbort s k op 2 m 2 | [] => s
  swStatus s k

/-- A CREDIT_REQ at the control cell (R202, R442). -/
def creditReq (s : State) (h : Hdr) : State :=
  let k := h.x 0 8
  let op := h.x 32 32
  if !running s (fSwarm k) then
    fromControl s k op (swCtl s k h.src.toNat h.epoch.toNat (swExt k 0 3 5 op 0xFFFFFFFF 0))
  else if !controlOk s h false then swDiscard s k
  else if (match swOp s k op with | some o => o.isOpen | none => false) then
    (match swOp s k op with | some o => fromControl s k op (creditPacket s k h.src.toNat (h.x 8 8) o) | none => s)
  else
    if op = swNext s k then openOp s k h
    else
      match (swRun s k).stored with
      | some r => if r.ended op then fromControl s k op (abortPacket s k h.src.toNat r) else swDiscard s k
      | none => swDiscard s k

/-- An ABORT_REQ at the control cell (R202, R212, R442). -/
def abortReqIn (s : State) (h : Hdr) (core : Bool) : State :=
  let k := h.x 0 8
  let op := h.x 32 32
  let cause := h.x 64 32 - 0xFFFFFFF0
  if !controlOk s h core then swDiscard s k
  else
    match swOp s k op with
    | some o => if o.isOpen then decide_ s k o cause (h.x 8 8) (if core then sourceOf s k op cause (h.x 8 8) else 0)
        else cnt s (Reg.SWARM.SWARM_COUNT_C.ABORT_REQ_IGNORED k)
    | none => s

/-- One OPEN operation ended silently (R214). -/
def silentEnd (k : Nat) (s : State) (o : SwOp) : State :=
  let s := endOp s k o.opseq
  cnt (setSw s k { swRun s k with silent := o.opseq :: (swRun s k).silent }) (Reg.SWARM.SWARM_COUNT_C.SILENT_RELEASES k)

/-- An ABORT_SEEN at the control cell (R202, R214). -/
def abortSeenIn (s : State) (h : Hdr) : State :=
  let k := h.x 0 8
  let op := h.x 32 32
  if !controlOk s h false then swDiscard s k
  else
    let rel := (swOpen s k).filter (fun o => o.opseq == op || opNewer o.opseq op)
    let s := match swOp s k op with
      | some o => if o.isOpen then s
          else
            let owed := o.owed.filter (fun m => m != h.x 8 8)
            if owed.isEmpty then endOp s k op else setOp s k { o with owed := owed }
      | none => s
    swStatus (swSkip (rel.foldl (silentEnd k) s) k op) k

/-- A SWARM_ACK with a control index, of cell `l` (R200): the indices from `lo` to `hi`. -/
def controlEvent (s : State) (p : Packet) (lo hi : Nat) (f : State → State) : State :=
  let i := p.h.x 64 32
  if p.h.k ≠ some .swarmAck || decide (i < 0xFFFFFFF0 + lo) || decide (0xFFFFFFF0 + hi < i) then s
  else cellEvent s (controlCell (p.h.x 0 8) (p.h.x 32 32)) 6 p f

/-- SWARM_CREDIT_REQ (R202). -/
def execSwarmCreditReq (p : Packet) (s : State) : Host.Outcome State Fault Refusal :=
  .next (controlEvent s p 0 0 (fun s => creditReq s p.h))

/-- SWARM_ABORT_REQ (R212). -/
def execSwarmAbortReq (p : Packet) (s : State) : Host.Outcome State Fault Refusal :=
  .next (controlEvent s p 1 5 (fun t => abortReqIn t p.h (fromCore s (controlCell (p.h.x 0 8) (p.h.x 32 32)) p)))

/-- SWARM_ABORT_SEEN (R214). -/
def execSwarmAbortSeen (p : Packet) (s : State) : Host.Outcome State Fault Refusal :=
  .next (controlEvent s p 15 15 (fun s => abortSeenIn s p.h))

/-- SWARM_ABORT_RELAY (R200): an ABORT_REQ of a home cell, delivered to the management port, goes on unchanged from port 229. -/
def execSwarmAbortRelay (p : Packet) (s : State) : Host.Outcome State Fault Refusal :=
  let c := p.h.x 64 32
  .next (if p.h.k == some .swarmAck && decide (0xFFFFFFF1 ≤ c) && decide (c ≤ 0xFFFFFFF5) then
      received s 228 p (fun s =>
        offer (noteSource (trace s 3 2 0x0301 (p.h.x 0 8) (c - 0xFFFFFFF0)) (p.h.x 0 8) (p.h.x 32 32) (c - 0xFFFFFFF0) (p.h.x 8 8) 1) 229 p)
    else s)

/-- SWARM_ABORT_OP (R211): a write of ABORT_OP by a writer of R32 asks to abort the newest OPEN operation; the bit reads clear. -/
def abortOp (s : State) (w : Writer) (k : Nat) : State :=
  if !w.privileged then regError s w (0x76C000 + k * 8) 4 true 5
  else
    match (swOpen s k).find? (fun o => (swOpen s k).all (fun x => !opNewer x.opseq o.opseq)) with
    | some o => coreAbort s k o.opseq 5 0 3
    | none => s

/-- SWARM_ABORT_OP (R211). -/
def execSwarmAbortOp (w : Writer) (k : BitVec 8) (s : State) : Host.Outcome State Fault Refusal := .next (abortOp s w k.toNat)

/-- SWARM_ABORT_RESEND (R212): every 8 ticks, at most 8 times, the record goes to each member that owes ABORT_SEEN. -/
def execSwarmAbortResend (k : BitVec 8) (op : BitVec 32) (s : State) : Host.Outcome State Fault Refusal :=
  .next (match swOp s k.toNat op.toNat with
    | some o =>
      match o.rec_ with
      | some r =>
        if o.resends < 8 ∧ o.since + ticks (8 * (o.resends + 1)) ≤ s.now then
          let s := setOp s k.toNat { o with resends := o.resends + 1 }
          o.owed.foldl (fun s m => fromControl s k.toNat op.toNat (abortPacket s k.toNat (swEp s k.toNat m) r)) s
        else s
      | none => s
    | none => s)

/-- SWARM_ABORT_RESEND_LIMIT (R202): the operation ends when the 8th resend period has passed; unseen members are counted. -/
def execSwarmAbortResendLimit (k : BitVec 8) (op : BitVec 32) (s : State) : Host.Outcome State Fault Refusal :=
  .next (match swOp s k.toNat op.toNat with
    | some o =>
      if !o.isOpen && o.resends == 8 && decide (o.since + ticks 72 ≤ s.now) then
        swStatus (endOp (cnt s (Reg.SWARM.SWARM_COUNT_C.ABORT_UNSEEN k.toNat) o.owed.length) k.toNat op.toNat) k.toNat
      else s
    | none => s)

/-! ### Places and credit (R203 to R205) -/

/-- The swarms of a 256-bit map, ascending. -/
def swarmsAt (s : State) (place : Nat) : List Nat := (List.range 256).filter (fun k => rd s (Reg.SWARM.SWARM_STATUS.PLACE k) == place)

/-- The lowest free place number. -/
def freePlace (s : State) : Option Nat :=
  (List.range 48).find? (fun n => (swarmsAt s 2).all (fun k => rd s (Reg.SWARM.SWARM_STATUS.PLACE_NO k) != n))

/-- The active swarm to park (R203 rule 3): idle longest, and for at least PARK_TICKS. -/
def parkVictim (s : State) : Option Nat :=
  let l := (swarmsAt s 2).filterMap (fun k => match (swRun s k).idle with
    | some t => if t + ticks (rd s Reg.SWARM.SWARM_CFG.PARK_TICKS) ≤ s.now then some (t, k) else none
    | none => none)
  match (l.map (fun e => e.1)).min? with
  | some t => (l.find? (fun e => e.1 == t)).map (fun e => e.2)
  | none => none

/-- The waiting swarm with the earliest demand; ties go to the lower number (R203 rule 2). -/
def firstWaiting (s : State) : Option Nat :=
  let l := (swarmsAt s 1).map (fun k => ((swRun s k).waitAt, k))
  match (l.map (fun e => e.1)).min? with
  | some t => (l.find? (fun e => e.1 == t)).map (fun e => e.2)
  | none => none

/-- Waiting swarms placed, parking idle ones where no place is free, for at most `fuel` swarms. -/
def fillPlaces (s : State) : Nat → State
  | 0 => s
  | fuel + 1 =>
    match firstWaiting s with
    | none => s
    | some k =>
      match freePlace s with
      | some n => fillPlaces (swPlace s k 2 n) fuel
      | none =>
        match parkVictim s with
        | some v => fillPlaces (swPlace s v 0 0) fuel
        | none => s

/-- SWARM_ADMISSION (R203): a tick task of the scheduler core. -/
def execSwarmAdmission (s : State) : Host.Outcome State Fault Refusal :=
  .next (if taskDue s 3 4096 && !procAway s 3 then fillPlaces (taskRun s 3 4096) 512 else s)

/-- Active swarms with an OPEN operation whose limit is below T_q (R205). -/
def grantees (s : State) : List Nat := (swarmsAt s 2).filter (swOwed s)

/-- The grant of swarm `k` in one window: tiles per member (R205). -/
def grantOf (s : State) (k wsum : Nat) : Nat :=
  max 1 (rd s Reg.SWARM.SWARM_CFG.TILE_BUDGET * rd s (Reg.SWARM.SWARM_DEF.WEIGHT k) / wsum / swMembers s k)

/-- One operation's limit raised by the grant and multicast (R204, R205). -/
def raiseLimit (k g : Nat) (s : State) (o : SwOp) : State :=
  if o.limit < swTq s k then
    let o := { o with limit := min (o.limit + g) (swTq s k) }
    fromControl (setOp s k o) k o.opseq (creditPacket s k (serviceId s) 0 o)
  else s

/-- The grants of one credit window (R205). -/
def creditWindow (s : State) : State :=
  let l := grantees s
  let wsum := (l.map (fun k => rd s (Reg.SWARM.SWARM_DEF.WEIGHT k))).sum
  l.foldl (fun s k => swStatus ((swOpen s k).foldl (raiseLimit k (grantOf s k wsum)) s) k) s

/-- SWARM_CREDIT_WINDOW (R205). -/
def execSwarmCreditWindow (s : State) : Host.Outcome State Fault Refusal :=
  .next (if taskDue s 2 4096 && !procAway s 3 then creditWindow (taskRun s 2 4096) else s)

/-! ### Tiles at the home cell (R206, R207) -/

/-- The checks of R206 that do not concern the tile itself, and of R209. -/
def swIndexOk (s : State) (h : Hdr) : Bool :=
  let k := h.x 0 8
  running s (fSwarm k) && swMemberOk s h && h.tenant.toNat == swTenant s k && swHere s k (h.x 64 32)

/-- A contribution is accepted (R206). -/
def contribOk (s : State) (p : Packet) : Bool :=
  let h := p.h
  let k := h.x 0 8
  let i := h.x 64 32
  let t := p.payload
  swIndexOk s h && t.length == tileLen && tileKind t == 1 && tileFmt t == swFmt s k && tileField t 96 8 == k && tileField t 104 8 == h.x 8 8 &&
  tileField t 128 32 == h.x 32 32 && tileField t 160 32 == i && tileBlocks t == swBlocks s k i && tileValid t == swValid s k i

/-- The operation was released silently on this plane (R214). -/
def swSilent (s : State) (k op : Nat) : Bool := (swRun s k).silent.contains op

/-- The epoch that packets of an operation carry (R208): recorded at its opening, else that of the slot's first contribution. -/
def opEpoch (s : State) (k : Nat) (x : Slot) : Nat :=
  match swOp s k x.opseq with
  | some o => o.epoch
  | none => match (swRun s k).stored with | some r => if r.opseq = x.opseq then r.epoch else x.epoch | none => x.epoch

/-- A SWARM_RESULT of the retained copy (R208). -/
def resultPacket (s : State) (k dest member : Nat) (x : Slot) (t : List Byte) : Packet :=
  mkPacket s
    { dest := BitVec.ofNat 12 dest, src := BitVec.ofNat 12 (serviceId s), tenant := BitVec.ofNat 12 (swTenant s k),
      kind := Kind.swarmResult.code, tc := 2, len := 0x3FF, epoch := BitVec.ofNat 8 (opEpoch s k x),
      ext := swExt k member 0 0 x.opseq x.tile 0 } t

/-- The result formed from the accumulator, retained and multicast (R207 steps 3 and 4, R208). -/
def formResult (s : State) (l k b j : Nat) (x : Slot) : State :=
  let t := retile (hbmRdN s (accAddr s k b j) tileLen) [(32, 32, 0), (68, 4, 2), (104, 8, 0)]
  let x := { x with formed := true, resultAt := s.time.toNat }
  let s := cnt (setSlot (hbmWr s (accAddr s k b j) t) k b j x) (Reg.SWARM.SWARM_COUNT_B.TILES_REDUCED k)
  let s := bump s (ctrNo 0x10 (8 * k + 2))
  offer s (512 + l) (resultPacket s k (serviceId s) 0 x t)

/-- The verdict of a finish (R145, R207): 0 forms the result from the tile it leaves; any other value asks for an abort. -/
def finishVerdict (s : State) (l k op i verdict : Nat) (t : List Byte) : State :=
  let b := op % 2
  let j := swLocal s k i
  match slotOf s k b j with
  | some x =>
    if x.opseq ≠ op then s
    else if verdict = 0 then formResult (hbmWr s (accAddr s k b j) t) l k b j x
    else cellAbort (setSlot s k b j { x with held := true }) l k op 5 (verdict % 256)
  | none => s

/-- The device HBM address of the state range of swarm `k` (R131, R147). -/
def stateBase (s : State) (k : Nat) : Nat := homeAddr s (rd s (Reg.SWARM.SWARM_DEF.STATE_OFFSET k))
/-- Its length in bytes. -/
def stateLen (s : State) (k : Nat) : Nat := rd s (Reg.SWARM.SWARM_DEF.STATE_LEN_2M k) * 2 ^ 21

/-- FP32 elements of HBM bytes, 0 to `n` − 1. -/
def rowRd (s : State) (a n : Nat) : List Nat := Num.elems 32 n (hbmRdN s a (4 * n))

/-- The value of an element of a non-MX format. -/
def elemVal (fmt c : Nat) : Num.Val := match Num.floatFmt fmt with | some f => Num.decode f c | none => Num.ofInt (Num.intOf (Num.elemBits fmt) c)
/-- The element of a non-MX format that a value rounds to (R183 to R186). -/
def elemCode (fmt rnd draw : Nat) (v : Num.Val) : Nat :=
  match Num.floatFmt fmt with | some f => Num.encode f rnd draw v | none => Num.toInt (Num.elemBits fmt) rnd draw v

/-- FIN_SGD_MOMENTUM on one element (R145): gradient, momentum and weight to the new momentum, the new weight and the element returned, each
rounded once under `rnd` with its draw. -/
def sgdElem (rate factor rnd fmt : Nat) (d : Nat × Nat × Nat) (g : Num.Val) (m w : Nat) : Nat × Nat × Nat :=
  let v := Num.decode Num.fp32
  let m' := Num.encode Num.fp32 rnd d.1 (Num.add (Num.mul (v factor) (v m)) g)
  let w' := Num.encode Num.fp32 rnd d.2.1 (Num.add (v w) (Num.neg (Num.mul (v rate) (v m'))))
  (m', w', elemCode fmt rnd d.2.2 (v w'))

/-- The random state of device cell `l` after an unstated number of draws under STOCHASTIC (R185; log entry 40). -/
def drawnRand (s : State) (l rnd : Nat) : State := if rnd = 0 then s else setRand (takeFree s) l (Num.srSkip (peekFree s) (cellRand s l))

/-- FIN_SGD_MOMENTUM with parameter `p` on a tile of a 32-bit or 16-bit format (R145): the tile's new data and the state. The rate is s5[31:0]
and the momentum factor s5[63:32], and the weight row lies at +4,096 of the tile's 8,192 B in every format (DESIGN CHOICE, log entry 40).
Under STOCHASTIC the draws are free values, as the manual does not state their order (log entry 40). -/
def finSgd (s : State) (l k i p fmt rnd : Nat) (t : List Byte) : List Byte × State :=
  let n := 16384 / Num.elemBits fmt
  let a := stateBase s k + i * 8192
  let g := Num.elems (Num.elemBits fmt) n (tileData t)
  let ms := rowRd s a n
  let ws := rowRd s (a + 4096) n
  let x := peekFree s
  let r := (List.range n).map (fun e =>
    sgdElem (p % 2 ^ 32) (p / 2 ^ 32) rnd fmt (bits x (48 * e) 16, bits x (48 * e + 16) 16, bits x (48 * e + 32) 16) (elemVal fmt (g.getD e 0))
      (ms.getD e 0) (ws.getD e 0))
  let s := if rnd = 0 then s else drawnRand (takeFree s) l rnd
  let s := hbmWr (hbmWr s a (Num.unelems 32 (r.map (fun e => e.1)))) (a + 4096) (Num.unelems 32 (r.map (fun e => e.2.1)))
  (Num.unelems (Num.elemBits fmt) (r.map (fun e => e.2.2)), s)

/-- Free bytes, `n` of them. -/
def freeBytes (s : State) (n : Nat) : List Byte × State := (leBytes n (peekFree s), takeFree s)

/-- A stock finish whose exact result the manual does not state: the tile's data and its state rows take free values, and under STOCHASTIC
the random state moves on. -/
def finFree (s : State) (l k i row rnd : Nat) : List Byte × State :=
  let (d, s) := freeBytes s 2048
  let (r, s) := freeBytes s row
  (d, hbmWr (drawnRand s l rnd) (stateBase s k + i * row) r)

/-- Bytes of the state window that a tile has in a stock finish that keeps rows (R145). -/
def finishRow (img : Nat) : Nat := if img = 0x11 then 8192 else 12288

/-- FIN_SGD_MOMENTUM or FIN_ADAMW on the reduced tile (R145). FIN_SGD_MOMENTUM is exact where its FP32 rows hold every element of the tile;
what else the manual does not state is free. -/
def finRows (s : State) (l k i fmt rnd p : Nat) (t : List Byte) : List Byte × State :=
  let img := rd s (Reg.SWARM.SWARM_DEF.FINISH_IMAGE k)
  if img = 0x11 ∧ Num.isMx fmt = false ∧ 16 ≤ Num.elemBits fmt then finSgd s l k i p fmt rnd t else finFree s l k i (finishRow img) rnd

/-- A stock finish with parameter `p` in s5 on the reduced tile (R145, R167): its verdict, the tile's data and the state. A row that runs past
the state window is an ADDRESS fault (R177); a row with an uncorrectable error sets POISONED, and the verdict is 0xFE (R167 step 4). -/
def stockFinish (s : State) (l k i fmt rnd p : Nat) (t : List Byte) : Nat × List Byte × State :=
  let img := rd s (Reg.SWARM.SWARM_DEF.FINISH_IMAGE k)
  let s := localWr (localWr s l 0x1FFF0 (leBytes 8 (rd s (Reg.SWARM.SWARM_DEF.FINISH_PARAM k)))) l 0x1FFF8 (leBytes 8 (rd s (Reg.SWARM.SWARM_DEF.FINISH_AUX k)))
  if img = 0x10 then
    let r := Num.tileScale fmt rnd (tileBlocks t) (tileData t) (p % 2 ^ 32) (cellRand s l)
    (0, r.1, setRand s l r.2)
  else if stateLen s k < i * finishRow img + finishRow img then
    let s := countException s l
    (0xFF, tileData t, report (takeFree s) (fCluster (l / 128)) 0x05 9 4 (cellDetail s l) (packBits [(0, 4, 1), (16, 16, peekFree s)]))
  else
    let r := finRows s l k i fmt rnd p t
    (if hbmPoisoned s (stateBase s k + i * finishRow img) (finishRow img) then 0xFE else 0, r.1, r.2)

/-- A tile whose last member has been counted (R207): the finish, if one is defined, then the result. -/
def completeTile (s : State) (l k b j : Nat) (x : Slot) : State :=
  let kind := rd s (Reg.SWARM.SWARM_DEF.FINISH_KIND k)
  let t := hbmRdN s (accAddr s k b j) tileLen
  if kind = 0 then formResult s l k b j x
  else if kind = 1 then
    let r := stockFinish s l k x.tile (swFmt s k) (rd s (Reg.SWARM.SWARM_DEF.RND k)) (rd s (Reg.SWARM.SWARM_DEF.FINISH_PARAM k)) t
    finishVerdict r.2.2 l k x.opseq x.tile r.1 (t.take 64 ++ r.2.1)
  else
    let i := (findKey s.cells.finishes k).getD {}
    let e := (imgEntry i 9).getD (0, 0, 0)
    let regs : CellRegs :=
      { s := [0, BitVec.ofNat 64 k, BitVec.ofNat 64 x.opseq, BitVec.ofNat 64 x.tile, BitVec.ofNat 64 (swMembers s k),
          BitVec.ofNat 64 (rd s (Reg.SWARM.SWARM_DEF.FINISH_PARAM k)), BitVec.ofNat 64 (stateLen s k)] ++ List.replicate 25 0,
        t := [some 0, none, none, none], fmt := swFmt s k, rnd := rd s (Reg.SWARM.SWARM_DEF.RND k) }
    let s := setSlotTile s l 0 t
    let s := if i.tenant then localWr s l 0x1C000 (List.replicate 16384 0) else s
    setRun s l { r := regs, pc := e.1, kind := 5, arrival := some 0, since := s.now,
                 fin := some { saved := {}, pc := 0, swarm := k, tenant := i.tenant, reduce := some (x.opseq, x.tile) } }

/-- The retained result sent again to member `m` (R209), after a check that may recall it (R217). -/
def resendTo (s : State) (l k b j m : Nat) (x : Slot) : State :=
  let t := hbmRdN s (accAddr s k b j) tileLen
  if hbmPoisoned s (accAddr s k b j) tileLen || !tileCrcOk t then cellAbort s l k x.opseq 3 m
  else offer (bump (cnt s (Reg.SWARM.SWARM_COUNT_C.RESENDS k)) (ctrNo 0x10 (8 * k + 5))) (512 + l) (resultPacket s k (swEp s k m) m x t)

/-- The first contribution of a tile, copied into the accumulator (R207). -/
def firstTile (s : State) (l k b j : Nat) (p : Packet) : State :=
  let st := p.stamp
  let x : Slot := { opseq := p.h.x 32 32, tile := p.h.x 64 32, epoch := p.h.epoch.toNat, counted := [(p.h.x 8 8, st)], first := st }
  let s := setSlot (hbmWr s (accAddr s k b j) p.payload) k b j x
  if swMembers s k = 1 then completeTile s l k b j x else s

/-- A later contribution added (R192, R207); a poisoned accumulator, its slot record with it, asks for an abort. -/
def addTile (s : State) (l k b j : Nat) (x : Slot) (p : Packet) : State :=
  let a := accAddr s k b j
  let x := { x with counted := x.counted ++ [(p.h.x 8 8, p.stamp)] }
  if hbmPoisoned s a 2240 then cellAbort (setSlot s k b j { x with held := true }) l k x.opseq 5 0xFD
  else
    let t := hbmRdN s a tileLen
    let r := Num.tileAdd (swFmt s k) (rd s (Reg.SWARM.SWARM_DEF.RND k)) (tileBlocks t) (tileData t) (tileData p.payload) (cellRand s l)
    let s := setSlot (hbmWr (setRand s l r.2) a (t.take 64 ++ r.1)) k b j x
    if x.counted.length = swMembers s k && !x.held then completeTile s l k b j x else s

/-- A contribution at its home cell `l` (R206). -/
def swarmTile (s : State) (l : Nat) (p : Packet) : State :=
  let h := p.h
  let k := h.x 0 8
  let op := h.x 32 32
  let m := h.x 8 8
  let b := op % 2
  let j := swLocal s k (h.x 64 32)
  if !contribOk s p then swDiscard s k
  else if swSilent s k op then s
  else
    match slotOf s k b j with
    | none => firstTile s l k b j p
    | some x =>
      if x.opseq ≠ op then (if opNewer op x.opseq then firstTile s l k b j p else swDiscard s k)
      else if x.formed then
        (if x.acks.any (fun a => a.1 == m) then swDup s k else if x.ended then swDiscard s k else resendTo s l k b j m x)
      else if x.counted.any (fun c => c.1 == m) then swDup s k
      else addTile s l k b j x p

/-- SWARM_TILE (R206). -/
def execSwarmTile (p : Packet) (s : State) : Host.Outcome State Fault Refusal :=
  let l := swarmCell (p.h.x 0 8) (p.h.x 32 32) (p.h.x 64 32)
  .next (if p.h.k ≠ some .swarmTile then s else cellEvent s l 5 p (fun s => swarmTile s l p))

/-- An ACK (SOP 0) or RESEND (SOP 1) with a tile index at its home cell (R209). -/
def swarmAck (s : State) (l : Nat) (p : Packet) : State :=
  let h := p.h
  let k := h.x 0 8
  let op := h.x 32 32
  let m := h.x 8 8
  let b := op % 2
  let j := swLocal s k (h.x 64 32)
  if !swIndexOk s h || decide (1 < h.x 16 4) then swDiscard s k
  else
    match slotOf s k b j with
    | none => swDup s k
    | some x =>
      if x.opseq ≠ op || x.ended then swDiscard s k
      else if !x.formed then swDup s k
      else if h.x 16 4 = 1 then resendTo s l k b j m x
      else if x.acks.any (fun a => a.1 == m) then s
      else
        let x := { x with acks := x.acks ++ [(m, p.stamp)] }
        setSlot s k b j { x with ended := x.acks.length == swMembers s k }

/-- A SWARM_ACK event with a tile index, or with a reserved control index, which is discarded and counted (R200). -/
def ackEvent (s : State) (p : Packet) (resend : Bool) : State :=
  let i := p.h.x 64 32
  if p.h.k ≠ some .swarmAck || (p.h.x 16 4 == 1) != resend then s
  else if i < 0xFFFFFFF0 then
    let l := swarmCell (p.h.x 0 8) (p.h.x 32 32) i
    cellEvent s l 6 p (fun s => swarmAck s l p)
  else controlEvent s p 6 14 (fun s => swDiscard s (p.h.x 0 8))

/-- SWARM_ACK (R209). -/
def execSwarmAck (p : Packet) (s : State) : Host.Outcome State Fault Refusal := .next (ackEvent s p false)
/-- SWARM_RESEND (R209). -/
def execSwarmResend (p : Packet) (s : State) : Host.Outcome State Fault Refusal := .next (ackEvent s p true)

/-! ### Deadlines and resends at the home cell (R209, R210) -/

/-- Members whose contribution, or whose ACK, is not stamped before the tile's present deadline, and that deadline (R97, R210). A tile counted
complete has no contribution deadline any more. -/
def lateMembers (s : State) (k : Nat) (x : Slot) : Nat × List Nat :=
  let late := fun (l : List (Nat × Nat)) (d : Nat) => (swAll s k).filter (fun m => !l.any (fun e => e.1 == m && decide (e.2 < d)))
  if x.formed then let d := x.resultAt + swTimeout s k; (d, late x.acks d)
  else if x.counted.length = swMembers s k then (0, [])
  else let d := x.first + swTimeout s k; (d, late x.counted d)

/-- The stock REDUCE acts on a slot of swarm `k` at home cell `l`: the cell serves its events itself, and its egress queue has room for what its
tick handler may emit (R134). -/
def slotCell (s : State) (k b j : Nat) : Option (Nat × Slot) :=
  match slotOf s k b j with
  | some x =>
    let l := swarmCell k x.opseq x.tile
    if clServes s (l / 128) && cellFree s l && emitRoom s l 1 && (imageOf s (l / 128)).stock && running s (fSwarm k) then some (l, x) else none
  | none => none

/-- SWARM_DEADLINE_TIMEOUT (R210): the watermark has reached a deadline that the tile has not met. -/
def execSwarmDeadlineTimeout (k : BitVec 8) (hi : Bool) (j : BitVec 18) (s : State) : Host.Outcome State Fault Refusal :=
  .next (match slotCell s k.toNat (b2n hi) j.toNat with
    | some (l, x) =>
      let d := lateMembers s k.toNat x
      match d.2 with
      | m :: _ => if !x.ended && decide (d.1 ≤ watermark s (tickStart s)) then cellAbort s l k.toNat x.opseq 1 m else s
      | [] => s
    | none => s)

/-- SWARM_RESULT_RESEND (R209): once every 16 ticks after the result stamp, to each member that has not acknowledged; a bad
copy is recalled once and nothing is sent. -/
def execSwarmResultResend (k : BitVec 8) (hi : Bool) (j : BitVec 18) (s : State) : Host.Outcome State Fault Refusal :=
  .next (match slotCell s k.toNat (b2n hi) j.toNat with
    | some (l, x) =>
      if x.formed && !x.ended && decide (x.resultAt + ticks (16 * (x.resends + 1)) ≤ s.time.toNat) then
        let x := { x with resends := x.resends + 1 }
        let s := setSlot s k.toNat (b2n hi) j.toNat x
        let ms := (swAll s k.toNat).filter (fun m => !x.acks.any (fun a => a.1 == m))
        let bad := hbmPoisoned s (accAddr s k.toNat (b2n hi) j.toNat) tileLen || !tileCrcOk (hbmRdN s (accAddr s k.toNat (b2n hi) j.toNat) tileLen)
        (if bad then ms.take 1 else ms).foldl (fun s m => resendTo s l k.toNat (b2n hi) j.toNat m x) s
      else s
    | none => s)

/-! ### The function's life (R33, R151, R196, R202) -/

/-- SWARM `k` becomes RUNNING (R196): a new operation sequence. -/
def swarmStart (s : State) (k : Nat) : State :=
  let s := { s with cells := { s.cells with slots := s.cells.slots.filter (fun e => e.1 / 229376 / 2 != k) } }
  let s := wr (setSw s k {}) (Reg.SWARM.SWARM_STATUS.NEXT_OPSEQ k) (rd s (Reg.SWARM.SWARM_DEF.START_OPSEQ k))
  swStatus (setSw s k { swRun s k with lost := swLost s k none }) k

/-- SWARM `k` leaves RUNNING (R202, R203 rule 4): every OPEN operation is aborted with cause MANAGER, and its place is lost. -/
def swarmLeave (s : State) (k : Nat) : State :=
  swPlace ((swOpen s k).foldl (fun s o => match swOp s k o.opseq with
    | some o => if o.isOpen then decide_ s k o 5 0 2 else s
    | none => s) s) k 0 0

/-- SWARM `k` reaches STOPPED (R33): every remaining operation ends and no further packet of the swarm is sent. -/
def swarmStopped (s : State) (k : Nat) : State :=
  let s := (swRun s k).ops.foldl (fun s o => endOp s k o.opseq) s
  let keep := fun (e : Nat × Packet) => !(e.2.h.x 0 8 == k && decide (128 ≤ e.1) && (decide (e.1 < 230) || decide (512 ≤ e.1)) &&
    (e.2.h.k == some .swarmResult || e.2.h.k == some .swarmCtl || e.2.h.k == some .swarmAck))
  let s := { s with outbox := s.outbox.filter keep,
                    cells := { s.cells with slots := s.cells.slots.map (fun e => if e.1 / 229376 / 2 = k then (e.1, { e.2 with ended := true }) else e) } }
  swPlace (swStatus s k) k 0 0

/-- The result of the tile that a contribution names is formed. -/
def tileFormed (s : State) (h : Hdr) : Bool :=
  match slotOf s (h.x 0 8) (h.x 32 32 % 2) (swLocal s (h.x 0 8) (h.x 64 32)) with
  | some x => x.opseq == h.x 32 32 && x.formed
  | none => false

/-- Contributions lost with device cell `l` (R151): the tiles that have one counted or waiting there and no result formed are
never completed, and each of their OPEN operations aborts with cause MANAGER. -/
def swarmCellLost (s : State) (l : Nat) : State :=
  let lost := fun (e : Nat × Slot) => swarmCell (e.1 / 458752) e.2.opseq e.2.tile == l && !e.2.formed
  let ops : List (Nat × Nat) := ((s.cells.slots.filter lost).map (fun (e : Nat × Slot) => (e.1 / 458752, e.2.opseq)) ++
    (s.inbox.filter (fun (e : Nat × Packet) => e.1 == cellPort l && e.2.h.k == some Kind.swarmTile && targetCell e.2.h == l && !tileFormed s e.2.h)).map
      (fun (e : Nat × Packet) => (e.2.h.x 0 8, e.2.h.x 32 32))).dedup
  let s := { s with cells := { s.cells with slots := s.cells.slots.map (fun e => if lost e then (e.1, { e.2 with held := true }) else e) } }
  ops.foldl (fun s e => match swOp s e.1 e.2 with
    | some o => if o.isOpen then coreAbort s e.1 e.2 5 0 2 else s
    | none => s) s

end Sys2Proof.Machine
end

