-- ==== Sys2Proof/Machine/CombineOps.lean ====
section
/-!
DEFINITION. Machine/CombineOps.lean: what the modules COMBINE, GATHER and OWNERSHIP share in a logical cell: the dovetail table,
the reply queue (R230) and the atomic ledger (R231, R232).
-/
namespace Sys2Proof.Machine
open Sys2Proof

/-! ### The cell's tables -/

/-- What COMBINE and GATHER keep in device cell `l`. -/
def comb (s : State) (l : Nat) : CombCell := (findKey s.cells.comb l).getD {}

/-- MAX_DOVETAILS and MAX_PARKED before a read (R242): what the fullest cell holds now counts, though the last read cleared them. -/
def combNow (s : State) : State :=
  let most := fun (f : Fld) (n : CombCell → Nat) => (f, max (rd s f) ((s.cells.comb.map (fun e => n e.2)).max?.getD 0))
  wrs s [most Reg.COMBINE.COMB_STATUS.MAX_DOVETAILS (fun c => c.doves.length), most Reg.COMBINE.COMB_STATUS.MAX_PARKED (fun c => c.parked.length)]

/-- That state set, with MAX_DOVETAILS and MAX_PARKED kept at their largest (R242). -/
def setComb (s : State) (l : Nat) (c : CombCell) : State :=
  let s := { s with cells := { s.cells with comb := putKey s.cells.comb l {} c } }
  let s := wr s Reg.COMBINE.COMB_STATUS.MAX_DOVETAILS (max (rd s Reg.COMBINE.COMB_STATUS.MAX_DOVETAILS) c.doves.length)
  wr s Reg.COMBINE.COMB_STATUS.MAX_PARKED (max (rd s Reg.COMBINE.COMB_STATUS.MAX_PARKED) c.parked.length)

/-- A dovetail replaced, by its TAG. -/
def setDove (s : State) (l : Nat) (d : Dove) : State :=
  setComb s l { comb s l with doves := (comb s l).doves.map (fun x => if x.tag = d.tag then d else x) }

/-- The TAG of an onward request that has completed: that of an ATOMIC is held for 2 ms (R80). -/
def spendTag (s : State) (d : Dove) (c : CombCell) : CombCell :=
  let c := { c with held := c.held.filter (fun e => decide (s.now < e.2)) }
  if d.h.k == some .atomic then { c with held := (d.tag, s.now + ms 2) :: c.held } else c

/-- A dovetail freed. -/
def freeDove (s : State) (l : Nat) (d : Dove) : State :=
  setComb s l (spendTag s d { comb s l with doves := (comb s l).doves.filter (fun x => x.tag != d.tag) })

/-- The first TAG from `t` on that no onward request of the cell uses; `fuel` bounds the search. -/
def tagFree (used : List Nat) (t : Nat) : Nat → Nat
  | 0 => t
  | n + 1 => if used.contains t then tagFree used ((t + 1) % 65536) n else t

/-- A TAG for an onward request: unique among the cell's outstanding ones (R228), and not one that is held (R80). -/
def newTag (s : State) (l : Nat) : Nat :=
  let c := comb s l
  tagFree (c.doves.map (fun d => d.tag) ++ (c.held.filter (fun e => decide (s.now < e.2))).map (fun e => e.1)) c.tagNext 65535

/-! ### The reply queue (R230) -/

/-- A packet added to the reply queue. -/
def pushReply (s : State) (l : Nat) (p : Packet) : State := setComb s l { comb s l with replies := (comb s l).replies ++ [p] }

/-- A packet is an onward request. -/
def isOnward (p : Packet) : Bool := match p.h.k with | some k => k.answered | none => false

/-- One packet of the reply queue emitted: an onward request starts its attempt. -/
def emitReply (l : Nat) (s : State) (p : Packet) : State :=
  if isOnward p then
    let r := cellSeq s p.h.dest.toNat p.h.tc.toNat
    let c := comb r.2 l
    let s := setComb r.2 l { c with doves := c.doves.map (fun d => if d.tag = p.h.tag.toNat then { d with sentAt := s.now } else d) }
    offer s (512 + l) (mkPacket s { p.h with seq := BitVec.ofNat 16 r.1 } p.payload)
  else offer s (512 + l) (mkPacket s p.h p.payload)

/-- Onward requests of all the cells to `dest` in class `tc` that have been sent and not answered (R80). -/
def onwardOut (s : State) (dest tc : Nat) : Nat :=
  (s.cells.comb.map (fun e => (e.2.doves.filter (fun d => d.h.ep == dest && (if d.cls = 3 then 3 else 1) == tc &&
    !(e.2.replies.any (fun p => isOnward p && p.h.tag.toNat == d.tag)))).length)).sum

/-- A packet of the reply queue may be emitted: an onward request only while fewer than 16,384 of its sequence are unanswered (R80). -/
def mayEmit (s : State) (p : Packet) : Bool := !isOnward p || decide (onwardOut s p.h.dest.toNat p.h.tc.toNat < 16384)

/-- At most `n` packets of the reply queue emitted, in order. -/
def flushSome (l : Nat) : Nat → State → State
  | 0, s => s
  | n + 1, s =>
    match (comb s l).replies with
    | [] => s
    | p :: ps => if mayEmit s p then flushSome l n (emitReply l (setComb s l { comb s l with replies := ps }) p) else s

/-- The reply queue emitted as far as one handler's 16 emits go (R175, R230). -/
def flushReplies (s : State) (l : Nat) : State := flushSome l 16 s

/-- The answer to constituent `h` queued: on TC1, SRC its DEST (R230). -/
def cellAnswer (s : State) (l : Nat) (h : Hdr) (cc detail res res2 : Nat) (payload : List Byte := []) (len : Nat := 0) : State :=
  pushReply s l { h := respHdr { h with tc := 1 } h.dest.toNat (respExt h.cookie cc detail res res2) len, payload := payload }

/-! ### The atomic ledger (R231, R232, R296) -/

/-- The hold of a ledger entry. -/
def ledHold (s : State) : Nat := us (rd s Reg.COMBINE.COMB_CFG.LEDGER_HOLD_US)

/-- The four ways of a requester and tag in the ledger of device cell `l`. -/
def ledWays (l src tag : Nat) : List Nat :=
  let b := crc32c (leBytes 2 src ++ leBytes 2 tag) % 128
  (List.range 4).map (fun w => 512 * l + 4 * b + w)

/-- An entry whose hold is over at fabric time now (R232). -/
def ledOver (s : State) (e : Ledger) : Bool := !e.reserved && decide (e.written + ledHold s ≤ s.time.toNat)

/-- A way is free: empty, or its hold is over. -/
def ledFree (s : State) (k : Nat) : Bool :=
  match findKey s.cells.ledger k with | some e => ledOver s e | none => true

/-- A way set. -/
def setLedger (s : State) (k : Nat) (e : Ledger) : State := { s with cells := { s.cells with ledger := setKey s.cells.ledger k e } }

/-- A way emptied. -/
def freeLedger (s : State) (k : Nat) : State := { s with cells := { s.cells with ledger := delKey s.cells.ledger k } }

/-- A way reserved for the mutating request `h`; none where its bucket is full (R232). -/
def ledReserve (s : State) (l : Nat) (h : Hdr) : Option State :=
  match (ledWays l h.src.toNat h.tag.toNat).find? (ledFree s) with
  | some k => some (setLedger s k { src := h.src.toNat, tag := h.tag.toNat, tenant := h.tenant.toNat, epoch := h.epoch.toNat, reserved := true })
  | none => none

/-- The way of request `h` that is reserved, or written and still held. -/
def ledFind (s : State) (l : Nat) (h : Hdr) (reserved : Bool) : Option (Nat × Ledger) :=
  ((ledWays l h.src.toNat h.tag.toNat).filterMap (fun k => (findKey s.cells.ledger k).map (fun e => (k, e)))).find?
    (fun e => e.2.src == h.src.toNat && e.2.tag == h.tag.toNat && e.2.reserved == reserved && !ledOver s e.2)

/-- The 256 bits of a ledger entry (R232). -/
def ledBits (e : Ledger) : Nat :=
  packBits [(0, 12, e.src), (12, 16, e.tag), (28, 12, e.tenant), (40, 8, e.epoch), (48, 8, e.ccode), (64, 64, e.result), (128, 64, e.written)]

/-- HBM address of the mirrors of the cells (R232, R294). -/
def mirrorBase (s : State) : Nat := rd s Reg.COMBINE.TABLE_CFG.MIRROR_REGION * 2 ^ 30

/-- HBM address of the mirror of ledger way `k`. -/
def ledMirror (s : State) (k : Nat) : Nat := mirrorBase s + k * 32
/-- HBM address of the mirror of the ownership record in way `k`. -/
def ownMirror (s : State) (k : Nat) : Nat := mirrorBase s + 0x06000000 + k * 32

/-- The shared-SRAM copies of the ledger and of the ownership records of device cell `l` rebuilt from their mirrors (R232, R294): what was
written stands there, and what the mirror has poisoned is lost (R352). A reserved way holds no entry yet and stands. -/
def rebuildTables (s : State) (l : Nat) : State :=
  { s with cells := { s.cells with
      ledger := s.cells.ledger.filter (fun e => !(e.1 / 512 == l && !e.2.reserved && hbmPoisoned s (ledMirror s e.1) 32)),
      owned := s.cells.owned.filter (fun e => !(e.1 / 1024 == l && hbmPoisoned s (ownMirror s e.1) 32)) } }

/-- An uncorrectable error of shared SRAM waits for its cluster control core, which is away (R377). -/
def repairWaits (s : State) (l : Nat) (ecc : Option (BitVec 23)) : Bool := ecc.isSome && procAway s (4 + l / 128)

/-- An uncorrectable error of the shared SRAM, where there is one, recorded (R349, class 0x07) and repaired. -/
def repaired (s : State) (l : Nat) : Option (BitVec 23) → State
  | some a => rebuildTables (report s (fCluster (l / 128)) 0x07 2 2 (l / 128) a.toNat) l
  | none => s

/-- The reserved entry of request `h` written with its answer, and mirrored (R231, R232). -/
def ledWrite (s : State) (l : Nat) (h : Hdr) (cc res : Nat) : State :=
  match ledFind s l h true with
  | some (k, e) =>
    let e := { e with ccode := cc, result := res, written := s.time.toNat, reserved := false }
    hbmWr (setLedger s k e) (ledMirror s k) (leBytes 32 (ledBits e))
  | none => s

end Sys2Proof.Machine
end

