-- ==== Sys2Proof/Machine/HostReset.lean ====
section
/-!
DEFINITION. Machine/HostReset.lean: contexts entering and leaving service (R245, R305, R315), export revocation (R288), the
function level reset (R312 to R314) and the virtual functions of a port (R299, R305).
-/
namespace Sys2Proof.Machine
open Sys2Proof

/-! ### Export entries (R287, R288, R324) -/

/-- Each VALID export entry of end-point `e` whose CTX is one that `of` names is revoked and cleared (R288). -/
def revokeExports (s : State) (e : Nat) (of : Nat → Bool) : State :=
  ((exportsOf s e).filter (fun k => of (exportCtx s e k))).foldl
    (fun s k => wr (revokeEntry s (exportIndex s e k)).2 (Reg.EXTENT.EXPORT.VALID e k) 0) s

/-- Byte address of export entry `k` of end-point `e` in BAR0. -/
def exportAddr (e k : Nat) : Nat := 0xA20000 + e * 0x20000 + k * 0x20

/-- A write to an export entry (R287, R324, R439): fields other than VALID only while VALID is 0; a write that sets VALID for
a context of a confidential function is ignored. -/
def exportWrite (s : State) (w : Writer) (e k v : Nat) (acc : Nat × Nat := (exportAddr e k, 8)) : State :=
  let valid := rdb s (Reg.EXTENT.EXPORT.VALID e k)
  let fs := [(Reg.EXTENT.EXPORT.REG_INDEX e k, bits v 1 18), (Reg.EXTENT.EXPORT.CTX e k, bits v 20 12), (Reg.EXTENT.EXPORT.LBASE e k, bits v 76 52)]
  if valid then
    let s := if fs.all (fun f => rd s f.1 == f.2) then s else regError s w acc.1 acc.2 true 3
    if bitAt v 0 then s else wr s (Reg.EXTENT.EXPORT.VALID e k) 0
  else if bitAt v 0 && confOn s (ctxKey s (bits v 20 12)) then regError s w acc.1 acc.2 true 7
  else wr (wrs s fs) (Reg.EXTENT.EXPORT.VALID e k) (bits v 0 1)

/-- EXPORT_WRITE (R287). -/
def execExportWrite (w : Writer) (e : Fin 2) (k : BitVec 12) (v : BitVec 128) (s : State) : Host.Outcome State Fault Refusal :=
  .next (exportWrite s w e.val k.toNat v.toNat)

/-! ### Steps 1 to 4 of R312 for one context -/

/-- The operations of swarm `k` that are OPEN, on this plane or for a contribution of context `c` (R216). -/
def flrOps (s : State) (c k : Nat) : List Nat :=
  ((((findKey s.cells.swarms k).getD {}).ops.filter (fun o => o.rec_.isNone)).map (fun o => o.opseq) ++
    (s.ep.contribs.filter (fun x => x.ctx == c && x.swarm == k && x.st == 1)).map (fun x => x.opseq)).dedup

/-- Step 2 (R216): ABORT_REQ with cause FLR for each OPEN operation of each swarm that has the context as a member. -/
def flrAborts (s : State) (c : Nat) : State :=
  let e := ctxEp s c
  ((List.range 256).filter (fun k => running s (fSwarm k))).foldl (fun s k =>
    ((swAll s k).filter (fun m => swEp s k m == epId s e && swCtx s k m == c)).foldl (fun s m =>
      (flrOps s c k).foldl (fun s op => swAck s e c k m 0 op 0xFFFFFFF4) s) s) s

/-- A tag held for 2 ms after its request was retired (R313). -/
def holdTag (s : State) (r : Reqst) : State :=
  { s with host := { s.host with tagHold := setKey s.host.tagHold (65536 * r.ep + r.h.tag.toNat) (s.now + ms 2) } }

/-- An access of local memory made for context `c`. -/
def opFor (s : State) (c : Nat) (o : HostOp) : Bool :=
  match o.what with
  | .desc x _ _ => x == c
  | .segs x => x == c
  | .data d => (match descOf s d with | some x => x.ctx == c | none => false)
  | _ => false

/-- Step 4: every request and descriptor of the context is retired with no completion entry; the completions of its reads are
discarded, those not yet issued are dropped (R312, R313). -/
def retireCtx (s : State) (c : Nat) : State :=
  let s := (s.ep.reqs.filter (fun r => r.ctx == c)).foldl (fun s r => creditFree (holdTag s r) r) s
  let ops := (s.host.ops.filter (fun o => !(opFor s c o && o.st != 2))).map (fun o => if opFor s c o then { o with dead := true } else o)
  let lo := 4 * c * 32768
  let s := swDrop s (fun _ x h => x == c && h.k == some .swarmTile)
  { s with
    host := { s.host with ops := ops, atsWait := s.host.atsWait.filter (fun w => w.ring != c && !(s.ep.descs.any (fun d => d.ctx == c && w.ring == 4097 + d.id))) },
    ep := { s.ep with
      reqs := s.ep.reqs.filter (fun r => r.ctx != c), descs := s.ep.descs.filter (fun d => d.ctx != c),
      merges := s.ep.merges.filter (fun m => m.ctx != c), contribs := s.ep.contribs.filter (fun x => x.ctx != c),
      fetched := s.ep.fetched.filter (fun f => !(decide (lo ≤ f.1) && decide (f.1 < lo + 4 * 32768))) } }

/-- The context writes no ring entry and starts nothing from here on (step 1); its moderation count is cleared. -/
def shutCtx (s : State) (c : Nat) : State := setCtx s c { ctxRun s c with shut := true, modCount := 0, owesMsg := false }

/-- Steps 1 to 4 of R312 over the contexts `cs` of one end-point; the exports revoked are those of the contexts that `of` names. -/
def resetCtxs (s : State) (e : Nat) (cs : List Nat) (of : Nat → Bool := fun c => cs.contains c) : State :=
  let s := cs.foldl shutCtx s
  let s := cs.foldl flrAborts s
  cs.foldl retireCtx (revokeExports s e of)

/-- ENABLE of context `c` cleared. -/
def dropCtx (s : State) (c : Nat) : State := ctxStatus (wr s (Reg.EP.CTX.ENABLE c) 0) c

/-- A context leaves service (R315): steps 1 to 4 of R312 for it alone. -/
def ctxDisable (s : State) (c : Nat) : State :=
  if !ctxOn s c then s
  else
    let e := ctxEp s c
    qosStatus (pump (dropCtx (resetCtxs s e [c]) c) e) e

/-- CTX_DISABLE (R315). -/
def execCtxDisable (_w : Writer) (c : BitVec 12) (s : State) : Host.Outcome State Fault Refusal := .next (ctxDisable s c.toNat)

/-! ### ENABLE (R245, R305) -/

/-- MSI-X vectors of function `f` of port `p` (R307). -/
def vectorCount (s : State) (p f : Nat) : Nat :=
  if f = 0 then rd s (Reg.HOSTPORT.PORT_CFG.PF_VECTORS p) else rd s (Reg.HOSTPORT.PORT_CFG.VF_VECTORS p)

/-- The cases in which a write that sets ENABLE is ignored (R305). -/
def enableRefused (s : State) (c : Nat) : Bool :=
  let p := ctxEp s c
  let f := ctxFunc s c
  (f != 0 && (match findKey s.host.numVfs p with | some n => decide (n ≤ f) | none => true)) ||
  decide (vectorCount s p f ≤ rd s (Reg.EP.CTX.EQ_VECTOR c)) || inFlr s p f

/-- Byte address of CTX[c] in BAR0. -/
def ctxAddr (c : Nat) : Nat := 0x810000 + c * 0x40

/-- A write that sets ENABLE of context `c` (R245, R305): its rings, near-cache lines and cached segments start afresh. -/
def ctxEnable (s : State) (w : Writer) (c : Nat) : State :=
  if ctxOn s c then s
  else if enableRefused s c then regError s w (ctxAddr c) 8 true 7
  else
    let s := setCtx (nearDrop s (fun e x _ => e == ctxEp s c && x == c)) c {}
    let s := { s with ep := { s.ep with segs := delKey s.ep.segs c } }
    ctxStatus (wrs s [(Reg.EP.CTX.ENABLE c, 1), (Reg.EP.CTX_STATUS.STEP_FAULTED c, 0), (Reg.EP.CTX_STATUS.EQ_OVERFLOW c, 0), (Reg.EP.CTX_STATUS.FAULTS c, 0)]) c

/-- CTX_ENABLE (R305). -/
def execCtxEnable (w : Writer) (c : BitVec 12) (s : State) : Host.Outcome State Fault Refusal := .next (ctxEnable s w c.toNat)

/-! ### Function level reset (R312) -/

/-- Step 5: the function's vectors are masked and their pending bits cleared. -/
def maskVectors (s : State) (p f : Nat) : State :=
  let mine := fun k => k / 4096 == p * 256 + f
  { s with host := { s.host with
      msixTab := s.host.msixTab.filter (fun x => !(mine (x.1 / 4) && x.1 % 4 == 3)), msixPend := s.host.msixPend.filter (fun k => !mine k) } }

/-- Step 6: the function leaves arbitration with no deficit (R317). -/
def leaveQos (s : State) (p f : Nat) : State :=
  wr { s with ep := { s.ep with qosDef := delKey s.ep.qosDef (256 * p + f), qosTick := delKey s.ep.qosTick (256 * p + f) } }
    (Reg.HOSTPORT.FUNC_STATE.QOS_ACTIVE p f) 0

/-- The keys and counters of a function erased; it is no longer confidential. -/
def confErase (s : State) (p f : Nat) : State :=
  wr { s with host := { s.host with conf := delKey s.host.conf (256 * p + f) } } (Reg.HOSTPORT.FUNC_STATE.CONFIDENTIAL p f) 0

/-- Step 7: keys erased and the SPDM session ended. -/
def endSession (s : State) (p f : Nat) : State :=
  let s := { s with host := { s.host with sessions := delKey s.host.sessions (256 * p + f) } }
  confErase s p f

/-- Reads and writes of local memory for fabric requests that the function has not issued yet are dropped (step 4); a signal that was firing
fires without its export. -/
def dropUnissued (s : State) (p f : Nat) : State :=
  let l := s.host.ops.filter (fun o => o.ep == p && o.func == f && o.st != 2)
  let s := { s with host := { s.host with
      ops := s.host.ops.filter (fun o => !(o.ep == p && o.func == f && o.st != 2)), atsWait := s.host.atsWait.filter (fun w => !(w.ep == p && w.func == f)) } }
  l.foldl (fun s o => match o.what with | .fire k q => ctrRetry s p k q | _ => s) s

/-- Steps 1 to 7 of R312 for function `f` of port `p`; step 8, which FLR_STEP shows as 7, is in progress then. -/
def flrOne (s : State) (p f : Nat) : State :=
  if inFlr s p f then s
  else
    let s := { s with host := { s.host with flr := setKey s.host.flr (256 * p + f) s.now } }
    let s := wrs s [(Reg.HOSTPORT.FUNC_STATE.FLR_ACTIVE p f, 1), (Reg.HOSTPORT.FUNC_STATE.FLR_STEP p f, 7)]
    let s := resetCtxs s p (funcCtxs s p f) (fun c => ctxEp s c == p && ctxFunc s c == f)
    drainBehind (endSession (leaveQos (maskVectors (hostNext (dropUnissued s p f) p) p f) p f) p f) p

/-- The functions that a reset of function `f` covers: with the PF, every VF of the port. -/
def flrFuncs (s : State) (p f : Nat) : List Nat :=
  if f = 0 then List.range ((findKey s.host.numVfs p).getD 0 + 1) else [f]

/-- A function level reset begins (R312, R314); that of a function already in reset is ignored. -/
def flrBegin (s : State) (p f : Nat) : State :=
  if inFlr s p f then s
  else pump ((flrFuncs s p f).foldl (fun s g => flrOne s p g) (cnt s (Reg.HOSTPORT.LINK_STATUS.FLR_COUNT p))) p

/-- FLR (R312). -/
def execFlr (port : Fin 2) (func : BitVec 8) (s : State) : Host.Outcome State Fault Refusal := .next (flrBegin s port.val func.toNat)

/-- The configuration space of a function reset: Command, power state, Device Control 2, MSI-X and ATS control; with the PF,
VF Enable. -/
def cfgReset (s : State) (p f : Nat) : State :=
  let k := 256 * p + f
  let h := s.host
  let h := { h with memEn := h.memEn.erase k, busEn := h.busEn.erase k, d3 := h.d3.erase k, atomicEn := h.atomicEn.erase k,
                    msixOn := h.msixOn.erase k, fnMask := h.fnMask.erase k, atsOn := h.atsOn.erase k,
                    atc := h.atc.filter (fun t => !(t.ep == p && t.func == f)) }
  { s with host := if f = 0 then { h with numVfs := delKey h.numVfs p } else h }

/-- Step 8 of R312 for one function. -/
def flrEnd (s : State) (p f : Nat) : State :=
  match findKey s.host.flr (256 * p + f) with
  | none => s
  | some t =>
    let s := cfgReset ((funcCtxs s p f).foldl dropCtx s) p f
    let s := { s with host := { s.host with flr := delKey s.host.flr (256 * p + f) } }
    wrs s [(Reg.HOSTPORT.FUNC_STATE.FLR_ACTIVE p f, 0), (Reg.HOSTPORT.FUNC_STATE.FLR_STEP p f, 0),
      (Reg.HOSTPORT.FUNC_STATE.LAST_FLR_US p f, (s.now - t) / 1600)]

/-- The functions of port `p` in reset. -/
def flrOf (s : State) (p : Nat) : List Nat := (s.host.flr.filter (fun x => x.1 / 256 == p)).map (fun x => x.1 % 256)

/-- FLR_COMPLETE (R312): the reset of the PF ends with those of its VFs. -/
def execFlrComplete (port : Fin 2) (func : BitVec 8) (s : State) : Host.Outcome State Fault Refusal :=
  let p := port.val
  .next (if func.toNat = 0 && inFlr s p 0 then (flrOf s p).foldl (fun s f => flrEnd s p f) s else flrEnd s p func.toNat)

/-! ### Virtual functions (R299, R305) -/

/-- NumVFs as it takes effect (R299): 7 at most without ARI, TotalVFs at most. -/
def numVfsOf (s : State) (p n : Nat) : Nat :=
  min (if s.host.ari.contains p || n ≤ 7 then n else 7) (rd s (Reg.HOSTPORT.PORT_CFG.TOTAL_VFS p))

/-- NumVFs and VF Enable of a port written (R299, R305): every VF that ceases to be is reset. -/
def vfWrite (s : State) (p n : Nat) (enable : Bool) : State :=
  let old := (findKey s.host.numVfs p).getD 0
  let new := if enable then numVfsOf s p n else 0
  let s := ((List.range (old + 1)).filter (fun v => decide (new < v))).foldl (fun s v => flrBegin s p v) s
  { s with host := { s.host with numVfs := if enable then setKey s.host.numVfs p new else delKey s.host.numVfs p } }

/-- NUMVFS_WRITE (R299). -/
def execNumvfsWrite (port : Fin 2) (n : BitVec 16) (enable : Bool) (s : State) : Host.Outcome State Fault Refusal :=
  .next (vfWrite s port.val n.toNat enable)

/-- VF_ENABLE_CLEAR (R305): VF Enable cleared, or NumVFs lowered with it set. -/
def execVfEnableClear (port : Fin 2) (n : BitVec 16) (enable : Bool) (s : State) : Host.Outcome State Fault Refusal :=
  .next (if enable && decide ((findKey s.host.numVfs port.val).getD 0 ≤ n.toNat) then s else vfWrite s port.val n.toNat enable)

end Sys2Proof.Machine
end

