-- ==== Sys2Proof/Machine/Words.lean ====
section
/-!
DEFINITION. Machine/Words.lean: the words of Milys (R157 to R159, R169, R172 to R175): the instruction that a word of CODE spells on a
cell, with the loader's code where it spells none, and the words that spell an instruction. The operands of JT and LOOP are read from
the words that follow (R161, R163).
-/
namespace Sys2Proof.Machine
open Sys2Proof

/-! ### Fields -/

/-- A 32-bit instruction word (R157). -/
abbrev MWord := BitVec 32

/-- The `n` bits of a word from bit `lo` on. -/
def MWord.part (w : MWord) (lo n : Nat) : BitVec n := BitVec.ofNat n (w.toNat / 2 ^ lo)
/-- A 5-bit register field. -/
def MWord.r5 (w : MWord) (lo : Nat) : Fin 32 := (w.part lo 5).toFin
/-- A 4-bit register field. -/
def MWord.r4 (w : MWord) (lo : Nat) : Fin 16 := (w.part lo 4).toFin
/-- A 3-bit predicate field. -/
def MWord.r3 (w : MWord) (lo : Nat) : Fin 8 := (w.part lo 3).toFin
/-- A 2-bit handle field. -/
def MWord.r2 (w : MWord) (lo : Nat) : Fin 4 := (w.part lo 2).toFin
/-- One bit. -/
def MWord.bit (w : MWord) (lo : Nat) : Bool := w.part lo 1 == 1
/-- A reserved field is zero (R157). -/
def MWord.zero (w : MWord) (lo n : Nat) : Bool := w.part lo n == 0

/-- BAD_OPCODE of R143 unless the reserved fields are zero. -/
def wordIf (ok : Bool) (i : Instr) : Except Nat Instr := if ok then .ok i else .error 4

/-! ### The groups with an FN or sub-operation field -/

/-- ALU, format R: AUX is reserved. -/
def aluWord (l : Fin 6144) (w : MWord) : Except Nat Instr :=
  let rd := w.r5 21; let ra := w.r5 16; let rb := w.r5 11
  let k := wordIf (w.zero 6 5)
  match (w.part 0 6).toNat with
  | 0x00 => k (.add l rd ra rb) | 0x01 => k (.sub l rd ra rb) | 0x02 => k (.andR l rd ra rb) | 0x03 => k (.orR l rd ra rb)
  | 0x04 => k (.xorR l rd ra rb) | 0x05 => k (.sll l rd ra rb) | 0x06 => k (.srl l rd ra rb) | 0x07 => k (.sra l rd ra rb)
  | 0x08 => k (.mul l rd ra rb) | 0x09 => k (.mulhu l rd ra rb) | 0x0A => k (.minR l rd ra rb) | 0x0B => k (.maxR l rd ra rb)
  | 0x0C => k (.minu l rd ra rb) | 0x0D => k (.maxu l rd ra rb) | 0x0E => k (.slt l rd ra rb) | 0x0F => k (.sltu l rd ra rb)
  | 0x10 => k (.crc l rd ra rb) | 0x11 => k (.crcb l rd ra rb)
  | _ => .error 4

/-- CTL, format I: the sub-operation lies in IMM[15:12]. -/
def ctlWord (l : Fin 6144) (w : MWord) : Except Nat Instr :=
  match (w.part 12 4).toNat with
  | 0 => wordIf (w.zero 16 10 && w.zero 4 8 && decide ((w.part 0 4).toNat < 14)) (.setfmt l (w.part 0 4))
  | 1 => wordIf (w.zero 16 10 && w.zero 2 10 && decide ((w.part 0 2).toNat < 2)) (.setrnd l (w.part 0 2))
  | 2 => wordIf (w.zero 16 5 && w.zero 0 12) (.rdctl l (w.r5 21))
  | 3 => wordIf (w.zero 21 5 && w.zero 0 12) (.wrctl l (w.r5 16))
  | _ => .error 4

/-- SAMO, format R. -/
def samoWord (l : Fin 6144) (w : MWord) : Except Nat Instr :=
  let rd := w.r5 21; let ra := w.r5 16; let rb := w.r5 11
  let k := wordIf (w.zero 6 5)
  match (w.part 0 6).toNat with
  | 0 => k (.samoAdd l rd ra rb) | 1 => k (.samoSwap l rd ra rb) | 2 => k (.samoCas l rd ra rb) | 3 => k (.samoMax l rd ra rb)
  | _ => .error 4

/-- PRED, format R: a predicate has the low 3 bits of its field, and the upper 2 are zero (R158). -/
def predWord (l : Fin 6144) (w : MWord) : Except Nat Instr :=
  let d := w.zero 24 2; let a := w.zero 19 2; let b := w.zero 14 2; let aux := w.zero 6 5; let nb := w.zero 11 5
  match (w.part 0 6).toNat with
  | 0 => wordIf (d && a && b && aux) (.pand l (w.r3 21) (w.r3 16) (w.r3 11))
  | 1 => wordIf (d && a && b && aux) (.por l (w.r3 21) (w.r3 16) (w.r3 11))
  | 2 => wordIf (d && a && b && aux) (.pxor l (w.r3 21) (w.r3 16) (w.r3 11))
  | 3 => wordIf (d && a && nb && aux) (.pnot l (w.r3 21) (w.r3 16))
  | 4 => wordIf (d && nb && aux) (.pfroms l (w.r3 21) (w.r5 16))
  | 5 => wordIf (a && nb && aux) (.sfromp l (w.r5 21) (w.r3 16))
  | 6 => wordIf (a && nb && aux) (.pcnt l (w.r5 21) (w.r3 16))
  | _ => .error 4

/-- VARITH, format V. A field that an instruction's row does not use (VC of VADD, VB and VC of VABS) is held to be reserved (DEDUCED, log entry
64). -/
def varithWord (l : Fin 6144) (w : MWord) : Except Nat Instr :=
  let vd := w.r4 22; let va := w.r4 18; let vb := w.r4 14; let vc := w.r4 10
  let pg := w.r3 7; let zm := w.bit 6; let wd := w.bit 5
  let two := wordIf (w.zero 10 4); let one := wordIf (w.zero 10 8)
  match (w.part 0 5).toNat with
  | 0 => two (.vadd l vd va vb pg zm wd) | 1 => two (.vsub l vd va vb pg zm wd) | 2 => two (.vmul l vd va vb pg zm wd)
  | 3 => .ok (.vfma l vd va vb vc pg zm wd) | 4 => .ok (.vfms l vd va vb vc pg zm wd)
  | 5 => two (.vmax l vd va vb pg zm wd) | 6 => two (.vmin l vd va vb pg zm wd)
  | 7 => one (.vabs l vd va pg zm wd) | 8 => one (.vneg l vd va pg zm wd)
  | 9 => one (.vrcp l vd va pg zm wd) | 10 => one (.vrsqrt l vd va pg zm wd)
  | 11 => two (.vand l vd va vb pg zm) | 12 => two (.vor l vd va vb pg zm) | 13 => two (.vxor l vd va vb pg zm)
  | 14 => two (.vsel l vd va vb pg wd)
  | _ => .error 4

/-- VCONV, format V: W is ignored. -/
def vconvWord (l : Fin 6144) (w : MWord) : Except Nat Instr :=
  let vd := w.r4 22; let va := w.r4 18; let pg := w.r3 7; let zm := w.bit 6
  match (w.part 0 5).toNat with
  | 0 => wordIf (w.zero 14 4 && w.zero 12 2) (.vcvtw l vd va (w.part 10 4) pg zm)
  | 1 => wordIf (w.zero 11 3) (.vnrw l vd va (w.r4 14) (w.part 10 4) pg zm)
  | 2 => wordIf (w.zero 10 8) (.vi2f l vd va pg zm)
  | 3 => wordIf (w.zero 10 8) (.vf2i l vd va pg zm)
  | _ => .error 4

/-- VCMP, format V: the predicate lies in VD[2:0], and VD[3] and VC are reserved. -/
def vcmpWord (l : Fin 6144) (w : MWord) : Except Nat Instr :=
  let pd := w.r3 22; let va := w.r4 18; let vb := w.r4 14; let pg := w.r3 7; let zm := w.bit 6; let wd := w.bit 5
  let k := wordIf (w.zero 25 1 && w.zero 10 4)
  match (w.part 0 5).toNat with
  | 0 => k (.vcmpEq l pd va vb pg zm wd) | 1 => k (.vcmpLt l pd va vb pg zm wd)
  | 2 => k (.vcmpLe l pd va vb pg zm wd) | 3 => k (.vcmpUnord l pd va vb pg zm wd)
  | _ => .error 4

/-- VMOV, format VX. -/
def vmovWord (l : Fin 6144) (w : MWord) : Except Nat Instr :=
  let vd := w.r4 22; let va := w.r4 18; let sa := w.r5 13; let imm := w.part 7 6; let wd := w.bit 5
  let k := fun ok => wordIf (ok && w.zero 6 1)
  match (w.part 0 5).toNat with
  | 0 => k (w.zero 7 11) (.vmov l vd va)
  | 1 => k (w.zero 18 4) (.vbcast l vd sa imm wd)
  | 2 => k (w.zero 22 4) (.vext l sa va imm wd)
  | 3 => k (w.zero 18 4) (.vins l vd sa imm wd)
  | _ => .error 4

/-- TILE, format T. -/
def tileWord (l : Fin 6144) (w : MWord) : Except Nat Instr :=
  let vd := w.r4 22; let th := w.r2 20; let sa := w.r5 15; let imm := w.part 9 6
  let k := w.zero 5 4
  match (w.part 0 5).toNat with
  | 0 => wordIf k (.tld l vd th sa imm) | 1 => wordIf k (.tst l vd th sa imm) | 2 => wordIf k (.vmxu l vd th sa imm)
  | 3 => wordIf (k && w.zero 9 6 && w.zero 22 1) (.vmxp l vd th sa)
  | _ => .error 4

/-- TOP, format TT. -/
def topWord (l : Fin 6144) (w : MWord) : Except Nat Instr :=
  let td := w.r2 19; let ts := w.r2 17
  let k := w.zero 5 7; let nr := w.zero 21 5; let nts := w.zero 17 2; let nsa := w.zero 12 5
  match (w.part 0 5).toNat with
  | 0 => wordIf (k && nr && nsa) (.tadd l td ts)
  | 1 => wordIf (k && nr && nts) (.tmuls l td (w.r5 12))
  | 2 => wordIf (k && nr && nts && nsa) (.tzero l td)
  | 3 => wordIf (k && nr && nsa) (.tcopy l td ts)
  | 4 => wordIf (k && nts && nsa) (.tcrc l (w.r5 21) td)
  | 5 => wordIf (k && nr && nts && nsa) (.talloc l td)
  | 6 => wordIf (k && nr && nts && nsa) (.tfree l td)
  | _ => .error 4

/-- EMIT, format E. -/
def emitWord (l : Fin 6144) (w : MWord) : Except Nat Instr :=
  match (w.part 0 5).toNat with
  | 0 => wordIf (w.zero 5 11) (.emit l (w.r5 21) (w.r5 16))
  | 1 => wordIf (w.zero 5 9 && w.zero 16 5) (.emitt l (w.r5 21) (w.r2 14))
  | _ => .error 4

/-- SYS, format R. -/
def sysWord (l : Fin 6144) (w : MWord) : Except Nat Instr :=
  match (w.part 0 6).toNat with
  | 0 => wordIf (w.zero 11 10 && decide ((w.part 6 5).toNat < 11)) (.rdsys l (w.r5 21) (w.part 6 5))
  | 1 => wordIf (w.zero 21 5 && w.zero 6 5) (.gpiow l (w.r5 16) (w.r5 11))
  | 2 => wordIf (w.zero 6 10) (.gpior l (w.r5 21) (w.r5 16))
  | 3 => wordIf (w.zero 6 10) (.cntrd l (w.r5 21) (w.r5 16))
  | _ => .error 4

/-! ### The words that follow -/

/-- How many data words follow a word: the table of a JT (R163). -/
def tableLen (w : MWord) : Nat := if w.part 26 6 = 0x1A then (w.part 0 16).toNat else 0

/-- Words up to the LEND that matches a LOOP, that one included (R161): `skip` data words still to pass, `depth` inner loops open, `n`
words passed. -/
def lendDist : List MWord → Nat → Nat → Nat → Option Nat
  | [], _, _, _ => none
  | _ :: rest, skip + 1, depth, n => lendDist rest skip depth (n + 1)
  | w :: rest, 0, depth, n =>
    if w.part 26 6 = 0x1B then lendDist rest 0 (depth + 1) (n + 1)
    else if w.part 26 6 = 0x1C then (match depth with | 0 => some (n + 1) | d + 1 => lendDist rest 0 d (n + 1))
    else lendDist rest (tableLen w) depth (n + 1)

/-- A branch with a forward offset; a backward one that is not a LEND fails as UNBOUNDED_LOOP (R160, R164). -/
def forwardIf (w : MWord) (i : BitVec 15 → Instr) : Except Nat Instr := if w.bit 15 then .error 6 else .ok (i (w.part 0 15))

/-- LOOP, format L; with RC = 0 RS is held to be reserved (DEDUCED, log entry 64): a COUNT outside 1 to 4,096 and a missing LEND fail as UNBOUNDED_LOOP (R161, R164). -/
def loopWord (l : Fin 6144) (w : MWord) (rest : List MWord) : Except Nat Instr :=
  if !w.zero 0 2 || (!w.bit 25 && !w.zero 20 5) then .error 4
  else if w.part 7 13 = 0 ∨ 4096 < (w.part 7 13).toNat then .error 6
  else
    match lendDist rest 0 0 0 with
    | some n => .ok (.loopR l (if w.bit 25 then some (w.r5 20) else none) (w.part 7 13) (w.r5 2) (BitVec.ofNat 16 n))
    | none => .error 6

/-- JT: a table of 1 to 64 words, which must lie in CODE (R163, R164). -/
def jtWord (l : Fin 6144) (w : MWord) (rest : List MWord) : Except Nat Instr :=
  let n := tableLen w
  if !w.zero 21 5 || n == 0 || decide (64 < n) then .error 4
  else if rest.length < n then .error 5
  else .ok (.jt l (w.r5 16) (rest.take n))

/-! ### Decoding -/

/-- The instruction that a word spells on device cell `l` before the words `rest`, or the loader's code (R143, R157 to R159). -/
def milysDecode (l : Fin 6144) (w : MWord) (rest : List MWord) : Except Nat Instr :=
  let rd := w.r5 21; let ra := w.r5 16; let imm := w.part 0 16
  let none_ := wordIf (w.zero 0 26)
  match (w.part 26 6).toNat with
  | 0x01 => aluWord l w
  | 0x02 => .ok (.addi l rd ra imm) | 0x03 => .ok (.andi l rd ra imm) | 0x04 => .ok (.ori l rd ra imm) | 0x05 => .ok (.xori l rd ra imm)
  | 0x06 => wordIf (w.zero 6 10) (.slli l rd ra (w.part 0 6))
  | 0x07 => wordIf (w.zero 6 10) (.srli l rd ra (w.part 0 6))
  | 0x08 => wordIf (w.zero 6 10) (.srai l rd ra (w.part 0 6))
  | 0x09 => if h : (w.part 16 2).toNat < 3 then wordIf (w.zero 18 3) (.lui l rd imm ⟨(w.part 16 2).toNat, h⟩) else .error 4
  | 0x0C => ctlWord l w
  | 0x10 => forwardIf w (.beq l rd ra) | 0x11 => forwardIf w (.bne l rd ra) | 0x12 => forwardIf w (.blt l rd ra)
  | 0x13 => forwardIf w (.bge l rd ra) | 0x14 => forwardIf w (.bltu l rd ra) | 0x15 => forwardIf w (.bgeu l rd ra)
  | 0x16 => if w.zero 16 10 then forwardIf w (.br l) else .error 4
  | 0x17 => if w.zero 24 2 && w.zero 17 4 then forwardIf w (.bp l (w.r3 21) (w.bit 16)) else .error 4
  | 0x18 => wordIf (w.zero 16 10) (.call l imm)
  | 0x19 => none_ (.ret l)
  | 0x1A => jtWord l w rest
  | 0x1B => loopWord l w rest
  | 0x1C => if !w.zero 16 10 then .error 4 else if w.bit 15 then .ok (.lend l) else .error 6
  | 0x1D => wordIf (w.zero 0 19) (.fin l (w.r5 21) (w.r2 19))
  | 0x1E => none_ (.endR l)
  | 0x1F => wordIf (w.zero 16 10) (.trap l imm)
  | 0x20 => .ok (.ld8u l rd ra imm) | 0x21 => .ok (.ld16u l rd ra imm) | 0x22 => .ok (.ld32u l rd ra imm) | 0x23 => .ok (.ld64 l rd ra imm)
  | 0x24 => .ok (.st8 l rd ra imm) | 0x25 => .ok (.st16 l rd ra imm) | 0x26 => .ok (.st32 l rd ra imm) | 0x27 => .ok (.st64 l rd ra imm)
  | 0x28 => wordIf (decide ((w.part 10 2).toNat < 3)) (.vld l (w.r4 22) (w.r5 17) (w.r5 12) (w.part 10 2) (w.part 0 10))
  | 0x29 => wordIf (decide ((w.part 10 2).toNat < 3)) (.vst l (w.r4 22) (w.r5 17) (w.r5 12) (w.part 10 2) (w.part 0 10))
  | 0x2A => .ok (.sld l rd ra imm) | 0x2B => .ok (.sst l rd ra imm)
  | 0x2C => samoWord l w
  | 0x2D => none_ (.fence l)
  | 0x2E => .ok (.hld l rd ra (w.part 10 6) (w.part 0 10)) | 0x2F => .ok (.hst l rd ra (w.part 10 6) (w.part 0 10))
  | 0x30 => wordIf (w.zero 0 24 && !w.zero 24 2) (.waitR l (w.part 24 2))
  | 0x31 => predWord l w | 0x32 => varithWord l w | 0x33 => vconvWord l w | 0x34 => vcmpWord l w | 0x35 => vmovWord l w
  | 0x36 => tileWord l w | 0x37 => topWord l w | 0x38 => emitWord l w | 0x39 => sysWord l w
  | _ => .error 4

/-! ### Encoding -/

/-- Register fields. -/
def b5 (r : Fin 32) : BitVec 5 := BitVec.ofFin r
/-- Vector fields. -/
def b4 (r : Fin 16) : BitVec 4 := BitVec.ofFin r
/-- Predicate fields. -/
def b3 (r : Fin 8) : BitVec 3 := BitVec.ofFin r
/-- A predicate in a 5-bit field (R158). -/
def b35 (r : Fin 8) : BitVec 5 := BitVec.ofNat 5 r.val
/-- A predicate in a 4-bit field. -/
def b34 (r : Fin 8) : BitVec 4 := BitVec.ofNat 4 r.val
/-- Handle fields. -/
def b2 (r : Fin 4) : BitVec 2 := BitVec.ofFin r
/-- One-bit fields. -/
def b1 (b : Bool) : BitVec 1 := BitVec.ofBool b

/-- Format R. -/
def encR (op : BitVec 6) (rd ra rb aux : BitVec 5) (fn : BitVec 6) : MWord :=
  BitVec.ofNat 32 (op.toNat * 2 ^ 26 + rd.toNat * 2 ^ 21 + ra.toNat * 2 ^ 16 + rb.toNat * 2 ^ 11 + aux.toNat * 2 ^ 6 + fn.toNat)
/-- Format I. -/
def encI (op : BitVec 6) (rd ra : BitVec 5) (imm : BitVec 16) : MWord :=
  BitVec.ofNat 32 (op.toNat * 2 ^ 26 + rd.toNat * 2 ^ 21 + ra.toNat * 2 ^ 16 + imm.toNat)
/-- Format I of a shift: IMM[15:6] reserved. -/
def encSh (op : BitVec 6) (rd ra : BitVec 5) (sh : BitVec 6) : MWord :=
  BitVec.ofNat 32 (op.toNat * 2 ^ 26 + rd.toNat * 2 ^ 21 + ra.toNat * 2 ^ 16 + sh.toNat)
/-- Format B with a forward offset. -/
def encB (op : BitVec 6) (ra rb : BitVec 5) (off : BitVec 15) : MWord :=
  BitVec.ofNat 32 (op.toNat * 2 ^ 26 + ra.toNat * 2 ^ 21 + rb.toNat * 2 ^ 16 + off.toNat)
/-- Format L. -/
def encL (rc : BitVec 1) (rs : BitVec 5) (count : BitVec 13) (ix : BitVec 5) : MWord :=
  BitVec.ofNat 32 (0x1b * 2 ^ 26 + rc.toNat * 2 ^ 25 + rs.toNat * 2 ^ 20 + count.toNat * 2 ^ 7 + ix.toNat * 2 ^ 2)
/-- Format VM. -/
def encVM (op : BitVec 6) (vd : BitVec 4) (ra ri : BitVec 5) (sc : BitVec 2) (disp : BitVec 10) : MWord :=
  BitVec.ofNat 32 (op.toNat * 2 ^ 26 + vd.toNat * 2 ^ 22 + ra.toNat * 2 ^ 17 + ri.toNat * 2 ^ 12 + sc.toNat * 2 ^ 10 + disp.toNat)
/-- Format H. -/
def encH (op : BitVec 6) (rl rh : BitVec 5) (nm1 : BitVec 6) (disp : BitVec 10) : MWord :=
  BitVec.ofNat 32 (op.toNat * 2 ^ 26 + rl.toNat * 2 ^ 21 + rh.toNat * 2 ^ 16 + nm1.toNat * 2 ^ 10 + disp.toNat)
/-- Format V. -/
def encV (op : BitVec 6) (vd va vb vc : BitVec 4) (pg : BitVec 3) (zm w : BitVec 1) (fn : BitVec 5) : MWord :=
  BitVec.ofNat 32 (op.toNat * 2 ^ 26 + vd.toNat * 2 ^ 22 + va.toNat * 2 ^ 18 + vb.toNat * 2 ^ 14 + vc.toNat * 2 ^ 10 + pg.toNat * 2 ^ 7 + zm.toNat * 2 ^ 6 + w.toNat * 2 ^ 5 + fn.toNat)
/-- Format VX. -/
def encVX (vd va : BitVec 4) (sa : BitVec 5) (imm : BitVec 6) (w : BitVec 1) (fn : BitVec 5) : MWord :=
  BitVec.ofNat 32 (0x35 * 2 ^ 26 + vd.toNat * 2 ^ 22 + va.toNat * 2 ^ 18 + sa.toNat * 2 ^ 13 + imm.toNat * 2 ^ 7 + w.toNat * 2 ^ 5 + fn.toNat)
/-- Format T. -/
def encT (vd : BitVec 4) (th : BitVec 2) (sa : BitVec 5) (imm : BitVec 6) (fn : BitVec 5) : MWord :=
  BitVec.ofNat 32 (0x36 * 2 ^ 26 + vd.toNat * 2 ^ 22 + th.toNat * 2 ^ 20 + sa.toNat * 2 ^ 15 + imm.toNat * 2 ^ 9 + fn.toNat)
/-- Format TT. -/
def encTT (rd : BitVec 5) (td ts : BitVec 2) (sa fn : BitVec 5) : MWord :=
  BitVec.ofNat 32 (0x37 * 2 ^ 26 + rd.toNat * 2 ^ 21 + td.toNat * 2 ^ 19 + ts.toNat * 2 ^ 17 + sa.toNat * 2 ^ 12 + fn.toNat)
/-- Format E. -/
def encE (rh rp : BitVec 5) (th : BitVec 2) (fn : BitVec 5) : MWord :=
  BitVec.ofNat 32 (0x38 * 2 ^ 26 + rh.toNat * 2 ^ 21 + rp.toNat * 2 ^ 16 + th.toNat * 2 ^ 14 + fn.toNat)
/-- The words of an instruction (R157 to R159, R172 to R175); `back` is the OFF of a LEND. No other command has words. -/
def milysEncode (back : BitVec 16) : Instr → Option (List MWord)
  | .add _ rd ra rb => some [encR 0x01 (b5 rd) (b5 ra) (b5 rb) 0 0x00]
  | .sub _ rd ra rb => some [encR 0x01 (b5 rd) (b5 ra) (b5 rb) 0 0x01]
  | .andR _ rd ra rb => some [encR 0x01 (b5 rd) (b5 ra) (b5 rb) 0 0x02]
  | .orR _ rd ra rb => some [encR 0x01 (b5 rd) (b5 ra) (b5 rb) 0 0x03]
  | .xorR _ rd ra rb => some [encR 0x01 (b5 rd) (b5 ra) (b5 rb) 0 0x04]
  | .sll _ rd ra rb => some [encR 0x01 (b5 rd) (b5 ra) (b5 rb) 0 0x05]
  | .srl _ rd ra rb => some [encR 0x01 (b5 rd) (b5 ra) (b5 rb) 0 0x06]
  | .sra _ rd ra rb => some [encR 0x01 (b5 rd) (b5 ra) (b5 rb) 0 0x07]
  | .mul _ rd ra rb => some [encR 0x01 (b5 rd) (b5 ra) (b5 rb) 0 0x08]
  | .mulhu _ rd ra rb => some [encR 0x01 (b5 rd) (b5 ra) (b5 rb) 0 0x09]
  | .minR _ rd ra rb => some [encR 0x01 (b5 rd) (b5 ra) (b5 rb) 0 0x0A]
  | .maxR _ rd ra rb => some [encR 0x01 (b5 rd) (b5 ra) (b5 rb) 0 0x0B]
  | .minu _ rd ra rb => some [encR 0x01 (b5 rd) (b5 ra) (b5 rb) 0 0x0C]
  | .maxu _ rd ra rb => some [encR 0x01 (b5 rd) (b5 ra) (b5 rb) 0 0x0D]
  | .slt _ rd ra rb => some [encR 0x01 (b5 rd) (b5 ra) (b5 rb) 0 0x0E]
  | .sltu _ rd ra rb => some [encR 0x01 (b5 rd) (b5 ra) (b5 rb) 0 0x0F]
  | .crc _ rd ra rb => some [encR 0x01 (b5 rd) (b5 ra) (b5 rb) 0 0x10]
  | .crcb _ rd ra rb => some [encR 0x01 (b5 rd) (b5 ra) (b5 rb) 0 0x11]
  | .addi _ rd ra imm => some [encI 0x02 (b5 rd) (b5 ra) imm]
  | .andi _ rd ra imm => some [encI 0x03 (b5 rd) (b5 ra) imm]
  | .ori _ rd ra imm => some [encI 0x04 (b5 rd) (b5 ra) imm]
  | .xori _ rd ra imm => some [encI 0x05 (b5 rd) (b5 ra) imm]
  | .slli _ rd ra sh => some [encSh 0x06 (b5 rd) (b5 ra) sh]
  | .srli _ rd ra sh => some [encSh 0x07 (b5 rd) (b5 ra) sh]
  | .srai _ rd ra sh => some [encSh 0x08 (b5 rd) (b5 ra) sh]
  | .lui _ rd imm sh => some [encI 0x09 (b5 rd) (BitVec.ofNat 5 sh.val) imm]
  | .setfmt _ f => some [encI 0x0C 0 0 (BitVec.ofNat 16 f.toNat)]
  | .setrnd _ v => some [encI 0x0C 0 0 (BitVec.ofNat 16 (0x1000 + v.toNat))]
  | .rdctl _ rd => some [encI 0x0C (b5 rd) 0 0x2000]
  | .wrctl _ ra => some [encI 0x0C 0 (b5 ra) 0x3000]
  | .beq _ ra rb off => some [encB 0x10 (b5 ra) (b5 rb) off]
  | .bne _ ra rb off => some [encB 0x11 (b5 ra) (b5 rb) off]
  | .blt _ ra rb off => some [encB 0x12 (b5 ra) (b5 rb) off]
  | .bge _ ra rb off => some [encB 0x13 (b5 ra) (b5 rb) off]
  | .bltu _ ra rb off => some [encB 0x14 (b5 ra) (b5 rb) off]
  | .bgeu _ ra rb off => some [encB 0x15 (b5 ra) (b5 rb) off]
  | .br _ off => some [encB 0x16 0 0 off]
  | .bp _ pa neg off => some [encB 0x17 (b35 pa) (BitVec.ofNat 5 (b2n neg)) off]
  | .call _ off => some [encI 0x18 0 0 off]
  | .ret _ => some [encI 0x19 0 0 0]
  | .jt _ ra table => some (encI 0x1A 0 (b5 ra) (BitVec.ofNat 16 table.length) :: table)
  | .loopR _ reg count ix _ => some [encL (b1 reg.isSome) (match reg with | some r => b5 r | none => 0) count (b5 ix)]
  | .lend _ => some [encI 0x1C 0 0 back]
  | .fin _ ra th => some [encI 0x1D (b5 ra) (BitVec.ofNat 5 (th.val * 8)) 0]
  | .endR _ => some [encI 0x1E 0 0 0]
  | .trap _ imm => some [encI 0x1F 0 0 imm]
  | .ld8u _ rd ra imm => some [encI 0x20 (b5 rd) (b5 ra) imm]
  | .ld16u _ rd ra imm => some [encI 0x21 (b5 rd) (b5 ra) imm]
  | .ld32u _ rd ra imm => some [encI 0x22 (b5 rd) (b5 ra) imm]
  | .ld64 _ rd ra imm => some [encI 0x23 (b5 rd) (b5 ra) imm]
  | .st8 _ rd ra imm => some [encI 0x24 (b5 rd) (b5 ra) imm]
  | .st16 _ rd ra imm => some [encI 0x25 (b5 rd) (b5 ra) imm]
  | .st32 _ rd ra imm => some [encI 0x26 (b5 rd) (b5 ra) imm]
  | .st64 _ rd ra imm => some [encI 0x27 (b5 rd) (b5 ra) imm]
  | .vld _ vd ra ri sc disp => some [encVM 0x28 (b4 vd) (b5 ra) (b5 ri) sc disp]
  | .vst _ vd ra ri sc disp => some [encVM 0x29 (b4 vd) (b5 ra) (b5 ri) sc disp]
  | .sld _ rd ra imm => some [encI 0x2A (b5 rd) (b5 ra) imm]
  | .sst _ rd ra imm => some [encI 0x2B (b5 rd) (b5 ra) imm]
  | .samoAdd _ rd ra rb => some [encR 0x2C (b5 rd) (b5 ra) (b5 rb) 0 0]
  | .samoSwap _ rd ra rb => some [encR 0x2C (b5 rd) (b5 ra) (b5 rb) 0 1]
  | .samoCas _ rd ra rb => some [encR 0x2C (b5 rd) (b5 ra) (b5 rb) 0 2]
  | .samoMax _ rd ra rb => some [encR 0x2C (b5 rd) (b5 ra) (b5 rb) 0 3]
  | .fence _ => some [encI 0x2D 0 0 0]
  | .hld _ rl rh nm1 disp => some [encH 0x2E (b5 rl) (b5 rh) nm1 disp]
  | .hst _ rl rh nm1 disp => some [encH 0x2F (b5 rl) (b5 rh) nm1 disp]
  | .waitR _ mask => some [encI 0x30 (BitVec.ofNat 5 (mask.toNat * 8)) 0 0]
  | .pand _ pd pa pb => some [encR 0x31 (b35 pd) (b35 pa) (b35 pb) 0 0]
  | .por _ pd pa pb => some [encR 0x31 (b35 pd) (b35 pa) (b35 pb) 0 1]
  | .pxor _ pd pa pb => some [encR 0x31 (b35 pd) (b35 pa) (b35 pb) 0 2]
  | .pnot _ pd pa => some [encR 0x31 (b35 pd) (b35 pa) 0 0 3]
  | .pfroms _ pd sa => some [encR 0x31 (b35 pd) (b5 sa) 0 0 4]
  | .sfromp _ sd pa => some [encR 0x31 (b5 sd) (b35 pa) 0 0 5]
  | .pcnt _ sd pa => some [encR 0x31 (b5 sd) (b35 pa) 0 0 6]
  | .vadd _ vd va vb pg zm w => some [encV 0x32 (b4 vd) (b4 va) (b4 vb) 0 (b3 pg) (b1 zm) (b1 w) 0]
  | .vsub _ vd va vb pg zm w => some [encV 0x32 (b4 vd) (b4 va) (b4 vb) 0 (b3 pg) (b1 zm) (b1 w) 1]
  | .vmul _ vd va vb pg zm w => some [encV 0x32 (b4 vd) (b4 va) (b4 vb) 0 (b3 pg) (b1 zm) (b1 w) 2]
  | .vfma _ vd va vb vc pg zm w => some [encV 0x32 (b4 vd) (b4 va) (b4 vb) (b4 vc) (b3 pg) (b1 zm) (b1 w) 3]
  | .vfms _ vd va vb vc pg zm w => some [encV 0x32 (b4 vd) (b4 va) (b4 vb) (b4 vc) (b3 pg) (b1 zm) (b1 w) 4]
  | .vmax _ vd va vb pg zm w => some [encV 0x32 (b4 vd) (b4 va) (b4 vb) 0 (b3 pg) (b1 zm) (b1 w) 5]
  | .vmin _ vd va vb pg zm w => some [encV 0x32 (b4 vd) (b4 va) (b4 vb) 0 (b3 pg) (b1 zm) (b1 w) 6]
  | .vabs _ vd va pg zm w => some [encV 0x32 (b4 vd) (b4 va) 0 0 (b3 pg) (b1 zm) (b1 w) 7]
  | .vneg _ vd va pg zm w => some [encV 0x32 (b4 vd) (b4 va) 0 0 (b3 pg) (b1 zm) (b1 w) 8]
  | .vrcp _ vd va pg zm w => some [encV 0x32 (b4 vd) (b4 va) 0 0 (b3 pg) (b1 zm) (b1 w) 9]
  | .vrsqrt _ vd va pg zm w => some [encV 0x32 (b4 vd) (b4 va) 0 0 (b3 pg) (b1 zm) (b1 w) 10]
  | .vand _ vd va vb pg zm => some [encV 0x32 (b4 vd) (b4 va) (b4 vb) 0 (b3 pg) (b1 zm) 0 11]
  | .vor _ vd va vb pg zm => some [encV 0x32 (b4 vd) (b4 va) (b4 vb) 0 (b3 pg) (b1 zm) 0 12]
  | .vxor _ vd va vb pg zm => some [encV 0x32 (b4 vd) (b4 va) (b4 vb) 0 (b3 pg) (b1 zm) 0 13]
  | .vsel _ vd va vb pg w => some [encV 0x32 (b4 vd) (b4 va) (b4 vb) 0 (b3 pg) 0 (b1 w) 14]
  | .vcvtw _ vd va part pg zm => some [encV 0x33 (b4 vd) (b4 va) 0 part (b3 pg) (b1 zm) 0 0]
  | .vnrw _ vd va vb half pg zm => some [encV 0x33 (b4 vd) (b4 va) (b4 vb) half (b3 pg) (b1 zm) 0 1]
  | .vi2f _ vd va pg zm => some [encV 0x33 (b4 vd) (b4 va) 0 0 (b3 pg) (b1 zm) 0 2]
  | .vf2i _ vd va pg zm => some [encV 0x33 (b4 vd) (b4 va) 0 0 (b3 pg) (b1 zm) 0 3]
  | .vcmpEq _ pd va vb pg zm w => some [encV 0x34 (b34 pd) (b4 va) (b4 vb) 0 (b3 pg) (b1 zm) (b1 w) 0]
  | .vcmpLt _ pd va vb pg zm w => some [encV 0x34 (b34 pd) (b4 va) (b4 vb) 0 (b3 pg) (b1 zm) (b1 w) 1]
  | .vcmpLe _ pd va vb pg zm w => some [encV 0x34 (b34 pd) (b4 va) (b4 vb) 0 (b3 pg) (b1 zm) (b1 w) 2]
  | .vcmpUnord _ pd va vb pg zm w => some [encV 0x34 (b34 pd) (b4 va) (b4 vb) 0 (b3 pg) (b1 zm) (b1 w) 3]
  | .vmov _ vd va => some [encVX (b4 vd) (b4 va) 0 0 0 0]
  | .vbcast _ vd sa imm w => some [encVX (b4 vd) 0 (b5 sa) imm (b1 w) 1]
  | .vext _ sa va imm w => some [encVX 0 (b4 va) (b5 sa) imm (b1 w) 2]
  | .vins _ vd sa imm w => some [encVX (b4 vd) 0 (b5 sa) imm (b1 w) 3]
  | .tld _ vd th sa imm => some [encT (b4 vd) (b2 th) (b5 sa) imm 0]
  | .tst _ vd th sa imm => some [encT (b4 vd) (b2 th) (b5 sa) imm 1]
  | .vmxu _ vd th sa imm => some [encT (b4 vd) (b2 th) (b5 sa) imm 2]
  | .vmxp _ vd th sa => some [encT (b4 vd) (b2 th) (b5 sa) 0 3]
  | .tadd _ td ts => some [encTT 0 (b2 td) (b2 ts) 0 0]
  | .tmuls _ td sa => some [encTT 0 (b2 td) 0 (b5 sa) 1]
  | .tzero _ td => some [encTT 0 (b2 td) 0 0 2]
  | .tcopy _ td ts => some [encTT 0 (b2 td) (b2 ts) 0 3]
  | .tcrc _ rd td => some [encTT (b5 rd) (b2 td) 0 0 4]
  | .talloc _ td => some [encTT 0 (b2 td) 0 0 5]
  | .tfree _ td => some [encTT 0 (b2 td) 0 0 6]
  | .emit _ rh rp => some [encE (b5 rh) (b5 rp) 0 0]
  | .emitt _ rh th => some [encE (b5 rh) 0 (b2 th) 1]
  | .rdsys _ rd aux => some [encR 0x39 (b5 rd) 0 0 aux 0]
  | .gpiow _ ra rb => some [encR 0x39 0 (b5 ra) (b5 rb) 0 1]
  | .gpior _ rd ra => some [encR 0x39 (b5 rd) (b5 ra) 0 0 2]
  | .cntrd _ rd ra => some [encR 0x39 (b5 rd) (b5 ra) 0 0 3]
  | _ => none

end Sys2Proof.Machine
end

