-- ==== Sys2Proof/Machine/Loader.lean ====
section
/-!
DEFINITION. Machine/Loader.lean: the loader's checks of CODE (R143, R160 to R164, R176): every word an instruction of the image's
profile, targets inside CODE, loops counted and matched, no recursion, and in a tenant image no handle but t0.
-/
namespace Sys2Proof.Machine
open Sys2Proof

/-- A word of CODE that is not part of a table: its offset, and its instruction or the loader's code. -/
abbrev CodeWord := Nat × Except Nat Instr

/-- The instructions of CODE from offset `pc` on; `skip` words of a table are passed over (R163). -/
def sweep : List MWord → Nat → Nat → List CodeWord
  | [], _, _ => []
  | _ :: rest, pc, skip + 1 => sweep rest (pc + 1) skip
  | w :: rest, pc, 0 => (pc, milysDecode 0 w rest) :: sweep rest (pc + 1) (tableLen w)

/-- The instruction at offset `pc`. -/
def instrAt (c : List CodeWord) (pc : Nat) : Option Instr :=
  match findKey c pc with
  | some (.ok i) => some i
  | _ => none

/-! ### Profiles (R161, R176) -/

/-- The instructions that the tenant profile lacks (R176). -/
def stockInstr : Instr → Bool
  | .jt .. | .fin .. | .sld .. | .sst .. | .samoAdd .. | .samoSwap .. | .samoCas .. | .samoMax .. | .fence .. | .talloc .. | .tfree ..
  | .emit .. | .emitt .. | .rdsys .. | .gpiow .. | .gpior .. | .cntrd .. => true
  | _ => false

/-- A tenant LOOP whose count is a register (R143, R172). -/
def registerLoop : Instr → Bool
  | .loopR _ reg _ _ _ => reg.isSome
  | _ => false

/-- The tile handles that an instruction names (R156). -/
def handlesOf : Instr → List Nat
  | .tld _ _ th _ _ | .tst _ _ th _ _ | .vmxu _ _ th _ _ | .vmxp _ _ th _ | .fin _ _ th | .emitt _ _ th => [th.val]
  | .tadd _ td ts | .tcopy _ td ts => [td.val, ts.val]
  | .tmuls _ td _ | .tzero _ td | .tcrc _ _ td | .talloc _ td | .tfree _ td => [td.val]
  | _ => []

/-! ### Targets (R160, R163) -/

/-- The targets of the branch, call or table at `pc`, as integers. -/
def targetsOf (pc : Nat) : Instr → List Int
  | .beq _ _ _ off | .bne _ _ _ off | .blt _ _ _ off | .bge _ _ _ off | .bltu _ _ _ off | .bgeu _ _ _ off | .br _ off | .bp _ _ _ off =>
    [(pc + 1 + off.toNat : Nat)]
  | .call _ off => [(pc : Int) + 1 + off.toInt]
  | .jt _ _ table => ((pc + 1 + table.length : Nat) : Int) :: table.map (fun o => ((pc + 1 + table.length + o.toNat : Nat) : Int))
  | _ => []

/-- The target of a branch or a LEND that leads backward, or of a LEND (R160), which lies in the words of CODE and not in the decoded
instruction. -/
def backTarget (words : List MWord) (pc : Nat) : Option Int :=
  let w := words.getD pc 0
  let op := (w.part 26 6).toNat
  if op = 0x1C ∨ 0x10 ≤ op ∧ op ≤ 0x17 ∧ w.bit 15 = true then some ((pc : Int) + 1 + (w.part 0 16).toInt) else none

/-- That target lies outside CODE: check 5 comes before the check of a backward branch (R143, R164). -/
def backOutside (words : List MWord) (pc : Nat) : Bool :=
  (backTarget words pc).any (fun t => decide (t < 0) || decide ((words.length : Int) ≤ t))

/-- A call is no branch (R160). -/
def isCall : Instr → Bool
  | .call .. => true
  | _ => false

/-- Every target lies inside a CODE of `n` words. -/
def targetsIn (n pc : Nat) (i : Instr) : Bool := (targetsOf pc i).all (fun t => decide (0 ≤ t) && decide (t < n))

/-! ### Loops (R161, R164) -/

/-- For each instruction, the starts of the loop bodies that hold it, innermost first, along a pass over CODE; a LEND whose OFF does not
lead to the first word of the innermost body is marked. `words` gives the OFF of a LEND. -/
def loopPass (words : List MWord) : List CodeWord → List Nat → List (Nat × (List Nat × Bool))
  | [], _ => []
  | (pc, e) :: rest, st =>
    match e with
    | .ok (.loopR ..) => (pc, (st, true)) :: loopPass words rest ((pc + 1) :: st)
    | .ok (.lend _) =>
      let off := ((words.getD pc 0).part 0 16).toInt
      (pc, (st, match st with | a :: _ => decide ((pc : Int) + 1 + off = a) | [] => false)) :: loopPass words rest st.tail
    | _ => (pc, (st, true)) :: loopPass words rest st

/-- The loop bodies around an offset. -/
def around (r : List (Nat × (List Nat × Bool))) (pc : Nat) : List Nat := match findKey r pc with | some x => x.1 | none => []

/-- A branch stays in the loop bodies that hold it. -/
def staysIn (r : List (Nat × (List Nat × Bool))) (pc : Nat) (i : Instr) : Bool :=
  isCall i || (targetsOf pc i).all (fun t => around r t.toNat == around r pc)

/-! ### Paths and calls (R162, R164) -/

/-- Where the instruction at `pc` can go on within its function: past a call, not into it. -/
def nextOf (r : List (Nat × (List Nat × Bool))) (pc : Nat) (i : Instr) : List Nat :=
  match i with
  | .endR _ | .ret _ | .trap .. => []
  | .br .. | .jt .. => (targetsOf pc i).map Int.toNat
  | .call .. => [pc + 1]
  | .loopR _ reg _ _ body => if reg.isSome then [pc + 1, pc + 1 + body.toNat] else [pc + 1]
  | .lend _ => (around r pc).take 1 ++ [pc + 1]
  | _ => (pc + 1) :: (targetsOf pc i).map Int.toNat

/-- The offsets reached from `todo` within a function; `fuel` bounds the passes. -/
def reach (c : List CodeWord) (r : List (Nat × (List Nat × Bool))) : Nat → List Nat → List Nat → List Nat
  | 0, _, seen => seen
  | fuel + 1, todo, seen =>
    let new := (todo.filter (fun p => !seen.contains p && (instrAt c p).isSome)).dedup
    if new.isEmpty then seen
    else reach c r fuel (new.flatMap (fun p => match instrAt c p with | some i => nextOf r p i | none => [])) (seen ++ new)

/-- The calls made in the function at `root`: where, and to which. -/
def callsFrom (c : List CodeWord) (r : List (Nat × (List Nat × Bool))) (root : Nat) : List (Nat × Nat) :=
  (reach c r c.length [root] []).filterMap (fun p => match instrAt c p with
    | some (.call l off) => ((targetsOf p (.call l off)).head?).map (fun t => (p, t.toNat))
    | _ => none)

/-- The offsets of the calls below the function at `root` that go deeper than `d`, or back into a function of `path` (R164). -/
def callFaults (c : List CodeWord) (r : List (Nat × (List Nat × Bool))) : Nat → List Nat → Nat → List Nat
  | 0, _, root => (callsFrom c r root).map (fun p => p.1)
  | d + 1, path, root =>
    (callsFrom c r root).flatMap (fun p => if (root :: path).contains p.2 then [p.1] else callFaults c r d (root :: path) p.2)

/-- The offsets of the LOOPs below the function at `root` that open more than `most` levels, `open_` of them open at its call, counted across
calls to depth `d` (R164). -/
def nestFaults (c : List CodeWord) (r : List (Nat × (List Nat × Bool))) (most : Nat) : Nat → Nat → Nat → List Nat
  | d, open_, root =>
    (reach c r c.length [root] []).filter (fun p => (match instrAt c p with | some (.loopR ..) => true | _ => false) &&
      decide (most < open_ + (around r p).length + 1)) ++
    (match d with
      | 0 => []
      | d + 1 => (callsFrom c r root).flatMap (fun p => nestFaults c r most d (open_ + (around r p.1).length) p.2))

/-! ### The checks -/

/-- What the check of CODE finds at each instruction: the loader's codes 4 to 7, and 10 for a tile handle other than t0. -/
def codeFaults (tenant : Bool) (words : List MWord) (starts : List Nat) : List (Nat × Nat) :=
  let c := sweep words 0 0
  let r := loopPass words c []
  let n := words.length
  let each := c.flatMap (fun p =>
    match p.2 with
    | .error k => (k, p.1) :: ((if tenant && ((words.getD p.1 0).part 26 6).toNat == 0x1A then [(4, p.1)] else []) ++
        (if backOutside words p.1 then [(5, p.1)] else []))
    | .ok i =>
      (if tenant && stockInstr i then [(4, p.1)] else []) ++
      (if targetsIn n p.1 i && staysIn r p.1 i && !backOutside words p.1 then [] else [(5, p.1)]) ++
      (match i with | .ret _ => if (around r p.1).isEmpty then [] else [(5, p.1)] | _ => []) ++
      (if tenant && registerLoop i then [(6, p.1)] else []) ++
      (if (findKey r p.1).any (fun x => !x.2) then [(6, p.1)] else []) ++
      (if tenant && (handlesOf i).any (fun h => h != 0) then [(10, p.1)] else []))
  let rets := (reach c r c.length starts []).filter (fun p => match instrAt c p with | some (.ret _) => true | _ => false)
  each ++ rets.map (fun p => (5, p)) ++
    (starts.flatMap (nestFaults c r (if tenant then 4 else 8) 8 0)).map (fun p => (6, p)) ++
    (starts.flatMap (callFaults c r 8 [])).map (fun p => (7, p)) ++ (starts.filter (fun a => decide (n ≤ a))).map (fun a => (5, a))

end Sys2Proof.Machine
end

