-- ==== Sys2Proof/Machine/Bound.lean ====
section
/-!
DEFINITION. Machine/Bound.lean: the bound of an entry as the loader computes it from the words of CODE (R137, R138, R161 to R165, R169),
and the constant addresses that it finds on the way (R143, R176).
-/
namespace Sys2Proof.Machine
open Sys2Proof

/-! ### What an instruction costs and touches -/

/-- The issue cost of an instruction (R137, R172). What a branch, JT or CALL costs depends on the way it goes, and RET and LEND are
charged by rules 3 and 4 of R138; they are 0 here. -/
def issueCost : Instr → Nat
  | .beq .. | .bne .. | .blt .. | .bge .. | .bltu .. | .bgeu .. | .br .. | .bp .. | .jt .. | .call .. | .ret .. | .lend .. | .waitR .. => 0
  | .loopR .. | .endR .. | .ld8u .. | .ld16u .. | .ld32u .. | .ld64 .. | .st8 .. | .st16 .. | .st32 .. | .st64 .. | .vld .. | .vst .. | .vmxp .. => 2
  | .sld .. | .sst .. | .samoAdd .. | .samoSwap .. | .samoCas .. | .samoMax .. | .fence .. | .hld .. | .hst .. => 4
  | .emit .. | .emitt .. => 8
  | .rdsys .. | .gpiow .. | .gpior .. | .cntrd .. => 16
  | .tadd .. | .tmuls .. => 32
  | .tzero .. | .tcopy .. | .tcrc .. => 33
  | .fin .. => 1536
  | _ => 1

/-- The scalar registers that an instruction reads or writes (R169). -/
def scalarsOf : Instr → List Nat
  | .add _ d a b | .sub _ d a b | .andR _ d a b | .orR _ d a b | .xorR _ d a b | .sll _ d a b | .srl _ d a b | .sra _ d a b | .mul _ d a b
  | .mulhu _ d a b | .minR _ d a b | .maxR _ d a b | .minu _ d a b | .maxu _ d a b | .slt _ d a b | .sltu _ d a b | .crc _ d a b | .crcb _ d a b
  | .samoAdd _ d a b | .samoSwap _ d a b | .samoCas _ d a b | .samoMax _ d a b => [d.val, a.val, b.val]
  | .addi _ d a _ | .andi _ d a _ | .ori _ d a _ | .xori _ d a _ | .slli _ d a _ | .srli _ d a _ | .srai _ d a _ | .ld8u _ d a _ | .ld16u _ d a _
  | .ld32u _ d a _ | .ld64 _ d a _ | .st8 _ d a _ | .st16 _ d a _ | .st32 _ d a _ | .st64 _ d a _ | .sld _ d a _ | .sst _ d a _
  | .gpior _ d a | .cntrd _ d a | .gpiow _ d a => [d.val, a.val]
  | .beq _ a b _ | .bne _ a b _ | .blt _ a b _ | .bge _ a b _ | .bltu _ a b _ | .bgeu _ a b _ | .emit _ a b => [a.val, b.val]
  | .hld _ a b _ _ | .hst _ a b _ _ => [a.val, b.val]
  | .vld _ _ a b _ _ | .vst _ _ a b _ _ => [a.val, b.val]
  | .lui _ d _ _ | .rdctl _ d | .rdsys _ d _ | .sfromp _ d _ | .pcnt _ d _ | .tcrc _ d _ => [d.val]
  | .wrctl _ a | .jt _ a _ | .pfroms _ _ a | .vbcast _ _ a _ _ | .vext _ a _ _ _ | .vins _ _ a _ _ | .tld _ _ _ a _ | .tst _ _ _ a _
  | .vmxu _ _ _ a _ | .vmxp _ _ _ a | .tmuls _ _ a | .emitt _ a _ => [a.val]
  | .loopR _ reg _ ix _ => ix.val :: (match reg with | some r => [r.val] | none => [])
  | _ => []

/-- The scalar register that an instruction writes at once. -/
def scalarOut : Instr → Option Nat
  | .add _ d _ _ | .sub _ d _ _ | .andR _ d _ _ | .orR _ d _ _ | .xorR _ d _ _ | .sll _ d _ _ | .srl _ d _ _ | .sra _ d _ _ | .mul _ d _ _
  | .mulhu _ d _ _ | .minR _ d _ _ | .maxR _ d _ _ | .minu _ d _ _ | .maxu _ d _ _ | .slt _ d _ _ | .sltu _ d _ _ | .crc _ d _ _ | .crcb _ d _ _
  | .samoAdd _ d _ _ | .samoSwap _ d _ _ | .samoCas _ d _ _ | .samoMax _ d _ _ | .addi _ d _ _ | .andi _ d _ _ | .ori _ d _ _ | .xori _ d _ _
  | .slli _ d _ _ | .srli _ d _ _ | .srai _ d _ _ | .ld8u _ d _ _ | .ld16u _ d _ _ | .ld32u _ d _ _ | .ld64 _ d _ _ | .sld _ d _ _
  | .gpior _ d _ | .cntrd _ d _ | .lui _ d _ _ | .rdctl _ d | .rdsys _ d _ | .sfromp _ d _ | .pcnt _ d _ | .tcrc _ d _ | .vext _ d _ _ _ => some d.val
  | .fin .. => some 1
  | .loopR _ _ _ ix _ => some ix.val
  | _ => none

/-! ### Constants -/

/-- The scalar registers as far as the loader knows them (log entry 61): those that a path has set from constants. -/
abbrev Known := List (Option (BitVec 64))

/-- Register `i`; s0 is zero. -/
def Known.get (k : Known) (i : Nat) : Option (BitVec 64) := if i = 0 then some 0 else k.getD i none

/-- A function of two registers. -/
def Known.two (k : Known) (a b : Nat) (f : BitVec 64 → BitVec 64 → BitVec 64) : Option (BitVec 64) := (k.get a).bind (fun x => (k.get b).map (f x))

/-- The value that an instruction writes to its scalar register, where it follows from known registers (R172). -/
def constOut (k : Known) : Instr → Option (BitVec 64)
  | .add _ _ a b => k.two a b (fun x y => x + y)
  | .sub _ _ a b => k.two a b (fun x y => x - y)
  | .andR _ _ a b => k.two a b (fun x y => x &&& y)
  | .orR _ _ a b => k.two a b (fun x y => x ||| y)
  | .xorR _ _ a b => k.two a b (fun x y => x ^^^ y)
  | .sll _ _ a b => k.two a b (fun x y => x <<< (y.toNat % 64))
  | .srl _ _ a b => k.two a b (fun x y => x >>> (y.toNat % 64))
  | .mul _ _ a b => k.two a b (fun x y => x * y)
  | .addi _ _ a imm => (k.get a).map (fun x => x + imm.signExtend 64)
  | .andi _ _ a imm => (k.get a).map (fun x => x &&& imm.zeroExtend 64)
  | .ori _ _ a imm => (k.get a).map (fun x => x ||| imm.zeroExtend 64)
  | .xori _ _ a imm => (k.get a).map (fun x => x ^^^ imm.zeroExtend 64)
  | .slli _ _ a sh => (k.get a).map (fun (x : BitVec 64) => (x <<< sh.toNat : BitVec 64))
  | .srli _ _ a sh => (k.get a).map (fun (x : BitVec 64) => (x >>> sh.toNat : BitVec 64))
  | .lui _ _ imm sh => some (imm.signExtend 64 <<< (16 * (sh.val + 1)))
  | _ => none

/-- ra + IMM where ra is known. -/
def knownImm (k : Known) (a : Nat) (imm : BitVec 16) : Option Nat := (k.get a).map (fun x => (x + imm.signExtend 64).toNat)
/-- A register displaced by 64 × DISP where it is known. -/
def knownBlk (k : Known) (a : Nat) (disp : BitVec 10) : Option Nat := (k.get a).map (fun x => (x + BitVec.ofNat 64 (64 * disp.toNat)).toNat)

/-- The window of a tile handle (R131). -/
def handleBytes (h : Nat) : Option Nat × Nat := (some (0x100000 + 0x1000 * h), 2112)

/-- The local bytes that an instruction reads or writes at once: an address, where known, and a length (R168, R169, R174, R175). -/
def localBytes (k : Known) : Instr → List (Option Nat × Nat)
  | .ld8u _ _ a imm | .st8 _ _ a imm => [(knownImm k a imm, 1)]
  | .ld16u _ _ a imm | .st16 _ _ a imm => [(knownImm k a imm, 2)]
  | .ld32u _ _ a imm | .st32 _ _ a imm => [(knownImm k a imm, 4)]
  | .ld64 _ _ a imm | .st64 _ _ a imm => [(knownImm k a imm, 8)]
  | .vld _ _ a b sc disp | .vst _ _ a b sc disp =>
    [((k.two a b (fun x y => x + (y <<< (6 + sc.toNat)) + BitVec.ofNat 64 (64 * disp.toNat))).map BitVec.toNat, 64)]
  | .hst _ a _ nm1 disp => [(knownBlk k a disp, 64 * (nm1.toNat + 1))]
  | .tld _ _ th _ _ | .tst _ _ th _ _ | .vmxu _ _ th _ _ | .vmxp _ _ th _ => [handleBytes th]
  | .tmuls _ td _ | .tzero _ td | .tcrc _ _ td => [handleBytes td]
  | .tadd _ td ts | .tcopy _ td ts => [handleBytes td, handleBytes ts]
  | .emit _ rh rp => ((k.get rh).map BitVec.toNat, 64) :: (if rp.val = 0 then [] else [((k.get rp).map BitVec.toNat, 256)])
  | .emitt _ rh th => [((k.get rh).map BitVec.toNat, 64), handleBytes th]
  | _ => []

/-! ### Constant addresses of a tenant image (R131, R143, R168) -/

/-- The local bytes `[a, a + n)` lie in a tenant window of R131. -/
def tenantLocal (a n : Nat) : Bool :=
  (decide (0x1C000 ≤ a) && decide (a + n ≤ 0x20000)) || (decide (0x100000 ≤ a) && decide (a + n ≤ 0x100000 + 2112))

/-- The constant addresses of an instruction, each with whether it lies in the tenant windows. -/
def constWindows (k : Known) : Instr → List Bool
  | .hld _ a b nm1 disp | .hst _ a b nm1 disp =>
    ((knownBlk k a disp).toList.map (fun x => tenantLocal x (64 * (nm1.toNat + 1)))) ++ ((knownBlk k b disp).toList.map (fun x => decide (0x200000000000 ≤ x)))
  | .tld .. | .tst .. | .vmxu .. | .vmxp .. | .tmuls .. | .tzero .. | .tcrc .. | .tadd .. | .tcopy .. => []
  | i => (localBytes k i).flatMap (fun x => x.1.toList.map (fun a => tenantLocal a x.2))

/-! ### A path (R138, R169) -/

/-- An access issued on a path and not yet waited for: its kind, the register it writes (32 for none), the local bytes it writes (none where
their address is not known), and its wait charge (R137). -/
structure Pending where
  hbm : Bool
  reg : Nat
  loc : Option Nat
  len : Nat
  charge : Nat
deriving DecidableEq, Repr

/-- A point of a path: the cost so far, the known registers, the accesses outstanding, oldest first, and the lowest offset of an
instruction with a constant address outside the tenant windows. -/
structure PathAt where
  cost : Nat
  regs : Known
  outs : List Pending
  bad : Option Nat
deriving DecidableEq, Repr

/-- The start of an entry. -/
def PathAt.start : PathAt := { cost := 0, regs := List.replicate 32 none, outs := [], bad := none }

/-- `n` cycles charged. -/
def PathAt.pay (t : PathAt) (n : Nat) : PathAt := { t with cost := t.cost + n }

/-- Implicit waits (R169): each access that `f` selects is charged as a WAIT that covers it alone. -/
def PathAt.waitEach (t : PathAt) (f : Pending → Bool) : PathAt :=
  { t with cost := t.cost + ((t.outs.filter f).map (fun o => o.charge)).sum, outs := t.outs.filter (fun o => !f o) }

/-- One wait that covers every access that `f` selects (rule 5 of R138); `least` is charged where it covers none. -/
def PathAt.waitAll (t : PathAt) (least : Nat) (f : Pending → Bool) : PathAt :=
  { t with cost := t.cost + (if (t.outs.filter f).isEmpty then least else ((t.outs.filter f).map (fun o => o.charge)).foldl max 0),
           outs := t.outs.filter (fun o => !f o) }

/-- An access issued; a ninth of its kind first waits for the oldest (R169). -/
def PathAt.issue (t : PathAt) (o : Pending) : PathAt :=
  match t.outs.filter (fun x => x.hbm == o.hbm) with
  | x :: rest => if 7 ≤ rest.length then { t with cost := t.cost + x.charge, outs := t.outs.erase x ++ [o] } else { t with outs := t.outs ++ [o] }
  | [] => { t with outs := t.outs ++ [o] }

/-- An outstanding HBM read may have local bytes `[a, a + n)` still to write; an address that is not known may be any. -/
def Pending.mayWrite (o : Pending) (a : Option Nat) (n : Nat) : Bool :=
  o.hbm && (match o.loc, a with | some b, some a => decide (a < b + o.len) && decide (b < a + n) | _, _ => true)

/-- The access that an instruction leaves outstanding (R169, R171). -/
def issues (k : Known) : Instr → Option Pending
  | .hld _ a _ nm1 disp => some { hbm := true, reg := 32, loc := knownBlk k a disp, len := 64 * (nm1.toNat + 1), charge := 320 + (nm1.toNat + 1) }
  | .sld _ d _ _ | .samoAdd _ d _ _ | .samoSwap _ d _ _ | .samoCas _ d _ _ | .samoMax _ d _ _ =>
    some { hbm := false, reg := if d.val = 0 then 32 else d.val, loc := none, len := 0, charge := 24 }
  | .fence _ => some { hbm := false, reg := 32, loc := none, len := 0, charge := 24 }
  | _ => none

/-- The waits of an instruction: those of WAIT by its MASK, all at END and FIN, else the implicit ones. -/
def PathAt.waits (t : PathAt) (i : Instr) : PathAt :=
  match i with
  | .waitR _ mask => t.waitAll 1 (fun o => if o.hbm then mask.getLsbD 1 else mask.getLsbD 0)
  | .endR _ | .fin .. => t.waitAll 0 (fun _ => true)
  | _ => (t.waitEach (fun o => (scalarsOf i).contains o.reg)).waitEach (fun o => (localBytes t.regs i).any (fun x => o.mayWrite x.1 x.2))

/-- One instruction at offset `pc` on a path: its waits and issue cost, the access it leaves outstanding, what it writes. -/
def PathAt.step (tenant : Bool) (pc : Nat) (i : Instr) (t : PathAt) : PathAt :=
  let bad := if tenant && (constWindows t.regs i).any (fun ok => !ok) then some (match t.bad with | some b => min b pc | none => pc) else t.bad
  let u := (t.waits i).pay (issueCost i)
  let u := match issues t.regs i with | some o => u.issue o | none => u
  { u with bad := bad, regs := match scalarOut i with | some d => u.regs.set d (constOut t.regs i) | none => u.regs }

/-- How a path leaves a stretch of CODE: at the end of the handler, at the RET of a function, at the LEND of a loop body. -/
inductive PathEnd where
  | over | ret | lend
deriving DecidableEq, Repr

/-- The points that a list of path ends leaves by way `w`. -/
def leaving (w : PathEnd) (l : List (PathEnd × PathAt)) : List PathAt := (l.filter (fun e => e.1 == w)).map (fun e => e.2)

/-- The largest cost of a list of points. -/
def mostOf (l : List PathAt) : Nat := (l.map (fun t => t.cost)).foldl max 0

/-- The passes of a loop body, each from what the pass before leaves; a register that the body changes is known no more (log entry 61). -/
def bodyPasses (run : PathAt → List (PathEnd × PathAt)) (regs : Known) : Nat → List PathAt → List (List (PathEnd × PathAt))
  | 0, _ => []
  | k + 1, entries =>
    let ends := (entries.flatMap run).dedup
    let next := (leaving .lend ends).map (fun t => { t with cost := 0, regs := List.zipWith (fun a b => if a = b then a else none) regs t.regs })
    ends :: bodyPasses run regs k next.dedup

/-- A counted loop of count `c` from point `t` (rule 3 of R138): 2 + C × (b + 1), with b the largest cost of its body, taken over the first
ten passes, by which what is outstanding repeats; `any` says that the count is a register, which may stop after any pass or skip the body. The LEND
writes register `ix` of IX, and waits for an access that has still to write it (R161, R169). -/
def loopEnds (body : PathAt → List (PathEnd × PathAt)) (c ix : Nat) (any : Bool) (t : PathAt) : List (PathEnd × PathAt) × List PathAt :=
  let run := fun t => (body t).map (fun e => if e.1 = .lend then (e.1, e.2.waitEach (fun o => o.reg == ix)) else e)
  let passes := bodyPasses run t.regs (min c 10) [{ t with cost := 0 }]
  let b := mostOf (passes.flatMap (leaving .lend))
  let before := if (leaving .lend (passes.headD [])).isEmpty then 0 else (c - 1) * (b + 1)
  let outs := if any then passes.flatMap (leaving .lend) else leaving .lend (passes.getLastD [])
  ((passes.flatMap (leaving .over)).map (fun e => (.over, { e with cost := t.cost + before + e.cost })),
   (outs.map (fun e => { e with cost := t.cost + c * (b + 1) })) ++ (if any then [t] else []))

/-- Every path from offset `pc` and point `t` to where it leaves its stretch of CODE; `fuel` bounds its instructions. -/
def paths (c : List CodeWord) (tenant : Bool) : Nat → Nat → PathAt → List (PathEnd × PathAt)
  | 0, _, _ => []
  | fuel + 1, pc, t =>
    match instrAt c pc with
    | none => []
    | some i =>
      let u := t.step tenant pc i
      match i with
      | .endR _ | .trap .. => [(.over, u)]
      | .ret _ => [(.ret, u)]
      | .lend _ => [(.lend, u)]
      | .br .. => (targetsOf pc i).flatMap (fun a => paths c tenant fuel a.toNat (u.pay 2))
      | .jt .. => (targetsOf pc i).zipIdx.flatMap (fun a => paths c tenant fuel a.1.toNat (u.pay (if a.2 = 0 then 1 else 2)))
      | .call .. =>
        let e := (targetsOf pc i).flatMap (fun a => paths c tenant fuel a.toNat (u.pay 4))
        (leaving .over e).map (fun x => (.over, x)) ++ (leaving .ret e).dedup.flatMap (paths c tenant fuel (pc + 1))
      | .loopR _ reg count ix body =>
        let e := loopEnds (paths c tenant fuel (pc + 1)) count.toNat ix.val reg.isSome u
        e.1 ++ e.2.dedup.flatMap (paths c tenant fuel (pc + 1 + body.toNat))
      | .beq .. | .bne .. | .blt .. | .bge .. | .bltu .. | .bgeu .. | .bp .. =>
        paths c tenant fuel (pc + 1) (u.pay 1) ++ (targetsOf pc i).flatMap (fun a => paths c tenant fuel a.toNat (u.pay 2))
      | _ => paths c tenant fuel (pc + 1) u

/-- Every path of the entry that starts at `start`, to the end of its handler. -/
def entryPaths (tenant : Bool) (words : List MWord) (start : Nat) : List PathAt :=
  leaving .over (paths (sweep words 0 0) tenant (10 * words.length) start PathAt.start)

/-- The bound of the entry that starts at `start` (R138): the largest sum of costs over its paths. -/
def entryBound (tenant : Bool) (words : List MWord) (start : Nat) : Nat := mostOf (entryPaths tenant words start)

/-- The limit of R139 on the bound of an entry of kind `kind`. -/
def boundLimit (kind : Nat) : Nat := if kind = 9 then 1536 else 2048

/-- The entry kinds at which checks 8 and 9 fail: BOUND is not the loader's own bound, or a bound lies above its limit (R139, R143). -/
def boundFaults (tenant : Bool) (words : List MWord) (entries : List (Nat × Nat × Nat × Nat)) : List (Nat × Nat) :=
  entries.flatMap (fun e => if e.2.2.1 = entryBound tenant words e.2.1 then [] else [(8, e.1)]) ++
  entries.flatMap (fun e => if boundLimit e.1 < entryBound tenant words e.2.1 then [(9, e.1)] else [])

/-- The offsets at which a tenant image has a constant address outside its windows: check 10 (R143). -/
def windowFaults (tenant : Bool) (words : List MWord) (entries : List (Nat × Nat × Nat × Nat)) : List (Nat × Nat) :=
  if tenant then entries.flatMap (fun e => (entryPaths tenant words e.2.1).flatMap (fun t => t.bad.toList.map (fun b => (10, b)))) else []

end Sys2Proof.Machine
end

