-- ==== Sys2Proof/Machine/Image.lean ====
section
/-!
DEFINITION. Machine/Image.lean: image files (R141, R142) and the loader's outcome (R143).
-/
namespace Sys2Proof.Machine
open Sys2Proof

/-! ### The layout of an image (R141, R142) -/

/-- `n` bytes of an image file from offset `a` on, as a number. -/
def fileNat (b : List Byte) (a n : Nat) : Nat := ofLeBytes (sliceBytes b a n)
/-- PROFILE of an image file: 1 is tenant. -/
def fileProfile (b : List Byte) : Nat := fileNat b 6 1
/-- IKIND: 1 is a finish module. -/
def fileKind (b : List Byte) : Nat := fileNat b 7 1
/-- CODE_BYTES. -/
def fileCode (b : List Byte) : Nat := fileNat b 8 4
/-- DATA_BYTES. -/
def fileData (b : List Byte) : Nat := fileNat b 12 4
/-- The entry record of event kind `k` (R142). -/
def fileEntry (b : List Byte) (k : Nat) : Nat := fileNat b (0x20 + 8 * k) 8
/-- PRESENT of an entry record. -/
def entryPresent (e : Nat) : Bool := bitAt e 37

/-- What a program says of itself (R141, R142): the bytes of an image file read, or what is known of the default stock image. -/
def imageInfo : Program → ImageInfo
  | .stock v g t => { version := v, gpio := g, timers := t }
  | .file b =>
    { version := fileNat b 0x10 4, stock := false, gpio := fileNat b 0x14 2, timers := fileNat b 0x18 4, digest := Config.digest 256 b,
      codeBytes := fileCode b, data := sliceBytes b (0x100 + fileCode b) (fileData b), tenant := fileProfile b == 1,
      entries := ((List.range 16).filter (fun k => entryPresent (fileEntry b k))).map
        (fun k => (k, bits (fileEntry b k) 0 16, bits (fileEntry b k) 16 12, bits (fileEntry b k) 32 5)),
      words := (List.range (fileCode b / 4)).map (fun i => BitVec.ofNat 32 (fileNat b (0x100 + 4 * i) 4)) }

/-! ### The checks of R143 -/

/-- An entry record that check 1 refuses: a reserved bit, a MAX_EMITS above 16, or an event kind that IKIND does not allow (R142). -/
def entryBad (ikind k e : Nat) : Bool :=
  bits e 28 4 != 0 || bits e 38 26 != 0 ||
  (entryPresent e && (decide (16 < bits e 32 5) || decide (10 < k) || (if ikind = 1 then k != 9 else k == 9)))

/-- Check 1 of an image loaded as a cell image (`cell`) or as a finish module: none where it passes, else the entry kind that fails it, 0 for
the rest of the header. A tenant image is a finish module only (R146). -/
def headerFault (cell : Bool) (b : List Byte) : Option Nat :=
  if b.length < 0x100 || fileNat b 0 4 != 0x594C494D || fileNat b 4 2 != 1 || decide (1 < fileProfile b) || fileKind b != (if cell then 0 else 1) ||
      (cell && fileProfile b == 1) || fileCode b % 4 != 0 || fileNat b 0x16 2 != 0 || fileNat b 0xA0 96 != 0 then some 0
  else (List.range 16).find? (fun k => entryBad (fileKind b) k (fileEntry b k))

/-- Check 2: a stock image carries 2,820 bytes that the security core verifies over every byte before them (R141, R384), and a tenant image
carries none. -/
def signatureOk (b : List Byte) : Bool :=
  let n := 0x100 + fileCode b + fileData b
  if fileProfile b = 1 then fileNat b 0x1C 4 == 0
  else fileNat b 0x1C 4 == 2820 && decide (n + 2820 ≤ b.length) && Config.sigVerify (Config.firmwareBytes 1) (b.take n) (sliceBytes b n 2820)

/-- Check 3: CODE_BYTES and DATA_BYTES within the limits of R141. -/
def sizesOk (cell : Bool) (b : List Byte) : Bool :=
  if cell then decide (fileCode b ≤ 8192) && decide (fileData b ≤ 114432) else decide (fileCode b ≤ 4096) && fileData b == 0

/-- The first of the failures found: the lowest code, and the lowest detail with it. -/
def firstFault (l : List (Nat × Nat)) : Option (Nat × Nat) :=
  l.foldl (fun best x =>
    match best with
    | none => some x
    | some b => if x.1 < b.1 ∨ (x.1 = b.1 ∧ x.2 < b.2) then some x else some b) none

/-- Checks 4 to 10 of an image. Bounds and constant addresses are computed only of CODE that passes checks 4 to 7. -/
def codeOutcome (i : ImageInfo) : Nat × Nat :=
  let f := codeFaults i.tenant i.words (i.entries.map (fun e => e.2.1))
  match firstFault (f.filter (fun x => decide (x.1 ≤ 7))) with
  | some x => x
  | none => (firstFault (f ++ boundFaults i.tenant i.words i.entries ++ windowFaults i.tenant i.words i.entries)).getD (0, 0)

/-- The loader's outcome for a program, loaded as a cell image or as a finish module: code and detail of R143 but for NO_SLOT. A failure that
has neither a word offset nor an entry kind (codes 2, 3 and 11) gives detail 0 (DESIGN CHOICE, log entry 64). The default stock cell image
passes; it is no finish module. -/
def loaderOutcome (cell : Bool) : Program → Nat × Nat
  | .stock .. => if cell then (0, 0) else (1, 0)
  | .file b =>
    match headerFault cell b with
    | some k => (1, k)
    | none => if !signatureOk b then (2, 0) else if !sizesOk cell b then (3, 0) else codeOutcome (imageInfo (.file b))

end Sys2Proof.Machine
end

