-- ==== Sys2Proof/Machine/LinkOps.lean ====
section
/-!
DEFINITION. Machine/LinkOps.lean: what the commands of a link share: its state and lanes (R329 to R338), its control blocks (R328),
its keys (R342, R398, R399), and leaving its state for DOWN (R332).
-/
namespace Sys2Proof.Machine
open Sys2Proof

/-! ### State of a link and its lanes -/

/-- The running state of port half `h`. -/
def linkRun (s : State) (h : Nat) : LinkRun := (findKey s.link.runs h).getD {}
/-- The running state of port half `h` set. -/
def setLink (s : State) (h : Nat) (r : LinkRun) : State := { s with link := { s.link with runs := putKey s.link.runs h {} r } }
/-- The running state of physical lane `l`. -/
def laneRun (s : State) (l : Nat) : LaneRun := (findKey s.link.lanes l).getD {}
/-- The running state of physical lane `l` set. -/
def setLane (s : State) (l : Nat) (r : LaneRun) : State := { s with link := { s.link with lanes := putKey s.link.lanes l {} r } }

/-- STATE of the link of half `h`: 0 DOWN, 1 TRAINING, 2 KEYING, 3 UP, 4 TEST. -/
def linkState (s : State) (h : Nat) : Nat := rd s (Reg.PORT.LINK_STATUS.STATE (h / 2) (h % 2))
/-- Half `h` exists (R331). -/
def halfIs (s : State) (h : Nat) : Bool := decide (h < 256) && (h % 2 == 0 || isSplit s (h / 2))
/-- The lanes of half `h`, by index in the port (R331). -/
def halfLanes (s : State) (h : Nat) : List Nat :=
  if isSplit s (h / 2) then (List.range 4).map (fun l => 4 * (h % 2) + l) else List.range 8
/-- The half that lane `l` of port `p` belongs to. -/
def laneHalf (s : State) (p l : Nat) : Nat := if isSplit s p then 2 * p + l / 4 else 2 * p

/-- STATE of lane `l` of port `p`: 0 DOWN, 1 TRAINING, 2 ACTIVE, 3 IDLE, 4 RETRAINING, 5 RETIRED, 6 TEST. -/
def laneState (s : State) (p l : Nat) : Nat := rd s (Reg.PORT.LANE_STATUS.STATE p l)
/-- STATE of a lane set. -/
def setLaneState (s : State) (p l v : Nat) : State := wr s (Reg.PORT.LANE_STATUS.STATE p l) v

/-- The mask of a list of lanes. -/
def maskOf (l : List Nat) : Nat := packBits (l.map (fun i => (i, 1, 1)))
/-- The lanes of a mask. -/
def lanesOf (m : Nat) : List Nat := (List.range 8).filter (fun i => bitAt m i)

/-- The largest width of R330 that `n` good pairs allow; 0 for none. -/
def widthFor (split : Bool) (n : Nat) : Nat :=
  ((if split then [4, 2, 1] else [8, 6, 4, 2, 1]).find? (fun w => decide (w ≤ n))).getD 0

/-- MIN_WIDTH of a port. -/
def minWidth (s : State) (p : Nat) : Nat := rd s (Reg.PORT.PORT_CFG.MIN_WIDTH p)

/-- The active set of R330 over good pairs: the lowest-indexed, as many as the width; none below MIN_WIDTH. -/
def activeSet (s : State) (h : Nat) (good : List Nat) : List Nat :=
  let w := widthFor (isSplit s (h / 2)) good.length
  if w = 0 ∨ w < minWidth s (h / 2) then [] else good.take w

/-- Lanes of half `h` that carry or may carry the stripe: ACTIVE or IDLE, and with no fault that a width change is to take out. -/
def goodLanes (s : State) (h : Nat) : List Nat :=
  (halfLanes s h).filter (fun l => (laneState s (h / 2) l == 2 || laneState s (h / 2) l == 3) && !(laneRun s (8 * (h / 2) + l)).leaving)
/-- Lane `l` of port `p` is RETIRED; in TEST its STATE does not show it (R339). -/
def laneRetired (s : State) (p l : Nat) : Bool := laneState s p l == 5 || (laneRun s (8 * p + l)).retired
/-- Lanes of half `h` that are not RETIRED. -/
def keptLanes (s : State) (h : Nat) : List Nat := (halfLanes s h).filter (fun l => !laneRetired s (h / 2) l)
/-- ACTIVE_LANES of half `h`. -/
def activeMask (s : State) (h : Nat) : Nat := rd s (Reg.PORT.LINK_STATUS.ACTIVE_LANES (h / 2) (h % 2))

/-- The active set put in force: WIDTH, ACTIVE_LANES and the lanes' states and logical indices (R329, R330). A pair of the set that has been
RETIRED since it was agreed on carries nothing. -/
def applySet (s : State) (h : Nat) (set : List Nat) : State :=
  let p := h / 2
  let s := (halfLanes s h).foldl (fun s l =>
    if set.contains l then wr (if laneState s p l = 3 then setLaneState s p l 2 else s) (Reg.PORT.LANE_STATUS.LOGICAL p l) (set.idxOf l)
    else if laneState s p l = 2 then setLaneState s p l 3 else s) s
  wrs s [(Reg.PORT.LINK_STATUS.WIDTH p (h % 2), set.length), (Reg.PORT.LINK_STATUS.ACTIVE_LANES p (h % 2), maskOf set)]

/-! ### Link control blocks (R328) -/

/-- A link control block with its CRC. -/
def mkLcb (ltype mark a b c : Nat) : Nat :=
  let n := packBits [(0, 8, ltype), (8, 8, mark), (32, 64, a), (96, 64, b), (160, 64, c)]
  n ||| (crc32c (leBytes 28 n) <<< 224)

/-- A received block of type `t` whose CRC holds. -/
def lcbIs (n : BitVec 256) (t : Nat) : Bool :=
  bits n.toNat 0 8 == t && bits n.toNat 224 32 == crc32c (leBytes 28 n.toNat)

/-- The alignment marker of lane `l` of half `h` (R327); its BIP-8 is over bits that the model does not follow, a free value (log entry 65). -/
def markerBits (s : State) (h l : Nat) : Nat :=
  packBits [(0, 256, Config.markerPattern l), (256, 3, l), (259, 7, h / 2), (266, 12, serviceId s), (278, 8, peekFree s)]

/-- Alignment markers sent on lanes `ls` of half `h`; the stripe restarts at logical lane 0 (R326, R327). -/
def sendMarkers (s : State) (h : Nat) (ls : List Nat) : State :=
  let s := ls.foldl (fun s l => takeFree (emitOut s (.marker h l (markerBits s h l)))) s
  setLink s h { linkRun s h with striped := 0 }

/-- A block sent on half `h`. -/
def sendLcb (s : State) (h ltype mark a b c : Nat) : State := emitOut s (.lcb h (mkLcb ltype mark a b c))

/-! ### Width requests (R333) -/

/-- Fabric time at which the kerf of tick `t` starts: slot 62. -/
def kerfStart (t : Nat) : Nat := 4096 * t + 62 * 64

/-- The first tick whose kerf starts at least 16,384 ftu from now. -/
def widthTarget (s : State) : Nat := (s.time.toNat + 16384 + 4095 - 3968) / 4096

/-- A WIDTH_REQ for lanes `mask` sent, the `tries`-th in a row. -/
def sendWidthReq (s : State) (h mask tries : Nat) : State :=
  let r := linkRun s h
  let t := widthTarget s
  let s := setLink s h { r with req := some ⟨r.reqNo, mask, t, tries⟩, reqNo := (r.reqNo + 1) % 256 }
  sendLcb s h 2 0 (mask + 256 * r.reqNo) t 0

/-- A link that is UP and whose good pairs give another active set asks for it, unless a change is under way. -/
def wantWidth (s : State) (h : Nat) : State :=
  let r := linkRun s h
  let set := activeSet s h (goodLanes s h)
  if linkState s h = 3 ∧ r.req.isNone ∧ r.agreed.isNone ∧ r.paused = false ∧ set ≠ [] ∧ maskOf set ≠ activeMask s h then
    sendWidthReq s h (maskOf set) 1
  else s

/-! ### Keys (R342, R399) -/

/-- An AES key or salt of key number `r` in the direction of transmitter `tx`. -/
def linkKey (prk : List Byte) (tx r : Nat) : Nat :=
  ofLeBytes (Config.hkdfExpand 384 prk (ascii "vovis link key" ++ leBytes 2 tx ++ leBytes 4 r) 32)
/-- The salt of the direction of transmitter `tx`. -/
def linkSalt (prk : List Byte) (tx : Nat) : Nat := ofLeBytes (Config.hkdfExpand 384 prk (ascii "vovis link salt" ++ leBytes 2 tx) 4)

/-- Key and nonce of the frame with counter `c` (R85): the bootstrap key is 32 zero bytes with salt 0. -/
def frameKey (prk : Option (List Byte)) (tx r c : Nat) : Nat × Nat :=
  match prk with
  | some k => (linkKey k tx r, linkSalt k tx + c * 2 ^ 32)
  | none => (0, c * 2 ^ 32)

/-- The SENDER_ID of the peer of half `h`, from the markers of its lanes that are not RETIRED (R327). -/
def peerSender (s : State) (h : Nat) : Nat :=
  (((keptLanes s h).filterMap (fun l => (laneRun s (8 * (h / 2) + l)).marker)).head?.map (fun m => m.2.2)).getD 0

/-- The generation held by both sides, the highest (R399); `gs` are the peer's. -/
def commonGen (s : State) (gs : List Nat) : Nat :=
  (([s.fw.rlkNew, s.fw.rlkOld].filterMap (fun k => k.map (fun x => x.1))).filter (fun g => g != 0 && gs.contains g)).foldl max 0

/-- The rack link key of generation `g`. -/
def rlkOf (s : State) (g : Nat) : List Byte :=
  (([s.fw.rlkNew, s.fw.rlkOld].filterMap id).find? (fun k => k.1 == g)).map (fun k => k.2) |>.getD []

/-- The link generation of half `h`: the highest that both sides hold now; 0 where there is none. -/
def linkGen (s : State) (h : Nat) : Nat := match (linkRun s h).peer with | some p => commonGen s p.1 | none => 0

/-- Key 0 taken into use once the offers of R399 allow it: an own-nonce echo received, 16 echoing offers sent, and a common generation held. -/
def trySwitch (s : State) (h : Nat) : State :=
  let r := linkRun s h
  match r.peer with
  | some (gs, id, nonce) =>
    let g := commonGen s gs
    if linkState s h = 2 ∧ !procAway s 0 ∧ r.prk.isNone ∧ r.matched ∧ 16 ≤ r.echoes ∧ g ≠ 0 then
      let salt := if serviceId s < id then r.nonce ++ nonce else nonce ++ r.nonce
      let s := setLink s h { r with prk := some (Config.hkdfExtract salt (rlkOf s g)), txR := 0, rxR := 0, txAt := s.now, rxAt := s.now, txFrames := 0, rxFrames := 0 }
      wrs s [(Reg.PORT.KEY_STATUS.TX_FRAMES_KEY (h / 2) (h % 2), 0), (Reg.PORT.KEY_STATUS.KEY_AGE_S (h / 2) (h % 2), 0),
        (Reg.PORT.KEY_STATUS.NEXT_READY (h / 2) (h % 2), 0), (Reg.PORT.LINK_STATUS.KEY_SEQ (h / 2) (h % 2), 0)]
    else s
  | none => s

/-! ### Leaving for DOWN (R332) -/

/-- Port-down work is due for half `h` (R125). -/
def portIsDown (s : State) (h : Nat) : State := { s with sw := { s.sw with down := if s.sw.down.contains h then s.sw.down else h :: s.sw.down } }

/-- The link of half `h` goes DOWN with a cause (R332): keys and nonce erased (R399), lanes off, an attempt barred for 1 s where it was in
TRAINING, port-down work due where a loss takes it from UP (R125), and a LINK record (R360). -/
def linkDown (s : State) (h cause outcome : Nat) : State :=
  let p := h / 2
  let i := h % 2
  if linkState s h = 0 then s
  else
    let width := rd s (Reg.PORT.LINK_STATUS.WIDTH p i)
    let bar := if linkState s h = 1 then some (s.now + secs 1) else none
    let s := if linkState s h = 3 ∧ cause ≠ 1 then portIsDown s h else s
    let s := wrs s [(Reg.PORT.LINK_STATUS.STATE p i, 0), (Reg.PORT.LINK_STATUS.WIDTH p i, 0), (Reg.PORT.LINK_STATUS.ACTIVE_LANES p i, 0),
      (Reg.PORT.LINK_STATUS.KEY_SEQ p i, 0), (Reg.PORT.LINK_STATUS.DOWN_CAUSE p i, cause), (Reg.PORT.KEY_STATUS.NEXT_READY p i, 0)]
    let s := (halfLanes s h).foldl (fun s l =>
      setLane (setLaneState s p l (if laneRetired s p l then 5 else 0)) (8 * p + l) { laneRun s (8 * p + l) with retrainAt := none, leaving := false, retired := false }) s
    let s := setLink s h { since := s.now, bar := bar, reqNo := (linkRun s h).reqNo }
    let s := { s with link := { s.link with jigWidth := delKey s.link.jigWidth p } }
    report s p 0x03 cause outcome (packBits [(0, 7, p), (7, 1, i)]) width

/-- The links of port `p` whose state `f` picks go DOWN with cause STOPPED (R332). -/
def portLinksDown (s : State) (p : Nat) (f : Nat → Bool) : State :=
  [2 * p, 2 * p + 1].foldl (fun s h => if f (linkState s h) then linkDown s h 1 0 else s) s

/-- PORT `p` leaves STOPPING, or is RETIRED, and its links go DOWN (R332). With `flush` its work is flushed as on port-down, on every half it
has (R29, R125); a drained port has nothing left to flush, and what still arrives on it is cut and its credit cleared (R112, R121; DEDUCED,
log entry 65). -/
def portOff (s : State) (p : Nat) (flush : Bool) : State :=
  let up := [2 * p, 2 * p + 1].filter (fun h => linkState s h == 3)
  let s := portLinksDown s p (fun _ => true)
  if flush then (halvesOf s p).foldl portIsDown s else up.foldl (fun s h => clearCredit (cutArrivals s h) h) s

/-- Every half of port `p` that has fewer than MIN_WIDTH pairs that are not RETIRED (R337). -/
def portDead (s : State) (p : Nat) : Bool :=
  ((if isSplit s p then [2 * p, 2 * p + 1] else [2 * p])).all (fun h => decide ((keptLanes s h).length < minWidth s p))

end Sys2Proof.Machine
end

