-- ==== Sys2Proof/Machine/FuncOps.lean ====
section
/-!
DEFINITION. Machine/FuncOps.lean: the life of the 463 functions (R28 to R43): state changes, resource claims, dependencies, the
drains of R33, the checks of a dry-fit (R34, R35, R43, R196), and stopping and retiring a function.
-/
namespace Sys2Proof.Machine
open Sys2Proof

/-! ### Kinds of functions (R28) -/

/-- TYPE code of function `n` (R28). -/
def fnType (n : Nat) : Nat :=
  if n < 128 then 0 else if n < 130 then 1 else if n < 178 then 2 else if n < 202 then 3 else if n < 458 then 4 else n - 453
/-- Instance of function `n` within its type. -/
def fnInst (n : Nat) : Nat :=
  if n < 128 then n else if n < 130 then n - 128 else if n < 178 then n - 130 else if n < 202 then n - 178 else if n < 458 then n - 202 else 0
/-- PORT, CLUSTER and HBM may be retired (R29). -/
def fnRetirable (n : Nat) : Bool := fnType n == 0 || fnType n == 2 || fnType n == 3

/-- The functions that function `n` depends on (R35); JIG_TABLE depends on fabric time instead. -/
def fnDeps (n : Nat) : List Nat :=
  let hbm := (List.range 24).map fHbm
  match fnType n with
  | 2 | 6 | 7 | 8 => hbm
  | 4 => (List.range 48).map fCluster ++ hbm ++ [fExt]
  | 9 => hbm ++ [fExt]
  | _ => []

/-- The RUNNING functions that depend on function `n` (R35). -/
def fnDependents (s : State) (n : Nat) : List Nat := (List.range 463).filter (fun m => running s m && (fnDeps m).contains n)

/-! ### Resource claims (R40 to R42) -/

/-- The numbers of the bits set in a 32-bit mask, from `base`. -/
def maskResources (base m : Nat) : List Nat := ((List.range 32).filter (fun b => bitAt m b)).map (fun b => base + b)

/-- The program that function `n` was started with. -/
def fnProgram (s : State) (n : Nat) : Program := (findKey s.fn.images n).getD (.stock 0 0 0)
/-- What it says of itself (R141). -/
def fnImage (s : State) (n : Nat) : ImageInfo := imageInfo (fnProgram s n)

/-- The resources that function `n` claims at START (R35, R40), in ascending order. -/
def fnClaims (s : State) (n : Nat) : List Nat :=
  match fnType n with
  | 0 => maskResources 0x40 (rd s (Reg.SWITCH.PORT_BUF.PARTS n))
  | 2 => maskResources 0 ((fnImage s n).gpio % 65536) ++ maskResources 0x20 (fnImage s n).timers
  | 4 => [0x100 + rd s (Reg.SWARM.SWARM_DEF.ACC_REGION (fnInst n))]
  | 5 => maskResources 0x40 (rd s Reg.TICK.JIG_CFG.FALLBACK_PARTS)
  | 6 => [0x100 + rd s Reg.EXTENT.EXT_CFG.TABLE_REGION]
  | 7 => (if rdb s Reg.TELEMETRY.ALARM_CFG.EN then [rd s Reg.TELEMETRY.ALARM_CFG.PIN] else []) ++ [0x100 + rd s Reg.TELEMETRY.TEL_CFG.MAP_REGION]
  | 8 => (if rdb s Reg.TELEMETRY.FF_CFG.PULSE_EN then
        [rd s Reg.TELEMETRY.FF_CFG.PULSE_PIN, 0x20 + rd s Reg.TELEMETRY.FF_CFG.PULSE_TIMER] else []) ++
      maskResources 0x40 (rd s Reg.TELEMETRY.MIRROR_CFG.MIRROR_PARTS) ++ [0x100 + rd s Reg.TELEMETRY.FF_CFG.FF_REGION]
  | 9 => (List.range (rd s Reg.EXTENT.HOME_CFG.REGION_COUNT)).map (fun i => 0x100 + rd s Reg.EXTENT.HOME_CFG.REGION_FIRST + i)
  | _ => []

/-- A claim refused because resource `k` is held (R42): LAST_CONTENDER and CONTEST_COUNT. -/
def contest (n : Nat) (s : State) (k : Nat) : State := cnt (wr s (Reg.GLOBAL.CLAIM.LAST_CONTENDER k) n) (Reg.GLOBAL.CLAIM.CONTEST_COUNT k)

/-- Resource `k` given to function `n`. -/
def hold (n : Nat) (s : State) (k : Nat) : State := wr (wr s (Reg.GLOBAL.CLAIM.HELD k) 1) (Reg.GLOBAL.CLAIM.HOLDER k) n

/-- The claim set of function `n` decided whole (R42); the decision is kept for check 3 of its dry-fit. -/
def decideClaims (s : State) (n : Nat) : State :=
  let rs := (fnClaims s n).filter (fun k => decide (k < 0x700))
  match rs.filter (fun k => rdb s (Reg.GLOBAL.CLAIM.HELD k)) with
  | [] =>
    let s := rs.foldl (hold n) s
    { s with fn := { s.fn with claim := setKey s.fn.claim n none } }
  | k :: held =>
    let d := (k, rd s (Reg.GLOBAL.CLAIM.HOLDER k))
    let s := (k :: held).foldl (contest n) s
    { s with fn := { s.fn with claim := setKey s.fn.claim n (some d) } }

/-- Every resource that function `n` holds is released (R42 rule 4); it drives no pin any more. -/
def releaseClaims (s : State) (n : Nat) : State :=
  let held := (List.range 0x700).filter (fun k => rdb s (Reg.GLOBAL.CLAIM.HELD k) && rd s (Reg.GLOBAL.CLAIM.HOLDER k) == n)
  let s := held.foldl (fun s k => wr (wr s (Reg.GLOBAL.CLAIM.HELD k) 0) (Reg.GLOBAL.CLAIM.HOLDER k) 0) s
  let s := (held.filter (fun k => decide (k < 16))).foldl (fun s k => wr s (Reg.MGMT.GPIO_CTL.OUT k) 0) s
  { s with fn := { s.fn with claim := delKey s.fn.claim n } }

/-! ### State changes (R36, R38) -/

/-- RESULT of function `n` recorded, with the conflict fields that go with it. -/
def setResult (s : State) (n code res holder : Nat) : State :=
  wrs s [(Reg.GLOBAL.FUNC_STATUS.RESULT n, code), (Reg.GLOBAL.FUNC_STATUS.CONFLICT_RES n, res), (Reg.GLOBAL.FUNC_STATUS.CONFLICT_HOLDER n, holder)]

/-- Function `n` enters state `st`: READY follows RUNNING, CHANGED is set and the function event is sent (R36, R38). -/
def setFn (s : State) (n st : Nat) : State :=
  functionEvent (wrs s [(Reg.GLOBAL.FUNC_STATUS.STATE n, st), (Reg.GLOBAL.FUNC_STATUS.READY n, b2n (st == 2)), (Reg.GLOBAL.FUNC_DIAG.CHANGED n, 1)]) n

/-- A FUNCTION record (R349, R360): cause 1 permanent fault, 2 dependency, 3 forced stop. -/
def fnRecord (s : State) (n cause outcome : Nat) : State :=
  report s n 0x09 cause outcome n (packBits [(0, 3, fnState s n), (3, 4, rd s (Reg.GLOBAL.FUNC_STATUS.RESULT n))])

/-! ### Cells of a CLUSTER (R149) -/

/-- State of physical cell `c` of CLUSTER `n`. -/
def physState (s : State) (n c : Nat) : Nat := rd s (Reg.CLUSTER.PHYS_CELL.STATE n c)
/-- Physical cells of CLUSTER `n` in state `st`, in ascending order. -/
def physIn (s : State) (n st : Nat) : List Nat := (List.range 132).filter (fun c => physState s n c == st)
/-- SPARES_LEFT and ACTIVE_CELLS brought up to date. -/
def clStatus (s : State) (n : Nat) : State :=
  wr (wr s (Reg.CLUSTER.CL_STATUS.SPARES_LEFT n) (min 4 (physIn s n 2).length)) (Reg.CLUSTER.CL_STATUS.ACTIVE_CELLS n) ((physIn s n 3).length + (physIn s n 4).length)
/-- Physical cell `c` of CLUSTER `n` enters state `st`. -/
def setPhys (s : State) (n c st : Nat) : State := clStatus (wr s (Reg.CLUSTER.PHYS_CELL.STATE n c) st) n

/-- A table without the keys whose quotient by `d` is `q`. -/
def dropRange {α : Type} (l : List (Nat × α)) (d q : Nat) : List (Nat × α) := l.filter (fun e => e.1 / d != q)

/-- A CLUSTER enters DRY_FIT (R149): its cells that are OFF are tested, or become SPARE at once. -/
def cellsDryFit (s : State) (n : Nat) : State :=
  let test := rdb s (Reg.CLUSTER.CL_IMAGE.TEST_AT_START n)
  let off := physIn s n 0
  let s := off.foldl (fun s c => wr s (Reg.CLUSTER.PHYS_CELL.STATE n c) (if test then 1 else 2)) s
  let s := if test then { s with cells := { s.cells with tests := off.foldl (fun t c => setKey t (132 * n + c) s.now) s.cells.tests } } else
    { s with cells := { s.cells with tested := off.foldl (fun t c => setKey t (132 * n + c) s.now) s.cells.tested } }
  clStatus (wr s (Reg.CLUSTER.CL_STATUS.MAX_CYCLES n) 0) n

/-- The cell image starts on device cell `l`: its memories are as after power-on and its INIT is due (R142, R149, R185). Timer events that wait
for a logical cell are not held in the physical cell, and the spare takes them (DESIGN CHOICE, log entry 64). -/
def loadCell (s : State) (l : Nat) : State :=
  let s := localWr { s with cells := { s.cells with data := s.cells.data.filter (fun e => e.1 / 131072 != l) } } l 0x100 (imageOf s (l / 128)).data
  { s with cells := { s.cells with
      run := delKey s.cells.run l, tiles := dropRange s.cells.tiles 8 l,
      comb := delKey s.cells.comb l, initDue := if s.cells.initDue.contains l then s.cells.initDue else s.cells.initDue ++ [l] } }

/-- A dry-fit assigns the 128 logical cells to the SPAREs of lowest index, which become ACTIVE (R149). -/
def cellsAssign (s : State) (n : Nat) : State :=
  let s := { s with cells := { s.cells with images := setKey s.cells.images n (fnImage s (fCluster n)),
                                            shared := s.cells.shared.filter (fun e => e.1 / 8388608 != n) } }
  let s := trace s (4 + n) 7 0x0801 (128 * n) (fnImage s (fCluster n)).version
  clStatus ((((physIn s n 2).take 128).zipIdx).foldl (fun s e =>
    loadCell (wrs s [(Reg.CLUSTER.PHYS_CELL.STATE n e.1, 3), (Reg.CLUSTER.CELL_MAP.PHYS n e.2, e.1)]) (128 * n + e.2)) s) n

/-- Everything that the cells of CLUSTER `n` hold is gone, the ledger entries with it (R33). -/
def cellsClear (s : State) (n : Nat) : State :=
  { s with cells := { s.cells with
      run := dropRange s.cells.run 128 n, comb := dropRange s.cells.comb 128 n, ledger := dropRange s.cells.ledger 65536 n,
      owned := dropRange s.cells.owned 131072 n, moves := dropRange s.cells.moves 128 n, tests := dropRange s.cells.tests 132 n,
      tested := dropRange s.cells.tested 132 n, initDue := s.cells.initDue.filter (fun l => l / 128 != n),
      fresh := s.cells.fresh.filter (fun l => l / 128 != n),
      timers := dropRange s.cells.timers 4096 n } }

/-- CLUSTER `n` reaches STOPPED: every cell that is not RETIRED is OFF (R149). -/
def cellsOff (s : State) (n : Nat) : State :=
  clStatus ((List.range 132).foldl (fun s c => if physState s n c = 5 then s else wr s (Reg.CLUSTER.PHYS_CELL.STATE n c) 0) (cellsClear s n)) n

/-! ### Finish slots (R144) -/

/-- Finish slots that a module of `bytes` code bytes takes. -/
def finishSpan (bytes : Nat) : Nat := (bytes + 511) / 512
/-- The lowest run of `k` free finish slots; the slots are the same in every CLUSTER. -/
def finishRun (s : State) (k : Nat) : Option Nat :=
  (List.range 16).find? (fun a => decide (a + k ≤ 16) && (List.range k).all (fun i => !rdb s (Reg.CLUSTER.FINISH_SLOT.VALID 0 (a + i))))
/-- Slot `j` of every CLUSTER described as part of the module of SWARM `k`, or free. -/
def finishSlot (s : State) (j : Nat) (v : Option (Nat × Nat × Nat × Nat)) : State :=
  (List.range 48).foldl (fun s n => match v with
    | some (k, head, span, bound) => wrs s [(Reg.CLUSTER.FINISH_SLOT.VALID n j, 1), (Reg.CLUSTER.FINISH_SLOT.SWARM n j, k),
        (Reg.CLUSTER.FINISH_SLOT.HEAD_SLOT n j, head), (Reg.CLUSTER.FINISH_SLOT.SPAN n j, span), (Reg.CLUSTER.FINISH_SLOT.BOUND n j, bound)]
    | none => wrs s [(Reg.CLUSTER.FINISH_SLOT.VALID n j, 0), (Reg.CLUSTER.FINISH_SLOT.SWARM n j, 0), (Reg.CLUSTER.FINISH_SLOT.HEAD_SLOT n j, 0),
        (Reg.CLUSTER.FINISH_SLOT.SPAN n j, 0), (Reg.CLUSTER.FINISH_SLOT.BOUND n j, 0)]) s
/-- The tenant module of SWARM `k` copied into slots from `head` on in every CLUSTER (R143, R144). -/
def finishLoad (s : State) (k head : Nat) (i : ImageInfo) : State :=
  let span := finishSpan i.codeBytes
  let bound := match imgEntry i 9 with | some e => e.2.1 | none => 0
  let s := (List.range span).foldl (fun s j => finishSlot s (head + j) (some (k, head, span, bound))) s
  { s with cells := { s.cells with finishes := setKey s.cells.finishes k i } }
/-- The finish slots of SWARM `k` released (R144). -/
def finishRelease (s : State) (k : Nat) : State :=
  let mine := (List.range 16).filter (fun j => rdb s (Reg.CLUSTER.FINISH_SLOT.VALID 0 j) && rd s (Reg.CLUSTER.FINISH_SLOT.SWARM 0 j) == k)
  let s := mine.foldl (fun s j => finishSlot s j none) s
  { s with cells := { s.cells with finishes := delKey s.cells.finishes k } }

/-! ### Leaving a state that holds claims -/

/-- What every function gives up on reaching STOPPED, AWAIT_HOST or RETIRED (R42, R144); with its pin TELEMETRY's alarm ends (R370). -/
def fnRelease (s : State) (n : Nat) : State :=
  let s := releaseClaims s n
  let s := if fnType n = 4 then finishRelease s (fnInst n) else if fnType n = 7 then wr s Reg.TELEMETRY.TEL_STATUS.ALARM 0 else s
  { s with fn := { s.fn with startAt := delKey s.fn.startAt n, stopAt := delKey s.fn.stopAt n, listed := s.fn.listed.filter (fun m => m != n) } }

/-- A dry-fit ends in AWAIT_HOST with RESULT `code` (R29). -/
def dryFitFails (s : State) (n code res holder : Nat) : State := trace (setFn (setResult (fnRelease s n) n code res holder) n 4) 1 1 0x0201 n code

/-! ### Stopping (R29, R33, R35) -/

/-- The outputs of function `n`, a PORT or a HOSTPORT: they leave RUNNING with it. -/
def fnOutputs (n : Nat) : List Nat := if fnType n = 0 then [2 * n, 2 * n + 1] else if fnType n = 1 then [outOf (224 + fnInst n)] else []

/-- Function `n` leaves RUNNING for STOPPING and its stop action begins (R33): its outputs leave every residue (R118), a SWARM aborts its
operations, a link that is not UP goes DOWN (R332), and the scheduler core tests which members the loss of a PORT or HOSTPORT cuts off (R215). -/
def stopFn (s : State) (n : Nat) : State :=
  let s := setFn { s with fn := { s.fn with stopAt := setKey s.fn.stopAt n s.now } } n 3
  let s := leaveResidues s (fnOutputs n)
  let s := if fnType n = 0 then portLinksDown s (fnInst n) (fun st => st != 3) else s
  if fnType n = 4 then swarmLeave s (fnInst n) else if fnType n ≤ 1 then memberTest s none else s

/-- Every RUNNING dependent of function `n`, which has left RUNNING, stops, and so do theirs (R29, R35). -/
def loseDeps (s : State) (n : Nat) : Nat → State
  | 0 => s
  | k + 1 =>
    (fnDependents s n).foldl (fun s m =>
      if running s m then
        let s := stopFn { s with fn := { s.fn with depLost := m :: s.fn.depLost } } m
        loseDeps s m k
      else s) s

/-- What stands in the arrival queues of the cells of CLUSTER `n`. -/
def clusterHolds (s : State) (n : Nat) : List (Nat × Packet) :=
  s.inbox.filter (fun e => decide (e.1 < 512) && (e.1 % 256 == 128 + 2 * n || e.1 % 256 == 129 + 2 * n))

/-- What waits at the cells of CLUSTER `n` when it stops by force or fails: each packet of an arrival queue is handled under R24, a delivered
header copy, or one under judgement, is lost, and the egress queues are emptied. -/
def flushCells (s : State) (n : Nat) : State :=
  let q := clusterHolds s n
  let mine := fun (c : HdrCopy) => c.behind.isSome && c.cell / 128 == n
  let judged := (s.cells.run.filter (fun e => e.1 / 128 == n && e.2.copy.isSome)).length
  let s := cnt s Reg.TELEMETRY.FF_COUNT.VERDICT_LOST ((s.tel.copies.filter mine).length + judged)
  let s := { s with inbox := s.inbox.filter (fun e => !q.contains e), outbox := s.outbox.filter (fun e => decide (e.1 < 512) || (e.1 - 512) / 128 != n),
                    tel := { s.tel with copies := s.tel.copies.filter (fun c => !mine c) } }
  q.foldl (fun s e => clusterNotRunning s (e.1 % 256) e.2.h) s

/-- Nothing waits at the units of crossbar ports `xs` or on its way to them. -/
def unitsIdle (s : State) (xs : List Nat) : Bool :=
  s.inbox.all (fun e => !xs.contains e.1) && s.sw.pkts.all (fun q => !q.outs.any (fun o => xs.contains (outPort o) && decide (256 ≤ o)))

/-- The drain of function `n`, in STOPPING, is complete (R33). -/
def drained (s : State) (n : Nat) : Bool :=
  let i := fnInst n
  match fnType n with
  | 0 => [2 * i, 2 * i + 1].all (fun h => (egressOf s h).isEmpty && s.sw.pkts.all (fun q => !q.residue.contains h))
  | 1 => s.host.flr.all (fun x => x.1 / 256 != i) && s.ep.behind.all (fun b => b.1 != i) && s.ep.reqs.all (fun r => r.ep != i) && s.ep.descs.all (fun d => d.ep != i) && s.host.ops.all (fun o => o.ep != i || o.dead) && unitsIdle s [224 + i]
  | 2 => s.cells.moves.all (fun e => e.1 / 128 != i) && s.cells.run.all (fun e => e.1 / 128 != i) && (clusterHolds s i).isEmpty &&
      s.cells.comb.all (fun e => e.1 / 128 != i || (e.2.doves.isEmpty && e.2.parked.isEmpty && e.2.replies.isEmpty && e.2.gathers.isEmpty))
  | 4 => (swRun s i).ops.isEmpty
  | 5 => (match findKey s.fn.stopAt n with
      | some t => decide (kerfsBy (s.time.toNat - (s.now - t)) < kerfsBy s.time.toNat)
      | none => true)
  | 6 => s.ext.cmd.isNone && s.ext.reg.all (fun e => e.2.inflight == 0)
  | 8 => s.tel.copies.isEmpty
  | 9 => unitsIdle s [226, 227]
  | _ => true

/-- The delivered requests that wait behind a store of their sequence at end-point `e` flushed as on port-down (R29, R255). -/
def flushBehind (s : State) (e : Nat) : State :=
  let mine := s.ep.behind.filter (fun b => b.1 == e)
  mine.foldl (fun s b => flushOne s 0x1FF 256 b.2.h false) { s with ep := { s.ep with behind := s.ep.behind.filter (fun b => b.1 != e) } }

/-- Remaining work flushed as on port-down (R29) when function `n` is forced to stop or is retired. EXTENT_REGISTRY has nothing queued that
a flush could drop: its entries stay, and what it admitted goes on at the targets (DESIGN CHOICE, log entry 32). -/
def flushFn (s : State) (n : Nat) : State :=
  let i := fnInst n
  match fnType n with
  | 1 => flushUnit (flushInbox (flushBehind (resetCtxs s i ((List.range 4096).filter (fun c =>
      s.ep.reqs.any (fun r => r.ep == i && r.ctx == c) || s.ep.descs.any (fun d => d.ep == i && d.ctx == c)))) i) [224 + i]) [224 + i]
  | 2 => flushCells (flushUnit s [128 + 2 * i, 129 + 2 * i]) i
  | 8 => { s with tel := { s.tel with copies := [] } }
  | 9 => flushUnit (flushInbox s [226, 227]) [226, 227]
  | _ => s

/-- What goes with the outputs of function `n` when it reaches STOPPED or RETIRED (R33, R202), drained or with its work flushed; with a HOSTPORT, the link of its end-point: its
sequence records are freed, and its sequences start afresh (R80, R258). -/
def fnOff (s : State) (n : Nat) (flush : Bool) : State :=
  let i := fnInst n
  match fnType n with
  | 0 => portOff s i flush
  | 1 => { s with ep := { s.ep with downAt := setKey s.ep.downAt i s.now, seqs := s.ep.seqs.filter (fun r => r.1 / 32768 != i),
                                    spaces := s.ep.spaces.filter (fun r => r.1 / 32768 != i),
                                    relays := s.ep.relays.filter (fun r => r.1 / 2 ^ 44 != i), swWait := s.ep.swWait.filter (fun w => w.1 != i) } }
  | 2 => cellsClear s i
  | 4 => swarmStopped s i
  | _ => s

/-- Function `n` reaches STOPPED (R29), and AWAIT_HOST after it where a dependency was lost. -/
def reachStopped (s : State) (n : Nat) (forced : Bool) : State :=
  let s := fnRelease (fnOff s n forced) n
  let s := if fnType n = 2 then cellsOff s (fnInst n) else s
  let s := setFn s n 0
  let s := if forced then fnRecord s n 3 0 else s
  if s.fn.depLost.contains n then
    let s := { s with fn := { s.fn with depLost := s.fn.depLost.filter (fun m => m != n) } }
    fnRecord (setFn (setResult s n 3 0 0) n 4) n 2 0
  else s

/-- Function `n` is RETIRED by command or by a permanent fault (R29): work flushed, claims released, dependents stopped. -/
def retireFn (s : State) (n : Nat) (fault : Bool) : State :=
  let was := fnState s n
  let s := fnOff (flushFn s n) n true
  let s := { fnRelease s n with fn := { (fnRelease s n).fn with depLost := s.fn.depLost.filter (fun m => m != n) } }
  let s := if was = 1 then setResult s n 7 0 0 else s
  let s := setFn s n 5
  let s := if fault then fnRecord s n 1 3 else s
  if was = 2 then loseDeps (if fnType n ≤ 1 then memberTest s none else s) n 4 else s

/-- A permanent fault of a PORT, CLUSTER or HBM (R29); RETIRED has no row for it. -/
def permanentFault (s : State) (n : Nat) : State := if fnRetirable n ∧ fnState s n < 5 then retireFn s n true else s

/-! ### The checks of a dry-fit (R34) -/

/-- Every HBM partition lies in the device and no two overlap (R34, HBM_PART). -/
def partsOk (s : State) : Bool :=
  let lo := fun k => rd s (Reg.GLOBAL.HBM_PART.BASE k)
  let hi := fun k => rd s (Reg.GLOBAL.HBM_PART.BASE k) + rd s (Reg.GLOBAL.HBM_PART.SIZE k)
  (List.range 6).all (fun j => decide (hi j ≤ 1536) && (List.range j).all (fun k => decide (hi j ≤ lo k) || decide (hi k ≤ lo j)))

/-- Region `r` lies in partition `k` (R43). -/
def inPart (s : State) (k r : Nat) : Bool :=
  decide (rd s (Reg.GLOBAL.HBM_PART.BASE k) ≤ r) && decide (r < rd s (Reg.GLOBAL.HBM_PART.BASE k) + rd s (Reg.GLOBAL.HBM_PART.SIZE k))

/-- Member entries obey R195. -/
def membersOk (s : State) (k : Nat) : Bool :=
  let n := swMembers s k
  decide (1 ≤ n ∧ n ≤ 256) &&
    (List.range 256).all (fun m => rdb s (Reg.SWARM.SWARM_MEMBER.VALID k m) == decide (m < n)) &&
    ((List.range n).map (fun m => (swEp s k m, swCtx s k m))).dedup.length == n &&
    (swPlanes s k == [planeId s] || (List.range n).all (fun m => swEp s k m != epId s 0 && swEp s k m != epId s 1))

/-- OP_SIZE obeys R198, and its tiles fit the slots of a bank (R196). -/
def opSizeOk (s : State) (k : Nat) : Bool :=
  let f := swFmt s k
  let p := (swPlanes s k).length
  (Num.isMx f || swSize s k * 8 % Num.elemBits f == 0) && decide (1 ≤ swTiles s k ∧ swTiles s k ≤ 1048576) && decide ((swTiles s k + p - 1) / p ≤ 229376)

/-- Check 1 of R34: the settings of function `n` agree. -/
def settingsOk (s : State) (n : Nat) : Bool :=
  let i := fnInst n
  match fnType n with
  | 0 =>
    let lb := rd s (Reg.PORT.PORT_CFG.LOOPBACK i)
    decide (((List.range 8).map (fun c => rd s (Reg.SWITCH.PORT_CREDIT.ALLOT i c))).sum ≤ 512) &&
      !((lb == 1 || lb == 2) && rd s (Reg.PORT.PORT_CFG.PATTERN i) == 0) && !(isSplit s i && minWidth s i == 6)
  | 1 => decide (rd s (Reg.HOSTPORT.PORT_CFG.PF_VECTORS i) + rd s (Reg.HOSTPORT.PORT_CFG.TOTAL_VFS i) * rd s (Reg.HOSTPORT.PORT_CFG.VF_VECTORS i) ≤ 2048)
  | 2 => partsOk s && inPart s 2 (rd s Reg.COMBINE.TABLE_CFG.MIRROR_REGION)
  | 4 => partsOk s && membersOk s i && (swPlanes s i).contains (planeId s) && opSizeOk s i &&
      rd s (Reg.SWARM.SWARM_DEF.STATE_OFFSET i) % 2 ^ 21 == 0 && inPart s 1 (rd s (Reg.SWARM.SWARM_DEF.ACC_REGION i))
  | 6 => partsOk s && inPart s 2 (rd s Reg.EXTENT.EXT_CFG.TABLE_REGION) &&
      rd s Reg.EXTENT.EXT_CFG.TABLE_REGION != rd s Reg.COMBINE.TABLE_CFG.MIRROR_REGION
  | 7 => partsOk s && inPart s 3 (rd s Reg.TELEMETRY.TEL_CFG.MAP_REGION)
  | 8 => partsOk s && inPart s 3 (rd s Reg.TELEMETRY.FF_CFG.FF_REGION)
  | 9 => partsOk s && (List.range (rd s Reg.EXTENT.HOME_CFG.REGION_COUNT)).all (fun j => inPart s 5 (rd s Reg.EXTENT.HOME_CFG.REGION_FIRST + j))
  | _ => true

/-- Check 2 of R34: every dependency is RUNNING (R35). -/
def depsOk (s : State) (n : Nat) : Bool :=
  if fnType n = 5 then rdb s Reg.TICK.TIME_STATUS.LOCKED else (fnDeps n).all (fun m => running s m)

/-- Every member of SWARM `k` is at this plane or routable (R196). -/
def membersReach (s : State) (k : Nat) : Bool :=
  (List.range (swMembers s k)).all (fun m => swEp s k m == epId s 0 || swEp s k m == epId s 1 || rdb s (Reg.SWITCH.ROUTE.VALID (swEp s k m)))

/-- Every cell image has the stock finish module that SWARM `k` names (R196). -/
def stockFinishOk (s : State) (k : Nat) : Bool :=
  rd s (Reg.SWARM.SWARM_DEF.FINISH_KIND k) != 1 ||
    ((List.range 3).any (fun j => rd s (Reg.SWARM.SWARM_DEF.FINISH_IMAGE k) == 0x10 + j) && (List.range 48).all (fun n => (imageOf s n).stock))

/-- Every 2 MiB granule of the state range of SWARM `k` lies in a LIVE extent of its tenant that permits writes (R147, R196). -/
def stateRangeOk (s : State) (k : Nat) : Bool :=
  let base := homeEpId s * 2 ^ 48 + rd s (Reg.SWARM.SWARM_DEF.STATE_OFFSET k)
  let a := homeAddr s (rd s (Reg.SWARM.SWARM_DEF.STATE_OFFSET k))
  (List.range (rd s (Reg.SWARM.SWARM_DEF.STATE_LEN_2M k))).all (fun i =>
    inPart s 5 ((a + i * 2 ^ 21) / 2 ^ 30) &&
      (extFind s.ext.reg (fun e => e.st == 1 && e.tenant == swTenant s k && bitAt e.perm 1 && extCovers e (base + i * 2 ^ 21))).isSome)

/-- Function `n` passes its dry-fit (R29): RUNNING, with what goes with it. -/
def enterRunning (s : State) (n : Nat) : State :=
  let s := { s with fn := { s.fn with startAt := delKey s.fn.startAt n, claim := delKey s.fn.claim n, listed := s.fn.listed.filter (fun m => m != n) } }
  let s := if fnType n = 2 then cellsAssign s (fnInst n) else s
  let s := trace (setFn (setResult s n 0 0 0) n 2) 1 1 0x0201 n 0
  let s := if fnType n = 2 then { s with fw := { s.fw with unmolted := s.fw.unmolted.erase (fnInst n) } } else s
  if fnType n = 4 then swarmStart s (fnInst n)
  else if fnType n = 1 then memberTest s none
  else if fnType n = 7 then { s with tick := { s.tick with tasks := setKey s.tick.tasks 0 (4096 * kerfsBy (s.time.toNat - 1) + 3968, none) } } else s

/-- The loader's outcome recorded (R143): CL_STATUS and IMAGE_VERSION, or FINISH_LOAD. -/
def loaderNote (s : State) (n code detail : Nat) : State :=
  let i := fnInst n
  if fnType n = 2 then
    wrs s [(Reg.CLUSTER.CL_STATUS.LOAD_RESULT i, code), (Reg.CLUSTER.CL_STATUS.LOAD_DETAIL i, detail),
      (Reg.CLUSTER.CL_IMAGE.IMAGE_VERSION i, (fnImage s n).version)]
  else wrs s [(Reg.SWARM.SWARM_STATUS.FINISH_LOAD i, code), (Reg.SWARM.SWARM_STATUS.FINISH_LOAD_DETAIL i, detail)]

/-- A program is one whose signature the security core verifies as it is loaded: a stock image (R141, R384). -/
def stockSigned : Program → Bool
  | .stock .. => true
  | .file b => fileProfile b != 1

/-- Check 4 of R34 for a SWARM (R196), whose tenant finish module the scheduler core loads (R143). -/
def swarmCheck (s : State) (n : Nat) : State :=
  let k := fnInst n
  if !membersReach s k || !stockFinishOk s k then dryFitFails s n 2 0 0
  else if rd s (Reg.SWARM.SWARM_DEF.FINISH_KIND k) = 2 then
    if stockSigned (fnProgram s n) && procAway s 0 then s else
    let x := loaderOutcome false (fnProgram s n)
    if x.1 ≠ 0 then dryFitFails (loaderNote s n x.1 x.2) n 4 0 0
    else
      match finishRun s (finishSpan (fnImage s n).codeBytes) with
      | none => dryFitFails (loaderNote s n 11 0) n 5 0 0
      | some head =>
        if !stateRangeOk s k then dryFitFails (loaderNote s n 0 0) n 2 0 0
        else enterRunning (finishLoad (loaderNote s n 0 0) k head (fnImage s n)) n
  else if !stateRangeOk s k then dryFitFails s n 2 0 0
  else enterRunning s n

/-- The image copy of CLUSTER `n` read uncorrectable at an address of shared SRAM and was reloaded from the firmware partition (R349, R360). -/
def imageReloaded (s : State) (n : Nat) : Option (BitVec 23) → State
  | some a => report s (fCluster n) 0x07 3 2 n a.toNat
  | none => s

/-- Check 4 of R34: the self-test of the function's hardware and what its type adds. A CLUSTER waits for its cell tests, for its cluster
control core, and for the security core, which verifies the signature of a stock image at each load (R384). -/
def typeCheck (s : State) (n : Nat) (hw : Bool) (ecc : Option (BitVec 23)) : State :=
  let i := fnInst n
  if hw then dryFitFails s n 7 0 0
  else if fnType n = 2 then
    if !(physIn s i 1).isEmpty || procAway s (4 + i) || procAway s 0 then s
    else if (physIn s i 2).length < 128 then dryFitFails s n 7 0 0
    else
      let x := loaderOutcome true (fnProgram s n)
      let s := loaderNote s n x.1 x.2
      if x.1 ≠ 0 then dryFitFails s n 4 0 0 else imageReloaded (enterRunning s n) i ecc
  else if fnType n = 4 then swarmCheck s n
  else enterRunning s n

/-- The dry-fit of function `n` carried as far as it can go (R34, R37). -/
def dryFit (s : State) (n : Nat) (hw : Bool) (ecc : Option (BitVec 23)) : State :=
  if !settingsOk s n then dryFitFails s n 2 0 0
  else if !depsOk s n then (if s.fn.listed.contains n then s else dryFitFails s n 3 0 0)
  else
    match (findKey s.fn.claim n).getD none with
    | some (res, holder) => dryFitFails s n 1 res holder
    | none => typeCheck s n hw ecc

end Sys2Proof.Machine
end

