-- ==== Sys2Proof/Machine/CellFaults.lean ====
section
/-!
DEFINITION. Machine/CellFaults.lean: cell faults, spares, migrations, sudden swaps and cell tests (R140, R148 to R152).
-/
namespace Sys2Proof.Machine
open Sys2Proof

/-! ### Records and maps -/

/-- The logical cell that physical cell `c` of CLUSTER `n` serves. -/
def logicalOf (s : State) (n c : Nat) : Option Nat := (List.range 128).find? (fun l => rd s (Reg.CLUSTER.CELL_MAP.PHYS n l) == c)

/-- A CELL record of physical cell `c` of CLUSTER `n` (R360). -/
def cellRecord (s : State) (n c l cause outcome detB : Nat) : State :=
  report s (fCluster n) 0x05 cause outcome (packBits [(0, 8, n), (8, 8, c), (16, 7, l)]) detB

/-- LAST_FAULT of physical cell `c`. -/
def lastFault (s : State) (n c cause : Nat) : State := wr s (Reg.CLUSTER.PHYS_CELL.LAST_FAULT n c) cause

/-- The SPARE of lowest physical index that no move has taken (R149). -/
def spareOf (s : State) (n : Nat) : Option Nat := (physIn s n 2).find? (fun c => s.cells.moves.all (fun m => m.1 / 128 != n || m.2.spare != c || m.2.sudden))

/-- CELL_TEST begins on physical cell `c` (R149). -/
def testCell (s : State) (n c : Nat) : State :=
  let s := setPhys s n c 1
  { s with cells := { s.cells with tests := setKey s.cells.tests (132 * n + c) s.now } }

/-- Logical cell `l` of CLUSTER `n` is served by physical cell `c` from here on. -/
def remap (s : State) (n l c : Nat) : State :=
  cnt (cnt (wr (setPhys s n c 3) (Reg.CLUSTER.CELL_MAP.PHYS n l) c) (Reg.CLUSTER.CELL_MAP.REMAPS n l)) (Reg.CLUSTER.CL_STATUS.SWAPS n)

/-! ### Sudden swaps (R148, R151, R152) -/

/-- Everything that device cell `d` held is lost (R151): its swarm tiles without a result, its queue, its dovetails and gathers, its
ledger reservations, and its header copies, queued or under judgement. What it had emitted is still sent (R175, R178). -/
def loseCell (s : State) (d : Nat) : State :=
  let s := swarmCellLost s d
  let gone := (s.tel.copies.filter (fun c => c.behind.isSome && c.cell == d)).length +
    (match cellRun s d with | some r => b2n r.copy.isSome | none => 0)
  let s := cnt s Reg.TELEMETRY.FF_COUNT.VERDICT_LOST gone
  let mine := fun (e : Nat × Packet) => e.1 % 256 == cellPort d && targetCell e.2.h == d
  loadCell { s with inbox := s.inbox.filter (fun e => !mine e),
                    tel := { s.tel with copies := s.tel.copies.filter (fun c => !(c.behind.isSome && c.cell == d)) },
                    cells := { s.cells with ledger := s.cells.ledger.filter (fun e => !(e.1 / 512 == d && e.2.reserved)) } } d

/-- The handler in progress on device cell `l` is lost, and with it the header copy it judges (R372). -/
def loseRun (s : State) (l : Nat) : State :=
  match cellRun s l with
  | some r => endRun (if r.copy.isSome then cnt s Reg.TELEMETRY.FF_COUNT.VERDICT_LOST else s) l
  | none => s

/-- A fault of cause 2, 3, 4, 5 or 7 on an ACTIVE cell (R148, R149): a sudden swap to a SPARE, or, without one, the cell and its
CLUSTER are RETIRED (R152). A cell that already migrates is RETIRED by its migration: the fault is recorded (R178; log entry 41). -/
def cellFault (s : State) (n c cause detB : Nat) : State :=
  match clServes s n && physState s n c == 3, logicalOf s n c with
  | true, some l =>
    let d := 128 * n + l
    let s := lastFault s n c cause
    match spareOf s n with
    | some p =>
      let s := trace (loseCell (cellRecord s n c l cause 2 detB) d) (4 + n) 7 0x0800 d (imageOf s n).version
      let s := testCell (remap s n l p) n c
      { s with cells := { s.cells with moves := setKey s.cells.moves d ⟨c, p, true, s.now⟩ } }
    | none => permanentFault (setPhys (cellRecord s n c l cause 3 detB) n c 5) (fCluster n)
  | false, some l => if physState s n c = 4 then cellRecord s n c l cause 3 detB else s
  | _, none => s

/-- A fault of cause 2, 3, 4, 5 or 7 of the cell that serves device cell `d`. -/
def cellFaultAt (s : State) (d cause detB : Nat) : State := cellFault s (d / 128) (cellPhys s d) cause detB

/-- SUDDEN_SWAP_COMPLETE (R151): the spare takes events again once its INIT has run; `ecc` is the address of an uncorrectable error that the
load of its image met. -/
def execSuddenSwapComplete (l : Fin 6144) (s : State) (ecc : Option (BitVec 23) := none) : Host.Outcome State Fault Refusal :=
  .next (match findKey s.cells.moves l.val with
    | some m =>
      if m.sudden && !procAway s (4 + l.val / 128) then imageReloaded { s with cells := { s.cells with moves := delKey s.cells.moves l.val } } (l.val / 128) ecc
      else s
    | none => s)

/-- CELL_UE (R148): an uncorrectable error (causes 2 to 4), or the exception of a stock handler (cause 7), with what the record
carries. -/
def execCellUe (n : Fin 48) (c : Fin 132) (cause : BitVec 4) (detail : BitVec 48) (s : State) : Host.Outcome State Fault Refusal :=
  let k := cause.toNat
  .next (
    if k = 2 ∨ k = 3 ∨ k = 4 then cellFault (cnt s (Reg.CLUSTER.PHYS_CELL.UE_COUNT n c)) n c k 0
    else if k = 7 then cellFault (match logicalOf s n c with | some l => countException s (128 * n + l) | none => s) n c k detail.toNat
    else s)

/-- Cycles that the handler on device cell `l` has run: at least those charged, and two ftu of time each (R140). -/
def runCycles (s : State) (r : CellRun) : Nat := max r.cycles ((s.now - r.since) / 2)

/-- CELL_WATCHDOG (R140): a handler that has run for 2^WDOG_LOG2 cycles without ending. A stock handler, which the model runs whole, is the
one for the event that the cell would take next (log entry 10). -/
def execCellWatchdog (l : Fin 6144) (s : State) : Host.Outcome State Fault Refusal :=
  .next (match cellRun s l.val with
    | some r => if 2 ^ rd s (Reg.CLUSTER.CE_CFG.WDOG_LOG2 (l.val / 128)) ≤ runCycles s r then loseRun (cellFaultAt s l.val 5 0) l.val else s
    | none =>
      if clServes s (l.val / 128) && (imageOf s (l.val / 128)).stock && cellFree s l.val && (tickWaits s l.val || decide (0 < cellHeld s l.val)) then
        cellFaultAt s l.val 5 0
      else s)

/-! ### Corrected errors and migrations (R148 to R150) -/

/-- Corrected errors of a physical cell within the window. -/
def ceTimes (s : State) (n c : Nat) : List Nat :=
  ((findKey s.cells.ce (132 * n + c)).getD []).filter (fun t => decide (s.now < t + secs (rd s (Reg.CLUSTER.CE_CFG.CE_WINDOW_S n))))

/-- CELL_CE (R148): counted and scrubbed. -/
def execCellCe (n : Fin 48) (c : Fin 132) (s : State) : Host.Outcome State Fault Refusal :=
  let s := cnt s (Reg.CLUSTER.PHYS_CELL.CE_COUNT n c)
  .next { s with cells := { s.cells with ce := setKey s.cells.ce (132 * n.val + c.val) (s.now :: ceTimes s n c) } }

/-- The work of physical cell `c`, which is ACTIVE, begins to move to SPARE `p` (R149, R150). -/
def migrate (s : State) (n c l p cause : Nat) : State :=
  let s := lastFault (setPhys s n c 4) n c cause
  { s with cells := { s.cells with moves := setKey s.cells.moves (128 * n + l) ⟨c, p, false, s.now⟩ } }

/-- CELL_CE_LIMIT (R148, R149): CE_LIMIT corrected errors within the window; without a SPARE nothing is done. -/
def execCellCeLimit (n : Fin 48) (c : Fin 132) (s : State) : Host.Outcome State Fault Refusal :=
  .next (
    if physState s n c == 3 && clServes s n && decide (rd s (Reg.CLUSTER.CE_CFG.CE_LIMIT n) ≤ (ceTimes s n c).length) then
      match logicalOf s n c, spareOf s n with
      | some l, some p => cellRecord (migrate s n c l p 1) n c l 1 3 0
      | _, _ => s
    else s)

/-- Byte address of PHYS_CELL `c` of CLUSTER `n`. -/
def physAddr (n c : Nat) : Nat := 0x400800 + n * 0x10000 + c * 8

/-- RETIRE written to physical cell `c` (R149): a migration, or refused. Each write gives a CELL record. `acc` is the offset and
the width of the access, where it is not of the whole register. -/
def physRetire (s : State) (w : Writer) (n c : Nat) (acc : Nat × Nat := (physAddr n c, 8)) : State :=
  let l := (logicalOf s n c).getD 0
  let ok := physState s n c == 3 && clServes s n
  let s := cellRecord s n c (if ok then l else 0) 8 3 0
  match ok, spareOf s n with
  | true, some p => migrate s n c l p 8
  | _, _ => regError s w acc.1 acc.2 true 7

/-- PHYS_CELL_RETIRE (R149). -/
def execPhysCellRetire (w : Writer) (n : Fin 48) (c : Fin 132) (s : State) : Host.Outcome State Fault Refusal := .next (physRetire s w n c)

/-- An event waits at device cell `l` or comes to it without a packet: the stock image, and an image with an entry for it, has tick events. -/
def eventComes (s : State) (l : Nat) : Bool :=
  (imageOf s (l / 128)).stock || (imgEntry (imageOf s (l / 128)) 1).isSome || timerWaits s l || decide (0 < cellHeld s l)

/-- MIGRATION_COMPLETE (R150): the handler in progress has ended; CELL_MAP changes, and the spare, which is still SPARE, goes on with all the
work. It is ready for packets from its first event on (R133), at once where its image has none to take (DESIGN CHOICE, log entry 65). -/
def execMigrationComplete (l : Fin 6144) (s : State) : Host.Outcome State Fault Refusal :=
  .next (match findKey s.cells.moves l.val with
    | some m =>
      if m.sudden || (cellRun s l.val).isSome || procAway s (4 + l.val / 128) || physState s (l.val / 128) m.spare != 2 then s
      else
        let n := l.val / 128
        let r := cellRand s l.val
        let s := remap (setPhys s n m.from_ 5) n (l.val % 128) m.spare
        let fresh := if eventComes s l.val then l.val :: s.cells.fresh else s.cells.fresh
        let s := trace s (4 + n) 7 0x0800 l.val (imageOf s n).version
        let s := setRand { s with cells := { s.cells with moves := delKey s.cells.moves l.val, fresh := fresh } } l.val r
        if rd s (Reg.CLUSTER.PHYS_CELL.LAST_FAULT n m.from_) = 8 then cellRecord s n m.from_ (l.val % 128) 8 3 0 else s
    | none => s)

/-! ### Tests (R149) -/

/-- REINSTATE written to physical cell `c` (R149): CELL_TEST begins on a RETIRED cell, else refused. -/
def physReinstate (s : State) (w : Writer) (n c : Nat) (acc : Nat × Nat := (physAddr n c, 8)) : State :=
  let s := cellRecord s n c 0 10 0 0
  if physState s n c = 5 then
    let s := testCell s n c
    { s with cells := { s.cells with reinst := (132 * n + c) :: s.cells.reinst } }
  else regError s w acc.1 acc.2 true 7

/-- PHYS_CELL_REINSTATE (R149). -/
def execPhysCellReinstate (w : Writer) (n : Fin 48) (c : Fin 132) (s : State) : Host.Outcome State Fault Refusal := .next (physReinstate s w n c)

/-- A cell that failed its test is RETIRED (R148, R149). -/
def testFailed (s : State) (n c : Nat) : State := cellRecord (lastFault (setPhys s n c 5) n c 6) n c 0 6 3 0

/-- CELL_TEST_DONE (R149): the tested cell becomes SPARE with its error window cleared, or RETIRED. -/
def execCellTestDone (n : Fin 48) (c : Fin 132) (pass : Bool) (s : State) : Host.Outcome State Fault Refusal :=
  let k := 132 * n.val + c.val
  .next (
    if physState s n c ≠ 1 then s
    else
      let again := s.cells.reinst.contains k
      let s := { s with cells := { s.cells with tests := delKey s.cells.tests k, reinst := s.cells.reinst.filter (fun x => x != k) } }
      if pass then
        let s := setPhys { s with cells := { s.cells with ce := delKey s.cells.ce k, tested := setKey s.cells.tested k s.now } } n c 2
        if again then cellRecord s n c 0 10 0 0 else s
      else testFailed s n c)

/-- SPARE_PERIODIC_TEST (R149): every 600 s of a spare that no migration is filling (log entry 41). -/
def execSparePeriodicTest (n : Fin 48) (c : Fin 132) (pass : Bool) (s : State) : Host.Outcome State Fault Refusal :=
  let k := 132 * n.val + c.val
  let due := match findKey s.cells.tested k with | some t => decide (t + secs 600 ≤ s.now) | none => true
  let free := s.cells.moves.all (fun m => m.1 / 128 != n.val || m.2.spare != c.val || m.2.sudden)
  .next (
    if physState s n c == 2 && due && free then
      let s := { s with cells := { s.cells with tested := setKey s.cells.tested k s.now } }
      if pass then s else testFailed s n c
    else s)

end Sys2Proof.Machine
end

