-- ==== Sys2Proof/Machine/Ownership.lean ====
section
/-!
DEFINITION. Machine/Ownership.lean: the stock module OWNERSHIP (R294 to R296): ownership records of a logical cell and the four
operations on them.
-/
namespace Sys2Proof.Machine
open Sys2Proof

/-- The eight ways of a region base in the records of device cell `l` (R294). -/
def ownWays (l base : Nat) : List Nat :=
  let b := crc32c (leBytes 8 (base / 64)) % 128
  (List.range 8).map (fun w => 1024 * l + 8 * b + w)

/-- The record of a region base, with its way. -/
def ownFind (s : State) (l base : Nat) : Option (Nat × OwnRec) :=
  ((ownWays l base).filterMap (fun k => (findKey s.cells.owned k).map (fun e => (k, e)))).find? (fun e => e.2.base == base)

/-- The 256 bits of an ownership record (R294). -/
def ownBits (r : OwnRec) : Nat :=
  packBits [(0, 60, r.base), (64, 12, r.tenant), (76, 12, r.owner), (128, 64, r.version), (192, 64, r.changed)]

/-- A record written and mirrored (R294). -/
def ownWrite (s : State) (k : Nat) (r : OwnRec) : State :=
  let r := { r with changed := s.time.toNat }
  hbmWr { s with cells := { s.cells with owned := setKey s.cells.owned k r } } (ownMirror s k)
    (leBytes 32 (ownBits r))

/-- The answer to an OWN, counted: OPS, CONFLICTS for NOT_OWNER and STALE_VERSION; a mutating one's ledger entry first (R296). -/
def ownAnswer (s : State) (l : Nat) (h : Hdr) (cc detail res res2 : Nat) : State :=
  let s := cnt s Reg.EXTENT.OWN_COUNT.OPS
  let s := if cc = ccNotOwner ∨ cc = ccStaleVersion then cnt s Reg.EXTENT.OWN_COUNT.CONFLICTS else s
  cellAnswer (ledWrite s l h cc res) l h cc detail res res2

/-- The owner of a record, or 0xFFF. -/
def ownerOf : Option (Nat × OwnRec) → Nat
  | some r => r.2.owner
  | none => 0xFFF

/-- Its version, or 0. -/
def versionOf : Option (Nat × OwnRec) → Nat
  | some r => r.2.version
  | none => 0

/-- QUERY (R295). -/
def ownQuery (s : State) (l : Nat) (h : Hdr) : State :=
  let r := ownFind s l h.addr.toNat
  ownAnswer s l h ccOk 0 (versionOf r) (ownerOf r)

/-- ACQUIRE (R295). -/
def ownAcquire (s : State) (l : Nat) (h : Hdr) : State :=
  let src := h.src.toNat
  match ownFind s l h.addr.toNat with
  | none =>
    (match (ownWays l h.addr.toNat).find? (fun k => (findKey s.cells.owned k).isNone) with
     | some k => ownAnswer (ownWrite s k { base := h.addr.toNat, tenant := h.tenant.toNat, owner := src, version := 0, changed := 0 }) l h ccOk 0 0 src
     | none => ownAnswer (cnt s Reg.EXTENT.OWN_COUNT.BUCKET_FULL) l h ccUnsupported 0 0 0)
  | some (k, r) =>
    if r.owner = 0xFFF ∨ r.owner = src then ownAnswer (ownWrite s k { r with owner := src }) l h ccOk 0 r.version src
    else ownAnswer s l h ccNotOwner 0 r.version r.owner

/-- RELEASE (R295). -/
def ownRelease (s : State) (l : Nat) (h : Hdr) : State :=
  match ownFind s l h.addr.toNat with
  | some (k, r) =>
    if r.owner = h.src.toNat then ownAnswer (ownWrite s k { r with owner := 0xFFF }) l h ccOk 0 r.version 0xFFF
    else ownAnswer s l h ccNotOwner 0 r.version r.owner
  | none => ownAnswer s l h ccNotOwner 0 0 0xFFF

/-- PUBLISH (R295). -/
def ownPublish (s : State) (l : Nat) (h : Hdr) : State :=
  match ownFind s l h.addr.toNat with
  | some (k, r) =>
    if r.owner ≠ h.src.toNat then ownAnswer s l h ccNotOwner 0 r.version r.owner
    else if h.x 64 64 ≠ r.version then ownAnswer s l h ccStaleVersion 0 r.version r.owner
    else ownAnswer (ownWrite s k { r with version := (r.version + 1) % 2 ^ 64 }) l h ccOk 0 ((r.version + 1) % 2 ^ 64) r.owner
  | none => ownAnswer s l h ccNotOwner 0 0 0xFFF

/-- RESULT2 of a retry that the ledger answers (R296). -/
def ownRebuilt (s : State) (l : Nat) (h : Hdr) (cc : Nat) : Nat :=
  if cc = ccOk then (if h.x 32 4 = 2 then 0xFFF else h.src.toNat)
  else if cc = ccNotOwner ∨ cc = ccStaleVersion then ownerOf (ownFind s l h.addr.toNat) else 0

/-- An OWN served: the record's tenant first, then its operation (R295). -/
def ownDo (s : State) (l : Nat) (h : Hdr) : State :=
  let denied := match ownFind s l h.addr.toNat with
    | some r => decide (r.2.tenant ≠ h.tenant.toNat)
    | none => false
  if denied then ownAnswer s l h ccDenied 2 0 0
  else
    match h.x 32 4 with
    | 0 => ownQuery s l h
    | 1 => ownAcquire s l h
    | 2 => ownRelease s l h
    | _ => ownPublish s l h

/-- An OWN with its ledger entry; none where it takes one and its bucket is full (R296). -/
def placeOwn (s : State) (l : Nat) (h : Hdr) : Option State :=
  if h.x 32 4 = 0 then some (ownDo s l h) else (ledReserve s l h).map (fun s => ownDo s l h)

end Sys2Proof.Machine
end

