-- ==== Sys2Proof/Machine/Combine.lean ====
section
/-!
DEFINITION. Machine/Combine.lean: the stock modules COMBINE and GATHER in a logical cell (R220 to R241): dovetails, the parked
list and open gathers; and the events that reach OWNERSHIP (R294 to R296).
-/
namespace Sys2Proof.Machine
open Sys2Proof

/-! ### Dovetails (R221 to R228) -/

/-- The class of a homed request (R220): 0 READ, 1 ADD, 2 SINGLE. -/
def combClass (h : Hdr) : Nat :=
  if h.k == some .read then (if h.vol then 2 else 0) else if h.comb && decide (h.x 32 4 ≤ 1) then 1 else 2

/-- Constituents of a dovetail. -/
def Dove.members (d : Dove) : List Hdr := d.batch ++ d.gathering

/-- Request `h` of class `cls` may join dovetail `d` (R222, R223, R224). -/
def joins (s : State) (cls : Nat) (h : Hdr) (d : Dove) : Bool :=
  rdb s Reg.COMBINE.COMB_CFG.COMB_EN && d.cls == cls && decide (d.members.length < 64) && d.h.addr == h.addr &&
  d.h.tenant == h.tenant && d.h.epoch == h.epoch && d.h.xgen == h.xgen &&
  (if cls = 0 then !d.closed && d.h.len == h.len else d.h.x 32 5 == h.x 32 5)

/-- The onward request of a dovetail (R228, R239). -/
def onward (s : State) (l : Nat) (d : Dove) : Packet :=
  let h := d.h
  let cookie := packBits [(12, 4, if d.cls = 3 then 4 else 1), (16, 8, l % 128), (24, 8, cellPort l - 128)]
  let ext := h.ext.toNat - h.x 0 32 + cookie
  let ext := if d.cls = 1 then ext - (h.x 64 64 <<< 64) + (d.operand <<< 64) else ext
  { h := { dest := BitVec.ofNat 12 h.ep, src := BitVec.ofNat 12 (serviceId s), tenant := h.tenant, kind := h.kind,
           tc := if d.cls = 3 then 3 else 1, len := h.len, tag := BitVec.ofNat 16 d.tag, epoch := h.epoch, xgen := h.xgen,
           attr := BitVec.ofNat 8 (h.attr.toNat % 16 + (if 2 ≤ d.attempts then 64 else 0)), addr := h.addr, ext := BitVec.ofNat 256 ext } }

/-- An attempt of dovetail `d` queued; an onward ATOMIC closes the open READ dovetails of its granule (R224). -/
def pushOnward (s : State) (l : Nat) (d : Dove) : State :=
  let c := comb s l
  let s := if d.h.k == some .atomic then
      setComb s l { c with doves := c.doves.map (fun x => if x.cls = 0 ∧ x.h.addr.toNat / 64 = d.h.addr.toNat / 64 then { x with closed := true } else x) }
    else s
  pushReply s l (onward s l d)

/-- A dovetail opened, its first attempt queued and counted. -/
def openDove (s : State) (l cls : Nat) (h : Hdr) (rows : List Nat) : State :=
  let t := newTag s l
  let d : Dove := { cls := cls, h := h, batch := if cls = 3 then [] else [h], rows := rows, tag := t, sentAt := s.now, operand := h.x 64 64 }
  let c := comb s l
  pushOnward (cnt (setComb s l { c with doves := c.doves ++ [d], tagNext := (t + 1) % 65536 }) Reg.COMBINE.COMB_COUNT_B.ONWARD_ISSUED) l d

/-- A homed request placed in a dovetail, with a ledger way for an ATOMIC; none where it cannot be (R221, R222, R232). -/
def placeHomed (s : State) (l : Nat) (h : Hdr) : Option State :=
  let cls := combClass h
  let c := comb s l
  match (if cls ≤ 1 then c.doves.find? (joins s cls h) else none) with
  | some d =>
    if cls = 0 then some (cnt (setDove s l { d with batch := d.batch ++ [h] }) Reg.COMBINE.COMB_COUNT_A.JOINED_READS)
    else (ledReserve s l h).map (fun s => cnt (setDove s l { d with gathering := d.gathering ++ [h] }) Reg.COMBINE.COMB_COUNT_A.JOINED_ADDS)
  | none =>
    if 32 ≤ c.doves.length then none
    else if h.k == some .atomic then (ledReserve s l h).map (fun s => openDove s l cls h [])
    else some (openDove s l cls h [])

/-! ### Gathers (R237 to R241) -/

/-- The list entries of a GATHER_LIST tile (R73): an FPA in bits 59:0 of each; the rest is ignored (R50). -/
def gatherRows (t : List Byte) : List Nat := (List.range (tileField t 192 8)).map (fun i => ofLeBytes (sliceBytes (tileData t) (8 * i) 8) % 2 ^ 60)

/-- Whole blocks of a row of an MX format; 0 otherwise (R237). -/
def rowBlocks (fmt n : Nat) : Nat := if Num.isMx fmt then n / (4 * Num.elemBits fmt + 1) else 0

/-- A gather request that R237 and R238 refuse. -/
def gatherBad (s : State) (p : Packet) : Bool :=
  let t := p.payload
  let fmt := tileFmt t
  let n := tileField t 200 12
  let g := tileField t 192 8
  let b := rowBlocks fmt n
  fmt == 14 || fmt == 15 || tileKind t != 3 || g == 0 || decide (64 < g) || n == 0 || decide (2048 < n) || tileValid t != 8 * g ||
  p.h.dest.toNat != serviceId s ||
  (if Num.isMx fmt then n != b * (4 * Num.elemBits fmt + 1) || decide (Num.mxLimit fmt < b) || (gatherRows t).any (fun r => r % 8 != 0)
   else n % (Num.elemBits fmt / 8) != 0 || (gatherRows t).any (fun r => r % (Num.elemBits fmt / 8) != 0))

/-- The READ_BULK of a row, before its onward fields (R239). -/
def rowHdr (g : Gather) (row : Nat) : Hdr :=
  { kind := Kind.readBulk.code, tenant := g.h.tenant, epoch := g.h.epoch, xgen := g.h.xgen, addr := BitVec.ofNat 60 row,
    ext := mkExt [(64, 12, g.rowBytes)] }

/-- A row read of gather `g` may join dovetail `d` (R222, R239). -/
def rowJoins (s : State) (g : Gather) (row : Nat) (d : Dove) : Bool :=
  rdb s Reg.COMBINE.COMB_CFG.COMB_EN && d.cls == 3 && d.h.addr.toNat == row && d.h.x 64 12 == g.rowBytes && d.h.tenant == g.h.tenant &&
  d.h.epoch == g.h.epoch && d.h.xgen == g.h.xgen

/-- One row of gather `id` asked for, where a dovetail can be had. -/
def askRow (l id : Nat) (s : State) (row : Nat) : State :=
  let c := comb s l
  match c.gathers.find? (fun g => g.id == id) with
  | none => s
  | some g =>
    let asked := { c with gathers := c.gathers.map (fun x => if x.id = id then { x with todo := x.todo.erase row, left := x.left ++ [row] } else x) }
    match c.doves.find? (rowJoins s g row) with
    | some d => setDove (cnt (setComb s l asked) Reg.COMBINE.COMB_COUNT_D.ROW_JOINS) l { d with rows := d.rows ++ [id] }
    | none => if 32 ≤ c.doves.length then s else openDove (setComb s l asked) l 3 (rowHdr g row) [id]

/-- Every row not yet asked for, gather by gather. -/
def askRows (s : State) (l : Nat) : State :=
  (comb s l).gathers.foldl (fun s g => g.todo.foldl (askRow l g.id) s) s

/-- A gather opened; none while 8 are open (R239). -/
def placeGather (s : State) (l : Nat) (p : Packet) : Option State :=
  let c := comb s l
  if 8 ≤ c.gathers.length then none
  else
    let rows := gatherRows p.payload
    let g : Gather := { id := c.gatherNext, h := p.h, fmt := tileFmt p.payload, rowBytes := tileField p.payload 200 12, rows := rows, todo := rows.eraseDups, left := [] }
    some (askRows (setComb s l { c with gathers := c.gathers ++ [g], gatherNext := c.gatherNext + 1 }) l)

/-- Row data, zero past the row's bytes (R239). -/
def rowData (n : Nat) (d : List Byte) : List Byte := padTo 2048 (padTo n d)

/-- The row data added `k` times to an accumulator; the first copy is taken as it is (R239, R192). -/
def sumRow (s : State) (l : Nat) (g : Gather) (d : List Byte) : Nat → Option (List Byte) → Option (List Byte)
  | 0, acc => acc
  | k + 1, none => sumRow s l g d k (some d)
  | k + 1, some a => sumRow s l g d k (some (Num.tileAdd g.fmt 0 (rowBlocks g.fmt g.rowBytes) a d (cellRand s l)).1)

/-- A gather whose rows have all arrived is answered (R240). -/
def gatherDone (s : State) (l : Nat) (g : Gather) : State :=
  let c := comb s l
  let s := cnt (setComb s l { c with gathers := c.gathers.filter (fun x => x.id != g.id) }) Reg.COMBINE.COMB_COUNT_D.GATHERS_DONE
  match g.bad with
  | some b => cellAnswer s l g.h b.2.1 b.2.2 0 0
  | none =>
    let t := mkTile [(64, 4, g.fmt), (68, 4, 4), (72, 8, rowBlocks g.fmt g.rowBytes), (80, 12, g.rowBytes)] (g.acc.getD [])
    cellAnswer s l g.h ccOk 0 0 0 t 0x3FF

/-- A row's response for one gather (R239, R240). -/
def rowFor (l row cc detail : Nat) (data : List Byte) (s : State) (id : Nat) : State :=
  let c := comb s l
  match c.gathers.find? (fun g => g.id == id) with
  | none => s
  | some g =>
    let i := g.rows.findIdx (fun r => r == row)
    let bad := if cc = 0 then g.bad else match g.bad with
      | some b => if i < b.1 then some (i, cc, detail) else some b
      | none => some (i, cc, detail)
    let acc := if cc = 0 then sumRow s l g (rowData g.rowBytes data) (g.rows.count row) g.acc else g.acc
    let g := { g with left := g.left.erase row, bad := bad, acc := acc }
    if g.left.isEmpty && g.todo.isEmpty then gatherDone s l g
    else setComb s l { c with gathers := c.gathers.map (fun x => if x.id = id then g else x) }

/-! ### Parking (R233) -/

/-- A request placed: a gather opened, an OWN served, or a homed request in a dovetail. -/
def place (s : State) (l : Nat) (p : Packet) : Option State :=
  if p.h.k == some .gather then placeGather s l p else if p.h.k == some .own then placeOwn s l p.h else placeHomed s l p.h

/-- LEDGER_FULL_TICKS counts a tick in which a cell parks an ATOMIC for want of a way (R242). -/
def ledFull (s : State) (l : Nat) (h : Hdr) : State :=
  if h.k == some .atomic && (ledReserve s l h).isNone && s.cells.fullTick != some (tickNo s) then
    cnt { s with cells := { s.cells with fullTick := some (tickNo s) } } Reg.COMBINE.COMB_STATUS.LEDGER_FULL_TICKS
  else s

/-- A request placed, else parked; discarded and counted where 256 are parked (R233). -/
def placeOrPark (s : State) (l : Nat) (p : Packet) : State :=
  match place s l p with
  | some t => t
  | none =>
    let c := comb s l
    if 256 ≤ c.parked.length then cnt s Reg.COMBINE.COMB_COUNT_C.PARK_DISCARDS
    else ledFull (setComb s l { c with parked := c.parked ++ [p] }) l p.h

/-- Parked requests that can now be placed, the earliest first (R233). -/
def unpark (s : State) (l : Nat) : State :=
  (comb s l).parked.foldl (fun s p =>
    match place s l p with
    | some t => setComb t l { comb t l with parked := (comb t l).parked.erase p }
    | none => s) s

/-- Freed dovetails and ways put to use: parked requests first (R233), then the rows that gathers have not asked for. -/
def reuse (s : State) (l : Nat) : State := askRows (unpark s l) l

/-- The (SRC, TAG) of `h` is a constituent of an open dovetail or of an open gather, or parked (R234, R241). -/
def absorbed (s : State) (l : Nat) (h : Hdr) : Bool :=
  let same := fun (x : Hdr) => x.src == h.src && x.tag == h.tag
  let c := comb s l
  c.doves.any (fun d => d.members.any same) || c.gathers.any (fun g => same g.h) || c.parked.any (fun p => same p.h)

/-! ### HOMED_REQ and GATHER -/

/-- A mutating retry resolved (R234): `again` handles it as new, `hit` answers it from its entry. A way that it frees goes to the earliest
parked request that can take it (R233). -/
def retryLedger (s : State) (l : Nat) (h : Hdr) (again : State → State) (hit : State → Ledger → State) : State :=
  match ledFind s l h false with
  | some (k, e) => if e.ccode = 0xFF then again (reuse (freeLedger s k) l) else hit (cnt s Reg.COMBINE.COMB_COUNT_C.LEDGER_HITS) e
  | none => cellAnswer (cnt s Reg.COMBINE.COMB_COUNT_C.RETRY_STALE_SENT) l h ccRetryStale 0 0 0

/-- A homed READ or ATOMIC at its home cell (R220, R234). -/
def homedReq (s : State) (l : Nat) (h : Hdr) : State :=
  let s :=
    if h.k == some .atomic && atomicBad h then cellAnswer s l h ccUnsupported 0 0 0
    else if absorbed s l h then s
    else if h.k == some .atomic && h.retry then
      retryLedger s l h (fun s => placeOrPark s l { h := h }) (fun s e => cellAnswer s l h e.ccode 0 e.result 0)
    else placeOrPark s l { h := h }
  flushReplies s l

/-- HOMED_REQ (R220): a homed READ or ATOMIC in the arrival queue of its home cell; `ecc` is the address of an uncorrectable error of shared
SRAM that its lookup meets, for whose repair it waits. -/
def execHomedReq (p : Packet) (s : State) (ecc : Option (BitVec 23) := none) : Host.Outcome State Fault Refusal :=
  let l := homeCell p.h.addr.toNat
  .next (if p.h.homed && p.h.k != some .own && !repairWaits s l ecc then cellEvent s l 3 p (fun s => homedReq (repaired s l ecc) l p.h) else s)

/-- A GATHER at its cell (R238, R239, R241). -/
def gatherReq (s : State) (l : Nat) (p : Packet) : State :=
  let s :=
    if gatherBad s p then cellAnswer (cnt s Reg.COMBINE.COMB_COUNT_D.GATHERS_DONE) l p.h ccUnsupported 0 0 0
    else if p.h.retry && absorbed s l p.h then s
    else placeOrPark s l p
  flushReplies s l

/-- GATHER (R239). -/
def execGather (p : Packet) (s : State) : Host.Outcome State Fault Refusal :=
  let l := gatherCell p.h.src.toNat p.h.tag.toNat
  .next (if p.h.k == some .gather then cellEvent s l 7 p (fun s => gatherReq s l p) else s)

/-! ### RESPONSE and the end of attempts (R223, R225, R226, R228) -/

/-- The sum of two operands of an ADD dovetail (R226). -/
def combAdd (h : Hdr) (a b : Nat) : Nat := if h.x 32 4 = 1 then Num.fadd32 (a % 2 ^ 32) (b % 2 ^ 32) else (a + b) % 2 ^ (8 * atomBytes h)

/-- The operand of a constituent. -/
def combOperand (h : Hdr) : Nat := h.x 64 64 % 2 ^ (8 * atomBytes h)

/-- The running sums that follow `x` over operands (R226). -/
def sumsFrom (h : Hdr) : Nat → List Nat → List Nat
  | _, [] => []
  | x, b :: l => combAdd h x b :: sumsFrom h (combAdd h x b) l

/-- The running sums S1, S2, … of a batch (R226). -/
def runSums (h : Hdr) : List Nat → List Nat
  | [] => []
  | a :: l => a :: sumsFrom h a l

/-- Every constituent of a list answered with its result, an ATOMIC's ledger entry first (R226, R231). -/
def answerBatch (s : State) (l cc detail res2 : Nat) (payload : List Byte) (len : Nat) : List (Hdr × Nat) → State
  | [] => s
  | (h, r) :: rest =>
    let s := if h.k == some .atomic then ledWrite s l h cc r else s
    answerBatch (cellAnswer s l h cc detail r res2 payload len) l cc detail res2 payload len rest

/-- ATOMIC constituents recorded UNAPPLIED and dropped unanswered (R228). -/
def unapplied (s : State) (l : Nat) (hs : List Hdr) : State :=
  hs.foldl (fun s h => if h.k == some .atomic then ledWrite s l h 0xFF 0 else s) s

/-- The results of a batch for the old value `v` of an OK response (R226). -/
def batchResults (d : Dove) (v : Nat) : List Nat :=
  if d.cls = 1 then
    match d.batch.map combOperand with
    | [] => []
    | a :: ops => v :: ((runSums d.h (a :: ops)).take ops.length).map (fun x => combAdd d.h v x)
  else d.batch.map (fun _ => v)

/-- The gathering batch, if any, becomes the in-flight batch and its onward ATOMIC is queued; else the dovetail is freed (R225). -/
def nextBatch (s : State) (l : Nat) (d : Dove) : State :=
  if d.gathering.isEmpty then freeDove s l d
  else
    let t := newTag s l
    let n : Dove := { d with batch := d.gathering, gathering := [], tag := t, attempts := 1, timedOut := false, sentAt := s.now,
                             operand := ((runSums d.h (d.gathering.map combOperand)).getLast?).getD 0 }
    let c := comb s l
    let s := setComb s l (spendTag s d { c with doves := c.doves.map (fun x => if x.tag = d.tag then n else x), tagNext := (t + 1) % 65536 })
    pushOnward (cnt s Reg.COMBINE.COMB_COUNT_B.ONWARD_ISSUED) l n

/-- The response of a dovetail's attempt. -/
def doveAnswered (s : State) (l : Nat) (d : Dove) (p : Packet) : State :=
  let cc := p.h.x 32 8
  let detail := p.h.x 40 8
  if d.cls = 3 then d.rows.foldl (rowFor l d.h.addr.toNat cc detail (tileData p.payload)) (freeDove s l d)
  else
    let rs := if cc = 0 then batchResults d (p.h.x 64 64) else d.batch.map (fun _ => 0)
    answerBatch (nextBatch s l d) l cc detail (if cc = 0 && d.cls != 1 then p.h.x 128 64 else 0) p.payload p.h.len.toNat (d.batch.zip rs)

/-- The dovetail's three attempts have drawn no response (R228). -/
def doveFailed (s : State) (l : Nat) (d : Dove) : State :=
  let s := cnt (freeDove s l d) Reg.COMBINE.COMB_COUNT_B.ONWARD_FAILED
  let c := comb s l
  if d.cls = 3 then setComb s l { c with gathers := c.gathers.filter (fun g => !d.rows.contains g.id) }
  else if d.h.k == some .atomic && d.timedOut then
    answerBatch (unapplied s l d.gathering) l ccIndeterminate 0 0 [] 0 (d.batch.map (fun h => (h, 0)))
  else unapplied s l d.members

/-- An attempt of dovetail `d` has ended without a response: the next attempt, or the end of the dovetail (R228). -/
def attemptEnded (s : State) (l : Nat) (d : Dove) : State :=
  if d.attempts < 3 then
    let d := { d with attempts := d.attempts + 1 }
    pushOnward (setDove s l d) l d
  else doveFailed s l d

/-- The dovetail of module `m` with an attempt outstanding under TAG `t`. -/
def doveOut (s : State) (l m t : Nat) : Option Dove :=
  let c := comb s l
  if c.replies.any (fun p => p.h.src.toNat == serviceId s && p.h.tag.toNat == t && isOnward p) then none
  else c.doves.find? (fun d => d.tag == t && (if d.cls = 3 then 4 else 1) == m)

/-- COOKIE of a response, or ORIG_COOKIE of an UNREACHABLE notice. -/
def respCookie (h : Hdr) : Nat := if h.k == some .notice then h.x 64 32 else h.cookie

/-- When the attempt of a dovetail expires (R228). -/
def onwardEnds (s : State) (d : Dove) : Nat := d.sentAt + us (rd s Reg.COMBINE.COMB_CFG.ONWARD_ATTEMPT_US)

/-- Packet `p` is a response or an UNREACHABLE notice for the attempt of dovetail `d` of device cell `l`, stamped before the attempt expires
(R97). -/
def answersInTime (s : State) (l : Nat) (d : Dove) (p : Packet) : Bool :=
  (match p.h.k with | some .notice => p.h.x 0 8 == 1 | some k => k.isResponse | none => false) && cookieCell (respCookie p.h) == l &&
    bits (respCookie p.h) 12 4 == (if d.cls = 3 then 4 else 1) && p.h.tag.toNat == d.tag && decide (stampedAt s p < onwardEnds s d)

/-- A response or UNREACHABLE notice at device cell `l` (R228); for one stamped past the attempt's expiry the timeout came first (R97), and it
names no outstanding attempt. -/
def cellResponse (s : State) (l : Nat) (p : Packet) : State :=
  match doveOut s l (bits (respCookie p.h) 12 4) p.h.tag.toNat with
  | none => flushReplies (cnt s (Reg.CLUSTER.CL_COUNT_B.NO_ENTRY (l / 128))) l
  | some d =>
    if onwardEnds s d ≤ stampedAt s p then
      flushReplies (reuse (cnt (attemptEnded s l { d with timedOut := true }) (Reg.CLUSTER.CL_COUNT_B.NO_ENTRY (l / 128))) l) l
    else flushReplies (reuse (if p.h.k == some .notice then attemptEnded s l d else doveAnswered s l d p) l) l

/-- RESPONSE (R228): delivered to the logical cell that its COOKIE names, discarded where that disagrees with the port half (R135). -/
def execResponse (p : Packet) (s : State) : Host.Outcome State Fault Refusal :=
  let c := respCookie p.h
  let x := 128 + bits c 24 8
  let l := cookieCell c
  let mine := (match p.h.k with | some .notice => p.h.x 0 8 == 1 | some k => k.isResponse | none => false) && decide (x < 224)
  .next (
    if !mine then s
    else if 128 ≤ bits c 16 8 || cellPort l ≠ x then
      received s x p (fun s => cnt s (Reg.CLUSTER.CL_COUNT_B.MISDELIVERED ((x - 128) / 2)))
    else cellEvent s l 4 p (fun s => cellResponse s l p))

/-- The stock image of device cell `l` can act now. -/
def stockActs (s : State) (l : Nat) : Bool := clServes s (l / 128) && cellFree s l && (imageOf s (l / 128)).stock

/-- ONWARD_ATTEMPT_TIMEOUT (R228): without effect before ONWARD_ATTEMPT_US have passed (R16), while an answer stamped before the expiry is on its
way (R97), and while the cell's egress queue has no room for its handler's emits (R134). -/
def execOnwardAttemptTimeout (l : Fin 6144) (tag : BitVec 16) (s : State) : Host.Outcome State Fault Refusal :=
  let c := comb s l.val
  .next (match c.doves.find? (fun d => d.tag == tag.toNat) with
    | some d =>
      if stockActs s l.val && emitRoom s l.val 1 && (doveOut s l.val (if d.cls = 3 then 4 else 1) tag.toNat).isSome &&
          decide (onwardEnds s d ≤ s.now) && !(onWay s (cellPort l.val)).any (answersInTime s l.val d) then
        flushReplies (reuse (attemptEnded s l.val { d with timedOut := true }) l.val) l.val
      else s
    | none => s)

/-- LEDGER_ENTRY_EXPIRE (R232): a way whose hold is over is released, and parked requests may take it. -/
def execLedgerEntryExpire (l : Fin 6144) (way : BitVec 9) (s : State) : Host.Outcome State Fault Refusal :=
  let k := 512 * l.val + way.toNat
  .next (match findKey s.cells.ledger k with
    | some e => if ledOver s e then flushReplies (reuse (freeLedger s k) l.val) l.val else s
    | none => s)

/-! ### OWN (R295, R296) -/

/-- An OWN at its home cell: alignment first, then the ledger for a mutating retry. -/
def ownServe (s : State) (l : Nat) (h : Hdr) : State :=
  let s :=
    if h.addr.toNat % 64 ≠ 0 ∨ 3 < h.x 32 4 then cellAnswer (cnt s Reg.EXTENT.OWN_COUNT.OPS) l h ccUnsupported 0 0 0
    else if h.x 32 4 ≠ 0 ∧ absorbed s l h then s
    else if h.x 32 4 ≠ 0 ∧ h.retry then
      retryLedger s l h (fun s => placeOrPark s l { h := h })
        (fun s e => cellAnswer (cnt s Reg.EXTENT.OWN_COUNT.OPS) l h e.ccode 0 e.result (ownRebuilt s l h e.ccode))
    else placeOrPark s l { h := h }
  flushReplies s l

/-- An OWN packet with an OOP: in the arrival queue of its home cell, or at the target that it names, which relays it (R78) or answers it (R24);
`ecc` as in HOMED_REQ. -/
def ownEvent (s : State) (p : Packet) (ecc : Option (BitVec 23)) (oop : Nat → Bool) : State :=
  let l := homeCell p.h.addr.toNat
  if p.h.k == some .own && oop (p.h.x 32 4) then
    match [224, 225, 226, 227].find? (fun x => s.inbox.contains (x, p)) with
    | some x => targetArrive s x p .own
    | none => if repairWaits s l ecc then s else cellEvent s l 8 p (fun s => ownServe (repaired s l ecc) l p.h)
  else s

/-- OWN_QUERY (R295); a reserved OOP completes UNSUPPORTED here (R66). -/
def execOwnQuery (p : Packet) (s : State) (ecc : Option (BitVec 23) := none) : Host.Outcome State Fault Refusal := .next (ownEvent s p ecc (fun o => o == 0 || decide (3 < o)))
/-- OWN_ACQUIRE (R295). -/
def execOwnAcquire (p : Packet) (s : State) (ecc : Option (BitVec 23) := none) : Host.Outcome State Fault Refusal := .next (ownEvent s p ecc (fun o => o == 1))
/-- OWN_RELEASE (R295). -/
def execOwnRelease (p : Packet) (s : State) (ecc : Option (BitVec 23) := none) : Host.Outcome State Fault Refusal := .next (ownEvent s p ecc (fun o => o == 2))
/-- OWN_PUBLISH (R295). -/
def execOwnPublish (p : Packet) (s : State) (ecc : Option (BitVec 23) := none) : Host.Outcome State Fault Refusal := .next (ownEvent s p ecc (fun o => o == 3))

end Sys2Proof.Machine
end

