-- ==== Sys2Proof/Machine/Copies.lean ====
section
/-!
DEFINITION. Machine/Copies.lean: header copies at their cell (R372), firefly records (R373) and the mirror table (R374).
-/
namespace Sys2Proof.Machine
open Sys2Proof

/-- The firefly record of copy `c` with verdict `v` and index `seq`, without its CRC (R373). -/
def ffDraft (c : HdrCopy) (v seq : Nat) : List Byte :=
  leBytes 64 (hdrBits { c.h with stamp := BitVec.ofNat 24 c.stamp }) ++ leBytes 8 c.stamp ++ leBytes 1 c.inp ++ leBytes 1 c.out ++
  leBytes 1 (packBits [(0, 3, c.filter), (4, 2, v)]) ++ leBytes 1 0 ++ leBytes 4 (min (c.ahead / 1024) (2 ^ 32 - 1)) ++ leBytes 8 seq ++ List.replicate 36 0

/-- The record with its CRC (R74, R373). -/
def ffRecord (c : HdrCopy) (v seq : Nat) : List Byte := ffDraft c v seq ++ leBytes 4 (crc32c (ffDraft c v seq))

/-- A record written at its place in the firefly region, with its pulse (R373); a full ring stops under STOP_ON_WRAP. -/
def ffWrite (s : State) (c : HdrCopy) (v : Nat) : State :=
  let i := rd s Reg.TELEMETRY.FF_WRITE_INDEX.NEXT
  if rdb s Reg.TELEMETRY.FF_STATUS.STOPPED then s
  else if rdb s Reg.TELEMETRY.FF_CFG.STOP_ON_WRAP && decide (8388608 ≤ i) then wr s Reg.TELEMETRY.FF_STATUS.STOPPED 1
  else
    let s := hbmWr s (rd s Reg.TELEMETRY.FF_CFG.FF_REGION * 2 ^ 30 + i % 8388608 * 128) (ffRecord c v i)
    let s := bump (wr s Reg.TELEMETRY.FF_WRITE_INDEX.NEXT (i + 1)) (ctrNo 0x30 5)
    if rdb s Reg.TELEMETRY.FF_CFG.PULSE_EN then wr s (Reg.MGMT.GPIO_CTL.OUT (rd s Reg.TELEMETRY.FF_CFG.PULSE_PIN)) 1 else s

/-- FLOWS brought up to date (R374). -/
def ffFlows (s : State) : State := wr s Reg.TELEMETRY.FF_STATUS.FLOWS s.tel.mirror.length

/-- The verdict on a copy (R372, R374): 1 RECORD, 2 RECORD_AND_MIRROR, any other value discards it. -/
def ffVerdict (s : State) (c : HdrCopy) (v : Nat) : State :=
  let key := flowKey c.h.src.toNat c.h.dest.toNat c.h.tenant.toNat
  if v = 1 then ffWrite s c 1
  else if v = 2 then
    if (findKey s.tel.mirror key).isNone && decide (1024 ≤ s.tel.mirror.length) then cnt s Reg.TELEMETRY.FF_COUNT.MIRROR_TABLE_FULL
    else ffFlows { ffWrite s c 2 with tel := { (ffWrite s c 2).tel with mirror := setKey (ffWrite s c 2).tel.mirror key (tickNo s) } }
  else s

/-- A copy handed to its cell (R372): the stock MIRROR_SELECT gives the filter's ACTION; another image starts a handler, or
discards the copy where it has no entry (R136). -/
def copyEvent (s : State) (c : HdrCopy) : State :=
  let l := c.cell
  let i := imageOf s (l / 128)
  let area := ffDraft c 0 0
  if i.stock then stockHandler s l area (fun s =>
    ffVerdict (localWr s l 128 (leBytes 1 (rd s (Reg.TELEMETRY.FF_FILTER.ACTION c.filter)))) c (rd s (Reg.TELEMETRY.FF_FILTER.ACTION c.filter)))
  else
    match imgEntry i 10 with
    | some e =>
      let s := startHandler s l 10 c.stamp area none e
      (match cellRun s l with | some r => setRun s l { r with copy := some c } | none => s)
    | none => cnt s (Reg.CLUSTER.CL_COUNT_B.NO_ENTRY (l / 128))

/-- The copy at place `n` of those that wait or stand in arrival queues removed. -/
def dropCopy (s : State) (n : Nat) : State := { s with tel := { s.tel with copies := s.tel.copies.eraseIdx n } }

/-- A copy delivered (R133): it takes an arrival entry of its cell behind the packets there, and comes last of all copies. -/
def deliverCopy (s : State) (n : Nat) (c : HdrCopy) : State :=
  { s with tel := { s.tel with copies := s.tel.copies.eraseIdx n ++ [{ c with behind := some (cellQueue s c.cell).length }] } }

/-- The copy of number `n` starts its handler where it heads the arrival queue of its cell and the cell may start it (R134). -/
def startCopy (s : State) (n : Nat) (c : HdrCopy) : State :=
  if c.behind == some 0 && (s.tel.copies.take n).all (fun x => !(x.cell == c.cell && x.behind.isSome)) && mayStart s c.cell 10 then
    copyEvent (dropCopy s n) c
  else s

/-- HEADER_COPY (R372): copy number `n`. One that waits at the firefly writer is delivered where its cell is ready for it (R133), and
starts its handler as the cell's next event (R134); a CLUSTER that is not RUNNING loses it (R24). -/
def execHeaderCopy (n : Nat) (s : State) : Host.Outcome State Fault Refusal :=
  .next (match s.tel.copies[n]? with
    | none => s
    | some c =>
      let k := fCluster (c.cell / 128)
      if c.behind.isSome then (if clServes s (c.cell / 128) then startCopy s n c else cnt (dropCopy s n) Reg.TELEMETRY.FF_COUNT.VERDICT_LOST)
      else if !running s k then cnt (dropCopy s n) Reg.TELEMETRY.FF_COUNT.VERDICT_LOST
      else if !readySmall s c.cell then s
      else
        let t := deliverCopy s n c
        startCopy t (t.tel.copies.length - 1) { c with behind := some (cellQueue s c.cell).length })

end Sys2Proof.Machine
end

