-- ==== Sys2Proof/Machine/Telemetry.lean ====
section
/-!
DEFINITION. Machine/Telemetry.lean: congestion maps (R366 to R370), the mirror table's expiry (R374) and the counter catalogue (R375).
-/
namespace Sys2Proof.Machine
open Sys2Proof

/-! ### Counters (R375) -/

/-- Spilled bytes of output queue (o, c). -/
def spilledBytes (s : State) (o c : Nat) : Nat :=
  (s.sw.pkts.filter (fun q => q.place == .spill && q.tc == c && q.residue.contains o)).foldl (fun a q => a + q.bytes) 0

/-- Dovetails in use in device cell `l` (R221). -/
def dovesIn (s : State) (l : Nat) : Nat := match findKey s.cells.comb l with | some c => c.doves.length | none => 0

/-- The counter of number `num` (R375); an unassigned number reads 0. -/
def counterValue (s : State) (num : Nat) : Nat :=
  let i := num % 65536
  if num / 65536 = 0x03 then (if i < 2048 then queueOnchip s (i / 8) (i % 8) else 0)
  else if num / 65536 = 0x04 then (if i < 2048 then spilledBytes s (i / 8) (i % 8) else 0)
  else if num / 65536 = 0x20 ∧ i % 4 = 3 then dovesIn s (i / 4)
  else if 2 ^ 24 ≤ num then 0
  else (findKey s.tel.counts num).getD 0

/-- TEL_CNT_SAMPLE (R375): the sample that REQ asked for is taken. -/
def execTelCntSample (s : State) : Host.Outcome State Fault Refusal :=
  .next (if rdb s Reg.TELEMETRY.TEL_CNT_SEL.REQ then
      wrs s [(Reg.TELEMETRY.TEL_CNT_VALUE.VALUE, counterValue s (rd s Reg.TELEMETRY.TEL_CNT_SEL.NUMBER)),
        (Reg.TELEMETRY.TEL_CNT_SEL.REQ, 0), (Reg.TELEMETRY.TEL_CNT_SEL.DONE, 1)]
    else s)

/-! ### Congestion maps (R366, R367) -/

/-- Device HBM address of slot k mod 131,072 of the map region. -/
def mapAddr (s : State) (k : Nat) : Nat := rd s Reg.TELEMETRY.TEL_CFG.MAP_REGION * 2 ^ 30 + k % 131072 * 8192

/-- The counters as they stood at the kerf of tick `k`. -/
def marksAt (s : State) (k : Nat) : List (Nat × Nat) := (findKey s.tel.marks k).getD s.tel.counts

/-- What counter `num` rose by in the window of map `k`. -/
def windowCount (s : State) (k num : Nat) : Nat :=
  ((findKey (marksAt s k) num).getD 0 + 2 ^ 64 - (findKey (marksAt s (k - 1)) num).getD 0) % 2 ^ 64

/-- The sum of a counter over the eight classes of half `h`. -/
def halfCount (s : State) (k g h : Nat) : Nat := (List.range 8).foldl (fun a c => a + windowCount s k (ctrNo g (8 * h + c))) 0

/-- The entry of port half `h` in map `k` (R367); a half that does not exist has a zero entry. -/
def portEntry (s : State) (k h : Nat) : List Byte :=
  let spilled := (List.range 8).foldl (fun a c => a + spilledBytes s h c) 0
  leBytes 16 (
    if !halfIs s h then 0
    else packBits [(0, 16, min 65535 (halfCount s k 1 h)), (16, 16, min 65535 (halfCount s k 2 h)), (32, 16, min 65535 (windowCount s k (ctrNo 0x105 h))),
      (48, 3, linkState s h), (51, 4, rd s (Reg.PORT.LINK_STATUS.WIDTH (h / 2) (h % 2))),
      (55, 1, b2n (s.sw.chains.any (fun c => c.1 / 8 % 1024 == h))), (64, 32, min (2 ^ 32 - 1) (spilled / 1024))])

/-- The queue-section byte of output queue (h, c): its on-chip depth in 64 KiB units, rounded up, at most 255. -/
def queueByte (s : State) (i : Nat) : List Byte := leBytes 1 (min 255 ((queueOnchip s (i / 8) (i % 8) + 65535) / 65536))

/-- The entry of active place `i`. -/
def swarmEntry (s : State) (k i : Nat) : List Byte :=
  leBytes 16 (match (List.range 256).find? (fun w => rd s (Reg.SWARM.SWARM_STATUS.PLACE w) == 2 && rd s (Reg.SWARM.SWARM_STATUS.PLACE_NO w) == i) with
    | none => 0
    | some w => packBits [(0, 8, w), (8, 1, 1), (32, 21, rd s (Reg.SWARM.SWARM_LIMIT.LIMIT w)), (64, 32, windowCount s k (ctrNo 0x10 (8 * w + 2)))])

/-- Bytes 64 to 6,975 of map `k`. -/
def mapSections (s : State) (k : Nat) : List Byte :=
  (List.range 256).flatMap (portEntry s k) ++ (List.range 2048).flatMap (queueByte s) ++ (List.range 48).flatMap (swarmEntry s k)

/-- Bytes 0 to 59 of map `k`, started now. -/
def mapHead (s : State) (k seq : Nat) : List Byte :=
  let n := 4096 * k + 3968
  leBytes 4 0x50414D54 ++ leBytes 1 (planeId s) ++
  leBytes 1 (packBits [(0, 1, b2n (decide (n < s.time.toNat))), (1, 1, b2n (decide (spillPages s ≤ spillUsed s))), (2, 1, b2n (!(s.tick.st == 2 || s.tick.st == 3)))]) ++
  leBytes 2 0 ++ leBytes 8 k ++ leBytes 8 n ++ leBytes 4 (s.time.toNat - n) ++ leBytes 4 (poolFree s / 1024) ++
  leBytes 4 ((spillUsed s + 15) / 16) ++ leBytes 4 seq ++ List.replicate 20 0

/-- The map written: its sections, then bytes 0 to 63; the cluster section is left to the cells (R368). -/
def writeMap (s : State) (k seq : Nat) : State :=
  let body := mapSections s k
  let head := mapHead s k seq
  let s := hbmWr (hbmWr s (mapAddr s k + 64) body) (mapAddr s k + 7744) (List.replicate 448 0)
  hbmWr s (mapAddr s k) (head ++ leBytes 4 (crc32c (head ++ body)))

/-- The alarm pin after a map (R370). -/
def alarm (s : State) : State :=
  if rdb s Reg.TELEMETRY.ALARM_CFG.EN then
    let low := decide (poolFree s / 1024 < rd s Reg.TELEMETRY.ALARM_CFG.POOL_LOW_MIB * 1024)
    wrb (wrb s (Reg.MGMT.GPIO_CTL.OUT (rd s Reg.TELEMETRY.ALARM_CFG.PIN)) low) Reg.TELEMETRY.TEL_STATUS.ALARM low
  else s

/-- The first map whose window count may still be asked for once map `k` is written: the cells that write the cluster entries may run late
(R368). -/
def firstMap (s : State) (k : Nat) : Nat :=
  (((List.range 48).filter (clServes s)).filterMap (fun n => (findKey s.tick.tasks (tickTask (128 * n))).map (fun e => e.1 / 4096 - 1))).foldl min k

/-- TELEMETRY_MAP (R366): the next map instance, once its start under R98 has come. -/
def execTelemetryMap (s : State) : Host.Outcome State Fault Refusal :=
  .next (
    if running s fTel && taskDue s 0 4096 then
      let k := taskNominal s 0 / 4096
      let seq := (rd s Reg.TELEMETRY.TEL_STATUS.SEQ + 1) % 2 ^ 32
      let s := alarm (bump (writeMap s k seq) (ctrNo 0x30 4))
      let s := taskRun (wrs s [(Reg.TELEMETRY.TEL_STATUS.SEQ, seq), (Reg.TELEMETRY.TEL_LAST_TICK.TICK, k)]) 0 4096
      { s with tel := { s.tel with marks := s.tel.marks.filter (fun e => decide (firstMap s k ≤ e.1 + 1)) } }
    else s)

/-! ### Reads of the map and record regions (R369) -/

/-- Device HBM address of offset `o` of the service ID. -/
def serviceAddr (s : State) (o : Nat) : Nat :=
  if o < 2 ^ 30 then rd s Reg.TELEMETRY.TEL_CFG.MAP_REGION * 2 ^ 30 + o else rd s Reg.TELEMETRY.FF_CFG.FF_REGION * 2 ^ 30 + (o - 2 ^ 30)

/-- An offset that the management port does not serve. -/
def serviceShut (s : State) (o : Nat) : Bool :=
  decide (2 ^ 31 ≤ o) || (decide (o < 2 ^ 30) && !running s fTel) || (decide (2 ^ 30 ≤ o) && !running s fFf)

/-- A request at the service ID other than fabric register access, answered by the management port (R369). -/
def mapServe (s : State) (h : Hdr) : State :=
  let n := readLen h
  let first := min n (2 ^ 30 - h.off % 2 ^ 30)
  if !(h.k == some .read || h.k == some .readBulk) || serviceShut s h.off || serviceShut s (h.off + n - 1) then answer s 228 h ccUnsupported 0 0
  else if (xgenEntry s h).isNone then answer s 228 h ccRevoked 0 0
  else if hbmPoisoned s (serviceAddr s h.off) first || (decide (first < n) && hbmPoisoned s (serviceAddr s (h.off + first)) (n - first)) then
    answer s 228 h ccPoison 0 0
  else answerData s 228 h (hbmRdN s (serviceAddr s h.off) first ++ hbmRdN s (serviceAddr s (h.off + first)) (n - first))

/-- MAP_READ (R369): a request that waits at crossbar port 228; register accesses and swarm control have rows of their own. -/
def execMapRead (p : Packet) (s : State) : Host.Outcome State Fault Refusal :=
  .next (match p.h.k with
    | some .regRead | some .regWrite | some .swarmAck => s
    | some k => received s 228 p (fun t => if k.answered then mapServe t p.h else s)
    | none => s)

/-! ### The mirror table (R374) -/

/-- MIRROR_ENTRY_EXPIRE (R374): the flow's entry lapses MIRROR_TICKS after its last verdict. -/
def execMirrorEntryExpire (key : BitVec 36) (s : State) : Host.Outcome State Fault Refusal :=
  .next (match findKey s.tel.mirror key.toNat with
    | some t =>
      if t + rd s Reg.TELEMETRY.MIRROR_CFG.MIRROR_TICKS ≤ tickNo s then ffFlows { s with tel := { s.tel with mirror := delKey s.tel.mirror key.toNat } }
      else s
    | none => s)

end Sys2Proof.Machine
end

