-- ==== Sys2Proof/Machine/Milys.lean ====
section
/-!
DEFINITION. Machine/Milys.lean: what every Milys instruction is written over: the registers of a handler (R153), the windows of the
cell address space (R131, R168), outstanding accesses and implicit waits (R169, R170), the end of a handler or finish (R165, R167),
faults (R177, R178), and the effect of one instruction on the cell that runs it.
-/
namespace Sys2Proof.Machine
open Sys2Proof

/-! ### Registers (R153) -/

/-- Scalar register `i`; s0 reads as zero. -/
def gS (r : CellRun) (i : Nat) : BitVec 64 := if i = 0 then 0 else r.r.s.getD i 0
/-- Scalar register `i` set; writes to s0 are discarded. -/
def pS (r : CellRun) (i : Nat) (v : BitVec 64) : CellRun := if i = 0 then r else { r with r := { r.r with s := r.r.s.set i v } }
/-- Vector register `i`. -/
def gV (r : CellRun) (i : Nat) : BitVec 512 := r.r.v.getD i 0
/-- Vector register `i` set. -/
def pV (r : CellRun) (i : Nat) (v : BitVec 512) : CellRun := { r with r := { r.r with v := r.r.v.set i v } }
/-- Predicate `i`; p0 reads as all ones. -/
def gP (r : CellRun) (i : Nat) : BitVec 64 := if i = 0 then BitVec.allOnes 64 else r.r.p.getD i 0
/-- Predicate `i` set; writes to p0 are discarded. -/
def pP (r : CellRun) (i : Nat) (v : BitVec 64) : CellRun := if i = 0 then r else { r with r := { r.r with p := r.r.p.set i v } }
/-- The slot bound to handle `h`. -/
def gT (r : CellRun) (h : Nat) : Option Nat := r.r.t.getD h none
/-- The program counter set. -/
def pPc (r : CellRun) (n : Nat) : CellRun := { r with pc := n }

/-- The handler runs in the tenant profile: it is inside a tenant finish (R146). -/
def tenantRun (r : CellRun) : Bool := match r.fin with | some f => f.tenant | none => false

/-! ### Windows (R131, R168) -/

/-- Where a local address of an `n`-byte access lies: 0 for local data, 1 + slot for a tile window, and the offset there. -/
def localAt (r : CellRun) (a n : Nat) : Option (Nat × Nat) :=
  if a + n ≤ 0x1C000 then (if tenantRun r then none else some (0, a))
  else if 0x1C000 ≤ a ∧ a + n ≤ 0x20000 then some (0, a)
  else if 0x100000 ≤ a ∧ a < 0x104000 ∧ a % 0x1000 + n ≤ tileLen then (gT r ((a - 0x100000) / 0x1000)).map (fun k => (1 + k, a % 0x1000))
  else none

/-- A far address of an `n`-byte HBM transfer (R168): the device HBM address, or the fault code. -/
def farAt (s : State) (r : CellRun) (a n : Nat) : Except Nat Nat :=
  if 0x200000000000 ≤ a then
    match r.fin with
    | some f => if a - 0x200000000000 + n ≤ stateLen s f.swarm then .ok (stateBase s f.swarm + (a - 0x200000000000)) else .error 1
    | none => .error 1
  else if 0x100000000000 ≤ a ∧ a - 0x100000000000 + n ≤ hbmSize ∧ tenantRun r = false then
    let d := a - 0x100000000000
    let denied := fun k => inPart s k (d / 2 ^ 30) || inPart s k ((d + n - 1) / 2 ^ 30)
    if denied 0 || denied 4 then .error 3 else .ok d
  else .error 1

/-- Bytes of local data or of a tile-store slot. -/
def spaceRd (s : State) (l sp off n : Nat) : List Byte := if sp = 0 then localRd s l off n else sliceBytes (slotTile s l (sp - 1)) off n
/-- Those bytes written. -/
def spaceWr (s : State) (l sp off : Nat) (b : List Byte) : State :=
  if sp = 0 then localWr s l off b else setSlotTile s l (sp - 1) (putBytes (slotTile s l (sp - 1)) off b)

/-! ### Outstanding accesses (R169, R170) -/

/-- The data of an HBM read arrive; bytes that a later read writes are left (R170). -/
def land (s : State) (l : Nat) (a : Access) : State :=
  if a.data.isEmpty then s
  else
    let cur := spaceRd s l a.space a.off a.data.length
    let new := (List.range a.data.length).map (fun i =>
      if a.skip.any (fun k => decide (k.1 ≤ a.off + i) && decide (a.off + i < k.1 + k.2)) then cur.getD i 0 else a.data.getD i 0)
    spaceWr s l a.space a.off new

/-- An access completes: its register is written, or its data land and an uncorrectable error sets POISONED. -/
def complete (l : Nat) (p : CellRun × State) (a : Access) : CellRun × State :=
  let r := pS { p.1 with acc := p.1.acc.erase a } a.reg (BitVec.ofNat 64 a.val)
  ({ r with r := { r.r with poisoned := r.r.poisoned || a.poison } }, land p.2 l a)

/-- Every outstanding access that `f` selects completes, in issue order. -/
def settle (l : Nat) (f : Access → Bool) (r : CellRun) (s : State) : CellRun × State := (r.acc.filter f).foldl (complete l) (r, s)

/-- The access has still to write bytes of `[off, off + n)` of a space. -/
def touches (sp off n : Nat) (a : Access) : Bool := a.space == sp && decide (a.off < off + n) && decide (off < a.off + a.data.length)

/-- An access issued: a ninth of its kind first waits for the oldest of that kind. -/
def issue (l : Nat) (a : Access) (r : CellRun) (s : State) : CellRun × State :=
  let mine := r.acc.filter (fun x => x.hbm == a.hbm)
  let p := if 8 ≤ mine.length then (mine.take 1).foldl (complete l) (r, s) else (r, s)
  ({ p.1 with acc := p.1.acc ++ [a] }, p.2)

/-! ### The end of a handler and of a finish (R165, R167) -/

/-- The handler ends: its slots are freed, its cycles counted, the verdict on its header copy taken (R156, R372). -/
def handlerEnd (s : State) (l : Nat) (r : CellRun) : State :=
  let s := handlerRan (endRun s l) l (runCycles s r)
  match r.copy with
  | some c => ffVerdict s c (ofLeBytes (localRd s l 0x80 1))
  | none => s

/-- A finish ends with verdict `v`: REDUCE takes it, or FIN returns it in s1 to the program that called it, at the charge of FIN
(R138 rule 6, R167, R207). -/
def finishEnd (s : State) (l : Nat) (r : CellRun) (f : FinFrame) (v : Nat) : State :=
  match f.reduce with
  | some (op, i) => finishVerdict (handlerRan (endRun s l) l (runCycles s r)) l f.swarm op i v (slotTile s l 0)
  | none => setRun s l (pS { r with r := f.saved, pc := f.pc, fin := none, cycles := f.cycles } 1 (BitVec.ofNat 64 v))

/-! ### Faults (R177, R178) -/

/-- A fault of the instruction at `r.pc`: it ends a finish with 0xFF; elsewhere it is the cell fault STOCK_EXCEPTION, and a cell that
already migrates only loses the handler. -/
def raise (s : State) (l : Nat) (r : CellRun) (code imm : Nat) : State :=
  let s := countException s l
  let detB := packBits [(0, 4, code), (16, 16, r.pc), (32, 16, imm)]
  match r.fin with
  | some f =>
    let p := settle l (fun _ => true) r s
    finishEnd (report p.2 (fCluster (l / 128)) 0x05 9 4 (cellDetail s l) detB) l p.1 f 0xFF
  | none => loseRun (cellFaultAt s l 7 detB) l

/-! ### One instruction -/

/-- What an instruction does: go on with these registers, leave the handler in this state, or fault. -/
inductive Res where
  | ok (r : CellRun) (s : State)
  | done (s : State)
  | fault (code imm : Nat)

/-- One instruction of the handler in progress on device cell `l`, of `cost` cycles, that reads or writes the scalar registers `regs`:
it waits for accesses that have still to write them (R169). Without a handler in progress there is nothing to run. -/
def ins (s : State) (l cost : Nat) (regs : List Nat) (f : CellRun → State → Res) : State :=
  match cellRun s l with
  | none => s
  | some r =>
    let p := settle l (fun a => regs.contains a.reg) r s
    match f { p.1 with pc := p.1.pc + 1, cycles := p.1.cycles + cost } p.2 with
    | .ok r' s' => setRun s' l r'
    | .done s' => s'
    | .fault code imm => raise p.2 l { p.1 with cycles := p.1.cycles + cost } code imm

/-- An instruction of both profiles. -/
def both (s : State) : Host.Outcome State Fault Refusal := .next s

/-- An instruction of the stock profile only: the loader keeps it out of tenant finishes (R164, R176). -/
def stockOnly (m : String) (s : State) (l : Nat) (t : State) : Host.Outcome State Fault Refusal :=
  match cellRun s l with
  | some r => if tenantRun r then .refused (.rejectedByLoader m) else .next t
  | none => .next t

/-- An instruction that the loader accepts only under condition `ok` (R157, R164). -/
def loaded (m : String) (ok : Bool) (o : Host.Outcome State Fault Refusal) : Host.Outcome State Fault Refusal :=
  if ok then o else .refused (.rejectedByLoader m)

end Sys2Proof.Machine
end

