-- ==== Sys2Proof/Machine/Scalar.lean ====
section
/-!
DEFINITION. Machine/Scalar.lean: the scalar and control-register instructions of Milys and its predicates (R172).
-/
namespace Sys2Proof.Machine
open Sys2Proof

/-! ### Register operations -/

/-- A SCALAR instruction rd = f(ra, rb). -/
def alu (s : State) (l : Fin 6144) (rd ra rb : Fin 32) (f : BitVec 64 → BitVec 64 → BitVec 64) : Host.Outcome State Fault Refusal :=
  both (ins s l 1 [rd, ra, rb] (fun r s => .ok (pS r rd (f (gS r ra) (gS r rb))) s))

/-- A SCALAR instruction rd = f(ra). -/
def aluImm (s : State) (l : Fin 6144) (rd ra : Fin 32) (f : BitVec 64 → BitVec 64) : Host.Outcome State Fault Refusal :=
  both (ins s l 1 [rd, ra] (fun r s => .ok (pS r rd (f (gS r ra))) s))

/-- A Boolean as a register value. -/
def flag (b : Bool) : BitVec 64 := if b then 1 else 0

/-- ADD (R172). -/
def execAdd (l : Fin 6144) (rd ra rb : Fin 32) (s : State) : Host.Outcome State Fault Refusal := alu s l rd ra rb (fun a b => a + b)
/-- SUB (R172). -/
def execSub (l : Fin 6144) (rd ra rb : Fin 32) (s : State) : Host.Outcome State Fault Refusal := alu s l rd ra rb (fun a b => a - b)
/-- AND (R172). -/
def execAndR (l : Fin 6144) (rd ra rb : Fin 32) (s : State) : Host.Outcome State Fault Refusal := alu s l rd ra rb (fun a b => a &&& b)
/-- OR (R172). -/
def execOrR (l : Fin 6144) (rd ra rb : Fin 32) (s : State) : Host.Outcome State Fault Refusal := alu s l rd ra rb (fun a b => a ||| b)
/-- XOR (R172). -/
def execXorR (l : Fin 6144) (rd ra rb : Fin 32) (s : State) : Host.Outcome State Fault Refusal := alu s l rd ra rb (fun a b => a ^^^ b)
/-- SLL (R172): by rb[5:0]. -/
def execSll (l : Fin 6144) (rd ra rb : Fin 32) (s : State) : Host.Outcome State Fault Refusal := alu s l rd ra rb (fun a b => a <<< (b.toNat % 64))
/-- SRL (R172). -/
def execSrl (l : Fin 6144) (rd ra rb : Fin 32) (s : State) : Host.Outcome State Fault Refusal := alu s l rd ra rb (fun a b => a >>> (b.toNat % 64))
/-- SRA (R172). -/
def execSra (l : Fin 6144) (rd ra rb : Fin 32) (s : State) : Host.Outcome State Fault Refusal := alu s l rd ra rb (fun a b => a.sshiftRight (b.toNat % 64))
/-- MUL (R172): the low 64 bits of the product. -/
def execMul (l : Fin 6144) (rd ra rb : Fin 32) (s : State) : Host.Outcome State Fault Refusal := alu s l rd ra rb (fun a b => a * b)
/-- MULHU (R172): the high 64 bits of the unsigned product. -/
def execMulhu (l : Fin 6144) (rd ra rb : Fin 32) (s : State) : Host.Outcome State Fault Refusal :=
  alu s l rd ra rb (fun a b => BitVec.ofNat 64 (a.toNat * b.toNat / 2 ^ 64))
/-- MIN (R172): signed. -/
def execMinR (l : Fin 6144) (rd ra rb : Fin 32) (s : State) : Host.Outcome State Fault Refusal := alu s l rd ra rb (fun a b => if a.slt b then a else b)
/-- MAX (R172): signed. -/
def execMaxR (l : Fin 6144) (rd ra rb : Fin 32) (s : State) : Host.Outcome State Fault Refusal := alu s l rd ra rb (fun a b => if a.slt b then b else a)
/-- MINU (R172): unsigned. -/
def execMinu (l : Fin 6144) (rd ra rb : Fin 32) (s : State) : Host.Outcome State Fault Refusal := alu s l rd ra rb (fun a b => if a.ult b then a else b)
/-- MAXU (R172): unsigned. -/
def execMaxu (l : Fin 6144) (rd ra rb : Fin 32) (s : State) : Host.Outcome State Fault Refusal := alu s l rd ra rb (fun a b => if a.ult b then b else a)
/-- SLT (R172): signed. -/
def execSlt (l : Fin 6144) (rd ra rb : Fin 32) (s : State) : Host.Outcome State Fault Refusal := alu s l rd ra rb (fun a b => flag (a.slt b))
/-- SLTU (R172): unsigned. -/
def execSltu (l : Fin 6144) (rd ra rb : Fin 32) (s : State) : Host.Outcome State Fault Refusal := alu s l rd ra rb (fun a b => flag (a.ult b))
/-- CRC (R172): crc_step over the 8 bytes of rb from state ra[31:0]. -/
def execCrc (l : Fin 6144) (rd ra rb : Fin 32) (s : State) : Host.Outcome State Fault Refusal :=
  alu s l rd ra rb (fun a b => BitVec.ofNat 64 (crc32cFrom (a.toNat % 2 ^ 32) (leBytes 8 b.toNat)))
/-- CRCB (R172): crc_step over byte rb[7:0]. -/
def execCrcb (l : Fin 6144) (rd ra rb : Fin 32) (s : State) : Host.Outcome State Fault Refusal :=
  alu s l rd ra rb (fun a b => BitVec.ofNat 64 (crc32cFrom (a.toNat % 2 ^ 32) (leBytes 1 (b.toNat % 256))))

/-- ADDI (R172). -/
def execAddi (l : Fin 6144) (rd ra : Fin 32) (imm : BitVec 16) (s : State) : Host.Outcome State Fault Refusal := aluImm s l rd ra (fun a => a + imm.signExtend 64)
/-- ANDI (R172). -/
def execAndi (l : Fin 6144) (rd ra : Fin 32) (imm : BitVec 16) (s : State) : Host.Outcome State Fault Refusal := aluImm s l rd ra (fun a => a &&& imm.zeroExtend 64)
/-- ORI (R172). -/
def execOri (l : Fin 6144) (rd ra : Fin 32) (imm : BitVec 16) (s : State) : Host.Outcome State Fault Refusal := aluImm s l rd ra (fun a => a ||| imm.zeroExtend 64)
/-- XORI (R172). -/
def execXori (l : Fin 6144) (rd ra : Fin 32) (imm : BitVec 16) (s : State) : Host.Outcome State Fault Refusal := aluImm s l rd ra (fun a => a ^^^ imm.zeroExtend 64)
/-- SLLI (R172). -/
def execSlli (l : Fin 6144) (rd ra : Fin 32) (sh : BitVec 6) (s : State) : Host.Outcome State Fault Refusal := aluImm s l rd ra (fun a => a <<< sh.toNat)
/-- SRLI (R172). -/
def execSrli (l : Fin 6144) (rd ra : Fin 32) (sh : BitVec 6) (s : State) : Host.Outcome State Fault Refusal := aluImm s l rd ra (fun a => a >>> sh.toNat)
/-- SRAI (R172). -/
def execSrai (l : Fin 6144) (rd ra : Fin 32) (sh : BitVec 6) (s : State) : Host.Outcome State Fault Refusal := aluImm s l rd ra (fun a => a.sshiftRight sh.toNat)
/-- LUI (R172): the sign-extended immediate, shifted left by 16 × (SH + 1). -/
def execLui (l : Fin 6144) (rd : Fin 32) (imm : BitVec 16) (sh : Fin 3) (s : State) : Host.Outcome State Fault Refusal :=
  aluImm s l rd 0 (fun _ => imm.signExtend 64 <<< (16 * (sh.val + 1)))

/-! ### FMT and RND -/

/-- FMT set. -/
def setFmt (r : CellRun) (f : Nat) : CellRun := { r with r := { r.r with fmt := f } }
/-- RND set. -/
def setRnd (r : CellRun) (v : Nat) : CellRun := { r with r := { r.r with rnd := v } }

/-- SETFMT (R172): the loader rejects codes 14 and 15. -/
def execSetfmt (l : Fin 6144) (f : BitVec 4) (s : State) : Host.Outcome State Fault Refusal :=
  loaded "SETFMT" (decide (f.toNat < 14)) (both (ins s l 1 [] (fun r s => .ok (setFmt r f.toNat) s)))
/-- SETRND (R172): the loader rejects codes 2 and 3. -/
def execSetrnd (l : Fin 6144) (v : BitVec 2) (s : State) : Host.Outcome State Fault Refusal :=
  loaded "SETRND" (decide (v.toNat < 2)) (both (ins s l 1 [] (fun r s => .ok (setRnd r v.toNat) s)))
/-- RDCTL (R172). -/
def execRdctl (l : Fin 6144) (rd : Fin 32) (s : State) : Host.Outcome State Fault Refusal :=
  both (ins s l 1 [rd] (fun r s => .ok (pS r rd (BitVec.ofNat 64 (r.r.fmt + 16 * r.r.rnd))) s))
/-- WRCTL (R172): FORMAT on a reserved code, and both fields keep their values. -/
def execWrctl (l : Fin 6144) (ra : Fin 32) (s : State) : Host.Outcome State Fault Refusal :=
  both (ins s l 1 [ra] (fun r s =>
    let v := (gS r ra).toNat
    if v % 16 < 14 ∧ bits v 4 2 < 2 then .ok (setRnd (setFmt r (v % 16)) (bits v 4 2)) s else .fault 4 0))

/-! ### Predicates -/

/-- A predicate instruction pd = f(pa, pb). -/
def predOp (s : State) (l : Fin 6144) (pd pa pb : Fin 8) (f : BitVec 64 → BitVec 64 → BitVec 64) : Host.Outcome State Fault Refusal :=
  both (ins s l 1 [] (fun r s => .ok (pP r pd (f (gP r pa) (gP r pb))) s))

/-- PAND (R172). -/
def execPand (l : Fin 6144) (pd pa pb : Fin 8) (s : State) : Host.Outcome State Fault Refusal := predOp s l pd pa pb (fun a b => a &&& b)
/-- POR (R172). -/
def execPor (l : Fin 6144) (pd pa pb : Fin 8) (s : State) : Host.Outcome State Fault Refusal := predOp s l pd pa pb (fun a b => a ||| b)
/-- PXOR (R172). -/
def execPxor (l : Fin 6144) (pd pa pb : Fin 8) (s : State) : Host.Outcome State Fault Refusal := predOp s l pd pa pb (fun a b => a ^^^ b)
/-- PNOT (R172). -/
def execPnot (l : Fin 6144) (pd pa : Fin 8) (s : State) : Host.Outcome State Fault Refusal := predOp s l pd pa pa (fun a _ => ~~~a)
/-- PFROMS (R172). -/
def execPfroms (l : Fin 6144) (pd : Fin 8) (sa : Fin 32) (s : State) : Host.Outcome State Fault Refusal :=
  both (ins s l 1 [sa] (fun r s => .ok (pP r pd (gS r sa)) s))
/-- SFROMP (R172). -/
def execSfromp (l : Fin 6144) (sd : Fin 32) (pa : Fin 8) (s : State) : Host.Outcome State Fault Refusal :=
  both (ins s l 1 [sd] (fun r s => .ok (pS r sd (gP r pa)) s))
/-- PCNT (R172): the set bits of a predicate. -/
def execPcnt (l : Fin 6144) (sd : Fin 32) (pa : Fin 8) (s : State) : Host.Outcome State Fault Refusal :=
  both (ins s l 1 [sd] (fun r s => .ok (pS r sd (BitVec.ofNat 64 ((List.range 64).filter (fun i => (gP r pa).getLsbD i)).length)) s))

end Sys2Proof.Machine
end

