-- ==== Sys2Proof/Machine/Flow.lean ====
section
/-!
DEFINITION. Machine/Flow.lean: the control flow of Milys (R160 to R167). Offsets count words from the word after the instruction; the
operands of LOOP and JT carry what the loader reads from the code: the length of the body, and the table.
-/
namespace Sys2Proof.Machine
open Sys2Proof

/-- A branch: taken, it costs one cycle more. -/
def branch (s : State) (l : Fin 6144) (regs : List Nat) (off : Nat) (f : CellRun → Bool) : Host.Outcome State Fault Refusal :=
  both (ins s l 1 regs (fun r s => .ok (if f r then { r with pc := r.pc + off, cycles := r.cycles + 1 } else r) s))

/-- BEQ (R172). -/
def execBeq (l : Fin 6144) (ra rb : Fin 32) (off : BitVec 15) (s : State) : Host.Outcome State Fault Refusal :=
  branch s l [ra, rb] off.toNat (fun r => gS r ra == gS r rb)
/-- BNE (R172). -/
def execBne (l : Fin 6144) (ra rb : Fin 32) (off : BitVec 15) (s : State) : Host.Outcome State Fault Refusal :=
  branch s l [ra, rb] off.toNat (fun r => gS r ra != gS r rb)
/-- BLT (R172): signed. -/
def execBlt (l : Fin 6144) (ra rb : Fin 32) (off : BitVec 15) (s : State) : Host.Outcome State Fault Refusal :=
  branch s l [ra, rb] off.toNat (fun r => (gS r ra).slt (gS r rb))
/-- BGE (R172): signed. -/
def execBge (l : Fin 6144) (ra rb : Fin 32) (off : BitVec 15) (s : State) : Host.Outcome State Fault Refusal :=
  branch s l [ra, rb] off.toNat (fun r => !(gS r ra).slt (gS r rb))
/-- BLTU (R172): unsigned. -/
def execBltu (l : Fin 6144) (ra rb : Fin 32) (off : BitVec 15) (s : State) : Host.Outcome State Fault Refusal :=
  branch s l [ra, rb] off.toNat (fun r => (gS r ra).ult (gS r rb))
/-- BGEU (R172): unsigned. -/
def execBgeu (l : Fin 6144) (ra rb : Fin 32) (off : BitVec 15) (s : State) : Host.Outcome State Fault Refusal :=
  branch s l [ra, rb] off.toNat (fun r => !(gS r ra).ult (gS r rb))
/-- BR (R172). -/
def execBr (l : Fin 6144) (off : BitVec 15) (s : State) : Host.Outcome State Fault Refusal := branch s l [] off.toNat (fun _ => true)
/-- BP (R172): (p ≠ 0) XOR NEG. -/
def execBp (l : Fin 6144) (pa : Fin 8) (neg : Bool) (off : BitVec 15) (s : State) : Host.Outcome State Fault Refusal :=
  branch s l [] off.toNat (fun r => (gP r pa != 0) != neg)

/-- The handler in progress meets a condition that the loader has checked. -/
def runIs (s : State) (l : Nat) (f : CellRun → Bool) : Bool := match cellRun s l with | some r => f r | none => true

/-- CALL (R162): the loader admits no call depth above 8 and no target outside CODE (R164). -/
def execCall (l : Fin 6144) (off : BitVec 16) (s : State) : Host.Outcome State Fault Refusal :=
  loaded "CALL" (runIs s l (fun r => decide (r.r.ret.length < 8) && decide (0 ≤ (r.pc : Int) + 1 + off.toInt)))
    (both (ins s l 2 [] (fun r s => .ok (pPc { r with r := { r.r with ret := r.pc :: r.r.ret } } ((r.pc : Int) + off.toInt).toNat) s)))
/-- RET (R162): the loader admits none that no CALL precedes (R164). -/
def execRet (l : Fin 6144) (s : State) : Host.Outcome State Fault Refusal :=
  loaded "RET" (runIs s l (fun r => !r.r.ret.isEmpty))
    (both (ins s l 2 [] (fun r s => .ok (pPc { r with r := { r.r with ret := r.r.ret.tail } } (r.r.ret.headD 0)) s)))
/-- JT (R163): a table of 1 to 64 forward offsets. -/
def execJt (l : Fin 6144) (ra : Fin 32) (table : List (BitVec 32)) (s : State) : Host.Outcome State Fault Refusal :=
  loaded "JT" (decide (1 ≤ table.length) && decide (table.length ≤ 64)) (stockOnly "JT" s l (ins s l 1 [ra] (fun r s =>
    let base := r.pc + table.length
    .ok (if (gS r ra).toNat < table.length then { r with pc := base + (table.getD (gS r ra).toNat 0).toNat, cycles := r.cycles + 1 } else pPc r base) s)))

/-- The loop register, set to the iteration; 0 names none (R161). -/
def setIx (r : CellRun) (ix k : Nat) : CellRun := pS r ix (BitVec.ofNat 64 k)

/-- LOOP (R161): `count` is the count, or with `reg` the declared maximum of the count in that register; `body` is the number of words from
the next one to the matching LEND, that one included. -/
def execLoopR (l : Fin 6144) (reg : Option (Fin 32)) (count : BitVec 13) (ix : Fin 32) (body : BitVec 16) (s : State) : Host.Outcome State Fault Refusal :=
  let go := ins s l 2 ([ix.val] ++ (match reg with | some rs => [rs.val] | none => [])) (fun r s =>
    let n := match reg with | some rs => (gS r rs).toNat | none => count.toNat
    if count.toNat < n then .fault 8 0
    else if n = 0 then .ok (pPc r (r.pc + body.toNat)) s
    else .ok (setIx { r with r := { r.r with loops := { count := n, k := 0, ix := ix, start := r.pc } :: r.r.loops } } ix 0) s)
  let depth := fun (r : CellRun) => decide (r.r.loops.length < (if tenantRun r then 4 else 8))
  let ok := decide (1 ≤ count.toNat) && decide (count.toNat ≤ 4096) && runIs s l depth && (reg.isNone || runIs s l (fun r => !tenantRun r))
  loaded "LOOP" ok (both go)

/-- LEND (R161). -/
def execLend (l : Fin 6144) (s : State) : Host.Outcome State Fault Refusal :=
  loaded "LEND" (runIs s l (fun r => !r.r.loops.isEmpty)) (both (ins s l 1 (match cellRun s l with | some r => (r.r.loops.take 1).map (fun x => x.ix) | none => [])
    (fun r s =>
      match r.r.loops with
      | [] => .ok r s
      | x :: rest =>
        if x.k + 1 < x.count then
          .ok (setIx (pPc { r with r := { r.r with loops := { x with k := x.k + 1 } :: rest } } x.start) x.ix (x.k + 1)) s
        else .ok { r with r := { r.r with loops := rest } } s)))

/-- The registers of a finish that FIN enters (R167 step 3). -/
def finishRegs (r : CellRegs) (slot : Option Nat) : CellRegs :=
  { s := (List.range 32).map (fun i => if i < 7 then r.s.getD i 0 else 0), t := [slot, none, none, none], fmt := r.fmt, rnd := r.rnd }

/-- FIN (R167): the finish of swarm definition RA[7:0] on the tile of handle TH. A stock finish runs whole; a tenant module is entered. -/
def execFin (l : Fin 6144) (ra : Fin 32) (th : Fin 4) (s : State) : Host.Outcome State Fault Refusal :=
  stockOnly "FIN" s l (ins s l 1536 (List.range 33) (fun r s =>
    let p := settle l (fun _ => true) r s
    let r := p.1
    let s := p.2
    let k := (gS r ra).toNat % 256
    match gT r th with
    | none => .fault 5 0
    | some slot =>
      let kind := rd s (Reg.SWARM.SWARM_DEF.FINISH_KIND k)
      if kind = 1 then
        let t := slotTile s l slot
        let x := stockFinish s l k ((gS r 3).toNat % 2 ^ 32) r.r.fmt r.r.rnd (gS r 5).toNat t
        .ok (pS r 1 (BitVec.ofNat 64 x.1)) (setSlotTile x.2.2 l slot (t.take 64 ++ x.2.1))
      else
        let i := (findKey s.cells.finishes k).getD {}
        match (if kind = 2 then imgEntry i 9 else none) with
        | none => .ok (pS r 1 0) s
        | some e =>
          .ok { r with r := finishRegs r.r (some slot), pc := e.1,
                       fin := some { saved := r.r, pc := r.pc, swarm := k, tenant := i.tenant, reduce := none, cycles := r.cycles } }
            (if i.tenant then localWr s l 0x1C000 (List.replicate 16384 0) else s)))

/-- END (R165): after every outstanding access, the handler or the finish ends; a finish that set POISONED answers 0xFE. -/
def execEndR (l : Fin 6144) (s : State) : Host.Outcome State Fault Refusal :=
  both (ins s l 2 [] (fun r s =>
    let p := settle l (fun _ => true) r s
    match p.1.fin with
    | some f => .done (finishEnd p.2 l p.1 f (if p.1.r.poisoned then 0xFE else (gS p.1 1).toNat))
    | none => .done (handlerEnd p.2 l p.1)))

/-- TRAP (R166). -/
def execTrap (l : Fin 6144) (imm : BitVec 16) (s : State) : Host.Outcome State Fault Refusal :=
  both (ins s l 1 [] (fun _ _ => .fault 10 imm.toNat))

end Sys2Proof.Machine
end

