-- ==== Sys2Proof/Machine/CellSystem.lean ====
section
/-!
DEFINITION. Machine/CellSystem.lean: fabric issue and system instructions of Milys (R175), and the events that start a cell's handlers:
INIT, TICK and TIMER (R134, R142, R368).
-/
namespace Sys2Proof.Machine
open Sys2Proof

/-! ### EMIT and EMITT (R175) -/

/-- Request kinds whose extension carries COOKIE (R135). -/
def carriesCookie (h : Hdr) : Bool := let k := h.kind.toNat; decide (1 ≤ k ∧ k ≤ 10) || k == 13 || k == 14

/-- The fields that Vovis writes: SRC and COOKIE[31:16] on requests (R135, R175). -/
def emitHdr (s : State) (l : Nat) (h : Hdr) : Hdr :=
  let h := if (match h.k with | some k => k.isRequest | none => false) then { h with src := BitVec.ofNat 12 (serviceId s) } else h
  if carriesCookie h then
    { h with ext := BitVec.ofNat 256 (h.ext.toNat - bits h.ext.toNat 16 16 * 65536 + ((cellPort l - 128) * 256 + l % 128) * 65536) }
  else h

/-- What makes an emit raise HEADER (R175 step 4); `tile` says that it is EMITT. -/
def emitBad (p : Packet) (tile : Bool) : Bool :=
  let h := p.h
  match h.k with
  | none => true
  | some k =>
    h.dest == 0xFFF || k == .notice || k == .stepCtl || !tcAllowed h k || !lenOk p k || h.rly == 1 || h.rly == 3 ||
    (h.rly == 2 && k.isRequest) || (decide (expectedFlits h = 34) != tile)

/-- The common part: the header at local address rh, the emit limit, the packet. -/
def emit (s : State) (l : Nat) (r : CellRun) (rh : Nat) (tile : Bool) (payload : Hdr → CellRun → State → Option (List Byte × CellRun × State)) : Res :=
  let a := (gS r rh).toNat
  if 0x20000 < a + 64 then .fault 1 0
  else
    let p := settle l (touches 0 a 64) r s
    let h := hdrOfBits (ofLeBytes (localRd p.2 l a 64))
    match payload h p.1 p.2 with
    | none => .fault 1 0
    | some (b, r, s) =>
      if emitBad { h := h, payload := b } tile then .fault 7 0
      else if r.maxEmits ≤ r.emits then .fault 6 0
      else .ok { r with emits := r.emits + 1 } (offer s (512 + l) (mkPacket s (emitHdr s l h) b))

/-- EMIT (R175): LEN payload bytes at local address rp, where the kind carries a payload. -/
def execEmit (l : Fin 6144) (rh rp : Fin 32) (s : State) : Host.Outcome State Fault Refusal :=
  stockOnly "EMIT" s l (ins s l 8 [rh, rp] (fun r s => emit s l r rh false (fun h r s =>
    let n := if expectedFlits h = 1 ∨ expectedFlits h = 34 then 0 else h.len.toNat
    let a := (gS r rp).toNat
    if n = 0 then some ([], r, s)
    else if 0x20000 < a + n then none
    else let p := settle l (touches 0 a n) r s; some (padFlits (localRd p.2 l a n), p.1, p.2))))
/-- EMITT (R175): the tile bound to th, with GEN = 0 and its CRC; TILE where th is unbound. -/
def execEmitt (l : Fin 6144) (rh : Fin 32) (th : Fin 4) (s : State) : Host.Outcome State Fault Refusal :=
  stockOnly "EMITT" s l (ins s l 8 [rh] (fun r s =>
    match gT r th with
    | none => .fault 5 0
    | some k => emit s l r rh true (fun _ r s =>
        let p := settle l (touches (1 + k) 0 tileLen) r s
        let t := putBytes (slotTile p.2 l k) 0 (leBytes 8 0)
        some (putBytes t 0 (leBytes 4 (tileCrc t)), p.1, p.2))))

/-! ### SYS (R175) -/

/-- The system value AUX. -/
def sysValue (s : State) (l : Nat) (r : CellRun) (aux : Nat) : Nat :=
  match aux with
  | 0 => l
  | 1 => l / 128
  | 2 => l % 128
  | 3 => cellPhys s l
  | 4 => planeId s
  | 5 => serviceId s
  | 6 => s.time.toNat
  | 7 => tickNo s
  | 8 => r.stamp
  | 9 => (imageOf s (l / 128)).version
  | _ => b2n r.r.poisoned

/-- RDSYS (R175); AUX 11 to 31 are reserved. -/
def execRdsys (l : Fin 6144) (rd : Fin 32) (aux : BitVec 5) (s : State) : Host.Outcome State Fault Refusal :=
  loaded "RDSYS" (decide (aux.toNat < 11)) (stockOnly "RDSYS" s l (ins s l 16 [rd] (fun r s => .ok (pS r rd (BitVec.ofNat 64 (sysValue s l r aux.toNat))) s)))

/-- The level at GPIO pin `i` (GPIO_CTL): what its holder drives, else what is applied to it. -/
def gpioLevel (s : State) (i : Nat) : Bool :=
  let driven := rdb s (Reg.MGMT.GPIO_CTL.DIR i) && rdb s (Reg.GLOBAL.CLAIM.HELD i)
  let low := !rdb s (Reg.MGMT.GPIO_CTL.OUT i)
  if driven && (low || !rdb s (Reg.MGMT.GPIO_CTL.OPEN_DRAIN i)) then !low else rdb s (Reg.MGMT.GPIO_CTL.IN i)

/-- A GPIO instruction: CLAIM where the pin is not in the image's GPIO_CLAIMS. -/
def gpioIns (m : String) (s : State) (l : Fin 6144) (regs : List Nat) (ra : Fin 32) (f : CellRun → State → Nat → Res) : Host.Outcome State Fault Refusal :=
  stockOnly m s l (ins s l 16 regs (fun r s =>
    let i := (gS r ra).toNat % 16
    if bitAt (imageOf s (l / 128)).gpio i then f r s i else .fault 9 0))

/-- GPIOW (R175): a pin set as an input is left as it is. -/
def execGpiow (l : Fin 6144) (ra rb : Fin 32) (s : State) : Host.Outcome State Fault Refusal :=
  gpioIns "GPIOW" s l [ra, rb] ra (fun r s i =>
    .ok r (if rdb s (Reg.MGMT.GPIO_CTL.DIR i) then wr s (Reg.MGMT.GPIO_CTL.OUT i) ((gS r rb).toNat % 2) else s))
/-- GPIOR (R175). -/
def execGpior (l : Fin 6144) (rd ra : Fin 32) (s : State) : Host.Outcome State Fault Refusal :=
  gpioIns "GPIOR" s l [rd, ra] ra (fun r s i => .ok (pS r rd (BitVec.ofNat 64 (b2n (gpioLevel s i)))) s)
/-- CNTRD (R175, R375). -/
def execCntrd (l : Fin 6144) (rd ra : Fin 32) (s : State) : Host.Outcome State Fault Refusal :=
  stockOnly "CNTRD" s l (ins s l 16 [rd, ra] (fun r s => .ok (pS r rd (BitVec.ofNat 64 (counterValue s (gS r ra).toNat))) s))

/-! ### INIT, TICK and TIMER (R98, R134, R142) -/

/-- CELL_INIT (R134, R142): with room for what it may emit, the random state is seeded, the image's INIT handler runs or starts, and tick events begin at the next tick. -/
def execCellInit (l : Fin 6144) (s : State) : Host.Outcome State Fault Refusal :=
  .next (
    if !s.cells.initDue.contains l.val || (cellRun s l).isSome || !emitRoom s l 0 then s
    else
      let i := imageOf s (l / 128)
      let s := seedRand { s with cells := { s.cells with initDue := s.cells.initDue.filter (fun x => x != l.val) } } l
      let s := taskBegin s (tickTask l) 4096
      if i.stock then stockHandler s l [] (fun s => s)
      else match imgEntry i 0 with
        | some e => startHandler s l 0 s.time.toNat [] none e
        | none => s)

/-- The cluster entry of map `k` (R367, R368). -/
def clusterEntry (s : State) (n k : Nat) : List Byte :=
  let cells := (List.range 128).map (fun i => 128 * n + i)
  let sum := fun j => cells.foldl (fun a l => a + windowCount s k (ctrNo 0x20 (4 * l + j))) 0
  let most := fun (f : Nat → Nat) => cells.foldl (fun a l => max a (f l)) 0
  leBytes 16 (packBits [(0, 32, k), (32, 8, most (fun l => cellHeld s l)), (40, 6, most (dovesIn s)), (48, 16, sum 1), (64, 32, sum 0), (96, 16, sum 2)])

/-- The tick work of the stock image: replies that wait go out, and logical cell 0 writes its cluster's entry of the map of the tick
before (R230, R368). -/
def stockTick (s : State) (l tick : Nat) : State :=
  let s := flushReplies s l
  if l % 128 = 0 && running s fTel && decide (0 < tick) then
    hbmWr s (mapAddr s (tick - 1) + 6976 + 16 * (l / 128)) (clusterEntry s (l / 128) (tick - 1))
  else s

/-- CELL_TICK (R134, R142): the next tick event of a cell that may start it, once its start under R98 has come. -/
def execCellTick (l : Fin 6144) (s : State) : Host.Outcome State Fault Refusal :=
  .next (
    if !clServes s (l / 128) || !tickWaits s l || !mayStart s l 1 then s
    else
      let n := taskNominal s (tickTask l)
      let area := leBytes 8 n ++ leBytes 8 (watermark s n)
      let i := imageOf s (l / 128)
      let s := taskRun s (tickTask l) 4096
      if i.stock then stockHandler s l area (fun s => stockTick s l (n / 4096))
      else match imgEntry i 1 with
        | some e => startHandler s l 1 n area none e
        | none => s)

/-- The first waiting event of general timer `k` at device cell `l` taken. -/
def takeTimer (s : State) (l k : Nat) : State :=
  let q := ((findKey s.cells.timers (32 * l + k)).getD []).drop 1
  { s with cells := { s.cells with timers := if q.isEmpty then delKey s.cells.timers (32 * l + k) else setKey s.cells.timers (32 * l + k) q } }

/-- CELL_TIMER (R142): the first event of general timer `k` that waits on a cell, stamped with its expiry (R175); an image without an entry
for it loses it. -/
def execCellTimer (l : Fin 6144) (k : Fin 32) (s : State) : Host.Outcome State Fault Refusal :=
  let i := imageOf s (l / 128)
  .next (match timerNext s l k with
    | none => s
    | some t =>
      if !clServes s (l / 128) then s
      else
        match (if i.stock then none else imgEntry i 2) with
        | none => takeTimer s l k
        | some e =>
          if !mayStart s l 2 then s
          else startHandler (taskRunAt (takeTimer s l k) (8192 + 32 * l + k) (timerPeriod s k) t.1) l 2 t.2 [] none e)

end Sys2Proof.Machine
end

