-- ==== Sys2Proof/Machine/Errors.lean ====
section
/-!
DEFINITION. Machine/Errors.lean: coalescing (R362), the log ring (R363, R364) and the on-chip log (R365).
-/
namespace Sys2Proof.Machine
open Sys2Proof

/-- The record of a source with pending errors that has emitted none in this tick (R362): the last of them, with those added until now. -/
def coalesced (s : State) (src : Nat) : State :=
  match findKey s.err.pending src with
  | some e =>
    if findKey s.err.emitted src = some (tickNo s) then s
    else emitRecord { s with err := { s.err with pending := delKey s.err.pending src } } src e true
  | none => s

/-- ERROR_COALESCE_TICK (R362): every source with pending errors that has emitted no record in this tick emits one. Bit i of `lost` says that error
events of crossing i have been lost since the last tick (R414). -/
def execErrorCoalesceTick (s : State) (lost : BitVec 5 := 0) : Host.Outcome State Fault Refusal :=
  let s := (List.range 5).foldl (fun s i => if bitAt lost.toNat i then cdcLost s i else s) s
  .next ((s.err.pending.map (fun e => e.1)).foldl coalesced s)

/-- HEAD written (R363): one that would pass TAIL is refused while ENABLE is set; space lets a dropped count be reported (R364). -/
def ringHead (s : State) (w : Writer) (head : Nat) (acc : Nat × Nat := (0x8010, 4)) : State :=
  let step := (head + 2 ^ 32 - rd s Reg.GLOBAL.ERR_RING_HEAD.HEAD) % 2 ^ 32
  if rdb s Reg.GLOBAL.ERR_RING_CFG.ENABLE && decide (ringUsed s < step) then regError s w acc.1 acc.2 true 7
  else overrunRecord (ringFull (wr s Reg.GLOBAL.ERR_RING_HEAD.HEAD head))

/-- ERR_RING_HEAD_WRITE (R363). -/
def execErrRingHeadWrite (w : Writer) (head : BitVec 32) (s : State) : Host.Outcome State Fault Refusal := .next (ringHead s w head.toNat)

/-- ENABLE written (R363): setting it sets TAIL = HEAD; clearing it drops the records that wait to be written. -/
def ringEnable (s : State) (on : Bool) : State :=
  if on && !rdb s Reg.GLOBAL.ERR_RING_CFG.ENABLE then
    let s := wr (wr s Reg.GLOBAL.ERR_RING_CFG.ENABLE 1) Reg.GLOBAL.ERR_RING_TAIL.TAIL (rd s Reg.GLOBAL.ERR_RING_HEAD.HEAD)
    overrunRecord (ringFull s)
  else if on then s
  else wr (ringLose s) Reg.GLOBAL.ERR_RING_CFG.ENABLE 0

/-- ERR_RING_ENABLE (R363). -/
def execErrRingEnable (on : Bool) (s : State) : Host.Outcome State Fault Refusal := .next (ringEnable s on)

/-- ERR_RING_MSI_TIMER (R363): one tick after the first record that no message has announced. -/
def execErrRingMsiTimer (s : State) : Host.Outcome State Fault Refusal :=
  .next (match s.err.ringTimer with
    | some t =>
      if t + ticks 1 ≤ s.now then
        sendMsix { s with err := { s.err with unsignalled := 0, ringTimer := none } } (mgrPort s) 0 (rd s Reg.GLOBAL.ERR_RING_CFG.VECTOR)
      else s
    | none => s)

/-- The on-chip log emptied (R365). -/
def logClear (s : State) : State :=
  let s := wrs s [(Reg.GLOBAL.LOG_STATUS.FIRST_FILLED, 0), (Reg.GLOBAL.LOG_STATUS.LAST_NEXT, 0), (Reg.GLOBAL.LOG_STATUS.LAST_WRAPPED, 0),
    (Reg.GLOBAL.LOG_STATUS.TOTAL, 0)]
  (List.range 256).foldl (fun s k => wrs s (logWrites k 0)) s

/-- LOG_CLEAR (R365). -/
def execLogClear (s : State) : Host.Outcome State Fault Refusal := .next (logClear s)

/-- CLEAR of ERR_SRC written (R362). -/
def srcClear (s : State) (n : Nat) : State :=
  cnt (wrs s [(Reg.GLOBAL.ERR_SRC.COUNT n, 0), (Reg.GLOBAL.ERR_SRC.FIRST_TIME n, 0), (Reg.GLOBAL.ERR_SRC.FIRST_CLASS n, 0),
    (Reg.GLOBAL.ERR_SRC.FIRST_CAUSE n, 0), (Reg.GLOBAL.ERR_SRC.LAST_CLASS n, 0), (Reg.GLOBAL.ERR_SRC.LAST_CAUSE n, 0),
    (Reg.GLOBAL.ERR_SRC.LAST_TIME n, 0)]) (Reg.GLOBAL.ERR_SRC.UPDATE n)

/-- ERR_SRC_CLEAR (R362). -/
def execErrSrcClear (n : BitVec 9) (s : State) : Host.Outcome State Fault Refusal := .next (srcClear s n.toNat)

end Sys2Proof.Machine
end

