-- ==== Sys2Proof/Machine/Frames.lean ====
section
/-!
DEFINITION. Machine/Frames.lean: link frames sent and received (R85 to R88, R121, R344), the key exchange and rekeys (R342, R343,
R398, R399), and the entry to UP (R332).
-/
namespace Sys2Proof.Machine
open Sys2Proof

/-! ### The trailer (R85) -/

/-- Trailer bytes 16 to 31, which the tag covers. -/
def frameAad (ctr keySeq codes credit : Nat) : List Byte :=
  leBytes 5 ctr ++ leBytes 1 keySeq ++ leBytes 2 0 ++ leBytes 4 codes ++ leBytes 4 credit

/-- The 512 B of the flit slots. -/
def frameText (f : Frame) : List Byte := padTo 512 (f.slots.flatMap (fun x => leBytes 64 x.toNat))

/-- A frame of eight flits sealed and sent on half `h`; the frame counter and the key's use go up (R85, R342). -/
def sealFrame (s : State) (h : Nat) (flits codes : List Nat) (credit : Nat) : State :=
  let r := linkRun s h
  let keySeq := if r.prk.isNone then 0xFF else r.txR % 256
  let cw := packBits ((List.range 8).map (fun k => (4 * k, 4, codes.getD k 0)))
  let kn := frameKey r.prk (serviceId s) r.txR r.txCtr
  let sealed_ := Config.gcmSeal kn.1 kn.2 (frameAad r.txCtr keySeq cw credit) ((List.range 8).flatMap (fun k => leBytes 64 (flits.getD k 0)))
  let ct := padTo 512 sealed_.1
  let f : Frame := { tagGcm := BitVec.ofNat 128 sealed_.2, ctrLo := BitVec.ofNat 40 r.txCtr, keySeq := BitVec.ofNat 8 keySeq,
                     codes := BitVec.ofNat 32 cw, credit := BitVec.ofNat 32 credit,
                     slots := (List.range 8).map (fun k => BitVec.ofNat 512 (ofLeBytes (sliceBytes ct (64 * k) 64))) }
  let s := setLink s h { r with txCtr := r.txCtr + 1, txFrames := if r.prk.isNone then r.txFrames else r.txFrames + 1 }
  let s := if r.prk.isNone then s else cnt s (Reg.PORT.KEY_STATUS.TX_FRAMES_KEY (h / 2) (h % 2))
  emitOut s (.frame h f)

/-! ### LINK_FRAME_SEND (R85, R86, R87, R121) -/

/-- Flit `i` of a packet. -/
def flitOf (p : Packet) (i : Nat) : Nat := if i = 0 then hdrBits p.h else ofLeBytes (sliceBytes p.payload (64 * (i - 1)) 64)

/-- All flits of a packet have entered the device and crossed to the egress FIFO. -/
def Egress.whole (e : Egress) : Bool := decide (e.total ≤ e.moved) && decide (e.total ≤ e.got)

/-- Up to `n` flits with their codes from an egress FIFO, and the FIFO after them: a packet starts only once all its flits are
there, so that no idle flit falls inside it (R87; DESIGN CHOICE, log entry 20). -/
def takeFlits : Nat → List Egress → List (Nat × Nat) × List Egress
  | 0, l => ([], l)
  | _, [] => ([], [])
  | n + 1, e :: l =>
    if e.sent = 0 ∧ e.whole = false then ([], e :: l)
    else
      let last := e.sent + 1 == e.total
      let code := (if e.sent = 0 then 1 else 0) + 4 * (if last then (if e.stomp then 3 else 2) else 0)
      let r := takeFlits n (if last then l else { e with sent := e.sent + 1 } :: l)
      ((flitOf e.p e.sent, code) :: r.1, r.2)

/-- The first `n` flits of an egress FIFO that may go out counted by class (R375). -/
def countSent (s : State) (h : Nat) : List Egress → Nat → State
  | [], _ => s
  | e :: l, n =>
    if n = 0 ∨ (e.sent = 0 ∧ e.whole = false) then s
    else
      let k := min n (e.total - e.sent)
      countSent (bump s (ctrNo 0x01 (8 * h + e.p.h.tc.toNat)) k) h l (n - k)

/-- The class with the most unreturned flits, the lowest of several, and how many one frame returns (R121). -/
def creditPick (s : State) (h : Nat) : Nat × Nat :=
  let owed := fun c => (findKey s.sw.owed (8 * h + c)).getD 0
  (List.range 8).foldl (fun (b : Nat × Nat) c => if b.2 < min (owed c) 4095 then (c, min (owed c) 4095) else b) (0, 0)

/-- Before the first frame of every eighth control period, each of 150 × width frames, a marker goes out on every active lane (R326). -/
def stripeFrame (s : State) (h : Nat) : State :=
  let due := (linkRun s h).striped % (8 * 150 * max 1 (rd s (Reg.PORT.LINK_STATUS.WIDTH (h / 2) (h % 2)))) = 0
  let s := if due then sendMarkers s h (lanesOf (activeMask s h)) else s
  setLink s h { linkRun s h with striped := (linkRun s h).striped + 1 }

/-- The frame of a link that is UP: flits of its egress FIFO, and credit of one class. -/
def sendFrame (s : State) (h : Nat) : State :=
  let r := takeFlits 8 (egressOf s h)
  let s := countSent s h (egressOf s h) 8
  let c := creditPick s h
  let credit := if c.2 = 0 then 0 else 1 + 2 * c.1 + 16 * c.2
  let s := setEgress s h r.2
  let s := if c.2 = 0 then s else
      { s with sw := { s.sw with owed := putKey s.sw.owed (8 * h + c.1) 0 ((findKey s.sw.owed (8 * h + c.1)).getD 0 - c.2) } }
  sealFrame s h (r.1.map (fun x => x.1)) (r.1.map (fun x => x.2)) credit

/-- The key offer of R399, as the flit of slot 0. -/
def offerFlit (s : State) (h : Nat) : Nat :=
  let r := linkRun s h
  let gen := fun (k : Option (Nat × List Byte)) => (k.map (fun x => x.1)).getD 0
  let echo := match r.peer with | some p => p.2.2.take 16 | none => []
  ofLeBytes (leBytes 4 0x4F464B4C ++ leBytes 2 (serviceId s) ++ leBytes 2 0 ++ leBytes 4 (gen s.fw.rlkNew) ++ leBytes 4 (gen s.fw.rlkOld) ++
    padTo 32 r.nonce ++ padTo 16 echo)

/-- The offer frame of a link in KEYING that has not switched (R399). -/
def sendOffer (s : State) (h : Nat) : State :=
  let s := sealFrame s h [offerFlit s h] [] 0
  let r := linkRun s h
  trySwitch (setLink s h { r with echoes := if r.peer.isSome then r.echoes + 1 else r.echoes }) h

/-- LINK_FRAME_SEND (R85): in KEYING an offer or, once switched, an idle frame; in UP the flits that wait; nothing else. -/
def execLinkFrameSend (h : BitVec 8) (s : State) : Host.Outcome State Fault Refusal :=
  let h := h.toNat
  .next (
    if !halfIs s h || dieShut s (h / 32) then s
    else if linkState s h = 2 then (if (linkRun s h).prk.isNone then sendOffer (stripeFrame s h) h else sealFrame (stripeFrame s h) h [] [] 0)
    else if linkState s h = 3 ∧ (linkRun s h).paused = false then sendFrame (stripeFrame s h) h else s)

/-! ### Frames received -/

/-- The 64-bit counter of a frame: the least one not yet passed whose low 40 bits are CTR_LO (R85). -/
def frameCtr (r : LinkRun) (lo : Nat) : Nat :=
  let c := r.rxCtr / 2 ^ 40 * 2 ^ 40 + lo
  if c < r.rxCtr then c + 2 ^ 40 else c

/-- A frame opened under the current receive key or the next one, or under the bootstrap key in KEYING: its text, the key's
number and its counter (R343, R399). -/
def openFrame (s : State) (h : Nat) (f : Frame) : Option (List Byte × Option Nat × Nat) :=
  let r := linkRun s h
  let c := frameCtr r f.ctrLo.toNat
  let try_ := fun (prk : Option (List Byte)) (k : Nat) =>
    let kn := frameKey prk (peerSender s h) k c
    Config.gcmOpen kn.1 kn.2 (frameAad f.ctrLo.toNat f.keySeq.toNat f.codes.toNat f.credit.toNat) (frameText f) f.tagGcm.toNat
  if linkState s h = 2 ∧ f.keySeq = 0xFF then (try_ none 0).map (fun t => (t, none, c))
  else if r.prk.isNone then none
  else if f.keySeq.toNat = r.rxR % 256 then (try_ r.prk r.rxR).map (fun t => (t, some r.rxR, c))
  else if f.keySeq.toNat = (r.rxR + 1) % 256 then (try_ r.prk (r.rxR + 1)).map (fun t => (t, some (r.rxR + 1), c))
  else none

/-- The head and tail codes of slot `k`. -/
def slotCodes (codes k : Nat) : Nat × Nat := (bits codes (4 * k) 2, bits codes (4 * k + 2) 2)

/-- No frame error in the codes from slot `k` on, with a packet open or not (R86). -/
def codesOk (codes : Nat) : Nat → Nat → Bool → Bool
  | 0, _, _ => true
  | n + 1, k, isOpen =>
    match slotCodes codes k with
    | (1, 0) => !isOpen && codesOk codes n (k + 1) true
    | (1, 2) | (1, 3) => !isOpen && codesOk codes n (k + 1) false
    | (0, 0) => codesOk codes n (k + 1) isOpen
    | (0, 2) | (0, 3) => isOpen && codesOk codes n (k + 1) false
    | _ => false

/-- What half `h` has received of an open packet. -/
def rxOf (s : State) (h : Nat) : Rx := (findKey s.sw.rx h).getD {}
/-- That set. -/
def setRx (s : State) (h : Nat) (r : Rx) : State := { s with sw := { s.sw with rx := putKey s.sw.rx h {} r } }

/-- A frame discarded (R88, R344): counted, its open packet stomped or dropped, flits skipped up to the next SOP, a PACKET record. -/
def discardFrame (s : State) (h : Nat) (error : Bool) : State :=
  let p := h / 2
  let x := rxOf s h
  let s := cnt s (Reg.PORT.PORT_COUNT.AUTH_FAILS p (h % 2))
  let s := if error then cnt s (Reg.PORT.PORT_COUNT.FRAME_ERRORS p (h % 2)) else s
  let s := setLink s h { linkRun s h with bad := (linkRun s h).bad + 1 }
  let s := match x.fwd with
    | some id => stompPkt s id
    | none => s
  packetError (setRx s h { skip := true }) p 6 0

/-- The packet numbered `id` is still arriving: it is in the buffer or admitted to a jig slot, without its tail. -/
def arriving (s : State) (id : Nat) : Bool :=
  s.sw.pkts.any (fun q => q.id == id && decide (q.arrived < q.total)) ||
  s.sw.egress.any (fun e => e.2.any (fun y => y.id == id && decide (y.got < y.total)))

/-- The first flit of a packet that continues: it goes through S1 to S4 as a head (R110); `p` is the packet as far as its sender knows it.
A header that promises no payload disagrees with the flits to come (R54). -/
def rxHead (s : State) (h : Nat) (p : Packet) (miss : Bool) : State :=
  let id := s.sw.nextId
  let s := if expectedFlits p.h ≤ 1 then discardBad (takeOffer s (h / 2) p) (h / 2) h 2 (stamped s { h := p.h }) 1 true
    else ingress s (h / 2) h p false miss
  setRx s h { flits := [hdrBits p.h], fwd := if arriving s id then some id else none }

/-- One more flit of the open packet: it arrives in the buffer, or its credit is returned at once where nothing holds the packet. The
packet is not whole before its tail code (R86). -/
def rxMore (s : State) (h flit : Nat) : State :=
  let x := rxOf s h
  let s := setRx s h { x with flits := x.flits ++ [flit] }
  let tc := (hdrOfBits (x.flits.headD 0)).tc.toNat
  match x.fwd with
  | none => oweCredit s (h / 2) h tc 1
  | some id =>
    let held := s.sw.pkts.any (fun q => q.id == id && q.place == .held)
    let s := if held then s else oweCredit s (h / 2) h tc 1
    let more := fun (p : Packet) => { p with payload := p.payload ++ leBytes 64 flit }
    let s := { s with sw := { s.sw with
        pkts := s.sw.pkts.map (fun q => if q.id = id then { q with p := more q.p, arrived := min (q.total - 1) (q.arrived + 1) } else q) } }
    mapEgress s id (fun y => { y with p := more y.p, got := min (y.total - 1) (y.got + 1) })

/-- The open packet is whole (R75, R88, R112): its tail enters, and its mirror copy is made; a stomped, malformed or corrupt one is
stomped. -/
def rxTail (s : State) (h : Nat) (stomp : Bool) : State :=
  let x := rxOf s h
  let s := setRx s h {}
  match x.fwd with
  | none => s
  | some id =>
    let hd := hdrOfBits (x.flits.headD 0)
    let p : Packet := { h := hd, payload := (x.flits.drop 1).flatMap (fun f => leBytes 64 f), stomp := stomp }
    match ingressFault s p true with
    | some (cause, count) =>
      let s := { s with sw := { s.sw with pkts := s.sw.pkts.map (fun q => if q.id == id && q.place == .held then { q with arrived := x.flits.length } else q) } }
      let s := if count && decide (h < 256) then cnt s (Reg.PORT.PORT_COUNT.MALFORMED (h / 2) (h % 2)) else s
      stompPkt (packetError s (h / 2) cause (hdrBits hd)) id
    | none =>
      let s := mapEgress s id (fun y => { y with got := y.total })
      match s.sw.pkts.find? (fun q => q.id == id) with
      | some q => mirrorCopy (finishArrival (setPkt s { q with arrived := q.total }) id) (h / 2) q.p q.total
      | none => s

/-- PACKET_INGRESS (R107): a packet enters at a crossbar port with its tail (`complete`) or its head alone; after a head, the command with
the same packet and `complete` is its tail, and no other packet enters at the half meanwhile (R87). -/
def packetIn (s : State) (inp half : Nat) (p : Packet) (complete miss : Bool) : State :=
  match (rxOf s half).flits with
  | [] => if complete then ingress s inp half p true miss else if entryShut s inp half p then s else rxHead s half p miss
  | f :: got =>
    if complete && f == hdrBits p.h then
      rxTail (((List.range (p.flits - 1)).drop got.length).foldl (fun s i => rxMore s half (flitOf p (i + 1))) s) half p.stomp
    else s

/-- PACKET_INGRESS (R107). -/
def execPacketIngress (inp : Fin 232) (hi : Bool) (p : Packet) (complete miss : Bool) (s : State) : Host.Outcome State Fault Refusal :=
  .next (packetIn s inp.val (2 * inp.val + b2n hi) p complete miss)

/-- One received flit of the packet that starts with `flit` counted by class (R375). -/
def countGot (s : State) (h flit : Nat) : State := bump s (ctrNo 0x02 (8 * h + (hdrOfBits flit).tc.toNat))

/-- One slot of an accepted frame (R86, R88). -/
def rxSlot (s : State) (h head tail flit : Nat) (miss : Bool) : State :=
  let s := if head = 1 then countGot s h flit else match (rxOf s h).flits with | f :: _ => countGot s h f | [] => s
  if head = 1 then
    (if tail = 0 then rxHead s h { h := hdrOfBits flit } miss
     else ingress (setRx s h {}) (h / 2) h { h := hdrOfBits flit, stomp := tail == 3 } true miss)
  else if (rxOf s h).flits.isEmpty then s
  else if tail = 0 then rxMore s h flit else rxTail (rxMore s h flit) h (tail == 3)

/-- The slots of an accepted frame, in order. -/
def rxSlots (s : State) (h codes : Nat) (text : List Byte) (miss : Bool) : State :=
  (List.range 8).foldl (fun s k => rxSlot s h (slotCodes codes k).1 (slotCodes codes k).2 (ofLeBytes (sliceBytes text (64 * k) 64)) miss) s

/-- The credit that a frame returns (R85, R121). -/
def takeCredit (s : State) (h credit : Nat) : State :=
  if bitAt credit 0 then
    let k := 8 * h + bits credit 1 3
    { s with sw := { s.sw with credit := putKey s.sw.credit k 0 ((findKey s.sw.credit k).getD 0 + bits credit 4 12) } }
  else s

/-- The offer in an authenticated bootstrap frame (R399): an echo that is not zero and not of the own nonce is ignored whole. -/
def offerIn (s : State) (h : Nat) (text : List Byte) : State :=
  let f := fun a n => ofLeBytes (sliceBytes text a n)
  let r := linkRun s h
  let echo := sliceBytes text 48 16
  if f 0 4 ≠ 0x4F464B4C ∨ (f 48 16 ≠ 0 ∧ echo ≠ r.nonce.take 16) then s
  else
    let nonce := sliceBytes text 16 32
    let same := (match r.peer with | some p => p.2.2 == nonce | none => false)
    trySwitch (setLink s h { r with peer := some ([f 8 4, f 12 4], f 4 2, nonce), matched := r.matched || f 48 16 != 0,
                                    echoes := if same then r.echoes else 0 }) h

/-- The receive side after an accepted frame: its counter, its key's use, the old key erased at the first frame under the next. -/
def rxAccepted (s : State) (h c : Nat) (key : Option Nat) : State :=
  let r := linkRun s h
  let r := { r with rxCtr := c + 1, bad := 0 }
  setLink s h (match key with
    | none => r
    | some k => if k = r.rxR then { r with rxFrames := r.rxFrames + 1, seen := true }
        else { r with rxR := k, rxFrames := 1, rxAt := s.now, rxReady := false, seen := true })

/-- A frame on half `h` (R88, R344). A link that is UP and whose AUTH_LIMIT has been reached takes none. -/
def frameIn (s : State) (h : Nat) (f : Frame) (miss : Bool) : State :=
  let limit := rd s (Reg.PORT.LINK_CFG.AUTH_LIMIT (h / 2))
  if !halfIs s h || dieShut s (h / 32) || !(linkState s h == 2 || linkState s h == 3) || (linkState s h == 3 && decide (limit ≤ (linkRun s h).bad)) then s
  else
    match openFrame s h f with
    | none => discardFrame s h false
    | some (text, key, c) =>
      if !codesOk f.codes.toNat 8 0 (!(rxOf s h).flits.isEmpty) && !((rxOf s h).skip && codesOk f.codes.toNat 8 0 true) then discardFrame s h true
      else
        let s := rxAccepted s h c key
        if key.isNone then offerIn s h text
        else if linkState s h = 3 then rxSlots (takeCredit s h f.credit.toNat) h f.codes.toNat text miss
        else s

/-- LINK_FRAME_RECEIVE (R88); `miss` says that the extent cache misses for the packets of this frame. -/
def execLinkFrameReceive (h : BitVec 8) (f : Frame) (miss : Bool) (s : State) : Host.Outcome State Fault Refusal :=
  .next (frameIn s h.toNat f miss)

/-- LINK_AUTH_LIMIT (R332, R344): AUTH_LIMIT frames in a row have been discarded on a link that is UP. -/
def execLinkAuthLimit (h : BitVec 8) (s : State) : Host.Outcome State Fault Refusal :=
  .next (if linkState s h.toNat = 3 ∧ rd s (Reg.PORT.LINK_CFG.AUTH_LIMIT (h.toNat / 2)) ≤ (linkRun s h.toNat).bad then linkDown s h.toNat 7 2 else s)

/-! ### Keying and the entry to UP (R332, R399) -/

/-- KEYING_OFFER (R399): a bootstrap frame with its offer, on a link in KEYING. -/
def execKeyingOffer (h : BitVec 8) (f : Frame) (s : State) : Host.Outcome State Fault Refusal :=
  .next (if linkState s h.toNat = 2 ∧ f.keySeq = 0xFF then frameIn s h.toNat f false else s)

/-- A port's allotment of class `c` for one half, in flits (R121). -/
def allotment (s : State) (p c : Nat) : Nat :=
  16 * (if isSplit s p then rd s (Reg.SWITCH.PORT_CREDIT.ALLOT p c) / 2 else rd s (Reg.SWITCH.PORT_CREDIT.ALLOT p c))

/-- The link of half `h` comes UP: no credit held, the whole allotment to return (R121), the peer's SENDER_ID noted
(R327), the members that it reaches no longer held unreachable (R215), and a width change asked for where lanes have changed meanwhile. -/
def linkIsUp (s : State) (h : Nat) : State :=
  let p := h / 2
  let s := cnt (wr s (Reg.PORT.LINK_STATUS.STATE p (h % 2)) 3) (Reg.PORT.LINK_STATUS.LINK_UPS p (h % 2))
  let s := setLink s h { linkRun s h with since := s.now }
  let s := { s with link := { s.link with sender := setKey s.link.sender h (peerSender s h) } }
  let s := trace s 0 6 0x0701 p (linkGen s h)
  let s := (List.range 8).foldl (fun s c =>
    { s with sw := { s.sw with credit := delKey s.sw.credit (8 * h + c), owed := putKey s.sw.owed (8 * h + c) 0 (allotment s p c) } }) s
  wantWidth (memberTest s none) h

/-- LINK_KEYED (R332): keys installed and an authenticated frame received, within 200 ms, on a half with no port-down work due. -/
def execLinkKeyed (h : BitVec 8) (s : State) : Host.Outcome State Fault Refusal :=
  let r := linkRun s h.toNat
  .next (if linkState s h.toNat = 2 ∧ r.prk.isSome ∧ r.seen ∧ s.now < r.since + ms 200 ∧ !s.sw.down.contains h.toNat then linkIsUp s h.toNat else s)

/-- LINK_KEYING_TIMEOUT (R332). -/
def execLinkKeyingTimeout (h : BitVec 8) (s : State) : Host.Outcome State Fault Refusal :=
  .next (if linkState s h.toNat = 2 ∧ (linkRun s h.toNat).since + ms 200 ≤ s.now then linkDown s h.toNat 6 2 else s)

/-! ### Rekeys (R343) -/

/-- A key is due for its successor: 2^39 frames or 23 h. -/
def keyDue (frames age : Nat) : Bool := decide (2 ^ 39 ≤ frames) || decide (secs (23 * 3600) ≤ age)
/-- A key is past its life: 2^40 frames or 24 h. -/
def keyOver (frames age : Nat) : Bool := decide (2 ^ 40 ≤ frames) || decide (secs (24 * 3600) ≤ age)

/-- REKEY_DUE (R343): the security core installs the next key of the sending or of the receiving direction. -/
def execRekeyDue (h : BitVec 8) (receive : Bool) (s : State) : Host.Outcome State Fault Refusal :=
  let n := h.toNat
  let r := linkRun s n
  .next (
    if linkState s n ≠ 3 ∨ procAway s 0 then s
    else if receive then (if keyDue r.rxFrames (s.now - r.rxAt) then setLink s n { r with rxReady := true } else s)
    else if keyDue r.txFrames (s.now - r.txAt) then wr s (Reg.PORT.KEY_STATUS.NEXT_READY (n / 2) (n % 2)) 1
    else s)

/-- NEXT_KEY_INSTALLED (R343): the sender goes on with KEY_SEQ + 1 at a frame boundary. -/
def execNextKeyInstalled (h : BitVec 8) (s : State) : Host.Outcome State Fault Refusal :=
  let p := h.toNat / 2
  let i := h.toNat % 2
  let r := linkRun s h.toNat
  .next (if linkState s h.toNat = 3 ∧ rdb s (Reg.PORT.KEY_STATUS.NEXT_READY p i) then
      wrs (setLink (trace s 0 6 0x0702 p (r.txR + 1)) h.toNat { r with txR := r.txR + 1, txAt := s.now, txFrames := 0 })
        [(Reg.PORT.LINK_STATUS.KEY_SEQ p i, r.txR + 1), (Reg.PORT.KEY_STATUS.TX_FRAMES_KEY p i, 0), (Reg.PORT.KEY_STATUS.KEY_AGE_S p i, 0),
          (Reg.PORT.KEY_STATUS.NEXT_READY p i, 0)]
    else s)

/-- KEY_EXPIRED (R343): a key has reached its end without a switch. -/
def execKeyExpired (h : BitVec 8) (s : State) : Host.Outcome State Fault Refusal :=
  let n := h.toNat
  let r := linkRun s n
  .next (if linkState s n = 3 ∧ (keyOver r.txFrames (s.now - r.txAt) || keyOver r.rxFrames (s.now - r.rxAt)) then
      linkDown s n 9 2
    else s)

/-! ### Port down, routes and bundles (R115, R125, R127, R215) -/

/-- PORT_DOWN (R125): the port-down work of a half whose link has left UP, and the scheduler core's reachability test (R215). -/
def execPortDown (h : BitVec 8) (s : State) : Host.Outcome State Fault Refusal :=
  .next (if s.sw.down.contains h.toNat then memberTest (portDownHalf s h.toNat) none else s)

/-- A ROUTE entry replaced (R115, R127); with ANNOUNCE, TAKEOVER is broadcast once the entry is in use, and the test of R215 names its ID. -/
def routeWrite (s : State) (w : Writer) (d bundle : Nat) (valid announce : Bool) (acc : Nat × Nat := (0x208000 + d * 8, 8)) : State :=
  if d = 0xFFF then regError s w acc.1 acc.2 true 7
  else
    let s := wr (wrb s (Reg.SWITCH.ROUTE.VALID d) valid) (Reg.SWITCH.ROUTE.BUNDLE d) bundle
    let s := if announce then
        report (inject s 228 (noticeTo s 0xFFF 4 d 0x1FF 0 0 0)) 467 0x0B 2 0 d bundle
      else s
    memberTest s (if announce then some d else none)

/-- ROUTE_WRITE (R115). -/
def execRouteWrite (w : Writer) (d : BitVec 12) (bundle : BitVec 8) (valid announce : Bool) (s : State) : Host.Outcome State Fault Refusal :=
  .next (routeWrite s w d.toNat bundle.toNat valid announce)

/-- Word `i` of the holding copy of BUNDLE entry `b`. Each entry has one, zero at first and kept after word 3 is written (DESIGN CHOICE, log
entry 64). -/
def bundleHeld (s : State) (b i : Nat) : Nat := (findKey s.sw.bundleHold (4 * b + i)).getD 0

/-- A BUNDLE word written: words 0 to 2 to the holding copy, word 3 replaces the whole entry (R115). -/
def bundleWrite (s : State) (b word v : Nat) : State :=
  if word < 3 then { s with sw := { s.sw with bundleHold := putKey s.sw.bundleHold (4 * b + word) 0 v } }
  else
    let s := (List.range 3).foldl (fun s i => wr s (Reg.SWITCH.BUNDLE.MEMBERS b i) (bundleHeld s b i)) s
    memberTest (wr s (Reg.SWITCH.BUNDLE.MEMBERS b 3) v) none

/-- BUNDLE_WRITE (R115): the write of word 3. -/
def execBundleWrite (b : BitVec 8) (v : BitVec 64) (s : State) : Host.Outcome State Fault Refusal := .next (bundleWrite s b.toNat 3 v.toNat)

end Sys2Proof.Machine
end

