-- ==== Sys2Proof/Machine/Jigs.lean ====
section
/-!
DEFINITION. Machine/Jigs.lean: the jig table's stage bank, its validation and its commit (R101, R104, R105).
-/
namespace Sys2Proof.Machine
open Sys2Proof

/-! ### The copy of the stage bank -/

/-- Bit address of the stage bank; the active bank follows at 0x13_0000. -/
def jigStageKey : Nat := 8 * 0x110000
/-- The register entries of the bank at `base`, relative to it. -/
def bankOf (s : State) (base : Nat) : List (Nat × Nat) :=
  (s.regs.filter (fun e => decide (base ≤ e.1) && decide (e.1 < base + 4096 * 256))).map (fun e => (e.1 - base, e.2))
/-- The bank at `base` replaced by `l`. -/
def setBank (s : State) (base : Nat) (l : List (Nat × Nat)) : State :=
  { s with regs := l.foldl (fun r e => setKey r (base + e.1) e.2) (s.regs.filter (fun e => !(decide (base ≤ e.1) && decide (e.1 < base + 4096 * 256)))) }

/-- An entry as the commit checks it. -/
structure JigEntry where
  j : Nat
  ins : Nat
  mask : Nat
  out : Nat
  kinds : Nat
  tcs : Nat
deriving DecidableEq, Repr

/-- The valid entries of a bank, ascending. -/
def jigTable (l : List (Nat × Nat)) : List JigEntry :=
  let f := fun (j lo : Nat) => (findKey l (256 * j + lo)).getD 0
  ((l.filter (fun e => e.1 % 256 == 192 && e.2 != 0)).map (fun e => e.1 / 256)).map
    (fun j => ⟨j, f j 0 + 2 ^ 64 * f j 64, f j 128, f j 193, f j 200, f j 204⟩)

/-! ### The checks of R104: the first failing entry, the clashing entry and the slot -/

/-- The lowest slot with property `f`. -/
def firstSlot (f : Nat → Bool) : Option Nat := (List.range 64).find? f

/-- The first pair of entries, in ascending order, with a slot of property `f`. -/
def firstClash (f : JigEntry → JigEntry → Nat → Bool) : List JigEntry → Option (Nat × Nat × Nat)
  | [] => none
  | a :: l =>
    match l.findSome? (fun b => (firstSlot (f a b)).map (fun sl => (a.j, b.j, sl))) with
    | some r => some r
    | none => firstClash f l

/-- Port `p` is held by entry `e` in slot `sl`, as input or output. -/
def holdsPort (e : JigEntry) (p sl : Nat) : Bool := bitAt e.mask sl && (e.out == p || slotHolder e.ins e.mask sl == some p)

/-- Slots in which some entry of `l` holds port `p`, ascending. -/
def heldSlots (l : List JigEntry) (p : Nat) : List Nat := (List.range 64).filter (fun sl => l.any (fun e => holdsPort e p sl))

/-- CHECK 4: the first entry with which, after those before it, a port is held in more than 56 slots, and the 57th of these. -/
def portLoad : List JigEntry → List JigEntry → Option (Nat × Nat × Nat)
  | _, [] => none
  | before, e :: l =>
    match (List.range 128).findSome? (fun p => let h := heldSlots (before ++ [e]) p; if 56 < h.length then h[56]? else none) with
    | some sl => some (e.j, 0, sl)
    | none => portLoad (before ++ [e]) l

/-- The first entry with property `f`. -/
def firstEntry (l : List JigEntry) (f : JigEntry → Bool) : Option (Nat × Nat × Nat) := (l.find? f).map (fun e => (e.j, 0, 0))

/-- The first failed check of R104 over a table: its number, ENTRY_A, ENTRY_B and SLOT. -/
def jigCheck (s : State) (l : List JigEntry) : Option (Nat × Nat × Nat × Nat) :=
  [(1, (l.findSome? (fun e => ([62, 63].find? (bitAt e.mask)).map (fun sl => (e.j, 0, sl))))),
    (2, firstClash (fun a b sl => a.out == b.out && bitAt a.mask sl && bitAt b.mask sl) l),
    (3, firstClash (fun a b sl => (slotHolder a.ins a.mask sl).isSome && slotHolder a.ins a.mask sl == slotHolder b.ins b.mask sl) l),
    (4, portLoad [] l),
    (5, firstEntry l (fun e => isSplit s e.out || (setBits 128 e.ins).any (fun p => isSplit s p))),
    (6, firstEntry l (fun e => bitAt e.ins e.out)),
    (7, firstEntry l (fun e => e.ins == 0 || e.kinds == 0 || e.tcs == 0))].findSome? (fun c => c.2.map (fun r => (c.1, r)))

/-! ### The commit protocol (R105) -/

/-- STATUS of the commit in progress. -/
def jigStatus (s : State) : Nat := rd s Reg.TICK.JIG_COMMIT_STATUS.STATUS
/-- STATUS set, with CHECK, ENTRY_A, ENTRY_B and SLOT. -/
def setJigStatus (s : State) (st : Nat) (c : Nat × Nat × Nat × Nat) : State :=
  wrs (trace s 3 3 0x0400 st s.jig.target) [(Reg.TICK.JIG_COMMIT_STATUS.STATUS, st), (Reg.TICK.JIG_COMMIT_STATUS.CHECK, c.1), (Reg.TICK.JIG_COMMIT_STATUS.ENTRY_A, c.2.1),
    (Reg.TICK.JIG_COMMIT_STATUS.ENTRY_B, c.2.2.1), (Reg.TICK.JIG_COMMIT_STATUS.SLOT, c.2.2.2)]
/-- VALIDATING, ARMED or SYNCING: writes of the stage bank and of the commit are discarded. -/
def jigBusy (s : State) : Bool := jigStatus s == 1 || jigStatus s == 2 || jigStatus s == 6

/-- A write of word `k` of stage entry `j`. -/
def jigStageWrite (s : State) (w : Writer) (j k v : Nat) (acc : Nat × Nat := (0x110000 + j * 0x20 + 8 * k, 8)) : State :=
  if jigBusy s then regError s w acc.1 acc.2 true 6
  else
    match k with
    | 0 => wr s (Reg.TICK.JIG_STAGE.IN_PORTS j 0) v
    | 1 => wr s (Reg.TICK.JIG_STAGE.IN_PORTS j 1) v
    | 2 => wr s (Reg.TICK.JIG_STAGE.SLOT_MASK j) v
    | _ => wrs s [(Reg.TICK.JIG_STAGE.VALID j, v), (Reg.TICK.JIG_STAGE.OUTPUT j, bits v 1 7), (Reg.TICK.JIG_STAGE.KINDS j, bits v 8 3),
        (Reg.TICK.JIG_STAGE.TENANT_ANY j, bits v 11 1), (Reg.TICK.JIG_STAGE.TCS j, bits v 12 8), (Reg.TICK.JIG_STAGE.DEST j, bits v 20 12),
        (Reg.TICK.JIG_STAGE.DEST_MASK j, bits v 32 12), (Reg.TICK.JIG_STAGE.TENANT j, bits v 44 12)]

/-- JIG_STAGE_WRITE (R105). -/
def execJigStageWrite (w : Writer) (j : BitVec 12) (k : Fin 4) (v : BitVec 64) (s : State) : Host.Outcome State Fault Refusal :=
  .next (jigStageWrite s w j.toNat k.val v.toNat)

/-- A commit write (R105): the whole stage bank is copied for validation. -/
def jigCommit (s : State) (w : Writer) (target : Nat) (acc : Nat × Nat := (0x100108, 8)) : State :=
  if jigBusy s then regError s w acc.1 acc.2 true 6
  else setJigStatus { s with jig := { s.jig with copy := bankOf s jigStageKey, target := target, commitAt := s.now } } 1 (0, 0, 0, 0)

/-- JIG_COMMIT (R105). -/
def execJigCommit (w : Writer) (target : BitVec 52) (s : State) : Host.Outcome State Fault Refusal := .next (jigCommit s w target.toNat)

/-- The start of slot 62 of the tick before the target. -/
def jigInstant (s : State) : Nat := 4096 * (s.jig.target - 1) + 3968

/-- JIG_VALIDATION_DONE (R104, R105), by the scheduler core while it runs (R377): REJECTED, ARMED for its instant (the next kerf where the target was 0), or LATE. -/
def execJigValidationDone (s : State) : Host.Outcome State Fault Refusal :=
  .next (
    if jigStatus s ≠ 1 || procAway s 3 then s
    else
      match jigCheck s (jigTable s.jig.copy) with
      | some c => setJigStatus s 4 c
      | none =>
        let t := if s.jig.target = 0 then (s.time.toNat + 127) / 4096 + 1 else s.jig.target
        let s := { s with jig := { s.jig with target := t } }
        setJigStatus s (if jigInstant s < s.time.toNat then 5 else 2) (0, 0, 0, 0))

/-- JIG_TABLE_SWAP (R105): at its instant an ARMED table becomes the active one; a validation not finished by then makes the commit LATE,
and so does a scheduler core that is away (R377). -/
def execJigTableSwap (s : State) : Host.Outcome State Fault Refusal :=
  .next (
    if jigStatus s = 2 ∧ jigInstant s ≤ s.time.toNat ∧ procAway s 3 = false then
      setJigStatus { setBank s jigActiveKey s.jig.copy with jig := { s.jig with swapAt := s.now, tail := some (s.jig.target - 1, slotPairs s 61) } } 6 (0, 0, 0, 0)
    else if (jigStatus s = 2 ∨ jigStatus s = 1 ∧ s.jig.target ≠ 0) ∧ jigInstant s ≤ s.time.toNat then setJigStatus s 5 (0, 0, 0, 0)
    else s)

/-- JIG_STAGE_REFILL_DONE (R105): the stage bank holds the active table again. -/
def execJigStageRefillDone (s : State) : Host.Outcome State Fault Refusal :=
  .next (if jigStatus s = 6 then setJigStatus (setBank s jigStageKey (bankOf s jigActiveKey)) 3 (0, 0, 0, 0) else s)

end Sys2Proof.Machine
end

