-- ==== Sys2Proof/Machine/Lanes.lean ====
section
/-!
DEFINITION. Machine/Lanes.lean: training, widths, lane faults, eye scans and optical modules (R326 to R341).
-/
namespace Sys2Proof.Machine
open Sys2Proof

/-! ### Training (R332) -/

/-- The link of half `h` may make an attempt: DOWN, its PORT RUNNING, no wait of 1 s left, and no halted boot, which leaves every port down
(R385). -/
def mayTrain (s : State) (h : Nat) : Bool :=
  halfIs s h && linkState s h == 0 && running s (h / 2) && !rdb s Reg.SECURITY.BOOT_STATUS.HALTED && (match (linkRun s h).bar with | some t => decide (t ≤ s.now) | none => true)

/-- LOOPBACK or PATTERN is set (R339). -/
def testMode (s : State) (p : Nat) : Bool := rdb s (Reg.PORT.PORT_CFG.LOOPBACK p) || rdb s (Reg.PORT.PORT_CFG.PATTERN p)

/-- TEST (R339): every lane is in TEST and its pattern errors are cleared; a RETIRED one is RETIRED again when the port leaves TEST. -/
def enterTest (s : State) (h : Nat) : State :=
  let p := h / 2
  let s := (halfLanes s h).foldl (fun s l =>
    wr (setLaneState (setLane s (8 * p + l) { laneRun s (8 * p + l) with retired := laneRetired s p l }) p l 6) (Reg.PORT.LANE_PRBS.ERRORS p l) 0) s
  wr (setLink s h { linkRun s h with since := s.now, bar := none }) (Reg.PORT.LINK_STATUS.STATE p (h % 2)) 4

/-- TRAINING with signal on lanes `sig`, on which markers go out (R327, R332). -/
def enterTraining (s : State) (h : Nat) (sig : List Nat) : State :=
  let p := h / 2
  let s := sig.foldl (fun s l => setLane (wr (setLaneState s p l 1) (Reg.PORT.LANE_STATUS.LOS p l) 0) (8 * p + l) { laneRun s (8 * p + l) with marker := none }) s
  sendMarkers (wr (setLink s h { linkRun s h with since := s.now, bar := none }) (Reg.PORT.LINK_STATUS.STATE p (h % 2)) 1) h sig

/-- An attempt to train with signal on the lanes of `mask`; optical media go through R341 first. -/
def tryTrain (s : State) (h mask : Nat) : State :=
  let p := h / 2
  let sig := (keptLanes s h).filter (fun l => bitAt mask l)
  if !mayTrain s h then s
  else if testMode s p then enterTest s h
  else if minWidth s p ≤ sig.length ∧ (!rdb s (Reg.PORT.PORT_CFG.MEDIA p) ∨ (linkRun s h).cmis = 3) then enterTraining s h sig
  else s

/-- LINK_TRAINING_START (R332): `mask` names the pairs of the port that have signal. -/
def execLinkTrainingStart (h mask : BitVec 8) (s : State) : Host.Outcome State Fault Refusal := .next (tryTrain s h.toNat mask.toNat)

/-- LINK_RETRY_TIMER (R332, R337): 1 s after the link went DOWN it tries again; `mask` names the pairs of the port that have signal then. -/
def execLinkRetryTimer (h : BitVec 8) (s : State) (mask : BitVec 8 := 0xFF) : Host.Outcome State Fault Refusal :=
  .next (if (linkRun s h.toNat).since + secs 1 ≤ s.now then tryTrain s h.toNat mask.toNat else s)

/-- The lanes of half `h` whose markers have been read. -/
def marked (s : State) (h : Nat) : List (Nat × (Nat × Nat × Nat)) :=
  (halfLanes s h).filterMap (fun l => if laneState s (h / 2) l = 1 then (laneRun s (8 * (h / 2) + l)).marker.map (fun m => (l, m)) else none)

/-- The markers of half `h` name more than one port or SENDER_ID (R329). -/
def miswired (s : State) (h : Nat) : Bool :=
  match marked s h with
  | [] => false
  | (_, m) :: rest => rest.any (fun e => e.2.2 != m.2)

/-- LINK_TRAINED (R330, R332): a width agreed over the pairs good in both directions; the link enters KEYING with its counters at 0 and a
nonce of its own (R399). -/
def execLinkTrained (h good : BitVec 8) (s : State) : Host.Outcome State Fault Refusal :=
  let n := h.toNat
  let p := n / 2
  let ok := ((marked s n).map (fun e => e.1)).filter (fun l => bitAt good.toNat l && decide (rd s (Reg.PORT.LANE_STATUS.SKEW_NS p l) ≤ 180))
  let set := activeSet s n ok
  .next (
    if linkState s n = 1 ∧ s.now < (linkRun s n).since + ms 100 ∧ !miswired s n ∧ set ≠ [] then
      let s := (halfLanes s n).foldl (fun s l => if laneState s p l = 1 then setLaneState s p l (if ok.contains l then 3 else 0) else s) s
      let s := applySet (ok.foldl (fun s l => wrs s [(Reg.PORT.LANE_STATUS.LOS p l, 0), (Reg.PORT.LANE_STATUS.LOL p l, 0)]) s) n set
      let s := setLink s n { since := s.now, reqNo := (linkRun s n).reqNo, cmis := (linkRun s n).cmis, nonce := leBytes 32 (peekFree s) }
      wrs (takeFree s) [(Reg.PORT.LINK_STATUS.STATE p (n % 2), 2), (Reg.PORT.LINK_STATUS.KEY_SEQ p (n % 2), 0)]
    else s)

/-- LINK_TRAINING_TIMEOUT (R329, R332): MISWIRED at once, TRAIN_TIMEOUT after 100 ms. -/
def execLinkTrainingTimeout (h : BitVec 8) (s : State) : Host.Outcome State Fault Refusal :=
  let n := h.toNat
  .next (
    if linkState s n ≠ 1 then s
    else if miswired s n then linkDown s n 5 2
    else if (linkRun s n).since + ms 100 ≤ s.now then linkDown s n 4 2
    else s)

/-! ### Lane faults (R335 to R338) -/

/-- A LANE record (R360): physical lane, new STATE and RETRAINS. -/
def laneRecord (s : State) (p l cause outcome : Nat) : State :=
  report s p 0x02 cause outcome (8 * p + l) (packBits [(0, 3, laneState s p l), (3, 8, rd s (Reg.PORT.LANE_STATUS.RETRAINS p l))])

/-- What losing or gaining pairs means to the link of half `h` (R337): out of TRAINING, KEYING or UP with LANES below MIN_WIDTH, else a width
change asked for; a
port none of whose halves can come up takes a permanent fault. -/
def lanesChanged (s : State) (p h : Nat) : State :=
  let dead := portDead s p
  let s := if (1 ≤ linkState s h ∧ linkState s h ≤ 3) ∧ (keptLanes s h).length < minWidth s p then linkDown s h 3 (if dead then 3 else 2) else wantWidth s h
  if dead then permanentFault s p else s

/-- A permanent fault retires lane `l` of port `p` (R336). -/
def retireLane (s : State) (p l cause : Nat) : State :=
  let s := wr (setLaneState s p l 5) (Reg.PORT.LANE_STATUS.LAST_FAULT p l) cause
  let s := setLane s (8 * p + l) { laneRun s (8 * p + l) with retrainAt := none, leaving := false, ser := 0, ucws := [] }
  lanesChanged (laneRecord s p l cause 3) p (laneHalf s p l)

/-- The retrains of a lane within RETRAIN_WINDOW_MIN. -/
def retrainsIn (s : State) (p l : Nat) : List Nat :=
  (laneRun s (8 * p + l)).retrains.filter (fun t => decide (s.now < t + secs (60 * rd s (Reg.PORT.THRESH.RETRAIN_WINDOW_MIN p))))

/-- Lane `l` of port `p`, out of the stripe, begins to retrain after a fault: at most 10 ms (R336). -/
def laneRetrain (s : State) (p l : Nat) : State :=
  let r := s.now :: retrainsIn s p l
  let s := setLane s (8 * p + l) { laneRun s (8 * p + l) with retrainAt := some s.now, retrains := r, leaving := false }
  let s := wrs s [(Reg.PORT.LANE_STATUS.STATE p l, 4), (Reg.PORT.LANE_STATUS.RETRAINS p l, min 255 r.length)]
  laneRecord s p l (rd s (Reg.PORT.LANE_STATUS.LAST_FAULT p l)) 2

/-- A transient fault of an ACTIVE or IDLE lane (R336): an ACTIVE one is taken out of the stripe by a width change and then retrained; an IDLE
one, and an ACTIVE one that no allowed width can do without, retrains at once (DESIGN CHOICE, log entry 65). -/
def laneFault (s : State) (p l cause : Nat) : State :=
  let h := laneHalf s p l
  if laneState s p l ≠ 2 ∧ laneState s p l ≠ 3 ∨ (laneRun s (8 * p + l)).leaving then s
  else
    let was := laneState s p l
    let s := wr (setLane s (8 * p + l) { laneRun s (8 * p + l) with leaving := true, ucws := [], ser := 0 }) (Reg.PORT.LANE_STATUS.LAST_FAULT p l) cause
    if was = 2 ∧ activeSet s h (goodLanes s h) ≠ [] then wantWidth s h else wantWidth (laneRetrain s p l) h

/-- The detectors of port `p` trip: loss of signal on the lanes `los`, loss of lock on the lanes `lol` (R335). -/
def lanesTrip (s : State) (p : Nat) (los lol : List Nat) : State :=
  let s := los.foldl (fun s l => wr (cnt s (Reg.PORT.LANE_COUNT.LOS_EVENTS p l)) (Reg.PORT.LANE_STATUS.LOS p l) 1) s
  lol.foldl (fun s l => wr (cnt s (Reg.PORT.LANE_COUNT.LOL_EVENTS p l)) (Reg.PORT.LANE_STATUS.LOL p l) 1) s

/-- Loss of signal on a lane (R335, R336). -/
def laneLos (s : State) (p l : Nat) : State := laneFault (lanesTrip s p [l] []) p l 1
/-- Loss of lock on a lane (R335, R336). -/
def laneLol (s : State) (p l : Nat) : State := laneFault (lanesTrip s p [] [l]) p l 2

/-- LANE_LOS (R335): the loss-of-signal detector trips, or finds signal again. -/
def execLaneLos (p : Fin 128) (l : Fin 8) (s : State) (trips : Bool := true) : Host.Outcome State Fault Refusal :=
  .next (if trips then laneLos s p l else wr s (Reg.PORT.LANE_STATUS.LOS p l) 0)
/-- LANE_LOL (R335): the loss-of-lock detector trips, or finds lock again. -/
def execLaneLol (p : Fin 128) (l : Fin 8) (s : State) (trips : Bool := true) : Host.Outcome State Fault Refusal :=
  .next (if trips then laneLol s p l else wr s (Reg.PORT.LANE_STATUS.LOL p l) 0)

/-- LANE_UCW (R336): one uncorrectable codeword; UCW_RETRAIN of them within 1 ms are a transient fault. -/
def execLaneUcw (p : Fin 128) (l : Fin 8) (s : State) : Host.Outcome State Fault Refusal :=
  let k := 8 * p.val + l.val
  let s := cnt s (Reg.PORT.LANE_COUNT.UNCORRECTABLE p l)
  let u := s.now :: (laneRun s k).ucws.filter (fun t => decide (s.now < t + ms 1))
  let s := setLane s k { laneRun s k with ucws := u }
  .next (if rd s (Reg.PORT.LINK_CFG.UCW_RETRAIN p) ≤ u.length then laneFault s p l 3 else s)

/-- LANE_SER_WINDOW (R336, R339): a window of 1 s ends with so many symbols corrected of those received; in TEST with a PATTERN the lane's
checker has found `wrong` bits of it wrong. -/
def execLaneSerWindow (p : Fin 128) (l : Fin 8) (corrected received : BitVec 48) (s : State) (wrong : BitVec 48 := 0) : Host.Outcome State Fault Refusal :=
  let k := 8 * p.val + l.val
  let s := if laneState s p l = 6 ∧ rd s (Reg.PORT.PORT_CFG.PATTERN p) ≠ 0 then cnt s (Reg.PORT.LANE_PRBS.ERRORS p l) wrong.toNat else s
  let s := cnt s (Reg.PORT.LANE_COUNT.CORRECTED_SYMBOLS p l) corrected.toNat
  let above := decide (rd s (Reg.PORT.THRESH.SER_RETIRE p) * received.toNat < corrected.toNat * 1000000)
  let n := if above then (laneRun s k).ser + 1 else 0
  let s := setLane s k { laneRun s k with ser := n }
  .next (if 3 ≤ n ∧ laneRetired s p l = false then retireLane s p l 4 else s)

/-- A lane that has locked again (R336, R338): IDLE, and the link asks for it. -/
def execLaneRetrainDone (p : Fin 128) (l : Fin 8) (s : State) : Host.Outcome State Fault Refusal :=
  let k := 8 * p.val + l.val
  .next (
    if laneState s p l = 4 ∧ (match (laneRun s k).retrainAt with | some t => decide (s.now < t + ms 10) | none => true) = true then
      let s := setLane s k { laneRun s k with retrainAt := none }
      let s := wrs s [(Reg.PORT.LANE_STATUS.STATE p l, 3), (Reg.PORT.LANE_STATUS.LOS p l, 0), (Reg.PORT.LANE_STATUS.LOL p l, 0)]
      wantWidth s (laneHalf s p l)
    else s)

/-- LANE_RETRAIN_FAIL (R336): no lock within 10 ms. -/
def execLaneRetrainFail (p : Fin 128) (l : Fin 8) (s : State) : Host.Outcome State Fault Refusal :=
  .next (match (laneRun s (8 * p.val + l.val)).retrainAt with
    | some t => if laneState s p l = 4 ∧ t + ms 10 ≤ s.now then retireLane s p l 6 else s
    | none => s)

/-- LANE_RETRAIN_LIMIT (R336): more than RETRAIN_LIMIT retrains within the window; LAST_FAULT stays that of the last retrain. -/
def execLaneRetrainLimit (p : Fin 128) (l : Fin 8) (s : State) : Host.Outcome State Fault Refusal :=
  let n := (retrainsIn s p l).length
  let s := wr s (Reg.PORT.LANE_STATUS.RETRAINS p l) (min 255 n)
  .next (if rd s (Reg.PORT.THRESH.RETRAIN_LIMIT p) < n ∧ laneRetired s p l = false then retireLane s p l (rd s (Reg.PORT.LANE_STATUS.LAST_FAULT p l)) else s)

/-- Byte address of LANE_STATUS of lane `l` of port `p`. -/
def laneAddr (p l : Nat) : Nat := 0xC00100 + p * 0x4000 + l * 8

/-- RETIRE written to a lane (R338). -/
def laneRetire (s : State) (w : Writer) (p l : Nat) (acc : Nat × Nat := (laneAddr p l, 8)) : State :=
  if laneState s p l = 2 ∨ laneState s p l = 3 then retireLane s p l 7 else regError s w acc.1 acc.2 true 7

/-- REINSTATE written to a lane (R338): its retrain count is cleared and it trains, with the link where that is DOWN. -/
def laneReinstate (s : State) (w : Writer) (p l : Nat) (acc : Nat × Nat := (laneAddr p l, 8)) : State :=
  let k := 8 * p + l
  let down := linkState s (laneHalf s p l) == 0
  if laneRetired s p l then
    let s := setLane s k { laneRun s k with retired := false, retrains := [], retrainAt := if down then none else some s.now }
    wr (setLaneState s p l (if down then 0 else if linkState s (laneHalf s p l) = 4 then 6 else 4)) (Reg.PORT.LANE_STATUS.RETRAINS p l) 0
  else regError s w acc.1 acc.2 true 7

/-- LANE_RETIRE (R338). -/
def execLaneRetire (w : Writer) (p : Fin 128) (l : Fin 8) (s : State) : Host.Outcome State Fault Refusal := .next (laneRetire s w p l)
/-- LANE_REINSTATE (R338). -/
def execLaneReinstate (w : Writer) (p : Fin 128) (l : Fin 8) (s : State) : Host.Outcome State Fault Refusal := .next (laneReinstate s w p l)

/-- LINK_SIGNAL_LOSS (R337): every active lane of an UP link lost signal, those of `los`, or lock, the others, within 1 µs; no lane is
charged with it. -/
def execLinkSignalLoss (h : BitVec 8) (s : State) (los : BitVec 8 := 0xFF) : Host.Outcome State Fault Refusal :=
  let act := lanesOf (activeMask s h.toNat)
  .next (if linkState s h.toNat = 3 then
      linkDown (lanesTrip s (h.toNat / 2) (act.filter (fun l => bitAt los.toNat l)) (act.filter (fun l => !bitAt los.toNat l))) h.toNat 2 2
    else s)

/-! ### Markers and control blocks (R327 to R329, R333) -/

/-- ALIGNMENT_MARKER (R327): the lane learns its sender's lane index, port and SENDER_ID and its skew; more than 180 ns at training is a
permanent fault. -/
def execAlignmentMarker (p : Fin 128) (l : Fin 8) (idx : BitVec 3) (port : BitVec 7) (sender : BitVec 12) (skew : BitVec 10) (s : State) :
    Host.Outcome State Fault Refusal :=
  let st := laneState s p l
  let k := 8 * p.val + l.val
  .next (
    if st = 1 ∨ st = 2 ∨ st = 3 ∨ st = 4 then
      let s := wr s (Reg.PORT.LANE_STATUS.SKEW_NS p l) skew.toNat
      let s := setLane s k { laneRun s k with marker := some (idx.toNat, port.toNat, sender.toNat) }
      if st = 1 ∧ 180 < skew.toNat then retireLane s p l 5 else s
    else s)

/-- LCB_EMPTY (R328). -/
def execLcbEmpty (_h : BitVec 8) (_lcb : BitVec 256) (s : State) : Host.Outcome State Fault Refusal := .next s

/-- The lanes of half `h` whose markers carry a sender index of `mask`. -/
def lanesFrom (s : State) (h mask : Nat) : List Nat :=
  (halfLanes s h).filter (fun l => match (laneRun s (8 * (h / 2) + l)).marker with | some m => bitAt mask m.1 | none => false)

/-- LCB_WIDTH_REQ (R333): accepted while the target kerf has not started, unless an own request waits and the own SENDER_ID is not higher, or
an own change is agreed on or any is under way (DEDUCED, log entry 65): the peer asks again for its own only where the answer was lost. -/
def execLcbWidthReq (h : BitVec 8) (lcb : BitVec 256) (s : State) : Host.Outcome State Fault Refusal :=
  let n := h.toNat
  let r := linkRun s n
  let no := bits lcb.toNat 40 8
  let target := bits lcb.toNat 96 64
  let open_ := decide (s.time.toNat < kerfStart target) && (r.req.isNone || decide (peerSender s n < serviceId s)) && !r.paused && !(r.agreed.isSome && r.asked)
  .next (
    if lcbIs lcb 2 && linkState s n == 3 then
      let s := if open_ then setLink s n { r with req := none, agreed := some (maskOf (lanesFrom s n (bits lcb.toNat 32 8)), target), asked := false } else s
      sendLcb s n 3 0 (256 * no + 65536 * b2n open_) 0 0
    else s)

/-- LCB_WIDTH_ACK (R333): an accepting answer by 4,096 ftu before the target kerf fixes the change. -/
def execLcbWidthAck (h : BitVec 8) (lcb : BitVec 256) (s : State) : Host.Outcome State Fault Refusal :=
  let n := h.toNat
  let r := linkRun s n
  .next (match r.req with
    | some q =>
      if lcbIs lcb 3 && linkState s n == 3 && bits lcb.toNat 40 8 == q.no && bits lcb.toNat 48 1 == 1 && decide (s.time.toNat + 4096 ≤ kerfStart q.target) then
        setLink s n { r with req := none, agreed := some (q.mask, q.target), asked := true }
      else s
    | none => s)

/-- WIDTH_REQ_TIMEOUT (R333): no accepting answer by 4,096 ftu before the kerf; the third failure takes the link DOWN. A change that is no longer
wanted is dropped. -/
def execWidthReqTimeout (h : BitVec 8) (s : State) : Host.Outcome State Fault Refusal :=
  let n := h.toNat
  .next (match (linkRun s n).req with
    | some q =>
      if linkState s n = 3 ∧ kerfStart q.target ≤ s.time.toNat + 4096 then
        let set := activeSet s n (goodLanes s n)
        if 3 ≤ q.tries then linkDown s n 8 2
        else if set = [] ∨ maskOf set = activeMask s n then setLink s n { linkRun s n with req := none }
        else sendWidthReq s n (maskOf set) (q.tries + 1)
      else s
    | none => s)

/-- WIDTH_CHANGE (R333, R334): from slot 62 of the target tick the side sends nothing and the port's jig entries take nothing. -/
def execWidthChange (h : BitVec 8) (s : State) : Host.Outcome State Fault Refusal :=
  let n := h.toNat
  let r := linkRun s n
  .next (match r.agreed with
    | some a =>
      if linkState s n = 3 ∧ r.paused = false ∧ kerfStart a.2 ≤ s.time.toNat then
        setLink s n { r with paused := true }
      else s
    | none => s)

/-- WIDTH_CHANGE_RESUME (R333, R334): the stripe restarts on the agreed active set with an alignment marker; pairs that the change took out for
a fault retrain (R336); R102 uses the new width from the next tick; an own change put off, or a new one, is asked for. -/
def execWidthChangeResume (h : BitVec 8) (s : State) : Host.Outcome State Fault Refusal :=
  let n := h.toNat
  let r := linkRun s n
  .next (match r.agreed with
    | some a =>
      if r.paused then
        let w := jigWidth s (n / 2)
        let s := applySet s n (lanesOf a.1)
        let s := sendMarkers (setLink s n { r with paused := false, agreed := none }) n (lanesOf a.1)
        let s := ((halfLanes s n).filter (fun l => (laneRun s (8 * (n / 2) + l)).leaving && laneState s (n / 2) l == 3)).foldl (fun s l => laneRetrain s (n / 2) l) s
        wantWidth { s with link := { s.link with jigWidth := setKey s.link.jigWidth (n / 2) (tickNo s + 1, w) } } n
      else s
    | none => s)

/-! ### Eye scans (R340) -/

/-- START of the eye scan of even port `p` written. -/
def eyeStart (s : State) (p : Nat) : State :=
  if rdb s (Reg.PORT.EYE_CTL.START p) then wr s (Reg.PORT.EYE_CTL.OVERRUN p) 1
  else
    { wrs s [(Reg.PORT.EYE_CTL.START p, 1), (Reg.PORT.EYE_CTL.DONE p, 0)] with link := { s.link with eyes := p :: s.link.eyes.filter (fun x => x != p) } }

/-- EYE_SCAN_START (R340): `k` is half the port's number. -/
def execEyeScanStart (k : Fin 64) (s : State) : Host.Outcome State Fault Refusal := .next (eyeStart s (2 * k.val))

/-- EYE_SCAN_DONE (R340): while lane 0 receives signal, the point ends with so many disagreeing symbols. -/
def execEyeScanDone (k : Fin 64) (errors : BitVec 32) (s : State) : Host.Outcome State Fault Refusal :=
  let p := 2 * k.val
  .next (
    if rdb s (Reg.PORT.EYE_CTL.START p) && !rdb s (Reg.PORT.LANE_STATUS.LOS p 0) then
      { wrs s [(Reg.PORT.EYE_RESULT.ERRORS p, errors.toNat), (Reg.PORT.EYE_RESULT.DWELL_USED p, rd s (Reg.PORT.EYE_CTL.DWELL_LOG2 p)),
          (Reg.PORT.EYE_CTL.START p, 0), (Reg.PORT.EYE_CTL.DONE p, 1)] with link := { s.link with eyes := s.link.eyes.filter (fun x => x != p) } }
    else s)

/-! ### Optical modules (R341) -/

/-- The management core, which runs the module's bus, is away (R377). -/
def cmisAway (s : State) : Bool := procAway s 1

/-- The channel-select byte of the multiplexer of board channel `c` of `PORT_CFG.CMIS_CH`: its own channel, or none (R433). -/
def cmisSelect (s : State) (c : Nat) (on : Bool) : State := emitOut s (.cmisSelect (c / 64) (0x70 + c % 64 / 8) (if on then 2 ^ (c % 8) else 0))

/-- A module write of half `h` on its board channel, at SMBus address 0x50, for its host lanes: the channel is selected before it and deselected
after it (R341, R433). -/
def cmisOut (s : State) (h step arg : Nat) : State :=
  let c := rd s (Reg.PORT.PORT_CFG.CMIS_CH (h / 2))
  cmisSelect (emitOut (cmisSelect s c true) (.cmisWrite c 0x50 step (maskOf (halfLanes s h)) arg)) c false

/-- The module steps of half `h` set to step `k`, begun now. -/
def cmisStep (s : State) (h k : Nat) : State := setLink s h { linkRun s h with cmis := k, cmisAt := s.now }

/-- A module step of half `h` has failed: the link stays DOWN with cause MEDIA and the next attempt follows after 1 s (R341). -/
def cmisFails (s : State) (h : Nat) : State :=
  let s := wr (setLink s h { linkRun s h with cmis := 0, bar := some (s.now + secs 1) }) (Reg.PORT.LINK_STATUS.DOWN_CAUSE (h / 2) (h % 2)) 10
  report s (h / 2) 0x03 10 2 (packBits [(0, 7, h / 2), (7, 1, h % 2)]) 0

/-- CMIS_MODULE_INIT (R341): before an attempt of an optical link, the low-power request is cleared and ModuleReady awaited. -/
def execCmisModuleInit (h : BitVec 8) (s : State) : Host.Outcome State Fault Refusal :=
  let n := h.toNat
  .next (if mayTrain s n && rdb s (Reg.PORT.PORT_CFG.MEDIA (n / 2)) && !testMode s (n / 2) && (linkRun s n).cmis == 0 && !cmisAway s then cmisOut (cmisStep s n 1) n 0 0 else s)

/-- CMIS_MODULE_READY (R341): the module's state code, the application with the wanted host interface, which is selected and initialised, and
its CMIS revision; DataPathActivated is awaited. A module of a revision before 4.0, or without such an application (0, which CMIS gives no
application; PRESUMED, log entry 65), fails the step. -/
def execCmisModuleReady (h : BitVec 8) (code : BitVec 3) (app : BitVec 4) (s : State) (rev : BitVec 8 := 0x40) : Host.Outcome State Fault Refusal :=
  let n := h.toNat
  .next (if (linkRun s n).cmis = 1 ∧ s.now < (linkRun s n).cmisAt + secs 2 ∧ cmisAway s = false then
      if rev.toNat < 0x40 ∨ app = 0 then cmisFails s n
      else wrs (cmisOut (cmisOut (cmisStep s n 2) n 1 (if isSplit s (n / 2) then 4 else 8)) n 2 0) [(Reg.PORT.CMIS_STATUS.PRESENT (n / 2), 1), (Reg.PORT.CMIS_STATUS.MODULE_STATE (n / 2), code.toNat),
        (Reg.PORT.CMIS_STATUS.APP_SEL (n / 2), app.toNat)]
    else s)

/-- CMIS_DATAPATH_ACTIVATED (R341). -/
def execCmisDatapathActivated (h : BitVec 8) (s : State) : Host.Outcome State Fault Refusal :=
  let n := h.toNat
  .next (if (linkRun s n).cmis = 2 ∧ s.now < (linkRun s n).cmisAt + secs 2 ∧ cmisAway s = false then cmisStep s n 3 else s)

/-- CMIS_STEP_TIMEOUT (R341): a step not done within 2 s; the link stays DOWN with cause MEDIA and the next attempt follows after 1 s. -/
def execCmisStepTimeout (h : BitVec 8) (s : State) : Host.Outcome State Fault Refusal :=
  let n := h.toNat
  let r := linkRun s n
  .next (if (r.cmis = 1 ∨ r.cmis = 2) ∧ r.cmisAt + secs 2 ≤ s.now ∧ cmisAway s = false then
      cmisFails s n
    else s)

/-- LOS on every lane of port `p`, to which R337 applies. -/
def mediaLost (s : State) (p : Nat) : State :=
  let s := lanesTrip s p (List.range 8) []
  [2 * p, 2 * p + 1].foldl (fun s h => if linkState s h = 3 then linkDown s h 2 2 else s) s

/-- Lane flags of the module of port `p` (R341): loss of signal or lock on every active lane of a link takes it DOWN (R337), on others
it is the lane's fault (R335). -/
def mediaFlags (s : State) (p los lol : Nat) : State :=
  let gone := [2 * p, 2 * p + 1].filter (fun h => linkState s h == 3 && (lanesOf (activeMask s h)).all (fun l => bitAt los l || bitAt lol l))
  let out := fun (l : Nat) => gone.contains (laneHalf s p l)
  let s' := gone.foldl (fun s h => linkDown s h 2 2) (lanesTrip s p ((lanesOf los).filter out) ((lanesOf lol).filter out))
  ((lanesOf lol).filter (fun l => !out l)).foldl (fun s l => laneLol s p l) (((lanesOf los).filter (fun l => !out l)).foldl (fun s l => laneLos s p l) s')

/-- CMIS_POLL (R341): every 100 ms while a link of the port runs, what the module answered, or that it did not answer. -/
def execCmisPoll (p : Fin 128) (ok : Bool) (code : BitVec 3) (fault alarm warning : Bool) (temp : BitVec 16) (los lol : BitVec 8) (s : State) :
    Host.Outcome State Fault Refusal :=
  let due := match findKey s.link.polls p.val with | some t => decide (t + ms 100 ≤ s.now) | none => true
  let runs := decide (1 ≤ linkState s (2 * p.val)) || decide (1 ≤ linkState s (2 * p.val + 1))
  .next (
    if rdb s (Reg.PORT.PORT_CFG.MEDIA p) && due && runs && !cmisAway s then
      let s := { s with link := { s.link with polls := setKey s.link.polls p.val s.now } }
      if ok then
        let s := { s with link := { s.link with fails := delKey s.link.fails p.val } }
        let s := wrs s [(Reg.PORT.CMIS_STATUS.PRESENT p, 1), (Reg.PORT.CMIS_STATUS.MODULE_STATE p, code.toNat), (Reg.PORT.CMIS_STATUS.FAULT p, b2n fault),
          (Reg.PORT.CMIS_STATUS.ALARM p, b2n alarm), (Reg.PORT.CMIS_STATUS.WARNING p, b2n warning), (Reg.PORT.CMIS_STATUS.TEMP p, temp.toNat)]
        if fault then mediaLost s p
        else mediaFlags s p los.toNat lol.toNat
      else
        let n := (findKey s.link.fails p.val).getD 0 + 1
        let s := wr (cnt s (Reg.PORT.CMIS_STATUS.READ_FAILS p)) (Reg.PORT.CMIS_STATUS.PRESENT p) 0
        let s := { s with link := { s.link with fails := setKey s.link.fails p.val n } }
        if 3 ≤ n then mediaLost s p else s
    else s)

end Sys2Proof.Machine
end

