-- ==== Sys2Proof/Machine/RegMap.lean ====
section
/-! DEFINITION. Machine/RegMap.lean: the register maps of spec/ as one table: every register with its offset in BAR0 (R25),
its strides and counts, its width and its fields under R10 with their ranges (R8), reserved encodings (R12) and guards (R439). -/
namespace Sys2Proof.Machine
open Sys2Proof Reg

/-- The register map of block GLOBAL (R25). -/
def regMapGlobal : List RegDesc := [
  ⟨"GLOBAL.GLOBAL_ID", 0x0, [], 64, false,
    [⟨"PART_NUMBER", 0, 16, .ro, (fun _ => 296), false, .any, .always⟩,
     ⟨"VARIANT", 16, 8, .ro, (fun _ => 36), false, .any, .always⟩,
     ⟨"STEPPING", 24, 8, .ro, (fun _ => 176), false, .any, .always⟩,
     ⟨"FUNC_COUNT", 32, 16, .ro, (fun _ => 463), false, .any, .always⟩]⟩,
  ⟨"GLOBAL.PLANE_CFG", 0x8, [], 32, false,
    [⟨"PLANE_ID", 0, 5, .rwg, (fun _ => 0), false, .any, .portsStopped⟩]⟩,
  ⟨"GLOBAL.STOP_DRAIN_LIMIT", 0x10, [], 32, false,
    [⟨"LIMIT_US", 0, 24, .rw, (fun _ => 1000), false, (.range 10 100000), .always⟩]⟩,
  ⟨"GLOBAL.HBM_PART", 0x20, [(0, 6, 0x8)], 32, false,
    [⟨"BASE", 0, 11, .rwg, (fun ix => [0, 256, 320, 352, 368, 376].getD (ix.getD 0 0) 0), false, .any, .partFree⟩,
     ⟨"SIZE", 16, 11, .rwg, (fun ix => [256, 64, 32, 16, 8, 1160].getD (ix.getD 0 0) 0), false, (.range 1 1536), .partFree⟩]⟩,
  ⟨"GLOBAL.FUNC_STATUS", 0x1000, [(0, 512, 0x10)], 32, false,
    [⟨"TYPE", 0, 4, .ro, (fun ix => funcType (ix.getD 0 0)), false, .any, .always⟩,
     ⟨"STATE", 4, 3, .ro, (fun _ => 0), false, .any, .always⟩,
     ⟨"READY", 7, 1, .ro, (fun _ => 0), false, .any, .always⟩,
     ⟨"RESULT", 8, 4, .ro, (fun _ => 0), false, .any, .always⟩,
     ⟨"CONFLICT_HOLDER", 12, 9, .ro, (fun _ => 0), false, .any, .always⟩,
     ⟨"CONFLICT_RES", 21, 11, .ro, (fun _ => 0), false, .any, .always⟩]⟩,
  ⟨"GLOBAL.FUNC_CMD", 0x1004, [(0, 512, 0x10)], 32, false,
    [⟨"CMD", 0, 4, .wo, (fun _ => 0), false, .any, .always⟩,
     ⟨"SEQ", 8, 8, .wo, (fun _ => 0), false, .any, .always⟩]⟩,
  ⟨"GLOBAL.FUNC_DIAG", 0x1008, [(0, 512, 0x10)], 32, false,
    [⟨"SEQ", 0, 8, .ro, (fun _ => 0), true, .any, .always⟩,
     ⟨"CMD_REJECTED", 8, 1, .w1c, (fun _ => 0), false, .any, .always⟩,
     ⟨"STOP_FORCED", 9, 1, .w1c, (fun _ => 0), false, .any, .always⟩,
     ⟨"CHANGED", 10, 1, .w1c, (fun _ => 0), false, .any, .always⟩,
     ⟨"DRYFIT_COUNT", 16, 16, .ro, (fun _ => 0), false, .any, .always⟩]⟩,
  ⟨"GLOBAL.CLAIM", 0x4000, [(0, 1792, 0x4)], 32, false,
    [⟨"HELD", 0, 1, .ro, (fun _ => 0), false, .any, .always⟩,
     ⟨"HOLDER", 1, 9, .ro, (fun _ => 0), false, .any, .always⟩,
     ⟨"LAST_CONTENDER", 10, 9, .ro, (fun _ => 0), false, .any, .always⟩,
     ⟨"CONTEST_COUNT", 19, 8, .rc, (fun _ => 0), false, .any, .always⟩]⟩,
  ⟨"GLOBAL.ERR_RING_BASE", 0x8000, [], 64, false,
    [⟨"BASE", 12, 52, .rw, (fun _ => 0), false, .any, .errRing⟩]⟩,
  ⟨"GLOBAL.ERR_RING_CFG", 0x8008, [], 32, false,
    [⟨"ENABLE", 0, 1, .rw, (fun _ => 0), false, .any, .always⟩,
     ⟨"SIZE_LOG2", 1, 5, .rw, (fun _ => 12), false, (.range 6 16), .errRing⟩,
     ⟨"VECTOR", 6, 11, .rw, (fun _ => 0), false, .any, .errRing⟩,
     ⟨"MOD_COUNT", 17, 8, .rw, (fun _ => 1), false, (.range 1 255), .always⟩]⟩,
  ⟨"GLOBAL.ERR_RING_HEAD", 0x8010, [], 32, false,
    [⟨"HEAD", 0, 32, .rw, (fun _ => 0), false, .any, .always⟩]⟩,
  ⟨"GLOBAL.ERR_RING_TAIL", 0x8018, [], 32, false,
    [⟨"TAIL", 0, 32, .ro, (fun _ => 0), false, .any, .always⟩]⟩,
  ⟨"GLOBAL.ERR_RING_STATUS", 0x8020, [], 64, false,
    [⟨"FULL", 0, 1, .ro, (fun _ => 0), false, .any, .always⟩,
     ⟨"OVERRUN_PENDING", 1, 1, .ro, (fun _ => 0), false, .any, .always⟩,
     ⟨"HANDOVER_DISABLED", 2, 1, .w1c, (fun _ => 0), false, .any, .always⟩,
     ⟨"DROPPED", 32, 32, .ro, (fun _ => 0), false, .any, .always⟩]⟩,
  ⟨"GLOBAL.STEP_CMD", 0x8100, [], 32, false,
    [⟨"TENANT", 0, 12, .wo, (fun _ => 0), false, .any, .always⟩,
     ⟨"NEW_EPOCH", 12, 8, .wo, (fun _ => 0), false, .any, .always⟩]⟩,
  ⟨"GLOBAL.STEP_STATUS", 0x8108, [], 32, false,
    [⟨"QUEUED", 0, 7, .ro, (fun _ => 0), false, .any, .always⟩,
     ⟨"OVERRUN", 7, 1, .w1c, (fun _ => 0), false, .any, .always⟩]⟩,
  ⟨"GLOBAL.LOG_STATUS", 0x8200, [], 64, false,
    [⟨"FIRST_FILLED", 0, 7, .ro, (fun _ => 0), false, .any, .always⟩,
     ⟨"LAST_NEXT", 7, 8, .ro, (fun _ => 0), false, .any, .always⟩,
     ⟨"LAST_WRAPPED", 15, 1, .ro, (fun _ => 0), false, .any, .always⟩,
     ⟨"CLEAR", 16, 1, .w1s, (fun _ => 0), false, .any, .always⟩,
     ⟨"TOTAL", 32, 32, .ro, (fun _ => 0), true, .any, .always⟩]⟩,
  ⟨"GLOBAL.ERR_SRC", 0x10000, [(0, 512, 0x20)], 256, false,
    [⟨"COUNT", 0, 32, .ro, (fun _ => 0), false, .any, .always⟩,
     ⟨"UPDATE", 32, 16, .ro, (fun _ => 0), true, .any, .always⟩,
     ⟨"CLEAR", 48, 1, .w1s, (fun _ => 0), false, .any, .always⟩,
     ⟨"FIRST_TIME", 64, 64, .ro, (fun _ => 0), false, .any, .always⟩,
     ⟨"FIRST_CLASS", 128, 8, .ro, (fun _ => 0), false, .any, .always⟩,
     ⟨"FIRST_CAUSE", 136, 16, .ro, (fun _ => 0), false, .any, .always⟩,
     ⟨"LAST_CLASS", 152, 8, .ro, (fun _ => 0), false, .any, .always⟩,
     ⟨"LAST_CAUSE", 160, 16, .ro, (fun _ => 0), false, .any, .always⟩,
     ⟨"LAST_TIME", 192, 64, .ro, (fun _ => 0), false, .any, .always⟩]⟩,
  ⟨"GLOBAL.ERR_LOG", 0x20000, [(0, 256, 0x40)], 512, false,
    [⟨"WORD_0", 0, 64, .ro, (fun _ => 0), false, .any, .always⟩,
     ⟨"WORD_1", 64, 64, .ro, (fun _ => 0), false, .any, .always⟩,
     ⟨"WORD_2", 128, 64, .ro, (fun _ => 0), false, .any, .always⟩,
     ⟨"WORD_3", 192, 64, .ro, (fun _ => 0), false, .any, .always⟩,
     ⟨"WORD_4", 256, 64, .ro, (fun _ => 0), false, .any, .always⟩,
     ⟨"WORD_5", 320, 64, .ro, (fun _ => 0), false, .any, .always⟩,
     ⟨"WORD_6", 384, 64, .ro, (fun _ => 0), false, .any, .always⟩,
     ⟨"WORD_7", 448, 64, .ro, (fun _ => 0), false, .any, .always⟩]⟩]

/-- The register map of block TICK (R25). -/
def regMapTick : List RegDesc := [
  ⟨"TICK.TIME_CFG", 0x100000, [], 32, false,
    [⟨"TIME_SRC", 0, 2, .rw, (fun _ => 1), false, (.reserved [3]), .always⟩,
     ⟨"REACQUIRE", 2, 1, .w1s, (fun _ => 0), false, .any, .always⟩,
     ⟨"HOLDOVER_US", 16, 14, .rw, (fun _ => 10000), false, (.range 1000 10000), .always⟩]⟩,
  ⟨"TICK.TIME_STATUS", 0x100008, [], 32, false,
    [⟨"LOCKED", 0, 1, .ro, (fun _ => 0), false, .any, .always⟩,
     ⟨"REF_OK", 1, 4, .ro, (fun _ => 0), false, .any, .always⟩,
     ⟨"STEPPED", 5, 1, .w1c, (fun _ => 0), false, .any, .always⟩,
     ⟨"HOLDOVER_EXPIRED", 6, 1, .w1c, (fun _ => 0), false, .any, .always⟩,
     ⟨"ALIGN_ALARM", 7, 1, .w1c, (fun _ => 0), false, .any, .always⟩]⟩,
  ⟨"TICK.TIME_SNAP", 0x100010, [], 32, false,
    [⟨"REQ", 0, 1, .w1s, (fun _ => 0), false, .any, .always⟩,
     ⟨"DONE", 1, 1, .ro, (fun _ => 0), false, .any, .always⟩,
     ⟨"OVERRUN", 2, 1, .w1c, (fun _ => 0), false, .any, .always⟩]⟩,
  ⟨"TICK.FABRIC_TIME_SNAP", 0x100018, [], 64, true,
    [⟨"TIME", 0, 64, .ro, (fun _ => 0), false, .any, .always⟩]⟩,
  ⟨"TICK.TIME_SNAP_INFO", 0x100020, [], 32, true,
    [⟨"OFFSET", 0, 16, .ro, (fun _ => 0), false, .any, .always⟩,
     ⟨"STATE", 16, 3, .ro, (fun _ => 0), false, .any, .always⟩]⟩,
  ⟨"TICK.TIME_REF_PORTS", 0x100028, [], 32, false,
    [⟨"PORT_0", 0, 7, .rw, (fun _ => 0), false, .any, .always⟩,
     ⟨"PORT_1", 8, 7, .rw, (fun _ => 0), false, .any, .always⟩,
     ⟨"PORT_2", 16, 7, .rw, (fun _ => 0), false, .any, .always⟩,
     ⟨"PORT_3", 24, 7, .rw, (fun _ => 0), false, .any, .always⟩,
     ⟨"VALID_0", 7, 1, .rw, (fun _ => 0), false, .any, .always⟩,
     ⟨"VALID_1", 15, 1, .rw, (fun _ => 0), false, .any, .always⟩,
     ⟨"VALID_2", 23, 1, .rw, (fun _ => 0), false, .any, .always⟩,
     ⟨"VALID_3", 31, 1, .rw, (fun _ => 0), false, .any, .always⟩]⟩,
  ⟨"TICK.TICK_PIN_CFG", 0x100030, [], 32, false,
    [⟨"OUT_EN", 0, 1, .rw, (fun _ => 0), false, .any, .always⟩,
     ⟨"OUT_DIV", 1, 4, .rw, (fun _ => 0), false, (.range 0 15), .always⟩,
     ⟨"IN_EDGE_SEEN", 5, 1, .w1c, (fun _ => 0), false, .any, .always⟩]⟩,
  ⟨"TICK.LATE_WORK", 0x100040, [], 32, false,
    [⟨"LATE_COUNT", 0, 16, .rc, (fun _ => 0), false, .any, .always⟩,
     ⟨"MAX_LAG", 16, 16, .rc, (fun _ => 0), false, .any, .always⟩]⟩,
  ⟨"TICK.JIG_CFG", 0x100100, [], 32, false,
    [⟨"FALLBACK_PARTS", 0, 32, .rwg, (fun _ => 0), false, .any, (.func (fun _ => 458))⟩]⟩,
  ⟨"TICK.JIG_COMMIT", 0x100108, [], 64, false,
    [⟨"TARGET_TICK", 0, 52, .wo, (fun _ => 0), false, .any, .always⟩]⟩,
  ⟨"TICK.JIG_COMMIT_STATUS", 0x100110, [], 64, false,
    [⟨"STATUS", 0, 3, .ro, (fun _ => 0), false, .any, .always⟩,
     ⟨"CHECK", 3, 4, .ro, (fun _ => 0), false, .any, .always⟩,
     ⟨"ENTRY_A", 7, 12, .ro, (fun _ => 0), false, .any, .always⟩,
     ⟨"ENTRY_B", 19, 12, .ro, (fun _ => 0), false, .any, .always⟩,
     ⟨"SLOT", 31, 6, .ro, (fun _ => 0), false, .any, .always⟩]⟩,
  ⟨"TICK.GTIMER", 0x100200, [(0, 32, 0x8)], 64, false,
    [⟨"PERIOD", 0, 24, .rw, (fun _ => 1), false, (.range 1 16777215), .always⟩,
     ⟨"SLOT", 24, 6, .rw, (fun _ => 0), false, .any, .always⟩,
     ⟨"ENABLE", 30, 1, .rw, (fun _ => 0), false, .any, .always⟩,
     ⟨"FIRE_COUNT", 32, 32, .ro, (fun _ => 0), true, .any, .always⟩]⟩,
  ⟨"TICK.JIG_STAGE", 0x110000, [(0, 4096, 0x20)], 256, false,
    [⟨"IN_PORTS_0", 0, 64, .rw, (fun _ => 0), false, .any, .always⟩,
     ⟨"IN_PORTS_1", 64, 64, .rw, (fun _ => 0), false, .any, .always⟩,
     ⟨"SLOT_MASK", 128, 64, .rw, (fun _ => 0), false, .any, .always⟩,
     ⟨"VALID", 192, 1, .rw, (fun _ => 0), false, .any, .always⟩,
     ⟨"OUTPUT", 193, 7, .rw, (fun _ => 0), false, .any, .always⟩,
     ⟨"KINDS", 200, 3, .rw, (fun _ => 0), false, .any, .always⟩,
     ⟨"TENANT_ANY", 203, 1, .rw, (fun _ => 0), false, .any, .always⟩,
     ⟨"TCS", 204, 8, .rw, (fun _ => 0), false, .any, .always⟩,
     ⟨"DEST", 212, 12, .rw, (fun _ => 0), false, .any, .always⟩,
     ⟨"DEST_MASK", 224, 12, .rw, (fun _ => 0), false, .any, .always⟩,
     ⟨"TENANT", 236, 12, .rw, (fun _ => 0), false, .any, .always⟩]⟩,
  ⟨"TICK.JIG_ACTIVE", 0x130000, [(0, 4096, 0x20)], 256, false,
    [⟨"IN_PORTS_0", 0, 64, .ro, (fun _ => 0), false, .any, .always⟩,
     ⟨"IN_PORTS_1", 64, 64, .ro, (fun _ => 0), false, .any, .always⟩,
     ⟨"SLOT_MASK", 128, 64, .ro, (fun _ => 0), false, .any, .always⟩,
     ⟨"VALID", 192, 1, .ro, (fun _ => 0), false, .any, .always⟩,
     ⟨"OUTPUT", 193, 7, .ro, (fun _ => 0), false, .any, .always⟩,
     ⟨"KINDS", 200, 3, .ro, (fun _ => 0), false, .any, .always⟩,
     ⟨"TENANT_ANY", 203, 1, .ro, (fun _ => 0), false, .any, .always⟩,
     ⟨"TCS", 204, 8, .ro, (fun _ => 0), false, .any, .always⟩,
     ⟨"DEST", 212, 12, .ro, (fun _ => 0), false, .any, .always⟩,
     ⟨"DEST_MASK", 224, 12, .ro, (fun _ => 0), false, .any, .always⟩,
     ⟨"TENANT", 236, 12, .ro, (fun _ => 0), false, .any, .always⟩]⟩,
  ⟨"TICK.JIG_COUNT", 0x150000, [(0, 4096, 0x8)], 64, false,
    [⟨"JIGGED", 0, 32, .rc, (fun _ => 0), false, .any, .always⟩,
     ⟨"MISSED", 32, 32, .rc, (fun _ => 0), false, .any, .always⟩]⟩]

/-- The register map of block SWITCH (R25). -/
def regMapSwitch : List RegDesc := [
  ⟨"SWITCH.LOCAL_IDS", 0x200000, [], 32, false,
    [⟨"HOME_EP_ID", 0, 12, .rwg, (fun _ => 0xFFD), false, .any, (.func (fun _ => 462))⟩,
     ⟨"SERVICE_ID", 16, 12, .rwg, (fun _ => 0xFFE), false, .any, .portsStopped⟩]⟩,
  ⟨"SWITCH.FM_IDS", 0x200008, [], 64, false,
    [⟨"ID_0", 0, 12, .rw, (fun _ => 0), false, .any, .always⟩,
     ⟨"ID_1", 16, 12, .rw, (fun _ => 0), false, .any, .always⟩,
     ⟨"ID_2", 32, 12, .rw, (fun _ => 0), false, .any, .always⟩,
     ⟨"ID_3", 48, 12, .rw, (fun _ => 0), false, .any, .always⟩,
     ⟨"VALID_0", 12, 1, .rw, (fun _ => 0), false, .any, .always⟩,
     ⟨"VALID_1", 28, 1, .rw, (fun _ => 0), false, .any, .always⟩,
     ⟨"VALID_2", 44, 1, .rw, (fun _ => 0), false, .any, .always⟩,
     ⟨"VALID_3", 60, 1, .rw, (fun _ => 0), false, .any, .always⟩]⟩,
  ⟨"SWITCH.TC_QUANTUM", 0x200010, [], 64, false,
    [⟨"QUANTUM_1", 8, 8, .rw, (fun _ => 0x0410101010402000 / 2 ^ (8 * 1) % 256), false, (.range 1 255), .always⟩,
     ⟨"QUANTUM_2", 16, 8, .rw, (fun _ => 0x0410101010402000 / 2 ^ (8 * 2) % 256), false, (.range 1 255), .always⟩,
     ⟨"QUANTUM_3", 24, 8, .rw, (fun _ => 0x0410101010402000 / 2 ^ (8 * 3) % 256), false, (.range 1 255), .always⟩,
     ⟨"QUANTUM_4", 32, 8, .rw, (fun _ => 0x0410101010402000 / 2 ^ (8 * 4) % 256), false, (.range 1 255), .always⟩,
     ⟨"QUANTUM_5", 40, 8, .rw, (fun _ => 0x0410101010402000 / 2 ^ (8 * 5) % 256), false, (.range 1 255), .always⟩,
     ⟨"QUANTUM_6", 48, 8, .rw, (fun _ => 0x0410101010402000 / 2 ^ (8 * 6) % 256), false, (.range 1 255), .always⟩,
     ⟨"QUANTUM_7", 56, 8, .rw, (fun _ => 0x0410101010402000 / 2 ^ (8 * 7) % 256), false, (.range 1 255), .always⟩]⟩,
  ⟨"SWITCH.ALPHA", 0x200018, [], 32, false,
    [⟨"ALPHA_0", 0, 4, .rw, (fun _ => 0xDFFFF113 / 2 ^ (4 * 0) % 16), false, (.reserved [4, 5, 6, 7, 8, 9]), .always⟩,
     ⟨"ALPHA_1", 4, 4, .rw, (fun _ => 0xDFFFF113 / 2 ^ (4 * 1) % 16), false, (.reserved [4, 5, 6, 7, 8, 9]), .always⟩,
     ⟨"ALPHA_2", 8, 4, .rw, (fun _ => 0xDFFFF113 / 2 ^ (4 * 2) % 16), false, (.reserved [4, 5, 6, 7, 8, 9]), .always⟩,
     ⟨"ALPHA_3", 12, 4, .rw, (fun _ => 0xDFFFF113 / 2 ^ (4 * 3) % 16), false, (.reserved [4, 5, 6, 7, 8, 9]), .always⟩,
     ⟨"ALPHA_4", 16, 4, .rw, (fun _ => 0xDFFFF113 / 2 ^ (4 * 4) % 16), false, (.reserved [4, 5, 6, 7, 8, 9]), .always⟩,
     ⟨"ALPHA_5", 20, 4, .rw, (fun _ => 0xDFFFF113 / 2 ^ (4 * 5) % 16), false, (.reserved [4, 5, 6, 7, 8, 9]), .always⟩,
     ⟨"ALPHA_6", 24, 4, .rw, (fun _ => 0xDFFFF113 / 2 ^ (4 * 6) % 16), false, (.reserved [4, 5, 6, 7, 8, 9]), .always⟩,
     ⟨"ALPHA_7", 28, 4, .rw, (fun _ => 0xDFFFF113 / 2 ^ (4 * 7) % 16), false, (.reserved [4, 5, 6, 7, 8, 9]), .always⟩]⟩,
  ⟨"SWITCH.SPILL_CFG", 0x200020, [], 32, false,
    [⟨"SPILL_EN", 0, 1, .rw, (fun _ => 1), false, .any, .always⟩,
     ⟨"REFILL_KIB", 8, 16, .rw, (fun _ => 256), false, (.range 64 16384), .always⟩]⟩,
  ⟨"SWITCH.SNAP", 0x200028, [], 32, false,
    [⟨"REQ", 0, 1, .w1s, (fun _ => 0), false, .any, .always⟩,
     ⟨"DONE", 1, 1, .ro, (fun _ => 0), true, .any, .always⟩,
     ⟨"OVERRUN", 2, 1, .w1c, (fun _ => 0), false, .any, .always⟩]⟩,
  ⟨"SWITCH.BUF_STATUS", 0x200030, [], 64, true,
    [⟨"POOL_FREE_KIB", 0, 24, .ro, (fun _ => 0), true, .any, .always⟩,
     ⟨"HEADROOM_KIB", 24, 24, .ro, (fun _ => 0), true, .any, .always⟩]⟩,
  ⟨"SWITCH.SPILL_STATUS", 0x200038, [], 64, true,
    [⟨"SPILL_USED_MIB", 0, 20, .ro, (fun _ => 0), true, .any, .always⟩,
     ⟨"SPILL_FULL", 20, 1, .ro, (fun _ => 0), true, .any, .always⟩,
     ⟨"SPILL_VOQS", 32, 32, .ro, (fun _ => 0), true, .any, .always⟩]⟩,
  ⟨"SWITCH.COUNT_A", 0x200040, [], 64, true,
    [⟨"STOMPED", 0, 32, .ro, (fun _ => 0), true, .any, .always⟩,
     ⟨"NO_ROUTE", 32, 32, .ro, (fun _ => 0), true, .any, .always⟩]⟩,
  ⟨"SWITCH.COUNT_B", 0x200048, [], 64, true,
    [⟨"DENIED_AT_INGRESS", 0, 32, .ro, (fun _ => 0), true, .any, .always⟩,
     ⟨"BACKPRESSURE_TICKS", 32, 32, .ro, (fun _ => 0), true, .any, .always⟩]⟩,
  ⟨"SWITCH.FLUSH_STATUS", 0x200050, [], 64, true,
    [⟨"ACTIVE", 0, 1, .ro, (fun _ => 0), true, .any, .always⟩,
     ⟨"PORT", 1, 7, .ro, (fun _ => 0), true, .any, .always⟩,
     ⟨"NOTICES_PENDING", 32, 32, .ro, (fun _ => 0), true, .any, .always⟩]⟩,
  ⟨"SWITCH.PORT_BUF", 0x201000, [(0, 128, 0x8)], 64, false,
    [⟨"PARTS", 0, 32, .rwg, (fun _ => 0), false, .any, (.func (fun ix => ix.getD 0 0))⟩]⟩,
  ⟨"SWITCH.PORT_CREDIT", 0x201800, [(0, 128, 0x8)], 64, false,
    [⟨"ALLOT_0", 0, 8, .rwg, (fun _ => 0x1820202020402008 / 2 ^ (8 * 0) % 256), false, (.range 6 255), (.func (fun ix => ix.getD 0 0))⟩,
     ⟨"ALLOT_1", 8, 8, .rwg, (fun _ => 0x1820202020402008 / 2 ^ (8 * 1) % 256), false, (.range 6 255), (.func (fun ix => ix.getD 0 0))⟩,
     ⟨"ALLOT_2", 16, 8, .rwg, (fun _ => 0x1820202020402008 / 2 ^ (8 * 2) % 256), false, (.range 6 255), (.func (fun ix => ix.getD 0 0))⟩,
     ⟨"ALLOT_3", 24, 8, .rwg, (fun _ => 0x1820202020402008 / 2 ^ (8 * 3) % 256), false, (.range 6 255), (.func (fun ix => ix.getD 0 0))⟩,
     ⟨"ALLOT_4", 32, 8, .rwg, (fun _ => 0x1820202020402008 / 2 ^ (8 * 4) % 256), false, (.range 6 255), (.func (fun ix => ix.getD 0 0))⟩,
     ⟨"ALLOT_5", 40, 8, .rwg, (fun _ => 0x1820202020402008 / 2 ^ (8 * 5) % 256), false, (.range 6 255), (.func (fun ix => ix.getD 0 0))⟩,
     ⟨"ALLOT_6", 48, 8, .rwg, (fun _ => 0x1820202020402008 / 2 ^ (8 * 6) % 256), false, (.range 6 255), (.func (fun ix => ix.getD 0 0))⟩,
     ⟨"ALLOT_7", 56, 8, .rwg, (fun _ => 0x1820202020402008 / 2 ^ (8 * 7) % 256), false, (.range 6 255), (.func (fun ix => ix.getD 0 0))⟩]⟩,
  ⟨"SWITCH.BUNDLE", 0x204000, [(0, 256, 0x20)], 256, false,
    [⟨"MEMBERS_0", 0, 64, .rw, (fun _ => 0), false, .any, .always⟩,
     ⟨"MEMBERS_1", 64, 64, .rw, (fun _ => 0), false, .any, .always⟩,
     ⟨"MEMBERS_2", 128, 64, .rw, (fun _ => 0), false, .any, .always⟩,
     ⟨"MEMBERS_3", 192, 64, .rw, (fun _ => 0), false, .any, .always⟩]⟩,
  ⟨"SWITCH.ROUTE", 0x208000, [(0, 4096, 0x8)], 64, false,
    [⟨"BUNDLE", 0, 8, .rw, (fun _ => 0), false, .any, .always⟩,
     ⟨"VALID", 8, 1, .rw, (fun _ => 0), false, .any, .always⟩,
     ⟨"ANNOUNCE", 9, 1, .wo, (fun _ => 0), false, .any, .always⟩]⟩]

/-- The register map of block CLUSTER (R25). -/
def regMapCluster : List RegDesc := [
  ⟨"CLUSTER.CL_IMAGE", 0x400000, [(0, 48, 0x10000)], 64, false,
    [⟨"IMAGE_ID", 0, 16, .rwg, (fun _ => 1), false, .any, (.func (fun ix => 130 + ix.getD 0 0))⟩,
     ⟨"TEST_AT_START", 16, 1, .rwg, (fun _ => 1), false, .any, (.func (fun ix => 130 + ix.getD 0 0))⟩,
     ⟨"IMAGE_VERSION", 32, 32, .ro, (fun _ => 0), false, .any, .always⟩]⟩,
  ⟨"CLUSTER.CL_STATUS", 0x400008, [(0, 48, 0x10000)], 64, false,
    [⟨"ACTIVE_CELLS", 0, 8, .ro, (fun _ => 0), false, .any, .always⟩,
     ⟨"SPARES_LEFT", 8, 3, .ro, (fun _ => 0), false, .any, .always⟩,
     ⟨"LOAD_RESULT", 12, 4, .ro, (fun _ => 0), false, .any, .always⟩,
     ⟨"LOAD_DETAIL", 16, 16, .ro, (fun _ => 0), false, .any, .always⟩,
     ⟨"SWAPS", 32, 16, .ro, (fun _ => 0), false, .any, .always⟩,
     ⟨"MAX_CYCLES", 48, 16, .ro, (fun _ => 0), false, .any, .always⟩]⟩,
  ⟨"CLUSTER.CE_CFG", 0x400010, [(0, 48, 0x10000)], 32, false,
    [⟨"CE_LIMIT", 0, 8, .rw, (fun _ => 32), false, (.range 1 255), .always⟩,
     ⟨"CE_WINDOW_S", 8, 16, .rw, (fun _ => 60), false, (.range 1 65535), .always⟩,
     ⟨"WDOG_LOG2", 24, 5, .rw, (fun _ => 16), false, (.range 12 24), .always⟩]⟩,
  ⟨"CLUSTER.CL_SNAP", 0x400020, [(0, 48, 0x10000)], 32, false,
    [⟨"REQ", 0, 1, .w1s, (fun _ => 0), false, .any, .always⟩,
     ⟨"DONE", 1, 1, .ro, (fun _ => 0), false, .any, .always⟩,
     ⟨"OVERRUN", 2, 1, .w1c, (fun _ => 0), false, .any, .always⟩]⟩,
  ⟨"CLUSTER.CL_COUNT_A", 0x400028, [(0, 48, 0x10000)], 64, true,
    [⟨"EVENTS", 0, 32, .ro, (fun _ => 0), true, .any, .always⟩,
     ⟨"BUDGET_OVERRUNS", 32, 32, .ro, (fun _ => 0), true, .any, .always⟩]⟩,
  ⟨"CLUSTER.CL_COUNT_B", 0x400030, [(0, 48, 0x10000)], 64, true,
    [⟨"EXCEPTIONS", 0, 32, .ro, (fun _ => 0), true, .any, .always⟩,
     ⟨"NO_ENTRY", 32, 16, .ro, (fun _ => 0), true, .any, .always⟩,
     ⟨"MISDELIVERED", 48, 16, .ro, (fun _ => 0), true, .any, .always⟩]⟩,
  ⟨"CLUSTER.FINISH_SLOT", 0x400100, [(0, 48, 0x10000), (0, 16, 0x8)], 64, false,
    [⟨"VALID", 0, 1, .ro, (fun _ => 0), false, .any, .always⟩,
     ⟨"SWARM", 1, 8, .ro, (fun _ => 0), false, .any, .always⟩,
     ⟨"HEAD_SLOT", 9, 4, .ro, (fun _ => 0), false, .any, .always⟩,
     ⟨"SPAN", 13, 4, .ro, (fun _ => 0), false, .any, .always⟩,
     ⟨"BOUND", 17, 11, .ro, (fun _ => 0), false, .any, .always⟩]⟩,
  ⟨"CLUSTER.CELL_MAP", 0x400400, [(0, 48, 0x10000), (0, 128, 0x4)], 32, false,
    [⟨"PHYS", 0, 8, .ro, (fun _ => 0), false, .any, .always⟩,
     ⟨"REMAPS", 8, 8, .ro, (fun _ => 0), false, .any, .always⟩]⟩,
  ⟨"CLUSTER.PHYS_CELL", 0x400800, [(0, 48, 0x10000), (0, 132, 0x8)], 64, false,
    [⟨"STATE", 0, 3, .ro, (fun _ => 0), false, .any, .always⟩,
     ⟨"LAST_FAULT", 3, 4, .ro, (fun _ => 0), false, .any, .always⟩,
     ⟨"RETIRE", 7, 1, .w1s, (fun _ => 0), false, .any, .always⟩,
     ⟨"REINSTATE", 8, 1, .w1s, (fun _ => 0), false, .any, .always⟩,
     ⟨"CE_COUNT", 16, 16, .ro, (fun _ => 0), false, .any, .always⟩,
     ⟨"UE_COUNT", 32, 16, .ro, (fun _ => 0), false, .any, .always⟩]⟩]

/-- The register map of block SWARM (R25). -/
def regMapSwarm : List RegDesc := [
  ⟨"SWARM.SWARM_CFG", 0x700000, [], 32, false,
    [⟨"TILE_BUDGET", 0, 16, .rw, (fun _ => 16384), false, (.range 1024 65535), .always⟩,
     ⟨"PARK_TICKS", 16, 16, .rw, (fun _ => 400), false, (.range 1 65535), .always⟩]⟩,
  ⟨"SWARM.ACTIVE_MAP", 0x700020, [], 256, false,
    [⟨"ACTIVE_0", 0, 64, .ro, (fun _ => 0), true, .any, .always⟩,
     ⟨"ACTIVE_1", 64, 64, .ro, (fun _ => 0), true, .any, .always⟩,
     ⟨"ACTIVE_2", 128, 64, .ro, (fun _ => 0), true, .any, .always⟩,
     ⟨"ACTIVE_3", 192, 64, .ro, (fun _ => 0), true, .any, .always⟩]⟩,
  ⟨"SWARM.WAIT_MAP", 0x700040, [], 256, false,
    [⟨"WAITING_0", 0, 64, .ro, (fun _ => 0), true, .any, .always⟩,
     ⟨"WAITING_1", 64, 64, .ro, (fun _ => 0), true, .any, .always⟩,
     ⟨"WAITING_2", 128, 64, .ro, (fun _ => 0), true, .any, .always⟩,
     ⟨"WAITING_3", 192, 64, .ro, (fun _ => 0), true, .any, .always⟩]⟩,
  ⟨"SWARM.SWARM_DEF", 0x710000, [(0, 256, 0x40)], 512, false,
    [⟨"MEMBER_COUNT", 0, 9, .rwg, (fun _ => 0), false, .any, (.func (fun ix => 202 + ix.getD 0 0))⟩,
     ⟨"FMT", 9, 4, .rwg, (fun _ => 0), false, (.reserved [14, 15]), (.func (fun ix => 202 + ix.getD 0 0))⟩,
     ⟨"RND", 13, 2, .rwg, (fun _ => 0), false, (.reserved [2, 3]), (.func (fun ix => 202 + ix.getD 0 0))⟩,
     ⟨"TENANT", 16, 12, .rwg, (fun _ => 0), false, .any, (.func (fun ix => 202 + ix.getD 0 0))⟩,
     ⟨"TIMEOUT_US", 32, 20, .rwg, (fun _ => 4000), false, (.range 100 1000000), (.func (fun ix => 202 + ix.getD 0 0))⟩,
     ⟨"WEIGHT", 52, 8, .rwg, (fun _ => 16), false, (.range 1 255), (.func (fun ix => 202 + ix.getD 0 0))⟩,
     ⟨"PLANE_MASK", 64, 32, .rwg, (fun _ => 0), false, .any, (.func (fun ix => 202 + ix.getD 0 0))⟩,
     ⟨"OP_SIZE", 128, 32, .rwg, (fun _ => 0), false, .any, (.func (fun ix => 202 + ix.getD 0 0))⟩,
     ⟨"START_OPSEQ", 160, 32, .rwg, (fun _ => 0), false, .any, (.func (fun ix => 202 + ix.getD 0 0))⟩,
     ⟨"FINISH_KIND", 192, 2, .rwg, (fun _ => 0), false, (.reserved [3]), (.func (fun ix => 202 + ix.getD 0 0))⟩,
     ⟨"FINISH_IMAGE", 200, 16, .rwg, (fun _ => 0), false, .any, (.func (fun ix => 202 + ix.getD 0 0))⟩,
     ⟨"ACC_REGION", 224, 11, .rwg, (fun _ => 0), false, .any, (.func (fun ix => 202 + ix.getD 0 0))⟩,
     ⟨"FINISH_PARAM", 256, 64, .rwg, (fun _ => 0), false, .any, (.func (fun ix => 202 + ix.getD 0 0))⟩,
     ⟨"FINISH_AUX", 320, 64, .rwg, (fun _ => 0), false, .any, (.func (fun ix => 202 + ix.getD 0 0))⟩,
     ⟨"STATE_OFFSET", 384, 48, .rwg, (fun _ => 0), false, .any, (.func (fun ix => 202 + ix.getD 0 0))⟩,
     ⟨"STATE_LEN_2M", 432, 16, .rwg, (fun _ => 0), false, .any, (.func (fun ix => 202 + ix.getD 0 0))⟩]⟩,
  ⟨"SWARM.SWARM_MEMBER", 0x720000, [(0, 256, 0x400), (0, 256, 0x4)], 32, false,
    [⟨"EP_ID", 0, 12, .rwg, (fun _ => 0), false, .any, (.func (fun ix => 202 + ix.getD 0 0))⟩,
     ⟨"CONTEXT", 12, 12, .rwg, (fun _ => 0), false, .any, (.func (fun ix => 202 + ix.getD 0 0))⟩,
     ⟨"VALID", 24, 1, .rwg, (fun _ => 0), false, .any, (.func (fun ix => 202 + ix.getD 0 0))⟩]⟩,
  ⟨"SWARM.SWARM_STATUS", 0x760000, [(0, 256, 0x20)], 64, false,
    [⟨"PLACE", 0, 2, .ro, (fun _ => 0), true, .any, .always⟩,
     ⟨"OPEN_OLD", 2, 1, .ro, (fun _ => 0), true, .any, .always⟩,
     ⟨"OPEN_NEW", 3, 1, .ro, (fun _ => 0), true, .any, .always⟩,
     ⟨"PLACE_NO", 4, 6, .ro, (fun _ => 0), true, .any, .always⟩,
     ⟨"FINISH_LOAD", 12, 4, .ro, (fun _ => 0), true, .any, .always⟩,
     ⟨"FINISH_LOAD_DETAIL", 16, 16, .ro, (fun _ => 0), true, .any, .always⟩,
     ⟨"NEXT_OPSEQ", 32, 32, .ro, (fun _ => 0), true, .any, .always⟩]⟩,
  ⟨"SWARM.SWARM_LIMIT", 0x760008, [(0, 256, 0x20)], 64, false,
    [⟨"LIMIT", 0, 21, .ro, (fun _ => 0), true, .any, .always⟩,
     ⟨"T_PLANE", 21, 21, .ro, (fun _ => 0), true, .any, .always⟩]⟩,
  ⟨"SWARM.SWARM_COUNT_A", 0x764000, [(0, 256, 0x20)], 64, false,
    [⟨"OPS_OPENED", 0, 32, .ro, (fun _ => 0), true, .any, .always⟩,
     ⟨"OPS_ABORTED", 32, 32, .ro, (fun _ => 0), true, .any, .always⟩]⟩,
  ⟨"SWARM.SWARM_COUNT_B", 0x764008, [(0, 256, 0x20)], 64, false,
    [⟨"TILES_REDUCED", 0, 32, .ro, (fun _ => 0), true, .any, .always⟩,
     ⟨"DISCARDED", 32, 32, .ro, (fun _ => 0), true, .any, .always⟩]⟩,
  ⟨"SWARM.SWARM_COUNT_C", 0x764010, [(0, 256, 0x20)], 64, false,
    [⟨"DUPLICATES", 0, 16, .ro, (fun _ => 0), true, .any, .always⟩,
     ⟨"RESENDS", 16, 16, .ro, (fun _ => 0), true, .any, .always⟩,
     ⟨"SILENT_RELEASES", 32, 8, .ro, (fun _ => 0), true, .any, .always⟩,
     ⟨"ABORT_REQ_IGNORED", 40, 8, .ro, (fun _ => 0), true, .any, .always⟩,
     ⟨"ABORT_UNSEEN", 48, 8, .ro, (fun _ => 0), true, .any, .always⟩]⟩,
  ⟨"SWARM.SWARM_ABORT_LOG", 0x768000, [(0, 256, 0x20)], 64, false,
    [⟨"CAUSE", 0, 4, .ro, (fun _ => 0), true, .any, .always⟩,
     ⟨"MEMBER", 4, 8, .ro, (fun _ => 0), true, .any, .always⟩,
     ⟨"SOURCE", 12, 2, .ro, (fun _ => 0), true, .any, .always⟩,
     ⟨"OPSEQ", 32, 32, .ro, (fun _ => 0), true, .any, .always⟩]⟩,
  ⟨"SWARM.SWARM_ABORT_TIME", 0x768008, [(0, 256, 0x20)], 64, false,
    [⟨"DECISION_TIME", 0, 64, .ro, (fun _ => 0), true, .any, .always⟩]⟩,
  ⟨"SWARM.SWARM_CMD", 0x76C000, [(0, 256, 0x8)], 32, false,
    [⟨"ABORT_OP", 0, 1, .w1s, (fun _ => 0), false, .any, .always⟩]⟩]

/-- The register map of block COMBINE (R25). -/
def regMapCombine : List RegDesc := [
  ⟨"COMBINE.COMB_CFG", 0x780000, [], 32, false,
    [⟨"COMB_EN", 0, 1, .rwg, (fun _ => 1), false, .any, .clustersStopped⟩,
     ⟨"LEDGER_HOLD_US", 8, 11, .rwg, (fun _ => 1000), false, (.range 1000 1800), .clustersStopped⟩,
     ⟨"ONWARD_ATTEMPT_US", 24, 7, .rwg, (fun _ => 16), false, (.range 4 64), .clustersStopped⟩]⟩,
  ⟨"COMBINE.TABLE_CFG", 0x780008, [], 32, false,
    [⟨"MIRROR_REGION", 0, 11, .rwg, (fun _ => 351), false, .any, .clustersStopped⟩]⟩,
  ⟨"COMBINE.COMB_COUNT_A", 0x780040, [], 64, false,
    [⟨"JOINED_READS", 0, 32, .ro, (fun _ => 0), true, .any, .always⟩,
     ⟨"JOINED_ADDS", 32, 32, .ro, (fun _ => 0), true, .any, .always⟩]⟩,
  ⟨"COMBINE.COMB_COUNT_B", 0x780048, [], 64, false,
    [⟨"ONWARD_ISSUED", 0, 32, .ro, (fun _ => 0), true, .any, .always⟩,
     ⟨"ONWARD_FAILED", 32, 32, .ro, (fun _ => 0), true, .any, .always⟩]⟩,
  ⟨"COMBINE.COMB_COUNT_C", 0x780050, [], 64, false,
    [⟨"LEDGER_HITS", 0, 32, .ro, (fun _ => 0), true, .any, .always⟩,
     ⟨"RETRY_STALE_SENT", 32, 16, .ro, (fun _ => 0), true, .any, .always⟩,
     ⟨"PARK_DISCARDS", 48, 16, .ro, (fun _ => 0), true, .any, .always⟩]⟩,
  ⟨"COMBINE.COMB_COUNT_D", 0x780058, [], 64, false,
    [⟨"GATHERS_DONE", 0, 32, .ro, (fun _ => 0), true, .any, .always⟩,
     ⟨"ROW_JOINS", 32, 32, .ro, (fun _ => 0), true, .any, .always⟩]⟩,
  ⟨"COMBINE.COMB_STATUS", 0x780060, [], 64, false,
    [⟨"MAX_DOVETAILS", 0, 6, .rc, (fun _ => 0), false, .any, .always⟩,
     ⟨"MAX_PARKED", 6, 9, .rc, (fun _ => 0), false, .any, .always⟩,
     ⟨"LEDGER_FULL_TICKS", 32, 32, .ro, (fun _ => 0), true, .any, .always⟩]⟩]

/-- The register map of block EP (R25). -/
def regMapEp : List RegDesc := [
  ⟨"EP.EP_CFG", 0x800000, [(0, 2, 0x100000)], 64, false,
    [⟨"EP_ID", 0, 12, .rwg, (fun ix => 0xFFB + (ix.getD 0 0)), false, .any, (.func (fun ix => 128 + ix.getD 0 0))⟩,
     ⟨"ADMIN_CTX", 16, 12, .rwg, (fun ix => 0x800 * (ix.getD 0 0)), false, .any, (.func (fun ix => 128 + ix.getD 0 0))⟩,
     ⟨"CREDIT_MAX", 28, 4, .rw, (fun _ => 4), false, (.range 1 15), .always⟩,
     ⟨"GRANT_RESERVE", 32, 10, .rw, (fun _ => 64), false, (.range 0 512), .always⟩]⟩,
  ⟨"EP.EP_TIMING", 0x800008, [(0, 2, 0x100000)], 64, false,
    [⟨"ATTEMPT_US", 0, 11, .rw, (fun _ => 64), false, (.range 8 2000), .always⟩,
     ⟨"SKIP_WAIT_US", 11, 10, .rw, (fun _ => 32), false, (.range 8 1000), .always⟩,
     ⟨"STALE_US", 21, 10, .rw, (fun _ => 1000), false, (.range 500 1000), .always⟩,
     ⟨"WC_HOLD_NS", 32, 10, .rw, (fun _ => 500), false, (.range 0 1000), .always⟩,
     ⟨"TORN_RETRIES", 42, 4, .rw, (fun _ => 2), false, (.range 0 15), .always⟩,
     ⟨"TORN_GAP_NS", 46, 10, .rw, (fun _ => 1000), false, (.range 100 1000), .always⟩]⟩,
  ⟨"EP.EP_PLANES", 0x800010, [(0, 2, 0x100000)], 32, false,
    [⟨"PLANE_LIST", 0, 32, .rw, (fun _ => 1), false, .any, .always⟩]⟩,
  ⟨"EP.EP_SNAP", 0x800018, [(0, 2, 0x100000)], 32, false,
    [⟨"REQ", 0, 1, .w1s, (fun _ => 0), false, .any, .always⟩,
     ⟨"DONE", 1, 1, .ro, (fun _ => 0), true, .any, .always⟩,
     ⟨"OVERRUN", 2, 1, .w1c, (fun _ => 0), false, .any, .always⟩]⟩,
  ⟨"EP.EP_COUNT_A", 0x800020, [(0, 2, 0x100000)], 64, true,
    [⟨"RETRIES", 0, 32, .ro, (fun _ => 0), true, .any, .always⟩,
     ⟨"COCOONED", 32, 32, .ro, (fun _ => 0), true, .any, .always⟩]⟩,
  ⟨"EP.EP_COUNT_B", 0x800028, [(0, 2, 0x100000)], 64, true,
    [⟨"SEQ_SKIPS", 0, 16, .ro, (fun _ => 0), true, .any, .always⟩,
     ⟨"SEQ_DISCARDS", 16, 16, .ro, (fun _ => 0), true, .any, .always⟩,
     ⟨"STALE_DISCARDS", 32, 16, .ro, (fun _ => 0), true, .any, .always⟩,
     ⟨"RESP_DISCARDS", 48, 16, .ro, (fun _ => 0), true, .any, .always⟩]⟩,
  ⟨"EP.EP_COUNT_C", 0x800030, [(0, 2, 0x100000)], 64, true,
    [⟨"SIGNALS_FIRED", 0, 32, .ro, (fun _ => 0), true, .any, .always⟩,
     ⟨"SIG_DUPLICATES", 32, 16, .ro, (fun _ => 0), true, .any, .always⟩,
     ⟨"CTR_UNAVAILABLE", 48, 16, .ro, (fun _ => 0), true, .any, .always⟩]⟩,
  ⟨"EP.CTX", 0x810000, [(0, 4096, 0x40)], 512, false,
    [⟨"ENABLE", 0, 1, .rw, (fun _ => 0), false, .any, .ctx⟩,
     ⟨"EP_SEL", 1, 1, .rw, (fun _ => 0), false, .any, .ctx⟩,
     ⟨"SQ_EN", 2, 4, .rw, (fun _ => 0), false, .any, .ctx⟩,
     ⟨"SQ_ORDERED", 6, 4, .rw, (fun _ => 0), false, .any, .ctx⟩,
     ⟨"SIG_EVENTS", 10, 1, .rw, (fun _ => 0), false, .any, .ctx⟩,
     ⟨"TENANT", 16, 12, .rw, (fun _ => 0), false, .any, .ctx⟩,
     ⟨"FUNC", 28, 8, .rw, (fun _ => 0), false, .any, .ctx⟩,
     ⟨"EQ_VECTOR", 36, 11, .rw, (fun _ => 0), false, .any, .ctx⟩,
     ⟨"SQ_LOG2", 48, 16, .rw, (fun _ => 0), false, .any, .ctx⟩,
     ⟨"CQ_LOG2", 64, 4, .rw, (fun _ => 0), false, .any, .ctx⟩,
     ⟨"EQ_LOG2", 68, 4, .rw, (fun _ => 0), false, .any, .ctx⟩,
     ⟨"SQ_BASE_0", 128, 64, .rw, (fun _ => 0), false, .any, .ctx⟩,
     ⟨"SQ_BASE_1", 192, 64, .rw, (fun _ => 0), false, .any, .ctx⟩,
     ⟨"SQ_BASE_2", 256, 64, .rw, (fun _ => 0), false, .any, .ctx⟩,
     ⟨"SQ_BASE_3", 320, 64, .rw, (fun _ => 0), false, .any, .ctx⟩,
     ⟨"CQ_BASE", 384, 64, .rw, (fun _ => 0), false, .any, .ctx⟩,
     ⟨"EQ_BASE", 448, 64, .rw, (fun _ => 0), false, .any, .ctx⟩]⟩,
  ⟨"EP.CTX_STATUS", 0x850000, [(0, 4096, 0x8)], 64, false,
    [⟨"STEP_FAULTED", 0, 1, .w1c, (fun _ => 0), false, .any, .always⟩,
     ⟨"EQ_OVERFLOW", 1, 1, .w1c, (fun _ => 0), false, .any, .always⟩,
     ⟨"OUTSTANDING", 16, 16, .ro, (fun _ => 0), true, .any, .always⟩,
     ⟨"COCOONED", 32, 16, .ro, (fun _ => 0), true, .any, .always⟩,
     ⟨"FAULTS", 48, 16, .ro, (fun _ => 0), false, .any, .always⟩]⟩,
  ⟨"EP.CTR_STATE", 0x860000, [(0, 2, 0x100000), (0, 1024, 0x8)], 64, false,
    [⟨"STATE", 0, 3, .ro, (fun _ => 0), true, .any, .always⟩,
     ⟨"SRC", 3, 12, .ro, (fun _ => 0), true, .any, .always⟩,
     ⟨"MSG", 15, 16, .ro, (fun _ => 0), true, .any, .always⟩,
     ⟨"COUNTED", 31, 16, .ro, (fun _ => 0), true, .any, .always⟩,
     ⟨"COUNT", 47, 16, .ro, (fun _ => 0), true, .any, .always⟩]⟩,
  ⟨"EP.TENANT_EPOCH", 0x870000, [(0, 4096, 0x4)], 32, false,
    [⟨"EPOCH", 0, 8, .ro, (fun _ => 0), true, .any, .always⟩]⟩]

/-- The register map of block EXTENT (R25). -/
def regMapExtent : List RegDesc := [
  ⟨"EXTENT.EXT_CFG", 0xA00000, [], 32, false,
    [⟨"TABLE_REGION", 0, 11, .rwg, (fun _ => 320), false, .any, (.func (fun _ => 459))⟩]⟩,
  ⟨"EXTENT.EXT_CMD", 0xA00008, [], 32, false,
    [⟨"INDEX", 0, 18, .wo, (fun _ => 0), false, .any, .always⟩,
     ⟨"OP", 20, 3, .wo, (fun _ => 0), false, .any, .always⟩]⟩,
  ⟨"EXTENT.EXT_CMD_STATUS", 0xA00010, [], 32, false,
    [⟨"BUSY", 0, 1, .ro, (fun _ => 0), true, .any, .always⟩,
     ⟨"RESULT", 1, 3, .ro, (fun _ => 0), true, .any, .always⟩,
     ⟨"INDEX", 4, 18, .ro, (fun _ => 0), true, .any, .always⟩,
     ⟨"OVERRUN", 22, 1, .w1c, (fun _ => 0), false, .any, .always⟩]⟩,
  ⟨"EXTENT.EXT_STAGE", 0xA00020, [], 256, false,
    [⟨"ENTRY_0", 0, 64, .rw, (fun _ => 0), false, .any, .always⟩,
     ⟨"ENTRY_1", 64, 64, .rw, (fun _ => 0), false, .any, .always⟩,
     ⟨"ENTRY_2", 128, 64, .rw, (fun _ => 0), false, .any, .always⟩,
     ⟨"ENTRY_3", 192, 64, .rw, (fun _ => 0), false, .any, .always⟩]⟩,
  ⟨"EXTENT.EXT_VIEW", 0xA00040, [], 256, false,
    [⟨"ENTRY_0", 0, 64, .ro, (fun _ => 0), true, .any, .always⟩,
     ⟨"ENTRY_1", 64, 64, .ro, (fun _ => 0), true, .any, .always⟩,
     ⟨"ENTRY_2", 128, 64, .ro, (fun _ => 0), true, .any, .always⟩,
     ⟨"ENTRY_3", 192, 64, .ro, (fun _ => 0), true, .any, .always⟩]⟩,
  ⟨"EXTENT.EXT_COUNT_A", 0xA00060, [], 64, false,
    [⟨"CACHE_MISSES", 0, 32, .ro, (fun _ => 0), true, .any, .always⟩,
     ⟨"FORCED_REVOKES", 32, 32, .ro, (fun _ => 0), true, .any, .always⟩]⟩,
  ⟨"EXTENT.EXT_COUNT_B", 0xA00068, [], 64, false,
    [⟨"LIVE", 0, 19, .ro, (fun _ => 0), true, .any, .always⟩,
     ⟨"REVOKING", 32, 19, .ro, (fun _ => 0), true, .any, .always⟩]⟩,
  ⟨"EXTENT.OWN_COUNT", 0xA00070, [], 64, false,
    [⟨"OPS", 0, 32, .ro, (fun _ => 0), true, .any, .always⟩,
     ⟨"CONFLICTS", 32, 16, .ro, (fun _ => 0), true, .any, .always⟩,
     ⟨"BUCKET_FULL", 48, 16, .ro, (fun _ => 0), true, .any, .always⟩]⟩,
  ⟨"EXTENT.HOME_CFG", 0xA00080, [], 32, false,
    [⟨"REGION_FIRST", 0, 11, .rwg, (fun _ => 376), false, .any, (.func (fun _ => 462))⟩,
     ⟨"REGION_COUNT", 16, 11, .rwg, (fun _ => 1160), false, (.range 1 1536), (.func (fun _ => 462))⟩]⟩,
  ⟨"EXTENT.SEG_INVAL_RANGE", 0xA00100, [], 64, false,
    [⟨"FVA_GRAN", 0, 36, .rw, (fun _ => 0), false, .any, .always⟩,
     ⟨"NGRAN", 36, 28, .rw, (fun _ => 0), false, .any, .always⟩]⟩,
  ⟨"EXTENT.SEG_INVAL_CMD", 0xA00108, [], 32, false,
    [⟨"CTX", 0, 12, .wo, (fun _ => 0), false, .any, .always⟩,
     ⟨"ALL", 12, 1, .wo, (fun _ => 0), false, .any, .always⟩,
     ⟨"SEQ", 16, 8, .wo, (fun _ => 0), false, .any, .always⟩]⟩,
  ⟨"EXTENT.SEG_INVAL_STATUS", 0xA00110, [], 32, false,
    [⟨"BUSY", 0, 1, .ro, (fun _ => 0), true, .any, .always⟩,
     ⟨"ENGINE_ACKS", 1, 8, .ro, (fun _ => 0), true, .any, .always⟩,
     ⟨"DONE_SEQ", 16, 8, .ro, (fun _ => 0), true, .any, .always⟩,
     ⟨"OVERRUN", 24, 1, .w1c, (fun _ => 0), false, .any, .always⟩]⟩,
  ⟨"EXTENT.ATS_COUNT", 0xA00120, [], 64, false,
    [⟨"INVALIDATIONS", 0, 32, .ro, (fun _ => 0), true, .any, .always⟩,
     ⟨"XLATE_FAILS", 32, 32, .ro, (fun _ => 0), true, .any, .always⟩]⟩,
  ⟨"EXTENT.SEG_BASE", 0xA08000, [(0, 4096, 0x8)], 64, false,
    [⟨"BASE", 9, 55, .rw, (fun _ => 0), false, .any, .always⟩]⟩,
  ⟨"EXTENT.EXPORT", 0xA20000, [(0, 2, 0x20000), (0, 4096, 0x20)], 256, false,
    [⟨"VALID", 0, 1, .rw, (fun _ => 0), false, .any, .exportEntry⟩,
     ⟨"REG_INDEX", 1, 18, .rw, (fun _ => 0), false, .any, .exportEntry⟩,
     ⟨"CTX", 20, 12, .rw, (fun _ => 0), false, .any, .exportEntry⟩,
     ⟨"LBASE", 76, 52, .rw, (fun _ => 0), false, .any, .exportEntry⟩]⟩]

/-- The register map of block HOSTPORT (R25). -/
def regMapHostport : List RegDesc := [
  ⟨"HOSTPORT.MGR_CTL", 0xB00000, [], 32, false,
    [⟨"MGR_PORT", 0, 1, .ro, (fun _ => 0), true, .any, .always⟩,
     ⟨"HANDOVER", 1, 1, .w1s, (fun _ => 0), false, .any, .always⟩,
     ⟨"AUTO_EN", 2, 1, .rw, (fun _ => 0), false, .any, .always⟩,
     ⟨"HANDOVER_RESULT", 4, 3, .ro, (fun _ => 0), true, .any, .always⟩,
     ⟨"CHANGED", 7, 1, .w1c, (fun _ => 0), false, .any, .always⟩,
     ⟨"AUTO_MS", 16, 14, .rw, (fun _ => 100), false, (.range 10 10000), .always⟩]⟩,
  ⟨"HOSTPORT.HP_SNAP", 0xB00008, [], 32, false,
    [⟨"REQ", 0, 1, .w1s, (fun _ => 0), false, .any, .always⟩,
     ⟨"DONE", 1, 1, .ro, (fun _ => 0), true, .any, .always⟩,
     ⟨"OVERRUN", 2, 1, .w1c, (fun _ => 0), false, .any, .always⟩]⟩,
  ⟨"HOSTPORT.LINK_STATUS", 0xB00010, [(0, 2, 0x20)], 64, true,
    [⟨"LINK_UP", 0, 1, .ro, (fun _ => 0), true, .any, .always⟩,
     ⟨"RATE", 1, 3, .ro, (fun _ => 0), true, .any, .always⟩,
     ⟨"WIDTH", 4, 5, .ro, (fun _ => 0), true, .any, .always⟩,
     ⟨"FLIT", 9, 1, .ro, (fun _ => 0), true, .any, .always⟩,
     ⟨"PERST", 10, 1, .ro, (fun _ => 0), true, .any, .always⟩,
     ⟨"LINK_DOWNS", 16, 16, .ro, (fun _ => 0), true, .any, .always⟩,
     ⟨"FLR_COUNT", 32, 16, .ro, (fun _ => 0), true, .any, .always⟩]⟩,
  ⟨"HOSTPORT.HP_COUNT", 0xB00018, [(0, 2, 0x20)], 64, true,
    [⟨"WIN_READS_ABANDONED", 0, 16, .ro, (fun _ => 0), true, .any, .always⟩,
     ⟨"WIN_UNMAPPED", 16, 16, .ro, (fun _ => 0), true, .any, .always⟩,
     ⟨"CONF_AUTH_FAILS", 32, 16, .ro, (fun _ => 0), true, .any, .always⟩,
     ⟨"ADMIN_EVENTS_DROPPED", 48, 16, .ro, (fun _ => 0), true, .any, .always⟩]⟩,
  ⟨"HOSTPORT.PORT_CFG", 0xB00100, [(0, 2, 0x10)], 64, false,
    [⟨"TOTAL_VFS", 0, 8, .rwg, (fun _ => 255), false, (.range 0 255), (.func (fun ix => 128 + ix.getD 0 0))⟩,
     ⟨"PF_VECTORS", 8, 12, .rwg, (fun _ => 256), false, (.range 1 2048), (.func (fun ix => 128 + ix.getD 0 0))⟩,
     ⟨"VF_VECTORS", 20, 12, .rwg, (fun _ => 7), false, (.range 0 2048), (.func (fun ix => 128 + ix.getD 0 0))⟩,
     ⟨"WIN_READ_MS", 32, 6, .rwg, (fun _ => 10), false, (.range 1 40), (.func (fun ix => 128 + ix.getD 0 0))⟩]⟩,
  ⟨"HOSTPORT.WIN", 0xB00200, [(0, 2, 0x80), (0, 16, 0x8)], 64, false,
    [⟨"VALID", 0, 1, .rw, (fun _ => 0), false, .any, .always⟩,
     ⟨"CTX", 1, 12, .rw, (fun _ => 0), false, .any, .window⟩,
     ⟨"VOL", 13, 1, .rw, (fun _ => 0), false, .any, .window⟩,
     ⟨"ACQ", 14, 1, .rw, (fun _ => 0), false, .any, .window⟩,
     ⟨"NC", 15, 1, .rw, (fun _ => 0), false, .any, .window⟩,
     ⟨"COMB", 16, 1, .rw, (fun _ => 0), false, .any, .window⟩,
     ⟨"TC", 17, 3, .rw, (fun _ => 3), false, .any, .window⟩,
     ⟨"FVA_4G", 21, 25, .rw, (fun _ => 0), false, .any, .window⟩]⟩,
  ⟨"HOSTPORT.VF_WIN", 0xB08000, [(0, 2, 0x800), (1, 255, 0x8)], 64, false,
    [⟨"VALID", 0, 1, .rw, (fun _ => 0), false, .any, .always⟩,
     ⟨"CTX", 1, 12, .rw, (fun _ => 0), false, .any, .window⟩,
     ⟨"VOL", 13, 1, .rw, (fun _ => 0), false, .any, .window⟩,
     ⟨"ACQ", 14, 1, .rw, (fun _ => 0), false, .any, .window⟩,
     ⟨"NC", 15, 1, .rw, (fun _ => 0), false, .any, .window⟩,
     ⟨"COMB", 16, 1, .rw, (fun _ => 0), false, .any, .window⟩,
     ⟨"TC", 17, 3, .rw, (fun _ => 3), false, .any, .window⟩,
     ⟨"FVA_4G", 21, 25, .rw, (fun _ => 0), false, .any, .window⟩]⟩,
  ⟨"HOSTPORT.FUNC_QOS", 0xB01000, [(0, 2, 0x800), (0, 256, 0x8)], 64, false,
    [⟨"WEIGHT", 0, 8, .rw, (fun _ => 16), false, (.range 1 255), .always⟩,
     ⟨"RATE_CAP_GBS", 8, 8, .rw, (fun _ => 0), false, (.range 0 128), .always⟩]⟩,
  ⟨"HOSTPORT.FUNC_STATE", 0xB02000, [(0, 2, 0x800), (0, 256, 0x8)], 64, false,
    [⟨"FLR_ACTIVE", 0, 1, .ro, (fun _ => 0), true, .any, .always⟩,
     ⟨"FLR_STEP", 1, 3, .ro, (fun _ => 0), true, .any, .always⟩,
     ⟨"CONFIDENTIAL", 4, 1, .ro, (fun _ => 0), true, .any, .always⟩,
     ⟨"QOS_ACTIVE", 5, 1, .ro, (fun _ => 0), true, .any, .always⟩,
     ⟨"CONTEXTS", 8, 13, .ro, (fun _ => 0), true, .any, .always⟩,
     ⟨"LAST_FLR_US", 32, 32, .ro, (fun _ => 0), true, .any, .always⟩]⟩,
  ⟨"HOSTPORT.EQ_MOD", 0xB04000, [(0, 4096, 0x4)], 32, false,
    [⟨"MOD_COUNT", 0, 8, .rw, (fun _ => 1), false, (.range 1 255), .always⟩,
     ⟨"MOD_US", 8, 10, .rw, (fun _ => 0), false, (.range 0 1000), .always⟩]⟩,
  ⟨"HOSTPORT.VF_CTX_MAP", 0xB20000, [(0, 2, 0x10000), (1, 255, 0x100), (0, 64, 0x4)], 32, false,
    [⟨"CTX", 0, 12, .rw, (fun _ => 0), false, .any, .vfMap⟩,
     ⟨"VALID", 12, 1, .rw, (fun _ => 0), false, .any, .vfMap⟩]⟩]

/-- The register map of block PORT (R25). -/
def regMapPort : List RegDesc := [
  ⟨"PORT.PORT_CFG", 0xC00000, [(0, 128, 0x4000)], 32, false,
    [⟨"SPLIT", 0, 1, .rwg, (fun _ => 0), false, .any, (.func (fun ix => ix.getD 0 0))⟩,
     ⟨"MIN_WIDTH", 1, 3, .rwg, (fun _ => 1), false, (.oneOf [1, 2, 4, 6]), (.func (fun ix => ix.getD 0 0))⟩,
     ⟨"LOOPBACK", 4, 3, .rwg, (fun _ => 0), false, (.reserved [4, 5, 6, 7]), (.func (fun ix => ix.getD 0 0))⟩,
     ⟨"PATTERN", 7, 2, .rwg, (fun _ => 0), false, (.reserved [3]), (.func (fun ix => ix.getD 0 0))⟩,
     ⟨"MEDIA", 9, 1, .rwg, (fun _ => 0), false, .any, (.func (fun ix => ix.getD 0 0))⟩,
     ⟨"CMIS_CH", 10, 7, .rwg, (fun _ => 0), false, .any, (.func (fun ix => ix.getD 0 0))⟩]⟩,
  ⟨"PORT.THRESH", 0xC00008, [(0, 128, 0x4000)], 32, false,
    [⟨"SER_RETIRE", 0, 10, .rw, (fun _ => 100), false, (.range 1 1000), .always⟩,
     ⟨"RETRAIN_LIMIT", 10, 4, .rw, (fun _ => 4), false, (.range 1 15), .always⟩,
     ⟨"RETRAIN_WINDOW_MIN", 14, 8, .rw, (fun _ => 10), false, (.range 1 255), .always⟩]⟩,
  ⟨"PORT.LINK_CFG", 0xC00010, [(0, 128, 0x4000)], 32, false,
    [⟨"AUTH_LIMIT", 0, 8, .rw, (fun _ => 64), false, (.range 8 255), .always⟩,
     ⟨"UCW_RETRAIN", 8, 8, .rw, (fun _ => 16), false, (.range 1 255), .always⟩]⟩,
  ⟨"PORT.PORT_SNAP", 0xC00018, [(0, 128, 0x4000)], 32, false,
    [⟨"REQ", 0, 1, .w1s, (fun _ => 0), false, .any, .always⟩,
     ⟨"DONE", 1, 1, .ro, (fun _ => 0), false, .any, .always⟩,
     ⟨"OVERRUN", 2, 1, .w1c, (fun _ => 0), false, .any, .always⟩]⟩,
  ⟨"PORT.LINK_STATUS", 0xC00020, [(0, 128, 0x4000), (0, 2, 0x8)], 64, true,
    [⟨"STATE", 0, 3, .ro, (fun _ => 0), false, .any, .always⟩,
     ⟨"WIDTH", 3, 4, .ro, (fun _ => 0), false, .any, .always⟩,
     ⟨"ACTIVE_LANES", 7, 8, .ro, (fun _ => 0), false, .any, .always⟩,
     ⟨"KEY_SEQ", 15, 8, .ro, (fun _ => 0), false, .any, .always⟩,
     ⟨"DOWN_CAUSE", 23, 4, .ro, (fun _ => 0), false, .any, .always⟩,
     ⟨"LINK_UPS", 28, 16, .ro, (fun _ => 0), false, .any, .always⟩]⟩,
  ⟨"PORT.KEY_STATUS", 0xC00030, [(0, 128, 0x4000), (0, 2, 0x8)], 64, true,
    [⟨"TX_FRAMES_KEY", 0, 40, .ro, (fun _ => 0), false, .any, .always⟩,
     ⟨"KEY_AGE_S", 40, 17, .ro, (fun _ => 0), false, .any, .always⟩,
     ⟨"NEXT_READY", 57, 1, .ro, (fun _ => 0), false, .any, .always⟩]⟩,
  ⟨"PORT.PORT_COUNT", 0xC00040, [(0, 128, 0x4000), (0, 2, 0x10)], 128, true,
    [⟨"AUTH_FAILS", 0, 32, .ro, (fun _ => 0), false, .any, .always⟩,
     ⟨"FRAME_ERRORS", 32, 32, .ro, (fun _ => 0), false, .any, .always⟩,
     ⟨"MALFORMED", 64, 32, .ro, (fun _ => 0), false, .any, .always⟩,
     ⟨"FLUSHED", 96, 32, .ro, (fun _ => 0), false, .any, .always⟩]⟩,
  ⟨"PORT.LANE_STATUS", 0xC00100, [(0, 128, 0x4000), (0, 8, 0x8)], 64, true,
    [⟨"STATE", 0, 3, .ro, (fun _ => 0), false, .any, .always⟩,
     ⟨"LOGICAL", 3, 3, .ro, (fun _ => 0), false, .any, .always⟩,
     ⟨"LOS", 6, 1, .ro, (fun _ => 0), false, .any, .always⟩,
     ⟨"LOL", 7, 1, .ro, (fun _ => 0), false, .any, .always⟩,
     ⟨"LAST_FAULT", 8, 3, .ro, (fun _ => 0), false, .any, .always⟩,
     ⟨"RETIRE", 11, 1, .w1s, (fun _ => 0), false, .any, .always⟩,
     ⟨"REINSTATE", 12, 1, .w1s, (fun _ => 0), false, .any, .always⟩,
     ⟨"RETRAINS", 16, 8, .ro, (fun _ => 0), false, .any, .always⟩,
     ⟨"SKEW_NS", 32, 10, .ro, (fun _ => 0), false, .any, .always⟩]⟩,
  ⟨"PORT.LANE_COUNT", 0xC00200, [(0, 128, 0x4000), (0, 8, 0x10)], 128, true,
    [⟨"CORRECTED_SYMBOLS", 0, 48, .ro, (fun _ => 0), false, .any, .always⟩,
     ⟨"LOS_EVENTS", 48, 16, .ro, (fun _ => 0), false, .any, .always⟩,
     ⟨"UNCORRECTABLE", 64, 32, .ro, (fun _ => 0), false, .any, .always⟩,
     ⟨"LOL_EVENTS", 96, 16, .ro, (fun _ => 0), false, .any, .always⟩]⟩,
  ⟨"PORT.LANE_PRBS", 0xC00300, [(0, 128, 0x4000), (0, 8, 0x8)], 64, true,
    [⟨"ERRORS", 0, 64, .ro, (fun _ => 0), false, .any, .always⟩]⟩,
  ⟨"PORT.EYE_CTL", 0xC00400, [(0, 128, 0x4000)], 32, false,
    [⟨"EYE", 0, 2, .rw, (fun _ => 0), false, (.reserved [3]), .always⟩,
     ⟨"PHASE", 2, 6, .rw, (fun _ => 0), false, .any, .always⟩,
     ⟨"VOFF", 8, 7, .rw, (fun _ => 0), false, .any, .always⟩,
     ⟨"DWELL_LOG2", 15, 5, .rw, (fun _ => 20), false, (.range 10 31), .always⟩,
     ⟨"START", 20, 1, .w1s, (fun _ => 0), false, .any, .always⟩,
     ⟨"DONE", 21, 1, .ro, (fun _ => 0), false, .any, .always⟩,
     ⟨"OVERRUN", 22, 1, .w1c, (fun _ => 0), false, .any, .always⟩]⟩,
  ⟨"PORT.EYE_RESULT", 0xC00408, [(0, 128, 0x4000)], 64, false,
    [⟨"ERRORS", 0, 32, .ro, (fun _ => 0), false, .any, .always⟩,
     ⟨"DWELL_USED", 32, 5, .ro, (fun _ => 0), false, .any, .always⟩]⟩,
  ⟨"PORT.CMIS_STATUS", 0xC00500, [(0, 128, 0x4000)], 64, false,
    [⟨"PRESENT", 0, 1, .ro, (fun _ => 0), false, .any, .always⟩,
     ⟨"MODULE_STATE", 1, 3, .ro, (fun _ => 0), false, .any, .always⟩,
     ⟨"APP_SEL", 4, 4, .ro, (fun _ => 0), false, .any, .always⟩,
     ⟨"FAULT", 8, 1, .ro, (fun _ => 0), false, .any, .always⟩,
     ⟨"ALARM", 9, 1, .ro, (fun _ => 0), false, .any, .always⟩,
     ⟨"WARNING", 10, 1, .ro, (fun _ => 0), false, .any, .always⟩,
     ⟨"TEMP", 16, 16, .ro, (fun _ => 0), false, .any, .always⟩,
     ⟨"READ_FAILS", 32, 16, .ro, (fun _ => 0), false, .any, .always⟩]⟩]

/-- The register map of block HBM (R25). -/
def regMapHbm : List RegDesc := [
  ⟨"HBM.HBM_CFG", 0x1000000, [(0, 24, 0x10000)], 32, false,
    [⟨"CE_LIMIT", 0, 8, .rw, (fun _ => 64), false, (.range 1 255), .always⟩,
     ⟨"CE_WINDOW_S", 8, 16, .rw, (fun _ => 60), false, (.range 1 65535), .always⟩,
     ⟨"UE_LIMIT", 24, 4, .rw, (fun _ => 2), false, (.range 1 15), .always⟩]⟩,
  ⟨"HBM.HBM_SNAP", 0x1000008, [(0, 24, 0x10000)], 32, false,
    [⟨"REQ", 0, 1, .w1s, (fun _ => 0), false, .any, .always⟩,
     ⟨"DONE", 1, 1, .ro, (fun _ => 0), false, .any, .always⟩,
     ⟨"OVERRUN", 2, 1, .w1c, (fun _ => 0), false, .any, .always⟩]⟩,
  ⟨"HBM.HBM_COUNT", 0x1000010, [(0, 24, 0x10000)], 64, true,
    [⟨"CORRECTED", 0, 32, .ro, (fun _ => 0), false, .any, .always⟩,
     ⟨"UNCORRECTABLE", 32, 16, .ro, (fun _ => 0), false, .any, .always⟩,
     ⟨"RETRAINS", 48, 16, .ro, (fun _ => 0), false, .any, .always⟩]⟩,
  ⟨"HBM.HBM_STATUS", 0x1000018, [(0, 24, 0x10000)], 64, false,
    [⟨"RETIRED_PCS", 0, 7, .ro, (fun _ => 0), false, .any, .always⟩,
     ⟨"RESERVE_LEFT", 8, 5, .ro, (fun _ => 16), false, .any, .always⟩]⟩,
  ⟨"HBM.PC_STATUS", 0x1000100, [(0, 24, 0x10000), (0, 64, 0x8)], 64, false,
    [⟨"STATE", 0, 3, .ro, (fun _ => 0), false, .any, .always⟩,
     ⟨"LAST_FAULT", 3, 4, .ro, (fun _ => 0), false, .any, .always⟩,
     ⟨"RETIRE", 7, 1, .w1s, (fun _ => 0), false, .any, .always⟩,
     ⟨"REINSTATE", 8, 1, .w1s, (fun _ => 0), false, .any, .always⟩,
     ⟨"DONOR_A", 9, 11, .ro, (fun _ => 2047), false, .any, .always⟩,
     ⟨"DONOR_B", 20, 11, .ro, (fun _ => 2047), false, .any, .always⟩,
     ⟨"CE_COUNT", 32, 16, .ro, (fun _ => 0), false, .any, .always⟩,
     ⟨"UE_COUNT", 48, 16, .ro, (fun _ => 0), false, .any, .always⟩]⟩]

/-- The register map of block TELEMETRY (R25). -/
def regMapTelemetry : List RegDesc := [
  ⟨"TELEMETRY.TEL_CFG", 0xF00000, [], 32, false,
    [⟨"MAP_REGION", 0, 11, .rwg, (fun _ => 352), false, .any, (.func (fun _ => 460))⟩]⟩,
  ⟨"TELEMETRY.ALARM_CFG", 0xF00008, [], 32, false,
    [⟨"PIN", 0, 4, .rwg, (fun _ => 0), false, .any, (.func (fun _ => 460))⟩,
     ⟨"EN", 4, 1, .rwg, (fun _ => 0), false, .any, (.func (fun _ => 460))⟩,
     ⟨"POOL_LOW_MIB", 5, 8, .rwg, (fun _ => 16), false, (.range 1 128), (.func (fun _ => 460))⟩]⟩,
  ⟨"TELEMETRY.TEL_STATUS", 0xF00010, [], 64, false,
    [⟨"SEQ", 0, 32, .ro, (fun _ => 0), true, .any, .always⟩,
     ⟨"ALARM", 32, 1, .ro, (fun _ => 0), true, .any, .always⟩]⟩,
  ⟨"TELEMETRY.TEL_LAST_TICK", 0xF00018, [], 64, false,
    [⟨"TICK", 0, 64, .ro, (fun _ => 0), true, .any, .always⟩]⟩,
  ⟨"TELEMETRY.TEL_CNT_SEL", 0xF00020, [], 32, false,
    [⟨"NUMBER", 0, 24, .rw, (fun _ => 0), false, .any, .always⟩,
     ⟨"REQ", 24, 1, .w1s, (fun _ => 0), false, .any, .always⟩,
     ⟨"DONE", 25, 1, .ro, (fun _ => 0), true, .any, .always⟩,
     ⟨"OVERRUN", 26, 1, .w1c, (fun _ => 0), false, .any, .always⟩]⟩,
  ⟨"TELEMETRY.TEL_CNT_VALUE", 0xF00028, [], 64, false,
    [⟨"VALUE", 0, 64, .ro, (fun _ => 0), true, .any, .always⟩]⟩,
  ⟨"TELEMETRY.FF_CFG", 0xF00100, [], 64, false,
    [⟨"FF_REGION", 0, 11, .rwg, (fun _ => 353), false, .any, (.func (fun _ => 461))⟩,
     ⟨"STOP_ON_WRAP", 11, 1, .rwg, (fun _ => 0), false, .any, (.func (fun _ => 461))⟩,
     ⟨"COPY_BUDGET", 12, 12, .rwg, (fun _ => 256), false, (.range 1 4095), (.func (fun _ => 461))⟩,
     ⟨"PULSE_PIN", 24, 4, .rwg, (fun _ => 0), false, .any, (.func (fun _ => 461))⟩,
     ⟨"PULSE_EN", 28, 1, .rwg, (fun _ => 0), false, .any, (.func (fun _ => 461))⟩,
     ⟨"PULSE_TIMER", 29, 5, .rwg, (fun _ => 0), false, .any, (.func (fun _ => 461))⟩]⟩,
  ⟨"TELEMETRY.MIRROR_CFG", 0xF00108, [], 64, false,
    [⟨"MIRROR_DEST", 0, 12, .rwg, (fun _ => 0), false, .any, (.func (fun _ => 461))⟩,
     ⟨"MIRROR_EN", 12, 1, .rwg, (fun _ => 0), false, .any, (.func (fun _ => 461))⟩,
     ⟨"MIRROR_TICKS", 13, 16, .rwg, (fun _ => 400), false, (.range 1 65535), (.func (fun _ => 461))⟩,
     ⟨"MIRROR_PARTS", 32, 32, .rwg, (fun _ => 0), false, .any, (.func (fun _ => 461))⟩]⟩,
  ⟨"TELEMETRY.FF_STATUS", 0xF00110, [], 64, false,
    [⟨"STOPPED", 0, 1, .ro, (fun _ => 0), true, .any, .always⟩,
     ⟨"FLOWS", 1, 11, .ro, (fun _ => 0), true, .any, .always⟩]⟩,
  ⟨"TELEMETRY.FF_WRITE_INDEX", 0xF00118, [], 64, false,
    [⟨"NEXT", 0, 64, .ro, (fun _ => 0), true, .any, .always⟩]⟩,
  ⟨"TELEMETRY.FF_COUNT", 0xF00120, [], 64, false,
    [⟨"COPIES_SKIPPED", 0, 16, .ro, (fun _ => 0), true, .any, .always⟩,
     ⟨"VERDICT_LOST", 16, 16, .ro, (fun _ => 0), true, .any, .always⟩,
     ⟨"MIRROR_TABLE_FULL", 32, 16, .ro, (fun _ => 0), true, .any, .always⟩,
     ⟨"MIRROR_SKIPPED", 48, 16, .ro, (fun _ => 0), true, .any, .always⟩]⟩,
  ⟨"TELEMETRY.FF_FILTER", 0xF00200, [(0, 8, 0x8)], 64, false,
    [⟨"KIND", 0, 6, .rwg, (fun _ => 0), false, .any, (.func (fun _ => 461))⟩,
     ⟨"TC_MASK", 8, 8, .rwg, (fun _ => 0), false, .any, (.func (fun _ => 461))⟩,
     ⟨"SRC", 16, 12, .rwg, (fun _ => 0), false, .any, (.func (fun _ => 461))⟩,
     ⟨"DEST", 28, 12, .rwg, (fun _ => 0), false, .any, (.func (fun _ => 461))⟩,
     ⟨"SRC_ANY", 40, 1, .rwg, (fun _ => 0), false, .any, (.func (fun _ => 461))⟩,
     ⟨"DEST_ANY", 41, 1, .rwg, (fun _ => 0), false, .any, (.func (fun _ => 461))⟩,
     ⟨"TENANT", 42, 12, .rwg, (fun _ => 0), false, .any, (.func (fun _ => 461))⟩,
     ⟨"TENANT_ANY", 54, 1, .rwg, (fun _ => 0), false, .any, (.func (fun _ => 461))⟩,
     ⟨"SAMPLE_LOG2", 55, 5, .rwg, (fun _ => 0), false, (.range 0 31), (.func (fun _ => 461))⟩,
     ⟨"VALID", 60, 1, .rwg, (fun _ => 0), false, .any, (.func (fun _ => 461))⟩,
     ⟨"ACTION", 61, 2, .rwg, (fun _ => 0), false, .any, (.func (fun _ => 461))⟩]⟩,
  ⟨"TELEMETRY.FF_MATCHES", 0xF00300, [(0, 8, 0x8)], 64, false,
    [⟨"MATCHES", 0, 64, .ro, (fun _ => 0), true, .any, .always⟩]⟩]

/-- The register map of block MGMT (R25). -/
def regMapMgmt : List RegDesc := [
  ⟨"MGMT.MGMT_STATUS", 0x1300000, [], 32, false,
    [⟨"EID", 0, 8, .ro, (fun _ => 0), false, .any, .always⟩,
     ⟨"UPDATE_STATE", 8, 3, .ro, (fun _ => 0), false, .any, .always⟩]⟩,
  ⟨"MGMT.EVT_FWD", 0x1300008, [], 32, false,
    [⟨"QUEUED", 0, 7, .ro, (fun _ => 0), false, .any, .always⟩,
     ⟨"DROPPED", 16, 16, .ro, (fun _ => 0), false, .any, .always⟩]⟩,
  ⟨"MGMT.GPIO_CTL", 0x1300100, [(0, 16, 0x4)], 32, false,
    [⟨"DIR", 0, 1, .rw, (fun _ => 0), false, .any, .always⟩,
     ⟨"OPEN_DRAIN", 1, 1, .rw, (fun _ => 0), false, .any, .always⟩,
     ⟨"OUT", 2, 1, .ro, (fun _ => 0), false, .any, .always⟩,
     ⟨"IN", 3, 1, .ro, (fun _ => 0), false, .any, .always⟩]⟩,
  ⟨"MGMT.FW_LOG_CFG", 0x1300200, [], 32, false,
    [⟨"LEVEL", 0, 2, .rw, (fun _ => 2), false, .any, .always⟩,
     ⟨"TRACE_EN", 8, 8, .rw, (fun _ => 0), false, .any, .always⟩]⟩,
  ⟨"MGMT.FW_LOG_STATUS", 0x1300208, [], 32, false,
    [⟨"NEXT_SEQ", 0, 32, .ro, (fun _ => 0), false, .any, .always⟩]⟩,
  ⟨"MGMT.FW_LOG", 0x1310000, [(0, 8192, 0x20)], 256, false,
    [⟨"WORD_0", 0, 64, .ro, (fun _ => 0), false, .any, .always⟩,
     ⟨"WORD_1", 64, 64, .ro, (fun _ => 0), false, .any, .always⟩,
     ⟨"WORD_2", 128, 64, .ro, (fun _ => 0), false, .any, .always⟩,
     ⟨"WORD_3", 192, 64, .ro, (fun _ => 0), false, .any, .always⟩]⟩]

/-- The register map of block SECURITY (R25). -/
def regMapSecurity : List RegDesc := [
  ⟨"SECURITY.BOOT_STATUS", 0x1400000, [], 32, false,
    [⟨"STAGE", 0, 3, .ro, (fun _ => 0), false, .any, .always⟩,
     ⟨"HALTED", 3, 1, .ro, (fun _ => 0), false, .any, .always⟩,
     ⟨"BOOT_SRC", 4, 2, .ro, (fun _ => 0), false, .any, .always⟩,
     ⟨"RUNNING_BANK", 6, 1, .ro, (fun _ => 0), false, .any, .always⟩,
     ⟨"FALLBACK", 7, 1, .ro, (fun _ => 0), false, .any, .always⟩,
     ⟨"FAIL_CAUSE", 8, 3, .ro, (fun _ => 0), false, .any, .always⟩,
     ⟨"LOCK", 11, 1, .ro, (fun _ => 0), false, .any, .always⟩]⟩,
  ⟨"SECURITY.IMAGE_INFO", 0x1400008, [], 64, false,
    [⟨"IMAGE_VERSION", 0, 64, .ro, (fun _ => 0), false, .any, .always⟩]⟩,
  ⟨"SECURITY.IMAGE_SVN", 0x1400010, [], 64, false,
    [⟨"SVN", 0, 32, .ro, (fun _ => 0), false, .any, .always⟩,
     ⟨"STATE_A", 32, 2, .ro, (fun _ => 0), false, .any, .always⟩,
     ⟨"STATE_B", 34, 2, .ro, (fun _ => 0), false, .any, .always⟩,
     ⟨"PREFERRED", 36, 1, .ro, (fun _ => 0), false, .any, .always⟩]⟩,
  ⟨"SECURITY.IDENTITY_STATUS", 0x1400018, [], 64, false,
    [⟨"IDENTITY_OK", 0, 1, .ro, (fun _ => 0), false, .any, .always⟩,
     ⟨"IDENTITY_EXHAUSTED", 1, 1, .ro, (fun _ => 0), false, .any, .always⟩,
     ⟨"SEALED_OK", 2, 1, .ro, (fun _ => 0), false, .any, .always⟩,
     ⟨"NEXT_LEAF", 16, 40, .ro, (fun _ => 0), false, .any, .always⟩]⟩,
  ⟨"SECURITY.MOLT_CMD", 0x1400020, [], 32, false,
    [⟨"MOLT", 0, 1, .w1s, (fun _ => 0), false, .any, .always⟩]⟩,
  ⟨"SECURITY.MOLT_STATUS", 0x1400028, [], 32, false,
    [⟨"RESULT", 0, 3, .ro, (fun _ => 0), false, .any, .always⟩,
     ⟨"STEP", 3, 3, .ro, (fun _ => 0), false, .any, .always⟩,
     ⟨"MOLT_COUNT", 16, 16, .ro, (fun _ => 0), false, .any, .always⟩]⟩,
  ⟨"SECURITY.LINK_KEY_GEN", 0x1400030, [], 64, false,
    [⟨"GEN_NEW", 0, 32, .ro, (fun _ => 0), false, .any, .always⟩,
     ⟨"GEN_OLD", 32, 32, .ro, (fun _ => 0), false, .any, .always⟩]⟩,
  ⟨"SECURITY.PROC_STATUS", 0x1400100, [(0, 52, 0x8)], 64, false,
    [⟨"STATE", 0, 2, .ro, (fun _ => 0), false, .any, .always⟩,
     ⟨"LAST_CAUSE", 2, 4, .ro, (fun _ => 0), false, .any, .always⟩,
     ⟨"RESTARTS", 16, 16, .ro, (fun _ => 0), false, .any, .always⟩]⟩]

/-- The register map of block POWER (R25). -/
def regMapPower : List RegDesc := [
  ⟨"POWER.POWER_CFG", 0x1200000, [], 32, false,
    [⟨"HOST_CAP_W", 0, 12, .rw, (fun _ => 3000), false, (.range 500 3000), .always⟩,
     ⟨"GUARD_W", 12, 8, .rw, (fun _ => 20), false, (.range 0 100), .always⟩,
     ⟨"RAMP_UP_W", 20, 8, .rw, (fun _ => 200), false, (.range 10 200), .always⟩]⟩,
  ⟨"POWER.RACK_CAP", 0x1200008, [], 32, false,
    [⟨"RACK_CAP_W", 0, 12, .ro, (fun _ => 3000), true, .any, .always⟩]⟩,
  ⟨"POWER.CLAMP_CFG", 0x1200010, [], 32, false,
    [⟨"CLAMP_W", 0, 12, .rw, (fun _ => 1500), false, (.range 0 3000), .always⟩]⟩,
  ⟨"POWER.THERM_CFG", 0x1200018, [], 32, false,
    [⟨"TARGET_C", 0, 7, .rw, (fun _ => 100), false, (.range 85 104), .always⟩]⟩,
  ⟨"POWER.POWER_STATUS", 0x1200020, [], 64, false,
    [⟨"CAP_STATE", 0, 2, .ro, (fun _ => 0), true, .any, .always⟩,
     ⟨"CLAMPED", 2, 1, .ro, (fun _ => 0), true, .any, .always⟩,
     ⟨"HW_THROTTLE", 3, 1, .ro, (fun _ => 0), true, .any, .always⟩,
     ⟨"LEVEL", 4, 5, .ro, (fun _ => 31), true, .any, .always⟩,
     ⟨"LOOP_LEVEL", 9, 5, .ro, (fun _ => 31), true, .any, .always⟩,
     ⟨"CLAMP_LEVEL", 14, 5, .ro, (fun _ => 31), true, .any, .always⟩,
     ⟨"HW_LEVEL", 19, 5, .ro, (fun _ => 0), true, .any, .always⟩,
     ⟨"EFFECTIVE_CAP_W", 24, 12, .ro, (fun _ => 3000), true, .any, .always⟩,
     ⟨"POWER_W", 36, 12, .ro, (fun _ => 0), true, .any, .always⟩,
     ⟨"THERMAL_CAP_W", 48, 12, .ro, (fun _ => 3000), true, .any, .always⟩]⟩,
  ⟨"POWER.TEMP_STATUS", 0x1200028, [], 32, false,
    [⟨"MAX_TJ", 0, 11, .ro, (fun _ => 0), true, .any, .always⟩,
     ⟨"MAX_SENSOR", 11, 6, .ro, (fun _ => 0), true, .any, .always⟩]⟩,
  ⟨"POWER.SENSOR_FAIL", 0x1200030, [], 64, false,
    [⟨"FAILED", 0, 64, .ro, (fun _ => 0), true, .any, .always⟩]⟩,
  ⟨"POWER.POWER_COUNT", 0x1200038, [], 64, false,
    [⟨"CHASING_STEPS", 0, 16, .ro, (fun _ => 0), true, .any, .always⟩,
     ⟨"UNREACHABLE_STEPS", 16, 16, .ro, (fun _ => 0), true, .any, .always⟩,
     ⟨"CLAMP_EVENTS", 32, 16, .ro, (fun _ => 0), true, .any, .always⟩,
     ⟨"HW_THROTTLE_TICKS", 48, 16, .ro, (fun _ => 0), true, .any, .always⟩]⟩,
  ⟨"POWER.CDC_OVERRUN", 0x1200040, [], 32, false,
    [⟨"OVERRUN", 0, 7, .w1c, (fun _ => 0), false, .any, .always⟩]⟩,
  ⟨"POWER.RESET_CMD", 0x1200048, [], 32, false,
    [⟨"WARM", 0, 1, .w1s, (fun _ => 0), false, .any, .always⟩]⟩,
  ⟨"POWER.RESET_STATUS", 0x1200050, [], 32, false,
    [⟨"LAST_RESET", 0, 3, .ro, (fun _ => 0), true, .any, .always⟩,
     ⟨"WARM_COUNT", 16, 16, .ro, (fun _ => 0), false, .any, .always⟩]⟩]

/-- Every register of BAR0 (R25). -/
def regMap : List RegDesc :=
  regMapGlobal ++ regMapTick ++ regMapSwitch ++ regMapCluster ++ regMapSwarm ++ regMapCombine ++ regMapEp ++ regMapExtent ++ regMapHostport ++ regMapPort ++ regMapHbm ++ regMapTelemetry ++ regMapMgmt ++ regMapSecurity ++ regMapPower

end Sys2Proof.Machine
end

