-- ==== Sys2Proof/Machine/Functions.lean ====
section
/-!
DEFINITION. Machine/Functions.lean: the commands to functions and the events of R29.
-/
namespace Sys2Proof.Machine
open Sys2Proof

/-! ### FUNC_CMD (R30 to R32) -/

/-- Function `n` enters DRY_FIT at START (R29): claims are decided, its hardware begins from its start state. -/
def startFn (s : State) (n : Nat) (img : Program) : State :=
  let i := fnInst n
  let s := setResult (cnt s (Reg.GLOBAL.FUNC_DIAG.DRYFIT_COUNT n)) n 0 0 0
  let s := { s with fn := { s.fn with startAt := setKey s.fn.startAt n s.now, images := putKey s.fn.images n (.stock 0 0 0) img } }
  let s := decideClaims s n
  let s := setFn s n 1
  match fnType n with
  | 0 => { s with link := { s.link with sender := delKey (delKey s.link.sender (2 * i)) (2 * i + 1) } }
  | 2 => cellsDryFit s i
  | 6 => extStart s
  | 7 => wr s Reg.TELEMETRY.TEL_STATUS.SEQ 0
  | 8 => wr (wr s Reg.TELEMETRY.FF_STATUS.STOPPED 0) Reg.TELEMETRY.FF_WRITE_INDEX.NEXT 0
  | _ => s

/-- Function `n` leaves DRY_FIT by STOP (R29): checks abandoned, claims released. -/
def abandon (s : State) (n : Nat) : State :=
  let s := setResult (fnRelease s n) n 6 0 0
  setFn (if fnType n = 2 then cellsOff s (fnInst n) else s) n 0

/-- RETIRED or AWAIT_HOST is left for STOPPED (R29). -/
def backToStopped (s : State) (n : Nat) : State := setFn (if fnType n = 2 then cellsOff s (fnInst n) else s) n 0

/-- The effect of an accepted command in the present state; none where R29 has no row for it. -/
def cmdEffect (s : State) (n cmd : Nat) (img : Program) : Option State :=
  let st := fnState s n
  match cmd with
  | 1 => if st = 0 then some (startFn s n img) else none
  | 2 => if st = 1 then some (abandon s n) else if st = 2 ∧ (fnDependents s n).isEmpty then some (stopFn s n) else none
  | 3 => if st = 4 then some (backToStopped s n) else none
  | 4 => if (st = 0 ∨ st = 2) ∧ fnRetirable n ∧ (fnDependents s n).isEmpty then some (retireFn s n false) else none
  | 5 => if st = 5 then some (backToStopped s n) else none
  | _ => none

/-- A command is rejected (R30). -/
def rejectCmd (s : State) (n : Nat) : State := wr s (Reg.GLOBAL.FUNC_DIAG.CMD_REJECTED n) 1

/-- A write of FUNC_CMD of entry `n` (R30 to R32). -/
def funcCmd (s : State) (w : Writer) (n cmd seq : Nat) (img : Program) : State :=
  if !w.privileged then regError s w (0x1004 + 16 * n) 4 true 5
  else if cmd = 0 then s
  else if 463 ≤ n ∨ seq ≠ rd s (Reg.GLOBAL.FUNC_DIAG.SEQ n) then rejectCmd s n
  else
    match cmdEffect (wr s (Reg.GLOBAL.FUNC_DIAG.SEQ n) (seq + 1)) n cmd img with
    | some s' => trace s' 1 1 0x0200 n cmd
    | none => rejectCmd s n

/-- FUNC_CMD_NONE (R30). -/
def execFuncCmdNone (w : Writer) (n : BitVec 9) (seq : BitVec 8) (s : State) : Host.Outcome State Fault Refusal :=
  .next (funcCmd s w n.toNat 0 seq.toNat (.stock 0 0 0))

/-- FUNC_START (R29); `img` is the program that the loader takes from the program directory for a CLUSTER or a SWARM. -/
def execFuncStart (w : Writer) (n : BitVec 9) (seq : BitVec 8) (img : Program) (s : State) : Host.Outcome State Fault Refusal :=
  .next (funcCmd s w n.toNat 1 seq.toNat img)

/-- FUNC_STOP (R29). -/
def execFuncStop (w : Writer) (n : BitVec 9) (seq : BitVec 8) (s : State) : Host.Outcome State Fault Refusal :=
  .next (funcCmd s w n.toNat 2 seq.toNat (.stock 0 0 0))

/-- FUNC_ACK_HOST (R29). -/
def execFuncAckHost (w : Writer) (n : BitVec 9) (seq : BitVec 8) (s : State) : Host.Outcome State Fault Refusal :=
  .next (funcCmd s w n.toNat 3 seq.toNat (.stock 0 0 0))

/-- FUNC_RETIRE (R29). -/
def execFuncRetire (w : Writer) (n : BitVec 9) (seq : BitVec 8) (s : State) : Host.Outcome State Fault Refusal :=
  .next (funcCmd s w n.toNat 4 seq.toNat (.stock 0 0 0))

/-- FUNC_REINSTATE (R29). -/
def execFuncReinstate (w : Writer) (n : BitVec 9) (seq : BitVec 8) (s : State) : Host.Outcome State Fault Refusal :=
  .next (funcCmd s w n.toNat 5 seq.toNat (.stock 0 0 0))

/-! ### Events of R29 -/

/-- Function `n` has been in DRY_FIT for less than 50 ms. -/
def dryFitOpen (s : State) (n : Nat) : Bool := fnState s n == 1 && (match findKey s.fn.startAt n with | some t => decide (s.now < t + ms 50) | none => true)

/-- DRY_FIT_COMPLETE (R34): `hw` is what the self-test of the hardware found, and `bad` that the image copy that a CLUSTER
keeps in shared SRAM met an uncorrectable error, at `a`; the rest is decided from the state. -/
def execDryFitComplete (n : BitVec 9) (hw bad : Bool) (a : BitVec 23) (s : State) : Host.Outcome State Fault Refusal :=
  .next (if n.toNat < 463 ∧ dryFitOpen s n.toNat then dryFit s n.toNat hw (if bad then some a else none) else s)

/-- DRY_FIT_TIMEOUT (R29): 50 ms after START. -/
def execDryFitTimeout (n : BitVec 9) (s : State) : Host.Outcome State Fault Refusal :=
  .next (if fnState s n.toNat = 1 ∧ !dryFitOpen s n.toNat then dryFitFails s n.toNat 8 0 0 else s)

/-- STOP_DRAIN_COMPLETE (R29). -/
def execStopDrainComplete (n : BitVec 9) (s : State) : Host.Outcome State Fault Refusal :=
  .next (if fnState s n.toNat = 3 ∧ drained s n.toNat then reachStopped s n.toNat false else s)

/-- STOP_DRAIN_LIMIT (R29): the rest is flushed as on port-down and STOP_FORCED is set; an FLR of a HOSTPORT completes first (R314). -/
def execStopDrainLimit (n : BitVec 9) (s : State) : Host.Outcome State Fault Refusal :=
  .next (
    let due : Bool := match findKey s.fn.stopAt n.toNat with | some t => decide (t + us (rd s Reg.GLOBAL.STOP_DRAIN_LIMIT.LIMIT_US) ≤ s.now) | none => true
    let resets := fnType n.toNat == 1 && s.host.flr.any (fun x => x.1 / 256 == fnInst n.toNat)
    if fnState s n.toNat == 3 && !drained s n.toNat && due && !resets then
      reachStopped (wr (flushFn s n.toNat) (Reg.GLOBAL.FUNC_DIAG.STOP_FORCED n.toNat) 1) n.toNat true
    else s)

/-- FUNC_PERMANENT_FAULT (R29). -/
def execFuncPermanentFault (n : BitVec 9) (s : State) : Host.Outcome State Fault Refusal := .next (permanentFault s n.toNat)

end Sys2Proof.Machine
end

