-- ==== Sys2Proof/Machine/Failure.lean ====
section
/-!
DEFINITION. Machine/Failure.lean: HBM pseudo-channels (R351 to R354), step aborts (R355) and die-to-die links (R19, R349).
-/
namespace Sys2Proof.Machine
open Sys2Proof

/-! ### HBM pseudo-channels -/

/-- A pseudo-channel beyond its registers, by 64 × stack + channel. -/
def pcRun (s : State) (i : Nat) : PcRun := (findKey s.mem.pcs i).getD {}
/-- That set. -/
def setPc (s : State) (i : Nat) (r : PcRun) : State := { s with mem := { s.mem with pcs := putKey s.mem.pcs i {} r } }
/-- STATE of a pseudo-channel: 0 ACTIVE, 1 RETRAINING, 2 MIGRATING, 3 RETIRED. -/
def pcState (s : State) (i : Nat) : Nat := rd s (Reg.HBM.PC_STATUS.STATE (i / 64) (i % 64))
/-- STATE set. -/
def setPcState (s : State) (i st : Nat) : State := wr s (Reg.HBM.PC_STATUS.STATE (i / 64) (i % 64)) st

/-- The pseudo-channel of a 64 B granule of device HBM, which interleaves in units of 256 B. -/
def granulePc (g : Nat) : Nat := g / 4 % 1536

/-- An HBM record (R360). -/
def hbmRecord (s : State) (i cause outcome detB : Nat) : State :=
  report s (fHbm (i / 64)) 0x06 cause outcome (packBits [(0, 5, i / 64), (5, 6, i % 64)]) detB

/-- The times of `l` that lie within CE_WINDOW_S of now. -/
def inWindow (s : State) (m : Nat) (l : List Nat) : List Nat :=
  l.filter (fun t => decide (s.now < t + secs (rd s (Reg.HBM.HBM_CFG.CE_WINDOW_S m))))

/-- CE_COUNT and UE_COUNT of a pseudo-channel brought up to date. -/
def pcCounts (s : State) (i : Nat) : State :=
  let m := i / 64
  let r := pcRun s i
  let r := { r with ce := inWindow s m r.ce, ue := inWindow s m r.ue }
  wrs (setPc s i r) [(Reg.HBM.PC_STATUS.CE_COUNT m (i % 64), min 65535 r.ce.length), (Reg.HBM.PC_STATUS.UE_COUNT m (i % 64), min 65535 r.ue.length)]

/-- Donor regions in use, of every pseudo-channel. -/
def donorsUsed (s : State) : List Nat :=
  ((List.range 1536).flatMap (fun i => [rd s (Reg.HBM.PC_STATUS.DONOR_A (i / 64) (i % 64)), rd s (Reg.HBM.PC_STATUS.DONOR_B (i / 64) (i % 64))])).filter (· != 0x7FF)

/-- The donor reserve (R353): the highest 16 regions of the spill partition, highest first, without those in use. -/
def donorsFree (s : State) : List Nat :=
  let top := rd s (Reg.GLOBAL.HBM_PART.BASE 0) + rd s (Reg.GLOBAL.HBM_PART.SIZE 0)
  let used := donorsUsed s
  ((List.range 16).map (fun j => top - 1 - j)).filter (fun r => !used.contains r)

/-- RESERVE_LEFT of every stack brought up to date. -/
def reserveLeft (s : State) : State :=
  let n := 16 - (donorsUsed s).length
  (List.range 24).foldl (fun s m => wr s (Reg.HBM.HBM_STATUS.RESERVE_LEFT m) n) s

/-- RETIRED_PCS of a stack brought up to date. -/
def retiredPcs (s : State) (m : Nat) : State :=
  wr s (Reg.HBM.HBM_STATUS.RETIRED_PCS m) ((List.range 64).filter (fun k => pcState s (64 * m + k) == 3)).length

/-- A pseudo-channel retires (R353): it takes one donor region where every other pseudo-channel is healthy, else two. A reserve that
cannot cover it is a permanent fault of the stack's HBM function. -/
def pcMigrate (s : State) (i cause : Nat) : State :=
  let m := i / 64
  let k := i % 64
  let others := (List.range 1536).any (fun j => j != i && decide (2 ≤ pcState s j))
  let donors := (donorsFree s).take (if others then 2 else 1)
  let s := wr s (Reg.HBM.PC_STATUS.LAST_FAULT m k) cause
  if donors.length < (if others then 2 else 1) then
    permanentFault (hbmRecord s i cause 3 (packBits [(0, 11, 0x7FF), (11, 11, 0x7FF)])) (fHbm m)
  else
    let a := donors.getD 0 0x7FF
    let b := donors.getD 1 0x7FF
    let s := wrs s [(Reg.HBM.PC_STATUS.DONOR_A m k, a), (Reg.HBM.PC_STATUS.DONOR_B m k, b)]
    let s := reserveLeft (setPcState (setPc s i { pcRun s i with since := s.now }) i 2)
    hbmRecord s i cause 3 (packBits [(0, 11, a), (11, 11, b)])

/-- The faults that wait are taken up, one at a time, in order of detection (R354). -/
def pcNext (s : State) : Nat → State
  | 0 => s
  | n + 1 =>
    if (List.range 1536).any (fun i => pcState s i == 2) then s
    else
      match s.mem.queue with
      | [] => s
      | (i, cause) :: rest =>
        let s := { s with mem := { s.mem with queue := rest } }
        pcNext (if pcState s i < 2 then pcMigrate s i cause else s) n

/-- A permanent fault of a pseudo-channel detected (R351). -/
def pcFault (s : State) (i cause : Nat) : State :=
  if 2 ≤ pcState s i ∨ s.mem.queue.any (fun e => e.1 == i) then s
  else pcNext { s with mem := { s.mem with queue := s.mem.queue ++ [(i, cause)] } } (s.mem.queue.length + 1)

/-- HBM_UE_REREAD (R351): a granule that read uncorrectable in pseudo-channel `k` of stack `m` was read once more, correctly or not. The
granule lies in that pseudo-channel, or its own pseudo-channel has been retired. -/
def execHbmUeReread (m : Fin 24) (k : Fin 64) (g : BitVec 35) (good : Bool) (s : State) : Host.Outcome State Fault Refusal :=
  let i := 64 * m.val + k.val
  let own := granulePc g.toNat
  .next (
    if hbmSize ≤ 64 * g.toNat || !(own == i || decide (2 ≤ pcState s own)) || pcState s i == 1 then s
    else
      let s := cnt s (Reg.HBM.HBM_COUNT.UNCORRECTABLE m)
      if good then hbmRecord s i 6 2 (64 * g.toNat)
      else
        let s := { s with poison := g.toNat :: s.poison.filter (· != g.toNat) }
        hbmRecord (pcCounts (setPc s i { pcRun s i with ue := (pcRun s i).ue ++ [s.now] }) i) i 7 4 (64 * g.toNat))

/-- HBM_UE_LIMIT (R351): UE_LIMIT poisoned reads within the window. -/
def execHbmUeLimit (m : Fin 24) (k : Fin 64) (s : State) : Host.Outcome State Fault Refusal :=
  let i := 64 * m.val + k.val
  let s := pcCounts s i
  .next (if rd s (Reg.HBM.HBM_CFG.UE_LIMIT m) ≤ (pcRun s i).ue.length then pcFault s i 2 else s)

/-- HBM_CE_LIMIT (R351): one more corrected error, scrubbed and counted; at CE_LIMIT within the window the pseudo-channel retires. -/
def execHbmCeLimit (m : Fin 24) (k : Fin 64) (s : State) : Host.Outcome State Fault Refusal :=
  let i := 64 * m.val + k.val
  let s := cnt s (Reg.HBM.HBM_COUNT.CORRECTED m)
  let s := pcCounts (setPc s i { pcRun s i with ce := (pcRun s i).ce ++ [s.now] }) i
  .next (if rd s (Reg.HBM.HBM_CFG.CE_LIMIT m) ≤ (pcRun s i).ce.length then pcFault s i 1 else s)

/-- HBM_INTERFACE_ERROR (R351): the pseudo-channel retrains; one that migrates stays MIGRATING meanwhile. -/
def execHbmInterfaceError (m : Fin 24) (k : Fin 64) (s : State) : Host.Outcome State Fault Refusal :=
  let i := 64 * m.val + k.val
  .next (
    if pcState s i = 0 then
      hbmRecord (setPcState (setPc (cnt s (Reg.HBM.HBM_COUNT.RETRAINS m)) i { pcRun s i with since := s.now }) i 1) i 8 2 0
    else if pcState s i = 2 then hbmRecord (cnt s (Reg.HBM.HBM_COUNT.RETRAINS m)) i 8 2 0
    else s)

/-- HBM_RETRAIN_DONE (R351): the retrain locks within 50 µs. -/
def execHbmRetrainDone (m : Fin 24) (k : Fin 64) (s : State) : Host.Outcome State Fault Refusal :=
  let i := 64 * m.val + k.val
  .next (if pcState s i = 1 ∧ s.now < (pcRun s i).since + us 50 then setPcState s i 0 else s)

/-- HBM_RETRAIN_FAIL (R351): no lock within 50 µs. -/
def execHbmRetrainFail (m : Fin 24) (k : Fin 64) (s : State) : Host.Outcome State Fault Refusal :=
  let i := 64 * m.val + k.val
  .next (if pcState s i = 1 ∧ (pcRun s i).since + us 50 ≤ s.now then pcFault s i 3 else s)

/-- Offset of PC_STATUS of a pseudo-channel. -/
def pcAddr (m k : Nat) : Nat := 0x1000100 + m * 0x10000 + k * 8

/-- RETIRE of PC_STATUS written (R353, R354). -/
def pcRetire (s : State) (w : Writer) (m k : Nat) (acc : Nat × Nat := (pcAddr m k, 8)) : State :=
  if pcState s (64 * m + k) = 0 then pcFault s (64 * m + k) 4 else regError s w acc.1 acc.2 true 7

/-- PC_RETIRE (R353). -/
def execPcRetire (w : Writer) (m : Fin 24) (k : Fin 64) (s : State) : Host.Outcome State Fault Refusal := .next (pcRetire s w m k)

/-- PC_MIGRATION_DONE (R353): every unit has been copied. -/
def execPcMigrationDone (m : Fin 24) (k : Fin 64) (s : State) : Host.Outcome State Fault Refusal :=
  let i := 64 * m.val + k.val
  .next (if pcState s i = 2 then pcNext (retiredPcs (setPcState s i 3) m) (s.mem.queue.length + 1) else s)

/-- REINSTATE of PC_STATUS written (R354): a pattern test begins. -/
def pcReinstate (s : State) (w : Writer) (m k : Nat) (acc : Nat × Nat := (pcAddr m k, 8)) : State :=
  let i := 64 * m + k
  if pcState s i = 3 then (if (pcRun s i).test then s else setPc s i { pcRun s i with test := true, since := s.now })
  else regError s w acc.1 acc.2 true 7

/-- PC_REINSTATE (R354). -/
def execPcReinstate (w : Writer) (m : Fin 24) (k : Fin 64) (s : State) : Host.Outcome State Fault Refusal := .next (pcReinstate s w m k)

/-- PC_TEST_DONE (R354): the units return and the donors with them, or the pseudo-channel stays RETIRED. -/
def execPcTestDone (m : Fin 24) (k : Fin 64) (pass : Bool) (s : State) : Host.Outcome State Fault Refusal :=
  let i := 64 * m.val + k.val
  let a := rd s (Reg.HBM.PC_STATUS.DONOR_A m k)
  let b := rd s (Reg.HBM.PC_STATUS.DONOR_B m k)
  .next (
    if !(pcRun s i).test then s
    else
      let s := setPc s i { pcRun s i with test := false }
      if pass then
        let s := wrs s [(Reg.HBM.PC_STATUS.DONOR_A m k, 0x7FF), (Reg.HBM.PC_STATUS.DONOR_B m k, 0x7FF)]
        hbmRecord (reserveLeft (retiredPcs (setPcState s i 0) m)) i 9 0 (packBits [(0, 11, a), (11, 11, b)])
      else hbmRecord (wr s (Reg.HBM.PC_STATUS.LAST_FAULT m k) 5) i 5 3 (packBits [(0, 11, a), (11, 11, b)]))

/-! ### Step abort (R355) -/

/-- The STEP_CTL broadcast of an abort (R70, R355). -/
def stepBroadcast (s : State) (tenant epoch : Nat) : State :=
  inject s 228 (mkPacket s
    { dest := 0xFFF, src := BitVec.ofNat 12 (serviceId s), tenant := BitVec.ofNat 12 tenant, kind := Kind.stepCtl.code,
      ext := mkExt [(0, 8, epoch)] })

/-- QUEUED brought up to date. -/
def stepStatus (s : State) : State := wr s Reg.GLOBAL.STEP_STATUS.QUEUED s.err.steps.length

/-- A write of STEP_CMD (R355). -/
def stepCmd (s : State) (w : Writer) (tenant epoch : Nat) : State :=
  if !w.privileged then regError s w 0x8100 4 true 5
  else if 64 ≤ s.err.steps.length then wr s Reg.GLOBAL.STEP_STATUS.OVERRUN 1
  else
    let s := stepStatus { s with err := { s.err with steps := s.err.steps ++ [(tenant, epoch, 1, tickNo s)] } }
    report (stepBroadcast s tenant epoch) 467 0x0B 1 0 tenant epoch

/-- STEP_CMD (R355). -/
def execStepCmd (w : Writer) (tenant : BitVec 12) (epoch : BitVec 8) (s : State) : Host.Outcome State Fault Refusal :=
  .next (stepCmd s w tenant.toNat epoch.toNat)

/-- The abort `e` has a broadcast due: 16, 32 and 48 ticks after its write. -/
def stepDue (s : State) (e : Nat × Nat × Nat × Nat) : Bool := decide (e.2.2.2 + 16 * e.2.2.1 ≤ tickNo s)

/-- STEP_REBROADCAST (R355): the first abort with a broadcast due sends it, and leaves the queue after its last one. -/
def execStepRebroadcast (s : State) : Host.Outcome State Fault Refusal :=
  .next (match s.err.steps.find? (stepDue s) with
    | none => s
    | some e =>
      let e' := (e.1, e.2.1, e.2.2.1 + 1, e.2.2.2)
      let l := if e.2.2.1 = 3 then s.err.steps.erase e else s.err.steps.replace e e'
      stepBroadcast (stepStatus { s with err := { s.err with steps := l } }) e.1 e.2.1)

/-! ### Die-to-die links (R19, R349) -/

/-- A D2D record (R360). -/
def d2dRecord (s : State) (die cause outcome attempts : Nat) : State := report s 466 0x08 cause outcome die attempts

/-- D2D_ERROR (R349): the link retrains while its ports are held. -/
def execD2dError (die : Fin 9) (s : State) : Host.Outcome State Fault Refusal :=
  .next (if dieHeld s die then s
    else d2dRecord { s with sw := { s.sw with d2d := setKey s.sw.d2d die (1, s.now) } } die 1 2 1)

/-- A die link is lost (R19): its 16 PORTs, or both HOSTPORTs, take a permanent fault. -/
def dieLost (s : State) (die : Nat) : State :=
  if die < 8 then (List.range 16).foldl (fun s j => permanentFault s (16 * die + j)) s
  else [fHost 0, fHost 1].foldl (fun s n => if fnState s n < 5 then retireFn s n true else s) s

/-- D2D_RETRAIN_END (R349): an attempt locks within 1 ms, or fails after it; the third failure loses the link. -/
def execD2dRetrainEnd (die : Fin 9) (ok : Bool) (s : State) : Host.Outcome State Fault Refusal :=
  .next (match findKey s.sw.d2d die with
    | none => s
    | some (n, t) =>
      if ok then (if s.now < t + ms 1 then { s with sw := { s.sw with d2d := delKey s.sw.d2d die } } else s)
      else if s.now < t + ms 1 then s
      else if n < 3 then { s with sw := { s.sw with d2d := setKey s.sw.d2d die (n + 1, s.now) } }
      else dieLost (d2dRecord { s with sw := { s.sw with d2d := delKey s.sw.d2d die } } die 2 5 3) die)

end Sys2Proof.Machine
end

