-- ==== Sys2Proof/Machine/HostMem.lean ====
section
/-!
DEFINITION. Machine/HostMem.lean: host translations (R281, R282), the reads of descriptors, segment tables and LADDR data (R246,
R277, R321 to R323), segment invalidation (R280) and fabric windows (R303, R304).
-/
namespace Sys2Proof.Machine
open Sys2Proof

/-! ### Refused translations (R281) -/

/-- A ring or segment table that the end-point cannot read or write: the context is disabled and an error record is raised. -/
def ringFault (s : State) (c : Nat) : State :=
  if ctxOn s c then
    ctxDisable (report s (fHost (ctxEp s c)) 0x0E 4 0 (ctxEp s c + 2 * ctxFunc s c) c) c
  else s

/-- DEST of a descriptor in its STEP_FAULT event (R252): the service ID, or the end-point that RADDR translates to; a free value where no held
table gives one (log entry 62). -/
def descDest (s : State) (d : Desc) : Nat :=
  if d.op = 7 ∨ d.op = 8 then serviceId s
  else match segFor ((segTable s d.ctx).getD []) d.raddr with | some g => segFpa g d.raddr / 2 ^ 48 | none => peekFree s % 4096

/-- The outbound work of a descriptor ends with a CCODE and DETAIL before any packet of it; a code of R82 is a step fault (R274). -/
def failDesc (s : State) (i cc detail : Nat) : State :=
  match descOf s i with
  | some d =>
    let s := setDesc s { d.fail 0 cc detail with issued := true, live := 0 }
    if ccStepFault cc then stepFault (takeFree s) d.ctx cc d.cookie (descDest s d) else s
  | none => s

/-- LADDR data of a descriptor is not to be had: it completes with a CCODE; a contribution of it is withdrawn. -/
def failData (s : State) (i cc detail : Nat) : State :=
  let s := failDesc s i cc detail
  let c := match descOf s i with | some d => d.ctx | none => 4096
  advanceAll (startContribs { s with ep := { s.ep with contribs := s.ep.contribs.filter (fun x => x.did != i) } }) c

/-- An access ends without data (R281): refused translation, or a read that the host answered with an error. -/
def opRefused (s : State) (o : HostOp) (cc detail : Nat) : State :=
  let x := epPort o.ep
  match o.what with
  | .desc c _ _ => ringFault s c
  | .segs c => ringFault s c
  | .data i => failData s i cc detail
  | .target h => answer s x h cc detail 0
  | .seal h _ => sealNext (answer s x h cc detail 0) o.ep o.addr
  | .atomicOp h => answerAtomic s x h cc detail 0
  | .casRead h _ => answerAtomic s x h cc detail 0
  | .casTry h _ _ => answerAtomic s x h cc detail 0
  | .fire k p => ctrDenied s o.ep k p
  | .arrive p =>
    if oldEpoch s p.h then epOldEpoch s o.ep p.h
    else if p.h.k == some .signal then sigArrive s o.ep p true else answer s x p.h cc detail 0

/-- A failed translation counted. -/
def xlateFail (s : State) : State := cnt s Reg.EXTENT.ATS_COUNT.XLATE_FAILS

/-- A waiting access tried again after a translation: with the access it needs it goes on, else it is refused. -/
def atsOp (granted : Bool) (s : State) (o : HostOp) : State :=
  drainBehind (if granted then opGo s o else opRefused (xlateFail (hostDone s o.tag)) o ccDenied 3) o.ep

/-- A write that waited has been sent: the message that it held back goes out (R306), or the results that it completes are acknowledged (R219). -/
def writeSent (s : State) (w : DmaWait) : State :=
  if s.host.atsWait.any (fun x => x.ring == w.ring) then s
  else if w.ring < 4096 then (if (ctxRun s w.ring).owesMsg then eqMessage s w.ring else s)
  else settleResults s (w.ring - 4097)

/-- A result that cannot be written: its descriptor completes DENIED, and a contribution of it is withdrawn with what it still had to write
(R281). -/
def resultRefused (s : State) (i : Nat) : State :=
  match descOf s i with
  | none => s
  | some d =>
    let s := setDesc s (d.fail 0 ccDenied 3)
    if d.op ≠ 8 then s
    else
      let s := setDesc s { d.fail 0 ccDenied 3 with live := 0 }
      startContribs { s with ep := { s.ep with contribs := s.ep.contribs.filter (fun x => x.did != i) },
                             host := { s.host with atsWait := s.host.atsWait.filter (fun w => w.ring != 4097 + i) } }

/-- A waiting write sent through its translation, or refused. -/
def atsWrite (granted : Bool) (s : State) (w : DmaWait) : State :=
  if !s.host.atsWait.contains w then s
  else
    let s := { s with host := { s.host with atsWait := s.host.atsWait.erase w } }
    if granted then writeSent (dmaWrite s w.ep w.func w.addr w.data w.ring w.ro) w
    else if w.ring < 4096 then ringFault (xlateFail s) w.ring
    else if w.ring = 4096 then xlateFail s
    else resultRefused (xlateFail s) (w.ring - 4097)

/-- The address lies in the translated range. -/
def inXlate (va size a : Nat) : Bool := decide (va ≤ a) && decide (a < va + size)

/-- A translation entered in the address translation cache of 8,192 entries, the oldest leaving first (R281). -/
def atcPut (s : State) (t : Atc) : State :=
  let rest := s.host.atc.filter (fun x => !(x.ep == t.ep && x.func == t.func && x.va == t.va))
  let mine := rest.filter (fun x => x.ep == t.ep)
  let rest := if mine.length < 8192 then rest else match mine.head? with | some old => rest.erase old | none => rest
  { s with host := { s.host with atc := rest ++ [t] } }

/-- A translation taken: cached, and used by every access and write, of the error log ring too, that waited for it. -/
def translated (s : State) (e f va size pa : Nat) (r wr : Bool) : State :=
  let lacks := fun (r : Except Nat (List (Nat × Nat × Nat))) => match r with | .error a => inXlate va size a | .ok _ => false
  let ops := s.host.ops.filter (fun o => o.ep == e && o.func == f && o.st == 0 && lacks (opRuns s o))
  let ws := s.host.atsWait.filter (fun w => w.ep == e && w.func == f && lacks (localRuns s e f w.addr w.data.length true false))
  let ring := e == mgrPort s && f == 0 && !s.err.ringWait.isEmpty && lacks (localRuns s e 0 (ringAddr s) 64 true false)
  let s := if r || wr then atcPut s { ep := e, func := f, va := va, size := size, pa := pa, r := r, w := wr } else s
  let s := ops.foldl (fun s o => atsOp ((!o.what.writes || wr) && (!o.what.reads || r)) s o) s
  let s := ws.foldl (atsWrite wr) s
  hostNext (if !ring then s else if wr then ringDrain s (s.err.ringWait.length + 1) else ringLose (xlateFail s)) e

/-- A translation size of R281: a power of two from 4 KiB to 1 GiB, aligned to itself. -/
def xlateSize (va size pa : Nat) : Bool := (List.range 19).any (fun k => size == 2 ^ (12 + k)) && va % size == 0 && pa % size == 0

/-- ATS_TRANSLATION_COMPLETE (R281): the translation is cached, and every access and write that waited for it goes on with the access that it
grants. A translation of another size is not one that the end-point takes (DEDUCED, log entry 62). -/
def execAtsTranslationComplete (port : Fin 2) (func : BitVec 8) (va size pa : Nat) (r wr : Bool) (s : State) : Host.Outcome State Fault Refusal :=
  .next (if xlateSize va size pa then translated s port.val func.toNat va size pa r wr else s)

/-- ATS_INVALIDATE (R282): covered entries leave the cache; the completion follows the reads issued with them. -/
def execAtsInvalidate (port : Fin 2) (func : BitVec 8) (tag va size : Nat) (s : State) : Host.Outcome State Fault Refusal :=
  let e := port.val
  let f := func.toNat
  let hit := fun a n => decide (a < va + size) && decide (va < a + n)
  let s := { s with host := { s.host with atc := s.host.atc.filter (fun t => !(t.ep == e && t.func == f && hit t.va t.size)) } }
  let l := (s.host.ops.filter (fun o => o.ep == e && o.func == f && o.st == 2 && hit o.addr (max 1 o.span))).map (fun o => o.tag)
  .next (if l.isEmpty then cnt (emitOut s (.atsDone e f tag)) Reg.EXTENT.ATS_COUNT.INVALIDATIONS
    else { s with host := { s.host with atsInv := s.host.atsInv ++ [(e, f, tag, l)] } })

/-! ### What a read brings (R246, R277, R321 to R323) -/

/-- The ordinary additional data of a host record: its counter bytes, then context, queue and type (R321). -/
def recordAad (counter c : Nat) (q : List Byte) (type : Nat) : List Byte := leBytes 8 counter ++ leBytes 2 c ++ q ++ leBytes 1 type

/-- A confidential descriptor record opened (R321): the 64 B and its RC; accepted only with an RC above the last of its ring. -/
def confDesc (s : State) (c q : Nat) (data : List Byte) : Option Nat :=
  let rc := ofLeBytes (sliceBytes data 80 8)
  let k := ctxKey s c
  let fresh := match findKey (confOf s k).rc (4 * c + q) with | some l => decide (l < rc) | none => true
  if fresh && decide (rc < 2 ^ 38) then
    (confOpen s k (rc * 2 ^ 24) (recordAad rc c (leBytes 1 q) 1) (sliceBytes data 0 64) (ofLeBytes (sliceBytes data 64 16))).map ofLeBytes
  else none

/-- A descriptor that has been read, with its record counter. -/
def putFetched (s : State) (c q i d rc : Nat) : State :=
  { s with ep := { s.ep with fetched := setKey s.ep.fetched (descKey c q i) (d % 2 ^ 512, rc) } }

/-- The descriptor at index `i` of a queue has arrived (R246, R321): one that fails authentication keeps its place with an
unknown COOKIE and completes DENIED with DETAIL 5. -/
def descArrive (s : State) (c q i : Nat) (data : List Byte) : State :=
  let k := ctxKey s c
  if !confOn s k then putFetched s c q i (ofLeBytes (padTo 64 data)) 0
  else
    let rc := ofLeBytes (sliceBytes data 80 8)
    match confDesc s c q data with
    | some d => putFetched (setConf s k { confOf s k with rc := setKey (confOf s k).rc (4 * c + q) rc }) c q i d rc
    | none =>
      let f := freeNat s
      putFetched (confFail f.2 k c) c q i ((f.1 % 2 ^ 64) * 2 ^ 64) (2 ^ 63 + rc % 2 ^ 63)

/-- The 16 entries of a segment table (R277). -/
def segEntries (data : List Byte) : List Nat := (List.range 16).map (fun i => ofLeBytes (sliceBytes data (32 * i) 32))

/-- A confidential segment table opened (R321): accepted with a version not below the last accepted. -/
def confSegs (s : State) (c : Nat) (data : List Byte) : Option (List Byte) :=
  let v := ofLeBytes (sliceBytes data 528 8)
  let k := ctxKey s c
  let fresh := match findKey (confOf s k).seg c with | some l => decide (l ≤ v) | none => true
  if fresh && decide (v < 2 ^ 40) then
    confOpen s k (2 ^ 62 + c * 2 ^ 40 + v) (recordAad v c [] 4) (sliceBytes data 0 512) (ofLeBytes (sliceBytes data 512 16))
  else none

/-- The segment table of context `c` has arrived: waiting pieces are translated; where it fails authentication they complete
DENIED with DETAIL 5 (R323). -/
def segsArrive (s : State) (c : Nat) (data : List Byte) : State :=
  let k := ctxKey s c
  if !confOn s k then repeatReads (advanceAll (segPut s c (segEntries data)) c) c
  else
    match confSegs s c data with
    | some t =>
      let s := setConf s k { confOf s k with seg := setKey (confOf s k).seg c (ofLeBytes (sliceBytes data 528 8)) }
      repeatReads (advanceAll (segPut s c (segEntries t)) c) c
    | none =>
      let l := s.ep.descs.filter (fun d => d.ctx == c && !d.issued && needsTable d && !(decide (0 < dataLen d) && d.data.isNone))
      let s := (s.ep.reqs.filter (fun r => r.ctx == c && r.st == 6)).foldl (fun s r => finishReq s r ccDenied 5 0 0) (confFail s k c)
      advanceAll (l.foldl (fun s d => failDesc s d.id ccDenied 5) s) c

/-- Plaintext bytes of the LADDR buffer that a descriptor reads. -/
def bufferLen (s : State) (d : Desc) : Nat := if d.op = 8 then swBytes s (d.f 320 8) else dataLen d

/-- The chunks of a confidential buffer opened (R322). -/
def confData (s : State) (d : Desc) (n : Nat) (data : List Byte) : Option (List Byte) :=
  ((List.range ((n + 2047) / 2048)).mapM (fun i =>
    let nn := d.rc * 2 ^ 24 + (1 + i)
    confOpen s (ctxKey s d.ctx) nn (leBytes 8 nn) (sliceBytes data (2048 * i) (chunkLen n i)) (ofLeBytes (sliceBytes data (confTagAddr 0 n i) 16)))).map
      List.flatten

/-- LADDR data of descriptor `i` has arrived (R322, R323). -/
def dataArrive (s : State) (i : Nat) (data : List Byte) : State :=
  match descOf s i with
  | none => s
  | some d =>
    let n := bufferLen s d
    let k := ctxKey s d.ctx
    match (if confOn s k then confData s d n data else some (padTo n data)) with
    | some pt => advanceAll (startContribs (setDesc s { d with data := some pt })) d.ctx
    | none => failData (confFail s k d.ctx) i ccDenied 5

/-- PCIE_READ_COMPLETION (R281): status 0 Successful Completion, another an error of the host. -/
def execPcieReadCompletion (tag status : Nat) (data : List Byte) (s : State) : Host.Outcome State Fault Refusal :=
  .next (match s.host.ops.find? (fun o => o.tag == tag && o.st == 2 && o.what.brings) with
    | none => s
    | some o =>
      let t := hostDone s tag
      let t := if o.dead then t
        else if status ≠ 0 then opRefused t o ccPoison 0
        else match o.what with
          | .desc c q i => qosStatus (fenceFlush (descArrive t c q i data) c q) o.ep
          | .segs c => segsArrive t c data
          | .data i => dataArrive t i data
          | _ => t
      atsDrain (hostNext t o.ep) tag)

/-! ### Segment invalidation (R280) -/

/-- A cached entry overlaps the range of SEG_INVAL_RANGE. One that maps nothing says of no range that it leaves it unmapped, and counts for every
one (DEDUCED, log entry 62). -/
def segHit (s : State) (all : Bool) (g : Nat) : Bool :=
  let lo := rd s Reg.EXTENT.SEG_INVAL_RANGE.FVA_GRAN
  all || !segValid g || (decide (bits g 64 36 < lo + rd s Reg.EXTENT.SEG_INVAL_RANGE.NGRAN) && decide (lo < bits g 64 36 + bits g 128 28))

/-- Steps 2 and 3 of R280: cached entries dropped, and the near-cache lines whose FPA lay in them. -/
def segDrop (s : State) (c : Nat) (all : Bool) : State :=
  let old := (findKey s.ep.segs c).getD []
  let gone := old.filterMap (fun e => match e with | some g => if segHit s all g then some g else none | none => none)
  let kept := old.map (fun e => match e with | some g => if segHit s all g then none else some g | none => none)
  let s := if old.isEmpty then s else { s with ep := { s.ep with segs := s.ep.segs.map (fun x => if x.1 = c then (c, kept) else x) } }
  nearDrop s (fun e x g => e == ctxEp s c && x == c &&
    gone.any (fun t => decide (bits t 192 39 * 2 ^ 21 ≤ g * 64) && decide (g * 64 < (bits t 192 39 + bits t 128 28) * 2 ^ 21)))

/-- Requests of context `c` translated and not yet sent, whose descriptors can translate them again (step 5). -/
def unsentOf (s : State) (c : Nat) : List Reqst :=
  s.ep.reqs.filter (fun r => r.ctx == c && r.waits && r.attempts == 0 && !r.again && r.h.k != some .gather)

/-- One unsent request handed back to its descriptors; a packet of a signalled message no longer counts in it, and its SIGNAL is made anew: the
credit stays with its message (R263). -/
def untranslate (s : State) (r : Reqst) : State :=
  let did := match r.parts.head? with | some p => p.1 | none => r.id
  let s := { s with ep := { s.ep with reqs := s.ep.reqs.filter (fun x => x.id != r.id),
                                      credits := s.ep.credits.map (fun c => if c.busy == some r.id then { c with busy := some did } else c) } }
  r.parts.foldl (fun s p =>
    match descOf s p.1 with
    | some d =>
      let d := { d with issued := false, live := d.live - 1 }
      if r.h.k == some .signal then setDesc s d
      else setDesc s { d with todo := d.todo ++ [(p.2.1, p.2.2.1)], msg := d.msg.map (fun m => (m.1, m.2.1, m.2.2 - 1)) }
    | none => s) s

/-- Reads of the segment table of context `c` under way are not used: the table is read anew. -/
def dropTableReads (s : State) (c : Nat) : State :=
  let l := s.host.ops.filter (fun o => !(o.what == .segs c && o.st != 2))
  { s with host := { s.host with ops := l.map (fun o => if o.what == .segs c then { o with dead := true } else o) } }

/-- The VF that writes through its slice. -/
def sliceOf : Writer → Option (Nat × Nat)
  | .host p f => if f = 0 then none else some (p, f)
  | _ => none

/-- The context that a SEG_INVAL_CMD names: a slot number in a VF slice (R302). -/
def invalCtx (s : State) (w : Writer) (c : Nat) : Option Nat :=
  match sliceOf w with
  | none => some c
  | some (p, f) =>
    if c < 64 && rdb s (Reg.HOSTPORT.VF_CTX_MAP.VALID p f c) then
      let x := rd s (Reg.HOSTPORT.VF_CTX_MAP.CTX p f c)
      if ctxEp s x = p ∧ ctxFunc s x = f then some x else none
    else none

/-- DONE_SEQ and OVERRUN of a slice. -/
def sliceGet (s : State) (p f : Nat) : Nat := (findKey s.host.sliceInval (256 * p + f)).getD 0
/-- They are set. -/
def sliceSet (s : State) (p f v : Nat) : State := { s with host := { s.host with sliceInval := putKey s.host.sliceInval (256 * p + f) 0 v } }

/-- A SEG_INVAL_CMD written while the engine is BUSY (R280, R302). -/
def invalBusy (s : State) (w : Writer) (acc : Nat × Nat := (0xA00108, 4)) : State :=
  match sliceOf w with
  | some (p, f) => sliceSet s p f (sliceGet s p f % 256 + 256)
  | none => regError (wr s Reg.EXTENT.SEG_INVAL_STATUS.OVERRUN 1) w acc.1 acc.2 true 6

/-- A segment invalidation begins (R280): no packet translated before it stays unsent, so that all eight engines acknowledge (step 5). -/
def segInval (s : State) (w : Writer) (c : Nat) (all : Bool) (seq : Nat) (acc : Nat × Nat := (0xA00108, 4)) : State :=
  if rdb s Reg.EXTENT.SEG_INVAL_STATUS.BUSY then invalBusy s w acc
  else
    match invalCtx s w c with
    | none => s
    | some c =>
      let s := wrs s [(Reg.EXTENT.SEG_INVAL_STATUS.BUSY, 1), (Reg.EXTENT.SEG_INVAL_STATUS.ENGINE_ACKS, 0)]
      let who := match sliceOf w with | some (p, f) => 256 * p + f | none => 512
      let s := { s with ep := { s.ep with inval := some (c, seq, who) } }
      let s := mergeFlush (segDrop (dropTableReads s c) c all) (fun m => m.ctx == c)
      wr (repeatReads (advanceAll ((unsentOf s c).foldl untranslate s) c) c) Reg.EXTENT.SEG_INVAL_STATUS.ENGINE_ACKS 0xFF

/-- SEG_INVAL_CMD (R280). -/
def execSegInvalCmd (w : Writer) (c : BitVec 12) (all : Bool) (seq : BitVec 8) (s : State) : Host.Outcome State Fault Refusal :=
  .next (segInval s w c.toNat all seq.toNat)

/-- SEG_INVAL_DONE (R280): all eight engines have acknowledged. -/
def execSegInvalDone (s : State) : Host.Outcome State Fault Refusal :=
  .next (match s.ep.inval with
    | some (_, seq, who) =>
      if rd s Reg.EXTENT.SEG_INVAL_STATUS.ENGINE_ACKS ≠ 0xFF then s
      else
        let s := { s with ep := { s.ep with inval := none } }
        let s := wrs s [(Reg.EXTENT.SEG_INVAL_STATUS.BUSY, 0), (Reg.EXTENT.SEG_INVAL_STATUS.DONE_SEQ, seq)]
        if who < 512 then sliceSet s (who / 256) (who % 256) (sliceGet s (who / 256) (who % 256) / 256 * 256 + seq) else s
    | none => s)

/-! ### Fabric windows (R303, R304) -/

/-- A window register: WIN[p][k] of a PF, VF_WIN[p][v] of a VF. -/
structure Window where
  valid : Bool
  ctx : Nat
  vol : Bool
  acq : Bool
  nc : Bool
  comb : Bool
  tc : Nat
  base : Nat
deriving DecidableEq, Repr

/-- The window of function `f` of port `p` that an access uses. -/
def windowOf (s : State) (p f k : Nat) : Window :=
  if f = 0 then
    ⟨rdb s (Reg.HOSTPORT.WIN.VALID p k), rd s (Reg.HOSTPORT.WIN.CTX p k), rdb s (Reg.HOSTPORT.WIN.VOL p k), rdb s (Reg.HOSTPORT.WIN.ACQ p k),
     rdb s (Reg.HOSTPORT.WIN.NC p k), rdb s (Reg.HOSTPORT.WIN.COMB p k), rd s (Reg.HOSTPORT.WIN.TC p k), rd s (Reg.HOSTPORT.WIN.FVA_4G p k)⟩
  else
    ⟨rdb s (Reg.HOSTPORT.VF_WIN.VALID p f), rd s (Reg.HOSTPORT.VF_WIN.CTX p f), rdb s (Reg.HOSTPORT.VF_WIN.VOL p f), rdb s (Reg.HOSTPORT.VF_WIN.ACQ p f),
     rdb s (Reg.HOSTPORT.VF_WIN.NC p f), rdb s (Reg.HOSTPORT.VF_WIN.COMB p f), rd s (Reg.HOSTPORT.VF_WIN.TC p f), rd s (Reg.HOSTPORT.VF_WIN.FVA_4G p f)⟩

/-- Step 4 of R303, and step 1 of R312: the access is mapped. -/
def windowOpen (s : State) (p f : Nat) (w : Window) : Bool :=
  w.valid && ctxOn s w.ctx && !(ctxRun s w.ctx).shut && ctxEp s w.ctx == p && ctxFunc s w.ctx == f && !confOn s (256 * p + f) && !inFlr s p f

/-- The function has window `k`: a PF has 16, a VF one (R300). -/
def hasWindow (f k : Nat) : Bool := f == 0 || k == 0

/-- The access as the work of its context: a READ or WRITE of `n` bytes at its FVA, in the window stream (R303). -/
def windowDesc (s : State) (p : Nat) (w : Window) (op off n : Nat) (data : Option (List Byte)) : Desc :=
  { id := s.ep.nextId, ep := p, ctx := w.ctx, q := 4, idx := 0, rc := 0,
    d := packBits [(0, 8, op), (10, 1, b2n (w.vol && op == 1)), (11, 1, b2n (w.acq && w.vol && op == 1)), (12, 1, b2n (w.comb && op == 1)),
      (13, 1, b2n w.nc), (25, 3, w.tc), (32, 32, n), (192, 57, w.base * 2 ^ 32 + off)],
    issued := false, todo := [], data := data, live := 0, bad := none, result := 0, result2 := 0, moved := 0, chunks := [] }

/-- A window access begins. -/
def windowStart (s : State) (d : Desc) : State :=
  tryIssue { s with ep := { s.ep with nextId := s.ep.nextId + 1, descs := s.ep.descs ++ [d] } } d.id

/-- An unmapped access counted (R303). -/
def unmapped (s : State) (p : Nat) : State := cnt s (Reg.HOSTPORT.HP_COUNT.WIN_UNMAPPED p)

/-- WINDOW_STORE (R303); beyond the windows of the function no BAR of it is addressed (R300). -/
def execWindowStore (port : Fin 2) (func : BitVec 8) (k : Fin 16) (off : BitVec 32) (data : List Byte) (s : State) : Host.Outcome State Fault Refusal :=
  let w := windowOf s port.val func.toNat k.val
  .next (if !hasWindow func.toNat k.val then s
    else if !windowOpen s port.val func.toNat w then unmapped s port.val
    else windowStart s (windowDesc s port.val w 2 off.toNat data.length (some data)))

/-- WINDOW_LOAD (R303): an unmapped load is answered with all ones. -/
def execWindowLoad (port : Fin 2) (func : BitVec 8) (k : Fin 16) (off : BitVec 32) (len tag : Nat) (s : State) : Host.Outcome State Fault Refusal :=
  let w := windowOf s port.val func.toNat k.val
  .next (if !hasWindow func.toNat k.val then s
    else if !windowOpen s port.val func.toNat w then
      emitOut (unmapped s port.val) (.loadReply port.val func.toNat tag (List.replicate len 0xFF))
    else
      let d := windowDesc s port.val w 1 off.toNat len none
      let l : WinLoad := { port := port.val, func := func.toNat, tag := tag, len := len, at_ := s.now }
      windowStart { s with host := { s.host with loads := setKey s.host.loads d.id l } } d)

/-- WINDOW_READ_TIMEOUT (R304): all ones after WIN_READ_MS; the request goes on and its response is discarded. -/
def execWindowReadTimeout (id : Nat) (s : State) : Host.Outcome State Fault Refusal :=
  .next (match findKey s.host.loads id with
    | some l =>
      if l.at_ + ms (rd s (Reg.HOSTPORT.PORT_CFG.WIN_READ_MS l.port)) ≤ s.now then
        emitOut (cnt { s with host := { s.host with loads := delKey s.host.loads id } } (Reg.HOSTPORT.HP_COUNT.WIN_READS_ABANDONED l.port))
          (.loadReply l.port l.func l.tag (List.replicate l.len 0xFF))
      else s
    | none => s)

end Sys2Proof.Machine
end

