-- ==== Sys2Proof/Machine/HostPorts.lean ====
section
/-!
DEFINITION. Machine/HostPorts.lean: the manager role (R309 to R311), the PCIe links of the host ports (R315, R349), confidential
mode (R319, R320) and configuration requests (R299, R419).
-/
namespace Sys2Proof.Machine
open Sys2Proof

/-! ### The manager role (R310) -/

/-- Why port `p` is not ready to take the manager role: a HANDOVER_RESULT code, or none where it is ready. -/
def notReady (s : State) (p : Nat) : Option Nat :=
  if !rdb s (Reg.HOSTPORT.LINK_STATUS.LINK_UP p) then some 2
  else if s.host.d3.contains (256 * p) || !s.host.memEn.contains (256 * p) || !s.host.busEn.contains (256 * p) then some 3
  else if inFlr s 0 0 || inFlr s 1 0 then some 4
  else none

/-- The manager port counts toward the automatic trigger from now on, where its link is down or its PERST is asserted. -/
def mgrWatch (s : State) : State :=
  let p := mgrPort s
  let down := !rdb s (Reg.HOSTPORT.LINK_STATUS.LINK_UP p) || rdb s (Reg.HOSTPORT.LINK_STATUS.PERST p)
  { s with host := { s.host with mgrDown := if down then some (s.host.mgrDown.getD s.now) else none } }

/-- The role moves to port `p` (R310): views and event routing follow MGR_PORT, and the error log ring is disabled. -/
def handoverTo (s : State) (p : Nat) : State :=
  let s := wrs (ringLose s) [(Reg.HOSTPORT.MGR_CTL.MGR_PORT, p), (Reg.GLOBAL.ERR_RING_CFG.ENABLE, 0), (Reg.GLOBAL.ERR_RING_STATUS.HANDOVER_DISABLED, 1), (Reg.HOSTPORT.MGR_CTL.CHANGED, 1),
    (Reg.HOSTPORT.MGR_CTL.HANDOVER_RESULT, 1), (Reg.HOSTPORT.MGR_CTL.HANDOVER, 0)]
  report (mgrWatch { s with host := { s.host with mgrDown := none } }) (fHost p) 0x0E 6 0 p 0

/-- A HANDOVER write (R310). -/
def handover (s : State) : State :=
  let p := 1 - mgrPort s
  match notReady s p with
  | some r => wr s Reg.HOSTPORT.MGR_CTL.HANDOVER_RESULT r
  | none => handoverTo s p

/-- A HANDOVER write by a writer: the manager function or the fabric manager. -/
def handoverWrite (s : State) (w : Writer) : State := match w with | .manager | .fabric => handover s | _ => s

/-- HANDOVER (R310). -/
def execHandover (w : Writer) (s : State) : Host.Outcome State Fault Refusal := .next (handoverWrite s w)

/-- HANDOVER_AUTO (R310): after AUTO_MS without a break, once the target is ready. -/
def execHandoverAuto (s : State) : Host.Outcome State Fault Refusal :=
  .next (match s.host.mgrDown with
    | some t =>
      if rdb s Reg.HOSTPORT.MGR_CTL.AUTO_EN && decide (t + ms (rd s Reg.HOSTPORT.MGR_CTL.AUTO_MS) ≤ s.now) && (notReady s (1 - mgrPort s)).isNone then
        handoverTo s (1 - mgrPort s)
      else s
    | none => s)

/-! ### Links of the host ports (R315, R349, R417) -/

/-- Key of an AER status word. -/
def aerKey (p f : Nat) (uncorrectable : Bool) : Nat := 2 * (256 * p + f) + b2n uncorrectable

/-- The PCIe core of a port is reset (R416): the configuration space and the MSI-X state of its functions beyond what their reset clears, and its
crossing queue waits for its handshake (R415). -/
def coreReset (s : State) (p : Nat) : State :=
  { s with
    host := { s.host with
      ari := s.host.ari.erase p, aer := s.host.aer.filter (fun x => x.1 / 512 != p), msixTab := s.host.msixTab.filter (fun x => x.1 / 2 ^ 22 != p),
      msixPend := s.host.msixPend.filter (fun k => k / 2 ^ 20 != p) },
    pw := { s.pw with cdc := if s.pw.cdc.contains (8 + p) then s.pw.cdc else (8 + p) :: s.pw.cdc } }

/-- The PCIe link of a port is down: its core and its functions are reset (R315, R416). -/
def hostDown (s : State) (p : Nat) (perst : Bool) : State :=
  let up := rdb s (Reg.HOSTPORT.LINK_STATUS.LINK_UP p)
  let s := if up then cnt s (Reg.HOSTPORT.LINK_STATUS.LINK_DOWNS p) else s
  let s := wrs s [(Reg.HOSTPORT.LINK_STATUS.LINK_UP p, 0), (Reg.HOSTPORT.LINK_STATUS.RATE p, 0), (Reg.HOSTPORT.LINK_STATUS.WIDTH p, 0),
    (Reg.HOSTPORT.LINK_STATUS.FLIT p, 0)]
  let s := if perst then wr s (Reg.HOSTPORT.LINK_STATUS.PERST p) 1 else s
  let s := if up then report s (fHost p) 0x0E 5 2 p 0 else s
  mgrWatch (coreReset (flrBegin s p 0) p)

/-- PERST_ASSERT (R315); during a warm reset it has no further effect but that the port trains after both have ended (R417). -/
def execPerstAssert (port : Fin 2) (s : State) : Host.Outcome State Fault Refusal :=
  .next (if s.fw.phase = 0 then wr s (Reg.HOSTPORT.LINK_STATUS.PERST port.val) 1 else hostDown s port.val true)
/-- HOST_LINK_DOWN (R315). -/
def execHostLinkDown (port : Fin 2) (s : State) : Host.Outcome State Fault Refusal := .next (hostDown s port.val false)

/-- A width and mode at which a PCIe link can be (R298): x1 to x16, and Flit mode at 64 GT/s. -/
def hostLinkOk (rate width : Nat) (flit : Bool) : Bool := [1, 2, 4, 8, 16].contains width && (flit || decide (rate < 5))

/-- HOST_LINK_UP (R298, R310): the link trains after PERST has risen and no warm reset holds it (R417), nor has
its clock stopped (R407). -/
def execHostLinkUp (port : Fin 2) (rate : Fin 6) (width : BitVec 5) (flit : Bool) (s : State) : Host.Outcome State Fault Refusal :=
  let p := port.val
  .next (if hostLinkOk rate.val width.toNat flit && s.fw.phase != 0 && !s.pw.tripped then
      mgrWatch (wrs s [(Reg.HOSTPORT.LINK_STATUS.PERST p, 0), (Reg.HOSTPORT.LINK_STATUS.LINK_UP p, 1), (Reg.HOSTPORT.LINK_STATUS.RATE p, rate.val),
        (Reg.HOSTPORT.LINK_STATUS.WIDTH p, width.toNat), (Reg.HOSTPORT.LINK_STATUS.FLIT p, b2n flit)])
    else s)

/-- PCIE_AER_ERROR (R349, R360): the AER status of the function, and a HOST record. -/
def execPcieAerError (port : Fin 2) (func : BitVec 8) (uncorrectable : Bool) (status : BitVec 32) (s : State) : Host.Outcome State Fault Refusal :=
  let p := port.val
  let k := aerKey p func.toNat uncorrectable
  let s := { s with host := { s.host with aer := putKey s.host.aer k 0 ((findKey s.host.aer k).getD 0 ||| status.toNat) } }
  .next (report s (fHost p) 0x0E (if uncorrectable then 2 else 1) (if uncorrectable then 2 else 1) (p + 2 * func.toNat) status.toNat)

/-! ### Confidential mode (R319, R320) -/

/-- Management protocol number of the answers to Folrin vendor-defined SPDM requests. -/
def protoSpdmVendor : Nat := 1

/-- The answer to a vendor-defined request in the session of function `f` of port `p`: opcode, status and further words. -/
def confReply (s : State) (p f code status : Nat) (more : List Nat) : State := emitOut s (.mgmt protoSpdmVendor code ([p, f, status] ++ more) [])

/-- A descriptor of the function is in progress, or one of its submission rings is not empty (R319). -/
def funcBusy (s : State) (p f : Nat) : Bool :=
  (funcCtxs s p f).any (fun c => s.ep.descs.any (fun d => d.ctx == c && d.q != 4) ||
    (List.range 4).any (fun q => (ctxRun s c).head.getD q 0 != (ctxRun s c).tail.getD q 0))

/-- A vendor-defined request needs the session of its function. -/
def inSession (s : State) (p f : Nat) (g : List Byte → State) : State :=
  match findKey s.host.sessions (256 * p + f) with | some x => if procAway s 0 then s else g x | none => s

/-- CONF_START (R319): keys derived from the session's secret. -/
def execConfStart (port : Fin 2) (func : BitVec 8) (s : State) : Host.Outcome State Fault Refusal :=
  let p := port.val
  let f := func.toNat
  .next (inSession s p f (fun x =>
    if confOn s (256 * p + f) || !(funcCtxs s p f).isEmpty then confReply s p f 1 2 []
    else confReply (wr (setConf s (256 * p + f) { secret := x }) (Reg.HOSTPORT.FUNC_STATE.CONFIDENTIAL p f) 1) p f 1 0 []))

/-- CONF_REKEY (R320): S is replaced, and the counter checks of R321 restart. -/
def execConfRekey (port : Fin 2) (func : BitVec 8) (s : State) : Host.Outcome State Fault Refusal :=
  let p := port.val
  let f := func.toNat
  let k := 256 * p + f
  .next (inSession s p f (fun _ =>
    if !confOn s k then confReply s p f 2 2 []
    else if funcBusy s p f then confReply s p f 2 1 []
    else
      let c := confOf s k
      confReply (setConf s k { secret := Config.hkdfExpand 384 c.secret (ascii "vovis rekey") 48, events := c.events }) p f 2 0 []))

/-- CONF_END (R319). -/
def execConfEnd (port : Fin 2) (func : BitVec 8) (s : State) : Host.Outcome State Fault Refusal :=
  let p := port.val
  let f := func.toNat
  .next (inSession s p f (fun _ =>
    if !confOn s (256 * p + f) || !(funcCtxs s p f).isEmpty then confReply s p f 3 2 []
    else confReply (confErase s p f) p f 3 0 []))

/-- CONF_QUERY (R319): the state, the event counter and the last accepted counters. -/
def execConfQuery (port : Fin 2) (func : BitVec 8) (s : State) : Host.Outcome State Fault Refusal :=
  let p := port.val
  let f := func.toNat
  let c := confOf s (256 * p + f)
  .next (inSession s p f (fun _ =>
    confReply s p f 4 0 ([b2n (confOn s (256 * p + f)), c.events] ++ c.rc.flatMap (fun x => [x.1, x.2]) ++ c.seg.flatMap (fun x => [x.1, x.2]))))

/-- SPDM_SESSION_END (R319): as CONF_END while no context is ENABLE; otherwise the keys stay until the function's next reset. -/
def execSpdmSessionEnd (port : Fin 2) (func : BitVec 8) (s : State) : Host.Outcome State Fault Refusal :=
  let p := port.val
  let f := func.toNat
  let s := { s with host := { s.host with sessions := delKey s.host.sessions (256 * p + f) } }
  .next (if (funcCtxs s p f).isEmpty then confErase s p f else s)

/-! ### Configuration requests (R299, R419) -/

/-- `k` in or out of a list of function numbers. -/
def setIn (l : List Nat) (k : Nat) (b : Bool) : List Nat := if b then k :: l.filter (· != k) else l.filter (· != k)

/-- Function `f` of port `p` exists: the PF, and the VFs up to NumVFs. -/
def funcExists (s : State) (p f : Nat) : Bool := f == 0 || (match findKey s.host.numVfs p with | some n => decide (f ≤ n) | none => false)

/-- Vectors of function `k` that are pending and may now be sent are sent (R307). -/
def msixRetryAll (s : State) (p f : Nat) : State :=
  (s.host.msixPend.filter (fun k => k / 4096 == 256 * p + f)).foldl (fun s k => msixRetry s p f (k % 4096)) s

/-- The size in bytes of the BAR pair with register `i`, and whether it is prefetchable (R300). -/
def barSize (vf : Bool) (i : Nat) : Nat × Bool :=
  match i / 2 with
  | 0 => (if vf then 2 ^ 20 else 2 ^ 26, false)
  | 1 => (if vf then 2 ^ 32 else 2 ^ 36, true)
  | _ => (if vf then 2 ^ 18 else 2 ^ 24, false)

/-- BAR register `i` as it reads with all ones written to it: a 64-bit BAR of that size (R300). -/
def barWord (vf : Bool) (i : Nat) : Nat :=
  let b := barSize vf i
  let v := 2 ^ 64 - b.1 + 4 + 8 * b2n b.2
  if i % 2 = 0 then v % 2 ^ 32 else v / 2 ^ 32

/-- The features that R298 marks No, by row: MSI and INTx; PRI and PASID; AtomicOp completer; IDE and TDISP; No Snoop; TPH, ACS, Resizable BAR
and L0p. -/
def absentFeatures : List Nat := [9, 12, 14, 16, 19, 20]

/-- What waited for a translation goes on untranslated once ATS is disabled (R281). -/
def atsOff (s : State) (p f : Nat) : State :=
  let ops := s.host.ops.filter (fun o => o.ep == p && o.func == f && o.st == 0)
  let ws := s.host.atsWait.filter (fun w => w.ep == p && w.func == f)
  let s := ws.foldl (atsWrite true) (ops.foldl (atsOp true) s)
  if p = mgrPort s ∧ f = 0 then ringDrain s (s.err.ringWait.length + 1) else s

/-- A configuration access answered and applied. A VF has no SR-IOV capability, and its own BARs read zero. -/
def cfgAccess (s : State) (p f : Nat) : CfgOp → State
  | .readId => emitOut s (.cfgReply p f 0 (0x1F5C + 2 ^ 16 * (if f = 0 then 0x0128 else 0x0129)))
  | .readClass => emitOut s (.cfgReply p f 0 (0xB0 + 2 ^ 8 * 0x0B4000))
  | .readTotalVfs => emitOut s (.cfgReply p f 0 (rd s (Reg.HOSTPORT.PORT_CFG.TOTAL_VFS p)))
  | .readInterruptPin => emitOut s (.cfgReply p f 0 0)
  | .readTableSize => emitOut s (.cfgReply p f 0 (vectorCount s p f))
  | .readVfPlaces => emitOut s (.cfgReply p f 0 (if f = 0 then 1 + 2 ^ 16 else 0))
  | .readPageSizes => emitOut s (.cfgReply p f 0 (if f = 0 then 1 else 0))
  | .readMaxPayload => emitOut s (.cfgReply p f 0 512)
  | .sizeBar vf i => emitOut s (.cfgReply p f 0 (if f = 0 then barWord vf i.val else 0))
  | .readFeature row => emitOut s (.cfgReply p f 0 (b2n (!absentFeatures.contains row.val)))
  | .readAer u => emitOut s (.cfgReply p f 0 ((findKey s.host.aer (aerKey p f u)).getD 0))
  | .clearAer u v =>
    let k := aerKey p f u
    emitOut { s with host := { s.host with aer := putKey s.host.aer k 0 ((findKey s.host.aer k).getD 0 &&& (2 ^ 32 - 1 - v.toNat)) } } (.cfgReply p f 0 0)
  | .readOther _ => let v := freeNat s; emitOut v.2 (.cfgReply p f 0 (v.1 % 2 ^ 32))
  | .writeOther _ _ => emitOut s (.cfgReply p f 0 0)
  | .command mem bus => emitOut { s with host := { s.host with memEn := setIn s.host.memEn (256 * p + f) mem, busEn := setIn s.host.busEn (256 * p + f) bus } } (.cfgReply p f 0 0)
  | .power d => emitOut { s with host := { s.host with d3 := setIn s.host.d3 (256 * p + f) d } } (.cfgReply p f 0 0)
  | .msix en mask => msixRetryAll (emitOut { s with host := { s.host with msixOn := setIn s.host.msixOn (256 * p + f) en, fnMask := setIn s.host.fnMask (256 * p + f) mask } } (.cfgReply p f 0 0)) p f
  | .ats en =>
    let atc := if en then s.host.atc else s.host.atc.filter (fun t => !(t.ep == p && t.func == f))
    let s := emitOut { s with host := { s.host with atsOn := setIn s.host.atsOn (256 * p + f) en, atc := atc } } (.cfgReply p f 0 0)
    if en then s else atsOff s p f
  | .atomics en => emitOut { s with host := { s.host with atomicEn := setIn s.host.atomicEn (256 * p + f) en } } (.cfgReply p f 0 0)
  | .ari en => emitOut (if f = 0 then { s with host := { s.host with ari := setIn s.host.ari p en } } else s) (.cfgReply p f 0 0)
  | .vfs n en => emitOut (if f = 0 then vfWrite s p n.toNat en else s) (.cfgReply p f 0 0)
  | .flr => flrBegin (emitOut s (.cfgReply p f 0 0)) p f

/-- CONFIGURATION_REQUEST (R419): Request Retry Status before boot stage 7 and while the port's reset under R312 runs. -/
def execConfigurationRequest (port : Fin 2) (func : BitVec 8) (op : CfgOp) (s : State) : Host.Outcome State Fault Refusal :=
  let p := port.val
  .next (if rd s Reg.SECURITY.BOOT_STATUS.STAGE < 7 || inFlr s p 0 then emitOut s (.cfgReply p func.toNat 1 0)
    else if funcExists s p func.toNat then cfgAccess s p func.toNat op
    else emitOut s (.cfgReply p func.toNat 2 0))

end Sys2Proof.Machine
end

