-- ==== Sys2Proof/Machine/Firmware.lean ====
section
/-!
DEFINITION. Machine/Firmware.lean: the firmware processors (R376, R377), the flash (R378 to R380), images (R383, R384), leaf indices
(R389), attestation (R390 to R392), updates and molts (R393 to R395), event forwarding (R397) and link keys (R398).
-/
namespace Sys2Proof.Machine
open Sys2Proof

/-! ### Flash (R378) -/

/-- What a byte of flash that nothing has written reads as: erased. -/
def flashDefault : Byte := 0xFF
/-- Bytes of the flash. -/
def flashSize : Nat := 256 * 2 ^ 20
/-- One byte of flash. -/
def flashRd (s : State) (a : Nat) : Byte := (findKey s.fw.flash a).getD flashDefault
/-- `n` bytes of flash from `a`. -/
def flashRdN (s : State) (a n : Nat) : List Byte := (List.range n).map (fun i => flashRd s (a + i))
/-- A little-endian number of `n` bytes of flash. -/
def flashNum (s : State) (a n : Nat) : Nat := ofLeBytes (flashRdN s a n)
/-- Bytes put into the flash from `a` on. -/
def putFlash (m : List Host.Cell) (a : Nat) : List Byte → List Host.Cell
  | [] => m
  | b :: l => putFlash (putKey m a flashDefault b) (a + 1) l
/-- The state with bytes of flash written. -/
def flashWr (s : State) (a : Nat) (l : List Byte) : State := { s with fw := { s.fw with flash := putFlash s.fw.flash a l } }
/-- The state with `[a, a + n)` of the flash erased. -/
def flashErase (s : State) (a n : Nat) : State :=
  { s with fw := { s.fw with flash := s.fw.flash.filter (fun c => !(decide (a ≤ c.1) && decide (c.1 < a + n))) } }

/-- A sequence number of 32 bits is higher (R53 at 32 bits). -/
def seqHigher (a b : Nat) : Bool := let d := (a + 2 ^ 32 - b) % 2 ^ 32; decide (1 ≤ d) && decide (d ≤ 2 ^ 31)

/-! ### The directory (R379) -/

/-- A directory record: SEQ, PREFERRED and the states of the banks: 0 EMPTY, 1 WRITING, 2 VALID. -/
structure DirRec where
  seq : Nat
  preferred : Nat
  bankA : Nat
  bankB : Nat
deriving DecidableEq, Repr

/-- The record of directory copy `c`, where its MAGIC and CRC are right. -/
def dirCopy (s : State) (c : Nat) : Option DirRec :=
  let a := c * 0x10000
  if flashNum s a 4 = 0x52494446 ∧ flashNum s (a + 28) 4 = crc32c (flashRdN s a 28) then
    some ⟨flashNum s (a + 4) 4, flashNum s (a + 8) 1, flashNum s (a + 9) 1, flashNum s (a + 10) 1⟩
  else none

/-- The copy in force and its record. -/
def dirForce (s : State) : Option (Nat × DirRec) :=
  match dirCopy s 0, dirCopy s 1 with
  | some a, some b => some (if seqHigher b.seq a.seq then (1, b) else (0, a))
  | some a, none => some (0, a)
  | none, some b => some (1, b)
  | none, none => none

/-- The state of a bank; EMPTY where no record is in force. -/
def bankState (s : State) (bank : Nat) : Nat :=
  match dirForce s with | some (_, r) => if bank = 0 then r.bankA else r.bankB | none => 0

/-- PREFERRED of the record in force. -/
def preferred (s : State) : Nat := match dirForce s with | some (_, r) => r.preferred | none => 0

/-- IMAGE_SVN shows the record in force. -/
def dirShow (s : State) : State :=
  wrs s [(Reg.SECURITY.IMAGE_SVN.STATE_A, bankState s 0), (Reg.SECURITY.IMAGE_SVN.STATE_B, bankState s 1), (Reg.SECURITY.IMAGE_SVN.PREFERRED, preferred s)]

/-- The 32 bytes of a directory record. -/
def dirBytes (r : DirRec) : List Byte :=
  let b := leBytes 4 0x52494446 ++ leBytes 4 r.seq ++ leBytes 1 r.preferred ++ leBytes 1 r.bankA ++ leBytes 1 r.bankB ++ List.replicate 17 0
  b ++ leBytes 4 (crc32c b)

/-- A new record with SEQ + 1, in the copy that is not in force. -/
def dirPut (s : State) (pref a b : Nat) : State :=
  let c := match dirForce s with | some (c, _) => 1 - c | none => 0
  let q := match dirForce s with | some (_, r) => r.seq + 1 | none => 1
  dirShow (flashWr s (c * 0x10000) (dirBytes ⟨q % 2 ^ 32, pref, a, b⟩))

/-- The state of a bank changed in a new record. -/
def setBankState (s : State) (bank st : Nat) : State :=
  if bank = 0 then dirPut s (preferred s) st (bankState s 1) else dirPut s (preferred s) (bankState s 0) st

/-! ### Images (R383, R384) -/

/-- Offset of an image bank in the flash (R378). -/
def bankBase (bank : Nat) : Nat := if bank = 0 then 0x02000000 else 0x09000000
/-- Bytes of an image bank. -/
def bankSize : Nat := 112 * 2 ^ 20
/-- Component `k` of an image: its type, offset, length and digest. -/
def component (s : State) (bank k : Nat) : Nat × Nat × Nat × List Byte :=
  let a := bankBase bank + 64 + 48 * k
  (flashNum s a 2, flashNum s (a + 4) 4, flashNum s (a + 8) 8, flashRdN s (a + 16) 32)
/-- The components of an image. -/
def components (s : State) (bank : Nat) : List (Nat × Nat × Nat × List Byte) :=
  (List.range (flashNum s (bankBase bank + 6) 2)).map (component s bank)
/-- IMAGE_VERSION and SVN of an image. -/
def imageVersion (s : State) (bank : Nat) : Nat := flashNum s (bankBase bank + 8) 8
/-- SVN of the image in a bank. -/
def imageSvn (s : State) (bank : Nat) : Nat := flashNum s (bankBase bank + 16) 4

/-- The header of the image in a bank is right and its signature verifies (R383, R384). -/
def headerOk (s : State) (bank : Nat) : Bool :=
  let b := bankBase bank
  let n := flashNum s (b + 6) 2
  let cs := components s bank
  flashNum s b 4 == 0x474D4956 && flashNum s (b + 4) 2 == 1 && decide (1 ≤ n) && decide (n ≤ 16) &&
  (flashRdN s (b + 20) 44).all (· == 0) && (flashRdN s (b + 64 + 48 * n) (0x400 - (64 + 48 * n))).all (· == 0) &&
  (flashRdN s (b + 0xF04) 252).all (· == 0) &&
  cs.all (fun c => c.2.1 % 4096 == 0 && decide (4096 ≤ c.2.1) && decide (c.2.1 + c.2.2.1 ≤ bankSize)) &&
  (List.range 7).all (fun t => (cs.filter (fun c => c.1 == t + 1)).length == 1) &&
  Config.sigVerify (Config.firmwareBytes 1) (flashRdN s b 0x400) (flashRdN s (b + 0x400) 2820)

/-- The SHAKE256 digest of 256 bits: 32 bytes. -/
def shake32 (l : List Byte) : List Byte := (List.range 32).map (fun i => (Config.digest 256 l).getD i 0)
/-- A component's digest matches (R383). -/
def digestOk (s : State) (bank : Nat) (c : Nat × Nat × Nat × List Byte) : Bool :=
  shake32 (flashRdN s (bankBase bank + c.2.1) c.2.2.1) == c.2.2.2

/-- What is wrong with the image in a bank: 0 its header or signature, else the type of a component whose digest differs. -/
def imageFault (s : State) (bank : Nat) : Option Nat :=
  if !headerOk s bank then some 0 else ((components s bank).find? (fun c => !digestOk s bank c)).map (fun c => c.1)

/-- The first byte of image area `area` (R381). -/
def areaBase (s : State) (area : Nat) : Nat := rd s (Reg.GLOBAL.HBM_PART.BASE 4) * 2 ^ 30 + area * 0x10000000
/-- The first byte of the data window of processor `i`, which holds 32 MiB (R376, R381). -/
def dataWindow (s : State) (i : Nat) : Nat := areaBase s 2 + i * 0x2000000

/-- Every component of a bank copied to an image area, each at its offset. -/
def copyImage (s : State) (bank area : Nat) : State :=
  (components s bank).foldl (fun s c => hbmWr s (areaBase s area + c.2.1) (flashRdN s (bankBase bank + c.2.1) c.2.2.1)) s

/-- The component type whose copy in an image area does not match its digest: it differs, or lies on poisoned granules (R352). -/
def copyFault (s : State) (bank area : Nat) : Option Nat :=
  ((components s bank).find? (fun c => hbmPoisoned s (areaBase s area + c.2.1) c.2.2.1 ||
    shake32 (hbmRdN s (areaBase s area + c.2.1) c.2.2.1) != c.2.2.2)).map (fun c => c.1)

/-- The image of a bank runs from an image area. -/
def runImage (s : State) (bank area : Nat) : State :=
  let cs := (components s bank).map (fun c => (c.1, areaBase s area + c.2.1, c.2.2.1))
  wrs { s with fw := { s.fw with area := area, comps := cs } }
    [(Reg.SECURITY.BOOT_STATUS.RUNNING_BANK, bank), (Reg.SECURITY.IMAGE_INFO.IMAGE_VERSION, imageVersion s bank), (Reg.SECURITY.IMAGE_SVN.SVN, imageSvn s bank)]

/-- The running bank. -/
def runningBank (s : State) : Nat := rd s Reg.SECURITY.BOOT_STATUS.RUNNING_BANK
/-- The bank that is not running. -/
def otherBank (s : State) : Nat := 1 - runningBank s

/-- A FIRMWARE record (R402). -/
def fwRecord (s : State) (cause outcome detA detB : Nat) : State := report s 470 0x11 cause outcome detA detB

/-- IMAGE_REJECTED (R402). -/
def imageRejected (s : State) (bank type : Nat) : State := fwRecord s 1 0 0 (packBits [(0, 1, bank), (4, 4, type)])

/-! ### The start-up configuration (R380) -/

/-- Offset of a start-up configuration copy (R378). -/
def configBase (c : Nat) : Nat := 0x100000 + c * 0x100000
/-- COUNT of a copy. -/
def configCount (s : State) (c : Nat) : Nat := flashNum s (configBase c + 12) 4
/-- Bytes of a copy without its CRC. -/
def configLen (s : State) (c : Nat) : Nat := 128 + 16 * configCount s c
/-- A copy has a right header and a right CRC. -/
def configOk (s : State) (c : Nat) : Bool :=
  flashNum s (configBase c) 4 == 0x47464353 && flashNum s (configBase c + 4) 4 == 1 && decide (configLen s c + 4 ≤ 0x100000) &&
    flashNum s (configBase c + configLen s c) 4 == crc32c (flashRdN s (configBase c) (configLen s c))
/-- The copy in force: the one with a right CRC and the higher SEQ. -/
def configForce (s : State) : Option Nat :=
  match configOk s 0, configOk s 1 with
  | true, true => some (if seqHigher (flashNum s (configBase 1 + 8) 4) (flashNum s (configBase 0 + 8) 4) then 1 else 0)
  | true, false => some 0
  | false, true => some 1
  | false, false => none
/-- Entry `i` of a copy: BAR0 offset, width and value. -/
def configEntry (s : State) (c i : Nat) : Nat × Nat × Nat :=
  let a := configBase c + 128 + 16 * i
  (flashNum s a 4, flashNum s (a + 4) 1, flashNum s (a + 8) 8)
/-- FUNC_LIST of a copy: the functions to start, ascending (R37). -/
def configFuncs (s : State) (c : Nat) : List Nat := (List.range 463).filter (fun n => bitAt (flashNum s (configBase c + 64) 64) n)

/-! ### Leaf indices (R389) -/

/-- NEXT_FREE and SEQ of the record in slot `i` of half `hf`, where it is valid. -/
def leafRec (s : State) (hf i : Nat) : Option (Nat × Nat) :=
  let a := 0x40000 + hf * 0x20000 + 32 * i
  if flashNum s a 4 = 0x5846444C ∧ flashNum s (a + 28) 4 = crc32c (flashRdN s a 28) then some (flashNum s (a + 4) 4, flashNum s (a + 8) 8) else none

/-- SEQ and NEXT_FREE of the record in force: the valid one with the highest SEQ. -/
def leafForce (s : State) : Option (Nat × Nat) :=
  ((List.range 8192).filterMap (fun i => leafRec s (i / 4096) (i % 4096))).foldl
    (fun b r => match b with | some x => if x.1 < r.1 then some r else b | none => some r) none

/-- The next block of 1,024 leaves journalled and reserved; at 2^40 the identity is exhausted. A journal without a valid record gives
the security core no NEXT_FREE to begin from. -/
def leafReserve (s : State) : State :=
  match leafForce s with
  | none => s
  | some (q, b) =>
    let s := { s with fw := { s.fw with leafDue := false } }
    if 2 ^ 40 ≤ b then wr s Reg.SECURITY.IDENTITY_STATUS.IDENTITY_EXHAUSTED 1
    else
      let q := (q + 1) % 2 ^ 32
      let hf := q / 4096 % 2
      let r := leBytes 4 0x5846444C ++ leBytes 4 q ++ leBytes 8 (b + 1024) ++ List.replicate 12 0
      let s := if q % 4096 = 0 then flashErase s (0x40000 + hf * 0x20000) 0x20000 else s
      let s := flashWr s (0x40000 + hf * 0x20000 + 32 * (q % 4096)) (r ++ leBytes 4 (crc32c r))
      let s := wr { s with fw := { s.fw with leafEnd := b + 1024 } } Reg.SECURITY.IDENTITY_STATUS.NEXT_LEAF b
      trace (fwRecord s 12 0 0 b) 0 6 0x0703 0 b

/-- The security firmware starts: a leaf block is due, and the keys of the sealed store are at hand (R389, R398). -/
def securityStarts (s : State) : State :=
  let ok := rdb s Reg.SECURITY.IDENTITY_STATUS.SEALED_OK
  let s := { s with fw := { s.fw with leafDue := true, rlkNew := if ok then s.fw.sealedNew else s.fw.rlkNew, rlkOld := if ok then s.fw.sealedOld else s.fw.rlkOld } }
  wrs s [(Reg.SECURITY.LINK_KEY_GEN.GEN_NEW, (s.fw.rlkNew.map (·.1)).getD 0), (Reg.SECURITY.LINK_KEY_GEN.GEN_OLD, (s.fw.rlkOld.map (·.1)).getD 0)]

/-- Processor `i` runs from now on: its watchdog begins. -/
def procRuns (s : State) (i : Nat) : State :=
  wr { s with fw := { s.fw with ranAt := setKey s.fw.ranAt i s.now } } (Reg.SECURITY.PROC_STATUS.STATE i) 1

/-- LEAF_BLOCK_RESERVE (R389). -/
def execLeafBlockReserve (s : State) : Host.Outcome State Fault Refusal :=
  .next (if procState s 0 = 1 && s.fw.leafDue then leafReserve s else s)

/-! ### Molts (R394, R395) -/

/-- MOLT_STATUS.RESULT. -/
def moltResult (s : State) : Nat := rd s Reg.SECURITY.MOLT_STATUS.RESULT
/-- A molt runs. -/
def molting (s : State) : Bool := moltResult s == 1
/-- A molt ends or is refused with a RESULT: the command bit clears. -/
def moltEnds (s : State) (res : Nat) : State :=
  wrs s [(Reg.SECURITY.MOLT_STATUS.RESULT, res), (Reg.SECURITY.MOLT_STATUS.STEP, 0), (Reg.SECURITY.MOLT_CMD.MOLT, 0)]

/-- A molt requested: refused as BUSY while an update runs, with NO_IMAGE, or with HOLDS_OLD; one that runs goes on. -/
def moltStart (s : State) : State :=
  if molting s then s
  else if s.fw.update.isSome then moltEnds s 4
  else if bankState s (otherBank s) ≠ 2 then moltEnds s 5
  else if !s.fw.unmolted.isEmpty then moltEnds s 6
  else trace (wrs s [(Reg.SECURITY.MOLT_STATUS.RESULT, 1), (Reg.SECURITY.MOLT_STATUS.STEP, 1), (Reg.SECURITY.MOLT_CMD.MOLT, 1)]) 0 5 0x0601 1 1

/-- A write of MOLT_CMD.MOLT by a writer of R32. -/
def moltWrite (s : State) (w : Writer) : State := if w.privileged then moltStart s else regError s w 0x1400020 4 true 5

/-- MOLT (R394). -/
def execMolt (w : Writer) (s : State) : Host.Outcome State Fault Refusal := .next (moltWrite s w)

/-- A molt reverts at its step: every processor runs the old image, PREFERRED is unchanged. -/
def moltReverts (s : State) : State :=
  let k := rd s Reg.SECURITY.MOLT_STATUS.STEP
  trace (fwRecord (moltEnds s 3) 8 0 0 k) 0 5 0x0601 3 k

/-- The next step of a molt begins. -/
def moltNext (s : State) (k : Nat) : State :=
  trace (wr { s with fw := { s.fw with moltAt := (s.now, s.time.toNat), moltCores := 0 } } Reg.SECURITY.MOLT_STATUS.STEP k) 0 5 0x0601 1 k

/-- A kerf has begun since the step in progress did (R394 step 3). -/
def moltKerf (s : State) : Bool := kerfsBy s.fw.moltAt.2 != kerfsBy s.time.toNat

/-- The limit of the step in progress has passed (R394): 2 ms for each cluster control core that is left, 20 ms for the management core. -/
def moltLate (s : State) (cores : Nat) : Bool :=
  match rd s Reg.SECURITY.MOLT_STATUS.STEP with
  | 2 => decide (s.fw.moltAt.1 + ms (2 * cores) < s.now)
  | 5 => decide (s.fw.moltAt.1 + ms 20 < s.now)
  | _ => false

/-- Cluster control core `c` has moved in step 2, in index order and within 2 ms; the step ends with core 47. -/
def moltCore (s : State) (c : Nat) : State :=
  if rd s Reg.SECURITY.MOLT_STATUS.STEP ≠ 2 ∨ c ≠ s.fw.moltCores then s
  else if moltLate s 1 then moltReverts s
  else if c = 47 then moltNext s 3
  else { s with fw := { s.fw with moltAt := (s.now, s.time.toNat), moltCores := c + 1 } }

/-- Step 7: the areas exchange roles, PREFERRED is set, and the old image is kept until every CLUSTER has passed a START. -/
def moltDone (s : State) : State :=
  let b := otherBank s
  let s := runImage s b (1 - s.fw.area)
  let s := dirPut s b (bankState s 0) (bankState s 1)
  let s := cnt (moltEnds { s with fw := { s.fw with unmolted := List.range 48 } } 2) Reg.SECURITY.MOLT_STATUS.MOLT_COUNT
  trace (fwRecord s 7 0 0 (imageVersion s b)) 0 5 0x0601 2 7

/-- MOLT_STEP_DONE (R394): the step in progress has ended well, or a processor failed in it; `core` names a cluster control core that has moved in
step 2, none the rest of them. Step 3 ends only at a kerf while no jig commit is in progress. -/
def execMoltStepDone (ok : Bool) (s : State) (core : Option (Fin 48) := none) : Host.Outcome State Fault Refusal :=
  .next (
    if !molting s then s
    else if !ok then moltReverts s
    else if core.isSome then (match core with | some c => moltCore s c.val | none => s)
    else if moltLate s (48 - s.fw.moltCores) then moltReverts s
    else
      match rd s Reg.SECURITY.MOLT_STATUS.STEP with
      | 1 =>
        match imageFault s (otherBank s) with
        | some t => moltReverts (imageRejected s (otherBank s) t)
        | none => moltNext (copyImage s (otherBank s) (1 - s.fw.area)) 2
      | 2 => moltNext s 3
      | 3 => if [0, 3, 4, 5].contains (rd s Reg.TICK.JIG_COMMIT_STATUS.STATUS) && moltKerf s then moltNext s 4 else s
      | 4 => moltNext s 5
      | 5 => moltNext s 6
      | 6 => moltNext (leafReserve s) 7
      | _ => moltDone s)

/-! ### Processors (R377) -/

/-- The functions that depend on the scheduler core leave RUNNING and end in AWAIT_HOST. -/
def schedulerHeld (s : State) : State :=
  ((List.range 463).filter (fun n => fnType n == 4 || n == fJig)).foldl (fun s n =>
    if running s n then stopFn { s with fn := { s.fn with depLost := n :: s.fn.depLost } } n else s) s

/-- What goes with a processor that is held until the next reset that reloads firmware. -/
def procHeld (s : State) (i : Nat) : State :=
  if i = 2 then wr s Reg.POWER.POWER_STATUS.LEVEL 31 else if i = 3 then schedulerHeld s else if 4 ≤ i then permanentFault s (fCluster (i - 4)) else s

/-- UPDATE_STATE, with its trace point. -/
def setUpdate (s : State) (st : Nat) : State := trace (wr s Reg.MGMT.MGMT_STATUS.UPDATE_STATE st) 1 5 0x0600 st 0

/-- A PLDM update in progress ends: UPDATE_STATE is IDLE again. A bank that was not verified stays WRITING. -/
def cancelUpdate (s : State) : State := if s.fw.update.isSome then setUpdate { s with fw := { s.fw with update := none } } 0 else s

/-- Bytes of the local SRAM of processor `i` (R376). -/
def procSram (i : Nat) : Nat := (if i = 0 then 512 else if i = 1 ∨ i = 3 then 1024 else 256) * 1024
/-- The watchdog of processor `i` in ms (R376). -/
def procWatchdogMs (i : Nat) : Nat := if i = 2 ∨ i = 3 then 10 else 100
/-- The watchdog of processor `i` may expire: it has run for that long. -/
def watchdogDue (s : State) (i : Nat) : Bool := decide ((findKey s.fw.ranAt i).getD 0 + ms (procWatchdogMs i) ≤ s.now)

/-- Processor `i` faults, breaks its partition or lets its watchdog expire: it is halted and reloaded, and held at its third fault within
60 s; a molt reverts (R395). -/
def procFails (s : State) (i cause detB : Nat) : State :=
  if procState s i ≠ 1 then s
  else
    let l := ((findKey s.fw.faults i).getD []).filter (fun t => decide (s.now < t + secs 60)) ++ [s.now]
    let s := { s with fw := { s.fw with faults := setKey s.fw.faults i l } }
    let s := fwRecord (wr s (Reg.SECURITY.PROC_STATUS.LAST_CAUSE i) cause) cause 2 i detB
    let s := if molting s then moltReverts s else s
    let s := if i = 1 then cancelUpdate s else s
    if 3 ≤ l.length then
      procHeld (fwRecord (wr s (Reg.SECURITY.PROC_STATUS.STATE i) 3) 6 5 i l.length) i
    else cnt (wr s (Reg.SECURITY.PROC_STATUS.STATE i) 2) (Reg.SECURITY.PROC_STATUS.RESTARTS i)

/-- An HBM address lies in partition `k` (R43). -/
def inPartition (s : State) (k a : Nat) : Bool :=
  decide (rd s (Reg.GLOBAL.HBM_PART.BASE k) ≤ a / 2 ^ 30) && decide (a / 2 ^ 30 < rd s (Reg.GLOBAL.HBM_PART.BASE k) + rd s (Reg.GLOBAL.HBM_PART.SIZE k))

/-- An HBM address lies in `[b, b + n)`. -/
def within (b n a : Nat) : Bool := decide (b ≤ a) && decide (a < b + n)

/-- BAR0 offset `o` is one that processor `i` may write (R382). -/
def regWritable (i o : Nat) : Bool :=
  match i with
  | 0 => within 0x1400000 0x100000 o || (within 0xC00000 0x200000 o && within 0x30 0x10 (o % 0x4000))
  | 1 => !within 0x1400000 0x100000 o
  | 2 => within 0x1200000 0x100000 o
  | 3 => within 0x100000 0x100000 o || within 0x700000 0x80000 o || (within 0x1000 0x2000 o && within 4 4 (o % 16))
  | _ => within (0x400000 + (i - 4) * 0x10000) 0x10000 o || within 0x780000 0x80000 o || within 0xA00070 8 o

/-- HBM address `a` is one that processor `i` may write, or read (R382). -/
def hbmAllowed (s : State) (i : Nat) (write : Bool) (a : Nat) : Bool :=
  within (dataWindow s i) 0x2000000 a || (i == 0 && within (areaBase s 0) 0x20000000 a) ||
    (!write && (within (areaBase s s.fw.area) 0x10000000 a || (i == 0 && (List.range 6).any (fun k => inPartition s k a)) ||
      (i == 1 && inPartition s 3 a) || (i == 3 && inPartition s 1 a) || (decide (4 ≤ i) && inPartition s 2 a)))

/-- The partition checker lets an access of processor `i` pass (R382); it is set and locked in boot stage 6. -/
def procMay (s : State) (i : Nat) : ProcAccess → Bool
  | .reg write o => !rdb s Reg.SECURITY.BOOT_STATUS.LOCK || !write || regWritable i o.toNat
  | .hbm write a => !rdb s Reg.SECURITY.BOOT_STATUS.LOCK || hbmAllowed s i write a.toNat

/-- PROC_FAULT (R377): a fault at an address, or an access that the partition checker blocks (R382); an access that it lets pass is no
violation. -/
def execProcFault (i : Fin 52) (violation : Bool) (addr : BitVec 64) (s : State) (access : Option ProcAccess := none) : Host.Outcome State Fault Refusal :=
  .next (if violation && access.any (procMay s i.val) then s else procFails s i.val (if violation then 5 else 3) addr.toNat)

/-- PROC_WATCHDOG (R377), at least its period after the processor began to run. -/
def execProcWatchdog (i : Fin 52) (s : State) : Host.Outcome State Fault Refusal := .next (if watchdogDue s i.val then procFails s i.val 4 0 else s)

/-- The component type that processor `i` runs (R383). -/
def procComponent (i : Nat) : Nat := if i < 4 then i + 1 else 5

/-- The digest of a component type in the header of the running bank. -/
def headerDigest (s : State) (t : Nat) : Option (List Byte) := ((components s (runningBank s)).find? (fun c => c.1 == t)).map (fun c => c.2.2.2)

/-- The code of processor `i` in the running image copy is right: no granule of it is poisoned, and its digest matches (R352, R377). Before stage
5 of the boot there is no copy, and the code is that of the running bank. -/
def codeOk (s : State) (i : Nat) : Bool :=
  match s.fw.comps.find? (fun c => c.1 == procComponent i) with
  | some c => !hbmPoisoned s c.2.1 c.2.2 && headerDigest s c.1 == some (shake32 (hbmRdN s c.2.1 c.2.2))
  | none => (components s (runningBank s)).any (fun c => c.1 == procComponent i && digestOk s (runningBank s) c)

/-- Processor `i` runs the code that was checked. -/
def procAgain (s : State) (i : Nat) : State := let s := procRuns s i; if i = 0 then securityStarts s else s

/-- PROC_RESTART_DONE (R377): the processor runs again once the digest of its code in the running image copy is right. A copy that is poisoned or
differs is first loaded from flash again (R352); while it is wrong even then, the processor goes on restarting (DESIGN CHOICE, log entry 67). -/
def execProcRestartDone (i : Fin 52) (s : State) : Host.Outcome State Fault Refusal :=
  .next (if procState s i.val ≠ 2 then s
    else if codeOk s i.val then procAgain s i.val
    else
      let u := if s.fw.comps.isEmpty then s else copyImage s (runningBank s) s.fw.area
      if codeOk u i.val then procAgain u i.val else u)

/-! ### PLDM updates (R393, R395) -/

/-- Management protocol number of the answers under PLDM. -/
def protoPldm : Nat := 2
/-- An answer under PLDM: command and completion code. -/
def pldmReply (s : State) (command code : Nat) : State := emitOut s (.mgmt protoPldm command [code] [])
/-- The management core answers: it runs, and does not move in step 5 of a molt (R394). -/
def mgmtUp (s : State) : Bool := procState s 1 == 1 && !(molting s && rd s Reg.SECURITY.MOLT_STATUS.STEP == 5)

/-- REQUEST_UPDATE (R393, R395) of a component: 1 the firmware image, 2 the start-up configuration. -/
def execRequestUpdate (comp : BitVec 16) (s : State) : Host.Outcome State Fault Refusal :=
  .next (
    if !mgmtUp s then s
    else if molting s then pldmReply s 0x10 0x8A
    else if s.fw.update.isSome then pldmReply s 0x10 0x81
    else if comp.toNat = 1 then
      pldmReply (setUpdate { setBankState s (otherBank s) 1 with fw := { (setBankState s (otherBank s) 1).fw with update := some 1 } } 1) 0x10 0
    else if comp.toNat = 2 then pldmReply (setUpdate { s with fw := { s.fw with update := some 2 } } 1) 0x10 0
    else pldmReply s 0x10 0x02)

/-- The configuration copy not in force: the one in force is that of the boot until the next (R393), and before stage 7 the one it will apply. -/
def spareConfig (s : State) : Nat := match s.fw.config.or (configForce s) with | some c => 1 - c | none => 0

/-- Where an update writes, and how many bytes fit: the bank that is not running, or the configuration copy not in force. -/
def updateTarget (s : State) (comp : Nat) : Nat × Nat :=
  if comp = 1 then (bankBase (otherBank s), bankSize) else (configBase (spareConfig s), 0x100000)

/-- FIRMWARE_DATA_TRANSFER (R393): at most 4,096 B. -/
def execFirmwareDataTransfer (off : BitVec 32) (data : List Byte) (s : State) : Host.Outcome State Fault Refusal :=
  .next (match s.fw.update with
    | some comp =>
      let t := updateTarget s comp
      let st := rd s Reg.MGMT.MGMT_STATUS.UPDATE_STATE
      if mgmtUp s && (st == 1 || st == 2) && decide (data.length ≤ 4096) && decide (off.toNat + data.length ≤ t.2) then
        flashWr (if st = 1 then setUpdate s 2 else s) (t.1 + off.toNat) data
      else s
    | none => s)

/-- VERIFY_COMPLETE (R393): the target verified from flash; a bank is marked VALID or stays WRITING, and a failed update ends. -/
def execVerifyComplete (s : State) : Host.Outcome State Fault Refusal :=
  .next (match s.fw.update with
    | some comp =>
      let st := rd s Reg.MGMT.MGMT_STATUS.UPDATE_STATE
      if !mgmtUp s || procState s 0 != 1 || !(st == 1 || st == 2) then s
      else
        let b := otherBank s
        let fault := if comp = 1 then imageFault s b else if configOk s (spareConfig s) then none else some 0
        let ok := fault.isNone
        let s := match fault with | some t => if comp = 1 then imageRejected s b t else s | none => s
        let s := if ok && comp == 1 then setBankState s b 2 else s
        let s := fwRecord s 9 0 1 (packBits [(0, 1, b2n ok), (8, 8, comp)])
        let s := pldmReply s 0x17 (if ok then 0 else 1)
        if ok then setUpdate s 5 else cancelUpdate s
    | none => s)

/-- ACTIVATE_FIRMWARE (R393): a molt, or PREFERRED set to the new bank; a configuration waits for the next boot. -/
def execActivateFirmware (selfContained : Bool) (s : State) : Host.Outcome State Fault Refusal :=
  .next (
    if !mgmtUp s then s
    else
      match s.fw.update, rd s Reg.MGMT.MGMT_STATUS.UPDATE_STATE with
      | some comp, 5 =>
        let s := cancelUpdate (pldmReply (setUpdate s 6) 0x1A 0)
        if comp ≠ 1 then s
        else if selfContained then moltStart s
        else dirPut s (otherBank s) (bankState s 0) (bankState s 1)
      | _, _ => pldmReply s 0x1A 0x80)

/-! ### Events and the endpoint (R396, R397) -/

/-- PLATFORM_EVENT_MESSAGE (R397): the oldest waiting record sent, event class 0xF0. -/
def execPlatformEventMessage (s : State) : Host.Outcome State Fault Refusal :=
  .next (match s.fw.events with
    | n :: rest => if mgmtUp s then eventsQueued (emitOut { s with fw := { s.fw with events := rest } } (.mgmt protoPldm 0x0A [0xF0] (leBytes 64 n))) else s
    | [] => s)

/-- A binding of the MCTP endpoint reaches it (R396): I3C and SMBus do; PCIe VDM needs the manager port. -/
def bindingUp (s : State) : MctpBinding → Bool
  | .pcieVdm => running s (fHost (mgrPort s))
  | _ => true

/-- MCTP_EID_ASSIGN (R396), over a binding. -/
def execMctpEidAssign (eid : BitVec 8) (s : State) (binding : MctpBinding := .i3c) : Host.Outcome State Fault Refusal :=
  .next (if mgmtUp s && bindingUp s binding then wr s Reg.MGMT.MGMT_STATUS.EID eid.toNat else s)

/-- An entry of the PDR repository of PLDM type 2 (R396, R422). -/
inductive Pdr where
  | modulePower
  | effectiveCap
  | hottestJunction
  | rackCap
  | powerState
  | function (n : Nat)
deriving DecidableEq, Repr

/-- The PDR repository: the power entries of R422 and one state sensor per function. -/
def pdrRepository : List Pdr :=
  [.modulePower, .effectiveCap, .hottestJunction, .rackCap, .powerState] ++ (List.range 463).map .function

/-- The power state sensor (R422): 0 WITHIN, 1 CAP_CHASING, 2 CAP_UNREACHABLE, 3 CLAMPED, 4 HW_THROTTLE, the highest that applies. -/
def powerState (s : State) : Nat :=
  if rdb s Reg.POWER.POWER_STATUS.HW_THROTTLE then 4 else if rdb s Reg.POWER.POWER_STATUS.CLAMPED then 3 else rd s Reg.POWER.POWER_STATUS.CAP_STATE

/-- What an entry of the repository reads (R396, R422): W, the TEMP_STATUS code of the hottest junction, or a state. -/
def pdrValue (s : State) : Pdr → Nat
  | .modulePower => rd s Reg.POWER.POWER_STATUS.POWER_W
  | .effectiveCap => rd s Reg.POWER.POWER_STATUS.EFFECTIVE_CAP_W
  | .hottestJunction => rd s Reg.POWER.TEMP_STATUS.MAX_TJ
  | .rackCap => rd s Reg.POWER.RACK_CAP.RACK_CAP_W
  | .powerState => powerState s
  | .function n => fnState s n

/-- The state of the hottest junction's sensor (R422): 1 from the warning at 100 °C on, 2 from 105 °C on, which is critical. -/
def junctionAlarm (s : State) : Nat :=
  let t := rd s Reg.POWER.TEMP_STATUS.MAX_TJ
  if 840 ≤ t then 2 else if 800 ≤ t then 1 else 0

/-- SET_RACK_CAP (R410, R422). -/
def execSetRackCap (watts : BitVec 16) (s : State) : Host.Outcome State Fault Refusal :=
  .next (
    if !mgmtUp s then s
    else if 500 ≤ watts.toNat ∧ watts.toNat ≤ 3000 then pldmReply (wr s Reg.POWER.RACK_CAP.RACK_CAP_W watts.toNat) 0x31 0
    else pldmReply s 0x31 0x02)

/-! ### Attestation (R390 to R392) -/

/-- Management protocol number of the answers under SPDM. -/
def protoSpdm : Nat := 0
/-- The number of a way: 0 for MCTP, else 1 + 256 × port + function. -/
def wayNo : SpdmWay → Nat
  | .mctp => 0
  | .doe p f => 1 + 256 * p.val + f.toNat
/-- A way answers: the security core runs, and with it the management core for MCTP, or the function of the mailbox exists and is not in
reset. -/
def wayUp (s : State) (v : SpdmWay) : Bool :=
  procState s 0 == 1 && (match v with | .mctp => mgmtUp s | .doe p f => funcExists s p f.toNat && !inFlr s p f.toNat)
/-- An answer of the responder: response code, the way and further fields, and data. -/
def spdmReply (s : State) (v : SpdmWay) (code : Nat) (fields : List Nat) (data : List Byte) : State := emitOut s (.mgmt protoSpdm code (wayNo v :: fields) data)
/-- An SPDM error. -/
def spdmError (s : State) (v : SpdmWay) (code : Nat) : State := spdmReply s v 0x7F [code] []
/-- Algorithms have been negotiated on a way. -/
def negotiated (s : State) (v : SpdmWay) : Bool := s.fw.negotiated.contains (wayNo v)

/-- The identity may sign: derived, and a leaf is left once a block that ran out has been followed. -/
def identityOk (s : State) : Bool := rdb s Reg.SECURITY.IDENTITY_STATUS.IDENTITY_OK && !rdb s Reg.SECURITY.IDENTITY_STATUS.IDENTITY_EXHAUSTED
/-- The reserved block has a leaf. -/
def leafLeft (s : State) : Bool := decide (rd s Reg.SECURITY.IDENTITY_STATUS.NEXT_LEAF < s.fw.leafEnd) && !s.fw.leafDue
/-- A block reserved where none is left. -/
def leafReady (s : State) : State := if leafLeft s then s else leafReserve s
/-- The seed that the PUF and its helper data give (R387). -/
def identitySeed : List Byte := Config.firmwareBytes 4
/-- SK_SEED, SK_PRF and PUB_SEED of the identity key: 96 B (R387). -/
def identityKey : List Byte := Config.digest 768 (identitySeed ++ ascii "vovis id xmssmt")
/-- A signature of 9,893 B (R388): the leaf in 5 B, most significant byte first (PRESUMED, log entry 67), the randomiser of 32 B, and
4 × (67 + 10) × 32 B. -/
def identitySignature (leaf : Nat) (msg : List Byte) : List Byte :=
  (leBytes 5 leaf).reverse ++ (List.range (32 + 4 * (67 + 10) * 32)).map (fun i => (Config.identitySign identityKey leaf msg).getD i 0)
/-- A message signed with the next leaf: the signature and the state (R388, R389); none where the identity cannot sign. -/
def signIdentity (s : State) (msg : List Byte) : Option (List Byte × State) :=
  let t := leafReady s
  if identityOk t && leafLeft t then
    let k := rd t Reg.SECURITY.IDENTITY_STATUS.NEXT_LEAF
    let u := wr t Reg.SECURITY.IDENTITY_STATUS.NEXT_LEAF (k + 1)
    some (identitySignature k msg, if k + 1 = t.fw.leafEnd then { u with fw := { u.fw with leafDue := true } } else u)
  else none

/-- What the responder offers (R390): vendor and algorithm of the identity signature, the hash in bits; then ECDHE on secp384r1, AES-256-GCM
and the key schedule, and the capabilities CERT, CHAL, MEAS with signature, ENCRYPT, MAC and KEY_EX, by their SPDM codes (PRESUMED, log entry
67). -/
def spdmOffer : List Nat := [0x1F5C, 0x0001, 384, 0x0010, 0x0002, 0x0001, 0x02D6]

/-- NEGOTIATE_ALGORITHMS (R390): the requester offers the extended algorithm, or cannot complete it. -/
def execNegotiateAlgorithms (v : SpdmWay) (extended : Bool) (s : State) : Host.Outcome State Fault Refusal :=
  .next (
    if !wayUp s v then s
    else if !extended then spdmError s v 0x01
    else spdmReply { s with fw := { s.fw with negotiated := if negotiated s v then s.fw.negotiated else wayNo v :: s.fw.negotiated } } v 0x63 spdmOffer [])

/-- The identity certificate chain, where it lies in the flash (R378, R388): the manual gives the region of 64 KiB at 0x2_0000, and not where in it
the chain begins nor its length. -/
def identityChain (s : State) : List Byte := flashRdN s (0x20000 + Config.chainPlace.1) Config.chainPlace.2

/-- GET_CERTIFICATE (R390): a part of the chain in slot 0. -/
def execGetCertificate (v : SpdmWay) (slot : BitVec 4) (off len : BitVec 16) (s : State) : Host.Outcome State Fault Refusal :=
  .next (
    if !wayUp s v then s
    else if !negotiated s v then spdmError s v 0x04
    else if slot ≠ 0 then spdmError s v 0x01
    else spdmReply s v 0x02 [0] ((identityChain s).drop off.toNat |>.take len.toNat))

/-- The running component of a type, from the running image area. -/
def runningComponent (s : State) (t : Nat) : List Byte :=
  match s.fw.comps.find? (fun c => c.1 == t) with | some c => hbmRdN s c.2.1 c.2.2 | none => []

/-- IMAGE_VERSION and SVN of a bank; zeros for a bank that is not VALID (R392). -/
def bankVersion (s : State) (bank : Nat) : List Byte :=
  if bankState s bank = 2 then leBytes 8 (imageVersion s bank) ++ leBytes 4 (imageSvn s bank) else List.replicate 12 0

/-- The version record (R392). -/
def versionRecord (s : State) : List Byte :=
  leBytes 8 (rd s Reg.SECURITY.IMAGE_INFO.IMAGE_VERSION) ++ leBytes 4 (rd s Reg.SECURITY.IMAGE_SVN.SVN) ++ leBytes 1 (runningBank s) ++
  leBytes 1 (rd s Reg.SECURITY.BOOT_STATUS.BOOT_SRC) ++ leBytes 2 (rd s Reg.SECURITY.MOLT_STATUS.MOLT_COUNT) ++ bankVersion s 0 ++ bankVersion s 1 ++
  List.replicate 8 0

/-- The value of GLOBAL_ID and PLANE_ID as bytes, with the serial number of the leaf certificate (R391 index 10). -/
def hardwareConfig (s : State) : List Byte :=
  leBytes 8 (packBits [(0, 16, rd s Reg.GLOBAL.GLOBAL_ID.PART_NUMBER), (16, 8, rd s Reg.GLOBAL.GLOBAL_ID.VARIANT), (24, 8, rd s Reg.GLOBAL.GLOBAL_ID.STEPPING),
    (32, 16, rd s Reg.GLOBAL.GLOBAL_ID.FUNC_COUNT)]) ++ leBytes 1 (planeId s) ++ Config.firmwareBytes 3

/-- The definition numbers and module digests of the RUNNING SWARMs with a tenant finish (R391 index 11). -/
def finishModules (s : State) : List Byte :=
  ((List.range 256).filter (fun k => running s (fSwarm k) && rd s (Reg.SWARM.SWARM_DEF.FINISH_KIND k) == 2)).flatMap
    (fun k => leBytes 1 k ++ (fnImage s (fSwarm k)).digest)

/-- Measurement `i` of the present state (R391). -/
def measurement (s : State) (i : Nat) : List Byte :=
  match i with
  | 1 => Config.digest 384 (Config.firmwareBytes 2)
  | 2 => Config.digest 384 (runningComponent s 1)
  | 3 => Config.digest 384 (runningComponent s 2)
  | 4 => Config.digest 384 (runningComponent s 3)
  | 5 => Config.digest 384 (runningComponent s 4)
  | 6 => Config.digest 384 (runningComponent s 5)
  | 7 => Config.digest 384 (runningComponent s 6)
  | 8 => Config.digest 384 (match s.fw.config with | some c => flashRdN s (configBase c) (configLen s c + 4) | none => [])
  | 9 => versionRecord s
  | 10 => Config.digest 384 (hardwareConfig s)
  | 11 => Config.digest 384 (finishModules s)
  | 12 => leBytes 4 (rd s Reg.SECURITY.LINK_KEY_GEN.GEN_NEW) ++ leBytes 4 (rd s Reg.SECURITY.LINK_KEY_GEN.GEN_OLD)
  | _ => []

/-- The DMTF value type of measurement `i` (R391): 0 immutable ROM, 1 mutable firmware, 2 hardware and 3 firmware configuration, with bit 7 for a
raw bit stream (PRESUMED, log entry 67). -/
def measurementType (i : Nat) : Nat :=
  if i = 1 then 0 else if i ≤ 7 then 1 else if i = 10 then 2 else if i = 9 ∨ i = 12 then 0x83 else 3

/-- The DMTF measurement block of measurement `i`: index, specification, size, then type, size and value. -/
def measurementBlock (s : State) (i : Nat) : List Byte :=
  let v := measurement s i
  leBytes 1 i ++ leBytes 1 1 ++ leBytes 2 (v.length + 3) ++ leBytes 1 (measurementType i) ++ leBytes 2 v.length ++ v

/-- The measurements that an index asks for: one, or all with 0xFF; index 0 asks for their number only. -/
def measurements (s : State) (i : Nat) : List Byte :=
  ((List.range 12).filter (fun k => i == 0xFF || i == k + 1)).flatMap (fun k => measurementBlock s (k + 1))

/-- A signed answer, or an error where the identity cannot sign. -/
def signedReply (s : State) (v : SpdmWay) (code : Nat) (fields : List Nat) (data nonce : List Byte) : State :=
  match signIdentity s (nonce ++ data) with
  | some (sig, t) => spdmReply t v code fields (data ++ sig)
  | none => spdmError (leafReady s) v 0x05

/-- CHALLENGE (R390). -/
def execChallenge (v : SpdmWay) (slot : BitVec 4) (nonce : List Byte) (s : State) : Host.Outcome State Fault Refusal :=
  .next (
    if !wayUp s v then s
    else if !negotiated s v then spdmError s v 0x04
    else if slot ≠ 0 then spdmError s v 0x01
    else signedReply s v 0x03 [0] (measurements s 0xFF) nonce)

/-- GET_MEASUREMENTS (R391), signed where asked. -/
def execGetMeasurements (v : SpdmWay) (index : BitVec 8) (signed : Bool) (nonce : List Byte) (s : State) : Host.Outcome State Fault Refusal :=
  .next (
    if !wayUp s v then s
    else if !negotiated s v then spdmError s v 0x04
    else if 13 ≤ index.toNat ∧ index.toNat ≠ 0xFF then spdmError s v 0x01
    else if signed then signedReply s v 0x60 [index.toNat, 12] (measurements s index.toNat) nonce
    else spdmReply s v 0x60 [index.toNat, 12] (measurements s index.toNat))

/-- The session of a way. -/
def sessionOf (s : State) : SpdmWay → Option (List Byte)
  | .mctp => s.fw.session
  | .doe p f => findKey s.host.sessions (256 * p.val + f.toNat)
/-- The session of a way set up with a secret. -/
def setSession (s : State) (v : SpdmWay) (secret : List Byte) : State :=
  match v with
  | .mctp => { s with fw := { s.fw with session := some secret } }
  | .doe p f => { s with host := { s.host with sessions := setKey s.host.sessions (256 * p.val + f.toNat) secret } }

/-- KEY_EXCHANGE (R319, R390): a secured session bound to its way, with its export master secret. -/
def execKeyExchange (v : SpdmWay) (slot : BitVec 4) (nonce secret : List Byte) (s : State) : Host.Outcome State Fault Refusal :=
  .next (
    if !wayUp s v then s
    else if !negotiated s v then spdmError s v 0x04
    else if slot ≠ 0 then spdmError s v 0x01
    else
      match signIdentity s nonce with
      | some (sig, t) => trace (spdmReply (setSession t v secret) v 0x64 [] sig) 0 6 0x0700 (wayNo v) 0
      | none => spdmError (leafReady s) v 0x05)

/-! ### Link keys (R398) -/

/-- The AES-256-GCM key of the sealed key store (R387). -/
def sealingKey : Nat := ofLeBytes (shake32 (identitySeed ++ ascii "vovis seal"))
/-- A held generation and its key as bytes. -/
def keyBytes (k : Option (Nat × List Byte)) : List Byte := match k with | some x => leBytes 4 x.1 ++ padTo 32 x.2 | none => List.replicate 36 0
/-- The sealed key store written to flash: nonce, tag and the encrypted generations (R378, R387; the order is DESIGN CHOICE, log entry 67). What it
opens to stands in `sealedNew` and `sealedOld`. -/
def sealKeys (s : State) : State :=
  let n := Config.freeValue s.free % 2 ^ 96
  let c := Config.gcmSeal sealingKey n [] (keyBytes s.fw.rlkNew ++ keyBytes s.fw.rlkOld)
  flashWr { s with free := s.free + 1, fw := { s.fw with sealedNew := s.fw.rlkNew, sealedOld := s.fw.rlkOld } } 0x30000 (leBytes 12 n ++ leBytes 16 c.2 ++ c.1)

/-- LINK_KEY_GEN shows the generations held, and the sealed key store holds them where it is open. -/
def keysShow (s : State) : State :=
  let s := if rdb s Reg.SECURITY.IDENTITY_STATUS.SEALED_OK then sealKeys s else s
  wrs s [(Reg.SECURITY.LINK_KEY_GEN.GEN_NEW, (s.fw.rlkNew.map (·.1)).getD 0), (Reg.SECURITY.LINK_KEY_GEN.GEN_OLD, (s.fw.rlkOld.map (·.1)).getD 0)]

/-- The answer to a vendor-defined request: opcode, way, status and further words. -/
def vendorReply (s : State) (v : SpdmWay) (code status : Nat) (more : List Nat) : State := emitOut s (.mgmt protoSpdmVendor code ([wayNo v, status] ++ more) [])

/-- A link key request on a secured session: over MCTP, or the mailbox of the manager function; UNSUPPORTED on any other mailbox. -/
def keyRequest (s : State) (v : SpdmWay) (code : Nat) (f : State) : State :=
  if !wayUp s v || (sessionOf s v).isNone then s
  else
    match v with
    | .mctp => f
    | .doe p g => if p.val = mgrPort s ∧ g = 0 then f else vendorReply s v code 3 []

/-- LINK_KEY_SET (R398). -/
def execLinkKeySet (v : SpdmWay) (gen : BitVec 32) (key : BitVec 256) (s : State) : Host.Outcome State Fault Refusal :=
  .next (keyRequest s v 0x10 (
    if gen = 0 then vendorReply s v 0x10 2 []
    else vendorReply (keysShow { s with fw := { s.fw with rlkNew := some (gen.toNat, leBytes 32 key.toNat), rlkOld := s.fw.rlkNew } }) v 0x10 0 []))

/-- A held generation erased. -/
def eraseGen (g : Nat) (k : Option (Nat × List Byte)) : Option (Nat × List Byte) := match k with | some x => if x.1 = g then none else some x | none => none

/-- LINK_KEY_DROP (R398). -/
def execLinkKeyDrop (v : SpdmWay) (gen : BitVec 32) (s : State) : Host.Outcome State Fault Refusal :=
  .next (keyRequest s v 0x11
    (vendorReply (keysShow { s with fw := { s.fw with rlkNew := eraseGen gen.toNat s.fw.rlkNew, rlkOld := eraseGen gen.toNat s.fw.rlkOld } }) v 0x11 0 []))

/-- LINK_KEY_QUERY (R398). -/
def execLinkKeyQuery (v : SpdmWay) (s : State) : Host.Outcome State Fault Refusal :=
  .next (keyRequest s v 0x12
    (vendorReply s v 0x12 0 [rd s Reg.SECURITY.LINK_KEY_GEN.GEN_NEW, rd s Reg.SECURITY.LINK_KEY_GEN.GEN_OLD]))

end Sys2Proof.Machine
end

