-- ==== Sys2Proof/Machine/Power.lean ====
section
/-!
DEFINITION. Machine/Power.lean: the power loop (R405, R406), the junction limits (R407), the clamp (R408), the rails (R409, R428), the
crossings into the management domain (R414, R415), and the applied throttle level (R404).
-/
namespace Sys2Proof.Machine
open Sys2Proof

/-! ### Levels (R404) -/

/-- Eight or more junction sensors have failed (R407). -/
def sensorsLost (s : State) : Bool := decide (8 ≤ ((List.range 64).filter (fun i => bitAt (rd s Reg.POWER.SENSOR_FAIL.FAILED) i)).length)

/-- The applied level: the largest of LOOP_LEVEL, of CLAMP_LEVEL while the clamp is in force, and of HW_LEVEL; 31 while a rail limit holds it
there (R409) or the power core is held (R377, R408). -/
def appliedLevel (s : State) : Nat :=
  if s.pw.peak.isSome || !s.pw.rails.isEmpty || procState s 2 == 3 then 31
  else
    max (rd s Reg.POWER.POWER_STATUS.LOOP_LEVEL)
      (max (if rdb s Reg.POWER.POWER_STATUS.CLAMPED then rd s Reg.POWER.POWER_STATUS.CLAMP_LEVEL else 0) (rd s Reg.POWER.POWER_STATUS.HW_LEVEL))

/-- Whether the applied level was 31 over the whole of `[a, b)` (R406); it is 31 from reset on. -/
def wasDeep (s : State) (a b : Nat) : Bool :=
  let l := s.pw.deeps.filter (fun e => decide (e.1 < b))
  l.all (fun e => e.2 || decide (e.1 < a)) && (match l.find? (fun e => decide (e.1 ≤ a)) with | some e => e.2 | none => true)

/-- LEVEL brought up to date. -/
def showLevel (s : State) : State :=
  let l := appliedLevel s
  let was := match s.pw.deeps with | e :: _ => e.2 | [] => true
  let deeps := if was == (l == 31) then s.pw.deeps else (s.time.toNat, l == 31) :: s.pw.deeps
  wr { s with pw := { s.pw with deeps := deeps } } Reg.POWER.POWER_STATUS.LEVEL l

/-- A POWER record (R421). -/
def powerRecord (s : State) (cause outcome detA detB : Nat) : State := report s 468 0x0F cause outcome detA detB
/-- A THERMAL record (R421): the sensor and its reading in 1/8 °C. -/
def thermalRecord (s : State) (cause outcome sensor : Nat) (t : Int) : State := report s 469 0x10 cause outcome sensor (ofSigned 64 t)

/-! ### The power loop (R405, R406) -/

/-- The task number of the power loop, and its period: 32 ticks. -/
def loopTask : Nat := 1
/-- The period of the power loop. -/
def loopPeriod : Nat := 131072

/-- The effective cap for a thermal cap. -/
def capOf (s : State) (thermal : Nat) : Nat := min (min (rd s Reg.POWER.RACK_CAP.RACK_CAP_W) (rd s Reg.POWER.POWER_CFG.HOST_CAP_W)) (min thermal 3000)

/-- The thermal cap after a window whose hottest reading is `t`, in 1/8 °C. -/
def thermalCap (old target : Nat) (t : Int) : Nat :=
  if (8 * target : Int) < t then max 500 (old - 100) else if t + 24 < 8 * target then min 3000 (old + 50) else old

/-- The goal of a step for mean power `p`. -/
def goalOf (s : State) (cap p last : Nat) : Nat :=
  let guard := rd s Reg.POWER.POWER_CFG.GUARD_W
  if cap < p + guard then max (cap - guard) (min last p - 200) else min (cap - guard) (last + rd s Reg.POWER.POWER_CFG.RAMP_UP_W)

/-- The shallowest level whose model power is at most `w`; 31 if none. The model is the power core's own (log entry 51). -/
def modelLevel (s : State) (w : Nat) : Nat := ((List.range 32).find? (fun l => decide (Config.levelPower s.free l ≤ w))).getD 31

/-- CAP_STATE of a step (R406). -/
def capState (cap p : Nat) (deep : Bool) : Nat := if p ≤ cap then 0 else if deep then 2 else 1

/-- How many nominal starts of loop steps have come by fabric time `t`: they lie a period apart, also while the power core does not run. -/
def loopStarts (s : State) (t : Nat) : Nat := (t + loopPeriod - taskNominal s loopTask % loopPeriod) / loopPeriod

/-- A nominal start of a loop step lies after fabric time `t`. -/
def stepSince (s : State) (t : Option Nat) : Bool := match t with | some t => decide (loopStarts s t < loopStarts s s.time.toNat) | none => false

/-- What ends at a nominal start: a peak-current hold, and the clamp once `FAST_CLAMP_N` has risen before it (R408, R409). -/
def stepHolds (s : State) (p : Nat) : State :=
  let s := if stepSince s s.pw.peak then { s with pw := { s.pw with peak := none } } else s
  let s := if stepSince s s.pw.rose then
      powerRecord (wr { s with pw := { s.pw with rose := none, ack := false } } Reg.POWER.POWER_STATUS.CLAMPED 0) 5 0 (rd s Reg.POWER.POWER_STATUS.CLAMP_LEVEL) p
    else s
  showLevel s

/-- The hottest reading of the samples stamped in `[a, b)`, with its sensor. -/
def maxTjIn (s : State) (a b : Nat) : Option (Nat × Int) :=
  (s.pw.maxTj.filter (fun e => decide (a ≤ e.1) && decide (e.1 < b))).foldl (fun m e =>
    match m with | some x => if x.2 < e.2.2 then some e.2 else m | none => some e.2) none

/-- The thermal cap of the step whose window is `[n - p, n)`, with TARGET_EXCEEDED when it first falls below 3,000 W (R405, R421). -/
def stepThermal (s : State) (n : Nat) : State :=
  let old := rd s Reg.POWER.POWER_STATUS.THERMAL_CAP_W
  match maxTjIn s (n - loopPeriod) n with
  | none => s
  | some (i, t) =>
    let new := thermalCap old (rd s Reg.POWER.THERM_CFG.TARGET_C) t
    let s := wr s Reg.POWER.POWER_STATUS.THERMAL_CAP_W new
    if old = 3000 ∧ new < 3000 then thermalRecord s 3 0 i t else s

/-- LOOP_LEVEL and CLAMP_LEVEL of the step: 31 until the power core has run 4 steps (R404). -/
def stepLevels (s : State) (goal : Nat) : State :=
  let w := rd s Reg.POWER.CLAMP_CFG.CLAMP_W
  let n := min 4 (s.pw.steps + 1)
  let s := { s with pw := { s.pw with steps := n, lastGoal := some goal } }
  if n < 4 then s
  else
    takeFree (wrs s [(Reg.POWER.POWER_STATUS.LOOP_LEVEL, modelLevel s goal),
      (Reg.POWER.POWER_STATUS.CLAMP_LEVEL, if w = 0 then 31 else modelLevel s w)])

/-- CAP_STATE after the step: each change is recorded, and steps over the cap are counted. -/
def stepCapState (s : State) (cap p st : Nat) : State :=
  let old := rd s Reg.POWER.POWER_STATUS.CAP_STATE
  let s := wr s Reg.POWER.POWER_STATUS.CAP_STATE st
  let s := if st = 1 then cnt s Reg.POWER.POWER_COUNT.CHASING_STEPS else if st = 2 then cnt s Reg.POWER.POWER_COUNT.UNREACHABLE_STEPS else s
  if st = old then s else powerRecord s (if st = 0 then 3 else st) 0 cap p

/-- One loop step of the power core for mean power `p`, of nominal start `n` (R405): its window is `[n - 131,072, n)`, however late it runs
(R98). -/
def loopStep (s : State) (n p : Nat) : State :=
  let st := fun cap => capState cap p (wasDeep s (n - loopPeriod) n)
  let last := s.pw.lastGoal.getD (3000 - rd s Reg.POWER.POWER_CFG.GUARD_W)
  let s := stepThermal s n
  let cap := capOf s (rd s Reg.POWER.POWER_STATUS.THERMAL_CAP_W)
  let goal := goalOf s cap p last
  let s := stepLevels s goal
  let s := wrs s [(Reg.POWER.POWER_STATUS.EFFECTIVE_CAP_W, cap), (Reg.POWER.POWER_STATUS.POWER_W, p)]
  let s := stepCapState s cap p (st cap)
  let s := { s with pw := { s.pw with
    maxTj := s.pw.maxTj.filter (fun e => decide (n ≤ e.1)), deeps := s.pw.deeps.takeWhile (fun e => decide (n < e.1)) ++ (s.pw.deeps.find? (fun e => decide (e.1 ≤ n))).toList } }
  trace (showLevel s) 2 4 0x0500 (packBits [(0, 32, p), (32, 32, cap)])
    (packBits [(0, 32, goal), (32, 5, rd s Reg.POWER.POWER_STATUS.LOOP_LEVEL), (37, 5, rd s Reg.POWER.POWER_STATUS.CLAMP_LEVEL), (42, 2, st cap)])

/-- POWER_LOOP_STEP (R405), with the mean power of its window. While the power core does not run, only the holds of the hardware end. -/
def execPowerLoopStep (p : BitVec 12) (s : State) : Host.Outcome State Fault Refusal :=
  let s := stepHolds s p.toNat
  .next (if taskDue s loopTask loopPeriod && procState s 2 == 1 then loopStep (taskRun s loopTask loopPeriod) (taskNominal s loopTask) p.toNat else s)

/-! ### The clamp (R408) -/

/-- The clamp in force, once the management domain has left reset: CLAMPED and `CLAMP_ACK`. -/
def clampOn (s : State) : State :=
  if rdb s Reg.POWER.POWER_STATUS.CLAMPED then { s with pw := { s.pw with rose := none } }
  else
    let s := cnt (wr { s with pw := { s.pw with rose := none, ack := true } } Reg.POWER.POWER_STATUS.CLAMPED 1) Reg.POWER.POWER_COUNT.CLAMP_EVENTS
    showLevel (powerRecord s 4 0 (rd s Reg.POWER.POWER_STATUS.CLAMP_LEVEL) (rd s Reg.POWER.POWER_STATUS.POWER_W))

/-- CLAMP_ASSERT (R408): `FAST_CLAMP_N` has been low for 100 ns. During a reset nothing follows until its end (R417). -/
def execClampAssert (s : State) : Host.Outcome State Fault Refusal :=
  let s := { s with pw := { s.pw with clampLow := true } }
  .next (if s.fw.phase = 0 then s else clampOn s)

/-- CLAMP_RELEASE (R408): `FAST_CLAMP_N` has been high for 100 ns; the clamp ends at the next nominal start of a loop step. -/
def execClampRelease (s : State) : Host.Outcome State Fault Refusal :=
  let s := { s with pw := { s.pw with clampLow := false } }
  .next (if rdb s Reg.POWER.POWER_STATUS.CLAMPED then { s with pw := { s.pw with rose := some s.time.toNat } } else s)

/-! ### The junction limits (R407) -/

/-- A reading that counts: the sensor converts and reads from −40 °C to 150 °C, in 1/8 °C. -/
def readingOk (r : Option Int) : Option Int := match r with | some t => if -320 ≤ t ∧ t ≤ 1200 then some t else none | none => none

/-- A sensor's sample: excluded at its first reading out of range, with a record of its last reading. -/
def sampleOne (s : State) (e : Option Int × Nat) : State :=
  let i := e.2
  let f := rd s Reg.POWER.SENSOR_FAIL.FAILED
  if bitAt f i then s
  else
    match readingOk e.1 with
    | some t => { s with pw := { s.pw with last := setKey s.pw.last i t } }
    | none => thermalRecord (wr s Reg.POWER.SENSOR_FAIL.FAILED (f + 2 ^ i)) 5 3 i (e.1.getD ((findKey s.pw.last i).getD 0))

/-- The hottest valid sensor of a sample, with its reading. -/
def hottest (s : State) (l : List (Option Int)) : Option (Nat × Int) :=
  l.zipIdx.foldl (fun b (e : Option Int × Nat) =>
    if bitAt (rd s Reg.POWER.SENSOR_FAIL.FAILED) e.2 then b
    else
      match readingOk e.1, b with
      | some t, some x => if x.2 < t then some (e.2, t) else b
      | some t, none => some (e.2, t)
      | none, _ => b) none

/-- HW_LEVEL of the next tick: up at 105.0 °C, down at 102.0 °C, 31 with too few sensors. -/
def hwNext (s : State) (hot : Option (Nat × Int)) : Nat :=
  let l := rd s Reg.POWER.POWER_STATUS.HW_LEVEL
  if sensorsLost s then 31
  else
    match hot with
    | some (_, t) => if 840 ≤ t then min 31 (l + 1) else if t ≤ 816 then l - 1 else l
    | none => l

/-- The thermal trip: `THERMTRIP_N` falls, with a THERMAL record in the on-chip log only. -/
def thermTrip (s : State) (i : Nat) (t : Int) : State :=
  if s.pw.tripped then s
  else
    let e : PendErr := { time := s.time.toNat, cls := 0x10, cause := 4, outcome := 5, detA := i, detB := ofSigned 64 t, count := 1 }
    let n := errRecord s 469 e false
    logRecord { s with pw := { s.pw with tripped := true }, err := { s.err with seq := (s.err.seq + 1) % 2 ^ 32 } } n

/-- The levels and the status after a sample whose hottest reading is `hot`. -/
def sampleLevel (s : State) (hot : Option (Nat × Int)) : State :=
  let old := rd s Reg.POWER.POWER_STATUS.HW_LEVEL
  let new := hwNext s hot
  let h := hot.getD (0, 0)
  let s := wrs s [(Reg.POWER.POWER_STATUS.HW_LEVEL, new), (Reg.POWER.POWER_STATUS.HW_THROTTLE, b2n (decide (0 < new)))]
  let s := if 0 < new then cnt s Reg.POWER.POWER_COUNT.HW_THROTTLE_TICKS else s
  let s := if old = 0 ∧ 0 < new then thermalRecord s 1 0 h.1 h.2 else if 0 < old ∧ new = 0 then thermalRecord s 2 0 h.1 h.2 else s
  showLevel s

/-- The hottest reading of a sample kept for its loop step, MAX_TJ and MAX_SENSOR. -/
def sampleMax (s : State) (i : Nat) (t : Int) : State :=
  wrs { s with pw := { s.pw with maxTj := s.pw.maxTj ++ [(s.time.toNat, (i, t))] } } [(Reg.POWER.TEMP_STATUS.MAX_TJ, t.toNat), (Reg.POWER.TEMP_STATUS.MAX_SENSOR, i)]

/-- JUNCTION_SAMPLE (R407): the 64 sensors at a tick, in 1/8 °C, `none` where one does not convert; one sample counts in each tick. -/
def execJunctionSample (l : List (Option Int)) (s : State) : Host.Outcome State Fault Refusal :=
  .next (
    if s.pw.sampled == some (tickNo s) then s
    else
      let l := (List.range 64).map (fun i => l.getD i none)
      let s := { s with pw := { s.pw with sampled := some (tickNo s) } }
      let s := l.zipIdx.foldl sampleOne s
      let hot := hottest s l
      let s := sampleLevel s hot
      match hot with
      | some (i, t) => let s := sampleMax s i t
                       if 944 ≤ t then thermTrip s i t else s
      | none => s)

/-! ### Rails (R409, R428) -/

/-- The peak limit of a rail in A. -/
def railPeak (r : Nat) : Nat := [3600, 520, 340, 104, 340, 650, 26, 156, 4].getD r 0
/-- The window of a rail in mV. -/
def railWindow (r : Nat) : Nat × Nat :=
  [(665, 735), (713, 787), (855, 945), (1140, 1260), (998, 1102), (380, 420), (1710, 1890), (713, 787), (1710, 1890)].getD r (0, 0)

/-- PEAK_CURRENT (R409): a rail above its limit for 1 µs. -/
def execPeakCurrent (rail : Fin 9) (amps : BitVec 16) (s : State) : Host.Outcome State Fault Refusal :=
  .next (if railPeak rail < amps.toNat then
      showLevel (powerRecord { s with pw := { s.pw with peak := some s.time.toNat } } 6 2 rail amps.toNat)
    else s)

/-- RAIL_WINDOW (R409): a rail leaves its window. -/
def execRailWindow (rail : Fin 9) (mv : BitVec 16) (s : State) : Host.Outcome State Fault Refusal :=
  let w := railWindow rail
  .next (if (mv.toNat < w.1 ∨ w.2 < mv.toNat) ∧ !s.pw.rails.contains rail.val then
      showLevel (powerRecord { s with pw := { s.pw with rails := rail.val :: s.pw.rails } } 7 2 rail mv.toNat)
    else s)

/-- RAIL_WINDOW_RETURN (R409). -/
def execRailWindowReturn (rail : Fin 9) (s : State) : Host.Outcome State Fault Refusal :=
  .next (showLevel { s with pw := { s.pw with rails := s.pw.rails.filter (fun r => r != rail.val) } })

/-! ### Crossings (R414, R415) -/

/-- GPIO_INPUT_EDGE (R414): the level at a pin after an edge, or more than 255 edges between two samples, whose excess is lost. -/
def execGpioInputEdge (pin : Fin 16) (high lost : Bool) (s : State) : Host.Outcome State Fault Refusal :=
  let s := wrb s (Reg.MGMT.GPIO_CTL.IN pin) high
  .next (if lost then cdcLost s 5 else s)

/-- CDC_RESYNC (R415): the handshakes after a reset are done, but for those of a side that is still in reset: the pointers are set again, and the
queues resume with every entry that was written and not yet read. -/
def execCdcResync (s : State) : Host.Outcome State Fault Refusal :=
  .next (if s.fw.phase = 0 then s
    else { s with pw := { s.pw with cdc := s.pw.cdc.filter (fun d => (d == 8 || d == 9) && rdb s (Reg.HOSTPORT.LINK_STATUS.PERST (d - 8))) } })

end Sys2Proof.Machine
end

