-- ==== Sys2Proof/Machine/Reset.lean ====
section
/-!
DEFINITION. Machine/Reset.lean: the cold and the warm reset (R416, R417) and the start of the boot (R385, R386).
-/
namespace Sys2Proof.Machine
open Sys2Proof

/-! ### What a warm reset keeps (R416) -/

/-- A bit address lies `r` above that of the first field of a family with these dimensions (count and stride in bytes). -/
def inFamily : List (Nat × Nat) → Nat → Bool
  | [], r => r == 0
  | (c, st) :: l, r => decide (r / (8 * st) < c) && inFamily l (r % (8 * st))

/-- Bit address `k` is that of a field of the family that begins with `f`. -/
def isFamily (f : Fld) (dims : List (Nat × Nat)) (k : Nat) : Bool := decide (f.key ≤ k) && inFamily dims (k - f.key)

/-- The single fields kept: the rack cap, the manager port, RESET_STATUS, the identity and the count of molts. -/
def keptFields : List Fld :=
  [Reg.POWER.RACK_CAP.RACK_CAP_W, Reg.HOSTPORT.MGR_CTL.MGR_PORT, Reg.POWER.RESET_STATUS.LAST_RESET, Reg.POWER.RESET_STATUS.WARM_COUNT,
   Reg.SECURITY.IDENTITY_STATUS.IDENTITY_OK, Reg.SECURITY.IDENTITY_STATUS.IDENTITY_EXHAUSTED, Reg.SECURITY.IDENTITY_STATUS.SEALED_OK,
   Reg.SECURITY.MOLT_STATUS.MOLT_COUNT, Reg.MGMT.FW_LOG_STATUS.NEXT_SEQ, Reg.GLOBAL.LOG_STATUS.FIRST_FILLED, Reg.GLOBAL.LOG_STATUS.LAST_NEXT,
   Reg.GLOBAL.LOG_STATUS.LAST_WRAPPED, Reg.GLOBAL.LOG_STATUS.TOTAL]

/-- The families of fields kept whole: both logs, the donors and last faults of the retired channels, and what counts from cold reset. -/
def keptFamilies : List (Fld × List (Nat × Nat)) :=
  [(Reg.GLOBAL.ERR_LOG.WORD 0 0, [(256, 64), (8, 8)]), (Reg.MGMT.FW_LOG.WORD 0 0, [(8192, 32), (4, 8)]),
   (Reg.HBM.PC_STATUS.DONOR_A 0 0, [(24, 0x10000), (64, 8)]), (Reg.HBM.PC_STATUS.DONOR_B 0 0, [(24, 0x10000), (64, 8)]),
   (Reg.HBM.PC_STATUS.LAST_FAULT 0 0, [(24, 0x10000), (64, 8)]), (Reg.PORT.LANE_STATUS.LAST_FAULT 0 0, [(128, 0x4000), (8, 8)]),
   (Reg.CLUSTER.PHYS_CELL.LAST_FAULT 0 0, [(48, 0x10000), (132, 8)]), (Reg.CLUSTER.PHYS_CELL.CE_COUNT 0 0, [(48, 0x10000), (132, 8)]),
   (Reg.CLUSTER.PHYS_CELL.UE_COUNT 0 0, [(48, 0x10000), (132, 8)]), (Reg.CLUSTER.CL_STATUS.SWAPS 0, [(48, 0x10000)]),
   (Reg.CLUSTER.CELL_MAP.REMAPS 0 0, [(48, 0x10000), (128, 4)]), (Reg.GLOBAL.FUNC_DIAG.DRYFIT_COUNT 0, [(512, 16)]),
   (Reg.PORT.LINK_STATUS.LINK_UPS 0 0, [(128, 0x4000), (2, 8)]), (Reg.HOSTPORT.LINK_STATUS.LINK_DOWNS 0, [(2, 0x20)]),
   (Reg.SECURITY.PROC_STATUS.RESTARTS 0, [(52, 8)])]

/-- A retirement kept: RETIRED cells, lane pairs, pseudo-channels and PORTs stay so (R350), and those that were migrating are RETIRED. -/
def keptRetirement (k v : Nat) : Option Nat :=
  if isFamily (Reg.CLUSTER.PHYS_CELL.STATE 0 0) [(48, 0x10000), (132, 8)] k then (if v = 4 ∨ v = 5 then some 5 else none)
  else if isFamily (Reg.PORT.LANE_STATUS.STATE 0 0) [(128, 0x4000), (8, 8)] k then (if v = 5 then some 5 else none)
  else if isFamily (Reg.GLOBAL.FUNC_STATUS.STATE 0) [(128, 0x10)] k then (if v = 5 then some 5 else none)
  else if isFamily (Reg.HBM.PC_STATUS.STATE 0 0) [(24, 0x10000), (64, 8)] k then (if v = 2 ∨ v = 3 then some 3 else none)
  else none

/-- What a warm reset makes of a register entry. -/
def keptEntry (e : Nat × Nat) : Option (Nat × Nat) :=
  if keptFields.any (fun f => f.key == e.1) || keptFamilies.any (fun f => isFamily f.1 f.2 e.1) then some e
  else (keptRetirement e.1 e.2).map (fun v => (e.1, v))

/-- The contents of HBM after a warm reset: every byte that was written holds an undefined value. -/
def scramble (l : List Host.Cell) (k : Nat) : List Host.Cell :=
  l.zipIdx.foldl (fun m (e : Host.Cell × Nat) => putKey m e.1.1 hbmDefault (BitVec.ofNat 8 (Config.freeValue (k + e.2)))) []

/-! ### The resets -/

/-- The boot begins (R385): fabric time counts from 0; after cold reset stage 1 runs, after warm reset it is skipped; under HOLD the ROM halts
before stage 2 (R386). The clamp acts where its pin is low (R417). -/
def bootBegin (s : State) : State :=
  let hold := rd s Reg.SECURITY.BOOT_STATUS.BOOT_SRC = 3
  let s := { s with time := 0, fw := { s.fw with phase := 1 } }
  let s := if s.fw.cold then wr s Reg.SECURITY.BOOT_STATUS.STAGE 1
    else if hold then wr { s with fw := { s.fw with phase := 2 } } Reg.SECURITY.BOOT_STATUS.HALTED 1
    else wr s Reg.SECURITY.BOOT_STATUS.STAGE 2
  let s := trace s 0 0 0x0100 (rd s Reg.SECURITY.BOOT_STATUS.STAGE) 0
  if s.pw.clampLow then clampOn s else s

/-- The cold reset: everything, but the flash with the sealed key store. -/
def coldReset (s : State) : State :=
  { State.reset with
    free := s.free, out := s.out, pending := s.pending,
    fw := { State.reset.fw with flash := s.fw.flash, sealedNew := s.fw.sealedNew, sealedOld := s.fw.sealedOld },
    pw := { State.reset.pw with clampLow := s.pw.clampLow } }

/-- The warm reset, by cause: 1 `RESET_N`, 2 RESET_CMD. -/
def warmReset (s : State) (cause : Nat) : State :=
  let r : State := { State.reset with
    regs := s.regs.filterMap keptEntry, now := s.now, free := s.free + s.hbm.length, out := s.out, pending := s.pending, hbm := scramble s.hbm s.free,
    fw := { State.reset.fw with flash := s.fw.flash, sealedNew := s.fw.sealedNew, sealedOld := s.fw.sealedOld, cold := false },
    host := { State.reset.host with mgrDown := some s.now },
    pw := { State.reset.pw with clampLow := s.pw.clampLow, tripped := s.pw.tripped, last := s.pw.last, cdc := List.range 11 } }
  let r := wrs r [(Reg.SECURITY.BOOT_STATUS.BOOT_SRC, rd s Reg.SECURITY.BOOT_STATUS.BOOT_SRC), (Reg.POWER.POWER_STATUS.LEVEL, 31)]
  let r := cnt (wr r Reg.POWER.RESET_STATUS.LAST_RESET cause) Reg.POWER.RESET_STATUS.WARM_COUNT
  let r := (List.range 24).foldl retiredPcs (reserveLeft r)
  (List.range 48).foldl clStatus (dirShow r)

/-- PWR_GOOD_FALL (R416): a cold reset, during any reset too. -/
def execPwrGoodFall (s : State) : Host.Outcome State Fault Refusal := .next (coldReset s)

/-- RESET_N_ASSERT (R416, R417): a warm reset; one under way goes on until `RESET_N` rises. -/
def execResetNAssert (s : State) : Host.Outcome State Fault Refusal := .next (if s.fw.phase = 0 then s else warmReset s 1)

/-- RESET_N_RELEASE (R385, R418): the straps are sampled, `MGR_PORT` after cold reset only, and the boot begins. -/
def execResetNRelease (bootSrc : BitVec 2) (mgr : Bool) (s : State) : Host.Outcome State Fault Refusal :=
  .next (if s.fw.phase ≠ 0 then s
    else
      let s := wr s Reg.SECURITY.BOOT_STATUS.BOOT_SRC bootSrc.toNat
      bootBegin (if s.fw.cold then wrb s Reg.HOSTPORT.MGR_CTL.MGR_PORT mgr else s))

/-- RESET_CMD.WARM written by a writer of R32 (R417): a warm reset that ends by itself. -/
def resetCmd (s : State) (w : Writer) : State :=
  if !w.privileged then regError s w 0x1200048 4 true 5
  else if s.fw.phase = 0 then s
  else bootBegin (warmReset s 2)

/-- RESET_CMD_WARM (R417). -/
def execResetCmdWarm (w : Writer) (s : State) : Host.Outcome State Fault Refusal := .next (resetCmd s w)

end Sys2Proof.Machine
end

