-- ==== Sys2Proof/Machine/Ticks.lean ====
section
/-!
DEFINITION. Machine/Ticks.lean: fabric time (R90 to R95), general timers (GTIMER, R99) and snapshots (R15, R412).
-/
namespace Sys2Proof.Machine
open Sys2Proof

/-! ### Ticks -/

/-- TICK_START (R90): fabric time reaches the start of the next tick; after a thermal trip its clock has stopped (R407, R411). -/
def execTickStart (s : State) : Host.Outcome State Fault Refusal :=
  .next (if s.pw.tripped then s else newTick (passKerf (runOn s (4096 - s.time.toNat % 4096)) s.time.toNat))

/-! ### The time state (R93, R95) -/

/-- An exchange period: 8 ticks (R92). -/
def exchange : Nat := ticks 8

/-- REF_OK and LOCKED brought up to date. -/
def timeStatus (s : State) : State :=
  let ok := fun i => match findKey s.tick.refs i with | some r => decide (s.now < r.2 + 4 * exchange) | none => false
  wr (wrb s Reg.TICK.TIME_STATUS.LOCKED (s.tick.st == 2 || s.tick.st == 3)) Reg.TICK.TIME_STATUS.REF_OK (packBits ((List.range 4).map (fun i => (i, 1, b2n (ok i)))))

/-- The time state `st` entered; JIG_TABLE loses its dependency when fabric time is no longer locked (R95). A correction that is still to be
slewed in when LOCKED is left is dropped, on entering HOLDOVER too, where the rate is held (DESIGN CHOICE, log entry 59). -/
def setTimeState (s : State) (st : Nat) : State :=
  let was := decide (2 ≤ s.tick.st)
  let s := timeStatus { s with tick := { s.tick with st := st, slew := if st = 2 then s.tick.slew else 0 } }
  if was && decide (st < 2) && running s fJig then stopFn { s with fn := { s.fn with depLost := fJig :: s.fn.depLost } } fJig else s

/-- A TIME record (R360): cause 1 STEPPED, 2 ALIGN_ALARM, 3 HOLDOVER_EXPIRED. -/
def timeRecord (s : State) (cause : Nat) : State := report s 464 0x0C cause 0 (ofSigned 64 s.tick.offset) s.tick.st

/-- Every periodic task re-anchored: its next nominal start, that of a timer event that waits and the next firing of a general timer are the
next tick boundary of the new time (R94). The next map is that of the tick which begins there, at its kerf (R366; DEDUCED, log entry 59). -/
def reanchor (s : State) : State :=
  let t := nextBoundary s 4096
  { s with
    tick := { s.tick with
      tasks := s.tick.tasks.map (fun e => (e.1, (if e.1 = 0 then t + 3968 else t, none))), gtNext := s.tick.gtNext.map (fun e => (e.1, t / 4096)) }
    cells := { s.cells with timers := s.cells.timers.map (fun e => (e.1, e.2.map (fun x => (t, x.2)))) } }

/-- Fabric time stepped by the offset (R93), and every periodic task re-anchored (R94). What other references measured before the step stays
valid for its 4 exchange periods, and an offset that is no whole number of ftu steps time by the next lower whole number (DESIGN CHOICE, log
entry 59). -/
def stepTime (s : State) : State :=
  let t : Int := (s.time.toNat : Int) - s.tick.offset / 16
  let s := reanchor { s with time := BitVec.ofInt 64 t, tick := { s.tick with small := 0, large := 0, slew := 0 } }
  timeRecord (wr s Reg.TICK.TIME_STATUS.STEPPED 1) 1

/-- ALIGN_ALARM, and ACQUIRE (R93). -/
def alignAlarm (s : State) : State :=
  timeRecord (wr (setTimeState { s with tick := { s.tick with small := 0, large := 0 } } 1) Reg.TICK.TIME_STATUS.ALIGN_ALARM 1) 2

/-- |offset| is at most 4 ns: 6.4 ftu, in 1/16 ftu. -/
def within4 (o : Int) : Bool := decide (o.natAbs * 10 ≤ 1024)
/-- |offset| is at most 16 ns: 25.6 ftu. -/
def within16 (o : Int) : Bool := decide (o.natAbs * 10 ≤ 4096)

/-- A valid filtered offset, in 1/16 ftu, drives the time state (R93); while LOCKED it is slewed in (R94). -/
def validOffset (s : State) (o : Int) : State :=
  let s := { s with tick := { s.tick with offset := o, lastValid := s.now } }
  match s.tick.st with
  | 0 => stepTime (setTimeState s 1)
  | 1 =>
    if o.natAbs > 1024 then stepTime s
    else if within4 o then
      if 16 ≤ s.tick.small + 1 then setTimeState { s with tick := { s.tick with small := 0, large := 0, slew := -(o / 16) } } 2
      else { s with tick := { s.tick with small := s.tick.small + 1 } }
    else { s with tick := { s.tick with small := 0 } }
  | 2 =>
    if within16 o then { s with tick := { s.tick with large := 0, slew := -(o / 16) } }
    else if 4 ≤ s.tick.large + 1 then alignAlarm s
    else { s with tick := { s.tick with large := s.tick.large + 1, slew := -(o / 16) } }
  | _ =>
    if within16 o then setTimeState { s with tick := { s.tick with large := 0, slew := -(o / 16) } } 2
    else alignAlarm s

/-- UNSYNC with the offset filter cleared. -/
def unsync (s : State) : State := setTimeState { s with tick := { s.tick with refs := [], small := 0, large := 0, offset := 0 } } 0

/-! ### Time words (R91, R92) -/

/-- The median of the offsets, the mean of the two middle ones where their number is even (R92). -/
def median (l : List Int) : Int :=
  let m := l.mergeSort
  let n := m.length
  if n % 2 = 1 then m.getD (n / 2) 0 else (m.getD (n / 2 - 1) 0 + m.getD (n / 2) 0) / 2

/-- The references of TIME_REF_PORTS that are used and name port `p`. -/
def refsOf (s : State) (p : Nat) : List Nat :=
  (List.range 4).filter (fun i => rdb s (Reg.TICK.TIME_REF_PORTS.VALID i) && rd s (Reg.TICK.TIME_REF_PORTS.PORT i) == p)

/-- The valid offsets of the last 4 exchange periods. -/
def liveOffsets (s : State) : List Int := (s.tick.refs.filter (fun r => decide (s.now < r.2.2 + 4 * exchange))).map (fun r => r.2.1)

/-- A valid offset of the references `l`. -/
def refOffset (s : State) (l : List Nat) (o : Int) : State :=
  let s := l.foldl (fun s i => { s with tick := { s.tick with refs := setKey s.tick.refs i (o, s.now) } }) s
  timeStatus (validOffset s (median (liveOffsets s)))

/-- TIME_WORD_SEND (R92, R328): every 8 ticks on each link that carries frames. -/
def execTimeWordSend (h : BitVec 8) (s : State) : Host.Outcome State Fault Refusal :=
  let n := h.toNat
  let due := match findKey s.tick.sent n with | some t => decide (t + exchange ≤ s.now) | none => true
  let w := (findKey s.tick.words n).getD (0, 0)
  .next (if halfIs s n && (linkState s n == 2 || linkState s n == 3) && due then
      sendLcb { s with tick := { s.tick with sent := setKey s.tick.sent n s.now } } n 1
        (if rd s Reg.TICK.TIME_CFG.TIME_SRC = 0 then 1 else 0) s.time.toNat w.1 w.2
    else s)

/-- TIME_LCB_RECEIVE (R91, R92): the words of the peer are kept to be answered; an end-point-marked word on a reference port that echoes
one of ours gives an offset while TIME_SRC is LINK. -/
def execTimeLcbReceive (h : BitVec 8) (lcb : BitVec 256) (s : State) : Host.Outcome State Fault Refusal :=
  let n := h.toNat
  let a := bits lcb.toNat 32 64
  let b := bits lcb.toNat 96 64
  let c := bits lcb.toNat 160 64
  let t := s.time.toNat
  .next (
    if lcbIs lcb 1 && halfIs s n && (linkState s n == 2 || linkState s n == 3) then
      let s := { s with tick := { s.tick with words := setKey s.tick.words n (a, t) } }
      let o : Int := (((t : Int) - a) - ((c : Int) - b)) * 8
      if rd s Reg.TICK.TIME_CFG.TIME_SRC = 1 ∧ bits lcb.toNat 8 8 = 2 ∧ (b, c) ≠ (0, 0) ∧ refsOf s (n / 2) ≠ [] then refOffset s (refsOf s (n / 2)) o else s
    else s)

/-- TICK_IN_EDGE (R91): in PIN mode the edge marks a tick start, the nearest one; `lost` says that edges have been lost since the last sample
(R414). -/
def execTickInEdge (s : State) (lost : Bool := false) : Host.Outcome State Fault Refusal :=
  let s := wr (if lost then cdcLost s 6 else s) Reg.TICK.TICK_PIN_CFG.IN_EDGE_SEEN 1
  let d := s.time.toNat % 4096
  .next (if rd s Reg.TICK.TIME_CFG.TIME_SRC = 2 then timeStatus (validOffset s (16 * (if d < 2048 then (d : Int) else (d : Int) - 4096))) else s)

/-- TIME_REFERENCE_LOSS (R93): no valid offset for 4 exchange periods; the rate is held. -/
def execTimeReferenceLoss (s : State) : Host.Outcome State Fault Refusal :=
  .next (if s.tick.st = 2 ∧ rd s Reg.TICK.TIME_CFG.TIME_SRC ≠ 0 ∧ s.tick.lastValid + 4 * exchange ≤ s.now then
      setTimeState { s with tick := { s.tick with holdAt := s.now } } 3
    else timeStatus s)

/-- HOLDOVER_EXPIRED (R93): after HOLDOVER_US. -/
def execHoldoverExpired (s : State) : Host.Outcome State Fault Refusal :=
  .next (if s.tick.st = 3 ∧ s.tick.holdAt + us (rd s Reg.TICK.TIME_CFG.HOLDOVER_US) ≤ s.now then
      timeRecord (wr (setTimeState s 0) Reg.TICK.TIME_STATUS.HOLDOVER_EXPIRED 1) 3
    else s)

/-- A write of TIME_SRC (R93): MASTER is LOCKED at once, with no step; LINK and PIN start at UNSYNC. -/
def timeSrcWrite (s : State) (w : Writer) (src : Nat) (acc : Nat × Nat := (0x100000, 4)) : State :=
  if src = 3 then regError s w acc.1 acc.2 true 4
  else
    let s := wr { s with tick := { s.tick with loaded := true } } Reg.TICK.TIME_CFG.TIME_SRC src
    if src = 0 then setTimeState { s with tick := { s.tick with slew := 0, small := 0, large := 0 } } 2 else unsync s

/-- TIME_SRC_WRITE (R93). -/
def execTimeSrcWrite (w : Writer) (src : BitVec 2) (s : State) : Host.Outcome State Fault Refusal := .next (timeSrcWrite s w src.toNat)

/-- REACQUIRE written (R93): ignored while TIME_SRC is MASTER. -/
def reacquire (s : State) : State := if rd s Reg.TICK.TIME_CFG.TIME_SRC = 0 then s else unsync s

/-- REACQUIRE (R93). -/
def execReacquire (s : State) : Host.Outcome State Fault Refusal := .next (reacquire s)

/-! ### General timers -/

/-- The function that holds general timer `k`. -/
def timerHolder (s : State) (k : Nat) : Option Nat :=
  if rdb s (Reg.GLOBAL.CLAIM.HELD (0x20 + k)) then some (rd s (Reg.GLOBAL.CLAIM.HOLDER (0x20 + k))) else none

/-- The firing reaches its holder: a timer event on every cell of a CLUSTER, stamped with its expiry (R96, R142), the end of the pulse of
FIREFLY (R373). -/
def timerReaches (s : State) (f k : Nat) : State :=
  if fnType f = 2 then
    let cs := (List.range 128).map (fun l => 128 * fnInst f + l)
    { s with cells := { s.cells with timers := cs.foldl (fun t l => setKey t (32 * l + k) ((findKey t (32 * l + k)).getD [] ++ [(s.time.toNat, s.time.toNat)])) s.cells.timers } }
  else if f = fFf then wr s (Reg.MGMT.GPIO_CTL.OUT (rd s Reg.TELEMETRY.FF_CFG.PULSE_PIN)) 0
  else s

/-- GTIMER_FIRE: in its slot, PERIOD ticks after the last firing, while enabled and held by a RUNNING function. -/
def execGtimerFire (k : Fin 32) (s : State) : Host.Outcome State Fault Refusal :=
  let due := match findKey s.tick.gtNext k.val with | some t => decide (t ≤ tickNo s) | none => true
  .next (match timerHolder s k.val with
    | some f =>
      if rdb s (Reg.TICK.GTIMER.ENABLE k) && running s f && slotNo s == rd s (Reg.TICK.GTIMER.SLOT k) && due then
        let s := cnt s (Reg.TICK.GTIMER.FIRE_COUNT k)
        timerReaches { s with tick := { s.tick with gtNext := setKey s.tick.gtNext k.val (tickNo s + rd s (Reg.TICK.GTIMER.PERIOD k)) } } f k.val
      else s
    | none => s)

/-! ### Snapshots (R412) -/

/-- REQ, DONE and OVERRUN of a block's pair. -/
def snapFlds : SnapBlk → Fld × Fld × Fld
  | .time => (Reg.TICK.TIME_SNAP.REQ, Reg.TICK.TIME_SNAP.DONE, Reg.TICK.TIME_SNAP.OVERRUN)
  | .switch => (Reg.SWITCH.SNAP.REQ, Reg.SWITCH.SNAP.DONE, Reg.SWITCH.SNAP.OVERRUN)
  | .cluster n => (Reg.CLUSTER.CL_SNAP.REQ n, Reg.CLUSTER.CL_SNAP.DONE n, Reg.CLUSTER.CL_SNAP.OVERRUN n)
  | .endpoint e => (Reg.EP.EP_SNAP.REQ e, Reg.EP.EP_SNAP.DONE e, Reg.EP.EP_SNAP.OVERRUN e)
  | .hostport => (Reg.HOSTPORT.HP_SNAP.REQ, Reg.HOSTPORT.HP_SNAP.DONE, Reg.HOSTPORT.HP_SNAP.OVERRUN)
  | .port p => (Reg.PORT.PORT_SNAP.REQ p, Reg.PORT.PORT_SNAP.DONE p, Reg.PORT.PORT_SNAP.OVERRUN p)
  | .hbm m => (Reg.HBM.HBM_SNAP.REQ m, Reg.HBM.HBM_SNAP.DONE m, Reg.HBM.HBM_SNAP.OVERRUN m)

/-- The byte ranges of BAR0 that a pair covers (R15). -/
def snapRanges : SnapBlk → List (Nat × Nat)
  | .time => [(0x100018, 0x100028)]
  | .switch => [(0x200030, 0x200058)]
  | .cluster n => [(0x400028 + n * 0x10000, 0x400038 + n * 0x10000)]
  | .endpoint e => [(0x800020 + e * 0x100000, 0x800038 + e * 0x100000)]
  | .hostport => [(0xB00010, 0xB00050)]
  | .port p => [(0x20, 0x60), (0x100, 0x140), (0x200, 0x280), (0x300, 0x340)].map (fun r => (0xC00000 + p * 0x4000 + r.1, 0xC00000 + p * 0x4000 + r.2))
  | .hbm m => [(0x1000010 + m * 0x10000, 0x1000018 + m * 0x10000)]

/-- The pair covers the field at bit address `k`. -/
def snapCovers (b : SnapBlk) (k : Nat) : Bool := (snapRanges b).any (fun r => decide (8 * r.1 ≤ k) && decide (k < 8 * r.2))

/-- The source registers of a pair that are kept elsewhere in the state, brought up to date: fabric time, its offset and state, the
status of the packet buffer (R116, R122), and the ages of the keys of a port (R343). -/
def snapSource (s : State) : SnapBlk → State
  | .time => wrs s [(Reg.TICK.FABRIC_TIME_SNAP.TIME, s.time.toNat), (Reg.TICK.TIME_SNAP_INFO.OFFSET, ofSigned 16 s.tick.offset),
      (Reg.TICK.TIME_SNAP_INFO.STATE, s.tick.st)]
  | .port p => [0, 1].foldl (fun s i =>
      if linkState s (2 * p + i) = 3 then wr s (Reg.PORT.KEY_STATUS.KEY_AGE_S p i) ((s.now - (linkRun s (2 * p + i)).txAt) / secs 1) else s) s
  | .switch => bufStatus s
  | _ => s

/-- REQ of a pair written (R412). -/
def snapReq (s : State) (b : SnapBlk) : State :=
  let f := snapFlds b
  if rdb s f.1 then wr s f.2.2 1
  else { wrs s [(f.1, 1), (f.2.1, 0)] with snaps := setKey s.snaps f.1.key s.now }

/-- SNAPSHOT_REQ (R412). -/
def execSnapshotReq (b : SnapBlk) (s : State) : Host.Outcome State Fault Refusal := .next (snapReq s b)

/-- SNAPSHOT_DONE (R412): every register that the pair covers is copied in one source cycle, and DONE sets. -/
def execSnapshotDone (b : SnapBlk) (s : State) : Host.Outcome State Fault Refusal :=
  let f := snapFlds b
  .next (
    if !rdb s f.1 then s
    else
      let s := snapSource s b
      let new := (s.regs.filter (fun e => snapCovers b e.1)).foldl (fun h e => setKey h e.1 e.2) (s.hold.filter (fun e => !snapCovers b e.1))
      { wrs s [(f.1, 0), (f.2.1, 1)] with hold := new, snaps := delKey s.snaps f.1.key })

end Sys2Proof.Machine
end

