-- ==== Sys2Proof/Machine/RegAccess.lean ====
section
/-!
DEFINITION. Machine/RegAccess.lean: reads and writes of registers (R8, R10 to R15, R26, R27, R32, R301, R302, R439), and fabric register
access (R61).
-/
namespace Sys2Proof.Machine
open Sys2Proof

/-! ### Where a register lies (R25) -/

/-- The indices of the instance of a family that holds byte offset `r` above its base, and the instance's offset; the dimensions are first
index, count and stride. -/
def instanceAt : List (Nat × Nat × Nat) → Nat → Option (List Nat × Nat)
  | [], _ => some ([], 0)
  | (first, count, stride) :: l, r =>
    let i := r / stride
    if first ≤ i ∧ i < first + count then (instanceAt l (r % stride)).map (fun x => (i :: x.1, i * stride + x.2)) else none

/-- A register found: its map row, its indices and its byte address. -/
structure RegAt where
  desc : RegDesc
  ix : List Nat
  addr : Nat

/-- Register `d` where it holds byte address `a`. The eye scan exists on even ports only (R340). -/
def regHolds (a : Nat) (d : RegDesc) : Option RegAt :=
  if a < d.base then none
  else
    match instanceAt d.dims (a - d.base) with
    | some (ix, off) =>
      if a - d.base - off < d.width / 8 ∧ !((d.base = 0xC00400 ∨ d.base = 0xC00408) ∧ ix.getD 0 0 % 2 = 1) then some ⟨d, ix, d.base + off⟩ else none
    | none => none

/-- The register at byte address `a`; EP_B shows the context registers and the tenant epochs of EP_A. -/
def regFind (a : Nat) : Option RegAt :=
  match regMap.findSome? (regHolds a) with
  | some x => some x
  | none =>
    if 0x900000 ≤ a ∧ a < 0xA00000 then
      (regMap.filter (fun d => d.base == 0x810000 || d.base == 0x850000 || d.base == 0x870000)).findSome? (regHolds (a - 0x100000))
    else none

/-- Field `f` of a register found, as a name of the register file. -/
def RegAt.fld (x : RegAt) (f : FieldDesc) : Fld := ⟨8 * x.addr + f.lo, f.width, f.reset x.ix, f.wraps⟩

/-- The first bit of the register that byte address `a` names, in EP_B as in EP_A. -/
def RegAt.bitOf (x : RegAt) (a : Nat) : Nat := 8 * (a - (if a < x.addr + x.desc.width / 8 then x.addr else x.addr + 0x100000))

/-! ### Reads (R10, R12, R15) -/

/-- The block whose snapshot pair covers a byte address. -/
def snapBlkOf (a : Nat) : SnapBlk :=
  if a < 0x200000 then .time
  else if a < 0x400000 then .switch
  else if h : (a - 0x400000) / 0x10000 < 48 then .cluster ⟨(a - 0x400000) / 0x10000, h⟩
  else if a < 0xA00000 then .endpoint (if a < 0x900000 then 0 else 1)
  else if a < 0xC00000 then .hostport
  else if h : (a - 0xC00000) / 0x4000 < 128 then .port ⟨(a - 0xC00000) / 0x4000, h⟩
  else if h : (a - 0x1000000) / 0x10000 < 24 then .hbm ⟨(a - 0x1000000) / 0x10000, h⟩
  else .time

/-- Status fields that follow other state, brought up to date before a read. -/
def regRefresh (s : State) (x : RegAt) : State :=
  let i := x.ix.getD 0 0
  match x.desc.base with
  | 0x100008 => timeStatus s
  | 0x1000100 => pcCounts s (64 * i + x.ix.getD 1 0)
  | 0x1300100 => wrb s (Reg.MGMT.GPIO_CTL.IN i) (gpioLevel s i)
  | 0x850000 => ctxStatus s i
  | 0x8108 => stepStatus s
  | 0x8020 => ringFull s
  | 0x780060 => combNow s
  | _ => s

/-- What a read shows of one field: zero of a write-only field, the snapshot's copy of a snapshot register, else its value. -/
def fieldShown (s : State) (x : RegAt) (f : FieldDesc) : Nat :=
  if f.access = .wo then 0
  else if x.desc.snap then (findKey s.hold (x.fld f).key).getD (x.fld f).reset
  else rd s (x.fld f)

/-- A register of the second half of a port that is not split, which reads as zero (R331). -/
def halfAbsent (s : State) (x : RegAt) : Bool :=
  (x.desc.base == 0xC00020 || x.desc.base == 0xC00030 || x.desc.base == 0xC00040) && x.ix.getD 1 0 == 1 && !isSplit s (x.ix.getD 0 0)

/-- The register's value as a read shows it. A register that is read through a request and done pair has, while DONE is clear, a value of no
defined relation to the hardware (R15): its defined fields are free, and its reserved bits read zero (R12). TEL_CNT_VALUE is such a register,
with the DONE of TEL_CNT_SEL (DEDUCED, log entry 22). -/
def regShown (s : State) (x : RegAt) : Nat × State :=
  if halfAbsent s x then (0, s)
  else if (x.desc.snap && !rdb s (snapFlds (snapBlkOf x.addr)).2.1) || (x.desc.base == 0xF00028 && !rdb s Reg.TELEMETRY.TEL_CNT_SEL.DONE) then
    (packBits (x.desc.fields.map (fun f => (f.lo, f.width, bits (peekFree s) f.lo f.width))), takeFree s)
  else (packBits (x.desc.fields.map (fun f => (f.lo, f.width, fieldShown s x f))), s)

/-- Bits `[lo, lo + w)` and `[lo', lo' + w')` meet. -/
def meets (lo w lo' w' : Nat) : Bool := decide (lo < lo' + w') && decide (lo' < lo + w)

/-- A read clears the RC fields that it returns (R10); a read of JIG_COUNT[j], of either half, clears both its fields. -/
def clearRead (s : State) (x : RegAt) (lo n : Nat) : State :=
  x.desc.fields.foldl (fun s f => if f.access = .rc && (x.desc.base == 0x150000 || meets f.lo f.width lo n) then wr s (x.fld f) (x.fld f).reset else s) s

/-- `n` bits of one register read at once (R14), from byte address `a` on. -/
def readAt (s : State) (x : RegAt) (a n : Nat) : Nat × State :=
  let r := regShown (regRefresh s x) x
  let lo := x.bitOf a
  (bits r.1 lo n, clearRead r.2 x lo n)

/-- One dword read at byte address `a`: zero where no register lies (R26). -/
def readDword (s : State) (a : Nat) : Nat × State :=
  match regFind a with
  | none => (0, s)
  | some x => readAt s x a 32

/-! ### Writes (R8, R10, R12, R439) -/

/-- A field is writable in the present state (R10, R439). The condition that HBM_PART states under SIZE holds for BASE too (DEDUCED, log entry
21). -/
def guardOpen (s : State) (x : RegAt) : Guard → Bool
  | .always => true
  | .func f => stopped s (f x.ix)
  | .portsStopped => (List.range 128).all (fun p => fnState s p == 0 || fnState s p == 5)
  | .partFree =>
    (List.range 463).all (fun n => fnType n == 1 || fnType n == 3 || fnState s n == 0 || fnState s n == 4 || fnState s n == 5) &&
      !(x.ix == [4] && rdb s Reg.SECURITY.BOOT_STATUS.LOCK)
  | .clustersStopped => (List.range 48).all (fun n => let st := fnState s (fCluster n); st == 0 || st == 4 || st == 5)
  | .ctx => !ctxOn s (x.ix.getD 0 0)
  | .exportEntry => !rdb s ⟨8 * x.addr, 1, 0, false⟩
  | .window => !rdb s ⟨8 * x.addr, 1, 0, false⟩
  | .vfMap => !(rdb s ⟨8 * x.addr + 12, 1, 0, false⟩ && ctxOn s (rd s ⟨8 * x.addr, 12, 0, false⟩))
  | .errRing => !rdb s Reg.GLOBAL.ERR_RING_CFG.ENABLE

/-- A value that a field accepts (R8, R12). A field whose description names values without "default, range" accepts every value, such as TC of
WIN and VF_WIN and the ring sizes of CTX (DEDUCED, log entry 21). -/
def accepts (v : Nat) : Allow → Bool
  | .any => true
  | .range lo hi => decide (lo ≤ v) && decide (v ≤ hi)
  | .oneOf l => l.contains v
  | .reserved l => !l.contains v

/-- The register as a write makes it: bits `[lo, lo + n)` of the present value replaced. -/
def mergeBits (cur lo n v : Nat) : Nat := cur % 2 ^ lo + (v % 2 ^ n) * 2 ^ lo + cur / 2 ^ (lo + n) * 2 ^ (lo + n)

/-- One field written under its access code; the first error of the access is kept. -/
def writeField (x : RegAt) (lo n new : Nat) (open_ : FieldDesc → Bool) (r : State × Option Nat) (f : FieldDesc) : State × Option Nat :=
  if !meets f.lo f.width lo n then r
  else
    let k := x.fld f
    let v := bits new f.lo f.width
    let cur := rd r.1 k
    match f.access with
    | .rw | .rwg =>
      if !open_ f then (r.1, if v = cur then r.2 else some (r.2.getD 3))
      else if accepts v f.allow then (wr r.1 k v, r.2)
      else (r.1, some (r.2.getD 4))
    | .w1c => (wr r.1 k (cur &&& (2 ^ f.width - 1 - v)), r.2)
    | _ => r

/-- The present value of a register as a partial write finds it: the fields that a write replaces, and of words 0 to 2 of a BUNDLE entry the
holding copy (R115). -/
def regHeld (s : State) (x : RegAt) : Nat :=
  if x.desc.base = 0x204000 then
    let b := x.ix.getD 0 0
    packBits ((List.range 4).map (fun i => (64 * i, 64, if i < 3 then bundleHeld s b i else rd s (Reg.SWITCH.BUNDLE.MEMBERS b i))))
  else packBits (x.desc.fields.map (fun f => (f.lo, f.width, if f.access = .rw || f.access = .rwg then rd s (x.fld f) else 0)))

/-- A write to the fields of a register but those in `skip`, and its error report where it has one; `err` is an error already found. -/
def writeFields (s : State) (w : Writer) (x : RegAt) (off bytes lo new : Nat) (skip : List String) (err : Option Nat := none) : State :=
  let can := x.desc.fields.map (fun f => guardOpen s x f.guard)
  let r := (x.desc.fields.zip can).foldl (fun r (e : FieldDesc × Bool) =>
    if skip.contains e.1.name then r else writeField x lo (8 * bytes) new (fun _ => e.2) r e.1) (s, err)
  match r.2 with
  | some c => regError r.1 w off bytes true c
  | none => r.1

/-- The registers that only the writers of R32 write. -/
def privOnly (base : Nat) : Bool := [0x1004, 0x8100, 0x76C000, 0x1200000, 0x1200010, 0x1200048, 0x1400020].contains base

/-- The image that FUNC_CMD starts by register write: the stock image of the running program directory, and once step 1 of a molt has loaded
the new image, of the new one (R394). -/
def directoryImage (s : State) : Program :=
  .stock (if molting s && decide (2 ≤ rd s Reg.SECURITY.MOLT_STATUS.STEP) then imageVersion s (otherBank s) else rd s Reg.SECURITY.IMAGE_INFO.IMAGE_VERSION) 0 0

/-- A write to CTX[c] (R245, R305): ENABLE brings it into service or takes it out, and one that may not set it is ignored as a whole; only the
manager function writes EP_SEL, TENANT and FUNC. -/
def writeCtx (s : State) (w : Writer) (x : RegAt) (off bytes lo new : Nat) : State :=
  let c := x.ix.getD 0 0
  let own := if w = .manager then [] else ["EP_SEL", "TENANT", "FUNC"]
  let t := writeFields s w x off bytes lo new ("ENABLE" :: own)
  if !meets 0 1 lo (8 * bytes) then t
  else if !bitAt new 0 then ctxDisable t c
  else if !ctxOn s c && enableRefused t c then regError s w off bytes true 7
  else ctxEnable t w c

/-- A write to PORT_CFG of a host port: TOTAL_VFS is guarded while VF Enable is set too (R439). -/
def writeHostCfg (s : State) (w : Writer) (x : RegAt) (off bytes lo new : Nat) : State :=
  let i := x.ix.getD 0 0
  if stopped s (fHost i) && bits new 0 8 != rd s (Reg.HOSTPORT.PORT_CFG.TOTAL_VFS i) && (findKey s.host.numVfs i).isSome then
    writeFields s w x off bytes lo new ["TOTAL_VFS"] (some 3)
  else writeFields s w x off bytes lo new []

/-- A write to PORT_CFG of a fabric port: MIN_WIDTH 6 is not allowed when SPLIT is set. -/
def writePortCfg (s : State) (w : Writer) (x : RegAt) (off bytes lo new : Nat) : State :=
  let i := x.ix.getD 0 0
  if stopped s i && bits new 1 3 == 6 && bitAt new 0 && meets 1 3 lo (8 * bytes) then writeFields s w x off bytes lo new ["MIN_WIDTH"] (some 4)
  else writeFields s w x off bytes lo new []

/-- The bits of `new` within what was written. -/
def writtenBit (lo bytes new i : Nat) : Bool := decide (lo ≤ i) && decide (i < lo + 8 * bytes) && bitAt new i

/-- A write to a register: `new` is its value with the written bits in place. The registers whose writes act have the operations of their
commands; every other acts field by field. -/
def writeReg (s : State) (w : Writer) (x : RegAt) (off bytes lo new : Nat) : State :=
  let i := x.ix.getD 0 0
  let j := x.ix.getD 1 0
  let fields := fun skip => writeFields s w x off bytes lo new skip
  let bit := writtenBit lo bytes new
  let acc := (off, bytes)
  if privOnly x.desc.base && !w.privileged then regError s w off bytes true 5
  else
    match x.desc.base with
    | 0x1004 => funcCmd s w i (bits new 0 4) (bits new 8 8) (directoryImage s)
    | 0x8008 => let t := fields ["ENABLE"]; if meets 0 1 lo (8 * bytes) then ringEnable t (bitAt new 0) else t
    | 0x8010 => ringHead s w (bits new 0 32) acc
    | 0x8100 => stepCmd s w (bits new 0 12) (bits new 12 8)
    | 0x8200 => if bit 16 then logClear s else s
    | 0x10000 => if bit 48 then srcClear s i else s
    | 0x100000 => let t := timeSrcWrite (fields ["TIME_SRC"]) w (bits new 0 2) acc; if bit 2 then reacquire t else t
    | 0x100010 => let t := fields []; if bit 0 then snapReq t .time else t
    | 0x200028 => let t := fields []; if bit 0 then snapReq t .switch else t
    | 0x400020 => let t := fields []; if bit 0 then snapReq t (snapBlkOf x.addr) else t
    | 0x800018 => let t := fields []; if bit 0 then snapReq t (snapBlkOf x.addr) else t
    | 0xB00008 => let t := fields []; if bit 0 then snapReq t .hostport else t
    | 0xC00018 => let t := fields []; if bit 0 then snapReq t (snapBlkOf x.addr) else t
    | 0x1000008 => let t := fields []; if bit 0 then snapReq t (snapBlkOf x.addr) else t
    | 0x100108 => jigCommit s w (bits new 0 52) acc
    | 0x110000 => jigStageWrite s w i (lo / 64) (bits new (lo / 64 * 64) 64) acc
    | 0x204000 => bundleWrite s i (lo / 64) (bits new (lo / 64 * 64) 64)
    | 0x208000 => routeWrite s w i (bits new 0 8) (bitAt new 8) (bit 9) acc
    | 0x400800 => let t := if bit 7 then physRetire s w i j acc else s; if bit 8 then physReinstate t w i j acc else t
    | 0x76C000 => if bit 0 then abortOp s w i else s
    | 0x810000 => writeCtx s w x off bytes lo new
    | 0xA00008 =>
      match bits new 20 3 with
      | 1 => extWrite s w (bits new 0 18) acc
      | 2 => extRevoke s w (bits new 0 18) acc
      | 3 => extRead s w (bits new 0 18) acc
      | _ => regError s w off bytes true 4
    | 0xA00108 => segInval s w (bits new 0 12) (bitAt new 12) (bits new 16 8) acc
    | 0xA20000 => exportWrite s w i j (new % 2 ^ 128) acc
    | 0xB00000 => let t := fields []; if bit 1 then handoverWrite t w else t
    | 0xB00100 => writeHostCfg s w x off bytes lo new
    | 0xC00000 => writePortCfg s w x off bytes lo new
    | 0xC00100 => let t := if bit 11 then laneRetire s w i j acc else s; if bit 12 then laneReinstate t w i j acc else t
    | 0xC00400 => let t := fields []; if bit 20 then eyeStart t i else t
    | 0x1000100 => let t := if bit 7 then pcRetire s w i j acc else s; if bit 8 then pcReinstate t w i j acc else t
    | 0xF00020 =>
      let t := fields []
      if !bit 24 then t
      else if rdb t Reg.TELEMETRY.TEL_CNT_SEL.REQ then wr t Reg.TELEMETRY.TEL_CNT_SEL.OVERRUN 1
      else wrs t [(Reg.TELEMETRY.TEL_CNT_SEL.REQ, 1), (Reg.TELEMETRY.TEL_CNT_SEL.DONE, 0)]
    | 0x1400020 => if bit 0 then moltWrite s w else s
    | 0x1200048 => if bit 0 then resetCmd s w else s
    | _ => fields []

/-- A write of `bytes` bytes to one register at byte address `a`. -/
def writeAt (s : State) (w : Writer) (x : RegAt) (a off bytes v : Nat) : State :=
  let lo := x.bitOf a
  writeReg s w x off bytes lo (mergeBits (regHeld s x) lo (8 * bytes) v)

/-- One dword written: discarded and reported where no register lies (R26). -/
def writeDword (s : State) (w : Writer) (a off v : Nat) : State :=
  match regFind a with
  | some x => writeAt s w x a off 4 v
  | none => regError s w off 4 true 2

/-- A write of 4 or 8 bytes: one access to a register that holds them all, else dword by dword. -/
def writeFull (s : State) (w : Writer) (a off bytes v : Nat) : State :=
  if bytes = 4 then writeDword s w a off v
  else
    match regFind a, regFind (a + 4) with
    | some x, some y => if x.addr = y.addr then writeAt s w x a off 8 v else writeDword (writeDword s w a off (v % 2 ^ 32)) w (a + 4) (off + 4) (v / 2 ^ 32)
    | none, none => regError s w off 8 true 2
    | _, _ => writeDword (writeDword s w a off (v % 2 ^ 32)) w (a + 4) (off + 4) (v / 2 ^ 32)

/-- A read of 8 bytes: one access to a register that holds them all (R14), else dword by dword. -/
def readQword (s : State) (a : Nat) : Nat × State :=
  let both := fun (_ : Unit) =>
    let l := readDword s a
    let h := readDword l.2 (a + 4)
    (l.1 + 2 ^ 32 * h.1, h.2)
  match regFind a, regFind (a + 4) with
  | some x, some y => if x.addr = y.addr then readAt s x a 64 else both ()
  | _, _ => both ()

/-! ### Views (R27, R301, R302) -/

/-- What an offset of a function's BAR0 shows: a register of the full map, a place that reads as zero and discards writes, the identity of a VF,
the status of its segment invalidations, a word of an MSI-X table or of a PBA (port, function, byte offset), or nothing (R26). -/
inductive View where
  | addr (a : Nat)
  | zero
  | vfId
  | vfInval
  | table (p f off : Nat)
  | pba (p f off : Nat)
  | none
deriving DecidableEq, Repr

/-- The full map, with the MSI-X tables of the PFs (HOSTPORT). -/
def fullView (off : Nat) : View :=
  if 0xB40000 ≤ off ∧ off < 0xB60000 then
    let p := (off - 0xB40000) / 0x10000
    let r := (off - 0xB40000) % 0x10000
    if r < 0x8000 then .table p 0 r else if r < 0x8100 then .pba p 0 (r - 0x8000) else .none
  else .addr off

/-- The context mapped to slot `i` of VF `f` of port `p`, where the slot is mapped (R305). -/
def slotCtx (s : State) (p f i : Nat) : Option Nat :=
  if rdb s (Reg.HOSTPORT.VF_CTX_MAP.VALID p f i) then
    let c := rd s (Reg.HOSTPORT.VF_CTX_MAP.CTX p f i)
    if ctxEp s c = p ∧ ctxFunc s c = f then some c else none
  else none

/-- A register of the context of a slot, `unit` bytes wide. -/
def slotView (s : State) (p f i base unit r : Nat) : View :=
  match slotCtx s p f i with | some c => .addr (base + c * unit + r) | none => .zero

/-- The 1 MiB slice of VF `f` of port `p` (R302). -/
def sliceView (s : State) (p f off : Nat) : View :=
  if off < 8 then .vfId
  else if 0x100 ≤ off ∧ off < 0x108 then .addr (0xB08000 + p * 0x800 + f * 8 + (off - 0x100))
  else if 0x1000 ≤ off ∧ off < 0x1100 then slotView s p f ((off - 0x1000) / 4) 0xB04000 4 0
  else if 0x10000 ≤ off ∧ off < 0x11000 then slotView s p f ((off - 0x10000) / 0x40) 0x810000 0x40 (off % 0x40)
  else if 0x20000 ≤ off ∧ off < 0x20200 then slotView s p f ((off - 0x20000) / 8) 0x850000 8 (off % 8)
  else if 0x21000 ≤ off ∧ off < 0x21200 then slotView s p f ((off - 0x21000) / 8) 0xA08000 8 (off % 8)
  else if 0x22000 ≤ off ∧ off < 0x2200C then .addr (0xA00100 + (off - 0x22000))
  else if 0x22010 ≤ off ∧ off < 0x22014 then .vfInval
  else if 0x30000 ≤ off ∧ off < 0x38000 then .table p f (off - 0x30000)
  else if 0x38000 ≤ off ∧ off < 0x38100 then .pba p f (off - 0x38000)
  else .none

/-- The view of the PF of the non-manager port `p` (R27, R301). The contexts that it serves are those of its end-point, whatever function they
serve there (DEDUCED, log entry 21). -/
def pfView (s : State) (p off : Nat) : View :=
  let ep := 0x800000 + p * 0x100000
  if off < 8 ∨ (0x1000 + fHost p * 16 ≤ off ∧ off < 0x1004 + fHost p * 16) ∨ (ep ≤ off ∧ off < ep + 0x100000) ∨ (0xB00000 ≤ off ∧ off < 0xB0000C) ∨
      (0xB00010 + p * 0x20 ≤ off ∧ off < 0xB00020 + p * 0x20) ∨ (0xB00200 + p * 0x80 ≤ off ∧ off < 0xB00280 + p * 0x80) then .addr off
  else if 0xB04000 ≤ off ∧ off < 0xB08000 then (if ctxEp s ((off - 0xB04000) / 4) = p then .addr off else .none)
  else
    match fullView off with
    | .table q f r => if q = p then .table q f r else .none
    | .pba q f r => if q = p then .pba q f r else .none
    | _ => .none

/-- The view of a writer. -/
def viewOf (s : State) (w : Writer) (off : Nat) : View :=
  match w with
  | .host p f => if f = 0 then (if p = mgrPort s then fullView off else pfView s p off) else sliceView s p f off
  | _ => fullView off

/-- A dword of an MSI-X table: entries at and beyond the function's vectors read as zero (R307). -/
def tableRead (s : State) (p f off : Nat) : Nat := if off / 16 < vectorCount s p f then msixWord s (msixKey p f (off / 16)) (off / 4 % 4) else 0

/-- A dword of an MSI-X table written; unmasking a vector sends its pending message (R307). -/
def tableWrite (s : State) (p f off v : Nat) : State :=
  if off / 16 < vectorCount s p f then
    let k := msixKey p f (off / 16)
    let wd := off / 4 % 4
    msixRetry { s with host := { s.host with msixTab := putKey s.host.msixTab (4 * k + wd) (if wd = 3 then 1 else 0) v } } p f (off / 16)
  else s

/-- A dword of a PBA. -/
def pbaRead (s : State) (p f off : Nat) : Nat :=
  packBits ((List.range 32).map (fun i => (i, 1, b2n (s.host.msixPend.contains (msixKey p f (8 * off + i))))))

/-- VF_ID (R302). -/
def vfId (s : State) (p f : Nat) : Nat :=
  packBits [(0, 16, rd s Reg.GLOBAL.GLOBAL_ID.PART_NUMBER), (16, 8, rd s Reg.GLOBAL.GLOBAL_ID.VARIANT), (24, 8, rd s Reg.GLOBAL.GLOBAL_ID.STEPPING),
    (32, 8, f), (40, 1, p), (41, 7, ((List.range 64).filter (fun i => (slotCtx s p f i).isSome)).length)]

/-- SEG_INVAL_STATUS as a VF's slice shows it (R302). -/
def vfInvalRead (s : State) (p f : Nat) : Nat :=
  packBits [(0, 1, rd s Reg.EXTENT.SEG_INVAL_STATUS.BUSY), (1, 8, rd s Reg.EXTENT.SEG_INVAL_STATUS.ENGINE_ACKS),
    (16, 8, sliceGet s p f % 256), (24, 1, sliceGet s p f / 256)]

/-- One dword read through a view. -/
def viewRead (s : State) (w : Writer) (off : Nat) : Nat × State :=
  match viewOf s w off, sliceOf w with
  | .addr a, _ => readDword s a
  | .table p f r, _ => (tableRead s p f r, s)
  | .pba p f r, _ => (pbaRead s p f r, s)
  | .vfId, some (p, f) => (bits (vfId s p f) (8 * (off % 8)) 32, s)
  | .vfInval, some (p, f) => (vfInvalRead s p f, s)
  | _, _ => (0, s)

/-- The error of a write outside a view: a physical function that writes a register of R32 is no permitted writer (cause 5), even
though its view does not show it; any other offset is unassigned (R26). -/
def outsideCause (w : Writer) (off : Nat) : Nat :=
  match w, regFind off with
  | .host _ 0, some x => if privOnly x.desc.base then 5 else 2
  | _, _ => 2

/-- One dword written through a view that is not of the full map. -/
def viewWrite (s : State) (w : Writer) (off v : Nat) : State :=
  match viewOf s w off, sliceOf w with
  | .table p f r, _ => tableWrite s p f r v
  | .vfInval, some (p, f) => if bitAt v 24 then sliceSet s p f (sliceGet s p f % 256) else s
  | .none, _ => regError s w off 4 true (outsideCause w off)
  | .addr a, _ => writeDword s w a off v
  | _, _ => s

/-! ### Accesses (R14) -/

/-- An access that R14 allows. -/
def accessOk (off bytes : Nat) : Bool := (bytes == 4 || bytes == 8) && off % bytes == 0

/-- The PF of the manager port is the manager function (R309). -/
def actor (s : State) (w : Writer) : Writer := if w = .host (mgrPort s) 0 then .manager else w

/-- A read by a writer: all ones and an error report where R14 does not allow it. -/
def regRead (s : State) (w : Writer) (off bytes : Nat) : Nat × State :=
  let w := actor s w
  if !accessOk off bytes then (2 ^ (32 * max 1 ((bytes + 3) / 4)) - 1, regError s w off bytes false 1)
  else
    let both := fun (_ : Unit) =>
      let l := viewRead s w off
      let h := viewRead l.2 w (off + 4)
      (l.1 + 2 ^ 32 * h.1, h.2)
    if bytes = 4 then viewRead s w off
    else
      match viewOf s w off with
      | .addr a => if viewOf s w (off + 4) = .addr (a + 4) then readQword s a else both ()
      | _ => both ()

/-- MGR_CTL is read only in the view of the non-manager PF (R301). -/
def readOnlyView (s : State) (w : Writer) (off : Nat) : Bool :=
  match w with | .host p 0 => p != mgrPort s && 0xB00000 == off / 4 * 4 | _ => false

/-- A write by a writer. -/
def regWrite (s : State) (w : Writer) (off bytes v : Nat) : State :=
  let w := actor s w
  if !accessOk off bytes then regError s w off bytes true 1
  else if readOnlyView s w off then s
  else
    match viewOf s w off with
    | .addr a =>
      if bytes = 8 ∧ viewOf s w (off + 4) = .addr (a + 4) then writeFull s w a off 8 v
      else
        let t := writeDword s w a off (v % 2 ^ 32)
        if bytes = 8 then viewWrite t w (off + 4) (v / 2 ^ 32) else t
    | _ =>
      let t := viewWrite s w off (v % 2 ^ 32)
      if bytes = 8 then viewWrite t w (off + 4) (v / 2 ^ 32) else t

/-- REGISTER_WRITE (R10). -/
def execRegisterWrite (w : Writer) (off : BitVec 26) (bytes : BitVec 4) (v : BitVec 64) (s : State) : Host.Outcome State Fault Refusal :=
  .next (regWrite s w off.toNat bytes.toNat v.toNat)

/-- READ_CLEAR (R10): a read, which clears the RC fields that it returns. -/
def execReadClear (w : Writer) (off : BitVec 26) (bytes : BitVec 4) (s : State) : Host.Outcome State Fault Refusal :=
  let r := regRead s w off.toNat bytes.toNat
  .next (emitOut r.2 (.regRead w r.1 bytes.toNat))

/-! ### Fabric register access (R61) -/

/-- What tells that a register access error has been reported: its source's last record and pending errors. -/
def errMark (s : State) : Option Nat × Option PendErr := (findKey s.err.emitted 463, findKey s.err.pending 463)

/-- A register request at the service ID, from a fabric manager and of 4 or 8 bytes, else denied. -/
def fabricAccess (s : State) (h : Hdr) (f : State → State) : State :=
  if !(fmIds s).contains h.src.toNat then answer s 228 h ccDenied 4 0
  else if h.len.toNat ≠ 4 ∧ h.len.toNat ≠ 8 then answer s 228 h ccDenied 6 0
  else f s

/-- A register request that waits at the management port. -/
def fabricRequest (s : State) (p : Packet) (k : Kind) (f : State → State) : State :=
  if p.h.k == some k then received s 228 p (fun t => fabricAccess t p.h f) else s

/-- REG_READ (R61). -/
def execRegRead (p : Packet) (s : State) : Host.Outcome State Fault Refusal :=
  .next (fabricRequest s p .regRead (fun t =>
    let r := regRead t .fabric (p.h.addr.toNat % 2 ^ 26) p.h.len.toNat
    if errMark r.2 = errMark t then answerData r.2 228 p.h (leBytes p.h.len.toNat r.1) else answer r.2 228 p.h ccDenied 6 0))

/-- REG_WRITE (R61). -/
def execRegWrite (p : Packet) (s : State) : Host.Outcome State Fault Refusal :=
  .next (fabricRequest s p .regWrite (fun t =>
    let u := regWrite t .fabric (p.h.addr.toNat % 2 ^ 26) p.h.len.toNat (ofLeBytes (p.payload.take p.h.len.toNat))
    answer u 228 p.h (if errMark u = errMark t then ccOk else ccDenied) (if errMark u = errMark t then 0 else 6) 0))

end Sys2Proof.Machine
end

