-- ==== Sys2Proof/Machine/Boot.lean ====
section
/-!
DEFINITION. Machine/Boot.lean: the stages of the boot (R385, R386), the start-up configuration (R380) and the start-up function list (R37).
-/
namespace Sys2Proof.Machine
open Sys2Proof

/-- STAGE of BOOT_STATUS. -/
def bootStage (s : State) : Nat := rd s Reg.SECURITY.BOOT_STATUS.STAGE

/-- The next stage begins (trace point 0x0100). -/
def bootNext (s : State) (k : Nat) : State := trace (wr s Reg.SECURITY.BOOT_STATUS.STAGE k) 0 0 0x0100 k 0

/-- The boot halts with a FAIL_CAUSE: 0 NONE, 1 SIGNATURE, 2 DIGEST, 3 HBM, 4 PARTITION, 5 FLASH. The security core is in ROM and runs no firmware. -/
def bootHalt (s : State) (cause : Nat) : State :=
  wrs { s with fw := { s.fw with phase := 2 } } [(Reg.SECURITY.PROC_STATUS.STATE 0, 0), (Reg.SECURITY.BOOT_STATUS.HALTED, 1), (Reg.SECURITY.BOOT_STATUS.FAIL_CAUSE, cause)]

/-- The bank that boots, with FALLBACK, in stage 2 (R386): only a VALID bank is bootable. -/
def bootBank (s : State) : Option (Nat × Bool) :=
  let valid := fun b => bankState s b == 2
  match rd s Reg.SECURITY.BOOT_STATUS.BOOT_SRC with
  | 0 =>
    let p := preferred s
    if valid p then some (p, false) else if valid (1 - p) then some (1 - p, true) else none
  | 1 => if valid 0 then some (0, false) else none
  | 2 => if valid 1 then some (1, false) else none
  | _ => none

/-- A bank chosen: BANK_FALLBACK is recorded where it is the fallback. -/
def bootChoose (s : State) (bank : Nat) (fallback : Bool) : State :=
  let s := wrs s [(Reg.SECURITY.BOOT_STATUS.RUNNING_BANK, bank), (Reg.SECURITY.BOOT_STATUS.FALLBACK, b2n fallback)]
  let s := if fallback then fwRecord s 2 0 0 bank else s
  bootNext (trace s 0 0 0x0101 bank (b2n fallback)) 3

/-- The chosen bank has failed: the other VALID bank under NORMAL, once; else a halt. -/
def bootOther (s : State) (cause : Nat) : State :=
  let b := otherBank s
  if rd s Reg.SECURITY.BOOT_STATUS.BOOT_SRC = 0 ∧ !rdb s Reg.SECURITY.BOOT_STATUS.FALLBACK ∧ bankState s b = 2 then bootChoose s b true
  else bootHalt s cause

/-- Bits in error that the helper data corrects: 12 % of the 65,536 of the PUF region (R387). -/
def pufCorrects : Nat := 7864

/-- Stage 1 (R387): the PUF region read and corrected, the identity derived and the sealed key store opened, or an IDENTITY_FAIL record; then
the ROM halts under HOLD. `ok` says that the check digest of the helper data matches. -/
def bootIdentity (s : State) (ok : Bool) (detail : Nat) : State :=
  let s := if ok && decide (detail ≤ pufCorrects) then wrs s [(Reg.SECURITY.IDENTITY_STATUS.IDENTITY_OK, 1), (Reg.SECURITY.IDENTITY_STATUS.SEALED_OK, 1)] else fwRecord s 10 5 0 detail
  if rd s Reg.SECURITY.BOOT_STATUS.BOOT_SRC = 3 then bootHalt s 0 else bootNext s 2

/-- Stage 2: the directory read and a bank chosen. -/
def bootDirectory (s : State) (ok : Bool) (detail : Nat) : State :=
  let s := dirShow s
  if !ok then bootHalt (fwRecord s 11 0 0 detail) 5
  else
    match bootBank s with
    | some (b, fb) => bootChoose s b fb
    | none => bootHalt s 5

/-- Stage 3: the header's signature and the security component's digest. -/
def bootVerify (s : State) (ok : Bool) (detail : Nat) : State :=
  let b := runningBank s
  if !ok then bootOther (fwRecord s 11 0 0 detail) 5
  else if !headerOk s b then bootOther (imageRejected s b 0) 1
  else if (components s b).any (fun c => c.1 == 1 && !digestOk s b c) then bootOther (imageRejected s b 1) 2
  else bootNext (securityStarts (procRuns s 0)) 4

/-- The entry for HBM_PART[4] of the start-up configuration, placed before firmware is (R381). -/
def bootPartition (s : State) : State :=
  match configForce s with
  | none => s
  | some c =>
    (List.range (configCount s c)).foldl (fun s i =>
      let e := configEntry s c i
      if e.1 = 0x40 then regWrite s .firmware e.1 e.2.1 (e.2.2 % 2 ^ (8 * e.2.1)) else s) s

/-- Stage 4: the HBM interfaces trained; the firmware partition must hold at least 3 regions. -/
def bootHbm (s : State) (ok : Bool) : State :=
  if !ok then bootHalt s 3
  else
    let s := bootPartition s
    if rd s (Reg.GLOBAL.HBM_PART.SIZE 4) < 3 then bootHalt s 4 else bootNext s 5

/-- Stage 5: every component copied to image area 0, and every digest recomputed from the copy. The copy of a component that HBM did not hold
right has its type in `detail` where `ok` is false. -/
def bootCopy (s : State) (ok : Bool) (detail : Nat := 1) : State :=
  let b := runningBank s
  match imageFault s b with
  | some t => bootOther (imageRejected s b t) (if t = 0 then 1 else 2)
  | none =>
    let u := copyImage s b 0
    match copyFault u b 0 with
    | some t => bootOther (imageRejected u b t) 2
    | none => if !ok then bootOther (imageRejected u b (detail % 16)) 2 else bootNext (runImage u b 0) 6

/-- Stage 6: the partition checker locked and every processor released; the periodic work of the power core and of the scheduler core
begins (R99). -/
def bootRelease (s : State) : State :=
  let s := (List.range 51).foldl (fun s i => procRuns s (i + 1)) (wr s Reg.SECURITY.BOOT_STATUS.LOCK 1)
  let s := taskBegin (taskBegin (taskBegin s loopTask loopPeriod) 2 4096) 3 4096
  bootNext s 7

/-- One entry of the start-up configuration written by firmware (R380, R382): one that fails is skipped and recorded. -/
def bootEntry (c : Nat) (s : State) (i : Nat) : State :=
  let e := configEntry s c i
  let t := regWrite s .firmware e.1 e.2.1 (e.2.2 % 2 ^ (8 * e.2.1))
  if 0x1400000 ≤ e.1 ∧ e.1 < 0x1500000 then fwRecord s 13 0 1 i
  else if errMark t = errMark s then t else fwRecord t 13 0 1 i

/-- PLANE_LIST of the end-points where no entry gives it: this plane's bit. -/
def bootPlanes (s : State) (c : Option Nat) : State :=
  let given := match c with | some c => (List.range (configCount s c)).map (fun i => (configEntry s c i).1) | none => []
  [0, 1].foldl (fun s e => if given.contains (0x800010 + e * 0x100000) then s else wr s (Reg.EP.EP_PLANES.PLANE_LIST e) (2 ^ planeId s)) s

/-- START of the functions in the list, in ascending order, by firmware (R37). -/
def bootStarts (s : State) (l : List Nat) : State :=
  l.foldl (fun s n =>
    let s := { s with fn := { s.fn with listed := if s.fn.listed.contains n then s.fn.listed else s.fn.listed ++ [n] } }
    funcCmd s .firmware n 1 (rd s (Reg.GLOBAL.FUNC_DIAG.SEQ n)) (directoryImage s)) s

/-- Stage 7: the start-up configuration applied and the listed functions started. -/
def bootApply (s : State) : State :=
  let c := configForce s
  let s := { s with fw := { s.fw with phase := 2, config := c } }
  let s := match c with | some k => (List.range (configCount s k)).foldl (bootEntry k) s | none => s
  let s := bootPlanes s c
  bootStarts s (match c with | some k => configFuncs s k | none => [])

/-- BOOT_STAGE_COMPLETE (R385): the stage in progress ends, with what its hardware found: stage 1 the bits in error corrected, stage 5
the type of a component whose copy differs, a flash error its offset. -/
def execBootStageComplete (ok : Bool) (detail : BitVec 32) (s : State) : Host.Outcome State Fault Refusal :=
  .next (
    if s.fw.phase ≠ 1 then s
    else
      match bootStage s with
      | 1 => bootIdentity s ok detail.toNat
      | 2 => bootDirectory s ok detail.toNat
      | 3 => bootVerify s ok detail.toNat
      | 4 => bootHbm s ok
      | 5 => bootCopy s ok detail.toNat
      | 6 => bootRelease s
      | _ => bootApply s)

end Sys2Proof.Machine
end

