-- ==== Sys2Proof/Machine/CellMemory.lean ====
section
/-!
DEFINITION. Machine/CellMemory.lean: the memory instructions of Milys (R168 to R172): local data and tile windows, shared SRAM, HBM, WAIT and
the completion of an outstanding access.
-/
namespace Sys2Proof.Machine
open Sys2Proof

/-! ### Local data and tile windows -/

/-- ra + sign-extended IMM. -/
def addrImm (r : CellRun) (ra : Nat) (imm : BitVec 16) : Nat := (gS r ra + imm.signExtend 64).toNat

/-- An access of `n` bytes to local data or a tile window at address `a`, aligned to `n`: ALIGN, then ADDRESS, then an implicit wait. -/
def localAccess (l : Nat) (r : CellRun) (s : State) (a n : Nat) (f : CellRun → State → Nat → Nat → Res) : Res :=
  if a % n ≠ 0 then .fault 2 0
  else
    match localAt r a n with
    | none => .fault 1 0
    | some (sp, off) => let p := settle l (touches sp off n) r s; f p.1 p.2 sp off

/-- A zero-extended load of `n` bytes. -/
def loadN (s : State) (l : Fin 6144) (n : Nat) (rd ra : Fin 32) (imm : BitVec 16) : Host.Outcome State Fault Refusal :=
  both (ins s l 2 [rd, ra] (fun r s => localAccess l r s (addrImm r ra imm) n (fun r s sp off =>
    .ok (pS r rd (BitVec.ofNat 64 (ofLeBytes (spaceRd s l sp off n)))) s)))

/-- A store of the low `n` bytes of the RD register. -/
def storeN (s : State) (l : Fin 6144) (n : Nat) (rd ra : Fin 32) (imm : BitVec 16) : Host.Outcome State Fault Refusal :=
  both (ins s l 2 [rd, ra] (fun r s => localAccess l r s (addrImm r ra imm) n (fun r s sp off =>
    .ok r (spaceWr s l sp off (leBytes n (gS r rd).toNat)))))

/-- LD8U (R172). -/
def execLd8u (l : Fin 6144) (rd ra : Fin 32) (imm : BitVec 16) (s : State) : Host.Outcome State Fault Refusal := loadN s l 1 rd ra imm
/-- LD16U (R172). -/
def execLd16u (l : Fin 6144) (rd ra : Fin 32) (imm : BitVec 16) (s : State) : Host.Outcome State Fault Refusal := loadN s l 2 rd ra imm
/-- LD32U (R172). -/
def execLd32u (l : Fin 6144) (rd ra : Fin 32) (imm : BitVec 16) (s : State) : Host.Outcome State Fault Refusal := loadN s l 4 rd ra imm
/-- LD64 (R172). -/
def execLd64 (l : Fin 6144) (rd ra : Fin 32) (imm : BitVec 16) (s : State) : Host.Outcome State Fault Refusal := loadN s l 8 rd ra imm
/-- ST8 (R172). -/
def execSt8 (l : Fin 6144) (rd ra : Fin 32) (imm : BitVec 16) (s : State) : Host.Outcome State Fault Refusal := storeN s l 1 rd ra imm
/-- ST16 (R172). -/
def execSt16 (l : Fin 6144) (rd ra : Fin 32) (imm : BitVec 16) (s : State) : Host.Outcome State Fault Refusal := storeN s l 2 rd ra imm
/-- ST32 (R172). -/
def execSt32 (l : Fin 6144) (rd ra : Fin 32) (imm : BitVec 16) (s : State) : Host.Outcome State Fault Refusal := storeN s l 4 rd ra imm
/-- ST64 (R172). -/
def execSt64 (l : Fin 6144) (rd ra : Fin 32) (imm : BitVec 16) (s : State) : Host.Outcome State Fault Refusal := storeN s l 8 rd ra imm

/-- ra + (ri << (6 + SC)) + 64 × DISP. -/
def addrVec (r : CellRun) (ra ri : Nat) (sc : Nat) (disp : BitVec 10) : Nat :=
  (gS r ra + (gS r ri <<< (6 + sc)) + BitVec.ofNat 64 (64 * disp.toNat)).toNat

/-- VLD (R172); the loader rejects SC = 3. -/
def execVld (l : Fin 6144) (vd : Fin 16) (ra ri : Fin 32) (sc : BitVec 2) (disp : BitVec 10) (s : State) : Host.Outcome State Fault Refusal :=
  loaded "VLD" (decide (sc.toNat < 3)) (both (ins s l 2 [ra, ri] (fun r s =>
    localAccess l r s (addrVec r ra ri sc.toNat disp) 64 (fun r s sp off => .ok (pV r vd (BitVec.ofNat 512 (ofLeBytes (spaceRd s l sp off 64)))) s))))
/-- VST (R172); the loader rejects SC = 3. -/
def execVst (l : Fin 6144) (vd : Fin 16) (ra ri : Fin 32) (sc : BitVec 2) (disp : BitVec 10) (s : State) : Host.Outcome State Fault Refusal :=
  loaded "VST" (decide (sc.toNat < 3)) (both (ins s l 2 [ra, ri] (fun r s =>
    localAccess l r s (addrVec r ra ri sc.toNat disp) 64 (fun r s sp off => .ok r (spaceWr s l sp off (leBytes 64 (gV r vd).toNat))))))

/-! ### Cluster shared SRAM (R131, R170, R171) -/

/-- A shared access at address `a`: ALIGN, then ADDRESS, then its offset in the 8 MiB. -/
def sharedAccess (a : Nat) (f : Nat → Res) : Res :=
  if a % 8 ≠ 0 then .fault 2 0 else if 0x10000000 ≤ a ∧ a < 0x10800000 then f (a - 0x10000000) else .fault 1 0

/-- A shared access that is outstanding until its register is written. -/
def pendShared (l : Nat) (r : CellRun) (s : State) (rd v : Nat) : Res :=
  let p := issue l { hbm := false, reg := if rd = 0 then 32 else rd, val := v, space := 0, off := 0, data := [], skip := [], poison := false } r s
  .ok p.1 p.2

/-- The shared word at offset `o`. -/
def sharedWord (s : State) (l o : Nat) : Nat := ofLeBytes (sharedRd s (l / 128) o 8)

/-- SLD (R172). -/
def execSld (l : Fin 6144) (rd ra : Fin 32) (imm : BitVec 16) (s : State) : Host.Outcome State Fault Refusal :=
  stockOnly "SLD" s l (ins s l 4 [rd, ra] (fun r s => sharedAccess (addrImm r ra imm) (fun o => pendShared l r s rd (sharedWord s l o))))
/-- SST (R172): posted. -/
def execSst (l : Fin 6144) (rd ra : Fin 32) (imm : BitVec 16) (s : State) : Host.Outcome State Fault Refusal :=
  stockOnly "SST" s l (ins s l 4 [rd, ra] (fun r s => sharedAccess (addrImm r ra imm) (fun o => .ok r (sharedWr s (l / 128) o (leBytes 8 (gS r rd).toNat)))))

/-- An atomic of R171: the word becomes `f old`, and rd takes the old value. -/
def samo (m : String) (s : State) (l : Fin 6144) (rd ra rb : Fin 32) (f : CellRun → BitVec 64 → BitVec 64) : Host.Outcome State Fault Refusal :=
  stockOnly m s l (ins s l 4 [rd, ra, rb] (fun r s => sharedAccess (gS r ra).toNat (fun o =>
    let old := sharedWord s l o
    pendShared l r (sharedWr s (l / 128) o (leBytes 8 (f r (BitVec.ofNat 64 old)).toNat)) rd old)))

/-- SAMO_ADD (R171). -/
def execSamoAdd (l : Fin 6144) (rd ra rb : Fin 32) (s : State) : Host.Outcome State Fault Refusal := samo "SAMO_ADD" s l rd ra rb (fun r old => old + gS r rb)
/-- SAMO_SWAP (R171). -/
def execSamoSwap (l : Fin 6144) (rd ra rb : Fin 32) (s : State) : Host.Outcome State Fault Refusal := samo "SAMO_SWAP" s l rd ra rb (fun r _ => gS r rb)
/-- SAMO_CAS (R171): rb is written where the word equals rd. -/
def execSamoCas (l : Fin 6144) (rd ra rb : Fin 32) (s : State) : Host.Outcome State Fault Refusal :=
  samo "SAMO_CAS" s l rd ra rb (fun r old => if old = gS r rd then gS r rb else old)
/-- SAMO_MAX (R171): signed. -/
def execSamoMax (l : Fin 6144) (rd ra rb : Fin 32) (s : State) : Host.Outcome State Fault Refusal :=
  samo "SAMO_MAX" s l rd ra rb (fun r old => if old.slt (gS r rb) then gS r rb else old)

/-- FENCE (R171): every earlier shared write is visible already; it is outstanding as a shared access. -/
def execFence (l : Fin 6144) (s : State) : Host.Outcome State Fault Refusal := stockOnly "FENCE" s l (ins s l 4 [] (fun r s => pendShared l r s 0 0))

/-! ### Device HBM (R168 to R170) -/

/-- A register displaced by 64 × DISP. -/
def addrBlk (r : CellRun) (x : Nat) (disp : BitVec 10) : Nat := (gS r x + BitVec.ofNat 64 (64 * disp.toNat)).toNat

/-- The two sides of an HBM transfer of `n` bytes: ALIGN of either, ADDRESS of the local and then of the far side, MESH_DENIED. -/
def hbmAccess (s : State) (r : CellRun) (la ha n : Nat) (f : Nat → Nat → Nat → Res) : Res :=
  if la % 64 ≠ 0 ∨ ha % 64 ≠ 0 then .fault 2 0
  else
    match localAt r la n with
    | none => .fault 1 0
    | some (sp, off) =>
      match farAt s r ha n with
      | .error c => .fault c 0
      | .ok d => f sp off d

/-- HLD (R172): the data land when the access completes; of two reads of the same bytes the later wins (R170). -/
def execHld (l : Fin 6144) (rl rh : Fin 32) (nm1 : BitVec 6) (disp : BitVec 10) (s : State) : Host.Outcome State Fault Refusal :=
  let n := 64 * (nm1.toNat + 1)
  both (ins s l 4 [rl, rh] (fun r s => hbmAccess s r (addrBlk r rl disp) (addrBlk r rh disp) n (fun sp off d =>
    let acc := r.acc.map (fun a => if touches sp off n a then { a with skip := (off, n) :: a.skip } else a)
    let p := issue l { hbm := true, reg := 32, val := 0, space := sp, off := off, data := hbmRdN s d n, skip := [], poison := hbmPoisoned s d n }
      { r with acc := acc } s
    .ok p.1 p.2)))

/-- HST (R172): posted; the source is read at issue (R170). -/
def execHst (l : Fin 6144) (rl rh : Fin 32) (nm1 : BitVec 6) (disp : BitVec 10) (s : State) : Host.Outcome State Fault Refusal :=
  let n := 64 * (nm1.toNat + 1)
  both (ins s l 4 [rl, rh] (fun r s => hbmAccess s r (addrBlk r rl disp) (addrBlk r rh disp) n (fun sp off d =>
    let p := settle l (touches sp off n) r s
    .ok p.1 (hbmWr p.2 d (spaceRd p.2 l sp off n)))))

/-- WAIT (R169): MASK bit 0 the shared accesses, bit 1 the HBM reads; MASK = 0 is reserved. -/
def execWaitR (l : Fin 6144) (mask : BitVec 2) (s : State) : Host.Outcome State Fault Refusal :=
  loaded "WAIT" (mask != 0) (both (ins s l 1 [] (fun r s =>
    let p := settle l (fun a => if a.hbm then mask.getLsbD 1 else mask.getLsbD 0) r s
    .ok p.1 p.2)))

/-- MEMORY_ACCESS_COMPLETE (R169): access `i` of those outstanding completes, in issue order among those before it that write the same place. -/
def execMemoryAccessComplete (l : Fin 6144) (i : BitVec 5) (s : State) : Host.Outcome State Fault Refusal :=
  .next (match cellRun s l with
    | some r =>
      (match r.acc[i.toNat]? with
       | some a => let p := complete l (r, s) a; setRun p.2 l p.1
       | none => s)
    | none => s)

end Sys2Proof.Machine
end

