-- ==== Sys2Proof/Machine/Vector.lean ====
section
/-!
DEFINITION. Machine/Vector.lean: the vector instructions of Milys (R155, R173, R180 to R187).
-/
namespace Sys2Proof.Machine
open Sys2Proof

/-! ### Elements (R155) -/

/-- Element count and width under FMT and W; none under an MX format with W = 0. -/
def layout (fmt : Nat) (w : Bool) : Option (Nat × Nat) :=
  if w then some (16, 32) else if Num.isMx fmt then none else some (512 / Num.elemBits fmt, Num.elemBits fmt)
/-- The format of the elements under FMT and W. -/
def vfmt (fmt : Nat) (w : Bool) : Nat := if w then (if 10 ≤ fmt ∧ fmt ≤ 12 then 10 else 0) else fmt
/-- Element `i` of width `w`. -/
def el (w : Nat) (v : BitVec 512) (i : Nat) : Nat := bits v.toNat (w * i) w
/-- Bit `i` of a predicate. -/
def active (pg : BitVec 64) (i : Nat) : Bool := pg.getLsbD i

/-- A register of `n` elements: active ones new, inactive ones old, or zero with ZM (R173). -/
def merge (n w : Nat) (old : BitVec 512) (act : Nat → Bool) (zm : Bool) (new : List Nat) : BitVec 512 :=
  BitVec.ofNat 512 (packBits ((List.range n).map (fun i => (w * i, w, if act i then new.getD i 0 else if zm then 0 else el w old i))))

/-- The results of the active elements, each with its own draw under STOCHASTIC (R185); inactive ones are 0. -/
def activeMap (rnd : Nat) (act : Nat → Bool) (f : Nat → Nat → Nat) : List Nat → Nat → List Nat × Nat
  | [], sr => ([], sr)
  | i :: is, sr =>
    let sr' := if act i && rnd == 1 then Num.srStep sr else sr
    let t := activeMap rnd act f is sr'
    ((if act i then f i (Num.srVal sr') else 0) :: t.1, t.2)

/-- The random state of the cell after an instruction. -/
def keepRand (s : State) (l v : Nat) : State := if v = cellRand s l then s else setRand s l v

/-- An element-wise instruction; `draws` says that its results are rounded. `f` takes the format, RND, the draw, the element's index and
the elements of va, vb and vc. -/
def varith (s : State) (l : Fin 6144) (vd va vb vc : Fin 16) (pg : Fin 8) (zm w draws : Bool) (f : Nat → Nat → Nat → Nat → Nat → Nat → Nat → Nat) :
    Host.Outcome State Fault Refusal :=
  both (ins s l 1 [] (fun r s =>
    match layout r.r.fmt w with
    | none => .fault 4 0
    | some (n, wd) =>
      let act := active (gP r pg)
      let x := activeMap (if draws then r.r.rnd else 0) act
        (fun i d => f (vfmt r.r.fmt w) r.r.rnd d i (el wd (gV r va) i) (el wd (gV r vb) i) (el wd (gV r vc) i)) (List.range n) (cellRand s l)
      .ok (pV r vd (merge n wd (gV r vd) act zm x.1)) (keepRand s l x.2)))

/-! ### Arithmetic (R180 to R187) -/

/-- The sum, difference or product of two elements: rounded once, or saturated (R180, R186). -/
def elArith (fm rnd d : Nat) (fl : Num.Val → Num.Val → Num.Val) (int : Int → Int → Int) (a b : Nat) : Nat :=
  match Num.floatFmt fm with
  | some f => Num.encode f rnd d (fl (Num.decode f a) (Num.decode f b))
  | none => let w := Num.elemBits fm; Num.satInt w (int (Num.intOf w a) (Num.intOf w b))

/-- VADD (R173). -/
def execVadd (l : Fin 6144) (vd va vb : Fin 16) (pg : Fin 8) (zm w : Bool) (s : State) : Host.Outcome State Fault Refusal :=
  varith s l vd va vb vb pg zm w true (fun fm rnd d _ a b _ => elArith fm rnd d Num.add (fun x y => x + y) a b)
/-- VSUB (R173). -/
def execVsub (l : Fin 6144) (vd va vb : Fin 16) (pg : Fin 8) (zm w : Bool) (s : State) : Host.Outcome State Fault Refusal :=
  varith s l vd va vb vb pg zm w true (fun fm rnd d _ a b _ => elArith fm rnd d (fun x y => Num.add x (Num.neg y)) (fun x y => x - y) a b)
/-- VMUL (R173). -/
def execVmul (l : Fin 6144) (vd va vb : Fin 16) (pg : Fin 8) (zm w : Bool) (s : State) : Host.Outcome State Fault Refusal :=
  varith s l vd va vb vb pg zm w true (fun fm rnd d _ a b _ => elArith fm rnd d Num.mul (fun x y => x * y) a b)

/-- A fused element: one rounding of c ± a × b. Of an integer element the manual states no result outside the range: a free value. -/
def elFused (fm rnd d free : Nat) (minus : Bool) (a b c : Nat) : Nat :=
  match Num.floatFmt fm with
  | some f =>
    let p := Num.mul (Num.decode f a) (Num.decode f b)
    Num.encode f rnd d (Num.add (if minus then Num.neg p else p) (Num.decode f c))
  | none =>
    let w := Num.elemBits fm
    let p := Num.intOf w a * Num.intOf w b
    let x := Num.intOf w c + (if minus then -p else p)
    if -(2 ^ (w - 1)) ≤ x ∧ x < 2 ^ (w - 1) then Num.satInt w x else free

/-- VFMA (R173): va × vb + vc. -/
def execVfma (l : Fin 6144) (vd va vb vc : Fin 16) (pg : Fin 8) (zm w : Bool) (s : State) : Host.Outcome State Fault Refusal :=
  varith (takeFree s 64) l vd va vb vc pg zm w true (fun fm rnd d i a b c => elFused fm rnd d (Config.freeValue (s.free + i)) false a b c)
/-- VFMS (R173): vc − va × vb. -/
def execVfms (l : Fin 6144) (vd va vb vc : Fin 16) (pg : Fin 8) (zm w : Bool) (s : State) : Host.Outcome State Fault Refusal :=
  varith (takeFree s 64) l vd va vb vc pg zm w true (fun fm rnd d i a b c => elFused fm rnd d (Config.freeValue (s.free + i)) true a b c)

/-- An element chosen of two by a float and an integer rule. -/
def elPick (fm : Nat) (fl : Num.Val → Num.Val → Num.Val) (int : Int → Int → Int) (a b : Nat) : Nat := elArith fm 0 0 fl int a b

/-- VMAX (R187). -/
def execVmax (l : Fin 6144) (vd va vb : Fin 16) (pg : Fin 8) (zm w : Bool) (s : State) : Host.Outcome State Fault Refusal :=
  varith s l vd va vb vb pg zm w false (fun fm _ _ _ a b _ => elPick fm Num.vmax max a b)
/-- VMIN (R187). -/
def execVmin (l : Fin 6144) (vd va vb : Fin 16) (pg : Fin 8) (zm w : Bool) (s : State) : Host.Outcome State Fault Refusal :=
  varith s l vd va vb vb pg zm w false (fun fm _ _ _ a b _ => elPick fm Num.vmin min a b)

/-- VABS (R187): the sign bit cleared, for every value. -/
def execVabs (l : Fin 6144) (vd va : Fin 16) (pg : Fin 8) (zm w : Bool) (s : State) : Host.Outcome State Fault Refusal :=
  varith s l vd va va va pg zm w false (fun fm _ _ _ a _ _ => a % 2 ^ (Num.elemBits fm - 1))
/-- VNEG (R187): the sign bit inverted, for every value. -/
def execVneg (l : Fin 6144) (vd va : Fin 16) (pg : Fin 8) (zm w : Bool) (s : State) : Host.Outcome State Fault Refusal :=
  varith s l vd va va va pg zm w false (fun fm _ _ _ a _ _ => a ^^^ 2 ^ (Num.elemBits fm - 1))

/-- An FP32 function of each element: FORMAT unless FMT is FP32 or W is set; the exact value to nearest even, whatever RND holds. -/
def vfun32 (s : State) (l : Fin 6144) (vd va : Fin 16) (pg : Fin 8) (zm w : Bool) (f : Num.Val → Num.Val) : Host.Outcome State Fault Refusal :=
  both (ins s l 1 [] (fun r s =>
    if r.r.fmt ≠ 0 ∧ w = false then .fault 4 0
    else .ok (pV r vd (merge 16 32 (gV r vd) (active (gP r pg)) zm
      ((List.range 16).map (fun i => Num.encode Num.fp32 0 0 (f (Num.decode Num.fp32 (el 32 (gV r va) i))))))) s))

/-- VRCP (R187). -/
def execVrcp (l : Fin 6144) (vd va : Fin 16) (pg : Fin 8) (zm w : Bool) (s : State) : Host.Outcome State Fault Refusal := vfun32 s l vd va pg zm w Num.recip
/-- VRSQRT (R187). -/
def execVrsqrt (l : Fin 6144) (vd va : Fin 16) (pg : Fin 8) (zm w : Bool) (s : State) : Host.Outcome State Fault Refusal := vfun32 s l vd va pg zm w Num.rsqrt

/-- A bitwise instruction, FMT and W ignored. The manual gives a predicate no element width here: with a predicate neither all ones nor
all zeros the result is a free value. -/
def vbits (s : State) (l : Fin 6144) (vd va vb : Fin 16) (pg : Fin 8) (zm : Bool) (f : BitVec 512 → BitVec 512 → BitVec 512) : Host.Outcome State Fault Refusal :=
  both (ins s l 1 [] (fun r s =>
    if gP r pg = BitVec.allOnes 64 then .ok (pV r vd (f (gV r va) (gV r vb))) s
    else if gP r pg = 0 then .ok (if zm then pV r vd 0 else r) s
    else .ok (pV r vd (BitVec.ofNat 512 (peekFree s))) (takeFree s)))

/-- VAND (R173). -/
def execVand (l : Fin 6144) (vd va vb : Fin 16) (pg : Fin 8) (zm : Bool) (s : State) : Host.Outcome State Fault Refusal := vbits s l vd va vb pg zm (fun a b => a &&& b)
/-- VOR (R173). -/
def execVor (l : Fin 6144) (vd va vb : Fin 16) (pg : Fin 8) (zm : Bool) (s : State) : Host.Outcome State Fault Refusal := vbits s l vd va vb pg zm (fun a b => a ||| b)
/-- VXOR (R173). -/
def execVxor (l : Fin 6144) (vd va vb : Fin 16) (pg : Fin 8) (zm : Bool) (s : State) : Host.Outcome State Fault Refusal := vbits s l vd va vb pg zm (fun a b => a ^^^ b)

/-- VSEL (R173): va where the predicate is set, vb elsewhere; ZM is ignored. -/
def execVsel (l : Fin 6144) (vd va vb : Fin 16) (pg : Fin 8) (w : Bool) (s : State) : Host.Outcome State Fault Refusal :=
  both (ins s l 1 [] (fun r s =>
    match layout r.r.fmt w with
    | none => .fault 4 0
    | some (n, wd) => .ok (pV r vd (merge n wd (gV r vb) (active (gP r pg)) false ((List.range n).map (el wd (gV r va))))) s))

/-! ### Conversions (R173, R186) -/

/-- The width of the narrow side of a conversion; none where FMT is an MX or a 32-bit format. -/
def narrowBits (fmt : Nat) : Option Nat := if Num.isMx fmt || Num.elemBits fmt == 32 then none else some (Num.elemBits fmt)

/-- One element widened, exactly. -/
def widen (fmt c : Nat) : Nat :=
  match Num.floatFmt fmt with
  | some f => Num.encode Num.fp32 0 0 (Num.decode f c)
  | none => Num.satInt 32 (Num.intOf (Num.elemBits fmt) c)
/-- One 32-bit element narrowed: rounded, or saturated. -/
def narrow (fmt rnd d c : Nat) : Nat :=
  match Num.floatFmt fmt with
  | some f => Num.encode f rnd d (Num.decode Num.fp32 c)
  | none => Num.satInt (Num.elemBits fmt) (Num.intOf 32 c)

/-- VCVTW (R173): part VC[1:0] of va. A part beyond the elements of a 16-bit format has no stated elements: free values. -/
def execVcvtw (l : Fin 6144) (vd va : Fin 16) (part : BitVec 4) (pg : Fin 8) (zm : Bool) (s : State) : Host.Outcome State Fault Refusal :=
  let k := part.toNat
  loaded "VCVTW" (decide (k < 4)) (both (ins s l 1 [] (fun r s =>
    match narrowBits r.r.fmt with
    | none => .fault 4 0
    | some wd =>
      let out := decide (512 < wd * (16 * k + 16))
      let x := (List.range 16).map (fun i => if out then Config.freeValue (s.free + i) else widen r.r.fmt (el wd (gV r va) (16 * k + i)))
      .ok (pV r vd (merge 16 32 (gV r vd) (active (gP r pg)) zm x)) (if out then takeFree s 16 else s))))

/-- VNRW (R173): va and vb narrowed to a whole register of 16-bit elements, or to half VC[0] of one of 8-bit elements. -/
def execVnrw (l : Fin 6144) (vd va vb : Fin 16) (half : BitVec 4) (pg : Fin 8) (zm : Bool) (s : State) : Host.Outcome State Fault Refusal :=
  loaded "VNRW" (decide (half.toNat < 2)) (both (ins s l 1 [] (fun r s =>
    match narrowBits r.r.fmt with
    | none => .fault 4 0
    | some wd =>
      let base := if wd = 8 then 32 * half.toNat else 0
      let n := 512 / wd
      let inHalf := fun i => decide (base ≤ i) && decide (i < base + 32)
      let act := fun i => inHalf i && active (gP r pg) i
      let x := activeMap r.r.rnd act (fun i d => let j := i - base
        narrow r.r.fmt r.r.rnd d (if j < 16 then el 32 (gV r va) j else el 32 (gV r vb) (j - 16))) (List.range n) (cellRand s l)
      let keep := fun i => act i || !inHalf i
      let new := (List.range n).map (fun i => if inHalf i then x.1.getD i 0 else el wd (gV r vd) i)
      .ok (pV r vd (merge n wd (gV r vd) keep zm new)) (keepRand s l x.2))))

/-- VI2F (R186): INT32 to FP32 under RND. -/
def execVi2f (l : Fin 6144) (vd va : Fin 16) (pg : Fin 8) (zm : Bool) (s : State) : Host.Outcome State Fault Refusal :=
  both (ins s l 1 [] (fun r s =>
    let act := active (gP r pg)
    let x := activeMap r.r.rnd act (fun i d => Num.encode Num.fp32 r.r.rnd d (Num.ofInt (Num.intOf 32 (el 32 (gV r va) i)))) (List.range 16) (cellRand s l)
    .ok (pV r vd (merge 16 32 (gV r vd) act zm x.1)) (keepRand s l x.2)))
/-- VF2I (R186): FP32 to INT32, to nearest even, saturated. -/
def execVf2i (l : Fin 6144) (vd va : Fin 16) (pg : Fin 8) (zm : Bool) (s : State) : Host.Outcome State Fault Refusal :=
  both (ins s l 1 [] (fun r s =>
    .ok (pV r vd (merge 16 32 (gV r vd) (active (gP r pg)) zm ((List.range 16).map (fun i => Num.toInt 32 0 0 (Num.decode Num.fp32 (el 32 (gV r va) i)))))) s))

/-! ### Compares and moves (R173) -/

/-- A compare: one bit per active element; bits at and above the element count are zero. -/
def vcmp (s : State) (l : Fin 6144) (pd : Fin 8) (va vb : Fin 16) (pg : Fin 8) (zm w : Bool) (fl : Num.Val → Num.Val → Bool) (int : Int → Int → Bool) :
    Host.Outcome State Fault Refusal :=
  both (ins s l 1 [] (fun r s =>
    match layout r.r.fmt w with
    | none => .fault 4 0
    | some (n, wd) =>
      let test := fun i =>
        let a := el wd (gV r va) i
        let b := el wd (gV r vb) i
        match Num.floatFmt (vfmt r.r.fmt w) with
        | some f => fl (Num.decode f a) (Num.decode f b)
        | none => int (Num.intOf wd a) (Num.intOf wd b)
      let bit := fun i => if active (gP r pg) i then test i else if zm then false else (gP r pd).getLsbD i
      .ok (pP r pd (BitVec.ofNat 64 (packBits ((List.range n).map (fun i => (i, 1, b2n (bit i))))))) s))

/-- VCMP_EQ (R173, R187). -/
def execVcmpEq (l : Fin 6144) (pd : Fin 8) (va vb : Fin 16) (pg : Fin 8) (zm w : Bool) (s : State) : Host.Outcome State Fault Refusal :=
  vcmp s l pd va vb pg zm w Num.eq (fun a b => a == b)
/-- VCMP_LT (R173, R187). -/
def execVcmpLt (l : Fin 6144) (pd : Fin 8) (va vb : Fin 16) (pg : Fin 8) (zm w : Bool) (s : State) : Host.Outcome State Fault Refusal :=
  vcmp s l pd va vb pg zm w Num.lt (fun a b => decide (a < b))
/-- VCMP_LE (R173, R187). -/
def execVcmpLe (l : Fin 6144) (pd : Fin 8) (va vb : Fin 16) (pg : Fin 8) (zm w : Bool) (s : State) : Host.Outcome State Fault Refusal :=
  vcmp s l pd va vb pg zm w (fun a b => Num.lt a b || Num.eq a b) (fun a b => decide (a ≤ b))
/-- VCMP_UNORD (R173): either element is a NaN. -/
def execVcmpUnord (l : Fin 6144) (pd : Fin 8) (va vb : Fin 16) (pg : Fin 8) (zm w : Bool) (s : State) : Host.Outcome State Fault Refusal :=
  vcmp s l pd va vb pg zm w (fun a b => decide (a = .nan) || decide (b = .nan)) (fun _ _ => false)

/-- VMOV (R173). -/
def execVmov (l : Fin 6144) (vd va : Fin 16) (s : State) : Host.Outcome State Fault Refusal :=
  both (ins s l 1 [] (fun r s => .ok (pV r vd (gV r va)) s))
/-- VBCAST (R173): the low bits of sa, or for 32-bit elements the half that IMM6[0] selects. -/
def execVbcast (l : Fin 6144) (vd : Fin 16) (sa : Fin 32) (imm : BitVec 6) (w : Bool) (s : State) : Host.Outcome State Fault Refusal :=
  both (ins s l 1 [sa] (fun r s =>
    match layout r.r.fmt w with
    | none => .fault 4 0
    | some (n, wd) =>
      let x := bits (gS r sa).toNat (if wd = 32 ∧ imm.getLsbD 0 then 32 else 0) wd
      .ok (pV r vd (merge n wd 0 (fun _ => true) false (List.replicate n x))) s))
/-- VEXT (R173): FORMAT where IMM6 is not below the element count. -/
def execVext (l : Fin 6144) (sa : Fin 32) (va : Fin 16) (imm : BitVec 6) (w : Bool) (s : State) : Host.Outcome State Fault Refusal :=
  both (ins s l 1 [sa] (fun r s =>
    match layout r.r.fmt w with
    | none => .fault 4 0
    | some (n, wd) => if imm.toNat < n then .ok (pS r sa (BitVec.ofNat 64 (el wd (gV r va) imm.toNat))) s else .fault 4 0))
/-- VINS (R173): FORMAT where IMM6 is not below the element count. -/
def execVins (l : Fin 6144) (vd : Fin 16) (sa : Fin 32) (imm : BitVec 6) (w : Bool) (s : State) : Host.Outcome State Fault Refusal :=
  both (ins s l 1 [sa] (fun r s =>
    match layout r.r.fmt w with
    | none => .fault 4 0
    | some (n, wd) =>
      if imm.toNat < n then .ok (pV r vd (merge n wd (gV r vd) (fun i => i == imm.toNat) false (List.replicate n (bits (gS r sa).toNat 0 wd)))) s
      else .fault 4 0))

end Sys2Proof.Machine
end

