-- ==== Sys2Proof/Machine/Tiles.lean ====
section
/-!
DEFINITION. Machine/Tiles.lean: the tile instructions of Milys (R156, R174, R188 to R191).
-/
namespace Sys2Proof.Machine
open Sys2Proof

/-- The slot of handle `h`, TILE where it is unbound (R156 rule 5); reads that still land in the slot are waited for. -/
def withTile (l : Nat) (r : CellRun) (s : State) (h : Nat) (f : CellRun → State → Nat → Res) : Res :=
  match gT r h with
  | none => .fault 5 0
  | some k => let p := settle l (touches (1 + k) 0 tileLen) r s; f p.1 p.2 k

/-- The byte offset 64 × (sa + IMM6). -/
def tileOff (r : CellRun) (sa : Nat) (imm : BitVec 6) : Nat := ((gS r sa + imm.zeroExtend 64) * 64).toNat

/-- TLD (R174). -/
def execTld (l : Fin 6144) (vd : Fin 16) (th : Fin 4) (sa : Fin 32) (imm : BitVec 6) (s : State) : Host.Outcome State Fault Refusal :=
  both (ins s l 1 [sa] (fun r s => withTile l r s th (fun r s k =>
    let o := tileOff r sa imm
    if 2048 < o then .fault 1 0 else .ok (pV r vd (BitVec.ofNat 512 (ofLeBytes (sliceBytes (slotTile s l k) o 64)))) s)))
/-- TST (R174). -/
def execTst (l : Fin 6144) (vd : Fin 16) (th : Fin 4) (sa : Fin 32) (imm : BitVec 6) (s : State) : Host.Outcome State Fault Refusal :=
  both (ins s l 1 [sa] (fun r s => withTile l r s th (fun r s k =>
    let o := tileOff r sa imm
    if 2048 < o then .fault 1 0 else .ok r (setSlotTile s l k (putBytes (slotTile s l k) o (leBytes 64 (gV r vd).toNat))))))

/-- An MX block is accessible: FMT is an MX format, the header agrees (R188) and the block exists. -/
def mxOk (fmt : Nat) (t : List Byte) (b : Nat) : Bool :=
  Num.isMx fmt && Num.mxHeaderOk fmt (tileBlocks t) (tileValid t) && decide (b < tileBlocks t)

/-- VMXU (R174, R189): elements 16h to 16h + 15 of a block, rounded to FP32 under RND. -/
def execVmxu (l : Fin 6144) (vd : Fin 16) (th : Fin 4) (sa : Fin 32) (imm : BitVec 6) (s : State) : Host.Outcome State Fault Refusal :=
  both (ins s l 1 [sa] (fun r s => withTile l r s th (fun r s k =>
    let t := slotTile s l k
    let b := (gS r sa).toNat
    if !mxOk r.r.fmt t b then .fault 4 0
    else
      let blk := Num.mxBlock r.r.fmt (tileBlocks t) b (tileData t)
      let vs := ((Num.mxDecode r.r.fmt blk.1 blk.2).drop (if imm.getLsbD 0 then 16 else 0)).take 16
      let x := Num.drawAll r.r.rnd (fun d v => Num.encode Num.fp32 r.r.rnd d v) vs (cellRand s l)
      .ok (pV r vd (merge 16 32 0 (fun _ => true) false x.1)) (keepRand s l x.2))))

/-- The 16 FP32 values of a vector register. -/
def values32 (v : BitVec 512) : List Num.Val := (List.range 16).map (fun i => Num.decode Num.fp32 (el 32 v i))

/-- VMXP (R174, R190): v(VD) and v(VD + 1) as block sa, with a new scale; the loader rejects an odd VD. -/
def execVmxp (l : Fin 6144) (vd : Fin 16) (th : Fin 4) (sa : Fin 32) (s : State) : Host.Outcome State Fault Refusal :=
  loaded "VMXP" (vd.val % 2 == 0) (both (ins s l 2 [sa] (fun r s => withTile l r s th (fun r s k =>
    let t := slotTile s l k
    let b := (gS r sa).toNat
    if !mxOk r.r.fmt t b then .fault 4 0
    else
      let w := Num.elemBits r.r.fmt
      let x := Num.mxEncode r.r.fmt r.r.rnd (values32 (gV r vd) ++ values32 (gV r (vd + 1))) (cellRand s l)
      let t' := putBytes (putBytes t (64 + 4 * w * b) (Num.unelems w x.2.1)) (64 + 4 * w * tileBlocks t + b) (leBytes 1 x.1)
      .ok r (keepRand (setSlotTile s l k t') l x.2.2)))))

/-- The header of a tile that TADD or TMULS works on agrees with FMT and, under an MX format, with itself (R174, R188). -/
def tileOk (fmt : Nat) (t : List Byte) : Bool :=
  tileFmt t == fmt && (!Num.isMx fmt || Num.mxHeaderOk fmt (tileBlocks t) (tileValid t))

/-- A tile with new data. -/
def withData (t d : List Byte) : List Byte := t.take 64 ++ padTo 2048 d

/-- TADD (R174, R191, R192). -/
def execTadd (l : Fin 6144) (td ts : Fin 4) (s : State) : Host.Outcome State Fault Refusal :=
  both (ins s l 32 [] (fun r s => withTile l r s td (fun r s k => withTile l r s ts (fun r s j =>
    let a := slotTile s l k
    let b := slotTile s l j
    if !tileOk r.r.fmt a || !tileOk r.r.fmt b || (Num.isMx r.r.fmt && tileBlocks a != tileBlocks b) then .fault 4 0
    else
      let x := Num.tileAdd r.r.fmt r.r.rnd (tileBlocks a) (tileData a) (tileData b) (cellRand s l)
      .ok r (keepRand (setSlotTile s l k (withData a x.1)) l x.2)))))
/-- TMULS (R174, R186, R191). -/
def execTmuls (l : Fin 6144) (td : Fin 4) (sa : Fin 32) (s : State) : Host.Outcome State Fault Refusal :=
  both (ins s l 32 [sa] (fun r s => withTile l r s td (fun r s k =>
    let a := slotTile s l k
    if !tileOk r.r.fmt a then .fault 4 0
    else
      let x := Num.tileScale r.r.fmt r.r.rnd (tileBlocks a) (tileData a) ((gS r sa).toNat % 2 ^ 32) (cellRand s l)
      .ok r (keepRand (setSlotTile s l k (withData a x.1)) l x.2))))

/-- TZERO (R174). -/
def execTzero (l : Fin 6144) (td : Fin 4) (s : State) : Host.Outcome State Fault Refusal :=
  both (ins s l 33 [] (fun r s => withTile l r s td (fun r s k => .ok r (setSlotTile s l k (List.replicate tileLen 0)))))
/-- TCOPY (R174). -/
def execTcopy (l : Fin 6144) (td ts : Fin 4) (s : State) : Host.Outcome State Fault Refusal :=
  both (ins s l 33 [] (fun r s => withTile l r s td (fun r s k => withTile l r s ts (fun r s j =>
    .ok r (if td = ts then s else setSlotTile s l k (slotTile s l j))))))
/-- TCRC (R74, R174). -/
def execTcrc (l : Fin 6144) (rd : Fin 32) (td : Fin 4) (s : State) : Host.Outcome State Fault Refusal :=
  both (ins s l 33 [rd] (fun r s => withTile l r s td (fun r s k => .ok (pS r rd (BitVec.ofNat 64 (tileCrc (slotTile s l k)))) s)))

/-- TALLOC (R156): an unbound handle takes a free slot, 6 and then 7, which arrivals leave free; a third one in a handler raises TILE. -/
def execTalloc (l : Fin 6144) (td : Fin 4) (s : State) : Host.Outcome State Fault Refusal :=
  stockOnly "TALLOC" s l (ins s l 1 [] (fun r s =>
    if (gT r td).isSome || decide (2 ≤ r.own.length) then .fault 5 0
    else .ok { r with own := r.own ++ [6 + r.own.length], r := { r.r with t := r.r.t.set td (some (6 + r.own.length)) } } s))
/-- TFREE (R156): a bound handle is unbound. -/
def execTfree (l : Fin 6144) (td : Fin 4) (s : State) : Host.Outcome State Fault Refusal :=
  stockOnly "TFREE" s l (ins s l 1 [] (fun r s =>
    if (gT r td).isNone then .fault 5 0 else .ok { r with r := { r.r with t := r.r.t.set td none } } s))

end Sys2Proof.Machine
end

