-- ==== Sys2Proof/Machine/Dispatch.lean ====
section
/-!
DEFINITION. Machine/Dispatch.lean: one arm per command: its meaning, or its rejection by name.
-/
namespace Sys2Proof.Machine

/-- The effect of a command on everything but the queue. -/
def exec (i : Instr) (s : State) : Host.Outcome State Fault Refusal :=
  match i with
  | .registerWrite w off bytes v => Sys2Proof.Machine.execRegisterWrite w off bytes v s
  | .readClear w off bytes => Sys2Proof.Machine.execReadClear w off bytes s
  | .funcCmdNone w n seq => Sys2Proof.Machine.execFuncCmdNone w n seq s
  | .funcStart w n seq img => Sys2Proof.Machine.execFuncStart w n seq img s
  | .funcStop w n seq => Sys2Proof.Machine.execFuncStop w n seq s
  | .funcAckHost w n seq => Sys2Proof.Machine.execFuncAckHost w n seq s
  | .funcRetire w n seq => Sys2Proof.Machine.execFuncRetire w n seq s
  | .funcReinstate w n seq => Sys2Proof.Machine.execFuncReinstate w n seq s
  | .dryFitComplete n hw bad a => Sys2Proof.Machine.execDryFitComplete n hw bad a s
  | .dryFitTimeout n => Sys2Proof.Machine.execDryFitTimeout n s
  | .stopDrainComplete n => Sys2Proof.Machine.execStopDrainComplete n s
  | .stopDrainLimit n => Sys2Proof.Machine.execStopDrainLimit n s
  | .funcPermanentFault n => Sys2Proof.Machine.execFuncPermanentFault n s
  | .packetIngress inp hi p complete miss => Sys2Proof.Machine.execPacketIngress inp hi p complete miss s
  | .ingressHoldRelease inp hi tc => Sys2Proof.Machine.execIngressHoldRelease inp hi tc s
  | .extentLookupReturn id readError => Sys2Proof.Machine.execExtentLookupReturn id readError s
  | .spillRefill inp out tc multicast bad => Sys2Proof.Machine.execSpillRefill inp out tc multicast bad s
  | .schedulerMatching ecc => Sys2Proof.Machine.execSchedulerMatching s ecc
  | .portDown h => Sys2Proof.Machine.execPortDown h s
  | .flushNoticeSend => Sys2Proof.Machine.execFlushNoticeSend s
  | .routeWrite w d bundle valid announce => Sys2Proof.Machine.execRouteWrite w d bundle valid announce s
  | .bundleWrite b v => Sys2Proof.Machine.execBundleWrite b v s
  | .linkFrameReceive h f miss => Sys2Proof.Machine.execLinkFrameReceive h f miss s
  | .linkAuthLimit h => Sys2Proof.Machine.execLinkAuthLimit h s
  | .linkFrameSend h => Sys2Proof.Machine.execLinkFrameSend h s
  | .read x p => Sys2Proof.Machine.execRead x p s
  | .write x p => Sys2Proof.Machine.execWrite x p s
  | .readBulk x p => Sys2Proof.Machine.execReadBulk x p s
  | .writeBulk x p => Sys2Proof.Machine.execWriteBulk x p s
  | .readTile x p => Sys2Proof.Machine.execReadTile x p s
  | .writeTile x p => Sys2Proof.Machine.execWriteTile x p s
  | .atomic x p => Sys2Proof.Machine.execAtomic x p s
  | .signal x p => Sys2Proof.Machine.execSignal x p s
  | .regRead p => Sys2Proof.Machine.execRegRead p s
  | .regWrite p => Sys2Proof.Machine.execRegWrite p s
  | .mapRead p => Sys2Proof.Machine.execMapRead p s
  | .ctrRequest x p => Sys2Proof.Machine.execCtrRequest x p s
  | .ctrGrant e p => Sys2Proof.Machine.execCtrGrant e p s
  | .ctrReturn x p => Sys2Proof.Machine.execCtrReturn x p s
  | .ctrRefuse e p => Sys2Proof.Machine.execCtrRefuse e p s
  | .completion e p => Sys2Proof.Machine.execCompletion e p s
  | .readResp e p => Sys2Proof.Machine.execReadResp e p s
  | .tileResp e p => Sys2Proof.Machine.execTileResp e p s
  | .atomicResp e p => Sys2Proof.Machine.execAtomicResp e p s
  | .noticeUnreachable e p => Sys2Proof.Machine.execNoticeUnreachable e p s
  | .noticePortDown e p => Sys2Proof.Machine.execNoticePortDown e p s
  | .noticeMemberLost e p => Sys2Proof.Machine.execNoticeMemberLost e p s
  | .noticeTakeover e p => Sys2Proof.Machine.execNoticeTakeover e p s
  | .stepCtlAbort e p => Sys2Proof.Machine.execStepCtlAbort e p s
  | .swarmResultReceive e p => Sys2Proof.Machine.execSwarmResultReceive e p s
  | .swarmCreditReceive e p => Sys2Proof.Machine.execSwarmCreditReceive e p s
  | .swarmAbortApply e p => Sys2Proof.Machine.execSwarmAbortApply e p s
  | .tickStart => Sys2Proof.Machine.execTickStart s
  | .timeWordSend h => Sys2Proof.Machine.execTimeWordSend h s
  | .timeLcbReceive h lcb => Sys2Proof.Machine.execTimeLcbReceive h lcb s
  | .timeReferenceLoss => Sys2Proof.Machine.execTimeReferenceLoss s
  | .holdoverExpired => Sys2Proof.Machine.execHoldoverExpired s
  | .timeSrcWrite w src => Sys2Proof.Machine.execTimeSrcWrite w src s
  | .reacquire => Sys2Proof.Machine.execReacquire s
  | .tickInEdge lost => Sys2Proof.Machine.execTickInEdge s lost
  | .gtimerFire k => Sys2Proof.Machine.execGtimerFire k s
  | .snapshotReq b => Sys2Proof.Machine.execSnapshotReq b s
  | .snapshotDone b => Sys2Proof.Machine.execSnapshotDone b s
  | .jigStageWrite w j k v => Sys2Proof.Machine.execJigStageWrite w j k v s
  | .jigCommit w target => Sys2Proof.Machine.execJigCommit w target s
  | .jigValidationDone => Sys2Proof.Machine.execJigValidationDone s
  | .jigTableSwap => Sys2Proof.Machine.execJigTableSwap s
  | .jigStageRefillDone => Sys2Proof.Machine.execJigStageRefillDone s
  | .cellInit l => Sys2Proof.Machine.execCellInit l s
  | .cellTick l => Sys2Proof.Machine.execCellTick l s
  | .cellTimer l k => Sys2Proof.Machine.execCellTimer l k s
  | .homedReq p ecc => Sys2Proof.Machine.execHomedReq p s ecc
  | .response p => Sys2Proof.Machine.execResponse p s
  | .onwardAttemptTimeout l tag => Sys2Proof.Machine.execOnwardAttemptTimeout l tag s
  | .ledgerEntryExpire l way => Sys2Proof.Machine.execLedgerEntryExpire l way s
  | .atomicResponseExpire => Sys2Proof.Machine.execAtomicResponseExpire s
  | .gather p => Sys2Proof.Machine.execGather p s
  | .ownQuery p ecc => Sys2Proof.Machine.execOwnQuery p s ecc
  | .ownAcquire p ecc => Sys2Proof.Machine.execOwnAcquire p s ecc
  | .ownRelease p ecc => Sys2Proof.Machine.execOwnRelease p s ecc
  | .ownPublish p ecc => Sys2Proof.Machine.execOwnPublish p s ecc
  | .headerCopy n => Sys2Proof.Machine.execHeaderCopy n s
  | .swarmTile p => Sys2Proof.Machine.execSwarmTile p s
  | .swarmAck p => Sys2Proof.Machine.execSwarmAck p s
  | .swarmResend p => Sys2Proof.Machine.execSwarmResend p s
  | .swarmCreditReq p => Sys2Proof.Machine.execSwarmCreditReq p s
  | .swarmAbortReq p => Sys2Proof.Machine.execSwarmAbortReq p s
  | .swarmAbortSeen p => Sys2Proof.Machine.execSwarmAbortSeen p s
  | .swarmAbortRelay p => Sys2Proof.Machine.execSwarmAbortRelay p s
  | .swarmAbortOp w k => Sys2Proof.Machine.execSwarmAbortOp w k s
  | .swarmCreditWindow => Sys2Proof.Machine.execSwarmCreditWindow s
  | .swarmAdmission => Sys2Proof.Machine.execSwarmAdmission s
  | .swarmDeadlineTimeout k hi j => Sys2Proof.Machine.execSwarmDeadlineTimeout k hi j s
  | .swarmResultResend k hi j => Sys2Proof.Machine.execSwarmResultResend k hi j s
  | .swarmAbortResend k op => Sys2Proof.Machine.execSwarmAbortResend k op s
  | .swarmAbortResendLimit k op => Sys2Proof.Machine.execSwarmAbortResendLimit k op s
  | .swarmCreditReqRepeat did => Sys2Proof.Machine.execSwarmCreditReqRepeat did s
  | .cellWatchdog l => Sys2Proof.Machine.execCellWatchdog l s
  | .cellCe n c => Sys2Proof.Machine.execCellCe n c s
  | .cellCeLimit n c => Sys2Proof.Machine.execCellCeLimit n c s
  | .cellUe n c cause detail => Sys2Proof.Machine.execCellUe n c cause detail s
  | .suddenSwapComplete l ecc => Sys2Proof.Machine.execSuddenSwapComplete l s ecc
  | .physCellRetire w n c => Sys2Proof.Machine.execPhysCellRetire w n c s
  | .migrationComplete l => Sys2Proof.Machine.execMigrationComplete l s
  | .physCellReinstate w n c => Sys2Proof.Machine.execPhysCellReinstate w n c s
  | .cellTestDone n c pass => Sys2Proof.Machine.execCellTestDone n c pass s
  | .sparePeriodicTest n c pass => Sys2Proof.Machine.execSparePeriodicTest n c pass s
  | .memoryAccessComplete l n => Sys2Proof.Machine.execMemoryAccessComplete l n s
  | .add l rd ra rb => Sys2Proof.Machine.execAdd l rd ra rb s
  | .sub l rd ra rb => Sys2Proof.Machine.execSub l rd ra rb s
  | .andR l rd ra rb => Sys2Proof.Machine.execAndR l rd ra rb s
  | .orR l rd ra rb => Sys2Proof.Machine.execOrR l rd ra rb s
  | .xorR l rd ra rb => Sys2Proof.Machine.execXorR l rd ra rb s
  | .sll l rd ra rb => Sys2Proof.Machine.execSll l rd ra rb s
  | .srl l rd ra rb => Sys2Proof.Machine.execSrl l rd ra rb s
  | .sra l rd ra rb => Sys2Proof.Machine.execSra l rd ra rb s
  | .mul l rd ra rb => Sys2Proof.Machine.execMul l rd ra rb s
  | .mulhu l rd ra rb => Sys2Proof.Machine.execMulhu l rd ra rb s
  | .minR l rd ra rb => Sys2Proof.Machine.execMinR l rd ra rb s
  | .maxR l rd ra rb => Sys2Proof.Machine.execMaxR l rd ra rb s
  | .minu l rd ra rb => Sys2Proof.Machine.execMinu l rd ra rb s
  | .maxu l rd ra rb => Sys2Proof.Machine.execMaxu l rd ra rb s
  | .slt l rd ra rb => Sys2Proof.Machine.execSlt l rd ra rb s
  | .sltu l rd ra rb => Sys2Proof.Machine.execSltu l rd ra rb s
  | .crc l rd ra rb => Sys2Proof.Machine.execCrc l rd ra rb s
  | .crcb l rd ra rb => Sys2Proof.Machine.execCrcb l rd ra rb s
  | .addi l rd ra imm => Sys2Proof.Machine.execAddi l rd ra imm s
  | .andi l rd ra imm => Sys2Proof.Machine.execAndi l rd ra imm s
  | .ori l rd ra imm => Sys2Proof.Machine.execOri l rd ra imm s
  | .xori l rd ra imm => Sys2Proof.Machine.execXori l rd ra imm s
  | .slli l rd ra sh => Sys2Proof.Machine.execSlli l rd ra sh s
  | .srli l rd ra sh => Sys2Proof.Machine.execSrli l rd ra sh s
  | .srai l rd ra sh => Sys2Proof.Machine.execSrai l rd ra sh s
  | .lui l rd imm sh => Sys2Proof.Machine.execLui l rd imm sh s
  | .setfmt l f => Sys2Proof.Machine.execSetfmt l f s
  | .setrnd l v => Sys2Proof.Machine.execSetrnd l v s
  | .rdctl l rd => Sys2Proof.Machine.execRdctl l rd s
  | .wrctl l ra => Sys2Proof.Machine.execWrctl l ra s
  | .beq l ra rb off => Sys2Proof.Machine.execBeq l ra rb off s
  | .bne l ra rb off => Sys2Proof.Machine.execBne l ra rb off s
  | .blt l ra rb off => Sys2Proof.Machine.execBlt l ra rb off s
  | .bge l ra rb off => Sys2Proof.Machine.execBge l ra rb off s
  | .bltu l ra rb off => Sys2Proof.Machine.execBltu l ra rb off s
  | .bgeu l ra rb off => Sys2Proof.Machine.execBgeu l ra rb off s
  | .br l off => Sys2Proof.Machine.execBr l off s
  | .bp l pa neg off => Sys2Proof.Machine.execBp l pa neg off s
  | .call l off => Sys2Proof.Machine.execCall l off s
  | .ret l => Sys2Proof.Machine.execRet l s
  | .jt l ra table => Sys2Proof.Machine.execJt l ra table s
  | .loopR l reg count ix body => Sys2Proof.Machine.execLoopR l reg count ix body s
  | .lend l => Sys2Proof.Machine.execLend l s
  | .fin l ra th => Sys2Proof.Machine.execFin l ra th s
  | .endR l => Sys2Proof.Machine.execEndR l s
  | .trap l imm => Sys2Proof.Machine.execTrap l imm s
  | .ld8u l rd ra imm => Sys2Proof.Machine.execLd8u l rd ra imm s
  | .ld16u l rd ra imm => Sys2Proof.Machine.execLd16u l rd ra imm s
  | .ld32u l rd ra imm => Sys2Proof.Machine.execLd32u l rd ra imm s
  | .ld64 l rd ra imm => Sys2Proof.Machine.execLd64 l rd ra imm s
  | .st8 l rd ra imm => Sys2Proof.Machine.execSt8 l rd ra imm s
  | .st16 l rd ra imm => Sys2Proof.Machine.execSt16 l rd ra imm s
  | .st32 l rd ra imm => Sys2Proof.Machine.execSt32 l rd ra imm s
  | .st64 l rd ra imm => Sys2Proof.Machine.execSt64 l rd ra imm s
  | .vld l vd ra ri sc disp => Sys2Proof.Machine.execVld l vd ra ri sc disp s
  | .vst l vd ra ri sc disp => Sys2Proof.Machine.execVst l vd ra ri sc disp s
  | .sld l rd ra imm => Sys2Proof.Machine.execSld l rd ra imm s
  | .sst l rd ra imm => Sys2Proof.Machine.execSst l rd ra imm s
  | .samoAdd l rd ra rb => Sys2Proof.Machine.execSamoAdd l rd ra rb s
  | .samoSwap l rd ra rb => Sys2Proof.Machine.execSamoSwap l rd ra rb s
  | .samoCas l rd ra rb => Sys2Proof.Machine.execSamoCas l rd ra rb s
  | .samoMax l rd ra rb => Sys2Proof.Machine.execSamoMax l rd ra rb s
  | .fence l => Sys2Proof.Machine.execFence l s
  | .hld l rl rh nm1 disp => Sys2Proof.Machine.execHld l rl rh nm1 disp s
  | .hst l rl rh nm1 disp => Sys2Proof.Machine.execHst l rl rh nm1 disp s
  | .waitR l mask => Sys2Proof.Machine.execWaitR l mask s
  | .pand l pd pa pb => Sys2Proof.Machine.execPand l pd pa pb s
  | .por l pd pa pb => Sys2Proof.Machine.execPor l pd pa pb s
  | .pxor l pd pa pb => Sys2Proof.Machine.execPxor l pd pa pb s
  | .pnot l pd pa => Sys2Proof.Machine.execPnot l pd pa s
  | .pfroms l pd sa => Sys2Proof.Machine.execPfroms l pd sa s
  | .sfromp l sd pa => Sys2Proof.Machine.execSfromp l sd pa s
  | .pcnt l sd pa => Sys2Proof.Machine.execPcnt l sd pa s
  | .vadd l vd va vb pg zm w => Sys2Proof.Machine.execVadd l vd va vb pg zm w s
  | .vsub l vd va vb pg zm w => Sys2Proof.Machine.execVsub l vd va vb pg zm w s
  | .vmul l vd va vb pg zm w => Sys2Proof.Machine.execVmul l vd va vb pg zm w s
  | .vfma l vd va vb vc pg zm w => Sys2Proof.Machine.execVfma l vd va vb vc pg zm w s
  | .vfms l vd va vb vc pg zm w => Sys2Proof.Machine.execVfms l vd va vb vc pg zm w s
  | .vmax l vd va vb pg zm w => Sys2Proof.Machine.execVmax l vd va vb pg zm w s
  | .vmin l vd va vb pg zm w => Sys2Proof.Machine.execVmin l vd va vb pg zm w s
  | .vabs l vd va pg zm w => Sys2Proof.Machine.execVabs l vd va pg zm w s
  | .vneg l vd va pg zm w => Sys2Proof.Machine.execVneg l vd va pg zm w s
  | .vrcp l vd va pg zm w => Sys2Proof.Machine.execVrcp l vd va pg zm w s
  | .vrsqrt l vd va pg zm w => Sys2Proof.Machine.execVrsqrt l vd va pg zm w s
  | .vand l vd va vb pg zm => Sys2Proof.Machine.execVand l vd va vb pg zm s
  | .vor l vd va vb pg zm => Sys2Proof.Machine.execVor l vd va vb pg zm s
  | .vxor l vd va vb pg zm => Sys2Proof.Machine.execVxor l vd va vb pg zm s
  | .vsel l vd va vb pg w => Sys2Proof.Machine.execVsel l vd va vb pg w s
  | .vcvtw l vd va part pg zm => Sys2Proof.Machine.execVcvtw l vd va part pg zm s
  | .vnrw l vd va vb half pg zm => Sys2Proof.Machine.execVnrw l vd va vb half pg zm s
  | .vi2f l vd va pg zm => Sys2Proof.Machine.execVi2f l vd va pg zm s
  | .vf2i l vd va pg zm => Sys2Proof.Machine.execVf2i l vd va pg zm s
  | .vcmpEq l pd va vb pg zm w => Sys2Proof.Machine.execVcmpEq l pd va vb pg zm w s
  | .vcmpLt l pd va vb pg zm w => Sys2Proof.Machine.execVcmpLt l pd va vb pg zm w s
  | .vcmpLe l pd va vb pg zm w => Sys2Proof.Machine.execVcmpLe l pd va vb pg zm w s
  | .vcmpUnord l pd va vb pg zm w => Sys2Proof.Machine.execVcmpUnord l pd va vb pg zm w s
  | .vmov l vd va => Sys2Proof.Machine.execVmov l vd va s
  | .vbcast l vd sa imm w => Sys2Proof.Machine.execVbcast l vd sa imm w s
  | .vext l sa va imm w => Sys2Proof.Machine.execVext l sa va imm w s
  | .vins l vd sa imm w => Sys2Proof.Machine.execVins l vd sa imm w s
  | .tld l vd th sa imm => Sys2Proof.Machine.execTld l vd th sa imm s
  | .tst l vd th sa imm => Sys2Proof.Machine.execTst l vd th sa imm s
  | .vmxu l vd th sa imm => Sys2Proof.Machine.execVmxu l vd th sa imm s
  | .vmxp l vd th sa => Sys2Proof.Machine.execVmxp l vd th sa s
  | .tadd l td ts => Sys2Proof.Machine.execTadd l td ts s
  | .tmuls l td sa => Sys2Proof.Machine.execTmuls l td sa s
  | .tzero l td => Sys2Proof.Machine.execTzero l td s
  | .tcopy l td ts => Sys2Proof.Machine.execTcopy l td ts s
  | .tcrc l rd td => Sys2Proof.Machine.execTcrc l rd td s
  | .talloc l td => Sys2Proof.Machine.execTalloc l td s
  | .tfree l td => Sys2Proof.Machine.execTfree l td s
  | .emit l rh rp => Sys2Proof.Machine.execEmit l rh rp s
  | .emitt l rh th => Sys2Proof.Machine.execEmitt l rh th s
  | .rdsys l rd aux => Sys2Proof.Machine.execRdsys l rd aux s
  | .gpiow l ra rb => Sys2Proof.Machine.execGpiow l ra rb s
  | .gpior l rd ra => Sys2Proof.Machine.execGpior l rd ra s
  | .cntrd l rd ra => Sys2Proof.Machine.execCntrd l rd ra s
  | .doorbellWrite port func page off v => Sys2Proof.Machine.execDoorbellWrite port func page off v s
  | .descRead e => Sys2Proof.Machine.execDescRead e s
  | .descWrite e => Sys2Proof.Machine.execDescWrite e s
  | .descReadTile e => Sys2Proof.Machine.execDescReadTile e s
  | .descWriteTile e => Sys2Proof.Machine.execDescWriteTile e s
  | .descAtomic e => Sys2Proof.Machine.execDescAtomic e s
  | .descOwn e => Sys2Proof.Machine.execDescOwn e s
  | .descGather e => Sys2Proof.Machine.execDescGather e s
  | .descSwarm e => Sys2Proof.Machine.execDescSwarm e s
  | .descFlush e => Sys2Proof.Machine.execDescFlush e s
  | .descNop e => Sys2Proof.Machine.execDescNop e s
  | .descUnsupported e => Sys2Proof.Machine.execDescUnsupported e s
  | .descriptorComplete id => Sys2Proof.Machine.execDescriptorComplete id s
  | .requestAttemptTimeout id => Sys2Proof.Machine.execRequestAttemptTimeout id s
  | .seqSkipWaitExpire e src tc => Sys2Proof.Machine.execSeqSkipWaitExpire e src tc s
  | .seqRecordExpire e src tc => Sys2Proof.Machine.execSeqRecordExpire e src tc s
  | .planeBarExpire e dest => Sys2Proof.Machine.execPlaneBarExpire e dest s
  | .pairPlaneReset c dest => Sys2Proof.Machine.execPairPlaneReset c dest s
  | .writeCompletionRelease id => Sys2Proof.Machine.execWriteCompletionRelease id s
  | .ctrHoldExpire e k => Sys2Proof.Machine.execCtrHoldExpire e k s
  | .ctrRequestRetry e dest => Sys2Proof.Machine.execCtrRequestRetry e dest s
  | .ctrCreditUnused e dest ctr => Sys2Proof.Machine.execCtrCreditUnused e dest ctr s
  | .ctrGrantIdle e k => Sys2Proof.Machine.execCtrGrantIdle e k s
  | .wcHoldExpire e => Sys2Proof.Machine.execWcHoldExpire e s
  | .tornRetry id => Sys2Proof.Machine.execTornRetry id s
  | .eqModTimer c => Sys2Proof.Machine.execEqModTimer c s
  | .ctxEnable w c => Sys2Proof.Machine.execCtxEnable w c s
  | .ctxDisable w c => Sys2Proof.Machine.execCtxDisable w c s
  | .segInvalCmd w c all seq => Sys2Proof.Machine.execSegInvalCmd w c all seq s
  | .segInvalDone => Sys2Proof.Machine.execSegInvalDone s
  | .atsInvalidate port func tag va size => Sys2Proof.Machine.execAtsInvalidate port func tag va size s
  | .atsTranslationComplete port func va size pa r wr => Sys2Proof.Machine.execAtsTranslationComplete port func va size pa r wr s
  | .hostDmaComplete tag status data => Sys2Proof.Machine.execHostDmaComplete tag status data s
  | .extCmdWrite w index => Sys2Proof.Machine.execExtCmdWrite w index s
  | .extCmdRevoke w index => Sys2Proof.Machine.execExtCmdRevoke w index s
  | .extCmdRead w index => Sys2Proof.Machine.execExtCmdRead w index s
  | .extCmdDone => Sys2Proof.Machine.execExtCmdDone s
  | .extentDrainTimeout index => Sys2Proof.Machine.execExtentDrainTimeout index s
  | .exportWrite w e k v => Sys2Proof.Machine.execExportWrite w e k v s
  | .numvfsWrite port n enable => Sys2Proof.Machine.execNumvfsWrite port n enable s
  | .vfEnableClear port n enable => Sys2Proof.Machine.execVfEnableClear port n enable s
  | .flr port func => Sys2Proof.Machine.execFlr port func s
  | .flrTagRelease => Sys2Proof.Machine.execFlrTagRelease s
  | .windowStore port func k off data => Sys2Proof.Machine.execWindowStore port func k off data s
  | .windowLoad port func k off len tag => Sys2Proof.Machine.execWindowLoad port func k off len tag s
  | .windowReadTimeout id => Sys2Proof.Machine.execWindowReadTimeout id s
  | .msixUnmask port func vector => Sys2Proof.Machine.execMsixUnmask port func vector s
  | .handover w => Sys2Proof.Machine.execHandover w s
  | .handoverAuto => Sys2Proof.Machine.execHandoverAuto s
  | .perstAssert port => Sys2Proof.Machine.execPerstAssert port s
  | .hostLinkDown port => Sys2Proof.Machine.execHostLinkDown port s
  | .pcieAerError port func uncorrectable status => Sys2Proof.Machine.execPcieAerError port func uncorrectable status s
  | .confStart port func => Sys2Proof.Machine.execConfStart port func s
  | .confRekey port func => Sys2Proof.Machine.execConfRekey port func s
  | .confEnd port func => Sys2Proof.Machine.execConfEnd port func s
  | .confQuery port func => Sys2Proof.Machine.execConfQuery port func s
  | .spdmSessionEnd port func => Sys2Proof.Machine.execSpdmSessionEnd port func s
  | .linkTrainingStart h mask => Sys2Proof.Machine.execLinkTrainingStart h mask s
  | .linkTrained h good => Sys2Proof.Machine.execLinkTrained h good s
  | .linkTrainingTimeout h => Sys2Proof.Machine.execLinkTrainingTimeout h s
  | .keyingOffer h f => Sys2Proof.Machine.execKeyingOffer h f s
  | .linkKeyed h => Sys2Proof.Machine.execLinkKeyed h s
  | .linkKeyingTimeout h => Sys2Proof.Machine.execLinkKeyingTimeout h s
  | .linkRetryTimer h mask => Sys2Proof.Machine.execLinkRetryTimer h s mask
  | .alignmentMarker p l idx port sender skew => Sys2Proof.Machine.execAlignmentMarker p l idx port sender skew s
  | .lcbEmpty h lcb => Sys2Proof.Machine.execLcbEmpty h lcb s
  | .lcbWidthReq h lcb => Sys2Proof.Machine.execLcbWidthReq h lcb s
  | .lcbWidthAck h lcb => Sys2Proof.Machine.execLcbWidthAck h lcb s
  | .widthReqTimeout h => Sys2Proof.Machine.execWidthReqTimeout h s
  | .widthChange h => Sys2Proof.Machine.execWidthChange h s
  | .widthChangeResume h => Sys2Proof.Machine.execWidthChangeResume h s
  | .laneLos p l trips => Sys2Proof.Machine.execLaneLos p l s trips
  | .laneLol p l trips => Sys2Proof.Machine.execLaneLol p l s trips
  | .laneUcw p l => Sys2Proof.Machine.execLaneUcw p l s
  | .laneSerWindow p l corrected received wrong => Sys2Proof.Machine.execLaneSerWindow p l corrected received s wrong
  | .laneRetrainDone p l => Sys2Proof.Machine.execLaneRetrainDone p l s
  | .laneRetrainFail p l => Sys2Proof.Machine.execLaneRetrainFail p l s
  | .laneRetrainLimit p l => Sys2Proof.Machine.execLaneRetrainLimit p l s
  | .laneRetire w p l => Sys2Proof.Machine.execLaneRetire w p l s
  | .laneReinstate w p l => Sys2Proof.Machine.execLaneReinstate w p l s
  | .linkSignalLoss h los => Sys2Proof.Machine.execLinkSignalLoss h s los
  | .rekeyDue h receive => Sys2Proof.Machine.execRekeyDue h receive s
  | .nextKeyInstalled h => Sys2Proof.Machine.execNextKeyInstalled h s
  | .keyExpired h => Sys2Proof.Machine.execKeyExpired h s
  | .eyeScanStart k => Sys2Proof.Machine.execEyeScanStart k s
  | .eyeScanDone k errors => Sys2Proof.Machine.execEyeScanDone k errors s
  | .cmisModuleInit h => Sys2Proof.Machine.execCmisModuleInit h s
  | .cmisModuleReady h code app rev => Sys2Proof.Machine.execCmisModuleReady h code app s rev
  | .cmisDatapathActivated h => Sys2Proof.Machine.execCmisDatapathActivated h s
  | .cmisStepTimeout h => Sys2Proof.Machine.execCmisStepTimeout h s
  | .cmisPoll p ok code fault alarm warning temp los lol => Sys2Proof.Machine.execCmisPoll p ok code fault alarm warning temp los lol s
  | .hbmUeReread m k g good => Sys2Proof.Machine.execHbmUeReread m k g good s
  | .hbmInterfaceError m k => Sys2Proof.Machine.execHbmInterfaceError m k s
  | .hbmRetrainDone m k => Sys2Proof.Machine.execHbmRetrainDone m k s
  | .hbmRetrainFail m k => Sys2Proof.Machine.execHbmRetrainFail m k s
  | .hbmCeLimit m k => Sys2Proof.Machine.execHbmCeLimit m k s
  | .hbmUeLimit m k => Sys2Proof.Machine.execHbmUeLimit m k s
  | .pcRetire w m k => Sys2Proof.Machine.execPcRetire w m k s
  | .pcMigrationDone m k => Sys2Proof.Machine.execPcMigrationDone m k s
  | .pcReinstate w m k => Sys2Proof.Machine.execPcReinstate w m k s
  | .pcTestDone m k pass => Sys2Proof.Machine.execPcTestDone m k pass s
  | .stepCmd w tenant epoch => Sys2Proof.Machine.execStepCmd w tenant epoch s
  | .stepRebroadcast => Sys2Proof.Machine.execStepRebroadcast s
  | .d2dError die => Sys2Proof.Machine.execD2dError die s
  | .d2dRetrainEnd die ok => Sys2Proof.Machine.execD2dRetrainEnd die ok s
  | .errorCoalesceTick lost => Sys2Proof.Machine.execErrorCoalesceTick s lost
  | .errRingHeadWrite w head => Sys2Proof.Machine.execErrRingHeadWrite w head s
  | .errRingEnable on => Sys2Proof.Machine.execErrRingEnable on s
  | .errRingMsiTimer => Sys2Proof.Machine.execErrRingMsiTimer s
  | .logClear => Sys2Proof.Machine.execLogClear s
  | .errSrcClear n => Sys2Proof.Machine.execErrSrcClear n s
  | .cdcResync => Sys2Proof.Machine.execCdcResync s
  | .telemetryMap => Sys2Proof.Machine.execTelemetryMap s
  | .mirrorEntryExpire key => Sys2Proof.Machine.execMirrorEntryExpire key s
  | .telCntSample => Sys2Proof.Machine.execTelCntSample s
  | .procFault proc violation addr access => Sys2Proof.Machine.execProcFault proc violation addr s access
  | .procWatchdog proc => Sys2Proof.Machine.execProcWatchdog proc s
  | .procRestartDone proc => Sys2Proof.Machine.execProcRestartDone proc s
  | .pwrGoodFall => Sys2Proof.Machine.execPwrGoodFall s
  | .resetNAssert => Sys2Proof.Machine.execResetNAssert s
  | .resetNRelease bootSrc mgr => Sys2Proof.Machine.execResetNRelease bootSrc mgr s
  | .resetCmdWarm w => Sys2Proof.Machine.execResetCmdWarm w s
  | .bootStageComplete ok detail => Sys2Proof.Machine.execBootStageComplete ok detail s
  | .requestUpdate comp => Sys2Proof.Machine.execRequestUpdate comp s
  | .firmwareDataTransfer off data => Sys2Proof.Machine.execFirmwareDataTransfer off data s
  | .verifyComplete => Sys2Proof.Machine.execVerifyComplete s
  | .activateFirmware selfContained => Sys2Proof.Machine.execActivateFirmware selfContained s
  | .molt w => Sys2Proof.Machine.execMolt w s
  | .moltStepDone ok core => Sys2Proof.Machine.execMoltStepDone ok s core
  | .leafBlockReserve => Sys2Proof.Machine.execLeafBlockReserve s
  | .negotiateAlgorithms v extended => Sys2Proof.Machine.execNegotiateAlgorithms v extended s
  | .getCertificate v slot off len => Sys2Proof.Machine.execGetCertificate v slot off len s
  | .challenge v slot nonce => Sys2Proof.Machine.execChallenge v slot nonce s
  | .getMeasurements v index signed nonce => Sys2Proof.Machine.execGetMeasurements v index signed nonce s
  | .keyExchange v slot nonce secret => Sys2Proof.Machine.execKeyExchange v slot nonce secret s
  | .linkKeySet v gen key => Sys2Proof.Machine.execLinkKeySet v gen key s
  | .linkKeyDrop v gen => Sys2Proof.Machine.execLinkKeyDrop v gen s
  | .linkKeyQuery v => Sys2Proof.Machine.execLinkKeyQuery v s
  | .platformEventMessage => Sys2Proof.Machine.execPlatformEventMessage s
  | .setRackCap watts => Sys2Proof.Machine.execSetRackCap watts s
  | .powerLoopStep p => Sys2Proof.Machine.execPowerLoopStep p s
  | .clampAssert => Sys2Proof.Machine.execClampAssert s
  | .clampRelease => Sys2Proof.Machine.execClampRelease s
  | .junctionSample l => Sys2Proof.Machine.execJunctionSample l s
  | .peakCurrent rail amps => Sys2Proof.Machine.execPeakCurrent rail amps s
  | .railWindow rail mv => Sys2Proof.Machine.execRailWindow rail mv s
  | .hostLinkUp port rate width flit => Sys2Proof.Machine.execHostLinkUp port rate width flit s
  | .configurationRequest port func op => Sys2Proof.Machine.execConfigurationRequest port func op s
  | .pcieReadCompletion tag status data => Sys2Proof.Machine.execPcieReadCompletion tag status data s
  | .flrComplete port func => Sys2Proof.Machine.execFlrComplete port func s
  | .railWindowReturn rail => Sys2Proof.Machine.execRailWindowReturn rail s
  | .gpioInputEdge pin high lost => Sys2Proof.Machine.execGpioInputEdge pin high lost s
  | .mctpEidAssign eid binding => Sys2Proof.Machine.execMctpEidAssign eid s binding
  | .linkUpSendHoldExpire e => Sys2Proof.Machine.execLinkUpSendHoldExpire e s

end Sys2Proof.Machine
end

