-- ==== Sys2Proof/Safety.lean ====
section
/-!
DEFINITION. Safety.lean: what holds of every state that a run passes through: every store of the device is in its canonical form, and
a command that runs leaves the queue to the commands that wait.
-/
namespace Sys2Proof.Machine
open Sys2Proof

/-- The canonical form of the flash contents (R378): strictly rising addresses, no entry equal to an erased byte. -/
def Flash.wf (m : List Host.Cell) : Bool := sortedKeys m && m.all (fun c => c.2 != flashDefault)

/-- The canonical form of every store: the register file, the HBM, the flash, the cells' local data and the shared SRAM. -/
def Stores (regs : List (Nat × Nat)) (hbm flash data shared : List Host.Cell) : Prop :=
  sortedKeys regs = true ∧ Memory.wf hbm = true ∧ Flash.wf flash = true ∧ Memory.wf data = true ∧ Memory.wf shared = true

/-- The stores of a state are in their canonical form, so that equal contents are equal data. -/
def State.canonical (s : State) : Prop := Stores s.regs s.hbm s.fw.flash s.cells.data s.cells.shared

/-- The state is canonical and its queue is `q`. -/
def Kept (q : List Instr) (s : State) : Prop := s.canonical ∧ s.pending = q

/-- What a command answers keeps the canonical form and the queue, where it answers a next state. -/
def KeptOut (q : List Instr) : Host.Outcome State Fault Refusal → Prop
  | .next t => Kept q t
  | _ => True

/-- A run is safe while it neither faults nor is refused and its states are canonical. -/
def SafeStep (s : State) : Prop := ∃ t, step s = .next t ∧ t.canonical

end Sys2Proof.Machine
end

