-- ==== Sys2Proof/WellFormed.lean ====
section
/-!
DEFINITION. WellFormed.lean: what a command must meet beyond its operands' types: the encodings that the loader rejects (R143, R164),
and the lengths that the manual gives to lists of bytes, slots and readings. A command that is not well formed never arises.
-/
namespace Sys2Proof

/-- The command meets the manual's conditions on its operands. -/
def Instr.wellFormed : Instr → Bool
  | .registerWrite _ _ _ _ => true
  | .readClear _ _ _ => true
  | .funcCmdNone _ _ _ => true
  | .funcStart _ _ _ _ => true
  | .funcStop _ _ _ => true
  | .funcAckHost _ _ _ => true
  | .funcRetire _ _ _ => true
  | .funcReinstate _ _ _ => true
  | .dryFitComplete _ _ _ _ => true
  | .dryFitTimeout _ => true
  | .stopDrainComplete _ => true
  | .stopDrainLimit _ => true
  | .funcPermanentFault _ => true
  -- R47: a payload is whole flits.
  | .packetIngress _ _ p _ _ => p.payload.length % 64 == 0
  | .ingressHoldRelease _ _ _ => true
  | .extentLookupReturn _ _ => true
  | .spillRefill _ _ _ _ _ => true
  | .schedulerMatching _ => true
  | .portDown _ => true
  | .flushNoticeSend => true
  | .routeWrite _ _ _ _ _ => true
  | .bundleWrite _ _ => true
  -- R85: a frame has eight flit slots.
  | .linkFrameReceive _ f _ => f.slots.length == 8
  | .linkAuthLimit _ => true
  | .linkFrameSend _ => true
  | .read _ _ => true
  | .write _ _ => true
  | .readBulk _ _ => true
  | .writeBulk _ _ => true
  | .readTile _ _ => true
  | .writeTile _ _ => true
  | .atomic _ _ => true
  | .signal _ _ => true
  | .regRead _ => true
  | .regWrite _ => true
  | .mapRead _ => true
  | .ctrRequest _ _ => true
  | .ctrGrant _ _ => true
  | .ctrReturn _ _ => true
  | .ctrRefuse _ _ => true
  | .completion _ _ => true
  | .readResp _ _ => true
  | .tileResp _ _ => true
  | .atomicResp _ _ => true
  | .noticeUnreachable _ _ => true
  | .noticePortDown _ _ => true
  | .noticeMemberLost _ _ => true
  | .noticeTakeover _ _ => true
  | .stepCtlAbort _ _ => true
  | .swarmResultReceive _ _ => true
  | .swarmCreditReceive _ _ => true
  | .swarmAbortApply _ _ => true
  | .tickStart => true
  | .timeWordSend _ => true
  | .timeLcbReceive _ _ => true
  | .timeReferenceLoss => true
  | .holdoverExpired => true
  | .timeSrcWrite _ _ => true
  | .reacquire => true
  | .tickInEdge _ => true
  | .gtimerFire _ => true
  | .snapshotReq _ => true
  | .snapshotDone _ => true
  | .jigStageWrite _ _ _ _ => true
  | .jigCommit _ _ => true
  | .jigValidationDone => true
  | .jigTableSwap => true
  | .jigStageRefillDone => true
  | .cellInit _ => true
  | .cellTick _ => true
  | .cellTimer _ _ => true
  | .homedReq _ _ => true
  | .response _ => true
  | .onwardAttemptTimeout _ _ => true
  | .ledgerEntryExpire _ _ => true
  | .atomicResponseExpire => true
  | .gather _ => true
  | .ownQuery _ _ => true
  | .ownAcquire _ _ => true
  | .ownRelease _ _ => true
  | .ownPublish _ _ => true
  | .headerCopy _ => true
  | .swarmTile _ => true
  | .swarmAck _ => true
  | .swarmResend _ => true
  | .swarmCreditReq _ => true
  | .swarmAbortReq _ => true
  | .swarmAbortSeen _ => true
  | .swarmAbortRelay _ => true
  | .swarmAbortOp _ _ => true
  | .swarmCreditWindow => true
  | .swarmAdmission => true
  | .swarmDeadlineTimeout _ _ _ => true
  | .swarmResultResend _ _ _ => true
  | .swarmAbortResend _ _ => true
  | .swarmAbortResendLimit _ _ => true
  | .swarmCreditReqRepeat _ => true
  | .cellWatchdog _ => true
  | .cellCe _ _ => true
  | .cellCeLimit _ _ => true
  | .cellUe _ _ _ _ => true
  | .suddenSwapComplete _ _ => true
  | .physCellRetire _ _ _ => true
  | .migrationComplete _ => true
  | .physCellReinstate _ _ _ => true
  | .cellTestDone _ _ _ => true
  | .sparePeriodicTest _ _ _ => true
  | .memoryAccessComplete _ _ => true
  | .add _ _ _ _ => true
  | .sub _ _ _ _ => true
  | .andR _ _ _ _ => true
  | .orR _ _ _ _ => true
  | .xorR _ _ _ _ => true
  | .sll _ _ _ _ => true
  | .srl _ _ _ _ => true
  | .sra _ _ _ _ => true
  | .mul _ _ _ _ => true
  | .mulhu _ _ _ _ => true
  | .minR _ _ _ _ => true
  | .maxR _ _ _ _ => true
  | .minu _ _ _ _ => true
  | .maxu _ _ _ _ => true
  | .slt _ _ _ _ => true
  | .sltu _ _ _ _ => true
  | .crc _ _ _ _ => true
  | .crcb _ _ _ _ => true
  | .addi _ _ _ _ => true
  | .andi _ _ _ _ => true
  | .ori _ _ _ _ => true
  | .xori _ _ _ _ => true
  | .slli _ _ _ _ => true
  | .srli _ _ _ _ => true
  | .srai _ _ _ _ => true
  | .lui _ _ _ _ => true
  -- R172, R180: FMT codes 14 and 15 are reserved.
  | .setfmt _ f => decide (f.toNat < 14)
  -- R172: RND values 2 and 3 are reserved.
  | .setrnd _ v => decide (v.toNat < 2)
  | .rdctl _ _ => true
  | .wrctl _ _ => true
  | .beq _ _ _ _ => true
  | .bne _ _ _ _ => true
  | .blt _ _ _ _ => true
  | .bge _ _ _ _ => true
  | .bltu _ _ _ _ => true
  | .bgeu _ _ _ _ => true
  | .br _ _ => true
  | .bp _ _ _ _ => true
  | .call _ _ => true
  | .ret _ => true
  -- R163.
  | .jt _ _ table => decide (1 ≤ table.length) && decide (table.length ≤ 64)
  -- R161.
  | .loopR _ _ count _ _ => decide (1 ≤ count.toNat) && decide (count.toNat ≤ 4096)
  | .lend _ => true
  | .fin _ _ _ => true
  | .endR _ => true
  | .trap _ _ => true
  | .ld8u _ _ _ _ => true
  | .ld16u _ _ _ _ => true
  | .ld32u _ _ _ _ => true
  | .ld64 _ _ _ _ => true
  | .st8 _ _ _ _ => true
  | .st16 _ _ _ _ => true
  | .st32 _ _ _ _ => true
  | .st64 _ _ _ _ => true
  -- R172.
  | .vld _ _ _ _ sc _ => decide (sc.toNat < 3)
  -- R172.
  | .vst _ _ _ _ sc _ => decide (sc.toNat < 3)
  | .sld _ _ _ _ => true
  | .sst _ _ _ _ => true
  | .samoAdd _ _ _ _ => true
  | .samoSwap _ _ _ _ => true
  | .samoCas _ _ _ _ => true
  | .samoMax _ _ _ _ => true
  | .fence _ => true
  | .hld _ _ _ _ _ => true
  | .hst _ _ _ _ _ => true
  -- R169.
  | .waitR _ mask => mask != 0
  | .pand _ _ _ _ => true
  | .por _ _ _ _ => true
  | .pxor _ _ _ _ => true
  | .pnot _ _ _ => true
  | .pfroms _ _ _ => true
  | .sfromp _ _ _ => true
  | .pcnt _ _ _ => true
  | .vadd _ _ _ _ _ _ _ => true
  | .vsub _ _ _ _ _ _ _ => true
  | .vmul _ _ _ _ _ _ _ => true
  | .vfma _ _ _ _ _ _ _ _ => true
  | .vfms _ _ _ _ _ _ _ _ => true
  | .vmax _ _ _ _ _ _ _ => true
  | .vmin _ _ _ _ _ _ _ => true
  | .vabs _ _ _ _ _ _ => true
  | .vneg _ _ _ _ _ _ => true
  | .vrcp _ _ _ _ _ _ => true
  | .vrsqrt _ _ _ _ _ _ => true
  | .vand _ _ _ _ _ _ => true
  | .vor _ _ _ _ _ _ => true
  | .vxor _ _ _ _ _ _ => true
  | .vsel _ _ _ _ _ _ => true
  -- R173.
  | .vcvtw _ _ _ part _ _ => decide (part.toNat < 4)
  -- R173.
  | .vnrw _ _ _ _ half _ _ => decide (half.toNat < 2)
  | .vi2f _ _ _ _ _ => true
  | .vf2i _ _ _ _ _ => true
  | .vcmpEq _ _ _ _ _ _ _ => true
  | .vcmpLt _ _ _ _ _ _ _ => true
  | .vcmpLe _ _ _ _ _ _ _ => true
  | .vcmpUnord _ _ _ _ _ _ _ => true
  | .vmov _ _ _ => true
  | .vbcast _ _ _ _ _ => true
  | .vext _ _ _ _ _ => true
  | .vins _ _ _ _ _ => true
  | .tld _ _ _ _ _ => true
  | .tst _ _ _ _ _ => true
  | .vmxu _ _ _ _ _ => true
  -- R190.
  | .vmxp _ vd _ _ => vd.val % 2 == 0
  | .tadd _ _ _ => true
  | .tmuls _ _ _ => true
  | .tzero _ _ => true
  | .tcopy _ _ _ => true
  | .tcrc _ _ _ => true
  | .talloc _ _ => true
  | .tfree _ _ => true
  | .emit _ _ _ => true
  | .emitt _ _ _ => true
  -- R175.
  | .rdsys _ _ aux => decide (aux.toNat < 11)
  | .gpiow _ _ _ => true
  | .gpior _ _ _ => true
  | .cntrd _ _ _ => true
  | .doorbellWrite _ _ _ _ _ => true
  | .descRead _ => true
  | .descWrite _ => true
  | .descReadTile _ => true
  | .descWriteTile _ => true
  | .descAtomic _ => true
  | .descOwn _ => true
  | .descGather _ => true
  | .descSwarm _ => true
  | .descFlush _ => true
  | .descNop _ => true
  | .descUnsupported _ => true
  | .descriptorComplete _ => true
  | .requestAttemptTimeout _ => true
  | .seqSkipWaitExpire _ _ _ => true
  | .seqRecordExpire _ _ _ => true
  | .planeBarExpire _ _ => true
  | .pairPlaneReset _ _ => true
  | .writeCompletionRelease _ => true
  | .ctrHoldExpire _ _ => true
  | .ctrRequestRetry _ _ => true
  | .ctrCreditUnused _ _ _ => true
  | .ctrGrantIdle _ _ => true
  | .wcHoldExpire _ => true
  | .tornRetry _ => true
  | .eqModTimer _ => true
  | .ctxEnable _ _ => true
  | .ctxDisable _ _ => true
  | .segInvalCmd _ _ _ _ => true
  | .segInvalDone => true
  | .atsInvalidate _ _ _ _ _ => true
  | .atsTranslationComplete _ _ _ _ _ _ _ => true
  | .hostDmaComplete _ _ _ => true
  | .extCmdWrite _ _ => true
  | .extCmdRevoke _ _ => true
  | .extCmdRead _ _ => true
  | .extCmdDone => true
  | .extentDrainTimeout _ => true
  | .exportWrite _ _ _ _ => true
  | .numvfsWrite _ _ _ => true
  | .vfEnableClear _ _ _ => true
  | .flr _ _ => true
  | .flrTagRelease => true
  | .windowStore _ _ _ _ _ => true
  | .windowLoad _ _ _ _ _ _ => true
  | .windowReadTimeout _ => true
  | .msixUnmask _ _ _ => true
  | .handover _ => true
  | .handoverAuto => true
  | .perstAssert _ => true
  | .hostLinkDown _ => true
  | .pcieAerError _ _ _ _ => true
  | .confStart _ _ => true
  | .confRekey _ _ => true
  | .confEnd _ _ => true
  | .confQuery _ _ => true
  | .spdmSessionEnd _ _ => true
  | .linkTrainingStart _ _ => true
  | .linkTrained _ _ => true
  | .linkTrainingTimeout _ => true
  -- R85: a frame has eight flit slots.
  | .keyingOffer _ f => f.slots.length == 8
  | .linkKeyed _ => true
  | .linkKeyingTimeout _ => true
  | .linkRetryTimer _ _ => true
  | .alignmentMarker _ _ _ _ _ _ => true
  | .lcbEmpty _ _ => true
  | .lcbWidthReq _ _ => true
  | .lcbWidthAck _ _ => true
  | .widthReqTimeout _ => true
  | .widthChange _ => true
  | .widthChangeResume _ => true
  | .laneLos _ _ _ => true
  | .laneLol _ _ _ => true
  | .laneUcw _ _ => true
  | .laneSerWindow _ _ _ _ _ => true
  | .laneRetrainDone _ _ => true
  | .laneRetrainFail _ _ => true
  | .laneRetrainLimit _ _ => true
  | .laneRetire _ _ _ => true
  | .laneReinstate _ _ _ => true
  | .linkSignalLoss _ _ => true
  | .rekeyDue _ _ => true
  | .nextKeyInstalled _ => true
  | .keyExpired _ => true
  | .eyeScanStart _ => true
  | .eyeScanDone _ _ => true
  | .cmisModuleInit _ => true
  | .cmisModuleReady _ _ _ _ => true
  | .cmisDatapathActivated _ => true
  | .cmisStepTimeout _ => true
  | .cmisPoll _ _ _ _ _ _ _ _ _ => true
  | .hbmUeReread _ _ _ _ => true
  | .hbmInterfaceError _ _ => true
  | .hbmRetrainDone _ _ => true
  | .hbmRetrainFail _ _ => true
  | .hbmCeLimit _ _ => true
  | .hbmUeLimit _ _ => true
  | .pcRetire _ _ _ => true
  | .pcMigrationDone _ _ => true
  | .pcReinstate _ _ _ => true
  | .pcTestDone _ _ _ => true
  | .stepCmd _ _ _ => true
  | .stepRebroadcast => true
  | .d2dError _ => true
  | .d2dRetrainEnd _ _ => true
  | .errorCoalesceTick _ => true
  | .errRingHeadWrite _ _ => true
  | .errRingEnable _ => true
  | .errRingMsiTimer => true
  | .logClear => true
  | .errSrcClear _ => true
  | .cdcResync => true
  | .telemetryMap => true
  | .mirrorEntryExpire _ => true
  | .telCntSample => true
  | .procFault _ _ _ _ => true
  | .procWatchdog _ => true
  | .procRestartDone _ => true
  | .pwrGoodFall => true
  | .resetNAssert => true
  | .resetNRelease _ _ => true
  | .resetCmdWarm _ => true
  | .bootStageComplete _ _ => true
  | .requestUpdate _ => true
  | .firmwareDataTransfer _ _ => true
  | .verifyComplete => true
  | .activateFirmware _ => true
  | .molt _ => true
  | .moltStepDone _ _ => true
  | .leafBlockReserve => true
  | .negotiateAlgorithms _ _ => true
  | .getCertificate _ _ _ _ => true
  -- R390.
  | .challenge _ _ nonce => nonce.length == 32
  -- R391.
  | .getMeasurements _ _ _ nonce => nonce.length == 32
  -- R390.
  | .keyExchange _ _ nonce _ => nonce.length == 32
  | .linkKeySet _ _ _ => true
  | .linkKeyDrop _ _ => true
  | .linkKeyQuery _ => true
  | .platformEventMessage => true
  | .setRackCap _ => true
  | .powerLoopStep _ => true
  | .clampAssert => true
  | .clampRelease => true
  -- R407.
  | .junctionSample l => l.length == 64
  | .peakCurrent _ _ => true
  | .railWindow _ _ => true
  | .hostLinkUp _ _ _ _ => true
  | .configurationRequest _ _ _ => true
  | .pcieReadCompletion _ _ _ => true
  | .flrComplete _ _ => true
  | .railWindowReturn _ => true
  | .gpioInputEdge _ _ _ => true
  | .mctpEidAssign _ _ => true
  | .linkUpSendHoldExpire _ => true

end Sys2Proof
end

