-- ==== Sys2Proof/Certificates/Slice0/Obligations.lean ====
section
/-!
DEFINITION. Certificates/Slice0/Obligations.lean: the statements for the provers. Where a statement gives the next state of a command as an
expression over the model's named operations, everything that the expression does not change keeps its value: that is the frame.
-/
namespace Sys2Proof.Machine
open Sys2Proof

/-- The handler `r` of device cell `l` and the state when an instruction of `cost` cycles over the scalar registers `regs` acts: accesses that
have still to write those registers are complete, the pc is past the word and the cycles are counted (R169). -/
def atIns (s : State) (l cost : Nat) (regs : List Nat) (r : CellRun) : CellRun × State :=
  let p := settle l (fun a => regs.contains a.reg) r s
  ({ p.1 with pc := p.1.pc + 1, cycles := p.1.cycles + cost }, p.2)

/-- The instruction of `cost` cycles over the scalar registers `regs` raises the fault `code` (R177, R178): nothing of its effect takes place. -/
def faults (s : State) (l cost : Nat) (regs : List Nat) (r : CellRun) (code imm : Nat) : Host.Outcome State Fault Refusal :=
  .next (raise (atIns s l cost regs r).2 l { (atIns s l cost regs r).1 with pc := r.pc } code imm)

/-- The loader keeps the instruction out of every image that runs (R143, R164, R176). -/
def noLoad (m : String) : Host.Outcome State Fault Refusal := .refused (.rejectedByLoader m)

/-- `atIns` once the reads that still land in tile-store slot `k` have completed (R169). -/
def atTile (s : State) (l cost : Nat) (regs : List Nat) (r : CellRun) (k : Nat) : CellRun × State :=
  settle l (touches (1 + k) 0 tileLen) (atIns s l cost regs r).1 (atIns s l cost regs r).2

/-- The handler goes on as `p` says. -/
def goesOn (l : Fin 6144) (p : CellRun × State) : Host.Outcome State Fault Refusal := .next (setRun p.2 l p.1)

/-- Registers whose writes have effects beside their fields, or fields that only some writers or values reach: their operation says what a write does. -/
def settingsOnly (base : Nat) : Bool :=
  !([0x1004, 0x8008, 0x8010, 0x8100, 0x8200, 0x10000, 0x100000, 0x100010, 0x200028, 0x400020, 0x800018, 0xB00008, 0xC00000, 0xC00018, 0x1000008,
    0x100108, 0x110000, 0x204000, 0x208000, 0x400800, 0x76C000, 0x810000, 0xA00008, 0xA00108, 0xA20000, 0xB00000, 0xB00100, 0xC00100, 0xC00400,
    0x1000100, 0xF00020, 0x1400020, 0x1200048].contains base)

/-- An aligned access of `n` bytes, 4 or 8, by writer `w` at offset `off` lies in register `x`, at byte address `a` of the map (R14, R25, R27). -/
def standsIn (s : State) (w : Writer) (off n a : Nat) (x : RegAt) : Prop :=
  accessOk off n = true ∧ viewOf s (actor s w) off = .addr a ∧ regFind a = some x ∧
    (n = 8 → viewOf s (actor s w) (off + 4) = .addr (a + 4) ∧ ∃ y, regFind (a + 4) = some y ∧ y.addr = x.addr)

/-- What a write of bits `[lo, lo + n)` does to field `f` of register `x`, whose bits become those of `new` (R8, R10, R439): an RW or RWG field
that is open takes a value that it accepts; a W1C field loses the bits written as 1. -/
def putField (s : State) (x : RegAt) (lo n new : Nat) (t : State) (f : FieldDesc) : State :=
  if !meets f.lo f.width lo n then t
  else match f.access with
    | .rw | .rwg => if guardOpen s x f.guard && accepts (bits new f.lo f.width) f.allow then wr t (x.fld f) (bits new f.lo f.width) else t
    | .w1c => wr t (x.fld f) (rd t (x.fld f) &&& (2 ^ f.width - 1 - bits new f.lo f.width))
    | _ => t

/-- The error that it makes: 3, a closed field would change; 4, an open field does not accept the value (R12, R439). -/
def fieldErr (s : State) (x : RegAt) (lo n new : Nat) (t : State) (f : FieldDesc) : Option Nat :=
  if !meets f.lo f.width lo n || !(f.access == .rw || f.access == .rwg) then none
  else if !guardOpen s x f.guard then (if bits new f.lo f.width = rd t (x.fld f) then none else some 3)
  else if accepts (bits new f.lo f.width) f.allow then none else some 4

/-- No field of the list makes an error, each at the values that those before it leave. -/
def noErr (s : State) (x : RegAt) (lo n new : Nat) (l : List FieldDesc) : Prop :=
  ∀ pre f post, l = pre ++ f :: post → fieldErr s x lo n new (pre.foldl (putField s x lo n new) s) f = none

/-- How the packet `p` in the arrival queue of device cell `l` reaches the cell by the command `c` as an event of kind `kind` (R133 to R136): one
whose HCRC is wrong is discarded (R51); in a CLUSTER that does not serve it is handled as the fabric rules say (R24); it waits while another stands
before it or the cell may not start its handler (R134); the stock image acts as `f`; a loaded image runs its entry of that kind with the header in the
event area; and a loaded image without one answers UNSUPPORTED or counts NO_ENTRY (R142). A packet that is not in the queue is no event. -/
def cellRule (c : Instr) (s : State) (l kind : Nat) (p : Packet) (f : State → State) : Prop :=
  let i := imageOf s (l / 128)
  let area := leBytes 64 (hdrBits p.h)
  (queued s l p = none → exec c s = .next s) ∧
  (∀ e, queued s l p = some e →
    let u := takeEntry s l e
    let up := hcrcOf p.h = p.h.hcrc ∧ clServes s (l / 128) = true ∧ queueHead s l = some e ∧ mayStart s l kind = true
    (hcrcOf p.h ≠ p.h.hcrc → exec c s = .next u) ∧
    (hcrcOf p.h = p.h.hcrc → clServes s (l / 128) = false → exec c s = .next (clusterNotRunning u (cellPort l) p.h)) ∧
    (hcrcOf p.h = p.h.hcrc → clServes s (l / 128) = true → queueHead s l ≠ some e ∨ mayStart s l kind = false → exec c s = .next s) ∧
    (up → i.stock = true → exec c s = .next (stockHandler u l area f)) ∧
    (∀ at_, up → i.stock = false → imgEntry i kind = some at_ →
      exec c s = .next (startHandler u l kind p.stamp area (if p.payload.length = tileLen then some p.payload else none) at_)) ∧
    (up → i.stock = false → imgEntry i kind = none → exec c s = .next (noEntry u l p.h)))

/-- Packet `p` stands in the arrival queue of the unit at crossbar port `x`, and its HCRC is right (R51). -/
def arrived (s : State) (x : Nat) (p : Packet) : Prop := (x, p) ∈ s.inbox ∧ p.h.hcrc = hcrcOf p.h

/-- The command `c` that takes packet `p` at crossbar port `x`, where the packet has not arrived: with a wrong HCRC it is discarded and nothing else
changes (R51); where it is not in the queue nothing changes. -/
def notArrived (c : Instr) (s : State) (x : Nat) (p : Packet) : Prop :=
  ((x, p) ∉ s.inbox → exec c s = .next s) ∧ ((x, p) ∈ s.inbox → p.h.hcrc ≠ hcrcOf p.h → exec c s = .next (takeIn s x p))

end Sys2Proof.Machine

open Sys2Proof Sys2Proof.Machine
/-! ### The machine as a whole -/

/-- A step takes the command at the front of the queue and answers what `exec` answers on the rest of the queue. -/
def Obligations.StepRunsFrontCommand : Prop :=
  ∀ (s : State) (c : Instr), step (s.withCommand c) = exec c s ∧
    ∀ rest, s.pending = c :: rest → step s = exec c { s with pending := rest }

/-- On an empty queue a step lets one ftu pass and answers a next state (log entry 1, the model's choice): fabric time runs by one, unless a
correction is slewed in, and stands still after a thermal trip (R90, R94, R407). Nothing changes but time, the slew, the counters kept for a
telemetry map, the count of ticks in which an input is held, and the TICK_OUT pulse of a new tick. -/
def Obligations.IdleStepLetsTimePass : Prop :=
  ∀ s : State, s.pending = [] → ∃ t, step s = .next t ∧ t.now = s.now + 1 ∧ t.pending = [] ∧
    (s.pw.tripped = false → s.tick.slew = 0 → t.time = s.time + 1) ∧ (s.pw.tripped = true → t.time = s.time) ∧
    (∀ f : Fld, f.key ≠ Reg.SWITCH.COUNT_B.BACKPRESSURE_TICKS.key → rd t f = rd s f) ∧ t.hold = s.hold ∧ t.snaps = s.snaps ∧ t.free = s.free ∧
    t.hbm = s.hbm ∧ t.poison = s.poison ∧ t.inbox = s.inbox ∧ t.outbox = s.outbox ∧ t.err = s.err ∧ t.fn = s.fn ∧ t.jig = s.jig ∧ t.ext = s.ext ∧
    t.host = s.host ∧ t.ep = s.ep ∧ t.link = s.link ∧ t.fw = s.fw ∧ t.pw = s.pw ∧ t.mem = s.mem ∧ t.cells = s.cells ∧
    t.tel.copies = s.tel.copies ∧ t.sw.pkts = s.sw.pkts ∧ t.sw.egress = s.sw.egress

/-- The state after reset is canonical, its queue is empty, and every register field reads as its Reset column. -/
def Obligations.ResetState : Prop :=
  State.reset.canonical ∧ State.reset.pending = [] ∧ (∀ f : Fld, rd State.reset f = f.reset % 2 ^ f.width) ∧
    State.reset.inbox = [] ∧ State.reset.outbox = [] ∧ State.reset.cells.run = []

/-- A step keeps every store in its canonical form and takes exactly the front command from the queue. -/
def Obligations.StepKeepsStores : Prop :=
  ∀ s t : State, s.canonical → step s = .next t → t.canonical ∧ t.pending = s.pending.tail

/-- What is written reads back: a register field at its width, and the bytes of HBM, with every other field and byte as it was, and the canonical
form kept (R10, R13, R20). -/
def Obligations.StoresReadBack : Prop :=
  (∀ (s : State) (f : Fld) (v : Nat), rd (wr s f v) f = v % 2 ^ f.width ∧ (∀ g : Fld, g.key ≠ f.key → rd (wr s f v) g = rd s g) ∧
      (∀ a, hbmRd (wr s f v) a = hbmRd s a) ∧ (s.canonical → (wr s f v).canonical)) ∧
  (∀ (s : State) (a : Nat) (l : List Byte),
      (∀ i, i < l.length → hbmRd (hbmWr s a l) (a + i) = l.getD i 0) ∧
      (∀ x, x < a ∨ a + l.length ≤ x → hbmRd (hbmWr s a l) x = hbmRd s x) ∧
      (∀ f, rd (hbmWr s a l) f = rd s f) ∧ (s.canonical → (hbmWr s a l).canonical))

/-- The 512 header bits spell the header's fields: reading them back gives the header. -/
def Obligations.HeaderRoundTrip : Prop := ∀ h : Hdr, hdrOfBits (hdrBits h) = h

/-- Stamp a precedes b where the difference modulo 2^24 is 1 to 2^23, b precedes a where it is above, and neither where it is 0 (R53). -/
def Obligations.StampOrder : Prop :=
  ∀ a b : BitVec 24, let d := (b.toNat + 2 ^ 24 - a.toNat) % 2 ^ 24
    (stampBefore a b = true ↔ 1 ≤ d ∧ d ≤ 8388608) ∧
    (stampBefore b a = true ∧ stampBefore a b = false ↔ 8388609 ≤ d ∧ d ≤ 16777215) ∧ (a = b ↔ d = 0)

/-! ### Milys: encoding -/

/-- Every well-formed Milys instruction decodes from the words that spell it, whatever follows (R157 to R164): a LEND from a word with a
backward OFF, and a LOOP with the length of its body, which is the distance to its LEND in what follows. -/
def Obligations.MilysRoundTrip : Prop :=
  ∀ (i : Instr) (back : BitVec 16) (ws tail : List MWord), i.wellFormed = true → milysEncode back i = some ws → back.getLsbD 15 = true →
    (∀ l reg count ix body, i = .loopR l reg count ix body → lendDist tail 0 0 0 = some body.toNat) →
    ∃ (l : Fin 6144) (w : MWord) (rest : List MWord), ws = w :: rest ∧ milysDecode l w (rest ++ tail) = .ok i

/-- Words that the manual spells out or that follow from its encoding tables, with the instruction that each stands for on device cell 0
(R157 to R159, R172 to R175); the word of zeros is no instruction (R143). -/
def Obligations.MilysWords : Prop :=
  (∀ e ∈ [(0xB1F08800#32, Instr.samoAdd 0 15 16 17), (0xC3000000#32, .waitR 0 3), (0xDC080000#32, .tadd 0 1 0),
      (0xD6808021#32, .vbcast 0 10 4 0 true), (0xCAA80029#32, .vrcp 0 10 10 0 false true), (0xD80A0200#32, .tld 0 0 0 20 1),
      (0xC846C026#32, .vmin 0 1 1 11 0 false true), (0x7000FFF4#32, .lend 0), (0x78000000#32, .endR 0)],
    milysDecode 0 e.1 [] = .ok e.2) ∧
  milysDecode 0 0x6C001050#32 [0x7000FFFE#32] = .ok (.loopR 0 none 32 20 1) ∧ milysDecode 0 0#32 [] = .error 4

/-! ### Milys: scalar instructions -/

/-- The results of the scalar register and immediate instructions (R172): rd takes the value, s0 discards it, and nothing else changes but the pc
and the cycles.
Each of these answers a next state where its clause says so: ADD, SUB, AND, OR, XOR, SLL, SRL, SRA, MUL, MULHU, MIN, MAX, MINU, MAXU, SLT, SLTU,
CRC, CRCB, ADDI, ANDI, ORI, XORI, SLLI, SRLI, SRAI, LUI. -/
def Obligations.ScalarResults : Prop :=
  (∀ (s : State) (l : Fin 6144) (r : CellRun) (rd ra rb : Fin 32), cellRun s l = some r →
      let w := atIns s l 1 [rd, ra, rb] r
      let a := gS w.1 ra
      let b := gS w.1 rb
      ∀ e ∈ [(Instr.add l rd ra rb, a + b), (.sub l rd ra rb, a - b), (.andR l rd ra rb, a &&& b), (.orR l rd ra rb, a ||| b),
          (.xorR l rd ra rb, a ^^^ b), (.sll l rd ra rb, a <<< (b.toNat % 64)), (.srl l rd ra rb, a >>> (b.toNat % 64)),
          (.sra l rd ra rb, a.sshiftRight (b.toNat % 64)), (.mul l rd ra rb, BitVec.ofNat 64 (a.toNat * b.toNat)),
          (.mulhu l rd ra rb, BitVec.ofNat 64 (a.toNat * b.toNat / 2 ^ 64)),
          (.minR l rd ra rb, BitVec.ofInt 64 (min a.toInt b.toInt)), (.maxR l rd ra rb, BitVec.ofInt 64 (max a.toInt b.toInt)),
          (.minu l rd ra rb, BitVec.ofNat 64 (min a.toNat b.toNat)), (.maxu l rd ra rb, BitVec.ofNat 64 (max a.toNat b.toNat)),
          (.slt l rd ra rb, if a.toInt < b.toInt then 1 else 0), (.sltu l rd ra rb, if a.toNat < b.toNat then 1 else 0),
          (.crc l rd ra rb, BitVec.ofNat 64 (crc32cFrom (a.toNat % 2 ^ 32) (leBytes 8 b.toNat))),
          (.crcb l rd ra rb, BitVec.ofNat 64 (crc32cFrom (a.toNat % 2 ^ 32) (leBytes 1 (b.toNat % 256))))],
        exec e.1 s = .next (setRun w.2 l (pS w.1 rd e.2))) ∧
  (∀ (s : State) (l : Fin 6144) (r : CellRun) (rd ra : Fin 32) (imm : BitVec 16) (sh : BitVec 6) (k : Fin 3), cellRun s l = some r →
      let w := atIns s l 1 [rd, ra] r
      let a := gS w.1 ra
      (∀ e ∈ [(Instr.addi l rd ra imm, a + BitVec.ofInt 64 imm.toInt), (.andi l rd ra imm, a &&& BitVec.ofNat 64 imm.toNat),
          (.ori l rd ra imm, a ||| BitVec.ofNat 64 imm.toNat), (.xori l rd ra imm, a ^^^ BitVec.ofNat 64 imm.toNat),
          (.slli l rd ra sh, BitVec.ofNat 64 (a.toNat * 2 ^ sh.toNat)), (.srli l rd ra sh, BitVec.ofNat 64 (a.toNat / 2 ^ sh.toNat)),
          (.srai l rd ra sh, BitVec.ofInt 64 (a.toInt / 2 ^ sh.toNat))],
        exec e.1 s = .next (setRun w.2 l (pS w.1 rd e.2))) ∧
      exec (.lui l rd imm k) s = .next (setRun (atIns s l 1 [rd, 0] r).2 l (pS (atIns s l 1 [rd, 0] r).1 rd (BitVec.ofInt 64 imm.toInt <<< (16 * (k.val + 1))))))

/-- FMT, RND and the predicates (R172): SETFMT and SETRND take the codes that the loader accepts and have no other form, WRCTL takes the same
codes from a register, and a reserved code there raises FORMAT and leaves both as they were.
Each of these answers a next state where its clause says so: SETFMT, SETRND, RDCTL, WRCTL, PAND, POR, PXOR, PNOT, PFROMS, SFROMP, PCNT. -/
def Obligations.ControlAndPredicateResults : Prop :=
  ∀ (s : State) (l : Fin 6144) (r : CellRun) (rd : Fin 32) (pd pa pb : Fin 8) (f : BitVec 4) (v : BitVec 2), cellRun s l = some r →
    let n := { r with pc := r.pc + 1, cycles := r.cycles + 1 }
    let w := atIns s l 1 [rd] r
    let x := (gS w.1 rd).toNat
    (f.toNat < 14 → exec (.setfmt l f) s = .next (setRun s l { n with r := { r.r with fmt := f.toNat } })) ∧
    (14 ≤ f.toNat → exec (.setfmt l f) s = noLoad "SETFMT") ∧
    (v.toNat < 2 → exec (.setrnd l v) s = .next (setRun s l { n with r := { r.r with rnd := v.toNat } })) ∧
    (2 ≤ v.toNat → exec (.setrnd l v) s = noLoad "SETRND") ∧
    exec (.rdctl l rd) s = .next (setRun w.2 l (pS w.1 rd (BitVec.ofNat 64 (w.1.r.fmt + 16 * w.1.r.rnd)))) ∧
    (x % 16 < 14 → x / 16 % 4 < 2 → exec (.wrctl l rd) s = .next (setRun w.2 l { w.1 with r := { w.1.r with fmt := x % 16, rnd := x / 16 % 4 } })) ∧
    (¬ (x % 16 < 14 ∧ x / 16 % 4 < 2) → exec (.wrctl l rd) s = faults s l 1 [rd] r 4 0) ∧
    (∀ e ∈ [(Instr.pand l pd pa pb, gP r pa &&& gP r pb), (.por l pd pa pb, gP r pa ||| gP r pb), (.pxor l pd pa pb, gP r pa ^^^ gP r pb),
        (.pnot l pd pa, ~~~gP r pa)], exec e.1 s = .next (setRun s l (pP n pd e.2))) ∧
    exec (.pfroms l pd rd) s = .next (setRun w.2 l (pP w.1 pd (gS w.1 rd))) ∧
    exec (.sfromp l rd pa) s = .next (setRun w.2 l (pS w.1 rd (gP w.1 pa))) ∧
    exec (.pcnt l rd pa) s = .next (setRun w.2 l (pS w.1 rd (BitVec.ofNat 64 ((List.range 64).countP (fun i => (gP w.1 pa).getLsbD i)))))

/-- Register s0 reads as zero and p0 as all ones, and writes to them are discarded (R153). -/
def Obligations.FixedRegisters : Prop :=
  ∀ r : CellRun, gS r 0 = 0 ∧ gP r 0 = BitVec.allOnes 64 ∧ (∀ v, pS r 0 v = r) ∧ (∀ v, pP r 0 v = r) ∧
    (∀ (i j : Nat) (v : BitVec 64), i ≠ j → gS (pS r i v) j = gS r j ∧ gP (pP r i v) j = gP r j) ∧
    (∀ (i : Nat) (v : BitVec 64), i ≠ 0 → i < r.r.s.length → gS (pS r i v) i = v) ∧
    (∀ (i : Nat) (v : BitVec 64), i ≠ 0 → i < r.r.p.length → gP (pP r i v) i = v)

/-! ### Milys: control flow -/

/-- The branches (R160, R172): taken, the pc is the word after plus OFF and one more cycle is charged; else the word after. CALL pushes the
address of the next word, and RET pops it; each costs 2 cycles (R162). JT takes the entry that ra selects, or the word after its table (R163).
The loader admits no CALL deeper than 8 or out of CODE, no RET that no CALL precedes, no table of JT but one of 1 to 64 entries, and no JT in a
tenant finish (R164, R176).
Each of these answers a next state where its clause says so: BEQ, BNE, BLT, BGE, BLTU, BGEU, BR, BP, CALL, RET, JT. -/
def Obligations.BranchAndCallResults : Prop :=
  (∀ (s : State) (l : Fin 6144) (r : CellRun) (ra rb : Fin 32) (pa : Fin 8) (neg : Bool) (off : BitVec 15), cellRun s l = some r →
      let w := atIns s l 1 [ra, rb] r
      let a := gS w.1 ra
      let b := gS w.1 rb
      let go := fun (taken : Bool) (x : CellRun) => if taken then { x with pc := x.pc + off.toNat, cycles := x.cycles + 1 } else x
      let n := { r with pc := r.pc + 1, cycles := r.cycles + 1 }
      (∀ e ∈ [(Instr.beq l ra rb off, decide (a = b)), (.bne l ra rb off, decide (a ≠ b)), (.blt l ra rb off, decide (a.toInt < b.toInt)),
          (.bge l ra rb off, decide (b.toInt ≤ a.toInt)), (.bltu l ra rb off, decide (a.toNat < b.toNat)), (.bgeu l ra rb off, decide (b.toNat ≤ a.toNat))],
        exec e.1 s = .next (setRun w.2 l (go e.2 w.1))) ∧
      exec (.br l off) s = .next (setRun s l (go true n)) ∧
      exec (.bp l pa neg off) s = .next (setRun s l (go (decide (gP r pa ≠ 0) != neg) n))) ∧
  (∀ (s : State) (l : Fin 6144) (r : CellRun) (ra : Fin 32) (off : BitVec 16) (table : List (BitVec 32)), cellRun s l = some r →
      let w := atIns s l 1 [ra] r
      let base := w.1.pc + table.length
      (r.r.ret.length < 8 → 0 ≤ (r.pc : Int) + 1 + off.toInt → exec (.call l off) s = .next (setRun s l { r with
          pc := ((r.pc : Int) + 1 + off.toInt).toNat, cycles := r.cycles + 2, r := { r.r with ret := (r.pc + 1) :: r.r.ret } })) ∧
      (8 ≤ r.r.ret.length ∨ (r.pc : Int) + 1 + off.toInt < 0 → exec (.call l off) s = noLoad "CALL") ∧
      (∀ a rest, r.r.ret = a :: rest → exec (.ret l) s = .next (setRun s l { r with pc := a, cycles := r.cycles + 2, r := { r.r with ret := rest } })) ∧
      (r.r.ret = [] → exec (.ret l) s = noLoad "RET") ∧
      (1 ≤ table.length → table.length ≤ 64 → tenantRun r = false → exec (.jt l ra table) s = .next (setRun w.2 l
          (if (gS w.1 ra).toNat < table.length then
            { w.1 with pc := base + (table.getD (gS w.1 ra).toNat 0).toNat, cycles := w.1.cycles + 1 } else { w.1 with pc := base }))) ∧
      (table.length = 0 ∨ 64 < table.length ∨ tenantRun r = true → exec (.jt l ra table) s = noLoad "JT"))

/-- LOOP and LEND (R161): a count of 0 skips the body; else the body runs from iteration 0, LEND starts the next iteration until the
count is reached, and the loop register holds the iteration. A count register above the declared maximum raises LOOP. The loader admits no count
but 1 to 4096, no nesting deeper than 8, in a tenant finish than 4, no count register there, and no LEND outside a loop (R161, R164, R176).
Each of these answers a next state where its clause says so: LOOP, LEND. -/
def Obligations.LoopResults : Prop :=
  ∀ (s : State) (l : Fin 6144) (r : CellRun) (rs ix : Fin 32) (count : BitVec 13) (body : BitVec 16), cellRun s l = some r →
    let fits := 1 ≤ count.toNat ∧ count.toNat ≤ 4096 ∧ r.r.loops.length < (if tenantRun r then 4 else 8)
    let w := atIns s l 2 [ix] r
    let v := atIns s l 2 [ix, rs] r
    let n := (gS v.1 rs).toNat
    let go := fun (x : CellRun) (n : Nat) => pS { x with r := { x.r with loops := { count := n, k := 0, ix := ix, start := x.pc } :: x.r.loops } } ix 0
    (fits → exec (.loopR l none count ix body) s = .next (setRun w.2 l (go w.1 count.toNat))) ∧
    (fits → tenantRun r = false →
      (1 ≤ n → n ≤ count.toNat → exec (.loopR l (some rs) count ix body) s = .next (setRun v.2 l (go v.1 n))) ∧
      (n = 0 → exec (.loopR l (some rs) count ix body) s = .next (setRun v.2 l { v.1 with pc := v.1.pc + body.toNat })) ∧
      (count.toNat < n → exec (.loopR l (some rs) count ix body) s = faults s l 2 [ix, rs] r 8 0)) ∧
    (¬ fits → exec (.loopR l none count ix body) s = noLoad "LOOP") ∧
    (¬ fits ∨ tenantRun r = true → exec (.loopR l (some rs) count ix body) s = noLoad "LOOP") ∧
    (∀ x rest, r.r.loops = x :: rest →
      let u := atIns s l 1 [x.ix] r
      exec (.lend l) s = .next (setRun u.2 l
        (if x.k + 1 < x.count then pS { u.1 with pc := x.start, r := { u.1.r with loops := { x with k := x.k + 1 } :: rest } } x.ix (BitVec.ofNat 64 (x.k + 1))
         else { u.1 with r := { u.1.r with loops := rest } }))) ∧
    (r.r.loops = [] → exec (.lend l) s = noLoad "LEND")

/-- TRAP raises the fault TRAP with IMM as its detail and costs 1 cycle, in both profiles: it ends a finish with verdict 0xFF and an error
record, once the outstanding accesses have completed, and elsewhere it is the cell fault STOCK_EXCEPTION, which ends the handler (R166, R177,
R178).
Each of these answers a next state where its clause says so: TRAP. -/
def Obligations.TrapRaises : Prop :=
  ∀ (s : State) (l : Fin 6144) (r : CellRun) (imm : BitVec 16), cellRun s l = some r →
    let detail := packBits [(0, 4, 10), (16, 16, r.pc), (32, 16, imm.toNat)]
    let c := countException s l
    let p := settle l (fun _ => true) { r with cycles := r.cycles + 1 } c
    (r.fin = none → exec (.trap l imm) s = .next (endRun (cellFaultAt c l 7 detail) l)) ∧
    (∀ f, r.fin = some f → exec (.trap l imm) s = .next
      (finishEnd (report p.2 (fCluster (l / 128)) 0x05 9 4 (cellDetail c l) detail) l p.1 f 0xFF))

/-- END waits for every outstanding access, and ends the handler, with its slots freed and its cycles counted, or returns the verdict of the
finish: 0xFE where POISONED is set, else s1[7:0] as FIN takes it (R165, R167). FIN of a swarm without a finish answers verdict 0; a stock finish runs
on the tile in place; a finish module is entered with s0 to s6 and the tile in t0, with its scratch cleared where it is a tenant's; an unbound handle
raises TILE; and the loader admits no FIN in a tenant finish (R145, R146, R167, R176).
Each of these answers a next state where its clause says so: END, FIN. -/
def Obligations.EndAndFinish : Prop :=
  ∀ (s : State) (l : Fin 6144) (r : CellRun) (ra : Fin 32) (th : Fin 4), cellRun s l = some r →
    let e := settle l (fun _ => true) { r with pc := r.pc + 1, cycles := r.cycles + 2 } s
    let w := atIns s l 1536 (List.range 33) r
    let q := settle l (fun _ => true) w.1 w.2
    let k := (gS q.1 ra).toNat % 256
    let kind := rd q.2 (Reg.SWARM.SWARM_DEF.FINISH_KIND k)
    (r.fin = none → exec (.endR l) s = .next (handlerEnd e.2 l e.1)) ∧
    (∀ f, r.fin = some f → exec (.endR l) s = .next (finishEnd e.2 l e.1 f (if e.1.r.poisoned then 0xFE else (gS e.1 1).toNat))) ∧
    (tenantRun r = true → exec (.fin l ra th) s = noLoad "FIN") ∧
    (tenantRun r = false → gT r th = none → exec (.fin l ra th) s = faults s l 1536 (List.range 33) r 5 0) ∧
    (∀ slot, tenantRun r = false → gT r th = some slot →
      (kind ≠ 1 → kind ≠ 2 ∨ imgEntry ((findKey q.2.cells.finishes k).getD {}) 9 = none →
        exec (.fin l ra th) s = .next (setRun q.2 l (pS q.1 1 0))) ∧
      (kind = 1 →
        let x := stockFinish q.2 l k ((gS q.1 3).toNat % 2 ^ 32) r.r.fmt r.r.rnd (gS q.1 5).toNat (slotTile q.2 l slot)
        exec (.fin l ra th) s = .next (setRun (setSlotTile x.2.2 l slot ((slotTile q.2 l slot).take 64 ++ x.2.1)) l (pS q.1 1 (BitVec.ofNat 64 x.1)))) ∧
      (∀ at_, kind = 2 → imgEntry ((findKey q.2.cells.finishes k).getD {}) 9 = some at_ →
        let i := (findKey q.2.cells.finishes k).getD {}
        let frame : FinFrame := { saved := q.1.r, pc := q.1.pc, swarm := k, tenant := i.tenant, reduce := none, cycles := q.1.cycles }
        exec (.fin l ra th) s = .next (setRun (if i.tenant then localWr q.2 l 0x1C000 (List.replicate 16384 0) else q.2) l
          { q.1 with r := finishRegs q.1.r (some slot), pc := at_.1, fin := some frame })))

/-! ### Milys: memory -/

/-- Loads from local data and tile windows (R168, R172): aligned and inside a window, the bytes read zero-extended once the reads that still
land there have completed; not aligned, ALIGN; outside every window, ADDRESS.
Each of these answers a next state where its clause says so: LD8U, LD16U, LD32U, LD64. -/
def Obligations.LocalLoads : Prop :=
  ∀ (s : State) (l : Fin 6144) (r : CellRun) (rd ra : Fin 32) (imm : BitVec 16) (sp off : Nat), cellRun s l = some r →
    let w := atIns s l 2 [rd, ra] r
    let a := (gS w.1 ra + BitVec.ofInt 64 imm.toInt).toNat
    ∀ e ∈ [(Instr.ld8u l rd ra imm, 1), (.ld16u l rd ra imm, 2), (.ld32u l rd ra imm, 4), (.ld64 l rd ra imm, 8)],
      (a % e.2 = 0 → localAt w.1 a e.2 = some (sp, off) →
        let p := settle l (touches sp off e.2) w.1 w.2
        exec e.1 s = .next (setRun p.2 l (pS p.1 rd (BitVec.ofNat 64 (ofLeBytes (spaceRd p.2 l sp off e.2)))))) ∧
      (a % e.2 ≠ 0 → exec e.1 s = faults s l 2 [rd, ra] r 2 0) ∧
      (a % e.2 = 0 → localAt w.1 a e.2 = none → exec e.1 s = faults s l 2 [rd, ra] r 1 0)

/-- Stores to local data and tile windows (R168, R172): the low bytes of the register are stored at the address; not aligned, ALIGN; outside
every window, ADDRESS. The frame (R131), with no access outstanding: a store to local data leaves every byte of local data outside the stored bytes
as it was, of every cell, and every tile; a store to a tile window leaves every local byte and every other tile-store slot; and neither changes a
register field, an HBM byte or a shared byte.
Each of these answers a next state where its clause says so: ST8, ST16, ST32, ST64. -/
def Obligations.LocalStores : Prop :=
  (∀ (s : State) (l : Fin 6144) (r : CellRun) (rd ra : Fin 32) (imm : BitVec 16) (sp off : Nat), cellRun s l = some r →
      let w := atIns s l 2 [rd, ra] r
      let a := (gS w.1 ra + BitVec.ofInt 64 imm.toInt).toNat
      ∀ e ∈ [(Instr.st8 l rd ra imm, 1), (.st16 l rd ra imm, 2), (.st32 l rd ra imm, 4), (.st64 l rd ra imm, 8)],
        (a % e.2 = 0 → localAt w.1 a e.2 = some (sp, off) →
          let p := settle l (touches sp off e.2) w.1 w.2
          exec e.1 s = .next (setRun (spaceWr p.2 l sp off (leBytes e.2 (gS p.1 rd).toNat)) l p.1)) ∧
        (a % e.2 ≠ 0 → exec e.1 s = faults s l 2 [rd, ra] r 2 0) ∧
        (a % e.2 = 0 → localAt w.1 a e.2 = none → exec e.1 s = faults s l 2 [rd, ra] r 1 0)) ∧
  (∀ (s t : State) (l : Fin 6144) (r : CellRun) (rd ra : Fin 32) (imm : BitVec 16) (sp off : Nat), cellRun s l = some r → r.acc = [] →
      ∀ e ∈ [(Instr.st8 l rd ra imm, 1), (.st16 l rd ra imm, 2), (.st32 l rd ra imm, 4), (.st64 l rd ra imm, 8)],
        (gS r ra + BitVec.ofInt 64 imm.toInt).toNat % e.2 = 0 → localAt r (gS r ra + BitVec.ofInt 64 imm.toInt).toNat e.2 = some (sp, off) →
        exec e.1 s = .next t →
          (sp = 0 → localRd t l off e.2 = leBytes e.2 (gS r rd).toNat ∧ t.cells.tiles = s.cells.tiles) ∧
          (∀ (c : Fin 6144) (x : Nat), x < 131072 → ¬ (sp = 0 ∧ c = l ∧ off ≤ x ∧ x < off + e.2) → localRd t c x 1 = localRd s c x 1) ∧
          (∀ k, sp = k + 1 → slotTile t l k = putBytes (slotTile s l k) off (leBytes e.2 (gS r rd).toNat) ∧
            ∀ x, x ≠ 8 * l.val + k → findKey t.cells.tiles x = findKey s.cells.tiles x) ∧
          (∀ f, Sys2Proof.Machine.rd t f = Sys2Proof.Machine.rd s f) ∧ (∀ x, hbmRd t x = hbmRd s x) ∧ t.cells.shared = s.cells.shared)

/-- The vector loads and stores (R172): 64 bytes at ra + (ri << (6 + SC)) + 64 × DISP; not aligned, ALIGN; outside every window, ADDRESS;
the loader rejects SC = 3.
Each of these answers a next state where its clause says so: VLD, VST. -/
def Obligations.VectorLoadsAndStores : Prop :=
  ∀ (s : State) (l : Fin 6144) (r : CellRun) (vd : Fin 16) (ra ri : Fin 32) (sc : BitVec 2) (disp : BitVec 10) (sp off : Nat), cellRun s l = some r →
    let w := atIns s l 2 [ra, ri] r
    let a := (gS w.1 ra + (gS w.1 ri <<< (6 + sc.toNat)) + BitVec.ofNat 64 (64 * disp.toNat)).toNat
    let p := settle l (touches sp off 64) w.1 w.2
    (sc.toNat < 3 → a % 64 = 0 → localAt w.1 a 64 = some (sp, off) →
      exec (.vld l vd ra ri sc disp) s = .next (setRun p.2 l (pV p.1 vd (BitVec.ofNat 512 (ofLeBytes (spaceRd p.2 l sp off 64))))) ∧
      exec (.vst l vd ra ri sc disp) s = .next (setRun (spaceWr p.2 l sp off (leBytes 64 (gV p.1 vd).toNat)) l p.1)) ∧
    (∀ c ∈ [Instr.vld l vd ra ri sc disp, .vst l vd ra ri sc disp],
      (sc.toNat < 3 → a % 64 ≠ 0 → exec c s = faults s l 2 [ra, ri] r 2 0) ∧
      (sc.toNat < 3 → a % 64 = 0 → localAt w.1 a 64 = none → exec c s = faults s l 2 [ra, ri] r 1 0)) ∧
    (sc.toNat = 3 → exec (.vld l vd ra ri sc disp) s = noLoad "VLD" ∧ exec (.vst l vd ra ri sc disp) s = noLoad "VST")

/-- The shared accesses (R170, R171): loads and atomics sample the word when they issue and write their register when they complete, the
word is written at once, and FENCE is outstanding as a shared access; not aligned, ALIGN; outside the 8 MiB, ADDRESS; the loader admits none of them
in a tenant finish (R176).
Each of these answers a next state where its clause says so: SLD, SST, SAMO_ADD, SAMO_SWAP, SAMO_CAS, SAMO_MAX, FENCE. -/
def Obligations.SharedAccesses : Prop :=
  ∀ (s : State) (l : Fin 6144) (r : CellRun) (rd ra rb : Fin 32) (imm : BitVec 16), cellRun s l = some r →
    let w := atIns s l 4 [rd, ra] r
    let a := (gS w.1 ra + BitVec.ofInt 64 imm.toInt).toNat
    let v := atIns s l 4 [rd, ra, rb] r
    let b := (gS v.1 ra).toNat
    let old := BitVec.ofNat 64 (ofLeBytes (sharedRd v.2 (l / 128) (b - 0x10000000) 8))
    let acc := fun (reg : Nat) (x : Nat) =>
      ({ hbm := false, reg := reg, val := x, space := 0, off := 0, data := [], skip := [], poison := false } : Machine.Access)
    let dst := if rd = 0 then 32 else rd.val
    let inside := fun (a : Nat) => 0x10000000 ≤ a ∧ a < 0x10800000
    (tenantRun r = false →
      (a % 8 = 0 → inside a →
        exec (.sld l rd ra imm) s = goesOn l (issue l (acc dst (ofLeBytes (sharedRd w.2 (l / 128) (a - 0x10000000) 8))) w.1 w.2) ∧
        exec (.sst l rd ra imm) s = goesOn l (w.1, sharedWr w.2 (l / 128) (a - 0x10000000) (leBytes 8 (gS w.1 rd).toNat))) ∧
      (∀ c ∈ [Instr.sld l rd ra imm, .sst l rd ra imm],
        (a % 8 ≠ 0 → exec c s = faults s l 4 [rd, ra] r 2 0) ∧ (a % 8 = 0 → ¬ inside a → exec c s = faults s l 4 [rd, ra] r 1 0)) ∧
      (∀ e ∈ [(Instr.samoAdd l rd ra rb, old + gS v.1 rb), (.samoSwap l rd ra rb, gS v.1 rb),
          (.samoCas l rd ra rb, if old = gS v.1 rd then gS v.1 rb else old), (.samoMax l rd ra rb, if old.toInt < (gS v.1 rb).toInt then gS v.1 rb else old)],
        (b % 8 = 0 → inside b →
          exec e.1 s = goesOn l (issue l (acc dst old.toNat) v.1 (sharedWr v.2 (l / 128) (b - 0x10000000) (leBytes 8 e.2.toNat)))) ∧
        (b % 8 ≠ 0 → exec e.1 s = faults s l 4 [rd, ra, rb] r 2 0) ∧ (b % 8 = 0 → ¬ inside b → exec e.1 s = faults s l 4 [rd, ra, rb] r 1 0)) ∧
      exec (.fence l) s = goesOn l (issue l (acc 32 0) { r with pc := r.pc + 1, cycles := r.cycles + 4 } s)) ∧
    (tenantRun r = true → ∀ e ∈ [(Instr.sld l rd ra imm, "SLD"), (.sst l rd ra imm, "SST"), (.samoAdd l rd ra rb, "SAMO_ADD"),
      (.samoSwap l rd ra rb, "SAMO_SWAP"), (.samoCas l rd ra rb, "SAMO_CAS"), (.samoMax l rd ra rb, "SAMO_MAX"), (.fence l, "FENCE")],
      exec e.1 s = noLoad e.2)

/-- The HBM transfers, WAIT and the completion of an access (R168 to R172): HLD issues a read whose data land when it completes, HST writes the
bytes at once; either side not aligned to 64 raises ALIGN, a local side outside every window ADDRESS, and a far side the code of R168; WAIT completes
the accesses that its mask names, of which 0 is reserved; and MEMORY_ACCESS_COMPLETE completes one of them, where it is outstanding.
Each of these answers a next state where its clause says so: HLD, HST, WAIT, MEMORY_ACCESS_COMPLETE. -/
def Obligations.HbmTransfersAndWaits : Prop :=
  ∀ (s : State) (l : Fin 6144) (r : CellRun) (rl rh : Fin 32) (nm1 : BitVec 6) (disp : BitVec 10) (mask : BitVec 2) (sp off d : Nat) (i : BitVec 5),
    cellRun s l = some r →
    let w := atIns s l 4 [rl, rh] r
    let n := 64 * (nm1.toNat + 1)
    let la := (gS w.1 rl + BitVec.ofNat 64 (64 * disp.toNat)).toNat
    let ha := (gS w.1 rh + BitVec.ofNat 64 (64 * disp.toNat)).toNat
    (la % 64 = 0 → ha % 64 = 0 → localAt w.1 la n = some (sp, off) → farAt w.2 w.1 ha n = .ok d →
      (let older := w.1.acc.map (fun a => if touches sp off n a then { a with skip := (off, n) :: a.skip } else a)
       let p := issue l { hbm := true, reg := 32, val := 0, space := sp, off := off, data := hbmRdN w.2 d n, skip := [],
                          poison := hbmPoisoned w.2 d n } { w.1 with acc := older } w.2
       exec (.hld l rl rh nm1 disp) s = .next (setRun p.2 l p.1)) ∧
      (let p := settle l (touches sp off n) w.1 w.2
       exec (.hst l rl rh nm1 disp) s = .next (setRun (hbmWr p.2 d (spaceRd p.2 l sp off n)) l p.1))) ∧
    (∀ c ∈ [Instr.hld l rl rh nm1 disp, .hst l rl rh nm1 disp],
      (la % 64 ≠ 0 ∨ ha % 64 ≠ 0 → exec c s = faults s l 4 [rl, rh] r 2 0) ∧
      (la % 64 = 0 → ha % 64 = 0 → localAt w.1 la n = none → exec c s = faults s l 4 [rl, rh] r 1 0) ∧
      (∀ code, la % 64 = 0 → ha % 64 = 0 → localAt w.1 la n = some (sp, off) → farAt w.2 w.1 ha n = .error code →
        exec c s = faults s l 4 [rl, rh] r code 0)) ∧
    (mask ≠ 0 → exec (.waitR l mask) s = goesOn l
      (settle l (fun a => if a.hbm then mask.getLsbD 1 else mask.getLsbD 0) { r with pc := r.pc + 1, cycles := r.cycles + 1 } s)) ∧
    (mask = 0 → exec (.waitR l mask) s = noLoad "WAIT") ∧
    (∀ a : Machine.Access, r.acc[i.toNat]? = some a → exec (.memoryAccessComplete l i) s = goesOn l (complete l (r, s) a)) ∧
    (r.acc[i.toNat]? = none → exec (.memoryAccessComplete l i) s = .next s)

/-! ### Milys: vectors -/

/-- The element-wise vector arithmetic (R173, R180 to R187): each active element takes its result, rounded once with its own draw under
STOCHASTIC, inactive ones keep the old element or are zero under ZM; an integer VFMA or VFMS beyond the range is a free value (log entry 39, as the
manual states no result). The compares give one bit for each active element, the bits above the elements zero. An MX format without W raises FORMAT in
each of them.
Each of these answers a next state where its clause says so: VADD, VSUB, VMUL, VFMA, VFMS, VMAX, VMIN, VABS, VNEG, VCMP_EQ, VCMP_LT, VCMP_LE,
VCMP_UNORD. -/
def Obligations.VectorArithmeticAndCompares : Prop :=
  (∀ (s : State) (l : Fin 6144) (r : CellRun) (vd va vb vc : Fin 16) (pg : Fin 8) (zm w : Bool), cellRun s l = some r →
      let fm := vfmt r.r.fmt w
      let act := active (gP r pg)
      let free := fun i => Config.freeValue (s.free + i)
      (∀ n wd, layout r.r.fmt w = some (n, wd) →
        let put := fun (u : State) (draws : Bool) (f : Nat → Nat → Nat → Nat → Nat → Nat) =>
          let x := activeMap (if draws then r.r.rnd else 0) act (fun i d => f d i (el wd (gV r va) i) (el wd (gV r vb) i) (el wd (gV r vc) i))
            (List.range n) (cellRand u l)
          (.next (setRun (keepRand u l x.2) l (pV { r with pc := r.pc + 1, cycles := r.cycles + 1 } vd (merge n wd (gV r vd) act zm x.1))) :
            Host.Outcome State Fault Refusal)
        exec (.vadd l vd va vb pg zm w) s = put s true (fun d _ a b _ => elArith fm r.r.rnd d Sys2Proof.Num.add (fun x y => x + y) a b) ∧
        exec (.vsub l vd va vb pg zm w) s = put s true (fun d _ a b _ => elArith fm r.r.rnd d (fun x y => Sys2Proof.Num.add x (Num.neg y)) (fun x y => x - y) a b) ∧
        exec (.vmul l vd va vb pg zm w) s = put s true (fun d _ a b _ => elArith fm r.r.rnd d Sys2Proof.Num.mul (fun x y => x * y) a b) ∧
        exec (.vfma l vd va vb vc pg zm w) s = put (takeFree s 64) true (fun d i a b c => elFused fm r.r.rnd d (free i) false a b c) ∧
        exec (.vfms l vd va vb vc pg zm w) s = put (takeFree s 64) true (fun d i a b c => elFused fm r.r.rnd d (free i) true a b c) ∧
        exec (.vmax l vd va vb pg zm w) s = put s false (fun _ _ a b _ => elArith fm 0 0 Num.vmax max a b) ∧
        exec (.vmin l vd va vb pg zm w) s = put s false (fun _ _ a b _ => elArith fm 0 0 Num.vmin min a b) ∧
        exec (.vabs l vd va pg zm w) s = put s false (fun _ _ a _ _ => a % 2 ^ (Num.elemBits fm - 1)) ∧
        exec (.vneg l vd va pg zm w) s = put s false (fun _ _ a _ _ => a ^^^ 2 ^ (Num.elemBits fm - 1))) ∧
      (layout r.r.fmt w = none →
        (∀ c ∈ [Instr.vadd l vd va vb pg zm w, .vsub l vd va vb pg zm w, .vmul l vd va vb pg zm w, .vmax l vd va vb pg zm w,
          .vmin l vd va vb pg zm w, .vabs l vd va pg zm w, .vneg l vd va pg zm w], exec c s = faults s l 1 [] r 4 0) ∧
        (∀ c ∈ [Instr.vfma l vd va vb vc pg zm w, .vfms l vd va vb vc pg zm w], exec c s = faults (takeFree s 64) l 1 [] r 4 0))) ∧
  (∀ (s : State) (l : Fin 6144) (r : CellRun) (pd : Fin 8) (va vb : Fin 16) (pg : Fin 8) (zm w : Bool), cellRun s l = some r →
      (∀ n wd, layout r.r.fmt w = some (n, wd) →
        let test := fun (fl : Num.Val → Num.Val → Bool) (int : Int → Int → Bool) (i : Nat) =>
          match Num.floatFmt (vfmt r.r.fmt w) with
          | some f => fl (Num.decode f (el wd (gV r va) i)) (Num.decode f (el wd (gV r vb) i))
          | none => int (Num.intOf wd (el wd (gV r va) i)) (Num.intOf wd (el wd (gV r vb) i))
        let put := fun (t : Nat → Bool) => (.next (setRun s l (pP { r with pc := r.pc + 1, cycles := r.cycles + 1 } pd (BitVec.ofNat 64 (packBits
          ((List.range n).map (fun i => (i, 1, b2n (if active (gP r pg) i then t i else if zm then false else (gP r pd).getLsbD i)))))))) :
            Host.Outcome State Fault Refusal)
        exec (.vcmpEq l pd va vb pg zm w) s = put (test Num.eq (fun a b => a == b)) ∧
        exec (.vcmpLt l pd va vb pg zm w) s = put (test Num.lt (fun a b => decide (a < b))) ∧
        exec (.vcmpLe l pd va vb pg zm w) s = put (test (fun a b => Num.lt a b || Num.eq a b) (fun a b => decide (a ≤ b))) ∧
        exec (.vcmpUnord l pd va vb pg zm w) s = put (test (fun a b => decide (a = .nan) || decide (b = .nan)) (fun _ _ => false))) ∧
      (layout r.r.fmt w = none → ∀ c ∈ [Instr.vcmpEq l pd va vb pg zm w, .vcmpLt l pd va vb pg zm w, .vcmpLe l pd va vb pg zm w,
        .vcmpUnord l pd va vb pg zm w], exec c s = faults s l 1 [] r 4 0))

/-- A vector register merged of `n` elements: an active element is the new one at its width, an inactive one is zero under ZM and else the
old one (R155, R173). -/
def Obligations.MergedElements : Prop :=
  ∀ (n w : Nat) (old : BitVec 512) (act : Nat → Bool) (zm : Bool) (new : List Nat) (i : Nat), 0 < w → n * w ≤ 512 → i < n →
    el w (merge n w old act zm new) i = if act i then new.getD i 0 % 2 ^ w else if zm then 0 else el w old i

/-- The other vector instructions (R173, R186, R187): reciprocals, bitwise, selection, conversions, moves and element access, with the formats, the
parts and the element numbers on which they raise FORMAT or the loader rejects them. Where the manual states no result, one free value stands in
its place: a bitwise result under a predicate neither all ones nor zero, and a part of VCVTW beyond the elements (log entry 39).
Each of these answers a next state where its clause says so: VRCP, VRSQRT, VAND, VOR, VXOR, VCVTW, VNRW, VI2F, VF2I, VMOV, VSEL, VBCAST, VEXT, VINS. -/
def Obligations.VectorMovesAndConversions : Prop :=
  ∀ (s : State) (l : Fin 6144) (r : CellRun) (vd va vb : Fin 16) (sa : Fin 32) (pg : Fin 8) (imm : BitVec 6) (part half : BitVec 4) (zm w : Bool),
    cellRun s l = some r →
    let act := active (gP r pg)
    let n1 := { r with pc := r.pc + 1, cycles := r.cycles + 1 }
    let set := fun (v : BitVec 512) => (.next (setRun s l (pV n1 vd v)) : Host.Outcome State Fault Refusal)
    let fp := fun (f : Num.Val → Num.Val) => set (merge 16 32 (gV r vd) act zm ((List.range 16).map (fun i => Num.encode Num.fp32 0 0 (f (Num.decode Num.fp32 (el 32 (gV r va) i))))))
    let q := atIns s l 1 [sa] r
    (r.r.fmt = 0 ∨ w = true → exec (.vrcp l vd va pg zm w) s = fp Num.recip ∧ exec (.vrsqrt l vd va pg zm w) s = fp Num.rsqrt) ∧
    (r.r.fmt ≠ 0 → w = false → ∀ c ∈ [Instr.vrcp l vd va pg zm w, .vrsqrt l vd va pg zm w], exec c s = faults s l 1 [] r 4 0) ∧
    (gP r pg = BitVec.allOnes 64 → exec (.vand l vd va vb pg zm) s = set (gV r va &&& gV r vb) ∧
      exec (.vor l vd va vb pg zm) s = set (gV r va ||| gV r vb) ∧ exec (.vxor l vd va vb pg zm) s = set (gV r va ^^^ gV r vb)) ∧
    (∀ c ∈ [Instr.vand l vd va vb pg zm, .vor l vd va vb pg zm, .vxor l vd va vb pg zm],
      (gP r pg = 0 → exec c s = .next (setRun s l (if zm then pV n1 vd 0 else n1))) ∧
      (gP r pg ≠ 0 → gP r pg ≠ BitVec.allOnes 64 → ∃ v, exec c s = .next (setRun (takeFree s) l (pV n1 vd v)))) ∧
    (part.toNat < 4 →
      (∀ wd, narrowBits r.r.fmt = some wd → wd * (16 * part.toNat + 16) ≤ 512 → exec (.vcvtw l vd va part pg zm) s = set (merge 16 32 (gV r vd) act zm
        ((List.range 16).map (fun i => widen r.r.fmt (el wd (gV r va) (16 * part.toNat + i)))))) ∧
      (∀ wd, narrowBits r.r.fmt = some wd → 512 < wd * (16 * part.toNat + 16) → ∃ x : List Nat, x.length = 16 ∧
        exec (.vcvtw l vd va part pg zm) s = .next (setRun (takeFree s 16) l (pV n1 vd (merge 16 32 (gV r vd) act zm x)))) ∧
      (narrowBits r.r.fmt = none → exec (.vcvtw l vd va part pg zm) s = faults s l 1 [] r 4 0)) ∧
    (4 ≤ part.toNat → exec (.vcvtw l vd va part pg zm) s = noLoad "VCVTW") ∧
    (half.toNat < 2 →
      (∀ wd, narrowBits r.r.fmt = some wd →
        let base := if wd = 8 then 32 * half.toNat else 0
        let inHalf := fun i => decide (base ≤ i) && decide (i < base + 32)
        let on := fun i => inHalf i && act i
        let src := fun j => if j < 16 then el 32 (gV r va) j else el 32 (gV r vb) (j - 16)
        let x := activeMap r.r.rnd on (fun i d => narrow r.r.fmt r.r.rnd d (src (i - base))) (List.range (512 / wd)) (cellRand s l)
        exec (.vnrw l vd va vb half pg zm) s = .next (setRun (keepRand s l x.2) l (pV n1 vd (merge (512 / wd) wd (gV r vd) (fun i => on i || !inHalf i) zm
          ((List.range (512 / wd)).map (fun i => if inHalf i then x.1.getD i 0 else el wd (gV r vd) i)))))) ∧
      (narrowBits r.r.fmt = none → exec (.vnrw l vd va vb half pg zm) s = faults s l 1 [] r 4 0)) ∧
    (2 ≤ half.toNat → exec (.vnrw l vd va vb half pg zm) s = noLoad "VNRW") ∧
    (let x := activeMap r.r.rnd act (fun i d => Num.encode Num.fp32 r.r.rnd d (Num.ofInt (Num.intOf 32 (el 32 (gV r va) i)))) (List.range 16) (cellRand s l)
     exec (.vi2f l vd va pg zm) s = .next (setRun (keepRand s l x.2) l (pV n1 vd (merge 16 32 (gV r vd) act zm x.1)))) ∧
    exec (.vf2i l vd va pg zm) s = set (merge 16 32 (gV r vd) act zm ((List.range 16).map (fun i => Num.toInt 32 0 0 (Num.decode Num.fp32 (el 32 (gV r va) i))))) ∧
    exec (.vmov l vd va) s = set (gV r va) ∧
    (∀ n wd, layout r.r.fmt w = some (n, wd) →
      exec (.vsel l vd va vb pg w) s = set (merge n wd (gV r vb) act false ((List.range n).map (el wd (gV r va)))) ∧
      exec (.vbcast l vd sa imm w) s = .next (setRun q.2 l (pV q.1 vd (merge n wd 0 (fun _ => true) false
        (List.replicate n (bits (gS q.1 sa).toNat (if wd = 32 ∧ imm.getLsbD 0 then 32 else 0) wd))))) ∧
      (imm.toNat < n → exec (.vext l sa va imm w) s = .next (setRun q.2 l (pS q.1 sa (BitVec.ofNat 64 (el wd (gV q.1 va) imm.toNat)))) ∧
        exec (.vins l vd sa imm w) s = .next (setRun q.2 l (pV q.1 vd (merge n wd (gV q.1 vd) (fun i => i == imm.toNat) false
          (List.replicate n (bits (gS q.1 sa).toNat 0 wd)))))) ∧
      (n ≤ imm.toNat → ∀ c ∈ [Instr.vext l sa va imm w, .vins l vd sa imm w], exec c s = faults s l 1 [sa] r 4 0)) ∧
    (layout r.r.fmt w = none → exec (.vsel l vd va vb pg w) s = faults s l 1 [] r 4 0 ∧
      ∀ c ∈ [Instr.vbcast l vd sa imm w, .vext l sa va imm w, .vins l vd sa imm w], exec c s = faults s l 1 [sa] r 4 0)

/-! ### Milys: tiles, fabric issue and system -/

/-- The tile instructions on a bound handle, once the reads that still land in its slot have completed (R156, R169, R174): tile to register and
back, blocks of MX tiles, whole-tile arithmetic, clearing, copying and the tile CRC, allocation and release. A piece past the tile raises ADDRESS; a
header or a block that does not agree with FMT raises FORMAT (R174, R188); an unbound handle, a third TALLOC or one of a bound handle raises TILE; the
loader rejects VMXP of an odd register, and TALLOC and TFREE in a tenant finish (R176).
Each of these answers a next state where its clause says so: TLD, TST, VMXU, VMXP, TADD, TCOPY, TMULS, TZERO, TCRC, TFREE, TALLOC. -/
def Obligations.TileInstructions : Prop :=
  ∀ (s : State) (l : Fin 6144) (r : CellRun) (vd : Fin 16) (td : Fin 4) (sa : Fin 32) (imm : BitVec 6), cellRun s l = some r →
    let n := { r with pc := r.pc + 1, cycles := r.cycles + 1 }
    (∀ k, gT r td = some k →
      let p := atTile s l 1 [sa] r k
      let o := ((gS p.1 sa + imm.zeroExtend 64) * 64).toNat
      let t := slotTile p.2 l k
      let b := (gS p.1 sa).toNat
      (o ≤ 2048 → exec (.tld l vd td sa imm) s = .next (setRun p.2 l (pV p.1 vd (BitVec.ofNat 512 (ofLeBytes (sliceBytes t o 64))))) ∧
        exec (.tst l vd td sa imm) s = .next (setRun (setSlotTile p.2 l k (putBytes t o (leBytes 64 (gV p.1 vd).toNat))) l p.1)) ∧
      (2048 < o → ∀ c ∈ [Instr.tld l vd td sa imm, .tst l vd td sa imm], exec c s = faults s l 1 [sa] r 1 0) ∧
      (mxOk r.r.fmt t b = true →
        let blk := Num.mxBlock r.r.fmt (tileBlocks t) b (tileData t)
        let x := Num.drawAll r.r.rnd (fun d v => Num.encode Num.fp32 r.r.rnd d v)
          (((Num.mxDecode r.r.fmt blk.1 blk.2).drop (if imm.getLsbD 0 then 16 else 0)).take 16) (cellRand p.2 l)
        exec (.vmxu l vd td sa imm) s = .next (setRun (keepRand p.2 l x.2) l (pV p.1 vd (merge 16 32 0 (fun _ => true) false x.1)))) ∧
      (mxOk r.r.fmt t b = false → exec (.vmxu l vd td sa imm) s = faults s l 1 [sa] r 4 0)) ∧
    (∀ k, gT r td = some k → vd.val % 2 = 0 →
      let p := atTile s l 2 [sa] r k
      let t := slotTile p.2 l k
      let b := (gS p.1 sa).toNat
      let w := Num.elemBits r.r.fmt
      let x := Num.mxEncode r.r.fmt r.r.rnd (values32 (gV r vd) ++ values32 (gV r (vd + 1))) (cellRand p.2 l)
      let t' := putBytes (putBytes t (64 + 4 * w * b) (Num.unelems w x.2.1)) (64 + 4 * w * tileBlocks t + b) (leBytes 1 x.1)
      (mxOk r.r.fmt t b = true → exec (.vmxp l vd td sa) s = .next (setRun (keepRand (setSlotTile p.2 l k t') l x.2.2) l p.1)) ∧
      (mxOk r.r.fmt t b = false → exec (.vmxp l vd td sa) s = faults s l 2 [sa] r 4 0)) ∧
    (vd.val % 2 = 1 → exec (.vmxp l vd td sa) s = noLoad "VMXP") ∧
    (∀ (ts : Fin 4) (k j : Nat), gT r td = some k → gT r ts = some j →
      let p := atTile s l 32 [] r k
      let q := settle l (touches (1 + j) 0 tileLen) p.1 p.2
      let a := slotTile q.2 l k
      let b := slotTile q.2 l j
      let agree := tileOk r.r.fmt a = true ∧ tileOk r.r.fmt b = true ∧ (Num.isMx r.r.fmt = true → tileBlocks a = tileBlocks b)
      let x := Num.tileAdd r.r.fmt r.r.rnd (tileBlocks a) (tileData a) (tileData b) (cellRand q.2 l)
      (agree → exec (.tadd l td ts) s = .next (setRun (keepRand (setSlotTile q.2 l k (withData a x.1)) l x.2) l q.1)) ∧
      (¬ agree → exec (.tadd l td ts) s = faults s l 32 [] r 4 0)) ∧
    (∀ (ts : Fin 4) (k j : Nat), gT r td = some k → gT r ts = some j →
      let p := atTile s l 33 [] r k
      let q := settle l (touches (1 + j) 0 tileLen) p.1 p.2
      exec (.tcopy l td ts) s = .next (setRun (if td = ts then q.2 else setSlotTile q.2 l k (slotTile q.2 l j)) l q.1)) ∧
    (∀ k, gT r td = some k →
      let p := atTile s l 32 [sa] r k
      let t := slotTile p.2 l k
      let x := Num.tileScale r.r.fmt r.r.rnd (tileBlocks t) (tileData t) ((gS p.1 sa).toNat % 2 ^ 32) (cellRand p.2 l)
      (tileOk r.r.fmt t = true → exec (.tmuls l td sa) s = .next (setRun (keepRand (setSlotTile p.2 l k (withData t x.1)) l x.2) l p.1)) ∧
      (tileOk r.r.fmt t = false → exec (.tmuls l td sa) s = faults s l 32 [sa] r 4 0)) ∧
    (∀ k, gT r td = some k →
      let p := atTile s l 33 [] r k
      let q := atTile s l 33 [sa] r k
      exec (.tzero l td) s = .next (setRun (setSlotTile p.2 l k (List.replicate tileLen 0)) l p.1) ∧
      exec (.tcrc l sa td) s = .next (setRun q.2 l (pS q.1 sa (BitVec.ofNat 64 (tileCrc (slotTile q.2 l k)))))) ∧
    (gT r td = none →
      (∀ c ∈ [Instr.tld l vd td sa imm, .tst l vd td sa imm, .vmxu l vd td sa imm], exec c s = faults s l 1 [sa] r 5 0) ∧
      (vd.val % 2 = 0 → exec (.vmxp l vd td sa) s = faults s l 2 [sa] r 5 0) ∧ exec (.tmuls l td sa) s = faults s l 32 [sa] r 5 0 ∧
      exec (.tzero l td) s = faults s l 33 [] r 5 0 ∧ exec (.tcrc l sa td) s = faults s l 33 [sa] r 5 0 ∧
      (∀ ts : Fin 4, exec (.tadd l td ts) s = faults s l 32 [] r 5 0 ∧ exec (.tcopy l td ts) s = faults s l 33 [] r 5 0)) ∧
    (∀ ts : Fin 4, gT r ts = none → exec (.tadd l td ts) s = faults s l 32 [] r 5 0 ∧ exec (.tcopy l td ts) s = faults s l 33 [] r 5 0) ∧
    (tenantRun r = false →
      (∀ k, gT r td = some k → exec (.tfree l td) s = .next (setRun s l { n with r := { r.r with t := r.r.t.set td none } })) ∧
      (gT r td = none → exec (.tfree l td) s = faults s l 1 [] r 5 0) ∧
      (gT r td = none → r.own.length < 2 → exec (.talloc l td) s = .next (setRun s l
        { n with own := r.own ++ [6 + r.own.length], r := { r.r with t := r.r.t.set td (some (6 + r.own.length)) } })) ∧
      ((gT r td).isSome = true ∨ 2 ≤ r.own.length → exec (.talloc l td) s = faults s l 1 [] r 5 0)) ∧
    (tenantRun r = true → exec (.talloc l td) s = noLoad "TALLOC" ∧ exec (.tfree l td) s = noLoad "TFREE")

/-- EMIT and EMITT put one packet with the header at rh into the cell's egress queue, with SRC and COOKIE as Vovis writes them, and the emit
count goes up; a header or payload past local data raises ADDRESS, a header that R175 bars HEADER, one emit too many EMIT_LIMIT, and an unbound handle
TILE (R135, R175). RDSYS, GPIOW, GPIOR and CNTRD read and write the device; a pin outside GPIO_CLAIMS raises CLAIM, and a reserved AUX is rejected.
The loader admits none of them in a tenant finish (R176).
Each of these answers a next state where its clause says so: EMIT, EMITT, RDSYS, GPIOR, GPIOW, CNTRD. -/
def Obligations.EmitAndSystem : Prop :=
  ∀ (s : State) (l : Fin 6144) (r : CellRun) (ra rb : Fin 32) (th : Fin 4) (aux : BitVec 5), cellRun s l = some r →
    let head := fun (p : CellRun × State) => hdrOfBits (ofLeBytes (localRd p.2 l (gS p.1 ra).toNat 64))
    let out := fun (p : CellRun × State) (h : Hdr) (body : List Byte) => goesOn l ({ p.1 with emits := p.1.emits + 1 },
      offer p.2 (512 + l) (mkPacket p.2 (emitHdr p.2 l h) body))
    let at2 := atIns s l 16 [ra, rb] r
    let at2' := atIns s l 16 [rb, ra] r
    let i := (gS at2.1 ra).toNat % 16
    let i' := (gS at2'.1 ra).toNat % 16
    (tenantRun r = false →
      (let w := atIns s l 8 [ra, rb] r
       let p := settle l (touches 0 (gS w.1 ra).toNat 64) w.1 w.2
       let h := head p
       let len := if expectedFlits h = 1 ∨ expectedFlits h = 34 then 0 else h.len.toNat
       let b := (gS p.1 rb).toNat
       let q := if len = 0 then p else settle l (touches 0 b len) p.1 p.2
       let body := if len = 0 then [] else padFlits (localRd q.2 l b len)
       let outside := 0x20000 < (gS w.1 ra).toNat + 64 ∨ len ≠ 0 ∧ 0x20000 < b + len
       (¬ outside → emitBad { h := h, payload := body } false = false → r.emits < r.maxEmits → exec (.emit l ra rb) s = out q h body) ∧
       (outside → exec (.emit l ra rb) s = faults s l 8 [ra, rb] r 1 0) ∧
       (¬ outside → emitBad { h := h, payload := body } false = true → exec (.emit l ra rb) s = faults s l 8 [ra, rb] r 7 0) ∧
       (¬ outside → emitBad { h := h, payload := body } false = false → r.maxEmits ≤ r.emits → exec (.emit l ra rb) s = faults s l 8 [ra, rb] r 6 0)) ∧
      (gT r th = none → exec (.emitt l ra th) s = faults s l 8 [ra] r 5 0) ∧
      (∀ k, gT r th = some k →
        let w := atIns s l 8 [ra] r
        let p := settle l (touches 0 (gS w.1 ra).toNat 64) w.1 w.2
        let q := settle l (touches (1 + k) 0 tileLen) p.1 p.2
        let zeroed := putBytes (slotTile q.2 l k) 0 (leBytes 8 0)
        let tile := putBytes zeroed 0 (leBytes 4 (tileCrc zeroed))
        let bad := emitBad { h := head p, payload := tile } true
        let inside := (gS w.1 ra).toNat + 64 ≤ 0x20000
        (inside → bad = false → r.emits < r.maxEmits → exec (.emitt l ra th) s = out q (head p) tile) ∧
        (¬ inside → exec (.emitt l ra th) s = faults s l 8 [ra] r 1 0) ∧
        (inside → bad = true → exec (.emitt l ra th) s = faults s l 8 [ra] r 7 0) ∧
        (inside → bad = false → r.maxEmits ≤ r.emits → exec (.emitt l ra th) s = faults s l 8 [ra] r 6 0)) ∧
      (aux.toNat < 11 → let w := atIns s l 16 [ra] r
        exec (.rdsys l ra aux) s = .next (setRun w.2 l (pS w.1 ra (BitVec.ofNat 64 (sysValue w.2 l w.1 aux.toNat))))) ∧
      (bitAt (imageOf s (l / 128)).gpio i' = true →
        exec (.gpior l rb ra) s = .next (setRun at2'.2 l (pS at2'.1 rb (BitVec.ofNat 64 (b2n (gpioLevel at2'.2 i')))))) ∧
      (bitAt (imageOf s (l / 128)).gpio i' = false → exec (.gpior l rb ra) s = faults s l 16 [rb, ra] r 9 0) ∧
      (bitAt (imageOf s (l / 128)).gpio i = true → exec (.gpiow l ra rb) s = .next (setRun
        (if rdb s (Reg.MGMT.GPIO_CTL.DIR i) then wr at2.2 (Reg.MGMT.GPIO_CTL.OUT i) ((gS at2.1 rb).toNat % 2) else at2.2) l at2.1)) ∧
      (bitAt (imageOf s (l / 128)).gpio i = false → exec (.gpiow l ra rb) s = faults s l 16 [ra, rb] r 9 0) ∧
      exec (.cntrd l rb ra) s = .next (setRun at2'.2 l (pS at2'.1 rb (BitVec.ofNat 64 (counterValue at2'.2 (gS at2'.1 ra).toNat))))) ∧
    (11 ≤ aux.toNat → exec (.rdsys l ra aux) s = noLoad "RDSYS") ∧
    (tenantRun r = true → ∀ e ∈ [(Instr.emit l ra rb, "EMIT"), (.emitt l ra th, "EMITT"), (.rdsys l ra aux, "RDSYS"), (.gpiow l ra rb, "GPIOW"),
      (.gpior l rb ra, "GPIOR"), (.cntrd l rb ra, "CNTRD")], exec e.1 s = noLoad e.2)

/-! ### Registers (01, 02) -/

/-- A write of 4 or 8 bytes within one register that holds settings (R8, R10, R12, R25, R439): each RW or RWG field that the write meets takes its
bits where it is open and accepts them, each W1C field loses the bits written as 1, and nothing else changes but that the first field that is closed
and would change is reported as cause 3, or the first that does not accept its value as cause 4. A register that only the writers of R32 write is
reported as cause 5 for another writer; a register whose write acts has the operation of its command. A read of 4 or 8 bytes within one register
returns it at one time as it shows it and clears the RC fields that it meets (R10, R14), both fields of a JIG_COUNT entry at once; a snapshot register without DONE shows a value of no defined relation (R15), its reserved bits zero (R12),
and the second half of a port that is not split reads as zero (R331). Two dwords of different registers are accessed one after the other. Where no
register lies a read returns zero and a write is discarded with an error report (R26), an access that is no aligned 4 or 8 bytes returns all ones or
is discarded with a report (R14), and the views show the tables, PBAs and VF registers of R302 and R307.
Each of these answers a next state where its clause says so: REGISTER_WRITE, READ_CLEAR, REG_READ. -/
def Obligations.RegisterAccesses : Prop :=
  (∀ (s : State) (w : Writer) (off : BitVec 26) (n : BitVec 4) (v : BitVec 64) (x : RegAt) (a : Nat), standsIn s w off.toNat n.toNat a x →
      let u := actor s w
      let lo := x.bitOf a
      let k := 8 * n.toNat
      let new := mergeBits (regHeld s x) lo k v.toNat
      let put := putField s x lo k new
      let err := noErr s x lo k new
      let b := x.desc.base
      let go := fun t => exec (.registerWrite w off n v) s = .next t
      readOnlyView s u off.toNat = false →
        (privOnly b = true → u.privileged = false → go (regError s u off.toNat n.toNat true 5)) ∧
        (privOnly b = false ∨ u.privileged = true →
          (settingsOnly b = true →
            (err x.desc.fields → go (x.desc.fields.foldl put s)) ∧
            (∀ pre f post c, x.desc.fields = pre ++ f :: post → err pre → fieldErr s x lo k new (pre.foldl put s) f = some c →
              go (regError (x.desc.fields.foldl put s) u off.toNat n.toNat true c))) ∧
          (settingsOnly b = false → go (writeReg s u x off.toNat n.toNat lo new)))) ∧
  (∀ (s : State) (w : Writer) (off : BitVec 26) (n : BitVec 4) (x : RegAt) (a : Nat), standsIn s w off.toNat n.toNat a x →
      let u := regRefresh s x
      let k := 8 * n.toNat
      let lo := x.bitOf a
      let shut := (x.desc.snap && !rdb u (snapFlds (snapBlkOf x.addr)).2.1) || (x.desc.base == 0xF00028 && !rdb u Reg.TELEMETRY.TEL_CNT_SEL.DONE)
      let go := fun (t : State) (shown : Nat) => exec (.readClear w off n) s = .next (emitOut (clearRead t x lo k) (.regRead w (bits shown lo k) n.toNat))
      (halfAbsent u x = true → go u 0) ∧
      (halfAbsent u x = false → shut = true → go (takeFree u) (packBits (x.desc.fields.map (fun f => (f.lo, f.width, bits (peekFree u) f.lo f.width))))) ∧
      (halfAbsent u x = false → shut = false → go u (packBits (x.desc.fields.map (fun f => (f.lo, f.width, fieldShown u x f)))))) ∧
  (∀ (s : State) (w : Writer) (off : BitVec 26) (v : BitVec 64), accessOk off.toNat 8 = true →
      let u := actor s w
      let both := fun (l h : Nat × State) => exec (.readClear w off 8) s = .next (emitOut h.2 (.regRead w (l.1 + 2 ^ 32 * h.1) 8))
      (∀ a, viewOf s u off.toNat = .addr a → viewOf s u (off.toNat + 4) = .addr (a + 4) →
        (∀ x y, regFind a = some x → regFind (a + 4) = some y → x.addr ≠ y.addr) → both (readDword s a) (readDword (readDword s a).2 (a + 4))) ∧
      ((∀ a, viewOf s u off.toNat = .addr a → viewOf s u (off.toNat + 4) ≠ .addr (a + 4)) →
        both (viewRead s u off.toNat) (viewRead (viewRead s u off.toNat).2 u (off.toNat + 4))) ∧
      (readOnlyView s u off.toNat = false →
        (∀ a, viewOf s u off.toNat = .addr a → viewOf s u (off.toNat + 4) = .addr (a + 4) →
          (regFind a = none → regFind (a + 4) = none → exec (.registerWrite w off 8 v) s = .next (regError s u off.toNat 8 true 2)) ∧
          (∀ x, regFind a = some x → (∀ y, regFind (a + 4) = some y → y.addr ≠ x.addr) → exec (.registerWrite w off 8 v) s =
            .next (writeDword (writeDword s u a off.toNat (v.toNat % 2 ^ 32)) u (a + 4) (off.toNat + 4) (v.toNat / 2 ^ 32))) ∧
          (∀ y, regFind a = none → regFind (a + 4) = some y → exec (.registerWrite w off 8 v) s =
            .next (writeDword (writeDword s u a off.toNat (v.toNat % 2 ^ 32)) u (a + 4) (off.toNat + 4) (v.toNat / 2 ^ 32)))) ∧
        (∀ a, viewOf s u off.toNat = .addr a → viewOf s u (off.toNat + 4) ≠ .addr (a + 4) → exec (.registerWrite w off 8 v) s =
          .next (viewWrite (writeDword s u a off.toNat (v.toNat % 2 ^ 32)) u (off.toNat + 4) (v.toNat / 2 ^ 32))) ∧
        ((∀ a, viewOf s u off.toNat ≠ .addr a) → exec (.registerWrite w off 8 v) s =
          .next (viewWrite (viewWrite s u off.toNat (v.toNat % 2 ^ 32)) u (off.toNat + 4) (v.toNat / 2 ^ 32))))) ∧
  (∀ (s : State) (w : Writer) (off : BitVec 26) (n : BitVec 4) (v : BitVec 64),
      let u := actor s w
      (accessOk off.toNat n.toNat = false →
        exec (.registerWrite w off n v) s = .next (regError s u off.toNat n.toNat true 1) ∧
        exec (.readClear w off n) s = .next (emitOut (regError s u off.toNat n.toNat false 1) (.regRead w (2 ^ (32 * max 1 ((n.toNat + 3) / 4)) - 1) n.toNat))) ∧
      (accessOk off.toNat n.toNat = true → readOnlyView s u off.toNat = true → exec (.registerWrite w off n v) s = .next s)) ∧
  (∀ (s : State) (w : Writer) (off : BitVec 26) (v : BitVec 64), off.toNat % 4 = 0 →
      let u := actor s w
      let rd4 := fun k => exec (.readClear w off 4) s = .next (emitOut s (.regRead w k 4))
      let wr4 := fun t => readOnlyView s u off.toNat = false → exec (.registerWrite w off 4 v) s = .next t
      (∀ a, viewOf s u off.toNat = .addr a → regFind a = none → rd4 0 ∧ wr4 (regError s u off.toNat 4 true 2)) ∧
      (viewOf s u off.toNat = .none → rd4 0 ∧ wr4 (regError s u off.toNat 4 true (outsideCause u off.toNat))) ∧
      (viewOf s u off.toNat = .zero → rd4 0 ∧ wr4 s) ∧
      (∀ p f r, viewOf s u off.toNat = .table p f r → rd4 (tableRead s p f r) ∧ wr4 (tableWrite s p f r (v.toNat % 2 ^ 32))) ∧
      (∀ p f r, viewOf s u off.toNat = .pba p f r → rd4 (pbaRead s p f r) ∧ wr4 s) ∧
      (∀ p f, sliceOf u = some (p, f) →
        (viewOf s u off.toNat = .vfId → rd4 (bits (vfId s p f) (8 * (off.toNat % 8)) 32) ∧ wr4 s) ∧
        (viewOf s u off.toNat = .vfInval → rd4 (vfInvalRead s p f) ∧ wr4 (if v.toNat.testBit 24 then sliceSet s p f (sliceGet s p f % 256) else s))))

/-- The register and map requests of the fabric (R61, R369), each in the arrival queue of the management port: one whose HCRC is wrong is discarded
(R51); from a fabric manager's ID and of 4 or 8 bytes, a register access is made as writer FABRIC at ADDR, and the response carries the value read,
or says that the access was made or refused; another length or sender is answered DENIED. A request of another kind is answered from the copy of the
map: UNSUPPORTED but for a READ or READ_BULK of what is served, REVOKED where its XGEN names no export, POISON where a byte cannot be read, else with
the bytes. A packet that is not in the queue is no request.
Each of these answers a next state where its clause says so: REG_READ, REG_WRITE, SWARM_ACK, MAP_READ, READ, READ_BULK. -/
def Obligations.ServiceRequests : Prop :=
  ∀ (s : State) (p : Packet),
    let t := takeIn s 228 p
    let here := (228, p) ∈ s.inbox
    let a := p.h.addr.toNat % 2 ^ 26
    let n := p.h.len.toNat
    let r := regRead t .fabric a n
    let u := regWrite t .fabric a n (ofLeBytes (p.payload.take n))
    let good := here ∧ p.h.hcrc = hcrcOf p.h
    let asked := good ∧ p.h.src.toNat ∈ fmIds s ∧ (n = 4 ∨ n = 8)
    let m := readLen p.h
    let first := min m (2 ^ 30 - p.h.off % 2 ^ 30)
    let shut := serviceShut s p.h.off = true ∨ serviceShut s (p.h.off + m - 1) = true
    let lost := hbmPoisoned s (serviceAddr s p.h.off) first = true ∨ first < m ∧ hbmPoisoned s (serviceAddr s (p.h.off + first)) (m - first) = true
    (p.h.k = some .regRead → asked → errMark r.2 = errMark t → exec (.regRead p) s = .next (answerData r.2 228 p.h (leBytes n r.1))) ∧
    (p.h.k = some .regRead → asked → errMark r.2 ≠ errMark t → exec (.regRead p) s = .next (answer r.2 228 p.h ccDenied 6 0)) ∧
    (p.h.k = some .regWrite → asked → errMark u = errMark t → exec (.regWrite p) s = .next (answer u 228 p.h ccOk 0 0)) ∧
    (p.h.k = some .regWrite → asked → errMark u ≠ errMark t → exec (.regWrite p) s = .next (answer u 228 p.h ccDenied 6 0)) ∧
    (∀ c ∈ [(Instr.regRead p, Kind.regRead), (.regWrite p, .regWrite)],
      (p.h.k = some c.2 → good → p.h.src.toNat ∉ fmIds s → exec c.1 s = .next (answer t 228 p.h ccDenied 4 0)) ∧
      (p.h.k = some c.2 → good → p.h.src.toNat ∈ fmIds s → n ≠ 4 → n ≠ 8 → exec c.1 s = .next (answer t 228 p.h ccDenied 6 0)) ∧
      (p.h.k = some c.2 → here → p.h.hcrc ≠ hcrcOf p.h → exec c.1 s = .next t) ∧
      (p.h.k ≠ some c.2 ∨ ¬ here → exec c.1 s = .next s)) ∧
    (∀ k : Kind, p.h.k = some k → k ≠ .regRead → k ≠ .regWrite → k ≠ .swarmAck →
      (here → p.h.hcrc ≠ hcrcOf p.h → exec (.mapRead p) s = .next t) ∧
      (good → k.answered = true →
        (k ≠ .read ∧ k ≠ .readBulk ∨ shut → exec (.mapRead p) s = .next (answer t 228 p.h ccUnsupported 0 0)) ∧
        (k = .read ∨ k = .readBulk → ¬ shut →
          (xgenEntry s p.h = none → exec (.mapRead p) s = .next (answer t 228 p.h ccRevoked 0 0)) ∧
          (xgenEntry s p.h ≠ none →
            (lost → exec (.mapRead p) s = .next (answer t 228 p.h ccPoison 0 0)) ∧
            (¬ lost → exec (.mapRead p) s =
              .next (answerData t 228 p.h (hbmRdN s (serviceAddr s p.h.off) first ++ hbmRdN s (serviceAddr s (p.h.off + first)) (m - first)))))))) ∧
    (¬ here ∨ p.h.k = none ∨ (∃ k, p.h.k = some k ∧ (k = .regRead ∨ k = .regWrite ∨ k = .swarmAck ∨ k.answered = false ∧ good)) →
      exec (.mapRead p) s = .next s)

/-! ### Functions (02) -/

/-- The commands to a function (R29 to R32): from a writer that R32 does not name each write is discarded and reported; from one that it names,
with the function's SEQ, each takes the state that it leaves to the next, SEQ advances by one and its trace point is recorded; NONE changes nothing.
A command with another SEQ, in a state that R29 gives no row for, or for an entry that no function has sets CMD_REJECTED and changes nothing else.
Each of these answers a next state where its clause says so: FUNC_CMD_NONE, FUNC_START, FUNC_STOP, FUNC_ACK_HOST, FUNC_RETIRE, FUNC_REINSTATE. -/
def Obligations.FunctionCommands : Prop :=
  ∀ (s : State) (w : Writer) (n : BitVec 9) (q : BitVec 8) (img : Program),
    let f := n.toNat
    let u := wr s (Reg.GLOBAL.FUNC_DIAG.SEQ f) (q.toNat + 1)
    let rejected := (.next (wr s (Reg.GLOBAL.FUNC_DIAG.CMD_REJECTED f) 1) : Host.Outcome State Fault Refusal)
    (w.privileged = false → ∀ c ∈ [Instr.funcCmdNone w n q, .funcStart w n q img, .funcStop w n q, .funcAckHost w n q, .funcRetire w n q, .funcReinstate w n q],
      exec c s = .next (regError s w (0x1004 + 16 * f) 4 true 5)) ∧
    (w.privileged = true → exec (.funcCmdNone w n q) s = .next s) ∧
    (w.privileged = true → f < 463 → q.toNat = rd s (Reg.GLOBAL.FUNC_DIAG.SEQ f) →
      (fnState u f = 0 → exec (.funcStart w n q img) s = .next (trace (startFn u f img) 1 1 0x0200 f 1)) ∧
      (fnState u f = 1 → exec (.funcStop w n q) s = .next (trace (abandon u f) 1 1 0x0200 f 2)) ∧
      (fnState u f = 2 → fnDependents u f = [] → exec (.funcStop w n q) s = .next (trace (stopFn u f) 1 1 0x0200 f 2)) ∧
      (fnState u f = 4 → exec (.funcAckHost w n q) s = .next (trace (backToStopped u f) 1 1 0x0200 f 3)) ∧
      (fnState u f = 0 ∨ fnState u f = 2 → fnRetirable f = true → fnDependents u f = [] →
        exec (.funcRetire w n q) s = .next (trace (retireFn u f false) 1 1 0x0200 f 4)) ∧
      (fnState u f = 5 → exec (.funcReinstate w n q) s = .next (trace (backToStopped u f) 1 1 0x0200 f 5)) ∧
      (fnState u f ≠ 0 → exec (.funcStart w n q img) s = rejected) ∧
      (fnState u f ≠ 1 → fnState u f ≠ 2 ∨ fnDependents u f ≠ [] → exec (.funcStop w n q) s = rejected) ∧
      (fnState u f ≠ 4 → exec (.funcAckHost w n q) s = rejected) ∧
      (fnState u f ≠ 0 ∧ fnState u f ≠ 2 ∨ fnRetirable f = false ∨ fnDependents u f ≠ [] → exec (.funcRetire w n q) s = rejected) ∧
      (fnState u f ≠ 5 → exec (.funcReinstate w n q) s = rejected)) ∧
    (w.privileged = true → 463 ≤ f ∨ q.toNat ≠ rd s (Reg.GLOBAL.FUNC_DIAG.SEQ f) →
      ∀ c ∈ [Instr.funcStart w n q img, .funcStop w n q, .funcAckHost w n q, .funcRetire w n q, .funcReinstate w n q], exec c s = rejected)

/-- STATE of every function after the commands and events of R29: START leads to DRY_FIT, STOP from DRY_FIT and the last step of STOPPING to
STOPPED, STOP from RUNNING to STOPPING, ACK_HOST and REINSTATE to STOPPED, RETIRE and a permanent fault to RETIRED, a dry-fit that runs out of time to
AWAIT_HOST, and the last step of STOPPING there too where a dependency was lost. READY is clear after each of them: it is set in RUNNING only (R36).
Each of these answers a next state where its clause says so: FUNC_START, FUNC_STOP, FUNC_ACK_HOST, FUNC_RETIRE, FUNC_REINSTATE, DRY_FIT_TIMEOUT,
STOP_DRAIN_COMPLETE, FUNC_PERMANENT_FAULT. -/
def Obligations.FunctionStates : Prop :=
  ∀ (s : State) (w : Writer) (n : BitVec 9) (q : BitVec 8) (img : Program), n.toNat < 463 →
    let f := n.toNat
    let ends := fun (c : Instr) (k : Nat) => ∃ t, exec c s = .next t ∧ fnState t f = k ∧ rdb t (Reg.GLOBAL.FUNC_STATUS.READY f) = false
    (w.privileged = true → q.toNat = rd s (Reg.GLOBAL.FUNC_DIAG.SEQ f) →
      (fnState s f = 0 → ends (.funcStart w n q img) 1) ∧ (fnState s f = 1 → ends (.funcStop w n q) 0) ∧
      (fnState s f = 2 → fnDependents s f = [] → ends (.funcStop w n q) 3) ∧ (fnState s f = 4 → ends (.funcAckHost w n q) 0) ∧
      (fnState s f = 0 ∨ fnState s f = 2 → fnRetirable f = true → fnDependents s f = [] → ends (.funcRetire w n q) 5) ∧
      (fnState s f = 5 → ends (.funcReinstate w n q) 0)) ∧
    (fnState s f = 1 → dryFitOpen s f = false → ends (.dryFitTimeout n) 4) ∧
    (fnState s f = 3 → drained s f = true → f ∉ s.fn.depLost → ends (.stopDrainComplete n) 0) ∧
    (fnState s f = 3 → drained s f = true → f ∈ s.fn.depLost → ends (.stopDrainComplete n) 4) ∧
    (fnRetirable f = true → fnState s f < 5 → ends (.funcPermanentFault n) 5)

/-- The events of R29 in a function's life: a dry-fit passes its four checks in their order and ends in RUNNING, or in AWAIT_HOST with the RESULT of
the check that fails (R34, R143, R196); it waits while a function that it depends on is still being started with it (R37), a CLUSTER while its
cells are tested or its control core is away, and one that loads a stock image while the security core is away, which verifies its signature (R384); the image copy of a CLUSTER is reloaded where it met an uncorrectable error (R349); after 50 ms its time is out. The drain of STOPPING ends
in STOPPED, at the limit with the rest flushed and STOP_FORCED set (R33), but not before the function resets of a HOSTPORT (R314); a permanent
fault retires a PORT, CLUSTER or HBM. Each of these events changes nothing where its condition does not hold.
Each of these answers a next state where its clause says so: DRY_FIT_COMPLETE, DRY_FIT_TIMEOUT, STOP_DRAIN_COMPLETE, STOP_DRAIN_LIMIT,
FUNC_PERMANENT_FAULT. -/
def Obligations.FunctionProgress : Prop :=
  ∀ (s : State) (n : BitVec 9) (hw bad : Bool) (a : BitVec 23),
    let f := n.toNat
    let i := fnInst f
    let x := loaderOutcome (fnType f == 2) (fnProgram s f)
    let note := loaderNote s f x.1 x.2
    let go := fun t => exec (.dryFitComplete n hw bad a) s = .next t
    let head := finishRun s (finishSpan (fnImage s f).codeBytes)
    let swarmOk := membersReach s i = true ∧ stockFinishOk s i = true
    let due := ∀ t, findKey s.fn.stopAt f = some t → t + us (rd s Reg.GLOBAL.STOP_DRAIN_LIMIT.LIMIT_US) ≤ s.now
    let resets := fnType f = 1 ∧ ∃ r ∈ s.host.flr, r.1 / 256 = i
    (f < 463 → dryFitOpen s f = true →
      (settingsOk s f = false → go (dryFitFails s f 2 0 0)) ∧
      (settingsOk s f = true → depsOk s f = false → f ∉ s.fn.listed → go (dryFitFails s f 3 0 0)) ∧
      (settingsOk s f = true → depsOk s f = false → f ∈ s.fn.listed → go s) ∧
      (settingsOk s f = true → depsOk s f = true →
        (∀ res holder, findKey s.fn.claim f = some (some (res, holder)) → go (dryFitFails s f 1 res holder)) ∧
        (findKey s.fn.claim f = none ∨ findKey s.fn.claim f = some none →
          (hw = true → go (dryFitFails s f 7 0 0)) ∧
          (hw = false → fnType f ≠ 2 → fnType f ≠ 4 → go (enterRunning s f)) ∧
          (hw = false → fnType f = 2 →
            (physIn s i 1 ≠ [] ∨ procAway s (4 + i) = true ∨ procAway s 0 = true → go s) ∧
            (physIn s i 1 = [] → procAway s (4 + i) = false → procAway s 0 = false →
              ((physIn s i 2).length < 128 → go (dryFitFails s f 7 0 0)) ∧
              (128 ≤ (physIn s i 2).length → x.1 = 0 → go (imageReloaded (enterRunning note f) i (if bad = true then some a else none))) ∧
              (128 ≤ (physIn s i 2).length → x.1 ≠ 0 → go (dryFitFails note f 4 0 0)))) ∧
          (hw = false → fnType f = 4 →
            (¬ swarmOk → go (dryFitFails s f 2 0 0)) ∧
            (swarmOk → rd s (Reg.SWARM.SWARM_DEF.FINISH_KIND i) ≠ 2 →
              (stateRangeOk s i = false → go (dryFitFails s f 2 0 0)) ∧ (stateRangeOk s i = true → go (enterRunning s f))) ∧
            (swarmOk → rd s (Reg.SWARM.SWARM_DEF.FINISH_KIND i) = 2 → stockSigned (fnProgram s f) = true → procAway s 0 = true → go s) ∧
            (swarmOk → rd s (Reg.SWARM.SWARM_DEF.FINISH_KIND i) = 2 → stockSigned (fnProgram s f) = false ∨ procAway s 0 = false →
              (x.1 ≠ 0 → go (dryFitFails note f 4 0 0)) ∧
              (x.1 = 0 → head = none → go (dryFitFails (loaderNote s f 11 0) f 5 0 0)) ∧
              (∀ a, x.1 = 0 → head = some a → stateRangeOk s i = false → go (dryFitFails (loaderNote s f 0 0) f 2 0 0)) ∧
              (∀ a, x.1 = 0 → head = some a → stateRangeOk s i = true →
                go (enterRunning (finishLoad (loaderNote s f 0 0) i a (fnImage s f)) f))))))) ∧
    (463 ≤ f ∨ dryFitOpen s f = false → go s) ∧
    (fnState s f = 1 → dryFitOpen s f = false → exec (.dryFitTimeout n) s = .next (dryFitFails s f 8 0 0)) ∧
    (fnState s f ≠ 1 ∨ dryFitOpen s f = true → exec (.dryFitTimeout n) s = .next s) ∧
    (fnState s f = 3 → drained s f = true → exec (.stopDrainComplete n) s = .next (reachStopped s f false)) ∧
    (fnState s f ≠ 3 ∨ drained s f = false → exec (.stopDrainComplete n) s = .next s) ∧
    (fnState s f = 3 → drained s f = false → due → ¬ resets →
      exec (.stopDrainLimit n) s = .next (reachStopped (wr (flushFn s f) (Reg.GLOBAL.FUNC_DIAG.STOP_FORCED f) 1) f true)) ∧
    (fnState s f ≠ 3 ∨ drained s f = true ∨ ¬ due ∨ resets → exec (.stopDrainLimit n) s = .next s) ∧
    (fnRetirable f = true → fnState s f < 5 → exec (.funcPermanentFault n) s = .next (retireFn s f true)) ∧
    (fnRetirable f = false ∨ 5 ≤ fnState s f → exec (.funcPermanentFault n) s = .next s)

/-! ### The switch (05) -/

/-- A packet at a crossbar port, with its tail or its head alone (R107): where nothing may enter (R24, R135, R332, R349) or another packet is open at
the half (R87) nothing changes. It leaves the queue that sends it and is stamped with fabric time (R52, R96). A fault of R51, R54, R75 or R86 discards
it, and a head that promises no payload is one; a swarm tile of a stopped SWARM is discarded and counted (R111); a response ends its request's count
in its extent. The rest goes by the route of R113: to its output, to a cell, or to several, a swarm's or a broadcast's; a tile that a jig entry selects
crosses in its slot where the conditions of R100 hold and else counts a miss; the extent check answers a request that it denies (R109); and where there
is no route, no unit or no end-point or CLUSTER that runs it is counted, reported, noticed or answered (R24, R111, R113). The tail after a head
completes the packet (R110, R112).
Each of these answers a next state where its clause says so: PACKET_INGRESS. -/
def Obligations.SwitchPath : Prop :=
  ∀ (s : State) (inp : Fin 232) (hi : Bool) (p : Packet) (complete miss : Bool),
    let half := 2 * inp.val + b2n hi
    let go := fun t => exec (.packetIngress inp hi p complete miss) s = .next t
    let t := takeOffer s inp p
    let q : Packet := if complete then p else { h := p.h }
    let n := q.flits
    let ends := fun (u : State) => go (if complete then u else
      setRx u half { flits := [hdrBits p.h], fwd := if arriving u s.sw.nextId then some s.sw.nextId else none })
    let bad := ingressFault t q complete
    let u := if (p.h.k.map Kind.isResponse).getD false then inflightDown t p.h else t
    let w := stamped t q
    let r := route u inp w.h
    let v := noteRoute u w.h r
    let c := p.h.tc.toNat
    let sel := (jigMatch v inp w.h).2
    let a := capture v inp r.shown w.h (r.queue inp c)
    let m := jigMisses a sel
    let x := hdrBits w.h
    let opens := (rxOf s half).flits = [] ∧ entryShut s inp half p = false ∧ (complete = true ∨ 1 < expectedFlits p.h)
    let routed := opens ∧ bad = none ∧ swarmTileStopped u p.h = false
    ((rxOf s half).flits = [] → entryShut s inp half p = true → go s) ∧
    ((rxOf s half).flits = [] → entryShut s inp half p = false → complete = false → expectedFlits p.h ≤ 1 → ends (discardBad t inp half 2 w 1 true)) ∧
    (∀ cause count, opens → bad = some (cause, count) → ends (discardBad (jigMisses t (jigMatch t inp p.h).2) inp half cause w n count)) ∧
    (opens → bad = none → swarmTileStopped u p.h = true → ends (countDiscarded (oweCredit u inp half c n) (p.h.x 0 8))) ∧
    (routed → r = .noRoute → ends (notifyUnreachable (packetError (countNoRoute (oweCredit m inp half c n)) inp 5 x) w.h 0x1FF)) ∧
    (routed → r = .notRunning → ends (notifyUnreachable (oweCredit m inp half c n) w.h 0x1FF)) ∧
    (routed → r = .noUnit → ends (countNoRoute (oweCredit m inp half c n))) ∧
    (∀ k, routed → r = .clusterDown k → ends (clusterNotRunning (oweCredit m inp half c n) k w.h)) ∧
    (∀ l, routed → r = .cell l → ends (checkAndQueue m inp half w n [outOf (cellPort l)] false miss false)) ∧
    (∀ l, routed → r = .multicast l → ends (checkAndQueue m inp half w n l true miss false)) ∧
    (∀ o, routed → r = .unicast o →
      ((jigMatch v inp w.h).1 = none → ends (checkAndQueue m inp half w n [o] false miss (!sel.isEmpty))) ∧
      (∀ j, (jigMatch v inp w.h).1 = some j →
        let b := jigMisses a (jigOthers a inp w.h j sel)
        (w.h.k.bind permBit = none → ends (jigAdmit b j inp half w n)) ∧
        (w.h.k.bind permBit ≠ none →
          (miss = true → ends (checkAndQueue m inp half w n [o] false true true)) ∧
          (miss = false →
            (∀ i, extCheck a w.h = .grant i → ends (jigAdmit (inflightUp b i) j inp half w n)) ∧
            (extCheck a w.h = .none → ends (jigAdmit b j inp half w n)) ∧
            (∀ cc d, extCheck a w.h = .deny cc d → ends (denyAtIngress (oweCredit m inp half c n) inp w.h cc d)))))) ∧
    (∀ f got, (rxOf s half).flits = f :: got →
      (complete = true → f = hdrBits p.h →
        go (rxTail (((List.range (p.flits - 1)).drop got.length).foldl (fun s i => rxMore s half (flitOf p (i + 1))) s) half p.stomp)) ∧
      (complete = false ∨ f ≠ hdrBits p.h → go s))

/-- What waits in the switch (R108, R112, R117, R122, R124, R125, R352): the head of an ingress headroom is admitted once it has a place; the first
spilled packet of a queue is refilled once it is whole, within the mark of its queue and the free pool, and is discarded where it reads uncorrectable;
a registry answer frees or denies an unchecked packet, and one that cannot be read answers POISON and is reported; each matching moves chunks, and a
packet whose read from the buffer is uncorrectable is reported and stomped first; and one queued notice is sent. Each changes nothing where nothing
waits for it.
Each of these answers a next state where its clause says so: INGRESS_HOLD_RELEASE, SPILL_REFILL, EXTENT_LOOKUP_RETURN, SCHEDULER_MATCHING,
FLUSH_NOTICE_SEND. -/
def Obligations.SwitchQueues : Prop :=
  (∀ (s : State) (inp : Fin 232) (hi : Bool) (tc : BitVec 3),
    let half := 2 * inp.val + b2n hi
    let go := fun t => exec (.ingressHoldRelease inp hi tc) s = .next t
    (firstHeld s inp half tc.toNat = none → go s) ∧
    (∀ q, firstHeld s inp half tc.toNat = some q →
      (placement s q q.jig = .held → go s) ∧ (placement s q q.jig ≠ .held → go (enqueue (dropPkt s q.id) q (placement s q q.jig))))) ∧
  (∀ (s : State) (inp : Fin 232) (out : Fin 360) (tc : BitVec 3) (multicast bad : Bool),
    let k := voqKey inp.val (if multicast then 1023 else out.val) tc.toNat
    let go := fun t => exec (.spillRefill inp out tc multicast bad) s = .next t
    let first := s.sw.pkts.find? (fun x => x.key == k && x.place == .spill)
    let may := fun (q : QPkt) => q.total ≤ q.arrived ∧ onchipOf s k < rd s Reg.SWITCH.SPILL_CFG.REFILL_KIB * 1024 ∧ q.bytes ≤ poolFree s
    (first = none → go s) ∧
    (∀ q, first = some q →
      (may q → bad = true → go (discardPkt s q)) ∧
      (may q → bad = false → go (bufStatus (chainTake
        { s with sw := { s.sw with pkts := s.sw.pkts.map (fun x => if x.id = q.id then { x with place := .onchip } else x) } } k q.bytes))) ∧
      (¬ may q → go s))) ∧
  (∀ (s : State) (id : Nat) (lost : Bool),
    let go := fun t => exec (.extentLookupReturn id lost) s = .next t
    let waits := s.sw.pkts.find? (fun x => x.id == id && x.unchecked)
    let checked := fun (t : State) => { t with sw := { t.sw with pkts := t.sw.pkts.map (fun x => if x.id = id then { x with unchecked := false } else x) } }
    (waits = none → go s) ∧
    (∀ q, waits = some q →
      let rec_ := fun (i : Nat) => report (takeFree s) fExt 0x0D 2 4 i (packBits [(0, 12, q.p.h.ep), (12, 12, q.p.h.tenant.toNat), (24, 8, q.p.h.xgen.toNat)])
      let poison := fun (i : Nat) => denyAtIngress (discardPkt (rec_ i) q) q.inp q.p.h ccPoison 0
      (lost = true → (∀ i, extCheck s q.p.h = .grant i → go (poison i)) ∧ ((∀ i, extCheck s q.p.h ≠ .grant i) → go (poison (peekFree s)))) ∧
      (lost = false →
        (∀ i, extCheck s q.p.h = .grant i → go (checked (inflightUp s i))) ∧ (extCheck s q.p.h = .none → go (checked s)) ∧
        (∀ cc d, extCheck s q.p.h = .deny cc d → go (denyAtIngress (discardPkt s q) q.inp q.p.h cc d))))) ∧
  (∀ (s : State) (id : Nat) (a : BitVec 32),
    let here := ∃ q ∈ s.sw.pkts, q.id = id ∧ q.place ≠ .spill
    exec (.schedulerMatching none) s = .next (matching s) ∧
    (here → exec (.schedulerMatching (some (id, a))) s = .next (matching (stompPkt (report s 465 0x07 1 2 0xFF a.toNat) id))) ∧
    (¬ here → exec (.schedulerMatching (some (id, a))) s = .next (matching s)) ∧
    (s.sw.notices = [] → exec .flushNoticeSend s = .next s) ∧
    (∀ h port sp rest, s.sw.notices = (h, port, sp) :: rest →
      exec .flushNoticeSend s = .next (flushStatus (inject { s with sw := { s.sw with notices := rest } } 228 (unreachable s h port)))))

/-- A ROUTE entry takes the value written, and with ANNOUNCE a TAKEOVER notice of its ID is broadcast and a STEP record written (R115, R127), but entry
0xFFF is no route; a BUNDLE entry takes its four words when word 3 is written (R115); both are followed by the reachability test of R215. At port down
(R125) the egress FIFO of the half is emptied, every packet bound only for it is flushed with a notice queued for each request, packets still arriving
from it are ended, its credit is cleared, FLUSH_STATUS names the port, the managers are told, and the same test follows; a half without port-down work
is left as it is.
Each of these answers a next state where its clause says so: ROUTE_WRITE, BUNDLE_WRITE, PORT_DOWN. -/
def Obligations.RoutesBundlesAndPortDown : Prop :=
  (∀ (s : State) (w : Writer) (d : BitVec 12) (bundle b : BitVec 8) (valid : Bool) (v : BitVec 64),
      let r := wr (wrb s (Reg.SWITCH.ROUTE.VALID d.toNat) valid) (Reg.SWITCH.ROUTE.BUNDLE d.toNat) bundle.toNat
      let word := fun (t : State) (i : Nat) => wr t (Reg.SWITCH.BUNDLE.MEMBERS b.toNat i) ((findKey s.sw.bundleHold (4 * b.toNat + i)).getD 0)
      (d ≠ 0xFFF →
        exec (.routeWrite w d bundle valid false) s = .next (memberTest r none) ∧
        exec (.routeWrite w d bundle valid true) s = .next (memberTest
          (report (inject r 228 (noticeTo r 0xFFF 4 d.toNat 0x1FF 0 0 0)) 467 0x0B 2 0 d.toNat bundle.toNat) (some d.toNat))) ∧
      (∀ a, exec (.routeWrite w 0xFFF bundle valid a) s = .next (regError s w (0x208000 + 0xFFF * 8) 8 true 7)) ∧
      exec (.bundleWrite b v) s = .next (memberTest (wr (word (word (word s 0) 1) 2) (Reg.SWITCH.BUNDLE.MEMBERS b.toNat 3) v.toNat) none)) ∧
  (∀ (s : State) (h : BitVec 8),
      let n := h.toNat
      let a := flushOutputs (setEgress { s with sw := { s.sw with down := s.sw.down.filter (fun x => x != n) } } n []) [n] n n
      let t := flushStatus (portDownNotices (wr (clearCredit (cutArrivals a n) n) Reg.SWITCH.FLUSH_STATUS.PORT (n / 2)) n)
      (n ∉ s.sw.down → exec (.portDown h) s = .next s) ∧
      (n ∈ s.sw.down → exec (.portDown h) s = .next (memberTest t none) ∧ egressOf a n = [] ∧ (∀ c, c < 8 → creditOf (clearCredit (cutArrivals a n) n) n c = 0)))

/-! ### Links and lanes (03, 13) -/

/-- Link frames (R85 to R88, R121, R344, R399): what goes out on a half by its state, and what becomes of an arriving frame: one that the
receiver cannot open, or whose codes make no sense, is discarded and counted; an accepted one returns credit and delivers its slots in UP, gives its
offer where it is under the bootstrap key, and else only shows that the key works; AUTH_LIMIT discarded frames in a row take a link that is UP down with
cause 7, and it takes no further frame before that. Markers go out before the first frame of every eighth control period (R326). A half that does not
exist, a lane held by its die link, a paused side and a link in another state send and take nothing.
Each of these answers a next state where its clause says so: LINK_FRAME_SEND, LINK_FRAME_RECEIVE, KEYING_OFFER, LINK_AUTH_LIMIT. -/
def Obligations.LinkFrames : Prop :=
  ∀ (s : State) (h : BitVec 8) (f : Frame) (miss : Bool),
    let n := h.toNat
    let x := linkRun s n
    let limit := rd s (Reg.PORT.LINK_CFG.AUTH_LIMIT (n / 2))
    let here := halfIs s n = true ∧ dieShut s (n / 32) = false
    let taken := linkState s n = 2 ∨ (linkState s n = 3 ∧ x.bad < limit)
    let u := stripeFrame s n
    let sense := codesOk f.codes.toNat 8 0 (!(rxOf s n).flits.isEmpty) || ((rxOf s n).skip && codesOk f.codes.toNat 8 0 true)
    (here → linkState s n = 2 → x.prk = none → exec (.linkFrameSend h) s = .next (sendOffer u n)) ∧
    (here → linkState s n = 2 → x.prk ≠ none → exec (.linkFrameSend h) s = .next (sealFrame u n [] [] 0)) ∧
    (here → linkState s n = 3 → x.paused = false → exec (.linkFrameSend h) s = .next (sendFrame u n)) ∧
    (¬ here ∨ (linkState s n ≠ 2 ∧ linkState s n ≠ 3) ∨ (linkState s n = 3 ∧ x.paused = true) → exec (.linkFrameSend h) s = .next s) ∧
    (∀ e ∈ [(Instr.linkFrameReceive h f miss, miss, true), (.keyingOffer h f, false, decide (linkState s n = 2 ∧ f.keySeq = 0xFF))], e.2.2 = true →
      (here → taken →
        (openFrame s n f = none → exec e.1 s = .next (discardFrame s n false)) ∧
        (∀ text key c, openFrame s n f = some (text, key, c) →
          let u := rxAccepted s n c key
          (sense = false → exec e.1 s = .next (discardFrame s n true)) ∧
          (sense = true → key = none → exec e.1 s = .next (offerIn u n text)) ∧
          (sense = true → key ≠ none → linkState s n = 3 → exec e.1 s = .next (rxSlots (takeCredit u n f.credit.toNat) n f.codes.toNat text e.2.1)) ∧
          (sense = true → key ≠ none → linkState s n = 2 → exec e.1 s = .next u))) ∧
      (¬ here ∨ ¬ taken → exec e.1 s = .next s)) ∧
    (linkState s n ≠ 2 ∨ f.keySeq ≠ 0xFF → exec (.keyingOffer h f) s = .next s) ∧
    (linkState s n = 3 → limit ≤ x.bad → exec (.linkAuthLimit h) s = .next (linkDown s n 7 2)) ∧
    (linkState s n ≠ 3 ∨ x.bad < limit → exec (.linkAuthLimit h) s = .next s)

/-- Keying and rekeys (R332, R343): a link whose keys are in use and tried comes UP within 200 ms, with no port-down work due, and goes down with
cause 6 when they have passed; a key due for its successor gets it while the security core runs, the sender switches to it with KEY_SEQ + 1 and fresh
counts, and a key past its life takes the link down with cause 9. A link that goes down is DOWN. Each changes nothing where its condition does not
hold.
Each of these answers a next state where its clause says so: LINK_KEYED, LINK_KEYING_TIMEOUT, REKEY_DUE, NEXT_KEY_INSTALLED, KEY_EXPIRED. -/
def Obligations.LinkKeys : Prop :=
  ∀ (s : State) (h : BitVec 8),
    let n := h.toNat
    let p := n / 2
    let i := n % 2
    let x := linkRun s n
    let keyed := linkState s n = 2 ∧ x.prk ≠ none ∧ x.seen = true ∧ s.now < x.since + ms 200 ∧ n ∉ s.sw.down
    let up := linkState s n = 3 ∧ procAway s 0 = false
    let tx := keyDue x.txFrames (s.now - x.txAt) = true
    let rx := keyDue x.rxFrames (s.now - x.rxAt) = true
    let past := keyOver x.txFrames (s.now - x.txAt) = true ∨ keyOver x.rxFrames (s.now - x.rxAt) = true
    let next := linkState s n = 3 ∧ rdb s (Reg.PORT.KEY_STATUS.NEXT_READY p i) = true
    (keyed → exec (.linkKeyed h) s = .next (linkIsUp s n)) ∧ (¬ keyed → exec (.linkKeyed h) s = .next s) ∧
    (linkState s n = 2 → x.since + ms 200 ≤ s.now → exec (.linkKeyingTimeout h) s = .next (linkDown s n 6 2)) ∧
    (linkState s n ≠ 2 ∨ s.now < x.since + ms 200 → exec (.linkKeyingTimeout h) s = .next s) ∧
    (up → rx → exec (.rekeyDue h true) s = .next (setLink s n { x with rxReady := true })) ∧
    (up → tx → exec (.rekeyDue h false) s = .next (wr s (Reg.PORT.KEY_STATUS.NEXT_READY p i) 1)) ∧
    (¬ up ∨ ¬ rx → exec (.rekeyDue h true) s = .next s) ∧ (¬ up ∨ ¬ tx → exec (.rekeyDue h false) s = .next s) ∧
    (next → exec (.nextKeyInstalled h) s = .next (wrs (setLink (trace s 0 6 0x0702 p (x.txR + 1)) n { x with txR := x.txR + 1, txAt := s.now, txFrames := 0 })
      [(Reg.PORT.LINK_STATUS.KEY_SEQ p i, x.txR + 1), (Reg.PORT.KEY_STATUS.TX_FRAMES_KEY p i, 0), (Reg.PORT.KEY_STATUS.KEY_AGE_S p i, 0),
        (Reg.PORT.KEY_STATUS.NEXT_READY p i, 0)])) ∧
    (¬ next → exec (.nextKeyInstalled h) s = .next s) ∧
    (linkState s n = 3 → past → exec (.keyExpired h) s = .next (linkDown s n 9 2)) ∧
    (linkState s n ≠ 3 ∨ ¬ past → exec (.keyExpired h) s = .next s) ∧
    (linkState s n ≠ 0 → ∀ c o, linkState (linkDown s n c o) n = 0)

/-- Training (R327, R329, R330, R332, R337, R399): an attempt that may be made enters TEST where LOOPBACK or PATTERN is set, and else TRAINING on the
pairs with signal, where they are enough and an optical module is ready; 1 s after the link went DOWN it tries on the pairs that show signal then. A marker
gives its lane's skew and sender, and at training a skew above 180 ns retires the lane; agreement on a width within 100 ms enters KEYING on the active
set, with the counters at 0 and a fresh nonce; a wiring fault ends it with cause 5, and the end of the 100 ms with cause 4; losing every active lane at
once trips their detectors and takes an UP link down with cause 2. Else nothing changes.
Each of these answers a next state where its clause says so: LINK_TRAINING_START, LINK_RETRY_TIMER, ALIGNMENT_MARKER, LINK_TRAINED,
LINK_TRAINING_TIMEOUT, LINK_SIGNAL_LOSS. -/
def Obligations.LinkTraining : Prop :=
  ∀ (s : State) (h mask good los : BitVec 8) (p : Fin 128) (l : Fin 8) (idx : BitVec 3) (port : BitVec 7) (sender : BitVec 12) (skew : BitVec 10),
    let n := h.toNat
    let q := n / 2
    let x := linkRun s n
    let ok := ((marked s n).map (fun e => e.1)).filter (fun l => bitAt good.toNat l && decide (rd s (Reg.PORT.LANE_STATUS.SKEW_NS q l) ≤ 180))
    let set := activeSet s n ok
    let agreed := linkState s n = 1 ∧ s.now < x.since + ms 100 ∧ miswired s n = false ∧ set ≠ []
    let read := laneState s p l = 1 ∨ laneState s p l = 2 ∨ laneState s p l = 3 ∨ laneState s p l = 4
    let act := lanesOf (activeMask s n)
    (∀ e ∈ [(Instr.linkTrainingStart h mask, true), (.linkRetryTimer h mask, decide (x.since + secs 1 ≤ s.now))],
      let sig := (keptLanes s n).filter (fun l => bitAt mask.toNat l)
      let enough := minWidth s q ≤ sig.length ∧ (rdb s (Reg.PORT.PORT_CFG.MEDIA q) = false ∨ x.cmis = 3)
      (e.2 = true → mayTrain s n = true → testMode s q = true → exec e.1 s = .next (enterTest s n)) ∧
      (e.2 = true → mayTrain s n = true → testMode s q = false → enough → exec e.1 s = .next (enterTraining s n sig)) ∧
      (e.2 = false ∨ mayTrain s n = false ∨ (testMode s q = false ∧ ¬ enough) → exec e.1 s = .next s)) ∧
    (read →
      let u := setLane (wr s (Reg.PORT.LANE_STATUS.SKEW_NS p l) skew.toNat) (8 * p.val + l.val)
        { laneRun s (8 * p.val + l.val) with marker := some (idx.toNat, port.toNat, sender.toNat) }
      exec (.alignmentMarker p l idx port sender skew) s = .next (if laneState s p l = 1 ∧ 180 < skew.toNat then retireLane u p l 5 else u)) ∧
    (¬ read → exec (.alignmentMarker p l idx port sender skew) s = .next s) ∧
    (agreed →
      let a := (halfLanes s n).foldl (fun s l => if laneState s q l = 1 then setLaneState s q l (if ok.contains l then 3 else 0) else s) s
      let b := applySet (ok.foldl (fun s l => wrs s [(Reg.PORT.LANE_STATUS.LOS q l, 0), (Reg.PORT.LANE_STATUS.LOL q l, 0)]) a) n set
      let c := setLink b n { since := b.now, reqNo := (linkRun b n).reqNo, cmis := (linkRun b n).cmis, nonce := leBytes 32 (peekFree b) }
      exec (.linkTrained h good) s = .next (wrs (takeFree c) [(Reg.PORT.LINK_STATUS.STATE q (n % 2), 2), (Reg.PORT.LINK_STATUS.KEY_SEQ q (n % 2), 0)])) ∧
    (¬ agreed → exec (.linkTrained h good) s = .next s) ∧
    (linkState s n = 1 → miswired s n = true → exec (.linkTrainingTimeout h) s = .next (linkDown s n 5 2)) ∧
    (linkState s n = 1 → miswired s n = false → x.since + ms 100 ≤ s.now → exec (.linkTrainingTimeout h) s = .next (linkDown s n 4 2)) ∧
    (linkState s n ≠ 1 ∨ (miswired s n = false ∧ s.now < x.since + ms 100) → exec (.linkTrainingTimeout h) s = .next s) ∧
    (linkState s n = 3 → exec (.linkSignalLoss h los) s = .next (linkDown
      (lanesTrip s q (act.filter (fun l => bitAt los.toNat l)) (act.filter (fun l => !bitAt los.toNat l))) n 2 2)) ∧
    (linkState s n ≠ 3 → exec (.linkSignalLoss h los) s = .next s)

/-- Lane faults (R335, R336, R338): loss of signal or lock is counted and shown; with UCW_RETRAIN codeword errors in 1 ms it makes an ACTIVE or IDLE
lane retrain, an ACTIVE one after the width change that takes it out of the stripe, at once where no width can do without it (the model's choice, log
entry 65); symbol errors in three windows in a row, a retrain not done in 10 ms, too many retrains and RETIRE retire the lane with their causes; in TEST
with a PATTERN the wrong bits are counted (R339); a lane that locks again is IDLE; and REINSTATE brings a RETIRED lane back, into retraining,
into TEST, or DOWN with its link. RETIRE and REINSTATE in another state are register access errors, and the rest changes nothing there.
Each of these answers a next state where its clause says so: LANE_LOS, LANE_LOL, LANE_UCW, LANE_SER_WINDOW, LANE_RETRAIN_DONE, LANE_RETRAIN_FAIL,
LANE_RETRAIN_LIMIT, LANE_RETIRE, LANE_REINSTATE. -/
def Obligations.LaneFaults : Prop :=
  ∀ (s : State) (w : Writer) (p : Fin 128) (l : Fin 8) (corrected received wrong : BitVec 48),
    let k := 8 * p.val + l.val
    let x := laneRun s k
    let ucws := s.now :: x.ucws.filter (fun t => decide (s.now < t + ms 1))
    let u := setLane (cnt s (Reg.PORT.LANE_COUNT.UNCORRECTABLE p l)) k { x with ucws := ucws }
    let above := decide (rd s (Reg.PORT.THRESH.SER_RETIRE p) * received.toNat < corrected.toNat * 1000000)
    let m := if above then x.ser + 1 else 0
    let e := if laneState s p l = 6 ∧ rd s (Reg.PORT.PORT_CFG.PATTERN p) ≠ 0 then cnt s (Reg.PORT.LANE_PRBS.ERRORS p l) wrong.toNat else s
    let v := setLane (cnt e (Reg.PORT.LANE_COUNT.CORRECTED_SYMBOLS p l) corrected.toNat) k { x with ser := m }
    let again := (retrainsIn s p l).length
    let c := wr s (Reg.PORT.LANE_STATUS.RETRAINS p l) (min 255 again)
    let in4 := laneState s p l = 4 ∧ ∀ t, x.retrainAt = some t → s.now < t + ms 10
    let late := laneState s p l = 4 ∧ ∃ t, x.retrainAt = some t ∧ t + ms 10 ≤ s.now
    let works := laneState s p l = 2 ∨ laneState s p l = 3
    let down := linkState s (laneHalf s p l) = 0
    (∀ e ∈ [(Instr.laneLos p l, wr (cnt s (Reg.PORT.LANE_COUNT.LOS_EVENTS p l)) (Reg.PORT.LANE_STATUS.LOS p l) 1, 1),
        (.laneLol p l, wr (cnt s (Reg.PORT.LANE_COUNT.LOL_EVENTS p l)) (Reg.PORT.LANE_STATUS.LOL p l) 1, 2)],
      exec e.1 s = .next (laneFault e.2.1 p l e.2.2)) ∧
    exec (.laneLos p l false) s = .next (wr s (Reg.PORT.LANE_STATUS.LOS p l) 0) ∧ exec (.laneLol p l false) s = .next (wr s (Reg.PORT.LANE_STATUS.LOL p l) 0) ∧
    (rd s (Reg.PORT.LINK_CFG.UCW_RETRAIN p) ≤ ucws.length → exec (.laneUcw p l) s = .next (laneFault u p l 3)) ∧
    (ucws.length < rd s (Reg.PORT.LINK_CFG.UCW_RETRAIN p) → exec (.laneUcw p l) s = .next u) ∧
    (∀ (t : State) (cause : Nat),
      let h := laneHalf t p l
      let y := wr (setLane t k { laneRun t k with leaving := true, ucws := [], ser := 0 }) (Reg.PORT.LANE_STATUS.LAST_FAULT p l) cause
      let r := y.now :: retrainsIn y p l
      let z := wrs (setLane y k { laneRun y k with retrainAt := some y.now, retrains := r, leaving := false })
        [(Reg.PORT.LANE_STATUS.STATE p l, 4), (Reg.PORT.LANE_STATUS.RETRAINS p l, min 255 r.length)]
      let works := (laneState t p l = 2 ∨ laneState t p l = 3) ∧ (laneRun t k).leaving = false
      (works → laneState t p l = 2 → activeSet y h (goodLanes y h) ≠ [] → laneFault t p l cause = wantWidth y h) ∧
      (works → laneState t p l = 3 ∨ activeSet y h (goodLanes y h) = [] →
        laneFault t p l cause = wantWidth (laneRecord z p l (rd z (Reg.PORT.LANE_STATUS.LAST_FAULT p l)) 2) h) ∧
      (¬ works → laneFault t p l cause = t)) ∧
    (3 ≤ m → laneRetired v p l = false → exec (.laneSerWindow p l corrected received wrong) s = .next (retireLane v p l 4)) ∧
    (m < 3 ∨ laneRetired v p l = true → exec (.laneSerWindow p l corrected received wrong) s = .next v) ∧
    (in4 → exec (.laneRetrainDone p l) s = .next (wantWidth (wrs (setLane s k { x with retrainAt := none })
      [(Reg.PORT.LANE_STATUS.STATE p l, 3), (Reg.PORT.LANE_STATUS.LOS p l, 0), (Reg.PORT.LANE_STATUS.LOL p l, 0)]) (laneHalf s p l))) ∧
    (¬ in4 → exec (.laneRetrainDone p l) s = .next s) ∧
    (late → exec (.laneRetrainFail p l) s = .next (retireLane s p l 6)) ∧ (¬ late → exec (.laneRetrainFail p l) s = .next s) ∧
    (rd s (Reg.PORT.THRESH.RETRAIN_LIMIT p) < again → laneRetired c p l = false →
      exec (.laneRetrainLimit p l) s = .next (retireLane c p l (rd s (Reg.PORT.LANE_STATUS.LAST_FAULT p l)))) ∧
    (again ≤ rd s (Reg.PORT.THRESH.RETRAIN_LIMIT p) ∨ laneRetired c p l = true → exec (.laneRetrainLimit p l) s = .next c) ∧
    (works → exec (.laneRetire w p l) s = .next (retireLane s p l 7)) ∧
    (¬ works → exec (.laneRetire w p l) s = .next (regError s w (laneAddr p l) 8 true 7)) ∧
    (laneRetired s p l = true →
      let y := setLane s k { x with retired := false, retrains := [], retrainAt := if down then none else some s.now }
      let at_ := if down then 0 else if linkState s (laneHalf s p l) = 4 then 6 else 4
      exec (.laneReinstate w p l) s = .next (wr (setLaneState y p l at_) (Reg.PORT.LANE_STATUS.RETRAINS p l) 0)) ∧
    (laneRetired s p l = false → exec (.laneReinstate w p l) s = .next (regError s w (laneAddr p l) 8 true 7))

/-- Width changes (R328, R333, R334): a request whose kerf lies ahead is accepted and answered, but not against an own request of the higher SENDER_ID
or an own change agreed on or under way (log entry 65); an accepting answer to the request in time fixes the change, one not answered in time is
repeated, or dropped where no other width is wanted any more, and the third failure takes the link down with cause 8; from
the target kerf the side sends nothing, and then the stripe restarts with a marker on the agreed set, lanes that it took out for a fault retrain, while R102 keeps the old width until the next tick. An empty
control block has no effect, nor has one with a wrong type or CRC or on a link that is not UP.
Each of these answers a next state where its clause says so: LCB_EMPTY, LCB_WIDTH_REQ, LCB_WIDTH_ACK, WIDTH_REQ_TIMEOUT, WIDTH_CHANGE,
WIDTH_CHANGE_RESUME. -/
def Obligations.WidthChanges : Prop :=
  ∀ (s : State) (h : BitVec 8) (lcb : BitVec 256),
    let n := h.toNat
    let x := linkRun s n
    let no := bits lcb.toNat 40 8
    let target := bits lcb.toNat 96 64
    let up := linkState s n = 3
    let takes := s.time.toNat < kerfStart target ∧ (x.req = none ∨ peerSender s n < serviceId s) ∧ x.paused = false ∧ (x.agreed = none ∨ x.asked = false)
    exec (.lcbEmpty h lcb) s = .next s ∧
    (up → lcbIs lcb 2 = true → takes → exec (.lcbWidthReq h lcb) s = .next (sendLcb
      (setLink s n { x with req := none, agreed := some (maskOf (lanesFrom s n (bits lcb.toNat 32 8)), target), asked := false }) n 3 0 (256 * no + 65536) 0 0)) ∧
    (up → lcbIs lcb 2 = true → ¬ takes → exec (.lcbWidthReq h lcb) s = .next (sendLcb s n 3 0 (256 * no) 0 0)) ∧
    (¬ up ∨ lcbIs lcb 2 = false → exec (.lcbWidthReq h lcb) s = .next s) ∧
    (x.req = none → exec (.lcbWidthAck h lcb) s = .next s ∧ exec (.widthReqTimeout h) s = .next s) ∧
    (∀ q, x.req = some q →
      let set := activeSet s n (goodLanes s n)
      let yes := up ∧ lcbIs lcb 3 = true ∧ no = q.no ∧ bits lcb.toNat 48 1 = 1 ∧ s.time.toNat + 4096 ≤ kerfStart q.target
      let late := up ∧ kerfStart q.target ≤ s.time.toNat + 4096
      (yes → exec (.lcbWidthAck h lcb) s = .next (setLink s n { x with req := none, agreed := some (q.mask, q.target), asked := true })) ∧
      (¬ yes → exec (.lcbWidthAck h lcb) s = .next s) ∧
      (late → 3 ≤ q.tries → exec (.widthReqTimeout h) s = .next (linkDown s n 8 2)) ∧
      (late → q.tries < 3 → set ≠ [] → maskOf set ≠ activeMask s n → exec (.widthReqTimeout h) s = .next (sendWidthReq s n (maskOf set) (q.tries + 1))) ∧
      (late → q.tries < 3 → set = [] ∨ maskOf set = activeMask s n → exec (.widthReqTimeout h) s = .next (setLink s n { x with req := none })) ∧
      (¬ late → exec (.widthReqTimeout h) s = .next s)) ∧
    (x.agreed = none → exec (.widthChange h) s = .next s ∧ exec (.widthChangeResume h) s = .next s) ∧
    (∀ a, x.agreed = some a →
      let due := up ∧ x.paused = false ∧ kerfStart a.2 ≤ s.time.toNat
      let v := sendMarkers (setLink (applySet s n (lanesOf a.1)) n { x with paused := false, agreed := none }) n (lanesOf a.1)
      let u := ((halfLanes v n).filter (fun l => (laneRun v (8 * (n / 2) + l)).leaving && laneState v (n / 2) l == 3)).foldl
        (fun s l => laneRetrain s (n / 2) l) v
      (due → exec (.widthChange h) s = .next (setLink s n { x with paused := true })) ∧ (¬ due → exec (.widthChange h) s = .next s) ∧
      (x.paused = true → exec (.widthChangeResume h) s = .next (wantWidth
        { u with link := { u.link with jigWidth := setKey u.link.jigWidth (n / 2) (tickNo u + 1, jigWidth s (n / 2)) } } n)) ∧
      (x.paused = false → exec (.widthChangeResume h) s = .next s))

/-- Eye scans and optical modules (R340, R341): START runs a scan, and sets OVERRUN while one runs; at its end, with signal on lane 0, ERRORS and
DWELL_USED are set, START is cleared and DONE set. An optical link's steps follow one another before an attempt, each within 2 s, with their writes to the module,
and a step not done in time, a module before CMIS 4.0 or without the wanted application bars the next attempt for 1 s with cause 10; a poll, every 100 ms while a link of the port runs, shows what the module answered and acts on its
fault and its lane flags, and the third failure in a row counts as loss of its signal. All of it needs the management core. Else nothing changes.
Each of these answers a next state where its clause says so: EYE_SCAN_START, EYE_SCAN_DONE, CMIS_MODULE_INIT, CMIS_MODULE_READY,
CMIS_DATAPATH_ACTIVATED, CMIS_STEP_TIMEOUT, CMIS_POLL. -/
def Obligations.EyeScansAndModules : Prop :=
  (∀ (s : State) (k : Fin 64) (errors : BitVec 32),
    let e := 2 * k.val
    let others := s.link.eyes.filter (fun x => x != e)
    let ready := rdb s (Reg.PORT.EYE_CTL.START e) = true ∧ rdb s (Reg.PORT.LANE_STATUS.LOS e 0) = false
    (rdb s (Reg.PORT.EYE_CTL.START e) = false → exec (.eyeScanStart k) s = .next
      { wrs s [(Reg.PORT.EYE_CTL.START e, 1), (Reg.PORT.EYE_CTL.DONE e, 0)] with link := { s.link with eyes := e :: others } }) ∧
    (rdb s (Reg.PORT.EYE_CTL.START e) = true → exec (.eyeScanStart k) s = .next (wr s (Reg.PORT.EYE_CTL.OVERRUN e) 1)) ∧
    (ready → exec (.eyeScanDone k errors) s = .next { wrs s [(Reg.PORT.EYE_RESULT.ERRORS e, errors.toNat),
      (Reg.PORT.EYE_RESULT.DWELL_USED e, rd s (Reg.PORT.EYE_CTL.DWELL_LOG2 e)), (Reg.PORT.EYE_CTL.START e, 0), (Reg.PORT.EYE_CTL.DONE e, 1)]
      with link := { s.link with eyes := others } }) ∧
    (¬ ready → exec (.eyeScanDone k errors) s = .next s)) ∧
  (∀ (s : State) (h : BitVec 8) (code : BitVec 3) (app : BitVec 4) (rev : BitVec 8),
    let n := h.toNat
    let x := linkRun s n
    let near := procAway s 1 = false
    let begins := near ∧ mayTrain s n = true ∧ rdb s (Reg.PORT.PORT_CFG.MEDIA (n / 2)) = true ∧ testMode s (n / 2) = false ∧ x.cmis = 0
    let begun := fun k => setLink s n { x with cmis := k, cmisAt := s.now }
    let fits := 0x40 ≤ rev.toNat ∧ app ≠ 0
    let intime := near ∧ s.now < x.cmisAt + secs 2
    let late := near ∧ (x.cmis = 1 ∨ x.cmis = 2) ∧ x.cmisAt + secs 2 ≤ s.now
    (begins → exec (.cmisModuleInit h) s = .next (cmisOut (begun 1) n 0 0)) ∧ (¬ begins → exec (.cmisModuleInit h) s = .next s) ∧
    (intime → x.cmis = 1 → ¬ fits → exec (.cmisModuleReady h code app rev) s = .next (cmisFails s n)) ∧
    (intime → x.cmis = 1 → fits → exec (.cmisModuleReady h code app rev) s = .next (wrs (cmisOut (cmisOut (begun 2) n 1 (if isSplit s (n / 2) then 4 else 8)) n 2 0)
      [(Reg.PORT.CMIS_STATUS.PRESENT (n / 2), 1), (Reg.PORT.CMIS_STATUS.MODULE_STATE (n / 2), code.toNat), (Reg.PORT.CMIS_STATUS.APP_SEL (n / 2), app.toNat)])) ∧
    (¬ intime ∨ x.cmis ≠ 1 → exec (.cmisModuleReady h code app rev) s = .next s) ∧
    (intime → x.cmis = 2 → exec (.cmisDatapathActivated h) s = .next (begun 3)) ∧
    (¬ intime ∨ x.cmis ≠ 2 → exec (.cmisDatapathActivated h) s = .next s) ∧
    (late → exec (.cmisStepTimeout h) s = .next (report
      (wr (setLink s n { x with cmis := 0, bar := some (s.now + secs 1) }) (Reg.PORT.LINK_STATUS.DOWN_CAUSE (n / 2) (n % 2)) 10)
      (n / 2) 0x03 10 2 (packBits [(0, 7, n / 2), (7, 1, n % 2)]) 0)) ∧
    (¬ late → exec (.cmisStepTimeout h) s = .next s)) ∧
  (∀ (s : State) (p : Fin 128) (code : BitVec 3) (ok fault al wa : Bool) (temp : BitVec 16) (los lol : BitVec 8),
    let due := procAway s 1 = false ∧ rdb s (Reg.PORT.PORT_CFG.MEDIA p) = true ∧ (∀ t, findKey s.link.polls p.val = some t → t + ms 100 ≤ s.now) ∧
      (1 ≤ linkState s (2 * p.val) ∨ 1 ≤ linkState s (2 * p.val + 1))
    let go := fun t => exec (.cmisPoll p ok code fault al wa temp los lol) s = .next t
    let u := { s with link := { s.link with polls := setKey s.link.polls p.val s.now } }
    let a := wrs { u with link := { u.link with fails := delKey u.link.fails p.val } }
      [(Reg.PORT.CMIS_STATUS.PRESENT p, 1), (Reg.PORT.CMIS_STATUS.MODULE_STATE p, code.toNat), (Reg.PORT.CMIS_STATUS.FAULT p, b2n fault),
        (Reg.PORT.CMIS_STATUS.ALARM p, b2n al), (Reg.PORT.CMIS_STATUS.WARNING p, b2n wa), (Reg.PORT.CMIS_STATUS.TEMP p, temp.toNat)]
    let m := (findKey s.link.fails p.val).getD 0 + 1
    let c := wr (cnt u (Reg.PORT.CMIS_STATUS.READ_FAILS p)) (Reg.PORT.CMIS_STATUS.PRESENT p) 0
    let v := { c with link := { c.link with fails := setKey c.link.fails p.val m } }
    (due → ok = true → fault = false → go (mediaFlags a p los.toNat lol.toNat)) ∧ (due → ok = true → fault = true → go (mediaLost a p)) ∧
    (due → ok = false → m < 3 → go v) ∧ (due → ok = false → 3 ≤ m → go (mediaLost v p)) ∧ (¬ due → go s))


/-! ### Requests at their targets (03, 04, 10) -/

/-- Requests at the home end-point (R51, R62 to R64, R76 to R78, R229, R289). One whose HCRC is wrong is discarded; one in class 1 waits while every
response that the target can hold is less than 1 ms old. A request with RLY = 1 whose home plane is another is refused, INDETERMINATE for an ATOMIC
and UNSUPPORTED for the others (with log entry 62). Under a LIVE extent entry of its tenant and generation, a read returns device HBM, a write changes
exactly the bytes that it addresses once its tile passes its checks, and an atomic leaves the new value and returns the old one; poisoned bytes are
answered POISON. Without such an entry the answer is REVOKED. SIG, a SIGNAL and a misaligned or reserved ATOMIC are UNSUPPORTED. A retried ATOMIC of
the service ID whose response is held gets that response.
Each of these answers a next state where its clause says so: READ, READ_BULK, READ_TILE, WRITE, WRITE_BULK, WRITE_TILE, ATOMIC, SIGNAL. -/
def Obligations.HomeRequests : Prop :=
  ∀ (s : State) (x : Fin 4) (p : Packet), 2 ≤ x.val →
    let y := 224 + x.val
    let t := takeIn s y p
    let h := p.h
    let a := homeAddr t h.off
    let n := atomBytes h
    let old := ofLeBytes (hbmRdN t a n)
    let reads := [(Instr.read x p, Kind.read), (.readBulk x p, .readBulk), (.readTile x p, .readTile)]
    let writes := [(Instr.write x p, Kind.write), (.writeBulk x p, .writeBulk), (.writeTile x p, .writeTile)]
    let waits := h.tc = 1 ∧ keptFull s y = true
    let far := h.rly = 1 ∧ homePlane h.addr.toNat (planesOf (rd t (Reg.EP.EP_PLANES.PLANE_LIST 0))) ≠ planeId t
    let got := fun (c : Instr × Kind) => h.k = some c.2 ∧ ¬ waits ∧ arrived s y p
    let gives := fun (c : Instr × Kind) (cc : Nat) => exec c.1 s = .next (answer t y h cc 0 0)
    (∀ c ∈ reads ++ writes ++ [(Instr.atomic x p, Kind.atomic), (.signal x p, .signal)],
      (h.k ≠ some c.2 ∨ waits → exec c.1 s = .next s) ∧ (h.k = some c.2 → ¬ waits → notArrived c.1 s y p) ∧
      (got c → far → gives c (if c.2 = .atomic then ccIndeterminate else ccUnsupported))) ∧
    (∀ c ∈ reads, got c → ¬ far →
      (xgenEntry t h = none → gives c ccRevoked) ∧
      (xgenEntry t h ≠ none → hbmPoisoned t a (readLen h) = true → gives c ccPoison) ∧
      (xgenEntry t h ≠ none → hbmPoisoned t a (readLen h) = false → exec c.1 s = .next (answerData t y h (hbmRdN t a (readLen h))))) ∧
    (∀ c ∈ writes, got c → ¬ far →
      (h.sig = true → gives c ccUnsupported) ∧
      (h.sig = false → xgenEntry t h = none → gives c ccRevoked) ∧
      (h.sig = false → xgenEntry t h ≠ none → c.2 ≠ .write → tileWriteCheck p ≠ ccOk → gives c (tileWriteCheck p))) ∧
    (got (.write x p, .write) → ¬ far → h.sig = false → xgenEntry t h ≠ none →
      exec (.write x p) s = .next (answer (hbmWr t a (padTo h.len.toNat p.payload)) y h ccOk 0 0)) ∧
    (got (.writeBulk x p, .writeBulk) → ¬ far → h.sig = false → xgenEntry t h ≠ none → tileWriteCheck p = ccOk →
      exec (.writeBulk x p) s = .next (answer (hbmWr t a ((tileData p.payload).take (tileValid p.payload))) y h ccOk 0 0)) ∧
    (got (.writeTile x p, .writeTile) → ¬ far → h.sig = false → xgenEntry t h ≠ none → tileWriteCheck p = ccOk →
      (hbmPoisoned t a 64 = true → gives (.writeTile x p, .writeTile) ccPoison) ∧
      (hbmPoisoned t a 64 = false →
        exec (.writeTile x p) s = .next (answer (hbmWr t a (sealTile (ofLeBytes (hbmRdN t (a + 4) 4)) p.payload)) y h ccOk 0 0))) ∧
    (got (.atomic x p, .atomic) → ¬ far →
      let ends := fun (u : State) (cc res : Nat) => exec (.atomic x p) s = .next (answerAtomic u y h cc 0 res)
      (atomicBad h = true → ends t ccUnsupported 0) ∧
      (∀ r, atomicBad h = false → keptFor t y h = some r → exec (.atomic x p) s = .next (offer t y r)) ∧
      (atomicBad h = false → keptFor t y h = none →
        (xgenEntry t h = none → ends t ccRevoked 0) ∧
        (xgenEntry t h ≠ none → hbmPoisoned t a n = true → ends t ccPoison 0) ∧
        (xgenEntry t h ≠ none → hbmPoisoned t a n = false →
          ends (hbmWr t a (leBytes n (atomicNew (h.x 32 4) (8 * n) old (h.x 64 64) (h.x 128 64)))) ccOk old))) ∧
    (got (.signal x p, .signal) → ¬ far → gives (.signal x p, .signal) ccUnsupported)

/-- Requests at an end-point (R51, R53, R64, R78, R229, R255 to R257, R273, R286, R318). One whose HCRC is wrong is discarded; one in class 1 waits
while the target can hold no further response; a stale one is discarded and counted. The rest go through their sender's sequence: the expected SEQ is
delivered, with every held request that then follows, a later one is held while the reorder buffer has room, any other is discarded and counted. A
delivered request waits behind one of its sequence that is not done, or for a translation; else it is served. Of an older epoch it is answered
STEP_ABORT; with RLY = 1 it is re-issued as RLY = 2 where its home plane is this one, else refused; without an export of a LIVE extent it is answered REVOKED;
and with one a read begins at its host address, a write that passes its checks goes there and is answered, a WRITE_TILE begins with the stored
generation, and an ATOMIC is one AtomicOp, or a read and CAS, where the function may send any. SIG writes and SIGNALs go to the counters.
Each of these answers a next state where its clause says so: READ, WRITE, READ_BULK, WRITE_BULK, READ_TILE, WRITE_TILE, ATOMIC, SIGNAL. -/
def Obligations.EndPointRequests : Prop :=
  ∀ (s : State) (x : Fin 4) (p : Packet), x.val < 2 →
    let e := x.val
    let y := 224 + e
    let t := takeIn s y p
    let h := p.h
    let k := seqKey e h.src.toNat h.tc.toNat
    let n := h.seq.toNat
    let waits := h.tc = 1 ∧ keptFull s y = true
    let all := [(Instr.read x p, Kind.read), (.write x p, .write), (.readBulk x p, .readBulk), (.writeBulk x p, .writeBulk), (.readTile x p, .readTile),
      (.writeTile x p, .writeTile), (.atomic x p, .atomic), (.signal x p, .signal)]
    (∀ c ∈ all,
      (h.k ≠ some c.2 ∨ waits → exec c.1 s = .next s) ∧
      (h.k = some c.2 → ¬ waits → notArrived c.1 s y p) ∧
      (h.k = some c.2 → ¬ waits → arrived s y p →
        (stale t e h = true → exec c.1 s = .next (cnt t (Reg.EP.EP_COUNT_B.STALE_DISCARDS e))) ∧
        (stale t e h = false →
          (seqRec t k = none → exec c.1 s = .next (epDeliver (setSeq t k { expect := (n + 1) % 65536, held := [], last := t.now }) e p)) ∧
          (∀ r, seqRec t k = some r →
            let d := (n + 65536 - r.expect) % 65536
            let room := (∀ q ∈ r.held, q.1.h.seq ≠ h.seq) ∧ reorderUsed t e + 64 + p.payload.length ≤ 4 * 2 ^ 20
            (d = 0 → exec c.1 s = .next (drainHeld (epDeliver (setSeq t k { r with expect := (n + 1) % 65536, last := t.now }) e p) e k r.held.length)) ∧
            (0 < d → d < 16384 → room → exec c.1 s = .next (setSeq t k { r with held := r.held ++ [(p, t.now)] })) ∧
            (0 < d → 16384 ≤ d ∨ ¬ room → exec c.1 s = .next (cnt t (Reg.EP.EP_COUNT_B.SEQ_DISCARDS e))))))) ∧
    (∀ u : State,
      let served := epDeliver u e p
      let gives := fun cc => served = answer u (epPort e) h cc 0 0
      let free := storePending u e h = false ∧ behindOf u e h = false
      let now := free ∧ needsXlate u e p = none
      let lst := planesOf (rd u (Reg.EP.EP_PLANES.PLANE_LIST e))
      let near := lst.contains (planeId u) = true ∧ homePlane h.addr.toNat lst = planeId u ∧ epUp u e = true
      let fresh := now ∧ h.rly ≠ 1 ∧ oldEpoch u h = false
      (¬ free → served = { u with ep := { u.ep with behind := u.ep.behind ++ [(e, p)] } }) ∧
      (∀ f a, free → needsXlate u e p = some (f, a) → served = hostOp u e f a (storeLen p) (.arrive p)) ∧
      (now → oldEpoch u h = false → h.rly = 1 → near →
        let q := seqKey e h.dest.toNat h.tc.toNat
        let sp := spaceOf u q
        let v := { u with ep := { u.ep with
          spaces := setKey u.ep.spaces q { sp with next := (sp.next + 1) % 65536, lastSent := u.now }
          relays := setKey (u.ep.relays.filter (fun r => decide (u.now < r.2.2.2 + ms 2))) (relayKey e h.src.toNat h.tag.toNat sp.next) (n, q, u.now) } }
        served = offer v (epPort e) (mkPacket v { h with rly := 2, via := BitVec.ofNat 12 (epId u e), seq := BitVec.ofNat 16 sp.next } p.payload)) ∧
      (now → oldEpoch u h = false → h.rly = 1 → ¬ near → gives (if indeterminate h then ccIndeterminate else ccUnsupported)) ∧
      (now → oldEpoch u h = true →
        (∀ c ∈ all, h.k = some c.2 → c.2 ≠ .atomic → gives ccStepAbort) ∧
        (h.k = some .atomic → keptFor u (epPort e) h = none → served = answerAtomic u (epPort e) h ccStepAbort 0 0) ∧
        (∀ r, h.k = some .atomic → keptFor u (epPort e) h = some r → served = offer u (epPort e) r)) ∧
      (fresh → h.k = some .read ∨ h.k = some .readBulk ∨ h.k = some .readTile →
        (exportFor u e h = none → gives ccRevoked) ∧
        (∀ c a, exportFor u e h = some (c, a) → served = hostOp u e (ctxFunc u c) a (readLen h) (.target h))) ∧
      (fresh → h.k = some .write ∨ h.k = some .writeBulk → h.sig = false →
        let cc := if h.k = some .write then ccOk else tileWriteCheck p
        (exportFor u e h = none → gives ccRevoked) ∧
        (∀ c a, exportFor u e h = some (c, a) →
          (cc ≠ ccOk → gives cc) ∧
          (cc = ccOk → served = answer (dmaWrite u e (ctxFunc u c) a (writeData p)) (epPort e) h ccOk 0 0))) ∧
      (fresh → h.k = some .writeTile → h.sig = false →
        (exportFor u e h = none → gives ccRevoked) ∧
        (∀ c a, exportFor u e h = some (c, a) →
          (tileWriteCheck p ≠ ccOk → gives (tileWriteCheck p)) ∧
          (tileWriteCheck p = ccOk → served = hostOp u e (ctxFunc u c) a 8 (.seal h p.payload)))) ∧
      (fresh → h.k = some .atomic →
        (atomicBad h = true → served = answerAtomic u (epPort e) h ccUnsupported 0 0) ∧
        (∀ r, atomicBad h = false → keptFor u (epPort e) h = some r → served = offer u (epPort e) r) ∧
        (atomicBad h = false → keptFor u (epPort e) h = none →
          (exportFor u e h = none → served = answerAtomic u (epPort e) h ccRevoked 0 0) ∧
          (∀ c a, exportFor u e h = some (c, a) →
            (e * 256 + ctxFunc u c ∉ u.host.atomicEn → served = answerAtomic u (epPort e) h ccUnsupported 0 0) ∧
            (e * 256 + ctxFunc u c ∈ u.host.atomicEn → served =
              hostOp u e (ctxFunc u c) a (atomBytes h) (if (atomicOpOf (h.x 32 4)).isSome then .atomicOp h else .casRead h 0))))) ∧
      (fresh → h.k = some .signal ∨ (h.k = some .write ∨ h.k = some .writeBulk ∨ h.k = some .writeTile) ∧ h.sig = true → served = sigArrive u e p))

/-- Completion counters (R261, R262, R264, R265, R289). A REQUEST is granted the lowest free entry below 1,023 while the entries left free exceed the
reserve and its sender holds fewer than 16, and is else refused; a repeat gets its answer again. A GRANT to the request that waits becomes a credit, a
REFUSE ends it, and a RETURN of a GRANTED entry by its holder moves it to HOLD; any other is discarded. The home end-point refuses every REQUEST and
discards the rest. The timers free an entry held for 2 ms, hold one granted and idle for 100 ms, and, once the destination is not barred, repeat a
request after ATTEMPT_US and return a credit unused for 50 ms; before those times they change nothing. A counted packet that may not use its entry is
UNSUPPORTED, one that finds no entry is counted, a copy is answered without effect; a SIG write of a new TAG is applied and counted, and a SIGNAL waits
until the count is its own.
Each of these answers a next state where its clause says so: CTR_REQUEST, CTR_GRANT, CTR_REFUSE, CTR_RETURN, CTR_HOLD_EXPIRE, CTR_GRANT_IDLE,
CTR_REQUEST_RETRY, CTR_CREDIT_UNUSED, SIGNAL, WRITE. -/
def Obligations.CounterCredits : Prop :=
  ∀ (s : State) (x : Fin 4) (e : Fin 2) (p : Packet) (k : BitVec 10) (dest : BitVec 12),
    let y := 224 + x.val
    let t := takeIn s y p
    let src := p.h.src.toNat
    let a := 4096 * x.val + src
    let msg := p.h.x 32 16
    let j := p.h.x 4 10
    let n := k.toNat
    let d := 4096 * e.val + dest.toNat
    let ask := fun c => exec (.ctrRequest x p) s = .next (offer c y (ctrCtl c x.val src p.h.tenant.toNat 3 0 msg))
    let key := refusedKey x.val p.h
    let no := { t with ep := { t.ep with refused := if t.ep.refused.contains key then t.ep.refused else key :: t.ep.refused } }
    (∀ c ∈ [(Instr.ctrRequest x p, 0), (.ctrGrant x p, 1), (.ctrRefuse x p, 3), (.ctrReturn x p, 2)],
      (isCtr p c.2 = false → exec c.1 s = .next s) ∧ (isCtr p c.2 = true → notArrived c.1 s y p)) ∧
    (arrived s y p → isCtr p 0 = true →
      (2 ≤ x.val → exec (.ctrRequest x p) s = .next (offer t y (mkPacket t {
        dest := p.h.src, src := BitVec.ofNat 12 (homeEpId t), tenant := p.h.tenant, kind := Kind.ctrCtl.code, ext := mkExt [(0, 4, 3), (32, 16, msg)] }))) ∧
      (x.val < 2 →
        (∀ i, ctrGranted t x.val src msg = some i → exec (.ctrRequest x p) s = .next (offer t y (ctrCtl t x.val src p.h.tenant.toNat 1 i msg))) ∧
        (ctrGranted t x.val src msg = none → key ∈ t.ep.refused → ask no) ∧
        (ctrGranted t x.val src msg = none → key ∉ t.ep.refused →
          let free := ctrFree t x.val
          let may := rd t (Reg.EP.EP_CFG.GRANT_RESERVE x.val) < free.length - 1 ∧ ctrHeldBy t x.val src < 16
          (free.find? (fun i => decide (i < 1023)) = none ∨ ¬ may → ask no) ∧
          (∀ i, free.find? (fun i => decide (i < 1023)) = some i → may →
            let u := setCtrX (wrs t [(Reg.EP.CTR_STATE.STATE x.val i, 1), (Reg.EP.CTR_STATE.SRC x.val i, src), (Reg.EP.CTR_STATE.MSG x.val i, 0),
              (Reg.EP.CTR_STATE.COUNTED x.val i, 0), (Reg.EP.CTR_STATE.COUNT x.val i, 0)]) x.val i { fresh := true, credited := true, reqNo := msg, since := t.now }
            exec (.ctrRequest x p) s = .next (offer u y (ctrCtl u x.val src p.h.tenant.toNat 1 i msg)))))) ∧
    (arrived s y p → isCtr p 1 = true →
      (∀ at_, x.val < 2 → findKey t.ep.asks a = some (msg, at_) → exec (.ctrGrant x p) s = .next { t with ep := { t.ep with
        asks := delKey t.ep.asks a, credits := t.ep.credits ++ [{ ep := x.val, dest := src, ctr := j, last := 0, busy := none, used := t.now }] } }) ∧
      (2 ≤ x.val ∨ (∀ at_, findKey t.ep.asks a ≠ some (msg, at_)) → exec (.ctrGrant x p) s = .next t)) ∧
    (arrived s y p → isCtr p 3 = true →
      (∀ at_, x.val < 2 → findKey t.ep.asks a = some (msg, at_) → exec (.ctrRefuse x p) s = .next { t with ep := { t.ep with asks := delKey t.ep.asks a } }) ∧
      (2 ≤ x.val ∨ (∀ at_, findKey t.ep.asks a ≠ some (msg, at_)) → exec (.ctrRefuse x p) s = .next t)) ∧
    (arrived s y p → isCtr p 2 = true →
      let holds := x.val < 2 ∧ ctrSt t x.val j = 1 ∧ rd t (Reg.EP.CTR_STATE.SRC x.val j) = src
      (holds → exec (.ctrReturn x p) s = .next (ctrToHold t x.val j)) ∧ (¬ holds → exec (.ctrReturn x p) s = .next t)) ∧
    (
      let due := ctrSt s e.val n = 4 ∧ (ctrX s e.val n).since + ms 2 ≤ s.now
      (due → exec (.ctrHoldExpire e k) s = .next (setCtrX (wrs s [(Reg.EP.CTR_STATE.STATE e.val n, 0), (Reg.EP.CTR_STATE.SRC e.val n, 0),
        (Reg.EP.CTR_STATE.MSG e.val n, 0), (Reg.EP.CTR_STATE.COUNTED e.val n, 0), (Reg.EP.CTR_STATE.COUNT e.val n, 0)]) e.val n {})) ∧
      (¬ due → exec (.ctrHoldExpire e k) s = .next s)) ∧
    (
      let due := ctrSt s e.val n = 1 ∧ (ctrX s e.val n).since + ms 100 ≤ s.now
      (due → exec (.ctrGrantIdle e k) s = .next (ctrToHold s e.val n)) ∧ (¬ due → exec (.ctrGrantIdle e k) s = .next s)) ∧
    (
      let due := fun at_ => at_ + us (rd s (Reg.EP.EP_TIMING.ATTEMPT_US e.val)) ≤ s.now ∧ ctrMay s e.val dest.toNat = true
      (∀ m at_, findKey s.ep.asks d = some (m, at_) → due at_ → exec (.ctrRequestRetry e dest) s =
        .next (offer { s with ep := { s.ep with asks := setKey s.ep.asks d (m, s.now) } } (224 + e.val) (ctrCtl s e.val dest.toNat 0 0 0 m))) ∧
      ((∀ m at_, findKey s.ep.asks d = some (m, at_) → ¬ due at_) → exec (.ctrRequestRetry e dest) s = .next s)) ∧
    (
      let unused := fun (c : Credit) => c.ep == e.val && c.dest == dest.toNat && c.ctr == n && creditIdle s c &&
        ctrMay s e.val dest.toNat && decide (c.used + ms 50 ≤ s.now)
      (∀ c, s.ep.credits.find? unused = some c → exec (.ctrCreditUnused e dest k) s =
        .next (offer { s with ep := { s.ep with credits := s.ep.credits.erase c } } (224 + e.val) (ctrCtl s e.val dest.toNat 0 2 n 0))) ∧
      ((∀ c ∈ s.ep.credits, unused c = false) → exec (.ctrCreditUnused e dest k) s = .next s)) ∧
    (
      let h := p.h
      let hit := ctrHit s e.val h
      let fits := h.k ≠ some .signal ∨ h.x 64 32 ≤ 65535
      (fits → hit = .refuse → sigArrive s e.val p = answer s (epPort e.val) h ccUnsupported 0 0) ∧
      (fits → hit = .drop → sigArrive s e.val p = cnt s (Reg.EP.EP_COUNT_C.CTR_UNAVAILABLE e.val)) ∧
      (fits → hit = .copy → sigArrive s e.val p = answer (cnt s (Reg.EP.EP_COUNT_C.SIG_DUPLICATES e.val)) (epPort e.val) h ccOk 0 0) ∧
      (¬ fits → sigArrive s e.val p = answer s (epPort e.val) h ccUnsupported 0 0) ∧
      (∀ i c b, hit = .cur i → h.k = some .write → h.tag.toNat ∉ (ctrX s e.val i).tags → exportFor s e.val h = some (c, b) →
        sigArrive s e.val p = sigCount (dmaWrite s e.val (ctxFunc s c) b (padTo h.len.toNat p.payload)) e.val i h) ∧
      (∀ i, hit = .cur i → h.k = some .signal → fits → (ctrX s e.val i).waiting = [] →
        let u := setCtrX (wr (wr s (Reg.EP.CTR_STATE.STATE e.val i) 3) (Reg.EP.CTR_STATE.COUNT e.val i) (h.x 64 32)) e.val i
          { ctrX s e.val i with sig := some p, since := s.now }
        let whole := rd u (Reg.EP.CTR_STATE.COUNTED e.val i) = h.x 64 32 ∧ firing u e.val i = false
        (whole → sigArrive s e.val p = ctrFire u e.val i p) ∧ (¬ whole → sigArrive s e.val p = u)))

/-! ### The requesting side (08, 10) -/

/-- Responses (R51, R60, R71, R75, R77, R78, R80, R257, R259, R269, R271). One whose HCRC is wrong is discarded. One with RLY = 2 goes on to the
original requester with RLY = 0 and the SEQ of its request, but is discarded and counted where its epoch is old. Another is discarded and counted where
it is stale or answers no request in progress, an attempt whose time was over when it was stamped among them (R97); else its data and results go to the request's descriptor, the request is answered with the CCODE, and
every descriptor of its context moves on. A bulk tile whose CRC fails is not used. A sealed tile with odd GEN, or whose CRC held only when read again,
is TORN: the read is repeated TORN_RETRIES times at most; one whose CRC fails is read again once, and is then CORRUPT.
Each of these answers a next state where its clause says so: COMPLETION, READ_RESP, TILE_RESP, ATOMIC_RESP, READ_TILE, READ_BULK. -/
def Obligations.Responses : Prop :=
  ∀ (s : State) (e : Fin 2) (p : Packet),
    let y := epPort e.val
    let t := takeIn s y p
    let v := expireFirst t e.val p
    let h := p.h
    let cc := respCode h
    let counted := fun f => (.next (cnt t f) : Host.Outcome State Fault Refusal)
    (∀ c ∈ [(Instr.completion e p, Kind.completion), (.readResp e p, .readResp), (.tileResp e p, .tileResp), (.atomicResp e p, .atomicResp)],
      (h.k ≠ some c.2 → exec c.1 s = .next s) ∧ (h.k = some c.2 → notArrived c.1 s y p) ∧
      (h.k = some c.2 → arrived s y p →
        (h.rly = 2 → oldEpoch t h = true → exec c.1 s = counted (Reg.EP.EP_COUNT_B.RESP_DISCARDS e.val)) ∧
        (h.rly = 2 → oldEpoch t h = false →
          let k := relayKey e.val h.via.toNat h.tag.toNat h.seq.toNat
          let u := { t with ep := { t.ep with relays := delKey t.ep.relays k } }
          let seq := match findKey t.ep.relays k with | some n => BitVec.ofNat 16 n.1 | none => h.seq
          exec c.1 s = .next (drainBehind (offer u y
            (mkPacket t { h with dest := h.via, src := BitVec.ofNat 12 (epId t e.val), rly := 0, via := 0, seq := seq } p.payload)) e.val)) ∧
        (h.rly ≠ 2 → stale t e.val h = true → exec c.1 s = counted (Reg.EP.EP_COUNT_B.STALE_DISCARDS e.val)) ∧
        (h.rly ≠ 2 → stale t e.val h = false → accepted v e.val h = none → exec c.1 s = .next (cnt v (Reg.EP.EP_COUNT_B.RESP_DISCARDS e.val))))) ∧
    (∀ r : Reqst, arrived s y p → h.rly ≠ 2 → stale t e.val h = false → accepted v e.val h = some r →
      let t := v
      let done := fun (u : State) => (.next (advanceAll u r.ctx) : Host.Outcome State Fault Refusal)
      let data := padTo r.h.len.toNat p.payload
      let tile := h.k = some .tileResp ∧ cc.1 = 0
      let sealed := tile ∧ r.h.k = some .readTile
      let odd := tileGen p.payload % 2 = 1
      let torn := odd ∨ tileCrcOk p.payload = true ∧ r.reread = true
      (h.k = some .completion → exec (.completion e p) s = done (answerReq t r cc.1 cc.2 0 0)) ∧
      (h.k = some .readResp → cc.1 = 0 → exec (.readResp e p) s = done (answerReq (cacheRead (deliverRead t r data) r data) r 0 0 0 0)) ∧
      (h.k = some .readResp → cc.1 ≠ 0 → exec (.readResp e p) s = done (answerReq t r cc.1 cc.2 0 0)) ∧
      (h.k = some .tileResp → cc.1 ≠ 0 → exec (.tileResp e p) s = done (answerReq t r cc.1 cc.2 0 0)) ∧
      (tile → r.h.k ≠ some .readTile → tileCrcOk p.payload = false → exec (.tileResp e p) s = done t) ∧
      (tile → r.h.k = some .readBulk → tileCrcOk p.payload = true →
        let d := (tileData p.payload).take (r.h.x 64 12)
        exec (.tileResp e p) s = done (answerReq (cacheRead (deliverRead t r d) r d) r 0 0 0 0)) ∧
      (tile → r.h.k ≠ some .readTile → r.h.k ≠ some .readBulk → tileCrcOk p.payload = true →
        exec (.tileResp e p) s = done (answerReq (deliverRead t r ((tileData p.payload).take (tileValid p.payload))) r 0 0 0 0)) ∧
      (sealed → torn → r.torn < rd t (Reg.EP.EP_TIMING.TORN_RETRIES r.ep) →
        exec (.tileResp e p) s = done (setReq t { r with st := 4, sentAt := t.now })) ∧
      (sealed → torn → rd t (Reg.EP.EP_TIMING.TORN_RETRIES r.ep) ≤ r.torn → exec (.tileResp e p) s = done (answerReq t r ccTorn 0 0 0)) ∧
      (sealed → ¬ odd → tileCrcOk p.payload = true → r.reread = false →
        exec (.tileResp e p) s = done (answerReq (deliverRead t r (tileData p.payload)) r 0 0 0 0)) ∧
      (sealed → ¬ odd → tileCrcOk p.payload = false →
        (r.reread = true → exec (.tileResp e p) s = done (answerReq t r ccCorrupt 0 0 0)) ∧
        (r.reread = false → exec (.tileResp e p) s = done (readAgain t r true r.torn))) ∧
      (h.k = some .atomicResp →
        (r.parts = [] → exec (.atomicResp e p) s = done (answerReq t r cc.1 cc.2 (h.x 64 64) (h.x 128 64))) ∧
        (∀ q, r.parts.head? = some q →
          (descOf t q.1 = none → exec (.atomicResp e p) s = done (answerReq t r cc.1 cc.2 (h.x 64 64) (h.x 128 64))) ∧
          (∀ d, descOf t q.1 = some d → exec (.atomicResp e p) s =
            done (answerReq (setDesc t { d with result := h.x 64 64, result2 := h.x 128 64 }) r cc.1 cc.2 (h.x 64 64) (h.x 128 64))))))

/-- Notices and the step abort (R51, R72, R80, R83, R215, R258, R271 to R273, R358). A packet of another kind or code changes nothing, one whose HCRC is
wrong is discarded. UNREACHABLE of the present epoch bars the destination on this plane for 4 ms and ends the attempt that it names, unless its time was over when
the notice was stamped (R97); of an old epoch it is discarded. PORT_DOWN and MEMBER_LOST post an event to the end-point's administrative context. TAKEOVER drops the destination's lines, moves its
counters to HOLD, tells every context in service and tries again what waits for it. STEP_CTL ABORT of a newer epoch aborts the tenant's step; of
another it is discarded.
Each of these answers a next state where its clause says so: NOTICE_UNREACHABLE, NOTICE_PORT_DOWN, NOTICE_MEMBER_LOST, NOTICE_TAKEOVER,
STEP_CTL_ABORT. -/
def Obligations.NoticesAndAborts : Prop :=
  ∀ (s : State) (e : Fin 2) (p : Packet),
    let y := 224 + e.val
    let t := takeIn s y p
    let d := p.h.x 8 12
    let tenant := p.h.tenant.toNat
    let admin := noticeEvent t [rd t (Reg.EP.EP_CFG.ADMIN_CTX e.val)] p.h
    (∀ c ∈ [(Instr.noticeUnreachable e p, 1), (.noticePortDown e p, 2), (.noticeMemberLost e p, 3), (.noticeTakeover e p, 4)],
      (isNotice p c.2 = false → exec c.1 s = .next s) ∧ (isNotice p c.2 = true → notArrived c.1 s y p)) ∧
    (isNotice p 1 = true → arrived s y p →
      let x := expireFirst t e.val p
      let u := { x with ep := { x.ep with bars := setKey x.ep.bars (4096 * e.val + d) (x.now + ms 4) } }
      let named := u.ep.reqs.find? (fun r => r.ep == e.val && r.h.tag == p.h.tag && r.st == 1 && r.h.cookie == p.h.x 64 32)
      (oldEpoch t p.h = true → exec (.noticeUnreachable e p) s = .next t) ∧
      (oldEpoch t p.h = false → named = none → exec (.noticeUnreachable e p) s = .next u) ∧
      (∀ r, oldEpoch t p.h = false → named = some r → exec (.noticeUnreachable e p) s = .next (advanceAll (failAttempt u r) r.ctx))) ∧
    (isNotice p 2 = true → arrived s y p → exec (.noticePortDown e p) s = .next admin) ∧
    (isNotice p 3 = true → arrived s y p → exec (.noticeMemberLost e p) s = .next admin) ∧
    (isNotice p 4 = true → arrived s y p →
      let n := nearDrop t (fun x _ g => x == e.val && g / 2 ^ 42 == d)
      let held := (n.ep.ctrs.filter (fun c => c.1 / 1024 == e.val && rd n (Reg.EP.CTR_STATE.SRC e.val (c.1 % 1024)) == d &&
        (let q := ctrSt n e.val (c.1 % 1024); q == 1 || q == 2 || q == 3))).map (fun c => c.1 % 1024)
      let u := held.foldl (fun s k => ctrToHold s e.val k) n
      let v := noticeEvent u ((liveCtxs u).filter (fun c => ctxEp u c == e.val)) p.h
      let w := { v with ep := { v.ep with reqs := v.ep.reqs.map (fun r => if r.ep = e.val ∧ r.st = 2 ∧ r.h.dest.toNat = d then { r with st := 0, attempts := 0, again := true } else r) } }
      exec (.noticeTakeover e p) s = .next (pump ((liveCtxs w).foldl ctxStatus w) e.val)) ∧
    (
      let own := p.h.k = some .stepCtl ∧ p.h.x 8 4 = 0
      let newer := epochNewer (p.h.x 0 8) (epochOf t tenant) = true
      (¬ own → exec (.stepCtlAbort e p) s = .next s) ∧ (own → notArrived (.stepCtlAbort e p) s y p) ∧
      (own → arrived s y p → ¬ newer → exec (.stepCtlAbort e p) s = .next t) ∧
      (own → arrived s y p → newer →
        let cs := tenantCtxs t tenant
        let u := cs.foldl abortCtx (abortSwarms (wr t (Reg.EP.TENANT_EPOCH.EPOCH tenant) (p.h.x 0 8)) tenant)
        let v := abortCounters (nearDrop u (fun _ c _ => cs.contains c)) tenant
        let w := cs.foldl (fun s c => wr s (Reg.EP.CTX_STATUS.FAULTS c) 0) v
        exec (.stepCtlAbort e p) s = .next (pump (pump (postAll w cs 7 (p.h.x 0 8) tenant 0 0) 0) 1)))

/-- Descriptors (R246 to R251, R254, R266 to R268, R300, R303, R316, R317). The arbiter's next startable descriptor starts where it has the command's
OP, and else nothing changes; a fence then sends the merged writes of its stream. One that failed authentication, has an OP that no row of R248 gives,
or a TC or LEN out of range completes without a packet; the others read their data and issue their packets. A read piece whose translation fails ends
with its code, one whose granules are all in the near cache is served from there, and the rest are sent. A descriptor completes once it has issued its
packets and all have completed, with a completion entry, and what it held back goes on; before that nothing changes. A doorbell acts on the context of
its page alone. Merged writes are sent at WC_HOLD_NS, and a torn read is repeated after TORN_GAP_NS, not before.
Each of these answers a next state where its clause says so: DESC_READ, DESC_WRITE, DESC_READ_TILE, DESC_WRITE_TILE, DESC_ATOMIC, DESC_OWN,
DESC_GATHER, DESC_FLUSH, DESC_NOP, DESC_UNSUPPORTED, DESC_SWARM, READ_BULK, READ, DESCRIPTOR_COMPLETE, DOORBELL_WRITE, WC_HOLD_EXPIRE, TORN_RETRY. -/
def Obligations.Descriptors : Prop :=
  ∀ (s : State) (e : Fin 2) (port : Fin 2) (func : BitVec 8) (page off : BitVec 12) (v : BitVec 32) (id : Nat),
    let ops : List (Instr × (Nat → Bool)) := [(.descRead e, (· == 1)), (.descWrite e, (· == 2)), (.descReadTile e, (· == 3)), (.descWriteTile e, (· == 4)),
      (.descAtomic e, (· == 5)), (.descOwn e, (· == 6)), (.descGather e, (· == 7)), (.descFlush e, (· == 9)), (.descNop e, (· == 10)),
      (.descUnsupported e, fun o => decide (o = 0 ∨ 10 < o))]
    (∀ c ∈ ops,
      (startNext s e.val c.2 = none → exec c.1 s = .next s) ∧
      (∀ t x, startNext s e.val c.2 = some (t, x) → exec c.1 s = .next (qosStatus (fenceFlush (beginDesc t x) x.ctx x.q) e.val))) ∧
    (startNext s e.val (· == 8) = none → exec (.descSwarm e) s = .next s) ∧
    (∀ t x, startNext s e.val (· == 8) = some (t, x) → exec (.descSwarm e) s = .next (qosStatus (fenceFlush (beginSwarm t x) x.ctx x.q) e.val)) ∧
    (∀ (t : State) (x : Desc),
      let fit := 1 ≤ x.op ∧ x.op ≤ 10 ∧ (x.op ≤ 4 → tcOk x = true ∧ lenRange x = true)
      (x.bad.isSome = true → beginDesc t x = setDesc t { x with issued := true }) ∧
      (x.bad = none → ¬ fit → beginDesc t x = setDesc t { x.fail 0 ccUnsupported 0 with issued := true }) ∧
      (x.bad = none → fit → dataLen x = 0 → beginDesc t x = tryIssue t x.id) ∧
      (x.bad = none → fit → 0 < dataLen x → confOn t (ctxKey t x.ctx) = false →
        beginDesc t x = tryIssue (hostOp t x.ep (ctxFunc t x.ctx) (x.f 128 64) (dataLen x) (.data x.id)) x.id)) ∧
    (∀ (t : State) (table : List Nat) (x : Desc) (q : Piece),
      let attr := readAttr x q.bulk
      let cached := bitAt x.d 10 = false ∧ bitAt x.d 13 = false
      (∀ cc dt, xlate t x.ctx table q.v 1 (bitAt attr 2) = .no cc dt → readPiece table t x q = descFail t x.id q.off cc dt) ∧
      (∀ fpa xgen, xlate t x.ctx table q.v 1 (bitAt attr 2) = .ok fpa xgen →
        (∀ data, cached → nearRead t x.ep x.ctx fpa q.len = some data → readPiece table t x q = result t x.id x.len q.off data) ∧
        (¬ cached ∨ nearRead t x.ep x.ctx fpa q.len = none →
          (q.bulk = true → readPiece table t x q = issueReq t x q.off q.len
            (reqHdr t x.ctx (fpa / 2 ^ 48) .readBulk x.tc attr 0 fpa xgen (mkExt [(64, 12, q.len)])) []) ∧
          (q.bulk = false → readPiece table t x q = issueReq t x q.off q.len
            (reqHdr t x.ctx (fpa / 2 ^ 48) .read (if bitAt attr 2 then 1 else x.tc) attr q.len fpa xgen 0) [])))) ∧
    (
      let ready := fun (d : Desc) => d.id == id && d.issued && d.live == 0 && d.q != 4 && !(s.host.atsWait.any (fun w => w.ring == 4097 + d.id))
      (∀ d, s.ep.descs.find? ready = some d → exec (.descriptorComplete id) s = .next (advanceAll (completeDesc s d) d.ctx)) ∧
      (s.ep.descs.find? ready = none → exec (.descriptorComplete id) s = .next s)) ∧
    (∀ c, pageCtx s port.val func.toNat page.toNat = some c →
      exec (.doorbellWrite port func page off v) s = .next (qosStatus (doorbell s c off.toNat v.toNat) port.val)) ∧
    (pageCtx s port.val func.toNat page.toNat = none → exec (.doorbellWrite port func page off v) s = .next s) ∧
    exec (.wcHoldExpire e) s = .next (mergeFlush s (fun m => m.ep == e.val && decide (m.at_ + ns (rd s (Reg.EP.EP_TIMING.WC_HOLD_NS e.val)) ≤ s.now))) ∧
    (
      let due := fun (r : Reqst) => r.sentAt + ns (rd s (Reg.EP.EP_TIMING.TORN_GAP_NS r.ep)) ≤ s.now
      let torn := s.ep.reqs.find? (fun r => r.id == id && r.st == 4)
      (∀ r, torn = some r → due r → exec (.tornRetry id) s = .next (readAgain s r false (r.torn + 1))) ∧
      ((∀ r, torn = some r → ¬ due r) → exec (.tornRetry id) s = .next s))

/-- The timers of requests (R80, R229, R254 to R256, R258, R260, R271, R313): an attempt that has run out is ended, a held write completes, a plane's
bar, a sending hold and the note of a pair's plane end, a sequence that waits too long skips on, an old sequence record, a held tag and a kept
response are freed; before its time each command changes nothing.
Each of these answers a next state where its clause says so: REQUEST_ATTEMPT_TIMEOUT, WRITE_COMPLETION_RELEASE, PLANE_BAR_EXPIRE,
LINK_UP_SEND_HOLD_EXPIRE, PAIR_PLANE_RESET, SEQ_SKIP_WAIT_EXPIRE, SEQ_RECORD_EXPIRE, FLR_TAG_RELEASE, ATOMIC_RESPONSE_EXPIRE. -/
def Obligations.RequestTimers : Prop :=
  ∀ (s : State) (id : Nat) (e : Fin 2) (src dest : BitVec 12) (tc : BitVec 3),
    let k := seqKey e.val src.toNat tc.toNat
    let pair := 4096 * src.toNat + dest.toNat
    let held := s.ep.reqs.find? (fun r => r.id == id && r.st == 3)
    let late := fun (r : SeqRec) => ∃ p ∈ r.held, p.2 + us (rd s (Reg.EP.EP_TIMING.SKIP_WAIT_US e.val)) ≤ s.now
    let old := fun (r : SeqRec) => r.held = [] ∧ r.last + ms 2 ≤ s.now
    (∀ r, timedOut s id = some r → exec (.requestAttemptTimeout id) s = .next (failAttempt s r)) ∧
    (timedOut s id = none → exec (.requestAttemptTimeout id) s = .next s) ∧
    (∀ r, held = some r → writeRelease s r ≤ s.now →
      exec (.writeCompletionRelease id) s = .next (finishReq s r (r.out.getD (0, 0)).1 (r.out.getD (0, 0)).2 0 0)) ∧
    ((∀ r, held = some r → s.now < writeRelease s r) → exec (.writeCompletionRelease id) s = .next s) ∧
    (barred s e.val dest.toNat = false →
      exec (.planeBarExpire e dest) s = .next (pump { s with ep := { s.ep with bars := delKey s.ep.bars (4096 * e.val + dest.toNat) } } e.val)) ∧
    (barred s e.val dest.toNat = true → exec (.planeBarExpire e dest) s = .next s) ∧
    (∀ t, findKey s.ep.downAt e.val = some t → t + ms 3 ≤ s.now →
      exec (.linkUpSendHoldExpire e) s = .next (pump { s with ep := { s.ep with downAt := delKey s.ep.downAt e.val } } e.val)) ∧
    ((∀ t, findKey s.ep.downAt e.val = some t → s.now < t + ms 3) → exec (.linkUpSendHoldExpire e) s = .next s) ∧
    (∀ n t, findKey s.ep.pairs pair = some (n, t) → t + ms 4 ≤ s.now →
      exec (.pairPlaneReset src dest) s = .next { s with ep := { s.ep with pairs := delKey s.ep.pairs pair } }) ∧
    ((∀ n t, findKey s.ep.pairs pair = some (n, t) → s.now < t + ms 4) → exec (.pairPlaneReset src dest) s = .next s) ∧
    (∀ r, seqRec s k = some r → late r →
      let far := (r.held.map (fun p => (p.1.h.seq.toNat + 65536 - r.expect) % 65536)).max?.getD 0
      exec (.seqSkipWaitExpire e src tc) s = .next (cnt (cnt (setSeq s k { r with expect := (r.expect + far + 1) % 65536, held := [] })
        (Reg.EP.EP_COUNT_B.SEQ_SKIPS e.val)) (Reg.EP.EP_COUNT_B.SEQ_DISCARDS e.val) r.held.length)) ∧
    ((∀ r, seqRec s k = some r → ¬ late r) → exec (.seqSkipWaitExpire e src tc) s = .next s) ∧
    (∀ r, seqRec s k = some r → old r → exec (.seqRecordExpire e src tc) s = .next { s with ep := { s.ep with seqs := delKey s.ep.seqs k } }) ∧
    ((∀ r, seqRec s k = some r → ¬ old r) → exec (.seqRecordExpire e src tc) s = .next s) ∧
    exec .flrTagRelease s = .next { s with host := { s.host with tagHold := s.host.tagHold.filter (fun t => decide (s.now < t.2)) } } ∧
    exec .atomicResponseExpire s = .next { s with ep := { s.ep with kept := s.ep.kept.filter (fun k => decide (s.now < k.2.2 + ms 1)) } }

/-! ### Contexts and host memory (10, 12) -/

/-- Contexts (R245, R287, R305 to R307, R315, R324, R439). ENABLE of a context out of service brings it in with fresh rings, near-cache lines, cached
segments and a clear status, or is refused with an error report; of one in service it changes nothing. Taking a context out retires its work. An export
entry that is not in force takes its fields and VALID; a write that sets VALID for a context of a confidential function is ignored and reported; of one in force only VALID may be cleared, and a
write that would change another field is reported. A moderation time that has passed
sends its message, once no entry of the context's queues waits for a translation, and an unmasked vector one that is pending.
Each of these answers a next state where its clause says so: EXPORT_WRITE, CTX_ENABLE, CTX_DISABLE, EQ_MOD_TIMER, MSIX_UNMASK. -/
def Obligations.Contexts : Prop :=
  ∀ (s : State) (w : Writer) (c k : BitVec 12) (e : Fin 2) (v : BitVec 128) (port : Fin 2) (func : BitVec 8) (vec : BitVec 11),
    let n := c.toNat
    let fs := [(Reg.EXTENT.EXPORT.REG_INDEX e.val k.toNat, bits v.toNat 1 18), (Reg.EXTENT.EXPORT.CTX e.val k.toNat, bits v.toNat 20 12),
      (Reg.EXTENT.EXPORT.LBASE e.val k.toNat, bits v.toNat 76 52)]
    let valid := Reg.EXTENT.EXPORT.VALID e.val k.toNat
    let new := wrs s fs
    let writes := fun t => exec (.exportWrite w e k v) s = .next t
    let kept := if (fs.all (fun f => rd s f.1 == f.2)) = true then s else regError s w (exportAddr e.val k.toNat) 8 true 3
    let key := msixKey port.val func.toNat vec.toNat
    let fn := port.val * 256 + func.toNat
    (ctxOn s n = true → exec (.ctxEnable w c) s = .next s) ∧
    (ctxOn s n = false → enableRefused s n = true → exec (.ctxEnable w c) s = .next (regError s w (0x810000 + n * 0x40) 8 true 7)) ∧
    (ctxOn s n = false → enableRefused s n = false →
      let t := setCtx (nearDrop s (fun e x _ => e == ctxEp s n && x == n)) n {}
      let u := { t with ep := { t.ep with segs := delKey t.ep.segs n } }
      exec (.ctxEnable w c) s = .next (ctxStatus (wrs u [(Reg.EP.CTX.ENABLE n, 1), (Reg.EP.CTX_STATUS.STEP_FAULTED n, 0), (Reg.EP.CTX_STATUS.EQ_OVERFLOW n, 0),
        (Reg.EP.CTX_STATUS.FAULTS n, 0)]) n)) ∧
    (ctxOn s n = true → exec (.ctxDisable w c) s = .next (qosStatus (pump (dropCtx (resetCtxs s (ctxEp s n) [n]) n) (ctxEp s n)) (ctxEp s n))) ∧
    (ctxOn s n = false → exec (.ctxDisable w c) s = .next s) ∧
    (rdb s valid = false → v.getLsbD 0 = false → writes (wr new valid 0)) ∧
    (rdb s valid = false → v.getLsbD 0 = true →
      (confOn s (ctxKey s (bits v.toNat 20 12)) = false → writes (wr new valid 1)) ∧
      (confOn s (ctxKey s (bits v.toNat 20 12)) = true → writes (regError s w (exportAddr e.val k.toNat) 8 true 7))) ∧
    (rdb s valid = true → v.getLsbD 0 = true → writes kept) ∧
    (rdb s valid = true → v.getLsbD 0 = false → writes (wr kept valid 0)) ∧
    (
      let due := (ctxRun s n).modCount ≠ 0 ∧ (ctxRun s n).modFirst + modTime s n ≤ s.now
      let waits := ∃ x ∈ s.host.atsWait, x.ring = n
      (due → waits → exec (.eqModTimer c) s = .next (setCtx s n { ctxRun s n with modCount := 0, owesMsg := true })) ∧
      (due → ¬ waits → exec (.eqModTimer c) s =
        .next (sendMsix (setCtx s n { ctxRun s n with modCount := 0, owesMsg := false }) (ctxEp s n) (ctxFunc s n) (rd s (Reg.EP.CTX.EQ_VECTOR n)))) ∧
      (¬ due → exec (.eqModTimer c) s = .next s)) ∧
    (
      let u := { s with host := { s.host with msixTab := putKey s.host.msixTab (4 * key + 3) 1 (msixWord s key 3 - msixWord s key 3 % 2) } }
      let due := key ∈ u.host.msixPend ∧ fn ∉ u.host.fnMask ∧ bitAt (msixWord u key 3) 0 = false ∧ fn ∈ u.host.msixOn
      (due → exec (.msixUnmask port func vec) s =
        .next (msixOut { u with host := { u.host with msixPend := u.host.msixPend.filter (· != key) } } port.val func.toNat vec.toNat)) ∧
      (¬ due → exec (.msixUnmask port func vec) s = .next u))

/-- Translations and accesses of local memory (R76, R246, R273, R277, R280 to R282, R298, R302, R318). A translation of a size that R281 gives is cached
where it grants any access and used by everything that waits for it, records of the error log ring too; of another size (log entry 62) it changes nothing. An invalidation drops the
cached ones that it covers and is answered once the reads issued with them have ended. A completion gives its data to what asked for it, or its error; one that
names no access under way, of its own side, changes nothing, and a request whose epoch has become old is answered STEP_ABORT. A segment invalidation drops the
entries, sends the merged writes, has every unsent request and repeated tile read of the context translated again and is acknowledged by all engines; DONE ends it, and a
command while BUSY sets OVERRUN.
Each of these answers a next state where its clause says so: ATS_TRANSLATION_COMPLETE, ATS_INVALIDATE, PCIE_READ_COMPLETION, HOST_DMA_COMPLETE,
SEG_INVAL_CMD, SEG_INVAL_DONE. -/
def Obligations.HostMemoryAccess : Prop :=
  ∀ (s : State) (port : Fin 2) (func : BitVec 8) (va size pa tag status : Nat) (r w : Bool) (data : List Byte) (wr_ : Writer) (c : BitVec 12) (all : Bool) (q : BitVec 8),
    let e := port.val
    let f := func.toNat
    let hit := fun a n => decide (a < va + size) && decide (va < a + n)
    let lacks := fun (x : Except Nat (List (Nat × Nat × Nat))) => match x with | .error a => inXlate va size a | .ok _ => false
    let u := { s with host := { s.host with atc := s.host.atc.filter (fun t => !(t.ep == e && t.func == f && hit t.va t.size)) } }
    let busy := (u.host.ops.filter (fun o => o.ep == e && o.func == f && o.st == 2 && hit o.addr (max 1 o.span))).map (fun o => o.tag)
    let put := if r || w then atcPut s { ep := e, func := f, va := va, size := size, pa := pa, r := r, w := w } else s
    let ops := s.host.ops.filter (fun o => o.ep == e && o.func == f && o.st == 0 && lacks (opRuns s o))
    let ws := s.host.atsWait.filter (fun x => x.ep == e && x.func == f && lacks (localRuns s e f x.addr x.data.length true false))
    let t := hostDone s tag
    (
      let ok := (∃ k, k < 19 ∧ size = 2 ^ (12 + k)) ∧ va % size = 0 ∧ pa % size = 0
      let ring := e = mgrPort s ∧ f = 0 ∧ s.err.ringWait ≠ [] ∧ lacks (localRuns s e 0 (ringAddr s) 64 true false) = true
      let v := ws.foldl (atsWrite w) (ops.foldl (fun s o => atsOp ((!o.what.writes || w) && (!o.what.reads || r)) s o) put)
      let gives := fun x => exec (.atsTranslationComplete port func va size pa r w) s = .next (hostNext x e)
      (ok → ¬ ring → gives v) ∧ (ok → ring → w = true → gives (ringDrain v (v.err.ringWait.length + 1))) ∧
      (ok → ring → w = false → gives (ringLose (xlateFail v))) ∧
      (¬ ok → exec (.atsTranslationComplete port func va size pa r w) s = .next s)) ∧
    (busy = [] → exec (.atsInvalidate port func tag va size) s = .next (cnt (emitOut u (.atsDone e f tag)) Reg.EXTENT.ATS_COUNT.INVALIDATIONS)) ∧
    (busy ≠ [] → exec (.atsInvalidate port func tag va size) s = .next { u with host := { u.host with atsInv := u.host.atsInv ++ [(e, f, tag, busy)] } }) ∧
    (
      let named := s.host.ops.find? (fun o => o.tag == tag && o.st == 2 && o.what.brings)
      (named = none → exec (.pcieReadCompletion tag status data) s = .next s) ∧
      (∀ o, named = some o →
        let ends := fun v => exec (.pcieReadCompletion tag status data) s = .next (atsDrain (hostNext v o.ep) tag)
        (o.dead = true → ends t) ∧
        (o.dead = false → status ≠ 0 → ends (opRefused t o ccPoison 0)) ∧
        (o.dead = false → status = 0 →
          (∀ i, o.what = .data i → ends (dataArrive t i data)) ∧
          (∀ x, o.what = .segs x → ends (segsArrive t x data)) ∧
          (∀ x k i, o.what = .desc x k i → ends (qosStatus (fenceFlush (descArrive t x k i data) x k) o.ep))))) ∧
    (
      let named := s.host.ops.find? (fun o => o.tag == tag && o.st == 2 && !o.what.brings)
      (named = none → exec (.hostDmaComplete tag status data) s = .next s) ∧
      (∀ o, named = some o →
        let ends := fun v => exec (.hostDmaComplete tag status data) s = .next (atsDrain (drainBehind (hostNext v o.ep) o.ep) tag)
        let x := epPort o.ep
        let old := fun (h : Hdr) => ofLeBytes (data.take 8) % 2 ^ (8 * atomBytes h)
        let atom := fun h cc res => ends (answerAtomic t x h cc 0 res)
        (o.dead = true → ends t) ∧
        (∀ k q, o.what = .arrive q ∨ o.what = .fire k q → ends t) ∧
        (∀ h, o.dead = false → o.what = .target h →
          (oldEpoch t h = true → ends (answer t x h ccStepAbort 0 0)) ∧
          (oldEpoch t h = false → status = 0 → ends (answerData t x h (padTo o.len data))) ∧
          (oldEpoch t h = false → status ≠ 0 → ends (answer t x h ccPoison 0 0))) ∧
        (∀ h b, o.dead = false → o.what = .seal h b →
          (oldEpoch t h = true → ends (sealNext (answer t x h ccStepAbort 0 0) o.ep o.addr)) ∧
          (oldEpoch t h = false → status ≠ 0 → ends (sealNext (answer t x h ccPoison 0 0) o.ep o.addr)) ∧
          (oldEpoch t h = false → status = 0 → storeReady t o.ep o.func o.addr tileLen = false → ends (hostGo t o)) ∧
          (oldEpoch t h = false → status = 0 → storeReady t o.ep o.func o.addr tileLen = true →
            let g := ofLeBytes ((padTo 8 data).drop 4)
            let b := sealTile g b
            let u := dmaWrite (dmaWrite t o.ep o.func (o.addr + 4) (leBytes 4 (g + 1)) 4096 false) o.ep o.func (o.addr + 8) (b.drop 8) 4096 false
            ends (sealNext (sealEnd (dmaWrite u o.ep o.func o.addr (b.take 64) 4096 false) o.ep h) o.ep o.addr))) ∧
        (∀ h, o.dead = false → o.what = .atomicOp h → (status = 0 → atom h ccOk (old h)) ∧ (status ≠ 0 → atom h ccUnsupported 0)) ∧
        (∀ h n, o.dead = false → o.what = .casRead h n →
          (oldEpoch t h = true → atom h ccStepAbort 0) ∧
          (oldEpoch t h = false → status ≠ 0 → atom h ccUnsupported 0) ∧
          (oldEpoch t h = false → status = 0 → ends (hostOp t o.ep o.func o.addr o.len (.casTry h n (old h))))) ∧
        (∀ h n m, o.dead = false → o.what = .casTry h n m →
          (status ≠ 0 → atom h ccUnsupported 0) ∧
          (status = 0 → old h = m → atom h ccOk m) ∧
          (status = 0 → old h ≠ m → oldEpoch t h = true → atom h ccStepAbort 0) ∧
          (status = 0 → old h ≠ m → oldEpoch t h = false → 63 ≤ n → atom h ccUnsupported 0) ∧
          (status = 0 → old h ≠ m → oldEpoch t h = false → n < 63 → ends (hostOp t o.ep o.func o.addr o.len (.casTry h (n + 1) (old h))))))) ∧
    (
      let does := fun v => exec (.segInvalCmd wr_ c all q) s = .next v
      let busy := rdb s Reg.EXTENT.SEG_INVAL_STATUS.BUSY
      (busy = true → sliceOf wr_ = none → does (regError (wr s Reg.EXTENT.SEG_INVAL_STATUS.OVERRUN 1) wr_ 0xA00108 4 true 6)) ∧
      (∀ p f, busy = true → sliceOf wr_ = some (p, f) → does (sliceSet s p f (sliceGet s p f % 256 + 256))) ∧
      (busy = false → invalCtx s wr_ c.toNat = none → does s) ∧
      (∀ x, busy = false → invalCtx s wr_ c.toNat = some x →
        let n := wrs s [(Reg.EXTENT.SEG_INVAL_STATUS.BUSY, 1), (Reg.EXTENT.SEG_INVAL_STATUS.ENGINE_ACKS, 0)]
        let who := match sliceOf wr_ with | some (p, f) => 256 * p + f | none => 512
        let m := { n with ep := { n.ep with inval := some (x, q.toNat, who) } }
        let l := mergeFlush (segDrop (dropTableReads m x) x all) (fun m => m.ctx == x)
        does (wr (repeatReads (advanceAll ((unsentOf l x).foldl untranslate l) x) x) Reg.EXTENT.SEG_INVAL_STATUS.ENGINE_ACKS 0xFF))) ∧
    (
      let acked := rd s Reg.EXTENT.SEG_INVAL_STATUS.ENGINE_ACKS = 0xFF
      (s.ep.inval = none ∨ ¬ acked → exec .segInvalDone s = .next s) ∧
      (∀ x y n, s.ep.inval = some (x, y, n) → acked →
        let m := { s with ep := { s.ep with inval := none } }
        let m := wrs m [(Reg.EXTENT.SEG_INVAL_STATUS.BUSY, 0), (Reg.EXTENT.SEG_INVAL_STATUS.DONE_SEQ, y)]
        (512 ≤ n → exec .segInvalDone s = .next m) ∧
        (n < 512 → exec .segInvalDone s = .next (sliceSet m (n / 256) (n % 256) (sliceGet m (n / 256) (n % 256) / 256 * 256 + y)))))

/-- Windows and functions (R298 to R300, R303, R304, R312 to R314, R419). An access to a window that the function has starts its descriptor where it is
mapped, and is else dropped and counted, a load with all ones; a load abandoned after WIN_READ_MS answers all ones. Writing NumVFs or clearing VF Enable
resets the functions that cease to be. A reset that is not under way counts, passes through its steps for the function and, of the PF, its VFs, and
holds them until it completes, with its length shown and the configuration registers cleared. A configuration request is answered RRS before boot stage
7 and while the port's PF resets, unsupported by a function that does not exist, and else as its register says.
Each of these answers a next state where its clause says so: WINDOW_STORE, WINDOW_LOAD, WINDOW_READ_TIMEOUT, NUMVFS_WRITE, VF_ENABLE_CLEAR, FLR,
FLR_COMPLETE, CONFIGURATION_REQUEST. -/
def Obligations.WindowsAndFunctions : Prop :=
  ∀ (s : State) (port : Fin 2) (func : BitVec 8) (k : Fin 16) (off : BitVec 32) (data : List Byte) (len tag id : Nat) (n : BitVec 16) (en : Bool) (op : CfgOp),
    let p := port.val
    let f := func.toNat
    let w := windowOf s p f k.val
    let d := windowDesc s p w 1 off.toNat len none
    let ones := List.replicate len (0xFF : Byte)
    let has := f = 0 ∨ k = 0
    let lost := cnt s (Reg.HOSTPORT.HP_COUNT.WIN_UNMAPPED p)
    let old := (findKey s.host.numVfs p).getD 0
    let vfs := fun (m : Nat) (t : Option Nat) =>
      let u := ((List.range (old + 1)).filter (fun v => decide (m < v))).foldl (fun s v => flrBegin s p v) s
      { u with host := { u.host with numVfs := match t with | some m => setKey u.host.numVfs p m | none => delKey u.host.numVfs p } }
    (¬ has → exec (.windowStore port func k off data) s = .next s ∧ exec (.windowLoad port func k off len tag) s = .next s) ∧
    (has → windowOpen s p f w = true →
      exec (.windowStore port func k off data) s = .next (windowStart s (windowDesc s p w 2 off.toNat data.length (some data))) ∧
      exec (.windowLoad port func k off len tag) s = .next (windowStart { s with host := { s.host with
        loads := setKey s.host.loads d.id { port := p, func := f, tag := tag, len := len, at_ := s.now } } } d)) ∧
    (has → windowOpen s p f w = false → exec (.windowStore port func k off data) s = .next lost ∧
      exec (.windowLoad port func k off len tag) s = .next (emitOut lost (.loadReply p f tag ones))) ∧
    (
      let due := fun (l : WinLoad) => l.at_ + ms (rd s (Reg.HOSTPORT.PORT_CFG.WIN_READ_MS l.port)) ≤ s.now
      (∀ l, findKey s.host.loads id = some l → due l →
        exec (.windowReadTimeout id) s = .next (emitOut (cnt { s with host := { s.host with loads := delKey s.host.loads id } }
          (Reg.HOSTPORT.HP_COUNT.WIN_READS_ABANDONED l.port)) (.loadReply l.port l.func l.tag (List.replicate l.len 0xFF)))) ∧
      ((∀ l, findKey s.host.loads id = some l → ¬ due l) → exec (.windowReadTimeout id) s = .next s)) ∧
    exec (.numvfsWrite port n true) s = .next (vfs (numVfsOf s p n.toNat) (some (numVfsOf s p n.toNat))) ∧
    exec (.numvfsWrite port n false) s = .next (vfs 0 none) ∧
    (en = false → exec (.vfEnableClear port n en) s = .next (vfs 0 none)) ∧
    (en = true → n.toNat < old → exec (.vfEnableClear port n en) s = .next (vfs (numVfsOf s p n.toNat) (some (numVfsOf s p n.toNat)))) ∧
    (en = true → old ≤ n.toNat → exec (.vfEnableClear port n en) s = .next s) ∧
    (inFlr s p f = true → exec (.flr port func) s = .next s) ∧
    (inFlr s p f = false → exec (.flr port func) s =
      .next (pump ((flrFuncs s p f).foldl (fun s g => flrOne s p g) (cnt s (Reg.HOSTPORT.LINK_STATUS.FLR_COUNT p))) p)) ∧
    (∀ at_, findKey s.host.flr (256 * p + f) = some at_ → f ≠ 0 →
      let u := cfgReset ((funcCtxs s p f).foldl dropCtx s) p f
      let v := { u with host := { u.host with flr := delKey u.host.flr (256 * p + f) } }
      exec (.flrComplete port func) s = .next (wrs v [(Reg.HOSTPORT.FUNC_STATE.FLR_ACTIVE p f, 0), (Reg.HOSTPORT.FUNC_STATE.FLR_STEP p f, 0),
        (Reg.HOSTPORT.FUNC_STATE.LAST_FLR_US p f, (v.now - at_) / 1600)])) ∧
    (f = 0 → inFlr s p 0 = true → exec (.flrComplete port func) s = .next ((flrOf s p).foldl (fun s g => flrEnd s p g) s)) ∧
    (inFlr s p f = false → exec (.flrComplete port func) s = .next s) ∧
    (
      let early := rd s Reg.SECURITY.BOOT_STATUS.STAGE < 7 ∨ inFlr s p 0 = true
      let ends := fun t => exec (.configurationRequest port func op) s = .next t
      let reads := fun v => ends (emitOut s (.cfgReply p f 0 v))
      let here := ¬ early ∧ funcExists s p f = true
      (early → ends (emitOut s (.cfgReply p f 1 0))) ∧
      (¬ early → funcExists s p f = false → ends (emitOut s (.cfgReply p f 2 0))) ∧
      (here → op = .readTotalVfs → reads (rd s (Reg.HOSTPORT.PORT_CFG.TOTAL_VFS p))) ∧
      (here → op = .readInterruptPin → reads 0) ∧
      (here → op = .readTableSize → reads (vectorCount s p f)) ∧
      (∀ b i, here → op = .sizeBar b i → reads (if f = 0 then barWord b i.val else 0)) ∧
      (here → op = .flr → ends (flrBegin (emitOut s (.cfgReply p f 0 0)) p f)) ∧
      (∀ m b, here → op = .vfs m b → f = 0 → ends (emitOut (vfWrite s p m.toNat b) (.cfgReply p f 0 0))) ∧
      (here → ends (cfgAccess s p f op)))

/-- The manager role and the PCIe links (R298, R310, R311, R315, R349). HANDOVER, by the manager function or the fabric manager, moves the role to the
other port where that is ready, with MGR_PORT, CHANGED and HANDOVER_RESULT set and the log ring disabled, and else shows why not; by another writer it
changes nothing. It happens by itself once the manager port has been down for AUTO_MS and the other is ready, not before. A port that goes down counts,
reports, resets its PCIe core (R416) and its functions; PERST in a warm reset only holds the port (R417); one that comes up, outside a warm reset, at a width and mode that a link can have shows its rate and width; an AER error is kept and
reported.
Each of these answers a next state where its clause says so: HANDOVER, HANDOVER_AUTO, PERST_ASSERT, HOST_LINK_DOWN, HOST_LINK_UP, PCIE_AER_ERROR. -/
def Obligations.HostPorts : Prop :=
  ∀ (s : State) (port : Fin 2) (rate : Fin 6) (width : BitVec 5) (flit unc : Bool) (func : BitVec 8) (status : BitVec 32),
    let p := port.val
    let q := 1 - mgrPort s
    let k := 2 * (256 * p + func.toNat) + b2n unc
    let a := { s with host := { s.host with aer := putKey s.host.aer k 0 ((findKey s.host.aer k).getD 0 ||| status.toNat) } }
    let moved :=
      let t := wrs (ringLose s) [(Reg.HOSTPORT.MGR_CTL.MGR_PORT, q), (Reg.GLOBAL.ERR_RING_CFG.ENABLE, 0), (Reg.GLOBAL.ERR_RING_STATUS.HANDOVER_DISABLED, 1),
        (Reg.HOSTPORT.MGR_CTL.CHANGED, 1), (Reg.HOSTPORT.MGR_CTL.HANDOVER_RESULT, 1), (Reg.HOSTPORT.MGR_CTL.HANDOVER, 0)]
      report (mgrWatch { t with host := { t.host with mgrDown := none } }) (fHost q) 0x0E 6 0 q 0
    let ready := fun (r : Nat) => rdb s (Reg.HOSTPORT.LINK_STATUS.LINK_UP r) = true ∧ 256 * r ∉ s.host.d3 ∧ 256 * r ∈ s.host.memEn ∧ 256 * r ∈ s.host.busEn ∧
      inFlr s 0 0 = false ∧ inFlr s 1 0 = false
    let down := fun (perst : Bool) =>
      let up := rdb s (Reg.HOSTPORT.LINK_STATUS.LINK_UP p)
      let t := wrs (if up then cnt s (Reg.HOSTPORT.LINK_STATUS.LINK_DOWNS p) else s) [(Reg.HOSTPORT.LINK_STATUS.LINK_UP p, 0),
        (Reg.HOSTPORT.LINK_STATUS.RATE p, 0), (Reg.HOSTPORT.LINK_STATUS.WIDTH p, 0), (Reg.HOSTPORT.LINK_STATUS.FLIT p, 0)]
      let u := if perst then wr t (Reg.HOSTPORT.LINK_STATUS.PERST p) 1 else t
      mgrWatch (coreReset (flrBegin (if up then report u (fHost p) 0x0E 5 2 p 0 else u) p 0) p)
    (∀ w ∈ [Writer.manager, .fabric],
      (ready q → exec (.handover w) s = .next moved) ∧
      (∀ r, notReady s q = some r → exec (.handover w) s = .next (wr s Reg.HOSTPORT.MGR_CTL.HANDOVER_RESULT r))) ∧
    (¬ ready q → ∃ r, notReady s q = some r ∧ 2 ≤ r ∧ r ≤ 4) ∧
    (∀ w, w ≠ .manager → w ≠ .fabric → exec (.handover w) s = .next s) ∧
    (
      let due := fun t => rdb s Reg.HOSTPORT.MGR_CTL.AUTO_EN = true ∧ t + ms (rd s Reg.HOSTPORT.MGR_CTL.AUTO_MS) ≤ s.now ∧ ready q
      (∀ t, s.host.mgrDown = some t → due t → exec .handoverAuto s = .next moved) ∧
      ((∀ t, s.host.mgrDown = some t → ¬ due t) → exec .handoverAuto s = .next s)) ∧
    (s.fw.phase ≠ 0 → exec (.perstAssert port) s = .next (down true)) ∧
    (s.fw.phase = 0 → exec (.perstAssert port) s = .next (wr s (Reg.HOSTPORT.LINK_STATUS.PERST p) 1)) ∧ exec (.hostLinkDown port) s = .next (down false) ∧
    (
      let ok := width.toNat ∈ [1, 2, 4, 8, 16] ∧ (flit = true ∨ rate.val < 5) ∧ s.fw.phase ≠ 0 ∧ s.pw.tripped = false
      (ok → exec (.hostLinkUp port rate width flit) s = .next (mgrWatch (wrs s [(Reg.HOSTPORT.LINK_STATUS.PERST p, 0), (Reg.HOSTPORT.LINK_STATUS.LINK_UP p, 1),
        (Reg.HOSTPORT.LINK_STATUS.RATE p, rate.val), (Reg.HOSTPORT.LINK_STATUS.WIDTH p, width.toNat), (Reg.HOSTPORT.LINK_STATUS.FLIT p, b2n flit)]))) ∧
      (¬ ok → exec (.hostLinkUp port rate width flit) s = .next s)) ∧
    exec (.pcieAerError port func unc status) s =
      .next (report a (fHost p) 0x0E (if unc then 2 else 1) (if unc then 2 else 1) (p + 2 * func.toNat) status.toNat)

/-- Confidential mode (R319, R320). Within a session, CONF_START makes a function with no enabled context confidential under the session's secret,
CONF_REKEY replaces the secret of an idle function by the one derived from it and keeps the event counter, CONF_END erases it, CONF_QUERY answers its
state, and each that may not act answers so; without a session, or while the processor that answers is away, nothing changes. The end of the session erases
the keys where no context is enabled.
Each of these answers a next state where its clause says so: CONF_START, CONF_REKEY, CONF_END, CONF_QUERY, SPDM_SESSION_END. -/
def Obligations.ConfidentialMode : Prop :=
  ∀ (s : State) (port : Fin 2) (func : BitVec 8),
    let p := port.val
    let f := func.toNat
    let k := 256 * p + f
    let c := confOf s k
    let ended := { s with host := { s.host with sessions := delKey s.host.sessions k } }
    let tells := fun (code status : Nat) => (.next (confReply s p f code status []) : Host.Outcome State Fault Refusal)
    (∀ x, findKey s.host.sessions k = some x → procAway s 0 = false →
      (confOn s k = false → funcCtxs s p f = [] → exec (.confStart port func) s =
        .next (confReply (wr (setConf s k { secret := x }) (Reg.HOSTPORT.FUNC_STATE.CONFIDENTIAL p f) 1) p f 1 0 [])) ∧
      (confOn s k = true ∨ funcCtxs s p f ≠ [] → exec (.confStart port func) s = tells 1 2) ∧
      (confOn s k = false → exec (.confRekey port func) s = tells 2 2) ∧
      (confOn s k = true → funcBusy s p f = true → exec (.confRekey port func) s = tells 2 1) ∧
      (confOn s k = true → funcBusy s p f = false → exec (.confRekey port func) s = .next (confReply
        (setConf s k { secret := Config.hkdfExpand 384 c.secret (ascii "vovis rekey") 48, events := c.events }) p f 2 0 [])) ∧
      (confOn s k = true → funcCtxs s p f = [] → exec (.confEnd port func) s = .next (confReply (confErase s p f) p f 3 0 [])) ∧
      (confOn s k = false ∨ funcCtxs s p f ≠ [] → exec (.confEnd port func) s = tells 3 2) ∧
      exec (.confQuery port func) s =
        .next (confReply s p f 4 0 ([b2n (confOn s k), c.events] ++ c.rc.flatMap (fun x => [x.1, x.2]) ++ c.seg.flatMap (fun x => [x.1, x.2])))) ∧
    (findKey s.host.sessions k = none ∨ procAway s 0 = true →
      ∀ c ∈ [Instr.confStart port func, .confRekey port func, .confEnd port func, .confQuery port func], exec c s = .next s) ∧
    (funcCtxs ended p f = [] → exec (.spdmSessionEnd port func) s = .next (confErase ended p f)) ∧
    (funcCtxs ended p f ≠ [] → exec (.spdmSessionEnd port func) s = .next ended)

/-- The extent registry (R284, R290 to R293, R360). A command while BUSY sets OVERRUN and is reported; while the registry is not RUNNING it gets RESULT
6. WRITE enters the stage where nothing refuses it and else shows why; REVOKE of a LIVE entry that no RUNNING SWARM uses frees it with nothing in
flight and else leaves it REVOKING, and gets RESULT 1 or 5 otherwise; READ shows the entry; each sets BUSY, which DONE clears. A drain time that has
ended frees the entry by force, counted and recorded, and before that nothing changes.
Each of these answers a next state where its clause says so: EXT_CMD_WRITE, EXT_CMD_REVOKE, EXT_CMD_READ, EXT_CMD_DONE, EXTENT_DRAIN_TIMEOUT. -/
def Obligations.ExtentCommands : Prop :=
  ∀ (s : State) (w : Writer) (i : BitVec 18),
    let n := i.toNat
    let e := extGet s n
    let r := extWriteResult s n (extStage s)
    let busy := rdb s Reg.EXTENT.EXT_CMD_STATUS.BUSY
    let on := busy = false ∧ running s fExt = true
    let cmds := [(Instr.extCmdWrite w i, 1), (.extCmdRevoke w i, 2), (.extCmdRead w i, 3)]
    let shows := fun (t : State) (op res : Nat) => (.next (let u := wrs t [(Reg.EXTENT.EXT_CMD_STATUS.BUSY, 1), (Reg.EXTENT.EXT_CMD_STATUS.INDEX, n),
      (Reg.EXTENT.EXT_CMD_STATUS.RESULT, res)]; { u with ext := { u.ext with cmd := some (op, n, res) } }) : Host.Outcome State Fault Refusal)
    let due := e.st = 2 ∧ e.revokeTime + 3200000 ≤ s.time.toNat
    (busy = true → ∀ c ∈ cmds, exec c.1 s = .next (regError (wr s Reg.EXTENT.EXT_CMD_STATUS.OVERRUN 1) w 0xA00008 4 true 6)) ∧
    (busy = false → running s fExt = false → ∀ c ∈ cmds, exec c.1 s = shows s c.2 6) ∧
    (on → r = 0 → exec (.extCmdWrite w i) s = shows (extSet s n (extOfStage (extStage s))) 1 0) ∧
    (on → r ≠ 0 → exec (.extCmdWrite w i) s = shows s 1 r) ∧
    (on → e.st ≠ 1 → exec (.extCmdRevoke w i) s = shows s 2 1) ∧
    (on → e.st = 1 → extInUse s e = true → exec (.extCmdRevoke w i) s = shows s 2 5) ∧
    (on → e.st = 1 → extInUse s e = false → e.inflight = 0 →
      exec (.extCmdRevoke w i) s = shows (extFree (extSet s n { e with revokeTime := s.time.toNat }) n) 2 0) ∧
    (on → e.st = 1 → extInUse s e = false → e.inflight ≠ 0 →
      exec (.extCmdRevoke w i) s = shows (extSet s n { e with st := 2, revokeTime := s.time.toNat }) 2 0) ∧
    (on → exec (.extCmdRead w i) s = shows (wrs s ((List.range 4).map (fun k => (Reg.EXTENT.EXT_VIEW.ENTRY k, bits (extBits e) (64 * k) 64)))) 3 0) ∧
    exec .extCmdDone s = .next { wr s Reg.EXTENT.EXT_CMD_STATUS.BUSY 0 with ext := { s.ext with cmd := none } } ∧
    (due → exec (.extentDrainTimeout i) s = .next (report (cnt (extFree s n) Reg.EXTENT.EXT_COUNT_A.FORCED_REVOKES) fExt 0x0D 1 0 n
      (packBits [(0, 12, e.ep), (12, 12, e.tenant), (24, 8, e.xgen)]))) ∧
    (¬ due → exec (.extentDrainTimeout i) s = .next s)

/-! ### Time, timers and jigs (03) -/

/-- Ticks, time words, timers, snapshots and jig tables (R90 to R95, R99, R101, R104, R105, R328, R373, R377, R407, R412). Time runs to the next tick
start, but stands still after a thermal trip. On a half whose link carries frames a time word goes out every 8 ticks with the master mark and the time, and
the peer's is kept; marked, on a reference port and echoing ours, it gives an offset in LINK mode. A valid offset steps, slews or alarms by the time state.
A reference lost for four exchanges begins holdover, and one that outlasts HOLDOVER_US ends UNSYNC. TIME_SRC and REACQUIRE start the state anew. An edge
in PIN mode is the nearest tick start. A timer that is enabled and held by a RUNNING function fires in its slot, PERIOD ticks after the last firing. A
snapshot request takes effect at SNAPSHOT_DONE. Staging writes change the staged jig entry unless a commit is in progress; a commit copies the staged table,
which is checked while the scheduler core runs, and is rejected, armed for its instant, or late; an armed table becomes the active one at its instant,
and the staging bank is then filled from it. A command out of its time or state changes nothing.
Each of these answers a next state where its clause says so: TICK_START, TIME_WORD_SEND, TIME_LCB_RECEIVE, TIME_REFERENCE_LOSS, HOLDOVER_EXPIRED,
REACQUIRE, TIME_SRC_WRITE, TICK_IN_EDGE, GTIMER_FIRE, SNAPSHOT_REQ, SNAPSHOT_DONE, JIG_STAGE_WRITE, JIG_COMMIT, JIG_VALIDATION_DONE, JIG_TABLE_SWAP,
JIG_STAGE_REFILL_DONE. -/
def Obligations.TimeTimersAndJigs : Prop :=
  (∀ s : State, exec .tickStart s =
    .next (if s.pw.tripped then s else newTick (passKerf { s with now := s.now + (4096 - s.time.toNat % 4096), time := s.time + BitVec.ofNat 64 (4096 - s.time.toNat % 4096) } s.time.toNat))) ∧
  (∀ (s : State) (h : BitVec 8) (lcb : BitVec 256),
    let n := h.toNat
    let w := (findKey s.tick.words n).getD (0, 0)
    let up := halfIs s n = true ∧ (linkState s n = 2 ∨ linkState s n = 3)
    let due := ∀ at_, findKey s.tick.sent n = some at_ → at_ + ticks 8 ≤ s.now
    let a := bits lcb.toNat 32 64
    let b := bits lcb.toNat 96 64
    let c := bits lcb.toNat 160 64
    let u := { s with tick := { s.tick with words := setKey s.tick.words n (a, s.time.toNat) } }
    let src := rd s Reg.TICK.TIME_CFG.TIME_SRC
    let refs := refsOf u (n / 2)
    let good := up ∧ lcbIs lcb 1 = true
    let gives := rd u Reg.TICK.TIME_CFG.TIME_SRC = 1 ∧ bits lcb.toNat 8 8 = 2 ∧ (b, c) ≠ (0, 0) ∧ refs ≠ []
    (up → due → exec (.timeWordSend h) s =
      .next (sendLcb { s with tick := { s.tick with sent := setKey s.tick.sent n s.now } } n 1 (if src = 0 then 1 else 0) s.time.toNat w.1 w.2)) ∧
    (¬ up ∨ ¬ due → exec (.timeWordSend h) s = .next s) ∧
    (¬ good → exec (.timeLcbReceive h lcb) s = .next s) ∧
    (good → ¬ gives → exec (.timeLcbReceive h lcb) s = .next u) ∧
    (good → gives →
      let o : Int := (((s.time.toNat : Int) - a) - ((c : Int) - b)) * 8
      let v := refs.foldl (fun s i => { s with tick := { s.tick with refs := setKey s.tick.refs i (o, s.now) } }) u
      exec (.timeLcbReceive h lcb) s = .next (timeStatus (validOffset v (median (liveOffsets v)))))) ∧
  (∀ (s : State) (o : Int),
    let u := { s with tick := { s.tick with offset := o, lastValid := s.now } }
    let slew := -(o / 16)
    let near := o.natAbs * 10 ≤ 1024
    let close := o.natAbs * 10 ≤ 4096
    (s.tick.st = 0 → validOffset s o = stepTime (setTimeState u 1)) ∧
    (s.tick.st = 1 → 1024 < o.natAbs → validOffset s o = stepTime u) ∧
    (s.tick.st = 1 → o.natAbs ≤ 1024 → ¬ near → validOffset s o = { u with tick := { u.tick with small := 0 } }) ∧
    (s.tick.st = 1 → near → s.tick.small + 1 < 16 → validOffset s o = { u with tick := { u.tick with small := s.tick.small + 1 } }) ∧
    (s.tick.st = 1 → near → 16 ≤ s.tick.small + 1 →
      validOffset s o = setTimeState { u with tick := { u.tick with small := 0, large := 0, slew := slew } } 2) ∧
    (s.tick.st = 2 → close → validOffset s o = { u with tick := { u.tick with large := 0, slew := slew } }) ∧
    (s.tick.st = 2 → ¬ close → s.tick.large + 1 < 4 → validOffset s o = { u with tick := { u.tick with large := s.tick.large + 1, slew := slew } }) ∧
    (s.tick.st = 2 → ¬ close → 4 ≤ s.tick.large + 1 → validOffset s o = alignAlarm u) ∧
    (3 ≤ s.tick.st → close → validOffset s o = setTimeState { u with tick := { u.tick with large := 0, slew := slew } } 2) ∧
    (3 ≤ s.tick.st → ¬ close → validOffset s o = alignAlarm u)) ∧
  (∀ (s : State) (w : Writer),
    let src := rd s Reg.TICK.TIME_CFG.TIME_SRC
    let lost := s.tick.st = 2 ∧ src ≠ 0 ∧ s.tick.lastValid + 4 * ticks 8 ≤ s.now
    let ended := s.tick.st = 3 ∧ s.tick.holdAt + us (rd s Reg.TICK.TIME_CFG.HOLDOVER_US) ≤ s.now
    let loaded := { s with tick := { s.tick with loaded := true } }
    let m := wr loaded Reg.TICK.TIME_CFG.TIME_SRC 0
    let d := s.time.toNat % 4096
    (lost → exec .timeReferenceLoss s = .next (setTimeState { s with tick := { s.tick with holdAt := s.now } } 3)) ∧
    (¬ lost → exec .timeReferenceLoss s = .next (timeStatus s)) ∧
    (ended → exec .holdoverExpired s = .next (timeRecord (wr (setTimeState s 0) Reg.TICK.TIME_STATUS.HOLDOVER_EXPIRED 1) 3)) ∧
    (¬ ended → exec .holdoverExpired s = .next s) ∧
    (src ≠ 0 → exec .reacquire s = .next (unsync s)) ∧ (src = 0 → exec .reacquire s = .next s) ∧
    exec (.timeSrcWrite w 0) s = .next (setTimeState { m with tick := { m.tick with slew := 0, small := 0, large := 0 } } 2) ∧
    (∀ k : BitVec 2, k = 1 ∨ k = 2 → exec (.timeSrcWrite w k) s = .next (unsync (wr loaded Reg.TICK.TIME_CFG.TIME_SRC k.toNat))) ∧
    exec (.timeSrcWrite w 3) s = .next (regError s w 0x100000 4 true 4) ∧
    (∀ gone : Bool,
      let u := wr (if gone then cdcLost s 6 else s) Reg.TICK.TICK_PIN_CFG.IN_EDGE_SEEN 1
      (rd u Reg.TICK.TIME_CFG.TIME_SRC = 2 →
        exec (.tickInEdge gone) s = .next (timeStatus (validOffset u (16 * (if d < 2048 then (d : Int) else (d : Int) - 4096))))) ∧
      (rd u Reg.TICK.TIME_CFG.TIME_SRC ≠ 2 → exec (.tickInEdge gone) s = .next u))) ∧
  (∀ (s : State) (k : Fin 32),
    let fires := fun (f : Nat) => rdb s (Reg.TICK.GTIMER.ENABLE k) = true ∧ running s f = true ∧ slotNo s = rd s (Reg.TICK.GTIMER.SLOT k) ∧
      ∀ t, findKey s.tick.gtNext k.val = some t → t ≤ tickNo s
    (∀ f, timerHolder s k.val = some f → fires f →
      let u := cnt s (Reg.TICK.GTIMER.FIRE_COUNT k)
      exec (.gtimerFire k) s = .next (timerReaches { u with tick := { u.tick with
        gtNext := setKey u.tick.gtNext k.val (tickNo u + rd u (Reg.TICK.GTIMER.PERIOD k)) } } f k.val)) ∧
    ((∀ f, timerHolder s k.val = some f → ¬ fires f) → exec (.gtimerFire k) s = .next s)) ∧
  (∀ (s : State) (b : SnapBlk),
    let f := snapFlds b
    let u := snapSource s b
    let held := (u.regs.filter (fun e => snapCovers b e.1)).foldl (fun h e => setKey h e.1 e.2) (u.hold.filter (fun e => !snapCovers b e.1))
    (rdb s f.1 = false → exec (.snapshotReq b) s = .next { wrs s [(f.1, 1), (f.2.1, 0)] with snaps := setKey s.snaps f.1.key s.now }) ∧
    (rdb s f.1 = true → exec (.snapshotReq b) s = .next (wr s f.2.2 1)) ∧
    (rdb s f.1 = true → exec (.snapshotDone b) s = .next { wrs u [(f.1, 0), (f.2.1, 1)] with hold := held, snaps := delKey u.snaps f.1.key }) ∧
    (rdb s f.1 = false → exec (.snapshotDone b) s = .next s)) ∧
  (∀ (s : State) (w : Writer) (j : BitVec 12) (k : Fin 4) (v : BitVec 64) (target : BitVec 52),
    let n := j.toNat
    let x := v.toNat
    let check := jigCheck s (jigTable s.jig.copy)
    let runs := procAway s 3 = false
    let goal := if s.jig.target = 0 then (s.time.toNat + 127) / 4096 + 1 else s.jig.target
    let u := { s with jig := { s.jig with target := goal } }
    let past := 4096 * (s.jig.target - 1) + 3968 ≤ s.time.toNat
    let put := fun (f : Fld) => Host.Outcome.next (wr s f x)
    (jigBusy s = true → exec (.jigStageWrite w j k v) s = .next (regError s w (0x110000 + n * 0x20 + 8 * k.val) 8 true 6)) ∧
    (jigBusy s = false →
      exec (.jigStageWrite w j 0 v) s = put (Reg.TICK.JIG_STAGE.IN_PORTS n 0) ∧ exec (.jigStageWrite w j 1 v) s = put (Reg.TICK.JIG_STAGE.IN_PORTS n 1) ∧
      exec (.jigStageWrite w j 2 v) s = put (Reg.TICK.JIG_STAGE.SLOT_MASK n) ∧
      exec (.jigStageWrite w j 3 v) s = .next (wrs s [(Reg.TICK.JIG_STAGE.VALID n, x), (Reg.TICK.JIG_STAGE.OUTPUT n, bits x 1 7),
        (Reg.TICK.JIG_STAGE.KINDS n, bits x 8 3), (Reg.TICK.JIG_STAGE.TENANT_ANY n, bits x 11 1), (Reg.TICK.JIG_STAGE.TCS n, bits x 12 8),
        (Reg.TICK.JIG_STAGE.DEST n, bits x 20 12), (Reg.TICK.JIG_STAGE.DEST_MASK n, bits x 32 12), (Reg.TICK.JIG_STAGE.TENANT n, bits x 44 12)])) ∧
    (jigBusy s = true → exec (.jigCommit w target) s = .next (regError s w 0x100108 8 true 6)) ∧
    (jigBusy s = false → exec (.jigCommit w target) s = .next (setJigStatus { s with jig := { s.jig with
      copy := bankOf s jigStageKey, target := target.toNat, commitAt := s.now } } 1 (0, 0, 0, 0))) ∧
    (jigStatus s ≠ 1 ∨ ¬ runs → exec .jigValidationDone s = .next s) ∧
    (∀ c, jigStatus s = 1 → runs → check = some c → exec .jigValidationDone s = .next (setJigStatus s 4 c)) ∧
    (jigStatus s = 1 → runs → check = none →
      exec .jigValidationDone s = .next (setJigStatus u (if 4096 * (goal - 1) + 3968 < s.time.toNat then 5 else 2) (0, 0, 0, 0))) ∧
    (jigStatus s = 2 → past → runs →
      exec .jigTableSwap s = .next (setJigStatus { setBank s jigActiveKey s.jig.copy with jig := { s.jig with
        swapAt := s.now, tail := some (s.jig.target - 1, slotPairs s 61) } } 6 (0, 0, 0, 0))) ∧
    (jigStatus s = 2 ∧ ¬ runs ∨ jigStatus s = 1 ∧ s.jig.target ≠ 0 → past → exec .jigTableSwap s = .next (setJigStatus s 5 (0, 0, 0, 0))) ∧
    (¬ past ∨ jigStatus s ≠ 2 ∧ (jigStatus s ≠ 1 ∨ s.jig.target = 0) → exec .jigTableSwap s = .next s) ∧
    (jigStatus s = 6 → exec .jigStageRefillDone s = .next (setJigStatus (setBank s jigStageKey (bankOf s jigActiveKey)) 3 (0, 0, 0, 0))) ∧
    (jigStatus s ≠ 6 → exec .jigStageRefillDone s = .next s))

/-! ### Cell events (05, 09, 11, 15) -/

/-- Cell events (R24, R51, R66, R98, R126, R133 to R136, R142, R185, R220 to R241, R294 to R296, R372, R377). INIT seeds the random state, starts the cell's
ticks and runs its entry; TICK and TIMER start theirs when due, where the cell may start one. Homed requests, ownership requests, gathers, responses and
header copies reach their cell as events; a packet of another kind is none, and a lookup that meets an uncorrectable error waits while the core that
repairs it is away. An OWN that stands at its target is answered or relayed there; a response whose COOKIE names another port is discarded and counted. A
homed request is answered UNSUPPORTED, absorbed, answered from the ledger or placed; what has no place is parked, 256 at most. The four ownership
operations act on the record by the table of R295. An onward attempt that times out ends, unless an answer stamped before then is on its way to the cell, and a ledger entry past its time is freed; before their times
nothing changes.
Each of these answers a next state where its clause says so: HOMED_REQ, GATHER, OWN_QUERY, OWN_ACQUIRE, OWN_RELEASE, OWN_PUBLISH, RESPONSE,
CELL_INIT, CELL_TICK, CELL_TIMER, HEADER_COPY, ONWARD_ATTEMPT_TIMEOUT, LEDGER_ENTRY_EXPIRE, ATOMIC. -/
def Obligations.CellEvents : Prop :=
  (∀ (s : State) (p : Packet) (ecc : Option (BitVec 23)),
    let h := p.h
    let home := homeCell h.addr.toNat
    let op := h.x 32 4
    let c := respCookie h
    let x := 128 + bits c 24 8
    let g := gatherCell h.src.toNat h.tag.toNat
    let homed := h.homed = true ∧ h.k ≠ some .own
    let waits := repairWaits s home ecc = true
    let mine := (match h.k with | some .notice => h.x 0 8 == 1 | some k => k.isResponse | none => false) = true ∧ x < 224
    let direct := bits c 16 8 < 128 ∧ cellPort (cookieCell c) = x
    (¬ homed ∨ waits → exec (.homedReq p ecc) s = .next s) ∧
    (homed → ¬ waits → cellRule (.homedReq p ecc) s home 3 p (fun s => homedReq (repaired s home ecc) home h)) ∧
    (h.k ≠ some .gather → exec (.gather p) s = .next s) ∧
    (h.k = some .gather → cellRule (.gather p) s g 7 p (fun s => gatherReq s g p)) ∧
    (∀ d ∈ [(Instr.ownQuery p ecc, decide (op = 0 ∨ 3 < op)), (.ownAcquire p ecc, decide (op = 1)), (.ownRelease p ecc, decide (op = 2)),
        (.ownPublish p ecc, decide (op = 3))],
      let own := h.k = some .own ∧ d.2 = true
      let there := [224, 225, 226, 227].find? (fun y => s.inbox.contains (y, p))
      (¬ own → exec d.1 s = .next s) ∧
      (∀ y, own → there = some y → exec d.1 s = .next (targetArrive s y p .own)) ∧
      (own → there = none → waits → exec d.1 s = .next s) ∧
      (own → there = none → ¬ waits → cellRule d.1 s home 8 p (fun s => ownServe (repaired s home ecc) home h))) ∧
    (¬ mine → exec (.response p) s = .next s) ∧
    (mine → direct → cellRule (.response p) s (cookieCell c) 4 p (fun s => cellResponse s (cookieCell c) p)) ∧
    (mine → ¬ direct → notArrived (.response p) s x p ∧
      (arrived s x p → exec (.response p) s = .next (cnt (takeIn s x p) (Reg.CLUSTER.CL_COUNT_B.MISDELIVERED ((x - 128) / 2)))))) ∧
  (∀ (s : State) (l : Fin 6144),
    let i := imageOf s (l / 128)
    let due := l.val ∈ s.cells.initDue ∧ cellRun s l = none ∧ emitRoom s l 0 = true
    let v := taskBegin (seedRand { s with cells := { s.cells with initDue := s.cells.initDue.filter (fun x => x != l.val) } } l) (tickTask l) 4096
    (¬ due → exec (.cellInit l) s = .next s) ∧
    (due → i.stock = true → exec (.cellInit l) s = .next (stockHandler v l [] (fun s => s))) ∧
    (∀ e, due → i.stock = false → imgEntry i 0 = some e → exec (.cellInit l) s = .next (startHandler v l 0 v.time.toNat [] none e)) ∧
    (due → i.stock = false → imgEntry i 0 = none → exec (.cellInit l) s = .next v)) ∧
  (∀ (s : State) (l : Fin 6144),
    let may := clServes s (l / 128) = true ∧ tickWaits s l = true ∧ mayStart s l 1 = true
    let n := taskNominal s (tickTask l)
    let area := leBytes 8 n ++ leBytes 8 (watermark s n)
    let i := imageOf s (l / 128)
    let u := taskRun s (tickTask l) 4096
    (¬ may → exec (.cellTick l) s = .next s) ∧
    (may → i.stock = true → exec (.cellTick l) s = .next (stockHandler u l area (fun s => stockTick s l (n / 4096)))) ∧
    (∀ e, may → i.stock = false → imgEntry i 1 = some e → exec (.cellTick l) s = .next (startHandler u l 1 n area none e))) ∧
  (∀ (s : State) (l : Fin 6144) (k : Fin 32),
    let i := imageOf s (l / 128)
    let q := ((findKey s.cells.timers (32 * l.val + k.val)).getD []).drop 1
    let u := { s with cells := { s.cells with
      timers := if q.isEmpty then delKey s.cells.timers (32 * l.val + k.val) else setKey s.cells.timers (32 * l.val + k.val) q } }
    (timerNext s l k = none ∨ clServes s (l / 128) = false → exec (.cellTimer l k) s = .next s) ∧
    (∀ t, timerNext s l k = some t → clServes s (l / 128) = true →
      (i.stock = true ∨ imgEntry i 2 = none → exec (.cellTimer l k) s = .next u) ∧
      (∀ e, i.stock = false → imgEntry i 2 = some e →
        (mayStart s l 2 = false → exec (.cellTimer l k) s = .next s) ∧
        (mayStart s l 2 = true → exec (.cellTimer l k) s =
          .next (startHandler (taskRunAt u (8192 + 32 * l.val + k.val) (timerPeriod s k) t.1) l 2 t.2 [] none e))))) ∧
  (∀ (s : State) (n : Nat),
    (s.tel.copies[n]? = none → exec (.headerCopy n) s = .next s) ∧
    (∀ c, s.tel.copies[n]? = some c →
      let lost := exec (.headerCopy n) s = .next (cnt (dropCopy s n) Reg.TELEMETRY.FF_COUNT.VERDICT_LOST)
      let b := (cellQueue s c.cell).length
      let t := deliverCopy s n c
      (c.behind.isSome = true → clServes s (c.cell / 128) = false → lost) ∧
      (c.behind.isSome = true → clServes s (c.cell / 128) = true →
        let first := c.behind = some 0 ∧ (∀ x ∈ s.tel.copies.take n, x.cell = c.cell → x.behind = none) ∧ mayStart s c.cell 10 = true
        (first → exec (.headerCopy n) s = .next (copyEvent (dropCopy s n) c)) ∧ (¬ first → exec (.headerCopy n) s = .next s)) ∧
      (c.behind = none → running s (fCluster (c.cell / 128)) = false → lost) ∧
      (c.behind = none → running s (fCluster (c.cell / 128)) = true → readySmall s c.cell = false → exec (.headerCopy n) s = .next s) ∧
      (c.behind = none → running s (fCluster (c.cell / 128)) = true → readySmall s c.cell = true →
        exec (.headerCopy n) s = .next (startCopy t (t.tel.copies.length - 1) { c with behind := some b })))) ∧
  (∀ (s : State) (l : Fin 6144) (tag : BitVec 16) (way : BitVec 9),
    let dove := (comb s l.val).doves.find? (fun d => d.tag == tag.toNat)
    let due := fun (d : Dove) => stockActs s l.val = true ∧ (doveOut s l.val (if d.cls = 3 then 4 else 1) tag.toNat).isSome = true ∧
      emitRoom s l.val 1 = true ∧ d.sentAt + us (rd s Reg.COMBINE.COMB_CFG.ONWARD_ATTEMPT_US) ≤ s.now ∧
      ∀ p ∈ onWay s (cellPort l.val), answersInTime s l.val d p = false
    let k := 512 * l.val + way.toNat
    (∀ d, dove = some d → due d →
      exec (.onwardAttemptTimeout l tag) s = .next (flushReplies (reuse (attemptEnded s l.val { d with timedOut := true }) l.val) l.val)) ∧
    ((∀ d, dove = some d → ¬ due d) → exec (.onwardAttemptTimeout l tag) s = .next s) ∧
    (∀ e, findKey s.cells.ledger k = some e → ledOver s e = true →
      exec (.ledgerEntryExpire l way) s = .next (flushReplies (reuse (freeLedger s k) l.val) l.val)) ∧
    ((∀ e, findKey s.cells.ledger k = some e → ledOver s e = false) → exec (.ledgerEntryExpire l way) s = .next s)) ∧
  (∀ (s : State) (l : Nat) (h : Hdr),
    let atomic := h.k = some .atomic
    let new := ¬ (atomic ∧ atomicBad h = true) ∧ absorbed s l h = false
    let c := comb s l
    let ends := fun (u : State) => homedReq s l h = flushReplies u l
    let p : Packet := { h := h }
    (atomic → atomicBad h = true → ends (cellAnswer s l h ccUnsupported 0 0 0)) ∧
    (¬ (atomic ∧ atomicBad h = true) → absorbed s l h = true → ends s) ∧
    (new → ¬ (atomic ∧ h.retry = true) → ends (placeOrPark s l p)) ∧
    (new → atomic → h.retry = true →
      (ledFind s l h false = none → ends (cellAnswer (cnt s Reg.COMBINE.COMB_COUNT_C.RETRY_STALE_SENT) l h ccRetryStale 0 0 0)) ∧
      (∀ k e, ledFind s l h false = some (k, e) →
        (e.ccode = 0xFF → ends (placeOrPark (reuse (freeLedger s k) l) l p)) ∧
        (e.ccode ≠ 0xFF → ends (cellAnswer (cnt s Reg.COMBINE.COMB_COUNT_C.LEDGER_HITS) l h e.ccode 0 e.result 0)))) ∧
    (∀ t, place s l p = some t → placeOrPark s l p = t) ∧
    (place s l p = none → 256 ≤ c.parked.length → placeOrPark s l p = cnt s Reg.COMBINE.COMB_COUNT_C.PARK_DISCARDS) ∧
    (place s l p = none → c.parked.length < 256 → placeOrPark s l p = ledFull (setComb s l { c with parked := c.parked ++ [p] }) l h)) ∧
  (∀ (s : State) (l : Nat) (h : Hdr),
    let r := ownFind s l h.addr.toNat
    let src := h.src.toNat
    let op := h.x 32 4
    let does := fun (u : State) (cc detail res res2 : Nat) => ownDo s l h = ownAnswer u l h cc detail res res2
    (∀ k e, r = some (k, e) → e.tenant ≠ h.tenant.toNat → does s ccDenied 2 0 0) ∧
    (∀ k e, r = some (k, e) → e.tenant = h.tenant.toNat →
      (op = 0 → does s ccOk 0 e.version e.owner) ∧
      (op = 1 → e.owner = 0xFFF ∨ e.owner = src → does (ownWrite s k { e with owner := src }) ccOk 0 e.version src) ∧
      (op = 1 → e.owner ≠ 0xFFF → e.owner ≠ src → does s ccNotOwner 0 e.version e.owner) ∧
      (op = 2 → e.owner = src → does (ownWrite s k { e with owner := 0xFFF }) ccOk 0 e.version 0xFFF) ∧
      (op = 2 ∨ op = 3 → e.owner ≠ src → does s ccNotOwner 0 e.version e.owner) ∧
      (op = 3 → e.owner = src → h.x 64 64 ≠ e.version → does s ccStaleVersion 0 e.version e.owner) ∧
      (op = 3 → e.owner = src → h.x 64 64 = e.version →
        does (ownWrite s k { e with version := (e.version + 1) % 2 ^ 64 }) ccOk 0 ((e.version + 1) % 2 ^ 64) e.owner)) ∧
    (r = none →
      (op = 0 → does s ccOk 0 0 0xFFF) ∧ (op = 2 ∨ op = 3 → does s ccNotOwner 0 0 0xFFF) ∧
      (∀ k, op = 1 → (ownWays l h.addr.toNat).find? (fun k => (findKey s.cells.owned k).isNone) = some k →
        does (ownWrite s k { base := h.addr.toNat, tenant := h.tenant.toNat, owner := src, version := 0, changed := 0 }) ccOk 0 0 src) ∧
      (op = 1 → (∀ k ∈ ownWays l h.addr.toNat, findKey s.cells.owned k ≠ none) → does (cnt s Reg.EXTENT.OWN_COUNT.BUCKET_FULL) ccUnsupported 0 0 0)))

/-! ### Swarms (08) -/

/-- Swarm events (R51, R98, R99, R200 to R219, R377, R442). Tiles, acknowledgements, resend requests, credit requests and abort packets reach the home
or control cell by their TILE_INDEX and SOP, and a packet of another kind, index or SOP changes nothing. A tile that may not contribute is discarded and
counted; of an operation that is silent it is dropped; the first of its slot is taken whole, a further one is added, a repeated one is counted or its result
resent. An acknowledgement is noted at the result, an early or repeated one counted. A credit request gets its credit, opens the next operation, or gets
the stored abort. Credit windows, admission, deadlines and re-sends act when due and not before, and while the scheduler core is away none of its work
is done. The manager aborts the newest open operation. At a member a CREDIT raises the limit and sends the tiles that it allows, a SWARM_RESULT is taken
by the contributions that it names, an ABORT ends every contribution from that operation on, each of an aborted operation is dropped, and an
unanswered credit request is repeated.
Each of these answers a next state where its clause says so: SWARM_ACK, SWARM_TILE, SWARM_RESEND, SWARM_CREDIT_REQ, SWARM_ABORT_REQ,
SWARM_ABORT_SEEN, SWARM_ABORT_RELAY, SWARM_ABORT_OP, SWARM_ADMISSION, SWARM_CREDIT_WINDOW, SWARM_ABORT_RESEND, SWARM_ABORT_RESEND_LIMIT,
SWARM_DEADLINE_TIMEOUT, SWARM_RESULT_RESEND, SWARM_CREDIT_RECEIVE, SWARM_RESULT_RECEIVE, SWARM_ABORT_APPLY, SWARM_CREDIT_REQ_REPEAT. -/
def Obligations.Swarms : Prop :=
  (∀ (s : State) (p : Packet),
    let k := p.h.x 0 8
    let op := p.h.x 32 32
    let i := p.h.x 64 32
    let home := swarmCell k op i
    let ctl := controlCell k op
    let core := fromCore s ctl p
    let ack := p.h.k = some .swarmAck
    let on := fun (lo hi : Nat) => ack ∧ 0xFFFFFFF0 + lo ≤ i ∧ i ≤ 0xFFFFFFF0 + hi
    let relay := on 1 5
    (p.h.k ≠ some .swarmTile → exec (.swarmTile p) s = .next s) ∧
    (p.h.k = some .swarmTile → cellRule (.swarmTile p) s home 5 p (fun s => swarmTile s home p)) ∧
    (∀ c ∈ [(Instr.swarmAck p, decide (p.h.x 16 4 ≠ 1)), (.swarmResend p, decide (p.h.x 16 4 = 1))],
      (¬ ack ∨ c.2 = false → exec c.1 s = .next s) ∧
      (ack → c.2 = true → i < 0xFFFFFFF0 → cellRule c.1 s home 6 p (fun s => swarmAck s home p)) ∧
      (on 6 14 → c.2 = true → cellRule c.1 s ctl 6 p (fun s => swDiscard s k)) ∧
      (on 0 5 ∨ on 15 15 → exec c.1 s = .next s)) ∧
    (¬ on 0 0 → exec (.swarmCreditReq p) s = .next s) ∧ (on 0 0 → cellRule (.swarmCreditReq p) s ctl 6 p (fun s => creditReq s p.h)) ∧
    (¬ relay → exec (.swarmAbortReq p) s = .next s) ∧ (relay → cellRule (.swarmAbortReq p) s ctl 6 p (fun t => abortReqIn t p.h core)) ∧
    (¬ on 15 15 → exec (.swarmAbortSeen p) s = .next s) ∧ (on 15 15 → cellRule (.swarmAbortSeen p) s ctl 6 p (fun s => abortSeenIn s p.h)) ∧
    (¬ relay → exec (.swarmAbortRelay p) s = .next s) ∧ (relay → notArrived (.swarmAbortRelay p) s 228 p) ∧
    (relay → arrived s 228 p → exec (.swarmAbortRelay p) s = .next (offer (noteSource (trace (takeIn s 228 p) 3 2 0x0301 k (i - 0xFFFFFFF0)) k op
      (i - 0xFFFFFFF0) (p.h.x 8 8) 1) 229 p))) ∧
  (∀ (s : State) (l : Nat) (p : Packet),
    let k := p.h.x 0 8
    let op := p.h.x 32 32
    let m := p.h.x 8 8
    let b := op % 2
    let j := swLocal s k (p.h.x 64 32)
    let held := slotOf s k b j
    let tile := fun t => swarmTile s l p = t
    let takes := contribOk s p = true ∧ swSilent s k op = false
    let ack := fun t => swarmAck s l p = t
    let good := swIndexOk s p.h = true ∧ p.h.x 16 4 ≤ 1
    (contribOk s p = false → tile (swDiscard s k)) ∧
    (contribOk s p = true → swSilent s k op = true → tile s) ∧
    (takes → held = none → tile (firstTile s l k b j p)) ∧
    (∀ x, takes → held = some x →
      (x.opseq ≠ op → opNewer op x.opseq = true → tile (firstTile s l k b j p)) ∧
      (x.opseq ≠ op → opNewer op x.opseq = false → tile (swDiscard s k)) ∧
      (x.opseq = op → x.formed = true → (∃ a ∈ x.acks, a.1 = m) → tile (swDup s k)) ∧
      (x.opseq = op → x.formed = true → (∀ a ∈ x.acks, a.1 ≠ m) → x.ended = true → tile (swDiscard s k)) ∧
      (x.opseq = op → x.formed = true → (∀ a ∈ x.acks, a.1 ≠ m) → x.ended = false → tile (resendTo s l k b j m x)) ∧
      (x.opseq = op → x.formed = false → (∃ c ∈ x.counted, c.1 = m) → tile (swDup s k)) ∧
      (x.opseq = op → x.formed = false → (∀ c ∈ x.counted, c.1 ≠ m) → tile (addTile s l k b j x p))) ∧
    (¬ good → ack (swDiscard s k)) ∧ (good → held = none → ack (swDup s k)) ∧
    (∀ x, good → held = some x →
      let live := x.opseq = op ∧ x.ended = false
      let y := { x with acks := x.acks ++ [(m, p.stamp)] }
      (¬ live → ack (swDiscard s k)) ∧ (live → x.formed = false → ack (swDup s k)) ∧
      (live → x.formed = true → p.h.x 16 4 = 1 → ack (resendTo s l k b j m x)) ∧
      (live → x.formed = true → p.h.x 16 4 = 0 → (∃ a ∈ x.acks, a.1 = m) → ack s) ∧
      (live → x.formed = true → p.h.x 16 4 = 0 → (∀ a ∈ x.acks, a.1 ≠ m) →
        ack (setSlot s k b j { y with ended := y.acks.length == swMembers s k })))) ∧
  (∀ (s : State) (h : Hdr) (core : Bool),
    let k := h.x 0 8
    let op := h.x 32 32
    let on := running s (fSwarm k) = true
    let it := swOp s k op
    let open_ := ∃ o, it = some o ∧ o.isOpen = true
    let credit := fun t => creditReq s h = t
    (¬ on → credit (fromControl s k op (swCtl s k h.src.toNat h.epoch.toNat (swExt k 0 3 5 op 0xFFFFFFFF 0)))) ∧
    (on → controlOk s h false = false → credit (swDiscard s k)) ∧
    (on → controlOk s h false = true →
      (∀ o, it = some o → o.isOpen = true → credit (fromControl s k op (creditPacket s k h.src.toNat (h.x 8 8) o))) ∧
      (¬ open_ → op = swNext s k → credit (openOp s k h)) ∧
      (∀ r, ¬ open_ → op ≠ swNext s k → (swRun s k).stored = some r → r.ended op = true →
        credit (fromControl s k op (abortPacket s k h.src.toNat r))) ∧
      (¬ open_ → op ≠ swNext s k → (∀ r, (swRun s k).stored = some r → r.ended op = false) → credit (swDiscard s k))) ∧
    (
      let cause := h.x 64 32 - 0xFFFFFFF0
      let asks := fun t => abortReqIn s h core = t
      (controlOk s h core = false → asks (swDiscard s k)) ∧
      (controlOk s h core = true → it = none → asks s) ∧
      (∀ o, controlOk s h core = true → it = some o →
        (o.isOpen = true → asks (decide_ s k o cause (h.x 8 8) (if core then sourceOf s k op cause (h.x 8 8) else 0))) ∧
        (o.isOpen = false → asks (cnt s (Reg.SWARM.SWARM_COUNT_C.ABORT_REQ_IGNORED k)))))) ∧
  (∀ (s : State) (w : Writer) (k : BitVec 8),
    let newest := (swOpen s k.toNat).find? (fun o => (swOpen s k.toNat).all (fun x => !opNewer x.opseq o.opseq))
    (w.privileged = false → exec (.swarmAbortOp w k) s = .next (regError s w (0x76C000 + k.toNat * 8) 4 true 5)) ∧
    (∀ o, w.privileged = true → newest = some o → exec (.swarmAbortOp w k) s = .next (coreAbort s k.toNat o.opseq 5 0 3)) ∧
    (w.privileged = true → newest = none → exec (.swarmAbortOp w k) s = .next s)) ∧
  (∀ (s : State),
    let on := procAway s 3 = false
    (taskDue s 3 4096 = true → on → exec .swarmAdmission s = .next (fillPlaces (taskRun s 3 4096) 512)) ∧
    (taskDue s 2 4096 = true → on → exec .swarmCreditWindow s = .next (creditWindow (taskRun s 2 4096))) ∧
    (taskDue s 3 4096 = false ∨ ¬ on → exec .swarmAdmission s = .next s) ∧
    (taskDue s 2 4096 = false ∨ ¬ on → exec .swarmCreditWindow s = .next s)) ∧
  (∀ (s : State) (k : BitVec 8) (op : BitVec 32),
    let it := swOp s k.toNat op.toNat
    let due := fun (o : SwOp) => o.resends < 8 ∧ o.since + ticks (8 * (o.resends + 1)) ≤ s.now
    let last := fun (o : SwOp) => o.isOpen = false ∧ o.resends = 8 ∧ o.since + ticks 72 ≤ s.now
    (∀ o r, it = some o → o.rec_ = some r → due o → exec (.swarmAbortResend k op) s = .next (o.owed.foldl (fun s m =>
      fromControl s k.toNat op.toNat (abortPacket s k.toNat (swEp s k.toNat m) r)) (setOp s k.toNat { o with resends := o.resends + 1 }))) ∧
    ((∀ o r, it = some o → o.rec_ = some r → ¬ due o) → exec (.swarmAbortResend k op) s = .next s) ∧
    (∀ o, it = some o → last o → exec (.swarmAbortResendLimit k op) s =
      .next (swStatus (endOp (cnt s (Reg.SWARM.SWARM_COUNT_C.ABORT_UNSEEN k.toNat) o.owed.length) k.toNat op.toNat) k.toNat)) ∧
    ((∀ o, it = some o → ¬ last o) → exec (.swarmAbortResendLimit k op) s = .next s)) ∧
  (∀ (s : State) (k : BitVec 8) (hi : Bool) (j : BitVec 18),
    let at_ := slotCell s k.toNat (b2n hi) j.toNat
    (at_ = none → exec (.swarmDeadlineTimeout k hi j) s = .next s ∧ exec (.swarmResultResend k hi j) s = .next s) ∧
    (∀ l x, at_ = some (l, x) →
      let d := lateMembers s k.toNat x
      let past := x.ended = false ∧ d.1 ≤ watermark s (tickStart s)
      let due := x.formed = true ∧ x.ended = false ∧ x.resultAt + ticks (16 * (x.resends + 1)) ≤ s.time.toNat
      let y := { x with resends := x.resends + 1 }
      let u := setSlot s k.toNat (b2n hi) j.toNat y
      let ms := (swAll u k.toNat).filter (fun m => !y.acks.any (fun a => a.1 == m))
      let a := accAddr u k.toNat (b2n hi) j.toNat
      let bad := hbmPoisoned u a tileLen = true ∨ tileCrcOk (hbmRdN u a tileLen) = false
      let resent := fun l' => exec (.swarmResultResend k hi j) s = .next (List.foldl (fun s m => resendTo s l k.toNat (b2n hi) j.toNat m y) u l')
      (∀ m ms, d.2 = m :: ms → past → exec (.swarmDeadlineTimeout k hi j) s = .next (cellAbort s l k.toNat x.opseq 1 m)) ∧
      (d.2 = [] ∨ ¬ past → exec (.swarmDeadlineTimeout k hi j) s = .next s) ∧
      (due → ¬ bad → resent ms) ∧ (due → bad → resent (ms.take 1)) ∧ (¬ due → exec (.swarmResultResend k hi j) s = .next s))) ∧
  (∀ (s : State) (e : Fin 2) (p : Packet),
    let t := takeIn s (224 + e.val) p
    let w := p.h.x 0 8
    let k := p.h.x 32 32
    let gone := abortedOp t e.val w k = true
    let mine := t.ep.contribs.filter (fun x => x.ep == e.val && x.swarm == w && atOrAfter x.opseq k)
    let grant := fun (s : State) (x : Contrib) => if x.st = 1 then
      sendTiles (setContrib s { x with limit := newLimit x.limit (p.h.x 96 16) }) x.did (newLimit x.limit (p.h.x 96 16) - x.sent) else s
    (∀ c ∈ [(Instr.swarmCreditReceive e p, Kind.swarmCtl, 2), (.swarmResultReceive e p, .swarmResult, 0), (.swarmAbortApply e p, .swarmCtl, 3)],
      (swArrives p c.2.1 c.2.2 = false → exec c.1 s = .next s) ∧
      (swArrives p c.2.1 c.2.2 = true → notArrived c.1 s (224 + e.val) p) ∧
      (swArrives p c.2.1 c.2.2 = true → arrived s (224 + e.val) p → gone → exec c.1 s = .next t)) ∧
    (arrived s (224 + e.val) p → ¬ gone →
      (swArrives p .swarmCtl 2 = true → exec (.swarmCreditReceive e p) s = .next ((contribsFor t e.val p.h).foldl grant t)) ∧
      (swArrives p .swarmResult 0 = true → exec (.swarmResultReceive e p) s = .next ((contribsFor t e.val p.h).foldl (fun s x => takeResult s p x) t)) ∧
      (swArrives p .swarmCtl 3 = true → exec (.swarmAbortApply e p) s = .next (closeOps (mine.foldl (abortContrib (p.h.x 20 4)) t) e.val w k)))) ∧
  (∀ (s : State) (did : Nat),
    let due := s.ep.contribs.find? (fun x => x.did == did && x.st == 1 && x.limit == 0 && decide (x.asked + ticks 8 ≤ s.now))
    (∀ x, due = some x → exec (.swarmCreditReqRepeat did) s = .next (askCredit s x)) ∧
    (due = none → exec (.swarmCreditReqRepeat did) s = .next s))

/-! ### Faults of cells and of HBM, errors, telemetry (05, 14, 15) -/

/-- Cells and pseudo-channels (R148 to R152, R351 to R354): what each fault, limit, test and retirement of a cell or a pseudo-channel does to its
state, its counts and its records, and when it does nothing.
Each of these answers a next state where its clause says so: SUDDEN_SWAP_COMPLETE, MIGRATION_COMPLETE, CELL_WATCHDOG, CELL_CE, CELL_CE_LIMIT,
CELL_UE, PHYS_CELL_RETIRE, PHYS_CELL_REINSTATE, CELL_TEST_DONE, SPARE_PERIODIC_TEST, HBM_UE_REREAD, HBM_UE_LIMIT, HBM_CE_LIMIT, HBM_INTERFACE_ERROR,
HBM_RETRAIN_DONE, HBM_RETRAIN_FAIL, PC_RETIRE, PC_MIGRATION_DONE, PC_REINSTATE, PC_TEST_DONE. -/
def Obligations.CellAndHbmFaults : Prop :=
  (∀ (s : State) (l : Fin 6144) (ecc : Option (BitVec 23)),
    (findKey s.cells.moves l.val = none →
      exec (.suddenSwapComplete l ecc) s = .next s ∧ exec (.migrationComplete l) s = .next s) ∧
    (∀ m, findKey s.cells.moves l.val = some m →
      let n := l.val / 128
      let u := { s with cells := { s.cells with moves := delKey s.cells.moves l.val } }
      (m.sudden = true → procAway s (4 + n) = false → exec (.suddenSwapComplete l ecc) s = .next (imageReloaded u n ecc)) ∧
      (m.sudden = false ∨ procAway s (4 + n) = true → exec (.suddenSwapComplete l ecc) s = .next s) ∧
      (m.sudden = false → cellRun s l.val = none → procAway s (4 + n) = false → physState s n m.spare = 2 →
        let t := remap (setPhys s n m.from_ 5) n (l.val % 128) m.spare
        let fresh := if eventComes t l.val then l.val :: t.cells.fresh else t.cells.fresh
        let tr := trace t (4 + n) 7 0x0800 l.val (imageOf t n).version
        let v := setRand { tr with cells := { tr.cells with moves := delKey tr.cells.moves l.val, fresh := fresh } } l.val (cellRand s l.val)
        (rd v (Reg.CLUSTER.PHYS_CELL.LAST_FAULT n m.from_) ≠ 8 → exec (.migrationComplete l) s = .next v) ∧
        (rd v (Reg.CLUSTER.PHYS_CELL.LAST_FAULT n m.from_) = 8 →
          exec (.migrationComplete l) s = .next (cellRecord v n m.from_ (l.val % 128) 8 3 0))) ∧
      (m.sudden = true ∨ cellRun s l.val ≠ none ∨ procAway s (4 + n) = true ∨ physState s n m.spare ≠ 2 →
        exec (.migrationComplete l) s = .next s))) ∧
  (∀ (s : State) (l : Fin 6144),
    (∀ r, cellRun s l.val = some r →
      let c := max r.cycles ((s.now - r.since) / 2)
      (2 ^ rd s (Reg.CLUSTER.CE_CFG.WDOG_LOG2 (l.val / 128)) ≤ c → exec (.cellWatchdog l) s = .next (loseRun (cellFaultAt s l.val 5 0) l.val)) ∧
      (c < 2 ^ rd s (Reg.CLUSTER.CE_CFG.WDOG_LOG2 (l.val / 128)) → exec (.cellWatchdog l) s = .next s)) ∧
    (cellRun s l.val = none →
      let up := clServes s (l.val / 128) = true ∧ (imageOf s (l.val / 128)).stock = true ∧ cellFree s l.val = true ∧
        (tickWaits s l.val = true ∨ 0 < cellHeld s l.val)
      (up → exec (.cellWatchdog l) s = .next (cellFaultAt s l.val 5 0)) ∧ (¬ up → exec (.cellWatchdog l) s = .next s))) ∧
  (∀ (s : State) (n : Fin 48) (c : Fin 132) (w : Writer),
    let k := 132 * n.val + c.val
    let ok := physState s n c = 3 ∧ clServes s n = true
    let limit := rd s (Reg.CLUSTER.CE_CFG.CE_LIMIT n) ≤ (ceTimes s n c).length
    (let u := cnt s (Reg.CLUSTER.PHYS_CELL.CE_COUNT n c)
     exec (.cellCe n c) s = .next { u with cells := { u.cells with ce := setKey s.cells.ce k (s.now :: ceTimes s n c) } }) ∧
    (∀ l p, ok → limit → logicalOf s n c = some l → spareOf s n = some p →
      exec (.cellCeLimit n c) s = .next (cellRecord (migrate s n c l p 1) n c l 1 3 0)) ∧
    (¬ ok ∨ ¬ limit ∨ logicalOf s n c = none ∨ spareOf s n = none → exec (.cellCeLimit n c) s = .next s) ∧
    (∀ (cause : BitVec 4) (detail : BitVec 48),
      (2 ≤ cause.toNat → cause.toNat ≤ 4 →
        exec (.cellUe n c cause detail) s = .next (cellFault (cnt s (Reg.CLUSTER.PHYS_CELL.UE_COUNT n c)) n c cause.toNat 0)) ∧
      (cause.toNat = 7 →
        (∀ l, logicalOf s n c = some l → exec (.cellUe n c cause detail) s = .next (cellFault (countException s (128 * n + l)) n c 7 detail.toNat)) ∧
        (logicalOf s n c = none → exec (.cellUe n c cause detail) s = .next (cellFault s n c 7 detail.toNat))) ∧
      (cause.toNat < 2 ∨ (4 < cause.toNat ∧ cause.toNat ≠ 7) → exec (.cellUe n c cause detail) s = .next s)) ∧
    (∀ l, ok → logicalOf s n c = some l →
      let u := cellRecord s n c l 8 3 0
      (∀ p, spareOf u n = some p → exec (.physCellRetire w n c) s = .next (migrate u n c l p 8)) ∧
      (spareOf u n = none → exec (.physCellRetire w n c) s = .next (regError u w (physAddr n c) 8 true 7))) ∧
    (¬ ok → exec (.physCellRetire w n c) s = .next (regError (cellRecord s n c 0 8 3 0) w (physAddr n c) 8 true 7)) ∧
    (let u := cellRecord s n c 0 10 0 0
     (physState u n c = 5 → exec (.physCellReinstate w n c) s = .next
        { testCell u n c with cells := { (testCell u n c).cells with reinst := (132 * n + c) :: (testCell u n c).cells.reinst } }) ∧
     (physState u n c ≠ 5 → exec (.physCellReinstate w n c) s = .next (regError u w (physAddr n c) 8 true 7))) ∧
    (physState s n c = 1 →
      let u := { s with cells := { s.cells with tests := delKey s.cells.tests k, reinst := s.cells.reinst.filter (fun x => x != k) } }
      let v := setPhys { u with cells := { u.cells with ce := delKey u.cells.ce k, tested := setKey u.cells.tested k u.now } } n c 2
      exec (.cellTestDone n c false) s = .next (testFailed u n c) ∧
      (s.cells.reinst.contains k = false → exec (.cellTestDone n c true) s = .next v) ∧
      (s.cells.reinst.contains k = true → exec (.cellTestDone n c true) s = .next (cellRecord v n c 0 10 0 0))) ∧
    (physState s n c ≠ 1 → ∀ pass, exec (.cellTestDone n c pass) s = .next s) ∧
    (let due := ∀ at_, findKey s.cells.tested k = some at_ → at_ + secs 600 ≤ s.now
     let taken := ∃ m ∈ s.cells.moves, m.1 / 128 = n.val ∧ m.2.spare = c.val ∧ m.2.sudden = false
     let u := { s with cells := { s.cells with tested := setKey s.cells.tested k s.now } }
     (physState s n c = 2 → due → ¬ taken →
       exec (.sparePeriodicTest n c true) s = .next u ∧ exec (.sparePeriodicTest n c false) s = .next (testFailed u n c)) ∧
     (physState s n c ≠ 2 ∨ ¬ due ∨ taken → ∀ pass, exec (.sparePeriodicTest n c pass) s = .next s))) ∧
  (∀ (s : State) (m : Fin 24) (k : Fin 64) (w : Writer),
    let i := 64 * m.val + k.val
    let run := pcRun s i
    let ue := pcCounts s i
    let cd := cnt s (Reg.HBM.HBM_COUNT.CORRECTED m)
    let ce := pcCounts (setPc cd i { pcRun cd i with ce := (pcRun cd i).ce ++ [s.now] }) i
    let trains := cnt s (Reg.HBM.HBM_COUNT.RETRAINS m)
    (∀ g : BitVec 35,
      let mine := granulePc g.toNat = i ∨ 2 ≤ pcState s (granulePc g.toNat)
      let u := cnt s (Reg.HBM.HBM_COUNT.UNCORRECTABLE m)
      let v := { u with poison := g.toNat :: u.poison.filter (· != g.toNat) }
      (64 * g.toNat < hbmSize → mine → pcState s i ≠ 1 →
        exec (.hbmUeReread m k g true) s = .next (hbmRecord u i 6 2 (64 * g.toNat)) ∧
        exec (.hbmUeReread m k g false) s =
          .next (hbmRecord (pcCounts (setPc v i { pcRun v i with ue := (pcRun v i).ue ++ [s.now] }) i) i 7 4 (64 * g.toNat))) ∧
      (hbmSize ≤ 64 * g.toNat ∨ ¬ mine ∨ pcState s i = 1 → ∀ good, exec (.hbmUeReread m k g good) s = .next s)) ∧
    (rd ue (Reg.HBM.HBM_CFG.UE_LIMIT m) ≤ (pcRun ue i).ue.length → exec (.hbmUeLimit m k) s = .next (pcFault ue i 2)) ∧
    ((pcRun ue i).ue.length < rd ue (Reg.HBM.HBM_CFG.UE_LIMIT m) → exec (.hbmUeLimit m k) s = .next ue) ∧
    (rd ce (Reg.HBM.HBM_CFG.CE_LIMIT m) ≤ (pcRun ce i).ce.length → exec (.hbmCeLimit m k) s = .next (pcFault ce i 1)) ∧
    ((pcRun ce i).ce.length < rd ce (Reg.HBM.HBM_CFG.CE_LIMIT m) → exec (.hbmCeLimit m k) s = .next ce) ∧
    (pcState s i = 0 → exec (.hbmInterfaceError m k) s =
      .next (hbmRecord (setPcState (setPc trains i { pcRun s i with since := s.now }) i 1) i 8 2 0)) ∧
    (pcState s i = 2 → exec (.hbmInterfaceError m k) s = .next (hbmRecord trains i 8 2 0)) ∧
    (pcState s i = 1 ∨ 2 < pcState s i → exec (.hbmInterfaceError m k) s = .next s) ∧
    (pcState s i = 1 → s.now < run.since + us 50 →
      exec (.hbmRetrainDone m k) s = .next (setPcState s i 0) ∧ exec (.hbmRetrainFail m k) s = .next s) ∧
    (pcState s i = 1 → run.since + us 50 ≤ s.now →
      exec (.hbmRetrainFail m k) s = .next (pcFault s i 3) ∧ exec (.hbmRetrainDone m k) s = .next s) ∧
    (pcState s i ≠ 1 → exec (.hbmRetrainDone m k) s = .next s ∧ exec (.hbmRetrainFail m k) s = .next s) ∧
    (pcState s i = 0 → exec (.pcRetire w m k) s = .next (pcFault s i 4)) ∧
    (pcState s i ≠ 0 → exec (.pcRetire w m k) s = .next (regError s w (pcAddr m k) 8 true 7)) ∧
    (pcState s i = 2 → exec (.pcMigrationDone m k) s = .next (pcNext (retiredPcs (setPcState s i 3) m) (s.mem.queue.length + 1))) ∧
    (pcState s i ≠ 2 → exec (.pcMigrationDone m k) s = .next s) ∧
    (pcState s i = 3 → run.test = false → exec (.pcReinstate w m k) s = .next (setPc s i { run with test := true, since := s.now })) ∧
    (pcState s i = 3 → run.test = true → exec (.pcReinstate w m k) s = .next s) ∧
    (pcState s i ≠ 3 → exec (.pcReinstate w m k) s = .next (regError s w (pcAddr m k) 8 true 7)) ∧
    (run.test = true →
      let u := setPc s i { run with test := false }
      let a := rd s (Reg.HBM.PC_STATUS.DONOR_A m k)
      let b := rd s (Reg.HBM.PC_STATUS.DONOR_B m k)
      exec (.pcTestDone m k true) s = .next (hbmRecord (reserveLeft (retiredPcs (setPcState (wrs u [(Reg.HBM.PC_STATUS.DONOR_A m k, 0x7FF),
        (Reg.HBM.PC_STATUS.DONOR_B m k, 0x7FF)]) i 0) m)) i 9 0 (packBits [(0, 11, a), (11, 11, b)])) ∧
      exec (.pcTestDone m k false) s = .next (hbmRecord (wr u (Reg.HBM.PC_STATUS.LAST_FAULT m k) 5) i 5 3 (packBits [(0, 11, a), (11, 11, b)]))) ∧
    (run.test = false → ∀ pass, exec (.pcTestDone m k pass) s = .next s))

/-- Step aborts, die links, error records and telemetry (R349, R355, R361 to R366, R374, R375, R414): a STEP_CMD of a privileged writer is queued,
recorded and broadcast, then repeated; a die link retrains within 1 ms or is lost after three attempts; records are coalesced, read from the ring
and cleared, and records that wait for the ring when it is disabled are counted as dropped; a telemetry map is written once a tick; and a command that is not due changes nothing.
Each of these answers a next state where its clause says so: STEP_CMD, STEP_REBROADCAST, D2D_ERROR, D2D_RETRAIN_END, ERROR_COALESCE_TICK,
ERR_RING_HEAD_WRITE, ERR_RING_ENABLE, ERR_RING_MSI_TIMER, LOG_CLEAR, ERR_SRC_CLEAR, TELEMETRY_MAP, MIRROR_ENTRY_EXPIRE, TEL_CNT_SAMPLE. -/
def Obligations.StepsErrorsAndTelemetry : Prop :=
  (∀ (s : State) (w : Writer) (tenant : BitVec 12) (epoch : BitVec 8),
    let u := stepStatus { s with err := { s.err with steps := s.err.steps ++ [(tenant.toNat, epoch.toNat, 1, tickNo s)] } }
    (w.privileged = false → exec (.stepCmd w tenant epoch) s = .next (regError s w 0x8100 4 true 5)) ∧
    (w.privileged = true → 64 ≤ s.err.steps.length → exec (.stepCmd w tenant epoch) s = .next (wr s Reg.GLOBAL.STEP_STATUS.OVERRUN 1)) ∧
    (w.privileged = true → s.err.steps.length < 64 →
      exec (.stepCmd w tenant epoch) s = .next (report (stepBroadcast u tenant.toNat epoch.toNat) 467 0x0B 1 0 tenant.toNat epoch.toNat)) ∧
    (∀ e, s.err.steps.find? (stepDue s) = some e →
      let l := if e.2.2.1 = 3 then s.err.steps.erase e else s.err.steps.replace e (e.1, e.2.1, e.2.2.1 + 1, e.2.2.2)
      exec .stepRebroadcast s = .next (stepBroadcast (stepStatus { s with err := { s.err with steps := l } }) e.1 e.2.1)) ∧
    ((∀ e ∈ s.err.steps, tickNo s < e.2.2.2 + 16 * e.2.2.1) → exec .stepRebroadcast s = .next s)) ∧
  (∀ (s : State) (die : Fin 9),
    let lost := { s with sw := { s.sw with d2d := delKey s.sw.d2d die } }
    (dieHeld s die = false → exec (.d2dError die) s = .next (d2dRecord { s with sw := { s.sw with d2d := setKey s.sw.d2d die (1, s.now) } } die 1 2 1)) ∧
    (dieHeld s die = true → exec (.d2dError die) s = .next s) ∧
    (findKey s.sw.d2d die = none → ∀ ok, exec (.d2dRetrainEnd die ok) s = .next s) ∧
    (∀ n at_, findKey s.sw.d2d die = some (n, at_) →
      (s.now < at_ + ms 1 → exec (.d2dRetrainEnd die true) s = .next lost ∧ exec (.d2dRetrainEnd die false) s = .next s) ∧
      (at_ + ms 1 ≤ s.now → exec (.d2dRetrainEnd die true) s = .next s ∧
        (n < 3 → exec (.d2dRetrainEnd die false) s = .next { s with sw := { s.sw with d2d := setKey s.sw.d2d die (n + 1, s.now) } }) ∧
        (3 ≤ n → exec (.d2dRetrainEnd die false) s = .next (dieLost (d2dRecord lost die 2 5 3) die))))) ∧
  (∀ (s : State) (w : Writer) (head : BitVec 32) (n : BitVec 9),
    let step := (head.toNat + 2 ^ 32 - rd s Reg.GLOBAL.ERR_RING_HEAD.HEAD) % 2 ^ 32
    let on := rdb s Reg.GLOBAL.ERR_RING_CFG.ENABLE = true
    (∀ gone : BitVec 5,
      let u := (List.range 5).foldl (fun t i => if bitAt gone.toNat i then cdcLost t i else t) s
      exec (.errorCoalesceTick gone) s = .next ((u.err.pending.map Prod.fst).foldl coalesced u)) ∧
    (∀ k, let m := findKey s.err.pending k
      (m = none ∨ findKey s.err.emitted k = some (tickNo s) → coalesced s k = s) ∧
      (∀ e, m = some e → findKey s.err.emitted k ≠ some (tickNo s) →
        coalesced s k = emitRecord { s with err := { s.err with pending := delKey s.err.pending k } } k e true)) ∧
    (¬ on ∨ step ≤ ringUsed s → exec (.errRingHeadWrite w head) s = .next (overrunRecord (ringFull (wr s Reg.GLOBAL.ERR_RING_HEAD.HEAD head.toNat)))) ∧
    (on → ringUsed s < step → exec (.errRingHeadWrite w head) s = .next (regError s w 0x8010 4 true 7)) ∧
    (¬ on → exec (.errRingEnable true) s = .next (overrunRecord (ringFull (wr (wr s Reg.GLOBAL.ERR_RING_CFG.ENABLE 1) Reg.GLOBAL.ERR_RING_TAIL.TAIL
      (rd s Reg.GLOBAL.ERR_RING_HEAD.HEAD))))) ∧
    (on → exec (.errRingEnable true) s = .next s) ∧
    exec (.errRingEnable false) s = .next (wr (ringLose s) Reg.GLOBAL.ERR_RING_CFG.ENABLE 0) ∧
    (s.err.ringWait = [] → ringLose s = s) ∧
    (s.err.ringWait ≠ [] → rd s Reg.GLOBAL.ERR_RING_STATUS.DROPPED ≠ 0 → ringLose s =
      (let t := wr (cnt s Reg.GLOBAL.ERR_RING_STATUS.DROPPED s.err.ringWait.length) Reg.GLOBAL.ERR_RING_STATUS.OVERRUN_PENDING 1
       { t with err := { t.err with firstDrop := s.err.firstDrop, lastDrop := s.time.toNat, ringWait := [] } })) ∧
    (∀ at_, s.err.ringTimer = some at_ →
      (at_ + ticks 1 ≤ s.now → exec .errRingMsiTimer s =
        .next (sendMsix { s with err := { s.err with unsignalled := 0, ringTimer := none } } (mgrPort s) 0 (rd s Reg.GLOBAL.ERR_RING_CFG.VECTOR))) ∧
      (s.now < at_ + ticks 1 → exec .errRingMsiTimer s = .next s)) ∧
    (s.err.ringTimer = none → exec .errRingMsiTimer s = .next s) ∧
    (∃ t, exec .logClear s = .next t ∧ rd t Reg.GLOBAL.LOG_STATUS.TOTAL = 0 ∧ rd t Reg.GLOBAL.LOG_STATUS.FIRST_FILLED = 0 ∧
      rd t Reg.GLOBAL.LOG_STATUS.LAST_NEXT = 0 ∧ rd t Reg.GLOBAL.LOG_STATUS.LAST_WRAPPED = 0 ∧
      (∀ k j, k < 256 → j < 8 → rd t (Reg.GLOBAL.ERR_LOG.WORD k j) = 0) ∧ t = { s with regs := t.regs }) ∧
    (∃ t, exec (.errSrcClear n) s = .next t ∧ rd t (Reg.GLOBAL.ERR_SRC.COUNT n.toNat) = 0 ∧ rd t (Reg.GLOBAL.ERR_SRC.FIRST_TIME n.toNat) = 0 ∧
      rd t (Reg.GLOBAL.ERR_SRC.FIRST_CLASS n.toNat) = 0 ∧ rd t (Reg.GLOBAL.ERR_SRC.FIRST_CAUSE n.toNat) = 0 ∧
      rd t (Reg.GLOBAL.ERR_SRC.LAST_CLASS n.toNat) = 0 ∧ rd t (Reg.GLOBAL.ERR_SRC.LAST_TIME n.toNat) = 0 ∧
      rd t (Reg.GLOBAL.ERR_SRC.LAST_CAUSE n.toNat) = 0)) ∧
  (∀ (s : State) (key : BitVec 36),
    (running s fTel = true → taskDue s 0 4096 = true →
      let k := taskNominal s 0 / 4096
      let seq := (rd s Reg.TELEMETRY.TEL_STATUS.SEQ + 1) % 2 ^ 32
      let u := taskRun (wrs (alarm (bump (writeMap s k seq) (ctrNo 0x30 4))) [(Reg.TELEMETRY.TEL_STATUS.SEQ, seq), (Reg.TELEMETRY.TEL_LAST_TICK.TICK, k)]) 0 4096
      exec .telemetryMap s = .next { u with tel := { u.tel with marks := u.tel.marks.filter (fun e => decide (firstMap u k ≤ e.1 + 1)) } }) ∧
    (running s fTel = false ∨ taskDue s 0 4096 = false → exec .telemetryMap s = .next s) ∧
    (findKey s.tel.mirror key.toNat = none → exec (.mirrorEntryExpire key) s = .next s) ∧
    (∀ at_, findKey s.tel.mirror key.toNat = some at_ →
      (at_ + rd s Reg.TELEMETRY.MIRROR_CFG.MIRROR_TICKS ≤ tickNo s →
        exec (.mirrorEntryExpire key) s = .next (ffFlows { s with tel := { s.tel with mirror := delKey s.tel.mirror key.toNat } })) ∧
      (tickNo s < at_ + rd s Reg.TELEMETRY.MIRROR_CFG.MIRROR_TICKS → exec (.mirrorEntryExpire key) s = .next s)) ∧
    (rdb s Reg.TELEMETRY.TEL_CNT_SEL.REQ = true → exec .telCntSample s = .next (wrs s
      [(Reg.TELEMETRY.TEL_CNT_VALUE.VALUE, counterValue s (rd s Reg.TELEMETRY.TEL_CNT_SEL.NUMBER)),
       (Reg.TELEMETRY.TEL_CNT_SEL.REQ, 0), (Reg.TELEMETRY.TEL_CNT_SEL.DONE, 1)])) ∧
    (rdb s Reg.TELEMETRY.TEL_CNT_SEL.REQ = false → exec .telCntSample s = .next s))

/-! ### Power, resets and firmware (16, 17) -/

/-- Power, clamp, sensors, resets and boot (R385, R403 to R410, R414, R416, R417): loop steps, the clamp, junction samples, rail events and caps, the
resets from largest to smallest, and the stages of boot; and when each of them changes nothing.
Each of these answers a next state where its clause says so: POWER_LOOP_STEP, CLAMP_ASSERT, CLAMP_RELEASE, JUNCTION_SAMPLE, PEAK_CURRENT,
RAIL_WINDOW, RAIL_WINDOW_RETURN, GPIO_INPUT_EDGE, CDC_RESYNC, PWR_GOOD_FALL, RESET_N_ASSERT, RESET_N_RELEASE, RESET_CMD_WARM, BOOT_STAGE_COMPLETE,
SET_RACK_CAP. -/
def Obligations.PowerAndReset : Prop :=
  (∀ (s : State) (p : BitVec 12),
    let u := stepHolds s p.toNat
    (taskDue u loopTask loopPeriod = true → procState u 2 = 1 → exec (.powerLoopStep p) s = .next (loopStep (taskRun u loopTask loopPeriod) (taskNominal u loopTask) p.toNat)) ∧
    (taskDue u loopTask loopPeriod = false ∨ procState u 2 ≠ 1 → exec (.powerLoopStep p) s = .next u)) ∧
  (∀ (s : State),
    let lo := { s with pw := { s.pw with clampLow := true } }
    let hi := { s with pw := { s.pw with clampLow := false } }
    (s.fw.phase = 0 → exec .clampAssert s = .next lo) ∧
    (s.fw.phase ≠ 0 → ∃ t, exec .clampAssert s = .next t ∧ t = clampOn lo ∧ rd t Reg.POWER.POWER_STATUS.CLAMPED = 1 ∧ t.pw.rose = none) ∧
    (rdb s Reg.POWER.POWER_STATUS.CLAMPED = true → exec .clampRelease s = .next { hi with pw := { hi.pw with rose := some s.time.toNat } }) ∧
    (rdb s Reg.POWER.POWER_STATUS.CLAMPED = false → exec .clampRelease s = .next hi)) ∧
  (∀ (s : State) (l : List (Option Int)),
    let m := (List.range 64).map (fun i => l.getD i none)
    let u := m.zipIdx.foldl sampleOne { s with pw := { s.pw with sampled := some (tickNo s) } }
    let v := sampleLevel u (hottest u m)
    (s.pw.sampled = some (tickNo s) → exec (.junctionSample l) s = .next s) ∧
    (s.pw.sampled ≠ some (tickNo s) → hottest u m = none → exec (.junctionSample l) s = .next v) ∧
    (∀ i c, s.pw.sampled ≠ some (tickNo s) → hottest u m = some (i, c) →
      (c < 944 → exec (.junctionSample l) s = .next (sampleMax v i c)) ∧
      (944 ≤ c → exec (.junctionSample l) s = .next (thermTrip (sampleMax v i c) i c)))) ∧
  (∀ (s : State) (rail : Fin 9) (amps mv : BitVec 16),
    (railPeak rail < amps.toNat → exec (.peakCurrent rail amps) s =
      .next (showLevel (powerRecord { s with pw := { s.pw with peak := some s.time.toNat } } 6 2 rail amps.toNat))) ∧
    (amps.toNat ≤ railPeak rail → exec (.peakCurrent rail amps) s = .next s) ∧
    (mv.toNat < (railWindow rail).1 ∨ (railWindow rail).2 < mv.toNat → s.pw.rails.contains rail.val = false → exec (.railWindow rail mv) s =
      .next (showLevel (powerRecord { s with pw := { s.pw with rails := rail.val :: s.pw.rails } } 7 2 rail mv.toNat))) ∧
    (((railWindow rail).1 ≤ mv.toNat ∧ mv.toNat ≤ (railWindow rail).2) ∨ s.pw.rails.contains rail.val = true →
      exec (.railWindow rail mv) s = .next s) ∧
    exec (.railWindowReturn rail) s = .next (showLevel { s with pw := { s.pw with rails := s.pw.rails.filter (fun r => r != rail.val) } })) ∧
  (∀ (s : State) (pin : Fin 16) (high : Bool),
    (let u := wr s (Reg.MGMT.GPIO_CTL.IN pin) (b2n high)
     exec (.gpioInputEdge pin high false) s = .next u ∧
     exec (.gpioInputEdge pin high true) s = .next (wr u Reg.POWER.CDC_OVERRUN.OVERRUN (rd s Reg.POWER.CDC_OVERRUN.OVERRUN ||| 32))) ∧
    (s.fw.phase = 0 → exec .cdcResync s = .next s) ∧
    (s.fw.phase ≠ 0 → exec .cdcResync s = .next { s with pw := { s.pw with
      cdc := s.pw.cdc.filter (fun d => (d == 8 || d == 9) && rdb s (Reg.HOSTPORT.LINK_STATUS.PERST (d - 8))) } })) ∧
  (∀ (s : State) (w : Writer) (src : BitVec 2) (mgr : Bool),
    exec .pwrGoodFall s = .next (coldReset s) ∧
    (s.fw.phase = 0 → exec .resetNAssert s = .next s) ∧
    (s.fw.phase ≠ 0 → ∃ t, exec .resetNAssert s = .next t ∧ t = warmReset s 1 ∧ rd t Reg.POWER.RESET_STATUS.LAST_RESET = 1 ∧ t.fw.phase = 0) ∧
    (s.fw.phase ≠ 0 → exec (.resetNRelease src mgr) s = .next s) ∧
    (s.fw.phase = 0 → s.fw.cold = false → exec (.resetNRelease src mgr) s = .next (bootBegin (wr s Reg.SECURITY.BOOT_STATUS.BOOT_SRC src.toNat))) ∧
    (s.fw.phase = 0 → s.fw.cold = true → exec (.resetNRelease src mgr) s =
      .next (bootBegin (wrb (wr s Reg.SECURITY.BOOT_STATUS.BOOT_SRC src.toNat) Reg.HOSTPORT.MGR_CTL.MGR_PORT mgr))) ∧
    (w.privileged = false → exec (.resetCmdWarm w) s = .next (regError s w 0x1200048 4 true 5)) ∧
    (w.privileged = true → s.fw.phase ≠ 0 → exec (.resetCmdWarm w) s = .next (bootBegin (warmReset s 2))) ∧
    (w.privileged = true → s.fw.phase = 0 → exec (.resetCmdWarm w) s = .next s)) ∧
  (∀ (s : State) (ok : Bool) (detail : BitVec 32), s.fw.phase ≠ 1 → exec (.bootStageComplete ok detail) s = .next s) ∧
  (∀ (s : State) (ok : Bool) (detail : BitVec 32), s.fw.phase = 1 →
    (bootStage s = 1 → exec (.bootStageComplete ok detail) s = .next (bootIdentity s ok detail.toNat)) ∧
    (bootStage s = 2 → exec (.bootStageComplete ok detail) s = .next (bootDirectory s ok detail.toNat)) ∧
    (bootStage s = 3 → exec (.bootStageComplete ok detail) s = .next (bootVerify s ok detail.toNat)) ∧
    (bootStage s = 4 → exec (.bootStageComplete ok detail) s = .next (bootHbm s ok)) ∧
    (bootStage s = 5 → exec (.bootStageComplete ok detail) s = .next (bootCopy s ok detail.toNat)) ∧
    (bootStage s = 6 → exec (.bootStageComplete ok detail) s = .next (bootRelease s)) ∧
    (bootStage s = 7 → exec (.bootStageComplete ok detail) s = .next (bootApply s))) ∧
  (∀ (s : State) (watts : BitVec 16), mgmtUp s = false → exec (.setRackCap watts) s = .next s) ∧
  (∀ (s : State) (watts : BitVec 16), mgmtUp s = true →
    (500 ≤ watts.toNat → watts.toNat ≤ 3000 → ∃ t, exec (.setRackCap watts) s = .next t ∧ rd t Reg.POWER.RACK_CAP.RACK_CAP_W = watts.toNat ∧
      t = pldmReply (wr s Reg.POWER.RACK_CAP.RACK_CAP_W watts.toNat) 0x31 0) ∧
    (watts.toNat < 500 ∨ 3000 < watts.toNat → exec (.setRackCap watts) s = .next (pldmReply s 0x31 0x02)))

/-- Firmware processors, PLDM updates, molts, attestation and rack link keys (R377, R388 to R398): a processor that fails restarts, or is held at its
third failure in 60 s; an update is requested, written, verified and activated; a molt runs its seven steps or reverts. NEGOTIATE_ALGORITHMS offers
the one algorithm set, the other SPDM requests answer once it is negotiated, and LINK_KEY requests act in a session by MCTP or by the manager's
mailbox.
Each of these answers a next state where its clause says so: PROC_FAULT, PROC_WATCHDOG, PROC_RESTART_DONE, MOLT, MOLT_STEP_DONE, LEAF_BLOCK_RESERVE,
REQUEST_UPDATE, FIRMWARE_DATA_TRANSFER, VERIFY_COMPLETE, ACTIVATE_FIRMWARE, PLATFORM_EVENT_MESSAGE, MCTP_EID_ASSIGN, NEGOTIATE_ALGORITHMS,
GET_CERTIFICATE, CHALLENGE, GET_MEASUREMENTS, KEY_EXCHANGE, LINK_KEY_SET, LINK_KEY_DROP, LINK_KEY_QUERY. -/
def Obligations.Firmware : Prop :=
  ((∀ (s : State) (i : Fin 52) (addr : BitVec 64),
    (procState s i = 1 →
      exec (.procFault i false addr) s = .next (procFails s i.val 3 addr.toNat) ∧ exec (.procFault i true addr) s = .next (procFails s i.val 5 addr.toNat) ∧
      (∀ a, procMay s i a = true → exec (.procFault i true addr (some a)) s = .next s) ∧
      (∀ a, procMay s i a = false → exec (.procFault i true addr (some a)) s = .next (procFails s i.val 5 addr.toNat)) ∧
      (watchdogDue s i = true → exec (.procWatchdog i) s = .next (procFails s i.val 4 0))) ∧
    (procState s i ≠ 1 → (∀ v a, exec (.procFault i v addr a) s = .next s) ∧ exec (.procWatchdog i) s = .next s) ∧
    (watchdogDue s i = false → exec (.procWatchdog i) s = .next s) ∧
    (procState s i ≠ 2 → exec (.procRestartDone i) s = .next s) ∧
    (procState s i = 2 →
      let again := copyImage s (runningBank s) s.fw.area
      (codeOk s i = true → ∃ t, exec (.procRestartDone i) s = .next t ∧ t = procAgain s i ∧ (i.val ≠ 0 → procState t i = 1)) ∧
      (codeOk s i = false → s.fw.comps ≠ [] → codeOk again i = true → exec (.procRestartDone i) s = .next (procAgain again i)) ∧
      (codeOk s i = false → s.fw.comps ≠ [] → codeOk again i = false → exec (.procRestartDone i) s = .next again) ∧
      (codeOk s i = false → s.fw.comps = [] → exec (.procRestartDone i) s = .next s))) ∧
  (∀ (s : State) (w : Writer),
    (w.privileged = false → exec (.molt w) s = .next (regError s w 0x1400020 4 true 5)) ∧
    (w.privileged = true → exec (.molt w) s = .next (moltStart s)) ∧
    (molting s = false → ∀ ok, exec (.moltStepDone ok) s = .next s) ∧
    (molting s = true →
      let k := rd s Reg.SECURITY.MOLT_STATUS.STEP
      exec (.moltStepDone false) s = .next (moltReverts s) ∧
      (k = 1 → imageFault s (otherBank s) = none → exec (.moltStepDone true) s = .next (moltNext (copyImage s (otherBank s) (1 - s.fw.area)) 2)) ∧
      (∀ c, k = 1 → imageFault s (otherBank s) = some c → exec (.moltStepDone true) s = .next (moltReverts (imageRejected s (otherBank s) c))) ∧
      (k = 3 → rd s Reg.TICK.JIG_COMMIT_STATUS.STATUS ∈ [0, 3, 4, 5] → moltKerf s = true → exec (.moltStepDone true) s = .next (moltNext s 4)) ∧
      (k = 3 → rd s Reg.TICK.JIG_COMMIT_STATUS.STATUS ∉ [0, 3, 4, 5] ∨ moltKerf s = false → exec (.moltStepDone true) s = .next s) ∧
      (k = 2 ∨ k = 4 ∨ k = 5 → moltLate s (48 - s.fw.moltCores) = false → exec (.moltStepDone true) s = .next (moltNext s (k + 1))) ∧
      (moltLate s (48 - s.fw.moltCores) = true → exec (.moltStepDone true) s = .next (moltReverts s)) ∧
      (∀ c : Fin 48,
        (k = 2 → c.val = s.fw.moltCores → moltLate s 1 = true → exec (.moltStepDone true (some c)) s = .next (moltReverts s)) ∧
        (k = 2 → c.val = s.fw.moltCores → moltLate s 1 = false → c.val < 47 → exec (.moltStepDone true (some c)) s =
          .next { s with fw := { s.fw with moltAt := (s.now, s.time.toNat), moltCores := c.val + 1 } }) ∧
        (k = 2 → c.val = s.fw.moltCores → moltLate s 1 = false → c.val = 47 → exec (.moltStepDone true (some c)) s = .next (moltNext s 3)) ∧
        (k ≠ 2 ∨ c.val ≠ s.fw.moltCores → exec (.moltStepDone true (some c)) s = .next s)) ∧
      (k = 6 → exec (.moltStepDone true) s = .next (moltNext (leafReserve s) 7)) ∧
      (k = 7 → exec (.moltStepDone true) s = .next (moltDone s))) ∧
    (procState s 0 = 1 → s.fw.leafDue = true → exec .leafBlockReserve s = .next (leafReserve s)) ∧
    (procState s 0 ≠ 1 ∨ s.fw.leafDue = false → exec .leafBlockReserve s = .next s)) ∧
  (∀ (s : State) (comp : BitVec 16) (off : BitVec 32) (data : List Byte) (eid : BitVec 8), mgmtUp s = true →
    let st := rd s Reg.MGMT.MGMT_STATUS.UPDATE_STATE
    let u := setBankState s (otherBank s) 1
    let idle := molting s = false ∧ s.fw.update = none
    (molting s = true → exec (.requestUpdate comp) s = .next (pldmReply s 0x10 0x8A)) ∧
    (molting s = false → s.fw.update.isSome = true → exec (.requestUpdate comp) s = .next (pldmReply s 0x10 0x81)) ∧
    (idle → exec (.requestUpdate 1) s = .next (pldmReply (setUpdate { u with fw := { u.fw with update := some 1 } } 1) 0x10 0)) ∧
    (idle → exec (.requestUpdate 2) s = .next (pldmReply (setUpdate { s with fw := { s.fw with update := some 2 } } 1) 0x10 0)) ∧
    (idle → comp ≠ 1 → comp ≠ 2 → exec (.requestUpdate comp) s = .next (pldmReply s 0x10 0x02)) ∧
    (∀ c, s.fw.update = some c → st = 1 ∨ st = 2 → data.length ≤ 4096 → off.toNat + data.length ≤ (updateTarget s c).2 →
      exec (.firmwareDataTransfer off data) s = .next (flashWr (if st = 1 then setUpdate s 2 else s) ((updateTarget s c).1 + off.toNat) data)) ∧
    (s.fw.update = none ∨ (st ≠ 1 ∧ st ≠ 2) → exec (.firmwareDataTransfer off data) s = .next s ∧ exec .verifyComplete s = .next s) ∧
    (∀ c, s.fw.update = some c → 4096 < data.length ∨ (updateTarget s c).2 < off.toNat + data.length →
      exec (.firmwareDataTransfer off data) s = .next s) ∧
    (procState s 0 ≠ 1 → exec .verifyComplete s = .next s) ∧
    (s.fw.update = some 2 → procState s 0 = 1 → st = 1 ∨ st = 2 →
      (configOk s (spareConfig s) = true →
        exec .verifyComplete s = .next (setUpdate (pldmReply (fwRecord s 9 0 1 (packBits [(0, 1, 1), (8, 8, 2)])) 0x17 0) 5)) ∧
      (configOk s (spareConfig s) = false →
        exec .verifyComplete s = .next (cancelUpdate (pldmReply (fwRecord s 9 0 1 (packBits [(0, 1, 0), (8, 8, 2)])) 0x17 1)))) ∧
    (s.fw.update = some 1 → procState s 0 = 1 → st = 1 ∨ st = 2 →
      let b := otherBank s
      (imageFault s b = none → exec .verifyComplete s =
        .next (setUpdate (pldmReply (fwRecord (setBankState s b 2) 9 0 1 (packBits [(0, 1, 1), (8, 8, 1)])) 0x17 0) 5)) ∧
      (∀ c, imageFault s b = some c → exec .verifyComplete s =
        .next (cancelUpdate (pldmReply (fwRecord (imageRejected s b c) 9 0 1 (packBits [(0, 1, 0), (8, 8, 1)])) 0x17 1)))) ∧
    (s.fw.update = some 1 → st = 5 →
      let u := cancelUpdate (pldmReply (setUpdate s 6) 0x1A 0)
      exec (.activateFirmware true) s = .next (moltStart u) ∧
      exec (.activateFirmware false) s = .next (dirPut u (otherBank u) (bankState u 0) (bankState u 1))) ∧
    (∀ b, s.fw.update = some 2 → st = 5 → exec (.activateFirmware b) s = .next (cancelUpdate (pldmReply (setUpdate s 6) 0x1A 0))) ∧
    (∀ b, s.fw.update = none ∨ st ≠ 5 → exec (.activateFirmware b) s = .next (pldmReply s 0x1A 0x80)) ∧
    (∀ n rest, s.fw.events = n :: rest → exec .platformEventMessage s =
      .next (eventsQueued (emitOut { s with fw := { s.fw with events := rest } } (.mgmt protoPldm 0x0A [0xF0] (leBytes 64 n))))) ∧
    (s.fw.events = [] → exec .platformEventMessage s = .next s) ∧
    (∀ b, b ≠ .pcieVdm ∨ running s (fHost (mgrPort s)) = true → exec (.mctpEidAssign eid b) s = .next (wr s Reg.MGMT.MGMT_STATUS.EID eid.toNat)) ∧
    (running s (fHost (mgrPort s)) = false → exec (.mctpEidAssign eid .pcieVdm) s = .next s)) ∧
  (∀ (s : State) (comp : BitVec 16) (off : BitVec 32) (data : List Byte) (eid : BitVec 8) (b : Bool), mgmtUp s = false →
    exec (.requestUpdate comp) s = .next s ∧ exec (.firmwareDataTransfer off data) s = .next s ∧ exec .verifyComplete s = .next s ∧
    exec (.activateFirmware b) s = .next s ∧ exec .platformEventMessage s = .next s ∧
    (∀ x, exec (.mctpEidAssign eid x) s = .next s))) ∧
  (∀ (s : State) (v : SpdmWay) (ext signed : Bool) (slot : BitVec 4) (off len : BitVec 16) (index : BitVec 8) (nonce secret : List Byte)
    (gen : BitVec 32) (key : BitVec 256),
    (wayUp s v = false → exec (.negotiateAlgorithms v ext) s = .next s ∧ exec (.getCertificate v slot off len) s = .next s ∧
      exec (.challenge v slot nonce) s = .next s ∧ exec (.getMeasurements v index signed nonce) s = .next s ∧
      exec (.keyExchange v slot nonce secret) s = .next s) ∧
    (wayUp s v = false ∨ sessionOf s v = none →
      exec (.linkKeySet v gen key) s = .next s ∧ exec (.linkKeyDrop v gen) s = .next s ∧ exec (.linkKeyQuery v) s = .next s)) ∧
  (∀ (s : State) (v : SpdmWay), wayUp s v = true →
    (∃ t, exec (.negotiateAlgorithms v true) s = .next t ∧ negotiated t v = true ∧
      t = spdmReply { s with fw := t.fw } v 0x63 spdmOffer [] ∧
      t.fw = { s.fw with negotiated := if negotiated s v then s.fw.negotiated else wayNo v :: s.fw.negotiated }) ∧
    exec (.negotiateAlgorithms v false) s = .next (spdmError s v 0x01) ∧
    (∀ (slot : BitVec 4) (off len : BitVec 16) (nonce secret : List Byte) (index : BitVec 8) (signed : Bool),
      (negotiated s v = false → ∀ c ∈ [Instr.getCertificate v slot off len, .challenge v slot nonce, .getMeasurements v index signed nonce,
        .keyExchange v slot nonce secret], exec c s = .next (spdmError s v 0x04)) ∧
      (negotiated s v = true → slot ≠ 0 → ∀ c ∈ [Instr.getCertificate v slot off len, .challenge v slot nonce, .keyExchange v slot nonce secret],
        exec c s = .next (spdmError s v 0x01)) ∧
      (negotiated s v = true →
        exec (.getCertificate v 0 off len) s = .next (spdmReply s v 0x02 [0] ((identityChain s).drop off.toNat |>.take len.toNat)) ∧
        exec (.challenge v 0 nonce) s = .next (signedReply s v 0x03 [0] (measurements s 0xFF) nonce) ∧
        (index.toNat < 13 ∨ index = 0xFF → exec (.getMeasurements v index true nonce) s =
            .next (signedReply s v 0x60 [index.toNat, 12] (measurements s index.toNat) nonce) ∧
          exec (.getMeasurements v index false nonce) s = .next (spdmReply s v 0x60 [index.toNat, 12] (measurements s index.toNat))) ∧
        (13 ≤ index.toNat → index ≠ 0xFF → exec (.getMeasurements v index signed nonce) s = .next (spdmError s v 0x01)) ∧
        (∀ sig t, signIdentity s nonce = some (sig, t) → exec (.keyExchange v 0 nonce secret) s =
          .next (trace (spdmReply (setSession t v secret) v 0x64 [] sig) 0 6 0x0700 (wayNo v) 0)) ∧
        (signIdentity s nonce = none → exec (.keyExchange v 0 nonce secret) s = .next (spdmError (leafReady s) v 0x05)))) ∧
    (∀ (gen : BitVec 32) (key : BitVec 256), (sessionOf s v).isSome = true →
      let mine := match v with | .mctp => True | .doe p g => p.val = mgrPort s ∧ g = 0
      (mine → gen ≠ 0 → ∃ t, exec (.linkKeySet v gen key) s = .next t ∧ t.fw.rlkNew = some (gen.toNat, leBytes 32 key.toNat) ∧ t.fw.rlkOld = s.fw.rlkNew ∧
        rd t Reg.SECURITY.LINK_KEY_GEN.GEN_NEW = gen.toNat ∧
        t = vendorReply (keysShow { s with fw := { s.fw with rlkNew := some (gen.toNat, leBytes 32 key.toNat), rlkOld := s.fw.rlkNew } }) v 0x10 0 []) ∧
      (mine → exec (.linkKeySet v 0 key) s = .next (vendorReply s v 0x10 2 [])) ∧
      (mine → ∃ t, exec (.linkKeyDrop v gen) s = .next t ∧ t.fw.rlkNew = eraseGen gen.toNat s.fw.rlkNew ∧ t.fw.rlkOld = eraseGen gen.toNat s.fw.rlkOld ∧
        t = vendorReply (keysShow { s with fw := { s.fw with rlkNew := eraseGen gen.toNat s.fw.rlkNew, rlkOld := eraseGen gen.toNat s.fw.rlkOld } }) v 0x11 0 []) ∧
      (mine → exec (.linkKeyQuery v) s =
        .next (vendorReply s v 0x12 0 [rd s Reg.SECURITY.LINK_KEY_GEN.GEN_NEW, rd s Reg.SECURITY.LINK_KEY_GEN.GEN_OLD])) ∧
      (¬ mine → exec (.linkKeyQuery v) s = .next (vendorReply s v 0x12 3 []) ∧ exec (.linkKeyDrop v gen) s = .next (vendorReply s v 0x11 3 []) ∧
        exec (.linkKeySet v gen key) s = .next (vendorReply s v 0x10 3 []))))
end

