-- ==== Sys2Proof/Laws/Bits.lean ====
section
/-!
SUPPORT. Laws/Bits.lean: reading a field back from a number packed of fields (R6, R7).
-/
namespace Sys2Proof

theorem testBit_bits (n lo w i : Nat) : (bits n lo w).testBit i = (decide (i < w) && n.testBit (lo + i)) := by
  unfold bits
  rw [Nat.testBit_mod_two_pow, Nat.testBit_shiftRight]

theorem testBit_packBits_cons (lo w v : Nat) (l : List (Nat × Nat × Nat)) (i : Nat) :
    (packBits ((lo, w, v) :: l)).testBit i = ((decide (lo ≤ i) && (decide (i - lo < w) && v.testBit (i - lo))) || (packBits l).testBit i) := by
  show ((v % 2 ^ w) <<< lo ||| packBits l).testBit i = _
  rw [Nat.testBit_or, Nat.testBit_shiftLeft, Nat.testBit_mod_two_pow]

/-- A field of a packed number that does not meet the one asked for is passed over. -/
theorem bits_packBits_skip {lo w v lo' w' : Nat} {l : List (Nat × Nat × Nat)} (h : lo + w ≤ lo' ∨ lo' + w' ≤ lo) :
    bits (packBits ((lo, w, v) :: l)) lo' w' = bits (packBits l) lo' w' := by
  apply Nat.eq_of_testBit_eq
  intro i
  rw [testBit_bits, testBit_bits, testBit_packBits_cons]
  by_cases hi : i < w'
  · have : (decide (lo ≤ lo' + i) && (decide (lo' + i - lo < w) && v.testBit (lo' + i - lo))) = false := by
      rcases h with h | h
      · have : ¬ (lo' + i - lo < w) := by omega
        simp [this]
      · have : ¬ (lo ≤ lo' + i) := by omega
        simp [this]
    rw [this, Bool.false_or]
  · simp [hi]

/-- No field of the list meets `[lo, lo + w)`. -/
def fieldsApart (lo w : Nat) (l : List (Nat × Nat × Nat)) : Bool := l.all (fun e => decide (e.1 + e.2.1 ≤ lo) || decide (lo + w ≤ e.1))

theorem bits_packBits_apart {lo w : Nat} {l : List (Nat × Nat × Nat)} (h : fieldsApart lo w l = true) : bits (packBits l) lo w = 0 := by
  induction l with
  | nil => simp [packBits, bits]
  | cons e l ih =>
    unfold fieldsApart at h ih
    rw [List.all_cons, Bool.and_eq_true, Bool.or_eq_true, decide_eq_true_eq, decide_eq_true_eq] at h
    rw [bits_packBits_skip h.1]
    exact ih h.2

/-- The first field of a packed number reads back, where no later field meets it. -/
theorem bits_packBits_here {lo w v : Nat} {l : List (Nat × Nat × Nat)} (h : fieldsApart lo w l = true) :
    bits (packBits ((lo, w, v) :: l)) lo w = v % 2 ^ w := by
  apply Nat.eq_of_testBit_eq
  intro i
  have hz := congrArg (fun n => n.testBit i) (bits_packBits_apart h)
  simp only [testBit_bits, Nat.zero_testBit] at hz
  rw [testBit_bits, testBit_packBits_cons, Nat.testBit_mod_two_pow]
  by_cases hi : i < w
  · simp only [hi, decide_true, Bool.true_and] at hz
    simp [hi, hz]
  · simp [hi]

end Sys2Proof
end

