-- ==== Sys2Proof/Laws/State.lean ====
section
/-!
SUPPORT. Laws/State.lean: what each named update of the state does to each of its fields.
-/
namespace Sys2Proof.Machine
open Sys2Proof

/-! ### `wr` -/

@[simp] theorem wr_regs (s : State) (f : Fld) (v : Nat) : (wr s f v).regs = putKey s.regs f.key f.reset (v % 2 ^ f.width) := rfl
@[simp] theorem wr_hold (s : State) (f : Fld) (v : Nat) : (wr s f v).hold = s.hold := rfl
@[simp] theorem wr_snaps (s : State) (f : Fld) (v : Nat) : (wr s f v).snaps = s.snaps := rfl
@[simp] theorem wr_now (s : State) (f : Fld) (v : Nat) : (wr s f v).now = s.now := rfl
@[simp] theorem wr_free (s : State) (f : Fld) (v : Nat) : (wr s f v).free = s.free := rfl
@[simp] theorem wr_time (s : State) (f : Fld) (v : Nat) : (wr s f v).time = s.time := rfl
@[simp] theorem wr_hbm (s : State) (f : Fld) (v : Nat) : (wr s f v).hbm = s.hbm := rfl
@[simp] theorem wr_poison (s : State) (f : Fld) (v : Nat) : (wr s f v).poison = s.poison := rfl
@[simp] theorem wr_inbox (s : State) (f : Fld) (v : Nat) : (wr s f v).inbox = s.inbox := rfl
@[simp] theorem wr_outbox (s : State) (f : Fld) (v : Nat) : (wr s f v).outbox = s.outbox := rfl
@[simp] theorem wr_out (s : State) (f : Fld) (v : Nat) : (wr s f v).out = s.out := rfl
@[simp] theorem wr_err (s : State) (f : Fld) (v : Nat) : (wr s f v).err = s.err := rfl
@[simp] theorem wr_fn (s : State) (f : Fld) (v : Nat) : (wr s f v).fn = s.fn := rfl
@[simp] theorem wr_tick (s : State) (f : Fld) (v : Nat) : (wr s f v).tick = s.tick := rfl
@[simp] theorem wr_jig (s : State) (f : Fld) (v : Nat) : (wr s f v).jig = s.jig := rfl
@[simp] theorem wr_sw (s : State) (f : Fld) (v : Nat) : (wr s f v).sw = s.sw := rfl
@[simp] theorem wr_ext (s : State) (f : Fld) (v : Nat) : (wr s f v).ext = s.ext := rfl
@[simp] theorem wr_host (s : State) (f : Fld) (v : Nat) : (wr s f v).host = s.host := rfl
@[simp] theorem wr_ep (s : State) (f : Fld) (v : Nat) : (wr s f v).ep = s.ep := rfl
@[simp] theorem wr_tel (s : State) (f : Fld) (v : Nat) : (wr s f v).tel = s.tel := rfl
@[simp] theorem wr_link (s : State) (f : Fld) (v : Nat) : (wr s f v).link = s.link := rfl
@[simp] theorem wr_fw (s : State) (f : Fld) (v : Nat) : (wr s f v).fw = s.fw := rfl
@[simp] theorem wr_pw (s : State) (f : Fld) (v : Nat) : (wr s f v).pw = s.pw := rfl
@[simp] theorem wr_mem (s : State) (f : Fld) (v : Nat) : (wr s f v).mem = s.mem := rfl
@[simp] theorem wr_cells (s : State) (f : Fld) (v : Nat) : (wr s f v).cells = s.cells := rfl
@[simp] theorem wr_pending (s : State) (f : Fld) (v : Nat) : (wr s f v).pending = s.pending := rfl

/-! ### `wrb` -/

@[simp] theorem wrb_regs (s : State) (f : Fld) (b : Bool) : (wrb s f b).regs = putKey s.regs f.key f.reset (b2n b % 2 ^ f.width) := rfl
@[simp] theorem wrb_hold (s : State) (f : Fld) (b : Bool) : (wrb s f b).hold = s.hold := rfl
@[simp] theorem wrb_snaps (s : State) (f : Fld) (b : Bool) : (wrb s f b).snaps = s.snaps := rfl
@[simp] theorem wrb_now (s : State) (f : Fld) (b : Bool) : (wrb s f b).now = s.now := rfl
@[simp] theorem wrb_free (s : State) (f : Fld) (b : Bool) : (wrb s f b).free = s.free := rfl
@[simp] theorem wrb_time (s : State) (f : Fld) (b : Bool) : (wrb s f b).time = s.time := rfl
@[simp] theorem wrb_hbm (s : State) (f : Fld) (b : Bool) : (wrb s f b).hbm = s.hbm := rfl
@[simp] theorem wrb_poison (s : State) (f : Fld) (b : Bool) : (wrb s f b).poison = s.poison := rfl
@[simp] theorem wrb_inbox (s : State) (f : Fld) (b : Bool) : (wrb s f b).inbox = s.inbox := rfl
@[simp] theorem wrb_outbox (s : State) (f : Fld) (b : Bool) : (wrb s f b).outbox = s.outbox := rfl
@[simp] theorem wrb_out (s : State) (f : Fld) (b : Bool) : (wrb s f b).out = s.out := rfl
@[simp] theorem wrb_err (s : State) (f : Fld) (b : Bool) : (wrb s f b).err = s.err := rfl
@[simp] theorem wrb_fn (s : State) (f : Fld) (b : Bool) : (wrb s f b).fn = s.fn := rfl
@[simp] theorem wrb_tick (s : State) (f : Fld) (b : Bool) : (wrb s f b).tick = s.tick := rfl
@[simp] theorem wrb_jig (s : State) (f : Fld) (b : Bool) : (wrb s f b).jig = s.jig := rfl
@[simp] theorem wrb_sw (s : State) (f : Fld) (b : Bool) : (wrb s f b).sw = s.sw := rfl
@[simp] theorem wrb_ext (s : State) (f : Fld) (b : Bool) : (wrb s f b).ext = s.ext := rfl
@[simp] theorem wrb_host (s : State) (f : Fld) (b : Bool) : (wrb s f b).host = s.host := rfl
@[simp] theorem wrb_ep (s : State) (f : Fld) (b : Bool) : (wrb s f b).ep = s.ep := rfl
@[simp] theorem wrb_tel (s : State) (f : Fld) (b : Bool) : (wrb s f b).tel = s.tel := rfl
@[simp] theorem wrb_link (s : State) (f : Fld) (b : Bool) : (wrb s f b).link = s.link := rfl
@[simp] theorem wrb_fw (s : State) (f : Fld) (b : Bool) : (wrb s f b).fw = s.fw := rfl
@[simp] theorem wrb_pw (s : State) (f : Fld) (b : Bool) : (wrb s f b).pw = s.pw := rfl
@[simp] theorem wrb_mem (s : State) (f : Fld) (b : Bool) : (wrb s f b).mem = s.mem := rfl
@[simp] theorem wrb_cells (s : State) (f : Fld) (b : Bool) : (wrb s f b).cells = s.cells := rfl
@[simp] theorem wrb_pending (s : State) (f : Fld) (b : Bool) : (wrb s f b).pending = s.pending := rfl

/-! ### `cnt` -/

@[simp] theorem cnt_regs (s : State) (f : Fld) (n : Nat) : (cnt s f n).regs = putKey s.regs f.key f.reset (countVal f (rd s f) n % 2 ^ f.width) := rfl
@[simp] theorem cnt_hold (s : State) (f : Fld) (n : Nat) : (cnt s f n).hold = s.hold := rfl
@[simp] theorem cnt_snaps (s : State) (f : Fld) (n : Nat) : (cnt s f n).snaps = s.snaps := rfl
@[simp] theorem cnt_now (s : State) (f : Fld) (n : Nat) : (cnt s f n).now = s.now := rfl
@[simp] theorem cnt_free (s : State) (f : Fld) (n : Nat) : (cnt s f n).free = s.free := rfl
@[simp] theorem cnt_time (s : State) (f : Fld) (n : Nat) : (cnt s f n).time = s.time := rfl
@[simp] theorem cnt_hbm (s : State) (f : Fld) (n : Nat) : (cnt s f n).hbm = s.hbm := rfl
@[simp] theorem cnt_poison (s : State) (f : Fld) (n : Nat) : (cnt s f n).poison = s.poison := rfl
@[simp] theorem cnt_inbox (s : State) (f : Fld) (n : Nat) : (cnt s f n).inbox = s.inbox := rfl
@[simp] theorem cnt_outbox (s : State) (f : Fld) (n : Nat) : (cnt s f n).outbox = s.outbox := rfl
@[simp] theorem cnt_out (s : State) (f : Fld) (n : Nat) : (cnt s f n).out = s.out := rfl
@[simp] theorem cnt_err (s : State) (f : Fld) (n : Nat) : (cnt s f n).err = s.err := rfl
@[simp] theorem cnt_fn (s : State) (f : Fld) (n : Nat) : (cnt s f n).fn = s.fn := rfl
@[simp] theorem cnt_tick (s : State) (f : Fld) (n : Nat) : (cnt s f n).tick = s.tick := rfl
@[simp] theorem cnt_jig (s : State) (f : Fld) (n : Nat) : (cnt s f n).jig = s.jig := rfl
@[simp] theorem cnt_sw (s : State) (f : Fld) (n : Nat) : (cnt s f n).sw = s.sw := rfl
@[simp] theorem cnt_ext (s : State) (f : Fld) (n : Nat) : (cnt s f n).ext = s.ext := rfl
@[simp] theorem cnt_host (s : State) (f : Fld) (n : Nat) : (cnt s f n).host = s.host := rfl
@[simp] theorem cnt_ep (s : State) (f : Fld) (n : Nat) : (cnt s f n).ep = s.ep := rfl
@[simp] theorem cnt_tel (s : State) (f : Fld) (n : Nat) : (cnt s f n).tel = s.tel := rfl
@[simp] theorem cnt_link (s : State) (f : Fld) (n : Nat) : (cnt s f n).link = s.link := rfl
@[simp] theorem cnt_fw (s : State) (f : Fld) (n : Nat) : (cnt s f n).fw = s.fw := rfl
@[simp] theorem cnt_pw (s : State) (f : Fld) (n : Nat) : (cnt s f n).pw = s.pw := rfl
@[simp] theorem cnt_mem (s : State) (f : Fld) (n : Nat) : (cnt s f n).mem = s.mem := rfl
@[simp] theorem cnt_cells (s : State) (f : Fld) (n : Nat) : (cnt s f n).cells = s.cells := rfl
@[simp] theorem cnt_pending (s : State) (f : Fld) (n : Nat) : (cnt s f n).pending = s.pending := rfl

/-! ### `bump` -/

@[simp] theorem bump_regs (s : State) (k n : Nat) : (bump s k n).regs = s.regs := rfl
@[simp] theorem bump_hold (s : State) (k n : Nat) : (bump s k n).hold = s.hold := rfl
@[simp] theorem bump_snaps (s : State) (k n : Nat) : (bump s k n).snaps = s.snaps := rfl
@[simp] theorem bump_now (s : State) (k n : Nat) : (bump s k n).now = s.now := rfl
@[simp] theorem bump_free (s : State) (k n : Nat) : (bump s k n).free = s.free := rfl
@[simp] theorem bump_time (s : State) (k n : Nat) : (bump s k n).time = s.time := rfl
@[simp] theorem bump_hbm (s : State) (k n : Nat) : (bump s k n).hbm = s.hbm := rfl
@[simp] theorem bump_poison (s : State) (k n : Nat) : (bump s k n).poison = s.poison := rfl
@[simp] theorem bump_inbox (s : State) (k n : Nat) : (bump s k n).inbox = s.inbox := rfl
@[simp] theorem bump_outbox (s : State) (k n : Nat) : (bump s k n).outbox = s.outbox := rfl
@[simp] theorem bump_out (s : State) (k n : Nat) : (bump s k n).out = s.out := rfl
@[simp] theorem bump_err (s : State) (k n : Nat) : (bump s k n).err = s.err := rfl
@[simp] theorem bump_fn (s : State) (k n : Nat) : (bump s k n).fn = s.fn := rfl
@[simp] theorem bump_tick (s : State) (k n : Nat) : (bump s k n).tick = s.tick := rfl
@[simp] theorem bump_jig (s : State) (k n : Nat) : (bump s k n).jig = s.jig := rfl
@[simp] theorem bump_sw (s : State) (k n : Nat) : (bump s k n).sw = s.sw := rfl
@[simp] theorem bump_ext (s : State) (k n : Nat) : (bump s k n).ext = s.ext := rfl
@[simp] theorem bump_host (s : State) (k n : Nat) : (bump s k n).host = s.host := rfl
@[simp] theorem bump_ep (s : State) (k n : Nat) : (bump s k n).ep = s.ep := rfl
@[simp] theorem bump_tel (s : State) (k n : Nat) : (bump s k n).tel = { s.tel with counts := putKey s.tel.counts k 0 (((findKey s.tel.counts k).getD 0 + n) % 2 ^ 64) } := rfl
@[simp] theorem bump_link (s : State) (k n : Nat) : (bump s k n).link = s.link := rfl
@[simp] theorem bump_fw (s : State) (k n : Nat) : (bump s k n).fw = s.fw := rfl
@[simp] theorem bump_pw (s : State) (k n : Nat) : (bump s k n).pw = s.pw := rfl
@[simp] theorem bump_mem (s : State) (k n : Nat) : (bump s k n).mem = s.mem := rfl
@[simp] theorem bump_cells (s : State) (k n : Nat) : (bump s k n).cells = s.cells := rfl
@[simp] theorem bump_pending (s : State) (k n : Nat) : (bump s k n).pending = s.pending := rfl

/-! ### `takeFree` -/

@[simp] theorem takeFree_regs (s : State) (k : Nat) : (takeFree s k).regs = s.regs := rfl
@[simp] theorem takeFree_hold (s : State) (k : Nat) : (takeFree s k).hold = s.hold := rfl
@[simp] theorem takeFree_snaps (s : State) (k : Nat) : (takeFree s k).snaps = s.snaps := rfl
@[simp] theorem takeFree_now (s : State) (k : Nat) : (takeFree s k).now = s.now := rfl
@[simp] theorem takeFree_free (s : State) (k : Nat) : (takeFree s k).free = s.free + k := rfl
@[simp] theorem takeFree_time (s : State) (k : Nat) : (takeFree s k).time = s.time := rfl
@[simp] theorem takeFree_hbm (s : State) (k : Nat) : (takeFree s k).hbm = s.hbm := rfl
@[simp] theorem takeFree_poison (s : State) (k : Nat) : (takeFree s k).poison = s.poison := rfl
@[simp] theorem takeFree_inbox (s : State) (k : Nat) : (takeFree s k).inbox = s.inbox := rfl
@[simp] theorem takeFree_outbox (s : State) (k : Nat) : (takeFree s k).outbox = s.outbox := rfl
@[simp] theorem takeFree_out (s : State) (k : Nat) : (takeFree s k).out = s.out := rfl
@[simp] theorem takeFree_err (s : State) (k : Nat) : (takeFree s k).err = s.err := rfl
@[simp] theorem takeFree_fn (s : State) (k : Nat) : (takeFree s k).fn = s.fn := rfl
@[simp] theorem takeFree_tick (s : State) (k : Nat) : (takeFree s k).tick = s.tick := rfl
@[simp] theorem takeFree_jig (s : State) (k : Nat) : (takeFree s k).jig = s.jig := rfl
@[simp] theorem takeFree_sw (s : State) (k : Nat) : (takeFree s k).sw = s.sw := rfl
@[simp] theorem takeFree_ext (s : State) (k : Nat) : (takeFree s k).ext = s.ext := rfl
@[simp] theorem takeFree_host (s : State) (k : Nat) : (takeFree s k).host = s.host := rfl
@[simp] theorem takeFree_ep (s : State) (k : Nat) : (takeFree s k).ep = s.ep := rfl
@[simp] theorem takeFree_tel (s : State) (k : Nat) : (takeFree s k).tel = s.tel := rfl
@[simp] theorem takeFree_link (s : State) (k : Nat) : (takeFree s k).link = s.link := rfl
@[simp] theorem takeFree_fw (s : State) (k : Nat) : (takeFree s k).fw = s.fw := rfl
@[simp] theorem takeFree_pw (s : State) (k : Nat) : (takeFree s k).pw = s.pw := rfl
@[simp] theorem takeFree_mem (s : State) (k : Nat) : (takeFree s k).mem = s.mem := rfl
@[simp] theorem takeFree_cells (s : State) (k : Nat) : (takeFree s k).cells = s.cells := rfl
@[simp] theorem takeFree_pending (s : State) (k : Nat) : (takeFree s k).pending = s.pending := rfl

/-! ### `emitOut` -/

@[simp] theorem emitOut_regs (s : State) (o : Output) : (emitOut s o).regs = s.regs := rfl
@[simp] theorem emitOut_hold (s : State) (o : Output) : (emitOut s o).hold = s.hold := rfl
@[simp] theorem emitOut_snaps (s : State) (o : Output) : (emitOut s o).snaps = s.snaps := rfl
@[simp] theorem emitOut_now (s : State) (o : Output) : (emitOut s o).now = s.now := rfl
@[simp] theorem emitOut_free (s : State) (o : Output) : (emitOut s o).free = s.free := rfl
@[simp] theorem emitOut_time (s : State) (o : Output) : (emitOut s o).time = s.time := rfl
@[simp] theorem emitOut_hbm (s : State) (o : Output) : (emitOut s o).hbm = s.hbm := rfl
@[simp] theorem emitOut_poison (s : State) (o : Output) : (emitOut s o).poison = s.poison := rfl
@[simp] theorem emitOut_inbox (s : State) (o : Output) : (emitOut s o).inbox = s.inbox := rfl
@[simp] theorem emitOut_outbox (s : State) (o : Output) : (emitOut s o).outbox = s.outbox := rfl
@[simp] theorem emitOut_out (s : State) (o : Output) : (emitOut s o).out = o :: s.out := rfl
@[simp] theorem emitOut_err (s : State) (o : Output) : (emitOut s o).err = s.err := rfl
@[simp] theorem emitOut_fn (s : State) (o : Output) : (emitOut s o).fn = s.fn := rfl
@[simp] theorem emitOut_tick (s : State) (o : Output) : (emitOut s o).tick = s.tick := rfl
@[simp] theorem emitOut_jig (s : State) (o : Output) : (emitOut s o).jig = s.jig := rfl
@[simp] theorem emitOut_sw (s : State) (o : Output) : (emitOut s o).sw = s.sw := rfl
@[simp] theorem emitOut_ext (s : State) (o : Output) : (emitOut s o).ext = s.ext := rfl
@[simp] theorem emitOut_host (s : State) (o : Output) : (emitOut s o).host = s.host := rfl
@[simp] theorem emitOut_ep (s : State) (o : Output) : (emitOut s o).ep = s.ep := rfl
@[simp] theorem emitOut_tel (s : State) (o : Output) : (emitOut s o).tel = s.tel := rfl
@[simp] theorem emitOut_link (s : State) (o : Output) : (emitOut s o).link = s.link := rfl
@[simp] theorem emitOut_fw (s : State) (o : Output) : (emitOut s o).fw = s.fw := rfl
@[simp] theorem emitOut_pw (s : State) (o : Output) : (emitOut s o).pw = s.pw := rfl
@[simp] theorem emitOut_mem (s : State) (o : Output) : (emitOut s o).mem = s.mem := rfl
@[simp] theorem emitOut_cells (s : State) (o : Output) : (emitOut s o).cells = s.cells := rfl
@[simp] theorem emitOut_pending (s : State) (o : Output) : (emitOut s o).pending = s.pending := rfl

/-! ### `runOn` -/

@[simp] theorem runOn_regs (s : State) (n : Nat) : (runOn s n).regs = s.regs := rfl
@[simp] theorem runOn_hold (s : State) (n : Nat) : (runOn s n).hold = s.hold := rfl
@[simp] theorem runOn_snaps (s : State) (n : Nat) : (runOn s n).snaps = s.snaps := rfl
@[simp] theorem runOn_now (s : State) (n : Nat) : (runOn s n).now = s.now + n := rfl
@[simp] theorem runOn_free (s : State) (n : Nat) : (runOn s n).free = s.free := rfl
@[simp] theorem runOn_time (s : State) (n : Nat) : (runOn s n).time = s.time + BitVec.ofNat 64 n := rfl
@[simp] theorem runOn_hbm (s : State) (n : Nat) : (runOn s n).hbm = s.hbm := rfl
@[simp] theorem runOn_poison (s : State) (n : Nat) : (runOn s n).poison = s.poison := rfl
@[simp] theorem runOn_inbox (s : State) (n : Nat) : (runOn s n).inbox = s.inbox := rfl
@[simp] theorem runOn_outbox (s : State) (n : Nat) : (runOn s n).outbox = s.outbox := rfl
@[simp] theorem runOn_out (s : State) (n : Nat) : (runOn s n).out = s.out := rfl
@[simp] theorem runOn_err (s : State) (n : Nat) : (runOn s n).err = s.err := rfl
@[simp] theorem runOn_fn (s : State) (n : Nat) : (runOn s n).fn = s.fn := rfl
@[simp] theorem runOn_tick (s : State) (n : Nat) : (runOn s n).tick = s.tick := rfl
@[simp] theorem runOn_jig (s : State) (n : Nat) : (runOn s n).jig = s.jig := rfl
@[simp] theorem runOn_sw (s : State) (n : Nat) : (runOn s n).sw = s.sw := rfl
@[simp] theorem runOn_ext (s : State) (n : Nat) : (runOn s n).ext = s.ext := rfl
@[simp] theorem runOn_host (s : State) (n : Nat) : (runOn s n).host = s.host := rfl
@[simp] theorem runOn_ep (s : State) (n : Nat) : (runOn s n).ep = s.ep := rfl
@[simp] theorem runOn_tel (s : State) (n : Nat) : (runOn s n).tel = s.tel := rfl
@[simp] theorem runOn_link (s : State) (n : Nat) : (runOn s n).link = s.link := rfl
@[simp] theorem runOn_fw (s : State) (n : Nat) : (runOn s n).fw = s.fw := rfl
@[simp] theorem runOn_pw (s : State) (n : Nat) : (runOn s n).pw = s.pw := rfl
@[simp] theorem runOn_mem (s : State) (n : Nat) : (runOn s n).mem = s.mem := rfl
@[simp] theorem runOn_cells (s : State) (n : Nat) : (runOn s n).cells = s.cells := rfl
@[simp] theorem runOn_pending (s : State) (n : Nat) : (runOn s n).pending = s.pending := rfl

/-! ### `hbmWr` -/

@[simp] theorem hbmWr_regs (s : State) (a : Nat) (l : List Byte) : (hbmWr s a l).regs = s.regs := rfl
@[simp] theorem hbmWr_hold (s : State) (a : Nat) (l : List Byte) : (hbmWr s a l).hold = s.hold := rfl
@[simp] theorem hbmWr_snaps (s : State) (a : Nat) (l : List Byte) : (hbmWr s a l).snaps = s.snaps := rfl
@[simp] theorem hbmWr_now (s : State) (a : Nat) (l : List Byte) : (hbmWr s a l).now = s.now := rfl
@[simp] theorem hbmWr_free (s : State) (a : Nat) (l : List Byte) : (hbmWr s a l).free = s.free := rfl
@[simp] theorem hbmWr_time (s : State) (a : Nat) (l : List Byte) : (hbmWr s a l).time = s.time := rfl
@[simp] theorem hbmWr_hbm (s : State) (a : Nat) (l : List Byte) : (hbmWr s a l).hbm = putMem s.hbm a l := rfl
@[simp] theorem hbmWr_poison (s : State) (a : Nat) (l : List Byte) : (hbmWr s a l).poison = s.poison.filter (fun g => !(wholeGranules a l.length).contains g) := rfl
@[simp] theorem hbmWr_inbox (s : State) (a : Nat) (l : List Byte) : (hbmWr s a l).inbox = s.inbox := rfl
@[simp] theorem hbmWr_outbox (s : State) (a : Nat) (l : List Byte) : (hbmWr s a l).outbox = s.outbox := rfl
@[simp] theorem hbmWr_out (s : State) (a : Nat) (l : List Byte) : (hbmWr s a l).out = s.out := rfl
@[simp] theorem hbmWr_err (s : State) (a : Nat) (l : List Byte) : (hbmWr s a l).err = s.err := rfl
@[simp] theorem hbmWr_fn (s : State) (a : Nat) (l : List Byte) : (hbmWr s a l).fn = s.fn := rfl
@[simp] theorem hbmWr_tick (s : State) (a : Nat) (l : List Byte) : (hbmWr s a l).tick = s.tick := rfl
@[simp] theorem hbmWr_jig (s : State) (a : Nat) (l : List Byte) : (hbmWr s a l).jig = s.jig := rfl
@[simp] theorem hbmWr_sw (s : State) (a : Nat) (l : List Byte) : (hbmWr s a l).sw = s.sw := rfl
@[simp] theorem hbmWr_ext (s : State) (a : Nat) (l : List Byte) : (hbmWr s a l).ext = s.ext := rfl
@[simp] theorem hbmWr_host (s : State) (a : Nat) (l : List Byte) : (hbmWr s a l).host = s.host := rfl
@[simp] theorem hbmWr_ep (s : State) (a : Nat) (l : List Byte) : (hbmWr s a l).ep = s.ep := rfl
@[simp] theorem hbmWr_tel (s : State) (a : Nat) (l : List Byte) : (hbmWr s a l).tel = s.tel := rfl
@[simp] theorem hbmWr_link (s : State) (a : Nat) (l : List Byte) : (hbmWr s a l).link = s.link := rfl
@[simp] theorem hbmWr_fw (s : State) (a : Nat) (l : List Byte) : (hbmWr s a l).fw = s.fw := rfl
@[simp] theorem hbmWr_pw (s : State) (a : Nat) (l : List Byte) : (hbmWr s a l).pw = s.pw := rfl
@[simp] theorem hbmWr_mem (s : State) (a : Nat) (l : List Byte) : (hbmWr s a l).mem = s.mem := rfl
@[simp] theorem hbmWr_cells (s : State) (a : Nat) (l : List Byte) : (hbmWr s a l).cells = s.cells := rfl
@[simp] theorem hbmWr_pending (s : State) (a : Nat) (l : List Byte) : (hbmWr s a l).pending = s.pending := rfl

/-! ### `offer` -/

@[simp] theorem offer_regs (s : State) (x : Nat) (p : Packet) : (offer s x p).regs = s.regs := by unfold offer; split <;> rfl
@[simp] theorem offer_hold (s : State) (x : Nat) (p : Packet) : (offer s x p).hold = s.hold := by unfold offer; split <;> rfl
@[simp] theorem offer_snaps (s : State) (x : Nat) (p : Packet) : (offer s x p).snaps = s.snaps := by unfold offer; split <;> rfl
@[simp] theorem offer_now (s : State) (x : Nat) (p : Packet) : (offer s x p).now = s.now := by unfold offer; split <;> rfl
@[simp] theorem offer_free (s : State) (x : Nat) (p : Packet) : (offer s x p).free = s.free := by unfold offer; split <;> rfl
@[simp] theorem offer_time (s : State) (x : Nat) (p : Packet) : (offer s x p).time = s.time := by unfold offer; split <;> rfl
@[simp] theorem offer_hbm (s : State) (x : Nat) (p : Packet) : (offer s x p).hbm = s.hbm := by unfold offer; split <;> rfl
@[simp] theorem offer_poison (s : State) (x : Nat) (p : Packet) : (offer s x p).poison = s.poison := by unfold offer; split <;> rfl
@[simp] theorem offer_inbox (s : State) (x : Nat) (p : Packet) : (offer s x p).inbox = s.inbox := by unfold offer; split <;> rfl
theorem offer_outbox (s : State) (x : Nat) (p : Packet) :
    (offer s x p).outbox = if (x = 224 ∨ x = 225) ∧ (p.h.src = 0xFFF ∨ p.h.dest = 0xFFF) then s.outbox else s.outbox ++ [(x, p)] := by unfold offer; split <;> rfl
@[simp] theorem offer_out (s : State) (x : Nat) (p : Packet) : (offer s x p).out = s.out := by unfold offer; split <;> rfl
@[simp] theorem offer_err (s : State) (x : Nat) (p : Packet) : (offer s x p).err = s.err := by unfold offer; split <;> rfl
@[simp] theorem offer_fn (s : State) (x : Nat) (p : Packet) : (offer s x p).fn = s.fn := by unfold offer; split <;> rfl
@[simp] theorem offer_tick (s : State) (x : Nat) (p : Packet) : (offer s x p).tick = s.tick := by unfold offer; split <;> rfl
@[simp] theorem offer_jig (s : State) (x : Nat) (p : Packet) : (offer s x p).jig = s.jig := by unfold offer; split <;> rfl
@[simp] theorem offer_sw (s : State) (x : Nat) (p : Packet) : (offer s x p).sw = s.sw := by unfold offer; split <;> rfl
@[simp] theorem offer_ext (s : State) (x : Nat) (p : Packet) : (offer s x p).ext = s.ext := by unfold offer; split <;> rfl
@[simp] theorem offer_host (s : State) (x : Nat) (p : Packet) : (offer s x p).host = s.host := by unfold offer; split <;> rfl
@[simp] theorem offer_ep (s : State) (x : Nat) (p : Packet) : (offer s x p).ep = s.ep := by unfold offer; split <;> rfl
@[simp] theorem offer_tel (s : State) (x : Nat) (p : Packet) : (offer s x p).tel = s.tel := by unfold offer; split <;> rfl
@[simp] theorem offer_link (s : State) (x : Nat) (p : Packet) : (offer s x p).link = s.link := by unfold offer; split <;> rfl
@[simp] theorem offer_fw (s : State) (x : Nat) (p : Packet) : (offer s x p).fw = s.fw := by unfold offer; split <;> rfl
@[simp] theorem offer_pw (s : State) (x : Nat) (p : Packet) : (offer s x p).pw = s.pw := by unfold offer; split <;> rfl
@[simp] theorem offer_mem (s : State) (x : Nat) (p : Packet) : (offer s x p).mem = s.mem := by unfold offer; split <;> rfl
@[simp] theorem offer_cells (s : State) (x : Nat) (p : Packet) : (offer s x p).cells = s.cells := by unfold offer; split <;> rfl
@[simp] theorem offer_pending (s : State) (x : Nat) (p : Packet) : (offer s x p).pending = s.pending := by unfold offer; split <;> rfl

/-! ### `wrs` -/

@[simp] theorem wrs_nil (s : State) : wrs s [] = s := rfl
@[simp] theorem wrs_cons (s : State) (f : Fld) (v : Nat) (l : List (Fld × Nat)) : wrs s ((f, v) :: l) = wrs (wr s f v) l := rfl

@[simp] theorem wrs_hold (s : State) (l : List (Fld × Nat)) : (wrs s l).hold = s.hold := by
  induction l generalizing s with
  | nil => rfl
  | cons p l ih => exact ih (wr s p.1 p.2)
@[simp] theorem wrs_snaps (s : State) (l : List (Fld × Nat)) : (wrs s l).snaps = s.snaps := by
  induction l generalizing s with
  | nil => rfl
  | cons p l ih => exact ih (wr s p.1 p.2)
@[simp] theorem wrs_now (s : State) (l : List (Fld × Nat)) : (wrs s l).now = s.now := by
  induction l generalizing s with
  | nil => rfl
  | cons p l ih => exact ih (wr s p.1 p.2)
@[simp] theorem wrs_free (s : State) (l : List (Fld × Nat)) : (wrs s l).free = s.free := by
  induction l generalizing s with
  | nil => rfl
  | cons p l ih => exact ih (wr s p.1 p.2)
@[simp] theorem wrs_time (s : State) (l : List (Fld × Nat)) : (wrs s l).time = s.time := by
  induction l generalizing s with
  | nil => rfl
  | cons p l ih => exact ih (wr s p.1 p.2)
@[simp] theorem wrs_hbm (s : State) (l : List (Fld × Nat)) : (wrs s l).hbm = s.hbm := by
  induction l generalizing s with
  | nil => rfl
  | cons p l ih => exact ih (wr s p.1 p.2)
@[simp] theorem wrs_poison (s : State) (l : List (Fld × Nat)) : (wrs s l).poison = s.poison := by
  induction l generalizing s with
  | nil => rfl
  | cons p l ih => exact ih (wr s p.1 p.2)
@[simp] theorem wrs_inbox (s : State) (l : List (Fld × Nat)) : (wrs s l).inbox = s.inbox := by
  induction l generalizing s with
  | nil => rfl
  | cons p l ih => exact ih (wr s p.1 p.2)
@[simp] theorem wrs_outbox (s : State) (l : List (Fld × Nat)) : (wrs s l).outbox = s.outbox := by
  induction l generalizing s with
  | nil => rfl
  | cons p l ih => exact ih (wr s p.1 p.2)
@[simp] theorem wrs_out (s : State) (l : List (Fld × Nat)) : (wrs s l).out = s.out := by
  induction l generalizing s with
  | nil => rfl
  | cons p l ih => exact ih (wr s p.1 p.2)
@[simp] theorem wrs_err (s : State) (l : List (Fld × Nat)) : (wrs s l).err = s.err := by
  induction l generalizing s with
  | nil => rfl
  | cons p l ih => exact ih (wr s p.1 p.2)
@[simp] theorem wrs_fn (s : State) (l : List (Fld × Nat)) : (wrs s l).fn = s.fn := by
  induction l generalizing s with
  | nil => rfl
  | cons p l ih => exact ih (wr s p.1 p.2)
@[simp] theorem wrs_tick (s : State) (l : List (Fld × Nat)) : (wrs s l).tick = s.tick := by
  induction l generalizing s with
  | nil => rfl
  | cons p l ih => exact ih (wr s p.1 p.2)
@[simp] theorem wrs_jig (s : State) (l : List (Fld × Nat)) : (wrs s l).jig = s.jig := by
  induction l generalizing s with
  | nil => rfl
  | cons p l ih => exact ih (wr s p.1 p.2)
@[simp] theorem wrs_sw (s : State) (l : List (Fld × Nat)) : (wrs s l).sw = s.sw := by
  induction l generalizing s with
  | nil => rfl
  | cons p l ih => exact ih (wr s p.1 p.2)
@[simp] theorem wrs_ext (s : State) (l : List (Fld × Nat)) : (wrs s l).ext = s.ext := by
  induction l generalizing s with
  | nil => rfl
  | cons p l ih => exact ih (wr s p.1 p.2)
@[simp] theorem wrs_host (s : State) (l : List (Fld × Nat)) : (wrs s l).host = s.host := by
  induction l generalizing s with
  | nil => rfl
  | cons p l ih => exact ih (wr s p.1 p.2)
@[simp] theorem wrs_ep (s : State) (l : List (Fld × Nat)) : (wrs s l).ep = s.ep := by
  induction l generalizing s with
  | nil => rfl
  | cons p l ih => exact ih (wr s p.1 p.2)
@[simp] theorem wrs_tel (s : State) (l : List (Fld × Nat)) : (wrs s l).tel = s.tel := by
  induction l generalizing s with
  | nil => rfl
  | cons p l ih => exact ih (wr s p.1 p.2)
@[simp] theorem wrs_link (s : State) (l : List (Fld × Nat)) : (wrs s l).link = s.link := by
  induction l generalizing s with
  | nil => rfl
  | cons p l ih => exact ih (wr s p.1 p.2)
@[simp] theorem wrs_fw (s : State) (l : List (Fld × Nat)) : (wrs s l).fw = s.fw := by
  induction l generalizing s with
  | nil => rfl
  | cons p l ih => exact ih (wr s p.1 p.2)
@[simp] theorem wrs_pw (s : State) (l : List (Fld × Nat)) : (wrs s l).pw = s.pw := by
  induction l generalizing s with
  | nil => rfl
  | cons p l ih => exact ih (wr s p.1 p.2)
@[simp] theorem wrs_mem (s : State) (l : List (Fld × Nat)) : (wrs s l).mem = s.mem := by
  induction l generalizing s with
  | nil => rfl
  | cons p l ih => exact ih (wr s p.1 p.2)
@[simp] theorem wrs_cells (s : State) (l : List (Fld × Nat)) : (wrs s l).cells = s.cells := by
  induction l generalizing s with
  | nil => rfl
  | cons p l ih => exact ih (wr s p.1 p.2)
@[simp] theorem wrs_pending (s : State) (l : List (Fld × Nat)) : (wrs s l).pending = s.pending := by
  induction l generalizing s with
  | nil => rfl
  | cons p l ih => exact ih (wr s p.1 p.2)

end Sys2Proof.Machine
end

