-- ==== Sys2Proof/Laws/Tables.lean ====
section
/-!
SUPPORT. Laws/Tables.lean: the sparse tables of Machine/Bits.lean: reading what was put in, reading the other keys, and the canonical
form that every operation keeps.
-/
namespace Sys2Proof
variable {α : Type}

/-! ### Reading after writing -/

@[simp] theorem findKey_nil (k : Nat) : findKey ([] : List (Nat × α)) k = none := rfl

theorem findKey_cons (p : Nat × α) (l : List (Nat × α)) (k : Nat) :
    findKey (p :: l) k = if p.1 = k then some p.2 else findKey l k := rfl

@[simp] theorem findKey_delKey_same (l : List (Nat × α)) (k : Nat) : findKey (delKey l k) k = none := by
  induction l with
  | nil => rfl
  | cons p l ih =>
    by_cases h : p.1 = k
    · simpa [delKey, h] using ih
    · simpa [delKey, h, findKey_cons] using ih

theorem findKey_delKey_ne (l : List (Nat × α)) {k k' : Nat} (h : k ≠ k') : findKey (delKey l k) k' = findKey l k' := by
  induction l with
  | nil => rfl
  | cons p l ih =>
    by_cases hp : p.1 = k
    · have : p.1 ≠ k' := fun e => h (hp.symm.trans e)
      simp [delKey, hp, findKey_cons, h, ih]
    · have e : delKey (p :: l) k = p :: delKey l k := by simp [delKey, hp]
      rw [e, findKey_cons, findKey_cons, ih]

theorem findKey_insKey_same {l : List (Nat × α)} {k : Nat} (v : α) (h : findKey l k = none) :
    findKey (insKey k v l) k = some v := by
  induction l with
  | nil => simp [insKey, findKey_cons]
  | cons p l ih =>
    have hp : p.1 ≠ k := fun e => by simp [findKey_cons, e] at h
    have hl : findKey l k = none := by simpa [findKey_cons, hp] using h
    by_cases hlt : k < p.1
    · simp [insKey, hlt, findKey_cons]
    · simp [insKey, hlt, findKey_cons, hp, ih hl]

theorem findKey_insKey_ne (l : List (Nat × α)) {k k' : Nat} (v : α) (h : k ≠ k') :
    findKey (insKey k v l) k' = findKey l k' := by
  induction l with
  | nil => simp [insKey, findKey_cons, h]
  | cons p l ih =>
    by_cases hlt : k < p.1
    · simp [insKey, hlt, findKey_cons, h]
    · simp [insKey, hlt, findKey_cons, ih]

@[simp] theorem findKey_setKey_same (l : List (Nat × α)) (k : Nat) (v : α) : findKey (setKey l k v) k = some v :=
  findKey_insKey_same v (findKey_delKey_same l k)

theorem findKey_setKey_ne (l : List (Nat × α)) {k k' : Nat} (v : α) (h : k ≠ k') :
    findKey (setKey l k v) k' = findKey l k' := by
  rw [setKey, findKey_insKey_ne _ _ h, findKey_delKey_ne _ h]

theorem findKey_setKey (l : List (Nat × α)) (k k' : Nat) (v : α) :
    findKey (setKey l k v) k' = if k = k' then some v else findKey l k' := by
  by_cases h : k = k'
  · subst h; simp
  · simp [h, findKey_setKey_ne l v h]

variable [DecidableEq α]

theorem getD_putKey_same (l : List (Nat × α)) (k : Nat) (d v : α) : (findKey (putKey l k d v) k).getD d = v := by
  by_cases h : v = d <;> simp [putKey, h]

theorem findKey_putKey_ne (l : List (Nat × α)) {k k' : Nat} (d v : α) (h : k ≠ k') :
    findKey (putKey l k d v) k' = findKey l k' := by
  by_cases hv : v = d
  · simp [putKey, hv, findKey_delKey_ne l h]
  · simp [putKey, hv, findKey_setKey_ne l v h]

/-! ### The canonical form -/

omit [DecidableEq α] in
/-- Strictly rising keys, as a relation on the list. -/
theorem sortedKeys_iff (l : List (Nat × α)) : sortedKeys l = true ↔ l.Pairwise (fun a b => a.1 < b.1) := by
  induction l with
  | nil => simp [sortedKeys]
  | cons p l ih =>
    cases l with
    | nil => simp [sortedKeys]
    | cons q l =>
      have e : sortedKeys (p :: q :: l) = (decide (p.1 < q.1) && sortedKeys (q :: l)) := by
        obtain ⟨a, _⟩ := p; obtain ⟨b, _⟩ := q; rfl
      rw [e, Bool.and_eq_true, decide_eq_true_iff, ih, List.pairwise_cons (a := p)]
      constructor
      · rintro ⟨h, hl⟩
        refine ⟨fun x hx => ?_, hl⟩
        rcases List.mem_cons.1 hx with rfl | hx
        · exact h
        · exact h.trans ((List.pairwise_cons.1 hl).1 x hx)
      · rintro ⟨h, hl⟩
        exact ⟨h q (by simp), hl⟩

omit [DecidableEq α] in
theorem mem_delKey {l : List (Nat × α)} {k : Nat} {p : Nat × α} (h : p ∈ delKey l k) : p ∈ l ∧ p.1 ≠ k := by
  induction l with
  | nil => simp [delKey] at h
  | cons q l ih =>
    by_cases hq : q.1 = k
    · have := ih (by simpa [delKey, hq] using h)
      exact ⟨List.mem_cons_of_mem _ this.1, this.2⟩
    · rcases List.mem_cons.1 (by simpa [delKey, hq] using h : p ∈ q :: delKey l k) with rfl | h
      · exact ⟨by simp, hq⟩
      · exact ⟨List.mem_cons_of_mem _ (ih h).1, (ih h).2⟩

omit [DecidableEq α] in
theorem mem_insKey {l : List (Nat × α)} {k : Nat} {v : α} {p : Nat × α} (h : p ∈ insKey k v l) : p = (k, v) ∨ p ∈ l := by
  induction l with
  | nil => simpa [insKey] using h
  | cons q l ih =>
    by_cases hlt : k < q.1
    · simpa [insKey, hlt] using h
    · rcases List.mem_cons.1 (by simpa [insKey, hlt] using h : p ∈ q :: insKey k v l) with rfl | h
      · simp
      · rcases ih h with h | h
        · exact .inl h
        · exact .inr (List.mem_cons_of_mem _ h)

omit [DecidableEq α] in
theorem sortedKeys_delKey {l : List (Nat × α)} (k : Nat) (h : sortedKeys l = true) : sortedKeys (delKey l k) = true := by
  rw [sortedKeys_iff] at h ⊢
  induction l with
  | nil => simp [delKey]
  | cons q l ih =>
    have hl := List.pairwise_cons.1 h
    by_cases hq : q.1 = k
    · simpa [delKey, hq] using ih hl.2
    · have e : delKey (q :: l) k = q :: delKey l k := by simp [delKey, hq]
      rw [e]
      exact List.pairwise_cons.2 ⟨fun x hx => hl.1 x (mem_delKey hx).1, ih hl.2⟩

omit [DecidableEq α] in
theorem sortedKeys_insKey {l : List (Nat × α)} {k : Nat} (v : α) (h : sortedKeys l = true) (hk : ∀ p ∈ l, p.1 ≠ k) :
    sortedKeys (insKey k v l) = true := by
  rw [sortedKeys_iff] at h ⊢
  induction l with
  | nil => simp [insKey]
  | cons q l ih =>
    have hl := List.pairwise_cons.1 h
    have hq : q.1 ≠ k := hk q (by simp)
    by_cases hlt : k < q.1
    · have e : insKey k v (q :: l) = (k, v) :: q :: l := by simp [insKey, hlt]
      rw [e]
      refine List.pairwise_cons.2 ⟨fun x hx => ?_, h⟩
      rcases List.mem_cons.1 hx with rfl | hx
      · exact hlt
      · exact hlt.trans (hl.1 x hx)
    · have e : insKey k v (q :: l) = q :: insKey k v l := by simp [insKey, hlt]
      rw [e]
      refine List.pairwise_cons.2 ⟨fun x hx => ?_, ih hl.2 (fun p hp => hk p (List.mem_cons_of_mem _ hp))⟩
      rcases mem_insKey hx with rfl | hx
      · show q.1 < k; omega
      · exact hl.1 x hx

omit [DecidableEq α] in
theorem sortedKeys_setKey {l : List (Nat × α)} (k : Nat) (v : α) (h : sortedKeys l = true) : sortedKeys (setKey l k v) = true :=
  sortedKeys_insKey v (sortedKeys_delKey k h) (fun _ hp => (mem_delKey hp).2)

theorem sortedKeys_putKey {l : List (Nat × α)} (k : Nat) (d v : α) (h : sortedKeys l = true) : sortedKeys (putKey l k d v) = true := by
  unfold putKey
  split
  · exact sortedKeys_delKey k h
  · exact sortedKeys_setKey k v h

/-- Putting a value keeps a table free of entries that equal what an unlisted key stands for. -/
theorem mem_putKey_ne {l : List (Nat × α)} {k : Nat} {d v : α} (h : ∀ p ∈ l, p.2 ≠ d) : ∀ p ∈ putKey l k d v, p.2 ≠ d := by
  intro p hp
  unfold putKey at hp
  split at hp
  · exact h p (mem_delKey hp).1
  · rename_i hv
    rcases mem_insKey hp with rfl | hp
    · exact hv
    · exact h p (mem_delKey hp).1

end Sys2Proof
end

