-- ==== Sys2Proof/Laws/Memory.lean ====
section
/-!
SUPPORT. Laws/Memory.lean: the device HBM (R20, R351): reading after writing, and the canonical form that every operation keeps.
-/
namespace Sys2Proof.Machine
open Sys2Proof

theorem putMem_cons (m : List Host.Cell) (a : Nat) (b : Byte) (l : List Byte) :
    putMem m a (b :: l) = putMem (putKey m a hbmDefault b) (a + 1) l := rfl

/-- A byte outside the bytes written reads as before. -/
theorem putMem_ne (m : List Host.Cell) (a : Nat) (l : List Byte) (x : Nat) (h : x < a ∨ a + l.length ≤ x) :
    (findKey (putMem m a l) x).getD hbmDefault = (findKey m x).getD hbmDefault := by
  induction l generalizing m a with
  | nil => rfl
  | cons b l ih =>
    have hne : a ≠ x := by simp at h; omega
    rw [putMem_cons, ih _ _ (by simp at h; omega), findKey_putKey_ne _ _ _ hne]

/-- A byte inside the bytes written reads as written. -/
theorem putMem_same (m : List Host.Cell) (a : Nat) (l : List Byte) (i : Nat) (h : i < l.length) :
    (findKey (putMem m a l) (a + i)).getD hbmDefault = l[i] := by
  induction l generalizing m a i with
  | nil => simp at h
  | cons b l ih =>
    rw [putMem_cons]
    cases i with
    | zero =>
      rw [putMem_ne _ _ _ _ (.inl (by omega))]
      exact getD_putKey_same _ _ _ _
    | succ i =>
      have := ih (putKey m a hbmDefault b) (a + 1) i (by simpa using h)
      rw [show a + (i + 1) = a + 1 + i by omega, this]
      rfl

/-- A write leaves every byte outside it. -/
theorem hbmRd_hbmWr_ne (s : State) (a : Nat) (l : List Byte) (x : Nat) (h : x < a ∨ a + l.length ≤ x) :
    hbmRd (hbmWr s a l) x = hbmRd s x := putMem_ne s.hbm a l x h

/-- A write stores its bytes. -/
theorem hbmRd_hbmWr_same (s : State) (a : Nat) (l : List Byte) (i : Nat) (h : i < l.length) :
    hbmRd (hbmWr s a l) (a + i) = l[i] := putMem_same s.hbm a l i h

/-- `hbmRd` sees only the HBM. -/
theorem hbmRd_congr {s t : State} (h : t.hbm = s.hbm) (a : Nat) : hbmRd t a = hbmRd s a := by unfold hbmRd; rw [h]

/-- Putting bytes keeps the canonical form. -/
theorem putMem_wf (m : List Host.Cell) (a : Nat) (l : List Byte) (h : Memory.wf m = true) : Memory.wf (putMem m a l) = true := by
  induction l generalizing m a with
  | nil => exact h
  | cons b l ih =>
    rw [putMem_cons]
    refine ih _ _ ?_
    unfold Memory.wf at h ⊢
    rw [Bool.and_eq_true, List.all_eq_true] at h ⊢
    refine ⟨sortedKeys_putKey _ _ _ h.1, fun p hp => ?_⟩
    have := mem_putKey_ne (d := hbmDefault) (fun q hq => by simpa using h.2 q hq) p hp
    simpa using this

/-- Every write of the HBM keeps the canonical form. -/
theorem hbmWr_wf (s : State) (a : Nat) (l : List Byte) (h : Memory.wf s.hbm = true) : Memory.wf (hbmWr s a l).hbm = true :=
  putMem_wf s.hbm a l h

/-- The HBM after reset has the canonical form. -/
theorem reset_wf : Memory.wf State.reset.hbm = true := rfl

end Sys2Proof.Machine
end

