-- ==== Sys2Proof/Laws/Kept.lean ====
section
/-!
SUPPORT. Laws/Kept.lean: how `Kept` (the canonical form of every store, and the queue) passes through updates, choices and folds, and through
the operations that write a store.
-/
namespace Sys2Proof.Machine
open Sys2Proof

/-! ### Shapes -/

/-- The part of `Kept` that an update of another field leaves alone. -/
def KeptParts (q : List Instr) (regs : List (Nat × Nat)) (hbm flash data shared : List Host.Cell) (pending : List Instr) : Prop :=
  Stores regs hbm flash data shared ∧ pending = q

theorem Kept.parts {q : List Instr} {s : State} (h : Kept q s) :
    KeptParts q s.regs s.hbm s.fw.flash s.cells.data s.cells.shared s.pending := h

theorem kept_mk {q : List Instr} {regs : List (Nat × Nat)} {hold snaps : List (Nat × Nat)} {now free : Nat} {time : Word}
    {hbm : List Host.Cell} {poison : List Nat} {inbox outbox : List (Nat × Packet)} {out : List Output} {err : ErrState} {fn : FnState}
    {tick : TimeState} {jig : JigState} {sw : SwState} {ext : ExtState} {host : HostState} {ep : EpState} {tel : TelState}
    {link : LinkState} {fw : FwState} {pw : PowerState} {mem : HbmState} {cells : CellState} {pending : List Instr} :
    Kept q (State.mk regs hold snaps now free time hbm poison inbox outbox out err fn tick jig sw ext host ep tel link fw pw mem cells pending) =
      KeptParts q regs hbm fw.flash cells.data cells.shared pending := rfl

theorem Kept.ite {q : List Instr} {c : Prop} [Decidable c] {s t : State} (h : Kept q s) (k : Kept q t) : Kept q (if c then s else t) := by
  split <;> assumption

theorem KeptOut.ite {q : List Instr} {c : Prop} [Decidable c] {s t : Host.Outcome State Fault Refusal} (h : KeptOut q s) (k : KeptOut q t) :
    KeptOut q (if c then s else t) := by
  split <;> assumption

theorem KeptOut.next {q : List Instr} {s : State} (h : Kept q s) : KeptOut q (.next s) := h
theorem KeptOut.refused {q : List Instr} {r : Refusal} : KeptOut q (.refused r) := trivial

theorem Kept.foldl {q : List Instr} {β : Type} {f : State → β → State} {l : List β} {s : State} (h : Kept q s)
    (hf : ∀ s b, Kept q s → Kept q (f s b)) : Kept q (l.foldl f s) := by
  induction l generalizing s with
  | nil => exact h
  | cons b l ih => exact ih (hf s b h)

/-- `Kept` of the state beside another result. -/
def KeptSnd {α : Type} (q : List Instr) (p : α × State) : Prop := Kept q p.2
/-- `Kept` of a state that may be absent. -/
def KeptOpt (q : List Instr) (o : Option State) : Prop := ∀ t, o = some t → Kept q t

theorem KeptSnd.ite {α : Type} {q : List Instr} {c : Prop} [Decidable c] {s t : α × State} (h : KeptSnd q s) (k : KeptSnd q t) :
    KeptSnd q (if c then s else t) := by
  split <;> assumption
theorem KeptSnd.mk {α : Type} {q : List Instr} {a : α} {s : State} (h : Kept q s) : KeptSnd q (a, s) := h
theorem Kept.snd {α : Type} {q : List Instr} {p : α × State} (h : KeptSnd q p) : Kept q p.2 := h
theorem Kept.sndOf {α : Type} {q : List Instr} {p : α × State} {a : α} {t : State} (e : p = (a, t)) (h : KeptSnd q p) : Kept q t := by
  subst e; exact h
/-- `Kept` of the state before another result. -/
def KeptFst {α : Type} (q : List Instr) (p : State × α) : Prop := Kept q p.1
theorem KeptFst.ite {α : Type} {q : List Instr} {c : Prop} [Decidable c] {s t : State × α} (h : KeptFst q s) (k : KeptFst q t) :
    KeptFst q (if c then s else t) := by
  split <;> assumption
theorem KeptFst.mk {α : Type} {q : List Instr} {a : α} {s : State} (h : Kept q s) : KeptFst q (s, a) := h
theorem Kept.fst {α : Type} {q : List Instr} {p : State × α} (h : KeptFst q p) : Kept q p.1 := h
theorem Kept.fstOf {α : Type} {q : List Instr} {p : State × α} {a : α} {t : State} (e : p = (t, a)) (h : KeptFst q p) : Kept q t := by
  subst e; exact h
theorem Kept.optOf {q : List Instr} {o : Option State} {t : State} (e : o = some t) (h : KeptOpt q o) : Kept q t := h t e

theorem KeptOpt.none {q : List Instr} : KeptOpt q none := fun _ h => by cases h
theorem KeptOpt.some {q : List Instr} {s : State} (h : Kept q s) : KeptOpt q (some s) := fun _ e => by cases e; exact h
theorem KeptOpt.ite {q : List Instr} {c : Prop} [Decidable c] {s t : Option State} (h : KeptOpt q s) (k : KeptOpt q t) :
    KeptOpt q (if c then s else t) := by
  split <;> assumption
theorem KeptOpt.map {q : List Instr} {o : Option State} {f : State → State} (hf : ∀ t, Kept q t → Kept q (f t)) (h : KeptOpt q o) :
    KeptOpt q (o.map f) := by
  intro t e
  rw [Option.map_eq_some_iff] at e
  obtain ⟨u, hu, rfl⟩ := e
  exact hf _ (h _ hu)
theorem Kept.getD {q : List Instr} {o : Option State} {s : State} (h : KeptOpt q o) (k : Kept q s) : Kept q (o.getD s) := by
  cases o with
  | none => exact k
  | some t => exact h t rfl

/-! ### The operations that write a store -/

theorem kept_wr {q : List Instr} {s : State} (h : Kept q s) (f : Fld) (v : Nat) : Kept q (wr s f v) :=
  ⟨⟨sortedKeys_putKey _ _ _ h.1.1, h.1.2⟩, h.2⟩

theorem kept_hbmWr {q : List Instr} {s : State} (h : Kept q s) (a : Nat) (l : List Byte) : Kept q (hbmWr s a l) :=
  ⟨⟨h.1.1, putMem_wf _ _ _ h.1.2.1, h.1.2.2⟩, h.2⟩

theorem putFlash_wf (m : List Host.Cell) (a : Nat) (l : List Byte) (h : Flash.wf m = true) : Flash.wf (putFlash m a l) = true := by
  induction l generalizing m a with
  | nil => exact h
  | cons b l ih =>
    refine ih _ _ ?_
    unfold Flash.wf at h ⊢
    rw [Bool.and_eq_true, List.all_eq_true] at h ⊢
    refine ⟨sortedKeys_putKey _ _ _ h.1, fun p hp => ?_⟩
    have := mem_putKey_ne (d := flashDefault) (fun q hq => by simpa using h.2 q hq) p hp
    simpa using this

theorem kept_flashWr {q : List Instr} {s : State} (h : Kept q s) (a : Nat) (l : List Byte) : Kept q (flashWr s a l) :=
  ⟨⟨h.1.1, h.1.2.1, putFlash_wf _ _ _ h.1.2.2.1, h.1.2.2.2⟩, h.2⟩

theorem sortedKeys_filter {α : Type} {l : List (Nat × α)} (f : Nat × α → Bool) (h : sortedKeys l = true) : sortedKeys (l.filter f) = true := by
  rw [sortedKeys_iff] at h ⊢
  exact h.filter f

theorem memory_filter_wf {m : List Host.Cell} (f : Host.Cell → Bool) (h : Memory.wf m = true) : Memory.wf (m.filter f) = true := by
  unfold Memory.wf at h ⊢
  rw [Bool.and_eq_true, List.all_eq_true] at h ⊢
  exact ⟨sortedKeys_filter f h.1, fun p hp => h.2 p (List.mem_filter.1 hp).1⟩

theorem flash_filter_wf {m : List Host.Cell} (f : Host.Cell → Bool) (h : Flash.wf m = true) : Flash.wf (m.filter f) = true := by
  unfold Flash.wf at h ⊢
  rw [Bool.and_eq_true, List.all_eq_true] at h ⊢
  exact ⟨sortedKeys_filter f h.1, fun p hp => h.2 p (List.mem_filter.1 hp).1⟩

theorem reset_canonical : State.reset.canonical := ⟨rfl, rfl, rfl, rfl, rfl⟩

theorem sortedKeys_filterMap {α β : Type} {l : List (Nat × α)} {f : Nat × α → Option (Nat × β)} (hf : ∀ e d, f e = some d → d.1 = e.1)
    (h : sortedKeys l = true) : sortedKeys (l.filterMap f) = true := by
  rw [sortedKeys_iff] at h ⊢
  exact h.filterMap f (fun a a' hlt b hb b' hb' => by rw [hf a b hb, hf a' b' hb']; exact hlt)

theorem kept_flashErase {q : List Instr} {s : State} (h : Kept q s) (a n : Nat) : Kept q (flashErase s a n) :=
  ⟨⟨h.1.1, h.1.2.1, flash_filter_wf _ h.1.2.2.1, h.1.2.2.2⟩, h.2⟩

theorem kept_localWr {q : List Instr} {s : State} (h : Kept q s) (l a : Nat) (b : List Byte) : Kept q (localWr s l a b) :=
  ⟨⟨h.1.1, h.1.2.1, h.1.2.2.1, putMem_wf _ _ _ h.1.2.2.2.1, h.1.2.2.2.2⟩, h.2⟩

theorem kept_sharedWr {q : List Instr} {s : State} (h : Kept q s) (c a : Nat) (b : List Byte) : Kept q (sharedWr s c a b) :=
  ⟨⟨h.1.1, h.1.2.1, h.1.2.2.1, h.1.2.2.2.1, putMem_wf _ _ _ h.1.2.2.2.2⟩, h.2⟩

theorem kept_wrs {q : List Instr} {s : State} (h : Kept q s) (l : List (Fld × Nat)) : Kept q (wrs s l) := by
  induction l generalizing s with
  | nil => exact h
  | cons p l ih => exact ih (kept_wr h p.1 p.2)

end Sys2Proof.Machine
end

