-- ==== Sys2Proof/Laws/KeptOps.lean ====
section
/-!
SUPPORT. Laws/KeptOps.lean: the operations of Machine/Ops.lean keep the canonical form of every store and the queue.
-/
namespace Sys2Proof.Machine
open Sys2Proof

theorem kept_wrb {q : List Instr} {s : State} (h : Kept q s) (f b) : Kept q (wrb s f b) := by
  unfold wrb
  repeat' first | with_reducible exact h | with_reducible assumption | with_reducible apply kept_wr

theorem kept_cnt {q : List Instr} {s : State} (h : Kept q s) (f n) : Kept q (cnt s f n) := by
  unfold cnt
  repeat' first | with_reducible exact h | with_reducible assumption | with_reducible apply kept_wr

theorem kept_bump {q : List Instr} {s : State} (h : Kept q s) (num n) : Kept q (bump s num n) := by
  unfold bump
  repeat' first
    | with_reducible exact h
    | with_reducible assumption
    | with_reducible apply Kept.ite
    | simp only [kept_mk]
    | with_reducible apply Kept.parts

theorem kept_freeNat {q : List Instr} {s : State} (h : Kept q s) : KeptSnd q (freeNat s) := by
  unfold freeNat
  repeat' first
    | with_reducible exact h
    | with_reducible assumption
    | with_reducible apply KeptSnd.ite
    | with_reducible apply KeptSnd.mk
    | with_reducible apply Kept.ite
    | simp only [kept_mk]
    | with_reducible apply Kept.parts

theorem kept_takeFree {q : List Instr} {s : State} (h : Kept q s) (k) : Kept q (takeFree s k) := by
  unfold takeFree
  repeat' first
    | with_reducible exact h
    | with_reducible assumption
    | with_reducible apply Kept.ite
    | simp only [kept_mk]
    | with_reducible apply Kept.parts

theorem kept_countHeld {q : List Instr} {s : State} (h : Kept q s) : Kept q (countHeld s) := by
  unfold countHeld
  repeat' first
    | with_reducible exact h
    | with_reducible assumption
    | with_reducible apply kept_bump
    | with_reducible apply kept_cnt
    | with_reducible apply Kept.ite
    | simp only [kept_mk]
    | with_reducible apply Kept.parts

theorem kept_markKerf {q : List Instr} {s : State} (h : Kept q s) (k) : Kept q (markKerf s k) := by
  unfold markKerf
  repeat' first
    | with_reducible exact h
    | with_reducible assumption
    | with_reducible apply Kept.ite
    | simp only [kept_mk]
    | with_reducible apply Kept.parts

theorem kept_passKerf {q : List Instr} {s : State} (h : Kept q s) (t) : Kept q (passKerf s t) := by
  unfold passKerf
  repeat' first | with_reducible exact h | with_reducible assumption | with_reducible apply kept_markKerf | with_reducible apply Kept.ite

theorem kept_newTick {q : List Instr} {s : State} (h : Kept q s) : Kept q (newTick s) := by
  unfold newTick
  repeat' first
    | with_reducible exact h
    | with_reducible assumption
    | with_reducible apply kept_countHeld
    | with_reducible apply Kept.ite
    | simp only [kept_mk]
    | with_reducible apply Kept.parts

theorem kept_runOn {q : List Instr} {s : State} (h : Kept q s) (n) : Kept q (runOn s n) := by
  unfold runOn
  repeat' first
    | with_reducible exact h
    | with_reducible assumption
    | with_reducible apply Kept.ite
    | simp only [kept_mk]
    | with_reducible apply Kept.parts

theorem kept_advance {q : List Instr} {s : State} (h : Kept q s) : Kept q (advance s) := by
  unfold advance
  repeat' first
    | with_reducible exact h
    | with_reducible assumption
    | with_reducible apply kept_runOn
    | with_reducible apply kept_passKerf
    | with_reducible apply kept_newTick
    | with_reducible apply Kept.ite
    | simp only [kept_mk]
    | with_reducible apply Kept.parts

theorem kept_emitOut {q : List Instr} {s : State} (h : Kept q s) (o) : Kept q (emitOut s o) := by
  unfold emitOut
  repeat' first
    | with_reducible exact h
    | with_reducible assumption
    | with_reducible apply Kept.ite
    | simp only [kept_mk]
    | with_reducible apply Kept.parts

theorem kept_offer {q : List Instr} {s : State} (h : Kept q s) (x p) : Kept q (offer s x p) := by
  unfold offer
  repeat' first
    | with_reducible exact h
    | with_reducible assumption
    | with_reducible apply Kept.ite
    | simp only [kept_mk]
    | with_reducible apply Kept.parts

theorem kept_msixOut {q : List Instr} {s : State} (h : Kept q s) (port func vector) : Kept q (msixOut s port func vector) := by
  unfold msixOut
  repeat' first | with_reducible exact h | with_reducible assumption | with_reducible apply kept_emitOut

theorem kept_sendMsix {q : List Instr} {s : State} (h : Kept q s) (port func vector) : Kept q (sendMsix s port func vector) := by
  unfold sendMsix
  repeat' first
    | with_reducible exact h
    | with_reducible assumption
    | with_reducible apply kept_msixOut
    | with_reducible apply Kept.ite
    | simp only [kept_mk]
    | with_reducible apply Kept.parts

theorem kept_askPage {q : List Instr} {s : State} (h : Kept q s) (e func addr write) : Kept q (askPage s e func addr write) := by
  unfold askPage
  repeat' first | with_reducible exact h | with_reducible assumption | with_reducible apply kept_emitOut

theorem kept_cdcLost {q : List Instr} {s : State} (h : Kept q s) (i) : Kept q (cdcLost s i) := by
  unfold cdcLost
  repeat' first | with_reducible exact h | with_reducible assumption | with_reducible apply kept_wr

theorem kept_dmaWrite {q : List Instr} {s : State} (h : Kept q s) (e func addr data ring ro) : Kept q (dmaWrite s e func addr data ring ro) := by
  unfold dmaWrite
  repeat' first
    | with_reducible exact h
    | with_reducible assumption
    | with_reducible apply kept_emitOut
    | with_reducible apply kept_askPage
    | with_reducible apply Kept.ite
    | simp only [kept_mk]
    | with_reducible apply Kept.parts
    | with_reducible refine Kept.foldl ?_ (fun _ _ _ => ?_)
    | split

theorem kept_fwLogPut {q : List Instr} {s : State} (h : Kept q s) (proc level id a0 a1) : Kept q (fwLogPut s proc level id a0 a1) := by
  unfold fwLogPut
  repeat' first | with_reducible exact h | with_reducible assumption | with_reducible apply kept_emitOut | with_reducible apply kept_wrs

theorem kept_trace {q : List Instr} {s : State} (h : Kept q s) (proc g id a0 a1) : Kept q (trace s proc g id a0 a1) := by
  unfold trace
  repeat' first | with_reducible exact h | with_reducible assumption | with_reducible apply kept_fwLogPut | with_reducible apply Kept.ite

theorem kept_logRecord {q : List Instr} {s : State} (h : Kept q s) (n) : Kept q (logRecord s n) := by
  unfold logRecord
  repeat' first
    | with_reducible exact h
    | with_reducible assumption
    | with_reducible apply kept_wr
    | with_reducible apply kept_wrs
    | with_reducible apply kept_cnt
    | with_reducible apply Kept.ite

theorem kept_ringFull {q : List Instr} {s : State} (h : Kept q s) : Kept q (ringFull s) := by
  unfold ringFull
  repeat' first | with_reducible exact h | with_reducible assumption | with_reducible apply kept_wrb

theorem kept_ringWrite {q : List Instr} {s : State} (h : Kept q s) (n) : Kept q (ringWrite s n) := by
  unfold ringWrite
  repeat' first
    | with_reducible exact h
    | with_reducible assumption
    | with_reducible apply kept_dmaWrite
    | with_reducible apply kept_ringFull
    | with_reducible apply kept_wr
    | with_reducible apply kept_sendMsix
    | with_reducible apply Kept.ite
    | simp only [kept_mk]
    | with_reducible apply Kept.parts

theorem kept_ringPut {q : List Instr} {s : State} (h : Kept q s) (n) : Kept q (ringPut s n) := by
  unfold ringPut
  repeat' first
    | with_reducible exact h
    | with_reducible assumption
    | with_reducible apply kept_ringWrite
    | with_reducible apply kept_askPage
    | with_reducible apply Kept.ite
    | simp only [kept_mk]
    | with_reducible apply Kept.parts
    | with_reducible refine Kept.foldl ?_ (fun _ _ _ => ?_)
    | split

theorem kept_ringDrain {q : List Instr} {s : State} (h : Kept q s)  (k : Nat) : Kept q (ringDrain s k) := by
  induction k generalizing s with
  | zero => exact h
  | succ k ih =>
    unfold ringDrain
    repeat' first
      | with_reducible exact h
      | with_reducible assumption
      | with_reducible apply ih
      | with_reducible apply kept_ringWrite
      | with_reducible apply kept_askPage
      | with_reducible apply Kept.ite
      | simp only [kept_mk]
      | with_reducible apply Kept.parts
      | with_reducible refine Kept.foldl ?_ (fun _ _ _ => ?_)
      | split

theorem kept_ringLose {q : List Instr} {s : State} (h : Kept q s) : Kept q (ringLose s) := by
  unfold ringLose
  repeat' first
    | with_reducible exact h
    | with_reducible assumption
    | with_reducible apply kept_wr
    | with_reducible apply kept_cnt
    | with_reducible apply Kept.ite
    | simp only [kept_mk]
    | with_reducible apply Kept.parts

theorem kept_countSource {q : List Instr} {s : State} (h : Kept q s) (src cls cause) : Kept q (countSource s src cls cause) := by
  unfold countSource
  repeat' first
    | with_reducible exact h
    | with_reducible assumption
    | with_reducible apply kept_wrs
    | with_reducible apply kept_cnt
    | with_reducible apply Kept.ite

theorem kept_overrunRecord {q : List Instr} {s : State} (h : Kept q s) : Kept q (overrunRecord s) := by
  unfold overrunRecord
  repeat' first
    | with_reducible exact h
    | with_reducible assumption
    | with_reducible apply kept_countSource
    | with_reducible apply kept_wr
    | with_reducible apply kept_logRecord
    | with_reducible apply kept_ringPut
    | with_reducible apply Kept.ite
    | simp only [kept_mk]
    | with_reducible apply Kept.parts

theorem kept_putRecord {q : List Instr} {s : State} (h : Kept q s) (src e coalesced) : Kept q (putRecord s src e coalesced) := by
  unfold putRecord
  repeat' first
    | with_reducible exact h
    | with_reducible assumption
    | with_reducible apply kept_overrunRecord
    | with_reducible apply kept_logRecord
    | with_reducible apply kept_ringPut
    | with_reducible apply kept_wr
    | with_reducible apply kept_cnt
    | with_reducible apply Kept.ite
    | simp only [kept_mk]
    | with_reducible apply Kept.parts

theorem kept_eventsQueued {q : List Instr} {s : State} (h : Kept q s) : Kept q (eventsQueued s) := by
  unfold eventsQueued
  repeat' first | with_reducible exact h | with_reducible assumption | with_reducible apply kept_wr

theorem kept_reportBy {q : List Instr} {put : State → Nat → PendErr → Bool → State} (hp : ∀ s src e c, Kept q s → Kept q (put s src e c))
    {s : State} (h : Kept q s) (src cls cause outcome detA detB : Nat) : Kept q (reportBy put s src cls cause outcome detA detB) := by
  unfold reportBy
  have k := kept_countSource h src cls cause
  exact Kept.ite k (hp _ _ _ _ k)

theorem kept_emitRecord {q : List Instr} {s : State} (h : Kept q s) (src e coalesced) : Kept q (emitRecord s src e coalesced) := by
  unfold emitRecord
  repeat' first
    | with_reducible exact h
    | with_reducible assumption
    | with_reducible apply kept_overrunRecord
    | with_reducible apply kept_putRecord
    | with_reducible apply kept_eventsQueued
    | with_reducible apply kept_cnt
    | with_reducible apply kept_reportBy
    | with_reducible apply Kept.ite
    | simp only [kept_mk]
    | with_reducible apply Kept.parts
    | with_reducible refine Kept.foldl ?_ (fun _ _ _ => ?_)
    | split
    | with_reducible apply Kept.getD
    | with_reducible apply Kept.snd
    | with_reducible apply Kept.fst
    | refine Kept.sndOf (by assumption) ?_
    | refine Kept.fstOf (by assumption) ?_
    | refine Kept.optOf (by assumption) ?_
    | intro _

theorem kept_report {q : List Instr} {s : State} (h : Kept q s) (src cls cause outcome detA detB) : Kept q (report s src cls cause outcome detA detB) := by
  unfold report
  repeat' first
    | with_reducible exact h
    | with_reducible assumption
    | with_reducible apply kept_reportBy
    | with_reducible apply kept_emitRecord
    | with_reducible apply Kept.ite
    | simp only [kept_mk]
    | with_reducible apply Kept.parts
    | with_reducible refine Kept.foldl ?_ (fun _ _ _ => ?_)
    | split
    | with_reducible apply Kept.getD
    | with_reducible apply Kept.snd
    | with_reducible apply Kept.fst
    | refine Kept.sndOf (by assumption) ?_
    | refine Kept.fstOf (by assumption) ?_
    | refine Kept.optOf (by assumption) ?_
    | intro _

theorem kept_regError {q : List Instr} {s : State} (h : Kept q s) (w addr bytes write cause) : Kept q (regError s w addr bytes write cause) := by
  unfold regError
  repeat' first | with_reducible exact h | with_reducible assumption | with_reducible apply kept_report

theorem kept_packetError {q : List Instr} {s : State} (h : Kept q s) (x cause x3) : Kept q (packetError s x cause x3) := by
  unfold packetError
  repeat' first | with_reducible exact h | with_reducible assumption | with_reducible apply kept_report

end Sys2Proof.Machine
end

