-- ==== Sys2Proof/Laws/KeptExtents.lean ====
section
/-!
SUPPORT. Laws/KeptExtents.lean: the operations of Machine/Extents.lean keep the canonical form of every store and the queue.
-/
namespace Sys2Proof.Machine
open Sys2Proof

theorem kept_extCounts {q : List Instr} {s : State} (h : Kept q s) : Kept q (extCounts s) := by
  unfold extCounts
  repeat' first | with_reducible exact h | with_reducible assumption | with_reducible apply kept_wr

theorem kept_extSet {q : List Instr} {s : State} (h : Kept q s) (i e) : Kept q (extSet s i e) := by
  unfold extSet
  repeat' first
    | with_reducible exact h
    | with_reducible assumption
    | with_reducible apply kept_extCounts
    | with_reducible apply Kept.ite
    | simp only [kept_mk]
    | with_reducible apply Kept.parts

theorem kept_extFree {q : List Instr} {s : State} (h : Kept q s) (i) : Kept q (extFree s i) := by
  unfold extFree
  repeat' first
    | with_reducible exact h
    | with_reducible assumption
    | with_reducible apply kept_extSet
    | with_reducible apply Kept.ite
    | simp only [kept_mk]
    | with_reducible apply Kept.parts

theorem kept_inflightUp {q : List Instr} {s : State} (h : Kept q s) (i) : Kept q (inflightUp s i) := by
  unfold inflightUp
  repeat' first | with_reducible exact h | with_reducible assumption | with_reducible apply kept_extSet

theorem kept_inflightDown {q : List Instr} {s : State} (h : Kept q s) (x1) : Kept q (inflightDown s x1) := by
  unfold inflightDown
  repeat' first
    | with_reducible exact h
    | with_reducible assumption
    | with_reducible apply kept_extSet
    | with_reducible apply kept_extFree
    | with_reducible apply Kept.ite
    | simp only
    | with_reducible apply Kept.parts
    | with_reducible refine Kept.foldl ?_ (fun _ _ _ => ?_)
    | split

theorem kept_extResult {q : List Instr} {s : State} (h : Kept q s) (i op result) : Kept q (extResult s i op result) := by
  unfold extResult
  repeat' first
    | with_reducible exact h
    | with_reducible assumption
    | with_reducible apply kept_wrs
    | with_reducible apply Kept.ite
    | simp only [kept_mk]
    | with_reducible apply Kept.parts

theorem kept_extBusy {q : List Instr} {s : State} (h : Kept q s) (w acc) : Kept q (extBusy s w acc) := by
  unfold extBusy
  repeat' first | with_reducible exact h | with_reducible assumption | with_reducible apply kept_regError | with_reducible apply kept_wr

theorem kept_extWrite {q : List Instr} {s : State} (h : Kept q s) (w i acc) : Kept q (extWrite s w i acc) := by
  unfold extWrite
  repeat' first
    | with_reducible exact h
    | with_reducible assumption
    | with_reducible apply kept_extBusy
    | with_reducible apply kept_extResult
    | with_reducible apply kept_extSet
    | with_reducible apply Kept.ite

theorem kept_revokeEntry {q : List Instr} {s : State} (h : Kept q s) (i) : KeptSnd q (revokeEntry s i) := by
  unfold revokeEntry
  repeat' first
    | with_reducible exact h
    | with_reducible assumption
    | with_reducible apply KeptSnd.ite
    | with_reducible apply KeptSnd.mk
    | with_reducible apply kept_extFree
    | with_reducible apply kept_extSet

theorem kept_extRevoke {q : List Instr} {s : State} (h : Kept q s) (w i acc) : Kept q (extRevoke s w i acc) := by
  unfold extRevoke
  repeat' first
    | with_reducible exact h
    | with_reducible assumption
    | with_reducible apply kept_extBusy
    | with_reducible apply kept_extResult
    | with_reducible apply kept_revokeEntry
    | with_reducible apply Kept.ite
    | simp only [kept_mk]
    | with_reducible apply Kept.parts
    | with_reducible refine Kept.foldl ?_ (fun _ _ _ => ?_)
    | split
    | with_reducible apply Kept.getD
    | with_reducible apply Kept.snd

theorem kept_extRead {q : List Instr} {s : State} (h : Kept q s) (w i acc) : Kept q (extRead s w i acc) := by
  unfold extRead
  repeat' first
    | with_reducible exact h
    | with_reducible assumption
    | with_reducible apply kept_extBusy
    | with_reducible apply kept_extResult
    | with_reducible apply kept_wrs
    | with_reducible apply Kept.ite

theorem kept_extStart {q : List Instr} {s : State} (h : Kept q s) : Kept q (extStart s) := by
  unfold extStart
  repeat' first
    | with_reducible exact h
    | with_reducible assumption
    | with_reducible apply kept_extCounts
    | with_reducible apply Kept.ite
    | simp only [kept_mk]
    | with_reducible apply Kept.parts

theorem kept_execExtCmdWrite {q : List Instr} {s : State} (h : Kept q s) (w index) : KeptOut q (execExtCmdWrite w index s) := by
  unfold execExtCmdWrite
  repeat' first
    | with_reducible exact h
    | with_reducible assumption
    | with_reducible exact KeptOut.refused
    | with_reducible apply KeptOut.ite
    | with_reducible apply KeptOut.next
    | with_reducible apply kept_extWrite

theorem kept_execExtCmdRevoke {q : List Instr} {s : State} (h : Kept q s) (w index) : KeptOut q (execExtCmdRevoke w index s) := by
  unfold execExtCmdRevoke
  repeat' first
    | with_reducible exact h
    | with_reducible assumption
    | with_reducible exact KeptOut.refused
    | with_reducible apply KeptOut.ite
    | with_reducible apply KeptOut.next
    | with_reducible apply kept_extRevoke

theorem kept_execExtCmdRead {q : List Instr} {s : State} (h : Kept q s) (w index) : KeptOut q (execExtCmdRead w index s) := by
  unfold execExtCmdRead
  repeat' first
    | with_reducible exact h
    | with_reducible assumption
    | with_reducible exact KeptOut.refused
    | with_reducible apply KeptOut.ite
    | with_reducible apply KeptOut.next
    | with_reducible apply kept_extRead

theorem kept_extDone {q : List Instr} {s : State} (h : Kept q s) : Kept q (extDone s) := by
  unfold extDone
  repeat' first
    | with_reducible exact h
    | with_reducible assumption
    | with_reducible apply kept_wr
    | with_reducible apply Kept.ite
    | simp only [kept_mk]
    | with_reducible apply Kept.parts

theorem kept_execExtCmdDone {q : List Instr} {s : State} (h : Kept q s) : KeptOut q (execExtCmdDone s) := by
  unfold execExtCmdDone
  repeat' first
    | with_reducible exact h
    | with_reducible assumption
    | with_reducible exact KeptOut.refused
    | with_reducible apply KeptOut.ite
    | with_reducible apply KeptOut.next
    | with_reducible apply kept_extDone

theorem kept_extDrain {q : List Instr} {s : State} (h : Kept q s) (i) : Kept q (extDrain s i) := by
  unfold extDrain
  repeat' first
    | with_reducible exact h
    | with_reducible assumption
    | with_reducible apply kept_report
    | with_reducible apply kept_cnt
    | with_reducible apply kept_extFree

theorem kept_execExtentDrainTimeout {q : List Instr} {s : State} (h : Kept q s) (index) : KeptOut q (execExtentDrainTimeout index s) := by
  unfold execExtentDrainTimeout
  repeat' first
    | with_reducible exact h
    | with_reducible assumption
    | with_reducible exact KeptOut.refused
    | with_reducible apply KeptOut.ite
    | with_reducible apply KeptOut.next
    | with_reducible apply kept_extDrain
    | with_reducible apply Kept.ite

end Sys2Proof.Machine
end

