-- ==== Sys2Proof/Laws/KeptSwitch.lean ====
section
/-!
SUPPORT. Laws/KeptSwitch.lean: the operations of Machine/Switch.lean keep the canonical form of every store and the queue.
-/
namespace Sys2Proof.Machine
open Sys2Proof

theorem kept_bufStatus {q : List Instr} {s : State} (h : Kept q s) : Kept q (bufStatus s) := by
  unfold bufStatus
  repeat' first | with_reducible exact h | with_reducible assumption | with_reducible apply kept_wrs

theorem kept_oweCredit {q : List Instr} {s : State} (h : Kept q s) (inp x2 c n) : Kept q (oweCredit s inp x2 c n) := by
  unfold oweCredit
  repeat' first
    | with_reducible exact h
    | with_reducible assumption
    | with_reducible apply Kept.ite
    | simp only [kept_mk]
    | with_reducible apply Kept.parts

theorem kept_oweArrived {q : List Instr} {s : State} (h : Kept q s) (x1) : Kept q (oweArrived s x1) := by
  unfold oweArrived
  repeat' first | with_reducible exact h | with_reducible assumption | with_reducible apply kept_oweCredit | with_reducible apply Kept.ite

theorem kept_enqueue {q : List Instr} {s : State} (h : Kept q s) (x1 pl) : Kept q (enqueue s x1 pl) := by
  unfold enqueue
  repeat' first
    | with_reducible exact h
    | with_reducible assumption
    | with_reducible apply kept_bufStatus
    | with_reducible apply kept_countHeld
    | with_reducible apply kept_oweArrived
    | with_reducible apply Kept.ite
    | simp only [kept_mk]
    | with_reducible apply Kept.parts
    | with_reducible refine Kept.foldl ?_ (fun _ _ _ => ?_)
    | split

theorem kept_enterBuffer {q : List Instr} {s : State} (h : Kept q s) (x1 jigMiss) : Kept q (enterBuffer s x1 jigMiss) := by
  unfold enterBuffer
  repeat' first | with_reducible exact h | with_reducible assumption | with_reducible apply kept_enqueue | with_reducible apply Kept.ite

theorem kept_chainTake {q : List Instr} {s : State} (h : Kept q s) (k b) : Kept q (chainTake s k b) := by
  unfold chainTake
  repeat' first
    | with_reducible exact h
    | with_reducible assumption
    | with_reducible apply Kept.ite
    | simp only [kept_mk]
    | with_reducible apply Kept.parts
    | with_reducible refine Kept.foldl ?_ (fun _ _ _ => ?_)
    | split

theorem kept_dropPkt {q : List Instr} {s : State} (h : Kept q s) (id) : Kept q (dropPkt s id) := by
  unfold dropPkt
  repeat' first
    | with_reducible exact h
    | with_reducible assumption
    | with_reducible apply kept_chainTake
    | with_reducible apply kept_bufStatus
    | with_reducible apply Kept.ite
    | simp only [kept_mk]
    | with_reducible apply Kept.parts
    | with_reducible refine Kept.foldl ?_ (fun _ _ _ => ?_)
    | split

theorem kept_discardPkt {q : List Instr} {s : State} (h : Kept q s) (x1) : Kept q (discardPkt s x1) := by
  unfold discardPkt
  repeat' first
    | with_reducible exact h
    | with_reducible assumption
    | with_reducible apply kept_dropPkt
    | with_reducible apply kept_oweArrived
    | with_reducible apply Kept.ite

theorem kept_releaseHeld {q : List Instr} {s : State} (h : Kept q s) (inp half c) : Kept q (releaseHeld s inp half c) := by
  unfold releaseHeld
  repeat' first
    | with_reducible exact h
    | with_reducible assumption
    | with_reducible apply kept_enqueue
    | with_reducible apply kept_dropPkt
    | with_reducible apply Kept.ite
    | simp only
    | with_reducible apply Kept.parts
    | with_reducible refine Kept.foldl ?_ (fun _ _ _ => ?_)
    | split

theorem kept_refill {q : List Instr} {s : State} (h : Kept q s) (k bad) : Kept q (refill s k bad) := by
  unfold refill
  repeat' first
    | with_reducible exact h
    | with_reducible assumption
    | with_reducible apply kept_discardPkt
    | with_reducible apply kept_bufStatus
    | with_reducible apply kept_chainTake
    | with_reducible apply Kept.ite
    | simp only [kept_mk]
    | with_reducible apply Kept.parts
    | with_reducible refine Kept.foldl ?_ (fun _ _ _ => ?_)
    | split

theorem kept_noteChoice {q : List Instr} {s : State} (h : Kept q s) (d o) : Kept q (noteChoice s d o) := by
  unfold noteChoice
  repeat' first
    | with_reducible exact h
    | with_reducible assumption
    | with_reducible apply Kept.ite
    | simp only [kept_mk]
    | with_reducible apply Kept.parts

theorem kept_fanoutPick {q : List Instr} {s : State} (h : Kept q s) (c : Nat) (l : List Nat) : KeptFst q (fanoutPick s c l) := by
  induction l generalizing s with
  | nil => exact h
  | cons d l ih =>
    unfold fanoutPick
    split
    · exact ih (kept_noteChoice h _ _)
    · exact ih h

theorem kept_bumpId {q : List Instr} {s : State} (h : Kept q s) : Kept q (bumpId s) := by
  unfold bumpId
  repeat' first
    | with_reducible exact h
    | with_reducible assumption
    | with_reducible apply Kept.ite
    | simp only [kept_mk]
    | with_reducible apply Kept.parts

theorem kept_noteRoute {q : List Instr} {s : State} (h : Kept q s) (x1 x2) : Kept q (noteRoute s x1 x2) := by
  unfold noteRoute
  repeat' first
    | with_reducible exact h
    | with_reducible assumption
    | with_reducible apply kept_noteChoice
    | with_reducible apply kept_fanoutPick
    | with_reducible apply Kept.ite
    | simp only [kept_mk]
    | with_reducible apply Kept.parts
    | with_reducible refine Kept.foldl ?_ (fun _ _ _ => ?_)
    | split
    | with_reducible apply Kept.getD
    | with_reducible apply Kept.snd
    | with_reducible apply Kept.fst

theorem kept_countNoRoute {q : List Instr} {s : State} (h : Kept q s) : Kept q (countNoRoute s) := by
  unfold countNoRoute
  repeat' first | with_reducible exact h | with_reducible assumption | with_reducible apply kept_bump | with_reducible apply kept_cnt

theorem kept_dropNoRoute {q : List Instr} {s : State} (h : Kept q s) (inp x2) : Kept q (dropNoRoute s inp x2) := by
  unfold dropNoRoute
  repeat' first | with_reducible exact h | with_reducible assumption | with_reducible apply kept_packetError | with_reducible apply kept_countNoRoute

theorem kept_countDiscarded {q : List Instr} {s : State} (h : Kept q s) (k) : Kept q (countDiscarded s k) := by
  unfold countDiscarded
  repeat' first | with_reducible exact h | with_reducible assumption | with_reducible apply kept_bump | with_reducible apply kept_cnt

theorem kept_capture {q : List Instr} {s : State} (h : Kept q s) (inp out x3 key) : Kept q (capture s inp out x3 key) := by
  unfold capture
  repeat' first
    | with_reducible exact h
    | with_reducible assumption
    | with_reducible apply kept_cnt
    | with_reducible apply Kept.ite
    | simp only [kept_mk]
    | with_reducible apply Kept.parts
    | with_reducible refine Kept.foldl ?_ (fun _ _ _ => ?_)
    | split

theorem kept_mirrorCopy {q : List Instr} {s : State} (h : Kept q s) (inp p arrived) : Kept q (mirrorCopy s inp p arrived) := by
  unfold mirrorCopy
  repeat' first
    | with_reducible exact h
    | with_reducible assumption
    | with_reducible apply kept_noteChoice
    | with_reducible apply kept_cnt
    | with_reducible apply kept_bump
    | with_reducible apply kept_bumpId
    | with_reducible apply kept_enqueue
    | with_reducible apply kept_dropNoRoute
    | with_reducible apply Kept.ite
    | simp only
    | with_reducible apply Kept.parts
    | with_reducible refine Kept.foldl ?_ (fun _ _ _ => ?_)
    | split

theorem kept_injectTo {q : List Instr} {s : State} (h : Kept q s) (inp p outs multi) : Kept q (injectTo s inp p outs multi) := by
  unfold injectTo
  repeat' first
    | with_reducible exact h
    | with_reducible assumption
    | with_reducible apply kept_enterBuffer
    | with_reducible apply kept_bumpId
    | with_reducible apply kept_mirrorCopy
    | with_reducible apply Kept.ite

theorem kept_injectQuiet {q : List Instr} {s : State} (h : Kept q s) (inp p) : Kept q (injectQuiet s inp p) := by
  unfold injectQuiet
  repeat' first
    | with_reducible exact h
    | with_reducible assumption
    | with_reducible apply kept_capture
    | with_reducible apply kept_injectTo
    | with_reducible apply kept_noteRoute
    | with_reducible apply kept_dropNoRoute
    | with_reducible apply kept_countNoRoute
    | with_reducible apply kept_cnt
    | with_reducible apply Kept.ite
    | simp only
    | with_reducible apply Kept.parts
    | with_reducible refine Kept.foldl ?_ (fun _ _ _ => ?_)
    | split

theorem kept_notifyUnreachable {q : List Instr} {s : State} (h : Kept q s) (x1 port) : Kept q (notifyUnreachable s x1 port) := by
  unfold notifyUnreachable
  repeat' first
    | with_reducible exact h
    | with_reducible assumption
    | with_reducible apply kept_injectQuiet
    | with_reducible apply Kept.ite
    | simp only [kept_mk]
    | with_reducible apply Kept.parts
    | with_reducible refine Kept.foldl ?_ (fun _ _ _ => ?_)
    | split

theorem kept_inject {q : List Instr} {s : State} (h : Kept q s) (inp p) : Kept q (inject s inp p) := by
  unfold inject
  repeat' first
    | with_reducible exact h
    | with_reducible assumption
    | with_reducible apply kept_notifyUnreachable
    | with_reducible apply kept_injectQuiet
    | with_reducible apply Kept.ite
    | simp only [kept_mk]
    | with_reducible apply Kept.parts
    | with_reducible refine Kept.foldl ?_ (fun _ _ _ => ?_)
    | split

theorem kept_denyAtIngress {q : List Instr} {s : State} (h : Kept q s) (inp x2 ccode detail) : Kept q (denyAtIngress s inp x2 ccode detail) := by
  unfold denyAtIngress
  repeat' first
    | with_reducible exact h
    | with_reducible assumption
    | with_reducible apply kept_inject
    | with_reducible apply kept_bump
    | with_reducible apply kept_cnt

theorem kept_clusterNotRunning {q : List Instr} {s : State} (h : Kept q s) (x x2) : Kept q (clusterNotRunning s x x2) := by
  unfold clusterNotRunning
  repeat' first
    | with_reducible exact h
    | with_reducible assumption
    | with_reducible apply kept_inject
    | with_reducible apply kept_countDiscarded
    | with_reducible apply kept_cnt
    | with_reducible apply Kept.ite
    | simp only [kept_mk]
    | with_reducible apply Kept.parts
    | with_reducible refine Kept.foldl ?_ (fun _ _ _ => ?_)
    | split

theorem kept_spendCredit {q : List Instr} {s : State} (h : Kept q s) (x1 c n) : Kept q (spendCredit s x1 c n) := by
  unfold spendCredit
  repeat' first
    | with_reducible exact h
    | with_reducible assumption
    | with_reducible apply Kept.ite
    | simp only [kept_mk]
    | with_reducible apply Kept.parts

theorem kept_setEgress {q : List Instr} {s : State} (h : Kept q s) (o l) : Kept q (setEgress s o l) := by
  unfold setEgress
  repeat' first
    | with_reducible exact h
    | with_reducible assumption
    | with_reducible apply Kept.ite
    | simp only [kept_mk]
    | with_reducible apply Kept.parts

theorem kept_jigAdmit {q : List Instr} {s : State} (h : Kept q s) (j inp half p arrived) : Kept q (jigAdmit s j inp half p arrived) := by
  unfold jigAdmit
  repeat' first
    | with_reducible exact h
    | with_reducible assumption
    | with_reducible apply kept_cnt
    | with_reducible apply kept_spendCredit
    | with_reducible apply kept_oweCredit
    | with_reducible apply kept_bumpId
    | with_reducible apply kept_setEgress
    | with_reducible apply Kept.ite
    | simp only [kept_mk]
    | with_reducible apply Kept.parts

theorem kept_jigMisses {q : List Instr} {s : State} (h : Kept q s) (l) : Kept q (jigMisses s l) := by
  unfold jigMisses
  repeat' first
    | with_reducible exact h
    | with_reducible assumption
    | with_reducible apply kept_cnt
    | with_reducible apply Kept.ite
    | simp only [kept_mk]
    | with_reducible apply Kept.parts
    | with_reducible refine Kept.foldl ?_ (fun _ _ _ => ?_)

theorem kept_discardBad {q : List Instr} {s : State} (h : Kept q s) (inp half cause p arrived count) : Kept q (discardBad s inp half cause p arrived count) := by
  unfold discardBad
  repeat' first
    | with_reducible exact h
    | with_reducible assumption
    | with_reducible apply kept_cnt
    | with_reducible apply kept_packetError
    | with_reducible apply kept_oweCredit
    | with_reducible apply Kept.ite

theorem kept_queuePacket {q : List Instr} {s : State} (h : Kept q s) (inp half p arrived outs multi unchecked jigMiss) : Kept q (queuePacket s inp half p arrived outs multi unchecked jigMiss) := by
  unfold queuePacket
  repeat' first
    | with_reducible exact h
    | with_reducible assumption
    | with_reducible apply kept_enterBuffer
    | with_reducible apply kept_bumpId
    | with_reducible apply kept_mirrorCopy
    | with_reducible apply Kept.ite

theorem kept_checkAndQueue {q : List Instr} {s : State} (h : Kept q s) (inp half p arrived outs multi miss jigMiss) : Kept q (checkAndQueue s inp half p arrived outs multi miss jigMiss) := by
  unfold checkAndQueue
  repeat' first
    | with_reducible exact h
    | with_reducible assumption
    | with_reducible apply kept_queuePacket
    | with_reducible apply kept_cnt
    | with_reducible apply kept_inflightUp
    | with_reducible apply kept_denyAtIngress
    | with_reducible apply kept_oweCredit
    | with_reducible apply Kept.ite
    | simp only [kept_mk]
    | with_reducible apply Kept.parts
    | with_reducible refine Kept.foldl ?_ (fun _ _ _ => ?_)
    | split

theorem kept_ingressRoute {q : List Instr} {s : State} (h : Kept q s) (inp half p arrived miss) : Kept q (ingressRoute s inp half p arrived miss) := by
  unfold ingressRoute
  repeat' first
    | with_reducible exact h
    | with_reducible assumption
    | with_reducible apply kept_noteRoute
    | with_reducible apply kept_capture
    | with_reducible apply kept_jigAdmit
    | with_reducible apply kept_jigMisses
    | with_reducible apply kept_checkAndQueue
    | with_reducible apply kept_inflightUp
    | with_reducible apply kept_denyAtIngress
    | with_reducible apply kept_oweCredit
    | with_reducible apply kept_notifyUnreachable
    | with_reducible apply kept_dropNoRoute
    | with_reducible apply kept_countNoRoute
    | with_reducible apply kept_clusterNotRunning
    | with_reducible apply Kept.ite
    | simp only
    | with_reducible apply Kept.parts
    | with_reducible refine Kept.foldl ?_ (fun _ _ _ => ?_)
    | split

theorem kept_takeOffer {q : List Instr} {s : State} (h : Kept q s) (x p) : Kept q (takeOffer s x p) := by
  unfold takeOffer
  repeat' first
    | with_reducible exact h
    | with_reducible assumption
    | with_reducible apply Kept.ite
    | simp only [kept_mk]
    | with_reducible apply Kept.parts
    | with_reducible refine Kept.foldl ?_ (fun _ _ _ => ?_)
    | split

theorem kept_ingress {q : List Instr} {s : State} (h : Kept q s) (inp half p complete miss) : Kept q (ingress s inp half p complete miss) := by
  unfold ingress
  repeat' first
    | with_reducible exact h
    | with_reducible assumption
    | with_reducible apply kept_takeOffer
    | with_reducible apply kept_discardBad
    | with_reducible apply kept_jigMisses
    | with_reducible apply kept_inflightDown
    | with_reducible apply kept_countDiscarded
    | with_reducible apply kept_oweCredit
    | with_reducible apply kept_ingressRoute
    | with_reducible apply Kept.ite
    | simp only
    | with_reducible apply Kept.parts
    | with_reducible refine Kept.foldl ?_ (fun _ _ _ => ?_)
    | split

theorem kept_execIngressHoldRelease {q : List Instr} {s : State} (h : Kept q s) (inp hi tc) : KeptOut q (execIngressHoldRelease inp hi tc s) := by
  unfold execIngressHoldRelease
  repeat' first
    | with_reducible exact h
    | with_reducible assumption
    | with_reducible exact KeptOut.refused
    | with_reducible apply KeptOut.ite
    | with_reducible apply KeptOut.next
    | with_reducible apply kept_releaseHeld

theorem kept_execSpillRefill {q : List Instr} {s : State} (h : Kept q s) (inp out tc multicast bad) : KeptOut q (execSpillRefill inp out tc multicast bad s) := by
  unfold execSpillRefill
  repeat' first
    | with_reducible exact h
    | with_reducible assumption
    | with_reducible exact KeptOut.refused
    | with_reducible apply KeptOut.ite
    | with_reducible apply KeptOut.next
    | with_reducible apply kept_refill

theorem kept_lookupReturn {q : List Instr} {s : State} (h : Kept q s) (id readError) : Kept q (lookupReturn s id readError) := by
  unfold lookupReturn
  repeat' first
    | with_reducible exact h
    | with_reducible assumption
    | with_reducible apply kept_report
    | with_reducible apply kept_takeFree
    | with_reducible apply kept_denyAtIngress
    | with_reducible apply kept_discardPkt
    | with_reducible apply kept_inflightUp
    | with_reducible apply Kept.ite
    | simp only [kept_mk]
    | with_reducible apply Kept.parts
    | with_reducible refine Kept.foldl ?_ (fun _ _ _ => ?_)
    | split

theorem kept_execExtentLookupReturn {q : List Instr} {s : State} (h : Kept q s) (id readError) : KeptOut q (execExtentLookupReturn id readError s) := by
  unfold execExtentLookupReturn
  repeat' first
    | with_reducible exact h
    | with_reducible assumption
    | with_reducible exact KeptOut.refused
    | with_reducible apply KeptOut.ite
    | with_reducible apply KeptOut.next
    | with_reducible apply kept_lookupReturn

end Sys2Proof.Machine
end

