-- ==== Sys2Proof/Laws/KeptScheduler.lean ====
section
/-!
SUPPORT. Laws/KeptScheduler.lean: the operations of Machine/Scheduler.lean keep the canonical form of every store and the queue.
-/
namespace Sys2Proof.Machine
open Sys2Proof

theorem kept_setDeficit {q : List Instr} {s : State} (h : Kept q s) (x c d) : Kept q (setDeficit s x c d) := by
  unfold setDeficit
  repeat' first
    | with_reducible exact h
    | with_reducible assumption
    | with_reducible apply Kept.ite
    | simp only [kept_mk]
    | with_reducible apply Kept.parts

theorem kept_drr {q : List Instr} {s : State} (h : Kept q s) (x : Nat) (cs : List Nat) (k : Nat) : KeptSnd q (drr s x cs k) := by
  induction k generalizing s with
  | zero => exact h
  | succ k ih =>
    refine KeptSnd.ite h (ih ?_)
    repeat' first
      | with_reducible exact h
      | with_reducible assumption
      | with_reducible apply kept_setDeficit
      | with_reducible apply Kept.ite
      | simp only [kept_mk]
      | with_reducible apply Kept.parts

theorem kept_pickClass {q : List Instr} {s : State} (h : Kept q s) (x : Nat) (cs : List Nat) : KeptSnd q (pickClass s x cs) :=
  KeptSnd.ite h (KeptSnd.ite h (kept_drr h _ _ _))

theorem kept_charge {q : List Instr} {s : State} (h : Kept q s) (x c b) : Kept q (charge s x c b) := by
  unfold charge
  repeat' first | with_reducible exact h | with_reducible assumption | with_reducible apply kept_setDeficit | with_reducible apply Kept.ite

theorem kept_landUnit {q : List Instr} {s : State} (h : Kept q s) (x1 o) : Kept q (landUnit s x1 o) := by
  unfold landUnit
  repeat' first
    | with_reducible exact h
    | with_reducible assumption
    | with_reducible apply kept_clusterNotRunning
    | with_reducible apply kept_notifyUnreachable
    | with_reducible apply Kept.ite
    | simp only [kept_mk]
    | with_reducible apply Kept.parts

theorem kept_deliverChunk {q : List Instr} {s : State} (h : Kept q s) (x1 o) : Kept q (deliverChunk s x1 o) := by
  unfold deliverChunk
  repeat' first
    | with_reducible exact h
    | with_reducible assumption
    | with_reducible apply kept_setEgress
    | with_reducible apply kept_landUnit
    | with_reducible apply Kept.ite

theorem kept_transfer {q : List Instr} {s : State} (h : Kept q s) (id o) : Kept q (transfer s id o) := by
  unfold transfer
  repeat' first
    | with_reducible exact h
    | with_reducible assumption
    | with_reducible apply kept_spendCredit
    | with_reducible apply kept_charge
    | with_reducible apply kept_deliverChunk
    | with_reducible apply kept_dropPkt
    | with_reducible apply Kept.ite
    | simp only [kept_mk]
    | with_reducible apply Kept.parts
    | with_reducible refine Kept.foldl ?_ (fun _ _ _ => ?_)
    | split

theorem kept_grantAll {q : List Instr} {s : State} (h : Kept q s) (reqs : List Req) (l : List Nat) : KeptFst q (grantAll s reqs l) := by
  induction l generalizing s with
  | nil => exact h
  | cons x l ih =>
    unfold grantAll
    dsimp only
    have k := fun cs => Kept.snd (kept_pickClass h x cs)
    split
    · exact ih (k _)
    · exact KeptFst.mk (Kept.fst (ih (k _)))

theorem kept_movePointers {q : List Instr} {s : State} (h : Kept q s) (acc) : Kept q (movePointers s acc) := by
  unfold movePointers
  repeat' first
    | with_reducible exact h
    | with_reducible assumption
    | with_reducible apply Kept.ite
    | simp only [kept_mk]
    | with_reducible apply Kept.parts
    | with_reducible refine Kept.foldl ?_ (fun _ _ _ => ?_)

theorem kept_transferAll {q : List Instr} {s : State} (h : Kept q s) (acc) : Kept q (transferAll s acc) := by
  unfold transferAll
  repeat' first
    | with_reducible exact h
    | with_reducible assumption
    | with_reducible apply kept_transfer
    | with_reducible apply Kept.ite
    | simp only [kept_mk]
    | with_reducible apply Kept.parts
    | with_reducible refine Kept.foldl ?_ (fun _ _ _ => ?_)

theorem kept_iteration {q : List Instr} {s : State} (h : Kept q s) (first : Bool) (reqs : List Req) (i o : List Nat) :
    KeptFst q (iteration first s reqs i o) := by
  unfold iteration
  dsimp only
  have k := fun r => Kept.fst (kept_grantAll h r (List.range 232))
  exact KeptFst.mk (kept_transferAll (Kept.ite (kept_movePointers (k _) _) (k _)) _)

theorem kept_clearDeficits {q : List Instr} {s : State} (h : Kept q s) (asked) : Kept q (clearDeficits s asked) := by
  unfold clearDeficits
  repeat' first
    | with_reducible exact h
    | with_reducible assumption
    | with_reducible apply Kept.ite
    | simp only [kept_mk]
    | with_reducible apply Kept.parts

theorem kept_countSlot {q : List Instr} {s : State} (h : Kept q s) (k num) : Kept q (countSlot s k num) := by
  unfold countSlot
  repeat' first
    | with_reducible exact h
    | with_reducible assumption
    | with_reducible apply kept_bump
    | with_reducible apply Kept.ite
    | simp only [kept_mk]
    | with_reducible apply Kept.parts

theorem kept_countStalls {q : List Instr} {s : State} (h : Kept q s) : Kept q (countStalls s) := by
  unfold countStalls
  repeat' first
    | with_reducible exact h
    | with_reducible assumption
    | with_reducible apply kept_countSlot
    | with_reducible apply Kept.ite
    | simp only [kept_mk]
    | with_reducible apply Kept.parts
    | with_reducible refine Kept.foldl ?_ (fun _ _ _ => ?_)

theorem kept_matching {q : List Instr} {s : State} (h : Kept q s) : Kept q (matching s) := by
  have step : ∀ {t : State} {i o : List Nat} {r : List Req} {b : Bool}, Kept q t → Kept q (iteration b t r i o).1 :=
    fun k => kept_iteration k _ _ _ _
  unfold matching
  refine Kept.ite h (step (step (step (Kept.foldl ?_ (fun _ _ k => kept_transfer k _ _)))))
  exact kept_clearDeficits (kept_countStalls (s := { s with sw := { s.sw with voqTurn := nextTurns s (requests s) } }) h) _

theorem kept_mapEgress {q : List Instr} {s : State} (h : Kept q s) (id g) : Kept q (mapEgress s id g) := by
  unfold mapEgress
  repeat' first
    | with_reducible exact h
    | with_reducible assumption
    | with_reducible apply Kept.ite
    | simp only [kept_mk]
    | with_reducible apply Kept.parts

theorem kept_setPkt {q : List Instr} {s : State} (h : Kept q s) (x1) : Kept q (setPkt s x1) := by
  unfold setPkt
  repeat' first
    | with_reducible exact h
    | with_reducible assumption
    | with_reducible apply Kept.ite
    | simp only [kept_mk]
    | with_reducible apply Kept.parts

theorem kept_finishArrival {q : List Instr} {s : State} (h : Kept q s) (id) : Kept q (finishArrival s id) := by
  unfold finishArrival
  repeat' first
    | with_reducible exact h
    | with_reducible assumption
    | with_reducible apply kept_landUnit
    | with_reducible apply kept_dropPkt
    | with_reducible apply Kept.ite
    | simp only
    | with_reducible apply Kept.parts
    | with_reducible refine Kept.foldl ?_ (fun _ _ _ => ?_)
    | split

theorem kept_regainCredit {q : List Instr} {s : State} (h : Kept q s) (o c n) : Kept q (regainCredit s o c n) := by
  unfold regainCredit
  repeat' first
    | with_reducible exact h
    | with_reducible assumption
    | with_reducible apply Kept.ite
    | simp only [kept_mk]
    | with_reducible apply Kept.parts

theorem kept_endStomped {q : List Instr} {s : State} (h : Kept q s) (id len) : Kept q (endStomped s id len) := by
  unfold endStomped
  repeat' first
    | with_reducible exact h
    | with_reducible assumption
    | with_reducible apply kept_bump
    | with_reducible apply kept_cnt
    | with_reducible apply kept_mapEgress
    | with_reducible apply kept_regainCredit
    | with_reducible apply kept_finishArrival
    | with_reducible apply kept_setPkt
    | with_reducible apply Kept.ite
    | simp only
    | with_reducible apply Kept.parts
    | with_reducible refine Kept.foldl ?_ (fun _ _ _ => ?_)
    | split

theorem kept_endBad {q : List Instr} {s : State} (h : Kept q s) (id len) : Kept q (endBad s id len) := by
  unfold endBad
  repeat' first
    | with_reducible exact h
    | with_reducible assumption
    | with_reducible apply kept_endStomped
    | with_reducible apply kept_discardPkt
    | with_reducible apply Kept.ite
    | simp only [kept_mk]
    | with_reducible apply Kept.parts
    | with_reducible refine Kept.foldl ?_ (fun _ _ _ => ?_)
    | split

theorem kept_stompPkt {q : List Instr} {s : State} (h : Kept q s) (id) : Kept q (stompPkt s id) := by
  unfold stompPkt
  repeat' first | with_reducible exact h | with_reducible assumption | with_reducible apply kept_endBad

theorem kept_bufferError {q : List Instr} {s : State} (h : Kept q s) (x1) : Kept q (bufferError s x1) := by
  unfold bufferError
  repeat' first
    | with_reducible exact h
    | with_reducible assumption
    | with_reducible apply kept_stompPkt
    | with_reducible apply kept_report
    | with_reducible apply Kept.ite
    | simp only [kept_mk]
    | with_reducible apply Kept.parts
    | with_reducible refine Kept.foldl ?_ (fun _ _ _ => ?_)
    | split

theorem kept_execSchedulerMatching {q : List Instr} {s : State} (h : Kept q s) (ecc) : KeptOut q (execSchedulerMatching s ecc) := by
  unfold execSchedulerMatching
  repeat' first
    | with_reducible exact h
    | with_reducible assumption
    | with_reducible exact KeptOut.refused
    | with_reducible apply KeptOut.ite
    | with_reducible apply KeptOut.next
    | with_reducible apply kept_matching
    | with_reducible apply kept_bufferError

theorem kept_cutPkt {q : List Instr} {s : State} (h : Kept q s) (id) : Kept q (cutPkt s id) := by
  unfold cutPkt
  repeat' first | with_reducible exact h | with_reducible assumption | with_reducible apply kept_endBad

theorem kept_flushStatus {q : List Instr} {s : State} (h : Kept q s) : Kept q (flushStatus s) := by
  unfold flushStatus
  repeat' first | with_reducible exact h | with_reducible assumption | with_reducible apply kept_wr | with_reducible apply kept_wrb

theorem kept_flushOne {q : List Instr} {s : State} (h : Kept q s) (port half x3 spilled) : Kept q (flushOne s port half x3 spilled) := by
  unfold flushOne
  repeat' first
    | with_reducible exact h
    | with_reducible assumption
    | with_reducible apply kept_cnt
    | with_reducible apply Kept.ite
    | simp only [kept_mk]
    | with_reducible apply Kept.parts
    | with_reducible refine Kept.foldl ?_ (fun _ _ _ => ?_)
    | split

theorem kept_flushOutputs {q : List Instr} {s : State} (h : Kept q s) (outs port half) : Kept q (flushOutputs s outs port half) := by
  unfold flushOutputs
  repeat' first
    | with_reducible exact h
    | with_reducible assumption
    | with_reducible apply kept_flushOne
    | with_reducible apply kept_discardPkt
    | with_reducible apply kept_dropPkt
    | with_reducible apply Kept.ite
    | simp only [kept_mk]
    | with_reducible apply Kept.parts
    | with_reducible refine Kept.foldl ?_ (fun _ _ _ => ?_)

theorem kept_cutArrivals {q : List Instr} {s : State} (h : Kept q s) (x1) : Kept q (cutArrivals s x1) := by
  unfold cutArrivals
  repeat' first
    | with_reducible exact h
    | with_reducible assumption
    | with_reducible apply kept_cutPkt
    | with_reducible apply Kept.ite
    | simp only [kept_mk]
    | with_reducible apply Kept.parts
    | with_reducible refine Kept.foldl ?_ (fun _ _ _ => ?_)

theorem kept_clearCredit {q : List Instr} {s : State} (h : Kept q s) (x1) : Kept q (clearCredit s x1) := by
  unfold clearCredit
  repeat' first
    | with_reducible exact h
    | with_reducible assumption
    | with_reducible apply Kept.ite
    | simp only [kept_mk]
    | with_reducible apply Kept.parts

theorem kept_portDownNotices {q : List Instr} {s : State} (h : Kept q s) (x1) : Kept q (portDownNotices s x1) := by
  unfold portDownNotices
  repeat' first
    | with_reducible exact h
    | with_reducible assumption
    | with_reducible apply kept_inject
    | with_reducible apply Kept.ite
    | simp only [kept_mk]
    | with_reducible apply Kept.parts
    | with_reducible refine Kept.foldl ?_ (fun _ _ _ => ?_)

theorem kept_portDownHalf {q : List Instr} {s : State} (h : Kept q s) (x1) : Kept q (portDownHalf s x1) := by
  unfold portDownHalf
  repeat' first
    | with_reducible exact h
    | with_reducible assumption
    | with_reducible apply kept_setEgress
    | with_reducible apply kept_flushOutputs
    | with_reducible apply kept_clearCredit
    | with_reducible apply kept_cutArrivals
    | with_reducible apply kept_wr
    | with_reducible apply kept_flushStatus
    | with_reducible apply kept_portDownNotices
    | with_reducible apply Kept.ite
    | simp only [kept_mk]
    | with_reducible apply Kept.parts

theorem kept_portDownAll {q : List Instr} {s : State} (h : Kept q s) (p) : Kept q (portDownAll s p) := by
  unfold portDownAll
  repeat' first
    | with_reducible exact h
    | with_reducible assumption
    | with_reducible apply kept_portDownHalf
    | with_reducible apply Kept.ite
    | simp only [kept_mk]
    | with_reducible apply Kept.parts
    | with_reducible refine Kept.foldl ?_ (fun _ _ _ => ?_)

theorem kept_sendNotice {q : List Instr} {s : State} (h : Kept q s) : Kept q (sendNotice s) := by
  unfold sendNotice
  repeat' first
    | with_reducible exact h
    | with_reducible assumption
    | with_reducible apply kept_flushStatus
    | with_reducible apply kept_inject
    | with_reducible apply Kept.ite
    | simp only [kept_mk]
    | with_reducible apply Kept.parts
    | with_reducible refine Kept.foldl ?_ (fun _ _ _ => ?_)
    | split

theorem kept_execFlushNoticeSend {q : List Instr} {s : State} (h : Kept q s) : KeptOut q (execFlushNoticeSend s) := by
  unfold execFlushNoticeSend
  repeat' first
    | with_reducible exact h
    | with_reducible assumption
    | with_reducible exact KeptOut.refused
    | with_reducible apply KeptOut.ite
    | with_reducible apply KeptOut.next
    | with_reducible apply kept_sendNotice

theorem kept_leaveResidues {q : List Instr} {s : State} (h : Kept q s) (outs) : Kept q (leaveResidues s outs) := by
  unfold leaveResidues
  repeat' first
    | with_reducible exact h
    | with_reducible assumption
    | with_reducible apply kept_discardPkt
    | with_reducible apply kept_setPkt
    | with_reducible apply Kept.ite
    | simp only
    | with_reducible apply Kept.parts
    | with_reducible refine Kept.foldl ?_ (fun _ _ _ => ?_)

theorem kept_flushInbox {q : List Instr} {s : State} (h : Kept q s) (xs) : Kept q (flushInbox s xs) := by
  unfold flushInbox
  repeat' first
    | with_reducible exact h
    | with_reducible assumption
    | with_reducible apply kept_flushOne
    | with_reducible apply Kept.ite
    | simp only [kept_mk]
    | with_reducible apply Kept.parts
    | with_reducible refine Kept.foldl ?_ (fun _ _ _ => ?_)

theorem kept_flushUnit {q : List Instr} {s : State} (h : Kept q s) (xs) : Kept q (flushUnit s xs) := by
  unfold flushUnit
  repeat' first | with_reducible exact h | with_reducible assumption | with_reducible apply kept_flushStatus | with_reducible apply kept_flushOutputs

end Sys2Proof.Machine
end

