-- ==== Sys2Proof/Laws/KeptEvents.lean ====
section
/-!
SUPPORT. Laws/KeptEvents.lean: the operations of Machine/Events.lean keep the canonical form of every store and the queue.
-/
namespace Sys2Proof.Machine
open Sys2Proof

theorem kept_setCtx {q : List Instr} {s : State} (h : Kept q s) (c r) : Kept q (setCtx s c r) := by
  unfold setCtx
  repeat' first
    | with_reducible exact h
    | with_reducible assumption
    | with_reducible apply Kept.ite
    | simp only [kept_mk]
    | with_reducible apply Kept.parts

theorem kept_ctxStatus {q : List Instr} {s : State} (h : Kept q s) (c) : Kept q (ctxStatus s c) := by
  unfold ctxStatus
  repeat' first | with_reducible exact h | with_reducible assumption | with_reducible apply kept_wrs

theorem kept_setConf {q : List Instr} {s : State} (h : Kept q s) (k c) : Kept q (setConf s k c) := by
  unfold setConf
  repeat' first
    | with_reducible exact h
    | with_reducible assumption
    | with_reducible apply Kept.ite
    | simp only [kept_mk]
    | with_reducible apply Kept.parts

theorem kept_confFail {q : List Instr} {s : State} (h : Kept q s) (k c) : Kept q (confFail s k c) := by
  unfold confFail
  repeat' first | with_reducible exact h | with_reducible assumption | with_reducible apply kept_report | with_reducible apply kept_cnt

theorem kept_eqMessage {q : List Instr} {s : State} (h : Kept q s) (c) : Kept q (eqMessage s c) := by
  unfold eqMessage
  repeat' first
    | with_reducible exact h
    | with_reducible assumption
    | with_reducible apply kept_setCtx
    | with_reducible apply kept_sendMsix
    | with_reducible apply Kept.ite

theorem kept_moderate {q : List Instr} {s : State} (h : Kept q s) (c) : Kept q (moderate s c) := by
  unfold moderate
  repeat' first
    | with_reducible exact h
    | with_reducible assumption
    | with_reducible apply kept_setCtx
    | with_reducible apply kept_eqMessage
    | with_reducible apply Kept.ite

theorem kept_eventWrite {q : List Instr} {s : State} (h : Kept q s) (c etype a b cc d) : Kept q (eventWrite s c etype a b cc d) := by
  unfold eventWrite
  repeat' first
    | with_reducible exact h
    | with_reducible assumption
    | with_reducible apply kept_setCtx
    | with_reducible apply kept_dmaWrite
    | with_reducible apply kept_setConf
    | with_reducible apply kept_moderate
    | with_reducible apply Kept.ite

theorem kept_eventOverflow {q : List Instr} {s : State} (h : Kept q s) (c) : Kept q (eventOverflow s c) := by
  unfold eventOverflow
  repeat' first
    | with_reducible exact h
    | with_reducible assumption
    | with_reducible apply kept_eventWrite
    | with_reducible apply kept_setCtx
    | with_reducible apply Kept.ite

theorem kept_postEvent {q : List Instr} {s : State} (h : Kept q s) (c etype a b cc d) : Kept q (postEvent s c etype a b cc d) := by
  unfold postEvent
  repeat' first
    | with_reducible exact h
    | with_reducible assumption
    | with_reducible apply kept_eventOverflow
    | with_reducible apply kept_eventWrite
    | with_reducible apply kept_setCtx
    | with_reducible apply kept_wr
    | with_reducible apply Kept.ite

theorem kept_postAll {q : List Instr} {s : State} (h : Kept q s) (l etype a b cc d) : Kept q (postAll s l etype a b cc d) := by
  unfold postAll
  repeat' first
    | with_reducible exact h
    | with_reducible assumption
    | with_reducible apply kept_postEvent
    | with_reducible apply Kept.ite
    | simp only [kept_mk]
    | with_reducible apply Kept.parts
    | with_reducible refine Kept.foldl ?_ (fun _ _ _ => ?_)

theorem kept_functionEvent {q : List Instr} {s : State} (h : Kept q s) (n) : Kept q (functionEvent s n) := by
  unfold functionEvent
  repeat' first
    | with_reducible exact h
    | with_reducible assumption
    | with_reducible apply kept_postEvent
    | with_reducible apply kept_cnt
    | with_reducible apply Kept.ite

theorem kept_stepFault {q : List Instr} {s : State} (h : Kept q s) (c ccode cookie dest) : Kept q (stepFault s c ccode cookie dest) := by
  unfold stepFault
  repeat' first
    | with_reducible exact h
    | with_reducible assumption
    | with_reducible apply kept_cnt
    | with_reducible apply kept_postEvent
    | with_reducible apply kept_wr
    | with_reducible apply Kept.ite

theorem kept_execEqModTimer {q : List Instr} {s : State} (h : Kept q s) (c) : KeptOut q (execEqModTimer c s) := by
  unfold execEqModTimer
  repeat' first
    | with_reducible exact h
    | with_reducible assumption
    | with_reducible exact KeptOut.refused
    | with_reducible apply KeptOut.ite
    | with_reducible apply KeptOut.next
    | with_reducible apply kept_eqMessage
    | with_reducible apply Kept.ite

theorem kept_msixRetry {q : List Instr} {s : State} (h : Kept q s) (port func vector) : Kept q (msixRetry s port func vector) := by
  unfold msixRetry
  repeat' first
    | with_reducible exact h
    | with_reducible assumption
    | with_reducible apply kept_msixOut
    | with_reducible apply Kept.ite
    | simp only [kept_mk]
    | with_reducible apply Kept.parts

theorem kept_execMsixUnmask {q : List Instr} {s : State} (h : Kept q s) (port func vector) : KeptOut q (execMsixUnmask port func vector s) := by
  unfold execMsixUnmask
  repeat' first
    | with_reducible exact h
    | with_reducible assumption
    | with_reducible exact KeptOut.refused
    | with_reducible apply KeptOut.ite
    | with_reducible apply KeptOut.next
    | with_reducible apply kept_msixRetry
    | with_reducible apply Kept.ite
    | simp only [kept_mk]
    | with_reducible apply Kept.parts

end Sys2Proof.Machine
end

