-- ==== Sys2Proof/Laws/KeptRequests.lean ====
section
/-!
SUPPORT. Laws/KeptRequests.lean: the operations of Machine/Requests.lean keep the canonical form of every store and the queue.
-/
namespace Sys2Proof.Machine
open Sys2Proof

theorem kept_hostIssue {q : List Instr} {s : State} (h : Kept q s) (o rs) : Kept q (hostIssue s o rs) := by
  unfold hostIssue
  repeat' first
    | with_reducible exact h
    | with_reducible assumption
    | with_reducible apply kept_emitOut
    | with_reducible apply Kept.ite
    | simp only
    | with_reducible apply Kept.parts
    | with_reducible refine Kept.foldl ?_ (fun _ _ _ => ?_)
    | split

theorem kept_hostPut {q : List Instr} {s : State} (h : Kept q s) (o) : Kept q (hostPut s o) := by
  unfold hostPut
  repeat' first
    | with_reducible exact h
    | with_reducible assumption
    | with_reducible apply Kept.ite
    | simp only [kept_mk]
    | with_reducible apply Kept.parts

theorem kept_hostGo {q : List Instr} {s : State} (h : Kept q s) (o) : Kept q (hostGo s o) := by
  unfold hostGo
  repeat' first
    | with_reducible exact h
    | with_reducible assumption
    | with_reducible apply kept_hostPut
    | with_reducible apply kept_hostIssue
    | with_reducible apply kept_askPage
    | with_reducible apply Kept.ite
    | simp only
    | with_reducible apply Kept.parts
    | with_reducible refine Kept.foldl ?_ (fun _ _ _ => ?_)
    | split

theorem kept_hostOp {q : List Instr} {s : State} (h : Kept q s) (e func addr len what) : Kept q (hostOp s e func addr len what) := by
  unfold hostOp
  repeat' first
    | with_reducible exact h
    | with_reducible assumption
    | with_reducible apply kept_hostGo
    | with_reducible apply Kept.ite
    | simp only [kept_mk]
    | with_reducible apply Kept.parts

theorem kept_hostDone {q : List Instr} {s : State} (h : Kept q s) (t) : Kept q (hostDone s t) := by
  unfold hostDone
  repeat' first
    | with_reducible exact h
    | with_reducible assumption
    | with_reducible apply Kept.ite
    | simp only [kept_mk]
    | with_reducible apply Kept.parts

theorem kept_segPut {q : List Instr} {s : State} (h : Kept q s) (c t) : Kept q (segPut s c t) := by
  unfold segPut
  repeat' first
    | with_reducible exact h
    | with_reducible assumption
    | with_reducible apply Kept.ite
    | simp only [kept_mk]
    | with_reducible apply Kept.parts

theorem kept_setReq {q : List Instr} {s : State} (h : Kept q s) (r) : Kept q (setReq s r) := by
  unfold setReq
  repeat' first
    | with_reducible exact h
    | with_reducible assumption
    | with_reducible apply Kept.ite
    | simp only [kept_mk]
    | with_reducible apply Kept.parts

theorem kept_sendReq {q : List Instr} {s : State} (h : Kept q s) (r) : Kept q (sendReq s r) := by
  unfold sendReq
  repeat' first
    | with_reducible exact h
    | with_reducible assumption
    | with_reducible apply kept_cnt
    | with_reducible apply kept_setReq
    | with_reducible apply kept_offer
    | with_reducible apply Kept.ite
    | simp only [kept_mk]
    | with_reducible apply Kept.parts

theorem kept_giveTag {q : List Instr} {s : State} (h : Kept q s) (r t) : Kept q (giveTag s r t) := by
  unfold giveTag
  repeat' first
    | with_reducible exact h
    | with_reducible assumption
    | with_reducible apply kept_setReq
    | with_reducible apply Kept.ite
    | simp only [kept_mk]
    | with_reducible apply Kept.parts

theorem kept_addReq {q : List Instr} {s : State} (h : Kept q s) (e c x3 parts x5 payload reread torn) : Kept q (addReq s e c x3 parts x5 payload reread torn) := by
  unfold addReq
  repeat' first
    | with_reducible exact h
    | with_reducible assumption
    | with_reducible apply kept_giveTag
    | with_reducible apply Kept.ite
    | simp only [kept_mk]
    | with_reducible apply Kept.parts
    | with_reducible refine Kept.foldl ?_ (fun _ _ _ => ?_)
    | split

theorem kept_cellSeq {q : List Instr} {s : State} (h : Kept q s) (dest tc) : KeptSnd q (cellSeq s dest tc) := by
  unfold cellSeq
  repeat' first
    | with_reducible exact h
    | with_reducible assumption
    | with_reducible apply KeptSnd.ite
    | with_reducible apply KeptSnd.mk
    | with_reducible apply Kept.ite
    | simp only [kept_mk]
    | with_reducible apply Kept.parts

theorem kept_nearDrop {q : List Instr} {s : State} (h : Kept q s) (f) : Kept q (nearDrop s f) := by
  unfold nearDrop
  repeat' first
    | with_reducible exact h
    | with_reducible assumption
    | with_reducible apply Kept.ite
    | simp only [kept_mk]
    | with_reducible apply Kept.parts

theorem kept_nearPut {q : List Instr} {s : State} (h : Kept q s) (e c g b) : Kept q (nearPut s e c g b) := by
  unfold nearPut
  repeat' first
    | with_reducible exact h
    | with_reducible assumption
    | with_reducible apply Kept.ite
    | simp only [kept_mk]
    | with_reducible apply Kept.parts

theorem kept_nearFill {q : List Instr} {s : State} (h : Kept q s) (e c a data) : Kept q (nearFill s e c a data) := by
  unfold nearFill
  repeat' first
    | with_reducible exact h
    | with_reducible assumption
    | with_reducible apply kept_nearPut
    | with_reducible apply Kept.ite
    | simp only [kept_mk]
    | with_reducible apply Kept.parts
    | with_reducible refine Kept.foldl ?_ (fun _ _ _ => ?_)

theorem kept_nearKill {q : List Instr} {s : State} (h : Kept q s) (e c a n) : Kept q (nearKill s e c a n) := by
  unfold nearKill
  repeat' first | with_reducible exact h | with_reducible assumption | with_reducible apply kept_nearDrop

theorem kept_setDesc {q : List Instr} {s : State} (h : Kept q s) (d) : Kept q (setDesc s d) := by
  unfold setDesc
  repeat' first
    | with_reducible exact h
    | with_reducible assumption
    | with_reducible apply Kept.ite
    | simp only [kept_mk]
    | with_reducible apply Kept.parts

theorem kept_confChunk {q : List Instr} {s : State} (h : Kept q s) (d n i data) : Kept q (confChunk s d n i data) := by
  unfold confChunk
  repeat' first | with_reducible exact h | with_reducible assumption | with_reducible apply kept_dmaWrite

theorem kept_confPart {q : List Instr} {s : State} (h : Kept q s) (id n off data) : Kept q (confPart s id n off data) := by
  unfold confPart
  repeat' first
    | with_reducible exact h
    | with_reducible assumption
    | with_reducible apply kept_confChunk
    | with_reducible apply kept_setDesc
    | with_reducible apply Kept.ite
    | simp only
    | with_reducible apply Kept.parts
    | with_reducible refine Kept.foldl ?_ (fun _ _ _ => ?_)
    | split

theorem kept_confResult {q : List Instr} {s : State} (h : Kept q s) (id n off data) : Kept q (confResult s id n off data) := by
  unfold confResult
  repeat' first
    | with_reducible exact h
    | with_reducible assumption
    | with_reducible apply kept_confPart
    | with_reducible apply Kept.ite
    | simp only
    | with_reducible apply Kept.parts
    | with_reducible refine Kept.foldl ?_ (fun _ _ _ => ?_)

theorem kept_result {q : List Instr} {s : State} (h : Kept q s) (i n off data) : Kept q (result s i n off data) := by
  unfold result
  repeat' first
    | with_reducible exact h
    | with_reducible assumption
    | with_reducible apply kept_setDesc
    | with_reducible apply kept_confResult
    | with_reducible apply kept_dmaWrite
    | with_reducible apply Kept.ite
    | simp only
    | with_reducible apply Kept.parts
    | with_reducible refine Kept.foldl ?_ (fun _ _ _ => ?_)
    | split

theorem kept_dropReq {q : List Instr} {s : State} (h : Kept q s) (r) : Kept q (dropReq s r) := by
  unfold dropReq
  repeat' first
    | with_reducible exact h
    | with_reducible assumption
    | with_reducible apply Kept.ite
    | simp only [kept_mk]
    | with_reducible apply Kept.parts
    | with_reducible refine Kept.foldl ?_ (fun _ _ _ => ?_)
    | split

theorem kept_descLess {q : List Instr} {s : State} (h : Kept q s) (i off n cc detail res res2) : Kept q (descLess s i off n cc detail res res2) := by
  unfold descLess
  repeat' first
    | with_reducible exact h
    | with_reducible assumption
    | with_reducible apply kept_setDesc
    | with_reducible apply Kept.ite
    | simp only
    | with_reducible apply Kept.parts
    | with_reducible refine Kept.foldl ?_ (fun _ _ _ => ?_)
    | split

theorem kept_windowDone {q : List Instr} {s : State} (h : Kept q s) (i) : Kept q (windowDone s i) := by
  unfold windowDone
  repeat' first
    | with_reducible exact h
    | with_reducible assumption
    | with_reducible apply kept_nearDrop
    | with_reducible apply kept_cnt
    | with_reducible apply kept_emitOut
    | with_reducible apply Kept.ite
    | simp only [kept_mk]
    | with_reducible apply Kept.parts
    | with_reducible refine Kept.foldl ?_ (fun _ _ _ => ?_)
    | split

theorem kept_creditFree {q : List Instr} {s : State} (h : Kept q s) (r) : Kept q (creditFree s r) := by
  unfold creditFree
  repeat' first
    | with_reducible exact h
    | with_reducible assumption
    | with_reducible apply Kept.ite
    | simp only [kept_mk]
    | with_reducible apply Kept.parts

theorem kept_endReq {q : List Instr} {s : State} (h : Kept q s) (r cc detail res res2) : Kept q (endReq s r cc detail res res2) := by
  unfold endReq
  repeat' first
    | with_reducible exact h
    | with_reducible assumption
    | with_reducible apply kept_creditFree
    | with_reducible apply kept_dropReq
    | with_reducible apply kept_windowDone
    | with_reducible apply kept_descLess
    | with_reducible apply kept_stepFault
    | with_reducible apply kept_ctxStatus
    | with_reducible apply Kept.ite
    | simp only [kept_mk]
    | with_reducible apply Kept.parts
    | with_reducible refine Kept.foldl ?_ (fun _ _ _ => ?_)

theorem kept_tryTag {q : List Instr} {s : State} (h : Kept q s) (i) : Kept q (tryTag s i) := by
  unfold tryTag
  repeat' first
    | with_reducible exact h
    | with_reducible assumption
    | with_reducible apply kept_giveTag
    | with_reducible apply Kept.ite
    | simp only [kept_mk]
    | with_reducible apply Kept.parts
    | with_reducible refine Kept.foldl ?_ (fun _ _ _ => ?_)
    | split

theorem kept_swNow {q : List Instr} {s : State} (h : Kept q s) (e x2 payload) : Kept q (swNow s e x2 payload) := by
  unfold swNow
  repeat' first
    | with_reducible exact h
    | with_reducible assumption
    | with_reducible apply kept_offer
    | with_reducible apply Kept.ite
    | simp only [kept_mk]
    | with_reducible apply Kept.parts

theorem kept_swFlush {q : List Instr} {s : State} (h : Kept q s) (e) : Kept q (swFlush s e) := by
  unfold swFlush
  repeat' first
    | with_reducible exact h
    | with_reducible assumption
    | with_reducible apply kept_swNow
    | with_reducible apply Kept.ite
    | simp only [kept_mk]
    | with_reducible apply Kept.parts
    | with_reducible refine Kept.foldl ?_ (fun _ _ _ => ?_)

theorem kept_pump {q : List Instr} {s : State} (h : Kept q s) (e) : Kept q (pump s e) := by
  unfold pump
  repeat' first
    | with_reducible exact h
    | with_reducible assumption
    | with_reducible apply kept_swFlush
    | with_reducible apply kept_tryTag
    | with_reducible apply kept_endReq
    | with_reducible apply kept_sendReq
    | with_reducible apply Kept.ite
    | simp only
    | with_reducible apply Kept.parts
    | with_reducible refine Kept.foldl ?_ (fun _ _ _ => ?_)
    | split

theorem kept_finishReq {q : List Instr} {s : State} (h : Kept q s) (r cc detail res res2) : Kept q (finishReq s r cc detail res res2) := by
  unfold finishReq
  repeat' first | with_reducible exact h | with_reducible assumption | with_reducible apply kept_pump | with_reducible apply kept_endReq

theorem kept_answerReq {q : List Instr} {s : State} (h : Kept q s) (r cc detail res res2) : Kept q (answerReq s r cc detail res res2) := by
  unfold answerReq
  repeat' first
    | with_reducible exact h
    | with_reducible assumption
    | with_reducible apply kept_setReq
    | with_reducible apply kept_finishReq
    | with_reducible apply Kept.ite

theorem kept_cocoon {q : List Instr} {s : State} (h : Kept q s) (r) : Kept q (cocoon s r) := by
  unfold cocoon
  repeat' first
    | with_reducible exact h
    | with_reducible assumption
    | with_reducible apply kept_cnt
    | with_reducible apply kept_setReq
    | with_reducible apply kept_postEvent
    | with_reducible apply kept_ctxStatus
    | with_reducible apply Kept.ite

theorem kept_failAttempt {q : List Instr} {s : State} (h : Kept q s) (r) : Kept q (failAttempt s r) := by
  unfold failAttempt
  repeat' first
    | with_reducible exact h
    | with_reducible assumption
    | with_reducible apply kept_pump
    | with_reducible apply kept_setReq
    | with_reducible apply kept_cocoon
    | with_reducible apply Kept.ite
    | simp only [kept_mk]
    | with_reducible apply Kept.parts
    | with_reducible refine Kept.foldl ?_ (fun _ _ _ => ?_)

theorem kept_execWriteCompletionRelease {q : List Instr} {s : State} (h : Kept q s) (id) : KeptOut q (execWriteCompletionRelease id s) := by
  unfold execWriteCompletionRelease
  repeat' first
    | with_reducible exact h
    | with_reducible assumption
    | with_reducible exact KeptOut.refused
    | with_reducible apply KeptOut.ite
    | with_reducible apply KeptOut.next
    | with_reducible apply kept_finishReq
    | with_reducible apply Kept.ite
    | simp only [kept_mk]
    | with_reducible apply Kept.parts
    | with_reducible refine Kept.foldl ?_ (fun _ _ _ => ?_)
    | split

theorem kept_execPlaneBarExpire {q : List Instr} {s : State} (h : Kept q s) (e dest) : KeptOut q (execPlaneBarExpire e dest s) := by
  unfold execPlaneBarExpire
  repeat' first
    | with_reducible exact h
    | with_reducible assumption
    | with_reducible exact KeptOut.refused
    | with_reducible apply KeptOut.ite
    | with_reducible apply KeptOut.next
    | with_reducible apply kept_pump
    | with_reducible apply Kept.ite
    | simp only [kept_mk]
    | with_reducible apply Kept.parts

theorem kept_execLinkUpSendHoldExpire {q : List Instr} {s : State} (h : Kept q s) (e) : KeptOut q (execLinkUpSendHoldExpire e s) := by
  unfold execLinkUpSendHoldExpire
  repeat' first
    | with_reducible exact h
    | with_reducible assumption
    | with_reducible exact KeptOut.refused
    | with_reducible apply KeptOut.ite
    | with_reducible apply KeptOut.next
    | with_reducible apply kept_pump
    | with_reducible apply Kept.ite
    | simp only [kept_mk]
    | with_reducible apply Kept.parts
    | with_reducible refine Kept.foldl ?_ (fun _ _ _ => ?_)
    | split

theorem kept_execPairPlaneReset {q : List Instr} {s : State} (h : Kept q s) (c dest) : KeptOut q (execPairPlaneReset c dest s) := by
  unfold execPairPlaneReset
  repeat' first
    | with_reducible exact h
    | with_reducible assumption
    | with_reducible exact KeptOut.refused
    | with_reducible apply KeptOut.ite
    | with_reducible apply KeptOut.next
    | with_reducible apply Kept.ite
    | simp only [kept_mk]
    | with_reducible apply Kept.parts
    | with_reducible refine Kept.foldl ?_ (fun _ _ _ => ?_)
    | split

theorem kept_execFlrTagRelease {q : List Instr} {s : State} (h : Kept q s) : KeptOut q (execFlrTagRelease s) := by
  unfold execFlrTagRelease
  repeat' first
    | with_reducible exact h
    | with_reducible assumption
    | with_reducible exact KeptOut.refused
    | with_reducible apply KeptOut.ite
    | with_reducible apply KeptOut.next
    | with_reducible apply Kept.ite
    | simp only [kept_mk]
    | with_reducible apply Kept.parts

theorem kept_cqWrite {q : List Instr} {s : State} (h : Kept q s) (d) : Kept q (cqWrite s d) := by
  unfold cqWrite
  repeat' first
    | with_reducible exact h
    | with_reducible assumption
    | with_reducible apply kept_setCtx
    | with_reducible apply kept_dmaWrite
    | with_reducible apply Kept.ite

theorem kept_completeDesc {q : List Instr} {s : State} (h : Kept q s) (d) : Kept q (completeDesc s d) := by
  unfold completeDesc
  repeat' first
    | with_reducible exact h
    | with_reducible assumption
    | with_reducible apply kept_nearDrop
    | with_reducible apply kept_ctxStatus
    | with_reducible apply kept_cqWrite
    | with_reducible apply Kept.ite
    | simp only [kept_mk]
    | with_reducible apply Kept.parts

end Sys2Proof.Machine
end

