-- ==== Sys2Proof/Laws/KeptTargets.lean ====
section
/-!
SUPPORT. Laws/KeptTargets.lean: the operations of Machine/Targets.lean keep the canonical form of every store and the queue.
-/
namespace Sys2Proof.Machine
open Sys2Proof

theorem kept_takeIn {q : List Instr} {s : State} (h : Kept q s) (x p) : Kept q (takeIn s x p) := by
  unfold takeIn
  repeat' first
    | with_reducible exact h
    | with_reducible assumption
    | with_reducible apply Kept.ite
    | simp only [kept_mk]
    | with_reducible apply Kept.parts

theorem kept_received {q : List Instr} {s : State} {x : Nat} {p : Packet} {f : State → State} (hf : ∀ t, Kept q t → Kept q (f t)) (h : Kept q s) :
    Kept q (received s x p f) :=
  Kept.ite h (Kept.ite (kept_takeIn h _ _) (hf _ (kept_takeIn h _ _)))

theorem kept_answer {q : List Instr} {s : State} (h : Kept q s) (x x2 cc detail res payload len) : Kept q (answer s x x2 cc detail res payload len) := by
  unfold answer
  repeat' first | with_reducible exact h | with_reducible assumption | with_reducible apply kept_offer

theorem kept_answerData {q : List Instr} {s : State} (h : Kept q s) (x x2 data) : Kept q (answerData s x x2 data) := by
  unfold answerData
  repeat' first
    | with_reducible exact h
    | with_reducible assumption
    | with_reducible apply kept_answer
    | with_reducible apply Kept.ite
    | simp only [kept_mk]
    | with_reducible apply Kept.parts
    | with_reducible refine Kept.foldl ?_ (fun _ _ _ => ?_)
    | split

theorem kept_answerAtomic {q : List Instr} {s : State} (h : Kept q s) (x x2 cc detail old) : Kept q (answerAtomic s x x2 cc detail old) := by
  unfold answerAtomic
  repeat' first
    | with_reducible exact h
    | with_reducible assumption
    | with_reducible apply kept_offer
    | with_reducible apply Kept.ite
    | simp only [kept_mk]
    | with_reducible apply Kept.parts

theorem kept_execAtomicResponseExpire {q : List Instr} {s : State} (h : Kept q s) : KeptOut q (execAtomicResponseExpire s) := by
  unfold execAtomicResponseExpire
  repeat' first
    | with_reducible exact h
    | with_reducible assumption
    | with_reducible exact KeptOut.refused
    | with_reducible apply KeptOut.ite
    | with_reducible apply KeptOut.next
    | with_reducible apply Kept.ite
    | simp only [kept_mk]
    | with_reducible apply Kept.parts

theorem kept_homeAtomic {q : List Instr} {s : State} (h : Kept q s) (x x2) : Kept q (homeAtomic s x x2) := by
  unfold homeAtomic
  repeat' first
    | with_reducible exact h
    | with_reducible assumption
    | with_reducible apply kept_offer
    | with_reducible apply kept_answerAtomic
    | with_reducible apply kept_hbmWr
    | with_reducible apply Kept.ite
    | simp only
    | with_reducible apply Kept.parts
    | with_reducible refine Kept.foldl ?_ (fun _ _ _ => ?_)
    | split

theorem kept_relayRefused {q : List Instr} {s : State} (h : Kept q s) (x x2) : Kept q (relayRefused s x x2) := by
  unfold relayRefused
  repeat' first | with_reducible exact h | with_reducible assumption | with_reducible apply kept_answer

theorem kept_homeServe {q : List Instr} {s : State} (h : Kept q s) (x p) : Kept q (homeServe s x p) := by
  unfold homeServe
  repeat' first
    | with_reducible exact h
    | with_reducible assumption
    | with_reducible apply kept_relayRefused
    | with_reducible apply kept_answer
    | with_reducible apply kept_answerAtomic
    | with_reducible apply kept_homeAtomic
    | with_reducible apply kept_answerData
    | with_reducible apply kept_hbmWr
    | with_reducible apply Kept.ite
    | simp only
    | with_reducible apply Kept.parts
    | with_reducible refine Kept.foldl ?_ (fun _ _ _ => ?_)
    | split

theorem kept_epWrite {q : List Instr} {s : State} (h : Kept q s) (e p) : KeptSnd q (epWrite s e p) := by
  unfold epWrite
  repeat' first
    | with_reducible exact h
    | with_reducible assumption
    | with_reducible apply KeptSnd.ite
    | with_reducible apply KeptSnd.mk
    | with_reducible apply kept_dmaWrite
    | with_reducible apply Kept.ite
    | simp only
    | with_reducible apply Kept.parts
    | with_reducible refine Kept.foldl ?_ (fun _ _ _ => ?_)
    | split

theorem kept_setCtrX {q : List Instr} {s : State} (h : Kept q s) (e k c) : Kept q (setCtrX s e k c) := by
  unfold setCtrX
  repeat' first
    | with_reducible exact h
    | with_reducible assumption
    | with_reducible apply Kept.ite
    | simp only [kept_mk]
    | with_reducible apply Kept.parts

theorem kept_ctrOpen {q : List Instr} {s : State} (h : Kept q s) (e k x3) : Kept q (ctrOpen s e k x3) := by
  unfold ctrOpen
  repeat' first | with_reducible exact h | with_reducible assumption | with_reducible apply kept_wrs | with_reducible apply kept_setCtrX

theorem kept_ctrClose {q : List Instr} {s : State} (h : Kept q s) (e k) : Kept q (ctrClose s e k) := by
  unfold ctrClose
  repeat' first | with_reducible exact h | with_reducible assumption | with_reducible apply kept_setCtrX | with_reducible apply kept_wr

theorem kept_ctrToHold {q : List Instr} {s : State} (h : Kept q s) (e k) : Kept q (ctrToHold s e k) := by
  unfold ctrToHold
  repeat' first | with_reducible exact h | with_reducible assumption | with_reducible apply kept_setCtrX | with_reducible apply kept_wr

theorem kept_sigCopy {q : List Instr} {s : State} (h : Kept q s) (e x2) : Kept q (sigCopy s e x2) := by
  unfold sigCopy
  repeat' first | with_reducible exact h | with_reducible assumption | with_reducible apply kept_answer | with_reducible apply kept_cnt

theorem kept_fireEnd {q : List Instr} {t : State} (s : State) (h : Kept q t) (e k : Nat) (p : Packet) (cc dt : Nat) : Kept q (fireEnd s e k p cc dt t) := by
  have c : Kept q (cnt t (Reg.EP.EP_COUNT_C.SIGNALS_FIRED e)) := kept_cnt h _ _
  unfold fireEnd
  dsimp only
  refine Kept.foldl ?_ (fun _ _ k => kept_sigCopy k _ _)
  refine kept_ctrClose (kept_answer ?_ _ _ _ _ _ _ _) _ _
  split
  · exact Kept.ite (kept_postEvent c _ _ _ _ _ _) c
  · exact c

theorem kept_ctrFire {q : List Instr} {s : State} (h : Kept q s) (e k : Nat) (p : Packet) : Kept q (ctrFire s e k p) := by
  unfold ctrFire
  split
  · exact kept_fireEnd _ h _ _ _ _ _
  · exact Kept.ite (kept_fireEnd _ h _ _ _ _ _) (Kept.ite (kept_fireEnd _ (kept_dmaWrite h _ _ _ _ _ _) _ _ _ _ _) (kept_hostOp h _ _ _ _ _))

theorem kept_ctrRetry {q : List Instr} {s : State} (h : Kept q s) (e k p) : Kept q (ctrRetry s e k p) := by
  unfold ctrRetry
  repeat' first | with_reducible exact h | with_reducible assumption | with_reducible apply kept_ctrFire | with_reducible apply Kept.ite

theorem kept_ctrDenied {q : List Instr} {s : State} (h : Kept q s) (e k p) : Kept q (ctrDenied s e k p) := by
  unfold ctrDenied
  repeat' first | with_reducible exact h | with_reducible assumption | with_reducible apply kept_ctrRetry | with_reducible apply kept_setCtrX

theorem kept_ctrCheck {q : List Instr} {s : State} (h : Kept q s) (e k) : Kept q (ctrCheck s e k) := by
  unfold ctrCheck
  repeat' first
    | with_reducible exact h
    | with_reducible assumption
    | with_reducible apply kept_ctrFire
    | with_reducible apply Kept.ite
    | simp only [kept_mk]
    | with_reducible apply Kept.parts
    | with_reducible refine Kept.foldl ?_ (fun _ _ _ => ?_)
    | split

theorem kept_tileStore {q : List Instr} {s : State} (h : Kept q s) (e p) : Kept q (tileStore s e p) := by
  unfold tileStore
  repeat' first
    | with_reducible exact h
    | with_reducible assumption
    | with_reducible apply kept_answer
    | with_reducible apply kept_hostOp
    | with_reducible apply Kept.ite
    | simp only [kept_mk]
    | with_reducible apply Kept.parts
    | with_reducible refine Kept.foldl ?_ (fun _ _ _ => ?_)
    | split

theorem kept_sigCount {q : List Instr} {s : State} (h : Kept q s) (e k x3) : Kept q (sigCount s e k x3) := by
  unfold sigCount
  repeat' first
    | with_reducible exact h
    | with_reducible assumption
    | with_reducible apply kept_setCtrX
    | with_reducible apply kept_cnt
    | with_reducible apply kept_ctrCheck
    | with_reducible apply kept_answer

theorem kept_sigWrite {q : List Instr} {s : State} (h : Kept q s) (e k p) : Kept q (sigWrite s e k p) := by
  unfold sigWrite
  repeat' first
    | with_reducible exact h
    | with_reducible assumption
    | with_reducible apply kept_sigCopy
    | with_reducible apply kept_cnt
    | with_reducible apply kept_tileStore
    | with_reducible apply kept_epWrite
    | with_reducible apply kept_answer
    | with_reducible apply kept_sigCount
    | with_reducible apply Kept.ite
    | simp only [kept_mk]
    | with_reducible apply Kept.parts
    | with_reducible refine Kept.foldl ?_ (fun _ _ _ => ?_)
    | split
    | with_reducible apply Kept.getD
    | with_reducible apply Kept.snd

theorem kept_sigSignal {q : List Instr} {s : State} (h : Kept q s) (e k p deny) : Kept q (sigSignal s e k p deny) := by
  unfold sigSignal
  repeat' first
    | with_reducible exact h
    | with_reducible assumption
    | with_reducible apply kept_cnt
    | with_reducible apply kept_ctrCheck
    | with_reducible apply kept_setCtrX
    | with_reducible apply kept_wr
    | with_reducible apply Kept.ite

theorem kept_sigArrive {q : List Instr} {s : State} (h : Kept q s) (e p deny) : Kept q (sigArrive s e p deny) := by
  unfold sigArrive
  repeat' first
    | with_reducible exact h
    | with_reducible assumption
    | with_reducible apply kept_sigSignal
    | with_reducible apply kept_sigWrite
    | with_reducible apply kept_answer
    | with_reducible apply kept_cnt
    | with_reducible apply kept_sigCopy
    | with_reducible apply kept_ctrOpen
    | with_reducible apply Kept.ite
    | simp only
    | with_reducible apply Kept.parts
    | with_reducible refine Kept.foldl ?_ (fun _ _ _ => ?_)
    | split

theorem kept_sealEnd {q : List Instr} {s : State} (h : Kept q s) (e x2) : Kept q (sealEnd s e x2) := by
  unfold sealEnd
  repeat' first
    | with_reducible exact h
    | with_reducible assumption
    | with_reducible apply kept_sigCount
    | with_reducible apply kept_answer
    | with_reducible apply Kept.ite
    | simp only [kept_mk]
    | with_reducible apply Kept.parts
    | with_reducible refine Kept.foldl ?_ (fun _ _ _ => ?_)
    | split

theorem kept_relay {q : List Instr} {s : State} (h : Kept q s) (e p) : Kept q (relay s e p) := by
  unfold relay
  repeat' first
    | with_reducible exact h
    | with_reducible assumption
    | with_reducible apply kept_offer
    | with_reducible apply kept_relayRefused
    | with_reducible apply Kept.ite
    | simp only [kept_mk]
    | with_reducible apply Kept.parts

theorem kept_epAtomic {q : List Instr} {s : State} (h : Kept q s) (e p) : Kept q (epAtomic s e p) := by
  unfold epAtomic
  repeat' first
    | with_reducible exact h
    | with_reducible assumption
    | with_reducible apply kept_answerAtomic
    | with_reducible apply kept_offer
    | with_reducible apply kept_hostOp
    | with_reducible apply Kept.ite
    | simp only [kept_mk]
    | with_reducible apply Kept.parts
    | with_reducible refine Kept.foldl ?_ (fun _ _ _ => ?_)
    | split

theorem kept_epOldEpoch {q : List Instr} {s : State} (h : Kept q s) (e x2) : Kept q (epOldEpoch s e x2) := by
  unfold epOldEpoch
  repeat' first
    | with_reducible exact h
    | with_reducible assumption
    | with_reducible apply kept_offer
    | with_reducible apply kept_answerAtomic
    | with_reducible apply kept_answer
    | with_reducible apply Kept.ite
    | simp only [kept_mk]
    | with_reducible apply Kept.parts
    | with_reducible refine Kept.foldl ?_ (fun _ _ _ => ?_)
    | split

theorem kept_epServe {q : List Instr} {s : State} (h : Kept q s) (e p) : Kept q (epServe s e p) := by
  unfold epServe
  repeat' first
    | with_reducible exact h
    | with_reducible assumption
    | with_reducible apply kept_epOldEpoch
    | with_reducible apply kept_relay
    | with_reducible apply kept_answer
    | with_reducible apply kept_sigArrive
    | with_reducible apply kept_epAtomic
    | with_reducible apply kept_hostOp
    | with_reducible apply kept_epWrite
    | with_reducible apply kept_tileStore
    | with_reducible apply Kept.ite
    | simp only
    | with_reducible apply Kept.parts
    | with_reducible refine Kept.foldl ?_ (fun _ _ _ => ?_)
    | split
    | with_reducible apply Kept.getD
    | with_reducible apply Kept.snd

theorem kept_epTake {q : List Instr} {s : State} (h : Kept q s) (e p) : Kept q (epTake s e p) := by
  unfold epTake
  repeat' first
    | with_reducible exact h
    | with_reducible assumption
    | with_reducible apply kept_hostOp
    | with_reducible apply kept_epServe
    | with_reducible apply Kept.ite
    | simp only [kept_mk]
    | with_reducible apply Kept.parts
    | with_reducible refine Kept.foldl ?_ (fun _ _ _ => ?_)
    | split

theorem kept_epDeliver {q : List Instr} {s : State} (h : Kept q s) (e p) : Kept q (epDeliver s e p) := by
  unfold epDeliver
  repeat' first
    | with_reducible exact h
    | with_reducible assumption
    | with_reducible apply kept_epTake
    | with_reducible apply Kept.ite
    | simp only [kept_mk]
    | with_reducible apply Kept.parts

theorem kept_drainBehind {q : List Instr} {s : State} (h : Kept q s) (e) : Kept q (drainBehind s e) := by
  unfold drainBehind
  repeat' first
    | with_reducible exact h
    | with_reducible assumption
    | with_reducible apply kept_epTake
    | with_reducible apply Kept.ite
    | simp only [kept_mk]
    | with_reducible apply Kept.parts
    | with_reducible refine Kept.foldl ?_ (fun _ _ _ => ?_)

theorem kept_opGo {q : List Instr} {s : State} (h : Kept q s) (o) : Kept q (opGo s o) := by
  unfold opGo
  repeat' first
    | with_reducible exact h
    | with_reducible assumption
    | with_reducible apply kept_hostDone
    | with_reducible apply kept_epServe
    | with_reducible apply kept_hostGo
    | with_reducible apply kept_ctrRetry
    | with_reducible apply kept_answerAtomic
    | with_reducible apply Kept.ite
    | simp only
    | with_reducible apply Kept.parts
    | with_reducible refine Kept.foldl ?_ (fun _ _ _ => ?_)
    | split

theorem kept_hostNext {q : List Instr} {s : State} (h : Kept q s) (e) : Kept q (hostNext s e) := by
  unfold hostNext
  repeat' first
    | with_reducible exact h
    | with_reducible assumption
    | with_reducible apply kept_opGo
    | with_reducible apply kept_askPage
    | with_reducible apply Kept.ite
    | simp only [kept_mk]
    | with_reducible apply Kept.parts
    | with_reducible refine Kept.foldl ?_ (fun _ _ _ => ?_)
    | split

theorem kept_setSeq {q : List Instr} {s : State} (h : Kept q s) (k r) : Kept q (setSeq s k r) := by
  unfold setSeq
  repeat' first
    | with_reducible exact h
    | with_reducible assumption
    | with_reducible apply Kept.ite
    | simp only [kept_mk]
    | with_reducible apply Kept.parts

theorem kept_drainHeld {q : List Instr} {s : State} (h : Kept q s) (e a : Nat) (k : Nat) : Kept q (drainHeld s e a k) := by
  induction k generalizing s with
  | zero => exact h
  | succ k ih =>
    unfold drainHeld
    repeat' first
      | with_reducible exact h
      | with_reducible assumption
      | with_reducible apply ih
      | with_reducible apply kept_epDeliver
      | with_reducible apply kept_setSeq
      | with_reducible apply Kept.ite
      | simp only
      | with_reducible apply Kept.parts
      | with_reducible refine Kept.foldl ?_ (fun _ _ _ => ?_)
      | split

theorem kept_sequenced {q : List Instr} {s : State} (h : Kept q s) (e : Nat) (p : Packet) : Kept q (sequenced s e p) := by
  unfold sequenced
  dsimp only
  split
  · exact kept_epDeliver (kept_setSeq h _ _) _ _
  · exact Kept.ite (kept_drainHeld (kept_epDeliver (kept_setSeq h _ _) _ _) _ _ _) (Kept.ite (kept_setSeq h _ _) (kept_cnt h _ _))

theorem kept_targetArrive {q : List Instr} {s : State} (h : Kept q s) (x p k) : Kept q (targetArrive s x p k) := by
  unfold targetArrive
  repeat' first
    | with_reducible exact h
    | with_reducible assumption
    | with_reducible apply kept_received
    | with_reducible apply kept_homeServe
    | with_reducible apply kept_cnt
    | with_reducible apply kept_sequenced
    | intro _
    | with_reducible apply Kept.ite

theorem kept_execRead {q : List Instr} {s : State} (h : Kept q s) (x p) : KeptOut q (execRead x p s) := by
  unfold execRead
  repeat' first
    | with_reducible exact h
    | with_reducible assumption
    | with_reducible exact KeptOut.refused
    | with_reducible apply KeptOut.ite
    | with_reducible apply KeptOut.next
    | with_reducible apply kept_targetArrive

theorem kept_execWrite {q : List Instr} {s : State} (h : Kept q s) (x p) : KeptOut q (execWrite x p s) := by
  unfold execWrite
  repeat' first
    | with_reducible exact h
    | with_reducible assumption
    | with_reducible exact KeptOut.refused
    | with_reducible apply KeptOut.ite
    | with_reducible apply KeptOut.next
    | with_reducible apply kept_targetArrive

theorem kept_execReadBulk {q : List Instr} {s : State} (h : Kept q s) (x p) : KeptOut q (execReadBulk x p s) := by
  unfold execReadBulk
  repeat' first
    | with_reducible exact h
    | with_reducible assumption
    | with_reducible exact KeptOut.refused
    | with_reducible apply KeptOut.ite
    | with_reducible apply KeptOut.next
    | with_reducible apply kept_targetArrive

theorem kept_execWriteBulk {q : List Instr} {s : State} (h : Kept q s) (x p) : KeptOut q (execWriteBulk x p s) := by
  unfold execWriteBulk
  repeat' first
    | with_reducible exact h
    | with_reducible assumption
    | with_reducible exact KeptOut.refused
    | with_reducible apply KeptOut.ite
    | with_reducible apply KeptOut.next
    | with_reducible apply kept_targetArrive

theorem kept_execReadTile {q : List Instr} {s : State} (h : Kept q s) (x p) : KeptOut q (execReadTile x p s) := by
  unfold execReadTile
  repeat' first
    | with_reducible exact h
    | with_reducible assumption
    | with_reducible exact KeptOut.refused
    | with_reducible apply KeptOut.ite
    | with_reducible apply KeptOut.next
    | with_reducible apply kept_targetArrive

theorem kept_execWriteTile {q : List Instr} {s : State} (h : Kept q s) (x p) : KeptOut q (execWriteTile x p s) := by
  unfold execWriteTile
  repeat' first
    | with_reducible exact h
    | with_reducible assumption
    | with_reducible exact KeptOut.refused
    | with_reducible apply KeptOut.ite
    | with_reducible apply KeptOut.next
    | with_reducible apply kept_targetArrive

theorem kept_execAtomic {q : List Instr} {s : State} (h : Kept q s) (x p) : KeptOut q (execAtomic x p s) := by
  unfold execAtomic
  repeat' first
    | with_reducible exact h
    | with_reducible assumption
    | with_reducible exact KeptOut.refused
    | with_reducible apply KeptOut.ite
    | with_reducible apply KeptOut.next
    | with_reducible apply kept_targetArrive

theorem kept_execSignal {q : List Instr} {s : State} (h : Kept q s) (x p) : KeptOut q (execSignal x p s) := by
  unfold execSignal
  repeat' first
    | with_reducible exact h
    | with_reducible assumption
    | with_reducible exact KeptOut.refused
    | with_reducible apply KeptOut.ite
    | with_reducible apply KeptOut.next
    | with_reducible apply kept_targetArrive

theorem kept_execSeqSkipWaitExpire {q : List Instr} {s : State} (h : Kept q s) (e src tc) : KeptOut q (execSeqSkipWaitExpire e src tc s) := by
  unfold execSeqSkipWaitExpire
  repeat' first
    | with_reducible exact h
    | with_reducible assumption
    | with_reducible exact KeptOut.refused
    | with_reducible apply KeptOut.ite
    | with_reducible apply KeptOut.next
    | with_reducible apply kept_cnt
    | with_reducible apply kept_setSeq
    | with_reducible apply Kept.ite
    | simp only
    | with_reducible apply Kept.parts
    | with_reducible refine Kept.foldl ?_ (fun _ _ _ => ?_)
    | split

theorem kept_execSeqRecordExpire {q : List Instr} {s : State} (h : Kept q s) (e src tc) : KeptOut q (execSeqRecordExpire e src tc s) := by
  unfold execSeqRecordExpire
  repeat' first
    | with_reducible exact h
    | with_reducible assumption
    | with_reducible exact KeptOut.refused
    | with_reducible apply KeptOut.ite
    | with_reducible apply KeptOut.next
    | with_reducible apply Kept.ite
    | simp only [kept_mk]
    | with_reducible apply Kept.parts
    | with_reducible refine Kept.foldl ?_ (fun _ _ _ => ?_)
    | split

theorem kept_ctrRefuse {q : List Instr} {s : State} (h : Kept q s) (e x2) : Kept q (ctrRefuse s e x2) := by
  unfold ctrRefuse
  repeat' first
    | with_reducible exact h
    | with_reducible assumption
    | with_reducible apply kept_offer
    | with_reducible apply Kept.ite
    | simp only [kept_mk]
    | with_reducible apply Kept.parts

theorem kept_ctrRequest {q : List Instr} {s : State} (h : Kept q s) (e x2) : Kept q (ctrRequest s e x2) := by
  unfold ctrRequest
  repeat' first
    | with_reducible exact h
    | with_reducible assumption
    | with_reducible apply kept_offer
    | with_reducible apply kept_ctrRefuse
    | with_reducible apply kept_wrs
    | with_reducible apply kept_setCtrX
    | with_reducible apply Kept.ite
    | simp only
    | with_reducible apply Kept.parts
    | with_reducible refine Kept.foldl ?_ (fun _ _ _ => ?_)
    | split

theorem kept_execCtrRequest {q : List Instr} {s : State} (h : Kept q s) (x p) : KeptOut q (execCtrRequest x p s) := by
  unfold execCtrRequest
  repeat' first
    | with_reducible exact h
    | with_reducible assumption
    | with_reducible exact KeptOut.refused
    | with_reducible apply KeptOut.ite
    | with_reducible apply KeptOut.next
    | with_reducible apply kept_received
    | with_reducible apply kept_offer
    | with_reducible apply kept_ctrRequest
    | intro _
    | with_reducible apply Kept.ite

theorem kept_execCtrGrant {q : List Instr} {s : State} (h : Kept q s) (x p) : KeptOut q (execCtrGrant x p s) := by
  unfold execCtrGrant
  repeat' first
    | with_reducible exact h
    | with_reducible assumption
    | with_reducible exact KeptOut.refused
    | with_reducible apply KeptOut.ite
    | with_reducible apply KeptOut.next
    | with_reducible apply kept_received
    | intro _
    | with_reducible apply Kept.ite
    | simp only [kept_mk]
    | with_reducible apply Kept.parts
    | with_reducible refine Kept.foldl ?_ (fun _ _ _ => ?_)
    | split

theorem kept_execCtrRefuse {q : List Instr} {s : State} (h : Kept q s) (x p) : KeptOut q (execCtrRefuse x p s) := by
  unfold execCtrRefuse
  repeat' first
    | with_reducible exact h
    | with_reducible assumption
    | with_reducible exact KeptOut.refused
    | with_reducible apply KeptOut.ite
    | with_reducible apply KeptOut.next
    | with_reducible apply kept_received
    | intro _
    | with_reducible apply Kept.ite
    | simp only [kept_mk]
    | with_reducible apply Kept.parts
    | with_reducible refine Kept.foldl ?_ (fun _ _ _ => ?_)
    | split

theorem kept_execCtrReturn {q : List Instr} {s : State} (h : Kept q s) (x p) : KeptOut q (execCtrReturn x p s) := by
  unfold execCtrReturn
  repeat' first
    | with_reducible exact h
    | with_reducible assumption
    | with_reducible exact KeptOut.refused
    | with_reducible apply KeptOut.ite
    | with_reducible apply KeptOut.next
    | with_reducible apply kept_received
    | with_reducible apply kept_ctrToHold
    | intro _
    | with_reducible apply Kept.ite

theorem kept_execCtrHoldExpire {q : List Instr} {s : State} (h : Kept q s) (e k) : KeptOut q (execCtrHoldExpire e k s) := by
  unfold execCtrHoldExpire
  repeat' first
    | with_reducible exact h
    | with_reducible assumption
    | with_reducible exact KeptOut.refused
    | with_reducible apply KeptOut.ite
    | with_reducible apply KeptOut.next
    | with_reducible apply kept_wrs
    | with_reducible apply kept_setCtrX
    | with_reducible apply Kept.ite

theorem kept_execCtrGrantIdle {q : List Instr} {s : State} (h : Kept q s) (e k) : KeptOut q (execCtrGrantIdle e k s) := by
  unfold execCtrGrantIdle
  repeat' first
    | with_reducible exact h
    | with_reducible assumption
    | with_reducible exact KeptOut.refused
    | with_reducible apply KeptOut.ite
    | with_reducible apply KeptOut.next
    | with_reducible apply kept_ctrToHold
    | with_reducible apply Kept.ite

theorem kept_execCtrRequestRetry {q : List Instr} {s : State} (h : Kept q s) (e dest) : KeptOut q (execCtrRequestRetry e dest s) := by
  unfold execCtrRequestRetry
  repeat' first
    | with_reducible exact h
    | with_reducible assumption
    | with_reducible exact KeptOut.refused
    | with_reducible apply KeptOut.ite
    | with_reducible apply KeptOut.next
    | with_reducible apply kept_offer
    | with_reducible apply Kept.ite
    | simp only [kept_mk]
    | with_reducible apply Kept.parts
    | with_reducible refine Kept.foldl ?_ (fun _ _ _ => ?_)
    | split

theorem kept_execCtrCreditUnused {q : List Instr} {s : State} (h : Kept q s) (e dest ctr) : KeptOut q (execCtrCreditUnused e dest ctr s) := by
  unfold execCtrCreditUnused
  repeat' first
    | with_reducible exact h
    | with_reducible assumption
    | with_reducible exact KeptOut.refused
    | with_reducible apply KeptOut.ite
    | with_reducible apply KeptOut.next
    | with_reducible apply kept_offer
    | with_reducible apply Kept.ite
    | simp only [kept_mk]
    | with_reducible apply Kept.parts
    | with_reducible refine Kept.foldl ?_ (fun _ _ _ => ?_)
    | split

theorem kept_sealNext {q : List Instr} {s : State} (h : Kept q s) (e addr) : Kept q (sealNext s e addr) := by
  unfold sealNext
  repeat' first
    | with_reducible exact h
    | with_reducible assumption
    | with_reducible apply kept_hostGo
    | with_reducible apply Kept.ite
    | simp only [kept_mk]
    | with_reducible apply Kept.parts
    | with_reducible refine Kept.foldl ?_ (fun _ _ _ => ?_)
    | split

theorem kept_sealWrites {q : List Instr} {s : State} (h : Kept q s) (o g t) : Kept q (sealWrites s o g t) := by
  unfold sealWrites
  repeat' first | with_reducible exact h | with_reducible assumption | with_reducible apply kept_dmaWrite

theorem kept_hostAnswer {q : List Instr} {s : State} (h : Kept q s) (o status data) : Kept q (hostAnswer s o status data) := by
  unfold hostAnswer
  repeat' first
    | with_reducible exact h
    | with_reducible assumption
    | with_reducible apply kept_answer
    | with_reducible apply kept_answerData
    | with_reducible apply kept_sealNext
    | with_reducible apply kept_sealEnd
    | with_reducible apply kept_sealWrites
    | with_reducible apply kept_hostGo
    | with_reducible apply kept_answerAtomic
    | with_reducible apply kept_hostOp
    | with_reducible apply Kept.ite
    | simp only
    | with_reducible apply Kept.parts
    | with_reducible refine Kept.foldl ?_ (fun _ _ _ => ?_)
    | split

theorem kept_atsDrain {q : List Instr} {s : State} (h : Kept q s) (t) : Kept q (atsDrain s t) := by
  unfold atsDrain
  repeat' first
    | with_reducible exact h
    | with_reducible assumption
    | with_reducible apply kept_cnt
    | with_reducible apply kept_emitOut
    | with_reducible apply Kept.ite
    | simp only [kept_mk]
    | with_reducible apply Kept.parts
    | with_reducible refine Kept.foldl ?_ (fun _ _ _ => ?_)

theorem kept_execHostDmaComplete {q : List Instr} {s : State} (h : Kept q s) (tag status data) : KeptOut q (execHostDmaComplete tag status data s) := by
  unfold execHostDmaComplete
  repeat' first
    | with_reducible exact h
    | with_reducible assumption
    | with_reducible exact KeptOut.refused
    | with_reducible apply KeptOut.ite
    | with_reducible apply KeptOut.next
    | with_reducible apply kept_hostDone
    | with_reducible apply kept_atsDrain
    | with_reducible apply kept_drainBehind
    | with_reducible apply kept_hostNext
    | with_reducible apply kept_hostAnswer
    | with_reducible apply Kept.ite
    | simp only
    | with_reducible apply Kept.parts
    | with_reducible refine Kept.foldl ?_ (fun _ _ _ => ?_)
    | split

end Sys2Proof.Machine
end

