-- ==== Sys2Proof/Laws/KeptDescriptors.lean ====
section
/-!
SUPPORT. Laws/KeptDescriptors.lean: the operations of Machine/Descriptors.lean keep the canonical form of every store and the queue.
-/
namespace Sys2Proof.Machine
open Sys2Proof

theorem kept_askDescs {q : List Instr} {s : State} (h : Kept q s) (c a : Nat) (k : Nat) : Kept q (askDescs s c a k) := by
  induction k generalizing s with
  | zero => exact h
  | succ k ih =>
    unfold askDescs
    repeat' first
      | with_reducible exact h
      | with_reducible assumption
      | with_reducible apply ih
      | with_reducible apply kept_hostOp
      | with_reducible apply kept_setCtx
      | with_reducible apply Kept.ite

theorem kept_doorbell {q : List Instr} {s : State} (h : Kept q s) (c off v) : Kept q (doorbell s c off v) := by
  unfold doorbell
  repeat' first
    | with_reducible exact h
    | with_reducible assumption
    | with_reducible apply kept_askDescs
    | with_reducible apply kept_setCtx
    | with_reducible apply kept_eventOverflow
    | with_reducible apply Kept.ite

theorem kept_setQos {q : List Instr} {s : State} (h : Kept q s) (e f d) : Kept q (setQos s e f d) := by
  unfold setQos
  repeat' first
    | with_reducible exact h
    | with_reducible assumption
    | with_reducible apply Kept.ite
    | simp only [kept_mk]
    | with_reducible apply Kept.parts

theorem kept_qosSkip {q : List Instr} {s : State} (h : Kept q s) (e : Nat) (fs : List Nat) : Kept q (qosSkip s e fs) := by
  unfold qosSkip
  exact Kept.foldl h (fun _ _ k => kept_setQos k _ _ _)

theorem kept_qosPick {q : List Instr} {s : State} (h : Kept q s) (e : Nat) (fs : List Nat) (k : Nat) : KeptSnd q (qosPick s e fs k) := by
  induction k generalizing s with
  | zero => exact h
  | succ k ih =>
    unfold qosPick
    dsimp only
    refine KeptSnd.ite h ?_
    split
    · exact h
    · apply ih
      apply kept_setQos
      exact h

theorem kept_pickWork {q : List Instr} {s : State} (h : Kept q s) (e : Nat) : KeptSnd q (pickWork s e) := by
  unfold pickWork
  dsimp only
  generalize hs : { s with ep := _ } = t
  have ht : Kept q t := by subst hs; exact h
  generalize (activeFuncs s e).filter _ = fs
  generalize hr : qosPick _ e fs 1024 = r
  have kr : KeptSnd q r := by
    subst hr
    exact kept_qosPick (Kept.ite ht (kept_qosSkip ht _ _)) e fs _
  obtain ⟨f, u⟩ := r
  have ku : Kept q u := kr
  cases f with
  | none => exact ku
  | some f =>
    dsimp only
    split
    · exact ku
    · split <;> exact ku

theorem kept_qosStatus {q : List Instr} {s : State} (h : Kept q s) (e) : Kept q (qosStatus s e) := by
  unfold qosStatus
  repeat' first
    | with_reducible exact h
    | with_reducible assumption
    | with_reducible apply kept_wrb
    | with_reducible apply Kept.ite
    | simp only [kept_mk]
    | with_reducible apply Kept.parts
    | with_reducible refine Kept.foldl ?_ (fun _ _ _ => ?_)

theorem kept_descMore {q : List Instr} {s : State} (h : Kept q s) (i) : Kept q (descMore s i) := by
  unfold descMore
  repeat' first
    | with_reducible exact h
    | with_reducible assumption
    | with_reducible apply kept_setDesc
    | with_reducible apply Kept.ite
    | simp only [kept_mk]
    | with_reducible apply Kept.parts
    | with_reducible refine Kept.foldl ?_ (fun _ _ _ => ?_)
    | split

theorem kept_descFail {q : List Instr} {s : State} (h : Kept q s) (i off cc detail) : Kept q (descFail s i off cc detail) := by
  unfold descFail
  repeat' first
    | with_reducible exact h
    | with_reducible assumption
    | with_reducible apply kept_setDesc
    | with_reducible apply Kept.ite
    | simp only [kept_mk]
    | with_reducible apply Kept.parts
    | with_reducible refine Kept.foldl ?_ (fun _ _ _ => ?_)
    | split

theorem kept_issueReq {q : List Instr} {s : State} (h : Kept q s) (d off len x4 payload) : Kept q (issueReq s d off len x4 payload) := by
  unfold issueReq
  repeat' first | with_reducible exact h | with_reducible assumption | with_reducible apply kept_addReq | with_reducible apply kept_descMore

theorem kept_mergeSend {q : List Instr} {s : State} (h : Kept q s) (m) : Kept q (mergeSend s m) := by
  unfold mergeSend
  repeat' first
    | with_reducible exact h
    | with_reducible assumption
    | with_reducible apply kept_pump
    | with_reducible apply kept_addReq
    | with_reducible apply Kept.ite
    | simp only [kept_mk]
    | with_reducible apply Kept.parts

theorem kept_mergeFlush {q : List Instr} {s : State} (h : Kept q s) (f) : Kept q (mergeFlush s f) := by
  unfold mergeFlush
  repeat' first
    | with_reducible exact h
    | with_reducible assumption
    | with_reducible apply kept_mergeSend
    | with_reducible apply Kept.ite
    | simp only [kept_mk]
    | with_reducible apply Kept.parts
    | with_reducible refine Kept.foldl ?_ (fun _ _ _ => ?_)

theorem kept_combine {q : List Instr} {s : State} (h : Kept q s) (d off x3 data) : Kept q (combine s d off x3 data) := by
  unfold combine
  repeat' first
    | with_reducible exact h
    | with_reducible assumption
    | with_reducible apply kept_descMore
    | with_reducible apply kept_mergeSend
    | with_reducible apply Kept.ite
    | simp only [kept_mk]
    | with_reducible apply Kept.parts
    | with_reducible refine Kept.foldl ?_ (fun _ _ _ => ?_)
    | split

theorem kept_readPiece {q : List Instr} {s : State} (h : Kept q s) (table d p) : Kept q (readPiece table s d p) := by
  unfold readPiece
  repeat' first
    | with_reducible exact h
    | with_reducible assumption
    | with_reducible apply kept_descFail
    | with_reducible apply kept_result
    | with_reducible apply kept_issueReq
    | with_reducible apply Kept.ite
    | simp only
    | with_reducible apply Kept.parts
    | with_reducible refine Kept.foldl ?_ (fun _ _ _ => ?_)
    | split

theorem kept_writePiece {q : List Instr} {s : State} (h : Kept q s) (table sig d p) : Kept q (writePiece table sig s d p) := by
  unfold writePiece
  repeat' first
    | with_reducible exact h
    | with_reducible assumption
    | with_reducible apply kept_descFail
    | with_reducible apply kept_nearKill
    | with_reducible apply kept_issueReq
    | with_reducible apply kept_mergeFlush
    | with_reducible apply kept_combine
    | with_reducible apply Kept.ite
    | simp only
    | with_reducible apply Kept.parts
    | with_reducible refine Kept.foldl ?_ (fun _ _ _ => ?_)
    | split

theorem kept_openMessage {q : List Instr} {s : State} (h : Kept q s) (d : Desc) (dest : Nat) : KeptSnd q (openMessage s d dest) := by
  unfold openMessage
  dsimp only
  split
  · exact h
  · refine KeptSnd.mk (Kept.ite ?_ h)
    apply kept_offer
    exact h

theorem kept_sendSignal {q : List Instr} {s : State} (h : Kept q s) (d fpa xgen ctr msg count) : Kept q (sendSignal s d fpa xgen ctr msg count) := by
  unfold sendSignal
  repeat' first
    | with_reducible exact h
    | with_reducible assumption
    | with_reducible apply kept_issueReq
    | with_reducible apply Kept.ite
    | simp only [kept_mk]
    | with_reducible apply Kept.parts

theorem kept_signalled {q : List Instr} {s : State} (h : Kept q s) (d : Desc) (table : List Nat) : Kept q (signalled s d table) := by
  have key : ∀ (p : (Nat × Nat) × State) (ps : List Piece) (sa sx n : Nat), KeptSnd q p →
      Kept q (match descOf (ps.foldl (fun t x => writePiece table (some p.1) t d x) p.2) d.id with
        | some x => if x.bad.isSome then ps.foldl (fun t x => writePiece table (some p.1) t d x) p.2 else
            sendSignal (setDesc (ps.foldl (fun t x => writePiece table (some p.1) t d x) p.2) { x with msg := some (p.1.1, p.1.2, n) }) d sa sx p.1.1 p.1.2 n
        | none => ps.foldl (fun t x => writePiece table (some p.1) t d x) p.2) := by
    intro p ps sa sx n hp
    have kf := Kept.foldl (l := ps) (Kept.snd hp) (f := fun t x => writePiece table (some p.1) t d x) (fun _ _ k => kept_writePiece k _ _ _ _)
    split
    · exact Kept.ite kf (kept_sendSignal (kept_setDesc kf _) _ _ _ _ _ _)
    · exact kf
  unfold signalled
  split
  · exact kept_descFail h _ _ _ _
  · exact kept_descFail h _ _ _ _
  · refine Kept.ite (kept_descFail h _ _ _ _) ?_
    cases d.msg with
    | none => exact key (openMessage s d _) _ _ _ _ (kept_openMessage h _ _)
    | some m => exact key ((m.1, m.2.1), s) _ _ _ _ h

theorem kept_single {q : List Instr} {s : State} (h : Kept q s) (d table bit homed k tc attr len ext payload) : Kept q (single s d table bit homed k tc attr len ext payload) := by
  unfold single
  repeat' first
    | with_reducible exact h
    | with_reducible assumption
    | with_reducible apply kept_descFail
    | with_reducible apply kept_nearKill
    | with_reducible apply kept_issueReq
    | with_reducible apply Kept.ite
    | simp only
    | with_reducible apply Kept.parts
    | with_reducible refine Kept.foldl ?_ (fun _ _ _ => ?_)
    | split

theorem kept_flushDesc {q : List Instr} {s : State} (h : Kept q s) (d table) : Kept q (flushDesc s d table) := by
  unfold flushDesc
  repeat' first
    | with_reducible exact h
    | with_reducible assumption
    | with_reducible apply kept_mergeFlush
    | with_reducible apply kept_nearDrop
    | with_reducible apply kept_nearKill
    | with_reducible apply kept_descFail
    | with_reducible apply Kept.ite
    | simp only [kept_mk]
    | with_reducible apply Kept.parts
    | with_reducible refine Kept.foldl ?_ (fun _ _ _ => ?_)
    | split

theorem kept_issueDesc {q : List Instr} {s : State} (h : Kept q s) (d table) : Kept q (issueDesc s d table) := by
  unfold issueDesc
  repeat' first
    | with_reducible exact h
    | with_reducible assumption
    | with_reducible apply kept_readPiece
    | with_reducible apply kept_mergeFlush
    | with_reducible apply kept_signalled
    | with_reducible apply kept_writePiece
    | with_reducible apply kept_single
    | with_reducible apply kept_issueReq
    | with_reducible apply kept_flushDesc
    | with_reducible apply Kept.ite
    | simp only
    | with_reducible apply Kept.parts
    | with_reducible refine Kept.foldl ?_ (fun _ _ _ => ?_)
    | split

theorem kept_askTable {q : List Instr} {s : State} (h : Kept q s) (c) : Kept q (askTable s c) := by
  unfold askTable
  repeat' first | with_reducible exact h | with_reducible assumption | with_reducible apply kept_hostOp | with_reducible apply Kept.ite

theorem kept_fenceFlush {q : List Instr} {s : State} (h : Kept q s) (c x2) : Kept q (fenceFlush s c x2) := by
  unfold fenceFlush
  repeat' first
    | with_reducible exact h
    | with_reducible assumption
    | with_reducible apply kept_mergeFlush
    | with_reducible apply Kept.ite
    | simp only [kept_mk]
    | with_reducible apply Kept.parts
    | with_reducible refine Kept.foldl ?_ (fun _ _ _ => ?_)
    | split

theorem kept_tryIssue {q : List Instr} {s : State} (h : Kept q s) (i) : Kept q (tryIssue s i) := by
  unfold tryIssue
  repeat' first
    | with_reducible exact h
    | with_reducible assumption
    | with_reducible apply kept_askTable
    | with_reducible apply kept_mergeFlush
    | with_reducible apply kept_issueDesc
    | with_reducible apply kept_windowDone
    | with_reducible apply kept_fenceFlush
    | with_reducible apply kept_pump
    | with_reducible apply kept_setDesc
    | with_reducible apply Kept.ite
    | simp only
    | with_reducible apply Kept.parts
    | with_reducible refine Kept.foldl ?_ (fun _ _ _ => ?_)
    | split

theorem kept_advanceAll {q : List Instr} {s : State} (h : Kept q s) (c) : Kept q (advanceAll s c) := by
  unfold advanceAll
  repeat' first
    | with_reducible exact h
    | with_reducible assumption
    | with_reducible apply kept_tryIssue
    | with_reducible apply Kept.ite
    | simp only [kept_mk]
    | with_reducible apply Kept.parts
    | with_reducible refine Kept.foldl ?_ (fun _ _ _ => ?_)

theorem kept_execDescriptorComplete {q : List Instr} {s : State} (h : Kept q s) (id) : KeptOut q (execDescriptorComplete id s) := by
  unfold execDescriptorComplete
  repeat' first
    | with_reducible exact h
    | with_reducible assumption
    | with_reducible exact KeptOut.refused
    | with_reducible apply KeptOut.ite
    | with_reducible apply KeptOut.next
    | with_reducible apply kept_advanceAll
    | with_reducible apply kept_completeDesc
    | with_reducible apply Kept.ite
    | simp only [kept_mk]
    | with_reducible apply Kept.parts
    | with_reducible refine Kept.foldl ?_ (fun _ _ _ => ?_)
    | split

theorem kept_takeDesc {q : List Instr} {s : State} (h : Kept q s) (c a : Nat) (d : Nat × Nat) : KeptFst q (takeDesc s c a d) := by
  unfold takeDesc
  dsimp only
  apply KeptFst.mk
  apply kept_ctxStatus
  simp only [kept_mk]
  apply Kept.parts
  apply kept_setQos
  apply kept_setCtx
  exact h

theorem kept_beginDesc {q : List Instr} {s : State} (h : Kept q s) (x) : Kept q (beginDesc s x) := by
  unfold beginDesc
  repeat' first
    | with_reducible exact h
    | with_reducible assumption
    | with_reducible apply kept_setDesc
    | with_reducible apply kept_hostOp
    | with_reducible apply kept_tryIssue
    | with_reducible apply Kept.ite

theorem kept_startNext {q : List Instr} {s : State} (h : Kept q s) (e : Nat) (want : Nat → Bool) {p : State × Desc}
    (eq : startNext s e want = some p) : Kept q p.1 := by
  unfold startNext at eq
  have k := kept_pickWork h e
  split at eq
  · cases eq
  split at eq
  · rename_i c a t ep
    have ht : Kept q t := Kept.sndOf ep k
    split at eq
    · split at eq
      · cases eq; exact kept_takeDesc ht _ _ _
      · cases eq
    · cases eq
  · cases eq

theorem kept_runDesc {q : List Instr} {s : State} (h : Kept q s) (e : Nat) (want : Nat → Bool) : Kept q (runDesc s e want) := by
  unfold runDesc
  split
  · rename_i t x eq
    exact kept_qosStatus (kept_fenceFlush (kept_beginDesc (kept_startNext h e want eq) _) _ _) _
  · exact h

theorem kept_execDoorbellWrite {q : List Instr} {s : State} (h : Kept q s) (port func page off v) : KeptOut q (execDoorbellWrite port func page off v s) := by
  unfold execDoorbellWrite
  repeat' first
    | with_reducible exact h
    | with_reducible assumption
    | with_reducible exact KeptOut.refused
    | with_reducible apply KeptOut.ite
    | with_reducible apply KeptOut.next
    | with_reducible apply kept_qosStatus
    | with_reducible apply kept_doorbell
    | with_reducible apply Kept.ite
    | simp only [kept_mk]
    | with_reducible apply Kept.parts
    | with_reducible refine Kept.foldl ?_ (fun _ _ _ => ?_)
    | split

theorem kept_execDescRead {q : List Instr} {s : State} (h : Kept q s) (e) : KeptOut q (execDescRead e s) := by
  unfold execDescRead
  repeat' first
    | with_reducible exact h
    | with_reducible assumption
    | with_reducible exact KeptOut.refused
    | with_reducible apply KeptOut.ite
    | with_reducible apply KeptOut.next
    | with_reducible apply kept_runDesc

theorem kept_execDescWrite {q : List Instr} {s : State} (h : Kept q s) (e) : KeptOut q (execDescWrite e s) := by
  unfold execDescWrite
  repeat' first
    | with_reducible exact h
    | with_reducible assumption
    | with_reducible exact KeptOut.refused
    | with_reducible apply KeptOut.ite
    | with_reducible apply KeptOut.next
    | with_reducible apply kept_runDesc

theorem kept_execDescReadTile {q : List Instr} {s : State} (h : Kept q s) (e) : KeptOut q (execDescReadTile e s) := by
  unfold execDescReadTile
  repeat' first
    | with_reducible exact h
    | with_reducible assumption
    | with_reducible exact KeptOut.refused
    | with_reducible apply KeptOut.ite
    | with_reducible apply KeptOut.next
    | with_reducible apply kept_runDesc

theorem kept_execDescWriteTile {q : List Instr} {s : State} (h : Kept q s) (e) : KeptOut q (execDescWriteTile e s) := by
  unfold execDescWriteTile
  repeat' first
    | with_reducible exact h
    | with_reducible assumption
    | with_reducible exact KeptOut.refused
    | with_reducible apply KeptOut.ite
    | with_reducible apply KeptOut.next
    | with_reducible apply kept_runDesc

theorem kept_execDescAtomic {q : List Instr} {s : State} (h : Kept q s) (e) : KeptOut q (execDescAtomic e s) := by
  unfold execDescAtomic
  repeat' first
    | with_reducible exact h
    | with_reducible assumption
    | with_reducible exact KeptOut.refused
    | with_reducible apply KeptOut.ite
    | with_reducible apply KeptOut.next
    | with_reducible apply kept_runDesc

theorem kept_execDescOwn {q : List Instr} {s : State} (h : Kept q s) (e) : KeptOut q (execDescOwn e s) := by
  unfold execDescOwn
  repeat' first
    | with_reducible exact h
    | with_reducible assumption
    | with_reducible exact KeptOut.refused
    | with_reducible apply KeptOut.ite
    | with_reducible apply KeptOut.next
    | with_reducible apply kept_runDesc

theorem kept_execDescGather {q : List Instr} {s : State} (h : Kept q s) (e) : KeptOut q (execDescGather e s) := by
  unfold execDescGather
  repeat' first
    | with_reducible exact h
    | with_reducible assumption
    | with_reducible exact KeptOut.refused
    | with_reducible apply KeptOut.ite
    | with_reducible apply KeptOut.next
    | with_reducible apply kept_runDesc

theorem kept_execDescFlush {q : List Instr} {s : State} (h : Kept q s) (e) : KeptOut q (execDescFlush e s) := by
  unfold execDescFlush
  repeat' first
    | with_reducible exact h
    | with_reducible assumption
    | with_reducible exact KeptOut.refused
    | with_reducible apply KeptOut.ite
    | with_reducible apply KeptOut.next
    | with_reducible apply kept_runDesc

theorem kept_execDescNop {q : List Instr} {s : State} (h : Kept q s) (e) : KeptOut q (execDescNop e s) := by
  unfold execDescNop
  repeat' first
    | with_reducible exact h
    | with_reducible assumption
    | with_reducible exact KeptOut.refused
    | with_reducible apply KeptOut.ite
    | with_reducible apply KeptOut.next
    | with_reducible apply kept_runDesc

theorem kept_execDescUnsupported {q : List Instr} {s : State} (h : Kept q s) (e) : KeptOut q (execDescUnsupported e s) := by
  unfold execDescUnsupported
  repeat' first
    | with_reducible exact h
    | with_reducible assumption
    | with_reducible exact KeptOut.refused
    | with_reducible apply KeptOut.ite
    | with_reducible apply KeptOut.next
    | with_reducible apply kept_runDesc

theorem kept_execWcHoldExpire {q : List Instr} {s : State} (h : Kept q s) (e) : KeptOut q (execWcHoldExpire e s) := by
  unfold execWcHoldExpire
  repeat' first
    | with_reducible exact h
    | with_reducible assumption
    | with_reducible exact KeptOut.refused
    | with_reducible apply KeptOut.ite
    | with_reducible apply KeptOut.next
    | with_reducible apply kept_mergeFlush

theorem kept_relayAnswer {q : List Instr} {s : State} (h : Kept q s) (e p) : Kept q (relayAnswer s e p) := by
  unfold relayAnswer
  repeat' first
    | with_reducible exact h
    | with_reducible assumption
    | with_reducible apply kept_cnt
    | with_reducible apply kept_drainBehind
    | with_reducible apply kept_offer
    | with_reducible apply Kept.ite
    | simp only [kept_mk]
    | with_reducible apply Kept.parts

theorem kept_execRequestAttemptTimeout {q : List Instr} {s : State} (h : Kept q s) (id) : KeptOut q (execRequestAttemptTimeout id s) := by
  unfold execRequestAttemptTimeout
  repeat' first
    | with_reducible exact h
    | with_reducible assumption
    | with_reducible exact KeptOut.refused
    | with_reducible apply KeptOut.ite
    | with_reducible apply KeptOut.next
    | with_reducible apply kept_failAttempt
    | with_reducible apply Kept.ite
    | simp only [kept_mk]
    | with_reducible apply Kept.parts
    | with_reducible refine Kept.foldl ?_ (fun _ _ _ => ?_)
    | split

theorem kept_expireFirst {q : List Instr} {s : State} (h : Kept q s) (e p) : Kept q (expireFirst s e p) := by
  unfold expireFirst
  repeat' first
    | with_reducible exact h
    | with_reducible assumption
    | with_reducible apply kept_failAttempt
    | with_reducible apply Kept.ite
    | simp only [kept_mk]
    | with_reducible apply Kept.parts
    | with_reducible refine Kept.foldl ?_ (fun _ _ _ => ?_)
    | split

theorem kept_respArrive {q : List Instr} {f : State → Reqst → State} (hf : ∀ s r, Kept q s → Kept q (f s r)) {s : State} (h : Kept q s) (e : Nat)
    (p : Packet) (k : Kind) : Kept q (respArrive s e p k f) := by
  unfold respArrive
  refine Kept.ite h (kept_received (fun t h => ?_) h)
  refine Kept.ite (kept_relayAnswer h _ _) (Kept.ite (kept_cnt h _ _) ?_)
  have x := kept_expireFirst h e p
  dsimp only
  split
  · exact kept_advanceAll (hf _ _ x) _
  · exact kept_cnt x _ _

theorem kept_deliverRead {q : List Instr} {s : State} (h : Kept q s) (r data) : Kept q (deliverRead s r data) := by
  unfold deliverRead
  repeat' first
    | with_reducible exact h
    | with_reducible assumption
    | with_reducible apply kept_result
    | with_reducible apply Kept.ite
    | simp only [kept_mk]
    | with_reducible apply Kept.parts
    | with_reducible refine Kept.foldl ?_ (fun _ _ _ => ?_)
    | split

theorem kept_cacheRead {q : List Instr} {s : State} (h : Kept q s) (r data) : Kept q (cacheRead s r data) := by
  unfold cacheRead
  repeat' first | with_reducible exact h | with_reducible assumption | with_reducible apply kept_nearFill | with_reducible apply Kept.ite

theorem kept_execCompletion {q : List Instr} {s : State} (h : Kept q s) (e : Fin 2) (p : Packet) : KeptOut q (execCompletion e p s) :=
  kept_respArrive (fun _ _ h => kept_answerReq h _ _ _ _ _) h _ _ _

theorem kept_execReadResp {q : List Instr} {s : State} (h : Kept q s) (e : Fin 2) (p : Packet) : KeptOut q (execReadResp e p s) :=
  kept_respArrive (fun _ _ h => Kept.ite (kept_answerReq (kept_cacheRead (kept_deliverRead h _ _) _ _) _ _ _ _ _)
    (kept_answerReq h _ _ _ _ _)) h _ _ _

theorem kept_execAtomicResp {q : List Instr} {s : State} (h : Kept q s) (e : Fin 2) (p : Packet) : KeptOut q (execAtomicResp e p s) := by
  refine kept_respArrive (fun t r h => kept_answerReq ?_ _ _ _ _ _) h _ _ _
  split
  · split
    · exact kept_setDesc h _
    · exact h
  · exact h

theorem kept_readAgain {q : List Instr} {s : State} (h : Kept q s) (r reread torn) : Kept q (readAgain s r reread torn) := by
  unfold readAgain
  repeat' first
    | with_reducible exact h
    | with_reducible assumption
    | with_reducible apply kept_finishReq
    | with_reducible apply kept_pump
    | with_reducible apply kept_addReq
    | with_reducible apply kept_dropReq
    | with_reducible apply kept_askTable
    | with_reducible apply kept_setReq
    | with_reducible apply Kept.ite
    | simp only
    | with_reducible apply Kept.parts
    | with_reducible refine Kept.foldl ?_ (fun _ _ _ => ?_)
    | split

theorem kept_repeatReads {q : List Instr} {s : State} (h : Kept q s) (c) : Kept q (repeatReads s c) := by
  unfold repeatReads
  repeat' first
    | with_reducible exact h
    | with_reducible assumption
    | with_reducible apply kept_readAgain
    | with_reducible apply Kept.ite
    | simp only [kept_mk]
    | with_reducible apply Kept.parts
    | with_reducible refine Kept.foldl ?_ (fun _ _ _ => ?_)

theorem kept_tornRead {q : List Instr} {s : State} (h : Kept q s) (r) : Kept q (tornRead s r) := by
  unfold tornRead
  repeat' first
    | with_reducible exact h
    | with_reducible assumption
    | with_reducible apply kept_setReq
    | with_reducible apply kept_answerReq
    | with_reducible apply Kept.ite

theorem kept_classifyTile {q : List Instr} {s : State} (h : Kept q s) (r t) : Kept q (classifyTile s r t) := by
  unfold classifyTile
  repeat' first
    | with_reducible exact h
    | with_reducible assumption
    | with_reducible apply kept_tornRead
    | with_reducible apply kept_answerReq
    | with_reducible apply kept_deliverRead
    | with_reducible apply kept_readAgain
    | with_reducible apply Kept.ite

theorem kept_execTileResp {q : List Instr} {s : State} (h : Kept q s) (e : Fin 2) (p : Packet) : KeptOut q (execTileResp e p s) :=
  kept_respArrive (fun _ _ h => Kept.ite (kept_answerReq h _ _ _ _ _) (Kept.ite (kept_classifyTile h _ _) (Kept.ite h
    (kept_answerReq (Kept.ite (kept_cacheRead (kept_deliverRead h _ _) _ _) (kept_deliverRead h _ _)) _ _ _ _ _)))) h _ _ _

theorem kept_execTornRetry {q : List Instr} {s : State} (h : Kept q s) (id) : KeptOut q (execTornRetry id s) := by
  unfold execTornRetry
  repeat' first
    | with_reducible exact h
    | with_reducible assumption
    | with_reducible exact KeptOut.refused
    | with_reducible apply KeptOut.ite
    | with_reducible apply KeptOut.next
    | with_reducible apply kept_readAgain
    | with_reducible apply Kept.ite
    | simp only [kept_mk]
    | with_reducible apply Kept.parts
    | with_reducible refine Kept.foldl ?_ (fun _ _ _ => ?_)
    | split

theorem kept_execNoticeUnreachable {q : List Instr} {s : State} (h : Kept q s) (e p) : KeptOut q (execNoticeUnreachable e p s) := by
  unfold execNoticeUnreachable
  repeat' first
    | with_reducible exact h
    | with_reducible assumption
    | with_reducible exact KeptOut.refused
    | with_reducible apply KeptOut.ite
    | with_reducible apply KeptOut.next
    | with_reducible apply kept_received
    | with_reducible apply kept_expireFirst
    | with_reducible apply kept_advanceAll
    | with_reducible apply kept_failAttempt
    | intro _
    | with_reducible apply Kept.ite
    | simp only [kept_mk]
    | with_reducible apply Kept.parts
    | with_reducible refine Kept.foldl ?_ (fun _ _ _ => ?_)
    | split

theorem kept_noticeEvent {q : List Instr} {s : State} (h : Kept q s) (l x2) : Kept q (noticeEvent s l x2) := by
  unfold noticeEvent
  repeat' first | with_reducible exact h | with_reducible assumption | with_reducible apply kept_postAll

theorem kept_execNoticePortDown {q : List Instr} {s : State} (h : Kept q s) (e p) : KeptOut q (execNoticePortDown e p s) := by
  unfold execNoticePortDown
  repeat' first
    | with_reducible exact h
    | with_reducible assumption
    | with_reducible exact KeptOut.refused
    | with_reducible apply KeptOut.ite
    | with_reducible apply KeptOut.next
    | with_reducible apply kept_received
    | with_reducible apply kept_noticeEvent
    | intro _
    | with_reducible apply Kept.ite

theorem kept_execNoticeMemberLost {q : List Instr} {s : State} (h : Kept q s) (e p) : KeptOut q (execNoticeMemberLost e p s) := by
  unfold execNoticeMemberLost
  repeat' first
    | with_reducible exact h
    | with_reducible assumption
    | with_reducible exact KeptOut.refused
    | with_reducible apply KeptOut.ite
    | with_reducible apply KeptOut.next
    | with_reducible apply kept_received
    | with_reducible apply kept_noticeEvent
    | intro _
    | with_reducible apply Kept.ite

theorem kept_execNoticeTakeover {q : List Instr} {s : State} (h : Kept q s) (e p) : KeptOut q (execNoticeTakeover e p s) := by
  unfold execNoticeTakeover
  repeat' first
    | with_reducible exact h
    | with_reducible assumption
    | with_reducible exact KeptOut.refused
    | with_reducible apply KeptOut.ite
    | with_reducible apply KeptOut.next
    | with_reducible apply kept_received
    | with_reducible apply kept_nearDrop
    | with_reducible apply kept_ctrToHold
    | with_reducible apply kept_noticeEvent
    | with_reducible apply kept_pump
    | with_reducible apply kept_ctxStatus
    | intro _
    | with_reducible apply Kept.ite
    | simp only [kept_mk]
    | with_reducible apply Kept.parts
    | with_reducible refine Kept.foldl ?_ (fun _ _ _ => ?_)

end Sys2Proof.Machine
end

