-- ==== Sys2Proof/Laws/KeptMembers.lean ====
section
/-!
SUPPORT. Laws/KeptMembers.lean: the operations of Machine/Members.lean keep the canonical form of every store and the queue.
-/
namespace Sys2Proof.Machine
open Sys2Proof

theorem kept_swSend {q : List Instr} {s : State} (h : Kept q s) (e c k ext payload) : Kept q (swSend s e c k ext payload) := by
  unfold swSend
  repeat' first
    | with_reducible exact h
    | with_reducible assumption
    | with_reducible apply kept_swNow
    | with_reducible apply Kept.ite
    | simp only [kept_mk]
    | with_reducible apply Kept.parts

theorem kept_swDrop {q : List Instr} {s : State} (h : Kept q s) (f) : Kept q (swDrop s f) := by
  unfold swDrop
  repeat' first
    | with_reducible exact h
    | with_reducible assumption
    | with_reducible apply Kept.ite
    | simp only [kept_mk]
    | with_reducible apply Kept.parts

theorem kept_swAck {q : List Instr} {s : State} (h : Kept q s) (e c swarm member sop opseq tile) : Kept q (swAck s e c swarm member sop opseq tile) := by
  unfold swAck
  repeat' first | with_reducible exact h | with_reducible assumption | with_reducible apply kept_swSend

theorem kept_setContrib {q : List Instr} {s : State} (h : Kept q s) (x) : Kept q (setContrib s x) := by
  unfold setContrib
  repeat' first
    | with_reducible exact h
    | with_reducible assumption
    | with_reducible apply Kept.ite
    | simp only [kept_mk]
    | with_reducible apply Kept.parts

theorem kept_sendTiles {q : List Instr} {s : State} (h : Kept q s) (did : Nat) (k : Nat) : Kept q (sendTiles s did k) := by
  induction k generalizing s with
  | zero => exact h
  | succ k ih =>
    unfold sendTiles
    repeat' first
      | with_reducible exact h
      | with_reducible assumption
      | with_reducible apply ih
      | with_reducible apply kept_swSend
      | with_reducible apply kept_setContrib
      | with_reducible apply Kept.ite
      | simp only
      | with_reducible apply Kept.parts
      | with_reducible refine Kept.foldl ?_ (fun _ _ _ => ?_)
      | split

theorem kept_askCredit {q : List Instr} {s : State} (h : Kept q s) (x) : Kept q (askCredit s x) := by
  unfold askCredit
  repeat' first | with_reducible exact h | with_reducible assumption | with_reducible apply kept_swAck | with_reducible apply kept_setContrib

theorem kept_startContribs {q : List Instr} {s : State} (h : Kept q s) : Kept q (startContribs s) := by
  unfold startContribs
  repeat' first
    | with_reducible exact h
    | with_reducible assumption
    | with_reducible apply kept_askCredit
    | with_reducible apply kept_setContrib
    | with_reducible apply Kept.ite
    | simp only [kept_mk]
    | with_reducible apply Kept.parts
    | with_reducible refine Kept.foldl ?_ (fun _ _ _ => ?_)

theorem kept_endSwarmDesc {q : List Instr} {s : State} (h : Kept q s) (did bad) : Kept q (endSwarmDesc s did bad) := by
  unfold endSwarmDesc
  repeat' first
    | with_reducible exact h
    | with_reducible assumption
    | with_reducible apply kept_setDesc
    | with_reducible apply Kept.ite
    | simp only [kept_mk]
    | with_reducible apply Kept.parts
    | with_reducible refine Kept.foldl ?_ (fun _ _ _ => ?_)
    | split

theorem kept_beginSwarm {q : List Instr} {s : State} (h : Kept q s) (d) : Kept q (beginSwarm s d) := by
  unfold beginSwarm
  repeat' first
    | with_reducible exact h
    | with_reducible assumption
    | with_reducible apply kept_stepFault
    | with_reducible apply kept_setDesc
    | with_reducible apply kept_mergeFlush
    | with_reducible apply kept_hostOp
    | with_reducible apply Kept.ite
    | simp only [kept_mk]
    | with_reducible apply Kept.parts

theorem kept_execDescSwarm {q : List Instr} {s : State} (h : Kept q s) (e) : KeptOut q (execDescSwarm e s) := by
  unfold execDescSwarm
  apply KeptOut.next
  split
  · rename_i t x eq
    exact kept_qosStatus (kept_fenceFlush (kept_beginSwarm (kept_startNext h _ _ eq) _) _ _) _
  · exact h

theorem kept_execSwarmCreditReqRepeat {q : List Instr} {s : State} (h : Kept q s) (did) : KeptOut q (execSwarmCreditReqRepeat did s) := by
  unfold execSwarmCreditReqRepeat
  repeat' first
    | with_reducible exact h
    | with_reducible assumption
    | with_reducible exact KeptOut.refused
    | with_reducible apply KeptOut.ite
    | with_reducible apply KeptOut.next
    | with_reducible apply kept_askCredit
    | with_reducible apply Kept.ite
    | simp only [kept_mk]
    | with_reducible apply Kept.parts
    | with_reducible refine Kept.foldl ?_ (fun _ _ _ => ?_)
    | split

theorem kept_execSwarmCreditReceive {q : List Instr} {s : State} (h : Kept q s) (e p) : KeptOut q (execSwarmCreditReceive e p s) := by
  unfold execSwarmCreditReceive
  repeat' first
    | with_reducible exact h
    | with_reducible assumption
    | with_reducible exact KeptOut.refused
    | with_reducible apply KeptOut.ite
    | with_reducible apply KeptOut.next
    | with_reducible apply kept_received
    | with_reducible apply kept_sendTiles
    | with_reducible apply kept_setContrib
    | intro _
    | with_reducible apply Kept.ite
    | simp only
    | with_reducible apply Kept.parts
    | with_reducible refine Kept.foldl ?_ (fun _ _ _ => ?_)

theorem kept_settleResults {q : List Instr} {s : State} (h : Kept q s) (did) : Kept q (settleResults s did) := by
  unfold settleResults
  repeat' first
    | with_reducible exact h
    | with_reducible assumption
    | with_reducible apply kept_endSwarmDesc
    | with_reducible apply kept_setContrib
    | with_reducible apply kept_startContribs
    | with_reducible apply kept_swAck
    | with_reducible apply Kept.ite
    | simp only
    | with_reducible apply Kept.parts
    | with_reducible refine Kept.foldl ?_ (fun _ _ _ => ?_)
    | split

theorem kept_takeResult {q : List Instr} {s : State} (h : Kept q s) (p x) : Kept q (takeResult s p x) := by
  unfold takeResult
  repeat' first
    | with_reducible exact h
    | with_reducible assumption
    | with_reducible apply kept_swAck
    | with_reducible apply kept_settleResults
    | with_reducible apply kept_setContrib
    | with_reducible apply kept_result
    | with_reducible apply Kept.ite

theorem kept_execSwarmResultReceive {q : List Instr} {s : State} (h : Kept q s) (e p) : KeptOut q (execSwarmResultReceive e p s) := by
  unfold execSwarmResultReceive
  repeat' first
    | with_reducible exact h
    | with_reducible assumption
    | with_reducible exact KeptOut.refused
    | with_reducible apply KeptOut.ite
    | with_reducible apply KeptOut.next
    | with_reducible apply kept_received
    | with_reducible apply kept_takeResult
    | intro _
    | with_reducible apply Kept.ite
    | simp only [kept_mk]
    | with_reducible apply Kept.parts
    | with_reducible refine Kept.foldl ?_ (fun _ _ _ => ?_)

theorem kept_sendSeen {q : List Instr} {s : State} (h : Kept q s) (e swarm k) : Kept q (sendSeen s e swarm k) := by
  unfold sendSeen
  repeat' first
    | with_reducible exact h
    | with_reducible assumption
    | with_reducible apply kept_swAck
    | with_reducible apply Kept.ite
    | simp only [kept_mk]
    | with_reducible apply Kept.parts
    | with_reducible refine Kept.foldl ?_ (fun _ _ _ => ?_)

theorem kept_noteAbort {q : List Instr} {s : State} (h : Kept q s) (e swarm k) : Kept q (noteAbort s e swarm k) := by
  unfold noteAbort
  repeat' first
    | with_reducible exact h
    | with_reducible assumption
    | with_reducible apply Kept.ite
    | simp only [kept_mk]
    | with_reducible apply Kept.parts

theorem kept_closeOps {q : List Instr} {s : State} (h : Kept q s) (e swarm k) : Kept q (closeOps s e swarm k) := by
  unfold closeOps
  repeat' first
    | with_reducible exact h
    | with_reducible assumption
    | with_reducible apply kept_swDrop
    | with_reducible apply kept_startContribs
    | with_reducible apply kept_sendSeen
    | with_reducible apply kept_noteAbort
    | with_reducible apply Kept.ite
    | simp only [kept_mk]
    | with_reducible apply Kept.parts

theorem kept_abortContrib {q : List Instr} {s : State} (h : Kept q s) (cause x) : Kept q (abortContrib cause s x) := by
  unfold abortContrib
  repeat' first
    | with_reducible exact h
    | with_reducible assumption
    | with_reducible apply kept_stepFault
    | with_reducible apply kept_postEvent
    | with_reducible apply kept_endSwarmDesc
    | with_reducible apply Kept.ite

theorem kept_execSwarmAbortApply {q : List Instr} {s : State} (h : Kept q s) (e p) : KeptOut q (execSwarmAbortApply e p s) := by
  unfold execSwarmAbortApply
  repeat' first
    | with_reducible exact h
    | with_reducible assumption
    | with_reducible exact KeptOut.refused
    | with_reducible apply KeptOut.ite
    | with_reducible apply KeptOut.next
    | with_reducible apply kept_received
    | with_reducible apply kept_closeOps
    | with_reducible apply kept_abortContrib
    | intro _
    | with_reducible apply Kept.ite
    | simp only [kept_mk]
    | with_reducible apply Kept.parts
    | with_reducible refine Kept.foldl ?_ (fun _ _ _ => ?_)

theorem kept_abortCounters {q : List Instr} {s : State} (h : Kept q s) (t) : Kept q (abortCounters s t) := by
  unfold abortCounters
  repeat' first
    | with_reducible exact h
    | with_reducible assumption
    | with_reducible apply kept_ctrClose
    | with_reducible apply kept_answer
    | with_reducible apply Kept.ite
    | simp only
    | with_reducible apply Kept.parts
    | with_reducible refine Kept.foldl ?_ (fun _ _ _ => ?_)

theorem kept_abortSwarms {q : List Instr} {s : State} (h : Kept q s) (t) : Kept q (abortSwarms s t) := by
  unfold abortSwarms
  repeat' first
    | with_reducible exact h
    | with_reducible assumption
    | with_reducible apply kept_closeOps
    | with_reducible apply Kept.ite
    | simp only [kept_mk]
    | with_reducible apply Kept.parts
    | with_reducible refine Kept.foldl ?_ (fun _ _ _ => ?_)

theorem kept_abortCtx {q : List Instr} {s : State} (h : Kept q s) (c) : Kept q (abortCtx s c) := by
  unfold abortCtx
  repeat' first
    | with_reducible exact h
    | with_reducible assumption
    | with_reducible apply kept_creditFree
    | with_reducible apply kept_dropReq
    | with_reducible apply kept_swDrop
    | with_reducible apply kept_windowDone
    | with_reducible apply kept_setDesc
    | with_reducible apply kept_completeDesc
    | with_reducible apply kept_ctxStatus
    | with_reducible apply Kept.ite
    | simp only [kept_mk]
    | with_reducible apply Kept.parts
    | with_reducible refine Kept.foldl ?_ (fun _ _ _ => ?_)

theorem kept_stepAbort {q : List Instr} {s : State} (h : Kept q s) (t epoch) : Kept q (stepAbort s t epoch) := by
  unfold stepAbort
  repeat' first
    | with_reducible exact h
    | with_reducible assumption
    | with_reducible apply kept_wr
    | with_reducible apply kept_abortSwarms
    | with_reducible apply kept_abortCtx
    | with_reducible apply kept_nearDrop
    | with_reducible apply kept_abortCounters
    | with_reducible apply kept_pump
    | with_reducible apply kept_postAll
    | with_reducible apply Kept.ite
    | simp only [kept_mk]
    | with_reducible apply Kept.parts
    | with_reducible refine Kept.foldl ?_ (fun _ _ _ => ?_)

theorem kept_execStepCtlAbort {q : List Instr} {s : State} (h : Kept q s) (e p) : KeptOut q (execStepCtlAbort e p s) := by
  unfold execStepCtlAbort
  repeat' first
    | with_reducible exact h
    | with_reducible assumption
    | with_reducible exact KeptOut.refused
    | with_reducible apply KeptOut.ite
    | with_reducible apply KeptOut.next
    | with_reducible apply kept_received
    | with_reducible apply kept_stepAbort
    | intro _
    | with_reducible apply Kept.ite

end Sys2Proof.Machine
end

