-- ==== Sys2Proof/Laws/KeptCellOps.lean ====
section
/-!
SUPPORT. Laws/KeptCellOps.lean: the operations of Machine/CellOps.lean keep the canonical form of every store and the queue.
-/
namespace Sys2Proof.Machine
open Sys2Proof

theorem kept_taskRunAt {q : List Instr} {s : State} (h : Kept q s) (t p n) : Kept q (taskRunAt s t p n) := by
  unfold taskRunAt
  repeat' first
    | with_reducible exact h
    | with_reducible assumption
    | with_reducible apply kept_wr
    | with_reducible apply kept_cnt
    | with_reducible apply Kept.ite
    | simp only [kept_mk]
    | with_reducible apply Kept.parts

theorem kept_taskRun {q : List Instr} {s : State} (h : Kept q s) (t p) : Kept q (taskRun s t p) := by
  unfold taskRun
  repeat' first | with_reducible exact h | with_reducible assumption | with_reducible apply kept_taskRunAt

theorem kept_taskBegin {q : List Instr} {s : State} (h : Kept q s) (t p) : Kept q (taskBegin s t p) := by
  unfold taskBegin
  repeat' first
    | with_reducible exact h
    | with_reducible assumption
    | with_reducible apply Kept.ite
    | simp only [kept_mk]
    | with_reducible apply Kept.parts

theorem kept_setRun {q : List Instr} {s : State} (h : Kept q s) (l r) : Kept q (setRun s l r) := by
  unfold setRun
  repeat' first
    | with_reducible exact h
    | with_reducible assumption
    | with_reducible apply Kept.ite
    | simp only [kept_mk]
    | with_reducible apply Kept.parts

theorem kept_endRun {q : List Instr} {s : State} (h : Kept q s) (l) : Kept q (endRun s l) := by
  unfold endRun
  repeat' first
    | with_reducible exact h
    | with_reducible assumption
    | with_reducible apply Kept.ite
    | simp only [kept_mk]
    | with_reducible apply Kept.parts

theorem kept_setSlotTile {q : List Instr} {s : State} (h : Kept q s) (l k t) : Kept q (setSlotTile s l k t) := by
  unfold setSlotTile
  repeat' first
    | with_reducible exact h
    | with_reducible assumption
    | with_reducible apply Kept.ite
    | simp only [kept_mk]
    | with_reducible apply Kept.parts

theorem kept_setRand {q : List Instr} {s : State} (h : Kept q s) (l v) : Kept q (setRand s l v) := by
  unfold setRand
  repeat' first
    | with_reducible exact h
    | with_reducible assumption
    | with_reducible apply Kept.ite
    | simp only [kept_mk]
    | with_reducible apply Kept.parts

theorem kept_seedRand {q : List Instr} {s : State} (h : Kept q s) (l) : Kept q (seedRand s l) := by
  unfold seedRand
  repeat' first | with_reducible exact h | with_reducible assumption | with_reducible apply kept_setRand | with_reducible apply kept_takeFree

theorem kept_tookEvent {q : List Instr} {s : State} (h : Kept q s) (l) : Kept q (tookEvent s l) := by
  unfold tookEvent
  repeat' first
    | with_reducible exact h
    | with_reducible assumption
    | with_reducible apply Kept.ite
    | simp only [kept_mk]
    | with_reducible apply Kept.parts

theorem kept_beginEvent {q : List Instr} {s : State} (h : Kept q s) (l area) : Kept q (beginEvent s l area) := by
  unfold beginEvent
  repeat' first
    | with_reducible exact h
    | with_reducible assumption
    | with_reducible apply kept_bump
    | with_reducible apply kept_cnt
    | with_reducible apply kept_localWr
    | with_reducible apply kept_tookEvent

theorem kept_countException {q : List Instr} {s : State} (h : Kept q s) (l) : Kept q (countException s l) := by
  unfold countException
  repeat' first | with_reducible exact h | with_reducible assumption | with_reducible apply kept_bump | with_reducible apply kept_cnt

theorem kept_handlerRan {q : List Instr} {s : State} (h : Kept q s) (l n) : Kept q (handlerRan s l n) := by
  unfold handlerRan
  repeat' first
    | with_reducible exact h
    | with_reducible assumption
    | with_reducible apply kept_wr
    | with_reducible apply kept_bump
    | with_reducible apply kept_cnt
    | with_reducible apply Kept.ite

theorem kept_stockHandler {q : List Instr} {s : State} {l : Nat} {area : List Byte} {f : State → State}
    (hf : ∀ t, Kept q t → Kept q (f t)) (h : Kept q s) : Kept q (stockHandler s l area f) :=
  kept_handlerRan (kept_takeFree (hf _ (kept_beginEvent h _ _)) _) _ _

theorem kept_startHandler {q : List Instr} {s : State} (h : Kept q s) (l kind stamp area tile e) : Kept q (startHandler s l kind stamp area tile e) := by
  unfold startHandler
  repeat' first
    | with_reducible exact h
    | with_reducible assumption
    | with_reducible apply kept_beginEvent
    | with_reducible apply kept_setSlotTile
    | with_reducible apply kept_setRun
    | with_reducible apply Kept.ite
    | simp only [kept_mk]
    | with_reducible apply Kept.parts
    | with_reducible refine Kept.foldl ?_ (fun _ _ _ => ?_)
    | split

theorem kept_noEntry {q : List Instr} {s : State} (h : Kept q s) (l x2) : Kept q (noEntry s l x2) := by
  unfold noEntry
  repeat' first
    | with_reducible exact h
    | with_reducible assumption
    | with_reducible apply kept_offer
    | with_reducible apply kept_cnt
    | with_reducible apply Kept.ite
    | simp only [kept_mk]
    | with_reducible apply Kept.parts
    | with_reducible refine Kept.foldl ?_ (fun _ _ _ => ?_)
    | split

theorem kept_takeEntry {q : List Instr} {s : State} (h : Kept q s) (l e) : Kept q (takeEntry s l e) := by
  unfold takeEntry
  repeat' first
    | with_reducible exact h
    | with_reducible assumption
    | with_reducible apply kept_tookEvent
    | with_reducible apply Kept.ite
    | simp only [kept_mk]
    | with_reducible apply Kept.parts

theorem kept_cellEvent {q : List Instr} {s : State} {l kind : Nat} {p : Packet} {f : State → State}
    (hf : ∀ t, Kept q t → Kept q (f t)) (h : Kept q s) : Kept q (cellEvent s l kind p f) := by
  unfold cellEvent
  split
  · exact h
  · dsimp only
    have k := fun e => kept_takeEntry h l e
    refine Kept.ite (k _) (Kept.ite (kept_clusterNotRunning (k _) _ _) (Kept.ite h (Kept.ite (kept_stockHandler hf (k _)) ?_)))
    split
    · exact kept_startHandler (k _) _ _ _ _ _ _
    · exact kept_noEntry (k _) _ _

end Sys2Proof.Machine
end

