-- ==== Sys2Proof/Laws/KeptSwarmCore.lean ====
section
/-!
SUPPORT. Laws/KeptSwarmCore.lean: the operations of Machine/SwarmCore.lean keep the canonical form of every store and the queue.
-/
namespace Sys2Proof.Machine
open Sys2Proof

theorem kept_setSw {q : List Instr} {s : State} (h : Kept q s) (k r) : Kept q (setSw s k r) := by
  unfold setSw
  repeat' first
    | with_reducible exact h
    | with_reducible assumption
    | with_reducible apply kept_hbmWr
    | with_reducible apply Kept.ite
    | simp only [kept_mk]
    | with_reducible apply Kept.parts

theorem kept_setOp {q : List Instr} {s : State} (h : Kept q s) (k o) : Kept q (setOp s k o) := by
  unfold setOp
  repeat' first | with_reducible exact h | with_reducible assumption | with_reducible apply kept_setSw

theorem kept_mapBit {q : List Instr} {s : State} (h : Kept q s) (f k b) : Kept q (mapBit s f k b) := by
  unfold mapBit
  repeat' first | with_reducible exact h | with_reducible assumption | with_reducible apply kept_wr

theorem kept_swPlace {q : List Instr} {s : State} (h : Kept q s) (k place no) : Kept q (swPlace s k place no) := by
  unfold swPlace
  repeat' first
    | with_reducible exact h
    | with_reducible assumption
    | with_reducible apply kept_wr
    | with_reducible apply kept_trace
    | with_reducible apply kept_mapBit
    | with_reducible apply Kept.ite

theorem kept_swWait {q : List Instr} {s : State} (h : Kept q s) (k) : Kept q (swWait s k) := by
  unfold swWait
  repeat' first
    | with_reducible exact h
    | with_reducible assumption
    | with_reducible apply kept_setSw
    | with_reducible apply kept_swPlace
    | with_reducible apply Kept.ite

theorem kept_swStatus {q : List Instr} {s : State} (h : Kept q s) (k) : Kept q (swStatus s k) := by
  unfold swStatus
  repeat' first | with_reducible exact h | with_reducible assumption | with_reducible apply kept_swWait | with_reducible apply kept_wrs

theorem kept_swSkip {q : List Instr} {s : State} (h : Kept q s) (k op) : Kept q (swSkip s k op) := by
  unfold swSkip
  repeat' first | with_reducible exact h | with_reducible assumption | with_reducible apply kept_wr | with_reducible apply Kept.ite

theorem kept_setSlot {q : List Instr} {s : State} (h : Kept q s) (k b j x) : Kept q (setSlot s k b j x) := by
  unfold setSlot
  repeat' first
    | with_reducible exact h
    | with_reducible assumption
    | with_reducible apply kept_hbmWr
    | with_reducible apply Kept.ite
    | simp only [kept_mk]
    | with_reducible apply Kept.parts

theorem kept_endSlots {q : List Instr} {s : State} (h : Kept q s) (k op) : Kept q (endSlots s k op) := by
  unfold endSlots
  repeat' first
    | with_reducible exact h
    | with_reducible assumption
    | with_reducible apply Kept.ite
    | simp only [kept_mk]
    | with_reducible apply Kept.parts

theorem kept_endOp {q : List Instr} {s : State} (h : Kept q s) (k op) : Kept q (endOp s k op) := by
  unfold endOp
  repeat' first | with_reducible exact h | with_reducible assumption | with_reducible apply kept_endSlots | with_reducible apply kept_setSw

theorem kept_cellAbort {q : List Instr} {s : State} (h : Kept q s) (l k op cause member) : Kept q (cellAbort s l k op cause member) := by
  unfold cellAbort
  repeat' first
    | with_reducible exact h
    | with_reducible assumption
    | with_reducible apply kept_cellSeq
    | with_reducible apply kept_offer
    | with_reducible apply Kept.ite
    | simp only [kept_mk]
    | with_reducible apply Kept.parts
    | with_reducible refine Kept.foldl ?_ (fun _ _ _ => ?_)
    | split
    | with_reducible apply Kept.getD
    | with_reducible apply Kept.snd

theorem kept_noteSource {q : List Instr} {s : State} (h : Kept q s) (k op cause member source) : Kept q (noteSource s k op cause member source) := by
  unfold noteSource
  repeat' first | with_reducible exact h | with_reducible assumption | with_reducible apply kept_setSw

theorem kept_coreAbort {q : List Instr} {s : State} (h : Kept q s) (k op cause member source) : Kept q (coreAbort s k op cause member source) := by
  unfold coreAbort
  repeat' first
    | with_reducible exact h
    | with_reducible assumption
    | with_reducible apply kept_cellSeq
    | with_reducible apply kept_offer
    | with_reducible apply kept_noteSource
    | with_reducible apply Kept.ite
    | simp only [kept_mk]
    | with_reducible apply Kept.parts
    | with_reducible refine Kept.foldl ?_ (fun _ _ _ => ?_)
    | split
    | with_reducible apply Kept.getD
    | with_reducible apply Kept.snd

theorem kept_fromControl {q : List Instr} {s : State} (h : Kept q s) (k op p) : Kept q (fromControl s k op p) := by
  unfold fromControl
  repeat' first | with_reducible exact h | with_reducible assumption | with_reducible apply kept_offer

theorem kept_memberTestOne {q : List Instr} {s : State} (h : Kept q s) (ann k) : Kept q (memberTestOne ann s k) := by
  unfold memberTestOne
  repeat' first
    | with_reducible exact h
    | with_reducible assumption
    | with_reducible apply kept_setSw
    | with_reducible apply kept_offer
    | with_reducible apply kept_coreAbort
    | with_reducible apply kept_setOp
    | with_reducible apply Kept.ite
    | simp only
    | with_reducible apply Kept.parts
    | with_reducible refine Kept.foldl ?_ (fun _ _ _ => ?_)

theorem kept_memberTest {q : List Instr} {s : State} (h : Kept q s) (ann) : Kept q (memberTest s ann) := by
  unfold memberTest
  repeat' first
    | with_reducible exact h
    | with_reducible assumption
    | with_reducible apply kept_memberTestOne
    | with_reducible apply Kept.ite
    | simp only [kept_mk]
    | with_reducible apply Kept.parts
    | with_reducible refine Kept.foldl ?_ (fun _ _ _ => ?_)

theorem kept_abortLog {q : List Instr} {s : State} (h : Kept q s) (k source r) : Kept q (abortLog s k source r) := by
  unfold abortLog
  repeat' first | with_reducible exact h | with_reducible assumption | with_reducible apply kept_wrs | with_reducible apply kept_report

theorem kept_decide_ {q : List Instr} {s : State} (h : Kept q s) (k o cause member source) : Kept q (decide_ s k o cause member source) := by
  unfold decide_
  repeat' first
    | with_reducible exact h
    | with_reducible assumption
    | with_reducible apply kept_endOp
    | with_reducible apply kept_setSw
    | with_reducible apply kept_cnt
    | with_reducible apply kept_swSkip
    | with_reducible apply kept_setOp
    | with_reducible apply kept_bump
    | with_reducible apply kept_abortLog
    | with_reducible apply kept_fromControl
    | with_reducible apply kept_swStatus
    | with_reducible apply Kept.ite
    | simp only [kept_mk]
    | with_reducible apply Kept.parts
    | with_reducible refine Kept.foldl ?_ (fun _ _ _ => ?_)

theorem kept_swDiscard {q : List Instr} {s : State} (h : Kept q s) (k) : Kept q (swDiscard s k) := by
  unfold swDiscard
  repeat' first | with_reducible exact h | with_reducible assumption | with_reducible apply kept_countDiscarded

theorem kept_swDup {q : List Instr} {s : State} (h : Kept q s) (k) : Kept q (swDup s k) := by
  unfold swDup
  repeat' first | with_reducible exact h | with_reducible assumption | with_reducible apply kept_bump | with_reducible apply kept_cnt

theorem kept_endOlder {q : List Instr} {s : State} (h : Kept q s) (k op) : Kept q (endOlder s k op) := by
  unfold endOlder
  repeat' first
    | with_reducible exact h
    | with_reducible assumption
    | with_reducible apply kept_endOp
    | with_reducible apply kept_endSlots
    | with_reducible apply Kept.ite
    | simp only [kept_mk]
    | with_reducible apply Kept.parts
    | with_reducible refine Kept.foldl ?_ (fun _ _ _ => ?_)
    | split

theorem kept_openOp {q : List Instr} {s : State} (h : Kept q s) (k x2) : Kept q (openOp s k x2) := by
  unfold openOp
  repeat' first
    | with_reducible exact h
    | with_reducible assumption
    | with_reducible apply kept_endOlder
    | with_reducible apply kept_setSw
    | with_reducible apply kept_cnt
    | with_reducible apply kept_wr
    | with_reducible apply kept_bump
    | with_reducible apply kept_coreAbort
    | with_reducible apply kept_swStatus
    | with_reducible apply Kept.ite
    | simp only
    | with_reducible apply Kept.parts
    | with_reducible refine Kept.foldl ?_ (fun _ _ _ => ?_)
    | split

theorem kept_creditReq {q : List Instr} {s : State} (h : Kept q s) (x1) : Kept q (creditReq s x1) := by
  unfold creditReq
  repeat' first
    | with_reducible exact h
    | with_reducible assumption
    | with_reducible apply kept_fromControl
    | with_reducible apply kept_swDiscard
    | with_reducible apply kept_openOp
    | with_reducible apply Kept.ite
    | simp only [kept_mk]
    | with_reducible apply Kept.parts
    | with_reducible refine Kept.foldl ?_ (fun _ _ _ => ?_)
    | split

theorem kept_abortReqIn {q : List Instr} {s : State} (h : Kept q s) (x1 core) : Kept q (abortReqIn s x1 core) := by
  unfold abortReqIn
  repeat' first
    | with_reducible exact h
    | with_reducible assumption
    | with_reducible apply kept_swDiscard
    | with_reducible apply kept_decide_
    | with_reducible apply kept_cnt
    | with_reducible apply Kept.ite
    | simp only [kept_mk]
    | with_reducible apply Kept.parts
    | with_reducible refine Kept.foldl ?_ (fun _ _ _ => ?_)
    | split

theorem kept_silentEnd {q : List Instr} {s : State} (h : Kept q s) (k o) : Kept q (silentEnd k s o) := by
  unfold silentEnd
  repeat' first
    | with_reducible exact h
    | with_reducible assumption
    | with_reducible apply kept_endOp
    | with_reducible apply kept_cnt
    | with_reducible apply kept_setSw

theorem kept_abortSeenIn {q : List Instr} {s : State} (h : Kept q s) (x1) : Kept q (abortSeenIn s x1) := by
  unfold abortSeenIn
  repeat' first
    | with_reducible exact h
    | with_reducible assumption
    | with_reducible apply kept_swDiscard
    | with_reducible apply kept_endOp
    | with_reducible apply kept_setOp
    | with_reducible apply kept_swStatus
    | with_reducible apply kept_swSkip
    | with_reducible apply kept_silentEnd
    | with_reducible apply Kept.ite
    | simp only
    | with_reducible apply Kept.parts
    | with_reducible refine Kept.foldl ?_ (fun _ _ _ => ?_)
    | split

theorem kept_controlEvent {q : List Instr} {s : State} {p : Packet} {lo hi : Nat} {f : State → State}
    (hf : ∀ t, Kept q t → Kept q (f t)) (h : Kept q s) : Kept q (controlEvent s p lo hi f) :=
  Kept.ite h (kept_cellEvent hf h)

theorem kept_execSwarmCreditReq {q : List Instr} {s : State} (h : Kept q s) (p) : KeptOut q (execSwarmCreditReq p s) := by
  unfold execSwarmCreditReq
  repeat' first
    | with_reducible exact h
    | with_reducible assumption
    | with_reducible exact KeptOut.refused
    | with_reducible apply KeptOut.ite
    | with_reducible apply KeptOut.next
    | with_reducible apply kept_controlEvent
    | with_reducible apply kept_creditReq
    | with_reducible apply Kept.ite
    | simp only [kept_mk]
    | with_reducible apply Kept.parts
    | with_reducible refine Kept.foldl ?_ (fun _ _ _ => ?_)
    | split
    | with_reducible apply Kept.getD
    | with_reducible apply Kept.snd
    | with_reducible apply Kept.fst
    | refine Kept.sndOf (by assumption) ?_
    | refine Kept.fstOf (by assumption) ?_
    | refine Kept.optOf (by assumption) ?_
    | intro _

theorem kept_execSwarmAbortReq {q : List Instr} {s : State} (h : Kept q s) (p) : KeptOut q (execSwarmAbortReq p s) := by
  unfold execSwarmAbortReq
  repeat' first
    | with_reducible exact h
    | with_reducible assumption
    | with_reducible exact KeptOut.refused
    | with_reducible apply KeptOut.ite
    | with_reducible apply KeptOut.next
    | with_reducible apply kept_controlEvent
    | with_reducible apply kept_abortReqIn
    | with_reducible apply Kept.ite
    | simp only [kept_mk]
    | with_reducible apply Kept.parts
    | with_reducible refine Kept.foldl ?_ (fun _ _ _ => ?_)
    | split
    | with_reducible apply Kept.getD
    | with_reducible apply Kept.snd
    | with_reducible apply Kept.fst
    | refine Kept.sndOf (by assumption) ?_
    | refine Kept.fstOf (by assumption) ?_
    | refine Kept.optOf (by assumption) ?_
    | intro _

theorem kept_execSwarmAbortSeen {q : List Instr} {s : State} (h : Kept q s) (p) : KeptOut q (execSwarmAbortSeen p s) := by
  unfold execSwarmAbortSeen
  repeat' first
    | with_reducible exact h
    | with_reducible assumption
    | with_reducible exact KeptOut.refused
    | with_reducible apply KeptOut.ite
    | with_reducible apply KeptOut.next
    | with_reducible apply kept_controlEvent
    | with_reducible apply kept_abortSeenIn
    | with_reducible apply Kept.ite
    | simp only [kept_mk]
    | with_reducible apply Kept.parts
    | with_reducible refine Kept.foldl ?_ (fun _ _ _ => ?_)
    | split
    | with_reducible apply Kept.getD
    | with_reducible apply Kept.snd
    | with_reducible apply Kept.fst
    | refine Kept.sndOf (by assumption) ?_
    | refine Kept.fstOf (by assumption) ?_
    | refine Kept.optOf (by assumption) ?_
    | intro _

theorem kept_execSwarmAbortRelay {q : List Instr} {s : State} (h : Kept q s) (p) : KeptOut q (execSwarmAbortRelay p s) := by
  unfold execSwarmAbortRelay
  repeat' first
    | with_reducible exact h
    | with_reducible assumption
    | with_reducible exact KeptOut.refused
    | with_reducible apply KeptOut.ite
    | with_reducible apply KeptOut.next
    | with_reducible apply kept_received
    | with_reducible apply kept_offer
    | with_reducible apply kept_noteSource
    | with_reducible apply kept_trace
    | intro _
    | with_reducible apply Kept.ite

theorem kept_abortOp {q : List Instr} {s : State} (h : Kept q s) (w k) : Kept q (abortOp s w k) := by
  unfold abortOp
  repeat' first
    | with_reducible exact h
    | with_reducible assumption
    | with_reducible apply kept_regError
    | with_reducible apply kept_coreAbort
    | with_reducible apply Kept.ite
    | simp only [kept_mk]
    | with_reducible apply Kept.parts
    | with_reducible refine Kept.foldl ?_ (fun _ _ _ => ?_)
    | split

theorem kept_execSwarmAbortOp {q : List Instr} {s : State} (h : Kept q s) (w k) : KeptOut q (execSwarmAbortOp w k s) := by
  unfold execSwarmAbortOp
  repeat' first
    | with_reducible exact h
    | with_reducible assumption
    | with_reducible exact KeptOut.refused
    | with_reducible apply KeptOut.ite
    | with_reducible apply KeptOut.next
    | with_reducible apply kept_abortOp

theorem kept_execSwarmAbortResend {q : List Instr} {s : State} (h : Kept q s) (k op) : KeptOut q (execSwarmAbortResend k op s) := by
  unfold execSwarmAbortResend
  repeat' first
    | with_reducible exact h
    | with_reducible assumption
    | with_reducible exact KeptOut.refused
    | with_reducible apply KeptOut.ite
    | with_reducible apply KeptOut.next
    | with_reducible apply kept_setOp
    | with_reducible apply kept_fromControl
    | with_reducible apply Kept.ite
    | simp only
    | with_reducible apply Kept.parts
    | with_reducible refine Kept.foldl ?_ (fun _ _ _ => ?_)
    | split

theorem kept_execSwarmAbortResendLimit {q : List Instr} {s : State} (h : Kept q s) (k op) : KeptOut q (execSwarmAbortResendLimit k op s) := by
  unfold execSwarmAbortResendLimit
  repeat' first
    | with_reducible exact h
    | with_reducible assumption
    | with_reducible exact KeptOut.refused
    | with_reducible apply KeptOut.ite
    | with_reducible apply KeptOut.next
    | with_reducible apply kept_swStatus
    | with_reducible apply kept_endOp
    | with_reducible apply kept_cnt
    | with_reducible apply Kept.ite
    | simp only [kept_mk]
    | with_reducible apply Kept.parts
    | with_reducible refine Kept.foldl ?_ (fun _ _ _ => ?_)
    | split

theorem kept_fillPlaces {q : List Instr} {s : State} (h : Kept q s)  (k : Nat) : Kept q (fillPlaces s k) := by
  induction k generalizing s with
  | zero => exact h
  | succ k ih =>
    unfold fillPlaces
    repeat' first
      | with_reducible exact h
      | with_reducible assumption
      | with_reducible apply ih
      | with_reducible apply kept_swPlace
      | with_reducible apply Kept.ite
      | simp only [kept_mk]
      | with_reducible apply Kept.parts
      | with_reducible refine Kept.foldl ?_ (fun _ _ _ => ?_)
      | split

theorem kept_execSwarmAdmission {q : List Instr} {s : State} (h : Kept q s) : KeptOut q (execSwarmAdmission s) := by
  unfold execSwarmAdmission
  repeat' first
    | with_reducible exact h
    | with_reducible assumption
    | with_reducible exact KeptOut.refused
    | with_reducible apply KeptOut.ite
    | with_reducible apply KeptOut.next
    | with_reducible apply kept_fillPlaces
    | with_reducible apply kept_taskRun
    | with_reducible apply Kept.ite

theorem kept_raiseLimit {q : List Instr} {s : State} (h : Kept q s) (k g o) : Kept q (raiseLimit k g s o) := by
  unfold raiseLimit
  repeat' first
    | with_reducible exact h
    | with_reducible assumption
    | with_reducible apply kept_fromControl
    | with_reducible apply kept_setOp
    | with_reducible apply Kept.ite

theorem kept_creditWindow {q : List Instr} {s : State} (h : Kept q s) : Kept q (creditWindow s) := by
  unfold creditWindow
  repeat' first
    | with_reducible exact h
    | with_reducible assumption
    | with_reducible apply kept_swStatus
    | with_reducible apply kept_raiseLimit
    | with_reducible apply Kept.ite
    | simp only
    | with_reducible apply Kept.parts
    | with_reducible refine Kept.foldl ?_ (fun _ _ _ => ?_)

theorem kept_execSwarmCreditWindow {q : List Instr} {s : State} (h : Kept q s) : KeptOut q (execSwarmCreditWindow s) := by
  unfold execSwarmCreditWindow
  repeat' first
    | with_reducible exact h
    | with_reducible assumption
    | with_reducible exact KeptOut.refused
    | with_reducible apply KeptOut.ite
    | with_reducible apply KeptOut.next
    | with_reducible apply kept_creditWindow
    | with_reducible apply kept_taskRun
    | with_reducible apply Kept.ite

theorem kept_formResult {q : List Instr} {s : State} (h : Kept q s) (l k b j x) : Kept q (formResult s l k b j x) := by
  unfold formResult
  repeat' first
    | with_reducible exact h
    | with_reducible assumption
    | with_reducible apply kept_cnt
    | with_reducible apply kept_setSlot
    | with_reducible apply kept_hbmWr
    | with_reducible apply kept_bump
    | with_reducible apply kept_offer

theorem kept_finishVerdict {q : List Instr} {s : State} (h : Kept q s) (l k op i verdict t) : Kept q (finishVerdict s l k op i verdict t) := by
  unfold finishVerdict
  repeat' first
    | with_reducible exact h
    | with_reducible assumption
    | with_reducible apply kept_formResult
    | with_reducible apply kept_hbmWr
    | with_reducible apply kept_cellAbort
    | with_reducible apply kept_setSlot
    | with_reducible apply Kept.ite
    | simp only
    | with_reducible apply Kept.parts
    | with_reducible refine Kept.foldl ?_ (fun _ _ _ => ?_)
    | split

theorem kept_drawnRand {q : List Instr} {s : State} (h : Kept q s) (l rnd) : Kept q (drawnRand s l rnd) := by
  unfold drawnRand
  repeat' first
    | with_reducible exact h
    | with_reducible assumption
    | with_reducible apply kept_setRand
    | with_reducible apply kept_takeFree
    | with_reducible apply Kept.ite

theorem kept_finSgd {q : List Instr} {s : State} (h : Kept q s) (l k i p fmt rnd t) : KeptSnd q (finSgd s l k i p fmt rnd t) := by
  unfold finSgd
  repeat' first
    | with_reducible exact h
    | with_reducible assumption
    | with_reducible apply KeptSnd.ite
    | with_reducible apply KeptSnd.mk
    | with_reducible apply kept_drawnRand
    | with_reducible apply kept_takeFree
    | with_reducible apply kept_hbmWr
    | with_reducible apply Kept.ite

theorem kept_freeBytes {q : List Instr} {s : State} (h : Kept q s) (n) : KeptSnd q (freeBytes s n) := by
  unfold freeBytes
  repeat' first
    | with_reducible exact h
    | with_reducible assumption
    | with_reducible apply KeptSnd.ite
    | with_reducible apply KeptSnd.mk
    | with_reducible apply kept_takeFree

theorem kept_finFree {q : List Instr} {s : State} (h : Kept q s) (l k i row rnd : Nat) : KeptSnd q (finFree s l k i row rnd) :=
  kept_hbmWr (kept_drawnRand (kept_takeFree (kept_takeFree h _) _) _ _) _ _

theorem kept_finRows {q : List Instr} {s : State} (h : Kept q s) (l k i fmt rnd p : Nat) (t : List Byte) :
    KeptSnd q (finRows s l k i fmt rnd p t) := by
  unfold finRows
  exact KeptSnd.ite (kept_finSgd h _ _ _ _ _ _ _) (kept_finFree h _ _ _ _ _)

theorem kept_third {q : List Instr} {α β : Type} {c : Prop} [Decidable c] {x y : α × β × State} (h : Kept q x.2.2) (k : Kept q y.2.2) :
    Kept q (if c then x else y).2.2 := by
  split <;> assumption

theorem kept_stockFinish {q : List Instr} {s : State} (h : Kept q s) (l k i fmt rnd p : Nat) (t : List Byte) :
    Kept q (stockFinish s l k i fmt rnd p t).2.2 := by
  unfold stockFinish
  have hl := kept_localWr (kept_localWr h l 0x1FFF0 (leBytes 8 (rd s (Reg.SWARM.SWARM_DEF.FINISH_PARAM k)))) l 0x1FFF8
    (leBytes 8 (rd s (Reg.SWARM.SWARM_DEF.FINISH_AUX k)))
  dsimp only
  generalize localWr (localWr s l _ _) l _ _ = u at hl
  exact kept_third (kept_setRand hl _ _) (kept_third (kept_report (kept_takeFree (kept_countException hl _) _) _ _ _ _ _ _)
    (Kept.snd (kept_finRows hl _ _ _ _ _ _ _)))

theorem kept_completeTile {q : List Instr} {s : State} (h : Kept q s) (l k b j x) : Kept q (completeTile s l k b j x) := by
  unfold completeTile
  repeat' first
    | with_reducible exact h
    | with_reducible assumption
    | with_reducible apply kept_formResult
    | with_reducible apply kept_stockFinish
    | with_reducible apply kept_finishVerdict
    | with_reducible apply kept_setSlotTile
    | with_reducible apply kept_localWr
    | with_reducible apply kept_setRun
    | with_reducible apply Kept.ite

theorem kept_resendTo {q : List Instr} {s : State} (h : Kept q s) (l k b j m x) : Kept q (resendTo s l k b j m x) := by
  unfold resendTo
  repeat' first
    | with_reducible exact h
    | with_reducible assumption
    | with_reducible apply kept_cellAbort
    | with_reducible apply kept_offer
    | with_reducible apply kept_bump
    | with_reducible apply kept_cnt
    | with_reducible apply Kept.ite

theorem kept_firstTile {q : List Instr} {s : State} (h : Kept q s) (l k b j p) : Kept q (firstTile s l k b j p) := by
  unfold firstTile
  repeat' first
    | with_reducible exact h
    | with_reducible assumption
    | with_reducible apply kept_setSlot
    | with_reducible apply kept_hbmWr
    | with_reducible apply kept_completeTile
    | with_reducible apply Kept.ite

theorem kept_addTile {q : List Instr} {s : State} (h : Kept q s) (l k b j x p) : Kept q (addTile s l k b j x p) := by
  unfold addTile
  repeat' first
    | with_reducible exact h
    | with_reducible assumption
    | with_reducible apply kept_cellAbort
    | with_reducible apply kept_setSlot
    | with_reducible apply kept_hbmWr
    | with_reducible apply kept_setRand
    | with_reducible apply kept_completeTile
    | with_reducible apply Kept.ite

theorem kept_swarmTile {q : List Instr} {s : State} (h : Kept q s) (l p) : Kept q (swarmTile s l p) := by
  unfold swarmTile
  repeat' first
    | with_reducible exact h
    | with_reducible assumption
    | with_reducible apply kept_swDiscard
    | with_reducible apply kept_firstTile
    | with_reducible apply kept_swDup
    | with_reducible apply kept_resendTo
    | with_reducible apply kept_addTile
    | with_reducible apply Kept.ite
    | simp only [kept_mk]
    | with_reducible apply Kept.parts
    | with_reducible refine Kept.foldl ?_ (fun _ _ _ => ?_)
    | split

theorem kept_execSwarmTile {q : List Instr} {s : State} (h : Kept q s) (p) : KeptOut q (execSwarmTile p s) := by
  unfold execSwarmTile
  repeat' first
    | with_reducible exact h
    | with_reducible assumption
    | with_reducible exact KeptOut.refused
    | with_reducible apply KeptOut.ite
    | with_reducible apply KeptOut.next
    | with_reducible apply kept_cellEvent
    | with_reducible apply kept_swarmTile
    | with_reducible apply Kept.ite
    | simp only [kept_mk]
    | with_reducible apply Kept.parts
    | with_reducible refine Kept.foldl ?_ (fun _ _ _ => ?_)
    | split
    | with_reducible apply Kept.getD
    | with_reducible apply Kept.snd
    | with_reducible apply Kept.fst
    | refine Kept.sndOf (by assumption) ?_
    | refine Kept.fstOf (by assumption) ?_
    | refine Kept.optOf (by assumption) ?_
    | intro _

theorem kept_swarmAck {q : List Instr} {s : State} (h : Kept q s) (l p) : Kept q (swarmAck s l p) := by
  unfold swarmAck
  repeat' first
    | with_reducible exact h
    | with_reducible assumption
    | with_reducible apply kept_swDiscard
    | with_reducible apply kept_swDup
    | with_reducible apply kept_resendTo
    | with_reducible apply kept_setSlot
    | with_reducible apply Kept.ite
    | simp only
    | with_reducible apply Kept.parts
    | with_reducible refine Kept.foldl ?_ (fun _ _ _ => ?_)
    | split

theorem kept_ackEvent {q : List Instr} {s : State} (h : Kept q s) (p resend) : Kept q (ackEvent s p resend) := by
  unfold ackEvent
  repeat' first
    | with_reducible exact h
    | with_reducible assumption
    | with_reducible apply kept_cellEvent
    | with_reducible apply kept_swarmAck
    | with_reducible apply kept_controlEvent
    | with_reducible apply kept_swDiscard
    | with_reducible apply Kept.ite
    | simp only [kept_mk]
    | with_reducible apply Kept.parts
    | with_reducible refine Kept.foldl ?_ (fun _ _ _ => ?_)
    | split
    | with_reducible apply Kept.getD
    | with_reducible apply Kept.snd
    | with_reducible apply Kept.fst
    | refine Kept.sndOf (by assumption) ?_
    | refine Kept.fstOf (by assumption) ?_
    | refine Kept.optOf (by assumption) ?_
    | intro _

theorem kept_execSwarmAck {q : List Instr} {s : State} (h : Kept q s) (p) : KeptOut q (execSwarmAck p s) := by
  unfold execSwarmAck
  repeat' first
    | with_reducible exact h
    | with_reducible assumption
    | with_reducible exact KeptOut.refused
    | with_reducible apply KeptOut.ite
    | with_reducible apply KeptOut.next
    | with_reducible apply kept_ackEvent

theorem kept_execSwarmResend {q : List Instr} {s : State} (h : Kept q s) (p) : KeptOut q (execSwarmResend p s) := by
  unfold execSwarmResend
  repeat' first
    | with_reducible exact h
    | with_reducible assumption
    | with_reducible exact KeptOut.refused
    | with_reducible apply KeptOut.ite
    | with_reducible apply KeptOut.next
    | with_reducible apply kept_ackEvent

theorem kept_execSwarmDeadlineTimeout {q : List Instr} {s : State} (h : Kept q s) (k hi j) : KeptOut q (execSwarmDeadlineTimeout k hi j s) := by
  unfold execSwarmDeadlineTimeout
  repeat' first
    | with_reducible exact h
    | with_reducible assumption
    | with_reducible exact KeptOut.refused
    | with_reducible apply KeptOut.ite
    | with_reducible apply KeptOut.next
    | with_reducible apply kept_cellAbort
    | with_reducible apply Kept.ite
    | simp only
    | with_reducible apply Kept.parts
    | with_reducible refine Kept.foldl ?_ (fun _ _ _ => ?_)
    | split

theorem kept_execSwarmResultResend {q : List Instr} {s : State} (h : Kept q s) (k hi j) : KeptOut q (execSwarmResultResend k hi j s) := by
  unfold execSwarmResultResend
  repeat' first
    | with_reducible exact h
    | with_reducible assumption
    | with_reducible exact KeptOut.refused
    | with_reducible apply KeptOut.ite
    | with_reducible apply KeptOut.next
    | with_reducible apply kept_setSlot
    | with_reducible apply kept_resendTo
    | with_reducible apply Kept.ite
    | simp only
    | with_reducible apply Kept.parts
    | with_reducible refine Kept.foldl ?_ (fun _ _ _ => ?_)
    | split

theorem kept_swarmStart {q : List Instr} {s : State} (h : Kept q s) (k) : Kept q (swarmStart s k) := by
  unfold swarmStart
  repeat' first
    | with_reducible exact h
    | with_reducible assumption
    | with_reducible apply kept_wr
    | with_reducible apply kept_setSw
    | with_reducible apply kept_swStatus
    | with_reducible apply Kept.ite
    | simp only [kept_mk]
    | with_reducible apply Kept.parts

theorem kept_swarmLeave {q : List Instr} {s : State} (h : Kept q s) (k) : Kept q (swarmLeave s k) := by
  unfold swarmLeave
  repeat' first
    | with_reducible exact h
    | with_reducible assumption
    | with_reducible apply kept_swPlace
    | with_reducible apply kept_decide_
    | with_reducible apply Kept.ite
    | simp only [kept_mk]
    | with_reducible apply Kept.parts
    | with_reducible refine Kept.foldl ?_ (fun _ _ _ => ?_)
    | split

theorem kept_swarmStopped {q : List Instr} {s : State} (h : Kept q s) (k) : Kept q (swarmStopped s k) := by
  unfold swarmStopped
  repeat' first
    | with_reducible exact h
    | with_reducible assumption
    | with_reducible apply kept_endOp
    | with_reducible apply kept_swPlace
    | with_reducible apply kept_swStatus
    | with_reducible apply Kept.ite
    | simp only [kept_mk]
    | with_reducible apply Kept.parts
    | with_reducible refine Kept.foldl ?_ (fun _ _ _ => ?_)

theorem kept_swarmCellLost {q : List Instr} {s : State} (h : Kept q s) (l) : Kept q (swarmCellLost s l) := by
  unfold swarmCellLost
  repeat' first
    | with_reducible exact h
    | with_reducible assumption
    | with_reducible apply kept_coreAbort
    | with_reducible apply Kept.ite
    | simp only [kept_mk]
    | with_reducible apply Kept.parts
    | with_reducible refine Kept.foldl ?_ (fun _ _ _ => ?_)
    | split

end Sys2Proof.Machine
end

