-- ==== Sys2Proof/Laws/KeptCombineOps.lean ====
section
/-!
SUPPORT. Laws/KeptCombineOps.lean: the operations of Machine/CombineOps.lean keep the canonical form of every store and the queue.
-/
namespace Sys2Proof.Machine
open Sys2Proof

theorem kept_combNow {q : List Instr} {s : State} (h : Kept q s) : Kept q (combNow s) := by
  unfold combNow
  repeat' first | with_reducible exact h | with_reducible assumption | with_reducible apply kept_wrs

theorem kept_setComb {q : List Instr} {s : State} (h : Kept q s) (l c) : Kept q (setComb s l c) := by
  unfold setComb
  repeat' first
    | with_reducible exact h
    | with_reducible assumption
    | with_reducible apply kept_wr
    | with_reducible apply Kept.ite
    | simp only [kept_mk]
    | with_reducible apply Kept.parts

theorem kept_setDove {q : List Instr} {s : State} (h : Kept q s) (l d) : Kept q (setDove s l d) := by
  unfold setDove
  repeat' first | with_reducible exact h | with_reducible assumption | with_reducible apply kept_setComb

theorem kept_freeDove {q : List Instr} {s : State} (h : Kept q s) (l d) : Kept q (freeDove s l d) := by
  unfold freeDove
  repeat' first | with_reducible exact h | with_reducible assumption | with_reducible apply kept_setComb

theorem kept_pushReply {q : List Instr} {s : State} (h : Kept q s) (l p) : Kept q (pushReply s l p) := by
  unfold pushReply
  repeat' first | with_reducible exact h | with_reducible assumption | with_reducible apply kept_setComb

theorem kept_emitReply {q : List Instr} {s : State} (h : Kept q s) (l p) : Kept q (emitReply l s p) := by
  unfold emitReply
  repeat' first
    | with_reducible exact h
    | with_reducible assumption
    | with_reducible apply kept_cellSeq
    | with_reducible apply kept_setComb
    | with_reducible apply kept_offer
    | with_reducible apply Kept.ite
    | simp only [kept_mk]
    | with_reducible apply Kept.parts
    | with_reducible refine Kept.foldl ?_ (fun _ _ _ => ?_)
    | split
    | with_reducible apply Kept.getD
    | with_reducible apply Kept.snd

theorem kept_flushSome {q : List Instr} {s : State} (h : Kept q s) (l n : Nat) : Kept q (flushSome l n s) := by
  induction n generalizing s with
  | zero => exact h
  | succ n ih =>
    unfold flushSome
    split
    · exact h
    · exact Kept.ite (ih (kept_emitReply (kept_setComb h _ _) _ _)) h

theorem kept_flushReplies {q : List Instr} {s : State} (h : Kept q s) (l) : Kept q (flushReplies s l) := by
  unfold flushReplies
  repeat' first | with_reducible exact h | with_reducible assumption | with_reducible apply kept_flushSome

theorem kept_cellAnswer {q : List Instr} {s : State} (h : Kept q s) (l x2 cc detail res res2 payload len) : Kept q (cellAnswer s l x2 cc detail res res2 payload len) := by
  unfold cellAnswer
  repeat' first | with_reducible exact h | with_reducible assumption | with_reducible apply kept_pushReply

theorem kept_setLedger {q : List Instr} {s : State} (h : Kept q s) (k e) : Kept q (setLedger s k e) := by
  unfold setLedger
  repeat' first
    | with_reducible exact h
    | with_reducible assumption
    | with_reducible apply Kept.ite
    | simp only [kept_mk]
    | with_reducible apply Kept.parts

theorem kept_freeLedger {q : List Instr} {s : State} (h : Kept q s) (k) : Kept q (freeLedger s k) := by
  unfold freeLedger
  repeat' first
    | with_reducible exact h
    | with_reducible assumption
    | with_reducible apply Kept.ite
    | simp only [kept_mk]
    | with_reducible apply Kept.parts

theorem kept_ledReserve {q : List Instr} {s : State} (h : Kept q s) (l x2) : KeptOpt q (ledReserve s l x2) := by
  unfold ledReserve
  repeat' first
    | with_reducible exact h
    | with_reducible assumption
    | with_reducible exact KeptOpt.none
    | with_reducible apply KeptOpt.ite
    | with_reducible apply KeptOpt.some
    | with_reducible apply kept_setLedger
    | with_reducible apply Kept.ite
    | simp only [kept_mk]
    | with_reducible apply Kept.parts
    | with_reducible refine Kept.foldl ?_ (fun _ _ _ => ?_)
    | split

theorem kept_rebuildTables {q : List Instr} {s : State} (h : Kept q s) (l) : Kept q (rebuildTables s l) := by
  unfold rebuildTables
  repeat' first
    | with_reducible exact h
    | with_reducible assumption
    | with_reducible apply Kept.ite
    | simp only [kept_mk]
    | with_reducible apply Kept.parts

theorem kept_repaired {q : List Instr} {s : State} (h : Kept q s) (l x2) : Kept q (repaired s l x2) := by
  unfold repaired
  repeat' first
    | with_reducible exact h
    | with_reducible assumption
    | with_reducible apply kept_rebuildTables
    | with_reducible apply kept_report
    | with_reducible apply Kept.ite
    | simp only [kept_mk]
    | with_reducible apply Kept.parts
    | with_reducible refine Kept.foldl ?_ (fun _ _ _ => ?_)
    | split

theorem kept_ledWrite {q : List Instr} {s : State} (h : Kept q s) (l x2 cc res) : Kept q (ledWrite s l x2 cc res) := by
  unfold ledWrite
  repeat' first
    | with_reducible exact h
    | with_reducible assumption
    | with_reducible apply kept_hbmWr
    | with_reducible apply kept_setLedger
    | with_reducible apply Kept.ite
    | simp only
    | with_reducible apply Kept.parts
    | with_reducible refine Kept.foldl ?_ (fun _ _ _ => ?_)
    | split

end Sys2Proof.Machine
end

