-- ==== Sys2Proof/Laws/KeptHostReset.lean ====
section
/-!
SUPPORT. Laws/KeptHostReset.lean: the operations of Machine/HostReset.lean keep the canonical form of every store and the queue.
-/
namespace Sys2Proof.Machine
open Sys2Proof

theorem kept_revokeExports {q : List Instr} {s : State} (h : Kept q s) (e of) : Kept q (revokeExports s e of) := by
  unfold revokeExports
  repeat' first
    | with_reducible exact h
    | with_reducible assumption
    | with_reducible apply kept_wr
    | with_reducible apply kept_revokeEntry
    | with_reducible apply Kept.ite
    | simp only [kept_mk]
    | with_reducible apply Kept.parts
    | with_reducible refine Kept.foldl ?_ (fun _ _ _ => ?_)
    | split
    | with_reducible apply Kept.getD
    | with_reducible apply Kept.snd

theorem kept_exportWrite {q : List Instr} {s : State} (h : Kept q s) (w e k v acc) : Kept q (exportWrite s w e k v acc) := by
  unfold exportWrite
  repeat' first
    | with_reducible exact h
    | with_reducible assumption
    | with_reducible apply kept_regError
    | with_reducible apply kept_wr
    | with_reducible apply kept_wrs
    | with_reducible apply Kept.ite

theorem kept_execExportWrite {q : List Instr} {s : State} (h : Kept q s) (w e k v) : KeptOut q (execExportWrite w e k v s) := by
  unfold execExportWrite
  repeat' first
    | with_reducible exact h
    | with_reducible assumption
    | with_reducible exact KeptOut.refused
    | with_reducible apply KeptOut.ite
    | with_reducible apply KeptOut.next
    | with_reducible apply kept_exportWrite

theorem kept_flrAborts {q : List Instr} {s : State} (h : Kept q s) (c) : Kept q (flrAborts s c) := by
  unfold flrAborts
  repeat' first
    | with_reducible exact h
    | with_reducible assumption
    | with_reducible apply kept_swAck
    | with_reducible apply Kept.ite
    | simp only
    | with_reducible apply Kept.parts
    | with_reducible refine Kept.foldl ?_ (fun _ _ _ => ?_)

theorem kept_holdTag {q : List Instr} {s : State} (h : Kept q s) (r) : Kept q (holdTag s r) := by
  unfold holdTag
  repeat' first
    | with_reducible exact h
    | with_reducible assumption
    | with_reducible apply Kept.ite
    | simp only [kept_mk]
    | with_reducible apply Kept.parts

theorem kept_retireCtx {q : List Instr} {s : State} (h : Kept q s) (c) : Kept q (retireCtx s c) := by
  unfold retireCtx
  repeat' first
    | with_reducible exact h
    | with_reducible assumption
    | with_reducible apply kept_creditFree
    | with_reducible apply kept_holdTag
    | with_reducible apply kept_swDrop
    | with_reducible apply Kept.ite
    | simp only [kept_mk]
    | with_reducible apply Kept.parts
    | with_reducible refine Kept.foldl ?_ (fun _ _ _ => ?_)

theorem kept_shutCtx {q : List Instr} {s : State} (h : Kept q s) (c) : Kept q (shutCtx s c) := by
  unfold shutCtx
  repeat' first | with_reducible exact h | with_reducible assumption | with_reducible apply kept_setCtx

theorem kept_resetCtxs {q : List Instr} {s : State} (h : Kept q s) (e cs of) : Kept q (resetCtxs s e cs of) := by
  unfold resetCtxs
  repeat' first
    | with_reducible exact h
    | with_reducible assumption
    | with_reducible apply kept_shutCtx
    | with_reducible apply kept_flrAborts
    | with_reducible apply kept_retireCtx
    | with_reducible apply kept_revokeExports
    | with_reducible apply Kept.ite
    | simp only
    | with_reducible apply Kept.parts
    | with_reducible refine Kept.foldl ?_ (fun _ _ _ => ?_)

theorem kept_dropCtx {q : List Instr} {s : State} (h : Kept q s) (c) : Kept q (dropCtx s c) := by
  unfold dropCtx
  repeat' first | with_reducible exact h | with_reducible assumption | with_reducible apply kept_ctxStatus | with_reducible apply kept_wr

theorem kept_ctxDisable {q : List Instr} {s : State} (h : Kept q s) (c) : Kept q (ctxDisable s c) := by
  unfold ctxDisable
  repeat' first
    | with_reducible exact h
    | with_reducible assumption
    | with_reducible apply kept_qosStatus
    | with_reducible apply kept_pump
    | with_reducible apply kept_dropCtx
    | with_reducible apply kept_resetCtxs
    | with_reducible apply Kept.ite

theorem kept_execCtxDisable {q : List Instr} {s : State} (h : Kept q s) (x0 c) : KeptOut q (execCtxDisable x0 c s) := by
  unfold execCtxDisable
  repeat' first
    | with_reducible exact h
    | with_reducible assumption
    | with_reducible exact KeptOut.refused
    | with_reducible apply KeptOut.ite
    | with_reducible apply KeptOut.next
    | with_reducible apply kept_ctxDisable

theorem kept_ctxEnable {q : List Instr} {s : State} (h : Kept q s) (w c) : Kept q (ctxEnable s w c) := by
  unfold ctxEnable
  repeat' first
    | with_reducible exact h
    | with_reducible assumption
    | with_reducible apply kept_regError
    | with_reducible apply kept_setCtx
    | with_reducible apply kept_nearDrop
    | with_reducible apply kept_ctxStatus
    | with_reducible apply kept_wrs
    | with_reducible apply Kept.ite
    | simp only [kept_mk]
    | with_reducible apply Kept.parts

theorem kept_execCtxEnable {q : List Instr} {s : State} (h : Kept q s) (w c) : KeptOut q (execCtxEnable w c s) := by
  unfold execCtxEnable
  repeat' first
    | with_reducible exact h
    | with_reducible assumption
    | with_reducible exact KeptOut.refused
    | with_reducible apply KeptOut.ite
    | with_reducible apply KeptOut.next
    | with_reducible apply kept_ctxEnable

theorem kept_maskVectors {q : List Instr} {s : State} (h : Kept q s) (p f) : Kept q (maskVectors s p f) := by
  unfold maskVectors
  repeat' first
    | with_reducible exact h
    | with_reducible assumption
    | with_reducible apply Kept.ite
    | simp only [kept_mk]
    | with_reducible apply Kept.parts

theorem kept_leaveQos {q : List Instr} {s : State} (h : Kept q s) (p f) : Kept q (leaveQos s p f) := by
  unfold leaveQos
  repeat' first
    | with_reducible exact h
    | with_reducible assumption
    | with_reducible apply kept_wr
    | with_reducible apply Kept.ite
    | simp only [kept_mk]
    | with_reducible apply Kept.parts

theorem kept_confErase {q : List Instr} {s : State} (h : Kept q s) (p f) : Kept q (confErase s p f) := by
  unfold confErase
  repeat' first
    | with_reducible exact h
    | with_reducible assumption
    | with_reducible apply kept_wr
    | with_reducible apply Kept.ite
    | simp only [kept_mk]
    | with_reducible apply Kept.parts

theorem kept_endSession {q : List Instr} {s : State} (h : Kept q s) (p f) : Kept q (endSession s p f) := by
  unfold endSession
  repeat' first
    | with_reducible exact h
    | with_reducible assumption
    | with_reducible apply kept_confErase
    | with_reducible apply Kept.ite
    | simp only [kept_mk]
    | with_reducible apply Kept.parts

theorem kept_dropUnissued {q : List Instr} {s : State} (h : Kept q s) (p f) : Kept q (dropUnissued s p f) := by
  unfold dropUnissued
  repeat' first
    | with_reducible exact h
    | with_reducible assumption
    | with_reducible apply kept_ctrRetry
    | with_reducible apply Kept.ite
    | simp only [kept_mk]
    | with_reducible apply Kept.parts
    | with_reducible refine Kept.foldl ?_ (fun _ _ _ => ?_)
    | split

theorem kept_flrOne {q : List Instr} {s : State} (h : Kept q s) (p f) : Kept q (flrOne s p f) := by
  unfold flrOne
  repeat' first
    | with_reducible exact h
    | with_reducible assumption
    | with_reducible apply kept_wrs
    | with_reducible apply kept_resetCtxs
    | with_reducible apply kept_drainBehind
    | with_reducible apply kept_endSession
    | with_reducible apply kept_leaveQos
    | with_reducible apply kept_maskVectors
    | with_reducible apply kept_hostNext
    | with_reducible apply kept_dropUnissued
    | with_reducible apply Kept.ite
    | simp only [kept_mk]
    | with_reducible apply Kept.parts

theorem kept_flrBegin {q : List Instr} {s : State} (h : Kept q s) (p f) : Kept q (flrBegin s p f) := by
  unfold flrBegin
  repeat' first
    | with_reducible exact h
    | with_reducible assumption
    | with_reducible apply kept_pump
    | with_reducible apply kept_flrOne
    | with_reducible apply kept_cnt
    | with_reducible apply Kept.ite
    | simp only [kept_mk]
    | with_reducible apply Kept.parts
    | with_reducible refine Kept.foldl ?_ (fun _ _ _ => ?_)

theorem kept_execFlr {q : List Instr} {s : State} (h : Kept q s) (port func) : KeptOut q (execFlr port func s) := by
  unfold execFlr
  repeat' first
    | with_reducible exact h
    | with_reducible assumption
    | with_reducible exact KeptOut.refused
    | with_reducible apply KeptOut.ite
    | with_reducible apply KeptOut.next
    | with_reducible apply kept_flrBegin

theorem kept_cfgReset {q : List Instr} {s : State} (h : Kept q s) (p f) : Kept q (cfgReset s p f) := by
  unfold cfgReset
  repeat' first
    | with_reducible exact h
    | with_reducible assumption
    | with_reducible apply Kept.ite
    | simp only [kept_mk]
    | with_reducible apply Kept.parts

theorem kept_flrEnd {q : List Instr} {s : State} (h : Kept q s) (p f) : Kept q (flrEnd s p f) := by
  unfold flrEnd
  repeat' first
    | with_reducible exact h
    | with_reducible assumption
    | with_reducible apply kept_cfgReset
    | with_reducible apply kept_dropCtx
    | with_reducible apply kept_wrs
    | with_reducible apply Kept.ite
    | simp only [kept_mk]
    | with_reducible apply Kept.parts
    | with_reducible refine Kept.foldl ?_ (fun _ _ _ => ?_)
    | split

theorem kept_execFlrComplete {q : List Instr} {s : State} (h : Kept q s) (port func) : KeptOut q (execFlrComplete port func s) := by
  unfold execFlrComplete
  repeat' first
    | with_reducible exact h
    | with_reducible assumption
    | with_reducible exact KeptOut.refused
    | with_reducible apply KeptOut.ite
    | with_reducible apply KeptOut.next
    | with_reducible apply kept_flrEnd
    | with_reducible apply Kept.ite
    | simp only [kept_mk]
    | with_reducible apply Kept.parts
    | with_reducible refine Kept.foldl ?_ (fun _ _ _ => ?_)

theorem kept_vfWrite {q : List Instr} {s : State} (h : Kept q s) (p n enable) : Kept q (vfWrite s p n enable) := by
  unfold vfWrite
  repeat' first
    | with_reducible exact h
    | with_reducible assumption
    | with_reducible apply kept_flrBegin
    | with_reducible apply Kept.ite
    | simp only [kept_mk]
    | with_reducible apply Kept.parts
    | with_reducible refine Kept.foldl ?_ (fun _ _ _ => ?_)

theorem kept_execNumvfsWrite {q : List Instr} {s : State} (h : Kept q s) (port n enable) : KeptOut q (execNumvfsWrite port n enable s) := by
  unfold execNumvfsWrite
  repeat' first
    | with_reducible exact h
    | with_reducible assumption
    | with_reducible exact KeptOut.refused
    | with_reducible apply KeptOut.ite
    | with_reducible apply KeptOut.next
    | with_reducible apply kept_vfWrite

theorem kept_execVfEnableClear {q : List Instr} {s : State} (h : Kept q s) (port n enable) : KeptOut q (execVfEnableClear port n enable s) := by
  unfold execVfEnableClear
  repeat' first
    | with_reducible exact h
    | with_reducible assumption
    | with_reducible exact KeptOut.refused
    | with_reducible apply KeptOut.ite
    | with_reducible apply KeptOut.next
    | with_reducible apply kept_vfWrite
    | with_reducible apply Kept.ite

end Sys2Proof.Machine
end

