-- ==== Sys2Proof/Laws/KeptLinkOps.lean ====
section
/-!
SUPPORT. Laws/KeptLinkOps.lean: the operations of Machine/LinkOps.lean keep the canonical form of every store and the queue.
-/
namespace Sys2Proof.Machine
open Sys2Proof

theorem kept_setLink {q : List Instr} {s : State} (h : Kept q s) (x1 r) : Kept q (setLink s x1 r) := by
  unfold setLink
  repeat' first
    | with_reducible exact h
    | with_reducible assumption
    | with_reducible apply Kept.ite
    | simp only [kept_mk]
    | with_reducible apply Kept.parts

theorem kept_setLane {q : List Instr} {s : State} (h : Kept q s) (l r) : Kept q (setLane s l r) := by
  unfold setLane
  repeat' first
    | with_reducible exact h
    | with_reducible assumption
    | with_reducible apply Kept.ite
    | simp only [kept_mk]
    | with_reducible apply Kept.parts

theorem kept_setLaneState {q : List Instr} {s : State} (h : Kept q s) (p l v) : Kept q (setLaneState s p l v) := by
  unfold setLaneState
  repeat' first | with_reducible exact h | with_reducible assumption | with_reducible apply kept_wr

theorem kept_applySet {q : List Instr} {s : State} (h : Kept q s) (x1 set) : Kept q (applySet s x1 set) := by
  unfold applySet
  repeat' first
    | with_reducible exact h
    | with_reducible assumption
    | with_reducible apply kept_wr
    | with_reducible apply kept_setLaneState
    | with_reducible apply kept_wrs
    | with_reducible apply Kept.ite
    | simp only [kept_mk]
    | with_reducible apply Kept.parts
    | with_reducible refine Kept.foldl ?_ (fun _ _ _ => ?_)

theorem kept_sendMarkers {q : List Instr} {s : State} (h : Kept q s) (x1 ls) : Kept q (sendMarkers s x1 ls) := by
  unfold sendMarkers
  repeat' first
    | with_reducible exact h
    | with_reducible assumption
    | with_reducible apply kept_takeFree
    | with_reducible apply kept_emitOut
    | with_reducible apply kept_setLink
    | with_reducible apply Kept.ite
    | simp only [kept_mk]
    | with_reducible apply Kept.parts
    | with_reducible refine Kept.foldl ?_ (fun _ _ _ => ?_)

theorem kept_sendLcb {q : List Instr} {s : State} (h : Kept q s) (x1 ltype mark a b c) : Kept q (sendLcb s x1 ltype mark a b c) := by
  unfold sendLcb
  repeat' first | with_reducible exact h | with_reducible assumption | with_reducible apply kept_emitOut

theorem kept_sendWidthReq {q : List Instr} {s : State} (h : Kept q s) (x1 mask tries) : Kept q (sendWidthReq s x1 mask tries) := by
  unfold sendWidthReq
  repeat' first | with_reducible exact h | with_reducible assumption | with_reducible apply kept_setLink | with_reducible apply kept_sendLcb

theorem kept_wantWidth {q : List Instr} {s : State} (h : Kept q s) (x1) : Kept q (wantWidth s x1) := by
  unfold wantWidth
  repeat' first | with_reducible exact h | with_reducible assumption | with_reducible apply kept_sendWidthReq | with_reducible apply Kept.ite

theorem kept_trySwitch {q : List Instr} {s : State} (h : Kept q s) (x1) : Kept q (trySwitch s x1) := by
  unfold trySwitch
  repeat' first
    | with_reducible exact h
    | with_reducible assumption
    | with_reducible apply kept_setLink
    | with_reducible apply kept_wrs
    | with_reducible apply Kept.ite
    | simp only
    | with_reducible apply Kept.parts
    | with_reducible refine Kept.foldl ?_ (fun _ _ _ => ?_)
    | split

theorem kept_portIsDown {q : List Instr} {s : State} (h : Kept q s) (x1) : Kept q (portIsDown s x1) := by
  unfold portIsDown
  repeat' first
    | with_reducible exact h
    | with_reducible assumption
    | with_reducible apply Kept.ite
    | simp only [kept_mk]
    | with_reducible apply Kept.parts

theorem kept_linkDown {q : List Instr} {s : State} (h : Kept q s) (x1 cause outcome) : Kept q (linkDown s x1 cause outcome) := by
  unfold linkDown
  repeat' first
    | with_reducible exact h
    | with_reducible assumption
    | with_reducible apply kept_portIsDown
    | with_reducible apply kept_wrs
    | with_reducible apply kept_setLane
    | with_reducible apply kept_setLaneState
    | with_reducible apply kept_setLink
    | with_reducible apply kept_report
    | with_reducible apply Kept.ite
    | simp only [kept_mk]
    | with_reducible apply Kept.parts
    | with_reducible refine Kept.foldl ?_ (fun _ _ _ => ?_)

theorem kept_portLinksDown {q : List Instr} {s : State} (h : Kept q s) (p f) : Kept q (portLinksDown s p f) := by
  unfold portLinksDown
  repeat' first
    | with_reducible exact h
    | with_reducible assumption
    | with_reducible apply kept_linkDown
    | with_reducible apply Kept.ite
    | simp only [kept_mk]
    | with_reducible apply Kept.parts
    | with_reducible refine Kept.foldl ?_ (fun _ _ _ => ?_)

theorem kept_portOff {q : List Instr} {s : State} (h : Kept q s) (p flush) : Kept q (portOff s p flush) := by
  unfold portOff
  repeat' first
    | with_reducible exact h
    | with_reducible assumption
    | with_reducible apply kept_portLinksDown
    | with_reducible apply kept_portIsDown
    | with_reducible apply kept_clearCredit
    | with_reducible apply kept_cutArrivals
    | with_reducible apply Kept.ite
    | simp only [kept_mk]
    | with_reducible apply Kept.parts
    | with_reducible refine Kept.foldl ?_ (fun _ _ _ => ?_)

end Sys2Proof.Machine
end

