-- ==== Sys2Proof/Laws/KeptFuncOps.lean ====
section
/-!
SUPPORT. Laws/KeptFuncOps.lean: the operations of Machine/FuncOps.lean keep the canonical form of every store and the queue.
-/
namespace Sys2Proof.Machine
open Sys2Proof

theorem kept_contest {q : List Instr} {s : State} (h : Kept q s) (n k) : Kept q (contest n s k) := by
  unfold contest
  repeat' first | with_reducible exact h | with_reducible assumption | with_reducible apply kept_cnt | with_reducible apply kept_wr

theorem kept_hold {q : List Instr} {s : State} (h : Kept q s) (n k) : Kept q (hold n s k) := by
  unfold hold
  repeat' first | with_reducible exact h | with_reducible assumption | with_reducible apply kept_wr

theorem kept_decideClaims {q : List Instr} {s : State} (h : Kept q s) (n) : Kept q (decideClaims s n) := by
  unfold decideClaims
  repeat' first
    | with_reducible exact h
    | with_reducible assumption
    | with_reducible apply kept_hold
    | with_reducible apply kept_contest
    | with_reducible apply Kept.ite
    | simp only [kept_mk]
    | with_reducible apply Kept.parts
    | with_reducible refine Kept.foldl ?_ (fun _ _ _ => ?_)
    | split

theorem kept_releaseClaims {q : List Instr} {s : State} (h : Kept q s) (n) : Kept q (releaseClaims s n) := by
  unfold releaseClaims
  repeat' first
    | with_reducible exact h
    | with_reducible assumption
    | with_reducible apply kept_wr
    | with_reducible apply Kept.ite
    | simp only [kept_mk]
    | with_reducible apply Kept.parts
    | with_reducible refine Kept.foldl ?_ (fun _ _ _ => ?_)

theorem kept_setResult {q : List Instr} {s : State} (h : Kept q s) (n code res holder) : Kept q (setResult s n code res holder) := by
  unfold setResult
  repeat' first | with_reducible exact h | with_reducible assumption | with_reducible apply kept_wrs

theorem kept_setFn {q : List Instr} {s : State} (h : Kept q s) (n st) : Kept q (setFn s n st) := by
  unfold setFn
  repeat' first | with_reducible exact h | with_reducible assumption | with_reducible apply kept_functionEvent | with_reducible apply kept_wrs

theorem kept_fnRecord {q : List Instr} {s : State} (h : Kept q s) (n cause outcome) : Kept q (fnRecord s n cause outcome) := by
  unfold fnRecord
  repeat' first | with_reducible exact h | with_reducible assumption | with_reducible apply kept_report

theorem kept_clStatus {q : List Instr} {s : State} (h : Kept q s) (n) : Kept q (clStatus s n) := by
  unfold clStatus
  repeat' first | with_reducible exact h | with_reducible assumption | with_reducible apply kept_wr

theorem kept_setPhys {q : List Instr} {s : State} (h : Kept q s) (n c st) : Kept q (setPhys s n c st) := by
  unfold setPhys
  repeat' first | with_reducible exact h | with_reducible assumption | with_reducible apply kept_clStatus | with_reducible apply kept_wr

theorem kept_cellsDryFit {q : List Instr} {s : State} (h : Kept q s) (n) : Kept q (cellsDryFit s n) := by
  unfold cellsDryFit
  repeat' first
    | with_reducible exact h
    | with_reducible assumption
    | with_reducible apply kept_wr
    | with_reducible apply kept_clStatus
    | with_reducible apply Kept.ite
    | simp only [kept_mk]
    | with_reducible apply Kept.parts
    | with_reducible refine Kept.foldl ?_ (fun _ _ _ => ?_)

theorem kept_loadCell {q : List Instr} {s : State} (h : Kept q s) (l : Nat) : Kept q (loadCell s l) := by
  unfold loadCell
  dsimp only
  simp only [kept_mk]
  apply Kept.parts
  apply kept_localWr
  exact ⟨⟨h.1.1, h.1.2.1, h.1.2.2.1, memory_filter_wf _ h.1.2.2.2.1, h.1.2.2.2.2⟩, h.2⟩

theorem kept_cellsAssign {q : List Instr} {s : State} (h : Kept q s) (n : Nat) : Kept q (cellsAssign s n) := by
  unfold cellsAssign
  dsimp only
  refine kept_clStatus (Kept.foldl (kept_trace ?_ _ _ _ _ _) (fun _ _ k => kept_loadCell (kept_wrs k _) _)) _
  exact ⟨⟨h.1.1, h.1.2.1, h.1.2.2.1, h.1.2.2.2.1, memory_filter_wf _ h.1.2.2.2.2⟩, h.2⟩

theorem kept_cellsClear {q : List Instr} {s : State} (h : Kept q s) (n) : Kept q (cellsClear s n) := by
  unfold cellsClear
  repeat' first
    | with_reducible exact h
    | with_reducible assumption
    | with_reducible apply Kept.ite
    | simp only [kept_mk]
    | with_reducible apply Kept.parts

theorem kept_cellsOff {q : List Instr} {s : State} (h : Kept q s) (n) : Kept q (cellsOff s n) := by
  unfold cellsOff
  repeat' first
    | with_reducible exact h
    | with_reducible assumption
    | with_reducible apply kept_clStatus
    | with_reducible apply kept_wr
    | with_reducible apply kept_cellsClear
    | with_reducible apply Kept.ite
    | simp only [kept_mk]
    | with_reducible apply Kept.parts
    | with_reducible refine Kept.foldl ?_ (fun _ _ _ => ?_)

theorem kept_finishSlot {q : List Instr} {s : State} (h : Kept q s) (j v) : Kept q (finishSlot s j v) := by
  unfold finishSlot
  repeat' first
    | with_reducible exact h
    | with_reducible assumption
    | with_reducible apply kept_wrs
    | with_reducible apply Kept.ite
    | simp only [kept_mk]
    | with_reducible apply Kept.parts
    | with_reducible refine Kept.foldl ?_ (fun _ _ _ => ?_)
    | split

theorem kept_finishLoad {q : List Instr} {s : State} (h : Kept q s) (k head i) : Kept q (finishLoad s k head i) := by
  unfold finishLoad
  repeat' first
    | with_reducible exact h
    | with_reducible assumption
    | with_reducible apply kept_finishSlot
    | with_reducible apply Kept.ite
    | simp only [kept_mk]
    | with_reducible apply Kept.parts
    | with_reducible refine Kept.foldl ?_ (fun _ _ _ => ?_)

theorem kept_finishRelease {q : List Instr} {s : State} (h : Kept q s) (k) : Kept q (finishRelease s k) := by
  unfold finishRelease
  repeat' first
    | with_reducible exact h
    | with_reducible assumption
    | with_reducible apply kept_finishSlot
    | with_reducible apply Kept.ite
    | simp only [kept_mk]
    | with_reducible apply Kept.parts
    | with_reducible refine Kept.foldl ?_ (fun _ _ _ => ?_)

theorem kept_fnRelease {q : List Instr} {s : State} (h : Kept q s) (n) : Kept q (fnRelease s n) := by
  unfold fnRelease
  repeat' first
    | with_reducible exact h
    | with_reducible assumption
    | with_reducible apply kept_releaseClaims
    | with_reducible apply kept_finishRelease
    | with_reducible apply kept_wr
    | with_reducible apply Kept.ite
    | simp only [kept_mk]
    | with_reducible apply Kept.parts

theorem kept_dryFitFails {q : List Instr} {s : State} (h : Kept q s) (n code res holder) : Kept q (dryFitFails s n code res holder) := by
  unfold dryFitFails
  repeat' first
    | with_reducible exact h
    | with_reducible assumption
    | with_reducible apply kept_trace
    | with_reducible apply kept_setFn
    | with_reducible apply kept_setResult
    | with_reducible apply kept_fnRelease

theorem kept_stopFn {q : List Instr} {s : State} (h : Kept q s) (n) : Kept q (stopFn s n) := by
  unfold stopFn
  repeat' first
    | with_reducible exact h
    | with_reducible assumption
    | with_reducible apply kept_setFn
    | with_reducible apply kept_leaveResidues
    | with_reducible apply kept_portLinksDown
    | with_reducible apply kept_swarmLeave
    | with_reducible apply kept_memberTest
    | with_reducible apply Kept.ite
    | simp only [kept_mk]
    | with_reducible apply Kept.parts

theorem kept_loseDeps {q : List Instr} {s : State} (h : Kept q s) (n : Nat) (k : Nat) : Kept q (loseDeps s n k) := by
  induction k generalizing s n with
  | zero => exact h
  | succ k ih =>
    unfold loseDeps
    repeat' first
      | with_reducible exact h
      | with_reducible assumption
      | with_reducible apply ih
      | with_reducible apply kept_stopFn
      | with_reducible apply Kept.ite
      | simp only [kept_mk]
      | with_reducible apply Kept.parts
      | with_reducible refine Kept.foldl ?_ (fun _ _ _ => ?_)

theorem kept_flushCells {q : List Instr} {s : State} (h : Kept q s) (n) : Kept q (flushCells s n) := by
  unfold flushCells
  repeat' first
    | with_reducible exact h
    | with_reducible assumption
    | with_reducible apply kept_cnt
    | with_reducible apply kept_clusterNotRunning
    | with_reducible apply Kept.ite
    | simp only [kept_mk]
    | with_reducible apply Kept.parts
    | with_reducible refine Kept.foldl ?_ (fun _ _ _ => ?_)

theorem kept_flushBehind {q : List Instr} {s : State} (h : Kept q s) (e) : Kept q (flushBehind s e) := by
  unfold flushBehind
  repeat' first
    | with_reducible exact h
    | with_reducible assumption
    | with_reducible apply kept_flushOne
    | with_reducible apply Kept.ite
    | simp only [kept_mk]
    | with_reducible apply Kept.parts
    | with_reducible refine Kept.foldl ?_ (fun _ _ _ => ?_)

theorem kept_flushFn {q : List Instr} {s : State} (h : Kept q s) (n) : Kept q (flushFn s n) := by
  unfold flushFn
  repeat' first
    | with_reducible exact h
    | with_reducible assumption
    | with_reducible apply kept_flushUnit
    | with_reducible apply kept_flushInbox
    | with_reducible apply kept_flushBehind
    | with_reducible apply kept_resetCtxs
    | with_reducible apply kept_flushCells
    | with_reducible apply Kept.ite
    | simp only [kept_mk]
    | with_reducible apply Kept.parts
    | with_reducible refine Kept.foldl ?_ (fun _ _ _ => ?_)
    | split

theorem kept_fnOff {q : List Instr} {s : State} (h : Kept q s) (n flush) : Kept q (fnOff s n flush) := by
  unfold fnOff
  repeat' first
    | with_reducible exact h
    | with_reducible assumption
    | with_reducible apply kept_portOff
    | with_reducible apply kept_cellsClear
    | with_reducible apply kept_swarmStopped
    | with_reducible apply Kept.ite
    | simp only [kept_mk]
    | with_reducible apply Kept.parts
    | with_reducible refine Kept.foldl ?_ (fun _ _ _ => ?_)
    | split

theorem kept_reachStopped {q : List Instr} {s : State} (h : Kept q s) (n forced) : Kept q (reachStopped s n forced) := by
  unfold reachStopped
  repeat' first
    | with_reducible exact h
    | with_reducible assumption
    | with_reducible apply kept_fnRelease
    | with_reducible apply kept_fnOff
    | with_reducible apply kept_cellsOff
    | with_reducible apply kept_setFn
    | with_reducible apply kept_fnRecord
    | with_reducible apply kept_setResult
    | with_reducible apply Kept.ite
    | simp only [kept_mk]
    | with_reducible apply Kept.parts

theorem kept_retireFn {q : List Instr} {s : State} (h : Kept q s) (n fault) : Kept q (retireFn s n fault) := by
  unfold retireFn
  repeat' first
    | with_reducible exact h
    | with_reducible assumption
    | with_reducible apply kept_fnOff
    | with_reducible apply kept_flushFn
    | with_reducible apply kept_fnRelease
    | with_reducible apply kept_setResult
    | with_reducible apply kept_setFn
    | with_reducible apply kept_fnRecord
    | with_reducible apply kept_loseDeps
    | with_reducible apply kept_memberTest
    | with_reducible apply Kept.ite
    | simp only [kept_mk]
    | with_reducible apply Kept.parts

theorem kept_permanentFault {q : List Instr} {s : State} (h : Kept q s) (n) : Kept q (permanentFault s n) := by
  unfold permanentFault
  repeat' first | with_reducible exact h | with_reducible assumption | with_reducible apply kept_retireFn | with_reducible apply Kept.ite

theorem kept_enterRunning {q : List Instr} {s : State} (h : Kept q s) (n) : Kept q (enterRunning s n) := by
  unfold enterRunning
  repeat' first
    | with_reducible exact h
    | with_reducible assumption
    | with_reducible apply kept_cellsAssign
    | with_reducible apply kept_trace
    | with_reducible apply kept_setFn
    | with_reducible apply kept_setResult
    | with_reducible apply kept_swarmStart
    | with_reducible apply kept_memberTest
    | with_reducible apply Kept.ite
    | simp only [kept_mk]
    | with_reducible apply Kept.parts

theorem kept_loaderNote {q : List Instr} {s : State} (h : Kept q s) (n code detail) : Kept q (loaderNote s n code detail) := by
  unfold loaderNote
  repeat' first | with_reducible exact h | with_reducible assumption | with_reducible apply kept_wrs | with_reducible apply Kept.ite

theorem kept_swarmCheck {q : List Instr} {s : State} (h : Kept q s) (n) : Kept q (swarmCheck s n) := by
  unfold swarmCheck
  repeat' first
    | with_reducible exact h
    | with_reducible assumption
    | with_reducible apply kept_dryFitFails
    | with_reducible apply kept_loaderNote
    | with_reducible apply kept_enterRunning
    | with_reducible apply kept_finishLoad
    | with_reducible apply Kept.ite
    | simp only [kept_mk]
    | with_reducible apply Kept.parts
    | with_reducible refine Kept.foldl ?_ (fun _ _ _ => ?_)
    | split

theorem kept_imageReloaded {q : List Instr} {s : State} (h : Kept q s) (n x2) : Kept q (imageReloaded s n x2) := by
  unfold imageReloaded
  repeat' first
    | with_reducible exact h
    | with_reducible assumption
    | with_reducible apply kept_report
    | with_reducible apply Kept.ite
    | simp only [kept_mk]
    | with_reducible apply Kept.parts
    | with_reducible refine Kept.foldl ?_ (fun _ _ _ => ?_)
    | split

theorem kept_typeCheck {q : List Instr} {s : State} (h : Kept q s) (n hw ecc) : Kept q (typeCheck s n hw ecc) := by
  unfold typeCheck
  repeat' first
    | with_reducible exact h
    | with_reducible assumption
    | with_reducible apply kept_dryFitFails
    | with_reducible apply kept_loaderNote
    | with_reducible apply kept_imageReloaded
    | with_reducible apply kept_enterRunning
    | with_reducible apply kept_swarmCheck
    | with_reducible apply Kept.ite

theorem kept_dryFit {q : List Instr} {s : State} (h : Kept q s) (n hw ecc) : Kept q (dryFit s n hw ecc) := by
  unfold dryFit
  repeat' first
    | with_reducible exact h
    | with_reducible assumption
    | with_reducible apply kept_dryFitFails
    | with_reducible apply kept_typeCheck
    | with_reducible apply Kept.ite
    | simp only [kept_mk]
    | with_reducible apply Kept.parts
    | with_reducible refine Kept.foldl ?_ (fun _ _ _ => ?_)
    | split

end Sys2Proof.Machine
end

