-- ==== Sys2Proof/Laws/KeptCellFaults.lean ====
section
/-!
SUPPORT. Laws/KeptCellFaults.lean: the operations of Machine/CellFaults.lean keep the canonical form of every store and the queue.
-/
namespace Sys2Proof.Machine
open Sys2Proof

theorem kept_cellRecord {q : List Instr} {s : State} (h : Kept q s) (n c l cause outcome detB) : Kept q (cellRecord s n c l cause outcome detB) := by
  unfold cellRecord
  repeat' first | with_reducible exact h | with_reducible assumption | with_reducible apply kept_report

theorem kept_lastFault {q : List Instr} {s : State} (h : Kept q s) (n c cause) : Kept q (lastFault s n c cause) := by
  unfold lastFault
  repeat' first | with_reducible exact h | with_reducible assumption | with_reducible apply kept_wr

theorem kept_testCell {q : List Instr} {s : State} (h : Kept q s) (n c) : Kept q (testCell s n c) := by
  unfold testCell
  repeat' first
    | with_reducible exact h
    | with_reducible assumption
    | with_reducible apply kept_setPhys
    | with_reducible apply Kept.ite
    | simp only [kept_mk]
    | with_reducible apply Kept.parts

theorem kept_remap {q : List Instr} {s : State} (h : Kept q s) (n l c) : Kept q (remap s n l c) := by
  unfold remap
  repeat' first
    | with_reducible exact h
    | with_reducible assumption
    | with_reducible apply kept_cnt
    | with_reducible apply kept_wr
    | with_reducible apply kept_setPhys

theorem kept_loseCell {q : List Instr} {s : State} (h : Kept q s) (d) : Kept q (loseCell s d) := by
  unfold loseCell
  repeat' first
    | with_reducible exact h
    | with_reducible assumption
    | with_reducible apply kept_swarmCellLost
    | with_reducible apply kept_cnt
    | with_reducible apply kept_loadCell
    | with_reducible apply Kept.ite
    | simp only [kept_mk]
    | with_reducible apply Kept.parts

theorem kept_loseRun {q : List Instr} {s : State} (h : Kept q s) (l) : Kept q (loseRun s l) := by
  unfold loseRun
  repeat' first
    | with_reducible exact h
    | with_reducible assumption
    | with_reducible apply kept_endRun
    | with_reducible apply kept_cnt
    | with_reducible apply Kept.ite
    | simp only [kept_mk]
    | with_reducible apply Kept.parts
    | with_reducible refine Kept.foldl ?_ (fun _ _ _ => ?_)
    | split

theorem kept_cellFault {q : List Instr} {s : State} (h : Kept q s) (n c cause detB) : Kept q (cellFault s n c cause detB) := by
  unfold cellFault
  repeat' first
    | with_reducible exact h
    | with_reducible assumption
    | with_reducible apply kept_lastFault
    | with_reducible apply kept_trace
    | with_reducible apply kept_loseCell
    | with_reducible apply kept_cellRecord
    | with_reducible apply kept_testCell
    | with_reducible apply kept_remap
    | with_reducible apply kept_permanentFault
    | with_reducible apply kept_setPhys
    | with_reducible apply Kept.ite
    | simp only [kept_mk]
    | with_reducible apply Kept.parts
    | with_reducible refine Kept.foldl ?_ (fun _ _ _ => ?_)
    | split

theorem kept_cellFaultAt {q : List Instr} {s : State} (h : Kept q s) (d cause detB) : Kept q (cellFaultAt s d cause detB) := by
  unfold cellFaultAt
  repeat' first | with_reducible exact h | with_reducible assumption | with_reducible apply kept_cellFault

theorem kept_execSuddenSwapComplete {q : List Instr} {s : State} (h : Kept q s) (l ecc) : KeptOut q (execSuddenSwapComplete l s ecc) := by
  unfold execSuddenSwapComplete
  repeat' first
    | with_reducible exact h
    | with_reducible assumption
    | with_reducible exact KeptOut.refused
    | with_reducible apply KeptOut.ite
    | with_reducible apply KeptOut.next
    | with_reducible apply kept_imageReloaded
    | with_reducible apply Kept.ite
    | simp only [kept_mk]
    | with_reducible apply Kept.parts
    | with_reducible refine Kept.foldl ?_ (fun _ _ _ => ?_)
    | split

theorem kept_execCellUe {q : List Instr} {s : State} (h : Kept q s) (n c cause detail) : KeptOut q (execCellUe n c cause detail s) := by
  unfold execCellUe
  repeat' first
    | with_reducible exact h
    | with_reducible assumption
    | with_reducible exact KeptOut.refused
    | with_reducible apply KeptOut.ite
    | with_reducible apply KeptOut.next
    | with_reducible apply kept_cellFault
    | with_reducible apply kept_cnt
    | with_reducible apply kept_countException
    | with_reducible apply Kept.ite
    | simp only [kept_mk]
    | with_reducible apply Kept.parts
    | with_reducible refine Kept.foldl ?_ (fun _ _ _ => ?_)
    | split

theorem kept_execCellWatchdog {q : List Instr} {s : State} (h : Kept q s) (l) : KeptOut q (execCellWatchdog l s) := by
  unfold execCellWatchdog
  repeat' first
    | with_reducible exact h
    | with_reducible assumption
    | with_reducible exact KeptOut.refused
    | with_reducible apply KeptOut.ite
    | with_reducible apply KeptOut.next
    | with_reducible apply kept_loseRun
    | with_reducible apply kept_cellFaultAt
    | with_reducible apply Kept.ite
    | simp only [kept_mk]
    | with_reducible apply Kept.parts
    | with_reducible refine Kept.foldl ?_ (fun _ _ _ => ?_)
    | split

theorem kept_execCellCe {q : List Instr} {s : State} (h : Kept q s) (n c) : KeptOut q (execCellCe n c s) := by
  unfold execCellCe
  repeat' first
    | with_reducible exact h
    | with_reducible assumption
    | with_reducible exact KeptOut.refused
    | with_reducible apply KeptOut.ite
    | with_reducible apply KeptOut.next
    | with_reducible apply kept_cnt
    | with_reducible apply Kept.ite
    | simp only [kept_mk]
    | with_reducible apply Kept.parts

theorem kept_migrate {q : List Instr} {s : State} (h : Kept q s) (n c l p cause) : Kept q (migrate s n c l p cause) := by
  unfold migrate
  repeat' first
    | with_reducible exact h
    | with_reducible assumption
    | with_reducible apply kept_lastFault
    | with_reducible apply kept_setPhys
    | with_reducible apply Kept.ite
    | simp only [kept_mk]
    | with_reducible apply Kept.parts

theorem kept_execCellCeLimit {q : List Instr} {s : State} (h : Kept q s) (n c) : KeptOut q (execCellCeLimit n c s) := by
  unfold execCellCeLimit
  repeat' first
    | with_reducible exact h
    | with_reducible assumption
    | with_reducible exact KeptOut.refused
    | with_reducible apply KeptOut.ite
    | with_reducible apply KeptOut.next
    | with_reducible apply kept_cellRecord
    | with_reducible apply kept_migrate
    | with_reducible apply Kept.ite
    | simp only [kept_mk]
    | with_reducible apply Kept.parts
    | with_reducible refine Kept.foldl ?_ (fun _ _ _ => ?_)
    | split

theorem kept_physRetire {q : List Instr} {s : State} (h : Kept q s) (w n c acc) : Kept q (physRetire s w n c acc) := by
  unfold physRetire
  repeat' first
    | with_reducible exact h
    | with_reducible assumption
    | with_reducible apply kept_cellRecord
    | with_reducible apply kept_migrate
    | with_reducible apply kept_regError
    | with_reducible apply Kept.ite
    | simp only
    | with_reducible apply Kept.parts
    | with_reducible refine Kept.foldl ?_ (fun _ _ _ => ?_)
    | split

theorem kept_execPhysCellRetire {q : List Instr} {s : State} (h : Kept q s) (w n c) : KeptOut q (execPhysCellRetire w n c s) := by
  unfold execPhysCellRetire
  repeat' first
    | with_reducible exact h
    | with_reducible assumption
    | with_reducible exact KeptOut.refused
    | with_reducible apply KeptOut.ite
    | with_reducible apply KeptOut.next
    | with_reducible apply kept_physRetire

theorem kept_execMigrationComplete {q : List Instr} {s : State} (h : Kept q s) (l) : KeptOut q (execMigrationComplete l s) := by
  unfold execMigrationComplete
  repeat' first
    | with_reducible exact h
    | with_reducible assumption
    | with_reducible exact KeptOut.refused
    | with_reducible apply KeptOut.ite
    | with_reducible apply KeptOut.next
    | with_reducible apply kept_remap
    | with_reducible apply kept_setPhys
    | with_reducible apply kept_trace
    | with_reducible apply kept_setRand
    | with_reducible apply kept_cellRecord
    | with_reducible apply Kept.ite
    | simp only [kept_mk]
    | with_reducible apply Kept.parts
    | with_reducible refine Kept.foldl ?_ (fun _ _ _ => ?_)
    | split

theorem kept_physReinstate {q : List Instr} {s : State} (h : Kept q s) (w n c acc) : Kept q (physReinstate s w n c acc) := by
  unfold physReinstate
  repeat' first
    | with_reducible exact h
    | with_reducible assumption
    | with_reducible apply kept_cellRecord
    | with_reducible apply kept_testCell
    | with_reducible apply kept_regError
    | with_reducible apply Kept.ite
    | simp only [kept_mk]
    | with_reducible apply Kept.parts

theorem kept_execPhysCellReinstate {q : List Instr} {s : State} (h : Kept q s) (w n c) : KeptOut q (execPhysCellReinstate w n c s) := by
  unfold execPhysCellReinstate
  repeat' first
    | with_reducible exact h
    | with_reducible assumption
    | with_reducible exact KeptOut.refused
    | with_reducible apply KeptOut.ite
    | with_reducible apply KeptOut.next
    | with_reducible apply kept_physReinstate

theorem kept_testFailed {q : List Instr} {s : State} (h : Kept q s) (n c) : Kept q (testFailed s n c) := by
  unfold testFailed
  repeat' first
    | with_reducible exact h
    | with_reducible assumption
    | with_reducible apply kept_cellRecord
    | with_reducible apply kept_lastFault
    | with_reducible apply kept_setPhys

theorem kept_execCellTestDone {q : List Instr} {s : State} (h : Kept q s) (n c pass) : KeptOut q (execCellTestDone n c pass s) := by
  unfold execCellTestDone
  repeat' first
    | with_reducible exact h
    | with_reducible assumption
    | with_reducible exact KeptOut.refused
    | with_reducible apply KeptOut.ite
    | with_reducible apply KeptOut.next
    | with_reducible apply kept_setPhys
    | with_reducible apply kept_cellRecord
    | with_reducible apply kept_testFailed
    | with_reducible apply Kept.ite
    | simp only [kept_mk]
    | with_reducible apply Kept.parts

theorem kept_execSparePeriodicTest {q : List Instr} {s : State} (h : Kept q s) (n c pass) : KeptOut q (execSparePeriodicTest n c pass s) := by
  unfold execSparePeriodicTest
  repeat' first
    | with_reducible exact h
    | with_reducible assumption
    | with_reducible exact KeptOut.refused
    | with_reducible apply KeptOut.ite
    | with_reducible apply KeptOut.next
    | with_reducible apply kept_testFailed
    | with_reducible apply Kept.ite
    | simp only [kept_mk]
    | with_reducible apply Kept.parts

end Sys2Proof.Machine
end

