-- ==== Sys2Proof/Laws/KeptOwnership.lean ====
section
/-!
SUPPORT. Laws/KeptOwnership.lean: the operations of Machine/Ownership.lean keep the canonical form of every store and the queue.
-/
namespace Sys2Proof.Machine
open Sys2Proof

theorem kept_ownWrite {q : List Instr} {s : State} (h : Kept q s) (k r) : Kept q (ownWrite s k r) := by
  unfold ownWrite
  repeat' first
    | with_reducible exact h
    | with_reducible assumption
    | with_reducible apply kept_hbmWr
    | with_reducible apply Kept.ite
    | simp only [kept_mk]
    | with_reducible apply Kept.parts

theorem kept_ownAnswer {q : List Instr} {s : State} (h : Kept q s) (l x2 cc detail res res2) : Kept q (ownAnswer s l x2 cc detail res res2) := by
  unfold ownAnswer
  repeat' first
    | with_reducible exact h
    | with_reducible assumption
    | with_reducible apply kept_cnt
    | with_reducible apply kept_cellAnswer
    | with_reducible apply kept_ledWrite
    | with_reducible apply Kept.ite

theorem kept_ownQuery {q : List Instr} {s : State} (h : Kept q s) (l x2) : Kept q (ownQuery s l x2) := by
  unfold ownQuery
  repeat' first | with_reducible exact h | with_reducible assumption | with_reducible apply kept_ownAnswer

theorem kept_ownAcquire {q : List Instr} {s : State} (h : Kept q s) (l x2) : Kept q (ownAcquire s l x2) := by
  unfold ownAcquire
  repeat' first
    | with_reducible exact h
    | with_reducible assumption
    | with_reducible apply kept_ownAnswer
    | with_reducible apply kept_ownWrite
    | with_reducible apply kept_cnt
    | with_reducible apply Kept.ite
    | simp only
    | with_reducible apply Kept.parts
    | with_reducible refine Kept.foldl ?_ (fun _ _ _ => ?_)
    | split

theorem kept_ownRelease {q : List Instr} {s : State} (h : Kept q s) (l x2) : Kept q (ownRelease s l x2) := by
  unfold ownRelease
  repeat' first
    | with_reducible exact h
    | with_reducible assumption
    | with_reducible apply kept_ownAnswer
    | with_reducible apply kept_ownWrite
    | with_reducible apply Kept.ite
    | simp only [kept_mk]
    | with_reducible apply Kept.parts
    | with_reducible refine Kept.foldl ?_ (fun _ _ _ => ?_)
    | split

theorem kept_ownPublish {q : List Instr} {s : State} (h : Kept q s) (l x2) : Kept q (ownPublish s l x2) := by
  unfold ownPublish
  repeat' first
    | with_reducible exact h
    | with_reducible assumption
    | with_reducible apply kept_ownAnswer
    | with_reducible apply kept_ownWrite
    | with_reducible apply Kept.ite
    | simp only [kept_mk]
    | with_reducible apply Kept.parts
    | with_reducible refine Kept.foldl ?_ (fun _ _ _ => ?_)
    | split

theorem kept_ownDo {q : List Instr} {s : State} (h : Kept q s) (l x2) : Kept q (ownDo s l x2) := by
  unfold ownDo
  repeat' first
    | with_reducible exact h
    | with_reducible assumption
    | with_reducible apply kept_ownAnswer
    | with_reducible apply kept_ownQuery
    | with_reducible apply kept_ownAcquire
    | with_reducible apply kept_ownRelease
    | with_reducible apply kept_ownPublish
    | with_reducible apply Kept.ite
    | simp only [kept_mk]
    | with_reducible apply Kept.parts
    | with_reducible refine Kept.foldl ?_ (fun _ _ _ => ?_)
    | split

theorem kept_placeOwn {q : List Instr} {s : State} (h : Kept q s) (l x) : KeptOpt q (placeOwn s l x) :=
  KeptOpt.ite (KeptOpt.some (kept_ownDo h _ _)) (KeptOpt.map (fun _ k => kept_ownDo k _ _) (kept_ledReserve h _ _))

end Sys2Proof.Machine
end

