-- ==== Sys2Proof/Laws/KeptCombine.lean ====
section
/-!
SUPPORT. Laws/KeptCombine.lean: the operations of Machine/Combine.lean keep the canonical form of every store and the queue.
-/
namespace Sys2Proof.Machine
open Sys2Proof

theorem kept_pushOnward {q : List Instr} {s : State} (h : Kept q s) (l d) : Kept q (pushOnward s l d) := by
  unfold pushOnward
  repeat' first
    | with_reducible exact h
    | with_reducible assumption
    | with_reducible apply kept_setComb
    | with_reducible apply kept_pushReply
    | with_reducible apply Kept.ite

theorem kept_openDove {q : List Instr} {s : State} (h : Kept q s) (l cls x3 rows) : Kept q (openDove s l cls x3 rows) := by
  unfold openDove
  repeat' first
    | with_reducible exact h
    | with_reducible assumption
    | with_reducible apply kept_pushOnward
    | with_reducible apply kept_cnt
    | with_reducible apply kept_setComb

theorem kept_placeHomed {q : List Instr} {s : State} (h : Kept q s) (l x) : KeptOpt q (placeHomed s l x) := by
  unfold placeHomed
  dsimp only
  split
  · exact KeptOpt.ite (KeptOpt.some (kept_cnt (kept_setDove h _ _) _ _))
      (KeptOpt.map (fun _ k => kept_cnt (kept_setDove k _ _) _ _) (kept_ledReserve h _ _))
  · exact KeptOpt.ite KeptOpt.none (KeptOpt.ite (KeptOpt.map (fun _ k => kept_openDove k _ _ _ _) (kept_ledReserve h _ _))
      (KeptOpt.some (kept_openDove h _ _ _ _)))

theorem kept_askRow {q : List Instr} {s : State} (h : Kept q s) (l id row) : Kept q (askRow l id s row) := by
  unfold askRow
  repeat' first
    | with_reducible exact h
    | with_reducible assumption
    | with_reducible apply kept_setDove
    | with_reducible apply kept_cnt
    | with_reducible apply kept_setComb
    | with_reducible apply kept_openDove
    | with_reducible apply Kept.ite
    | simp only
    | with_reducible apply Kept.parts
    | with_reducible refine Kept.foldl ?_ (fun _ _ _ => ?_)
    | split

theorem kept_askRows {q : List Instr} {s : State} (h : Kept q s) (l) : Kept q (askRows s l) := by
  unfold askRows
  repeat' first
    | with_reducible exact h
    | with_reducible assumption
    | with_reducible apply kept_askRow
    | with_reducible apply Kept.ite
    | simp only [kept_mk]
    | with_reducible apply Kept.parts
    | with_reducible refine Kept.foldl ?_ (fun _ _ _ => ?_)

theorem kept_placeGather {q : List Instr} {s : State} (h : Kept q s) (l p) : KeptOpt q (placeGather s l p) := by
  unfold placeGather
  repeat' first
    | with_reducible exact h
    | with_reducible assumption
    | with_reducible exact KeptOpt.none
    | with_reducible apply KeptOpt.ite
    | with_reducible apply KeptOpt.some
    | with_reducible apply kept_askRows
    | with_reducible apply kept_setComb

theorem kept_gatherDone {q : List Instr} {s : State} (h : Kept q s) (l g) : Kept q (gatherDone s l g) := by
  unfold gatherDone
  repeat' first
    | with_reducible exact h
    | with_reducible assumption
    | with_reducible apply kept_cnt
    | with_reducible apply kept_setComb
    | with_reducible apply kept_cellAnswer
    | with_reducible apply Kept.ite
    | simp only
    | with_reducible apply Kept.parts
    | with_reducible refine Kept.foldl ?_ (fun _ _ _ => ?_)
    | split

theorem kept_rowFor {q : List Instr} {s : State} (h : Kept q s) (l row cc detail data id) : Kept q (rowFor l row cc detail data s id) := by
  unfold rowFor
  repeat' first
    | with_reducible exact h
    | with_reducible assumption
    | with_reducible apply kept_gatherDone
    | with_reducible apply kept_setComb
    | with_reducible apply Kept.ite
    | simp only
    | with_reducible apply Kept.parts
    | with_reducible refine Kept.foldl ?_ (fun _ _ _ => ?_)
    | split

theorem kept_place {q : List Instr} {s : State} (h : Kept q s) (l p) : KeptOpt q (place s l p) := by
  unfold place
  repeat' first
    | with_reducible exact h
    | with_reducible assumption
    | with_reducible exact KeptOpt.none
    | with_reducible apply KeptOpt.ite
    | with_reducible apply KeptOpt.some
    | with_reducible apply kept_placeGather
    | with_reducible apply kept_placeOwn
    | with_reducible apply kept_placeHomed

theorem kept_ledFull {q : List Instr} {s : State} (h : Kept q s) (l x2) : Kept q (ledFull s l x2) := by
  unfold ledFull
  repeat' first
    | with_reducible exact h
    | with_reducible assumption
    | with_reducible apply kept_ledReserve
    | with_reducible apply kept_cnt
    | with_reducible apply Kept.ite
    | simp only [kept_mk]
    | with_reducible apply Kept.parts

theorem kept_placeOrPark {q : List Instr} {s : State} (h : Kept q s) (l p) : Kept q (placeOrPark s l p) := by
  unfold placeOrPark
  repeat' first
    | with_reducible exact h
    | with_reducible assumption
    | with_reducible apply kept_place
    | with_reducible apply kept_cnt
    | with_reducible apply kept_ledFull
    | with_reducible apply kept_setComb
    | with_reducible apply Kept.ite
    | simp only
    | with_reducible apply Kept.parts
    | with_reducible refine Kept.foldl ?_ (fun _ _ _ => ?_)
    | split
    | with_reducible apply Kept.getD
    | with_reducible apply Kept.snd
    | with_reducible apply Kept.fst
    | refine Kept.sndOf (by assumption) ?_
    | refine Kept.fstOf (by assumption) ?_
    | refine Kept.optOf (by assumption) ?_

theorem kept_unpark {q : List Instr} {s : State} (h : Kept q s) (l) : Kept q (unpark s l) := by
  unfold unpark
  repeat' first
    | with_reducible exact h
    | with_reducible assumption
    | with_reducible apply kept_place
    | with_reducible apply kept_setComb
    | with_reducible apply Kept.ite
    | simp only
    | with_reducible apply Kept.parts
    | with_reducible refine Kept.foldl ?_ (fun _ _ _ => ?_)
    | split
    | with_reducible apply Kept.getD
    | with_reducible apply Kept.snd
    | with_reducible apply Kept.fst
    | refine Kept.sndOf (by assumption) ?_
    | refine Kept.fstOf (by assumption) ?_
    | refine Kept.optOf (by assumption) ?_

theorem kept_reuse {q : List Instr} {s : State} (h : Kept q s) (l) : Kept q (reuse s l) := by
  unfold reuse
  repeat' first | with_reducible exact h | with_reducible assumption | with_reducible apply kept_askRows | with_reducible apply kept_unpark

theorem kept_retryLedger {q : List Instr} {s : State} {l : Nat} {x : Hdr} {again : State → State} {hit : State → Ledger → State}
    (ha : ∀ t, Kept q t → Kept q (again t)) (hh : ∀ t e, Kept q t → Kept q (hit t e)) (h : Kept q s) : Kept q (retryLedger s l x again hit) := by
  unfold retryLedger
  split
  · exact Kept.ite (ha _ (kept_reuse (kept_freeLedger h _) _)) (hh _ _ (kept_cnt h _ _))
  · exact kept_cellAnswer (kept_cnt h _ _) _ _ _ _ _ _ _ _

theorem kept_homedReq {q : List Instr} {s : State} (h : Kept q s) (l x2) : Kept q (homedReq s l x2) := by
  unfold homedReq
  repeat' first
    | with_reducible exact h
    | with_reducible assumption
    | with_reducible apply kept_cellAnswer
    | with_reducible apply kept_retryLedger
    | with_reducible apply kept_placeOrPark
    | with_reducible apply kept_flushReplies
    | with_reducible apply Kept.ite
    | simp only [kept_mk]
    | with_reducible apply Kept.parts
    | with_reducible refine Kept.foldl ?_ (fun _ _ _ => ?_)
    | split
    | with_reducible apply Kept.getD
    | with_reducible apply Kept.snd
    | with_reducible apply Kept.fst
    | refine Kept.sndOf (by assumption) ?_
    | refine Kept.fstOf (by assumption) ?_
    | refine Kept.optOf (by assumption) ?_
    | intro _

theorem kept_execHomedReq {q : List Instr} {s : State} (h : Kept q s) (p ecc) : KeptOut q (execHomedReq p s ecc) := by
  unfold execHomedReq
  repeat' first
    | with_reducible exact h
    | with_reducible assumption
    | with_reducible exact KeptOut.refused
    | with_reducible apply KeptOut.ite
    | with_reducible apply KeptOut.next
    | with_reducible apply kept_cellEvent
    | with_reducible apply kept_homedReq
    | with_reducible apply kept_repaired
    | with_reducible apply Kept.ite
    | simp only [kept_mk]
    | with_reducible apply Kept.parts
    | with_reducible refine Kept.foldl ?_ (fun _ _ _ => ?_)
    | split
    | with_reducible apply Kept.getD
    | with_reducible apply Kept.snd
    | with_reducible apply Kept.fst
    | refine Kept.sndOf (by assumption) ?_
    | refine Kept.fstOf (by assumption) ?_
    | refine Kept.optOf (by assumption) ?_
    | intro _

theorem kept_gatherReq {q : List Instr} {s : State} (h : Kept q s) (l p) : Kept q (gatherReq s l p) := by
  unfold gatherReq
  repeat' first
    | with_reducible exact h
    | with_reducible assumption
    | with_reducible apply kept_cellAnswer
    | with_reducible apply kept_cnt
    | with_reducible apply kept_placeOrPark
    | with_reducible apply kept_flushReplies
    | with_reducible apply Kept.ite

theorem kept_execGather {q : List Instr} {s : State} (h : Kept q s) (p) : KeptOut q (execGather p s) := by
  unfold execGather
  repeat' first
    | with_reducible exact h
    | with_reducible assumption
    | with_reducible exact KeptOut.refused
    | with_reducible apply KeptOut.ite
    | with_reducible apply KeptOut.next
    | with_reducible apply kept_cellEvent
    | with_reducible apply kept_gatherReq
    | with_reducible apply Kept.ite
    | simp only [kept_mk]
    | with_reducible apply Kept.parts
    | with_reducible refine Kept.foldl ?_ (fun _ _ _ => ?_)
    | split
    | with_reducible apply Kept.getD
    | with_reducible apply Kept.snd
    | with_reducible apply Kept.fst
    | refine Kept.sndOf (by assumption) ?_
    | refine Kept.fstOf (by assumption) ?_
    | refine Kept.optOf (by assumption) ?_
    | intro _

theorem kept_answerBatch {q : List Instr} {s : State} (h : Kept q s) (l cc detail res2 payload len) (b : List (Hdr × Nat)) :
    Kept q (answerBatch s l cc detail res2 payload len b) := by
  induction b generalizing s with
  | nil => exact h
  | cons e b ih => exact ih (kept_cellAnswer (Kept.ite (kept_ledWrite h _ _ _ _) h) _ _ _ _ _ _ _ _)

theorem kept_unapplied {q : List Instr} {s : State} (h : Kept q s) (l hs) : Kept q (unapplied s l hs) := by
  unfold unapplied
  repeat' first
    | with_reducible exact h
    | with_reducible assumption
    | with_reducible apply kept_ledWrite
    | with_reducible apply Kept.ite
    | simp only [kept_mk]
    | with_reducible apply Kept.parts
    | with_reducible refine Kept.foldl ?_ (fun _ _ _ => ?_)

theorem kept_nextBatch {q : List Instr} {s : State} (h : Kept q s) (l d) : Kept q (nextBatch s l d) := by
  unfold nextBatch
  repeat' first
    | with_reducible exact h
    | with_reducible assumption
    | with_reducible apply kept_freeDove
    | with_reducible apply kept_setComb
    | with_reducible apply kept_pushOnward
    | with_reducible apply kept_cnt
    | with_reducible apply Kept.ite

theorem kept_doveAnswered {q : List Instr} {s : State} (h : Kept q s) (l d p) : Kept q (doveAnswered s l d p) := by
  unfold doveAnswered
  repeat' first
    | with_reducible exact h
    | with_reducible assumption
    | with_reducible apply kept_rowFor
    | with_reducible apply kept_freeDove
    | with_reducible apply kept_answerBatch
    | with_reducible apply kept_nextBatch
    | with_reducible apply Kept.ite
    | simp only [kept_mk]
    | with_reducible apply Kept.parts
    | with_reducible refine Kept.foldl ?_ (fun _ _ _ => ?_)

theorem kept_doveFailed {q : List Instr} {s : State} (h : Kept q s) (l d) : Kept q (doveFailed s l d) := by
  unfold doveFailed
  repeat' first
    | with_reducible exact h
    | with_reducible assumption
    | with_reducible apply kept_cnt
    | with_reducible apply kept_freeDove
    | with_reducible apply kept_setComb
    | with_reducible apply kept_answerBatch
    | with_reducible apply kept_unapplied
    | with_reducible apply Kept.ite

theorem kept_attemptEnded {q : List Instr} {s : State} (h : Kept q s) (l d) : Kept q (attemptEnded s l d) := by
  unfold attemptEnded
  repeat' first
    | with_reducible exact h
    | with_reducible assumption
    | with_reducible apply kept_pushOnward
    | with_reducible apply kept_setDove
    | with_reducible apply kept_doveFailed
    | with_reducible apply Kept.ite

theorem kept_cellResponse {q : List Instr} {s : State} (h : Kept q s) (l p) : Kept q (cellResponse s l p) := by
  unfold cellResponse
  repeat' first
    | with_reducible exact h
    | with_reducible assumption
    | with_reducible apply kept_flushReplies
    | with_reducible apply kept_cnt
    | with_reducible apply kept_reuse
    | with_reducible apply kept_attemptEnded
    | with_reducible apply kept_doveAnswered
    | with_reducible apply Kept.ite
    | simp only [kept_mk]
    | with_reducible apply Kept.parts
    | with_reducible refine Kept.foldl ?_ (fun _ _ _ => ?_)
    | split

theorem kept_execResponse {q : List Instr} {s : State} (h : Kept q s) (p) : KeptOut q (execResponse p s) := by
  unfold execResponse
  repeat' first
    | with_reducible exact h
    | with_reducible assumption
    | with_reducible exact KeptOut.refused
    | with_reducible apply KeptOut.ite
    | with_reducible apply KeptOut.next
    | with_reducible apply kept_received
    | with_reducible apply kept_cnt
    | with_reducible apply kept_cellEvent
    | with_reducible apply kept_cellResponse
    | intro _
    | with_reducible apply Kept.ite

theorem kept_execOnwardAttemptTimeout {q : List Instr} {s : State} (h : Kept q s) (l tag) : KeptOut q (execOnwardAttemptTimeout l tag s) := by
  unfold execOnwardAttemptTimeout
  repeat' first
    | with_reducible exact h
    | with_reducible assumption
    | with_reducible exact KeptOut.refused
    | with_reducible apply KeptOut.ite
    | with_reducible apply KeptOut.next
    | with_reducible apply kept_flushReplies
    | with_reducible apply kept_reuse
    | with_reducible apply kept_attemptEnded
    | with_reducible apply Kept.ite
    | simp only [kept_mk]
    | with_reducible apply Kept.parts
    | with_reducible refine Kept.foldl ?_ (fun _ _ _ => ?_)
    | split

theorem kept_execLedgerEntryExpire {q : List Instr} {s : State} (h : Kept q s) (l way) : KeptOut q (execLedgerEntryExpire l way s) := by
  unfold execLedgerEntryExpire
  repeat' first
    | with_reducible exact h
    | with_reducible assumption
    | with_reducible exact KeptOut.refused
    | with_reducible apply KeptOut.ite
    | with_reducible apply KeptOut.next
    | with_reducible apply kept_flushReplies
    | with_reducible apply kept_reuse
    | with_reducible apply kept_freeLedger
    | with_reducible apply Kept.ite
    | simp only [kept_mk]
    | with_reducible apply Kept.parts
    | with_reducible refine Kept.foldl ?_ (fun _ _ _ => ?_)
    | split

theorem kept_ownServe {q : List Instr} {s : State} (h : Kept q s) (l x2) : Kept q (ownServe s l x2) := by
  unfold ownServe
  repeat' first
    | with_reducible exact h
    | with_reducible assumption
    | with_reducible apply kept_cellAnswer
    | with_reducible apply kept_cnt
    | with_reducible apply kept_retryLedger
    | with_reducible apply kept_placeOrPark
    | with_reducible apply kept_flushReplies
    | with_reducible apply Kept.ite
    | simp only [kept_mk]
    | with_reducible apply Kept.parts
    | with_reducible refine Kept.foldl ?_ (fun _ _ _ => ?_)
    | split
    | with_reducible apply Kept.getD
    | with_reducible apply Kept.snd
    | with_reducible apply Kept.fst
    | refine Kept.sndOf (by assumption) ?_
    | refine Kept.fstOf (by assumption) ?_
    | refine Kept.optOf (by assumption) ?_
    | intro _

theorem kept_ownEvent {q : List Instr} {s : State} (h : Kept q s) (p ecc oop) : Kept q (ownEvent s p ecc oop) := by
  unfold ownEvent
  repeat' first
    | with_reducible exact h
    | with_reducible assumption
    | with_reducible apply kept_targetArrive
    | with_reducible apply kept_cellEvent
    | with_reducible apply kept_ownServe
    | with_reducible apply kept_repaired
    | with_reducible apply Kept.ite
    | simp only [kept_mk]
    | with_reducible apply Kept.parts
    | with_reducible refine Kept.foldl ?_ (fun _ _ _ => ?_)
    | split
    | with_reducible apply Kept.getD
    | with_reducible apply Kept.snd
    | with_reducible apply Kept.fst
    | refine Kept.sndOf (by assumption) ?_
    | refine Kept.fstOf (by assumption) ?_
    | refine Kept.optOf (by assumption) ?_
    | intro _

theorem kept_execOwnQuery {q : List Instr} {s : State} (h : Kept q s) (p ecc) : KeptOut q (execOwnQuery p s ecc) := by
  unfold execOwnQuery
  repeat' first
    | with_reducible exact h
    | with_reducible assumption
    | with_reducible exact KeptOut.refused
    | with_reducible apply KeptOut.ite
    | with_reducible apply KeptOut.next
    | with_reducible apply kept_ownEvent

theorem kept_execOwnAcquire {q : List Instr} {s : State} (h : Kept q s) (p ecc) : KeptOut q (execOwnAcquire p s ecc) := by
  unfold execOwnAcquire
  repeat' first
    | with_reducible exact h
    | with_reducible assumption
    | with_reducible exact KeptOut.refused
    | with_reducible apply KeptOut.ite
    | with_reducible apply KeptOut.next
    | with_reducible apply kept_ownEvent

theorem kept_execOwnRelease {q : List Instr} {s : State} (h : Kept q s) (p ecc) : KeptOut q (execOwnRelease p s ecc) := by
  unfold execOwnRelease
  repeat' first
    | with_reducible exact h
    | with_reducible assumption
    | with_reducible exact KeptOut.refused
    | with_reducible apply KeptOut.ite
    | with_reducible apply KeptOut.next
    | with_reducible apply kept_ownEvent

theorem kept_execOwnPublish {q : List Instr} {s : State} (h : Kept q s) (p ecc) : KeptOut q (execOwnPublish p s ecc) := by
  unfold execOwnPublish
  repeat' first
    | with_reducible exact h
    | with_reducible assumption
    | with_reducible exact KeptOut.refused
    | with_reducible apply KeptOut.ite
    | with_reducible apply KeptOut.next
    | with_reducible apply kept_ownEvent

end Sys2Proof.Machine
end

