-- ==== Sys2Proof/Laws/KeptCopies.lean ====
section
/-!
SUPPORT. Laws/KeptCopies.lean: the operations of Machine/Copies.lean keep the canonical form of every store and the queue.
-/
namespace Sys2Proof.Machine
open Sys2Proof

theorem kept_ffWrite {q : List Instr} {s : State} (h : Kept q s) (c v) : Kept q (ffWrite s c v) := by
  unfold ffWrite
  repeat' first
    | with_reducible exact h
    | with_reducible assumption
    | with_reducible apply kept_wr
    | with_reducible apply kept_hbmWr
    | with_reducible apply kept_bump
    | with_reducible apply Kept.ite

theorem kept_ffFlows {q : List Instr} {s : State} (h : Kept q s) : Kept q (ffFlows s) := by
  unfold ffFlows
  repeat' first | with_reducible exact h | with_reducible assumption | with_reducible apply kept_wr

theorem kept_ffVerdict {q : List Instr} {s : State} (h : Kept q s) (c v) : Kept q (ffVerdict s c v) := by
  unfold ffVerdict
  repeat' first
    | with_reducible exact h
    | with_reducible assumption
    | with_reducible apply kept_ffWrite
    | with_reducible apply kept_cnt
    | with_reducible apply kept_ffFlows
    | with_reducible apply Kept.ite
    | simp only [kept_mk]
    | with_reducible apply Kept.parts

theorem kept_copyEvent {q : List Instr} {s : State} (h : Kept q s) (c) : Kept q (copyEvent s c) := by
  unfold copyEvent
  repeat' first
    | with_reducible exact h
    | with_reducible assumption
    | with_reducible apply kept_stockHandler
    | with_reducible apply kept_ffVerdict
    | with_reducible apply kept_localWr
    | with_reducible apply kept_startHandler
    | with_reducible apply kept_setRun
    | with_reducible apply kept_cnt
    | with_reducible apply Kept.ite
    | simp only
    | with_reducible apply Kept.parts
    | with_reducible refine Kept.foldl ?_ (fun _ _ _ => ?_)
    | split
    | with_reducible apply Kept.getD
    | with_reducible apply Kept.snd
    | with_reducible apply Kept.fst
    | refine Kept.sndOf (by assumption) ?_
    | refine Kept.fstOf (by assumption) ?_
    | refine Kept.optOf (by assumption) ?_
    | intro _

theorem kept_dropCopy {q : List Instr} {s : State} (h : Kept q s) (n) : Kept q (dropCopy s n) := by
  unfold dropCopy
  repeat' first
    | with_reducible exact h
    | with_reducible assumption
    | with_reducible apply Kept.ite
    | simp only [kept_mk]
    | with_reducible apply Kept.parts

theorem kept_deliverCopy {q : List Instr} {s : State} (h : Kept q s) (n c) : Kept q (deliverCopy s n c) := by
  unfold deliverCopy
  repeat' first
    | with_reducible exact h
    | with_reducible assumption
    | with_reducible apply Kept.ite
    | simp only [kept_mk]
    | with_reducible apply Kept.parts

theorem kept_startCopy {q : List Instr} {s : State} (h : Kept q s) (n c) : Kept q (startCopy s n c) := by
  unfold startCopy
  repeat' first
    | with_reducible exact h
    | with_reducible assumption
    | with_reducible apply kept_copyEvent
    | with_reducible apply kept_dropCopy
    | with_reducible apply Kept.ite

theorem kept_execHeaderCopy {q : List Instr} {s : State} (h : Kept q s) (n) : KeptOut q (execHeaderCopy n s) := by
  unfold execHeaderCopy
  repeat' first
    | with_reducible exact h
    | with_reducible assumption
    | with_reducible exact KeptOut.refused
    | with_reducible apply KeptOut.ite
    | with_reducible apply KeptOut.next
    | with_reducible apply kept_startCopy
    | with_reducible apply kept_cnt
    | with_reducible apply kept_dropCopy
    | with_reducible apply kept_deliverCopy
    | with_reducible apply Kept.ite
    | simp only
    | with_reducible apply Kept.parts
    | with_reducible refine Kept.foldl ?_ (fun _ _ _ => ?_)
    | split

end Sys2Proof.Machine
end

