-- ==== Sys2Proof/Laws/KeptTelemetry.lean ====
section
/-!
SUPPORT. Laws/KeptTelemetry.lean: the operations of Machine/Telemetry.lean keep the canonical form of every store and the queue.
-/
namespace Sys2Proof.Machine
open Sys2Proof

theorem kept_execTelCntSample {q : List Instr} {s : State} (h : Kept q s) : KeptOut q (execTelCntSample s) := by
  unfold execTelCntSample
  repeat' first
    | with_reducible exact h
    | with_reducible assumption
    | with_reducible exact KeptOut.refused
    | with_reducible apply KeptOut.ite
    | with_reducible apply KeptOut.next
    | with_reducible apply kept_wrs
    | with_reducible apply Kept.ite

theorem kept_writeMap {q : List Instr} {s : State} (h : Kept q s) (k seq) : Kept q (writeMap s k seq) := by
  unfold writeMap
  repeat' first | with_reducible exact h | with_reducible assumption | with_reducible apply kept_hbmWr

theorem kept_alarm {q : List Instr} {s : State} (h : Kept q s) : Kept q (alarm s) := by
  unfold alarm
  repeat' first | with_reducible exact h | with_reducible assumption | with_reducible apply kept_wrb | with_reducible apply Kept.ite

theorem kept_execTelemetryMap {q : List Instr} {s : State} (h : Kept q s) : KeptOut q (execTelemetryMap s) := by
  unfold execTelemetryMap
  repeat' first
    | with_reducible exact h
    | with_reducible assumption
    | with_reducible exact KeptOut.refused
    | with_reducible apply KeptOut.ite
    | with_reducible apply KeptOut.next
    | with_reducible apply kept_alarm
    | with_reducible apply kept_bump
    | with_reducible apply kept_writeMap
    | with_reducible apply kept_taskRun
    | with_reducible apply kept_wrs
    | with_reducible apply Kept.ite
    | simp only [kept_mk]
    | with_reducible apply Kept.parts

theorem kept_mapServe {q : List Instr} {s : State} (h : Kept q s) (x1) : Kept q (mapServe s x1) := by
  unfold mapServe
  repeat' first
    | with_reducible exact h
    | with_reducible assumption
    | with_reducible apply kept_answer
    | with_reducible apply kept_answerData
    | with_reducible apply Kept.ite

theorem kept_execMapRead {q : List Instr} {s : State} (h : Kept q s) (p) : KeptOut q (execMapRead p s) := by
  unfold execMapRead
  repeat' first
    | with_reducible exact h
    | with_reducible assumption
    | with_reducible exact KeptOut.refused
    | with_reducible apply KeptOut.ite
    | with_reducible apply KeptOut.next
    | with_reducible apply kept_received
    | with_reducible apply kept_mapServe
    | intro _
    | with_reducible apply Kept.ite
    | simp only [kept_mk]
    | with_reducible apply Kept.parts
    | with_reducible refine Kept.foldl ?_ (fun _ _ _ => ?_)
    | split

theorem kept_execMirrorEntryExpire {q : List Instr} {s : State} (h : Kept q s) (key) : KeptOut q (execMirrorEntryExpire key s) := by
  unfold execMirrorEntryExpire
  repeat' first
    | with_reducible exact h
    | with_reducible assumption
    | with_reducible exact KeptOut.refused
    | with_reducible apply KeptOut.ite
    | with_reducible apply KeptOut.next
    | with_reducible apply kept_ffFlows
    | with_reducible apply Kept.ite
    | simp only [kept_mk]
    | with_reducible apply Kept.parts
    | with_reducible refine Kept.foldl ?_ (fun _ _ _ => ?_)
    | split

end Sys2Proof.Machine
end

