-- ==== Sys2Proof/Laws/KeptMilys.lean ====
section
/-!
SUPPORT. Laws/KeptMilys.lean: the operations of Machine/Milys.lean keep the canonical form of every store and the queue.
-/
namespace Sys2Proof.Machine
open Sys2Proof

theorem kept_spaceWr {q : List Instr} {s : State} (h : Kept q s) (l sp off b) : Kept q (spaceWr s l sp off b) := by
  unfold spaceWr
  repeat' first
    | with_reducible exact h
    | with_reducible assumption
    | with_reducible apply kept_localWr
    | with_reducible apply kept_setSlotTile
    | with_reducible apply Kept.ite

theorem kept_land {q : List Instr} {s : State} (h : Kept q s) (l a) : Kept q (land s l a) := by
  unfold land
  repeat' first | with_reducible exact h | with_reducible assumption | with_reducible apply kept_spaceWr | with_reducible apply Kept.ite

/-- `Kept` of what an instruction does. -/
def KeptRes (q : List Instr) : Res → Prop
  | .ok _ s => Kept q s
  | .done s => Kept q s
  | .fault _ _ => True

theorem KeptRes.ok {q : List Instr} {r : CellRun} {s : State} (h : Kept q s) : KeptRes q (.ok r s) := h
theorem KeptRes.done {q : List Instr} {s : State} (h : Kept q s) : KeptRes q (.done s) := h
theorem KeptRes.fault {q : List Instr} {c i : Nat} : KeptRes q (.fault c i) := trivial
theorem KeptRes.ite {q : List Instr} {c : Prop} [Decidable c] {a b : Res} (h : KeptRes q a) (k : KeptRes q b) : KeptRes q (if c then a else b) := by
  split <;> assumption

theorem kept_complete {q : List Instr} {l : Nat} {p : CellRun × State} (h : KeptSnd q p) (a : Access) : KeptSnd q (complete l p a) :=
  kept_land (Kept.snd h) _ _

theorem kept_completes {q : List Instr} {l : Nat} (as : List Access) {p : CellRun × State} (h : KeptSnd q p) : KeptSnd q (as.foldl (complete l) p) := by
  induction as generalizing p with
  | nil => exact h
  | cons a as ih => exact ih (kept_complete h a)

theorem kept_settle {q : List Instr} {s : State} (h : Kept q s) (l : Nat) (f : Access → Bool) (r : CellRun) : KeptSnd q (settle l f r s) :=
  kept_completes _ h

theorem kept_issue {q : List Instr} {s : State} (h : Kept q s) (l : Nat) (a : Access) (r : CellRun) : KeptSnd q (issue l a r s) := by
  unfold issue
  dsimp only
  apply KeptSnd.mk
  split
  · exact Kept.snd (kept_completes _ h)
  · exact h

theorem kept_handlerEnd {q : List Instr} {s : State} (h : Kept q s) (l r) : Kept q (handlerEnd s l r) := by
  unfold handlerEnd
  repeat' first
    | with_reducible exact h
    | with_reducible assumption
    | with_reducible apply kept_handlerRan
    | with_reducible apply kept_endRun
    | with_reducible apply kept_ffVerdict
    | with_reducible apply Kept.ite
    | simp only
    | with_reducible apply Kept.parts
    | with_reducible refine Kept.foldl ?_ (fun _ _ _ => ?_)
    | split

theorem kept_finishEnd {q : List Instr} {s : State} (h : Kept q s) (l r f v) : Kept q (finishEnd s l r f v) := by
  unfold finishEnd
  repeat' first
    | with_reducible exact h
    | with_reducible assumption
    | with_reducible apply kept_finishVerdict
    | with_reducible apply kept_handlerRan
    | with_reducible apply kept_endRun
    | with_reducible apply kept_setRun
    | with_reducible apply Kept.ite
    | simp only [kept_mk]
    | with_reducible apply Kept.parts
    | with_reducible refine Kept.foldl ?_ (fun _ _ _ => ?_)
    | split

theorem kept_raise {q : List Instr} {s : State} (h : Kept q s) (l r code imm) : Kept q (raise s l r code imm) := by
  unfold raise
  repeat' first
    | with_reducible exact h
    | with_reducible assumption
    | with_reducible apply kept_countException
    | with_reducible apply kept_settle
    | with_reducible apply kept_finishEnd
    | with_reducible apply kept_report
    | with_reducible apply kept_loseRun
    | with_reducible apply kept_cellFaultAt
    | with_reducible apply Kept.ite
    | simp only
    | with_reducible apply Kept.parts
    | with_reducible refine Kept.foldl ?_ (fun _ _ _ => ?_)
    | split
    | with_reducible apply Kept.getD
    | with_reducible apply Kept.snd

theorem kept_ins {q : List Instr} {s : State} {l cost : Nat} {regs : List Nat} {f : CellRun → State → Res}
    (hf : ∀ r s, Kept q s → KeptRes q (f r s)) (h : Kept q s) : Kept q (ins s l cost regs f) := by
  unfold ins
  split
  · exact h
  · rename_i r _
    have hp := Kept.snd (kept_settle h l (fun a => regs.contains a.reg) r)
    have hr := hf { (settle l (fun a => regs.contains a.reg) r s).1 with
      pc := (settle l (fun a => regs.contains a.reg) r s).1.pc + 1, cycles := (settle l (fun a => regs.contains a.reg) r s).1.cycles + cost } _ hp
    dsimp only
    generalize hx : f _ _ = x at hr ⊢
    cases x with
    | ok r' s' => exact kept_setRun hr _ _
    | done s' => exact hr
    | fault c i => exact kept_raise hp _ _ _ _

theorem kept_both {q : List Instr} {s : State} (h : Kept q s) : KeptOut q (both s) := by
  unfold both
  repeat' first
    | with_reducible exact h
    | with_reducible assumption
    | with_reducible exact KeptOut.refused
    | with_reducible apply KeptOut.ite
    | with_reducible apply KeptOut.next

theorem kept_stockOnly {q : List Instr} {m : String} {s t : State} {l : Nat} (h : Kept q t) : KeptOut q (stockOnly m s l t) := by
  unfold stockOnly
  split
  · exact KeptOut.ite trivial h
  · exact h

theorem kept_loaded {q : List Instr} {m : String} {ok : Bool} {o : Host.Outcome State Fault Refusal} (h : KeptOut q o) :
    KeptOut q (loaded m ok o) := KeptOut.ite h trivial

end Sys2Proof.Machine
end

