-- ==== Sys2Proof/Laws/KeptScalar.lean ====
section
/-!
SUPPORT. Laws/KeptScalar.lean: the operations of Machine/Scalar.lean keep the canonical form of every store and the queue.
-/
namespace Sys2Proof.Machine
open Sys2Proof

theorem kept_alu {q : List Instr} {s : State} (h : Kept q s) (l rd ra rb f) : KeptOut q (alu s l rd ra rb f) := by
  unfold alu
  repeat' first
    | with_reducible exact h
    | with_reducible assumption
    | with_reducible exact KeptOut.refused
    | with_reducible apply KeptOut.ite
    | with_reducible apply KeptOut.next
    | with_reducible exact KeptRes.fault
    | with_reducible apply KeptRes.ite
    | with_reducible apply KeptRes.ok
    | with_reducible apply KeptRes.done
    | with_reducible apply kept_both
    | with_reducible apply kept_ins
    | with_reducible apply Kept.ite
    | simp only [kept_mk]
    | with_reducible apply Kept.parts
    | with_reducible refine Kept.foldl ?_ (fun _ _ _ => ?_)
    | split
    | with_reducible apply Kept.getD
    | with_reducible apply Kept.snd
    | with_reducible apply Kept.fst
    | refine Kept.sndOf (by assumption) ?_
    | refine Kept.fstOf (by assumption) ?_
    | refine Kept.optOf (by assumption) ?_
    | intro _

theorem kept_aluImm {q : List Instr} {s : State} (h : Kept q s) (l rd ra f) : KeptOut q (aluImm s l rd ra f) := by
  unfold aluImm
  repeat' first
    | with_reducible exact h
    | with_reducible assumption
    | with_reducible exact KeptOut.refused
    | with_reducible apply KeptOut.ite
    | with_reducible apply KeptOut.next
    | with_reducible exact KeptRes.fault
    | with_reducible apply KeptRes.ite
    | with_reducible apply KeptRes.ok
    | with_reducible apply KeptRes.done
    | with_reducible apply kept_both
    | with_reducible apply kept_ins
    | with_reducible apply Kept.ite
    | simp only [kept_mk]
    | with_reducible apply Kept.parts
    | with_reducible refine Kept.foldl ?_ (fun _ _ _ => ?_)
    | split
    | with_reducible apply Kept.getD
    | with_reducible apply Kept.snd
    | with_reducible apply Kept.fst
    | refine Kept.sndOf (by assumption) ?_
    | refine Kept.fstOf (by assumption) ?_
    | refine Kept.optOf (by assumption) ?_
    | intro _

theorem kept_execAdd {q : List Instr} {s : State} (h : Kept q s) (l rd ra rb) : KeptOut q (execAdd l rd ra rb s) := by
  unfold execAdd
  repeat' first
    | with_reducible exact h
    | with_reducible assumption
    | with_reducible exact KeptOut.refused
    | with_reducible apply KeptOut.ite
    | with_reducible apply KeptOut.next
    | with_reducible apply kept_alu

theorem kept_execSub {q : List Instr} {s : State} (h : Kept q s) (l rd ra rb) : KeptOut q (execSub l rd ra rb s) := by
  unfold execSub
  repeat' first
    | with_reducible exact h
    | with_reducible assumption
    | with_reducible exact KeptOut.refused
    | with_reducible apply KeptOut.ite
    | with_reducible apply KeptOut.next
    | with_reducible apply kept_alu

theorem kept_execAndR {q : List Instr} {s : State} (h : Kept q s) (l rd ra rb) : KeptOut q (execAndR l rd ra rb s) := by
  unfold execAndR
  repeat' first
    | with_reducible exact h
    | with_reducible assumption
    | with_reducible exact KeptOut.refused
    | with_reducible apply KeptOut.ite
    | with_reducible apply KeptOut.next
    | with_reducible apply kept_alu

theorem kept_execOrR {q : List Instr} {s : State} (h : Kept q s) (l rd ra rb) : KeptOut q (execOrR l rd ra rb s) := by
  unfold execOrR
  repeat' first
    | with_reducible exact h
    | with_reducible assumption
    | with_reducible exact KeptOut.refused
    | with_reducible apply KeptOut.ite
    | with_reducible apply KeptOut.next
    | with_reducible apply kept_alu

theorem kept_execXorR {q : List Instr} {s : State} (h : Kept q s) (l rd ra rb) : KeptOut q (execXorR l rd ra rb s) := by
  unfold execXorR
  repeat' first
    | with_reducible exact h
    | with_reducible assumption
    | with_reducible exact KeptOut.refused
    | with_reducible apply KeptOut.ite
    | with_reducible apply KeptOut.next
    | with_reducible apply kept_alu

theorem kept_execSll {q : List Instr} {s : State} (h : Kept q s) (l rd ra rb) : KeptOut q (execSll l rd ra rb s) := by
  unfold execSll
  repeat' first
    | with_reducible exact h
    | with_reducible assumption
    | with_reducible exact KeptOut.refused
    | with_reducible apply KeptOut.ite
    | with_reducible apply KeptOut.next
    | with_reducible apply kept_alu

theorem kept_execSrl {q : List Instr} {s : State} (h : Kept q s) (l rd ra rb) : KeptOut q (execSrl l rd ra rb s) := by
  unfold execSrl
  repeat' first
    | with_reducible exact h
    | with_reducible assumption
    | with_reducible exact KeptOut.refused
    | with_reducible apply KeptOut.ite
    | with_reducible apply KeptOut.next
    | with_reducible apply kept_alu

theorem kept_execSra {q : List Instr} {s : State} (h : Kept q s) (l rd ra rb) : KeptOut q (execSra l rd ra rb s) := by
  unfold execSra
  repeat' first
    | with_reducible exact h
    | with_reducible assumption
    | with_reducible exact KeptOut.refused
    | with_reducible apply KeptOut.ite
    | with_reducible apply KeptOut.next
    | with_reducible apply kept_alu

theorem kept_execMul {q : List Instr} {s : State} (h : Kept q s) (l rd ra rb) : KeptOut q (execMul l rd ra rb s) := by
  unfold execMul
  repeat' first
    | with_reducible exact h
    | with_reducible assumption
    | with_reducible exact KeptOut.refused
    | with_reducible apply KeptOut.ite
    | with_reducible apply KeptOut.next
    | with_reducible apply kept_alu

theorem kept_execMulhu {q : List Instr} {s : State} (h : Kept q s) (l rd ra rb) : KeptOut q (execMulhu l rd ra rb s) := by
  unfold execMulhu
  repeat' first
    | with_reducible exact h
    | with_reducible assumption
    | with_reducible exact KeptOut.refused
    | with_reducible apply KeptOut.ite
    | with_reducible apply KeptOut.next
    | with_reducible apply kept_alu

theorem kept_execMinR {q : List Instr} {s : State} (h : Kept q s) (l rd ra rb) : KeptOut q (execMinR l rd ra rb s) := by
  unfold execMinR
  repeat' first
    | with_reducible exact h
    | with_reducible assumption
    | with_reducible exact KeptOut.refused
    | with_reducible apply KeptOut.ite
    | with_reducible apply KeptOut.next
    | with_reducible apply kept_alu

theorem kept_execMaxR {q : List Instr} {s : State} (h : Kept q s) (l rd ra rb) : KeptOut q (execMaxR l rd ra rb s) := by
  unfold execMaxR
  repeat' first
    | with_reducible exact h
    | with_reducible assumption
    | with_reducible exact KeptOut.refused
    | with_reducible apply KeptOut.ite
    | with_reducible apply KeptOut.next
    | with_reducible apply kept_alu

theorem kept_execMinu {q : List Instr} {s : State} (h : Kept q s) (l rd ra rb) : KeptOut q (execMinu l rd ra rb s) := by
  unfold execMinu
  repeat' first
    | with_reducible exact h
    | with_reducible assumption
    | with_reducible exact KeptOut.refused
    | with_reducible apply KeptOut.ite
    | with_reducible apply KeptOut.next
    | with_reducible apply kept_alu

theorem kept_execMaxu {q : List Instr} {s : State} (h : Kept q s) (l rd ra rb) : KeptOut q (execMaxu l rd ra rb s) := by
  unfold execMaxu
  repeat' first
    | with_reducible exact h
    | with_reducible assumption
    | with_reducible exact KeptOut.refused
    | with_reducible apply KeptOut.ite
    | with_reducible apply KeptOut.next
    | with_reducible apply kept_alu

theorem kept_execSlt {q : List Instr} {s : State} (h : Kept q s) (l rd ra rb) : KeptOut q (execSlt l rd ra rb s) := by
  unfold execSlt
  repeat' first
    | with_reducible exact h
    | with_reducible assumption
    | with_reducible exact KeptOut.refused
    | with_reducible apply KeptOut.ite
    | with_reducible apply KeptOut.next
    | with_reducible apply kept_alu

theorem kept_execSltu {q : List Instr} {s : State} (h : Kept q s) (l rd ra rb) : KeptOut q (execSltu l rd ra rb s) := by
  unfold execSltu
  repeat' first
    | with_reducible exact h
    | with_reducible assumption
    | with_reducible exact KeptOut.refused
    | with_reducible apply KeptOut.ite
    | with_reducible apply KeptOut.next
    | with_reducible apply kept_alu

theorem kept_execCrc {q : List Instr} {s : State} (h : Kept q s) (l rd ra rb) : KeptOut q (execCrc l rd ra rb s) := by
  unfold execCrc
  repeat' first
    | with_reducible exact h
    | with_reducible assumption
    | with_reducible exact KeptOut.refused
    | with_reducible apply KeptOut.ite
    | with_reducible apply KeptOut.next
    | with_reducible apply kept_alu

theorem kept_execCrcb {q : List Instr} {s : State} (h : Kept q s) (l rd ra rb) : KeptOut q (execCrcb l rd ra rb s) := by
  unfold execCrcb
  repeat' first
    | with_reducible exact h
    | with_reducible assumption
    | with_reducible exact KeptOut.refused
    | with_reducible apply KeptOut.ite
    | with_reducible apply KeptOut.next
    | with_reducible apply kept_alu

theorem kept_execAddi {q : List Instr} {s : State} (h : Kept q s) (l rd ra imm) : KeptOut q (execAddi l rd ra imm s) := by
  unfold execAddi
  repeat' first
    | with_reducible exact h
    | with_reducible assumption
    | with_reducible exact KeptOut.refused
    | with_reducible apply KeptOut.ite
    | with_reducible apply KeptOut.next
    | with_reducible apply kept_aluImm

theorem kept_execAndi {q : List Instr} {s : State} (h : Kept q s) (l rd ra imm) : KeptOut q (execAndi l rd ra imm s) := by
  unfold execAndi
  repeat' first
    | with_reducible exact h
    | with_reducible assumption
    | with_reducible exact KeptOut.refused
    | with_reducible apply KeptOut.ite
    | with_reducible apply KeptOut.next
    | with_reducible apply kept_aluImm

theorem kept_execOri {q : List Instr} {s : State} (h : Kept q s) (l rd ra imm) : KeptOut q (execOri l rd ra imm s) := by
  unfold execOri
  repeat' first
    | with_reducible exact h
    | with_reducible assumption
    | with_reducible exact KeptOut.refused
    | with_reducible apply KeptOut.ite
    | with_reducible apply KeptOut.next
    | with_reducible apply kept_aluImm

theorem kept_execXori {q : List Instr} {s : State} (h : Kept q s) (l rd ra imm) : KeptOut q (execXori l rd ra imm s) := by
  unfold execXori
  repeat' first
    | with_reducible exact h
    | with_reducible assumption
    | with_reducible exact KeptOut.refused
    | with_reducible apply KeptOut.ite
    | with_reducible apply KeptOut.next
    | with_reducible apply kept_aluImm

theorem kept_execSlli {q : List Instr} {s : State} (h : Kept q s) (l rd ra sh) : KeptOut q (execSlli l rd ra sh s) := by
  unfold execSlli
  repeat' first
    | with_reducible exact h
    | with_reducible assumption
    | with_reducible exact KeptOut.refused
    | with_reducible apply KeptOut.ite
    | with_reducible apply KeptOut.next
    | with_reducible apply kept_aluImm

theorem kept_execSrli {q : List Instr} {s : State} (h : Kept q s) (l rd ra sh) : KeptOut q (execSrli l rd ra sh s) := by
  unfold execSrli
  repeat' first
    | with_reducible exact h
    | with_reducible assumption
    | with_reducible exact KeptOut.refused
    | with_reducible apply KeptOut.ite
    | with_reducible apply KeptOut.next
    | with_reducible apply kept_aluImm

theorem kept_execSrai {q : List Instr} {s : State} (h : Kept q s) (l rd ra sh) : KeptOut q (execSrai l rd ra sh s) := by
  unfold execSrai
  repeat' first
    | with_reducible exact h
    | with_reducible assumption
    | with_reducible exact KeptOut.refused
    | with_reducible apply KeptOut.ite
    | with_reducible apply KeptOut.next
    | with_reducible apply kept_aluImm

theorem kept_execLui {q : List Instr} {s : State} (h : Kept q s) (l rd imm sh) : KeptOut q (execLui l rd imm sh s) := by
  unfold execLui
  repeat' first
    | with_reducible exact h
    | with_reducible assumption
    | with_reducible exact KeptOut.refused
    | with_reducible apply KeptOut.ite
    | with_reducible apply KeptOut.next
    | with_reducible apply kept_aluImm

theorem kept_execSetfmt {q : List Instr} {s : State} (h : Kept q s) (l f) : KeptOut q (execSetfmt l f s) := by
  unfold execSetfmt
  repeat' first
    | with_reducible exact h
    | with_reducible assumption
    | with_reducible exact KeptOut.refused
    | with_reducible apply KeptOut.ite
    | with_reducible apply KeptOut.next
    | with_reducible exact KeptRes.fault
    | with_reducible apply KeptRes.ite
    | with_reducible apply KeptRes.ok
    | with_reducible apply KeptRes.done
    | with_reducible apply kept_loaded
    | with_reducible apply kept_both
    | with_reducible apply kept_ins
    | with_reducible apply Kept.ite
    | simp only [kept_mk]
    | with_reducible apply Kept.parts
    | with_reducible refine Kept.foldl ?_ (fun _ _ _ => ?_)
    | split
    | with_reducible apply Kept.getD
    | with_reducible apply Kept.snd
    | with_reducible apply Kept.fst
    | refine Kept.sndOf (by assumption) ?_
    | refine Kept.fstOf (by assumption) ?_
    | refine Kept.optOf (by assumption) ?_
    | intro _

theorem kept_execSetrnd {q : List Instr} {s : State} (h : Kept q s) (l v) : KeptOut q (execSetrnd l v s) := by
  unfold execSetrnd
  repeat' first
    | with_reducible exact h
    | with_reducible assumption
    | with_reducible exact KeptOut.refused
    | with_reducible apply KeptOut.ite
    | with_reducible apply KeptOut.next
    | with_reducible exact KeptRes.fault
    | with_reducible apply KeptRes.ite
    | with_reducible apply KeptRes.ok
    | with_reducible apply KeptRes.done
    | with_reducible apply kept_loaded
    | with_reducible apply kept_both
    | with_reducible apply kept_ins
    | with_reducible apply Kept.ite
    | simp only [kept_mk]
    | with_reducible apply Kept.parts
    | with_reducible refine Kept.foldl ?_ (fun _ _ _ => ?_)
    | split
    | with_reducible apply Kept.getD
    | with_reducible apply Kept.snd
    | with_reducible apply Kept.fst
    | refine Kept.sndOf (by assumption) ?_
    | refine Kept.fstOf (by assumption) ?_
    | refine Kept.optOf (by assumption) ?_
    | intro _

theorem kept_execRdctl {q : List Instr} {s : State} (h : Kept q s) (l rd) : KeptOut q (execRdctl l rd s) := by
  unfold execRdctl
  repeat' first
    | with_reducible exact h
    | with_reducible assumption
    | with_reducible exact KeptOut.refused
    | with_reducible apply KeptOut.ite
    | with_reducible apply KeptOut.next
    | with_reducible exact KeptRes.fault
    | with_reducible apply KeptRes.ite
    | with_reducible apply KeptRes.ok
    | with_reducible apply KeptRes.done
    | with_reducible apply kept_both
    | with_reducible apply kept_ins
    | with_reducible apply Kept.ite
    | simp only [kept_mk]
    | with_reducible apply Kept.parts
    | with_reducible refine Kept.foldl ?_ (fun _ _ _ => ?_)
    | split
    | with_reducible apply Kept.getD
    | with_reducible apply Kept.snd
    | with_reducible apply Kept.fst
    | refine Kept.sndOf (by assumption) ?_
    | refine Kept.fstOf (by assumption) ?_
    | refine Kept.optOf (by assumption) ?_
    | intro _

theorem kept_execWrctl {q : List Instr} {s : State} (h : Kept q s) (l ra) : KeptOut q (execWrctl l ra s) := by
  unfold execWrctl
  repeat' first
    | with_reducible exact h
    | with_reducible assumption
    | with_reducible exact KeptOut.refused
    | with_reducible apply KeptOut.ite
    | with_reducible apply KeptOut.next
    | with_reducible exact KeptRes.fault
    | with_reducible apply KeptRes.ite
    | with_reducible apply KeptRes.ok
    | with_reducible apply KeptRes.done
    | with_reducible apply kept_both
    | with_reducible apply kept_ins
    | with_reducible apply Kept.ite
    | simp only
    | with_reducible apply Kept.parts
    | with_reducible refine Kept.foldl ?_ (fun _ _ _ => ?_)
    | split
    | with_reducible apply Kept.getD
    | with_reducible apply Kept.snd
    | with_reducible apply Kept.fst
    | refine Kept.sndOf (by assumption) ?_
    | refine Kept.fstOf (by assumption) ?_
    | refine Kept.optOf (by assumption) ?_
    | intro _

theorem kept_predOp {q : List Instr} {s : State} (h : Kept q s) (l pd pa pb f) : KeptOut q (predOp s l pd pa pb f) := by
  unfold predOp
  repeat' first
    | with_reducible exact h
    | with_reducible assumption
    | with_reducible exact KeptOut.refused
    | with_reducible apply KeptOut.ite
    | with_reducible apply KeptOut.next
    | with_reducible exact KeptRes.fault
    | with_reducible apply KeptRes.ite
    | with_reducible apply KeptRes.ok
    | with_reducible apply KeptRes.done
    | with_reducible apply kept_both
    | with_reducible apply kept_ins
    | with_reducible apply Kept.ite
    | simp only [kept_mk]
    | with_reducible apply Kept.parts
    | with_reducible refine Kept.foldl ?_ (fun _ _ _ => ?_)
    | split
    | with_reducible apply Kept.getD
    | with_reducible apply Kept.snd
    | with_reducible apply Kept.fst
    | refine Kept.sndOf (by assumption) ?_
    | refine Kept.fstOf (by assumption) ?_
    | refine Kept.optOf (by assumption) ?_
    | intro _

theorem kept_execPand {q : List Instr} {s : State} (h : Kept q s) (l pd pa pb) : KeptOut q (execPand l pd pa pb s) := by
  unfold execPand
  repeat' first
    | with_reducible exact h
    | with_reducible assumption
    | with_reducible exact KeptOut.refused
    | with_reducible apply KeptOut.ite
    | with_reducible apply KeptOut.next
    | with_reducible apply kept_predOp

theorem kept_execPor {q : List Instr} {s : State} (h : Kept q s) (l pd pa pb) : KeptOut q (execPor l pd pa pb s) := by
  unfold execPor
  repeat' first
    | with_reducible exact h
    | with_reducible assumption
    | with_reducible exact KeptOut.refused
    | with_reducible apply KeptOut.ite
    | with_reducible apply KeptOut.next
    | with_reducible apply kept_predOp

theorem kept_execPxor {q : List Instr} {s : State} (h : Kept q s) (l pd pa pb) : KeptOut q (execPxor l pd pa pb s) := by
  unfold execPxor
  repeat' first
    | with_reducible exact h
    | with_reducible assumption
    | with_reducible exact KeptOut.refused
    | with_reducible apply KeptOut.ite
    | with_reducible apply KeptOut.next
    | with_reducible apply kept_predOp

theorem kept_execPnot {q : List Instr} {s : State} (h : Kept q s) (l pd pa) : KeptOut q (execPnot l pd pa s) := by
  unfold execPnot
  repeat' first
    | with_reducible exact h
    | with_reducible assumption
    | with_reducible exact KeptOut.refused
    | with_reducible apply KeptOut.ite
    | with_reducible apply KeptOut.next
    | with_reducible apply kept_predOp

theorem kept_execPfroms {q : List Instr} {s : State} (h : Kept q s) (l pd sa) : KeptOut q (execPfroms l pd sa s) := by
  unfold execPfroms
  repeat' first
    | with_reducible exact h
    | with_reducible assumption
    | with_reducible exact KeptOut.refused
    | with_reducible apply KeptOut.ite
    | with_reducible apply KeptOut.next
    | with_reducible exact KeptRes.fault
    | with_reducible apply KeptRes.ite
    | with_reducible apply KeptRes.ok
    | with_reducible apply KeptRes.done
    | with_reducible apply kept_both
    | with_reducible apply kept_ins
    | with_reducible apply Kept.ite
    | simp only [kept_mk]
    | with_reducible apply Kept.parts
    | with_reducible refine Kept.foldl ?_ (fun _ _ _ => ?_)
    | split
    | with_reducible apply Kept.getD
    | with_reducible apply Kept.snd
    | with_reducible apply Kept.fst
    | refine Kept.sndOf (by assumption) ?_
    | refine Kept.fstOf (by assumption) ?_
    | refine Kept.optOf (by assumption) ?_
    | intro _

theorem kept_execSfromp {q : List Instr} {s : State} (h : Kept q s) (l sd pa) : KeptOut q (execSfromp l sd pa s) := by
  unfold execSfromp
  repeat' first
    | with_reducible exact h
    | with_reducible assumption
    | with_reducible exact KeptOut.refused
    | with_reducible apply KeptOut.ite
    | with_reducible apply KeptOut.next
    | with_reducible exact KeptRes.fault
    | with_reducible apply KeptRes.ite
    | with_reducible apply KeptRes.ok
    | with_reducible apply KeptRes.done
    | with_reducible apply kept_both
    | with_reducible apply kept_ins
    | with_reducible apply Kept.ite
    | simp only [kept_mk]
    | with_reducible apply Kept.parts
    | with_reducible refine Kept.foldl ?_ (fun _ _ _ => ?_)
    | split
    | with_reducible apply Kept.getD
    | with_reducible apply Kept.snd
    | with_reducible apply Kept.fst
    | refine Kept.sndOf (by assumption) ?_
    | refine Kept.fstOf (by assumption) ?_
    | refine Kept.optOf (by assumption) ?_
    | intro _

theorem kept_execPcnt {q : List Instr} {s : State} (h : Kept q s) (l sd pa) : KeptOut q (execPcnt l sd pa s) := by
  unfold execPcnt
  repeat' first
    | with_reducible exact h
    | with_reducible assumption
    | with_reducible exact KeptOut.refused
    | with_reducible apply KeptOut.ite
    | with_reducible apply KeptOut.next
    | with_reducible exact KeptRes.fault
    | with_reducible apply KeptRes.ite
    | with_reducible apply KeptRes.ok
    | with_reducible apply KeptRes.done
    | with_reducible apply kept_both
    | with_reducible apply kept_ins
    | with_reducible apply Kept.ite
    | simp only [kept_mk]
    | with_reducible apply Kept.parts
    | with_reducible refine Kept.foldl ?_ (fun _ _ _ => ?_)
    | split
    | with_reducible apply Kept.getD
    | with_reducible apply Kept.snd
    | with_reducible apply Kept.fst
    | refine Kept.sndOf (by assumption) ?_
    | refine Kept.fstOf (by assumption) ?_
    | refine Kept.optOf (by assumption) ?_
    | intro _

end Sys2Proof.Machine
end

