-- ==== Sys2Proof/Laws/KeptFlow.lean ====
section
/-!
SUPPORT. Laws/KeptFlow.lean: the operations of Machine/Flow.lean keep the canonical form of every store and the queue.
-/
namespace Sys2Proof.Machine
open Sys2Proof

theorem kept_branch {q : List Instr} {s : State} (h : Kept q s) (l regs off f) : KeptOut q (branch s l regs off f) := by
  unfold branch
  repeat' first
    | with_reducible exact h
    | with_reducible assumption
    | with_reducible exact KeptOut.refused
    | with_reducible apply KeptOut.ite
    | with_reducible apply KeptOut.next
    | with_reducible exact KeptRes.fault
    | with_reducible apply KeptRes.ite
    | with_reducible apply KeptRes.ok
    | with_reducible apply KeptRes.done
    | with_reducible apply kept_both
    | with_reducible apply kept_ins
    | with_reducible apply Kept.ite
    | simp only [kept_mk]
    | with_reducible apply Kept.parts
    | with_reducible refine Kept.foldl ?_ (fun _ _ _ => ?_)
    | split
    | with_reducible apply Kept.getD
    | with_reducible apply Kept.snd
    | with_reducible apply Kept.fst
    | refine Kept.sndOf (by assumption) ?_
    | refine Kept.fstOf (by assumption) ?_
    | refine Kept.optOf (by assumption) ?_
    | intro _

theorem kept_execBeq {q : List Instr} {s : State} (h : Kept q s) (l ra rb off) : KeptOut q (execBeq l ra rb off s) := by
  unfold execBeq
  repeat' first
    | with_reducible exact h
    | with_reducible assumption
    | with_reducible exact KeptOut.refused
    | with_reducible apply KeptOut.ite
    | with_reducible apply KeptOut.next
    | with_reducible apply kept_branch

theorem kept_execBne {q : List Instr} {s : State} (h : Kept q s) (l ra rb off) : KeptOut q (execBne l ra rb off s) := by
  unfold execBne
  repeat' first
    | with_reducible exact h
    | with_reducible assumption
    | with_reducible exact KeptOut.refused
    | with_reducible apply KeptOut.ite
    | with_reducible apply KeptOut.next
    | with_reducible apply kept_branch

theorem kept_execBlt {q : List Instr} {s : State} (h : Kept q s) (l ra rb off) : KeptOut q (execBlt l ra rb off s) := by
  unfold execBlt
  repeat' first
    | with_reducible exact h
    | with_reducible assumption
    | with_reducible exact KeptOut.refused
    | with_reducible apply KeptOut.ite
    | with_reducible apply KeptOut.next
    | with_reducible apply kept_branch

theorem kept_execBge {q : List Instr} {s : State} (h : Kept q s) (l ra rb off) : KeptOut q (execBge l ra rb off s) := by
  unfold execBge
  repeat' first
    | with_reducible exact h
    | with_reducible assumption
    | with_reducible exact KeptOut.refused
    | with_reducible apply KeptOut.ite
    | with_reducible apply KeptOut.next
    | with_reducible apply kept_branch

theorem kept_execBltu {q : List Instr} {s : State} (h : Kept q s) (l ra rb off) : KeptOut q (execBltu l ra rb off s) := by
  unfold execBltu
  repeat' first
    | with_reducible exact h
    | with_reducible assumption
    | with_reducible exact KeptOut.refused
    | with_reducible apply KeptOut.ite
    | with_reducible apply KeptOut.next
    | with_reducible apply kept_branch

theorem kept_execBgeu {q : List Instr} {s : State} (h : Kept q s) (l ra rb off) : KeptOut q (execBgeu l ra rb off s) := by
  unfold execBgeu
  repeat' first
    | with_reducible exact h
    | with_reducible assumption
    | with_reducible exact KeptOut.refused
    | with_reducible apply KeptOut.ite
    | with_reducible apply KeptOut.next
    | with_reducible apply kept_branch

theorem kept_execBr {q : List Instr} {s : State} (h : Kept q s) (l off) : KeptOut q (execBr l off s) := by
  unfold execBr
  repeat' first
    | with_reducible exact h
    | with_reducible assumption
    | with_reducible exact KeptOut.refused
    | with_reducible apply KeptOut.ite
    | with_reducible apply KeptOut.next
    | with_reducible apply kept_branch

theorem kept_execBp {q : List Instr} {s : State} (h : Kept q s) (l pa neg off) : KeptOut q (execBp l pa neg off s) := by
  unfold execBp
  repeat' first
    | with_reducible exact h
    | with_reducible assumption
    | with_reducible exact KeptOut.refused
    | with_reducible apply KeptOut.ite
    | with_reducible apply KeptOut.next
    | with_reducible apply kept_branch

theorem kept_execCall {q : List Instr} {s : State} (h : Kept q s) (l off) : KeptOut q (execCall l off s) := by
  unfold execCall
  repeat' first
    | with_reducible exact h
    | with_reducible assumption
    | with_reducible exact KeptOut.refused
    | with_reducible apply KeptOut.ite
    | with_reducible apply KeptOut.next
    | with_reducible exact KeptRes.fault
    | with_reducible apply KeptRes.ite
    | with_reducible apply KeptRes.ok
    | with_reducible apply KeptRes.done
    | with_reducible apply kept_loaded
    | with_reducible apply kept_both
    | with_reducible apply kept_ins
    | with_reducible apply Kept.ite
    | simp only
    | with_reducible apply Kept.parts
    | with_reducible refine Kept.foldl ?_ (fun _ _ _ => ?_)
    | split
    | with_reducible apply Kept.getD
    | with_reducible apply Kept.snd
    | with_reducible apply Kept.fst
    | refine Kept.sndOf (by assumption) ?_
    | refine Kept.fstOf (by assumption) ?_
    | refine Kept.optOf (by assumption) ?_
    | intro _

theorem kept_execRet {q : List Instr} {s : State} (h : Kept q s) (l) : KeptOut q (execRet l s) := by
  unfold execRet
  repeat' first
    | with_reducible exact h
    | with_reducible assumption
    | with_reducible exact KeptOut.refused
    | with_reducible apply KeptOut.ite
    | with_reducible apply KeptOut.next
    | with_reducible exact KeptRes.fault
    | with_reducible apply KeptRes.ite
    | with_reducible apply KeptRes.ok
    | with_reducible apply KeptRes.done
    | with_reducible apply kept_loaded
    | with_reducible apply kept_both
    | with_reducible apply kept_ins
    | with_reducible apply Kept.ite
    | simp only
    | with_reducible apply Kept.parts
    | with_reducible refine Kept.foldl ?_ (fun _ _ _ => ?_)
    | split
    | with_reducible apply Kept.getD
    | with_reducible apply Kept.snd
    | with_reducible apply Kept.fst
    | refine Kept.sndOf (by assumption) ?_
    | refine Kept.fstOf (by assumption) ?_
    | refine Kept.optOf (by assumption) ?_
    | intro _

theorem kept_execJt {q : List Instr} {s : State} (h : Kept q s) (l ra table) : KeptOut q (execJt l ra table s) := by
  unfold execJt
  repeat' first
    | with_reducible exact h
    | with_reducible assumption
    | with_reducible exact KeptOut.refused
    | with_reducible apply KeptOut.ite
    | with_reducible apply KeptOut.next
    | with_reducible exact KeptRes.fault
    | with_reducible apply KeptRes.ite
    | with_reducible apply KeptRes.ok
    | with_reducible apply KeptRes.done
    | with_reducible apply kept_loaded
    | with_reducible apply kept_stockOnly
    | with_reducible apply kept_ins
    | with_reducible apply Kept.ite
    | simp only
    | with_reducible apply Kept.parts
    | with_reducible refine Kept.foldl ?_ (fun _ _ _ => ?_)
    | split
    | with_reducible apply Kept.getD
    | with_reducible apply Kept.snd
    | with_reducible apply Kept.fst
    | refine Kept.sndOf (by assumption) ?_
    | refine Kept.fstOf (by assumption) ?_
    | refine Kept.optOf (by assumption) ?_
    | intro _

theorem kept_execLoopR {q : List Instr} {s : State} (h : Kept q s) (l reg count ix body) : KeptOut q (execLoopR l reg count ix body s) := by
  unfold execLoopR
  repeat' first
    | with_reducible exact h
    | with_reducible assumption
    | with_reducible exact KeptOut.refused
    | with_reducible apply KeptOut.ite
    | with_reducible apply KeptOut.next
    | with_reducible exact KeptRes.fault
    | with_reducible apply KeptRes.ite
    | with_reducible apply KeptRes.ok
    | with_reducible apply KeptRes.done
    | with_reducible apply kept_ins
    | with_reducible apply kept_loaded
    | with_reducible apply kept_both
    | with_reducible apply Kept.ite
    | simp only
    | with_reducible apply Kept.parts
    | with_reducible refine Kept.foldl ?_ (fun _ _ _ => ?_)
    | split
    | with_reducible apply Kept.getD
    | with_reducible apply Kept.snd
    | with_reducible apply Kept.fst
    | refine Kept.sndOf (by assumption) ?_
    | refine Kept.fstOf (by assumption) ?_
    | refine Kept.optOf (by assumption) ?_
    | intro _

theorem kept_execLend {q : List Instr} {s : State} (h : Kept q s) (l) : KeptOut q (execLend l s) := by
  unfold execLend
  repeat' first
    | with_reducible exact h
    | with_reducible assumption
    | with_reducible exact KeptOut.refused
    | with_reducible apply KeptOut.ite
    | with_reducible apply KeptOut.next
    | with_reducible exact KeptRes.fault
    | with_reducible apply KeptRes.ite
    | with_reducible apply KeptRes.ok
    | with_reducible apply KeptRes.done
    | with_reducible apply kept_loaded
    | with_reducible apply kept_both
    | with_reducible apply kept_ins
    | with_reducible apply Kept.ite
    | simp only
    | with_reducible apply Kept.parts
    | with_reducible refine Kept.foldl ?_ (fun _ _ _ => ?_)
    | split
    | with_reducible apply Kept.getD
    | with_reducible apply Kept.snd
    | with_reducible apply Kept.fst
    | refine Kept.sndOf (by assumption) ?_
    | refine Kept.fstOf (by assumption) ?_
    | refine Kept.optOf (by assumption) ?_
    | intro _

theorem kept_execFin {q : List Instr} {s : State} (h : Kept q s) (l ra th) : KeptOut q (execFin l ra th s) := by
  unfold execFin
  repeat' first
    | with_reducible exact h
    | with_reducible assumption
    | with_reducible exact KeptOut.refused
    | with_reducible apply KeptOut.ite
    | with_reducible apply KeptOut.next
    | with_reducible exact KeptRes.fault
    | with_reducible apply KeptRes.ite
    | with_reducible apply KeptRes.ok
    | with_reducible apply KeptRes.done
    | with_reducible apply kept_stockOnly
    | with_reducible apply kept_ins
    | with_reducible apply kept_settle
    | with_reducible apply kept_stockFinish
    | with_reducible apply kept_setSlotTile
    | with_reducible apply kept_localWr
    | with_reducible apply Kept.ite
    | simp only
    | with_reducible apply Kept.parts
    | with_reducible refine Kept.foldl ?_ (fun _ _ _ => ?_)
    | split
    | with_reducible apply Kept.getD
    | with_reducible apply Kept.snd
    | with_reducible apply Kept.fst
    | refine Kept.sndOf (by assumption) ?_
    | refine Kept.fstOf (by assumption) ?_
    | refine Kept.optOf (by assumption) ?_
    | intro _

theorem kept_execEndR {q : List Instr} {s : State} (h : Kept q s) (l) : KeptOut q (execEndR l s) := by
  unfold execEndR
  repeat' first
    | with_reducible exact h
    | with_reducible assumption
    | with_reducible exact KeptOut.refused
    | with_reducible apply KeptOut.ite
    | with_reducible apply KeptOut.next
    | with_reducible exact KeptRes.fault
    | with_reducible apply KeptRes.ite
    | with_reducible apply KeptRes.ok
    | with_reducible apply KeptRes.done
    | with_reducible apply kept_both
    | with_reducible apply kept_ins
    | with_reducible apply kept_settle
    | with_reducible apply kept_finishEnd
    | with_reducible apply kept_handlerEnd
    | with_reducible apply Kept.ite
    | simp only
    | with_reducible apply Kept.parts
    | with_reducible refine Kept.foldl ?_ (fun _ _ _ => ?_)
    | split
    | with_reducible apply Kept.getD
    | with_reducible apply Kept.snd
    | with_reducible apply Kept.fst
    | refine Kept.sndOf (by assumption) ?_
    | refine Kept.fstOf (by assumption) ?_
    | refine Kept.optOf (by assumption) ?_
    | intro _

theorem kept_execTrap {q : List Instr} {s : State} (h : Kept q s) (l imm) : KeptOut q (execTrap l imm s) := by
  unfold execTrap
  repeat' first
    | with_reducible exact h
    | with_reducible assumption
    | with_reducible exact KeptOut.refused
    | with_reducible apply KeptOut.ite
    | with_reducible apply KeptOut.next
    | with_reducible exact KeptRes.fault
    | with_reducible apply KeptRes.ite
    | with_reducible apply KeptRes.ok
    | with_reducible apply KeptRes.done
    | with_reducible apply kept_both
    | with_reducible apply kept_ins
    | with_reducible apply Kept.ite
    | simp only [kept_mk]
    | with_reducible apply Kept.parts
    | with_reducible refine Kept.foldl ?_ (fun _ _ _ => ?_)
    | split
    | with_reducible apply Kept.getD
    | with_reducible apply Kept.snd
    | with_reducible apply Kept.fst
    | refine Kept.sndOf (by assumption) ?_
    | refine Kept.fstOf (by assumption) ?_
    | refine Kept.optOf (by assumption) ?_
    | intro _

end Sys2Proof.Machine
end

