-- ==== Sys2Proof/Laws/KeptCellSystem.lean ====
section
/-!
SUPPORT. Laws/KeptCellSystem.lean: the operations of Machine/CellSystem.lean keep the canonical form of every store and the queue.
-/
namespace Sys2Proof.Machine
open Sys2Proof

theorem kept_emit {q : List Instr} {s : State} {l : Nat} {r : CellRun} {i : Nat} {tile : Bool}
    {payload : Hdr → CellRun → State → Option (List Byte × CellRun × State)}
    (hp : ∀ x r t b r' t', Kept q t → payload x r t = some (b, r', t') → Kept q t') (h : Kept q s) : KeptRes q (emit s l r i tile payload) := by
  unfold emit
  dsimp only
  split
  · exact KeptRes.fault
  · have k := Kept.snd (kept_settle h l (touches 0 (gS r i).toNat 64) r)
    split
    · exact KeptRes.fault
    · rename_i e
      exact KeptRes.ite KeptRes.fault (KeptRes.ite KeptRes.fault (KeptRes.ok (kept_offer (hp _ _ _ _ _ _ k e) _ _)))

theorem kept_execEmit {q : List Instr} {s : State} (h : Kept q s) (l rh rp) : KeptOut q (execEmit l rh rp s) := by
  refine kept_stockOnly (kept_ins (fun r s h => kept_emit (fun x r t b r' t' k e => ?_) h) h)
  dsimp only at e
  split at e
  · split at e
    · cases e; exact k
    · split at e
      · cases e
      · cases e; exact Kept.snd (kept_settle k _ _ _)
  · split at e
    · cases e; exact k
    · split at e
      · cases e
      · cases e; exact Kept.snd (kept_settle k _ _ _)

theorem kept_execEmitt {q : List Instr} {s : State} (h : Kept q s) (l rh th) : KeptOut q (execEmitt l rh th s) := by
  refine kept_stockOnly (kept_ins (fun r s h => ?_) h)
  split
  · exact KeptRes.fault
  · refine kept_emit (fun x r t b r' t' k e => ?_) h
    cases e
    exact Kept.snd (kept_settle k _ _ _)

theorem kept_execRdsys {q : List Instr} {s : State} (h : Kept q s) (l rd aux) : KeptOut q (execRdsys l rd aux s) := by
  unfold execRdsys
  repeat' first
    | with_reducible exact h
    | with_reducible assumption
    | with_reducible exact KeptOut.refused
    | with_reducible apply KeptOut.ite
    | with_reducible apply KeptOut.next
    | with_reducible exact KeptRes.fault
    | with_reducible apply KeptRes.ite
    | with_reducible apply KeptRes.ok
    | with_reducible apply KeptRes.done
    | with_reducible apply kept_loaded
    | with_reducible apply kept_stockOnly
    | with_reducible apply kept_ins
    | with_reducible apply Kept.ite
    | simp only [kept_mk]
    | with_reducible apply Kept.parts
    | with_reducible refine Kept.foldl ?_ (fun _ _ _ => ?_)
    | split
    | with_reducible apply Kept.getD
    | with_reducible apply Kept.snd
    | with_reducible apply Kept.fst
    | refine Kept.sndOf (by assumption) ?_
    | refine Kept.fstOf (by assumption) ?_
    | refine Kept.optOf (by assumption) ?_
    | intro _

theorem kept_gpioIns {q : List Instr} {m : String} {s : State} {l : Fin 6144} {regs : List Nat} {ra : Fin 32} {f : CellRun → State → Nat → Res}
    (hf : ∀ r s i, Kept q s → KeptRes q (f r s i)) (h : Kept q s) : KeptOut q (gpioIns m s l regs ra f) := by
  refine kept_stockOnly (kept_ins (fun r s h => ?_) h)
  exact KeptRes.ite (hf _ _ _ h) KeptRes.fault

theorem kept_execGpiow {q : List Instr} {s : State} (h : Kept q s) (l ra rb) : KeptOut q (execGpiow l ra rb s) := by
  unfold execGpiow
  repeat' first
    | with_reducible exact h
    | with_reducible assumption
    | with_reducible exact KeptOut.refused
    | with_reducible apply KeptOut.ite
    | with_reducible apply KeptOut.next
    | with_reducible exact KeptRes.fault
    | with_reducible apply KeptRes.ite
    | with_reducible apply KeptRes.ok
    | with_reducible apply KeptRes.done
    | with_reducible apply kept_gpioIns
    | with_reducible apply kept_wr
    | with_reducible apply Kept.ite
    | simp only [kept_mk]
    | with_reducible apply Kept.parts
    | with_reducible refine Kept.foldl ?_ (fun _ _ _ => ?_)
    | split
    | with_reducible apply Kept.getD
    | with_reducible apply Kept.snd
    | with_reducible apply Kept.fst
    | refine Kept.sndOf (by assumption) ?_
    | refine Kept.fstOf (by assumption) ?_
    | refine Kept.optOf (by assumption) ?_
    | intro _

theorem kept_execGpior {q : List Instr} {s : State} (h : Kept q s) (l rd ra) : KeptOut q (execGpior l rd ra s) := by
  unfold execGpior
  repeat' first
    | with_reducible exact h
    | with_reducible assumption
    | with_reducible exact KeptOut.refused
    | with_reducible apply KeptOut.ite
    | with_reducible apply KeptOut.next
    | with_reducible exact KeptRes.fault
    | with_reducible apply KeptRes.ite
    | with_reducible apply KeptRes.ok
    | with_reducible apply KeptRes.done
    | with_reducible apply kept_gpioIns
    | with_reducible apply Kept.ite
    | simp only [kept_mk]
    | with_reducible apply Kept.parts
    | with_reducible refine Kept.foldl ?_ (fun _ _ _ => ?_)
    | split
    | with_reducible apply Kept.getD
    | with_reducible apply Kept.snd
    | with_reducible apply Kept.fst
    | refine Kept.sndOf (by assumption) ?_
    | refine Kept.fstOf (by assumption) ?_
    | refine Kept.optOf (by assumption) ?_
    | intro _

theorem kept_execCntrd {q : List Instr} {s : State} (h : Kept q s) (l rd ra) : KeptOut q (execCntrd l rd ra s) := by
  unfold execCntrd
  repeat' first
    | with_reducible exact h
    | with_reducible assumption
    | with_reducible exact KeptOut.refused
    | with_reducible apply KeptOut.ite
    | with_reducible apply KeptOut.next
    | with_reducible exact KeptRes.fault
    | with_reducible apply KeptRes.ite
    | with_reducible apply KeptRes.ok
    | with_reducible apply KeptRes.done
    | with_reducible apply kept_stockOnly
    | with_reducible apply kept_ins
    | with_reducible apply Kept.ite
    | simp only [kept_mk]
    | with_reducible apply Kept.parts
    | with_reducible refine Kept.foldl ?_ (fun _ _ _ => ?_)
    | split
    | with_reducible apply Kept.getD
    | with_reducible apply Kept.snd
    | with_reducible apply Kept.fst
    | refine Kept.sndOf (by assumption) ?_
    | refine Kept.fstOf (by assumption) ?_
    | refine Kept.optOf (by assumption) ?_
    | intro _

theorem kept_execCellInit {q : List Instr} {s : State} (h : Kept q s) (l) : KeptOut q (execCellInit l s) := by
  unfold execCellInit
  repeat' first
    | with_reducible exact h
    | with_reducible assumption
    | with_reducible exact KeptOut.refused
    | with_reducible apply KeptOut.ite
    | with_reducible apply KeptOut.next
    | with_reducible apply kept_seedRand
    | with_reducible apply kept_taskBegin
    | with_reducible apply kept_stockHandler
    | with_reducible apply kept_startHandler
    | with_reducible apply Kept.ite
    | simp only [kept_mk]
    | with_reducible apply Kept.parts
    | with_reducible refine Kept.foldl ?_ (fun _ _ _ => ?_)
    | split
    | with_reducible apply Kept.getD
    | with_reducible apply Kept.snd
    | with_reducible apply Kept.fst
    | refine Kept.sndOf (by assumption) ?_
    | refine Kept.fstOf (by assumption) ?_
    | refine Kept.optOf (by assumption) ?_
    | intro _

theorem kept_stockTick {q : List Instr} {s : State} (h : Kept q s) (l tick) : Kept q (stockTick s l tick) := by
  unfold stockTick
  repeat' first
    | with_reducible exact h
    | with_reducible assumption
    | with_reducible apply kept_flushReplies
    | with_reducible apply kept_hbmWr
    | with_reducible apply Kept.ite

theorem kept_execCellTick {q : List Instr} {s : State} (h : Kept q s) (l) : KeptOut q (execCellTick l s) := by
  unfold execCellTick
  repeat' first
    | with_reducible exact h
    | with_reducible assumption
    | with_reducible exact KeptOut.refused
    | with_reducible apply KeptOut.ite
    | with_reducible apply KeptOut.next
    | with_reducible apply kept_taskRun
    | with_reducible apply kept_stockHandler
    | with_reducible apply kept_stockTick
    | with_reducible apply kept_startHandler
    | with_reducible apply Kept.ite
    | simp only [kept_mk]
    | with_reducible apply Kept.parts
    | with_reducible refine Kept.foldl ?_ (fun _ _ _ => ?_)
    | split
    | with_reducible apply Kept.getD
    | with_reducible apply Kept.snd
    | with_reducible apply Kept.fst
    | refine Kept.sndOf (by assumption) ?_
    | refine Kept.fstOf (by assumption) ?_
    | refine Kept.optOf (by assumption) ?_
    | intro _

theorem kept_takeTimer {q : List Instr} {s : State} (h : Kept q s) (l k) : Kept q (takeTimer s l k) := by
  unfold takeTimer
  repeat' first
    | with_reducible exact h
    | with_reducible assumption
    | with_reducible apply Kept.ite
    | simp only [kept_mk]
    | with_reducible apply Kept.parts

theorem kept_execCellTimer {q : List Instr} {s : State} (h : Kept q s) (l k) : KeptOut q (execCellTimer l k s) := by
  unfold execCellTimer
  repeat' first
    | with_reducible exact h
    | with_reducible assumption
    | with_reducible exact KeptOut.refused
    | with_reducible apply KeptOut.ite
    | with_reducible apply KeptOut.next
    | with_reducible apply kept_takeTimer
    | with_reducible apply kept_startHandler
    | with_reducible apply kept_taskRunAt
    | with_reducible apply Kept.ite
    | simp only [kept_mk]
    | with_reducible apply Kept.parts
    | with_reducible refine Kept.foldl ?_ (fun _ _ _ => ?_)
    | split

end Sys2Proof.Machine
end

