-- ==== Sys2Proof/Laws/KeptErrors.lean ====
section
/-!
SUPPORT. Laws/KeptErrors.lean: the operations of Machine/Errors.lean keep the canonical form of every store and the queue.
-/
namespace Sys2Proof.Machine
open Sys2Proof

theorem kept_coalesced {q : List Instr} {s : State} (h : Kept q s) (src) : Kept q (coalesced s src) := by
  unfold coalesced
  repeat' first
    | with_reducible exact h
    | with_reducible assumption
    | with_reducible apply kept_emitRecord
    | with_reducible apply Kept.ite
    | simp only [kept_mk]
    | with_reducible apply Kept.parts
    | with_reducible refine Kept.foldl ?_ (fun _ _ _ => ?_)
    | split

theorem kept_execErrorCoalesceTick {q : List Instr} {s : State} (h : Kept q s) (lost) : KeptOut q (execErrorCoalesceTick s lost) := by
  unfold execErrorCoalesceTick
  repeat' first
    | with_reducible exact h
    | with_reducible assumption
    | with_reducible exact KeptOut.refused
    | with_reducible apply KeptOut.ite
    | with_reducible apply KeptOut.next
    | with_reducible apply kept_cdcLost
    | with_reducible apply kept_coalesced
    | with_reducible apply Kept.ite
    | simp only [kept_mk]
    | with_reducible apply Kept.parts
    | with_reducible refine Kept.foldl ?_ (fun _ _ _ => ?_)

theorem kept_ringHead {q : List Instr} {s : State} (h : Kept q s) (w head acc) : Kept q (ringHead s w head acc) := by
  unfold ringHead
  repeat' first
    | with_reducible exact h
    | with_reducible assumption
    | with_reducible apply kept_regError
    | with_reducible apply kept_overrunRecord
    | with_reducible apply kept_ringFull
    | with_reducible apply kept_wr
    | with_reducible apply Kept.ite

theorem kept_execErrRingHeadWrite {q : List Instr} {s : State} (h : Kept q s) (w head) : KeptOut q (execErrRingHeadWrite w head s) := by
  unfold execErrRingHeadWrite
  repeat' first
    | with_reducible exact h
    | with_reducible assumption
    | with_reducible exact KeptOut.refused
    | with_reducible apply KeptOut.ite
    | with_reducible apply KeptOut.next
    | with_reducible apply kept_ringHead

theorem kept_ringEnable {q : List Instr} {s : State} (h : Kept q s) (on) : Kept q (ringEnable s on) := by
  unfold ringEnable
  repeat' first
    | with_reducible exact h
    | with_reducible assumption
    | with_reducible apply kept_wr
    | with_reducible apply kept_overrunRecord
    | with_reducible apply kept_ringFull
    | with_reducible apply kept_ringLose
    | with_reducible apply Kept.ite

theorem kept_execErrRingEnable {q : List Instr} {s : State} (h : Kept q s) (on) : KeptOut q (execErrRingEnable on s) := by
  unfold execErrRingEnable
  repeat' first
    | with_reducible exact h
    | with_reducible assumption
    | with_reducible exact KeptOut.refused
    | with_reducible apply KeptOut.ite
    | with_reducible apply KeptOut.next
    | with_reducible apply kept_ringEnable

theorem kept_execErrRingMsiTimer {q : List Instr} {s : State} (h : Kept q s) : KeptOut q (execErrRingMsiTimer s) := by
  unfold execErrRingMsiTimer
  repeat' first
    | with_reducible exact h
    | with_reducible assumption
    | with_reducible exact KeptOut.refused
    | with_reducible apply KeptOut.ite
    | with_reducible apply KeptOut.next
    | with_reducible apply kept_sendMsix
    | with_reducible apply Kept.ite
    | simp only [kept_mk]
    | with_reducible apply Kept.parts
    | with_reducible refine Kept.foldl ?_ (fun _ _ _ => ?_)
    | split

theorem kept_logClear {q : List Instr} {s : State} (h : Kept q s) : Kept q (logClear s) := by
  unfold logClear
  repeat' first
    | with_reducible exact h
    | with_reducible assumption
    | with_reducible apply kept_wrs
    | with_reducible apply Kept.ite
    | simp only
    | with_reducible apply Kept.parts
    | with_reducible refine Kept.foldl ?_ (fun _ _ _ => ?_)

theorem kept_execLogClear {q : List Instr} {s : State} (h : Kept q s) : KeptOut q (execLogClear s) := by
  unfold execLogClear
  repeat' first
    | with_reducible exact h
    | with_reducible assumption
    | with_reducible exact KeptOut.refused
    | with_reducible apply KeptOut.ite
    | with_reducible apply KeptOut.next
    | with_reducible apply kept_logClear

theorem kept_srcClear {q : List Instr} {s : State} (h : Kept q s) (n) : Kept q (srcClear s n) := by
  unfold srcClear
  repeat' first | with_reducible exact h | with_reducible assumption | with_reducible apply kept_cnt | with_reducible apply kept_wrs

theorem kept_execErrSrcClear {q : List Instr} {s : State} (h : Kept q s) (n) : KeptOut q (execErrSrcClear n s) := by
  unfold execErrSrcClear
  repeat' first
    | with_reducible exact h
    | with_reducible assumption
    | with_reducible exact KeptOut.refused
    | with_reducible apply KeptOut.ite
    | with_reducible apply KeptOut.next
    | with_reducible apply kept_srcClear

end Sys2Proof.Machine
end

