-- ==== Sys2Proof/Laws/KeptFrames.lean ====
section
/-!
SUPPORT. Laws/KeptFrames.lean: the operations of Machine/Frames.lean keep the canonical form of every store and the queue.
-/
namespace Sys2Proof.Machine
open Sys2Proof

theorem kept_sealFrame {q : List Instr} {s : State} (h : Kept q s) (x1 flits codes credit) : Kept q (sealFrame s x1 flits codes credit) := by
  unfold sealFrame
  repeat' first
    | with_reducible exact h
    | with_reducible assumption
    | with_reducible apply kept_setLink
    | with_reducible apply kept_cnt
    | with_reducible apply kept_emitOut
    | with_reducible apply Kept.ite

theorem kept_countSent {q : List Instr} {s : State} (h : Kept q s) (x : Nat) (b : List Egress) (n : Nat) : Kept q (countSent s x b n) := by
  induction b generalizing s n with
  | nil => exact h
  | cons e b ih => exact Kept.ite h (ih (kept_bump h _ _) _)

theorem kept_stripeFrame {q : List Instr} {s : State} (h : Kept q s) (x1) : Kept q (stripeFrame s x1) := by
  unfold stripeFrame
  repeat' first
    | with_reducible exact h
    | with_reducible assumption
    | with_reducible apply kept_sendMarkers
    | with_reducible apply kept_setLink
    | with_reducible apply Kept.ite

theorem kept_sendFrame {q : List Instr} {s : State} (h : Kept q s) (x1) : Kept q (sendFrame s x1) := by
  unfold sendFrame
  repeat' first
    | with_reducible exact h
    | with_reducible assumption
    | with_reducible apply kept_countSent
    | with_reducible apply kept_setEgress
    | with_reducible apply kept_sealFrame
    | with_reducible apply Kept.ite
    | simp only [kept_mk]
    | with_reducible apply Kept.parts

theorem kept_sendOffer {q : List Instr} {s : State} (h : Kept q s) (x1) : Kept q (sendOffer s x1) := by
  unfold sendOffer
  repeat' first
    | with_reducible exact h
    | with_reducible assumption
    | with_reducible apply kept_sealFrame
    | with_reducible apply kept_trySwitch
    | with_reducible apply kept_setLink

theorem kept_execLinkFrameSend {q : List Instr} {s : State} (h : Kept q s) (x0) : KeptOut q (execLinkFrameSend x0 s) := by
  unfold execLinkFrameSend
  repeat' first
    | with_reducible exact h
    | with_reducible assumption
    | with_reducible exact KeptOut.refused
    | with_reducible apply KeptOut.ite
    | with_reducible apply KeptOut.next
    | with_reducible apply kept_sendOffer
    | with_reducible apply kept_stripeFrame
    | with_reducible apply kept_sealFrame
    | with_reducible apply kept_sendFrame
    | with_reducible apply Kept.ite

theorem kept_setRx {q : List Instr} {s : State} (h : Kept q s) (x1 r) : Kept q (setRx s x1 r) := by
  unfold setRx
  repeat' first
    | with_reducible exact h
    | with_reducible assumption
    | with_reducible apply Kept.ite
    | simp only [kept_mk]
    | with_reducible apply Kept.parts

theorem kept_discardFrame {q : List Instr} {s : State} (h : Kept q s) (x1 error) : Kept q (discardFrame s x1 error) := by
  unfold discardFrame
  repeat' first
    | with_reducible exact h
    | with_reducible assumption
    | with_reducible apply kept_cnt
    | with_reducible apply kept_setLink
    | with_reducible apply kept_stompPkt
    | with_reducible apply kept_packetError
    | with_reducible apply kept_setRx
    | with_reducible apply Kept.ite
    | simp only
    | with_reducible apply Kept.parts
    | with_reducible refine Kept.foldl ?_ (fun _ _ _ => ?_)
    | split

theorem kept_rxHead {q : List Instr} {s : State} (h : Kept q s) (x1 p miss) : Kept q (rxHead s x1 p miss) := by
  unfold rxHead
  repeat' first
    | with_reducible exact h
    | with_reducible assumption
    | with_reducible apply kept_discardBad
    | with_reducible apply kept_takeOffer
    | with_reducible apply kept_ingress
    | with_reducible apply kept_setRx
    | with_reducible apply Kept.ite

theorem kept_rxMore {q : List Instr} {s : State} (h : Kept q s) (x1 flit) : Kept q (rxMore s x1 flit) := by
  unfold rxMore
  repeat' first
    | with_reducible exact h
    | with_reducible assumption
    | with_reducible apply kept_setRx
    | with_reducible apply kept_oweCredit
    | with_reducible apply kept_mapEgress
    | with_reducible apply Kept.ite
    | simp only [kept_mk]
    | with_reducible apply Kept.parts
    | with_reducible refine Kept.foldl ?_ (fun _ _ _ => ?_)
    | split

theorem kept_rxTail {q : List Instr} {s : State} (h : Kept q s) (x1 stomp) : Kept q (rxTail s x1 stomp) := by
  unfold rxTail
  repeat' first
    | with_reducible exact h
    | with_reducible assumption
    | with_reducible apply kept_setRx
    | with_reducible apply kept_cnt
    | with_reducible apply kept_stompPkt
    | with_reducible apply kept_packetError
    | with_reducible apply kept_mapEgress
    | with_reducible apply kept_mirrorCopy
    | with_reducible apply kept_finishArrival
    | with_reducible apply kept_setPkt
    | with_reducible apply Kept.ite
    | simp only [kept_mk]
    | with_reducible apply Kept.parts
    | with_reducible refine Kept.foldl ?_ (fun _ _ _ => ?_)
    | split

theorem kept_packetIn {q : List Instr} {s : State} (h : Kept q s) (inp half p complete miss) : Kept q (packetIn s inp half p complete miss) := by
  unfold packetIn
  repeat' first
    | with_reducible exact h
    | with_reducible assumption
    | with_reducible apply kept_ingress
    | with_reducible apply kept_rxHead
    | with_reducible apply kept_rxTail
    | with_reducible apply kept_rxMore
    | with_reducible apply Kept.ite
    | simp only [kept_mk]
    | with_reducible apply Kept.parts
    | with_reducible refine Kept.foldl ?_ (fun _ _ _ => ?_)
    | split

theorem kept_execPacketIngress {q : List Instr} {s : State} (h : Kept q s) (inp hi p complete miss) : KeptOut q (execPacketIngress inp hi p complete miss s) := by
  unfold execPacketIngress
  repeat' first
    | with_reducible exact h
    | with_reducible assumption
    | with_reducible exact KeptOut.refused
    | with_reducible apply KeptOut.ite
    | with_reducible apply KeptOut.next
    | with_reducible apply kept_packetIn

theorem kept_countGot {q : List Instr} {s : State} (h : Kept q s) (x1 flit) : Kept q (countGot s x1 flit) := by
  unfold countGot
  repeat' first | with_reducible exact h | with_reducible assumption | with_reducible apply kept_bump

theorem kept_rxSlot {q : List Instr} {s : State} (h : Kept q s) (x1 head tail flit miss) : Kept q (rxSlot s x1 head tail flit miss) := by
  unfold rxSlot
  repeat' first
    | with_reducible exact h
    | with_reducible assumption
    | with_reducible apply kept_countGot
    | with_reducible apply kept_rxHead
    | with_reducible apply kept_ingress
    | with_reducible apply kept_setRx
    | with_reducible apply kept_rxMore
    | with_reducible apply kept_rxTail
    | with_reducible apply Kept.ite
    | simp only [kept_mk]
    | with_reducible apply Kept.parts
    | with_reducible refine Kept.foldl ?_ (fun _ _ _ => ?_)
    | split

theorem kept_rxSlots {q : List Instr} {s : State} (h : Kept q s) (x1 codes text miss) : Kept q (rxSlots s x1 codes text miss) := by
  unfold rxSlots
  repeat' first
    | with_reducible exact h
    | with_reducible assumption
    | with_reducible apply kept_rxSlot
    | with_reducible apply Kept.ite
    | simp only [kept_mk]
    | with_reducible apply Kept.parts
    | with_reducible refine Kept.foldl ?_ (fun _ _ _ => ?_)

theorem kept_takeCredit {q : List Instr} {s : State} (h : Kept q s) (x1 credit) : Kept q (takeCredit s x1 credit) := by
  unfold takeCredit
  repeat' first
    | with_reducible exact h
    | with_reducible assumption
    | with_reducible apply Kept.ite
    | simp only [kept_mk]
    | with_reducible apply Kept.parts

theorem kept_offerIn {q : List Instr} {s : State} (h : Kept q s) (x1 text) : Kept q (offerIn s x1 text) := by
  unfold offerIn
  repeat' first
    | with_reducible exact h
    | with_reducible assumption
    | with_reducible apply kept_trySwitch
    | with_reducible apply kept_setLink
    | with_reducible apply Kept.ite

theorem kept_rxAccepted {q : List Instr} {s : State} (h : Kept q s) (x1 c key) : Kept q (rxAccepted s x1 c key) := by
  unfold rxAccepted
  repeat' first | with_reducible exact h | with_reducible assumption | with_reducible apply kept_setLink

theorem kept_frameIn {q : List Instr} {s : State} (h : Kept q s) (x1 f miss) : Kept q (frameIn s x1 f miss) := by
  unfold frameIn
  repeat' first
    | with_reducible exact h
    | with_reducible assumption
    | with_reducible apply kept_discardFrame
    | with_reducible apply kept_rxAccepted
    | with_reducible apply kept_offerIn
    | with_reducible apply kept_rxSlots
    | with_reducible apply kept_takeCredit
    | with_reducible apply Kept.ite
    | simp only
    | with_reducible apply Kept.parts
    | with_reducible refine Kept.foldl ?_ (fun _ _ _ => ?_)
    | split

theorem kept_execLinkFrameReceive {q : List Instr} {s : State} (h : Kept q s) (x0 f miss) : KeptOut q (execLinkFrameReceive x0 f miss s) := by
  unfold execLinkFrameReceive
  repeat' first
    | with_reducible exact h
    | with_reducible assumption
    | with_reducible exact KeptOut.refused
    | with_reducible apply KeptOut.ite
    | with_reducible apply KeptOut.next
    | with_reducible apply kept_frameIn

theorem kept_execLinkAuthLimit {q : List Instr} {s : State} (h : Kept q s) (x0) : KeptOut q (execLinkAuthLimit x0 s) := by
  unfold execLinkAuthLimit
  repeat' first
    | with_reducible exact h
    | with_reducible assumption
    | with_reducible exact KeptOut.refused
    | with_reducible apply KeptOut.ite
    | with_reducible apply KeptOut.next
    | with_reducible apply kept_linkDown
    | with_reducible apply Kept.ite

theorem kept_execKeyingOffer {q : List Instr} {s : State} (h : Kept q s) (x0 f) : KeptOut q (execKeyingOffer x0 f s) := by
  unfold execKeyingOffer
  repeat' first
    | with_reducible exact h
    | with_reducible assumption
    | with_reducible exact KeptOut.refused
    | with_reducible apply KeptOut.ite
    | with_reducible apply KeptOut.next
    | with_reducible apply kept_frameIn
    | with_reducible apply Kept.ite

theorem kept_linkIsUp {q : List Instr} {s : State} (h : Kept q s) (x1) : Kept q (linkIsUp s x1) := by
  unfold linkIsUp
  repeat' first
    | with_reducible exact h
    | with_reducible assumption
    | with_reducible apply kept_cnt
    | with_reducible apply kept_wr
    | with_reducible apply kept_setLink
    | with_reducible apply kept_trace
    | with_reducible apply kept_wantWidth
    | with_reducible apply kept_memberTest
    | with_reducible apply Kept.ite
    | simp only [kept_mk]
    | with_reducible apply Kept.parts
    | with_reducible refine Kept.foldl ?_ (fun _ _ _ => ?_)

theorem kept_execLinkKeyed {q : List Instr} {s : State} (h : Kept q s) (x0) : KeptOut q (execLinkKeyed x0 s) := by
  unfold execLinkKeyed
  repeat' first
    | with_reducible exact h
    | with_reducible assumption
    | with_reducible exact KeptOut.refused
    | with_reducible apply KeptOut.ite
    | with_reducible apply KeptOut.next
    | with_reducible apply kept_linkIsUp
    | with_reducible apply Kept.ite

theorem kept_execLinkKeyingTimeout {q : List Instr} {s : State} (h : Kept q s) (x0) : KeptOut q (execLinkKeyingTimeout x0 s) := by
  unfold execLinkKeyingTimeout
  repeat' first
    | with_reducible exact h
    | with_reducible assumption
    | with_reducible exact KeptOut.refused
    | with_reducible apply KeptOut.ite
    | with_reducible apply KeptOut.next
    | with_reducible apply kept_linkDown
    | with_reducible apply Kept.ite

theorem kept_execRekeyDue {q : List Instr} {s : State} (h : Kept q s) (x0 receive) : KeptOut q (execRekeyDue x0 receive s) := by
  unfold execRekeyDue
  repeat' first
    | with_reducible exact h
    | with_reducible assumption
    | with_reducible exact KeptOut.refused
    | with_reducible apply KeptOut.ite
    | with_reducible apply KeptOut.next
    | with_reducible apply kept_setLink
    | with_reducible apply kept_wr
    | with_reducible apply Kept.ite

theorem kept_execNextKeyInstalled {q : List Instr} {s : State} (h : Kept q s) (x0) : KeptOut q (execNextKeyInstalled x0 s) := by
  unfold execNextKeyInstalled
  repeat' first
    | with_reducible exact h
    | with_reducible assumption
    | with_reducible exact KeptOut.refused
    | with_reducible apply KeptOut.ite
    | with_reducible apply KeptOut.next
    | with_reducible apply kept_wrs
    | with_reducible apply kept_setLink
    | with_reducible apply kept_trace
    | with_reducible apply Kept.ite

theorem kept_execKeyExpired {q : List Instr} {s : State} (h : Kept q s) (x0) : KeptOut q (execKeyExpired x0 s) := by
  unfold execKeyExpired
  repeat' first
    | with_reducible exact h
    | with_reducible assumption
    | with_reducible exact KeptOut.refused
    | with_reducible apply KeptOut.ite
    | with_reducible apply KeptOut.next
    | with_reducible apply kept_linkDown
    | with_reducible apply Kept.ite

theorem kept_execPortDown {q : List Instr} {s : State} (h : Kept q s) (x0) : KeptOut q (execPortDown x0 s) := by
  unfold execPortDown
  repeat' first
    | with_reducible exact h
    | with_reducible assumption
    | with_reducible exact KeptOut.refused
    | with_reducible apply KeptOut.ite
    | with_reducible apply KeptOut.next
    | with_reducible apply kept_memberTest
    | with_reducible apply kept_portDownHalf
    | with_reducible apply Kept.ite

theorem kept_routeWrite {q : List Instr} {s : State} (h : Kept q s) (w d bundle valid announce acc) : Kept q (routeWrite s w d bundle valid announce acc) := by
  unfold routeWrite
  repeat' first
    | with_reducible exact h
    | with_reducible assumption
    | with_reducible apply kept_regError
    | with_reducible apply kept_wr
    | with_reducible apply kept_wrb
    | with_reducible apply kept_report
    | with_reducible apply kept_inject
    | with_reducible apply kept_memberTest
    | with_reducible apply Kept.ite

theorem kept_execRouteWrite {q : List Instr} {s : State} (h : Kept q s) (w d bundle valid announce) : KeptOut q (execRouteWrite w d bundle valid announce s) := by
  unfold execRouteWrite
  repeat' first
    | with_reducible exact h
    | with_reducible assumption
    | with_reducible exact KeptOut.refused
    | with_reducible apply KeptOut.ite
    | with_reducible apply KeptOut.next
    | with_reducible apply kept_routeWrite

theorem kept_bundleWrite {q : List Instr} {s : State} (h : Kept q s) (b word v) : Kept q (bundleWrite s b word v) := by
  unfold bundleWrite
  repeat' first
    | with_reducible exact h
    | with_reducible assumption
    | with_reducible apply kept_wr
    | with_reducible apply kept_memberTest
    | with_reducible apply Kept.ite
    | simp only [kept_mk]
    | with_reducible apply Kept.parts
    | with_reducible refine Kept.foldl ?_ (fun _ _ _ => ?_)

theorem kept_execBundleWrite {q : List Instr} {s : State} (h : Kept q s) (b v) : KeptOut q (execBundleWrite b v s) := by
  unfold execBundleWrite
  repeat' first
    | with_reducible exact h
    | with_reducible assumption
    | with_reducible exact KeptOut.refused
    | with_reducible apply KeptOut.ite
    | with_reducible apply KeptOut.next
    | with_reducible apply kept_bundleWrite

end Sys2Proof.Machine
end

