-- ==== Sys2Proof/Laws/KeptJigs.lean ====
section
/-!
SUPPORT. Laws/KeptJigs.lean: the operations of Machine/Jigs.lean keep the canonical form of every store and the queue.
-/
namespace Sys2Proof.Machine
open Sys2Proof

theorem kept_setBank {q : List Instr} {s : State} (h : Kept q s) (base l) : Kept q (setBank s base l) := by
  refine ⟨⟨?_, h.1.2⟩, h.2⟩
  show sortedKeys (l.foldl _ _) = true
  have hs := sortedKeys_filter (fun e => !(decide (base ≤ e.1) && decide (e.1 < base + 4096 * 256))) h.1.1
  generalize s.regs.filter _ = r at hs
  induction l generalizing r with
  | nil => exact hs
  | cons e l ih => exact ih _ (sortedKeys_setKey _ _ hs)

theorem kept_setJigStatus {q : List Instr} {s : State} (h : Kept q s) (st c) : Kept q (setJigStatus s st c) := by
  unfold setJigStatus
  repeat' first | with_reducible exact h | with_reducible assumption | with_reducible apply kept_wrs | with_reducible apply kept_trace

theorem kept_jigStageWrite {q : List Instr} {s : State} (h : Kept q s) (w j k v acc) : Kept q (jigStageWrite s w j k v acc) := by
  unfold jigStageWrite
  repeat' first
    | with_reducible exact h
    | with_reducible assumption
    | with_reducible apply kept_regError
    | with_reducible apply kept_wr
    | with_reducible apply kept_wrs
    | with_reducible apply Kept.ite
    | simp only [kept_mk]
    | with_reducible apply Kept.parts
    | with_reducible refine Kept.foldl ?_ (fun _ _ _ => ?_)
    | split

theorem kept_execJigStageWrite {q : List Instr} {s : State} (h : Kept q s) (w j k v) : KeptOut q (execJigStageWrite w j k v s) := by
  unfold execJigStageWrite
  repeat' first
    | with_reducible exact h
    | with_reducible assumption
    | with_reducible exact KeptOut.refused
    | with_reducible apply KeptOut.ite
    | with_reducible apply KeptOut.next
    | with_reducible apply kept_jigStageWrite

theorem kept_jigCommit {q : List Instr} {s : State} (h : Kept q s) (w target acc) : Kept q (jigCommit s w target acc) := by
  unfold jigCommit
  repeat' first
    | with_reducible exact h
    | with_reducible assumption
    | with_reducible apply kept_regError
    | with_reducible apply kept_setJigStatus
    | with_reducible apply Kept.ite
    | simp only [kept_mk]
    | with_reducible apply Kept.parts

theorem kept_execJigCommit {q : List Instr} {s : State} (h : Kept q s) (w target) : KeptOut q (execJigCommit w target s) := by
  unfold execJigCommit
  repeat' first
    | with_reducible exact h
    | with_reducible assumption
    | with_reducible exact KeptOut.refused
    | with_reducible apply KeptOut.ite
    | with_reducible apply KeptOut.next
    | with_reducible apply kept_jigCommit

theorem kept_execJigValidationDone {q : List Instr} {s : State} (h : Kept q s) : KeptOut q (execJigValidationDone s) := by
  unfold execJigValidationDone
  repeat' first
    | with_reducible exact h
    | with_reducible assumption
    | with_reducible exact KeptOut.refused
    | with_reducible apply KeptOut.ite
    | with_reducible apply KeptOut.next
    | with_reducible apply kept_setJigStatus
    | with_reducible apply Kept.ite
    | simp only [kept_mk]
    | with_reducible apply Kept.parts
    | with_reducible refine Kept.foldl ?_ (fun _ _ _ => ?_)
    | split

theorem kept_execJigTableSwap {q : List Instr} {s : State} (h : Kept q s) : KeptOut q (execJigTableSwap s) := by
  unfold execJigTableSwap
  repeat' first
    | with_reducible exact h
    | with_reducible assumption
    | with_reducible exact KeptOut.refused
    | with_reducible apply KeptOut.ite
    | with_reducible apply KeptOut.next
    | with_reducible apply kept_setJigStatus
    | with_reducible apply kept_setBank
    | with_reducible apply Kept.ite
    | simp only [kept_mk]
    | with_reducible apply Kept.parts

theorem kept_execJigStageRefillDone {q : List Instr} {s : State} (h : Kept q s) : KeptOut q (execJigStageRefillDone s) := by
  unfold execJigStageRefillDone
  repeat' first
    | with_reducible exact h
    | with_reducible assumption
    | with_reducible exact KeptOut.refused
    | with_reducible apply KeptOut.ite
    | with_reducible apply KeptOut.next
    | with_reducible apply kept_setJigStatus
    | with_reducible apply kept_setBank
    | with_reducible apply Kept.ite

end Sys2Proof.Machine
end

