-- ==== Sys2Proof/Laws/KeptLanes.lean ====
section
/-!
SUPPORT. Laws/KeptLanes.lean: the operations of Machine/Lanes.lean keep the canonical form of every store and the queue.
-/
namespace Sys2Proof.Machine
open Sys2Proof

theorem kept_enterTest {q : List Instr} {s : State} (h : Kept q s) (x1) : Kept q (enterTest s x1) := by
  unfold enterTest
  repeat' first
    | with_reducible exact h
    | with_reducible assumption
    | with_reducible apply kept_wr
    | with_reducible apply kept_setLaneState
    | with_reducible apply kept_setLane
    | with_reducible apply kept_setLink
    | with_reducible apply Kept.ite
    | simp only
    | with_reducible apply Kept.parts
    | with_reducible refine Kept.foldl ?_ (fun _ _ _ => ?_)

theorem kept_enterTraining {q : List Instr} {s : State} (h : Kept q s) (x1 sig) : Kept q (enterTraining s x1 sig) := by
  unfold enterTraining
  repeat' first
    | with_reducible exact h
    | with_reducible assumption
    | with_reducible apply kept_setLane
    | with_reducible apply kept_wr
    | with_reducible apply kept_setLaneState
    | with_reducible apply kept_sendMarkers
    | with_reducible apply kept_setLink
    | with_reducible apply Kept.ite
    | simp only
    | with_reducible apply Kept.parts
    | with_reducible refine Kept.foldl ?_ (fun _ _ _ => ?_)

theorem kept_tryTrain {q : List Instr} {s : State} (h : Kept q s) (x1 mask) : Kept q (tryTrain s x1 mask) := by
  unfold tryTrain
  repeat' first
    | with_reducible exact h
    | with_reducible assumption
    | with_reducible apply kept_enterTest
    | with_reducible apply kept_enterTraining
    | with_reducible apply Kept.ite

theorem kept_execLinkTrainingStart {q : List Instr} {s : State} (h : Kept q s) (x0 mask) : KeptOut q (execLinkTrainingStart x0 mask s) := by
  unfold execLinkTrainingStart
  repeat' first
    | with_reducible exact h
    | with_reducible assumption
    | with_reducible exact KeptOut.refused
    | with_reducible apply KeptOut.ite
    | with_reducible apply KeptOut.next
    | with_reducible apply kept_tryTrain

theorem kept_execLinkRetryTimer {q : List Instr} {s : State} (h : Kept q s) (x0 mask) : KeptOut q (execLinkRetryTimer x0 s mask) := by
  unfold execLinkRetryTimer
  repeat' first
    | with_reducible exact h
    | with_reducible assumption
    | with_reducible exact KeptOut.refused
    | with_reducible apply KeptOut.ite
    | with_reducible apply KeptOut.next
    | with_reducible apply kept_tryTrain
    | with_reducible apply Kept.ite

theorem kept_execLinkTrained {q : List Instr} {s : State} (h : Kept q s) (x0 good) : KeptOut q (execLinkTrained x0 good s) := by
  unfold execLinkTrained
  repeat' first
    | with_reducible exact h
    | with_reducible assumption
    | with_reducible exact KeptOut.refused
    | with_reducible apply KeptOut.ite
    | with_reducible apply KeptOut.next
    | with_reducible apply kept_setLaneState
    | with_reducible apply kept_applySet
    | with_reducible apply kept_wrs
    | with_reducible apply kept_setLink
    | with_reducible apply kept_takeFree
    | with_reducible apply Kept.ite
    | simp only [kept_mk]
    | with_reducible apply Kept.parts
    | with_reducible refine Kept.foldl ?_ (fun _ _ _ => ?_)

theorem kept_execLinkTrainingTimeout {q : List Instr} {s : State} (h : Kept q s) (x0) : KeptOut q (execLinkTrainingTimeout x0 s) := by
  unfold execLinkTrainingTimeout
  repeat' first
    | with_reducible exact h
    | with_reducible assumption
    | with_reducible exact KeptOut.refused
    | with_reducible apply KeptOut.ite
    | with_reducible apply KeptOut.next
    | with_reducible apply kept_linkDown
    | with_reducible apply Kept.ite

theorem kept_laneRecord {q : List Instr} {s : State} (h : Kept q s) (p l cause outcome) : Kept q (laneRecord s p l cause outcome) := by
  unfold laneRecord
  repeat' first | with_reducible exact h | with_reducible assumption | with_reducible apply kept_report

theorem kept_lanesChanged {q : List Instr} {s : State} (h : Kept q s) (p x2) : Kept q (lanesChanged s p x2) := by
  unfold lanesChanged
  repeat' first
    | with_reducible exact h
    | with_reducible assumption
    | with_reducible apply kept_linkDown
    | with_reducible apply kept_wantWidth
    | with_reducible apply kept_permanentFault
    | with_reducible apply Kept.ite

theorem kept_retireLane {q : List Instr} {s : State} (h : Kept q s) (p l cause) : Kept q (retireLane s p l cause) := by
  unfold retireLane
  repeat' first
    | with_reducible exact h
    | with_reducible assumption
    | with_reducible apply kept_wr
    | with_reducible apply kept_setLaneState
    | with_reducible apply kept_setLane
    | with_reducible apply kept_lanesChanged
    | with_reducible apply kept_laneRecord

theorem kept_laneRetrain {q : List Instr} {s : State} (h : Kept q s) (p l) : Kept q (laneRetrain s p l) := by
  unfold laneRetrain
  repeat' first
    | with_reducible exact h
    | with_reducible assumption
    | with_reducible apply kept_setLane
    | with_reducible apply kept_wrs
    | with_reducible apply kept_laneRecord

theorem kept_laneFault {q : List Instr} {s : State} (h : Kept q s) (p l cause) : Kept q (laneFault s p l cause) := by
  unfold laneFault
  repeat' first
    | with_reducible exact h
    | with_reducible assumption
    | with_reducible apply kept_wr
    | with_reducible apply kept_setLane
    | with_reducible apply kept_wantWidth
    | with_reducible apply kept_laneRetrain
    | with_reducible apply Kept.ite

theorem kept_lanesTrip {q : List Instr} {s : State} (h : Kept q s) (p los lol) : Kept q (lanesTrip s p los lol) := by
  unfold lanesTrip
  repeat' first
    | with_reducible exact h
    | with_reducible assumption
    | with_reducible apply kept_wr
    | with_reducible apply kept_cnt
    | with_reducible apply Kept.ite
    | simp only
    | with_reducible apply Kept.parts
    | with_reducible refine Kept.foldl ?_ (fun _ _ _ => ?_)

theorem kept_laneLos {q : List Instr} {s : State} (h : Kept q s) (p l) : Kept q (laneLos s p l) := by
  unfold laneLos
  repeat' first | with_reducible exact h | with_reducible assumption | with_reducible apply kept_laneFault | with_reducible apply kept_lanesTrip

theorem kept_laneLol {q : List Instr} {s : State} (h : Kept q s) (p l) : Kept q (laneLol s p l) := by
  unfold laneLol
  repeat' first | with_reducible exact h | with_reducible assumption | with_reducible apply kept_laneFault | with_reducible apply kept_lanesTrip

theorem kept_execLaneLos {q : List Instr} {s : State} (h : Kept q s) (p l trips) : KeptOut q (execLaneLos p l s trips) := by
  unfold execLaneLos
  repeat' first
    | with_reducible exact h
    | with_reducible assumption
    | with_reducible exact KeptOut.refused
    | with_reducible apply KeptOut.ite
    | with_reducible apply KeptOut.next
    | with_reducible apply kept_laneLos
    | with_reducible apply kept_wr
    | with_reducible apply Kept.ite

theorem kept_execLaneLol {q : List Instr} {s : State} (h : Kept q s) (p l trips) : KeptOut q (execLaneLol p l s trips) := by
  unfold execLaneLol
  repeat' first
    | with_reducible exact h
    | with_reducible assumption
    | with_reducible exact KeptOut.refused
    | with_reducible apply KeptOut.ite
    | with_reducible apply KeptOut.next
    | with_reducible apply kept_laneLol
    | with_reducible apply kept_wr
    | with_reducible apply Kept.ite

theorem kept_execLaneUcw {q : List Instr} {s : State} (h : Kept q s) (p l) : KeptOut q (execLaneUcw p l s) := by
  unfold execLaneUcw
  repeat' first
    | with_reducible exact h
    | with_reducible assumption
    | with_reducible exact KeptOut.refused
    | with_reducible apply KeptOut.ite
    | with_reducible apply KeptOut.next
    | with_reducible apply kept_cnt
    | with_reducible apply kept_setLane
    | with_reducible apply kept_laneFault
    | with_reducible apply Kept.ite

theorem kept_execLaneSerWindow {q : List Instr} {s : State} (h : Kept q s) (p l corrected received wrong) : KeptOut q (execLaneSerWindow p l corrected received s wrong) := by
  unfold execLaneSerWindow
  repeat' first
    | with_reducible exact h
    | with_reducible assumption
    | with_reducible exact KeptOut.refused
    | with_reducible apply KeptOut.ite
    | with_reducible apply KeptOut.next
    | with_reducible apply kept_cnt
    | with_reducible apply kept_setLane
    | with_reducible apply kept_retireLane
    | with_reducible apply Kept.ite

theorem kept_execLaneRetrainDone {q : List Instr} {s : State} (h : Kept q s) (p l) : KeptOut q (execLaneRetrainDone p l s) := by
  unfold execLaneRetrainDone
  repeat' first
    | with_reducible exact h
    | with_reducible assumption
    | with_reducible exact KeptOut.refused
    | with_reducible apply KeptOut.ite
    | with_reducible apply KeptOut.next
    | with_reducible apply kept_setLane
    | with_reducible apply kept_wrs
    | with_reducible apply kept_wantWidth
    | with_reducible apply Kept.ite

theorem kept_execLaneRetrainFail {q : List Instr} {s : State} (h : Kept q s) (p l) : KeptOut q (execLaneRetrainFail p l s) := by
  unfold execLaneRetrainFail
  repeat' first
    | with_reducible exact h
    | with_reducible assumption
    | with_reducible exact KeptOut.refused
    | with_reducible apply KeptOut.ite
    | with_reducible apply KeptOut.next
    | with_reducible apply kept_retireLane
    | with_reducible apply Kept.ite
    | simp only [kept_mk]
    | with_reducible apply Kept.parts
    | with_reducible refine Kept.foldl ?_ (fun _ _ _ => ?_)
    | split

theorem kept_execLaneRetrainLimit {q : List Instr} {s : State} (h : Kept q s) (p l) : KeptOut q (execLaneRetrainLimit p l s) := by
  unfold execLaneRetrainLimit
  repeat' first
    | with_reducible exact h
    | with_reducible assumption
    | with_reducible exact KeptOut.refused
    | with_reducible apply KeptOut.ite
    | with_reducible apply KeptOut.next
    | with_reducible apply kept_wr
    | with_reducible apply kept_retireLane
    | with_reducible apply Kept.ite

theorem kept_laneRetire {q : List Instr} {s : State} (h : Kept q s) (w p l acc) : Kept q (laneRetire s w p l acc) := by
  unfold laneRetire
  repeat' first
    | with_reducible exact h
    | with_reducible assumption
    | with_reducible apply kept_retireLane
    | with_reducible apply kept_regError
    | with_reducible apply Kept.ite

theorem kept_laneReinstate {q : List Instr} {s : State} (h : Kept q s) (w p l acc) : Kept q (laneReinstate s w p l acc) := by
  unfold laneReinstate
  repeat' first
    | with_reducible exact h
    | with_reducible assumption
    | with_reducible apply kept_setLane
    | with_reducible apply kept_wr
    | with_reducible apply kept_setLaneState
    | with_reducible apply kept_regError
    | with_reducible apply Kept.ite

theorem kept_execLaneRetire {q : List Instr} {s : State} (h : Kept q s) (w p l) : KeptOut q (execLaneRetire w p l s) := by
  unfold execLaneRetire
  repeat' first
    | with_reducible exact h
    | with_reducible assumption
    | with_reducible exact KeptOut.refused
    | with_reducible apply KeptOut.ite
    | with_reducible apply KeptOut.next
    | with_reducible apply kept_laneRetire

theorem kept_execLaneReinstate {q : List Instr} {s : State} (h : Kept q s) (w p l) : KeptOut q (execLaneReinstate w p l s) := by
  unfold execLaneReinstate
  repeat' first
    | with_reducible exact h
    | with_reducible assumption
    | with_reducible exact KeptOut.refused
    | with_reducible apply KeptOut.ite
    | with_reducible apply KeptOut.next
    | with_reducible apply kept_laneReinstate

theorem kept_execLinkSignalLoss {q : List Instr} {s : State} (h : Kept q s) (x0 los) : KeptOut q (execLinkSignalLoss x0 s los) := by
  unfold execLinkSignalLoss
  repeat' first
    | with_reducible exact h
    | with_reducible assumption
    | with_reducible exact KeptOut.refused
    | with_reducible apply KeptOut.ite
    | with_reducible apply KeptOut.next
    | with_reducible apply kept_linkDown
    | with_reducible apply kept_lanesTrip
    | with_reducible apply Kept.ite

theorem kept_execAlignmentMarker {q : List Instr} {s : State} (h : Kept q s) (p l idx port sender skew) : KeptOut q (execAlignmentMarker p l idx port sender skew s) := by
  unfold execAlignmentMarker
  repeat' first
    | with_reducible exact h
    | with_reducible assumption
    | with_reducible exact KeptOut.refused
    | with_reducible apply KeptOut.ite
    | with_reducible apply KeptOut.next
    | with_reducible apply kept_wr
    | with_reducible apply kept_setLane
    | with_reducible apply kept_retireLane
    | with_reducible apply Kept.ite

theorem kept_execLcbEmpty {q : List Instr} {s : State} (h : Kept q s) (x0 x1) : KeptOut q (execLcbEmpty x0 x1 s) := by
  unfold execLcbEmpty
  repeat' first
    | with_reducible exact h
    | with_reducible assumption
    | with_reducible exact KeptOut.refused
    | with_reducible apply KeptOut.ite
    | with_reducible apply KeptOut.next

theorem kept_execLcbWidthReq {q : List Instr} {s : State} (h : Kept q s) (x0 lcb) : KeptOut q (execLcbWidthReq x0 lcb s) := by
  unfold execLcbWidthReq
  repeat' first
    | with_reducible exact h
    | with_reducible assumption
    | with_reducible exact KeptOut.refused
    | with_reducible apply KeptOut.ite
    | with_reducible apply KeptOut.next
    | with_reducible apply kept_setLink
    | with_reducible apply kept_sendLcb
    | with_reducible apply Kept.ite

theorem kept_execLcbWidthAck {q : List Instr} {s : State} (h : Kept q s) (x0 lcb) : KeptOut q (execLcbWidthAck x0 lcb s) := by
  unfold execLcbWidthAck
  repeat' first
    | with_reducible exact h
    | with_reducible assumption
    | with_reducible exact KeptOut.refused
    | with_reducible apply KeptOut.ite
    | with_reducible apply KeptOut.next
    | with_reducible apply kept_setLink
    | with_reducible apply Kept.ite
    | simp only [kept_mk]
    | with_reducible apply Kept.parts
    | with_reducible refine Kept.foldl ?_ (fun _ _ _ => ?_)
    | split

theorem kept_execWidthReqTimeout {q : List Instr} {s : State} (h : Kept q s) (x0) : KeptOut q (execWidthReqTimeout x0 s) := by
  unfold execWidthReqTimeout
  repeat' first
    | with_reducible exact h
    | with_reducible assumption
    | with_reducible exact KeptOut.refused
    | with_reducible apply KeptOut.ite
    | with_reducible apply KeptOut.next
    | with_reducible apply kept_linkDown
    | with_reducible apply kept_setLink
    | with_reducible apply kept_sendWidthReq
    | with_reducible apply Kept.ite
    | simp only
    | with_reducible apply Kept.parts
    | with_reducible refine Kept.foldl ?_ (fun _ _ _ => ?_)
    | split

theorem kept_execWidthChange {q : List Instr} {s : State} (h : Kept q s) (x0) : KeptOut q (execWidthChange x0 s) := by
  unfold execWidthChange
  repeat' first
    | with_reducible exact h
    | with_reducible assumption
    | with_reducible exact KeptOut.refused
    | with_reducible apply KeptOut.ite
    | with_reducible apply KeptOut.next
    | with_reducible apply kept_setLink
    | with_reducible apply Kept.ite
    | simp only [kept_mk]
    | with_reducible apply Kept.parts
    | with_reducible refine Kept.foldl ?_ (fun _ _ _ => ?_)
    | split

theorem kept_execWidthChangeResume {q : List Instr} {s : State} (h : Kept q s) (x0) : KeptOut q (execWidthChangeResume x0 s) := by
  unfold execWidthChangeResume
  repeat' first
    | with_reducible exact h
    | with_reducible assumption
    | with_reducible exact KeptOut.refused
    | with_reducible apply KeptOut.ite
    | with_reducible apply KeptOut.next
    | with_reducible apply kept_applySet
    | with_reducible apply kept_sendMarkers
    | with_reducible apply kept_setLink
    | with_reducible apply kept_laneRetrain
    | with_reducible apply kept_wantWidth
    | with_reducible apply Kept.ite
    | simp only [kept_mk]
    | with_reducible apply Kept.parts
    | with_reducible refine Kept.foldl ?_ (fun _ _ _ => ?_)
    | split

theorem kept_eyeStart {q : List Instr} {s : State} (h : Kept q s) (p) : Kept q (eyeStart s p) := by
  unfold eyeStart
  repeat' first
    | with_reducible exact h
    | with_reducible assumption
    | with_reducible apply kept_wr
    | with_reducible apply kept_wrs
    | with_reducible apply Kept.ite
    | simp only [kept_mk]
    | with_reducible apply Kept.parts

theorem kept_execEyeScanStart {q : List Instr} {s : State} (h : Kept q s) (k) : KeptOut q (execEyeScanStart k s) := by
  unfold execEyeScanStart
  repeat' first
    | with_reducible exact h
    | with_reducible assumption
    | with_reducible exact KeptOut.refused
    | with_reducible apply KeptOut.ite
    | with_reducible apply KeptOut.next
    | with_reducible apply kept_eyeStart

theorem kept_execEyeScanDone {q : List Instr} {s : State} (h : Kept q s) (k errors) : KeptOut q (execEyeScanDone k errors s) := by
  unfold execEyeScanDone
  repeat' first
    | with_reducible exact h
    | with_reducible assumption
    | with_reducible exact KeptOut.refused
    | with_reducible apply KeptOut.ite
    | with_reducible apply KeptOut.next
    | with_reducible apply kept_wrs
    | with_reducible apply Kept.ite
    | simp only [kept_mk]
    | with_reducible apply Kept.parts

theorem kept_cmisSelect {q : List Instr} {s : State} (h : Kept q s) (c on) : Kept q (cmisSelect s c on) := by
  unfold cmisSelect
  repeat' first | with_reducible exact h | with_reducible assumption | with_reducible apply kept_emitOut

theorem kept_cmisOut {q : List Instr} {s : State} (h : Kept q s) (x1 step arg) : Kept q (cmisOut s x1 step arg) := by
  unfold cmisOut
  repeat' first | with_reducible exact h | with_reducible assumption | with_reducible apply kept_cmisSelect | with_reducible apply kept_emitOut

theorem kept_cmisStep {q : List Instr} {s : State} (h : Kept q s) (x1 k) : Kept q (cmisStep s x1 k) := by
  unfold cmisStep
  repeat' first | with_reducible exact h | with_reducible assumption | with_reducible apply kept_setLink

theorem kept_cmisFails {q : List Instr} {s : State} (h : Kept q s) (x1) : Kept q (cmisFails s x1) := by
  unfold cmisFails
  repeat' first
    | with_reducible exact h
    | with_reducible assumption
    | with_reducible apply kept_wr
    | with_reducible apply kept_setLink
    | with_reducible apply kept_report

theorem kept_execCmisModuleInit {q : List Instr} {s : State} (h : Kept q s) (x0) : KeptOut q (execCmisModuleInit x0 s) := by
  unfold execCmisModuleInit
  repeat' first
    | with_reducible exact h
    | with_reducible assumption
    | with_reducible exact KeptOut.refused
    | with_reducible apply KeptOut.ite
    | with_reducible apply KeptOut.next
    | with_reducible apply kept_cmisOut
    | with_reducible apply kept_cmisStep
    | with_reducible apply Kept.ite

theorem kept_execCmisModuleReady {q : List Instr} {s : State} (h : Kept q s) (x0 code app rev) : KeptOut q (execCmisModuleReady x0 code app s rev) := by
  unfold execCmisModuleReady
  repeat' first
    | with_reducible exact h
    | with_reducible assumption
    | with_reducible exact KeptOut.refused
    | with_reducible apply KeptOut.ite
    | with_reducible apply KeptOut.next
    | with_reducible apply kept_cmisFails
    | with_reducible apply kept_wrs
    | with_reducible apply kept_cmisOut
    | with_reducible apply kept_cmisStep
    | with_reducible apply Kept.ite

theorem kept_execCmisDatapathActivated {q : List Instr} {s : State} (h : Kept q s) (x0) : KeptOut q (execCmisDatapathActivated x0 s) := by
  unfold execCmisDatapathActivated
  repeat' first
    | with_reducible exact h
    | with_reducible assumption
    | with_reducible exact KeptOut.refused
    | with_reducible apply KeptOut.ite
    | with_reducible apply KeptOut.next
    | with_reducible apply kept_cmisStep
    | with_reducible apply Kept.ite

theorem kept_execCmisStepTimeout {q : List Instr} {s : State} (h : Kept q s) (x0) : KeptOut q (execCmisStepTimeout x0 s) := by
  unfold execCmisStepTimeout
  repeat' first
    | with_reducible exact h
    | with_reducible assumption
    | with_reducible exact KeptOut.refused
    | with_reducible apply KeptOut.ite
    | with_reducible apply KeptOut.next
    | with_reducible apply kept_cmisFails
    | with_reducible apply Kept.ite

theorem kept_mediaLost {q : List Instr} {s : State} (h : Kept q s) (p) : Kept q (mediaLost s p) := by
  unfold mediaLost
  repeat' first
    | with_reducible exact h
    | with_reducible assumption
    | with_reducible apply kept_lanesTrip
    | with_reducible apply kept_linkDown
    | with_reducible apply Kept.ite
    | simp only
    | with_reducible apply Kept.parts
    | with_reducible refine Kept.foldl ?_ (fun _ _ _ => ?_)

theorem kept_mediaFlags {q : List Instr} {s : State} (h : Kept q s) (p los lol) : Kept q (mediaFlags s p los lol) := by
  unfold mediaFlags
  repeat' first
    | with_reducible exact h
    | with_reducible assumption
    | with_reducible apply kept_linkDown
    | with_reducible apply kept_lanesTrip
    | with_reducible apply kept_laneLol
    | with_reducible apply kept_laneLos
    | with_reducible apply Kept.ite
    | simp only
    | with_reducible apply Kept.parts
    | with_reducible refine Kept.foldl ?_ (fun _ _ _ => ?_)

theorem kept_execCmisPoll {q : List Instr} {s : State} (h : Kept q s) (p ok code fault alarm warning temp los lol) : KeptOut q (execCmisPoll p ok code fault alarm warning temp los lol s) := by
  unfold execCmisPoll
  repeat' first
    | with_reducible exact h
    | with_reducible assumption
    | with_reducible exact KeptOut.refused
    | with_reducible apply KeptOut.ite
    | with_reducible apply KeptOut.next
    | with_reducible apply kept_wrs
    | with_reducible apply kept_mediaLost
    | with_reducible apply kept_mediaFlags
    | with_reducible apply kept_wr
    | with_reducible apply kept_cnt
    | with_reducible apply Kept.ite
    | simp only [kept_mk]
    | with_reducible apply Kept.parts

end Sys2Proof.Machine
end

