-- ==== Sys2Proof/Laws/KeptFunctions.lean ====
section
/-!
SUPPORT. Laws/KeptFunctions.lean: the operations of Machine/Functions.lean keep the canonical form of every store and the queue.
-/
namespace Sys2Proof.Machine
open Sys2Proof

theorem kept_startFn {q : List Instr} {s : State} (h : Kept q s) (n img) : Kept q (startFn s n img) := by
  unfold startFn
  repeat' first
    | with_reducible exact h
    | with_reducible assumption
    | with_reducible apply kept_setResult
    | with_reducible apply kept_cnt
    | with_reducible apply kept_decideClaims
    | with_reducible apply kept_setFn
    | with_reducible apply kept_cellsDryFit
    | with_reducible apply kept_extStart
    | with_reducible apply kept_wr
    | with_reducible apply Kept.ite
    | simp only [kept_mk]
    | with_reducible apply Kept.parts
    | with_reducible refine Kept.foldl ?_ (fun _ _ _ => ?_)
    | split

theorem kept_abandon {q : List Instr} {s : State} (h : Kept q s) (n) : Kept q (abandon s n) := by
  unfold abandon
  repeat' first
    | with_reducible exact h
    | with_reducible assumption
    | with_reducible apply kept_setResult
    | with_reducible apply kept_fnRelease
    | with_reducible apply kept_setFn
    | with_reducible apply kept_cellsOff
    | with_reducible apply Kept.ite

theorem kept_backToStopped {q : List Instr} {s : State} (h : Kept q s) (n) : Kept q (backToStopped s n) := by
  unfold backToStopped
  repeat' first
    | with_reducible exact h
    | with_reducible assumption
    | with_reducible apply kept_setFn
    | with_reducible apply kept_cellsOff
    | with_reducible apply Kept.ite

theorem kept_cmdEffect {q : List Instr} {s : State} (h : Kept q s) (n cmd img) : KeptOpt q (cmdEffect s n cmd img) := by
  unfold cmdEffect
  repeat' first
    | with_reducible exact h
    | with_reducible assumption
    | with_reducible exact KeptOpt.none
    | with_reducible apply KeptOpt.ite
    | with_reducible apply KeptOpt.some
    | with_reducible apply kept_startFn
    | with_reducible apply kept_abandon
    | with_reducible apply kept_stopFn
    | with_reducible apply kept_backToStopped
    | with_reducible apply kept_retireFn
    | with_reducible apply Kept.ite
    | simp only
    | with_reducible apply Kept.parts
    | with_reducible refine Kept.foldl ?_ (fun _ _ _ => ?_)
    | split

theorem kept_rejectCmd {q : List Instr} {s : State} (h : Kept q s) (n) : Kept q (rejectCmd s n) := by
  unfold rejectCmd
  repeat' first | with_reducible exact h | with_reducible assumption | with_reducible apply kept_wr

theorem kept_funcCmd {q : List Instr} {s : State} (h : Kept q s) (w n cmd seq img) : Kept q (funcCmd s w n cmd seq img) := by
  unfold funcCmd
  repeat' first
    | with_reducible exact h
    | with_reducible assumption
    | with_reducible apply kept_regError
    | with_reducible apply kept_rejectCmd
    | with_reducible apply kept_cmdEffect
    | with_reducible apply kept_wr
    | with_reducible apply kept_trace
    | with_reducible apply Kept.ite
    | simp only [kept_mk]
    | with_reducible apply Kept.parts
    | with_reducible refine Kept.foldl ?_ (fun _ _ _ => ?_)
    | split
    | with_reducible apply Kept.getD
    | with_reducible apply Kept.snd
    | with_reducible apply Kept.fst
    | refine Kept.sndOf (by assumption) ?_
    | refine Kept.fstOf (by assumption) ?_
    | refine Kept.optOf (by assumption) ?_

theorem kept_execFuncCmdNone {q : List Instr} {s : State} (h : Kept q s) (w n seq) : KeptOut q (execFuncCmdNone w n seq s) := by
  unfold execFuncCmdNone
  repeat' first
    | with_reducible exact h
    | with_reducible assumption
    | with_reducible exact KeptOut.refused
    | with_reducible apply KeptOut.ite
    | with_reducible apply KeptOut.next
    | with_reducible apply kept_funcCmd

theorem kept_execFuncStart {q : List Instr} {s : State} (h : Kept q s) (w n seq img) : KeptOut q (execFuncStart w n seq img s) := by
  unfold execFuncStart
  repeat' first
    | with_reducible exact h
    | with_reducible assumption
    | with_reducible exact KeptOut.refused
    | with_reducible apply KeptOut.ite
    | with_reducible apply KeptOut.next
    | with_reducible apply kept_funcCmd

theorem kept_execFuncStop {q : List Instr} {s : State} (h : Kept q s) (w n seq) : KeptOut q (execFuncStop w n seq s) := by
  unfold execFuncStop
  repeat' first
    | with_reducible exact h
    | with_reducible assumption
    | with_reducible exact KeptOut.refused
    | with_reducible apply KeptOut.ite
    | with_reducible apply KeptOut.next
    | with_reducible apply kept_funcCmd

theorem kept_execFuncAckHost {q : List Instr} {s : State} (h : Kept q s) (w n seq) : KeptOut q (execFuncAckHost w n seq s) := by
  unfold execFuncAckHost
  repeat' first
    | with_reducible exact h
    | with_reducible assumption
    | with_reducible exact KeptOut.refused
    | with_reducible apply KeptOut.ite
    | with_reducible apply KeptOut.next
    | with_reducible apply kept_funcCmd

theorem kept_execFuncRetire {q : List Instr} {s : State} (h : Kept q s) (w n seq) : KeptOut q (execFuncRetire w n seq s) := by
  unfold execFuncRetire
  repeat' first
    | with_reducible exact h
    | with_reducible assumption
    | with_reducible exact KeptOut.refused
    | with_reducible apply KeptOut.ite
    | with_reducible apply KeptOut.next
    | with_reducible apply kept_funcCmd

theorem kept_execFuncReinstate {q : List Instr} {s : State} (h : Kept q s) (w n seq) : KeptOut q (execFuncReinstate w n seq s) := by
  unfold execFuncReinstate
  repeat' first
    | with_reducible exact h
    | with_reducible assumption
    | with_reducible exact KeptOut.refused
    | with_reducible apply KeptOut.ite
    | with_reducible apply KeptOut.next
    | with_reducible apply kept_funcCmd

theorem kept_execDryFitComplete {q : List Instr} {s : State} (h : Kept q s) (n hw bad a) : KeptOut q (execDryFitComplete n hw bad a s) := by
  unfold execDryFitComplete
  repeat' first
    | with_reducible exact h
    | with_reducible assumption
    | with_reducible exact KeptOut.refused
    | with_reducible apply KeptOut.ite
    | with_reducible apply KeptOut.next
    | with_reducible apply kept_dryFit
    | with_reducible apply Kept.ite

theorem kept_execDryFitTimeout {q : List Instr} {s : State} (h : Kept q s) (n) : KeptOut q (execDryFitTimeout n s) := by
  unfold execDryFitTimeout
  repeat' first
    | with_reducible exact h
    | with_reducible assumption
    | with_reducible exact KeptOut.refused
    | with_reducible apply KeptOut.ite
    | with_reducible apply KeptOut.next
    | with_reducible apply kept_dryFitFails
    | with_reducible apply Kept.ite

theorem kept_execStopDrainComplete {q : List Instr} {s : State} (h : Kept q s) (n) : KeptOut q (execStopDrainComplete n s) := by
  unfold execStopDrainComplete
  repeat' first
    | with_reducible exact h
    | with_reducible assumption
    | with_reducible exact KeptOut.refused
    | with_reducible apply KeptOut.ite
    | with_reducible apply KeptOut.next
    | with_reducible apply kept_reachStopped
    | with_reducible apply Kept.ite

theorem kept_execStopDrainLimit {q : List Instr} {s : State} (h : Kept q s) (n) : KeptOut q (execStopDrainLimit n s) := by
  unfold execStopDrainLimit
  repeat' first
    | with_reducible exact h
    | with_reducible assumption
    | with_reducible exact KeptOut.refused
    | with_reducible apply KeptOut.ite
    | with_reducible apply KeptOut.next
    | with_reducible apply kept_reachStopped
    | with_reducible apply kept_wr
    | with_reducible apply kept_flushFn
    | with_reducible apply Kept.ite

theorem kept_execFuncPermanentFault {q : List Instr} {s : State} (h : Kept q s) (n) : KeptOut q (execFuncPermanentFault n s) := by
  unfold execFuncPermanentFault
  repeat' first
    | with_reducible exact h
    | with_reducible assumption
    | with_reducible exact KeptOut.refused
    | with_reducible apply KeptOut.ite
    | with_reducible apply KeptOut.next
    | with_reducible apply kept_permanentFault

end Sys2Proof.Machine
end

