-- ==== Sys2Proof/Laws/KeptFailure.lean ====
section
/-!
SUPPORT. Laws/KeptFailure.lean: the operations of Machine/Failure.lean keep the canonical form of every store and the queue.
-/
namespace Sys2Proof.Machine
open Sys2Proof

theorem kept_setPc {q : List Instr} {s : State} (h : Kept q s) (i r) : Kept q (setPc s i r) := by
  unfold setPc
  repeat' first
    | with_reducible exact h
    | with_reducible assumption
    | with_reducible apply Kept.ite
    | simp only [kept_mk]
    | with_reducible apply Kept.parts

theorem kept_setPcState {q : List Instr} {s : State} (h : Kept q s) (i st) : Kept q (setPcState s i st) := by
  unfold setPcState
  repeat' first | with_reducible exact h | with_reducible assumption | with_reducible apply kept_wr

theorem kept_hbmRecord {q : List Instr} {s : State} (h : Kept q s) (i cause outcome detB) : Kept q (hbmRecord s i cause outcome detB) := by
  unfold hbmRecord
  repeat' first | with_reducible exact h | with_reducible assumption | with_reducible apply kept_report

theorem kept_pcCounts {q : List Instr} {s : State} (h : Kept q s) (i) : Kept q (pcCounts s i) := by
  unfold pcCounts
  repeat' first | with_reducible exact h | with_reducible assumption | with_reducible apply kept_wrs | with_reducible apply kept_setPc

theorem kept_reserveLeft {q : List Instr} {s : State} (h : Kept q s) : Kept q (reserveLeft s) := by
  unfold reserveLeft
  repeat' first
    | with_reducible exact h
    | with_reducible assumption
    | with_reducible apply kept_wr
    | with_reducible apply Kept.ite
    | simp only
    | with_reducible apply Kept.parts
    | with_reducible refine Kept.foldl ?_ (fun _ _ _ => ?_)

theorem kept_retiredPcs {q : List Instr} {s : State} (h : Kept q s) (m) : Kept q (retiredPcs s m) := by
  unfold retiredPcs
  repeat' first | with_reducible exact h | with_reducible assumption | with_reducible apply kept_wr

theorem kept_pcMigrate {q : List Instr} {s : State} (h : Kept q s) (i cause) : Kept q (pcMigrate s i cause) := by
  unfold pcMigrate
  repeat' first
    | with_reducible exact h
    | with_reducible assumption
    | with_reducible apply kept_wr
    | with_reducible apply kept_permanentFault
    | with_reducible apply kept_hbmRecord
    | with_reducible apply kept_wrs
    | with_reducible apply kept_reserveLeft
    | with_reducible apply kept_setPcState
    | with_reducible apply kept_setPc
    | with_reducible apply Kept.ite

theorem kept_pcNext {q : List Instr} {s : State} (h : Kept q s)  (k : Nat) : Kept q (pcNext s k) := by
  induction k generalizing s with
  | zero => exact h
  | succ k ih =>
    unfold pcNext
    repeat' first
      | with_reducible exact h
      | with_reducible assumption
      | with_reducible apply ih
      | with_reducible apply kept_pcMigrate
      | with_reducible apply Kept.ite
      | simp only [kept_mk]
      | with_reducible apply Kept.parts
      | with_reducible refine Kept.foldl ?_ (fun _ _ _ => ?_)
      | split

theorem kept_pcFault {q : List Instr} {s : State} (h : Kept q s) (i cause) : Kept q (pcFault s i cause) := by
  unfold pcFault
  repeat' first
    | with_reducible exact h
    | with_reducible assumption
    | with_reducible apply kept_pcNext
    | with_reducible apply Kept.ite
    | simp only [kept_mk]
    | with_reducible apply Kept.parts

theorem kept_execHbmUeReread {q : List Instr} {s : State} (h : Kept q s) (m k g good) : KeptOut q (execHbmUeReread m k g good s) := by
  unfold execHbmUeReread
  repeat' first
    | with_reducible exact h
    | with_reducible assumption
    | with_reducible exact KeptOut.refused
    | with_reducible apply KeptOut.ite
    | with_reducible apply KeptOut.next
    | with_reducible apply kept_cnt
    | with_reducible apply kept_hbmRecord
    | with_reducible apply kept_pcCounts
    | with_reducible apply kept_setPc
    | with_reducible apply Kept.ite
    | simp only [kept_mk]
    | with_reducible apply Kept.parts

theorem kept_execHbmUeLimit {q : List Instr} {s : State} (h : Kept q s) (m k) : KeptOut q (execHbmUeLimit m k s) := by
  unfold execHbmUeLimit
  repeat' first
    | with_reducible exact h
    | with_reducible assumption
    | with_reducible exact KeptOut.refused
    | with_reducible apply KeptOut.ite
    | with_reducible apply KeptOut.next
    | with_reducible apply kept_pcCounts
    | with_reducible apply kept_pcFault
    | with_reducible apply Kept.ite

theorem kept_execHbmCeLimit {q : List Instr} {s : State} (h : Kept q s) (m k) : KeptOut q (execHbmCeLimit m k s) := by
  unfold execHbmCeLimit
  repeat' first
    | with_reducible exact h
    | with_reducible assumption
    | with_reducible exact KeptOut.refused
    | with_reducible apply KeptOut.ite
    | with_reducible apply KeptOut.next
    | with_reducible apply kept_cnt
    | with_reducible apply kept_pcCounts
    | with_reducible apply kept_setPc
    | with_reducible apply kept_pcFault
    | with_reducible apply Kept.ite

theorem kept_execHbmInterfaceError {q : List Instr} {s : State} (h : Kept q s) (m k) : KeptOut q (execHbmInterfaceError m k s) := by
  unfold execHbmInterfaceError
  repeat' first
    | with_reducible exact h
    | with_reducible assumption
    | with_reducible exact KeptOut.refused
    | with_reducible apply KeptOut.ite
    | with_reducible apply KeptOut.next
    | with_reducible apply kept_hbmRecord
    | with_reducible apply kept_setPcState
    | with_reducible apply kept_setPc
    | with_reducible apply kept_cnt
    | with_reducible apply Kept.ite

theorem kept_execHbmRetrainDone {q : List Instr} {s : State} (h : Kept q s) (m k) : KeptOut q (execHbmRetrainDone m k s) := by
  unfold execHbmRetrainDone
  repeat' first
    | with_reducible exact h
    | with_reducible assumption
    | with_reducible exact KeptOut.refused
    | with_reducible apply KeptOut.ite
    | with_reducible apply KeptOut.next
    | with_reducible apply kept_setPcState
    | with_reducible apply Kept.ite

theorem kept_execHbmRetrainFail {q : List Instr} {s : State} (h : Kept q s) (m k) : KeptOut q (execHbmRetrainFail m k s) := by
  unfold execHbmRetrainFail
  repeat' first
    | with_reducible exact h
    | with_reducible assumption
    | with_reducible exact KeptOut.refused
    | with_reducible apply KeptOut.ite
    | with_reducible apply KeptOut.next
    | with_reducible apply kept_pcFault
    | with_reducible apply Kept.ite

theorem kept_pcRetire {q : List Instr} {s : State} (h : Kept q s) (w m k acc) : Kept q (pcRetire s w m k acc) := by
  unfold pcRetire
  repeat' first
    | with_reducible exact h
    | with_reducible assumption
    | with_reducible apply kept_pcFault
    | with_reducible apply kept_regError
    | with_reducible apply Kept.ite

theorem kept_execPcRetire {q : List Instr} {s : State} (h : Kept q s) (w m k) : KeptOut q (execPcRetire w m k s) := by
  unfold execPcRetire
  repeat' first
    | with_reducible exact h
    | with_reducible assumption
    | with_reducible exact KeptOut.refused
    | with_reducible apply KeptOut.ite
    | with_reducible apply KeptOut.next
    | with_reducible apply kept_pcRetire

theorem kept_execPcMigrationDone {q : List Instr} {s : State} (h : Kept q s) (m k) : KeptOut q (execPcMigrationDone m k s) := by
  unfold execPcMigrationDone
  repeat' first
    | with_reducible exact h
    | with_reducible assumption
    | with_reducible exact KeptOut.refused
    | with_reducible apply KeptOut.ite
    | with_reducible apply KeptOut.next
    | with_reducible apply kept_pcNext
    | with_reducible apply kept_retiredPcs
    | with_reducible apply kept_setPcState
    | with_reducible apply Kept.ite

theorem kept_pcReinstate {q : List Instr} {s : State} (h : Kept q s) (w m k acc) : Kept q (pcReinstate s w m k acc) := by
  unfold pcReinstate
  repeat' first
    | with_reducible exact h
    | with_reducible assumption
    | with_reducible apply kept_setPc
    | with_reducible apply kept_regError
    | with_reducible apply Kept.ite

theorem kept_execPcReinstate {q : List Instr} {s : State} (h : Kept q s) (w m k) : KeptOut q (execPcReinstate w m k s) := by
  unfold execPcReinstate
  repeat' first
    | with_reducible exact h
    | with_reducible assumption
    | with_reducible exact KeptOut.refused
    | with_reducible apply KeptOut.ite
    | with_reducible apply KeptOut.next
    | with_reducible apply kept_pcReinstate

theorem kept_execPcTestDone {q : List Instr} {s : State} (h : Kept q s) (m k pass) : KeptOut q (execPcTestDone m k pass s) := by
  unfold execPcTestDone
  repeat' first
    | with_reducible exact h
    | with_reducible assumption
    | with_reducible exact KeptOut.refused
    | with_reducible apply KeptOut.ite
    | with_reducible apply KeptOut.next
    | with_reducible apply kept_setPc
    | with_reducible apply kept_wrs
    | with_reducible apply kept_hbmRecord
    | with_reducible apply kept_reserveLeft
    | with_reducible apply kept_retiredPcs
    | with_reducible apply kept_setPcState
    | with_reducible apply kept_wr
    | with_reducible apply Kept.ite

theorem kept_stepBroadcast {q : List Instr} {s : State} (h : Kept q s) (tenant epoch) : Kept q (stepBroadcast s tenant epoch) := by
  unfold stepBroadcast
  repeat' first | with_reducible exact h | with_reducible assumption | with_reducible apply kept_inject

theorem kept_stepStatus {q : List Instr} {s : State} (h : Kept q s) : Kept q (stepStatus s) := by
  unfold stepStatus
  repeat' first | with_reducible exact h | with_reducible assumption | with_reducible apply kept_wr

theorem kept_stepCmd {q : List Instr} {s : State} (h : Kept q s) (w tenant epoch) : Kept q (stepCmd s w tenant epoch) := by
  unfold stepCmd
  repeat' first
    | with_reducible exact h
    | with_reducible assumption
    | with_reducible apply kept_regError
    | with_reducible apply kept_wr
    | with_reducible apply kept_stepStatus
    | with_reducible apply kept_report
    | with_reducible apply kept_stepBroadcast
    | with_reducible apply Kept.ite
    | simp only [kept_mk]
    | with_reducible apply Kept.parts

theorem kept_execStepCmd {q : List Instr} {s : State} (h : Kept q s) (w tenant epoch) : KeptOut q (execStepCmd w tenant epoch s) := by
  unfold execStepCmd
  repeat' first
    | with_reducible exact h
    | with_reducible assumption
    | with_reducible exact KeptOut.refused
    | with_reducible apply KeptOut.ite
    | with_reducible apply KeptOut.next
    | with_reducible apply kept_stepCmd

theorem kept_execStepRebroadcast {q : List Instr} {s : State} (h : Kept q s) : KeptOut q (execStepRebroadcast s) := by
  unfold execStepRebroadcast
  repeat' first
    | with_reducible exact h
    | with_reducible assumption
    | with_reducible exact KeptOut.refused
    | with_reducible apply KeptOut.ite
    | with_reducible apply KeptOut.next
    | with_reducible apply kept_stepBroadcast
    | with_reducible apply kept_stepStatus
    | with_reducible apply Kept.ite
    | simp only [kept_mk]
    | with_reducible apply Kept.parts
    | with_reducible refine Kept.foldl ?_ (fun _ _ _ => ?_)
    | split

theorem kept_d2dRecord {q : List Instr} {s : State} (h : Kept q s) (die cause outcome attempts) : Kept q (d2dRecord s die cause outcome attempts) := by
  unfold d2dRecord
  repeat' first | with_reducible exact h | with_reducible assumption | with_reducible apply kept_report

theorem kept_execD2dError {q : List Instr} {s : State} (h : Kept q s) (die) : KeptOut q (execD2dError die s) := by
  unfold execD2dError
  repeat' first
    | with_reducible exact h
    | with_reducible assumption
    | with_reducible exact KeptOut.refused
    | with_reducible apply KeptOut.ite
    | with_reducible apply KeptOut.next
    | with_reducible apply kept_d2dRecord
    | with_reducible apply Kept.ite
    | simp only [kept_mk]
    | with_reducible apply Kept.parts

theorem kept_dieLost {q : List Instr} {s : State} (h : Kept q s) (die) : Kept q (dieLost s die) := by
  unfold dieLost
  repeat' first
    | with_reducible exact h
    | with_reducible assumption
    | with_reducible apply kept_permanentFault
    | with_reducible apply kept_retireFn
    | with_reducible apply Kept.ite
    | simp only [kept_mk]
    | with_reducible apply Kept.parts
    | with_reducible refine Kept.foldl ?_ (fun _ _ _ => ?_)

theorem kept_execD2dRetrainEnd {q : List Instr} {s : State} (h : Kept q s) (die ok) : KeptOut q (execD2dRetrainEnd die ok s) := by
  unfold execD2dRetrainEnd
  repeat' first
    | with_reducible exact h
    | with_reducible assumption
    | with_reducible exact KeptOut.refused
    | with_reducible apply KeptOut.ite
    | with_reducible apply KeptOut.next
    | with_reducible apply kept_dieLost
    | with_reducible apply kept_d2dRecord
    | with_reducible apply Kept.ite
    | simp only [kept_mk]
    | with_reducible apply Kept.parts
    | with_reducible refine Kept.foldl ?_ (fun _ _ _ => ?_)
    | split

end Sys2Proof.Machine
end

