-- ==== Sys2Proof/Laws/KeptHostMem.lean ====
section
/-!
SUPPORT. Laws/KeptHostMem.lean: the operations of Machine/HostMem.lean keep the canonical form of every store and the queue.
-/
namespace Sys2Proof.Machine
open Sys2Proof

theorem kept_ringFault {q : List Instr} {s : State} (h : Kept q s) (c) : Kept q (ringFault s c) := by
  unfold ringFault
  repeat' first
    | with_reducible exact h
    | with_reducible assumption
    | with_reducible apply kept_ctxDisable
    | with_reducible apply kept_report
    | with_reducible apply Kept.ite

theorem kept_failDesc {q : List Instr} {s : State} (h : Kept q s) (i cc detail) : Kept q (failDesc s i cc detail) := by
  unfold failDesc
  repeat' first
    | with_reducible exact h
    | with_reducible assumption
    | with_reducible apply kept_setDesc
    | with_reducible apply kept_stepFault
    | with_reducible apply kept_takeFree
    | with_reducible apply Kept.ite
    | simp only
    | with_reducible apply Kept.parts
    | with_reducible refine Kept.foldl ?_ (fun _ _ _ => ?_)
    | split

theorem kept_failData {q : List Instr} {s : State} (h : Kept q s) (i cc detail) : Kept q (failData s i cc detail) := by
  unfold failData
  repeat' first
    | with_reducible exact h
    | with_reducible assumption
    | with_reducible apply kept_failDesc
    | with_reducible apply kept_advanceAll
    | with_reducible apply kept_startContribs
    | with_reducible apply Kept.ite
    | simp only [kept_mk]
    | with_reducible apply Kept.parts

theorem kept_opRefused {q : List Instr} {s : State} (h : Kept q s) (o cc detail) : Kept q (opRefused s o cc detail) := by
  unfold opRefused
  repeat' first
    | with_reducible exact h
    | with_reducible assumption
    | with_reducible apply kept_ringFault
    | with_reducible apply kept_failData
    | with_reducible apply kept_answer
    | with_reducible apply kept_sealNext
    | with_reducible apply kept_answerAtomic
    | with_reducible apply kept_ctrDenied
    | with_reducible apply kept_epOldEpoch
    | with_reducible apply kept_sigArrive
    | with_reducible apply Kept.ite
    | simp only
    | with_reducible apply Kept.parts
    | with_reducible refine Kept.foldl ?_ (fun _ _ _ => ?_)
    | split

theorem kept_xlateFail {q : List Instr} {s : State} (h : Kept q s) : Kept q (xlateFail s) := by
  unfold xlateFail
  repeat' first | with_reducible exact h | with_reducible assumption | with_reducible apply kept_cnt

theorem kept_atsOp {q : List Instr} {s : State} (h : Kept q s) (granted o) : Kept q (atsOp granted s o) := by
  unfold atsOp
  repeat' first
    | with_reducible exact h
    | with_reducible assumption
    | with_reducible apply kept_drainBehind
    | with_reducible apply kept_opGo
    | with_reducible apply kept_opRefused
    | with_reducible apply kept_xlateFail
    | with_reducible apply kept_hostDone
    | with_reducible apply Kept.ite

theorem kept_writeSent {q : List Instr} {s : State} (h : Kept q s) (w) : Kept q (writeSent s w) := by
  unfold writeSent
  repeat' first
    | with_reducible exact h
    | with_reducible assumption
    | with_reducible apply kept_eqMessage
    | with_reducible apply kept_settleResults
    | with_reducible apply Kept.ite

theorem kept_resultRefused {q : List Instr} {s : State} (h : Kept q s) (i) : Kept q (resultRefused s i) := by
  unfold resultRefused
  repeat' first
    | with_reducible exact h
    | with_reducible assumption
    | with_reducible apply kept_setDesc
    | with_reducible apply kept_startContribs
    | with_reducible apply Kept.ite
    | simp only [kept_mk]
    | with_reducible apply Kept.parts
    | with_reducible refine Kept.foldl ?_ (fun _ _ _ => ?_)
    | split

theorem kept_atsWrite {q : List Instr} {s : State} (h : Kept q s) (granted w) : Kept q (atsWrite granted s w) := by
  unfold atsWrite
  repeat' first
    | with_reducible exact h
    | with_reducible assumption
    | with_reducible apply kept_writeSent
    | with_reducible apply kept_dmaWrite
    | with_reducible apply kept_ringFault
    | with_reducible apply kept_xlateFail
    | with_reducible apply kept_resultRefused
    | with_reducible apply Kept.ite
    | simp only [kept_mk]
    | with_reducible apply Kept.parts

theorem kept_atcPut {q : List Instr} {s : State} (h : Kept q s) (t) : Kept q (atcPut s t) := by
  unfold atcPut
  repeat' first
    | with_reducible exact h
    | with_reducible assumption
    | with_reducible apply Kept.ite
    | simp only [kept_mk]
    | with_reducible apply Kept.parts

theorem kept_translated {q : List Instr} {s : State} (h : Kept q s) (e f va size pa r wr) : Kept q (translated s e f va size pa r wr) := by
  unfold translated
  repeat' first
    | with_reducible exact h
    | with_reducible assumption
    | with_reducible apply kept_atcPut
    | with_reducible apply kept_atsOp
    | with_reducible apply kept_atsWrite
    | with_reducible apply kept_hostNext
    | with_reducible apply kept_ringDrain
    | with_reducible apply kept_ringLose
    | with_reducible apply kept_xlateFail
    | with_reducible apply Kept.ite
    | simp only
    | with_reducible apply Kept.parts
    | with_reducible refine Kept.foldl ?_ (fun _ _ _ => ?_)

theorem kept_execAtsTranslationComplete {q : List Instr} {s : State} (h : Kept q s) (port func va size pa r wr) : KeptOut q (execAtsTranslationComplete port func va size pa r wr s) := by
  unfold execAtsTranslationComplete
  repeat' first
    | with_reducible exact h
    | with_reducible assumption
    | with_reducible exact KeptOut.refused
    | with_reducible apply KeptOut.ite
    | with_reducible apply KeptOut.next
    | with_reducible apply kept_translated
    | with_reducible apply Kept.ite

theorem kept_execAtsInvalidate {q : List Instr} {s : State} (h : Kept q s) (port func tag va size) : KeptOut q (execAtsInvalidate port func tag va size s) := by
  unfold execAtsInvalidate
  repeat' first
    | with_reducible exact h
    | with_reducible assumption
    | with_reducible exact KeptOut.refused
    | with_reducible apply KeptOut.ite
    | with_reducible apply KeptOut.next
    | with_reducible apply kept_cnt
    | with_reducible apply kept_emitOut
    | with_reducible apply Kept.ite
    | simp only [kept_mk]
    | with_reducible apply Kept.parts

theorem kept_putFetched {q : List Instr} {s : State} (h : Kept q s) (c x2 i d rc) : Kept q (putFetched s c x2 i d rc) := by
  unfold putFetched
  repeat' first
    | with_reducible exact h
    | with_reducible assumption
    | with_reducible apply Kept.ite
    | simp only [kept_mk]
    | with_reducible apply Kept.parts

theorem kept_descArrive {q : List Instr} {s : State} (h : Kept q s) (c x2 i data) : Kept q (descArrive s c x2 i data) := by
  unfold descArrive
  repeat' first
    | with_reducible exact h
    | with_reducible assumption
    | with_reducible apply kept_putFetched
    | with_reducible apply kept_setConf
    | with_reducible apply kept_freeNat
    | with_reducible apply kept_confFail
    | with_reducible apply Kept.ite
    | simp only
    | with_reducible apply Kept.parts
    | with_reducible refine Kept.foldl ?_ (fun _ _ _ => ?_)
    | split
    | with_reducible apply Kept.getD
    | with_reducible apply Kept.snd

theorem kept_segsArrive {q : List Instr} {s : State} (h : Kept q s) (c data) : Kept q (segsArrive s c data) := by
  unfold segsArrive
  repeat' first
    | with_reducible exact h
    | with_reducible assumption
    | with_reducible apply kept_repeatReads
    | with_reducible apply kept_advanceAll
    | with_reducible apply kept_segPut
    | with_reducible apply kept_setConf
    | with_reducible apply kept_finishReq
    | with_reducible apply kept_confFail
    | with_reducible apply kept_failDesc
    | with_reducible apply Kept.ite
    | simp only
    | with_reducible apply Kept.parts
    | with_reducible refine Kept.foldl ?_ (fun _ _ _ => ?_)
    | split

theorem kept_dataArrive {q : List Instr} {s : State} (h : Kept q s) (i data) : Kept q (dataArrive s i data) := by
  unfold dataArrive
  repeat' first
    | with_reducible exact h
    | with_reducible assumption
    | with_reducible apply kept_advanceAll
    | with_reducible apply kept_startContribs
    | with_reducible apply kept_setDesc
    | with_reducible apply kept_failData
    | with_reducible apply kept_confFail
    | with_reducible apply Kept.ite
    | simp only
    | with_reducible apply Kept.parts
    | with_reducible refine Kept.foldl ?_ (fun _ _ _ => ?_)
    | split

theorem kept_execPcieReadCompletion {q : List Instr} {s : State} (h : Kept q s) (tag status data) : KeptOut q (execPcieReadCompletion tag status data s) := by
  unfold execPcieReadCompletion
  repeat' first
    | with_reducible exact h
    | with_reducible assumption
    | with_reducible exact KeptOut.refused
    | with_reducible apply KeptOut.ite
    | with_reducible apply KeptOut.next
    | with_reducible apply kept_hostDone
    | with_reducible apply kept_opRefused
    | with_reducible apply kept_qosStatus
    | with_reducible apply kept_fenceFlush
    | with_reducible apply kept_descArrive
    | with_reducible apply kept_segsArrive
    | with_reducible apply kept_dataArrive
    | with_reducible apply kept_atsDrain
    | with_reducible apply kept_hostNext
    | with_reducible apply Kept.ite
    | simp only
    | with_reducible apply Kept.parts
    | with_reducible refine Kept.foldl ?_ (fun _ _ _ => ?_)
    | split

theorem kept_segDrop {q : List Instr} {s : State} (h : Kept q s) (c all) : Kept q (segDrop s c all) := by
  unfold segDrop
  repeat' first
    | with_reducible exact h
    | with_reducible assumption
    | with_reducible apply kept_nearDrop
    | with_reducible apply Kept.ite
    | simp only [kept_mk]
    | with_reducible apply Kept.parts

theorem kept_untranslate {q : List Instr} {s : State} (h : Kept q s) (r) : Kept q (untranslate s r) := by
  unfold untranslate
  repeat' first
    | with_reducible exact h
    | with_reducible assumption
    | with_reducible apply kept_setDesc
    | with_reducible apply Kept.ite
    | simp only [kept_mk]
    | with_reducible apply Kept.parts
    | with_reducible refine Kept.foldl ?_ (fun _ _ _ => ?_)
    | split

theorem kept_dropTableReads {q : List Instr} {s : State} (h : Kept q s) (c) : Kept q (dropTableReads s c) := by
  unfold dropTableReads
  repeat' first
    | with_reducible exact h
    | with_reducible assumption
    | with_reducible apply Kept.ite
    | simp only [kept_mk]
    | with_reducible apply Kept.parts

theorem kept_sliceSet {q : List Instr} {s : State} (h : Kept q s) (p f v) : Kept q (sliceSet s p f v) := by
  unfold sliceSet
  repeat' first
    | with_reducible exact h
    | with_reducible assumption
    | with_reducible apply Kept.ite
    | simp only [kept_mk]
    | with_reducible apply Kept.parts

theorem kept_invalBusy {q : List Instr} {s : State} (h : Kept q s) (w acc) : Kept q (invalBusy s w acc) := by
  unfold invalBusy
  repeat' first
    | with_reducible exact h
    | with_reducible assumption
    | with_reducible apply kept_sliceSet
    | with_reducible apply kept_regError
    | with_reducible apply kept_wr
    | with_reducible apply Kept.ite
    | simp only [kept_mk]
    | with_reducible apply Kept.parts
    | with_reducible refine Kept.foldl ?_ (fun _ _ _ => ?_)
    | split

theorem kept_segInval {q : List Instr} {s : State} (h : Kept q s) (w c all seq acc) : Kept q (segInval s w c all seq acc) := by
  unfold segInval
  repeat' first
    | with_reducible exact h
    | with_reducible assumption
    | with_reducible apply kept_invalBusy
    | with_reducible apply kept_wrs
    | with_reducible apply kept_mergeFlush
    | with_reducible apply kept_segDrop
    | with_reducible apply kept_dropTableReads
    | with_reducible apply kept_wr
    | with_reducible apply kept_repeatReads
    | with_reducible apply kept_advanceAll
    | with_reducible apply kept_untranslate
    | with_reducible apply Kept.ite
    | simp only [kept_mk]
    | with_reducible apply Kept.parts
    | with_reducible refine Kept.foldl ?_ (fun _ _ _ => ?_)
    | split

theorem kept_execSegInvalCmd {q : List Instr} {s : State} (h : Kept q s) (w c all seq) : KeptOut q (execSegInvalCmd w c all seq s) := by
  unfold execSegInvalCmd
  repeat' first
    | with_reducible exact h
    | with_reducible assumption
    | with_reducible exact KeptOut.refused
    | with_reducible apply KeptOut.ite
    | with_reducible apply KeptOut.next
    | with_reducible apply kept_segInval

theorem kept_execSegInvalDone {q : List Instr} {s : State} (h : Kept q s) : KeptOut q (execSegInvalDone s) := by
  unfold execSegInvalDone
  repeat' first
    | with_reducible exact h
    | with_reducible assumption
    | with_reducible exact KeptOut.refused
    | with_reducible apply KeptOut.ite
    | with_reducible apply KeptOut.next
    | with_reducible apply kept_wrs
    | with_reducible apply kept_sliceSet
    | with_reducible apply Kept.ite
    | simp only [kept_mk]
    | with_reducible apply Kept.parts
    | with_reducible refine Kept.foldl ?_ (fun _ _ _ => ?_)
    | split

theorem kept_windowStart {q : List Instr} {s : State} (h : Kept q s) (d) : Kept q (windowStart s d) := by
  unfold windowStart
  repeat' first
    | with_reducible exact h
    | with_reducible assumption
    | with_reducible apply kept_tryIssue
    | with_reducible apply Kept.ite
    | simp only [kept_mk]
    | with_reducible apply Kept.parts

theorem kept_unmapped {q : List Instr} {s : State} (h : Kept q s) (p) : Kept q (unmapped s p) := by
  unfold unmapped
  repeat' first | with_reducible exact h | with_reducible assumption | with_reducible apply kept_cnt

theorem kept_execWindowStore {q : List Instr} {s : State} (h : Kept q s) (port func k off data) : KeptOut q (execWindowStore port func k off data s) := by
  unfold execWindowStore
  repeat' first
    | with_reducible exact h
    | with_reducible assumption
    | with_reducible exact KeptOut.refused
    | with_reducible apply KeptOut.ite
    | with_reducible apply KeptOut.next
    | with_reducible apply kept_unmapped
    | with_reducible apply kept_windowStart
    | with_reducible apply Kept.ite

theorem kept_execWindowLoad {q : List Instr} {s : State} (h : Kept q s) (port func k off len tag) : KeptOut q (execWindowLoad port func k off len tag s) := by
  unfold execWindowLoad
  repeat' first
    | with_reducible exact h
    | with_reducible assumption
    | with_reducible exact KeptOut.refused
    | with_reducible apply KeptOut.ite
    | with_reducible apply KeptOut.next
    | with_reducible apply kept_emitOut
    | with_reducible apply kept_unmapped
    | with_reducible apply kept_windowStart
    | with_reducible apply Kept.ite
    | simp only [kept_mk]
    | with_reducible apply Kept.parts

theorem kept_execWindowReadTimeout {q : List Instr} {s : State} (h : Kept q s) (id) : KeptOut q (execWindowReadTimeout id s) := by
  unfold execWindowReadTimeout
  repeat' first
    | with_reducible exact h
    | with_reducible assumption
    | with_reducible exact KeptOut.refused
    | with_reducible apply KeptOut.ite
    | with_reducible apply KeptOut.next
    | with_reducible apply kept_emitOut
    | with_reducible apply kept_cnt
    | with_reducible apply Kept.ite
    | simp only [kept_mk]
    | with_reducible apply Kept.parts
    | with_reducible refine Kept.foldl ?_ (fun _ _ _ => ?_)
    | split

end Sys2Proof.Machine
end

