-- ==== Sys2Proof/Laws/KeptHostPorts.lean ====
section
/-!
SUPPORT. Laws/KeptHostPorts.lean: the operations of Machine/HostPorts.lean keep the canonical form of every store and the queue.
-/
namespace Sys2Proof.Machine
open Sys2Proof

theorem kept_mgrWatch {q : List Instr} {s : State} (h : Kept q s) : Kept q (mgrWatch s) := by
  unfold mgrWatch
  repeat' first
    | with_reducible exact h
    | with_reducible assumption
    | with_reducible apply Kept.ite
    | simp only [kept_mk]
    | with_reducible apply Kept.parts

theorem kept_handoverTo {q : List Instr} {s : State} (h : Kept q s) (p) : Kept q (handoverTo s p) := by
  unfold handoverTo
  repeat' first
    | with_reducible exact h
    | with_reducible assumption
    | with_reducible apply kept_wrs
    | with_reducible apply kept_ringLose
    | with_reducible apply kept_report
    | with_reducible apply kept_mgrWatch
    | with_reducible apply Kept.ite
    | simp only [kept_mk]
    | with_reducible apply Kept.parts

theorem kept_handover {q : List Instr} {s : State} (h : Kept q s) : Kept q (handover s) := by
  unfold handover
  repeat' first
    | with_reducible exact h
    | with_reducible assumption
    | with_reducible apply kept_wr
    | with_reducible apply kept_handoverTo
    | with_reducible apply Kept.ite
    | simp only
    | with_reducible apply Kept.parts
    | with_reducible refine Kept.foldl ?_ (fun _ _ _ => ?_)
    | split

theorem kept_handoverWrite {q : List Instr} {s : State} (h : Kept q s) (w) : Kept q (handoverWrite s w) := by
  unfold handoverWrite
  repeat' first
    | with_reducible exact h
    | with_reducible assumption
    | with_reducible apply kept_handover
    | with_reducible apply Kept.ite
    | simp only [kept_mk]
    | with_reducible apply Kept.parts
    | with_reducible refine Kept.foldl ?_ (fun _ _ _ => ?_)
    | split

theorem kept_execHandover {q : List Instr} {s : State} (h : Kept q s) (w) : KeptOut q (execHandover w s) := by
  unfold execHandover
  repeat' first
    | with_reducible exact h
    | with_reducible assumption
    | with_reducible exact KeptOut.refused
    | with_reducible apply KeptOut.ite
    | with_reducible apply KeptOut.next
    | with_reducible apply kept_handoverWrite

theorem kept_execHandoverAuto {q : List Instr} {s : State} (h : Kept q s) : KeptOut q (execHandoverAuto s) := by
  unfold execHandoverAuto
  repeat' first
    | with_reducible exact h
    | with_reducible assumption
    | with_reducible exact KeptOut.refused
    | with_reducible apply KeptOut.ite
    | with_reducible apply KeptOut.next
    | with_reducible apply kept_handoverTo
    | with_reducible apply Kept.ite
    | simp only [kept_mk]
    | with_reducible apply Kept.parts
    | with_reducible refine Kept.foldl ?_ (fun _ _ _ => ?_)
    | split

theorem kept_coreReset {q : List Instr} {s : State} (h : Kept q s) (p) : Kept q (coreReset s p) := by
  unfold coreReset
  repeat' first
    | with_reducible exact h
    | with_reducible assumption
    | with_reducible apply Kept.ite
    | simp only [kept_mk]
    | with_reducible apply Kept.parts

theorem kept_hostDown {q : List Instr} {s : State} (h : Kept q s) (p perst) : Kept q (hostDown s p perst) := by
  unfold hostDown
  repeat' first
    | with_reducible exact h
    | with_reducible assumption
    | with_reducible apply kept_cnt
    | with_reducible apply kept_wrs
    | with_reducible apply kept_wr
    | with_reducible apply kept_report
    | with_reducible apply kept_mgrWatch
    | with_reducible apply kept_coreReset
    | with_reducible apply kept_flrBegin
    | with_reducible apply Kept.ite

theorem kept_execPerstAssert {q : List Instr} {s : State} (h : Kept q s) (port) : KeptOut q (execPerstAssert port s) := by
  unfold execPerstAssert
  repeat' first
    | with_reducible exact h
    | with_reducible assumption
    | with_reducible exact KeptOut.refused
    | with_reducible apply KeptOut.ite
    | with_reducible apply KeptOut.next
    | with_reducible apply kept_wr
    | with_reducible apply kept_hostDown
    | with_reducible apply Kept.ite

theorem kept_execHostLinkDown {q : List Instr} {s : State} (h : Kept q s) (port) : KeptOut q (execHostLinkDown port s) := by
  unfold execHostLinkDown
  repeat' first
    | with_reducible exact h
    | with_reducible assumption
    | with_reducible exact KeptOut.refused
    | with_reducible apply KeptOut.ite
    | with_reducible apply KeptOut.next
    | with_reducible apply kept_hostDown

theorem kept_execHostLinkUp {q : List Instr} {s : State} (h : Kept q s) (port rate width flit) : KeptOut q (execHostLinkUp port rate width flit s) := by
  unfold execHostLinkUp
  repeat' first
    | with_reducible exact h
    | with_reducible assumption
    | with_reducible exact KeptOut.refused
    | with_reducible apply KeptOut.ite
    | with_reducible apply KeptOut.next
    | with_reducible apply kept_mgrWatch
    | with_reducible apply kept_wrs
    | with_reducible apply Kept.ite

theorem kept_execPcieAerError {q : List Instr} {s : State} (h : Kept q s) (port func uncorrectable status) : KeptOut q (execPcieAerError port func uncorrectable status s) := by
  unfold execPcieAerError
  repeat' first
    | with_reducible exact h
    | with_reducible assumption
    | with_reducible exact KeptOut.refused
    | with_reducible apply KeptOut.ite
    | with_reducible apply KeptOut.next
    | with_reducible apply kept_report
    | with_reducible apply Kept.ite
    | simp only [kept_mk]
    | with_reducible apply Kept.parts

theorem kept_confReply {q : List Instr} {s : State} (h : Kept q s) (p f code status more) : Kept q (confReply s p f code status more) := by
  unfold confReply
  repeat' first | with_reducible exact h | with_reducible assumption | with_reducible apply kept_emitOut

theorem kept_inSession {q : List Instr} {s : State} {p f : Nat} {g : List Byte → State} (hg : ∀ x, Kept q (g x)) (h : Kept q s) :
    Kept q (inSession s p f g) := by
  unfold inSession
  split
  · exact Kept.ite h (hg _)
  · exact h

theorem kept_execConfStart {q : List Instr} {s : State} (h : Kept q s) (port func) : KeptOut q (execConfStart port func s) := by
  unfold execConfStart
  repeat' first
    | with_reducible exact h
    | with_reducible assumption
    | with_reducible exact KeptOut.refused
    | with_reducible apply KeptOut.ite
    | with_reducible apply KeptOut.next
    | with_reducible apply kept_inSession
    | with_reducible apply kept_confReply
    | with_reducible apply kept_wr
    | with_reducible apply kept_setConf
    | with_reducible apply Kept.ite
    | simp only [kept_mk]
    | with_reducible apply Kept.parts
    | with_reducible refine Kept.foldl ?_ (fun _ _ _ => ?_)
    | split
    | with_reducible apply Kept.getD
    | with_reducible apply Kept.snd
    | with_reducible apply Kept.fst
    | refine Kept.sndOf (by assumption) ?_
    | refine Kept.fstOf (by assumption) ?_
    | refine Kept.optOf (by assumption) ?_
    | intro _

theorem kept_execConfRekey {q : List Instr} {s : State} (h : Kept q s) (port func) : KeptOut q (execConfRekey port func s) := by
  unfold execConfRekey
  repeat' first
    | with_reducible exact h
    | with_reducible assumption
    | with_reducible exact KeptOut.refused
    | with_reducible apply KeptOut.ite
    | with_reducible apply KeptOut.next
    | with_reducible apply kept_inSession
    | with_reducible apply kept_confReply
    | with_reducible apply kept_setConf
    | with_reducible apply Kept.ite
    | simp only
    | with_reducible apply Kept.parts
    | with_reducible refine Kept.foldl ?_ (fun _ _ _ => ?_)
    | split
    | with_reducible apply Kept.getD
    | with_reducible apply Kept.snd
    | with_reducible apply Kept.fst
    | refine Kept.sndOf (by assumption) ?_
    | refine Kept.fstOf (by assumption) ?_
    | refine Kept.optOf (by assumption) ?_
    | intro _

theorem kept_execConfEnd {q : List Instr} {s : State} (h : Kept q s) (port func) : KeptOut q (execConfEnd port func s) := by
  unfold execConfEnd
  repeat' first
    | with_reducible exact h
    | with_reducible assumption
    | with_reducible exact KeptOut.refused
    | with_reducible apply KeptOut.ite
    | with_reducible apply KeptOut.next
    | with_reducible apply kept_inSession
    | with_reducible apply kept_confReply
    | with_reducible apply kept_confErase
    | with_reducible apply Kept.ite
    | simp only [kept_mk]
    | with_reducible apply Kept.parts
    | with_reducible refine Kept.foldl ?_ (fun _ _ _ => ?_)
    | split
    | with_reducible apply Kept.getD
    | with_reducible apply Kept.snd
    | with_reducible apply Kept.fst
    | refine Kept.sndOf (by assumption) ?_
    | refine Kept.fstOf (by assumption) ?_
    | refine Kept.optOf (by assumption) ?_
    | intro _

theorem kept_execConfQuery {q : List Instr} {s : State} (h : Kept q s) (port func) : KeptOut q (execConfQuery port func s) := by
  unfold execConfQuery
  repeat' first
    | with_reducible exact h
    | with_reducible assumption
    | with_reducible exact KeptOut.refused
    | with_reducible apply KeptOut.ite
    | with_reducible apply KeptOut.next
    | with_reducible apply kept_inSession
    | with_reducible apply kept_confReply
    | with_reducible apply Kept.ite
    | simp only [kept_mk]
    | with_reducible apply Kept.parts
    | with_reducible refine Kept.foldl ?_ (fun _ _ _ => ?_)
    | split
    | with_reducible apply Kept.getD
    | with_reducible apply Kept.snd
    | with_reducible apply Kept.fst
    | refine Kept.sndOf (by assumption) ?_
    | refine Kept.fstOf (by assumption) ?_
    | refine Kept.optOf (by assumption) ?_
    | intro _

theorem kept_execSpdmSessionEnd {q : List Instr} {s : State} (h : Kept q s) (port func) : KeptOut q (execSpdmSessionEnd port func s) := by
  unfold execSpdmSessionEnd
  repeat' first
    | with_reducible exact h
    | with_reducible assumption
    | with_reducible exact KeptOut.refused
    | with_reducible apply KeptOut.ite
    | with_reducible apply KeptOut.next
    | with_reducible apply kept_confErase
    | with_reducible apply Kept.ite
    | simp only [kept_mk]
    | with_reducible apply Kept.parts

theorem kept_msixRetryAll {q : List Instr} {s : State} (h : Kept q s) (p f) : Kept q (msixRetryAll s p f) := by
  unfold msixRetryAll
  repeat' first
    | with_reducible exact h
    | with_reducible assumption
    | with_reducible apply kept_msixRetry
    | with_reducible apply Kept.ite
    | simp only [kept_mk]
    | with_reducible apply Kept.parts
    | with_reducible refine Kept.foldl ?_ (fun _ _ _ => ?_)

theorem kept_atsOff {q : List Instr} {s : State} (h : Kept q s) (p f) : Kept q (atsOff s p f) := by
  unfold atsOff
  repeat' first
    | with_reducible exact h
    | with_reducible assumption
    | with_reducible apply kept_atsWrite
    | with_reducible apply kept_atsOp
    | with_reducible apply kept_ringDrain
    | with_reducible apply Kept.ite
    | simp only [kept_mk]
    | with_reducible apply Kept.parts
    | with_reducible refine Kept.foldl ?_ (fun _ _ _ => ?_)

theorem kept_cfgAccess {q : List Instr} {s : State} (h : Kept q s) (p f x3) : Kept q (cfgAccess s p f x3) := by
  unfold cfgAccess
  repeat' first
    | with_reducible exact h
    | with_reducible assumption
    | with_reducible apply kept_emitOut
    | with_reducible apply kept_freeNat
    | with_reducible apply kept_msixRetryAll
    | with_reducible apply kept_atsOff
    | with_reducible apply kept_vfWrite
    | with_reducible apply kept_flrBegin
    | with_reducible apply Kept.ite
    | simp only [kept_mk]
    | with_reducible apply Kept.parts
    | with_reducible refine Kept.foldl ?_ (fun _ _ _ => ?_)
    | split
    | with_reducible apply Kept.getD
    | with_reducible apply Kept.snd

theorem kept_execConfigurationRequest {q : List Instr} {s : State} (h : Kept q s) (port func op) : KeptOut q (execConfigurationRequest port func op s) := by
  unfold execConfigurationRequest
  repeat' first
    | with_reducible exact h
    | with_reducible assumption
    | with_reducible exact KeptOut.refused
    | with_reducible apply KeptOut.ite
    | with_reducible apply KeptOut.next
    | with_reducible apply kept_emitOut
    | with_reducible apply kept_cfgAccess
    | with_reducible apply Kept.ite

end Sys2Proof.Machine
end

