-- ==== Sys2Proof/Laws/KeptFirmware.lean ====
section
/-!
SUPPORT. Laws/KeptFirmware.lean: the operations of Machine/Firmware.lean keep the canonical form of every store and the queue.
-/
namespace Sys2Proof.Machine
open Sys2Proof

theorem kept_dirShow {q : List Instr} {s : State} (h : Kept q s) : Kept q (dirShow s) := by
  unfold dirShow
  repeat' first | with_reducible exact h | with_reducible assumption | with_reducible apply kept_wrs

theorem kept_dirPut {q : List Instr} {s : State} (h : Kept q s) (pref a b) : Kept q (dirPut s pref a b) := by
  unfold dirPut
  repeat' first | with_reducible exact h | with_reducible assumption | with_reducible apply kept_dirShow | with_reducible apply kept_flashWr

theorem kept_setBankState {q : List Instr} {s : State} (h : Kept q s) (bank st) : Kept q (setBankState s bank st) := by
  unfold setBankState
  repeat' first | with_reducible exact h | with_reducible assumption | with_reducible apply kept_dirPut | with_reducible apply Kept.ite

theorem kept_copyImage {q : List Instr} {s : State} (h : Kept q s) (bank area) : Kept q (copyImage s bank area) := by
  unfold copyImage
  repeat' first
    | with_reducible exact h
    | with_reducible assumption
    | with_reducible apply kept_hbmWr
    | with_reducible apply Kept.ite
    | simp only [kept_mk]
    | with_reducible apply Kept.parts
    | with_reducible refine Kept.foldl ?_ (fun _ _ _ => ?_)

theorem kept_runImage {q : List Instr} {s : State} (h : Kept q s) (bank area) : Kept q (runImage s bank area) := by
  unfold runImage
  repeat' first
    | with_reducible exact h
    | with_reducible assumption
    | with_reducible apply kept_wrs
    | with_reducible apply Kept.ite
    | simp only [kept_mk]
    | with_reducible apply Kept.parts

theorem kept_fwRecord {q : List Instr} {s : State} (h : Kept q s) (cause outcome detA detB) : Kept q (fwRecord s cause outcome detA detB) := by
  unfold fwRecord
  repeat' first | with_reducible exact h | with_reducible assumption | with_reducible apply kept_report

theorem kept_imageRejected {q : List Instr} {s : State} (h : Kept q s) (bank type) : Kept q (imageRejected s bank type) := by
  unfold imageRejected
  repeat' first | with_reducible exact h | with_reducible assumption | with_reducible apply kept_fwRecord

theorem kept_leafReserve {q : List Instr} {s : State} (h : Kept q s) : Kept q (leafReserve s) := by
  unfold leafReserve
  repeat' first
    | with_reducible exact h
    | with_reducible assumption
    | with_reducible apply kept_wr
    | with_reducible apply kept_flashErase
    | with_reducible apply kept_flashWr
    | with_reducible apply kept_trace
    | with_reducible apply kept_fwRecord
    | with_reducible apply Kept.ite
    | simp only [kept_mk]
    | with_reducible apply Kept.parts
    | with_reducible refine Kept.foldl ?_ (fun _ _ _ => ?_)
    | split

theorem kept_securityStarts {q : List Instr} {s : State} (h : Kept q s) : Kept q (securityStarts s) := by
  unfold securityStarts
  repeat' first
    | with_reducible exact h
    | with_reducible assumption
    | with_reducible apply kept_wrs
    | with_reducible apply Kept.ite
    | simp only [kept_mk]
    | with_reducible apply Kept.parts

theorem kept_procRuns {q : List Instr} {s : State} (h : Kept q s) (i) : Kept q (procRuns s i) := by
  unfold procRuns
  repeat' first
    | with_reducible exact h
    | with_reducible assumption
    | with_reducible apply kept_wr
    | with_reducible apply Kept.ite
    | simp only [kept_mk]
    | with_reducible apply Kept.parts

theorem kept_execLeafBlockReserve {q : List Instr} {s : State} (h : Kept q s) : KeptOut q (execLeafBlockReserve s) := by
  unfold execLeafBlockReserve
  repeat' first
    | with_reducible exact h
    | with_reducible assumption
    | with_reducible exact KeptOut.refused
    | with_reducible apply KeptOut.ite
    | with_reducible apply KeptOut.next
    | with_reducible apply kept_leafReserve
    | with_reducible apply Kept.ite

theorem kept_moltEnds {q : List Instr} {s : State} (h : Kept q s) (res) : Kept q (moltEnds s res) := by
  unfold moltEnds
  repeat' first | with_reducible exact h | with_reducible assumption | with_reducible apply kept_wrs

theorem kept_moltStart {q : List Instr} {s : State} (h : Kept q s) : Kept q (moltStart s) := by
  unfold moltStart
  repeat' first
    | with_reducible exact h
    | with_reducible assumption
    | with_reducible apply kept_moltEnds
    | with_reducible apply kept_trace
    | with_reducible apply kept_wrs
    | with_reducible apply Kept.ite

theorem kept_moltWrite {q : List Instr} {s : State} (h : Kept q s) (w) : Kept q (moltWrite s w) := by
  unfold moltWrite
  repeat' first
    | with_reducible exact h
    | with_reducible assumption
    | with_reducible apply kept_moltStart
    | with_reducible apply kept_regError
    | with_reducible apply Kept.ite

theorem kept_execMolt {q : List Instr} {s : State} (h : Kept q s) (w) : KeptOut q (execMolt w s) := by
  unfold execMolt
  repeat' first
    | with_reducible exact h
    | with_reducible assumption
    | with_reducible exact KeptOut.refused
    | with_reducible apply KeptOut.ite
    | with_reducible apply KeptOut.next
    | with_reducible apply kept_moltWrite

theorem kept_moltReverts {q : List Instr} {s : State} (h : Kept q s) : Kept q (moltReverts s) := by
  unfold moltReverts
  repeat' first
    | with_reducible exact h
    | with_reducible assumption
    | with_reducible apply kept_trace
    | with_reducible apply kept_fwRecord
    | with_reducible apply kept_moltEnds

theorem kept_moltNext {q : List Instr} {s : State} (h : Kept q s) (k) : Kept q (moltNext s k) := by
  unfold moltNext
  repeat' first
    | with_reducible exact h
    | with_reducible assumption
    | with_reducible apply kept_trace
    | with_reducible apply kept_wr
    | with_reducible apply Kept.ite
    | simp only [kept_mk]
    | with_reducible apply Kept.parts

theorem kept_moltCore {q : List Instr} {s : State} (h : Kept q s) (c) : Kept q (moltCore s c) := by
  unfold moltCore
  repeat' first
    | with_reducible exact h
    | with_reducible assumption
    | with_reducible apply kept_moltReverts
    | with_reducible apply kept_moltNext
    | with_reducible apply Kept.ite
    | simp only [kept_mk]
    | with_reducible apply Kept.parts

theorem kept_moltDone {q : List Instr} {s : State} (h : Kept q s) : Kept q (moltDone s) := by
  unfold moltDone
  repeat' first
    | with_reducible exact h
    | with_reducible assumption
    | with_reducible apply kept_runImage
    | with_reducible apply kept_dirPut
    | with_reducible apply kept_cnt
    | with_reducible apply kept_moltEnds
    | with_reducible apply kept_trace
    | with_reducible apply kept_fwRecord
    | with_reducible apply Kept.ite
    | simp only [kept_mk]
    | with_reducible apply Kept.parts

theorem kept_execMoltStepDone {q : List Instr} {s : State} (h : Kept q s) (ok core) : KeptOut q (execMoltStepDone ok s core) := by
  unfold execMoltStepDone
  repeat' first
    | with_reducible exact h
    | with_reducible assumption
    | with_reducible exact KeptOut.refused
    | with_reducible apply KeptOut.ite
    | with_reducible apply KeptOut.next
    | with_reducible apply kept_moltReverts
    | with_reducible apply kept_moltCore
    | with_reducible apply kept_imageRejected
    | with_reducible apply kept_moltNext
    | with_reducible apply kept_copyImage
    | with_reducible apply kept_leafReserve
    | with_reducible apply kept_moltDone
    | with_reducible apply Kept.ite
    | simp only [kept_mk]
    | with_reducible apply Kept.parts
    | with_reducible refine Kept.foldl ?_ (fun _ _ _ => ?_)
    | split

theorem kept_schedulerHeld {q : List Instr} {s : State} (h : Kept q s) : Kept q (schedulerHeld s) := by
  unfold schedulerHeld
  repeat' first
    | with_reducible exact h
    | with_reducible assumption
    | with_reducible apply kept_stopFn
    | with_reducible apply Kept.ite
    | simp only [kept_mk]
    | with_reducible apply Kept.parts
    | with_reducible refine Kept.foldl ?_ (fun _ _ _ => ?_)

theorem kept_procHeld {q : List Instr} {s : State} (h : Kept q s) (i) : Kept q (procHeld s i) := by
  unfold procHeld
  repeat' first
    | with_reducible exact h
    | with_reducible assumption
    | with_reducible apply kept_wr
    | with_reducible apply kept_schedulerHeld
    | with_reducible apply kept_permanentFault
    | with_reducible apply Kept.ite

theorem kept_setUpdate {q : List Instr} {s : State} (h : Kept q s) (st) : Kept q (setUpdate s st) := by
  unfold setUpdate
  repeat' first | with_reducible exact h | with_reducible assumption | with_reducible apply kept_trace | with_reducible apply kept_wr

theorem kept_cancelUpdate {q : List Instr} {s : State} (h : Kept q s) : Kept q (cancelUpdate s) := by
  unfold cancelUpdate
  repeat' first
    | with_reducible exact h
    | with_reducible assumption
    | with_reducible apply kept_setUpdate
    | with_reducible apply Kept.ite
    | simp only [kept_mk]
    | with_reducible apply Kept.parts

theorem kept_procFails {q : List Instr} {s : State} (h : Kept q s) (i cause detB) : Kept q (procFails s i cause detB) := by
  unfold procFails
  repeat' first
    | with_reducible exact h
    | with_reducible assumption
    | with_reducible apply kept_fwRecord
    | with_reducible apply kept_wr
    | with_reducible apply kept_moltReverts
    | with_reducible apply kept_cancelUpdate
    | with_reducible apply kept_procHeld
    | with_reducible apply kept_cnt
    | with_reducible apply Kept.ite
    | simp only [kept_mk]
    | with_reducible apply Kept.parts

theorem kept_execProcFault {q : List Instr} {s : State} (h : Kept q s) (i violation addr access) : KeptOut q (execProcFault i violation addr s access) := by
  unfold execProcFault
  repeat' first
    | with_reducible exact h
    | with_reducible assumption
    | with_reducible exact KeptOut.refused
    | with_reducible apply KeptOut.ite
    | with_reducible apply KeptOut.next
    | with_reducible apply kept_procFails
    | with_reducible apply Kept.ite

theorem kept_execProcWatchdog {q : List Instr} {s : State} (h : Kept q s) (i) : KeptOut q (execProcWatchdog i s) := by
  unfold execProcWatchdog
  repeat' first
    | with_reducible exact h
    | with_reducible assumption
    | with_reducible exact KeptOut.refused
    | with_reducible apply KeptOut.ite
    | with_reducible apply KeptOut.next
    | with_reducible apply kept_procFails
    | with_reducible apply Kept.ite

theorem kept_procAgain {q : List Instr} {s : State} (h : Kept q s) (i) : Kept q (procAgain s i) := by
  unfold procAgain
  repeat' first
    | with_reducible exact h
    | with_reducible assumption
    | with_reducible apply kept_procRuns
    | with_reducible apply kept_securityStarts
    | with_reducible apply Kept.ite

theorem kept_execProcRestartDone {q : List Instr} {s : State} (h : Kept q s) (i) : KeptOut q (execProcRestartDone i s) := by
  unfold execProcRestartDone
  repeat' first
    | with_reducible exact h
    | with_reducible assumption
    | with_reducible exact KeptOut.refused
    | with_reducible apply KeptOut.ite
    | with_reducible apply KeptOut.next
    | with_reducible apply kept_procAgain
    | with_reducible apply kept_copyImage
    | with_reducible apply Kept.ite

theorem kept_pldmReply {q : List Instr} {s : State} (h : Kept q s) (command code) : Kept q (pldmReply s command code) := by
  unfold pldmReply
  repeat' first | with_reducible exact h | with_reducible assumption | with_reducible apply kept_emitOut

theorem kept_execRequestUpdate {q : List Instr} {s : State} (h : Kept q s) (comp) : KeptOut q (execRequestUpdate comp s) := by
  unfold execRequestUpdate
  repeat' first
    | with_reducible exact h
    | with_reducible assumption
    | with_reducible exact KeptOut.refused
    | with_reducible apply KeptOut.ite
    | with_reducible apply KeptOut.next
    | with_reducible apply kept_pldmReply
    | with_reducible apply kept_setUpdate
    | with_reducible apply kept_setBankState
    | with_reducible apply Kept.ite
    | simp only [kept_mk]
    | with_reducible apply Kept.parts

theorem kept_execFirmwareDataTransfer {q : List Instr} {s : State} (h : Kept q s) (off data) : KeptOut q (execFirmwareDataTransfer off data s) := by
  unfold execFirmwareDataTransfer
  repeat' first
    | with_reducible exact h
    | with_reducible assumption
    | with_reducible exact KeptOut.refused
    | with_reducible apply KeptOut.ite
    | with_reducible apply KeptOut.next
    | with_reducible apply kept_flashWr
    | with_reducible apply kept_setUpdate
    | with_reducible apply Kept.ite
    | simp only
    | with_reducible apply Kept.parts
    | with_reducible refine Kept.foldl ?_ (fun _ _ _ => ?_)
    | split

theorem kept_execVerifyComplete {q : List Instr} {s : State} (h : Kept q s) : KeptOut q (execVerifyComplete s) := by
  unfold execVerifyComplete
  repeat' first
    | with_reducible exact h
    | with_reducible assumption
    | with_reducible exact KeptOut.refused
    | with_reducible apply KeptOut.ite
    | with_reducible apply KeptOut.next
    | with_reducible apply kept_imageRejected
    | with_reducible apply kept_setBankState
    | with_reducible apply kept_fwRecord
    | with_reducible apply kept_pldmReply
    | with_reducible apply kept_setUpdate
    | with_reducible apply kept_cancelUpdate
    | with_reducible apply Kept.ite
    | simp only
    | with_reducible apply Kept.parts
    | with_reducible refine Kept.foldl ?_ (fun _ _ _ => ?_)
    | split

theorem kept_execActivateFirmware {q : List Instr} {s : State} (h : Kept q s) (selfContained) : KeptOut q (execActivateFirmware selfContained s) := by
  unfold execActivateFirmware
  repeat' first
    | with_reducible exact h
    | with_reducible assumption
    | with_reducible exact KeptOut.refused
    | with_reducible apply KeptOut.ite
    | with_reducible apply KeptOut.next
    | with_reducible apply kept_cancelUpdate
    | with_reducible apply kept_pldmReply
    | with_reducible apply kept_setUpdate
    | with_reducible apply kept_moltStart
    | with_reducible apply kept_dirPut
    | with_reducible apply Kept.ite
    | simp only
    | with_reducible apply Kept.parts
    | with_reducible refine Kept.foldl ?_ (fun _ _ _ => ?_)
    | split

theorem kept_execPlatformEventMessage {q : List Instr} {s : State} (h : Kept q s) : KeptOut q (execPlatformEventMessage s) := by
  unfold execPlatformEventMessage
  repeat' first
    | with_reducible exact h
    | with_reducible assumption
    | with_reducible exact KeptOut.refused
    | with_reducible apply KeptOut.ite
    | with_reducible apply KeptOut.next
    | with_reducible apply kept_eventsQueued
    | with_reducible apply kept_emitOut
    | with_reducible apply Kept.ite
    | simp only [kept_mk]
    | with_reducible apply Kept.parts
    | with_reducible refine Kept.foldl ?_ (fun _ _ _ => ?_)
    | split

theorem kept_execMctpEidAssign {q : List Instr} {s : State} (h : Kept q s) (eid binding) : KeptOut q (execMctpEidAssign eid s binding) := by
  unfold execMctpEidAssign
  repeat' first
    | with_reducible exact h
    | with_reducible assumption
    | with_reducible exact KeptOut.refused
    | with_reducible apply KeptOut.ite
    | with_reducible apply KeptOut.next
    | with_reducible apply kept_wr
    | with_reducible apply Kept.ite

theorem kept_execSetRackCap {q : List Instr} {s : State} (h : Kept q s) (watts) : KeptOut q (execSetRackCap watts s) := by
  unfold execSetRackCap
  repeat' first
    | with_reducible exact h
    | with_reducible assumption
    | with_reducible exact KeptOut.refused
    | with_reducible apply KeptOut.ite
    | with_reducible apply KeptOut.next
    | with_reducible apply kept_pldmReply
    | with_reducible apply kept_wr
    | with_reducible apply Kept.ite

theorem kept_spdmReply {q : List Instr} {s : State} (h : Kept q s) (v code fields data) : Kept q (spdmReply s v code fields data) := by
  unfold spdmReply
  repeat' first | with_reducible exact h | with_reducible assumption | with_reducible apply kept_emitOut

theorem kept_spdmError {q : List Instr} {s : State} (h : Kept q s) (v code) : Kept q (spdmError s v code) := by
  unfold spdmError
  repeat' first | with_reducible exact h | with_reducible assumption | with_reducible apply kept_spdmReply

theorem kept_leafReady {q : List Instr} {s : State} (h : Kept q s) : Kept q (leafReady s) := by
  unfold leafReady
  repeat' first | with_reducible exact h | with_reducible assumption | with_reducible apply kept_leafReserve | with_reducible apply Kept.ite

/-- `Kept` of the state beside a signature that may be absent. -/
theorem kept_signIdentity {q : List Instr} {s t : State} (h : Kept q s) {msg sig : List Byte} (e : signIdentity s msg = some (sig, t)) : Kept q t := by
  unfold signIdentity at e
  dsimp only at e
  split at e
  · cases e
    refine Kept.ite ?_ (kept_wr (kept_leafReady h) _ _)
    simp only [kept_mk]
    apply Kept.parts
    exact kept_wr (kept_leafReady h) _ _
  · cases e

theorem kept_execNegotiateAlgorithms {q : List Instr} {s : State} (h : Kept q s) (v extended) : KeptOut q (execNegotiateAlgorithms v extended s) := by
  unfold execNegotiateAlgorithms
  repeat' first
    | with_reducible exact h
    | with_reducible assumption
    | with_reducible exact KeptOut.refused
    | with_reducible apply KeptOut.ite
    | with_reducible apply KeptOut.next
    | with_reducible apply kept_spdmError
    | with_reducible apply kept_spdmReply
    | with_reducible apply Kept.ite
    | simp only [kept_mk]
    | with_reducible apply Kept.parts

theorem kept_execGetCertificate {q : List Instr} {s : State} (h : Kept q s) (v slot off len) : KeptOut q (execGetCertificate v slot off len s) := by
  unfold execGetCertificate
  repeat' first
    | with_reducible exact h
    | with_reducible assumption
    | with_reducible exact KeptOut.refused
    | with_reducible apply KeptOut.ite
    | with_reducible apply KeptOut.next
    | with_reducible apply kept_spdmError
    | with_reducible apply kept_spdmReply
    | with_reducible apply Kept.ite

theorem kept_signedReply {q : List Instr} {s : State} (h : Kept q s) (v code fields data nonce) : Kept q (signedReply s v code fields data nonce) := by
  unfold signedReply
  split
  · rename_i e; exact kept_spdmReply (kept_signIdentity h e) _ _ _ _
  · exact kept_spdmError (kept_leafReady h) _ _

theorem kept_execChallenge {q : List Instr} {s : State} (h : Kept q s) (v slot nonce) : KeptOut q (execChallenge v slot nonce s) := by
  unfold execChallenge
  repeat' first
    | with_reducible exact h
    | with_reducible assumption
    | with_reducible exact KeptOut.refused
    | with_reducible apply KeptOut.ite
    | with_reducible apply KeptOut.next
    | with_reducible apply kept_spdmError
    | with_reducible apply kept_signedReply
    | with_reducible apply Kept.ite

theorem kept_execGetMeasurements {q : List Instr} {s : State} (h : Kept q s) (v index signed nonce) : KeptOut q (execGetMeasurements v index signed nonce s) := by
  unfold execGetMeasurements
  repeat' first
    | with_reducible exact h
    | with_reducible assumption
    | with_reducible exact KeptOut.refused
    | with_reducible apply KeptOut.ite
    | with_reducible apply KeptOut.next
    | with_reducible apply kept_spdmError
    | with_reducible apply kept_signedReply
    | with_reducible apply kept_spdmReply
    | with_reducible apply Kept.ite

theorem kept_setSession {q : List Instr} {s : State} (h : Kept q s) (v secret) : Kept q (setSession s v secret) := by
  unfold setSession
  repeat' first
    | with_reducible exact h
    | with_reducible assumption
    | with_reducible apply Kept.ite
    | simp only [kept_mk]
    | with_reducible apply Kept.parts
    | with_reducible refine Kept.foldl ?_ (fun _ _ _ => ?_)
    | split

theorem kept_execKeyExchange {q : List Instr} {s : State} (h : Kept q s) (v slot nonce secret) : KeptOut q (execKeyExchange v slot nonce secret s) := by
  refine KeptOut.next (Kept.ite h (Kept.ite (kept_spdmError h _ _) (Kept.ite (kept_spdmError h _ _) ?_)))
  split
  · rename_i e; exact kept_trace (kept_spdmReply (kept_setSession (kept_signIdentity h e) _ _) _ _ _ _) _ _ _ _ _
  · exact kept_spdmError (kept_leafReady h) _ _

theorem kept_sealKeys {q : List Instr} {s : State} (h : Kept q s) : Kept q (sealKeys s) := by
  unfold sealKeys
  repeat' first
    | with_reducible exact h
    | with_reducible assumption
    | with_reducible apply kept_flashWr
    | with_reducible apply Kept.ite
    | simp only [kept_mk]
    | with_reducible apply Kept.parts

theorem kept_keysShow {q : List Instr} {s : State} (h : Kept q s) : Kept q (keysShow s) := by
  unfold keysShow
  repeat' first
    | with_reducible exact h
    | with_reducible assumption
    | with_reducible apply kept_sealKeys
    | with_reducible apply kept_wrs
    | with_reducible apply Kept.ite

theorem kept_vendorReply {q : List Instr} {s : State} (h : Kept q s) (v code status more) : Kept q (vendorReply s v code status more) := by
  unfold vendorReply
  repeat' first | with_reducible exact h | with_reducible assumption | with_reducible apply kept_emitOut

theorem kept_keyRequest {q : List Instr} {s : State} {v : SpdmWay} {code : Nat} {f : State} (hf : Kept q f) (h : Kept q s) :
    Kept q (keyRequest s v code f) := by
  unfold keyRequest
  refine Kept.ite h ?_
  split
  · exact hf
  · exact Kept.ite hf (kept_vendorReply h _ _ _ _)

theorem kept_execLinkKeySet {q : List Instr} {s : State} (h : Kept q s) (v gen key) : KeptOut q (execLinkKeySet v gen key s) := by
  unfold execLinkKeySet
  repeat' first
    | with_reducible exact h
    | with_reducible assumption
    | with_reducible exact KeptOut.refused
    | with_reducible apply KeptOut.ite
    | with_reducible apply KeptOut.next
    | with_reducible apply kept_keyRequest
    | with_reducible apply kept_vendorReply
    | with_reducible apply kept_keysShow
    | with_reducible apply Kept.ite
    | simp only [kept_mk]
    | with_reducible apply Kept.parts

theorem kept_execLinkKeyDrop {q : List Instr} {s : State} (h : Kept q s) (v gen) : KeptOut q (execLinkKeyDrop v gen s) := by
  unfold execLinkKeyDrop
  repeat' first
    | with_reducible exact h
    | with_reducible assumption
    | with_reducible exact KeptOut.refused
    | with_reducible apply KeptOut.ite
    | with_reducible apply KeptOut.next
    | with_reducible apply kept_keyRequest
    | with_reducible apply kept_vendorReply
    | with_reducible apply kept_keysShow
    | with_reducible apply Kept.ite
    | simp only [kept_mk]
    | with_reducible apply Kept.parts

theorem kept_execLinkKeyQuery {q : List Instr} {s : State} (h : Kept q s) (v) : KeptOut q (execLinkKeyQuery v s) := by
  unfold execLinkKeyQuery
  repeat' first
    | with_reducible exact h
    | with_reducible assumption
    | with_reducible exact KeptOut.refused
    | with_reducible apply KeptOut.ite
    | with_reducible apply KeptOut.next
    | with_reducible apply kept_keyRequest
    | with_reducible apply kept_vendorReply

end Sys2Proof.Machine
end

