-- ==== Sys2Proof/Laws/KeptPower.lean ====
section
/-!
SUPPORT. Laws/KeptPower.lean: the operations of Machine/Power.lean keep the canonical form of every store and the queue.
-/
namespace Sys2Proof.Machine
open Sys2Proof

theorem kept_showLevel {q : List Instr} {s : State} (h : Kept q s) : Kept q (showLevel s) := by
  unfold showLevel
  repeat' first
    | with_reducible exact h
    | with_reducible assumption
    | with_reducible apply kept_wr
    | with_reducible apply Kept.ite
    | simp only [kept_mk]
    | with_reducible apply Kept.parts

theorem kept_powerRecord {q : List Instr} {s : State} (h : Kept q s) (cause outcome detA detB) : Kept q (powerRecord s cause outcome detA detB) := by
  unfold powerRecord
  repeat' first | with_reducible exact h | with_reducible assumption | with_reducible apply kept_report

theorem kept_thermalRecord {q : List Instr} {s : State} (h : Kept q s) (cause outcome sensor t) : Kept q (thermalRecord s cause outcome sensor t) := by
  unfold thermalRecord
  repeat' first | with_reducible exact h | with_reducible assumption | with_reducible apply kept_report

theorem kept_stepHolds {q : List Instr} {s : State} (h : Kept q s) (p) : Kept q (stepHolds s p) := by
  unfold stepHolds
  repeat' first
    | with_reducible exact h
    | with_reducible assumption
    | with_reducible apply kept_powerRecord
    | with_reducible apply kept_wr
    | with_reducible apply kept_showLevel
    | with_reducible apply Kept.ite
    | simp only [kept_mk]
    | with_reducible apply Kept.parts

theorem kept_stepThermal {q : List Instr} {s : State} (h : Kept q s) (n) : Kept q (stepThermal s n) := by
  unfold stepThermal
  repeat' first
    | with_reducible exact h
    | with_reducible assumption
    | with_reducible apply kept_wr
    | with_reducible apply kept_thermalRecord
    | with_reducible apply Kept.ite
    | simp only
    | with_reducible apply Kept.parts
    | with_reducible refine Kept.foldl ?_ (fun _ _ _ => ?_)
    | split

theorem kept_stepLevels {q : List Instr} {s : State} (h : Kept q s) (goal) : Kept q (stepLevels s goal) := by
  unfold stepLevels
  repeat' first
    | with_reducible exact h
    | with_reducible assumption
    | with_reducible apply kept_takeFree
    | with_reducible apply kept_wrs
    | with_reducible apply Kept.ite
    | simp only [kept_mk]
    | with_reducible apply Kept.parts

theorem kept_stepCapState {q : List Instr} {s : State} (h : Kept q s) (cap p st) : Kept q (stepCapState s cap p st) := by
  unfold stepCapState
  repeat' first
    | with_reducible exact h
    | with_reducible assumption
    | with_reducible apply kept_wr
    | with_reducible apply kept_cnt
    | with_reducible apply kept_powerRecord
    | with_reducible apply Kept.ite

theorem kept_loopStep {q : List Instr} {s : State} (h : Kept q s) (n p) : Kept q (loopStep s n p) := by
  unfold loopStep
  repeat' first
    | with_reducible exact h
    | with_reducible assumption
    | with_reducible apply kept_stepThermal
    | with_reducible apply kept_stepLevels
    | with_reducible apply kept_wrs
    | with_reducible apply kept_stepCapState
    | with_reducible apply kept_trace
    | with_reducible apply kept_showLevel
    | with_reducible apply Kept.ite
    | simp only [kept_mk]
    | with_reducible apply Kept.parts

theorem kept_execPowerLoopStep {q : List Instr} {s : State} (h : Kept q s) (p) : KeptOut q (execPowerLoopStep p s) := by
  unfold execPowerLoopStep
  repeat' first
    | with_reducible exact h
    | with_reducible assumption
    | with_reducible exact KeptOut.refused
    | with_reducible apply KeptOut.ite
    | with_reducible apply KeptOut.next
    | with_reducible apply kept_stepHolds
    | with_reducible apply kept_loopStep
    | with_reducible apply kept_taskRun
    | with_reducible apply Kept.ite

theorem kept_clampOn {q : List Instr} {s : State} (h : Kept q s) : Kept q (clampOn s) := by
  unfold clampOn
  repeat' first
    | with_reducible exact h
    | with_reducible assumption
    | with_reducible apply kept_cnt
    | with_reducible apply kept_wr
    | with_reducible apply kept_showLevel
    | with_reducible apply kept_powerRecord
    | with_reducible apply Kept.ite
    | simp only [kept_mk]
    | with_reducible apply Kept.parts

theorem kept_execClampAssert {q : List Instr} {s : State} (h : Kept q s) : KeptOut q (execClampAssert s) := by
  unfold execClampAssert
  repeat' first
    | with_reducible exact h
    | with_reducible assumption
    | with_reducible exact KeptOut.refused
    | with_reducible apply KeptOut.ite
    | with_reducible apply KeptOut.next
    | with_reducible apply kept_clampOn
    | with_reducible apply Kept.ite
    | simp only [kept_mk]
    | with_reducible apply Kept.parts

theorem kept_execClampRelease {q : List Instr} {s : State} (h : Kept q s) : KeptOut q (execClampRelease s) := by
  unfold execClampRelease
  repeat' first
    | with_reducible exact h
    | with_reducible assumption
    | with_reducible exact KeptOut.refused
    | with_reducible apply KeptOut.ite
    | with_reducible apply KeptOut.next
    | with_reducible apply Kept.ite
    | simp only [kept_mk]
    | with_reducible apply Kept.parts

theorem kept_sampleOne {q : List Instr} {s : State} (h : Kept q s) (e) : Kept q (sampleOne s e) := by
  unfold sampleOne
  repeat' first
    | with_reducible exact h
    | with_reducible assumption
    | with_reducible apply kept_thermalRecord
    | with_reducible apply kept_wr
    | with_reducible apply Kept.ite
    | simp only [kept_mk]
    | with_reducible apply Kept.parts
    | with_reducible refine Kept.foldl ?_ (fun _ _ _ => ?_)
    | split

theorem kept_thermTrip {q : List Instr} {s : State} (h : Kept q s) (i t) : Kept q (thermTrip s i t) := by
  unfold thermTrip
  repeat' first
    | with_reducible exact h
    | with_reducible assumption
    | with_reducible apply kept_logRecord
    | with_reducible apply Kept.ite
    | simp only [kept_mk]
    | with_reducible apply Kept.parts

theorem kept_sampleLevel {q : List Instr} {s : State} (h : Kept q s) (hot) : Kept q (sampleLevel s hot) := by
  unfold sampleLevel
  repeat' first
    | with_reducible exact h
    | with_reducible assumption
    | with_reducible apply kept_wrs
    | with_reducible apply kept_cnt
    | with_reducible apply kept_thermalRecord
    | with_reducible apply kept_showLevel
    | with_reducible apply Kept.ite

theorem kept_sampleMax {q : List Instr} {s : State} (h : Kept q s) (i t) : Kept q (sampleMax s i t) := by
  unfold sampleMax
  repeat' first
    | with_reducible exact h
    | with_reducible assumption
    | with_reducible apply kept_wrs
    | with_reducible apply Kept.ite
    | simp only [kept_mk]
    | with_reducible apply Kept.parts

theorem kept_execJunctionSample {q : List Instr} {s : State} (h : Kept q s) (l) : KeptOut q (execJunctionSample l s) := by
  unfold execJunctionSample
  repeat' first
    | with_reducible exact h
    | with_reducible assumption
    | with_reducible exact KeptOut.refused
    | with_reducible apply KeptOut.ite
    | with_reducible apply KeptOut.next
    | with_reducible apply kept_sampleOne
    | with_reducible apply kept_sampleLevel
    | with_reducible apply kept_sampleMax
    | with_reducible apply kept_thermTrip
    | with_reducible apply Kept.ite
    | simp only [kept_mk]
    | with_reducible apply Kept.parts
    | with_reducible refine Kept.foldl ?_ (fun _ _ _ => ?_)
    | split

theorem kept_execPeakCurrent {q : List Instr} {s : State} (h : Kept q s) (rail amps) : KeptOut q (execPeakCurrent rail amps s) := by
  unfold execPeakCurrent
  repeat' first
    | with_reducible exact h
    | with_reducible assumption
    | with_reducible exact KeptOut.refused
    | with_reducible apply KeptOut.ite
    | with_reducible apply KeptOut.next
    | with_reducible apply kept_showLevel
    | with_reducible apply kept_powerRecord
    | with_reducible apply Kept.ite
    | simp only [kept_mk]
    | with_reducible apply Kept.parts

theorem kept_execRailWindow {q : List Instr} {s : State} (h : Kept q s) (rail mv) : KeptOut q (execRailWindow rail mv s) := by
  unfold execRailWindow
  repeat' first
    | with_reducible exact h
    | with_reducible assumption
    | with_reducible exact KeptOut.refused
    | with_reducible apply KeptOut.ite
    | with_reducible apply KeptOut.next
    | with_reducible apply kept_showLevel
    | with_reducible apply kept_powerRecord
    | with_reducible apply Kept.ite
    | simp only [kept_mk]
    | with_reducible apply Kept.parts

theorem kept_execRailWindowReturn {q : List Instr} {s : State} (h : Kept q s) (rail) : KeptOut q (execRailWindowReturn rail s) := by
  unfold execRailWindowReturn
  repeat' first
    | with_reducible exact h
    | with_reducible assumption
    | with_reducible exact KeptOut.refused
    | with_reducible apply KeptOut.ite
    | with_reducible apply KeptOut.next
    | with_reducible apply kept_showLevel
    | with_reducible apply Kept.ite
    | simp only [kept_mk]
    | with_reducible apply Kept.parts

theorem kept_execGpioInputEdge {q : List Instr} {s : State} (h : Kept q s) (pin high lost) : KeptOut q (execGpioInputEdge pin high lost s) := by
  unfold execGpioInputEdge
  repeat' first
    | with_reducible exact h
    | with_reducible assumption
    | with_reducible exact KeptOut.refused
    | with_reducible apply KeptOut.ite
    | with_reducible apply KeptOut.next
    | with_reducible apply kept_wrb
    | with_reducible apply kept_cdcLost
    | with_reducible apply Kept.ite

theorem kept_execCdcResync {q : List Instr} {s : State} (h : Kept q s) : KeptOut q (execCdcResync s) := by
  unfold execCdcResync
  repeat' first
    | with_reducible exact h
    | with_reducible assumption
    | with_reducible exact KeptOut.refused
    | with_reducible apply KeptOut.ite
    | with_reducible apply KeptOut.next
    | with_reducible apply Kept.ite
    | simp only [kept_mk]
    | with_reducible apply Kept.parts

end Sys2Proof.Machine
end

