-- ==== Sys2Proof/Laws/KeptReset.lean ====
section
/-!
SUPPORT. Laws/KeptReset.lean: the operations of Machine/Reset.lean keep the canonical form of every store and the queue.
-/
namespace Sys2Proof.Machine
open Sys2Proof

theorem kept_bootBegin {q : List Instr} {s : State} (h : Kept q s) : Kept q (bootBegin s) := by
  unfold bootBegin
  repeat' first
    | with_reducible exact h
    | with_reducible assumption
    | with_reducible apply kept_wr
    | with_reducible apply kept_trace
    | with_reducible apply kept_clampOn
    | with_reducible apply Kept.ite
    | simp only [kept_mk]
    | with_reducible apply Kept.parts

theorem kept_coldReset {q : List Instr} {s : State} (h : Kept q s) : Kept q (coldReset s) :=
  ⟨⟨reset_canonical.1, reset_canonical.2.1, h.1.2.2.1, reset_canonical.2.2.2.1, reset_canonical.2.2.2.2⟩, h.2⟩

theorem scramble_wf (l : List Host.Cell) (k : Nat) : Memory.wf (scramble l k) = true := by
  suffices hs : ∀ (es : List (Host.Cell × Nat)) (m : List Host.Cell), Memory.wf m = true →
      Memory.wf (es.foldl (fun m (e : Host.Cell × Nat) => putKey m e.1.1 hbmDefault (BitVec.ofNat 8 (Config.freeValue (k + e.2)))) m) = true from
    hs _ [] rfl
  intro es
  induction es with
  | nil => exact fun _ h => h
  | cons e es ih => exact fun m h => ih _ (putMem_wf m e.1.1 [BitVec.ofNat 8 (Config.freeValue (k + e.2))] h)

theorem kept_entries_sorted {l : List (Nat × Nat)} (h : sortedKeys l = true) : sortedKeys (l.filterMap keptEntry) = true := by
  refine sortedKeys_filterMap (fun e d he => ?_) h
  unfold keptEntry at he
  split at he
  · cases he; rfl
  · rw [Option.map_eq_some_iff] at he
    obtain ⟨v, -, rfl⟩ := he
    rfl

theorem kept_warmReset {q : List Instr} {s : State} (h : Kept q s) (cause : Nat) : Kept q (warmReset s cause) := by
  unfold warmReset
  dsimp only
  refine Kept.foldl (kept_dirShow (Kept.foldl (kept_reserveLeft (kept_cnt (kept_wr (kept_wrs ?_ _) _ _) _ _)) (fun _ _ k => kept_retiredPcs k _))) (fun _ _ k => kept_clStatus k _)
  exact ⟨⟨kept_entries_sorted h.1.1, scramble_wf _ _, h.1.2.2.1, rfl, rfl⟩, h.2⟩

theorem kept_execPwrGoodFall {q : List Instr} {s : State} (h : Kept q s) : KeptOut q (execPwrGoodFall s) := by
  unfold execPwrGoodFall
  repeat' first
    | with_reducible exact h
    | with_reducible assumption
    | with_reducible exact KeptOut.refused
    | with_reducible apply KeptOut.ite
    | with_reducible apply KeptOut.next
    | with_reducible apply kept_coldReset

theorem kept_execResetNAssert {q : List Instr} {s : State} (h : Kept q s) : KeptOut q (execResetNAssert s) := by
  unfold execResetNAssert
  repeat' first
    | with_reducible exact h
    | with_reducible assumption
    | with_reducible exact KeptOut.refused
    | with_reducible apply KeptOut.ite
    | with_reducible apply KeptOut.next
    | with_reducible apply kept_warmReset
    | with_reducible apply Kept.ite

theorem kept_execResetNRelease {q : List Instr} {s : State} (h : Kept q s) (bootSrc mgr) : KeptOut q (execResetNRelease bootSrc mgr s) := by
  unfold execResetNRelease
  repeat' first
    | with_reducible exact h
    | with_reducible assumption
    | with_reducible exact KeptOut.refused
    | with_reducible apply KeptOut.ite
    | with_reducible apply KeptOut.next
    | with_reducible apply kept_wr
    | with_reducible apply kept_bootBegin
    | with_reducible apply kept_wrb
    | with_reducible apply Kept.ite

theorem kept_resetCmd {q : List Instr} {s : State} (h : Kept q s) (w) : Kept q (resetCmd s w) := by
  unfold resetCmd
  repeat' first
    | with_reducible exact h
    | with_reducible assumption
    | with_reducible apply kept_regError
    | with_reducible apply kept_bootBegin
    | with_reducible apply kept_warmReset
    | with_reducible apply Kept.ite

theorem kept_execResetCmdWarm {q : List Instr} {s : State} (h : Kept q s) (w) : KeptOut q (execResetCmdWarm w s) := by
  unfold execResetCmdWarm
  repeat' first
    | with_reducible exact h
    | with_reducible assumption
    | with_reducible exact KeptOut.refused
    | with_reducible apply KeptOut.ite
    | with_reducible apply KeptOut.next
    | with_reducible apply kept_resetCmd

end Sys2Proof.Machine
end

