-- ==== Sys2Proof/Laws/KeptTicks.lean ====
section
/-!
SUPPORT. Laws/KeptTicks.lean: the operations of Machine/Ticks.lean keep the canonical form of every store and the queue.
-/
namespace Sys2Proof.Machine
open Sys2Proof

theorem kept_execTickStart {q : List Instr} {s : State} (h : Kept q s) : KeptOut q (execTickStart s) := by
  unfold execTickStart
  repeat' first
    | with_reducible exact h
    | with_reducible assumption
    | with_reducible exact KeptOut.refused
    | with_reducible apply KeptOut.ite
    | with_reducible apply KeptOut.next
    | with_reducible apply kept_newTick
    | with_reducible apply kept_passKerf
    | with_reducible apply kept_runOn
    | with_reducible apply Kept.ite

theorem kept_timeStatus {q : List Instr} {s : State} (h : Kept q s) : Kept q (timeStatus s) := by
  unfold timeStatus
  repeat' first | with_reducible exact h | with_reducible assumption | with_reducible apply kept_wr | with_reducible apply kept_wrb

theorem kept_setTimeState {q : List Instr} {s : State} (h : Kept q s) (st) : Kept q (setTimeState s st) := by
  unfold setTimeState
  repeat' first
    | with_reducible exact h
    | with_reducible assumption
    | with_reducible apply kept_timeStatus
    | with_reducible apply kept_stopFn
    | with_reducible apply Kept.ite
    | simp only [kept_mk]
    | with_reducible apply Kept.parts

theorem kept_timeRecord {q : List Instr} {s : State} (h : Kept q s) (cause) : Kept q (timeRecord s cause) := by
  unfold timeRecord
  repeat' first | with_reducible exact h | with_reducible assumption | with_reducible apply kept_report

theorem kept_reanchor {q : List Instr} {s : State} (h : Kept q s) : Kept q (reanchor s) := by
  unfold reanchor
  repeat' first
    | with_reducible exact h
    | with_reducible assumption
    | with_reducible apply Kept.ite
    | simp only [kept_mk]
    | with_reducible apply Kept.parts

theorem kept_stepTime {q : List Instr} {s : State} (h : Kept q s) : Kept q (stepTime s) := by
  unfold stepTime
  repeat' first
    | with_reducible exact h
    | with_reducible assumption
    | with_reducible apply kept_reanchor
    | with_reducible apply kept_timeRecord
    | with_reducible apply kept_wr
    | with_reducible apply Kept.ite
    | simp only [kept_mk]
    | with_reducible apply Kept.parts

theorem kept_alignAlarm {q : List Instr} {s : State} (h : Kept q s) : Kept q (alignAlarm s) := by
  unfold alignAlarm
  repeat' first
    | with_reducible exact h
    | with_reducible assumption
    | with_reducible apply kept_timeRecord
    | with_reducible apply kept_wr
    | with_reducible apply kept_setTimeState
    | with_reducible apply Kept.ite
    | simp only [kept_mk]
    | with_reducible apply Kept.parts

theorem kept_validOffset {q : List Instr} {s : State} (h : Kept q s) (o) : Kept q (validOffset s o) := by
  unfold validOffset
  repeat' first
    | with_reducible exact h
    | with_reducible assumption
    | with_reducible apply kept_stepTime
    | with_reducible apply kept_setTimeState
    | with_reducible apply kept_alignAlarm
    | with_reducible apply Kept.ite
    | simp only [kept_mk]
    | with_reducible apply Kept.parts
    | with_reducible refine Kept.foldl ?_ (fun _ _ _ => ?_)
    | split

theorem kept_unsync {q : List Instr} {s : State} (h : Kept q s) : Kept q (unsync s) := by
  unfold unsync
  repeat' first
    | with_reducible exact h
    | with_reducible assumption
    | with_reducible apply kept_setTimeState
    | with_reducible apply Kept.ite
    | simp only [kept_mk]
    | with_reducible apply Kept.parts

theorem kept_refOffset {q : List Instr} {s : State} (h : Kept q s) (l o) : Kept q (refOffset s l o) := by
  unfold refOffset
  repeat' first
    | with_reducible exact h
    | with_reducible assumption
    | with_reducible apply kept_timeStatus
    | with_reducible apply kept_validOffset
    | with_reducible apply Kept.ite
    | simp only [kept_mk]
    | with_reducible apply Kept.parts
    | with_reducible refine Kept.foldl ?_ (fun _ _ _ => ?_)

theorem kept_execTimeWordSend {q : List Instr} {s : State} (h : Kept q s) (x0) : KeptOut q (execTimeWordSend x0 s) := by
  unfold execTimeWordSend
  repeat' first
    | with_reducible exact h
    | with_reducible assumption
    | with_reducible exact KeptOut.refused
    | with_reducible apply KeptOut.ite
    | with_reducible apply KeptOut.next
    | with_reducible apply kept_sendLcb
    | with_reducible apply Kept.ite
    | simp only [kept_mk]
    | with_reducible apply Kept.parts

theorem kept_execTimeLcbReceive {q : List Instr} {s : State} (h : Kept q s) (x0 lcb) : KeptOut q (execTimeLcbReceive x0 lcb s) := by
  unfold execTimeLcbReceive
  repeat' first
    | with_reducible exact h
    | with_reducible assumption
    | with_reducible exact KeptOut.refused
    | with_reducible apply KeptOut.ite
    | with_reducible apply KeptOut.next
    | with_reducible apply kept_refOffset
    | with_reducible apply Kept.ite
    | simp only [kept_mk]
    | with_reducible apply Kept.parts

theorem kept_execTickInEdge {q : List Instr} {s : State} (h : Kept q s) (lost) : KeptOut q (execTickInEdge s lost) := by
  unfold execTickInEdge
  repeat' first
    | with_reducible exact h
    | with_reducible assumption
    | with_reducible exact KeptOut.refused
    | with_reducible apply KeptOut.ite
    | with_reducible apply KeptOut.next
    | with_reducible apply kept_wr
    | with_reducible apply kept_cdcLost
    | with_reducible apply kept_timeStatus
    | with_reducible apply kept_validOffset
    | with_reducible apply Kept.ite

theorem kept_execTimeReferenceLoss {q : List Instr} {s : State} (h : Kept q s) : KeptOut q (execTimeReferenceLoss s) := by
  unfold execTimeReferenceLoss
  repeat' first
    | with_reducible exact h
    | with_reducible assumption
    | with_reducible exact KeptOut.refused
    | with_reducible apply KeptOut.ite
    | with_reducible apply KeptOut.next
    | with_reducible apply kept_setTimeState
    | with_reducible apply kept_timeStatus
    | with_reducible apply Kept.ite
    | simp only [kept_mk]
    | with_reducible apply Kept.parts

theorem kept_execHoldoverExpired {q : List Instr} {s : State} (h : Kept q s) : KeptOut q (execHoldoverExpired s) := by
  unfold execHoldoverExpired
  repeat' first
    | with_reducible exact h
    | with_reducible assumption
    | with_reducible exact KeptOut.refused
    | with_reducible apply KeptOut.ite
    | with_reducible apply KeptOut.next
    | with_reducible apply kept_timeRecord
    | with_reducible apply kept_wr
    | with_reducible apply kept_setTimeState
    | with_reducible apply Kept.ite

theorem kept_timeSrcWrite {q : List Instr} {s : State} (h : Kept q s) (w src acc) : Kept q (timeSrcWrite s w src acc) := by
  unfold timeSrcWrite
  repeat' first
    | with_reducible exact h
    | with_reducible assumption
    | with_reducible apply kept_regError
    | with_reducible apply kept_wr
    | with_reducible apply kept_setTimeState
    | with_reducible apply kept_unsync
    | with_reducible apply Kept.ite
    | simp only [kept_mk]
    | with_reducible apply Kept.parts

theorem kept_execTimeSrcWrite {q : List Instr} {s : State} (h : Kept q s) (w src) : KeptOut q (execTimeSrcWrite w src s) := by
  unfold execTimeSrcWrite
  repeat' first
    | with_reducible exact h
    | with_reducible assumption
    | with_reducible exact KeptOut.refused
    | with_reducible apply KeptOut.ite
    | with_reducible apply KeptOut.next
    | with_reducible apply kept_timeSrcWrite

theorem kept_reacquire {q : List Instr} {s : State} (h : Kept q s) : Kept q (reacquire s) := by
  unfold reacquire
  repeat' first | with_reducible exact h | with_reducible assumption | with_reducible apply kept_unsync | with_reducible apply Kept.ite

theorem kept_execReacquire {q : List Instr} {s : State} (h : Kept q s) : KeptOut q (execReacquire s) := by
  unfold execReacquire
  repeat' first
    | with_reducible exact h
    | with_reducible assumption
    | with_reducible exact KeptOut.refused
    | with_reducible apply KeptOut.ite
    | with_reducible apply KeptOut.next
    | with_reducible apply kept_reacquire

theorem kept_timerReaches {q : List Instr} {s : State} (h : Kept q s) (f k) : Kept q (timerReaches s f k) := by
  unfold timerReaches
  repeat' first
    | with_reducible exact h
    | with_reducible assumption
    | with_reducible apply kept_wr
    | with_reducible apply Kept.ite
    | simp only [kept_mk]
    | with_reducible apply Kept.parts

theorem kept_execGtimerFire {q : List Instr} {s : State} (h : Kept q s) (k) : KeptOut q (execGtimerFire k s) := by
  unfold execGtimerFire
  repeat' first
    | with_reducible exact h
    | with_reducible assumption
    | with_reducible exact KeptOut.refused
    | with_reducible apply KeptOut.ite
    | with_reducible apply KeptOut.next
    | with_reducible apply kept_cnt
    | with_reducible apply kept_timerReaches
    | with_reducible apply Kept.ite
    | simp only [kept_mk]
    | with_reducible apply Kept.parts
    | with_reducible refine Kept.foldl ?_ (fun _ _ _ => ?_)
    | split

theorem kept_snapSource {q : List Instr} {s : State} (h : Kept q s) (x1) : Kept q (snapSource s x1) := by
  unfold snapSource
  repeat' first
    | with_reducible exact h
    | with_reducible assumption
    | with_reducible apply kept_wrs
    | with_reducible apply kept_wr
    | with_reducible apply kept_bufStatus
    | with_reducible apply Kept.ite
    | simp only [kept_mk]
    | with_reducible apply Kept.parts
    | with_reducible refine Kept.foldl ?_ (fun _ _ _ => ?_)
    | split

theorem kept_snapReq {q : List Instr} {s : State} (h : Kept q s) (b) : Kept q (snapReq s b) := by
  unfold snapReq
  repeat' first
    | with_reducible exact h
    | with_reducible assumption
    | with_reducible apply kept_wr
    | with_reducible apply kept_wrs
    | with_reducible apply Kept.ite
    | simp only [kept_mk]
    | with_reducible apply Kept.parts

theorem kept_execSnapshotReq {q : List Instr} {s : State} (h : Kept q s) (b) : KeptOut q (execSnapshotReq b s) := by
  unfold execSnapshotReq
  repeat' first
    | with_reducible exact h
    | with_reducible assumption
    | with_reducible exact KeptOut.refused
    | with_reducible apply KeptOut.ite
    | with_reducible apply KeptOut.next
    | with_reducible apply kept_snapReq

theorem kept_execSnapshotDone {q : List Instr} {s : State} (h : Kept q s) (b) : KeptOut q (execSnapshotDone b s) := by
  unfold execSnapshotDone
  repeat' first
    | with_reducible exact h
    | with_reducible assumption
    | with_reducible exact KeptOut.refused
    | with_reducible apply KeptOut.ite
    | with_reducible apply KeptOut.next
    | with_reducible apply kept_snapSource
    | with_reducible apply kept_wrs
    | with_reducible apply Kept.ite
    | simp only [kept_mk]
    | with_reducible apply Kept.parts

end Sys2Proof.Machine
end

