-- ==== Sys2Proof/Laws/KeptRegAccess.lean ====
section
/-!
SUPPORT. Laws/KeptRegAccess.lean: the operations of Machine/RegAccess.lean keep the canonical form of every store and the queue.
-/
namespace Sys2Proof.Machine
open Sys2Proof

theorem kept_regRefresh {q : List Instr} {s : State} (h : Kept q s) (x) : Kept q (regRefresh s x) := by
  unfold regRefresh
  repeat' first
    | with_reducible exact h
    | with_reducible assumption
    | with_reducible apply kept_timeStatus
    | with_reducible apply kept_pcCounts
    | with_reducible apply kept_wrb
    | with_reducible apply kept_ctxStatus
    | with_reducible apply kept_stepStatus
    | with_reducible apply kept_ringFull
    | with_reducible apply kept_combNow
    | with_reducible apply Kept.ite
    | simp only
    | with_reducible apply Kept.parts
    | with_reducible refine Kept.foldl ?_ (fun _ _ _ => ?_)
    | split

theorem kept_regShown {q : List Instr} {s : State} (h : Kept q s) (x) : KeptSnd q (regShown s x) := by
  unfold regShown
  repeat' first
    | with_reducible exact h
    | with_reducible assumption
    | with_reducible apply KeptSnd.ite
    | with_reducible apply KeptSnd.mk
    | with_reducible apply kept_takeFree

theorem kept_clearRead {q : List Instr} {s : State} (h : Kept q s) (x lo n) : Kept q (clearRead s x lo n) := by
  unfold clearRead
  repeat' first
    | with_reducible exact h
    | with_reducible assumption
    | with_reducible apply kept_wr
    | with_reducible apply Kept.ite
    | simp only [kept_mk]
    | with_reducible apply Kept.parts
    | with_reducible refine Kept.foldl ?_ (fun _ _ _ => ?_)

theorem kept_readAt {q : List Instr} {s : State} (h : Kept q s) (x : RegAt) (a n : Nat) : KeptSnd q (readAt s x a n) := by
  have k := Kept.snd (kept_regShown (kept_regRefresh h x) x)
  unfold readAt
  generalize regShown (regRefresh s x) x = r at k
  exact KeptSnd.mk (kept_clearRead k _ _ _)

theorem kept_readDword {q : List Instr} {s : State} (h : Kept q s) (a) : KeptSnd q (readDword s a) := by
  unfold readDword
  generalize regFind a = o
  cases o with
  | none => exact h
  | some x => exact kept_readAt h x _ _

theorem kept_writeField {q : List Instr} {r : State × Option Nat} (h : KeptFst q r) (x lo n new open_ f) : KeptFst q (writeField x lo n new open_ r f) := by
  unfold writeField
  dsimp only
  split
  · exact h
  · split
    · split
      · exact h
      · split
        · exact kept_wr h _ _
        · exact h
    · split
      · exact h
      · split
        · exact kept_wr h _ _
        · exact h
    · exact kept_wr h _ _
    · exact h

theorem kept_writeFields {q : List Instr} {s : State} (h : Kept q s) (w x off bytes lo new skip) (e : Option Nat) : Kept q (writeFields s w x off bytes lo new skip e) := by
  unfold writeFields
  dsimp only
  have key : ∀ (es : List (FieldDesc × Bool)) (r : State × Option Nat), KeptFst q r →
      KeptFst q (es.foldl (fun r (e : FieldDesc × Bool) =>
        if skip.contains e.1.name then r else writeField x lo (8 * bytes) new (fun _ => e.2) r e.1) r) := by
    intro es
    induction es with
    | nil => exact fun _ h => h
    | cons e es ih => exact fun r h => ih _ (KeptFst.ite h (kept_writeField h _ _ _ _ _ _))
  have k := key (x.desc.fields.zip (x.desc.fields.map (fun f => guardOpen s x f.guard))) (s, e) h
  split
  · exact kept_regError k _ _ _ _ _
  · exact k

theorem kept_writeCtx {q : List Instr} {s : State} (h : Kept q s) (w x off bytes lo new) : Kept q (writeCtx s w x off bytes lo new) := by
  unfold writeCtx
  repeat' first
    | with_reducible exact h
    | with_reducible assumption
    | with_reducible apply kept_writeFields
    | with_reducible apply kept_ctxDisable
    | with_reducible apply kept_regError
    | with_reducible apply kept_ctxEnable
    | with_reducible apply Kept.ite

theorem kept_writeHostCfg {q : List Instr} {s : State} (h : Kept q s) (w x off bytes lo new) : Kept q (writeHostCfg s w x off bytes lo new) := by
  unfold writeHostCfg
  repeat' first | with_reducible exact h | with_reducible assumption | with_reducible apply kept_writeFields | with_reducible apply Kept.ite

theorem kept_writePortCfg {q : List Instr} {s : State} (h : Kept q s) (w x off bytes lo new) : Kept q (writePortCfg s w x off bytes lo new) := by
  unfold writePortCfg
  repeat' first | with_reducible exact h | with_reducible assumption | with_reducible apply kept_writeFields | with_reducible apply Kept.ite

theorem kept_writeReg {q : List Instr} {s : State} (h : Kept q s) (w x off bytes lo new) : Kept q (writeReg s w x off bytes lo new) := by
  unfold writeReg
  repeat' first
    | with_reducible exact h
    | with_reducible assumption
    | with_reducible apply kept_writeFields
    | with_reducible apply kept_regError
    | with_reducible apply kept_funcCmd
    | with_reducible apply kept_ringEnable
    | with_reducible apply kept_ringHead
    | with_reducible apply kept_stepCmd
    | with_reducible apply kept_logClear
    | with_reducible apply kept_srcClear
    | with_reducible apply kept_timeSrcWrite
    | with_reducible apply kept_reacquire
    | with_reducible apply kept_snapReq
    | with_reducible apply kept_jigCommit
    | with_reducible apply kept_jigStageWrite
    | with_reducible apply kept_bundleWrite
    | with_reducible apply kept_routeWrite
    | with_reducible apply kept_physRetire
    | with_reducible apply kept_physReinstate
    | with_reducible apply kept_abortOp
    | with_reducible apply kept_writeCtx
    | with_reducible apply kept_extWrite
    | with_reducible apply kept_extRevoke
    | with_reducible apply kept_extRead
    | with_reducible apply kept_segInval
    | with_reducible apply kept_exportWrite
    | with_reducible apply kept_handoverWrite
    | with_reducible apply kept_writeHostCfg
    | with_reducible apply kept_writePortCfg
    | with_reducible apply kept_laneRetire
    | with_reducible apply kept_laneReinstate
    | with_reducible apply kept_eyeStart
    | with_reducible apply kept_pcRetire
    | with_reducible apply kept_pcReinstate
    | with_reducible apply kept_wr
    | with_reducible apply kept_wrs
    | with_reducible apply kept_moltWrite
    | with_reducible apply kept_resetCmd
    | with_reducible apply Kept.ite
    | simp only
    | with_reducible apply Kept.parts
    | with_reducible refine Kept.foldl ?_ (fun _ _ _ => ?_)
    | split

theorem kept_writeAt {q : List Instr} {s : State} (h : Kept q s) (w x a off bytes v) : Kept q (writeAt s w x a off bytes v) := by
  unfold writeAt
  repeat' first | with_reducible exact h | with_reducible assumption | with_reducible apply kept_writeReg

theorem kept_writeDword {q : List Instr} {s : State} (h : Kept q s) (w a off v) : Kept q (writeDword s w a off v) := by
  unfold writeDword
  repeat' first
    | with_reducible exact h
    | with_reducible assumption
    | with_reducible apply kept_writeAt
    | with_reducible apply kept_regError
    | with_reducible apply Kept.ite
    | simp only [kept_mk]
    | with_reducible apply Kept.parts
    | with_reducible refine Kept.foldl ?_ (fun _ _ _ => ?_)
    | split

theorem kept_writeFull {q : List Instr} {s : State} (h : Kept q s) (w a off bytes v) : Kept q (writeFull s w a off bytes v) := by
  unfold writeFull
  repeat' first
    | with_reducible exact h
    | with_reducible assumption
    | with_reducible apply kept_writeDword
    | with_reducible apply kept_writeAt
    | with_reducible apply kept_regError
    | with_reducible apply Kept.ite
    | simp only [kept_mk]
    | with_reducible apply Kept.parts
    | with_reducible refine Kept.foldl ?_ (fun _ _ _ => ?_)
    | split

theorem kept_readQword {q : List Instr} {s : State} (h : Kept q s) (a) : KeptSnd q (readQword s a) := by
  have two : KeptSnd q ((readDword s a).1 + 2 ^ 32 * (readDword (readDword s a).2 (a + 4)).1, (readDword (readDword s a).2 (a + 4)).2) :=
    KeptSnd.mk (Kept.snd (kept_readDword (Kept.snd (kept_readDword h a)) _))
  unfold readQword
  generalize regFind a = o
  generalize regFind (a + 4) = o'
  cases o with
  | none => exact two
  | some x =>
    cases o' with
    | none => exact two
    | some y => exact KeptSnd.ite (kept_readAt h x _ _) two

theorem kept_tableWrite {q : List Instr} {s : State} (h : Kept q s) (p f off v) : Kept q (tableWrite s p f off v) := by
  unfold tableWrite
  repeat' first
    | with_reducible exact h
    | with_reducible assumption
    | with_reducible apply kept_msixRetry
    | with_reducible apply Kept.ite
    | simp only [kept_mk]
    | with_reducible apply Kept.parts

theorem kept_viewRead {q : List Instr} {s : State} (h : Kept q s) (w off) : KeptSnd q (viewRead s w off) := by
  unfold viewRead
  generalize viewOf s w off = v
  generalize sliceOf w = x
  cases v with
  | addr a => exact kept_readDword h a
  | _ => cases x <;> exact h

theorem kept_viewWrite {q : List Instr} {s : State} (h : Kept q s) (w off v) : Kept q (viewWrite s w off v) := by
  unfold viewWrite
  repeat' first
    | with_reducible exact h
    | with_reducible assumption
    | with_reducible apply kept_tableWrite
    | with_reducible apply kept_sliceSet
    | with_reducible apply kept_regError
    | with_reducible apply kept_writeDword
    | with_reducible apply Kept.ite
    | simp only [kept_mk]
    | with_reducible apply Kept.parts
    | with_reducible refine Kept.foldl ?_ (fun _ _ _ => ?_)
    | split

theorem kept_regRead {q : List Instr} {s : State} (h : Kept q s) (w off bytes) : KeptSnd q (regRead s w off bytes) := by
  have k := Kept.snd (kept_viewRead h (actor s w) off)
  have two := KeptSnd.mk (a := (viewRead s (actor s w) off).1 + 2 ^ 32 * (viewRead (viewRead s (actor s w) off).2 (actor s w) (off + 4)).1)
    (Kept.snd (kept_viewRead k (actor s w) (off + 4)))
  unfold regRead
  dsimp only
  refine KeptSnd.ite (KeptSnd.mk (kept_regError h _ _ _ _ _)) (KeptSnd.ite (kept_viewRead h _ _) ?_)
  generalize viewOf s (actor s w) off = v
  cases v with
  | addr a => exact KeptSnd.ite (kept_readQword h a) two
  | _ => exact two

theorem kept_regWrite {q : List Instr} {s : State} (h : Kept q s) (w off bytes v) : Kept q (regWrite s w off bytes v) := by
  unfold regWrite
  repeat' first
    | with_reducible exact h
    | with_reducible assumption
    | with_reducible apply kept_regError
    | with_reducible apply kept_writeFull
    | with_reducible apply kept_writeDword
    | with_reducible apply kept_viewWrite
    | with_reducible apply Kept.ite
    | simp only
    | with_reducible apply Kept.parts
    | with_reducible refine Kept.foldl ?_ (fun _ _ _ => ?_)
    | split

theorem kept_execRegisterWrite {q : List Instr} {s : State} (h : Kept q s) (w off bytes v) : KeptOut q (execRegisterWrite w off bytes v s) := by
  unfold execRegisterWrite
  repeat' first
    | with_reducible exact h
    | with_reducible assumption
    | with_reducible exact KeptOut.refused
    | with_reducible apply KeptOut.ite
    | with_reducible apply KeptOut.next
    | with_reducible apply kept_regWrite

theorem kept_execReadClear {q : List Instr} {s : State} (h : Kept q s) (w off bytes) : KeptOut q (execReadClear w off bytes s) := by
  unfold execReadClear
  repeat' first
    | with_reducible exact h
    | with_reducible assumption
    | with_reducible exact KeptOut.refused
    | with_reducible apply KeptOut.ite
    | with_reducible apply KeptOut.next
    | with_reducible apply kept_regRead
    | with_reducible apply kept_emitOut
    | with_reducible apply Kept.ite
    | simp only [kept_mk]
    | with_reducible apply Kept.parts
    | with_reducible refine Kept.foldl ?_ (fun _ _ _ => ?_)
    | split
    | with_reducible apply Kept.getD
    | with_reducible apply Kept.snd

theorem kept_fabricAccess {q : List Instr} {s : State} {x : Hdr} {f : State → State} (hf : ∀ t, Kept q t → Kept q (f t)) (h : Kept q s) :
    Kept q (fabricAccess s x f) := Kept.ite (kept_answer h _ _ _ _ _ _ _) (Kept.ite (kept_answer h _ _ _ _ _ _ _) (hf _ h))

theorem kept_fabricRequest {q : List Instr} {s : State} {p : Packet} {k : Kind} {f : State → State} (hf : ∀ t, Kept q t → Kept q (f t))
    (h : Kept q s) : Kept q (fabricRequest s p k f) :=
  Kept.ite (kept_received (fun _ h => kept_fabricAccess hf h) h) h

theorem kept_execRegRead {q : List Instr} {s : State} (h : Kept q s) (p) : KeptOut q (execRegRead p s) := by
  unfold execRegRead
  repeat' first
    | with_reducible exact h
    | with_reducible assumption
    | with_reducible exact KeptOut.refused
    | with_reducible apply KeptOut.ite
    | with_reducible apply KeptOut.next
    | with_reducible apply kept_fabricRequest
    | with_reducible apply kept_regRead
    | with_reducible apply kept_answerData
    | with_reducible apply kept_answer
    | with_reducible apply Kept.ite
    | simp only
    | with_reducible apply Kept.parts
    | with_reducible refine Kept.foldl ?_ (fun _ _ _ => ?_)
    | split
    | with_reducible apply Kept.getD
    | with_reducible apply Kept.snd
    | with_reducible apply Kept.fst
    | refine Kept.sndOf (by assumption) ?_
    | refine Kept.fstOf (by assumption) ?_
    | refine Kept.optOf (by assumption) ?_
    | intro _

theorem kept_execRegWrite {q : List Instr} {s : State} (h : Kept q s) (p) : KeptOut q (execRegWrite p s) := by
  unfold execRegWrite
  repeat' first
    | with_reducible exact h
    | with_reducible assumption
    | with_reducible exact KeptOut.refused
    | with_reducible apply KeptOut.ite
    | with_reducible apply KeptOut.next
    | with_reducible apply kept_fabricRequest
    | with_reducible apply kept_regWrite
    | with_reducible apply kept_answer
    | with_reducible apply Kept.ite
    | simp only
    | with_reducible apply Kept.parts
    | with_reducible refine Kept.foldl ?_ (fun _ _ _ => ?_)
    | split
    | with_reducible apply Kept.getD
    | with_reducible apply Kept.snd
    | with_reducible apply Kept.fst
    | refine Kept.sndOf (by assumption) ?_
    | refine Kept.fstOf (by assumption) ?_
    | refine Kept.optOf (by assumption) ?_
    | intro _

end Sys2Proof.Machine
end

