-- ==== Sys2Proof/Laws/KeptBoot.lean ====
section
/-!
SUPPORT. Laws/KeptBoot.lean: the operations of Machine/Boot.lean keep the canonical form of every store and the queue.
-/
namespace Sys2Proof.Machine
open Sys2Proof

theorem kept_bootNext {q : List Instr} {s : State} (h : Kept q s) (k) : Kept q (bootNext s k) := by
  unfold bootNext
  repeat' first | with_reducible exact h | with_reducible assumption | with_reducible apply kept_trace | with_reducible apply kept_wr

theorem kept_bootHalt {q : List Instr} {s : State} (h : Kept q s) (cause) : Kept q (bootHalt s cause) := by
  unfold bootHalt
  repeat' first
    | with_reducible exact h
    | with_reducible assumption
    | with_reducible apply kept_wrs
    | with_reducible apply Kept.ite
    | simp only [kept_mk]
    | with_reducible apply Kept.parts

theorem kept_bootChoose {q : List Instr} {s : State} (h : Kept q s) (bank fallback) : Kept q (bootChoose s bank fallback) := by
  unfold bootChoose
  repeat' first
    | with_reducible exact h
    | with_reducible assumption
    | with_reducible apply kept_wrs
    | with_reducible apply kept_fwRecord
    | with_reducible apply kept_bootNext
    | with_reducible apply kept_trace
    | with_reducible apply Kept.ite

theorem kept_bootOther {q : List Instr} {s : State} (h : Kept q s) (cause) : Kept q (bootOther s cause) := by
  unfold bootOther
  repeat' first
    | with_reducible exact h
    | with_reducible assumption
    | with_reducible apply kept_bootChoose
    | with_reducible apply kept_bootHalt
    | with_reducible apply Kept.ite

theorem kept_bootIdentity {q : List Instr} {s : State} (h : Kept q s) (ok detail) : Kept q (bootIdentity s ok detail) := by
  unfold bootIdentity
  repeat' first
    | with_reducible exact h
    | with_reducible assumption
    | with_reducible apply kept_wrs
    | with_reducible apply kept_fwRecord
    | with_reducible apply kept_bootHalt
    | with_reducible apply kept_bootNext
    | with_reducible apply Kept.ite

theorem kept_bootDirectory {q : List Instr} {s : State} (h : Kept q s) (ok detail) : Kept q (bootDirectory s ok detail) := by
  unfold bootDirectory
  repeat' first
    | with_reducible exact h
    | with_reducible assumption
    | with_reducible apply kept_dirShow
    | with_reducible apply kept_bootHalt
    | with_reducible apply kept_fwRecord
    | with_reducible apply kept_bootChoose
    | with_reducible apply Kept.ite
    | simp only [kept_mk]
    | with_reducible apply Kept.parts
    | with_reducible refine Kept.foldl ?_ (fun _ _ _ => ?_)
    | split

theorem kept_bootVerify {q : List Instr} {s : State} (h : Kept q s) (ok detail) : Kept q (bootVerify s ok detail) := by
  unfold bootVerify
  repeat' first
    | with_reducible exact h
    | with_reducible assumption
    | with_reducible apply kept_bootOther
    | with_reducible apply kept_fwRecord
    | with_reducible apply kept_imageRejected
    | with_reducible apply kept_bootNext
    | with_reducible apply kept_securityStarts
    | with_reducible apply kept_procRuns
    | with_reducible apply Kept.ite

theorem kept_bootPartition {q : List Instr} {s : State} (h : Kept q s) : Kept q (bootPartition s) := by
  unfold bootPartition
  repeat' first
    | with_reducible exact h
    | with_reducible assumption
    | with_reducible apply kept_regWrite
    | with_reducible apply Kept.ite
    | simp only
    | with_reducible apply Kept.parts
    | with_reducible refine Kept.foldl ?_ (fun _ _ _ => ?_)
    | split

theorem kept_bootHbm {q : List Instr} {s : State} (h : Kept q s) (ok) : Kept q (bootHbm s ok) := by
  unfold bootHbm
  repeat' first
    | with_reducible exact h
    | with_reducible assumption
    | with_reducible apply kept_bootHalt
    | with_reducible apply kept_bootPartition
    | with_reducible apply kept_bootNext
    | with_reducible apply Kept.ite

theorem kept_bootCopy {q : List Instr} {s : State} (h : Kept q s) (ok detail) : Kept q (bootCopy s ok detail) := by
  unfold bootCopy
  repeat' first
    | with_reducible exact h
    | with_reducible assumption
    | with_reducible apply kept_bootOther
    | with_reducible apply kept_imageRejected
    | with_reducible apply kept_copyImage
    | with_reducible apply kept_bootNext
    | with_reducible apply kept_runImage
    | with_reducible apply Kept.ite
    | simp only
    | with_reducible apply Kept.parts
    | with_reducible refine Kept.foldl ?_ (fun _ _ _ => ?_)
    | split

theorem kept_bootRelease {q : List Instr} {s : State} (h : Kept q s) : Kept q (bootRelease s) := by
  unfold bootRelease
  repeat' first
    | with_reducible exact h
    | with_reducible assumption
    | with_reducible apply kept_procRuns
    | with_reducible apply kept_wr
    | with_reducible apply kept_taskBegin
    | with_reducible apply kept_bootNext
    | with_reducible apply Kept.ite
    | simp only [kept_mk]
    | with_reducible apply Kept.parts
    | with_reducible refine Kept.foldl ?_ (fun _ _ _ => ?_)

theorem kept_bootEntry {q : List Instr} {s : State} (h : Kept q s) (c i) : Kept q (bootEntry c s i) := by
  unfold bootEntry
  repeat' first
    | with_reducible exact h
    | with_reducible assumption
    | with_reducible apply kept_regWrite
    | with_reducible apply kept_fwRecord
    | with_reducible apply Kept.ite

theorem kept_bootPlanes {q : List Instr} {s : State} (h : Kept q s) (c) : Kept q (bootPlanes s c) := by
  unfold bootPlanes
  repeat' first
    | with_reducible exact h
    | with_reducible assumption
    | with_reducible apply kept_wr
    | with_reducible apply Kept.ite
    | simp only
    | with_reducible apply Kept.parts
    | with_reducible refine Kept.foldl ?_ (fun _ _ _ => ?_)

theorem kept_bootStarts {q : List Instr} {s : State} (h : Kept q s) (l) : Kept q (bootStarts s l) := by
  unfold bootStarts
  repeat' first
    | with_reducible exact h
    | with_reducible assumption
    | with_reducible apply kept_funcCmd
    | with_reducible apply Kept.ite
    | simp only [kept_mk]
    | with_reducible apply Kept.parts
    | with_reducible refine Kept.foldl ?_ (fun _ _ _ => ?_)

theorem kept_bootApply {q : List Instr} {s : State} (h : Kept q s) : Kept q (bootApply s) := by
  unfold bootApply
  repeat' first
    | with_reducible exact h
    | with_reducible assumption
    | with_reducible apply kept_bootEntry
    | with_reducible apply kept_bootPlanes
    | with_reducible apply kept_bootStarts
    | with_reducible apply Kept.ite
    | simp only [kept_mk]
    | with_reducible apply Kept.parts
    | with_reducible refine Kept.foldl ?_ (fun _ _ _ => ?_)
    | split

theorem kept_execBootStageComplete {q : List Instr} {s : State} (h : Kept q s) (ok detail) : KeptOut q (execBootStageComplete ok detail s) := by
  unfold execBootStageComplete
  repeat' first
    | with_reducible exact h
    | with_reducible assumption
    | with_reducible exact KeptOut.refused
    | with_reducible apply KeptOut.ite
    | with_reducible apply KeptOut.next
    | with_reducible apply kept_bootIdentity
    | with_reducible apply kept_bootDirectory
    | with_reducible apply kept_bootVerify
    | with_reducible apply kept_bootHbm
    | with_reducible apply kept_bootCopy
    | with_reducible apply kept_bootRelease
    | with_reducible apply kept_bootApply
    | with_reducible apply Kept.ite
    | simp only [kept_mk]
    | with_reducible apply Kept.parts
    | with_reducible refine Kept.foldl ?_ (fun _ _ _ => ?_)
    | split

end Sys2Proof.Machine
end

