-- ==== Sys2Proof/Laws/KeptCellMemory.lean ====
section
/-!
SUPPORT. Laws/KeptCellMemory.lean: the operations of Machine/CellMemory.lean keep the canonical form of every store and the queue.
-/
namespace Sys2Proof.Machine
open Sys2Proof

theorem kept_localAccess {q : List Instr} {l : Nat} {r : CellRun} {s : State} {a n : Nat} {f : CellRun → State → Nat → Nat → Res}
    (hf : ∀ r s x y, Kept q s → KeptRes q (f r s x y)) (h : Kept q s) : KeptRes q (localAccess l r s a n f) := by
  unfold localAccess
  split
  · exact KeptRes.fault
  · split
    · exact KeptRes.fault
    · exact hf _ _ _ _ (Kept.snd (kept_settle h _ _ _))

theorem kept_loadN {q : List Instr} {s : State} (h : Kept q s) (l n rd ra imm) : KeptOut q (loadN s l n rd ra imm) := by
  unfold loadN
  repeat' first
    | with_reducible exact h
    | with_reducible assumption
    | with_reducible exact KeptOut.refused
    | with_reducible apply KeptOut.ite
    | with_reducible apply KeptOut.next
    | with_reducible exact KeptRes.fault
    | with_reducible apply KeptRes.ite
    | with_reducible apply KeptRes.ok
    | with_reducible apply KeptRes.done
    | with_reducible apply kept_both
    | with_reducible apply kept_ins
    | with_reducible apply kept_localAccess
    | with_reducible apply Kept.ite
    | simp only [kept_mk]
    | with_reducible apply Kept.parts
    | with_reducible refine Kept.foldl ?_ (fun _ _ _ => ?_)
    | split
    | with_reducible apply Kept.getD
    | with_reducible apply Kept.snd
    | with_reducible apply Kept.fst
    | refine Kept.sndOf (by assumption) ?_
    | refine Kept.fstOf (by assumption) ?_
    | refine Kept.optOf (by assumption) ?_
    | intro _

theorem kept_storeN {q : List Instr} {s : State} (h : Kept q s) (l n rd ra imm) : KeptOut q (storeN s l n rd ra imm) := by
  unfold storeN
  repeat' first
    | with_reducible exact h
    | with_reducible assumption
    | with_reducible exact KeptOut.refused
    | with_reducible apply KeptOut.ite
    | with_reducible apply KeptOut.next
    | with_reducible exact KeptRes.fault
    | with_reducible apply KeptRes.ite
    | with_reducible apply KeptRes.ok
    | with_reducible apply KeptRes.done
    | with_reducible apply kept_both
    | with_reducible apply kept_ins
    | with_reducible apply kept_localAccess
    | with_reducible apply kept_spaceWr
    | with_reducible apply Kept.ite
    | simp only [kept_mk]
    | with_reducible apply Kept.parts
    | with_reducible refine Kept.foldl ?_ (fun _ _ _ => ?_)
    | split
    | with_reducible apply Kept.getD
    | with_reducible apply Kept.snd
    | with_reducible apply Kept.fst
    | refine Kept.sndOf (by assumption) ?_
    | refine Kept.fstOf (by assumption) ?_
    | refine Kept.optOf (by assumption) ?_
    | intro _

theorem kept_execLd8u {q : List Instr} {s : State} (h : Kept q s) (l rd ra imm) : KeptOut q (execLd8u l rd ra imm s) := by
  unfold execLd8u
  repeat' first
    | with_reducible exact h
    | with_reducible assumption
    | with_reducible exact KeptOut.refused
    | with_reducible apply KeptOut.ite
    | with_reducible apply KeptOut.next
    | with_reducible apply kept_loadN

theorem kept_execLd16u {q : List Instr} {s : State} (h : Kept q s) (l rd ra imm) : KeptOut q (execLd16u l rd ra imm s) := by
  unfold execLd16u
  repeat' first
    | with_reducible exact h
    | with_reducible assumption
    | with_reducible exact KeptOut.refused
    | with_reducible apply KeptOut.ite
    | with_reducible apply KeptOut.next
    | with_reducible apply kept_loadN

theorem kept_execLd32u {q : List Instr} {s : State} (h : Kept q s) (l rd ra imm) : KeptOut q (execLd32u l rd ra imm s) := by
  unfold execLd32u
  repeat' first
    | with_reducible exact h
    | with_reducible assumption
    | with_reducible exact KeptOut.refused
    | with_reducible apply KeptOut.ite
    | with_reducible apply KeptOut.next
    | with_reducible apply kept_loadN

theorem kept_execLd64 {q : List Instr} {s : State} (h : Kept q s) (l rd ra imm) : KeptOut q (execLd64 l rd ra imm s) := by
  unfold execLd64
  repeat' first
    | with_reducible exact h
    | with_reducible assumption
    | with_reducible exact KeptOut.refused
    | with_reducible apply KeptOut.ite
    | with_reducible apply KeptOut.next
    | with_reducible apply kept_loadN

theorem kept_execSt8 {q : List Instr} {s : State} (h : Kept q s) (l rd ra imm) : KeptOut q (execSt8 l rd ra imm s) := by
  unfold execSt8
  repeat' first
    | with_reducible exact h
    | with_reducible assumption
    | with_reducible exact KeptOut.refused
    | with_reducible apply KeptOut.ite
    | with_reducible apply KeptOut.next
    | with_reducible apply kept_storeN

theorem kept_execSt16 {q : List Instr} {s : State} (h : Kept q s) (l rd ra imm) : KeptOut q (execSt16 l rd ra imm s) := by
  unfold execSt16
  repeat' first
    | with_reducible exact h
    | with_reducible assumption
    | with_reducible exact KeptOut.refused
    | with_reducible apply KeptOut.ite
    | with_reducible apply KeptOut.next
    | with_reducible apply kept_storeN

theorem kept_execSt32 {q : List Instr} {s : State} (h : Kept q s) (l rd ra imm) : KeptOut q (execSt32 l rd ra imm s) := by
  unfold execSt32
  repeat' first
    | with_reducible exact h
    | with_reducible assumption
    | with_reducible exact KeptOut.refused
    | with_reducible apply KeptOut.ite
    | with_reducible apply KeptOut.next
    | with_reducible apply kept_storeN

theorem kept_execSt64 {q : List Instr} {s : State} (h : Kept q s) (l rd ra imm) : KeptOut q (execSt64 l rd ra imm s) := by
  unfold execSt64
  repeat' first
    | with_reducible exact h
    | with_reducible assumption
    | with_reducible exact KeptOut.refused
    | with_reducible apply KeptOut.ite
    | with_reducible apply KeptOut.next
    | with_reducible apply kept_storeN

theorem kept_execVld {q : List Instr} {s : State} (h : Kept q s) (l vd ra ri sc disp) : KeptOut q (execVld l vd ra ri sc disp s) := by
  unfold execVld
  repeat' first
    | with_reducible exact h
    | with_reducible assumption
    | with_reducible exact KeptOut.refused
    | with_reducible apply KeptOut.ite
    | with_reducible apply KeptOut.next
    | with_reducible exact KeptRes.fault
    | with_reducible apply KeptRes.ite
    | with_reducible apply KeptRes.ok
    | with_reducible apply KeptRes.done
    | with_reducible apply kept_loaded
    | with_reducible apply kept_both
    | with_reducible apply kept_ins
    | with_reducible apply kept_localAccess
    | with_reducible apply Kept.ite
    | simp only [kept_mk]
    | with_reducible apply Kept.parts
    | with_reducible refine Kept.foldl ?_ (fun _ _ _ => ?_)
    | split
    | with_reducible apply Kept.getD
    | with_reducible apply Kept.snd
    | with_reducible apply Kept.fst
    | refine Kept.sndOf (by assumption) ?_
    | refine Kept.fstOf (by assumption) ?_
    | refine Kept.optOf (by assumption) ?_
    | intro _

theorem kept_execVst {q : List Instr} {s : State} (h : Kept q s) (l vd ra ri sc disp) : KeptOut q (execVst l vd ra ri sc disp s) := by
  unfold execVst
  repeat' first
    | with_reducible exact h
    | with_reducible assumption
    | with_reducible exact KeptOut.refused
    | with_reducible apply KeptOut.ite
    | with_reducible apply KeptOut.next
    | with_reducible exact KeptRes.fault
    | with_reducible apply KeptRes.ite
    | with_reducible apply KeptRes.ok
    | with_reducible apply KeptRes.done
    | with_reducible apply kept_loaded
    | with_reducible apply kept_both
    | with_reducible apply kept_ins
    | with_reducible apply kept_localAccess
    | with_reducible apply kept_spaceWr
    | with_reducible apply Kept.ite
    | simp only [kept_mk]
    | with_reducible apply Kept.parts
    | with_reducible refine Kept.foldl ?_ (fun _ _ _ => ?_)
    | split
    | with_reducible apply Kept.getD
    | with_reducible apply Kept.snd
    | with_reducible apply Kept.fst
    | refine Kept.sndOf (by assumption) ?_
    | refine Kept.fstOf (by assumption) ?_
    | refine Kept.optOf (by assumption) ?_
    | intro _

theorem kept_sharedAccess {q : List Instr} {a : Nat} {f : Nat → Res} (hf : ∀ x, KeptRes q (f x)) : KeptRes q (sharedAccess a f) :=
  KeptRes.ite KeptRes.fault (KeptRes.ite (hf _) KeptRes.fault)

theorem kept_pendShared {q : List Instr} {s : State} (h : Kept q s) (l : Nat) (r : CellRun) (rd v : Nat) : KeptRes q (pendShared l r s rd v) :=
  KeptRes.ok (Kept.snd (kept_issue h _ _ _))

theorem kept_execSld {q : List Instr} {s : State} (h : Kept q s) (l rd ra imm) : KeptOut q (execSld l rd ra imm s) := by
  unfold execSld
  repeat' first
    | with_reducible exact h
    | with_reducible assumption
    | with_reducible exact KeptOut.refused
    | with_reducible apply KeptOut.ite
    | with_reducible apply KeptOut.next
    | with_reducible exact KeptRes.fault
    | with_reducible apply KeptRes.ite
    | with_reducible apply KeptRes.ok
    | with_reducible apply KeptRes.done
    | with_reducible apply kept_stockOnly
    | with_reducible apply kept_ins
    | with_reducible apply kept_sharedAccess
    | with_reducible apply kept_pendShared
    | with_reducible apply Kept.ite
    | simp only [kept_mk]
    | with_reducible apply Kept.parts
    | with_reducible refine Kept.foldl ?_ (fun _ _ _ => ?_)
    | split
    | with_reducible apply Kept.getD
    | with_reducible apply Kept.snd
    | with_reducible apply Kept.fst
    | refine Kept.sndOf (by assumption) ?_
    | refine Kept.fstOf (by assumption) ?_
    | refine Kept.optOf (by assumption) ?_
    | intro _

theorem kept_execSst {q : List Instr} {s : State} (h : Kept q s) (l rd ra imm) : KeptOut q (execSst l rd ra imm s) := by
  unfold execSst
  repeat' first
    | with_reducible exact h
    | with_reducible assumption
    | with_reducible exact KeptOut.refused
    | with_reducible apply KeptOut.ite
    | with_reducible apply KeptOut.next
    | with_reducible exact KeptRes.fault
    | with_reducible apply KeptRes.ite
    | with_reducible apply KeptRes.ok
    | with_reducible apply KeptRes.done
    | with_reducible apply kept_stockOnly
    | with_reducible apply kept_ins
    | with_reducible apply kept_sharedAccess
    | with_reducible apply kept_sharedWr
    | with_reducible apply Kept.ite
    | simp only [kept_mk]
    | with_reducible apply Kept.parts
    | with_reducible refine Kept.foldl ?_ (fun _ _ _ => ?_)
    | split
    | with_reducible apply Kept.getD
    | with_reducible apply Kept.snd
    | with_reducible apply Kept.fst
    | refine Kept.sndOf (by assumption) ?_
    | refine Kept.fstOf (by assumption) ?_
    | refine Kept.optOf (by assumption) ?_
    | intro _

theorem kept_samo {q : List Instr} {s : State} (h : Kept q s) (m l rd ra rb f) : KeptOut q (samo m s l rd ra rb f) := by
  unfold samo
  repeat' first
    | with_reducible exact h
    | with_reducible assumption
    | with_reducible exact KeptOut.refused
    | with_reducible apply KeptOut.ite
    | with_reducible apply KeptOut.next
    | with_reducible exact KeptRes.fault
    | with_reducible apply KeptRes.ite
    | with_reducible apply KeptRes.ok
    | with_reducible apply KeptRes.done
    | with_reducible apply kept_stockOnly
    | with_reducible apply kept_ins
    | with_reducible apply kept_sharedAccess
    | with_reducible apply kept_pendShared
    | with_reducible apply kept_sharedWr
    | with_reducible apply Kept.ite
    | simp only
    | with_reducible apply Kept.parts
    | with_reducible refine Kept.foldl ?_ (fun _ _ _ => ?_)
    | split
    | with_reducible apply Kept.getD
    | with_reducible apply Kept.snd
    | with_reducible apply Kept.fst
    | refine Kept.sndOf (by assumption) ?_
    | refine Kept.fstOf (by assumption) ?_
    | refine Kept.optOf (by assumption) ?_
    | intro _

theorem kept_execSamoAdd {q : List Instr} {s : State} (h : Kept q s) (l rd ra rb) : KeptOut q (execSamoAdd l rd ra rb s) := by
  unfold execSamoAdd
  repeat' first
    | with_reducible exact h
    | with_reducible assumption
    | with_reducible exact KeptOut.refused
    | with_reducible apply KeptOut.ite
    | with_reducible apply KeptOut.next
    | with_reducible apply kept_samo

theorem kept_execSamoSwap {q : List Instr} {s : State} (h : Kept q s) (l rd ra rb) : KeptOut q (execSamoSwap l rd ra rb s) := by
  unfold execSamoSwap
  repeat' first
    | with_reducible exact h
    | with_reducible assumption
    | with_reducible exact KeptOut.refused
    | with_reducible apply KeptOut.ite
    | with_reducible apply KeptOut.next
    | with_reducible apply kept_samo

theorem kept_execSamoCas {q : List Instr} {s : State} (h : Kept q s) (l rd ra rb) : KeptOut q (execSamoCas l rd ra rb s) := by
  unfold execSamoCas
  repeat' first
    | with_reducible exact h
    | with_reducible assumption
    | with_reducible exact KeptOut.refused
    | with_reducible apply KeptOut.ite
    | with_reducible apply KeptOut.next
    | with_reducible apply kept_samo

theorem kept_execSamoMax {q : List Instr} {s : State} (h : Kept q s) (l rd ra rb) : KeptOut q (execSamoMax l rd ra rb s) := by
  unfold execSamoMax
  repeat' first
    | with_reducible exact h
    | with_reducible assumption
    | with_reducible exact KeptOut.refused
    | with_reducible apply KeptOut.ite
    | with_reducible apply KeptOut.next
    | with_reducible apply kept_samo

theorem kept_execFence {q : List Instr} {s : State} (h : Kept q s) (l) : KeptOut q (execFence l s) := by
  unfold execFence
  repeat' first
    | with_reducible exact h
    | with_reducible assumption
    | with_reducible exact KeptOut.refused
    | with_reducible apply KeptOut.ite
    | with_reducible apply KeptOut.next
    | with_reducible exact KeptRes.fault
    | with_reducible apply KeptRes.ite
    | with_reducible apply KeptRes.ok
    | with_reducible apply KeptRes.done
    | with_reducible apply kept_stockOnly
    | with_reducible apply kept_ins
    | with_reducible apply kept_pendShared
    | with_reducible apply Kept.ite
    | simp only [kept_mk]
    | with_reducible apply Kept.parts
    | with_reducible refine Kept.foldl ?_ (fun _ _ _ => ?_)
    | split
    | with_reducible apply Kept.getD
    | with_reducible apply Kept.snd
    | with_reducible apply Kept.fst
    | refine Kept.sndOf (by assumption) ?_
    | refine Kept.fstOf (by assumption) ?_
    | refine Kept.optOf (by assumption) ?_
    | intro _

theorem kept_hbmAccess {q : List Instr} {s : State} {r : CellRun} {la ha n : Nat} {f : Nat → Nat → Nat → Res} (hf : ∀ x y z, KeptRes q (f x y z)) :
    KeptRes q (hbmAccess s r la ha n f) := by
  unfold hbmAccess
  split
  · exact KeptRes.fault
  · split
    · exact KeptRes.fault
    · split
      · exact KeptRes.fault
      · exact hf _ _ _

theorem kept_execHld {q : List Instr} {s : State} (h : Kept q s) (l rl rh nm1 disp) : KeptOut q (execHld l rl rh nm1 disp s) := by
  unfold execHld
  repeat' first
    | with_reducible exact h
    | with_reducible assumption
    | with_reducible exact KeptOut.refused
    | with_reducible apply KeptOut.ite
    | with_reducible apply KeptOut.next
    | with_reducible exact KeptRes.fault
    | with_reducible apply KeptRes.ite
    | with_reducible apply KeptRes.ok
    | with_reducible apply KeptRes.done
    | with_reducible apply kept_both
    | with_reducible apply kept_ins
    | with_reducible apply kept_hbmAccess
    | with_reducible apply kept_issue
    | with_reducible apply Kept.ite
    | simp only
    | with_reducible apply Kept.parts
    | with_reducible refine Kept.foldl ?_ (fun _ _ _ => ?_)
    | split
    | with_reducible apply Kept.getD
    | with_reducible apply Kept.snd
    | with_reducible apply Kept.fst
    | refine Kept.sndOf (by assumption) ?_
    | refine Kept.fstOf (by assumption) ?_
    | refine Kept.optOf (by assumption) ?_
    | intro _

theorem kept_execHst {q : List Instr} {s : State} (h : Kept q s) (l rl rh nm1 disp) : KeptOut q (execHst l rl rh nm1 disp s) := by
  unfold execHst
  repeat' first
    | with_reducible exact h
    | with_reducible assumption
    | with_reducible exact KeptOut.refused
    | with_reducible apply KeptOut.ite
    | with_reducible apply KeptOut.next
    | with_reducible exact KeptRes.fault
    | with_reducible apply KeptRes.ite
    | with_reducible apply KeptRes.ok
    | with_reducible apply KeptRes.done
    | with_reducible apply kept_both
    | with_reducible apply kept_ins
    | with_reducible apply kept_hbmAccess
    | with_reducible apply kept_settle
    | with_reducible apply kept_hbmWr
    | with_reducible apply Kept.ite
    | simp only
    | with_reducible apply Kept.parts
    | with_reducible refine Kept.foldl ?_ (fun _ _ _ => ?_)
    | split
    | with_reducible apply Kept.getD
    | with_reducible apply Kept.snd
    | with_reducible apply Kept.fst
    | refine Kept.sndOf (by assumption) ?_
    | refine Kept.fstOf (by assumption) ?_
    | refine Kept.optOf (by assumption) ?_
    | intro _

theorem kept_execWaitR {q : List Instr} {s : State} (h : Kept q s) (l mask) : KeptOut q (execWaitR l mask s) := by
  unfold execWaitR
  repeat' first
    | with_reducible exact h
    | with_reducible assumption
    | with_reducible exact KeptOut.refused
    | with_reducible apply KeptOut.ite
    | with_reducible apply KeptOut.next
    | with_reducible exact KeptRes.fault
    | with_reducible apply KeptRes.ite
    | with_reducible apply KeptRes.ok
    | with_reducible apply KeptRes.done
    | with_reducible apply kept_loaded
    | with_reducible apply kept_both
    | with_reducible apply kept_ins
    | with_reducible apply kept_settle
    | with_reducible apply Kept.ite
    | simp only
    | with_reducible apply Kept.parts
    | with_reducible refine Kept.foldl ?_ (fun _ _ _ => ?_)
    | split
    | with_reducible apply Kept.getD
    | with_reducible apply Kept.snd
    | with_reducible apply Kept.fst
    | refine Kept.sndOf (by assumption) ?_
    | refine Kept.fstOf (by assumption) ?_
    | refine Kept.optOf (by assumption) ?_
    | intro _

theorem kept_execMemoryAccessComplete {q : List Instr} {s : State} (h : Kept q s) (l i) : KeptOut q (execMemoryAccessComplete l i s) := by
  unfold execMemoryAccessComplete
  apply KeptOut.next
  split
  · rename_i r _
    split
    · rename_i a _
      exact kept_setRun (Kept.snd (kept_complete (p := (r, s)) h a)) _ _
    · exact h
  · exact h

end Sys2Proof.Machine
end

