-- ==== Sys2Proof/Laws/KeptVector.lean ====
section
/-!
SUPPORT. Laws/KeptVector.lean: the operations of Machine/Vector.lean keep the canonical form of every store and the queue.
-/
namespace Sys2Proof.Machine
open Sys2Proof

theorem kept_keepRand {q : List Instr} {s : State} (h : Kept q s) (l v) : Kept q (keepRand s l v) := by
  unfold keepRand
  repeat' first | with_reducible exact h | with_reducible assumption | with_reducible apply kept_setRand | with_reducible apply Kept.ite

theorem kept_varith {q : List Instr} {s : State} (h : Kept q s) (l vd va vb vc pg zm w draws f) : KeptOut q (varith s l vd va vb vc pg zm w draws f) := by
  unfold varith
  repeat' first
    | with_reducible exact h
    | with_reducible assumption
    | with_reducible exact KeptOut.refused
    | with_reducible apply KeptOut.ite
    | with_reducible apply KeptOut.next
    | with_reducible exact KeptRes.fault
    | with_reducible apply KeptRes.ite
    | with_reducible apply KeptRes.ok
    | with_reducible apply KeptRes.done
    | with_reducible apply kept_both
    | with_reducible apply kept_ins
    | with_reducible apply kept_keepRand
    | with_reducible apply Kept.ite
    | simp only
    | with_reducible apply Kept.parts
    | with_reducible refine Kept.foldl ?_ (fun _ _ _ => ?_)
    | split
    | with_reducible apply Kept.getD
    | with_reducible apply Kept.snd
    | with_reducible apply Kept.fst
    | refine Kept.sndOf (by assumption) ?_
    | refine Kept.fstOf (by assumption) ?_
    | refine Kept.optOf (by assumption) ?_
    | intro _

theorem kept_execVadd {q : List Instr} {s : State} (h : Kept q s) (l vd va vb pg zm w) : KeptOut q (execVadd l vd va vb pg zm w s) := by
  unfold execVadd
  repeat' first
    | with_reducible exact h
    | with_reducible assumption
    | with_reducible exact KeptOut.refused
    | with_reducible apply KeptOut.ite
    | with_reducible apply KeptOut.next
    | with_reducible apply kept_varith

theorem kept_execVsub {q : List Instr} {s : State} (h : Kept q s) (l vd va vb pg zm w) : KeptOut q (execVsub l vd va vb pg zm w s) := by
  unfold execVsub
  repeat' first
    | with_reducible exact h
    | with_reducible assumption
    | with_reducible exact KeptOut.refused
    | with_reducible apply KeptOut.ite
    | with_reducible apply KeptOut.next
    | with_reducible apply kept_varith

theorem kept_execVmul {q : List Instr} {s : State} (h : Kept q s) (l vd va vb pg zm w) : KeptOut q (execVmul l vd va vb pg zm w s) := by
  unfold execVmul
  repeat' first
    | with_reducible exact h
    | with_reducible assumption
    | with_reducible exact KeptOut.refused
    | with_reducible apply KeptOut.ite
    | with_reducible apply KeptOut.next
    | with_reducible apply kept_varith

theorem kept_execVfma {q : List Instr} {s : State} (h : Kept q s) (l vd va vb vc pg zm w) : KeptOut q (execVfma l vd va vb vc pg zm w s) := by
  unfold execVfma
  repeat' first
    | with_reducible exact h
    | with_reducible assumption
    | with_reducible exact KeptOut.refused
    | with_reducible apply KeptOut.ite
    | with_reducible apply KeptOut.next
    | with_reducible apply kept_varith
    | with_reducible apply kept_takeFree

theorem kept_execVfms {q : List Instr} {s : State} (h : Kept q s) (l vd va vb vc pg zm w) : KeptOut q (execVfms l vd va vb vc pg zm w s) := by
  unfold execVfms
  repeat' first
    | with_reducible exact h
    | with_reducible assumption
    | with_reducible exact KeptOut.refused
    | with_reducible apply KeptOut.ite
    | with_reducible apply KeptOut.next
    | with_reducible apply kept_varith
    | with_reducible apply kept_takeFree

theorem kept_execVmax {q : List Instr} {s : State} (h : Kept q s) (l vd va vb pg zm w) : KeptOut q (execVmax l vd va vb pg zm w s) := by
  unfold execVmax
  repeat' first
    | with_reducible exact h
    | with_reducible assumption
    | with_reducible exact KeptOut.refused
    | with_reducible apply KeptOut.ite
    | with_reducible apply KeptOut.next
    | with_reducible apply kept_varith

theorem kept_execVmin {q : List Instr} {s : State} (h : Kept q s) (l vd va vb pg zm w) : KeptOut q (execVmin l vd va vb pg zm w s) := by
  unfold execVmin
  repeat' first
    | with_reducible exact h
    | with_reducible assumption
    | with_reducible exact KeptOut.refused
    | with_reducible apply KeptOut.ite
    | with_reducible apply KeptOut.next
    | with_reducible apply kept_varith

theorem kept_execVabs {q : List Instr} {s : State} (h : Kept q s) (l vd va pg zm w) : KeptOut q (execVabs l vd va pg zm w s) := by
  unfold execVabs
  repeat' first
    | with_reducible exact h
    | with_reducible assumption
    | with_reducible exact KeptOut.refused
    | with_reducible apply KeptOut.ite
    | with_reducible apply KeptOut.next
    | with_reducible apply kept_varith

theorem kept_execVneg {q : List Instr} {s : State} (h : Kept q s) (l vd va pg zm w) : KeptOut q (execVneg l vd va pg zm w s) := by
  unfold execVneg
  repeat' first
    | with_reducible exact h
    | with_reducible assumption
    | with_reducible exact KeptOut.refused
    | with_reducible apply KeptOut.ite
    | with_reducible apply KeptOut.next
    | with_reducible apply kept_varith

theorem kept_vfun32 {q : List Instr} {s : State} (h : Kept q s) (l vd va pg zm w f) : KeptOut q (vfun32 s l vd va pg zm w f) := by
  unfold vfun32
  repeat' first
    | with_reducible exact h
    | with_reducible assumption
    | with_reducible exact KeptOut.refused
    | with_reducible apply KeptOut.ite
    | with_reducible apply KeptOut.next
    | with_reducible exact KeptRes.fault
    | with_reducible apply KeptRes.ite
    | with_reducible apply KeptRes.ok
    | with_reducible apply KeptRes.done
    | with_reducible apply kept_both
    | with_reducible apply kept_ins
    | with_reducible apply Kept.ite
    | simp only [kept_mk]
    | with_reducible apply Kept.parts
    | with_reducible refine Kept.foldl ?_ (fun _ _ _ => ?_)
    | split
    | with_reducible apply Kept.getD
    | with_reducible apply Kept.snd
    | with_reducible apply Kept.fst
    | refine Kept.sndOf (by assumption) ?_
    | refine Kept.fstOf (by assumption) ?_
    | refine Kept.optOf (by assumption) ?_
    | intro _

theorem kept_execVrcp {q : List Instr} {s : State} (h : Kept q s) (l vd va pg zm w) : KeptOut q (execVrcp l vd va pg zm w s) := by
  unfold execVrcp
  repeat' first
    | with_reducible exact h
    | with_reducible assumption
    | with_reducible exact KeptOut.refused
    | with_reducible apply KeptOut.ite
    | with_reducible apply KeptOut.next
    | with_reducible apply kept_vfun32

theorem kept_execVrsqrt {q : List Instr} {s : State} (h : Kept q s) (l vd va pg zm w) : KeptOut q (execVrsqrt l vd va pg zm w s) := by
  unfold execVrsqrt
  repeat' first
    | with_reducible exact h
    | with_reducible assumption
    | with_reducible exact KeptOut.refused
    | with_reducible apply KeptOut.ite
    | with_reducible apply KeptOut.next
    | with_reducible apply kept_vfun32

theorem kept_vbits {q : List Instr} {s : State} (h : Kept q s) (l vd va vb pg zm f) : KeptOut q (vbits s l vd va vb pg zm f) := by
  unfold vbits
  repeat' first
    | with_reducible exact h
    | with_reducible assumption
    | with_reducible exact KeptOut.refused
    | with_reducible apply KeptOut.ite
    | with_reducible apply KeptOut.next
    | with_reducible exact KeptRes.fault
    | with_reducible apply KeptRes.ite
    | with_reducible apply KeptRes.ok
    | with_reducible apply KeptRes.done
    | with_reducible apply kept_both
    | with_reducible apply kept_ins
    | with_reducible apply kept_takeFree
    | with_reducible apply Kept.ite
    | simp only [kept_mk]
    | with_reducible apply Kept.parts
    | with_reducible refine Kept.foldl ?_ (fun _ _ _ => ?_)
    | split
    | with_reducible apply Kept.getD
    | with_reducible apply Kept.snd
    | with_reducible apply Kept.fst
    | refine Kept.sndOf (by assumption) ?_
    | refine Kept.fstOf (by assumption) ?_
    | refine Kept.optOf (by assumption) ?_
    | intro _

theorem kept_execVand {q : List Instr} {s : State} (h : Kept q s) (l vd va vb pg zm) : KeptOut q (execVand l vd va vb pg zm s) := by
  unfold execVand
  repeat' first
    | with_reducible exact h
    | with_reducible assumption
    | with_reducible exact KeptOut.refused
    | with_reducible apply KeptOut.ite
    | with_reducible apply KeptOut.next
    | with_reducible apply kept_vbits

theorem kept_execVor {q : List Instr} {s : State} (h : Kept q s) (l vd va vb pg zm) : KeptOut q (execVor l vd va vb pg zm s) := by
  unfold execVor
  repeat' first
    | with_reducible exact h
    | with_reducible assumption
    | with_reducible exact KeptOut.refused
    | with_reducible apply KeptOut.ite
    | with_reducible apply KeptOut.next
    | with_reducible apply kept_vbits

theorem kept_execVxor {q : List Instr} {s : State} (h : Kept q s) (l vd va vb pg zm) : KeptOut q (execVxor l vd va vb pg zm s) := by
  unfold execVxor
  repeat' first
    | with_reducible exact h
    | with_reducible assumption
    | with_reducible exact KeptOut.refused
    | with_reducible apply KeptOut.ite
    | with_reducible apply KeptOut.next
    | with_reducible apply kept_vbits

theorem kept_execVsel {q : List Instr} {s : State} (h : Kept q s) (l vd va vb pg w) : KeptOut q (execVsel l vd va vb pg w s) := by
  unfold execVsel
  repeat' first
    | with_reducible exact h
    | with_reducible assumption
    | with_reducible exact KeptOut.refused
    | with_reducible apply KeptOut.ite
    | with_reducible apply KeptOut.next
    | with_reducible exact KeptRes.fault
    | with_reducible apply KeptRes.ite
    | with_reducible apply KeptRes.ok
    | with_reducible apply KeptRes.done
    | with_reducible apply kept_both
    | with_reducible apply kept_ins
    | with_reducible apply Kept.ite
    | simp only [kept_mk]
    | with_reducible apply Kept.parts
    | with_reducible refine Kept.foldl ?_ (fun _ _ _ => ?_)
    | split
    | with_reducible apply Kept.getD
    | with_reducible apply Kept.snd
    | with_reducible apply Kept.fst
    | refine Kept.sndOf (by assumption) ?_
    | refine Kept.fstOf (by assumption) ?_
    | refine Kept.optOf (by assumption) ?_
    | intro _

theorem kept_execVcvtw {q : List Instr} {s : State} (h : Kept q s) (l vd va part pg zm) : KeptOut q (execVcvtw l vd va part pg zm s) := by
  unfold execVcvtw
  repeat' first
    | with_reducible exact h
    | with_reducible assumption
    | with_reducible exact KeptOut.refused
    | with_reducible apply KeptOut.ite
    | with_reducible apply KeptOut.next
    | with_reducible exact KeptRes.fault
    | with_reducible apply KeptRes.ite
    | with_reducible apply KeptRes.ok
    | with_reducible apply KeptRes.done
    | with_reducible apply kept_loaded
    | with_reducible apply kept_both
    | with_reducible apply kept_ins
    | with_reducible apply kept_takeFree
    | with_reducible apply Kept.ite
    | simp only
    | with_reducible apply Kept.parts
    | with_reducible refine Kept.foldl ?_ (fun _ _ _ => ?_)
    | split
    | with_reducible apply Kept.getD
    | with_reducible apply Kept.snd
    | with_reducible apply Kept.fst
    | refine Kept.sndOf (by assumption) ?_
    | refine Kept.fstOf (by assumption) ?_
    | refine Kept.optOf (by assumption) ?_
    | intro _

theorem kept_execVnrw {q : List Instr} {s : State} (h : Kept q s) (l vd va vb half pg zm) : KeptOut q (execVnrw l vd va vb half pg zm s) := by
  unfold execVnrw
  repeat' first
    | with_reducible exact h
    | with_reducible assumption
    | with_reducible exact KeptOut.refused
    | with_reducible apply KeptOut.ite
    | with_reducible apply KeptOut.next
    | with_reducible exact KeptRes.fault
    | with_reducible apply KeptRes.ite
    | with_reducible apply KeptRes.ok
    | with_reducible apply KeptRes.done
    | with_reducible apply kept_loaded
    | with_reducible apply kept_both
    | with_reducible apply kept_ins
    | with_reducible apply kept_keepRand
    | with_reducible apply Kept.ite
    | simp only
    | with_reducible apply Kept.parts
    | with_reducible refine Kept.foldl ?_ (fun _ _ _ => ?_)
    | split
    | with_reducible apply Kept.getD
    | with_reducible apply Kept.snd
    | with_reducible apply Kept.fst
    | refine Kept.sndOf (by assumption) ?_
    | refine Kept.fstOf (by assumption) ?_
    | refine Kept.optOf (by assumption) ?_
    | intro _

theorem kept_execVi2f {q : List Instr} {s : State} (h : Kept q s) (l vd va pg zm) : KeptOut q (execVi2f l vd va pg zm s) := by
  unfold execVi2f
  repeat' first
    | with_reducible exact h
    | with_reducible assumption
    | with_reducible exact KeptOut.refused
    | with_reducible apply KeptOut.ite
    | with_reducible apply KeptOut.next
    | with_reducible exact KeptRes.fault
    | with_reducible apply KeptRes.ite
    | with_reducible apply KeptRes.ok
    | with_reducible apply KeptRes.done
    | with_reducible apply kept_both
    | with_reducible apply kept_ins
    | with_reducible apply kept_keepRand
    | with_reducible apply Kept.ite
    | simp only
    | with_reducible apply Kept.parts
    | with_reducible refine Kept.foldl ?_ (fun _ _ _ => ?_)
    | split
    | with_reducible apply Kept.getD
    | with_reducible apply Kept.snd
    | with_reducible apply Kept.fst
    | refine Kept.sndOf (by assumption) ?_
    | refine Kept.fstOf (by assumption) ?_
    | refine Kept.optOf (by assumption) ?_
    | intro _

theorem kept_execVf2i {q : List Instr} {s : State} (h : Kept q s) (l vd va pg zm) : KeptOut q (execVf2i l vd va pg zm s) := by
  unfold execVf2i
  repeat' first
    | with_reducible exact h
    | with_reducible assumption
    | with_reducible exact KeptOut.refused
    | with_reducible apply KeptOut.ite
    | with_reducible apply KeptOut.next
    | with_reducible exact KeptRes.fault
    | with_reducible apply KeptRes.ite
    | with_reducible apply KeptRes.ok
    | with_reducible apply KeptRes.done
    | with_reducible apply kept_both
    | with_reducible apply kept_ins
    | with_reducible apply Kept.ite
    | simp only [kept_mk]
    | with_reducible apply Kept.parts
    | with_reducible refine Kept.foldl ?_ (fun _ _ _ => ?_)
    | split
    | with_reducible apply Kept.getD
    | with_reducible apply Kept.snd
    | with_reducible apply Kept.fst
    | refine Kept.sndOf (by assumption) ?_
    | refine Kept.fstOf (by assumption) ?_
    | refine Kept.optOf (by assumption) ?_
    | intro _

theorem kept_vcmp {q : List Instr} {s : State} (h : Kept q s) (l pd va vb pg zm w fl int) : KeptOut q (vcmp s l pd va vb pg zm w fl int) := by
  unfold vcmp
  repeat' first
    | with_reducible exact h
    | with_reducible assumption
    | with_reducible exact KeptOut.refused
    | with_reducible apply KeptOut.ite
    | with_reducible apply KeptOut.next
    | with_reducible exact KeptRes.fault
    | with_reducible apply KeptRes.ite
    | with_reducible apply KeptRes.ok
    | with_reducible apply KeptRes.done
    | with_reducible apply kept_both
    | with_reducible apply kept_ins
    | with_reducible apply Kept.ite
    | simp only
    | with_reducible apply Kept.parts
    | with_reducible refine Kept.foldl ?_ (fun _ _ _ => ?_)
    | split
    | with_reducible apply Kept.getD
    | with_reducible apply Kept.snd
    | with_reducible apply Kept.fst
    | refine Kept.sndOf (by assumption) ?_
    | refine Kept.fstOf (by assumption) ?_
    | refine Kept.optOf (by assumption) ?_
    | intro _

theorem kept_execVcmpEq {q : List Instr} {s : State} (h : Kept q s) (l pd va vb pg zm w) : KeptOut q (execVcmpEq l pd va vb pg zm w s) := by
  unfold execVcmpEq
  repeat' first
    | with_reducible exact h
    | with_reducible assumption
    | with_reducible exact KeptOut.refused
    | with_reducible apply KeptOut.ite
    | with_reducible apply KeptOut.next
    | with_reducible apply kept_vcmp

theorem kept_execVcmpLt {q : List Instr} {s : State} (h : Kept q s) (l pd va vb pg zm w) : KeptOut q (execVcmpLt l pd va vb pg zm w s) := by
  unfold execVcmpLt
  repeat' first
    | with_reducible exact h
    | with_reducible assumption
    | with_reducible exact KeptOut.refused
    | with_reducible apply KeptOut.ite
    | with_reducible apply KeptOut.next
    | with_reducible apply kept_vcmp

theorem kept_execVcmpLe {q : List Instr} {s : State} (h : Kept q s) (l pd va vb pg zm w) : KeptOut q (execVcmpLe l pd va vb pg zm w s) := by
  unfold execVcmpLe
  repeat' first
    | with_reducible exact h
    | with_reducible assumption
    | with_reducible exact KeptOut.refused
    | with_reducible apply KeptOut.ite
    | with_reducible apply KeptOut.next
    | with_reducible apply kept_vcmp

theorem kept_execVcmpUnord {q : List Instr} {s : State} (h : Kept q s) (l pd va vb pg zm w) : KeptOut q (execVcmpUnord l pd va vb pg zm w s) := by
  unfold execVcmpUnord
  repeat' first
    | with_reducible exact h
    | with_reducible assumption
    | with_reducible exact KeptOut.refused
    | with_reducible apply KeptOut.ite
    | with_reducible apply KeptOut.next
    | with_reducible apply kept_vcmp

theorem kept_execVmov {q : List Instr} {s : State} (h : Kept q s) (l vd va) : KeptOut q (execVmov l vd va s) := by
  unfold execVmov
  repeat' first
    | with_reducible exact h
    | with_reducible assumption
    | with_reducible exact KeptOut.refused
    | with_reducible apply KeptOut.ite
    | with_reducible apply KeptOut.next
    | with_reducible exact KeptRes.fault
    | with_reducible apply KeptRes.ite
    | with_reducible apply KeptRes.ok
    | with_reducible apply KeptRes.done
    | with_reducible apply kept_both
    | with_reducible apply kept_ins
    | with_reducible apply Kept.ite
    | simp only [kept_mk]
    | with_reducible apply Kept.parts
    | with_reducible refine Kept.foldl ?_ (fun _ _ _ => ?_)
    | split
    | with_reducible apply Kept.getD
    | with_reducible apply Kept.snd
    | with_reducible apply Kept.fst
    | refine Kept.sndOf (by assumption) ?_
    | refine Kept.fstOf (by assumption) ?_
    | refine Kept.optOf (by assumption) ?_
    | intro _

theorem kept_execVbcast {q : List Instr} {s : State} (h : Kept q s) (l vd sa imm w) : KeptOut q (execVbcast l vd sa imm w s) := by
  unfold execVbcast
  repeat' first
    | with_reducible exact h
    | with_reducible assumption
    | with_reducible exact KeptOut.refused
    | with_reducible apply KeptOut.ite
    | with_reducible apply KeptOut.next
    | with_reducible exact KeptRes.fault
    | with_reducible apply KeptRes.ite
    | with_reducible apply KeptRes.ok
    | with_reducible apply KeptRes.done
    | with_reducible apply kept_both
    | with_reducible apply kept_ins
    | with_reducible apply Kept.ite
    | simp only
    | with_reducible apply Kept.parts
    | with_reducible refine Kept.foldl ?_ (fun _ _ _ => ?_)
    | split
    | with_reducible apply Kept.getD
    | with_reducible apply Kept.snd
    | with_reducible apply Kept.fst
    | refine Kept.sndOf (by assumption) ?_
    | refine Kept.fstOf (by assumption) ?_
    | refine Kept.optOf (by assumption) ?_
    | intro _

theorem kept_execVext {q : List Instr} {s : State} (h : Kept q s) (l sa va imm w) : KeptOut q (execVext l sa va imm w s) := by
  unfold execVext
  repeat' first
    | with_reducible exact h
    | with_reducible assumption
    | with_reducible exact KeptOut.refused
    | with_reducible apply KeptOut.ite
    | with_reducible apply KeptOut.next
    | with_reducible exact KeptRes.fault
    | with_reducible apply KeptRes.ite
    | with_reducible apply KeptRes.ok
    | with_reducible apply KeptRes.done
    | with_reducible apply kept_both
    | with_reducible apply kept_ins
    | with_reducible apply Kept.ite
    | simp only [kept_mk]
    | with_reducible apply Kept.parts
    | with_reducible refine Kept.foldl ?_ (fun _ _ _ => ?_)
    | split
    | with_reducible apply Kept.getD
    | with_reducible apply Kept.snd
    | with_reducible apply Kept.fst
    | refine Kept.sndOf (by assumption) ?_
    | refine Kept.fstOf (by assumption) ?_
    | refine Kept.optOf (by assumption) ?_
    | intro _

theorem kept_execVins {q : List Instr} {s : State} (h : Kept q s) (l vd sa imm w) : KeptOut q (execVins l vd sa imm w s) := by
  unfold execVins
  repeat' first
    | with_reducible exact h
    | with_reducible assumption
    | with_reducible exact KeptOut.refused
    | with_reducible apply KeptOut.ite
    | with_reducible apply KeptOut.next
    | with_reducible exact KeptRes.fault
    | with_reducible apply KeptRes.ite
    | with_reducible apply KeptRes.ok
    | with_reducible apply KeptRes.done
    | with_reducible apply kept_both
    | with_reducible apply kept_ins
    | with_reducible apply Kept.ite
    | simp only [kept_mk]
    | with_reducible apply Kept.parts
    | with_reducible refine Kept.foldl ?_ (fun _ _ _ => ?_)
    | split
    | with_reducible apply Kept.getD
    | with_reducible apply Kept.snd
    | with_reducible apply Kept.fst
    | refine Kept.sndOf (by assumption) ?_
    | refine Kept.fstOf (by assumption) ?_
    | refine Kept.optOf (by assumption) ?_
    | intro _

end Sys2Proof.Machine
end

