-- ==== Sys2Proof/Laws/Milys.lean ====
section
/-!
SUPPORT. Laws/Milys.lean: what the registers, outstanding accesses and the frame of one Milys instruction can do.
-/
namespace Sys2Proof.Machine
open Sys2Proof

/-! ### Registers -/

@[simp] theorem gS_zero (r : CellRun) : gS r 0 = 0 := rfl
@[simp] theorem gP_zero (r : CellRun) : gP r 0 = BitVec.allOnes 64 := rfl
@[simp] theorem pS_zero (r : CellRun) (v : BitVec 64) : pS r 0 v = r := rfl
@[simp] theorem pP_zero (r : CellRun) (v : BitVec 64) : pP r 0 v = r := rfl

theorem gS_pS_ne (r : CellRun) {i j : Nat} (v : BitVec 64) (h : i ≠ j) : gS (pS r i v) j = gS r j := by
  unfold gS pS
  split
  · rfl
  · split
    · rfl
    · simp [List.getElem?_set_ne h]

theorem gP_pP_ne (r : CellRun) {i j : Nat} (v : BitVec 64) (h : i ≠ j) : gP (pP r i v) j = gP r j := by
  unfold gP pP
  split
  · rfl
  · split
    · rfl
    · simp [List.getElem?_set_ne h]

theorem gS_pS_same (r : CellRun) {i : Nat} (v : BitVec 64) (h : i ≠ 0) (hi : i < r.r.s.length) : gS (pS r i v) i = v := by
  simp [gS, pS, h, hi]

theorem gP_pP_same (r : CellRun) {i : Nat} (v : BitVec 64) (h : i ≠ 0) (hi : i < r.r.p.length) : gP (pP r i v) i = v := by
  simp [gP, pP, h, hi]

@[simp] theorem pS_pc (r : CellRun) (i : Nat) (v : BitVec 64) : (pS r i v).pc = r.pc := by unfold pS; split <;> rfl
@[simp] theorem pS_fin (r : CellRun) (i : Nat) (v : BitVec 64) : (pS r i v).fin = r.fin := by unfold pS; split <;> rfl
@[simp] theorem pS_ret (r : CellRun) (i : Nat) (v : BitVec 64) : (pS r i v).r.ret = r.r.ret := by unfold pS; split <;> rfl
@[simp] theorem pS_loops (r : CellRun) (i : Nat) (v : BitVec 64) : (pS r i v).r.loops = r.r.loops := by unfold pS; split <;> rfl
@[simp] theorem pS_cycles (r : CellRun) (i : Nat) (v : BitVec 64) : (pS r i v).cycles = r.cycles := by unfold pS; split <;> rfl

/-! ### Handlers -/

@[simp] theorem cellRun_setRun (s : State) (l : Nat) (r : CellRun) : cellRun (setRun s l r) l = some r := findKey_setKey_same _ _ _
@[simp] theorem cellRun_endRun (s : State) (l : Nat) : cellRun (endRun s l) l = none := findKey_delKey_same _ _
theorem cellRun_setRun_ne (s : State) {l k : Nat} (r : CellRun) (h : l ≠ k) : cellRun (setRun s l r) k = cellRun s k := findKey_setKey_ne _ _ h

/-! ### Outstanding accesses -/

/-- What the completion of accesses leaves alone in a handler. -/
def SameFlow (r t : CellRun) : Prop :=
  t.pc = r.pc ∧ t.fin = r.fin ∧ t.r.ret = r.r.ret ∧ t.r.loops = r.r.loops ∧ t.cycles = r.cycles ∧ t.r.fmt = r.r.fmt ∧ t.r.rnd = r.r.rnd ∧
    t.r.v = r.r.v ∧ t.r.p = r.r.p ∧ t.r.t = r.r.t ∧ t.own = r.own ∧ t.emits = r.emits ∧ t.maxEmits = r.maxEmits

theorem complete_flow (l : Nat) (p : CellRun × State) (a : Access) : SameFlow p.1 (complete l p a).1 := by
  unfold complete SameFlow pS
  dsimp only
  split <;> exact ⟨rfl, rfl, rfl, rfl, rfl, rfl, rfl, rfl, rfl, rfl, rfl, rfl, rfl⟩

theorem SameFlow.trans {a b c : CellRun} (h : SameFlow a b) (k : SameFlow b c) : SameFlow a c := by
  obtain ⟨h1, h2, h3, h4, h5, h6, h7, h8, h9, h10, h11, h12, h13⟩ := h
  obtain ⟨k1, k2, k3, k4, k5, k6, k7, k8, k9, k10, k11, k12, k13⟩ := k
  exact ⟨k1.trans h1, k2.trans h2, k3.trans h3, k4.trans h4, k5.trans h5, k6.trans h6, k7.trans h7, k8.trans h8, k9.trans h9, k10.trans h10,
    k11.trans h11, k12.trans h12, k13.trans h13⟩

theorem completes_flow (l : Nat) (as : List Access) (p : CellRun × State) : SameFlow p.1 (as.foldl (complete l) p).1 := by
  induction as generalizing p with
  | nil => exact ⟨rfl, rfl, rfl, rfl, rfl, rfl, rfl, rfl, rfl, rfl, rfl, rfl, rfl⟩
  | cons a as ih => exact (complete_flow l p a).trans (ih _)

/-- The completion of accesses changes scalar registers, POISONED, the list of accesses and the bytes that land, and nothing else of the handler. -/
theorem settle_flow (l : Nat) (f : Access → Bool) (r : CellRun) (s : State) : SameFlow r (settle l f r s).1 := completes_flow l _ (r, s)

@[simp] theorem settle_pc (l : Nat) (f : Access → Bool) (r : CellRun) (s : State) : (settle l f r s).1.pc = r.pc := (settle_flow l f r s).1
@[simp] theorem settle_fin (l : Nat) (f : Access → Bool) (r : CellRun) (s : State) : (settle l f r s).1.fin = r.fin := (settle_flow l f r s).2.1

/-- With nothing outstanding there is nothing to wait for. -/
theorem settle_nil {l : Nat} {f : Access → Bool} {r : CellRun} {s : State} (h : r.acc = []) : settle l f r s = (r, s) := by
  unfold settle; rw [h]; rfl

/-- No access is waited for where none is selected. -/
theorem settle_false (l : Nat) (r : CellRun) (s : State) : settle l (fun _ => false) r s = (r, s) := by
  unfold settle; simp

@[simp] theorem settle_no_regs (l : Nat) (r : CellRun) (s : State) : settle l (fun a => ([] : List Nat).contains a.reg) r s = (r, s) :=
  settle_false l r s

/-! ### One instruction -/

/-- What one instruction does to the handler in progress: it goes on, leaves the handler, or faults at its own address. -/
theorem ins_some {s : State} {l cost : Nat} {regs : List Nat} {f : CellRun → State → Res} {r : CellRun} (h : cellRun s l = some r) :
    ins s l cost regs f =
      (let p := settle l (fun a => regs.contains a.reg) r s
       match f { p.1 with pc := p.1.pc + 1, cycles := p.1.cycles + cost } p.2 with
       | .ok r' s' => setRun s' l r'
       | .done s' => s'
       | .fault code imm => raise p.2 l { p.1 with cycles := p.1.cycles + cost } code imm) := by
  unfold ins; rw [h] <;> rfl

/-- Without a handler in progress an instruction does nothing. -/
theorem ins_none {s : State} {l cost : Nat} {regs : List Nat} {f : CellRun → State → Res} (h : cellRun s l = none) : ins s l cost regs f = s := by
  unfold ins; rw [h]

theorem stockOnly_stock {m : String} {s t : State} {l : Nat} {r : CellRun} (h : cellRun s l = some r) (k : tenantRun r = false) :
    stockOnly m s l t = .next t := by
  unfold stockOnly; rw [h]; simp [k]

theorem loaded_true (m : String) (o : Host.Outcome State Fault Refusal) : loaded m true o = o := rfl

end Sys2Proof.Machine
end

