-- ==== Sys2Proof/Laws/Registers.lean ====
section
/-!
SUPPORT. Laws/Registers.lean: reading a register field after another has been written, counted or left alone (R10, R15).
-/
namespace Sys2Proof.Machine
open Sys2Proof

/-- `rd` sees only the register file. -/
theorem rd_congr {s t : State} (h : t.regs = s.regs) (f : Fld) : rd t f = rd s f := by unfold rd; rw [h]

/-- A field reads as what was written to it, at its width. -/
@[simp] theorem rd_wr_same (s : State) (f : Fld) (v : Nat) : rd (wr s f v) f = v % 2 ^ f.width := by
  unfold rd
  rw [wr_regs, getD_putKey_same, Nat.mod_mod]

/-- A field reads as a value of its width. -/
theorem rd_lt (s : State) (f : Fld) : rd s f < 2 ^ f.width := Nat.mod_lt _ (Nat.two_pow_pos _)

/-- Writing one field leaves the others. -/
theorem rd_wr_ne (s : State) {f g : Fld} (v : Nat) (h : f.key ≠ g.key) : rd (wr s f v) g = rd s g := by
  unfold rd
  rw [wr_regs, findKey_putKey_ne _ _ _ h]

/-- A bit field reads as the bit written. -/
theorem rdb_wrb_same (s : State) (f : Fld) (b : Bool) (h : 0 < f.width) : rdb (wrb s f b) f = b := by
  have h2 : 2 ≤ 2 ^ f.width := (Nat.pow_le_pow_right (by decide : 0 < 2) h)
  have hw : wrb s f b = wr s f (b2n b) := rfl
  cases b
  · simp [rdb, hw, b2n]
  · simp [rdb, hw, b2n, Nat.mod_eq_of_lt (show 1 < 2 ^ f.width by omega)]

/-- A counter reads as its value and what was counted: saturated, or wrapped (R15). -/
theorem rd_cnt_same (s : State) (f : Fld) (n : Nat) : rd (cnt s f n) f = countVal f (rd s f) n := by
  have hp : 0 < 2 ^ f.width := Nat.two_pow_pos _
  unfold cnt
  rw [rd_wr_same]
  unfold countVal
  split
  · exact Nat.mod_mod _ _
  · exact Nat.mod_eq_of_lt (by omega)

theorem rd_cnt_ne (s : State) {f g : Fld} (n : Nat) (h : f.key ≠ g.key) : rd (cnt s f n) g = rd s g := rd_wr_ne s _ h

theorem rd_wrb_ne (s : State) {f g : Fld} (b : Bool) (h : f.key ≠ g.key) : rd (wrb s f b) g = rd s g := rd_wr_ne s _ h

/-- A list of writes leaves every field that it does not name. -/
theorem rd_wrs_ne (s : State) (l : List (Fld × Nat)) (g : Fld) (h : ∀ p ∈ l, p.1.key ≠ g.key) : rd (wrs s l) g = rd s g := by
  induction l generalizing s with
  | nil => rfl
  | cons p l ih =>
    rw [show wrs s (p :: l) = wrs (wr s p.1 p.2) l from rfl, ih _ (fun q hq => h q (List.mem_cons_of_mem _ hq)),
      rd_wr_ne s _ (h p (by simp))]

/-- The register file keeps its canonical form. -/
theorem wr_sorted {s : State} (f : Fld) (v : Nat) (h : sortedKeys s.regs = true) : sortedKeys (wr s f v).regs = true :=
  sortedKeys_putKey _ _ _ h

/-! `rd` and the updates that leave the register file. -/

@[simp] theorem rd_bump (s : State) (k n : Nat) (f : Fld) : rd (bump s k n) f = rd s f := rfl
@[simp] theorem rd_takeFree (s : State) (k : Nat) (f : Fld) : rd (takeFree s k) f = rd s f := rfl
@[simp] theorem rd_emitOut (s : State) (o : Output) (f : Fld) : rd (emitOut s o) f = rd s f := rfl
@[simp] theorem rd_offer (s : State) (x : Nat) (p : Packet) (f : Fld) : rd (offer s x p) f = rd s f := rd_congr (offer_regs s x p) f
@[simp] theorem rd_runOn (s : State) (n : Nat) (f : Fld) : rd (runOn s n) f = rd s f := rfl
@[simp] theorem rd_hbmWr (s : State) (a : Nat) (l : List Byte) (f : Fld) : rd (hbmWr s a l) f = rd s f := rfl

end Sys2Proof.Machine
end

