-- ==== Sys2Proof/Laws/TileCrc.lean ====
section
/-!
SUPPORT. Laws/TileCrc.lean: a tile that carries its own CRC passes its check (R74, R75).
-/
namespace Sys2Proof

/-- The running CRC stays below 2^32 (R74). -/
theorem crc32cFrom_lt (l : List Byte) (c : Nat) (h : c < 2 ^ 32) : crc32cFrom c l < 2 ^ 32 := by
  have bit : ∀ c, c < 2 ^ 32 → crc32cBit c < 2 ^ 32 := by
    intro c h; unfold crc32cBit; split
    · exact Nat.xor_lt_two_pow (by omega) (by norm_num)
    · omega
  have rep : ∀ n c, c < 2 ^ 32 → Nat.repeat crc32cBit n c < 2 ^ 32 := by
    intro n; induction n with
    | zero => intro c h; exact h
    | succ n ih => intro c h; exact bit _ (ih c h)
  induction l generalizing c with
  | nil => exact h
  | cons b l ih =>
    exact ih _ (rep _ _ (Nat.xor_lt_two_pow h (by have := b.isLt; omega)))

/-- A CRC-32C value has 32 bits (R74). -/
theorem crc32c_lt (l : List Byte) : crc32c l < 2 ^ 32 := 
  Nat.xor_lt_two_pow (crc32cFrom_lt l _ (by norm_num)) (by norm_num)

/-- The low 32 bits of bytes that begin with the four bytes of `c` are `c`. -/
theorem ofLeBytes_four (c : Nat) (r : List Byte) (h : c < 2 ^ 32) : ofLeBytes (leBytes 4 c ++ r) % 2 ^ 32 = c := by
  simp only [leBytes, List.cons_append, List.nil_append, ofLeBytes, BitVec.toNat_ofNat]
  omega

/-- `leBytes n` gives n bytes. -/
theorem leBytes_length (n v : Nat) : (leBytes n v).length = n := by
  induction n generalizing v with
  | zero => rfl
  | succ n ih => simp [leBytes, ih]

/-- A tile with its own CRC put into bytes 0 to 3 passes its check (R74, R75). -/
theorem tileCrcOk_fill (t : List Byte) (h : t.length = tileLen) : tileCrcOk (putBytes t 0 (leBytes 4 (tileCrc t))) = true := by
  have e : putBytes t 0 (leBytes 4 (tileCrc t)) = leBytes 4 (tileCrc t) ++ t.drop 4 := by
    have : (leBytes 4 (tileCrc t)).length = 4 := rfl
    rw [putBytes, this, List.take_of_length_le (by simp [this, h, tileLen])]; simp
  have l4 : (leBytes 4 (tileCrc t)).length = 4 := rfl
  have c : tileCrc (leBytes 4 (tileCrc t) ++ t.drop 4) = tileCrc t := by
    unfold tileCrc padTo
    rw [List.take_of_length_le (by rw [List.length_append, leBytes_length]; simp [h, tileLen]), List.take_of_length_le (by omega)]
    simp [h, leBytes, tileLen]
  rw [tileCrcOk, e, c, beq_iff_eq, tileField]
  have k : (leBytes 4 (tileCrc t) ++ t.drop 4).take 64 = leBytes 4 (tileCrc t) ++ (t.drop 4).take 60 := by
    rw [List.take_append, l4, List.take_of_length_le (by omega)]
  rw [k]
  have := ofLeBytes_four (tileCrc t) ((t.drop 4).take 60) (crc32c_lt _)
  simpa [bits] using this

end Sys2Proof
end

