-- ==== Sys2Proof/Laws/Words.lean ====
section
/-!
SUPPORT. Laws/Words.lean: the fields of the word of each Milys format (R157 to R159) read back as they were put in.
-/
namespace Sys2Proof.Machine
open Sys2Proof

/-! ### Format R -/

@[simp] theorem encR_op (op : BitVec 6) (rd ra rb aux : BitVec 5) (fn : BitVec 6) : (encR op rd ra rb aux fn).part 26 6 = op := by
  apply BitVec.eq_of_toNat_eq; simp [encR, MWord.part]; omega
@[simp] theorem encR_rd (op : BitVec 6) (rd ra rb aux : BitVec 5) (fn : BitVec 6) : (encR op rd ra rb aux fn).part 21 5 = rd := by
  apply BitVec.eq_of_toNat_eq; simp [encR, MWord.part]; omega
@[simp] theorem encR_ra (op : BitVec 6) (rd ra rb aux : BitVec 5) (fn : BitVec 6) : (encR op rd ra rb aux fn).part 16 5 = ra := by
  apply BitVec.eq_of_toNat_eq; simp [encR, MWord.part]; omega
@[simp] theorem encR_rb (op : BitVec 6) (rd ra rb aux : BitVec 5) (fn : BitVec 6) : (encR op rd ra rb aux fn).part 11 5 = rb := by
  apply BitVec.eq_of_toNat_eq; simp [encR, MWord.part]; omega
@[simp] theorem encR_aux (op : BitVec 6) (rd ra rb aux : BitVec 5) (fn : BitVec 6) : (encR op rd ra rb aux fn).part 6 5 = aux := by
  apply BitVec.eq_of_toNat_eq; simp [encR, MWord.part]; omega
@[simp] theorem encR_fn (op : BitVec 6) (rd ra rb aux : BitVec 5) (fn : BitVec 6) : (encR op rd ra rb aux fn).part 0 6 = fn := by
  apply BitVec.eq_of_toNat_eq; simp [encR, MWord.part]; omega

/-! ### Format I -/

@[simp] theorem encI_op (op : BitVec 6) (rd ra : BitVec 5) (imm : BitVec 16) : (encI op rd ra imm).part 26 6 = op := by
  apply BitVec.eq_of_toNat_eq; simp [encI, MWord.part]; omega
@[simp] theorem encI_rd (op : BitVec 6) (rd ra : BitVec 5) (imm : BitVec 16) : (encI op rd ra imm).part 21 5 = rd := by
  apply BitVec.eq_of_toNat_eq; simp [encI, MWord.part]; omega
@[simp] theorem encI_ra (op : BitVec 6) (rd ra : BitVec 5) (imm : BitVec 16) : (encI op rd ra imm).part 16 5 = ra := by
  apply BitVec.eq_of_toNat_eq; simp [encI, MWord.part]; omega
@[simp] theorem encI_imm (op : BitVec 6) (rd ra : BitVec 5) (imm : BitVec 16) : (encI op rd ra imm).part 0 16 = imm := by
  apply BitVec.eq_of_toNat_eq; simp [encI, MWord.part]; omega

/-! ### Format Sh -/

@[simp] theorem encSh_op (op : BitVec 6) (rd ra : BitVec 5) (sh : BitVec 6) : (encSh op rd ra sh).part 26 6 = op := by
  apply BitVec.eq_of_toNat_eq; simp [encSh, MWord.part]; omega
@[simp] theorem encSh_rd (op : BitVec 6) (rd ra : BitVec 5) (sh : BitVec 6) : (encSh op rd ra sh).part 21 5 = rd := by
  apply BitVec.eq_of_toNat_eq; simp [encSh, MWord.part]; omega
@[simp] theorem encSh_ra (op : BitVec 6) (rd ra : BitVec 5) (sh : BitVec 6) : (encSh op rd ra sh).part 16 5 = ra := by
  apply BitVec.eq_of_toNat_eq; simp [encSh, MWord.part]; omega
@[simp] theorem encSh_sh (op : BitVec 6) (rd ra : BitVec 5) (sh : BitVec 6) : (encSh op rd ra sh).part 0 6 = sh := by
  apply BitVec.eq_of_toNat_eq; simp [encSh, MWord.part]; omega

/-! ### Format B -/

@[simp] theorem encB_op (op : BitVec 6) (ra rb : BitVec 5) (off : BitVec 15) : (encB op ra rb off).part 26 6 = op := by
  apply BitVec.eq_of_toNat_eq; simp [encB, MWord.part]; omega
@[simp] theorem encB_ra (op : BitVec 6) (ra rb : BitVec 5) (off : BitVec 15) : (encB op ra rb off).part 21 5 = ra := by
  apply BitVec.eq_of_toNat_eq; simp [encB, MWord.part]; omega
@[simp] theorem encB_rb (op : BitVec 6) (ra rb : BitVec 5) (off : BitVec 15) : (encB op ra rb off).part 16 5 = rb := by
  apply BitVec.eq_of_toNat_eq; simp [encB, MWord.part]; omega
@[simp] theorem encB_off (op : BitVec 6) (ra rb : BitVec 5) (off : BitVec 15) : (encB op ra rb off).part 0 15 = off := by
  apply BitVec.eq_of_toNat_eq; simp [encB, MWord.part]; omega

/-! ### Format L -/

@[simp] theorem encL_op (rc : BitVec 1) (rs : BitVec 5) (count : BitVec 13) (ix : BitVec 5) : (encL rc rs count ix).part 26 6 = 0x1B#6 := by
  apply BitVec.eq_of_toNat_eq; simp [encL, MWord.part]; omega
@[simp] theorem encL_rc (rc : BitVec 1) (rs : BitVec 5) (count : BitVec 13) (ix : BitVec 5) : (encL rc rs count ix).part 25 1 = rc := by
  apply BitVec.eq_of_toNat_eq; simp [encL, MWord.part]; omega
@[simp] theorem encL_rs (rc : BitVec 1) (rs : BitVec 5) (count : BitVec 13) (ix : BitVec 5) : (encL rc rs count ix).part 20 5 = rs := by
  apply BitVec.eq_of_toNat_eq; simp [encL, MWord.part]; omega
@[simp] theorem encL_count (rc : BitVec 1) (rs : BitVec 5) (count : BitVec 13) (ix : BitVec 5) : (encL rc rs count ix).part 7 13 = count := by
  apply BitVec.eq_of_toNat_eq; simp [encL, MWord.part]; omega
@[simp] theorem encL_ix (rc : BitVec 1) (rs : BitVec 5) (count : BitVec 13) (ix : BitVec 5) : (encL rc rs count ix).part 2 5 = ix := by
  apply BitVec.eq_of_toNat_eq; simp [encL, MWord.part]; omega

/-! ### Format VM -/

@[simp] theorem encVM_op (op : BitVec 6) (vd : BitVec 4) (ra ri : BitVec 5) (sc : BitVec 2) (disp : BitVec 10) : (encVM op vd ra ri sc disp).part 26 6 = op := by
  apply BitVec.eq_of_toNat_eq; simp [encVM, MWord.part]; omega
@[simp] theorem encVM_vd (op : BitVec 6) (vd : BitVec 4) (ra ri : BitVec 5) (sc : BitVec 2) (disp : BitVec 10) : (encVM op vd ra ri sc disp).part 22 4 = vd := by
  apply BitVec.eq_of_toNat_eq; simp [encVM, MWord.part]; omega
@[simp] theorem encVM_ra (op : BitVec 6) (vd : BitVec 4) (ra ri : BitVec 5) (sc : BitVec 2) (disp : BitVec 10) : (encVM op vd ra ri sc disp).part 17 5 = ra := by
  apply BitVec.eq_of_toNat_eq; simp [encVM, MWord.part]; omega
@[simp] theorem encVM_ri (op : BitVec 6) (vd : BitVec 4) (ra ri : BitVec 5) (sc : BitVec 2) (disp : BitVec 10) : (encVM op vd ra ri sc disp).part 12 5 = ri := by
  apply BitVec.eq_of_toNat_eq; simp [encVM, MWord.part]; omega
@[simp] theorem encVM_sc (op : BitVec 6) (vd : BitVec 4) (ra ri : BitVec 5) (sc : BitVec 2) (disp : BitVec 10) : (encVM op vd ra ri sc disp).part 10 2 = sc := by
  apply BitVec.eq_of_toNat_eq; simp [encVM, MWord.part]; omega
@[simp] theorem encVM_disp (op : BitVec 6) (vd : BitVec 4) (ra ri : BitVec 5) (sc : BitVec 2) (disp : BitVec 10) : (encVM op vd ra ri sc disp).part 0 10 = disp := by
  apply BitVec.eq_of_toNat_eq; simp [encVM, MWord.part]; omega

/-! ### Format H -/

@[simp] theorem encH_op (op : BitVec 6) (rl rh : BitVec 5) (nm1 : BitVec 6) (disp : BitVec 10) : (encH op rl rh nm1 disp).part 26 6 = op := by
  apply BitVec.eq_of_toNat_eq; simp [encH, MWord.part]; omega
@[simp] theorem encH_rl (op : BitVec 6) (rl rh : BitVec 5) (nm1 : BitVec 6) (disp : BitVec 10) : (encH op rl rh nm1 disp).part 21 5 = rl := by
  apply BitVec.eq_of_toNat_eq; simp [encH, MWord.part]; omega
@[simp] theorem encH_rh (op : BitVec 6) (rl rh : BitVec 5) (nm1 : BitVec 6) (disp : BitVec 10) : (encH op rl rh nm1 disp).part 16 5 = rh := by
  apply BitVec.eq_of_toNat_eq; simp [encH, MWord.part]; omega
@[simp] theorem encH_nm1 (op : BitVec 6) (rl rh : BitVec 5) (nm1 : BitVec 6) (disp : BitVec 10) : (encH op rl rh nm1 disp).part 10 6 = nm1 := by
  apply BitVec.eq_of_toNat_eq; simp [encH, MWord.part]; omega
@[simp] theorem encH_disp (op : BitVec 6) (rl rh : BitVec 5) (nm1 : BitVec 6) (disp : BitVec 10) : (encH op rl rh nm1 disp).part 0 10 = disp := by
  apply BitVec.eq_of_toNat_eq; simp [encH, MWord.part]; omega

/-! ### Format V -/

@[simp] theorem encV_op (op : BitVec 6) (vd va vb vc : BitVec 4) (pg : BitVec 3) (zm w : BitVec 1) (fn : BitVec 5) : (encV op vd va vb vc pg zm w fn).part 26 6 = op := by
  apply BitVec.eq_of_toNat_eq; simp [encV, MWord.part]; omega
@[simp] theorem encV_vd (op : BitVec 6) (vd va vb vc : BitVec 4) (pg : BitVec 3) (zm w : BitVec 1) (fn : BitVec 5) : (encV op vd va vb vc pg zm w fn).part 22 4 = vd := by
  apply BitVec.eq_of_toNat_eq; simp [encV, MWord.part]; omega
@[simp] theorem encV_va (op : BitVec 6) (vd va vb vc : BitVec 4) (pg : BitVec 3) (zm w : BitVec 1) (fn : BitVec 5) : (encV op vd va vb vc pg zm w fn).part 18 4 = va := by
  apply BitVec.eq_of_toNat_eq; simp [encV, MWord.part]; omega
@[simp] theorem encV_vb (op : BitVec 6) (vd va vb vc : BitVec 4) (pg : BitVec 3) (zm w : BitVec 1) (fn : BitVec 5) : (encV op vd va vb vc pg zm w fn).part 14 4 = vb := by
  apply BitVec.eq_of_toNat_eq; simp [encV, MWord.part]; omega
@[simp] theorem encV_vc (op : BitVec 6) (vd va vb vc : BitVec 4) (pg : BitVec 3) (zm w : BitVec 1) (fn : BitVec 5) : (encV op vd va vb vc pg zm w fn).part 10 4 = vc := by
  apply BitVec.eq_of_toNat_eq; simp [encV, MWord.part]; omega
@[simp] theorem encV_pg (op : BitVec 6) (vd va vb vc : BitVec 4) (pg : BitVec 3) (zm w : BitVec 1) (fn : BitVec 5) : (encV op vd va vb vc pg zm w fn).part 7 3 = pg := by
  apply BitVec.eq_of_toNat_eq; simp [encV, MWord.part]; omega
@[simp] theorem encV_zm (op : BitVec 6) (vd va vb vc : BitVec 4) (pg : BitVec 3) (zm w : BitVec 1) (fn : BitVec 5) : (encV op vd va vb vc pg zm w fn).part 6 1 = zm := by
  apply BitVec.eq_of_toNat_eq; simp [encV, MWord.part]; omega
@[simp] theorem encV_w (op : BitVec 6) (vd va vb vc : BitVec 4) (pg : BitVec 3) (zm w : BitVec 1) (fn : BitVec 5) : (encV op vd va vb vc pg zm w fn).part 5 1 = w := by
  apply BitVec.eq_of_toNat_eq; simp [encV, MWord.part]; omega
@[simp] theorem encV_fn (op : BitVec 6) (vd va vb vc : BitVec 4) (pg : BitVec 3) (zm w : BitVec 1) (fn : BitVec 5) : (encV op vd va vb vc pg zm w fn).part 0 5 = fn := by
  apply BitVec.eq_of_toNat_eq; simp [encV, MWord.part]; omega

/-! ### Format VX -/

@[simp] theorem encVX_op (vd va : BitVec 4) (sa : BitVec 5) (imm : BitVec 6) (w : BitVec 1) (fn : BitVec 5) : (encVX vd va sa imm w fn).part 26 6 = 0x35#6 := by
  apply BitVec.eq_of_toNat_eq; simp [encVX, MWord.part]; omega
@[simp] theorem encVX_vd (vd va : BitVec 4) (sa : BitVec 5) (imm : BitVec 6) (w : BitVec 1) (fn : BitVec 5) : (encVX vd va sa imm w fn).part 22 4 = vd := by
  apply BitVec.eq_of_toNat_eq; simp [encVX, MWord.part]; omega
@[simp] theorem encVX_va (vd va : BitVec 4) (sa : BitVec 5) (imm : BitVec 6) (w : BitVec 1) (fn : BitVec 5) : (encVX vd va sa imm w fn).part 18 4 = va := by
  apply BitVec.eq_of_toNat_eq; simp [encVX, MWord.part]; omega
@[simp] theorem encVX_sa (vd va : BitVec 4) (sa : BitVec 5) (imm : BitVec 6) (w : BitVec 1) (fn : BitVec 5) : (encVX vd va sa imm w fn).part 13 5 = sa := by
  apply BitVec.eq_of_toNat_eq; simp [encVX, MWord.part]; omega
@[simp] theorem encVX_imm (vd va : BitVec 4) (sa : BitVec 5) (imm : BitVec 6) (w : BitVec 1) (fn : BitVec 5) : (encVX vd va sa imm w fn).part 7 6 = imm := by
  apply BitVec.eq_of_toNat_eq; simp [encVX, MWord.part]; omega
@[simp] theorem encVX_zero (vd va : BitVec 4) (sa : BitVec 5) (imm : BitVec 6) (w : BitVec 1) (fn : BitVec 5) : (encVX vd va sa imm w fn).part 6 1 = 0#1 := by
  apply BitVec.eq_of_toNat_eq; simp [encVX, MWord.part]; omega
@[simp] theorem encVX_w (vd va : BitVec 4) (sa : BitVec 5) (imm : BitVec 6) (w : BitVec 1) (fn : BitVec 5) : (encVX vd va sa imm w fn).part 5 1 = w := by
  apply BitVec.eq_of_toNat_eq; simp [encVX, MWord.part]; omega
@[simp] theorem encVX_fn (vd va : BitVec 4) (sa : BitVec 5) (imm : BitVec 6) (w : BitVec 1) (fn : BitVec 5) : (encVX vd va sa imm w fn).part 0 5 = fn := by
  apply BitVec.eq_of_toNat_eq; simp [encVX, MWord.part]; omega

/-! ### Format T -/

@[simp] theorem encT_op (vd : BitVec 4) (th : BitVec 2) (sa : BitVec 5) (imm : BitVec 6) (fn : BitVec 5) : (encT vd th sa imm fn).part 26 6 = 0x36#6 := by
  apply BitVec.eq_of_toNat_eq; simp [encT, MWord.part]; omega
@[simp] theorem encT_vd (vd : BitVec 4) (th : BitVec 2) (sa : BitVec 5) (imm : BitVec 6) (fn : BitVec 5) : (encT vd th sa imm fn).part 22 4 = vd := by
  apply BitVec.eq_of_toNat_eq; simp [encT, MWord.part]; omega
@[simp] theorem encT_th (vd : BitVec 4) (th : BitVec 2) (sa : BitVec 5) (imm : BitVec 6) (fn : BitVec 5) : (encT vd th sa imm fn).part 20 2 = th := by
  apply BitVec.eq_of_toNat_eq; simp [encT, MWord.part]; omega
@[simp] theorem encT_sa (vd : BitVec 4) (th : BitVec 2) (sa : BitVec 5) (imm : BitVec 6) (fn : BitVec 5) : (encT vd th sa imm fn).part 15 5 = sa := by
  apply BitVec.eq_of_toNat_eq; simp [encT, MWord.part]; omega
@[simp] theorem encT_imm (vd : BitVec 4) (th : BitVec 2) (sa : BitVec 5) (imm : BitVec 6) (fn : BitVec 5) : (encT vd th sa imm fn).part 9 6 = imm := by
  apply BitVec.eq_of_toNat_eq; simp [encT, MWord.part]; omega
@[simp] theorem encT_zero (vd : BitVec 4) (th : BitVec 2) (sa : BitVec 5) (imm : BitVec 6) (fn : BitVec 5) : (encT vd th sa imm fn).part 5 4 = 0#4 := by
  apply BitVec.eq_of_toNat_eq; simp [encT, MWord.part]; omega
@[simp] theorem encT_fn (vd : BitVec 4) (th : BitVec 2) (sa : BitVec 5) (imm : BitVec 6) (fn : BitVec 5) : (encT vd th sa imm fn).part 0 5 = fn := by
  apply BitVec.eq_of_toNat_eq; simp [encT, MWord.part]; omega

/-! ### Format TT -/

@[simp] theorem encTT_op (rd : BitVec 5) (td ts : BitVec 2) (sa fn : BitVec 5) : (encTT rd td ts sa fn).part 26 6 = 0x37#6 := by
  apply BitVec.eq_of_toNat_eq; simp [encTT, MWord.part]; omega
@[simp] theorem encTT_rd (rd : BitVec 5) (td ts : BitVec 2) (sa fn : BitVec 5) : (encTT rd td ts sa fn).part 21 5 = rd := by
  apply BitVec.eq_of_toNat_eq; simp [encTT, MWord.part]; omega
@[simp] theorem encTT_td (rd : BitVec 5) (td ts : BitVec 2) (sa fn : BitVec 5) : (encTT rd td ts sa fn).part 19 2 = td := by
  apply BitVec.eq_of_toNat_eq; simp [encTT, MWord.part]; omega
@[simp] theorem encTT_ts (rd : BitVec 5) (td ts : BitVec 2) (sa fn : BitVec 5) : (encTT rd td ts sa fn).part 17 2 = ts := by
  apply BitVec.eq_of_toNat_eq; simp [encTT, MWord.part]; omega
@[simp] theorem encTT_sa (rd : BitVec 5) (td ts : BitVec 2) (sa fn : BitVec 5) : (encTT rd td ts sa fn).part 12 5 = sa := by
  apply BitVec.eq_of_toNat_eq; simp [encTT, MWord.part]; omega
@[simp] theorem encTT_zero (rd : BitVec 5) (td ts : BitVec 2) (sa fn : BitVec 5) : (encTT rd td ts sa fn).part 5 7 = 0#7 := by
  apply BitVec.eq_of_toNat_eq; simp [encTT, MWord.part]; omega
@[simp] theorem encTT_fn (rd : BitVec 5) (td ts : BitVec 2) (sa fn : BitVec 5) : (encTT rd td ts sa fn).part 0 5 = fn := by
  apply BitVec.eq_of_toNat_eq; simp [encTT, MWord.part]; omega

/-! ### Format E -/

@[simp] theorem encE_op (rh rp : BitVec 5) (th : BitVec 2) (fn : BitVec 5) : (encE rh rp th fn).part 26 6 = 0x38#6 := by
  apply BitVec.eq_of_toNat_eq; simp [encE, MWord.part]; omega
@[simp] theorem encE_rh (rh rp : BitVec 5) (th : BitVec 2) (fn : BitVec 5) : (encE rh rp th fn).part 21 5 = rh := by
  apply BitVec.eq_of_toNat_eq; simp [encE, MWord.part]; omega
@[simp] theorem encE_rp (rh rp : BitVec 5) (th : BitVec 2) (fn : BitVec 5) : (encE rh rp th fn).part 16 5 = rp := by
  apply BitVec.eq_of_toNat_eq; simp [encE, MWord.part]; omega
@[simp] theorem encE_th (rh rp : BitVec 5) (th : BitVec 2) (fn : BitVec 5) : (encE rh rp th fn).part 14 2 = th := by
  apply BitVec.eq_of_toNat_eq; simp [encE, MWord.part]; omega
@[simp] theorem encE_fn (rh rp : BitVec 5) (th : BitVec 2) (fn : BitVec 5) : (encE rh rp th fn).part 0 5 = fn := by
  apply BitVec.eq_of_toNat_eq; simp [encE, MWord.part]; omega

end Sys2Proof.Machine
end

