-- ==== Sys2Proof/Machine/Module.lean ====
section
/-!
DEFINITION. Machine/Module.lean: the lands of the module and what they carry (R424 to R427), the ranges of the rails (R428, R429), and the
levels at the pins of the flash (R432). No command reads them: they say which land and which rail a lane, a pin or a record names.
-/
namespace Sys2Proof.Machine
open Sys2Proof

/-! ### Lands (R424) -/

/-- The quadrants of the land side; N is upper left with the orientation mark at the upper left. -/
inductive Quadrant where
  | n | e | s | w
deriving DecidableEq, Repr

/-- Quadrant number `q` of R425: 0 N, 1 E, 2 S, 3 W. -/
def quadrantOf (q : Nat) : Quadrant := [Quadrant.n, .e, .s, .w].getD (q % 4) .n

/-- A land: its quadrant, its row from the quadrant's edge inward, and its column clockwise from the quadrant's corner. -/
structure Land where
  quadrant : Quadrant
  row : Nat
  col : Nat
deriving DecidableEq, Repr

/-- The position exists: 72 × 72 to a quadrant, without the empty corner block. -/
def landExists (l : Land) : Bool := decide (l.row < 72) && decide (l.col < 72) && !(decide (l.row < 16) && decide (l.col < 16))

/-- Row and column of a land in the grid of 144 × 144, from the upper left of the land side. -/
def landGrid (l : Land) : Nat × Nat :=
  match l.quadrant with
  | .n => (l.row, l.col)
  | .e => (l.col, 143 - l.row)
  | .s => (143 - l.row, 143 - l.col)
  | .w => (143 - l.col, l.row)

/-! ### Lanes (R425) -/

/-- The lands of a pair of differential pairs. -/
structure LaneLands where
  txP : Land
  txN : Land
  rxP : Land
  rxN : Land
deriving DecidableEq, Repr

/-- The lands of physical lane `l`. -/
def laneLands (l : Nat) : LaneLands :=
  let q := quadrantOf (l / 256)
  let br := l % 256 / 18
  let bc := l % 256 % 18
  ⟨⟨q, br, 16 + 3 * bc⟩, ⟨q, br, 17 + 3 * bc⟩, ⟨q, 15 + br, 16 + 3 * bc⟩, ⟨q, 15 + br, 17 + 3 * bc⟩⟩

/-- The lands of lane `j` of host port `e`. -/
def hostLaneLands (e j : Nat) : LaneLands :=
  let q := if e = 0 then Quadrant.s else .w
  ⟨⟨q, 32, 16 + 3 * j⟩, ⟨q, 32, 17 + 3 * j⟩, ⟨q, 34, 16 + 3 * j⟩, ⟨q, 34, 17 + 3 * j⟩⟩

/-! ### Pins (R427) -/

/-- The single pins and pairs of R427. -/
inductive Pin where
  | resetN | pwrGood | fastClampN | clampAck | thermtripN | mgrPort | bootSrc0 | bootSrc1 | tickIn | tickOut | sysRefclk
  | i3cScl | i3cSda | smbScl | smbSda | cmis0Scl | cmis0Sda | uartTx | uartRx | tck | tms | tdi | tdo | trstN
  | qspiClk | qspiCsN | qspiRstN | cmis1Scl | cmis1Sda
  | gpio (k : Nat)
  | qspiIo (k : Nat)
  | laneRefclkP (die : Nat)
  | laneRefclkN (die : Nat)
  | pcieRefclkP (port : Nat)
  | pcieRefclkN (port : Nat)
  | perstN (port : Nat)
  | senseP (rail : Nat)
  | senseN (rail : Nat)
deriving DecidableEq, Repr

/-- Quadrant of what belongs to host port `e`. -/
def hostQuadrant (e : Nat) : Quadrant := if e = 0 then .s else .w

/-- The land of a pin. -/
def pinLand : Pin → Land
  | .resetN => ⟨.n, 33, 16⟩ | .pwrGood => ⟨.n, 33, 17⟩ | .fastClampN => ⟨.n, 33, 18⟩ | .clampAck => ⟨.n, 33, 19⟩ | .thermtripN => ⟨.n, 33, 20⟩
  | .mgrPort => ⟨.n, 33, 21⟩ | .bootSrc0 => ⟨.n, 33, 22⟩ | .bootSrc1 => ⟨.n, 33, 23⟩ | .tickIn => ⟨.n, 33, 24⟩ | .tickOut => ⟨.n, 33, 25⟩
  | .sysRefclk => ⟨.n, 33, 26⟩ | .i3cScl => ⟨.n, 34, 16⟩ | .i3cSda => ⟨.n, 34, 17⟩ | .smbScl => ⟨.n, 34, 18⟩ | .smbSda => ⟨.n, 34, 19⟩
  | .cmis0Scl => ⟨.n, 34, 20⟩ | .cmis0Sda => ⟨.n, 34, 21⟩ | .uartTx => ⟨.n, 34, 22⟩ | .uartRx => ⟨.n, 34, 23⟩ | .tck => ⟨.n, 34, 24⟩
  | .tms => ⟨.n, 34, 25⟩ | .tdi => ⟨.n, 34, 26⟩ | .tdo => ⟨.n, 34, 27⟩ | .trstN => ⟨.n, 34, 28⟩ | .qspiClk => ⟨.n, 34, 30⟩
  | .qspiCsN => ⟨.n, 34, 31⟩ | .qspiRstN => ⟨.n, 34, 36⟩ | .cmis1Scl => ⟨.n, 34, 37⟩ | .cmis1Sda => ⟨.n, 34, 38⟩
  | .gpio k => ⟨.n, 32, 16 + k⟩
  | .qspiIo k => ⟨.n, 34, 32 + k⟩
  | .laneRefclkP d => ⟨quadrantOf (d / 2), 30, 16 + 4 * (d % 2)⟩
  | .laneRefclkN d => ⟨quadrantOf (d / 2), 30, 17 + 4 * (d % 2)⟩
  | .pcieRefclkP e => ⟨hostQuadrant e, 31, 16⟩
  | .pcieRefclkN e => ⟨hostQuadrant e, 31, 17⟩
  | .perstN e => ⟨hostQuadrant e, 31, 18⟩
  | .senseP r => ⟨.n, 36, 16 + 2 * r⟩
  | .senseN r => ⟨.n, 36, 17 + 2 * r⟩

/-! ### Rails (R428, R429) -/

/-- Nominal voltage and operating range of a rail in mV. -/
def railRange (r : Nat) : Nat × Nat × Nat :=
  [(700, 679, 721), (750, 728, 772), (900, 873, 927), (1200, 1164, 1236), (1050, 1019, 1081), (400, 388, 412), (1800, 1746, 1854),
   (750, 728, 772), (1800, 1746, 1854)].getD r (0, 0, 0)

/-- The largest sustained current of a rail in A. -/
def railSustained (r : Nat) : Nat := [2500, 400, 260, 80, 260, 500, 20, 120, 3].getD r 0

/-- The group of the power sequence in which a rail rises: 1, 2 or 3. -/
def railGroup (r : Nat) : Nat := [2, 2, 3, 3, 2, 3, 1, 2, 1].getD r 0

/-- Power in mW of all rails at nominal voltage and `amps` of each. -/
def railPower (amps : Nat → Nat) : Nat := (List.range 9).foldl (fun p r => p + (railRange r).1 * amps r) 0

/-! ### What a land that no pin has carries (R426) -/

/-- What a land is for. -/
inductive LandUse where
  | gnd
  | power (rail : Nat)
  | reserved
deriving DecidableEq, Repr

/-- The use of a land that R425 and R427 do not name. -/
def landUse (l : Land) : LandUse :=
  let r := l.row
  let c := l.col
  if r < 30 then
    if 16 ≤ c then .gnd
    else if r < 23 ∨ (r = 23 ∧ c < 8) then .power 1
    else if r < 28 ∨ (r = 28 ∧ c < 8) then .power 2
    else .power 3
  else if r = 30 then .gnd
  else if (r = 33 ∨ r = 35) ∧ 16 ≤ c ∧ c < 56 ∧ (l.quadrant = .s ∨ l.quadrant = .w) then .power 7
  else if r = 35 ∧ 16 ≤ c ∧ c < 24 ∧ l.quadrant = .n then .power 8
  else if r = 36 ∧ 56 ≤ c then .reserved
  else if r ≤ 36 then .gnd
  else if r = 37 ∨ r = 39 ∨ (r = 41 ∧ c < 16) then .power 5
  else if r = 41 ∨ (r = 43 ∧ c < 24) then .power 4
  else if r = 43 ∧ c < 32 then .power 6
  else if r ≤ 45 then .gnd
  else if (r + c) % 2 = 0 then .power 0 else .gnd

/-! ### The flash's pins (R432) -/

/-- `QSPI_RST_N` is low: it follows `RESET_N`. -/
def qspiReset (s : State) : Bool := s.fw.phase == 0

/-- Vovis drives `QSPI_CLK`, `QSPI_CS_N` and `QSPI_IO`: not while `RESET_N` is low, nor while the ROM has halted under HOLD (R386). -/
def qspiDriven (s : State) : Bool := !qspiReset s && !(rdb s Reg.SECURITY.BOOT_STATUS.HALTED && rd s Reg.SECURITY.BOOT_STATUS.BOOT_SRC == 3)

end Sys2Proof.Machine
end

