-- ==== Sys2Proof/Tests/Slice0.lean ====
section
/-!
SUPPORT. Tests/Slice0.lean: an ill-formed term for each check of WellFormed, a Milys word of each format written out from the encoding tables,
small states that meet the hypotheses of the statements, and single steps whose results the manual gives.
-/
namespace Sys2Proof.Tests
open Sys2Proof Sys2Proof.Machine

set_option Elab.async false

/-! ### Well-formedness -/

/-- A frame of `n` empty slots. -/
def aFrame (n : Nat) : Frame := { tagGcm := 0, ctrLo := 0, keySeq := 0, codes := 0, credit := 0, slots := List.replicate n 0 }

/-- R47, R85: a payload of 63 bytes is no whole flit, and a frame has eight slots. -/
theorem test_ill_formed_packets : Instr.wellFormed (.packetIngress 0 false { h := {}, payload := List.replicate 63 0 } true false) = false ∧
    Instr.wellFormed (.packetIngress 0 false { h := {}, payload := List.replicate 64 0 } true false) = true ∧
    Instr.wellFormed (.linkFrameReceive 0 (aFrame 7) false) = false ∧ Instr.wellFormed (.linkFrameReceive 0 (aFrame 8) false) = true ∧
    Instr.wellFormed (.keyingOffer 0 (aFrame 9)) = false ∧ Instr.wellFormed (.keyingOffer 0 (aFrame 8)) = true := by decide

/-- R161, R163, R169, R172: reserved FMT and RND codes, an empty jump table, a count of 0 or above 4,096, SC = 3 and an empty WAIT. -/
theorem test_ill_formed_scalar : Instr.wellFormed (.setfmt 0 14) = false ∧ Instr.wellFormed (.setfmt 0 13) = true ∧
    Instr.wellFormed (.setrnd 0 2) = false ∧ Instr.wellFormed (.setrnd 0 1) = true ∧ Instr.wellFormed (.jt 0 1 []) = false ∧
    Instr.wellFormed (.jt 0 1 (List.replicate 65 0)) = false ∧ Instr.wellFormed (.jt 0 1 (List.replicate 64 0)) = true ∧
    Instr.wellFormed (.loopR 0 none 0 1 1) = false ∧ Instr.wellFormed (.loopR 0 none 4097 1 1) = false ∧
    Instr.wellFormed (.loopR 0 none 4096 1 1) = true ∧ Instr.wellFormed (.waitR 0 0) = false ∧ Instr.wellFormed (.waitR 0 1) = true := by decide

/-- R172, R173, R175, R190: SC = 3, PART = 4, HALF = 2, an odd register pair and a system value above 10. -/
theorem test_ill_formed_vector : Instr.wellFormed (.vld 0 0 0 0 3 0) = false ∧ Instr.wellFormed (.vld 0 0 0 0 2 0) = true ∧
    Instr.wellFormed (.vst 0 0 0 0 3 0) = false ∧ Instr.wellFormed (.vst 0 0 0 0 2 0) = true ∧
    Instr.wellFormed (.vcvtw 0 1 2 4 0 false) = false ∧ Instr.wellFormed (.vcvtw 0 1 2 3 0 false) = true ∧
    Instr.wellFormed (.vnrw 0 1 2 3 2 0 false) = false ∧ Instr.wellFormed (.vnrw 0 1 2 3 1 0 false) = true ∧
    Instr.wellFormed (.vmxp 0 1 0 0) = false ∧ Instr.wellFormed (.vmxp 0 2 0 0) = true ∧
    Instr.wellFormed (.rdsys 0 1 11) = false ∧ Instr.wellFormed (.rdsys 0 1 10) = true := by decide

/-- R390, R391, R407: a nonce has 32 bytes, and a junction sample 64 readings. -/
theorem test_ill_formed_requests : Instr.wellFormed (.challenge .mctp 0 (List.replicate 31 0)) = false ∧
    Instr.wellFormed (.challenge .mctp 0 (List.replicate 32 0)) = true ∧ Instr.wellFormed (.getMeasurements .mctp 0 true []) = false ∧
    Instr.wellFormed (.getMeasurements .mctp 0 true (List.replicate 32 0)) = true ∧ Instr.wellFormed (.keyExchange .mctp 0 [] []) = false ∧
    Instr.wellFormed (.keyExchange .mctp 0 (List.replicate 32 0) []) = true ∧ Instr.wellFormed (.junctionSample (List.replicate 63 none)) = false ∧
    Instr.wellFormed (.junctionSample (List.replicate 64 none)) = true := by decide

/-! ### Milys words (R157 to R175), spelled bit by bit -/

/-- ADD s3, s1, s2: OP 0x01, RD 3, RA 1, RB 2 in format R. -/
theorem test_word_add : milysDecode 0 0b000001_00011_00001_00010_00000000000#32 [] = .ok (.add 0 3 1 2) := by decide

/-- Formats I and R: ADDI s1, s0, −1; LUI s2 with SH = 1; LD32U; ST64; SAMO CAS; PAND. -/
theorem test_words_scalar : milysDecode 0 0b000010_00001_00000_1111111111111111#32 [] = .ok (.addi 0 1 0 0xFFFF) ∧
    milysDecode 0 0b001001_00010_00001_1000000000000000#32 [] = .ok (.lui 0 2 0x8000 1) ∧
    milysDecode 0 0b100010_00011_00100_0000000000001000#32 [] = .ok (.ld32u 0 3 4 8) ∧
    milysDecode 0 0b100111_00011_00100_1111111111111000#32 [] = .ok (.st64 0 3 4 0xFFF8) ∧
    milysDecode 0 0b101100_00001_00010_00011_00000_000010#32 [] = .ok (.samoCas 0 1 2 3) ∧
    milysDecode 0 0b110001_00001_00010_00011_00000_000000#32 [] = .ok (.pand 0 1 2 3) := by decide

/-- Format B and the others of control flow: BEQ +3, BP with NEG, CALL −2, TRAP 0xBEEF, FIN with RA and TH. -/
theorem test_words_control : milysDecode 0 0b010000_00001_00010_0000000000000011#32 [] = .ok (.beq 0 1 2 3) ∧
    milysDecode 0 0b010111_00011_00001_0000000000000101#32 [] = .ok (.bp 0 3 true 5) ∧
    milysDecode 0 0b011000_00000_00000_1111111111111110#32 [] = .ok (.call 0 0xFFFE) ∧
    milysDecode 0 0b011111_00000_00000_1011111011101111#32 [] = .ok (.trap 0 0xBEEF) ∧
    milysDecode 0 0b011101_00111_10_0000000000000000000#32 [] = .ok (.fin 0 7 2) := by decide

/-- Formats VM, H, V, VX, T, TT, E and SYS. -/
theorem test_words_vector : milysDecode 0 0b101000_0101_00110_00111_01_0000000011#32 [] = .ok (.vld 0 5 6 7 1 3) ∧
    milysDecode 0 0b101110_00001_00010_000011_0000000001#32 [] = .ok (.hld 0 1 2 3 1) ∧
    milysDecode 0 0b110010_0001_0010_0011_0100_101_1_0_00011#32 [] = .ok (.vfma 0 1 2 3 4 5 true false) ∧
    milysDecode 0 0b110101_0000_0010_00111_000100_0_1_00010#32 [] = .ok (.vext 0 7 2 4 true) ∧
    milysDecode 0 0b110110_0011_01_00010_000101_0000_00000#32 [] = .ok (.tld 0 3 1 2 5) ∧
    milysDecode 0 0b110111_00000_01_00_00110_0000000_00001#32 [] = .ok (.tmuls 0 1 6) ∧
    milysDecode 0 0b111000_00001_00010_00_000000000_00000#32 [] = .ok (.emit 0 1 2) ∧
    milysDecode 0 0b111001_00001_00000_00000_00110_000000#32 [] = .ok (.rdsys 0 1 6) := by decide

/-! ### Small states: a handler on device cell 0 -/

/-- Registers with s1 = 3, s2 = 5, s3 = 0x100, s4 = 0x1000_0008 (shared), s5 = HBM at 400 GiB, s6 = 0x4E (reserved codes), s7 = 0x101 (odd), s8 =
0x10 (a code each), s9 = 0x3_0000 (no window); p1 alternating; handles t0 and t1 bound. -/
def aRegs : CellRegs :=
  { s := [0, 3, 5, 0x100, 0x10000008, 0x106400000000, 0x4E, 0x101, 0x10, 0x30000] ++ List.replicate 22 0,
    p := [0, 0x5555, 0] ++ List.replicate 5 0, t := [some 0, some 1, none, none] }
/-- A handler at pc 4 that may emit twice. -/
def aRun : CellRun := { r := aRegs, pc := 4, kind := 3, maxEmits := 2, arrival := some 0 }
/-- The state after reset with the handler `r` on device cell 0. -/
def onCell (r : CellRun) : State := setRun State.reset 0 r

/-- Hypotheses of the statements about Milys registers and control flow, with accepted and reserved codes, a full and an empty return stack, a
count at its least, its largest and above, and a loop level before and at its end (R153, R161 to R163). -/
theorem test_hyps_milys_control : cellRun (onCell aRun) 0 = some aRun ∧
    (let x := (gS (atIns (onCell aRun) 0 1 [8] aRun).1 8).toNat; x % 16 < 14 ∧ x / 16 % 4 < 2) ∧
    (let x := (gS (atIns (onCell aRun) 0 1 [6] aRun).1 6).toNat; ¬ (x % 16 < 14 ∧ x / 16 % 4 < 2)) ∧
    aRun.r.ret.length < 8 ∧ 0 ≤ (aRun.pc : Int) + 1 + (0xFFFB#16).toInt ∧ tenantRun aRun = false ∧
    ({ aRun with r := { aRegs with ret := [9] } } : CellRun).r.ret = 9 :: [] ∧
    (1 ≤ (gS aRun 1).toNat ∧ (gS aRun 1).toNat ≤ (3#13).toNat) ∧ (2#13).toNat < (gS aRun 1).toNat ∧ (gS aRun 10).toNat = 0 ∧
    (4096#13).toNat ≤ 4096 ∧ aRun.r.loops.length < 4 ∧ aRun.fin = none ∧ aRun.acc = [] := by decide +kernel

/-- A stock and a tenant's finish, and the swarms whose FINISH_KIND selects each arm of FIN (R165 to R167). -/
theorem test_hyps_milys_finish :
    (let f : FinFrame := { saved := aRegs, pc := 9, swarm := 3, tenant := false, reduce := none }
     let r := { aRun with fin := some f }
     cellRun (onCell r) 0 = some r ∧ r.fin = some f ∧ r.acc = []) ∧
    gT aRun 0 = some 0 ∧ rd (onCell aRun) (Reg.SWARM.SWARM_DEF.FINISH_KIND ((gS aRun 1).toNat % 256)) = 0 ∧
    rd (wr (onCell aRun) (Reg.SWARM.SWARM_DEF.FINISH_KIND 3) 1) (Reg.SWARM.SWARM_DEF.FINISH_KIND ((gS aRun 1).toNat % 256)) = 1 := by decide +kernel

/-- Aligned and misaligned addresses, in a window and in none, for local data, shared SRAM and HBM, at the last byte of a window (R131, R168, R172). -/
theorem test_hyps_milys_memory :
    (gS aRun 3 + BitVec.ofInt 64 (8#16).toInt).toNat % 8 = 0 ∧ localAt aRun 0x108 8 = some (0, 0x108) ∧ localAt aRun 0x1BFFF 1 = some (0, 0x1BFFF) ∧
    (gS aRun 7).toNat % 2 ≠ 0 ∧ (gS aRun 9).toNat % 8 = 0 ∧ localAt aRun 0x30000 8 = none ∧ localAt aRun 0x100000 64 = some (1, 0) ∧
    (gS aRun 3 + (gS aRun 2 <<< 6) + BitVec.ofNat 64 64).toNat % 64 = 0 ∧ localAt aRun 0x280 64 = some (0, 0x280) ∧
    (gS aRun 4).toNat % 8 = 0 ∧ 0x10000000 ≤ (gS aRun 4).toNat ∧ (gS aRun 4).toNat < 0x10800000 ∧
    farAt (onCell aRun) aRun (gS aRun 5).toNat 64 = .ok 0x6400000000 ∧ (gS aRun 5).toNat % 64 = 0 ∧
    (let a : Machine.Access := { hbm := true, reg := 32, val := 0, space := 0, off := 0, data := [], skip := [], poison := false }
     ({ aRun with acc := [a] } : CellRun).acc[(0#5).toNat]? = some a) := by decide +kernel

/-- Vector formats with and without W, the predicates all ones and all zeros, narrow formats of 8 and 16 bits, and element numbers inside and at the
end (R155, R173). -/
theorem test_hyps_milys_vector : layout 0 false = some (16, 32) ∧ layout 9 false = none ∧ layout 9 true = some (16, 32) ∧ gP aRun 0 = BitVec.allOnes 64 ∧
    gP aRun 2 = 0 ∧ narrowBits 2 = some 16 ∧ (16 : Nat) * (16 * (1#4).toNat + 16) ≤ 512 ∧ (15#6).toNat < 16 ∧ 16 ≤ (16#6).toNat ∧
    aRun.r.fmt = 0 ∧ 0 < 32 ∧ 16 * 32 ≤ 512 := by decide +kernel

/-- Tiles in and out of their window, in the format of the handler, and an unbound handle; what EMIT needs; the pins that an image claims (R174, R175). -/
theorem test_hyps_milys_tiles : gT aRun 0 = some 0 ∧ gT aRun 1 = some 1 ∧ gT aRun 2 = none ∧ ((gS aRun 1 + (29#6).zeroExtend 64) * 64).toNat = 2048 ∧
    2048 < ((gS aRun 1 + (30#6).zeroExtend 64) * 64).toNat ∧ tileOk aRun.r.fmt (slotTile (onCell aRun) 0 0) = true ∧ aRun.own.length < 2 ∧
    (gS aRun 3).toNat + 64 ≤ 0x20000 ∧ aRun.emits < aRun.maxEmits ∧ (10#5).toNat < 11 ∧
    bitAt (imageOf (onCell aRun) 0).gpio 3 = false ∧ rdb (onCell aRun) (Reg.MGMT.GPIO_CTL.DIR 3) = false ∧
    rdb (wr (onCell aRun) (Reg.MGMT.GPIO_CTL.DIR 3) 1) (Reg.MGMT.GPIO_CTL.DIR 3) = true := by decide +kernel

/-- A tile header of format `fmt` with `blocks` blocks and `valid` bytes, and 2,048 zero bytes (R73). -/
def aTile (fmt blocks valid : Nat) : List Byte := padTo tileLen (leBytes 64 (packBits [(64, 4, fmt), (72, 8, blocks), (80, 12, valid)]))
/-- A header of kind `k` with its check code. -/
def aHdr (k : Kind) (h : Hdr := {}) : Hdr :=
  let h := { h with kind := k.code }
  { h with hcrc := hcrcOf h }

/-- A block of an MX tile in FMT 9, a header that EMIT sends and one that EMITT sends, and an image that claims pin 3 (R174, R175). -/
theorem test_hyps_milys_emit : mxOk 5 (aTile 5 1 33) 0 = true ∧ (2 : Fin 16).val % 2 = 0 ∧
    emitBad { h := aHdr .swarmAck { tc := 2, dest := 5 } } false = false ∧ expectedFlits (aHdr .swarmAck { tc := 2 }) = 1 ∧
    emitBad { h := aHdr .swarmTile { tc := 2, dest := 5, len := 0x3FF }, payload := aTile 0 0 2048 } true = false ∧
    (let s := { onCell aRun with cells := { (onCell aRun).cells with images := [(0, { gpio := 8 })] } }; bitAt (imageOf s 0).gpio 3 = true) := by
  decide +kernel

/-- A tenant's finish on the handler, as a frame. -/
def aTenant : CellRun := { aRun with fin := some { saved := aRegs, pc := 9, swarm := 3, tenant := true, reduce := none } }

/-- What the loader admits and what it rejects: codes, a full and an empty return stack, a call out of CODE, tables of JT, loops at a level, nested
fully and with a count of 0, a tenant's finish, an empty WAIT, and a finish module with an entry and without one (R143, R161 to R164, R167, R176). -/
theorem test_hyps_milys_loader : 14 ≤ (14#4).toNat ∧ 2 ≤ (2#2).toNat ∧ 8 ≤ (List.replicate 8 0).length ∧ (aRun.pc : Int) + 1 + (0xFFFA#16).toInt < 0 ∧
    aRun.r.ret = [] ∧ aRun.r.loops = [] ∧ tenantRun aTenant = true ∧ cellRun (onCell aTenant) 0 = some aTenant ∧ ¬ (1 ≤ (0#13).toNat) ∧
    (let x : LoopLevel := { count := 3, k := 1, ix := 4, start := 5 }; ({ aRun with r := { aRegs with loops := [x] } } : CellRun).r.loops = x :: []) ∧
    (2#2 : BitVec 2) ≠ 0 ∧ aRun.acc[(0#5).toNat]? = none ∧
    (let s := { wr (onCell aRun) (Reg.SWARM.SWARM_DEF.FINISH_KIND 3) 2 with cells := { (onCell aRun).cells with finishes := [(3, { entries := [(9, (4, 8, 2))] })] } }
     rd s (Reg.SWARM.SWARM_DEF.FINISH_KIND ((gS aRun 1).toNat % 256)) = 2 ∧ imgEntry ((findKey s.cells.finishes 3).getD {}) 9 = some (4, 8, 2)) ∧
    imgEntry ((findKey (onCell aRun).cells.finishes 3).getD {}) 9 = none := by decide +kernel

/-- What faults: an HBM address outside every window, a predicate neither all ones nor zero, parts and halves out of range, tiles that do not agree with FMT,
both tile slots of the handler taken, and emits past the end of local data, barred and too many (R155, R168, R173 to R175). -/
theorem test_hyps_milys_faults : (∃ c, farAt (onCell aRun) aRun 0 64 = .error c) ∧ (gS aRun 5).toNat % 64 = 0 ∧ gP aRun 1 ≠ 0 ∧ gP aRun 1 ≠ BitVec.allOnes 64 ∧
    512 < 16 * (16 * (2#4).toNat + 16) ∧ 4 ≤ (4#4).toNat ∧ 2 ≤ (2#4).toNat ∧ narrowBits 0 = none ∧ tileOk 0 (aTile 5 1 33) = false ∧ mxOk 5 (aTile 0 0 2048) 0 = false ∧
    2 ≤ ({ aRun with own := [6, 7] } : CellRun).own.length ∧ 0x20000 < (gS aRun 9).toNat + 64 ∧ emitBad { h := aHdr .swarmAck { tc := 2, dest := 0xFFF } } false = true ∧
    ({ aRun with emits := 2 } : CellRun).maxEmits ≤ ({ aRun with emits := 2 } : CellRun).emits ∧ 11 ≤ (11#5).toNat := by
  refine ⟨⟨1, ?_⟩, ?_⟩ <;> decide +kernel

/-! ### Registers and functions -/

/-- Field writes to the state after reset. -/
def with_ (l : List (Fld × Nat)) : State := wrs State.reset l

/-- A settings register of 32 bits, an access of 3 bytes, and the first offset with no register; the manager writes as itself (R14, R26, R32). -/
theorem test_hyps_registers : actor State.reset .manager = .manager ∧ viewOf State.reset .manager 0x10 = .addr 0x10 ∧ viewOf State.reset .manager 0xE00000 = .addr 0xE00000 ∧
    (match regFind 0x10 with
     | some x => x.addr == 0x10 && x.desc.width == 32 && settingsOnly x.desc.base && !x.desc.snap && x.desc.fields.all (fun f => guardOpen State.reset x f.guard && accepts (bits 1000 f.lo f.width) f.allow)
     | none => false) = true ∧ readOnlyView State.reset .manager 0x10 = false ∧ accessOk 0x10 3 = false ∧ accessOk 0x14 8 = false ∧ accessOk 0x18 8 = true ∧
    regFind 0xE00000 = none ∧ readOnlyView State.reset .manager 0xE00000 = false := by decide +kernel

/-- A request at the management port from a fabric manager's ID and one from another. -/
def atMgmt (src : BitVec 12) (k : Kind) (len : BitVec 10) (addr : BitVec 60) : Packet := { h := aHdr k { src := src, len := len, addr := addr } }
/-- The fabric manager's ID 7 is valid, and `p` waits at the management port. -/
def mgmtHas (p : Packet) : State := { with_ [(Reg.SWITCH.FM_IDS.VALID 0, 1), (Reg.SWITCH.FM_IDS.ID 0, 7)] with inbox := [(228, p)] }

/-- Requests that are served, refused and answered DENIED, and a read of the map (R61, R369). -/
theorem test_hyps_service :
    (let p := atMgmt 7 .regRead 4 0x10
     let s := mgmtHas p
     (228, p) ∈ s.inbox ∧ p.h.hcrc = hcrcOf p.h ∧ p.h.src.toNat ∈ fmIds s ∧ p.h.k = some .regRead ∧
       errMark (regRead (takeIn s 228 p) .fabric 0x10 4).2 = errMark (takeIn s 228 p)) ∧
    (let p := atMgmt 7 .regRead 4 0xE00001
     errMark (regRead (takeIn (mgmtHas p) 228 p) .fabric 0xE00001 4).2 ≠ errMark (takeIn (mgmtHas p) 228 p)) ∧
    (let p := atMgmt 7 .regWrite 4 0xE00000
     p.h.k = some .regWrite ∧ errMark (regWrite (takeIn (mgmtHas p) 228 p) .fabric 0xE00000 4 0) ≠ errMark (takeIn (mgmtHas p) 228 p)) ∧
    (let p := atMgmt 7 .regWrite 4 0x10
     errMark (regWrite (takeIn (mgmtHas p) 228 p) .fabric 0x10 4 1000) = errMark (takeIn (mgmtHas p) 228 p)) ∧
    (let p := atMgmt 8 .regRead 4 0x10
     p.h.src.toNat ∉ fmIds (mgmtHas p)) ∧
    (atMgmt 7 .read 64 0).h.k = some .read ∧ Kind.read.answered = true := by decide +kernel

/-- PORT 0 in state `st`. -/
def port0 (st : Nat) : State := with_ [(Reg.GLOBAL.FUNC_STATUS.STATE 0, st)]

/-- The writers of R32 and another; PORT 0 in each state that a command leaves; a SEQ that matches and one that does not (R29 to R31). -/
theorem test_hyps_function_commands : Writer.privileged .manager = true ∧ Writer.privileged (.host 1 3) = false ∧
    (∀ st ∈ [0, 1, 2, 3, 4, 5], fnState (port0 st) 0 = st ∧ (0#8).toNat = rd (port0 st) (Reg.GLOBAL.FUNC_DIAG.SEQ 0)) ∧
    fnDependents (port0 2) 0 = [] ∧ fnRetirable 0 = true ∧ (462#9).toNat < 463 ∧ (255#8).toNat ≠ rd (port0 0) (Reg.GLOBAL.FUNC_DIAG.SEQ 0) ∧
    dryFitOpen (port0 1) 0 = true ∧ dryFitOpen { port0 1 with now := ms 50, fn := { (port0 1).fn with startAt := [(0, 0)] } } 0 = false ∧
    drained (port0 3) 0 = true ∧ 0 ∉ (port0 3).fn.depLost ∧
    0 ∈ ({ port0 3 with fn := { (port0 3).fn with depLost := [0] } } : State).fn.depLost := by decide +kernel

/-- A dry-fit that passes, and one that fails each check, for a PORT and for a CLUSTER; a drain that has not ended at its limit (R33, R34). -/
theorem test_hyps_function_progress :
    settingsOk (port0 1) 0 = true ∧ depsOk (port0 1) 0 = true ∧ (findKey (port0 1).fn.claim 0).getD none = none ∧ fnType 0 ≠ 2 ∧ fnType 0 ≠ 4 ∧
    findKey ({ port0 1 with fn := { (port0 1).fn with claim := [(0, some (16, 3))] } } : State).fn.claim 0 = some (some (16, 3)) ∧
    fnType (fCluster 0) = 2 ∧ physIn State.reset 0 1 = [] ∧ procAway State.reset 4 = false ∧
    (let s := with_ ((Reg.GLOBAL.FUNC_STATUS.STATE 130, 1) :: (List.range 132).map (fun c => (Reg.CLUSTER.PHYS_CELL.STATE 0 c, 2)))
     dryFitOpen s 130 = true ∧ settingsOk s 130 = true ∧ 128 ≤ (physIn s 0 2).length ∧ physIn s 0 1 = []) ∧ settingsOk (with_ [(Reg.PORT.PORT_CFG.LOOPBACK 0, 1)]) 0 = false ∧
    (let s := { port0 3 with now := us 100000, fn := { (port0 3).fn with stopAt := [(0, 0)] }, sw := { (port0 3).sw with egress := [(0, [⟨1, { h := {} }, 1, 1, 0, false, 0, false⟩])] } }
     drained s 0 = false ∧ 0 + us (rd s Reg.GLOBAL.STOP_DRAIN_LIMIT.LIMIT_US) ≤ s.now) := by decide +kernel

/-- What holds of the register at byte address `a`. -/
def atReg (a : Nat) (f : RegAt → Bool) : Bool := match regFind a with | some x => f x | none => false
/-- A write of `v` to the 32 bits of the register at `a` reports cause `k` for some field (R12, R439). -/
def errs (s : State) (a v k : Nat) : Bool := atReg a (fun x => x.desc.fields.any (fun f => fieldErr s x 0 32 v s f == some k))
/-- VF 1 of port 0 with slot 0 mapped to its context 5, and two vectors. -/
def aVf : State := with_ [(Reg.HOSTPORT.VF_CTX_MAP.VALID 0 1 0, 1), (Reg.HOSTPORT.VF_CTX_MAP.CTX 0 1 0, 5), (Reg.EP.CTX.FUNC 5, 1), (Reg.HOSTPORT.PORT_CFG.VF_VECTORS 0, 2)]

/-- A closed field that would change and one that keeps its value, a value that is not accepted, a W1C register, registers whose writes act or are R32's,
a snapshot without DONE, the absent half of a port, and each view of R302 and R307, of a slot that is mapped and one that is not (R8 to R27, R331, R439). -/
theorem test_hyps_register_forms :
    (let s := with_ [(Reg.GLOBAL.FUNC_STATUS.STATE (fCluster 0), 2)]
     errs s 0x780000 0xFFFFFFFF 3 = true ∧ atReg 0x780000 (fun x => settingsOnly x.desc.base && !errs s 0x780000 (regHeld s x) 3) = true) ∧
    errs State.reset 0x780000 0xFFFFFFFF 4 = true ∧ atReg 0x8108 (fun x => settingsOnly x.desc.base && x.desc.fields.any (fun f => f.access == .w1c)) = true ∧
    atReg 0x1004 (fun x => privOnly x.desc.base) = true ∧ atReg 0x10000 (fun x => !privOnly x.desc.base && !settingsOnly x.desc.base) = true ∧
    atReg 0x200030 (fun x => x.desc.snap && !halfAbsent State.reset x) = true ∧ rdb State.reset (snapFlds (snapBlkOf 0x200030)).2.1 = false ∧
    atReg 0xC00028 (fun x => x.ix.getD 1 0 == 1 && halfAbsent State.reset x) = true ∧
    viewOf aVf (.host 0 1) 0 = .vfId ∧ viewOf aVf (.host 0 1) 0x22010 = .vfInval ∧ viewOf aVf (.host 0 1) 0x1000 = .addr (0xB04000 + 20) ∧
    viewOf aVf (.host 0 1) 0x1004 = .zero ∧ viewOf aVf (.host 0 1) 0x40000 = .none ∧ viewOf aVf (.host 0 1) 0x30018 = .table 0 1 0x18 ∧ 0x18 / 16 < vectorCount aVf 0 1 ∧
    viewOf aVf (.host 0 1) 0x38000 = .pba 0 1 0 ∧ sliceOf (.host 0 1) = some (0, 1) ∧ viewOf aVf .manager 0xB3FFFC = .addr 0xB3FFFC ∧
    viewOf aVf .manager 0xB40000 = .table 0 0 0 ∧ readOnlyView aVf (.host 1 0) 0xB00000 = true ∧ outsideCause (.host 1 0) 0x1004 = 5 := by decide +kernel

/-! ### The switch, links and lanes -/

/-- A read request of one block with its check code, and a held and a spilled packet of the switch. -/
def aRead : Packet := { h := aHdr .read { dest := 5, src := 7, tc := 3, len := 64, addr := 0x1000 } }
def aPkt (place : Place) (unchecked : Bool) : QPkt :=
  { id := 4, inp := 3, half := 6, p := aRead, stamp := 0, arrived := 1, total := 1, outs := [0], multicast := false, sent := [], place := place,
    unchecked := unchecked, bad := false }
/-- The state after reset with `q` in the switch. -/
def switchHas (q : QPkt) : State := { State.reset with sw := { State.reset.sw with pkts := [q] } }

/-- A port with its link UP, packets with and without a fault of R51, R54 and R86, and a swarm tile of a stopped SWARM (R111). -/
theorem test_hyps_switch_path : linkUp (with_ [(Reg.PORT.LINK_STATUS.STATE 3 0, 3)]) 6 = true ∧ ingressFault State.reset aRead true = none ∧
    ingressFault State.reset { h := { aRead.h with hcrc := aRead.h.hcrc + 1 } } true = some (1, true) ∧
    ingressFault State.reset { h := aHdr .read { tc := 3, len := 0 } } true = some (2, true) ∧
    swarmTileStopped State.reset aRead.h = false ∧ swarmTileStopped State.reset (aHdr .swarmTile) = true ∧ dieHeld State.reset 8 = false := by
  decide +kernel

/-- A held packet with a place, a spilled one within the limits, unchecked ones that are granted, need no check and are denied, and a queued
notice (R109, R122, R124, R125). -/
theorem test_hyps_switch_queues : firstHeld (switchHas (aPkt .held false)) 3 6 3 = some (aPkt .held false) ∧
    placement (switchHas (aPkt .held false)) (aPkt .held false) false ≠ .held ∧
    (switchHas (aPkt .spill false)).sw.pkts.find? (fun x => x.key == voqKey 3 0 3 && x.place == .spill) = some (aPkt .spill false) ∧
    onchipOf (switchHas (aPkt .spill false)) (voqKey 3 0 3) < rd (switchHas (aPkt .spill false)) Reg.SWITCH.SPILL_CFG.REFILL_KIB * 1024 ∧
    (aPkt .spill false).bytes ≤ poolFree (switchHas (aPkt .spill false)) ∧
    (switchHas (aPkt .onchip true)).sw.pkts.find? (fun x => x.id == 4 && x.unchecked) = some (aPkt .onchip true) ∧
    extCheck State.reset aRead.h = .deny ccDenied 1 ∧ extCheck State.reset (aHdr .swarmAck) = .none ∧
    (let s := { with_ [(Reg.GLOBAL.FUNC_STATUS.STATE fExt, 2)] with ext := { State.reset.ext with reg := [(0, { st := 1, perm := 15, ngran := 1 })] } }
     extCheck s aRead.h = .grant 0) := by decide +kernel

/-- An end-point ID that is not the broadcast ID, and a half whose port is down (R115, R125, R127). -/
theorem test_hyps_routes : (0xFFE#12 : BitVec 12) ≠ 0xFFF ∧ (0xFF#8).toNat ∈ ({ State.reset with sw := { State.reset.sw with down := [255] } } : State).sw.down := by
  decide

/-- Port half 0 in link state `st` with the run `r`, and its PORT RUNNING. -/
def link0 (st : Nat) (r : LinkRun) (l : List (Fld × Nat) := []) : State :=
  let s := with_ ([(Reg.PORT.LINK_STATUS.STATE 0 0, st), (Reg.GLOBAL.FUNC_STATUS.STATE 0, 2)] ++ l)
  { s with link := { s.link with runs := [(0, r)] } }

/-- KEYING and UP, frames refused up to AUTH_LIMIT, codes that make sense and codes that do not (R85 to R88). -/
theorem test_hyps_link_frames : halfIs (link0 2 {}) 0 = true ∧ halfIs (link0 2 {}) 255 = false ∧ dieHeld (link0 2 {}) 0 = false ∧
    linkState (link0 2 {}) 0 = 2 ∧ (linkRun (link0 2 {}) 0).prk = none ∧ (linkRun (link0 2 { prk := some [] }) 0).prk.isSome = true ∧
    linkState (link0 3 {}) 0 = 3 ∧ (linkRun (link0 3 {}) 0).paused = false ∧
    (linkRun (link0 3 {}) 0).bad < rd (link0 3 {}) (Reg.PORT.LINK_CFG.AUTH_LIMIT 0) ∧
    rd (link0 3 {}) (Reg.PORT.LINK_CFG.AUTH_LIMIT 0) ≤ (linkRun (link0 3 { bad := 255 }) 0).bad ∧
    codesOk 0 8 0 true = true ∧ codesOk 3 8 0 false = false ∧ openFrame (link0 3 {}) 0 (aFrame 8) = none := by decide +kernel

/-- What the cipher opens, the receiver opens: with the key in use on an UP link, and with the public key in KEYING (R85, R399). The cipher is
opaque, so no single frame can be shown to open. -/
theorem test_hyps_frame_opens (t : List Byte) :
    (let s := link0 3 { prk := some [], seen := true }
     let f := aFrame 8
     let kn := frameKey (some []) (peerSender s 0) 0 (frameCtr (linkRun s 0) f.ctrLo.toNat)
     Config.gcmOpen kn.1 kn.2 (frameAad f.ctrLo.toNat f.keySeq.toNat f.codes.toNat f.credit.toNat) (frameText f) f.tagGcm.toNat = some t →
       openFrame s 0 f = some (t, some 0, frameCtr (linkRun s 0) f.ctrLo.toNat)) ∧
    (let s := link0 2 {}
     let f := { aFrame 8 with keySeq := 0xFF }
     let kn := frameKey none (peerSender s 0) 0 (frameCtr (linkRun s 0) f.ctrLo.toNat)
     Config.gcmOpen kn.1 kn.2 (frameAad f.ctrLo.toNat f.keySeq.toNat f.codes.toNat f.credit.toNat) (frameText f) f.tagGcm.toNat = some t →
       openFrame s 0 f = some (t, none, frameCtr (linkRun s 0) f.ctrLo.toNat)) := by
  have h3 : ¬ (linkState (link0 3 { prk := some [], seen := true }) 0 = 2 ∧ (aFrame 8).keySeq = 0xFF) := by decide +kernel
  have hp : (linkRun (link0 3 { prk := some [], seen := true }) 0).prk = some [] := by decide +kernel
  have hr : (linkRun (link0 3 { prk := some [], seen := true }) 0).rxR = 0 := by decide +kernel
  have h2 : linkState (link0 2 {}) 0 = 2 ∧ ({ aFrame 8 with keySeq := 0xFF } : Frame).keySeq = 0xFF := by decide +kernel
  constructor
  · intro s f kn h
    show openFrame (link0 3 { prk := some [], seen := true }) 0 (aFrame 8) = _
    unfold openFrame
    dsimp only
    rw [if_neg h3, hp, hr, if_neg (by decide), if_pos (by decide)]
    exact congrArg (Option.map _) h
  · intro s f kn h
    unfold openFrame
    dsimp only
    rw [if_pos h2]
    exact congrArg (Option.map _) h

/-- A keyed link within and beyond 200 ms, keys due and over at the first count and age that make them so, and a successor that is ready (R332, R343). -/
theorem test_hyps_link_keys : (let s := link0 2 { prk := some [], seen := true }; s.now < (linkRun s 0).since + ms 200 ∧ 0 ∉ s.sw.down) ∧
    (let s := { link0 2 {} with now := ms 200 }; (linkRun s 0).since + ms 200 ≤ s.now) ∧ procAway (wr (link0 3 {}) (Reg.SECURITY.PROC_STATUS.STATE 0) 1) 0 = false ∧
    keyDue (2 ^ 39) 0 = true ∧ keyDue (2 ^ 39 - 1) 0 = false ∧ keyDue 0 (secs (23 * 3600)) = true ∧ keyOver (2 ^ 40) 0 = true ∧ keyOver (2 ^ 40 - 1) 0 = false ∧ keyOver 0 (secs (24 * 3600)) = true ∧ keyOver 0 (secs (24 * 3600) - 1) = false ∧
    rdb (link0 3 {} [(Reg.PORT.KEY_STATUS.NEXT_READY 0 0, 1)]) (Reg.PORT.KEY_STATUS.NEXT_READY 0 0) = true := by decide +kernel

/-- Eight lanes of port 0 in TRAINING with the same marker, and one that names another port (R327, R332). -/
def trained (port : Nat) (l : List (Fld × Nat) := []) : State :=
  let s := link0 1 {} ((List.range 8).map (fun l => (Reg.PORT.LANE_STATUS.STATE 0 l, 1)) ++ l)
  { s with link := { s.link with lanes := (List.range 8).map (fun l => (l, { marker := some (l, if l = 7 then port else 3, 9) })) } }

/-- A DOWN link of a RUNNING port, in and out of a test mode, lanes in each state that a marker acts in, training that succeeds, is miswired and
runs out of time (R327 to R332). -/
theorem test_hyps_link_training : mayTrain (link0 0 {}) 0 = true ∧ testMode (link0 0 {}) 0 = false ∧ testMode (link0 0 {} [(Reg.PORT.PORT_CFG.PATTERN 0, 1)]) 0 = true ∧
    minWidth (link0 0 {}) 0 ≤ ((keptLanes (link0 0 {}) 0).filter (fun l => bitAt 255 l)).length ∧ rdb (link0 0 {}) (Reg.PORT.PORT_CFG.MEDIA 0) = false ∧
    (∀ st ∈ [1, 2, 3, 4, 5], laneState (with_ [(Reg.PORT.LANE_STATUS.STATE 0 0, st)]) 0 0 = st) ∧
    (let s := trained 3
     linkState s 0 = 1 ∧ s.now < (linkRun s 0).since + ms 100 ∧ miswired s 0 = false ∧
       activeSet s 0 (((marked s 0).map (fun e => e.1)).filter (fun l => bitAt 255 l && decide (rd s (Reg.PORT.LANE_STATUS.SKEW_NS 0 l) ≤ 180))) ≠ []) ∧
    miswired (trained 4) 0 = true ∧ (let s := { trained 3 with now := ms 100 }; (linkRun s 0).since + ms 100 ≤ s.now) ∧ linkState (link0 3 {}) 0 = 3 := by
  decide +kernel

/-- A lane that retrains and has run out of time, one with more retrains than the limit, and lanes that may and may not retire (R336, R338). -/
theorem test_hyps_lanes : (let s := { with_ [(Reg.PORT.LANE_STATUS.STATE 0 0, 4)] with now := ms 10 }; laneState s 0 0 = 4 ∧ (laneRun s 0).retrainAt = none) ∧
    (let s := { with_ [(Reg.PORT.LANE_STATUS.STATE 0 0, 4)] with now := ms 10, link := { State.reset.link with lanes := [(0, { retrainAt := some 0 })] } }
     (laneRun s 0).retrainAt = some 0 ∧ 0 + ms 10 ≤ s.now) ∧
    (let s := { State.reset with link := { State.reset.link with lanes := [(0, { retrains := List.replicate 40 0 })] } }
     rd s (Reg.PORT.THRESH.RETRAIN_LIMIT 0) < (retrainsIn s 0 0).length ∧ laneState s 0 0 ≠ 5) := by decide +kernel

/-- Width requests ahead of and past their kerf, with and without a request of one's own, an answer, and an agreed change before and at its kerf (R333). -/
theorem test_hyps_widths :
    (let lcb := BitVec.ofNat 256 (mkLcb 2 0 (256 * 5) 1 0); lcbIs lcb 2 = true ∧ (link0 3 {}).time.toNat < kerfStart (bits lcb.toNat 96 64) ∧ (linkRun (link0 3 {}) 0).req = none) ∧
    (let s := { link0 3 { req := some ⟨1, 255, 0, 3⟩ } with time := BitVec.ofNat 64 (kerfStart 1) }
     kerfStart 1 ≤ s.time.toNat ∧ (linkRun s 0).req.isSome = true ∧ serviceId s ≤ peerSender { s with link := { s.link with lanes := [(0, { marker := some (0, 0, 4095) })] } } 0) ∧
    (let lcb := BitVec.ofNat 256 (mkLcb 3 0 (256 * 1 + 65536) 0 0); lcbIs lcb 3 = true ∧ bits lcb.toNat 40 8 = 1 ∧ bits lcb.toNat 48 1 = 1) ∧
    (let s := { link0 3 { agreed := some (15, 0) } with time := BitVec.ofNat 64 (kerfStart 0) }
     (linkRun s 0).agreed = some (15, 0) ∧ kerfStart 0 ≤ s.time.toNat ∧ (linkRun s 0).paused = false) ∧
    (linkRun (link0 3 { agreed := some (15, 0), paused := true }) 0).paused = true := by decide +kernel

/-- Eye scans before, while and after they run, and each step of an optical module within and beyond 2 s (R340, R341). -/
theorem test_hyps_modules : rdb State.reset (Reg.PORT.EYE_CTL.START 126) = false ∧ rdb (with_ [(Reg.PORT.EYE_CTL.START 126, 1)]) (Reg.PORT.EYE_CTL.START 126) = true ∧
    rdb State.reset (Reg.PORT.LANE_STATUS.LOS 126 0) = false ∧
    (let s := link0 0 {} [(Reg.PORT.PORT_CFG.MEDIA 0, 1)]; mayTrain s 0 = true ∧ rdb s (Reg.PORT.PORT_CFG.MEDIA 0) = true ∧ testMode s 0 = false ∧ (linkRun s 0).cmis = 0) ∧
    (let s := link0 0 { cmis := 1 }; s.now < (linkRun s 0).cmisAt + secs 2 ∧ (linkRun s 0).cmis = 1) ∧ (linkRun (link0 0 { cmis := 2 }) 0).cmis = 2 ∧
    (let s := { link0 0 { cmis := 2 } with now := secs 2 }; (linkRun s 0).cmisAt + secs 2 ≤ s.now) ∧
    (let s := link0 3 {} [(Reg.PORT.PORT_CFG.MEDIA 0, 1)]; findKey s.link.polls 0 = none ∧ 1 ≤ linkState s 0) := by decide +kernel

/-- A read to end-point `d` of RLY 0, and a tile response to it. -/
def readTo (d : BitVec 12) : Packet := { h := aHdr .read { dest := d, src := 7, tc := 3, len := 64, addr := 0x1000 } }
def tileTo (d : BitVec 12) (k : Kind := .tileResp) : Packet := { h := aHdr k { dest := d, tc := 3, len := 0x3FF, addr := 0x1000 }, payload := aTile 0 0 2048 }
/-- Ports 3 and 40 RUNNING with their links UP, end-point 5 behind port 40, jig entry 0 for tiles from port 3 in slot 0, credit, and fabric time `t`. -/
def jigSwitch (t : Nat) (l : List (Fld × Nat) := []) : State :=
  let s := with_ ([(Reg.GLOBAL.FUNC_STATUS.STATE 3, 2), (Reg.GLOBAL.FUNC_STATUS.STATE 40, 2), (Reg.GLOBAL.FUNC_STATUS.STATE fJig, 2),
    (Reg.PORT.LINK_STATUS.STATE 3 0, 3), (Reg.PORT.LINK_STATUS.STATE 40 0, 3), (Reg.PORT.LINK_STATUS.WIDTH 3 0, 8), (Reg.SWITCH.ROUTE.VALID 5, 1), (Reg.SWITCH.ROUTE.BUNDLE 5, 1),
    (Reg.SWITCH.BUNDLE.MEMBERS 1 1, 2 ^ 16), (Reg.TICK.JIG_ACTIVE.VALID 0, 1), (Reg.TICK.JIG_ACTIVE.IN_PORTS 0 0, 8), (Reg.TICK.JIG_ACTIVE.SLOT_MASK 0, 1),
    (Reg.TICK.JIG_ACTIVE.OUTPUT 0, 40), (Reg.TICK.JIG_ACTIVE.KINDS 0, 7), (Reg.TICK.JIG_ACTIVE.TENANT_ANY 0, 1), (Reg.TICK.JIG_ACTIVE.TCS 0, 8),
    (Reg.TICK.JIG_ACTIVE.DEST 0, 5), (Reg.TICK.JIG_ACTIVE.DEST_MASK 0, 0xFFF)] ++ l)
  { s with time := BitVec.ofNat 64 t, sw := { s.sw with credit := [(8 * 80 + 3, 200)] } }

/-- Every route of R113, a jig entry that admits a tile at the last offset of its slot and none at the next, each answer of the extent check, an entry
that is open and shut, and a head whose tail has still to come (R24, R87, R100, R107, R109, R111). -/
theorem test_hyps_switch_routes : route State.reset 3 (readTo 5).h = .noRoute ∧ route State.reset 3 (readTo 4091).h = .notRunning ∧
    route State.reset 3 (aHdr .swarmCtl { dest := 4094 }) = .noUnit ∧ route State.reset 3 (readTo 4094).h = .unicast (outOf 228) ∧
    (∃ l, route State.reset 3 (aHdr .notice { dest := 0xFFF }) = .multicast l) ∧ (∃ k, route State.reset 3 (aHdr .gather { dest := 5 }) = .clusterDown k) ∧
    (let s := with_ ((List.range 48).map (fun n => (Reg.GLOBAL.FUNC_STATUS.STATE (fCluster n), 2))); ∃ l, route s 3 (aHdr .gather { dest := 5 }) = .cell l) ∧
    route (jigSwitch 0) 3 (tileTo 5).h = .unicast 80 ∧ (tileTo 5).h.k.bind permBit = none ∧ (tileTo 5 .writeTile).h.k.bind permBit = some 1 ∧
    jigMatch (jigSwitch 46) 3 (tileTo 5).h = (some 0, [0]) ∧ jigMatch (jigSwitch 47) 3 (tileTo 5).h = (none, [0]) ∧ (jigMatch (jigSwitch 0) 3 (readTo 5).h).2 = [] ∧
    (let s := { jigSwitch 0 [(Reg.GLOBAL.FUNC_STATUS.STATE fExt, 2)] with ext := { State.reset.ext with reg := [(0, { st := 1, perm := 2, ngran := 1 })] } }
     extCheck s (tileTo 5 .writeTile).h = .grant 0 ∧ jigMatch s 3 (tileTo 5 .writeTile).h = (some 0, [0])) ∧
    extCheck (jigSwitch 0) (tileTo 5 .writeTile).h = .deny ccDenied 1 ∧ entryShut (jigSwitch 0) 3 6 (tileTo 5) = false ∧ entryShut State.reset 3 6 (tileTo 5) = true ∧
    ingressFault (jigSwitch 0) { h := (tileTo 5).h } false = none ∧ 1 < expectedFlits (tileTo 5).h ∧ expectedFlits (readTo 5).h ≤ 1 ∧
    (rxOf State.reset 6).flits = [] := by
  refine ⟨?_, ?_, ?_, ?_, ⟨[352, 353], ?_⟩, ⟨191, ?_⟩, ⟨4049, ?_⟩, ?_⟩ <;> decide +kernel

/-! ### Requests, responses and contexts -/

/-- A small read of the home end-point under a LIVE entry, and the state that holds the entry, with device HBM poisoned at `bad`. -/
def homeState (bad : List Nat) : State :=
  { with_ [(Reg.GLOBAL.FUNC_STATUS.STATE fExt, 2)] with ext := { State.reset.ext with reg := [(0, { st := 1, perm := 15, ngran := 1 })] }, poison := bad }

/-- Requests under a LIVE entry, with and without poison, with SIG set, under none, and ATOMICs that R64 allows and refuses
(R62 to R64). -/
theorem test_hyps_home : aRead.h.hcrc = hcrcOf aRead.h ∧ xgenEntry (takeIn (homeState []) 226 aRead) aRead.h ≠ none ∧ xgenEntry State.reset aRead.h = none ∧
    aRead.h.k = some .read ∧ hbmPoisoned (homeState []) (homeAddr (homeState []) aRead.h.off) 64 = false ∧
    hbmPoisoned (homeState [(homeAddr State.reset aRead.h.off + 63) / 64]) (homeAddr State.reset aRead.h.off) 64 = true ∧
    (∀ k ∈ [Kind.read, .readBulk, .readTile, .write, .writeBulk, .writeTile, .atomic, .signal], (aHdr k).k = some k) ∧
    atomicBad (aHdr .atomic { addr := 8 }) = false ∧ atomicBad (aHdr .atomic { addr := 1 }) = true ∧ keptFor (homeState []) 226 (aHdr .atomic) = none ∧
    (let h := aHdr .atomic { src := BitVec.ofNat 12 (serviceId State.reset), attr := 64, addr := 8 }
     let s := { homeState [] with ep := { State.reset.ep with kept := [(keptKey 226 h, (aRead, 0))] } }
     h.hcrc = hcrcOf h ∧ h.k = some .atomic ∧ atomicBad h = false ∧ keptFor (takeIn s 226 { h := h }) 226 h = some aRead) ∧
    aRead.h.sig = false := by
  decide +kernel

/-- A tile that carries its CRC, whose CRC check holds, in a request that writes it (R74, R76). -/
theorem test_hyps_tiles :
    (let t := putBytes (aTile 0 0 2048) 0 (leBytes 4 (tileCrc (aTile 0 0 2048))); tileCrcOk t = true ∧ tileWriteCheck { h := aHdr .writeTile, payload := t } = ccOk) := by
  have h : tileCrcOk (putBytes (aTile 0 0 2048) 0 (leBytes 4 (tileCrc (aTile 0 0 2048)))) = true := tileCrcOk_fill _ (by decide +kernel)
  have k : ((aHdr .writeTile).k == some .writeBulk) = false := by decide +kernel
  exact ⟨h, by rw [tileWriteCheck, h, k]; rfl⟩

/-- A sequence record of source 7 that expects `n`, with `q` held. -/
def seqState (n : Nat) (q : List (Packet × Nat)) (now : Nat := 0) : State :=
  { State.reset with now := now, ep := { State.reset.ep with seqs := [(seqKey 0 7 3, { expect := n, held := q, last := 0 })] } }

/-- Requests that are stale, first of their sequence, expected, one and 16,383 ahead, and 16,384 ahead; a record that waits and one that is old (R256 to
R258). -/
theorem test_hyps_sequences : stale State.reset 0 aRead.h = false ∧ stale { State.reset with time := 0x700000 } 0 aRead.h = true ∧
    seqRec State.reset (seqKey 0 7 3) = none ∧ (seqRec (seqState 0 []) (seqKey 0 7 3)).isSome = true ∧ (0 + 65536 - 65535) % 65536 = 1 ∧
    (0 + 65536 - 49153) % 65536 < 16384 ∧ 16384 ≤ (0 + 65536 - 49152) % 65536 ∧ reorderUsed (seqState 0 [(aRead, 0)]) 0 + 64 + 0 ≤ 4 * 2 ^ 20 ∧
    (seqState 5 [(aRead, 0)]).ep.seqs.any (fun r => r.2.held.any (fun p => p.1.h.seq == aRead.h.seq)) = true ∧
    (let s := seqState 5 [(aRead, 0)] (us 100000); 0 + us (rd s (Reg.EP.EP_TIMING.SKIP_WAIT_US 0)) ≤ s.now) ∧
    (let s := seqState 5 [] (ms 2); (0 : Nat) + ms 2 ≤ s.now) := by decide +kernel

/-- A CTR_CTL packet of sub-operation `cop` from end-point 9, for counter 0 and request 1. -/
def aCtr (cop : Nat) : Packet := { h := aHdr .ctrCtl { src := 9, ext := BitVec.ofNat 256 (packBits [(0, 4, cop), (32, 16, 1)]) } }
/-- Counter 0 of end-point 0 in state `st` for source 9. -/
def ctr0 (st : Nat) : State := with_ [(Reg.EP.CTR_STATE.STATE 0 0, st), (Reg.EP.CTR_STATE.SRC 0 0, 9)]

/-- Counter credits: a grant within the reserve, each packet that ends a request, a counter to hold, and each timer at its end (R262, R263). -/
theorem test_hyps_counters : (∀ k ∈ [0, 1, 2, 3], isCtr (aCtr k) k = true) ∧ ctrGranted State.reset 0 9 1 = none ∧
    rd State.reset (Reg.EP.EP_CFG.GRANT_RESERVE 0) < (ctrFree State.reset 0).length - 1 ∧ ctrHeldBy State.reset 0 9 < 16 ∧
    (ctrFree State.reset 0).head? = some 0 ∧
    findKey ({ State.reset with ep := { State.reset.ep with asks := [(9, (1, 0))] } } : State).ep.asks 9 = some (1, 0) ∧
    ctrSt (ctr0 1) 0 0 = 1 ∧ rd (ctr0 1) (Reg.EP.CTR_STATE.SRC 0 0) = 9 ∧
    (let s := { ctr0 4 with now := ms 2 }; ctrSt s 0 0 = 4 ∧ (ctrX s 0 0).since + ms 2 ≤ s.now) ∧
    (let s := { ctr0 1 with now := ms 100 }; (ctrX s 0 0).since + ms 100 ≤ s.now) ∧
    (let s := { State.reset with now := us 100000, ep := { State.reset.ep with asks := [(9, (1, 0))] } }; 0 + us (rd s (Reg.EP.EP_TIMING.ATTEMPT_US 0)) ≤ s.now) ∧
    (let c : Credit := ⟨0, 9, 0, 0, none, 0⟩
     let s := { State.reset with now := ms 50, ep := { State.reset.ep with credits := [c] } }
     s.ep.credits.find? (fun c => c.ep == 0 && c.dest == 9 && c.ctr == 0 && c.busy.isNone && decide (c.used + ms 50 ≤ s.now)) = some c) := by decide +kernel

/-- A request of kind `k` in state `st` with TAG 3. -/
def aReq (k : Kind) (st : Nat) : Reqst :=
  { id := 8, ep := 0, ctx := 5, q := 0, parts := if k = .atomic then [(2, 0, 0, 0)] else [], h := aHdr k { tag := 3 }, payload := [], st := st, attempts := 1, first := 0,
    sentAt := 0, gen := 0, again := false, reread := false, torn := 0, homeAt := 0, out := none }
/-- The state with the request `r`, at time `now`. -/
def reqState (r : Reqst) (now : Nat := 0) : State := { State.reset with now := now, ep := { State.reset.ep with reqs := [r] } }
/-- The response of kind `k` with code `cc` to TAG 3. -/
def aResp (k : Kind) (cc : Nat) : Packet := { h := aHdr k { tag := 3, ext := BitVec.ofNat 256 (packBits [(32, 8, cc)]) } }

/-- Responses of each kind with OK and another code, one relayed, one stale and one that nothing waits for (R71, R257, R259). -/
theorem test_hyps_responses :
    (∀ e ∈ [(Kind.write, Kind.completion), (.read, .readResp), (.readBulk, .tileResp), (.readTile, .tileResp), (.atomic, .atomicResp)], ∀ cc ∈ [0, 3],
      accepted (reqState (aReq e.1 1)) 0 (aResp e.2 cc).h = some (aReq e.1 1) ∧ (aResp e.2 cc).h.k = some e.2 ∧ (respCode (aResp e.2 cc).h).1 = cc) ∧
    stale State.reset 0 (aResp .completion 0).h = false ∧ accepted State.reset 0 (aResp .completion 0).h = none ∧ (aResp .completion 0).h.rly ≠ 2 ∧
    (aHdr .completion { rly := 2 }).rly = 2 ∧
    stale { State.reset with time := 0x700000 } 0 (aResp .completion 0).h = true := by decide +kernel

/-- The four notices with a request that is named, an abort of a newer and of an older epoch (R72, R83, R272). -/
theorem test_hyps_notices : (∀ c ∈ [1, 2, 3, 4], isNotice { h := aHdr .notice { tag := 3, ext := BitVec.ofNat 256 c } } c = true) ∧
    oldEpoch State.reset (aHdr .notice) = false ∧
    (reqState (aReq .read 1)).ep.reqs.find? (fun r => r.ep == 0 && r.h.tag == 3#16 && r.st == 1 && r.h.cookie == 0) = some (aReq .read 1) ∧
    (aHdr .stepCtl { ext := 1 }).k = some .stepCtl ∧ (aHdr .stepCtl { ext := 1 }).x 8 4 = 0 ∧ epochNewer 1 0 = true ∧ epochNewer 129 0 = false ∧ epochNewer 0 0 = false := by
  decide +kernel

/-- Context 5 of end-point 0, in service, whose queue 0 holds one fetched descriptor of opcode `op`. -/
def ctxState (op : Nat) : State :=
  let s := with_ [(Reg.EP.CTX.ENABLE 5, 1), (Reg.EP.CTX.SQ_EN 5, 1), (Reg.EP.CTX.CQ_LOG2 5, 8), (Reg.GLOBAL.FUNC_STATUS.STATE 128, 2)]
  { s with ep := { s.ep with ctx := [(5, { tail := [1, 0, 0, 0], asked := [1, 0, 0, 0] })], fetched := [(descKey 5 0 0, (op, 0))] } }

/-- A descriptor of each opcode that may start, an unsupported one, one that is complete, a doorbell page, and a read that is torn (R246 to R250, R269). -/
theorem test_hyps_descriptors : (∀ op ∈ [1, 2, 3, 4, 5, 6, 7, 8, 9, 10], (startNext (ctxState op) 0 (· == op)).isSome = true) ∧
    (startNext (ctxState 0) 0 (fun o => decide (o = 0 ∨ 10 < o))).isSome = true ∧ (startNext (ctxState 11) 0 (fun o => decide (o = 0 ∨ 10 < o))).isSome = true ∧
    pageCtx (ctxState 1) 0 0 5 = some 5 ∧
    (let d : Desc := { id := 2, ep := 0, ctx := 5, q := 0, idx := 0, rc := 0, d := 10, issued := true, todo := [], data := none, live := 0, bad := none, result := 0, result2 := 0, moved := 0, chunks := [] }
     let s := { State.reset with ep := { State.reset.ep with descs := [d] } }
     s.ep.descs.find? (fun d => d.id == 2 && d.issued && d.live == 0 && d.q != 4 && !(s.host.atsWait.any (fun w => w.ring == 4097 + d.id))) = some d) ∧
    (let s := reqState (aReq .readTile 4) (us 1000)
     s.ep.reqs.find? (fun r => r.id == 8 && r.st == 4) = some (aReq .readTile 4) ∧ 0 + ns (rd s (Reg.EP.EP_TIMING.TORN_GAP_NS 0)) ≤ s.now) := by decide +kernel

/-- Timers of requests at their end (R254, R260, R271). -/
theorem test_hyps_request_timers : timedOut (reqState (aReq .read 1) (us 100000)) 8 = some (aReq .read 1) ∧
    (let s := reqState (aReq .write 3) (us 100000); s.ep.reqs.find? (fun r => r.id == 8 && r.st == 3) = some (aReq .write 3) ∧ writeRelease s (aReq .write 3) ≤ s.now) ∧
    barred State.reset 0 5 = false ∧ findKey ({ State.reset with ep := { State.reset.ep with downAt := [(0, 0)] } } : State).ep.downAt 0 = some 0 ∧
    findKey ({ State.reset with ep := { State.reset.ep with pairs := [(4096 * 7 + 5, (1, 0))] } } : State).ep.pairs (4096 * 7 + 5) = some (1, 0) := by decide +kernel

/-- A context that is enabled, one that may be and one that may not be, export entries in force and not, and a moderation time that has passed (R245, R287,
R306). -/
theorem test_hyps_contexts : ctxOn State.reset 5 = false ∧ enableRefused (with_ [(Reg.HOSTPORT.PORT_CFG.PF_VECTORS 0, 8)]) 5 = false ∧
    enableRefused (with_ [(Reg.EP.CTX.EQ_VECTOR 5, 2047)]) 5 = true ∧ ctxOn (ctxState 1) 5 = true ∧
    rdb State.reset (Reg.EXTENT.EXPORT.VALID 0 3) = false ∧ rdb (with_ [(Reg.EXTENT.EXPORT.VALID 0 3, 1)]) (Reg.EXTENT.EXPORT.VALID 0 3) = true ∧
    confOn State.reset (ctxKey State.reset 0) = false ∧
    (let s := { State.reset with now := us 100000, ep := { State.reset.ep with ctx := [(5, { modCount := 1 })] } }
     (ctxRun s 5).modCount ≠ 0 ∧ (ctxRun s 5).modFirst + modTime s 5 ≤ s.now) := by decide +kernel

/-- An access of local memory of each use, translations that R281 gives and does not give, and a segment invalidation that one and that all engines
have acknowledged, by a PF and by a VF (R280, R281). -/
theorem test_hyps_host_memory : (∀ w ∈ [HostFor.data 2, .segs 5, .desc 5 0 0],
      let o : HostOp := ⟨1, 0, 0, 0, 64, w, 2, false, 1⟩
      ({ State.reset with host := { State.reset.host with ops := [o] } } : State).host.ops.find? (fun o => o.tag == 1 && o.st == 2 && o.what.brings) = some o) ∧
    (∀ w ∈ [HostFor.target aRead.h, .seal aRead.h [], .atomicOp aRead.h, .casRead aRead.h 0, .casTry aRead.h 63 0, .arrive aRead],
      let o : HostOp := ⟨1, 0, 0, 0, 64, w, 2, false, 1⟩
      ({ State.reset with host := { State.reset.host with ops := [o] } } : State).host.ops.find? (fun o => o.tag == 1 && o.st == 2 && !o.what.brings) = some o) ∧
    (4096 = 2 ^ (12 + 0) ∧ 0x3000 % 4096 = 0) ∧ ¬ (0x3800 % 4096 = 0) ∧ oldEpoch (with_ [(Reg.EP.TENANT_EPOCH.EPOCH 0, 1)]) aRead.h = true ∧
    invalCtx State.reset .manager 5 = some 5 ∧ invalCtx State.reset (.host 0 1) 5 = none ∧
    rdb State.reset Reg.EXTENT.SEG_INVAL_STATUS.BUSY = false ∧ rdb (with_ [(Reg.EXTENT.SEG_INVAL_STATUS.BUSY, 1)]) Reg.EXTENT.SEG_INVAL_STATUS.BUSY = true ∧
    (let s := { with_ [(Reg.EXTENT.SEG_INVAL_STATUS.ENGINE_ACKS, 0xFF)] with ep := { State.reset.ep with inval := some (5, 1, 512) } }
     s.ep.inval = some (5, 1, 512) ∧ rd s Reg.EXTENT.SEG_INVAL_STATUS.ENGINE_ACKS = 0xFF) ∧ ({ State.reset.ep with inval := some (5, 1, 3) } : EpState).inval = some (5, 1, 3) ∧
    ([1] : List Nat) ≠ [] := by decide +kernel

/-- An open and a closed window, a load that is abandoned, functions in and out of reset, that exist and do not, and boot before and at stage 7 (R303, R312,
R419). -/
theorem test_hyps_windows :
    (let s := wrs (ctxState 1) [(Reg.HOSTPORT.WIN.VALID 0 2, 1), (Reg.HOSTPORT.WIN.CTX 0 2, 5)]; windowOpen s 0 0 (windowOf s 0 0 2) = true) ∧
    windowOpen State.reset 0 0 (windowOf State.reset 0 0 2) = false ∧
    (let l : WinLoad := ⟨0, 0, 1, 8, 0⟩
     let s := { State.reset with now := ms 100000, host := { State.reset.host with loads := [(2, l)] } }
     findKey s.host.loads 2 = some l ∧ l.at_ + ms (rd s (Reg.HOSTPORT.PORT_CFG.WIN_READ_MS l.port)) ≤ s.now) ∧
    inFlr State.reset 0 0 = false ∧ (3#8 : BitVec 8) ≠ 0 ∧ findKey ({ State.reset with host := { State.reset.host with flr := [(3, 0)] } } : State).host.flr 3 = some 0 ∧
    rd State.reset Reg.SECURITY.BOOT_STATUS.STAGE < 7 ∧ 7 ≤ rd (with_ [(Reg.SECURITY.BOOT_STATUS.STAGE, 7)]) Reg.SECURITY.BOOT_STATUS.STAGE ∧
    funcExists State.reset 0 0 = true ∧ funcExists State.reset 0 1 = false := by decide +kernel

/-- A port that may take the manager role and one that may not, and the automatic handover at its time (R310). -/
theorem test_hyps_handover :
    (let s := { with_ [(Reg.HOSTPORT.LINK_STATUS.LINK_UP 1, 1)] with host := { State.reset.host with memEn := [256], busEn := [256] } }; notReady s (1 - mgrPort s) = none) ∧
    notReady State.reset 1 = some 2 ∧
    (let s := { with_ [(Reg.HOSTPORT.MGR_CTL.AUTO_EN, 1)] with now := ms 100000, host := { State.reset.host with mgrDown := some 0 } }
     s.host.mgrDown = some 0 ∧ rdb s Reg.HOSTPORT.MGR_CTL.AUTO_EN = true ∧ 0 + ms (rd s Reg.HOSTPORT.MGR_CTL.AUTO_MS) ≤ s.now) := by decide +kernel

/-- A session of a function that is and is not confidential, with and without a context in service (R319). -/
theorem test_hyps_confidential :
    (let s := { State.reset with host := { State.reset.host with sessions := [(0, [])] } }
     findKey s.host.sessions 0 = some [] ∧ procAway s 0 = false ∧ confOn s 0 = false ∧ funcCtxs s 0 0 = []) ∧
    confOn (with_ [(Reg.HOSTPORT.FUNC_STATE.CONFIDENTIAL 0 0, 1)]) 0 = true ∧ funcBusy State.reset 0 0 = false ∧ funcCtxs (ctxState 1) 0 0 ≠ [] := by decide +kernel

/-- The registry idle and busy, a stage that WRITE enters and one that it refuses, entries that REVOKE frees and leaves, and a drain at its end (R284, R291). -/
theorem test_hyps_extents : rdb State.reset Reg.EXTENT.EXT_CMD_STATUS.BUSY = false ∧ running (homeState []) fExt = true ∧
    rdb (with_ [(Reg.EXTENT.EXT_CMD_STATUS.BUSY, 1)]) Reg.EXTENT.EXT_CMD_STATUS.BUSY = true ∧ extWriteResult State.reset 0 (extBits { st := 1, ep := 3, ngran := 1 }) = 0 ∧
    extWriteResult State.reset 0 0 ≠ 0 ∧ (extGet (homeState []) 0).st = 1 ∧ extInUse (homeState []) (extGet (homeState []) 0) = false ∧
    (extGet (homeState []) 0).inflight = 0 ∧ ({ st := 1, inflight := 1 } : ExtEntry).inflight ≠ 0 ∧
    drainDue { State.reset with time := 3200000, ext := { State.reset.ext with reg := [(0, { st := 2 })] } } 0 = true := by decide +kernel

/-- The state `s` with packet `p` in the arrival queue of crossbar port `x`. -/
def inQueue (x : Nat) (p : Packet) (s : State := State.reset) : State := { s with inbox := [(x, p)] }
/-- A request of kind `k` from end-point 7 in class 3, at fabric address `a` of end-point 0. -/
def aAsk (k : Kind) (a : BitVec 60 := 0x1000) (rly : BitVec 2 := 0) : Packet := { h := aHdr k { dest := 5, src := 7, tc := 3, len := 64, addr := a, rly := rly } }

/-- A packet that stands in its queue, one with a wrong HCRC, and one that does not; a target that can hold no further response; a home plane that is
this one and another (R51, R78, R229). -/
theorem test_hyps_arrivals : (226, aRead) ∈ (inQueue 226 aRead).inbox ∧ aRead.h.hcrc = hcrcOf aRead.h ∧ (226, aRead) ∉ State.reset.inbox ∧
    (let p : Packet := { h := { aRead.h with hcrc := aRead.h.hcrc + 1 } }; (226, p) ∈ (inQueue 226 p).inbox ∧ p.h.hcrc ≠ hcrcOf p.h) ∧ keptFull State.reset 226 = false ∧
    homePlane 0x1000 (planesOf (rd (with_ [(Reg.EP.EP_PLANES.PLANE_LIST 0, 1)]) (Reg.EP.EP_PLANES.PLANE_LIST 0))) = planeId State.reset ∧
    homePlane 0x1000 (planesOf (rd (with_ [(Reg.EP.EP_PLANES.PLANE_LIST 0, 2)]) (Reg.EP.EP_PLANES.PLANE_LIST 0))) ≠ planeId State.reset ∧
    (planesOf 2).contains 0 = false ∧ (planesOf 1).contains 0 = true := by decide +kernel


/-- A target that holds 16,384 responses less than 1 ms old (R229). -/
theorem test_hyps_kept_full :
    keptFull { State.reset with ep := { State.reset.ep with kept := List.replicate 16384 (keptKey 226 aRead.h, (aRead, 0)) } } 226 = true := by
  have h : keptKey 226 aRead.h / 2 ^ 44 = targetNo 226 := by decide +kernel
  unfold keptFull keptYoung
  rw [List.filter_replicate_of_pos (by simpa [ms, State.reset] using h), List.length_replicate]
  exact decide_eq_true (Nat.le_refl _)

/-- The home end-point's entry, exported by entry 3 of end-point 0 for context 5 at granule 2, with the port RUNNING. -/
def exported : State :=
  { wrs (homeState []) [(Reg.EXTENT.EXPORT.VALID 0 3, 1), (Reg.EXTENT.EXPORT.REG_INDEX 0 3, 0), (Reg.EXTENT.EXPORT.CTX 0 3, 5), (Reg.EXTENT.EXPORT.LBASE 0 3, 2),
      (Reg.GLOBAL.FUNC_STATUS.STATE 128, 2)] with time := 0 }
/-- A local memory access of use `w` that end-point 0 has issued. -/
def anOp (w : HostFor) : HostOp := ⟨1, 0, 0, 0x2000, 64, w, 2, false, 1⟩

/-- Requests at an end-point: exported and not, behind a store and behind a request that waits, in need of a translation, for the home plane and for another,
and of a function that may send AtomicOps (R255, R273, R286, R318). -/
theorem test_hyps_targets : exportFor exported 0 aRead.h = some (5, 12288) ∧ exportFor (homeState []) 0 aRead.h = none ∧ storePending exported 0 aRead.h = false ∧ behindOf exported 0 aRead.h = false ∧
    storePending { exported with host := { exported.host with ops := [anOp (.seal aRead.h [])] } } 0 aRead.h = true ∧
    behindOf { exported with ep := { exported.ep with behind := [(0, aRead)] } } 0 aRead.h = true ∧
    (let p : Packet := { h := aHdr .write { dest := 5, src := 7, tc := 3, len := 64, addr := 0x1000 } }
     needsXlate exported 0 p = none ∧ needsXlate { exported with host := { exported.host with atsOn := [0] } } 0 p = some (0, 12288)) ∧
    epUp exported 0 = true ∧ epUp State.reset 0 = false ∧ (planesOf (rd exported (Reg.EP.EP_PLANES.PLANE_LIST 0))).contains (planeId exported) = true ∧
    homePlane 0x1000 (planesOf (rd exported (Reg.EP.EP_PLANES.PLANE_LIST 0))) = planeId exported ∧ (aAsk .read 0x1000 1).h.rly = 1 ∧
    0 * 256 + ctxFunc exported 5 ∉ exported.host.atomicEn ∧ 0 * 256 + ctxFunc exported 5 ∈ ({ exported with host := { exported.host with atomicEn := [0] } } : State).host.atomicEn ∧
    (aHdr .atomic { ext := BitVec.ofNat 256 (packBits [(32, 4, 0)]) }).k = some .atomic ∧ (atomicOpOf 0).isSome = true ∧ (atomicOpOf 1).isSome = false := by decide +kernel

/-- A SIG write from source 9 with counter 0 and message `m`. -/
def aSig (m : Nat) : Packet := { h := aHdr .write { dest := 5, src := 9, tc := 3, len := 64, addr := 0x1000, attr := 0x20, ext := BitVec.ofNat 256 (packBits [(32, 10, 0), (48, 16, m)]) } }

/-- Counters that a counted packet may not use, whose message is over, under way and not yet begun, with no entry left, and a REQUEST that was refused (R262, R264). -/
theorem test_hyps_counted : ctrHit State.reset 0 (aSig 1).h = .refuse ∧ ctrHit (ctr0 3) 0 (aSig 0).h = .cur 0 ∧ ctrHit (ctr0 3) 0 (aSig 1).h = .start 0 ∧
    ctrHit (ctr0 4) 0 (aSig 0).h = .copy ∧ (aSig 0).h.tag.toNat ∉ (ctrX (ctr0 3) 0 0).tags ∧ (ctrX (ctr0 3) 0 0).waiting = [] ∧
    (let s := { State.reset with ep := { State.reset.ep with refused := [9 * 65536 + 1] } }; ctrGranted s 0 9 1 = none ∧
      refusedKey 0 (aHdr .ctrCtl { src := 9, ext := BitVec.ofNat 256 (packBits [(32, 16, 1)]) }) ∈ s.ep.refused) ∧
    (let s := with_ [(Reg.EP.EP_CFG.GRANT_RESERVE 0, 1023)]; ¬ rd s (Reg.EP.EP_CFG.GRANT_RESERVE 0) < (ctrFree s 0).length - 1) ∧ homeEpId State.reset < 4096 := by decide +kernel

/-- A TILE_RESP with OK that carries the tile `b`, and the request of kind `k` that it answers, read again `n` times already, or for its CRC. -/
def aTileResp (b : List Byte) : Packet := { h := aHdr .tileResp { tag := 3 }, payload := b }
def aTileReq (k : Kind) (n : Nat) (again : Bool) : Reqst := { aReq k 1 with torn := n, reread := again }
/-- A tile with generation `g` and its CRC. -/
def aSealed (g : Nat) : List Byte :=
  let t := putBytes (aTile 0 0 2048) 4 (leBytes 4 g)
  putBytes t 0 (leBytes 4 (tileCrc t))

/-- Tiles that are sealed and torn, at and below the repeats; a tile whose CRC fails, and relayed responses of this and of an older epoch (R75, R77, R80). -/
theorem test_hyps_tile_responses : (aTileResp (aTile 0 0 2048)).h.k = some .tileResp ∧ (respCode (aTileResp []).h).1 = 0 ∧
    (∀ r ∈ [aTileReq .readTile 0 false, aTileReq .readTile 0 true, aTileReq .readTile 15 false, aTileReq .readBulk 0 false],
      accepted (reqState r) 0 (aTileResp []).h = some r) ∧
    tileGen (putBytes (aTile 0 0 2048) 4 (leBytes 4 1)) % 2 = 1 ∧ tileGen (aTile 0 0 2048) % 2 = 0 ∧ 0 < rd State.reset (Reg.EP.EP_TIMING.TORN_RETRIES 0) ∧ rd State.reset (Reg.EP.EP_TIMING.TORN_RETRIES 0) ≤ 15 ∧
    (let h := aHdr .readResp { rly := 2, via := 7, tag := 3, epoch := 0 }
     h.rly = 2 ∧ oldEpoch State.reset h = false ∧ oldEpoch (with_ [(Reg.EP.TENANT_EPOCH.EPOCH 0, 1)]) h = true ∧
       findKey [(relayKey 0 7 3 0, (9, 0, 0))] (relayKey 0 h.via.toNat h.tag.toNat h.seq.toNat) = some (9, 0, 0)) ∧
    (let d : Desc := { id := 2, ep := 0, ctx := 5, q := 0, idx := 0, rc := 0, d := 5, issued := true, todo := [], data := none, live := 1, bad := none, result := 0, result2 := 0, moved := 0, chunks := [] }
     let s := { reqState (aReq .atomic 1) with ep := { (reqState (aReq .atomic 1)).ep with descs := [d] } }
     (aReq .atomic 1).parts.head? = some (2, 0, 0, 0) ∧ descOf s 2 = some d ∧ descOf State.reset 2 = none) := by decide +kernel

/-- The CRC of a sealed tile holds, and that of an unsealed one does not (R74). -/
theorem test_hyps_tile_crc : tileCrcOk (aSealed 1) = true := tileCrcOk_fill _ (by decide +kernel)

/-- A descriptor of opcode `op` with the bits `b` beside. -/
def aDesc (op b : Nat) : Desc :=
  { id := 2, ep := 0, ctx := 5, q := 0, idx := 0, rc := 0, d := op + b, issued := false, todo := [], data := none, live := 0, bad := none, result := 0, result2 := 0, moved := 0, chunks := [] }
/-- A segment entry of one granule at granule 0 with all permissions. -/
def aSegment : Nat := packBits [(0, 1, 1), (1, 4, 15), (128, 28, 1)]

/-- Descriptors that failed authentication, do not fit, read no data and read some; pieces that translate and do not, and one that the near cache holds (R246 to
R250, R267, R268). -/
theorem test_hyps_descriptor_forms : startNext State.reset 0 (· == 1) = none ∧ ({ aDesc 1 0 with bad := some (0, 3, 0) } : Desc).bad.isSome = true ∧ (aDesc 1 0).bad = none ∧
    (aDesc 11 0).op = 11 ∧ tcOk (aDesc 1 (packBits [(25, 3, 7)])) = false ∧ dataLen (aDesc 10 0) = 0 ∧ 0 < dataLen (aDesc 2 (packBits [(32, 32, 64)])) ∧
    lenRange (aDesc 2 (packBits [(32, 32, 64)])) = true ∧ confOn State.reset (ctxKey State.reset 5) = false ∧
    xlate State.reset 5 [aSegment] 0 1 false = .ok 0 0 ∧ xlate State.reset 5 [] 0 1 false = .no ccDenied 1 ∧ xlate State.reset 5 [aSegment] (2 ^ 21) 1 false = .no ccDenied 1 ∧
    xlate State.reset 5 [aSegment] (2 ^ 21 - 1) 1 false = .ok (2 ^ 21 - 1) 0 ∧
    nearRead { State.reset with ep := { State.reset.ep with near := [(0, 5, 0, List.replicate 64 0)] } } 0 5 0 64 = some (List.replicate 64 0) ∧ nearRead State.reset 0 5 0 64 = none ∧
    pageCtx (with_ [(Reg.EP.CTX.EP_SEL 5, 1)]) 0 0 5 = none ∧ (let d := { aDesc 1 0 with issued := true, live := 1 }; d.live ≠ 0) := by decide +kernel

/-- Timers of requests before their times, and bars and holds in force (R80, R254 to R258). -/
theorem test_hyps_timers_early : timedOut (reqState (aReq .read 1) 0) 8 = none ∧ (reqState (aReq .write 3) 0).now < writeRelease (reqState (aReq .write 3) 0) (aReq .write 3) ∧
    barred { State.reset with ep := { State.reset.ep with bars := [(5, ms 4)] } } 0 5 = true ∧ barred { State.reset with now := ms 4, ep := { State.reset.ep with bars := [(5, ms 4)] } } 0 5 = false ∧
    State.reset.now < 0 + ms 3 ∧ (∀ p ∈ [(aRead, ms 1)], State.reset.now < p.2 + us (rd State.reset (Reg.EP.EP_TIMING.SKIP_WAIT_US 0))) ∧ (0 : Nat) < 0 + ms 2 := by decide +kernel

/-- A moderation count of 0 and one whose time is to come, a vector that is pending and may be sent, and one that is masked (R306, R307). -/
theorem test_hyps_vectors : (ctxRun State.reset 5).modCount = 0 ∧ 0 < modTime (with_ [(Reg.HOSTPORT.EQ_MOD.MOD_US 5, 15)]) 5 ∧
    (let s := { State.reset with host := { State.reset.host with msixPend := [msixKey 0 0 3], msixOn := [0] } }
     msixKey 0 0 3 ∈ s.host.msixPend ∧ 0 ∉ s.host.fnMask ∧ 0 ∈ s.host.msixOn) ∧ 0 ∉ State.reset.host.msixOn ∧
    confOn (with_ [(Reg.HOSTPORT.FUNC_STATE.CONFIDENTIAL 0 0, 1)]) (ctxKey State.reset 0) = true := by decide +kernel

/-- Configuration requests before boot stage 7 and at it, functions with more windows than one and with one, widths and modes that a PCIe link can have and one
that it cannot, and fewer VFs than before (R298, R300, R304, R312, R419). -/
theorem test_hyps_functions : ((0#8 : BitVec 8).toNat = 0 ∨ (5 : Fin 16) = 0) ∧ ((3#8 : BitVec 8).toNat = 0 ∨ (0 : Fin 16) = 0) ∧ ¬ ((3#8 : BitVec 8).toNat = 0 ∨ (1 : Fin 16) = 0) ∧
    (16#5 : BitVec 5).toNat ∈ [1, 2, 4, 8, 16] ∧ (3#5 : BitVec 5).toNat ∉ [1, 2, 4, 8, 16] ∧ (4 : Fin 6).val < 5 ∧ ¬ (5 : Fin 6).val < 5 ∧
    (findKey ({ State.reset with host := { State.reset.host with numVfs := [(0, 4)] } } : State).host.numVfs 0).getD 0 = 4 ∧ (3#16 : BitVec 16).toNat < 4 ∧
    inFlr { State.reset with host := { State.reset.host with flr := [(0, 0)] } } 0 0 = true ∧
    rd (with_ [(Reg.SECURITY.BOOT_STATUS.STAGE, 6)]) Reg.SECURITY.BOOT_STATUS.STAGE < 7 := by decide +kernel

/-- The registry's states for each command: an entry in use by a SWARM, one that is not LIVE, and a drain that has not ended (R284, R291). -/
theorem test_hyps_registry : running State.reset fExt = false ∧ (extGet State.reset 0).st ≠ 1 ∧ drainDue { State.reset with ext := { State.reset.ext with reg := [(0, { st := 2 })] } } 0 = false ∧
    (let s := wrs (homeState []) [(Reg.GLOBAL.FUNC_STATUS.STATE (fSwarm 3), 2), (Reg.SWARM.SWARM_DEF.STATE_LEN_2M 3, 1)]
     extInUse s { st := 1, perm := 15, ngran := 1, ep := homeEpId s } = true ∧ extInUse s { st := 1, perm := 15, base := 1, ngran := 1, ep := homeEpId s } = false) := by decide +kernel

/-- A context in service that a confidential function holds; sessions whose end erases keys and leaves them (R319). -/
theorem test_hyps_session_end : findKey State.reset.host.sessions 0 = none ∧ confOn (with_ [(Reg.HOSTPORT.FUNC_STATE.CONFIDENTIAL 0 0, 1)]) 0 = true ∧
    funcBusy { ctxState 1 with ep := { (ctxState 1).ep with reqs := [aReq .read 1] } } 0 0 = true := by decide +kernel

/-- A table made from keys that differ holds each of them, and no other. -/
theorem findKey_map (f : Nat → Nat) (v : Nat) (l : List Nat) (k : Nat) :
    (k ∈ l → (∀ a b, f a = f b → a = b) → findKey (l.map (fun k => (f k, v))) (f k) = some v) ∧
    ((∀ a ∈ l, f a ≠ k) → findKey (l.map (fun k => (f k, v))) k = none) := by
  induction l with
  | nil => simp [findKey]
  | cons a l ih =>
    refine ⟨fun h hf => ?_, fun h => ?_⟩
    · simp only [List.map_cons, findKey]
      split
      · rfl
      · rcases List.mem_cons.1 h with rfl | h
        · contradiction
        · exact ih.1 h hf
    · simp only [List.map_cons, findKey]
      rw [if_neg (h a (by simp))]
      exact ih.2 (fun b hb => h b (by simp [hb]))

/-- The state in which the entries `l` of end-point 0's counter table are granted. -/
def ctrsFull (l : List Nat) : State := { State.reset with regs := l.map (fun k => ((Reg.EP.CTR_STATE.STATE 0 k).key, 1)) }

theorem ctrsFull_st (l : List Nat) (k : Nat) (hk : k ∈ l) : ctrSt (ctrsFull l) 0 k = 1 := by
  unfold ctrSt rd ctrsFull
  rw [(findKey_map (fun k => (Reg.EP.CTR_STATE.STATE 0 k).key) 1 l k).1 hk (fun a b h => by simpa [Reg.EP.CTR_STATE.STATE] using h)]
  rfl

theorem ctrsFull_src (l : List Nat) (k : Nat) : rd (ctrsFull l) (Reg.EP.CTR_STATE.SRC 0 k) = 0 := by
  unfold rd ctrsFull
  rw [(findKey_map (fun k => (Reg.EP.CTR_STATE.STATE 0 k).key) 1 l _).2 (fun a _ => by simp [Reg.EP.CTR_STATE.STATE, Reg.EP.CTR_STATE.SRC]; omega)]
  rfl

/-- Where every entry is in use and none is of the source, an uncredited packet finds none (R264). -/
theorem ctrUncredited_drop (s : State) (e src m : Nat) (hs : ∀ k, rd s (Reg.EP.CTR_STATE.SRC e k) ≠ src) (hf : ∀ k ∈ List.range 1024, ctrSt s e k ≠ 0) :
    ctrUncredited s e src m = .drop := by
  unfold ctrUncredited
  rw [List.find?_eq_none.2 (fun k _ => by simp [hs k]), List.find?_eq_none.2 (fun k hk => by simp [hf k hk])]

/-- No entry of the counter table is free: an uncredited packet of source 9 finds none (R264). -/
theorem test_hyps_no_counter (m : Nat) : ctrUncredited (ctrsFull (List.range 1024)) 0 9 m = .drop :=
  ctrUncredited_drop _ _ _ _ (fun k h => absurd ((ctrsFull_src _ k).symm.trans h) (by decide)) (fun k hk h => absurd ((ctrsFull_st _ k hk).symm.trans h) (by decide))

/-- An uncredited packet of source 9. -/
theorem test_hyps_uncredited : (let h := aHdr .write { src := 9, ext := BitVec.ofNat 256 (packBits [(32, 10, 1023)]) }; h.x 32 10 = 1023 ∧ h.src.toNat = 9) := by
  decide +kernel

/-! ### Time, cells, swarms, failures and firmware -/

/-- The state with fabric time `t` and time state `st`. -/
def timeState (st t : Nat) (l : List (Fld × Nat) := []) : State :=
  let s := with_ l
  { s with time := t, now := t, tick := { s.tick with st := st } }
/-- A time word of a reference that echoes A = 5, with its check code. -/
def aTimeWord (mark b c : Nat) : BitVec 256 :=
  let n := packBits [(0, 8, 1), (8, 8, mark), (32, 64, 5), (96, 64, b), (160, 64, c)]
  BitVec.ofNat 256 (n + crc32c (leBytes 28 n) * 2 ^ 224)

/-- A link that is UP under each source, a time word that is due and one that comes from a reference, holdover at its start and its end, a general timer
that fires, and snapshots idle and at work (R91 to R99, R412). -/
theorem test_hyps_time : (let s := timeState 2 40000 [(Reg.PORT.LINK_STATUS.STATE 3 0, 2), (Reg.TICK.TIME_CFG.TIME_SRC, 1), (Reg.TICK.TIME_REF_PORTS.VALID 0, 1), (Reg.TICK.TIME_REF_PORTS.PORT 0, 3)]
      halfIs s 6 = true ∧ linkState s 6 = 2 ∧ rd s Reg.TICK.TIME_CFG.TIME_SRC = 1 ∧ refsOf s 3 ≠ [] ∧ s.tick.lastValid + 4 * exchange > s.now ∧
      (timeState 2 400000 [(Reg.TICK.TIME_CFG.TIME_SRC, 1)]).tick.lastValid + 4 * exchange ≤ 400000) ∧
    lcbIs (aTimeWord 2 7 9) 1 = true ∧ bits (aTimeWord 2 7 9).toNat 8 8 = 2 ∧ (bits (aTimeWord 2 7 9).toNat 96 64, bits (aTimeWord 2 7 9).toNat 160 64) ≠ (0, 0) ∧
    rd (with_ [(Reg.TICK.TIME_CFG.TIME_SRC, 0)]) Reg.TICK.TIME_CFG.TIME_SRC = 0 ∧
    (let s := timeState 3 (us 100000); s.tick.st = 3 ∧ s.tick.holdAt + us (rd s Reg.TICK.TIME_CFG.HOLDOVER_US) ≤ s.now) ∧
    rd (with_ [(Reg.TICK.TIME_CFG.TIME_SRC, 2)]) Reg.TICK.TIME_CFG.TIME_SRC = 2 ∧
    (let s := timeState 2 (64 * 5) [(Reg.GLOBAL.CLAIM.HELD 0x23, 1), (Reg.GLOBAL.CLAIM.HOLDER 0x23, 200), (Reg.GLOBAL.FUNC_STATUS.STATE 200, 2),
        (Reg.TICK.GTIMER.ENABLE 3, 1), (Reg.TICK.GTIMER.SLOT 3, 5)]
     timerHolder s 3 = some 200 ∧ rdb s (Reg.TICK.GTIMER.ENABLE 3) = true ∧ running s 200 = true ∧ slotNo s = rd s (Reg.TICK.GTIMER.SLOT 3)) ∧
    timerHolder State.reset 3 = none ∧ (let s := { State.reset with tick := { State.reset.tick with gtNext := [(3, 5)] } }; ∀ t, findKey s.tick.gtNext 3 = some t → ¬ t ≤ tickNo s) ∧
    (let s := { State.reset with tick := { State.reset.tick with sent := [(6, 0)] } }; findKey s.tick.sent 6 = some 0 ∧ ¬ 0 + ticks 8 ≤ s.now ∧ 0 + ticks 8 ≤ ticks 8) ∧
    (State.reset.pw.tripped = false ∧ ({ State.reset with pw := { State.reset.pw with tripped := true } } : State).pw.tripped = true) ∧
    (102 * 10 ≤ 1024 ∧ ¬ 103 * 10 ≤ 1024 ∧ 409 * 10 ≤ 4096 ∧ ¬ 410 * 10 ≤ 4096) ∧
    rdb State.reset (snapFlds (.port 5)).1 = false ∧ rdb (with_ [((snapFlds (.port 5)).1, 1)]) (snapFlds (.port 5)).1 = true := by decide +kernel

/-- The jig state with commit status `st`, a copy of one entry with the given fields, and a target tick. -/
def jigState (st target t : Nat) (copy : List (Nat × Nat)) : State :=
  let s := with_ [(Reg.TICK.JIG_COMMIT_STATUS.STATUS, st)]
  { s with time := t, jig := { s.jig with copy := copy, target := target } }

/-- A commit idle and in each state, a table that is accepted and one that uses slot 62, and instants to come and past (R104, R105). -/
theorem test_hyps_jigs : jigBusy State.reset = false ∧ jigBusy (jigState 1 0 0 []) = true ∧ jigStatus (jigState 1 0 0 []) = 1 ∧
    jigCheck State.reset (jigTable [(128, 2 ^ 62), (192, 1)]) = some (1, 0, 0, 62) ∧ jigCheck State.reset (jigTable []) = none ∧
    (jigState 1 5 0 []).jig.target ≠ 0 ∧ (jigState 1 0 0 []).jig.target = 0 ∧ jigStatus (jigState 2 1 4000 []) = 2 ∧
    jigInstant (jigState 2 1 4000 []) ≤ (jigState 2 1 4000 []).time.toNat ∧ jigInstant (jigState 1 5 0 []) > 0 ∧ jigStatus (jigState 6 1 0 []) = 6 ∧
    procAway (jigState 1 0 0 []) 3 = false ∧ procAway (with_ [(Reg.SECURITY.PROC_STATUS.STATE 3, 2)]) 3 = true ∧
    (let s := jigState 2 1 3968 []; 4096 * (s.jig.target - 1) + 3968 ≤ s.time.toNat) ∧ (let s := jigState 2 1 3967 []; ¬ 4096 * (s.jig.target - 1) + 3968 ≤ s.time.toNat) := by decide +kernel

/-- The state after reset with the CLUSTER of device cell `l` RUNNING and the image `i` in it. -/
def clUp (l : Nat) (i : ImageInfo := {}) : State :=
  let s := with_ [(Reg.GLOBAL.FUNC_STATUS.STATE (fCluster (l / 128)), 2)]
  { s with cells := { s.cells with images := [(l / 128, i)] } }
/-- An image other than the stock one, with an entry of each kind of `ks`. -/
def anImage (ks : List Nat) : ImageInfo := { stock := false, entries := ks.map (fun k => (k, (4, 8, 2))) }
/-- The state in which the CLUSTER of the cell to which `p` goes is RUNNING with the image `i`, and `p` is in that cell's arrival queue. -/
def cellHas (p : Packet) (i : ImageInfo := {}) : State := { clUp (targetCell p.h) i with inbox := [(cellPort (targetCell p.h), p)] }
/-- Each case of `cellRule` for packet `p` and kind `kind`: not queued, not served, behind another packet, busy, stock, with an entry and without one. -/
def cellCases (p : Packet) (kind : Nat) : Bool :=
  let l := targetCell p.h
  let e := (cellPort l, p)
  let s := cellHas p
  let up := fun (s : State) => clServes s (l / 128) && queueHead s l == some e && mayStart s l kind
  queued (clUp l) l p == none && queued s l p == some e && p.h.hcrc == hcrcOf p.h && up s && (imageOf s (l / 128)).stock &&
  (let u := { State.reset with inbox := [e] }; queued u l p == some e && clServes u (l / 128) == false) &&
  (let u := { s with inbox := [(e.1, { p with stamp := 1 }), e] }; queued u l p == some e && queueHead u l != some e) &&
  (let u := { s with cells := { s.cells with initDue := [l] } }; queued u l p == some e && mayStart u l kind == false) &&
  (let u := cellHas p (anImage [kind]); up u && queued u l p == some e && (imageOf u (l / 128)).stock == false && imgEntry (imageOf u (l / 128)) kind == some (4, 8, 2)) &&
  (let u := cellHas p (anImage []); up u && queued u l p == some e && (imageOf u (l / 128)).stock == false && imgEntry (imageOf u (l / 128)) kind == none)

/-- A packet of kind `k` with sub-operation `sop`, swarm 3, member 1, OPSEQ 4 and tile index `i`. -/
def aSwarm (k : Kind) (sop i : Nat) : Packet :=
  { h := aHdr k { ext := BitVec.ofNat 256 (packBits [(0, 8, 3), (8, 8, 1), (16, 4, sop), (32, 32, 4), (64, 32, i), (96, 16, 9)]) } }
/-- A homed read, an ownership request of operation `op`, a gather, and a response whose COOKIE names device cell 258. -/
def aHomed : Packet := { h := aHdr .read { dest := 5, src := 7, tc := 3, len := 64, addr := 0x1000, attr := 12 } }
def anOwn (op : Nat) : Packet := { h := aHdr .own { addr := 0x1000, src := 7, ext := BitVec.ofNat 256 (packBits [(32, 4, op), (64, 64, 6)]) } }
def aGather : Packet := { h := aHdr .gather { src := 7, tag := 3 } }
def aReply (cookie : Nat) : Packet := { h := aHdr .completion { ext := BitVec.ofNat 256 (packBits [(0, 32, cookie)]) } }

/-- A packet of each kind of event with its cell, in each case of `cellRule` (R126, R133 to R138). -/
theorem test_hyps_cell_rule : cellCases aHomed 3 = true ∧ cellCases aGather 7 = true ∧ cellCases (anOwn 1) 8 = true ∧ cellCases (aReply (packBits [(16, 8, 2), (24, 8, 4)])) 4 ∧
    cellCases (aSwarm .swarmTile 0 7) 5 = true ∧ cellCases (aSwarm .swarmAck 0 7) 6 = true ∧ cellCases (aSwarm .swarmAck 0 0xFFFFFFF4) 6 = true := by
  decide +kernel

/-- The cell of each packet is the one at which its command acts; each operation of OWN; homed and not, at its target, and waiting for a repair; responses that
are delivered to the cell and the port that their COOKIE names, and not (R126, R134, R135, R294). -/
theorem test_hyps_cell_packets : targetCell aHomed.h = homeCell aHomed.h.addr.toNat ∧ targetCell aGather.h = gatherCell aGather.h.src.toNat aGather.h.tag.toNat ∧
    (∀ n ∈ [0, 1, 2, 3, 9], (anOwn n).h.k = some .own ∧ (anOwn n).h.x 32 4 = n ∧ targetCell (anOwn n).h = homeCell (anOwn n).h.addr.toNat) ∧
    aHomed.h.homed = true ∧ aHomed.h.k ≠ some .own ∧ aRead.h.homed = false ∧
    [224, 225, 226, 227].find? (fun y => (inQueue 225 (anOwn 1)).inbox.contains (y, anOwn 1)) = some 225 ∧
    [224, 225, 226, 227].find? (fun y => (cellHas (anOwn 1)).inbox.contains (y, anOwn 1)) = none ∧ repairWaits State.reset 3655 none = false ∧
    repairWaits (with_ [(Reg.SECURITY.PROC_STATUS.STATE 32, 2)]) 3655 (some 5) = true ∧ repairWaits State.reset 3655 (some 5) = false ∧
    (let c := respCookie (aReply (packBits [(16, 8, 2), (24, 8, 4)])).h; 128 + bits c 24 8 < 224 ∧ bits c 16 8 < 128 ∧ cellPort (cookieCell c) = 128 + bits c 24 8 ∧ cookieCell c = 258) ∧
    (let c := respCookie (aReply (packBits [(16, 8, 66), (24, 8, 4)])).h; 128 + bits c 24 8 < 224 ∧ cellPort (cookieCell c) ≠ 128 + bits c 24 8) ∧
    (let c := respCookie (aReply (packBits [(16, 8, 200), (24, 8, 4)])).h; 128 + bits c 24 8 < 224 ∧ ¬ bits c 16 8 < 128) ∧ ¬ 128 + bits (packBits [(24, 8, 96)]) 24 8 < 224 := by
  decide +kernel

/-- The packets of a swarm: their cells, their sub-operations and each range of TILE_INDEX at its ends, and operations aborted and not (R205 to R219, R442). -/
theorem test_hyps_swarm_packets : targetCell (aSwarm .swarmTile 0 7).h = swarmCell 3 4 7 ∧ targetCell (aSwarm .swarmAck 0 7).h = swarmCell 3 4 7 ∧
    targetCell (aSwarm .swarmAck 0 0xFFFFFFF4).h = controlCell 3 4 ∧ (aSwarm .swarmTile 0 7).h.k = some .swarmTile ∧ (aSwarm .swarmAck 0 7).h.k = some .swarmAck ∧
    (aSwarm .swarmAck 0 7).h.x 16 4 ≠ 1 ∧ (aSwarm .swarmAck 1 7).h.x 16 4 = 1 ∧ (aSwarm .swarmAck 2 7).h.x 16 4 ≠ 1 ∧
    (∀ i ∈ [0xFFFFFFEF, 0xFFFFFFF0, 0xFFFFFFF1, 0xFFFFFFF5, 0xFFFFFFF6, 0xFFFFFFFE, 0xFFFFFFFF], (aSwarm .swarmAck 0 i).h.x 64 32 = i) ∧
    swArrives (aSwarm .swarmCtl 2 0) .swarmCtl 2 = true ∧ swArrives (aSwarm .swarmResult 0 0) .swarmResult 0 = true ∧ swArrives (aSwarm .swarmCtl 3 0) .swarmCtl 3 = true ∧
    swArrives (aSwarm .swarmCtl 3 0) .swarmCtl 2 = false ∧ abortedOp State.reset 0 3 4 = false ∧
    abortedOp { State.reset with ep := { State.reset.ep with aborts := [(3, [4])] } } 0 3 4 = true ∧
    abortedOp { State.reset with ep := { State.reset.ep with aborts := [(3, [4])] } } 0 3 5 = true ∧
    abortedOp { State.reset with ep := { State.reset.ep with aborts := [(3, [4])] } } 0 3 6 = false := by decide +kernel

/-- Ticks, timers and INIT that are due at a served cell, under the stock image and another, and not; copies on their way, in the queue, first and behind;
a dovetail whose attempt is over, and a ledger entry at its end and before (R134, R142, R222, R233, R372). -/
theorem test_hyps_cell_events :
    (let s := fun i => { clUp 0 i with cells := { (clUp 0 i).cells with initDue := [0] } }
     0 ∈ (s {}).cells.initDue ∧ cellRun (s {}) 0 = none ∧ (imageOf (s {}) 0).stock = true ∧ imgEntry (imageOf (s (anImage [0])) 0) 0 = some (4, 8, 2) ∧
       imgEntry (imageOf (s (anImage [])) 0) 0 = none ∧ (imageOf (s (anImage [])) 0).stock = false ∧ 0 ∉ (clUp 0).cells.initDue) ∧
    (let s := fun i => { clUp 0 i with time := 8192, tick := { (clUp 0 i).tick with tasks := [(tickTask 0, (8192, 0, 0))] } }
     clServes (s {}) 0 = true ∧ tickWaits (s {}) 0 = true ∧ mayStart (s {}) 0 1 = true ∧ (imageOf (s {}) 0).stock = true ∧
       tickWaits (s (anImage [1])) 0 = true ∧ mayStart (s (anImage [1])) 0 1 = true ∧ imgEntry (imageOf (s (anImage [1])) 0) 1 = some (4, 8, 2) ∧
       tickWaits (s (anImage [])) 0 = false ∧ tickWaits (clUp 0) 0 = false) ∧
    (let s := fun i => { clUp 0 i with time := 8192, cells := { (clUp 0 i).cells with timers := [(3, [8192, 12288])] } }
     timerNext (s {}) 0 3 = some 8192 ∧ timerNext (clUp 0) 0 3 = none ∧ imgEntry (imageOf (s (anImage [2])) 0) 2 = some (4, 8, 2) ∧ mayStart (s (anImage [2])) 0 2 = true ∧
       mayStart { s (anImage [2]) with cells := { (s (anImage [2])).cells with initDue := [0] } } 0 2 = false) ∧
    (let c := fun b => ({ h := aRead.h, stamp := 0, inp := 3, out := 4, filter := 0, ahead := 0, behind := b } : HdrCopy)
     let l := HdrCopy.cell (c none)
     let s := fun b u => { (u : State) with tel := { u.tel with copies := [c b] } }
     (s none State.reset).tel.copies[0]? = some (c none) ∧ (s none State.reset).tel.copies[1]? = none ∧ (c none).behind = none ∧ (c (some 0)).behind.isSome = true ∧
       clServes (s (some 0) State.reset) (l / 128) = false ∧ running (s none State.reset) (fCluster (l / 128)) = false ∧
       running (s none (clUp l)) (fCluster (l / 128)) = true ∧ readySmall (s none (clUp l)) l = true ∧
       readySmall { s none (clUp l) with cells := { (clUp l).cells with initDue := [l] } } l = false ∧ mayStart (s (some 0) (clUp l)) l 10 = true) ∧
    (let d : Dove := { cls := 0, h := aRead.h, batch := [aRead.h], tag := 6, sentAt := 0 }
     let s := { clUp 0 with now := us 100000, cells := { (clUp 0).cells with comb := [(0, { doves := [d] })] } }
     (comb s 0).doves.find? (fun d => d.tag == 6) = some d ∧ stockActs s 0 = true ∧ (doveOut s 0 1 6).isSome = true ∧
       d.sentAt + us (rd s Reg.COMBINE.COMB_CFG.ONWARD_ATTEMPT_US) ≤ s.now ∧ ¬ d.sentAt + us (rd s Reg.COMBINE.COMB_CFG.ONWARD_ATTEMPT_US) ≤ (clUp 0).now) ∧
    (let e : Ledger := { src := 7, tag := 3, tenant := 0, epoch := 0 }
     let s := { State.reset with time := 4000000000, cells := { State.reset.cells with ledger := [(5, e)] } }
     findKey s.cells.ledger 5 = some e ∧ ledOver s e = true ∧ ledOver State.reset e = false) := by decide +kernel

/-- An ATOMIC with the RETRY attribute or without it. -/
def anAtomic (retry : Bool) (a : BitVec 60 := 0x1000) : Hdr := aHdr .atomic { src := 7, tag := 3, addr := a, attr := if retry then 0x40 else 0 }

/-- Homed requests that are refused, absorbed, new, and retried with no ledger entry, an UNAPPLIED one and one with its result; with a place, parked, and with no
room to park (R226, R230, R233). -/
theorem test_hyps_homed : atomicBad (anAtomic false 0x1001) = true ∧ atomicBad (anAtomic false) = false ∧ (anAtomic false).k = some .atomic ∧ (anAtomic true).retry = true ∧
    (anAtomic false).retry = false ∧ absorbed State.reset 0 (anAtomic false) = false ∧
    (let s := fun n => { State.reset with cells := { State.reset.cells with comb := [(0, { parked := List.replicate n ({ h := anAtomic false } : Packet) })] } }
     absorbed (s 1) 0 (anAtomic false) = true ∧ 256 ≤ (comb (s 256) 0).parked.length ∧ (comb (s 255) 0).parked.length < 256) ∧
    (let k := (ledWays 0 7 3).headD 0
     let s := fun cc => { State.reset with cells := { State.reset.cells with ledger := [(k, { src := 7, tag := 3, tenant := 0, epoch := 0, ccode := cc })] } }
     ledFind State.reset 0 (anAtomic true) false = none ∧ ledFind (s 0xFF) 0 (anAtomic true) false = some (k, { src := 7, tag := 3, tenant := 0, epoch := 0, ccode := 0xFF }) ∧
       ledFind (s 0) 0 (anAtomic true) false = some (k, { src := 7, tag := 3, tenant := 0, epoch := 0 })) ∧
    (place State.reset 0 { h := anAtomic false }).isSome = true := by decide +kernel

/-- A record of cell 0 that `owner` of `tenant` holds at version 6. -/
def owned0 (owner tenant : Nat) : State :=
  { State.reset with cells := { State.reset.cells with owned := [((ownWays 0 0x1000).headD 0, { base := 0x1000, tenant := tenant, owner := owner, version := 6, changed := 0 })] } }

/-- Ownership records that are absent, of another tenant, free, held by the requester and by another; a bucket with room and a full one (R295). -/
theorem test_hyps_owned : ownFind State.reset 0 0x1000 = none ∧ (∀ o ∈ [(0xFFF, 0), (7, 0), (8, 0), (7, 5)], (ownFind (owned0 o.1 o.2) 0 0x1000).map (fun r => (r.2.owner, r.2.tenant)) = some o) ∧
    (anOwn 3).h.x 64 64 = 6 ∧ ((anOwn 3).h.src.toNat, (anOwn 3).h.tenant.toNat) = (7, 0) ∧
    (ownWays 0 0x1000).find? (fun k => (findKey State.reset.cells.owned k).isNone) = some ((ownWays 0 0x1000).headD 0) ∧
    (let s := { State.reset with cells := { State.reset.cells with owned := (ownWays 0 0x1000).map (fun k => (k, { base := 0, tenant := 0, owner := 7, version := 0, changed := 0 })) } }
     ∀ k ∈ ownWays 0 0x1000, findKey s.cells.owned k ≠ none) := by decide +kernel

/-- An open operation and one that aborts under a record, its re-sends due and at their limit (R202, R212, R213). -/
theorem test_hyps_swarm_ops :
    (let o : SwOp := { opseq := 4, epoch := 0, tenant := 0 }
     let s := { State.reset with cells := { State.reset.cells with swarms := [(3, { ops := [o] })] } }
     (swOpen s 3).find? (fun o => (swOpen s 3).all (fun x => !opNewer x.opseq o.opseq)) = some o ∧ swOpen State.reset 3 = [] ∧ swOp s 3 4 = some o ∧ o.isOpen = true ∧ swOp s 3 5 = none) ∧
    (let r : AbortRec := { opseq := 4, cause := 1, member := 0, epoch := 0, time := 0, newest := 5 }
     let o : SwOp := { opseq := 4, epoch := 0, tenant := 0, rec_ := some r, owed := [1], resends := 2 }
     let p : SwOp := { opseq := 4, epoch := 0, tenant := 0, rec_ := some r, owed := [1], resends := 8 }
     let s := { State.reset with now := ticks 72, cells := { State.reset.cells with swarms := [(3, { ops := [o], stored := some r })] } }
     swOp s 3 4 = some o ∧ o.rec_ = some r ∧ o.resends < 8 ∧ o.since + ticks (8 * (o.resends + 1)) ≤ s.now ∧ ¬ o.since + ticks (8 * (o.resends + 1)) ≤ State.reset.now ∧
       p.isOpen = false ∧ p.resends = 8 ∧ p.since + ticks 72 ≤ s.now ∧ (swRun s 3).stored = some r ∧ r.ended 4 = true ∧ r.ended 5 = true ∧ r.ended 6 = false) ∧
    (let s := { State.reset with time := 4096, tick := { State.reset.tick with tasks := [(2, (4096, 0, 0)), (3, (4096, 0, 0))] } }
     taskDue s 3 4096 = true ∧ taskDue s 2 4096 = true) ∧ taskDue { State.reset with time := 4095 } 3 4096 = false ∧ procAway State.reset 3 = false ∧
    procAway (with_ [(Reg.SECURITY.PROC_STATUS.STATE 3, 2)]) 3 = true ∧ running State.reset (fSwarm 3) = false := by decide +kernel

/-- Tile 0 of swarm 3 with two members at its home cell, with slot record `x`. -/
def slotState (x : Slot) (t : Nat) : State :=
  let l := swarmCell 3 x.opseq x.tile
  let s := with_ [(Reg.GLOBAL.FUNC_STATUS.STATE (fCluster (l / 128)), 2), (Reg.GLOBAL.FUNC_STATUS.STATE (fSwarm 3), 2), (Reg.SWARM.SWARM_DEF.MEMBER_COUNT 3, 2),
    (Reg.SWARM.SWARM_MEMBER.VALID 3 0, 1), (Reg.SWARM.SWARM_MEMBER.VALID 3 1, 1)]
  { s with time := BitVec.ofNat 64 t, cells := { s.cells with slots := [(slotKey 3 0 0, x)] } }

/-- A tile slot with a late member and with none, and one whose result is owed again; slots of this operation and of an older and a newer one, formed, counted,
acknowledged and ended (R208, R209, R219). -/
theorem test_hyps_slots :
    (let x : Slot := { opseq := 4, tile := 0, epoch := 0, counted := [(0, 5)], first := 0 }
     let s := slotState x (us 1000000)
     slotCell s 3 0 0 = some (swarmCell 3 4 0, x) ∧ (lateMembers s 3 x).2 = [1] ∧ x.ended = false ∧ (lateMembers s 3 x).1 ≤ watermark s (tickStart s) ∧
       ¬ (lateMembers s 3 x).1 ≤ watermark (slotState x 0) (tickStart (slotState x 0))) ∧ slotCell State.reset 3 0 0 = none ∧
    (let x : Slot := { opseq := 4, tile := 0, epoch := 0, counted := [(0, 5), (1, 6)], first := 0, formed := true, acks := [(0, 5), (1, 5)] }
     (lateMembers (slotState x 0) 3 x).2 = []) ∧
    (let x : Slot := { opseq := 4, tile := 0, epoch := 0, counted := [(0, 5), (1, 6)], first := 0, formed := true, acks := [(0, 5)] }
     x.resultAt + ticks (16 * (x.resends + 1)) ≤ (slotState x (ticks 16)).time.toNat ∧ slotOf (slotState x 0) 3 0 0 = some x ∧ (∀ a ∈ x.acks, a.1 ≠ 1) ∧ (∃ a ∈ x.acks, a.1 = 0)) ∧
    opNewer 4 3 = true ∧ opNewer 4 5 = false ∧ slotOf State.reset 3 0 0 = none ∧ hbmPoisoned State.reset 4096 tileLen = false ∧
    hbmPoisoned { State.reset with poison := [64] } 4096 tileLen = true ∧ swSilent State.reset 3 4 = false ∧
    swSilent { State.reset with cells := { State.reset.cells with swarms := [(3, { silent := [4] })] } } 3 4 = true ∧ contribOk State.reset (aSwarm .swarmTile 0 7) = false ∧
    swIndexOk State.reset (aSwarm .swarmAck 0 7).h = false := by decide +kernel

/-- A contribution that still asks for credit, at its time and before (R219). -/
theorem test_hyps_contribs :
    (let x : Contrib := ⟨0, 5, 3, 0, 4, 2, 0, 0, [], 0, 0, 1, 0, 0, []⟩
     let s := fun n => { State.reset with now := ticks n, ep := { State.reset.ep with contribs := [x] } }
     let due := fun (s : State) => s.ep.contribs.find? (fun x => x.did == 2 && x.st == 1 && x.limit == 0 && decide (x.asked + ticks 8 ≤ s.now))
     due (s 8) = some x ∧ due (s 7) = none) ∧ Writer.privileged (.host 0 0) = false := by decide +kernel

/-- Swarm 3 RUNNING with one member, end-point 9 as member 1, its first OPSEQ 4, and a contribution of member 1 that is good. -/
def swarm3 : State :=
  with_ [(Reg.GLOBAL.FUNC_STATUS.STATE (fSwarm 3), 2), (Reg.SWARM.SWARM_DEF.MEMBER_COUNT 3, 2), (Reg.SWARM.SWARM_MEMBER.VALID 3 1, 1), (Reg.SWARM.SWARM_MEMBER.EP_ID 3 1, 9),
    (Reg.SWARM.SWARM_STATUS.NEXT_OPSEQ 3, 4)]

/-- Control packets that pass their checks and fail them, and the next operation (R202, R442). -/
theorem test_hyps_swarm_control :
    (let h := aHdr .swarmAck { src := 9, ext := BitVec.ofNat 256 (packBits [(0, 8, 3), (8, 8, 1), (32, 32, 4), (64, 32, 0xFFFFFFF0)]) }
     running swarm3 (fSwarm 3) = true ∧ controlOk swarm3 h false = true ∧ controlOk State.reset h false = false ∧ swNext swarm3 3 = 4 ∧ swOp swarm3 3 4 = none) ∧
    (let h := aHdr .swarmAck { src := BitVec.ofNat 12 (serviceId swarm3), ext := BitVec.ofNat 256 (packBits [(0, 8, 3), (8, 8, 1), (32, 32, 4), (64, 32, 0xFFFFFFF1)]) }
     controlOk swarm3 h true = true ∧ controlOk swarm3 h false = false) := by decide +kernel

/-- Cells and pseudo-channels in each of their states, below, at and above their limits (R148 to R152, R351 to R354). -/
theorem test_hyps_faults :
    (∀ b ∈ [true, false],
      let m : CellMove := ⟨5, 130, b, 0⟩
      let s := { with_ [(Reg.CLUSTER.PHYS_CELL.STATE 0 130, 2), (Reg.CLUSTER.PHYS_CELL.LAST_FAULT 0 5, 8)] with cells := { State.reset.cells with moves := [(5, m)] } }
      findKey s.cells.moves 5 = some m ∧ procAway s 4 = false ∧ cellRun s 5 = none ∧ physState s 0 m.spare = 2 ∧ rd s (Reg.CLUSTER.PHYS_CELL.LAST_FAULT 0 m.from_) = 8) ∧
    findKey State.reset.cells.moves 5 = none ∧ physState State.reset 0 130 ≠ 2 ∧ procAway (with_ [(Reg.SECURITY.PROC_STATUS.STATE 4, 2)]) 4 = true ∧
    (let s := { clUp 0 with inbox := [(cellPort 0, aReply (packBits [(16, 8, 0), (24, 8, 0)]))] }
     cellRun s 0 = none ∧ clServes s 0 = true ∧ (imageOf s 0).stock = true ∧ cellFree s 0 = true ∧ 0 < cellHeld s 0 ∧ cellHeld (clUp 0) 0 = 0) ∧
    (∀ c ∈ [2, 4], 2 ≤ c ∧ c ≤ (4 : Nat)) ∧ (∀ c ∈ [1, 5, 6, 8, 15], c < 2 ∨ 4 < c ∧ c ≠ (7 : Nat)) ∧
    (let s := { State.reset with now := secs 600, cells := { State.reset.cells with tested := [(7, 0)], moves := [(5, ⟨5, 7, false, 0⟩)] } }
     findKey s.cells.tested (132 * 0 + 7) = some 0 ∧ 0 + secs 600 ≤ s.now ∧ ¬ 0 + secs 600 ≤ State.reset.now ∧
       (∃ m ∈ s.cells.moves, m.1 / 128 = 0 ∧ m.2.spare = 7 ∧ m.2.sudden = false)) ∧
    (let s := { State.reset with cells := { State.reset.cells with reinst := [7] } }; s.cells.reinst.contains (132 * 0 + 7) = true) ∧
(let r : CellRun := { cycles := 2 ^ 32 }; cellRun (onCell r) 0 = some r ∧ 2 ^ rd (onCell r) (Reg.CLUSTER.CE_CFG.WDOG_LOG2 0) ≤ runCycles (onCell r) r) ∧
    runCycles (onCell aRun) aRun < 2 ^ rd (onCell aRun) (Reg.CLUSTER.CE_CFG.WDOG_LOG2 0) ∧
    (let s := with_ [(Reg.GLOBAL.FUNC_STATUS.STATE 130, 2), (Reg.CLUSTER.PHYS_CELL.STATE 0 7, 3), (Reg.CLUSTER.PHYS_CELL.STATE 0 131, 2), (Reg.CLUSTER.CELL_MAP.PHYS 0 7, 7),
        (Reg.CLUSTER.CE_CFG.CE_LIMIT 0, 0)]
     physState s 0 7 = 3 ∧ clServes s 0 = true ∧ rd s (Reg.CLUSTER.CE_CFG.CE_LIMIT 0) ≤ (ceTimes s 0 7).length ∧ logicalOf s 0 7 = some 7 ∧ spareOf s 0 = some 131) ∧
    spareOf State.reset 0 = none ∧ physState (with_ [(Reg.CLUSTER.PHYS_CELL.STATE 0 7, 5)]) 0 7 = 5 ∧ physState (with_ [(Reg.CLUSTER.PHYS_CELL.STATE 0 7, 1)]) 0 7 = 1 := by decide +kernel

/-- Pseudo-channels in each of their states, and addresses in HBM and past it (R351 to R354). -/
theorem test_hyps_pseudo_channels :
    64 * (0#35 : BitVec 35).toNat < hbmSize ∧ hbmSize ≤ 64 * (hbmSize / 64) ∧ hbmSize / 64 < 2 ^ 35 ∧ granulePc 3 ≠ 5 ∧
    ((pcRun State.reset 0).since + us 50 ≤ us 50 ∧ State.reset.now < (pcRun State.reset 0).since + us 50) ∧
    granulePc 3 = 0 ∧ pcState State.reset 0 = 0 ∧ (∀ n ∈ [1, 2, 3], pcState (with_ [(Reg.HBM.PC_STATUS.STATE 0 0, n)]) 0 = n) ∧
    (let s := with_ [(Reg.HBM.HBM_CFG.UE_LIMIT 0, 1), (Reg.HBM.HBM_CFG.CE_LIMIT 0, 1)]; (pcRun s 0).ue.length < rd s (Reg.HBM.HBM_CFG.UE_LIMIT 0)) ∧
    (let s := { with_ [(Reg.HBM.HBM_CFG.UE_LIMIT 0, 1), (Reg.HBM.HBM_CFG.CE_LIMIT 0, 1)] with mem := { State.reset.mem with pcs := [(0, { ue := [0], ce := [0] })] } }
     rd (pcCounts s 0) (Reg.HBM.HBM_CFG.UE_LIMIT 0) ≤ (pcRun (pcCounts s 0) 0).ue.length) ∧
    (pcRun { State.reset with mem := { State.reset.mem with pcs := [(0, { test := true })] } } 0).test = true := by decide +kernel

/-- A full and an empty queue of step aborts, one that is due again, a die link that retrains for the first and for the last time, the error ring on and
off, and a telemetry map, a mirror entry and a sample that are due (R355, R362, R365, R366, R374, R375). -/
theorem test_hyps_errors :
    64 ≤ ({ State.reset with err := { State.reset.err with steps := List.replicate 64 (0, 0, 3, 0) } } : State).err.steps.length ∧
    (let s := { State.reset with time := 16 * 4096, err := { State.reset.err with steps := [(5, 1, 1, 0)] } }; s.err.steps.find? (stepDue s) = some (5, 1, 1, 0)) ∧
    dieHeld State.reset 2 = false ∧
    (∀ n ∈ [1, 3], let s := { State.reset with now := ms 1, sw := { State.reset.sw with d2d := [(2, (n, 0))] } }
      dieHeld s 2 = true ∧ findKey s.sw.d2d 2 = some (n, 0) ∧ 0 + ms 1 ≤ s.now ∧ State.reset.now < 0 + ms 1) ∧
    Writer.privileged (.host 0 0) = false ∧ (∀ e ∈ [(5, 1, 1, 0)], tickNo State.reset < e.2.2.2 + 16 * e.2.2.1) ∧
    rdb State.reset Reg.GLOBAL.ERR_RING_CFG.ENABLE = false ∧
    (let s := with_ [(Reg.GLOBAL.ERR_RING_CFG.ENABLE, 1), (Reg.GLOBAL.ERR_RING_TAIL.TAIL, 3)]; rdb s Reg.GLOBAL.ERR_RING_CFG.ENABLE = true ∧ ringUsed s = 3) ∧
    (let s := { State.reset with now := ticks 1, err := { State.reset.err with ringTimer := some 0 } }; s.err.ringTimer = some 0 ∧ 0 + ticks 1 ≤ s.now) ∧
    (let s := { with_ [(Reg.GLOBAL.FUNC_STATUS.STATE fTel, 2)] with time := 8192, tick := { State.reset.tick with tasks := [(0, (8192, 0, 0))] } }
     running s fTel = true ∧ taskDue s 0 4096 = true) ∧ running State.reset fTel = false ∧ taskDue State.reset 0 4096 = false ∧
    (let s := { State.reset with time := 4096 * 70000, tel := { State.reset.tel with mirror := [(9, 0)] } }
     findKey s.tel.mirror 9 = some 0 ∧ 0 + rd s Reg.TELEMETRY.MIRROR_CFG.MIRROR_TICKS ≤ tickNo s) ∧
    rdb (with_ [(Reg.TELEMETRY.TEL_CNT_SEL.REQ, 1)]) Reg.TELEMETRY.TEL_CNT_SEL.REQ = true ∧ rdb State.reset Reg.TELEMETRY.TEL_CNT_SEL.REQ = false := by decide +kernel

/-- A loop step that is due under a live and a dead power core, the clamp in force and not, sensors that fail, read cool and trip, rails in and out of
their ranges, resets in each phase, each stage of boot, and a cap (R385, R404 to R409, R415 to R417). -/
theorem test_hyps_power :
    (let s := { with_ [(Reg.SECURITY.PROC_STATUS.STATE 2, 1)] with time := BitVec.ofNat 64 loopPeriod, tick := { State.reset.tick with tasks := [(loopTask, (loopPeriod, 0, 0))] } }
     taskDue (stepHolds s 0) loopTask loopPeriod = true ∧ procState (stepHolds s 0) 2 = 1) ∧
    procState (stepHolds State.reset 0) 2 ≠ 1 ∧ taskDue (stepHolds State.reset 0) loopTask loopPeriod = false ∧ State.reset.fw.phase = 0 ∧ State.reset.fw.cold = true ∧ ({ State.reset with fw := { State.reset.fw with phase := 1, cold := false } } : State).fw.phase ≠ 0 ∧ Writer.privileged .fabric = true ∧
    (let s := { State.reset with pw := { State.reset.pw with sampled := some 0 } }; s.pw.sampled = some (tickNo s)) ∧ rdb State.reset Reg.POWER.POWER_STATUS.CLAMPED = false ∧
    rdb (with_ [(Reg.POWER.POWER_STATUS.CLAMPED, 1)]) Reg.POWER.POWER_STATUS.CLAMPED = true ∧ State.reset.pw.sampled ≠ some (tickNo State.reset) ∧
    hottest State.reset [none, some 300, some 944] = some (2, 944) ∧ hottest State.reset [some 943] = some (0, 943) ∧ hottest State.reset [none] = none ∧
    railPeak 8 < 5 ∧ 4 ≤ railPeak 8 ∧ (664 < (railWindow 0).1) ∧ ((railWindow 0).1 ≤ 665 ∧ 735 ≤ (railWindow 0).2) ∧ State.reset.pw.rails.contains 0 = false ∧
    (∀ n ∈ [1, 2, 3, 4, 5, 6, 7], bootStage (with_ [(Reg.SECURITY.BOOT_STATUS.STAGE, n)]) = n) ∧
    mgmtUp (with_ [(Reg.SECURITY.PROC_STATUS.STATE 1, 1)]) = true ∧ mgmtUp State.reset = false ∧
    (500 ≤ (500#16).toNat ∧ (3000#16).toNat ≤ 3000 ∧ (499#16).toNat < 500 ∧ 3000 < (3001#16).toNat) := by decide +kernel

/-- Processors in their states, each step of a molt, an image that fails its check, an update in progress, and SPDM ways with and without algorithms, leaves
and a session (R377, R388 to R398). -/
theorem test_hyps_firmware :
    (∀ n ∈ [1, 2], procState (with_ [(Reg.SECURITY.PROC_STATUS.STATE 5, n)]) 5 = n) ∧ molting State.reset = false ∧
    (∀ n ∈ [1, 2, 3, 4, 5, 6, 7], let s := with_ [(Reg.SECURITY.MOLT_STATUS.RESULT, 1), (Reg.SECURITY.MOLT_STATUS.STEP, n)]
      molting s = true ∧ rd s Reg.SECURITY.MOLT_STATUS.STEP = n) ∧
    imageFault State.reset 1 = some 0 ∧ rd State.reset Reg.TICK.JIG_COMMIT_STATUS.STATUS ∈ [0, 3, 4, 5] ∧ rd (jigState 2 0 0 []) Reg.TICK.JIG_COMMIT_STATUS.STATUS ∉ [0, 3, 4, 5] ∧
    ({ State.reset with fw := { State.reset.fw with leafDue := true } } : State).fw.leafDue = true ∧ State.reset.fw.update = none ∧
    (let s := { with_ [(Reg.SECURITY.PROC_STATUS.STATE 0, 1), (Reg.SECURITY.PROC_STATUS.STATE 1, 1), (Reg.MGMT.MGMT_STATUS.UPDATE_STATE, 2)] with
        fw := { State.reset.fw with update := some 1, events := [7] } }
     mgmtUp s = true ∧ s.fw.update = some 1 ∧ rd s Reg.MGMT.MGMT_STATUS.UPDATE_STATE = 2 ∧ procState s 0 = 1 ∧ 0 + 4096 ≤ (updateTarget s 1).2 ∧ 0 + 4096 ≤ (updateTarget s 2).2 ∧
       s.fw.events = 7 :: []) ∧
    (let s := { with_ [(Reg.SECURITY.PROC_STATUS.STATE 0, 1), (Reg.SECURITY.PROC_STATUS.STATE 1, 1), (Reg.SECURITY.IDENTITY_STATUS.IDENTITY_OK, 1)] with
        fw := { State.reset.fw with negotiated := [0], session := some [], leafEnd := 4 } }
     wayUp s .mctp = true ∧ negotiated s .mctp = true ∧ (signIdentity s []).isSome = true ∧ sessionOf s .mctp = some [] ∧ wayUp s (.doe 0 0) = true ∧
       negotiated s (.doe 0 0) = false ∧ (0 : Fin 2).val = mgrPort s) ∧
    (signIdentity State.reset []).isNone = true ∧ wayUp State.reset .mctp = false ∧ mgmtUp State.reset = false ∧ procState State.reset 5 ≠ 1 ∧ procState State.reset 5 ≠ 2 ∧
    ({ State.reset with fw := { State.reset.fw with update := some 2 } } : State).fw.update = some 2 ∧ 4096 < (List.replicate 4097 (0 : Byte)).length ∧
    (1 - mgrPort State.reset : Nat) ≠ mgrPort State.reset ∧ (0xFF#8 : BitVec 8).toNat = 0xFF ∧ (12#8 : BitVec 8).toNat < 13 ∧ 13 ≤ (13#8 : BitVec 8).toNat := by decide +kernel

/-- The check of an image has no fault exactly where its header and every digest hold, which rest on the opaque signature check and digest (R382). -/
theorem test_hyps_image (s : State) (b : Nat) (h : headerOk s b = true) (d : (components s b).all (digestOk s b) = true) : imageFault s b = none := by
  unfold imageFault
  rw [h, Bool.not_true, if_neg Bool.false_ne_true, Option.map_eq_none_iff, List.find?_eq_none]
  intro c hc
  simp [List.all_eq_true.mp d c hc]

/-- Well-formed instructions with a word, and a LOOP whose body ends in the LEND after it (R155, R161). -/
theorem test_hyps_round_trip : (∀ i ∈ [Instr.samoAdd 0 15 16 17, .waitR 0 3, .lend 0, .loopR 0 none 32 20 1], i.wellFormed = true ∧ (milysEncode 0x8000 i).isSome = true) ∧
    (0x8000 : BitVec 16).getLsbD 15 = true ∧ lendDist [0x7000FFFE] 0 0 0 = some (1#16).toNat := by decide +kernel

/-! ### The manual's worked examples -/

/-- The fetch-add header of chapter 02: its first three words, and the first bytes on the wire. -/
theorem test_worked_header :
    (let h : Hdr := { dest := 0x0C3, src := 0x2A1, tenant := 0x015, kind := 0x07, tc := 1, rly := 0, plane := 5, len := 0, tag := 0x3B07, seq := 0x0412, epoch := 9, xgen := 3, attr := 0x0C, addr := 0x00C3000000012340, ext := mkExt [(0, 32, 0x51), (36, 4, 1), (64, 64, 5)] }
     bits (hdrBits h) 0 64 = 0x00028470152A10C3 ∧ bits (hdrBits h) 64 64 = 0x000C030904123B07 ∧ bits (hdrBits h) 128 64 = 0x00C3000000012340 ∧
     bits (hdrBits h) 256 64 = 0x0000001000000051 ∧ (leBytes 64 (hdrBits h)).take 8 = [0xC3, 0x10, 0x2A, 0x15, 0x70, 0x84, 0x02, 0x00] ∧
     h.k = some .atomic ∧ h.home = true ∧ h.comb = true ∧ h.homed = true) := by decide +kernel

/-- The cell of h = 0xA6AA_AAAB (R129): cluster 31, logical cell 32, crossbar port 190. -/
theorem test_worked_cell_hash : 0xA6AAAAAB * 6144 / 2 ^ 32 = 4000 ∧ cellCluster 4000 = 31 ∧ 4000 % 128 = 32 ∧ cellPort 4000 = 190 := by decide

/-- The flit codes of chapter 02's frame are no frame error; the same codes with a packet open are (R86). -/
theorem test_worked_flit_codes : codesOk 0x08019800 8 0 true = true ∧ codesOk 0x08019800 8 0 false = false ∧
    (List.range 8).map (slotCodes 0x08019800) = [(0, 0), (0, 0), (0, 2), (1, 2), (1, 0), (0, 0), (0, 2), (0, 0)] := by decide +kernel

/-- BF16 sums of 256, 1 and 1 in both orders (chapter 07). -/
theorem test_worked_bf16 : Num.addElem 1 0 0 (Num.addElem 1 0 0 0x4380 0x3F80) 0x3F80 = 0x4380 ∧ Num.addElem 1 0 0 (Num.addElem 1 0 0 0x3F80 0x3F80) 0x4380 = 0x4381 ∧
    Num.addElem 1 1 32767 0x4380 0x3F80 = 0x4381 ∧ Num.addElem 1 1 32768 0x4380 0x3F80 = 0x4380 := by decide +kernel

/-- FP8 sums of 320, 160 and −160, and subnormals (chapter 07). -/
theorem test_worked_fp8 : Num.addElem 3 0 0 (Num.addElem 3 0 0 0x7A 0x72) 0xF2 = 0x79 ∧ Num.addElem 3 0 0 (Num.addElem 3 0 0 0x7A 0xF2) 0x72 = 0x7A ∧
    Num.addElem 4 0 0 (Num.addElem 4 0 0 0x5D 0x59) 0xD9 = 0x5E ∧ Num.addElem 4 0 0 (Num.addElem 4 0 0 0x5D 0xD9) 0x59 = 0x5D ∧ Num.addElem 3 0 0 0x03 0x03 = 0x06 ∧
    Num.addElem 3 0 0 0x07 0x01 = 0x08 := by decide +kernel

/-- The MXFP4 block of chapter 07: elements 8, 3, 0 and 0 under scale 0x80. -/
theorem test_worked_mxfp4 :
    (let t := fun (a b sc : Byte) => [a, b] ++ List.replicate 14 0 ++ [sc]
     (Num.tileAdd 9 0 1 (t 0x37 0x09 0x7F) (t 0x56 0x12 0x7E) 1).1.take 17 = t 0x36 0x00 0x80) := by decide +kernel

/-- The late telemetry map of chapter 03: instance 1 starts at 5,800 with a lag of 1,704 ftu, and instance 2 waits until 8,872. -/
theorem test_worked_late_map :
    (let s := { State.reset with tick := { State.reset.tick with tasks := [(0, (4096, 0, 5800))] }, time := 5800 }
     taskStart s 0 4096 = 5800 ∧ rd (taskRun s 0 4096) Reg.TICK.LATE_WORK.MAX_LAG = 1704 ∧ rd (taskRun s 0 4096) Reg.TICK.LATE_WORK.LATE_COUNT = 1 ∧
     taskStart { taskRun s 0 4096 with time := 6700 } 0 4096 = 8872) := by decide +kernel

/-- The worked jig entry of chapter 03: port 40 holds slots 0 to 3 and 8 to 11, and its admission ends at offset 47. -/
theorem test_worked_jig : slotHolder (2 ^ 40) 0x0F0F 0 = some 40 ∧ slotHolder (2 ^ 40) 0x0F0F 4 = none ∧ slotHolder (2 ^ 40) 0x0F0F 8 = some 40 ∧ 64 - tTail 8 = 47 ∧
    64 - tTail 6 = 41 := by decide +kernel

/-- The goals of chapter 17's worked example: 2,500, 2,300 and 2,100 under a cap of 1,000 W with a guard of 20 W. -/
theorem test_worked_power : goalOf (with_ [(Reg.POWER.POWER_CFG.GUARD_W, 20)]) 1000 2700 2700 = 2500 ∧
    goalOf (with_ [(Reg.POWER.POWER_CFG.GUARD_W, 20)]) 1000 2510 2500 = 2300 ∧ goalOf (with_ [(Reg.POWER.POWER_CFG.GUARD_W, 20)]) 1000 2300 2300 = 2100 := by decide +kernel

/-- The words of chapter 06's redTile handler and of its finish module finMeanClip. -/
def redTile : List (BitVec 32) :=
  [0x25400010, 0x80EA000C, 0x892A0014, 0x8ACA0010, 0x18E70005, 0x8D072000, 0x8E072008, 0x8A472010, 0x1969000B, 0x19890006, 0x056B6000] ++
  [0x05085800, 0x19890003, 0x06106000, 0x0A200001, 0xDC080005, 0x11AA1000, 0xB9A88000, 0xB1F08800, 0x826A0008, 0x0E73000F, 0x30133000] ++
  [0xC3000000, 0xDC080000, 0xBDA88000, 0x09EF0001, 0x45F20005, 0x1A870001, 0x99344028, 0x9AD44024, 0x0AB44000, 0xE2A04001, 0x78000000]
def finMeanClip : List (BitVec 32) :=
  [0xD6808021, 0xCEA80002, 0xCAA80029, 0xD6C0A021, 0xCB2C0028, 0x08200000, 0x6C001050, 0xD80A0200, 0xCC400000, 0xCC800400] ++
  [0xC8468022, 0xC88A8022, 0xC846C026, 0xC88AC026, 0xC8470025, 0xC88B0025, 0xCCC48001, 0xD8CA0201, 0x7000FFF4, 0x78000000]

/-- The bounds that chapter 06 gives its two examples: 442 cycles, and 394 for the finish (R138). -/
theorem test_worked_bounds : entryBound false redTile 0 = 442 ∧ entryBound false finMeanClip 0 = 394 := by decide +kernel

/-- R139, R143: a bound that the entry does not state fails check 8, and one above the limit of its kind check 9. -/
theorem test_bound_checks : boundFaults false redTile [(5, (0, 442, 1))] = [] ∧ boundFaults false redTile [(5, (0, 441, 1))] ≠ [] := by decide +kernel


/-! ### Further witnesses -/

/-- Two registers in one aligned eight bytes, and a register of eight bytes that fills them (R14). -/
theorem test_hyps_register_pairs : accessOk 0x1000 8 = true ∧ viewOf State.reset .manager 0x1000 = .addr 0x1000 ∧
    viewOf State.reset .manager (0x1000 + 4) = .addr (0x1000 + 4) ∧ (regFind 0x1000).isSome = true ∧ (regFind (0x1000 + 4)).isSome = true ∧
    (regFind 0x1000).map (·.addr) ≠ (regFind (0x1000 + 4)).map (·.addr) ∧ accessOk 0x150000 8 = true ∧
    (regFind 0x150000).map (fun x => (x.addr, x.desc.width)) = some (0x150000, 64) := by decide +kernel

/-- Images whose signature the security core checks and one that is no program, with and without that core (R143, R384). -/
theorem test_hyps_stock_signed : stockSigned (fnProgram State.reset 0) = true ∧ stockSigned (.file [0, 0, 0, 0, 0, 0, 1]) = false ∧
    procAway (with_ [(Reg.SECURITY.PROC_STATUS.STATE 0, 2)]) 0 = true ∧ procAway State.reset 0 = false := by decide +kernel

/-- A die that is open and one shut after a thermal trip, no pair to train on, and every pair (R84, R330, R407, R415). -/
theorem test_hyps_link_sides : dieShut (link0 2 {}) 0 = false ∧ dieShut { link0 2 {} with pw := { State.reset.pw with tripped := true } } 0 = true ∧
    ¬ minWidth (link0 0 {}) 0 ≤ ((keptLanes (link0 0 {}) 0).filter (fun l => bitAt 0 l)).length ∧
    (0 + secs 1 ≤ secs 1 ∧ (linkRun { link0 0 {} with now := secs 1 } 0).since = 0) := by decide +kernel

/-- Port 0 UP with its eight pairs in state `st`, pair `l` leaving the stripe. -/
def lanesAt (st : Nat) (l : Option Nat := none) : State :=
  let s := link0 3 {} ((List.range 8).map (fun k => (Reg.PORT.LANE_STATUS.STATE 0 k, st)))
  { s with link := { s.link with lanes := match l with | some k => [(k, { leaving := true })] | none => [] } }

/-- Pairs that may leave the stripe, with and without a width left, one that leaves it already, pairs that are RETIRED, also under TEST, and one that
counts wrong bits (R336, R338, R339). -/
theorem test_hyps_lanes_leave :
    (laneState (lanesAt 2) 0 0 = 2 ∧ (laneRun (lanesAt 2) 0).leaving = false ∧ activeSet (lanesAt 2 (some 0)) 0 (goodLanes (lanesAt 2 (some 0)) 0) ≠ []) ∧
    (let s := link0 3 {} [(Reg.PORT.LANE_STATUS.STATE 0 0, 2)]
     let t := { s with link := { s.link with lanes := [(0, { leaving := true })] } }
     laneState s 0 0 = 2 ∧ activeSet t 0 (goodLanes t 0) = []) ∧
    laneState (lanesAt 3) 0 0 = 3 ∧ (laneRun (lanesAt 2 (some 0)) 0).leaving = true ∧ laneRetired (lanesAt 5) 0 0 = true ∧ laneRetired (lanesAt 2) 0 0 = false ∧
    laneRetired { State.reset with link := { State.reset.link with lanes := [(0, { retired := true })] } } 0 0 = true ∧ linkState (lanesAt 2) (laneHalf (lanesAt 2) 0 0) = 3 ∧
    (let s := link0 4 {} [(Reg.PORT.LANE_STATUS.STATE 0 0, 6), (Reg.PORT.PORT_CFG.PATTERN 0, 1)]
     laneState s 0 0 = 6 ∧ rd s (Reg.PORT.PORT_CFG.PATTERN 0) ≠ 0 ∧ linkState s (laneHalf s 0 0) = 4) := by decide +kernel

/-- A request against a change of one's own, an answer in time and one that is late, repeated for another width and dropped where none is wanted, and a
module that fits and two that do not (R333, R341). -/
theorem test_hyps_width_answers :
    (linkRun (link0 3 { agreed := some (15, 9), asked := true }) 0).agreed ≠ none ∧ (linkRun (link0 3 { agreed := some (15, 9), asked := true }) 0).asked = true ∧
    (let s := link0 3 { req := some ⟨1, 15, 5, 0⟩ }; s.time.toNat + 4096 ≤ kerfStart 5 ∧ ¬ kerfStart 5 ≤ s.time.toNat + 4096) ∧
    (let s := { lanesAt 2 with time := BitVec.ofNat 64 (kerfStart 5 - 4096) }
     kerfStart 5 ≤ s.time.toNat + 4096 ∧ activeSet s 0 (goodLanes s 0) ≠ [] ∧ maskOf (activeSet s 0 (goodLanes s 0)) ≠ activeMask s 0 ∧ activeSet (link0 3 {}) 0 (goodLanes (link0 3 {}) 0) = []) ∧
    (let s := wr (lanesAt 2) (Reg.PORT.LINK_STATUS.ACTIVE_LANES 0 0) 255; activeSet s 0 (goodLanes s 0) ≠ [] ∧ maskOf (activeSet s 0 (goodLanes s 0)) = activeMask s 0) ∧
    (0x40 ≤ (0x50#8).toNat ∧ (1#4) ≠ 0 ∧ ¬ 0x40 ≤ (0x3F#8).toNat) := by decide +kernel

/-- A home plane that is this one and a relayed request of it, a SIGNAL whose counter fires already, a response and a notice stamped after the end of the
attempt they answer, and one before (R97, R255, R265). -/
theorem test_hyps_relays :
    (let s := wr exported (Reg.GLOBAL.FUNC_STATUS.STATE (fHost 0)) 2
     relays s 0 (aAsk .read 0x1000 1).h = true ∧ relays { s with ep := { s.ep with downAt := [(0, 0)] } } 0 (aAsk .read 0x1000 1).h = false ∧ relayWaits s 0 (aAsk .read 0x1000 1).h = false) ∧
    firing { State.reset with host := { State.reset.host with ops := [anOp (.fire 0 aRead)] } } 0 0 = true ∧ firing State.reset 0 0 = false ∧
    (let s := reqState (aReq .write 1) 102400
     let t := { s with time := 102400 }
     endsAttempt t 0 (aReq .write 1) { aResp .completion 0 with stamp := 102400 } = true ∧ attemptEnds t (aReq .write 1) ≤ stampedAt t { aResp .completion 0 with stamp := 102400 } ∧
       ¬ attemptEnds t (aReq .write 1) ≤ stampedAt t (aResp .completion 0)) := by decide +kernel

/-- Context 5 whose moderation time has passed, with and without an entry that waits, a ring record that waits for the page given to it, local memory that
is and is not ready for a store, and resets in and out of the warm reset (R281, R306, R363, R417). -/
theorem test_hyps_translations :
    (let s := { State.reset with now := ms 100, ep := { State.reset.ep with ctx := [(5, { modCount := 1 })] } }
     let t := { s with host := { s.host with atsWait := [{ ep := 0, func := 0, ring := 5, addr := 0, data := [] }] } }
     (ctxRun s 5).modCount ≠ 0 ∧ (ctxRun s 5).modFirst + modTime s 5 ≤ s.now ∧ ¬ (∃ x ∈ s.host.atsWait, x.ring = 5) ∧ (∃ x ∈ t.host.atsWait, x.ring = 5)) ∧
    (let s := { State.reset with err := { State.reset.err with ringWait := [7] }, host := { State.reset.host with atsOn := [0] } }
     0 = mgrPort s ∧ s.err.ringWait ≠ [] ∧ localRuns s 0 0 (ringAddr s) 64 true false = .error 0 ∧ inXlate 0 4096 0 = true ∧ storeReady s 0 0 0 tileLen = false ∧
       storeReady State.reset 0 0 0 tileLen = true) ∧
    (let s := { with_ [(Reg.GLOBAL.ERR_RING_STATUS.DROPPED, 1)] with err := { State.reset.err with ringWait := [7] } }
     s.err.ringWait ≠ [] ∧ rd s Reg.GLOBAL.ERR_RING_STATUS.DROPPED ≠ 0) ∧ State.reset.err.ringWait = [] ∧
    (let e : PendErr := {}
     let s := { State.reset with err := { State.reset.err with pending := [(3, e)] } }
     findKey s.err.pending 3 = some e ∧ findKey s.err.emitted 3 ≠ some (tickNo s)) := by
  decide +kernel

/-- Room for a cell's INIT, an onward attempt at its end with no answer on its way and with one, and a physical cell that no logical one names (R97, R134, R178). -/
theorem test_hyps_cell_room : emitRoom State.reset 0 0 = true ∧ emitRoom State.reset 0 1 = true ∧ onWay State.reset (cellPort 0) = [] ∧ logicalOf State.reset 0 131 = none ∧
    logicalOf (with_ [(Reg.CLUSTER.CELL_MAP.PHYS 0 7, 131)]) 0 131 = some 7 := by decide +kernel

/-- A flash whose running bank has one component of type 5 and 64 bytes, the digest of its bytes in its header. -/
def codeFlash : List Host.Cell :=
  [(0x2000006, 1), (0x2000007, 0), (0x2000040, 5), (0x2000041, 0), (0x2000044, 0), (0x2000045, 0x10), (0x2000046, 0), (0x2000047, 0), (0x2000048, 64)] ++
    (List.range 7).map (fun i => (0x2000049 + i, 0)) ++ (List.range 32).map (fun i => (0x2000050 + i, (Config.digest 256 (List.replicate 64 0xFF)).getD i 0))
/-- That flash, with the component's copy in HBM poisoned; and a flash whose header names no component. -/
def codeState : State :=
  { State.reset with fw := { State.reset.fw with flash := codeFlash, comps := [(5, areaBase State.reset 0 + 4096, 64)] }, poison := [(areaBase State.reset 0 + 4096) / 64] }
def noCode (l : List (Nat × Nat × Nat)) : State := { State.reset with fw := { State.reset.fw with flash := [(0x2000006, 0), (0x2000007, 0)], comps := l } }

/-- A component's copy that is not poisoned and has the digest of the header is good (R352, R377). -/
theorem test_code_ok (s : State) (i : Nat) (c : Nat × Nat × Nat) (hc : s.fw.comps.find? (fun c => c.1 == procComponent i) = some c)
    (hp : hbmPoisoned s c.2.1 c.2.2 = false) (hd : headerDigest s c.1 = some (shake32 (hbmRdN s c.2.1 c.2.2))) : codeOk s i = true := by
  unfold codeOk
  rw [hc]
  simp [hp, hd]

/-- A poisoned copy is not good, and what a flash without it gives is none either (R352, R377). -/
theorem test_code_bad : codeOk codeState 5 = false ∧ codeOk (noCode []) 5 = false ∧ codeOk (copyImage (noCode [(5, 0, 0)]) 0 0) 5 = false := by
  have h : hbmPoisoned codeState (areaBase State.reset 0 + 4096) 64 = true ∧
      codeState.fw.comps.find? (fun c => c.1 == procComponent 5) = some (5, areaBase State.reset 0 + 4096, 64) := by decide +kernel
  refine ⟨?_, by decide +kernel, by decide +kernel⟩
  unfold codeOk
  rw [h.2]
  simp [h.1]

set_option maxRecDepth 100000 in
/-- A processor that restarts: its copy reloaded from flash is good again (R352, R377). -/
theorem test_hyps_code : codeState.fw.comps ≠ [] ∧ codeOk (copyImage codeState (runningBank codeState) codeState.fw.area) 5 = true := by
  refine ⟨by decide, test_code_ok _ 5 (5, areaBase State.reset 0 + 4096, 64) (by decide +kernel) (by decide +kernel) (by rfl)⟩

/-- Accesses that a processor may and may not make under LOCK, a watchdog at its end and before, and the kerf, the time and the cores of a molt (R376, R382, R394). -/
theorem test_hyps_processors :
    (let s := with_ [(Reg.SECURITY.BOOT_STATUS.LOCK, 1)]; procMay s 2 (.reg true 0x1200000) = true ∧ procMay s 2 (.reg true 0x100000) = false ∧ procMay State.reset 2 (.reg true 0x100000) = true) ∧
    watchdogDue { State.reset with now := ms 100 } 0 = true ∧ watchdogDue State.reset 0 = false ∧ moltKerf State.reset = false ∧ moltKerf { State.reset with time := 3968 } = true ∧
    (let s := with_ [(Reg.SECURITY.MOLT_STATUS.RESULT, 1), (Reg.SECURITY.MOLT_STATUS.STEP, 2)]
     moltLate s 1 = false ∧ moltLate s (48 - s.fw.moltCores) = false ∧ moltLate { s with now := ms 2 } 1 = false ∧ moltLate { s with now := ms 2 + 1 } 1 = true ∧
       moltLate { s with now := ms 96 + 1 } (48 - s.fw.moltCores) = true) := by decide +kernel

/-- R425's worked example, physical lane 325, and R424's, W-0412; and rails at nominal voltage and their sustained current total 2,984 W (R428). -/
theorem test_lands : laneLands 325 = ⟨⟨.e, 3, 61⟩, ⟨.e, 3, 62⟩, ⟨.e, 18, 61⟩, ⟨.e, 18, 62⟩⟩ ∧ landGrid ⟨.w, 4, 12⟩ = (131, 4) ∧
    landExists ⟨.n, 15, 15⟩ = false ∧ landExists ⟨.n, 15, 16⟩ = true ∧ landUse ⟨.e, 46, 0⟩ = .power 0 ∧ landUse ⟨.s, 33, 55⟩ = .power 7 ∧ landUse ⟨.n, 36, 56⟩ = .reserved ∧
    railPower railSustained / 1000 = 2984 := by decide

/-- R433: channel 70 is on bus 1, at the multiplexer at 0x70, as its channel 6, which is selected before a write and deselected after it. -/
theorem test_cmis_select : (cmisOut (with_ [(Reg.PORT.PORT_CFG.CMIS_CH 3, 70)]) 6 0 0).out =
    [.cmisSelect 1 0x70 0, .cmisWrite 70 0x50 0 (maskOf (halfLanes State.reset 6)) 0, .cmisSelect 1 0x70 64] := by decide +kernel

end Sys2Proof.Tests
end

section
/-!
PROOFS. The machine as a whole, and register accesses: O1, O3, O4, O5 and O27.
-/
namespace Sys2Proof.Machine
open Sys2Proof

/-! ## One step -/

theorem step_of_pending_nil {s : State} (h : s.pending = []) : step s = .next (advance s) := by
  unfold step
  rw [h]
  rfl

theorem step_of_pending_cons {s : State} {c : Instr} {rest : List Instr} (h : s.pending = c :: rest) :
    step s = exec c { s with pending := rest } := by
  unfold step
  rw [h]

/-- Settles O1: the queue of `withCommand` has the command in front. -/
theorem stepRunsFrontCommand : Obligations.StepRunsFrontCommand :=
  fun s c => ⟨step_of_pending_cons (s := s.withCommand c) rfl, fun _ h => step_of_pending_cons h⟩

/-! ## The stores and the queue -/

/-- What `exec` answers keeps the canonical form and the queue, command by command. -/
theorem kept_exec {q : List Instr} {s : State} (h : Kept q s) (c : Instr) : KeptOut q (exec c s) :=
  match c with
  | .registerWrite .. => kept_execRegisterWrite h ..
  | .readClear .. => kept_execReadClear h ..
  | .funcCmdNone .. => kept_execFuncCmdNone h ..
  | .funcStart .. => kept_execFuncStart h ..
  | .funcStop .. => kept_execFuncStop h ..
  | .funcAckHost .. => kept_execFuncAckHost h ..
  | .funcRetire .. => kept_execFuncRetire h ..
  | .funcReinstate .. => kept_execFuncReinstate h ..
  | .dryFitComplete .. => kept_execDryFitComplete h ..
  | .dryFitTimeout .. => kept_execDryFitTimeout h ..
  | .stopDrainComplete .. => kept_execStopDrainComplete h ..
  | .stopDrainLimit .. => kept_execStopDrainLimit h ..
  | .funcPermanentFault .. => kept_execFuncPermanentFault h ..
  | .packetIngress .. => kept_execPacketIngress h ..
  | .ingressHoldRelease .. => kept_execIngressHoldRelease h ..
  | .extentLookupReturn .. => kept_execExtentLookupReturn h ..
  | .spillRefill .. => kept_execSpillRefill h ..
  | .schedulerMatching .. => kept_execSchedulerMatching h ..
  | .portDown .. => kept_execPortDown h ..
  | .flushNoticeSend .. => kept_execFlushNoticeSend h ..
  | .routeWrite .. => kept_execRouteWrite h ..
  | .bundleWrite .. => kept_execBundleWrite h ..
  | .linkFrameReceive .. => kept_execLinkFrameReceive h ..
  | .linkAuthLimit .. => kept_execLinkAuthLimit h ..
  | .linkFrameSend .. => kept_execLinkFrameSend h ..
  | .read .. => kept_execRead h ..
  | .write .. => kept_execWrite h ..
  | .readBulk .. => kept_execReadBulk h ..
  | .writeBulk .. => kept_execWriteBulk h ..
  | .readTile .. => kept_execReadTile h ..
  | .writeTile .. => kept_execWriteTile h ..
  | .atomic .. => kept_execAtomic h ..
  | .signal .. => kept_execSignal h ..
  | .regRead .. => kept_execRegRead h ..
  | .regWrite .. => kept_execRegWrite h ..
  | .mapRead .. => kept_execMapRead h ..
  | .ctrRequest .. => kept_execCtrRequest h ..
  | .ctrGrant .. => kept_execCtrGrant h ..
  | .ctrReturn .. => kept_execCtrReturn h ..
  | .ctrRefuse .. => kept_execCtrRefuse h ..
  | .completion .. => kept_execCompletion h ..
  | .readResp .. => kept_execReadResp h ..
  | .tileResp .. => kept_execTileResp h ..
  | .atomicResp .. => kept_execAtomicResp h ..
  | .noticeUnreachable .. => kept_execNoticeUnreachable h ..
  | .noticePortDown .. => kept_execNoticePortDown h ..
  | .noticeMemberLost .. => kept_execNoticeMemberLost h ..
  | .noticeTakeover .. => kept_execNoticeTakeover h ..
  | .stepCtlAbort .. => kept_execStepCtlAbort h ..
  | .swarmResultReceive .. => kept_execSwarmResultReceive h ..
  | .swarmCreditReceive .. => kept_execSwarmCreditReceive h ..
  | .swarmAbortApply .. => kept_execSwarmAbortApply h ..
  | .tickStart .. => kept_execTickStart h ..
  | .timeWordSend .. => kept_execTimeWordSend h ..
  | .timeLcbReceive .. => kept_execTimeLcbReceive h ..
  | .timeReferenceLoss .. => kept_execTimeReferenceLoss h ..
  | .holdoverExpired .. => kept_execHoldoverExpired h ..
  | .timeSrcWrite .. => kept_execTimeSrcWrite h ..
  | .reacquire .. => kept_execReacquire h ..
  | .tickInEdge .. => kept_execTickInEdge h ..
  | .gtimerFire .. => kept_execGtimerFire h ..
  | .snapshotReq .. => kept_execSnapshotReq h ..
  | .snapshotDone .. => kept_execSnapshotDone h ..
  | .jigStageWrite .. => kept_execJigStageWrite h ..
  | .jigCommit .. => kept_execJigCommit h ..
  | .jigValidationDone .. => kept_execJigValidationDone h ..
  | .jigTableSwap .. => kept_execJigTableSwap h ..
  | .jigStageRefillDone .. => kept_execJigStageRefillDone h ..
  | .cellInit .. => kept_execCellInit h ..
  | .cellTick .. => kept_execCellTick h ..
  | .cellTimer .. => kept_execCellTimer h ..
  | .homedReq .. => kept_execHomedReq h ..
  | .response .. => kept_execResponse h ..
  | .onwardAttemptTimeout .. => kept_execOnwardAttemptTimeout h ..
  | .ledgerEntryExpire .. => kept_execLedgerEntryExpire h ..
  | .atomicResponseExpire .. => kept_execAtomicResponseExpire h ..
  | .gather .. => kept_execGather h ..
  | .ownQuery .. => kept_execOwnQuery h ..
  | .ownAcquire .. => kept_execOwnAcquire h ..
  | .ownRelease .. => kept_execOwnRelease h ..
  | .ownPublish .. => kept_execOwnPublish h ..
  | .headerCopy .. => kept_execHeaderCopy h ..
  | .swarmTile .. => kept_execSwarmTile h ..
  | .swarmAck .. => kept_execSwarmAck h ..
  | .swarmResend .. => kept_execSwarmResend h ..
  | .swarmCreditReq .. => kept_execSwarmCreditReq h ..
  | .swarmAbortReq .. => kept_execSwarmAbortReq h ..
  | .swarmAbortSeen .. => kept_execSwarmAbortSeen h ..
  | .swarmAbortRelay .. => kept_execSwarmAbortRelay h ..
  | .swarmAbortOp .. => kept_execSwarmAbortOp h ..
  | .swarmCreditWindow .. => kept_execSwarmCreditWindow h ..
  | .swarmAdmission .. => kept_execSwarmAdmission h ..
  | .swarmDeadlineTimeout .. => kept_execSwarmDeadlineTimeout h ..
  | .swarmResultResend .. => kept_execSwarmResultResend h ..
  | .swarmAbortResend .. => kept_execSwarmAbortResend h ..
  | .swarmAbortResendLimit .. => kept_execSwarmAbortResendLimit h ..
  | .swarmCreditReqRepeat .. => kept_execSwarmCreditReqRepeat h ..
  | .cellWatchdog .. => kept_execCellWatchdog h ..
  | .cellCe .. => kept_execCellCe h ..
  | .cellCeLimit .. => kept_execCellCeLimit h ..
  | .cellUe .. => kept_execCellUe h ..
  | .suddenSwapComplete .. => kept_execSuddenSwapComplete h ..
  | .physCellRetire .. => kept_execPhysCellRetire h ..
  | .migrationComplete .. => kept_execMigrationComplete h ..
  | .physCellReinstate .. => kept_execPhysCellReinstate h ..
  | .cellTestDone .. => kept_execCellTestDone h ..
  | .sparePeriodicTest .. => kept_execSparePeriodicTest h ..
  | .memoryAccessComplete .. => kept_execMemoryAccessComplete h ..
  | .add .. => kept_execAdd h ..
  | .sub .. => kept_execSub h ..
  | .andR .. => kept_execAndR h ..
  | .orR .. => kept_execOrR h ..
  | .xorR .. => kept_execXorR h ..
  | .sll .. => kept_execSll h ..
  | .srl .. => kept_execSrl h ..
  | .sra .. => kept_execSra h ..
  | .mul .. => kept_execMul h ..
  | .mulhu .. => kept_execMulhu h ..
  | .minR .. => kept_execMinR h ..
  | .maxR .. => kept_execMaxR h ..
  | .minu .. => kept_execMinu h ..
  | .maxu .. => kept_execMaxu h ..
  | .slt .. => kept_execSlt h ..
  | .sltu .. => kept_execSltu h ..
  | .crc .. => kept_execCrc h ..
  | .crcb .. => kept_execCrcb h ..
  | .addi .. => kept_execAddi h ..
  | .andi .. => kept_execAndi h ..
  | .ori .. => kept_execOri h ..
  | .xori .. => kept_execXori h ..
  | .slli .. => kept_execSlli h ..
  | .srli .. => kept_execSrli h ..
  | .srai .. => kept_execSrai h ..
  | .lui .. => kept_execLui h ..
  | .setfmt .. => kept_execSetfmt h ..
  | .setrnd .. => kept_execSetrnd h ..
  | .rdctl .. => kept_execRdctl h ..
  | .wrctl .. => kept_execWrctl h ..
  | .beq .. => kept_execBeq h ..
  | .bne .. => kept_execBne h ..
  | .blt .. => kept_execBlt h ..
  | .bge .. => kept_execBge h ..
  | .bltu .. => kept_execBltu h ..
  | .bgeu .. => kept_execBgeu h ..
  | .br .. => kept_execBr h ..
  | .bp .. => kept_execBp h ..
  | .call .. => kept_execCall h ..
  | .ret .. => kept_execRet h ..
  | .jt .. => kept_execJt h ..
  | .loopR .. => kept_execLoopR h ..
  | .lend .. => kept_execLend h ..
  | .fin .. => kept_execFin h ..
  | .endR .. => kept_execEndR h ..
  | .trap .. => kept_execTrap h ..
  | .ld8u .. => kept_execLd8u h ..
  | .ld16u .. => kept_execLd16u h ..
  | .ld32u .. => kept_execLd32u h ..
  | .ld64 .. => kept_execLd64 h ..
  | .st8 .. => kept_execSt8 h ..
  | .st16 .. => kept_execSt16 h ..
  | .st32 .. => kept_execSt32 h ..
  | .st64 .. => kept_execSt64 h ..
  | .vld .. => kept_execVld h ..
  | .vst .. => kept_execVst h ..
  | .sld .. => kept_execSld h ..
  | .sst .. => kept_execSst h ..
  | .samoAdd .. => kept_execSamoAdd h ..
  | .samoSwap .. => kept_execSamoSwap h ..
  | .samoCas .. => kept_execSamoCas h ..
  | .samoMax .. => kept_execSamoMax h ..
  | .fence .. => kept_execFence h ..
  | .hld .. => kept_execHld h ..
  | .hst .. => kept_execHst h ..
  | .waitR .. => kept_execWaitR h ..
  | .pand .. => kept_execPand h ..
  | .por .. => kept_execPor h ..
  | .pxor .. => kept_execPxor h ..
  | .pnot .. => kept_execPnot h ..
  | .pfroms .. => kept_execPfroms h ..
  | .sfromp .. => kept_execSfromp h ..
  | .pcnt .. => kept_execPcnt h ..
  | .vadd .. => kept_execVadd h ..
  | .vsub .. => kept_execVsub h ..
  | .vmul .. => kept_execVmul h ..
  | .vfma .. => kept_execVfma h ..
  | .vfms .. => kept_execVfms h ..
  | .vmax .. => kept_execVmax h ..
  | .vmin .. => kept_execVmin h ..
  | .vabs .. => kept_execVabs h ..
  | .vneg .. => kept_execVneg h ..
  | .vrcp .. => kept_execVrcp h ..
  | .vrsqrt .. => kept_execVrsqrt h ..
  | .vand .. => kept_execVand h ..
  | .vor .. => kept_execVor h ..
  | .vxor .. => kept_execVxor h ..
  | .vsel .. => kept_execVsel h ..
  | .vcvtw .. => kept_execVcvtw h ..
  | .vnrw .. => kept_execVnrw h ..
  | .vi2f .. => kept_execVi2f h ..
  | .vf2i .. => kept_execVf2i h ..
  | .vcmpEq .. => kept_execVcmpEq h ..
  | .vcmpLt .. => kept_execVcmpLt h ..
  | .vcmpLe .. => kept_execVcmpLe h ..
  | .vcmpUnord .. => kept_execVcmpUnord h ..
  | .vmov .. => kept_execVmov h ..
  | .vbcast .. => kept_execVbcast h ..
  | .vext .. => kept_execVext h ..
  | .vins .. => kept_execVins h ..
  | .tld .. => kept_execTld h ..
  | .tst .. => kept_execTst h ..
  | .vmxu .. => kept_execVmxu h ..
  | .vmxp .. => kept_execVmxp h ..
  | .tadd .. => kept_execTadd h ..
  | .tmuls .. => kept_execTmuls h ..
  | .tzero .. => kept_execTzero h ..
  | .tcopy .. => kept_execTcopy h ..
  | .tcrc .. => kept_execTcrc h ..
  | .talloc .. => kept_execTalloc h ..
  | .tfree .. => kept_execTfree h ..
  | .emit .. => kept_execEmit h ..
  | .emitt .. => kept_execEmitt h ..
  | .rdsys .. => kept_execRdsys h ..
  | .gpiow .. => kept_execGpiow h ..
  | .gpior .. => kept_execGpior h ..
  | .cntrd .. => kept_execCntrd h ..
  | .doorbellWrite .. => kept_execDoorbellWrite h ..
  | .descRead .. => kept_execDescRead h ..
  | .descWrite .. => kept_execDescWrite h ..
  | .descReadTile .. => kept_execDescReadTile h ..
  | .descWriteTile .. => kept_execDescWriteTile h ..
  | .descAtomic .. => kept_execDescAtomic h ..
  | .descOwn .. => kept_execDescOwn h ..
  | .descGather .. => kept_execDescGather h ..
  | .descSwarm .. => kept_execDescSwarm h ..
  | .descFlush .. => kept_execDescFlush h ..
  | .descNop .. => kept_execDescNop h ..
  | .descUnsupported .. => kept_execDescUnsupported h ..
  | .descriptorComplete .. => kept_execDescriptorComplete h ..
  | .requestAttemptTimeout .. => kept_execRequestAttemptTimeout h ..
  | .seqSkipWaitExpire .. => kept_execSeqSkipWaitExpire h ..
  | .seqRecordExpire .. => kept_execSeqRecordExpire h ..
  | .planeBarExpire .. => kept_execPlaneBarExpire h ..
  | .pairPlaneReset .. => kept_execPairPlaneReset h ..
  | .writeCompletionRelease .. => kept_execWriteCompletionRelease h ..
  | .ctrHoldExpire .. => kept_execCtrHoldExpire h ..
  | .ctrRequestRetry .. => kept_execCtrRequestRetry h ..
  | .ctrCreditUnused .. => kept_execCtrCreditUnused h ..
  | .ctrGrantIdle .. => kept_execCtrGrantIdle h ..
  | .wcHoldExpire .. => kept_execWcHoldExpire h ..
  | .tornRetry .. => kept_execTornRetry h ..
  | .eqModTimer .. => kept_execEqModTimer h ..
  | .ctxEnable .. => kept_execCtxEnable h ..
  | .ctxDisable w c => kept_execCtxDisable h w c
  | .segInvalCmd .. => kept_execSegInvalCmd h ..
  | .segInvalDone .. => kept_execSegInvalDone h ..
  | .atsInvalidate .. => kept_execAtsInvalidate h ..
  | .atsTranslationComplete .. => kept_execAtsTranslationComplete h ..
  | .hostDmaComplete .. => kept_execHostDmaComplete h ..
  | .extCmdWrite .. => kept_execExtCmdWrite h ..
  | .extCmdRevoke .. => kept_execExtCmdRevoke h ..
  | .extCmdRead .. => kept_execExtCmdRead h ..
  | .extCmdDone .. => kept_execExtCmdDone h ..
  | .extentDrainTimeout .. => kept_execExtentDrainTimeout h ..
  | .exportWrite .. => kept_execExportWrite h ..
  | .numvfsWrite .. => kept_execNumvfsWrite h ..
  | .vfEnableClear .. => kept_execVfEnableClear h ..
  | .flr .. => kept_execFlr h ..
  | .flrTagRelease .. => kept_execFlrTagRelease h ..
  | .windowStore .. => kept_execWindowStore h ..
  | .windowLoad .. => kept_execWindowLoad h ..
  | .windowReadTimeout .. => kept_execWindowReadTimeout h ..
  | .msixUnmask .. => kept_execMsixUnmask h ..
  | .handover .. => kept_execHandover h ..
  | .handoverAuto .. => kept_execHandoverAuto h ..
  | .perstAssert .. => kept_execPerstAssert h ..
  | .hostLinkDown .. => kept_execHostLinkDown h ..
  | .pcieAerError .. => kept_execPcieAerError h ..
  | .confStart .. => kept_execConfStart h ..
  | .confRekey .. => kept_execConfRekey h ..
  | .confEnd .. => kept_execConfEnd h ..
  | .confQuery .. => kept_execConfQuery h ..
  | .spdmSessionEnd .. => kept_execSpdmSessionEnd h ..
  | .linkTrainingStart .. => kept_execLinkTrainingStart h ..
  | .linkTrained .. => kept_execLinkTrained h ..
  | .linkTrainingTimeout .. => kept_execLinkTrainingTimeout h ..
  | .keyingOffer .. => kept_execKeyingOffer h ..
  | .linkKeyed .. => kept_execLinkKeyed h ..
  | .linkKeyingTimeout .. => kept_execLinkKeyingTimeout h ..
  | .linkRetryTimer .. => kept_execLinkRetryTimer h ..
  | .alignmentMarker .. => kept_execAlignmentMarker h ..
  | .lcbEmpty k lcb => kept_execLcbEmpty h k lcb
  | .lcbWidthReq .. => kept_execLcbWidthReq h ..
  | .lcbWidthAck .. => kept_execLcbWidthAck h ..
  | .widthReqTimeout .. => kept_execWidthReqTimeout h ..
  | .widthChange .. => kept_execWidthChange h ..
  | .widthChangeResume .. => kept_execWidthChangeResume h ..
  | .laneLos .. => kept_execLaneLos h ..
  | .laneLol .. => kept_execLaneLol h ..
  | .laneUcw .. => kept_execLaneUcw h ..
  | .laneSerWindow .. => kept_execLaneSerWindow h ..
  | .laneRetrainDone .. => kept_execLaneRetrainDone h ..
  | .laneRetrainFail .. => kept_execLaneRetrainFail h ..
  | .laneRetrainLimit .. => kept_execLaneRetrainLimit h ..
  | .laneRetire .. => kept_execLaneRetire h ..
  | .laneReinstate .. => kept_execLaneReinstate h ..
  | .linkSignalLoss .. => kept_execLinkSignalLoss h ..
  | .rekeyDue .. => kept_execRekeyDue h ..
  | .nextKeyInstalled .. => kept_execNextKeyInstalled h ..
  | .keyExpired .. => kept_execKeyExpired h ..
  | .eyeScanStart .. => kept_execEyeScanStart h ..
  | .eyeScanDone .. => kept_execEyeScanDone h ..
  | .cmisModuleInit .. => kept_execCmisModuleInit h ..
  | .cmisModuleReady .. => kept_execCmisModuleReady h ..
  | .cmisDatapathActivated .. => kept_execCmisDatapathActivated h ..
  | .cmisStepTimeout .. => kept_execCmisStepTimeout h ..
  | .cmisPoll .. => kept_execCmisPoll h ..
  | .hbmUeReread .. => kept_execHbmUeReread h ..
  | .hbmInterfaceError .. => kept_execHbmInterfaceError h ..
  | .hbmRetrainDone .. => kept_execHbmRetrainDone h ..
  | .hbmRetrainFail .. => kept_execHbmRetrainFail h ..
  | .hbmCeLimit .. => kept_execHbmCeLimit h ..
  | .hbmUeLimit .. => kept_execHbmUeLimit h ..
  | .pcRetire .. => kept_execPcRetire h ..
  | .pcMigrationDone .. => kept_execPcMigrationDone h ..
  | .pcReinstate .. => kept_execPcReinstate h ..
  | .pcTestDone .. => kept_execPcTestDone h ..
  | .stepCmd .. => kept_execStepCmd h ..
  | .stepRebroadcast .. => kept_execStepRebroadcast h ..
  | .d2dError .. => kept_execD2dError h ..
  | .d2dRetrainEnd .. => kept_execD2dRetrainEnd h ..
  | .errorCoalesceTick .. => kept_execErrorCoalesceTick h ..
  | .errRingHeadWrite .. => kept_execErrRingHeadWrite h ..
  | .errRingEnable .. => kept_execErrRingEnable h ..
  | .errRingMsiTimer .. => kept_execErrRingMsiTimer h ..
  | .logClear .. => kept_execLogClear h ..
  | .errSrcClear .. => kept_execErrSrcClear h ..
  | .cdcResync .. => kept_execCdcResync h ..
  | .telemetryMap .. => kept_execTelemetryMap h ..
  | .mirrorEntryExpire .. => kept_execMirrorEntryExpire h ..
  | .telCntSample .. => kept_execTelCntSample h ..
  | .procFault .. => kept_execProcFault h ..
  | .procWatchdog .. => kept_execProcWatchdog h ..
  | .procRestartDone .. => kept_execProcRestartDone h ..
  | .pwrGoodFall .. => kept_execPwrGoodFall h ..
  | .resetNAssert .. => kept_execResetNAssert h ..
  | .resetNRelease .. => kept_execResetNRelease h ..
  | .resetCmdWarm .. => kept_execResetCmdWarm h ..
  | .bootStageComplete .. => kept_execBootStageComplete h ..
  | .requestUpdate .. => kept_execRequestUpdate h ..
  | .firmwareDataTransfer .. => kept_execFirmwareDataTransfer h ..
  | .verifyComplete .. => kept_execVerifyComplete h ..
  | .activateFirmware .. => kept_execActivateFirmware h ..
  | .molt .. => kept_execMolt h ..
  | .moltStepDone .. => kept_execMoltStepDone h ..
  | .leafBlockReserve .. => kept_execLeafBlockReserve h ..
  | .negotiateAlgorithms .. => kept_execNegotiateAlgorithms h ..
  | .getCertificate .. => kept_execGetCertificate h ..
  | .challenge .. => kept_execChallenge h ..
  | .getMeasurements .. => kept_execGetMeasurements h ..
  | .keyExchange .. => kept_execKeyExchange h ..
  | .linkKeySet .. => kept_execLinkKeySet h ..
  | .linkKeyDrop .. => kept_execLinkKeyDrop h ..
  | .linkKeyQuery .. => kept_execLinkKeyQuery h ..
  | .platformEventMessage .. => kept_execPlatformEventMessage h ..
  | .setRackCap .. => kept_execSetRackCap h ..
  | .powerLoopStep .. => kept_execPowerLoopStep h ..
  | .clampAssert .. => kept_execClampAssert h ..
  | .clampRelease .. => kept_execClampRelease h ..
  | .junctionSample .. => kept_execJunctionSample h ..
  | .peakCurrent .. => kept_execPeakCurrent h ..
  | .railWindow .. => kept_execRailWindow h ..
  | .hostLinkUp .. => kept_execHostLinkUp h ..
  | .configurationRequest .. => kept_execConfigurationRequest h ..
  | .pcieReadCompletion .. => kept_execPcieReadCompletion h ..
  | .flrComplete .. => kept_execFlrComplete h ..
  | .railWindowReturn .. => kept_execRailWindowReturn h ..
  | .gpioInputEdge .. => kept_execGpioInputEdge h ..
  | .mctpEidAssign .. => kept_execMctpEidAssign h ..
  | .linkUpSendHoldExpire .. => kept_execLinkUpSendHoldExpire h ..

/-- A next state that a step answers is canonical and has lost the front command, where the state before it is canonical. -/
theorem keptOut_step {s : State} (h : s.canonical) : KeptOut s.pending.tail (step s) := by
  cases hq : s.pending with
  | nil =>
    rw [step_of_pending_nil hq]
    exact kept_advance ⟨h, hq⟩
  | cons c rest =>
    rw [step_of_pending_cons hq]
    have k : Kept rest { s with pending := rest } := ⟨h, rfl⟩
    exact kept_exec k c

/-- Settles O4: a step is `advance` on an empty queue and `exec` on another, and both keep the stores and the queue that they find. -/
theorem stepKeepsStores : Obligations.StepKeepsStores := by
  intro s t h e
  have k := keptOut_step h
  rw [e] at k
  exact k

theorem wr_canonical {s : State} (f : Fld) (v : Nat) (h : s.canonical) : (wr s f v).canonical := (kept_wr ⟨h, rfl⟩ f v).1

theorem hbmWr_canonical {s : State} (a : Nat) (l : List Byte) (h : s.canonical) : (hbmWr s a l).canonical := (kept_hbmWr ⟨h, rfl⟩ a l).1

/-- Settles O5: reading after writing the register file and the HBM, and what either write leaves. -/
theorem storesReadBack : Obligations.StoresReadBack := by
  refine ⟨fun s f v => ⟨rd_wr_same s f v, fun g hg => rd_wr_ne s v (Ne.symm hg), fun a => hbmRd_congr (wr_hbm s f v) a, wr_canonical f v⟩,
    fun s a l => ⟨fun i hi => ?_, hbmRd_hbmWr_ne s a l, rd_hbmWr s a l, hbmWr_canonical a l⟩⟩
  rw [hbmRd_hbmWr_same s a l i hi, List.getD_eq_getElem l 0 hi]

/-- The register file after reset lists no field, so each reads as its Reset column. -/
theorem rd_reset (f : Fld) : rd State.reset f = f.reset % 2 ^ f.width := rfl

/-- Settles O3: after reset every store is empty, and an empty store is canonical. -/
theorem resetState : Obligations.ResetState := ⟨reset_canonical, rfl, rd_reset, rfl, rfl, rfl⟩

/-! ## Writes within one register (R8, R10, R12, R439) -/

theorem mergeBits_mod (cur lo n v : Nat) : mergeBits cur lo n (v % 2 ^ n) = mergeBits cur lo n v := by
  unfold mergeBits
  rw [Nat.mod_mod]

/-- One field of a write: the state as `putField` says, and the error of `fieldErr` where none was found before. -/
theorem writeField_eq (s : State) (x : RegAt) (lo n new : Nat) (r : State × Option Nat) (f : FieldDesc) :
    writeField x lo n new (fun _ => guardOpen s x f.guard) r f =
      (putField s x lo n new r.1 f, r.2.or (fieldErr s x lo n new r.1 f)) := by
  obtain ⟨t, e⟩ := r
  cases hm : meets f.lo f.width lo n with
  | false => simp [writeField, putField, fieldErr, hm]
  | true =>
    cases ha : f.access
    case rw | rwg =>
      cases hg : guardOpen s x f.guard with
      | false => cases e <;> simp [writeField, putField, fieldErr, hm, ha, hg]
      | true => cases hv : accepts (bits new f.lo f.width) f.allow <;> cases e <;> simp [writeField, putField, fieldErr, hm, ha, hg, hv]
    all_goals simp [writeField, putField, fieldErr, hm, ha]

/-- The first error that the fields of a list make, each at the values that those before it leave. -/
def firstErr (s : State) (x : RegAt) (lo n new : Nat) : State → List FieldDesc → Option Nat
  | _, [] => none
  | t, f :: l => (fieldErr s x lo n new t f).or (firstErr s x lo n new (putField s x lo n new t f) l)

section
variable (s : State) (x : RegAt) (lo n new : Nat)

theorem firstErr_append (t : State) (l m : List FieldDesc) :
    firstErr s x lo n new t (l ++ m) = (firstErr s x lo n new t l).or (firstErr s x lo n new (l.foldl (putField s x lo n new) t) m) := by
  induction l generalizing t with
  | nil => rfl
  | cons f l ih => simp [firstErr, ih, Option.or_assoc]

theorem firstErr_concat (t : State) (l : List FieldDesc) (f : FieldDesc) :
    firstErr s x lo n new t (l ++ [f]) =
      (firstErr s x lo n new t l).or (fieldErr s x lo n new (l.foldl (putField s x lo n new) t) f) := by
  simp [firstErr_append, firstErr]

variable {s x lo n new}

/-- `noErr` says that there is no first error. -/
theorem firstErr_of_noErr {l : List FieldDesc} (h : noErr s x lo n new l) : firstErr s x lo n new s l = none := by
  induction l using List.reverseRecOn with
  | nil => rfl
  | append_singleton l f ih =>
    rw [firstErr_concat, h l f [] rfl, ih fun pre g post e => h pre g (post ++ [f]) (by simp [e])]
    rfl

/-- The first error is that of the field that makes one after fields that make none. -/
theorem firstErr_split {pre post : List FieldDesc} {f : FieldDesc} {c : Nat} (h : noErr s x lo n new pre)
    (hf : fieldErr s x lo n new (pre.foldl (putField s x lo n new) s) f = some c) : firstErr s x lo n new s (pre ++ f :: post) = some c := by
  rw [firstErr_append, firstErr_of_noErr h, firstErr, hf]
  rfl

end

/-- All fields of a write: each put in turn, and the first error. -/
theorem foldl_writeField (s : State) (x : RegAt) (lo n new : Nat) (l : List FieldDesc) (t : State) (e : Option Nat) :
    l.foldl (fun r f => writeField x lo n new (fun _ => guardOpen s x f.guard) r f) (t, e) =
      (l.foldl (putField s x lo n new) t, e.or (firstErr s x lo n new t l)) := by
  induction l generalizing t e with
  | nil => simp [firstErr]
  | cons f l ih => rw [List.foldl_cons, writeField_eq, ih, List.foldl_cons, firstErr, Option.or_assoc]

/-- A write of all fields puts each, and reports the first error where there is one. -/
theorem writeFields_eq (s : State) (w : Writer) (x : RegAt) (off bytes lo new : Nat) :
    writeFields s w x off bytes lo new [] =
      (firstErr s x lo (8 * bytes) new s x.desc.fields).elim (x.desc.fields.foldl (putField s x lo (8 * bytes) new) s)
        (regError (x.desc.fields.foldl (putField s x lo (8 * bytes) new) s) w off bytes true) := by
  have zip : x.desc.fields.zip (x.desc.fields.map fun f => guardOpen s x f.guard) =
      x.desc.fields.map fun f => (f, guardOpen s x f.guard) := by
    exact List.map_prod_left_eq_zip.symm
  have fold := foldl_writeField s x lo (8 * bytes) new x.desc.fields s none
  simp only [writeFields, zip, List.foldl_map, List.contains_nil, Bool.false_eq_true, if_false, fold, Option.none_or]
  cases firstErr s x lo (8 * bytes) new s x.desc.fields <;> rfl

/-- A register that only the writers of R32 write refuses another writer. -/
theorem writeReg_of_not_privileged {s : State} {w : Writer} {x : RegAt} (off bytes lo new : Nat) (hp : privOnly x.desc.base = true)
    (hw : w.privileged = false) : writeReg s w x off bytes lo new = regError s w off bytes true 5 := by
  unfold writeReg
  rw [hp, hw]
  rfl

/-- A register that holds settings is written field by field. -/
theorem writeReg_of_settingsOnly {s : State} {w : Writer} {x : RegAt} (off bytes lo new : Nat)
    (hp : privOnly x.desc.base = false ∨ w.privileged = true) (hs : settingsOnly x.desc.base = true) :
    writeReg s w x off bytes lo new = writeFields s w x off bytes lo new [] := by
  have may : (privOnly x.desc.base && !w.privileged) = false := by rcases hp with h | h <;> simp [h]
  unfold writeReg
  simp only [may, Bool.false_eq_true, if_false]
  split
  case h_34 => rfl
  all_goals
    rename_i hb
    rw [hb] at hs
    exact absurd hs (by decide)

/-! ## Reads of one register (R10, R12, R14, R15) -/

/-- A read of `n` bits of a register that shows `v` returns those bits of it, and clears the RC fields that it meets. -/
theorem readAt_of_regShown {s t : State} {x : RegAt} {v : Nat} (a n : Nat) (h : regShown (regRefresh s x) x = (v, t)) :
    readAt s x a n = (bits v (x.bitOf a) n, clearRead t x (x.bitOf a) n) := by
  unfold readAt
  rw [h]

/-! ## Accesses by their length (R14) -/

theorem accessOk_iff (off n : Nat) : accessOk off n = true ↔ (n = 4 ∨ n = 8) ∧ off % n = 0 := by simp [accessOk]

/-- The low 32 bits of an 8-byte read and the rest of it, read one after the other. -/
def joinDwords (l h : Nat × State) : Nat × State := (l.1 + 2 ^ 32 * h.1, h.2)

section
variable {s : State} {w : Writer} {off : Nat} {v a : Nat}

theorem regRead_of_not_accessOk {n : Nat} (h : accessOk off n = false) : regRead s w off n =
    (2 ^ (32 * max 1 ((n + 3) / 4)) - 1, regError s (actor s w) off n false 1) := by
  simp [regRead, h]

theorem regRead_four (h : accessOk off 4 = true) : regRead s w off 4 = viewRead s (actor s w) off := by
  simp [regRead, h]

/-- Both dwords of an 8-byte read stand side by side in the full map. -/
theorem regRead_eight_addr (h : accessOk off 8 = true) (hl : viewOf s (actor s w) off = .addr a)
    (hh : viewOf s (actor s w) (off + 4) = .addr (a + 4)) : regRead s w off 8 = readQword s a := by
  simp [regRead, h, hl, hh]

theorem regRead_eight_apart (h : accessOk off 8 = true)
    (hv : ∀ a, viewOf s (actor s w) off = .addr a → viewOf s (actor s w) (off + 4) ≠ .addr (a + 4)) :
    regRead s w off 8 = joinDwords (viewRead s (actor s w) off) (viewRead (viewRead s (actor s w) off).2 (actor s w) (off + 4)) := by
  cases hl : viewOf s (actor s w) off with
  | addr a => simp [regRead, h, hl, hv a hl, joinDwords]
  | _ => simp [regRead, h, hl, joinDwords]

theorem regWrite_of_not_accessOk {n : Nat} (h : accessOk off n = false) :
    regWrite s w off n v = regError s (actor s w) off n true 1 := by
  simp [regWrite, h]

theorem regWrite_of_readOnlyView {n : Nat} (h : accessOk off n = true) (hr : readOnlyView s (actor s w) off = true) :
    regWrite s w off n v = s := by
  simp [regWrite, h, hr]

theorem viewRead_addr (h : viewOf s w off = .addr a) : viewRead s w off = readDword s a := by
  simp [viewRead, h]

theorem viewWrite_addr (h : viewOf s w off = .addr a) : viewWrite s w off v = writeDword s w a off v := by
  simp [viewWrite, h]

theorem viewRead_zero (h : viewOf s w off = .zero) : viewRead s w off = (0, s) := by simp [viewRead, h]
theorem viewWrite_zero (h : viewOf s w off = .zero) : viewWrite s w off v = s := by simp [viewWrite, h]

theorem viewRead_none (h : viewOf s w off = .none) : viewRead s w off = (0, s) := by simp [viewRead, h]
theorem viewWrite_none (h : viewOf s w off = .none) : viewWrite s w off v = regError s w off 4 true (outsideCause w off) := by
  simp [viewWrite, h]

section
variable {p f r : Nat}

theorem viewRead_table (h : viewOf s w off = .table p f r) : viewRead s w off = (tableRead s p f r, s) := by simp [viewRead, h]
theorem viewWrite_table (h : viewOf s w off = .table p f r) : viewWrite s w off v = tableWrite s p f r v := by simp [viewWrite, h]

theorem viewRead_pba (h : viewOf s w off = .pba p f r) : viewRead s w off = (pbaRead s p f r, s) := by simp [viewRead, h]
theorem viewWrite_pba (h : viewOf s w off = .pba p f r) : viewWrite s w off v = s := by simp [viewWrite, h]

theorem viewRead_vfId (h : viewOf s w off = .vfId) (hs : sliceOf w = some (p, f)) :
    viewRead s w off = (bits (vfId s p f) (8 * (off % 8)) 32, s) := by simp [viewRead, h, hs]
theorem viewWrite_vfId (h : viewOf s w off = .vfId) : viewWrite s w off v = s := by simp [viewWrite, h]

theorem viewRead_vfInval (h : viewOf s w off = .vfInval) (hs : sliceOf w = some (p, f)) :
    viewRead s w off = (vfInvalRead s p f, s) := by simp [viewRead, h, hs]
/-- Bit 24 of a dword is bit 24 of the value that it is the low half of. -/
theorem viewWrite_vfInval (h : viewOf s w off = .vfInval) (hs : sliceOf w = some (p, f)) :
    viewWrite s w off (v % 2 ^ 32) = if v.testBit 24 then sliceSet s p f (sliceGet s p f % 256) else s := by
  have bit : bitAt (v % 2 ^ 32) 24 = v.testBit 24 := by rw [bitAt, Nat.testBit_mod_two_pow]; rfl
  simp only [viewWrite, h, hs, bit]

end

theorem regWrite_four (h : accessOk off 4 = true) (hr : readOnlyView s (actor s w) off = false) :
    regWrite s w off 4 v = viewWrite s (actor s w) off (v % 2 ^ 32) := by
  cases hl : viewOf s (actor s w) off with
  | addr a => simp [regWrite, h, hr, hl, viewWrite_addr hl]
  | _ => simp [regWrite, h, hr, hl]

theorem regWrite_eight_addr (h : accessOk off 8 = true) (hr : readOnlyView s (actor s w) off = false)
    (hl : viewOf s (actor s w) off = .addr a) (hh : viewOf s (actor s w) (off + 4) = .addr (a + 4)) :
    regWrite s w off 8 v = writeFull s (actor s w) a off 8 v := by
  simp [regWrite, h, hr, hl, hh]

theorem regWrite_eight_apart (h : accessOk off 8 = true) (hr : readOnlyView s (actor s w) off = false)
    (hv : ∀ a, viewOf s (actor s w) off = .addr a → viewOf s (actor s w) (off + 4) ≠ .addr (a + 4)) :
    regWrite s w off 8 v =
      viewWrite (viewWrite s (actor s w) off (v % 2 ^ 32)) (actor s w) (off + 4) (v / 2 ^ 32) := by
  cases hl : viewOf s (actor s w) off with
  | addr a => simp [regWrite, h, hr, hl, hv a hl, viewWrite_addr hl]
  | _ => simp [regWrite, h, hr, hl]

end

/-! ## One register, two registers, none (R14, R26) -/

section
variable {s : State} {w : Writer} {off : Nat} {v a : Nat}

theorem readQword_same {x y : RegAt} (hx : regFind a = some x) (hy : regFind (a + 4) = some y) (e : x.addr = y.addr) :
    readQword s a = readAt s x a 64 := by
  simp [readQword, hx, hy, e]

theorem readQword_apart (h : ∀ x y, regFind a = some x → regFind (a + 4) = some y → x.addr ≠ y.addr) :
    readQword s a = joinDwords (readDword s a) (readDword (readDword s a).2 (a + 4)) := by
  cases hx : regFind a with
  | none => simp [readQword, hx, joinDwords]
  | some x =>
    cases hy : regFind (a + 4) with
    | none => simp [readQword, hx, hy, joinDwords]
    | some y => simp [readQword, hx, hy, h x y hx hy, joinDwords]

/-- The value of a write counts at its length. -/
theorem writeAt_mod {x : RegAt} (bytes : Nat) : writeAt s w x a off bytes (v % 2 ^ (8 * bytes)) = writeAt s w x a off bytes v := by
  simp only [writeAt, mergeBits_mod]

theorem writeDword_some {x : RegAt} (hx : regFind a = some x) : writeDword s w a off v = writeAt s w x a off 4 v := by
  simp [writeDword, hx]

theorem writeDword_none (h : regFind a = none) : writeDword s w a off v = regError s w off 4 true 2 := by
  simp [writeDword, h]

theorem readDword_some {x : RegAt} (hx : regFind a = some x) : readDword s a = readAt s x a 32 := by
  simp [readDword, hx]

theorem readDword_none (h : regFind a = none) : readDword s a = (0, s) := by
  simp [readDword, h]

theorem writeFull_eight_same {x y : RegAt} (hx : regFind a = some x) (hy : regFind (a + 4) = some y) (e : x.addr = y.addr) :
    writeFull s w a off 8 v = writeAt s w x a off 8 v := by
  simp [writeFull, hx, hy, e]

theorem writeFull_eight_none (hl : regFind a = none) (hh : regFind (a + 4) = none) :
    writeFull s w a off 8 v = regError s w off 8 true 2 := by
  simp [writeFull, hl, hh]

theorem writeFull_eight_apart_left {x : RegAt} (hx : regFind a = some x) (h : ∀ y, regFind (a + 4) = some y → y.addr ≠ x.addr) :
    writeFull s w a off 8 v =
      writeDword (writeDword s w a off (v % 2 ^ 32)) w (a + 4) (off + 4) (v / 2 ^ 32) := by
  cases hy : regFind (a + 4) with
  | none => simp [writeFull, hx, hy]
  | some y => simp [writeFull, hx, hy, (h y hy).symm]

theorem writeFull_eight_apart_right {y : RegAt} (hl : regFind a = none) (hy : regFind (a + 4) = some y) :
    writeFull s w a off 8 v =
      writeDword (writeDword s w a off (v % 2 ^ 32)) w (a + 4) (off + 4) (v / 2 ^ 32) := by
  simp [writeFull, hl, hy]

/-- A read that stands in one register is one read of it. -/
theorem regRead_standsIn {n : Nat} {x : RegAt} (h : standsIn s w off n a x) : regRead s w off n = readAt s x a (8 * n) := by
  obtain ⟨ok, hv, hx, hh⟩ := h
  rcases ((accessOk_iff off n).1 ok).1 with rfl | rfl
  · rw [regRead_four ok, viewRead_addr hv, readDword_some hx]
  · obtain ⟨hv', y, hy, e⟩ := hh rfl
    rw [regRead_eight_addr ok hv hv', readQword_same hx hy e.symm]

/-- A write that stands in one register is one write of it. -/
theorem regWrite_standsIn {n : Nat} {x : RegAt} (h : standsIn s w off n a x) (hr : readOnlyView s (actor s w) off = false) :
    regWrite s w off n v = writeAt s (actor s w) x a off n v := by
  obtain ⟨ok, hv, hx, hh⟩ := h
  rcases ((accessOk_iff off n).1 ok).1 with rfl | rfl
  · rw [regWrite_four ok hr, viewWrite_addr hv, writeDword_some hx]
    exact writeAt_mod 4
  · obtain ⟨hv', y, hy, e⟩ := hh rfl
    rw [regWrite_eight_addr ok hr hv hv', writeFull_eight_same hx hy e.symm]

end

/-! ## The commands -/

theorem exec_registerWrite_eq {s t : State} {w : Writer} {off : BitVec 26} {n : BitVec 4} {v : BitVec 64}
    (h : regWrite s w off.toNat n.toNat v.toNat = t) : exec (.registerWrite w off n v) s = .next t := congrArg Host.Outcome.next h

theorem exec_readClear_eq {s t : State} {w : Writer} {off : BitVec 26} {n : BitVec 4} {k : Nat}
    (h : regRead s w off.toNat n.toNat = (k, t)) : exec (.readClear w off n) s = .next (emitOut t (.regRead w k n.toNat)) := by
  show Host.Outcome.next (emitOut (regRead s w off.toNat n.toNat).2 (.regRead w (regRead s w off.toNat n.toNat).1 n.toNat)) = _
  rw [h]

/-- Settles O27. An access within one register is one `readAt` or `writeAt` of it, and one to two dwords is made one after the other; the rest
is what those do: the fields put in turn with the first error, what a register shows, and what each view answers. -/
theorem registerAccesses : Obligations.RegisterAccesses := by
  refine ⟨fun s w off n v x a hx => ?_, fun s w off n x a hx => ?_, fun s w off v ok => ?_, fun s w off n v => ?_, fun s w off v al => ?_⟩
  · intro u lo k new put err b go hr
    have write {t : State} (h : writeReg s u x off.toNat n.toNat lo new = t) : go t :=
      exec_registerWrite_eq ((regWrite_standsIn hx hr).trans h)
    refine ⟨fun hp hu => write (writeReg_of_not_privileged _ _ _ _ hp hu), fun hp => ⟨fun hs => ?_, fun _ => write rfl⟩⟩
    have fields := (writeReg_of_settingsOnly off.toNat n.toNat lo new hp hs).trans (writeFields_eq s u x off.toNat n.toNat lo new)
    refine ⟨fun hn => write ?_, fun pre f post c e hn hf => write ?_⟩
    · rw [fields, firstErr_of_noErr hn]
      rfl
    · rw [fields]
      rw [show firstErr s x lo (8 * n.toNat) new s x.desc.fields = some c from e ▸ firstErr_split hn hf]
      rfl
  · intro u k lo shut go
    have read {v : Nat} {t : State} (h : regShown u x = (v, t)) : go t v :=
      exec_readClear_eq ((regRead_standsIn hx).trans (readAt_of_regShown a k h))
    refine ⟨fun ha => read ?_, fun ha hs => read ?_, fun ha hs => read ?_⟩
    · simp [regShown, ha]
    · simp only [regShown, ha, Bool.false_eq_true, if_false]
      exact if_pos hs
    · simp only [regShown, ha, Bool.false_eq_true, if_false]
      exact if_neg (ne_true_of_eq_false hs)
  · intro u both
    refine ⟨fun a hl hh hx => exec_readClear_eq ((regRead_eight_addr ok hl hh).trans (readQword_apart hx)),
      fun hv => exec_readClear_eq (regRead_eight_apart ok hv), fun hr => ⟨fun a hl hh => ?_, fun a hl hh => ?_, fun hl => ?_⟩⟩
    · have write := regWrite_eight_addr (v := v.toNat) ok hr hl hh
      exact ⟨fun hx hy => exec_registerWrite_eq (write.trans (writeFull_eight_none hx hy)),
        fun x hx hy => exec_registerWrite_eq (write.trans (writeFull_eight_apart_left hx hy)),
        fun y hx hy => exec_registerWrite_eq (write.trans (writeFull_eight_apart_right hx hy))⟩
    · have apart : ∀ b, viewOf s u off.toNat = .addr b → viewOf s u (off.toNat + 4) ≠ .addr (b + 4) := by
        intro b hb
        rw [hl] at hb
        cases hb
        exact hh
      rw [← viewWrite_addr hl]
      exact exec_registerWrite_eq (regWrite_eight_apart ok hr apart)
    · exact exec_registerWrite_eq (regWrite_eight_apart ok hr fun b hb => absurd hb (hl b))
  · intro u
    exact ⟨fun bad => ⟨exec_registerWrite_eq (regWrite_of_not_accessOk bad), exec_readClear_eq (regRead_of_not_accessOk bad)⟩,
      fun ok hr => exec_registerWrite_eq (regWrite_of_readOnlyView ok hr)⟩
  · intro u rd4 wr4
    have ok : accessOk off.toNat 4 = true := (accessOk_iff _ _).2 ⟨.inl rfl, al⟩
    have read {k : Nat} (h : viewRead s u off.toNat = (k, s)) : rd4 k := exec_readClear_eq ((regRead_four ok).trans h)
    have write {t : State} (h : viewWrite s u off.toNat (v.toNat % 2 ^ 32) = t) : wr4 t :=
      fun hr => exec_registerWrite_eq ((regWrite_four ok hr).trans h)
    exact ⟨fun a hv hx => ⟨read ((viewRead_addr hv).trans (readDword_none hx)), write ((viewWrite_addr hv).trans (writeDword_none hx))⟩,
      fun hv => ⟨read (viewRead_none hv), write (viewWrite_none hv)⟩, fun hv => ⟨read (viewRead_zero hv), write (viewWrite_zero hv)⟩,
      fun p f r hv => ⟨read (viewRead_table hv), write (viewWrite_table hv)⟩, fun p f r hv => ⟨read (viewRead_pba hv), write (viewWrite_pba hv)⟩,
      fun p f hs => ⟨fun hv => ⟨read (viewRead_vfId hv hs), write (viewWrite_vfId hv)⟩,
        fun hv => ⟨read (viewRead_vfInval hv hs), write (viewWrite_vfInval hv hs)⟩⟩⟩

end Sys2Proof.Machine
end

section
/-!
PROOFS. The commands to a function (R29 to R32): O29.
-/
namespace Sys2Proof.Machine
open Sys2Proof

/-! ## FUNC_CMD (R30 to R32) -/

section
variable {s t : State} {w : Writer} {n cmd seq : Nat} {img : Program}

theorem funcCmd_of_not_privileged (hw : w.privileged = false) : funcCmd s w n cmd seq img = regError s w (0x1004 + 16 * n) 4 true 5 := by
  simp [funcCmd, hw]

theorem funcCmd_none (hw : w.privileged = true) : funcCmd s w n 0 seq img = s := by
  simp [funcCmd, hw]

/-- The command's own SEQ and entry are checked first (R30). -/
theorem funcCmd_of_stale (hw : w.privileged = true) (hc : cmd ≠ 0) (h : 463 ≤ n ∨ seq ≠ rd s (Reg.GLOBAL.FUNC_DIAG.SEQ n)) :
    funcCmd s w n cmd seq img = rejectCmd s n := by
  simp only [funcCmd, hw, hc, h, Bool.not_true, Bool.false_eq_true, if_false, if_true]

section
variable (hw : w.privileged = true) (hc : cmd ≠ 0) (hn : n < 463) (hs : seq = rd s (Reg.GLOBAL.FUNC_DIAG.SEQ n))
include hw hc hn hs

theorem funcCmd_of_current : funcCmd s w n cmd seq img =
    ((cmdEffect (wr s (Reg.GLOBAL.FUNC_DIAG.SEQ n) (seq + 1)) n cmd img).elim (rejectCmd s n) fun t => trace t 1 1 0x0200 n cmd) := by
  have fresh : ¬ (463 ≤ n ∨ seq ≠ rd s (Reg.GLOBAL.FUNC_DIAG.SEQ n)) := by omega
  simp only [funcCmd, hw, hc, fresh, Bool.not_true, Bool.false_eq_true, if_false]
  cases cmdEffect (wr s (Reg.GLOBAL.FUNC_DIAG.SEQ n) (seq + 1)) n cmd img <;> rfl

theorem funcCmd_of_effect (h : cmdEffect (wr s (Reg.GLOBAL.FUNC_DIAG.SEQ n) (seq + 1)) n cmd img = some t) :
    funcCmd s w n cmd seq img = trace t 1 1 0x0200 n cmd := by
  rw [funcCmd_of_current hw hc hn hs, h]
  rfl

theorem funcCmd_of_no_effect (h : cmdEffect (wr s (Reg.GLOBAL.FUNC_DIAG.SEQ n) (seq + 1)) n cmd img = none) :
    funcCmd s w n cmd seq img = rejectCmd s n := by
  rw [funcCmd_of_current hw hc hn hs, h]
  rfl

end

end

/-! ### The rows of R29 -/

section
variable {u : State} {n : Nat} {img : Program}

theorem cmdEffect_start (h : fnState u n = 0) : cmdEffect u n 1 img = some (startFn u n img) := by simp [cmdEffect, h]

theorem cmdEffect_start_none (h : fnState u n ≠ 0) : cmdEffect u n 1 img = none := by simp [cmdEffect, h]

theorem cmdEffect_abandon (h : fnState u n = 1) : cmdEffect u n 2 img = some (abandon u n) := by simp [cmdEffect, h]

theorem cmdEffect_stop (h : fnState u n = 2) (hd : fnDependents u n = []) : cmdEffect u n 2 img = some (stopFn u n) := by
  simp [cmdEffect, h, hd]

theorem cmdEffect_stop_none (h : fnState u n ≠ 1) (hd : fnState u n ≠ 2 ∨ fnDependents u n ≠ []) : cmdEffect u n 2 img = none := by
  have no : ¬ (fnState u n = 2 ∧ fnDependents u n = []) := fun a => hd.elim (· a.1) (· a.2)
  simp [cmdEffect, h, no]

theorem cmdEffect_ackHost (h : fnState u n = 4) : cmdEffect u n 3 img = some (backToStopped u n) := by simp [cmdEffect, h]

theorem cmdEffect_ackHost_none (h : fnState u n ≠ 4) : cmdEffect u n 3 img = none := by simp [cmdEffect, h]

theorem cmdEffect_retire (h : fnState u n = 0 ∨ fnState u n = 2) (hr : fnRetirable n = true) (hd : fnDependents u n = []) :
    cmdEffect u n 4 img = some (retireFn u n false) := by
  simp [cmdEffect, h, hr, hd]

theorem cmdEffect_retire_none (h : fnState u n ≠ 0 ∧ fnState u n ≠ 2 ∨ fnRetirable n = false ∨ fnDependents u n ≠ []) :
    cmdEffect u n 4 img = none := by
  rcases h with ⟨h0, h2⟩ | hr | hd
  · simp [cmdEffect, h0, h2]
  · simp [cmdEffect, hr]
  · simp [cmdEffect, hd]

theorem cmdEffect_reinstate (h : fnState u n = 5) : cmdEffect u n 5 img = some (backToStopped u n) := by simp [cmdEffect, h]

theorem cmdEffect_reinstate_none (h : fnState u n ≠ 5) : cmdEffect u n 5 img = none := by simp [cmdEffect, h]

end

/-- Settles O29: the writer, the entry and SEQ decide first, and then the row of R29 for the command and the state. -/
theorem functionCommands : Obligations.FunctionCommands := by
  intro s w n q img f u rejected
  refine ⟨fun hw => ?_, fun hw => congrArg Host.Outcome.next (funcCmd_none hw), fun hw hn hs => ?_, fun hw stale => ?_⟩
  · have refuses {cmd : Nat} {i : Program} : (.next (funcCmd s w f cmd q.toNat i) : Host.Outcome State Fault Refusal) =
        .next (regError s w (0x1004 + 16 * f) 4 true 5) := congrArg _ (funcCmd_of_not_privileged hw)
    simp only [List.forall_mem_cons, List.not_mem_nil, false_implies, implies_true, and_true]
    exact ⟨refuses, refuses, refuses, refuses, refuses, refuses⟩
  · have does {cmd : Nat} {i : Program} {t : State} (hc : cmd ≠ 0) (h : cmdEffect u f cmd i = some t) :
        (.next (funcCmd s w f cmd q.toNat i) : Host.Outcome State Fault Refusal) = .next (trace t 1 1 0x0200 f cmd) :=
      congrArg _ (funcCmd_of_effect hw hc hn hs h)
    have rejects {cmd : Nat} {i : Program} (hc : cmd ≠ 0) (h : cmdEffect u f cmd i = none) :
        (.next (funcCmd s w f cmd q.toNat i) : Host.Outcome State Fault Refusal) = rejected :=
      congrArg _ (funcCmd_of_no_effect hw hc hn hs h)
    exact ⟨fun h => does (by decide) (cmdEffect_start h), fun h => does (by decide) (cmdEffect_abandon h),
      fun h hd => does (by decide) (cmdEffect_stop h hd), fun h => does (by decide) (cmdEffect_ackHost h),
      fun h hr hd => does (by decide) (cmdEffect_retire h hr hd), fun h => does (by decide) (cmdEffect_reinstate h),
      fun h => rejects (by decide) (cmdEffect_start_none h), fun h hd => rejects (by decide) (cmdEffect_stop_none h hd),
      fun h => rejects (by decide) (cmdEffect_ackHost_none h), fun h => rejects (by decide) (cmdEffect_retire_none h),
      fun h => rejects (by decide) (cmdEffect_reinstate_none h)⟩
  · have rejects {cmd : Nat} {i : Program} (hc : cmd ≠ 0) :
        (.next (funcCmd s w f cmd q.toNat i) : Host.Outcome State Fault Refusal) = rejected := congrArg _ (funcCmd_of_stale hw hc stale)
    simp only [List.forall_mem_cons, List.not_mem_nil, false_implies, implies_true, and_true]
    exact ⟨rejects (by decide), rejects (by decide), rejects (by decide), rejects (by decide), rejects (by decide)⟩

end Sys2Proof.Machine
end

section
/-!
PROOFS. The dry-fit and the other events in a function's life (R29 to R37): O31.
-/
namespace Sys2Proof.Machine
open Sys2Proof

/-! ## The checks of a dry-fit (R34) -/

section
variable {s : State} {n : Nat} {hw : Bool} {ecc : Option (BitVec 23)}

theorem dryFit_of_not_settingsOk (h : settingsOk s n = false) : dryFit s n hw ecc = dryFitFails s n 2 0 0 := by
  simp [dryFit, h]

theorem dryFit_of_not_depsOk (hs : settingsOk s n = true) (hd : depsOk s n = false) :
    dryFit s n hw ecc = if n ∈ s.fn.listed then s else dryFitFails s n 3 0 0 := by
  simp [dryFit, hs, hd]

theorem dryFit_of_contested {res holder : Nat} (hs : settingsOk s n = true) (hd : depsOk s n = true)
    (hc : findKey s.fn.claim n = some (some (res, holder))) : dryFit s n hw ecc = dryFitFails s n 1 res holder := by
  simp [dryFit, hs, hd, hc]

theorem dryFit_of_granted (hs : settingsOk s n = true) (hd : depsOk s n = true)
    (hc : findKey s.fn.claim n = none ∨ findKey s.fn.claim n = some none) : dryFit s n hw ecc = typeCheck s n hw ecc := by
  rcases hc with hc | hc <;> simp [dryFit, hs, hd, hc]

/-! ### The self-test and what the type adds -/

theorem typeCheck_of_fault : typeCheck s n true ecc = dryFitFails s n 7 0 0 := by simp only [typeCheck, if_true]

theorem typeCheck_plain (h2 : fnType n ≠ 2) (h4 : fnType n ≠ 4) : typeCheck s n false ecc = enterRunning s n := by
  simp [typeCheck, h2, h4]

theorem typeCheck_swarm (h : fnType n = 4) : typeCheck s n false ecc = swarmCheck s n := by
  simp [typeCheck, h]

section
variable (h : fnType n = 2)
include h

theorem typeCheck_cluster_wait (hw : physIn s (fnInst n) 1 ≠ [] ∨ procAway s (4 + fnInst n) = true ∨ procAway s 0 = true) :
    typeCheck s n false ecc = s := by
  rcases hw with hw | hw | hw <;> simp [typeCheck, h, hw]

section
variable (ht : physIn s (fnInst n) 1 = []) (hc : procAway s (4 + fnInst n) = false) (h0 : procAway s 0 = false)
include ht hc h0

theorem typeCheck_cluster_few (hf : (physIn s (fnInst n) 2).length < 128) : typeCheck s n false ecc = dryFitFails s n 7 0 0 := by
  simp [typeCheck, h, ht, hc, h0, hf]

/-- With its cells tested and 128 of them usable, a CLUSTER loads its cell image. -/
theorem typeCheck_cluster_load (hf : 128 ≤ (physIn s (fnInst n) 2).length) :
    typeCheck s n false ecc =
      (let x := loaderOutcome true (fnProgram s n)
       let t := loaderNote s n x.1 x.2
       if x.1 ≠ 0 then dryFitFails t n 4 0 0 else imageReloaded (enterRunning t n) (fnInst n) ecc) := by
  simp [typeCheck, h, ht, hc, h0, Nat.not_lt.2 hf]

end
end

/-! ### The finish module of a SWARM (R143, R196) -/

theorem swarmCheck_of_not_ok (h : ¬ (membersReach s (fnInst n) = true ∧ stockFinishOk s (fnInst n) = true)) :
    swarmCheck s n = dryFitFails s n 2 0 0 := by
  simp only [swarmCheck]
  rw [if_pos]
  simpa [Classical.or_iff_not_imp_left] using h

section
variable (h : membersReach s (fnInst n) = true ∧ stockFinishOk s (fnInst n) = true)
include h

theorem swarmCheck_no_module (hk : rd s (Reg.SWARM.SWARM_DEF.FINISH_KIND (fnInst n)) ≠ 2) :
    swarmCheck s n = if stateRangeOk s (fnInst n) = true then enterRunning s n else dryFitFails s n 2 0 0 := by
  cases hr : stateRangeOk s (fnInst n) <;> simp [swarmCheck, h.1, h.2, hk, hr]

section
variable (hk : rd s (Reg.SWARM.SWARM_DEF.FINISH_KIND (fnInst n)) = 2)
include hk

theorem swarmCheck_wait (hs : stockSigned (fnProgram s n) = true) (hp : procAway s 0 = true) : swarmCheck s n = s := by
  simp [swarmCheck, h.1, h.2, hk, hs, hp]

section
variable (hs : stockSigned (fnProgram s n) = false ∨ procAway s 0 = false)
include hs

theorem swarmCheck_load_fails (hx : (loaderOutcome false (fnProgram s n)).1 ≠ 0) : swarmCheck s n =
    dryFitFails (loaderNote s n (loaderOutcome false (fnProgram s n)).1 (loaderOutcome false (fnProgram s n)).2) n 4 0 0 := by
  rcases hs with hs | hs <;> simp [swarmCheck, h.1, h.2, hk, hs, hx]

theorem swarmCheck_no_slots (hx : (loaderOutcome false (fnProgram s n)).1 = 0)
    (hr : finishRun s (finishSpan (fnImage s n).codeBytes) = none) : swarmCheck s n = dryFitFails (loaderNote s n 11 0) n 5 0 0 := by
  rcases hs with hs | hs <;> simp [swarmCheck, h.1, h.2, hk, hs, hx, hr]

theorem swarmCheck_loaded {a : Nat} (hx : (loaderOutcome false (fnProgram s n)).1 = 0)
    (hr : finishRun s (finishSpan (fnImage s n).codeBytes) = some a) : swarmCheck s n =
      if stateRangeOk s (fnInst n) = true then enterRunning (finishLoad (loaderNote s n 0 0) (fnInst n) a (fnImage s n)) n
      else dryFitFails (loaderNote s n 0 0) n 2 0 0 := by
  cases ho : stateRangeOk s (fnInst n) <;> rcases hs with hs | hs <;> simp [swarmCheck, h.1, h.2, hk, hs, hx, hr, ho]

end
end
end
end

/-! ## The other events of R29 -/

section
variable {s : State} {n : BitVec 9}

section
variable {hw bad : Bool} {a : BitVec 23}

theorem exec_dryFitComplete : exec (.dryFitComplete n hw bad a) s =
    .next (if n.toNat < 463 ∧ dryFitOpen s n.toNat = true then dryFit s n.toNat hw (if bad = true then some a else none) else s) := rfl

theorem exec_dryFitComplete_open (hn : n.toNat < 463) (ho : dryFitOpen s n.toNat = true) :
    exec (.dryFitComplete n hw bad a) s = .next (dryFit s n.toNat hw (if bad = true then some a else none)) := by
  rw [exec_dryFitComplete, if_pos ⟨hn, ho⟩]

theorem exec_dryFitComplete_shut (h : 463 ≤ n.toNat ∨ dryFitOpen s n.toNat = false) :
    exec (.dryFitComplete n hw bad a) s = .next s := by
  rw [exec_dryFitComplete, if_neg]
  rintro ⟨hn, ho⟩
  exact h.elim (by omega) (by simp [ho])

end

theorem exec_dryFitTimeout : exec (.dryFitTimeout n) s =
    .next (if fnState s n.toNat = 1 ∧ (!dryFitOpen s n.toNat) = true then dryFitFails s n.toNat 8 0 0 else s) := rfl

theorem exec_dryFitTimeout_due (h : fnState s n.toNat = 1) (ho : dryFitOpen s n.toNat = false) :
    exec (.dryFitTimeout n) s = .next (dryFitFails s n.toNat 8 0 0) := by
  rw [exec_dryFitTimeout, if_pos ⟨h, by simp [ho]⟩]

theorem exec_dryFitTimeout_early (h : fnState s n.toNat ≠ 1 ∨ dryFitOpen s n.toNat = true) :
    exec (.dryFitTimeout n) s = .next s := by
  rw [exec_dryFitTimeout, if_neg]
  rintro ⟨h1, ho⟩
  exact h.elim (· h1) (by simpa using ho)

theorem exec_stopDrainComplete : exec (.stopDrainComplete n) s =
    .next (if fnState s n.toNat = 3 ∧ drained s n.toNat = true then reachStopped s n.toNat false else s) := rfl

theorem exec_stopDrainComplete_done (h : fnState s n.toNat = 3) (hd : drained s n.toNat = true) :
    exec (.stopDrainComplete n) s = .next (reachStopped s n.toNat false) := by
  rw [exec_stopDrainComplete, if_pos ⟨h, hd⟩]

theorem exec_stopDrainComplete_wait (h : fnState s n.toNat ≠ 3 ∨ drained s n.toNat = false) :
    exec (.stopDrainComplete n) s = .next s := by
  rw [exec_stopDrainComplete, if_neg]
  rintro ⟨h3, hd⟩
  exact h.elim (· h3) (by simp [hd])

/-- The drain limit of function `n` has passed since it entered STOPPING (R33). -/
def stopDue (s : State) (n : Nat) : Bool :=
  match findKey s.fn.stopAt n with
  | some t => decide (t + us (rd s Reg.GLOBAL.STOP_DRAIN_LIMIT.LIMIT_US) ≤ s.now)
  | none => true

theorem stopDue_iff {m : Nat} : stopDue s m = true ↔
    ∀ t, findKey s.fn.stopAt m = some t → t + us (rd s Reg.GLOBAL.STOP_DRAIN_LIMIT.LIMIT_US) ≤ s.now := by
  unfold stopDue
  cases findKey s.fn.stopAt m <;> simp

/-- Function `n` is a HOSTPORT with a function reset that has not completed (R314). -/
def resetsOpen (s : State) (n : Nat) : Bool := fnType n == 1 && s.host.flr.any (fun x => x.1 / 256 == fnInst n)

theorem resetsOpen_iff {m : Nat} : resetsOpen s m = true ↔ fnType m = 1 ∧ ∃ r ∈ s.host.flr, r.1 / 256 = fnInst m := by
  simp [resetsOpen]

theorem exec_stopDrainLimit : exec (.stopDrainLimit n) s =
    .next (if (fnState s n.toNat == 3 && !drained s n.toNat && stopDue s n.toNat && !resetsOpen s n.toNat) = true then
      reachStopped (wr (flushFn s n.toNat) (Reg.GLOBAL.FUNC_DIAG.STOP_FORCED n.toNat) 1) n.toNat true else s) := rfl

theorem exec_stopDrainLimit_forced (h : fnState s n.toNat = 3) (hd : drained s n.toNat = false) (ht : stopDue s n.toNat = true)
    (hr : ¬ resetsOpen s n.toNat = true) : exec (.stopDrainLimit n) s =
      .next (reachStopped (wr (flushFn s n.toNat) (Reg.GLOBAL.FUNC_DIAG.STOP_FORCED n.toNat) 1) n.toNat true) := by
  rw [exec_stopDrainLimit, if_pos]
  simp [h, hd, ht, hr]

theorem exec_stopDrainLimit_wait
    (h : fnState s n.toNat ≠ 3 ∨ drained s n.toNat = true ∨ ¬ stopDue s n.toNat = true ∨ resetsOpen s n.toNat = true) :
    exec (.stopDrainLimit n) s = .next s := by
  rw [exec_stopDrainLimit, if_neg]
  rcases h with h | h | h | h <;> simp [h]

theorem exec_funcPermanentFault : exec (.funcPermanentFault n) s =
    .next (if fnRetirable n.toNat = true ∧ fnState s n.toNat < 5 then retireFn s n.toNat true else s) := rfl

theorem exec_funcPermanentFault_retires (hr : fnRetirable n.toNat = true) (h : fnState s n.toNat < 5) :
    exec (.funcPermanentFault n) s = .next (retireFn s n.toNat true) := by
  rw [exec_funcPermanentFault, if_pos ⟨hr, h⟩]

theorem exec_funcPermanentFault_none (h : fnRetirable n.toNat = false ∨ 5 ≤ fnState s n.toNat) :
    exec (.funcPermanentFault n) s = .next s := by
  rw [exec_funcPermanentFault, if_neg]
  rintro ⟨hr, hs⟩
  exact h.elim (by simp [hr]) (by omega)

end

/-- Settles O31: a dry-fit ends at the first of the four checks that fails, at a wait, or in RUNNING, and each other event of R29 acts only
where its condition holds. -/
theorem functionProgress : Obligations.FunctionProgress := by
  intro s n hw bad a f i x note go head swarmOk due resets
  have due_iff : stopDue s f = true ↔ due := stopDue_iff
  have resets_iff : resetsOpen s f = true ↔ resets := resetsOpen_iff
  refine ⟨fun hn ho => ?_, exec_dryFitComplete_shut, exec_dryFitTimeout_due, exec_dryFitTimeout_early, exec_stopDrainComplete_done,
    exec_stopDrainComplete_wait, fun h hd ht hr => exec_stopDrainLimit_forced h hd (due_iff.2 ht) (mt resets_iff.1 hr),
    fun h => exec_stopDrainLimit_wait (by rwa [due_iff, resets_iff]), exec_funcPermanentFault_retires, exec_funcPermanentFault_none⟩
  have goes {t : State} (h : dryFit s f hw (if bad = true then some a else none) = t) : go t := h ▸ exec_dryFitComplete_open hn ho
  refine ⟨fun h => goes (dryFit_of_not_settingsOk h), fun h hd hl => goes ((dryFit_of_not_depsOk h hd).trans (if_neg hl)),
    fun h hd hl => goes ((dryFit_of_not_depsOk h hd).trans (if_pos hl)), fun h hd => ⟨fun res holder hc => goes (dryFit_of_contested h hd hc),
      fun hc => ?_⟩⟩
  have checks {t : State} (ht : typeCheck s f hw (if bad = true then some a else none) = t) : go t :=
    goes ((dryFit_of_granted h hd hc).trans ht)
  refine ⟨?_, ?_, ?_, ?_⟩
  · rintro rfl
    exact checks typeCheck_of_fault
  · rintro rfl h2 h4
    exact checks (typeCheck_plain h2 h4)
  · rintro rfl h2
    refine ⟨fun w => checks (typeCheck_cluster_wait h2 w), fun ht hp h0 => ⟨fun hf => checks (typeCheck_cluster_few h2 ht hp h0 hf),
      fun hf hx => ?_, fun hf hx => ?_⟩⟩
    all_goals
      have load := typeCheck_cluster_load (ecc := if bad = true then some a else none) h2 ht hp h0 hf
      have type : (fnType f == 2) = true := by simp [h2]
      simp only [x, note, type] at hx ⊢
    · exact checks (load.trans (if_neg (not_not.2 hx)))
    · exact checks (load.trans (if_pos hx))
  · rintro rfl h4
    have type : (fnType f == 2) = false := by simp [h4]
    have swarm {t : State} (ht : swarmCheck s f = t) : go t := checks ((typeCheck_swarm h4).trans ht)
    refine ⟨fun ok => swarm (swarmCheck_of_not_ok ok), fun ok hk => ⟨fun hr => ?_, fun hr => ?_⟩,
      fun ok hk hs hp => swarm (swarmCheck_wait ok hk hs hp), fun ok hk hs => ?_⟩
    · exact swarm ((swarmCheck_no_module ok hk).trans (if_neg (by simp [i, hr])))
    · exact swarm ((swarmCheck_no_module ok hk).trans (if_pos hr))
    · simp only [x, note, type]
      exact ⟨fun hx => swarm (swarmCheck_load_fails ok hk hs hx), fun hx hh => swarm (swarmCheck_no_slots ok hk hs hx hh),
        fun a hx hh hr => swarm ((swarmCheck_loaded ok hk hs hx hh).trans (if_neg (by simp [i, hr]))),
        fun a hx hh hr => swarm ((swarmCheck_loaded ok hk hs hx hh).trans (if_pos hr))⟩

end Sys2Proof.Machine
end

section
/-!
PROOFS. What the operations leave of the functions' states, and STATE and READY after each command and event (R29, R36): O30.
-/
namespace Sys2Proof.Machine
open Sys2Proof

/-! ## What leaves the functions' states

The states of the functions are FUNC_STATUS and FUNC_DIAG and the lists of `FnState`. An operation that is about packets, links, cells, swarms, events
or records leaves them all: `SameFns a s` says that `s` has those of `a`, and each such operation keeps it. -/

/-- A field of FUNC_STATUS, FUNC_CMD or FUNC_DIAG of a function (R28, R30): byte addresses 0x1000 to 0x2CEF of the map. -/
def ofFunctions (f : Fld) : Prop := 8 * 0x1000 ≤ f.key ∧ f.key < 8 * 0x2CF0

/-- A field of a register above them is none. -/
theorem not_ofFunctions {a lo w r : Nat} {b : Bool} (h : 0x2CF0 ≤ a) : ¬ ofFunctions ⟨8 * a + lo, w, r, b⟩ := by
  unfold ofFunctions
  dsimp only
  omega

/-- `s` has the functions' states of `a`: their lists, and every field of their registers. -/
structure SameFns (a s : State) : Prop where
  fn : s.fn = a.fn
  reg : ∀ f, ofFunctions f → rd s f = rd a f

theorem SameFns.refl (s : State) : SameFns s s := ⟨rfl, fun _ _ => rfl⟩

section
variable {a s t : State}

/-! ### Updates of other parts, choices and folds -/

theorem SameFns.inbox (h : SameFns a s) (x : List (Nat × Packet)) : SameFns a { s with inbox := x } := ⟨h.fn, h.reg⟩
theorem SameFns.outbox (h : SameFns a s) (x : List (Nat × Packet)) : SameFns a { s with outbox := x } := ⟨h.fn, h.reg⟩
theorem SameFns.out (h : SameFns a s) (x : List Output) : SameFns a { s with out := x } := ⟨h.fn, h.reg⟩
theorem SameFns.err (h : SameFns a s) (x : ErrState) : SameFns a { s with err := x } := ⟨h.fn, h.reg⟩
theorem SameFns.sw (h : SameFns a s) (x : SwState) : SameFns a { s with sw := x } := ⟨h.fn, h.reg⟩
theorem SameFns.ext (h : SameFns a s) (x : ExtState) : SameFns a { s with ext := x } := ⟨h.fn, h.reg⟩
theorem SameFns.host (h : SameFns a s) (x : HostState) : SameFns a { s with host := x } := ⟨h.fn, h.reg⟩
theorem SameFns.ep (h : SameFns a s) (x : EpState) : SameFns a { s with ep := x } := ⟨h.fn, h.reg⟩
theorem SameFns.tel (h : SameFns a s) (x : TelState) : SameFns a { s with tel := x } := ⟨h.fn, h.reg⟩
theorem SameFns.link (h : SameFns a s) (x : LinkState) : SameFns a { s with link := x } := ⟨h.fn, h.reg⟩
theorem SameFns.fw (h : SameFns a s) (x : FwState) : SameFns a { s with fw := x } := ⟨h.fn, h.reg⟩
theorem SameFns.cells (h : SameFns a s) (x : CellState) : SameFns a { s with cells := x } := ⟨h.fn, h.reg⟩

theorem SameFns.outbox_cells (h : SameFns a s) (x : List (Nat × Packet)) (y : CellState) : SameFns a { s with outbox := x, cells := y } :=
  ⟨h.fn, h.reg⟩

theorem SameFns.ite {c : Prop} [Decidable c] (h : SameFns a s) (k : SameFns a t) : SameFns a (if c then s else t) := by
  split <;> assumption

theorem SameFns.foldl {β : Type} {f : State → β → State} {l : List β} (h : SameFns a s)
    (hf : ∀ s b, SameFns a s → SameFns a (f s b)) : SameFns a (l.foldl f s) := by
  induction l generalizing s with
  | nil => exact h
  | cons b l ih => exact ih (hf s b h)

/-! ### Registers and outputs -/

theorem sameFns_wr_of {f : Fld} (h : SameFns a s) (v : Nat) (hf : ¬ ofFunctions f) : SameFns a (wr s f v) := by
  refine ⟨h.fn, fun g hg => (rd_wr_ne s v fun e => hf ?_).trans (h.reg g hg)⟩
  unfold ofFunctions at hg ⊢
  rwa [e]

section
variable {x lo w r : Nat} {c : Bool}

theorem sameFns_wr (h : SameFns a s) (v : Nat) (hx : 0x2CF0 ≤ x) : SameFns a (wr s ⟨8 * x + lo, w, r, c⟩ v) :=
  sameFns_wr_of h v (not_ofFunctions hx)

theorem sameFns_wrb (h : SameFns a s) (b : Bool) (hx : 0x2CF0 ≤ x) : SameFns a (wrb s ⟨8 * x + lo, w, r, c⟩ b) := sameFns_wr h _ hx

theorem sameFns_cnt (h : SameFns a s) (n : Nat) (hx : 0x2CF0 ≤ x) : SameFns a (cnt s ⟨8 * x + lo, w, r, c⟩ n) := sameFns_wr h _ hx

end

theorem sameFns_wrs (h : SameFns a s) (l : List (Fld × Nat)) (hl : l.Forall (fun p => ¬ ofFunctions p.1)) : SameFns a (wrs s l) := by
  rw [List.forall_iff_forall_mem] at hl
  induction l generalizing s with
  | nil => exact h
  | cons p l ih => exact ih (sameFns_wr_of h p.2 (hl p (by simp))) fun q hq => hl q (List.mem_cons_of_mem _ hq)

theorem sameFns_bump (h : SameFns a s) (k n : Nat) : SameFns a (bump s k n) := h.tel _
theorem sameFns_emitOut (h : SameFns a s) (o : Output) : SameFns a (emitOut s o) := h.out _
theorem sameFns_hbmWr (h : SameFns a s) (x : Nat) (l : List Byte) : SameFns a (hbmWr s x l) := ⟨h.fn, h.reg⟩
theorem sameFns_offer (h : SameFns a s) (x : Nat) (p : Packet) : SameFns a (offer s x p) :=
  .ite h (h.outbox _)

theorem sameFns_askPage (h : SameFns a s) (e func addr : Nat) (write : Bool) : SameFns a (askPage s e func addr write) := sameFns_emitOut h _

theorem sameFns_dmaWrite (h : SameFns a s) (e func addr : Nat) (data : List Byte) (ring : Nat) (ro : Bool) :
    SameFns a (dmaWrite s e func addr data ring ro) := by
  unfold dmaWrite
  split
  · exact .foldl h fun _ _ k => sameFns_emitOut k _
  · exact .ite (sameFns_askPage (h.host _) _ _ _ _) (h.host _)

theorem sameFns_sendMsix (h : SameFns a s) (port func vector : Nat) : SameFns a (sendMsix s port func vector) := by
  unfold sendMsix
  exact .ite h (.ite (h.host _) (sameFns_emitOut h _))

theorem sameFns_trace (h : SameFns a s) (proc g id a0 a1 : Nat) : SameFns a (trace s proc g id a0 a1) := by
  unfold trace fwLogPut
  exact .ite (sameFns_emitOut (sameFns_wrs h _ (by and_intros <;> exact not_ofFunctions (by omega))) _) h

/-! ### Error reports (R359 to R365) -/

theorem sameFns_logWrites (h : SameFns a s) (k n : Nat) : SameFns a (wrs s (logWrites k n)) :=
  sameFns_wrs h _ (by and_intros <;> exact not_ofFunctions (by omega))

theorem sameFns_logRecord (h : SameFns a s) (n : Nat) : SameFns a (logRecord s n) := by
  unfold logRecord
  dsimp only
  refine sameFns_cnt (.ite (sameFns_wr (sameFns_wr (sameFns_logWrites ?_ _ _) _ (by omega)) _ (by omega))
    (sameFns_wr (sameFns_logWrites ?_ _ _) _ (by omega))) _ (by omega)
  all_goals exact .ite (sameFns_wr (sameFns_logWrites h _ _) _ (by omega)) h

theorem sameFns_countSource (h : SameFns a s) (src cls cause : Nat) : SameFns a (countSource s src cls cause) := by
  unfold countSource
  dsimp only
  refine sameFns_cnt (sameFns_cnt (sameFns_wrs (.ite (sameFns_wrs h _ ?_) h) _ ?_) _ (by omega)) _ (by omega)
  all_goals and_intros <;> exact not_ofFunctions (by omega)

theorem sameFns_ringFull (h : SameFns a s) : SameFns a (ringFull s) := sameFns_wrb h _ (by omega)

theorem sameFns_ringWrite (h : SameFns a s) (n : Nat) : SameFns a (ringWrite s n) := by
  have full : SameFns a (ringFull (wr (dmaWrite s (mgrPort s) 0 (ringAddr s) (leBytes 64 n)) Reg.GLOBAL.ERR_RING_TAIL.TAIL
      (rd s Reg.GLOBAL.ERR_RING_TAIL.TAIL + 1))) := sameFns_ringFull (sameFns_wr (sameFns_dmaWrite h _ _ _ _ _ _) _ (by omega))
  unfold ringWrite
  dsimp only
  exact .ite (sameFns_sendMsix (full.err _) _ _ _) (full.err _)

theorem sameFns_ringPut (h : SameFns a s) (n : Nat) : SameFns a (ringPut s n) := by
  unfold ringPut
  split
  · exact .ite (sameFns_ringWrite h n) (h.err _)
  · exact .ite (sameFns_askPage (h.err _) _ _ _ _) (h.err _)

theorem sameFns_overrunRecord (h : SameFns a s) : SameFns a (overrunRecord s) := by
  have counted := sameFns_countSource h 471 0x12 0
  unfold overrunRecord
  dsimp only
  exact .ite (sameFns_logRecord (sameFns_ringPut (sameFns_wr (sameFns_wr (counted.err _) _ (by omega)) _ (by omega)) _) _) h

theorem sameFns_putRecord (h : SameFns a s) (src : Nat) (e : PendErr) (coalesced : Bool) : SameFns a (putRecord s src e coalesced) := by
  have log {x : ErrState} := sameFns_logRecord ((sameFns_overrunRecord h).err x) (errRecord (overrunRecord s) src e coalesced)
  unfold putRecord
  dsimp only
  exact .ite (sameFns_ringPut log _) ((sameFns_wr (sameFns_cnt log _ (by omega)) _ (by omega)).err _)

theorem sameFns_reportBy {put : State → Nat → PendErr → Bool → State} (hp : ∀ {s}, SameFns a s → ∀ src e c, SameFns a (put s src e c))
    (h : SameFns a s) (src cls cause outcome detA detB : Nat) : SameFns a (reportBy put s src cls cause outcome detA detB) := by
  have counted := sameFns_countSource h src cls cause
  unfold reportBy
  dsimp only
  exact .ite (counted.err _) (hp counted _ _ _)

theorem sameFns_emitRecord (h : SameFns a s) (src : Nat) (e : PendErr) (coalesced : Bool) : SameFns a (emitRecord s src e coalesced) := by
  have put := sameFns_putRecord h src e coalesced
  unfold emitRecord eventsQueued
  dsimp only
  exact .ite put (.ite (sameFns_wr (put.fw _) _ (by omega)) (sameFns_reportBy sameFns_putRecord (sameFns_cnt put _ (by omega)) _ _ _ _ _ _))

theorem sameFns_report (h : SameFns a s) (src cls cause outcome detA detB : Nat) :
    SameFns a (report s src cls cause outcome detA detB) := sameFns_reportBy sameFns_emitRecord h _ _ _ _ _ _

/-! ### Events (R252, R306) -/

theorem sameFns_setCtx (h : SameFns a s) (c : Nat) (r : CtxRun) : SameFns a (setCtx s c r) := h.ep _
theorem sameFns_setConf (h : SameFns a s) (k : Nat) (c : Conf) : SameFns a (setConf s k c) := h.host _

theorem sameFns_eqMessage (h : SameFns a s) (c : Nat) : SameFns a (eqMessage s c) := by
  unfold eqMessage
  exact .ite (sameFns_setCtx h _ _) (sameFns_sendMsix (sameFns_setCtx h _ _) _ _ _)

theorem sameFns_moderate (h : SameFns a s) (c : Nat) : SameFns a (moderate s c) := by
  unfold moderate
  dsimp only
  exact .ite (sameFns_eqMessage (sameFns_setCtx h _ _) _) (sameFns_setCtx h _ _)

theorem sameFns_eventWrite (h : SameFns a s) (c etype x b cc d : Nat) : SameFns a (eventWrite s c etype x b cc d) := by
  have counted {r : CtxRun} := sameFns_setCtx h c r
  unfold eventWrite
  dsimp only
  exact sameFns_moderate (.ite (sameFns_dmaWrite (sameFns_setConf counted _ _) _ _ _ _ _ _) (sameFns_dmaWrite counted _ _ _ _ _ _)) _

theorem sameFns_eventOverflow (h : SameFns a s) (c : Nat) : SameFns a (eventOverflow s c) := by
  unfold eventOverflow
  dsimp only
  exact .ite (sameFns_eventWrite (sameFns_setCtx h _ _) _ _ _ _ _ _) h

theorem sameFns_postEvent (h : SameFns a s) (c etype x b cc d : Nat) : SameFns a (postEvent s c etype x b cc d) := by
  have flowed := sameFns_eventOverflow h c
  unfold postEvent
  dsimp only
  exact .ite h (.ite (sameFns_eventWrite flowed _ _ _ _ _ _) (sameFns_wr (sameFns_setCtx flowed _ _) _ (by omega)))

theorem sameFns_functionEvent (h : SameFns a s) (n : Nat) : SameFns a (functionEvent s n) := by
  unfold functionEvent
  exact .ite (sameFns_postEvent h _ _ _ _ _ _) (sameFns_cnt h _ (by omega))

/-! ### The packet buffer (R116 to R124) -/

theorem sameFns_bufStatus (h : SameFns a s) : SameFns a (bufStatus s) := sameFns_wrs h _ (by and_intros <;> exact not_ofFunctions (by omega))

theorem sameFns_oweCredit (h : SameFns a s) (inp x c n : Nat) : SameFns a (oweCredit s inp x c n) := by
  unfold oweCredit
  exact .ite (h.sw _) h

theorem sameFns_oweArrived (h : SameFns a s) (q : QPkt) : SameFns a (oweArrived s q) := by
  unfold oweArrived
  exact .ite h (sameFns_oweCredit h _ _ _ _)

theorem sameFns_countHeld (h : SameFns a s) : SameFns a (countHeld s) := by
  unfold countHeld
  exact .ite h (sameFns_bump (sameFns_cnt (h.sw _) _ (by omega)) _ _)

theorem sameFns_enqueue (h : SameFns a s) (q : QPkt) (pl : Place) : SameFns a (enqueue s q pl) := by
  have placed {t : State} (k : SameFns a t) : SameFns a (bufStatus (if pl = .held then countHeld t else oweArrived t q)) :=
    sameFns_bufStatus (.ite (sameFns_countHeld k) (sameFns_oweArrived k q))
  unfold enqueue
  dsimp only
  apply placed
  split
  · exact (h.sw _).sw _
  · exact h.sw _

theorem sameFns_enterBuffer (h : SameFns a s) (q : QPkt) (jigMiss : Bool) : SameFns a (enterBuffer s q jigMiss) := by
  unfold enterBuffer
  exact .ite (sameFns_enqueue h _ _) (sameFns_enqueue h _ _)

theorem sameFns_chainTake (h : SameFns a s) (k b : Nat) : SameFns a (chainTake s k b) := by
  unfold chainTake
  split
  · exact h
  · exact h.sw _

theorem sameFns_dropPkt (h : SameFns a s) (id : Nat) : SameFns a (dropPkt s id) := by
  unfold dropPkt
  dsimp only
  refine sameFns_bufStatus (SameFns.sw ?_ _)
  split
  · exact sameFns_chainTake h _ _
  · exact h

theorem sameFns_discardPkt (h : SameFns a s) (q : QPkt) : SameFns a (discardPkt s q) := by
  unfold discardPkt
  exact sameFns_dropPkt (.ite (sameFns_oweArrived h q) h) _

theorem sameFns_setPkt (h : SameFns a s) (q : QPkt) : SameFns a (setPkt s q) := h.sw _
theorem sameFns_bumpId (h : SameFns a s) : SameFns a (bumpId s) := h.sw _

/-! ### Routing (R113, R114, R371, R374) -/

theorem sameFns_noteChoice (h : SameFns a s) (d o : Nat) : SameFns a (noteChoice s d o) := by
  unfold noteChoice
  exact .ite (h.sw _) h

theorem sameFns_fanoutPick (h : SameFns a s) (c : Nat) (l : List Nat) : SameFns a (fanoutPick s c l).1 := by
  induction l generalizing s with
  | nil => exact h
  | cons d l ih =>
    unfold fanoutPick
    split
    · exact ih (sameFns_noteChoice h _ _)
    · exact ih h

theorem sameFns_noteRoute (h : SameFns a s) (x : Hdr) (r : Route) : SameFns a (noteRoute s x r) := by
  unfold noteRoute
  split
  · exact sameFns_noteChoice h _ _
  · exact .ite h (sameFns_fanoutPick h _ _)
  · exact h

theorem sameFns_countNoRoute (h : SameFns a s) : SameFns a (countNoRoute s) := sameFns_bump (sameFns_cnt h _ (by omega)) _ _

theorem sameFns_packetError (h : SameFns a s) (x cause n : Nat) : SameFns a (packetError s x cause n) := sameFns_report h _ _ _ _ _ _

theorem sameFns_dropNoRoute (h : SameFns a s) (inp : Nat) (x : Hdr) : SameFns a (dropNoRoute s inp x) :=
  sameFns_packetError (sameFns_countNoRoute h) _ _ _

theorem sameFns_countDiscarded (h : SameFns a s) (k : Nat) : SameFns a (countDiscarded s k) := sameFns_bump (sameFns_cnt h _ (by omega)) _ _

theorem sameFns_capture (h : SameFns a s) (inp out : Nat) (x : Hdr) (key : Nat) : SameFns a (capture s inp out x key) := by
  unfold capture
  refine .ite h ?_
  split
  · exact h
  · exact .ite (sameFns_cnt h _ (by omega)) (.ite (sameFns_cnt (sameFns_cnt h _ (by omega)) _ (by omega)) ((sameFns_cnt h _ (by omega)).tel _))

theorem sameFns_mirrorCopy (h : SameFns a s) (inp : Nat) (p : Packet) (arrived : Nat) : SameFns a (mirrorCopy s inp p arrived) := by
  unfold mirrorCopy
  refine .ite ?_ h
  dsimp only
  split
  · have noted := sameFns_noteChoice h
    exact .ite (sameFns_cnt (noted _ _) _ (by omega)) (sameFns_bump (sameFns_bumpId (sameFns_enqueue (noted _ _) _ _)) _ _)
  · exact sameFns_dropNoRoute h _ _

/-! ### Packets that Vovis makes (R84, R111) -/

theorem sameFns_injectTo (h : SameFns a s) (inp : Nat) (p : Packet) (outs : List Nat) (multi : Bool) :
    SameFns a (injectTo s inp p outs multi) := by
  have entered {q : QPkt} := sameFns_enterBuffer (sameFns_bumpId h) q false
  unfold injectTo
  dsimp only
  exact .ite (sameFns_mirrorCopy entered _ _ _) entered

theorem sameFns_injectQuiet (h : SameFns a s) (inp : Nat) (p : Packet) : SameFns a (injectQuiet s inp p) := by
  unfold injectQuiet
  dsimp only
  generalize route s inp p.h = r
  have tested := SameFns.ite (c := 228 ≤ inp) (sameFns_capture h inp r.shown p.h (r.queue inp p.h.tc.toNat)) h
  cases r with
  | unicast o => exact sameFns_injectTo (sameFns_noteRoute tested _ _) _ _ _ _
  | multicast l => exact sameFns_injectTo (sameFns_noteRoute tested _ _) _ _ _ _
  | cell l => exact sameFns_injectTo tested _ _ _ _
  | noRoute => exact sameFns_dropNoRoute tested _ _
  | noUnit => exact sameFns_countNoRoute tested
  | notRunning => exact tested
  | clusterDown x => exact sameFns_cnt tested _ (by omega)

theorem sameFns_notifyUnreachable (h : SameFns a s) (x : Hdr) (port : Nat) : SameFns a (notifyUnreachable s x port) := by
  unfold notifyUnreachable
  split
  · exact .ite (sameFns_injectQuiet h _ _) h
  · exact h

theorem sameFns_inject (h : SameFns a s) (inp : Nat) (p : Packet) : SameFns a (inject s inp p) := by
  have quiet := sameFns_injectQuiet h inp p
  unfold inject
  split
  · exact sameFns_notifyUnreachable quiet _ _
  · exact sameFns_notifyUnreachable quiet _ _
  · exact quiet

theorem sameFns_clusterNotRunning (h : SameFns a s) (x : Nat) (p : Hdr) : SameFns a (clusterNotRunning s x p) := by
  unfold clusterNotRunning
  split
  · exact sameFns_inject h _ _
  · exact sameFns_countDiscarded h _
  · exact sameFns_countDiscarded h _
  · exact .ite (sameFns_inject h _ _) (sameFns_cnt h _ (by omega))
  · exact h

/-! ### Packets that end (R111, R112) -/

theorem sameFns_landUnit (h : SameFns a s) (q : QPkt) (o : Nat) : SameFns a (landUnit s q o) := by
  unfold landUnit
  exact .ite h (.ite (sameFns_clusterNotRunning h _ _) (.ite (sameFns_notifyUnreachable h _ _) (h.inbox _)))

theorem sameFns_finishArrival (h : SameFns a s) (id : Nat) : SameFns a (finishArrival s id) := by
  unfold finishArrival
  split
  · exact h
  · have landed {l : List Nat} {q : QPkt} : SameFns a (l.foldl (fun s o => landUnit s q o) s) :=
      .foldl h fun _ _ k => sameFns_landUnit k _ _
    exact .ite (sameFns_dropPkt landed _) landed

theorem sameFns_mapEgress (h : SameFns a s) (id : Nat) (g : Egress → Egress) : SameFns a (mapEgress s id g) := h.sw _
theorem sameFns_regainCredit (h : SameFns a s) (o c n : Nat) : SameFns a (regainCredit s o c n) := h.sw _

theorem sameFns_endStomped (h : SameFns a s) (id : Nat) (len : Nat → Nat → Nat) : SameFns a (endStomped s id len) := by
  have counted {b : Bool} : SameFns a (if b = true then s else bump (cnt s Reg.SWITCH.COUNT_A.STOMPED) (ctrNo 0x30 0)) :=
    .ite h (sameFns_bump (sameFns_cnt h _ (by omega)) _ _)
  unfold endStomped
  dsimp only
  split
  · exact sameFns_mapEgress (.foldl counted fun _ _ k => sameFns_regainCredit k _ _ _) _ _
  · exact sameFns_finishArrival (sameFns_setPkt (sameFns_mapEgress (.foldl counted fun _ _ k => sameFns_regainCredit k _ _ _) _ _) _) _

theorem sameFns_endBad (h : SameFns a s) (id : Nat) (len : Nat → Nat → Nat) : SameFns a (endBad s id len) := by
  unfold endBad
  refine .ite (sameFns_endStomped h _ _) ?_
  split
  · exact sameFns_discardPkt h _
  · exact h

theorem sameFns_cutArrivals (h : SameFns a s) (x : Nat) : SameFns a (cutArrivals s x) := by
  unfold cutArrivals
  dsimp only
  exact SameFns.sw (.foldl h fun _ _ k => sameFns_endBad k _ _) _

theorem sameFns_clearCredit (h : SameFns a s) (x : Nat) : SameFns a (clearCredit s x) := h.sw _

theorem sameFns_leaveResidues (h : SameFns a s) (outs : List Nat) : SameFns a (leaveResidues s outs) := by
  unfold leaveResidues
  refine .foldl h fun _ _ k => ?_
  exact .ite k (.ite (sameFns_discardPkt k _) (sameFns_setPkt k _))

/-! ### Links (R332) -/

theorem sameFns_portIsDown (h : SameFns a s) (x : Nat) : SameFns a (portIsDown s x) := h.sw _
theorem sameFns_setLaneState (h : SameFns a s) (p l v : Nat) : SameFns a (setLaneState s p l v) := sameFns_wr h _ (by omega)
theorem sameFns_setLane (h : SameFns a s) (l : Nat) (r : LaneRun) : SameFns a (setLane s l r) := h.link _
theorem sameFns_setLink (h : SameFns a s) (x : Nat) (r : LinkRun) : SameFns a (setLink s x r) := h.link _

theorem sameFns_linkDown (h : SameFns a s) (x cause outcome : Nat) : SameFns a (linkDown s x cause outcome) := by
  unfold linkDown
  dsimp only
  refine .ite h (sameFns_report (SameFns.link (sameFns_setLink (.foldl (sameFns_wrs (.ite (sameFns_portIsDown h _) h) _ ?_) ?_) _ _) _) _ _ _ _ _ _)
  · and_intros <;> exact not_ofFunctions (by omega)
  · exact fun _ _ k => sameFns_setLane (sameFns_setLaneState k _ _ _) _ _

theorem sameFns_portLinksDown (h : SameFns a s) (p : Nat) (f : Nat → Bool) : SameFns a (portLinksDown s p f) := by
  unfold portLinksDown
  exact .foldl h fun _ _ k => .ite (sameFns_linkDown k _ _ _) k

theorem sameFns_portOff (h : SameFns a s) (p : Nat) (flush : Bool) : SameFns a (portOff s p flush) := by
  have down := sameFns_portLinksDown h p fun _ => true
  unfold portOff
  dsimp only
  exact .ite (.foldl down fun _ _ k => sameFns_portIsDown k _) (.foldl down fun _ _ k => sameFns_clearCredit (sameFns_cutArrivals k _) _)

/-! ### Swarms (R200 to R215) -/

theorem sameFns_setSw (h : SameFns a s) (k : Nat) (r : SwRun) : SameFns a (setSw s k r) := by
  unfold setSw
  dsimp only
  exact SameFns.cells (.ite h (sameFns_hbmWr h _ _)) _

theorem sameFns_setOp (h : SameFns a s) (k : Nat) (o : SwOp) : SameFns a (setOp s k o) := sameFns_setSw h _ _

theorem sameFns_cellSeq (h : SameFns a s) (dest tc : Nat) : SameFns a (cellSeq s dest tc).2 := h.ep _

theorem sameFns_coreAbort (h : SameFns a s) (k op cause member source : Nat) : SameFns a (coreAbort s k op cause member source) := by
  unfold coreAbort noteSource
  exact sameFns_offer (sameFns_setSw (sameFns_cellSeq h _ _) _ _) _ _

theorem sameFns_memberTestOne (h : SameFns a s) (ann : Option Nat) (k : Nat) : SameFns a (memberTestOne ann s k) := by
  have noted {r : SwRun} := sameFns_setSw h k r
  unfold memberTestOne
  dsimp only
  refine .ite noted (.foldl (.foldl noted ?_) ?_)
  · exact fun _ _ k => .foldl k fun _ _ k => sameFns_offer k _ _
  · exact fun _ _ k => sameFns_coreAbort (sameFns_setOp k _ _) _ _ _ _ _

theorem sameFns_memberTest (h : SameFns a s) (ann : Option Nat) : SameFns a (memberTest s ann) := by
  unfold memberTest
  exact .foldl h fun _ _ k => sameFns_memberTestOne k _ _

theorem sameFns_endOp (h : SameFns a s) (k op : Nat) : SameFns a (endOp s k op) := (sameFns_setSw h _ _).cells _

theorem sameFns_mapBit (h : SameFns a s) (f : Nat → Fld) (k : Nat) (b : Bool) (hf : ∀ i, ¬ ofFunctions (f i)) : SameFns a (mapBit s f k b) :=
  sameFns_wr_of h _ (hf _)

theorem sameFns_swPlace (h : SameFns a s) (k place no : Nat) : SameFns a (swPlace s k place no) := by
  unfold swPlace
  dsimp only
  refine sameFns_mapBit (sameFns_mapBit (.ite ?_ (sameFns_trace ?_ _ _ _ _ _)) _ _ _ ?_) _ _ _ ?_
  · exact sameFns_wr (sameFns_wr h _ (by omega)) _ (by omega)
  · exact sameFns_wr (sameFns_wr h _ (by omega)) _ (by omega)
  · exact fun _ => not_ofFunctions (by omega)
  · exact fun _ => not_ofFunctions (by omega)

theorem sameFns_swWait (h : SameFns a s) (k : Nat) : SameFns a (swWait s k) := by
  have set {r : SwRun} := sameFns_setSw h k r
  unfold swWait
  dsimp only
  exact .ite (.ite (sameFns_swPlace set _ _ _) set) (.ite (sameFns_swPlace set _ _ _) set)

theorem sameFns_swStatus (h : SameFns a s) (k : Nat) : SameFns a (swStatus s k) := by
  unfold swStatus
  dsimp only
  exact sameFns_wrs (sameFns_swWait h k) _ (by and_intros <;> exact not_ofFunctions (by omega))

theorem sameFns_swSkip (h : SameFns a s) (k op : Nat) : SameFns a (swSkip s k op) := by
  unfold swSkip
  exact .ite (sameFns_wr h _ (by omega)) h

theorem sameFns_abortLog (h : SameFns a s) (k source : Nat) (r : AbortRec) : SameFns a (abortLog s k source r) := by
  unfold abortLog
  exact sameFns_report (sameFns_wrs h _ (by and_intros <;> exact not_ofFunctions (by omega))) _ _ _ _ _ _

theorem sameFns_fromControl (h : SameFns a s) (k op : Nat) (p : Packet) : SameFns a (fromControl s k op p) := sameFns_offer h _ _

theorem sameFns_decide_ (h : SameFns a s) (k : Nat) (o : SwOp) (cause member source : Nat) : SameFns a (decide_ s k o cause member source) := by
  have ended {l : List Nat} : SameFns a (l.foldl (fun s x => endOp s k x) s) := .foldl h fun _ _ k => sameFns_endOp k _ _
  unfold decide_
  dsimp only
  refine sameFns_swStatus (.ite (sameFns_endOp ?_ _ _) (sameFns_fromControl ?_ _ _ _)) _
  all_goals
    refine sameFns_abortLog (sameFns_bump (sameFns_cnt (sameFns_swSkip (sameFns_setOp (sameFns_setSw ended _ _) _ _) _ _) _ (by omega)) _ _) _ _ _

theorem sameFns_swarmLeave (h : SameFns a s) (k : Nat) : SameFns a (swarmLeave s k) := by
  unfold swarmLeave
  refine sameFns_swPlace (.foldl h fun s o k => ?_) _ _ _
  split
  · exact .ite (sameFns_decide_ k _ _ _ _ _) k
  · exact k

theorem sameFns_swarmStopped (h : SameFns a s) (k : Nat) : SameFns a (swarmStopped s k) := by
  have ended : SameFns a ((swRun s k).ops.foldl (fun s o => endOp s k o.opseq) s) := .foldl h fun _ _ k => sameFns_endOp k _ _
  unfold swarmStopped
  dsimp only
  exact sameFns_swPlace (sameFns_swStatus (ended.outbox_cells _ _) _) _ _ _

/-! ### Cells and the registry (R149, R290) -/

theorem sameFns_clStatus (h : SameFns a s) (n : Nat) : SameFns a (clStatus s n) := sameFns_wr (sameFns_wr h _ (by omega)) _ (by omega)

theorem sameFns_cellsClear (h : SameFns a s) (n : Nat) : SameFns a (cellsClear s n) := h.cells _

theorem sameFns_cellsOff (h : SameFns a s) (n : Nat) : SameFns a (cellsOff s n) := by
  unfold cellsOff
  exact sameFns_clStatus (.foldl (sameFns_cellsClear h _) fun _ _ k => .ite k (sameFns_wr k _ (by omega))) _

theorem sameFns_cellsDryFit (h : SameFns a s) (n : Nat) : SameFns a (cellsDryFit s n) := by
  have off {l : List Nat} {v : Nat} : SameFns a (l.foldl (fun s c => wr s (Reg.CLUSTER.PHYS_CELL.STATE n c) v) s) :=
    .foldl h fun _ _ k => sameFns_wr k _ (by omega)
  unfold cellsDryFit
  dsimp only
  exact sameFns_clStatus (sameFns_wr (.ite (off.cells _) (off.cells _)) _ (by omega)) _

theorem sameFns_extStart (h : SameFns a s) : SameFns a (extStart s) := by
  unfold extStart extCounts
  exact sameFns_wr (sameFns_wr (h.ext _) _ (by omega)) _ (by omega)

theorem sameFns_fnOff (h : SameFns a s) (n : Nat) (flush : Bool) : SameFns a (fnOff s n flush) := by
  unfold fnOff
  dsimp only
  split
  · exact sameFns_portOff h _ _
  · exact h.ep _
  · exact sameFns_cellsClear h _
  · exact sameFns_swarmStopped h _
  · exact h

theorem sameFns_fnRecord (h : SameFns a s) (n cause outcome : Nat) : SameFns a (fnRecord s n cause outcome) := sameFns_report h _ _ _ _ _ _

theorem sameFns_finishSlot (h : SameFns a s) (j : Nat) (v : Option (Nat × Nat × Nat × Nat)) : SameFns a (finishSlot s j v) := by
  unfold finishSlot
  refine .foldl h fun _ _ k => ?_
  split
  · exact sameFns_wrs k _ (by and_intros <;> exact not_ofFunctions (by omega))
  · exact sameFns_wrs k _ (by and_intros <;> exact not_ofFunctions (by omega))

theorem sameFns_finishRelease (h : SameFns a s) (k : Nat) : SameFns a (finishRelease s k) := by
  unfold finishRelease
  exact SameFns.cells (.foldl h fun _ _ k => sameFns_finishSlot k _ _) _

end

/-! ## The state that a function enters (R29, R36) -/

/-- Function `n` is in state `k`, and READY is clear. -/
def unreadyIn (s : State) (n k : Nat) : Prop := fnState s n = k ∧ rdb s (Reg.GLOBAL.FUNC_STATUS.READY n) = false

section
variable {a s t : State} {n m k : Nat}

theorem ofFunctions_state (hn : n < 463) : ofFunctions (Reg.GLOBAL.FUNC_STATUS.STATE n) := by
  unfold ofFunctions Reg.GLOBAL.FUNC_STATUS.STATE
  dsimp only
  omega

theorem ofFunctions_ready (hn : n < 463) : ofFunctions (Reg.GLOBAL.FUNC_STATUS.READY n) := by
  unfold ofFunctions Reg.GLOBAL.FUNC_STATUS.READY
  dsimp only
  omega

/-- What leaves the functions' states leaves each of them. -/
theorem unreadyIn.same (hn : n < 463) (hk : unreadyIn a n k) (h : SameFns a s) : unreadyIn s n k := by
  obtain ⟨hs, hr⟩ := hk
  refine ⟨(h.reg _ (ofFunctions_state hn)).trans hs, ?_⟩
  unfold rdb at hr ⊢
  rw [h.reg _ (ofFunctions_ready hn), hr]

/-- The registers of function `m` that a change of its state writes (R36, R38). -/
theorem rd_stateWrites_ne {f : Fld} (st : Nat) (hs : (Reg.GLOBAL.FUNC_STATUS.STATE m).key ≠ f.key)
    (hr : (Reg.GLOBAL.FUNC_STATUS.READY m).key ≠ f.key) (hc : (Reg.GLOBAL.FUNC_DIAG.CHANGED m).key ≠ f.key) :
    rd (wrs s [(Reg.GLOBAL.FUNC_STATUS.STATE m, st), (Reg.GLOBAL.FUNC_STATUS.READY m, b2n (st == 2)), (Reg.GLOBAL.FUNC_DIAG.CHANGED m, 1)]) f =
      rd s f := by
  simp only [wrs_cons, wrs_nil, rd_wr_ne _ _ hc, rd_wr_ne _ _ hr, rd_wr_ne _ _ hs]

/-- A function that enters a state other than RUNNING is in it, and READY is clear (R36). -/
theorem unreadyIn_setFn (hn : n < 463) (hk : k < 8) (h2 : k ≠ 2) : unreadyIn (setFn s n k) n k := by
  have ready : (Reg.GLOBAL.FUNC_STATUS.READY n).key ≠ (Reg.GLOBAL.FUNC_STATUS.STATE n).key := by
    unfold Reg.GLOBAL.FUNC_STATUS.READY Reg.GLOBAL.FUNC_STATUS.STATE
    dsimp only
    omega
  have changed_state : (Reg.GLOBAL.FUNC_DIAG.CHANGED n).key ≠ (Reg.GLOBAL.FUNC_STATUS.STATE n).key := by
    unfold Reg.GLOBAL.FUNC_DIAG.CHANGED Reg.GLOBAL.FUNC_STATUS.STATE
    dsimp only
    omega
  have changed_ready : (Reg.GLOBAL.FUNC_DIAG.CHANGED n).key ≠ (Reg.GLOBAL.FUNC_STATUS.READY n).key := by
    unfold Reg.GLOBAL.FUNC_DIAG.CHANGED Reg.GLOBAL.FUNC_STATUS.READY
    dsimp only
    omega
  refine unreadyIn.same hn ⟨?_, ?_⟩ (sameFns_functionEvent (.refl _) n)
  · simp only [fnState, wrs_cons, wrs_nil, rd_wr_ne _ _ changed_state, rd_wr_ne _ _ ready, rd_wr_same]
    exact Nat.mod_eq_of_lt hk
  · simp only [rdb, wrs_cons, wrs_nil, rd_wr_ne _ _ changed_ready, rd_wr_same, beq_false_of_ne h2]
    rfl

/-- Another function stays in its state. -/
theorem unreadyIn.setFn_other (hn : n < 463) (hk : unreadyIn s n k) (hm : m ≠ n) (st : Nat) : unreadyIn (setFn s m st) n k := by
  obtain ⟨hs, hr⟩ := hk
  refine unreadyIn.same hn ⟨Eq.trans ?_ hs, Eq.trans ?_ hr⟩ (sameFns_functionEvent (.refl _) m)
  · refine rd_stateWrites_ne st ?_ ?_ ?_ <;>
      (simp only [Reg.GLOBAL.FUNC_STATUS.STATE, Reg.GLOBAL.FUNC_STATUS.READY, Reg.GLOBAL.FUNC_DIAG.CHANGED]; omega)
  · unfold rdb
    rw [rd_stateWrites_ne st] <;>
      (simp only [Reg.GLOBAL.FUNC_STATUS.STATE, Reg.GLOBAL.FUNC_STATUS.READY, Reg.GLOBAL.FUNC_DIAG.CHANGED]; omega)

theorem setFn_fn (s : State) (n k : Nat) : (setFn s n k).fn = s.fn := by
  unfold setFn
  rw [(sameFns_functionEvent (.refl _) n).fn, wrs_fn]

/-! ### START and STOP -/

/-- START: what follows the change to DRY_FIT leaves it. -/
theorem unreadyIn_startFn (hn : n < 463) (img : Program) : unreadyIn (startFn s n img) n 1 := by
  unfold startFn
  dsimp only
  have fit {s : State} : unreadyIn (setFn s n 1) n 1 := unreadyIn_setFn hn (by decide) (by decide)
  split
  · exact fit.same hn (SameFns.link (.refl _) _)
  · exact fit.same hn (sameFns_cellsDryFit (.refl _) _)
  · exact fit.same hn (sameFns_extStart (.refl _))
  · exact fit.same hn (sameFns_wr (.refl _) _ (by omega))
  · exact fit.same hn (sameFns_wr (sameFns_wr (.refl _) _ (by omega)) _ (by omega))
  · exact fit

theorem unreadyIn_abandon (hn : n < 463) : unreadyIn (abandon s n) n 0 := unreadyIn_setFn hn (by decide) (by decide)

theorem unreadyIn_backToStopped (hn : n < 463) : unreadyIn (backToStopped s n) n 0 := unreadyIn_setFn hn (by decide) (by decide)

/-- A function that leaves RUNNING enters STOPPING, and the rest of its stop action leaves the functions' states. -/
theorem sameFns_stopFn (s : State) (n : Nat) :
    SameFns (setFn { s with fn := { s.fn with stopAt := setKey s.fn.stopAt n s.now } } n 3) (stopFn s n) := by
  have left := sameFns_leaveResidues (.refl (setFn { s with fn := { s.fn with stopAt := setKey s.fn.stopAt n s.now } } n 3)) (fnOutputs n)
  have down := SameFns.ite (c := fnType n = 0) (sameFns_portLinksDown left (fnInst n) fun st => st != 3) left
  unfold stopFn
  exact .ite (sameFns_swarmLeave down _) (.ite (sameFns_memberTest down _) down)

theorem unreadyIn_stopFn (hn : n < 463) : unreadyIn (stopFn s n) n 3 :=
  (unreadyIn_setFn hn (by decide) (by decide)).same hn (sameFns_stopFn s n)

theorem unreadyIn.stopFn_other (hn : n < 463) (hk : unreadyIn s n k) (hm : m ≠ n) : unreadyIn (stopFn s m) n k :=
  (unreadyIn.setFn_other hn (s := { s with fn := { s.fn with stopAt := setKey s.fn.stopAt m s.now } }) hk hm 3).same hn (sameFns_stopFn s m)

/-- The dependents that stop are RUNNING, so that a function in another state is none of them (R35). -/
theorem unreadyIn.loseDeps (hn : n < 463) (h2 : k ≠ 2) (hk : unreadyIn s n k) (x fuel : Nat) : unreadyIn (loseDeps s x fuel) n k := by
  induction fuel generalizing s x with
  | zero => exact hk
  | succ fuel ih =>
    unfold Sys2Proof.Machine.loseDeps
    generalize fnDependents s x = l
    induction l generalizing s with
    | nil => exact hk
    | cons m l ihl =>
      refine ihl ?_
      dsimp only
      split
      next run =>
        have other : m ≠ n := by
          rintro rfl
          exact h2 (hk.1.symm.trans (by simpa [running] using run))
        exact ih (unreadyIn.stopFn_other hn (s := { s with fn := { s.fn with depLost := m :: s.fn.depLost } }) hk other) m
      next => exact hk

/-! ### RETIRE, the end of a dry-fit and of STOPPING -/

theorem unreadyIn_retireFn (hn : n < 463) (fault : Bool) : unreadyIn (retireFn s n fault) n 5 := by
  have retired {s : State} : unreadyIn (if fault = true then fnRecord (setFn s n 5) n 1 3 else setFn s n 5) n 5 :=
    (unreadyIn_setFn hn (by decide) (by decide)).same hn (.ite (sameFns_fnRecord (.refl _) _ _ _) (.refl _))
  unfold retireFn
  dsimp only
  split
  · exact unreadyIn.loseDeps hn (by decide) (retired.same hn (.ite (sameFns_memberTest (.refl _) _) (.refl _))) _ _
  · exact retired

theorem unreadyIn_dryFitFails (hn : n < 463) (code res holder : Nat) : unreadyIn (dryFitFails s n code res holder) n 4 :=
  (unreadyIn_setFn hn (by decide) (by decide)).same hn (sameFns_trace (.refl _) _ _ _ _ _)

/-- Leaving a state that holds claims forgets no lost dependency. -/
theorem fnRelease_depLost (s : State) (n : Nat) : (fnRelease s n).fn.depLost = s.fn.depLost := by
  have claims : (releaseClaims s n).fn.depLost = s.fn.depLost := by
    unfold releaseClaims
    dsimp only
    have freed {l : List Nat} : SameFns s (l.foldl (fun s k => wr (wr s (Reg.GLOBAL.CLAIM.HELD k) 0) (Reg.GLOBAL.CLAIM.HOLDER k) 0) s) :=
      .foldl (.refl s) fun _ _ k => sameFns_wr (sameFns_wr k _ (by omega)) _ (by omega)
    exact congrArg FnState.depLost (SameFns.foldl freed fun _ _ k => sameFns_wr k _ (by omega)).fn
  unfold fnRelease
  dsimp only
  rw [← claims]
  exact congrArg FnState.depLost (SameFns.ite (sameFns_finishRelease (.refl _) _) (.ite (sameFns_wr (.refl _) _ (by omega)) (.refl _))).fn

/-- The drain of STOPPING ends in STOPPED, and in AWAIT_HOST where a dependency was lost. -/
theorem unreadyIn_reachStopped (hn : n < 463) : unreadyIn (reachStopped s n false) n (if n ∈ s.fn.depLost then 4 else 0) := by
  have lost {t : State} (h : t.fn.depLost = s.fn.depLost) : (setFn t n 0).fn.depLost.contains n = decide (n ∈ s.fn.depLost) := by
    rw [setFn_fn, h, List.contains_eq_mem]
  have off : (if fnType n = 2 then cellsOff (fnRelease (fnOff s n false) n) (fnInst n) else fnRelease (fnOff s n false) n).fn.depLost =
      s.fn.depLost := by
    rw [(SameFns.ite (sameFns_cellsOff (.refl _) _) (.refl (fnRelease (fnOff s n false) n))).fn, fnRelease_depLost,
      (sameFns_fnOff (.refl s) n false).fn]
  unfold reachStopped
  simp only [Bool.false_eq_true, if_false, lost off, decide_eq_true_eq]
  split
  · exact (unreadyIn_setFn hn (by decide) (by decide)).same hn (sameFns_fnRecord (.refl _) _ _ _)
  · exact unreadyIn_setFn hn (by decide) (by decide)

/-! ### SEQ and the states -/

theorem fnState_wr_seq (s : State) (n m v : Nat) : fnState (wr s (Reg.GLOBAL.FUNC_DIAG.SEQ n) v) m = fnState s m := by
  refine rd_wr_ne s v ?_
  unfold Reg.GLOBAL.FUNC_DIAG.SEQ Reg.GLOBAL.FUNC_STATUS.STATE
  dsimp only
  omega

theorem fnDependents_wr_seq (s : State) (n m v : Nat) : fnDependents (wr s (Reg.GLOBAL.FUNC_DIAG.SEQ n) v) m = fnDependents s m := by
  simp only [fnDependents, running, fnState_wr_seq]

end

/-- Settles O30: each command and event ends in a change to its state, and what follows the change leaves the functions' states. -/
theorem functionStates : Obligations.FunctionStates := by
  intro s w n q img hn f ends
  have next {c : Instr} {t : State} {k : Nat} (e : exec c s = .next t) (ht : unreadyIn t f k) : ends c k := ⟨t, e, ht⟩
  refine ⟨fun hw hs => ?_, fun h ho => next (exec_dryFitTimeout_due h ho) (unreadyIn_dryFitFails hn _ _ _), fun h hd hl => ?_,
    fun h hd hl => ?_, fun hr h => next (exec_funcPermanentFault_retires hr h) (unreadyIn_retireFn hn true)⟩
  · have does {cmd k : Nat} {i : Program} {c : Instr} {t : State} (e : exec c s = .next (funcCmd s w f cmd q.toNat i)) (hc : cmd ≠ 0)
        (h : cmdEffect (wr s (Reg.GLOBAL.FUNC_DIAG.SEQ f) (q.toNat + 1)) f cmd i = some t) (ht : unreadyIn t f k) : ends c k :=
      next (e.trans (congrArg _ (funcCmd_of_effect hw hc hn hs h))) (ht.same hn (sameFns_trace (.refl _) _ _ _ _ _))
    rw [← fnState_wr_seq s f f (q.toNat + 1), ← fnDependents_wr_seq s f f (q.toNat + 1)]
    exact ⟨fun h => does rfl (by decide) (cmdEffect_start h) (unreadyIn_startFn hn img),
      fun h => does rfl (by decide) (cmdEffect_abandon h) (unreadyIn_abandon hn),
      fun h hd => does rfl (by decide) (cmdEffect_stop h hd) (unreadyIn_stopFn hn),
      fun h => does rfl (by decide) (cmdEffect_ackHost h) (unreadyIn_backToStopped hn),
      fun h hr hd => does rfl (by decide) (cmdEffect_retire h hr hd) (unreadyIn_retireFn hn false),
      fun h => does rfl (by decide) (cmdEffect_reinstate h) (unreadyIn_backToStopped hn)⟩
  · have stopped := unreadyIn_reachStopped (s := s) hn
    rw [if_neg hl] at stopped
    exact next (exec_stopDrainComplete_done h hd) stopped
  · have stopped := unreadyIn_reachStopped (s := s) hn
    rw [if_pos hl] at stopped
    exact next (exec_stopDrainComplete_done h hd) stopped

end Sys2Proof.Machine
end

section
/-!
PROOFS. A packet through the stages of the switch path (R107, R113): O32.
-/
namespace Sys2Proof.Machine
open Sys2Proof

/-! ## A packet that enters (R107) -/

theorem b2n_lt_two (b : Bool) : b2n b < 2 := by cases b <;> decide

theorem takeOffer_time (s : State) (x : Nat) (p : Packet) : (takeOffer s x p).time = s.time := by
  unfold takeOffer
  split <;> rfl

/-- The ingress stamp is of fabric time alone. -/
theorem stamped_congr {s t : State} (h : t.time = s.time) (p : Packet) : stamped t p = stamped s p := by
  unfold stamped
  rw [h]

/-- What has come of `p` with its tail or with its head alone. -/
def cameIn (p : Packet) (complete : Bool) : Packet := if complete = true then p else { h := p.h }

@[simp] theorem cameIn_h (p : Packet) (complete : Bool) : (cameIn p complete).h = p.h := by cases complete <;> rfl

/-- The state `u` once the half has noted a head whose tail is to come (R110). -/
def headNoted (s u : State) (half : Nat) (p : Packet) (complete : Bool) : State :=
  if complete = true then u else setRx u half { flits := [hdrBits p.h], fwd := if arriving u s.sw.nextId = true then some s.sw.nextId else none }

/-- The packet is a response (R59). -/
def isAnswer (h : Hdr) : Bool := match h.k with | some k => k.isResponse | none => false

theorem isAnswer_eq (h : Hdr) : isAnswer h = (h.k.map Kind.isResponse).getD false := by
  unfold isAnswer
  cases h.k <;> rfl

/-- The state after the count of a response in its request's extent (R292). -/
def responseCounted (t : State) (h : Hdr) : State := if isAnswer h = true then inflightDown t h else t

section
variable {s : State} {inp half : Nat} {p : Packet} {complete miss : Bool}

theorem packetIn_shut (hr : (rxOf s half).flits = []) (hs : entryShut s inp half p = true) : packetIn s inp half p complete miss = s := by
  cases complete <;> simp [packetIn, hr, hs, ingress]

/-- A header that promises no payload disagrees with the flits to come (R54). -/
theorem packetIn_short (hh : half / 2 = inp) (hr : (rxOf s half).flits = []) (hs : entryShut s inp half p = false)
    (he : expectedFlits p.h ≤ 1) : packetIn s inp half p false miss =
      headNoted s (discardBad (takeOffer s inp p) inp half 2 (stamped s { h := p.h }) 1 true) half p false := by
  simp [packetIn, hr, hs, rxHead, he, hh, headNoted]

theorem packetIn_opens (hh : half / 2 = inp) (hr : (rxOf s half).flits = []) (hs : entryShut s inp half p = false)
    (he : complete = true ∨ 1 < expectedFlits p.h) :
    packetIn s inp half p complete miss = headNoted s (ingress s inp half p complete miss) half p complete := by
  cases complete with
  | true => simp [packetIn, hr, headNoted]
  | false =>
    have long : ¬ expectedFlits p.h ≤ 1 := by simpa using he
    simp [packetIn, hr, hs, rxHead, long, hh, headNoted]

theorem packetIn_tail {f : Nat} {got : List Nat} (hr : (rxOf s half).flits = f :: got) : packetIn s inp half p complete miss =
    if complete = true ∧ f = hdrBits p.h then
      rxTail (((List.range (p.flits - 1)).drop got.length).foldl (fun s i => rxMore s half (flitOf p (i + 1))) s) half p.stomp
    else s := by
  simp [packetIn, hr]

/-! ### S1 -/

section
variable (hs : entryShut s inp half p = false)
include hs

theorem ingress_of_fault {cause : Nat} {count : Bool}
    (hf : ingressFault (takeOffer s inp p) (cameIn p complete) complete = some (cause, count)) :
    ingress s inp half p complete miss =
      discardBad (jigMisses (takeOffer s inp p) (jigMatch (takeOffer s inp p) inp p.h).2) inp half cause
        (stamped (takeOffer s inp p) (cameIn p complete)) (cameIn p complete).flits count := by
  have hh := cameIn_h p complete
  unfold cameIn at hf hh ⊢
  simp only [ingress, hs, hf, hh, Bool.false_eq_true, if_false]

section
variable (hf : ingressFault (takeOffer s inp p) (cameIn p complete) complete = none)
include hf

theorem ingress_of_ok : ingress s inp half p complete miss =
    if swarmTileStopped (responseCounted (takeOffer s inp p) p.h) p.h = true then
      countDiscarded (oweCredit (responseCounted (takeOffer s inp p) p.h) inp half p.h.tc.toNat (cameIn p complete).flits) (p.h.x 0 8)
    else ingressRoute (responseCounted (takeOffer s inp p) p.h) inp half (stamped (takeOffer s inp p) (cameIn p complete))
      (cameIn p complete).flits miss := by
  have hh := cameIn_h p complete
  unfold cameIn at hf hh ⊢
  simp only [ingress, hs, hf, hh, Bool.false_eq_true, if_false]
  rfl

theorem ingress_of_stopped (hw : swarmTileStopped (responseCounted (takeOffer s inp p) p.h) p.h = true) :
    ingress s inp half p complete miss =
      countDiscarded (oweCredit (responseCounted (takeOffer s inp p) p.h) inp half p.h.tc.toNat (cameIn p complete).flits) (p.h.x 0 8) :=
  (ingress_of_ok hs hf).trans (if_pos hw)

theorem ingress_of_routed (hw : swarmTileStopped (responseCounted (takeOffer s inp p) p.h) p.h = false) :
    ingress s inp half p complete miss =
      ingressRoute (responseCounted (takeOffer s inp p) p.h) inp half
        (stamped (takeOffer s inp p) (cameIn p complete)) (cameIn p complete).flits miss :=
  (ingress_of_ok hs hf).trans (if_neg (ne_true_of_eq_false hw))

end

end

end

/-! ### S2 (R100, R113) -/

section
variable {s : State} {inp half n : Nat} {p : Packet} {miss : Bool}

/-- The state after the route of R113 is noted and the packet is tested against the capture filters (R371). -/
def routedAt (s : State) (inp : Nat) (h : Hdr) : State :=
  capture (noteRoute s h (route s inp h)) inp (route s inp h).shown h ((route s inp h).queue inp h.tc.toNat)

/-- The jig entry that takes the tile, and those that select it. -/
def jigAt (s : State) (inp : Nat) (h : Hdr) : Option Nat × List Nat := jigMatch (noteRoute s h (route s inp h)) inp h

/-- That state with a miss counted for each entry that selects the packet (R100). -/
def missedAt (s : State) (inp : Nat) (h : Hdr) : State := jigMisses (routedAt s inp h) (jigAt s inp h).2

theorem ingressRoute_noRoute (h : route s inp p.h = .noRoute) : ingressRoute s inp half p n miss =
    notifyUnreachable (packetError (countNoRoute (oweCredit (missedAt s inp p.h) inp half p.h.tc.toNat n)) inp 5 (hdrBits p.h)) p.h 0x1FF := by
  simp only [ingressRoute, missedAt, routedAt, jigAt, h, dropNoRoute]

theorem ingressRoute_notRunning (h : route s inp p.h = .notRunning) : ingressRoute s inp half p n miss =
    notifyUnreachable (oweCredit (missedAt s inp p.h) inp half p.h.tc.toNat n) p.h 0x1FF := by
  simp only [ingressRoute, missedAt, routedAt, jigAt, h]

theorem ingressRoute_noUnit (h : route s inp p.h = .noUnit) : ingressRoute s inp half p n miss =
    countNoRoute (oweCredit (missedAt s inp p.h) inp half p.h.tc.toNat n) := by
  simp only [ingressRoute, missedAt, routedAt, jigAt, h]

theorem ingressRoute_clusterDown {k : Nat} (h : route s inp p.h = .clusterDown k) : ingressRoute s inp half p n miss =
    clusterNotRunning (oweCredit (missedAt s inp p.h) inp half p.h.tc.toNat n) k p.h := by
  simp only [ingressRoute, missedAt, routedAt, jigAt, h]

theorem ingressRoute_cell {l : Nat} (h : route s inp p.h = .cell l) : ingressRoute s inp half p n miss =
    checkAndQueue (missedAt s inp p.h) inp half p n [outOf (cellPort l)] false miss false := by
  simp only [ingressRoute, missedAt, routedAt, jigAt, h]

theorem ingressRoute_multicast {l : List Nat} (h : route s inp p.h = .multicast l) : ingressRoute s inp half p n miss =
    checkAndQueue (missedAt s inp p.h) inp half p n l true miss false := by
  simp only [ingressRoute, missedAt, routedAt, jigAt, h]

section
variable {o : Nat} (h : route s inp p.h = .unicast o)
include h

theorem ingressRoute_unicast_none (hj : (jigAt s inp p.h).1 = none) : ingressRoute s inp half p n miss =
    checkAndQueue (missedAt s inp p.h) inp half p n [o] false miss (!(jigAt s inp p.h).2.isEmpty) := by
  simp only [jigAt, h] at hj
  simp only [ingressRoute, missedAt, routedAt, jigAt, h, hj]

section
variable {j : Nat} (hj : (jigAt s inp p.h).1 = some j)
include hj

/-- Entry `j` admits a tile that needs no extent check; the other entries that select the tile and are not open to it count a miss. -/
theorem ingressRoute_jig_unchecked (hk : p.h.k.bind permBit = none) : ingressRoute s inp half p n miss =
    jigAdmit (jigMisses (routedAt s inp p.h) (jigOthers (routedAt s inp p.h) inp p.h j (jigAt s inp p.h).2)) j inp half p n := by
  simp only [jigAt, h] at hj
  simp only [ingressRoute, routedAt, jigAt, h, hj, hk]

section
variable (hk : p.h.k.bind permBit ≠ none)
include hk

theorem ingressRoute_jig_miss : ingressRoute s inp half p n true =
    checkAndQueue (missedAt s inp p.h) inp half p n [o] false true true := by
  obtain ⟨bit, hk⟩ := Option.ne_none_iff_exists'.1 hk
  simp only [jigAt, h] at hj
  simp only [ingressRoute, missedAt, routedAt, jigAt, h, hj, hk, if_true]

theorem ingressRoute_jig_checked : ingressRoute s inp half p n false =
    (let t := jigMisses (routedAt s inp p.h) (jigOthers (routedAt s inp p.h) inp p.h j (jigAt s inp p.h).2)
     match extCheck (routedAt s inp p.h) p.h with
     | .grant i => jigAdmit (inflightUp t i) j inp half p n
     | .none => jigAdmit t j inp half p n
     | .deny cc d => denyAtIngress (oweCredit (missedAt s inp p.h) inp half p.h.tc.toNat n) inp p.h cc d) := by
  obtain ⟨bit, hk⟩ := Option.ne_none_iff_exists'.1 hk
  simp only [jigAt, h] at hj
  simp only [ingressRoute, missedAt, routedAt, jigAt, h, hj, hk, Bool.false_eq_true, if_false]
  <;> rfl

end
end
end
end

theorem exec_packetIngress (s : State) (inp : Fin 232) (hi : Bool) (p : Packet) (complete miss : Bool) :
    exec (.packetIngress inp hi p complete miss) s = .next (packetIn s inp.val (2 * inp.val + b2n hi) p complete miss) := rfl

/-- Settles O32: a head or a whole packet goes through S1 and S2 by the branch that its fault, its SWARM and its route choose, and the tail
after a head completes the packet. -/
theorem switchPath : Obligations.SwitchPath := by
  intro s inp hi p complete miss half go t q n ends bad u w r v c sel a m x opens routed
  have port : half / 2 = inp.val := by
    have := b2n_lt_two hi
    omega
  have counted : responseCounted t p.h = u := by simp only [responseCounted, isAnswer_eq, u]
  have goes {y : State} (h : packetIn s inp half p complete miss = y) : go y := h ▸ exec_packetIngress s inp hi p complete miss
  have enters {y : State} (ho : opens) (hy : ingress s inp half p complete miss = y) : ends y := by
    obtain ⟨hr, hs, he⟩ := ho
    exact goes (hy ▸ packetIn_opens port hr hs he)
  have routes {y : State} (hw : routed) (hy : ingressRoute u inp half w n miss = y) : ends y := by
    obtain ⟨ho, hb, ht⟩ := hw
    refine enters ho ((ingress_of_routed ho.2.1 hb (counted ▸ ht)).trans ?_)
    rw [counted]
    exact hy
  have hq : q.h = p.h := cameIn_h p complete
  have class_ : w.h.tc.toNat = c := by rw [show w.h.tc = q.h.tc from rfl, hq]
  have captured : routedAt u inp.val w.h = a := by
    unfold routedAt
    rw [class_]
  have missed : missedAt u inp.val w.h = m := by
    unfold missedAt
    rw [captured]
    rfl
  refine ⟨fun hr hs => goes (packetIn_shut hr hs), fun hr hs hc he => ?_, fun cause count ho hb => enters ho (ingress_of_fault ho.2.1 hb),
    fun ho hb ht => enters ho ?_, fun hw hr => routes hw ?_, fun hw hr => routes hw ?_, fun hw hr => routes hw ?_,
    fun k hw hr => routes hw ?_, fun l hw hr => routes hw ?_, fun l hw hr => routes hw ?_, fun o hw hr => ?_, fun f got hr => ?_⟩
  · subst hc
    exact goes ((packetIn_short port hr hs he).trans (by rw [stamped_congr (takeOffer_time s inp.val p).symm]; rfl))
  · rw [ingress_of_stopped ho.2.1 hb (counted ▸ ht), counted]
    rfl
  · rw [ingressRoute_noRoute hr, missed, class_]
  · rw [ingressRoute_notRunning hr, missed, class_]
  · rw [ingressRoute_noUnit hr, missed, class_]
  · rw [ingressRoute_clusterDown hr, missed, class_]
  · rw [ingressRoute_cell hr, missed]
  · rw [ingressRoute_multicast hr, missed]
  · refine ⟨fun hj => routes hw ?_, fun j hj => ?_⟩
    · rw [ingressRoute_unicast_none hr hj, missed]
      rfl
    intro b
    refine ⟨fun hk => routes hw ?_, fun hk => ⟨fun hm => routes hw ?_, fun hm => ?_⟩⟩
    · rw [ingressRoute_jig_unchecked hr hj hk, captured]
      rfl
    · rw [hm, ingressRoute_jig_miss hr hj hk, missed]
    · have checked := ingressRoute_jig_checked (n := n) (half := half) hr hj hk
      rw [captured, missed, class_] at checked
      refine ⟨fun i he => routes hw ?_, fun he => routes hw ?_, fun cc d he => routes hw ?_⟩
      · rw [hm, checked, he]
        rfl
      · rw [hm, checked, he]
        rfl
      · rw [hm, checked, he]
  · refine ⟨fun hc hf => goes ((packetIn_tail hr).trans (if_pos ⟨hc, hf⟩)), fun h => goes ((packetIn_tail hr).trans (if_neg ?_))⟩
    rintro ⟨hc, hf⟩
    exact h.elim (by simp [hc]) (· hf)

end Sys2Proof.Machine
end

section
/-!
PROOFS. The header's bits and the order of stamps (R49, R53): O6 and O7.
-/
namespace Sys2Proof.Machine
open Sys2Proof

/-! ## Reading any field of a packed number -/

/-- No two fields of the list meet. -/
def fieldsDisjoint : List (Nat × Nat × Nat) → Bool
  | [] => true
  | (lo, w, _) :: l => fieldsApart lo w l && fieldsDisjoint l

theorem apart_of_fieldsApart {lo w lo' w' v' : Nat} {l : List (Nat × Nat × Nat)} (h : fieldsApart lo w l = true) (hm : (lo', w', v') ∈ l) :
    lo + w ≤ lo' ∨ lo' + w' ≤ lo := by
  have apart := List.all_eq_true.1 h _ hm
  simp only [Bool.or_eq_true, decide_eq_true_eq] at apart
  exact apart.symm

/-- Every field of a number packed of disjoint fields reads back at its width. -/
theorem bits_packBits_of_mem {lo w v : Nat} {l : List (Nat × Nat × Nat)} (hd : fieldsDisjoint l = true) (hm : (lo, w, v) ∈ l) :
    bits (packBits l) lo w = v % 2 ^ w := by
  induction l with
  | nil => exact absurd hm List.not_mem_nil
  | cons e l ih =>
    obtain ⟨lo', w', v'⟩ := e
    obtain ⟨apart, rest⟩ := Bool.and_eq_true_iff.1 hd
    rcases List.mem_cons.1 hm with he | hm
    · obtain ⟨rfl, rfl, rfl⟩ : lo = lo' ∧ w = w' ∧ v = v' := by simpa using he
      exact bits_packBits_here apart
    · rw [bits_packBits_skip (apart_of_fieldsApart apart hm)]
      exact ih rest hm

theorem ofNat_shiftRight_packBits {lo w : Nat} {v : BitVec w} {l : List (Nat × Nat × Nat)} (hd : fieldsDisjoint l = true)
    (hm : (lo, w, v.toNat) ∈ l) : BitVec.ofNat w (packBits l >>> lo) = v := by
  apply BitVec.eq_of_toNat_eq
  rw [BitVec.toNat_ofNat]
  exact (bits_packBits_of_mem hd hm).trans (Nat.mod_eq_of_lt v.isLt)

/-- Only the low `w` bits of a field's value are packed. -/
theorem packBits_cons_congr {lo w v v' : Nat} {l l' : List (Nat × Nat × Nat)} (hv : v % 2 ^ w = v' % 2 ^ w) (hl : packBits l = packBits l') :
    packBits ((lo, w, v) :: l) = packBits ((lo, w, v') :: l') := by
  simp only [packBits, hv, hl]

/-- A number cut at bit `lo + w`: its bits from `lo` on are a field of `w` bits there, and the rest. -/
theorem packBits_cut (n lo w : Nat) (l : List (Nat × Nat × Nat)) (h : packBits l = n / 2 ^ (lo + w) * 2 ^ (lo + w)) :
    packBits ((lo, w, n / 2 ^ lo) :: l) = n / 2 ^ lo * 2 ^ lo := by
  apply Nat.eq_of_testBit_eq
  intro i
  rw [testBit_packBits_cons, h, Nat.testBit_mul_two_pow, Nat.testBit_mul_two_pow, Nat.testBit_div_two_pow, Nat.testBit_div_two_pow]
  by_cases hl : lo ≤ i
  · by_cases hw : lo + w ≤ i
    · have : ¬ i - lo < w := by omega
      simp [hl, hw, this]
    · have : i - lo < w := by omega
      simp [hl, hw, this]
  · have : ¬ lo + w ≤ i := by omega
    simp [hl, this]

/-! ## The header flit (R49) -/

/-- The reserved bits of a header, cut into the four fields in which they lie. -/
theorem packBits_rsv {n : Nat} (h : n < 2 ^ 26) : packBits [(0, 2, n), (2, 8, n / 4), (10, 4, n / 1024), (14, 12, n / 16384)] = n := by
  have none : packBits [] = n / 2 ^ (14 + 12) * 2 ^ (14 + 12) := by rw [Nat.div_eq_of_lt h]; rfl
  have all := packBits_cut n 0 2 _ (packBits_cut n 2 8 _ (packBits_cut n 10 4 _ (packBits_cut n 14 12 [] none)))
  simpa using all

/-- The fields of a header as R49 lays them out. -/
def hdrFields (h : Hdr) : List (Nat × Nat × Nat) :=
  [(0, 12, h.dest.toNat), (12, 12, h.src.toNat), (24, 12, h.tenant.toNat), (36, 6, h.kind.toNat), (42, 3, h.tc.toNat), (45, 2, h.rly.toNat),
    (47, 5, h.plane.toNat), (52, 10, h.len.toNat), (62, 2, h.rsv.toNat), (64, 16, h.tag.toNat), (80, 16, h.seq.toNat), (96, 8, h.epoch.toNat),
    (104, 8, h.xgen.toNat), (112, 8, h.attr.toNat), (120, 8, h.rsv.toNat / 4), (128, 60, h.addr.toNat), (188, 4, h.rsv.toNat / 1024),
    (192, 24, h.stamp.toNat), (216, 16, h.hcrc.toNat), (232, 12, h.via.toNat), (244, 12, h.rsv.toNat / 16384), (256, 256, h.ext.toNat)]

theorem hdrBits_eq_packBits (h : Hdr) : hdrBits h = packBits (hdrFields h) := rfl

theorem hdrFields_disjoint (h : Hdr) : fieldsDisjoint (hdrFields h) = true := rfl

section
variable {h : Hdr} {lo w : Nat}

theorem hdrBits_part {v : Nat} (hm : (lo, w, v) ∈ hdrFields h) : (hdrBits h >>> lo) % 2 ^ w = v % 2 ^ w :=
  bits_packBits_of_mem (hdrFields_disjoint h) hm

theorem ofNat_shiftRight_hdrBits {v : BitVec w} (hm : (lo, w, v.toNat) ∈ hdrFields h) : BitVec.ofNat w (hdrBits h >>> lo) = v :=
  ofNat_shiftRight_packBits (hdrFields_disjoint h) hm

theorem hdrBits_rsv : BitVec.ofNat 26 (packBits [(0, 2, hdrBits h >>> 62), (2, 8, hdrBits h >>> 120), (10, 4, hdrBits h >>> 188),
    (14, 12, hdrBits h >>> 244)]) = h.rsv := by
  have parts : packBits [(0, 2, hdrBits h >>> 62), (2, 8, hdrBits h >>> 120), (10, 4, hdrBits h >>> 188), (14, 12, hdrBits h >>> 244)] =
      packBits [(0, 2, h.rsv.toNat), (2, 8, h.rsv.toNat / 4), (10, 4, h.rsv.toNat / 1024), (14, 12, h.rsv.toNat / 16384)] :=
    packBits_cons_congr (hdrBits_part (by simp [hdrFields])) (packBits_cons_congr (hdrBits_part (by simp [hdrFields]))
      (packBits_cons_congr (hdrBits_part (by simp [hdrFields])) (packBits_cons_congr (hdrBits_part (by simp [hdrFields])) rfl)))
  rw [parts, packBits_rsv h.rsv.isLt, BitVec.ofNat_toNat, BitVec.setWidth_eq]

end

/-- Settles O6: no two of the fields of R49 meet, and the four parts of the reserved bits make them up. -/
theorem headerRoundTrip : Obligations.HeaderRoundTrip := by
  intro h
  have dest : BitVec.ofNat 12 (hdrBits h) = h.dest := ofNat_shiftRight_hdrBits (lo := 0) (by simp [hdrFields])
  rw [hdrOfBits, hdrBits_rsv, dest]
  congr 1
  all_goals exact ofNat_shiftRight_hdrBits (by simp [hdrFields])

/-! ## Stamps (R53) -/

/-- The difference of two numbers below 2^24, modulo 2^24. -/
theorem diff_mod {a b : Nat} (ha : a < 2 ^ 24) (hb : b < 2 ^ 24) :
    (b + 2 ^ 24 - a) % 2 ^ 24 = if a ≤ b then b - a else b + 2 ^ 24 - a := by
  split
  · rw [show b + 2 ^ 24 - a = b - a + 2 ^ 24 by omega, Nat.add_mod_right]
    exact Nat.mod_eq_of_lt (by omega)
  · exact Nat.mod_eq_of_lt (by omega)

theorem stampBefore_iff (a b : BitVec 24) : stampBefore a b = true ↔
    1 ≤ (b.toNat + 2 ^ 24 - a.toNat) % 2 ^ 24 ∧ (b.toNat + 2 ^ 24 - a.toNat) % 2 ^ 24 ≤ 8388608 := by
  have diff : (b - a).toNat = (b.toNat + 2 ^ 24 - a.toNat) % 2 ^ 24 := by
    rw [BitVec.toNat_sub]
    omega
  simp only [stampBefore, diff, Bool.and_eq_true, decide_eq_true_eq]

/-- Settles O7: the two differences of two stamps add up to 2^24, unless both are 0. -/
theorem stampOrder : Obligations.StampOrder := by
  intro a b d
  have ha := a.isLt
  have hb := b.isLt
  have ab : d = if a.toNat ≤ b.toNat then b.toNat - a.toNat else b.toNat + 2 ^ 24 - a.toNat := diff_mod ha hb
  refine ⟨stampBefore_iff a b, ?_, ?_⟩
  · rw [← Bool.not_eq_true, stampBefore_iff, stampBefore_iff, diff_mod hb ha, diff_mod ha hb, ab]
    split <;> split <;> omega
  · rw [← BitVec.toNat_inj, ab]
    split <;> omega

end Sys2Proof.Machine
end

section
/-!
PROOFS. Requests at their targets: what arrives at a unit (R51), and requests at the home end-point (R289): O41.
-/
namespace Sys2Proof.Machine
open Sys2Proof

/-! ## Packets in an arrival queue (R51) -/

section
variable {s : State} {x : Nat} {p : Packet} {f : State → State}

theorem received_of_not_mem (h : (x, p) ∉ s.inbox) : received s x p f = s := by simp [received, h]

theorem received_of_wrong_hcrc (h : (x, p) ∈ s.inbox) (hc : p.h.hcrc ≠ hcrcOf p.h) : received s x p f = takeIn s x p := by
  simp [received, h, hc.symm]

theorem received_of_arrived (h : arrived s x p) : received s x p f = f (takeIn s x p) := by simp [received, h.1, h.2.symm]

/-- A command that receives `p` leaves the state alone where `p` has not come, and drops it where its HCRC is wrong. -/
theorem notArrived_of_received {c : Instr} (h : exec c s = .next (received s x p f)) : notArrived c s x p := by
  refine ⟨fun hn => ?_, fun hm hc => ?_⟩
  · rw [h, received_of_not_mem hn]
  · rw [h, received_of_wrong_hcrc hm hc]

/-! ### Requests of a kind (R229) -/

variable {k : Kind}

/-- The requests that an end-point or the home end-point serves, with their kinds. -/
def targetRequests (x : Fin 4) (p : Packet) : List (Instr × Kind) :=
  [(.read x p, .read), (.write x p, .write), (.readBulk x p, .readBulk), (.writeBulk x p, .writeBulk), (.readTile x p, .readTile),
    (.writeTile x p, .writeTile), (.atomic x p, .atomic), (.signal x p, .signal)]

theorem exec_targetRequest {x : Fin 4} : ∀ c ∈ targetRequests x p, exec c.1 s = .next (targetArrive s (224 + x.val) p c.2) := by
  simp only [targetRequests, List.forall_mem_cons, List.not_mem_nil, false_implies, implies_true, and_true]
  exact ⟨rfl, rfl, rfl, rfl, rfl, rfl, rfl, rfl⟩

/-- What the target at crossbar port `x` makes of a request that has arrived there. -/
def targetTakes (s : State) (x : Nat) (p : Packet) : State :=
  if 226 ≤ x then homeServe s x p
  else if stale s (x - 224) p.h then cnt s (Reg.EP.EP_COUNT_B.STALE_DISCARDS (x - 224))
  else sequenced s (x - 224) p

theorem targetArrive_of_held (h : p.h.k ≠ some k ∨ p.h.tc = 1 ∧ keptFull s x = true) : targetArrive s x p k = s := by
  rcases h with h | h <;> simp [targetArrive, h]

theorem targetArrive_of_open (hk : p.h.k = some k) (hw : ¬ (p.h.tc = 1 ∧ keptFull s x = true)) :
    targetArrive s x p k = received s x p (targetTakes · x p) := by
  simp only [targetArrive]
  rw [if_neg]
  · rfl
  · simpa [hk] using hw

end

section
variable {s : State} {x : Fin 4} {p : Packet} {c : Instr × Kind} (hc : c ∈ targetRequests x p)
include hc

theorem exec_targetRequest_held (h : p.h.k ≠ some c.2 ∨ p.h.tc = 1 ∧ keptFull s (224 + x.val) = true) : exec c.1 s = .next s := by
  rw [exec_targetRequest c hc, targetArrive_of_held h]

section
variable (hk : p.h.k = some c.2) (hw : ¬ (p.h.tc = 1 ∧ keptFull s (224 + x.val) = true))
include hk hw

theorem exec_targetRequest_open : exec c.1 s = .next (received s (224 + x.val) p (targetTakes · (224 + x.val) p)) := by
  rw [exec_targetRequest c hc, targetArrive_of_open hk hw]

theorem exec_targetRequest_arrived (h : arrived s (224 + x.val) p) :
    exec c.1 s = .next (targetTakes (takeIn s (224 + x.val) p) (224 + x.val) p) := by
  rw [exec_targetRequest_open hc hk hw, received_of_arrived h]

end
end

/-! ## The home end-point (R78, R289) -/

section
variable {s : State} {x : Nat} {p : Packet} {k : Kind}

theorem homeFar_iff {h : Hdr} : homeFar s h = true ↔
    h.rly = 1 ∧ homePlane h.addr.toNat (planesOf (rd s (Reg.EP.EP_PLANES.PLANE_LIST 0))) ≠ planeId s := by simp [homeFar]

theorem indeterminate_of_atomic {h : Hdr} (hk : h.k = some .atomic) : indeterminate h = true := by simp [indeterminate, hk]

theorem indeterminate_of_other {h : Hdr} (hk : h.k = some k) (ha : k ≠ .atomic) (ho : k ≠ .own) : indeterminate h = false := by
  unfold indeterminate
  split
  next he => exact absurd (Option.some.inj (hk.symm.trans he)) ha
  next he => exact absurd (Option.some.inj (hk.symm.trans he)) ho
  next => rfl

/-- Of the requests that a target serves, only an ATOMIC that cannot be relayed is INDETERMINATE (R235). -/
theorem indeterminate_targetRequest {y : Fin 4} {q : Packet} {h : Hdr} {c : Instr × Kind} (hc : c ∈ targetRequests y q) (hk : h.k = some c.2) :
    indeterminate h = true ↔ c.2 = .atomic := by
  have notOwn : c.2 ≠ .own := by
    revert c
    simp [targetRequests]
  refine ⟨fun hi => ?_, fun ha => indeterminate_of_atomic (hk.trans (congrArg some ha))⟩
  by_contra ha
  exact absurd hi (by simp [indeterminate_of_other hk ha notOwn])

theorem homeServe_far (hf : homeFar s p.h = true) :
    homeServe s x p = answer s x p.h (if indeterminate p.h = true then ccIndeterminate else ccUnsupported) 0 0 := by
  simp [homeServe, hf, relayRefused]

section
variable (near : ¬ homeFar s p.h = true)
include near

/-! ### Reads -/

section
variable (hk : p.h.k = some .read ∨ p.h.k = some .readBulk ∨ p.h.k = some .readTile)
include hk

theorem homeServe_read : homeServe s x p =
    if (xgenEntry s p.h).isNone = true then answer s x p.h ccRevoked 0 0
    else if hbmPoisoned s (homeAddr s p.h.off) (readLen p.h) = true then answer s x p.h ccPoison 0 0
    else answerData s x p.h (hbmRdN s (homeAddr s p.h.off) (readLen p.h)) := by
  rcases hk with hk | hk | hk <;> simp only [homeServe, near, hk] <;> rfl

theorem homeServe_read_revoked (hx : xgenEntry s p.h = none) : homeServe s x p = answer s x p.h ccRevoked 0 0 := by
  simp [homeServe_read near hk, hx]

theorem homeServe_read_poison (hx : xgenEntry s p.h ≠ none) (hp : hbmPoisoned s (homeAddr s p.h.off) (readLen p.h) = true) :
    homeServe s x p = answer s x p.h ccPoison 0 0 := by
  simp [homeServe_read near hk, hx, hp]

theorem homeServe_read_data (hx : xgenEntry s p.h ≠ none) (hp : hbmPoisoned s (homeAddr s p.h.off) (readLen p.h) = false) :
    homeServe s x p = answerData s x p.h (hbmRdN s (homeAddr s p.h.off) (readLen p.h)) := by
  simp [homeServe_read near hk, hx, hp]

end

/-! ### Writes -/

section
variable (hk : p.h.k = some .write ∨ p.h.k = some .writeBulk ∨ p.h.k = some .writeTile)
include hk

theorem homeServe_sig (hs : p.h.sig = true) : homeServe s x p = answer s x p.h ccUnsupported 0 0 := by
  rcases hk with hk | hk | hk <;> simp [homeServe, near, hk, hs]

section
variable (hs : p.h.sig = false)
include hs

theorem homeServe_write_revoked (hx : xgenEntry s p.h = none) : homeServe s x p = answer s x p.h ccRevoked 0 0 := by
  rcases hk with hk | hk | hk <;> simp [homeServe, near, hk, hs, hx]

theorem homeServe_write_unchecked (hx : xgenEntry s p.h ≠ none) (hw : p.h.k ≠ some .write) (hc : tileWriteCheck p ≠ ccOk) :
    homeServe s x p = answer s x p.h (tileWriteCheck p) 0 0 := by
  rcases hk with hk | hk | hk
  · exact absurd hk hw
  · simp [homeServe, near, hk, hs, hx, hc]
  · simp [homeServe, near, hk, hs, hx, hc]

end
end

section
variable (hs : p.h.sig = false) (hx : xgenEntry s p.h ≠ none)
include hs hx

theorem homeServe_write (hk : p.h.k = some .write) :
    homeServe s x p = answer (hbmWr s (homeAddr s p.h.off) (padTo p.h.len.toNat p.payload)) x p.h ccOk 0 0 := by
  simp [homeServe, near, hk, hs, hx, writeData]

section
variable (hc : tileWriteCheck p = ccOk)
include hc

theorem homeServe_writeBulk (hk : p.h.k = some .writeBulk) :
    homeServe s x p = answer (hbmWr s (homeAddr s p.h.off) ((tileData p.payload).take (tileValid p.payload))) x p.h ccOk 0 0 := by
  simp [homeServe, near, hk, hs, hx, hc, writeData]

theorem homeServe_writeTile_poison (hk : p.h.k = some .writeTile) (hp : hbmPoisoned s (homeAddr s p.h.off) 64 = true) :
    homeServe s x p = answer s x p.h ccPoison 0 0 := by
  simp [homeServe, near, hk, hs, hx, hc, hp]

theorem homeServe_writeTile (hk : p.h.k = some .writeTile) (hp : hbmPoisoned s (homeAddr s p.h.off) 64 = false) :
    homeServe s x p = answer (hbmWr s (homeAddr s p.h.off)
      (sealTile (ofLeBytes (hbmRdN s (homeAddr s p.h.off + 4) 4)) p.payload)) x p.h ccOk 0 0 := by
  simp [homeServe, near, hk, hs, hx, hc, hp]

end
end

/-! ### SIGNALs and ATOMICs -/

theorem homeServe_signal (hk : p.h.k = some .signal) : homeServe s x p = answer s x p.h ccUnsupported 0 0 := by
  simp [homeServe, near, hk]

section
variable (hk : p.h.k = some .atomic)
include hk

theorem homeServe_atomic_bad (hb : atomicBad p.h = true) : homeServe s x p = answerAtomic s x p.h ccUnsupported 0 0 := by
  simp [homeServe, near, hk, hb]

theorem homeServe_atomic (hb : atomicBad p.h = false) : homeServe s x p = homeAtomic s x p.h := by
  simp [homeServe, near, hk, hb]

end
end

section
variable {h : Hdr}

theorem homeAtomic_kept {r : Packet} (hr : keptFor s x h = some r) : homeAtomic s x h = offer s x r := by simp [homeAtomic, hr]

section
variable (hr : keptFor s x h = none)
include hr

theorem homeAtomic_revoked (hx : xgenEntry s h = none) : homeAtomic s x h = answerAtomic s x h ccRevoked 0 0 := by
  simp [homeAtomic, hr, hx]

section
variable (hx : xgenEntry s h ≠ none)
include hx

theorem homeAtomic_poison (hp : hbmPoisoned s (homeAddr s h.off) (atomBytes h) = true) :
    homeAtomic s x h = answerAtomic s x h ccPoison 0 0 := by
  simp [homeAtomic, hr, hx, hp]

theorem homeAtomic_done (hp : hbmPoisoned s (homeAddr s h.off) (atomBytes h) = false) :
    homeAtomic s x h =
      (let n := atomBytes h
       let a := homeAddr s h.off
       let old := ofLeBytes (hbmRdN s a n)
       answerAtomic (hbmWr s a (leBytes n (atomicNew (h.x 32 4) (8 * n) old (h.x 64 64) (h.x 128 64)))) x h ccOk 0 old) := by
  simp [homeAtomic, hr, hx, hp]

end
end
end
end

/-- Settles O41: the queue, the class and the HCRC decide whether a request arrives; then its home plane, its kind, its extent entry, its tile and
the poison of what it addresses decide its answer. -/
theorem homeRequests : Obligations.HomeRequests := by
  intro s x p home y t h a n old reads writes waits far got gives
  have far_iff : homeFar t h = true ↔ far := homeFar_iff
  have isRead {c : Instr × Kind} (hc : c ∈ reads) : c ∈ targetRequests x p ∧ (c.2 = .read ∨ c.2 = .readBulk ∨ c.2 = .readTile) := by
    revert c
    simp [reads, targetRequests]
  have isWrite {c : Instr × Kind} (hc : c ∈ writes) : c ∈ targetRequests x p ∧ (c.2 = .write ∨ c.2 = .writeBulk ∨ c.2 = .writeTile) := by
    revert c
    simp [writes, targetRequests]
  have goes {c : Instr × Kind} {u : State} (hc : c ∈ targetRequests x p) (hg : got c) (hu : homeServe t y p = u) : exec c.1 s = .next u := by
    obtain ⟨hk, hw, ha⟩ := hg
    rw [exec_targetRequest_arrived hc hk hw ha, targetTakes, if_pos (by omega)]
    exact congrArg _ hu
  refine ⟨fun c hc => ?_, fun c hc hg hn => ?_, fun c hc hg hn => ?_, fun hg hn hs hx => ?_, fun hg hn hs hx hc => ?_, fun hg hn hs hx hc => ?_,
    fun hg hn => ?_, fun hg hn => ?_⟩
  · have hm : c ∈ targetRequests x p := by
      revert hc
      simp only [reads, writes, targetRequests, List.cons_append, List.nil_append, List.mem_cons, List.not_mem_nil]
      tauto
    refine ⟨exec_targetRequest_held hm, fun hk hw => notArrived_of_received (exec_targetRequest_open hm hk hw), fun hg hf => goes hm hg ?_⟩
    rw [homeServe_far (far_iff.2 hf), if_congr (indeterminate_targetRequest hm hg.1) rfl rfl]
  all_goals rw [← far_iff] at hn
  · obtain ⟨hm, hq⟩ := isRead hc
    have kind : h.k = some .read ∨ h.k = some .readBulk ∨ h.k = some .readTile := by simpa [hg.1] using hq
    exact ⟨fun hx => goes hm hg (homeServe_read_revoked hn kind hx), fun hx hp => goes hm hg (homeServe_read_poison hn kind hx hp),
      fun hx hp => goes hm hg (homeServe_read_data hn kind hx hp)⟩
  · obtain ⟨hm, hq⟩ := isWrite hc
    have kind : h.k = some .write ∨ h.k = some .writeBulk ∨ h.k = some .writeTile := by simpa [hg.1] using hq
    refine ⟨fun hs => goes hm hg (homeServe_sig hn kind hs), fun hs hx => goes hm hg (homeServe_write_revoked hn kind hs hx),
      fun hs hx hw hc => goes hm hg (homeServe_write_unchecked hn kind hs hx ?_ hc)⟩
    rw [show p.h.k = some c.2 from hg.1]
    simpa using hw
  · exact goes (by simp [targetRequests]) hg (homeServe_write hn hs hx hg.1)
  · exact goes (by simp [targetRequests]) hg (homeServe_writeBulk hn hs hx hc hg.1)
  · exact ⟨fun hp => goes (by simp [targetRequests]) hg (homeServe_writeTile_poison hn hs hx hc hg.1 hp),
      fun hp => goes (by simp [targetRequests]) hg (homeServe_writeTile hn hs hx hc hg.1 hp)⟩
  · have does {u : State} (hu : homeServe t y p = u) : exec (.atomic x p) s = .next u :=
      goes (c := (.atomic x p, .atomic)) (by simp [targetRequests]) hg hu
    have serves {u : State} (hb : atomicBad h = false) (hu : homeAtomic t y h = u) : exec (.atomic x p) s = .next u :=
      does ((homeServe_atomic hn hg.1 hb).trans hu)
    exact ⟨fun hb => does (homeServe_atomic_bad hn hg.1 hb), fun r hb hr => serves hb (homeAtomic_kept hr),
      fun hb hr => ⟨fun hx => serves hb (homeAtomic_revoked hr hx), fun hx hp => serves hb (homeAtomic_poison hr hx hp),
        fun hx hp => serves hb (homeAtomic_done hr hx hp)⟩⟩
  · exact goes (by simp [targetRequests]) hg (homeServe_signal hn hg.1)

end Sys2Proof.Machine
end

section
/-!
PROOFS. Requests at an end-point: their sequence (R256), their turn (R255), and what is served (R78, R273, R286, R318): O42.
-/
namespace Sys2Proof.Machine
open Sys2Proof

/-! ## The sequence of a request (R256) -/

section
variable {s : State} {e : Nat} {p : Packet}

theorem sequenced_first (h : seqRec s (seqKey e p.h.src.toNat p.h.tc.toNat) = none) : sequenced s e p =
    epDeliver (setSeq s (seqKey e p.h.src.toNat p.h.tc.toNat) { expect := (p.h.seq.toNat + 1) % 65536, held := [], last := s.now }) e p := by
  simp [sequenced, h]

/-- How far the SEQ of `p` lies past the one that record `r` expects. -/
def seqAhead (r : SeqRec) (p : Packet) : Nat := (p.h.seq.toNat + 65536 - r.expect) % 65536

/-- The reorder buffer of end-point `e` takes `p` in record `r` (R256, R275). -/
def reorderRoom (s : State) (e : Nat) (r : SeqRec) (p : Packet) : Prop :=
  (∀ q ∈ r.held, q.1.h.seq ≠ p.h.seq) ∧ reorderUsed s e + 64 + p.payload.length ≤ 4 * 2 ^ 20

section
variable {r : SeqRec} (h : seqRec s (seqKey e p.h.src.toNat p.h.tc.toNat) = some r)
include h

theorem sequenced_expected (hd : seqAhead r p = 0) : sequenced s e p =
    drainHeld (epDeliver (setSeq s (seqKey e p.h.src.toNat p.h.tc.toNat) { r with expect := (p.h.seq.toNat + 1) % 65536, last := s.now }) e p) e
      (seqKey e p.h.src.toNat p.h.tc.toNat) r.held.length := by
  unfold seqAhead at hd
  simp [sequenced, h, hd]

theorem sequenced_later (hd : 0 < seqAhead r p) : sequenced s e p =
    if (decide (seqAhead r p < 16384) && !(r.held.any fun q => q.1.h.seq == p.h.seq) &&
        decide (reorderUsed s e + 64 + p.payload.length ≤ 4 * 2 ^ 20)) = true then
      setSeq s (seqKey e p.h.src.toNat p.h.tc.toNat) { r with held := r.held ++ [(p, s.now)] }
    else cnt s (Reg.EP.EP_COUNT_B.SEQ_DISCARDS e) := by
  simp only [sequenced, h]
  exact if_neg (Nat.pos_iff_ne_zero.1 hd)

theorem sequenced_held (hd : 0 < seqAhead r p) (hn : seqAhead r p < 16384) (room : reorderRoom s e r p) :
    sequenced s e p = setSeq s (seqKey e p.h.src.toNat p.h.tc.toNat) { r with held := r.held ++ [(p, s.now)] } := by
  obtain ⟨other, fits⟩ := room
  rw [sequenced_later h hd, if_pos]
  simp only [hn, fits, decide_true, Bool.true_and, Bool.and_true, Bool.not_eq_true', List.any_eq_false, beq_iff_eq]
  exact other

theorem sequenced_discarded (hd : 0 < seqAhead r p) (hn : 16384 ≤ seqAhead r p ∨ ¬ reorderRoom s e r p) :
    sequenced s e p = cnt s (Reg.EP.EP_COUNT_B.SEQ_DISCARDS e) := by
  rw [sequenced_later h hd, if_neg]
  intro ok
  simp only [Bool.and_eq_true, decide_eq_true_eq, Bool.not_eq_true', List.any_eq_false, beq_iff_eq] at ok
  obtain ⟨⟨near, other⟩, fits⟩ := ok
  exact hn.elim (by omega) (· ⟨other, fits⟩)

end

/-! ## A delivered request (R255, R281) -/

theorem epDeliver_behind (h : ¬ (storePending s e p.h = false ∧ behindOf s e p.h = false)) :
    epDeliver s e p = { s with ep := { s.ep with behind := s.ep.behind ++ [(e, p)] } } := by
  rw [epDeliver, if_pos]
  simpa [Classical.or_iff_not_imp_left] using h

section
variable (h : storePending s e p.h = false ∧ behindOf s e p.h = false)
include h

theorem epDeliver_free : epDeliver s e p = epTake s e p := by simp [epDeliver, h.1, h.2]

theorem epDeliver_xlate {f a : Nat} (hx : needsXlate s e p = some (f, a)) : epDeliver s e p = hostOp s e f a (storeLen p) (.arrive p) := by
  rw [epDeliver_free h]
  simp [epTake, hx]

theorem epDeliver_served (hx : needsXlate s e p = none) : epDeliver s e p = epServe s e p := by
  rw [epDeliver_free h]
  simp [epTake, hx]

end

/-! ### Of an older epoch (R273) -/

theorem epServe_of_oldEpoch {k : Kind} (hk : p.h.k = some k) (ha : k.answered = true) (ho : oldEpoch s p.h = true) :
    epServe s e p = epOldEpoch s e p.h := by
  simp [epServe, ho, hk, ha]

section
variable {h : Hdr}

theorem epOldEpoch_of_not_atomic (hk : h.k ≠ some .atomic) : epOldEpoch s e h = answer s (epPort e) h ccStepAbort 0 0 := by
  simp [epOldEpoch, hk]

section
variable (hk : h.k = some .atomic)
include hk

theorem epOldEpoch_atomic (hr : keptFor s (epPort e) h = none) : epOldEpoch s e h = answerAtomic s (epPort e) h ccStepAbort 0 0 := by
  simp [epOldEpoch, hk, hr]

theorem epOldEpoch_atomic_kept {r : Packet} (hr : keptFor s (epPort e) h = some r) : epOldEpoch s e h = offer s (epPort e) r := by
  simp [epOldEpoch, hk, hr]

end
end

/-! ### The checks of a write (R75) -/

/-- The CCODE of the checks of a WRITE or WRITE_BULK. -/
def writeCheck (p : Packet) : Nat := if p.h.k = some .write then ccOk else tileWriteCheck p

theorem epWrite_of_export {c a : Nat} (hx : exportFor s e p.h = some (c, a)) : epWrite s e p =
    if writeCheck p = ccOk then (ccOk, dmaWrite s e (ctxFunc s c) a (writeData p)) else (writeCheck p, s) := by
  by_cases hw : p.h.k = some .write <;> simp [epWrite, hx, writeCheck, hw]

section
variable (now : oldEpoch s p.h = false)
include now

/-! ### With RLY = 1 (R78) -/

theorem epServe_relay (hr : p.h.rly = 1) : epServe s e p = relay s e p := by simp [epServe, now, hr]

/-! ### Reads, writes and counted packets (R264, R286) -/

section
variable (direct : p.h.rly ≠ 1#2)
include direct

section
variable (hk : p.h.k = some .read ∨ p.h.k = some .readBulk ∨ p.h.k = some .readTile)
include hk

theorem epServe_read_revoked (hx : exportFor s e p.h = none) : epServe s e p = answer s (epPort e) p.h ccRevoked 0 0 := by
  rcases hk with hk | hk | hk <;> simp [epServe, now, direct, hk, hx]

theorem epServe_read {c a : Nat} (hx : exportFor s e p.h = some (c, a)) :
    epServe s e p = hostOp s e (ctxFunc s c) a (readLen p.h) (.target p.h) := by
  rcases hk with hk | hk | hk <;> simp [epServe, now, direct, hk, hx]

end

section
variable (hk : p.h.k = some .write ∨ p.h.k = some .writeBulk) (hs : p.h.sig = false)
include hk hs

theorem epServe_write : epServe s e p = answer (epWrite s e p).2 (epPort e) p.h (epWrite s e p).1 0 0 := by
  rcases hk with hk | hk <;> simp [epServe, now, direct, hk, hs]

theorem epServe_write_revoked (hx : exportFor s e p.h = none) : epServe s e p = answer s (epPort e) p.h ccRevoked 0 0 := by
  simp [epServe_write now direct hk hs, epWrite, hx]

section
variable {c a : Nat} (hx : exportFor s e p.h = some (c, a))
include hx

theorem epServe_write_unchecked (hc : writeCheck p ≠ ccOk) : epServe s e p = answer s (epPort e) p.h (writeCheck p) 0 0 := by
  rw [epServe_write now direct hk hs, epWrite_of_export hx, if_neg hc]

theorem epServe_write_done (hc : writeCheck p = ccOk) :
    epServe s e p = answer (dmaWrite s e (ctxFunc s c) a (writeData p)) (epPort e) p.h ccOk 0 0 := by
  rw [epServe_write now direct hk hs, epWrite_of_export hx, if_pos hc]

end
end

section
variable (hk : p.h.k = some .writeTile) (hs : p.h.sig = false)
include hk hs

theorem epServe_writeTile : epServe s e p = tileStore s e p := by simp [epServe, now, direct, hk, hs]

end

theorem epServe_sig (h : p.h.k = some .signal ∨ (p.h.k = some .write ∨ p.h.k = some .writeBulk ∨ p.h.k = some .writeTile) ∧ p.h.sig = true) :
    epServe s e p = sigArrive s e p := by
  rcases h with hk | ⟨hk | hk | hk, hs⟩
  · simp [epServe, now, direct, hk]
  all_goals simp [epServe, now, direct, hk, hs]

theorem epServe_atomic (hk : p.h.k = some .atomic) : epServe s e p = epAtomic s e p := by simp [epServe, now, direct, hk]

end
end

/-! ### Relays (R78) -/

theorem relays_iff {h : Hdr} : relays s e h = true ↔
    (planesOf (rd s (Reg.EP.EP_PLANES.PLANE_LIST e))).contains (planeId s) = true ∧
      homePlane h.addr.toNat (planesOf (rd s (Reg.EP.EP_PLANES.PLANE_LIST e))) = planeId s ∧ epUp s e = true := by
  simp [relays, and_assoc]

/-- The state after the re-issue of `h` has taken its number (R60, R80). -/
def relayNoted (s : State) (e : Nat) (h : Hdr) : State :=
  let k := seqKey e h.dest.toNat h.tc.toNat
  let sp := spaceOf s k
  { s with ep := { s.ep with
    spaces := setKey s.ep.spaces k { sp with next := (sp.next + 1) % 65536, lastSent := s.now }
    relays := setKey (s.ep.relays.filter (fun r => decide (s.now < r.2.2.2 + ms 2))) (relayKey e h.src.toNat h.tag.toNat sp.next)
      (h.seq.toNat, k, s.now) } }

theorem relay_near (h : relays s e p.h = true) : relay s e p =
    offer (relayNoted s e p.h) (epPort e) (mkPacket (relayNoted s e p.h)
      { p.h with rly := 2, via := BitVec.ofNat 12 (epId s e), seq := BitVec.ofNat 16 (spaceOf s (seqKey e p.h.dest.toNat p.h.tc.toNat)).next }
      p.payload) := by
  rw [relay, if_pos h]
  rfl

theorem relay_far (h : ¬ relays s e p.h = true) :
    relay s e p = answer s (epPort e) p.h (if indeterminate p.h = true then ccIndeterminate else ccUnsupported) 0 0 := by
  rw [relay, if_neg h]
  rfl

/-! ### Sealed tiles (R76) -/

theorem tileStore_revoked (hx : exportFor s e p.h = none) : tileStore s e p = answer s (epPort e) p.h ccRevoked 0 0 := by simp [tileStore, hx]

section
variable {c a : Nat} (hx : exportFor s e p.h = some (c, a))
include hx

theorem tileStore_unchecked (hc : tileWriteCheck p ≠ ccOk) : tileStore s e p = answer s (epPort e) p.h (tileWriteCheck p) 0 0 := by
  simp [tileStore, hx, hc]

theorem tileStore_begins (hc : tileWriteCheck p = ccOk) : tileStore s e p = hostOp s e (ctxFunc s c) a 8 (.seal p.h p.payload) := by
  simp [tileStore, hx, hc]

end

/-! ### ATOMICs (R318) -/

theorem epAtomic_bad (hb : atomicBad p.h = true) : epAtomic s e p = answerAtomic s (epPort e) p.h ccUnsupported 0 0 := by
  simp [epAtomic, hb]

section
variable (hb : atomicBad p.h = false)
include hb

theorem epAtomic_kept {r : Packet} (hr : keptFor s (epPort e) p.h = some r) : epAtomic s e p = offer s (epPort e) r := by
  simp [epAtomic, hb, hr]

section
variable (hr : keptFor s (epPort e) p.h = none)
include hr

theorem epAtomic_revoked (hx : exportFor s e p.h = none) : epAtomic s e p = answerAtomic s (epPort e) p.h ccRevoked 0 0 := by
  simp [epAtomic, hb, hr, hx]

section
variable {c a : Nat} (hx : exportFor s e p.h = some (c, a))
include hx

theorem epAtomic_off (ha : e * 256 + ctxFunc s c ∉ s.host.atomicEn) : epAtomic s e p = answerAtomic s (epPort e) p.h ccUnsupported 0 0 := by
  simp [epAtomic, hb, hr, hx, ha]

theorem epAtomic_begins (ha : e * 256 + ctxFunc s c ∈ s.host.atomicEn) : epAtomic s e p =
    hostOp s e (ctxFunc s c) a (atomBytes p.h) (if (atomicOpOf (p.h.x 32 4)).isSome then .atomicOp p.h else .casRead p.h 0) := by
  simp [epAtomic, hb, hr, hx, ha]

end
end
end
end

theorem answered_of_mem_targetRequests {x : Fin 4} {p : Packet} : ∀ c ∈ targetRequests x p, c.2.answered = true := by
  simp only [targetRequests, List.forall_mem_cons, List.not_mem_nil, false_implies, implies_true, and_true]
  decide

/-- Settles O42: the queue, the class, the HCRC, the STAMP and the sequence decide whether a request is delivered; then its turn, its translation,
its epoch, its RLY, its kind and the extent that it names decide what the end-point does. -/
theorem endPointRequests : Obligations.EndPointRequests := by
  intro s x p ep e y t h k n waits all
  refine ⟨fun c hc => ⟨exec_targetRequest_held hc, fun hk hw => notArrived_of_received (exec_targetRequest_open hc hk hw), fun hk hw ha => ?_⟩,
    fun u => ?_⟩
  · have goes {v : State} (hv : targetTakes t y p = v) : exec c.1 s = .next v := hv ▸ exec_targetRequest_arrived hc hk hw ha
    have here : targetTakes t y p = if stale t e h = true then cnt t (Reg.EP.EP_COUNT_B.STALE_DISCARDS e) else sequenced t e p := by
      rw [targetTakes, if_neg (by omega), Nat.add_sub_cancel_left]
    refine ⟨fun hs => goes (here.trans (if_pos hs)), fun hs => ?_⟩
    have turns {v : State} (hv : sequenced t e p = v) : exec c.1 s = .next v := goes (here.trans ((if_neg (by simp [hs])).trans hv))
    exact ⟨fun hr => turns (sequenced_first hr), fun r hr => ⟨fun hd => turns (sequenced_expected hr hd),
      fun hd hn room => turns (sequenced_held hr hd hn room), fun hd hn => turns (sequenced_discarded hr hd hn)⟩⟩
  intro served gives free now lst near fresh
  have near_iff : relays u e h = true ↔ near := relays_iff
  have serves {v : State} (hn : now) (hv : epServe u e p = v) : served = v := (epDeliver_served hn.1 hn.2).trans hv
  refine ⟨epDeliver_behind, fun f a hf hx => epDeliver_xlate hf hx, fun hn ho hr hp => ?_, fun hn ho hr hp => ?_, fun hn ho => ?_,
    fun hf hk => ?_, fun hf hk hs => ?_, fun hf hk hs => ?_, fun hf hk => ?_, fun hf hk => ?_⟩
  · exact serves hn ((epServe_relay ho hr).trans (relay_near (near_iff.2 hp)))
  · exact serves hn ((epServe_relay ho hr).trans (relay_far (mt near_iff.1 hp)))
  · have old {c : Instr × Kind} {v : State} (hc : c ∈ targetRequests x p) (hk : h.k = some c.2) (hv : epOldEpoch u e h = v) : served = v :=
      serves hn ((epServe_of_oldEpoch hk (answered_of_mem_targetRequests c hc) ho).trans hv)
    have isAtomic : (Instr.atomic x p, Kind.atomic) ∈ targetRequests x p := by simp [targetRequests]
    exact ⟨fun c hc hk ha => old hc hk (epOldEpoch_of_not_atomic (by simpa [hk] using ha)),
      fun hk hr => old isAtomic hk (epOldEpoch_atomic hk hr), fun r hk hr => old isAtomic hk (epOldEpoch_atomic_kept hk hr)⟩
  all_goals obtain ⟨hn, hd, ho⟩ := hf
  · exact ⟨fun hx => serves hn (epServe_read_revoked ho hd hk hx), fun c a hx => serves hn (epServe_read ho hd hk hx)⟩
  · exact ⟨fun hx => serves hn (epServe_write_revoked ho hd hk hs hx), fun c a hx =>
      ⟨fun hc => serves hn (epServe_write_unchecked ho hd hk hs hx hc), fun hc => serves hn (epServe_write_done ho hd hk hs hx hc)⟩⟩
  · have stores {v : State} (hv : tileStore u e p = v) : served = v := serves hn ((epServe_writeTile ho hd hk hs).trans hv)
    exact ⟨fun hx => stores (tileStore_revoked hx), fun c a hx =>
      ⟨fun hc => stores (tileStore_unchecked hx hc), fun hc => stores (tileStore_begins hx hc)⟩⟩
  · have does {v : State} (hv : epAtomic u e p = v) : served = v := serves hn ((epServe_atomic ho hd hk).trans hv)
    exact ⟨fun hb => does (epAtomic_bad hb), fun r hb hr => does (epAtomic_kept hb hr), fun hb hr => ⟨fun hx => does (epAtomic_revoked hb hr hx),
      fun c a hx => ⟨fun ha => does (epAtomic_off hb hr hx ha), fun ha => does (epAtomic_begins hb hr hx ha)⟩⟩⟩
  · exact serves hn (epServe_sig ho hd hk)

end Sys2Proof.Machine
end

section
/-!
PROOFS. What reaches an end-point as a requester: responses (R60, R77, R257, R259) and notices (R83, R258, R271, R358), with the step abort
(R272): O44 and O45.
-/
namespace Sys2Proof.Machine
open Sys2Proof

/-! ## Responses (R257, R259) -/

section
variable {s : State} {e : Nat} {p : Packet} {k : Kind} {f : State → Reqst → State}

/-- What end-point `e` makes of a response that has arrived; `f` is what it does with the request that it answers. -/
def respTakes (s : State) (e : Nat) (p : Packet) (f : State → Reqst → State) : State :=
  if p.h.rly = 2 then relayAnswer s e p
  else if stale s e p.h then cnt s (Reg.EP.EP_COUNT_B.STALE_DISCARDS e)
  else
    match accepted (expireFirst s e p) e p.h with
    | some r => advanceAll (f (expireFirst s e p) r) r.ctx
    | none => cnt (expireFirst s e p) (Reg.EP.EP_COUNT_B.RESP_DISCARDS e)

theorem respArrive_of_kind_ne (hk : p.h.k ≠ some k) : respArrive s e p k f = s := by simp [respArrive, hk]

theorem respArrive_of_kind (hk : p.h.k = some k) : respArrive s e p k f = received s (epPort e) p (respTakes · e p f) := by
  rw [respArrive, if_neg (not_not.2 hk)]
  rfl

theorem respTakes_relayed (hr : p.h.rly = 2) : respTakes s e p f = relayAnswer s e p := if_pos hr

section
variable (hr : p.h.rly ≠ 2#2)
include hr

theorem respTakes_stale (hs : stale s e p.h = true) : respTakes s e p f = cnt s (Reg.EP.EP_COUNT_B.STALE_DISCARDS e) := by
  simp [respTakes, hr, hs]

section
variable (hs : stale s e p.h = false)
include hs

theorem respTakes_unaccepted (ha : accepted (expireFirst s e p) e p.h = none) :
    respTakes s e p f = cnt (expireFirst s e p) (Reg.EP.EP_COUNT_B.RESP_DISCARDS e) := by
  simp [respTakes, hr, hs, ha]

theorem respTakes_accepted {r : Reqst} (ha : accepted (expireFirst s e p) e p.h = some r) :
    respTakes s e p f = advanceAll (f (expireFirst s e p) r) r.ctx := by
  simp [respTakes, hr, hs, ha]

end
end

/-! ### Relayed responses (R60, R78) -/

theorem relayAnswer_old (h : oldEpoch s p.h = true) : relayAnswer s e p = cnt s (Reg.EP.EP_COUNT_B.RESP_DISCARDS e) := if_pos h

/-- The SEQ that a relayed response goes on with: that of its request, where it is still noted (R60). -/
def relaySeq (s : State) (e : Nat) (h : Hdr) : BitVec 16 :=
  match findKey s.ep.relays (relayKey e h.via.toNat h.tag.toNat h.seq.toNat) with | some n => BitVec.ofNat 16 n.1 | none => h.seq

theorem relayAnswer_current (h : oldEpoch s p.h = false) : relayAnswer s e p =
    drainBehind (offer { s with ep := { s.ep with relays := delKey s.ep.relays (relayKey e p.h.via.toNat p.h.tag.toNat p.h.seq.toNat) } } (epPort e)
      (mkPacket s { p.h with dest := p.h.via, src := BitVec.ofNat 12 (epId s e), rly := 0, via := 0, seq := relaySeq s e p.h } p.payload)) e := by
  rw [relayAnswer, if_neg (by simp [h])]
  rfl

/-! ### Sealed tiles (R77, R269) -/

section
variable {r : Reqst} {l : List Byte}

theorem tornRead_repeats (h : r.torn < rd s (Reg.EP.EP_TIMING.TORN_RETRIES r.ep)) : tornRead s r = setReq s { r with st := 4, sentAt := s.now } :=
  if_pos h

theorem tornRead_last (h : rd s (Reg.EP.EP_TIMING.TORN_RETRIES r.ep) ≤ r.torn) : tornRead s r = answerReq s r ccTorn 0 0 0 :=
  if_neg (Nat.not_lt.2 h)

theorem classifyTile_torn (h : tileGen l % 2 = 1 ∨ tileCrcOk l = true ∧ r.reread = true) : classifyTile s r l = tornRead s r := by
  rcases h with h | ⟨hc, hr⟩
  · simp [classifyTile, h]
  · simp [classifyTile, hc, hr]

section
variable (he : ¬ tileGen l % 2 = 1)
include he

theorem classifyTile_whole (hc : tileCrcOk l = true) (hr : r.reread = false) :
    classifyTile s r l = answerReq (deliverRead s r (tileData l)) r 0 0 0 0 := by
  simp [classifyTile, he, hc, hr]

section
variable (hc : tileCrcOk l = false)
include hc

theorem classifyTile_corrupt (hr : r.reread = true) : classifyTile s r l = answerReq s r ccCorrupt 0 0 0 := by
  simp [classifyTile, he, hc, hr]

theorem classifyTile_again (hr : r.reread = false) : classifyTile s r l = readAgain s r true r.torn := by
  simp [classifyTile, he, hc, hr]

end
end

/-! ### What a TILE_RESP and an ATOMIC_RESP do -/

/-- What TILE_RESP `p` does with request `r` (R75, R77). -/
def tileTakes (p : Packet) (s : State) (r : Reqst) : State :=
  if (respCode p.h).1 ≠ 0 then answerReq s r (respCode p.h).1 (respCode p.h).2 0 0
  else if r.h.k == some .readTile then classifyTile s r p.payload
  else if !tileCrcOk p.payload then s
  else
    let data := (tileData p.payload).take (if r.h.k == some .readBulk then r.h.x 64 12 else tileValid p.payload)
    answerReq (if r.h.k == some .readBulk then cacheRead (deliverRead s r data) r data else deliverRead s r data) r 0 0 0 0

theorem exec_tileResp {e : Fin 2} : exec (.tileResp e p) s = .next (respArrive s e.val p .tileResp (tileTakes p)) := rfl

theorem tileTakes_error (h : (respCode p.h).1 ≠ 0) : tileTakes p s r = answerReq s r (respCode p.h).1 (respCode p.h).2 0 0 := if_pos h

section
variable (h : (respCode p.h).1 = 0)
include h

theorem tileTakes_sealed (hk : r.h.k = some .readTile) : tileTakes p s r = classifyTile s r p.payload := by simp [tileTakes, h, hk]

section
variable (hk : r.h.k ≠ some .readTile)
include hk

theorem tileTakes_corrupt (hc : tileCrcOk p.payload = false) : tileTakes p s r = s := by simp [tileTakes, h, hk, hc]

theorem tileTakes_other (hb : r.h.k ≠ some .readBulk) (hc : tileCrcOk p.payload = true) :
    tileTakes p s r = answerReq (deliverRead s r ((tileData p.payload).take (tileValid p.payload))) r 0 0 0 0 := by
  simp [tileTakes, h, hk, hb, hc]

end

theorem tileTakes_bulk (hb : r.h.k = some .readBulk) (hc : tileCrcOk p.payload = true) :
    tileTakes p s r =
      (let d := (tileData p.payload).take (r.h.x 64 12)
       answerReq (cacheRead (deliverRead s r d) r d) r 0 0 0 0) := by
  simp [tileTakes, h, hb, hc]

end

/-- The results of ATOMIC_RESP `p` noted in the descriptor of request `r` (R322). -/
def noteResults (p : Packet) (s : State) (r : Reqst) : State :=
  match r.parts.head? with
  | some q => (match descOf s q.1 with | some d => setDesc s { d with result := p.h.x 64 64, result2 := p.h.x 128 64 } | none => s)
  | none => s

theorem exec_atomicResp {e : Fin 2} : exec (.atomicResp e p) s = .next (respArrive s e.val p .atomicResp (fun s r =>
    answerReq (noteResults p s r) r (respCode p.h).1 (respCode p.h).2 (p.h.x 64 64) (p.h.x 128 64))) := rfl

theorem noteResults_of_nil (h : r.parts = []) : noteResults p s r = s := by simp [noteResults, h]

section
variable {q : Nat × Nat × Nat × Nat} (h : r.parts.head? = some q)
include h

theorem noteResults_of_no_desc (hd : descOf s q.1 = none) : noteResults p s r = s := by simp [noteResults, h, hd]

theorem noteResults_of_desc {d : Desc} (hd : descOf s q.1 = some d) :
    noteResults p s r = setDesc s { d with result := p.h.x 64 64, result2 := p.h.x 128 64 } := by
  simp [noteResults, h, hd]

end
end
end

/-- The four kinds of response, as commands. -/
def responseCommands (e : Fin 2) (p : Packet) : List (Instr × Kind) :=
  [(.completion e p, .completion), (.readResp e p, .readResp), (.tileResp e p, .tileResp), (.atomicResp e p, .atomicResp)]

theorem exec_responseCommand {s : State} {e : Fin 2} {p : Packet} :
    ∀ c ∈ responseCommands e p, ∃ f, exec c.1 s = .next (respArrive s e.val p c.2 f) := by
  simp only [responseCommands, List.forall_mem_cons, List.not_mem_nil, false_implies, implies_true, and_true]
  exact ⟨⟨_, rfl⟩, ⟨_, rfl⟩, ⟨_, rfl⟩, ⟨_, rfl⟩⟩

/-- Settles O44: the HCRC, RLY, the STAMP and the requests in progress decide whether a response is used; then its kind, its CCODE and its tile
decide what its request becomes. -/
theorem responses : Obligations.Responses := by
  intro s e p y t v h cc counted
  refine ⟨fun c hc => ?_, fun r ha hr hs hacc => ?_⟩
  · obtain ⟨f, hf⟩ := exec_responseCommand (s := s) c hc
    have takes (hk : h.k = some c.2) : exec c.1 s = .next (received s y p (respTakes · e.val p f)) := by rw [hf, respArrive_of_kind hk]
    refine ⟨fun hk => by rw [hf, respArrive_of_kind_ne hk], fun hk => notArrived_of_received (takes hk), fun hk ha => ?_⟩
    have goes {u : State} (hu : respTakes t e.val p f = u) : exec c.1 s = .next u := by rw [takes hk, received_of_arrived ha, ← hu]
    exact ⟨fun hr ho => goes ((respTakes_relayed hr).trans (relayAnswer_old ho)),
      fun hr ho => goes ((respTakes_relayed hr).trans (relayAnswer_current ho)),
      fun hr hs => goes (respTakes_stale hr hs), fun hr hs hn => goes (respTakes_unaccepted hr hs hn)⟩
  intro t done data tile sealed odd torn
  have goes {c : Instr} {k : Kind} {f : State → Reqst → State} {u : State} (hf : exec c s = .next (respArrive s e.val p k f)) (hk : h.k = some k)
      (hu : f t r = u) : exec c s = done u := by
    rw [hf, respArrive_of_kind hk, received_of_arrived ha, respTakes_accepted hr hs hacc]
    exact congrArg (fun u => Host.Outcome.next (advanceAll u r.ctx)) hu
  have tiles {u : State} (ht : tile) (hu : tileTakes p t r = u) : exec (.tileResp e p) s = done u := goes exec_tileResp ht.1 hu
  have seals {u : State} (hq : sealed) (hu : classifyTile t r p.payload = u) : exec (.tileResp e p) s = done u :=
    tiles hq.1 ((tileTakes_sealed hq.1.2 hq.2).trans hu)
  refine ⟨fun hk => goes rfl hk rfl, fun hk hc => goes rfl hk (if_pos hc), fun hk hc => goes rfl hk (if_neg hc),
    fun hk hc => goes exec_tileResp hk (tileTakes_error hc), fun ht hn hc => tiles ht (tileTakes_corrupt ht.2 hn hc),
    fun ht hb hc => tiles ht (tileTakes_bulk ht.2 hb hc), fun ht hn hb hc => tiles ht (tileTakes_other ht.2 hn hb hc),
    fun hq ho hl => seals hq ((classifyTile_torn ho).trans (tornRead_repeats hl)),
    fun hq ho hl => seals hq ((classifyTile_torn ho).trans (tornRead_last hl)),
    fun hq ho hc hn => seals hq (classifyTile_whole ho hc hn),
    fun hq ho hc => ⟨fun hn => seals hq (classifyTile_corrupt ho hc hn), fun hn => seals hq (classifyTile_again ho hc hn)⟩, fun hk => ?_⟩
  have atomics {u : State} (hu : noteResults p t r = u) :
      exec (.atomicResp e p) s = done (answerReq u r cc.1 cc.2 (h.x 64 64) (h.x 128 64)) := goes exec_atomicResp hk (by rw [hu])
  exact ⟨fun hp => atomics (noteResults_of_nil hp), fun q hq => ⟨fun hd => atomics (noteResults_of_no_desc hq hd),
    fun d hd => atomics (noteResults_of_desc hq hd)⟩⟩

/-! ## Notices (R72) -/

section
variable {s : State} {e : Fin 2} {p : Packet}

/-- The notices that an end-point acts on, with their codes. -/
def noticeCommands (e : Fin 2) (p : Packet) : List (Instr × Nat) :=
  [(.noticeUnreachable e p, 1), (.noticePortDown e p, 2), (.noticeMemberLost e p, 3), (.noticeTakeover e p, 4)]

/-- A command that acts on a notice of code `n` alone. -/
def onNotice (s : State) (e : Fin 2) (p : Packet) (n : Nat) (f : State → State) : State :=
  if !isNotice p n then s else received s (224 + e.val) p f

theorem exec_noticeCommand : ∀ c ∈ noticeCommands e p, ∃ f, exec c.1 s = .next (onNotice s e p c.2 f) := by
  simp only [noticeCommands, List.forall_mem_cons, List.not_mem_nil, false_implies, implies_true, and_true]
  exact ⟨⟨_, rfl⟩, ⟨_, rfl⟩, ⟨_, rfl⟩, ⟨_, rfl⟩⟩

section
variable {n : Nat} {f : State → State}

theorem onNotice_of_other (h : isNotice p n = false) : onNotice s e p n f = s := by simp [onNotice, h]

theorem onNotice_of_notice (h : isNotice p n = true) : onNotice s e p n f = received s (224 + e.val) p f := by simp [onNotice, h]

theorem onNotice_of_arrived (h : isNotice p n = true) (ha : arrived s (224 + e.val) p) : onNotice s e p n f = f (takeIn s (224 + e.val) p) := by
  rw [onNotice_of_notice h, received_of_arrived ha]

end

/-! ### UNREACHABLE (R258, R271) -/

/-- The bar of the destination that an UNREACHABLE notice names (R258). -/
def barNamed (s : State) (e : Fin 2) (p : Packet) : State :=
  { s with ep := { s.ep with bars := setKey s.ep.bars (4096 * e.val + p.h.x 8 12) (s.now + ms 4) } }

/-- The attempt that an UNREACHABLE notice names. -/
def attemptNamed (s : State) (e : Fin 2) (p : Packet) : Option Reqst :=
  s.ep.reqs.find? (fun r => r.ep == e.val && r.h.tag == p.h.tag && r.st == 1 && r.h.cookie == p.h.x 64 32)

/-- What an end-point does on an UNREACHABLE notice. -/
def unreachableTakes (e : Fin 2) (p : Packet) (s : State) : State :=
  if oldEpoch s p.h then s
  else
    let s := barNamed (expireFirst s e.val p) e p
    match attemptNamed s e p with
    | some r => advanceAll (failAttempt s r) r.ctx
    | none => s

theorem exec_noticeUnreachable : exec (.noticeUnreachable e p) s = .next (onNotice s e p 1 (unreachableTakes e p)) := rfl

theorem unreachableTakes_old (h : oldEpoch s p.h = true) : unreachableTakes e p s = s := if_pos h

section
variable (h : oldEpoch s p.h = false)
include h

theorem unreachableTakes_unnamed (hn : attemptNamed (barNamed (expireFirst s e.val p) e p) e p = none) :
    unreachableTakes e p s = barNamed (expireFirst s e.val p) e p := by
  simp [unreachableTakes, h, hn]

theorem unreachableTakes_named {r : Reqst} (hn : attemptNamed (barNamed (expireFirst s e.val p) e p) e p = some r) :
    unreachableTakes e p s = advanceAll (failAttempt (barNamed (expireFirst s e.val p) e p) r) r.ctx := by
  simp [unreachableTakes, h, hn]

end

/-! ### The step abort (R272) -/

/-- What an end-point does on a STEP_CTL ABORT. -/
def stepCtlTakes (p : Packet) (s : State) : State :=
  if epochNewer (p.h.x 0 8) (epochOf s p.h.tenant.toNat) then stepAbort s p.h.tenant.toNat (p.h.x 0 8) else s

theorem exec_stepCtlAbort_of_other (h : ¬ (p.h.k = some .stepCtl ∧ p.h.x 8 4 = 0)) : exec (.stepCtlAbort e p) s = .next s := by
  refine congrArg Host.Outcome.next (if_pos ?_)
  simpa [Classical.or_iff_not_imp_left] using h

theorem exec_stepCtlAbort (h : p.h.k = some .stepCtl ∧ p.h.x 8 4 = 0) :
    exec (.stepCtlAbort e p) s = .next (received s (224 + e.val) p (stepCtlTakes p)) := by
  refine congrArg Host.Outcome.next (if_neg ?_)
  simp [h]

theorem exec_stepCtlAbort_arrived (h : p.h.k = some .stepCtl ∧ p.h.x 8 4 = 0) (ha : arrived s (224 + e.val) p) :
    exec (.stepCtlAbort e p) s = .next (stepCtlTakes p (takeIn s (224 + e.val) p)) := by
  rw [exec_stepCtlAbort h, received_of_arrived ha]

end

/-- Settles O45: the kind, the code and the HCRC decide whether a notice is taken; the epoch decides what UNREACHABLE and the step abort do. -/
theorem noticesAndAborts : Obligations.NoticesAndAborts := by
  intro s e p y t d tenant admin
  have notices {c : Instr} {n : Nat} {f : State → State} {u : State} (hf : exec c s = .next (onNotice s e p n f)) (hn : isNotice p n = true)
      (ha : arrived s y p) (hu : f t = u) : exec c s = .next u := by rw [hf, onNotice_of_arrived hn ha, ← hu]
  refine ⟨fun c hc => ?_, fun hn ha => ?_, fun hn ha => notices rfl hn ha rfl, fun hn ha => notices rfl hn ha rfl,
    fun hn ha => notices rfl hn ha rfl, exec_stepCtlAbort_of_other, fun ho => notArrived_of_received (exec_stepCtlAbort ho), fun ho ha hn => ?_,
    fun ho ha hn => ?_⟩
  · obtain ⟨f, hf⟩ := exec_noticeCommand (s := s) c hc
    exact ⟨fun hn => by rw [hf, onNotice_of_other hn], fun hn => notArrived_of_received (hf.trans (congrArg _ (onNotice_of_notice hn)))⟩
  · exact ⟨fun ho => notices exec_noticeUnreachable hn ha (unreachableTakes_old ho),
      fun ho hr => notices exec_noticeUnreachable hn ha (unreachableTakes_unnamed ho hr),
      fun r ho hr => notices exec_noticeUnreachable hn ha (unreachableTakes_named ho hr)⟩
  · exact (exec_stepCtlAbort_arrived ho ha).trans (congrArg _ (if_neg hn))
  · exact (exec_stepCtlAbort_arrived ho ha).trans (congrArg _ (if_pos hn))

end Sys2Proof.Machine
end

section
/-!
PROOFS. The timers of requests, sequences, tags and kept responses (R80, R229, R254 to R256, R258, R260, R271, R313): O47.
-/
namespace Sys2Proof.Machine
open Sys2Proof

section
variable {s : State} {id : Nat} {e : Fin 2} {src dest : BitVec 12} {tc : BitVec 3}

/-! ## Attempts and held writes (R260, R271) -/

theorem exec_requestAttemptTimeout_due {r : Reqst} (h : timedOut s id = some r) :
    exec (.requestAttemptTimeout id) s = .next (failAttempt s r) := by
  change execRequestAttemptTimeout id s = _
  rw [execRequestAttemptTimeout, h]

theorem exec_requestAttemptTimeout_early (h : timedOut s id = none) : exec (.requestAttemptTimeout id) s = .next s := by
  change execRequestAttemptTimeout id s = _
  rw [execRequestAttemptTimeout, h]

/-- The request whose completion R260 holds back. -/
def heldWrite (s : State) (id : Nat) : Option Reqst := s.ep.reqs.find? (fun r => r.id == id && r.st == 3)

theorem exec_writeCompletionRelease_due {r : Reqst} (h : heldWrite s id = some r) (ht : writeRelease s r ≤ s.now) :
    exec (.writeCompletionRelease id) s = .next (finishReq s r (r.out.getD (0, 0)).1 (r.out.getD (0, 0)).2 0 0) := by
  change execWriteCompletionRelease id s = _
  unfold heldWrite at h
  simp only [execWriteCompletionRelease, h, if_pos ht]

theorem exec_writeCompletionRelease_early (h : ∀ r, heldWrite s id = some r → s.now < writeRelease s r) :
    exec (.writeCompletionRelease id) s = .next s := by
  change execWriteCompletionRelease id s = _
  unfold heldWrite at h
  rw [execWriteCompletionRelease]
  cases hr : s.ep.reqs.find? (fun r => r.id == id && r.st == 3) with
  | none => rfl
  | some r => simp only [if_neg (Nat.not_le.2 (h r hr))]

/-! ## Bars, sending holds and pair planes (R255, R258) -/

theorem exec_planeBarExpire_over (h : barred s e.val dest.toNat = false) : exec (.planeBarExpire e dest) s =
    .next (pump { s with ep := { s.ep with bars := delKey s.ep.bars (4096 * e.val + dest.toNat) } } e.val) :=
  congrArg Host.Outcome.next (if_neg (by simp [h]))

theorem exec_planeBarExpire_early (h : barred s e.val dest.toNat = true) : exec (.planeBarExpire e dest) s = .next s :=
  congrArg Host.Outcome.next (if_pos h)

theorem exec_linkUpSendHoldExpire_over {t : Nat} (h : findKey s.ep.downAt e.val = some t) (ht : t + ms 3 ≤ s.now) :
    exec (.linkUpSendHoldExpire e) s = .next (pump { s with ep := { s.ep with downAt := delKey s.ep.downAt e.val } } e.val) := by
  change execLinkUpSendHoldExpire e s = _
  simp only [execLinkUpSendHoldExpire, h, if_pos ht]

theorem exec_linkUpSendHoldExpire_early (h : ∀ t, findKey s.ep.downAt e.val = some t → s.now < t + ms 3) :
    exec (.linkUpSendHoldExpire e) s = .next s := by
  change execLinkUpSendHoldExpire e s = _
  rw [execLinkUpSendHoldExpire]
  cases ht : findKey s.ep.downAt e.val with
  | none => rfl
  | some t => simp only [if_neg (Nat.not_le.2 (h t ht))]

theorem exec_pairPlaneReset_idle {n t : Nat} (h : findKey s.ep.pairs (4096 * src.toNat + dest.toNat) = some (n, t)) (ht : t + ms 4 ≤ s.now) :
    exec (.pairPlaneReset src dest) s =
      .next { s with ep := { s.ep with pairs := delKey s.ep.pairs (4096 * src.toNat + dest.toNat) } } := by
  change execPairPlaneReset src dest s = _
  simp only [execPairPlaneReset, h, if_pos ht]

theorem exec_pairPlaneReset_early (h : ∀ n t, findKey s.ep.pairs (4096 * src.toNat + dest.toNat) = some (n, t) → s.now < t + ms 4) :
    exec (.pairPlaneReset src dest) s = .next s := by
  change execPairPlaneReset src dest s = _
  rw [execPairPlaneReset]
  cases ht : findKey s.ep.pairs (4096 * src.toNat + dest.toNat) with
  | none => rfl
  | some q => simp only [if_neg (Nat.not_le.2 (h q.1 q.2 ht))]

/-! ## Sequence records (R256, R258) -/

/-- A packet held in record `r` of end-point `e` has waited SKIP_WAIT_US (R256). -/
def skipDue (s : State) (e : Fin 2) (r : SeqRec) : Bool :=
  r.held.any (fun p => decide (p.2 + us (rd s (Reg.EP.EP_TIMING.SKIP_WAIT_US e.val)) ≤ s.now))

theorem skipDue_iff {r : SeqRec} : skipDue s e r = true ↔ ∃ p ∈ r.held, p.2 + us (rd s (Reg.EP.EP_TIMING.SKIP_WAIT_US e.val)) ≤ s.now := by
  simp [skipDue]

/-- The record `r` of key `k` skips past what it holds (R256). -/
def skipOn (s : State) (e : Fin 2) (k : Nat) (r : SeqRec) : State :=
  let far := (r.held.map (fun p => (p.1.h.seq.toNat + 65536 - r.expect) % 65536)).max?.getD 0
  cnt (cnt (setSeq s k { r with expect := (r.expect + far + 1) % 65536, held := [] }) (Reg.EP.EP_COUNT_B.SEQ_SKIPS e.val))
    (Reg.EP.EP_COUNT_B.SEQ_DISCARDS e.val) r.held.length

theorem exec_seqSkipWaitExpire_due {r : SeqRec} (h : seqRec s (seqKey e.val src.toNat tc.toNat) = some r) (hd : skipDue s e r = true) :
    exec (.seqSkipWaitExpire e src tc) s = .next (skipOn s e (seqKey e.val src.toNat tc.toNat) r) := by
  change execSeqSkipWaitExpire e src tc s = _
  simp only [execSeqSkipWaitExpire, h]
  exact congrArg _ (if_pos hd)

theorem exec_seqSkipWaitExpire_early (h : ∀ r, seqRec s (seqKey e.val src.toNat tc.toNat) = some r → ¬ skipDue s e r = true) :
    exec (.seqSkipWaitExpire e src tc) s = .next s := by
  change execSeqSkipWaitExpire e src tc s = _
  rw [execSeqSkipWaitExpire]
  cases hr : seqRec s (seqKey e.val src.toNat tc.toNat) with
  | none => rfl
  | some r => exact congrArg _ (if_neg (h r hr))

/-- A record that holds nothing and has delivered nothing for 2 ms (R258). -/
def recordIdle (s : State) (r : SeqRec) : Bool := r.held.isEmpty && decide (r.last + ms 2 ≤ s.now)

theorem recordIdle_iff {r : SeqRec} : recordIdle s r = true ↔ r.held = [] ∧ r.last + ms 2 ≤ s.now := by simp [recordIdle]

theorem exec_seqRecordExpire_due {r : SeqRec} (h : seqRec s (seqKey e.val src.toNat tc.toNat) = some r) (hi : recordIdle s r = true) :
    exec (.seqRecordExpire e src tc) s =
      .next { s with ep := { s.ep with seqs := delKey s.ep.seqs (seqKey e.val src.toNat tc.toNat) } } := by
  change execSeqRecordExpire e src tc s = _
  simp only [execSeqRecordExpire, h]
  exact congrArg _ (if_pos hi)

theorem exec_seqRecordExpire_early (h : ∀ r, seqRec s (seqKey e.val src.toNat tc.toNat) = some r → ¬ recordIdle s r = true) :
    exec (.seqRecordExpire e src tc) s = .next s := by
  change execSeqRecordExpire e src tc s = _
  rw [execSeqRecordExpire]
  cases hr : seqRec s (seqKey e.val src.toNat tc.toNat) with
  | none => rfl
  | some r => exact congrArg _ (if_neg (h r hr))

end

/-- Settles O47: each timer acts where its entry stands and its time has come, and changes nothing before. -/
theorem requestTimers : Obligations.RequestTimers := by
  intro s id e src dest tc k pair held late old
  exact ⟨fun r => exec_requestAttemptTimeout_due, exec_requestAttemptTimeout_early, fun r => exec_writeCompletionRelease_due,
    exec_writeCompletionRelease_early, exec_planeBarExpire_over, exec_planeBarExpire_early, fun t => exec_linkUpSendHoldExpire_over,
    exec_linkUpSendHoldExpire_early, fun n t => exec_pairPlaneReset_idle, exec_pairPlaneReset_early,
    fun r hr hl => exec_seqSkipWaitExpire_due hr (skipDue_iff.2 hl), fun h => exec_seqSkipWaitExpire_early fun r hr => mt skipDue_iff.1 (h r hr),
    fun r hr ho => exec_seqRecordExpire_due hr (recordIdle_iff.2 ho), fun h => exec_seqRecordExpire_early fun r hr => mt recordIdle_iff.1 (h r hr),
    rfl, rfl⟩

end Sys2Proof.Machine
end

section
/-!
PROOFS. The requests that the management port serves (R61, R369): O28.
-/
namespace Sys2Proof.Machine
open Sys2Proof

theorem hbmRdN_congr {s t : State} (h : t.hbm = s.hbm) (a n : Nat) : hbmRdN t a n = hbmRdN s a n := by
  induction n generalizing a with
  | zero => rfl
  | succ n ih => rw [hbmRdN, hbmRdN, hbmRd_congr h, ih]

@[simp] theorem hbmRdN_takeIn (s : State) (x : Nat) (p : Packet) (a n : Nat) : hbmRdN (takeIn s x p) a n = hbmRdN s a n :=
  hbmRdN_congr (s := s) (t := takeIn s x p) rfl a n

/-! ## Fabric register access (R61) -/

section
variable {s : State} {p : Packet} {k : Kind} {f : State → State}

theorem fabricRequest_of_kind_ne (hk : p.h.k ≠ some k) : fabricRequest s p k f = s := by simp [fabricRequest, hk]

theorem fabricRequest_of_kind (hk : p.h.k = some k) : fabricRequest s p k f = received s 228 p (fun t => fabricAccess t p.h f) := by
  simp [fabricRequest, hk]

theorem fabricRequest_of_arrived (hk : p.h.k = some k) (ha : arrived s 228 p) :
    fabricRequest s p k f = fabricAccess (takeIn s 228 p) p.h f := by
  rw [fabricRequest_of_kind hk, received_of_arrived ha]

theorem fabricAccess_of_stranger {h : Hdr} (hm : h.src.toNat ∉ fmIds s) : fabricAccess s h f = answer s 228 h ccDenied 4 0 := by
  simp [fabricAccess, hm]

section
variable {h : Hdr} (hm : h.src.toNat ∈ fmIds s)
include hm

theorem fabricAccess_of_length (h4 : h.len.toNat ≠ 4) (h8 : h.len.toNat ≠ 8) : fabricAccess s h f = answer s 228 h ccDenied 6 0 := by
  simp [fabricAccess, hm, h4, h8]

theorem fabricAccess_made (hn : h.len.toNat = 4 ∨ h.len.toNat = 8) : fabricAccess s h f = f s := by
  rcases hn with hn | hn <;> simp [fabricAccess, hm, hn]

end

/-! ### As commands -/

/-- The register requests, as commands with their kinds. -/
def fabricCommands (p : Packet) : List (Instr × Kind) := [(.regRead p, .regRead), (.regWrite p, .regWrite)]

theorem exec_fabricCommand : ∀ c ∈ fabricCommands p, ∃ f, exec c.1 s = .next (fabricRequest s p c.2 f) := by
  simp only [fabricCommands, List.forall_mem_cons, List.not_mem_nil, false_implies, implies_true, and_true]
  exact ⟨⟨_, rfl⟩, ⟨_, rfl⟩⟩

/-- What REG_READ `p` does once it may. -/
def fabricRead (p : Packet) (t : State) : State :=
  let r := regRead t .fabric (p.h.addr.toNat % 2 ^ 26) p.h.len.toNat
  if errMark r.2 = errMark t then answerData r.2 228 p.h (leBytes p.h.len.toNat r.1) else answer r.2 228 p.h ccDenied 6 0

theorem exec_regRead : exec (.regRead p) s = .next (fabricRequest s p .regRead (fabricRead p)) := rfl

/-- What REG_WRITE `p` does once it may. -/
def fabricWrite (p : Packet) (t : State) : State :=
  let u := regWrite t .fabric (p.h.addr.toNat % 2 ^ 26) p.h.len.toNat (ofLeBytes (p.payload.take p.h.len.toNat))
  answer u 228 p.h (if errMark u = errMark t then ccOk else ccDenied) (if errMark u = errMark t then 0 else 6) 0

theorem exec_regWrite : exec (.regWrite p) s = .next (fabricRequest s p .regWrite (fabricWrite p)) := rfl

section
variable {t : State}

theorem fabricRead_made (h : errMark (regRead t .fabric (p.h.addr.toNat % 2 ^ 26) p.h.len.toNat).2 = errMark t) :
    fabricRead p t = answerData (regRead t .fabric (p.h.addr.toNat % 2 ^ 26) p.h.len.toNat).2 228 p.h
      (leBytes p.h.len.toNat (regRead t .fabric (p.h.addr.toNat % 2 ^ 26) p.h.len.toNat).1) := if_pos h

theorem fabricRead_refused (h : errMark (regRead t .fabric (p.h.addr.toNat % 2 ^ 26) p.h.len.toNat).2 ≠ errMark t) :
    fabricRead p t = answer (regRead t .fabric (p.h.addr.toNat % 2 ^ 26) p.h.len.toNat).2 228 p.h ccDenied 6 0 := if_neg h

section
variable {u : State} (hu : regWrite t .fabric (p.h.addr.toNat % 2 ^ 26) p.h.len.toNat (ofLeBytes (p.payload.take p.h.len.toNat)) = u)
include hu

theorem fabricWrite_made (h : errMark u = errMark t) : fabricWrite p t = answer u 228 p.h ccOk 0 0 := by
  simp only [fabricWrite, hu, if_pos h]

theorem fabricWrite_refused (h : errMark u ≠ errMark t) : fabricWrite p t = answer u 228 p.h ccDenied 6 0 := by
  simp only [fabricWrite, hu, if_neg h]

end
end
end

/-! ## Reads of the map and record regions (R369) -/

section
variable {s : State} {h : Hdr}

/-- An end of what `h` reads lies where the management port serves nothing. -/
def mapShut (s : State) (h : Hdr) : Prop := serviceShut s h.off = true ∨ serviceShut s (h.off + readLen h - 1) = true

/-- Bytes that `h` reads below the next GiB of the service ID's offsets. -/
def mapFirst (h : Hdr) : Nat := min (readLen h) (2 ^ 30 - h.off % 2 ^ 30)

/-- A byte that `h` reads is poisoned. -/
def mapLost (s : State) (h : Hdr) : Prop :=
  hbmPoisoned s (serviceAddr s h.off) (mapFirst h) = true ∨
    mapFirst h < readLen h ∧ hbmPoisoned s (serviceAddr s (h.off + mapFirst h)) (readLen h - mapFirst h) = true

theorem mapServe_unsupported {k : Kind} (hk : h.k = some k) (hu : k ≠ .read ∧ k ≠ .readBulk ∨ mapShut s h) :
    mapServe s h = answer s 228 h ccUnsupported 0 0 := by
  refine if_pos ?_
  rcases hu with ⟨hr, hb⟩ | hs | hs
  · simp [hk, hr, hb]
  · simp [hs]
  · simp [hs]

section
variable {k : Kind} (hk : h.k = some k) (hr : k = .read ∨ k = .readBulk) (hs : ¬ mapShut s h)
include hk hr hs

theorem mapServe_open : mapServe s h =
    if (xgenEntry s h).isNone = true then answer s 228 h ccRevoked 0 0
    else if (hbmPoisoned s (serviceAddr s h.off) (mapFirst h) || (decide (mapFirst h < readLen h) &&
        hbmPoisoned s (serviceAddr s (h.off + mapFirst h)) (readLen h - mapFirst h))) = true then answer s 228 h ccPoison 0 0
    else answerData s 228 h (hbmRdN s (serviceAddr s h.off) (mapFirst h) ++
      hbmRdN s (serviceAddr s (h.off + mapFirst h)) (readLen h - mapFirst h)) := by
  refine if_neg ?_
  obtain ⟨h1, h2⟩ := not_or.1 hs
  rcases hr with rfl | rfl <;> simp [hk, h1, h2]

theorem mapServe_revoked (hx : xgenEntry s h = none) : mapServe s h = answer s 228 h ccRevoked 0 0 := by
  rw [mapServe_open hk hr hs, if_pos (by simp [hx])]

section
variable (hx : xgenEntry s h ≠ none)
include hx

theorem mapServe_poison (hl : mapLost s h) : mapServe s h = answer s 228 h ccPoison 0 0 := by
  rw [mapServe_open hk hr hs, if_neg (by simp [hx]), if_pos]
  simpa [mapLost] using hl

theorem mapServe_data (hl : ¬ mapLost s h) : mapServe s h = answerData s 228 h (hbmRdN s (serviceAddr s h.off) (mapFirst h) ++
    hbmRdN s (serviceAddr s (h.off + mapFirst h)) (readLen h - mapFirst h)) := by
  rw [mapServe_open hk hr hs, if_neg (by simp [hx]), if_neg]
  simpa [mapLost] using hl

end
end
end

/-! ### As commands -/

section
variable {s : State} {p : Packet}

theorem exec_mapRead {k : Kind} (hk : p.h.k = some k) (hr : k ≠ .regRead) (hw : k ≠ .regWrite) (ha : k ≠ .swarmAck) :
    exec (.mapRead p) s = .next (received s 228 p (fun t => if k.answered = true then mapServe t p.h else s)) := by
  change execMapRead p s = _
  rw [execMapRead, hk]
  cases k with
  | regRead => exact absurd rfl hr
  | regWrite => exact absurd rfl hw
  | swarmAck => exact absurd rfl ha
  | _ => rfl

/-- MAP_READ leaves the requests that have rows of their own. -/
theorem exec_mapRead_of_other {k : Kind} (hk : p.h.k = some k) (h : k = .regRead ∨ k = .regWrite ∨ k = .swarmAck) :
    exec (.mapRead p) s = .next s := by
  change execMapRead p s = _
  rcases h with rfl | rfl | rfl <;> simp only [execMapRead, hk]

theorem exec_mapRead_of_no_kind (hk : p.h.k = none) : exec (.mapRead p) s = .next s := by
  change execMapRead p s = _
  simp only [execMapRead, hk]

theorem exec_mapRead_of_not_mem (h : (228, p) ∉ s.inbox) : exec (.mapRead p) s = .next s := by
  cases hk : p.h.k with
  | none => exact exec_mapRead_of_no_kind hk
  | some k =>
    by_cases ho : k = .regRead ∨ k = .regWrite ∨ k = .swarmAck
    · exact exec_mapRead_of_other hk ho
    · obtain ⟨hr, hw, ha⟩ : k ≠ .regRead ∧ k ≠ .regWrite ∧ k ≠ .swarmAck := by simpa using ho
      rw [exec_mapRead hk hr hw ha, received_of_not_mem h]

theorem exec_mapRead_of_unanswered {k : Kind} (hk : p.h.k = some k) (hn : k.answered = false) (ha : arrived s 228 p) :
    exec (.mapRead p) s = .next s := by
  by_cases ho : k = .regRead ∨ k = .regWrite ∨ k = .swarmAck
  · exact exec_mapRead_of_other hk ho
  · obtain ⟨hr, hw, hs⟩ : k ≠ .regRead ∧ k ≠ .regWrite ∧ k ≠ .swarmAck := by simpa using ho
    rw [exec_mapRead hk hr hw hs, received_of_arrived ha, if_neg (by simp [hn])]

theorem exec_mapRead_served {k : Kind} (hk : p.h.k = some k) (hr : k ≠ .regRead) (hw : k ≠ .regWrite) (hn : k.answered = true)
    (ha : arrived s 228 p) : exec (.mapRead p) s = .next (mapServe (takeIn s 228 p) p.h) := by
  have hs : k ≠ .swarmAck := by rintro rfl; exact absurd hn (by decide)
  rw [exec_mapRead hk hr hw hs, received_of_arrived ha, if_pos hn]

end

/-- Settles O28: the queue and the HCRC decide whether a request is taken; then its sender and length, or what the map serves, decide its answer. -/
theorem serviceRequests : Obligations.ServiceRequests := by
  intro s p t here a n r u good asked m first shut lost
  have registers {c : Instr} {k : Kind} {f : State → State} (hf : exec c s = .next (fabricRequest s p k f)) (hk : p.h.k = some k) (ha : good) :
      exec c s = .next (fabricAccess t p.h f) := by rw [hf, fabricRequest_of_arrived hk ha]
  have makes {c : Instr} {k : Kind} {f : State → State} {v : State} (hf : exec c s = .next (fabricRequest s p k f)) (hk : p.h.k = some k)
      (hq : asked) (hv : f t = v) : exec c s = .next v := by
    obtain ⟨ha, hm, hn⟩ := hq
    rw [registers hf hk ha, fabricAccess_made (s := t) hm hn, hv]
  refine ⟨fun hk hq he => makes exec_regRead hk hq (fabricRead_made he), fun hk hq he => makes exec_regRead hk hq (fabricRead_refused he),
    fun hk hq he => makes exec_regWrite hk hq (fabricWrite_made rfl he), fun hk hq he => makes exec_regWrite hk hq (fabricWrite_refused rfl he),
    fun c hc => ?_, fun k hk hr hw hs => ⟨fun hm hc => ?_, fun ha hn => ?_⟩, ?_⟩
  · obtain ⟨f, hf⟩ := exec_fabricCommand (s := s) c hc
    refine ⟨fun hk ha hm => (registers hf hk ha).trans (congrArg _ (fabricAccess_of_stranger hm)),
      fun hk ha hm h4 h8 => (registers hf hk ha).trans (congrArg _ (fabricAccess_of_length hm h4 h8)),
      fun hk hm hc => by rw [hf, fabricRequest_of_kind hk, received_of_wrong_hcrc hm hc], fun h => ?_⟩
    rw [hf]
    by_cases hk : p.h.k = some c.2
    · rw [fabricRequest_of_kind hk, received_of_not_mem (h.resolve_left (not_not.2 hk))]
    · rw [fabricRequest_of_kind_ne hk]
  · rw [exec_mapRead hk hr hw hs, received_of_wrong_hcrc hm hc]
  · have serves {v : State} (hv : mapServe t p.h = v) : exec (.mapRead p) s = .next v := hv ▸ exec_mapRead_served hk hr hw hn ha
    refine ⟨fun hu => serves (mapServe_unsupported hk hu), fun hq ho => ⟨fun hx => serves (mapServe_revoked hk hq ho hx),
      fun hx => ⟨fun hl => serves (mapServe_poison hk hq ho hx hl), fun hl => ?_⟩⟩⟩
    rw [serves (mapServe_data hk hq ho hx hl), hbmRdN_takeIn, hbmRdN_takeIn]
    rfl
  · rintro (hn | hk | ⟨k, hk, hr | hw | hs | ⟨hn, ha⟩⟩)
    · exact exec_mapRead_of_not_mem hn
    · exact exec_mapRead_of_no_kind hk
    · exact exec_mapRead_of_other hk (.inl hr)
    · exact exec_mapRead_of_other hk (.inr (.inl hw))
    · exact exec_mapRead_of_other hk (.inr (.inr hs))
    · exact exec_mapRead_of_unanswered hk hn ha

end Sys2Proof.Machine
end

section
/-!
PROOFS. Link frames sent and received (R85 to R88, R121, R344, R399): O35.
-/
namespace Sys2Proof.Machine
open Sys2Proof

/-! ## Frames sent (R85) -/

section
variable {s : State} {h : BitVec 8}

/-- Half `n` exists, and its die link passes frames. -/
def halfServes (s : State) (n : Nat) : Prop := halfIs s n = true ∧ dieShut s (n / 32) = false

theorem exec_linkFrameSend_of_not_serves (hs : ¬ halfServes s h.toNat) : exec (.linkFrameSend h) s = .next s := by
  refine congrArg Host.Outcome.next (if_pos ?_)
  simpa [halfServes, Classical.or_iff_not_imp_left] using hs

section
variable (hs : halfServes s h.toNat)
include hs

theorem exec_linkFrameSend : exec (.linkFrameSend h) s = .next (
    if linkState s h.toNat = 2 then
      (if (linkRun s h.toNat).prk.isNone = true then sendOffer (stripeFrame s h.toNat) h.toNat
       else sealFrame (stripeFrame s h.toNat) h.toNat [] [] 0)
    else if linkState s h.toNat = 3 ∧ (linkRun s h.toNat).paused = false then sendFrame (stripeFrame s h.toNat) h.toNat else s) :=
  congrArg Host.Outcome.next (if_neg (by simp [hs.1, hs.2]))

theorem exec_linkFrameSend_offer (h2 : linkState s h.toNat = 2) (hk : (linkRun s h.toNat).prk = none) :
    exec (.linkFrameSend h) s = .next (sendOffer (stripeFrame s h.toNat) h.toNat) := by
  rw [exec_linkFrameSend hs, if_pos h2, if_pos (by simp [hk])]

theorem exec_linkFrameSend_idle (h2 : linkState s h.toNat = 2) (hk : (linkRun s h.toNat).prk ≠ none) :
    exec (.linkFrameSend h) s = .next (sealFrame (stripeFrame s h.toNat) h.toNat [] [] 0) := by
  rw [exec_linkFrameSend hs, if_pos h2, if_neg (by simp [hk])]

theorem exec_linkFrameSend_up (h3 : linkState s h.toNat = 3) (hp : (linkRun s h.toNat).paused = false) :
    exec (.linkFrameSend h) s = .next (sendFrame (stripeFrame s h.toNat) h.toNat) := by
  rw [exec_linkFrameSend hs, if_neg (by omega), if_pos ⟨h3, hp⟩]

end

theorem exec_linkFrameSend_silent
    (hn : linkState s h.toNat ≠ 2 ∧ linkState s h.toNat ≠ 3 ∨ linkState s h.toNat = 3 ∧ (linkRun s h.toNat).paused = true) :
    exec (.linkFrameSend h) s = .next s := by
  by_cases hs : halfServes s h.toNat
  · have h2 : linkState s h.toNat ≠ 2 := by omega
    rw [exec_linkFrameSend hs, if_neg h2, if_neg]
    rintro ⟨h3, hp⟩
    rcases hn with ⟨-, n3⟩ | ⟨-, hq⟩
    · exact n3 h3
    · exact absurd (hp.symm.trans hq) (by decide)
  · exact exec_linkFrameSend_of_not_serves hs

end

/-! ## Frames received (R86, R88, R344) -/

section
variable {s : State} {n : Nat} {f : Frame} {miss : Bool}

/-- A frame is taken in KEYING, and in UP while AUTH_LIMIT has not been reached (R344). -/
def frameTaken (s : State) (n : Nat) : Prop :=
  linkState s n = 2 ∨ linkState s n = 3 ∧ (linkRun s n).bad < rd s (Reg.PORT.LINK_CFG.AUTH_LIMIT (n / 2))

/-- The codes of frame `f` make sense after what half `n` has received (R86). -/
def codesFit (s : State) (n : Nat) (f : Frame) : Bool :=
  codesOk f.codes.toNat 8 0 (!(rxOf s n).flits.isEmpty) || ((rxOf s n).skip && codesOk f.codes.toNat 8 0 true)

theorem frameIn_untaken (h : ¬ halfServes s n ∨ ¬ frameTaken s n) : frameIn s n f miss = s := by
  refine if_pos ?_
  simp only [Bool.or_eq_true, Bool.not_eq_true', Bool.and_eq_true, beq_iff_eq, decide_eq_true_eq, Bool.or_eq_false_iff, beq_eq_false_iff_ne]
  rcases h with h | h
  · rw [halfServes, not_and_or, Bool.not_eq_true, Bool.not_eq_false] at h
    exact .inl (.inl h)
  · rw [frameTaken] at h
    omega

section
variable (hs : halfServes s n) (ht : frameTaken s n)
include hs ht

theorem not_frameIn_guard : ¬ ((!halfIs s n || dieShut s (n / 32) || !(linkState s n == 2 || linkState s n == 3) ||
    (linkState s n == 3 && decide (rd s (Reg.PORT.LINK_CFG.AUTH_LIMIT (n / 2)) ≤ (linkRun s n).bad))) = true) := by
  obtain ⟨hi, hd⟩ := hs
  simp only [hi, hd, Bool.or_eq_true, Bool.not_eq_true', Bool.and_eq_true, beq_iff_eq, decide_eq_true_eq, Bool.or_eq_false_iff, beq_eq_false_iff_ne,
    Bool.false_eq_true, Bool.true_eq_false, false_or]
  rw [frameTaken] at ht
  omega

theorem frameIn_unopened (ho : openFrame s n f = none) : frameIn s n f miss = discardFrame s n false := by
  rw [frameIn, if_neg (not_frameIn_guard hs ht), ho]

section
variable {text : List Byte} {key : Option Nat} {c : Nat} (ho : openFrame s n f = some (text, key, c))
include ho

theorem frameIn_misfit (hc : codesFit s n f = false) : frameIn s n f miss = discardFrame s n true := by
  rw [codesFit, Bool.or_eq_false_iff] at hc
  rw [frameIn, if_neg (not_frameIn_guard hs ht), ho]
  exact if_pos (by simp [hc])

theorem frameIn_opened (hc : codesFit s n f = true) : frameIn s n f miss =
    if key.isNone = true then offerIn (rxAccepted s n c key) n text
    else if linkState (rxAccepted s n c key) n = 3 then
      rxSlots (takeCredit (rxAccepted s n c key) n f.credit.toNat) n f.codes.toNat text miss
    else rxAccepted s n c key := by
  rw [frameIn, if_neg (not_frameIn_guard hs ht), ho]
  refine if_neg ?_
  rw [codesFit] at hc
  rw [← Bool.not_or, hc]
  decide

end
end

@[simp] theorem linkState_rxAccepted (c : Nat) (key : Option Nat) : linkState (rxAccepted s n c key) n = linkState s n := rfl

section
variable (hs : halfServes s n) (ht : frameTaken s n)
variable {text : List Byte} {key : Option Nat} {c : Nat} (ho : openFrame s n f = some (text, key, c)) (hc : codesFit s n f = true)
include hs ht ho hc

theorem frameIn_offer (hk : key = none) : frameIn s n f miss = offerIn (rxAccepted s n c key) n text := by
  rw [frameIn_opened hs ht ho hc, if_pos (by simp [hk])]

section
variable (hk : key ≠ none)
include hk

theorem frameIn_up (h3 : linkState s n = 3) : frameIn s n f miss =
    rxSlots (takeCredit (rxAccepted s n c key) n f.credit.toNat) n f.codes.toNat text miss := by
  rw [frameIn_opened hs ht ho hc, if_neg (by simp [hk]), linkState_rxAccepted, if_pos h3]

theorem frameIn_keying (h2 : linkState s n = 2) : frameIn s n f miss = rxAccepted s n c key := by
  rw [frameIn_opened hs ht ho hc, if_neg (by simp [hk]), linkState_rxAccepted, if_neg (by omega)]

end
end
end

/-! ### As commands -/

section
variable {s : State} {h : BitVec 8} {f : Frame}

theorem exec_keyingOffer (hk : linkState s h.toNat = 2 ∧ f.keySeq = 0xFF) : exec (.keyingOffer h f) s = .next (frameIn s h.toNat f false) :=
  congrArg Host.Outcome.next (if_pos hk)

theorem exec_keyingOffer_of_other (hk : linkState s h.toNat ≠ 2 ∨ f.keySeq ≠ 0xFF) : exec (.keyingOffer h f) s = .next s :=
  congrArg Host.Outcome.next (if_neg (by tauto))

/-- The commands that bring frame `f`, each with its `miss` and whether it takes place. -/
theorem exec_frameCommand {miss : Bool} :
    ∀ c ∈ [(Instr.linkFrameReceive h f miss, miss, true), (.keyingOffer h f, false, decide (linkState s h.toNat = 2 ∧ f.keySeq = 0xFF))],
      c.2.2 = true → exec c.1 s = .next (frameIn s h.toNat f c.2.1) := by
  simp only [List.forall_mem_cons, List.not_mem_nil, false_implies, implies_true, and_true, decide_eq_true_eq]
  exact ⟨fun _ => rfl, exec_keyingOffer⟩

theorem exec_linkAuthLimit (h3 : linkState s h.toNat = 3) (hb : rd s (Reg.PORT.LINK_CFG.AUTH_LIMIT (h.toNat / 2)) ≤ (linkRun s h.toNat).bad) :
    exec (.linkAuthLimit h) s = .next (linkDown s h.toNat 7 2) :=
  congrArg Host.Outcome.next (if_pos ⟨h3, hb⟩)

theorem exec_linkAuthLimit_early
    (hn : linkState s h.toNat ≠ 3 ∨ (linkRun s h.toNat).bad < rd s (Reg.PORT.LINK_CFG.AUTH_LIMIT (h.toNat / 2))) :
    exec (.linkAuthLimit h) s = .next s :=
  congrArg Host.Outcome.next (if_neg (by omega))

end

/-- Settles O35: the half and its state decide what is sent and whether a frame is taken; then its key and its codes decide what it brings. -/
theorem linkFrames : Obligations.LinkFrames := by
  intro s h f miss n x limit here taken u sense
  refine ⟨exec_linkFrameSend_offer, exec_linkFrameSend_idle, exec_linkFrameSend_up, ?_, fun e he hd => ?_, exec_keyingOffer_of_other,
    exec_linkAuthLimit, exec_linkAuthLimit_early⟩
  · rintro (hs | hn)
    · exact exec_linkFrameSend_of_not_serves hs
    · exact exec_linkFrameSend_silent hn
  · have goes {v : State} (hv : frameIn s n f e.2.1 = v) : exec e.1 s = .next v := hv ▸ exec_frameCommand e he hd
    exact ⟨fun hs ht => ⟨fun ho => goes (frameIn_unopened hs ht ho), fun text key c ho => ⟨fun hc => goes (frameIn_misfit hs ht ho hc),
      fun hc hk => goes (frameIn_offer hs ht ho hc hk), fun hc hk h3 => goes (frameIn_up hs ht ho hc hk h3),
      fun hc hk h2 => goes (frameIn_keying hs ht ho hc hk h2)⟩⟩, fun hn => goes (frameIn_untaken hn)⟩

end Sys2Proof.Machine
end

section
/-!
PROOFS. Translations, local memory and segment invalidation (R76, R246, R273, R277, R280 to R282, R298, R302, R318): O49.
-/
namespace Sys2Proof.Machine
open Sys2Proof

/-! ## Translations (R281) -/

theorem xlateSize_iff {va size pa : Nat} :
    xlateSize va size pa = true ↔ (∃ k, k < 19 ∧ size = 2 ^ (12 + k)) ∧ va % size = 0 ∧ pa % size = 0 := by
  simp [xlateSize, and_assoc]

section
variable {s : State} {e f va size pa : Nat} {r w : Bool}

/-- The first address that lacks a translation lies in the range translated. -/
def xlateGives (va size : Nat) (x : Except Nat (List (Nat × Nat × Nat))) : Bool :=
  match x with | .error a => inXlate va size a | .ok _ => false

/-- Records of the error log ring wait for the translation (R363). -/
def ringAsks (s : State) (e f va size : Nat) : Bool :=
  e == mgrPort s && f == 0 && !s.err.ringWait.isEmpty && xlateGives va size (localRuns s e 0 (ringAddr s) 64 true false)

theorem ringAsks_iff : ringAsks s e f va size = true ↔
    e = mgrPort s ∧ f = 0 ∧ s.err.ringWait ≠ [] ∧ xlateGives va size (localRuns s e 0 (ringAddr s) 64 true false) = true := by
  simp [ringAsks, and_assoc]

/-- The translation cached, and used by the accesses and writes that waited for it. -/
def xlateUsed (s : State) (e f va size pa : Nat) (r w : Bool) : State :=
  let ops := s.host.ops.filter (fun o => o.ep == e && o.func == f && o.st == 0 && xlateGives va size (opRuns s o))
  let ws := s.host.atsWait.filter (fun x => x.ep == e && x.func == f && xlateGives va size (localRuns s e f x.addr x.data.length true false))
  let put := if r || w then atcPut s { ep := e, func := f, va := va, size := size, pa := pa, r := r, w := w } else s
  ws.foldl (atsWrite w) (ops.foldl (fun s o => atsOp ((!o.what.writes || w) && (!o.what.reads || r)) s o) put)

theorem translated_eq : translated s e f va size pa r w =
    hostNext (if (!ringAsks s e f va size) = true then xlateUsed s e f va size pa r w
      else if w = true then ringDrain (xlateUsed s e f va size pa r w) ((xlateUsed s e f va size pa r w).err.ringWait.length + 1)
      else ringLose (xlateFail (xlateUsed s e f va size pa r w))) e := rfl

theorem translated_without_ring (h : ¬ ringAsks s e f va size = true) :
    translated s e f va size pa r w = hostNext (xlateUsed s e f va size pa r w) e := by
  rw [translated_eq, if_pos (by simp [h])]

section
variable (h : ringAsks s e f va size = true)
include h

theorem translated_ring_writable (hw : w = true) : translated s e f va size pa r w =
    hostNext (ringDrain (xlateUsed s e f va size pa r w) ((xlateUsed s e f va size pa r w).err.ringWait.length + 1)) e := by
  rw [translated_eq, if_neg (by simp [h]), if_pos hw]

theorem translated_ring_refused (hw : w = false) : translated s e f va size pa r w =
    hostNext (ringLose (xlateFail (xlateUsed s e f va size pa r w))) e := by
  rw [translated_eq, if_neg (by simp [h]), if_neg (by simp [hw])]

end
end

section
variable {s : State} {port : Fin 2} {func : BitVec 8} {tag va size pa : Nat} {r w : Bool}

theorem exec_atsTranslationComplete (h : xlateSize va size pa = true) :
    exec (.atsTranslationComplete port func va size pa r w) s = .next (translated s port.val func.toNat va size pa r w) :=
  congrArg Host.Outcome.next (if_pos h)

theorem exec_atsTranslationComplete_of_size (h : ¬ xlateSize va size pa = true) :
    exec (.atsTranslationComplete port func va size pa r w) s = .next s :=
  congrArg Host.Outcome.next (if_neg h)

/-! ### Invalidations (R282) -/

/-- Bytes `[a, a + n)` meet the range that is invalidated. -/
def rangeHit (va size a n : Nat) : Bool := decide (a < va + size) && decide (va < a + n)

/-- The cached translations that the range meets dropped. -/
def atcDrop (s : State) (e f va size : Nat) : State :=
  { s with host := { s.host with atc := s.host.atc.filter (fun t => !(t.ep == e && t.func == f && rangeHit va size t.va t.size)) } }

/-- The tags of the accesses under way that used them. -/
def rangeBusy (s : State) (e f va size : Nat) : List Nat :=
  (s.host.ops.filter (fun o => o.ep == e && o.func == f && o.st == 2 && rangeHit va size o.addr (max 1 o.span))).map (fun o => o.tag)

theorem exec_atsInvalidate : exec (.atsInvalidate port func tag va size) s =
    .next (if (rangeBusy (atcDrop s port.val func.toNat va size) port.val func.toNat va size).isEmpty = true then
      cnt (emitOut (atcDrop s port.val func.toNat va size) (.atsDone port.val func.toNat tag)) Reg.EXTENT.ATS_COUNT.INVALIDATIONS
    else
      let u := atcDrop s port.val func.toNat va size
      { u with host := { u.host with atsInv := u.host.atsInv ++
        [(port.val, func.toNat, tag, rangeBusy u port.val func.toNat va size)] } }) := rfl

theorem exec_atsInvalidate_idle (h : rangeBusy (atcDrop s port.val func.toNat va size) port.val func.toNat va size = []) :
    exec (.atsInvalidate port func tag va size) s =
      .next (cnt (emitOut (atcDrop s port.val func.toNat va size) (.atsDone port.val func.toNat tag)) Reg.EXTENT.ATS_COUNT.INVALIDATIONS) := by
  rw [exec_atsInvalidate, if_pos (List.isEmpty_iff.2 h)]

theorem exec_atsInvalidate_busy (h : rangeBusy (atcDrop s port.val func.toNat va size) port.val func.toNat va size ≠ []) :
    exec (.atsInvalidate port func tag va size) s =
      (let u := atcDrop s port.val func.toNat va size
       .next { u with host := { u.host with atsInv := u.host.atsInv ++
        [(port.val, func.toNat, tag, rangeBusy u port.val func.toNat va size)] } }) := by
  rw [exec_atsInvalidate, if_neg (mt List.isEmpty_iff.1 h)]

end

/-! ## What a read brings (R246, R277, R322) -/

section
variable {s t : State} {o : HostOp} {tag status : Nat} {data : List Byte}

/-- The access under way with tag `tag` that brings data for the end-point itself, or else is for a fabric request. -/
def underWay (s : State) (tag : Nat) (brings : HostFor → Bool) : Option HostOp :=
  s.host.ops.find? (fun o => o.tag == tag && o.st == 2 && brings o.what)

/-- What a PCIe read makes of the state once its access is off the list. -/
def readEnds (t : State) (o : HostOp) (status : Nat) (data : List Byte) : State :=
  if o.dead then t
  else if status ≠ 0 then opRefused t o ccPoison 0
  else match o.what with
    | .desc c q i => qosStatus (fenceFlush (descArrive t c q i data) c q) o.ep
    | .segs c => segsArrive t c data
    | .data i => dataArrive t i data
    | _ => t

theorem exec_pcieReadCompletion_none (h : underWay s tag HostFor.brings = none) : exec (.pcieReadCompletion tag status data) s = .next s := by
  change execPcieReadCompletion tag status data s = _
  unfold underWay at h
  simp only [execPcieReadCompletion, h]

theorem exec_pcieReadCompletion (h : underWay s tag HostFor.brings = some o) : exec (.pcieReadCompletion tag status data) s =
    .next (atsDrain (hostNext (readEnds (hostDone s tag) o status data) o.ep) tag) := by
  change execPcieReadCompletion tag status data s = _
  unfold underWay at h
  simp only [execPcieReadCompletion, h]
  rfl

theorem readEnds_dead (h : o.dead = true) : readEnds t o status data = t := if_pos h

section
variable (h : o.dead = false)
include h

theorem readEnds_error (hs : status ≠ 0) : readEnds t o status data = opRefused t o ccPoison 0 := by simp [readEnds, h, hs]

section
variable (hs : status = 0)
include hs

theorem readEnds_data {i : Nat} (hw : o.what = .data i) : readEnds t o status data = dataArrive t i data := by simp [readEnds, h, hs, hw]

theorem readEnds_segs {c : Nat} (hw : o.what = .segs c) : readEnds t o status data = segsArrive t c data := by simp [readEnds, h, hs, hw]

theorem readEnds_desc {c k i : Nat} (hw : o.what = .desc c k i) :
    readEnds t o status data = qosStatus (fenceFlush (descArrive t c k i data) c k) o.ep := by
  simp [readEnds, h, hs, hw]

end
end

/-! ## Accesses for fabric requests (R76, R273, R318) -/

theorem exec_hostDmaComplete_none (h : underWay s tag (!·.brings) = none) : exec (.hostDmaComplete tag status data) s = .next s := by
  change execHostDmaComplete tag status data s = _
  unfold underWay at h
  simp only [execHostDmaComplete, h]

theorem exec_hostDmaComplete (h : underWay s tag (!·.brings) = some o) : exec (.hostDmaComplete tag status data) s =
    .next (atsDrain (drainBehind (hostNext (if o.dead = true then hostDone s tag else hostAnswer (hostDone s tag) o status data) o.ep) o.ep) tag) := by
  change execHostDmaComplete tag status data s = _
  unfold underWay at h
  simp only [execHostDmaComplete, h]

theorem hostAnswer_of_store {k : Nat} {q : Packet} (hw : o.what = .arrive q ∨ o.what = .fire k q) : hostAnswer t o status data = t := by
  rcases hw with hw | hw <;> simp only [hostAnswer, hw]

section
variable {h : Hdr}

/-! ### Reads of exported memory -/

section
variable (hw : o.what = .target h)
include hw

theorem hostAnswer_read_old (ho : oldEpoch t h = true) : hostAnswer t o status data = answer t (epPort o.ep) h ccStepAbort 0 0 := by
  simp [hostAnswer, hw, ho]

section
variable (ho : oldEpoch t h = false)
include ho

theorem hostAnswer_read (hs : status = 0) : hostAnswer t o status data = answerData t (epPort o.ep) h (padTo o.len data) := by
  simp [hostAnswer, hw, ho, hs]

theorem hostAnswer_read_error (hs : status ≠ 0) : hostAnswer t o status data = answer t (epPort o.ep) h ccPoison 0 0 := by
  simp [hostAnswer, hw, ho, hs]

end
end

/-! ### Seals (R76) -/

section
variable {b : List Byte} (hw : o.what = .seal h b)
include hw

theorem hostAnswer_seal_old (ho : oldEpoch t h = true) :
    hostAnswer t o status data = sealNext (answer t (epPort o.ep) h ccStepAbort 0 0) o.ep o.addr := by
  simp [hostAnswer, hw, ho]

section
variable (ho : oldEpoch t h = false)
include ho

theorem hostAnswer_seal_error (hs : status ≠ 0) :
    hostAnswer t o status data = sealNext (answer t (epPort o.ep) h ccPoison 0 0) o.ep o.addr := by
  simp [hostAnswer, hw, ho, hs]

section
variable (hs : status = 0)
include hs

theorem hostAnswer_seal_waits (hr : storeReady t o.ep o.func o.addr tileLen = false) : hostAnswer t o status data = hostGo t o := by
  simp [hostAnswer, hw, ho, hs, hr]

theorem hostAnswer_seal (hr : storeReady t o.ep o.func o.addr tileLen = true) : hostAnswer t o status data =
    sealNext (sealEnd (sealWrites t o (ofLeBytes ((padTo 8 data).drop 4)) b) o.ep h) o.ep o.addr := by
  simp [hostAnswer, hw, ho, hs, hr]

end
end
end

/-! ### AtomicOps, and read and CAS (R318) -/

/-- The old value that an AtomicOp or a read of the word of `h` has brought. -/
def oldWord (h : Hdr) (data : List Byte) : Nat := ofLeBytes (data.take 8) % 2 ^ (8 * atomBytes h)

section
variable (hw : o.what = .atomicOp h)
include hw

theorem hostAnswer_atomicOp (hs : status = 0) : hostAnswer t o status data = answerAtomic t (epPort o.ep) h ccOk 0 (oldWord h data) := by
  simp [hostAnswer, hw, hs, oldWord]

theorem hostAnswer_atomicOp_error (hs : status ≠ 0) : hostAnswer t o status data = answerAtomic t (epPort o.ep) h ccUnsupported 0 0 := by
  simp [hostAnswer, hw, hs]

end

section
variable {n : Nat} (hw : o.what = .casRead h n)
include hw

theorem hostAnswer_casRead_old (ho : oldEpoch t h = true) : hostAnswer t o status data = answerAtomic t (epPort o.ep) h ccStepAbort 0 0 := by
  simp [hostAnswer, hw, ho]

section
variable (ho : oldEpoch t h = false)
include ho

theorem hostAnswer_casRead_error (hs : status ≠ 0) : hostAnswer t o status data = answerAtomic t (epPort o.ep) h ccUnsupported 0 0 := by
  simp [hostAnswer, hw, ho, hs]

theorem hostAnswer_casRead (hs : status = 0) :
    hostAnswer t o status data = hostOp t o.ep o.func o.addr o.len (.casTry h n (oldWord h data)) := by
  simp [hostAnswer, hw, ho, hs, oldWord]

end
end

section
variable {n m : Nat} (hw : o.what = .casTry h n m)
include hw

theorem hostAnswer_casTry_error (hs : status ≠ 0) : hostAnswer t o status data = answerAtomic t (epPort o.ep) h ccUnsupported 0 0 := by
  simp [hostAnswer, hw, hs]

section
variable (hs : status = 0)
include hs

theorem hostAnswer_casTry_done (hm : oldWord h data = m) : hostAnswer t o status data = answerAtomic t (epPort o.ep) h ccOk 0 m := by
  unfold oldWord at hm
  simp [hostAnswer, hw, hs, hm]

section
variable (hm : oldWord h data ≠ m)
include hm

theorem hostAnswer_casTry_old (ho : oldEpoch t h = true) : hostAnswer t o status data = answerAtomic t (epPort o.ep) h ccStepAbort 0 0 := by
  unfold oldWord at hm
  simp [hostAnswer, hw, hs, hm, ho]

section
variable (ho : oldEpoch t h = false)
include ho

theorem hostAnswer_casTry_last (hn : 63 ≤ n) : hostAnswer t o status data = answerAtomic t (epPort o.ep) h ccUnsupported 0 0 := by
  unfold oldWord at hm
  simp [hostAnswer, hw, hs, hm, ho, hn]

theorem hostAnswer_casTry_again (hn : n < 63) :
    hostAnswer t o status data = hostOp t o.ep o.func o.addr o.len (.casTry h (n + 1) (oldWord h data)) := by
  unfold oldWord at hm
  simp [hostAnswer, hw, hs, hm, ho, oldWord, Nat.not_le.2 hn]

end
end
end
end
end
end

/-! ## Segment invalidation (R280, R302) -/

section
variable {s : State} {w : Writer} {c : BitVec 12} {all : Bool} {q : BitVec 8}

section
variable (h : rdb s Reg.EXTENT.SEG_INVAL_STATUS.BUSY = true)
include h

theorem exec_segInvalCmd_busy : exec (.segInvalCmd w c all q) s = .next (invalBusy s w) := congrArg Host.Outcome.next (if_pos h)

theorem exec_segInvalCmd_overrun (hw : sliceOf w = none) : exec (.segInvalCmd w c all q) s =
    .next (regError (wr s Reg.EXTENT.SEG_INVAL_STATUS.OVERRUN 1) w 0xA00108 4 true 6) := by
  rw [exec_segInvalCmd_busy h]
  simp only [invalBusy, hw]

theorem exec_segInvalCmd_sliceOverrun {p f : Nat} (hw : sliceOf w = some (p, f)) : exec (.segInvalCmd w c all q) s =
    .next (sliceSet s p f (sliceGet s p f % 256 + 256)) := by
  rw [exec_segInvalCmd_busy h]
  simp only [invalBusy, hw]

end

section
variable (h : rdb s Reg.EXTENT.SEG_INVAL_STATUS.BUSY = false)
include h

theorem exec_segInvalCmd_unnamed (hx : invalCtx s w c.toNat = none) : exec (.segInvalCmd w c all q) s = .next s := by
  change execSegInvalCmd w c all q s = _
  simp [execSegInvalCmd, segInval, h, hx]

/-- Who gets DONE_SEQ of an invalidation that `w` asks for: a slice, or the register. -/
def invalOwner (w : Writer) : Nat := match sliceOf w with | some (p, f) => 256 * p + f | none => 512

/-- The invalidation of context `x` under way (R280). -/
def invalBegun (s : State) (w : Writer) (x seq : Nat) : State :=
  let n := wrs s [(Reg.EXTENT.SEG_INVAL_STATUS.BUSY, 1), (Reg.EXTENT.SEG_INVAL_STATUS.ENGINE_ACKS, 0)]
  { n with ep := { n.ep with inval := some (x, seq, invalOwner w) } }

/-- The entries of context `x` dropped and its merged writes sent (R280). -/
def invalDropped (s : State) (x : Nat) (all : Bool) : State := mergeFlush (segDrop (dropTableReads s x) x all) (fun m => m.ctx == x)

/-- What context `x` has not sent yet translated again, and the engines' acknowledgement (R280). -/
def invalAcked (s : State) (x : Nat) : State :=
  wr (repeatReads (advanceAll ((unsentOf s x).foldl untranslate s) x) x) Reg.EXTENT.SEG_INVAL_STATUS.ENGINE_ACKS 0xFF

theorem exec_segInvalCmd {x : Nat} (hx : invalCtx s w c.toNat = some x) : exec (.segInvalCmd w c all q) s =
    .next (invalAcked (invalDropped (invalBegun s w x q.toNat) x all) x) := by
  change execSegInvalCmd w c all q s = _
  rw [execSegInvalCmd, segInval, if_neg (by simp [h]), hx]
  rfl

end

/-! ### Its end -/

theorem exec_segInvalDone_idle (h : s.ep.inval = none ∨ rd s Reg.EXTENT.SEG_INVAL_STATUS.ENGINE_ACKS ≠ 0xFF) :
    exec .segInvalDone s = .next s := by
  change execSegInvalDone s = _
  rw [execSegInvalDone]
  cases hi : s.ep.inval with
  | none => rfl
  | some i => exact congrArg _ (if_pos (h.resolve_left (by simp [hi])))

/-- The engine free again, with the number of the invalidation that is done. -/
def invalFreed (s : State) (seq : Nat) : State :=
  wrs { s with ep := { s.ep with inval := none } } [(Reg.EXTENT.SEG_INVAL_STATUS.BUSY, 0), (Reg.EXTENT.SEG_INVAL_STATUS.DONE_SEQ, seq)]

section
variable {x y n : Nat} (h : s.ep.inval = some (x, y, n)) (ha : rd s Reg.EXTENT.SEG_INVAL_STATUS.ENGINE_ACKS = 0xFF)
include h ha

theorem exec_segInvalDone : exec .segInvalDone s = .next (if n < 512 then
    sliceSet (invalFreed s y) (n / 256) (n % 256) (sliceGet (invalFreed s y) (n / 256) (n % 256) / 256 * 256 + y) else invalFreed s y) := by
  change execSegInvalDone s = _
  rw [execSegInvalDone, h]
  exact congrArg _ (if_neg (not_not.2 ha))

theorem exec_segInvalDone_register (hn : 512 ≤ n) : exec .segInvalDone s = .next (invalFreed s y) := by
  rw [exec_segInvalDone h ha, if_neg (Nat.not_lt.2 hn)]

theorem exec_segInvalDone_slice (hn : n < 512) : exec .segInvalDone s =
    .next (sliceSet (invalFreed s y) (n / 256) (n % 256) (sliceGet (invalFreed s y) (n / 256) (n % 256) / 256 * 256 + y)) := by
  rw [exec_segInvalDone h ha, if_pos hn]

end
end

/-- Settles O49: a translation's size and the ring decide what uses it; the access that a completion names, its epoch and the status decide what it
answers; BUSY and the context named decide an invalidation of segments. -/
theorem hostMemoryAccess : Obligations.HostMemoryAccess := by
  intro s port func va size pa tag status r w data wr_ c all q e f hit lacks u busy put ops ws t
  refine ⟨?_, exec_atsInvalidate_idle, exec_atsInvalidate_busy, ⟨exec_pcieReadCompletion_none, fun o ho => ?_⟩,
    ⟨exec_hostDmaComplete_none, fun o ho => ?_⟩,
    ⟨exec_segInvalCmd_overrun, fun p f hb hw => exec_segInvalCmd_sliceOverrun hb hw, exec_segInvalCmd_unnamed,
      fun x hb hx => exec_segInvalCmd hb hx⟩,
    exec_segInvalDone_idle, fun x y n hi ha => ⟨exec_segInvalDone_register hi ha, exec_segInvalDone_slice hi ha⟩⟩
  · intro ok ring v gives
    have ok_iff : xlateSize va size pa = true ↔ ok := xlateSize_iff
    have ring_iff : ringAsks s e f va size = true ↔ ring := ringAsks_iff
    have goes {x : State} (hok : ok) (hx : translated s e f va size pa r w = hostNext x e) : gives x :=
      (exec_atsTranslationComplete (ok_iff.2 hok)).trans (congrArg _ hx)
    exact ⟨fun hok hr => goes hok (translated_without_ring (mt ring_iff.1 hr)),
      fun hok hr hw => goes hok (translated_ring_writable (ring_iff.2 hr) hw), fun hok hr hw => goes hok (translated_ring_refused (ring_iff.2 hr) hw),
      fun hok => exec_atsTranslationComplete_of_size (mt ok_iff.1 hok)⟩
  · intro ends
    have goes {v : State} (hv : readEnds t o status data = v) : ends v := hv ▸ exec_pcieReadCompletion ho
    exact ⟨fun hd => goes (readEnds_dead hd), fun hd hs => goes (readEnds_error hd hs), fun hd hs => ⟨fun i hw => goes (readEnds_data hd hs hw),
      fun x hw => goes (readEnds_segs hd hs hw), fun x k i hw => goes (readEnds_desc hd hs hw)⟩⟩
  · intro ends x old atom
    have goes {v : State} (hd : o.dead = false) (hv : hostAnswer t o status data = v) : ends v := by
      refine (exec_hostDmaComplete ho).trans ?_
      rw [if_neg (by simp [hd]), ← hv]
    have dead (hd : o.dead = true) : ends t := by
      refine (exec_hostDmaComplete ho).trans ?_
      rw [if_pos hd]
    refine ⟨dead, fun k q hw => ?_, fun h hd hw => ⟨fun ho => goes hd (hostAnswer_read_old hw ho), fun ho hs => goes hd (hostAnswer_read hw ho hs),
        fun ho hs => goes hd (hostAnswer_read_error hw ho hs)⟩,
      fun h b hd hw => ⟨fun ho => goes hd (hostAnswer_seal_old hw ho), fun ho hs => goes hd (hostAnswer_seal_error hw ho hs),
        fun ho hs hr => goes hd (hostAnswer_seal_waits hw ho hs hr), fun ho hs hr => goes hd (hostAnswer_seal hw ho hs hr)⟩,
      fun h hd hw => ⟨fun hs => goes hd (hostAnswer_atomicOp hw hs), fun hs => goes hd (hostAnswer_atomicOp_error hw hs)⟩,
      fun h n hd hw => ⟨fun ho => goes hd (hostAnswer_casRead_old hw ho), fun ho hs => goes hd (hostAnswer_casRead_error hw ho hs),
        fun ho hs => goes hd (hostAnswer_casRead hw ho hs)⟩,
      fun h n m hd hw => ⟨fun hs => goes hd (hostAnswer_casTry_error hw hs), fun hs hm => goes hd (hostAnswer_casTry_done hw hs hm),
        fun hs hm ho => goes hd (hostAnswer_casTry_old hw hs hm ho), fun hs hm ho hn => goes hd (hostAnswer_casTry_last hw hs hm ho hn),
        fun hs hm ho hn => goes hd (hostAnswer_casTry_again hw hs hm ho hn)⟩⟩
    cases hd : o.dead with
    | true => exact dead hd
    | false => exact goes hd (hostAnswer_of_store hw)

end Sys2Proof.Machine
end

section
/-!
PROOFS. The idle step: O2.
-/
namespace Sys2Proof
variable {α : Type}

theorem delKey_insKey_same (l : List (Nat × α)) (k : Nat) (v : α) : delKey (insKey k v l) k = delKey l k := by
  induction l with
  | nil => simp [insKey, delKey]
  | cons p l ih =>
    by_cases hk : k < p.1
    · simp [insKey, hk, delKey]
    · simp [insKey, hk, delKey, ih]

theorem delKey_delKey_same (l : List (Nat × α)) (k : Nat) : delKey (delKey l k) k = delKey l k := by
  induction l with
  | nil => rfl
  | cons p l ih =>
    by_cases hk : p.1 = k
    · simp [delKey, hk, ih]
    · simp [delKey, hk, ih]

theorem delKey_putKey_same [DecidableEq α] (l : List (Nat × α)) (k : Nat) (d v : α) : delKey (putKey l k d v) k = delKey l k := by
  unfold putKey setKey
  split
  · exact delKey_delKey_same l k
  · rw [delKey_insKey_same, delKey_delKey_same]

end Sys2Proof

namespace Sys2Proof.Machine
open Sys2Proof

/-! ## What the passage of time leaves alone -/

/-- The state without what the passage of time moves: the clocks, the slew, the count of ticks in which an input is held (R124), the counters
kept for a telemetry map (R366), the copy budget (R371) and the outputs. -/
def timeless (s : State) : State :=
  { s with
    regs := delKey s.regs Reg.SWITCH.COUNT_B.BACKPRESSURE_TICKS.key, now := 0, time := 0, out := []
    tick := { s.tick with slew := 0 }, sw := { s.sw with heldTick := none }, tel := { s.tel with counts := [], marks := [], ffUsed := 0 } }

/-- States with the same `timeless` part read alike in every field but the count of held ticks. -/
theorem rd_of_timeless {s t : State} (h : timeless t = timeless s) {f : Fld} (hf : f.key ≠ Reg.SWITCH.COUNT_B.BACKPRESSURE_TICKS.key) :
    rd t f = rd s f := by
  have hregs : delKey t.regs Reg.SWITCH.COUNT_B.BACKPRESSURE_TICKS.key = delKey s.regs Reg.SWITCH.COUNT_B.BACKPRESSURE_TICKS.key :=
    congrArg State.regs h
  unfold rd
  rw [← findKey_delKey_ne t.regs hf.symm, hregs, findKey_delKey_ne s.regs hf.symm]

theorem timeless_passKerf (s : State) (t : Nat) : timeless (passKerf s t) = timeless s := by
  unfold passKerf
  split <;> rfl

theorem timeless_countHeld (s : State) : timeless (countHeld s) = timeless s := by
  unfold countHeld
  split
  · rfl
  · simp only [timeless, bump_regs, cnt_regs, delKey_putKey_same]
    rfl

/-- A tick begun, before the TICK_OUT pulse: the copy budget anew, and inputs still held counted (R124, R371). -/
def tickBegun (s : State) : State :=
  let u := { s with tel := { s.tel with ffUsed := 0 } }
  if u.sw.pkts.any (fun q => q.place == .held) then countHeld u else u

theorem timeless_tickBegun (s : State) : timeless (tickBegun s) = timeless s := by
  unfold tickBegun
  dsimp only
  split
  · exact timeless_countHeld _
  · rfl

theorem newTick_eq (s : State) :
    let u := tickBegun s
    newTick s = if (rdb u Reg.TICK.TICK_PIN_CFG.OUT_EN && tickNo u % 2 ^ rd u Reg.TICK.TICK_PIN_CFG.OUT_DIV == 0) = true then
      { u with out := .tickOut (tickNo u) :: u.out } else u := rfl

theorem timeless_newTick (s : State) : timeless (newTick s) = timeless s := by
  rw [newTick_eq, ← timeless_tickBegun s]
  split <;> rfl

/-! ## One ftu -/

/-- The clocks moved by one ftu, with the correction that is slewed in (R90, R94). -/
def clockStep (s : State) : State :=
  let slewing := (s.now + 1) % 2048 == 0
  if slewing && decide (0 < s.tick.slew) then
    { s with now := s.now + 1, time := s.time + 2, tick := { s.tick with slew := s.tick.slew - 1 } }
  else if slewing && decide (s.tick.slew < 0) then { s with now := s.now + 1, tick := { s.tick with slew := s.tick.slew + 1 } }
  else runOn s 1

theorem clockStep_now (s : State) : (clockStep s).now = s.now + 1 := by
  unfold clockStep
  dsimp only
  split
  · rfl
  · split <;> rfl

theorem timeless_clockStep (s : State) : timeless (clockStep s) = timeless s := by
  unfold clockStep
  dsimp only
  split
  · rfl
  · split <;> rfl

theorem clockStep_of_slew_zero {s : State} (h : s.tick.slew = 0) : clockStep s = runOn s 1 := by
  simp [clockStep, h]

theorem advance_of_tripped {s : State} (h : s.pw.tripped = true) : advance s = { s with now := s.now + 1 } := if_pos h

/-- The kerf and the tick that begin with the new ftu follow the clocks. -/
theorem advance_of_running {s : State} (h : s.pw.tripped = false) :
    let u := passKerf (clockStep s) s.time.toNat
    advance s = u ∨ advance s = newTick u := by
  intro u
  have hu : advance s = if u.time.toNat / 4096 ≠ s.time.toNat / 4096 then newTick u else u := if_neg (by simp [h])
  rw [hu]
  split
  · exact .inr rfl
  · exact .inl rfl

@[simp] theorem passKerf_now (s : State) (t : Nat) : (passKerf s t).now = s.now := by
  unfold passKerf
  split <;> rfl

@[simp] theorem passKerf_time (s : State) (t : Nat) : (passKerf s t).time = s.time := by
  unfold passKerf
  split <;> rfl

@[simp] theorem countHeld_now (s : State) : (countHeld s).now = s.now := by
  unfold countHeld
  split <;> rfl

@[simp] theorem countHeld_time (s : State) : (countHeld s).time = s.time := by
  unfold countHeld
  split <;> rfl

@[simp] theorem newTick_now (s : State) : (newTick s).now = s.now := by
  simp only [newTick, apply_ite State.now, countHeld_now, ite_self]

@[simp] theorem newTick_time (s : State) : (newTick s).time = s.time := by
  simp only [newTick, apply_ite State.time, countHeld_time, ite_self]

theorem advance_clocks {s : State} (h : s.pw.tripped = false) :
    (advance s).now = (clockStep s).now ∧ (advance s).time = (clockStep s).time := by
  rcases advance_of_running h with hs | hs
  · simp [hs]
  · simp [hs]

theorem timeless_advance (s : State) : timeless (advance s) = timeless s := by
  cases h : s.pw.tripped with
  | true => rw [advance_of_tripped h]; rfl
  | false =>
    rcases advance_of_running h with hs | hs
    · rw [hs, timeless_passKerf, timeless_clockStep]
    · rw [hs, timeless_newTick, timeless_passKerf, timeless_clockStep]

theorem advance_now (s : State) : (advance s).now = s.now + 1 := by
  cases h : s.pw.tripped with
  | true => rw [advance_of_tripped h]
  | false => rw [(advance_clocks h).1, clockStep_now]

theorem advance_time_of_slew_zero {s : State} (h : s.pw.tripped = false) (hs : s.tick.slew = 0) : (advance s).time = s.time + 1 := by
  rw [(advance_clocks h).2, clockStep_of_slew_zero hs]
  rfl

theorem advance_time_of_tripped {s : State} (h : s.pw.tripped = true) : (advance s).time = s.time := by
  rw [advance_of_tripped h]

/-- Settles O2: the step is `advance`, which keeps the `timeless` part of the state. -/
theorem idleStepLetsTimePass : Obligations.IdleStepLetsTimePass := by
  intro s hq
  have kept {β : Type} (g : State → β) : g (timeless (advance s)) = g (timeless s) := congrArg g (timeless_advance s)
  exact ⟨advance s, step_of_pending_nil hq, advance_now s, (kept State.pending).trans hq, advance_time_of_slew_zero, advance_time_of_tripped,
    fun _ => rd_of_timeless (timeless_advance s), kept State.hold, kept State.snaps, kept State.free, kept State.hbm, kept State.poison,
    kept State.inbox, kept State.outbox, kept State.err, kept State.fn, kept State.jig, kept State.ext, kept State.host, kept State.ep,
    kept State.link, kept State.fw, kept State.pw, kept State.mem, kept State.cells, kept (·.tel.copies), kept (·.sw.pkts), kept (·.sw.egress)⟩

end Sys2Proof.Machine
end

section
/-!
PROOFS. Width changes of a link (R328, R333, R334): O39.
-/
namespace Sys2Proof.Machine
open Sys2Proof

section
variable {s : State} {h : BitVec 8} {lcb : BitVec 256}

/-! ## Requests of the peer (R333) -/

/-- Half `n` accepts a width request of its peer for kerf `target`. -/
def widthTakes (s : State) (n target : Nat) : Bool :=
  let x := linkRun s n
  decide (s.time.toNat < kerfStart target) && (x.req.isNone || decide (peerSender s n < serviceId s)) && !x.paused && !(x.agreed.isSome && x.asked)

theorem widthTakes_iff {n target : Nat} : widthTakes s n target = true ↔ s.time.toNat < kerfStart target ∧
    ((linkRun s n).req = none ∨ peerSender s n < serviceId s) ∧ (linkRun s n).paused = false ∧
    ((linkRun s n).agreed = none ∨ (linkRun s n).asked = false) := by
  have agreed_or : ¬ ((linkRun s n).agreed.isSome = true ∧ (linkRun s n).asked = true) ↔
      (linkRun s n).agreed = none ∨ (linkRun s n).asked = false := by
    rw [not_and_or, Option.not_isSome_iff_eq_none, Bool.not_eq_true]
  simp only [widthTakes, Bool.and_eq_true, Bool.or_eq_true, decide_eq_true_eq, Option.isNone_iff_eq_none, Bool.not_eq_true', and_assoc,
    ← Bool.not_eq_true (_ && _), agreed_or]

section
variable (hu : linkState s h.toNat = 3) (hl : lcbIs lcb 2 = true)
include hu hl

theorem exec_lcbWidthReq :
    let n := h.toNat
    let target := bits lcb.toNat 96 64
    let o := widthTakes s n target
    exec (.lcbWidthReq h lcb) s = .next (sendLcb
      (if o = true then setLink s n { linkRun s n with req := none, agreed := some (maskOf (lanesFrom s n (bits lcb.toNat 32 8)), target), asked := false }
       else s) n 3 0 (256 * bits lcb.toNat 40 8 + 65536 * b2n o) 0 0) :=
  congrArg Host.Outcome.next (if_pos (by simp [hu, hl]))

theorem exec_lcbWidthReq_taken (ht : widthTakes s h.toNat (bits lcb.toNat 96 64) = true) :
    exec (.lcbWidthReq h lcb) s = .next (sendLcb (setLink s h.toNat { linkRun s h.toNat with
      req := none, agreed := some (maskOf (lanesFrom s h.toNat (bits lcb.toNat 32 8)), bits lcb.toNat 96 64), asked := false })
      h.toNat 3 0 (256 * bits lcb.toNat 40 8 + 65536) 0 0) := by
  rw [exec_lcbWidthReq hu hl, ht]
  rfl

theorem exec_lcbWidthReq_refused (ht : widthTakes s h.toNat (bits lcb.toNat 96 64) = false) :
    exec (.lcbWidthReq h lcb) s = .next (sendLcb s h.toNat 3 0 (256 * bits lcb.toNat 40 8) 0 0) := by
  rw [exec_lcbWidthReq hu hl, ht]
  rfl

end

theorem exec_lcbWidthReq_ignored (hn : linkState s h.toNat ≠ 3 ∨ lcbIs lcb 2 = false) : exec (.lcbWidthReq h lcb) s = .next s := by
  refine congrArg Host.Outcome.next (if_neg ?_)
  rw [Bool.and_eq_true, beq_iff_eq, ← Bool.not_eq_false]
  tauto

/-! ## Own requests (R333) -/

/-- The control block is an accepting answer, in time, to the own request `q` of half `n`. -/
def widthAccepts (s : State) (n : Nat) (lcb : BitVec 256) (q : WidthReq) : Bool :=
  lcbIs lcb 3 && linkState s n == 3 && bits lcb.toNat 40 8 == q.no && bits lcb.toNat 48 1 == 1 && decide (s.time.toNat + 4096 ≤ kerfStart q.target)

theorem widthAccepts_iff {n : Nat} {q : WidthReq} : widthAccepts s n lcb q = true ↔ linkState s n = 3 ∧ lcbIs lcb 3 = true ∧
    bits lcb.toNat 40 8 = q.no ∧ bits lcb.toNat 48 1 = 1 ∧ s.time.toNat + 4096 ≤ kerfStart q.target := by
  simp only [widthAccepts, Bool.and_eq_true, beq_iff_eq, decide_eq_true_eq, and_assoc, and_left_comm (a := lcbIs lcb 3 = true)]

section
variable (hr : (linkRun s h.toNat).req = none)
include hr

theorem exec_lcbWidthAck_of_none : exec (.lcbWidthAck h lcb) s = .next s := by
  change execLcbWidthAck h lcb s = _
  simp only [execLcbWidthAck, hr]

theorem exec_widthReqTimeout_of_none : exec (.widthReqTimeout h) s = .next s := by
  change execWidthReqTimeout h s = _
  simp only [execWidthReqTimeout, hr]

end

section
variable {q : WidthReq} (hr : (linkRun s h.toNat).req = some q)
include hr

theorem exec_lcbWidthAck : exec (.lcbWidthAck h lcb) s = .next (if widthAccepts s h.toNat lcb q = true then
    setLink s h.toNat { linkRun s h.toNat with req := none, agreed := some (q.mask, q.target), asked := true } else s) := by
  change execLcbWidthAck h lcb s = _
  simp only [execLcbWidthAck, hr]
  rfl

/-- A request not answered by its time (R333). -/
theorem exec_widthReqTimeout_late (hl : linkState s h.toNat = 3 ∧ kerfStart q.target ≤ s.time.toNat + 4096) :
    let n := h.toNat
    let set := activeSet s n (goodLanes s n)
    exec (.widthReqTimeout h) s = .next (if 3 ≤ q.tries then linkDown s n 8 2
      else if set = [] ∨ maskOf set = activeMask s n then setLink s n { linkRun s n with req := none }
      else sendWidthReq s n (maskOf set) (q.tries + 1)) := by
  change execWidthReqTimeout h s = _
  simp only [execWidthReqTimeout, hr]
  exact congrArg Host.Outcome.next (if_pos hl)

theorem exec_widthReqTimeout_early (hl : ¬ (linkState s h.toNat = 3 ∧ kerfStart q.target ≤ s.time.toNat + 4096)) :
    exec (.widthReqTimeout h) s = .next s := by
  change execWidthReqTimeout h s = _
  simp only [execWidthReqTimeout, hr]
  exact congrArg Host.Outcome.next (if_neg hl)

end

/-! ## The change (R102, R333, R334) -/

section
variable (ha : (linkRun s h.toNat).agreed = none)
include ha

theorem exec_widthChange_of_none : exec (.widthChange h) s = .next s := by
  change execWidthChange h s = _
  simp only [execWidthChange, ha]

theorem exec_widthChangeResume_of_none : exec (.widthChangeResume h) s = .next s := by
  change execWidthChangeResume h s = _
  simp only [execWidthChangeResume, ha]

end

/-- The stripe of half `n` restarts with a marker on the agreed lanes `mask`. -/
def stripeResumes (s : State) (n mask : Nat) : State :=
  sendMarkers (setLink (applySet s n (lanesOf mask)) n { linkRun s n with paused := false, agreed := none }) n (lanesOf mask)

/-- Lanes of half `n` that a change took out for a fault retrain (R336). -/
def leavingRetrain (s : State) (n : Nat) : State :=
  ((halfLanes s n).filter (fun l => (laneRun s (8 * (n / 2) + l)).leaving && laneState s (n / 2) l == 3)).foldl (fun s l => laneRetrain s (n / 2) l) s

section
variable {a : Nat × Nat} (ha : (linkRun s h.toNat).agreed = some a)
include ha

theorem exec_widthChange :
    exec (.widthChange h) s = .next (if linkState s h.toNat = 3 ∧ (linkRun s h.toNat).paused = false ∧ kerfStart a.2 ≤ s.time.toNat then
      setLink s h.toNat { linkRun s h.toNat with paused := true } else s) := by
  change execWidthChange h s = _
  simp only [execWidthChange, ha]

theorem exec_widthChangeResume :
    let n := h.toNat
    let u := leavingRetrain (stripeResumes s n a.1) n
    exec (.widthChangeResume h) s = .next (if (linkRun s n).paused = true then
      wantWidth { u with link := { u.link with jigWidth := setKey u.link.jigWidth (n / 2) (tickNo u + 1, jigWidth s (n / 2)) } } n else s) := by
  change execWidthChangeResume h s = _
  simp only [execWidthChangeResume, ha]
  rfl

end
end

/-- Settles O39: what the control block says and the half's own request decide the answers, the agreed change and its kerf the rest. -/
theorem widthChanges : Obligations.WidthChanges := by
  intro s h lcb n x no target up takes
  refine ⟨rfl, fun hu hl ht => exec_lcbWidthReq_taken hu hl (widthTakes_iff.2 ht),
    fun hu hl ht => exec_lcbWidthReq_refused hu hl (Bool.eq_false_iff.2 (mt widthTakes_iff.1 ht)), exec_lcbWidthReq_ignored,
    fun hr => ⟨exec_lcbWidthAck_of_none hr, exec_widthReqTimeout_of_none hr⟩, ?_,
    fun ha => ⟨exec_widthChange_of_none ha, exec_widthChangeResume_of_none ha⟩, ?_⟩
  · intro q hr set yes late
    have ack {v : State} (hv : (if widthAccepts s n lcb q = true then _ else s) = v) : exec (.lcbWidthAck h lcb) s = .next v :=
      (exec_lcbWidthAck hr).trans (congrArg _ hv)
    have timeout (hl : late) {v : State} (hv : (if 3 ≤ q.tries then _ else if set = [] ∨ maskOf set = activeMask s n then _ else _) = v) :
        exec (.widthReqTimeout h) s = .next v :=
      (exec_widthReqTimeout_late hr hl).trans (congrArg _ hv)
    exact ⟨fun hy => ack (if_pos (widthAccepts_iff.2 hy)), fun hy => ack (if_neg (mt widthAccepts_iff.1 hy)),
      fun hl h3 => timeout hl (if_pos h3),
      fun hl h3 hs hm => timeout hl ((if_neg (by omega)).trans (if_neg (not_or.2 ⟨hs, hm⟩))),
      fun hl h3 hs => timeout hl ((if_neg (by omega)).trans (if_pos hs)), exec_widthReqTimeout_early hr⟩
  · intro a ha due v u
    have change {t : State} (ht : (if due then _ else s) = t) : exec (.widthChange h) s = .next t := (exec_widthChange ha).trans (congrArg _ ht)
    have resume {t : State} (ht : (if x.paused = true then _ else s) = t) : exec (.widthChangeResume h) s = .next t :=
      (exec_widthChangeResume ha).trans (congrArg _ ht)
    exact ⟨fun hd => change (if_pos hd), fun hd => change (if_neg hd), fun hp => resume (if_pos hp), fun hp => resume (if_neg (by simp [hp]))⟩

end Sys2Proof.Machine
end

section
/-!
PROOFS. Fabric time, general timers, snapshots and jig tables (R90 to R95, R99, R104, R105, R412): O54.
-/
namespace Sys2Proof.Machine
open Sys2Proof

/-! ## Time words (R91, R92) -/

section
variable {s : State} {h : BitVec 8} {lcb : BitVec 256}

/-- The link of half `n` carries frames. -/
def carriesFrames (s : State) (n : Nat) : Bool := halfIs s n && (linkState s n == 2 || linkState s n == 3)

theorem carriesFrames_iff {n : Nat} : carriesFrames s n = true ↔ halfIs s n = true ∧ (linkState s n = 2 ∨ linkState s n = 3) := by
  simp [carriesFrames]

/-- An exchange period has passed since the last time word of half `n` (R92). -/
def wordDue (s : State) (n : Nat) : Bool := (findKey s.tick.sent n).all (fun t => decide (t + ticks 8 ≤ s.now))

theorem wordDue_iff {n : Nat} : wordDue s n = true ↔ ∀ t, findKey s.tick.sent n = some t → t + ticks 8 ≤ s.now := by
  simp only [wordDue, Option.all_eq_true, decide_eq_true_eq]

theorem exec_timeWordSend :
    let n := h.toNat
    let w := (findKey s.tick.words n).getD (0, 0)
    exec (.timeWordSend h) s = .next (if (carriesFrames s n && wordDue s n) = true then
      sendLcb { s with tick := { s.tick with sent := setKey s.tick.sent n s.now } } n 1 (if rd s Reg.TICK.TIME_CFG.TIME_SRC = 0 then 1 else 0)
        s.time.toNat w.1 w.2 else s) := by
  change execTimeWordSend h s = _
  unfold execTimeWordSend wordDue
  dsimp only
  cases findKey s.tick.sent h.toNat with
  | none => rfl
  | some t => rfl

/-- The peer's word kept to be answered (R92). -/
def wordKept (s : State) (n : Nat) (lcb : BitVec 256) : State :=
  { s with tick := { s.tick with words := setKey s.tick.words n (bits lcb.toNat 32 64, s.time.toNat) } }

theorem timeLcb_taken_iff {n : Nat} : (lcbIs lcb 1 && halfIs s n && (linkState s n == 2 || linkState s n == 3)) = true ↔
    carriesFrames s n = true ∧ lcbIs lcb 1 = true := by
  rw [Bool.and_assoc, Bool.and_eq_true, and_comm]
  rfl

theorem exec_timeLcbReceive_ignored (hg : ¬ (carriesFrames s h.toNat = true ∧ lcbIs lcb 1 = true)) : exec (.timeLcbReceive h lcb) s = .next s :=
  congrArg Host.Outcome.next (if_neg (mt timeLcb_taken_iff.1 hg))

/-- The word is kept, and measured where it marks an end point on a reference port and echoes one of ours. -/
theorem exec_timeLcbReceive (hg : carriesFrames s h.toNat = true ∧ lcbIs lcb 1 = true) :
    let n := h.toNat
    let u := wordKept s n lcb
    exec (.timeLcbReceive h lcb) s = .next (if rd u Reg.TICK.TIME_CFG.TIME_SRC = 1 ∧ bits lcb.toNat 8 8 = 2 ∧
        (bits lcb.toNat 96 64, bits lcb.toNat 160 64) ≠ (0, 0) ∧ refsOf u (n / 2) ≠ [] then
      refOffset u (refsOf u (n / 2)) ((((s.time.toNat : Int) - bits lcb.toNat 32 64) - ((bits lcb.toNat 160 64 : Int) - bits lcb.toNat 96 64)) * 8)
      else u) :=
  congrArg Host.Outcome.next (if_pos (timeLcb_taken_iff.2 hg))

end

/-! ## A valid offset (R93) -/

theorem within4_iff {o : Int} : within4 o = true ↔ o.natAbs * 10 ≤ 1024 := decide_eq_true_iff

theorem within16_iff {o : Int} : within16 o = true ↔ o.natAbs * 10 ≤ 4096 := decide_eq_true_iff

section
variable {s : State} {o : Int}

/-- The offset noted as the last valid one. -/
def offsetNoted (s : State) (o : Int) : State := { s with tick := { s.tick with offset := o, lastValid := s.now } }

/-- The offset noted, with the counts of small and of large ones and the correction to be slewed in (R93, R94). -/
def offsetCounted (s : State) (o : Int) (small large : Nat) (slew : Int) : State :=
  { s with tick := { s.tick with offset := o, lastValid := s.now, small := small, large := large, slew := slew } }

theorem validOffset_unsync (h : s.tick.st = 0) : validOffset s o = stepTime (setTimeState (offsetNoted s o) 1) := by
  simp only [validOffset, offsetNoted, h]

theorem validOffset_acquire (h : s.tick.st = 1) : validOffset s o =
    if 1024 < o.natAbs then stepTime (offsetNoted s o)
    else if within4 o = true then
      if 16 ≤ s.tick.small + 1 then setTimeState (offsetCounted s o 0 0 (-(o / 16))) 2
      else offsetCounted s o (s.tick.small + 1) s.tick.large s.tick.slew
    else offsetCounted s o 0 s.tick.large s.tick.slew := by
  simp only [validOffset, offsetNoted, offsetCounted, h]

theorem validOffset_locked (h : s.tick.st = 2) : validOffset s o =
    if within16 o = true then offsetCounted s o s.tick.small 0 (-(o / 16))
    else if 4 ≤ s.tick.large + 1 then alignAlarm (offsetNoted s o)
    else offsetCounted s o s.tick.small (s.tick.large + 1) (-(o / 16)) := by
  simp only [validOffset, offsetNoted, offsetCounted, h]

theorem validOffset_holdover (h : 3 ≤ s.tick.st) : validOffset s o =
    if within16 o = true then setTimeState (offsetCounted s o s.tick.small 0 (-(o / 16))) 2 else alignAlarm (offsetNoted s o) := by
  obtain ⟨k, hk⟩ := Nat.exists_eq_add_of_le' h
  simp only [validOffset, offsetNoted, offsetCounted, hk]

end

/-! ## The time source (R93) -/

section
variable {s : State} {w : Writer} {src : Nat} {acc : Nat × Nat}

theorem timeSrcWrite_slave (h3 : src ≠ 3) (h0 : src ≠ 0) : timeSrcWrite s w src acc =
    unsync (wr { s with tick := { s.tick with loaded := true } } Reg.TICK.TIME_CFG.TIME_SRC src) :=
  (if_neg h3).trans (if_neg h0)

/-- The flag of an edge seen, after what the edges lost leave (R91, R414). -/
def edgeSeen (s : State) (gone : Bool) : State := wr (if gone = true then cdcLost s 6 else s) Reg.TICK.TICK_PIN_CFG.IN_EDGE_SEEN 1

theorem exec_tickInEdge {gone : Bool} :
    let u := edgeSeen s gone
    let d := s.time.toNat % 4096
    exec (.tickInEdge gone) s = .next (if rd u Reg.TICK.TIME_CFG.TIME_SRC = 2 then
      timeStatus (validOffset u (16 * (if d < 2048 then (d : Int) else (d : Int) - 4096))) else u) := by
  cases gone with
  | true => rfl
  | false => rfl

theorem reacquire_master (h : rd s Reg.TICK.TIME_CFG.TIME_SRC = 0) : reacquire s = s := if_pos h

theorem reacquire_slave (h : rd s Reg.TICK.TIME_CFG.TIME_SRC ≠ 0) : reacquire s = unsync s := if_neg h

end

/-! ## General timers (R99) -/

section
variable {s : State} {k : Fin 32} {f : Nat}

/-- General timer `k`, held by function `f`, fires now. -/
def timerFires (s : State) (k : Fin 32) (f : Nat) : Bool :=
  rdb s (Reg.TICK.GTIMER.ENABLE k) && running s f && slotNo s == rd s (Reg.TICK.GTIMER.SLOT k) &&
    (findKey s.tick.gtNext k.val).all (fun t => decide (t ≤ tickNo s))

theorem timerFires_iff : timerFires s k f = true ↔ rdb s (Reg.TICK.GTIMER.ENABLE k) = true ∧ running s f = true ∧
    slotNo s = rd s (Reg.TICK.GTIMER.SLOT k) ∧ ∀ t, findKey s.tick.gtNext k.val = some t → t ≤ tickNo s := by
  simp only [timerFires, Bool.and_eq_true, beq_iff_eq, Option.all_eq_true, decide_eq_true_eq, and_assoc]

theorem exec_gtimerFire_of_none (hh : timerHolder s k.val = none) : exec (.gtimerFire k) s = .next s := by
  change execGtimerFire k s = _
  simp only [execGtimerFire, hh]

theorem exec_gtimerFire (hh : timerHolder s k.val = some f) :
    let u := cnt s (Reg.TICK.GTIMER.FIRE_COUNT k)
    exec (.gtimerFire k) s = .next (if timerFires s k f = true then
      timerReaches { u with tick := { u.tick with gtNext := setKey u.tick.gtNext k.val (tickNo u + rd u (Reg.TICK.GTIMER.PERIOD k)) } } f k.val
      else s) := by
  change execGtimerFire k s = _
  simp only [execGtimerFire, hh]
  refine congrArg Host.Outcome.next (if_congr ?_ rfl rfl)
  unfold timerFires
  cases findKey s.tick.gtNext k.val with
  | none => rfl
  | some t => rfl

end

/-! ## Snapshots (R412) -/

section
variable {s : State} {b : SnapBlk}

theorem exec_snapshotReq_again (h : rdb s (snapFlds b).1 = true) : exec (.snapshotReq b) s = .next (wr s (snapFlds b).2.2 1) :=
  congrArg Host.Outcome.next (if_pos h)

theorem exec_snapshotReq (h : rdb s (snapFlds b).1 = false) :
    let f := snapFlds b
    exec (.snapshotReq b) s = .next { wrs s [(f.1, 1), (f.2.1, 0)] with snaps := setKey s.snaps f.1.key s.now } :=
  congrArg Host.Outcome.next (if_neg (by simp [h]))

theorem exec_snapshotDone_of_none (h : rdb s (snapFlds b).1 = false) : exec (.snapshotDone b) s = .next s :=
  congrArg Host.Outcome.next (if_pos (by simp [h]))

theorem exec_snapshotDone (h : rdb s (snapFlds b).1 = true) :
    let f := snapFlds b
    let u := snapSource s b
    let held := (u.regs.filter (fun e => snapCovers b e.1)).foldl (fun h e => setKey h e.1 e.2) (u.hold.filter (fun e => !snapCovers b e.1))
    exec (.snapshotDone b) s = .next { wrs u [(f.1, 0), (f.2.1, 1)] with hold := held, snaps := delKey u.snaps f.1.key } :=
  congrArg Host.Outcome.next (if_neg (by simp [h]))

end

/-! ## Jig tables (R104, R105) -/

section
variable {s : State} {w : Writer}

theorem jigStageWrite_busy {j k v : Nat} {acc : Nat × Nat} (h : jigBusy s = true) :
    jigStageWrite s w j k v acc = regError s w acc.1 acc.2 true 6 := if_pos h

/-- The words of a stage entry are its input ports, its slots and the rest of its fields. -/
theorem exec_jigStageWrite {j : BitVec 12} {v : BitVec 64} (h : jigBusy s = false) :
    let n := j.toNat
    let x := v.toNat
    exec (.jigStageWrite w j 0 v) s = .next (wr s (Reg.TICK.JIG_STAGE.IN_PORTS n 0) x) ∧
    exec (.jigStageWrite w j 1 v) s = .next (wr s (Reg.TICK.JIG_STAGE.IN_PORTS n 1) x) ∧
    exec (.jigStageWrite w j 2 v) s = .next (wr s (Reg.TICK.JIG_STAGE.SLOT_MASK n) x) ∧
    exec (.jigStageWrite w j 3 v) s = .next (wrs s [(Reg.TICK.JIG_STAGE.VALID n, x), (Reg.TICK.JIG_STAGE.OUTPUT n, bits x 1 7),
      (Reg.TICK.JIG_STAGE.KINDS n, bits x 8 3), (Reg.TICK.JIG_STAGE.TENANT_ANY n, bits x 11 1), (Reg.TICK.JIG_STAGE.TCS n, bits x 12 8),
      (Reg.TICK.JIG_STAGE.DEST n, bits x 20 12), (Reg.TICK.JIG_STAGE.DEST_MASK n, bits x 32 12), (Reg.TICK.JIG_STAGE.TENANT n, bits x 44 12)]) := by
  have free : ¬ jigBusy s = true := by simp [h]
  refine ⟨?_, ?_, ?_, ?_⟩ <;> exact congrArg Host.Outcome.next (if_neg free)

theorem jigCommit_busy {target : Nat} {acc : Nat × Nat} (h : jigBusy s = true) :
    jigCommit s w target acc = regError s w acc.1 acc.2 true 6 := if_pos h

theorem jigCommit_free {target : Nat} {acc : Nat × Nat} (h : jigBusy s = false) : jigCommit s w target acc =
    setJigStatus { s with jig := { s.jig with copy := bankOf s jigStageKey, target := target, commitAt := s.now } } 1 (0, 0, 0, 0) :=
  if_neg (by simp [h])

theorem exec_jigValidationDone_away (h : jigStatus s ≠ 1 ∨ procAway s 3 ≠ false) : exec .jigValidationDone s = .next s :=
  congrArg Host.Outcome.next (if_pos (by simpa using h))

section
variable (h1 : jigStatus s = 1) (hr : procAway s 3 = false)
include h1 hr

theorem exec_jigValidationDone_failed {c : Nat × Nat × Nat × Nat} (hc : jigCheck s (jigTable s.jig.copy) = some c) :
    exec .jigValidationDone s = .next (setJigStatus s 4 c) := by
  refine congrArg Host.Outcome.next ((if_neg (by simp [h1, hr])).trans ?_)
  rw [hc]

theorem exec_jigValidationDone_passed (hc : jigCheck s (jigTable s.jig.copy) = none) :
    let goal := if s.jig.target = 0 then (s.time.toNat + 127) / 4096 + 1 else s.jig.target
    exec .jigValidationDone s = .next (setJigStatus { s with jig := { s.jig with target := goal } }
      (if 4096 * (goal - 1) + 3968 < s.time.toNat then 5 else 2) (0, 0, 0, 0)) := by
  refine congrArg Host.Outcome.next ((if_neg (by simp [h1, hr])).trans ?_)
  rw [hc]
  rfl

end

/-- At its instant a commit whose scheduler core is away, or that is still validated, is LATE (R105, R377). -/
theorem exec_jigTableSwap_late (hn : jigStatus s = 2 ∧ procAway s 3 ≠ false ∨ jigStatus s = 1 ∧ s.jig.target ≠ 0)
    (hp : jigInstant s ≤ s.time.toNat) : exec .jigTableSwap s = .next (setJigStatus s 5 (0, 0, 0, 0)) := by
  refine congrArg Host.Outcome.next ((if_neg ?_).trans (if_pos ⟨hn.imp_left And.left, hp⟩))
  rintro ⟨h2, -, hr⟩
  rcases hn with ⟨-, ha⟩ | ⟨h1, -⟩
  · exact ha hr
  · omega

theorem exec_jigTableSwap_none (hn : ¬ jigInstant s ≤ s.time.toNat ∨ jigStatus s ≠ 2 ∧ (jigStatus s ≠ 1 ∨ s.jig.target = 0)) :
    exec .jigTableSwap s = .next s := by
  refine congrArg Host.Outcome.next ((if_neg ?_).trans (if_neg ?_))
  · rintro ⟨h2, hp, -⟩
    exact hn.elim (· hp) (·.1 h2)
  · rintro ⟨hs, hp⟩
    omega

end

/-- Settles O54: each command's guard decides, and the time state (R93) or the commit's status (R105) says what follows. -/
theorem timeTimersAndJigs : Obligations.TimeTimersAndJigs := by
  refine ⟨fun _ => rfl, ?_, ?_, ?_, ?_, ?_, ?_⟩
  · intro s h lcb n w up due a b c u src refs good gives
    have sends {v : State} (hv : (if (carriesFrames s n && wordDue s n) = true then _ else s) = v) : exec (.timeWordSend h) s = .next v :=
      exec_timeWordSend.trans (congrArg Host.Outcome.next hv)
    have receives (hg : good) {v : State} (hv : (if gives then _ else u) = v) : exec (.timeLcbReceive h lcb) s = .next v :=
      (exec_timeLcbReceive (hg.imp_left carriesFrames_iff.2)).trans (congrArg Host.Outcome.next hv)
    have now_iff : (carriesFrames s n && wordDue s n) = true ↔ up ∧ due := by rw [Bool.and_eq_true, carriesFrames_iff, wordDue_iff]
    exact ⟨fun hu hd => sends (if_pos (now_iff.2 ⟨hu, hd⟩)), fun hn => sends (if_neg (mt now_iff.1 (not_and_or.2 hn))),
      fun hg => exec_timeLcbReceive_ignored (mt (And.imp_left carriesFrames_iff.1) hg), fun hg hm => receives hg (if_neg hm),
      fun hg hm => receives hg (if_pos hm)⟩
  · intro s o u slew near close
    have acquire (h1 : s.tick.st = 1) {v : State} (hv : (if 1024 < o.natAbs then _ else if within4 o = true then
        if 16 ≤ s.tick.small + 1 then _ else _ else _) = v) : validOffset s o = v := (validOffset_acquire h1).trans hv
    have small (hn : near) : ¬ 1024 < o.natAbs := by omega
    have locked (h2 : s.tick.st = 2) {v : State} (hv : (if within16 o = true then _ else if 4 ≤ s.tick.large + 1 then _ else _) = v) :
        validOffset s o = v := (validOffset_locked h2).trans hv
    have holdover (h3 : 3 ≤ s.tick.st) {v : State} (hv : (if within16 o = true then _ else _) = v) : validOffset s o = v :=
      (validOffset_holdover h3).trans hv
    exact ⟨validOffset_unsync, fun h1 hf => acquire h1 (if_pos hf),
      fun h1 hf hn => acquire h1 ((if_neg (by omega)).trans (if_neg (mt within4_iff.1 hn))),
      fun h1 hn hc => acquire h1 ((if_neg (small hn)).trans ((if_pos (within4_iff.2 hn)).trans (if_neg (by omega)))),
      fun h1 hn hc => acquire h1 ((if_neg (small hn)).trans ((if_pos (within4_iff.2 hn)).trans (if_pos hc))),
      fun h2 hc => locked h2 (if_pos (within16_iff.2 hc)),
      fun h2 hc hl => locked h2 ((if_neg (mt within16_iff.1 hc)).trans (if_neg (by omega))),
      fun h2 hc hl => locked h2 ((if_neg (mt within16_iff.1 hc)).trans (if_pos hl)),
      fun h3 hc => holdover h3 (if_pos (within16_iff.2 hc)), fun h3 hc => holdover h3 (if_neg (mt within16_iff.1 hc))⟩
  · intro s w src lost ended loaded m d
    refine ⟨fun hl => congrArg Host.Outcome.next (if_pos hl), fun hl => congrArg Host.Outcome.next (if_neg hl),
      fun he => congrArg Host.Outcome.next (if_pos he), fun he => congrArg Host.Outcome.next (if_neg he),
      fun hs => congrArg Host.Outcome.next (reacquire_slave hs), fun hs => congrArg Host.Outcome.next (reacquire_master hs), rfl,
      fun k hk => congrArg Host.Outcome.next ?_, rfl, fun gone => ?_⟩
    · rcases hk with rfl | rfl
      · exact timeSrcWrite_slave (by decide) (by decide)
      · exact timeSrcWrite_slave (by decide) (by decide)
    · exact ⟨fun hp => exec_tickInEdge.trans (congrArg Host.Outcome.next (if_pos hp)),
        fun hp => exec_tickInEdge.trans (congrArg Host.Outcome.next (if_neg hp))⟩
  · intro s k fires
    refine ⟨fun f hh hf => (exec_gtimerFire hh).trans (congrArg Host.Outcome.next (if_pos (timerFires_iff.2 hf))), fun hn => ?_⟩
    cases hh : timerHolder s k.val with
    | none => exact exec_gtimerFire_of_none hh
    | some f => exact (exec_gtimerFire hh).trans (congrArg Host.Outcome.next (if_neg (mt timerFires_iff.1 (hn f hh))))
  · intro s b f u held
    exact ⟨exec_snapshotReq, exec_snapshotReq_again, exec_snapshotDone, exec_snapshotDone_of_none⟩
  · intro s w j k v target n x check runs goal u past put
    exact ⟨fun hb => congrArg Host.Outcome.next (jigStageWrite_busy hb), exec_jigStageWrite, fun hb => congrArg Host.Outcome.next (jigCommit_busy hb),
      fun hb => congrArg Host.Outcome.next (jigCommit_free hb), exec_jigValidationDone_away,
      fun c h1 hr => exec_jigValidationDone_failed h1 hr, exec_jigValidationDone_passed,
      fun h2 hp hr => congrArg Host.Outcome.next (if_pos ⟨h2, hp, hr⟩), exec_jigTableSwap_late, exec_jigTableSwap_none,
      fun h6 => congrArg Host.Outcome.next (if_pos h6), fun h6 => congrArg Host.Outcome.next (if_neg h6)⟩

end Sys2Proof.Machine
end

section
/-!
PROOFS. The queues of the switch, the routing tables and port down (R108, R112, R115, R117, R122, R124, R125): O33 and O34.
-/
namespace Sys2Proof.Machine
open Sys2Proof

/-! ## Held and spilled packets (R122, R124) -/

section
variable {s : State} {q : QPkt}

theorem releaseHeld_of_none {inp half c : Nat} (h : firstHeld s inp half c = none) : releaseHeld s inp half c = s := by
  simp only [releaseHeld, h]

theorem releaseHeld_of_some {inp half c : Nat} (h : firstHeld s inp half c = some q) : releaseHeld s inp half c =
    if placement s q q.jig = .held then s else enqueue (dropPkt s q.id) q (placement s q q.jig) := by
  simp only [releaseHeld, h]

/-- The first spilled packet of VOQ `k`. -/
def firstSpilled (s : State) (k : Nat) : Option QPkt := s.sw.pkts.find? (fun x => x.key == k && x.place == .spill)

/-- Packet `q` of VOQ `k` is whole, its queue is below the refill mark and the pool has room for it (R122). -/
def MayRefill (s : State) (k : Nat) (q : QPkt) : Prop :=
  q.total ≤ q.arrived ∧ onchipOf s k < rd s Reg.SWITCH.SPILL_CFG.REFILL_KIB * 1024 ∧ q.bytes ≤ poolFree s

/-- Packet `q` of VOQ `k` moved from spill into the shared pool. -/
def refilled (s : State) (k : Nat) (q : QPkt) : State :=
  bufStatus (chainTake
    { s with sw := { s.sw with pkts := s.sw.pkts.map (fun x => if x.id = q.id then { x with place := .onchip } else x) } } k q.bytes)

variable {k : Nat} {bad : Bool}

theorem refill_of_none (h : firstSpilled s k = none) : refill s k bad = s := by
  rw [firstSpilled] at h
  simp only [refill, h]

section
variable (h : firstSpilled s k = some q)
include h

theorem refill_of_may (hm : MayRefill s k q) : refill s k bad = if bad = true then discardPkt s q else refilled s k q := by
  obtain ⟨whole, mark, room⟩ := hm
  have notShut : (decide (onchipOf s k ≥ rd s Reg.SWITCH.SPILL_CFG.REFILL_KIB * 1024) || decide (poolFree s < q.bytes)) = false := by
    simp [mark, room]
  rw [firstSpilled] at h
  simp only [refill, h, if_neg (Nat.not_lt.2 whole), notShut, Bool.false_eq_true, if_false, refilled]

theorem refill_of_not_may (hm : ¬ MayRefill s k q) : refill s k bad = s := by
  rw [firstSpilled] at h
  simp only [refill, h]
  by_cases whole : q.total ≤ q.arrived
  · have shut : (decide (onchipOf s k ≥ rd s Reg.SWITCH.SPILL_CFG.REFILL_KIB * 1024) || decide (poolFree s < q.bytes)) = true := by
      unfold MayRefill at hm
      rw [Bool.or_eq_true, decide_eq_true_iff, decide_eq_true_iff]
      omega
    rw [if_neg (Nat.not_lt.2 whole), if_pos shut]
  · rw [if_pos (Nat.lt_of_not_le whole)]

end

/-! ## Registry answers (R108, R352) -/

variable {id : Nat}

/-- The packet numbered `id` that waits for its registry answer. -/
def waitingUnchecked (s : State) (id : Nat) : Option QPkt := s.sw.pkts.find? (fun x => x.id == id && x.unchecked)

/-- Packet `id` is eligible (R108). -/
def markedChecked (s : State) (id : Nat) : State :=
  { s with sw := { s.sw with pkts := s.sw.pkts.map (fun x => if x.id = id then { x with unchecked := false } else x) } }

/-- The record of a registry entry `i` that cannot be read, then the packet's discard and its POISON answer (R352). -/
def lookupPoisoned (s : State) (q : QPkt) (i : Nat) : State :=
  denyAtIngress (discardPkt (report (takeFree s) fExt 0x0D 2 4 i
    (packBits [(0, 12, q.p.h.ep), (12, 12, q.p.h.tenant.toNat), (24, 8, q.p.h.xgen.toNat)])) q) q.inp q.p.h ccPoison 0

theorem lookupReturn_of_none {lost : Bool} (h : waitingUnchecked s id = none) : lookupReturn s id lost = s := by
  rw [waitingUnchecked] at h
  simp only [lookupReturn, h]

section
variable (h : waitingUnchecked s id = some q)
include h

theorem lookupReturn_lost_of_grant {i : Nat} (he : extCheck s q.p.h = .grant i) : lookupReturn s id true = lookupPoisoned s q i := by
  rw [waitingUnchecked] at h
  simp only [lookupReturn, h, he, lookupPoisoned, if_true]

theorem lookupReturn_lost_of_no_grant (he : ∀ i, extCheck s q.p.h ≠ .grant i) :
    lookupReturn s id true = lookupPoisoned s q (peekFree s) := by
  rw [waitingUnchecked] at h
  cases hc : extCheck s q.p.h with
  | grant i => exact absurd hc (he i)
  | none | deny cc d => simp only [lookupReturn, h, hc, lookupPoisoned, if_true]

theorem lookupReturn_of_grant {i : Nat} (he : extCheck s q.p.h = .grant i) :
    lookupReturn s id false = markedChecked (inflightUp s i) id := by
  rw [waitingUnchecked] at h
  simp only [lookupReturn, h, he, markedChecked, Bool.false_eq_true, if_false]

theorem lookupReturn_of_no_check (he : extCheck s q.p.h = .none) : lookupReturn s id false = markedChecked s id := by
  rw [waitingUnchecked] at h
  simp only [lookupReturn, h, he, markedChecked, Bool.false_eq_true, if_false]

theorem lookupReturn_of_deny {cc d : Nat} (he : extCheck s q.p.h = .deny cc d) :
    lookupReturn s id false = denyAtIngress (discardPkt s q) q.inp q.p.h cc d := by
  rw [waitingUnchecked] at h
  simp only [lookupReturn, h, he, Bool.false_eq_true, if_false]

end

/-! ## Buffer reads and queued notices (R112, R125) -/

variable {a : BitVec 32}

theorem inBuffer_iff : s.sw.pkts.any (fun q => q.id == id && q.place != .spill) = true ↔ ∃ q ∈ s.sw.pkts, q.id = id ∧ q.place ≠ .spill := by
  simp only [List.any_eq_true, Bool.and_eq_true, beq_iff_eq, bne_iff_ne]

theorem bufferError_of_inBuffer (h : ∃ q ∈ s.sw.pkts, q.id = id ∧ q.place ≠ .spill) :
    bufferError s (some (id, a)) = stompPkt (report s 465 0x07 1 2 0xFF a.toNat) id := if_pos (inBuffer_iff.2 h)

theorem bufferError_of_not_inBuffer (h : ¬ ∃ q ∈ s.sw.pkts, q.id = id ∧ q.place ≠ .spill) :
    bufferError s (some (id, a)) = s := if_neg (mt inBuffer_iff.1 h)

theorem sendNotice_of_nil (h : s.sw.notices = []) : sendNotice s = s := by
  simp only [sendNotice, h]

theorem sendNotice_of_cons {hd : Hdr} {port : Nat} {sp : Bool} {rest : List (Hdr × Nat × Bool)} (h : s.sw.notices = (hd, port, sp) :: rest) :
    sendNotice s = flushStatus (inject { s with sw := { s.sw with notices := rest } } 228 (unreachable s hd port)) := by
  simp only [sendNotice, h]

end

/-- Settles O33: each event acts on the first packet or notice that waits for it, and changes nothing where none does. -/
theorem switchQueues : Obligations.SwitchQueues := by
  have next {s t : State} (h : s = t) : (.next s : Host.Outcome State Fault Refusal) = .next t := congrArg _ h
  refine ⟨?_, ?_, ?_, ?_⟩
  · intro s inp hi tc half go
    exact ⟨fun h => next (releaseHeld_of_none h), fun q h => ⟨fun hp => next ((releaseHeld_of_some h).trans (if_pos hp)),
      fun hp => next ((releaseHeld_of_some h).trans (if_neg hp))⟩⟩
  · intro s inp out tc multicast bad k go first may
    refine ⟨fun h => next (refill_of_none h), fun q h => ⟨fun hm hb => ?_, fun hm hb => ?_, fun hm => next (refill_of_not_may h hm)⟩⟩
    · exact next ((refill_of_may h hm).trans (if_pos hb))
    · exact next ((refill_of_may h hm).trans (if_neg (ne_true_of_eq_false hb)))
  · intro s id lost go waits checked
    refine ⟨fun h => next (lookupReturn_of_none h), fun q h => ?_⟩
    intro rec_ poison
    refine ⟨fun hl => ?_, fun hl => ?_⟩
    · subst hl
      exact ⟨fun i he => next (lookupReturn_lost_of_grant h he), fun he => next (lookupReturn_lost_of_no_grant h he)⟩
    · subst hl
      exact ⟨fun i he => next (lookupReturn_of_grant h he), fun he => next (lookupReturn_of_no_check h he),
        fun cc d he => next (lookupReturn_of_deny h he)⟩
  · intro s id a here
    exact ⟨rfl, fun h => next (congrArg matching (bufferError_of_inBuffer h)), fun h => next (congrArg matching (bufferError_of_not_inBuffer h)),
      fun h => next (sendNotice_of_nil h), fun hd port sp rest h => next (sendNotice_of_cons h)⟩

/-! ## What a flush leaves of the egress FIFOs (R125) -/

section
variable (s : State)

@[simp] theorem bufStatus_sw : (bufStatus s).sw = s.sw := wrs_sw _ _

@[simp] theorem oweArrived_egress (q : QPkt) : (oweArrived s q).sw.egress = s.sw.egress := by
  unfold oweArrived oweCredit
  split
  · rfl
  · split <;> rfl

@[simp] theorem chainTake_egress (k b : Nat) : (chainTake s k b).sw.egress = s.sw.egress := by
  unfold chainTake
  split <;> rfl

@[simp] theorem dropPkt_egress (id : Nat) : (dropPkt s id).sw.egress = s.sw.egress := by
  unfold dropPkt
  dsimp only
  split <;> simp

@[simp] theorem discardPkt_egress (q : QPkt) : (discardPkt s q).sw.egress = s.sw.egress := by
  unfold discardPkt
  split <;> simp

@[simp] theorem flushOne_egress (port half : Nat) (h : Hdr) (spilled : Bool) : (flushOne s port half h spilled).sw.egress = s.sw.egress := by
  unfold flushOne
  repeat' split
  all_goals rfl

theorem flushOutputs_egress (outs : List Nat) (port half : Nat) : (flushOutputs s outs port half).sw.egress = s.sw.egress := by
  refine List.foldlRecOn (motive := fun t : State => t.sw.egress = s.sw.egress) _ _ rfl fun t ht q _ => ?_
  dsimp only
  split
  · split
    · simp [ht]
    · split
      · simp [ht]
      · exact ht
  · exact ht

theorem egressOf_setEgress (o : Nat) (l : List Egress) : egressOf (setEgress s o l) o = l := getD_putKey_same _ _ _ _

/-- A half has no credit once its credit is cleared (R121). -/
theorem creditOf_clearCredit {n c : Nat} (hc : c < 8) : creditOf (clearCredit s n) n c = 0 := by
  have gone (l : List (Nat × Nat)) : findKey (l.filter (fun e => e.1 / 8 != n)) (8 * n + c) = none := by
    induction l with
    | nil => rfl
    | cons e l ih =>
      by_cases he : e.1 / 8 = n
      · simpa [he] using ih
      · have other : e.1 ≠ 8 * n + c := by omega
        simpa [he, findKey_cons, other] using ih
  exact congrArg (Option.getD · 0) (gone s.sw.credit)

end

/-! ## Routes and port down (R115, R125, R127) -/

section
variable {s : State} {w : Writer} {d bundle : Nat} {valid : Bool} {acc : Nat × Nat}

/-- The state with ROUTE entry `d` replaced. -/
def routeSet (s : State) (d bundle : Nat) (valid : Bool) : State :=
  wr (wrb s (Reg.SWITCH.ROUTE.VALID d) valid) (Reg.SWITCH.ROUTE.BUNDLE d) bundle

theorem routeWrite_noRoute {announce : Bool} : routeWrite s w 0xFFF bundle valid announce acc = regError s w acc.1 acc.2 true 7 := if_pos rfl

section
variable (hd : d ≠ 0xFFF)
include hd

theorem routeWrite_quiet : routeWrite s w d bundle valid false acc = memberTest (routeSet s d bundle valid) none := by
  simp only [routeWrite, if_neg hd, Bool.false_eq_true, if_false, routeSet]

theorem routeWrite_announced : routeWrite s w d bundle valid true acc = memberTest
    (report (inject (routeSet s d bundle valid) 228 (noticeTo (routeSet s d bundle valid) 0xFFF 4 d 0x1FF 0 0 0)) 467 0x0B 2 0 d bundle) (some d) := by
  simp only [routeWrite, if_neg hd, if_true, routeSet]

end

theorem exec_portDown_idle {h : BitVec 8} (hn : h.toNat ∉ s.sw.down) : exec (.portDown h) s = .next s :=
  congrArg Host.Outcome.next (if_neg (mt List.contains_iff_mem.1 hn))

theorem exec_portDown {h : BitVec 8} (hn : h.toNat ∈ s.sw.down) :
    exec (.portDown h) s = .next (memberTest (portDownHalf s h.toNat) none) :=
  congrArg Host.Outcome.next (if_pos (List.contains_iff_mem.2 hn))

end

/-- Settles O34: a write to entry 0xFFF is refused and any other replaces its entry, and the steps of port down empty the FIFO and the credit of
the half. -/
theorem routesBundlesAndPortDown : Obligations.RoutesBundlesAndPortDown := by
  refine ⟨fun s w d bundle b valid v => ?_, fun s h => ?_⟩
  · intro r word
    refine ⟨fun hd => ?_, fun a => congrArg Host.Outcome.next routeWrite_noRoute, rfl⟩
    have route : d.toNat ≠ 0xFFF := fun he => hd (BitVec.eq_of_toNat_eq he)
    exact ⟨congrArg Host.Outcome.next (routeWrite_quiet route), congrArg Host.Outcome.next (routeWrite_announced route)⟩
  · intro n a t
    refine ⟨exec_portDown_idle, fun hn => ⟨exec_portDown hn, ?_, fun c hc => creditOf_clearCredit _ hc⟩⟩
    calc egressOf a n = egressOf (setEgress { s with sw := { s.sw with down := s.sw.down.filter (fun x => x != n) } } n []) n := by
          rw [egressOf, flushOutputs_egress]
          rfl
      _ = [] := egressOf_setEgress _ _ _

end Sys2Proof.Machine
end

section
/-!
PROOFS. One instruction of a handler, and the stores to local data and tile windows (R131, R168 to R172): O18.
-/
namespace Sys2Proof
variable {l : List Byte} {n off : Nat} {new : List Byte}

theorem padTo_of_length (h : l.length = n) : padTo n l = l := by simp [padTo, ← h]

@[simp] theorem padTo_length : (padTo n l).length = n := by
  simp [padTo]
  omega

theorem putBytes_length (h : off + new.length ≤ l.length) : (putBytes l off new).length = l.length := by
  simp [putBytes]
  omega

end Sys2Proof

namespace Sys2Proof.Machine
open Sys2Proof

/-! ## One instruction of a handler -/

section
variable {s : State} {l : Nat} {cost : Nat} {regs : List Nat} {r : CellRun} {f : CellRun → State → Res}

theorem atIns_of_acc_nil (h : r.acc = []) : atIns s l cost regs r = ({ r with pc := r.pc + 1, cycles := r.cycles + cost }, s) := by
  unfold atIns
  rw [settle_nil h]

section
variable (h : cellRun s l = some r)
include h

theorem ins_of_ok {r' : CellRun} {s' : State} (hf : f (atIns s l cost regs r).1 (atIns s l cost regs r).2 = .ok r' s') :
    ins s l cost regs f = setRun s' l r' := by
  unfold atIns at hf
  simp only [ins_some h, hf]

theorem ins_of_done {s' : State} (hf : f (atIns s l cost regs r).1 (atIns s l cost regs r).2 = .done s') : ins s l cost regs f = s' := by
  unfold atIns at hf
  simp only [ins_some h, hf]

theorem ins_of_fault {code imm : Nat} (hf : f (atIns s l cost regs r).1 (atIns s l cost regs r).2 = .fault code imm) :
    .next (ins s l cost regs f) = faults s l cost regs r code imm := by
  have pc := settle_pc l (fun a => regs.contains a.reg) r s
  unfold atIns at hf
  simp only [ins_some h, hf, faults, atIns, ← pc]

end

/-! ## Accesses to local data and tile windows (R131, R168) -/

section
variable {a n sp off : Nat}

/-- An access to local data ends with it. -/
theorem localAt_data (h : localAt r a n = some (0, off)) : off + n ≤ 131072 := by
  unfold localAt at h
  split at h
  · split at h
    · cases h
    · cases h
      omega
  · split at h
    · next w =>
      cases h
      exact w.2
    · split at h
      · simp at h
      · cases h

/-- An access to a tile window ends with the tile. -/
theorem localAt_tile {k : Nat} (h : localAt r a n = some (k + 1, off)) : off + n ≤ tileLen := by
  unfold localAt at h
  split at h
  · split at h
    · cases h
    · cases h
  · split at h
    · cases h
    · split at h
      · next w =>
        obtain ⟨_, _, fits⟩ := w
        obtain ⟨_, _, _, rfl⟩ := by simpa using h
        exact fits
      · cases h

variable {g : CellRun → State → Nat → Nat → Res}

theorem localAccess_misaligned (h : a % n ≠ 0) : localAccess l r s a n g = .fault 2 0 := if_pos h

theorem localAccess_outside (h : a % n = 0) (hat : localAt r a n = none) : localAccess l r s a n g = .fault 1 0 := by
  simp [localAccess, h, hat]

theorem localAccess_inside (h : a % n = 0) (hat : localAt r a n = some (sp, off)) :
    localAccess l r s a n g = g (settle l (touches sp off n) r s).1 (settle l (touches sp off n) r s).2 sp off := by
  simp [localAccess, h, hat]

end
end

/-! ## What a store to local data or a tile leaves (R131) -/

section
variable {s : State} {l sp off : Nat} {b : List Byte}

theorem localRd_localWr_same {a : Nat} : localRd (localWr s l a b) l a b.length = b := by
  refine List.ext_getElem (by simp [localRd]) fun i hi hb => ?_
  simpa [localRd, localWr] using putMem_same s.cells.data (131072 * l + a) b i hb

theorem localRd_localWr_ne {a c x : Nat} (h : 131072 * c + x < 131072 * l + a ∨ 131072 * l + a + b.length ≤ 131072 * c + x) :
    localRd (localWr s l a b) c x 1 = localRd s c x 1 :=
  congrArg (fun y => [y]) (putMem_ne s.cells.data (131072 * l + a) b (131072 * c + x) h)

theorem slotTile_length {k : Nat} : (slotTile s l k).length = tileLen := padTo_length

theorem slotTile_setSlotTile {k : Nat} {t : List Byte} (h : t.length = tileLen) : slotTile (setSlotTile s l k t) l k = t := by
  simp [slotTile, setSlotTile, padTo_of_length h]

theorem spaceWr_data : spaceWr s l 0 off b = localWr s l off b := if_pos rfl

theorem spaceWr_tile {k : Nat} : spaceWr s l (k + 1) off b = setSlotTile s l k (putBytes (slotTile s l k) off b) := if_neg (Nat.succ_ne_zero k)

@[simp] theorem spaceWr_regs : (spaceWr s l sp off b).regs = s.regs := by unfold spaceWr; split <;> rfl
@[simp] theorem spaceWr_hbm : (spaceWr s l sp off b).hbm = s.hbm := by unfold spaceWr; split <;> rfl
@[simp] theorem spaceWr_shared : (spaceWr s l sp off b).cells.shared = s.cells.shared := by unfold spaceWr; split <;> rfl

/-- A store leaves every byte of local data outside the bytes stored, of every cell. -/
theorem localRd_spaceWr_ne {c x : Nat} (hx : x < 131072) (hoff : sp = 0 → off + b.length ≤ 131072)
    (h : ¬ (sp = 0 ∧ c = l ∧ off ≤ x ∧ x < off + b.length)) : localRd (spaceWr s l sp off b) c x 1 = localRd s c x 1 := by
  cases sp with
  | zero =>
    have inside := hoff rfl
    rw [spaceWr_data]
    exact localRd_localWr_ne (by omega)
  | succ k => rw [spaceWr_tile]; rfl

end

/-! ## The stores (R172) -/

section
variable {s : State} {l : Fin 6144} {rd ra : Fin 32} {imm : BitVec 16}

/-- The store instructions, with the bytes that each stores. -/
def storeOps (l : Fin 6144) (rd ra : Fin 32) (imm : BitVec 16) : List (Instr × Nat) :=
  [(.st8 l rd ra imm, 1), (.st16 l rd ra imm, 2), (.st32 l rd ra imm, 4), (.st64 l rd ra imm, 8)]

theorem exec_store {e : Instr × Nat} (he : e ∈ storeOps l rd ra imm) : exec e.1 s = storeN s l e.2 rd ra imm := by
  simp only [storeOps, List.mem_cons, List.not_mem_nil, or_false] at he
  rcases he with rfl | rfl | rfl | rfl
  all_goals rfl

variable {r : CellRun} (h : cellRun s l = some r) {n sp off : Nat}
include h

theorem storeN_inside (ha : addrImm (atIns s l 2 [rd, ra] r).1 ra imm % n = 0)
    (hat : localAt (atIns s l 2 [rd, ra] r).1 (addrImm (atIns s l 2 [rd, ra] r).1 ra imm) n = some (sp, off)) :
    let p := settle l (touches sp off n) (atIns s l 2 [rd, ra] r).1 (atIns s l 2 [rd, ra] r).2
    storeN s l n rd ra imm = .next (setRun (spaceWr p.2 l sp off (leBytes n (gS p.1 rd).toNat)) l p.1) :=
  congrArg Host.Outcome.next (ins_of_ok h (localAccess_inside ha hat))

theorem storeN_misaligned (ha : addrImm (atIns s l 2 [rd, ra] r).1 ra imm % n ≠ 0) :
    storeN s l n rd ra imm = faults s l 2 [rd, ra] r 2 0 :=
  ins_of_fault h (localAccess_misaligned ha)

theorem storeN_outside (ha : addrImm (atIns s l 2 [rd, ra] r).1 ra imm % n = 0)
    (hat : localAt (atIns s l 2 [rd, ra] r).1 (addrImm (atIns s l 2 [rd, ra] r).1 ra imm) n = none) :
    storeN s l n rd ra imm = faults s l 2 [rd, ra] r 1 0 :=
  ins_of_fault h (localAccess_outside ha hat)

/-- With nothing outstanding a store writes its bytes and the handler goes on. -/
theorem storeN_of_acc_nil (hacc : r.acc = []) (ha : addrImm r ra imm % n = 0) (hat : localAt r (addrImm r ra imm) n = some (sp, off)) :
    storeN s l n rd ra imm = .next (setRun (spaceWr s l sp off (leBytes n (gS r rd).toNat)) l { r with pc := r.pc + 1, cycles := r.cycles + 2 }) := by
  have here := atIns_of_acc_nil (s := s) (l := l) (cost := 2) (regs := [rd.val, ra.val]) hacc
  refine (storeN_inside h (n := n) (sp := sp) (off := off) ?_ ?_).trans ?_
  · rw [here]
    exact ha
  · rw [here]
    exact hat
  · rw [here]
    dsimp only
    rw [settle_nil]
    · rfl
    · exact hacc

end

/-- Settles O18: alignment and the window decide what a store does, and what it writes lies in the cell's own local data or in one tile. -/
theorem localStores : Obligations.LocalStores := by
  refine ⟨fun s l r rd ra imm sp off h => ?_, fun s t l r rd ra imm sp off h hacc e he ha hat ht => ?_⟩
  · intro w a e he
    rw [exec_store he]
    exact ⟨storeN_inside h, storeN_misaligned h, storeN_outside h⟩
  · rw [exec_store he, storeN_of_acc_nil h hacc ha hat] at ht
    obtain rfl := Host.Outcome.next.inj ht
    have len : (leBytes e.2 (gS r rd).toNat).length = e.2 := leBytes_length _ _
    refine ⟨?_, fun c x hx hout => ?_, ?_, rd_congr spaceWr_regs, hbmRd_congr spaceWr_hbm, spaceWr_shared⟩
    · rintro rfl
      rw [spaceWr_data]
      have stored := localRd_localWr_same (s := s) (l := l) (a := off) (b := leBytes e.2 (gS r rd).toNat)
      rw [len] at stored
      exact ⟨stored, rfl⟩
    · refine localRd_spaceWr_ne hx (fun hsp => ?_) ?_
      · subst hsp
        rw [len]
        exact localAt_data hat
      · rwa [len, ← Fin.ext_iff]
    · rintro k rfl
      have fits : off + (leBytes e.2 (gS r rd).toNat).length ≤ (slotTile s l k).length := by
        rw [len, slotTile_length]
        exact localAt_tile hat
      rw [spaceWr_tile]
      exact ⟨slotTile_setSlotTile ((putBytes_length fits).trans slotTile_length), fun x hx => findKey_setKey_ne _ _ hx.symm⟩

end Sys2Proof.Machine
end

section
/-!
PROOFS. Faults, tests and retirement of cells and of HBM pseudo-channels (R148 to R152, R351 to R354): O57.
-/
namespace Sys2Proof.Machine
open Sys2Proof

/-! ## Sudden swaps and migrations that end (R150, R151) -/

section
variable {s : State} {l : Fin 6144} {ecc : Option (BitVec 23)}

theorem exec_suddenSwapComplete_unmoved (h : findKey s.cells.moves l.val = none) : exec (.suddenSwapComplete l ecc) s = .next s := by
  change execSuddenSwapComplete l s ecc = _
  simp only [execSuddenSwapComplete, h]

theorem exec_migrationComplete_unmoved (h : findKey s.cells.moves l.val = none) : exec (.migrationComplete l) s = .next s := by
  change execMigrationComplete l s = _
  simp only [execMigrationComplete, h]

variable {m : CellMove} (h : findKey s.cells.moves l.val = some m)

/-- The state in which device cell `l` goes on at the spare of the move `m`. -/
def migrated (s : State) (l : Nat) (m : CellMove) : State :=
  let n := l / 128
  let t := remap (setPhys s n m.from_ 5) n (l % 128) m.spare
  let fresh := if eventComes t l then l :: t.cells.fresh else t.cells.fresh
  let tr := trace t (4 + n) 7 0x0800 l (imageOf t n).version
  setRand { tr with cells := { tr.cells with moves := delKey tr.cells.moves l, fresh := fresh } } l (cellRand s l)

section
include h

theorem exec_suddenSwapComplete : exec (.suddenSwapComplete l ecc) s =
    .next (if (m.sudden && !procAway s (4 + l.val / 128)) = true then
      imageReloaded { s with cells := { s.cells with moves := delKey s.cells.moves l.val } } (l.val / 128) ecc else s) := by
  change execSuddenSwapComplete l s ecc = _
  simp only [execSuddenSwapComplete, h]

theorem exec_suddenSwapComplete_loaded (hs : m.sudden = true) (hp : procAway s (4 + l.val / 128) = false) : exec (.suddenSwapComplete l ecc) s =
    .next (imageReloaded { s with cells := { s.cells with moves := delKey s.cells.moves l.val } } (l.val / 128) ecc) := by
  rw [exec_suddenSwapComplete h, if_pos (by simp [hs, hp])]

theorem exec_suddenSwapComplete_waits (hn : m.sudden = false ∨ procAway s (4 + l.val / 128) = true) :
    exec (.suddenSwapComplete l ecc) s = .next s := by
  rw [exec_suddenSwapComplete h, if_neg]
  rcases hn with hn | hn
  all_goals simp [hn]

theorem exec_migrationComplete : exec (.migrationComplete l) s =
    .next (if (m.sudden || (cellRun s l.val).isSome || procAway s (4 + l.val / 128) || physState s (l.val / 128) m.spare != 2) = true then s
      else if rd (migrated s l.val m) (Reg.CLUSTER.PHYS_CELL.LAST_FAULT (l.val / 128) m.from_) = 8 then
        cellRecord (migrated s l.val m) (l.val / 128) m.from_ (l.val % 128) 8 3 0
      else migrated s l.val m) := by
  change execMigrationComplete l s = _
  simp only [execMigrationComplete, h]
  rfl

theorem exec_migrationComplete_moves (hs : m.sudden = false) (hr : cellRun s l.val = none) (hp : procAway s (4 + l.val / 128) = false)
    (hst : physState s (l.val / 128) m.spare = 2) : exec (.migrationComplete l) s =
      .next (if rd (migrated s l.val m) (Reg.CLUSTER.PHYS_CELL.LAST_FAULT (l.val / 128) m.from_) = 8 then
        cellRecord (migrated s l.val m) (l.val / 128) m.from_ (l.val % 128) 8 3 0
      else migrated s l.val m) := by
  rw [exec_migrationComplete h, if_neg (by simp [hs, hr, hp, hst])]

theorem exec_migrationComplete_waits (hn : m.sudden = true ∨ cellRun s l.val ≠ none ∨ procAway s (4 + l.val / 128) = true ∨
    physState s (l.val / 128) m.spare ≠ 2) : exec (.migrationComplete l) s = .next s := by
  rw [exec_migrationComplete h, if_pos]
  simpa [or_assoc, Option.isSome_iff_ne_none] using hn

end
end

/-! ## The watchdog (R140) -/

section
variable {s : State} {l : Fin 6144}

theorem exec_cellWatchdog_running {r : CellRun} (h : cellRun s l.val = some r) : exec (.cellWatchdog l) s =
    .next (if 2 ^ rd s (Reg.CLUSTER.CE_CFG.WDOG_LOG2 (l.val / 128)) ≤ runCycles s r then loseRun (cellFaultAt s l.val 5 0) l.val else s) := by
  change execCellWatchdog l s = _
  simp only [execCellWatchdog, h]

/-- The cell may run a stock handler for the event that it would take next. -/
def stockNext (s : State) (l : Nat) : Bool :=
  clServes s (l / 128) && (imageOf s (l / 128)).stock && cellFree s l && (tickWaits s l || decide (0 < cellHeld s l))

theorem stockNext_iff {l : Nat} : stockNext s l = true ↔
    clServes s (l / 128) = true ∧ (imageOf s (l / 128)).stock = true ∧ cellFree s l = true ∧ (tickWaits s l = true ∨ 0 < cellHeld s l) := by
  simp [stockNext, and_assoc]

theorem exec_cellWatchdog_idle (h : cellRun s l.val = none) : exec (.cellWatchdog l) s =
    .next (if stockNext s l.val = true then cellFaultAt s l.val 5 0 else s) := by
  change execCellWatchdog l s = _
  simp only [execCellWatchdog, h]
  rfl

end

/-! ## Physical cells (R148, R149) -/

section
variable {s : State} {n : Fin 48} {c : Fin 132} {w : Writer}

/-- Physical cell `c` of CLUSTER `n` is ACTIVE and its CLUSTER serves. -/
def activeCell (s : State) (n c : Nat) : Bool := physState s n c == 3 && clServes s n

theorem activeCell_iff {n c : Nat} : activeCell s n c = true ↔ physState s n c = 3 ∧ clServes s n = true := by simp [activeCell]

/-! ### Corrected and uncorrectable errors -/

/-- Counting a corrected error leaves the error window. -/
theorem ceTimes_cnt_ceCount {n c : Nat} : ceTimes (cnt s (Reg.CLUSTER.PHYS_CELL.CE_COUNT n c)) n c = ceTimes s n c := by
  have apart : (Reg.CLUSTER.PHYS_CELL.CE_COUNT n c).key ≠ (Reg.CLUSTER.CE_CFG.CE_WINDOW_S n).key := by
    simp only [Reg.CLUSTER.PHYS_CELL.CE_COUNT, Reg.CLUSTER.CE_CFG.CE_WINDOW_S]
    omega
  simp only [ceTimes, cnt_cells, cnt_now, rd_cnt_ne s 1 apart]

theorem exec_cellCe : exec (.cellCe n c) s =
    (let u := cnt s (Reg.CLUSTER.PHYS_CELL.CE_COUNT n c)
     .next { u with cells := { u.cells with ce := setKey s.cells.ce (132 * n.val + c.val) (s.now :: ceTimes s n c) } }) := by
  change execCellCe n c s = _
  simp only [execCellCe, ceTimes_cnt_ceCount, cnt_cells, cnt_now]

/-- The corrected errors of an active cell within the window have reached the limit. -/
def ceLimitReached (s : State) (n c : Nat) : Bool :=
  activeCell s n c && decide (rd s (Reg.CLUSTER.CE_CFG.CE_LIMIT n) ≤ (ceTimes s n c).length)

theorem exec_cellCeLimit_migrates {l p : Nat} (h : ceLimitReached s n c = true) (hl : logicalOf s n c = some l) (hp : spareOf s n = some p) :
    exec (.cellCeLimit n c) s = .next (cellRecord (migrate s n c l p 1) n c l 1 3 0) := by
  change execCellCeLimit n c s = _
  unfold ceLimitReached activeCell at h
  simp only [execCellCeLimit, h, if_true, hl, hp]

theorem exec_cellCeLimit_idle (h : ceLimitReached s n c = false ∨ logicalOf s n c = none ∨ spareOf s n = none) :
    exec (.cellCeLimit n c) s = .next s := by
  change execCellCeLimit n c s = _
  unfold ceLimitReached activeCell at h
  rcases h with h | h | h
  · simp only [execCellCeLimit, h, Bool.false_eq_true, if_false]
  · simp only [execCellCeLimit, h, ite_self]
  · cases hl : logicalOf s n c with
    | none => simp only [execCellCeLimit, hl, ite_self]
    | some l => simp only [execCellCeLimit, hl, h, ite_self]

section
variable {cause : BitVec 4} {detail : BitVec 48}

theorem exec_cellUe_memory (h : 2 ≤ cause.toNat) (h' : cause.toNat ≤ 4) : exec (.cellUe n c cause detail) s =
    .next (cellFault (cnt s (Reg.CLUSTER.PHYS_CELL.UE_COUNT n c)) n c cause.toNat 0) :=
  congrArg Host.Outcome.next (if_pos (by omega))

theorem exec_cellUe_exception (h : cause.toNat = 7) {l : Nat} (hl : logicalOf s n c = some l) : exec (.cellUe n c cause detail) s =
    .next (cellFault (countException s (128 * n + l)) n c 7 detail.toNat) := by
  change execCellUe n c cause detail s = _
  simp [execCellUe, h, hl]

theorem exec_cellUe_exception_unmapped (h : cause.toNat = 7) (hl : logicalOf s n c = none) : exec (.cellUe n c cause detail) s =
    .next (cellFault s n c 7 detail.toNat) := by
  change execCellUe n c cause detail s = _
  simp [execCellUe, h, hl]

theorem exec_cellUe_other (h : cause.toNat < 2 ∨ (4 < cause.toNat ∧ cause.toNat ≠ 7)) : exec (.cellUe n c cause detail) s = .next s := by
  change execCellUe n c cause detail s = _
  rw [execCellUe, if_neg (by omega), if_neg (by omega)]

end

/-! ### Retirement and reinstatement -/

section
variable {n c : Nat} {acc : Nat × Nat}

theorem physRetire_inactive (h : ¬ activeCell s n c = true) :
    physRetire s w n c acc = regError (cellRecord s n c 0 8 3 0) w acc.1 acc.2 true 7 := by
  have inactive : (physState s n c == 3 && clServes s n) = false := Bool.not_eq_true _ ▸ h
  simp only [physRetire, inactive, Bool.false_eq_true, if_false]

section
variable {l : Nat} (h : activeCell s n c = true) (hl : logicalOf s n c = some l)
include h hl

theorem physRetire_spare {p : Nat} (hp : spareOf (cellRecord s n c l 8 3 0) n = some p) :
    physRetire s w n c acc = migrate (cellRecord s n c l 8 3 0) n c l p 8 := by
  unfold activeCell at h
  simp only [physRetire, h, hl, Option.getD_some, if_true, hp]

theorem physRetire_full (hp : spareOf (cellRecord s n c l 8 3 0) n = none) :
    physRetire s w n c acc = regError (cellRecord s n c l 8 3 0) w acc.1 acc.2 true 7 := by
  unfold activeCell at h
  simp only [physRetire, h, hl, Option.getD_some, if_true, hp]

end

theorem physReinstate_retired (h : physState (cellRecord s n c 0 10 0 0) n c = 5) : physReinstate s w n c acc =
    { testCell (cellRecord s n c 0 10 0 0) n c with cells := { (testCell (cellRecord s n c 0 10 0 0) n c).cells with
        reinst := (132 * n + c) :: (testCell (cellRecord s n c 0 10 0 0) n c).cells.reinst } } := if_pos h

theorem physReinstate_other (h : physState (cellRecord s n c 0 10 0 0) n c ≠ 5) :
    physReinstate s w n c acc = regError (cellRecord s n c 0 10 0 0) w acc.1 acc.2 true 7 := if_neg h

end

/-! ### Tests -/

/-- CELL_TEST of a physical cell has ended. -/
def testEnded (s : State) (k : Nat) : State :=
  { s with cells := { s.cells with tests := delKey s.cells.tests k, reinst := s.cells.reinst.filter (fun x => x != k) } }

/-- It has passed: the cell is SPARE, with its error window cleared. -/
def testPassed (s : State) (n c : Nat) : State :=
  setPhys { s with cells := { s.cells with
    ce := delKey s.cells.ce (132 * n + c), tested := setKey s.cells.tested (132 * n + c) s.now } } n c 2

theorem exec_cellTestDone {pass : Bool} : exec (.cellTestDone n c pass) s =
    .next (if physState s n c ≠ 1 then s
      else if pass = true then
        if s.cells.reinst.contains (132 * n.val + c.val) = true then
          cellRecord (testPassed (testEnded s (132 * n.val + c.val)) n c) n c 0 10 0 0
        else testPassed (testEnded s (132 * n.val + c.val)) n c
      else testFailed (testEnded s (132 * n.val + c.val)) n c) := rfl

theorem exec_cellTestDone_idle {pass : Bool} (h : physState s n c ≠ 1) : exec (.cellTestDone n c pass) s = .next s := by
  rw [exec_cellTestDone, if_pos h]

section
variable (h : physState s n c = 1)
include h

theorem exec_cellTestDone_failed : exec (.cellTestDone n c false) s = .next (testFailed (testEnded s (132 * n.val + c.val)) n c) := by
  rw [exec_cellTestDone, if_neg (not_not.2 h), if_neg Bool.false_ne_true]

theorem exec_cellTestDone_passed : exec (.cellTestDone n c true) s =
    .next (if s.cells.reinst.contains (132 * n.val + c.val) = true then
      cellRecord (testPassed (testEnded s (132 * n.val + c.val)) n c) n c 0 10 0 0
    else testPassed (testEnded s (132 * n.val + c.val)) n c) := by
  rw [exec_cellTestDone, if_neg (not_not.2 h), if_pos rfl]

end

/-- The spare has not been tested for 600 s. -/
def testDue (s : State) (k : Nat) : Bool := match findKey s.cells.tested k with | some t => decide (t + secs 600 ≤ s.now) | none => true

theorem testDue_iff {k : Nat} : testDue s k = true ↔ ∀ t, findKey s.cells.tested k = some t → t + secs 600 ≤ s.now := by
  unfold testDue
  cases findKey s.cells.tested k <;> simp

/-- No migration fills the spare. -/
def unfilled (s : State) (n c : Nat) : Bool := s.cells.moves.all (fun m => m.1 / 128 != n || m.2.spare != c || m.2.sudden)

theorem unfilled_iff {n c : Nat} : unfilled s n c = true ↔ ¬ ∃ m ∈ s.cells.moves, m.1 / 128 = n ∧ m.2.spare = c ∧ m.2.sudden = false := by
  have fills (m : Nat × CellMove) : (m.1 / 128 != n || m.2.spare != c || m.2.sudden) = true ↔
      ¬ (m.1 / 128 = n ∧ m.2.spare = c ∧ m.2.sudden = false) := by
    rw [← Bool.not_eq_false, not_iff_not]
    simp [and_assoc]
  simp only [unfilled, List.all_eq_true, fills, not_exists, not_and]

theorem exec_sparePeriodicTest {pass : Bool} : exec (.sparePeriodicTest n c pass) s =
    .next (if (physState s n c == 2 && testDue s (132 * n.val + c.val) && unfilled s n c) = true then
      let u := { s with cells := { s.cells with tested := setKey s.cells.tested (132 * n.val + c.val) s.now } }
      if pass = true then u else testFailed u n c
    else s) := rfl

section
variable (hs : physState s n c = 2) (hd : testDue s (132 * n.val + c.val) = true) (hu : unfilled s n c = true)
include hs hd hu

theorem exec_sparePeriodicTest_passed : exec (.sparePeriodicTest n c true) s =
    .next { s with cells := { s.cells with tested := setKey s.cells.tested (132 * n.val + c.val) s.now } } := by
  rw [exec_sparePeriodicTest, if_pos (by simp [hs, hd, hu]), if_pos rfl]

theorem exec_sparePeriodicTest_failed : exec (.sparePeriodicTest n c false) s =
    .next (testFailed { s with cells := { s.cells with tested := setKey s.cells.tested (132 * n.val + c.val) s.now } } n c) := by
  rw [exec_sparePeriodicTest, if_pos (by simp [hs, hd, hu]), if_neg Bool.false_ne_true]

end

theorem exec_sparePeriodicTest_idle {pass : Bool}
    (h : physState s n c ≠ 2 ∨ ¬ testDue s (132 * n.val + c.val) = true ∨ ¬ unfilled s n c = true) :
    exec (.sparePeriodicTest n c pass) s = .next s := by
  rw [exec_sparePeriodicTest, if_neg]
  rcases h with h | h | h
  all_goals simp [h]

end

/-! ## Pseudo-channels of the HBM (R351 to R354) -/

section
variable {s : State} {m : Fin 24} {k : Fin 64} {w : Writer}

/-! ### Errors -/

section
variable {g : BitVec 35} {good : Bool}

/-- A granule read by pseudo-channel `i` lies in the HBM, in that pseudo-channel or one that has moved; and the channel is not retraining. -/
def rereadOk (s : State) (i g : Nat) : Bool :=
  !(decide (hbmSize ≤ 64 * g) || !(granulePc g == i || decide (2 ≤ pcState s (granulePc g))) || pcState s i == 1)

theorem rereadOk_iff {i g : Nat} : rereadOk s i g = true ↔
    64 * g < hbmSize ∧ (granulePc g = i ∨ 2 ≤ pcState s (granulePc g)) ∧ pcState s i ≠ 1 := by
  simp [rereadOk, and_assoc]

/-- The granule read uncorrectable again: poisoned, and counted in its pseudo-channel (R351). -/
def granulePoisoned (s : State) (i g : Nat) : State :=
  let v := { s with poison := g :: s.poison.filter (· != g) }
  pcCounts (setPc v i { pcRun v i with ue := (pcRun v i).ue ++ [s.now] }) i

theorem exec_hbmUeReread : exec (.hbmUeReread m k g good) s =
    .next (if (!rereadOk s (64 * m.val + k.val) g.toNat) = true then s
      else if good = true then hbmRecord (cnt s (Reg.HBM.HBM_COUNT.UNCORRECTABLE m)) (64 * m.val + k.val) 6 2 (64 * g.toNat)
      else hbmRecord (granulePoisoned (cnt s (Reg.HBM.HBM_COUNT.UNCORRECTABLE m)) (64 * m.val + k.val) g.toNat)
        (64 * m.val + k.val) 7 4 (64 * g.toNat)) := by
  rw [rereadOk, Bool.not_not]
  rfl

section
variable (h : rereadOk s (64 * m.val + k.val) g.toNat = true)
include h

theorem exec_hbmUeReread_good : exec (.hbmUeReread m k g true) s =
    .next (hbmRecord (cnt s (Reg.HBM.HBM_COUNT.UNCORRECTABLE m)) (64 * m.val + k.val) 6 2 (64 * g.toNat)) := by
  rw [exec_hbmUeReread, if_neg (by simp [h]), if_pos rfl]

theorem exec_hbmUeReread_bad : exec (.hbmUeReread m k g false) s =
    .next (hbmRecord (granulePoisoned (cnt s (Reg.HBM.HBM_COUNT.UNCORRECTABLE m)) (64 * m.val + k.val) g.toNat)
      (64 * m.val + k.val) 7 4 (64 * g.toNat)) := by
  rw [exec_hbmUeReread, if_neg (by simp [h]), if_neg Bool.false_ne_true]

end

theorem exec_hbmUeReread_idle (h : ¬ rereadOk s (64 * m.val + k.val) g.toNat = true) : exec (.hbmUeReread m k g good) s = .next s := by
  rw [exec_hbmUeReread, if_pos (by simp [h])]

end

/-- A corrected error of pseudo-channel `i` counted (R351). -/
def ceCounted (s : State) (m i : Nat) : State :=
  let u := cnt s (Reg.HBM.HBM_COUNT.CORRECTED m)
  pcCounts (setPc u i { pcRun u i with ce := (pcRun u i).ce ++ [s.now] }) i

section
variable {u : State}

theorem exec_hbmUeLimit (hu : pcCounts s (64 * m.val + k.val) = u) : exec (.hbmUeLimit m k) s =
    .next (if rd u (Reg.HBM.HBM_CFG.UE_LIMIT m) ≤ (pcRun u (64 * m.val + k.val)).ue.length then pcFault u (64 * m.val + k.val) 2 else u) :=
  hu ▸ rfl

theorem exec_hbmCeLimit (hu : ceCounted s m (64 * m.val + k.val) = u) : exec (.hbmCeLimit m k) s =
    .next (if rd u (Reg.HBM.HBM_CFG.CE_LIMIT m) ≤ (pcRun u (64 * m.val + k.val)).ce.length then pcFault u (64 * m.val + k.val) 1 else u) :=
  hu ▸ rfl

end

theorem exec_hbmInterfaceError_active (h : pcState s (64 * m.val + k.val) = 0) : exec (.hbmInterfaceError m k) s =
    .next (hbmRecord (setPcState (setPc (cnt s (Reg.HBM.HBM_COUNT.RETRAINS m)) (64 * m.val + k.val)
      { pcRun s (64 * m.val + k.val) with since := s.now }) (64 * m.val + k.val) 1) (64 * m.val + k.val) 8 2 0) :=
  congrArg Host.Outcome.next (if_pos h)

theorem exec_hbmInterfaceError_migrating (h : pcState s (64 * m.val + k.val) = 2) : exec (.hbmInterfaceError m k) s =
    .next (hbmRecord (cnt s (Reg.HBM.HBM_COUNT.RETRAINS m)) (64 * m.val + k.val) 8 2 0) :=
  congrArg Host.Outcome.next ((if_neg (by omega)).trans (if_pos h))

theorem exec_hbmInterfaceError_other (h : pcState s (64 * m.val + k.val) = 1 ∨ 2 < pcState s (64 * m.val + k.val)) :
    exec (.hbmInterfaceError m k) s = .next s :=
  congrArg Host.Outcome.next ((if_neg (by omega)).trans (if_neg (by omega)))

/-! ### The end of a retrain -/

theorem exec_hbmRetrainDone (h : pcState s (64 * m.val + k.val) = 1 ∧ s.now < (pcRun s (64 * m.val + k.val)).since + us 50) :
    exec (.hbmRetrainDone m k) s = .next (setPcState s (64 * m.val + k.val) 0) := congrArg Host.Outcome.next (if_pos h)

theorem exec_hbmRetrainDone_idle (h : ¬ (pcState s (64 * m.val + k.val) = 1 ∧ s.now < (pcRun s (64 * m.val + k.val)).since + us 50)) :
    exec (.hbmRetrainDone m k) s = .next s := congrArg Host.Outcome.next (if_neg h)

theorem exec_hbmRetrainFail (h : pcState s (64 * m.val + k.val) = 1 ∧ (pcRun s (64 * m.val + k.val)).since + us 50 ≤ s.now) :
    exec (.hbmRetrainFail m k) s = .next (pcFault s (64 * m.val + k.val) 3) := congrArg Host.Outcome.next (if_pos h)

theorem exec_hbmRetrainFail_idle (h : ¬ (pcState s (64 * m.val + k.val) = 1 ∧ (pcRun s (64 * m.val + k.val)).since + us 50 ≤ s.now)) :
    exec (.hbmRetrainFail m k) s = .next s := congrArg Host.Outcome.next (if_neg h)

/-! ### Retirement and reinstatement (R353, R354) -/

theorem exec_pcRetire : exec (.pcRetire w m k) s = .next (if pcState s (64 * m.val + k.val) = 0 then pcFault s (64 * m.val + k.val) 4
    else regError s w (pcAddr m k) 8 true 7) := rfl

theorem exec_pcMigrationDone : exec (.pcMigrationDone m k) s = .next (if pcState s (64 * m.val + k.val) = 2 then
    pcNext (retiredPcs (setPcState s (64 * m.val + k.val) 3) m) (s.mem.queue.length + 1) else s) := rfl

section
variable (h : pcState s (64 * m.val + k.val) = 3)
include h

theorem exec_pcReinstate_begins (ht : (pcRun s (64 * m.val + k.val)).test = false) : exec (.pcReinstate w m k) s =
    .next (setPc s (64 * m.val + k.val) { pcRun s (64 * m.val + k.val) with test := true, since := s.now }) := by
  change execPcReinstate w m k s = _
  simp only [execPcReinstate, pcReinstate, h, ht, if_true, Bool.false_eq_true, if_false]

theorem exec_pcReinstate_again (ht : (pcRun s (64 * m.val + k.val)).test = true) : exec (.pcReinstate w m k) s = .next s := by
  change execPcReinstate w m k s = _
  simp only [execPcReinstate, pcReinstate, h, ht, if_true]

end

theorem exec_pcReinstate_refused (h : pcState s (64 * m.val + k.val) ≠ 3) :
    exec (.pcReinstate w m k) s = .next (regError s w (pcAddr m k) 8 true 7) := congrArg Host.Outcome.next (if_neg h)

/-! ### Tests of retired channels (R354) -/

/-- The donor regions of a pseudo-channel, as its records give them. -/
def donorsOf (s : State) (m k : Nat) : Nat :=
  packBits [(0, 11, rd s (Reg.HBM.PC_STATUS.DONOR_A m k)), (11, 11, rd s (Reg.HBM.PC_STATUS.DONOR_B m k))]

theorem exec_pcTestDone_idle {pass : Bool} (h : (pcRun s (64 * m.val + k.val)).test = false) : exec (.pcTestDone m k pass) s = .next s :=
  congrArg Host.Outcome.next (if_pos (by simp [h]))

section
variable (h : (pcRun s (64 * m.val + k.val)).test = true)
include h

theorem exec_pcTestDone_passed :
    let i := 64 * m.val + k.val
    let u := setPc s i { pcRun s i with test := false }
    exec (.pcTestDone m k true) s = .next (hbmRecord (reserveLeft (retiredPcs
      (setPcState (wrs u [(Reg.HBM.PC_STATUS.DONOR_A m k, 0x7FF), (Reg.HBM.PC_STATUS.DONOR_B m k, 0x7FF)]) i 0) m)) i 9 0 (donorsOf s m k)) :=
  congrArg Host.Outcome.next ((if_neg (by simp [h])).trans (if_pos rfl))

theorem exec_pcTestDone_failed :
    let i := 64 * m.val + k.val
    let u := setPc s i { pcRun s i with test := false }
    exec (.pcTestDone m k false) s = .next (hbmRecord (wr u (Reg.HBM.PC_STATUS.LAST_FAULT m k) 5) i 5 3 (donorsOf s m k)) :=
  congrArg Host.Outcome.next ((if_neg (by simp [h])).trans (if_neg Bool.false_ne_true))

end
end

/-- Settles O57: the move, the handler in progress, the state of the cell or the pseudo-channel and its counts decide what each event does. -/
theorem cellAndHbmFaults : Obligations.CellAndHbmFaults := by
  have next {s t : State} (h : s = t) : (.next s : Host.Outcome State Fault Refusal) = .next t := congrArg _ h
  refine ⟨?_, ?_, ?_, ?_⟩
  · intro s l ecc
    refine ⟨fun h => ⟨exec_suddenSwapComplete_unmoved h, exec_migrationComplete_unmoved h⟩, fun m h => ?_⟩
    intro n u
    refine ⟨exec_suddenSwapComplete_loaded h, exec_suddenSwapComplete_waits h, fun hs hr hp hst => ?_, exec_migrationComplete_waits h⟩
    intro t fresh tr v
    have moves := exec_migrationComplete_moves h hs hr hp hst
    have ends : migrated s l.val m = v := by simp only [migrated, v, tr, fresh, t, n]
    rw [ends] at moves
    exact ⟨fun hf => moves.trans (next (if_neg hf)), fun hf => moves.trans (next (if_pos hf))⟩
  · intro s l
    refine ⟨fun r h => ⟨fun hc => (exec_cellWatchdog_running h).trans (next (if_pos hc)),
      fun hc => (exec_cellWatchdog_running h).trans (next (if_neg (Nat.not_le.2 hc)))⟩, fun h => ?_⟩
    exact ⟨fun up => (exec_cellWatchdog_idle h).trans (next (if_pos (stockNext_iff.2 up))),
      fun up => (exec_cellWatchdog_idle h).trans (next (if_neg (mt stockNext_iff.1 up)))⟩
  · intro s n c w k ok limit
    have ok_iff : activeCell s n c = true ↔ ok := activeCell_iff
    have limit_iff : ceLimitReached s n c = true ↔ ok ∧ limit := by
      rw [ceLimitReached, Bool.and_eq_true, decide_eq_true_eq, ok_iff]
    refine ⟨exec_cellCe, fun l p ha hc => exec_cellCeLimit_migrates (limit_iff.2 ⟨ha, hc⟩), fun h => exec_cellCeLimit_idle ?_,
      fun cause detail => ⟨exec_cellUe_memory, fun h => ⟨fun l => exec_cellUe_exception h, exec_cellUe_exception_unmapped h⟩, exec_cellUe_other⟩,
      fun l ha hl => ⟨fun p hp => next (physRetire_spare (ok_iff.2 ha) hl hp), fun hp => next (physRetire_full (ok_iff.2 ha) hl hp)⟩,
      fun h => next (physRetire_inactive (mt ok_iff.1 h)), ⟨fun h => next (physReinstate_retired h), fun h => next (physReinstate_other h)⟩,
      fun h => ⟨exec_cellTestDone_failed h, fun hr => (exec_cellTestDone_passed h).trans (next (if_neg (ne_true_of_eq_false hr))),
        fun hr => (exec_cellTestDone_passed h).trans (next (if_pos hr))⟩, fun h pass => exec_cellTestDone_idle h, ?_⟩
    · rw [← Bool.not_eq_true, limit_iff, not_and_or, or_assoc]
      exact h
    · intro due taken u
      have due_iff : testDue s k = true ↔ due := testDue_iff
      have free_iff : unfilled s n c = true ↔ ¬ taken := unfilled_iff
      exact ⟨fun hs hd hf => ⟨exec_sparePeriodicTest_passed hs (due_iff.2 hd) (free_iff.2 hf),
          exec_sparePeriodicTest_failed hs (due_iff.2 hd) (free_iff.2 hf)⟩,
        fun h pass => exec_sparePeriodicTest_idle (h.imp_right (Or.imp (mt due_iff.1) fun ht => mt free_iff.1 (not_not.2 ht)))⟩
  · intro s m k w i run ue cd ce trains
    refine ⟨?_, fun h => (exec_hbmUeLimit rfl).trans (next (if_pos h)), fun h => (exec_hbmUeLimit rfl).trans (next (if_neg (Nat.not_le.2 h))),
      fun h => (exec_hbmCeLimit rfl).trans (next (if_pos h)), fun h => (exec_hbmCeLimit rfl).trans (next (if_neg (Nat.not_le.2 h))),
      exec_hbmInterfaceError_active, exec_hbmInterfaceError_migrating, exec_hbmInterfaceError_other,
      fun h ht => ⟨exec_hbmRetrainDone ⟨h, ht⟩, exec_hbmRetrainFail_idle fun ha => absurd ha.2 (Nat.not_le.2 ht)⟩,
      fun h ht => ⟨exec_hbmRetrainFail ⟨h, ht⟩, exec_hbmRetrainDone_idle fun ha => absurd ha.2 (Nat.not_lt.2 ht)⟩,
      fun h => ⟨exec_hbmRetrainDone_idle fun ha => h ha.1, exec_hbmRetrainFail_idle fun ha => h ha.1⟩,
      fun h => exec_pcRetire.trans (next (if_pos h)), fun h => exec_pcRetire.trans (next (if_neg h)),
      fun h => exec_pcMigrationDone.trans (next (if_pos h)), fun h => exec_pcMigrationDone.trans (next (if_neg h)),
      exec_pcReinstate_begins, exec_pcReinstate_again, exec_pcReinstate_refused,
      fun h => ⟨exec_pcTestDone_passed h, exec_pcTestDone_failed h⟩, fun h pass => exec_pcTestDone_idle h⟩
    intro g mine u v
    refine ⟨fun hg hm hs => ?_, fun h good => exec_hbmUeReread_idle fun ok => ?_⟩
    · have ok := rereadOk_iff.2 ⟨hg, hm, hs⟩
      exact ⟨exec_hbmUeReread_good ok, exec_hbmUeReread_bad ok⟩
    · obtain ⟨hg, hm, hs⟩ := rereadOk_iff.1 ok
      rcases h with h | h | h
      · exact absurd hg (Nat.not_lt.2 h)
      · exact h hm
      · exact hs h

end Sys2Proof.Machine
end

section
/-!
PROOFS. Milys words that the manual spells out (R143, R157 to R159): O9.
-/
namespace Sys2Proof.Machine
open Sys2Proof

/-- Settles O9: the decoder reads each word's opcode, its operand fields and, for LOOP, the word that follows. -/
theorem milysWords : Obligations.MilysWords := by
  refine ⟨?_, rfl, rfl⟩
  simp only [List.forall_mem_cons]
  exact ⟨rfl, rfl, rfl, rfl, rfl, rfl, rfl, rfl, rfl, List.forall_mem_nil _⟩

end Sys2Proof.Machine
end

section
/-!
PROOFS. The end of a handler and the finishes (R145, R146, R165, R167, R176): O16.
-/
namespace Sys2Proof.Machine
open Sys2Proof

section
variable {s : State} {l : Nat} {r : CellRun}

theorem stockOnly_tenant {m : String} {t : State} (h : cellRun s l = some r) (k : tenantRun r = true) : stockOnly m s l t = noLoad m := by
  unfold stockOnly
  rw [h]
  simp [k, noLoad]

theorem atIns_no_regs {cost : Nat} : atIns s l cost [] r = ({ r with pc := r.pc + 1, cycles := r.cycles + cost }, s) := by
  rw [atIns, settle_no_regs]

/-! The completion of accesses leaves the handles and the formats. -/

section
variable {f : Access → Bool}

@[simp] theorem gT_settle {h : Nat} : gT (settle l f r s).1 h = gT r h := by
  obtain ⟨_, _, _, _, _, _, _, _, _, ht, _⟩ := settle_flow l f r s
  rw [gT, ht, gT]

@[simp] theorem settle_fmt : (settle l f r s).1.r.fmt = r.r.fmt := by
  obtain ⟨_, _, _, _, _, hfmt, _⟩ := settle_flow l f r s
  exact hfmt

@[simp] theorem settle_rnd : (settle l f r s).1.r.rnd = r.r.rnd := by
  obtain ⟨_, _, _, _, _, _, hrnd, _⟩ := settle_flow l f r s
  exact hrnd

end

variable {cost : Nat} {regs : List Nat}

@[simp] theorem gT_atIns {h : Nat} : gT (atIns s l cost regs r).1 h = gT r h := gT_settle

@[simp] theorem atIns_fmt : (atIns s l cost regs r).1.r.fmt = r.r.fmt := settle_fmt

@[simp] theorem atIns_rnd : (atIns s l cost regs r).1.r.rnd = r.r.rnd := settle_rnd

end

section
variable {s : State} {l : Fin 6144} {r : CellRun} (h : cellRun s l = some r)
include h

/-! ## END (R165) -/

section
variable {e : CellRun × State} (he : settle l (fun _ => true) { r with pc := r.pc + 1, cycles := r.cycles + 2 } s = e)
include he

theorem exec_endR_handler (hf : r.fin = none) : exec (.endR l) s = .next (handlerEnd e.2 l e.1) := by
  have fin : e.1.fin = none := by rw [← he, settle_fin, hf]
  refine congrArg Host.Outcome.next (ins_of_done h ?_)
  rw [atIns_no_regs]
  simp only [he, fin]

theorem exec_endR_finish {f : FinFrame} (hf : r.fin = some f) :
    exec (.endR l) s = .next (finishEnd e.2 l e.1 f (if e.1.r.poisoned then 0xFE else (gS e.1 1).toNat)) := by
  have fin : e.1.fin = some f := by rw [← he, settle_fin, hf]
  refine congrArg Host.Outcome.next (ins_of_done h ?_)
  rw [atIns_no_regs]
  simp only [he, fin]

end

/-! ## FIN (R167) -/

variable {ra : Fin 32} {th : Fin 4}

theorem exec_fin_tenant (ht : tenantRun r = true) : exec (.fin l ra th) s = noLoad "FIN" := stockOnly_tenant h ht

section
variable (ht : tenantRun r = false)
include ht

theorem exec_fin_unbound (hb : gT r th = none) : exec (.fin l ra th) s = faults s l 1536 (List.range 33) r 5 0 := by
  refine (stockOnly_stock h ht).trans (ins_of_fault h ?_)
  simp only [gT_settle, gT_atIns, hb]

variable {slot : Nat} (hb : gT r th = some slot) {q : CellRun × State}
  (hq : settle l (fun _ => true) (atIns s l 1536 (List.range 33) r).1 (atIns s l 1536 (List.range 33) r).2 = q)

omit h ht in
include hb hq in
theorem gT_at_fin : gT q.1 th = some slot := by rw [← hq, gT_settle, gT_atIns, hb]

variable {k : Nat} (hk : (gS q.1 ra).toNat % 256 = k)
include hb hq hk

theorem exec_fin_none (hs : rd q.2 (Reg.SWARM.SWARM_DEF.FINISH_KIND k) ≠ 1)
    (hm : rd q.2 (Reg.SWARM.SWARM_DEF.FINISH_KIND k) ≠ 2 ∨ imgEntry ((findKey q.2.cells.finishes k).getD {}) 9 = none) :
    exec (.fin l ra th) s = .next (setRun q.2 l (pS q.1 1 0)) := by
  refine (stockOnly_stock h ht).trans (congrArg Host.Outcome.next (ins_of_ok h ?_))
  simp only [hq, gT_at_fin hb hq, hk, if_neg hs]
  rcases hm with hm | hm
  · simp only [if_neg hm]
  · simp only [hm, ite_self]

theorem exec_fin_stock (hs : rd q.2 (Reg.SWARM.SWARM_DEF.FINISH_KIND k) = 1) :
    let x := stockFinish q.2 l k ((gS q.1 3).toNat % 2 ^ 32) r.r.fmt r.r.rnd (gS q.1 5).toNat (slotTile q.2 l slot)
    exec (.fin l ra th) s =
      .next (setRun (setSlotTile x.2.2 l slot ((slotTile q.2 l slot).take 64 ++ x.2.1)) l (pS q.1 1 (BitVec.ofNat 64 x.1))) := by
  have hfmt : q.1.r.fmt = r.r.fmt := by rw [← hq, settle_fmt, atIns_fmt]
  have hrnd : q.1.r.rnd = r.r.rnd := by rw [← hq, settle_rnd, atIns_rnd]
  refine (stockOnly_stock h ht).trans (congrArg Host.Outcome.next (ins_of_ok h ?_))
  simp only [hq, gT_at_fin hb hq, hk, if_pos hs, hfmt, hrnd]

theorem exec_fin_module {e : Nat × Nat × Nat} (hs : rd q.2 (Reg.SWARM.SWARM_DEF.FINISH_KIND k) = 2)
    (hm : imgEntry ((findKey q.2.cells.finishes k).getD {}) 9 = some e) :
    let i := (findKey q.2.cells.finishes k).getD {}
    let frame : FinFrame := { saved := q.1.r, pc := q.1.pc, swarm := k, tenant := i.tenant, reduce := none, cycles := q.1.cycles }
    exec (.fin l ra th) s = .next (setRun (if i.tenant then localWr q.2 l 0x1C000 (List.replicate 16384 0) else q.2) l
      { q.1 with r := finishRegs q.1.r (some slot), pc := e.1, fin := some frame }) := by
  have other : ¬ rd q.2 (Reg.SWARM.SWARM_DEF.FINISH_KIND k) = 1 := by omega
  refine (stockOnly_stock h ht).trans (congrArg Host.Outcome.next (ins_of_ok h ?_))
  simp only [hq, gT_at_fin hb hq, hk, if_neg other, if_pos hs, hm]

end
end

/-- Settles O16: the frame of a finish decides what END does; the profile, the handle and the kind of the swarm's finish decide what FIN does. -/
theorem endAndFinish : Obligations.EndAndFinish := by
  intro s l r ra th h e w q k kind
  exact ⟨exec_endR_handler h rfl, fun f => exec_endR_finish h rfl, exec_fin_tenant h, exec_fin_unbound h,
    fun slot ht hb => ⟨exec_fin_none h ht hb rfl rfl, exec_fin_stock h ht hb rfl rfl, fun e => exec_fin_module h ht hb rfl rfl⟩⟩

end Sys2Proof.Machine
end

section
/-!
PROOFS. EMIT, EMITT and the system instructions (R135, R175, R176): O26.
-/
namespace Sys2Proof.Machine
open Sys2Proof

/-! ## What the completion of accesses leaves -/

section
variable {s : State} {l : Nat} {r : CellRun} {f : Access → Bool} {cost : Nat} {regs : List Nat}

/-- The completion of accesses writes nothing but local data and tiles. -/
theorem settle_keeps {β : Type} {g : State → β} (hg : ∀ t sp off b, g (spaceWr t l sp off b) = g t) : g (settle l f r s).2 = g s := by
  have landed (t : State) (a : Access) : g (land t l a) = g t := by
    unfold land
    split
    · rfl
    · exact hg ..
  exact List.foldlRecOn (motive := fun p : CellRun × State => g p.2 = g s) _ _ rfl fun p hp a _ => (landed p.2 a).trans hp

theorem atIns_regs : (atIns s l cost regs r).2.regs = s.regs := settle_keeps fun _ _ _ _ => spaceWr_regs

theorem atIns_imageOf {n : Nat} : imageOf (atIns s l cost regs r).2 n = imageOf s n :=
  settle_keeps (g := fun t => imageOf t n) fun t sp off b => by
    unfold spaceWr
    split
    · rfl
    · rfl

@[simp] theorem settle_emits : (settle l f r s).1.emits = r.emits := by
  obtain ⟨_, _, _, _, _, _, _, _, _, _, _, he, _⟩ := settle_flow l f r s
  exact he

@[simp] theorem settle_maxEmits : (settle l f r s).1.maxEmits = r.maxEmits := by
  obtain ⟨_, _, _, _, _, _, _, _, _, _, _, _, hm⟩ := settle_flow l f r s
  exact hm

@[simp] theorem atIns_emits : (atIns s l cost regs r).1.emits = r.emits := settle_emits

@[simp] theorem atIns_maxEmits : (atIns s l cost regs r).1.maxEmits = r.maxEmits := settle_maxEmits

/-! An instruction reads its scalar registers after every access that has still to write them (R169): no later completion changes them. -/

theorem complete_acc {p : CellRun × State} {a : Access} : (complete l p a).1.acc = p.1.acc.erase a := by
  unfold complete pS
  dsimp only
  split
  · rfl
  · rfl

theorem settle_acc : (settle l f r s).1.acc = r.acc.diff (r.acc.filter f) := by
  have erased (as : List Access) (p : CellRun × State) : (as.foldl (complete l) p).1.acc = p.1.acc.diff as := by
    induction as generalizing p with
    | nil => rfl
    | cons a as ih => rw [List.foldl_cons, ih, complete_acc, List.diff_cons]
  exact erased _ (r, s)

/-- What still is outstanding was not selected. -/
theorem not_selected_of_mem_settle {a : Access} (h : a ∈ (settle l f r s).1.acc) : f a = false := by
  rw [settle_acc, ← List.count_pos_iff, List.count_diff] at h
  by_contra hf
  rw [List.count_filter (by simpa using hf), Nat.sub_self] at h
  exact Nat.lt_irrefl 0 h

theorem gS_complete {p : CellRun × State} {a : Access} {i : Nat} (h : a.reg ≠ i) : gS (complete l p a).1 i = gS p.1 i :=
  gS_pS_ne { p.1 with acc := p.1.acc.erase a } _ h

theorem gS_settle {i : Nat} (h : ∀ a ∈ r.acc, a.reg ≠ i) : gS (settle l f r s).1 i = gS r i :=
  List.foldlRecOn (motive := fun p : CellRun × State => gS p.1 i = gS r i) _ _ rfl fun _ hp a ha =>
    (gS_complete (h a (List.mem_of_mem_filter ha))).trans hp

theorem gS_settle_atIns {i : Nat} (h : i ∈ regs) :
    gS (settle l f (atIns s l cost regs r).1 (atIns s l cost regs r).2).1 i = gS (atIns s l cost regs r).1 i := by
  refine gS_settle fun a ha hi => ?_
  have other : regs.contains a.reg = false := not_selected_of_mem_settle ha
  rw [hi, List.contains_eq_mem, decide_eq_false_iff_not] at other
  exact other h

end

/-! ## The common part of EMIT and EMITT (R175) -/

section
variable {s : State} {l : Nat} {r : CellRun} {rh : Nat} {tile : Bool} {payload : Hdr → CellRun → State → Option (List Byte × CellRun × State)}

theorem emit_header_outside (h : 0x20000 < (gS r rh).toNat + 64) : emit s l r rh tile payload = .fault 1 0 := if_pos h

section
variable (hin : ¬ 0x20000 < (gS r rh).toNat + 64) {p : CellRun × State} (hp : settle l (touches 0 (gS r rh).toNat 64) r s = p)
  (hr : gS p.1 rh = gS r rh) {h : Hdr} (hh : hdrOfBits (ofLeBytes (localRd p.2 l (gS p.1 rh).toNat 64)) = h)
include hin hp hr hh

theorem emit_payload_outside (hb : payload h p.1 p.2 = none) : emit s l r rh tile payload = .fault 1 0 := by
  rw [hr] at hh
  simp only [emit, if_neg hin, hp, hh, hb]

variable {b : List Byte} {q : CellRun × State} (hb : payload h p.1 p.2 = some (b, q.1, q.2))
include hb

theorem emit_bad (hd : emitBad { h := h, payload := b } tile = true) : emit s l r rh tile payload = .fault 7 0 := by
  rw [hr] at hh
  simp only [emit, if_neg hin, hp, hh, hb, if_pos hd]

section
variable (hd : emitBad { h := h, payload := b } tile = false)
include hd

theorem emit_limit (hl : q.1.maxEmits ≤ q.1.emits) : emit s l r rh tile payload = .fault 6 0 := by
  rw [hr] at hh
  simp only [emit, if_neg hin, hp, hh, hb, hd, Bool.false_eq_true, if_false, if_pos hl]

theorem emit_sends (hl : q.1.emits < q.1.maxEmits) : emit s l r rh tile payload =
    .ok { q.1 with emits := q.1.emits + 1 } (offer q.2 (512 + l) (mkPacket q.2 (emitHdr q.2 l h) b)) := by
  rw [hr] at hh
  simp only [emit, if_neg hin, hp, hh, hb, hd, Bool.false_eq_true, if_false, if_neg (Nat.not_le.2 hl)]

end
end
end

/-! ## EMIT -/

section
variable {s : State} {l : Nat} {r : CellRun} {rp : Fin 32}

/-- The payload bytes that EMIT takes for header `h`: LEN, where the kind carries a payload that is no tile. -/
def emitLen (h : Hdr) : Nat := if expectedFlits h = 1 ∨ expectedFlits h = 34 then 0 else h.len.toNat

/-- The handler and the state once the reads that land in `n` payload bytes at register `rp` have completed. -/
def payloadAt (l : Nat) (rp : Fin 32) (n : Nat) (p : CellRun × State) : CellRun × State :=
  if n = 0 then p else settle l (touches 0 (gS p.1 rp).toNat n) p.1 p.2

/-- The payload that EMIT takes: `n` bytes at register `rp`. -/
def emitPayload (l : Nat) (rp : Fin 32) (n : Nat) (r : CellRun) (s : State) : Option (List Byte × CellRun × State) :=
  let a := (gS r rp).toNat
  if n = 0 then some ([], r, s)
  else if 0x20000 < a + n then none
  else let p := settle l (touches 0 a n) r s; some (padFlits (localRd p.2 l a n), p.1, p.2)

variable {n : Nat} {p : CellRun × State}

theorem emitPayload_outside (hn : n ≠ 0) (h : 0x20000 < (gS p.1 rp).toNat + n) : emitPayload l rp n p.1 p.2 = none := by
  rw [emitPayload, if_neg hn, if_pos h]

theorem emitPayload_inside (h : ¬ (n ≠ 0 ∧ 0x20000 < (gS p.1 rp).toNat + n)) : emitPayload l rp n p.1 p.2 =
    some (if n = 0 then [] else padFlits (localRd (payloadAt l rp n p).2 l (gS p.1 rp).toNat n), (payloadAt l rp n p).1, (payloadAt l rp n p).2) := by
  by_cases hn : n = 0
  · simp only [emitPayload, payloadAt, if_pos hn]
  · have inside : ¬ 0x20000 < (gS p.1 rp).toNat + n := fun hout => h ⟨hn, hout⟩
    simp only [emitPayload, payloadAt, if_neg hn, if_neg inside]

@[simp] theorem payloadAt_emits : (payloadAt l rp n p).1.emits = p.1.emits := by
  unfold payloadAt
  split
  · rfl
  · exact settle_emits

@[simp] theorem payloadAt_maxEmits : (payloadAt l rp n p).1.maxEmits = p.1.maxEmits := by
  unfold payloadAt
  split
  · rfl
  · exact settle_maxEmits

end

section
variable {s : State} {l : Fin 6144} {r : CellRun} {ra rb : Fin 32} (h : cellRun s l = some r) (ht : tenantRun r = false)
include h ht

theorem exec_emit_of_ok {r' : CellRun} {s' : State} (hf : emit (atIns s l 8 [ra, rb] r).2 l (atIns s l 8 [ra, rb] r).1 ra false
    (fun hd => emitPayload l rb (emitLen hd)) = .ok r' s') : exec (.emit l ra rb) s = .next (setRun s' l r') :=
  (stockOnly_stock h ht).trans (congrArg Host.Outcome.next (ins_of_ok h hf))

theorem exec_emit_of_fault {code imm : Nat} (hf : emit (atIns s l 8 [ra, rb] r).2 l (atIns s l 8 [ra, rb] r).1 ra false
    (fun hd => emitPayload l rb (emitLen hd)) = .fault code imm) : exec (.emit l ra rb) s = faults s l 8 [ra, rb] r code imm :=
  (stockOnly_stock h ht).trans (ins_of_fault h hf)

variable {th : Fin 4}

theorem exec_emitt_unbound (hb : gT r th = none) : exec (.emitt l ra th) s = faults s l 8 [ra] r 5 0 := by
  refine (stockOnly_stock h ht).trans (ins_of_fault h ?_)
  simp only [gT_atIns, hb]

/-- The tile that EMITT sends from the bytes of a slot: GEN zero, and its CRC. -/
def sentTile (t : List Byte) : List Byte := putBytes (putBytes t 0 (leBytes 8 0)) 0 (leBytes 4 (tileCrc (putBytes t 0 (leBytes 8 0))))

/-- The payload that EMITT takes: the tile in slot `k`. -/
def tilePayload (l k : Nat) (r : CellRun) (s : State) : Option (List Byte × CellRun × State) :=
  let p := settle l (touches (1 + k) 0 tileLen) r s
  some (sentTile (slotTile p.2 l k), p.1, p.2)

section
variable {k : Nat} (hb : gT r th = some k)
include hb

theorem exec_emitt_of_ok {r' : CellRun} {s' : State} (hf : emit (atIns s l 8 [ra] r).2 l (atIns s l 8 [ra] r).1 ra true
    (fun _ => tilePayload l k) = .ok r' s') : exec (.emitt l ra th) s = .next (setRun s' l r') := by
  refine (stockOnly_stock h ht).trans (congrArg Host.Outcome.next (ins_of_ok h ?_))
  simp only [gT_atIns, hb]
  exact hf

theorem exec_emitt_of_fault {code imm : Nat} (hf : emit (atIns s l 8 [ra] r).2 l (atIns s l 8 [ra] r).1 ra true
    (fun _ => tilePayload l k) = .fault code imm) : exec (.emitt l ra th) s = faults s l 8 [ra] r code imm := by
  refine (stockOnly_stock h ht).trans (ins_of_fault h ?_)
  simp only [gT_atIns, hb]
  exact hf

end

/-! ## The system instructions (R175) -/

variable {rd : Fin 32}

theorem exec_rdsys {aux : BitVec 5} (ha : aux.toNat < 11) : exec (.rdsys l rd aux) s = .next (setRun (atIns s l 16 [rd] r).2 l
    (pS (atIns s l 16 [rd] r).1 rd (BitVec.ofNat 64 (sysValue (atIns s l 16 [rd] r).2 l (atIns s l 16 [rd] r).1 aux.toNat)))) := by
  change execRdsys l rd aux s = _
  rw [execRdsys, decide_eq_true ha, loaded_true, stockOnly_stock h ht]
  exact congrArg Host.Outcome.next (ins_of_ok h rfl)

theorem exec_cntrd : exec (.cntrd l rd ra) s = .next (setRun (atIns s l 16 [rd, ra] r).2 l
    (pS (atIns s l 16 [rd, ra] r).1 rd (BitVec.ofNat 64 (counterValue (atIns s l 16 [rd, ra] r).2 (gS (atIns s l 16 [rd, ra] r).1 ra).toNat)))) :=
  (stockOnly_stock h ht).trans (congrArg Host.Outcome.next (ins_of_ok h rfl))

section
variable {m : String} {regs : List Nat} {f : CellRun → State → Nat → Res} {i : Nat} (hi : (gS (atIns s l 16 regs r).1 ra).toNat % 16 = i)
include hi

theorem gpioIns_unclaimed (hg : bitAt (imageOf s (l / 128)).gpio i = false) : gpioIns m s l regs ra f = faults s l 16 regs r 9 0 := by
  refine (stockOnly_stock h ht).trans (ins_of_fault h ?_)
  simp only [hi, atIns_imageOf, hg, Bool.false_eq_true, if_false]

theorem gpioIns_claimed (hg : bitAt (imageOf s (l / 128)).gpio i = true) {r' : CellRun} {s' : State}
    (hf : f (atIns s l 16 regs r).1 (atIns s l 16 regs r).2 i = .ok r' s') : gpioIns m s l regs ra f = .next (setRun s' l r') := by
  refine (stockOnly_stock h ht).trans (congrArg Host.Outcome.next (ins_of_ok h ?_))
  simp only [hi, atIns_imageOf, hg, if_true, hf]

end

section
variable {i : Nat} (hi : (gS (atIns s l 16 [rd, ra] r).1 ra).toNat % 16 = i)
include hi

theorem exec_gpior_claimed (hg : bitAt (imageOf s (l / 128)).gpio i = true) : exec (.gpior l rd ra) s = .next (setRun (atIns s l 16 [rd, ra] r).2 l
    (pS (atIns s l 16 [rd, ra] r).1 rd (BitVec.ofNat 64 (b2n (gpioLevel (atIns s l 16 [rd, ra] r).2 i))))) := by
  change execGpior l rd ra s = _
  exact gpioIns_claimed h ht hi hg rfl

theorem exec_gpior_unclaimed (hg : bitAt (imageOf s (l / 128)).gpio i = false) : exec (.gpior l rd ra) s = faults s l 16 [rd, ra] r 9 0 := by
  change execGpior l rd ra s = _
  exact gpioIns_unclaimed h ht hi hg

end

section
variable {i : Nat} (hi : (gS (atIns s l 16 [ra, rb] r).1 ra).toNat % 16 = i)
include hi

theorem exec_gpiow_claimed (hg : bitAt (imageOf s (l / 128)).gpio i = true) : exec (.gpiow l ra rb) s = .next (setRun
    (if rdb s (Reg.MGMT.GPIO_CTL.DIR i) then
      wr (atIns s l 16 [ra, rb] r).2 (Reg.MGMT.GPIO_CTL.OUT i) ((gS (atIns s l 16 [ra, rb] r).1 rb).toNat % 2)
    else (atIns s l 16 [ra, rb] r).2) l (atIns s l 16 [ra, rb] r).1) := by
  change execGpiow l ra rb s = _
  rw [rdb, ← rd_congr (atIns_regs (s := s) (l := l) (cost := 16) (regs := [ra.val, rb.val]) (r := r))]
  exact gpioIns_claimed h ht hi hg rfl

theorem exec_gpiow_unclaimed (hg : bitAt (imageOf s (l / 128)).gpio i = false) : exec (.gpiow l ra rb) s = faults s l 16 [ra, rb] r 9 0 := by
  change execGpiow l ra rb s = _
  exact gpioIns_unclaimed h ht hi hg

end
end

theorem exec_rdsys_reserved {s : State} {l : Fin 6144} {rd : Fin 32} {aux : BitVec 5} (ha : 11 ≤ aux.toNat) :
    exec (.rdsys l rd aux) s = noLoad "RDSYS" := by
  change execRdsys l rd aux s = _
  rw [execRdsys, decide_eq_false (Nat.not_lt.2 ha)]
  rfl

theorem exec_rdsys_tenant {s : State} {l : Fin 6144} {r : CellRun} {rd : Fin 32} {aux : BitVec 5} (h : cellRun s l = some r)
    (ht : tenantRun r = true) : exec (.rdsys l rd aux) s = noLoad "RDSYS" := by
  by_cases ha : aux.toNat < 11
  · change execRdsys l rd aux s = _
    rw [execRdsys, decide_eq_true ha, loaded_true, stockOnly_tenant h ht]
  · exact exec_rdsys_reserved (Nat.not_lt.1 ha)

/-- Settles O26: the profile, the windows of header and payload, the header and the emits left decide what EMIT and EMITT do; the claims of the image
and the operand decide the system instructions. -/
theorem emitAndSystem : Obligations.EmitAndSystem := by
  intro s l r ra rb th aux h head out at2 at2' i i'
  refine ⟨fun ht => ⟨?_, exec_emitt_unbound h ht, fun k hb => ?_, exec_rdsys h ht, exec_gpior_claimed h ht rfl,
    exec_gpior_unclaimed h ht rfl, exec_gpiow_claimed h ht rfl, exec_gpiow_unclaimed h ht rfl, exec_cntrd h ht⟩,
    exec_rdsys_reserved, fun ht => ?_⟩
  · intro w p hd len b q body outside
    have same : gS p.1 ra = gS w.1 ra := gS_settle_atIns (by simp)
    have inside (hin : ¬ outside) : ¬ 0x20000 < (gS w.1 ra).toNat + 64 := fun ho => hin (.inl ho)
    have taken (hin : ¬ outside) : emitPayload l rb (emitLen hd) p.1 p.2 = some (body, q.1, q.2) := emitPayload_inside fun ho => hin (.inr ho)
    have emits : q.1.emits = r.emits := payloadAt_emits.trans (settle_emits.trans atIns_emits)
    have maxEmits : q.1.maxEmits = r.maxEmits := payloadAt_maxEmits.trans (settle_maxEmits.trans atIns_maxEmits)
    refine ⟨fun hin hg hl => exec_emit_of_ok h ht (emit_sends (inside hin) rfl same rfl (taken hin) hg (by rw [emits, maxEmits]; exact hl)),
      fun hout => exec_emit_of_fault h ht ?_, fun hin hg => exec_emit_of_fault h ht (emit_bad (inside hin) rfl same rfl (taken hin) hg),
      fun hin hg hl => exec_emit_of_fault h ht (emit_limit (inside hin) rfl same rfl (taken hin) hg (by rw [emits, maxEmits]; exact hl))⟩
    by_cases header : 0x20000 < (gS w.1 ra).toNat + 64
    · exact emit_header_outside header
    · obtain ⟨hn, ho⟩ := hout.resolve_left header
      exact emit_payload_outside header rfl same rfl (emitPayload_outside hn ho)
  · intro w p q zeroed tile bad inside
    have same : gS p.1 ra = gS w.1 ra := gS_settle_atIns (by simp)
    have taken : tilePayload l k p.1 p.2 = some (tile, q.1, q.2) := rfl
    have emits : q.1.emits = r.emits := settle_emits.trans (settle_emits.trans atIns_emits)
    have maxEmits : q.1.maxEmits = r.maxEmits := settle_maxEmits.trans (settle_maxEmits.trans atIns_maxEmits)
    exact ⟨fun hin hg hl => exec_emitt_of_ok h ht hb (emit_sends (Nat.not_lt.2 hin) rfl same rfl taken hg (by rw [emits, maxEmits]; exact hl)),
      fun hout => exec_emitt_of_fault h ht hb (emit_header_outside (Nat.not_le.1 hout)),
      fun hin hg => exec_emitt_of_fault h ht hb (emit_bad (Nat.not_lt.2 hin) rfl same rfl taken hg),
      fun hin hg hl => exec_emitt_of_fault h ht hb (emit_limit (Nat.not_lt.2 hin) rfl same rfl taken hg (by rw [emits, maxEmits]; exact hl))⟩
  · simp only [List.forall_mem_cons]
    exact ⟨stockOnly_tenant h ht, stockOnly_tenant h ht, exec_rdsys_tenant h ht, stockOnly_tenant h ht, stockOnly_tenant h ht,
      stockOnly_tenant h ht, List.forall_mem_nil _⟩

end Sys2Proof.Machine
end

section
/-!
PROOFS. How packets and times reach a cell as events (R98, R133 to R136, R142, R372): O55, its first part.
-/
namespace Sys2Proof.Machine
open Sys2Proof

/-! ## Packets in the arrival queue of a cell (R133 to R136) -/

section
variable {s : State} {l kind : Nat} {p : Packet} {f : State → State}

theorem cellEvent_of_not_queued (h : queued s l p = none) : cellEvent s l kind p f = s := by
  simp only [cellEvent, h]

variable {e : Nat × Packet} (h : queued s l p = some e)
include h

theorem cellEvent_wrong_hcrc (hc : hcrcOf p.h ≠ p.h.hcrc) : cellEvent s l kind p f = takeEntry s l e := by
  simp only [cellEvent, h, if_pos hc]

section
variable (hc : hcrcOf p.h = p.h.hcrc)
include hc

theorem cellEvent_not_serving (hs : clServes s (l / 128) = false) :
    cellEvent s l kind p f = clusterNotRunning (takeEntry s l e) (cellPort l) p.h := by
  simp only [cellEvent, h, if_neg (not_not.2 hc), hs, Bool.not_false, if_true]

variable (hs : clServes s (l / 128) = true)
include hs

theorem cellEvent_waits (hw : queueHead s l ≠ some e ∨ mayStart s l kind = false) : cellEvent s l kind p f = s := by
  have waits : (queueHead s l != some e || !mayStart s l kind) = true := by simpa using hw
  simp only [cellEvent, h, if_neg (not_not.2 hc), hs, Bool.not_true, Bool.false_eq_true, if_false, if_pos waits]

variable (hq : queueHead s l = some e) (hm : mayStart s l kind = true)
include hq hm

theorem cellEvent_stock (hi : (imageOf s (l / 128)).stock = true) :
    cellEvent s l kind p f = stockHandler (takeEntry s l e) l (leBytes 64 (hdrBits p.h)) f := by
  simp only [cellEvent, h, if_neg (not_not.2 hc), hs, hq, hm, hi, bne_self_eq_false, Bool.not_true, Bool.or_self, Bool.false_eq_true,
    if_false, if_true]

section
variable (hi : (imageOf s (l / 128)).stock = false)
include hi

theorem cellEvent_entry {a : Nat × Nat × Nat} (ha : imgEntry (imageOf s (l / 128)) kind = some a) : cellEvent s l kind p f =
    startHandler (takeEntry s l e) l kind p.stamp (leBytes 64 (hdrBits p.h)) (if p.payload.length = tileLen then some p.payload else none) a := by
  simp only [cellEvent, h, if_neg (not_not.2 hc), hs, hq, hm, hi, ha, bne_self_eq_false, Bool.not_true, Bool.or_self, Bool.false_eq_true,
    if_false]

theorem cellEvent_no_entry (ha : imgEntry (imageOf s (l / 128)) kind = none) : cellEvent s l kind p f = noEntry (takeEntry s l e) l p.h := by
  simp only [cellEvent, h, if_neg (not_not.2 hc), hs, hq, hm, hi, ha, bne_self_eq_false, Bool.not_true, Bool.or_self, Bool.false_eq_true,
    if_false]

end
end
end

/-- A command that brings `p` to its cell as an event follows the rule of events. -/
theorem cellRule_of_cellEvent {c : Instr} {s : State} {l kind : Nat} {p : Packet} {f : State → State}
    (hc : exec c s = .next (cellEvent s l kind p f)) : cellRule c s l kind p f := by
  have goes {t : State} (h : cellEvent s l kind p f = t) : exec c s = .next t := hc.trans (congrArg _ h)
  refine ⟨fun h => goes (cellEvent_of_not_queued h), fun e h => ?_⟩
  intro u up
  exact ⟨fun hb => goes (cellEvent_wrong_hcrc h hb), fun hg hs => goes (cellEvent_not_serving h hg hs),
    fun hg hs hw => goes (cellEvent_waits h hg hs hw), fun ⟨hg, hs, hq, hm⟩ hi => goes (cellEvent_stock h hg hs hq hm hi),
    fun a ⟨hg, hs, hq, hm⟩ hi ha => goes (cellEvent_entry h hg hs hq hm hi ha),
    fun ⟨hg, hs, hq, hm⟩ hi ha => goes (cellEvent_no_entry h hg hs hq hm hi ha)⟩

/-! ## The packets that are events (R220, R239, R295) -/

section
variable {s : State} {p : Packet} {ecc : Option (BitVec 23)}

theorem exec_homedReq : exec (.homedReq p ecc) s =
    .next (if (p.h.homed && p.h.k != some .own && !repairWaits s (homeCell p.h.addr.toNat) ecc) = true then
      cellEvent s (homeCell p.h.addr.toNat) 3 p (fun s => homedReq (repaired s (homeCell p.h.addr.toNat) ecc) (homeCell p.h.addr.toNat) p.h)
    else s) := rfl

theorem homedReq_open_iff : (p.h.homed && p.h.k != some .own && !repairWaits s (homeCell p.h.addr.toNat) ecc) = true ↔
    (p.h.homed = true ∧ p.h.k ≠ some .own) ∧ ¬ repairWaits s (homeCell p.h.addr.toNat) ecc = true := by
  simp

theorem exec_gather : exec (.gather p) s = .next (if (p.h.k == some .gather) = true then
    cellEvent s (gatherCell p.h.src.toNat p.h.tag.toNat) 7 p (fun s => gatherReq s (gatherCell p.h.src.toNat p.h.tag.toNat) p) else s) := rfl

/-! ### OWN -/

/-- The ownership commands, with whether the OOP of `p` is theirs. -/
def ownOps (p : Packet) (ecc : Option (BitVec 23)) : List (Instr × Bool) :=
  let op := p.h.x 32 4
  [(.ownQuery p ecc, decide (op = 0 ∨ 3 < op)), (.ownAcquire p ecc, decide (op = 1)), (.ownRelease p ecc, decide (op = 2)),
    (.ownPublish p ecc, decide (op = 3))]

/-- The target at which the packet stands. -/
def ownTarget (s : State) (p : Packet) : Option Nat := [224, 225, 226, 227].find? (fun x => s.inbox.contains (x, p))

/-- An OWN acts: at the target at which it stands, else at its home cell. -/
def ownActs (s : State) (p : Packet) (ecc : Option (BitVec 23)) : State :=
  let l := homeCell p.h.addr.toNat
  match ownTarget s p with
  | some x => targetArrive s x p .own
  | none => if repairWaits s l ecc then s else cellEvent s l 8 p (fun s => ownServe (repaired s l ecc) l p.h)

theorem exec_own {d : Instr × Bool} (hd : d ∈ ownOps p ecc) :
    exec d.1 s = .next (if (p.h.k == some .own && d.2) = true then ownActs s p ecc else s) := by
  have query : decide (p.h.x 32 4 = 0 ∨ 3 < p.h.x 32 4) = (p.h.x 32 4 == 0 || decide (3 < p.h.x 32 4)) := by
    rw [Bool.decide_or]
    rfl
  simp only [ownOps, List.mem_cons, List.not_mem_nil, or_false, query] at hd
  rcases hd with rfl | rfl | rfl | rfl
  all_goals rfl

section
variable {d : Instr × Bool} (hd : d ∈ ownOps p ecc)
include hd

theorem exec_own_of_other (h : ¬ (p.h.k = some .own ∧ d.2 = true)) : exec d.1 s = .next s := by
  rw [exec_own hd, if_neg (by simpa using h)]

section
variable (h : p.h.k = some .own ∧ d.2 = true)
include h

theorem exec_own_at_target {x : Nat} (ht : ownTarget s p = some x) : exec d.1 s = .next (targetArrive s x p .own) := by
  rw [exec_own hd, if_pos (by simpa using h)]
  simp only [ownActs, ht]

section
variable (ht : ownTarget s p = none)
include ht

theorem exec_own_waits (hw : repairWaits s (homeCell p.h.addr.toNat) ecc = true) : exec d.1 s = .next s := by
  rw [exec_own hd, if_pos (by simpa using h)]
  simp only [ownActs, ht, if_pos hw]

theorem exec_own_at_cell (hw : ¬ repairWaits s (homeCell p.h.addr.toNat) ecc = true) : exec d.1 s =
    .next (cellEvent s (homeCell p.h.addr.toNat) 8 p
      (fun s => ownServe (repaired s (homeCell p.h.addr.toNat) ecc) (homeCell p.h.addr.toNat) p.h)) := by
  rw [exec_own hd, if_pos (by simpa using h)]
  simp only [ownActs, ht, if_neg hw]

end
end
end

/-! ### Responses (R135) -/

/-- A packet that may answer an onward attempt: a response, or an UNREACHABLE notice. -/
def answersAttempt (h : Hdr) : Bool := match h.k with | some .notice => h.x 0 8 == 1 | some k => k.isResponse | none => false

/-- The crossbar port that the COOKIE of a response names. -/
def cookiePort (h : Hdr) : Nat := 128 + bits (respCookie h) 24 8

theorem exec_response : exec (.response p) s =
    .next (if (!(answersAttempt p.h && decide (cookiePort p.h < 224))) = true then s
      else if (decide (128 ≤ bits (respCookie p.h) 16 8) || decide (cellPort (cookieCell (respCookie p.h)) ≠ cookiePort p.h)) = true then
        received s (cookiePort p.h) p (fun s => cnt s (Reg.CLUSTER.CL_COUNT_B.MISDELIVERED ((cookiePort p.h - 128) / 2)))
      else cellEvent s (cookieCell (respCookie p.h)) 4 p (fun s => cellResponse s (cookieCell (respCookie p.h)) p)) := rfl

theorem exec_response_of_other (h : ¬ (answersAttempt p.h = true ∧ cookiePort p.h < 224)) : exec (.response p) s = .next s := by
  rw [exec_response, if_pos (by simpa [imp_iff_not_or] using h)]

section
variable (h : answersAttempt p.h = true ∧ cookiePort p.h < 224)
include h

theorem exec_response_direct (hd : bits (respCookie p.h) 16 8 < 128 ∧ cellPort (cookieCell (respCookie p.h)) = cookiePort p.h) :
    exec (.response p) s =
      .next (cellEvent s (cookieCell (respCookie p.h)) 4 p (fun s => cellResponse s (cookieCell (respCookie p.h)) p)) := by
  rw [exec_response, if_neg (by simp [h]), if_neg (by simp [hd])]

theorem exec_response_misdelivered (hd : ¬ (bits (respCookie p.h) 16 8 < 128 ∧ cellPort (cookieCell (respCookie p.h)) = cookiePort p.h)) :
    exec (.response p) s =
      .next (received s (cookiePort p.h) p (fun s => cnt s (Reg.CLUSTER.CL_COUNT_B.MISDELIVERED ((cookiePort p.h - 128) / 2)))) := by
  rw [exec_response, if_neg (by simp [h]), if_pos]
  simpa [imp_iff_not_or] using hd

end
end

/-! ## INIT, TICK and TIMER (R98, R134, R142) -/

section
variable {s : State} {l : Fin 6144}

/-- Device cell `l` has its random state and the start of its ticks (R98, R185). -/
def initBegun (s : State) (l : Nat) : State :=
  taskBegin (seedRand { s with cells := { s.cells with initDue := s.cells.initDue.filter (fun x => x != l) } } l) (tickTask l) 4096

theorem exec_cellInit_idle (h : ¬ (l.val ∈ s.cells.initDue ∧ cellRun s l = none ∧ emitRoom s l 0 = true)) :
    exec (.cellInit l) s = .next s := by
  refine congrArg Host.Outcome.next (if_pos ?_)
  simpa [imp_iff_not_or, Option.isSome_iff_ne_none, or_assoc] using h

section
variable (h : l.val ∈ s.cells.initDue ∧ cellRun s l = none ∧ emitRoom s l 0 = true)
include h

theorem cellInit_due : (!s.cells.initDue.contains l.val || (cellRun s l).isSome || !emitRoom s l 0) = false := by
  obtain ⟨hd, hr, he⟩ := h
  simp [hd, hr, he]

theorem exec_cellInit_stock (hi : (imageOf s (l / 128)).stock = true) :
    exec (.cellInit l) s = .next (stockHandler (initBegun s l) l [] (fun s => s)) := by
  change execCellInit l s = _
  simp only [execCellInit, cellInit_due h, hi, Bool.false_eq_true, if_false, if_true]
  rfl

section
variable (hi : (imageOf s (l / 128)).stock = false)
include hi

theorem exec_cellInit_entry {e : Nat × Nat × Nat} (he : imgEntry (imageOf s (l / 128)) 0 = some e) :
    exec (.cellInit l) s = .next (startHandler (initBegun s l) l 0 (initBegun s l).time.toNat [] none e) := by
  change execCellInit l s = _
  simp only [execCellInit, cellInit_due h, hi, he, Bool.false_eq_true, if_false]
  rfl

theorem exec_cellInit_no_entry (he : imgEntry (imageOf s (l / 128)) 0 = none) : exec (.cellInit l) s = .next (initBegun s l) := by
  change execCellInit l s = _
  simp only [execCellInit, cellInit_due h, hi, he, Bool.false_eq_true, if_false]
  rfl

end
end

/-! ### TICK -/

theorem exec_cellTick_idle (h : ¬ (clServes s (l / 128) = true ∧ tickWaits s l = true ∧ mayStart s l 1 = true)) :
    exec (.cellTick l) s = .next s := by
  refine congrArg Host.Outcome.next (if_pos ?_)
  simpa [imp_iff_not_or, or_assoc] using h

/-- The event area of the tick event that device cell `l` takes next: its nominal start and the watermark (R142, R210). -/
def tickArea (s : State) (l : Nat) : List Byte :=
  leBytes 8 (taskNominal s (tickTask l)) ++ leBytes 8 (watermark s (taskNominal s (tickTask l)))

section
variable (h : clServes s (l / 128) = true ∧ tickWaits s l = true ∧ mayStart s l 1 = true)
include h

theorem exec_cellTick_stock (hi : (imageOf s (l / 128)).stock = true) : exec (.cellTick l) s =
    .next (stockHandler (taskRun s (tickTask l) 4096) l (tickArea s l) (fun t => stockTick t l (taskNominal s (tickTask l) / 4096))) := by
  change execCellTick l s = _
  simp only [execCellTick, h, hi, Bool.not_true, Bool.or_self, Bool.false_eq_true, if_false, if_true]
  rfl

theorem exec_cellTick_entry (hi : (imageOf s (l / 128)).stock = false) {e : Nat × Nat × Nat} (he : imgEntry (imageOf s (l / 128)) 1 = some e) :
    exec (.cellTick l) s = .next (startHandler (taskRun s (tickTask l) 4096) l 1 (taskNominal s (tickTask l)) (tickArea s l) none e) := by
  change execCellTick l s = _
  simp only [execCellTick, h, hi, he, Bool.not_true, Bool.or_self, Bool.false_eq_true, if_false]
  rfl

end

/-! ### TIMER -/

variable {k : Fin 32}

theorem exec_cellTimer_idle (h : timerNext s l k = none ∨ clServes s (l / 128) = false) : exec (.cellTimer l k) s = .next s := by
  change execCellTimer l k s = _
  rcases h with h | h
  · simp only [execCellTimer, h]
  · cases ht : timerNext s l k with
    | none => simp only [execCellTimer, ht]
    | some t => simp only [execCellTimer, ht, h, Bool.not_false, if_true]

section
variable {t : Nat × Nat} (h : timerNext s l k = some t) (hs : clServes s (l / 128) = true)
include h hs

theorem exec_cellTimer_lost (hi : (imageOf s (l / 128)).stock = true ∨ imgEntry (imageOf s (l / 128)) 2 = none) :
    exec (.cellTimer l k) s = .next (takeTimer s l k) := by
  have entry : (if (imageOf s (l / 128)).stock = true then none else imgEntry (imageOf s (l / 128)) 2) = none := by
    rcases hi with hi | hi
    · rw [if_pos hi]
    · rw [hi, ite_self]
  change execCellTimer l k s = _
  simp only [execCellTimer, h, hs, entry, Bool.not_true, Bool.false_eq_true, if_false]

section
variable (hi : (imageOf s (l / 128)).stock = false) {e : Nat × Nat × Nat} (he : imgEntry (imageOf s (l / 128)) 2 = some e)
include hi he

theorem exec_cellTimer_waits (hm : mayStart s l 2 = false) : exec (.cellTimer l k) s = .next s := by
  change execCellTimer l k s = _
  simp only [execCellTimer, h, hs, hi, he, hm, Bool.not_true, Bool.not_false, Bool.false_eq_true, if_false, if_true]

theorem exec_cellTimer_starts (hm : mayStart s l 2 = true) : exec (.cellTimer l k) s =
    .next (startHandler (taskRunAt (takeTimer s l k) (8192 + 32 * l + k) (timerPeriod s k) t.1) l 2 t.2 [] none e) := by
  change execCellTimer l k s = _
  simp only [execCellTimer, h, hs, hi, he, hm, Bool.not_true, Bool.false_eq_true, if_false]

end
end
end

/-! ## Header copies (R133, R134, R372) -/

section
variable {s : State} {n : Nat} {c : HdrCopy}

/-- Copy number `n` heads the arrival queue of its cell, and the cell may start its handler (R134). -/
def copyFirst (s : State) (n : Nat) (c : HdrCopy) : Bool :=
  c.behind == some 0 && (s.tel.copies.take n).all (fun x => !(x.cell == c.cell && x.behind.isSome)) && mayStart s c.cell 10

theorem copyFirst_iff : copyFirst s n c = true ↔
    c.behind = some 0 ∧ (∀ x ∈ s.tel.copies.take n, x.cell = c.cell → x.behind = none) ∧ mayStart s c.cell 10 = true := by
  simp [copyFirst, and_assoc, imp_iff_not_or]

theorem exec_headerCopy_none (h : s.tel.copies[n]? = none) : exec (.headerCopy n) s = .next s := by
  change execHeaderCopy n s = _
  simp only [execHeaderCopy, h]

section
variable (h : s.tel.copies[n]? = some c)
include h

section
variable (hb : c.behind.isSome = true)
include hb

theorem exec_headerCopy_queued_lost (hs : clServes s (c.cell / 128) = false) :
    exec (.headerCopy n) s = .next (cnt (dropCopy s n) Reg.TELEMETRY.FF_COUNT.VERDICT_LOST) := by
  change execHeaderCopy n s = _
  simp only [execHeaderCopy, h, if_pos hb, hs, Bool.false_eq_true, if_false]

theorem exec_headerCopy_queued (hs : clServes s (c.cell / 128) = true) :
    exec (.headerCopy n) s = .next (if copyFirst s n c = true then copyEvent (dropCopy s n) c else s) := by
  change execHeaderCopy n s = _
  simp only [execHeaderCopy, h, if_pos hb, hs, if_true]
  rfl

end

section
variable (hb : c.behind = none)
include hb

theorem exec_headerCopy_lost (hr : running s (fCluster (c.cell / 128)) = false) :
    exec (.headerCopy n) s = .next (cnt (dropCopy s n) Reg.TELEMETRY.FF_COUNT.VERDICT_LOST) := by
  change execHeaderCopy n s = _
  simp only [execHeaderCopy, h, hb, hr, Option.isSome_none, Bool.false_eq_true, if_false, Bool.not_false, if_true]

variable (hr : running s (fCluster (c.cell / 128)) = true)
include hr

theorem exec_headerCopy_waits (hw : readySmall s c.cell = false) : exec (.headerCopy n) s = .next s := by
  change execHeaderCopy n s = _
  simp only [execHeaderCopy, h, hb, hr, hw, Option.isSome_none, Bool.false_eq_true, if_false, Bool.not_false, Bool.not_true, if_true]

theorem exec_headerCopy_delivered (hw : readySmall s c.cell = true) : exec (.headerCopy n) s =
    .next (startCopy (deliverCopy s n c) ((deliverCopy s n c).tel.copies.length - 1) { c with behind := some (cellQueue s c.cell).length }) := by
  change execHeaderCopy n s = _
  simp only [execHeaderCopy, h, hb, hr, hw, Option.isSome_none, Bool.false_eq_true, if_false, Bool.not_true]

end
end
end

end Sys2Proof.Machine
end

section
/-!
PROOFS. What a cell makes of homed and ownership requests (R220 to R234, R294 to R296), and the ends of attempts and holds: O55.
-/
namespace Sys2Proof.Machine
open Sys2Proof

/-! ## Ends of attempts and of holds (R228, R232) -/

section
variable {s : State} {l : Fin 6144}

/-- The dovetail of device cell `l` whose attempt carries TAG `t`. -/
def doveOf (s : State) (l t : Nat) : Option Dove := (comb s l).doves.find? (fun d => d.tag == t)

/-- The stock image can end the attempt of dovetail `d` now: it is outstanding, it has expired, and no answer in time is on its way. -/
def attemptDue (s : State) (l t : Nat) (d : Dove) : Bool :=
  stockActs s l && emitRoom s l 1 && (doveOut s l (if d.cls = 3 then 4 else 1) t).isSome && decide (onwardEnds s d ≤ s.now) &&
    !(onWay s (cellPort l)).any (answersInTime s l d)

theorem attemptDue_iff {l t : Nat} {d : Dove} : attemptDue s l t d = true ↔
    stockActs s l = true ∧ (doveOut s l (if d.cls = 3 then 4 else 1) t).isSome = true ∧ emitRoom s l 1 = true ∧ onwardEnds s d ≤ s.now ∧
      ∀ p ∈ onWay s (cellPort l), answersInTime s l d p = false := by
  rw [attemptDue, Bool.and_eq_true, Bool.and_eq_true, Bool.and_eq_true, Bool.and_eq_true, decide_eq_true_eq, Bool.not_eq_true', List.any_eq_false]
  simp only [Bool.not_eq_true]
  tauto

theorem exec_onwardAttemptTimeout {tag : BitVec 16} {d : Dove} (hd : doveOf s l tag.toNat = some d) : exec (.onwardAttemptTimeout l tag) s =
    .next (if attemptDue s l tag.toNat d = true then flushReplies (reuse (attemptEnded s l { d with timedOut := true }) l) l else s) := by
  change execOnwardAttemptTimeout l tag s = _
  unfold doveOf at hd
  simp only [execOnwardAttemptTimeout, hd]
  rfl

theorem exec_onwardAttemptTimeout_idle {tag : BitVec 16} (h : ∀ d, doveOf s l tag.toNat = some d → ¬ attemptDue s l tag.toNat d = true) :
    exec (.onwardAttemptTimeout l tag) s = .next s := by
  cases hd : doveOf s l tag.toNat with
  | none =>
    change execOnwardAttemptTimeout l tag s = _
    unfold doveOf at hd
    simp only [execOnwardAttemptTimeout, hd]
  | some d => rw [exec_onwardAttemptTimeout hd, if_neg (h d hd)]

variable {way : BitVec 9}

theorem exec_ledgerEntryExpire {e : Ledger} (h : findKey s.cells.ledger (512 * l.val + way.toNat) = some e) : exec (.ledgerEntryExpire l way) s =
    .next (if ledOver s e = true then flushReplies (reuse (freeLedger s (512 * l.val + way.toNat)) l) l else s) := by
  change execLedgerEntryExpire l way s = _
  simp only [execLedgerEntryExpire, h]

theorem exec_ledgerEntryExpire_idle (h : ∀ e, findKey s.cells.ledger (512 * l.val + way.toNat) = some e → ledOver s e = false) :
    exec (.ledgerEntryExpire l way) s = .next s := by
  cases he : findKey s.cells.ledger (512 * l.val + way.toNat) with
  | none =>
    change execLedgerEntryExpire l way s = _
    simp only [execLedgerEntryExpire, he]
  | some e => rw [exec_ledgerEntryExpire he, if_neg (ne_true_of_eq_false (h e he))]

end

/-! ## A homed request at its home cell (R220, R234) -/

section
variable {s : State} {l : Nat} {h : Hdr}

theorem homedReq_unsupported (ha : h.k = some .atomic) (hb : atomicBad h = true) :
    homedReq s l h = flushReplies (cellAnswer s l h ccUnsupported 0 0 0) l := by
  simp [homedReq, ha, hb]

section
variable (hb : ¬ (h.k = some .atomic ∧ atomicBad h = true))
include hb

theorem homedReq_absorbed (ha : absorbed s l h = true) : homedReq s l h = flushReplies s l := by
  have good : ¬ (h.k == some .atomic && atomicBad h) = true := by simpa using hb
  simp only [homedReq, if_neg good, if_pos ha]

section
variable (hn : absorbed s l h = false)
include hn

theorem homedReq_new (hr : ¬ (h.k = some .atomic ∧ h.retry = true)) : homedReq s l h = flushReplies (placeOrPark s l { h := h }) l := by
  have good : ¬ (h.k == some .atomic && atomicBad h) = true := by simpa using hb
  have first : ¬ (h.k == some .atomic && h.retry) = true := by simpa using hr
  simp only [homedReq, if_neg good, hn, Bool.false_eq_true, if_false, if_neg first]

variable (ha : h.k = some .atomic) (hr : h.retry = true)
include ha hr

theorem homedReq_retry : homedReq s l h =
    flushReplies (retryLedger s l h (fun s => placeOrPark s l { h := h }) (fun s e => cellAnswer s l h e.ccode 0 e.result 0)) l := by
  have good : ¬ (h.k == some .atomic && atomicBad h) = true := by simpa using hb
  have again : (h.k == some .atomic && h.retry) = true := by simp [ha, hr]
  simp only [homedReq, if_neg good, hn, Bool.false_eq_true, if_false, if_pos again]

end
end

/-! ### A retry and the ledger -/

section
variable {again : State → State} {hit : State → Ledger → State}

theorem retryLedger_of_none (hf : ledFind s l h false = none) :
    retryLedger s l h again hit = cellAnswer (cnt s Reg.COMBINE.COMB_COUNT_C.RETRY_STALE_SENT) l h ccRetryStale 0 0 0 := by
  simp only [retryLedger, hf]

variable {k : Nat} {e : Ledger} (hf : ledFind s l h false = some (k, e))
include hf

theorem retryLedger_unapplied (hc : e.ccode = 0xFF) : retryLedger s l h again hit = again (reuse (freeLedger s k) l) := by
  simp only [retryLedger, hf, if_pos hc]

theorem retryLedger_hit (hc : e.ccode ≠ 0xFF) : retryLedger s l h again hit = hit (cnt s Reg.COMBINE.COMB_COUNT_C.LEDGER_HITS) e := by
  simp only [retryLedger, hf, if_neg hc]

end

/-! ### Places and parking (R233) -/

section
variable {p : Packet}

theorem placeOrPark_of_place {t : State} (hp : place s l p = some t) : placeOrPark s l p = t := by
  simp only [placeOrPark, hp]

section
variable (hp : place s l p = none)
include hp

theorem placeOrPark_discards (hn : 256 ≤ (comb s l).parked.length) : placeOrPark s l p = cnt s Reg.COMBINE.COMB_COUNT_C.PARK_DISCARDS := by
  simp only [placeOrPark, hp, if_pos hn]

theorem placeOrPark_parks (hn : (comb s l).parked.length < 256) :
    placeOrPark s l p = ledFull (setComb s l { comb s l with parked := (comb s l).parked ++ [p] }) l p.h := by
  simp only [placeOrPark, hp, if_neg (Nat.not_le.2 hn)]

end
end

/-! ## The ownership operations (R295) -/

/-- The operation that the OOP names, whoever asks. -/
def ownOp (s : State) (l : Nat) (h : Hdr) : State :=
  match h.x 32 4 with
  | 0 => ownQuery s l h
  | 1 => ownAcquire s l h
  | 2 => ownRelease s l h
  | _ => ownPublish s l h

theorem ownOp_query (ho : h.x 32 4 = 0) : ownOp s l h = ownQuery s l h := by simp only [ownOp, ho]

theorem ownOp_acquire (ho : h.x 32 4 = 1) : ownOp s l h = ownAcquire s l h := by simp only [ownOp, ho]

theorem ownOp_release (ho : h.x 32 4 = 2) : ownOp s l h = ownRelease s l h := by simp only [ownOp, ho]

theorem ownOp_publish (ho : h.x 32 4 = 3) : ownOp s l h = ownPublish s l h := by simp only [ownOp, ho]

section
variable (hf : ownFind s l h.addr.toNat = none)
include hf

theorem ownDo_unrecorded : ownDo s l h = ownOp s l h := by
  rw [ownDo, hf]
  rfl

theorem ownQuery_unrecorded : ownQuery s l h = ownAnswer s l h ccOk 0 0 0xFFF := by
  rw [ownQuery, hf]
  rfl

theorem ownRelease_unrecorded : ownRelease s l h = ownAnswer s l h ccNotOwner 0 0 0xFFF := by
  simp only [ownRelease, hf]

theorem ownPublish_unrecorded : ownPublish s l h = ownAnswer s l h ccNotOwner 0 0 0xFFF := by
  simp only [ownPublish, hf]

theorem ownAcquire_records {k : Nat} (hk : (ownWays l h.addr.toNat).find? (fun k => (findKey s.cells.owned k).isNone) = some k) :
    ownAcquire s l h =
      ownAnswer (ownWrite s k { base := h.addr.toNat, tenant := h.tenant.toNat, owner := h.src.toNat, version := 0, changed := 0 })
        l h ccOk 0 0 h.src.toNat := by
  simp only [ownAcquire, hf, hk]

theorem ownAcquire_full (hk : ∀ k ∈ ownWays l h.addr.toNat, findKey s.cells.owned k ≠ none) :
    ownAcquire s l h = ownAnswer (cnt s Reg.EXTENT.OWN_COUNT.BUCKET_FULL) l h ccUnsupported 0 0 0 := by
  have full : (ownWays l h.addr.toNat).find? (fun k => (findKey s.cells.owned k).isNone) = none := by
    simpa [List.find?_eq_none] using hk
  simp only [ownAcquire, hf, full]

end

section
variable {k : Nat} {e : OwnRec} (hf : ownFind s l h.addr.toNat = some (k, e))
include hf

theorem ownDo_denied (ht : e.tenant ≠ h.tenant.toNat) : ownDo s l h = ownAnswer s l h ccDenied 2 0 0 := by
  simp [ownDo, hf, ht]

theorem ownDo_of_tenant (ht : e.tenant = h.tenant.toNat) : ownDo s l h = ownOp s l h := by
  simp only [ownDo, hf, ht, ne_eq, not_true_eq_false, decide_false, Bool.false_eq_true, if_false]
  rfl

theorem ownQuery_recorded : ownQuery s l h = ownAnswer s l h ccOk 0 e.version e.owner := by
  rw [ownQuery, hf]
  rfl

theorem ownAcquire_takes (ho : e.owner = 0xFFF ∨ e.owner = h.src.toNat) :
    ownAcquire s l h = ownAnswer (ownWrite s k { e with owner := h.src.toNat }) l h ccOk 0 e.version h.src.toNat := by
  simp only [ownAcquire, hf, if_pos ho]

theorem ownAcquire_owned (hn : e.owner ≠ 0xFFF) (ho : e.owner ≠ h.src.toNat) :
    ownAcquire s l h = ownAnswer s l h ccNotOwner 0 e.version e.owner := by
  simp only [ownAcquire, hf, if_neg (not_or.2 ⟨hn, ho⟩)]

section
variable (ho : e.owner = h.src.toNat)
include ho

theorem ownRelease_owner : ownRelease s l h = ownAnswer (ownWrite s k { e with owner := 0xFFF }) l h ccOk 0 e.version 0xFFF := by
  simp only [ownRelease, hf, if_pos ho]

theorem ownPublish_stale (hv : h.x 64 64 ≠ e.version) : ownPublish s l h = ownAnswer s l h ccStaleVersion 0 e.version e.owner := by
  simp only [ownPublish, hf, if_neg (not_not.2 ho), if_pos hv]

theorem ownPublish_owner (hv : h.x 64 64 = e.version) : ownPublish s l h =
    ownAnswer (ownWrite s k { e with version := (e.version + 1) % 2 ^ 64 }) l h ccOk 0 ((e.version + 1) % 2 ^ 64) e.owner := by
  simp only [ownPublish, hf, if_neg (not_not.2 ho), if_neg (not_not.2 hv)]

end

section
variable (ho : e.owner ≠ h.src.toNat)
include ho

theorem ownRelease_other : ownRelease s l h = ownAnswer s l h ccNotOwner 0 e.version e.owner := by
  simp only [ownRelease, hf, if_neg ho]

theorem ownPublish_other : ownPublish s l h = ownAnswer s l h ccNotOwner 0 e.version e.owner := by
  simp only [ownPublish, hf, if_pos ho]

end
end
end

/-- Settles O55: the queue, the CLUSTER and the image decide how a packet or a time reaches a cell; the ledger, the places and the ownership record
decide what a homed request does there. -/
theorem cellEvents : Obligations.CellEvents := by
  have next {s t : State} (h : s = t) : (.next s : Host.Outcome State Fault Refusal) = .next t := congrArg _ h
  refine ⟨?_, ?_, ?_, ?_, ?_, ?_, ?_, ?_⟩
  · intro s p ecc h home op c x g homed waits mine direct
    have open_iff := homedReq_open_iff (s := s) (p := p) (ecc := ecc)
    refine ⟨fun hn => exec_homedReq.trans (next (if_neg fun ho => ?_)),
      fun hh hw => cellRule_of_cellEvent (exec_homedReq.trans (next (if_pos (open_iff.2 ⟨hh, hw⟩)))),
      fun hk => exec_gather.trans (next (if_neg (by simpa using hk))),
      fun hk => cellRule_of_cellEvent (exec_gather.trans (next (if_pos (by simpa using hk)))), fun d hd => ?_, exec_response_of_other,
      fun hm hd => cellRule_of_cellEvent (exec_response_direct hm hd), fun hm hd => ⟨notArrived_of_received (exec_response_misdelivered hm hd),
        fun ha => (exec_response_misdelivered hm hd).trans (next (received_of_arrived ha))⟩⟩
    · obtain ⟨hh, hw⟩ := open_iff.1 ho
      exact hn.elim (fun hc => hc hh) hw
    · intro own there
      exact ⟨exec_own_of_other hd, fun y ho => exec_own_at_target hd ho, fun ho => exec_own_waits hd ho,
        fun ho ht hw => cellRule_of_cellEvent (exec_own_at_cell hd ho ht hw)⟩
  · intro s l i due v
    exact ⟨exec_cellInit_idle, exec_cellInit_stock, fun e hd hi => exec_cellInit_entry hd hi, exec_cellInit_no_entry⟩
  · intro s l may n area i u
    exact ⟨exec_cellTick_idle, exec_cellTick_stock, fun e hm hi => exec_cellTick_entry hm hi⟩
  · intro s l k i q u
    exact ⟨exec_cellTimer_idle, fun t ht hs => ⟨exec_cellTimer_lost ht hs,
      fun e hi he => ⟨exec_cellTimer_waits ht hs hi he, exec_cellTimer_starts ht hs hi he⟩⟩⟩
  · intro s n
    refine ⟨exec_headerCopy_none, fun c hc => ?_⟩
    intro lost b t
    refine ⟨exec_headerCopy_queued_lost hc, fun hb hs => ?_, exec_headerCopy_lost hc, exec_headerCopy_waits hc, exec_headerCopy_delivered hc⟩
    intro first
    have first_iff : copyFirst s n c = true ↔ first := copyFirst_iff
    exact ⟨fun hf => (exec_headerCopy_queued hc hb hs).trans (next (if_pos (first_iff.2 hf))),
      fun hf => (exec_headerCopy_queued hc hb hs).trans (next (if_neg (mt first_iff.1 hf)))⟩
  · intro s l tag way dove due k
    have due_iff (d : Dove) : attemptDue s l tag.toNat d = true ↔ due d := attemptDue_iff
    exact ⟨fun d hd h => (exec_onwardAttemptTimeout hd).trans (next (if_pos ((due_iff d).2 h))),
      fun h => exec_onwardAttemptTimeout_idle fun d hd => mt (due_iff d).1 (h d hd),
      fun e he ho => (exec_ledgerEntryExpire he).trans (next (if_pos ho)), exec_ledgerEntryExpire_idle⟩
  · intro s l h atomic new c ends p
    refine ⟨homedReq_unsupported, homedReq_absorbed, fun ⟨hb, hn⟩ => homedReq_new hb hn, fun ⟨hb, hn⟩ ha hr => ?_,
      fun t => placeOrPark_of_place, placeOrPark_discards, placeOrPark_parks⟩
    have retried := homedReq_retry hb hn ha hr
    exact ⟨fun hf => retried.trans (congrArg (flushReplies · l) (retryLedger_of_none hf)),
      fun k e hf => ⟨fun hc => retried.trans (congrArg (flushReplies · l) (retryLedger_unapplied hf hc)),
        fun hc => retried.trans (congrArg (flushReplies · l) (retryLedger_hit hf hc))⟩⟩
  · intro s l h r src op does
    refine ⟨fun k e hf => ownDo_denied hf, fun k e hf ht => ?_, fun hf => ?_⟩
    · have served := ownDo_of_tenant hf ht
      refine ⟨fun ho => served.trans ((ownOp_query ho).trans (ownQuery_recorded hf)),
        fun ho hw => served.trans ((ownOp_acquire ho).trans (ownAcquire_takes hf hw)),
        fun ho hn hw => served.trans ((ownOp_acquire ho).trans (ownAcquire_owned hf hn hw)),
        fun ho hw => served.trans ((ownOp_release ho).trans (ownRelease_owner hf hw)), fun ho hw => ?_,
        fun ho hw hv => served.trans ((ownOp_publish ho).trans (ownPublish_stale hf hw hv)),
        fun ho hw hv => served.trans ((ownOp_publish ho).trans (ownPublish_owner hf hw hv))⟩
      rcases ho with ho | ho
      · exact served.trans ((ownOp_release ho).trans (ownRelease_other hf hw))
      · exact served.trans ((ownOp_publish ho).trans (ownPublish_other hf hw))
    · have served := ownDo_unrecorded hf
      refine ⟨fun ho => served.trans ((ownOp_query ho).trans (ownQuery_unrecorded hf)), fun ho => ?_,
        fun k ho hk => served.trans ((ownOp_acquire ho).trans (ownAcquire_records hf hk)),
        fun ho hk => served.trans ((ownOp_acquire ho).trans (ownAcquire_full hf hk))⟩
      rcases ho with ho | ho
      · exact served.trans ((ownOp_release ho).trans (ownRelease_unrecorded hf))
      · exact served.trans ((ownOp_publish ho).trans (ownPublish_unrecorded hf))

end Sys2Proof.Machine
end

section
/-!
PROOFS. Every well-formed Milys instruction decodes from the words that spell it (R157 to R164): O8.
-/
namespace Sys2Proof.Machine
open Sys2Proof

/-! ## Reading a field of a word (R157, R158) -/

section
variable {w : MWord} {lo n : Nat}

theorem part_toNat : (w.part lo n).toNat = bits w.toNat lo n := by
  rw [MWord.part, BitVec.toNat_ofNat, bits, Nat.shiftRight_eq_div_pow]

/-- Part of a field of a word is that part of the field's value. -/
theorem part_of_part {x : BitVec n} (h : w.part lo n = x) (k m : Nat) (hk : k + m ≤ n) : w.part (lo + k) m = x.extractLsb' k m := by
  subst h
  refine BitVec.eq_of_toNat_eq (Nat.eq_of_testBit_eq fun i => ?_)
  rw [part_toNat, BitVec.extractLsb'_toNat, part_toNat]
  simp only [bits, Nat.testBit_mod_two_pow, Nat.testBit_shiftRight, Nat.add_assoc]
  by_cases hi : i < m
  · have low : k + i < n := by omega
    simp [hi, low]
  · simp [hi]

theorem zero_iff : w.zero lo n = true ↔ bits w.toNat lo n = 0 := by
  rw [MWord.zero, beq_iff_eq, ← BitVec.toNat_inj, part_toNat]
  rfl

/-- Two fields side by side that are zero are one field that is. -/
theorem zero_append {m : Nat} (hlow : w.zero lo n = true) (hhigh : w.zero (lo + n) m = true) : w.zero lo (n + m) = true := by
  rw [zero_iff] at *
  refine Nat.eq_of_testBit_eq fun i => ?_
  have low := congrArg (Nat.testBit · i) hlow
  have high := congrArg (Nat.testBit · (i - n)) hhigh
  simp only [testBit_bits, Nat.zero_testBit] at *
  by_cases hi : i < n
  · simpa [hi, show i < n + m by omega] using low
  · have place : lo + n + (i - n) = lo + i := by omega
    have within : i - n < m ↔ i < n + m := by omega
    simpa [place, within] using high

theorem zero_of_part (h : w.part lo n = 0) : w.zero lo n = true := by
  rw [MWord.zero, h, beq_self_eq_true]

theorem r5_of_part {r : Fin 32} (h : w.part lo 5 = b5 r) : w.r5 lo = r := congrArg BitVec.toFin h

theorem r4_of_part {r : Fin 16} (h : w.part lo 4 = b4 r) : w.r4 lo = r := congrArg BitVec.toFin h

theorem r3_of_part {r : Fin 8} (h : w.part lo 3 = b3 r) : w.r3 lo = r := congrArg BitVec.toFin h

theorem r2_of_part {r : Fin 4} (h : w.part lo 2 = b2 r) : w.r2 lo = r := congrArg BitVec.toFin h

theorem bit_of_part {b : Bool} (h : w.part lo 1 = b1 b) : w.bit lo = b := by
  rw [MWord.bit, h]
  cases b
  · rfl
  · rfl

/-! A predicate has the low 3 bits of its field, and the upper ones are zero (R158). -/

theorem r3_of_part5 {p : Fin 8} (h : w.part lo 5 = b35 p) : w.r3 lo = p :=
  r3_of_part ((part_of_part h 0 3 (by omega)).trans ((by decide : ∀ p, (b35 p).extractLsb' 0 3 = b3 p) p))

theorem zero_of_part5 {p : Fin 8} (h : w.part lo 5 = b35 p) : w.zero (lo + 3) 2 = true :=
  zero_of_part ((part_of_part h 3 2 (by omega)).trans ((by decide : ∀ p, (b35 p).extractLsb' 3 2 = 0) p))

theorem r3_of_part4 {p : Fin 8} (h : w.part lo 4 = b34 p) : w.r3 lo = p :=
  r3_of_part ((part_of_part h 0 3 (by omega)).trans ((by decide : ∀ p, (b34 p).extractLsb' 0 3 = b3 p) p))

theorem zero_of_part4 {p : Fin 8} (h : w.part lo 4 = b34 p) : w.zero (lo + 3) 1 = true :=
  zero_of_part ((part_of_part h 3 1 (by omega)).trans ((by decide : ∀ p, (b34 p).extractLsb' 3 1 = 0) p))

end

/-! Reserved bits of a format that are no field of it. -/

theorem encSh_zero (op : BitVec 6) (rd ra : BitVec 5) (sh : BitVec 6) : (encSh op rd ra sh).part 6 10 = 0 := by
  apply BitVec.eq_of_toNat_eq; simp [encSh, MWord.part]; omega

theorem encB_zero (op : BitVec 6) (ra rb : BitVec 5) (off : BitVec 15) : (encB op ra rb off).part 15 1 = b1 false := by
  apply BitVec.eq_of_toNat_eq; simp [encB, MWord.part, b1]; omega

theorem encL_zero (rc : BitVec 1) (rs : BitVec 5) (count : BitVec 13) (ix : BitVec 5) : (encL rc rs count ix).part 0 2 = 0 := by
  apply BitVec.eq_of_toNat_eq; simp [encL, MWord.part]; omega

theorem encE_zero (rh rp : BitVec 5) (th : BitVec 2) (fn : BitVec 5) : (encE rh rp th fn).part 5 9 = 0 := by
  apply BitVec.eq_of_toNat_eq; simp [encE, MWord.part]; omega

/-! ## The rows of each format

Each of these turns the decoder's row for an opcode, read on any word that holds it, into the instruction whose operands the word was made of. -/

section
variable {l : Fin 6144} {tail : List MWord}

/-! ### Opcodes with a sub-operation -/

theorem milysDecode_sys {w : MWord} (h : w.part 26 6 = 0x39) : milysDecode l w tail = sysWord l w := by
  rw [milysDecode, h]
  rfl

theorem milysDecode_ctl {w : MWord} (h : w.part 26 6 = 0x0C) : milysDecode l w tail = ctlWord l w := by
  rw [milysDecode, h]
  rfl

theorem milysDecode_vconv {w : MWord} (h : w.part 26 6 = 0x33) : milysDecode l w tail = vconvWord l w := by
  rw [milysDecode, h]
  rfl

theorem milysDecode_vmov {w : MWord} (h : w.part 26 6 = 0x35) : milysDecode l w tail = vmovWord l w := by
  rw [milysDecode, h]
  rfl

theorem milysDecode_tile {w : MWord} (h : w.part 26 6 = 0x36) : milysDecode l w tail = tileWord l w := by
  rw [milysDecode, h]
  rfl

theorem milysDecode_top {w : MWord} (h : w.part 26 6 = 0x37) : milysDecode l w tail = topWord l w := by
  rw [milysDecode, h]
  rfl

theorem milysDecode_emit {w : MWord} (h : w.part 26 6 = 0x38) : milysDecode l w tail = emitWord l w := by
  rw [milysDecode, h]
  rfl

theorem milysDecode_alu {w : MWord} (h : w.part 26 6 = 0x01) : milysDecode l w tail = aluWord l w := by
  rw [milysDecode, h]
  rfl

theorem milysDecode_samo {w : MWord} (h : w.part 26 6 = 0x2C) : milysDecode l w tail = samoWord l w := by
  rw [milysDecode, h]
  rfl

theorem milysDecode_pred {w : MWord} (h : w.part 26 6 = 0x31) : milysDecode l w tail = predWord l w := by
  rw [milysDecode, h]
  rfl

theorem milysDecode_varith {w : MWord} (h : w.part 26 6 = 0x32) : milysDecode l w tail = varithWord l w := by
  rw [milysDecode, h]
  rfl

theorem milysDecode_vcmp {w : MWord} (h : w.part 26 6 = 0x34) : milysDecode l w tail = vcmpWord l w := by
  rw [milysDecode, h]
  rfl

/-! ### Format R -/

section
variable {op fn : BitVec 6}

theorem decode_encR {rd ra rb : Fin 32} {f : Fin 32 → Fin 32 → Fin 32 → Instr}
    (row : ∀ w : MWord, w.part 26 6 = op → w.part 0 6 = fn → milysDecode l w tail = wordIf (w.zero 6 5) (f (w.r5 21) (w.r5 16) (w.r5 11))) :
    milysDecode l (encR op (b5 rd) (b5 ra) (b5 rb) 0 fn) tail = .ok (f rd ra rb) := by
  rw [row _ (encR_op ..) (encR_fn ..), zero_of_part (encR_aux ..), r5_of_part (encR_rd ..), r5_of_part (encR_ra ..), r5_of_part (encR_rb ..)]
  rfl

theorem decode_encR_pred3 {pd pa pb : Fin 8} {f : Fin 8 → Fin 8 → Fin 8 → Instr}
    (row : ∀ w : MWord, w.part 26 6 = op → w.part 0 6 = fn →
      milysDecode l w tail = wordIf (w.zero 24 2 && w.zero 19 2 && w.zero 14 2 && w.zero 6 5) (f (w.r3 21) (w.r3 16) (w.r3 11))) :
    milysDecode l (encR op (b35 pd) (b35 pa) (b35 pb) 0 fn) tail = .ok (f pd pa pb) := by
  rw [row _ (encR_op ..) (encR_fn ..), zero_of_part5 (encR_rd ..), zero_of_part5 (encR_ra ..), zero_of_part5 (encR_rb ..),
    zero_of_part (encR_aux ..), r3_of_part5 (encR_rd ..), r3_of_part5 (encR_ra ..), r3_of_part5 (encR_rb ..)]
  rfl

theorem decode_encR_pred2 {pd pa : Fin 8} {f : Fin 8 → Fin 8 → Instr}
    (row : ∀ w : MWord, w.part 26 6 = op → w.part 0 6 = fn →
      milysDecode l w tail = wordIf (w.zero 24 2 && w.zero 19 2 && w.zero 11 5 && w.zero 6 5) (f (w.r3 21) (w.r3 16))) :
    milysDecode l (encR op (b35 pd) (b35 pa) 0 0 fn) tail = .ok (f pd pa) := by
  rw [row _ (encR_op ..) (encR_fn ..), zero_of_part5 (encR_rd ..), zero_of_part5 (encR_ra ..), zero_of_part (encR_rb ..),
    zero_of_part (encR_aux ..), r3_of_part5 (encR_rd ..), r3_of_part5 (encR_ra ..)]
  rfl

theorem decode_encR_to_pred {pd : Fin 8} {sa : Fin 32} {f : Fin 8 → Fin 32 → Instr}
    (row : ∀ w : MWord, w.part 26 6 = op → w.part 0 6 = fn →
      milysDecode l w tail = wordIf (w.zero 24 2 && w.zero 11 5 && w.zero 6 5) (f (w.r3 21) (w.r5 16))) :
    milysDecode l (encR op (b35 pd) (b5 sa) 0 0 fn) tail = .ok (f pd sa) := by
  rw [row _ (encR_op ..) (encR_fn ..), zero_of_part5 (encR_rd ..), zero_of_part (encR_rb ..), zero_of_part (encR_aux ..), r3_of_part5 (encR_rd ..),
    r5_of_part (encR_ra ..)]
  rfl

theorem decode_encR_of_pred {sd : Fin 32} {pa : Fin 8} {f : Fin 32 → Fin 8 → Instr}
    (row : ∀ w : MWord, w.part 26 6 = op → w.part 0 6 = fn →
      milysDecode l w tail = wordIf (w.zero 19 2 && w.zero 11 5 && w.zero 6 5) (f (w.r5 21) (w.r3 16))) :
    milysDecode l (encR op (b5 sd) (b35 pa) 0 0 fn) tail = .ok (f sd pa) := by
  rw [row _ (encR_op ..) (encR_fn ..), zero_of_part5 (encR_ra ..), zero_of_part (encR_rb ..), zero_of_part (encR_aux ..), r5_of_part (encR_rd ..),
    r3_of_part5 (encR_ra ..)]
  rfl

theorem decode_encR_two {rd ra : Fin 32} {f : Fin 32 → Fin 32 → Instr}
    (row : ∀ w : MWord, w.part 26 6 = op → w.part 0 6 = fn → milysDecode l w tail = wordIf (w.zero 6 10) (f (w.r5 21) (w.r5 16))) :
    milysDecode l (encR op (b5 rd) (b5 ra) 0 0 fn) tail = .ok (f rd ra) := by
  rw [row _ (encR_op ..) (encR_fn ..), zero_append (n := 5) (m := 5) (zero_of_part (encR_aux ..)) (zero_of_part (encR_rb ..)),
    r5_of_part (encR_rd ..), r5_of_part (encR_ra ..)]
  rfl


theorem decode_gpiow {ra rb : Fin 32} : milysDecode l (encR 0x39 0 (b5 ra) (b5 rb) 0 1) tail = .ok (.gpiow l ra rb) := by
  have row (w : MWord) (hop : w.part 26 6 = 0x39) (hfn : w.part 0 6 = 1) :
      milysDecode l w tail = wordIf (w.zero 21 5 && w.zero 6 5) (.gpiow l (w.r5 16) (w.r5 11)) := by
    rw [milysDecode_sys hop, sysWord, hfn]
    rfl
  rw [row _ (encR_op ..) (encR_fn ..), zero_of_part (encR_rd ..), zero_of_part (encR_aux ..), r5_of_part (encR_ra ..), r5_of_part (encR_rb ..)]
  rfl

theorem decode_rdsys {rd : Fin 32} {aux : BitVec 5} (h : aux.toNat < 11) :
    milysDecode l (encR 0x39 (b5 rd) 0 0 aux 0) tail = .ok (.rdsys l rd aux) := by
  have row (w : MWord) (hop : w.part 26 6 = 0x39) (hfn : w.part 0 6 = 0) :
      milysDecode l w tail = wordIf (w.zero 11 10 && decide ((w.part 6 5).toNat < 11)) (.rdsys l (w.r5 21) (w.part 6 5)) := by
    rw [milysDecode_sys hop, sysWord, hfn]
    rfl
  rw [row _ (encR_op ..) (encR_fn ..), zero_append (n := 5) (m := 5) (zero_of_part (encR_rb ..)) (zero_of_part (encR_ra ..)), encR_aux,
    decide_eq_true h, r5_of_part (encR_rd ..)]
  rfl

end

/-! ### Format I -/

section
variable {op : BitVec 6}

theorem decode_encI {rd ra : Fin 32} {imm : BitVec 16} {f : Fin 32 → Fin 32 → BitVec 16 → Instr}
    (row : ∀ w : MWord, w.part 26 6 = op → milysDecode l w tail = .ok (f (w.r5 21) (w.r5 16) (w.part 0 16))) :
    milysDecode l (encI op (b5 rd) (b5 ra) imm) tail = .ok (f rd ra imm) := by
  rw [row _ (encI_op ..), r5_of_part (encI_rd ..), r5_of_part (encI_ra ..), encI_imm]

theorem encI_no_regs {imm : BitVec 16} : (encI op 0 0 imm).zero 16 10 = true :=
  zero_append (n := 5) (m := 5) (zero_of_part (encI_ra ..)) (zero_of_part (encI_rd ..))

theorem decode_encI_imm {imm : BitVec 16} {f : BitVec 16 → Instr}
    (row : ∀ w : MWord, w.part 26 6 = op → milysDecode l w tail = wordIf (w.zero 16 10) (f (w.part 0 16))) :
    milysDecode l (encI op 0 0 imm) tail = .ok (f imm) := by
  rw [row _ (encI_op ..), encI_no_regs, encI_imm]
  rfl

theorem decode_encI_none {i : Instr} (row : ∀ w : MWord, w.part 26 6 = op → milysDecode l w tail = wordIf (w.zero 0 26) i) :
    milysDecode l (encI op 0 0 0) tail = .ok i := by
  rw [row _ (encI_op ..), zero_append (n := 16) (m := 10) (zero_of_part (encI_imm ..)) encI_no_regs]
  rfl

theorem decode_encSh {rd ra : Fin 32} {sh : BitVec 6} {f : Fin 32 → Fin 32 → BitVec 6 → Instr}
    (row : ∀ w : MWord, w.part 26 6 = op → milysDecode l w tail = wordIf (w.zero 6 10) (f (w.r5 21) (w.r5 16) (w.part 0 6))) :
    milysDecode l (encSh op (b5 rd) (b5 ra) sh) tail = .ok (f rd ra sh) := by
  rw [row _ (encSh_op ..), zero_of_part (encSh_zero ..), r5_of_part (encSh_rd ..), r5_of_part (encSh_ra ..), encSh_sh]
  rfl

end

theorem decode_lui {rd : Fin 32} {imm : BitVec 16} {sh : Fin 3} :
    milysDecode l (encI 0x09 (b5 rd) (BitVec.ofNat 5 sh.val) imm) tail = .ok (.lui l rd imm sh) := by
  have shift : (encI 0x09 (b5 rd) (BitVec.ofNat 5 sh.val) imm).part 16 2 = BitVec.ofNat 2 sh.val :=
    (part_of_part (encI_ra ..) 0 2 (by omega)).trans
      ((by decide : ∀ s : Fin 3, (BitVec.ofNat 5 s.val).extractLsb' 0 2 = BitVec.ofNat 2 s.val) sh)
  have zero : (encI 0x09 (b5 rd) (BitVec.ofNat 5 sh.val) imm).zero 18 3 = true :=
    zero_of_part ((part_of_part (encI_ra ..) 2 3 (by omega)).trans
      ((by decide : ∀ s : Fin 3, (BitVec.ofNat 5 s.val).extractLsb' 2 3 = 0) sh))
  have row (w : MWord) (hop : w.part 26 6 = 0x09) (h : (w.part 16 2).toNat < 3) :
      milysDecode l w tail = wordIf (w.zero 18 3) (.lui l (w.r5 21) (w.part 0 16) ⟨(w.part 16 2).toNat, h⟩) := by
    rw [milysDecode, hop]
    exact dif_pos h
  have hs : ((encI 0x09 (b5 rd) (BitVec.ofNat 5 sh.val) imm).part 16 2).toNat = sh.val := by
    rw [shift, BitVec.toNat_ofNat]
    omega
  have below : ((encI 0x09 (b5 rd) (BitVec.ofNat 5 sh.val) imm).part 16 2).toNat < 3 := hs.trans_lt sh.isLt
  have same : (⟨_, below⟩ : Fin 3) = sh := Fin.ext hs
  rw [row _ (encI_op ..) below, zero, r5_of_part (encI_rd ..), encI_imm, same]
  rfl

/-! CTL. -/

theorem decode_setfmt {f : BitVec 4} (h : f.toNat < 14) :
    milysDecode l (encI 0x0C 0 0 (BitVec.ofNat 16 f.toNat)) tail = .ok (.setfmt l f) := by
  have sub : (encI 0x0C 0 0 (BitVec.ofNat 16 f.toNat)).part 12 4 = 0 :=
    (part_of_part (encI_imm ..) 12 4 (by omega)).trans ((by decide : ∀ f : BitVec 4, (BitVec.ofNat 16 f.toNat).extractLsb' 12 4 = 0) f)
  have code : (encI 0x0C 0 0 (BitVec.ofNat 16 f.toNat)).part 0 4 = f :=
    (part_of_part (encI_imm ..) 0 4 (by omega)).trans ((by decide : ∀ f : BitVec 4, (BitVec.ofNat 16 f.toNat).extractLsb' 0 4 = f) f)
  have zero : (encI 0x0C 0 0 (BitVec.ofNat 16 f.toNat)).zero 4 8 = true :=
    zero_of_part ((part_of_part (encI_imm ..) 4 8 (by omega)).trans
      ((by decide : ∀ f : BitVec 4, (BitVec.ofNat 16 f.toNat).extractLsb' 4 8 = 0) f))
  have row (w : MWord) (hop : w.part 26 6 = 0x0C) (hfn : w.part 12 4 = 0) :
      milysDecode l w tail = wordIf (w.zero 16 10 && w.zero 4 8 && decide ((w.part 0 4).toNat < 14)) (.setfmt l (w.part 0 4)) := by
    rw [milysDecode_ctl hop, ctlWord, hfn]
    rfl
  rw [row _ (encI_op ..) sub, encI_no_regs, zero, code, decide_eq_true h]
  rfl

theorem decode_setrnd {v : BitVec 2} (h : v.toNat < 2) :
    milysDecode l (encI 0x0C 0 0 (BitVec.ofNat 16 (0x1000 + v.toNat))) tail = .ok (.setrnd l v) := by
  have sub : (encI 0x0C 0 0 (BitVec.ofNat 16 (0x1000 + v.toNat))).part 12 4 = 1 :=
    (part_of_part (encI_imm ..) 12 4 (by omega)).trans
      ((by decide : ∀ v : BitVec 2, (BitVec.ofNat 16 (0x1000 + v.toNat)).extractLsb' 12 4 = 1) v)
  have code : (encI 0x0C 0 0 (BitVec.ofNat 16 (0x1000 + v.toNat))).part 0 2 = v :=
    (part_of_part (encI_imm ..) 0 2 (by omega)).trans
      ((by decide : ∀ v : BitVec 2, (BitVec.ofNat 16 (0x1000 + v.toNat)).extractLsb' 0 2 = v) v)
  have zero : (encI 0x0C 0 0 (BitVec.ofNat 16 (0x1000 + v.toNat))).zero 2 10 = true :=
    zero_of_part ((part_of_part (encI_imm ..) 2 10 (by omega)).trans
      ((by decide : ∀ v : BitVec 2, (BitVec.ofNat 16 (0x1000 + v.toNat)).extractLsb' 2 10 = 0) v))
  have row (w : MWord) (hop : w.part 26 6 = 0x0C) (hfn : w.part 12 4 = 1) :
      milysDecode l w tail = wordIf (w.zero 16 10 && w.zero 2 10 && decide ((w.part 0 2).toNat < 2)) (.setrnd l (w.part 0 2)) := by
    rw [milysDecode_ctl hop, ctlWord, hfn]
    rfl
  rw [row _ (encI_op ..) sub, encI_no_regs, zero, code, decide_eq_true h]
  rfl

theorem decode_rdctl {rd : Fin 32} : milysDecode l (encI 0x0C (b5 rd) 0 0x2000) tail = .ok (.rdctl l rd) := by
  have row (w : MWord) (hop : w.part 26 6 = 0x0C) (hfn : w.part 12 4 = 2) :
      milysDecode l w tail = wordIf (w.zero 16 5 && w.zero 0 12) (.rdctl l (w.r5 21)) := by
    rw [milysDecode_ctl hop, ctlWord, hfn]
    rfl
  rw [row _ (encI_op ..) (part_of_part (encI_imm ..) 12 4 (by omega)), zero_of_part (encI_ra ..),
    zero_of_part (part_of_part (encI_imm ..) 0 12 (by omega)), r5_of_part (encI_rd ..)]
  rfl

theorem decode_wrctl {ra : Fin 32} : milysDecode l (encI 0x0C 0 (b5 ra) 0x3000) tail = .ok (.wrctl l ra) := by
  have row (w : MWord) (hop : w.part 26 6 = 0x0C) (hfn : w.part 12 4 = 3) :
      milysDecode l w tail = wordIf (w.zero 21 5 && w.zero 0 12) (.wrctl l (w.r5 16)) := by
    rw [milysDecode_ctl hop, ctlWord, hfn]
    rfl
  rw [row _ (encI_op ..) (part_of_part (encI_imm ..) 12 4 (by omega)), zero_of_part (encI_rd ..),
    zero_of_part (part_of_part (encI_imm ..) 0 12 (by omega)), r5_of_part (encI_ra ..)]
  rfl

theorem decode_lend {back : BitVec 16} (h : back.getLsbD 15 = true) : milysDecode l (encI 0x1C 0 0 back) tail = .ok (.lend l) := by
  have backward : (encI 0x1C 0 0 back).bit 15 = true :=
    bit_of_part ((part_of_part (encI_imm ..) 15 1 (by omega)).trans (BitVec.eq_of_getLsbD_eq fun i hi => by
      obtain rfl : i = 0 := by omega
      simp [h, b1]))
  have row (w : MWord) (hop : w.part 26 6 = 0x1C) :
      milysDecode l w tail = if !w.zero 16 10 then .error 4 else if w.bit 15 then .ok (.lend l) else .error 6 := by
    rw [milysDecode, hop]
    rfl
  rw [row _ (encI_op ..), encI_no_regs, backward]
  rfl

theorem decode_fin {ra : Fin 32} {th : Fin 4} : milysDecode l (encI 0x1D (b5 ra) (BitVec.ofNat 5 (th.val * 8)) 0) tail = .ok (.fin l ra th) := by
  have zero : (encI 0x1D (b5 ra) (BitVec.ofNat 5 (th.val * 8)) 0).zero 16 3 = true :=
    zero_of_part ((part_of_part (encI_ra ..) 0 3 (by omega)).trans
      ((by decide : ∀ t : Fin 4, (BitVec.ofNat 5 (t.val * 8)).extractLsb' 0 3 = 0) th))
  have handle : (encI 0x1D (b5 ra) (BitVec.ofNat 5 (th.val * 8)) 0).part 19 2 = b2 th :=
    (part_of_part (encI_ra ..) 3 2 (by omega)).trans
      ((by decide : ∀ t : Fin 4, (BitVec.ofNat 5 (t.val * 8)).extractLsb' 3 2 = b2 t) th)
  have row (w : MWord) (hop : w.part 26 6 = 0x1D) :
      milysDecode l w tail = wordIf (w.zero 0 19) (.fin l (w.r5 21) (w.r2 19)) := by
    rw [milysDecode, hop]
    rfl
  rw [row _ (encI_op ..), zero_append (n := 16) (m := 3) (zero_of_part (encI_imm ..)) zero, r5_of_part (encI_rd ..), r2_of_part handle]
  rfl

theorem decode_waitR {mask : BitVec 2} (h : mask ≠ 0) :
    milysDecode l (encI 0x30 (BitVec.ofNat 5 (mask.toNat * 8)) 0 0) tail = .ok (.waitR l mask) := by
  have zero : (encI 0x30 (BitVec.ofNat 5 (mask.toNat * 8)) 0 0).zero 21 3 = true :=
    zero_of_part ((part_of_part (encI_rd ..) 0 3 (by omega)).trans
      ((by decide : ∀ m : BitVec 2, (BitVec.ofNat 5 (m.toNat * 8)).extractLsb' 0 3 = 0) mask))
  have code : (encI 0x30 (BitVec.ofNat 5 (mask.toNat * 8)) 0 0).part 24 2 = mask :=
    (part_of_part (encI_rd ..) 3 2 (by omega)).trans
      ((by decide : ∀ m : BitVec 2, (BitVec.ofNat 5 (m.toNat * 8)).extractLsb' 3 2 = m) mask)
  have row (w : MWord) (hop : w.part 26 6 = 0x30) :
      milysDecode l w tail = wordIf (w.zero 0 24 && !w.zero 24 2) (.waitR l (w.part 24 2)) := by
    rw [milysDecode, hop]
    rfl
  rw [row _ (encI_op ..),
    zero_append (n := 16) (m := 8) (zero_of_part (encI_imm ..)) (zero_append (n := 5) (m := 3) (zero_of_part (encI_ra ..)) zero), MWord.zero,
    code, beq_eq_false_iff_ne.2 h]
  rfl

theorem decode_jt {ra : Fin 32} {table : List MWord} (hlow : 1 ≤ table.length) (hhigh : table.length ≤ 64) :
    milysDecode l (encI 0x1A 0 (b5 ra) (BitVec.ofNat 16 table.length)) (table ++ tail) = .ok (.jt l ra table) := by
  have len : tableLen (encI 0x1A 0 (b5 ra) (BitVec.ofNat 16 table.length)) = table.length := by
    rw [tableLen, encI_op, if_pos rfl, encI_imm, BitVec.toNat_ofNat]
    omega
  have full : (table.length == 0) = false := by
    rw [beq_eq_false_iff_ne]
    omega
  have few : ¬ 64 < table.length := by omega
  have all : ¬ (table ++ tail).length < table.length := by simp
  have row (w : MWord) (hop : w.part 26 6 = 0x1A) : milysDecode l w (table ++ tail) = jtWord l w (table ++ tail) := by
    rw [milysDecode, hop]
    rfl
  simp only [row _ (encI_op ..), jtWord, len, zero_of_part (encI_rd ..), full, decide_eq_false few, if_neg all, r5_of_part (encI_ra ..),
    List.take_left']
  rfl

/-! ### Formats B and L -/

theorem forwardIf_encB {op : BitVec 6} {ra rb : BitVec 5} {off : BitVec 15} {f : BitVec 15 → Instr} :
    forwardIf (encB op ra rb off) f = .ok (f off) := by
  rw [forwardIf, bit_of_part (encB_zero ..), encB_off]
  rfl

theorem decode_encB {op : BitVec 6} {ra rb : Fin 32} {off : BitVec 15} {f : Fin 32 → Fin 32 → BitVec 15 → Instr}
    (row : ∀ w : MWord, w.part 26 6 = op → milysDecode l w tail = forwardIf w (f (w.r5 21) (w.r5 16))) :
    milysDecode l (encB op (b5 ra) (b5 rb) off) tail = .ok (f ra rb off) := by
  rw [row _ (encB_op ..), forwardIf_encB, r5_of_part (encB_ra ..), r5_of_part (encB_rb ..)]

theorem decode_br {off : BitVec 15} : milysDecode l (encB 0x16 0 0 off) tail = .ok (.br l off) := by
  have row (w : MWord) (hop : w.part 26 6 = 0x16) :
      milysDecode l w tail = if w.zero 16 10 then forwardIf w (.br l) else .error 4 := by
    rw [milysDecode, hop]
    rfl
  rw [row _ (encB_op ..), if_pos (zero_append (n := 5) (m := 5) (zero_of_part (encB_rb ..)) (zero_of_part (encB_ra ..))), forwardIf_encB]

theorem decode_bp {pa : Fin 8} {neg : Bool} {off : BitVec 15} :
    milysDecode l (encB 0x17 (b35 pa) (BitVec.ofNat 5 (b2n neg)) off) tail = .ok (.bp l pa neg off) := by
  have zero : (encB 0x17 (b35 pa) (BitVec.ofNat 5 (b2n neg)) off).zero 17 4 = true :=
    zero_of_part ((part_of_part (encB_rb ..) 1 4 (by omega)).trans ((by decide : ∀ n, (BitVec.ofNat 5 (b2n n)).extractLsb' 1 4 = 0) neg))
  have sense : (encB 0x17 (b35 pa) (BitVec.ofNat 5 (b2n neg)) off).bit 16 = neg :=
    bit_of_part ((part_of_part (encB_rb ..) 0 1 (by omega)).trans ((by decide : ∀ n, (BitVec.ofNat 5 (b2n n)).extractLsb' 0 1 = b1 n) neg))
  have row (w : MWord) (hop : w.part 26 6 = 0x17) :
      milysDecode l w tail = if w.zero 24 2 && w.zero 17 4 then forwardIf w (.bp l (w.r3 21) (w.bit 16)) else .error 4 := by
    rw [milysDecode, hop]
    rfl
  rw [row _ (encB_op ..), zero_of_part5 (encB_ra ..), zero, sense, r3_of_part5 (encB_ra ..), forwardIf_encB]
  rfl

theorem decode_loopR {reg : Option (Fin 32)} {count : BitVec 13} {ix : Fin 32} {body : BitVec 16}
    (hlow : 1 ≤ count.toNat) (hhigh : count.toNat ≤ 4096) (hend : lendDist tail 0 0 0 = some body.toNat) :
    milysDecode l (encL (b1 reg.isSome) (match reg with | some r => b5 r | none => 0) count (b5 ix)) tail =
      .ok (.loopR l reg count ix body) := by
  have accepted : ¬ (count = 0 ∨ 4096 < count.toNat) := by
    rintro (rfl | h)
    · exact absurd hlow (by decide)
    · omega
  have row (w : MWord) (hop : w.part 26 6 = 0x1B) : milysDecode l w tail = loopWord l w tail := by
    rw [milysDecode, hop]
    rfl
  simp only [row _ (encL_op ..), loopWord, zero_of_part (encL_zero ..), bit_of_part (encL_rc ..), encL_count, if_neg accepted, hend,
    r5_of_part (encL_ix ..), BitVec.ofNat_toNat, BitVec.setWidth_eq]
  cases reg with
  | none => rw [zero_of_part (encL_rs ..)]; rfl
  | some r => rw [r5_of_part (encL_rs ..)]; rfl

/-! ### Formats VM and H -/

theorem decode_encVM {op : BitVec 6} {vd : Fin 16} {ra ri : Fin 32} {sc : BitVec 2} {disp : BitVec 10}
    {f : Fin 16 → Fin 32 → Fin 32 → BitVec 2 → BitVec 10 → Instr} (h : sc.toNat < 3)
    (row : ∀ w : MWord, w.part 26 6 = op →
      milysDecode l w tail = wordIf (decide ((w.part 10 2).toNat < 3)) (f (w.r4 22) (w.r5 17) (w.r5 12) (w.part 10 2) (w.part 0 10))) :
    milysDecode l (encVM op (b4 vd) (b5 ra) (b5 ri) sc disp) tail = .ok (f vd ra ri sc disp) := by
  rw [row _ (encVM_op ..), encVM_sc, decide_eq_true h, r4_of_part (encVM_vd ..), r5_of_part (encVM_ra ..), r5_of_part (encVM_ri ..), encVM_disp]
  rfl

theorem decode_encH {op : BitVec 6} {rl rh : Fin 32} {nm1 : BitVec 6} {disp : BitVec 10} {f : Fin 32 → Fin 32 → BitVec 6 → BitVec 10 → Instr}
    (row : ∀ w : MWord, w.part 26 6 = op → milysDecode l w tail = .ok (f (w.r5 21) (w.r5 16) (w.part 10 6) (w.part 0 10))) :
    milysDecode l (encH op (b5 rl) (b5 rh) nm1 disp) tail = .ok (f rl rh nm1 disp) := by
  rw [row _ (encH_op ..), r5_of_part (encH_rl ..), r5_of_part (encH_rh ..), encH_nm1, encH_disp]

/-! ### Format V -/

section
variable {op : BitVec 6} {fn : BitVec 5} {vd va vb vc : Fin 16} {pg : Fin 8} {zm wd : Bool}

theorem decode_encV3 {f : Fin 16 → Fin 16 → Fin 16 → Fin 16 → Fin 8 → Bool → Bool → Instr}
    (row : ∀ w : MWord, w.part 26 6 = op → w.part 0 5 = fn →
      milysDecode l w tail = .ok (f (w.r4 22) (w.r4 18) (w.r4 14) (w.r4 10) (w.r3 7) (w.bit 6) (w.bit 5))) :
    milysDecode l (encV op (b4 vd) (b4 va) (b4 vb) (b4 vc) (b3 pg) (b1 zm) (b1 wd) fn) tail = .ok (f vd va vb vc pg zm wd) := by
  rw [row _ (encV_op ..) (encV_fn ..), r4_of_part (encV_vd ..), r4_of_part (encV_va ..), r4_of_part (encV_vb ..), r4_of_part (encV_vc ..),
    r3_of_part (encV_pg ..), bit_of_part (encV_zm ..), bit_of_part (encV_w ..)]

theorem decode_encV2 {zb wb : BitVec 1} (zero : zb = b1 zm) (hw : wb = b1 wd) {f : Fin 16 → Fin 16 → Fin 16 → Fin 8 → Bool → Bool → Instr}
    (row : ∀ w : MWord, w.part 26 6 = op → w.part 0 5 = fn →
      milysDecode l w tail = wordIf (w.zero 10 4) (f (w.r4 22) (w.r4 18) (w.r4 14) (w.r3 7) (w.bit 6) (w.bit 5))) :
    milysDecode l (encV op (b4 vd) (b4 va) (b4 vb) 0 (b3 pg) zb wb fn) tail = .ok (f vd va vb pg zm wd) := by
  subst zero hw
  rw [row _ (encV_op ..) (encV_fn ..), zero_of_part (encV_vc ..), r4_of_part (encV_vd ..), r4_of_part (encV_va ..), r4_of_part (encV_vb ..),
    r3_of_part (encV_pg ..), bit_of_part (encV_zm ..), bit_of_part (encV_w ..)]
  rfl

theorem decode_encV2_no_w {f : Fin 16 → Fin 16 → Fin 16 → Fin 8 → Bool → Instr}
    (row : ∀ w : MWord, w.part 26 6 = op → w.part 0 5 = fn →
      milysDecode l w tail = wordIf (w.zero 10 4) (f (w.r4 22) (w.r4 18) (w.r4 14) (w.r3 7) (w.bit 6))) :
    milysDecode l (encV op (b4 vd) (b4 va) (b4 vb) 0 (b3 pg) (b1 zm) 0 fn) tail = .ok (f vd va vb pg zm) :=
  decode_encV2 (wd := false) (f := fun d a b p z _ => f d a b p z) rfl rfl row

theorem decode_encV2_no_zm {f : Fin 16 → Fin 16 → Fin 16 → Fin 8 → Bool → Instr}
    (row : ∀ w : MWord, w.part 26 6 = op → w.part 0 5 = fn →
      milysDecode l w tail = wordIf (w.zero 10 4) (f (w.r4 22) (w.r4 18) (w.r4 14) (w.r3 7) (w.bit 5))) :
    milysDecode l (encV op (b4 vd) (b4 va) (b4 vb) 0 (b3 pg) 0 (b1 wd) fn) tail = .ok (f vd va vb pg wd) :=
  decode_encV2 (zm := false) (f := fun d a b p _ w => f d a b p w) rfl rfl row

theorem decode_encV1 {wb : BitVec 1} (hw : wb = b1 wd) {f : Fin 16 → Fin 16 → Fin 8 → Bool → Bool → Instr}
    (row : ∀ w : MWord, w.part 26 6 = op → w.part 0 5 = fn →
      milysDecode l w tail = wordIf (w.zero 10 8) (f (w.r4 22) (w.r4 18) (w.r3 7) (w.bit 6) (w.bit 5))) :
    milysDecode l (encV op (b4 vd) (b4 va) 0 0 (b3 pg) (b1 zm) wb fn) tail = .ok (f vd va pg zm wd) := by
  subst hw
  rw [row _ (encV_op ..) (encV_fn ..), zero_append (n := 4) (m := 4) (zero_of_part (encV_vc ..)) (zero_of_part (encV_vb ..)),
    r4_of_part (encV_vd ..), r4_of_part (encV_va ..), r3_of_part (encV_pg ..), bit_of_part (encV_zm ..), bit_of_part (encV_w ..)]
  rfl

theorem decode_encV1_no_w {f : Fin 16 → Fin 16 → Fin 8 → Bool → Instr}
    (row : ∀ w : MWord, w.part 26 6 = op → w.part 0 5 = fn →
      milysDecode l w tail = wordIf (w.zero 10 8) (f (w.r4 22) (w.r4 18) (w.r3 7) (w.bit 6))) :
    milysDecode l (encV op (b4 vd) (b4 va) 0 0 (b3 pg) (b1 zm) 0 fn) tail = .ok (f vd va pg zm) :=
  decode_encV1 (wd := false) (f := fun d a p z _ => f d a p z) rfl row

theorem decode_encV_cmp {pd : Fin 8} {f : Fin 8 → Fin 16 → Fin 16 → Fin 8 → Bool → Bool → Instr}
    (row : ∀ w : MWord, w.part 26 6 = op → w.part 0 5 = fn →
      milysDecode l w tail = wordIf (w.zero 25 1 && w.zero 10 4) (f (w.r3 22) (w.r4 18) (w.r4 14) (w.r3 7) (w.bit 6) (w.bit 5))) :
    milysDecode l (encV op (b34 pd) (b4 va) (b4 vb) 0 (b3 pg) (b1 zm) (b1 wd) fn) tail = .ok (f pd va vb pg zm wd) := by
  rw [row _ (encV_op ..) (encV_fn ..), zero_of_part4 (encV_vd ..), zero_of_part (encV_vc ..), r3_of_part4 (encV_vd ..), r4_of_part (encV_va ..),
    r4_of_part (encV_vb ..), r3_of_part (encV_pg ..), bit_of_part (encV_zm ..), bit_of_part (encV_w ..)]
  rfl

end

section
variable {vd va vb : Fin 16} {pg : Fin 8} {zm : Bool}

theorem decode_vcvtw {part : BitVec 4} (h : part.toNat < 4) :
    milysDecode l (encV 0x33 (b4 vd) (b4 va) 0 part (b3 pg) (b1 zm) 0 0) tail = .ok (.vcvtw l vd va part pg zm) := by
  have zero : (encV 0x33 (b4 vd) (b4 va) 0 part (b3 pg) (b1 zm) 0 0).zero 12 2 = true :=
    zero_of_part ((part_of_part (encV_vc ..) 2 2 (by omega)).trans
      ((by decide : ∀ p : BitVec 4, p.toNat < 4 → p.extractLsb' 2 2 = 0) part h))
  have row (w : MWord) (hop : w.part 26 6 = 0x33) (hfn : w.part 0 5 = 0) :
      milysDecode l w tail = wordIf (w.zero 14 4 && w.zero 12 2) (.vcvtw l (w.r4 22) (w.r4 18) (w.part 10 4) (w.r3 7) (w.bit 6)) := by
    rw [milysDecode_vconv hop, vconvWord, hfn]
    rfl
  rw [row _ (encV_op ..) (encV_fn ..), zero_of_part (encV_vb ..), zero, r4_of_part (encV_vd ..), r4_of_part (encV_va ..), encV_vc,
    r3_of_part (encV_pg ..), bit_of_part (encV_zm ..)]
  rfl

theorem decode_vnrw {half : BitVec 4} (h : half.toNat < 2) :
    milysDecode l (encV 0x33 (b4 vd) (b4 va) (b4 vb) half (b3 pg) (b1 zm) 0 1) tail = .ok (.vnrw l vd va vb half pg zm) := by
  have zero : (encV 0x33 (b4 vd) (b4 va) (b4 vb) half (b3 pg) (b1 zm) 0 1).zero 11 3 = true :=
    zero_of_part ((part_of_part (encV_vc ..) 1 3 (by omega)).trans
      ((by decide : ∀ p : BitVec 4, p.toNat < 2 → p.extractLsb' 1 3 = 0) half h))
  have row (w : MWord) (hop : w.part 26 6 = 0x33) (hfn : w.part 0 5 = 1) :
      milysDecode l w tail = wordIf (w.zero 11 3) (.vnrw l (w.r4 22) (w.r4 18) (w.r4 14) (w.part 10 4) (w.r3 7) (w.bit 6)) := by
    rw [milysDecode_vconv hop, vconvWord, hfn]
    rfl
  rw [row _ (encV_op ..) (encV_fn ..), zero, r4_of_part (encV_vd ..), r4_of_part (encV_va ..), r4_of_part (encV_vb ..), encV_vc,
    r3_of_part (encV_pg ..), bit_of_part (encV_zm ..)]
  rfl

end

/-! ### Format VX -/

section
variable {vd va : Fin 16} {sa : Fin 32} {imm : BitVec 6} {wd : Bool} {fn : BitVec 5}

theorem decode_vmov : milysDecode l (encVX (b4 vd) (b4 va) 0 0 0 0) tail = .ok (.vmov l vd va) := by
  have row (w : MWord) (hop : w.part 26 6 = 0x35) (hfn : w.part 0 5 = 0) :
      milysDecode l w tail = wordIf (w.zero 7 11 && w.zero 6 1) (.vmov l (w.r4 22) (w.r4 18)) := by
    rw [milysDecode_vmov hop, vmovWord, hfn]
    rfl
  rw [row _ (encVX_op ..) (encVX_fn ..), zero_append (n := 6) (m := 5) (zero_of_part (encVX_imm ..)) (zero_of_part (encVX_sa ..)),
    zero_of_part (encVX_zero ..), r4_of_part (encVX_vd ..), r4_of_part (encVX_va ..)]
  rfl

theorem decode_encVX_to {f : Fin 16 → Fin 32 → BitVec 6 → Bool → Instr}
    (row : ∀ w : MWord, w.part 26 6 = 0x35 → w.part 0 5 = fn →
      milysDecode l w tail = wordIf (w.zero 18 4 && w.zero 6 1) (f (w.r4 22) (w.r5 13) (w.part 7 6) (w.bit 5))) :
    milysDecode l (encVX (b4 vd) 0 (b5 sa) imm (b1 wd) fn) tail = .ok (f vd sa imm wd) := by
  rw [row _ (encVX_op ..) (encVX_fn ..), zero_of_part (encVX_va ..), zero_of_part (encVX_zero ..), r4_of_part (encVX_vd ..),
    r5_of_part (encVX_sa ..), encVX_imm, bit_of_part (encVX_w ..)]
  rfl

theorem decode_vext : milysDecode l (encVX 0 (b4 va) (b5 sa) imm (b1 wd) 2) tail = .ok (.vext l sa va imm wd) := by
  have row (w : MWord) (hop : w.part 26 6 = 0x35) (hfn : w.part 0 5 = 2) :
      milysDecode l w tail = wordIf (w.zero 22 4 && w.zero 6 1) (.vext l (w.r5 13) (w.r4 18) (w.part 7 6) (w.bit 5)) := by
    rw [milysDecode_vmov hop, vmovWord, hfn]
    rfl
  rw [row _ (encVX_op ..) (encVX_fn ..), zero_of_part (encVX_vd ..), zero_of_part (encVX_zero ..), r5_of_part (encVX_sa ..),
    r4_of_part (encVX_va ..), encVX_imm, bit_of_part (encVX_w ..)]
  rfl

end

/-! ### Formats T and TT -/

section
variable {td ts : Fin 4} {sa : Fin 32} {fn : BitVec 5}

theorem decode_encT {vd : Fin 16} {imm : BitVec 6} {f : Fin 16 → Fin 4 → Fin 32 → BitVec 6 → Instr}
    (row : ∀ w : MWord, w.part 26 6 = 0x36 → w.part 0 5 = fn →
      milysDecode l w tail = wordIf (w.zero 5 4) (f (w.r4 22) (w.r2 20) (w.r5 15) (w.part 9 6))) :
    milysDecode l (encT (b4 vd) (b2 td) (b5 sa) imm fn) tail = .ok (f vd td sa imm) := by
  rw [row _ (encT_op ..) (encT_fn ..), zero_of_part (encT_zero ..), r4_of_part (encT_vd ..), r2_of_part (encT_th ..), r5_of_part (encT_sa ..),
    encT_imm]
  rfl

theorem decode_vmxp {vd : Fin 16} (h : vd.val % 2 = 0) : milysDecode l (encT (b4 vd) (b2 td) (b5 sa) 0 3) tail = .ok (.vmxp l vd td sa) := by
  have even : (encT (b4 vd) (b2 td) (b5 sa) 0 3).zero 22 1 = true :=
    zero_of_part ((part_of_part (encT_vd ..) 0 1 (by omega)).trans
      ((by decide : ∀ v : Fin 16, v.val % 2 = 0 → (b4 v).extractLsb' 0 1 = 0) vd h))
  have row (w : MWord) (hop : w.part 26 6 = 0x36) (hfn : w.part 0 5 = 3) :
      milysDecode l w tail = wordIf (w.zero 5 4 && w.zero 9 6 && w.zero 22 1) (.vmxp l (w.r4 22) (w.r2 20) (w.r5 15)) := by
    rw [milysDecode_tile hop, tileWord, hfn]
    rfl
  rw [row _ (encT_op ..) (encT_fn ..), zero_of_part (encT_zero ..), zero_of_part (encT_imm ..), even, r4_of_part (encT_vd ..),
    r2_of_part (encT_th ..), r5_of_part (encT_sa ..)]
  rfl

theorem decode_encTT_two {f : Fin 4 → Fin 4 → Instr}
    (row : ∀ w : MWord, w.part 26 6 = 0x37 → w.part 0 5 = fn →
      milysDecode l w tail = wordIf (w.zero 5 7 && w.zero 21 5 && w.zero 12 5) (f (w.r2 19) (w.r2 17))) :
    milysDecode l (encTT 0 (b2 td) (b2 ts) 0 fn) tail = .ok (f td ts) := by
  rw [row _ (encTT_op ..) (encTT_fn ..), zero_of_part (encTT_zero ..), zero_of_part (encTT_rd ..), zero_of_part (encTT_sa ..),
    r2_of_part (encTT_td ..), r2_of_part (encTT_ts ..)]
  rfl

theorem decode_encTT_one {f : Fin 4 → Instr}
    (row : ∀ w : MWord, w.part 26 6 = 0x37 → w.part 0 5 = fn →
      milysDecode l w tail = wordIf (w.zero 5 7 && w.zero 21 5 && w.zero 17 2 && w.zero 12 5) (f (w.r2 19))) :
    milysDecode l (encTT 0 (b2 td) 0 0 fn) tail = .ok (f td) := by
  rw [row _ (encTT_op ..) (encTT_fn ..), zero_of_part (encTT_zero ..), zero_of_part (encTT_rd ..), zero_of_part (encTT_ts ..),
    zero_of_part (encTT_sa ..), r2_of_part (encTT_td ..)]
  rfl

theorem decode_tmuls : milysDecode l (encTT 0 (b2 td) 0 (b5 sa) 1) tail = .ok (.tmuls l td sa) := by
  have row (w : MWord) (hop : w.part 26 6 = 0x37) (hfn : w.part 0 5 = 1) :
      milysDecode l w tail = wordIf (w.zero 5 7 && w.zero 21 5 && w.zero 17 2) (.tmuls l (w.r2 19) (w.r5 12)) := by
    rw [milysDecode_top hop, topWord, hfn]
    rfl
  rw [row _ (encTT_op ..) (encTT_fn ..), zero_of_part (encTT_zero ..), zero_of_part (encTT_rd ..), zero_of_part (encTT_ts ..),
    r2_of_part (encTT_td ..), r5_of_part (encTT_sa ..)]
  rfl

theorem decode_tcrc {rd : Fin 32} : milysDecode l (encTT (b5 rd) (b2 td) 0 0 4) tail = .ok (.tcrc l rd td) := by
  have row (w : MWord) (hop : w.part 26 6 = 0x37) (hfn : w.part 0 5 = 4) :
      milysDecode l w tail = wordIf (w.zero 5 7 && w.zero 17 2 && w.zero 12 5) (.tcrc l (w.r5 21) (w.r2 19)) := by
    rw [milysDecode_top hop, topWord, hfn]
    rfl
  rw [row _ (encTT_op ..) (encTT_fn ..), zero_of_part (encTT_zero ..), zero_of_part (encTT_ts ..), zero_of_part (encTT_sa ..),
    r5_of_part (encTT_rd ..), r2_of_part (encTT_td ..)]
  rfl

/-! ### Format E -/

theorem decode_emit {rh rp : Fin 32} : milysDecode l (encE (b5 rh) (b5 rp) 0 0) tail = .ok (.emit l rh rp) := by
  have row (w : MWord) (hop : w.part 26 6 = 0x38) (hfn : w.part 0 5 = 0) :
      milysDecode l w tail = wordIf (w.zero 5 11) (.emit l (w.r5 21) (w.r5 16)) := by
    rw [milysDecode_emit hop, emitWord, hfn]
    rfl
  rw [row _ (encE_op ..) (encE_fn ..), zero_append (n := 9) (m := 2) (zero_of_part (encE_zero ..)) (zero_of_part (encE_th ..)),
    r5_of_part (encE_rh ..), r5_of_part (encE_rp ..)]
  rfl

theorem decode_emitt {rh : Fin 32} : milysDecode l (encE (b5 rh) 0 (b2 td) 1) tail = .ok (.emitt l rh td) := by
  have row (w : MWord) (hop : w.part 26 6 = 0x38) (hfn : w.part 0 5 = 1) :
      milysDecode l w tail = wordIf (w.zero 5 9 && w.zero 16 5) (.emitt l (w.r5 21) (w.r2 14)) := by
    rw [milysDecode_emit hop, emitWord, hfn]
    rfl
  rw [row _ (encE_op ..) (encE_fn ..), zero_of_part (encE_zero ..), zero_of_part (encE_rp ..), r5_of_part (encE_rh ..), r2_of_part (encE_th ..)]
  rfl

end
end

/-! ## The round trip -/

/-- The words `ws` before `tail` decode to `i` on some cell. -/
def DecodesTo (ws tail : List MWord) (i : Instr) : Prop :=
  ∃ (l : Fin 6144) (w : MWord) (rest : List MWord), ws = w :: rest ∧ milysDecode l w (rest ++ tail) = .ok i

theorem decodesTo_of_words {l : Fin 6144} {w : MWord} {rest ws tail : List MWord} {i : Instr} (hws : some (w :: rest) = some ws)
    (hd : milysDecode l w (rest ++ tail) = .ok i) : DecodesTo ws tail i :=
  ⟨l, w, rest, (Option.some.inj hws).symm, hd⟩

theorem decodesTo_of_word {l : Fin 6144} {w : MWord} {ws tail : List MWord} {i : Instr} (hws : some [w] = some ws)
    (hd : milysDecode l w tail = .ok i) : DecodesTo ws tail i :=
  decodesTo_of_words hws hd

/-- Settles O8: the opcode and the sub-operation of the word that an instruction is made of choose its row, and the row reads the operands back. -/
theorem milysRoundTrip : Obligations.MilysRoundTrip := by
  intro i back ws tail hwf henc hback hloop
  change DecodesTo ws tail i
  cases i with
  | add l rd ra rb | sub l rd ra rb | andR l rd ra rb | orR l rd ra rb | xorR l rd ra rb | sll l rd ra rb | srl l rd ra rb | sra l rd ra rb
  | mul l rd ra rb | mulhu l rd ra rb | minR l rd ra rb | maxR l rd ra rb | minu l rd ra rb | maxu l rd ra rb | slt l rd ra rb | sltu l rd ra rb
  | crc l rd ra rb | crcb l rd ra rb =>
    exact decodesTo_of_word henc (decode_encR fun w hop hfn => by rw [milysDecode_alu hop, aluWord, hfn]; rfl)
  | samoAdd l rd ra rb | samoSwap l rd ra rb | samoCas l rd ra rb | samoMax l rd ra rb =>
    exact decodesTo_of_word henc (decode_encR fun w hop hfn => by rw [milysDecode_samo hop, samoWord, hfn]; rfl)
  | pand l pd pa pb | por l pd pa pb | pxor l pd pa pb =>
    exact decodesTo_of_word henc (decode_encR_pred3 fun w hop hfn => by rw [milysDecode_pred hop, predWord, hfn]; rfl)
  | pnot l pd pa => exact decodesTo_of_word henc (decode_encR_pred2 fun w hop hfn => by rw [milysDecode_pred hop, predWord, hfn]; rfl)
  | pfroms l pd sa => exact decodesTo_of_word henc (decode_encR_to_pred fun w hop hfn => by rw [milysDecode_pred hop, predWord, hfn]; rfl)
  | sfromp l sd pa | pcnt l sd pa =>
    exact decodesTo_of_word henc (decode_encR_of_pred fun w hop hfn => by rw [milysDecode_pred hop, predWord, hfn]; rfl)
  | gpior l rd ra | cntrd l rd ra =>
    exact decodesTo_of_word henc (decode_encR_two fun w hop hfn => by rw [milysDecode_sys hop, sysWord, hfn]; rfl)
  | gpiow l ra rb => exact decodesTo_of_word henc decode_gpiow
  | rdsys l rd aux => exact decodesTo_of_word henc (decode_rdsys (of_decide_eq_true hwf))
  | addi l rd ra imm | andi l rd ra imm | ori l rd ra imm | xori l rd ra imm | ld8u l rd ra imm | ld16u l rd ra imm | ld32u l rd ra imm
  | ld64 l rd ra imm | st8 l rd ra imm | st16 l rd ra imm | st32 l rd ra imm | st64 l rd ra imm | sld l rd ra imm | sst l rd ra imm =>
    exact decodesTo_of_word henc (decode_encI fun w hop => by rw [milysDecode, hop]; rfl)
  | slli l rd ra sh | srli l rd ra sh | srai l rd ra sh =>
    exact decodesTo_of_word henc (decode_encSh fun w hop => by rw [milysDecode, hop]; rfl)
  | call l imm | trap l imm =>
    exact decodesTo_of_word henc (decode_encI_imm fun w hop => by rw [milysDecode, hop]; rfl)
  | ret l | endR l | fence l =>
    exact decodesTo_of_word henc (decode_encI_none fun w hop => by rw [milysDecode, hop]; rfl)
  | lui l rd imm sh => exact decodesTo_of_word henc decode_lui
  | setfmt l f => exact decodesTo_of_word henc (decode_setfmt (of_decide_eq_true hwf))
  | setrnd l v => exact decodesTo_of_word henc (decode_setrnd (of_decide_eq_true hwf))
  | rdctl l rd => exact decodesTo_of_word henc decode_rdctl
  | wrctl l ra => exact decodesTo_of_word henc decode_wrctl
  | lend l => exact decodesTo_of_word henc (decode_lend hback)
  | fin l ra th => exact decodesTo_of_word henc decode_fin
  | waitR l mask => exact decodesTo_of_word henc (decode_waitR (bne_iff_ne.1 hwf))
  | beq l ra rb off | bne l ra rb off | blt l ra rb off | bge l ra rb off | bltu l ra rb off | bgeu l ra rb off =>
    exact decodesTo_of_word henc (decode_encB fun w hop => by rw [milysDecode, hop]; rfl)
  | br l off => exact decodesTo_of_word henc decode_br
  | bp l pa neg off => exact decodesTo_of_word henc decode_bp
  | vld l vd ra ri sc disp | vst l vd ra ri sc disp =>
    exact decodesTo_of_word henc (decode_encVM (of_decide_eq_true hwf) fun w hop => by rw [milysDecode, hop]; rfl)
  | hld l rl rh nm1 disp | hst l rl rh nm1 disp =>
    exact decodesTo_of_word henc (decode_encH fun w hop => by rw [milysDecode, hop]; rfl)
  | vfma l vd va vb vc pg zm wd | vfms l vd va vb vc pg zm wd =>
    exact decodesTo_of_word henc (decode_encV3 fun w hop hfn => by rw [milysDecode_varith hop, varithWord, hfn]; rfl)
  | vadd l vd va vb pg zm wd | vsub l vd va vb pg zm wd | vmul l vd va vb pg zm wd | vmax l vd va vb pg zm wd | vmin l vd va vb pg zm wd =>
    exact decodesTo_of_word henc (decode_encV2 rfl rfl fun w hop hfn => by rw [milysDecode_varith hop, varithWord, hfn]; rfl)
  | vand l vd va vb pg zm | vor l vd va vb pg zm | vxor l vd va vb pg zm =>
    exact decodesTo_of_word henc (decode_encV2_no_w fun w hop hfn => by rw [milysDecode_varith hop, varithWord, hfn]; rfl)
  | vsel l vd va vb pg wd =>
    exact decodesTo_of_word henc (decode_encV2_no_zm fun w hop hfn => by rw [milysDecode_varith hop, varithWord, hfn]; rfl)
  | vabs l vd va pg zm wd | vneg l vd va pg zm wd | vrcp l vd va pg zm wd | vrsqrt l vd va pg zm wd =>
    exact decodesTo_of_word henc (decode_encV1 rfl fun w hop hfn => by rw [milysDecode_varith hop, varithWord, hfn]; rfl)
  | vi2f l vd va pg zm | vf2i l vd va pg zm =>
    exact decodesTo_of_word henc (decode_encV1_no_w fun w hop hfn => by rw [milysDecode_vconv hop, vconvWord, hfn]; rfl)
  | vcvtw l vd va part pg zm => exact decodesTo_of_word henc (decode_vcvtw (of_decide_eq_true hwf))
  | vnrw l vd va vb half pg zm => exact decodesTo_of_word henc (decode_vnrw (of_decide_eq_true hwf))
  | vcmpEq l pd va vb pg zm wd | vcmpLt l pd va vb pg zm wd | vcmpLe l pd va vb pg zm wd | vcmpUnord l pd va vb pg zm wd =>
    exact decodesTo_of_word henc (decode_encV_cmp fun w hop hfn => by rw [milysDecode_vcmp hop, vcmpWord, hfn]; rfl)
  | vmov l vd va => exact decodesTo_of_word henc decode_vmov
  | vbcast l vd sa imm wd | vins l vd sa imm wd =>
    exact decodesTo_of_word henc (decode_encVX_to fun w hop hfn => by rw [milysDecode_vmov hop, vmovWord, hfn]; rfl)
  | vext l sa va imm wd => exact decodesTo_of_word henc decode_vext
  | tld l vd th sa imm | tst l vd th sa imm | vmxu l vd th sa imm =>
    exact decodesTo_of_word henc (decode_encT fun w hop hfn => by rw [milysDecode_tile hop, tileWord, hfn]; rfl)
  | vmxp l vd th sa => exact decodesTo_of_word henc (decode_vmxp (beq_iff_eq.1 hwf))
  | tadd l td ts | tcopy l td ts =>
    exact decodesTo_of_word henc (decode_encTT_two fun w hop hfn => by rw [milysDecode_top hop, topWord, hfn]; rfl)
  | tzero l td | talloc l td | tfree l td =>
    exact decodesTo_of_word henc (decode_encTT_one fun w hop hfn => by rw [milysDecode_top hop, topWord, hfn]; rfl)
  | tmuls l td sa => exact decodesTo_of_word henc decode_tmuls
  | tcrc l rd td => exact decodesTo_of_word henc decode_tcrc
  | emit l rh rp => exact decodesTo_of_word henc decode_emit
  | emitt l rh th => exact decodesTo_of_word henc decode_emitt
  | jt l ra table =>
    obtain ⟨hlow, hhigh⟩ := Bool.and_eq_true_iff.1 hwf
    exact decodesTo_of_words henc (decode_jt (of_decide_eq_true hlow) (of_decide_eq_true hhigh))
  | loopR l reg count ix body =>
    obtain ⟨hlow, hhigh⟩ := Bool.and_eq_true_iff.1 hwf
    exact decodesTo_of_word henc (decode_loopR (of_decide_eq_true hlow) (of_decide_eq_true hhigh) (hloop _ _ _ _ _ rfl))
  | _ => cases henc

end Sys2Proof.Machine
end

section
/-!
PROOFS. The registers of a handler (R153, R155, R173): O12 and O23.
-/
namespace Sys2Proof.Machine
open Sys2Proof

/-- Settles O12: a register other than s0 and p0 reads what was last written to it. -/
theorem fixedRegisters : Obligations.FixedRegisters := by
  intro r
  exact ⟨gS_zero r, gP_zero r, pS_zero r, pP_zero r, fun i j v h => ⟨gS_pS_ne r v h, gP_pP_ne r v h⟩, fun i v => gS_pS_same r v,
    fun i v => gP_pP_same r v⟩

/-! ## Merged vector registers -/

theorem el_ofNat {w i x : Nat} (h : w * i + w ≤ 512) : el w (BitVec.ofNat 512 x) i = bits x (w * i) w := by
  refine Nat.eq_of_testBit_eq fun j => ?_
  rw [el, testBit_bits, testBit_bits, BitVec.testBit_toNat, BitVec.getLsbD_ofNat]
  by_cases hj : j < w
  · have inside : w * i + j < 512 := by omega
    simp [inside]
  · simp [hj]

/-- The elements of a register, one after another, do not meet. -/
theorem fieldsDisjoint_elements {w : Nat} {v : Nat → Nat} {l : List Nat} (h : l.Pairwise (· < ·)) :
    fieldsDisjoint (l.map fun i => (w * i, w, v i)) = true := by
  induction h with
  | nil => rfl
  | @cons a l later _ ih =>
    have apart : fieldsApart (w * a) w (l.map fun i => (w * i, w, v i)) = true := by
      rw [fieldsApart, List.all_map, List.all_eq_true]
      intro j hj
      have above : w * (a + 1) ≤ w * j := Nat.mul_le_mul_left w (later j hj)
      exact Bool.or_eq_true_iff.2 (.inr (decide_eq_true above))
    rw [List.map_cons, fieldsDisjoint, apart, ih]
    rfl

theorem el_ofNat_packBits {n w i : Nat} {v : Nat → Nat} (hn : n * w ≤ 512) (hi : i < n) :
    el w (BitVec.ofNat 512 (packBits ((List.range n).map fun i => (w * i, w, v i)))) i = v i % 2 ^ w := by
  have inside : w * i + w ≤ 512 := calc
    w * i + w = (i + 1) * w := by rw [Nat.succ_mul, Nat.mul_comm]
    _ ≤ n * w := Nat.mul_le_mul_right w hi
    _ ≤ 512 := hn
  rw [el_ofNat inside]
  exact bits_packBits_of_mem (fieldsDisjoint_elements List.pairwise_lt_range) (List.mem_map.2 ⟨i, List.mem_range.2 hi, rfl⟩)

/-- Settles O23: the fields of a merged register are its elements, and each reads back at its width. -/
theorem mergedElements : Obligations.MergedElements := by
  intro n w old act zm new i _ hn hi
  rw [merge, el_ofNat_packBits (v := fun i => if act i then new.getD i 0 else if zm then 0 else el w old i) hn hi]
  split
  · rfl
  · split
    · exact Nat.zero_mod _
    · exact Nat.mod_mod _ _

end Sys2Proof.Machine
end

section
/-!
PROOFS. The scalar, control-register and predicate instructions (R172): O10 and O11.
-/
namespace Sys2Proof.Machine
open Sys2Proof

section
variable {m : String} {ok : Bool} {o : Host.Outcome State Fault Refusal}

theorem loaded_accepts (h : ok = true) : loaded m ok o = o := if_pos h

theorem loaded_rejects (h : ok = false) : loaded m ok o = noLoad m := if_neg (Bool.eq_false_iff.1 h)

end

section
variable {s : State} {l : Fin 6144} {r : CellRun} (h : cellRun s l = some r) {c : Instr} {cost : Nat} {regs : List Nat} {f : CellRun → State → Res}
include h

/-- An instruction that goes on. -/
theorem exec_of_ok (hc : exec c s = both (ins s l cost regs f)) {r' : CellRun} {s' : State}
    (hf : f (atIns s l cost regs r).1 (atIns s l cost regs r).2 = .ok r' s') : exec c s = .next (setRun s' l r') :=
  hc.trans (congrArg Host.Outcome.next (ins_of_ok h hf))

/-- An instruction that faults. -/
theorem exec_of_fault (hc : exec c s = both (ins s l cost regs f)) {code imm : Nat}
    (hf : f (atIns s l cost regs r).1 (atIns s l cost regs r).2 = .fault code imm) : exec c s = faults s l cost regs r code imm :=
  hc.trans (ins_of_fault h hf)

/-- An instruction without scalar registers waits for nothing. -/
theorem exec_of_ok_no_regs (hc : exec c s = both (ins s l cost [] f)) {r' : CellRun} {s' : State}
    (hf : f { r with pc := r.pc + 1, cycles := r.cycles + cost } s = .ok r' s') : exec c s = .next (setRun s' l r') := by
  refine exec_of_ok h hc ?_
  rw [atIns_no_regs]
  exact hf

/-! ## Scalar results -/

variable {rd ra rb : Fin 32} {v : BitVec 64}

theorem alu_value {g : BitVec 64 → BitVec 64 → BitVec 64}
    (hv : g (gS (atIns s l 1 [rd, ra, rb] r).1 ra) (gS (atIns s l 1 [rd, ra, rb] r).1 rb) = v) :
    alu s l rd ra rb g = .next (setRun (atIns s l 1 [rd, ra, rb] r).2 l (pS (atIns s l 1 [rd, ra, rb] r).1 rd v)) :=
  congrArg Host.Outcome.next (ins_of_ok h (by rw [hv]))

theorem aluImm_value {g : BitVec 64 → BitVec 64} (hv : g (gS (atIns s l 1 [rd, ra] r).1 ra) = v) :
    aluImm s l rd ra g = .next (setRun (atIns s l 1 [rd, ra] r).2 l (pS (atIns s l 1 [rd, ra] r).1 rd v)) :=
  congrArg Host.Outcome.next (ins_of_ok h (by rw [hv]))

end

/-! What the signed and unsigned operations answer, as integers. -/

section
variable {a b : BitVec 64}

theorem mul_eq_ofNat : a * b = BitVec.ofNat 64 (a.toNat * b.toNat) := BitVec.eq_of_toNat_eq (by simp)

theorem smin_eq_ofInt : (if a.slt b then a else b) = BitVec.ofInt 64 (min a.toInt b.toInt) := by
  rw [BitVec.slt_eq_decide]
  by_cases hlt : a.toInt < b.toInt
  · simp [hlt, min_eq_left hlt.le]
  · simp [hlt, min_eq_right (not_lt.1 hlt)]

theorem smax_eq_ofInt : (if a.slt b then b else a) = BitVec.ofInt 64 (max a.toInt b.toInt) := by
  rw [BitVec.slt_eq_decide]
  by_cases hlt : a.toInt < b.toInt
  · simp [hlt, max_eq_right hlt.le]
  · simp [hlt, max_eq_left (not_lt.1 hlt)]

theorem umin_eq_ofNat : (if a.ult b then a else b) = BitVec.ofNat 64 (min a.toNat b.toNat) := by
  rw [BitVec.ult_eq_decide]
  by_cases hlt : a.toNat < b.toNat
  · simp [hlt, min_eq_left hlt.le]
  · simp [hlt, min_eq_right (not_lt.1 hlt)]

theorem umax_eq_ofNat : (if a.ult b then b else a) = BitVec.ofNat 64 (max a.toNat b.toNat) := by
  rw [BitVec.ult_eq_decide]
  by_cases hlt : a.toNat < b.toNat
  · simp [hlt, max_eq_right hlt.le]
  · simp [hlt, max_eq_left (not_lt.1 hlt)]

theorem flag_slt : flag (a.slt b) = if a.toInt < b.toInt then 1 else 0 := by
  simp [flag, BitVec.slt_eq_decide]

theorem flag_ult : flag (a.ult b) = if a.toNat < b.toNat then 1 else 0 := by
  simp [flag, BitVec.ult_eq_decide]

section
variable {imm : BitVec 16}

theorem and_zeroExtend : a &&& imm.zeroExtend 64 = a &&& BitVec.ofNat 64 imm.toNat := by rw [BitVec.ofNat_toNat]

theorem or_zeroExtend : a ||| imm.zeroExtend 64 = a ||| BitVec.ofNat 64 imm.toNat := by rw [BitVec.ofNat_toNat]

theorem xor_zeroExtend : a ^^^ imm.zeroExtend 64 = a ^^^ BitVec.ofNat 64 imm.toNat := by rw [BitVec.ofNat_toNat]

end

theorem shiftLeft_eq_ofNat {k : Nat} : a <<< k = BitVec.ofNat 64 (a.toNat * 2 ^ k) := BitVec.eq_of_toNat_eq (by simp [Nat.shiftLeft_eq])

theorem ushiftRight_eq_ofNat {k : Nat} : a >>> k = BitVec.ofNat 64 (a.toNat / 2 ^ k) := by
  rw [← Nat.shiftRight_eq_div_pow, ← BitVec.toNat_ushiftRight, BitVec.ofNat_toNat, BitVec.setWidth_eq]

theorem sshiftRight_eq_ofInt {k : Nat} : a.sshiftRight k = BitVec.ofInt 64 (a.toInt / 2 ^ k) := by
  rw [BitVec.sshiftRight, Int.shiftRight_eq_div_pow]
  norm_cast

end

/-- Settles O10: each instruction is `alu` or `aluImm` of its operation, whose value is the one that the manual gives. -/
theorem scalarResults : Obligations.ScalarResults := by
  refine ⟨fun s l r rd ra rb h => ?_, fun s l r rd ra imm sh k h => ⟨?_, (aluImm_value (ra := 0) h rfl : execLui l rd imm k s = _)⟩⟩
  · simp only [List.forall_mem_cons]
    exact ⟨(alu_value h rfl : execAdd l rd ra rb s = _), (alu_value h rfl : execSub l rd ra rb s = _),
      (alu_value h rfl : execAndR l rd ra rb s = _), (alu_value h rfl : execOrR l rd ra rb s = _), (alu_value h rfl : execXorR l rd ra rb s = _),
      (alu_value h rfl : execSll l rd ra rb s = _), (alu_value h rfl : execSrl l rd ra rb s = _), (alu_value h rfl : execSra l rd ra rb s = _),
      (alu_value h mul_eq_ofNat : execMul l rd ra rb s = _), (alu_value h rfl : execMulhu l rd ra rb s = _),
      (alu_value h smin_eq_ofInt : execMinR l rd ra rb s = _), (alu_value h smax_eq_ofInt : execMaxR l rd ra rb s = _),
      (alu_value h umin_eq_ofNat : execMinu l rd ra rb s = _), (alu_value h umax_eq_ofNat : execMaxu l rd ra rb s = _),
      (alu_value h flag_slt : execSlt l rd ra rb s = _), (alu_value h flag_ult : execSltu l rd ra rb s = _),
      (alu_value h rfl : execCrc l rd ra rb s = _), (alu_value h rfl : execCrcb l rd ra rb s = _), List.forall_mem_nil _⟩
  · simp only [List.forall_mem_cons]
    exact ⟨(aluImm_value h rfl : execAddi l rd ra imm s = _), (aluImm_value h and_zeroExtend : execAndi l rd ra imm s = _),
      (aluImm_value h or_zeroExtend : execOri l rd ra imm s = _), (aluImm_value h xor_zeroExtend : execXori l rd ra imm s = _),
      (aluImm_value h shiftLeft_eq_ofNat : execSlli l rd ra sh s = _), (aluImm_value h ushiftRight_eq_ofNat : execSrli l rd ra sh s = _),
      (aluImm_value h sshiftRight_eq_ofInt : execSrai l rd ra sh s = _), List.forall_mem_nil _⟩

/-! ## FMT, RND and predicates -/

section
variable {s : State} {l : Fin 6144} {r : CellRun} (h : cellRun s l = some r)
include h

omit h in
/-- RND lies in bits 5:4 of the control word. -/
theorem rnd_of_bits (x : Nat) : bits x 4 2 = x / 16 % 4 := congrArg (· % 4) (Nat.shiftRight_eq_div_pow x 4)

theorem exec_predOp {c : Instr} {pd pa pb : Fin 8} {g : BitVec 64 → BitVec 64 → BitVec 64} (hc : exec c s = predOp s l pd pa pb g) :
    exec c s = .next (setRun s l (pP { r with pc := r.pc + 1, cycles := r.cycles + 1 } pd (g (gP r pa) (gP r pb)))) :=
  exec_of_ok_no_regs h hc rfl

theorem exec_setfmt {f : BitVec 4} (hf : f.toNat < 14) : exec (.setfmt l f) s =
    .next (setRun s l { r with pc := r.pc + 1, cycles := r.cycles + 1, r := { r.r with fmt := f.toNat } }) :=
  exec_of_ok_no_regs (c := .setfmt l f) h (loaded_accepts (decide_eq_true hf)) rfl

theorem exec_setrnd {v : BitVec 2} (hv : v.toNat < 2) : exec (.setrnd l v) s =
    .next (setRun s l { r with pc := r.pc + 1, cycles := r.cycles + 1, r := { r.r with rnd := v.toNat } }) :=
  exec_of_ok_no_regs (c := .setrnd l v) h (loaded_accepts (decide_eq_true hv)) rfl

variable {ra : Fin 32} {x : Nat} (hx : (gS (atIns s l 1 [ra] r).1 ra).toNat = x)
include hx

theorem exec_wrctl (hf : x % 16 < 14) (hv : x / 16 % 4 < 2) : exec (.wrctl l ra) s = .next (setRun (atIns s l 1 [ra] r).2 l
    { (atIns s l 1 [ra] r).1 with r := { (atIns s l 1 [ra] r).1.r with fmt := x % 16, rnd := x / 16 % 4 } }) := by
  refine exec_of_ok h rfl ?_
  simp only [hx, rnd_of_bits, hf, hv, and_self, if_true]
  rfl

theorem exec_wrctl_reserved (hr : ¬ (x % 16 < 14 ∧ x / 16 % 4 < 2)) : exec (.wrctl l ra) s = faults s l 1 [ra] r 4 0 := by
  refine exec_of_fault h rfl ?_
  simp only [hx, rnd_of_bits, if_neg hr]

end

/-- Settles O11: the codes decide what SETFMT, SETRND and WRCTL do, and the predicate instructions write the register that they name. -/
theorem controlAndPredicateResults : Obligations.ControlAndPredicateResults := by
  intro s l r rd pd pa pb f v h n w x
  refine ⟨exec_setfmt h, fun hf => loaded_rejects (decide_eq_false (Nat.not_lt.2 hf)), exec_setrnd h,
    fun hv => loaded_rejects (decide_eq_false (Nat.not_lt.2 hv)), exec_of_ok h rfl rfl, exec_wrctl h rfl, exec_wrctl_reserved h rfl, ?_,
    exec_of_ok h rfl rfl, exec_of_ok h rfl rfl, exec_of_ok h rfl ?_⟩
  · simp only [List.forall_mem_cons]
    exact ⟨exec_predOp h rfl, exec_predOp h rfl, exec_predOp h rfl, exec_predOp (pb := pa) (g := fun a _ => ~~~a) h rfl, List.forall_mem_nil _⟩
  · rw [List.countP_eq_length_filter]

end Sys2Proof.Machine
end

section
/-!
PROOFS. Control flow (R160 to R166, R172, R176 to R178): O13, O14 and O15.
-/
namespace Sys2Proof.Machine
open Sys2Proof

section
variable {s : State} {l : Fin 6144} {r : CellRun}

theorem runIs_some {l : Nat} (h : cellRun s l = some r) (f : CellRun → Bool) : runIs s l f = f r := by
  rw [runIs, h]

/-! ## Branches (R160) -/

/-- The handler after a branch: taken, the pc moves by the offset and one more cycle is charged. -/
def branched (r : CellRun) (off : Nat) (taken : Bool) : CellRun := if taken then { r with pc := r.pc + off, cycles := r.cycles + 1 } else r

section
variable (h : cellRun s l = some r) {regs : List Nat} {off : Nat} {f : CellRun → Bool} {taken : Bool}
include h

theorem branch_value (hf : f (atIns s l 1 regs r).1 = taken) :
    branch s l regs off f = .next (setRun (atIns s l 1 regs r).2 l (branched (atIns s l 1 regs r).1 off taken)) :=
  congrArg Host.Outcome.next (ins_of_ok h (by rw [hf, branched]))

theorem branch_value_no_regs (hf : f { r with pc := r.pc + 1, cycles := r.cycles + 1 } = taken) :
    branch s l [] off f = .next (setRun s l (branched { r with pc := r.pc + 1, cycles := r.cycles + 1 } off taken)) := by
  rw [branch_value h rfl, atIns_no_regs, hf]

end

section
variable {a b : BitVec 64}

theorem bne_eq_decide : (a != b) = decide (a ≠ b) := (decide_not ..).symm

theorem not_slt_eq_decide : (!a.slt b) = decide (b.toInt ≤ a.toInt) := by
  rw [BitVec.slt_eq_decide, ← decide_not]
  exact decide_eq_decide.2 not_lt

theorem not_ult_eq_decide : (!a.ult b) = decide (b.toNat ≤ a.toNat) := by
  rw [BitVec.ult_eq_decide, ← decide_not]
  exact decide_eq_decide.2 not_lt

end

/-! ## CALL, RET and JT (R162, R163) -/

section
variable (h : cellRun s l = some r)
include h

variable {off : BitVec 16}

theorem exec_call (hd : r.r.ret.length < 8) (hp : 0 ≤ (r.pc : Int) + 1 + off.toInt) : exec (.call l off) s = .next (setRun s l
    { r with pc := ((r.pc : Int) + 1 + off.toInt).toNat, cycles := r.cycles + 2, r := { r.r with ret := (r.pc + 1) :: r.r.ret } }) := by
  have accepted : (decide (r.r.ret.length < 8) && decide (0 ≤ (r.pc : Int) + 1 + off.toInt)) = true := by simp [hd, hp]
  exact exec_of_ok_no_regs (c := .call l off) h (loaded_accepts ((runIs_some h _).trans accepted)) rfl

theorem exec_call_rejected (hr : 8 ≤ r.r.ret.length ∨ (r.pc : Int) + 1 + off.toInt < 0) : exec (.call l off) s = noLoad "CALL" := by
  have rejected : (decide (r.r.ret.length < 8) && decide (0 ≤ (r.pc : Int) + 1 + off.toInt)) = false := by
    rw [Bool.and_eq_false_iff, decide_eq_false_iff_not, decide_eq_false_iff_not, not_lt, not_le]
    exact hr
  exact loaded_rejects ((runIs_some h _).trans rejected)

theorem exec_ret {a : Nat} {rest : List Nat} (hr : r.r.ret = a :: rest) : exec (.ret l) s =
    .next (setRun s l { r with pc := a, cycles := r.cycles + 2, r := { r.r with ret := rest } }) := by
  have accepted : (!r.r.ret.isEmpty) = true := by rw [hr]; rfl
  refine exec_of_ok_no_regs (c := .ret l) h (loaded_accepts ((runIs_some h _).trans accepted)) ?_
  dsimp only
  rw [hr]
  rfl

theorem exec_ret_rejected (hr : r.r.ret = []) : exec (.ret l) s = noLoad "RET" :=
  loaded_rejects ((runIs_some h _).trans (by rw [hr]; rfl))

variable {ra : Fin 32} {table : List (BitVec 32)}

theorem exec_jt (hlow : 1 ≤ table.length) (hhigh : table.length ≤ 64) (ht : tenantRun r = false) : exec (.jt l ra table) s =
    .next (setRun (atIns s l 1 [ra] r).2 l (if (gS (atIns s l 1 [ra] r).1 ra).toNat < table.length then
      { (atIns s l 1 [ra] r).1 with pc := (atIns s l 1 [ra] r).1.pc + table.length + (table.getD (gS (atIns s l 1 [ra] r).1 ra).toNat 0).toNat,
                                    cycles := (atIns s l 1 [ra] r).1.cycles + 1 }
      else { (atIns s l 1 [ra] r).1 with pc := (atIns s l 1 [ra] r).1.pc + table.length })) := by
  have accepted : (decide (1 ≤ table.length) && decide (table.length ≤ 64)) = true := by simp [hlow, hhigh]
  exact exec_of_ok (c := .jt l ra table) h ((loaded_accepts accepted).trans (stockOnly_stock h ht)) rfl

theorem exec_jt_rejected (hr : table.length = 0 ∨ 64 < table.length ∨ tenantRun r = true) : exec (.jt l ra table) s = noLoad "JT" := by
  by_cases hlen : 1 ≤ table.length ∧ table.length ≤ 64
  · have tenant : tenantRun r = true := by
      rcases hr with hr | hr | hr
      · omega
      · omega
      · exact hr
    have accepted : (decide (1 ≤ table.length) && decide (table.length ≤ 64)) = true := by simp [hlen]
    exact (loaded_accepts accepted).trans (stockOnly_tenant h tenant)
  · have rejected : (decide (1 ≤ table.length) && decide (table.length ≤ 64)) = false := by
      rw [← Bool.decide_and, decide_eq_false hlen]
    exact loaded_rejects rejected

end
end

/-- Settles O13: whether the condition holds decides a branch; the depth, the target and the table decide whether the loader accepts the rest. -/
theorem branchAndCallResults : Obligations.BranchAndCallResults := by
  refine ⟨fun s l r ra rb pa neg off h => ⟨?_, ?_, ?_⟩, fun s l r ra off table h => ?_⟩
  · simp only [List.forall_mem_cons]
    exact ⟨(branch_value h rfl : execBeq l ra rb off s = _), (branch_value h bne_eq_decide : execBne l ra rb off s = _),
      (branch_value h (BitVec.slt_eq_decide ..) : execBlt l ra rb off s = _), (branch_value h not_slt_eq_decide : execBge l ra rb off s = _),
      (branch_value h (BitVec.ult_eq_decide ..) : execBltu l ra rb off s = _), (branch_value h not_ult_eq_decide : execBgeu l ra rb off s = _),
      List.forall_mem_nil _⟩
  · exact (branch_value_no_regs h rfl : execBr l off s = _)
  · exact (branch_value_no_regs h (congrArg (· != neg) bne_eq_decide) : execBp l pa neg off s = _)
  · exact ⟨exec_call h, exec_call_rejected h, fun a rest => exec_ret h, exec_ret_rejected h, exec_jt h, exec_jt_rejected h⟩

/-! ## LOOP and LEND (R161) -/

section
variable {s : State} {l : Fin 6144} {r : CellRun}

@[simp] theorem atIns_loops {l cost : Nat} {regs : List Nat} : (atIns s l cost regs r).1.r.loops = r.r.loops := by
  obtain ⟨_, _, _, hloops, _⟩ := settle_flow l (fun a => regs.contains a.reg) r s
  exact hloops

/-- The conditions under which the loader accepts a LOOP, whatever its count register. -/
def loopFits (r : CellRun) (count : BitVec 13) : Prop :=
  1 ≤ count.toNat ∧ count.toNat ≤ 4096 ∧ r.r.loops.length < (if tenantRun r then 4 else 8)

/-- The handler that enters a loop of `n` iterations. -/
def loopEntered (r : CellRun) (ix n : Nat) : CellRun :=
  pS { r with r := { r.r with loops := { count := n, k := 0, ix := ix, start := r.pc } :: r.r.loops } } ix 0

section
variable (h : cellRun s l = some r) {ix rs : Fin 32} {count : BitVec 13} {body : BitVec 16}
include h

theorem loop_accepted_iff {reg : Option (Fin 32)} :
    (decide (1 ≤ count.toNat) && decide (count.toNat ≤ 4096) && runIs s l (fun r => decide (r.r.loops.length < (if tenantRun r then 4 else 8))) &&
      (reg.isNone || runIs s l (fun r => !tenantRun r))) = true ↔ loopFits r count ∧ (reg.isNone ∨ tenantRun r = false) := by
  rw [runIs_some h, runIs_some h, loopFits]
  simp [and_assoc]

theorem exec_loopR_rejected {reg : Option (Fin 32)} (hr : ¬ (loopFits r count ∧ (reg.isNone ∨ tenantRun r = false))) :
    exec (.loopR l reg count ix body) s = noLoad "LOOP" :=
  loaded_rejects (Bool.eq_false_iff.2 (mt (loop_accepted_iff h).1 hr))

theorem exec_loopR_count (hl : loopFits r count) :
    exec (.loopR l none count ix body) s = .next (setRun (atIns s l 2 [ix] r).2 l (loopEntered (atIns s l 2 [ix] r).1 ix count.toNat)) := by
  have positive : ¬ count.toNat = 0 := Nat.one_le_iff_ne_zero.1 hl.1
  refine exec_of_ok (c := .loopR l none count ix body) (regs := [ix.val]) h
    (loaded_accepts ((loop_accepted_iff (reg := none) h).2 ⟨hl, .inl rfl⟩)) ?_
  simp only [if_neg (Nat.lt_irrefl _), if_neg positive]
  rfl

section
variable (hl : loopFits r count) (ht : tenantRun r = false) {n : Nat} (hn : (gS (atIns s l 2 [ix, rs] r).1 rs).toNat = n)
include hl ht hn

theorem exec_loopR_runs (hlow : 1 ≤ n) (hhigh : n ≤ count.toNat) : exec (.loopR l (some rs) count ix body) s =
    .next (setRun (atIns s l 2 [ix, rs] r).2 l (loopEntered (atIns s l 2 [ix, rs] r).1 ix n)) := by
  refine exec_of_ok (c := .loopR l (some rs) count ix body) (regs := [ix.val, rs.val]) h
    (loaded_accepts ((loop_accepted_iff (reg := some rs) h).2 ⟨hl, .inr ht⟩)) ?_
  simp only [hn, if_neg (Nat.not_lt.2 hhigh), if_neg (Nat.one_le_iff_ne_zero.1 hlow)]
  rfl

theorem exec_loopR_skips (hz : n = 0) : exec (.loopR l (some rs) count ix body) s =
    .next (setRun (atIns s l 2 [ix, rs] r).2 l { (atIns s l 2 [ix, rs] r).1 with pc := (atIns s l 2 [ix, rs] r).1.pc + body.toNat }) := by
  refine exec_of_ok (c := .loopR l (some rs) count ix body) (regs := [ix.val, rs.val]) h
    (loaded_accepts ((loop_accepted_iff (reg := some rs) h).2 ⟨hl, .inr ht⟩)) ?_
  simp only [hn, hz, if_neg (Nat.not_lt_zero _)]
  rfl

theorem exec_loopR_fault (hm : count.toNat < n) : exec (.loopR l (some rs) count ix body) s = faults s l 2 [ix, rs] r 8 0 := by
  refine exec_of_fault (c := .loopR l (some rs) count ix body) (regs := [ix.val, rs.val]) h
    (loaded_accepts ((loop_accepted_iff (reg := some rs) h).2 ⟨hl, .inr ht⟩)) ?_
  simp only [hn, if_pos hm]

end

theorem exec_lend {x : LoopLevel} {rest : List LoopLevel} (hx : r.r.loops = x :: rest) {u : CellRun × State} (hu : atIns s l 1 [x.ix] r = u) :
    exec (.lend l) s = .next (setRun u.2 l
      (if x.k + 1 < x.count then
        pS { u.1 with pc := x.start, r := { u.1.r with loops := { x with k := x.k + 1 } :: rest } } x.ix (BitVec.ofNat 64 (x.k + 1))
       else { u.1 with r := { u.1.r with loops := rest } })) := by
  have accepted : (!r.r.loops.isEmpty) = true := by rw [hx]; rfl
  have loops : u.1.r.loops = x :: rest := by rw [← hu, atIns_loops, hx]
  change execLend l s = _
  rw [execLend, loaded_accepts ((runIs_some h _).trans accepted)]
  simp only [h, hx, List.take_succ_cons, List.take_zero, List.map_cons, List.map_nil]
  refine congrArg Host.Outcome.next (ins_of_ok h ?_)
  simp only [hu, loops]
  split
  · rfl
  · rfl

theorem exec_lend_rejected (hx : r.r.loops = []) : exec (.lend l) s = noLoad "LEND" :=
  loaded_rejects ((runIs_some h _).trans (by rw [hx]; rfl))

end
end

/-- Settles O14: the count, the depth and the profile decide whether the loader accepts a LOOP, its count what it does, and the iteration what LEND
does. -/
theorem loopResults : Obligations.LoopResults := by
  intro s l r rs ix count body h fits w v n go
  refine ⟨exec_loopR_count h, fun hf ht => ⟨exec_loopR_runs h hf ht rfl, exec_loopR_skips h hf ht rfl, exec_loopR_fault h hf ht rfl⟩,
    fun hf => exec_loopR_rejected h fun hl => hf hl.1, fun hr => exec_loopR_rejected h fun hl => ?_, fun x rest hx => exec_lend h hx rfl,
    exec_lend_rejected h⟩
  obtain ⟨hfits, hreg⟩ := hl
  rcases hr with hr | hr
  · exact hr hfits
  · simp [hr] at hreg

/-! ## TRAP (R166, R177, R178, R372) -/

/-- A fault outside a finish is the cell fault STOCK_EXCEPTION, and the handler is lost with the header copy that it judges. -/
theorem exec_trap_handler {s : State} {l : Fin 6144} {r : CellRun} {imm : BitVec 16} (h : cellRun s l = some r) (hf : r.fin = none) :
    exec (.trap l imm) s = .next (loseRun (cellFaultAt (countException s l) l 7 (packBits [(0, 4, 10), (16, 16, r.pc), (32, 16, imm.toNat)])) l) := by
  refine (exec_of_fault (c := .trap l imm) h rfl rfl).trans ?_
  rw [faults, atIns_no_regs]
  simp only [raise, hf]

/-- A handler that judges a header copy (R372). -/
def judging : CellRun := { copy := some { h := {}, stamp := 0, inp := 0, out := 0, filter := 0, ahead := 0 } }

/-- Refutes O15: a handler that judges a header copy loses it by the fault, which counts in VERDICT_LOST (R372); the statement has the handler
ended and nothing counted. -/
theorem not_trapRaises : ¬ Obligations.TrapRaises := by
  intro h
  have run : cellRun (setRun State.reset (0 : Fin 6144) judging) (0 : Fin 6144) = some judging := cellRun_setRun ..
  obtain ⟨ended, _⟩ := h _ 0 judging 0 run
  have same := Host.Outcome.next.inj ((exec_trap_handler run rfl).symm.trans (ended rfl))
  have counts := congrArg (rd · Reg.TELEMETRY.FF_COUNT.VERDICT_LOST) same
  exact absurd counts (by decide)

end Sys2Proof.Machine
end

section
/-!
PROOFS. Loads, vector loads and stores, shared accesses, HBM transfers and the completion of accesses (R131, R168 to R172, R176): O17, O19, O20
and O21.
-/
namespace Sys2Proof
variable {l : List Byte}

theorem ofLeBytes_lt : ofLeBytes l < 256 ^ l.length := by
  induction l with
  | nil => exact Nat.one_pos
  | cons b l ih =>
    have byte : b.toNat < 256 := b.isLt
    rw [ofLeBytes, List.length_cons, Nat.pow_succ]
    omega

end Sys2Proof

namespace Sys2Proof.Machine
open Sys2Proof

/-! ## Instructions over local data and tile windows -/

section
variable {s : State} {l : Fin 6144} {r : CellRun} (h : cellRun s l = some r) {c : Instr} {cost n a : Nat} {regs : List Nat} {addr : CellRun → Nat}
  {f : CellRun → State → Nat → Nat → Res} (hc : exec c s = both (ins s l cost regs fun r s => localAccess l r s (addr r) n f))
  (ha : addr (atIns s l cost regs r).1 = a)
include h hc ha

theorem exec_localAccess_misaligned (hal : a % n ≠ 0) : exec c s = faults s l cost regs r 2 0 := by
  subst ha
  exact exec_of_fault h hc (localAccess_misaligned hal)

variable (hal : a % n = 0)
include hal

theorem exec_localAccess_outside (hat : localAt (atIns s l cost regs r).1 a n = none) : exec c s = faults s l cost regs r 1 0 := by
  subst ha
  exact exec_of_fault h hc (localAccess_outside hal hat)

theorem exec_localAccess_inside {sp off : Nat} (hat : localAt (atIns s l cost regs r).1 a n = some (sp, off)) {p : CellRun × State}
    (hp : settle l (touches sp off n) (atIns s l cost regs r).1 (atIns s l cost regs r).2 = p) {r' : CellRun} {s' : State}
    (hf : f p.1 p.2 sp off = .ok r' s') : exec c s = .next (setRun s' l r') := by
  subst ha hp
  exact exec_of_ok h hc ((localAccess_inside hal hat).trans hf)

end

section
variable {s : State} {l : Fin 6144} {rd ra : Fin 32} {imm : BitVec 16}

/-- The load instructions, with the number of bytes that each loads. -/
def loadOps (l : Fin 6144) (rd ra : Fin 32) (imm : BitVec 16) : List (Instr × Nat) :=
  [(.ld8u l rd ra imm, 1), (.ld16u l rd ra imm, 2), (.ld32u l rd ra imm, 4), (.ld64 l rd ra imm, 8)]

theorem exec_load {e : Instr × Nat} (he : e ∈ loadOps l rd ra imm) : exec e.1 s = loadN s l e.2 rd ra imm := by
  simp only [loadOps, List.mem_cons, List.not_mem_nil, or_false] at he
  rcases he with rfl | rfl | rfl | rfl
  all_goals rfl

end

/-- Settles O17: alignment and the window decide what a load does. -/
theorem localLoads : Obligations.LocalLoads := by
  intro s l r rd ra imm sp off h w a e he
  exact ⟨fun hal hat => exec_localAccess_inside h (exec_load he) rfl hal hat rfl rfl, exec_localAccess_misaligned h (exec_load he) rfl,
    exec_localAccess_outside h (exec_load he) rfl⟩

section
variable {s : State} {l : Fin 6144} {vd : Fin 16} {ra ri : Fin 32} {sc : BitVec 2} {disp : BitVec 10} (hs : sc.toNat < 3)
include hs

theorem exec_vld : exec (.vld l vd ra ri sc disp) s = both (ins s l 2 [ra, ri] fun r s =>
    localAccess l r s (addrVec r ra ri sc.toNat disp) 64 fun r s sp off => .ok (pV r vd (BitVec.ofNat 512 (ofLeBytes (spaceRd s l sp off 64)))) s) :=
  loaded_accepts (decide_eq_true hs)

theorem exec_vst : exec (.vst l vd ra ri sc disp) s = both (ins s l 2 [ra, ri] fun r s =>
    localAccess l r s (addrVec r ra ri sc.toNat disp) 64 fun r s sp off => .ok r (spaceWr s l sp off (leBytes 64 (gV r vd).toNat))) :=
  loaded_accepts (decide_eq_true hs)

end

/-- Settles O19: SC decides whether the loader accepts the access, alignment and the window what it does. -/
theorem vectorLoadsAndStores : Obligations.VectorLoadsAndStores := by
  intro s l r vd ra ri sc disp sp off h w a p
  refine ⟨fun hs hal hat => ⟨exec_localAccess_inside h (exec_vld hs) rfl hal hat rfl rfl, exec_localAccess_inside h (exec_vst hs) rfl hal hat rfl rfl⟩,
    ?_, fun hs => ?_⟩
  · simp only [List.forall_mem_cons]
    exact ⟨⟨fun hs => exec_localAccess_misaligned h (exec_vld hs) rfl, fun hs => exec_localAccess_outside h (exec_vld hs) rfl⟩,
      ⟨fun hs => exec_localAccess_misaligned h (exec_vst hs) rfl, fun hs => exec_localAccess_outside h (exec_vst hs) rfl⟩, List.forall_mem_nil _⟩
  · have reserved : decide (sc.toNat < 3) = false := by simp [hs]
    exact ⟨loaded_rejects reserved, loaded_rejects reserved⟩

/-! ## Shared accesses (R170, R171) -/

section
variable {a : Nat} {f : Nat → Res}

theorem sharedAccess_misaligned (h : a % 8 ≠ 0) : sharedAccess a f = .fault 2 0 := if_pos h

theorem sharedAccess_outside (h : a % 8 = 0) (ho : ¬ (0x10000000 ≤ a ∧ a < 0x10800000)) : sharedAccess a f = .fault 1 0 := by
  rw [sharedAccess, if_neg (not_not.2 h), if_neg ho]

theorem sharedAccess_inside (h : a % 8 = 0) (hi : 0x10000000 ≤ a ∧ a < 0x10800000) : sharedAccess a f = f (a - 0x10000000) := by
  rw [sharedAccess, if_neg (not_not.2 h), if_pos hi]

end

/-- A shared access that is outstanding, with the register that it writes and the value. -/
def sharedPending (reg v : Nat) : Machine.Access :=
  { hbm := false, reg := reg, val := v, space := 0, off := 0, data := [], skip := [], poison := false }

/-- The register that an access of destination `rd` writes; 32 is none, as s0 discards it. -/
def sharedDest (rd : Fin 32) : Nat := if rd = 0 then 32 else rd.val

theorem pendShared_eq {l : Nat} {r : CellRun} {s : State} {rd : Fin 32} {v : Nat} :
    pendShared l r s rd v = .ok (issue l (sharedPending (sharedDest rd) v) r s).1 (issue l (sharedPending (sharedDest rd) v) r s).2 := by
  have dest : (if rd.val = 0 then 32 else rd.val) = sharedDest rd := by simp only [sharedDest, Fin.ext_iff]; rfl
  simp only [pendShared, dest, sharedPending]

theorem sharedWord_toNat {s : State} {l o : Nat} : (BitVec.ofNat 64 (sharedWord s l o)).toNat = sharedWord s l o := by
  have eight : sharedWord s l o < 256 ^ 8 := by
    have bound := ofLeBytes_lt (l := sharedRd s (l / 128) o 8)
    rwa [sharedRd, List.length_map, List.length_range] at bound
  rw [BitVec.toNat_ofNat]
  exact Nat.mod_eq_of_lt eight

section
variable {s : State} {l : Fin 6144} {r : CellRun} (h : cellRun s l = some r) {c : Instr} {m : String} {regs : List Nat} {addr : CellRun → Nat} {a : Nat}
  {f : CellRun → State → Nat → Res} (hc : exec c s = stockOnly m s l (ins s l 4 regs fun r s => sharedAccess (addr r) (f r s)))
  (ht : tenantRun r = false) (ha : addr (atIns s l 4 regs r).1 = a)
include h hc ht ha

theorem exec_sharedAccess_misaligned (hal : a % 8 ≠ 0) : exec c s = faults s l 4 regs r 2 0 := by
  subst ha
  exact exec_of_fault h (hc.trans (stockOnly_stock h ht)) (sharedAccess_misaligned hal)

variable (hal : a % 8 = 0)
include hal

theorem exec_sharedAccess_outside (ho : ¬ (0x10000000 ≤ a ∧ a < 0x10800000)) : exec c s = faults s l 4 regs r 1 0 := by
  subst ha
  exact exec_of_fault h (hc.trans (stockOnly_stock h ht)) (sharedAccess_outside hal ho)

theorem exec_sharedAccess_inside (hi : 0x10000000 ≤ a ∧ a < 0x10800000) {r' : CellRun} {s' : State}
    (hf : f (atIns s l 4 regs r).1 (atIns s l 4 regs r).2 (a - 0x10000000) = .ok r' s') : exec c s = .next (setRun s' l r') := by
  subst ha
  exact exec_of_ok h (hc.trans (stockOnly_stock h ht)) ((sharedAccess_inside hal hi).trans hf)

end

section
variable {s : State} {l : Fin 6144} {r : CellRun} (h : cellRun s l = some r) (ht : tenantRun r = false) {rd ra rb : Fin 32} {a : Nat}
include h ht

/-- An atomic inside shared SRAM: the old word is the access's, and the new one is written at once. -/
theorem exec_samo_inside {c : Instr} {m : String} {g : CellRun → BitVec 64 → BitVec 64} (hc : exec c s = samo m s l rd ra rb g)
    {v : CellRun × State} (hv : atIns s l 4 [rd, ra, rb] r = v) (ha : (gS v.1 ra).toNat = a) (hal : a % 8 = 0)
    (hi : 0x10000000 ≤ a ∧ a < 0x10800000) {old new : BitVec 64} (ho : BitVec.ofNat 64 (ofLeBytes (sharedRd v.2 (l / 128) (a - 0x10000000) 8)) = old)
    (hg : g v.1 old = new) : exec c s = goesOn l (issue l (sharedPending (sharedDest rd) old.toNat) v.1
      (sharedWr v.2 (l / 128) (a - 0x10000000) (leBytes 8 new.toNat))) := by
  have word : old.toNat = sharedWord v.2 l (a - 0x10000000) := by rw [← ho, ← sharedWord, sharedWord_toNat]
  rw [word]
  subst hv
  refine exec_sharedAccess_inside h hc ht ha hal hi ?_
  rw [← hg, ← ho]
  exact pendShared_eq

variable {imm : BitVec 16} {w : CellRun × State} (hw : atIns s l 4 [rd, ra] r = w) (ha : addrImm w.1 ra imm = a) (hal : a % 8 = 0)
  (hi : 0x10000000 ≤ a ∧ a < 0x10800000)
include hw ha hal hi

theorem exec_sld_inside : exec (.sld l rd ra imm) s =
    goesOn l (issue l (sharedPending (sharedDest rd) (ofLeBytes (sharedRd w.2 (l / 128) (a - 0x10000000) 8))) w.1 w.2) := by
  subst hw
  refine exec_sharedAccess_inside (c := .sld l rd ra imm) h rfl ht ha hal hi ?_
  exact pendShared_eq

theorem exec_sst_inside : exec (.sst l rd ra imm) s = goesOn l (w.1, sharedWr w.2 (l / 128) (a - 0x10000000) (leBytes 8 (gS w.1 rd).toNat)) := by
  subst hw
  exact exec_sharedAccess_inside (c := .sst l rd ra imm) h rfl ht ha hal hi rfl

end

/-- Settles O20: the profile decides whether the loader accepts a shared access, alignment and the window what it does. -/
theorem sharedAccesses : Obligations.SharedAccesses := by
  intro s l r rd ra rb imm h w a v b old acc dst inside
  refine ⟨fun ht => ⟨fun hal hi => ⟨exec_sld_inside h ht rfl rfl hal hi, exec_sst_inside h ht rfl rfl hal hi⟩,
    ?_, ?_, exec_of_ok_no_regs (c := .fence l) h (stockOnly_stock h ht) rfl⟩, fun ht => ?_⟩
  · simp only [List.forall_mem_cons]
    exact ⟨⟨exec_sharedAccess_misaligned h rfl ht rfl, exec_sharedAccess_outside h rfl ht rfl⟩,
      ⟨exec_sharedAccess_misaligned h rfl ht rfl, exec_sharedAccess_outside h rfl ht rfl⟩, List.forall_mem_nil _⟩
  · have each {c : Instr} {m : String} {g : CellRun → BitVec 64 → BitVec 64} {new : BitVec 64} (hc : exec c s = samo m s l rd ra rb g)
        (hg : g v.1 old = new) :
        (b % 8 = 0 → inside b → exec c s =
          goesOn l (issue l (acc dst old.toNat) v.1 (sharedWr v.2 (l / 128) (b - 0x10000000) (leBytes 8 new.toNat)))) ∧
        (b % 8 ≠ 0 → exec c s = faults s l 4 [rd, ra, rb] r 2 0) ∧ (b % 8 = 0 → ¬ inside b → exec c s = faults s l 4 [rd, ra, rb] r 1 0) :=
      ⟨fun hal hi => exec_samo_inside h ht hc rfl rfl hal hi rfl hg, exec_sharedAccess_misaligned h hc ht rfl, exec_sharedAccess_outside h hc ht rfl⟩
    have larger : (if old.slt (gS v.1 rb) then gS v.1 rb else old) = if old.toInt < (gS v.1 rb).toInt then gS v.1 rb else old := by
      simp only [BitVec.slt_eq_decide, decide_eq_true_eq]
    simp only [List.forall_mem_cons]
    exact ⟨each (g := fun r old => old + gS r rb) rfl rfl, each (g := fun r _ => gS r rb) rfl rfl,
      each (g := fun r old => if old = gS r rd then gS r rb else old) rfl rfl,
      each (g := fun r old => if old.slt (gS r rb) then gS r rb else old) rfl larger, List.forall_mem_nil _⟩
  · simp only [List.forall_mem_cons]
    exact ⟨stockOnly_tenant h ht, stockOnly_tenant h ht, stockOnly_tenant h ht, stockOnly_tenant h ht, stockOnly_tenant h ht,
      stockOnly_tenant h ht, stockOnly_tenant h ht, List.forall_mem_nil _⟩

/-! ## HBM transfers, WAIT and completions (R168 to R170) -/

section
variable {s : State} {r : CellRun} {la ha n : Nat} {f : Nat → Nat → Nat → Res}

theorem hbmAccess_misaligned (h : la % 64 ≠ 0 ∨ ha % 64 ≠ 0) : hbmAccess s r la ha n f = .fault 2 0 := if_pos h

variable (hl : la % 64 = 0) (hh : ha % 64 = 0)
include hl hh

theorem hbmAccess_outside (hat : localAt r la n = none) : hbmAccess s r la ha n f = .fault 1 0 := by
  simp [hbmAccess, hl, hh, hat]

variable {sp off : Nat} (hat : localAt r la n = some (sp, off))
include hat

theorem hbmAccess_denied {code : Nat} (hfar : farAt s r ha n = .error code) : hbmAccess s r la ha n f = .fault code 0 := by
  simp [hbmAccess, hl, hh, hat, hfar]

theorem hbmAccess_inside {d : Nat} (hfar : farAt s r ha n = .ok d) : hbmAccess s r la ha n f = f sp off d := by
  simp [hbmAccess, hl, hh, hat, hfar]

end

section
variable {s : State} {l : Fin 6144} {r : CellRun} (h : cellRun s l = some r)
include h

section
variable {c : Instr} {rl rh : Fin 32} {n la ha : Nat} {disp : BitVec 10} {f : CellRun → State → Nat → Nat → Nat → Res}
  (hc : exec c s = both (ins s l 4 [rl, rh] fun r s => hbmAccess s r (addrBlk r rl disp) (addrBlk r rh disp) n (f r s)))
  {w : CellRun × State} (hw : atIns s l 4 [rl, rh] r = w) (hla : addrBlk w.1 rl disp = la) (hha : addrBlk w.1 rh disp = ha)
include hc hw hla hha

theorem exec_hbmAccess_misaligned (ho : la % 64 ≠ 0 ∨ ha % 64 ≠ 0) : exec c s = faults s l 4 [rl, rh] r 2 0 := by
  subst hw hla hha
  exact exec_of_fault h hc (hbmAccess_misaligned ho)

variable (hl : la % 64 = 0) (hh : ha % 64 = 0)
include hl hh

theorem exec_hbmAccess_outside (hat : localAt w.1 la n = none) : exec c s = faults s l 4 [rl, rh] r 1 0 := by
  subst hw hla hha
  exact exec_of_fault h hc (hbmAccess_outside hl hh hat)

variable {sp off : Nat} (hat : localAt w.1 la n = some (sp, off))
include hat

theorem exec_hbmAccess_denied {code : Nat} (hfar : farAt w.2 w.1 ha n = .error code) : exec c s = faults s l 4 [rl, rh] r code 0 := by
  subst hw hla hha
  exact exec_of_fault h hc (hbmAccess_denied hl hh hat hfar)

theorem exec_hbmAccess_inside {d : Nat} (hfar : farAt w.2 w.1 ha n = .ok d) {r' : CellRun} {s' : State}
    (hf : f w.1 w.2 sp off d = .ok r' s') : exec c s = .next (setRun s' l r') := by
  subst hw hla hha
  exact exec_of_ok h hc ((hbmAccess_inside hl hh hat hfar).trans hf)

end

theorem exec_waitR {mask : BitVec 2} (hm : mask ≠ 0) : exec (.waitR l mask) s = goesOn l
    (settle l (fun a => if a.hbm then mask.getLsbD 1 else mask.getLsbD 0) { r with pc := r.pc + 1, cycles := r.cycles + 1 } s) :=
  exec_of_ok_no_regs (c := .waitR l mask) h (loaded_accepts (bne_iff_ne.2 hm)) rfl

variable {i : BitVec 5}

theorem exec_memoryAccessComplete {a : Machine.Access} (ha : r.acc[i.toNat]? = some a) :
    exec (.memoryAccessComplete l i) s = goesOn l (complete l (r, s) a) := by
  change execMemoryAccessComplete l i s = _
  simp only [execMemoryAccessComplete, h, ha, goesOn]

theorem exec_memoryAccessComplete_none (ha : r.acc[i.toNat]? = none) : exec (.memoryAccessComplete l i) s = .next s := by
  change execMemoryAccessComplete l i s = _
  simp only [execMemoryAccessComplete, h, ha]

end

theorem exec_waitR_reserved {s : State} {l : Fin 6144} {mask : BitVec 2} (hm : mask = 0) : exec (.waitR l mask) s = noLoad "WAIT" :=
  loaded_rejects (by rw [hm]; rfl)

/-- Settles O21: the alignment and the windows of both sides decide what a transfer does, its mask what a WAIT completes. -/
theorem hbmTransfersAndWaits : Obligations.HbmTransfersAndWaits := by
  intro s l r rl rh nm1 disp mask sp off d i h w n la ha
  refine ⟨fun hl hh hat hfar => ⟨exec_hbmAccess_inside (c := .hld l rl rh nm1 disp) h rfl rfl rfl rfl hl hh hat hfar rfl,
    exec_hbmAccess_inside (c := .hst l rl rh nm1 disp) h rfl rfl rfl rfl hl hh hat hfar rfl⟩, ?_, exec_waitR h, exec_waitR_reserved,
    fun a => exec_memoryAccessComplete h, exec_memoryAccessComplete_none h⟩
  simp only [List.forall_mem_cons]
  exact ⟨⟨exec_hbmAccess_misaligned h rfl rfl rfl rfl, exec_hbmAccess_outside h rfl rfl rfl rfl,
      fun code hl hh hat => exec_hbmAccess_denied h rfl rfl rfl rfl hl hh hat⟩,
    ⟨exec_hbmAccess_misaligned h rfl rfl rfl rfl, exec_hbmAccess_outside h rfl rfl rfl rfl,
      fun code hl hh hat => exec_hbmAccess_denied h rfl rfl rfl rfl hl hh hat⟩, List.forall_mem_nil _⟩

end Sys2Proof.Machine
end

section
/-!
PROOFS. Element-wise vector arithmetic and compares (R155, R173, R180 to R187): O22.
-/
namespace Sys2Proof.Machine
open Sys2Proof

section
variable {s : State} {l : Fin 6144} {r : CellRun} (h : cellRun s l = some r) {vd va vb vc : Fin 16} {pd pg : Fin 8} {zm w draws : Bool}

section
variable {f : Nat → Nat → Nat → Nat → Nat → Nat → Nat → Nat}

/-- The results of an element-wise instruction on `n` elements of `wd` bits, and the random state after it. -/
def varithResults (s : State) (l : Nat) (r : CellRun) (va vb vc : Fin 16) (pg : Fin 8) (w draws : Bool)
    (f : Nat → Nat → Nat → Nat → Nat → Nat → Nat → Nat) (n wd : Nat) : List Nat × Nat :=
  activeMap (if draws then r.r.rnd else 0) (active (gP r pg))
    (fun i d => f (vfmt r.r.fmt w) r.r.rnd d i (el wd (gV r va) i) (el wd (gV r vb) i) (el wd (gV r vc) i)) (List.range n) (cellRand s l)

include h

theorem varith_layout {n wd : Nat} (hl : layout r.r.fmt w = some (n, wd)) :
    let x := varithResults s l r va vb vc pg w draws f n wd
    varith s l vd va vb vc pg zm w draws f = .next (setRun (keepRand s l x.2) l
      (pV { r with pc := r.pc + 1, cycles := r.cycles + 1 } vd (merge n wd (gV r vd) (active (gP r pg)) zm x.1))) := by
  refine congrArg Host.Outcome.next (ins_of_ok h ?_)
  rw [atIns_no_regs]
  dsimp only
  rw [hl]
  rfl

theorem varith_no_layout (hl : layout r.r.fmt w = none) : varith s l vd va vb vc pg zm w draws f = faults s l 1 [] r 4 0 := by
  refine ins_of_fault h ?_
  rw [atIns_no_regs]
  dsimp only
  rw [hl]

end

section
variable {fl : Num.Val → Num.Val → Bool} {int : Int → Int → Bool}

/-- The compare of element `i` of `wd` bits, by a float or an integer rule. -/
def cmpTest (r : CellRun) (va vb : Fin 16) (w : Bool) (fl : Num.Val → Num.Val → Bool) (int : Int → Int → Bool) (wd i : Nat) : Bool :=
  match Num.floatFmt (vfmt r.r.fmt w) with
  | some f => fl (Num.decode f (el wd (gV r va) i)) (Num.decode f (el wd (gV r vb) i))
  | none => int (Num.intOf wd (el wd (gV r va) i)) (Num.intOf wd (el wd (gV r vb) i))

include h

theorem vcmp_layout {n wd : Nat} (hl : layout r.r.fmt w = some (n, wd)) :
    vcmp s l pd va vb pg zm w fl int = .next (setRun s l (pP { r with pc := r.pc + 1, cycles := r.cycles + 1 } pd (BitVec.ofNat 64 (packBits
      ((List.range n).map fun i =>
        (i, 1, b2n (if active (gP r pg) i then cmpTest r va vb w fl int wd i else if zm then false else (gP r pd).getLsbD i))))))) := by
  refine congrArg Host.Outcome.next (ins_of_ok h ?_)
  rw [atIns_no_regs]
  dsimp only
  rw [hl]
  rfl

theorem vcmp_no_layout (hl : layout r.r.fmt w = none) : vcmp s l pd va vb pg zm w fl int = faults s l 1 [] r 4 0 := by
  refine ins_of_fault h ?_
  rw [atIns_no_regs]
  dsimp only
  rw [hl]

end
end

/-- Settles O22: the format and W lay out the elements, or no layout raises FORMAT. -/
theorem vectorArithmeticAndCompares : Obligations.VectorArithmeticAndCompares := by
  refine ⟨fun s l r vd va vb vc pg zm w h => ?_, fun s l r pd va vb pg zm w h => ⟨fun n wd hl => ?_, fun hl => ?_⟩⟩
  · have taken : cellRun (takeFree s 64) l = some r := h
    intro fm act free
    refine ⟨fun n wd hl => ?_, fun hl => ⟨?_, ?_⟩⟩
    · intro put
      exact ⟨(varith_layout h hl : execVadd l vd va vb pg zm w s = _), (varith_layout h hl : execVsub l vd va vb pg zm w s = _),
        (varith_layout h hl : execVmul l vd va vb pg zm w s = _), (varith_layout taken hl : execVfma l vd va vb vc pg zm w s = _),
        (varith_layout taken hl : execVfms l vd va vb vc pg zm w s = _), (varith_layout h hl : execVmax l vd va vb pg zm w s = _),
        (varith_layout h hl : execVmin l vd va vb pg zm w s = _), (varith_layout h hl : execVabs l vd va pg zm w s = _),
        (varith_layout h hl : execVneg l vd va pg zm w s = _)⟩
    · simp only [List.forall_mem_cons]
      exact ⟨(varith_no_layout h hl : execVadd l vd va vb pg zm w s = _), (varith_no_layout h hl : execVsub l vd va vb pg zm w s = _),
        (varith_no_layout h hl : execVmul l vd va vb pg zm w s = _), (varith_no_layout h hl : execVmax l vd va vb pg zm w s = _),
        (varith_no_layout h hl : execVmin l vd va vb pg zm w s = _), (varith_no_layout h hl : execVabs l vd va pg zm w s = _),
        (varith_no_layout h hl : execVneg l vd va pg zm w s = _), List.forall_mem_nil _⟩
    · simp only [List.forall_mem_cons]
      exact ⟨(varith_no_layout taken hl : execVfma l vd va vb vc pg zm w s = _),
        (varith_no_layout taken hl : execVfms l vd va vb vc pg zm w s = _), List.forall_mem_nil _⟩
  · intro test put
    exact ⟨(vcmp_layout h hl : execVcmpEq l pd va vb pg zm w s = _), (vcmp_layout h hl : execVcmpLt l pd va vb pg zm w s = _),
      (vcmp_layout h hl : execVcmpLe l pd va vb pg zm w s = _), (vcmp_layout h hl : execVcmpUnord l pd va vb pg zm w s = _)⟩
  · simp only [List.forall_mem_cons]
    exact ⟨(vcmp_no_layout h hl : execVcmpEq l pd va vb pg zm w s = _), (vcmp_no_layout h hl : execVcmpLt l pd va vb pg zm w s = _),
      (vcmp_no_layout h hl : execVcmpLe l pd va vb pg zm w s = _), (vcmp_no_layout h hl : execVcmpUnord l pd va vb pg zm w s = _),
      List.forall_mem_nil _⟩

end Sys2Proof.Machine
end

section
/-!
PROOFS. Reciprocals, bitwise instructions, selection, conversions, moves and element access (R173, R186, R187): O24.
-/
namespace Sys2Proof.Machine
open Sys2Proof

section
variable {s : State} {l : Fin 6144} {r : CellRun} (h : cellRun s l = some r)
include h

section
variable {vd va vb : Fin 16} {pg : Fin 8} {zm w : Bool}

/-! ## FP32 functions and bitwise instructions -/

section
variable {f : Num.Val → Num.Val}

theorem vfun32_value (hf : r.r.fmt = 0 ∨ w = true) : vfun32 s l vd va pg zm w f = .next (setRun s l
    (pV { r with pc := r.pc + 1, cycles := r.cycles + 1 } vd (merge 16 32 (gV r vd) (active (gP r pg)) zm
      ((List.range 16).map fun i => Num.encode Num.fp32 0 0 (f (Num.decode Num.fp32 (el 32 (gV r va) i))))))) := by
  have taken : ¬ (r.r.fmt ≠ 0 ∧ w = false) := by
    rintro ⟨hfmt, hw⟩
    rcases hf with hf | hf
    · exact hfmt hf
    · simp [hf] at hw
  refine congrArg Host.Outcome.next (ins_of_ok h ?_)
  rw [atIns_no_regs]
  exact if_neg taken

theorem vfun32_format (hf : r.r.fmt ≠ 0) (hw : w = false) : vfun32 s l vd va pg zm w f = faults s l 1 [] r 4 0 := by
  refine ins_of_fault h ?_
  rw [atIns_no_regs]
  exact if_pos ⟨hf, hw⟩

end

section
variable {f : BitVec 512 → BitVec 512 → BitVec 512}

theorem vbits_all (hp : gP r pg = BitVec.allOnes 64) : vbits s l vd va vb pg zm f = .next (setRun s l
    (pV { r with pc := r.pc + 1, cycles := r.cycles + 1 } vd (f (gV r va) (gV r vb)))) := by
  refine congrArg Host.Outcome.next (ins_of_ok h ?_)
  rw [atIns_no_regs]
  exact if_pos hp

theorem vbits_none (hp : gP r pg = 0) : vbits s l vd va vb pg zm f = .next (setRun s l
    (if zm then pV { r with pc := r.pc + 1, cycles := r.cycles + 1 } vd 0 else { r with pc := r.pc + 1, cycles := r.cycles + 1 })) := by
  have partly : gP r pg ≠ BitVec.allOnes 64 := by rw [hp]; decide
  refine congrArg Host.Outcome.next (ins_of_ok h ?_)
  rw [atIns_no_regs]
  exact (if_neg partly).trans (if_pos hp)

/-- Where the manual states no result, a free value stands in its place (log entry 39). -/
theorem vbits_mixed (hz : gP r pg ≠ 0) (ho : gP r pg ≠ BitVec.allOnes 64) : ∃ v, vbits s l vd va vb pg zm f =
    .next (setRun (takeFree s) l (pV { r with pc := r.pc + 1, cycles := r.cycles + 1 } vd v)) := by
  refine ⟨BitVec.ofNat 512 (peekFree s), congrArg Host.Outcome.next (ins_of_ok h ?_)⟩
  rw [atIns_no_regs]
  exact (if_neg ho).trans (if_neg hz)

end

/-! ## Conversions -/

section
variable {part half : BitVec 4}

section
variable (hp : part.toNat < 4)
include hp

section
variable {wd : Nat} (hn : narrowBits r.r.fmt = some wd)
include hn

theorem exec_vcvtw (hin : wd * (16 * part.toNat + 16) ≤ 512) : exec (.vcvtw l vd va part pg zm) s = .next (setRun s l
    (pV { r with pc := r.pc + 1, cycles := r.cycles + 1 } vd (merge 16 32 (gV r vd) (active (gP r pg)) zm
      ((List.range 16).map fun i => widen r.r.fmt (el wd (gV r va) (16 * part.toNat + i)))))) := by
  refine exec_of_ok_no_regs (c := .vcvtw l vd va part pg zm) h (loaded_accepts (decide_eq_true hp)) ?_
  dsimp only
  rw [hn]
  simp only [decide_eq_false (Nat.not_lt.2 hin), Bool.false_eq_true, if_false]
  rfl

/-- A part beyond the elements has no stated ones: free values (log entry 39). -/
theorem exec_vcvtw_beyond (hout : 512 < wd * (16 * part.toNat + 16)) : ∃ x : List Nat, x.length = 16 ∧
    exec (.vcvtw l vd va part pg zm) s = .next (setRun (takeFree s 16) l
      (pV { r with pc := r.pc + 1, cycles := r.cycles + 1 } vd (merge 16 32 (gV r vd) (active (gP r pg)) zm x))) := by
  refine ⟨(List.range 16).map fun i => Config.freeValue (s.free + i), by rw [List.length_map, List.length_range],
    exec_of_ok_no_regs (c := .vcvtw l vd va part pg zm) h (loaded_accepts (decide_eq_true hp)) ?_⟩
  dsimp only
  rw [hn]
  simp only [decide_eq_true hout, if_true]
  rfl

end

theorem exec_vcvtw_format (hn : narrowBits r.r.fmt = none) : exec (.vcvtw l vd va part pg zm) s = faults s l 1 [] r 4 0 := by
  refine exec_of_fault (c := .vcvtw l vd va part pg zm) h (loaded_accepts (decide_eq_true hp)) ?_
  rw [atIns_no_regs]
  dsimp only
  rw [hn]

end

section
variable (hh : half.toNat < 2)
include hh

theorem exec_vnrw_format (hn : narrowBits r.r.fmt = none) : exec (.vnrw l vd va vb half pg zm) s = faults s l 1 [] r 4 0 := by
  refine exec_of_fault (c := .vnrw l vd va vb half pg zm) h (loaded_accepts (decide_eq_true hh)) ?_
  rw [atIns_no_regs]
  dsimp only
  rw [hn]

theorem exec_vnrw {wd base : Nat} (hn : narrowBits r.r.fmt = some wd) (hb : (if wd = 8 then 32 * half.toNat else 0) = base) :
    let inHalf := fun i => decide (base ≤ i) && decide (i < base + 32)
    let on := fun i => inHalf i && active (gP r pg) i
    let src := fun j => if j < 16 then el 32 (gV r va) j else el 32 (gV r vb) (j - 16)
    let x := activeMap r.r.rnd on (fun i d => narrow r.r.fmt r.r.rnd d (src (i - base))) (List.range (512 / wd)) (cellRand s l)
    exec (.vnrw l vd va vb half pg zm) s = .next (setRun (keepRand s l x.2) l (pV { r with pc := r.pc + 1, cycles := r.cycles + 1 } vd
      (merge (512 / wd) wd (gV r vd) (fun i => on i || !inHalf i) zm
        ((List.range (512 / wd)).map fun i => if inHalf i then x.1.getD i 0 else el wd (gV r vd) i)))) := by
  refine exec_of_ok_no_regs (c := .vnrw l vd va vb half pg zm) h (loaded_accepts (decide_eq_true hh)) ?_
  dsimp only
  rw [hn]
  dsimp only
  rw [hb]
  rfl

end
end
end

/-! ## Selection, broadcast and element access -/

section
variable {vd va vb : Fin 16} {sa : Fin 32} {pg : Fin 8} {imm : BitVec 6} {w : Bool}

section
variable {n wd : Nat} (hl : layout r.r.fmt w = some (n, wd))
include hl

theorem exec_vsel : exec (.vsel l vd va vb pg w) s = .next (setRun s l (pV { r with pc := r.pc + 1, cycles := r.cycles + 1 } vd
    (merge n wd (gV r vb) (active (gP r pg)) false ((List.range n).map (el wd (gV r va)))))) := by
  refine exec_of_ok_no_regs (c := .vsel l vd va vb pg w) h rfl ?_
  dsimp only
  rw [hl]
  rfl

variable {q : CellRun × State} (hq : atIns s l 1 [sa] r = q)
include hq

omit h in
theorem layout_after : layout q.1.r.fmt w = some (n, wd) := by
  rw [← hq, atIns_fmt, hl]

theorem exec_vbcast : exec (.vbcast l vd sa imm w) s = .next (setRun q.2 l (pV q.1 vd (merge n wd 0 (fun _ => true) false
    (List.replicate n (bits (gS q.1 sa).toNat (if wd = 32 ∧ imm.getLsbD 0 then 32 else 0) wd))))) := by
  refine exec_of_ok (c := .vbcast l vd sa imm w) h rfl ?_
  rw [hq, layout_after hl hq]

section
variable (hi : imm.toNat < n)
include hi

theorem exec_vext : exec (.vext l sa va imm w) s = .next (setRun q.2 l (pS q.1 sa (BitVec.ofNat 64 (el wd (gV q.1 va) imm.toNat)))) := by
  refine exec_of_ok (c := .vext l sa va imm w) h rfl ?_
  rw [hq, layout_after hl hq]
  exact if_pos hi

theorem exec_vins : exec (.vins l vd sa imm w) s = .next (setRun q.2 l (pV q.1 vd (merge n wd (gV q.1 vd) (fun i => i == imm.toNat) false
    (List.replicate n (bits (gS q.1 sa).toNat 0 wd))))) := by
  refine exec_of_ok (c := .vins l vd sa imm w) h rfl ?_
  rw [hq, layout_after hl hq]
  exact if_pos hi

end

section
variable (hi : n ≤ imm.toNat)
include hi

theorem exec_vext_beyond : exec (.vext l sa va imm w) s = faults s l 1 [sa] r 4 0 := by
  refine exec_of_fault (c := .vext l sa va imm w) h rfl ?_
  rw [hq, layout_after hl hq]
  exact if_neg (Nat.not_lt.2 hi)

theorem exec_vins_beyond : exec (.vins l vd sa imm w) s = faults s l 1 [sa] r 4 0 := by
  refine exec_of_fault (c := .vins l vd sa imm w) h rfl ?_
  rw [hq, layout_after hl hq]
  exact if_neg (Nat.not_lt.2 hi)

end
end

section
variable (hl : layout r.r.fmt w = none)
include hl

theorem exec_vsel_format : exec (.vsel l vd va vb pg w) s = faults s l 1 [] r 4 0 := by
  refine exec_of_fault (c := .vsel l vd va vb pg w) h rfl ?_
  rw [atIns_fmt, hl]

theorem exec_vbcast_format : exec (.vbcast l vd sa imm w) s = faults s l 1 [sa] r 4 0 := by
  refine exec_of_fault (c := .vbcast l vd sa imm w) h rfl ?_
  rw [atIns_fmt, hl]

theorem exec_vext_format : exec (.vext l sa va imm w) s = faults s l 1 [sa] r 4 0 := by
  refine exec_of_fault (c := .vext l sa va imm w) h rfl ?_
  rw [atIns_fmt, hl]

theorem exec_vins_format : exec (.vins l vd sa imm w) s = faults s l 1 [sa] r 4 0 := by
  refine exec_of_fault (c := .vins l vd sa imm w) h rfl ?_
  rw [atIns_fmt, hl]

end
end
end

/-- Settles O24: the format, W, the part, the half, the element number and the predicate decide what each instruction does. -/
theorem vectorMovesAndConversions : Obligations.VectorMovesAndConversions := by
  intro s l r vd va vb sa pg imm part half zm w h act n1 set fp q
  refine ⟨fun hf => ⟨(vfun32_value h hf : execVrcp l vd va pg zm w s = _), (vfun32_value h hf : execVrsqrt l vd va pg zm w s = _)⟩,
    fun hf hw => ?_,
    fun hp => ⟨(vbits_all h hp : execVand l vd va vb pg zm s = _), (vbits_all h hp : execVor l vd va vb pg zm s = _),
      (vbits_all h hp : execVxor l vd va vb pg zm s = _)⟩,
    ?_, fun hp => ⟨fun wd => exec_vcvtw h hp, fun wd => exec_vcvtw_beyond h hp, exec_vcvtw_format h hp⟩,
    fun hp => loaded_rejects (decide_eq_false (Nat.not_lt.2 hp)), fun hh => ⟨fun wd hn => exec_vnrw h hh hn rfl, exec_vnrw_format h hh⟩,
    fun hh => loaded_rejects (decide_eq_false (Nat.not_lt.2 hh)), exec_of_ok_no_regs (c := .vi2f l vd va pg zm) h rfl rfl,
    exec_of_ok_no_regs (c := .vf2i l vd va pg zm) h rfl rfl, exec_of_ok_no_regs (c := .vmov l vd va) h rfl rfl,
    fun n wd hl => ⟨exec_vsel h hl, exec_vbcast h hl rfl, fun hi => ⟨exec_vext h hl rfl hi, exec_vins h hl rfl hi⟩, fun hi => ?_⟩,
    fun hl => ⟨exec_vsel_format h hl, ?_⟩⟩
  · simp only [List.forall_mem_cons]
    exact ⟨(vfun32_format h hf hw : execVrcp l vd va pg zm w s = _), (vfun32_format h hf hw : execVrsqrt l vd va pg zm w s = _),
      List.forall_mem_nil _⟩
  · simp only [List.forall_mem_cons]
    exact ⟨⟨(vbits_none h · : _ → execVand l vd va vb pg zm s = _), (vbits_mixed h · · : _ → _ → ∃ v, execVand l vd va vb pg zm s = _)⟩,
      ⟨(vbits_none h · : _ → execVor l vd va vb pg zm s = _), (vbits_mixed h · · : _ → _ → ∃ v, execVor l vd va vb pg zm s = _)⟩,
      ⟨(vbits_none h · : _ → execVxor l vd va vb pg zm s = _), (vbits_mixed h · · : _ → _ → ∃ v, execVxor l vd va vb pg zm s = _)⟩,
      List.forall_mem_nil _⟩
  · simp only [List.forall_mem_cons]
    exact ⟨exec_vext_beyond h hl rfl hi, exec_vins_beyond h hl rfl hi, List.forall_mem_nil _⟩
  · simp only [List.forall_mem_cons]
    exact ⟨exec_vbcast_format h hl, exec_vext_format h hl, exec_vins_format h hl, List.forall_mem_nil _⟩

end Sys2Proof.Machine
end

section
/-!
PROOFS. The tile instructions (R156, R169, R174, R176, R188): O25.
-/
namespace Sys2Proof.Machine
open Sys2Proof

/-! ## Instructions over one or two handles -/

section
variable {s : State} {l : Nat} {r : CellRun} {th k : Nat} {f : CellRun → State → Nat → Res}

theorem withTile_unbound (h : gT r th = none) : withTile l r s th f = .fault 5 0 := by
  simp only [withTile, h]

theorem withTile_bound (h : gT r th = some k) :
    withTile l r s th f = f (settle l (touches (1 + k) 0 tileLen) r s).1 (settle l (touches (1 + k) 0 tileLen) r s).2 k := by
  simp only [withTile, h]

variable {cost : Nat} {regs : List Nat}

@[simp] theorem gT_atTile {h : Nat} : gT (atTile s l cost regs r k).1 h = gT r h := gT_settle.trans gT_atIns

@[simp] theorem atTile_fmt : (atTile s l cost regs r k).1.r.fmt = r.r.fmt := settle_fmt.trans atIns_fmt

@[simp] theorem atTile_rnd : (atTile s l cost regs r k).1.r.rnd = r.r.rnd := settle_rnd.trans atIns_rnd

@[simp] theorem gV_settle {i : Nat} {g : Access → Bool} : gV (settle l g r s).1 i = gV r i := by
  obtain ⟨_, _, _, _, _, _, _, hv, _⟩ := settle_flow l g r s
  rw [gV, hv, gV]

@[simp] theorem gV_atTile {i : Nat} : gV (atTile s l cost regs r k).1 i = gV r i := gV_settle.trans gV_settle

end

section
variable {s : State} {l : Fin 6144} {r : CellRun} (h : cellRun s l = some r) {c : Instr} {cost : Nat} {regs : List Nat} {td : Fin 4}
include h

section
variable {f : CellRun → State → Nat → Res} (hc : exec c s = both (ins s l cost regs fun r s => withTile l r s td f))
include hc

theorem exec_tile_unbound (hb : gT r td = none) : exec c s = faults s l cost regs r 5 0 :=
  exec_of_fault h hc (withTile_unbound (gT_atIns.trans hb))

variable {k : Nat} (hb : gT r td = some k)
include hb

theorem exec_tile_ok {r' : CellRun} {s' : State} (hf : f (atTile s l cost regs r k).1 (atTile s l cost regs r k).2 k = .ok r' s') :
    exec c s = .next (setRun s' l r') :=
  exec_of_ok h hc ((withTile_bound (gT_atIns.trans hb)).trans hf)

theorem exec_tile_fault {code imm : Nat} (hf : f (atTile s l cost regs r k).1 (atTile s l cost regs r k).2 k = .fault code imm) :
    exec c s = faults s l cost regs r code imm :=
  exec_of_fault h hc ((withTile_bound (gT_atIns.trans hb)).trans hf)

end

section
variable {ts : Fin 4} {f : CellRun → State → Nat → Nat → Res}
  (hc : exec c s = both (ins s l cost regs fun r s => withTile l r s td fun r s k => withTile l r s ts fun r s j => f r s k j))
include hc

/-- TILE, where either handle is unbound. -/
theorem exec_tiles_unbound (hb : gT r td = none ∨ gT r ts = none) : exec c s = faults s l cost regs r 5 0 := by
  cases hd : gT r td with
  | none => exact exec_tile_unbound h hc hd
  | some k => exact exec_tile_fault h hc hd (withTile_unbound (gT_atTile.trans (hb.resolve_left (by rw [hd]; exact Option.some_ne_none k))))

variable {k j : Nat} (hd : gT r td = some k) (hs : gT r ts = some j) {q : CellRun × State}
  (hq : settle l (touches (1 + j) 0 tileLen) (atTile s l cost regs r k).1 (atTile s l cost regs r k).2 = q)
include hd hs hq

theorem exec_tiles_ok {r' : CellRun} {s' : State} (hf : f q.1 q.2 k j = .ok r' s') : exec c s = .next (setRun s' l r') := by
  subst hq
  exact exec_tile_ok h hc hd ((withTile_bound (gT_atTile.trans hs)).trans hf)

theorem exec_tiles_fault {code imm : Nat} (hf : f q.1 q.2 k j = .fault code imm) : exec c s = faults s l cost regs r code imm := by
  subst hq
  exact exec_tile_fault h hc hd ((withTile_bound (gT_atTile.trans hs)).trans hf)

end
end

/-! ## Pieces, MX blocks and whole tiles -/

/-- Two tiles that TADD adds agree with FMT and, under an MX format, with each other (R174, R188). -/
def tilesAgree (fmt : Nat) (a b : List Byte) : Prop :=
  tileOk fmt a = true ∧ tileOk fmt b = true ∧ (Num.isMx fmt = true → tileBlocks a = tileBlocks b)

theorem tilesAgree_iff {fmt : Nat} {a b : List Byte} :
    (!tileOk fmt a || !tileOk fmt b || (Num.isMx fmt && tileBlocks a != tileBlocks b)) = false ↔ tilesAgree fmt a b := by
  simp [tilesAgree, and_assoc]

section
variable {s : State} {l : Fin 6144} {r : CellRun} (h : cellRun s l = some r) {vd : Fin 16} {td : Fin 4} {sa : Fin 32} {imm : BitVec 6} {k : Nat}
  (hb : gT r td = some k)
include h hb

section
variable {p : CellRun × State} (hp : atTile s l 1 [sa] r k = p)
include hp

section
variable {o : Nat} (ho : tileOff p.1 sa imm = o)
include ho

theorem exec_tld (hin : o ≤ 2048) : exec (.tld l vd td sa imm) s =
    .next (setRun p.2 l (pV p.1 vd (BitVec.ofNat 512 (ofLeBytes (sliceBytes (slotTile p.2 l k) o 64))))) := by
  refine exec_tile_ok (c := .tld l vd td sa imm) h rfl hb ?_
  simp only [hp, ho, if_neg (Nat.not_lt.2 hin)]

theorem exec_tst (hin : o ≤ 2048) : exec (.tst l vd td sa imm) s =
    .next (setRun (setSlotTile p.2 l k (putBytes (slotTile p.2 l k) o (leBytes 64 (gV p.1 vd).toNat))) l p.1) := by
  refine exec_tile_ok (c := .tst l vd td sa imm) h rfl hb ?_
  simp only [hp, ho, if_neg (Nat.not_lt.2 hin)]

theorem exec_tld_outside (hout : 2048 < o) : exec (.tld l vd td sa imm) s = faults s l 1 [sa] r 1 0 := by
  refine exec_tile_fault (c := .tld l vd td sa imm) h rfl hb ?_
  simp only [hp, ho, if_pos hout]

theorem exec_tst_outside (hout : 2048 < o) : exec (.tst l vd td sa imm) s = faults s l 1 [sa] r 1 0 := by
  refine exec_tile_fault (c := .tst l vd td sa imm) h rfl hb ?_
  simp only [hp, ho, if_pos hout]

end

theorem exec_vmxu (hm : mxOk r.r.fmt (slotTile p.2 l k) (gS p.1 sa).toNat = true) :
    let t := slotTile p.2 l k
    let blk := Num.mxBlock r.r.fmt (tileBlocks t) (gS p.1 sa).toNat (tileData t)
    let x := Num.drawAll r.r.rnd (fun d v => Num.encode Num.fp32 r.r.rnd d v)
      (((Num.mxDecode r.r.fmt blk.1 blk.2).drop (if imm.getLsbD 0 then 16 else 0)).take 16) (cellRand p.2 l)
    exec (.vmxu l vd td sa imm) s = .next (setRun (keepRand p.2 l x.2) l (pV p.1 vd (merge 16 32 0 (fun _ => true) false x.1))) := by
  subst hp
  refine exec_tile_ok (c := .vmxu l vd td sa imm) h rfl hb ?_
  simp only [atTile_fmt, atTile_rnd, hm, Bool.not_true, Bool.false_eq_true, if_false]

theorem exec_vmxu_format (hm : mxOk r.r.fmt (slotTile p.2 l k) (gS p.1 sa).toNat = false) :
    exec (.vmxu l vd td sa imm) s = faults s l 1 [sa] r 4 0 := by
  subst hp
  refine exec_tile_fault (c := .vmxu l vd td sa imm) h rfl hb ?_
  simp only [atTile_fmt, hm, Bool.not_false, if_true]

end

section
variable (hv : vd.val % 2 = 0) {p : CellRun × State} (hp : atTile s l 2 [sa] r k = p)
include hv hp

theorem exec_vmxp (hm : mxOk r.r.fmt (slotTile p.2 l k) (gS p.1 sa).toNat = true) :
    let t := slotTile p.2 l k
    let b := (gS p.1 sa).toNat
    let w := Num.elemBits r.r.fmt
    let x := Num.mxEncode r.r.fmt r.r.rnd (values32 (gV r vd) ++ values32 (gV r (vd + 1))) (cellRand p.2 l)
    let t' := putBytes (putBytes t (64 + 4 * w * b) (Num.unelems w x.2.1)) (64 + 4 * w * tileBlocks t + b) (leBytes 1 x.1)
    exec (.vmxp l vd td sa) s = .next (setRun (keepRand (setSlotTile p.2 l k t') l x.2.2) l p.1) := by
  subst hp
  refine exec_tile_ok (c := .vmxp l vd td sa) h (loaded_accepts (beq_iff_eq.2 hv)) hb ?_
  simp only [atTile_fmt, atTile_rnd, gV_atTile, hm, Bool.not_true, Bool.false_eq_true, if_false]

theorem exec_vmxp_format (hm : mxOk r.r.fmt (slotTile p.2 l k) (gS p.1 sa).toNat = false) :
    exec (.vmxp l vd td sa) s = faults s l 2 [sa] r 4 0 := by
  subst hp
  refine exec_tile_fault (c := .vmxp l vd td sa) h (loaded_accepts (beq_iff_eq.2 hv)) hb ?_
  simp only [atTile_fmt, hm, Bool.not_false, if_true]

end

section
variable {p : CellRun × State} (hp : atTile s l 32 [sa] r k = p)
include hp

theorem exec_tmuls (ht : tileOk r.r.fmt (slotTile p.2 l k) = true) :
    let t := slotTile p.2 l k
    let x := Num.tileScale r.r.fmt r.r.rnd (tileBlocks t) (tileData t) ((gS p.1 sa).toNat % 2 ^ 32) (cellRand p.2 l)
    exec (.tmuls l td sa) s = .next (setRun (keepRand (setSlotTile p.2 l k (withData t x.1)) l x.2) l p.1) := by
  subst hp
  refine exec_tile_ok (c := .tmuls l td sa) h rfl hb ?_
  simp only [atTile_fmt, atTile_rnd, ht, Bool.not_true, Bool.false_eq_true, if_false]

theorem exec_tmuls_format (ht : tileOk r.r.fmt (slotTile p.2 l k) = false) : exec (.tmuls l td sa) s = faults s l 32 [sa] r 4 0 := by
  subst hp
  refine exec_tile_fault (c := .tmuls l td sa) h rfl hb ?_
  simp only [atTile_fmt, ht, Bool.not_false, if_true]

end

section
variable {ts : Fin 4} {j : Nat} (hs : gT r ts = some j)
include hs

section
variable {q : CellRun × State} (hq : settle l (touches (1 + j) 0 tileLen) (atTile s l 32 [] r k).1 (atTile s l 32 [] r k).2 = q)
include hq

theorem exec_tadd (ha : tilesAgree r.r.fmt (slotTile q.2 l k) (slotTile q.2 l j)) :
    let a := slotTile q.2 l k
    let b := slotTile q.2 l j
    let x := Num.tileAdd r.r.fmt r.r.rnd (tileBlocks a) (tileData a) (tileData b) (cellRand q.2 l)
    exec (.tadd l td ts) s = .next (setRun (keepRand (setSlotTile q.2 l k (withData a x.1)) l x.2) l q.1) := by
  have fmt : q.1.r.fmt = r.r.fmt := by rw [← hq, settle_fmt, atTile_fmt]
  have rnd : q.1.r.rnd = r.r.rnd := by rw [← hq, settle_rnd, atTile_rnd]
  refine exec_tiles_ok (c := .tadd l td ts) h rfl hb hs hq ?_
  simp only [fmt, rnd, tilesAgree_iff.2 ha, Bool.false_eq_true, if_false]

theorem exec_tadd_format (ha : ¬ tilesAgree r.r.fmt (slotTile q.2 l k) (slotTile q.2 l j)) :
    exec (.tadd l td ts) s = faults s l 32 [] r 4 0 := by
  have fmt : q.1.r.fmt = r.r.fmt := by rw [← hq, settle_fmt, atTile_fmt]
  refine exec_tiles_fault (c := .tadd l td ts) h rfl hb hs hq ?_
  simp only [fmt, if_pos (Bool.eq_true_of_not_eq_false (mt tilesAgree_iff.1 ha))]

end

theorem exec_tcopy {q : CellRun × State} (hq : settle l (touches (1 + j) 0 tileLen) (atTile s l 33 [] r k).1 (atTile s l 33 [] r k).2 = q) :
    exec (.tcopy l td ts) s = .next (setRun (if td = ts then q.2 else setSlotTile q.2 l k (slotTile q.2 l j)) l q.1) :=
  exec_tiles_ok (c := .tcopy l td ts) h rfl hb hs hq rfl

end
end

/-! ## Allocation and release (R156) -/

section
variable {s : State} {l : Fin 6144} {r : CellRun} (h : cellRun s l = some r) (ht : tenantRun r = false) {td : Fin 4}
include h ht

theorem exec_tfree {k : Nat} (hb : gT r td = some k) : exec (.tfree l td) s =
    .next (setRun s l { r with pc := r.pc + 1, cycles := r.cycles + 1, r := { r.r with t := r.r.t.set td none } }) := by
  have bound : (gT r td).isNone = false := by rw [hb]; rfl
  exact exec_of_ok_no_regs (c := .tfree l td) h (stockOnly_stock h ht) (if_neg (Bool.eq_false_iff.1 bound))

theorem exec_tfree_unbound (hb : gT r td = none) : exec (.tfree l td) s = faults s l 1 [] r 5 0 := by
  refine exec_of_fault (c := .tfree l td) h (stockOnly_stock h ht) ?_
  simp only [gT_atIns, hb, Option.isNone_none, if_true]

theorem exec_talloc (hb : gT r td = none) (hn : r.own.length < 2) : exec (.talloc l td) s = .next (setRun s l
    { r with pc := r.pc + 1, cycles := r.cycles + 1, own := r.own ++ [6 + r.own.length],
             r := { r.r with t := r.r.t.set td (some (6 + r.own.length)) } }) := by
  have free : ((gT r td).isSome || decide (2 ≤ r.own.length)) = false := by simp [hb, hn]
  exact exec_of_ok_no_regs (c := .talloc l td) h (stockOnly_stock h ht) (if_neg (Bool.eq_false_iff.1 free))

theorem exec_talloc_refused (hr : (gT r td).isSome = true ∨ 2 ≤ r.own.length) : exec (.talloc l td) s = faults s l 1 [] r 5 0 := by
  have taken : ((gT r td).isSome || decide (2 ≤ r.own.length)) = true := by simpa using hr
  refine exec_of_fault (c := .talloc l td) h (stockOnly_stock h ht) ?_
  rw [atIns_no_regs]
  exact if_pos taken

end

/-- Settles O25: the handles, the piece, the header and the formats decide what a tile instruction does, its profile whether TALLOC and TFREE load. -/
theorem tileInstructions : Obligations.TileInstructions := by
  intro s l r vd td sa imm h n
  refine ⟨fun k hb => ?_, fun k hb hv => ⟨exec_vmxp h hb hv rfl, exec_vmxp_format h hb hv rfl⟩, fun hv => loaded_rejects ?_,
    fun ts k j hb hs => ⟨exec_tadd h hb hs rfl, exec_tadd_format h hb hs rfl⟩, fun ts k j hb hs => exec_tcopy h hb hs rfl,
    fun k hb => ⟨exec_tmuls h hb rfl, exec_tmuls_format h hb rfl⟩,
    fun k hb => ⟨exec_tile_ok (c := .tzero l td) h rfl hb rfl, exec_tile_ok (c := .tcrc l sa td) h rfl hb rfl⟩, fun hb => ?_,
    fun ts hb => ⟨exec_tiles_unbound (c := .tadd l td ts) h rfl (.inr hb), exec_tiles_unbound (c := .tcopy l td ts) h rfl (.inr hb)⟩,
    fun ht => ⟨fun k => exec_tfree h ht, exec_tfree_unbound h ht, exec_talloc h ht, exec_talloc_refused h ht⟩,
    fun ht => ⟨stockOnly_tenant h ht, stockOnly_tenant h ht⟩⟩
  · refine ⟨fun hin => ⟨exec_tld h hb rfl rfl hin, exec_tst h hb rfl rfl hin⟩, fun hout => ?_, exec_vmxu h hb rfl, exec_vmxu_format h hb rfl⟩
    simp only [List.forall_mem_cons]
    exact ⟨exec_tld_outside h hb rfl rfl hout, exec_tst_outside h hb rfl rfl hout, List.forall_mem_nil _⟩
  · rw [hv]
    rfl
  · refine ⟨?_, fun hv => exec_tile_unbound (c := .vmxp l vd td sa) h (loaded_accepts (beq_iff_eq.2 hv)) hb,
      exec_tile_unbound (c := .tmuls l td sa) h rfl hb, exec_tile_unbound (c := .tzero l td) h rfl hb,
      exec_tile_unbound (c := .tcrc l sa td) h rfl hb, fun ts => ⟨exec_tiles_unbound (c := .tadd l td ts) h rfl (.inl hb),
        exec_tiles_unbound (c := .tcopy l td ts) h rfl (.inl hb)⟩⟩
    simp only [List.forall_mem_cons]
    exact ⟨exec_tile_unbound (c := .tld l vd td sa imm) h rfl hb, exec_tile_unbound (c := .tst l vd td sa imm) h rfl hb,
      exec_tile_unbound (c := .vmxu l vd td sa imm) h rfl hb, List.forall_mem_nil _⟩

end Sys2Proof.Machine
end

section
/-!
PROOFS. Packets of a swarm at its cells (R98, R200 to R209, R442): O56, its first part.
-/
namespace Sys2Proof.Machine
open Sys2Proof

/-! ## Which swarm packets are events (R200, R206, R442) -/

/-- The packet is a SWARM_ACK with one of the control indices `lo` to `hi` (R200). -/
def controlIndex (p : Packet) (lo hi : Nat) : Prop :=
  p.h.k = some .swarmAck ∧ 0xFFFFFFF0 + lo ≤ p.h.x 64 32 ∧ p.h.x 64 32 ≤ 0xFFFFFFF0 + hi

section
variable {s : State} {p : Packet}

theorem exec_swarmTile_of_other (h : p.h.k ≠ some .swarmTile) : exec (.swarmTile p) s = .next s := congrArg Host.Outcome.next (if_pos h)

theorem exec_swarmTile (h : p.h.k = some .swarmTile) :
    let l := swarmCell (p.h.x 0 8) (p.h.x 32 32) (p.h.x 64 32)
    exec (.swarmTile p) s = .next (cellEvent s l 5 p (fun s => swarmTile s l p)) :=
  congrArg Host.Outcome.next (if_neg (not_not.2 h))

section
variable {lo hi : Nat} {f : State → State}

theorem controlEvent_of_other (h : ¬ controlIndex p lo hi) : controlEvent s p lo hi f = s := by
  refine if_pos ?_
  simpa [controlIndex, imp_iff_not_or, or_assoc] using h

theorem controlEvent_of_index (h : controlIndex p lo hi) :
    controlEvent s p lo hi f = cellEvent s (controlCell (p.h.x 0 8) (p.h.x 32 32)) 6 p f := by
  refine if_neg ?_
  simpa [controlIndex, and_assoc] using h

/-- A command that takes the control indices `lo` to `hi` leaves the state alone at every other packet. -/
theorem exec_control_of_other {c : Instr} (hc : exec c s = .next (controlEvent s p lo hi f)) (h : ¬ controlIndex p lo hi) :
    exec c s = .next s := by
  rw [hc, controlEvent_of_other h]

/-- It brings a packet of those indices to the control cell. -/
theorem cellRule_of_control {c : Instr} (hc : exec c s = .next (controlEvent s p lo hi f)) (h : controlIndex p lo hi) :
    cellRule c s (controlCell (p.h.x 0 8) (p.h.x 32 32)) 6 p f := by
  rw [controlEvent_of_index h] at hc
  exact cellRule_of_cellEvent hc

end

/-! ### Acknowledgements and resend requests (R209) -/

/-- The two commands of a SWARM_ACK with a tile index, with whether the SOP of `p` is theirs. -/
def ackCommands (p : Packet) : List (Instr × Bool) :=
  [(.swarmAck p, decide (p.h.x 16 4 ≠ 1)), (.swarmResend p, decide (p.h.x 16 4 = 1))]

/-- What the command of a SWARM_ACK whose SOP is its own makes of it. -/
def ackTakes (s : State) (p : Packet) : State :=
  if p.h.x 64 32 < 0xFFFFFFF0 then
    cellEvent s (swarmCell (p.h.x 0 8) (p.h.x 32 32) (p.h.x 64 32)) 6 p
      (fun s => swarmAck s (swarmCell (p.h.x 0 8) (p.h.x 32 32) (p.h.x 64 32)) p)
  else controlEvent s p 6 14 (fun s => swDiscard s (p.h.x 0 8))

theorem exec_ackCommand {c : Instr × Bool} (hc : c ∈ ackCommands p) :
    exec c.1 s = .next (if p.h.k ≠ some .swarmAck ∨ c.2 = false then s else ackTakes s p) := by
  simp only [ackCommands, List.mem_cons, List.not_mem_nil, or_false] at hc
  rcases hc with rfl | rfl
  · exact congrArg Host.Outcome.next (if_congr (by simp) rfl rfl)
  · exact congrArg Host.Outcome.next (if_congr (by simp) rfl rfl)

section
variable {c : Instr × Bool} (hc : c ∈ ackCommands p)
include hc

theorem exec_ackCommand_of_other (h : p.h.k ≠ some .swarmAck ∨ c.2 = false) : exec c.1 s = .next s := by
  rw [exec_ackCommand hc, if_pos h]

theorem exec_ackCommand_of_sop (hk : p.h.k = some .swarmAck) (h2 : c.2 = true) : exec c.1 s = .next (ackTakes s p) := by
  rw [exec_ackCommand hc, if_neg (by simp [hk, h2])]

theorem exec_ackCommand_of_tile (hk : p.h.k = some .swarmAck) (h2 : c.2 = true) (hi : p.h.x 64 32 < 0xFFFFFFF0) :
    let l := swarmCell (p.h.x 0 8) (p.h.x 32 32) (p.h.x 64 32)
    exec c.1 s = .next (cellEvent s l 6 p (fun s => swarmAck s l p)) := by
  rw [exec_ackCommand_of_sop hc hk h2, ackTakes, if_pos hi]

theorem exec_ackCommand_of_control (hk : p.h.k = some .swarmAck) (h2 : c.2 = true) (hi : 0xFFFFFFF0 ≤ p.h.x 64 32) :
    exec c.1 s = .next (controlEvent s p 6 14 (fun s => swDiscard s (p.h.x 0 8))) := by
  rw [exec_ackCommand_of_sop hc hk h2, ackTakes, if_neg (Nat.not_lt.2 hi)]

/-- The control indices that are in use belong to other commands (R200). -/
theorem exec_ackCommand_of_used (h : controlIndex p 0 5 ∨ controlIndex p 15 15) : exec c.1 s = .next s := by
  obtain ⟨hk, hi, hn⟩ : p.h.k = some .swarmAck ∧ 0xFFFFFFF0 ≤ p.h.x 64 32 ∧ ¬ controlIndex p 6 14 := by
    rcases h with ⟨hk, below, above⟩ | ⟨hk, below, above⟩
    · exact ⟨hk, below, fun ⟨_, first, _⟩ => by omega⟩
    · exact ⟨hk, by omega, fun ⟨_, _, last⟩ => by omega⟩
  cases h2 : c.2 with
  | false => exact exec_ackCommand_of_other hc (.inr h2)
  | true => exact exec_control_of_other (exec_ackCommand_of_control hc hk h2 hi) hn

end

/-! ### Abort requests relayed (R200) -/

/-- What the management port does with an abort request of a home cell. -/
def abortRelayed (p : Packet) (s : State) : State :=
  let cause := p.h.x 64 32 - 0xFFFFFFF0
  offer (noteSource (trace s 3 2 0x0301 (p.h.x 0 8) cause) (p.h.x 0 8) (p.h.x 32 32) cause (p.h.x 8 8) 1) 229 p

theorem exec_swarmAbortRelay_of_other (h : ¬ controlIndex p 1 5) : exec (.swarmAbortRelay p) s = .next s := by
  refine congrArg Host.Outcome.next (if_neg ?_)
  simpa [controlIndex] using h

theorem exec_swarmAbortRelay (h : controlIndex p 1 5) : exec (.swarmAbortRelay p) s = .next (received s 228 p (abortRelayed p)) := by
  refine congrArg Host.Outcome.next (if_pos ?_)
  simpa [controlIndex, and_assoc] using h

end

/-! ## Tiles at the home cell (R206, R207) -/

/-- The slot that the packet names at its home cell (R197). -/
def namedSlot (s : State) (h : Hdr) : Option Slot := slotOf s (h.x 0 8) (h.x 32 32 % 2) (swLocal s (h.x 0 8) (h.x 64 32))

/-- A contribution to a tile whose result is formed (R206, R209). -/
def formedTile (s : State) (l : Nat) (p : Packet) (x : Slot) : State :=
  if x.acks.any (fun a => a.1 == p.h.x 8 8) then swDup s (p.h.x 0 8)
  else if x.ended then swDiscard s (p.h.x 0 8)
  else resendTo s l (p.h.x 0 8) (p.h.x 32 32 % 2) (swLocal s (p.h.x 0 8) (p.h.x 64 32)) (p.h.x 8 8) x

/-- A contribution that is good, at a slot in use (R206). -/
def heldTile (s : State) (l : Nat) (p : Packet) (x : Slot) : State :=
  let j := swLocal s (p.h.x 0 8) (p.h.x 64 32)
  if x.opseq ≠ p.h.x 32 32 then
    if opNewer (p.h.x 32 32) x.opseq then firstTile s l (p.h.x 0 8) (p.h.x 32 32 % 2) j p else swDiscard s (p.h.x 0 8)
  else if x.formed then formedTile s l p x
  else if x.counted.any (fun c => c.1 == p.h.x 8 8) then swDup s (p.h.x 0 8)
  else addTile s l (p.h.x 0 8) (p.h.x 32 32 % 2) j x p

/-- The slot with the acknowledgement of the member that `p` names; with the last member's its retention ends (R209). -/
def acknowledged (s : State) (p : Packet) (x : Slot) : Slot :=
  let y := { x with acks := x.acks ++ [(p.h.x 8 8, p.stamp)] }
  { y with ended := y.acks.length == swMembers s (p.h.x 0 8) }

/-- An acknowledgement or a resend request for a formed result (R209). -/
def formedAck (s : State) (l : Nat) (p : Packet) (x : Slot) : State :=
  let j := swLocal s (p.h.x 0 8) (p.h.x 64 32)
  if p.h.x 16 4 = 1 then resendTo s l (p.h.x 0 8) (p.h.x 32 32 % 2) j (p.h.x 8 8) x
  else if x.acks.any (fun a => a.1 == p.h.x 8 8) then s
  else setSlot s (p.h.x 0 8) (p.h.x 32 32 % 2) j (acknowledged s p x)

/-- An acknowledgement or a resend request that is good, at a slot in use (R209). -/
def heldAck (s : State) (l : Nat) (p : Packet) (x : Slot) : State :=
  if x.opseq ≠ p.h.x 32 32 || x.ended then swDiscard s (p.h.x 0 8)
  else if !x.formed then swDup s (p.h.x 0 8)
  else formedAck s l p x

section
variable {l : List (Nat × Nat)} {m : Nat}

/-- Member `m` stands in a list of members with their stamps. -/
theorem any_fst (h : ∃ a ∈ l, a.1 = m) : l.any (fun a => a.1 == m) = true := by simpa using h

theorem not_any_fst (h : ∀ a ∈ l, a.1 ≠ m) : ¬ l.any (fun a => a.1 == m) = true := by
  rw [List.any_eq_true]
  rintro ⟨a, ha, he⟩
  exact h a ha (beq_iff_eq.1 he)

end

section
variable {s : State} {l : Nat} {p : Packet}

theorem swarmTile_refused (h : contribOk s p = false) : swarmTile s l p = swDiscard s (p.h.x 0 8) := by
  simp only [swarmTile, h, Bool.not_false, if_true]

section
variable (hc : contribOk s p = true)
include hc

theorem swarmTile_silent (hs : swSilent s (p.h.x 0 8) (p.h.x 32 32) = true) : swarmTile s l p = s := by
  simp only [swarmTile, hc, hs, Bool.not_true, Bool.false_eq_true, if_false, if_true]

variable (hs : swSilent s (p.h.x 0 8) (p.h.x 32 32) = false)
include hs

theorem swarmTile_first (hn : namedSlot s p.h = none) :
    swarmTile s l p = firstTile s l (p.h.x 0 8) (p.h.x 32 32 % 2) (swLocal s (p.h.x 0 8) (p.h.x 64 32)) p := by
  unfold namedSlot at hn
  simp only [swarmTile, hc, hs, hn, Bool.not_true, Bool.false_eq_true, if_false]

theorem swarmTile_held {x : Slot} (hx : namedSlot s p.h = some x) : swarmTile s l p = heldTile s l p x := by
  unfold namedSlot at hx
  simp only [swarmTile, hc, hs, hx, Bool.not_true, Bool.false_eq_true, if_false]
  rfl

end

/-! ### A slot in use -/

section
variable {x : Slot}

theorem heldTile_newer (ho : x.opseq ≠ p.h.x 32 32) (hn : opNewer (p.h.x 32 32) x.opseq = true) :
    heldTile s l p x = firstTile s l (p.h.x 0 8) (p.h.x 32 32 % 2) (swLocal s (p.h.x 0 8) (p.h.x 64 32)) p :=
  (if_pos ho).trans (if_pos hn)

theorem heldTile_older (ho : x.opseq ≠ p.h.x 32 32) (hn : opNewer (p.h.x 32 32) x.opseq = false) :
    heldTile s l p x = swDiscard s (p.h.x 0 8) :=
  (if_pos ho).trans (if_neg (by simp [hn]))

section
variable (ho : x.opseq = p.h.x 32 32)
include ho

section
variable (hf : x.formed = true)
include hf

theorem heldTile_formed : heldTile s l p x = formedTile s l p x := (if_neg (not_not.2 ho)).trans (if_pos hf)

theorem heldTile_acknowledged (ha : ∃ a ∈ x.acks, a.1 = p.h.x 8 8) : heldTile s l p x = swDup s (p.h.x 0 8) :=
  (heldTile_formed ho hf).trans (if_pos (any_fst ha))

section
variable (ha : ∀ a ∈ x.acks, a.1 ≠ p.h.x 8 8)
include ha

theorem heldTile_ended (he : x.ended = true) : heldTile s l p x = swDiscard s (p.h.x 0 8) :=
  (heldTile_formed ho hf).trans ((if_neg (not_any_fst ha)).trans (if_pos he))

theorem heldTile_resent (he : x.ended = false) : heldTile s l p x =
    resendTo s l (p.h.x 0 8) (p.h.x 32 32 % 2) (swLocal s (p.h.x 0 8) (p.h.x 64 32)) (p.h.x 8 8) x :=
  (heldTile_formed ho hf).trans ((if_neg (not_any_fst ha)).trans (if_neg (by simp [he])))

end
end

section
variable (hf : x.formed = false)
include hf

theorem heldTile_open : heldTile s l p x = if x.counted.any (fun c => c.1 == p.h.x 8 8) then swDup s (p.h.x 0 8)
    else addTile s l (p.h.x 0 8) (p.h.x 32 32 % 2) (swLocal s (p.h.x 0 8) (p.h.x 64 32)) x p :=
  (if_neg (not_not.2 ho)).trans (if_neg (by simp [hf]))

theorem heldTile_counted (hc : ∃ c ∈ x.counted, c.1 = p.h.x 8 8) : heldTile s l p x = swDup s (p.h.x 0 8) :=
  (heldTile_open ho hf).trans (if_pos (any_fst hc))

theorem heldTile_added (hc : ∀ c ∈ x.counted, c.1 ≠ p.h.x 8 8) : heldTile s l p x =
    addTile s l (p.h.x 0 8) (p.h.x 32 32 % 2) (swLocal s (p.h.x 0 8) (p.h.x 64 32)) x p :=
  (heldTile_open ho hf).trans (if_neg (not_any_fst hc))

end
end
end

/-! ### Acknowledgements at the home cell (R209) -/

theorem swarmAck_refused (h : ¬ (swIndexOk s p.h = true ∧ p.h.x 16 4 ≤ 1)) : swarmAck s l p = swDiscard s (p.h.x 0 8) := by
  refine if_pos ?_
  simpa [imp_iff_not_or] using h

section
variable (hg : swIndexOk s p.h = true ∧ p.h.x 16 4 ≤ 1)
include hg

theorem swarmAck_empty (hn : namedSlot s p.h = none) : swarmAck s l p = swDup s (p.h.x 0 8) := by
  obtain ⟨hi, hs⟩ := hg
  unfold namedSlot at hn
  simp only [swarmAck, hi, hn, decide_eq_false (Nat.not_lt.2 hs), Bool.not_true, Bool.or_self, Bool.false_eq_true, if_false]

variable {x : Slot} (hx : namedSlot s p.h = some x)
include hx

theorem swarmAck_held : swarmAck s l p = heldAck s l p x := by
  obtain ⟨hi, hs⟩ := hg
  unfold namedSlot at hx
  simp only [swarmAck, hi, hx, decide_eq_false (Nat.not_lt.2 hs), Bool.not_true, Bool.or_self, Bool.false_eq_true, if_false]
  rfl

end

section
variable {x : Slot}

theorem heldAck_dead (h : ¬ (x.opseq = p.h.x 32 32 ∧ x.ended = false)) : heldAck s l p x = swDiscard s (p.h.x 0 8) := by
  refine if_pos ?_
  simpa [imp_iff_not_or] using h

section
variable (h : x.opseq = p.h.x 32 32 ∧ x.ended = false)
include h

theorem heldAck_live : heldAck s l p x = if x.formed = false then swDup s (p.h.x 0 8) else formedAck s l p x :=
  (if_neg (by simp [h])).trans (if_congr (by simp) rfl rfl)

theorem heldAck_early (hf : x.formed = false) : heldAck s l p x = swDup s (p.h.x 0 8) := (heldAck_live h).trans (if_pos hf)

theorem heldAck_formed (hf : x.formed = true) : heldAck s l p x = formedAck s l p x := (heldAck_live h).trans (if_neg (by simp [hf]))

end

theorem formedAck_resend (hs : p.h.x 16 4 = 1) : formedAck s l p x =
    resendTo s l (p.h.x 0 8) (p.h.x 32 32 % 2) (swLocal s (p.h.x 0 8) (p.h.x 64 32)) (p.h.x 8 8) x := if_pos hs

section
variable (hs : p.h.x 16 4 = 0)
include hs

theorem formedAck_again (ha : ∃ a ∈ x.acks, a.1 = p.h.x 8 8) : formedAck s l p x = s :=
  (if_neg (by omega)).trans (if_pos (any_fst ha))

theorem formedAck_first (ha : ∀ a ∈ x.acks, a.1 ≠ p.h.x 8 8) : formedAck s l p x =
    setSlot s (p.h.x 0 8) (p.h.x 32 32 % 2) (swLocal s (p.h.x 0 8) (p.h.x 64 32)) (acknowledged s p x) :=
  (if_neg (by omega)).trans (if_neg (not_any_fst ha))

end
end
end

end Sys2Proof.Machine
end

section
/-!
PROOFS. A swarm's control cell, its times and its members (R200 to R219, R442): O56.
-/
namespace Sys2Proof.Machine
open Sys2Proof

/-! ## The control cell (R202, R212, R442) -/

/-- A CREDIT_REQ that is good, for an operation that is not OPEN (R202). -/
def closedCredit (s : State) (h : Hdr) : State :=
  let k := h.x 0 8
  let op := h.x 32 32
  if op = swNext s k then openOp s k h
  else match (swRun s k).stored with
    | some r => if r.ended op then fromControl s k op (abortPacket s k h.src.toNat r) else swDiscard s k
    | none => swDiscard s k

section
variable {s : State} {h : Hdr}

theorem creditReq_not_running (hr : ¬ running s (fSwarm (h.x 0 8)) = true) : creditReq s h =
    fromControl s (h.x 0 8) (h.x 32 32)
      (swCtl s (h.x 0 8) h.src.toNat h.epoch.toNat (swExt (h.x 0 8) 0 3 5 (h.x 32 32) 0xFFFFFFFF 0)) :=
  if_pos (by simpa using hr)

section
variable (hr : running s (fSwarm (h.x 0 8)) = true)
include hr

theorem creditReq_refused (hc : controlOk s h false = false) : creditReq s h = swDiscard s (h.x 0 8) := by
  simp only [creditReq, hr, hc, Bool.not_true, Bool.not_false, Bool.false_eq_true, if_false, if_true]

section
variable (hc : controlOk s h false = true)
include hc

theorem creditReq_open {o : SwOp} (ho : swOp s (h.x 0 8) (h.x 32 32) = some o) (hp : o.isOpen = true) : creditReq s h =
    fromControl s (h.x 0 8) (h.x 32 32) (creditPacket s (h.x 0 8) h.src.toNat (h.x 8 8) o) := by
  simp only [creditReq, hr, hc, ho, hp, Bool.not_true, Bool.false_eq_true, if_false, if_true]

theorem creditReq_closed (ho : ¬ ∃ o, swOp s (h.x 0 8) (h.x 32 32) = some o ∧ o.isOpen = true) : creditReq s h = closedCredit s h := by
  cases hx : swOp s (h.x 0 8) (h.x 32 32) with
  | none =>
    simp only [creditReq, hr, hc, hx, Bool.not_true, Bool.false_eq_true, if_false]
    rfl
  | some o =>
    have shut : o.isOpen = false := Bool.eq_false_iff.2 fun hp => ho ⟨o, hx, hp⟩
    simp only [creditReq, hr, hc, hx, shut, Bool.not_true, Bool.false_eq_true, if_false]
    rfl

end
end

theorem closedCredit_next (hn : h.x 32 32 = swNext s (h.x 0 8)) : closedCredit s h = openOp s (h.x 0 8) h := if_pos hn

section
variable (hn : h.x 32 32 ≠ swNext s (h.x 0 8))
include hn

theorem closedCredit_aborted {r : AbortRec} (hs : (swRun s (h.x 0 8)).stored = some r) (he : r.ended (h.x 32 32) = true) :
    closedCredit s h = fromControl s (h.x 0 8) (h.x 32 32) (abortPacket s (h.x 0 8) h.src.toNat r) := by
  simp only [closedCredit, if_neg hn, hs, if_pos he]

theorem closedCredit_unknown (he : ∀ r, (swRun s (h.x 0 8)).stored = some r → r.ended (h.x 32 32) = false) :
    closedCredit s h = swDiscard s (h.x 0 8) := by
  cases hs : (swRun s (h.x 0 8)).stored with
  | none => simp only [closedCredit, if_neg hn, hs]
  | some r => simp only [closedCredit, if_neg hn, hs, he r hs, Bool.false_eq_true, if_false]

end

/-! ### Abort requests (R212) -/

variable {core : Bool}

theorem abortReqIn_refused (hc : controlOk s h core = false) : abortReqIn s h core = swDiscard s (h.x 0 8) := by
  simp only [abortReqIn, hc, Bool.not_false, if_true]

section
variable (hc : controlOk s h core = true)
include hc

theorem abortReqIn_none (ho : swOp s (h.x 0 8) (h.x 32 32) = none) : abortReqIn s h core = s := by
  simp only [abortReqIn, hc, ho, Bool.not_true, Bool.false_eq_true, if_false]

variable {o : SwOp} (ho : swOp s (h.x 0 8) (h.x 32 32) = some o)
include ho

theorem abortReqIn_open (hp : o.isOpen = true) :
    let cause := h.x 64 32 - 0xFFFFFFF0
    abortReqIn s h core =
      decide_ s (h.x 0 8) o cause (h.x 8 8) (if core then sourceOf s (h.x 0 8) (h.x 32 32) cause (h.x 8 8) else 0) := by
  simp only [abortReqIn, hc, ho, hp, Bool.not_true, Bool.false_eq_true, if_false, if_true]

theorem abortReqIn_ignored (hp : o.isOpen = false) :
    abortReqIn s h core = cnt s (Reg.SWARM.SWARM_COUNT_C.ABORT_REQ_IGNORED (h.x 0 8)) := by
  simp only [abortReqIn, hc, ho, hp, Bool.not_true, Bool.false_eq_true, if_false]

end
end

/-! ### ABORT_OP (R211) -/

/-- The newest OPEN operation of swarm `k`. -/
def newestOpen (s : State) (k : Nat) : Option SwOp :=
  (swOpen s k).find? (fun o => (swOpen s k).all (fun x => !opNewer x.opseq o.opseq))

section
variable {s : State} {w : Writer} {k : Nat}

theorem abortOp_unprivileged (hw : w.privileged = false) : abortOp s w k = regError s w (0x76C000 + k * 8) 4 true 5 :=
  if_pos (by simp [hw])

theorem abortOp_newest {o : SwOp} (hw : w.privileged = true) (hn : newestOpen s k = some o) :
    abortOp s w k = coreAbort s k o.opseq 5 0 3 := by
  unfold newestOpen at hn
  simp only [abortOp, hw, hn, Bool.not_true, Bool.false_eq_true, if_false]

theorem abortOp_none (hw : w.privileged = true) (hn : newestOpen s k = none) : abortOp s w k = s := by
  unfold newestOpen at hn
  simp only [abortOp, hw, hn, Bool.not_true, Bool.false_eq_true, if_false]

end

/-! ## Work that is due (R98, R202 to R212) -/

/-- A command that does `f` as task `t` of the scheduler core, every `n` ftu (R98, R377). -/
def coreTask (s : State) (t n : Nat) (f : State → State) : State := if taskDue s t n && !procAway s 3 then f (taskRun s t n) else s

section
variable {s : State} {t n : Nat} {f : State → State}

theorem coreTask_due (hd : taskDue s t n = true) (hp : procAway s 3 = false) : coreTask s t n f = f (taskRun s t n) :=
  if_pos (by simp [hd, hp])

theorem coreTask_idle (h : taskDue s t n = false ∨ ¬ procAway s 3 = false) : coreTask s t n f = s :=
  if_neg (by rcases h with h | h <;> simp [h])

end

/-! ### An ABORT sent again (R202, R212) -/

/-- The ABORT of operation `o` is to be sent again (R212). -/
def abortDue (s : State) (o : SwOp) : Prop := o.resends < 8 ∧ o.since + ticks (8 * (o.resends + 1)) ≤ s.now

/-- The 8th resend period of operation `o` has passed (R202). -/
def abortOver (s : State) (o : SwOp) : Prop := o.isOpen = false ∧ o.resends = 8 ∧ o.since + ticks 72 ≤ s.now

section
variable {s : State} {k : BitVec 8} {op : BitVec 32}

theorem exec_swarmAbortResend {o : SwOp} {r : AbortRec} (ho : swOp s k.toNat op.toNat = some o) (hr : o.rec_ = some r) (hd : abortDue s o) :
    exec (.swarmAbortResend k op) s = .next (o.owed.foldl
      (fun s m => fromControl s k.toNat op.toNat (abortPacket s k.toNat (swEp s k.toNat m) r)) (setOp s k.toNat { o with resends := o.resends + 1 })) := by
  change execSwarmAbortResend k op s = _
  unfold abortDue at hd
  simp only [execSwarmAbortResend, ho, hr, if_pos hd]

theorem exec_swarmAbortResend_idle (h : ∀ o r, swOp s k.toNat op.toNat = some o → o.rec_ = some r → ¬ abortDue s o) :
    exec (.swarmAbortResend k op) s = .next s := by
  change execSwarmAbortResend k op s = _
  cases ho : swOp s k.toNat op.toNat with
  | none => simp only [execSwarmAbortResend, ho]
  | some o =>
    cases hr : o.rec_ with
    | none => simp only [execSwarmAbortResend, ho, hr]
    | some r =>
      have early := h o r ho hr
      unfold abortDue at early
      simp only [execSwarmAbortResend, ho, hr, if_neg early]

theorem abortOver_iff {o : SwOp} : (!o.isOpen && o.resends == 8 && decide (o.since + ticks 72 ≤ s.now)) = true ↔ abortOver s o := by
  simp [abortOver, and_assoc]

theorem exec_swarmAbortResendLimit {o : SwOp} (ho : swOp s k.toNat op.toNat = some o) (hl : abortOver s o) :
    exec (.swarmAbortResendLimit k op) s =
      .next (swStatus (endOp (cnt s (Reg.SWARM.SWARM_COUNT_C.ABORT_UNSEEN k.toNat) o.owed.length) k.toNat op.toNat) k.toNat) := by
  change execSwarmAbortResendLimit k op s = _
  simp only [execSwarmAbortResendLimit, ho, if_pos (abortOver_iff.2 hl)]

theorem exec_swarmAbortResendLimit_idle (h : ∀ o, swOp s k.toNat op.toNat = some o → ¬ abortOver s o) :
    exec (.swarmAbortResendLimit k op) s = .next s := by
  change execSwarmAbortResendLimit k op s = _
  cases ho : swOp s k.toNat op.toNat with
  | none => simp only [execSwarmAbortResendLimit, ho]
  | some o => simp only [execSwarmAbortResendLimit, ho, if_neg (mt abortOver_iff.1 (h o ho))]

end

/-! ### Deadlines and results at the home cell (R209, R210, R217) -/

section
variable {s : State} {k : BitVec 8} {hi : Bool} {j : BitVec 18}

section
variable (h : slotCell s k.toNat (b2n hi) j.toNat = none)
include h

theorem exec_swarmDeadlineTimeout_of_none : exec (.swarmDeadlineTimeout k hi j) s = .next s := by
  change execSwarmDeadlineTimeout k hi j s = _
  simp only [execSwarmDeadlineTimeout, h]

theorem exec_swarmResultResend_of_none : exec (.swarmResultResend k hi j) s = .next s := by
  change execSwarmResultResend k hi j s = _
  simp only [execSwarmResultResend, h]

end

/-- The watermark has reached the deadline of a tile whose retention has not ended (R210). -/
def deadlinePast (s : State) (k : Nat) (x : Slot) : Prop := x.ended = false ∧ (lateMembers s k x).1 ≤ watermark s (tickStart s)

/-- The retained result of a tile is to be sent again (R209). -/
def resultDue (s : State) (x : Slot) : Prop :=
  x.formed = true ∧ x.ended = false ∧ x.resultAt + ticks (16 * (x.resends + 1)) ≤ s.time.toNat

/-- The slot with one more of its resend periods used (R209). -/
def resentSlot (x : Slot) : Slot := { x with resends := x.resends + 1 }

/-- The retained copy of a tile is poisoned or fails its CRC (R217). -/
def badCopy (s : State) (k b j : Nat) : Bool :=
  hbmPoisoned s (accAddr s k b j) tileLen || !tileCrcOk (hbmRdN s (accAddr s k b j) tileLen)

/-- The members of swarm `k` that have not acknowledged the tile (R209). -/
def unacked (s : State) (k : Nat) (x : Slot) : List Nat := (swAll s k).filter (fun m => !x.acks.any (fun a => a.1 == m))

theorem deadlinePast_iff {x : Slot} :
    (!x.ended && decide ((lateMembers s k.toNat x).1 ≤ watermark s (tickStart s))) = true ↔ deadlinePast s k.toNat x := by
  simp [deadlinePast]

theorem resultDue_iff {x : Slot} :
    (x.formed && !x.ended && decide (x.resultAt + ticks (16 * (x.resends + 1)) ≤ s.time.toNat)) = true ↔ resultDue s x := by
  simp [resultDue, and_assoc]

theorem badCopy_iff {b i : Nat} : badCopy s k.toNat b i = true ↔
    hbmPoisoned s (accAddr s k.toNat b i) tileLen = true ∨ tileCrcOk (hbmRdN s (accAddr s k.toNat b i) tileLen) = false := by
  simp [badCopy]

section
variable {l : Nat} {x : Slot} (h : slotCell s k.toNat (b2n hi) j.toNat = some (l, x))
include h

theorem exec_swarmDeadlineTimeout {m : Nat} {ms : List Nat} (hm : (lateMembers s k.toNat x).2 = m :: ms) (hp : deadlinePast s k.toNat x) :
    exec (.swarmDeadlineTimeout k hi j) s = .next (cellAbort s l k.toNat x.opseq 1 m) := by
  change execSwarmDeadlineTimeout k hi j s = _
  simp only [execSwarmDeadlineTimeout, h, hm, if_pos (deadlinePast_iff.2 hp)]

theorem exec_swarmDeadlineTimeout_met (hn : (lateMembers s k.toNat x).2 = [] ∨ ¬ deadlinePast s k.toNat x) :
    exec (.swarmDeadlineTimeout k hi j) s = .next s := by
  change execSwarmDeadlineTimeout k hi j s = _
  cases hm : (lateMembers s k.toNat x).2 with
  | nil => simp only [execSwarmDeadlineTimeout, h, hm]
  | cons m ms =>
    have early : ¬ deadlinePast s k.toNat x := hn.resolve_left (by simp [hm])
    simp only [execSwarmDeadlineTimeout, h, hm, if_neg (mt deadlinePast_iff.1 early)]

theorem exec_swarmResultResend_early (hd : ¬ resultDue s x) : exec (.swarmResultResend k hi j) s = .next s := by
  change execSwarmResultResend k hi j s = _
  simp only [execSwarmResultResend, h, if_neg (mt resultDue_iff.1 hd)]

theorem exec_swarmResultResend (hd : resultDue s x) :
    let u := setSlot s k.toNat (b2n hi) j.toNat (resentSlot x)
    let ms := unacked u k.toNat (resentSlot x)
    exec (.swarmResultResend k hi j) s = .next
      ((if badCopy u k.toNat (b2n hi) j.toNat = true then ms.take 1 else ms).foldl
        (fun s m => resendTo s l k.toNat (b2n hi) j.toNat m (resentSlot x)) u) := by
  change execSwarmResultResend k hi j s = _
  simp only [execSwarmResultResend, h, if_pos (resultDue_iff.2 hd)]
  rfl

end
end

/-! ## Members (R204, R213, R219) -/

/-- What an end-point does with a packet of an operation that no abort has ended there (R213). -/
def unlessAborted (e : Fin 2) (p : Packet) (f : State → State) (s : State) : State :=
  if abortedOp s e.val (p.h.x 0 8) (p.h.x 32 32) then s else f s

/-- A command that takes the swarm packets of kind `k` and sub-operation `sop` at end-point `e`. -/
def onSwarm (s : State) (e : Fin 2) (p : Packet) (k : Kind) (sop : Nat) (f : State → State) : State :=
  if !swArrives p k sop then s else received s (224 + e.val) p (unlessAborted e p f)

/-- The limit of one contribution raised, and the tiles sent that it allows (R204). -/
def creditOne (p : Packet) (s : State) (x : Contrib) : State :=
  let limit := newLimit x.limit (p.h.x 96 16)
  if x.st = 1 then sendTiles (setContrib s { x with limit := limit }) x.did (limit - x.sent) else s

/-- What an end-point does on a CREDIT (R204). -/
def creditTaken (e : Fin 2) (p : Packet) (s : State) : State := (contribsFor s e.val p.h).foldl (creditOne p) s

/-- What an end-point does on a SWARM_RESULT (R219). -/
def resultTaken (e : Fin 2) (p : Packet) (s : State) : State := (contribsFor s e.val p.h).foldl (fun s x => takeResult s p x) s

/-- What an end-point does on the first ABORT of an operation (R213). -/
def abortTaken (e : Fin 2) (p : Packet) (s : State) : State :=
  let ended := s.ep.contribs.filter (fun x => x.ep == e.val && x.swarm == p.h.x 0 8 && atOrAfter x.opseq (p.h.x 32 32))
  closeOps (ended.foldl (abortContrib (p.h.x 20 4)) s) e.val (p.h.x 0 8) (p.h.x 32 32)

/-- The commands that take swarm packets at an end-point, with the kinds and the sub-operations of these. -/
def memberCommands (e : Fin 2) (p : Packet) : List (Instr × Kind × Nat) :=
  [(.swarmCreditReceive e p, .swarmCtl, 2), (.swarmResultReceive e p, .swarmResult, 0), (.swarmAbortApply e p, .swarmCtl, 3)]

section
variable {s : State} {e : Fin 2} {p : Packet}

theorem exec_swarmCreditReceive : exec (.swarmCreditReceive e p) s = .next (onSwarm s e p .swarmCtl 2 (creditTaken e p)) := rfl

theorem exec_swarmResultReceive : exec (.swarmResultReceive e p) s = .next (onSwarm s e p .swarmResult 0 (resultTaken e p)) := rfl

theorem exec_swarmAbortApply : exec (.swarmAbortApply e p) s = .next (onSwarm s e p .swarmCtl 3 (abortTaken e p)) := rfl

theorem exec_memberCommand : ∀ c ∈ memberCommands e p, ∃ f, exec c.1 s = .next (onSwarm s e p c.2.1 c.2.2 f) := by
  simp only [memberCommands, List.forall_mem_cons, List.not_mem_nil, false_implies, implies_true, and_true]
  exact ⟨⟨_, exec_swarmCreditReceive⟩, ⟨_, exec_swarmResultReceive⟩, ⟨_, exec_swarmAbortApply⟩⟩

variable {k : Kind} {sop : Nat} {f : State → State}

theorem onSwarm_of_other (h : swArrives p k sop = false) : onSwarm s e p k sop f = s := if_pos (by simp [h])

section
variable (h : swArrives p k sop = true)
include h

theorem onSwarm_of_kind : onSwarm s e p k sop f = received s (224 + e.val) p (unlessAborted e p f) := if_neg (by simp [h])

variable (ha : arrived s (224 + e.val) p)
include ha

theorem onSwarm_aborted (hg : abortedOp (takeIn s (224 + e.val) p) e.val (p.h.x 0 8) (p.h.x 32 32) = true) :
    onSwarm s e p k sop f = takeIn s (224 + e.val) p := by
  rw [onSwarm_of_kind h, received_of_arrived ha, unlessAborted, if_pos hg]

theorem onSwarm_taken (hg : ¬ abortedOp (takeIn s (224 + e.val) p) e.val (p.h.x 0 8) (p.h.x 32 32) = true) :
    onSwarm s e p k sop f = f (takeIn s (224 + e.val) p) := by
  rw [onSwarm_of_kind h, received_of_arrived ha, unlessAborted, if_neg hg]

end
end

/-- The contribution of descriptor `did` that is due to ask for credit again (R219). -/
def askDue (s : State) (did : Nat) : Option Contrib :=
  s.ep.contribs.find? (fun x => x.did == did && x.st == 1 && x.limit == 0 && decide (x.asked + ticks 8 ≤ s.now))

section
variable {s : State} {did : Nat}

theorem exec_swarmCreditReqRepeat {x : Contrib} (h : askDue s did = some x) : exec (.swarmCreditReqRepeat did) s = .next (askCredit s x) := by
  change execSwarmCreditReqRepeat did s = _
  unfold askDue at h
  simp only [execSwarmCreditReqRepeat, h]

theorem exec_swarmCreditReqRepeat_idle (h : askDue s did = none) : exec (.swarmCreditReqRepeat did) s = .next s := by
  change execSwarmCreditReqRepeat did s = _
  unfold askDue at h
  simp only [execSwarmCreditReqRepeat, h]

end

/-- Settles O56: the TILE_INDEX and the SOP name the cell and its command; the slot, the operation or the contribution decides what it does there,
and a time does its work where it is due. -/
theorem swarms : Obligations.Swarms := by
  have next {s t : State} (h : s = t) : (.next s : Host.Outcome State Fault Refusal) = .next t := congrArg _ h
  refine ⟨?_, ?_, ?_, ?_, ?_, ?_, ?_, ?_, ?_⟩
  · intro s p k op i home ctl core ack on relay
    refine ⟨exec_swarmTile_of_other, fun hk => cellRule_of_cellEvent (exec_swarmTile hk), fun c hc => ?_, exec_control_of_other rfl,
      cellRule_of_control rfl, exec_control_of_other rfl, cellRule_of_control rfl, exec_control_of_other rfl, cellRule_of_control rfl,
      exec_swarmAbortRelay_of_other, fun hr => notArrived_of_received (exec_swarmAbortRelay hr),
      fun hr ha => (exec_swarmAbortRelay hr).trans (next (received_of_arrived ha))⟩
    exact ⟨exec_ackCommand_of_other hc, fun hk h2 hi => cellRule_of_cellEvent (exec_ackCommand_of_tile hc hk h2 hi),
      fun ho h2 => cellRule_of_control (exec_ackCommand_of_control hc ho.1 h2 (by have := ho.2.1; omega)) ho, exec_ackCommand_of_used hc⟩
  · intro s l p k op m b j held tile takes ack good
    refine ⟨swarmTile_refused, swarmTile_silent, fun ⟨hc, hs⟩ => swarmTile_first hc hs, fun x ⟨hc, hs⟩ hx => ?_, swarmAck_refused, swarmAck_empty,
      fun x hg hx => ?_⟩
    · have meets := swarmTile_held (l := l) hc hs hx
      exact ⟨fun ho hn => meets.trans (heldTile_newer ho hn), fun ho hn => meets.trans (heldTile_older ho hn),
        fun ho hf ha => meets.trans (heldTile_acknowledged ho hf ha), fun ho hf ha he => meets.trans (heldTile_ended ho hf ha he),
        fun ho hf ha he => meets.trans (heldTile_resent ho hf ha he), fun ho hf hm => meets.trans (heldTile_counted ho hf hm),
        fun ho hf hm => meets.trans (heldTile_added ho hf hm)⟩
    · intro live y
      have meets := swarmAck_held (l := l) hg hx
      have formed (hl : live) (hf : x.formed = true) : swarmAck s l p = formedAck s l p x := meets.trans (heldAck_formed hl hf)
      exact ⟨fun hl => meets.trans (heldAck_dead hl), fun hl hf => meets.trans (heldAck_early hl hf),
        fun hl hf hs => (formed hl hf).trans (formedAck_resend hs), fun hl hf hs ha => (formed hl hf).trans (formedAck_again hs ha),
        fun hl hf hs ha => (formed hl hf).trans (formedAck_first hs ha)⟩
  · intro s h core k op on it open_ credit
    refine ⟨creditReq_not_running, creditReq_refused, fun hr hc => ?_, ?_⟩
    · have closed := creditReq_closed hr hc
      exact ⟨fun o => creditReq_open hr hc, fun ho hn => (closed ho).trans (closedCredit_next hn),
        fun r ho hn hs he => (closed ho).trans (closedCredit_aborted hn hs he), fun ho hn he => (closed ho).trans (closedCredit_unknown hn he)⟩
    · intro cause asks
      exact ⟨abortReqIn_refused, abortReqIn_none, fun o hc ho => ⟨abortReqIn_open hc ho, abortReqIn_ignored hc ho⟩⟩
  · intro s w k newest
    exact ⟨fun hw => next (abortOp_unprivileged hw), fun o hw hn => next (abortOp_newest hw hn), fun hw hn => next (abortOp_none hw hn)⟩
  · intro s on
    exact ⟨fun hd hp => next (coreTask_due (f := (fillPlaces · 512)) hd hp), fun hd hp => next (coreTask_due (f := creditWindow) hd hp),
      fun h => next (coreTask_idle (f := (fillPlaces · 512)) h), fun h => next (coreTask_idle (f := creditWindow) h)⟩
  · intro s k op it due last
    exact ⟨fun o r => exec_swarmAbortResend, exec_swarmAbortResend_idle, fun o => exec_swarmAbortResendLimit, exec_swarmAbortResendLimit_idle⟩
  · intro s k hi j at_
    refine ⟨fun h => ⟨exec_swarmDeadlineTimeout_of_none h, exec_swarmResultResend_of_none h⟩, fun l x h => ?_⟩
    intro d past due y u ms a bad resent
    have again (hd : due) (l' : List Nat) (hl : (if badCopy u k.toNat (b2n hi) j.toNat = true then ms.take 1 else ms) = l') : resent l' := by
      subst hl
      exact exec_swarmResultResend h hd
    exact ⟨fun m ms => exec_swarmDeadlineTimeout h, exec_swarmDeadlineTimeout_met h, fun hd hb => again hd _ (if_neg (mt badCopy_iff.1 hb)),
      fun hd hb => again hd _ (if_pos (badCopy_iff.2 hb)), exec_swarmResultResend_early h⟩
  · intro s e p t w k gone mine grant
    refine ⟨fun c hc => ?_, fun ha hg => ?_⟩
    · obtain ⟨f, hf⟩ := exec_memberCommand (s := s) c hc
      exact ⟨fun ho => hf.trans (next (onSwarm_of_other ho)), fun hk => notArrived_of_received (hf.trans (next (onSwarm_of_kind hk))),
        fun hk ha hg => hf.trans (next (onSwarm_aborted hk ha hg))⟩
    · have takes {c : Instr} {k : Kind} {sop : Nat} {f : State → State} (hf : exec c s = .next (onSwarm s e p k sop f))
          (hk : swArrives p k sop = true) : exec c s = .next (f t) := hf.trans (next (onSwarm_taken hk ha hg))
      exact ⟨takes exec_swarmCreditReceive, takes exec_swarmResultReceive, takes exec_swarmAbortApply⟩
  · intro s did due
    exact ⟨fun x => exec_swarmCreditReqRepeat, exec_swarmCreditReqRepeat_idle⟩

end Sys2Proof.Machine
end

section
/-!
PROOFS. Completion counters and their credits (R261, R262, R264, R265, R289): O43.
-/
namespace Sys2Proof.Machine
open Sys2Proof

/-! ## CTR_CTL packets (R69) -/

/-- A command that acts on a CTR_CTL packet of code `n` alone. -/
def onCtr (s : State) (x : Fin 4) (p : Packet) (n : Nat) (f : State → State) : State :=
  if !isCtr p n then s else received s (224 + x.val) p f

/-- The commands that take CTR_CTL packets, with the codes of these. -/
def ctrCommands (x : Fin 4) (p : Packet) : List (Instr × Nat) :=
  [(.ctrRequest x p, 0), (.ctrGrant x p, 1), (.ctrRefuse x p, 3), (.ctrReturn x p, 2)]

/-- What the unit at crossbar port 224 + `x` does on a REQUEST: the home end-point refuses it (R289). -/
def requestTakes (x : Fin 4) (p : Packet) (s : State) : State :=
  if 2 ≤ x.val then
    offer s (224 + x.val) (mkPacket s {
      dest := p.h.src, src := BitVec.ofNat 12 (homeEpId s), tenant := p.h.tenant, kind := Kind.ctrCtl.code, ext := mkExt [(0, 4, 3), (32, 16, p.h.x 32 16)] })
  else ctrRequest s x.val p.h

/-- The key of the request of unit `x` that an answer `p` may end. -/
def askKey (x : Fin 4) (p : Packet) : Nat := 4096 * x.val + p.h.src.toNat

/-- What the answer `p` to a request of end-point `x` does: `f`, where that request waits (R262). -/
def answersAsk (x : Fin 4) (p : Packet) (f : State → State) (s : State) : State :=
  match findKey s.ep.asks (askKey x p) with
  | some (n, _) => if x.val < 2 ∧ n = p.h.x 32 16 then f s else s
  | none => s

/-- The request that `p` refuses has ended. -/
def askEnded (x : Fin 4) (p : Packet) (s : State) : State := { s with ep := { s.ep with asks := delKey s.ep.asks (askKey x p) } }

/-- The request that `p` grants has become a credit. -/
def askGranted (x : Fin 4) (p : Packet) (s : State) : State :=
  { s with ep := { s.ep with
    asks := delKey s.ep.asks (askKey x p)
    credits := s.ep.credits ++ [{ ep := x.val, dest := p.h.src.toNat, ctr := p.h.x 4 10, last := 0, busy := none, used := s.now }] } }

/-- What a unit does on a RETURN. -/
def returnTakes (x : Fin 4) (p : Packet) (s : State) : State :=
  if x.val < 2 ∧ ctrSt s x.val (p.h.x 4 10) = 1 ∧ rd s (Reg.EP.CTR_STATE.SRC x.val (p.h.x 4 10)) = p.h.src.toNat then
    ctrToHold s x.val (p.h.x 4 10)
  else s

section
variable {s : State} {x : Fin 4} {p : Packet}

theorem exec_ctrRequest : exec (.ctrRequest x p) s = .next (onCtr s x p 0 (requestTakes x p)) := rfl

theorem exec_ctrGrant : exec (.ctrGrant x p) s = .next (onCtr s x p 1 (answersAsk x p (askGranted x p))) := rfl

theorem exec_ctrRefuse : exec (.ctrRefuse x p) s = .next (onCtr s x p 3 (answersAsk x p (askEnded x p))) := rfl

theorem exec_ctrReturn : exec (.ctrReturn x p) s = .next (onCtr s x p 2 (returnTakes x p)) := rfl

theorem exec_ctrCommand : ∀ c ∈ ctrCommands x p, ∃ f, exec c.1 s = .next (onCtr s x p c.2 f) := by
  simp only [ctrCommands, List.forall_mem_cons, List.not_mem_nil, false_implies, implies_true, and_true]
  exact ⟨⟨_, exec_ctrRequest⟩, ⟨_, exec_ctrGrant⟩, ⟨_, exec_ctrRefuse⟩, ⟨_, exec_ctrReturn⟩⟩

section
variable {n : Nat} {f : State → State}

theorem onCtr_of_other (h : isCtr p n = false) : onCtr s x p n f = s := if_pos (by simp [h])

theorem onCtr_of_code (h : isCtr p n = true) : onCtr s x p n f = received s (224 + x.val) p f := if_neg (by simp [h])

theorem onCtr_of_arrived (h : isCtr p n = true) (ha : arrived s (224 + x.val) p) : onCtr s x p n f = f (takeIn s (224 + x.val) p) := by
  rw [onCtr_of_code h, received_of_arrived ha]

/-! ### Answers to a request -/

theorem answersAsk_waiting {t : Nat} (hx : x.val < 2) (h : findKey s.ep.asks (askKey x p) = some (p.h.x 32 16, t)) : answersAsk x p f s = f s := by
  simp [answersAsk, h, hx]

theorem answersAsk_discarded (h : 2 ≤ x.val ∨ ∀ t, findKey s.ep.asks (askKey x p) ≠ some (p.h.x 32 16, t)) : answersAsk x p f s = s := by
  unfold answersAsk
  cases ha : findKey s.ep.asks (askKey x p) with
  | none => rfl
  | some a =>
    refine if_neg fun ⟨hx, hn⟩ => h.elim (Nat.not_le.2 hx) fun hw => hw a.2 ?_
    rw [ha, ← hn]

end

/-! ### REQUESTs (R262) -/

section
variable {e : Nat} {h : Hdr}

theorem ctrRequest_granted {i : Nat} (hg : ctrGranted s e h.src.toNat (h.x 32 16) = some i) :
    ctrRequest s e h = offer s (epPort e) (ctrCtl s e h.src.toNat h.tenant.toNat 1 i (h.x 32 16)) := by
  simp only [ctrRequest, hg]

/-- The FREE entry of end-point `e` that a REQUEST may be granted. -/
def ctrPick (s : State) (e : Nat) : Option Nat := (ctrFree s e).find? (fun k => decide (k < 1023))

/-- End-point `e` may grant one entry more, and to `src` (R262). -/
def mayGrant (s : State) (e src : Nat) : Prop := rd s (Reg.EP.EP_CFG.GRANT_RESERVE e) < (ctrFree s e).length - 1 ∧ ctrHeldBy s e src < 16

/-- Entry `i` of end-point `e` granted to `src` for its request number `msg` (R262). -/
def entryGranted (s : State) (e i src msg : Nat) : State :=
  setCtrX (wrs s [(Reg.EP.CTR_STATE.STATE e i, 1), (Reg.EP.CTR_STATE.SRC e i, src), (Reg.EP.CTR_STATE.MSG e i, 0), (Reg.EP.CTR_STATE.COUNTED e i, 0),
    (Reg.EP.CTR_STATE.COUNT e i, 0)]) e i { fresh := true, credited := true, reqNo := msg, since := s.now }

section
variable (hg : ctrGranted s e h.src.toNat (h.x 32 16) = none)
include hg

theorem ctrRequest_refused_before (hr : refusedKey e h ∈ s.ep.refused) : ctrRequest s e h = ctrRefuse s e h := by
  simp [ctrRequest, hg, hr]

section
variable (hr : refusedKey e h ∉ s.ep.refused)
include hr

theorem ctrRequest_refused (hm : ctrPick s e = none ∨ ¬ mayGrant s e h.src.toNat) : ctrRequest s e h = ctrRefuse s e h := by
  unfold ctrPick mayGrant at hm
  simp only [ctrRequest, hg, List.contains_iff_mem, hr, if_false]
  cases hp : (ctrFree s e).find? (fun k => decide (k < 1023)) with
  | none => rfl
  | some i => exact if_neg (hm.resolve_left (by simp [hp]))

theorem ctrRequest_grants {i : Nat} (hp : ctrPick s e = some i) (hm : mayGrant s e h.src.toNat) :
    ctrRequest s e h =
      (let u := entryGranted s e i h.src.toNat (h.x 32 16)
       offer u (epPort e) (ctrCtl u e h.src.toNat h.tenant.toNat 1 i (h.x 32 16))) := by
  unfold ctrPick at hp
  simp only [ctrRequest, hg, List.contains_iff_mem, hr, if_false, hp]
  exact if_pos hm

end
end
end
end

/-! ## Timers of entries, requests and credits (R261, R262) -/

section
variable {s : State} {e : Fin 2} {dest : BitVec 12} {k : BitVec 10}

/-- The request of end-point `e` to `dest`, made at time `t`, is due to be repeated. -/
def askDueAt (s : State) (e : Fin 2) (dest : BitVec 12) (t : Nat) : Prop :=
  t + us (rd s (Reg.EP.EP_TIMING.ATTEMPT_US e.val)) ≤ s.now ∧ ctrMay s e.val dest.toNat = true

theorem exec_ctrRequestRetry_due {m t : Nat} (h : findKey s.ep.asks (4096 * e.val + dest.toNat) = some (m, t)) (hd : askDueAt s e dest t) :
    exec (.ctrRequestRetry e dest) s = .next (offer
      { s with ep := { s.ep with asks := setKey s.ep.asks (4096 * e.val + dest.toNat) (m, s.now) } } (224 + e.val)
      (ctrCtl s e.val dest.toNat 0 0 0 m)) := by
  change execCtrRequestRetry e dest s = _
  simp only [execCtrRequestRetry, h]
  exact congrArg _ (if_pos hd)

theorem exec_ctrRequestRetry_early (h : ∀ m t, findKey s.ep.asks (4096 * e.val + dest.toNat) = some (m, t) → ¬ askDueAt s e dest t) :
    exec (.ctrRequestRetry e dest) s = .next s := by
  change execCtrRequestRetry e dest s = _
  rw [execCtrRequestRetry]
  cases ha : findKey s.ep.asks (4096 * e.val + dest.toNat) with
  | none => rfl
  | some a => exact congrArg _ (if_neg (h a.1 a.2 ha))

/-- Credit `c` is the one for counter `k` of `dest`, unused for 50 ms, and its RETURN may be sent. -/
def creditUnused (s : State) (e : Fin 2) (dest : BitVec 12) (k : BitVec 10) (c : Credit) : Bool :=
  c.ep == e.val && c.dest == dest.toNat && c.ctr == k.toNat && creditIdle s c && ctrMay s e.val dest.toNat && decide (c.used + ms 50 ≤ s.now)

theorem exec_ctrCreditUnused_due {c : Credit} (h : s.ep.credits.find? (creditUnused s e dest k) = some c) :
    exec (.ctrCreditUnused e dest k) s = .next (offer { s with ep := { s.ep with credits := s.ep.credits.erase c } } (224 + e.val)
      (ctrCtl s e.val dest.toNat 0 2 k.toNat 0)) := by
  change execCtrCreditUnused e dest k s = _
  unfold creditUnused at h
  simp only [execCtrCreditUnused, h]

theorem exec_ctrCreditUnused_early (h : ∀ c ∈ s.ep.credits, creditUnused s e dest k c = false) : exec (.ctrCreditUnused e dest k) s = .next s := by
  have missing : s.ep.credits.find? (creditUnused s e dest k) = none := List.find?_eq_none.2 fun c hc => by simp [h c hc]
  change execCtrCreditUnused e dest k s = _
  unfold creditUnused at missing
  simp only [execCtrCreditUnused, missing]

end

/-! ## Counted packets (R264, R265) -/

section
variable {s : State} {e i : Nat} {p : Packet}

@[simp] theorem ctrX_setCtrX (s : State) (e i : Nat) (c : Ctr) : ctrX (setCtrX s e i c) e i = c := getD_putKey_same _ _ _ _

/-- The COUNT of a SIGNAL fits its field; other packets have none. -/
def sigFits (h : Hdr) : Prop := h.k ≠ some .signal ∨ h.x 64 32 ≤ 65535

theorem sigArrive_unfit (h : ¬ sigFits p.h) : sigArrive s e p = answer s (epPort e) p.h ccUnsupported 0 0 := by
  obtain ⟨hk, hc⟩ := not_or.1 h
  exact if_pos (by simpa using ⟨not_not.1 hk, Nat.not_le.1 hc⟩)

/-- What becomes of counted packet `p`, by what it meets in the counter table (R264). -/
def sigMeets (s : State) (e : Nat) (p : Packet) : CtrHit → State
  | .refuse => answer s (epPort e) p.h ccUnsupported 0 0
  | .drop => cnt s (Reg.EP.EP_COUNT_C.CTR_UNAVAILABLE e)
  | .copy => sigCopy s e p.h
  | .cur k => if p.h.k == some .signal then sigSignal s e k p false else sigWrite s e k p
  | .start k => if p.h.k == some .signal then sigSignal (ctrOpen s e k p.h) e k p false else sigWrite (ctrOpen s e k p.h) e k p

theorem sigArrive_meets {c : CtrHit} (fits : sigFits p.h) (h : ctrHit s e p.h = c) : sigArrive s e p = sigMeets s e p c := by
  have short : ¬ (p.h.k == some .signal && decide (65535 < p.h.x 64 32)) = true := by
    simpa [sigFits, Classical.or_iff_not_imp_left] using fits
  rw [sigArrive, if_neg short, h]
  cases c <;> rfl

theorem sigArrive_signal (fits : sigFits p.h) (h : ctrHit s e p.h = .cur i) (hk : p.h.k = some .signal) :
    sigArrive s e p = sigSignal s e i p false :=
  (sigArrive_meets fits h).trans (if_pos (by simp [hk]))

/-! ### SIG writes -/

theorem sigArrive_write (h : ctrHit s e p.h = .cur i) (hk : p.h.k = some .write) : sigArrive s e p = sigWrite s e i p := by
  have fits : sigFits p.h := .inl (by simp [hk])
  exact (sigArrive_meets fits h).trans (if_neg (by simp [hk]))

theorem sigWrite_applied {c a : Nat} (hk : p.h.k = some .write) (ht : p.h.tag.toNat ∉ (ctrX s e i).tags) (hx : exportFor s e p.h = some (c, a)) :
    sigWrite s e i p = sigCount (dmaWrite s e (ctxFunc s c) a (padTo p.h.len.toNat p.payload)) e i p.h := by
  have applied : epWrite s e p = (ccOk, dmaWrite s e (ctxFunc s c) a (padTo p.h.len.toNat p.payload)) := by
    simp [epWrite_of_export hx, writeCheck, writeData, hk]
  simp [sigWrite, ht, hk, applied]

/-! ### SIGNALs -/

theorem waiting_eq_nil {c : Ctr} : c.waiting = [] ↔ c.sig = none ∧ c.more = [] := by simp [Ctr.waiting]

/-- The first SIGNAL `p` of the message in entry `i` waits for its count (R265). -/
def signalWaits (s : State) (e i : Nat) (p : Packet) : State :=
  setCtrX (wr (wr s (Reg.EP.CTR_STATE.STATE e i) 3) (Reg.EP.CTR_STATE.COUNT e i) (p.h.x 64 32)) e i { ctrX s e i with sig := some p, since := s.now }

section
variable (empty : (ctrX s e i).waiting = [])
include empty

theorem sigSignal_first : sigSignal s e i p false = ctrCheck (signalWaits s e i p) e i := by
  simp [sigSignal, empty, (waiting_eq_nil.1 empty).1, signalWaits]

theorem waiting_signalWaits : (ctrX (signalWaits s e i p) e i).waiting = [p] := by
  simp [signalWaits, Ctr.waiting, (waiting_eq_nil.1 empty).2]

end

section
variable (one : (ctrX s e i).waiting = [p])
include one

theorem ctrCheck_fires (h : rd s (Reg.EP.CTR_STATE.COUNTED e i) = p.h.x 64 32 ∧ firing s e i = false) : ctrCheck s e i = ctrFire s e i p := by
  simp [ctrCheck, one, h.1, h.2]

theorem ctrCheck_waits (h : ¬ (rd s (Reg.EP.CTR_STATE.COUNTED e i) = p.h.x 64 32 ∧ firing s e i = false)) : ctrCheck s e i = s := by
  unfold ctrCheck
  split
  next => rfl
  next hf =>
    have short : ¬ rd s (Reg.EP.CTR_STATE.COUNTED e i) = p.h.x 64 32 := fun hc => h ⟨hc, by simpa using hf⟩
    simp [one, short]

end
end

/-- Settles O43: the queue, the code and the HCRC decide whether a CTR_CTL packet is taken; then what was granted, refused, asked or held decides
its answer, a timer acts once it is due, and what a counted packet meets decides what becomes of it. -/
theorem counterCredits : Obligations.CounterCredits := by
  have next {s t : State} (h : s = t) : (.next s : Host.Outcome State Fault Refusal) = .next t := congrArg _ h
  intro s x e p k dest y t src a msg j n d ask key no
  have takes {c : Instr} {m : Nat} {f : State → State} {u : State} (hf : exec c s = .next (onCtr s x p m f)) (ha : arrived s y p)
      (hm : isCtr p m = true) (hu : f t = u) : exec c s = .next u := hf.trans (next ((onCtr_of_arrived hm ha).trans hu))
  refine ⟨fun c hc => ?_, fun ha hm => ⟨fun hx => ?_, fun hx => ?_⟩, fun ha hm => ⟨fun at_ hx hk => ?_, fun h => ?_⟩,
    fun ha hm => ⟨fun at_ hx hk => ?_, fun h => ?_⟩, fun ha hm => ⟨fun h => ?_, fun h => ?_⟩, ⟨fun h => next (if_pos h), fun h => next (if_neg h)⟩,
    ⟨fun h => next (if_pos h), fun h => next (if_neg h)⟩, ⟨fun m at_ => exec_ctrRequestRetry_due, exec_ctrRequestRetry_early⟩,
    ⟨fun c => exec_ctrCreditUnused_due, exec_ctrCreditUnused_early⟩, ⟨sigArrive_meets, sigArrive_meets, sigArrive_meets, sigArrive_unfit,
      fun i c b hh hk ht hx => (sigArrive_write hh hk).trans (sigWrite_applied hk ht hx), fun i hh hk fits hw => ?_⟩⟩
  · obtain ⟨f, hf⟩ := exec_ctrCommand (s := s) c hc
    exact ⟨fun hm => hf.trans (next (onCtr_of_other hm)), fun hm => notArrived_of_received (hf.trans (next (onCtr_of_code hm)))⟩
  · exact takes exec_ctrRequest ha hm (if_pos hx)
  · have asks {u : State} (hu : ctrRequest t x.val p.h = u) : exec (.ctrRequest x p) s = .next u :=
      takes exec_ctrRequest ha hm ((if_neg (Nat.not_le.2 hx)).trans hu)
    exact ⟨fun i hg => asks (ctrRequest_granted hg), fun hg hr => asks (ctrRequest_refused_before hg hr),
      fun hg hr => ⟨fun hn => asks (ctrRequest_refused hg hr hn), fun i hp hn => asks (ctrRequest_grants hg hr hp hn)⟩⟩
  · exact takes exec_ctrGrant ha hm (answersAsk_waiting hx hk)
  · exact takes exec_ctrGrant ha hm (answersAsk_discarded h)
  · exact takes exec_ctrRefuse ha hm (answersAsk_waiting hx hk)
  · exact takes exec_ctrRefuse ha hm (answersAsk_discarded h)
  · exact takes exec_ctrReturn ha hm (if_pos h)
  · exact takes exec_ctrReturn ha hm (if_neg h)
  · have waits := (sigArrive_signal fits hh hk).trans (sigSignal_first hw)
    exact ⟨fun h => waits.trans (ctrCheck_fires (waiting_signalWaits hw) h), fun h => waits.trans (ctrCheck_waits (waiting_signalWaits hw) h)⟩

end Sys2Proof.Machine
end

section
/-!
PROOFS. Descriptors: their start, the pieces of a read, their completion and doorbells (R246 to R251, R254, R266 to R268, R300, R316, R317): O46.
-/
namespace Sys2Proof.Machine
open Sys2Proof

/-! ## The engines (R316) -/

section
variable {s t : State} {e : Fin 2} {x : Desc}

/-- The commands that start a descriptor other than SWARM, with the OPs that they take. -/
def descCommands (e : Fin 2) : List (Instr × (Nat → Bool)) :=
  [(.descRead e, (· == 1)), (.descWrite e, (· == 2)), (.descReadTile e, (· == 3)), (.descWriteTile e, (· == 4)), (.descAtomic e, (· == 5)),
    (.descOwn e, (· == 6)), (.descGather e, (· == 7)), (.descFlush e, (· == 9)), (.descNop e, (· == 10)),
    (.descUnsupported e, fun o => decide (o = 0 ∨ 10 < o))]

theorem exec_descCommand : ∀ c ∈ descCommands e, exec c.1 s = .next (runDesc s e.val c.2) := by
  simp only [descCommands, List.forall_mem_cons, List.not_mem_nil, false_implies, implies_true, and_true]
  exact ⟨rfl, rfl, rfl, rfl, rfl, rfl, rfl, rfl, rfl, rfl⟩

section
variable {want : Nat → Bool}

theorem runDesc_of_none (h : startNext s e.val want = none) : runDesc s e.val want = s := by simp only [runDesc, h]

theorem runDesc_of_some (h : startNext s e.val want = some (t, x)) :
    runDesc s e.val want = qosStatus (fenceFlush (beginDesc t x) x.ctx x.q) e.val := by
  simp only [runDesc, h]

end

theorem exec_descSwarm_of_none (h : startNext s e.val (· == 8) = none) : exec (.descSwarm e) s = .next s := by
  change execDescSwarm e s = _
  simp only [execDescSwarm, h]

theorem exec_descSwarm_of_some (h : startNext s e.val (· == 8) = some (t, x)) :
    exec (.descSwarm e) s = .next (qosStatus (fenceFlush (beginSwarm t x) x.ctx x.q) e.val) := by
  change execDescSwarm e s = _
  simp only [execDescSwarm, h]

end

/-! ### A descriptor begins (R248, R250) -/

section
variable {s : State} {x : Desc}

/-- The OP of descriptor `x` has a row in R248, and its TC and LEN are in range. -/
def descFits (x : Desc) : Prop := 1 ≤ x.op ∧ x.op ≤ 10 ∧ (x.op ≤ 4 → tcOk x = true ∧ lenRange x = true)

/-- The check of R247 and R248 by which a descriptor completes at once. -/
theorem descFits_iff : descFits x ↔
    ((decide (1 ≤ x.op ∧ x.op ≤ 4) && (!tcOk x || !lenRange x)) || decide (x.op = 0 ∨ 10 < x.op)) = false := by
  cases ht : tcOk x <;> cases hl : lenRange x <;> simp [descFits, ht, hl] <;> omega

theorem beginDesc_unauthentic (h : x.bad.isSome = true) : beginDesc s x = setDesc s { x with issued := true } := if_pos h

section
variable (h : x.bad = none)
include h

theorem beginDesc_unfit (hf : ¬ descFits x) : beginDesc s x = setDesc s { x.fail 0 ccUnsupported 0 with issued := true } := by
  rw [descFits_iff, Bool.not_eq_false] at hf
  exact (if_neg (by simp [h])).trans (if_pos hf)

section
variable (hf : descFits x)
include hf

theorem beginDesc_fit : beginDesc s x = tryIssue (if 0 < dataLen x then
    hostOp s x.ep (ctxFunc s x.ctx) (x.f 128 64)
      (if confOn s (ctxKey s x.ctx) then confTagAddr 0 (dataLen x) ((dataLen x + 2047) / 2048) else dataLen x) (.data x.id) else s) x.id := by
  rw [descFits_iff] at hf
  exact (if_neg (by simp [h])).trans (if_neg (ne_true_of_eq_false hf))

theorem beginDesc_no_data (hd : dataLen x = 0) : beginDesc s x = tryIssue s x.id := by simp [beginDesc_fit h hf, hd]

theorem beginDesc_data (hd : 0 < dataLen x) (hc : confOn s (ctxKey s x.ctx) = false) :
    beginDesc s x = tryIssue (hostOp s x.ep (ctxFunc s x.ctx) (x.f 128 64) (dataLen x) (.data x.id)) x.id := by
  simp [beginDesc_fit h hf, hd, hc]

end
end
end

/-! ## The pieces of a read (R249, R267, R278) -/

section
variable {s : State} {table : List Nat} {x : Desc} {q : Piece}

theorem readPiece_untranslated {cc dt : Nat} (h : xlate s x.ctx table q.v 1 (bitAt (readAttr x q.bulk) 2) = .no cc dt) :
    readPiece table s x q = descFail s x.id q.off cc dt := by
  simp only [readPiece, h]

section
variable {fpa xgen : Nat} (h : xlate s x.ctx table q.v 1 (bitAt (readAttr x q.bulk) 2) = .ok fpa xgen)
include h

theorem readPiece_cached {data : List Byte} (hc : bitAt x.d 10 = false ∧ bitAt x.d 13 = false)
    (hn : nearRead s x.ep x.ctx fpa q.len = some data) : readPiece table s x q = result s x.id x.len q.off data := by
  simp [readPiece, h, hc.1, hc.2, hn]

section
variable (hc : ¬ (bitAt x.d 10 = false ∧ bitAt x.d 13 = false) ∨ nearRead s x.ep x.ctx fpa q.len = none)
include hc

theorem readPiece_sent : readPiece table s x q =
    if q.bulk = true then
      issueReq s x q.off q.len (reqHdr s x.ctx (fpa / 2 ^ 48) .readBulk x.tc (readAttr x q.bulk) 0 fpa xgen (mkExt [(64, 12, q.len)])) []
    else
      issueReq s x q.off q.len
        (reqHdr s x.ctx (fpa / 2 ^ 48) .read (if bitAt (readAttr x q.bulk) 2 then 1 else x.tc) (readAttr x q.bulk) q.len fpa xgen 0) [] := by
  have uncached : (if (!bitAt x.d 10 && !bitAt x.d 13) = true then nearRead s x.ep x.ctx fpa q.len else none) = none := by
    refine ite_eq_right_iff.2 fun hb => hc.resolve_left (not_not.2 ?_)
    simpa using hb
  simp only [readPiece, h, uncached]

theorem readPiece_bulk (hb : q.bulk = true) : readPiece table s x q = issueReq s x q.off q.len
    (reqHdr s x.ctx (fpa / 2 ^ 48) .readBulk x.tc (readAttr x q.bulk) 0 fpa xgen (mkExt [(64, 12, q.len)])) [] :=
  (readPiece_sent h hc).trans (if_pos hb)

theorem readPiece_small (hb : q.bulk = false) : readPiece table s x q = issueReq s x q.off q.len
    (reqHdr s x.ctx (fpa / 2 ^ 48) .read (if bitAt (readAttr x q.bulk) 2 then 1 else x.tc) (readAttr x q.bulk) q.len fpa xgen 0) [] :=
  (readPiece_sent h hc).trans (if_neg (by simp [hb]))

end
end
end

/-! ## Completion, doorbells and torn reads (R246, R250, R269, R300) -/

section
variable {s : State} {id : Nat} {port : Fin 2} {func : BitVec 8} {page off : BitVec 12} {v : BitVec 32}

/-- Descriptor `d` is number `id`, and has issued its packets, which have all completed. -/
def descDone (s : State) (id : Nat) (d : Desc) : Bool :=
  d.id == id && d.issued && d.live == 0 && d.q != 4 && !(s.host.atsWait.any (fun w => w.ring == 4097 + d.id))

theorem exec_descriptorComplete_done {d : Desc} (h : s.ep.descs.find? (descDone s id) = some d) :
    exec (.descriptorComplete id) s = .next (advanceAll (completeDesc s d) d.ctx) := by
  change execDescriptorComplete id s = _
  unfold descDone at h
  simp only [execDescriptorComplete, h]

theorem exec_descriptorComplete_early (h : s.ep.descs.find? (descDone s id) = none) : exec (.descriptorComplete id) s = .next s := by
  change execDescriptorComplete id s = _
  unfold descDone at h
  simp only [execDescriptorComplete, h]

theorem exec_doorbellWrite_of_page {c : Nat} (h : pageCtx s port.val func.toNat page.toNat = some c) :
    exec (.doorbellWrite port func page off v) s = .next (qosStatus (doorbell s c off.toNat v.toNat) port.val) := by
  change execDoorbellWrite port func page off v s = _
  simp only [execDoorbellWrite, h]

theorem exec_doorbellWrite_of_no_page (h : pageCtx s port.val func.toNat page.toNat = none) :
    exec (.doorbellWrite port func page off v) s = .next s := by
  change execDoorbellWrite port func page off v s = _
  simp only [execDoorbellWrite, h]

/-- The READ_TILE number `id`, where it waits to be repeated (R269). -/
def tornWait (s : State) (id : Nat) : Option Reqst := s.ep.reqs.find? (fun r => r.id == id && r.st == 4)

theorem exec_tornRetry_due {r : Reqst} (h : tornWait s id = some r) (hd : r.sentAt + ns (rd s (Reg.EP.EP_TIMING.TORN_GAP_NS r.ep)) ≤ s.now) :
    exec (.tornRetry id) s = .next (readAgain s r false (r.torn + 1)) := by
  change execTornRetry id s = _
  unfold tornWait at h
  simp only [execTornRetry, h, if_pos hd]

theorem exec_tornRetry_early (h : ∀ r, tornWait s id = some r → ¬ r.sentAt + ns (rd s (Reg.EP.EP_TIMING.TORN_GAP_NS r.ep)) ≤ s.now) :
    exec (.tornRetry id) s = .next s := by
  change execTornRetry id s = _
  unfold tornWait at h
  rw [execTornRetry]
  cases hr : s.ep.reqs.find? (fun r => r.id == id && r.st == 4) with
  | none => rfl
  | some r => simp only [if_neg (h r hr)]

end

/-- Settles O46: the engines and the arbiter decide what starts, the fields of a descriptor and its pieces what it issues, its packets when it
completes, and the page, the hold and the gap what a doorbell and the two timers do. -/
theorem descriptors : Obligations.Descriptors := by
  have next {s t : State} (h : s = t) : (.next s : Host.Outcome State Fault Refusal) = .next t := congrArg _ h
  intro s e port func page off v id ops
  refine ⟨fun c hc => ?_, exec_descSwarm_of_none, fun t x => exec_descSwarm_of_some, fun t x => ?_, fun t table x q => ?_,
    ⟨fun d => exec_descriptorComplete_done, exec_descriptorComplete_early⟩, fun c => exec_doorbellWrite_of_page, exec_doorbellWrite_of_no_page, rfl,
    ⟨fun r => exec_tornRetry_due, exec_tornRetry_early⟩⟩
  · have runs := exec_descCommand (s := s) c hc
    exact ⟨fun h => runs.trans (next (runDesc_of_none h)), fun t x h => runs.trans (next (runDesc_of_some h))⟩
  · exact ⟨beginDesc_unauthentic, beginDesc_unfit, beginDesc_no_data, beginDesc_data⟩
  · exact ⟨fun cc dt => readPiece_untranslated, fun fpa xgen h => ⟨fun data => readPiece_cached h,
      fun hc => ⟨readPiece_bulk h hc, readPiece_small h hc⟩⟩⟩

end Sys2Proof.Machine
end

section
/-!
PROOFS. Contexts, their EXPORT entries and their interrupts (R245, R287, R305 to R307, R315, R324, R439): O48.
-/
namespace Sys2Proof.Machine
open Sys2Proof

/-! ## ENABLE (R245, R305, R315) -/

section
variable {s : State} {w : Writer} {c : Nat}

theorem ctxEnable_in_service (h : ctxOn s c = true) : ctxEnable s w c = s := if_pos h

section
variable (h : ctxOn s c = false)
include h

theorem ctxEnable_refused (hr : enableRefused s c = true) : ctxEnable s w c = regError s w (ctxAddr c) 8 true 7 := by simp [ctxEnable, h, hr]

/-- Context `c` with fresh rings and near-cache lines, and no cached segments (R245). -/
def ctxFresh (s : State) (c : Nat) : State :=
  let t := setCtx (nearDrop s (fun e x _ => e == ctxEp s c && x == c)) c {}
  { t with ep := { t.ep with segs := delKey t.ep.segs c } }

theorem ctxEnable_enters (hr : enableRefused s c = false) : ctxEnable s w c =
    ctxStatus (wrs (ctxFresh s c) [(Reg.EP.CTX.ENABLE c, 1), (Reg.EP.CTX_STATUS.STEP_FAULTED c, 0), (Reg.EP.CTX_STATUS.EQ_OVERFLOW c, 0),
      (Reg.EP.CTX_STATUS.FAULTS c, 0)]) c :=
  (if_neg (by simp [h])).trans (if_neg (by simp [hr]))

theorem ctxDisable_out_of_service : ctxDisable s c = s := if_pos (by simp [h])

end

theorem ctxDisable_leaves (h : ctxOn s c = true) :
    ctxDisable s c = qosStatus (pump (dropCtx (resetCtxs s (ctxEp s c) [c]) c) (ctxEp s c)) (ctxEp s c) :=
  if_neg (by simp [h])

end

/-! ## Export entries (R287, R324, R439) -/

/-- The fields of EXPORT entry `k` other than VALID, with what a write of `v` gives them (R287). -/
def exportFields (e k v : Nat) : List (Fld × Nat) :=
  [(Reg.EXTENT.EXPORT.REG_INDEX e k, bits v 1 18), (Reg.EXTENT.EXPORT.CTX e k, bits v 20 12), (Reg.EXTENT.EXPORT.LBASE e k, bits v 76 52)]

/-- What a write of `v` to an entry in force does to its fields other than VALID: nothing, with a report where it would change one (R287). -/
def exportUnchanged (s : State) (w : Writer) (e k v : Nat) : State :=
  if (exportFields e k v).all (fun f => rd s f.1 == f.2) then s else regError s w (exportAddr e k) 8 true 3

theorem bits_zero_one (v : Nat) : bits v 0 1 = b2n (bitAt v 0) := by
  simp only [bits, bitAt, b2n, Nat.shiftRight_zero, Nat.testBit_zero, decide_eq_true_eq]
  split <;> omega

section
variable {s : State} {w : Writer} {e k v : Nat}

section
variable (h : rdb s (Reg.EXTENT.EXPORT.VALID e k) = false)
include h

theorem exportWrite_clear (hv : bitAt v 0 = false) :
    exportWrite s w e k v = wr (wrs s (exportFields e k v)) (Reg.EXTENT.EXPORT.VALID e k) 0 := by
  simp [exportWrite, h, hv, exportFields, bits_zero_one, b2n]

section
variable (hv : bitAt v 0 = true)
include hv

theorem exportWrite_sets (hc : confOn s (ctxKey s (bits v 20 12)) = false) :
    exportWrite s w e k v = wr (wrs s (exportFields e k v)) (Reg.EXTENT.EXPORT.VALID e k) 1 := by
  simp [exportWrite, h, hv, hc, exportFields, bits_zero_one, b2n]

theorem exportWrite_confidential (hc : confOn s (ctxKey s (bits v 20 12)) = true) :
    exportWrite s w e k v = regError s w (exportAddr e k) 8 true 7 := by
  simp [exportWrite, h, hv, hc]

end
end

section
variable (h : rdb s (Reg.EXTENT.EXPORT.VALID e k) = true)
include h

theorem exportWrite_in_force : exportWrite s w e k v =
    if bitAt v 0 = true then exportUnchanged s w e k v else wr (exportUnchanged s w e k v) (Reg.EXTENT.EXPORT.VALID e k) 0 := if_pos h

theorem exportWrite_holds (hv : bitAt v 0 = true) : exportWrite s w e k v = exportUnchanged s w e k v :=
  (exportWrite_in_force h).trans (if_pos hv)

theorem exportWrite_ends (hv : bitAt v 0 = false) :
    exportWrite s w e k v = wr (exportUnchanged s w e k v) (Reg.EXTENT.EXPORT.VALID e k) 0 :=
  (exportWrite_in_force h).trans (if_neg (by simp [hv]))

end
end

/-! ## Interrupts (R306, R307) -/

section
variable {s : State} {n : Nat}

theorem eqMessage_waits (h : ∃ x ∈ s.host.atsWait, x.ring = n) :
    eqMessage s n = setCtx s n { ctxRun s n with modCount := 0, owesMsg := true } := if_pos (by simpa using h)

theorem eqMessage_sent (h : ¬ ∃ x ∈ s.host.atsWait, x.ring = n) : eqMessage s n =
    sendMsix (setCtx s n { ctxRun s n with modCount := 0, owesMsg := false }) (ctxEp s n) (ctxFunc s n) (rd s (Reg.EP.CTX.EQ_VECTOR n)) :=
  if_neg (by simpa using h)

/-- The moderation time of context `n` has passed since its first counted entry (R306). -/
def modDue (s : State) (n : Nat) : Prop := (ctxRun s n).modCount ≠ 0 ∧ (ctxRun s n).modFirst + modTime s n ≤ s.now

theorem exec_eqModTimer_due {c : BitVec 12} (h : modDue s c.toNat) : exec (.eqModTimer c) s = .next (eqMessage s c.toNat) :=
  congrArg Host.Outcome.next (if_pos h)

theorem exec_eqModTimer_early {c : BitVec 12} (h : ¬ modDue s c.toNat) : exec (.eqModTimer c) s = .next s :=
  congrArg Host.Outcome.next (if_neg h)

end

section
variable {s : State} {port func vec : Nat}

/-- The vector has a message pending that may be sent now (R307). -/
def pendingMay (s : State) (port func vec : Nat) : Prop :=
  msixKey port func vec ∈ s.host.msixPend ∧ port * 256 + func ∉ s.host.fnMask ∧ bitAt (msixWord s (msixKey port func vec) 3) 0 = false ∧
    port * 256 + func ∈ s.host.msixOn

theorem pendingMay_iff : (s.host.msixPend.contains (msixKey port func vec) && !s.host.fnMask.contains (port * 256 + func) &&
    !bitAt (msixWord s (msixKey port func vec) 3) 0 && s.host.msixOn.contains (port * 256 + func)) = true ↔ pendingMay s port func vec := by
  simp [pendingMay, and_assoc]

theorem msixRetry_sends (h : pendingMay s port func vec) : msixRetry s port func vec =
    msixOut { s with host := { s.host with msixPend := s.host.msixPend.filter (· != msixKey port func vec) } } port func vec :=
  if_pos (pendingMay_iff.2 h)

theorem msixRetry_quiet (h : ¬ pendingMay s port func vec) : msixRetry s port func vec = s := if_neg (mt pendingMay_iff.1 h)

end

/-- Settles O48: the service of a context decides what ENABLE and its clearing do, VALID and the confidential mode what a write to an EXPORT entry
does, and the moderation time and the mask when a message goes out. -/
theorem contexts : Obligations.Contexts := by
  have next {s t : State} (h : s = t) : (.next s : Host.Outcome State Fault Refusal) = .next t := congrArg _ h
  intro s w c k e v port func vec n fs valid new writes kept key fn
  exact ⟨fun h => next (ctxEnable_in_service h), fun h hr => next (ctxEnable_refused h hr), fun h hr => next (ctxEnable_enters h hr),
    fun h => next (ctxDisable_leaves h), fun h => next (ctxDisable_out_of_service h), fun h hv => next (exportWrite_clear h hv),
    fun h hv => ⟨fun hc => next (exportWrite_sets h hv hc), fun hc => next (exportWrite_confidential h hv hc)⟩,
    fun h hv => next (exportWrite_holds h hv), fun h hv => next (exportWrite_ends h hv),
    ⟨fun hd hw => (exec_eqModTimer_due hd).trans (next (eqMessage_waits hw)), fun hd hw => (exec_eqModTimer_due hd).trans (next (eqMessage_sent hw)),
      exec_eqModTimer_early⟩,
    fun hd => next (msixRetry_sends hd), fun hd => next (msixRetry_quiet hd)⟩

end Sys2Proof.Machine
end

section
/-!
PROOFS. The commands of the extent registry and the drain time of an entry (R284, R290 to R293, R360): O53.
-/
namespace Sys2Proof.Machine
open Sys2Proof

/-! ## Commands while BUSY and while the registry is not RUNNING (R284, R290) -/

section
variable {s : State} {w : Writer} {i : Nat} {acc : Nat × Nat}

section
variable (h : rdb s Reg.EXTENT.EXT_CMD_STATUS.BUSY = true)
include h

theorem extWrite_busy : extWrite s w i acc = extBusy s w acc := if_pos h

theorem extRevoke_busy : extRevoke s w i acc = extBusy s w acc := if_pos h

theorem extRead_busy : extRead s w i acc = extBusy s w acc := if_pos h

end

section
variable (h : rdb s Reg.EXTENT.EXT_CMD_STATUS.BUSY = false)
include h

section
variable (hr : running s fExt = false)
include hr

theorem extWrite_stopped : extWrite s w i acc = extResult s i 1 6 := by simp [extWrite, h, hr]

theorem extRevoke_stopped : extRevoke s w i acc = extResult s i 2 6 := by simp [extRevoke, h, hr]

theorem extRead_stopped : extRead s w i acc = extResult s i 3 6 := by simp [extRead, h, hr]

end

/-! ## Commands that a RUNNING registry takes (R284, R291) -/

section
variable (hr : running s fExt = true)
include hr

theorem extWrite_enters (h0 : extWriteResult s i (extStage s) = 0) :
    extWrite s w i acc = extResult (extSet s i (extOfStage (extStage s))) i 1 0 := by simp [extWrite, h, hr, h0]

theorem extWrite_refused (h0 : extWriteResult s i (extStage s) ≠ 0) :
    extWrite s w i acc = extResult s i 1 (extWriteResult s i (extStage s)) := by simp [extWrite, h, hr, h0]

theorem extRevoke_taken : extRevoke s w i acc = extResult (revokeEntry s i).2 i 2 (revokeEntry s i).1 := by simp [extRevoke, h, hr]

theorem extRead_shows : extRead s w i acc =
    extResult (wrs s ((List.range 4).map (fun k => (Reg.EXTENT.EXT_VIEW.ENTRY k, bits (extBits (extGet s i)) (64 * k) 64)))) i 3 0 := by
  simp [extRead, h, hr]

end
end

/-! ## What REVOKE does to the entry (R291) -/

theorem revokeEntry_not_live (h : (extGet s i).st ≠ 1) : revokeEntry s i = (1, s) := if_pos h

section
variable (h : (extGet s i).st = 1)
include h

theorem revokeEntry_in_use (hu : extInUse s (extGet s i) = true) : revokeEntry s i = (5, s) := by simp [revokeEntry, h, hu]

section
variable (hu : extInUse s (extGet s i) = false)
include hu

theorem revokeEntry_frees (hf : (extGet s i).inflight = 0) :
    revokeEntry s i = (0, extFree (extSet s i { extGet s i with revokeTime := s.time.toNat }) i) := by simp [revokeEntry, h, hu, hf]

theorem revokeEntry_drains (hf : (extGet s i).inflight ≠ 0) :
    revokeEntry s i = (0, extSet s i { extGet s i with st := 2, revokeTime := s.time.toNat }) := by simp [revokeEntry, h, hu, hf]

end
end

/-- The command REVOKE as a step, by what it does to the entry. -/
theorem exec_extCmdRevoke {index : BitVec 18} {result : Nat} {t : State} (h : rdb s Reg.EXTENT.EXT_CMD_STATUS.BUSY = false)
    (hr : running s fExt = true) (hv : revokeEntry s index.toNat = (result, t)) :
    exec (.extCmdRevoke w index) s = .next (extResult t index.toNat 2 result) := by
  change Host.Outcome.next (extRevoke s w index.toNat) = _
  rw [extRevoke_taken h hr, hv]

/-! ## The drain time (R291, R360) -/

theorem drainDue_iff : drainDue s i = true ↔ (extGet s i).st = 2 ∧ (extGet s i).revokeTime + 3200000 ≤ s.time.toNat := by
  simp [drainDue]

theorem exec_extentDrainTimeout_due {index : BitVec 18} (h : drainDue s index.toNat = true) :
    exec (.extentDrainTimeout index) s = .next (extDrain s index.toNat) := congrArg Host.Outcome.next (if_pos h)

theorem exec_extentDrainTimeout_early {index : BitVec 18} (h : ¬ drainDue s index.toNat = true) :
    exec (.extentDrainTimeout index) s = .next s := congrArg Host.Outcome.next (if_neg h)

end

/-- Settles O53: BUSY and the registry's state decide whether a command is taken; then the stage decides what WRITE does, the entry and its use what
REVOKE does, and the entry's state and drain time what EXTENT_DRAIN_TIMEOUT does. -/
theorem extentCommands : Obligations.ExtentCommands := by
  have next {s t : State} (h : s = t) : (.next s : Host.Outcome State Fault Refusal) = .next t := congrArg _ h
  intro s w i n e r busy on cmds shows due
  refine ⟨fun h => ?_, fun h hr => ?_, fun ⟨h, hr⟩ h0 => next (extWrite_enters h hr h0), fun ⟨h, hr⟩ h0 => next (extWrite_refused h hr h0),
    fun ⟨h, hr⟩ hl => exec_extCmdRevoke h hr (revokeEntry_not_live hl),
    fun ⟨h, hr⟩ hl hu => exec_extCmdRevoke h hr (revokeEntry_in_use hl hu),
    fun ⟨h, hr⟩ hl hu hf => exec_extCmdRevoke h hr (revokeEntry_frees hl hu hf),
    fun ⟨h, hr⟩ hl hu hf => exec_extCmdRevoke h hr (revokeEntry_drains hl hu hf),
    fun ⟨h, hr⟩ => next (extRead_shows h hr), rfl, fun hd => exec_extentDrainTimeout_due (drainDue_iff.2 hd),
    fun hd => exec_extentDrainTimeout_early (mt drainDue_iff.1 hd)⟩
  · simp only [cmds, List.forall_mem_cons]
    exact ⟨next (extWrite_busy h), next (extRevoke_busy h), next (extRead_busy h), by simp⟩
  · simp only [cmds, List.forall_mem_cons]
    exact ⟨next (extWrite_stopped h hr), next (extRevoke_stopped h hr), next (extRead_stopped h hr), by simp⟩

end Sys2Proof.Machine
end

section
/-!
PROOFS. Fabric windows, function level resets, virtual functions and configuration requests (R298 to R300, R303, R304, R312 to R314, R419): O50.
-/
namespace Sys2Proof.Machine
open Sys2Proof

/-! ## Window accesses (R300, R303, R304) -/

theorem hasWindow_iff {f : Nat} {k : Fin 16} : hasWindow f k.val = true ↔ f = 0 ∨ k = 0 := by simp [hasWindow]

/-- The state with the load that the next descriptor answers (R303). -/
def loadBegun (s : State) (p f tag len : Nat) : State :=
  let l : WinLoad := { port := p, func := f, tag := tag, len := len, at_ := s.now }
  { s with host := { s.host with loads := setKey s.host.loads s.ep.nextId l } }

section
variable {s : State} {port : Fin 2} {func : BitVec 8} {k : Fin 16} {off : BitVec 32} {data : List Byte} {len tag id : Nat}

section
variable (h : ¬ (func.toNat = 0 ∨ k = 0))
include h

theorem exec_windowStore_no_window : exec (.windowStore port func k off data) s = .next s :=
  congrArg Host.Outcome.next (if_pos (by simp [mt hasWindow_iff.1 h]))

theorem exec_windowLoad_no_window : exec (.windowLoad port func k off len tag) s = .next s :=
  congrArg Host.Outcome.next (if_pos (by simp [mt hasWindow_iff.1 h]))

end

section
variable (h : func.toNat = 0 ∨ k = 0)
include h

theorem not_lacks_window : ¬ (!hasWindow func.toNat k.val) = true := by simp [hasWindow_iff.2 h]

section
variable (ho : windowOpen s port.val func.toNat (windowOf s port.val func.toNat k.val) = true)
include ho

theorem exec_windowStore_mapped : exec (.windowStore port func k off data) s =
    .next (windowStart s (windowDesc s port.val (windowOf s port.val func.toNat k.val) 2 off.toNat data.length (some data))) :=
  congrArg Host.Outcome.next ((if_neg (not_lacks_window h)).trans (if_neg (by simp [ho])))

theorem exec_windowLoad_mapped : exec (.windowLoad port func k off len tag) s =
    .next (windowStart (loadBegun s port.val func.toNat tag len)
      (windowDesc s port.val (windowOf s port.val func.toNat k.val) 1 off.toNat len none)) :=
  congrArg Host.Outcome.next ((if_neg (not_lacks_window h)).trans (if_neg (by simp [ho])))

end

section
variable (ho : windowOpen s port.val func.toNat (windowOf s port.val func.toNat k.val) = false)
include ho

theorem exec_windowStore_unmapped : exec (.windowStore port func k off data) s = .next (unmapped s port.val) :=
  congrArg Host.Outcome.next ((if_neg (not_lacks_window h)).trans (if_pos (by simp [ho])))

theorem exec_windowLoad_unmapped : exec (.windowLoad port func k off len tag) s =
    .next (emitOut (unmapped s port.val) (.loadReply port.val func.toNat tag (List.replicate len 0xFF))) :=
  congrArg Host.Outcome.next ((if_neg (not_lacks_window h)).trans (if_pos (by simp [ho])))

end
end

/-- WIN_READ_MS has passed since the load `l` began (R304). -/
def loadDue (s : State) (l : WinLoad) : Prop := l.at_ + ms (rd s (Reg.HOSTPORT.PORT_CFG.WIN_READ_MS l.port)) ≤ s.now

theorem exec_windowReadTimeout_due {l : WinLoad} (h : findKey s.host.loads id = some l) (hd : loadDue s l) :
    exec (.windowReadTimeout id) s = .next (emitOut (cnt { s with host := { s.host with loads := delKey s.host.loads id } }
      (Reg.HOSTPORT.HP_COUNT.WIN_READS_ABANDONED l.port)) (.loadReply l.port l.func l.tag (List.replicate l.len 0xFF))) := by
  change execWindowReadTimeout id s = _
  unfold loadDue at hd
  simp only [execWindowReadTimeout, h, if_pos hd]

theorem exec_windowReadTimeout_early (h : ∀ l, findKey s.host.loads id = some l → ¬ loadDue s l) :
    exec (.windowReadTimeout id) s = .next s := by
  change execWindowReadTimeout id s = _
  unfold loadDue at h
  rw [execWindowReadTimeout]
  cases hl : findKey s.host.loads id with
  | none => rfl
  | some l => simp only [if_neg (h l hl)]

end

/-! ## Function level resets and virtual functions (R299, R305, R312 to R314) -/

section
variable {s : State} {p f : Nat}

theorem findKey_flr_of_not_inFlr (h : inFlr s p f = false) : findKey s.host.flr (256 * p + f) = none := by simpa [inFlr] using h

theorem flrBegin_under_way (h : inFlr s p f = true) : flrBegin s p f = s := if_pos h

theorem flrBegin_starts (h : inFlr s p f = false) :
    flrBegin s p f = pump ((flrFuncs s p f).foldl (fun s g => flrOne s p g) (cnt s (Reg.HOSTPORT.LINK_STATUS.FLR_COUNT p))) p :=
  if_neg (by simp [h])

theorem flrEnd_not_in_reset (h : inFlr s p f = false) : flrEnd s p f = s := by simp only [flrEnd, findKey_flr_of_not_inFlr h]

/-- Function `f` with its contexts dropped and its configuration space reset, no longer in reset (R312). -/
def flrCleared (s : State) (p f : Nat) : State :=
  let u := cfgReset ((funcCtxs s p f).foldl dropCtx s) p f
  { u with host := { u.host with flr := delKey u.host.flr (256 * p + f) } }

theorem flrEnd_in_reset {t : Nat} (h : findKey s.host.flr (256 * p + f) = some t) :
    flrEnd s p f = wrs (flrCleared s p f) [(Reg.HOSTPORT.FUNC_STATE.FLR_ACTIVE p f, 0), (Reg.HOSTPORT.FUNC_STATE.FLR_STEP p f, 0),
      (Reg.HOSTPORT.FUNC_STATE.LAST_FLR_US p f, ((flrCleared s p f).now - t) / 1600)] := by
  simp only [flrEnd, h, flrCleared]

end

section
variable {s : State} {port : Fin 2} {func : BitVec 8} {n : BitVec 16}

theorem exec_flrComplete_of_pf (h0 : func.toNat = 0) (h : inFlr s port.val 0 = true) :
    exec (.flrComplete port func) s = .next ((flrOf s port.val).foldl (fun s g => flrEnd s port.val g) s) :=
  congrArg Host.Outcome.next (if_pos (by simp [h0, h]))

theorem exec_flrComplete_of_one (h : ¬ (func.toNat = 0 ∧ inFlr s port.val 0 = true)) :
    exec (.flrComplete port func) s = .next (flrEnd s port.val func.toNat) :=
  congrArg Host.Outcome.next (if_neg (by simpa using h))

theorem exec_flrComplete_not_in_reset (h : inFlr s port.val func.toNat = false) : exec (.flrComplete port func) s = .next s := by
  have one : ¬ (func.toNat = 0 ∧ inFlr s port.val 0 = true) := fun ⟨h0, hp⟩ => by simp [h0, hp] at h
  rw [exec_flrComplete_of_one one, flrEnd_not_in_reset h]

theorem exec_vfEnableClear_keeps (h : (findKey s.host.numVfs port.val).getD 0 ≤ n.toNat) :
    exec (.vfEnableClear port n true) s = .next s :=
  congrArg Host.Outcome.next (if_pos (by simpa using h))

theorem exec_vfEnableClear_lowers (h : n.toNat < (findKey s.host.numVfs port.val).getD 0) :
    exec (.vfEnableClear port n true) s = .next (vfWrite s port.val n.toNat true) :=
  congrArg Host.Outcome.next (if_neg (by simpa using h))

end

/-! ## Configuration requests (R419) -/

section
variable {s : State} {port : Fin 2} {func : BitVec 8} {op : CfgOp}

/-- The functions of port `p` do not answer configuration requests yet (R419). -/
def cfgEarly (s : State) (p : Nat) : Prop := rd s Reg.SECURITY.BOOT_STATUS.STAGE < 7 ∨ inFlr s p 0 = true

theorem cfgEarly_iff {p : Nat} : (rd s Reg.SECURITY.BOOT_STATUS.STAGE < 7 || inFlr s p 0) = true ↔ cfgEarly s p := by simp [cfgEarly]

theorem exec_configurationRequest_early (h : cfgEarly s port.val) :
    exec (.configurationRequest port func op) s = .next (emitOut s (.cfgReply port.val func.toNat 1 0)) :=
  congrArg Host.Outcome.next (if_pos (cfgEarly_iff.2 h))

section
variable (h : ¬ cfgEarly s port.val)
include h

theorem exec_configurationRequest_absent (hf : funcExists s port.val func.toNat = false) :
    exec (.configurationRequest port func op) s = .next (emitOut s (.cfgReply port.val func.toNat 2 0)) :=
  congrArg Host.Outcome.next ((if_neg (mt cfgEarly_iff.1 h)).trans (if_neg (by simp [hf])))

theorem exec_configurationRequest_served (hf : funcExists s port.val func.toNat = true) :
    exec (.configurationRequest port func op) s = .next (cfgAccess s port.val func.toNat op) :=
  congrArg Host.Outcome.next ((if_neg (mt cfgEarly_iff.1 h)).trans (if_pos hf))

end

theorem cfgAccess_vfs_of_pf {p f : Nat} {m : BitVec 16} {b : Bool} (h : f = 0) :
    cfgAccess s p f (.vfs m b) = emitOut (vfWrite s p m.toNat b) (.cfgReply p f 0 0) :=
  congrArg (emitOut · _) (if_pos h)

end

/-- Settles O50: the windows of the function and their mapping decide a window access, the time since its begin the time-out of a load; VF Enable and
the resets under way decide what a change to the functions does, the boot stage and the function's existence how a configuration request is
answered. -/
theorem windowsAndFunctions : Obligations.WindowsAndFunctions := by
  have next {s t : State} (h : s = t) : (.next s : Host.Outcome State Fault Refusal) = .next t := congrArg _ h
  intro s port func k off data len tag id n en op p f w d ones has lost old vfs
  refine ⟨fun h => ⟨exec_windowStore_no_window h, exec_windowLoad_no_window h⟩,
    fun h ho => ⟨exec_windowStore_mapped h ho, exec_windowLoad_mapped h ho⟩,
    fun h ho => ⟨exec_windowStore_unmapped h ho, exec_windowLoad_unmapped h ho⟩,
    ⟨fun l => exec_windowReadTimeout_due, exec_windowReadTimeout_early⟩, rfl, rfl, ?clears, ?lowers, ?keeps,
    fun h => next (flrBegin_under_way h), fun h => next (flrBegin_starts h),
    fun t h h0 => (exec_flrComplete_of_one (h0 ·.1)).trans (next (flrEnd_in_reset h)), exec_flrComplete_of_pf, exec_flrComplete_not_in_reset, ?config⟩
  case clears => rintro rfl; rfl
  case lowers => rintro rfl h; exact exec_vfEnableClear_lowers h
  case keeps => rintro rfl h; exact exec_vfEnableClear_keeps h
  case config =>
    have served (o : CfgOp) (h : ¬ cfgEarly s p ∧ funcExists s p f = true) :
        exec (.configurationRequest port func o) s = .next (cfgAccess s p f o) := exec_configurationRequest_served h.1 h.2
    refine ⟨exec_configurationRequest_early, exec_configurationRequest_absent, ?_, ?_, ?_, fun b i => ?_, ?_, fun m b => ?_, served op⟩ <;>
      rintro h rfl
    · exact served .readTotalVfs h
    · exact served .readInterruptPin h
    · exact served .readTableSize h
    · exact served (.sizeBar b i) h
    · exact served .flr h
    · exact fun h0 => (served (.vfs m b) h).trans (next (cfgAccess_vfs_of_pf h0))

end Sys2Proof.Machine
end

section
/-!
PROOFS. The manager role and the PCIe links of the host ports (R298, R310, R311, R315, R349): O51.
-/
namespace Sys2Proof.Machine
open Sys2Proof

section
variable {s : State}

/-! ## The manager role (R310) -/

/-- Port `r` can take the manager role (R310). -/
def portReady (s : State) (r : Nat) : Prop :=
  rdb s (Reg.HOSTPORT.LINK_STATUS.LINK_UP r) = true ∧ 256 * r ∉ s.host.d3 ∧ 256 * r ∈ s.host.memEn ∧ 256 * r ∈ s.host.busEn ∧
    inFlr s 0 0 = false ∧ inFlr s 1 0 = false

theorem notReady_eq_none_iff {r : Nat} : notReady s r = none ↔ portReady s r := by
  simp [notReady, portReady, ite_eq_iff, and_assoc]

/-- The codes 2 to 4 of HANDOVER_RESULT tell why the port is not ready. -/
theorem notReady_code {r code : Nat} (h : notReady s r = some code) : 2 ≤ code ∧ code ≤ 4 := by
  unfold notReady at h
  split_ifs at h <;> cases h <;> decide

theorem exists_code_of_not_portReady {r : Nat} (h : ¬ portReady s r) : ∃ code, notReady s r = some code ∧ 2 ≤ code ∧ code ≤ 4 := by
  obtain ⟨code, hc⟩ := Option.ne_none_iff_exists'.1 (mt notReady_eq_none_iff.1 h)
  exact ⟨code, hc, notReady_code hc⟩

theorem handover_moves (h : portReady s (1 - mgrPort s)) : handover s = handoverTo s (1 - mgrPort s) := by
  simp only [handover, notReady_eq_none_iff.2 h]

theorem handover_refused {code : Nat} (h : notReady s (1 - mgrPort s) = some code) :
    handover s = wr s Reg.HOSTPORT.MGR_CTL.HANDOVER_RESULT code := by
  simp only [handover, h]

theorem exec_handover_of_writer : ∀ w ∈ [Writer.manager, .fabric], exec (.handover w) s = .next (handover s) := by
  simp only [List.forall_mem_cons, List.not_mem_nil, false_implies, implies_true, and_true]
  exact ⟨rfl, rfl⟩

theorem handoverWrite_of_other {w : Writer} (hm : w ≠ .manager) (hf : w ≠ .fabric) : handoverWrite s w = s := by
  cases w with
  | manager => exact absurd rfl hm
  | fabric => exact absurd rfl hf
  | _ => rfl

/-- The manager port has been down for AUTO_MS since `t`, and the other port can take the role (R310). -/
def handoverDue (s : State) (t : Nat) : Prop :=
  rdb s Reg.HOSTPORT.MGR_CTL.AUTO_EN = true ∧ t + ms (rd s Reg.HOSTPORT.MGR_CTL.AUTO_MS) ≤ s.now ∧ portReady s (1 - mgrPort s)

theorem handoverDue_iff {t : Nat} : (rdb s Reg.HOSTPORT.MGR_CTL.AUTO_EN && decide (t + ms (rd s Reg.HOSTPORT.MGR_CTL.AUTO_MS) ≤ s.now) &&
    (notReady s (1 - mgrPort s)).isNone) = true ↔ handoverDue s t := by
  simp [handoverDue, notReady_eq_none_iff, and_assoc]

theorem exec_handoverAuto_due {t : Nat} (h : s.host.mgrDown = some t) (hd : handoverDue s t) :
    exec .handoverAuto s = .next (handoverTo s (1 - mgrPort s)) := by
  change execHandoverAuto s = _
  simp only [execHandoverAuto, h, if_pos (handoverDue_iff.2 hd)]

theorem exec_handoverAuto_early (h : ∀ t, s.host.mgrDown = some t → ¬ handoverDue s t) : exec .handoverAuto s = .next s := by
  change execHandoverAuto s = _
  rw [execHandoverAuto]
  cases ht : s.host.mgrDown with
  | none => rfl
  | some t => simp only [if_neg (mt handoverDue_iff.1 (h t ht))]

/-! ## The PCIe links (R298, R315, R417) -/

section
variable {port : Fin 2} {rate : Fin 6} {width : BitVec 5} {flit : Bool}

theorem exec_perstAssert_held (h : s.fw.phase = 0) :
    exec (.perstAssert port) s = .next (wr s (Reg.HOSTPORT.LINK_STATUS.PERST port.val) 1) := congrArg Host.Outcome.next (if_pos h)

theorem exec_perstAssert_down (h : s.fw.phase ≠ 0) : exec (.perstAssert port) s = .next (hostDown s port.val true) :=
  congrArg Host.Outcome.next (if_neg h)

/-- A link of that rate, width and mode can come up now (R298, R407, R417). -/
def linkTrains (s : State) (rate : Fin 6) (width : BitVec 5) (flit : Bool) : Prop :=
  width.toNat ∈ [1, 2, 4, 8, 16] ∧ (flit = true ∨ rate.val < 5) ∧ s.fw.phase ≠ 0 ∧ s.pw.tripped = false

theorem linkTrains_iff : (hostLinkOk rate.val width.toNat flit && s.fw.phase != 0 && !s.pw.tripped) = true ↔ linkTrains s rate width flit := by
  simp [linkTrains, hostLinkOk, and_assoc]

theorem exec_hostLinkUp_trains (h : linkTrains s rate width flit) : exec (.hostLinkUp port rate width flit) s =
    .next (mgrWatch (wrs s [(Reg.HOSTPORT.LINK_STATUS.PERST port.val, 0), (Reg.HOSTPORT.LINK_STATUS.LINK_UP port.val, 1),
      (Reg.HOSTPORT.LINK_STATUS.RATE port.val, rate.val), (Reg.HOSTPORT.LINK_STATUS.WIDTH port.val, width.toNat),
      (Reg.HOSTPORT.LINK_STATUS.FLIT port.val, b2n flit)])) :=
  congrArg Host.Outcome.next (if_pos (linkTrains_iff.2 h))

theorem exec_hostLinkUp_held (h : ¬ linkTrains s rate width flit) : exec (.hostLinkUp port rate width flit) s = .next s :=
  congrArg Host.Outcome.next (if_neg (mt linkTrains_iff.1 h))

end
end

/-- Settles O51: the writer, the readiness of the other port and the time that the manager port has been down decide where the manager role is, and
the warm reset, the clock and the link's width and mode what an event of a PCIe link does. -/
theorem hostPorts : Obligations.HostPorts := by
  have next {s t : State} (h : s = t) : (.next s : Host.Outcome State Fault Refusal) = .next t := congrArg _ h
  intro s port rate width flit unc func status p q k a moved ready down
  exact ⟨fun w hw => ⟨fun h => (exec_handover_of_writer w hw).trans (next (handover_moves h)),
      fun code h => (exec_handover_of_writer w hw).trans (next (handover_refused h))⟩,
    exists_code_of_not_portReady, fun w hm hf => next (handoverWrite_of_other hm hf), ⟨fun t => exec_handoverAuto_due, exec_handoverAuto_early⟩,
    exec_perstAssert_down, exec_perstAssert_held, rfl, ⟨exec_hostLinkUp_trains, exec_hostLinkUp_held⟩, rfl⟩

end Sys2Proof.Machine
end

section
/-!
PROOFS. The confidential mode of a function (R319, R320): O52.
-/
namespace Sys2Proof.Machine
open Sys2Proof

section
variable {s : State} {port : Fin 2} {func : BitVec 8}

/-! ## Requests of a session (R319) -/

section
variable {p f : Nat}

theorem inSession_present {g : List Byte → State} {x : List Byte} (h : findKey s.host.sessions (256 * p + f) = some x) (ha : procAway s 0 = false) :
    inSession s p f g = g x := by
  simp [inSession, h, ha]

theorem inSession_missing {g : List Byte → State} (h : findKey s.host.sessions (256 * p + f) = none ∨ procAway s 0 = true) :
    inSession s p f g = s := by
  unfold inSession
  cases hx : findKey s.host.sessions (256 * p + f) with
  | none => rfl
  | some x => exact if_pos (h.resolve_left (by simp [hx]))

/-- The function has its mode or a context in service, which CONF_START does not allow (R319). -/
theorem conf_started_iff : (confOn s (256 * p + f) || !(funcCtxs s p f).isEmpty) = true ↔ confOn s (256 * p + f) = true ∨ funcCtxs s p f ≠ [] := by
  simp

/-- The function lacks its mode or has a context in service, which CONF_END does not allow (R319). -/
theorem conf_unended_iff : (!confOn s (256 * p + f) || !(funcCtxs s p f).isEmpty) = true ↔ confOn s (256 * p + f) = false ∨ funcCtxs s p f ≠ [] := by
  simp

end

theorem exec_confCommand_no_session (h : findKey s.host.sessions (256 * port.val + func.toNat) = none ∨ procAway s 0 = true) :
    
    ∀ c ∈ [Instr.confStart port func, .confRekey port func, .confEnd port func, .confQuery port func], exec c s = .next s := by
  have none_acts (g : List Byte → State) : (.next (inSession s port.val func.toNat g) : Host.Outcome State Fault Refusal) = .next s :=
    congrArg _ (inSession_missing h)
  simp only [List.forall_mem_cons, List.not_mem_nil, false_implies, implies_true, and_true]
  exact ⟨none_acts _, none_acts _, none_acts _, none_acts _⟩

section
variable {x : List Byte} (hx : findKey s.host.sessions (256 * port.val + func.toNat) = some x) (ha : procAway s 0 = false)
include hx ha

theorem exec_confStart_starts (h : confOn s (256 * port.val + func.toNat) = false) (hc : funcCtxs s port.val func.toNat = []) :
    exec (.confStart port func) s = .next (confReply (wr (setConf s (256 * port.val + func.toNat) { secret := x })
      (Reg.HOSTPORT.FUNC_STATE.CONFIDENTIAL port.val func.toNat) 1) port.val func.toNat 1 0 []) :=
  congrArg Host.Outcome.next ((inSession_present hx ha).trans (if_neg (by simp [h, hc])))

theorem exec_confStart_refused (h : confOn s (256 * port.val + func.toNat) = true ∨ funcCtxs s port.val func.toNat ≠ []) :
    exec (.confStart port func) s = .next (confReply s port.val func.toNat 1 2 []) :=
  congrArg Host.Outcome.next ((inSession_present hx ha).trans (if_pos (conf_started_iff.2 h)))

theorem exec_confRekey_refused (h : confOn s (256 * port.val + func.toNat) = false) :
    exec (.confRekey port func) s = .next (confReply s port.val func.toNat 2 2 []) :=
  congrArg Host.Outcome.next ((inSession_present hx ha).trans (if_pos (by simp [h])))

section
variable (h : confOn s (256 * port.val + func.toNat) = true)
include h

theorem exec_confRekey_busy (hb : funcBusy s port.val func.toNat = true) :
    exec (.confRekey port func) s = .next (confReply s port.val func.toNat 2 1 []) :=
  congrArg Host.Outcome.next ((inSession_present hx ha).trans ((if_neg (by simp [h])).trans (if_pos hb)))

theorem exec_confRekey_replaces (hb : funcBusy s port.val func.toNat = false) :
    exec (.confRekey port func) s = .next (confReply (setConf s (256 * port.val + func.toNat)
      { secret := Config.hkdfExpand 384 (confOf s (256 * port.val + func.toNat)).secret (ascii "vovis rekey") 48,
        events := (confOf s (256 * port.val + func.toNat)).events }) port.val func.toNat 2 0 []) :=
  congrArg Host.Outcome.next ((inSession_present hx ha).trans ((if_neg (by simp [h])).trans (if_neg (by simp [hb]))))

theorem exec_confEnd_ends (hc : funcCtxs s port.val func.toNat = []) :
    exec (.confEnd port func) s = .next (confReply (confErase s port.val func.toNat) port.val func.toNat 3 0 []) :=
  congrArg Host.Outcome.next ((inSession_present hx ha).trans (if_neg (by simp [h, hc])))

end

theorem exec_confEnd_refused (h : confOn s (256 * port.val + func.toNat) = false ∨ funcCtxs s port.val func.toNat ≠ []) :
    exec (.confEnd port func) s = .next (confReply s port.val func.toNat 3 2 []) :=
  congrArg Host.Outcome.next ((inSession_present hx ha).trans (if_pos (conf_unended_iff.2 h)))

end

/-! ## The end of the session (R319) -/

/-- The state without the session of a function. -/
def sessionEnded (s : State) (p f : Nat) : State := { s with host := { s.host with sessions := delKey s.host.sessions (256 * p + f) } }

theorem exec_spdmSessionEnd_erases (h : funcCtxs (sessionEnded s port.val func.toNat) port.val func.toNat = []) :
    exec (.spdmSessionEnd port func) s = .next (confErase (sessionEnded s port.val func.toNat) port.val func.toNat) :=
  congrArg Host.Outcome.next (if_pos (List.isEmpty_iff.2 h))

theorem exec_spdmSessionEnd_keeps (h : funcCtxs (sessionEnded s port.val func.toNat) port.val func.toNat ≠ []) :
    exec (.spdmSessionEnd port func) s = .next (sessionEnded s port.val func.toNat) :=
  congrArg Host.Outcome.next (if_neg (mt List.isEmpty_iff.1 h))

end

/-- Settles O52: the session and the processor that answers decide whether a request is taken; the mode, the enabled contexts and the descriptors in
progress what it does, and the enabled contexts what the end of the session does. -/
theorem confidentialMode : Obligations.ConfidentialMode := by
  have next {s t : State} (h : s = t) : (.next s : Host.Outcome State Fault Refusal) = .next t := congrArg _ h
  intro s port func p f k c ended tells
  exact ⟨fun x hx ha => ⟨exec_confStart_starts hx ha, exec_confStart_refused hx ha, exec_confRekey_refused hx ha, exec_confRekey_busy hx ha,
      exec_confRekey_replaces hx ha, exec_confEnd_ends hx ha, exec_confEnd_refused hx ha, next (inSession_present hx ha)⟩,
    exec_confCommand_no_session, exec_spdmSessionEnd_erases, exec_spdmSessionEnd_keeps⟩

end Sys2Proof.Machine
end

section
/-!
PROOFS. What an error report leaves (R359 to R365).
-/
namespace Sys2Proof.Machine
open Sys2Proof

/-! ## What an error report leaves

A report writes the on-chip log, the ring, the sources and the event queue: registers of GLOBAL and MGMT, and the parts of the state that hold
records and messages. What each of these writes keeps, the report keeps. -/

/-- A field of the maps from PORT to POWER: byte addresses 0xC00000 to 0x12FFFFF. -/
def ofPortsToPower (f : Fld) : Prop := 8 * 0xC00000 ≤ f.key ∧ f.key < 8 * 0x1300000

/-- `P` survives every update that an error report is made of. -/
structure ReportKeeps (P : State → Prop) : Prop where
  wr : ∀ {s f v}, ¬ ofPortsToPower f → P s → P (wr s f v)
  out : ∀ {s x}, P s → P { s with out := x }
  err : ∀ {s x}, P s → P { s with err := x }
  host : ∀ {s x}, P s → P { s with host := x }
  fw : ∀ {s x}, P s → P { s with fw := x }

theorem not_ofPortsToPower_of_lt {a lo w r : Nat} {b : Bool} (h : 8 * a + lo < 8 * 0xC00000) : ¬ ofPortsToPower ⟨8 * a + lo, w, r, b⟩ := by
  unfold ofPortsToPower
  dsimp only
  omega

theorem not_ofPortsToPower_of_ge {a lo w r : Nat} {b : Bool} (h : 0x1300000 ≤ a) : ¬ ofPortsToPower ⟨8 * a + lo, w, r, b⟩ := by
  unfold ofPortsToPower
  dsimp only
  omega

theorem holds_ite {P : State → Prop} {c : Prop} [Decidable c] {s t : State} (h : P s) (k : P t) : P (if c then s else t) :=
  iteInduction (fun _ => h) fun _ => k

section
variable {P : State → Prop} (hP : ReportKeeps P) {s : State}
include hP

namespace ReportKeeps

theorem wrs {l : List (Fld × Nat)} (h : P s) (hl : ∀ e ∈ l, ¬ ofPortsToPower e.1) : P (wrs s l) := by
  induction l generalizing s with
  | nil => exact h
  | cons e l ih => exact ih (hP.wr (hl e (by simp)) h) fun e he => hl e (List.mem_cons_of_mem _ he)

theorem global {a lo w r v : Nat} {b : Bool} (h : P s) (ha : 8 * a + lo < 8 * 0xC00000) : P (Machine.wr s ⟨8 * a + lo, w, r, b⟩ v) :=
  hP.wr (not_ofPortsToPower_of_lt ha) h

theorem askPage {e func addr : Nat} {w : Bool} (h : P s) : P (askPage s e func addr w) := hP.out h

theorem dmaWrite {e func addr ring : Nat} {data : List Byte} {ro : Bool} (h : P s) : P (dmaWrite s e func addr data ring ro) := by
  unfold Machine.dmaWrite
  split
  · exact List.foldlRecOn _ _ h fun _ k _ _ => hP.out k
  · exact holds_ite (hP.askPage (hP.host h)) (hP.host h)

theorem sendMsix {port func vector : Nat} (h : P s) : P (sendMsix s port func vector) := holds_ite h (holds_ite (hP.host h) (hP.out h))

theorem logWrites {k n : Nat} (hk : k < 0x8000) (h : P s) : P (Machine.wrs s (logWrites k n)) := by
  refine hP.wrs h fun e he => ?_
  obtain ⟨w, hw, rfl⟩ := List.mem_map.1 he
  exact not_ofPortsToPower_of_lt (by have := List.mem_range.1 hw; omega)

theorem logRecord {n : Nat} (h : P s) : P (logRecord s n) := by
  have last {t : State} : rd t Reg.GLOBAL.LOG_STATUS.LAST_NEXT < 256 := rd_lt t _
  have first {t : State} (ht : P t) : P (if rd t Reg.GLOBAL.LOG_STATUS.FIRST_FILLED < 64 then
      Machine.wr (Machine.wrs t (Machine.logWrites (rd t Reg.GLOBAL.LOG_STATUS.FIRST_FILLED) n)) Reg.GLOBAL.LOG_STATUS.FIRST_FILLED
        (rd t Reg.GLOBAL.LOG_STATUS.FIRST_FILLED + 1) else t) := by
    split
    next hf => exact hP.global (hP.logWrites (by omega) ht) (by omega)
    next => exact ht
  have entry {k : Nat} (hk : k < 256) {t : State} (ht : P t) : P (Machine.wrs t (Machine.logWrites (64 + k) n)) := hP.logWrites (by omega) ht
  exact hP.global (holds_ite (hP.global (hP.global (entry last (first h)) (by omega)) (by omega)) (hP.global (entry last (first h)) (by omega))) (by omega)

theorem countSource {src cls cause : Nat} (hs : src < 512) (h : P s) : P (countSource s src cls cause) := by
  have sources {t : State} {l : List (Fld × Nat)} (ht : P t) (hl : l.Forall (fun e => ¬ ofPortsToPower e.1)) : P (Machine.wrs t l) :=
    hP.wrs ht (List.forall_iff_forall_mem.1 hl)
  refine hP.global (hP.global (sources (holds_ite (sources h ?_) h) ?_) (by omega)) (by omega)
  all_goals and_intros <;> exact not_ofPortsToPower_of_lt (by omega)

theorem ringFull (h : P s) : P (ringFull s) := hP.global h (by omega)

theorem ringPut {n : Nat} (h : P s) : P (ringPut s n) := by
  unfold Machine.ringPut Machine.ringWrite
  have written := hP.ringFull (hP.global (v := rd s Reg.GLOBAL.ERR_RING_TAIL.TAIL + 1) (a := 0x8018) (lo := 0) (w := 32) (r := 0) (b := false)
    (hP.dmaWrite (e := mgrPort s) (func := 0) (addr := ringAddr s) (data := leBytes 64 n) (ring := 4096) (ro := true) h) (by omega))
  split
  · exact holds_ite (holds_ite (hP.sendMsix (hP.err written)) (hP.err written)) (hP.err h)
  · exact holds_ite (hP.askPage (hP.err h)) (hP.err h)

theorem overrunRecord (h : P s) : P (overrunRecord s) :=
  holds_ite (hP.logRecord (hP.ringPut (hP.global (hP.global (hP.err (hP.countSource (by omega) h)) (by omega)) (by omega)))) h

theorem putRecord {src : Nat} {e : PendErr} {c : Bool} (h : P s) : P (putRecord s src e c) := by
  have logged {x : ErrState} {n : Nat} := hP.logRecord (n := n) (hP.err (x := x) (hP.overrunRecord h))
  exact holds_ite (hP.ringPut logged) (hP.err (hP.global (hP.global logged (by omega)) (by omega)))

theorem reportBy {put : State → Nat → PendErr → Bool → State} (hp : ∀ {s src e c}, P s → P (put s src e c)) {src cls cause outcome a b : Nat}
    (hs : src < 512) (h : P s) : P (reportBy put s src cls cause outcome a b) :=
  holds_ite (hP.err (hP.countSource hs h)) (hp (hP.countSource hs h))

theorem emitRecord {src : Nat} {e : PendErr} {c : Bool} (h : P s) : P (emitRecord s src e c) := by
  have mgmt {t : State} {lo w v : Nat} (ht : P t) : P (Machine.wr t ⟨8 * 0x1300008 + lo, w, 0, false⟩ v) :=
    hP.wr (not_ofPortsToPower_of_ge (by omega)) ht
  exact holds_ite (hP.putRecord h) (holds_ite (mgmt (hP.fw (hP.putRecord h))) (hP.reportBy hP.putRecord (by omega) (mgmt (hP.putRecord h))))

theorem report {src cls cause outcome a b : Nat} (hs : src < 512) (h : P s) : P (report s src cls cause outcome a b) :=
  hP.reportBy hP.emitRecord hs h

end ReportKeeps
end

theorem rd_report {s : State} {src cls cause outcome a b : Nat} {f : Fld} (hs : src < 512) (hf : ofPortsToPower f) :
    rd (report s src cls cause outcome a b) f = rd s f :=
  ReportKeeps.report (P := fun t => rd t f = rd s f)
    ⟨fun hg h => (rd_wr_ne _ _ fun e => hg (by unfold ofPortsToPower at hf ⊢; rwa [e])).trans h, id, id, id, id⟩ hs rfl

theorem report_pw {s : State} {src cls cause outcome a b : Nat} (hs : src < 512) : (report s src cls cause outcome a b).pw = s.pw :=
  ReportKeeps.report (P := fun t => t.pw = s.pw) ⟨fun _ h => h, id, id, id, id⟩ hs rfl

end Sys2Proof.Machine
end

section
/-!
PROOFS. The keys of a link (R332, R343): O36.
-/
namespace Sys2Proof.Machine
open Sys2Proof

/-! ## A link that goes DOWN (R332) -/

theorem mem_halfLanes_lt {s : State} {n l : Nat} (h : l ∈ halfLanes s n) : l < 8 := by
  unfold halfLanes at h
  split at h
  · obtain ⟨k, hk, rfl⟩ := List.mem_map.1 h
    have := List.mem_range.1 hk
    omega
  · exact List.mem_range.1 h

/-- A lane's STATE is another field than that of a link. -/
theorem linkState_setLaneState {s : State} {p n l v : Nat} (hl : l < 8) : linkState (setLaneState s p l v) n = linkState s n := by
  refine rd_wr_ne _ _ ?_
  unfold Reg.PORT.LANE_STATUS.STATE Reg.PORT.LINK_STATUS.STATE
  dsimp only
  omega

/-- The first write of STATE stands, whatever other fields of the link follow. -/
theorem linkState_wrs_state {s : State} {n v : Nat} {l : List (Fld × Nat)} (hv : v < 8)
    (hl : ∀ e ∈ l, e.1.key ≠ (Reg.PORT.LINK_STATUS.STATE (n / 2) (n % 2)).key) :
    linkState (wrs s ((Reg.PORT.LINK_STATUS.STATE (n / 2) (n % 2), v) :: l)) n = v :=
  (rd_wrs_ne _ _ _ hl).trans ((rd_wr_same ..).trans (Nat.mod_eq_of_lt hv))

/-- The lanes of half `n` once its link is DOWN: off, and RETIRED where they are (R332). -/
def lanesOff (s : State) (n : Nat) : State :=
  (halfLanes s n).foldl (fun s l => setLane (setLaneState s (n / 2) l (if laneRetired s (n / 2) l then 5 else 0)) (8 * (n / 2) + l)
    { laneRun s (8 * (n / 2) + l) with retrainAt := none, leaving := false, retired := false }) s

theorem linkState_lanesOff {s : State} {n : Nat} : linkState (lanesOff s n) n = linkState s n :=
  List.foldlRecOn (motive := fun t => linkState t n = linkState s n) _ _ rfl fun _ ht _ hl =>
    (linkState_setLaneState (mem_halfLanes_lt hl)).trans ht

/-- The fields of a link that goes DOWN (R332). -/
def downFields (n cause : Nat) : List (Fld × Nat) :=
  let p := n / 2
  let i := n % 2
  [(Reg.PORT.LINK_STATUS.STATE p i, 0), (Reg.PORT.LINK_STATUS.WIDTH p i, 0), (Reg.PORT.LINK_STATUS.ACTIVE_LANES p i, 0),
    (Reg.PORT.LINK_STATUS.KEY_SEQ p i, 0), (Reg.PORT.LINK_STATUS.DOWN_CAUSE p i, cause), (Reg.PORT.KEY_STATUS.NEXT_READY p i, 0)]

theorem linkState_downFields {s : State} {n cause : Nat} : linkState (wrs s (downFields n cause)) n = 0 := by
  unfold downFields
  refine linkState_wrs_state (by decide) ?_
  simp only [List.forall_mem_cons, List.not_mem_nil, false_implies, implies_true, and_true, Reg.PORT.LINK_STATUS.WIDTH,
    Reg.PORT.LINK_STATUS.ACTIVE_LANES, Reg.PORT.LINK_STATUS.KEY_SEQ, Reg.PORT.LINK_STATUS.DOWN_CAUSE, Reg.PORT.KEY_STATUS.NEXT_READY,
    Reg.PORT.LINK_STATUS.STATE]
  omega

theorem linkState_setLink_with {s : State} {n k : Nat} {r : LinkRun} {x : LinkState} : linkState { setLink s k r with link := x } n = linkState s n := rfl

/-- A LINK record leaves STATE of its link. -/
theorem linkState_report {s : State} {n cls cause outcome a b : Nat} (hn : n < 256) :
    linkState (report s (n / 2) cls cause outcome a b) n = linkState s n := by
  refine rd_report (by omega) ?_
  unfold ofPortsToPower Reg.PORT.LINK_STATUS.STATE
  dsimp only
  omega

theorem linkState_linkDown {s : State} {n cause outcome : Nat} (hn : n < 256) (h : linkState s n ≠ 0) :
    linkState (linkDown s n cause outcome) n = 0 := by
  have off : ∃ u r x width, linkDown s n cause outcome = report { setLink (lanesOff (wrs u (downFields n cause)) n) n r with link := x }
      (n / 2) 0x03 cause outcome (packBits [(0, 7, n / 2), (7, 1, n % 2)]) width := ⟨_, _, _, _, if_neg h⟩
  obtain ⟨u, r, x, width, e⟩ := off
  rw [e, linkState_report hn, linkState_setLink_with, linkState_lanesOff, linkState_downFields]

section
variable {s : State} {h : BitVec 8}

/-! ## Keying (R332) -/

/-- Half `n` may come UP: keys in use and tried within 200 ms, and no port-down work due. -/
def mayComeUp (s : State) (n : Nat) : Prop :=
  linkState s n = 2 ∧ (linkRun s n).prk ≠ none ∧ (linkRun s n).seen = true ∧ s.now < (linkRun s n).since + ms 200 ∧ n ∉ s.sw.down

theorem exec_linkKeyed_comesUp (hk : mayComeUp s h.toNat) : exec (.linkKeyed h) s = .next (linkIsUp s h.toNat) := by
  obtain ⟨h2, hp, hs, ht, hd⟩ := hk
  exact congrArg Host.Outcome.next (if_pos (by simp [h2, Option.isSome_iff_ne_none.2 hp, hs, ht, hd]))

theorem exec_linkKeyed_waits (hk : ¬ mayComeUp s h.toNat) : exec (.linkKeyed h) s = .next s := by
  refine congrArg Host.Outcome.next (if_neg (mt ?_ hk))
  rintro ⟨h2, hp, hs, ht, hd⟩
  exact ⟨h2, Option.isSome_iff_ne_none.1 hp, hs, ht, by simpa using hd⟩

theorem exec_linkKeyingTimeout_late (h2 : linkState s h.toNat = 2) (ht : (linkRun s h.toNat).since + ms 200 ≤ s.now) :
    exec (.linkKeyingTimeout h) s = .next (linkDown s h.toNat 6 2) :=
  congrArg Host.Outcome.next (if_pos ⟨h2, ht⟩)

theorem exec_linkKeyingTimeout_early (hn : linkState s h.toNat ≠ 2 ∨ s.now < (linkRun s h.toNat).since + ms 200) :
    exec (.linkKeyingTimeout h) s = .next s :=
  congrArg Host.Outcome.next (if_neg (by omega))

/-! ## Rekeys (R343) -/

/-- The key of the receiving or of the sending direction of half `n` is due for its successor. -/
def rekeyDue (s : State) (n : Nat) (receive : Bool) : Bool :=
  let x := linkRun s n
  if receive then keyDue x.rxFrames (s.now - x.rxAt) else keyDue x.txFrames (s.now - x.txAt)

section
variable (hu : linkState s h.toNat = 3 ∧ procAway s 0 = false)
include hu

theorem exec_rekeyDue_up {receive : Bool} :
    exec (.rekeyDue h receive) s = .next (if receive = true then
        (if rekeyDue s h.toNat true = true then setLink s h.toNat { linkRun s h.toNat with rxReady := true } else s)
      else if rekeyDue s h.toNat false = true then wr s (Reg.PORT.KEY_STATUS.NEXT_READY (h.toNat / 2) (h.toNat % 2)) 1 else s) :=
  congrArg Host.Outcome.next (if_neg (by simp [hu]))

theorem exec_rekeyDue_receives (hd : rekeyDue s h.toNat true = true) :
    exec (.rekeyDue h true) s = .next (setLink s h.toNat { linkRun s h.toNat with rxReady := true }) :=
  (exec_rekeyDue_up hu).trans (congrArg Host.Outcome.next (if_pos hd))

theorem exec_rekeyDue_sends (hd : rekeyDue s h.toNat false = true) :
    exec (.rekeyDue h false) s = .next (wr s (Reg.PORT.KEY_STATUS.NEXT_READY (h.toNat / 2) (h.toNat % 2)) 1) :=
  (exec_rekeyDue_up hu).trans (congrArg Host.Outcome.next (if_pos hd))

end

theorem exec_rekeyDue_not_due {receive : Bool} (hn : ¬ (linkState s h.toNat = 3 ∧ procAway s 0 = false) ∨ ¬ rekeyDue s h.toNat receive = true) :
    exec (.rekeyDue h receive) s = .next s := by
  by_cases hu : linkState s h.toNat = 3 ∧ procAway s 0 = false
  · rw [exec_rekeyDue_up hu]
    have hd := hn.resolve_left (not_not.2 hu)
    cases receive
    case true => exact congrArg Host.Outcome.next (if_neg hd)
    case false => exact congrArg Host.Outcome.next (if_neg hd)
  · exact congrArg Host.Outcome.next (if_pos (by simpa [or_iff_not_imp_left] using hu))

/-- The sender of half `n` has its next key (R343). -/
def nextKeyReady (s : State) (n : Nat) : Prop := linkState s n = 3 ∧ rdb s (Reg.PORT.KEY_STATUS.NEXT_READY (n / 2) (n % 2)) = true

theorem exec_nextKeyInstalled_switches (hr : nextKeyReady s h.toNat) :
    let n := h.toNat
    let p := n / 2
    let i := n % 2
    let x := linkRun s n
    exec (.nextKeyInstalled h) s = .next (wrs (setLink (trace s 0 6 0x0702 p (x.txR + 1)) n { x with txR := x.txR + 1, txAt := s.now, txFrames := 0 })
      [(Reg.PORT.LINK_STATUS.KEY_SEQ p i, x.txR + 1), (Reg.PORT.KEY_STATUS.TX_FRAMES_KEY p i, 0), (Reg.PORT.KEY_STATUS.KEY_AGE_S p i, 0),
        (Reg.PORT.KEY_STATUS.NEXT_READY p i, 0)]) :=
  congrArg Host.Outcome.next (if_pos hr)

theorem exec_nextKeyInstalled_waits (hr : ¬ nextKeyReady s h.toNat) : exec (.nextKeyInstalled h) s = .next s :=
  congrArg Host.Outcome.next (if_neg hr)

/-- A key of half `n` is past its life. -/
def keyPast (s : State) (n : Nat) : Prop :=
  keyOver (linkRun s n).txFrames (s.now - (linkRun s n).txAt) = true ∨ keyOver (linkRun s n).rxFrames (s.now - (linkRun s n).rxAt) = true

theorem exec_keyExpired_down (h3 : linkState s h.toNat = 3) (hp : keyPast s h.toNat) : exec (.keyExpired h) s = .next (linkDown s h.toNat 9 2) :=
  congrArg Host.Outcome.next (if_pos ⟨h3, Bool.or_eq_true_iff.2 hp⟩)

theorem exec_keyExpired_waits (hn : linkState s h.toNat ≠ 3 ∨ ¬ keyPast s h.toNat) : exec (.keyExpired h) s = .next s :=
  congrArg Host.Outcome.next (if_neg fun ⟨h3, hp⟩ => hn.elim (· h3) (· (Bool.or_eq_true_iff.1 hp)))

end

/-- Settles O36: the state of the link and the time, use and life of its keys decide each command, and no later write of a link that goes down sets
its STATE. -/
theorem linkKeys : Obligations.LinkKeys := by
  intro s h n p i x keyed up tx rx past next
  exact ⟨exec_linkKeyed_comesUp, exec_linkKeyed_waits, exec_linkKeyingTimeout_late, exec_linkKeyingTimeout_early,
    exec_rekeyDue_receives, exec_rekeyDue_sends, exec_rekeyDue_not_due (receive := true), exec_rekeyDue_not_due (receive := false),
    exec_nextKeyInstalled_switches, exec_nextKeyInstalled_waits, exec_keyExpired_down, exec_keyExpired_waits,
    fun h0 _ _ => linkState_linkDown h.isLt h0⟩

end Sys2Proof.Machine
end

section
/-!
PROOFS. Training of a link and loss of its signal (R327 to R332, R337): O37.
-/
namespace Sys2Proof.Machine
open Sys2Proof

section
variable {s : State} {h mask good los : BitVec 8}

/-! ## An attempt (R332, R337) -/

/-- The pairs of half `n` that may carry the stripe and have signal. -/
def signalLanes (s : State) (n mask : Nat) : List Nat := (keptLanes s n).filter (fun l => bitAt mask l)

/-- Half `n` may train on the pairs that have signal: they are enough, and an optical module is ready (R330, R341). -/
def signalEnough (s : State) (n mask : Nat) : Prop :=
  minWidth s (n / 2) ≤ (signalLanes s n mask).length ∧ (rdb s (Reg.PORT.PORT_CFG.MEDIA (n / 2)) = false ∨ (linkRun s n).cmis = 3)

section
variable {n m : Nat}

theorem tryTrain_barred (hm : mayTrain s n = false) : tryTrain s n m = s := if_pos (by simp [hm])

section
variable (hm : mayTrain s n = true)
include hm

theorem tryTrain_test (ht : testMode s (n / 2) = true) : tryTrain s n m = enterTest s n := (if_neg (by simp [hm])).trans (if_pos ht)

theorem tryTrain_signal (ht : testMode s (n / 2) = false) (he : signalEnough s n m) : tryTrain s n m = enterTraining s n (signalLanes s n m) :=
  (if_neg (by simp [hm])).trans ((if_neg (by simp [ht])).trans (if_pos (by simpa [signalEnough, signalLanes] using he)))

end

theorem tryTrain_no_signal (ht : testMode s (n / 2) = false) (he : ¬ signalEnough s n m) : tryTrain s n m = s := by
  cases hm : mayTrain s n
  case false => exact tryTrain_barred hm
  case true => exact (if_neg (by simp [hm])).trans ((if_neg (by simp [ht])).trans (if_neg (by simpa [signalEnough, signalLanes] using he)))

end

/-- The retry timer of half `n` has run for 1 s. -/
def retryDue (s : State) (n : Nat) : Bool := decide ((linkRun s n).since + secs 1 ≤ s.now)

/-- Both commands of an attempt are `tryTrain`, the second once its time has come. -/
theorem exec_attempt : ∀ e ∈ [(Instr.linkTrainingStart h mask, true), (.linkRetryTimer h mask, retryDue s h.toNat)],
    exec e.1 s = .next (if e.2 = true then tryTrain s h.toNat mask.toNat else s) := by
  simp only [List.forall_mem_cons, List.not_mem_nil, false_implies, implies_true, and_true]
  exact ⟨rfl, congrArg Host.Outcome.next (ite_congr (decide_eq_true_iff.symm.eq) (fun _ => rfl) fun _ => rfl)⟩

/-! ## Markers (R327) -/

section
variable {p : Fin 128} {l : Fin 8} {idx : BitVec 3} {port : BitVec 7} {sender : BitVec 12} {skew : BitVec 10}

/-- A lane that reads markers: TRAINING, ACTIVE, IDLE or RETRAINING. -/
def readsMarkers (s : State) (p l : Nat) : Prop := laneState s p l = 1 ∨ laneState s p l = 2 ∨ laneState s p l = 3 ∨ laneState s p l = 4

theorem exec_alignmentMarker_reads (hr : readsMarkers s p l) :
    let u := setLane (wr s (Reg.PORT.LANE_STATUS.SKEW_NS p l) skew.toNat) (8 * p.val + l.val)
      { laneRun s (8 * p.val + l.val) with marker := some (idx.toNat, port.toNat, sender.toNat) }
    exec (.alignmentMarker p l idx port sender skew) s = .next (if laneState s p l = 1 ∧ 180 < skew.toNat then retireLane u p l 5 else u) :=
  congrArg Host.Outcome.next (if_pos hr)

theorem exec_alignmentMarker_ignored (hr : ¬ readsMarkers s p l) : exec (.alignmentMarker p l idx port sender skew) s = .next s :=
  congrArg Host.Outcome.next (if_neg hr)

end

/-! ## The end of training (R329, R330, R332) -/

/-- The pairs of half `n` that are good in both directions. -/
def pairsGood (s : State) (n good : Nat) : List Nat :=
  ((marked s n).map (fun e => e.1)).filter (fun l => bitAt good l && decide (rd s (Reg.PORT.LANE_STATUS.SKEW_NS (n / 2) l) ≤ 180))

/-- A width is agreed on in time. -/
def widthAgreed (s : State) (n good : Nat) : Prop :=
  linkState s n = 1 ∧ s.now < (linkRun s n).since + ms 100 ∧ miswired s n = false ∧ activeSet s n (pairsGood s n good) ≠ []

/-- The lanes of half `n` after training: IDLE where they are among `ok`, else off. -/
def lanesTrained (s : State) (n : Nat) (ok : List Nat) : State :=
  (halfLanes s n).foldl (fun s l => if laneState s (n / 2) l = 1 then setLaneState s (n / 2) l (if ok.contains l then 3 else 0) else s) s

/-- Half `n` enters KEYING on the active set, with the detectors of the pairs `ok` clear. -/
def entersKeying (s : State) (n : Nat) (ok set : List Nat) : State :=
  let p := n / 2
  let b := applySet (ok.foldl (fun s l => wrs s [(Reg.PORT.LANE_STATUS.LOS p l, 0), (Reg.PORT.LANE_STATUS.LOL p l, 0)]) s) n set
  let c := setLink b n { since := b.now, reqNo := (linkRun b n).reqNo, cmis := (linkRun b n).cmis, nonce := leBytes 32 (peekFree b) }
  wrs (takeFree c) [(Reg.PORT.LINK_STATUS.STATE p (n % 2), 2), (Reg.PORT.LINK_STATUS.KEY_SEQ p (n % 2), 0)]

theorem exec_linkTrained_agrees (ha : widthAgreed s h.toNat good.toNat) :
    let ok := pairsGood s h.toNat good.toNat
    exec (.linkTrained h good) s = .next (entersKeying (lanesTrained s h.toNat ok) h.toNat ok (activeSet s h.toNat ok)) := by
  obtain ⟨h1, ht, hm, hs⟩ := ha
  exact congrArg Host.Outcome.next (if_pos ⟨h1, ht, by simp [hm], hs⟩)

theorem exec_linkTrained_waits (ha : ¬ widthAgreed s h.toNat good.toNat) : exec (.linkTrained h good) s = .next s :=
  congrArg Host.Outcome.next (if_neg fun ⟨h1, ht, hm, hs⟩ => ha ⟨h1, ht, by simpa using hm, hs⟩)

section
variable (h1 : linkState s h.toNat = 1)
include h1

theorem exec_linkTrainingTimeout_miswired (hm : miswired s h.toNat = true) : exec (.linkTrainingTimeout h) s = .next (linkDown s h.toNat 5 2) :=
  congrArg Host.Outcome.next ((if_neg (not_not.2 h1)).trans (if_pos hm))

theorem exec_linkTrainingTimeout_wired (hm : miswired s h.toNat = false) : exec (.linkTrainingTimeout h) s =
    .next (if (linkRun s h.toNat).since + ms 100 ≤ s.now then linkDown s h.toNat 4 2 else s) :=
  congrArg Host.Outcome.next ((if_neg (not_not.2 h1)).trans (if_neg (Bool.not_eq_true _ ▸ hm)))

theorem exec_linkTrainingTimeout_late (hm : miswired s h.toNat = false) (ht : (linkRun s h.toNat).since + ms 100 ≤ s.now) :
    exec (.linkTrainingTimeout h) s = .next (linkDown s h.toNat 4 2) :=
  (exec_linkTrainingTimeout_wired h1 hm).trans (congrArg Host.Outcome.next (if_pos ht))

end

theorem exec_linkTrainingTimeout_waits
    (hn : linkState s h.toNat ≠ 1 ∨ (miswired s h.toNat = false ∧ s.now < (linkRun s h.toNat).since + ms 100)) :
    exec (.linkTrainingTimeout h) s = .next s := by
  by_cases h1 : linkState s h.toNat = 1
  · obtain ⟨hm, ht⟩ := hn.resolve_left (not_not.2 h1)
    exact (exec_linkTrainingTimeout_wired h1 hm).trans (congrArg Host.Outcome.next (if_neg (by omega)))
  · exact congrArg Host.Outcome.next (if_pos h1)

/-! ## Loss of every active lane (R337) -/

theorem exec_linkSignalLoss_down (h3 : linkState s h.toNat = 3) :
    let act := lanesOf (activeMask s h.toNat)
    exec (.linkSignalLoss h los) s = .next (linkDown
      (lanesTrip s (h.toNat / 2) (act.filter (fun l => bitAt los.toNat l)) (act.filter (fun l => !bitAt los.toNat l))) h.toNat 2 2) :=
  congrArg Host.Outcome.next (if_pos h3)

theorem exec_linkSignalLoss_ignored (h3 : linkState s h.toNat ≠ 3) : exec (.linkSignalLoss h los) s = .next s :=
  congrArg Host.Outcome.next (if_neg h3)

end

/-- Settles O37: whether an attempt may be made, the signal and the agreed pairs, the markers, and the time since the attempt decide each command. -/
theorem linkTraining : Obligations.LinkTraining := by
  intro s h mask good los p l idx port sender skew n q x ok set agreed read act
  refine ⟨?_, exec_alignmentMarker_reads, exec_alignmentMarker_ignored, exec_linkTrained_agrees, exec_linkTrained_waits,
    exec_linkTrainingTimeout_miswired, exec_linkTrainingTimeout_late, exec_linkTrainingTimeout_waits, exec_linkSignalLoss_down,
    exec_linkSignalLoss_ignored⟩
  intro e he sig enough
  have attempt {t : State} (ht : (if e.2 = true then tryTrain s n mask.toNat else s) = t) : exec e.1 s = .next t :=
    (exec_attempt e he).trans (congrArg _ ht)
  refine ⟨fun hd hm ht => attempt ((if_pos hd).trans (tryTrain_test hm ht)),
    fun hd hm ht hs => attempt ((if_pos hd).trans (tryTrain_signal hm ht hs)), fun hn => attempt ?_⟩
  rcases hn with hd | hm | ⟨ht, hs⟩
  case inl => exact if_neg (by simp [hd])
  case inr.inl => exact (ite_congr rfl (fun _ => tryTrain_barred hm) fun _ => rfl).trans (ite_self s)
  case inr.inr => exact (ite_congr rfl (fun _ => tryTrain_no_signal ht hs) fun _ => rfl).trans (ite_self s)

end Sys2Proof.Machine
end

section
/-!
PROOFS. Lane faults, retirement and reinstatement (R335 to R339): O38.
-/
namespace Sys2Proof.Machine
open Sys2Proof

section
variable {s : State} {p : Fin 128} {l : Fin 8}

/-! ## A transient fault (R336) -/

section
variable {p l cause : Nat}

/-- A fault of lane `l` of port `p` counts: the lane is ACTIVE or IDLE, and none is being dealt with. -/
def faultCounts (s : State) (p l : Nat) : Prop := (laneState s p l = 2 ∨ laneState s p l = 3) ∧ (laneRun s (8 * p + l)).leaving = false

/-- The state with a fault of lane `l` of port `p` noted. -/
def faultNoted (s : State) (p l cause : Nat) : State :=
  wr (setLane s (8 * p + l) { laneRun s (8 * p + l) with leaving := true, ucws := [], ser := 0 }) (Reg.PORT.LANE_STATUS.LAST_FAULT p l) cause

theorem laneFault_ignored (hn : ¬ faultCounts s p l) : laneFault s p l cause = s := by
  refine if_pos (or_iff_not_imp_left.2 fun hs => ?_)
  by_contra hl
  exact hn ⟨by omega, by simpa using hl⟩

section
variable (hc : faultCounts s p l)
include hc

theorem laneFault_counts :
    let y := faultNoted s p l cause
    let h := laneHalf s p l
    laneFault s p l cause = if laneState s p l = 2 ∧ activeSet y h (goodLanes y h) ≠ [] then wantWidth y h else wantWidth (laneRetrain y p l) h := by
  obtain ⟨hs, hl⟩ := hc
  refine if_neg ?_
  rw [hl]
  simp only [Bool.false_eq_true, or_false]
  omega

theorem laneFault_leaves (h2 : laneState s p l = 2)
    (ha : activeSet (faultNoted s p l cause) (laneHalf s p l) (goodLanes (faultNoted s p l cause) (laneHalf s p l)) ≠ []) :
    laneFault s p l cause = wantWidth (faultNoted s p l cause) (laneHalf s p l) :=
  (laneFault_counts hc).trans (if_pos ⟨h2, ha⟩)

theorem laneFault_retrains (hn : laneState s p l = 3 ∨
      activeSet (faultNoted s p l cause) (laneHalf s p l) (goodLanes (faultNoted s p l cause) (laneHalf s p l)) = []) :
    laneFault s p l cause = wantWidth (laneRetrain (faultNoted s p l cause) p l) (laneHalf s p l) :=
  (laneFault_counts hc).trans (if_neg fun ⟨h2, ha⟩ => hn.elim (by omega) ha)

end
end

/-! ## Detectors and error windows (R335, R336, R339) -/

/-- Counting an uncorrectable codeword leaves the thresholds. -/
theorem rd_cnt_uncorrectable : rd (cnt s (Reg.PORT.LANE_COUNT.UNCORRECTABLE p l)) (Reg.PORT.LINK_CFG.UCW_RETRAIN p) = rd s (Reg.PORT.LINK_CFG.UCW_RETRAIN p) := by
  refine rd_cnt_ne _ _ ?_
  unfold Reg.PORT.LANE_COUNT.UNCORRECTABLE Reg.PORT.LINK_CFG.UCW_RETRAIN
  dsimp only
  omega

/-- The codeword errors of a lane within 1 ms, with one more now. -/
def codewordErrors (s : State) (k : Nat) : List Nat := s.now :: (laneRun s k).ucws.filter (fun t => decide (s.now < t + ms 1))

/-- One more codeword error counted. -/
def codewordCounted (s : State) (p : Fin 128) (l : Fin 8) : State :=
  let k := 8 * p.val + l.val
  setLane (cnt s (Reg.PORT.LANE_COUNT.UNCORRECTABLE p l)) k { laneRun s k with ucws := codewordErrors s k }

theorem exec_laneUcw : exec (.laneUcw p l) s =
    .next (if rd s (Reg.PORT.LINK_CFG.UCW_RETRAIN p) ≤ (codewordErrors s (8 * p.val + l.val)).length then laneFault (codewordCounted s p l) p l 3
      else codewordCounted s p l) :=
  congrArg (fun n => Host.Outcome.next (if n ≤ (codewordErrors s (8 * p.val + l.val)).length then laneFault (codewordCounted s p l) p l 3
    else codewordCounted s p l)) rd_cnt_uncorrectable

theorem exec_laneUcw_fault (hu : rd s (Reg.PORT.LINK_CFG.UCW_RETRAIN p) ≤ (codewordErrors s (8 * p.val + l.val)).length) :
    exec (.laneUcw p l) s = .next (laneFault (codewordCounted s p l) p l 3) :=
  exec_laneUcw.trans (congrArg _ (if_pos hu))

theorem exec_laneUcw_counted (hu : (codewordErrors s (8 * p.val + l.val)).length < rd s (Reg.PORT.LINK_CFG.UCW_RETRAIN p)) :
    exec (.laneUcw p l) s = .next (codewordCounted s p l) :=
  exec_laneUcw.trans (congrArg _ (if_neg (by omega)))

section
variable {corrected received wrong : BitVec 48}

/-- What the checker of lane `l` of port `p` found wrong counted, in TEST with a PATTERN (R339). -/
def patternCounted (s : State) (p : Fin 128) (l : Fin 8) (wrong : BitVec 48) : State :=
  if laneState s p l = 6 ∧ rd s (Reg.PORT.PORT_CFG.PATTERN p) ≠ 0 then cnt s (Reg.PORT.LANE_PRBS.ERRORS p l) wrong.toNat else s

/-- The windows in a row above SER_RETIRE, with the one that ends. -/
def windowsAbove (s : State) (p : Fin 128) (l : Fin 8) (corrected received : BitVec 48) : Nat :=
  if decide (rd s (Reg.PORT.THRESH.SER_RETIRE p) * received.toNat < corrected.toNat * 1000000) = true then (laneRun s (8 * p.val + l.val)).ser + 1 else 0

/-- A window counted. -/
def windowCounted (s : State) (p : Fin 128) (l : Fin 8) (corrected received wrong : BitVec 48) : State :=
  let k := 8 * p.val + l.val
  setLane (cnt (patternCounted s p l wrong) (Reg.PORT.LANE_COUNT.CORRECTED_SYMBOLS p l) corrected.toNat) k
    { laneRun s k with ser := windowsAbove s p l corrected received }

/-- Counting the errors of a lane leaves SER_RETIRE, and the lane's own running state. -/
theorem windowsAbove_counted :
    windowsAbove (cnt (patternCounted s p l wrong) (Reg.PORT.LANE_COUNT.CORRECTED_SYMBOLS p l) corrected.toNat) p l corrected received =
      windowsAbove s p l corrected received := by
  have symbols : (Reg.PORT.LANE_COUNT.CORRECTED_SYMBOLS p l).key ≠ (Reg.PORT.THRESH.SER_RETIRE p).key := by
    unfold Reg.PORT.LANE_COUNT.CORRECTED_SYMBOLS Reg.PORT.THRESH.SER_RETIRE
    dsimp only
    omega
  have pattern : (Reg.PORT.LANE_PRBS.ERRORS p l).key ≠ (Reg.PORT.THRESH.SER_RETIRE p).key := by
    unfold Reg.PORT.LANE_PRBS.ERRORS Reg.PORT.THRESH.SER_RETIRE
    dsimp only
    omega
  unfold windowsAbove patternCounted
  rw [rd_cnt_ne _ _ symbols]
  split
  · rw [rd_cnt_ne _ _ pattern]
    rfl
  · rfl

theorem laneRun_patternCounted {k : Nat} : laneRun (patternCounted s p l wrong) k = laneRun s k := by
  unfold patternCounted
  split <;> rfl

/-- A window ends with `m` in a row above SER_RETIRE: the third retires the lane. -/
def windowEnds (t : State) (p : Fin 128) (l : Fin 8) (x : LaneRun) (m : Nat) : State :=
  let v := setLane t (8 * p.val + l.val) { x with ser := m }
  if 3 ≤ m ∧ laneRetired v p l = false then retireLane v p l 4 else v

theorem exec_laneSerWindow : exec (.laneSerWindow p l corrected received wrong) s =
    .next (windowEnds (cnt (patternCounted s p l wrong) (Reg.PORT.LANE_COUNT.CORRECTED_SYMBOLS p l) corrected.toNat) p l
      (laneRun s (8 * p.val + l.val)) (windowsAbove s p l corrected received)) := by
  rw [← windowsAbove_counted (wrong := wrong), ← laneRun_patternCounted (wrong := wrong)]
  rfl

theorem exec_laneSerWindow_counted
    (hm : windowsAbove s p l corrected received < 3 ∨ laneRetired (windowCounted s p l corrected received wrong) p l = true) :
    exec (.laneSerWindow p l corrected received wrong) s = .next (windowCounted s p l corrected received wrong) :=
  exec_laneSerWindow.trans (congrArg _ (if_neg fun ⟨h3, hr⟩ => hm.elim (by omega) (Bool.eq_false_iff.1 hr)))

theorem exec_laneSerWindow_retires (hm : 3 ≤ windowsAbove s p l corrected received)
    (hr : laneRetired (windowCounted s p l corrected received wrong) p l = false) :
    exec (.laneSerWindow p l corrected received wrong) s = .next (retireLane (windowCounted s p l corrected received wrong) p l 4) :=
  exec_laneSerWindow.trans (congrArg _ (if_pos ⟨hm, hr⟩))

end

/-! ## Retrains (R336, R338) -/

/-- Lane `l` of port `p` retrains, and its 10 ms have not passed. -/
def retrainInTime (s : State) (p : Fin 128) (l : Fin 8) : Prop :=
  laneState s p l = 4 ∧ ∀ t, (laneRun s (8 * p.val + l.val)).retrainAt = some t → s.now < t + ms 10

/-- Lane `l` of port `p` retrains, and its 10 ms have passed. -/
def retrainLate (s : State) (p : Fin 128) (l : Fin 8) : Prop :=
  laneState s p l = 4 ∧ ∃ t, (laneRun s (8 * p.val + l.val)).retrainAt = some t ∧ t + ms 10 ≤ s.now

/-- Whether a time, where there is one, is less than 10 ms ago. -/
theorem within_retrain_iff {o : Option Nat} {now : Nat} :
    (match o with | some t => decide (now < t + ms 10) | none => true) = true ↔ ∀ t, o = some t → now < t + ms 10 := by
  cases o <;> simp

/-- The half of a lane is that of its port's split. -/
theorem laneHalf_of_split {t : State} {p l : Nat} (h : isSplit t p = isSplit s p) : laneHalf t p l = laneHalf s p l := by
  unfold laneHalf
  rw [h]

theorem exec_laneRetrainDone_locks (h : retrainInTime s p l) :
    exec (.laneRetrainDone p l) s = .next (wantWidth (wrs (setLane s (8 * p.val + l.val) { laneRun s (8 * p.val + l.val) with retrainAt := none })
      [(Reg.PORT.LANE_STATUS.STATE p l, 3), (Reg.PORT.LANE_STATUS.LOS p l, 0), (Reg.PORT.LANE_STATUS.LOL p l, 0)]) (laneHalf s p l)) := by
  obtain ⟨h4, ht⟩ := h
  refine congrArg Host.Outcome.next ((if_pos ⟨h4, within_retrain_iff.2 ht⟩).trans (congrArg (wantWidth _) (laneHalf_of_split ?_)))
  refine congrArg (· != 0) (rd_wrs_ne _ _ _ ?_)
  simp only [List.forall_mem_cons, List.not_mem_nil, false_implies, implies_true, and_true, Reg.PORT.LANE_STATUS.STATE, Reg.PORT.LANE_STATUS.LOS,
    Reg.PORT.LANE_STATUS.LOL, Reg.PORT.PORT_CFG.SPLIT]
  omega

theorem exec_laneRetrainDone_ignored (h : ¬ retrainInTime s p l) : exec (.laneRetrainDone p l) s = .next s :=
  congrArg Host.Outcome.next (if_neg fun ⟨h4, ht⟩ => h ⟨h4, within_retrain_iff.1 ht⟩)

theorem exec_laneRetrainFail_retires (h : retrainLate s p l) : exec (.laneRetrainFail p l) s = .next (retireLane s p l 6) := by
  obtain ⟨h4, t, ht, hl⟩ := h
  change execLaneRetrainFail p l s = _
  simp only [execLaneRetrainFail, ht]
  exact congrArg _ (if_pos ⟨h4, hl⟩)

theorem exec_laneRetrainFail_ignored (h : ¬ retrainLate s p l) : exec (.laneRetrainFail p l) s = .next s := by
  change execLaneRetrainFail p l s = _
  cases ht : (laneRun s (8 * p.val + l.val)).retrainAt with
  | none => simp only [execLaneRetrainFail, ht]
  | some t =>
    simp only [execLaneRetrainFail, ht]
    exact congrArg _ (if_neg fun ⟨h4, hl⟩ => h ⟨h4, t, ht, hl⟩)

/-- The retrains of a lane within the window shown. -/
def retrainsShown (s : State) (p : Fin 128) (l : Fin 8) : State := wr s (Reg.PORT.LANE_STATUS.RETRAINS p l) (min 255 (retrainsIn s p l).length)

theorem exec_laneRetrainLimit : exec (.laneRetrainLimit p l) s =
    .next (if rd s (Reg.PORT.THRESH.RETRAIN_LIMIT p) < (retrainsIn s p l).length ∧ laneRetired (retrainsShown s p l) p l = false then
      retireLane (retrainsShown s p l) p l (rd s (Reg.PORT.LANE_STATUS.LAST_FAULT p l)) else retrainsShown s p l) := by
  have limit : (Reg.PORT.LANE_STATUS.RETRAINS p l).key ≠ (Reg.PORT.THRESH.RETRAIN_LIMIT p).key := by
    unfold Reg.PORT.LANE_STATUS.RETRAINS Reg.PORT.THRESH.RETRAIN_LIMIT
    dsimp only
    omega
  have fault : (Reg.PORT.LANE_STATUS.RETRAINS p l).key ≠ (Reg.PORT.LANE_STATUS.LAST_FAULT p l).key := by
    unfold Reg.PORT.LANE_STATUS.RETRAINS Reg.PORT.LANE_STATUS.LAST_FAULT
    dsimp only
    omega
  rw [← rd_wr_ne s (min 255 (retrainsIn s p l).length) limit, ← rd_wr_ne s (min 255 (retrainsIn s p l).length) fault]
  rfl

theorem exec_laneRetrainLimit_retires (hn : rd s (Reg.PORT.THRESH.RETRAIN_LIMIT p) < (retrainsIn s p l).length)
    (hr : laneRetired (retrainsShown s p l) p l = false) :
    exec (.laneRetrainLimit p l) s = .next (retireLane (retrainsShown s p l) p l (rd s (Reg.PORT.LANE_STATUS.LAST_FAULT p l))) :=
  exec_laneRetrainLimit.trans (congrArg _ (if_pos ⟨hn, hr⟩))

theorem exec_laneRetrainLimit_shown (hn : (retrainsIn s p l).length ≤ rd s (Reg.PORT.THRESH.RETRAIN_LIMIT p) ∨ laneRetired (retrainsShown s p l) p l = true) :
    exec (.laneRetrainLimit p l) s = .next (retrainsShown s p l) :=
  exec_laneRetrainLimit.trans (congrArg _ (if_neg fun ⟨hm, hr⟩ => hn.elim (by omega) (Bool.eq_false_iff.1 hr)))

/-! ## RETIRE and REINSTATE (R338) -/

section
variable {w : Writer}

theorem exec_laneRetire_retires (h : laneState s p l = 2 ∨ laneState s p l = 3) : exec (.laneRetire w p l) s = .next (retireLane s p l 7) :=
  congrArg Host.Outcome.next (if_pos h)

theorem exec_laneRetire_refused (h : ¬ (laneState s p l = 2 ∨ laneState s p l = 3)) :
    exec (.laneRetire w p l) s = .next (regError s w (laneAddr p l) 8 true 7) :=
  congrArg Host.Outcome.next (if_neg h)

theorem exec_laneReinstate_returns (h : laneRetired s p l = true) :
    exec (.laneReinstate w p l) s = .next (wr (setLaneState (setLane s (8 * p.val + l.val) { laneRun s (8 * p.val + l.val) with
        retired := false, retrains := [], retrainAt := if linkState s (laneHalf s p l) = 0 then none else some s.now })
      p l (if linkState s (laneHalf s p l) = 0 then 0 else if linkState s (laneHalf s p l) = 4 then 6 else 4)) (Reg.PORT.LANE_STATUS.RETRAINS p l) 0) := by
  change execLaneReinstate w p l s = _
  simp only [execLaneReinstate, laneReinstate, h, if_true, beq_iff_eq]
  rfl

theorem exec_laneReinstate_refused (h : laneRetired s p l = false) :
    exec (.laneReinstate w p l) s = .next (regError s w (laneAddr p l) 8 true 7) :=
  congrArg Host.Outcome.next (if_neg (by simp [h]))

end
end

/-- Settles O38: the lane's STATE, its error windows and retrains against their limits, and the state of its link decide each command. -/
theorem laneFaults : Obligations.LaneFaults := by
  intro s w p l corrected received wrong k x ucws u above m e v again c in4 late works down
  refine ⟨?_, rfl, rfl, exec_laneUcw_fault, exec_laneUcw_counted, ?_, exec_laneSerWindow_retires, exec_laneSerWindow_counted,
    exec_laneRetrainDone_locks, exec_laneRetrainDone_ignored, exec_laneRetrainFail_retires, exec_laneRetrainFail_ignored,
    exec_laneRetrainLimit_retires, exec_laneRetrainLimit_shown, exec_laneRetire_retires, exec_laneRetire_refused, exec_laneReinstate_returns,
    exec_laneReinstate_refused⟩
  · simp only [List.forall_mem_cons, List.not_mem_nil, false_implies, implies_true, and_true]
    exact ⟨rfl, rfl⟩
  · intro t cause h y r z works
    exact ⟨fun hw h2 ha => laneFault_leaves hw h2 ha, fun hw hn => laneFault_retrains hw hn, laneFault_ignored⟩

end Sys2Proof.Machine
end

section
/-!
PROOFS. Eye scans and optical modules (R340, R341): O40.
-/
namespace Sys2Proof.Machine
open Sys2Proof

/-! ## Eye scans (R340) -/

section
variable {s : State} {k : Fin 64} {errors : BitVec 32}

/-- The eye scan of port `e` that runs may end: lane 0 receives signal. -/
def scanReady (s : State) (e : Nat) : Prop := rdb s (Reg.PORT.EYE_CTL.START e) = true ∧ rdb s (Reg.PORT.LANE_STATUS.LOS e 0) = false

theorem exec_eyeScanStart_starts (h : rdb s (Reg.PORT.EYE_CTL.START (2 * k.val)) = false) :
    exec (.eyeScanStart k) s = .next { wrs s [(Reg.PORT.EYE_CTL.START (2 * k.val), 1), (Reg.PORT.EYE_CTL.DONE (2 * k.val), 0)] with
      link := { s.link with eyes := 2 * k.val :: s.link.eyes.filter (fun x => x != 2 * k.val) } } :=
  congrArg Host.Outcome.next (if_neg (Bool.eq_false_iff.1 h))

theorem exec_eyeScanStart_overruns (h : rdb s (Reg.PORT.EYE_CTL.START (2 * k.val)) = true) :
    exec (.eyeScanStart k) s = .next (wr s (Reg.PORT.EYE_CTL.OVERRUN (2 * k.val)) 1) :=
  congrArg Host.Outcome.next (if_pos h)

theorem exec_eyeScanDone_ends (h : scanReady s (2 * k.val)) :
    let e := 2 * k.val
    exec (.eyeScanDone k errors) s = .next { wrs s [(Reg.PORT.EYE_RESULT.ERRORS e, errors.toNat),
      (Reg.PORT.EYE_RESULT.DWELL_USED e, rd s (Reg.PORT.EYE_CTL.DWELL_LOG2 e)), (Reg.PORT.EYE_CTL.START e, 0), (Reg.PORT.EYE_CTL.DONE e, 1)]
      with link := { s.link with eyes := s.link.eyes.filter (fun x => x != e) } } := by
  obtain ⟨hs, hl⟩ := h
  exact congrArg Host.Outcome.next (if_pos (by simp [hs, hl]))

theorem exec_eyeScanDone_ignored (h : ¬ scanReady s (2 * k.val)) : exec (.eyeScanDone k errors) s = .next s := by
  refine congrArg Host.Outcome.next (if_neg (mt (fun hr => ?_) h))
  simpa [scanReady] using hr

end

/-! ## The steps of a module (R341) -/

section
variable {s : State} {h : BitVec 8}

/-- The steps of the module of half `n` begin: an attempt may be made, of an optical link outside TEST whose module is idle. -/
def stepsBegin (s : State) (n : Nat) : Prop :=
  procAway s 1 = false ∧ mayTrain s n = true ∧ rdb s (Reg.PORT.PORT_CFG.MEDIA (n / 2)) = true ∧ testMode s (n / 2) = false ∧ (linkRun s n).cmis = 0

/-- Module step `k` of half `n` in progress, and within its 2 s. -/
def stepInTime (s : State) (n k : Nat) : Prop := (procAway s 1 = false ∧ s.now < (linkRun s n).cmisAt + secs 2) ∧ (linkRun s n).cmis = k

theorem exec_cmisModuleInit_begins (hb : stepsBegin s h.toNat) : exec (.cmisModuleInit h) s = .next (cmisOut (cmisStep s h.toNat 1) h.toNat 0 0) := by
  obtain ⟨ha, hm, ho, ht, hc⟩ := hb
  exact congrArg Host.Outcome.next (if_pos (by simp [cmisAway, ha, hm, ho, ht, hc]))

theorem exec_cmisModuleInit_ignored (hb : ¬ stepsBegin s h.toNat) : exec (.cmisModuleInit h) s = .next s := by
  refine congrArg Host.Outcome.next (if_neg (mt (fun hr => ?_) hb))
  simp only [cmisAway, Bool.and_eq_true, Bool.not_eq_true', beq_iff_eq] at hr
  obtain ⟨⟨⟨⟨hm, ho⟩, ht⟩, hc⟩, ha⟩ := hr
  exact ⟨ha, hm, ho, ht, hc⟩

/-- The condition of the two steps that follow, in the order of the model. -/
theorem stepInTime_iff {n k : Nat} :
    ((linkRun s n).cmis = k ∧ s.now < (linkRun s n).cmisAt + secs 2 ∧ cmisAway s = false) ↔ stepInTime s n k := by
  unfold stepInTime cmisAway
  tauto

section
variable {code : BitVec 3} {app : BitVec 4} {rev : BitVec 8}

theorem exec_cmisModuleReady_in_time (ht : stepInTime s h.toNat 1) : exec (.cmisModuleReady h code app rev) s =
    .next (if rev.toNat < 0x40 ∨ app = 0 then cmisFails s h.toNat
      else wrs (cmisOut (cmisOut (cmisStep s h.toNat 2) h.toNat 1 (if isSplit s (h.toNat / 2) then 4 else 8)) h.toNat 2 0)
        [(Reg.PORT.CMIS_STATUS.PRESENT (h.toNat / 2), 1), (Reg.PORT.CMIS_STATUS.MODULE_STATE (h.toNat / 2), code.toNat),
          (Reg.PORT.CMIS_STATUS.APP_SEL (h.toNat / 2), app.toNat)]) :=
  congrArg Host.Outcome.next (if_pos (stepInTime_iff.2 ht))

theorem exec_cmisModuleReady_ignored (ht : ¬ stepInTime s h.toNat 1) : exec (.cmisModuleReady h code app rev) s = .next s :=
  congrArg Host.Outcome.next (if_neg (mt stepInTime_iff.1 ht))

/-- A module that CMIS 4.0 describes, with the wanted application. -/
theorem not_fits_iff : ¬ (0x40 ≤ rev.toNat ∧ app ≠ 0) ↔ rev.toNat < 0x40 ∨ app = 0 := by
  rw [not_and_or, not_not, not_le]

end

theorem exec_cmisDatapathActivated_in_time (ht : stepInTime s h.toNat 2) : exec (.cmisDatapathActivated h) s = .next (cmisStep s h.toNat 3) :=
  congrArg Host.Outcome.next (if_pos (stepInTime_iff.2 ht))

theorem exec_cmisDatapathActivated_ignored (ht : ¬ stepInTime s h.toNat 2) : exec (.cmisDatapathActivated h) s = .next s :=
  congrArg Host.Outcome.next (if_neg (mt stepInTime_iff.1 ht))

/-- A step of the module of half `n` was not done within 2 s. -/
def stepLate (s : State) (n : Nat) : Prop :=
  procAway s 1 = false ∧ ((linkRun s n).cmis = 1 ∨ (linkRun s n).cmis = 2) ∧ (linkRun s n).cmisAt + secs 2 ≤ s.now

theorem exec_cmisStepTimeout_late (hl : stepLate s h.toNat) : exec (.cmisStepTimeout h) s = .next (cmisFails s h.toNat) := by
  obtain ⟨ha, hc, ht⟩ := hl
  exact congrArg Host.Outcome.next (if_pos ⟨hc, ht, ha⟩)

theorem exec_cmisStepTimeout_early (hl : ¬ stepLate s h.toNat) : exec (.cmisStepTimeout h) s = .next s :=
  congrArg Host.Outcome.next (if_neg fun ⟨hc, ht, ha⟩ => hl ⟨ha, hc, ht⟩)

end

/-! ## Polls (R341) -/

section
variable {s : State} {p : Fin 128} {code : BitVec 3} {ok fault al wa : Bool} {temp : BitVec 16} {los lol : BitVec 8}

/-- A poll of the module of port `p` is due: it is optical, a link of it runs, and the last poll is 100 ms old. -/
def pollDue (s : State) (p : Fin 128) : Prop :=
  procAway s 1 = false ∧ rdb s (Reg.PORT.PORT_CFG.MEDIA p) = true ∧ (∀ t, findKey s.link.polls p.val = some t → t + ms 100 ≤ s.now) ∧
    (1 ≤ linkState s (2 * p.val) ∨ 1 ≤ linkState s (2 * p.val + 1))

/-- Whether a time, where there is one, is 100 ms ago. -/
theorem poll_elapsed_iff {o : Option Nat} {now : Nat} :
    (match o with | some t => decide (t + ms 100 ≤ now) | none => true) = true ↔ ∀ t, o = some t → t + ms 100 ≤ now := by
  cases o <;> simp

/-- The poll noted. -/
def pollNoted (s : State) (p : Nat) : State := { s with link := { s.link with polls := setKey s.link.polls p s.now } }

/-- What the module answered shown. -/
def pollShown (s : State) (p : Fin 128) (code : BitVec 3) (fault al wa : Bool) (temp : BitVec 16) : State :=
  let u := pollNoted s p
  wrs { u with link := { u.link with fails := delKey u.link.fails p.val } }
    [(Reg.PORT.CMIS_STATUS.PRESENT p, 1), (Reg.PORT.CMIS_STATUS.MODULE_STATE p, code.toNat), (Reg.PORT.CMIS_STATUS.FAULT p, b2n fault),
      (Reg.PORT.CMIS_STATUS.ALARM p, b2n al), (Reg.PORT.CMIS_STATUS.WARNING p, b2n wa), (Reg.PORT.CMIS_STATUS.TEMP p, temp.toNat)]

/-- The failures of polls in a row, with one more. -/
def pollFails (s : State) (p : Nat) : Nat := (findKey s.link.fails p).getD 0 + 1

/-- A poll without an answer counted. -/
def pollFailed (s : State) (p : Fin 128) : State :=
  let c := wr (cnt (pollNoted s p) (Reg.PORT.CMIS_STATUS.READ_FAILS p)) (Reg.PORT.CMIS_STATUS.PRESENT p) 0
  { c with link := { c.link with fails := setKey c.link.fails p.val (pollFails s p) } }

theorem exec_cmisPoll_ignored (hd : ¬ pollDue s p) : exec (.cmisPoll p ok code fault al wa temp los lol) s = .next s := by
  refine congrArg Host.Outcome.next (if_neg (mt (fun hr => ?_) hd))
  simp only [cmisAway, Bool.and_eq_true, Bool.not_eq_true', Bool.or_eq_true, decide_eq_true_eq] at hr
  obtain ⟨⟨⟨hm, ht⟩, hr⟩, ha⟩ := hr
  exact ⟨ha, hm, poll_elapsed_iff.1 ht, hr⟩

section
variable (hd : pollDue s p)
include hd

theorem exec_cmisPoll : exec (.cmisPoll p ok code fault al wa temp los lol) s = .next (if ok = true then
      (if fault = true then mediaLost (pollShown s p code fault al wa temp) p
        else mediaFlags (pollShown s p code fault al wa temp) p los.toNat lol.toNat)
    else if 3 ≤ pollFails s p then mediaLost (pollFailed s p) p else pollFailed s p) := by
  obtain ⟨ha, hm, ht, hr⟩ := hd
  refine congrArg Host.Outcome.next (if_pos ?_)
  simp only [cmisAway, Bool.and_eq_true, Bool.not_eq_true', Bool.or_eq_true, decide_eq_true_eq]
  exact ⟨⟨⟨hm, poll_elapsed_iff.2 ht⟩, hr⟩, ha⟩

theorem exec_cmisPoll_answered (ho : ok = true) (hf : fault = false) : exec (.cmisPoll p ok code fault al wa temp los lol) s =
    .next (mediaFlags (pollShown s p code fault al wa temp) p los.toNat lol.toNat) := by
  rw [exec_cmisPoll hd, if_pos ho, if_neg (Bool.eq_false_iff.1 hf)]

theorem exec_cmisPoll_fault (ho : ok = true) (hf : fault = true) : exec (.cmisPoll p ok code fault al wa temp los lol) s =
    .next (mediaLost (pollShown s p code fault al wa temp) p) := by
  rw [exec_cmisPoll hd, if_pos ho, if_pos hf]

theorem exec_cmisPoll_failed (ho : ok = false) (hm : pollFails s p < 3) : exec (.cmisPoll p ok code fault al wa temp los lol) s =
    .next (pollFailed s p) := by
  rw [exec_cmisPoll hd, if_neg (Bool.eq_false_iff.1 ho), if_neg (by omega)]

theorem exec_cmisPoll_lost (ho : ok = false) (hm : 3 ≤ pollFails s p) : exec (.cmisPoll p ok code fault al wa temp los lol) s =
    .next (mediaLost (pollFailed s p) p) := by
  rw [exec_cmisPoll hd, if_neg (Bool.eq_false_iff.1 ho), if_pos hm]

end
end

/-- Settles O40: START and the signal decide the eye scan; the management core, the step in progress, its time and what the module answers the rest. -/
theorem eyeScansAndModules : Obligations.EyeScansAndModules := by
  refine ⟨fun s k errors => ?_, fun s h code app rev => ?_, fun s p code ok fault al wa temp los lol => ?_⟩
  · exact ⟨exec_eyeScanStart_starts, exec_eyeScanStart_overruns, exec_eyeScanDone_ends, exec_eyeScanDone_ignored⟩
  · intro n x near begins begun fits intime late
    have ignored {k : Nat} (hn : ¬ intime ∨ x.cmis ≠ k) : ¬ stepInTime s n k := not_and_or.2 hn
    exact ⟨exec_cmisModuleInit_begins, exec_cmisModuleInit_ignored,
      fun hi h1 hf => (exec_cmisModuleReady_in_time ⟨hi, h1⟩).trans (congrArg _ (if_pos (not_fits_iff.1 hf))),
      fun hi h1 hf => (exec_cmisModuleReady_in_time ⟨hi, h1⟩).trans (congrArg _ (if_neg (mt not_fits_iff.2 (not_not.2 hf)))),
      fun hn => exec_cmisModuleReady_ignored (ignored hn), fun hi h2 => exec_cmisDatapathActivated_in_time ⟨hi, h2⟩,
      fun hn => exec_cmisDatapathActivated_ignored (ignored hn), exec_cmisStepTimeout_late, exec_cmisStepTimeout_early⟩
  · intro due go u a m c v
    exact ⟨exec_cmisPoll_answered, exec_cmisPoll_fault, exec_cmisPoll_failed, exec_cmisPoll_lost, exec_cmisPoll_ignored⟩

end Sys2Proof.Machine
end

section
/-!
PROOFS. Step aborts, die links, error records and telemetry (R349, R355, R361 to R366, R374, R375): O58.
-/
namespace Sys2Proof.Machine
open Sys2Proof

/-! ## Lists of writes -/

theorem wrs_append {s : State} {l k : List (Fld × Nat)} : wrs s (l ++ k) = wrs (wrs s l) k := by
  induction l generalizing s with
  | nil => rfl
  | cons e l ih => exact ih

theorem foldl_wrs {α : Type} {s : State} {f : α → List (Fld × Nat)} {l : List α} : l.foldl (fun s a => wrs s (f a)) s = wrs s (l.flatMap f) := by
  induction l generalizing s with
  | nil => rfl
  | cons a l ih => rw [List.foldl_cons, ih, List.flatMap_cons, wrs_append]

theorem wrs_only_regs {s : State} {l : List (Fld × Nat)} : wrs s l = { s with regs := (wrs s l).regs } := by
  induction l generalizing s with
  | nil => rfl
  | cons e l ih => exact ih (s := wr s e.1 e.2)

/-- A field that a list of writes names, and no other of its place, reads as the value of its entry. -/
theorem rd_wrs_mem {s : State} {l : List (Fld × Nat)} {f : Fld} {v : Nat} (hm : (f, v) ∈ l) (h : ∀ e ∈ l, e.1.key = f.key → e = (f, v)) :
    rd (wrs s l) f = v % 2 ^ f.width := by
  induction l generalizing s with
  | nil => exact absurd hm List.not_mem_nil
  | cons e l ih =>
    by_cases hl : (f, v) ∈ l
    · exact ih hl fun x hx => h x (List.mem_cons_of_mem _ hx)
    · obtain rfl := (List.mem_cons.1 hm).resolve_right hl
      refine (rd_wrs_ne (wr s f v) l f fun x hx hk => hl ?_).trans (rd_wr_same ..)
      exact h x (List.mem_cons_of_mem _ hx) hk ▸ hx

/-! ## Step aborts (R355) -/

section
variable {s : State} {w : Writer} {tenant : BitVec 12} {epoch : BitVec 8}

theorem exec_stepCmd_refused (hw : w.privileged = false) : exec (.stepCmd w tenant epoch) s = .next (regError s w 0x8100 4 true 5) :=
  congrArg Host.Outcome.next (if_pos (by simp [hw]))

section
variable (hw : w.privileged = true)
include hw

theorem exec_stepCmd_overruns (hq : 64 ≤ s.err.steps.length) :
    exec (.stepCmd w tenant epoch) s = .next (wr s Reg.GLOBAL.STEP_STATUS.OVERRUN 1) :=
  congrArg Host.Outcome.next ((if_neg (by simp [hw])).trans (if_pos hq))

theorem exec_stepCmd_queued (hq : s.err.steps.length < 64) :
    exec (.stepCmd w tenant epoch) s = .next (report (stepBroadcast (stepStatus { s with err := { s.err with
      steps := s.err.steps ++ [(tenant.toNat, epoch.toNat, 1, tickNo s)] } }) tenant.toNat epoch.toNat) 467 0x0B 1 0 tenant.toNat epoch.toNat) :=
  congrArg Host.Outcome.next ((if_neg (by simp [hw])).trans (if_neg (by omega)))

end

theorem exec_stepRebroadcast_due {e : Nat × Nat × Nat × Nat} (h : s.err.steps.find? (stepDue s) = some e) :
    exec .stepRebroadcast s = .next (stepBroadcast (stepStatus { s with err := { s.err with
      steps := if e.2.2.1 = 3 then s.err.steps.erase e else s.err.steps.replace e (e.1, e.2.1, e.2.2.1 + 1, e.2.2.2) } }) e.1 e.2.1) := by
  change execStepRebroadcast s = _
  simp only [execStepRebroadcast, h]

theorem exec_stepRebroadcast_early (h : ∀ e ∈ s.err.steps, tickNo s < e.2.2.2 + 16 * e.2.2.1) : exec .stepRebroadcast s = .next s := by
  have none_due : s.err.steps.find? (stepDue s) = none := List.find?_eq_none.2 fun e he => by
    have := h e he
    simpa [stepDue] using this
  change execStepRebroadcast s = _
  simp only [execStepRebroadcast, none_due]

end

/-! ## Die links (R19, R349) -/

section
variable {s : State} {die : Fin 9} {ok : Bool}

theorem exec_d2dError_retrains (h : dieHeld s die = false) :
    exec (.d2dError die) s = .next (d2dRecord { s with sw := { s.sw with d2d := setKey s.sw.d2d die (1, s.now) } } die 1 2 1) :=
  congrArg Host.Outcome.next (if_neg (Bool.eq_false_iff.1 h))

theorem exec_d2dError_held (h : dieHeld s die = true) : exec (.d2dError die) s = .next s := congrArg Host.Outcome.next (if_pos h)

theorem exec_d2dRetrainEnd_none (h : findKey s.sw.d2d die = none) : exec (.d2dRetrainEnd die ok) s = .next s := by
  change execD2dRetrainEnd die ok s = _
  simp only [execD2dRetrainEnd, h]

section
variable {n at_ : Nat} (h : findKey s.sw.d2d die = some (n, at_))
include h

theorem exec_d2dRetrainEnd_locked : exec (.d2dRetrainEnd die true) s =
    .next (if s.now < at_ + ms 1 then { s with sw := { s.sw with d2d := delKey s.sw.d2d die } } else s) := by
  change execD2dRetrainEnd die true s = _
  simp only [execD2dRetrainEnd, h, if_true]

theorem exec_d2dRetrainEnd_unlocked : exec (.d2dRetrainEnd die false) s =
    .next (if s.now < at_ + ms 1 then s
      else if n < 3 then { s with sw := { s.sw with d2d := setKey s.sw.d2d die (n + 1, s.now) } }
      else dieLost (d2dRecord { s with sw := { s.sw with d2d := delKey s.sw.d2d die } } die 2 5 3) die) := by
  change execD2dRetrainEnd die false s = _
  simp only [execD2dRetrainEnd, h, Bool.false_eq_true, if_false]

end
end

/-! ## The log ring (R363, R364) -/

section
variable {s : State} {w : Writer} {head : BitVec 32}

/-- ENABLE of the log ring. -/
def ringOn (s : State) : Bool := rdb s Reg.GLOBAL.ERR_RING_CFG.ENABLE

/-- By how many slots a new HEAD goes on. -/
def headStep (s : State) (head : Nat) : Nat := (head + 2 ^ 32 - rd s Reg.GLOBAL.ERR_RING_HEAD.HEAD) % 2 ^ 32

theorem exec_errRingHeadWrite_taken (h : ¬ ringOn s = true ∨ headStep s head.toNat ≤ ringUsed s) :
    exec (.errRingHeadWrite w head) s = .next (overrunRecord (ringFull (wr s Reg.GLOBAL.ERR_RING_HEAD.HEAD head.toNat))) := by
  refine congrArg Host.Outcome.next (if_neg fun hp => ?_)
  obtain ⟨hon, hs⟩ := Bool.and_eq_true_iff.1 hp
  exact h.elim (· hon) (not_le.2 (of_decide_eq_true hs))

theorem exec_errRingHeadWrite_refused (hon : ringOn s = true) (hs : ringUsed s < headStep s head.toNat) :
    exec (.errRingHeadWrite w head) s = .next (regError s w 0x8010 4 true 7) :=
  congrArg Host.Outcome.next (if_pos (Bool.and_eq_true_iff.2 ⟨hon, decide_eq_true hs⟩))

theorem exec_errRingEnable_enables (hoff : ¬ ringOn s = true) : exec (.errRingEnable true) s = .next (overrunRecord (ringFull
    (wr (wr s Reg.GLOBAL.ERR_RING_CFG.ENABLE 1) Reg.GLOBAL.ERR_RING_TAIL.TAIL (rd s Reg.GLOBAL.ERR_RING_HEAD.HEAD)))) := by
  have off : rdb s Reg.GLOBAL.ERR_RING_CFG.ENABLE = false := Bool.not_eq_true _ ▸ hoff
  exact congrArg Host.Outcome.next (if_pos (by simp [off]))

theorem exec_errRingEnable_on (hon : ringOn s = true) : exec (.errRingEnable true) s = .next s := by
  have hon' : rdb s Reg.GLOBAL.ERR_RING_CFG.ENABLE = true := hon
  exact congrArg Host.Outcome.next ((if_neg (by simp [hon'])).trans (if_pos rfl))

theorem ringLose_none (h : s.err.ringWait = []) : ringLose s = s := if_pos (by simp [h])

theorem ringLose_again (h : s.err.ringWait ≠ []) (hd : rd s Reg.GLOBAL.ERR_RING_STATUS.DROPPED ≠ 0) : ringLose s =
    (let t := wr (cnt s Reg.GLOBAL.ERR_RING_STATUS.DROPPED s.err.ringWait.length) Reg.GLOBAL.ERR_RING_STATUS.OVERRUN_PENDING 1
     { t with err := { t.err with firstDrop := s.err.firstDrop, lastDrop := s.time.toNat, ringWait := [] } }) := by
  unfold ringLose
  rw [if_neg (by simpa using h), if_neg hd]
  rfl

theorem exec_errRingMsiTimer_none (h : s.err.ringTimer = none) : exec .errRingMsiTimer s = .next s := by
  change execErrRingMsiTimer s = _
  simp only [execErrRingMsiTimer, h]

theorem exec_errRingMsiTimer {at_ : Nat} (h : s.err.ringTimer = some at_) : exec .errRingMsiTimer s =
    .next (if at_ + ticks 1 ≤ s.now then
      sendMsix { s with err := { s.err with unsignalled := 0, ringTimer := none } } (mgrPort s) 0 (rd s Reg.GLOBAL.ERR_RING_CFG.VECTOR) else s) := by
  change execErrRingMsiTimer s = _
  simp only [execErrRingMsiTimer, h]

end

/-! ## Coalescing (R362) -/

section
variable {s : State} {k : Nat}

theorem coalesced_waits (h : findKey s.err.pending k = none ∨ findKey s.err.emitted k = some (tickNo s)) : coalesced s k = s := by
  unfold coalesced
  split
  next e he => exact if_pos (h.resolve_left (by simp [he]))
  next => rfl

theorem coalesced_emits {e : PendErr} (h : findKey s.err.pending k = some e) (hn : findKey s.err.emitted k ≠ some (tickNo s)) :
    coalesced s k = emitRecord { s with err := { s.err with pending := delKey s.err.pending k } } k e true := by
  simp only [coalesced, h, if_neg hn]

end

/-! ## The on-chip log and ERR_SRC cleared (R362, R365) -/

section
variable {s : State}

/-- The fields of LOG_STATUS that LOG_CLEAR sets to 0. -/
def logStatusFields : List (Fld × Nat) :=
  [(Reg.GLOBAL.LOG_STATUS.FIRST_FILLED, 0), (Reg.GLOBAL.LOG_STATUS.LAST_NEXT, 0), (Reg.GLOBAL.LOG_STATUS.LAST_WRAPPED, 0),
    (Reg.GLOBAL.LOG_STATUS.TOTAL, 0)]

/-- All that it sets to 0: those, and every word of the log. -/
def logFields : List (Fld × Nat) := logStatusFields ++ (List.range 256).flatMap (fun k => logWrites k 0)

theorem logClear_eq : logClear s = wrs s logFields := by
  unfold logFields
  rw [wrs_append, ← foldl_wrs]
  rfl

theorem mem_logWords_iff {e : Fld × Nat} : e ∈ (List.range 256).flatMap (fun k => logWrites k 0) ↔
    ∃ k j, k < 256 ∧ j < 8 ∧ e = (Reg.GLOBAL.ERR_LOG.WORD k j, 0) := by
  have zero {j : Nat} : bits 0 (64 * j) 64 = 0 := by simp [bits]
  simp only [List.mem_flatMap, List.mem_range, logWrites, List.mem_map, zero]
  constructor
  · rintro ⟨k, hk, j, hj, rfl⟩
    exact ⟨k, j, hk, hj, rfl⟩
  · rintro ⟨k, j, hk, hj, rfl⟩
    exact ⟨k, hk, j, hj, rfl⟩

theorem logStatusFields_apart : ∀ e ∈ logStatusFields, ∀ x ∈ logStatusFields, e.1.key = x.1.key → e = x := by decide

theorem logStatusFields_below : ∀ e ∈ logStatusFields, e.1.key < (Reg.GLOBAL.ERR_LOG.WORD 0 0).key := by decide

theorem logWord_above {k j : Nat} : (Reg.GLOBAL.ERR_LOG.WORD 0 0).key ≤ (Reg.GLOBAL.ERR_LOG.WORD k j).key := by
  unfold Reg.GLOBAL.ERR_LOG.WORD
  dsimp only
  omega

/-- No two fields that LOG_CLEAR sets share a place. -/
theorem logFields_apart {e x : Fld × Nat} (he : e ∈ logFields) (hx : x ∈ logFields) (hk : e.1.key = x.1.key) : e = x := by
  rcases List.mem_append.1 he with he | he <;> rcases List.mem_append.1 hx with hx | hx
  · exact logStatusFields_apart e he x hx hk
  · obtain ⟨k, j, -, -, rfl⟩ := mem_logWords_iff.1 hx
    exact absurd (logStatusFields_below e he) (not_lt.2 (hk ▸ logWord_above))
  · obtain ⟨k, j, -, -, rfl⟩ := mem_logWords_iff.1 he
    exact absurd (logStatusFields_below x hx) (not_lt.2 (hk ▸ logWord_above))
  · obtain ⟨k, j, hk1, hj, rfl⟩ := mem_logWords_iff.1 he
    obtain ⟨m, i, hm, hi, rfl⟩ := mem_logWords_iff.1 hx
    unfold Reg.GLOBAL.ERR_LOG.WORD at hk
    dsimp only at hk
    obtain ⟨rfl, rfl⟩ : k = m ∧ j = i := by omega
    rfl

theorem rd_logClear {f : Fld} (h : (f, 0) ∈ logFields) : rd (logClear s) f = 0 := by
  rw [logClear_eq, rd_wrs_mem h fun e he => logFields_apart he h, Nat.zero_mod]

/-- The fields that CLEAR of ERR_SRC sets to 0. -/
def sourceFields (n : Nat) : List (Fld × Nat) :=
  [(Reg.GLOBAL.ERR_SRC.COUNT n, 0), (Reg.GLOBAL.ERR_SRC.FIRST_TIME n, 0), (Reg.GLOBAL.ERR_SRC.FIRST_CLASS n, 0),
    (Reg.GLOBAL.ERR_SRC.FIRST_CAUSE n, 0), (Reg.GLOBAL.ERR_SRC.LAST_CLASS n, 0), (Reg.GLOBAL.ERR_SRC.LAST_CAUSE n, 0),
    (Reg.GLOBAL.ERR_SRC.LAST_TIME n, 0)]

/-- No two fields of one source share a place, nor has one that of its UPDATE. -/
theorem sourceFields_apart {n : Nat} : ∀ e ∈ sourceFields n, (Reg.GLOBAL.ERR_SRC.UPDATE n).key ≠ e.1.key ∧
    ∀ x ∈ sourceFields n, x.1.key = e.1.key → x = e := by
  simp [sourceFields, Reg.GLOBAL.ERR_SRC.COUNT, Reg.GLOBAL.ERR_SRC.FIRST_TIME, Reg.GLOBAL.ERR_SRC.FIRST_CLASS, Reg.GLOBAL.ERR_SRC.FIRST_CAUSE,
    Reg.GLOBAL.ERR_SRC.LAST_CLASS, Reg.GLOBAL.ERR_SRC.LAST_CAUSE, Reg.GLOBAL.ERR_SRC.LAST_TIME, Reg.GLOBAL.ERR_SRC.UPDATE]

theorem rd_srcClear {n : Nat} {f : Fld} (h : (f, 0) ∈ sourceFields n) : rd (srcClear s n) f = 0 := by
  obtain ⟨update, others⟩ := sourceFields_apart _ h
  exact (rd_cnt_ne _ _ update).trans ((rd_wrs_mem h others).trans (Nat.zero_mod _))

end

/-! ## Telemetry (R366, R374, R375) -/

section
variable {s : State} {key : BitVec 36}

/-- The next map of the congestion telemetry written (R366). -/
def mapWritten (s : State) : State :=
  let k := taskNominal s 0 / 4096
  let seq := (rd s Reg.TELEMETRY.TEL_STATUS.SEQ + 1) % 2 ^ 32
  let u := taskRun (wrs (alarm (bump (writeMap s k seq) (ctrNo 0x30 4))) [(Reg.TELEMETRY.TEL_STATUS.SEQ, seq), (Reg.TELEMETRY.TEL_LAST_TICK.TICK, k)]) 0 4096
  { u with tel := { u.tel with marks := u.tel.marks.filter (fun e => decide (firstMap u k ≤ e.1 + 1)) } }

theorem exec_telemetryMap_due (hr : running s fTel = true) (hd : taskDue s 0 4096 = true) : exec .telemetryMap s = .next (mapWritten s) :=
  congrArg Host.Outcome.next (if_pos (Bool.and_eq_true_iff.2 ⟨hr, hd⟩))

theorem exec_telemetryMap_waits (h : running s fTel = false ∨ taskDue s 0 4096 = false) : exec .telemetryMap s = .next s :=
  congrArg Host.Outcome.next (if_neg (by simpa [← Bool.not_eq_true, or_iff_not_imp_left] using h))

theorem exec_mirrorEntryExpire_none (h : findKey s.tel.mirror key.toNat = none) : exec (.mirrorEntryExpire key) s = .next s := by
  change execMirrorEntryExpire key s = _
  simp only [execMirrorEntryExpire, h]

theorem exec_mirrorEntryExpire {at_ : Nat} (h : findKey s.tel.mirror key.toNat = some at_) : exec (.mirrorEntryExpire key) s =
    .next (if at_ + rd s Reg.TELEMETRY.MIRROR_CFG.MIRROR_TICKS ≤ tickNo s then
      ffFlows { s with tel := { s.tel with mirror := delKey s.tel.mirror key.toNat } } else s) := by
  change execMirrorEntryExpire key s = _
  simp only [execMirrorEntryExpire, h]

theorem exec_telCntSample_asked (h : rdb s Reg.TELEMETRY.TEL_CNT_SEL.REQ = true) : exec .telCntSample s = .next (wrs s
    [(Reg.TELEMETRY.TEL_CNT_VALUE.VALUE, counterValue s (rd s Reg.TELEMETRY.TEL_CNT_SEL.NUMBER)),
     (Reg.TELEMETRY.TEL_CNT_SEL.REQ, 0), (Reg.TELEMETRY.TEL_CNT_SEL.DONE, 1)]) :=
  congrArg Host.Outcome.next (if_pos h)

theorem exec_telCntSample_idle (h : rdb s Reg.TELEMETRY.TEL_CNT_SEL.REQ = false) : exec .telCntSample s = .next s :=
  congrArg Host.Outcome.next (if_neg (Bool.eq_false_iff.1 h))

end

/-- Settles O58: the writer, the queue and the times decide the step aborts; the time and the attempts the die links; ENABLE and the room of the ring its
commands; the last tick the coalesced records; and the tasks, times and requests telemetry. What LOG_CLEAR and CLEAR of ERR_SRC set to 0 reads as 0,
since no two of those fields share a place. -/
theorem stepsErrorsAndTelemetry : Obligations.StepsErrorsAndTelemetry := by
  have next {s t : State} (h : s = t) : (.next s : Host.Outcome State Fault Refusal) = .next t := congrArg _ h
  refine ⟨fun s w tenant epoch => ?_, fun s die => ?_, fun s w head n => ?_, fun s key => ?_⟩
  · exact ⟨exec_stepCmd_refused, exec_stepCmd_overruns, exec_stepCmd_queued, fun e => exec_stepRebroadcast_due, exec_stepRebroadcast_early⟩
  · refine ⟨exec_d2dError_retrains, exec_d2dError_held, fun h ok => exec_d2dRetrainEnd_none h, fun m at_ h => ⟨fun ht => ⟨?_, ?_⟩, fun ht => ⟨?_, ?_, ?_⟩⟩⟩
    · exact (exec_d2dRetrainEnd_locked h).trans (next (if_pos ht))
    · exact (exec_d2dRetrainEnd_unlocked h).trans (next (if_pos ht))
    · exact (exec_d2dRetrainEnd_locked h).trans (next (if_neg (not_lt.2 ht)))
    · exact fun hm => (exec_d2dRetrainEnd_unlocked h).trans (next ((if_neg (not_lt.2 ht)).trans (if_pos hm)))
    · exact fun hm => (exec_d2dRetrainEnd_unlocked h).trans (next ((if_neg (not_lt.2 ht)).trans (if_neg (not_lt.2 hm))))
  · refine ⟨fun gone => rfl, fun k => ⟨coalesced_waits, fun e he hn => coalesced_emits he hn⟩, exec_errRingHeadWrite_taken,
      exec_errRingHeadWrite_refused, exec_errRingEnable_enables, exec_errRingEnable_on, rfl, ringLose_none, ringLose_again,
      fun at_ h => ⟨fun ht => (exec_errRingMsiTimer h).trans (next (if_pos ht)), fun ht => (exec_errRingMsiTimer h).trans (next (if_neg (not_le.2 ht)))⟩,
      exec_errRingMsiTimer_none, ⟨logClear s, rfl, ?_⟩, ⟨srcClear s n.toNat, rfl, ?_⟩⟩
    · have status {f : Fld} (hf : (f, 0) ∈ logStatusFields) : rd (logClear s) f = 0 := rd_logClear (List.mem_append_left _ hf)
      refine ⟨status (by decide), status (by decide), status (by decide), status (by decide), fun k j hk hj => ?_, ?_⟩
      · exact rd_logClear (List.mem_append_right _ (mem_logWords_iff.2 ⟨k, j, hk, hj, rfl⟩))
      · rw [logClear_eq]
        exact wrs_only_regs
    · refine ⟨rd_srcClear ?_, rd_srcClear ?_, rd_srcClear ?_, rd_srcClear ?_, rd_srcClear ?_, rd_srcClear ?_, rd_srcClear ?_⟩
      all_goals simp only [sourceFields, List.mem_cons, true_or, or_true]
  · exact ⟨exec_telemetryMap_due, exec_telemetryMap_waits, exec_mirrorEntryExpire_none,
      fun at_ h => ⟨fun ht => (exec_mirrorEntryExpire h).trans (next (if_pos ht)), fun ht => (exec_mirrorEntryExpire h).trans (next (if_neg (not_le.2 ht)))⟩,
      exec_telCntSample_asked, exec_telCntSample_idle⟩

end Sys2Proof.Machine
end

section
/-!
PROOFS. Power, clamp, sensors, resets and boot (R385, R403 to R417): O59.
-/
namespace Sys2Proof.Machine
open Sys2Proof

section
variable {s : State}

/-! ## The power loop (R405) -/

section
variable {p : BitVec 12}

/-- A loop step runs in state `u`: its nominal start has come, and the power core runs. -/
theorem exec_powerLoopStep : exec (.powerLoopStep p) s =
    let u := stepHolds s p.toNat
    .next (if taskDue u loopTask loopPeriod = true ∧ procState u 2 = 1 then loopStep (taskRun u loopTask loopPeriod) (taskNominal u loopTask) p.toNat
      else u) :=
  congrArg Host.Outcome.next (ite_congr (by simp only [Bool.and_eq_true, beq_iff_eq]) (fun _ => rfl) fun _ => rfl)

theorem exec_powerLoopStep_runs (hd : taskDue (stepHolds s p.toNat) loopTask loopPeriod = true) (hr : procState (stepHolds s p.toNat) 2 = 1) :
    exec (.powerLoopStep p) s =
      .next (loopStep (taskRun (stepHolds s p.toNat) loopTask loopPeriod) (taskNominal (stepHolds s p.toNat) loopTask) p.toNat) :=
  exec_powerLoopStep.trans (congrArg _ (if_pos ⟨hd, hr⟩))

theorem exec_powerLoopStep_holds (h : taskDue (stepHolds s p.toNat) loopTask loopPeriod = false ∨ procState (stepHolds s p.toNat) 2 ≠ 1) :
    exec (.powerLoopStep p) s = .next (stepHolds s p.toNat) :=
  exec_powerLoopStep.trans (congrArg _ (if_neg fun ⟨hd, hr⟩ => h.elim (Bool.eq_false_iff.1 · hd) (· hr)))

end

/-! ## The clamp (R408) -/

theorem rd_showLevel {f : Fld} (hf : Reg.POWER.POWER_STATUS.LEVEL.key ≠ f.key) : rd (showLevel s) f = rd s f := rd_wr_ne _ _ hf

theorem showLevel_rose : (showLevel s).pw.rose = s.pw.rose := rfl

theorem clampOn_again (h : rdb s Reg.POWER.POWER_STATUS.CLAMPED = true) : clampOn s = { s with pw := { s.pw with rose := none } } := if_pos h

/-- The clamp comes into force: CLAMPED, `CLAMP_ACK` and one more event, before the record and LEVEL. -/
def clampFalls (s : State) : State :=
  cnt (wr { s with pw := { s.pw with rose := none, ack := true } } Reg.POWER.POWER_STATUS.CLAMPED 1) Reg.POWER.POWER_COUNT.CLAMP_EVENTS

theorem clampOn_first (h : rdb s Reg.POWER.POWER_STATUS.CLAMPED = false) : clampOn s =
    showLevel (report (clampFalls s) 468 0x0F 4 0 (rd (clampFalls s) Reg.POWER.POWER_STATUS.CLAMP_LEVEL) (rd (clampFalls s) Reg.POWER.POWER_STATUS.POWER_W)) :=
  if_neg (Bool.eq_false_iff.1 h)

theorem ofPortsToPower_clamped : ofPortsToPower Reg.POWER.POWER_STATUS.CLAMPED := by
  unfold ofPortsToPower Reg.POWER.POWER_STATUS.CLAMPED
  decide

theorem rd_clampOn : rd (clampOn s) Reg.POWER.POWER_STATUS.CLAMPED = 1 := by
  cases h : rdb s Reg.POWER.POWER_STATUS.CLAMPED
  case true =>
    have hlt : rd s Reg.POWER.POWER_STATUS.CLAMPED < 2 := rd_lt s _
    have hne : rd s Reg.POWER.POWER_STATUS.CLAMPED ≠ 0 := by simpa [rdb] using h
    rw [clampOn_again h]
    change rd s Reg.POWER.POWER_STATUS.CLAMPED = 1
    omega
  case false =>
    rw [clampOn_first h, rd_showLevel (by decide), rd_report (by decide) ofPortsToPower_clamped, clampFalls, rd_cnt_ne _ _ (by decide), rd_wr_same]
    rfl

theorem clampOn_rose : (clampOn s).pw.rose = none := by
  cases h : rdb s Reg.POWER.POWER_STATUS.CLAMPED
  case true => rw [clampOn_again h]
  case false =>
    rw [clampOn_first h, showLevel_rose, report_pw (by decide)]
    rfl

theorem exec_clampAssert_reset (h : s.fw.phase = 0) : exec .clampAssert s = .next { s with pw := { s.pw with clampLow := true } } :=
  congrArg Host.Outcome.next (if_pos h)

theorem exec_clampAssert_clamps (h : s.fw.phase ≠ 0) : exec .clampAssert s = .next (clampOn { s with pw := { s.pw with clampLow := true } }) :=
  congrArg Host.Outcome.next (if_neg h)

theorem exec_clampRelease_clamped (h : rdb s Reg.POWER.POWER_STATUS.CLAMPED = true) :
    let hi := { s with pw := { s.pw with clampLow := false } }
    exec .clampRelease s = .next { hi with pw := { hi.pw with rose := some s.time.toNat } } :=
  congrArg Host.Outcome.next (if_pos h)

theorem exec_clampRelease_free (h : rdb s Reg.POWER.POWER_STATUS.CLAMPED = false) :
    exec .clampRelease s = .next { s with pw := { s.pw with clampLow := false } } :=
  congrArg Host.Outcome.next (if_neg (Bool.eq_false_iff.1 h))

/-! ## The junction sensors (R407) -/

section
variable {l : List (Option Int)}

/-- The readings of the 64 sensors. -/
def readings (l : List (Option Int)) : List (Option Int) := (List.range 64).map (fun i => l.getD i none)

/-- The state with the sample of this tick taken. -/
def sampled (s : State) (l : List (Option Int)) : State :=
  (readings l).zipIdx.foldl sampleOne { s with pw := { s.pw with sampled := some (tickNo s) } }

theorem exec_junctionSample_again (h : s.pw.sampled = some (tickNo s)) : exec (.junctionSample l) s = .next s :=
  congrArg Host.Outcome.next (if_pos (by simp [h]))

theorem exec_junctionSample (h : s.pw.sampled ≠ some (tickNo s)) : exec (.junctionSample l) s =
    .next (match hottest (sampled s l) (readings l) with
      | some (i, t) => if 944 ≤ t then thermTrip (sampleMax (sampleLevel (sampled s l) (hottest (sampled s l) (readings l))) i t) i t
          else sampleMax (sampleLevel (sampled s l) (hottest (sampled s l) (readings l))) i t
      | none => sampleLevel (sampled s l) (hottest (sampled s l) (readings l))) :=
  congrArg Host.Outcome.next (if_neg (by simp [h]))

/-- What the hottest reading of a sample adds: none where no sensor counts, and the thermal trip at 118 °C. -/
theorem exec_junctionSample_none (h : s.pw.sampled ≠ some (tickNo s)) (hh : hottest (sampled s l) (readings l) = none) :
    exec (.junctionSample l) s = .next (sampleLevel (sampled s l) (hottest (sampled s l) (readings l))) := by
  rw [exec_junctionSample h, hh]

section
variable {i : Nat} {t : Int} (h : s.pw.sampled ≠ some (tickNo s)) (hh : hottest (sampled s l) (readings l) = some (i, t))
include h hh

theorem exec_junctionSample_max (ht : t < 944) :
    exec (.junctionSample l) s = .next (sampleMax (sampleLevel (sampled s l) (hottest (sampled s l) (readings l))) i t) := by
  rw [exec_junctionSample h, hh]
  exact congrArg _ (if_neg (not_le.2 ht))

theorem exec_junctionSample_trip (ht : 944 ≤ t) :
    exec (.junctionSample l) s = .next (thermTrip (sampleMax (sampleLevel (sampled s l) (hottest (sampled s l) (readings l))) i t) i t) := by
  rw [exec_junctionSample h, hh]
  exact congrArg _ (if_pos ht)

end
end

/-! ## Rails and crossings (R409, R414, R415, R428) -/

section
variable {rail : Fin 9} {amps mv : BitVec 16} {pin : Fin 16} {high : Bool}

theorem exec_peakCurrent_above (h : railPeak rail < amps.toNat) : exec (.peakCurrent rail amps) s =
    .next (showLevel (powerRecord { s with pw := { s.pw with peak := some s.time.toNat } } 6 2 rail amps.toNat)) :=
  congrArg Host.Outcome.next (if_pos h)

theorem exec_peakCurrent_within (h : amps.toNat ≤ railPeak rail) : exec (.peakCurrent rail amps) s = .next s :=
  congrArg Host.Outcome.next (if_neg (not_lt.2 h))

theorem exec_railWindow_leaves (h : mv.toNat < (railWindow rail).1 ∨ (railWindow rail).2 < mv.toNat) (hn : s.pw.rails.contains rail.val = false) :
    exec (.railWindow rail mv) s = .next (showLevel (powerRecord { s with pw := { s.pw with rails := rail.val :: s.pw.rails } } 7 2 rail mv.toNat)) :=
  congrArg Host.Outcome.next (if_pos ⟨h, by rw [hn]; rfl⟩)

theorem exec_railWindow_ignored
    (h : ((railWindow rail).1 ≤ mv.toNat ∧ mv.toNat ≤ (railWindow rail).2) ∨ s.pw.rails.contains rail.val = true) :
    exec (.railWindow rail mv) s = .next s := by
  refine congrArg Host.Outcome.next (if_neg fun ⟨hw, hn⟩ => ?_)
  rcases h with ⟨hlo, hhi⟩ | hc
  · omega
  · rw [hc] at hn
    exact Bool.false_ne_true hn

/-- A pin's level is no crossing's loss. -/
theorem exec_gpioInputEdge_lost : exec (.gpioInputEdge pin high true) s = .next (wr (wr s (Reg.MGMT.GPIO_CTL.IN pin) (b2n high))
    Reg.POWER.CDC_OVERRUN.OVERRUN (rd s Reg.POWER.CDC_OVERRUN.OVERRUN ||| 32)) := by
  have apart : (Reg.MGMT.GPIO_CTL.IN pin).key ≠ Reg.POWER.CDC_OVERRUN.OVERRUN.key := by
    unfold Reg.MGMT.GPIO_CTL.IN Reg.POWER.CDC_OVERRUN.OVERRUN
    dsimp only
    omega
  rw [← rd_wr_ne s (b2n high) apart]
  rfl

end

theorem exec_cdcResync_reset (h : s.fw.phase = 0) : exec .cdcResync s = .next s := congrArg Host.Outcome.next (if_pos h)

theorem exec_cdcResync_resumes (h : s.fw.phase ≠ 0) : exec .cdcResync s = .next { s with pw := { s.pw with
    cdc := s.pw.cdc.filter (fun d => (d == 8 || d == 9) && rdb s (Reg.HOSTPORT.LINK_STATUS.PERST (d - 8))) } } :=
  congrArg Host.Outcome.next (if_neg h)

/-! ## The resets (R416, R417) -/

/-- LAST_RESET is `c`, and the part is in reset. -/
def inReset (c : Nat) (t : State) : Prop := rd t Reg.POWER.RESET_STATUS.LAST_RESET = c ∧ t.fw.phase = 0

section
variable {c : Nat}

theorem inReset.wr {f : Fld} {v : Nat} (h : inReset c s) (hf : f.key ≠ Reg.POWER.RESET_STATUS.LAST_RESET.key) : inReset c (wr s f v) :=
  ⟨(rd_wr_ne _ _ hf).trans h.1, h.2⟩

theorem inReset.dirShow (h : inReset c s) : inReset c (dirShow s) := ((h.wr (by decide)).wr (by decide)).wr (by decide)

/-- No field of the third register of a stack's map shares the place of LAST_RESET. -/
theorem inReset.hbmStatus {m : Nat} (h : inReset c s) {lo w r v : Nat} (hlo : lo < 64) :
    inReset c (Machine.wr s ⟨8 * (0x1000018 + m * 0x10000) + lo, w, r, false⟩ v) := by
  refine h.wr ?_
  unfold Reg.POWER.RESET_STATUS.LAST_RESET
  dsimp only
  omega

theorem inReset.clStatus {n : Nat} (h : inReset c s) : inReset c (clStatus s n) := by
  refine (h.wr ?_).wr ?_ <;>
    · simp only [Reg.CLUSTER.CL_STATUS.SPARES_LEFT, Reg.CLUSTER.CL_STATUS.ACTIVE_CELLS, Reg.POWER.RESET_STATUS.LAST_RESET]
      omega

theorem inReset_warmReset (hc : c < 8) : inReset c (warmReset s c) := by
  have cause {t : State} (h : t.fw.phase = 0) : inReset c (cnt (Machine.wr t Reg.POWER.RESET_STATUS.LAST_RESET c) Reg.POWER.RESET_STATUS.WARM_COUNT) :=
    ⟨(rd_cnt_ne _ _ (by decide)).trans ((rd_wr_same ..).trans (Nat.mod_eq_of_lt hc)), h⟩
  refine List.foldlRecOn _ _ (inReset.dirShow (List.foldlRecOn _ _ (List.foldlRecOn _ _ (cause ?_) ?_) ?_)) ?_
  · rw [wrs_fw]
    rfl
  · exact fun t ht m _ => ht.hbmStatus (by decide)
  · exact fun t ht m _ => ht.hbmStatus (by decide)
  · exact fun t ht n _ => ht.clStatus

end

theorem exec_resetNAssert_resets (h : s.fw.phase ≠ 0) : exec .resetNAssert s = .next (warmReset s 1) := congrArg Host.Outcome.next (if_neg h)

section
variable {w : Writer} {src : BitVec 2} {mgr : Bool}

section
variable (h : s.fw.phase = 0)
include h

theorem exec_resetNRelease_reset : exec (.resetNRelease src mgr) s =
    .next (bootBegin (if s.fw.cold = true then wrb (wr s Reg.SECURITY.BOOT_STATUS.BOOT_SRC src.toNat) Reg.HOSTPORT.MGR_CTL.MGR_PORT mgr
      else wr s Reg.SECURITY.BOOT_STATUS.BOOT_SRC src.toNat)) :=
  congrArg Host.Outcome.next (if_neg (not_not.2 h))

theorem exec_resetNRelease_warm (hc : s.fw.cold = false) :
    exec (.resetNRelease src mgr) s = .next (bootBegin (wr s Reg.SECURITY.BOOT_STATUS.BOOT_SRC src.toNat)) := by
  rw [exec_resetNRelease_reset h, if_neg (Bool.eq_false_iff.1 hc)]

theorem exec_resetNRelease_cold (hc : s.fw.cold = true) : exec (.resetNRelease src mgr) s =
    .next (bootBegin (wrb (wr s Reg.SECURITY.BOOT_STATUS.BOOT_SRC src.toNat) Reg.HOSTPORT.MGR_CTL.MGR_PORT mgr)) := by
  rw [exec_resetNRelease_reset h, if_pos hc]

end

theorem exec_resetWarmCmd_refused (hw : w.privileged = false) : exec (.resetCmdWarm w) s = .next (regError s w 0x1200048 4 true 5) :=
  congrArg Host.Outcome.next (if_pos (by simp [hw]))

section
variable (hw : w.privileged = true)
include hw

theorem exec_resetWarmCmd_resets (h : s.fw.phase ≠ 0) : exec (.resetCmdWarm w) s = .next (bootBegin (warmReset s 2)) :=
  congrArg Host.Outcome.next ((if_neg (by simp [hw])).trans (if_neg h))

theorem exec_resetWarmCmd_ignored (h : s.fw.phase = 0) : exec (.resetCmdWarm w) s = .next s :=
  congrArg Host.Outcome.next ((if_neg (by simp [hw])).trans (if_pos h))

end
end

/-! ## The stages of the boot (R385) -/

section
variable {ok : Bool} {detail : BitVec 32}

/-- What the end of stage `k` does. -/
def bootStep (s : State) (ok : Bool) (detail : Nat) : Nat → State
  | 1 => bootIdentity s ok detail
  | 2 => bootDirectory s ok detail
  | 3 => bootVerify s ok detail
  | 4 => bootHbm s ok
  | 5 => bootCopy s ok detail
  | 6 => bootRelease s
  | _ => bootApply s

theorem exec_bootStageComplete_other (h : s.fw.phase ≠ 1) : exec (.bootStageComplete ok detail) s = .next s := congrArg Host.Outcome.next (if_pos h)

theorem exec_bootStageComplete (h : s.fw.phase = 1) {k : Nat} (hk : bootStage s = k) :
    exec (.bootStageComplete ok detail) s = .next (bootStep s ok detail.toNat k) :=
  hk ▸ congrArg Host.Outcome.next (if_neg (not_not.2 h))

end

/-! ## The rack cap (R410) -/

section
variable {watts : BitVec 16}

theorem exec_setRackCap_away (h : mgmtUp s = false) : exec (.setRackCap watts) s = .next s := congrArg Host.Outcome.next (if_pos (by simp [h]))

section
variable (h : mgmtUp s = true)
include h

theorem exec_setRackCap_within (hlo : 500 ≤ watts.toNat) (hhi : watts.toNat ≤ 3000) :
    exec (.setRackCap watts) s = .next (pldmReply (wr s Reg.POWER.RACK_CAP.RACK_CAP_W watts.toNat) 0x31 0) :=
  congrArg Host.Outcome.next ((if_neg (by simp [h])).trans (if_pos ⟨hlo, hhi⟩))

theorem exec_setRackCap_outside (hn : watts.toNat < 500 ∨ 3000 < watts.toNat) : exec (.setRackCap watts) s = .next (pldmReply s 0x31 0x02) :=
  congrArg Host.Outcome.next ((if_neg (by simp [h])).trans (if_neg (by omega)))

end
end
end

/-- Settles O59: the phase, the stage, the sensors, the rails and the writers decide the commands; CLAMPED and the rise of the clamp stand through its
record and LEVEL, and LAST_RESET through what a warm reset brings up to date after it. -/
theorem powerAndReset : Obligations.PowerAndReset := by
  refine ⟨fun s p => ?_, fun s => ?_, fun s l => ?_, fun s rail amps mv => ?_, fun s pin high => ?_, fun s w src mgr => ?_,
    fun s ok detail => exec_bootStageComplete_other, fun s ok detail h => ?_, fun s watts => exec_setRackCap_away, fun s watts h => ?_⟩
  · exact ⟨exec_powerLoopStep_runs, exec_powerLoopStep_holds⟩
  · exact ⟨exec_clampAssert_reset, fun h => ⟨_, exec_clampAssert_clamps h, rfl, rd_clampOn, clampOn_rose⟩, exec_clampRelease_clamped,
      exec_clampRelease_free⟩
  · exact ⟨exec_junctionSample_again, exec_junctionSample_none,
      fun i t h hh => ⟨exec_junctionSample_max h hh, exec_junctionSample_trip h hh⟩⟩
  · exact ⟨exec_peakCurrent_above, exec_peakCurrent_within, exec_railWindow_leaves, exec_railWindow_ignored, rfl⟩
  · exact ⟨⟨rfl, exec_gpioInputEdge_lost⟩, exec_cdcResync_reset, exec_cdcResync_resumes⟩
  · obtain ⟨last, phase⟩ : inReset 1 (warmReset s 1) := inReset_warmReset (by decide)
    exact ⟨rfl, fun h => congrArg Host.Outcome.next (if_pos h), fun h => ⟨_, exec_resetNAssert_resets h, rfl, last, phase⟩,
      fun h => congrArg Host.Outcome.next (if_pos h),
      exec_resetNRelease_warm, exec_resetNRelease_cold,
      exec_resetWarmCmd_refused, exec_resetWarmCmd_resets, exec_resetWarmCmd_ignored⟩
  · exact ⟨exec_bootStageComplete h, exec_bootStageComplete h, exec_bootStageComplete h, exec_bootStageComplete h, exec_bootStageComplete h,
      exec_bootStageComplete h, exec_bootStageComplete h⟩
  · exact ⟨fun hlo hhi => ⟨_, exec_setRackCap_within h hlo hhi,
      (rd_wr_same s Reg.POWER.RACK_CAP.RACK_CAP_W watts.toNat).trans (Nat.mod_eq_of_lt (hhi.trans_lt (by decide))), rfl⟩, exec_setRackCap_outside h⟩

end Sys2Proof.Machine
end

section
/-!
PROOFS. Firmware processors, molts, updates, attestation and link keys (R377, R388 to R398): O60.
-/
namespace Sys2Proof.Machine
open Sys2Proof

section
variable {s : State}

/-! ## Processors (R377) -/

section
variable {i : Fin 52} {addr : BitVec 64}

theorem procFails_of_not_running {i cause detB : Nat} (h : procState s i ≠ 1) : procFails s i cause detB = s := if_pos h

theorem exec_procFault_fault : exec (.procFault i false addr) s = .next (procFails s i.val 3 addr.toNat) := congrArg Host.Outcome.next (if_neg (by simp))

theorem exec_procFault_violation : exec (.procFault i true addr) s = .next (procFails s i.val 5 addr.toNat) := congrArg Host.Outcome.next (if_neg (by simp))

section
variable {a : ProcAccess}

theorem exec_procFault_passed (h : procMay s i a = true) : exec (.procFault i true addr (some a)) s = .next s :=
  congrArg Host.Outcome.next (if_pos (by simp [h]))

theorem exec_procFault_blocked (h : procMay s i a = false) : exec (.procFault i true addr (some a)) s = .next (procFails s i.val 5 addr.toNat) :=
  congrArg Host.Outcome.next (if_neg (by simp [h]))

end

theorem exec_procFault_not_running {v : Bool} {a : Option ProcAccess} (h : procState s i ≠ 1) : exec (.procFault i v addr a) s = .next s :=
  congrArg Host.Outcome.next ((ite_congr rfl (fun _ => rfl) fun _ => procFails_of_not_running h).trans (ite_self s))

theorem exec_procWatchdog_expires (h : watchdogDue s i = true) : exec (.procWatchdog i) s = .next (procFails s i.val 4 0) :=
  congrArg Host.Outcome.next (if_pos h)

theorem exec_procWatchdog_early (h : watchdogDue s i = false) : exec (.procWatchdog i) s = .next s :=
  congrArg Host.Outcome.next (if_neg (Bool.eq_false_iff.1 h))

theorem exec_procWatchdog_not_running (h : procState s i ≠ 1) : exec (.procWatchdog i) s = .next s :=
  congrArg Host.Outcome.next ((ite_congr rfl (fun _ => procFails_of_not_running h) fun _ => rfl).trans (ite_self s))

/-! ### Restarts -/

theorem procState_procRuns {i : Nat} : procState (procRuns s i) i = 1 := rd_wr_same ..

theorem procAgain_of_ne {i : Nat} (h : i ≠ 0) : procAgain s i = procRuns s i := if_neg h

theorem exec_procRestartDone_other (h : procState s i ≠ 2) : exec (.procRestartDone i) s = .next s := congrArg Host.Outcome.next (if_pos h)

section
variable (h : procState s i = 2)
include h

theorem exec_procRestartDone_runs (hc : codeOk s i = true) : exec (.procRestartDone i) s = .next (procAgain s i) :=
  congrArg Host.Outcome.next ((if_neg (not_not.2 h)).trans (if_pos hc))

section
variable (hc : codeOk s i = false)
include hc

/-- The copy of the running image loaded from flash again. -/
def reloaded (s : State) : State := copyImage s (runningBank s) s.fw.area

theorem exec_procRestartDone_wrong : exec (.procRestartDone i) s = .next
    (if codeOk (if s.fw.comps.isEmpty then s else reloaded s) i = true then procAgain (if s.fw.comps.isEmpty then s else reloaded s) i
      else if s.fw.comps.isEmpty then s else reloaded s) :=
  congrArg Host.Outcome.next ((if_neg (not_not.2 h)).trans (if_neg (Bool.eq_false_iff.1 hc)))

theorem exec_procRestartDone_no_copy (hn : s.fw.comps = []) : exec (.procRestartDone i) s = .next s := by
  rw [exec_procRestartDone_wrong h hc, hn]
  exact congrArg Host.Outcome.next (if_neg (Bool.eq_false_iff.1 hc))

theorem exec_procRestartDone_reloads (hn : s.fw.comps ≠ []) : exec (.procRestartDone i) s =
    .next (if codeOk (reloaded s) i = true then procAgain (reloaded s) i else reloaded s) := by
  rw [exec_procRestartDone_wrong h hc, if_neg (mt List.isEmpty_iff.1 hn)]

end
end
end

/-! ## Molts (R394, R395) -/

section
variable {w : Writer}

theorem exec_molt_refused (h : w.privileged = false) : exec (.molt w) s = .next (regError s w 0x1400020 4 true 5) :=
  congrArg Host.Outcome.next (if_neg (Bool.eq_false_iff.1 h))

theorem exec_molt_starts (h : w.privileged = true) : exec (.molt w) s = .next (moltStart s) := congrArg Host.Outcome.next (if_pos h)

end

theorem exec_moltStepDone_idle {ok : Bool} (h : molting s = false) : exec (.moltStepDone ok) s = .next s :=
  congrArg Host.Outcome.next (if_pos (by simp [h]))

/-- STEP of a molt. -/
def moltStep (s : State) : Nat := rd s Reg.SECURITY.MOLT_STATUS.STEP

/-- Step 1 of a molt ends with what is wrong with the new image, if anything. -/
def moltVerifies (s : State) : Option Nat → State
  | some t => moltReverts (imageRejected s (otherBank s) t)
  | none => moltNext (copyImage s (otherBank s) (1 - s.fw.area)) 2

/-- What the end of step `k` in time does. -/
def moltStepEnds (s : State) : Nat → State
  | 1 => moltVerifies s (imageFault s (otherBank s))
  | 2 => moltNext s 3
  | 3 => if [0, 3, 4, 5].contains (rd s Reg.TICK.JIG_COMMIT_STATUS.STATUS) && moltKerf s then moltNext s 4 else s
  | 4 => moltNext s 5
  | 5 => moltNext s 6
  | 6 => moltNext (leafReserve s) 7
  | _ => moltDone s

section
variable {k c : Nat}

theorem moltLate_of_step (hk : moltStep s = k) (h2 : k ≠ 2) (h5 : k ≠ 5) : moltLate s c = false := by
  unfold moltLate
  split
  next h => exact absurd (hk.symm.trans h) h2
  next h => exact absurd (hk.symm.trans h) h5
  next => rfl

end

section
variable (h : molting s = true)
include h

theorem exec_moltStepDone_failed : exec (.moltStepDone false) s = .next (moltReverts s) :=
  congrArg Host.Outcome.next ((if_neg (by simp [h])).trans (if_pos rfl))

theorem exec_moltStepDone_late (hl : moltLate s (48 - s.fw.moltCores) = true) : exec (.moltStepDone true) s = .next (moltReverts s) :=
  congrArg Host.Outcome.next ((if_neg (by simp [h])).trans ((if_neg (by simp)).trans ((if_neg (by simp)).trans (if_pos hl))))

theorem exec_moltStepDone_in_time {k : Nat} (hk : moltStep s = k) (hl : moltLate s (48 - s.fw.moltCores) = false) :
    exec (.moltStepDone true) s = .next (moltStepEnds s k) :=
  hk ▸ congrArg Host.Outcome.next
    ((if_neg (by simp [h])).trans ((if_neg (by simp)).trans ((if_neg (by simp)).trans (if_neg (Bool.eq_false_iff.1 hl)))))

/-- A step without a limit ends when it is done. -/
theorem exec_moltStepDone_unlimited {k : Nat} (hk : moltStep s = k) (h2 : k ≠ 2) (h5 : k ≠ 5) : exec (.moltStepDone true) s = .next (moltStepEnds s k) :=
  exec_moltStepDone_in_time h hk (moltLate_of_step hk h2 h5)

theorem exec_moltStepDone_core {c : Fin 48} : exec (.moltStepDone true (some c)) s = .next (moltCore s c.val) :=
  congrArg Host.Outcome.next ((if_neg (by simp [h])).trans ((if_neg (by simp)).trans (if_pos rfl)))

end

theorem moltStepEnds_one : moltStepEnds s 1 = moltVerifies s (imageFault s (otherBank s)) := rfl

theorem moltVerifies_none : moltVerifies s none = moltNext (copyImage s (otherBank s) (1 - s.fw.area)) 2 := rfl

theorem moltVerifies_some {c : Nat} : moltVerifies s (some c) = moltReverts (imageRejected s (otherBank s) c) := rfl

theorem moltStepEnds_verified (h : imageFault s (otherBank s) = none) :
    moltStepEnds s 1 = moltNext (copyImage s (otherBank s) (1 - s.fw.area)) 2 :=
  moltStepEnds_one.trans ((congrArg (moltVerifies s) h).trans moltVerifies_none)

theorem moltStepEnds_rejected {c : Nat} (h : imageFault s (otherBank s) = some c) :
    moltStepEnds s 1 = moltReverts (imageRejected s (otherBank s) c) :=
  moltStepEnds_one.trans ((congrArg (moltVerifies s) h).trans moltVerifies_some)

/-- Step 3 may end: no jig commit is in progress, and a kerf has begun. -/
theorem mayEndStep3_iff : ([0, 3, 4, 5].contains (rd s Reg.TICK.JIG_COMMIT_STATUS.STATUS) && moltKerf s) = true ↔
    rd s Reg.TICK.JIG_COMMIT_STATUS.STATUS ∈ [0, 3, 4, 5] ∧ moltKerf s = true := by
  rw [Bool.and_eq_true, List.contains_iff_mem]

theorem moltStepEnds_kerf (hs : rd s Reg.TICK.JIG_COMMIT_STATUS.STATUS ∈ [0, 3, 4, 5]) (hk : moltKerf s = true) : moltStepEnds s 3 = moltNext s 4 :=
  if_pos (mayEndStep3_iff.2 ⟨hs, hk⟩)

theorem moltStepEnds_no_kerf (h : rd s Reg.TICK.JIG_COMMIT_STATUS.STATUS ∉ [0, 3, 4, 5] ∨ moltKerf s = false) : moltStepEnds s 3 = s :=
  if_neg (mt mayEndStep3_iff.1 fun ⟨hs, hk⟩ => h.elim (· hs) (Bool.eq_false_iff.1 · hk))

/-! ### Step 2: the cluster control cores -/

section
variable {c : Nat}

theorem moltCore_other (h : moltStep s ≠ 2 ∨ c ≠ s.fw.moltCores) : moltCore s c = s := if_pos h

section
variable (h2 : moltStep s = 2) (hc : c = s.fw.moltCores)
include h2 hc

theorem moltCore_turn : moltCore s c = if moltLate s 1 = true then moltReverts s else if c = 47 then moltNext s 3
    else { s with fw := { s.fw with moltAt := (s.now, s.time.toNat), moltCores := c + 1 } } :=
  if_neg (not_or.2 ⟨not_not.2 h2, not_not.2 hc⟩)

theorem moltCore_late (hl : moltLate s 1 = true) : moltCore s c = moltReverts s := (moltCore_turn h2 hc).trans (if_pos hl)

theorem moltCore_moves (hl : moltLate s 1 = false) (h47 : c < 47) :
    moltCore s c = { s with fw := { s.fw with moltAt := (s.now, s.time.toNat), moltCores := c + 1 } } :=
  (moltCore_turn h2 hc).trans ((if_neg (Bool.eq_false_iff.1 hl)).trans (if_neg (by omega)))

theorem moltCore_last (hl : moltLate s 1 = false) (h47 : c = 47) : moltCore s c = moltNext s 3 :=
  (moltCore_turn h2 hc).trans ((if_neg (Bool.eq_false_iff.1 hl)).trans (if_pos h47))

end
end

/-! ## Leaf blocks (R389) -/

theorem exec_leafBlockReserve_due (h : procState s 0 = 1) (hd : s.fw.leafDue = true) : exec .leafBlockReserve s = .next (leafReserve s) :=
  congrArg Host.Outcome.next (if_pos (by simp [h, hd]))

theorem exec_leafBlockReserve_idle (h : procState s 0 ≠ 1 ∨ s.fw.leafDue = false) : exec .leafBlockReserve s = .next s := by
  refine congrArg Host.Outcome.next (if_neg fun hp => ?_)
  obtain ⟨hr, hd⟩ := Bool.and_eq_true_iff.1 hp
  exact h.elim (· (beq_iff_eq.1 hr)) (Bool.eq_false_iff.1 · hd)

/-! ## Updates (R393, R395) -/

/-- UPDATE_STATE. -/
def updateState (s : State) : Nat := rd s Reg.MGMT.MGMT_STATUS.UPDATE_STATE

section
variable {comp : BitVec 16} {off : BitVec 32} {data : List Byte} {c : Nat}

theorem not_mgmtDown (h : mgmtUp s = true) : ¬(!mgmtUp s) = true := by simp [h]

theorem mgmtDown (h : mgmtUp s = false) : (!mgmtUp s) = true := by simp [h]

/-! ### Requests -/

theorem exec_requestUpdate_down (h : mgmtUp s = false) : exec (.requestUpdate comp) s = .next s := congrArg Host.Outcome.next (if_pos (mgmtDown h))

section
variable (h : mgmtUp s = true)
include h

theorem exec_requestUpdate_molting (hm : molting s = true) : exec (.requestUpdate comp) s = .next (pldmReply s 0x10 0x8A) :=
  congrArg Host.Outcome.next ((if_neg (not_mgmtDown h)).trans (if_pos hm))

section
variable (hm : molting s = false)
include hm

theorem exec_requestUpdate_busy (hu : s.fw.update.isSome = true) : exec (.requestUpdate comp) s = .next (pldmReply s 0x10 0x81) :=
  congrArg Host.Outcome.next ((if_neg (not_mgmtDown h)).trans ((if_neg (Bool.eq_false_iff.1 hm)).trans (if_pos hu)))

section
variable (hu : s.fw.update = none)
include hu

/-- An idle responder looks at the component. -/
theorem exec_requestUpdate_idle : exec (.requestUpdate comp) s = .next (
    if comp.toNat = 1 then
      pldmReply (setUpdate { setBankState s (otherBank s) 1 with fw := { (setBankState s (otherBank s) 1).fw with update := some 1 } } 1) 0x10 0
    else if comp.toNat = 2 then pldmReply (setUpdate { s with fw := { s.fw with update := some 2 } } 1) 0x10 0
    else pldmReply s 0x10 0x02) :=
  congrArg Host.Outcome.next ((if_neg (not_mgmtDown h)).trans ((if_neg (Bool.eq_false_iff.1 hm)).trans (if_neg (by simp [hu]))))

theorem exec_requestUpdate_image : exec (.requestUpdate 1) s = .next
    (pldmReply (setUpdate { setBankState s (otherBank s) 1 with fw := { (setBankState s (otherBank s) 1).fw with update := some 1 } } 1) 0x10 0) :=
  (exec_requestUpdate_idle h hm hu).trans (congrArg Host.Outcome.next (if_pos rfl))

theorem exec_requestUpdate_config : exec (.requestUpdate 2) s = .next (pldmReply (setUpdate { s with fw := { s.fw with update := some 2 } } 1) 0x10 0) :=
  (exec_requestUpdate_idle h hm hu).trans (congrArg Host.Outcome.next ((if_neg (by decide)).trans (if_pos rfl)))

theorem exec_requestUpdate_other (h1 : comp ≠ 1) (h2 : comp ≠ 2) : exec (.requestUpdate comp) s = .next (pldmReply s 0x10 0x02) :=
  (exec_requestUpdate_idle h hm hu).trans (congrArg Host.Outcome.next
    ((if_neg fun e => h1 (BitVec.eq_of_toNat_eq e)).trans (if_neg fun e => h2 (BitVec.eq_of_toNat_eq e))))

end
end
end

/-! ### Transfers -/

/-- The responder takes `data` for component `c` at `off`. -/
def takesData (s : State) (c : Nat) (off : BitVec 32) (data : List Byte) : Bool :=
  mgmtUp s && (updateState s == 1 || updateState s == 2) && decide (data.length ≤ 4096) && decide (off.toNat + data.length ≤ (updateTarget s c).2)

theorem takesData_iff : takesData s c off data = true ↔
    mgmtUp s = true ∧ (updateState s = 1 ∨ updateState s = 2) ∧ data.length ≤ 4096 ∧ off.toNat + data.length ≤ (updateTarget s c).2 := by
  simp [takesData, and_assoc]

theorem exec_firmwareDataTransfer_none (h : s.fw.update = none) : exec (.firmwareDataTransfer off data) s = .next s := by
  change execFirmwareDataTransfer off data s = _
  simp only [execFirmwareDataTransfer, h]

section
variable (h : s.fw.update = some c)
include h

theorem exec_firmwareDataTransfer_some : exec (.firmwareDataTransfer off data) s = .next (if takesData s c off data = true then
    flashWr (if updateState s = 1 then setUpdate s 2 else s) ((updateTarget s c).1 + off.toNat) data else s) := by
  change execFirmwareDataTransfer off data s = _
  simp only [execFirmwareDataTransfer, h]
  rfl

theorem exec_firmwareDataTransfer_takes (ht : takesData s c off data = true) : exec (.firmwareDataTransfer off data) s =
    .next (flashWr (if updateState s = 1 then setUpdate s 2 else s) ((updateTarget s c).1 + off.toNat) data) :=
  (exec_firmwareDataTransfer_some h).trans (congrArg Host.Outcome.next (if_pos ht))

theorem exec_firmwareDataTransfer_too_long (hl : 4096 < data.length ∨ (updateTarget s c).2 < off.toNat + data.length) :
    exec (.firmwareDataTransfer off data) s = .next s := by
  refine (exec_firmwareDataTransfer_some h).trans (congrArg Host.Outcome.next (if_neg fun ht => ?_))
  obtain ⟨-, -, hd, ho⟩ := takesData_iff.1 ht
  omega

end

/-- No update that takes data or a verification is in progress. -/
def noUpdateOpen (s : State) : Prop := s.fw.update = none ∨ (updateState s ≠ 1 ∧ updateState s ≠ 2)

theorem exec_firmwareDataTransfer_same (h : mgmtUp s = false ∨ noUpdateOpen s) : exec (.firmwareDataTransfer off data) s = .next s := by
  cases hu : s.fw.update with
  | none => exact exec_firmwareDataTransfer_none hu
  | some c =>
    refine (exec_firmwareDataTransfer_some hu).trans (congrArg Host.Outcome.next (if_neg fun ht => ?_))
    obtain ⟨hm, hs, -⟩ := takesData_iff.1 ht
    rcases h with h | h | ⟨h1, h2⟩
    · exact Bool.eq_false_iff.1 h hm
    · exact absurd (hu.symm.trans h) nofun
    · exact hs.elim h1 h2

/-! ### Verification -/

/-- A verification may not be made now. -/
def verifyBarred (s : State) : Bool := !mgmtUp s || procState s 0 != 1 || !(updateState s == 1 || updateState s == 2)

theorem verifyBarred_iff : verifyBarred s = true ↔ mgmtUp s = false ∨ procState s 0 ≠ 1 ∨ (updateState s ≠ 1 ∧ updateState s ≠ 2) := by
  simp [verifyBarred, or_assoc]

theorem not_verifyBarred (hm : mgmtUp s = true) (hp : procState s 0 = 1) (hs : updateState s = 1 ∨ updateState s = 2) : ¬verifyBarred s = true := by
  rw [verifyBarred_iff]
  rintro (h | h | ⟨h1, h2⟩)
  · exact Bool.eq_false_iff.1 h hm
  · exact h hp
  · exact hs.elim h1 h2

/-- A verification of component `c` ends with what is wrong, if anything. -/
def verifyEnds (s : State) (c : Nat) (fault : Option Nat) : State :=
  let b := otherBank s
  let ok := fault.isNone
  let s := match fault with | some t => if c = 1 then imageRejected s b t else s | none => s
  let s := if ok && c == 1 then setBankState s b 2 else s
  let s := fwRecord s 9 0 1 (packBits [(0, 1, b2n ok), (8, 8, c)])
  let s := pldmReply s 0x17 (if ok then 0 else 1)
  if ok then setUpdate s 5 else cancelUpdate s

theorem exec_verifyComplete_none (h : s.fw.update = none) : exec .verifyComplete s = .next s := by
  change execVerifyComplete s = _
  simp only [execVerifyComplete, h]

theorem exec_verifyComplete_some (h : s.fw.update = some c) : exec .verifyComplete s = .next (if verifyBarred s = true then s else
    verifyEnds s c (if c = 1 then imageFault s (otherBank s) else if configOk s (spareConfig s) = true then none else some 0)) := by
  change execVerifyComplete s = _
  simp only [execVerifyComplete, h]
  rfl

theorem exec_verifyComplete_same (h : mgmtUp s = false ∨ procState s 0 ≠ 1 ∨ noUpdateOpen s) : exec .verifyComplete s = .next s := by
  cases hu : s.fw.update with
  | none => exact exec_verifyComplete_none hu
  | some c =>
    refine (exec_verifyComplete_some hu).trans (congrArg Host.Outcome.next (if_pos (verifyBarred_iff.2 ?_)))
    exact h.imp_right (·.imp_right fun hn => hn.resolve_left fun e => absurd (hu.symm.trans e) nofun)

theorem exec_verifyComplete_config (h : s.fw.update = some 2) (hb : ¬verifyBarred s = true) : exec .verifyComplete s =
    .next (verifyEnds s 2 (if configOk s (spareConfig s) = true then none else some 0)) :=
  (exec_verifyComplete_some h).trans (congrArg Host.Outcome.next (if_neg hb))

theorem exec_verifyComplete_image (h : s.fw.update = some 1) (hb : ¬verifyBarred s = true) : exec .verifyComplete s =
    .next (verifyEnds s 1 (imageFault s (otherBank s))) :=
  (exec_verifyComplete_some h).trans (congrArg Host.Outcome.next (if_neg hb))

theorem verifyEnds_config_right : verifyEnds s 2 none = setUpdate (pldmReply (fwRecord s 9 0 1 (packBits [(0, 1, 1), (8, 8, 2)])) 0x17 0) 5 := by
  simp [verifyEnds, b2n]

theorem verifyEnds_config_wrong {t : Nat} :
    verifyEnds s 2 (some t) = cancelUpdate (pldmReply (fwRecord s 9 0 1 (packBits [(0, 1, 0), (8, 8, 2)])) 0x17 1) := by
  simp [verifyEnds, b2n]

theorem verifyEnds_image_right : verifyEnds s 1 none =
    setUpdate (pldmReply (fwRecord (setBankState s (otherBank s) 2) 9 0 1 (packBits [(0, 1, 1), (8, 8, 1)])) 0x17 0) 5 := by
  simp [verifyEnds, b2n]

theorem verifyEnds_image_wrong {t : Nat} : verifyEnds s 1 (some t) =
    cancelUpdate (pldmReply (fwRecord (imageRejected s (otherBank s) t) 9 0 1 (packBits [(0, 1, 0), (8, 8, 1)])) 0x17 1) := by
  simp [verifyEnds, b2n]

section
variable (h : s.fw.update = some 2) (hb : ¬verifyBarred s = true)
include h hb

theorem exec_verifyComplete_config_right (hc : configOk s (spareConfig s) = true) : exec .verifyComplete s =
    .next (setUpdate (pldmReply (fwRecord s 9 0 1 (packBits [(0, 1, 1), (8, 8, 2)])) 0x17 0) 5) := by
  rw [exec_verifyComplete_config h hb, if_pos hc, verifyEnds_config_right]

theorem exec_verifyComplete_config_wrong (hc : configOk s (spareConfig s) = false) : exec .verifyComplete s =
    .next (cancelUpdate (pldmReply (fwRecord s 9 0 1 (packBits [(0, 1, 0), (8, 8, 2)])) 0x17 1)) := by
  rw [exec_verifyComplete_config h hb, if_neg (Bool.eq_false_iff.1 hc), verifyEnds_config_wrong]

end

section
variable (h : s.fw.update = some 1) (hb : ¬verifyBarred s = true)
include h hb

theorem exec_verifyComplete_image_right (hf : imageFault s (otherBank s) = none) : exec .verifyComplete s =
    .next (setUpdate (pldmReply (fwRecord (setBankState s (otherBank s) 2) 9 0 1 (packBits [(0, 1, 1), (8, 8, 1)])) 0x17 0) 5) := by
  rw [exec_verifyComplete_image h hb, hf, verifyEnds_image_right]

theorem exec_verifyComplete_image_wrong {t : Nat} (hf : imageFault s (otherBank s) = some t) : exec .verifyComplete s =
    .next (cancelUpdate (pldmReply (fwRecord (imageRejected s (otherBank s) t) 9 0 1 (packBits [(0, 1, 0), (8, 8, 1)])) 0x17 1)) := by
  rw [exec_verifyComplete_image h hb, hf, verifyEnds_image_wrong]

end

/-! ### Activation -/

section
variable {b : Bool}

/-- An update that is activated has ended. -/
def activated (s : State) : State := cancelUpdate (pldmReply (setUpdate s 6) 0x1A 0)

theorem exec_activateFirmware_down (h : mgmtUp s = false) : exec (.activateFirmware b) s = .next s := congrArg Host.Outcome.next (if_pos (mgmtDown h))

section
variable (h : mgmtUp s = true)
include h

theorem exec_activateFirmware_verified (hu : s.fw.update = some c) (hs : updateState s = 5) : exec (.activateFirmware b) s = .next
    (if c ≠ 1 then activated s else if b = true then moltStart (activated s)
      else dirPut (activated s) (otherBank (activated s)) (bankState (activated s) 0) (bankState (activated s) 1)) := by
  refine congrArg Host.Outcome.next ((if_neg (not_mgmtDown h)).trans ?_)
  rw [hu, show rd s Reg.MGMT.MGMT_STATUS.UPDATE_STATE = 5 from hs]
  rfl

theorem exec_activateFirmware_molts (hu : s.fw.update = some 1) (hs : updateState s = 5) : exec (.activateFirmware true) s =
    .next (moltStart (activated s)) :=
  (exec_activateFirmware_verified h hu hs).trans (congrArg Host.Outcome.next ((if_neg (not_not.2 rfl)).trans (if_pos rfl)))

theorem exec_activateFirmware_prefers (hu : s.fw.update = some 1) (hs : updateState s = 5) : exec (.activateFirmware false) s =
    .next (dirPut (activated s) (otherBank (activated s)) (bankState (activated s) 0) (bankState (activated s) 1)) :=
  (exec_activateFirmware_verified h hu hs).trans (congrArg Host.Outcome.next ((if_neg (not_not.2 rfl)).trans (if_neg Bool.false_ne_true)))

theorem exec_activateFirmware_config (hu : s.fw.update = some 2) (hs : updateState s = 5) : exec (.activateFirmware b) s = .next (activated s) :=
  (exec_activateFirmware_verified h hu hs).trans (congrArg Host.Outcome.next (if_pos (by decide)))

theorem exec_activateFirmware_unverified (hs : s.fw.update = none ∨ updateState s ≠ 5) : exec (.activateFirmware b) s = .next (pldmReply s 0x1A 0x80) := by
  refine congrArg Host.Outcome.next ((if_neg (not_mgmtDown h)).trans ?_)
  split
  next hu h5 => exact hs.elim (fun e => absurd (hu.symm.trans e) nofun) fun e => absurd h5 e
  next => rfl

end
end
end

/-! ## Events and the endpoint (R396, R397) -/

theorem exec_platformEventMessage_none (h : s.fw.events = []) : exec .platformEventMessage s = .next s := by
  change execPlatformEventMessage s = _
  simp only [execPlatformEventMessage, h]

section
variable {n : Nat} {rest : List Nat}

theorem exec_platformEventMessage_sent (hm : mgmtUp s = true) (h : s.fw.events = n :: rest) : exec .platformEventMessage s =
    .next (eventsQueued (emitOut { s with fw := { s.fw with events := rest } } (.mgmt protoPldm 0x0A [0xF0] (leBytes 64 n)))) := by
  change execPlatformEventMessage s = _
  simp only [execPlatformEventMessage, h, hm, if_true]

end

theorem exec_platformEventMessage_down (hm : mgmtUp s = false) : exec .platformEventMessage s = .next s := by
  cases h : s.fw.events with
  | nil => exact exec_platformEventMessage_none h
  | cons n rest =>
    change execPlatformEventMessage s = _
    simp [execPlatformEventMessage, h, hm]

section
variable {eid : BitVec 8} {b : MctpBinding}

theorem bindingUp_iff : bindingUp s b = true ↔ b ≠ .pcieVdm ∨ running s (fHost (mgrPort s)) = true := by
  cases b <;> simp [bindingUp]

theorem exec_mctpEidAssign_reached (hm : mgmtUp s = true) (hb : b ≠ .pcieVdm ∨ running s (fHost (mgrPort s)) = true) :
    exec (.mctpEidAssign eid b) s = .next (wr s Reg.MGMT.MGMT_STATUS.EID eid.toNat) :=
  congrArg Host.Outcome.next (if_pos (by rw [hm, bindingUp_iff.2 hb, Bool.and_self]))

theorem exec_mctpEidAssign_unreached (h : mgmtUp s = false ∨ bindingUp s b = false) : exec (.mctpEidAssign eid b) s = .next s :=
  congrArg Host.Outcome.next (if_neg (by rw [Bool.and_eq_true, not_and_or]; simpa using h))

end

/-! ## Attestation (R390, R391) -/

section
variable {v : SpdmWay} {slot : BitVec 4} {off len : BitVec 16} {index : BitVec 8} {signed : Bool} {nonce secret : List Byte}

section
variable (h : wayUp s v = false)
include h

theorem wayDown : (!wayUp s v) = true := by simp [h]

theorem exec_negotiateAlgorithms_down {ext : Bool} : exec (.negotiateAlgorithms v ext) s = .next s := congrArg Host.Outcome.next (if_pos (wayDown h))

theorem exec_getCertificate_down : exec (.getCertificate v slot off len) s = .next s := congrArg Host.Outcome.next (if_pos (wayDown h))

theorem exec_challenge_down : exec (.challenge v slot nonce) s = .next s := congrArg Host.Outcome.next (if_pos (wayDown h))

theorem exec_getMeasurements_down : exec (.getMeasurements v index signed nonce) s = .next s := congrArg Host.Outcome.next (if_pos (wayDown h))

theorem exec_keyExchange_down : exec (.keyExchange v slot nonce secret) s = .next s := congrArg Host.Outcome.next (if_pos (wayDown h))

end

section
variable (h : wayUp s v = true)
include h

theorem not_wayDown : ¬(!wayUp s v) = true := by simp [h]

/-! ### Negotiation -/

/-- The state in which the algorithms of `v` are negotiated. -/
def withNegotiated (s : State) (v : SpdmWay) : State :=
  { s with fw := { s.fw with negotiated := if negotiated s v then s.fw.negotiated else wayNo v :: s.fw.negotiated } }

omit h in
theorem negotiated_withNegotiated : negotiated (withNegotiated s v) v = true := by
  change (if negotiated s v then s.fw.negotiated else wayNo v :: s.fw.negotiated).contains (wayNo v) = true
  split
  next hn => exact hn
  next => simp

theorem exec_negotiateAlgorithms_offers : exec (.negotiateAlgorithms v true) s = .next (spdmReply (withNegotiated s v) v 0x63 spdmOffer []) :=
  congrArg Host.Outcome.next ((if_neg (not_wayDown h)).trans (if_neg (by simp)))

theorem exec_negotiateAlgorithms_plain : exec (.negotiateAlgorithms v false) s = .next (spdmError s v 0x01) :=
  congrArg Host.Outcome.next ((if_neg (not_wayDown h)).trans (if_pos rfl))

/-! ### Before it -/

section
variable (hn : negotiated s v = false)
include hn

omit h in
theorem not_negotiated : (!negotiated s v) = true := by simp [hn]

theorem exec_getCertificate_early : exec (.getCertificate v slot off len) s = .next (spdmError s v 0x04) :=
  congrArg Host.Outcome.next ((if_neg (not_wayDown h)).trans (if_pos (not_negotiated hn)))

theorem exec_challenge_early : exec (.challenge v slot nonce) s = .next (spdmError s v 0x04) :=
  congrArg Host.Outcome.next ((if_neg (not_wayDown h)).trans (if_pos (not_negotiated hn)))

theorem exec_getMeasurements_early : exec (.getMeasurements v index signed nonce) s = .next (spdmError s v 0x04) :=
  congrArg Host.Outcome.next ((if_neg (not_wayDown h)).trans (if_pos (not_negotiated hn)))

theorem exec_keyExchange_early : exec (.keyExchange v slot nonce secret) s = .next (spdmError s v 0x04) :=
  congrArg Host.Outcome.next ((if_neg (not_wayDown h)).trans (if_pos (not_negotiated hn)))

end

/-! ### After it -/

section
variable (hn : negotiated s v = true)
include hn

omit h in
theorem not_unnegotiated : ¬(!negotiated s v) = true := by simp [hn]

section
variable (hs : slot ≠ 0)
include hs

theorem exec_getCertificate_slot : exec (.getCertificate v slot off len) s = .next (spdmError s v 0x01) :=
  congrArg Host.Outcome.next ((if_neg (not_wayDown h)).trans ((if_neg (not_unnegotiated hn)).trans (if_pos hs)))

theorem exec_challenge_slot : exec (.challenge v slot nonce) s = .next (spdmError s v 0x01) :=
  congrArg Host.Outcome.next ((if_neg (not_wayDown h)).trans ((if_neg (not_unnegotiated hn)).trans (if_pos hs)))

theorem exec_keyExchange_slot : exec (.keyExchange v slot nonce secret) s = .next (spdmError s v 0x01) :=
  congrArg Host.Outcome.next ((if_neg (not_wayDown h)).trans ((if_neg (not_unnegotiated hn)).trans (if_pos hs)))

end

theorem exec_getCertificate_chain : exec (.getCertificate v 0 off len) s =
    .next (spdmReply s v 0x02 [0] ((identityChain s).drop off.toNat |>.take len.toNat)) :=
  congrArg Host.Outcome.next ((if_neg (not_wayDown h)).trans ((if_neg (not_unnegotiated hn)).trans (if_neg (not_not.2 rfl))))

theorem exec_challenge_signed : exec (.challenge v 0 nonce) s = .next (signedReply s v 0x03 [0] (measurements s 0xFF) nonce) :=
  congrArg Host.Outcome.next ((if_neg (not_wayDown h)).trans ((if_neg (not_unnegotiated hn)).trans (if_neg (not_not.2 rfl))))

section
variable (hi : ¬(13 ≤ index.toNat ∧ index.toNat ≠ 0xFF))
include hi

theorem exec_getMeasurements_signed : exec (.getMeasurements v index true nonce) s =
    .next (signedReply s v 0x60 [index.toNat, 12] (measurements s index.toNat) nonce) :=
  congrArg Host.Outcome.next ((if_neg (not_wayDown h)).trans ((if_neg (not_unnegotiated hn)).trans ((if_neg hi).trans (if_pos rfl))))

theorem exec_getMeasurements_unsigned : exec (.getMeasurements v index false nonce) s =
    .next (spdmReply s v 0x60 [index.toNat, 12] (measurements s index.toNat)) :=
  congrArg Host.Outcome.next ((if_neg (not_wayDown h)).trans ((if_neg (not_unnegotiated hn)).trans ((if_neg hi).trans (if_neg (by simp)))))

end

theorem exec_getMeasurements_index (hi : 13 ≤ index.toNat ∧ index.toNat ≠ 0xFF) : exec (.getMeasurements v index signed nonce) s =
    .next (spdmError s v 0x01) :=
  congrArg Host.Outcome.next ((if_neg (not_wayDown h)).trans ((if_neg (not_unnegotiated hn)).trans (if_pos hi)))

theorem exec_keyExchange_session {sig : List Byte} {t : State} (hk : signIdentity s nonce = some (sig, t)) : exec (.keyExchange v 0 nonce secret) s =
    .next (trace (spdmReply (setSession t v secret) v 0x64 [] sig) 0 6 0x0700 (wayNo v) 0) := by
  refine congrArg Host.Outcome.next ((if_neg (not_wayDown h)).trans ((if_neg (not_unnegotiated hn)).trans ((if_neg (not_not.2 rfl)).trans ?_)))
  rw [hk]

theorem exec_keyExchange_unsigned (hk : signIdentity s nonce = none) : exec (.keyExchange v 0 nonce secret) s =
    .next (spdmError (leafReady s) v 0x05) := by
  refine congrArg Host.Outcome.next ((if_neg (not_wayDown h)).trans ((if_neg (not_unnegotiated hn)).trans ((if_neg (not_not.2 rfl)).trans ?_)))
  rw [hk]

end
end

/-- An index that names a measurement, their number or all of them. -/
theorem measurementIndex (h : index.toNat < 13 ∨ index = 0xFF) : ¬(13 ≤ index.toNat ∧ index.toNat ≠ 0xFF) := by
  rintro ⟨hlo, hne⟩
  rcases h with h | rfl
  · omega
  · exact hne rfl

theorem noMeasurementIndex (hlo : 13 ≤ index.toNat) (hne : index ≠ 0xFF) : 13 ≤ index.toNat ∧ index.toNat ≠ 0xFF :=
  ⟨hlo, fun e => hne (BitVec.eq_of_toNat_eq e)⟩

/-! ## Link keys (R398) -/

section
variable {gen : BitVec 32} {key : BitVec 256} {code : Nat} {f : State}

/-- The ways on which link key requests act. -/
def keysMine (s : State) : SpdmWay → Prop
  | .mctp => True
  | .doe p g => p.val = mgrPort s ∧ g = 0

theorem keyRequest_none (h : wayUp s v = false ∨ sessionOf s v = none) : keyRequest s v code f = s := if_pos (by simpa using h)

section
variable (h : wayUp s v = true) (hs : (sessionOf s v).isSome = true)
include h hs

theorem not_keysUnheard : ¬(!wayUp s v || (sessionOf s v).isNone) = true := by
  rw [Bool.or_eq_true, Option.isNone_iff_eq_none]
  rintro (h' | h')
  · exact not_wayDown h h'
  · exact absurd hs (by simp [h'])

theorem keyRequest_mine (hm : keysMine s v) : keyRequest s v code f = f := by
  refine (if_neg (not_keysUnheard h hs)).trans ?_
  cases v with
  | mctp => rfl
  | doe p g => exact if_pos hm

theorem keyRequest_other (hm : ¬keysMine s v) : keyRequest s v code f = vendorReply s v code 3 [] := by
  refine (if_neg (not_keysUnheard h hs)).trans ?_
  cases v with
  | mctp => exact absurd trivial hm
  | doe p g => exact if_neg hm

end

/-! ### The generations shown -/

/-- The state that holds generations `new` and `old`. -/
def withKeys (s : State) (new old : Option (Nat × List Byte)) : State := { s with fw := { s.fw with rlkNew := new, rlkOld := old } }

theorem sealKeys_rlkNew : (sealKeys s).fw.rlkNew = s.fw.rlkNew := rfl
theorem sealKeys_rlkOld : (sealKeys s).fw.rlkOld = s.fw.rlkOld := rfl

/-- The sealed key store holds the generations where it is open. -/
def keysSealed (s : State) : State := if rdb s Reg.SECURITY.IDENTITY_STATUS.SEALED_OK then sealKeys s else s

theorem keysSealed_rlkNew : (keysSealed s).fw.rlkNew = s.fw.rlkNew := by
  unfold keysSealed
  split
  · exact sealKeys_rlkNew
  · rfl

theorem keysSealed_rlkOld : (keysSealed s).fw.rlkOld = s.fw.rlkOld := by
  unfold keysSealed
  split
  · exact sealKeys_rlkOld
  · rfl

theorem keysShow_eq : keysShow s = wr (wr (keysSealed s) Reg.SECURITY.LINK_KEY_GEN.GEN_NEW ((s.fw.rlkNew.map (·.1)).getD 0))
    Reg.SECURITY.LINK_KEY_GEN.GEN_OLD ((s.fw.rlkOld.map (·.1)).getD 0) := by
  rw [← keysSealed_rlkNew, ← keysSealed_rlkOld]
  rfl

theorem keysShow_rlkNew : (keysShow s).fw.rlkNew = s.fw.rlkNew := by rw [keysShow_eq, wr_fw, wr_fw, keysSealed_rlkNew]
theorem keysShow_rlkOld : (keysShow s).fw.rlkOld = s.fw.rlkOld := by rw [keysShow_eq, wr_fw, wr_fw, keysSealed_rlkOld]

theorem rd_keysShow_genNew {k : List Byte} (h : s.fw.rlkNew = some (gen.toNat, k)) :
    rd (keysShow s) Reg.SECURITY.LINK_KEY_GEN.GEN_NEW = gen.toNat := by
  rw [keysShow_eq, rd_wr_ne _ _ (by decide), rd_wr_same, h]
  exact Nat.mod_eq_of_lt gen.isLt

/-! ### The requests -/

theorem exec_linkKeySet_none (h : wayUp s v = false ∨ sessionOf s v = none) : exec (.linkKeySet v gen key) s = .next s :=
  congrArg Host.Outcome.next (keyRequest_none h)

theorem exec_linkKeyDrop_none (h : wayUp s v = false ∨ sessionOf s v = none) : exec (.linkKeyDrop v gen) s = .next s :=
  congrArg Host.Outcome.next (keyRequest_none h)

theorem exec_linkKeyQuery_none (h : wayUp s v = false ∨ sessionOf s v = none) : exec (.linkKeyQuery v) s = .next s :=
  congrArg Host.Outcome.next (keyRequest_none h)

section
variable (h : wayUp s v = true) (hs : (sessionOf s v).isSome = true)
include h hs

section
variable (hm : keysMine s v)
include hm

theorem exec_linkKeySet_set (hg : gen ≠ 0) : exec (.linkKeySet v gen key) s =
    .next (vendorReply (keysShow (withKeys s (some (gen.toNat, leBytes 32 key.toNat)) s.fw.rlkNew)) v 0x10 0 []) :=
  congrArg Host.Outcome.next ((keyRequest_mine h hs hm).trans (if_neg hg))

theorem exec_linkKeySet_zero : exec (.linkKeySet v 0 key) s = .next (vendorReply s v 0x10 2 []) :=
  congrArg Host.Outcome.next ((keyRequest_mine h hs hm).trans (if_pos rfl))

theorem exec_linkKeyDrop_erases : exec (.linkKeyDrop v gen) s =
    .next (vendorReply (keysShow (withKeys s (eraseGen gen.toNat s.fw.rlkNew) (eraseGen gen.toNat s.fw.rlkOld))) v 0x11 0 []) :=
  congrArg Host.Outcome.next (keyRequest_mine h hs hm)

theorem exec_linkKeyQuery_answers : exec (.linkKeyQuery v) s =
    .next (vendorReply s v 0x12 0 [rd s Reg.SECURITY.LINK_KEY_GEN.GEN_NEW, rd s Reg.SECURITY.LINK_KEY_GEN.GEN_OLD]) :=
  congrArg Host.Outcome.next (keyRequest_mine h hs hm)

end

section
variable (hm : ¬keysMine s v)
include hm

theorem exec_linkKeySet_other : exec (.linkKeySet v gen key) s = .next (vendorReply s v 0x10 3 []) :=
  congrArg Host.Outcome.next (keyRequest_other h hs hm)

theorem exec_linkKeyDrop_other : exec (.linkKeyDrop v gen) s = .next (vendorReply s v 0x11 3 []) :=
  congrArg Host.Outcome.next (keyRequest_other h hs hm)

theorem exec_linkKeyQuery_other : exec (.linkKeyQuery v) s = .next (vendorReply s v 0x12 3 []) :=
  congrArg Host.Outcome.next (keyRequest_other h hs hm)

end
end
end
end
end

/-! ## The obligation -/

/-- Settles O60: the state of the processor, of the molt and its step, of the update, and of the way and its session decide each command. -/
theorem firmware : Obligations.Firmware := by
  unfold Obligations.Firmware
  refine ⟨⟨?_, ?_, ?_, ?_⟩, ?_, ?_⟩
  case _ => -- processors
    intro s i addr
    refine ⟨fun _ => ⟨exec_procFault_fault, exec_procFault_violation, fun _ => exec_procFault_passed, fun _ => exec_procFault_blocked,
      exec_procWatchdog_expires⟩, fun h => ⟨fun _ _ => exec_procFault_not_running h, exec_procWatchdog_not_running h⟩, exec_procWatchdog_early,
      exec_procRestartDone_other, fun h => ?_⟩
    refine ⟨fun hc => ⟨_, exec_procRestartDone_runs h hc, rfl, fun hi => ?_⟩, fun hc hn ha => ?_, fun hc hn ha => ?_, exec_procRestartDone_no_copy h⟩
    · rw [procAgain_of_ne hi, procState_procRuns]
    · exact (exec_procRestartDone_reloads h hc hn).trans (congrArg Host.Outcome.next (if_pos ha))
    · exact (exec_procRestartDone_reloads h hc hn).trans (congrArg Host.Outcome.next (if_neg (Bool.eq_false_iff.1 ha)))
  case _ => -- molts and leaf blocks
    intro s w
    refine ⟨exec_molt_refused, exec_molt_starts, fun h _ => exec_moltStepDone_idle h, fun h => ?_, exec_leafBlockReserve_due, exec_leafBlockReserve_idle⟩
    have ends {k : Nat} {t : State} (hk : moltStep s = k) (h2 : k ≠ 2) (h5 : k ≠ 5) (ht : moltStepEnds s k = t) :
        exec (.moltStepDone true) s = .next t := (exec_moltStepDone_unlimited h hk h2 h5).trans (congrArg Host.Outcome.next ht)
    refine ⟨exec_moltStepDone_failed h, fun hk hf => ends hk (by decide) (by decide) (moltStepEnds_verified hf),
      fun c hk hf => ends hk (by decide) (by decide) (moltStepEnds_rejected hf),
      fun hk hs hx => ends hk (by decide) (by decide) (moltStepEnds_kerf hs hx), fun hk hs => ends hk (by decide) (by decide) (moltStepEnds_no_kerf hs),
      fun hk hl => ?_, exec_moltStepDone_late h, fun c => ?_, fun hk => ends hk (by decide) (by decide) rfl, fun hk => ends hk (by decide) (by decide) rfl⟩
    · rcases hk with hk | hk | hk <;> rw [hk] <;> exact exec_moltStepDone_in_time h hk hl
    · have core {t : State} (ht : moltCore s c.val = t) : exec (.moltStepDone true (some c)) s = .next t :=
        (exec_moltStepDone_core h).trans (congrArg Host.Outcome.next ht)
      exact ⟨fun h2 hc hl => core (moltCore_late h2 hc hl), fun h2 hc hl hlt => core (moltCore_moves h2 hc hl hlt),
        fun h2 hc hl he => core (moltCore_last h2 hc hl he), fun ho => core (moltCore_other ho)⟩
  case _ => -- updates, events and the endpoint while the management core answers
    intro s comp off data eid h
    refine ⟨exec_requestUpdate_molting h, exec_requestUpdate_busy h, fun ⟨hm, hu⟩ => exec_requestUpdate_image h hm hu,
      fun ⟨hm, hu⟩ => exec_requestUpdate_config h hm hu, fun ⟨hm, hu⟩ => exec_requestUpdate_other h hm hu,
      fun c hu hs hd ho => exec_firmwareDataTransfer_takes hu (takesData_iff.2 ⟨h, hs, hd, ho⟩),
      fun hn => ⟨exec_firmwareDataTransfer_same (.inr hn), exec_verifyComplete_same (.inr (.inr hn))⟩,
      fun c hu => exec_firmwareDataTransfer_too_long hu, fun hp => exec_verifyComplete_same (.inr (.inl hp)), fun hu hp hs => ?_, fun hu hp hs => ?_,
      fun hu hs => ⟨exec_activateFirmware_molts h hu hs, exec_activateFirmware_prefers h hu hs⟩,
      fun b hu hs => exec_activateFirmware_config h hu hs, fun b => exec_activateFirmware_unverified h,
      fun n rest => exec_platformEventMessage_sent h, exec_platformEventMessage_none, fun b => exec_mctpEidAssign_reached h,
      fun hr => exec_mctpEidAssign_unreached (.inr hr)⟩
    · have hb := not_verifyBarred h hp hs
      exact ⟨exec_verifyComplete_config_right hu hb, exec_verifyComplete_config_wrong hu hb⟩
    · have hb := not_verifyBarred h hp hs
      exact ⟨exec_verifyComplete_image_right hu hb, fun _ => exec_verifyComplete_image_wrong hu hb⟩
  case _ => -- the same while it does not
    exact fun s comp off data eid b h => ⟨exec_requestUpdate_down h, exec_firmwareDataTransfer_same (.inl h), exec_verifyComplete_same (.inl h),
      exec_activateFirmware_down h, exec_platformEventMessage_down h, fun _ => exec_mctpEidAssign_unreached (.inl h)⟩
  case _ => -- a way that does not answer, or has no session
    exact fun s v ext signed slot off len index nonce secret gen key => ⟨fun h => ⟨exec_negotiateAlgorithms_down h, exec_getCertificate_down h,
      exec_challenge_down h, exec_getMeasurements_down h, exec_keyExchange_down h⟩,
      fun h => ⟨exec_linkKeySet_none h, exec_linkKeyDrop_none h, exec_linkKeyQuery_none h⟩⟩
  case _ => -- a way that answers
    intro s v h
    refine ⟨⟨_, exec_negotiateAlgorithms_offers h, negotiated_withNegotiated, rfl, rfl⟩, exec_negotiateAlgorithms_plain h, ?_, fun gen key hs => ?_⟩
    · intro slot off len nonce secret index signed
      refine ⟨fun hn => ?_, fun hn hs => ?_, fun hn => ⟨exec_getCertificate_chain h hn, exec_challenge_signed h hn,
        fun hi => ⟨exec_getMeasurements_signed h hn (measurementIndex hi), exec_getMeasurements_unsigned h hn (measurementIndex hi)⟩,
        fun hlo hne => exec_getMeasurements_index h hn (noMeasurementIndex hlo hne), fun _ _ => exec_keyExchange_session h hn,
        exec_keyExchange_unsigned h hn⟩⟩
      · simp only [List.forall_mem_cons]
        exact ⟨exec_getCertificate_early h hn, exec_challenge_early h hn, exec_getMeasurements_early h hn, exec_keyExchange_early h hn, List.forall_mem_nil _⟩
      · simp only [List.forall_mem_cons]
        exact ⟨exec_getCertificate_slot h hn hs, exec_challenge_slot h hn hs, exec_keyExchange_slot h hn hs, List.forall_mem_nil _⟩
    · refine ⟨fun hm hg => ⟨_, exec_linkKeySet_set h hs hm hg, keysShow_rlkNew, keysShow_rlkOld, rd_keysShow_genNew rfl, rfl⟩, exec_linkKeySet_zero h hs,
        fun hm => ⟨_, exec_linkKeyDrop_erases h hs hm, keysShow_rlkNew, keysShow_rlkOld, rfl⟩, exec_linkKeyQuery_answers h hs,
        fun hm => ⟨exec_linkKeyQuery_other h hs hm, exec_linkKeyDrop_other h hs hm, exec_linkKeySet_other h hs hm⟩⟩

end Sys2Proof.Machine
end
